-- ==== Sys2Proof/Word.lean ====
section
/-! DEFINITION. The word types of the Holtaerun: bytes, 32-bit registers (R7) and 64-bit registers (R8). -/

namespace Sys2Proof

/-- One byte of memory or of a packet. -/
abbrev Byte := BitVec 8

/-- One BAR0 register: 32 bits wide, little-endian (R7). -/
abbrev Word := BitVec 32

/-- A 64-bit value over two aligned registers, low word first (R8). -/
abbrev Wide := BitVec 64

end Sys2Proof
end

