-- ==== Sys2Proof/Syntax.lean ====
section
/-! DEFINITION. The commands and events of the block: one constructor of Instr per row of spec/opcode_table.json, and the
operand types they carry. An operand is what the outside world brings: an address, a value, a sensor's reading, a flit, the
host memory that a transfer meets, the local time at which a timed event comes. -/

namespace Sys2Proof

/-- Host memory as a command meets it: the bytes the host holds now, and the address ranges [lo, hi) whose accesses fail
at the host (R124, HOST_ACCESS). -/
structure HostView where
  cells : List Host.Cell
  fails : List (Nat × Nat)
  deriving DecidableEq, Repr

/-- Names one command in flight by its queue and TAG (R120: a TAG is unique among a queue's commands in flight). -/
structure CmdRef where
  queue : Nat
  tag : Nat
  deriving DecidableEq, Repr

/-- PCIe AtomicOps BAR2 accepts, of 32 or 64 bits (R76). -/
inductive AtomicOp where
  | fetchAdd
  | swap
  | cas
  deriving DecidableEq, Repr

/-- The management transports of R82: the DOE mailbox, SMBus with the 7-bit address that a request names (R80), I3C. -/
inductive Transport where
  | doe
  | smbus (addr : Nat)
  | i3c
  deriving DecidableEq, Repr

/-- The protocols of Table 3-4. -/
inductive MgmtProtocol where
  | mctpControl
  | pldmBase
  | pldmPlatform
  | pldmUpdate
  | spdm
  deriving DecidableEq, Repr

/-- An IDE_KM message of a secured session (R78): the keys of one stream. -/
structure IdeKm where
  selective : Bool
  stream : Nat
  ranges : Nat
  key : List Byte
  deriving DecidableEq, Repr

/-- The algorithms an SPDM requester offers (R82). -/
structure SpdmAlgorithms where
  p521 : Bool
  sha512 : Bool
  secp521r1 : Bool
  aes256gcm : Bool
  deriving DecidableEq, Repr

/-- What a reach module reports in its serial presence data (R18). -/
structure ReachModule where
  gib : Nat
  gbps : Nat
  deriving DecidableEq, Repr

/-- One sample of the governor and of the sensors (R66, Table 3-5): watts at J1, 0.1 V, 0.1 °C. -/
structure SensorReading where
  watts : Nat
  inputDv : Nat
  inletDc : Nat
  outletDc : Nat
  junctionDc : Nat
  deriving DecidableEq, Repr

/-- A hallmark's loop delay, normalised (R57): none where the reading is unobtainable. -/
structure HallmarkReading where
  index : Nat
  delay : Option Nat
  deriving DecidableEq, Repr

/-- What the boot sequence meets (R564, R544): per hub ROM self-test, per flash slot whether its image verifies with its
SVN and ACTIVATION, the hallmark readings of the power-on plan, the coin cell, the presence data of the sockets, the bytes of keepsake that no longer
read as they were written (by offset, R147), the stacks that fail training (R312), and whether the tag of the owner blob verifies (R570). -/
structure BootInputs where
  hub0Passes : Bool
  hub1Passes : Bool
  slotAVerifies : Bool
  slotBVerifies : Bool
  readings : List HallmarkReading
  coinMv : Nat
  sockets : List (Nat × Option ReachModule)
  keepsakeDecay : List (Nat × Byte)
  failedStacks : List Nat
  blobVerifies : Bool
  deriving DecidableEq, Repr

/-- What a peer answers a request for the bytes of a set or adapter (R336): status 0 and the bytes, or the status that the
requester meets: LINK_DOWN, OUT_OF_RANGE for a mismatch, UNCORRECTABLE, POISONED. -/
structure PeerData where
  status : Nat
  bytes : List Byte
  deriving DecidableEq, Repr

/-- The commands and events of spec/opcode_table.json, one constructor per row, in the table's order. -/
inductive Instr where
  /-- NOP (R129): Command that does nothing and completes with SUCCESS. -/
  | nop (c : CmdRef) (hv : HostView)
  /-- QUEUE_CREATE (R106): Creates queue 1-63 bound to one function and berth, making its doorbell page live. -/
  | queueCreate (c : CmdRef) (hv : HostView)
  /-- QUEUE_DELETE (R107): Stops fetching from a queue, ends its in-flight commands with ABORTED and deletes it. -/
  | queueDelete (c : CmdRef) (hv : HostView)
  /-- ABORT (R118): Ends the in-flight command with a given queue and TAG at its next safe point with ABORTED. -/
  | abort (c : CmdRef) (hv : HostView)
  /-- GET_LOG (R584): Copies event-log records from FROM_SEQ matching a class mask to DST_ADDR. -/
  | getLog (c : CmdRef) (hv : HostView)
  /-- SERVICE_HOLD (R88): Puts the service hold in force: admission stops, non-admin commands refused, services yield at step boundaries. -/
  | serviceHold (c : CmdRef) (hv : HostView)
  /-- SERVICE_RESUME (R88): Releases the service hold. -/
  | serviceResume (c : CmdRef) (hv : HostView)
  /-- REACH_RELEASE (R92): Completes a reach socket's accesses, powers its module down and sets RELEASED unless it is still mapped. -/
  | reachRelease (c : CmdRef) (hv : HostView)
  /-- MARGIN_PLAN (R63): Makes a margin plan and either applies and records it or only reports it. -/
  | marginPlan (c : CmdRef) (hv : HostView)
  /-- POWER_STATE (R546): Quiesces, writes back the basin and drains the sluice, then enters OFF or STANDBY; RUN changes nothing. -/
  | powerState (c : CmdRef) (hv : HostView)
  /-- RESET_UNIT (R552): Resets one pavé, engine, port or the keeper complex, checking EXPECT_INC, and returns the new incarnation. -/
  | resetUnit (c : CmdRef) (hv : HostView)
  /-- QUIESCE (R553): Quiesces or releases a berth or the device: stops fetch, parks services, lets in-flight commands complete. -/
  | quiesce (c : CmdRef) (hv : HostView)
  /-- STAGE (R131): Writes up to 29 entries into the host chamber. -/
  | stage (c : CmdRef) (hv : HostView)
  /-- CHECK (R135): Judges the chamber laid over the current epoch by the CHECK rules and moves it to CHECKED or OPEN. -/
  | check (c : CmdRef) (hv : HostView)
  /-- COMMIT (R139): Delivers a checked chamber's settings to the units' pending sets and waits for its commit instant. -/
  | commit (c : CmdRef) (hv : HostView)
  /-- ABANDON (R133): Empties the host chamber. -/
  | abandon (c : CmdRef) (hv : HostView)
  /-- MATMUL (R165): Runs one matrix product on the pavés of its mask with epilogue and output conversion. -/
  | matmul (c : CmdRef) (hv : HostView)
  /-- MATMUL_GROUPED (R171): Runs a table of products sharing K, N and formats as one dealt sequence of tiles. -/
  | matmulGrouped (c : CmdRef) (hv : HostView)
  /-- ATTEND (R447): Rotates and writes new K and V into KV pages, then computes attention for each entry row. -/
  | attend (c : CmdRef) (hv : HostView)
  /-- VOP (R233): Runs one vector-engine operation over the rows of a matrix. -/
  | vop (c : CmdRef) (hv : HostView)
  /-- SAMPLE (R244): Draws one token and its log-probability per row of logits. -/
  | sample (c : CmdRef) (hv : HostView)
  /-- UPDATE (R506): Host-driven APPLY of optimizer updates to a context, or COMMIT of a lane generation. -/
  | update (c : CmdRef) (hv : HostView)
  /-- MOVE (R297): Runs a table of barges copying or laying out data between memories. -/
  | move (c : CmdRef) (hv : HostView)
  /-- INIT_FILL (R305): Writes a range by whole sectors with a repeated 8-byte pattern. -/
  | initFill (c : CmdRef) (hv : HostView)
  /-- NARROW_GATHER (R295): Reads scattered narrow elements into a packed array. -/
  | narrowGather (c : CmdRef) (hv : HostView)
  /-- NARROW_SCATTER (R295): Writes a packed array to scattered narrow element addresses. -/
  | narrowScatter (c : CmdRef) (hv : HostView)
  /-- ATOMIC (R289): Applies a table of atomic operations at the basin in index order. -/
  | atomic (c : CmdRef) (hv : HostView)
  /-- GATHER (R402): Collective assembling every member's shard into each member's destination. -/
  | gather (c : CmdRef) (hv : HostView)
  /-- REDUCE_SCATTER (R406): Collective summing GT contributions along fixed chains so each member receives its shard's sum. -/
  | reduceScatter (c : CmdRef) (hv : HostView)
  /-- PERMUTE (R419): Sends pieces to arbitrary devices and accepts arriving pieces into landing windows. -/
  | permute (c : CmdRef) (hv : HostView)
  /-- SEND (R421): Sends one message on VC14 to a pipeline neighbour. -/
  | send (c : CmdRef) (hv : HostView)
  /-- RECV (R421): Receives the matching message from a pipeline neighbour. -/
  | recv (c : CmdRef) (hv : HostView)
  /-- VOTE (R412): Casts and relays a vote record and completes with the AND of all members' bits. -/
  | vote (c : CmdRef) (hv : HostView)
  /-- SERVE_OPEN (R427): Opens a serving service by a service commit after checking its model descriptors. -/
  | serveOpen (c : CmdRef) (hv : HostView)
  /-- SERVE_CLOSE (R459): Closes a serving service by waiting for or cutting its sequences, then a service commit. -/
  | serveClose (c : CmdRef) (hv : HostView)
  /-- ADMIT (R433): Asks a service for one sequence and answers with the first admission outcome that holds. -/
  | admitSequence (c : CmdRef) (hv : HostView)
  /-- ROLLOUT (R461): Places a rollout run's sequences in the service's backlog. -/
  | rollout (c : CmdRef) (hv : HostView)
  /-- SEQ_CANCEL (R454): Ends a sequence at once if HELD, otherwise at the next step boundary. -/
  | seqCancel (c : CmdRef) (hv : HostView)
  /-- WEIGHTS_LOAD (R337): Reserves a set slot by commit and starts reading the set's bytes from its source. -/
  | weightsLoad (c : CmdRef) (hv : HostView)
  /-- WEIGHTS_DROP (R348): Commits a set to DROPPING and waits for or cuts its pins before release. -/
  | weightsDrop (c : CmdRef) (hv : HostView)
  /-- ADAPTER_LOAD (R352): Loads an adapter into a slot and activates it as the LIVE slot of its NAME. -/
  | adapterLoad (c : CmdRef) (hv : HostView)
  /-- ADAPTER_DROP (R358): Commits a NAME's LIVE adapter slot to RETIRING. -/
  | adapterDrop (c : CmdRef) (hv : HostView)
  /-- SCORE (R540): Opens a score service that writes rewards to rollout records by model or from the host. -/
  | score (c : CmdRef) (hv : HostView)
  /-- TRAIN_STEP (R464): Opens a training service running STEPS training steps by a service commit. -/
  | trainStep (c : CmdRef) (hv : HostView)
  /-- TRAIN_CLOSE (R489): Ends a training service after its decision or at the next operation boundary. -/
  | trainClose (c : CmdRef) (hv : HostView)
  /-- CHECKPOINT (R511): Starts exporting a context's live slot as a checkpoint image. -/
  | checkpoint (c : CmdRef) (hv : HostView)
  /-- CHECKPOINT_IMPORT (R513): Writes a checkpoint image into a context's slot and optionally sets the lane generation. -/
  | checkpointImport (c : CmdRef) (hv : HostView)
  /-- TURN (R524): Starts a turn between generation and learning with its first commit. -/
  | turn (c : CmdRef) (hv : HostView)
  /-- PREEMPT (R521): Parks, resumes or sets the share of a service, or abandons its turn. -/
  | preempt (c : CmdRef) (hv : HostView)
  /-- LIFECYCLE_SET (R572): Performs a life-cycle action authorised by record or envelope. -/
  | lifecycleSet (c : CmdRef) (hv : HostView)
  /-- DEBUG_TOKEN (R573): Enters SERVICE_DEBUG or owner debug mode under a signed record. -/
  | debugToken (c : CmdRef) (hv : HostView)
  /-- LOCKET_WIPE (R269): Wipes the locket and returns the new WIPES count. -/
  | locketWipe (c : CmdRef) (hv : HostView)
  /-- REPLAY (R593): Re-runs a logbook window from a MARK and compares output fingerprints. -/
  | replay (c : CmdRef) (hv : HostView)
  /-- LOGBOOK_CTRL (R591): Starts or stops logbook recording, or records a MARK. -/
  | logbookCtrl (c : CmdRef) (hv : HostView)
  /-- SELF_TEST (R596): Tests a pavé or engine against reference results and returns it to service or fences it. -/
  | selfTest (c : CmdRef) (pass : Bool) (hv : HostView)
  /-- PACKET_FETCH (R123): Keeper fetches a fully posted packet from a submission ring and checks it in order. -/
  | packetFetch (q : Nat) (now : Nat) (hv : HostView)
  /-- FENCED_COMMAND_START (R114): A command held by FENCE_BEFORE or FENCE_AFTER starts once its fence clears. -/
  | fencedCommandStart (c : CmdRef) (now : Nat)
  /-- COMMAND_COMPLETION (R115): A command finishes and its status reply is written to the completion ring. -/
  | commandCompletion (c : CmdRef) (now : Nat) (hv : HostView)
  /-- COMMAND_TIMEOUT (R117): A command's TIMEOUT expires and it is abandoned at its next safe point with TIMED_OUT. -/
  | commandTimeout (c : CmdRef) (now : Nat)
  /-- QUEUE_FENCE (R124): A queue reaches 64 class-1 refusals or 16 bad doorbells within 1 s and enters FENCED. -/
  | queueFence (q : Nat) (now : Nat)
  /-- SQ_TAIL_WRITE (R108): Doorbell write of a submission ring tail, judged against head and tail. -/
  | sqTailWrite (fn : Nat) (q : Nat) (v : Word) (now : Nat)
  /-- CQ_HEAD_WRITE (R110): Doorbell write of a completion ring head, freeing entries for held replies. -/
  | cqHeadWrite (fn : Nat) (q : Nat) (v : Word) (now : Nat)
  /-- QUEUE_RESET (R111): QUEUE_CTRL RESET drains a queue and returns its positions and phase to creation values. -/
  | queueReset (fn : Nat) (q : Nat)
  /-- HELLO (R126): HELLO_CTRL GO submits a HELLO request that negotiates revision and features and creates queue 0 on PF0. -/
  | hello (fn : Nat) (v : Word)
  /-- STAGING_WINDOW_WRITE (R131): A write of a chamber entry through the BAR0 staging window. -/
  | stagingWindowWrite (addr : Nat) (v : Word)
  /-- CHAMBER_STATUS_READ (R132): A read of CHAMBER_STATUS that returns only after every earlier window write reached the lockage arbiter. -/
  | chamberStatusRead (fn : Nat)
  /-- W1C_CLEAR (R53): A write of ones to a W1C register clears the flags granted before it. -/
  | w1cClear (fn : Nat) (addr : Nat) (v : Word)
  /-- WIDE_LOW_WORD_READ (R8): A read of a 64-bit register's low word captures the high word into a holding copy. -/
  | wideLowWordRead (fn : Nat) (addr : Nat)
  /-- WIDE_HIGH_WORD_WRITE (R8): A write of a 64-bit register's high word applies it together with the held low word. -/
  | wideHighWordWrite (fn : Nat) (addr : Nat) (v : Word)
  /-- UNALIGNED_BAR0_ACCESS (R9): A BAR0 access that is not an aligned 32- or 64-bit access completes without effect and is logged. -/
  | unalignedBar0Access (fn : Nat) (addr : Nat) (size : Nat) (write : Bool)
  /-- REGISTER_WRITE (R10): A write to a register with no behaviour of its own, applied or discarded per its access code. -/
  | registerWrite (fn : Nat) (addr : Nat) (v : Word)
  /-- ASSAY_CLEAR (R198): ASSAY_CTRL CLEAR zeroes an assay slot's counters, FORMAT and MIXED. -/
  | assayClear (slot : Nat) (v : Word)
  /-- HIST_ADVANCE (R202): HIST_CTRL ADVANCE closes a scale-history step and computes CURRENT once its commands complete. -/
  | histAdvance (slot : Nat) (v : Word)
  /-- HIST_RESET (R202): HIST_CTRL RESET discards a slot's history once earlier commands and advances have taken effect. -/
  | histReset (slot : Nat) (v : Word)
  /-- LOCATE_CTRL_WRITE (R90): A write of LOCATE_CTRL sets the locate setting. -/
  | locateCtrlWrite (v : Word)
  /-- COLL_RELEASE (R418): COLL_CTRL RELEASE frees every retained range of the named groups. -/
  | collRelease (v : Word)
  /-- PORT_RETRAIN (R382): PORT_CTRL RETRAIN retrains an up port or starts bring-up of a down or refused one. -/
  | portRetrain (p : Nat) (v : Word)
  /-- PORT_UNFENCE (R390): PORT_CTRL UNFENCE ends a port's FENCED state. -/
  | portUnfence (p : Nat) (v : Word)
  /-- PORT_HOLD (R374): PORT_CTRL HOLD takes a port down and holds it in HELD. -/
  | portHold (p : Nat) (v : Word)
  /-- PORT_RELEASE (R368): PORT_CTRL RELEASE ends HELD so bring-up can follow. -/
  | portRelease (p : Nat) (v : Word)
  /-- RESET_CTRL_COLD (R549): RESET_CTRL with key and COLD starts a cold reset. -/
  | resetCtrlCold (v : Word)
  /-- RESET_CTRL_WARM (R551): RESET_CTRL with key and WARM starts a warm reset with the PCIe link held up. -/
  | resetCtrlWarm (v : Word)
  /-- ADAPTER_VIEW_READ (R361): A read of ADAPTER_VIEW's first word captures the selected adapter slot's record. -/
  | adapterViewRead
  /-- MANIFEST_VIEW_READ (R463): A read of MANIFEST_VIEW's first word captures the selected manifest entry. -/
  | manifestViewRead
  /-- ACC_VIEW_READ (R225): A read through the debug window returns C-bank contents of the viewed pavé. -/
  | accViewRead (off : Nat)
  /-- BAR2_READ (R74): A host read of the basin scratchpad or a stack aperture through BAR2. -/
  | bar2Read (fn : Nat) (off : Nat) (len : Nat)
  /-- BAR2_WRITE (R74): A host write of the basin scratchpad or a stack aperture through BAR2. -/
  | bar2Write (fn : Nat) (off : Nat) (bytes : List Byte)
  /-- BAR2_ATOMICOP (R293): A PCIe AtomicOp through BAR2 executed as one device atomic. -/
  | bar2Atomicop (fn : Nat) (off : Nat) (op : AtomicOp) (operands : List Byte)
  /-- PERST_N_ASSERT (R549): Host asserts PERST_N, causing a cold reset. -/
  | perstNAssert
  /-- PERST_N_RELEASE (R544): Host releases PERST_N, taking the device from STANDBY to IDLE. -/
  | perstNRelease
  /-- PCIE_HOT_RESET (R549): A PCIe hot reset or link disable causes a warm reset. -/
  | pcieHotReset
  /-- FLR_PF0 (R549): A function-level reset of PF0 causes a warm reset. -/
  | flrPf0
  /-- FLR_VF (R551): A function-level reset of a VF performs a per-function reset. -/
  | flrVf (fn : Nat)
  /-- COLD_RESET (R550): Whole-device reset restoring keepsake settings, clearing memories and setting incarnations to 1. -/
  | coldReset (boot : BootInputs)
  /-- WARM_RESET (R550): Whole-device reset keeping local time and LK settings, after basin write-back. -/
  | warmReset (boot : BootInputs)
  /-- PER_FUNCTION_RESET (R550): Resets one VF: deletes its queues, closes its services and drops its adapters. -/
  | perFunctionReset (fn : Nat)
  /-- KEEPER_COMPLEX_RESET (R550): Resets all keepers and their services, ending in-flight commands with TARGET_RESTARTED. -/
  | keeperComplexReset
  /-- KEEPER_FIRMWARE_FAULT (R549): A fault of the keeper firmware triggers a reset of the keeper complex. -/
  | keeperFirmwareFault
  /-- KEEPER_BANK_PARITY (R262): A keeper-bank parity error resets that keeper, widened to the complex if it hosts a service. -/
  | keeperBankParity (keeper : Nat)
  /-- IDE_KM (R78): IDE keys delivered in a secured SPDM session are placed in the locket. -/
  | ideKm (session : Nat) (msg : IdeKm)
  /-- DOE_DISCOVERY (R79): DOE Discovery request on PF0's mailbox answered with the supported object types. -/
  | doeDiscovery (index : Nat)
  /-- PWR_EN_RISE (R29): PWR_EN rises with the input above 42.0 V, raising PWRGD and leaving OFF where permitted. -/
  | pwrEnRise (now : Nat)
  /-- PWR_EN_FALL (R29): PWR_EN falls, forcing OFF as a power-fail. -/
  | pwrEnFall (now : Nat)
  /-- POWER_FAIL (R21): Input falls below 38.0 V: the power-fail record is written and every rail but keepsake removed. -/
  | powerFail
  /-- INPUT_ABOVE_42V (R20): Input rises above 42.0 V, allowing the device to leave OFF. -/
  | inputAbove42v
  /-- INPUT_LOW_BAND (R20): Input enters 38.0-40 V while running; the cap is scaled and an input-low event logged. -/
  | inputLowBand (dv : Nat)
  /-- INPUT_HIGH_BAND (R20): Input enters 60-62.0 V; an input-high event is logged. -/
  | inputHighBand (dv : Nat)
  /-- INPUT_OVERVOLTAGE (R20): Input rises above 62.0 V; conversion stops, the device enters OFF and keepsake records it. -/
  | inputOvervoltage
  /-- RAIL_OUT_OF_REGULATION (R29): A rail leaves regulation and PWRGD falls within 5 µs. -/
  | railOutOfRegulation
  /-- POWER_UP_TO_IDLE (R544): Path from OFF or STANDBY into IDLE: boot, clearing, keepsake restore, unsealing, margin plan and memory bring-up. -/
  | powerUpToIdle (boot : BootInputs)
  /-- IDLE_TO_ACTIVE (R545): Work for a pavé or engine wakes the device from IDLE and the beat ring starts. -/
  | idleToActive
  /-- IDLE_DELAY_EXPIRY (R544): No pavé or engine work for IDLE_DELAY moves the device from ACTIVE to IDLE. -/
  | idleDelayExpiry (now : Nat)
  /-- POWER_STATE_ENTRY (R546): Within 1 ms after POWER_STATE's reply the device enters OFF or STANDBY. -/
  | powerStateEntry (now : Nat)
  /-- DIE_GATE (R547): A compute die is gated once older-epoch operations have left its units. -/
  | dieGate (die : Nat)
  /-- DIE_UNGATE (R548): A die leaving gating is powered and clears its banks before taking commands. -/
  | dieUngate (die : Nat)
  /-- INLET_WARNING (R26): Inlet thermistor exceeds 42 °C and a warning event is raised. -/
  | inletWarning (dc : Nat)
  /-- THERMAL_LIMIT (R26): A junction reaches 95 °C and the governor lowers the pace ceiling. -/
  | thermalLimit (dc : Nat)
  /-- THERMAL_HARD_BREACH (R26): A junction reaches 105 °C and the pavés pause at a beat boundary. -/
  | thermalHardBreach (dc : Nat)
  /-- THERMAL_RESUME (R26): Every junction falls below 100 °C and a thermal pause ends. -/
  | thermalResume (dc : Nat)
  /-- THERMAL_TRIP (R26): A junction reaches 115 °C or a thermistor is lost; rails are removed and THERM_N driven low. -/
  | thermalTrip (lost : Bool)
  /-- OSCILLATOR_LOST (R35): Reference oscillator stops or drifts; local timer stops, fatal error raised, ports taken down. -/
  | oscillatorLost
  /-- GOVERNOR_SAMPLE (R66): Every 100 µs the governor samples power and junctions and adjusts setpoint and pace. -/
  | governorSample (r : SensorReading) (now : Nat)
  /-- PACE_WINDOW (R42): Each 1,000-unit window ends and PACE_NOW takes its beat count. -/
  | paceWindow (now : Nat)
  /-- BEAT (R41): A beat completes once every pavé and engine in service has acknowledged it. -/
  | beat (n : Nat) (upsets : List Nat) (now : Nat)
  /-- BEAT_WATCHDOG (R178): A beat not completed after 10 µs outside a pause fences the units that have not acknowledged. -/
  | beatWatchdog (late : List Nat) (now : Nat)
  /-- PAVE_FAULT (R150): A pavé array fault fences the whole pavé and ends its command with UNIT_FAULT. -/
  | paveFault (n : Nat) (fault : Nat)
  /-- ENGINE_FAULT (R232): A vector engine fault fences the engine. -/
  | engineFault (n : Nat) (fault : Nat)
  /-- RESIDUE_FENCE (R246): A second residue disagreement on one engine within 1 s fences that engine. -/
  | residueFence (n : Nat) (now : Nat)
  /-- BANK_OWNER_FENCE (R255): 16 parity errors in a bank within 1 s fence the bank's owner. -/
  | bankOwnerFence (die : Nat) (bank : Nat) (now : Nat)
  /-- BANK_CLEAR (R260): A moved or reset unit's banks are cleared once older-epoch work has left them. -/
  | bankClear (die : Nat) (bank : Nat)
  /-- OPERATING_HOUR_TICK (R58): An hour of powered local time passes; at multiples of 500 a new margin plan is made. -/
  | operatingHourTick (now : Nat)
  /-- MARGIN_PLAN_DONE (R62): A margin plan is complete, written to keepsake and applied by slewing supplies. -/
  | marginPlanDone (readings : List HallmarkReading) (now : Nat)
  /-- COIN_CELL_MEASURE (R38): Every 24 hours and at power-on the coin cell is measured and low or absent events raised. -/
  | coinCellMeasure (mv : Nat) (now : Nat)
  /-- LOCATE_PRESS (R87): LOCATE button press toggles locate. -/
  | locatePress (ms : Nat)
  /-- SERVICE_PRESS (R87): SERVICE button press raises or withdraws a service request or releases a hold. -/
  | servicePress (ms : Nat) (now : Nat)
  /-- SERVICE_LONG (R87): SERVICE held for 10 s forces a service hold. -/
  | serviceLong (now : Nat)
  /-- CELL_SERVICE (R99): SERVICE and LOCATE held for 3 s begin coin-cell service. -/
  | cellService (now : Nat)
  /-- SERVICE_REQUEST_LAPSE (R88): A service request not taken up by SERVICE_HOLD lapses after 120 s. -/
  | serviceRequestLapse (now : Nat)
  /-- CELL_INSERTED (R99): A cell inserted during cell service is measured, ending service with CELL_REPLACED or setting CELL_LOW. -/
  | cellInserted (mv : Nat) (now : Nat)
  /-- CELL_SERVICE_TIMEOUT (R99): Cell service ends without a cell after 10 min and sets CELL_ABSENT. -/
  | cellServiceTimeout (now : Nat)
  /-- PAD_TOUCH (R91): A counted touch on a reach socket pad acts on the socket per its state. -/
  | padTouch (socket : Nat) (ms : Nat)
  /-- REACH_INSERT (R18): A reach module is inserted, its presence data read and it is brought up or refused. -/
  | reachInsert (socket : Nat) (spd : Option ReachModule)
  /-- REACH_REMOVE (R93): A reach module leaves its socket; outside RELEASED, POWERED or REFUSED it is a surprise removal. -/
  | reachRemove (socket : Nat)
  /-- FIBRE_CHANGE (R94): A fibre-presence sensor changes; an absent sensor takes its port down. -/
  | fibreChange (sensor : Nat) (present : Bool) (now : Nat)
  /-- LID_OPEN (R575): Lid opened while powered: locket wiped, debug mode ended, tamper record written. -/
  | lidOpen
  /-- LID_CLOSE (R96): Lid closed; LID_CLOSE is set. -/
  | lidClose
  /-- LID_OPEN_UNPOWERED (R576): Coin-cell logic sees the lid open while unpowered, zeroes OWNER_BLOB and writes a tamper record. -/
  | lidOpenUnpowered
  /-- LOCKET_PARITY_ERROR (R265): A parity error in either locket triggers a wipe. -/
  | locketParityError (hub : Nat)
  /-- SET_ENDPOINT_ID (R80): MCTP control request setting the endpoint ID. -/
  | setEndpointId (t : Transport) (eid : Nat)
  /-- GET_ENDPOINT_ID (R81): MCTP control request returning the endpoint ID. -/
  | getEndpointId (t : Transport)
  /-- GET_ENDPOINT_UUID (R81): MCTP control request returning the endpoint UUID. -/
  | getEndpointUuid (t : Transport)
  /-- GET_MCTP_VERSION_SUPPORT (R81): MCTP control request returning supported versions. -/
  | getMctpVersionSupport (t : Transport)
  /-- GET_MESSAGE_TYPE_SUPPORT (R81): MCTP control request returning supported message types. -/
  | getMessageTypeSupport (t : Transport)
  /-- GET_TID (R81): PLDM type 0 request returning the terminus ID. -/
  | getTid (t : Transport)
  /-- GET_PLDM_VERSION (R81): PLDM type 0 request returning PLDM versions. -/
  | getPldmVersion (t : Transport) (type : Nat)
  /-- GET_PLDM_TYPES (R81): PLDM type 0 request returning supported types. -/
  | getPldmTypes (t : Transport)
  /-- GET_PLDM_COMMANDS (R81): PLDM type 0 request returning supported commands. -/
  | getPldmCommands (t : Transport) (type : Nat)
  /-- GET_PDR (R84): PLDM type 2 request returning a PDR of the repository. -/
  | getPdr (t : Transport) (handle : Nat)
  /-- GET_PDR_REPOSITORY_INFO (R84): PLDM type 2 request returning repository information. -/
  | getPdrRepositoryInfo (t : Transport)
  /-- GET_SENSOR_READING (R84): PLDM type 2 request returning a numeric sensor reading. -/
  | getSensorReading (t : Transport) (id : Nat)
  /-- GET_STATE_SENSOR_READINGS (R84): PLDM type 2 request returning state sensor readings. -/
  | getStateSensorReadings (t : Transport) (id : Nat)
  /-- SET_NUMERIC_EFFECTER_VALUE (R85): Sets the management power limit, refused outside the cap range. -/
  | setNumericEffecterValue (t : Transport) (id : Nat) (v : Nat)
  /-- GET_NUMERIC_EFFECTER_VALUE (R84): Returns the management power limit. -/
  | getNumericEffecterValue (t : Transport) (id : Nat)
  /-- SET_STATE_EFFECTER_STATES (R90): Sets the locate state through PLDM effecter 65. -/
  | setStateEffecterStates (t : Transport) (id : Nat) (v : Nat)
  /-- SET_EVENT_RECEIVER (R84): Sets the receiver of PlatformEventMessage. -/
  | setEventReceiver (t : Transport) (receiver : Nat)
  /-- QUERY_DEVICE_IDENTIFIERS (R81): PLDM type 5 request returning device identifiers. -/
  | queryDeviceIdentifiers (t : Transport)
  /-- GET_FIRMWARE_PARAMETERS (R81): PLDM type 5 request returning firmware parameters. -/
  | getFirmwareParameters (t : Transport)
  /-- REQUEST_UPDATE (R567): Begins a firmware update, refusing LIFECYCLE_SET and DEBUG_TOKEN until it ends. -/
  | requestUpdate (t : Transport)
  /-- PASS_COMPONENT_TABLE (R567): PLDM type 5 request passing the component table for the hub image. -/
  | passComponentTable (t : Transport) (component : Nat)
  /-- UPDATE_COMPONENT (R567): Starts update of the hub firmware component, zeroing the inactive slot's ACTIVATION. -/
  | updateComponent (t : Transport) (component : Nat) (size : Nat)
  /-- REQUEST_FIRMWARE_DATA (R567): Firmware data received is written into the slot that did not boot. -/
  | requestFirmwareData (t : Transport) (off : Nat) (bytes : List Byte)
  /-- VERIFY_COMPLETE (R567): Verification of the written image ends and its result is reported. -/
  | verifyComplete (t : Transport)
  /-- ACTIVATE_FIRMWARE (R567): Sets the new slot's ACTIVATION above the other so it boots at the next reset. -/
  | activateFirmware (t : Transport)
  /-- GET_STATUS (R81): PLDM type 5 request returning update status. -/
  | getStatus (t : Transport)
  /-- CANCEL_UPDATE_COMPONENT (R81): Cancels the component update in progress. -/
  | cancelUpdateComponent (t : Transport)
  /-- CANCEL_UPDATE (R567): Cancels the firmware update. -/
  | cancelUpdate (t : Transport)
  /-- MGMT_UNSUPPORTED_COMMAND (R81): An unsupported command in a supported type is answered with the standard's error. -/
  | mgmtUnsupportedCommand (t : Transport) (protocol : MgmtProtocol) (cmd : Nat)
  /-- GET_VERSION (R81): SPDM request returning supported versions. -/
  | getVersion (t : Transport) (wellFormed : Bool) (now : Nat)
  /-- GET_CAPABILITIES (R81): SPDM request returning capabilities. -/
  | getCapabilities (t : Transport) (wellFormed : Bool) (now : Nat)
  /-- NEGOTIATE_ALGORITHMS (R82): SPDM request agreeing P-521, SHA-512 and AES-256-GCM. -/
  | negotiateAlgorithms (t : Transport) (offered : SpdmAlgorithms) (wellFormed : Bool) (now : Nat)
  /-- GET_DIGESTS (R568): SPDM request returning certificate chain digests. -/
  | getDigests (t : Transport) (wellFormed : Bool) (now : Nat)
  /-- GET_CERTIFICATE (R568): SPDM request returning the certificate chain of slot 0. -/
  | getCertificate (t : Transport) (slot : Nat) (off : Nat) (len : Nat) (wellFormed : Bool) (now : Nat)
  /-- CHALLENGE (R568): SPDM challenge answered with a signet signature. -/
  | challenge (t : Transport) (slot : Nat) (nonce : List Byte) (wellFormed : Bool) (now : Nat)
  /-- GET_MEASUREMENTS (R569): SPDM request returning the measurement blocks. -/
  | getMeasurements (t : Transport) (index : Nat) (nonce : List Byte) (wellFormed : Bool) (now : Nat)
  /-- KEY_EXCHANGE (R82): SPDM key exchange opening a session, refused beyond four per transport. -/
  | keyExchange (t : Transport) (share : List Byte) (wellFormed : Bool) (now : Nat)
  /-- FINISH (R82): SPDM request finishing session establishment. -/
  | finish (t : Transport) (session : Nat) (wellFormed : Bool) (now : Nat)
  /-- HEARTBEAT (R81): SPDM session heartbeat. -/
  | heartbeat (t : Transport) (session : Nat) (wellFormed : Bool) (now : Nat)
  /-- KEY_UPDATE (R81): SPDM session key update. -/
  | keyUpdate (t : Transport) (session : Nat) (wellFormed : Bool) (now : Nat)
  /-- END_SESSION (R81): SPDM request ending a session. -/
  | endSession (t : Transport) (session : Nat) (wellFormed : Bool) (now : Nat)
  /-- SPDM_FENCE (R83): 64 SPDM error responses within 10 s make the transport answer Busy for 10 s. -/
  | spdmFence (t : Transport) (now : Nat)
  /-- SPDM_FENCE_EXPIRY (R83): The 10 s SPDM fence on a transport ends. -/
  | spdmFenceExpiry (t : Transport) (now : Nat)
  /-- BRING_UP_START (R368): After 2 s of sensors present with adequate feed, a port enters TRAINING. -/
  | bringUpStart (p : Nat) (now : Nat)
  /-- LANE_JUDGE_DONE (R387): The 1 ms lane judging window ends and a WIDTH flit reports good receive lanes. -/
  | laneJudgeDone (p : Nat) (good : Nat) (now : Nat)
  /-- WIDTH_FLIT (R388): A WIDTH flit sets a direction's width from the named SEQ. -/
  | widthFlit (p : Nat) (bytes : List Byte) (now : Nat)
  /-- IDENT_FLIT (R372): An IDENT flit agrees the revision and judges the peer against the current epoch. -/
  | identFlit (p : Nat) (bytes : List Byte) (now : Nat)
  /-- CREDIT_INIT_FLIT (R384): A CREDIT_INIT flit sets credit counts, completing bring-up to UP or RESTRICTED. -/
  | creditInitFlit (p : Nat) (bytes : List Byte) (now : Nat)
  /-- RETRAIN_FLIT (R382): A RETRAIN flit from the peer retrains the link. -/
  | retrainFlit (p : Nat) (bytes : List Byte) (now : Nat)
  /-- IDLE_FLIT (R380): An IDLE flit carries an acknowledgement and credits only. -/
  | idleFlit (p : Nat) (bytes : List Byte) (now : Nat)
  /-- DATA_FLIT (R381): A DATA flit is accepted, discarded, NAKed or forwarded according to its sequence number and route. -/
  | dataFlit (p : Nat) (bytes : List Byte) (now : Nat)
  /-- FLIT_CRC_FAILURE (R377): A flit whose CRC fails is discarded whole and treated as a gap. -/
  | flitCrcFailure (p : Nat) (now : Nat)
  /-- NAK_REPEAT (R381): Every 2 µs a receiver repeats its NAK until the expected SEQ arrives. -/
  | nakRepeat (p : Nat) (now : Nat)
  /-- NAK_LIMIT (R382): The same SEQ NAKed 16 times in a row retrains the port. -/
  | nakLimit (p : Nat) (now : Nat)
  /-- ACK_STALL (R382): ACK not advancing for 100 µs with flits kept retrains the port. -/
  | ackStall (p : Nat) (now : Nat)
  /-- RETRAIN_DONE (R382): A link retrain ends, re-judging lanes and setting widths. -/
  | retrainDone (p : Nat) (good : Nat) (now : Nat)
  /-- LANE_FAIL (R387): A lane in service loses lock or exceeds its uncorrectable codeword limit, reducing the width. -/
  | laneFail (p : Nat) (lane : Nat) (now : Nat)
  /-- IDENT_TIMEOUT (R369): No IDENT within 100 ms fails bring-up. -/
  | identTimeout (p : Nat) (now : Nat)
  /-- BRING_UP_RETRY (R369): 1 s after a failed bring-up the port starts again. -/
  | bringUpRetry (p : Nat) (now : Nat)
  /-- LINK_SILENCE (R391): No flit passing CRC for 10 µs takes the link down. -/
  | linkSilence (p : Nat) (now : Nat)
  /-- LASER_FEED_READING (R366): Every 1 ms the feed power is read, setting LASER_LOW or taking the port down. -/
  | laserFeedReading (p : Nat) (reading : Int) (now : Nat)
  /-- PORT_FENCE (R390): 64 violations within 1 s fence a port. -/
  | portFence (p : Nat) (now : Nat)
  /-- VC_REPARTITION (R385): Once changed VCs hold no flit, CREDIT_INIT is sent with the new partition. -/
  | vcRepartition (p : Nat) (now : Nat)
  /-- MESSAGE_DELIVERED (R378): A message's END flit is accepted and it is delivered, or discarded for a stale TARGET_INC. -/
  | messageDelivered (p : Nat) (now : Nat)
  /-- LINK_NOTICE_RESTARTED (R378): A RESTARTED notice ends the sender's operation with TARGET_RESTARTED. -/
  | linkNoticeRestarted (p : Nat) (now : Nat)
  /-- PATH_BROKEN (R392): A PATH_BROKEN notice reports a forwarded message discarded by a link-down. -/
  | pathBroken (p : Nat) (now : Nat)
  /-- CHAIN_MESSAGE (R407): A reduce-scatter chain message is added to own blocks and passed on, or finished at the owner. -/
  | chainMessage (p : Nat) (now : Nat)
  /-- GATHER_PIECE (R404): A gather piece is widened into the destination and relayed onward. -/
  | gatherPiece (p : Nat) (now : Nat)
  /-- VOTE_RECORD (R412): A vote record is held, relayed and may complete the vote. -/
  | voteRecord (p : Nat) (now : Nat)
  /-- PIPELINE_MESSAGE (R421): A VC14 message is matched to its RECV or held in receive slots. -/
  | pipelineMessage (p : Nat) (now : Nat)
  /-- PERMUTE_PIECE (R420): A permute piece is written into a landing window or discarded. -/
  | permutePiece (p : Nat) (now : Nat)
  /-- ABORT_NOTICE (R423): A collective abort notice is relayed once and ends or records the collective. -/
  | abortNotice (p : Nat) (now : Nat)
  /-- COLL_DEADLINE (R422): An expected collective message misses its deadline. -/
  | collDeadline (group : Nat) (seq : Nat) (now : Nat)
  /-- PEER_SET_REQUEST (R336): A peer's load or repair request is served from a matching resident slot or answered with a mismatch. -/
  | peerSetRequest (p : Nat) (now : Nat)
  /-- TURN_PIECE (R529): A turn piece arriving in TRANSFER is placed in the new set, or waits or is discarded. -/
  | turnPiece (p : Nat) (now : Nat)
  /-- INTERFACE_PARITY_RETRY (R311): A stack or reach transfer whose parity fails is repeated up to four times. -/
  | interfaceParityRetry (ctrl : Nat)
  /-- INTERFACE_RETRAIN (R312): After a fifth failure the controller holds requests and retrains; a failure fails the stack or loses the socket. -/
  | interfaceRetrain (ctrl : Nat) (now : Nat)
  /-- CORRECTED_WRITE_BACK (R315): A corrected sector is written back unless a newer write was granted. -/
  | correctedWriteBack (addr : Nat) (lane : Nat)
  /-- BUCKET_LEAK (R320): At each INTERVAL the leaky bucket loses one and on-die counts are polled. -/
  | bucketLeak (ctrl : Nat) (ondie : Nat) (now : Nat)
  /-- BUCKET_OVERFLOW (R321): An event raising the bucket above THRESHOLD zeroes it and writes a record. -/
  | bucketOverflow (ctrl : Nat) (now : Nat)
  /-- BASIN_CRC_MISMATCH (R317): A basin line's CRC fails: clean lines are refetched, others are marked poisoned. -/
  | basinCrcMismatch (addr : Nat)
  /-- SLUICE_EVICT (R285): A sluice entry is evicted and its sectors written with merges. -/
  | sluiceEvict (line : Nat)
  /-- BASIN_SEGMENT_CHANGE (R283): After older-epoch work leaves it, a segment is written back, zeroed and invalidated for its new use. -/
  | basinSegmentChange (hub : Nat) (seg : Nat)
  /-- WEIR_WINDOW (R306): A 10 µs regulation window ends and weir grants restart. -/
  | weirWindow (now : Nat)
  /-- REPAIR_OPEN (R325): An uncorrectable read in a resident set opens a repair of its stack line. -/
  | repairOpen (addr : Nat) (now : Nat)
  /-- REPAIR_SOURCE_DATA (R326): The source line arrives, is written and read back, closing the repair or damaging the set. -/
  | repairSourceData (line : Nat) (peer : PeerData) (outcome : Nat) (now : Nat) (hv : HostView)
  /-- REPAIR_DEADLINE (R327): A repair still open after DEADLINE ms makes its set DAMAGED. -/
  | repairDeadline (line : Nat) (now : Nat)
  /-- BUDGET_REFILL (R436): Every 1 ms each budget account gains REFILL up to CAP. -/
  | budgetRefill (now : Nat)
  /-- SERVE_STEP_COMPLETE (R437): A serving batch step completes, debits accounts and advances or ends sequences. -/
  | serveStepComplete (svc : Nat) (now : Nat) (hv : HostView)
  /-- STEP_BUILD (R439): The step builder releases held requests and builds the next step from candidates. -/
  | stepBuild (svc : Nat) (now : Nat) (hv : HostView)
  /-- TRAIN_STEP_START (R470): A training step begins: assay cleared and step table checked. -/
  | trainStepStart (t : Nat) (now : Nat) (hv : HostView)
  /-- POUND_ENTRY (R475): A pound entry arrives and the stage's next operation can run. -/
  | poundEntry (t : Nat) (p : Nat) (now : Nat)
  /-- PASS_END (R483): PASS_END is relayed and any invalid micro-batches scheduled for another pass. -/
  | passEnd (t : Nat) (p : Nat) (now : Nat)
  /-- MICRO_RERUN_DELAY (R483): 1 ms after PASS_END names invalid micro-batches, a new pass starts. -/
  | microRerunDelay (t : Nat) (now : Nat)
  /-- STEP_FINITE_RESULT (R485): The step's FINITE vote completes; result 0 skips the step. -/
  | stepFiniteResult (t : Nat) (now : Nat)
  /-- STEP_DECISION (R486): The COMMIT vote decides 1: lane generation written, E raised, retention released, history advanced. -/
  | stepDecision (t : Nat) (ratios : List (List (List (Nat × Nat)))) (now : Nat)
  /-- ATTEMPT_RETRY (R487): A COMMIT decision of 0 starts the next reduce-scatter attempt or fails the step. -/
  | attemptRetry (t : Nat) (now : Nat)
  /-- FINAL_BLOCK_UPDATE (R496): A final GT16 block reaching its owner is applied by the optimizer into the shadow slot. -/
  | finalBlockUpdate (ctx : Nat) (now : Nat)
  /-- SHADOW_HEADER_WRITE (R498): Once every block's writes are granted, the shadow header is written COMPLETE. -/
  | shadowHeaderWrite (ctx : Nat) (now : Nat)
  /-- CHECKPOINT_EXPORT_DONE (R511): A checkpoint export finishes and its report with fingerprint is written. -/
  | checkpointExportDone (ctx : Nat) (now : Nat) (hv : HostView)
  /-- LOAD_ACTIVATION (R337): A load's bytes have arrived; the range is fingerprinted and committed RESIDENT or LIVE. -/
  | loadActivation (c : CmdRef) (peer : PeerData) (now : Nat) (hv : HostView)
  /-- SET_RELEASE_COMMIT (R348): A DROPPING set with zero pins and no older readers is committed EMPTY. -/
  | setReleaseCommit (set : Nat) (now : Nat)
  /-- ADAPTER_RELEASE_COMMIT (R359): A RETIRING or damaged adapter slot with zero pins is committed EMPTY. -/
  | adapterReleaseCommit (slot : Nat) (now : Nat)
  /-- COMMIT_INSTANT (R139): A waiting commit is granted at the acceptance arbiter, the epoch rises and keepsake is written. -/
  | commitInstant (now : Nat) (hv : HostView)
  /-- SETTLE_END (R532): The turn's training step is parked and in-flight serving entries answered, ending SETTLE. -/
  | settleEnd (svc : Nat) (now : Nat)
  /-- DRAIN_DEADLINE (R532): DRAIN_MS expires and remaining entries are cut. -/
  | drainDeadline (svc : Nat) (now : Nat)
  /-- TRANSFER_END (R533): All pieces are sent and placed; the barrier vote is cast. -/
  | transferEnd (svc : Nat) (now : Nat)
  /-- TURN_FINAL_COMMIT (R534): The turn's final commit swaps sets, resumes admission and applies further entries. -/
  | turnFinalCommit (svc : Nat) (now : Nat) (hv : HostView)
  /-- XFER_TIMEOUT (R538): XFER_MS expires before TRANSFER ends and the turn fails. -/
  | xferTimeout (svc : Nat) (now : Nat)
  /-- SCORE_STEP (R541): A score step feeds records through the reward model and writes their rewards. -/
  | scoreStep (berth : Nat) (now : Nat) (hv : HostView)
  /-- LIFECYCLE_RESET_DELAY (R559): 10 ms after a life-cycle transition's reply a warm reset starts. -/
  | lifecycleResetDelay (now : Nat)
  /-- DEBUG_EXPIRY (R574): LOCAL_TIME reaches DEBUG_EXPIRY and the debug mode ends. -/
  | debugExpiry (now : Nat)
  /-- AUTH_LOCKOUT (R563): 8 failed authorisation checks within 1 h set LOCKOUT for an hour. -/
  | authLockout (now : Nat)
  /-- LOCKOUT_EXPIRY (R563): The lockout hour ends. -/
  | lockoutExpiry (now : Nat)
  /-- LOGBOOK_BUFFER_FLUSH (R590): Recording buffer entries are written to the logbook region. -/
  | logbookBufferFlush (now : Nat)
  /-- INTERFACE_RETRAIN_DONE (R312): A stack or reach controller's interface retrain ends, at most 2 ms after it began, and held requests proceed or the stack fails or the socket is lost. -/
  | interfaceRetrainDone (ctrl : Nat) (ok : Bool) (now : Nat)
  /-- EVENT_MESSAGE_COLLECTED (R84): The baseboard controller collects a pending PlatformEventMessage on SMBus and the device releases ALERT_N. -/
  | eventMessageCollected (now : Nat)
  deriving DecidableEq, Repr

end Sys2Proof
end

