-- ==== Sys2Proof/Decode.lean ====
section
/-! DEFINITION. The table gives no row of this block any bits (opcode_table.json: every row's "fields" is empty), so no word
spells a command. Command packets are decoded where the block fetches them (Machine/Packets.lean, Machine/Queue.lean). -/

namespace Sys2Proof

/-- The command that a word spells by the table's bits: none, for the table gives no row bits. -/
def decodeTableWord (_nbits _w : Nat) : Option Instr := none

end Sys2Proof
end

