-- ==== Sys2Proof/Config.lean ====
section
/-! DEFINITION. What one module fixes at manufacture, and the FREE VALUES: constants without a body, so that no proof can
use a particular value of one. Each stands for a value the spec leaves open (notes/assumptions/3.md, 4.md, 5.md). -/

namespace Sys2Proof

/-- The two orderable variants (R1, Table 0-1). The variant is fixed in fuses (R17). -/
inductive Variant where
  /-- TVQ-HOL-1L: 16 stacks, 256-byte basin lines, sluice. -/
  | l
  /-- TVQ-HOL-1S: stacks ST0-ST3 and ST8-ST11, 128-byte basin lines, no sluice. -/
  | s
  deriving DecidableEq, Repr

namespace Config

/-- FREE VALUE. The byte that an undefined destination holds, by draw number and address: a never-written sector of a
stack or reach module (R304), an abandoned destination (R119), a B bank after a streamed pass (R167), the ACC region of
an abandoned product (R175). -/
opaque freeByte : Nat → Nat → Byte

/-- FREE VALUE. A number the spec leaves open, by draw number and place. -/
opaque freeWord : Nat → Nat → Nat

/-- FREE VALUE. The 64-bit random number of a draw (AUTH_NONCE, R562; SPDM nonces). -/
opaque random : Nat → Wide

/-- FREE VALUE. Whether a never-written sector of a stack or reach module reads as an uncorrectable error (R304), by
power-on and sector address. -/
opaque unwrittenFails : Nat → Nat → Bool

/-- The fused factory loop delay of a hallmark in picoseconds (R56, Table 2-2): fixed at manufacture, not given. -/
opaque hallmarkBaseline : Nat → BitVec 16

/-- FREE VALUE. Whether a drift that is no whole number of 0.01 % is rounded up (R57 gives no rounding), by delay and baseline. -/
opaque driftRoundsUp : Nat → Nat → Bool

/-- The fused characterisation of a supply region: the pace in tenths of beats/µs its slowest hallmark sustains at 85 °C,
by region, by drift in 0.01 % and by supply in mV (R57, R59): fixed at manufacture, not given. -/
opaque regionPace : Nat → Int → Nat → Nat

/-- The supply in mV at which a common setpoint reaches a pace ceiling (R67: 'the plan ceiling'): not given. -/
opaque setpointAtCeiling : Nat → Nat

/-- SHA-512, uninterpreted: the spec names the standard and the model computes no digest with it. -/
opaque sha512 : List Byte → List Byte

/-- The fused SHA-512 of the vendor's authorisation key (R561): not given. -/
opaque vendorHash : List Byte

/-- The fused SHA-512 of the vendor's firmware signing key (R566): not given. -/
opaque firmwareHash : List Byte

/-- ECDSA over P-521 with SHA-512, uninterpreted: does a signature of a message verify under a public key? Key, message, signature. -/
opaque ecdsaVerifies : List Byte → List Byte → List Byte → Bool

/-- ECDSA over P-521 with SHA-512, uninterpreted: the signet's signature of a message, by draw number. -/
opaque signetSign : Nat → List Byte → List Byte

/-- The public bytes that the device draws for a key exchange, by draw number. -/
opaque exchangeShare : Nat → List Byte

/-- The certificate chain of slot 0, by SERIAL and variant (R568): not given. -/
opaque certificates : Wide → Variant → List Byte

/-- The digest of the hub ROM (R569): not given. -/
opaque romDigest : List Byte

/-- ECDH and AES-256-GCM, uninterpreted: the plaintext of an owner envelope under the device's envelope key; none where its tag fails
(R571). -/
opaque openEnvelope : List Byte → Option (List Byte)

/-- FREE VALUE. Which elements of a head the rotary pair i names (R447 says 'each pair i' and no more): 2i and 2i + 1 where it is
true, i and i + HEAD_DIM ÷ 2 where it is false. -/
opaque rotaryNeighbours : Bool

/-- FREE VALUE. The FP32 pattern of the score multiplier SCALE of the ATTEND commands that a service issues (R430 gives none), by
HEAD_DIM. -/
opaque serviceScale : Nat → BitVec 32

/-- FREE VALUE. The results of model layers whose arithmetic the spec gives only in words (R481, R541): the bytes of one
output block, by draw number and offset. -/
opaque layerByte : Nat → Nat → Byte

/-- FREE VALUE. The bytes of the sealed owner blob in keepsake (R570 names the cipher and gives no bytes), by plaintext and place. -/
opaque sealedByte : List Byte → Nat → Byte

end Config
end Sys2Proof
end

