-- ==== Sys2Proof/Machine/Bits.lean ====
section
/-! DEFINITION. Bit fields, little-endian byte order (R7), checksums and the keyed tables that hold sparse state. -/

namespace Sys2Proof.Machine

/-! ## Bit fields -/

/-- Field [hi:lo] of a register or packed number. -/
def field (w hi lo : Nat) : Nat := (w >>> lo) % 2 ^ (hi + 1 - lo)

/-- Bit n of a number. -/
def bitOf (w n : Nat) : Bool := w.testBit n

/-- A Boolean as a bit. -/
def bit (b : Bool) : Nat := if b then 1 else 0

/-- Sets or clears one bit of a number. -/
def putBit (w n : Nat) (b : Bool) : Nat :=
  if w.testBit n then (if b then w else w - 2 ^ n) else (if b then w + 2 ^ n else w)

/-- The two's-complement value of a w-bit number. -/
def signedOf (w n : Nat) : Int :=
  let m := n % 2 ^ w
  if 2 * m < 2 ^ w then (m : Int) else (m : Int) - (2 ^ w : Nat)

/-- The w-bit two's-complement pattern of an integer. -/
def patternOf (w : Nat) (i : Int) : Nat := (i % ((2 ^ w : Nat) : Int)).toNat

/-- The bits of a mask that are 1, below a limit, in ascending order. -/
def bitsBelow (limit w : Nat) : List Nat := (List.range limit).filter fun n => w.testBit n

/-- The number of 1 bits below a limit. -/
def popCount (limit w : Nat) : Nat := (bitsBelow limit w).length

/-! ## Little-endian byte order (R7) -/

/-- The n low bytes of a number, lowest first. -/
def leBytes : Nat → Nat → List Byte
  | 0, _ => []
  | n + 1, v => BitVec.ofNat 8 v :: leBytes n (v / 256)

/-- The number whose bytes are listed lowest first. -/
def leNat : List Byte → Nat
  | [] => 0
  | b :: bs => b.toNat + 256 * leNat bs

/-- The n bytes of a record from an offset, zero where it is shorter. -/
def slice (bs : List Byte) (off n : Nat) : List Byte :=
  let t := (bs.drop off).take n
  t ++ List.replicate (n - t.length) 0

/-- An n-byte little-endian field of a record. -/
def fieldAt (bs : List Byte) (off n : Nat) : Nat := leNat (slice bs off n)

/-- A record with the bytes at an offset replaced. -/
def putBytes (bs : List Byte) (off : Nat) (v : List Byte) : List Byte :=
  slice bs 0 off ++ v ++ bs.drop (off + v.length)

/-- A record with an n-byte little-endian field replaced. -/
def putField (bs : List Byte) (off n v : Nat) : List Byte := putBytes bs off (leBytes n v)

/-- n zero bytes. -/
def zeros (n : Nat) : List Byte := List.replicate n 0

/-! ## Checksums -/

/-- One bit of a reflected cyclic redundancy check with polynomial p. -/
def crcBit (p : Nat) (c : Nat) : Nat := if c.testBit 0 then (c / 2) ^^^ p else c / 2

/-- One byte of a reflected cyclic redundancy check. -/
def crcByte (p : Nat) (c : Nat) (b : Byte) : Nat :=
  crcBit p (crcBit p (crcBit p (crcBit p (crcBit p (crcBit p (crcBit p (crcBit p (c ^^^ b.toNat))))))))

/-- CRC-32C (Castagnoli), reflected, initial value and final inversion all ones. -/
def crc32c (bs : List Byte) : Nat := (bs.foldl (crcByte 0x82F63B78) 0xFFFFFFFF) ^^^ 0xFFFFFFFF

/-- CRC-32 of IEEE 802.3, reflected, initial value and final inversion all ones. -/
def crc32 (bs : List Byte) : Nat := (bs.foldl (crcByte 0xEDB88320) 0xFFFFFFFF) ^^^ 0xFFFFFFFF

/-- CRC-64 of ECMA-182, reflected, initial value and final inversion all ones: the fingerprint of R580. -/
def crc64 (bs : List Byte) : Nat := (bs.foldl (crcByte 0xC96C5795D7870F42) 0xFFFFFFFFFFFFFFFF) ^^^ 0xFFFFFFFFFFFFFFFF

/-! ## Keyed tables: sparse state in one canonical form, keys strictly rising -/

/-- The entry of a key. -/
def lookup {α : Type} (k : Nat) : List (Nat × α) → Option α
  | [] => none
  | (j, a) :: t => if k = j then some a else lookup k t

/-- The table with a key bound. -/
def insert {α : Type} (k : Nat) (a : α) : List (Nat × α) → List (Nat × α)
  | [] => [(k, a)]
  | (j, b) :: t => if k < j then (k, a) :: (j, b) :: t else if k = j then (k, a) :: t else (j, b) :: insert k a t

/-- The table with a key unbound. -/
def erase {α : Type} (k : Nat) : List (Nat × α) → List (Nat × α)
  | [] => []
  | (j, b) :: t => if k = j then t else (j, b) :: erase k t

/-- Keys strictly rising. -/
def sortedKeys {α : Type} : List (Nat × α) → Bool
  | [] => true
  | [_] => true
  | (j, _) :: (k, b) :: t => decide (j < k) && sortedKeys ((k, b) :: t)

/-- The first element satisfying a test, updated; the list as it was where none does. -/
def updateFirst {α : Type} (p : α → Bool) (f : α → α) : List α → List α
  | [] => []
  | a :: t => if p a then f a :: t else a :: updateFirst p f t

end Sys2Proof.Machine
end

