-- ==== Sys2Proof/Machine/RegMap.lean ====
section
/-! DEFINITION. The register map: every register of BAR0 with its address, access code (Table 0-4), reset value and defined bits,
as the summary lines and field tables of the chapters give them. A reserved bit reads zero and discards writes (R10). -/

namespace Sys2Proof.Machine

open Sys2Proof

/-- The access codes of Table 0-4. -/
inductive Access where
  | ro
  | rw
  | w1c
  | wo
  | hs
  | lk
  | dbg
  deriving DecidableEq, Repr

/-- A field of an LK register with the least and the greatest value CHECK accepts (R135, rule 3). -/
structure LkField where
  hi : Nat
  lo : Nat
  min : Nat := 0
  max : Nat := 0xFFFFFFFFFFFFFFFF
  deriving DecidableEq, Repr

/-- How the reset value of a row's registers goes by variant and array index. -/
inductive ResetRule where
  /-- Every register of the row holds the row's reset value. -/
  | fixed
  /-- TORUS_AXIS: its own ring per axis. -/
  | axis
  /-- A register of a berth: this value for berth 0, which holds the whole device, and 0 for the others. -/
  | berthZero (value : Nat)
  /-- BERTH_STACK: the whole stack window for berth 0. -/
  | stack
  /-- By variant: the 1L's value and the 1S's. -/
  | variant (l s : Nat)
  /-- CAP_FORMATS (R182). -/
  | formats
  deriving DecidableEq, Repr

/-- One register, or an array of equal registers. -/
structure RegRow where
  name : String
  base : Nat
  count : Nat := 1
  stride : Nat := 4
  /-- A 64-bit register: two words, low word first (R8). -/
  wide : Bool := false
  access : Access
  reset : Nat := 0
  rule : ResetRule := .fixed
  /-- The defined bits; the others are reserved. -/
  mask : Nat := 0xFFFFFFFF
  /-- LK: the fields and their ranges. -/
  fields : List LkField := []
  /-- LK: persistable (R145). -/
  persist : Bool := true
  deriving DecidableEq, Repr

/-- The BAR0 address of unit block n (Table 3-2). -/
def unitBlock (n : Nat) : Nat := 0x02000000 + n * 0x10000

/-- The BAR0 address of the doorbell page of queue q (Table 3-2). -/
def doorbellPage (q : Nat) : Nat := 0x00010000 + q * 0x1000

/-! Unit block IDs. -/

def blkDevice : Nat := unitBlock 0x00
def blkPave (n : Nat) : Nat := unitBlock (0x01 + n)
def blkEngine (n : Nat) : Nat := unitBlock (0x10 + n)
def blkBanks (n : Nat) : Nat := unitBlock (0x30 + n)
def blkBasin (h : Nat) : Nat := unitBlock (0x38 + h)
def blkStack (s : Nat) : Nat := unitBlock (0x40 + s)
def blkReach (n : Nat) : Nat := unitBlock (0x50 + n)
def blkPort (n : Nat) : Nat := unitBlock (0x60 + n)
def blkLockage : Nat := unitBlock 0x70
def blkKeeper : Nat := unitBlock 0x71
def blkSecurity : Nat := unitBlock 0x72
def blkPower : Nat := unitBlock 0x73
def blkLogbook : Nat := unitBlock 0x74
def blkWeirs : Nat := unitBlock 0x75
def blkManifest : Nat := unitBlock 0x76

/-- Chapters 3 and 4: identity, capability words, HELLO mailbox, doorbell pages. -/
def rowsHost : List RegRow :=
  [ { name := "IDENTITY", base := 0x0, access := .ro, mask := 0x00FFFFFF }
  , { name := "SERIAL", base := 0x8, wide := true, access := .ro }
  , { name := "CAP_COMPUTE", base := 0x100, access := .ro, reset := 0x20088004 }
  , { name := "CAP_MEMORY", base := 0x104, access := .ro, rule := .variant 0x00080C10 0x00070C08, reset := 0x00080C10 }
  , { name := "CAP_LINKS", base := 0x108, access := .ro, reset := 0x04081040 }
  , { name := "CAP_QUEUES", base := 0x10C, access := .ro, reset := 0x10000400 }
  , { name := "CAP_SERVING", base := 0x110, access := .ro, reset := 0x40001000 }
  , { name := "CAP_SETS", base := 0x114, access := .ro, reset := 0x40084000 }
  , { name := "CAP_ADAPTERS", base := 0x118, access := .ro, reset := 0x01000400 }
  , { name := "CAP_FORMATS", base := 0x120, count := 4, access := .ro, rule := .formats }
  , { name := "HELLO_CTRL", base := 0x200, access := .wo, mask := 0x1 }
  , { name := "HELLO_REQUEST", base := 0x240, count := 16, access := .rw }
  , { name := "HELLO_REPLY", base := 0x280, count := 16, access := .hs }
  , { name := "SQ_TAIL", base := 0x10000, count := 64, stride := 0x1000, access := .rw, mask := 0xFFFF }
  , { name := "CQ_HEAD", base := 0x10004, count := 64, stride := 0x1000, access := .rw, mask := 0xFFFF }
  , { name := "QUEUE_STATE", base := 0x10008, count := 64, stride := 0x1000, access := .hs }
  , { name := "QUEUE_EVENTS", base := 0x1000C, count := 64, stride := 0x1000, access := .w1c, mask := 0x1F }
  , { name := "QUEUE_EVENT_ENABLE", base := 0x10010, count := 64, stride := 0x1000, access := .rw, reset := 0x1F, mask := 0x1F }
  , { name := "QUEUE_CTRL", base := 0x10014, count := 64, stride := 0x1000, access := .wo, mask := 0x1 } ]

/-- The device control block, unit block 0x00. -/
def rowsDevice : List RegRow :=
  [ { name := "LOCAL_TIME", base := blkDevice + 0x100, wide := true, access := .ro }
  , { name := "BAR2_APERTURE", base := blkDevice + 0x208, count := 63, stride := 8, wide := true, access := .lk,
      mask := 0x800000FFC0000000, fields := [⟨63, 63, 0, 1⟩, ⟨39, 30, 0, 1023⟩], persist := false }
  , { name := "PANEL_EVENTS", base := blkDevice + 0x400, access := .w1c, mask := 0x3FFF }
  , { name := "PANEL_EVENT_ENABLE", base := blkDevice + 0x404, access := .rw, reset := 0x3FFF, mask := 0x3FFF }
  , { name := "FIBRE_PRESENT", base := blkDevice + 0x408, access := .hs, mask := 0xFFFFFF }
  , { name := "FIBRE_CHANGED", base := blkDevice + 0x40C, access := .w1c, mask := 0xFFFFFF }
  , { name := "LOCATE_CTRL", base := blkDevice + 0x410, access := .rw, mask := 0x1 }
  , { name := "REACH_SOCKET", base := blkDevice + 0x440, count := 12, access := .hs, mask := 0xFF07 }
  , { name := "REACH_LAYOUT", base := blkDevice + 0x800, access := .lk, mask := 0x0FFF0FFF,
      fields := [⟨27, 16, 0, 0xFFF⟩, ⟨11, 0, 0, 0xFFF⟩] }
  , { name := "WEIGHT_REGION", base := blkDevice + 0x810, access := .lk, mask := 0x07FF03FF,
      fields := [⟨26, 16, 0, 1024⟩, ⟨9, 0, 0, 1023⟩] }
  , { name := "ACC_VIEW", base := blkDevice + 0xA00, access := .dbg, mask := 0x8000071F }
  , { name := "TORUS_AXIS", base := blkDevice + 0xB00, count := 4, access := .lk, rule := .axis, reset := 0x00100100, mask := 0x00F07F3F,
      fields := [⟨23, 20, 0, 4⟩, ⟨14, 8, 1, 64⟩, ⟨5, 0, 0, 63⟩] }
  , { name := "PEER_SERIAL_EXPECT", base := blkDevice + 0xB20, count := 8, stride := 8, wide := true, access := .lk,
      mask := 0xFFFFFFFFFFFFFFFF, fields := [⟨63, 0, 0, 0xFFFFFFFFFFFFFFFF⟩] }
  , { name := "ENLON_INC", base := blkDevice + 0xB60, access := .hs, mask := 0xFFFF }
  , { name := "BERTH_CFG", base := blkDevice + 0xC00, count := 8, stride := 32, access := .lk, rule := .berthZero 0x80000000, mask := 0x9F000000,
      fields := [⟨31, 31, 0, 1⟩, ⟨28, 24, 0, 31⟩] }
  , { name := "BERTH_PAVES", base := blkDevice + 0xC04, count := 8, stride := 32, access := .lk, rule := .berthZero 0xFF, mask := 0xFF,
      fields := [⟨7, 0, 0, 0xFF⟩] }
  , { name := "BERTH_VES", base := blkDevice + 0xC08, count := 8, stride := 32, access := .lk, rule := .berthZero 0xFFFFFFFF, fields := [⟨31, 0, 0, 0xFFFFFFFF⟩] }
  , { name := "BERTH_STACK", base := blkDevice + 0xC10, count := 8, stride := 32, wide := true, access := .lk, rule := .stack,
      mask := 0x8007FFFFC0000000, fields := [⟨63, 63, 0, 1⟩, ⟨50, 40, 0, 1024⟩, ⟨39, 30, 0, 1023⟩] }
  , { name := "BERTH_REACH", base := blkDevice + 0xC18, count := 8, stride := 32, wide := true, access := .lk,
      mask := 0x8FFEFFFFC0000000, fields := [⟨63, 63, 0, 1⟩, ⟨59, 49, 0, 1536⟩, ⟨47, 30, 0, 0x3FFFF⟩] }
  , { name := "BERTH_STATUS", base := blkDevice + 0xD00, count := 8, access := .hs }
  , { name := "UNIT_VECTOR", base := blkDevice + 0xE00, count := 128, access := .rw, mask := 0x7FF }
  , { name := "VF_APERTURE", base := blkDevice + 0x1020, count := 124, stride := 8, wide := true, access := .lk,
      mask := 0x800000FFC0000000, fields := [⟨63, 63, 0, 1⟩, ⟨39, 30, 0, 1023⟩], persist := false } ]

/-- Pavés, engines, banks (chapters 6 to 10). -/
def rowsCompute : List RegRow :=
  [ { name := "PV_STATUS", base := blkPave 0, count := 8, stride := 0x10000, access := .hs, reset := 0xFF00, mask := 0xE000FF00 }
  , { name := "PV_EVENTS", base := blkPave 0 + 4, count := 8, stride := 0x10000, access := .w1c, mask := 0x7F }
  , { name := "PV_EVENT_ENABLE", base := blkPave 0 + 8, count := 8, stride := 0x10000, access := .rw, reset := 0x7F, mask := 0x7F }
  , { name := "PV_FAULT", base := blkPave 0 + 0xC, count := 8, stride := 0x10000, access := .hs }
  , { name := "PASS_COUNT", base := blkPave 0 + 0x10, count := 8, stride := 0x10000, wide := true, access := .hs }
  , { name := "LOAD_EXPOSED", base := blkPave 0 + 0x18, count := 8, stride := 0x10000, wide := true, access := .hs }
  , { name := "STREAM_STALL", base := blkPave 0 + 0x20, count := 8, stride := 0x10000, wide := true, access := .hs }
  , { name := "ACC_HOLD", base := blkPave 0 + 0x28, count := 8, stride := 0x10000, wide := true, access := .dbg, mask := 0xBFFFFFFFFFFFFFFE }
  , { name := "VE_STATUS", base := blkEngine 0, count := 32, stride := 0x10000, access := .hs, reset := 0xFF00 }
  , { name := "VE_EVENTS", base := blkEngine 0 + 4, count := 32, stride := 0x10000, access := .w1c, mask := 0x3F }
  , { name := "VE_EVENT_ENABLE", base := blkEngine 0 + 8, count := 32, stride := 0x10000, access := .rw, reset := 0x3F, mask := 0x3F }
  , { name := "VE_FAULT", base := blkEngine 0 + 0xC, count := 32, stride := 0x10000, access := .hs }
  , { name := "FOREGROUND_BEATS", base := blkEngine 0 + 0x10, count := 32, stride := 0x10000, wide := true, access := .hs }
  , { name := "STREAM_BEATS", base := blkEngine 0 + 0x18, count := 32, stride := 0x10000, wide := true, access := .hs }
  , { name := "RESIDUE_CHECKS", base := blkEngine 0 + 0x20, count := 32, stride := 0x10000, wide := true, access := .hs }
  , { name := "RESIDUE_MISMATCH", base := blkEngine 0 + 0x28, count := 32, stride := 0x10000, access := .hs }
  , { name := "BANK_STATUS", base := blkBanks 0, count := 4, stride := 0x10000, access := .hs }
  , { name := "BANK_EVENTS", base := blkBanks 0 + 4, count := 4, stride := 0x10000, access := .w1c, mask := 0x1F }
  , { name := "BANK_EVENT_ENABLE", base := blkBanks 0 + 8, count := 4, stride := 0x10000, access := .rw, reset := 0x1F, mask := 0x1F }
  , { name := "BANK_ERR_ADDR", base := blkBanks 0 + 0x10, count := 4, stride := 0x10000, wide := true, access := .hs }
  , { name := "BANK_ERR_INFO", base := blkBanks 0 + 0x18, count := 4, stride := 0x10000, access := .hs } ]
  ++ (List.range 4).map (fun d =>
    { name := "BANK_PARITY_COUNT", base := blkBanks d + 0x40, count := 15, access := .hs })

/-- Basin, stacks, reach, weirs (chapters 11 and 12). -/
def rowsMemory : List RegRow :=
  (List.range 2).map (fun h =>
    { name := "BASIN_SEG", base := blkBasin h, count := 6, access := .lk, mask := 0xC7C7C7C7,
      fields := [⟨31, 24, 0, 0xFF⟩, ⟨23, 16, 0, 0xFF⟩, ⟨15, 8, 0, 0xFF⟩, ⟨7, 0, 0, 0xFF⟩] })
  ++
  [ { name := "BASIN_STATUS", base := blkBasin 0 + 0x20, count := 2, stride := 0x10000, access := .hs }
  , { name := "BASIN_HITS", base := blkBasin 0 + 0x30, count := 2, stride := 0x10000, wide := true, access := .hs }
  , { name := "BASIN_MISSES", base := blkBasin 0 + 0x38, count := 2, stride := 0x10000, wide := true, access := .hs }
  , { name := "WRITEBACKS", base := blkBasin 0 + 0x40, count := 2, stride := 0x10000, wide := true, access := .hs }
  , { name := "SLUICE_FULL", base := blkBasin 0 + 0x48, count := 2, stride := 0x10000, wide := true, access := .hs }
  , { name := "SLUICE_PARTIAL", base := blkBasin 0 + 0x50, count := 2, stride := 0x10000, wide := true, access := .hs }
  , { name := "ATOMICS", base := blkBasin 0 + 0x58, count := 2, stride := 0x10000, wide := true, access := .hs }
  , { name := "BASIN_ERR_EVENTS", base := blkBasin 0 + 0x70, count := 2, stride := 0x10000, access := .w1c, mask := 0x7 }
  , { name := "BASIN_ERR_ENABLE", base := blkBasin 0 + 0x74, count := 2, stride := 0x10000, access := .rw, reset := 0x7, mask := 0x7 }
  , { name := "BASIN_ERR_ADDR", base := blkBasin 0 + 0x78, count := 2, stride := 0x10000, wide := true, access := .hs }
  , { name := "CRC_REFETCH", base := blkBasin 0 + 0x80, count := 2, stride := 0x10000, access := .hs }
  , { name := "CRC_LOST", base := blkBasin 0 + 0x84, count := 2, stride := 0x10000, access := .hs }
  , { name := "WAYS_DISABLED", base := blkBasin 0 + 0x88, count := 2, stride := 0x10000, access := .hs }
  , { name := "STACK_STATUS", base := blkStack 0, count := 16, stride := 0x10000, access := .hs }
  , { name := "READ_BYTES", base := blkStack 0 + 0x10, count := 28, stride := 0x10000, wide := true, access := .hs }
  , { name := "WRITE_BYTES", base := blkStack 0 + 0x18, count := 28, stride := 0x10000, wide := true, access := .hs }
  , { name := "MERGED_SECTORS", base := blkStack 0 + 0x20, count := 16, stride := 0x10000, wide := true, access := .hs }
  , { name := "NARROW", base := blkStack 0 + 0x28, count := 16, stride := 0x10000, wide := true, access := .hs }
  , { name := "MEM_EVENTS", base := blkStack 0 + 4, count := 28, stride := 0x10000, access := .w1c, mask := 0x3F }
  , { name := "MEM_EVENT_ENABLE", base := blkStack 0 + 8, count := 28, stride := 0x10000, access := .rw, reset := 0x3E, mask := 0x3F }
  , { name := "MEM_ERR_ADDR", base := blkStack 0 + 0x40, count := 28, stride := 0x10000, wide := true, access := .hs }
  , { name := "MEM_ERR_INFO", base := blkStack 0 + 0x48, count := 28, stride := 0x10000, access := .hs }
  , { name := "BUCKET", base := blkStack 0 + 0x4C, count := 28, stride := 0x10000, access := .hs }
  , { name := "BUCKET_CFG", base := blkStack 0 + 0x50, count := 28, stride := 0x10000, access := .lk, reset := 0x003C0040,
      mask := 0xFFFF00FF, fields := [⟨31, 16, 1, 65535⟩, ⟨7, 0, 1, 255⟩] }
  , { name := "CORRECTED", base := blkStack 0 + 0x58, count := 28, stride := 0x10000, wide := true, access := .hs }
  , { name := "UNCORRECTED", base := blkStack 0 + 0x60, count := 28, stride := 0x10000, access := .hs }
  , { name := "RETRIES", base := blkStack 0 + 0x64, count := 28, stride := 0x10000, access := .hs }
  , { name := "ONDIE", base := blkStack 0 + 0x68, count := 28, stride := 0x10000, access := .hs }
  , { name := "WEIR_STACK", base := blkWeirs + 0x100, count := 9, stride := 32, access := .lk, reset := 0x04000000,
      mask := 0x07FF07FF, fields := [⟨26, 16, 1, 1024⟩, ⟨10, 0, 0, 1024⟩] }
  , { name := "WEIR_REACH", base := blkWeirs + 0x104, count := 9, stride := 32, access := .lk, reset := 0x04000000,
      mask := 0x07FF07FF, fields := [⟨26, 16, 1, 1024⟩, ⟨10, 0, 0, 1024⟩] }
  , { name := "WEIR_BASIN", base := blkWeirs + 0x108, count := 9, stride := 32, access := .lk, reset := 0x04000000,
      mask := 0x07FF07FF, fields := [⟨26, 16, 1, 1024⟩, ⟨10, 0, 0, 1024⟩] }
  , { name := "WEIR_THROTTLED", base := blkWeirs + 0x110, count := 9, stride := 32, access := .hs }
  , { name := "WEIR_BYTES", base := blkWeirs + 0x118, count := 9, stride := 32, wide := true, access := .hs } ]

/-- Ports (chapter 14). -/
def rowsLinks : List RegRow :=
  [ { name := "PORT_STATUS", base := blkPort 0, count := 8, stride := 0x10000, access := .hs }
  , { name := "PORT_EVENTS", base := blkPort 0 + 4, count := 8, stride := 0x10000, access := .w1c, mask := 0x3FF }
  , { name := "PORT_EVENT_ENABLE", base := blkPort 0 + 8, count := 8, stride := 0x10000, access := .rw, reset := 0x1BF, mask := 0x3FF }
  , { name := "PORT_CTRL", base := blkPort 0 + 0xC, count := 8, stride := 0x10000, access := .wo, mask := 0xF }
  , { name := "PEER_SERIAL", base := blkPort 0 + 0x10, count := 8, stride := 0x10000, wide := true, access := .hs }
  , { name := "PEER_INFO", base := blkPort 0 + 0x18, count := 8, stride := 0x10000, access := .hs }
  , { name := "PEER_COORD", base := blkPort 0 + 0x1C, count := 8, stride := 0x10000, access := .hs }
  , { name := "RX_LANES", base := blkPort 0 + 0x20, count := 8, stride := 0x10000, wide := true, access := .hs }
  , { name := "TX_LANES", base := blkPort 0 + 0x28, count := 8, stride := 0x10000, wide := true, access := .hs }
  , { name := "LASER_FEED", base := blkPort 0 + 0x30, count := 8, stride := 0x10000, access := .hs, mask := 0xFFFF }
  , { name := "FLITS_TX", base := blkPort 0 + 0x40, count := 8, stride := 0x10000, wide := true, access := .hs }
  , { name := "FLITS_RX", base := blkPort 0 + 0x48, count := 8, stride := 0x10000, wide := true, access := .hs }
  , { name := "CRC_ERRORS", base := blkPort 0 + 0x50, count := 8, stride := 0x10000, wide := true, access := .hs }
  , { name := "REPLAYS", base := blkPort 0 + 0x58, count := 8, stride := 0x10000, wide := true, access := .hs }
  , { name := "FEC_CORRECTED", base := blkPort 0 + 0x60, count := 8, stride := 0x10000, wide := true, access := .hs }
  , { name := "FEC_UNCORRECTABLE", base := blkPort 0 + 0x68, count := 8, stride := 0x10000, wide := true, access := .hs }
  , { name := "VIOLATIONS", base := blkPort 0 + 0x70, count := 8, stride := 0x10000, access := .hs }
  , { name := "STALE", base := blkPort 0 + 0x74, count := 8, stride := 0x10000, access := .hs }
  , { name := "LINK_UPS", base := blkPort 0 + 0x78, count := 8, stride := 0x10000, access := .hs }
  , { name := "DUPLICATES", base := blkPort 0 + 0x7C, count := 8, stride := 0x10000, access := .hs } ]
  ++ (List.range 8).map (fun p =>
    { name := "VC_DEDICATED", base := blkPort p + 0x100, count := 15, access := .lk, reset := 0x40, mask := 0x3FF,
      fields := [⟨9, 0, 16, 512⟩] })

/-- Lockage (chapter 5) and the keeper complex (chapters 7, 10, 12, 13, 15, 17, 18, 19). -/
def rowsKeeper : List RegRow :=
  [ { name := "LOCK_EPOCH", base := blkLockage, access := .hs, reset := 1 }
  , { name := "CHAMBER_STATUS", base := blkLockage + 4, access := .hs }
  , { name := "CHECKED_EPOCH", base := blkLockage + 8, access := .hs }
  , { name := "LAST_CHECK", base := blkLockage + 0xC, access := .hs }
  , { name := "LOCK_EVENTS", base := blkLockage + 0x10, access := .w1c, mask := 0xF }
  , { name := "LOCK_EVENT_ENABLE", base := blkLockage + 0x14, access := .rw, reset := 0xF, mask := 0xF }
  , { name := "KEEPSAKE_STATUS", base := blkLockage + 0x18, access := .hs }
  , { name := "KBANK_ERRORS", base := blkKeeper + 0x100, access := .hs }
  , { name := "REPAIR_CTRL", base := blkKeeper + 0x200, access := .lk, reset := 0x64, mask := 0xFFFF, fields := [⟨15, 0, 1, 65535⟩] }
  , { name := "REPAIR_STATUS", base := blkKeeper + 0x204, access := .hs }
  , { name := "REPAIRS", base := blkKeeper + 0x208, wide := true, access := .hs }
  , { name := "DAMAGED_SETS", base := blkKeeper + 0x210, wide := true, access := .hs }
  , { name := "SET_INFO", base := blkKeeper + 0x1000, count := 64, stride := 32, access := .hs }
  , { name := "SET_VERSION", base := blkKeeper + 0x1004, count := 64, stride := 32, access := .hs }
  , { name := "SET_BASE", base := blkKeeper + 0x1008, count := 64, stride := 32, wide := true, access := .hs }
  , { name := "SET_BYTES", base := blkKeeper + 0x1010, count := 64, stride := 32, wide := true, access := .hs }
  , { name := "SET_SOURCE", base := blkKeeper + 0x1018, count := 64, stride := 32, wide := true, access := .hs }
  , { name := "SET_PINS", base := blkKeeper + 0x1800, count := 64, access := .hs }
  , { name := "ADAPTER_SELECT", base := blkKeeper + 0x1A00, access := .rw, mask := 0x3FF }
  , { name := "ADAPTER_COUNT", base := blkKeeper + 0x1A04, access := .hs }
  , { name := "ADAPTER_VIEW", base := blkKeeper + 0x1A08, count := 8, access := .hs }
  , { name := "WEIGHT_EVENTS", base := blkKeeper + 0x1A30, access := .w1c, mask := 0x1F }
  , { name := "WEIGHT_EVENT_ENABLE", base := blkKeeper + 0x1A34, access := .rw, reset := 0x1F, mask := 0x1F }
  , { name := "ADAPTER_QUOTA", base := blkKeeper + 0x1A40, count := 8, access := .lk, mask := 0xFFE0FFFF,
      fields := [⟨31, 21, 0, 1024⟩, ⟨15, 0, 0, 65535⟩] }
  , { name := "COLL_CFG", base := blkKeeper + 0x2000, access := .lk, reset := 0x00400014, mask := 0x07FFFFFF,
      fields := [⟨26, 16, 64, 2047⟩, ⟨15, 0, 1, 65535⟩] }
  , { name := "COLL_EVENTS", base := blkKeeper + 0x2004, access := .w1c, mask := 0xFF }
  , { name := "COLL_EVENT_ENABLE", base := blkKeeper + 0x2008, access := .rw, reset := 0xFF, mask := 0xFF }
  , { name := "COLL_CTRL", base := blkKeeper + 0x200C, access := .wo, mask := 0xFF }
  , { name := "COLL_GROUP", base := blkKeeper + 0x2010, count := 8, access := .lk, mask := 0x87030000,
      fields := [⟨31, 31, 0, 1⟩, ⟨26, 24, 0, 7⟩, ⟨17, 16, 0, 3⟩] }
  , { name := "COLL_GROUP_STATE", base := blkKeeper + 0x2040, count := 8, stride := 8, wide := true, access := .hs }
  , { name := "VOTE_STATE", base := blkKeeper + 0x2080, count := 8, stride := 8, wide := true, access := .hs }
  , { name := "COMPLETED", base := blkKeeper + 0x2100, wide := true, access := .hs }
  , { name := "FAILURES", base := blkKeeper + 0x2108, access := .hs }
  , { name := "ABORTS_SENT", base := blkKeeper + 0x210C, access := .hs }
  , { name := "COLL_STALE", base := blkKeeper + 0x2110, access := .hs }
  , { name := "RESIDUE_FAILS", base := blkKeeper + 0x2114, access := .hs }
  , { name := "BLOCKS_ADDED", base := blkKeeper + 0x2118, wide := true, access := .hs }
  , { name := "LANE_GEN", base := blkKeeper + 0x2700, count := 4, access := .hs }
  , { name := "LANE_STEP", base := blkKeeper + 0x2720, count := 4, access := .hs }
  , { name := "UPD_EVENTS", base := blkKeeper + 0x2740, access := .w1c, mask := 0xF }
  , { name := "UPD_EVENT_ENABLE", base := blkKeeper + 0x2744, access := .rw, reset := 0xF, mask := 0xF }
  , { name := "UPD_CFG", base := blkKeeper + 0x2800, count := 16, stride := 128, access := .lk, mask := 0xFF0000FF,
      fields := [⟨31, 31, 0, 1⟩, ⟨30, 28, 0, 7⟩, ⟨27, 26, 0, 3⟩, ⟨25, 24, 0, 1⟩, ⟨7, 0, 0, 255⟩], persist := false }
  , { name := "UPD_BLOCKS", base := blkKeeper + 0x2804, count := 16, stride := 128, access := .lk, mask := 0x01FFFFFF,
      fields := [⟨24, 0, 0, 16777216⟩], persist := false }
  , { name := "UPD_STATE_ADDR", base := blkKeeper + 0x2808, count := 16, stride := 128, wide := true, access := .lk,
      mask := 0xFFFFFFFFFFFFFFFF, fields := [⟨63, 0, 0, 0xFFFFFFFFFFFF⟩], persist := false }
  , { name := "UPD_STAGE_ADDR", base := blkKeeper + 0x2810, count := 16, stride := 128, wide := true, access := .lk,
      mask := 0xFFFFFFFFFFFFFFFF, fields := [⟨63, 0, 0, 0xFFFFFFFFFFFF⟩], persist := false }
  , { name := "UPD_STAGE_BLOCKS", base := blkKeeper + 0x2818, count := 16, stride := 128, access := .lk, mask := 0x0001FFFF,
      fields := [⟨16, 0, 0, 65536⟩], persist := false }
  , { name := "UPD_LR", base := blkKeeper + 0x281C, count := 16, stride := 128, access := .lk, fields := [⟨31, 0, 0, 0xFFFFFFFF⟩], persist := false }
  , { name := "UPD_BETA1", base := blkKeeper + 0x2820, count := 16, stride := 128, access := .lk, fields := [⟨31, 0, 0, 0xFFFFFFFF⟩], persist := false }
  , { name := "UPD_BETA2", base := blkKeeper + 0x2824, count := 16, stride := 128, access := .lk, fields := [⟨31, 0, 0, 0xFFFFFFFF⟩], persist := false }
  , { name := "UPD_EPS", base := blkKeeper + 0x2828, count := 16, stride := 128, access := .lk, fields := [⟨31, 0, 0, 0xFFFFFFFF⟩], persist := false }
  , { name := "UPD_WD", base := blkKeeper + 0x282C, count := 16, stride := 128, access := .lk, fields := [⟨31, 0, 0, 0xFFFFFFFF⟩], persist := false }
  , { name := "UPD_GRAD_SCALE", base := blkKeeper + 0x2830, count := 16, stride := 128, access := .lk,
      fields := [⟨31, 0, 0, 0xFFFFFFFF⟩], persist := false }
  , { name := "UPD_NARROW_OFFSET", base := blkKeeper + 0x2838, count := 16, stride := 128, wide := true, access := .lk,
      mask := 0xFFFFFFFFFFFFFFFF, fields := [⟨63, 0, 0, 0xFFFFFFFFFFFFFFFF⟩], persist := false }
  , { name := "UPD_FEEDBACK_OFFSET", base := blkKeeper + 0x2840, count := 16, stride := 128, wide := true, access := .lk,
      mask := 0xFFFFFFFFFFFFFFFF, fields := [⟨63, 0, 0, 0xFFFFFFFFFFFFFFFF⟩], persist := false }
  , { name := "UPD_RATIO_ADDR", base := blkKeeper + 0x2848, count := 16, stride := 128, wide := true, access := .lk,
      mask := 0xFFFFFFFFFFFFFFFF, fields := [⟨63, 0, 0, 0xFFFFFFFFFFFF⟩], persist := false }
  , { name := "UPD_STATUS", base := blkKeeper + 0x2850, count := 16, stride := 128, access := .hs }
  , { name := "STAGE_STALL", base := blkKeeper + 0x2858, count := 16, stride := 128, wide := true, access := .hs }
  , { name := "BLOCKS_UPDATED", base := blkKeeper + 0x2860, count := 16, stride := 128, wide := true, access := .hs }
  , { name := "UPD_NONFINITE", base := blkKeeper + 0x2868, count := 16, stride := 128, access := .hs }
  , { name := "TRAIN_STATE", base := blkKeeper + 0x3000, count := 4, stride := 64, access := .hs }
  , { name := "TRAIN_VERSION", base := blkKeeper + 0x3004, count := 4, stride := 64, access := .hs }
  , { name := "TRAIN_STEP_TAG", base := blkKeeper + 0x3008, count := 4, stride := 64, access := .hs }
  , { name := "TRAIN_LOSS", base := blkKeeper + 0x300C, count := 4, stride := 64, access := .hs }
  , { name := "POUND_FULL", base := blkKeeper + 0x3010, count := 4, stride := 64, wide := true, access := .hs }
  , { name := "POUND_EMPTY", base := blkKeeper + 0x3018, count := 4, stride := 64, wide := true, access := .hs }
  , { name := "TRAIN_COMMITTED", base := blkKeeper + 0x3020, count := 4, stride := 64, access := .hs }
  , { name := "TRAIN_SKIPPED", base := blkKeeper + 0x3024, count := 4, stride := 64, access := .hs }
  , { name := "RS_RERUNS", base := blkKeeper + 0x3028, count := 4, stride := 64, access := .hs }
  , { name := "VERSION_EVENTS", base := blkKeeper + 0x302C, count := 4, stride := 64, access := .hs }
  , { name := "MICRO_RERUNS", base := blkKeeper + 0x3030, count := 4, stride := 64, access := .hs }
  , { name := "EXCLUDED", base := blkKeeper + 0x3034, count := 4, stride := 64, access := .hs }
  , { name := "FULL_WAITS", base := blkKeeper + 0x3038, count := 4, stride := 64, access := .hs }
  , { name := "TRAIN_EVENTS", base := blkKeeper + 0x3100, access := .w1c, mask := 0x1F }
  , { name := "TRAIN_EVENT_ENABLE", base := blkKeeper + 0x3104, access := .rw, reset := 0x1F, mask := 0x1F }
  , { name := "TURN_STATE", base := blkKeeper + 0x3200, count := 8, stride := 32, access := .hs }
  , { name := "TURN_ID", base := blkKeeper + 0x3204, count := 8, stride := 32, access := .hs }
  , { name := "PLACED", base := blkKeeper + 0x3208, count := 8, stride := 32, wide := true, access := .hs }
  , { name := "TRANSFER_US", base := blkKeeper + 0x3210, count := 8, stride := 32, access := .hs }
  , { name := "TURNS", base := blkKeeper + 0x3214, count := 8, stride := 32, access := .hs }
  , { name := "TURNS_FAILED", base := blkKeeper + 0x3218, count := 8, stride := 32, access := .hs }
  , { name := "TURN_STALE", base := blkKeeper + 0x321C, count := 8, stride := 32, access := .hs }
  , { name := "TURN_EVENTS", base := blkKeeper + 0x3300, access := .w1c, mask := 0xF }
  , { name := "TURN_EVENT_ENABLE", base := blkKeeper + 0x3304, access := .rw, reset := 0xF, mask := 0xF }
  , { name := "SCHED", base := blkKeeper + 0x3380, count := 12, access := .hs, reset := 1 }
  , { name := "ASSAY_OWNER", base := blkKeeper + 0x3F00, count := 64, access := .lk, mask := 0x87878787,
      fields := [⟨31, 24, 0, 0xFF⟩, ⟨23, 16, 0, 0xFF⟩, ⟨15, 8, 0, 0xFF⟩, ⟨7, 0, 0, 0xFF⟩] }
  , { name := "ASSAY_TOTAL", base := blkKeeper + 0x4020, count := 255, stride := 32, wide := true, access := .hs }
  , { name := "ASSAY_SATURATED", base := blkKeeper + 0x4028, count := 255, stride := 32, wide := true, access := .hs }
  , { name := "ASSAY_VANISHED", base := blkKeeper + 0x4030, count := 255, stride := 32, wide := true, access := .hs }
  , { name := "ASSAY_NONFINITE", base := blkKeeper + 0x4038, count := 255, stride := 32, access := .hs }
  , { name := "ASSAY_CTRL", base := blkKeeper + 0x403C, count := 255, stride := 32, access := .hs, mask := 0xFF03 }
  , { name := "HIST_CONFIG", base := blkKeeper + 0x6080, count := 63, stride := 128, access := .lk, mask := 0xFFF0FFFF,
      fields := [⟨31, 29, 0, 7⟩, ⟨28, 28, 0, 1⟩, ⟨27, 27, 0, 1⟩, ⟨26, 25, 0, 3⟩, ⟨24, 20, 0, 16⟩, ⟨15, 8, 0, 0xFF⟩, ⟨7, 0, 0, 0xFF⟩] }
  , { name := "HIST_STATE", base := blkKeeper + 0x6084, count := 63, stride := 128, access := .hs }
  , { name := "HIST_PENDING", base := blkKeeper + 0x6088, count := 63, stride := 128, access := .hs }
  , { name := "HIST_CTRL", base := blkKeeper + 0x608C, count := 63, stride := 128, access := .wo, mask := 0x3 } ]
  ++ (List.range 63).map (fun h =>
    { name := "HIST_ENTRY", base := blkKeeper + 0x6090 + 128 * h, count := 16, access := .hs })

/-- Security (chapter 21), power and hallmarks (chapters 2 and 20), log (chapter 22), manifest (chapter 16). -/
def rowsSystem : List RegRow :=
  [ { name := "SEC_STATUS", base := blkSecurity, access := .hs }
  , { name := "FW_STATUS", base := blkSecurity + 4, access := .hs }
  , { name := "SEC_EVENTS", base := blkSecurity + 8, access := .w1c, mask := 0x3FF }
  , { name := "SEC_EVENT_ENABLE", base := blkSecurity + 0xC, access := .rw, reset := 0x3FF, mask := 0x3FF }
  , { name := "AUTH_NONCE", base := blkSecurity + 0x10, wide := true, access := .ro }
  , { name := "DEBUG_EXPIRY", base := blkSecurity + 0x18, wide := true, access := .hs }
  , { name := "AUTH_FAILS", base := blkSecurity + 0x20, access := .hs }
  , { name := "LOCKET_STATUS", base := blkSecurity + 0x100, access := .hs }
  , { name := "PACE_NOW", base := blkPower, access := .hs }
  , { name := "BEAT_COUNT", base := blkPower + 8, wide := true, access := .hs }
  , { name := "GOV_STATUS", base := blkPower + 0x10, access := .hs, mask := 0x3F }
  , { name := "GOV_EVENTS", base := blkPower + 0x14, access := .w1c, mask := 0x7F }
  , { name := "GOV_EVENT_ENABLE", base := blkPower + 0x18, access := .rw, reset := 0x7F, mask := 0x7F }
  , { name := "POWER_AVG", base := blkPower + 0x20, access := .hs, mask := 0x0FFF0FFF }
  , { name := "POWER_CAP", base := blkPower + 0x24, access := .lk, rule := .variant 2500 2250, reset := 0x9C4, mask := 0xFFF, fields := [⟨11, 0, 600, 2500⟩] }
  , { name := "PLAN_STATUS", base := blkPower + 0x30, access := .hs }
  , { name := "OPERATING_HOURS", base := blkPower + 0x34, access := .hs }
  , { name := "REGION_SUPPLY", base := blkPower + 0x40, count := 14, access := .hs }
  , { name := "POWER_STATUS", base := blkPower + 0x80, access := .hs, reset := 0x80000000 }
  , { name := "IDLE_DELAY", base := blkPower + 0x84, access := .lk, reset := 0x64, mask := 0xFFFF, fields := [⟨15, 0, 0, 65535⟩] }
  , { name := "GATE_BERTHS", base := blkPower + 0x88, access := .lk, mask := 0xFF, fields := [⟨7, 0, 0, 0xFF⟩] }
  , { name := "RESET_CTRL", base := blkPower + 0x90, access := .wo, mask := 0xFFFF0003 }
  , { name := "RESET_CAUSE", base := blkPower + 0x94, access := .hs }
  , { name := "RESET_EVENTS", base := blkPower + 0x98, access := .w1c, mask := 0x1F }
  , { name := "RESET_EVENT_ENABLE", base := blkPower + 0x9C, access := .rw, reset := 0x1F, mask := 0x1F }
  , { name := "STALE_REPLIES", base := blkPower + 0xA0, wide := true, access := .hs }
  , { name := "HALLMARK", base := blkPower + 0x1000, count := 640, stride := 8, wide := true, access := .ro }
  , { name := "UNIT_INC", base := blkPower + 0x3000, count := 128, access := .hs }
  , { name := "FUNC_INC", base := blkPower + 0x3200, count := 32, access := .hs }
  , { name := "LOG_NEXT", base := blkLogbook, access := .hs, reset := 1 }
  , { name := "LOG_COUNTS", base := blkLogbook + 4, access := .hs }
  , { name := "LOG_CLASS_ENABLE", base := blkLogbook + 8, access := .rw, reset := 0xC, mask := 0xF }
  , { name := "LOGBOOK_REGION", base := blkLogbook + 0x10, wide := true, access := .lk, mask := 0x81FFFFFFC0000000,
      fields := [⟨63, 63, 0, 1⟩, ⟨56, 48, 0, 256⟩, ⟨47, 30, 0, 0x3FFFF⟩] }
  , { name := "LOGBOOK_CFG", base := blkLogbook + 0x18, access := .lk, mask := 0x7, fields := [⟨2, 2, 0, 1⟩, ⟨1, 1, 0, 1⟩, ⟨0, 0, 0, 1⟩] }
  , { name := "LOGBOOK_STATUS", base := blkLogbook + 0x1C, access := .hs }
  , { name := "LOGBOOK_NEXT", base := blkLogbook + 0x20, wide := true, access := .hs }
  , { name := "LOGBOOK_OLDEST", base := blkLogbook + 0x28, wide := true, access := .hs }
  , { name := "SERVE_STATE", base := blkManifest, count := 8, access := .hs }
  , { name := "SERVE_EVENTS", base := blkManifest + 0x40, access := .w1c, mask := 0x3F }
  , { name := "SERVE_EVENT_ENABLE", base := blkManifest + 0x44, access := .rw, reset := 0x3F, mask := 0x3F }
  , { name := "MANIFEST_SELECT", base := blkManifest + 0x50, access := .rw, mask := 0x3FFF }
  , { name := "MANIFEST_VIEW", base := blkManifest + 0x100, count := 32, access := .hs }
  , { name := "SERVE_STEPS", base := blkManifest + 0x200, count := 8, stride := 64, wide := true, access := .hs }
  , { name := "SERVE_TOKENS", base := blkManifest + 0x208, count := 8, stride := 64, wide := true, access := .hs }
  , { name := "PREFILL_FED", base := blkManifest + 0x210, count := 8, stride := 64, wide := true, access := .hs }
  , { name := "DRAFT_PROPOSED", base := blkManifest + 0x218, count := 8, stride := 64, wide := true, access := .hs }
  , { name := "DRAFT_ACCEPTED", base := blkManifest + 0x220, count := 8, stride := 64, wide := true, access := .hs }
  , { name := "KV_FREE", base := blkManifest + 0x228, count := 8, stride := 64, access := .hs }
  , { name := "HELD", base := blkManifest + 0x22C, count := 8, stride := 64, access := .hs }
  , { name := "MIXED_STEPS", base := blkManifest + 0x230, count := 8, stride := 64, access := .hs }
  , { name := "BUDGET_CFG", base := blkManifest + 0x1000, count := 64, stride := 16, access := .lk, mask := 0xF0FFFFFF,
      fields := [⟨31, 31, 0, 1⟩, ⟨30, 28, 0, 7⟩, ⟨23, 0, 0, 0xFFFFFF⟩] }
  , { name := "BUDGET_CAP", base := blkManifest + 0x1004, count := 64, stride := 16, access := .lk, mask := 0x7FFFFFFF,
      fields := [⟨30, 0, 0, 0x7FFFFFFF⟩] }
  , { name := "BUDGET_FLOOR", base := blkManifest + 0x1008, count := 64, stride := 16, access := .lk, mask := 0x7FFFFFFF,
      fields := [⟨30, 0, 0, 0x7FFFFFFF⟩] }
  , { name := "BUDGET_BALANCE", base := blkManifest + 0x100C, count := 64, stride := 16, access := .hs } ]

/-- The whole register map. -/
def regTable : List RegRow :=
  rowsHost ++ rowsDevice ++ rowsSystem ++ rowsKeeper ++ rowsMemory ++ rowsLinks ++ rowsCompute

/-- A word of the map: its row, its index in the array and whether it is the high word of a 64-bit register. -/
structure RegWord where
  row : RegRow
  index : Nat
  high : Bool
  deriving DecidableEq, Repr

/-- Which word of a row an address is, if any. -/
def RegRow.word (r : RegRow) (a : Nat) : Option RegWord :=
  if a < r.base then none
  else
    let i := (a - r.base) / r.stride
    let o := (a - r.base) % r.stride
    if i < r.count then
      if o = 0 then some ⟨r, i, false⟩
      else if o = 4 && r.wide then some ⟨r, i, true⟩
      else none
    else none

/-- A wide register that stands alone has its high word one stride on. -/
def RegRow.wordOf (r : RegRow) (a : Nat) : Option RegWord :=
  if r.wide && r.count = 1 then
    (if a = r.base then some ⟨r, 0, false⟩ else if a = r.base + 4 then some ⟨r, 0, true⟩ else none)
  else r.word a

/-- The register word at a BAR0 address; none for a reserved offset. -/
def regWord (a : Nat) : Option RegWord := regTable.findSome? fun r => r.wordOf a

/-- The formats of weights, activations and their narrow copies: not block scales, integers, gradients or indices (Table 7-1). -/
def tensorFormat (code : Nat) : Bool := decide (0x01 ≤ code) && decide (code ≤ 0x0B)

/-- The format codes that CAP_FORMATS reports as supported (Table 7-1). -/
def supportedFormats : List Nat :=
  [0x01, 0x02, 0x03, 0x04, 0x05, 0x06, 0x07, 0x08, 0x09, 0x0A, 0x0B, 0x0C, 0x10, 0x11, 0x18, 0x19, 0x1A]

/-- Word w of CAP_FORMATS (R128). -/
def capFormats (w : Nat) : Nat :=
  supportedFormats.foldl (fun a c => if c / 32 = w then a + 2 ^ (c % 32) else a) 0

/-- The reset value of a register as a 64-bit number, by variant and array index. -/
def RegRow.resetOf (v : Variant) (r : RegRow) (i : Nat) : Nat :=
  match r.rule with
  | .fixed => r.reset
  | .axis => 0x00100100 + 0x00100000 * i
  | .berthZero x => if i = 0 then x else 0
  | .stack => if i = 0 then (match v with | .l => 0x8004000000000000 | .s => 0x8002000000000000) else 0
  | .variant l s => (match v with | .l => l | .s => s)
  | .formats => capFormats i

/-- On the 1S the blocks of the unpopulated stack sites behave as reserved offsets (R16). -/
def sitePopulated (v : Variant) (a : Nat) : Bool :=
  match v with
  | .l => true
  | .s =>
    let b := (a - 0x02000000) / 0x10000
    !(decide (0x02000000 ≤ a) && ((decide (0x44 ≤ b) && decide (b ≤ 0x47)) || (decide (0x4C ≤ b) && decide (b ≤ 0x4F))))

/-- A row with a register that is not 0 after reset. -/
def RegRow.resets (r : RegRow) : Bool := r.reset != 0 || r.rule != .fixed

/-- The rows with such a register: every other word is 0 after reset. -/
def resetTable : List RegRow := regTable.filter RegRow.resets

/-- The word an address holds after reset. -/
def regReset (v : Variant) (a : Nat) : Word :=
  match resetTable.findSome? fun r => r.wordOf a with
  | none => 0
  | some w => BitVec.ofNat 32 (if w.high then w.row.resetOf v w.index / 2 ^ 32 else w.row.resetOf v w.index)

/-- The defined bits of register i of a row, as a 64-bit number. Slot 0 of ASSAY_OWNER does not exist (R197). -/
def RegRow.defined (r : RegRow) (i : Nat) : Nat :=
  if r.name = "ASSAY_OWNER" && i = 0 then 0x87878700
  else if r.wide && r.mask = 0xFFFFFFFF then 0xFFFFFFFFFFFFFFFF
  else r.mask

/-- The defined bits of a word. -/
def RegWord.mask (w : RegWord) : Nat :=
  let m := w.row.defined w.index
  if w.high then m / 2 ^ 32 else m % 2 ^ 32

end Sys2Proof.Machine
end

