-- ==== Sys2Proof/Machine/Formats.lean ====
section
/-! DEFINITION. Number formats (chapter 7): element encodings, exact values, the one rounding, conversion outcomes with what the
assay counts, MX blocks, GT blocks. A value is exact until it is rounded. -/

namespace Sys2Proof.Machine

/-! ## Values -/

/-- A value read from an element: NaN, an infinity, or (-1)^neg × mant × 2^exp. -/
inductive Fp where
  | nan
  | inf (neg : Bool)
  | fin (neg : Bool) (mant : Nat) (exp : Int)
  deriving DecidableEq, Repr

def Fp.zero : Fp := .fin false 0 0
def Fp.one : Fp := .fin false 1 0

/-- The value of an integer. -/
def Fp.ofInt (i : Int) : Fp := .fin (decide (i < 0)) i.natAbs 0

def Fp.isNan : Fp → Bool
  | .nan => true
  | _ => false

def Fp.isInf : Fp → Bool
  | .inf _ => true
  | _ => false

def Fp.isFinite : Fp → Bool
  | .fin _ _ _ => true
  | _ => false

def Fp.isZero : Fp → Bool
  | .fin _ m _ => m == 0
  | _ => false

def Fp.sign : Fp → Bool
  | .nan => false
  | .inf s => s
  | .fin s _ _ => s

def Fp.neg : Fp → Fp
  | .nan => .nan
  | .inf s => .inf (!s)
  | .fin s m e => .fin (!s) m e

def Fp.abs : Fp → Fp
  | .nan => .nan
  | .inf _ => .inf false
  | .fin _ m e => .fin false m e

/-- m × 2^e as a numerator over the common quantum 2^q, q at most e. -/
def scaled (m : Nat) (e q : Int) : Nat := m * 2 ^ (e - q).toNat

/-- Compares the magnitudes m1 × 2^e1 and m2 × 2^e2. -/
def magLt (m1 : Nat) (e1 : Int) (m2 : Nat) (e2 : Int) : Bool :=
  decide (scaled m1 e1 (min e1 e2) < scaled m2 e2 (min e1 e2))

/-- The numerator of a finite value over 2^q. -/
def Fp.over (x : Fp) (q : Int) : Int :=
  match x with
  | .fin s m e => if s then -(scaled m e q : Int) else (scaled m e q : Int)
  | _ => 0

/-- The exponent of a finite value's quantum. -/
def Fp.expo : Fp → Int
  | .fin _ _ e => e
  | _ => 0

/-- floor(log2 of the magnitude) of a finite value that is not zero. -/
def Fp.lead : Fp → Int
  | .fin _ m e => e + Nat.log2 m
  | _ => 0

/-- The value times 2^k. -/
def Fp.shift (x : Fp) (k : Int) : Fp :=
  match x with
  | .fin s m e => .fin s m (e + k)
  | y => y

/-! ## Exact arithmetic -/

/-- The exact product; NaN from NaN and from 0 × ∞ (R212, R214). -/
def Fp.mul : Fp → Fp → Fp
  | .nan, _ => .nan
  | _, .nan => .nan
  | .inf a, .inf b => .inf (xor a b)
  | .inf a, .fin b m _ => if m = 0 then .nan else .inf (xor a b)
  | .fin a m _, .inf b => if m = 0 then .nan else .inf (xor a b)
  | .fin a m e, .fin b n f => .fin (xor a b) (m * n) (e + f)

/-- The exact sum; an exact zero sum is +0 unless both terms are -0 (R215). -/
def Fp.add : Fp → Fp → Fp
  | .nan, _ => .nan
  | _, .nan => .nan
  | .inf a, .inf b => if a = b then .inf a else .nan
  | .inf a, _ => .inf a
  | _, .inf b => .inf b
  | .fin a m e, .fin b n f =>
    let q := min e f
    let t := (Fp.fin a m e).over q + (Fp.fin b n f).over q
    if t = 0 then .fin (a && b) 0 0 else .fin (decide (t < 0)) t.natAbs q

def Fp.sub (x y : Fp) : Fp := x.add y.neg

/-- Is x less than y? False where either is NaN; the zeros are equal. -/
def Fp.lt (x y : Fp) : Bool :=
  match x, y with
  | .nan, _ => false
  | _, .nan => false
  | .inf a, .inf b => a && !b
  | .inf a, _ => a
  | _, .inf b => !b
  | .fin _ _ e, .fin _ _ f => decide (x.over (min e f) < y.over (min e f))

/-- Equality of values; false where either is NaN. -/
def Fp.eq (x y : Fp) : Bool := !x.isNan && !y.isNan && !x.lt y && !y.lt x

def Fp.le (x y : Fp) : Bool := x.lt y || x.eq y

/-! ## The one rounding (R192) -/

/-- m ÷ 2^d rounded to nearest, ties to even. -/
def shiftRne (m d : Nat) : Nat :=
  let q := m / 2 ^ d
  let r := m % 2 ^ d
  if 2 ^ d < 2 * r || (2 ^ d = 2 * r && q % 2 = 1) then q + 1 else q

/-- m × 2^e to nearest even at p significant bits and a quantum of at least 2^emin: numerator and quantum. -/
def roundTo (p : Nat) (emin : Int) (m : Nat) (e : Int) : Nat × Int :=
  let q := max (e + Nat.log2 m + 1 - p) emin
  if q ≤ e then (m * 2 ^ (e - q).toNat, q) else (shiftRne m (q - e).toNat, q)

/-- An integer to nearest, ties to even, from m × 2^e. -/
def roundNat (m : Nat) (e : Int) : Nat := if 0 ≤ e then m * 2 ^ e.toNat else shiftRne m (-e).toNat

/-! ## Floating-point elements (Tables 7-1 and 7-2) -/

structure FpFormat where
  ebits : Nat
  mbits : Nat
  bias : Int
  /-- The magnitude code of the largest finite value. -/
  largest : Nat
  /-- The magnitude code of infinity; none where the format has none. -/
  infCode : Option Nat
  /-- The code NaN is written as; none where the format has none. -/
  nanCode : Option Nat
  deriving DecidableEq, Repr

def fp32Format : FpFormat := ⟨8, 23, 127, 0x7F7FFFFF, some 0x7F800000, some 0x7FC00000⟩
def bf16Format : FpFormat := ⟨8, 7, 127, 0x7F7F, some 0x7F80, some 0x7FC0⟩
def fp16Format : FpFormat := ⟨5, 10, 15, 0x7BFF, some 0x7C00, some 0x7E00⟩
def e4m3Format : FpFormat := ⟨4, 3, 7, 0x7E, none, some 0x7F⟩
def e5m2Format : FpFormat := ⟨5, 2, 15, 0x7B, some 0x7C, some 0x7E⟩
def e3m2Format : FpFormat := ⟨3, 2, 3, 0x1F, none, none⟩
def e2m3Format : FpFormat := ⟨2, 3, 1, 0x1F, none, none⟩
def e2m1Format : FpFormat := ⟨2, 1, 1, 0x7, none, none⟩

/-- The floating-point element format of a format code; none for the integer, scale and GT codes. -/
def fpFormat (code : Nat) : Option FpFormat :=
  if code = 0x01 then some fp32Format
  else if code = 0x02 then some bf16Format
  else if code = 0x03 then some fp16Format
  else if code = 0x04 || code = 0x06 then some e4m3Format
  else if code = 0x05 || code = 0x07 then some e5m2Format
  else if code = 0x08 then some e3m2Format
  else if code = 0x09 then some e2m3Format
  else if code = 0x0A then some e2m1Format
  else none

/-- The exponent of a format's smallest subnormal. -/
def FpFormat.emin (f : FpFormat) : Int := 1 - f.bias - f.mbits

/-- The sign bit's place. -/
def FpFormat.width (f : FpFormat) : Nat := f.ebits + f.mbits

/-- Reads an element (R183, R185). -/
def FpFormat.decode (f : FpFormat) (w : Nat) : Fp :=
  let c := w % 2 ^ f.width
  let s := w.testBit f.width
  if c ≤ f.largest then
    let e := c / 2 ^ f.mbits
    let m := c % 2 ^ f.mbits
    if e = 0 then .fin s m f.emin else .fin s (2 ^ f.mbits + m) (f.emin + e - 1)
  else if f.infCode = some c then .inf s
  else .nan

/-- The value of the largest finite element. -/
def FpFormat.top (f : FpFormat) : Fp := f.decode f.largest

/-- The magnitude code of a numerator over a quantum of at least the smallest subnormal. -/
def FpFormat.code (f : FpFormat) (m : Nat) (q : Int) : Nat := (q - f.emin).toNat * 2 ^ f.mbits + m

/-! ## Conversion outcomes (R194, Table 7-3) and what the assay counts (R195) -/

/-- One element as converted. -/
structure Conv where
  bits : Nat
  saturated : Bool := false
  vanished : Bool := false
  nonfinite : Bool := false
  deriving DecidableEq, Repr

/-- A sign bit above a magnitude code. -/
def FpFormat.signed (f : FpFormat) (s : Bool) (c : Nat) : Nat := c + bit s * 2 ^ f.width

/-- Does overflow give an infinity (FP32, BF16, FP16)? -/
def FpFormat.overflows (f : FpFormat) : Bool := f.infCode.isSome && f != e5m2Format

/-- Converts a value to a floating-point element: the outcomes of Table 7-3. -/
def FpFormat.convert (f : FpFormat) (x : Fp) : Conv :=
  match x with
  | .nan => { bits := f.nanCode.getD 0, nonfinite := true }
  | .inf s => { bits := f.signed s (f.infCode.getD f.largest), nonfinite := true }
  | .fin s 0 _ => { bits := f.signed s 0 }
  | .fin s m e =>
    let beyond := f.top.lt (.fin false m e)
    let r := roundTo (f.mbits + 1) f.emin m e
    let c := f.code r.1 r.2
    if f.overflows then
      if f.largest < c then { bits := f.signed s (f.infCode.getD f.largest), saturated := true }
      else { bits := f.signed s c, saturated := beyond, vanished := c == 0 }
    else if beyond then { bits := f.signed s f.largest, saturated := true }
    else { bits := f.signed s c, vanished := c == 0 }

/-- Converts a value to a two's-complement integer of w bits, from low to high. -/
def convertInt (w : Nat) (low high : Int) (x : Fp) : Conv :=
  match x with
  | .nan => { bits := 0, nonfinite := true }
  | .inf s => { bits := patternOf w (if s then low else high), nonfinite := true }
  | .fin s m e =>
    let past := (if s then Fp.ofInt low else Fp.ofInt high).abs.lt (.fin false m e)
    if past then { bits := patternOf w (if s then low else high), saturated := true }
    else
      let r := roundNat m e
      { bits := patternOf w (if s then -(r : Int) else (r : Int)), vanished := r == 0 && m != 0 }

/-- Converts a value to one element of a format code that has no block. MXINT8 elements are x × 2^-6 (R190). -/
def convertTo (code : Nat) (x : Fp) : Conv :=
  match fpFormat code with
  | some f => f.convert x
  | none =>
    if code = 0x0B then
      match x with
      | .nan => { bits := 0, nonfinite := true }
      | y => convertInt 8 (-127) 127 (y.shift 6)
    else if code = 0x10 then convertInt 8 (-128) 127 x
    else if code = 0x11 then convertInt 32 (-2147483648) 2147483647 x
    else { bits := 0 }

/-- Reads one element of a format code, without its block's scale. -/
def readElem (code w : Nat) : Fp :=
  match fpFormat code with
  | some f => f.decode w
  | none =>
    if code = 0x0B then (Fp.ofInt (signedOf 8 w)).shift (-6)
    else if code = 0x10 then Fp.ofInt (signedOf 8 w)
    else if code = 0x11 then Fp.ofInt (signedOf 32 w)
    else if code = 0x0C then (if w % 256 = 0xFF then .nan else .fin false 1 ((w % 256 : Nat) - 127))
    else if code = 0x1A then .fin false w 0
    else .zero

/-- The element bits of a format code (Table 7-1). -/
def elemBits (code : Nat) : Nat :=
  if code = 0x01 || code = 0x11 then 32
  else if code = 0x02 || code = 0x03 || code = 0x19 then 16
  else if code = 0x08 || code = 0x09 then 6
  else if code = 0x0A then 4
  else if code = 0x1A then 64
  else 8

/-! ## FP32 -/

/-- Rounds to FP32, to nearest even; overflow gives an infinity (R214). -/
def round32 (x : Fp) : Fp := fp32Format.decode (fp32Format.convert x).bits

/-- The FP32 pattern of a value, rounded. -/
def toF32 (x : Fp) : Nat := (fp32Format.convert x).bits

/-- The value of an FP32 pattern. -/
def ofF32 (w : Nat) : Fp := fp32Format.decode (w % 2 ^ 32)

def addF (x y : Fp) : Fp := round32 (x.add y)
def subF (x y : Fp) : Fp := round32 (x.sub y)
def mulF (x y : Fp) : Fp := round32 (x.mul y)

/-! ## MX blocks (R188, R191) -/

/-- EMAX of R191. -/
def mxEmax (code : Nat) : Int :=
  if code = 0x06 then 8
  else if code = 0x07 then 15
  else if code = 0x08 then 4
  else if code = 0x09 || code = 0x0A then 2
  else 0

/-- An element of a block read with its scale: NaN throughout where the scale is 0xFF. -/
def readMx (code scale w : Nat) : Fp := if scale = 0xFF then .nan else (readElem code w).shift ((scale : Int) - 127)

/-- The largest magnitude among finite values; zero where none is finite. -/
def amaxOf (xs : List Fp) : Fp := xs.foldl (fun a x => if x.isFinite && a.lt x.abs then x.abs else a) .zero

/-- The block scale the device chooses (R191). -/
def mxScale (code : Nat) (xs : List Fp) : Nat :=
  if xs.any Fp.isNan then 0xFF
  else
    let a := amaxOf xs
    if a.isZero then 0 else (min (max (a.lead - mxEmax code + 127) 0) 254).toNat

/-- Converts a value to an MX element: no MX element format has an infinity to write (Table 7-3). -/
def convertMx (code : Nat) (x : Fp) : Conv :=
  match x, fpFormat code with
  | .inf s, some f => { bits := f.signed s f.largest, nonfinite := true }
  | _, _ => convertTo code x

/-- Writes one MX block: its scale and its elements. -/
def writeMx (code : Nat) (xs : List Fp) : Nat × List Conv :=
  let x := mxScale code xs
  if x = 0xFF then (x, xs.map fun _ => { bits := 0, nonfinite := true })
  else (x, xs.map fun y => convertMx code (y.shift (127 - x)))

/-! ## Assay counts (R195) -/

structure Counts where
  total : Nat := 0
  saturated : Nat := 0
  vanished : Nat := 0
  nonfinite : Nat := 0
  deriving DecidableEq, Repr

/-- One converted element adds to TOTAL and to at most one other counter. -/
def Counts.one (k : Counts) (c : Conv) : Counts :=
  { total := k.total + 1,
    nonfinite := k.nonfinite + bit c.nonfinite,
    saturated := k.saturated + bit (!c.nonfinite && c.saturated),
    vanished := k.vanished + bit (!c.nonfinite && !c.saturated && c.vanished) }

def Counts.ofList (cs : List Conv) : Counts := cs.foldl Counts.one {}

def Counts.plus (a b : Counts) : Counts :=
  ⟨a.total + b.total, a.saturated + b.saturated, a.vanished + b.vanished, a.nonfinite + b.nonfinite⟩

/-! ## GT blocks (R205-R210) -/

/-- v ÷ 2 to nearest, ties to even. -/
def halveNe (v : Int) : Int :=
  let q := v / 2
  if v % 2 = 0 then q else if q % 2 = 0 then q else q + 1

/-- A GT block (Table 7-4); `wide` for GT16. -/
structure GtBlock where
  wide : Bool
  scale : Nat
  saturated : Bool
  ringEsc : Bool
  sourceEsc : Bool
  esc : Nat
  residue : Nat
  elems : List Int
  deriving DecidableEq, Repr

/-- The range of the elements. -/
def gtTop (wide : Bool) : Int := if wide then 32767 else 127

/-- A sum reduced modulo 251 to 0-250. -/
def residueOf (xs : List Int) : Nat := (xs.sum % 251).toNat

def gtBytes (wide : Bool) : Nat := if wide then 132 else 68

def GtBlock.flags (b : GtBlock) : Nat := bit b.saturated * 64 + bit b.ringEsc * 32 + bit b.sourceEsc * 16 + b.esc

/-- The block as laid out in memory. -/
def GtBlock.bytes (b : GtBlock) : List Byte :=
  leBytes 1 b.scale ++ leBytes 1 b.flags ++ leBytes 1 b.residue ++ leBytes 1 0
  ++ b.elems.flatMap fun v => if b.wide then leBytes 2 (patternOf 16 v) else leBytes 1 (patternOf 8 v)

/-- Reads a block; none where it is malformed (R206). -/
def gtRead (wide : Bool) (bs : List Byte) : Option GtBlock :=
  let w := if wide then 2 else 1
  let es := (List.range 64).map fun i => signedOf (8 * w) (fieldAt bs (4 + w * i) w)
  let f := fieldAt bs 1 1
  if fieldAt bs 0 1 = 255 || 251 ≤ fieldAt bs 2 1 || f.testBit 7 || fieldAt bs 3 1 ≠ 0
      || es.any (fun v => decide (v < -gtTop wide)) then none
  else some ⟨wide, fieldAt bs 0 1, f.testBit 6, f.testBit 5, f.testBit 4, field f 3 0, fieldAt bs 2 1, es⟩

/-- Is a block's RESIDUE that of its elements? -/
def GtBlock.checked (b : GtBlock) : Bool := b.residue == residueOf b.elems

/-- What element q stands for (R206). -/
def GtBlock.value (b : GtBlock) (i : Nat) : Fp := (Fp.ofInt (b.elems.getD i 0)).shift ((b.scale : Int) - 127 + b.esc)

/-- Widening GT8 to GT16 (R210). -/
def GtBlock.widen (b : GtBlock) : GtBlock := { b with wide := true }

def GtBlock.inRange (b : GtBlock) : Bool := b.elems.all fun v => decide (v.natAbs ≤ (gtTop b.wide).toNat)

/-- Clamps a block at ESC 15 and counts the clamped elements (R209). -/
def GtBlock.clamp (b : GtBlock) : GtBlock × Nat :=
  let t := gtTop b.wide
  let es := b.elems.map fun v => max (-t) (min t v)
  ({ b with elems := es, saturated := b.saturated || !b.inRange, residue := residueOf es },
    (b.elems.filter fun v => decide (t.toNat < v.natAbs)).length)

/-- One escalation: the halved block, and whether its two residues agree (R208). -/
def GtBlock.escalate (b : GtBlock) : GtBlock × Bool :=
  let es := b.elems.map halveNe
  let d := ((b.elems.zip es).map fun p => 2 * p.2 - p.1).sum
  let r := (((b.residue : Int) + d) % 251 * 126 % 251).toNat
  ({ b with elems := es, esc := b.esc + 1, residue := r }, r == residueOf es)

/-- The integer nearest a value, ties to even. -/
def roundInt (x : Fp) : Int :=
  match x with
  | .fin s m e => if s then -(roundNat m e : Int) else (roundNat m e : Int)
  | _ => 0

/-- Halves the elements while one is above the limit and ESC is below 15, by fuel. -/
def escalateWhile (limit : Nat) : Nat → Nat → List Int → Nat × List Int
  | 0, esc, ws => (esc, ws)
  | k + 1, esc, ws =>
    if esc < 15 && ws.any (fun w => decide (limit < w.natAbs)) then escalateWhile limit k (esc + 1) (ws.map halveNe)
    else (esc, ws)

/-- Encodes one GT8 block from 64 finite values at scale exponent s, with the number of clamped elements (R207). -/
def gtEncode (s : Int) (g : List Fp) : GtBlock × Nat :=
  let r := escalateWhile 127 15 0 (g.map fun x => roundInt (x.shift s))
  let b : GtBlock := ⟨false, (127 - s).toNat, false, false, decide (0 < r.1), r.1, 0, r.2⟩
  b.clamp

/-- The quantisation residual of element i: formed in FP32, kept in BF16 (R207). -/
def gtResidual (s : Int) (b : GtBlock) (i : Nat) (g : Fp) : Nat :=
  (bf16Format.convert (subF g ((Fp.ofInt (b.elems.getD i 0)).shift ((b.esc : Int) - s)))).bits

/-! ## The scale of a history slot (R201) -/

/-- FMT_MAX: 448 for FP8 E4M3, 57,344 for FP8 E5M2, 127 for GT8. -/
def fmtMax (code : Nat) : Nat := if code = 0x04 then 448 else if code = 0x05 then 57344 else 127

/-- The largest integer s such that amax × 2^s is at most FMT_MAX, for a finite amax above zero. -/
def fittingScale (code : Nat) (amax : Fp) : Int :=
  let t := (Nat.log2 (fmtMax code) : Int) - amax.lead
  if (Fp.ofInt (fmtMax code)).lt (amax.shift t) then t - 1 else t

end Sys2Proof.Machine
end

