-- ==== Sys2Proof/Machine/Types.lean ====
section
/-! DEFINITION. The parts of the state, chapter by chapter: plain data, in the spec's own words. Sparse collections are keyed
tables with rising keys (Machine/Bits.lean). -/

namespace Sys2Proof.Machine

/-! ## What a reset never undoes and a commit advances -/

/-- The identity of the module, the configuration epoch and the incarnations. Only commits move the epoch (R137) and only
resets move an incarnation (R554); no command changes the variant, the serial (R17) or the strap. An incarnation that the
tables do not list is 1. -/
structure Spine where
  /-- Fused (R17). -/
  variant : Variant
  /-- Fused; also bound into the signet certificate (SERIAL). -/
  serial : Wide
  /-- SLOT_ID0-SLOT_ID2, contacts S9-S11: the address strap (R28). -/
  slotId : BitVec 3
  /-- LOCK_EPOCH (R137). -/
  epoch : BitVec 32
  /-- UNIT_INC by unit block ID (R554). -/
  unitInc : List (Nat × BitVec 16)
  /-- FUNC_INC by function (R554). -/
  funcInc : List (Nat × BitVec 16)
  deriving DecidableEq, Repr

/-! ## Enlon links (chapter 14) -/

/-- A flit (Table 14-6). `payload` lists the payload bytes that are used. -/
structure Flit where
  seq : Nat
  ack : Nat
  vc : Nat
  kind : Nat
  flags : Nat
  credit : Nat
  /-- ROUTE[31:8]: destination coordinates. -/
  route : Nat
  valid : Nat
  payload : List Byte
  deriving DecidableEq, Repr

/-- A message (R378, Table 14-7): the header's fields and the body. -/
structure Msg where
  vc : Nat
  route : Nat
  length : Nat
  source : Nat
  targetInc : Nat
  cls : Nat
  context : Nat
  body : List Byte
  /-- Body ranges that came with POISON: offset and bytes (R379). -/
  poison : List (Nat × Nat)
  /-- Receive slots it still holds: dedicated and shared (R384, R399). -/
  held : Nat × Nat
  deriving DecidableEq, Repr

/-- An IDENT (Table 14-5). -/
structure Ident where
  minRev : Nat
  maxRev : Nat
  features : Nat
  serial : Nat
  port : Nat
  variant : Nat
  inc : Nat
  sizes : List Nat
  coords : List Nat
  cuts : List Nat
  rxLanes : Nat
  dedicated : List Nat
  shared : Nat
  deriving DecidableEq, Repr

/-- A message being received: its START flit has come and its END flit has not. -/
structure Inbound where
  vc : Nat
  route : Nat
  bytes : List Byte
  poison : List (Nat × Nat)
  held : Nat × Nat
  /-- Its flits stay in their slots until its consumer takes it (R399). -/
  hold : Bool
  /-- Forwarded to this port and VC (R386). -/
  forward : Option (Nat × Nat)
  /-- Discarded: the rest of it is swallowed up to its END flit. -/
  drop : Bool
  deriving DecidableEq, Repr

/-- One optical port. -/
structure Port where
  /-- Table 14-3: 0 DOWN, 1 WAITING, 2 TRAINING, 3 UP, 4 RESTRICTED, 5 REFUSED, 6 FENCED, 7 HELD. LOOPBACK follows from SIZE. -/
  state : Nat
  /-- Local time of entering TRAINING. -/
  since : Nat
  /-- Bring-up (Table 14-4): 1 lanes in judgement, 2 own WIDTH sent, 3 IDENT sent, 4 CREDIT_INIT sent. -/
  phase : Nat
  /-- The peer's WIDTH of this bring-up has come. -/
  widthSeen : Bool
  /-- A failed bring-up starts again at this local time (R369). -/
  retryAt : Option Nat
  /-- The latest feed reading was below +17.0 dBm (R366). -/
  weak : Bool
  /-- FENCED, and all three sensors have since reported absent (R390). -/
  sawAbsent : Bool
  /-- HELD on top of FENCED: RELEASE leaves the port FENCED. -/
  fencedUnder : Bool
  txWidth : Nat
  rxWidth : Nat
  identity : Option Ident
  /-- SEQ of the next flit sent. -/
  next : Nat
  /-- The SEQ expected next. -/
  expect : Nat
  /-- The replay buffer: flits no ACK covers, oldest first, with their message numbers. -/
  kept : List (Flit × Nat)
  /-- Flits that wait for the replay buffer or for credit. -/
  waiting : List (Flit × Nat)
  /-- Local time at which the ACK last advanced or the buffer was empty. -/
  ackAt : Nat
  /-- The SEQ the peer NAKs, and how often in a row. -/
  nakSeq : Nat
  nakCount : Nat
  /-- Local time of the latest NAK sent for SEQ `expect`; none while nothing is missing. -/
  nakFrom : Option Nat
  /-- Retraining since this local time (R382). -/
  retrain : Option Nat
  /-- Credits of the peer's receiver: dedicated by VC, shared, the shared pool, and shared credits in use by VC. -/
  credits : List Nat
  /-- The dedicated counts of the peer's latest CREDIT_INIT. -/
  peerDed : List Nat
  shared : Nat
  pool : Nat
  usedShared : List Nat
  /-- Slots of this receiver as the latest CREDIT_INIT sent gave them, by VC. -/
  granted : List Nat
  /-- Slots that flits hold: dedicated and shared, by VC. -/
  heldDed : List Nat
  heldShared : List Nat
  opening : List Inbound
  /-- Messages whose END flit was accepted and that are not delivered. -/
  arrived : List Msg
  /-- Delivered messages that their consumers have not taken. -/
  inbox : List Msg
  /-- Local times of the latest violations (R390). -/
  violationsAt : List Nat
  /-- VCs whose dedicated credits a commit changed (R385). -/
  repartition : List Nat
  /-- Local time of the latest flit with a good CRC. -/
  lastGood : Nat
  deriving DecidableEq, Repr

/-! ## What the block sends out -/

/-- One thing the block sends to the outside: the model's record of it, oldest first in State.outbox. -/
inductive Out where
  /-- An MSI-X message of a function's vector (R77). -/
  | interrupt (fn vector : Nat)
  /-- The completion of a register, view, BAR2 or debug-window read. -/
  | readData (value : Nat)
  /-- The data of a BAR2 read or AtomicOp, in address order. -/
  | readBytes (bytes : List Byte)
  /-- A BAR2 read completed with the poisoned-data indication, every one of n data bytes 0xFF (Table 12-2). -/
  | readPoisoned (n : Nat)
  /-- A completion with Completer Abort (R283, R293, Table 12-2). -/
  | completerAbort
  /-- A management response on a transport: completion or error code and the values it carries (R81). -/
  | response (t : Transport) (code : Nat) (values : List Nat)
  /-- A management response that carries bytes. -/
  | responseBytes (t : Transport) (code : Nat) (bytes : List Byte)
  /-- A flit that a port sends. -/
  | flit (port : Nat) (f : Flit)
  deriving DecidableEq, Repr

/-! ## Queues (chapter 4) -/

inductive QueueStatus where
  | active
  | fenced
  | resetting
  deriving DecidableEq, Repr

/-- One created queue (R100-R111): its binding, its rings and its doorbell positions. -/
structure Queue where
  fn : Nat
  berth : Nat
  weight : Nat
  sqLog2 : Nat
  cqLog2 : Nat
  vector : Nat
  sqBase : Nat
  cqBase : Nat
  /-- Slot after the last fetched packet (SQ_HEAD). -/
  head : Nat
  /-- Last accepted SQ_TAIL. -/
  tail : Nat
  /-- Last accepted CQ_HEAD. -/
  cqHead : Nat
  /-- The completion entry the device writes next. -/
  cqNext : Nat
  /-- PHASE of the current pass (R104). -/
  phase : Bool
  status : QueueStatus
  /-- Packets fetched in this arbitration round (R105). -/
  round : Nat
  /-- Local times of the latest class 1 refusals (R124). -/
  refusedAt : List Nat
  /-- Local times of the latest bad doorbells (R124). -/
  badAt : List Nat
  deriving DecidableEq, Repr

/-- Where a command in flight stands (R112-R116). -/
inductive Stage where
  /-- Fetched behind a COMMIT that has not ended: not accepted yet (R141). -/
  | waiting
  /-- Accepted, held by a fence or a quiesce (R114). -/
  | held
  /-- Accepted and free to start. -/
  | ready
  /-- Started; a later event finishes it. -/
  | running
  /-- Finished or refused; its reply is not yet written. -/
  | done
  deriving DecidableEq, Repr

/-- Something of the device that a command needs (R142). -/
inductive Need where
  /-- A range of device addresses. -/
  | range (a n : Nat)
  /-- A pavé or engine, by unit block ID. -/
  | unit (u : Nat)
  /-- A collective group, an assay slot, a scale-history slot, an update context. -/
  | group (n : Nat)
  | assay (n : Nat)
  | history (n : Nat)
  | context (n : Nat)
  deriving DecidableEq, Repr

/-- One command in flight: fetched, and its reply not yet written (R112). State.inflight lists them in fetch order. -/
structure Cmd where
  queue : Nat
  tag : Nat
  fn : Nat
  opcode : Nat
  flags : Nat
  berth : Nat
  /-- The epoch stamped at acceptance (R113); 0: refused before acceptance. -/
  epoch : Nat
  /-- Local time of acceptance. -/
  acceptedAt : Nat
  /-- Local time at which TIMEOUT expires (R117). -/
  deadline : Option Nat
  /-- The whole packet as fetched. -/
  packet : List Byte
  stage : Stage
  status : Nat
  detail : Nat
  result0 : Nat
  result1 : Nat
  /-- LOGGED of the reply: the command left an event-log record. -/
  logged : Bool
  /-- The scale exponent of its scale-history slot (R200, R204); none while an ADVANCE or RESET accepted before it waits. -/
  scale : Option Int
  /-- What it adds to its assay slot when it completes with status class 0 (R196): slot, target format, counts. -/
  assay : Option (Nat × Nat × Counts)
  /-- The maximum it adds to its scale-history slot then: slot and FP32 pattern. -/
  amax : Option (Nat × Nat)
  /-- Bodies of the Enlon messages it sent, in order (R594). -/
  bodies : List Byte
  /-- The number of its fetch: the model's own, which no other command has. -/
  seq : Nat := 0
  /-- ABORT: the number of the command it names, if one was in flight when the ABORT was accepted (R118). ADMIT: the LIVE slot then of
  the adapter it names (R356). -/
  aims : Option Nat := none
  /-- What it needs, as its packet and the settings of its epoch give it (R142). -/
  needs : List Need := []
  deriving DecidableEq, Repr

/-- Whose operation accesses memory in the present step, and by which settings: the model's own. Between steps it is `idle`. -/
structure Acting where
  /-- The epoch whose settings it sees (R140); 0: the current ones. -/
  epoch : Nat
  /-- The berth that issued it; none: traffic of no berth (weir 8). -/
  berth : Option Nat
  /-- The spec counts its accesses out: they are the ones the model makes. -/
  counted : Bool
  deriving DecidableEq, Repr

/-- A service's report that waits for its queue's completion ring (R110, R435). -/
structure Report where
  queue : Nat
  tag : Nat
  fn : Nat
  status : Nat
  detail : Nat
  epoch : Nat
  result0 : Nat
  result1 : Nat
  deriving DecidableEq, Repr

/-- A function's negotiation (R126, R127). -/
structure Hello where
  rev : Nat
  features : Nat
  deriving DecidableEq, Repr

/-- Host memory, which is outside the block: the bytes it was last seen to hold or was given, and what fails. -/
structure HostMem where
  cells : List Host.Cell
  fails : List (Nat × Nat)
  deriving DecidableEq, Repr

/-! ## Device memory (chapters 10, 11 and 12) -/

/-- What a filled range holds. -/
inductive FillKind where
  /-- Each byte is a free value of this draw until it is written. -/
  | free (draw : Nat)
  /-- The 8-byte pattern repeated, from addresses that are multiples of 8 (R305). -/
  | pattern (w : Wide)
  deriving DecidableEq, Repr

/-- A range of physical addresses that was filled as a whole. -/
structure Fill where
  lo : Nat
  len : Nat
  kind : FillKind
  deriving DecidableEq, Repr

/-- A stack line held in the basin cache (R281), where it stands there, and whether it is dirty. -/
structure CacheLine where
  /-- Its first stack address. -/
  line : Nat
  /-- Segment of its home hub, set within the segment, way of the set. -/
  seg : Nat
  set : Nat
  way : Nat
  dirty : Bool
  /-- Its CRC failed and it was fetched again (R318). -/
  refetched : Bool
  /-- The number of its latest access. -/
  used : Nat
  deriving DecidableEq, Repr

/-- A sluice entry (R285): its line, and bit i for each byte i of the line that it holds. -/
structure SluiceEntry where
  line : Nat
  bytes : Nat
  deriving DecidableEq, Repr

/-- What the basin controllers and the regulated points hold (R281-R288, R306-R309). The bytes themselves stand in Mem: every reader
sees one value for each byte (R273). -/
structure Basin where
  lines : List CacheLine
  /-- Accesses so far: what "least recently used" goes by. -/
  uses : Nat
  /-- Ways out of use until the next cold reset: hub, segment, set, way (R318). -/
  disabled : List (Nat × Nat × Nat × Nat)
  /-- Oldest first. -/
  sluice : List SluiceEntry
  /-- Stack lines that the basin marks poisoned as a whole (R317). -/
  wide : List Nat
  /-- Scratchpad lines whose CRC has failed (R318). -/
  failedOnce : List Nat
  /-- The counters of traffic, by the address of their registers. -/
  counts : List (Nat × Nat)
  /-- An access that the spec does not count out has been made since the counters were zero (notes/assumptions/29.md). -/
  inexact : Bool
  /-- Bytes asked at each regulated point by each weir and not let through by an earlier window: by 16 × point + weir. Points: 0-15 the
  stacks, 16-27 the sockets, 28 and 29 the basins (Table 11-6). -/
  asked : List (Nat × Nat)
  /-- The weirs' words that this window goes by (R309), by weir: stack, reach, basin. -/
  shares : List (Nat × Nat × Nat)
  /-- Start of this window, and BEAT_COUNT then. -/
  windowFrom : Nat
  beatsFrom : Nat
  deriving DecidableEq, Repr

/-- The device's memories: stacks, reach modules, basin scratchpad and banks, by physical device address (a stripe address is
held under its socket's window, an alias view under the plain view). `cells` is in one canonical form: addresses strictly
rising, no entry equal to what an unlisted address reads as. -/
structure Mem where
  cells : List Host.Cell
  /-- Filled ranges; a listed byte stands before them. -/
  fills : List Fill
  /-- Poisoned units by their first address: a 64-byte sector of a stack or a reach module, a 64-byte granule of a bank, a
  line of the basin (R254, R316, R317). -/
  poison : List Nat
  /-- Sectors whose next read finds two symbols in error (R314). -/
  bad : List Nat
  /-- Poisoned units whose next read still answers UNCORRECTABLE: lines that a CRC mismatch just lost (R317). -/
  lost : List Nat
  /-- Bank bytes with bad parity (R252). -/
  parity : List Nat
  /-- FAILED stacks (R312). -/
  failed : List Nat
  /-- The power-on whose contents an unlisted byte of a stack or reach module has: a draw number (R304). -/
  life : Nat
  basin : Basin
  deriving DecidableEq, Repr

/-- A basin segment whose change of use or berth is not complete (R283): hub, segment and its BASIN_SEG byte before. -/
structure SegChange where
  hub : Nat
  seg : Nat
  old : Nat
  deriving DecidableEq, Repr

/-! ## Scale history (chapter 7) -/

/-- A write of ADVANCE or RESET that waits for the commands accepted before it (R202). -/
structure HistWait where
  slot : Nat
  /-- ADVANCE; otherwise RESET. -/
  advance : Bool
  /-- The numbers of these commands. -/
  before : List Nat
  deriving DecidableEq, Repr

/-! ## Pavés and vector engines (chapters 6, 9 and 10) -/

structure Units where
  /-- Fenced pavés and engines, by unit block ID (R150, R232). -/
  fenced : List Nat
  /-- Fenced units that were reset since they were fenced: SELF_TEST may take them (R596). -/
  readied : List Nat
  /-- Times of the latest parity errors by bank: 16 × die + index (R255). -/
  parityAt : List (Nat × List Nat)
  /-- Engines whose residue adder disagrees in its next addition: what ENGINE_FAULT has brought upon them (R246). -/
  upset : List Nat
  /-- Times of the latest residue disagreements by engine (R246). -/
  residueAt : List (Nat × List Nat)
  /-- By pavé: the beats of the last pass it ran, and the commands for it that had been accepted by then, with their times of
  acceptance; the first tile of one of them was loaded during that pass (R157). -/
  shadow : List (Nat × Nat × List (CmdRef × Nat))
  deriving DecidableEq, Repr

/-! ## Weight sets and adapters (chapter 13) -/

/-- A set slot that is not EMPTY (Table 13-1): 1 LOADING, 2 RESIDENT, 3 DAMAGED, 4 DROPPING. -/
structure WeightSet where
  state : Nat
  source : Nat
  access : Nat
  link : Nat
  peerSet : Nat
  version : Nat
  base : Nat
  bytes : Nat
  sourceAddr : Nat
  /-- The load or the drop in progress. -/
  command : Option CmdRef
  /-- Status with which a failed load or repair ends, once its failure commit is granted (R339). -/
  failing : Option Nat
  /-- The fingerprint of the bytes loaded, for the reply (R337). -/
  fingerprint : Wide
  /-- A drop has MODE CUT, and the sequences it cut (R348). -/
  cut : Nat
  /-- Epoch of the DROPPING commit. -/
  droppedAt : Nat
  /-- A turn made it DROPPING, or names it as its NEW_SET: an ABORT does not return it (Table 13-1). -/
  byTurn : Bool
  /-- The berths whose requests have named it, as a mask (R329). -/
  users : Nat := 0
  deriving DecidableEq, Repr

/-- An adapter slot that is not EMPTY: 1 LOADING, 2 LIVE, 3 RETIRING, 4 DAMAGED. -/
structure Adapter where
  state : Nat
  name : Nat
  version : Nat
  source : Nat
  baseSet : Nat
  rank : Nat
  access : Nat
  /-- Loaded by PF0: shared (R351). -/
  shared : Bool
  /-- The owner of the NAME where it is not shared: the VF's berth. -/
  berth : Nat
  alpha : Nat
  tensors : Nat
  base : Nat
  bytes : Nat
  sourceAddr : Nat
  peerPort : Nat
  peerSlot : Nat
  command : Option CmdRef
  failing : Option Nat
  fingerprint : Wide
  /-- DAMAGED while it was LIVE, and no replacement yet (R360). -/
  liveDamaged : Bool
  /-- Epoch of the commit at which it left LIVE. -/
  leftAt : Nat
  /-- The berths whose requests have named it, as a mask (R329). -/
  users : Nat := 0
  deriving DecidableEq, Repr

/-- One stack line under repair (R325, R326). -/
structure Repair where
  line : Nat
  /-- The line lies in an adapter; otherwise in a set. -/
  adapter : Bool
  slot : Nat
  openedAt : Nat
  /-- Its latest read-back was not CLEAN. -/
  unclean : Bool
  deriving DecidableEq, Repr

/-! ## Serving (chapter 16) -/

/-- A tensor entry of a model descriptor (Table 16-3). -/
structure Tensor where
  layer : Nat
  code : Nat
  fmt : Nat
  k : Nat
  n : Nat
  offset : Nat
  scaleOffset : Nat
  deriving DecidableEq, Repr

/-- A model descriptor as read once at SERVE_OPEN (R429). -/
structure Model where
  layers : Nat
  heads : Nat
  kvHeads : Nat
  headDim : Nat
  hidden : Nat
  ffn : Nat
  vocab : Nat
  experts : Nat
  topExperts : Nat
  kvScale : Nat
  eps : Nat
  ropeAddr : Nat
  tensors : List Tensor
  deriving DecidableEq, Repr

/-- One span of a sequence: its record and its pages, policy layers then draft layers (R444). -/
structure Span where
  record : Nat
  pages : List Nat
  deriving DecidableEq, Repr

/-- A manifest entry that is not FREE (Table 16-5): 1 HELD, 2 PREFILL, 3 DECODE, 4 REBUILD. ENDING is passed within one step. -/
structure Entry where
  state : Nat
  /-- WAIT: bit 2 WAIT_REPAIR, bit 1 WAIT_KV, bit 0 WAIT_BUDGET. -/
  wait : Nat
  svc : Nat
  /-- The policy set slot it pins (R344). -/
  set : Nat
  cls : Nat
  account : Nat
  draftLen : Nat
  rejectRun : Nat
  aflags : Nat
  sequence : Nat
  setVersion : Nat
  /-- Pinned adapter slot; none where no adapter is named. -/
  adapter : Option Nat
  adapterName : Nat
  adapterVersion : Nat
  length : Nat
  promptLen : Nat
  fed : Nat
  /-- The pending token of a DECODE sequence: the last one emitted. -/
  last : Nat
  generated : Nat
  maxNew : Nat
  spans : List Span
  invTemp : Nat
  topP : Nat
  topK : Nat
  stop0 : Nat
  stop1 : Nat
  promptAddr : Nat
  recordAddr : Nat
  request : Nat
  lastStep : Nat
  admitOrder : Nat
  tag : Nat
  queue : Nat
  fn : Nat
  /-- The rollout run it belongs to. -/
  run : Option Nat
  /-- Draft tokens kept (DRAFT_ACCEPTED of the record). -/
  accepted : Nat
  /-- A cancel or cut that takes effect at the next step boundary: its outcome code. -/
  ending : Option Nat
  /-- The SEQ_CANCEL commands that wait for that boundary. -/
  cancels : List CmdRef
  /-- Failed re-runs of its present step (R324, R457). -/
  failures : Nat
  /-- The berth of its service. -/
  berth : Nat
  deriving DecidableEq, Repr

/-- A rollout run (R461, R462). -/
structure Run where
  run : Nat
  account : Nat
  aflags : Nat
  samples : Nat
  prompts : Nat
  maxNew : Nat
  invTemp : Nat
  topP : Nat
  topK : Nat
  draftMax : Nat
  baseSeq : Nat
  stop0 : Nat
  stop1 : Nat
  table : Nat
  recordBase : Nat
  recordStride : Nat
  /-- The next sequence x to be admitted. -/
  next : Nat
  ended : Nat
  /-- Sequences that ended other than by stop or limit. -/
  other : Nat
  queue : Nat
  tag : Nat
  fn : Nat
  deriving DecidableEq, Repr

/-- What a batch step does for one manifest entry: the tokens it feeds and its draft length k. -/
structure StepRow where
  entry : Nat
  feed : Nat
  draft : Nat
  deriving DecidableEq, Repr

/-- A batch step in progress: 0 prefill, 1 decode, 2 mixed (R440, R441). -/
structure BatchStep where
  number : Nat
  epoch : Nat
  kind : Nat
  rows : List StepRow
  deriving DecidableEq, Repr

structure Serving where
  /-- False until the opening commit. -/
  opened : Bool
  /-- SERVE_CLOSE in progress: the command, its MODE and the sequences cut so far. -/
  closing : Option (CmdRef × Nat × Nat)
  berth : Nat
  fn : Nat
  queue : Nat
  set : Nat
  draftSet : Option Nat
  kvFmt : Nat
  stepMax : Nat
  prefillTokens : Nat
  weights : List Nat
  holdDepth : Nat
  alwaysMixed : Bool
  maxSeq : Nat
  maxContext : Nat
  seed : Nat
  model : Model
  draft : Option Model
  kvBase : Nat
  kvPages : Nat
  /-- The pool's page stride (R443). -/
  stride : Nat
  spans : Nat
  spanAddr : Nat
  /-- Bytes of a span record (R444). -/
  recBytes : Nat
  mixed : Bool
  /-- Steps completed or started so far: the number of the latest. -/
  stepNo : Nat
  step : Option BatchStep
  /-- A step that bad data interrupted, to be run again (R324, R326), and the re-runs of it for data of the recompute kind so far. -/
  again : Option BatchStep := none
  tries : Nat := 0
  /-- The latest step was a prefill step (R440: the kinds alternate). -/
  lastPrefill : Bool
  /-- Held entries in arrival order, by manifest index. -/
  held : List Nat
  runs : List Run
  admitted : Nat
  usedPages : List Nat
  usedSpans : List Nat
  /-- Parked by PREEMPT, a service hold or a quiesce at its step boundary. -/
  parked : Bool
  /-- Classes whose admission a turn refuses, by bit (R531). -/
  stopClasses : Nat
  /-- A turn is in progress: new entries wait as HELD, and nothing is released (R531). -/
  turning : Bool
  /-- SETTLE has ended and the turn has not: no step starts (R532). -/
  frozen : Bool
  /-- SHARE, steps per round (R519), and steps run in this round. -/
  share : Nat
  round : Nat
  /-- PARK commands that wait for the step's end, with the local time of each. -/
  parking : List (CmdRef × Nat)
  deriving DecidableEq, Repr

/-! ## Collectives (chapter 15) -/

/-- Who issued a collective: a command, training service t, or the turn on a serving service. -/
inductive CollOwner where
  | command
  | train (t : Nat)
  | turn (svc : Nat)
  deriving DecidableEq, Repr

/-- An open collective, or one of a service's whose result waits to be taken. -/
structure Coll where
  /-- Its packet; a service's collective carries a packet of the service's own. -/
  cmd : Cmd
  owner : CollOwner
  startedAt : Nat
  /-- Arrival of the latest expected message, or the start (R422). -/
  lastAt : Nat
  /-- Status, RESULT0 and RESULT1 of a service's collective that has ended. -/
  ended : Option (Nat × Nat × Nat)
  /-- GATHER: elements received from each member. -/
  got : List (Nat × Nat)
  /-- REDUCE_SCATTER: blocks of each shard's chain that have passed this member. -/
  chains : List (Nat × Nat)
  /-- OWN_DONE (R424). -/
  ownDone : Bool
  /-- Messages that the links have still to acknowledge. -/
  sent : List Nat
  /-- Bytes received by PERMUTE. -/
  received : Nat
  /-- REDUCE_SCATTER: its finiteness vote is not decided (R417). -/
  voting : Bool
  /-- DST_MODE 3: final blocks that wait for their update, by index (R502). -/
  finals : List (Nat × GtBlock)
  deriving DecidableEq, Repr

/-- The records of one vote (R415). -/
structure VoteKey where
  kind : Nat
  step : Nat
  round : Nat
  /-- What this member cast: bit and FP32 maximum. -/
  cast : Option (Bool × Nat)
  /-- The records held: member, bit, maximum. -/
  records : List (Nat × Bool × Nat)
  /-- The result, the maximum, the members that voted 0 and the lowest of them. -/
  result : Option (Bool × Nat × Nat × Nat)
  deriving DecidableEq, Repr

/-- A retained contribution (R418). -/
structure Retained where
  step : Nat
  addr : Nat
  bytes : Nat
  deriving DecidableEq, Repr

structure CollGroup where
  lastSeq : Nat
  retained : List Retained
  /-- SEQs of aborts recorded before acceptance, latest first, at most 16 (R423). -/
  aborts : List Nat
  /-- SEQs whose abort notice was relayed. -/
  relayed : List Nat
  /-- Latest first, at most four keys (R415). -/
  votes : List VoteKey
  /-- STEP of a COMMIT decision of 1 (R416). -/
  decided : Option Nat
  /-- VOTE_STATE but for DECIDED: STEP, ROUND, KIND, RESULT, ZEROS, LOWEST. -/
  latest : Option (Nat × Nat × Nat × Bool × Nat × Nat)
  deriving DecidableEq, Repr

/-! ## Training and update (chapters 17 and 18) -/

/-- Table 17-5. -/
structure PlanTensor where
  layer : Nat
  code : Nat
  fmt : Nat
  cfmt : Nat
  part : Nat
  k : Nat
  n : Nat
  shard : Nat
  feedback : Nat
  block0 : Nat
  deriving DecidableEq, Repr

/-- Table 17-4. -/
structure PlanPart where
  blocks : Nat
  update : Nat
  contrib : Nat
  deriving DecidableEq, Repr

/-- A stage plan as read once at TRAIN_STEP (Table 17-3). -/
structure Plan where
  firstLayer : Nat
  layers : Nat
  embed : Bool
  head : Bool
  model : Model
  parts : List PlanPart
  tensors : List PlanTensor
  deriving DecidableEq, Repr

/-- One entry of a pound (Table 17-8): micro-batch, tag, INVALID, and the local time at which it was whole. Its rows lie in the
scratchpad, in the slot that starts at `slot`. -/
structure PoundEntry where
  micro : Nat
  tag : Nat
  invalid : Bool
  slot : Nat
  at' : Nat
  deriving DecidableEq, Repr

/-- An operation of a pass under way: a forward or a backward, the tensors whose gather was issued, and whether its micro-batch came
invalid, or became so here (R477, R482). -/
structure PassOp where
  forward : Bool
  gathers : Nat
  invalid : Bool
  stale : Bool
  deriving DecidableEq, Repr

/-- Where a training step stands. -/
inductive TrainPhase where
  /-- Between steps. -/
  | idle
  /-- Its passes (event 2 of Table 17-7). -/
  | pass
  /-- The data group's FINITE vote, then the pipeline's (event 5). -/
  | finiteData
  | finitePipe
  /-- The FINITE result is known and not acted on. -/
  | finiteKnown (one : Bool)
  /-- Its REDUCE_SCATTERs (event 7). -/
  | reducing
  /-- The "done" vote, and the COMMIT vote (event 8). -/
  | doneVote
  | commitVote
  /-- The decision is known and not acted on. -/
  | decided (one : Bool)
  /-- The "ready" vote before a further attempt (R487). -/
  | readyVote
  deriving DecidableEq, Repr

/-- An open or stopped training service. -/
structure Train where
  /-- Its TRAIN_STEP: parameters, queue, TAG, function, berth; the epoch is that of its latest step (R140). -/
  cmd : Cmd
  plan : Plan
  /-- False until its service commit. -/
  opened : Bool
  /-- The status with which it stopped (R470, R483, R487). -/
  stopped : Option Nat
  /-- TRAIN_CLOSE: the command and its MODE. -/
  closing : Option (CmdRef × Nat)
  /-- All its steps have run, or a close has ended it: its closing commit is due. -/
  ended : Bool
  /-- E (R481). -/
  version : Nat
  /-- Steps ended: the index s of the current or next step. -/
  index : Nat
  /-- The status of the latest step's report. -/
  last : Nat
  phase : TrainPhase
  pass : Nat
  attempt : Nat
  /-- The step table: FIRST and COUNT of each micro-batch; record address and ADV of each entry; TOKEN_NORM. -/
  micros : List (Nat × Nat)
  records : List (Nat × Nat)
  tokenNorm : Nat
  /-- The micro-batches of this pass, ascending; forwards and backwards run. -/
  order : List Nat
  forwards : Nat
  backwards : Nat
  fwd : List PoundEntry
  bwd : List PoundEntry
  /-- Tags of the micro-batches of the step. -/
  tags : List (Nat × Nat)
  /-- Micro-batches of this pass that are invalid on this stage (R482). -/
  invalid : List Nat
  /-- A pass over these starts 1 ms after this local time (R483). -/
  again : Option (Nat × List Nat)
  /-- The operation under way. -/
  op : Option PassOp
  /-- RECVs of this pass posted for its forward and its backward pound (R475). -/
  fwdPosted : Nat
  bwdPosted : Nat
  /-- Local time at which the latest operation, with its SEND, was complete; the SEND under way had to wait for room (R475). -/
  idleAt : Nat
  sendWaits : Bool
  /-- Data-group collectives issued so far (R472). -/
  issued : Nat
  /-- Draw number of the step's values that the spec leaves open. -/
  gradDraw : Nat
  loss : Nat
  lossRows : Nat
  committed : Nat
  /-- An update of the attempt wrote a value that is not finite (R499). -/
  dirty : Bool
  /-- Narrow conversions of the attempt: assay slot, format, counts (R497). -/
  counts : List (Nat × Nat × Counts)
  /-- Ranges no command may write while it is open (R466, R492). -/
  guards : List (Nat × Nat)
  /-- Addresses of the pounds' slots: forward, then backward (R474). -/
  pounds : List Nat
  /-- Parked by PREEMPT or a turn. -/
  parked : Bool
  /-- Steps per round (R519), and steps run in this round. -/
  share : Nat
  round : Nat
  /-- PARK commands that wait for the step's end, with the local time of each. -/
  parking : List (CmdRef × Nat)
  deriving DecidableEq, Repr

/-- A checkpoint export in progress (R511): the image as the exported slot held it. -/
structure Export where
  ctx : Nat
  queue : Nat
  fn : Nat
  tag : Nat
  epoch : Nat
  berth : Nat
  dst : Nat
  generation : Nat
  image : List Byte
  /-- Reading the slot failed with this status. -/
  failed : Option Nat
  deriving DecidableEq, Repr

/-! ## Turns and scoring (chapter 19) -/

/-- A piece entry (Table 19-6). -/
structure Piece where
  /-- DEST[31:8]. -/
  dest : Nat
  layer : Nat
  tensor : Nat
  /-- SOURCE: MASTER; otherwise NARROW. -/
  master : Bool
  fmt : Nat
  plan : Nat
  srow : Nat
  scol : Nat
  rows : Nat
  cols : Nat
  drow : Nat
  dcol : Nat
  deriving DecidableEq, Repr

/-- A turn in progress on a serving service. -/
structure Turn where
  /-- The TURN: parameters, queue, TAG, function, berth. -/
  cmd : Cmd
  /-- R530: 1 STOP, 2 SETTLE, 3 TRANSFER, 4 COMMIT. -/
  phase : Nat
  /-- Local time of the first commit, and of the start of TRANSFER. -/
  startedAt : Nat
  transferAt : Nat
  /-- The new descriptor as read once at TURN. -/
  model : Option Model
  pieces : List Piece
  /-- VERSION of the new set, known at the end of SETTLE. -/
  version : Nat
  /-- Steps that TRAIN had ended at the first commit. -/
  trainIndex : Nat
  /-- TRAIN was in a step then. -/
  trainBusy : Bool
  drained : Nat
  cut : Nat
  /-- Messages of the pieces sent that are not acknowledged. -/
  sent : List Nat
  placed : Nat
  /-- Poison was placed here. -/
  poisoned : Bool
  /-- Duration of TRANSFER, µs. -/
  transferUs : Nat
  /-- The barrier vote is cast. -/
  voting : Bool
  /-- It failed: the DETAIL of the report, and whether the host abandoned it. -/
  failing : Option (Nat × Bool)
  deriving DecidableEq, Repr

/-- A score service. -/
structure Score where
  /-- The SCORE: parameters, queue, TAG, function, berth. -/
  cmd : Cmd
  model : Option Model
  opened : Bool
  /-- Records finished, the tokens of the next one fed so far, and how records ended. -/
  next : Nat
  fed : Nat
  scored : Nat
  unscored : Nat
  parked : Bool
  share : Nat
  round : Nat
  deriving DecidableEq, Repr

/-! ## The logbook (chapter 22) -/

/-- A logbook entry (R589, Table 22-5). -/
structure BookEntry where
  kind : Nat
  source : Nat
  index : Nat
  epoch : Nat
  fingerprint : Nat
  body : List Byte
  deriving DecidableEq, Repr

/-- LOGBOOK_STATUS.STATE. -/
inductive BookState where
  | stopped
  | recording
  | full
  | replaying
  deriving DecidableEq, Repr

structure Logbook where
  state : BookState
  /-- GAP and WRAPPED of LOGBOOK_STATUS. -/
  gap : Bool
  wrapped : Bool
  /-- INDEX of the next entry. -/
  next : Nat
  /-- Entries that wait in the recording buffers, oldest first, with the hub of each (R590). -/
  buffer : List (Nat × BookEntry)
  /-- Entries lost on each hub since its buffer was full. -/
  lost : List (Nat × Nat)
  /-- Entries in the region, oldest first, with their region offsets. -/
  held : List (Nat × BookEntry)
  /-- Region offset of the next entry written. -/
  place : Nat
  deriving DecidableEq, Repr

/-! ## Lockage (chapter 5) -/

inductive ChamberState where
  | empty
  | opened
  | checked
  | committing
  deriving DecidableEq, Repr

/-- The host chamber (R130-R133): the words of its 4,096 entries that are not zero, four to an entry. -/
structure Chamber where
  words : List (Nat × Word)
  state : ChamberState
  /-- CHECKED_EPOCH. -/
  checkedEpoch : Nat
  /-- LAST_CHECK: status and entry. -/
  lastStatus : Nat
  lastEntry : Nat
  deriving DecidableEq, Repr

/-- What a waiting commit is made for: the host chamber, or a service's change of configuration (R137, R334). -/
inductive CommitFor where
  /-- The host chamber, by the COMMIT command. -/
  | host (c : CmdRef)
  /-- Table 13-4: WEIGHTS_LOAD reserves its slot. -/
  | setReserve (c : CmdRef)
  /-- R339: a failed load returns its slot to EMPTY. -/
  | setFail (set : Nat)
  /-- R348: WEIGHTS_DROP puts its set into DROPPING. -/
  | setDropping (c : CmdRef)
  /-- R349: an abandoned drop returns its set to RESIDENT. -/
  | setReturn (set : Nat)
  | adapterReserve (c : CmdRef) (slot : Nat)
  | adapterFail (slot : Nat)
  /-- R358: ADAPTER_DROP retires a NAME's LIVE slot. -/
  | adapterRetire (c : CmdRef)
  /-- R550: a per-function reset drops the adapter of a NAME. -/
  | adapterDropName (name : Nat)
  | serveOpen (c : CmdRef) (svc : Nat)
  | serveClose (svc : Nat)
  | trainOpen (c : CmdRef) (svc : Nat)
  | trainClose (svc : Nat)
  | turnFirst (c : CmdRef) (svc : Nat)
  | turnAbandon (svc : Nat)
  | scoreOpen (c : CmdRef) (berth : Nat)
  | scoreClose (berth : Nat)
  deriving DecidableEq, Repr

/-- A commit between its start and its commit instant (R139): the settings delivered to the pending sets (setting
identifier, FLAGS and value). -/
structure WaitingCommit where
  owner : CommitFor
  settings : List (Nat × Nat × Wide)
  deriving DecidableEq, Repr

/-- An event of keepsake (R585). -/
structure KeepsakeEvent where
  kind : Nat
  copied : Bool
  acknowledged : Bool
  order : Nat
  hours : Nat
  time : Nat
  deriving DecidableEq, Repr

/-- A margin-plan record (Table 2-3); offsets are stored as offset + 40 mV (R64). -/
structure PlanRecord where
  plan : Nat
  ceiling : Nat
  hours : Nat
  offsets : List Nat
  headroom : Nat
  flags : Nat
  deriving DecidableEq, Repr

/-- Keepsake (Table 5-6), as fields; Keepsake.image gives its bytes, with MAGIC and the CHECKSUM that every write renews (R146). -/
structure Keepsake where
  writeCount : Nat
  hours : Nat
  /-- GENERATION: the four lanes, 16 bits each (R503). -/
  lanes : List (BitVec 16)
  planNext : BitVec 16
  enlonInc : BitVec 16
  /-- EVENTS, eight records (R585); KIND 0 is an empty slot. -/
  events : List KeepsakeEvent
  /-- OWNER_BLOB: the plaintext of Table 21-7 that it seals, 208 bytes; empty for no blob. Nothing reads the sealed bytes. -/
  ownerBlob : List Byte
  /-- PLANS, by slot (R64). -/
  plans : List (Nat × PlanRecord)
  /-- SETTINGS, by setting identifier in ascending order (R144). -/
  settings : List (Nat × Wide)
  /-- LOCKET_WIPES, 24 bits. -/
  wipes : BitVec 24
  deriving DecidableEq, Repr

/-! ## Time, power, pace (chapters 1, 2 and 20) -/

inductive PowerState where
  | off
  | standby
  | idle
  | active
  deriving DecidableEq, Repr

/-- Why the device is OFF, which decides how it leaves OFF (R546). -/
inductive OffCause where
  /-- PWR_EN low or loss of input: left at the next PWR_EN high above 42.0 V. -/
  | input
  /-- By command, overvoltage or thermal trip: left only as R546 gives. -/
  | latched
  deriving DecidableEq, Repr

/-- The boot sequence of R544, where one is due. -/
inductive Boot where
  | none
  /-- After a warm reset: image choice and unsealing. -/
  | warm
  /-- After a power-on or a cold reset: the whole sequence. -/
  | full
  deriving DecidableEq, Repr

structure Power where
  state : PowerState
  /-- WAKING: IDLE to ACTIVE in progress. -/
  waking : Bool
  /-- QUIESCED: a device-wide quiesce is in force (R553). -/
  quiesced : Bool
  /-- QUIESCED_BERTHS. -/
  quiescedBerths : Nat
  /-- QUIESCE and POWER_STATE commands that wait for their scope to come to rest, with the scope (0-7, or 0xFF) that each put
  under quiesce, and 0x100 added where it was under quiesce before. -/
  quiescing : List (CmdRef × Nat)
  /-- GATED: compute dies (R547). -/
  gated : Nat
  offCause : OffCause
  /-- Contact S2 of J1. -/
  pwrEn : Bool
  /-- Local time of the latest fall of PWR_EN, for the 10 ms of R546; the count runs only while the timer does. -/
  pwrEnLowSince : Option Nat
  /-- PERST_N of J2: true while released. -/
  perstReleased : Bool
  /-- The input has risen above 42.0 V and not fallen below 38.0 V since (Table 1-3). -/
  inputGood : Bool
  /-- The input stands in the 38.0-40 V band, in tenths of a volt (R20). -/
  inputLow : Option Nat
  /-- The input stands in the 60-62.0 V band. -/
  inputHigh : Bool
  /-- Contact S3. -/
  pwrgd : Bool
  /-- Contact S12: low after a thermal trip until the next power-on. -/
  thermLow : Bool
  /-- A POWER_STATE's reply is written and the entry is due: target (0 OFF, 1 STANDBY) and local time (R546). -/
  entering : Option (Nat × Nat)
  /-- The boot sequence of R544 is due: the device is on its way into IDLE. -/
  booting : Boot
  /-- Local time since which no pavé or engine has work (R544, IDLE_DELAY). -/
  idleSince : Nat
  deriving DecidableEq, Repr

/-- The reference oscillator and the local timer (R35, R44). -/
structure Clock where
  time : Wide
  /-- The reference oscillator is good; false stops the timer until a cold reset. -/
  good : Bool
  /-- A fatal error waits for a cold reset (R35, R312). -/
  fatal : Bool
  /-- Local time of the latest hour counted into OPERATING_HOURS (R58). -/
  hourFrom : Nat
  /-- Local time of the latest coin-cell measurement (R38). -/
  cellFrom : Nat
  deriving DecidableEq, Repr

/-- The pace governor (R66-R70). -/
structure Governor where
  /-- Common setpoint, mV. -/
  setpoint : Nat
  /-- The latest samples, newest first, at most 1,000 (R66). -/
  samples : List Nat
  lastSample : Nat
  /-- Whether each of these samples stood above the cap in effect when it was taken (R68). -/
  excess : List Bool
  /-- Local time of the latest sample. -/
  sampledAt : Nat
  /-- The previous sample was a soft breach (R68). -/
  soft : Bool
  /-- Consecutive samples at or below the cap while paused (R68). -/
  calm : Nat
  pausedPower : Bool
  pausedThermal : Bool
  /-- Pace ceiling under R26, beats/µs: none while no junction is at 95 °C. -/
  thermalCeiling : Option Nat
  /-- Pace ceiling of the applied plan. -/
  planCeiling : Nat
  /-- POWER_AVG stands above the cap. -/
  overCap : Bool
  /-- The MARGIN_PLAN commands and schedules whose plan is in progress: mode and the command (R58, R63). -/
  planning : List (Nat × Option CmdRef)
  /-- The applied plan. -/
  applied : Option PlanRecord
  /-- The regions' offsets, as offset + 40 mV, when it was applied, and that local time: the supplies slew from there (R62). -/
  slewOld : List Nat
  slewFrom : Nat
  /-- Beats of the current 1,000-unit window and its start (R42). -/
  windowBeats : Nat
  windowFrom : Nat
  /-- A beat is waiting for acknowledges since this local time (R178). -/
  beatFrom : Nat
  deriving DecidableEq, Repr

/-! ## Panel and management (chapter 3) -/

/-- States of a reach socket (Table 3-8). -/
inductive SocketState where
  | empty
  | refused
  | powered
  | inService
  | releaseRequested
  | released
  | lost
  deriving DecidableEq, Repr

structure Socket where
  state : SocketState
  /-- Counted touches, modulo 256. -/
  touches : BitVec 8
  /-- The socket's contents are gone and no later commit has mapped it (R93). -/
  stale : Bool
  deriving DecidableEq, Repr

/-- The PCIe endpoint (R71): what the host set in it, what its link trained to, and the IDE streams that a wipe stopped. No command of the
table changes the first three. -/
structure Pcie where
  /-- VFs enabled in the SR-IOV capability: VF1 to VF`vfs` (Table 3-1). -/
  vfs : Nat
  /-- Link speed, GT/s: 64 in flit mode, or 32. -/
  rate : Nat
  /-- Link width: 16, 8 or 4 lanes. -/
  width : Nat
  /-- IDE streams that a locket wipe stopped and that the host has not keyed again: 0 the link stream, 1-8 selective streams (R79). -/
  ideStopped : List Nat
  deriving DecidableEq, Repr

structure Panel where
  locate : Bool
  /-- A service request pending, with the local time at which it lapses (R88). -/
  request : Option Nat
  /-- Service hold in force (R88). -/
  hold : Bool
  /-- A forced hold that came during a turn and waits (R89). -/
  holdWaits : Bool
  /-- Cell service in progress, with the local time at which it ends without a cell (R99). -/
  cellService : Option Nat
  /-- A cell was inserted and measured below 2.6 V in this cell service. -/
  cellInserted : Bool
  lidOpen : Bool
  /-- FIBRE_PRESENT: bit 3n TX, 3n + 1 RX, 3n + 2 LF. -/
  fibres : Nat
  /-- Local time since which all three sensors of a port report present (R95). -/
  fibresSince : List (Nat × Nat)
  /-- Coin cell, mV, at its latest measurement. -/
  coinMv : Nat
  sockets : List (Nat × Socket)
  deriving DecidableEq, Repr

/-- One SPDM transport (R82, R83). -/
structure SpdmPort where
  /-- 0 none, 1 version, 2 capabilities, 3 algorithms agreed. -/
  stage : Nat
  /-- Open sessions: identifier and whether FINISH has completed. -/
  sessions : List (Nat × Bool)
  nextSession : Nat
  /-- Local times of the latest error responses. -/
  errorsAt : List Nat
  /-- Answers Busy until this local time (R83). -/
  busyUntil : Option Nat
  deriving DecidableEq, Repr

/-- A firmware update in progress (R567). -/
structure FwUpdate where
  /-- 0 requested, 1 component table passed, 2 downloading, 3 verified, 4 activated. -/
  phase : Nat
  size : Nat
  /-- The bytes written so far. -/
  image : List Host.Cell
  deriving DecidableEq, Repr

structure Mgmt where
  /-- MCTP endpoint ID; 0 until set (R80). -/
  eid : Nat
  /-- Receiver of PlatformEventMessage (R84): transport and endpoint. -/
  receiver : Option (Transport × Nat)
  /-- Management power limit, W; 0 none (R85). -/
  limit : Nat
  /-- PlatformEventMessages that wait for collection: sensor or flag number and new state. -/
  events : List (Nat × Nat)
  /-- The latest readings of the sensors of Table 3-5. -/
  inputDv : Nat
  inletDc : Nat
  outletDc : Nat
  junctionDc : Nat
  spdmDoe : SpdmPort
  spdmSmbus : SpdmPort
  spdmI3c : SpdmPort
  update : Option FwUpdate
  deriving DecidableEq, Repr

/-! ## Event log (chapter 22) -/

/-- An error record (Table 22-2). -/
structure LogRecord where
  seq : Nat
  cause : Nat
  cls : Nat
  keepsake : Bool
  berth : Option Nat
  time : Nat
  epoch : Nat
  unit : Nat
  incarnation : Nat
  queue : Nat
  fn : Nat
  tag : Nat
  address : Nat
  /-- The 16 bytes of DETAIL as one little-endian number. -/
  detail : Nat
  /-- The berths whose requests used the set or adapter of a repair or damage (R329), as a mask. -/
  users : Nat := 0
  deriving DecidableEq, Repr

structure EventLog where
  /-- Records held, oldest first, at most 4,096 (R583). -/
  records : List LogRecord
  /-- LOG_NEXT. -/
  next : BitVec 32
  /-- DROPPED, stops at 0xFFFF. -/
  dropped : Nat
  deriving DecidableEq, Repr

/-! ## Security (chapters 10 and 21) -/

/-- A flash slot (Table 21-5): what its image's header says and whether the image passes R566 but for the SVN. -/
structure FwSlot where
  passes : Bool
  svn : Nat
  activation : Nat
  digest : List Byte
  deriving DecidableEq, Repr

/-- The locket's contents (Table 10-4). -/
structure Locket where
  /-- IDE keys by stream: selective streams from 1, the link stream 0 (R78). -/
  ideKeys : List (Nat × IdeKm)
  /-- Debug grant. -/
  grant : Bool
  /-- Unsealed owner secrets: the plaintext of Table 21-7. -/
  owner : Option (List Byte)
  /-- SPDM session secrets: transport (0 DOE, 1 SMBus, 2 I3C), session, and the number of the draw that the secret comes from. -/
  secrets : List (Nat × Nat × Nat)
  /-- Data keys derived from the owner secrets. No command of the table derives one. -/
  dataKeys : List (List Byte)
  deriving DecidableEq, Repr

structure Security where
  /-- The life-cycle fuse log: codes of Table 21-1, oldest first (R558). -/
  fuseLog : List Nat
  /-- Burned bits of the 64-bit SVN field (R566). -/
  fusedSvn : Nat
  /-- The fused SVN that the measurements of the latest boot recorded (R569). -/
  bootFused : Nat
  /-- Burned bits of the 256-bit wipe field (R267). -/
  wipeFuses : Nat
  /-- The signet seed is burned (RETIRE, R568). -/
  seedBurned : Bool
  bootHub : Nat
  bootSlot : Nat
  slotA : FwSlot
  slotB : FwSlot
  /-- FALLBACK (R565). -/
  fallback : Bool
  /-- Recovery: neither slot passed (R565). -/
  recovery : Bool
  /-- Draw number of AUTH_NONCE (R562). -/
  nonceDraw : Nat
  /-- Local times of the latest failed checks (R563). -/
  failedAt : List Nat
  /-- LOCKOUT until this local time. -/
  lockout : Option Nat
  /-- DEBUG: 0 none, 1 SERVICE_DEBUG, 2 owner debug. -/
  debug : Nat
  debugExpiry : Nat
  /-- DURATION of a SERVICE_DEBUG grant that boot has still to place, in local-timer units (R573). -/
  grantDue : Option Nat
  /-- The command of a transition whose reply is not yet written (R559). -/
  resetAfter : Option CmdRef
  /-- Local time of the warm reset that follows a transition's reply (R559). -/
  resetDue : Option Nat
  /-- The MAGIC or the tag of the owner blob failed at boot. -/
  blobBad : Bool
  /-- UNSEAL. -/
  unsealCode : Nat
  locket : Locket
  /-- LOCKET_STATUS: the cause of the latest wipe. -/
  wipeCause : Nat
  deriving DecidableEq, Repr

end Sys2Proof.Machine
end

