-- ==== Sys2Proof/Machine/State.lean ====
section
/-! DEFINITION. The state of one Holtaerun: everything the spec gives the machine, as plain data, and the state after reset. -/

namespace Sys2Proof.Machine

open Sys2Proof

/-- Why the machine stops with a fault. No meaning of this model raises one: the spec answers every command with a status,
a discard or an event. The type is kept closed for the host. -/
inductive Fault where
  /-- Nobody raises it. Safe: it is unreachable. -/
  | none
  deriving DecidableEq, Repr

/-- Why the machine refuses a command. -/
inductive Refusal where
  /-- The command has no meaning in the model yet (raised in Machine/Dispatch.lean only). Safe: nothing is claimed. -/
  | notModelled (mnemonic : String)
  deriving DecidableEq, Repr

structure State where
  /-- Identity, configuration epoch and incarnations. -/
  spine : Spine
  /-- The model's own: draws of free values so far. -/
  draws : Nat
  clock : Clock
  power : Power
  gov : Governor
  /-- Every register whose contents no structured field below gives, by BAR0 address; an unlisted one holds its reset value. -/
  regs : List (Nat × Word)
  /-- LK words of the previous epoch, where the latest commit changed them (R141: units hold settings for two epochs). -/
  oldRegs : List (Nat × Word)
  /-- Holding copies of high words, by low-word address (R8). -/
  heldHigh : List (Nat × Word)
  /-- Low words written and not yet applied, by low-word address (R8). -/
  heldLow : List (Nat × Word)
  mem : Mem
  /-- Basin segments in change (R283). -/
  segChanges : List SegChange
  host : HostMem
  hellos : List (Nat × Hello)
  queues : List (Nat × Queue)
  /-- Packets fetched so far: the model's numbering of commands. -/
  fetches : Nat
  /-- Commands in flight, in fetch order (R112). -/
  inflight : List Cmd
  /-- Reports that wait for a full completion ring, oldest first. -/
  reports : List Report
  units : Units
  /-- Writes of ADVANCE and RESET that wait, in acceptance order (R202). -/
  histWaits : List HistWait
  /-- Set slots by number; an unlisted slot is EMPTY. -/
  sets : List (Nat × WeightSet)
  /-- Adapter slots by number; an unlisted slot is EMPTY. -/
  adapters : List (Nat × Adapter)
  /-- Holding copy of ADAPTER_VIEW (R361), eight words. -/
  adapterView : List Word
  /-- Stack lines under repair, oldest first. -/
  repairs : List Repair
  /-- Controllers whose interface retrains (R312): 0-15 stacks, 16-27 sockets. -/
  retraining : List Nat
  /-- Optical ports that have left their reset state, by number. -/
  ports : List (Nat × Port)
  /-- Messages sent so far: the model's numbering of them. -/
  msgNext : Nat
  /-- Open serving services by number. -/
  serving : List (Nat × Serving)
  /-- Manifest entries that are not FREE, by index. -/
  manifest : List (Nat × Entry)
  /-- Holding copy of MANIFEST_VIEW (R463), 32 words. -/
  manifestView : List Word
  /-- Collective groups that have been used, by number. -/
  groups : List (Nat × CollGroup)
  /-- Collectives in progress, in the order they started. -/
  colls : List Coll
  /-- Training services by number. -/
  trains : List (Nat × Train)
  /-- Checkpoint exports in progress. -/
  exports : List Export
  /-- Turns in progress, by serving service. -/
  turns : List (Nat × Turn)
  /-- Score services, by berth. -/
  scores : List (Nat × Score)
  /-- The occupant of each berth (R519): kind, as BERTH_STATUS gives it, and service number. -/
  occupants : List (Nat × Nat × Nat)
  /-- Units whose banks a commit, a reset or the end of gating has still to clear (R260): unit block IDs. -/
  clears : List Nat
  logbook : Logbook
  chamber : Chamber
  commits : List WaitingCommit
  /-- Commits so far, which a CHECK records (R138); the model's count. -/
  commitCount : Nat
  /-- The commit count at the CHECK that put the chamber into CHECKED. -/
  checkedAt : Nat
  keepsake : Keepsake
  pcie : Pcie
  panel : Panel
  mgmt : Mgmt
  sec : Security
  log : EventLog
  /-- The operation under way in the present step. -/
  acting : Acting
  /-- What the block has sent out, oldest first. -/
  outbox : List Out
  /-- Commands that wait, first in, first out. -/
  pending : List Instr
  deriving DecidableEq, Repr

/-! ## The state after reset: each part at the values the spec gives, or that notes/assumptions/1.md names -/

def Spine.reset : Spine := { variant := .l, serial := 0, slotId := 0, epoch := 1, unitInc := [], funcInc := [] }

def Clock.reset : Clock := { time := 0, good := true, fatal := false, hourFrom := 0, cellFrom := 0 }

def Power.reset : Power :=
  { state := .idle, waking := false, quiesced := false, quiescedBerths := 0, quiescing := [], gated := 0, offCause := .input, pwrEn := true,
    pwrEnLowSince := none, perstReleased := true, inputGood := true, inputLow := none, inputHigh := false, pwrgd := true,
    thermLow := false, entering := none, booting := .none, idleSince := 0 }

def Governor.reset : Governor :=
  { setpoint := 750, samples := [], excess := [], lastSample := 0, sampledAt := 0, soft := false, calm := 0,
    pausedPower := false, pausedThermal := false, thermalCeiling := none, planCeiling := 1600, overCap := false,
    planning := [], applied := none, slewOld := [], slewFrom := 0, windowBeats := 0, windowFrom := 0, beatFrom := 0 }

/-- An empty basin: every window at its start, the weirs at their reset shares. -/
def Basin.reset : Basin :=
  { lines := [], uses := 0, disabled := [], sluice := [], wide := [], failedOnce := [], counts := [], inexact := false, asked := [],
    shares := List.replicate 9 (0x04000000, 0x04000000, 0x04000000), windowFrom := 0, beatsFrom := 0 }

def Mem.reset : Mem :=
  { cells := [], fills := [], poison := [], bad := [], lost := [], parity := [], failed := [], life := 0, basin := .reset }

/-- No operation is under way. -/
def Acting.idle : Acting := { epoch := 0, berth := none, counted := false }

def Logbook.reset : Logbook :=
  { state := .stopped, gap := false, wrapped := false, next := 0, buffer := [], lost := [], held := [], place := 0 }

def Chamber.reset : Chamber := { words := [], state := .empty, checkedEpoch := 0, lastStatus := 0, lastEntry := 0 }

def Port.reset : Port :=
  { state := 0, since := 0, phase := 0, widthSeen := false, retryAt := none, weak := false, sawAbsent := false, fencedUnder := false, txWidth := 0,
    rxWidth := 0, identity := none, next := 0, expect := 0, kept := [], waiting := [], ackAt := 0, nakSeq := 0, nakCount := 0,
    nakFrom := none, retrain := none, credits := [], peerDed := [], shared := 0, pool := 0, usedShared := [], granted := [], heldDed := [],
    heldShared := [], opening := [], arrived := [], inbox := [], violationsAt := [], repartition := [], lastGood := 0 }

def Keepsake.reset : Keepsake :=
  { writeCount := 0, hours := 0, lanes := [0, 0, 0, 0], planNext := 0, enlonInc := 1, events := [],
    ownerBlob := [], plans := [], settings := [], wipes := 0 }

def Pcie.reset : Pcie := { vfs := 31, rate := 64, width := 16, ideStopped := [] }

def Panel.reset : Panel :=
  { locate := false, request := none, hold := false, holdWaits := false, cellService := none, cellInserted := false,
    lidOpen := false, fibres := 0, fibresSince := [], coinMv := 3000, sockets := [] }

def SpdmPort.reset : SpdmPort := { stage := 0, sessions := [], nextSession := 1, errorsAt := [], busyUntil := none }

def Mgmt.reset : Mgmt :=
  { eid := 0, receiver := none, limit := 0, events := [], inputDv := 480, inletDc := 0, outletDc := 0, junctionDc := 0,
    spdmDoe := .reset, spdmSmbus := .reset, spdmI3c := .reset, update := none }

def EventLog.reset : EventLog := { records := [], next := 1, dropped := 0 }

def FwSlot.reset : FwSlot := { passes := true, svn := 0, activation := 0, digest := [] }

def Locket.reset : Locket := { ideKeys := [], grant := false, owner := none, secrets := [], dataKeys := [] }

def Security.reset : Security :=
  { fuseLog := [1, 2], fusedSvn := 0, bootFused := 0, wipeFuses := 0, seedBurned := false, bootHub := 0, bootSlot := 0,
    slotA := .reset, slotB := .reset, fallback := false, recovery := false, nonceDraw := 0, failedAt := [], lockout := none,
    debug := 0, debugExpiry := 0, grantDue := none, resetAfter := none, resetDue := none, blobBad := false, unsealCode := 1, locket := .reset, wipeCause := 0 }

/-- The machine right after a cold reset: IDLE, configuration epoch 1, every register at its reset value, nothing queued. -/
def State.reset : State :=
  { spine := .reset, draws := 1, clock := .reset, power := .reset, gov := .reset, regs := [], oldRegs := [], heldHigh := [],
    heldLow := [], mem := .reset, segChanges := [], host := { cells := [], fails := [] }, hellos := [], queues := [], fetches := 0, inflight := [], reports := [],
    units := { fenced := [], readied := [], parityAt := [], upset := [], residueAt := [], shadow := [] }, histWaits := [], sets := [], adapters := [], adapterView := [],
    repairs := [], retraining := [], ports := [], msgNext := 1, serving := [], manifest := [], manifestView := [], groups := [], colls := [], trains := [], exports := [],
    turns := [], scores := [], occupants := [], clears := [], logbook := .reset, chamber := .reset, commits := [], commitCount := 0, checkedAt := 0,
    keepsake := .reset, pcie := .reset, panel := .reset, mgmt := .reset,
    sec := .reset, log := .reset, acting := .idle, outbox := [], pending := [] }

end Sys2Proof.Machine
end

