-- ==== Sys2Proof/Machine/Ops.lean ====
section
/-! DEFINITION. The named operations that the meanings share: local time, registers and their holding copies, event flags with
their occurrence counters and interrupts, the event log, incarnations, host memory, commands in flight, keepsake. -/

namespace Sys2Proof.Machine

open Sys2Proof

/-! ## Outcomes -/

/-- Runs an effect that leaves the spine alone. A command acts on everything but the queue of waiting commands. -/
def runs (f : State → State) (s : State) : Host.Outcome State Fault Refusal :=
  .next { f s with spine := s.spine, acting := s.acting, pending := s.pending }

/-- Runs an effect that may move the epoch and the incarnations, and neither the variant, the serial (R17) nor the strap. -/
def runsSpine (f : State → State) (s : State) : Host.Outcome State Fault Refusal :=
  .next { f s with
    spine := { (f s).spine with variant := s.spine.variant, serial := s.spine.serial, slotId := s.spine.slotId }, acting := s.acting, pending := s.pending }

/-- The device is IDLE or ACTIVE, its boot sequence has ended, and it is not in recovery (R544, R565). -/
def State.operating (s : State) : Bool :=
  (s.power.state == .idle || s.power.state == .active) && s.power.booting != .full && !s.sec.recovery

/-- The PCIe link is up: the device operates and PERST_N is released (R28). Configuration requests, the DOE mailbox among them, come
through. -/
def State.pcieLink (s : State) : Bool := s.operating && s.power.perstReleased

/-- The host's memory requests reach the block over PCIe: the link is up, and traffic does not fail the IDE checks of a link stream that a
wipe stopped (R79). Which requests run in a selective stream the commands do not show (notes/assumptions/35.md). -/
def State.pcieUp (s : State) : Bool := s.pcieLink && !s.pcie.ideStopped.contains 0

/-- Does a function exist: PF0, or a VF that the SR-IOV capability enables (R71; all 31 from reset on, notes/assumptions/12.md)? -/
def State.functionEnabled (s : State) (fn : Nat) : Bool := decide (fn ≤ min s.pcie.vfs 31)

/-- Runs what a request of the host over PCIe does; while the link is down no request comes through. -/
def runsHost (f : State → State) (s : State) : Host.Outcome State Fault Refusal := runs (fun s => if s.pcieUp then f s else s) s

/-! ## Local time (R5, R44, R45) -/

/-- LOCAL_TIME as a number. -/
def State.now (s : State) : Nat := s.clock.time.toNat

/-- A timed event comes at a local time: the timer has counted up to it. A stopped timer does not move (R35). -/
def State.at (s : State) (t : Nat) : State :=
  if s.clock.good && decide (s.now < t) then { s with clock := { s.clock with time := BitVec.ofNat 64 t } } else s

/-- A duration that ends at `deadline` has expired (R45). -/
def State.expired (s : State) (deadline : Nat) : Bool := decide (deadline ≤ s.now)

/-- Local-timer units in a microsecond, a millisecond, a second. -/
def usec : Nat := 100
def msec : Nat := 100000
def second : Nat := 100000000

/-! ## Free values -/

/-- Takes the next draw number. -/
def State.draw (s : State) : Nat × State := (s.draws, { s with draws := s.draws + 1 })

/-! ## Registers -/

/-- The word a register holds. -/
def State.reg (s : State) (a : Nat) : Word := (lookup a s.regs).getD (regReset s.spine.variant a)

/-- Puts a word into a register. -/
def State.setReg (s : State) (a : Nat) (v : Word) : State := { s with regs := insert a v s.regs }

/-- A register as a number. -/
def State.regNat (s : State) (a : Nat) : Nat := (s.reg a).toNat

/-- Puts a number into a register, modulo 2^32. -/
def State.setNat (s : State) (a v : Nat) : State := s.setReg a (BitVec.ofNat 32 v)

/-- A 64-bit register as a number (R8: low word first). -/
def State.reg64 (s : State) (a : Nat) : Nat := s.regNat a + s.regNat (a + 4) * 2 ^ 32

/-- Puts a number into a 64-bit register, modulo 2^64. -/
def State.set64 (s : State) (a v : Nat) : State := (s.setNat a v).setNat (a + 4) (v / 2 ^ 32)

/-- Adds to a 64-bit counter that wraps. -/
def State.add64 (s : State) (a n : Nat) : State := s.set64 a (s.reg64 a + n)

/-- Adds to a 32-bit counter that wraps. -/
def State.add32 (s : State) (a n : Nat) : State := s.setNat a (s.regNat a + n)

/-- Adds to a 32-bit counter that stops at its largest value. -/
def State.sat32 (s : State) (a n : Nat) : State := s.setNat a (min (s.regNat a + n) 0xFFFFFFFF)

/-- Adds to a 64-bit counter that stops at its largest value. -/
def State.sat64 (s : State) (a n : Nat) : State := s.set64 a (min (s.reg64 a + n) 0xFFFFFFFFFFFFFFFF)

/-- An LK word as an operation of the given epoch sees it (R140, R141): the current settings, or those of the epoch before. -/
def State.lkWord (s : State) (epoch a : Nat) : Nat :=
  if epoch = s.spine.epoch.toNat || epoch = 0 then s.regNat a else ((lookup a s.oldRegs).getD (s.reg a)).toNat

/-- A 64-bit LK register as an operation of the given epoch sees it. -/
def State.lk64 (s : State) (epoch a : Nat) : Nat := s.lkWord epoch a + s.lkWord epoch (a + 4) * 2 ^ 32

/-! ## Interrupts and event registers (R53-R55, R77, R597) -/

/-- Sends something out. -/
def State.emit (s : State) (o : Out) : State := { s with outbox := s.outbox ++ [o] }

/-- The event registers. -/
def evPanel : Nat := blkDevice + 0x400
def evFibre : Nat := blkDevice + 0x40C
def evQueue (q : Nat) : Nat := doorbellPage q + 0xC
def evLock : Nat := blkLockage + 0x10
def evGov : Nat := blkPower + 0x14
def evReset : Nat := blkPower + 0x98
def evSec : Nat := blkSecurity + 0x8
def evPort (p : Nat) : Nat := blkPort p + 4
def evPave (n : Nat) : Nat := blkPave n + 4
def evEngine (n : Nat) : Nat := blkEngine n + 4
def evBanks (d : Nat) : Nat := blkBanks d + 4
def evMem (c : Nat) : Nat := blkStack c + 4
def evBasin (h : Nat) : Nat := blkBasin h + 0x70
def evWeight : Nat := blkKeeper + 0x1A30
def evColl : Nat := blkKeeper + 0x2004
def evUpd : Nat := blkKeeper + 0x2740
def evTrain : Nat := blkKeeper + 0x3100
def evTurn : Nat := blkKeeper + 0x3300
def evServe : Nat := blkManifest + 0x40

/-- An address in a doorbell page. -/
def inDoorbells (a : Nat) : Bool := decide (0x10000 ≤ a) && decide (a < 0x50000)

/-- The function and vector an event register interrupts on (R597); none while UNIT_VECTOR holds 0. -/
def State.vectorOf (s : State) (a : Nat) : Option (Nat × Nat) :=
  if inDoorbells a then (lookup ((a - 0x10000) / 0x1000) s.queues).map fun q => (q.fn, q.vector)
  else if a = evSec then some (0, 0)
  else if a = evPanel then some (0, 1)
  else if a = evGov || a = evReset then some (0, 2)
  else if a = evLock || a = evTurn then some (0, 3)
  else if decide (unitBlock 0x60 ≤ a) && decide (a < unitBlock 0x68) then some (0, 4)
  else if a = evColl || a = evTrain || a = evUpd then some (0, field (s.regNat (blkKeeper + 0x2000)) 26 16)
  else
    let v := field (s.regNat (blkDevice + 0xE00 + 4 * ((a - 0x02000000) / 0x10000))) 10 0
    if v = 0 then none else some (0, v)

/-- Requests the interrupt of an event register. -/
def State.interruptOf (s : State) (a : Nat) : State :=
  match s.vectorOf a with
  | some (f, v) => s.emit (.interrupt f v)
  | none => s

/-- The enabled flags of an event register: its enable register is the next word; FIBRE_CHANGED has none. -/
def State.enabledOf (s : State) (a : Nat) : Nat := if a = evFibre then 0 else s.regNat (a + 4)

/-- The word that holds the occurrence counter of bit n of an event register (R54; QUEUE_EVENTS: page offset 0x800). -/
def counterWord (a n : Nat) : Nat := (if inDoorbells a then a - 0xC + 0x800 else a + 0x8000) + 4 * (n / 4)

/-- Adds one to an occurrence counter: 8 bits, modulo 256 (R54). -/
def State.bump (s : State) (a n : Nat) : State :=
  let w := counterWord a n
  let v := s.regNat w
  let c := (v >>> (8 * (n % 4))) % 256
  s.setNat w (v - c * 2 ^ (8 * (n % 4)) + ((c + 1) % 256) * 2 ^ (8 * (n % 4)))

/-- Hardware sets a flag of an event register: the flag is 1, its counter advances whether or not it already was (R53), and
an enabled flag that changes from 0 to 1 requests the interrupt (R55). -/
def State.raise (s : State) (a n : Nat) : State :=
  let old := s.regNat a
  let s1 := (s.setNat a (putBit old n true)).bump a n
  if !old.testBit n && (s.enabledOf a).testBit n then s1.interruptOf a else s1

/-- The flags a write of v leaves (Table 0-4, W1C). -/
def clearedBy (old v : Nat) : Nat := old - (old &&& v)

/-- Software writes a W1C register: each 1 clears its flag, and an enabled flag left at 1 requests the interrupt again (R55). -/
def State.clearFlags (s : State) (a v : Nat) : State :=
  let left := clearedBy (s.regNat a) v
  let s1 := s.setNat a left
  if left &&& s.enabledOf a ≠ 0 then s1.interruptOf a else s1

/-! ## Incarnations (R554) -/

/-- The next incarnation: from 0xFFFF to 1, never 0. -/
def nextInc (i : BitVec 16) : BitVec 16 := if i = 0xFFFF then 1 else i + 1

/-- The incarnation of an ID; 1 where the table lists none. -/
def incOf (t : List (Nat × BitVec 16)) (k : Nat) : BitVec 16 := (lookup k t).getD 1

/-- Raises the incarnation of an ID. -/
def raiseInc (t : List (Nat × BitVec 16)) (k : Nat) : List (Nat × BitVec 16) := insert k (nextInc (incOf t k)) t

def State.unitInc (s : State) (u : Nat) : Nat := (incOf s.spine.unitInc u).toNat
def State.funcInc (s : State) (f : Nat) : Nat := (incOf s.spine.funcInc f).toNat

/-- Raises the incarnation of a unit. -/
def State.raiseUnit (s : State) (u : Nat) : State :=
  { s with spine := { s.spine with unitInc := raiseInc s.spine.unitInc u } }

/-- Raises the incarnation of a function. -/
def State.raiseFunc (s : State) (f : Nat) : State :=
  { s with spine := { s.spine with funcInc := raiseInc s.spine.funcInc f } }

/-- The unit block IDs of the unit block map: the ones whose UNIT_INC does not read zero. -/
def knownUnits (v : Variant) : List Nat :=
  [0x00] ++ (List.range 8).map (· + 0x01) ++ (List.range 32).map (· + 0x10) ++ (List.range 4).map (· + 0x30)
  ++ [0x38, 0x39] ++ ((List.range 16).filter fun n => sitePopulated v (unitBlock (0x40 + n))).map (· + 0x40)
  ++ (List.range 12).map (· + 0x50) ++ (List.range 8).map (· + 0x60) ++ [0x70, 0x71, 0x72, 0x73, 0x74, 0x75, 0x76]

/-! ## The event log (R581-R583) -/

/-- What a rule that logs an event says about it. -/
structure LogArg where
  cause : Nat
  cls : Nat
  unit : Nat := 0xFF
  berth : Option Nat := none
  queue : Nat := 0xFF
  fn : Nat := 0
  tag : Nat := 0
  address : Nat := 0
  detail : Nat := 0
  keepsake : Bool := false
  users : Nat := 0
  deriving DecidableEq, Repr

/-- Makes room in a full log: the oldest INFO record goes, or the oldest where none is INFO (R583). -/
def dropOne : List LogRecord → List LogRecord
  | [] => []
  | r :: rs => if (r :: rs).any fun x => x.cls == 0 then (r :: rs).eraseP fun x => x.cls == 0 else rs

/-- Writes one error record, and requests PF0 vector 0 where its class is enabled (R582, R583). -/
def State.logEvent (s : State) (g : LogArg) : State :=
  let r : LogRecord :=
    { seq := s.log.next.toNat, cause := g.cause, cls := g.cls, keepsake := g.keepsake, berth := g.berth,
      time := if g.keepsake then 0 else s.now, epoch := s.spine.epoch.toNat, unit := g.unit,
      incarnation := if g.unit = 0xFF then 0 else s.unitInc g.unit, queue := g.queue, fn := g.fn, tag := g.tag,
      address := g.address, detail := g.detail, users := g.users }
  let full := decide (4096 ≤ s.log.records.length)
  let kept := if full then dropOne s.log.records else s.log.records
  let s1 := { s with log :=
    { records := kept ++ [r], next := s.log.next + 1,
      dropped := if full then min (s.log.dropped + 1) 0xFFFF else s.log.dropped } }
  if (s.regNat (blkLogbook + 8)).testBit g.cls then s1.emit (.interrupt 0 0) else s1

/-- A discarded write or an access without effect is logged: cause 0x0002, INFO. -/
def State.logDiscard (s : State) (fn addr : Nat) : State := s.logEvent { cause := 0x0002, cls := 0, fn := fn, address := addr }

/-! ## Platform events (R84) -/

/-- A state sensor changed or a panel flag set: a PlatformEventMessage waits for the receiver, if one is set. Panel flags are
numbered from 0x100, beyond the identifiers of Table 3-5. -/
def State.platformEvent (s : State) (id state : Nat) : State :=
  match s.mgmt.receiver with
  | none => s
  | some _ => { s with mgmt := { s.mgmt with events := s.mgmt.events ++ [(id, state)] } }

/-- A state sensor of Table 3-5 reports a new state: 16 + p the link of port p (1 down, 2 training, 3 up, 4 reduced, 5 refused), 32 + n
reach socket n, 48 the power state, 49 the life cycle. -/
def State.sensorChange (s : State) (id old new : Nat) : State := if old = new then s else s.platformEvent id new

/-- REACH_SOCKET.STATE (Table 3-8). -/
def SocketState.code : SocketState → Nat
  | .empty => 0
  | .refused => 1
  | .powered => 2
  | .inService => 3
  | .releaseRequested => 4
  | .released => 5
  | .lost => 6

/-- Reach socket n. -/
def State.socket (s : State) (n : Nat) : Socket := (lookup n s.panel.sockets).getD ⟨.empty, 0, false⟩

/-- Reach socket n takes a new state. -/
def State.putSocket (s : State) (n : Nat) (k : Socket) : State :=
  let t := { s with panel := { s.panel with sockets := insert n k s.panel.sockets } }
  t.sensorChange (32 + n) (s.socket n).state.code k.state.code

/-- POWER_STATUS.STATE, which sensor 48 reports too. -/
def PowerState.code : PowerState → Nat
  | .off => 0
  | .standby => 1
  | .idle => 2
  | .active => 3

/-- The device enters a power state. -/
def State.toPower (s : State) (p : PowerState) : State :=
  ({ s with power := { s.power with state := p } }).sensorChange 48 s.power.state.code p.code

/-- ALERT_N is low while a message awaits collection on SMBus (R84). -/
def State.alertLow (s : State) : Bool :=
  match s.mgmt.receiver with
  | some (.smbus _, _) => !s.mgmt.events.isEmpty
  | _ => false

/-- Sets a flag of PANEL_EVENTS. -/
def State.raisePanel (s : State) (n : Nat) : State := (s.raise evPanel n).platformEvent (0x100 + n) 1

/-! ## Host memory -/

/-- The host memory as this command meets it. -/
def State.sees (s : State) (hv : HostView) : State :=
  { s with host := { cells := hv.cells.foldl (fun c p => insert p.1 p.2 c) s.host.cells, fails := hv.fails } }

/-- Does an access to a host range fail? -/
def State.hostFails (s : State) (a n : Nat) : Bool :=
  n != 0 && s.host.fails.any fun r => decide (a < r.2) && decide (r.1 < a + n)

/-- One byte of host memory; zero where the host was never seen to hold one (notes/assumptions/8.md). -/
def State.hostByte (s : State) (a : Nat) : Byte := (lookup a s.host.cells).getD 0

/-- A range of host memory. -/
def State.hostRead (s : State) (a n : Nat) : List Byte := (List.range n).map fun i => s.hostByte (a + i)

/-- Bytes put into a keyed list of bytes, from an address. -/
def putCells (a : Nat) : List Byte → List Host.Cell → List Host.Cell
  | [], c => c
  | b :: bs, c => putCells (a + 1) bs (insert a b c)

/-- Writes a range of host memory. -/
def State.hostWrite (s : State) (a : Nat) (bs : List Byte) : State :=
  { s with host := { s.host with cells := putCells a bs s.host.cells } }

/-! ## Berths (R100, R515, R516) -/

def berthCfg (b : Nat) : Nat := blkDevice + 0xC00 + 32 * b

/-- A berth exists while BERTH_CFG.ENABLED is 1 (R515). -/
def State.berthEnabledAt (s : State) (epoch b : Nat) : Bool := decide (b < 8) && (s.lkWord epoch (berthCfg b)).testBit 31

/-- PF0 owns every berth, and a VF the berth bound to it (R100, R516), by the settings of an epoch. -/
def State.berthBoundAt (s : State) (epoch b fn : Nat) : Bool :=
  s.berthEnabledAt epoch b && (fn == 0 || field (s.lkWord epoch (berthCfg b)) 28 24 == fn)

/-- The same by the current settings. -/
def State.berthEnabled (s : State) (b : Nat) : Bool := s.berthEnabledAt 0 b
def State.berthBound (s : State) (b fn : Nat) : Bool := s.berthBoundAt 0 b fn

/-- The function of BERTH_CFG: 0 is PF0 only. -/
def State.berthFn (s : State) (b : Nat) : Nat := field (s.regNat (berthCfg b)) 28 24

/-! ## Commands in flight -/

/-- Is this the command of a queue and TAG? -/
def Cmd.is (c : Cmd) (q tag : Nat) : Bool := c.queue == q && c.tag == tag

/-- The command in flight that a reference names. -/
def State.cmd (s : State) (r : CmdRef) : Option Cmd := s.inflight.find? fun c => c.is r.queue r.tag

/-- Updates the command in flight that a reference names. -/
def State.updCmd (s : State) (r : CmdRef) (f : Cmd → Cmd) : State :=
  { s with inflight := updateFirst (fun c => c.is r.queue r.tag) f s.inflight }

/-- What a finished command answers (Table 4-3). -/
structure Answer where
  status : Nat := 0
  detail : Nat := 0
  result0 : Nat := 0
  result1 : Nat := 0
  deriving DecidableEq, Repr

/-- A command finishes: its reply waits to be written. -/
def State.finish (s : State) (r : CmdRef) (a : Answer) : State :=
  s.updCmd r fun c => { c with stage := .done, status := a.status, detail := a.detail, result0 := a.result0, result1 := a.result1 }

/-- A command that an event finishes later. -/
def State.running (s : State) (r : CmdRef) : State := s.updCmd r fun c => { c with stage := .running }

/-- Marks a command as the cause of a log record (LOGGED, R582). -/
def State.markLogged (s : State) (r : CmdRef) : State := s.updCmd r fun c => { c with logged := true }

/-- An n-byte parameter field at a packet offset (Table 4-2). -/
def Cmd.param (c : Cmd) (off n : Nat) : Nat := fieldAt c.packet off n

/-- The reference of a command. -/
def Cmd.ref (c : Cmd) : CmdRef := ⟨c.queue, c.tag⟩

/-- The commands whose memory accesses the spec counts out: MOVE, INIT_FILL, the narrow commands and ATOMIC (R288, R294, R297, R305). -/
def Cmd.counted (c : Cmd) : Bool := decide (0x4000 ≤ c.opcode) && decide (c.opcode < 0x5000)

/-- An operation of an epoch and a berth is under way. -/
def State.actFor (s : State) (epoch berth : Nat) : State := { s with acting := { epoch := epoch, berth := some berth, counted := false } }

/-- The operation of a command is under way. -/
def State.actAs (s : State) (c : Cmd) : State := { s with acting := { epoch := c.epoch, berth := some c.berth, counted := c.counted } }

/-! ## Keepsake (R144, R146) -/

/-- A keepsake write: the contents change and WRITE_COUNT advances. -/
def State.ksWrite (s : State) (f : Keepsake → Keepsake) : State :=
  { s with keepsake := { f s.keepsake with writeCount := (s.keepsake.writeCount + 1) % 2 ^ 32 } }

/-! ## The epoch (R137) -/

/-- Each commit raises the epoch by one; it passes from 0xFFFF_FFFF to 1 and never takes the value 0. -/
def nextEpoch (e : BitVec 32) : BitVec 32 := if e = 0xFFFFFFFF then 1 else e + 1

/-! ## Status codes (Table 4-4) -/

def stSuccess : Nat := 0x0000
def stAdmitted : Nat := 0x0001
def stHeld : Nat := 0x0002
def stBadHeader : Nat := 0x1001
def stBadLength : Nat := 0x1002
def stReservedNonzero : Nat := 0x1003
def stCrcMismatch : Nat := 0x1004
def stUnknownOpcode : Nat := 0x1005
def stOutOfRange : Nat := 0x1006
def stDuplicateTag : Nat := 0x1007
def stNotNegotiated : Nat := 0x1008
def stEpochMismatch : Nat := 0x2001
def stAborted : Nat := 0x2002
def stTimedOut : Nat := 0x2003
def stNotFound : Nat := 0x2004
def stResourceInUse : Nat := 0x3001
def stNoResource : Nat := 0x3002
def stHeldForService : Nat := 0x3003
def stBerthOwnership : Nat := 0x4001
def stNotPermitted : Nat := 0x5001
def stHostAccess : Nat := 0x5002
def stPoisoned : Nat := 0x6001
def stReachLost : Nat := 0x6002
def stWeightsDamaged : Nat := 0x6003
def stUncorrectable : Nat := 0x6004
def stLinkDown : Nat := 0x7001
def stRefusedBudget : Nat := 0x8001
def stRefusedCapacity : Nat := 0x8002
def stRefusedPolicy : Nat := 0x8003
def stTargetRestarted : Nat := 0x9001
def stAddressOverlap : Nat := 0x4103
def stUnitFault : Nat := 0xA001
def stUnitFenced : Nat := 0xA002

/-- Status class. -/
def classOf (st : Nat) : Nat := st / 0x1000

end Sys2Proof.Machine
end

