-- ==== Sys2Proof/Machine/Map.lean ====
section
/-! DEFINITION. The address map (chapters 10 and 11): the regions of a device address (R270, R275), where an address lies physically
(R271, R272, R276, R248), basin segments (R279, R280). -/

namespace Sys2Proof.Machine

open Sys2Proof

/-! ## The address map (Tables 10-2 and 11-1) -/

inductive Region where
  | stack
  | socket (n : Nat)
  | stripe
  | basin
  | bank
  | reserved
  deriving DecidableEq, Repr

def stackBytes (v : Variant) : Nat := match v with | .l => 0x10000000000 | .s => 0x8000000000
def socketBase (n : Nat) : Nat := 0x010000000000 + n * 0x002000000000
def socketBytes : Nat := 0x2000000000
def stripeBase : Nat := 0x030000000000
def basinBase : Nat := 0xE00000000000
def basinBytes : Nat := 0x30000000
def bankBase : Nat := 0xF00000000000

/-- The bytes of one basin line, which is also the stack line (R274). -/
def lineBytes (v : Variant) : Nat := match v with | .l => 256 | .s => 128

/-- A bank of a die's window (Table 10-2): first offset in a view, size, index i of Table 10-1. -/
structure BankRange where
  lo : Nat
  size : Nat
  index : Nat
  deriving DecidableEq, Repr

def bankRanges : List BankRange :=
  [ ⟨0x00000000, 0x2000000, 0⟩, ⟨0x02000000, 0x1000000, 1⟩, ⟨0x04000000, 0x1800000, 2⟩
  , ⟨0x08000000, 0x2000000, 3⟩, ⟨0x0A000000, 0x1000000, 4⟩, ⟨0x0C000000, 0x1800000, 5⟩ ]
  ++ (List.range 8).map (fun v => ⟨0x10000000 + v * 0x400000, 0x400000, 6 + v⟩)
  ++ [⟨0x14000000, 0x400000, 14⟩]

/-- The views of a bank window (R248). -/
inductive BankView where
  | plain
  | setAlias
  | clearAlias
  deriving DecidableEq, Repr

/-- A bank address taken apart: die, view, bank and offset in the bank. -/
structure BankPlace where
  die : Nat
  view : BankView
  bank : BankRange
  off : Nat
  deriving DecidableEq, Repr

/-- Where a device address in the bank range lies; none where the offset is reserved (R248). -/
def bankPlace (a : Nat) : Option BankPlace :=
  if a < bankBase || bankBase + 0x200000000 ≤ a then none
  else
    let die := (a - bankBase) / 0x80000000
    let w := (a - bankBase) % 0x80000000
    let view := w / 0x20000000
    let o := w % 0x20000000
    match bankRanges.find? (fun b => decide (b.lo ≤ o) && decide (o < b.lo + b.size)) with
    | none => none
    | some b =>
      if view = 0 then some ⟨die, .plain, b, o - b.lo⟩
      else if b.index = 14 then none
      else if view = 1 then some ⟨die, .setAlias, b, o - b.lo⟩
      else if view = 2 then some ⟨die, .clearAlias, b, o - b.lo⟩
      else none

/-- The plain-view address of a bank byte. -/
def BankPlace.plainAddr (p : BankPlace) : Nat := bankBase + p.die * 0x80000000 + p.bank.lo + p.off

/-- The owner of a bank: the unit block ID of its pavé or engine; none for the towpath bank (Table 10-1). -/
def bankOwner (die index : Nat) : Option Nat :=
  if index < 3 then some (0x01 + 2 * die)
  else if index < 6 then some (0x02 + 2 * die)
  else if index < 14 then some (0x10 + 8 * die + (index - 6))
  else none

/-- REACH_LAYOUT fields (R275), as the operation under way sees them (R140). -/
def State.reachMap (s : State) : Nat := field (s.lkWord s.acting.epoch (blkDevice + 0x800)) 11 0
def State.reachStripe (s : State) : Nat := field (s.lkWord s.acting.epoch (blkDevice + 0x800)) 27 16

/-- The striped sockets in ascending socket number. -/
def State.stripeMembers (s : State) : List Nat := bitsBelow 12 s.reachStripe

/-- The region of a device address (Table 11-1, R275). -/
def State.regionOf (s : State) (a : Nat) : Region :=
  if a < stackBytes s.spine.variant then .stack
  else if 0x010000000000 ≤ a && a < 0x028000000000 then
    let n := (a - 0x010000000000) / 0x002000000000
    if s.reachMap.testBit n && !s.reachStripe.testBit n then .socket n else .reserved
  else if 0x030000000000 ≤ a && a < 0x030000000000 + s.stripeMembers.length * socketBytes then .stripe
  else if 0xE00000000000 ≤ a && a < 0xE00030000000 then .basin
  else if (bankPlace a).isSome then .bank
  else .reserved

/-- The socket and offset of a stripe address (R276). -/
def State.stripePlace (s : State) (a : Nat) : Nat × Nat :=
  let m := s.stripeMembers
  let g := (a - stripeBase) / 4096
  (m.getD (g % m.length) 0, (g / m.length) * 4096 + a % 4096)

/-- The physical address that holds a byte: a stripe address under its socket's window, an alias under the plain view. -/
def State.phys (s : State) (a : Nat) : Nat :=
  match s.regionOf a with
  | .stripe => let p := s.stripePlace a; socketBase p.1 + p.2
  | .bank => match bankPlace a with | some p => p.plainAddr | none => a
  | _ => a

/-- The stack that holds a stack address (R271). -/
def stackOf (v : Variant) (a : Nat) : Nat :=
  let g := a / 2048
  match v with
  | .l => (g % 16) ^^^ (g / 16 % 16) ^^^ (g / 256 % 16)
  | .s => let h := (g % 8) ^^^ (g / 8 % 8) ^^^ (g / 64 % 8); h % 4 + 8 * (h / 4)

/-- The offset of a stack address within its stack (R271). -/
def stackOffset (v : Variant) (a : Nat) : Nat := a / 2048 / (match v with | .l => 16 | .s => 8) * 2048 + a % 2048

/-- The home hub of a stack address (R272): ST0-ST7 on HB0. -/
def homeHub (v : Variant) (a : Nat) : Nat := stackOf v a / 8

/-- The socket that a physical address lies in. -/
def physSocket (p : Nat) : Option Nat :=
  if 0x010000000000 ≤ p && p < 0x028000000000 then some ((p - 0x010000000000) / 0x002000000000) else none

def inBasin (p : Nat) : Bool := decide (0xE00000000000 ≤ p) && decide (p < 0xE00030000000)
def inBanks (p : Nat) : Bool := decide (0xF00000000000 ≤ p) && decide (p < 0xF00200000000)

/-- A basin hub of a basin device address. -/
def basinHub (p : Nat) : Nat := (p - 0xE00000000000) / 0x18000000

/-- The physical runs of a device range: one, but in the stripe view one to each 4 KiB granule (R276). -/
def State.physRuns (s : State) (a n : Nat) : List (Nat × Nat) :=
  if n = 0 then []
  else if s.regionOf a = .stripe then
    (List.range (n / 4096 + 2)).filterMap fun i =>
      let lo := max a ((a / 4096 + i) * 4096)
      let hi := min (a + n) ((a / 4096 + i + 1) * 4096)
      if lo < hi then some (s.phys lo, hi - lo) else none
  else [(s.phys a, n)]

/-- Does [a, a + n) lie in [lo, lo + len)? -/
def within (a n lo len : Nat) : Bool := decide (lo ≤ a) && decide (a + n ≤ lo + len)

/-! ## Basin segments (R279, R280) -/

inductive SegUse where
  | common
  | scratchpad (berth : Nat)
  | cache (berth : Nat)
  deriving DecidableEq, Repr

/-- The use a BASIN_SEG byte gives a segment. -/
def segUse (b : Nat) : SegUse :=
  if !b.testBit 7 then .common else if b.testBit 6 then .scratchpad (field b 2 0) else .cache (field b 2 0)

/-- The BASIN_SEG byte of segment j of hub h, as an operation of an epoch sees it (R283); epoch 0: now. -/
def State.segByte (s : State) (epoch h j : Nat) : Nat :=
  field (s.lkWord epoch (blkBasin h + 4 * (j / 4))) (8 * (j % 4) + 7) (8 * (j % 4))

/-- The use of the segment that a basin offset lies in; 24 segments of 16 MiB to a hub. -/
def State.segAt (s : State) (epoch off : Nat) : SegUse :=
  segUse (s.segByte epoch (off / 0x18000000) (off % 0x18000000 / 0x01000000))

/-- The uses of the segments that a basin range touches; none where it leaves the basin. -/
def State.segsOf (s : State) (epoch off n : Nat) : List SegUse :=
  if off + n ≤ basinBytes then
    (List.range (n / 0x01000000 + 2)).map fun i => s.segAt epoch (min (off + i * 0x01000000) (off + n - 1))
  else []

/-- Is every segment of a basin range scratchpad? -/
def State.scratchpad (s : State) (epoch off n : Nat) : Bool :=
  let u := s.segsOf epoch off n
  !u.isEmpty && u.all fun x => match x with | .scratchpad _ => true | _ => false

/-- Is every segment of a basin range scratchpad of one berth? -/
def State.scratchpadOf (s : State) (epoch off n b : Nat) : Bool :=
  let u := s.segsOf epoch off n
  !u.isEmpty && u.all fun x => x == SegUse.scratchpad b

/-! ## Where slots have their registers -/

/-- The compute die of a pavé or engine. -/
def unitDie (u : Nat) : Nat := if u < 0x10 then (u - 1) / 2 else (u - 0x10) / 8

def histBase (h : Nat) : Nat := blkKeeper + 0x6000 + 128 * h
def assayBase (n : Nat) : Nat := blkKeeper + 0x4000 + 32 * n
def ctxBase (c : Nat) : Nat := blkKeeper + 0x2780 + 128 * c

end Sys2Proof.Machine
end

