-- ==== Sys2Proof/Machine/Basin.lean ====
section
/-! DEFINITION. The basin controllers (chapter 11): the cache (R281-R284), the sluice (R285-R287), the traffic counters and the weirs
(R306-R309). They hold which lines stand where; the bytes stand in Mem (R273), and an access moves none of them. -/

namespace Sys2Proof.Machine

open Sys2Proof

def State.updBasin (s : State) (f : Basin → Basin) : State := { s with mem := { s.mem with basin := f s.mem.basin } }

/-! ## Counters and weirs -/

/-- Adds to a traffic counter, 64 bits, which wraps. -/
def State.count (s : State) (a n : Nat) : State :=
  s.updBasin fun b => { b with counts := insert a (((lookup a b.counts).getD 0 + n) % 2 ^ 64) b.counts }

/-- The registers of a weir (unit block 0x75). -/
def weirAt (w : Nat) : Nat := blkWeirs + 0x100 + 32 * w

/-- The weir of the operation under way: its berth's, or weir 8 for traffic of no berth (R306). -/
def State.weir (s : State) : Nat := s.acting.berth.getD 8

/-- A weir's access to n bytes at a regulated point (R306, R308). WEIR_BYTES counts the stacks' bytes. -/
def State.chargeTo (s : State) (w point n : Nat) : State :=
  let t := s.updBasin fun b =>
    { b with asked := insert (16 * point + w) ((lookup (16 * point + w) b.asked).getD 0 + n) b.asked }
  if point < 16 then t.count (weirAt w + 0x18) n else t

def State.charge (s : State) (point n : Nat) : State := s.chargeTo s.weir point n

/-- Controller c (0-15 stacks, 16-27 sockets) reads or writes n bytes at its interface. -/
def State.ctrlRead (s : State) (c n : Nat) : State := (s.count (blkStack c + 0x10) n).charge c n
def State.ctrlWrite (s : State) (c n : Nat) : State := (s.count (blkStack c + 0x18) n).charge c n

/-- An access served from hub h's basin, and one that goes to a stack: n bytes at the basin. -/
def State.hit (s : State) (h n : Nat) : State := (s.count (blkBasin h + 0x30) 1).charge (28 + h) n
def State.miss (s : State) (h n : Nat) : State := (s.count (blkBasin h + 0x38) 1).charge (28 + h) n

/-! ## The cache (R281, R282) -/

/-- The first address of the stack line that holds an address. -/
def lineOf (v : Variant) (a : Nat) : Nat := a - a % lineBytes v

/-- The sets of one segment: 16 MiB of 16-way sets. -/
def segSets (v : Variant) : Nat := 0x01000000 / (16 * lineBytes v)

/-- The segments of a hub in one use, but for the sluice of the 1L (R279) and segments in change (R283). -/
def State.segsIn (s : State) (h : Nat) (u : SegUse) : List Nat :=
  (List.range (match s.spine.variant with | .l => 20 | .s => 24)).filter fun j =>
    segUse (s.segByte s.acting.epoch h j) == u && !s.segChanges.any fun k => k.hub == h && k.seg == j

/-- Where a miss allocates: the cache segments of the berth that issued the access, or the common cache of the hub; none where neither
exists (R281). -/
def State.pool (s : State) (h : Nat) : List Nat :=
  let mine := match s.acting.berth with | some b => s.segsIn h (.cache b) | none => []
  if mine.isEmpty then s.segsIn h .common else mine

/-- The line as the cache holds it. -/
def State.cached (s : State) (l : Nat) : Option CacheLine := s.mem.basin.lines.find? fun k => k.line == l

/-- The weir of a segment: the berth whose cache it is, or weir 8 (R308). -/
def State.segWeir (s : State) (h j : Nat) : Nat := match segUse (s.segByte 0 h j) with | .cache b => b | _ => 8

/-- A line that the basin marks poisoned leaves it for its stack: the poison code goes into the sectors given (R317). -/
def State.spreadPoison (s : State) (l : Nat) (sectors : List Nat) : State :=
  if s.mem.basin.wide.contains l then
    { s with mem := { s.mem with
        poison := (sectors ++ s.mem.poison.filter (· != l)).dedup, lost := s.mem.lost.filter (· != l),
        basin := { s.mem.basin with wide := s.mem.basin.wide.filter (· != l) } } }
  else s

/-- The sectors of a line, by address. -/
def sectorsOf (v : Variant) (l : Nat) : List Nat := (List.range (lineBytes v / 64)).map fun i => l + 64 * i

/-- A line leaves the cache; a dirty one is written back, counted to its segment's weir (R308). -/
def State.expel (s : State) (k : CacheLine) : State :=
  let v := s.spine.variant
  let h := homeHub v k.line
  let t := s.updBasin fun b => { b with lines := b.lines.filter fun x => x.line != k.line }
  if k.dirty then
    let w := s.segWeir h k.seg
    let t := ((t.count (blkBasin h + 0x40) 1).chargeTo w (28 + h) (lineBytes v)).chargeTo w (stackOf v k.line) (lineBytes v)
    (t.count (blkStack (stackOf v k.line) + 0x18) (lineBytes v)).spreadPoison k.line (sectorsOf v k.line)
  else t

/-- Set i of a pool's segments, as segment and set. -/
def setPlace (v : Variant) (pool : List Nat) (i : Nat) : Nat × Nat := (pool.getD (i / segSets v) 0, i % segSets v)

/-- A miss allocates its line: in a way of its set that is free and in use, or in place of the line used least recently. Which set a
line belongs to is the model's choice (notes/assumptions/37.md). -/
def State.allocate (s : State) (l : Nat) (dirty : Bool) : State :=
  let v := s.spine.variant
  let h := homeHub v l
  let p := s.pool h
  if p.isEmpty then s
  else
    let at_ := setPlace v p (l / lineBytes v % (p.length * segSets v))
    let there := s.mem.basin.lines.filter fun k => homeHub v k.line == h && k.seg == at_.1 && k.set == at_.2
    let put := fun (t : State) (way : Nat) => t.updBasin fun b =>
      { b with uses := b.uses + 1, lines := ⟨l, at_.1, at_.2, way, dirty, false, b.uses⟩ :: b.lines }
    match (List.range 16).find? fun w => !s.mem.basin.disabled.contains (h, at_.1, at_.2, w) && !there.any fun k => k.way == w with
    | some w => put s w
    | none =>
      match there.find? fun k => there.all fun x => k.used ≤ x.used with
      | some k => put (s.expel k) k.way
      | none => s

/-- An access finds the line in the cache: it becomes the one used latest. -/
def State.useLine (s : State) (l : Nat) (write : Bool) : State :=
  s.updBasin fun b => { b with
    uses := b.uses + 1, lines := b.lines.map fun k => if k.line = l then { k with used := b.uses, dirty := k.dirty || write } else k }

/-! ## The sluice (R285-R287) -/

def State.entryAt (s : State) (l : Nat) : Option SluiceEntry := s.mem.basin.sluice.find? fun e => e.line == l

def State.dropEntry (s : State) (l : Nat) : State := s.updBasin fun b => { b with sluice := b.sluice.filter fun e => e.line != l }

/-- The bits of n bytes from an offset. -/
def byteMask (off n : Nat) : Nat := (2 ^ n - 1) * 2 ^ off

/-- Is a sector of a line wholly, and is it at all, among the bytes of a mask? -/
def wholeSector (m i : Nat) : Bool := (m >>> (64 * i)) % 2 ^ 64 == 2 ^ 64 - 1
def someSector (m i : Nat) : Bool := (m >>> (64 * i)) % 2 ^ 64 != 0

/-- Writes the sectors of a mask to a line's stack: whole ones as they are, the others merged, each of which counts twice (R274,
R308). -/
def State.mergeSectors (s : State) (l m : Nat) : State :=
  let v := s.spine.variant
  let c := stackOf v l
  let is := (List.range (lineBytes v / 64)).filter (someSector m)
  let part := (is.filter fun i => !wholeSector m i).length
  let t := if part = 0 then s else (s.count (blkStack c + 0x20) part).ctrlRead c (64 * part)
  t.ctrlWrite c (64 * is.length)

/-- A write of part of a line enters the sluice, and an entry that holds the whole line is written as one line. -/
def State.sluiceWrite (s : State) (l off n : Nat) : State :=
  let v := s.spine.variant
  let h := homeHub v l
  let old := match s.entryAt l with | some e => e.bytes | none => 0
  let m := old ||| byteMask off n
  let t := s.hit h n
  if m = 2 ^ lineBytes v - 1 then
    (((t.dropEntry l).count (blkBasin h + 0x48) 1).ctrlWrite (stackOf v l) (lineBytes v)).spreadPoison l (sectorsOf v l)
  else if old = 0 then t.updBasin fun b => { b with sluice := b.sluice ++ [⟨l, m⟩] }
  else t.updBasin fun b => { b with sluice := b.sluice.map fun e => if e.line = l then { e with bytes := m } else e }

/-- An entry is evicted: its whole sectors are written and the others merged (R285). -/
def State.evictEntry (s : State) (e : SluiceEntry) : State :=
  let v := s.spine.variant
  let t := ((s.dropEntry e.line).count (blkBasin (homeHub v e.line) + 0x50) 1).mergeSectors e.line e.bytes
  t.spreadPoison e.line (((List.range (lineBytes v / 64)).filter (someSector e.bytes)).map fun i => e.line + 64 * i)

/-! ## Accesses -/

/-- A read of n bytes of a stack line. -/
def State.readLine (s : State) (alloc : Bool) (l n : Nat) : State :=
  let v := s.spine.variant
  let h := homeHub v l
  if (s.cached l).isSome then (s.useLine l false).hit h n
  else if (s.entryAt l).isSome then s.hit h n
  else if alloc && !(s.pool h).isEmpty then ((s.miss h n).ctrlRead (stackOf v l) (lineBytes v)).allocate l false
  else (s.miss h n).ctrlRead (stackOf v l) ((n + 63) / 64 * 64)

/-- A write of n bytes at an offset of a stack line: to the line in the cache; a whole line into the cache, without a read (R282), or to
its stack; a part of one into the sluice of the 1L (R285), or to the stack of the 1S, merged (R287). -/
def State.writeLine (s : State) (l off n : Nat) : State :=
  let v := s.spine.variant
  let h := homeHub v l
  if (s.cached l).isSome then (s.useLine l true).hit h n
  else if n = lineBytes v then
    let t := s.dropEntry l
    if (t.pool h).isEmpty then (t.miss h n).ctrlWrite (stackOf v l) n else (t.hit h n).allocate l true
  else if v = .l then s.sluiceWrite l off n
  else (s.miss h n).mergeSectors l (byteMask off n)

/-- A narrow access to a stack: served by the basin where the line is there; otherwise a read fetches its sector and a write goes to
the sluice or the controller (R294). It counts 64 bytes (R308). -/
def State.narrowLine (s : State) (write : Bool) (a n : Nat) : State :=
  let v := s.spine.variant
  let l := lineOf v a
  let h := homeHub v l
  if (s.cached l).isSome then (s.useLine l write).hit h 64
  else if write && v = .l then (s.sluiceWrite l (a - l) n).charge (28 + h) (64 - n)
  else if (s.entryAt l).isSome then s.hit h 64
  else
    let t := (s.miss h 64).count (blkStack (stackOf v l) + 0x28) 1
    if write then t.mergeSectors l (byteMask (a - l) n) else t.ctrlRead (stackOf v l) 64

/-- The runs of a range that lie in one line each: first address and length. -/
def lineRuns (v : Variant) (a n : Nat) : List (Nat × Nat) :=
  if n = 0 then []
  else
    (List.range ((a + n - 1) / lineBytes v - a / lineBytes v + 1)).map fun i =>
      let lo := max a ((a / lineBytes v + i) * lineBytes v)
      (lo, min (a + n) ((a / lineBytes v + i + 1) * lineBytes v) - lo)

/-- What an access to a range of device addresses does at the basins, the controllers and the weirs (R273, R281, R308). The spec does not
count out every operation's accesses; those that it does not leave the counters open. -/
def State.tally (s : State) (write alloc : Bool) (a n : Nat) : State :=
  let v := s.spine.variant
  let mark := fun (t : State) => if s.acting.counted then t else t.updBasin fun b => { b with inexact := true }
  match s.regionOf a with
  | .stack =>
    mark ((lineRuns v a n).foldl (fun (t : State) r =>
      let l := lineOf v r.1
      if write then t.writeLine l (r.1 - l) r.2 else t.readLine alloc l r.2) s)
  | .basin => mark ((lineRuns v a n).foldl (fun (t : State) r => t.hit (basinHub r.1) r.2) s)
  | .socket _ | .stripe =>
    mark ((s.physRuns a n).foldl (fun (t : State) r =>
      match physSocket r.1 with
      | some k => if write then t.ctrlWrite (16 + k) r.2 else t.ctrlRead (16 + k) r.2
      | none => t) s)
  | _ => s

/-- The reads of several ranges at the basins, the controllers and the weirs. -/
def State.tallyReads (s : State) (alloc : Bool) (rs : List (Nat × Nat)) : State :=
  rs.foldl (fun (t : State) (r : Nat × Nat) => t.tally false alloc r.1 r.2) s

/-- An access that the spec does not count out touches the memories: the counters are open from here on. -/
def State.uncountedAccess (s : State) : State := s.updBasin fun b => { b with inexact := true }

/-! ## Whole ranges -/

/-- The bytes below a stack address that lie on stack c. -/
def bytesBelow (v : Variant) (c x : Nat) : Nat :=
  let k := match v with | .l => 16 | .s => 8
  let g0 := x / 2048 / k * k
  g0 / k * 2048 + ((List.range k).map fun i => if stackOf v ((g0 + i) * 2048) = c then min 2048 (x - (g0 + i) * 2048) else 0).sum

/-- INIT_FILL of a stack range: lines and entries that lie in it are discarded, those it covers in part are overwritten where they are,
and every controller writes its sectors (R305). -/
def State.fillLines (s : State) (a n : Nat) : State :=
  let v := s.spine.variant
  let len := lineBytes v
  let inside := fun (l : Nat) => decide (a ≤ l) && decide (l + len ≤ a + n)
  let meets := fun (l : Nat) => decide (l < a + n) && decide (a < l + len)
  let part := fun (l : Nat) => let lo := max a l; byteMask (lo - l) (min (a + n) (l + len) - lo)
  let t := s.updBasin fun b => { b with
    lines := (b.lines.filter fun k => !inside k.line).map fun k => if meets k.line then { k with dirty := true } else k,
    sluice := (b.sluice.filter fun e => !inside e.line).map fun e => if meets e.line then { e with bytes := e.bytes ||| part e.line } else e,
    wide := b.wide.filter fun l => !inside l }
  (List.range 16).foldl (fun (t : State) c =>
    let k := bytesBelow v c (a + n) - bytesBelow v c a
    if k = 0 then t else t.ctrlWrite c k) t

/-- Every line of the cache is written back or dropped, and the cache is empty (R284). -/
def State.emptyCache (s : State) : State := s.mem.basin.lines.foldl (fun (t : State) k => t.expel k) s

/-- The lines of one segment leave the cache (R283). -/
def State.emptySegment (s : State) (h j : Nat) : State :=
  (s.mem.basin.lines.filter fun k => homeHub s.spine.variant k.line == h && k.seg == j).foldl (fun (t : State) k => t.expel k) s

/-! ## Regulation (R306, R307, R309) -/

/-- The capacity of a point for one window: the basin's counts the beats completed in it (Table 11-6). -/
def pointCapacity (point beats : Nat) : Nat := if point < 16 then 11059200 else if point < 28 then 1224000 else 8192 * beats

/-- A weir's FLOOR and CEILING at a point. -/
def shareAt (shares : List (Nat × Nat × Nat)) (w point : Nat) : Nat × Nat :=
  let x := shares.getD w (0x04000000, 0x04000000, 0x04000000)
  let r := if point < 16 then x.1 else if point < 28 then x.2.1 else x.2.2
  (field r 10 0, field r 26 16)

/-- What a window grants at one point to each of the nine weirs, of what they asked: first up to the floors, then, in the order of the
weirs' numbers, up to the ceilings, within the capacity (notes/assumptions/38.md). -/
def grants (capacity : Nat) (asked floors ceilings : List Nat) : List Nat :=
  let first := (List.range 9).map fun w => min (asked.getD w 0) (floors.getD w 0)
  let rest := (List.range 9).foldl (fun (acc : List Nat × Nat) w =>
    let more := min (min (asked.getD w 0) (ceilings.getD w 0) - first.getD w 0) acc.2
    (acc.1 ++ [first.getD w 0 + more], acc.2 - more)) ([], capacity - first.sum)
  rest.1

/-- The places of WEIR_THROTTLED's counts: STACK, REACH, BASIN. -/
def throttledBit (point : Nat) : Nat := if point < 16 then 22 else if point < 28 then 12 else 2

/-- One point at the end of a window: what was granted is let through, the rest waits, and a weir that reached its ceiling is counted. -/
def State.endPoint (s : State) (beats point : Nat) : State :=
  let b := s.mem.basin
  let ask := (List.range 9).map fun w => (lookup (16 * point + w) b.asked).getD 0
  if ask.all (· == 0) then s
  else
    let c := pointCapacity point beats
    let floors := (List.range 9).map fun w => (shareAt b.shares w point).1 * c / 1024
    let ceilings := (List.range 9).map fun w => (shareAt b.shares w point).2 * c / 1024
    let got := grants c ask floors ceilings
    (List.range 9).foldl (fun (t : State) w =>
      let a := weirAt w + 0x10
      let old := (lookup a t.mem.basin.counts).getD 0
      let at_ := throttledBit point
      let n := field old (at_ + 9) at_
      let reached := ask.getD w 0 != 0 && decide (ceilings.getD w 0 ≤ got.getD w 0)
      t.updBasin fun b => { b with
        asked := if ask.getD w 0 = got.getD w 0 then erase (16 * point + w) b.asked
          else insert (16 * point + w) (ask.getD w 0 - got.getD w 0) b.asked,
        counts := if reached then insert a (old - n * 2 ^ at_ + (n + 1) % 1024 * 2 ^ at_) b.counts else b.counts }) s

/-- A window of 1,000 units ends: every point lets through what it granted, and the next window takes the weirs' words as they now are. -/
def State.endWindow (s : State) : State :=
  if !s.expired (s.mem.basin.windowFrom + 1000) then s
  else
    let total := s.reg64 (blkPower + 8)
    let beats := total - s.mem.basin.beatsFrom
    let t := (List.range 30).foldl (fun (t : State) p => t.endPoint beats p) s
    t.updBasin fun b => { b with
      windowFrom := b.windowFrom + 1000, beatsFrom := total,
      shares := (List.range 9).map fun w => (s.regNat (weirAt w), s.regNat (weirAt w + 4), s.regNat (weirAt w + 8)) }

end Sys2Proof.Machine
end

