-- ==== Sys2Proof/Machine/Shared.lean ====
section
/-! DEFINITION. Weight sets and adapters as the memories meet them (chapters 12 and 13): which one holds a stack line, the repair that a
read of a bad line starts (R325), and damage (R327, R360). -/

namespace Sys2Proof.Machine

open Sys2Proof

def State.putSet (s : State) (w : Nat) (k : WeightSet) : State := { s with sets := insert w k s.sets }
def State.updSet (s : State) (w : Nat) (f : WeightSet → WeightSet) : State :=
  match lookup w s.sets with
  | some k => s.putSet w (f k)
  | none => s
def State.updAdapter (s : State) (a : Nat) (f : Adapter → Adapter) : State :=
  match lookup a s.adapters with
  | some k => { s with adapters := insert a (f k) s.adapters }
  | none => s

/-- What a stack line under a resident set or adapter belongs to: adapter or set, and the slot. -/
def State.shared (s : State) (a : Nat) : Option (Bool × Nat) :=
  match s.sets.find? fun k => within a 1 k.2.base k.2.bytes && (k.2.state == 2 || k.2.state == 4) with
  | some (w, _) => some (false, w)
  | none =>
    match s.adapters.find? fun k => within a 1 k.2.base k.2.bytes && (k.2.state == 2 || k.2.state == 3) with
    | some (i, _) => some (true, i)
    | none => none

/-- The berths whose requests used a set or adapter slot (R329), as a mask. -/
def State.usersOf (s : State) (adapter : Bool) (slot : Nat) : Nat :=
  if adapter then (match lookup slot s.adapters with | some k => k.users | none => 0)
  else match lookup slot s.sets with | some k => k.users | none => 0

/-- A RESIDENT set becomes DAMAGED, and its repairs close (R327). The repairs of a DROPPING one close; Table 13-1 lets it leave its state
only by its release or return. Requests on it end at their services' next step boundary. -/
def State.damageSet (s : State) (w : Nat) : State :=
  let t := { s with repairs := s.repairs.filter fun r => r.adapter || r.slot != w }
  match lookup w s.sets with
  | none => t
  | some k =>
    if k.state = 2 then
      (t.updSet w fun k => { k with state := 3 }).logEvent
        { cause := 0x030A, cls := 2, unit := 0x71, address := k.base, users := k.users }
    else t

/-- An adapter slot becomes DAMAGED (R360). -/
def State.damageAdapter (s : State) (i : Nat) : State :=
  let t := s.updAdapter i fun k => { k with state := 4, liveDamaged := k.state == 2 }
  let t := { t with repairs := t.repairs.filter fun r => !r.adapter || r.slot != i }
  (t.raise evWeight 4).logEvent
    { cause := 0x030A, cls := 2, unit := 0x71, address := match lookup i s.adapters with | some k => k.base | none => 0,
      users := s.usersOf true i }

def State.damage (s : State) (adapter : Bool) (slot : Nat) : State :=
  if adapter then s.damageAdapter slot else s.damageSet slot

/-- The source code of a set or adapter. -/
def State.sourceCode (s : State) (adapter : Bool) (slot : Nat) : Nat :=
  if adapter then (match lookup slot s.adapters with | some k => k.source | none => 3)
  else match lookup slot s.sets with | some k => k.source | none => 3

/-- A read met an uncorrectable or poisoned sector: where it lies in a resident set or adapter, the repair of its line opens, or is open
already (R325). A NONE source has no repair (Table 13-3); more than 256 lines at once damage the set (R327). -/
def State.openRepair (s : State) (u : Nat) : State :=
  let line := lineOf s.spine.variant u
  match s.shared u with
  | none => s
  | some (ad, slot) =>
    if s.repairs.any fun r => r.line == line then s
    else if s.sourceCode ad slot = 3 then s.damage ad slot
    else if 256 ≤ (s.repairs.filter fun r => r.adapter == ad && r.slot == slot).length then s.damage ad slot
    else { s with repairs := s.repairs ++ [⟨line, ad, slot, s.now, false⟩] }

end Sys2Proof.Machine
end

