-- ==== Sys2Proof/Machine/Memory.lean ====
section
/-! DEFINITION. The device memories: the address map (R270), where an address lies physically (R271, R276, R248), reading and
writing bytes, what an unwritten or undefined byte reads as, poison and errors (R252-R258, R314-R319). -/

namespace Sys2Proof.Machine

open Sys2Proof

/-! ## Bytes -/

/-- What an address reads as that no write has listed: zero in the basin and the banks, which are cleared (R259, R284); no
value in the stacks and the reach, which the device never initialises (R304). -/
def unlisted (p : Nat) : Option Byte := if inBasin p || inBanks p then some 0 else none

/-- The canonical form: addresses strictly rising, no entry equal to what an unlisted address reads as. -/
def cellsWf (c : List Host.Cell) : Bool := sortedKeys c && c.all fun p => unlisted p.1 != some p.2

def Mem.wf (m : Mem) : Bool := cellsWf m.cells

/-- Writes one byte, keeping the canonical form. -/
def putCell (p : Nat) (b : Byte) (c : List Host.Cell) : List Host.Cell :=
  if unlisted p = some b then erase p c else insert p b c

/-- The parts of a filled range outside [lo, lo + len). -/
def Fill.outside (r : Fill) (lo len : Nat) : List Fill :=
  (if r.lo < lo then [⟨r.lo, min (r.lo + r.len) lo - r.lo, r.kind⟩] else [])
  ++ (if lo + len < r.lo + r.len then [⟨max r.lo (lo + len), r.lo + r.len - max r.lo (lo + len), r.kind⟩] else [])

/-- Takes a range out of the filled ranges. -/
def cutFills (lo len : Nat) (u : List Fill) : List Fill := u.flatMap fun r => r.outside lo len

/-- Writes one physical byte. -/
def Mem.put (m : Mem) (p : Nat) (b : Byte) : Mem :=
  { m with cells := putCell p b m.cells, fills := cutFills p 1 m.fills, parity := m.parity.filter (· != p) }

/-- The byte a filled range holds at an address. -/
def FillKind.byte (k : FillKind) (p : Nat) : Byte :=
  match k with
  | .free d => Config.freeByte d p
  | .pattern w => BitVec.ofNat 8 (w.toNat / 2 ^ (8 * (p % 8)))

/-- The filled range that holds an address. -/
def Mem.fillAt (m : Mem) (p : Nat) : Option Fill := m.fills.find? fun r => decide (r.lo ≤ p) && decide (p < r.lo + r.len)

/-- Reads one physical byte: a listed byte, the byte of a filled range, or what an unlisted byte reads as, which in a
never-written sector is a free value of the power-on (R304). -/
def Mem.get (m : Mem) (p : Nat) : Byte :=
  match lookup p m.cells with
  | some b => b
  | none =>
    match m.fillAt p with
    | some r => r.kind.byte p
    | none => (unlisted p).getD (Config.freeByte m.life p)

/-- Forgets a physical range: its bytes are as if never written. -/
def Mem.forget (m : Mem) (lo len : Nat) : Mem :=
  let out := fun p => !(decide (lo ≤ p) && decide (p < lo + len))
  { m with
    cells := m.cells.filter (fun c => out c.1), fills := cutFills lo len m.fills,
    poison := m.poison.filter out, bad := m.bad.filter out, lost := m.lost.filter out, parity := m.parity.filter out,
    basin := { m.basin with wide := m.basin.wide.filter out } }

/-- Fills a physical range: every byte, poison and error in it is replaced. -/
def Mem.fill (m : Mem) (lo len : Nat) (k : FillKind) : Mem :=
  let f := m.forget lo len
  { f with fills := ⟨lo, len, k⟩ :: f.fills }

/-! ## Units of poison -/

/-- The bytes of the unit that a physical address lies in: a line of the basin, and a stack line that the basin marks poisoned (R317), or
64 bytes elsewhere. -/
def State.poisonBytes (s : State) (p : Nat) : Nat :=
  if inBasin p || s.mem.basin.wide.contains (lineOf s.spine.variant p) then lineBytes s.spine.variant else 64

/-- The first address of that unit. -/
def State.poisonUnit (s : State) (p : Nat) : Nat := p - p % s.poisonBytes p

/-- The units that a range of n bytes from device address a touches, by physical first address, without repeats. -/
def State.unitsOf (s : State) (a n : Nat) : List Nat :=
  (List.range n).foldr (fun i acc =>
    let u := s.poisonUnit (s.phys (a + i))
    match acc with
    | h :: _ => if h = u then acc else u :: acc
    | [] => [u]) []

/-- The units of a range that a write of the whole range covers. -/
def State.unitsCovered (s : State) (a n : Nat) : List Nat :=
  (s.unitsOf a n).filter fun u =>
    ((List.range n).filter fun i => s.poisonUnit (s.phys (a + i)) == u).length == s.poisonBytes u

/-- A socket whose accesses complete with REACH_LOST (R93): lost, or holding a new module that no commit has mapped. -/
def State.socketLost (s : State) (n : Nat) : Bool :=
  match lookup n s.panel.sockets with
  | some k => k.state = .lost || k.stale
  | none => false

/-- Does a physical address lie in a socket that is lost (R93)? -/
def State.noModule (s : State) (p : Nat) : Bool := match physSocket p with | some n => s.socketLost n | none => false

/-- Does it lie in a FAILED stack (R312)? -/
def State.noStack (s : State) (p : Nat) : Bool :=
  decide (p < stackBytes s.spine.variant) && s.mem.failed.contains (stackOf s.spine.variant p)

/-- Is any byte of a unit never written since power-on (R304)? Partly written sectors of a stack count as unwritten reads. -/
def State.neverWritten (s : State) (u : Nat) : Bool :=
  (unlisted u).isNone && (List.range 64).any fun i =>
    (lookup (u + i) s.mem.cells).isNone && (s.mem.fillAt (u + i)).isNone

/-- A read of a sector that was never written ends with an uncorrectable error, which R304 leaves open. -/
def State.unwrittenBad (s : State) (u : Nat) : Bool := s.neverWritten u && Config.unwrittenFails s.mem.life u

/-- How one unit reads (R314, R304): the status of the read, none where the data is returned. -/
def State.unitStatus (s : State) (u : Nat) : Option Nat :=
  match physSocket u with
  | some n =>
    if s.socketLost n then some stReachLost
    else if s.mem.poison.contains u then some (if s.mem.lost.contains u then stUncorrectable else stPoisoned)
    else if s.mem.bad.contains u || s.unwrittenBad u then some stUncorrectable
    else none
  | none =>
    if s.noStack u then some stUncorrectable
    else if s.mem.poison.contains u then some (if s.mem.lost.contains u then stUncorrectable else stPoisoned)
    else if s.mem.bad.contains u || s.unwrittenBad u then some stUncorrectable
    else none

/-- The order in which one transfer reports failures (R598). -/
def worse (a b : Option Nat) : Option Nat :=
  let rank := fun x : Option Nat =>
    match x with
    | none => 0
    | some st => if st = stHostAccess then 4 else if st = stReachLost then 3 else if st = stUncorrectable then 2 else 1
  if rank b > rank a then b else a

/-- Bank bytes of a range with bad parity (R253). -/
def State.parityIn (s : State) (a n : Nat) : List Nat :=
  ((List.range n).map fun i => s.phys (a + i)).filter fun p => s.mem.parity.contains p

/-- The status of reading n bytes from a device address: none where the data is returned whole. -/
def State.readStatus (s : State) (a n : Nat) : Option Nat :=
  let st := (s.unitsOf a n).foldl (fun w u => worse w (s.unitStatus u)) none
  if (s.parityIn a n).isEmpty then st else worse st (some stUncorrectable)

/-- The bytes of a range. -/
def State.bytesAt (s : State) (a n : Nat) : List Byte := (List.range n).map fun i => s.mem.get (s.phys (a + i))

/-- The little-endian number a range holds. -/
def State.natAt (s : State) (a n : Nat) : Nat := leNat (s.bytesAt a n)

/-! ## What a failed read leaves behind -/

/-- The controller block index of a physical sector: 0-15 stacks, 16-27 sockets. -/
def State.controllerOf (s : State) (p : Nat) : Option Nat :=
  match physSocket p with
  | some n => some (16 + n)
  | none => if p < stackBytes s.spine.variant then some (stackOf s.spine.variant p) else none

/-- Records one sector or line that a read found uncorrectable or poisoned (R314, R316, R317, MEM_ERR_ADDR, MEM_ERR_INFO):
the first read of an uncorrectable sector writes the poison code; the error is recorded once. -/
def State.recordUnit (s : State) (u st : Nat) : State :=
  if s.mem.lost.contains u then { s with mem := { s.mem with lost := s.mem.lost.filter (· != u) } }
  else if s.mem.basin.wide.contains u then s
  else if inBasin u then
    if st = stUncorrectable then
      let h := basinHub u
      let s := { s with mem := { s.mem with bad := s.mem.bad.filter (· != u), poison := u :: s.mem.poison } }
      let s := (s.sat32 (blkBasin h + 0x84) 1).set64 (blkBasin h + 0x78) (2 ^ 63 + 2 ^ 62 + u)
      (s.raise (evBasin h) 1).logEvent { cause := 0x0307, cls := 2, unit := 0x38 + h, address := u }
    else s
  else
    match s.controllerOf u with
    | none => s
    | some c =>
      let b := blkStack c
      if st = stUncorrectable then
        let s := { s with mem := { s.mem with bad := s.mem.bad.filter (· != u), poison := u :: s.mem.poison } }
        let s := (s.sat32 (b + 0x60) 1).set64 (b + 0x40) (2 ^ 63 + u)
        let d := s.draw
        let s := d.2.setNat (b + 0x48)
          (2 * 2 ^ 30 + (Config.freeWord d.1 u % 256) * 2 ^ 16 + (Config.freeWord d.1 (u + 1) % 256) * 2 ^ 8)
        (s.raise (evMem c) 2).logEvent { cause := 0x0305, cls := 2, unit := 0x40 + c, address := u }
      else if st = stPoisoned then
        ((s.set64 (b + 0x40) (2 ^ 63 + u)).setNat (b + 0x48) (3 * 2 ^ 30 + 0xFF * 2 ^ 16 + 0xFF * 2 ^ 8)).raise (evMem c) 3
      else s

/-- What a read of one sector or line leaves behind: its record, and the repair it starts (R325). -/
def State.noteUnit (s : State) (u : Nat) : State :=
  match s.unitStatus u with
  | none => s
  | some st => (s.recordUnit u st).openRepair u

/-- A bank byte with bad parity is read by a master (R253): recorded, counted, the byte left unchanged. -/
def State.noteParity (s : State) (master p : Nat) : State :=
  match bankPlace p with
  | none => s
  | some k =>
    let b := blkBanks k.die
    let s := (s.set64 (b + 0x10) (2 ^ 63 + p)).setNat (b + 0x18) (master * 2 ^ 28 + k.bank.index)
    let s := s.sat32 (b + 0x40 + 4 * k.bank.index) 1
    let s := s.raise (evBanks k.die) (if k.bank.index = 14 then 4 else 0)
    let key := 16 * k.die + k.bank.index
    let times := (s.now :: (lookup key s.units.parityAt).getD []).take 16
    let s := { s with units := { s.units with parityAt := insert key times s.units.parityAt } }
    s.logEvent { cause := 0x0202, cls := 2, unit := 0x30 + k.die, address := p }

/-- A bank granule with its poison tag set is read (POISON_READ). -/
def State.noteBankPoison (s : State) (u : Nat) : State :=
  match bankPlace u with
  | none => s
  | some k => if s.mem.poison.contains u then s.raise (evBanks k.die) 1 else s

/-- Everything that reading a range leaves behind. Masters of a bank port: 0 owner, 1 move engine, 2 collective streamer,
3 another pavé, 4 accumulator view, 5 keeper or staging. -/
def State.noteRead (s : State) (master a n : Nat) : State :=
  let s1 := (s.unitsOf a n).foldl (fun t u => if inBanks u then t.noteBankPoison u else t.noteUnit u) s
  (s.parityIn a n).foldl (fun t p => t.noteParity master p) s1

/-! ## Writes -/

/-- Poisons every unit a range touches (R319). -/
def State.poisonRange (s : State) (a n : Nat) : State :=
  { s with mem := { s.mem with poison := (s.unitsOf a n ++ s.mem.poison).dedup } }

/-- Leaves a range with undefined values (R119): free values of one new draw. Poison stays. -/
def State.undefine (s : State) (a n : Nat) : State :=
  let d := s.draw
  ({ d.2 with mem := (s.physRuns a n).foldl (fun (m : Mem) (r : Nat × Nat) =>
      let f := m.fill r.1 r.2 (.free d.1)
      { f with poison := m.poison, bad := m.bad, lost := m.lost }) d.2.mem }).uncountedAccess

/-- Writes a range with values that the spec leaves open: free values of one new draw, in units that are whole again. -/
def State.overwrite (s : State) (a n : Nat) : State :=
  let d := s.draw
  ({ d.2 with mem := (s.physRuns a n).foldl (fun (m : Mem) (r : Nat × Nat) => m.fill r.1 r.2 (.free d.1)) d.2.mem }).uncountedAccess

/-- Fills a device range with a pattern (R305). -/
def State.fillPattern (s : State) (a n : Nat) (w : Wide) : State :=
  let t := { s with mem := (s.physRuns a n).foldl (fun (m : Mem) (r : Nat × Nat) => m.fill r.1 r.2 (.pattern w)) s.mem }
  if s.regionOf a = .stack then t.fillLines a n else t.tally true false a n

/-- Does a write of part of a unit meet an error in its merge read: poison, two symbols in error, or, where the merge is made at once,
a sector that was never written (R274, R304, R316)? On the 1L the sluice merges when it writes an entry (R285). -/
def State.mergeFails (s : State) (u : Nat) : Bool :=
  s.mem.poison.contains u || s.mem.bad.contains u || (s.spine.variant == .s && s.unwrittenBad u)

/-- The units of a range whose write is lost: not covered whole, with an error in the merge read, and outside the banks, where a byte
write never merges (R252, R316, R317). -/
def State.lostUnits (s : State) (a n : Nat) : List Nat :=
  let whole := s.unitsCovered a n
  (s.unitsOf a n).filter fun u => !inBanks u && !whole.contains u && s.mergeFails u

/-- What the merge reads of a write leave behind (R316): the records of the units whose bytes are lost. -/
def State.noteMerge (s : State) (a n : Nat) : State := (s.lostUnits a n).foldl (fun (t : State) u => t.noteUnit u) s

/-- Stores bytes that are not poisoned in a device range: bytes of a lost unit are lost, a unit covered whole loses its
poison (R254, R316, R317). -/
def State.storeMem (s : State) (a : Nat) (bs : List Byte) : State :=
  let n := bs.length
  let lost := s.lostUnits a n
  let whole := s.unitsCovered a n
  let put := fun (m : Mem) (ib : Nat × Byte) =>
    let p := s.phys (a + ib.1)
    if lost.contains (s.poisonUnit p) || s.noModule p || s.noStack p then m else m.put p ib.2
  let m := ((List.range n).zip bs).foldl put s.mem
  ({ s with mem :=
    { m with
      poison := (m.poison.filter (fun u => !whole.contains u)) ++ (lost.filter fun u => !m.poison.contains u),
      lost := m.lost.filter (fun u => !whole.contains u),
      bad := (m.bad.filter (fun u => !whole.contains u && !lost.contains u)),
      basin := { m.basin with wide := m.basin.wide.filter (fun u => !whole.contains u) } } }).tally true false a n

/-- A write to a device range: the merge reads that it makes, and the bytes. -/
def State.writeMem (s : State) (a : Nat) (bs : List Byte) : State := (s.noteMerge a bs.length).storeMem a bs

/-- The status a write ends with: REACH_LOST where a socket is lost, UNCORRECTABLE on a FAILED stack (R312) and where a merge read finds a
sector uncorrectable, POISONED where it meets poison (R316). -/
def State.writeStatus (s : State) (a n : Nat) : Option Nat :=
  let lostSocket := (s.unitsOf a n).any s.noModule
  if lostSocket then some stReachLost
  else if (s.unitsOf a n).any s.noStack || (s.lostUnits a n).any (fun u => !s.mem.poison.contains u) then some stUncorrectable
  else if (s.lostUnits a n).isEmpty then none else some stPoisoned

/-! ## The sluice and the cache as they reach the stacks (R284-R286) -/

/-- An entry is evicted. A sector that it holds in part and that was never written is read for the merge, which can fail: it is poisoned
then (R304). -/
def State.evict (s : State) (e : SluiceEntry) : State :=
  let part := ((List.range (lineBytes s.spine.variant / 64)).filter fun i => someSector e.bytes i && !wholeSector e.bytes i).map fun i =>
    e.line + 64 * i
  ((part.filter s.unwrittenBad).foldl (fun (t : State) u => t.noteUnit u) s).evictEntry e

/-- A drain writes every entry (R286). -/
def State.drainSluice (s : State) : State := s.mem.basin.sluice.foldl (fun (t : State) e => t.evict e) s

/-- A warm reset writes the dirty lines back and drains the sluice; a write-back to a FAILED stack fails and is logged (R284, Table
12-6). -/
def State.writeBackAll (s : State) : State :=
  let t := (s.mem.basin.lines.filter fun k => k.dirty && s.noStack k.line).foldl (fun (t : State) k =>
    t.logEvent { cause := 0x030B, cls := 2, unit := 0x38 + homeHub s.spine.variant k.line, address := k.line }) s
  t.emptyCache.drainSluice

/-- An alias write of one word of w bytes (R256): set ORs, clear clears. -/
def aliasWord (view : BankView) (old data : List Byte) : List Byte :=
  (old.zip data).map fun p =>
    match view with
    | .plain => p.2
    | .setAlias => p.1 ||| p.2
    | .clearAlias => p.1 &&& ~~~ p.2

/-- Writes to a bank through a view, 8-byte operations in ascending order (R257); an operation that reads a parity error or a
poison tag is not written and sets ALIAS_FAULT (R258). The status is that of the first failing operation. -/
def State.writeAlias (s : State) (view : BankView) : Nat → List (List Byte) → Option Nat → State × Option Nat
  | _, [], st => (s, st)
  | a, w :: ws, st =>
    match s.readStatus a w.length with
    | some e =>
      let die := match bankPlace a with | some p => p.die | none => 0
      ((s.noteRead 1 a w.length).raise (evBanks die) 2).writeAlias view (a + w.length) ws (worse st (some e))
    | none => (s.writeMem a (aliasWord view (s.bytesAt a w.length) w)).writeAlias view (a + w.length) ws st

/-- Cuts a list into words of n bytes, by fuel. -/
def chunk (n : Nat) : Nat → List Byte → List (List Byte)
  | 0, _ => []
  | k + 1, bs => if bs.isEmpty then [] else bs.take n :: chunk n k (bs.drop n)

/-! ## Spaces of an endpoint (R298) -/

/-- An address with its space: 0 a device address, 1 a PCIe address of the queue's function. -/
inductive Place where
  | device (a : Nat)
  | host (a : Nat)
  | invalid
  deriving DecidableEq, Repr

/-- The place that bits 63:62 and the rest of an endpoint name (R298). -/
def placeOf (w : Nat) : Place :=
  if w / 2 ^ 62 = 0 then (if w < 2 ^ 48 then .device w else .invalid)
  else if w / 2 ^ 62 = 1 then .host (w % 2 ^ 62)
  else .invalid

/-- Reads from a place: the bytes and the status of the read. -/
def State.readPlace (s : State) (p : Place) (off n : Nat) : List Byte × Option Nat :=
  match p with
  | .device a => (s.bytesAt (a + off) n, s.readStatus (a + off) n)
  | .host a => (s.hostRead (a + off) n, if s.hostFails (a + off) n then some stHostAccess else none)
  | .invalid => (zeros n, none)

/-- Writes to a place: the state and the status of the write. -/
def State.writePlace (s : State) (p : Place) (off : Nat) (bs : List Byte) : State × Option Nat :=
  match p with
  | .device a => (s.writeMem (a + off) bs, s.writeStatus (a + off) bs.length)
  | .host a => if s.hostFails (a + off) bs.length then (s, some stHostAccess) else (s.hostWrite (a + off) bs, none)
  | .invalid => (s, none)

end Sys2Proof.Machine
end

