-- ==== Sys2Proof/Machine/Integrity.lean ====
section
/-! DEFINITION. Memory integrity (chapter 12): interface parity and retraining, corrected sectors, the leaky bucket, basin CRCs.
Repair stands in Machine/Weights.lean. Controllers are numbered 0-15 for ST0-ST15 and 16-27 for FS0-FS11. -/

namespace Sys2Proof.Machine

open Sys2Proof

/-- The register block of a controller. -/
def blkCtrl (c : Nat) : Nat := blkStack c

/-- Is a controller there: a fitted stack, or a reach socket? -/
def State.ctrlFitted (s : State) (c : Nat) : Bool :=
  if c < 16 then sitePopulated s.spine.variant (unitBlock (0x40 + c)) else decide (c < 28)

/-! ## The bucket (R320-R322) -/

def State.bucketLevel (s : State) (c : Nat) : Nat := field (s.regNat (blkCtrl c + 0x4C)) 7 0
def State.bucketOverflows (s : State) (c : Nat) : Nat := field (s.regNat (blkCtrl c + 0x4C)) 31 16
def State.bucketThreshold (s : State) (c : Nat) : Nat := field (s.regNat (blkCtrl c + 0x50)) 7 0
def State.bucketInterval (s : State) (c : Nat) : Nat := field (s.regNat (blkCtrl c + 0x50)) 31 16

def State.putBucket (s : State) (c overflows level : Nat) : State :=
  s.setNat (blkCtrl c + 0x4C) (overflows % 65536 * 2 ^ 16 + level)

/-- The bucket overflows: zero, BUCKET_OVERFLOW, OVERFLOWS and a record (R321). -/
def State.overflowBucket (s : State) (c : Nat) : State :=
  ((s.putBucket c (s.bucketOverflows c + 1) 0).raise (evMem c) 1).logEvent { cause := 0x0301, cls := 1, unit := 0x40 + c }

/-- One correctable event: CORRECTED sets and the bucket takes it. -/
def State.correctable (s : State) (c : Nat) : State :=
  let t := s.raise (evMem c) 0
  if t.bucketThreshold c < t.bucketLevel c + 1 then t.overflowBucket c
  else t.putBucket c (t.bucketOverflows c) (t.bucketLevel c + 1)

/-- BUCKET_OVERFLOW: an event would raise the bucket above THRESHOLD. -/
def execBucketOverflow (ctrl now : Nat) (s : State) : Host.Outcome State Fault Refusal :=
  runs (fun s =>
    let s := s.at now
    if s.ctrlFitted ctrl && decide (s.bucketThreshold ctrl < s.bucketLevel ctrl + 1) then s.overflowBucket ctrl else s) s

/-- BUCKET_LEAK: at whole multiples of INTERVAL seconds the bucket loses one, and the on-die corrections since the last poll
are added to ONDIE (R313, R320). -/
def execBucketLeak (ctrl ondie now : Nat) (s : State) : Host.Outcome State Fault Refusal :=
  runs (fun s =>
    let s := s.at now
    let i := s.bucketInterval ctrl * second
    if !s.ctrlFitted ctrl || i = 0 || s.now % i ≠ 0 then s
    else (s.putBucket ctrl (s.bucketOverflows ctrl) (s.bucketLevel ctrl - 1)).sat32 (blkCtrl ctrl + 0x68) ondie) s

/-! ## Correctable events -/

/-- INTERFACE_PARITY_RETRY: a transfer succeeded on a repeat (R311). -/
def execInterfaceParityRetry (ctrl : Nat) (s : State) : Host.Outcome State Fault Refusal :=
  runs (fun s => if s.ctrlFitted ctrl then (s.sat32 (blkCtrl ctrl + 0x64) 1).correctable ctrl else s) s

/-- CORRECTED_WRITE_BACK: a read found one symbol of a sector in error, in a byte lane; the corrected sector is written back
unless a newer write was granted, so no byte changes (R314, R315). -/
def execCorrectedWriteBack (addr lane : Nat) (s : State) : Host.Outcome State Fault Refusal :=
  runs (fun s =>
    let u := s.poisonUnit (s.phys addr)
    match s.controllerOf (s.phys addr) with
    | none => s
    | some c =>
      if (s.unitStatus u).isSome then s else
      let t := (s.sat64 (blkCtrl c + 0x58) 1).setNat (blkCtrl c + 0x48) (2 ^ 30 + lane % 256 * 2 ^ 16 + 0xFF * 2 ^ 8)
      t.correctable c) s

/-! ## Retraining (R312) -/

/-- INTERFACE_RETRAIN: the fifth attempt failed too; the controller holds its requests and retrains. -/
def execInterfaceRetrain (ctrl now : Nat) (s : State) : Host.Outcome State Fault Refusal :=
  runs (fun s =>
    let s := s.at now
    if !s.ctrlFitted ctrl || s.retraining.contains ctrl || s.mem.failed.contains ctrl then s
    else { s with retraining := s.retraining ++ [ctrl] }) s

/-- A socket becomes LOST: its module's contents are lost, and its repairs of data with them (R93). -/
def State.loseSocket (s : State) (n : Nat) : State :=
  let t := s.putSocket n { s.socket n with state := .lost }
  { t with mem := t.mem.forget (socketBase n) socketBytes }

/-- A fatal error is raised: the device waits for a cold reset (Table 22-1). -/
def State.fatal (s : State) (g : LogArg) : State := ({ s with clock := { s.clock with fatal := true } }).logEvent g

/-- INTERFACE_RETRAIN_DONE. -/
def execInterfaceRetrainDone (ctrl : Nat) (ok : Bool) (now : Nat) (s : State) : Host.Outcome State Fault Refusal :=
  runs (fun s =>
    let s := s.at now
    if !s.retraining.contains ctrl then s
    else
      let t := { s with retraining := s.retraining.filter (· != ctrl) }
      if ok then
        (t.raise (evMem ctrl) 4).logEvent { cause := 0x0302, cls := 1, unit := 0x40 + ctrl }
      else if ctrl < 16 then
        let t := t.raise (evMem ctrl) 5
        ({ t with mem := { t.mem with failed := ctrl :: t.mem.failed } }).fatal { cause := 0x0303, cls := 3, unit := 0x40 + ctrl }
      else
        ((t.loseSocket (ctrl - 16)).raise (evMem ctrl) 5).logEvent { cause := 0x0304, cls := 2, unit := 0x40 + ctrl }) s

/-! ## Basin CRC (R317, R318) -/

/-- A way of a set of the cache, or a scratchpad line, is found faulty (R318). -/
def State.wayFaulty (s : State) (h p : Nat) : State :=
  ((s.add32 (blkBasin h + 0x88) 1).raise (evBasin h) 2).logEvent { cause := 0x0308, cls := 1, unit := 0x38 + h, address := p }

/-- The data of a line held in the basin is lost and the line marked poisoned; `wide` for a line of a stack, which the basin marks as a
whole (R317). -/
def State.crcLost (s : State) (h p : Nat) (wide : Bool) : State :=
  let t := { s with mem := { s.mem with
    poison := (p :: s.mem.poison).dedup, lost := (p :: s.mem.lost).dedup, bad := s.mem.bad.filter (· != p),
    basin := { s.mem.basin with wide := if wide then (p :: s.mem.basin.wide).dedup else s.mem.basin.wide } } }
  let t := (t.sat32 (blkBasin h + 0x84) 1).set64 (blkBasin h + 0x78) (2 ^ 63 + 2 ^ 62 + p)
  (t.raise (evBasin h) 1).logEvent { cause := 0x0307, cls := 2, unit := 0x38 + h, address := p }

/-- A clean cache line is fetched again from its stack. One that was fetched again before shows a faulty way: the way leaves use and the
line with it (R318). -/
def State.crcRefetch (s : State) (h : Nat) (k : CacheLine) : State :=
  let c := stackOf s.spine.variant k.line
  let n := lineBytes s.spine.variant
  let t := (s.sat32 (blkBasin h + 0x80) 1).set64 (blkBasin h + 0x78) (2 ^ 63 + k.line)
  let t := (t.raise (evBasin h) 0).logEvent { cause := 0x0306, cls := 1, unit := 0x38 + h, address := k.line }
  let t := (t.count (blkStack c + 0x10) n).chargeTo (t.segWeir h k.seg) c n
  if k.refetched then
    (t.updBasin fun b => { b with
      lines := b.lines.filter fun x => x.line != k.line, disabled := (h, k.seg, k.set, k.way) :: b.disabled }).wayFaulty h k.line
  else
    t.updBasin fun b => { b with lines := b.lines.map fun x => if x.line = k.line then { x with refetched := true } else x }

/-- BASIN_CRC_MISMATCH: the CRC of the line that holds an address fails at a read: a scratchpad line, a line of the cache or an entry of
the sluice. A clean cache line is fetched again; the data of any other is lost. A scratchpad line that fails twice is recorded too. -/
def State.crcMismatch (s : State) (addr : Nat) : State :=
  let n := lineBytes s.spine.variant
  let p := s.phys addr - s.phys addr % n
  if s.mem.basin.wide.contains p then s
  else if inBasin p then
    let h := basinHub p
    if s.mem.poison.contains p || !s.scratchpad 0 (p - basinBase) n then s
    else
      let t := s.crcLost h p false
      let times := (s.mem.basin.failedOnce.filter (· == p)).length
      let t := t.updBasin fun b => { b with failedOnce := p :: b.failedOnce }
      if times = 1 then t.wayFaulty h p else t
  else
    let h := homeHub s.spine.variant p
    match s.cached p, s.entryAt p with
    | some k, _ => if k.dirty then s.crcLost h p true else s.crcRefetch h k
    | none, some _ => s.crcLost h p true
    | none, none => s

def execBasinCrcMismatch (addr : Nat) (s : State) : Host.Outcome State Fault Refusal := runs (fun s => s.crcMismatch addr) s

end Sys2Proof.Machine
end

