-- ==== Sys2Proof/Machine/History.lean ====
section
/-! DEFINITION. Assay slots and scale-history slots (R195-R204): who may name them, what a completed command adds, ADVANCE and
RESET in acceptance order. -/

namespace Sys2Proof.Machine

open Sys2Proof

/-! ## Assay slots -/

/-- May a command name assay slot n (R197)? Slot 0 names none. -/
def State.assayAllowed (s : State) (c : Cmd) (n : Nat) : Bool :=
  let w := s.lkWord c.epoch (blkKeeper + 0x3F00 + 4 * (n / 4))
  let b := field w (8 * (n % 4) + 7) (8 * (n % 4))
  n == 0 || (if b.testBit 7 then field b 2 0 == c.berth else c.fn == 0)

/-- One update of an assay slot (R196). -/
def State.addAssay (s : State) (n format : Nat) (k : Counts) : State :=
  if n = 0 || k.total = 0 then s
  else
    let a := assayBase n
    let s := (((s.add64 a k.total).add64 (a + 8) k.saturated).add64 (a + 0x10) k.vanished).sat32 (a + 0x18) k.nonfinite
    let old := field (s.regNat (a + 0x1C)) 15 8
    if old = 0 then s.setNat (a + 0x1C) (format * 256)
    else if old = format then s
    else s.setNat (a + 0x1C) (putBit (s.regNat (a + 0x1C)) 1 true)

/-- CLEAR of an assay slot (R198). -/
def State.clearAssay (s : State) (n : Nat) : State :=
  (List.range 8).foldl (fun t i => t.setNat (assayBase n + 4 * i) 0) s

/-! ## Scale-history slots -/

def State.histConfig (s : State) (h : Nat) : Nat := s.regNat (histBase h)
def histDepth (w : Nat) : Nat := field w 24 20
def histFormat (w : Nat) : Nat := field w 15 8
def histInit (w : Nat) : Int := signedOf 8 w
def State.histStep (s : State) (h : Nat) : Nat := field (s.regNat (histBase h + 4)) 15 0
def State.histCount (s : State) (h : Nat) : Nat := field (s.regNat (histBase h + 4)) 20 16

/-- CURRENT: the signed scale exponent in force. -/
def State.histCurrent (s : State) (h : Nat) : Int := signedOf 8 (field (s.regNat (histBase h + 4)) 31 24)

/-- Writes HIST_STATE. -/
def State.putHist (s : State) (h : Nat) (current : Int) (count step : Nat) : State :=
  s.setNat (histBase h + 4) (patternOf 8 current * 2 ^ 24 + count * 2 ^ 16 + step % 65536)

/-- The largest of the newest min(COUNT, DEPTH) entries, as an FP32 pattern. -/
def State.histAmax (s : State) (h step count : Nat) : Nat :=
  (List.range (min count (histDepth (s.histConfig h)))).foldl (fun a i =>
    max a (s.regNat (histBase h + 0x10 + 4 * ((step + 15 - i) % 16)))) 0

/-- CURRENT as R201 computes it from the entries held. -/
def State.histScale (s : State) (h step count : Nat) : Int :=
  let w := s.histConfig h
  let a := s.histAmax h step count
  if a = 0 then histInit w else min (max (fittingScale (histFormat w) (ofF32 a) - field w 26 25) (-127)) 127

/-- The slot advances (R201). -/
def State.histAdvance (s : State) (h : Nat) : State :=
  let step := s.histStep h
  let s1 := (s.setNat (histBase h + 0x10 + 4 * (step % 16)) (s.regNat (histBase h + 8))).setNat (histBase h + 8) 0
  let step' := (step + 1) % 65536
  let count' := min (s.histCount h + 1) 16
  s1.putHist h (s1.histScale h step' count') count' step'

/-- The slot is reset (R202). -/
def State.histReset (s : State) (h : Nat) : State :=
  let s1 := (List.range 16).foldl (fun t j => t.setNat (histBase h + 0x10 + 4 * j) 0) (s.setNat (histBase h + 8) 0)
  s1.putHist h (histInit (s.histConfig h)) 0 0

/-- Every slot is as after a RESET: so the restore and a reset of the keeper complex leave them, with CURRENT at the INIT_SCALE of the
configuration in force (chapter 7, after Table 7-20). -/
def State.histResetAll (s : State) : State := (List.range 63).foldl (fun (t : State) i => t.histReset (i + 1)) s

/-- A commit that changes DEPTH, MARGIN or INIT_SCALE recomputes CURRENT (R204). -/
def State.histRecompute (s : State) (h : Nat) : State :=
  let step := s.histStep h
  let count := s.histCount h
  s.putHist h (s.histScale h step count) count step

/-- Folds a maximum into PENDING (R200). -/
def State.foldPending (s : State) (h a : Nat) : State :=
  s.setNat (histBase h + 8) (max (s.regNat (histBase h + 8)) a)

/-- The scale-history slot a command's packet names; 0: none. -/
def Cmd.histSlot (c : Cmd) : Nat :=
  if c.opcode = 0x2000 || c.opcode = 0x2001 then c.param 54 2
  else if c.opcode = 0x3000 then c.param 52 2
  else if c.opcode = 0x5001 then (if bitOf (c.param 33 1) 1 then c.param 52 2 else 0)
  else if c.opcode = 0x5005 then (if c.param 48 1 = 0 then c.param 54 2 else 0)
  else 0

/-- May a command name slot h with this output format (R199)? The refusal, or none. -/
def State.histFails (s : State) (c : Cmd) (h format : Nat) : Option Nat :=
  let w := s.lkWord c.epoch (histBase h)
  if h = 0 then none
  else if 63 < h || histDepth w = 0 || 16 < histDepth w || histFormat w ≠ format
      || !([0x04, 0x05, 0x18].contains format) then some stOutOfRange
  else if (if w.testBit 28 then field w 31 29 == c.berth else c.fn == 0) then none
  else some stBerthOwnership

/-- The slot waits for an ADVANCE or RESET. -/
def State.histWaiting (s : State) (h : Nat) : Bool := s.histWaits.any fun w => w.slot == h

/-- The scale that a command is given at its acceptance (R202, R204); none while an ADVANCE or RESET waits before it. -/
def State.scaleAtAcceptance (s : State) (c : Cmd) : Option Int :=
  if c.histSlot = 0 || s.histWaiting c.histSlot then none else some (s.histCurrent c.histSlot)

/-- The accepted commands in flight that name a slot, by number. -/
def State.naming (s : State) (h : Nat) : List Nat :=
  (s.inflight.filter fun c => c.histSlot == h && c.epoch != 0).map fun c => c.seq

/-- Every command that a waiting write waits for has completed. -/
def State.histReady (s : State) (w : HistWait) : Bool := s.inflight.all fun c => !w.before.contains c.seq

/-- Hands the new CURRENT to the commands accepted after a write that has taken effect and before the slot's next one. -/
def State.handScale (s : State) (h : Nat) : State :=
  let next := s.histWaits.find? fun w => w.slot == h
  let mine := fun c : Cmd => c.histSlot == h && c.scale.isNone
    && (match next with | some w => w.before.contains c.seq | none => true)
  { s with inflight := s.inflight.map fun c => if mine c then { c with scale := some (s.histCurrent h) } else c }

/-- Waiting writes take effect in acceptance order, by fuel (R202). -/
def State.settle : Nat → State → State
  | 0, s => s
  | k + 1, s =>
    match s.histWaits.find? fun w => s.histReady w && !((s.histWaits.takeWhile (· != w)).any fun v => v.slot == w.slot) with
    | none => s
    | some w =>
      let s1 := { s with histWaits := s.histWaits.erase w }
      let s2 := if w.advance then s1.histAdvance w.slot else s1.histReset w.slot
      (s2.handScale w.slot).settle k

def State.histSettle (s : State) : State := s.settle s.histWaits.length

/-- A write of ADVANCE or RESET takes its place at the acceptance arbiter (R202). -/
def State.histWrite (s : State) (h : Nat) (advance : Bool) : State :=
  let w : HistWait := ⟨h, advance, s.naming h⟩
  ({ s with histWaits := s.histWaits ++ [w] }).histSettle

/-- HIST_CTRL: both bits set, or a slot that a service advances: discarded and logged (R202, R203). -/
def State.histCtrl (s : State) (h : Nat) (v : Word) (advance : Bool) : State :=
  if h = 0 || 63 < h then s
  else
    let both := v.toNat.testBit 0 && v.toNat.testBit 1
    let one := v.toNat.testBit 0 || v.toNat.testBit 1
    if !one then s
    else if both || (s.histConfig h).testBit 27 then s.logDiscard 0 (histBase h + 0xC)
    else if v.toNat.testBit 0 = advance then s.histWrite h advance
    else s

/-- What a command adds to its slots when it completes with status class 0 (R196, R200). -/
def State.addCounts (s : State) (c : Cmd) : State :=
  if classOf c.status ≠ 0 then s
  else
    let s1 := match c.assay with | some (n, f, k) => s.addAssay n f k | none => s
    match c.amax with | some (h, a) => s1.foldPending h a | none => s1

def execAssayClear (slot : Nat) (v : Word) (s : State) : Host.Outcome State Fault Refusal :=
  runsHost (fun s => if v.toNat.testBit 0 && 1 ≤ slot && slot ≤ 255 then s.clearAssay slot else s) s

def execHistAdvance (slot : Nat) (v : Word) (s : State) : Host.Outcome State Fault Refusal :=
  runsHost (fun s => s.histCtrl slot v true) s

def execHistReset (slot : Nat) (v : Word) (s : State) : Host.Outcome State Fault Refusal :=
  runsHost (fun s => s.histCtrl slot v false) s

end Sys2Proof.Machine
end

