-- ==== Sys2Proof/Machine/Packets.lean ====
section
/-! DEFINITION. The opcodes of Table 4-5, the LENGTH, the features and the parameter fields of each: checks 5 to 8 and 10 of
Table 4-6 (R122, R123, R127, R129, R560). Offsets are packet offsets, as the chapters' parameter tables give them. -/

namespace Sys2Proof.Machine

open Sys2Proof

/-- One judgement of check 10. -/
inductive Chk where
  /-- Reserved bytes: zero. -/
  | zero (off size : Nat)
  /-- Reserved bits hi:lo of a field. -/
  | zeroBits (off size hi lo : Nat)
  /-- A field, or bits of one, in range: the field's offset, its lowest bit and the judgement over the packet. -/
  | need (off bit : Nat) (ok : List Byte → Bool)

/-- A failure: byte offset, bit within the byte, status. -/
structure ChkFail where
  byte : Nat
  bit : Nat
  status : Nat
  deriving DecidableEq, Repr

/-- The lowest bit that is 1 in a nonzero byte. -/
def lowestBit (b : Nat) : Nat := ((List.range 8).find? fun n => b.testBit n).getD 0

/-- The first reserved byte that is not zero. -/
def Chk.fail (p : List Byte) : Chk → Option ChkFail
  | .zero off size =>
    ((List.range size).find? fun i => fieldAt p (off + i) 1 ≠ 0).map fun i =>
      ⟨off + i, lowestBit (fieldAt p (off + i) 1), stReservedNonzero⟩
  | .zeroBits off size hi lo =>
    let w := field (fieldAt p off size) hi lo
    if w = 0 then none
    else
      let n := lo + ((List.range (hi + 1 - lo)).find? fun k => w.testBit k).getD 0
      some ⟨off + n / 8, n % 8, stReservedNonzero⟩
  | .need off bit ok => if ok p then none else some ⟨off + bit / 8, bit % 8, stOutOfRange⟩

/-- The failure at the lower byte, and within one byte at the lower bit (R123). -/
def ChkFail.lower (a b : ChkFail) : ChkFail :=
  if b.byte < a.byte || (b.byte = a.byte && b.bit < a.bit) then b else a

/-- The failure that decides check 10; none where every field passes. -/
def firstFail (cs : List Chk) (p : List Byte) : Option ChkFail :=
  cs.foldl (fun a c =>
    match a, c.fail p with
    | none, r => r
    | some x, none => some x
    | some x, some y => some (x.lower y)) none

/-! ## Ranges -/

def rng (off size lo hi : Nat) : Chk := .need off 0 fun p => lo ≤ fieldAt p off size && fieldAt p off size ≤ hi
def bitsRng (off size hi lo least most : Nat) : Chk :=
  .need off lo fun p => least ≤ field (fieldAt p off size) hi lo && field (fieldAt p off size) hi lo ≤ most
def among (off size : Nat) (vs : List Nat) : Chk := .need off 0 fun p => vs.contains (fieldAt p off size)
def multiple (off size m : Nat) : Chk := .need off 0 fun p => fieldAt p off size % m == 0

/-- An FP32 pattern that is finite. -/
def fp32Finite (w : Nat) : Bool := field w 30 23 != 255

/-- FP32, finite and greater than 0. -/
def fp32Positive (w : Nat) : Bool := fp32Finite w && !w.testBit 31 && w != 0

/-- FP32 in (0, 1]. -/
def fp32UnitTop (w : Nat) : Bool := fp32Positive w && w ≤ 0x3F800000

/-- FP32 in [0, 1). -/
def fp32UnitBottom (w : Nat) : Bool := w == 0x80000000 || (!w.testBit 31 && w < 0x3F800000)

def finiteAt (off : Nat) : Chk := .need off 0 fun p => fp32Finite (fieldAt p off 4)

/-- An address with its space in bits 63:62 (R298). -/
def placeAt (off : Nat) : Chk := .need off 0 fun p => placeOf (fieldAt p off 8) ≠ .invalid

def formatAt (off : Nat) : Chk := .need off 0 fun p => supportedFormats.contains (fieldAt p off 1)

/-! ## The opcodes (Table 4-5) -/

structure OpInfo where
  opcode : Nat
  /-- LENGTH in 32-byte units; 0: STAGE, whose LENGTH depends on COUNT (R131). -/
  length : Nat
  checks : List Chk

/-- The MX formats (Table 7-1). -/
def isMx (f : Nat) : Bool := 0x06 ≤ f && f ≤ 0x0B

/-- GREEDY, LOGP_FULL and the sampling fields that ADMIT and ROLLOUT share. -/
def samplingChecks (invTemp topP topK draftMax : Nat) : List Chk :=
  [ .need invTemp 0 (fun p => fp32Positive (fieldAt p invTemp 4)), .need topP 0 (fun p => fp32UnitTop (fieldAt p topP 4))
  , rng topK 2 0 1024, rng draftMax 1 0 8 ]

/-- Table 15-1: the parameters common to every collective; CFLAGS only for REDUCE_SCATTER. -/
def collectiveChecks (reduceScatter : Bool) : List Chk :=
  [ rng 32 1 0 7, .zeroBits 33 1 7 2, .zero 44 4 ]
  ++ (if reduceScatter then [] else [bitsRng 33 1 1 0 0 0])

/-- The opcodes with their LENGTH and the checks of their fields. CHECK's FIRST + COUNT past 4,096 is reported at offset 32:
R131 does not say at which of the two fields, and this is the model's choice (notes/assumptions/51.md). -/
def opTable : List OpInfo :=
  [ ⟨0x0000, 1, []⟩
  , ⟨0x0001, 2, [rng 32 1 1 63, rng 33 1 0 31, rng 34 1 0 7, rng 35 1 1 255, rng 36 1 6 16, rng 37 1 6 16,
      .need 38 0 (fun p => if fieldAt p 33 1 = 0 then 64 ≤ fieldAt p 38 2 && fieldAt p 38 2 ≤ 2047
        else 1 ≤ fieldAt p 38 2 && fieldAt p 38 2 ≤ 63),
      multiple 40 8 4096, multiple 48 8 4096, .zero 56 8]⟩
  , ⟨0x0002, 2, [rng 32 1 1 63, .zero 33 31]⟩
  , ⟨0x0003, 2, [rng 32 1 0 63, .zero 33 3, .zero 40 24]⟩
  , ⟨0x0004, 2, [rng 36 4 1 4096, .zeroBits 40 1 7 4, .zero 41 7, placeAt 48, .zero 56 8]⟩
  , ⟨0x0005, 1, []⟩
  , ⟨0x0006, 1, []⟩
  , ⟨0x0007, 2, [rng 32 1 0 11, .zero 33 31]⟩
  , ⟨0x0008, 2, [rng 32 1 0 1, .zero 33 31]⟩
  , ⟨0x0009, 2, [rng 32 1 0 2, .zero 33 31]⟩
  , ⟨0x000A, 2, [.zero 33 1, .zero 36 28]⟩
  , ⟨0x000B, 2, [rng 32 1 0 1, .need 33 0 (fun p => fieldAt p 33 1 ≤ 7 || fieldAt p 33 1 == 0xFF), .zero 34 30]⟩
  , ⟨0x1000, 0, [.need 32 0 (fun p => fieldAt p 32 2 + fieldAt p 34 1 ≤ 4096), rng 34 1 1 29, .zero 35 5]⟩
  , ⟨0x1001, 1, []⟩
  , ⟨0x1002, 1, []⟩
  , ⟨0x1003, 1, []⟩ ]

/-- Classes 2 and 3 (Tables 6-4, 9-1, 9-3, 16-10, 18-5). The MATMUL and VOP formats are judged with the operation. -/
def opTableCompute : List OpInfo :=
  [ ⟨0x2000, 4, [rng 32 4 0 1048576, rng 36 4 0 1048576, rng 40 4 0 1048576, formatAt 44, formatAt 45,
      among 46 1 [0x01, 0x02, 0x03, 0x04, 0x05, 0x06, 0x07], bitsRng 48 1 7 4 0 1, bitsRng 48 1 3 0 0 2, rng 49 1 0 3,
      .zeroBits 51 1 7 4, rng 52 2 0 255, rng 54 2 0 63, multiple 60 4 2048, multiple 64 4 2048, multiple 72 4 2048,
      .need 50 0 (fun p => fieldAt p 46 1 == 0x04 || fieldAt p 46 1 == 0x05 || fieldAt p 50 1 == 0),
      .need 76 0 (fun p => isMx (fieldAt p 44 1) || fieldAt p 76 4 == 0),
      .need 88 0 (fun p => isMx (fieldAt p 45 1) || fieldAt p 88 8 == 0),
      .need 104 0 (fun p => 2 ≤ fieldAt p 49 1 || fieldAt p 104 8 == 0), .zero 112 16]⟩
  , ⟨0x2001, 4, [rng 32 4 1 1024, rng 36 4 0 1048576, rng 40 4 0 1048576, formatAt 44, formatAt 45,
      among 46 1 [0x01, 0x02, 0x03, 0x04, 0x05, 0x06, 0x07], bitsRng 48 1 7 4 0 1, bitsRng 48 1 3 0 0 2, rng 49 1 0 3,
      bitsRng 51 1 0 0 0 0, .zeroBits 51 1 7 4, rng 52 2 0 255, rng 54 2 0 63, rng 56 4 0 0, multiple 60 4 2048,
      multiple 64 4 2048, rng 68 4 0 0, rng 72 4 0 0, rng 76 4 0 0, multiple 80 8 64, rng 88 8 0 0, rng 96 8 0 0,
      rng 104 8 0 0, .zero 112 16]⟩
  , ⟨0x2002, 4, [rng 44 4 0 4096, among 42 1 [0x04, 0x06], .zero 57 7, .zero 120 8]⟩
  , ⟨0x3000, 4, [.zeroBits 37 1 7 1, rng 38 2 0 255, rng 44 4 0 1048576, rng 48 4 0 1048576, rng 52 2 0 63, .zero 55 1,
      .zero 104 24]⟩
  , ⟨0x3001, 3, [rng 32 4 0 4096, rng 36 4 1 1048576, among 40 1 [0x01, 0x02, 0x03], .zeroBits 41 1 7 2, rng 42 2 0 1024,
      .need 48 0 (fun p => fp32Positive (fieldAt p 48 4)), .need 52 0 (fun p => fp32UnitTop (fieldAt p 52 4)), .zero 88 8]⟩
  , ⟨0x3002, 3, [rng 32 1 0 1,
      .need 33 0 (fun p => if fieldAt p 32 1 = 0 then 1 ≤ fieldAt p 33 1 && fieldAt p 33 1 ≤ 16 else fieldAt p 33 1 == 0),
      .need 34 0 (fun p => if fieldAt p 32 1 = 0 then fieldAt p 34 1 == 0 else fieldAt p 34 1 ≤ 3),
      .need 35 0 (fun p => if fieldAt p 32 1 = 0 then fieldAt p 35 1 == 0x19 || fieldAt p 35 1 == 0x01 else fieldAt p 35 1 == 0),
      .need 44 0 (fun p => fieldAt p 32 1 != 0 || (1 ≤ fieldAt p 44 4 && fieldAt p 44 4 ≤ 16777216)),
      .need 56 0 (fun p => fieldAt p 56 1 == 0 || tensorFormat (fieldAt p 56 1)), .zero 57 7,
      .need 64 0 (fun p => fieldAt p 56 1 != 0 || fieldAt p 64 8 == 0), .zero 76 20]⟩ ]

/-- Class 4 (Tables 11-2 to 11-4, R305). -/
def opTableMemory : List OpInfo :=
  [ ⟨0x4000, 2, [rng 32 4 1 65536, .zeroBits 36 1 7 1, .zero 37 3, multiple 40 8 64, .zero 48 16]⟩
  , ⟨0x4001, 2, [multiple 32 8 64, multiple 40 8 64, .zero 56 8]⟩
  , ⟨0x4002, 3, [rng 32 1 0 3, among 33 1 [0x11, 0x1A], .zero 34 2, rng 36 4 0 1048576,
      .need 48 0 (fun p => fieldAt p 48 8 % (8 * 2 ^ fieldAt p 32 1) == 0), .zero 72 24]⟩
  , ⟨0x4003, 3, [rng 32 1 0 3, among 33 1 [0x11, 0x1A], .zero 34 2, rng 36 4 0 1048576,
      .need 48 0 (fun p => fieldAt p 48 8 % (8 * 2 ^ fieldAt p 32 1) == 0), .zero 72 24]⟩
  , ⟨0x4004, 2, [rng 32 1 0 4, rng 33 1 0 2, .zero 34 2, rng 36 4 1 1048576, multiple 40 8 64, .zero 56 8]⟩ ]

/-- Class 5 (Tables 15-1 to 15-6, R419, R421). -/
def opTableCollective : List OpInfo :=
  [ ⟨0x5000, 4, collectiveChecks false ++ [formatAt 48, .need 48 0 (fun p => fieldAt p 48 1 != 0x0C && fieldAt p 48 1 != 0x1A),
      .need 49 0 (fun p => fieldAt p 49 1 == fieldAt p 48 1 || [0x01, 0x02, 0x03].contains (fieldAt p 49 1)), .zero 50 2,
      .need 56 0 (fun p => 1 ≤ fieldAt p 56 8 && fieldAt p 56 8 ≤ 2 ^ 32 && (!isMx (fieldAt p 48 1) || fieldAt p 56 8 % 32 == 0)),
      .zero 80 48]⟩
  , ⟨0x5001, 4, collectiveChecks true ++ [among 48 1 [0x18, 0x19], rng 49 1 0 3,
      .need 50 0 (fun p => bitOf (fieldAt p 33 1) 1 || fieldAt p 50 2 == 0), rng 50 2 0 255,
      .need 52 0 (fun p => bitOf (fieldAt p 33 1) 1 || fieldAt p 52 2 == 0), rng 52 2 0 63,
      .need 54 0 (fun p => if fieldAt p 49 1 = 3 then 1 ≤ fieldAt p 54 2 && fieldAt p 54 2 ≤ 16 else fieldAt p 54 2 == 0),
      rng 56 4 1 16777216, multiple 64 8 64, .need 72 0 (fun p => fieldAt p 49 1 != 3 || fieldAt p 72 8 == 0), .zero 88 40]⟩
  , ⟨0x5002, 3, collectiveChecks false ++ [rng 48 4 0 1048576, rng 52 4 0 4096, .zero 80 16]⟩
  , ⟨0x5003, 3, collectiveChecks false ++ [rng 48 1 0 1, .zero 49 7, rng 64 8 1 (2 ^ 32), .zero 72 24]⟩
  , ⟨0x5004, 3, collectiveChecks false ++ [rng 48 1 0 1, .zero 49 7, rng 64 8 1 (2 ^ 32), .zero 72 24]⟩
  , ⟨0x5005, 2, collectiveChecks false ++ [rng 48 1 0 1, rng 50 1 0 1,
      .need 51 0 (fun p => if fieldAt p 50 1 = 0 then fieldAt p 51 1 ≤ 1 else fieldAt p 51 1 == 0),
      .need 52 0 (fun p => if fieldAt p 50 1 = 0 then fieldAt p 52 2 == 0 else fieldAt p 52 2 ≤ 255),
      .need 54 0 (fun p => if fieldAt p 48 1 = 0 then fieldAt p 54 2 ≤ 63 else fieldAt p 54 2 == 0), .zero 56 8]⟩ ]

/-- Classes 6 to 8 (Tables 13-2, 13-6, 16-1, 16-7, 16-12, 17-1, 19-3, 19-4, 19-10, and the opcodes' own rules). -/
def opTableService : List OpInfo :=
  [ ⟨0x6000, 4, [rng 32 1 0 7, rng 33 1 0 63, .need 34 0 (fun p => fieldAt p 34 1 ≤ 63 || fieldAt p 34 1 == 0xFF),
      among 35 1 [0x04, 0x06], rng 36 2 1 4096, .need 38 0 (fun p => 512 ≤ fieldAt p 38 2 || fieldAt p 38 2 == 0),
      rng 40 1 1 255, rng 41 1 1 255, rng 42 1 1 255, rng 43 1 1 255, rng 44 2 0 4096, .zeroBits 46 1 7 1, .zero 47 1,
      rng 48 4 1 16384, rng 52 4 2 1048576, .need 72 0 (fun p => fieldAt p 34 1 != 0xFF || fieldAt p 72 8 == 0),
      multiple 80 8 0x8000, rng 88 4 1 (2 ^ 30), rng 92 4 1 (2 ^ 24), multiple 96 8 64, .zero 104 24]⟩
  , ⟨0x6001, 2, [rng 32 1 0 7, rng 33 1 0 1, .zero 34 30]⟩
  , ⟨0x6002, 4, [rng 32 1 0 7, rng 33 1 0 3, rng 34 1 0 63, .zeroBits 35 1 7 4, rng 44 4 1 0xFFFFFFFF, rng 48 4 1 0xFFFFFFFF,
      .zero 63 1, placeAt 72, placeAt 80, multiple 80 8 64, .zero 96 32] ++ samplingChecks 52 56 60 62⟩
  , ⟨0x6003, 4, [rng 32 1 0 7, rng 33 1 0 63, .zeroBits 34 1 7 4, rng 35 1 1 64, rng 36 4 1 65536, rng 40 4 1 0xFFFFFFFF,
      .zero 55 1, placeAt 72, placeAt 80, multiple 80 8 64, multiple 88 8 64,
      .need 88 0 (fun p => 128 + 8 * fieldAt p 40 4 ≤ fieldAt p 88 8), .zero 96 32] ++ samplingChecks 44 48 52 54⟩
  , ⟨0x6004, 2, [rng 32 1 0 7, .zero 33 7, .zero 48 16]⟩
  , ⟨0x6005, 3, [rng 32 1 0 63, rng 33 1 0 4,
      .need 35 0 (fun p => if fieldAt p 33 1 = 1 then fieldAt p 35 1 ≤ 7 else if fieldAt p 33 1 = 4 then fieldAt p 35 1 ≤ 3 else fieldAt p 35 1 == 0),
      .need 36 0 (fun p => if fieldAt p 33 1 = 1 then fieldAt p 36 1 ≤ 63 else fieldAt p 36 1 == 0), .zero 37 3,
      rng 40 4 1 0xFFFFFFFF, .zero 44 4, .need 48 0 (fun p => fieldAt p 48 8 % 0x8000 == 0 && 0x8000 ≤ fieldAt p 48 8),
      multiple 56 8 0x8000, .zero 72 24]⟩
  , ⟨0x6006, 2, [rng 32 1 0 63, rng 33 1 0 2, .zero 34 30]⟩
  , ⟨0x6007, 3, [.need 32 0 (fun p => fieldAt p 32 2 ≤ 1023 || fieldAt p 32 2 == 0xFFFF), rng 34 1 0 63, rng 35 1 0 3, rng 36 2 1 256,
      .need 39 0 (fun p => if fieldAt p 35 1 = 1 then fieldAt p 39 1 ≤ 7 else fieldAt p 39 1 == 0),
      rng 40 4 1 0xFFFFFFFF, rng 44 4 1 0xFFFFFFFF, finiteAt 48,
      .need 52 0 (fun p => if fieldAt p 35 1 = 1 then fieldAt p 52 2 ≤ 1023 else fieldAt p 52 2 == 0), rng 54 2 1 1024,
      multiple 56 8 0x8000, multiple 64 8 0x8000, .zero 80 16]⟩
  , ⟨0x6008, 2, [.zero 36 28]⟩
  , ⟨0x6009, 4, [rng 32 1 0 1, rng 33 1 0 63, .need 33 0 (fun p => fieldAt p 32 1 = 0 || fieldAt p 33 1 == 0), rng 36 4 1 1048576,
      .need 48 0 (fun p => fieldAt p 32 1 = 0 || fieldAt p 48 8 == 0), .need 56 0 (fun p => fieldAt p 32 1 != 0 || fieldAt p 56 8 % 0x8000 == 0),
      .zero 72 56]⟩
  , ⟨0x7000, 4, [rng 32 1 0 3, rng 33 1 0 7, .need 34 0 (fun p => fieldAt p 34 1 ≤ 4 || fieldAt p 34 1 == 0xFF), .zeroBits 35 1 7 2,
      .need 36 0 (fun p => 4 ≤ fieldAt p 36 4 && fieldAt p 36 4 ≤ 65536 && fieldAt p 36 4 % 4 == 0), rng 40 4 1 65536,
      rng 52 4 1 0xFFFFFFFF, rng 56 1 1 4, rng 57 1 0 15, rng 58 1 0 8, .zero 59 1, rng 60 2 0 255, rng 62 2 0 63,
      .need 64 0 (fun p => fp32UnitBottom (fieldAt p 64 4)), .zero 70 2, multiple 88 8 0x8000, multiple 112 8 0x8000]⟩
  , ⟨0x7001, 2, [rng 32 1 0 3, rng 33 1 0 1, .zero 34 30]⟩
  , ⟨0x7002, 2, [rng 32 1 1 16, .zero 33 7, placeAt 40, multiple 40 8 64, .zero 56 8]⟩
  , ⟨0x7003, 2, [rng 32 1 1 16, .zeroBits 33 1 7 1, .zero 34 6, placeAt 40, .zero 48 16]⟩
  , ⟨0x8000, 4, [rng 32 1 0 1, rng 33 1 0 7, .need 34 0 (fun p => fieldAt p 34 1 ≤ 3 || fieldAt p 34 1 == 0xFF), rng 35 1 0 1, rng 36 1 0 15,
      rng 37 1 0 63, .need 37 0 (fun p => fieldAt p 32 1 = 0 || fieldAt p 37 1 == 0),
      .need 38 0 (fun p => fieldAt p 38 1 ≤ 7 || fieldAt p 38 1 == 0xFF), .zeroBits 39 1 7 2, rng 40 4 1 0xFFFFFFFF,
      .need 44 0 (fun p => fieldAt p 34 1 == 0xFF || fieldAt p 44 4 == 0),
      .need 48 0 (fun p => if fieldAt p 35 1 = 0 then fieldAt p 48 2 != 0 else fieldAt p 48 2 == 0),
      .need 50 0 (fun p => if fieldAt p 52 4 = 0 then fieldAt p 50 2 == 0 else fieldAt p 50 2 != 0), rng 52 4 0 1048576,
      .zero 105 1, rng 106 2 0 4096, .zero 108 4, .zero 120 8]⟩
  , ⟨0x8001, 2, [rng 32 1 0 2,
      .need 33 0 (fun p => if fieldAt p 32 1 = 0 then fieldAt p 33 1 ≤ 7 else if fieldAt p 32 1 = 1 then fieldAt p 33 1 ≤ 3 else true),
      rng 34 1 0 3, .need 35 0 (fun p => if fieldAt p 34 1 = 2 then fieldAt p 35 1 != 0 else fieldAt p 35 1 == 0), .zero 36 28]⟩ ]

/-- Classes 9 and 10 (R269, R572, R573, R591, R592, R596). -/
def opTableSystem : List OpInfo :=
  [ ⟨0x9000, 2, [rng 32 1 0 6, .zero 33 7, placeAt 40, multiple 40 8 64,
      .need 40 0 (fun p => fieldAt p 32 1 != 5 || fieldAt p 40 8 == 0), .zero 48 16]⟩
  , ⟨0x9001, 2, [.zero 32 8, placeAt 40, .zero 48 16]⟩
  , ⟨0x9002, 1, []⟩
  , ⟨0xA000, 2, [.zero 44 4, .zero 56 8]⟩
  , ⟨0xA001, 2, [rng 32 1 0 2, .zero 33 3, rng 36 4 0 1024, .zero 48 16]⟩
  , ⟨0xA002, 2, [.need 32 0 (fun p => (1 ≤ fieldAt p 32 1 && fieldAt p 32 1 ≤ 8) || (0x10 ≤ fieldAt p 32 1 && fieldAt p 32 1 ≤ 0x2F)), .zero 33 31]⟩ ]

/-- Every opcode of revision 1.0 (R122). -/
def opcodes : List OpInfo :=
  opTable ++ opTableCompute ++ opTableMemory ++ opTableCollective ++ opTableService ++ opTableSystem

/-- The entry of an opcode; none for a reserved value (R11). -/
def opInfo (op : Nat) : Option OpInfo := opcodes.find? fun o => o.opcode == op

/-- Check 8: LENGTH suits the opcode. STAGE takes the smallest LENGTH that holds 8 + 16 × COUNT bytes of parameters (R131). -/
def lengthSuits (o : OpInfo) (p : List Byte) : Bool :=
  if o.length = 0 then fieldAt p 2 1 == 1 + (8 + 16 * fieldAt p 34 1 + 31) / 32 else fieldAt p 2 1 == o.length

/-- The feature bit of word 0 that an opcode needs (R127). -/
def featureOf (op : Nat) : Option Nat :=
  if 6 ≤ op / 0x1000 && op / 0x1000 ≤ 8 then some 2
  else if op = 0xA000 || op = 0xA001 then some 3
  else none

/-- Opcodes a VF may issue (R122). -/
def vfMay (op : Nat) : Bool :=
  op == 0x0000 || op == 0x0003 || op == 0x0004 || (2 ≤ op / 0x1000 && op / 0x1000 ≤ 7 && op != 0x6005 && op != 0x6006)

/-- Opcodes accepted from PF0 in a life-cycle state, by its code (R560, Table 21-3). -/
def pf0May (state op : Nat) : Bool :=
  let c := op / 0x1000
  if state = 0x2 then true
  else if state = 0x0 || state = 0x4 then c == 0 || c == 9 || c == 10
  else if state = 0x1 || state = 0x3 then c ≤ 5 || c == 9 || c == 10
  else op == 0x0000 || op == 0x0004

end Sys2Proof.Machine
end

