-- ==== Sys2Proof/Machine/Recording.lean ====
section
/-! DEFINITION. The logbook's recording (R589, R590): entries in sequence, the recording buffers of the hubs, gaps and
backpressure. Entries reach the region, and are replayed, in Machine/Logbook.lean. The bodies of DECISION and SET entries, whose
fields the spec names without places, are laid out as notes/assumptions/23.md says. -/

namespace Sys2Proof.Machine

open Sys2Proof

/-- LOGBOOK_CFG. -/
def State.bookHostData (s : State) : Bool := (s.regNat (blkLogbook + 0x18)).testBit 0
def State.bookBackpressure (s : State) : Bool := (s.regNat (blkLogbook + 0x18)).testBit 1
def State.bookWrap (s : State) : Bool := (s.regNat (blkLogbook + 0x18)).testBit 2

def State.recording (s : State) : Bool := s.logbook.state == .recording

/-- The bytes an entry takes: a 32-byte header and its body, padded to a multiple of 64. -/
def entrySize (body : Nat) : Nat := (32 + body + 63) / 64 * 64

/-- The size of one recording buffer. -/
def bufferBytes : Nat := 0x1000000

/-- The bytes that wait in a hub's buffer. -/
def Logbook.waiting (b : Logbook) (hub : Nat) : Nat :=
  ((b.buffer.filter fun e => e.1 == hub).map fun e => entrySize e.2.body.length).sum

/-- Is there room for an entry of so many body bytes? -/
def Logbook.room (b : Logbook) (hub body : Nat) : Bool := decide (b.waiting hub + entrySize body ≤ bufferBytes)

/-- Work that would be recorded waits for buffer space (R590). -/
def State.bookHolds (s : State) (hub body : Nat) : Bool := s.recording && s.bookBackpressure && !s.logbook.room hub body

/-- An entry joins a hub's buffer and takes the next INDEX. -/
def Logbook.append (b : Logbook) (hub kind source epoch fp : Nat) (body : List Byte) : Logbook :=
  { b with buffer := b.buffer ++ [(hub, ⟨kind, source, b.next, epoch, fp, body⟩)], next := b.next + 1 }

/-- Records an entry. One that finds its buffer full is lost, and a GAP with the count of those lost goes before the next. -/
def State.recordAs (s : State) (hub kind source fp : Nat) (body : List Byte) : State :=
  if !s.recording then s
  else
    let b := s.logbook
    let gone := (lookup hub b.lost).getD 0
    let e := s.spine.epoch.toNat
    if !b.room hub body.length || (gone ≠ 0 && !b.room hub (body.length + 64)) then
      { s with logbook := { b with lost := insert hub (gone + 1) b.lost } }
    else if gone = 0 then { s with logbook := b.append hub kind source e fp body }
    else
      let g := leBytes 8 gone
      { s with logbook :=
        { (b.append hub 10 0 e (crc64 g) g).append hub kind source e fp body with lost := erase hub b.lost, gap := true } }

def State.record (s : State) (hub kind source : Nat) (body : List Byte) : State := s.recordAs hub kind source (crc64 body) body

/-- The hub whose keepers serve a queue (R105), and the hub of a port (Table 1-2). -/
def queueHub (q : Nat) : Nat := if q = 0 then 0 else q % 16 / 8
def portHub (p : Nat) : Nat := p / 4

/-- HOST_DATA: host bytes that were read, with their fingerprint. -/
def State.recordHostRead (s : State) (q a : Nat) (bs : List Byte) : State :=
  s.recordAs (queueHub q) 4 q (crc64 bs) (leBytes 8 a ++ leBytes 8 bs.length ++ (if s.bookHostData then bs else []))

/-- DECISION: a choice that depends on timing, of the service opened from a queue. -/
def State.recordDecision (s : State) (q : Nat) (body : List Byte) : State := s.record (queueHub q) 8 q body

/-- SET: a set or adapter that becomes RESIDENT or LIVE. -/
def State.recordSet (s : State) (adapter : Bool) (slot version fp : Nat) : State :=
  s.record 0 9 0 (leBytes 2 slot ++ leBytes 2 (bit adapter) ++ leBytes 4 version ++ leBytes 8 fp)

end Sys2Proof.Machine
end

