-- ==== Sys2Proof/Machine/Address.lean ====
section
/-! DEFINITION. Which addresses a command may name: the address map (R270), bank and berth ownership (R250, R251, R517), the
weight region and its sets (R342), the source ranges of sets (R340). -/

namespace Sys2Proof.Machine

open Sys2Proof

/-! ## What a berth holds (R515), in the epoch an operation carries -/

def State.berthPaves (s : State) (epoch b : Nat) : Nat := s.lkWord epoch (berthCfg b + 4)
def State.berthVes (s : State) (epoch b : Nat) : Nat := s.lkWord epoch (berthCfg b + 8)


/-- Do two ranges overlap? -/
def overlaps (a n b m : Nat) : Bool := decide (a < b + m) && decide (b < a + n)

/-- The stack range of BERTH_STACK: start and length. -/
def stackRange (w : Nat) : Nat × Nat := if w.testBit 63 then (field w 39 30 * 2 ^ 30, field w 50 40 * 2 ^ 30) else (0, 0)

/-- The reach range of BERTH_REACH. -/
def reachRange (w : Nat) : Nat × Nat := if w.testBit 63 then (field w 47 30 * 2 ^ 30, field w 59 49 * 2 ^ 30) else (0, 0)

def State.berthStack (s : State) (epoch b : Nat) : Nat × Nat := stackRange (s.lk64 epoch (berthCfg b + 0x10))
def State.berthReach (s : State) (epoch b : Nat) : Nat × Nat := reachRange (s.lk64 epoch (berthCfg b + 0x18))

/-- The weight region: start and length (WEIGHT_REGION). -/
def State.weightRegion (s : State) : Nat × Nat :=
  let w := s.lkWord s.acting.epoch (blkDevice + 0x810)
  (field w 9 0 * 2 ^ 30, field w 26 16 * 2 ^ 30)

/-! ## Sets and adapters by address -/

/-- The set slot whose range holds [a, a + n). -/
def State.setAt (s : State) (a n : Nat) : Option (Nat × WeightSet) := s.sets.find? fun k => within a n k.2.base k.2.bytes

/-- The adapter slot whose range holds [a, a + n). -/
def State.adapterAt (s : State) (a n : Nat) : Option (Nat × Adapter) := s.adapters.find? fun k => within a n k.2.base k.2.bytes

/-- May a berth read this range of the weight region (R342)? The refusal, or none. Adapter ranges are judged as set ranges are
(notes/assumptions/13.md). -/
def State.weightReadFails (s : State) (b a n : Nat) : Option Nat :=
  match s.setAt a n with
  | some (_, w) =>
    if !w.access.testBit b then some stBerthOwnership
    else if w.state = 2 || w.state = 4 then none
    else if w.state = 3 then some stWeightsDamaged
    else some stBerthOwnership
  | none =>
    match s.adapterAt a n with
    | some (_, d) =>
      if !d.access.testBit b then some stBerthOwnership
      else if d.state = 2 || d.state = 3 then none
      else if d.state = 4 then some stWeightsDamaged
      else some stBerthOwnership
    | none => some stBerthOwnership

/-- The number of devices on the ring of an axis (TORUS_AXIS, LENGTH). -/
def State.ringLength (s : State) (axis : Nat) : Nat := field (s.lkWord s.acting.epoch (blkDevice + 0xB00 + 4 * axis)) 14 8

/-- The bytes of a set's source range in the reach: the whole image, or this device's shard (R336, R341). -/
def State.sourceLen (s : State) (w : WeightSet) : Nat :=
  if w.source = 0 then w.bytes else if w.source = 4 then w.bytes / max 1 (s.ringLength w.link) else 0

/-- Would a write change the source range of a loading or resident set (R340)? -/
def State.inSource (s : State) (a n : Nat) : Bool :=
  s.sets.any fun k => (k.2.state == 1 || k.2.state == 2) && decide (0 < s.sourceLen k.2)
    && overlaps a n k.2.sourceAddr (s.sourceLen k.2)

/-- Does a range meet the page pool or the span records of an open serving service (R428)? -/
def State.inPool (s : State) (a n : Nat) : Bool :=
  s.serving.any fun k => k.2.opened && (overlaps a n k.2.kvBase (k.2.kvPages * k.2.stride)
    || overlaps a n k.2.spanAddr (k.2.spans * k.2.recBytes))

/-- Does a range meet a retained contribution (R418), or a range that an open training service keeps (R466, R492)? -/
def State.guarded (s : State) (a n : Nat) : Bool :=
  (s.groups.any fun g => g.2.retained.any fun r => overlaps a n r.addr r.bytes)
    || s.trains.any fun t => t.2.opened && t.2.guards.any fun r => overlaps a n r.1 r.2

/-! ## The judgement of one named range -/

/-- What an operand accepts beyond stacks, basin and banks: the reach (Table 11-1), a write through a set or clear view (R257). -/
structure Accept where
  reach : Bool := false
  mask : Bool := false
  deriving DecidableEq, Repr

/-- Do the first and the last byte of a range lie in one region, and in one bank and view of it? -/
def State.oneRegion (s : State) (a n : Nat) : Bool :=
  let e := a + n - 1
  s.regionOf a == s.regionOf e
    && (match bankPlace a, bankPlace e with
        | some p, some q => p.die == q.die && p.view == q.view && p.bank == q.bank
        | none, none => true
        | _, _ => false)

/-- The unit of a bank's owner belongs to the berth. -/
def State.unitInBerth (s : State) (epoch b u : Nat) : Bool :=
  if u < 0x10 then (s.berthPaves epoch b).testBit (u - 1) else (s.berthVes epoch b).testBit (u - 0x10)

/-- Judges a range that a command of a berth names: the refusal, or none (R250, R251, R257, R270, R278,
R280, R340, R342, R418, R428, R466, R517). A range of no
bytes is judged by its address (R169). -/
def State.rangeFails (s : State) (epoch b a n : Nat) (write : Bool) (k : Accept := {}) : Option Nat :=
  let len := n
  let n := max n 1
  if !s.oneRegion a n then some stOutOfRange
  else
    match s.regionOf a with
    | .reserved => some stOutOfRange
    | .stack =>
      let r := s.berthStack epoch b
      let w := s.weightRegion
      if within a n r.1 r.2 then (if write && (s.inPool a n || s.guarded a n) then some stResourceInUse else none)
      else if within a n w.1 w.2 then (if write then some stBerthOwnership else s.weightReadFails b a n)
      else some stBerthOwnership
    | .basin =>
      if !s.scratchpad epoch (a - basinBase) n then some stOutOfRange
      else if !s.scratchpadOf epoch (a - basinBase) n b then some stBerthOwnership
      else if write && s.guarded a n then some stResourceInUse
      else none
    | .bank =>
      match bankPlace a with
      | none => some stOutOfRange
      | some p =>
        match bankOwner p.die p.bank.index with
        | none => some stOutOfRange
        | some u =>
          if write && p.view != .plain && !k.mask then some stOutOfRange else
          if !s.unitInBerth epoch b u then some stBerthOwnership
          else if s.power.gated.testBit p.die then some stUnitFenced
          else none
    | .socket _ | .stripe =>
      if !k.reach || a % 64 ≠ 0 || len % 64 ≠ 0 then some stOutOfRange
      else
        let r := s.berthReach epoch b
        if !within a n r.1 r.2 then some stBerthOwnership
        else if write && (s.inSource a n || s.guarded a n) then some stResourceInUse
        else none

/-- The judgement of a range for an accepted command. -/
def State.rangeOf (s : State) (c : Cmd) (a n : Nat) (write : Bool) (k : Accept := {}) : Option Nat :=
  s.rangeFails c.epoch c.berth a n write k

/-! ## Refusals in order -/

/-- LOGBOOK_REGION (R588). -/
def bookRegionWord : Nat := blkLogbook + 0x10

/-- The range of LOGBOOK_REGION. -/
def State.bookRegion (s : State) : Nat × Nat :=
  let w := s.reg64 bookRegionWord
  if w.testBit 63 then (field w 47 30 * 2 ^ 30, field w 56 48 * 2 ^ 30) else (0, 0)

/-- One thing a command may be refused for: the status and the DETAIL of a class 1 status. -/
structure Refuse where
  status : Nat
  detail : Nat := 0
  result1 : Nat := 0
  deriving DecidableEq, Repr

/-- A refusal where a condition holds. -/
def refuseIf (p : Bool) (status : Nat) (detail : Nat := 0) : Option Refuse := if p then some { status, detail } else none

/-- A refusal carrying a range's judgement: DETAIL names the field for a class 1 status. -/
def refuseRange (r : Option Nat) (detail : Nat) : Option Refuse :=
  r.map fun st => { status := st, detail := if classOf st = 1 then detail else 0 }

/-- The lower of two class 1 refusals (R123). -/
def Refuse.lower (a b : Refuse) : Refuse := if b.detail < a.detail then b else a

/-- The refusal that decides: a class 1 status at the lowest offending byte (check 10), else BERTH_OWNERSHIP (check 11), else
the first in the order given (Table 4-6). -/
def theRefusal (rs : List (Option Refuse)) : Option Refuse :=
  let all := rs.filterMap id
  match all.filter fun r => classOf r.status == 1 with
  | r :: more => some (more.foldl Refuse.lower r)
  | [] =>
    match all.find? fun r => r.status == stBerthOwnership with
    | some r => some r
    | none => all.head?

end Sys2Proof.Machine
end

