-- ==== Sys2Proof/Machine/Start.lean ====
section
/-! DEFINITION. When a command may start (R114, R142, R260, R283, R312), and its start: the effect runs on the accepted command, under the
settings of its epoch. -/

namespace Sys2Proof.Machine

open Sys2Proof

/-! ## Fences (R114) -/

/-- A fence or an earlier command's fence holds this command back (R114): it has FENCE_BEFORE and an earlier command of its
queue is in flight, or an earlier command of its queue with FENCE_AFTER is in flight. -/
def fenceHolds (earlier : List Cmd) (c : Cmd) : Bool :=
  let mine := earlier.filter fun d => d.queue == c.queue
  (c.flags.testBit 0 && !mine.isEmpty) || mine.any fun d => d.flags.testBit 1

/-- The commands fetched before the one a reference names. -/
def State.earlier (s : State) (r : CmdRef) : List Cmd := s.inflight.takeWhile fun c => !c.is r.queue r.tag

/-! ## What a command needs (R142) -/

/-- The first address and size of each bank of a pavé or engine. -/
def unitBanks (u : Nat) : List (Nat × Nat) :=
  let d := unitDie u
  (bankRanges.filter fun b => bankOwner d b.index == some u).map fun b => (bankBase + d * 0x80000000 + b.lo, b.size)

/-- Do two needs name a common byte, unit or slot? A unit goes with its banks. -/
def Need.meets : Need → Need → Bool
  | .range a n, .range b m => overlaps a n b m
  | .range a n, .unit u => (unitBanks u).any fun k => overlaps a n k.1 k.2
  | .unit u, .range a n => (unitBanks u).any fun k => overlaps a n k.1 k.2
  | x, y => x == y

/-- Does a berth hold what a need names, by the settings of an epoch? The weight region is no berth's. -/
def State.holds (s : State) (epoch b : Nat) : Need → Bool
  | .range a n =>
    let x := s.berthStack epoch b
    let y := s.berthReach epoch b
    if inBasin a then s.scratchpadOf epoch (a - basinBase) n b
    else
      match bankPlace a with
      | some p => (match bankOwner p.die p.bank.index with | some u => s.unitInBerth epoch b u | none => false)
      | none => within a n x.1 x.2 || within a n y.1 y.2
  | .unit u => s.unitInBerth epoch b u
  | .group g => let w := s.lkWord epoch (blkKeeper + 0x2010 + 4 * g); w.testBit 31 && field w 26 24 == b
  | .assay n =>
    let w := s.lkWord epoch (blkKeeper + 0x3F00 + 4 * (n / 4))
    w.testBit (8 * (n % 4) + 7) && field w (8 * (n % 4) + 2) (8 * (n % 4)) == b
  | .history h => let w := s.lkWord epoch (histBase h); w.testBit 28 && field w 31 29 == b
  | .context x => let w := s.lkWord epoch (ctxBase x); w.testBit 31 && field w 30 28 == b

/-- A command in flight that has been accepted and has not finished. -/
def Cmd.working (c : Cmd) : Bool := c.stage != .done && c.stage != .waiting

/-- A commit moved what a need names to a berth, and an operation of an older epoch has not left it (R142). -/
def State.moving (s : State) (epoch berth : Nat) (x : Need) : Bool :=
  s.holds epoch berth x && s.inflight.any fun d =>
    d.working && d.epoch != epoch && d.berth != berth && !s.holds d.epoch berth x && d.needs.any x.meets

/-- A unit whose banks have still to be cleared is named, or one of those banks (R260). -/
def State.clearing (s : State) (x : Need) : Bool := s.clears.any fun u => x.meets (.unit u)

/-- A basin segment in change is named (R283). -/
def State.changing (s : State) : Need → Bool
  | .range a n => s.segChanges.any fun k => overlaps a n (basinBase + k.hub * 0x18000000 + k.seg * 0x01000000) 0x01000000
  | _ => false

/-- A controller whose interface retrains holds every request (R312): is one of its addresses named? -/
def State.retrains (s : State) : Need → Bool
  | .range a n =>
    s.retraining.any fun c => (s.physRuns a n).any fun r =>
      match physSocket r.1 with
      | some k => c == 16 + k
      | none => decide (r.1 < stackBytes s.spine.variant) &&
          (List.range (min 17 (r.2 / 2048 + 2))).any fun i => stackOf s.spine.variant (min (r.1 + i * 2048) (r.1 + r.2 - 1)) == c
  | _ => false

/-- Must an operation of an epoch and a berth wait for something it needs? One of an older epoch goes on with what a commit moves. -/
def State.withheldFrom (s : State) (epoch berth : Nat) (x : Need) : Bool :=
  s.retrains x || (epoch == s.spine.epoch.toNat && (s.moving epoch berth x || s.clearing x || s.changing x))

/-- The pavés and engines of a berth under the settings of an epoch, as a service's steps need them. -/
def State.berthUnits (s : State) (e b : Nat) : List Need :=
  ((bitsBelow 8 (s.berthPaves e b)).map fun u => .unit (1 + u)) ++ (bitsBelow 32 (s.berthVes e b)).map fun u => .unit (0x10 + u)

/-- Must a command wait for it? -/
def State.withheld (s : State) (c : Cmd) (x : Need) : Bool := s.withheldFrom c.epoch c.berth x

/-! ## The start -/

/-- May an accepted command start: it is ready, no fence holds it (R114), and nothing it needs is withheld (R142, R260, R283, R312)? -/
def State.mayStart (s : State) (c : Cmd) : Bool :=
  c.stage == .ready && !fenceHolds (s.earlier c.ref) c && !c.needs.any (s.withheld c)

/-- Starts an accepted command of an opcode: the effect runs on the accepted command under the settings of its epoch (R113, R140), if
it may start. Otherwise nothing happens. -/
def State.start (s : State) (opcode : Nat) (r : CmdRef) (f : Cmd → State → State) : State :=
  match s.cmd r with
  | none => s
  | some c => if c.opcode = opcode && s.mayStart c then f c (s.actAs c) else s

/-- Starts a command, or takes up one that started and waits for the rest of the device. -/
def State.startOrGoOn (s : State) (opcode : Nat) (r : CmdRef) (f : Cmd → State → State) : State :=
  match s.cmd r with
  | none => s
  | some c => if c.opcode = opcode && (c.stage == .running || s.mayStart c) then f c (s.actAs c) else s

end Sys2Proof.Machine
end

