-- ==== Sys2Proof/Machine/Queue.lean ====
section
/-! DEFINITION. Command packets and queues (chapter 4): fetch and the checks of Table 4-6, fences, completion, timeouts, doorbells,
queue fencing and reset, HELLO, and the queue commands NOP, QUEUE_CREATE, QUEUE_DELETE and ABORT. -/

namespace Sys2Proof.Machine

open Sys2Proof

/-! ## Rings -/

/-- Does a ring base name PF0's basin scratchpad (R101)? -/
def basinRing (base : Nat) : Bool := base.testBit 63

/-- Reads bytes of a ring, and whether the read fails (R124). -/
def State.ringRead (s : State) (base off n : Nat) : List Byte × Bool :=
  if basinRing base then
    let a := basinBase + base % 2 ^ 63 + off
    (s.bytesAt a n, (s.readStatus a n).isSome)
  else (s.hostRead (base + off) n, s.hostFails (base + off) n)

/-- Writes bytes of a ring, and whether the write fails. -/
def State.ringWrite (s : State) (base off : Nat) (bs : List Byte) : State × Bool :=
  if basinRing base then
    let a := basinBase + base % 2 ^ 63 + off
    (s.writeMem a bs, (s.writeStatus a bs.length).isSome)
  else if s.hostFails (base + off) bs.length then (s, true)
  else (s.hostWrite (base + off) bs, false)

/-- The bytes of n slots from a slot, counted modulo the ring size (R102), and whether a read fails. -/
def State.slots (s : State) (q : Queue) (first n : Nat) : List Byte × Bool :=
  let size := 2 ^ q.sqLog2
  (List.range n).foldl (fun acc i =>
    let r := s.ringRead q.sqBase (((first + i) % size) * 32) 32
    (acc.1 ++ r.1, acc.2 || r.2)) ([], false)

/-- Slots posted and not fetched. -/
def Queue.posted (q : Queue) : Nat := (q.tail + 2 ^ q.sqLog2 - q.head) % 2 ^ q.sqLog2

/-- Replies the host has not consumed (R110). -/
def Queue.unconsumed (q : Queue) : Nat := (q.cqNext + 2 ^ q.cqLog2 - q.cqHead) % 2 ^ q.cqLog2

/-- The completion ring is full (R110). -/
def Queue.cqFull (q : Queue) : Bool := q.unconsumed == 2 ^ q.cqLog2 - 1

def State.updQueue (s : State) (n : Nat) (f : Queue → Queue) : State :=
  match lookup n s.queues with
  | some q => { s with queues := insert n (f q) s.queues }
  | none => s

/-- Commands of a queue in flight (R112). -/
def State.inflightOf (s : State) (n : Nat) : Nat := (s.inflight.filter fun c => c.queue == n).length

/-- The keeper that serves a queue (R105). -/
def keeperOf (q : Nat) : Nat := if q = 0 then 0 else q % 16

/-- The keeper that hosts a service opened from a queue (R105, R550). -/
def hostKeeperOf (q : Nat) : Nat := 8 + q % 8

/-! ## Fencing (R124) -/

/-- The times within the 1 s that ends now. -/
def State.recent (s : State) (span : Nat) (ts : List Nat) : List Nat := ts.filter fun t => decide (s.now < t + span)

/-- A queue enters FENCED: it fetches nothing, FENCED sets, and a record of cause 0x0005 is written. A cause that arises while it is
RESETTING ends the reset: R124 does not say, and this is the model's choice (notes/assumptions/50.md). -/
def State.fenceQueue (s : State) (n : Nat) : State :=
  match lookup n s.queues with
  | none => s
  | some q =>
    if q.status = .fenced then s
    else
      let s1 := s.updQueue n fun q => { q with status := .fenced, refusedAt := [], badAt := [] }
      (s1.raise (evQueue n) 3).logEvent { cause := 0x0005, cls := 2, queue := n, fn := q.fn }

/-- 64 class 1 refusals or 16 bad doorbells within any 1 s of local time. -/
def State.fenceDue (s : State) (q : Queue) : Bool :=
  64 ≤ (s.recent second q.refusedAt).length || 16 ≤ (s.recent second q.badAt).length

/-- A ring fetch or a reply write fails: HOST_FAULT sets and the queue enters FENCED at once. -/
def State.hostFault (s : State) (n : Nat) : State := (s.raise (evQueue n) 4).fenceQueue n

/-- A class 1 refusal: MALFORMED sets and cause 0x0003 is logged (R123). -/
def State.noteMalformed (s : State) (n fn tag : Nat) : State :=
  let s1 := s.updQueue n fun q => { q with refusedAt := s.now :: s.recent second q.refusedAt }
  (s1.raise (evQueue n) 1).logEvent { cause := 0x0003, cls := 0, queue := n, fn := fn, tag := tag }

/-- Refuses a command on its parameters: its reply reports no epoch, and a class 1 status sets MALFORMED (R123). -/
def State.refuse (s : State) (c : Cmd) (status : Nat) (detail : Nat := 0) (result1 : Nat := 0) : State :=
  let s1 := (s.finish c.ref { status := status, detail := detail, result1 := result1 }).updCmd c.ref fun d =>
    { d with epoch := 0, logged := d.logged || classOf status == 1 }
  if classOf status = 1 then s1.noteMalformed c.queue c.fn c.tag else s1

/-! ## Fetch and checks (R105, R109, R112, R123, Table 4-6) -/

/-- The agreed features of a function. -/
def State.agreed (s : State) (fn bit : Nat) : Bool :=
  match lookup fn s.hellos with
  | some h => h.features.testBit bit
  | none => false

/-- The life-cycle state: the last valid entry of the fuse log (R558); MANUFACTURE reads 0. -/
def State.lcState (s : State) : Nat := s.sec.fuseLog.getLast?.getD 0

/-- A command as fetched. -/
def fetched (n : Nat) (q : Queue) (p : List Byte) (now : Nat) : Cmd :=
  { queue := n, tag := fieldAt p 4 4, fn := q.fn, opcode := fieldAt p 0 2, flags := fieldAt p 3 1, berth := fieldAt p 14 1,
    epoch := 0, acceptedAt := now, deadline := none, packet := p, stage := .done, status := 0, detail := 0, result0 := 0,
    result1 := 0, logged := false, scale := none, assay := none, amax := none, bodies := [] }

/-- What the chapters know of a command: the class 1 refusals of its parameters beyond the static tables of Machine/Packets.lean, and
what it needs (R142). -/
structure Deep where
  fails : State → Cmd → Option Refuse
  needs : State → Cmd → List Need

/-- Check 10 as a whole: the failure at the lower byte (R123). -/
def State.paramFails (s : State) (deep : Deep) (o : OpInfo) (c : Cmd) : Option (Nat × Nat) :=
  match firstFail o.checks c.packet, deep.fails s c with
  | none, none => none
  | some f, none => some (f.status, f.byte)
  | none, some r => some (r.status, r.detail)
  | some f, some r => if r.detail < f.byte then some (r.status, r.detail) else some (f.status, f.byte)

/-- Check 7: the first offending byte of a packet that needs a feature its function has not agreed, the opcode's before CRC_PRESENT's
before the ring bases' bit 63 (R106, R127). -/
def State.notAgreed (s : State) (fn : Nat) (p : List Byte) : Option Nat :=
  let op := fieldAt p 0 2
  let basin := fun off => op = 0x0001 && basinRing (fieldAt p off 8) && !s.agreed (fieldAt p 33 1) 1
  if (match featureOf op with | some b => !s.agreed fn b | none => false) then some 0
  else if (fieldAt p 3 1).testBit 3 && !s.agreed fn 0 then some 3
  else if basin 40 then some 47
  else if basin 48 then some 55
  else none

/-- The checks of Table 4-6, 2 to 12, on a packet as fetched: the first failure with its DETAIL. -/
def State.packetFails (s : State) (deep : Deep) (n : Nat) (q : Queue) (p : List Byte) : Option (Nat × Nat) :=
  let op := fieldAt p 0 2
  let flags := fieldAt p 3 1
  let crcPresent := flags.testBit 3
  if fieldAt p 15 1 ≠ 0x01 then some (stBadHeader, 15)
  else if crcPresent && crc32c (putField p 20 4 0) ≠ fieldAt p 20 4 then some (stCrcMismatch, 20)
  else
    match firstFail ([.zeroBits 3 1 7 4, .zero 24 8] ++ (if crcPresent then [] else [.zero 20 4])) p with
    | some f => some (stReservedNonzero, f.byte)
    | none =>
      match opInfo op with
      | none => some (stUnknownOpcode, 0)
      | some o =>
        if (q.fn ≠ 0 && (!vfMay op || s.lcState ≠ 0x2)) || (q.fn = 0 && !pf0May s.lcState op) then some (stNotPermitted, 0)
        else if let some b := s.notAgreed q.fn p then some (stNotNegotiated, b)
        else if !lengthSuits o p then some (stBadLength, 2)
        else if (s.inflight.any fun c => c.is n (fieldAt p 4 4)) then some (stDuplicateTag, 4)
        else
          match s.paramFails deep o (fetched n q p s.now) with
          | some f => some f
          | none =>
            if !s.berthBound (fieldAt p 14 1) q.fn || (n ≠ 0 && fieldAt p 14 1 ≠ q.berth) then some (stBerthOwnership, 0)
            else if s.panel.hold && op / 0x1000 ≠ 0 && op / 0x1000 ≠ 10 && !(op = 0x1002 && s.chamber.state = .checked) then some (stHeldForService, 0)
            else none

/-- Checks 13 and 14, judged at the acceptance arbiter's grant (R125). -/
def State.acceptFails (s : State) (q : Queue) (p : List Byte) : Option Nat :=
  let e := fieldAt p 8 4
  let i := fieldAt p 12 2
  if e ≠ 0 && e ≠ s.spine.epoch.toNat then some stEpochMismatch
  else if i ≠ 0 && i ≠ s.funcInc q.fn then some stTargetRestarted
  else none

/-- A scope under quiesce stops the fetch of a queue bound to it; on queue 0, a command of the scope passes only in classes 0 and 10
(R553). -/
def State.quiesceStops (s : State) (n : Nat) (q : Queue) (op berth : Nat) : Bool :=
  if n = 0 then
    (s.power.quiesced || s.power.quiescedBerths.testBit berth) && op / 0x1000 ≠ 0 && op / 0x1000 ≠ 10
  else s.power.quiesced || s.power.quiescedBerths.testBit q.berth

/-- An accepted QUEUE_DELETE names the queue: it is not fetched from, and its page is not live (R107). -/
def State.deleting (s : State) (n : Nat) : Bool :=
  s.inflight.any fun c => c.opcode == 0x0002 && c.param 32 1 == n && (c.stage == .held || c.stage == .ready)

/-- A MARK waits for the commands before it: it holds the acceptance of later commands (R591). -/
def State.marking (s : State) : Bool := s.inflight.any fun c => c.opcode == 0xA001 && c.param 32 1 == 2 && c.epoch != 0

/-- The slots that a queue's next packet takes: 1 where its LENGTH is out of range, or cannot be read (Table 4-6). -/
def State.nextLength (s : State) (q : Queue) : Nat :=
  let first := s.slots q q.head 1
  let len := fieldAt first.1 2 1
  if first.2 || len = 0 || 16 < len then 1 else len

/-- May a queue's next packet be fetched: the queue is ACTIVE, the packet is posted whole, and nothing stops it (R105, R107, R109, R112,
R553)? -/
def State.fetchable (s : State) (n : Nat) (q : Queue) : Bool :=
  let head := (s.slots q q.head 1).1
  q.status = .active && q.posted != 0 && decide (s.nextLength q ≤ q.posted) && !s.deleting n && decide (s.inflightOf n < 1024)
    && !s.quiesceStops n q (fieldAt head 0 2) (fieldAt head 14 1)

/-- The round-robin of R105: a queue that has used up its WEIGHT in this round waits while another still has a turn; when
none has, a new round begins. -/
def State.roundTurn (s : State) (n : Nat) (q : Queue) : Option State :=
  if q.round < q.weight then some s
  else if s.queues.any fun k => k.1 != n && s.fetchable k.1 k.2 && decide (k.2.round < k.2.weight) then none
  else some { s with queues := s.queues.map fun k => (k.1, { k.2 with round := 0 }) }

/-- The head passes k slots, and the packet counts in the arbitration round. -/
def State.advanceHead (s : State) (n k : Nat) : State :=
  s.updQueue n fun q => { q with head := (q.head + k) % 2 ^ q.sqLog2, round := q.round + 1 }

def CollGroup.reset : CollGroup :=
  { lastSeq := 0, retained := [], aborts := [], relayed := [], votes := [], decided := none, latest := none }

/-- A collective is accepted: LAST_SEQ of its group is its SEQ (R399). -/
def State.noteAccepted (s : State) (c : Cmd) : State :=
  if c.opcode / 0x1000 = 5 then
    let g := (lookup (c.param 32 1) s.groups).getD .reset
    { s with groups := insert (c.param 32 1) { g with lastSeq := c.param 40 4 } s.groups }
  else s

/-- An earlier COMMIT of the command's queue has not ended: the commands behind it wait with it, and are not accepted (R141). -/
def commitHolds (earlier : List Cmd) (c : Cmd) : Bool :=
  earlier.any fun d => d.queue == c.queue && d.opcode == 0x1002 && d.stage != .done

/-- The number of the command that an ABORT names, if it is in flight (R118). A COMMIT past its instant counts as not in flight (R139). -/
def State.aimOf (s : State) (c : Cmd) : Option Nat :=
  ((s.inflight.find? fun d => d.is (c.param 32 1) (c.param 36 4)).filter fun d =>
    !(d.opcode == 0x1002 && d.stage == .done && d.status == stSuccess)).map fun d => d.seq

/-- The LIVE slot of a NAME: LIVE, or DAMAGED while it was (R360). -/
def State.liveSlot (s : State) (name : Nat) : Option (Nat × Adapter) :=
  s.adapters.find? fun k => k.2.name == name && (k.2.state == 2 || (k.2.state == 4 && k.2.liveDamaged))

/-- What a command finds at its acceptance: the command that an ABORT names (R118), the LIVE slot of the adapter that an ADMIT names
(R356). -/
def State.aimAt (s : State) (c : Cmd) : Option Nat :=
  if c.opcode = 0x0003 then s.aimOf c
  else if c.opcode = 0x6002 && c.param 40 4 ≠ 0 then (s.liveSlot (c.param 40 4)).map Prod.fst
  else none

/-- A command as the acceptance arbiter grants it: the epoch and the incarnation in force, its deadline, the scale of its slot, and what
it needs (R113, R117, R142, R204). -/
def State.accepted (s : State) (deep : Deep) (c : Cmd) : Cmd :=
  let t := fieldAt c.packet 16 4
  let d : Cmd := { c with
    epoch := s.spine.epoch.toNat, acceptedAt := s.now, deadline := if t = 0 then none else some (s.now + 1000 * t),
    result0 := if c.opcode = 0x000A then s.unitInc (c.param 32 1) else 0, scale := s.scaleAtAcceptance c,
    aims := s.aimAt c }
  { d with needs := deep.needs s d }

/-- The grant of the acceptance arbiter (R113, R125): checks 13 and 14, and the command is accepted. -/
def State.grant (s : State) (deep : Deep) (r : CmdRef) : State :=
  match s.cmd r with
  | none => s
  | some c =>
    match lookup c.queue s.queues with
    | none => s
    | some q =>
      if c.stage ≠ .waiting || commitHolds (s.earlier r) c then s
      else
        match s.acceptFails q c.packet with
        | some st => s.updCmd r fun c => { c with stage := .done, status := st }
        | none =>
          let st := if fenceHolds (s.earlier r) c then Stage.held else Stage.ready
          ((s.updCmd r fun c => { s.accepted deep c with stage := st }).noteAccepted c).record (queueHub c.queue) 2 c.queue c.packet

/-- The commands that waited behind a COMMIT of a queue are granted once it has ended, in ring order. -/
def State.grantWaiting (s : State) (deep : Deep) (n : Nat) : State :=
  (s.inflight.filter fun c => c.queue == n && c.stage == .waiting).foldl (fun (t : State) c => t.grant deep c.ref) s

/-- A fetched command joins those in flight. -/
def State.join (s : State) (c : Cmd) : State :=
  { s with fetches := s.fetches + 1, inflight := s.inflight ++ [{ c with seq := s.fetches }] }

/-- Takes one packet from a queue whose turn it is. -/
def State.fetchFrom (s : State) (deep : Deep) (n : Nat) (q : Queue) : State :=
  let s := if basinRing q.sqBase then s.uncountedAccess else s
  let first := s.slots q q.head 1
  if first.2 then s.hostFault n
  else
    let len := fieldAt first.1 2 1
    if len = 0 || 16 < len then
      let c := { fetched n q first.1 s.now with status := stBadLength, detail := 2, logged := true }
      ((s.advanceHead n 1).join c).noteMalformed n q.fn c.tag
    else if q.posted < len then s
    else
      let all := s.slots q q.head len
      let p := all.1
      if all.2 then s.hostFault n
      else if s.quiesceStops n q (fieldAt p 0 2) (fieldAt p 14 1) || s.bookHolds (queueHub n) p.length then s
      else
        let s1 := s.advanceHead n len
        let c := fetched n q p s.now
        match s.packetFails deep n q p with
        | some (st, d) =>
          let malformed := classOf st == 1
          let s2 := s1.join { c with status := st, detail := if malformed then d else 0, logged := malformed }
          if malformed then s2.noteMalformed n q.fn c.tag else s2
        | none => (s1.join { c with stage := .waiting }).grant deep c.ref

/-- PACKET_FETCH (R105, R109, R112, R113, R123). -/
def State.fetch (s : State) (deep : Deep) (n : Nat) : State :=
  match lookup n s.queues with
  | none => s
  | some q =>
    if !s.fetchable n q || s.marking || 4096 ≤ s.inflight.length then s
    else
      match s.roundTurn n q with
      | none => s
      | some s1 =>
        match lookup n s1.queues with
        | some q1 => s1.fetchFrom deep n q1
        | none => s

/-! ## Fences, completion, timeouts (R110, R114, R115, R117, R118) -/

/-- A command held by a fence becomes ready once the fence clears. -/
def execFencedCommandStart (c : CmdRef) (now : Nat) (s : State) : Host.Outcome State Fault Refusal :=
  runs (fun s =>
    let s := s.at now
    match s.cmd c with
    | some d => if d.stage = .held && !fenceHolds (s.earlier c) d then s.updCmd c fun d => { d with stage := .ready } else s
    | none => s) s

/-- The 32-byte status reply (Table 4-3). -/
def State.reply (s : State) (c : Cmd) (q : Queue) : List Byte :=
  leBytes 4 c.tag ++ leBytes 2 q.head ++ leBytes 1 c.queue ++ leBytes 1 (2 * bit c.logged + bit q.phase)
  ++ leBytes 2 c.status ++ leBytes 2 c.detail ++ leBytes 4 c.epoch ++ leBytes 8 c.result0 ++ leBytes 4 c.result1
  ++ leBytes 2 (s.funcInc c.fn) ++ leBytes 2 0

/-- A reply, or a service's report, goes to a queue's completion ring; PHASE turns at the end of a pass (R104). -/
def State.postReply (s : State) (n : Nat) (q : Queue) (bs : List Byte) (interrupt : Bool) : State :=
  let w := s.ringWrite q.cqBase (q.cqNext * 32) bs
  if w.2 then w.1.hostFault n
  else
    let last := q.cqNext + 1 == 2 ^ q.cqLog2
    let s1 := w.1.updQueue n fun q =>
      { q with cqNext := if last then 0 else q.cqNext + 1, phase := if last then !q.phase else q.phase }
    if interrupt then s1.emit (.interrupt q.fn q.vector) else s1

/-- The 32 bytes of a report: the layout of a status reply (R435). -/
def State.reportBytes (s : State) (r : Report) (q : Queue) : List Byte :=
  leBytes 4 r.tag ++ leBytes 2 q.head ++ leBytes 1 r.queue ++ leBytes 1 (bit q.phase) ++ leBytes 2 r.status
  ++ leBytes 2 r.detail ++ leBytes 4 r.epoch ++ leBytes 8 r.result0 ++ leBytes 4 r.result1 ++ leBytes 2 (s.funcInc r.fn) ++ leBytes 2 0

/-- Writes the reports that wait, oldest first, while their rings have room, by fuel; one whose queue is deleted, or is no
longer its function's, is discarded. -/
def State.flushReports : Nat → State → State
  | 0, s => s
  | n + 1, s =>
    match s.reports.find? fun r => match lookup r.queue s.queues with | some q => !q.cqFull || q.fn != r.fn | none => true with
    | none => s
    | some r =>
      let t := { s with reports := s.reports.erase r }
      match lookup r.queue s.queues with
      | some q =>
        let bs := s.reportBytes r q
        let d := t.draw
        let t := if s.recording then d.2.recordAs (queueHub r.queue) 3 r.queue (Config.freeWord d.1 0) bs else t
        (if q.fn = r.fn then t.postReply r.queue q bs true else t).flushReports n
      | none => t.flushReports n

/-- A service reports: at once, or with CQ_STALL when the ring is full (R110). -/
def State.report (s : State) (r : Report) : State :=
  let t := ({ s with reports := s.reports ++ [r] }).flushReports (s.reports.length + 1)
  if t.reports.contains r then t.raise (evQueue r.queue) 2 else t

/-- A resetting queue whose last reply is written returns to its creation values (R111). -/
def State.resetQueueDone (s : State) (n : Nat) : State :=
  match lookup n s.queues with
  | some q =>
    if q.status = .resetting && s.inflightOf n == 0 then
      s.updQueue n fun q => { q with head := 0, tail := 0, cqHead := 0, cqNext := 0, phase := true, status := .active }
    else s
  | none => s

/-- Commands behind a fence are released as the commands before them complete. -/
def State.releaseFences (s : State) : State :=
  { s with inflight := (s.inflight.foldl (fun (acc : List Cmd × List Cmd) c =>
      let c1 := if c.stage = .held && !fenceHolds acc.1 c then { c with stage := Stage.ready } else c
      (acc.1 ++ [c], acc.2 ++ [c1])) ([], [])).2 }

/-- The oldest finished command of a reference: a command refused for its TAG has the reference of the one in flight (R120). -/
def State.doneCmd (s : State) (r : CmdRef) : Option Cmd := s.inflight.find? fun c => c.is r.queue r.tag && c.stage == .done

/-- Takes a finished command out of flight. -/
def State.dropCmd (s : State) (r : CmdRef) : State :=
  { s with inflight := s.inflight.eraseP fun c => c.is r.queue r.tag && c.stage == .done }

/-- The fingerprint of a command's outputs (R594): the reply without its EPOCH, the destination ranges in ascending address
order, the bodies of the messages it sent. -/
def outputPrint (reply outs bodies : List Byte) : Nat := crc64 (reply.take 12 ++ reply.drop 16 ++ outs ++ bodies)

/-- The bytes of a command's destination ranges, as the chapters give them, in ascending address order. -/
abbrev Outputs := State → Cmd → List Byte

/-- COMMAND_COMPLETION: a finished command's reply is written, or held with CQ_STALL while the ring is full. -/
def State.complete (outs : Outputs) (s : State) (r : CmdRef) : State :=
  match s.doneCmd r with
  | none => s
  | some c =>
    match lookup c.queue s.queues with
    | none => (s.dropCmd r).histSettle
    | some q =>
      if q.cqFull then s.raise (evQueue c.queue) 2
      else
        let reply := s.reply c q
        let s0 := if s.recording then s.recordAs (queueHub c.queue) 3 c.queue (outputPrint reply (outs s c) c.bodies) reply else s
        let s1 := ((s0.addCounts c).postReply c.queue q reply (!c.flags.testBit 2)).dropCmd r
        ((s1.histSettle).releaseFences).resetQueueDone c.queue

/-! ## Doorbells (R108, R110, R111) -/

/-- Is the QUEUE_CREATE that made a queue not completed, its reply being still to be written (R106)? -/
def State.creating (s : State) (n : Nat) : Bool :=
  s.inflight.any fun c => c.opcode == 0x0001 && c.param 32 1 == n && c.stage == .done && c.status == stSuccess

/-- Is the doorbell page of a queue live in a function (R73, R106, R107)? -/
def State.pageLive (s : State) (fn n : Nat) : Option Queue :=
  match lookup n s.queues with
  | some q => if q.fn = fn && !s.deleting n && !s.creating n then some q else none
  | none => none

/-- A bad doorbell: the register keeps its value, BAD_DOORBELL sets, cause 0x0004 is logged. -/
def State.badDoorbell (s : State) (n : Nat) (q : Queue) : State :=
  let s1 := s.updQueue n fun q => { q with badAt := s.now :: s.recent second q.badAt }
  (s1.raise (evQueue n) 0).logEvent { cause := 0x0004, cls := 0, queue := n, fn := q.fn }

/-- Is an SQ_TAIL value bad (R108)? -/
def Queue.badTail (q : Queue) (t : Nat) : Bool :=
  2 ^ q.sqLog2 ≤ t || (t + 2 ^ q.sqLog2 - q.head) % 2 ^ q.sqLog2 < q.posted

/-- Is a CQ_HEAD value bad: does it pass the next entry the device has yet to write (R108)? -/
def Queue.badHead (q : Queue) (h : Nat) : Bool :=
  2 ^ q.cqLog2 ≤ h || q.unconsumed < (h + 2 ^ q.cqLog2 - q.cqHead) % 2 ^ q.cqLog2

/-- A doorbell write: discarded and logged before the function's HELLO (R108) and on a page that is not live (R73). The value is the whole
word: a reserved bit that is not 0 makes it a bad one (notes/assumptions/40.md). -/
def State.doorbell (s : State) (fn n : Nat) (v : Word) (bad : Queue → Nat → Bool) (put : Queue → Nat → Queue) : State :=
  if (lookup fn s.hellos).isNone then s.logEvent { cause := 0x0004, cls := 0, queue := n, fn := fn }
  else
    match s.pageLive fn n with
    | none => s.logDiscard fn (doorbellPage n)
    | some q => if bad q v.toNat then s.badDoorbell n q else s.updQueue n fun q => put q v.toNat

def execSqTailWrite (fn q : Nat) (v : Word) (now : Nat) (s : State) : Host.Outcome State Fault Refusal :=
  runsHost (fun s => (s.at now).doorbell fn q v Queue.badTail (fun q t => { q with tail := t })) s

def execCqHeadWrite (fn q : Nat) (v : Word) (now : Nat) (s : State) : Host.Outcome State Fault Refusal :=
  runsHost (fun s =>
    let t := (s.at now).doorbell fn q v Queue.badHead (fun q h => { q with cqHead := h })
    t.flushReports t.reports.length) s

/-- QUEUE_FENCE: the count of R124 is reached. -/
def execQueueFence (q now : Nat) (s : State) : Host.Outcome State Fault Refusal :=
  runs (fun s =>
    let s := s.at now
    match lookup q s.queues with
    | some k => if s.fenceDue k then s.fenceQueue q else s
    | none => s) s

/-- QUEUE_RESET: QUEUE_CTRL RESET (R111). The queue drains, and with nothing in flight it is done at once. -/
def execQueueReset (fn q : Nat) (s : State) : Host.Outcome State Fault Refusal :=
  runsHost (fun s =>
    match s.pageLive fn q with
    | none => s.logDiscard fn (doorbellPage q + 0x14)
    | some _ => (s.updQueue q fun k => { k with status := .resetting, refusedAt := [], badAt := [] }).resetQueueDone q) s

/-! ## HELLO (R126, R127) -/

/-- The feature word the device offers: all six assigned bits. R127 does not say which of them it offers, and this is the model's choice
(notes/assumptions/49.md). -/
def deviceFeatures : Nat := 0x3F

/-- Bytes of the HELLO request of a function: PF0's mailbox words; each function has its own. -/
def helloBase (fn : Nat) : Nat := fn * 0x1000000000

/-- The HELLO request of Table 4-7 as a function wrote it. -/
def State.helloRequest (s : State) (fn : Nat) : List Byte :=
  (List.range 16).flatMap fun i => leBytes 4 (s.regNat (helloBase fn + 0x240 + 4 * i))

/-- Does a ring lie in the scratchpad that an epoch configures? -/
def State.basinRingOk (s : State) (epoch base bytes : Nat) : Bool :=
  !basinRing base || s.scratchpad epoch (base % 2 ^ 63) bytes

/-- Judges a HELLO request in the order of R126: the failing status, or none. -/
def State.helloFails (s : State) (fn : Nat) (p : List Byte) : Option Nat :=
  let agreedRev := min (fieldAt p 2 2) 0x0100
  let agreedOk := max (fieldAt p 0 2) 0x0100 ≤ agreedRev
  let features := fieldAt p 8 4 &&& deviceFeatures
  let rings := [fieldAt p 24 8, fieldAt p 32 8]
  if s.queues.any fun k => k.2.fn == fn then some stResourceInUse
  else if fieldAt p 4 4 ≠ 0 || fieldAt p 44 8 ≠ 0 || fieldAt p 52 8 ≠ 0 || fieldAt p 60 4 ≠ 0
      || (fn ≠ 0 && (rings.any (· != 0) || fieldAt p 40 4 ≠ 0)) then some stReservedNonzero
  else if !agreedOk then some stOutOfRange
  else if fn = 0 && !(6 ≤ fieldAt p 40 1 && fieldAt p 40 1 ≤ 16 && 6 ≤ fieldAt p 41 1 && fieldAt p 41 1 ≤ 16
      && 64 ≤ fieldAt p 42 2 && fieldAt p 42 2 ≤ 2047 && rings.all (fun b => b % 4096 == 0)
      && s.basinRingOk 0 (fieldAt p 24 8) (32 * 2 ^ fieldAt p 40 1) && s.basinRingOk 0 (fieldAt p 32 8) (32 * 2 ^ fieldAt p 41 1)) then some stOutOfRange
  else if fn = 0 && rings.any basinRing && !features.testBit 1 then some stNotNegotiated
  else none

/-- The HELLO reply of Table 4-8. -/
def State.helloReply (s : State) (fn status rev features : Nat) : List Byte :=
  leBytes 2 rev ++ leBytes 2 0x0100 ++ leBytes 2 0x0100 ++ leBytes 2 status ++ leBytes 4 deviceFeatures ++ zeros 12
  ++ leBytes 4 features ++ zeros 12 ++ leBytes 4 s.spine.epoch.toNat ++ leBytes 4 (s.funcInc fn) ++ zeros 16

/-- Writes a mailbox's reply words and DONE. -/
def State.putHelloReply (s : State) (fn : Nat) (bs : List Byte) : State :=
  ((List.range 16).foldl (fun t i => t.setNat (helloBase fn + 0x280 + 4 * i) (fieldAt bs (4 * i) 4)) s).setNat
    (helloBase fn + 0x200) 0x4

/-- A new queue at its creation values (R104, R111). -/
def newQueue (fn berth weight sqLog2 cqLog2 vector sqBase cqBase : Nat) : Queue :=
  { fn := fn, berth := berth, weight := weight, sqLog2 := sqLog2, cqLog2 := cqLog2, vector := vector, sqBase := sqBase,
    cqBase := cqBase, head := 0, tail := 0, cqHead := 0, cqNext := 0, phase := true, status := .active, round := 0,
    refusedAt := [], badAt := [] }

/-- HELLO_CTRL GO. A reserved bit of the written value is ignored, and a write without GO does nothing. -/
def State.hello (s : State) (fn : Nat) (v : Word) : State :=
  if !v.toNat.testBit 0 || s.power.booting != .none then s
  else
    let p := s.helloRequest fn
    match s.helloFails fn p with
    | some st =>
      s.putHelloReply fn (s.helloReply fn st 0 (fieldAt p 8 4 &&& deviceFeatures))
    | none =>
      let rev := min (fieldAt p 2 2) 0x0100
      let features := fieldAt p 8 4 &&& deviceFeatures
      let s1 := { s with hellos := insert fn ⟨rev, features⟩ s.hellos }
      let q := newQueue 0 0 255 (fieldAt p 40 1) (fieldAt p 41 1) (fieldAt p 42 2) (fieldAt p 24 8) (fieldAt p 32 8)
      let s2 := if fn = 0 then { s1 with queues := insert 0 q s1.queues } else s1
      s2.putHelloReply fn (s.helloReply fn stSuccess rev features)

def execHello (fn : Nat) (v : Word) (s : State) : Host.Outcome State Fault Refusal := runsHost (fun s => s.hello fn v) s

/-! ## Queue commands -/

/-- NOP: SUCCESS (R129). -/
def execNop (c : CmdRef) (hv : HostView) (s : State) : Host.Outcome State Fault Refusal :=
  runs (fun s => (s.sees hv).start 0x0000 c fun k s => s.finish k.ref {}) s

/-- The parameters of QUEUE_CREATE that the settings judge, by the lowest offset: its DETAIL (R106, check 10). -/
def State.createFails (s : State) (c : Cmd) : Option Nat :=
  if !s.functionEnabled (c.param 33 1) then some 33
  else if !s.berthEnabledAt c.epoch (c.param 34 1) then some 34
  else if !s.basinRingOk c.epoch (c.param 40 8) (32 * 2 ^ c.param 36 1) then some 40
  else if !s.basinRingOk c.epoch (c.param 48 8) (32 * 2 ^ c.param 37 1) then some 48
  else none

/-- QUEUE_CREATE: the refusals of R106, by the settings of the epoch it carries (R113, R125), then the queue. -/
def State.queueCreate (s : State) (c : Cmd) : State :=
  let n := c.param 32 1
  let fn := c.param 33 1
  let b := c.param 34 1
  if let some d := s.createFails c then s.refuse c stOutOfRange d
  else if (lookup n s.queues).isSome then s.finish c.ref { status := stResourceInUse }
  else if !s.berthBoundAt c.epoch b fn then s.finish c.ref { status := stBerthOwnership }
  else
    let q := newQueue fn b (c.param 35 1) (c.param 36 1) (c.param 37 1) (c.param 38 2) (c.param 40 8) (c.param 48 8)
    ({ s with queues := insert n q s.queues }).finish c.ref {}

def execQueueCreate (c : CmdRef) (hv : HostView) (s : State) : Host.Outcome State Fault Refusal :=
  runs (fun s => (s.sees hv).start 0x0001 c fun k s => s.queueCreate k) s

/-- Clears the event flags, enables and counters of a queue's page, which its next creation finds at reset values. -/
def State.clearPage (s : State) (n : Nat) : State :=
  { s with regs := s.regs.filter fun r => !(decide (doorbellPage n ≤ r.1) && decide (r.1 < doorbellPage (n + 1))) }

end Sys2Proof.Machine
end

