-- ==== Sys2Proof/Machine/Epoch.lean ====
section
/-! DEFINITION. Commits (R137-R141): what every commit does to the epoch, and when one may be granted. -/

namespace Sys2Proof.Machine

open Sys2Proof

/-- Does an operation of the current epoch, or none? Epoch 0 marks a command refused before acceptance. -/
def State.isCurrent (s : State) (e : Nat) : Bool := e == 0 || e == s.spine.epoch.toNat

/-- The command that a waiting commit is for. -/
def State.commandOf (s : State) : CommitFor → Option CmdRef
  | .host c => some c
  | .setReserve c => some c
  | .setFail w => (lookup w s.sets).bind fun k => k.command
  | .setDropping c => some c
  | .setReturn w => (lookup w s.sets).bind fun k => k.command
  | .adapterReserve c _ => some c
  | .adapterFail i => (lookup i s.adapters).bind fun k => k.command
  | .adapterRetire c => some c
  | .adapterDropName _ => none
  | .serveOpen c _ => some c
  | .serveClose n => (lookup n s.serving).bind fun k => k.closing.map fun x => x.1
  | .trainOpen c _ => some c
  | .trainClose n => (lookup n s.trains).bind fun k => k.closing.map fun x => x.1
  | .turnFirst c _ => some c
  | .turnAbandon _ => none
  | .scoreOpen c _ => some c
  | .scoreClose _ => none

/-- A command that itself waits for a commit keeps no settings of an older epoch in use (notes/assumptions/24.md). -/
def State.waitsForCommit (s : State) (c : Cmd) : Bool := s.commits.any fun w => s.commandOf w.owner == some c.ref

/-- Is a step of a training service in progress? -/
def Train.inStep (k : Train) : Bool := k.phase != .idle

/-- Is no operation or step of an older epoch in flight, but for the command that the commit is for (R141)? A command is in flight until
its reply is written (R112). -/
def State.olderGoneBut (s : State) (own : Option CmdRef) : Bool :=
  (s.inflight.all fun c => s.isCurrent c.epoch || some c.ref == own || s.waitsForCommit c)
    && (s.serving.all fun k => match k.2.step with | some b => s.isCurrent b.epoch | none => true)
    && s.trains.all fun k => !k.2.inStep || s.isCurrent k.2.cmd.epoch

def State.olderGone (s : State) : Bool := s.olderGoneBut none

/-- A commit is granted: the epoch rises by one, and the words it changes keep their old values for operations of the epoch
before (R137, R140, R141). -/
def State.commitEpoch (s : State) (changed : List (Nat × Word)) : State :=
  let old := changed.map fun k => (k.1, s.reg k.1)
  let t := changed.foldl (fun (t : State) k => t.setReg k.1 k.2) s
  { t with
    spine := { t.spine with epoch := nextEpoch t.spine.epoch }, commitCount := t.commitCount + 1, oldRegs := old }

/-- A service commit: no setting changes, and SERVICE_COMMIT sets (R334). -/
def State.serviceCommit (s : State) : State := ((s.commitEpoch []).raise evLock 1).record 0 6 0 []

/-- A commit joins those that wait for the acceptance arbiter. -/
def State.awaitCommit (s : State) (o : CommitFor) : State := { s with commits := s.commits ++ [⟨o, []⟩] }

/-! ## Turns, as the chapters before them see them (chapter 19) -/

def Turn.toGeneration (t : Turn) : Bool := t.cmd.param 32 1 == 0
def Turn.train (t : Turn) : Option Nat := if t.cmd.param 34 1 = 0xFF then none else some (t.cmd.param 34 1)
def Turn.cuts (t : Turn) : Bool := t.cmd.param 35 1 == 1
def Turn.keepServe (t : Turn) : Bool := (t.cmd.param 39 1).testBit 1
def Turn.keepTrain (t : Turn) : Bool := (t.cmd.param 39 1).testBit 0

def State.updTurn (s : State) (n : Nat) (f : Turn → Turn) : State :=
  match lookup n s.turns with
  | some t => { s with turns := insert n (f t) s.turns }
  | none => s

/-- A turn fails before its final commit: its failure commit waits (R538). -/
def State.failTurn (s : State) (n detail : Nat) (abandoned : Bool) : State :=
  match lookup n s.turns with
  | none => s
  | some t =>
    if t.failing.isSome then s
    else (s.updTurn n fun t => { t with failing := some (detail, abandoned) }).awaitCommit (.turnAbandon n)

/-- The step of a training service ended without committing, or the service stopped: the turns that wait for it fail (R538). -/
def State.trainTurnFails (s : State) (n st : Nat) : State :=
  (s.turns.filter fun t => (t.2.phase == 2 || t.2.phase == 3) && t.2.train == some n && !t.2.keepTrain).foldl
    (fun (u : State) t => u.failTurn t.1 st false) s

/-- A turn parks a training service at its decision (R532). -/
def State.turnParks (s : State) (n : Nat) : Bool := s.turns.any fun t => 2 ≤ t.2.phase && t.2.train == some n && !t.2.keepTrain

/-- Must a turn answer an entry of its service in SETTLE (R532)? -/
def Turn.answers (t : Turn) (e : Entry) : Bool :=
  e.state != 1 && (t.toGeneration || !t.keepServe || (t.cmd.param 36 1).testBit e.cls)

/-- An entry ends while a turn drains its service: to its own end (stop, limit, cancel) or cut (R539). -/
def State.turnCounts (s : State) (e : Entry) (own cut : Bool) : State :=
  s.updTurn e.svc fun t =>
    if t.phase = 2 && t.answers e then { t with drained := t.drained + bit own, cut := t.cut + bit cut } else t

/-- Ends PARK commands that waited for a step (R522). -/
def State.answerParking (s : State) (ps : List (CmdRef × Nat)) : State :=
  ps.foldl (fun (t : State) p => t.finish p.1 { result0 := t.now - p.2 }) s

/-- A commit is withdrawn before its instant. -/
def State.withdraw (s : State) (o : CommitFor) : State := { s with commits := s.commits.filter fun w => w.owner != o }

end Sys2Proof.Machine
end

