-- ==== Sys2Proof/Machine/Links.lean ====
section
/-! DEFINITION. Enlon links (chapter 14): identities and cabling, flits, sequence numbers and replay, credits, messages,
forwarding, widths and bring-up. The events that stand for them are in Machine/LinkEvents.lean, after the chapters whose work
a link-down ends. -/

namespace Sys2Proof.Machine

open Sys2Proof

/-! ## Lists by index -/

def setIdx (n v : Nat) (l : List Nat) : List Nat := (List.range (max l.length (n + 1))).map fun i => if i = n then v else l.getD i 0
def addIdx (n v : Nat) (l : List Nat) : List Nat := setIdx n (l.getD n 0 + v) l
def subIdx (n v : Nat) (l : List Nat) : List Nat := setIdx n (l.getD n 0 - v) l

/-! ## Ports and axes -/

def State.port (s : State) (p : Nat) : Port := (lookup p s.ports).getD .reset

/-- The states that the port's sensor of Table 3-5 reports. -/
def Port.sensor (k : Port) : Nat :=
  if k.state = 1 || k.state = 2 then 2 else if k.state = 3 then (if k.txWidth = 64 && k.rxWidth = 64 then 3 else 4)
  else if k.state = 4 || k.state = 5 || k.state = 6 then 5 else 1

/-- The axis of a port; port p is its positive port when p is even. -/
def axisOf (p : Nat) : Nat := p / 2

/-- TORUS_AXIS of an axis: SIZE, COORD, CUT. -/
def axisWord (a : Nat) : Nat := blkDevice + 0xB00 + 4 * a
def sizeOf (w : Nat) : Nat := field w 14 8
def coordOf (w : Nat) : Nat := field w 5 0
def cutOf (w : Nat) : Nat := field w 23 20
/-- SIZE of an axis, as the ports see it: device-wide, at the commit instant (R140). -/
def State.torusSize (s : State) (a : Nat) : Nat := field (s.regNat (axisWord a)) 14 8

def State.coord (s : State) (a : Nat) : Nat := coordOf (s.regNat (axisWord a))

/-- LOOPBACK (R375). -/
def State.loopback (s : State) (p : Nat) : Bool := s.torusSize (axisOf p) ≤ 1

/-- What sensor 16 + p reports: up full width in LOOPBACK (Table 14-3). -/
def State.portSensor (s : State) (p : Nat) : Nat := if s.loopback p then 3 else (s.port p).sensor

def State.updPort (s : State) (p : Nat) (f : Port → Port) : State :=
  let t := { s with ports := insert p (f (s.port p)) s.ports }
  t.sensorChange (16 + p) (s.portSensor p) (t.portSensor p)

/-- ROUTE[31:8] of coordinates A to D, 6 bits each, A uppermost. -/
def routeOf (cs : List Nat) : Nat := cs.foldl (fun r c => r * 64 + c % 64) 0
def routeCoord (r a : Nat) : Nat := r >>> (6 * (3 - a)) % 64
def State.ownRoute (s : State) : Nat := routeOf ((List.range 4).map s.coord)

/-- The three sensors of a port report present (R95). -/
def State.sensorsPresent (s : State) (p : Nat) : Bool := field s.panel.fibres (3 * p + 2) (3 * p) == 7
def State.sensorsAbsent (s : State) (p : Nat) : Bool := field s.panel.fibres (3 * p + 2) (3 * p) == 0
def State.presentFor (s : State) (p t : Nat) : Bool :=
  s.sensorsPresent p && match lookup p s.panel.fibresSince with | some f => decide (f + t ≤ s.now) | none => false

/-- The latest feed reading, 0.01 dBm. -/
def State.feedPower (s : State) (p : Nat) : Int := signedOf 16 (s.regNat (blkPort p + 0x30))

def State.shownState (s : State) (p : Nat) : Nat := if s.loopback p then 8 else (s.port p).state
def State.portStatus (s : State) (p : Nat) : Nat :=
  s.shownState p * 2 ^ 28 + (s.port p).txWidth * 2 ^ 14 + (s.port p).rxWidth * 2 ^ 7

/-- Is a port up for a VC (R383)? -/
def State.carries (s : State) (p vc : Nat) : Bool := (s.port p).state == 3 || ((s.port p).state == 4 && vc ≤ 1)

/-- R368. -/
def State.mayBringUp (s : State) (p : Nat) : Bool :=
  decide (p < 8) && s.operating && s.clock.good && s.presentFor p (2 * second) && decide (1900 ≤ s.feedPower p) && !s.loopback p
    && (s.port p).state != 7 && (s.port p).state != 6

/-- The state of a port at rest: WAITING out the 2 s of R95, or DOWN. -/
def State.restState (s : State) (p : Nat) : Nat := if s.sensorsPresent p && !s.presentFor p (2 * second) then 1 else 0

def vcDedicated (p v : Nat) : Nat := blkPort p + 0x100 + 4 * v

/-! ## Identity (R370, R372) -/

/-- ENLON_INC. -/
def State.enlonInc (s : State) : Nat := s.keepsake.enlonInc.toNat

/-- Total receive slots (R384). -/
def rxSlots : Nat := 16384

def State.dedicated (s : State) (p : Nat) : List Nat := (List.range 15).map fun v => field (s.regNat (vcDedicated p v)) 9 0

/-- The IDENT this device sends on a port. -/
def State.ownIdent (s : State) (p : Nat) : Ident :=
  { minRev := 0x0100, maxRev := 0x0100, features := 0, serial := s.spine.serial.toNat, port := p,
    variant := match s.spine.variant with | .l => 1 | .s => 2,
    inc := s.enlonInc, sizes := (List.range 4).map s.torusSize, coords := (List.range 4).map s.coord,
    cuts := (List.range 4).map fun a => cutOf (s.regNat (axisWord a)), rxLanes := s.reg64 (blkPort p + 0x20),
    dedicated := s.dedicated p, shared := rxSlots - (s.dedicated p).sum }

def identOf (b : List Byte) : Ident :=
  { minRev := fieldAt b 0 2, maxRev := fieldAt b 2 2, features := fieldAt b 4 4, serial := fieldAt b 8 8, port := fieldAt b 16 1,
    variant := fieldAt b 17 1, inc := fieldAt b 18 2, sizes := (List.range 4).map fun a => fieldAt b (20 + 2 * a) 1,
    coords := (List.range 4).map fun a => fieldAt b (21 + 2 * a) 1, cuts := (List.range 4).map fun a => fieldAt b (28 + a) 1,
    rxLanes := fieldAt b 32 8, dedicated := (List.range 15).map fun v => fieldAt b (40 + 2 * v) 2, shared := fieldAt b 70 2 }

def creditBytes (ded : List Nat) (shared : Nat) : List Byte :=
  (List.range 15).flatMap (fun v => leBytes 2 (ded.getD v 0)) ++ leBytes 2 shared

def Ident.bytes (i : Ident) : List Byte :=
  leBytes 2 i.minRev ++ leBytes 2 i.maxRev ++ leBytes 4 i.features ++ leBytes 8 i.serial ++ leBytes 1 i.port ++ leBytes 1 i.variant
    ++ leBytes 2 i.inc ++ (List.range 4).flatMap (fun a => leBytes 1 (i.sizes.getD a 0) ++ leBytes 1 (i.coords.getD a 0))
    ++ (List.range 4).flatMap (fun a => leBytes 1 (i.cuts.getD a 0)) ++ leBytes 8 i.rxLanes ++ creditBytes i.dedicated i.shared

/-- The agreed revision, or none (R370). -/
def agreedRevision (a b : Ident) : Option Nat :=
  let r := min a.maxRev b.maxRev
  if max a.minRev b.minRev ≤ r then some r else none

/-- Does a peer's IDENT agree with the settings that `axis` and `expect` give (R372)? -/
def identAgrees (axis : Nat → Nat) (expect p : Nat) (i : Ident) : Bool :=
  let a := axisOf p
  let n := max 1 (sizeOf (axis a))
  let here := coordOf (axis a)
  i.port == p ^^^ 1 && (expect == 0 || i.serial == expect) && i.sizes.getD a 0 == sizeOf (axis a)
    && i.coords.getD a 0 == (if p % 2 = 0 then (here + 1) % n else (here + n - 1) % n)
    && ((List.range 4).all fun b => b == a || i.coords.getD b 0 == coordOf (axis b))
    && ((List.range 4).all fun b => i.cuts.getD b 0 == cutOf (axis b))

def State.peerAgrees (s : State) (p : Nat) (i : Ident) : Bool :=
  identAgrees (fun a => s.regNat (axisWord a)) (s.reg64 (blkDevice + 0xB20 + 8 * p)) p i

/-! ## Flits -/

/-- Control kinds are outside the credits; a DATA flit needs one (R384). -/
def kindData : Nat := 1
def kindIdent : Nat := 2
def kindWidth : Nat := 3
def kindCreditInit : Nat := 4
def kindRetrain : Nat := 5

/-- The fields of a 256-byte flit (Table 14-6). -/
def flitOf (b : List Byte) : Flit :=
  let r := fieldAt b 8 4
  { seq := fieldAt b 0 2, ack := fieldAt b 2 2, vc := field (fieldAt b 4 1) 7 4, kind := field (fieldAt b 4 1) 3 0,
    flags := fieldAt b 5 1, credit := fieldAt b 6 2, route := r / 256, valid := r % 256, payload := slice b 12 240 }

/-- The CRC of a flit is good (R377). -/
def flitGood (b : List Byte) : Bool := b.length == 256 && crc32 (b.take 252) == fieldAt b 252 4

/-- One flit goes out: it carries the acknowledgement of R381. -/
def State.emitFlit (s : State) (p : Nat) (f : Flit) : State :=
  s.emit (.flit p { f with ack := ((s.port p).expect + 65535) % 65536, flags := f.flags ||| 0x80 })

/-- An IDLE flit, with a credit return and flags (R380, R381). -/
def State.sendIdle (s : State) (p credit flags : Nat) : State :=
  s.emitFlit p { seq := (s.port p).next, ack := 0, vc := 0, kind := 0, flags := flags, credit := credit, route := 0, valid := 0,
                 payload := [] }

/-- A NAK for the SEQ expected next (Table 14-8). -/
def State.sendNak (s : State) (p : Nat) : State :=
  (s.sendIdle p 0 0x40).updPort p fun k => { k with nakFrom := some s.now }

/-- A flit takes the next SEQ, is kept and sent (R380). -/
def State.sendNow (s : State) (p : Nat) (f : Flit) (msg : Nat) : State :=
  let k := s.port p
  let f := { f with seq := k.next }
  let t := s.updPort p fun k =>
    { k with next := (k.next + 1) % 65536, kept := k.kept ++ [(f, msg)], ackAt := if k.kept.isEmpty then s.now else k.ackAt }
  (t.emitFlit p f).add64 (blkPort p + 0x40) 1

/-- The largest part of the shared pool one VC may hold (R384). -/
def sharedLimit (pool : Nat) : Nat := pool * 3 / 4

/-- Takes a credit for a DATA flit of a VC: dedicated first, then shared; none where there is none. -/
def Port.takeCredit (k : Port) (vc : Nat) : Option Port :=
  if 0 < k.credits.getD vc 0 then some { k with credits := subIdx vc 1 k.credits }
  else if 2 ≤ vc && 0 < k.shared && k.usedShared.getD vc 0 < sharedLimit k.pool then
    some { k with shared := k.shared - 1, usedShared := addIdx vc 1 k.usedShared }
  else none

/-- May a waiting flit of a port go now? The port as it stands after it takes its credit. -/
def State.flitMayGo (s : State) (p : Nat) (f : Flit) : Option Port :=
  let k := s.port p
  if 16384 ≤ k.kept.length || k.retrain.isSome then none
  else if f.kind = kindData then (if s.carries p f.vc then k.takeCredit f.vc else none)
  else some k

/-- The first waiting flit that may go, no earlier one of its VC being held back. -/
def State.nextToGo (s : State) (p : Nat) : List (Flit × Nat) → List Nat → Option (Flit × Nat × Port)
  | [], _ => none
  | (f, m) :: fs, blocked =>
    if blocked.contains f.vc then s.nextToGo p fs blocked
    else
      match s.flitMayGo p f with
      | some k => some (f, m, k)
      | none => s.nextToGo p fs (f.vc :: blocked)

/-- Sends the waiting flits that may go, by fuel. -/
def State.drain : Nat → State → Nat → State
  | 0, s, _ => s
  | n + 1, s, p =>
    match s.nextToGo p (s.port p).waiting [] with
    | none => s
    | some (f, m, k) =>
      (({ s with ports := insert p { k with waiting := k.waiting.erase (f, m) } s.ports }).sendNow p f m).drain n p

/-- A flit joins those that wait, and what may go goes. -/
def State.sendFlits (s : State) (p : Nat) (fs : List (Flit × Nat)) : State :=
  let t := s.updPort p fun k => { k with waiting := k.waiting ++ fs }
  t.drain (t.port p).waiting.length p

/-- A control flit: VC 0, no credit (R377). -/
def control (kind : Nat) (payload : List Byte) : Flit :=
  { seq := 0, ack := 0, vc := 0, kind := kind, flags := 0, credit := 0, route := 0, valid := 0, payload := payload }

def State.sendIdent (s : State) (p vc : Nat) : State :=
  s.sendFlits p [({ control kindIdent (s.ownIdent p).bytes with vc := vc }, 0)]

/-- A WIDTH flit: the good receive lanes, and the SEQ at which the width applies, which the spec leaves to the receiver. -/
def State.sendWidth (s : State) (p : Nat) : State :=
  let d := s.draw
  d.2.sendFlits p
    [(control kindWidth (leBytes 8 (s.reg64 (blkPort p + 0x20)) ++ leBytes 2 (Config.freeWord d.1 0)), 0)]

def State.sendCreditInit (s : State) (p : Nat) : State :=
  let ded := s.dedicated p
  (s.updPort p fun k => { k with granted := ded, repartition := [] }).sendFlits p
    [(control kindCreditInit (creditBytes ded (rxSlots - ded.sum)), 0)]

/-! ## Messages (R378) -/

/-- The flits of a message of 16 header bytes and a body. A flit whose payload holds a poisoned byte is sent with POISON and a
payload of zeros (R379). -/
def messageFlits (vc route : Nat) (bytes : List Byte) (poison : List (Nat × Nat)) : List Flit :=
  let n := (bytes.length + 239) / 240
  (List.range n).map fun i =>
    let b := (bytes.drop (240 * i)).take 240
    let bad := poison.any fun r => decide (r.1 + 16 < 240 * i + b.length) && decide (240 * i < r.1 + 16 + r.2)
    { seq := 0, ack := 0, vc := vc, kind := kindData,
      flags := 32 * bit (i == 0) + 16 * bit (i + 1 == n) + 8 * bit bad, credit := 0, route := route, valid := b.length,
      payload := if bad then zeros b.length else b }

/-- Sends a message on a port and VC; its number. -/
def State.sendMessage (s : State) (p vc route cls context targetInc : Nat) (body : List Byte) (poison : List (Nat × Nat)) :
    State × Nat :=
  let n := s.msgNext
  let header := leBytes 4 body.length ++ leBytes 4 (s.ownRoute * 256) ++ leBytes 2 targetInc ++ leBytes 2 cls ++ leBytes 4 context
  (({ s with msgNext := n + 1 }).sendFlits p ((messageFlits vc route (header ++ body) poison).map fun f => (f, n)), n)

/-- Is a message sent and covered by acknowledgements on its port? -/
def State.messageAcked (s : State) (n : Nat) : Bool :=
  s.ports.all fun k => !(k.2.kept.any fun f => f.2 == n) && !(k.2.waiting.any fun f => f.2 == n)

/-- The neighbour behind a port: its coordinates, and its incarnation as the latest IDENT gave it. -/
def State.neighbourRoute (s : State) (p : Nat) : Nat :=
  let n := max 1 (s.torusSize (axisOf p))
  routeOf ((List.range 4).map fun a =>
    if a = axisOf p then (if p % 2 = 0 then (s.coord a + 1) % n else (s.coord a + n - 1) % n) else s.coord a)
def State.neighbourInc (s : State) (p : Nat) : Nat := match (s.port p).identity with | some i => i.inc | none => 0

/-- A link notice on VC0 to the neighbour of a port: class, and the CLASS and CONTEXT of the message it concerns. -/
def State.sendNotice (s : State) (p cls about context : Nat) : State :=
  (s.sendMessage p 0 (s.neighbourRoute p) cls 0 (s.neighbourInc p) (leBytes 4 about ++ leBytes 4 context) []).1

/-! ## Violations (R389) -/

def State.violation (s : State) (p : Nat) : State :=
  ((s.updPort p fun k => { k with violationsAt := s.now :: k.violationsAt.filter fun t => decide (s.now < t + second) }).add32
    (blkPort p + 0x70) 1).raise (evPort p) 6

/-! ## Acknowledgements, replay and credits received -/

/-- An ACK releases the kept flits it covers; one for a SEQ not yet sent is a violation and ignored (R380, Table 14-10). -/
def State.takeAck (s : State) (p : Nat) (f : Flit) : State :=
  let k := s.port p
  let first := match k.kept with | (g, _) :: _ => g.seq | [] => k.next
  let n := (f.ack + 1 + 65536 - first) % 65536
  if !f.flags.testBit 7 || 32768 ≤ n || n = 0 then s
  else if k.kept.length < n then s.violation p
  else s.updPort p fun k => { k with kept := k.kept.drop n, ackAt := s.now, nakCount := 0 }

/-- Resends every kept flit, in SEQ order (R382). -/
def State.resend (s : State) (p : Nat) : State :=
  let k := s.port p
  let t := k.kept.foldl (fun (t : State) g => t.emitFlit p g.1) s
  (t.add64 (blkPort p + 0x58) k.kept.length).add64 (blkPort p + 0x40) k.kept.length

/-- A NAK: kept flits go again, and the NAKs of one SEQ in a row are counted. -/
def State.takeNak (s : State) (p : Nat) (f : Flit) : State :=
  if !f.flags.testBit 6 then s
  else
    let q := (f.ack + 1) % 65536
    (s.updPort p fun k => { k with nakSeq := q, nakCount := if k.nakSeq = q then k.nakCount + 1 else 1 }).resend p

/-- A credit return: VC, SHARED, count (Table 14-6). -/
def State.takeCredits (s : State) (p : Nat) (f : Flit) : State :=
  let vc := field f.credit 15 12
  let n := field f.credit 10 0
  if n = 0 then s
  else s.updPort p fun k =>
    if f.credit.testBit 11 then { k with shared := k.shared + n, usedShared := subIdx vc n k.usedShared }
    else { k with credits := addIdx vc n k.credits }

/-- Returns credits of a VC to the peer as slots become free; a VC in change returns none (R384, R385). -/
def State.returnCredits (s : State) (p vc : Nat) (held : Nat × Nat) : State :=
  let t := s.updPort p fun k => { k with heldDed := subIdx vc held.1 k.heldDed, heldShared := subIdx vc held.2 k.heldShared }
  let word := fun sh n => vc * 4096 + bit sh * 2048 + n
  if (s.port p).repartition.contains vc then t
  else
    let t := if held.1 = 0 then t else t.sendIdle p (word false held.1) 0
    if held.2 = 0 then t else t.sendIdle p (word true held.2) 0

/-- A DATA flit takes a receive slot: dedicated (true) or shared; none where it goes beyond the credits granted. -/
def Port.takeSlot (k : Port) (vc : Nat) : Option (Bool × Port) :=
  let pool := rxSlots - k.granted.sum
  if k.heldDed.getD vc 0 < k.granted.getD vc 0 then some (true, { k with heldDed := addIdx vc 1 k.heldDed })
  else if 2 ≤ vc && k.heldShared.getD vc 0 < sharedLimit pool && k.heldShared.sum < pool then
    some (false, { k with heldShared := addIdx vc 1 k.heldShared })
  else none

/-! ## Forwarding (R386) -/

/-- Does a message cross the wrap link of an axis by leaving this device on a port? -/
def State.wraps (s : State) (p : Nat) : Bool :=
  let c := s.coord (axisOf p)
  if p % 2 = 0 then c + 1 == s.torusSize (axisOf p) else c == 0

/-- The port a message for coordinates leaves on: the first axis in the order A to D on which they differ, in the direction with
fewer hops, the positive one on a tie. None for this device's own coordinates. -/
def State.routePort (s : State) (route : Nat) : Option Nat :=
  ((List.range 4).find? fun a => routeCoord route a != s.coord a).map fun a =>
    let n := max 1 (s.torusSize a)
    let up := (routeCoord route a + n - s.coord a) % n
    if up ≤ n - up then 2 * a else 2 * a + 1

/-- The VC on which a bulk message leaves: back to VC10 or VC11 as it turns to another axis, VC12 or VC13 past the wrap. -/
def State.nextVc (s : State) (arrived : Option Nat) (vc out : Nat) : Nat :=
  let pair := vc % 2
  let past := match arrived with | some p => axisOf p == axisOf out && 12 ≤ vc | none => false
  if past || s.wraps out then 12 + pair else 10 + pair

def State.outsideTorus (s : State) (route : Nat) : Bool :=
  (List.range 4).any fun a => max 1 (s.torusSize a) ≤ routeCoord route a

/-! ## Receiving DATA -/

/-- Is a message one that its consumer cannot take yet: a collective message for a SEQ not accepted (R399)? `b` holds the message
header and the start of the body; or a piece of a turn that is not in TRANSFER here (R529). -/
def State.notAcceptedYet (s : State) (b : List Byte) : Bool :=
  let cls := fieldAt b 10 2
  (cls == 0x1101 && !s.turns.any fun t => t.2.phase == 3 && t.2.cmd.param 40 4 == fieldAt b 12 4)
    || decide (0x0101 ≤ cls) && decide (cls ≤ 0x0105) && decide ((match lookup (fieldAt b 20 1) s.groups with | some g => g.lastSeq | none => 0) < fieldAt b 12 4)

/-- CLASS values that have an owner (Table 14-7, R401). -/
def knownClass (c : Nat) : Bool :=
  [0x0001, 0x0002, 0x0101, 0x0102, 0x0103, 0x0104, 0x0105, 0x0110].contains c || (decide (0x1000 ≤ c) && decide (c ≤ 0x11FF))

/-- The message that an END flit closes. -/
def Inbound.message (o : Inbound) : Msg :=
  let h := o.bytes
  { vc := o.vc, route := o.route, length := fieldAt h 0 4, source := fieldAt h 4 4 / 256, targetInc := fieldAt h 8 2,
    cls := fieldAt h 10 2, context := fieldAt h 12 4, body := o.bytes.drop 16,
    poison := o.poison.map fun r => (r.1 - 16, r.1 + r.2 - max 16 r.1), held := o.held }

/-- Puts the open message of a VC, or removes it. -/
def State.putOpening (s : State) (p vc : Nat) (o : Option Inbound) : State :=
  s.updPort p fun k =>
    { k with opening := (k.opening.filter fun i => i.vc != vc) ++ (match o with | some i => [i] | none => []) }

/-- The open message of a VC is discarded with the slots it holds; with `swallow`, so is the rest of it. -/
def State.discardOpening (s : State) (p vc : Nat) (swallow : Bool) : State :=
  match (s.port p).opening.find? fun i => i.vc == vc with
  | none => s
  | some o =>
    (s.putOpening p vc (if swallow then some { o with bytes := [], held := (0, 0), drop := true, forward := none } else none)).returnCredits
      p vc o.held

/-- A START flit opens a message: here, forwarded, or discarded with a violation (R386). -/
def State.openMessage (s : State) (p : Nat) (f : Flit) : State :=
  let o : Inbound :=
    { vc := f.vc, route := f.route, bytes := [], poison := [], held := (0, 0), hold := s.notAcceptedYet f.payload, forward := none,
      drop := false }
  if f.route = s.ownRoute then s.putOpening p f.vc (some o)
  else if !(10 ≤ f.vc && f.vc ≤ 13) || s.outsideTorus f.route then (s.violation p).putOpening p f.vc (some { o with drop := true })
  else
    match s.routePort f.route with
    | none => s.putOpening p f.vc (some { o with drop := true })
    | some out =>
      if s.carries out f.vc then s.putOpening p f.vc (some { o with hold := false, forward := some (out, s.nextVc (some p) f.vc out) })
      else
        (s.sendNotice p 0x0001 (fieldAt f.payload 10 2) (fieldAt f.payload 12 4)).putOpening p f.vc (some { o with drop := true })

/-- An END flit closes the open message of a VC: delivered to its consumer's list, or discarded where LENGTH or CLASS is wrong. -/
def State.closeMessage (s : State) (p vc : Nat) : State :=
  match (s.port p).opening.find? fun i => i.vc == vc with
  | none => s
  | some o =>
    let t := s.putOpening p vc none
    if o.drop || o.forward.isSome then t
    else
      let m := o.message
      if o.bytes.length < 16 || m.body.length ≠ m.length || !knownClass m.cls then (t.violation p).returnCredits p vc o.held
      else (t.updPort p fun k => { k with arrived := k.arrived ++ [m] }).record (portHub p) 7 (p * 16 + vc) o.bytes

/-- One DATA flit accepted in sequence, with the kind of slot it takes. -/
def State.takeData (s : State) (p : Nat) (f : Flit) (ded : Bool) : State :=
  let slot : Nat × Nat := if ded then (1, 0) else (0, 1)
  let isOpen := (s.port p).opening.any fun i => i.vc == f.vc
  let start := f.flags.testBit 5
  let start' := start && isOpen
  if start' then ((s.violation p).discardOpening p f.vc false).returnCredits p f.vc slot
  else if !start && !isOpen then (s.violation p).returnCredits p f.vc slot
  else
    let t := if start then s.openMessage p f else s
    match (t.port p).opening.find? fun i => i.vc == f.vc with
    | none => t.returnCredits p f.vc slot
    | some o =>
      let bs := f.payload.take f.valid
      let poison := if f.flags.testBit 3 then o.poison ++ [(o.bytes.length, bs.length)] else o.poison
      let t :=
        if o.drop then t.returnCredits p f.vc slot
        else
          match o.forward with
          | some (out, vc) =>
            let head := if o.bytes.isEmpty then bs.take 16 else o.bytes
            ((t.putOpening p f.vc (some { o with bytes := head })).sendFlits out
              [({ f with vc := vc, flags := f.flags % 128 &&& 0x38, credit := 0, ack := 0, payload := bs }, 0)]).returnCredits p f.vc slot
          | none =>
            if o.hold then
              t.putOpening p f.vc
                (some { o with bytes := o.bytes ++ bs, poison := poison, held := (o.held.1 + slot.1, o.held.2 + slot.2) })
            else (t.putOpening p f.vc (some { o with bytes := o.bytes ++ bs, poison := poison })).returnCredits p f.vc slot
      if f.flags.testBit 4 then t.closeMessage p f.vc else t

/-- What Table 14-10 discards a flit for before its SEQ counts. -/
def malformed (f : Flit) : Bool :=
  6 ≤ f.kind || f.vc == 15 || f.flags % 8 != 0
    || (if f.kind = kindData then f.valid == 0 || 240 < f.valid else f.valid != 0)

/-! ## Widths (R387, R388) -/

/-- The width of a set of good lanes: the largest multiple of 8 that does not exceed their number. -/
def widthOf (lanes : Nat) : Nat := popCount 64 lanes / 8 * 8

/-- A direction narrows: WIDTH_REDUCED and a record. -/
def State.noteReduced (s : State) (p : Nat) : State := (s.raise (evPort p) 2).logEvent { cause := 0x0402, cls := 1, unit := 0x60 + p }

/-! ## Bring-up (R368, R369, Table 14-4) -/

/-- A port starts bring-up: empty buffers, SEQ 0, new credits (R394). -/
def State.startBringUp (s : State) (p : Nat) : State :=
  s.updPort p fun k =>
    { Port.reset with state := 2, since := s.now, phase := 1, ackAt := s.now, lastGood := s.now, weak := k.weak,
                      arrived := k.arrived, inbox := k.inbox, violationsAt := k.violationsAt,
                      heldDed := k.heldDed, heldShared := k.heldShared }

/-- Bring-up fails: DOWN, and again 1 s later (R369). -/
def State.failBringUp (s : State) (p : Nat) : State :=
  s.updPort p fun k => { k with state := 0, phase := 0, retryAt := some (s.now + second), retrain := none, txWidth := 0, rxWidth := 0 }

/-- Both WIDTHs are known: the port sends IDENT as SEQ 0. -/
def State.bringUpIdent (s : State) (p : Nat) : State :=
  let k := s.port p
  if k.state = 2 && k.phase = 2 && k.widthSeen then
    (s.updPort p fun k => { k with phase := 3, next := 0, expect := 0, kept := [] }).sendIdent p 0
  else s

/-- The 1 ms judging window of bring-up ends (R387): WIDTH goes out before the sequence count begins, or bring-up fails. -/
def State.lanesJudged (s : State) (p good : Nat) : State :=
  let k := s.port p
  if k.state = 2 && k.phase = 1 && decide (k.since + msec ≤ s.now) then
    let t := s.set64 (blkPort p + 0x20) good
    if widthOf good = 0 then t.failBringUp p
    else
      let d := t.draw
      let t := (d.2.updPort p fun k => { k with phase := 2, rxWidth := widthOf good }).emitFlit p
        (control kindWidth (leBytes 8 good ++ leBytes 2 (Config.freeWord d.1 0)))
      t.bringUpIdent p
  else s

/-! ## IDENT and CREDIT_INIT -/

/-- A port comes into UP or RESTRICTED under its peer's latest IDENT; a change to RESTRICTED sets the flag and is recorded. -/
def State.judgePort (s : State) (p : Nat) : State :=
  let k := s.port p
  match k.identity with
  | some i =>
    if k.state = 3 && !s.peerAgrees p i then
      ((s.updPort p fun k => { k with state := 4 }).raise (evPort p) 4).logEvent { cause := 0x0404, cls := 1, unit := 0x60 + p }
    else if k.state = 4 && s.peerAgrees p i then s.updPort p fun k => { k with state := 3 }
    else s
  | none => s

/-- What the registers show of a peer's IDENT. -/
def State.notePeer (s : State) (p : Nat) (i : Ident) (rev : Nat) : State :=
  let t := (s.updPort p fun k => { k with identity := some i }).set64 (blkPort p + 0x10) i.serial
  let t := t.setNat (blkPort p + 0x18) (rev * 2 ^ 16 + i.inc)
  (t.setNat (blkPort p + 0x1C) (i.port % 8 * 2 ^ 26 + i.coords.getD 3 0 % 64 * 2 ^ 18 + i.coords.getD 2 0 % 64 * 2 ^ 12
    + i.coords.getD 1 0 % 64 * 2 ^ 6 + i.coords.getD 0 0 % 64)).set64 (blkPort p + 0x28) i.rxLanes

/-- The peer's credits as a CREDIT_INIT gives them: a VC whose count it changes starts anew, the others carry on (R384, R385). -/
def State.takeCreditInit (s : State) (p : Nat) (b : List Byte) : State :=
  let ded := (List.range 15).map fun v => fieldAt b (2 * v) 2
  let pool := fieldAt b 30 2
  s.updPort p fun k =>
    { k with
      credits := (List.range 15).map (fun v => if k.peerDed.getD v 0 = ded.getD v 0 then k.credits.getD v 0 else ded.getD v 0),
      peerDed := ded, pool := pool, shared := pool - k.usedShared.sum }

/-- Bring-up reaches UP or RESTRICTED (event 8). -/
def State.comeUp (s : State) (p : Nat) : State :=
  let t := s.updPort p fun k => { k with state := 3, phase := 0, retryAt := none }
  ((t.judgePort p).raise (evPort p) 0).add32 (blkPort p + 0x78) 1

/-! ## Leaving UP (R391) -/

/-- The port's own part of a link-down: buffers and part messages go, LINK_DOWN sets and a record is written. -/
def State.dropLink (s : State) (p next : Nat) : State :=
  let t := s.updPort p fun k =>
    { Port.reset with state := next, weak := k.weak, arrived := k.arrived, inbox := k.inbox, violationsAt := k.violationsAt,
                      heldDed := k.heldDed, heldShared := k.heldShared }
  (t.raise (evPort p) 1).logEvent { cause := 0x0401, cls := 2, unit := 0x60 + p }

/-- A retrain begins (R382): the replay buffer and the SEQ count stay. -/
def State.startRetrain (s : State) (p : Nat) : State :=
  if (s.port p).retrain.isSome then s
  else s.updPort p fun k => { k with retrain := some s.now, nakCount := 0 }

end Sys2Proof.Machine
end

