-- ==== Sys2Proof/Machine/RefOrder.lean ====
section
/-! DEFINITION. The reference order of operations (chapter 8): block sums, the pairwise tree, the dot product of R215. -/

namespace Sys2Proof.Machine

/-- floor(|p| ÷ 2^q) of a finite value: the alignment and truncation of R214. -/
def truncTo (q : Int) : Fp → Nat
  | .fin _ m e => if q ≤ e then m * 2 ^ (e - q).toNat else m / 2 ^ (q - e).toNat
  | _ => 0

/-- The signed, truncated term of one product. -/
def blockTerm (q : Int) (p : Fp) : Int := if p.sign then -(truncTo q p : Int) else (truncTo q p : Int)

/-- The largest exponent among the products that are not zero. -/
def leadMax : List Fp → Option Int
  | [] => none
  | p :: ps =>
    match leadMax ps with
    | none => if p.isZero then none else some p.lead
    | some e => if p.isZero then some e else some (max p.lead e)

/-- One FP32 block sum of up to 32 exact products (R214). -/
def blockSum (ps : List Fp) : Fp :=
  if ps.any Fp.isNan then .nan
  else if ps.any (fun p => p == .inf false) && ps.any (fun p => p == .inf true) then .nan
  else
    match ps.find? Fp.isInf with
    | some p => p
    | none =>
      match leadMax ps with
      | none => if ps.all Fp.sign then .fin true 0 0 else .zero
      | some e =>
        let q := e - 48
        let t := (ps.map (blockTerm q)).sum
        if t = 0 then .zero else round32 (.fin (decide (t < 0)) t.natAbs q)

/-- The largest power of two less than n, for n above 1. -/
def splitAt (n : Nat) : Nat := 2 ^ Nat.log2 (n - 1)

/-- The pairwise sum of R215, each addition rounded; by fuel. -/
def treeSum : Nat → List Fp → Fp
  | 0, _ => .zero
  | k + 1, xs =>
    match xs with
    | [] => .zero
    | [x] => x
    | _ =>
      let p := splitAt xs.length
      addF (treeSum k (xs.take p)) (treeSum k (xs.drop p))

/-- The sum of a list by the tree. -/
def tree (xs : List Fp) : Fp := treeSum xs.length xs

/-- Cuts a list into groups of n, by fuel. -/
def groups {α : Type} (n : Nat) : Nat → List α → List (List α)
  | 0, _ => []
  | k + 1, xs => if xs.isEmpty then [] else xs.take n :: groups n k (xs.drop n)

/-- The value of one output element from its K exact products in order (R213, R215): +0 where K is 0. -/
def referenceDot (ps : List Fp) : Fp :=
  if ps.isEmpty then .zero else tree ((groups 32 ps.length ps).map blockSum)

end Sys2Proof.Machine
end

