-- ==== Sys2Proof/Machine/Elementary.lean ====
section
/-! DEFINITION. The functions the vector engines round correctly (R228): division, RSQRT, EXP, LOG, TANH, SIGMOID. Each is computed
in fixed point with 320 fraction bits and a bit that marks the discarded part, then rounded once to FP32
(notes/assumptions/14.md). -/

namespace Sys2Proof.Machine

/-- Fraction bits of the fixed point. -/
def fracBits : Nat := 320

/-- 1 in fixed point. -/
def fxOne : Nat := 2 ^ fracBits

/-- ln 2 in fixed point, rounded down. -/
def fxLn2 : Nat := 1480553391661173448385607439722553250922680800745876974795605978609098082859138712941075737848984

/-- A positive fixed-point number times 2^k with a part below it that was discarded, rounded to FP32. -/
def fxRound (neg : Bool) (v : Nat) (k : Int) : Fp := round32 (.fin neg (2 * v + 1) (k - fracBits - 1))

/-- m × 2^e in fixed point, rounded down. -/
def toFx (m : Nat) (e : Int) : Nat :=
  if 0 ≤ e + fracBits then m * 2 ^ (e + fracBits).toNat else m / 2 ^ (-(e + fracBits)).toNat

/-- The quotient of two finite values that are not zero, correctly rounded. -/
def divFinite (neg : Bool) (m : Nat) (e : Int) (n : Nat) (f : Int) : Fp :=
  let w := m * 2 ^ (64 + Nat.log2 n) / n
  let exact := m * 2 ^ (64 + Nat.log2 n) % n = 0
  round32 (.fin neg (2 * w + bit (!exact)) (e - f - 65 - Nat.log2 n))

/-- Division as IEEE 754 gives it, correctly rounded. -/
def div32 (x y : Fp) : Fp :=
  match x, y with
  | .nan, _ => .nan
  | _, .nan => .nan
  | .inf _, .inf _ => .nan
  | .inf a, .fin b _ _ => .inf (xor a b)
  | .fin a _ _, .inf b => .fin (xor a b) 0 0
  | .fin a m e, .fin b n f =>
    if n = 0 then (if m = 0 then .nan else .inf (xor a b))
    else if m = 0 then .fin (xor a b) 0 0
    else divFinite (xor a b) m e n f

/-- The integer square root, one bit at a time from 2^k. -/
def isqrtFrom : Nat → Nat → Nat → Nat
  | 0, n, r => if (r + 1) * (r + 1) ≤ n then r + 1 else r
  | k + 1, n, r =>
    let t := r + 2 ^ (k + 1)
    if t * t ≤ n then isqrtFrom k n t else isqrtFrom k n r

def isqrt (n : Nat) : Nat := isqrtFrom (Nat.log2 n / 2 + 1) n 0

/-- 1 ÷ √x (R228). -/
def rsqrt32 (x : Fp) : Fp :=
  match x with
  | .nan => .nan
  | .inf s => if s then .nan else .zero
  | .fin s m e =>
    if m = 0 then .inf s
    else if s then .nan
    else
      let m' := if e % 2 = 0 then m else 2 * m
      let e' := if e % 2 = 0 then e else e - 1
      fxRound false (isqrt (2 ^ (2 * fracBits) / m')) (-(e' / 2))

/-- Σ r^i ÷ i! in fixed point, by a number of terms: the term, its index and the sum so far. -/
def expSeries (r : Nat) : Nat → Nat → Nat → Nat → Nat
  | 0, _, _, acc => acc
  | k + 1, i, term, acc =>
    let t := term * r / fxOne / i
    expSeries r k (i + 1) t (acc + t)

/-- e^r for r in [0, ln 2), in fixed point. -/
def fxExp (r : Nat) : Nat := expSeries r 80 1 fxOne fxOne

/-- e^(±m × 2^e) as a fixed-point number and a power of two. -/
def expParts (neg : Bool) (m : Nat) (e : Int) : Nat × Int :=
  let x : Int := if neg then -(toFx m e : Int) else (toFx m e : Int)
  let k := x / (fxLn2 : Int)
  (fxExp (x - k * fxLn2).toNat, k)

/-- Is the magnitude of m × 2^e at least 2^k? -/
def atLeastPow (m : Nat) (e k : Int) : Bool := m != 0 && decide (k ≤ e + Nat.log2 m)

/-- exp(x) (R228). -/
def exp32 (x : Fp) : Fp :=
  match x with
  | .nan => .nan
  | .inf s => if s then .zero else .inf false
  | .fin s m e =>
    if m = 0 then .one
    else if atLeastPow m e 8 then (if s then .zero else .inf false)
    else
      let p := expParts s m e
      fxRound false p.1 p.2

/-- Σ z^(2i+1) ÷ (2i + 1) in fixed point, by a number of terms. -/
def atanhSeries (z2 : Nat) : Nat → Nat → Nat → Nat → Nat
  | 0, _, _, acc => acc
  | k + 1, i, pow, acc => atanhSeries z2 k (i + 2) (pow * z2 / fxOne) (acc + pow / i)

/-- ln y for y in [1, 2), in fixed point. -/
def fxLog (y : Nat) : Nat :=
  let z := (y - fxOne) * fxOne / (y + fxOne)
  2 * atanhSeries (z * z / fxOne) 110 1 z 0

/-- log(x) (R228). -/
def log32 (x : Fp) : Fp :=
  match x with
  | .nan => .nan
  | .inf s => if s then .nan else .inf false
  | .fin s m e =>
    if m = 0 then .inf true
    else if s then .nan
    else
      let k := e + Nat.log2 m
      let y := m * 2 ^ (fracBits - Nat.log2 m)
      let v := k * (fxLn2 : Int) + (fxLog y : Int)
      if k = 0 && y = fxOne then .zero else fxRound (decide (v < 0)) v.natAbs 0

/-- e^-|m × 2^e| in fixed point. -/
def fxDecay (m : Nat) (e : Int) : Nat :=
  let p := expParts true m e
  p.1 / 2 ^ (-p.2).toNat

/-- tanh(x) (R228). -/
def tanh32 (x : Fp) : Fp :=
  match x with
  | .nan => .nan
  | .inf s => .fin s 1 0
  | .fin s m e =>
    if m = 0 then .fin s 0 0
    else if atLeastPow m e 6 then round32 (.fin s 1 0)
    else
      let t := fxDecay m (e + 1)
      fxRound s ((fxOne - t) * fxOne / (fxOne + t)) 0

/-- 1 ÷ (1 + e^-x) (R228). -/
def sigmoid32 (x : Fp) : Fp :=
  match x with
  | .nan => .nan
  | .inf s => if s then .zero else .one
  | .fin s m e =>
    if atLeastPow m e 8 then (if s then .zero else .one)
    else
      let t := fxDecay m e
      if s then fxRound false (t * fxOne / (fxOne + t)) 0 else fxRound false (fxOne * fxOne / (fxOne + t)) 0

/-! ## Philox4x32-10 (R242) -/

/-- One round of Philox4x32: counter words and key words. -/
def philoxRound (c : Nat × Nat × Nat × Nat) (k : Nat × Nat) : Nat × Nat × Nat × Nat :=
  let p0 := 0xD2511F53 * c.1
  let p1 := 0xCD9E8D57 * c.2.2.1
  ((p1 / 2 ^ 32) ^^^ c.2.1 ^^^ k.1, p1 % 2 ^ 32, (p0 / 2 ^ 32) ^^^ c.2.2.2 ^^^ k.2, p0 % 2 ^ 32)

/-- n rounds, the key bumped between them. -/
def philoxRounds : Nat → Nat × Nat × Nat × Nat → Nat × Nat → Nat × Nat × Nat × Nat
  | 0, c, _ => c
  | n + 1, c, k => philoxRounds n (philoxRound c k) ((k.1 + 0x9E3779B9) % 2 ^ 32, (k.2 + 0xBB67AE85) % 2 ^ 32)

/-- The uniform of draw d: (w >> 8) × 2^-24 + 2^-25. -/
def uniform (seed sequence position d : Nat) : Fp :=
  let r := philoxRounds 10 (position % 2 ^ 32, sequence % 2 ^ 32, d / 4 % 2 ^ 32, 0) (seed % 2 ^ 32, seed / 2 ^ 32 % 2 ^ 32)
  let w := if d % 4 = 0 then r.1 else if d % 4 = 1 then r.2.1 else if d % 4 = 2 then r.2.2.1 else r.2.2.2
  .fin false (2 * (w / 256) + 1) (-25)

end Sys2Proof.Machine
end

