-- ==== Sys2Proof/Machine/Tensor.lean ====
section
/-! DEFINITION. Tensors in memory: element widths (R158), row-major arrays with their MX scales (R189, R234), the pavé layouts
(R159, R160), and the end of a command that reads or writes them (Table 6-8). -/

namespace Sys2Proof.Machine

open Sys2Proof

/-! ## Elements -/

/-- The bits an element occupies in memory (R158): MXFP6 one per byte, MXFP4 two per byte. -/
def storeBits (code : Nat) : Nat := if code = 0x08 || code = 0x09 then 8 else elemBits code

/-- The element pattern at a bit offset from a device address. -/
def State.patternAt (s : State) (code base off : Nat) : Nat :=
  if code = 0x0A then s.natAt (base + off / 8) 1 / 2 ^ (off % 8) % 16 else s.natAt (base + off / 8) (storeBits code / 8)

/-- The value of an element that has no block, at a bit offset. -/
def State.elemAt (s : State) (code base off : Nat) : Fp := readElem code (s.patternAt code base off)

/-- The bytes of a list of element patterns. -/
def packElems (code : Nat) : List Nat → List Byte
  | [] => []
  | w :: ws =>
    if code = 0x0A then
      match ws with
      | [] => [BitVec.ofNat 8 (w % 16)]
      | v :: vs => BitVec.ofNat 8 (w % 16 + v % 16 * 16) :: packElems code vs
    else leBytes (storeBits code / 8) w ++ packElems code ws
termination_by structural ws => ws

/-! ## Row-major arrays (R189, R234) -/

/-- Bytes of n elements. -/
def elemsBytes (code n : Nat) : Nat := (n * storeBits code + 7) / 8

/-- The address of the MX scales that follow an element array (R234). -/
def scalesAfter (code addr n : Nat) : Nat := (addr + elemsBytes code n + 63) / 64 * 64

/-- The bytes of one row of a GT array. -/
def gtRowBytes (code cols : Nat) : Nat := cols / 64 * gtBytes (code == 0x19)

/-- Is a format code a GT format? -/
def isGt (code : Nat) : Bool := code == 0x18 || code == 0x19

/-- The ranges an array of rows × cols occupies: its elements, and its scales where it is MX. -/
def arrayRanges (code addr rows cols : Nat) : List (Nat × Nat) :=
  if isGt code then [(addr, rows * gtRowBytes code cols)]
  else (addr, elemsBytes code (rows * cols))
    :: (if isMx code then [(scalesAfter code addr (rows * cols), rows * cols / 32)] else [])

/-- The GT block at an address; none where it is malformed. -/
def State.gtAt (s : State) (wide : Bool) (a : Nat) : Option GtBlock := gtRead wide (s.bytesAt a (gtBytes wide))

/-- Element (i, j) of a row-major array, with its block's scale or its GT header. A malformed GT block reads as NaN. -/
def State.arrayElem (s : State) (code addr rows cols i j : Nat) : Fp :=
  let n := i * cols + j
  if isGt code then
    match s.gtAt (code == 0x19) (addr + i * gtRowBytes code cols + j / 64 * gtBytes (code == 0x19)) with
    | some b => b.value (j % 64)
    | none => .nan
  else if isMx code then
    readMx code (s.natAt (scalesAfter code addr (rows * cols) + n / 32) 1) (s.patternAt code addr (n * storeBits code))
  else s.elemAt code addr (n * storeBits code)

/-- A row of a row-major array. -/
def State.arrayRow (s : State) (code addr rows cols i : Nat) : List Fp :=
  (List.range cols).map fun j => s.arrayElem code addr rows cols i j

/-! ## Converting and writing rows -/

/-- Converts a row: its elements and, for an MX format, the scales of its blocks (R191, R200). -/
def convertRow (code : Nat) (scale : Int) (ys : List Fp) : List Conv × List Nat :=
  if isMx code then
    let bs := (groups 32 ys.length ys).map (writeMx code)
    (bs.flatMap Prod.snd, bs.map Prod.fst)
  else (ys.map fun y => convertTo code (y.shift scale), [])

/-- What converting some rows gives. -/
structure Converted where
  elems : List Conv
  scales : List Nat
  deriving Repr

def convertRows (code : Nat) (scale : Int) (rows : List (List Fp)) : Converted :=
  let cs := rows.map (convertRow code scale)
  ⟨cs.flatMap Prod.fst, cs.flatMap Prod.snd⟩

/-- Pieces in ascending order, joined where one ends at the next one's start. -/
def joinRuns : List (Nat × List Byte) → List (Nat × List Byte)
  | [] => []
  | r :: rs =>
    match joinRuns rs with
    | [] => [r]
    | x :: xs => if r.1 + r.2.length = x.1 then (r.1, r.2 ++ x.2) :: xs else r :: x :: xs

/-- Converted rows as they lie row-major at an address, with their scales after them. -/
def rowRuns (code addr : Nat) (v : Converted) : List (Nat × List Byte) :=
  (addr, packElems code (v.elems.map Conv.bits))
    :: (if isMx code then [(scalesAfter code addr v.elems.length, v.scales.flatMap (leBytes 1))] else [])

def State.writeRuns (s : State) (rs : List (Nat × List Byte)) : State := rs.foldl (fun (t : State) r => t.writeMem r.1 r.2) s

/-- Writes converted rows row-major at an address. -/
def State.writeRows (s : State) (code addr : Nat) (v : Converted) : State := s.writeRuns (rowRuns code addr v)

/-- The largest finite magnitude among values, as an FP32 pattern. -/
def amaxBits (ys : List Fp) : Nat := toF32 (amaxOf ys)

/-! ## Ranges a command reads and writes -/

/-- The status of reading several ranges (R180: the highest row of Table 6-8). -/
def State.rangesStatus (s : State) (rs : List (Nat × Nat)) : Option Nat :=
  rs.foldl (fun st r => worse st (s.readStatus r.1 r.2)) none

/-- What reading several ranges leaves behind. -/
def State.noteRanges (s : State) (master : Nat) (rs : List (Nat × Nat)) : State :=
  rs.foldl (fun t r => t.noteRead master r.1 r.2) s

def State.poisonRanges (s : State) (rs : List (Nat × Nat)) : State := rs.foldl (fun t r => t.poisonRange r.1 r.2) s

/-- The status that writing several ranges ends with: SUCCESS, or POISONED and the like where a part is lost (R316). -/
def State.outStatus (s : State) (rs : List (Nat × Nat)) : Nat :=
  (rs.foldl (fun st r => worse st (s.writeStatus r.1 r.2)) none).getD stSuccess

/-- Judges every range for an accepted command. -/
def State.rangesFail (s : State) (c : Cmd) (rs : List (Nat × Nat)) (write : Bool) (detail : Nat) : Option Refuse :=
  rs.findSome? fun r => refuseRange (s.rangeOf c r.1 r.2 write) detail

/-- Does a bank range hold a byte with bad parity? -/
def State.parityBad (s : State) (rs : List (Nat × Nat)) : Bool := rs.any fun r => !(s.parityIn r.1 r.2).isEmpty

/-- Does a range hold poisoned data? -/
def State.poisonIn (s : State) (rs : List (Nat × Nat)) : Bool :=
  rs.any fun r => (s.unitsOf r.1 r.2).any fun u => s.unitStatus u == some stPoisoned

/-! ## When the pavés and engines run -/

/-- Do beats complete (R69, R544)? -/
def State.beating (s : State) : Bool := s.power.state == .active && !s.gov.pausedPower && !s.gov.pausedThermal

/-- Work for a pavé or engine wakes the device from IDLE (R544). -/
def State.wake (s : State) : State := { s with power := { s.power with waking := true } }

/-- Work for pavés or engines: from IDLE it wakes the device and waits (R545); during a pause it waits (R177). -/
def State.onRing (s : State) (f : State → State) : State :=
  if s.power.state = .idle then s.wake
  else if !s.beating then s
  else f { s with power := { s.power with idleSince := s.now } }

/-- The order of the accesses of pavés and engines outside the banks is not the model's: the cache then holds lines the model does not
know (notes/assumptions/29.md). -/
def State.streamed (s : State) (c : Cmd) : State :=
  if c.needs.any fun x => match x with | .range a _ => decide (a < bankBase) | _ => false then s.uncountedAccess else s

/-- Starts a command that needs a pavé or an engine; while its scale is not fixed it waits (R202). -/
def State.startCompute (s : State) (opcode : Nat) (r : CmdRef) (f : Cmd → State → State) : State :=
  s.start opcode r fun c s => s.onRing fun s => if c.histSlot != 0 && c.scale.isNone then s else f c (s.streamed c)

/-- Is a unit fenced? -/
def State.isFenced (s : State) (u : Nat) : Bool := s.units.fenced.contains u

end Sys2Proof.Machine
end

