-- ==== Sys2Proof/Machine/Engine.lean ====
section
/-! DEFINITION. The vector engines (chapter 9): VOP and SAMPLE, the operations of Table 9-2, the residue adder, and how they end. -/

namespace Sys2Proof.Machine

open Sys2Proof

/-! ## The row operations of Table 9-2 -/

/-- Two elements compared for MAX: NaN if either is NaN; +0 ranks above -0. -/
def maxFp (x y : Fp) : Fp :=
  if x.isNan || y.isNan then .nan
  else if x.lt y then y
  else if y.lt x then x
  else if x.sign then y else x

def minFp (x y : Fp) : Fp := (maxFp x.neg y.neg).neg

/-- RMSNORM (R236). -/
def rmsnorm (eps : Fp) (xs ws : List Fp) : List Fp :=
  let ss := tree (xs.map fun x => mulF x x)
  let r := rsqrt32 (addF (div32 ss (Fp.ofInt xs.length)) eps)
  (xs.zip ws).map fun p => mulF (mulF p.1 r) p.2

/-- LAYERNORM (R236). -/
def layernorm (eps : Fp) (xs ws bs : List Fp) : List Fp :=
  let n := Fp.ofInt xs.length
  let mu := div32 (tree xs) n
  let ds := xs.map fun x => subF x mu
  let r := rsqrt32 (addF (div32 (tree (ds.map fun d => mulF d d)) n) eps)
  (ds.zip (ws.zip bs)).map fun p => addF (mulF (mulF p.1 r) p.2.1) p.2.2

/-- The maximum of a row, as MAX compares; -∞ where it has no element. -/
def rowMax (xs : List Fp) : Fp :=
  match xs with
  | [] => .inf true
  | x :: rest => rest.foldl maxFp x

/-- SOFTMAX (R237). -/
def softmax (p0 : Fp) (xs : List Fp) : List Fp :=
  let zs := xs.map fun x => mulF x p0
  if zs.any Fp.isNan then zs.map fun _ => .nan
  else
    let m := rowMax zs
    if m = .inf true then zs.map fun _ => .zero
    else
      let es := zs.map fun z => exp32 (subF z m)
      let t := tree es
      es.map fun e => div32 e t

/-- Does a come before b in descending order, NaN first? Equal values keep their order. -/
def ranksAbove (a b : Fp) : Bool := (a.isNan && !b.isNan) || b.lt a

/-- Puts an indexed value in its place: after every value that ranks above it, before its equals. -/
def rankInsert (p : Nat × Fp) : List (Nat × Fp) → List (Nat × Fp)
  | [] => [p]
  | q :: qs => if ranksAbove q.2 p.2 then q :: rankInsert p qs else p :: q :: qs

/-- The values of a row with their indices, descending, lowest index first among equals, NaN first (R238, R244). -/
def ranked (xs : List Fp) : List (Nat × Fp) := ((List.range xs.length).zip xs).foldr rankInsert []

def silu (x y : Fp) : Fp := mulF (mulF x (sigmoid32 x)) y

/-- The integer of an INT32 result, modulo 2^32. -/
def wrap32 (i : Int) : Int := signedOf 32 (patternOf 32 i)

/-- The integer an integral value holds. -/
def Fp.toInt (x : Fp) : Int := roundInt x

/-- An element-wise operation on integers, modulo 2^32 (R227). -/
def intOp (op : Nat) (x y : Int) : Int :=
  if op = 0x0002 then wrap32 (x + y)
  else if op = 0x0003 then wrap32 (x * y)
  else if op = 0x0004 then max x y
  else if op = 0x0005 then min x y
  else x

/-- An element-wise operation in FP32. -/
def floatOp (op : Nat) (p0 p1 x y : Fp) : Fp :=
  if op = 0x0002 then addF x y
  else if op = 0x0003 then mulF x y
  else if op = 0x0004 then maxFp x y
  else if op = 0x0005 then minFp x y
  else if op = 0x0006 then addF (mulF p0 x) (mulF p1 y)
  else if op = 0x0008 then exp32 x
  else if op = 0x0009 then log32 x
  else if op = 0x000A then rsqrt32 x
  else if op = 0x000B then tanh32 x
  else if op = 0x000C then sigmoid32 x
  else if op = 0x000D then silu x y
  else x

/-! ## Parameters (Table 9-1) -/

structure Vop where
  op : Nat
  fmtX : Nat
  fmtY : Nat
  fmtOut : Nat
  rows : Nat
  cols : Nat
  x : Nat
  y : Nat
  out : Nat
  aux : Nat
  p0 : Nat
  p1 : Nat
  deriving DecidableEq, Repr

def Cmd.vop (c : Cmd) : Vop :=
  { op := c.param 32 2, fmtX := c.param 34 1, fmtY := c.param 35 1, fmtOut := c.param 36 1, rows := c.param 44 4,
    cols := c.param 48 4, x := c.param 56 8, y := c.param 64 8, out := c.param 72 8, aux := c.param 80 8, p0 := c.param 88 4,
    p1 := c.param 92 4 }

def vopOps : List Nat :=
  [0x0001, 0x0002, 0x0003, 0x0004, 0x0005, 0x0006, 0x0008, 0x0009, 0x000A, 0x000B, 0x000C, 0x000D, 0x0020, 0x0021, 0x0022,
   0x0023, 0x0024, 0x0025, 0x0030, 0x0031, 0x0032, 0x0040]

/-- Operations that read Y; QUANT reads it where Y_ADDR is not 0. -/
def Vop.readsY (v : Vop) : Bool :=
  [0x0002, 0x0003, 0x0004, 0x0005, 0x0006, 0x000D, 0x0020, 0x0021, 0x0040].contains v.op || (v.op == 0x0030 && v.y != 0)

def isInt (code : Nat) : Bool := code == 0x10 || code == 0x11

/-- Formats an ordinary operand may have. -/
def plainFormat (code : Nat) : Bool := (1 ≤ code && code ≤ 0x0B) || isInt code

def isFp8 (code : Nat) : Bool := code == 0x04 || code == 0x05

/-- Operations that use P0-P3 as FP32 parameters or read an integer there (R227). -/
def Vop.usesP (v : Vop) : Bool := [0x0006, 0x0020, 0x0021, 0x0022, 0x0025, 0x0032].contains v.op

/-- Does the operation work in INT32 (R227)? -/
def Vop.integral (v : Vop) : Bool := isInt v.fmtX && isInt v.fmtOut && !v.usesP && v.op != 0x0032 && v.op != 0x0040

/-- Elements of OUT per row. -/
def Vop.outCols (v : Vop) : Nat :=
  if v.op = 0x0023 || v.op = 0x0024 then 1 else if v.op = 0x0025 then v.p0 else v.cols

/-- Is the X format one the operation accepts? -/
def Vop.xOk (v : Vop) : Bool :=
  if v.op = 0x0040 then isGt v.fmtX
  else if v.op = 0x0031 then plainFormat v.fmtX || isGt v.fmtX
  else if v.op = 0x0032 then supportedFormats.contains v.fmtX
  else plainFormat v.fmtX

def Vop.yOk (v : Vop) : Bool :=
  if !v.readsY then v.fmtY == 0
  else if v.op = 0x0040 then isGt v.fmtY
  else if v.op = 0x0030 then v.fmtY == 0x02
  else plainFormat v.fmtY

def Vop.outOk (v : Vop) : Bool :=
  if v.op = 0x0040 then v.fmtOut == 0x19
  else if v.op = 0x0030 then isFp8 v.fmtOut || isMx v.fmtOut || v.fmtOut == 0x18
  else if v.op = 0x0023 || v.op = 0x0024 then (if isInt v.fmtX then v.fmtOut == 0x11 else v.fmtOut == 0x01)
  else if [0x0008, 0x0009, 0x000A, 0x000B, 0x000C, 0x000D].contains v.op && v.integral then false
  else plainFormat v.fmtOut

/-- Is a row length legal for a format (Table 9-1)? -/
def colsOk (code cols : Nat) : Bool := if isGt code then cols % 64 == 0 else if isMx code then cols % 32 == 0 else true

/-! ## Ranges -/

/-- Rows of the Y operand: the gains are one row. -/
def Vop.yRows (v : Vop) : Nat := if v.op = 0x0020 || v.op = 0x0021 then 1 else v.rows

def Vop.xRanges (v : Vop) : List (Nat × Nat) :=
  if v.op = 0x0032 then [(v.x, 16 * v.rows)] else arrayRanges v.fmtX v.x v.rows v.cols

def Vop.yRanges (v : Vop) : List (Nat × Nat) := if v.readsY then arrayRanges v.fmtY v.y v.yRows v.cols else []

/-- AUX as an input: the biases of LAYERNORM. -/
def Vop.auxIn (v : Vop) : List (Nat × Nat) := if v.op = 0x0021 then arrayRanges v.fmtY v.aux 1 v.cols else []

/-- AUX as an output: the indices of TOPK, the residuals of QUANT. -/
def Vop.auxOut (v : Vop) : List (Nat × Nat) :=
  if v.op = 0x0025 then [(v.aux, 4 * v.rows * v.p0)]
  else if v.op = 0x0030 && v.y != 0 then [(v.aux, 2 * v.rows * v.cols)]
  else []

/-- The counts of PHILOX's row table. -/
def State.philoxCount (s : State) (v : Vop) : Nat := ((List.range v.rows).map fun i => s.natAt (v.x + 16 * i + 12) 4).sum

def State.vopOut (s : State) (v : Vop) : List (Nat × Nat) :=
  if v.op = 0x0032 then arrayRanges v.fmtOut v.out 1 (s.philoxCount v) else arrayRanges v.fmtOut v.out v.rows v.outCols

/-! ## Refusals (R227, R234, R235, R238, R239) -/

/-- The engines of a mask that run a command. -/
def State.enginesOf (s : State) (mask : Nat) (any : Bool) : List Nat :=
  let m := bitsBelow 32 mask
  if any then m.filter fun n => !s.isFenced (0x10 + n) else m

/-- The refusals about a VE_MASK at an offset. -/
def State.maskFails (s : State) (c : Cmd) (off : Nat) (any : Bool) : List (Option Refuse) :=
  let mask := c.param off 4
  let es := s.enginesOf mask any
  [ refuseIf (mask = 0) stOutOfRange off
  , refuseIf ((bitsBelow 32 mask).any fun n => !(s.berthVes c.epoch c.berth).testBit n) stBerthOwnership
  , refuseIf (es.isEmpty || es.any fun n => s.isFenced (0x10 + n)) stUnitFenced
  , refuseIf (es.any fun n => s.power.gated.testBit (n / 8)) stUnitFenced ]

/-- The judgements of VOP's formats and shape. -/
def Vop.shapeFails (v : Vop) (hist scale : Nat) : List (Option Refuse) :=
  [ refuseIf (!vopOps.contains v.op) stOutOfRange 32
  , refuseIf (!v.xOk) stOutOfRange 34
  , refuseIf (!v.yOk) stOutOfRange 35
  , refuseIf (v.readsY && v.op ≠ 0x0040 && isInt v.fmtX != isInt v.fmtY) stOutOfRange 35
  , refuseIf (!v.outOk) stOutOfRange 36
  , refuseIf (!(colsOk v.fmtX v.cols || v.op = 0x0032) || !(colsOk v.fmtY v.cols) || !(colsOk v.fmtOut v.outCols)) stOutOfRange 48
  , refuseIf (v.fmtOut = 0x18 && hist = 0) stOutOfRange 52
  , refuseIf (scale ≠ 0 && (!isFp8 v.fmtOut || hist ≠ 0)) stOutOfRange 54
  , refuseIf (isFp8 v.fmtOut && scale = 0x80) stOutOfRange 54
  , refuseIf (v.op = 0x0025 && (v.p0 = 0 || 1024 < v.p0 || v.cols < v.p0)) stOutOfRange 88 ]

def State.vopFails (s : State) (c : Cmd) : List (Option Refuse) :=
  let v := c.vop
  v.shapeFails (c.param 52 2) (c.param 54 1) ++ s.maskFails c 40 (bitOf (c.param 37 1) 0)
  ++ [ refuseIf (!s.assayAllowed c (c.param 38 2)) stBerthOwnership
     , refuseRange (s.histFails c (c.param 52 2) v.fmtOut) 52
     , s.rangesFail c v.xRanges false 56, s.rangesFail c v.yRanges false 64, s.rangesFail c (s.vopOut v) true 72
     , s.rangesFail c v.auxIn false 80, s.rangesFail c v.auxOut true 80 ]

/-! ## The residue adder (R245, R246) -/

/-- What becomes of one pair of blocks. -/
inductive GtSum where
  | sum (b : GtBlock) (clamped vanished : Nat)
  /-- Step 1 or 2 fails. -/
  | bad
  /-- Two derivations disagree. -/
  | mismatch
  deriving DecidableEq, Repr

/-- Escalates a block up to an ESC, by fuel: the block and whether every step agreed. -/
def escalateTo (esc : Nat) : Nat → GtBlock → GtBlock × Bool
  | 0, b => (b, true)
  | k + 1, b =>
    if b.esc < esc then
      let r := b.escalate
      if r.2 then escalateTo esc k r.1 else (r.1, false)
    else (b, true)

/-- Escalates a sum while an element is out of range and ESC is below 15, by fuel. -/
def escalateSum : Nat → GtBlock → GtBlock × Bool
  | 0, b => (b, true)
  | k + 1, b =>
    if !b.inRange && b.esc < 15 then
      let r := b.escalate
      if r.2 then escalateSum k r.1 else (r.1, false)
    else (b, true)

/-- Adds two GT16 blocks (R245). -/
def gtAdd (a b : GtBlock) : GtSum :=
  if !a.checked || !b.checked || a.scale ≠ b.scale then .bad
  else
    let e := max a.esc b.esc
    let ra := escalateTo e 15 a.widen
    let rb := escalateTo e 15 b.widen
    if !ra.2 || !rb.2 then .mismatch
    else
      let vs := (ra.1.elems.zip rb.1.elems).map fun p => p.1 + p.2
      let r := (ra.1.residue + rb.1.residue) % 251
      if r ≠ residueOf vs then .mismatch
      else
        let c : GtBlock :=
          ⟨true, a.scale, a.saturated || b.saturated, a.ringEsc || b.ringEsc || decide (a.esc ≠ b.esc),
            a.sourceEsc || b.sourceEsc, e, r, vs⟩
        let t := escalateSum 15 c
        if !t.2 then .mismatch
        else
          let d := t.1.clamp
          let f := { d.1 with ringEsc := d.1.ringEsc || decide (e < d.1.esc) }
          .sum f d.2 ((vs.zip f.elems).filter fun p => p.1 != 0 && p.2 == 0).length

/-! ## Values of the other operations -/

/-- An operand's row, widened to FP32 (R227). -/
def State.widenRow (s : State) (code addr rows cols i : Nat) : List Fp := (s.arrayRow code addr rows cols i).map round32

/-- The result of one row before conversion; indices for TOPK. -/
def State.vopRow (s : State) (v : Vop) (i : Nat) : List Fp × List Nat :=
  let p0 := ofF32 v.p0
  let p1 := ofF32 v.p1
  let xs := s.widenRow v.fmtX v.x v.rows v.cols i
  let ys := if v.readsY then s.widenRow v.fmtY v.y v.yRows v.cols (if v.yRows = 1 && v.rows ≠ 1 then 0 else i) else xs
  if v.integral then
    let xi := (s.arrayRow v.fmtX v.x v.rows v.cols i).map Fp.toInt
    let yi := if v.readsY then (s.arrayRow v.fmtY v.y v.rows v.cols i).map Fp.toInt else xi
    if v.op = 0x0023 then ([Fp.ofInt (wrap32 xi.sum)], [])
    else if v.op = 0x0024 then ([Fp.ofInt (xi.foldl max (xi.headD 0))], [])
    else ((xi.zip yi).map fun p => Fp.ofInt (intOp v.op p.1 p.2), [])
  else if v.op = 0x0020 then (rmsnorm p0 xs (s.widenRow v.fmtY v.y 1 v.cols 0), [])
  else if v.op = 0x0021 then
    (layernorm p0 xs (s.widenRow v.fmtY v.y 1 v.cols 0) (s.widenRow v.fmtY v.aux 1 v.cols 0), [])
  else if v.op = 0x0022 then (softmax p0 xs, [])
  else if v.op = 0x0023 then ([tree xs], [])
  else if v.op = 0x0024 then ([rowMax xs], [])
  else if v.op = 0x0025 then
    let top := (ranked xs).take v.p0
    (top.map Prod.snd, top.map Prod.fst)
  else ((xs.zip ys).map fun p => floatOp v.op p0 p1 p.1 p.2, [])

/-- The uniforms of PHILOX's row table (R242). -/
def State.philoxRow (s : State) (v : Vop) (i : Nat) : List Fp :=
  let e := v.x + 16 * i
  let seed := v.p0 + v.p1 * 2 ^ 32
  (List.range (s.natAt (e + 12) 4)).map fun d => uniform seed (s.natAt e 4) (s.natAt (e + 4) 4) (s.natAt (e + 8) 4 + d)

/-! ## QUANT (R239) -/

/-- What quantising gives: the bytes, the assay's counts, the values that fold into the history, the new residuals. -/
structure Quantised where
  bytes : List Byte
  scales : List Nat
  counts : Counts
  folded : List Fp
  residuals : List Nat
  deriving Repr

def Quantised.join (a b : Quantised) : Quantised :=
  ⟨a.bytes ++ b.bytes, a.scales ++ b.scales, a.counts.plus b.counts, a.folded ++ b.folded, a.residuals ++ b.residuals⟩

def bf16Bits (x : Fp) : Nat := (bf16Format.convert x).bits

/-- One GT8 block of 64 values; a block with a non-finite value is written malformed. -/
def quantGt (s : Int) (g : List Fp) : Quantised :=
  if g.all Fp.isFinite then
    let e := gtEncode s g
    ⟨e.1.bytes, [],
      { total := 64, saturated := e.2, vanished := ((g.zip e.1.elems).filter fun p => !p.1.isZero && p.2 == 0).length },
      g, (List.range 64).map fun i => gtResidual s e.1 i (g.getD i .zero)⟩
  else
    ⟨[255] ++ zeros 67, [], { total := 64, nonfinite := (g.filter fun x => !x.isFinite).length }, [], g.map bf16Bits⟩

/-- One MX block. -/
def quantMx (code : Nat) (g : List Fp) : Quantised :=
  let w := writeMx code g
  let value := fun (c : Conv) => readMx code w.1 c.bits
  ⟨packElems code (w.2.map Conv.bits), [w.1], Counts.ofList w.2, g,
    (g.zip w.2).map fun p => if w.1 = 0xFF then bf16Bits p.1 else bf16Bits (subF p.1 (value p.2))⟩

/-- One FP8 element. -/
def quantFp8 (code : Nat) (s : Int) (g : Fp) : Quantised :=
  let c := convertTo code (g.shift s)
  ⟨leBytes 1 c.bits, [], Counts.ofList [c], [g], [bf16Bits (subF g ((readElem code c.bits).shift (-s)))]⟩

/-- Quantises one row. -/
def quantRow (code : Nat) (s : Int) (g : List Fp) : Quantised :=
  let parts :=
    if code = 0x18 then (groups 64 g.length g).map (quantGt s)
    else if isMx code then (groups 32 g.length g).map (quantMx code)
    else g.map (quantFp8 code s)
  parts.foldl Quantised.join ⟨[], [], {}, [], []⟩

/-! ## Running -/

/-- The ranges row i of a VOP reads. -/
def State.vopRowReads (_s : State) (v : Vop) (i : Nat) : List (Nat × Nat) :=
  let row := fun (code addr rows : Nat) (i : Nat) =>
    if isGt code then [(addr + i * gtRowBytes code v.cols, gtRowBytes code v.cols)]
    else (addr + i * v.cols * storeBits code / 8, elemsBytes code v.cols)
      :: (if isMx code then [(scalesAfter code addr (rows * v.cols) + i * v.cols / 32, v.cols / 32)] else [])
  if v.op = 0x0032 then [(v.x + 16 * i, 16)]
  else row v.fmtX v.x v.rows i
    ++ (if v.readsY then row v.fmtY v.y v.yRows (if v.yRows = 1 then 0 else i) else [])
    ++ (if v.op = 0x0021 then row v.fmtY v.aux 1 0 else [])

/-- Does a range hold a byte of a VE bank with bad parity? -/
def State.parityVe (s : State) (rs : List (Nat × Nat)) : Bool :=
  rs.any fun r => (s.parityIn r.1 r.2).any fun p =>
    match bankPlace p with | some k => decide (6 ≤ k.bank.index) && decide (k.bank.index < 14) | none => false

/-- Events of the engines whose rows met bad data (R241): PARITY_VE, POISON_IN. -/
def State.engineReadEvents (s : State) (es : List Nat) (rows : List (List (Nat × Nat))) : State :=
  ((List.range rows.length).zip rows).foldl (fun (t : State) x =>
    let n := es.getD (x.1 % es.length) 0
    let t1 := if s.parityVe x.2 then t.raise (evEngine n) 1 else t
    if s.poisonIn x.2 then t1.raise (evEngine n) 2 else t1) s

/-- Ends a command of the engines whose operands could not be read (Table 6-8). -/
def State.engineAbandon (s : State) (c : Cmd) (es : List Nat) (rows : List (List (Nat × Nat))) (out aux : List (Nat × Nat))
    (st : Nat) : State :=
  let s1 := es.foldl (fun (t : State) n => t.raise (evEngine n) 4) (s.engineReadEvents es rows)
  let s2 := s1.noteRanges 0 (rows.flatten)
  let s3 := aux.foldl (fun (t : State) r => t.undefine r.1 r.2) s2
  (s3.poisonRanges out).finish c.ref { status := st }

/-- What a finished VOP adds to its slots. -/
def State.vopCounts (s : State) (c : Cmd) (k : Counts) (folded : List Fp) : State :=
  s.updCmd c.ref fun d =>
    { d with
      assay := if c.param 38 2 = 0 then none else some (c.param 38 2, c.param 36 1, k),
      amax := if c.param 52 2 = 0 then none else some (c.param 52 2, amaxBits folded) }

/-- Two disagreements on an engine (R246): counted, and the time kept. -/
def State.noteResidue (s : State) (n : Nat) : State :=
  let s1 := (s.sat32 (blkEngine n + 0x28) 1).raise (evEngine n) 3
  let times := (s.now :: (lookup n s.units.residueAt).getD []).take 2
  { s1 with units := { s1.units with residueAt := insert n times s1.units.residueAt } }

/-- The scale exponent VOP converts with: its history slot's, else OUT_SCALE (R200). -/
def Cmd.vopScale (c : Cmd) : Int := if c.param 52 2 = 0 then signedOf 8 (c.param 54 1) else c.scale.getD 0

/-- An addition on an engine, whose residue adder an ENGINE_FAULT can have made disagree: that addition is a mismatch, and the upset is
spent (notes/assumptions/46.md). -/
def State.addOn (s : State) (n : Nat) (a b : GtBlock) : GtSum × State :=
  match gtAdd a b with
  | .bad => (.bad, s)
  | r =>
    if s.units.upset.contains n then (.mismatch, { s with units := { s.units with upset := s.units.upset.erase n } }) else (r, s)

/-- What GT_ADD has done so far. -/
structure GtRun where
  s : State
  /-- The sums, by address. -/
  outs : List (Nat × List Byte)
  /-- Poisoned blocks, by index. -/
  bad : List Nat
  mismatch : Bool
  counts : Counts

/-- One block of GT_ADD. -/
def GtRun.block (s : State) (v : Vop) (es : List Nat) (r : GtRun) (k : Nat) : GtRun :=
  let per := v.cols / 64
  let i := k / per
  let n := es.getD (i % es.length) 0
  let ax := v.x + i * gtRowBytes v.fmtX v.cols + k % per * gtBytes (v.fmtX == 0x19)
  let ay := v.y + i * gtRowBytes v.fmtY v.cols + k % per * gtBytes (v.fmtY == 0x19)
  let x : GtSum × State := match s.gtAt (v.fmtX == 0x19) ax, s.gtAt (v.fmtY == 0x19) ay with
    | some a, some b => r.s.addOn n a b
    | _, _ => (.bad, r.s)
  match x.1 with
  | .sum b cl va =>
    { r with s := x.2.add64 (blkEngine n + 0x20) 1, outs := r.outs ++ [(v.out + k * 132, b.bytes)],
             counts := r.counts.plus { total := 64, saturated := cl, vanished := va } }
  | .bad => { r with s := x.2.raise (evEngine n) 2, bad := r.bad ++ [k] }
  | .mismatch => { r with s := (x.2.add64 (blkEngine n + 0x20) 1).noteResidue n, bad := r.bad ++ [k], mismatch := true }

/-- GT_ADD over the blocks of every row. -/
def State.vopGtAdd (s : State) (c : Cmd) (v : Vop) (es : List Nat) : State :=
  let r := (List.range (v.rows * (v.cols / 64))).foldl (GtRun.block s v es) ⟨s, [], [], false, {}⟩
  let t := r.bad.foldl (fun (t : State) k => t.poisonRange (v.out + k * 132) 132) (r.s.writeRuns (joinRuns r.outs))
  let st := if r.bad.isEmpty then s.outStatus (s.vopOut v) else if r.mismatch then stUnitFault else stUncorrectable
  (t.finish c.ref { status := st, result1 := r.bad.headD 0 }).vopCounts c r.counts []

/-- QUANT over every row. -/
def State.vopQuant (s : State) (c : Cmd) (v : Vop) : State :=
  let scale := c.vopScale
  let q := ((List.range v.rows).map fun i =>
    let xs := s.widenRow v.fmtX v.x v.rows v.cols i
    let g := if v.y = 0 then xs
      else (xs.zip (s.widenRow v.fmtY v.y v.rows v.cols i)).map fun p => addF p.1 p.2
    quantRow v.fmtOut scale g).foldl Quantised.join ⟨[], [], {}, [], []⟩
  let s1 := s.writeMem v.out q.bytes
  let s2 := if isMx v.fmtOut then
    s1.writeMem (scalesAfter v.fmtOut v.out (v.rows * v.cols)) (q.scales.flatMap (leBytes 1)) else s1
  let s3 := if v.y = 0 then s2 else s2.writeMem v.aux (q.residuals.flatMap (leBytes 2))
  (s3.finish c.ref { status := s.outStatus (s.vopOut v ++ v.auxOut) }).vopCounts c q.counts q.folded

/-- The ordinary operations: every row's result converted to FMT_OUT. -/
def State.vopRows (s : State) (c : Cmd) (v : Vop) : State :=
  let rows := if v.op = 0x0032 then [((List.range v.rows).flatMap fun i => s.philoxRow v i, [])]
    else (List.range v.rows).map fun i => s.vopRow v i
  let k := convertRows v.fmtOut c.vopScale (rows.map Prod.fst)
  let s1 := s.writeRows v.fmtOut v.out k
  let s2 := if v.op = 0x0025 then s1.writeMem v.aux ((rows.flatMap Prod.snd).flatMap (leBytes 4)) else s1
  (s2.finish c.ref { status := s.outStatus (s.vopOut v ++ v.auxOut) }).vopCounts c (Counts.ofList k.elems) (rows.flatMap Prod.fst)

/-- VOP (R233-R246). -/
def State.vop (s : State) (c : Cmd) : State :=
  let v := c.vop
  match theRefusal (s.vopFails c) with
  | some r => s.refuse c r.status r.detail
  | none =>
    if v.rows = 0 || v.cols = 0 then s.finish c.ref {}
    else
      let es := s.enginesOf (c.param 40 4) (bitOf (c.param 37 1) 0)
      let reads := (List.range v.rows).map fun i => s.vopRowReads v i
      match s.rangesStatus reads.flatten with
      | some st => s.engineAbandon c es reads (s.vopOut v) v.auxOut st
      | none =>
        if v.op = 0x0040 then s.vopGtAdd c v es
        else if v.op = 0x0030 then s.vopQuant c v
        else s.vopRows c v

def execVop (c : CmdRef) (hv : HostView) (s : State) : Host.Outcome State Fault Refusal :=
  runs (fun s => (s.sees hv).startCompute 0x3000 c fun k s => s.vop k) s

/-! ## SAMPLE (R243, R244) -/

/-- The running sum of SAMPLE: c[i] = round32(c[i-1] + exp(dd[i])), starting from c[0]. -/
def scanFrom : Fp → List Fp → List Fp
  | c, [] => [c]
  | c, d :: ds => c :: scanFrom (addF c (exp32 d)) ds

/-- The scan over the sorted differences. -/
def scanExp : List Fp → List Fp
  | [] => []
  | d :: ds => scanFrom (exp32 d) ds

/-- Parameters of a draw. -/
structure Draw where
  invTemp : Fp
  topP : Nat
  topK : Nat
  greedy : Bool
  logpFull : Bool
  deriving Repr

/-- log-probability over the whole vocabulary from the untempered logits (R244). -/
def logpFull (xs : List Fp) (token : Nat) : Fp :=
  let m := rowMax xs
  subF (subF (xs.getD token .nan) m) (log32 (tree (xs.map fun x => exp32 (subF x m))))

/-- Draws one token from a row of logits with a uniform: the token and its log-probability; none where the maximum is NaN or
infinite. -/
def drawToken (d : Draw) (xs : List Fp) (u : Fp) : Option (Nat × Fp) :=
  let order := ranked (xs.map fun x => mulF x d.invTemp)
  match order with
  | [] => none
  | top :: _ =>
    let m := top.2
    if !m.isFinite then none
    else
      let l0 := if d.topK = 0 then xs.length else min d.topK xs.length
      let dd := (order.take l0).map fun p => subF p.2 m
      let cs := scanExp dd
      let last := cs.getLast?.getD .one
      let l := if d.topP < 0x3F800000 then
          let bound := mulF (ofF32 d.topP) last
          min l0 (1 + ((List.range l0).find? fun i => bound.le (cs.getD i .zero)).getD (l0 - 1))
        else l0
      let total := cs.getD (l - 1) .one
      let target := mulF u total
      let pick := if d.greedy then 0
        else ((List.range l).find? fun i => target.lt (cs.getD i .zero)).getD (l - 1)
      let token := (order.getD pick top).1
      let logp := if d.logpFull then logpFull xs token else subF (dd.getD pick .zero) (log32 total)
      some (token, logp)

/-- The 8 bytes SAMPLE writes for a row. -/
def drawBytes (r : Option (Nat × Fp)) : List Byte :=
  match r with
  | some (t, l) => leBytes 4 t ++ leBytes 4 (toF32 l)
  | none => leBytes 4 0xFFFFFFFF ++ leBytes 4 0x7FC00000

def Cmd.draw (c : Cmd) : Draw :=
  ⟨ofF32 (c.param 48 4), c.param 52 4, c.param 42 2, bitOf (c.param 41 1) 0, bitOf (c.param 41 1) 1⟩

def State.sampleFails (s : State) (c : Cmd) : List (Option Refuse) :=
  let rows := c.param 32 4
  s.maskFails c 44 true
  ++ [ refuseRange (s.rangeOf c (c.param 64 8) (rows * elemsBytes (c.param 40 1) (c.param 36 4)) false) 64
     , refuseRange (s.rangeOf c (c.param 72 8) (16 * rows) false) 72
     , refuseRange (s.rangeOf c (c.param 80 8) (8 * rows) true) 80 ]

def State.sample (s : State) (c : Cmd) : State :=
  match theRefusal (s.sampleFails c) with
  | some r => s.refuse c r.status r.detail
  | none =>
    let rows := c.param 32 4
    let vocab := c.param 36 4
    let fmt := c.param 40 1
    let x := c.param 64 8
    let table := c.param 72 8
    let out := c.param 80 8
    let rowBytes := elemsBytes fmt vocab
    let reads := (List.range rows).map fun i => [(x + i * rowBytes, rowBytes), (table + 16 * i, 16)]
    match s.rangesStatus reads.flatten with
    | some st => s.engineAbandon c (s.enginesOf (c.param 44 4) true) reads [(out, 8 * rows)] [] st
    | none =>
      let bytes := (List.range rows).flatMap fun i =>
        let e := table + 16 * i
        let u := uniform (c.param 56 8) (s.natAt e 4) (s.natAt (e + 4) 4) (s.natAt (e + 8) 4)
        drawBytes (drawToken c.draw (s.widenRow fmt x rows vocab i) u)
      (s.writeMem out bytes).finish c.ref { status := s.outStatus [(out, 8 * rows)] }

def execSample (c : CmdRef) (hv : HostView) (s : State) : Host.Outcome State Fault Refusal :=
  runs (fun s => (s.sees hv).startCompute 0x3001 c fun k s => s.sample k) s

end Sys2Proof.Machine
end

