-- ==== Sys2Proof/Machine/Update.lean ====
section
/-! DEFINITION. Update on arrival and optimizer state (chapter 18): lanes, contexts, slots, the update of one block, UPDATE,
CHECKPOINT and CHECKPOINT_IMPORT. What a training service adds stands in Machine/Training.lean. -/

namespace Sys2Proof.Machine

open Sys2Proof

/-! ## Lanes (R491) -/

def State.laneWord (s : State) (l : Nat) : Nat := (s.keepsake.lanes.getD l 0).toNat
def State.laneValid (s : State) (l : Nat) : Bool := (s.laneWord l).testBit 15
def State.laneGen (s : State) (l : Nat) : Nat := field (s.laneWord l) 14 0

/-- Writes a lane's generation to keepsake, with VALID 1 (R503). -/
def State.setLane (s : State) (l g : Nat) : State :=
  let word := fun (k : Keepsake) i => if i = l then BitVec.ofNat 16 (0x8000 + g % 32768) else k.lanes.getD i 0
  (s.ksWrite fun k => { k with lanes := (List.range 4).map (word k) }).raise evUpd 0

/-! ## Contexts (R490) -/

def State.ctxCfg (s : State) (e c : Nat) : Nat := s.lkWord e (ctxBase c)
def State.ctxEnabled (s : State) (e c : Nat) : Bool := (s.ctxCfg e c).testBit 31
def State.ctxBerth (s : State) (e c : Nat) : Nat := field (s.ctxCfg e c) 30 28
def State.ctxLane (s : State) (e c : Nat) : Nat := field (s.ctxCfg e c) 27 26
def State.ctxAlgo (s : State) (e c : Nat) : Nat := field (s.ctxCfg e c) 25 24
def State.ctxAssay (s : State) (e c : Nat) : Nat := field (s.ctxCfg e c) 7 0
def State.ctxBlocks (s : State) (e c : Nat) : Nat := field (s.lkWord e (ctxBase c + 4)) 24 0
def State.ctxState (s : State) (e c : Nat) : Nat := s.lk64 e (ctxBase c + 8)
def State.ctxStage (s : State) (e c : Nat) : Nat × Nat :=
  (s.lk64 e (ctxBase c + 0x10), 768 * field (s.lkWord e (ctxBase c + 0x18)) 16 0)
def State.ctxFp (s : State) (e c off : Nat) : Fp := ofF32 (s.lkWord e (ctxBase c + off))
def State.narrowOffset (s : State) (e c : Nat) : Nat := s.lk64 e (ctxBase c + 0x38)
def State.feedbackOffset (s : State) (e c : Nat) : Nat := s.lk64 e (ctxBase c + 0x40)
def State.ratioAddr (s : State) (e c : Nat) : Nat := s.lk64 e (ctxBase c + 0x48)

def ctxStatus (c : Nat) : Nat := ctxBase c + 0x50
def State.stateLost (s : State) (c : Nat) : Bool := (s.regNat (ctxStatus c)).testBit 31
def State.narrowStale (s : State) (c : Nat) : Bool := (s.regNat (ctxStatus c)).testBit 30
def State.ctxNext (s : State) (c : Nat) : Nat := field (s.regNat (ctxStatus c)) 24 0
def State.setCtxBit (s : State) (c n : Nat) (b : Bool) : State := s.setNat (ctxStatus c) (putBit (s.regNat (ctxStatus c)) n b)
def State.setNext (s : State) (c v : Nat) : State :=
  s.setNat (ctxStatus c) (s.regNat (ctxStatus c) - s.ctxNext c + v % 2 ^ 25)

/-- A context becomes STATE_LOST. -/
def State.loseState (s : State) (c : Nat) : State := (s.setCtxBit c 31 true).raise evUpd 2

/-- The ENABLED contexts of a lane. -/
def State.laneContexts (s : State) (e l : Nat) : List Nat :=
  ((List.range 17).drop 1).filter fun c => s.ctxEnabled e c && s.ctxLane e c == l

/-- The state range of a context (R494). -/
def State.stateRange (s : State) (e c : Nat) : Nat × Nat := (s.ctxState e c, 128 + 1536 * s.ctxBlocks e c)

/-- The live slot of a lane; the other is its shadow. -/
def State.liveSlotOf (s : State) (l : Nat) : Nat := s.laneGen l % 2
def State.shadowSlotOf (s : State) (l : Nat) : Nat := 1 - s.laneGen l % 2

def State.blockAddr (s : State) (e c i j : Nat) : Nat := s.ctxState e c + 128 + 1536 * i + 768 * j

/-- A slot header (Table 18-2). -/
structure SlotHeader where
  generation : Nat
  complete : Bool
  step : Nat
  version : Nat
  count : Nat
  deriving DecidableEq, Repr

def State.slotHeader (s : State) (e c j : Nat) : SlotHeader :=
  let b := s.bytesAt (s.ctxState e c + 64 * j) 64
  { generation := fieldAt b 0 2, complete := (fieldAt b 2 2).testBit 0, step := fieldAt b 4 4, version := fieldAt b 8 4,
    count := fieldAt b 16 8 }

def SlotHeader.bytes (h : SlotHeader) : List Byte :=
  leBytes 2 h.generation ++ leBytes 2 (bit h.complete) ++ leBytes 4 h.step ++ leBytes 4 h.version ++ leBytes 4 0 ++ leBytes 8 h.count
    ++ zeros 40

/-- A header is written; a write that fails loses the state (R500). -/
def State.putSlotHeader (s : State) (e c j : Nat) (h : SlotHeader) : State :=
  let a := s.ctxState e c + 64 * j
  let t := s.writeMem a h.bytes
  if (s.writeStatus a 64).isSome then t.loseState c else t

/-- SHADOW_COMPLETE follows the shadow header. -/
def State.noteShadow (s : State) (e c : Nat) : State :=
  s.setCtxBit c 29 (s.slotHeader e c (s.shadowSlotOf (s.ctxLane e c))).complete

/-- The check of R495: a live header that is not COMPLETE, not of the lane's generation, or not readable loses the state. -/
def State.checkLive (s : State) (e c : Nat) : State :=
  let l := s.ctxLane e c
  let a := s.ctxState e c + 64 * s.liveSlotOf l
  let h := s.slotHeader e c (s.liveSlotOf l)
  if (s.readStatus a 64).isSome then (s.noteRead 5 a 64).loseState c
  else if !h.complete || h.generation ≠ s.laneGen l then s.loseState c
  else s

/-! ## The update of a block (R496, R499) -/

/-- 1 ÷ (1 − β^T) for β in [0, 1), rounded once to FP32. -/
def biasCorrection (beta : Fp) (t : Nat) : Fp :=
  match beta with
  | .fin _ m e =>
    if m = 0 then .one
    else
      let k := (-e).toNat * t
      divFinite false (2 ^ k) 0 (2 ^ k - m ^ t) 0
  | _ => .one

/-- √x, rounded once to FP32. -/
def sqrt32 (x : Fp) : Fp :=
  match x with
  | .nan => .nan
  | .inf s => if s then .nan else .inf false
  | .fin s m e =>
    if m = 0 then .fin s 0 0
    else if s then .nan
    else
      let m' := if e % 2 = 0 then m else 2 * m
      let e' := if e % 2 = 0 then e else e - 1
      let w := isqrt (m' * 4 ^ 64)
      round32 (.fin false (2 * w + bit (w * w != m' * 4 ^ 64)) (e' / 2 - 65))

/-- The constants of an attempt (R496). -/
structure Hyper where
  adamw : Bool
  beta1 : Fp
  beta2 : Fp
  c1 : Fp
  c2 : Fp
  decay : Fp
  lr : Fp
  eps : Fp
  bc1 : Fp
  bc2 : Fp
  gradScale : Fp
  deriving Repr

/-- The constants that a context's registers and T give. -/
def State.hyper (s : State) (e c t : Nat) : Hyper :=
  let b1 := s.ctxFp e c 0x20
  let b2 := s.ctxFp e c 0x24
  let lr := s.ctxFp e c 0x1C
  { adamw := s.ctxAlgo e c == 0, beta1 := b1, beta2 := b2, c1 := subF .one b1, c2 := subF .one b2,
    decay := subF .one (mulF lr (s.ctxFp e c 0x2C)), lr := lr, eps := s.ctxFp e c 0x28, bc1 := biasCorrection b1 t,
    bc2 := biasCorrection b2 t, gradScale := s.ctxFp e c 0x30 }

/-- One element: gradient, master and moments before; master and moments after. -/
def updateElement (h : Hyper) (g w m v : Fp) : Fp × Fp × Fp :=
  let g := mulF g h.gradScale
  let r :=
    if h.adamw then
      let m1 := addF (mulF h.beta1 m) (mulF h.c1 g)
      let v1 := addF (mulF h.beta2 v) (mulF h.c2 (mulF g g))
      let den := addF (sqrt32 (mulF v1 h.bc2)) h.eps
      (m1, v1, div32 (mulF m1 h.bc1) den)
    else
      let m1 := addF (mulF h.beta1 m) g
      (m1, v, m1)
  (subF (mulF w h.decay) (mulF h.lr r.2.2), r.1, r.2.1)

/-- The 64 elements of one slot of a block: master, M and V patterns (Table 18-1). -/
def slotElements (b : List Byte) : List (Nat × Nat × Nat) :=
  (List.range 64).map fun i =>
    (fieldAt b (2 * i) 2 * 65536 + fieldAt b (128 + 2 * i) 2, fieldAt b (256 + 4 * i) 4, fieldAt b (512 + 4 * i) 4)

/-- A slot of a block from its elements. -/
def slotBytes (es : List (Nat × Nat × Nat)) : List Byte :=
  es.flatMap (fun x => leBytes 2 (x.1 / 65536)) ++ es.flatMap (fun x => leBytes 2 (x.1 % 65536))
    ++ es.flatMap (fun x => leBytes 4 x.2.1) ++ es.flatMap (fun x => leBytes 4 x.2.2)

/-- What the update of a block gives: the shadow slot's elements and the number of elements with a value that is not finite. -/
def updateBlock (h : Hyper) (gs : List Fp) (live : List (Nat × Nat × Nat)) : List (Nat × Nat × Nat) × Nat :=
  let one := fun (p : Fp × Nat × Nat × Nat) =>
    let r := updateElement h p.1 (ofF32 p.2.1) (ofF32 p.2.2.1) (ofF32 p.2.2.2)
    ((toF32 r.1, toF32 r.2.1, if h.adamw then toF32 r.2.2 else p.2.2.2),
      !(r.1.isFinite && r.2.1.isFinite && (if h.adamw then r.2.2 else ofF32 p.2.2.2).isFinite))
  let rs := (gs.zip live).map one
  (rs.map Prod.fst, (rs.filter Prod.snd).length)

/-- Where a block's narrow values go: format, base, elements of the whole array, first element there, and which of the block's
elements (from, count). -/
structure NarrowPlace where
  fmt : Nat
  base : Nat
  total : Nat
  first : Nat
  source : Nat
  count : Nat
  deriving DecidableEq, Repr

/-- Writes elements of an array in place, the scales of an MX format after the whole array (R234, R497). -/
def State.putNarrow (s : State) (p : NarrowPlace) (ys : List Fp) : State × Counts :=
  let v := convertRow p.fmt 0 ((ys.drop p.source).take p.count)
  let t := s.writeMem (p.base + p.first * storeBits p.fmt / 8) (packElems p.fmt (v.1.map Conv.bits))
  (if isMx p.fmt then t.writeMem (scalesAfter p.fmt p.base p.total + p.first / 32) (v.2.flatMap (leBytes 1)) else t,
    Counts.ofList v.1)

/-- Where live block i of a context is staged: the staging area is a ring (R501). -/
def State.stageSlot (s : State) (e c i : Nat) : Nat :=
  (s.ctxStage e c).1 + 768 * (i % max 1 ((s.ctxStage e c).2 / 768))

def State.liveBlock (s : State) (e c i : Nat) : Nat := s.blockAddr e c i (s.liveSlotOf (s.ctxLane e c))

/-- A live block is read into the staging area; one that cannot be read loses the state (R500, R501). -/
def State.stageLive (s : State) (e c i : Nat) : State :=
  let live := s.liveBlock e c i
  if (s.readStatus live 768).isSome then (s.noteRead 5 live 768).loseState c
  else s.writeMem (s.stageSlot e c i) (s.bytesAt live 768)

/-- The ring is filled with the first blocks (R501). -/
def State.stageAhead (s : State) (e c : Nat) : State :=
  (List.range (min (s.ctxBlocks e c) ((s.ctxStage e c).2 / 768))).foldl (fun (t : State) i =>
    if t.stateLost c then t else t.stageLive e c i) s

/-- Updates one block of a context from its live values, read at `live`, into its shadow (R496 to R500): the state, the narrow
conversions counted, and whether the block was updated. -/
def State.applyBlock (s : State) (e c i live : Nat) (gs : List Fp) (places : List NarrowPlace) : State × Counts × Bool :=
  let l := s.ctxLane e c
  let shadow := s.blockAddr e c i (s.shadowSlotOf l)
  if (s.readStatus live 768).isSome || (s.writeStatus shadow 768).isSome then ((s.noteRead 5 live 768).loseState c, {}, false)
  else
    let t := (s.slotHeader e c (s.liveSlotOf l)).count + 1
    let r := updateBlock (s.hyper e c t) gs (slotElements (s.bytesAt live 768))
    let s1 := (s.writeMem shadow (slotBytes r.1)).add64 (ctxBase c + 0x60) 1
    let s1 := if r.2 = 0 then s1 else (s1.sat32 (ctxBase c + 0x68) r.2).raise evUpd 3
    let ys := r.1.map fun x => ofF32 x.1
    let w := places.foldl (fun (acc : State × Counts) p =>
      let q := acc.1.putNarrow p ys
      (q.1, acc.2.plus q.2)) (s1, {})
    (w.1, w.2, r.2 == 0)

/-- Step 1 of R498: the shadow header is rewritten with COMPLETE 0. -/
def State.openShadow (s : State) (e c : Nat) : State :=
  let j := s.shadowSlotOf (s.ctxLane e c)
  (((s.putSlotHeader e c j { s.slotHeader e c j with complete := false }).noteShadow e c)).setNext c 0

/-- Step 3 of R498: the shadow header is written COMPLETE. -/
def State.closeShadow (s : State) (e c step : Nat) : State :=
  let l := s.ctxLane e c
  let live := s.slotHeader e c (s.liveSlotOf l)
  let v := (live.version + 1) % 2 ^ 32
  (s.putSlotHeader e c (s.shadowSlotOf l)
    { generation := (s.laneGen l + 1) % 32768, complete := true, step := step, version := if v = 0 then 1 else v,
      count := live.count + 1 }).noteShadow e c

/-- The gradient of a GT16 block (R496). -/
def GtBlock.gradient (b : GtBlock) : List Fp := (List.range 64).map fun i => round32 (b.value i)

/-! ## UPDATE (R506-R508) -/

/-- Does an open training service use a lane (R492)? -/
def State.laneInService (s : State) (l : Nat) : Bool :=
  s.trains.any fun t => t.2.plan.parts.any fun p => s.ctxLane t.2.cmd.epoch p.update == l

/-- The refusals about a context named by a command (R490, R491). -/
def State.ctxFails (s : State) (c : Cmd) (x off : Nat) (needValid : Bool) : List (Option Refuse) :=
  [ refuseIf (!s.ctxEnabled c.epoch x) stOutOfRange off
  , refuseIf (needValid && !s.laneValid (s.ctxLane c.epoch x)) stOutOfRange off
  , refuseIf (s.ctxEnabled c.epoch x && s.ctxBerth c.epoch x ≠ c.berth) stBerthOwnership ]

/-- The gradient blocks an APPLY reads. -/
def Cmd.applyRanges (c : Cmd) : List (Nat × Nat) := [(c.param 48 8, c.param 44 4 * (if c.param 35 1 = 0x19 then 132 else 256))]

/-- The narrow values an APPLY writes. -/
def Cmd.narrowRanges (c : Cmd) : List (Nat × Nat) :=
  if c.param 56 1 = 0 then [] else arrayRanges (c.param 56 1) (c.param 64 8) 1 (64 * c.param 44 4)

def State.applyFails (s : State) (c : Cmd) : List (Option Refuse) :=
  let x := c.param 33 1
  s.ctxFails c x 33 true
  ++ [ refuseIf (c.param 40 4 ≠ 0 && c.param 40 4 ≠ s.ctxNext x) stOutOfRange 40
     , refuseIf (s.ctxBlocks c.epoch x < c.param 40 4 + c.param 44 4) stOutOfRange 44
     , s.rangesFail c c.applyRanges false 48, s.rangesFail c c.narrowRanges true 64 ]
  ++ s.maskFails c 72 false
  ++ [ refuseIf (s.laneInService (s.ctxLane c.epoch x)) stResourceInUse ]

/-- The gradient of block i of an APPLY. -/
def State.applyGradient (s : State) (c : Cmd) (i : Nat) : List Fp :=
  if c.param 35 1 = 0x19 then
    match s.gtAt true (c.param 48 8 + 132 * i) with
    | some b => b.gradient
    | none => List.replicate 64 .nan
  else (List.range 64).map fun k => s.elemAt 0x01 (c.param 48 8 + 256 * i) k

/-- The blocks of an APPLY in order: the state after the last one, the narrow conversions, and whether none was lost. The gradients are
those of s. -/
def State.applyBlocks (s : State) (c : Cmd) (t : State) : State × Counts × Bool :=
  let x := c.param 33 1
  let first := c.param 40 4
  let n := c.param 44 4
  let one := fun (acc : State × Counts × Bool) (i : Nat) =>
    if !acc.2.2 then acc
    else
      let places := if c.param 56 1 = 0 then []
        else [(⟨c.param 56 1, c.param 64 8, 64 * n, 64 * i, 0, 64⟩ : NarrowPlace)]
      let t := acc.1.applyBlock c.epoch x (first + i) (acc.1.liveBlock c.epoch x (first + i)) (s.applyGradient c i) places
      (t.1.setNext x (if t.1.stateLost x then first + i else first + i + 1), acc.2.1.plus t.2.1, !t.1.stateLost x)
  (List.range n).foldl one (t, {}, true)

/-- APPLY (R507). -/
def State.updateApply (s : State) (c : Cmd) : State :=
  let x := c.param 33 1
  match theRefusal (s.applyFails c) with
  | some r => s.refuse c r.status r.detail
  | none =>
    let s0 := s.checkLive c.epoch x
    if s0.stateLost x then s0.finish c.ref { status := stPoisoned }
    else
      match s0.rangesStatus c.applyRanges with
      | some st => (s0.noteRanges 0 c.applyRanges).finish c.ref { status := st }
      | none =>
        let first := c.param 40 4
        let n := c.param 44 4
        let s1 := if first = 0 then s0.openShadow c.epoch x else s0
        let r := s0.applyBlocks c s1
        let t := if r.2.2 && first + n == s.ctxBlocks c.epoch x then r.1.closeShadow c.epoch x (c.param 36 4) else r.1
        (t.finish c.ref { status := if r.2.2 then s0.outStatus c.narrowRanges else stPoisoned }).updCmd c.ref fun d =>
          { d with assay := if s.ctxAssay c.epoch x = 0 || c.param 56 1 = 0 then none
                            else some (s.ctxAssay c.epoch x, c.param 56 1, r.2.1) }

/-- The first ENABLED context of a lane whose shadow is not ready for COMMIT, or whose header cannot be read (R508). -/
def State.commitBlocked (s : State) (e l step : Nat) : Option Nat :=
  (s.laneContexts e l).find? fun x =>
    let h := s.slotHeader e x (s.shadowSlotOf l)
    (s.readStatus (s.ctxState e x + 64 * s.shadowSlotOf l) 64).isSome || !(h.complete && h.generation == (s.laneGen l + 1) % 32768 && h.step == step)

/-- COMMIT (R508). -/
def State.updateCommit (s : State) (c : Cmd) : State :=
  let l := c.param 34 1
  if !s.laneValid l then s.refuse c stOutOfRange 34
  else if s.laneInService l then s.finish c.ref { status := stResourceInUse }
  else
    match s.commitBlocked c.epoch l (c.param 36 4) with
    | some x => s.refuse c stOutOfRange x
    | none =>
      let g := (s.laneGen l + 1) % 32768
      let t := s.setLane l g
      ((t.laneContexts c.epoch l).foldl (fun (t : State) x => t.noteShadow c.epoch x) t).finish c.ref { result0 := g }

def execUpdate (c : CmdRef) (hv : HostView) (s : State) : Host.Outcome State Fault Refusal :=
  runs (fun s => (s.sees hv).startCompute 0x3002 c fun k s => if k.param 32 1 = 0 then s.updateApply k else s.updateCommit k) s

/-! ## Checkpoints (R511-R514) -/

/-- The refusal of a device place (R298). -/
def State.placeFails (s : State) (c : Cmd) (w n : Nat) (write : Bool) (off : Nat) : Option Refuse :=
  match placeOf w with
  | .device a => refuseRange (s.rangeOf c a n write { reach := true }) off
  | .host _ => none
  | .invalid => refuseIf true stOutOfRange off

def checkpointMagic : Nat := 0x43500001

/-- Bytes of a checkpoint image of a context. -/
def State.imageBytes (s : State) (e x : Nat) : Nat := 128 + 768 * s.ctxBlocks e x

/-- The image of slot j of a context (Table 18-7). -/
def State.image (s : State) (e x j : Nat) : List Byte :=
  let body := (List.range (s.ctxBlocks e x)).flatMap fun i => s.bytesAt (s.blockAddr e x i j) 768
  let h := s.slotHeader e x j
  leBytes 4 checkpointMagic ++ leBytes 1 (s.ctxAlgo e x) ++ zeros 3 ++ leBytes 4 (s.ctxBlocks e x) ++ leBytes 4 h.step
    ++ leBytes 8 h.count ++ leBytes 4 h.version ++ leBytes 2 h.generation ++ zeros 2 ++ leBytes 8 (crc64 body) ++ zeros 88 ++ body

def State.checkpointFails (s : State) (c : Cmd) : List (Option Refuse) :=
  let x := c.param 32 1
  s.ctxFails c x 32 true
  ++ [ refuseIf (c.param 48 8 < s.imageBytes c.epoch x) stOutOfRange 48
     , s.placeFails c (c.param 40 8) (s.imageBytes c.epoch x) true 40 ]

/-- CHECKPOINT: the export starts and the command completes; its report follows (R511). -/
def State.checkpoint (s : State) (c : Cmd) : State :=
  let x := c.param 32 1
  match theRefusal (s.checkpointFails c) with
  | some r => s.refuse c r.status r.detail
  | none =>
    let s0 := s.checkLive c.epoch x
    if s0.stateLost x then s0.finish c.ref { status := stPoisoned }
    else
      let j := s0.liveSlotOf (s0.ctxLane c.epoch x)
      let ranges := (List.range (s0.ctxBlocks c.epoch x)).map fun i => (s0.blockAddr c.epoch x i j, 768)
      let e : Export :=
        { ctx := x, queue := c.queue, fn := c.fn, tag := c.tag, epoch := c.epoch, berth := c.berth, dst := c.param 40 8,
          generation := s0.laneGen (s0.ctxLane c.epoch x), image := s0.image c.epoch x j, failed := s0.rangesStatus ranges }
      let t := s0.noteRanges 5 (ranges.filter fun r => (s0.readStatus r.1 r.2).isSome)
      ({ t with exports := t.exports ++ [e] }).finish c.ref {}

def execCheckpoint (c : CmdRef) (hv : HostView) (s : State) : Host.Outcome State Fault Refusal :=
  runs (fun s => (s.sees hv).start 0x7002 c fun k s => s.checkpoint k) s

/-- CHECKPOINT_EXPORT_DONE: the export of a context has ended; its report is written. -/
def State.exportDone (s : State) (x : Nat) : State :=
  match s.exports.find? fun e => e.ctx == x with
  | none => s
  | some e =>
    let t := { s with exports := s.exports.erase e }
    let w := match e.failed with
      | some st => (t, some st)
      | none => t.writePlace (placeOf e.dst) 0 e.image
    w.1.report
      { queue := e.queue, tag := e.tag, fn := e.fn, status := w.2.getD stSuccess, detail := 0, epoch := e.epoch,
        result0 := if w.2.isNone then fieldAt e.image 32 8 else 0, result1 := if w.2.isNone then e.generation else 0 }

def execCheckpointExportDone (ctx now : Nat) (hv : HostView) (s : State) : Host.Outcome State Fault Refusal :=
  runs (fun s => ((s.at now).sees hv).exportDone ctx) s

def State.importFails (s : State) (c : Cmd) (head : List Byte) : List (Option Refuse) :=
  let x := c.param 32 1
  let l := s.ctxLane c.epoch x
  s.ctxFails c x 32 false
  ++ [ refuseIf (!(c.param 33 1).testBit 0 && !s.laneValid l) stOutOfRange 33
     , s.placeFails c (c.param 40 8) (s.imageBytes c.epoch x) false 40
     , refuseIf (fieldAt head 0 4 ≠ checkpointMagic || fieldAt head 4 1 ≠ s.ctxAlgo c.epoch x || fieldAt head 8 4 ≠ s.ctxBlocks c.epoch x)
         stOutOfRange 40
     , refuseIf (s.laneInService l) stResourceInUse ]

/-- CHECKPOINT_IMPORT (R513, R514). -/
def State.checkpointImport (s : State) (c : Cmd) : State :=
  let x := c.param 32 1
  let l := s.ctxLane c.epoch x
  let setGen := (c.param 33 1).testBit 0
  let n := s.imageBytes c.epoch x
  let r := s.readPlace (placeOf (c.param 40 8)) 0 n
  match theRefusal (s.importFails c r.1) with
  | some f => s.refuse c f.status f.detail
  | none =>
    match r.2 with
    | some st => s.finish c.ref { status := st }
    | none =>
      let s := match placeOf (c.param 40 8) with | .host a => s.recordHostRead c.queue a r.1 | _ => s
      let g := if setGen then fieldAt r.1 28 2 % 32768 else s.laneGen l
      let j := g % 2
      let unwritten := (List.range (s.ctxBlocks c.epoch x)).findSome? fun i => s.writeStatus (s.blockAddr c.epoch x i j) 768
      let t := (List.range (s.ctxBlocks c.epoch x)).foldl (fun (t : State) i =>
        t.writeMem (t.blockAddr c.epoch x i j) (slice r.1 (128 + 768 * i) 768)) s
      let t := t.putSlotHeader c.epoch x j
        { generation := g, complete := true, step := fieldAt r.1 12 4, version := fieldAt r.1 24 4, count := fieldAt r.1 16 8 }
      let t := if setGen then t.setLane l g else t
      let others := (t.laneContexts c.epoch l).filter (· != x)
      let t := if setGen then others.foldl (fun (t : State) y => t.checkLive c.epoch y) t else t
      let t := (t.laneContexts c.epoch l).foldl (fun (t : State) y => t.noteShadow c.epoch y) t
      if unwritten.isSome then (t.loseState x).finish c.ref { status := unwritten.getD stUncorrectable }
      else if crc64 (r.1.drop 128) ≠ fieldAt r.1 32 8 then (t.loseState x).finish c.ref { status := stUncorrectable }
      else (((t.setCtxBit x 31 false).setCtxBit x 30 true).raise evUpd 1).finish c.ref {}

def execCheckpointImport (c : CmdRef) (hv : HostView) (s : State) : Host.Outcome State Fault Refusal :=
  runs (fun s => (s.sees hv).start 0x7003 c fun k s => s.checkpointImport k) s

end Sys2Proof.Machine
end

