-- ==== Sys2Proof/Machine/Collectives.lean ====
section
/-! DEFINITION. Collectives and the gradient ring (chapter 15): groups, GATHER, REDUCE_SCATTER, votes, PERMUTE, SEND and RECV,
deadlines and failure. Where the spec names a message's fields and not their places after the prefix of Table 15-2, the places
are those of notes/assumptions/20.md. -/

namespace Sys2Proof.Machine

open Sys2Proof

/-! ## Status codes (Table 15-7) -/

def stCollDeadline : Nat := 0x7101
def stCollPeerFailed : Nat := 0x7102
def stCollResidue : Nat := 0x7103
def stCollMismatch : Nat := 0x7104
def stCollScale : Nat := 0x7105
def stCollNonfinite : Nat := 0x7106
def stCollVersion : Nat := 0x7107
def stCollMalformed : Nat := 0x7108

/-! ## Groups (R396, R397) -/

def State.group (s : State) (g : Nat) : CollGroup := (lookup g s.groups).getD .reset
def State.updGroup (s : State) (g : Nat) (f : CollGroup → CollGroup) : State := { s with groups := insert g (f (s.group g)) s.groups }
def State.groupWord (s : State) (e g : Nat) : Nat := s.lkWord e (blkKeeper + 0x2010 + 4 * g)
def State.groupEnabled (s : State) (e g : Nat) : Bool := decide (g < 8) && (s.groupWord e g).testBit 31
def State.groupBerth (s : State) (e g : Nat) : Nat := field (s.groupWord e g) 26 24
def State.groupAxis (s : State) (e g : Nat) : Nat := field (s.groupWord e g) 17 16

/-- The parameters of Table 15-1. -/
def Cmd.group (c : Cmd) : Nat := c.param 32 1
def Cmd.step (c : Cmd) : Nat := c.param 36 4
def Cmd.collSeq (c : Cmd) : Nat := c.param 40 4
def State.axisOfCmd (s : State) (c : Cmd) : Nat := s.groupAxis c.epoch c.group
/-- The ring of a collective, by the settings of its epoch (R140). -/
def State.members (s : State) (c : Cmd) : Nat := max 1 (field (s.lkWord c.epoch (axisWord (s.axisOfCmd c))) 14 8)
def State.me (s : State) (c : Cmd) : Nat := coordOf (s.lkWord c.epoch (axisWord (s.axisOfCmd c)))
/-- The positive and the negative port of a collective's axis. -/
def State.posPort (s : State) (c : Cmd) : Nat := 2 * s.axisOfCmd c
def State.negPort (s : State) (c : Cmd) : Nat := 2 * s.axisOfCmd c + 1
def Cmd.vc (c : Cmd) : Nat := 2 + c.group

/-- DEADLINE in local-timer units (Table 15-1). -/
def State.collDeadline (s : State) (c : Cmd) : Nat :=
  msec * (if c.param 34 2 = 0 then field (s.lkWord c.epoch (blkKeeper + 0x2000)) 15 0 else c.param 34 2)

/-- The fields of an opcode's table that are marked Agreed: offset and size. -/
def agreedFields (op : Nat) : List (Nat × Nat) :=
  if op = 0x5000 then [(48, 1), (49, 1), (52, 4), (56, 8)]
  else if op = 0x5001 then [(48, 1), (49, 1), (56, 4), (60, 4), (80, 8)]
  else if op = 0x5005 then [(48, 1), (49, 1)]
  else []

/-- The digest of a collective (R401); a RECV forms its SEND's. -/
def Cmd.digest (c : Cmd) : Nat :=
  let op := if c.opcode = 0x5004 then 0x5003 else c.opcode
  crc32c (leBytes 2 op ++ ([(32, 1), (36, 4), (40, 4)] ++ agreedFields op).flatMap fun (f : Nat × Nat) => slice c.packet f.1 f.2)

/-! ## Open collectives -/

/-- The open collective of a group and SEQ. -/
def State.collAt (s : State) (g seq : Nat) : Option Coll :=
  s.colls.find? fun k => k.cmd.group == g && k.cmd.collSeq == seq && k.ended.isNone
def State.updColl (s : State) (c : Cmd) (f : Coll → Coll) : State :=
  { s with colls := updateFirst (fun k => k.cmd.group == c.group && k.cmd.collSeq == c.collSeq) f s.colls }
def State.runningIn (s : State) (g : Nat) : Nat := (s.colls.filter fun k => k.cmd.group == g && k.ended.isNone).length

/-- A collective starts (R400, R422). -/
def State.openColl (s : State) (c : Cmd) (o : CollOwner) : State :=
  let k : Coll :=
    { cmd := c, owner := o, startedAt := s.now, lastAt := s.now, ended := none, got := [], chains := [], ownDone := false, sent := [],
      received := 0, voting := false, finals := [] }
  let t := { s with colls := s.colls ++ [k] }
  match o with
  | .command => t.running c.ref
  | _ => t

/-- An open collective leaves with its answer: a command finishes, a service finds the result. -/
def State.closeColl (s : State) (k : Coll) (st r0 r1 : Nat) : State :=
  let t := match k.owner with
    | .command =>
      ({ s with colls := s.colls.eraseP fun x => x.cmd.group == k.cmd.group && x.cmd.collSeq == k.cmd.collSeq }).finish k.cmd.ref
        { status := st, result0 := r0, result1 := r1 }
    | .train _ => s.updColl k.cmd fun x => { x with ended := some (st, r0, r1), lastAt := s.now }
    | .turn n =>
      let t := s.updColl k.cmd fun x => { x with ended := some (st, r0, r1) }
      if st = 0 && r0 % 2 = 1 then t else t.failTurn n stCollPeerFailed false
  if st = 0 then t.add64 (blkKeeper + 0x2100) 1 else t

/-- The prefix of Table 15-2. -/
def collPrefix (c : Cmd) (format shard first count : Nat) : List Byte :=
  leBytes 4 c.digest ++ leBytes 1 c.group ++ leBytes 1 format ++ leBytes 2 shard ++ leBytes 4 first ++ leBytes 4 count

/-- Sends a collective message to a neighbour, and waits for its acknowledgement. -/
def State.sendColl (s : State) (c : Cmd) (p vc cls : Nat) (body : List Byte) (poison : List (Nat × Nat)) : State :=
  let r := s.sendMessage p vc (s.neighbourRoute p) cls c.collSeq (s.neighbourInc p) body poison
  (r.1.updColl c fun k => { k with sent := k.sent ++ [r.2] }).updCmd c.ref fun d => { d with bodies := d.bodies ++ body }

/-! ## Abort notices and failure (R423, R424) -/

/-- Sends an abort notice on VC0 through a port that carries it. -/
def State.sendAbort (s : State) (p g seq st member : Nat) : State :=
  if s.carries p 0 then
    (s.sendMessage p 0 (s.neighbourRoute p) 0x0110 seq (s.neighbourInc p)
      (leBytes 4 0 ++ leBytes 1 g ++ leBytes 1 0 ++ leBytes 2 member ++ leBytes 8 0 ++ leBytes 4 seq ++ leBytes 2 st ++ leBytes 2 member)
      []).1
  else s

/-- The bytes of a block of a contribution format. -/
def strideOf (fmt : Nat) : Nat := gtBytes (fmt == 0x19)

/-- What a collective command writes here. -/
def State.collWrites (s : State) (c : Cmd) : List (Nat × Nat) :=
  if c.opcode = 0x5000 then arrayRanges (c.param 49 1) (c.param 72 8) 1 (s.members c * c.param 56 8)
  else if c.opcode = 0x5001 then
    if c.param 49 1 = 3 then []
    else [(c.param 72 8, c.param 56 4 * (if c.param 49 1 = 0 then 132 else if c.param 49 1 = 1 then 256 else 128))]
  else if c.opcode = 0x5004 then [(c.param 56 8, c.param 64 8)]
  else if c.opcode = 0x5002 then
    if (s.readStatus (c.param 64 8) (16 * c.param 52 4)).isSome then [] else
    (List.range (c.param 52 4)).map fun i => (s.natAt (c.param 64 8 + 16 * i) 8, s.natAt (c.param 64 8 + 16 * i + 8) 8)
  else []

/-- What a collective leaves undefined when it fails (R119, R424). -/
def State.collDst (s : State) (k : Coll) : List (Nat × Nat) :=
  if k.cmd.opcode = 0x5001 && k.ownDone then [] else s.collWrites k.cmd

/-- A collective ends without success: its destination is undefined, and RESULT0 says OWN_DONE. -/
def State.endColl (s : State) (k : Coll) (st r1 : Nat) : State :=
  ((s.collDst k).foldl (fun (t : State) r => t.undefine r.1 r.2) s).closeColl k st (bit k.ownDone) r1

/-- A collective fails for a cause of this member: counted, flagged, ended, and announced to both neighbours. -/
def State.failColl (s : State) (k : Coll) (st : Nat) (r1 : Nat := 0) : State :=
  let c := k.cmd
  let t := (s.raise evColl 0).sat32 (blkKeeper + 0x2108) 1
  let t := if st = stCollDeadline then t.raise evColl 5 else t
  let t := if st = stCollScale then t.raise evColl 4 else t
  let t := if st = stCollMismatch then t.raise evColl 3 else t
  let t := if st = stCollResidue || st = stCollMalformed then t.raise evColl 2 else t
  let t := if [stCollResidue, stCollMalformed, stCollScale].contains st then t.sat32 (blkKeeper + 0x2114) 1 else t
  let t := t.endColl k st r1
  if s.members c = 1 then t
  else
    ((t.sendAbort (s.posPort c) c.group c.collSeq st (s.me c)).sendAbort (s.negPort c) c.group c.collSeq st (s.me c)).sat32
      (blkKeeper + 0x210C) 1

/-- A collective reads data that is lost: it ends with the read's status, and where the data stood in a bank its destination is poisoned
(R253, R254). -/
def State.failRead (s : State) (k : Coll) (src : List (Nat × Nat)) (st : Nat) : State :=
  let t := (s.noteRanges 2 src).failColl k st
  if src.any fun r => s.regionOf r.1 == .bank && (s.readStatus r.1 r.2).isSome then t.poisonRanges (s.collDst k) else t

/-! ## Refusals -/

def State.collFails (s : State) (c : Cmd) : List (Option Refuse) :=
  [ refuseIf (!s.groupEnabled c.epoch c.group) stOutOfRange 32
  , refuseIf (s.groupEnabled c.epoch c.group && s.groupBerth c.epoch c.group ≠ c.berth) stBerthOwnership ]

/-- Starts a collective command: refused, ended by an abort recorded before its acceptance, held back while four of its group
run, or run (R396, R400, R423). -/
def State.startColl (s : State) (c : Cmd) (fails : List (Option Refuse)) (ready : Bool) (run : State → State) : State :=
  match theRefusal (s.collFails c ++ fails) with
  | some r => s.refuse c r.status r.detail
  | none =>
    if (s.group c.group).aborts.contains c.collSeq then s.finish c.ref { status := stCollPeerFailed }
    else if 4 ≤ s.runningIn c.group || !ready then s
    else run s

/-- The ports a command needs are down (Table 14-11). -/
def State.portsDown (s : State) (c : Cmd) (ps : List Nat) (vc : Nat) : Option Refuse :=
  refuseIf (s.members c != 1 && ps.any fun p => !s.carries p vc) stLinkDown

/-! ## Completion -/

/-- Is shard i in SHARD_MASK? -/
def Cmd.runsShard (c : Cmd) (i : Nat) : Bool := c.param 80 8 == 0 || (c.param 80 8).testBit i

def Coll.passed (k : Coll) (i : Nat) : Nat := (lookup i k.chains).getD 0

/-- Has a collective done everything but a vote's records? -/
def State.collReady (s : State) (k : Coll) : Bool :=
  let c := k.cmd
  let n := s.members c
  let acked := k.sent.all s.messageAcked
  if c.opcode = 0x5000 then
    acked && (List.range n).all fun m => m == s.me c || (lookup m k.got).getD 0 == c.param 56 8
  else if c.opcode = 0x5001 then
    acked && !k.voting && (k.ownDone || !c.runsShard (s.me c))
      && (List.range n).all fun i => !c.runsShard i || i == s.me c || k.passed i == c.param 56 4
  else if c.opcode = 0x5002 then acked && decide (c.param 72 8 ≤ k.received)
  else if c.opcode = 0x5003 then acked
  else false

/-- Ends the collectives that have finished. -/
def State.settleColls (s : State) : State :=
  (s.colls.filter fun k => k.ended.isNone).foldl (fun (t : State) k =>
    if t.collReady k then t.closeColl k 0 (if k.cmd.opcode = 0x5001 then 1 else 0) 0 else t) s

/-! ## GATHER (R402-R405) -/

/-- The bytes of some elements of an array and of their scales. -/
def State.pieceBytes (s : State) (fmt base total first count : Nat) : List Byte :=
  if isGt fmt then s.bytesAt (base + first / 64 * strideOf fmt) (count / 64 * strideOf fmt)
  else s.bytesAt (base + first * storeBits fmt / 8) (elemsBytes fmt count)
    ++ (if isMx fmt then s.bytesAt (scalesAfter fmt base total + first / 32) (count / 32) else [])

/-- Element patterns of a piece. -/
def pieceElem (fmt count : Nat) (bs : List Byte) (i : Nat) : Fp :=
  if isGt fmt then
    match gtRead (fmt == 0x19) (slice bs (i / 64 * strideOf fmt) (strideOf fmt)) with
    | some b => b.value (i % 64)
    | none => .nan
  else
    let w := (leNat (bs.take (elemsBytes fmt count)) >>> (i * storeBits fmt)) % 2 ^ storeBits fmt
    if isMx fmt then readMx fmt (fieldAt bs (elemsBytes fmt count + i / 32) 1) w else readElem fmt w

/-- Writes a piece into the gathered tensor, widened where DST_FMT differs (R403). -/
def State.putPiece (s : State) (src dst base total first count : Nat) (bs : List Byte) : State :=
  if src = dst then
    if isGt dst then s.writeMem (base + first / 64 * strideOf dst) bs
    else
      let t := s.writeMem (base + first * storeBits dst / 8) (bs.take (elemsBytes dst count))
      if isMx dst then t.writeMem (scalesAfter dst base total + first / 32) (bs.drop (elemsBytes dst count)) else t
  else
    s.writeMem (base + first * storeBits dst / 8)
      (packElems dst ((List.range count).map fun i => (convertTo dst (pieceElem src count bs i)).bits))

/-- The bytes that putPiece writes for n bytes of a piece from byte off on: themselves, or the elements that they are part of or scale. -/
def pieceLands (src dst base total first count off n : Nat) : List (Nat × Nat) :=
  if n = 0 then []
  else if src = dst then
    if isGt dst then [(base + first / 64 * strideOf dst + off, n)]
    else
      let e := elemsBytes dst count
      (if off < e then [(base + first * storeBits dst / 8 + off, min n (e - off))] else [])
        ++ (if e < off + n then [(scalesAfter dst base total + first / 32 + (off - e), off + n - max off e)] else [])
  else
    let elems := fun (lo hi : Nat) => (base + (first + lo) * storeBits dst / 8, (hi - lo) * storeBits dst / 8)
    if isGt src then [elems (off / strideOf src * 64) (min count (((off + n - 1) / strideOf src + 1) * 64))]
    else
      let e := elemsBytes src count
      (if off < e then [elems (off * 8 / storeBits src) (min count ((min (off + n) e * 8 + storeBits src - 1) / storeBits src))] else [])
        ++ (if e < off + n then [elems ((max off e - e) * 32) (min count ((off + n - e) * 32))] else [])

/-- Elements of a gather message at most. -/
def pieceMax : Nat := 65536

/-- The members a shard reaches in the positive and in the negative direction (R404). -/
def gatherReach (n : Nat) (positive : Bool) : Nat := if positive then n / 2 else n - 1 - n / 2

def State.gatherFails (s : State) (c : Cmd) : List (Option Refuse) :=
  let fmt := c.param 48 1
  [ (arrayRanges fmt (c.param 64 8) 1 (c.param 56 8)).findSome? fun r => refuseRange (s.rangeOf c r.1 r.2 false { reach := true }) 64
  , s.rangesFail c (arrayRanges (c.param 49 1) (c.param 72 8) 1 (s.members c * c.param 56 8)) true 72
  , s.portsDown c [s.posPort c, s.negPort c] c.vc ]

/-- GATHER runs: the own shard is converted locally and sent in both directions, in pieces. -/
def State.gatherRun (s : State) (c : Cmd) (o : CollOwner) (version : Nat) : State :=
  let fmt := c.param 48 1
  let e := c.param 56 8
  let n := s.members c
  let src := arrayRanges fmt (c.param 64 8) 1 e
  let t := s.openColl c o
  match s.rangesStatus src with
  | some st =>
    match t.collAt c.group c.collSeq with
    | some k => t.failRead k src st
    | none => t
  | none =>
    let t := t.putPiece fmt (c.param 49 1) (c.param 72 8) (n * e) (s.me c * e) e (s.pieceBytes fmt (c.param 64 8) e 0 e)
    let one := fun (p : Nat) (t : State) (i : Nat) =>
      let first := i * pieceMax
      let count := min pieceMax (e - first)
      t.sendColl c p c.vc 0x0102
        (collPrefix c fmt (s.me c) first count ++ leBytes 4 version ++ s.pieceBytes fmt (c.param 64 8) e first count) []
    let pieces := List.range ((e + pieceMax - 1) / pieceMax)
    let t := if gatherReach n true = 0 then t else pieces.foldl (one (s.posPort c)) t
    let t := if gatherReach n false = 0 then t else pieces.foldl (one (s.negPort c)) t
    t.settleColls

def execGather (c : CmdRef) (hv : HostView) (s : State) : Host.Outcome State Fault Refusal :=
  runs (fun s => (s.sees hv).start 0x5000 c fun k s =>
    s.startColl k (s.gatherFails k) true fun s =>
      if k.param 48 1 = k.param 49 1 then s.gatherRun k .command (k.param 52 4)
      else s.onRing fun s => s.gatherRun k .command (k.param 52 4)) s

/-! ## Receiving collective messages (R399, R401) -/

/-- The prefix of a message. -/
structure Prefix where
  digest : Nat
  group : Nat
  format : Nat
  shard : Nat
  first : Nat
  count : Nat
  deriving DecidableEq, Repr

def Msg.prefix (m : Msg) : Prefix :=
  ⟨fieldAt m.body 0 4, fieldAt m.body 4 1, fieldAt m.body 5 1, fieldAt m.body 6 2, fieldAt m.body 8 4, fieldAt m.body 12 4⟩

/-- A message leaves a port's list and its slots. -/
def State.consume (s : State) (p : Nat) (m : Msg) : State :=
  (s.updPort p fun k => { k with inbox := k.inbox.erase m }).returnCredits p m.vc m.held

/-- A message or piece is discarded and counted in STALE (R399, R420). -/
def State.staleColl (s : State) : State := (s.sat32 (blkKeeper + 0x2110) 1).raise evColl 7

/-- Takes the first message of a class on a port whose collective has started, or whose SEQ is past. -/
def State.collMessage (s : State) (p cls : Nat) : Option Msg :=
  (s.port p).inbox.find? fun m => m.cls == cls
    && ((s.collAt m.prefix.group m.context).isSome || (decide (m.context ≤ (s.group m.prefix.group).lastSeq)
      && !s.inflight.any fun c => c.opcode / 0x1000 == 5 && c.group == m.prefix.group && c.collSeq == m.context && c.stage != .done))

/-- Handles a message of a class: of a past SEQ it is discarded; one whose digest differs ends the collective; else `f`, under the settings
of the collective's epoch (R140). -/
def State.onColl (s : State) (p cls : Nat) (f : State → Coll → Msg → State) : State :=
  match s.collMessage p cls with
  | none => s
  | some m =>
    let t := s.consume p m
    match s.collAt m.prefix.group m.context with
    | none => t.staleColl
    | some k =>
      let t := (t.actAs k.cmd).updColl k.cmd fun k => { k with lastAt := s.now }
      if m.prefix.digest ≠ k.cmd.digest then t.failColl k stCollMismatch
      else f t k m

/-- GATHER_PIECE (R403, R404, R405): its VERSION, the piece, and the relay. -/
def State.gatherPiece (s : State) (p : Nat) : State :=
  s.onColl p 0x0102 fun s k m =>
    let c := k.cmd
    let x := m.prefix
    let n := s.members c
    let version := fieldAt m.body 16 4
    if c.param 52 4 ≠ 0 && version ≠ c.param 52 4 then s.failColl k stCollVersion x.shard
    else
      let t := s.putPiece (c.param 48 1) (c.param 49 1) (c.param 72 8) (n * c.param 56 8) (x.shard * c.param 56 8 + x.first) x.count
        (m.body.drop 20)
      let t := m.poison.foldl (fun (t : State) r =>
        t.poisonRanges (pieceLands (c.param 48 1) (c.param 49 1) (c.param 72 8) (n * c.param 56 8) (x.shard * c.param 56 8 + x.first) x.count
          (r.1 - 20) (r.1 + r.2 - max 20 r.1))) t
      let t := t.updColl c fun k => { k with got := insert x.shard ((lookup x.shard k.got).getD 0 + x.count) k.got }
      let positive := p % 2 == 1
      let hops := if positive then (s.me c + n - x.shard) % n else (x.shard + n - s.me c) % n
      let t := if hops < gatherReach n positive then t.sendColl c (p ^^^ 1) c.vc 0x0102 m.body m.poison else t
      t.settleColls

/-- Does the next piece of a gather need widening, which the engines' stream context does (R403)? -/
def State.widens (s : State) (p : Nat) : Bool :=
  match s.collMessage p 0x0102 with
  | some m =>
    match s.collAt m.prefix.group m.context with
    | some k => k.cmd.param 48 1 != k.cmd.param 49 1
    | none => false
  | none => false

def execGatherPiece (p now : Nat) (s : State) : Host.Outcome State Fault Refusal :=
  runs (fun s =>
    let s := s.at now
    if s.widens p then s.onRing fun s => s.gatherPiece p else s.gatherPiece p) s

/-! ## REDUCE_SCATTER (R406-R411) -/

/-- Block i of shard sh of this member's contribution. -/
def Cmd.contribAddr (c : Cmd) (sh i : Nat) : Nat := c.param 64 8 + (sh * c.param 56 4 + i) * strideOf (c.param 48 1)

/-- Reads and checks one of this member's own blocks (Table 15-5): the block, or the status. -/
def State.ownBlock (s : State) (c : Cmd) (sh i : Nat) : Except Nat GtBlock :=
  let a := c.contribAddr sh i
  match s.readStatus a (strideOf (c.param 48 1)) with
  | some st => .error st
  | none =>
    match s.gtAt (c.param 48 1 == 0x19) a with
    | none => .error stCollMalformed
    | some b => if b.checked then .ok b else .error stCollResidue

/-- Checks and adds one received block to this member's own (R245, R407, Table 15-5). -/
def addChain (received own : GtBlock) : Except Nat GtBlock :=
  if !received.checked || !own.checked then .error stCollResidue
  else if received.scale ≠ own.scale then .error stCollScale
  else
    match gtAdd received own with
    | .sum b _ _ => .ok b
    | .bad => .error stCollMalformed
    | .mismatch => .error stUnitFault

/-- The engines whose stream context serves a collective (R231). -/
def State.streamEngines (s : State) (c : Cmd) : List Nat := bitsBelow 32 (s.berthVes c.epoch c.berth)

/-- A received block is added on an engine of the berth, which one the spec leaves open. One whose residue adder an ENGINE_FAULT made
disagree may be the one: the addition is then a mismatch there, counted under R246. -/
def State.addReceived (s : State) (c : Cmd) (received own : GtBlock) : Except Nat GtBlock × State :=
  match addChain received own with
  | .error st => (.error st, s)
  | .ok b =>
    match (s.streamEngines c).find? s.units.upset.contains with
    | none => (.ok b, s)
    | some n =>
      let d := s.draw
      if Config.freeWord d.1 n % 2 = 0 then (.ok b, s)
      else (.error stUnitFault, ({ d.2 with units := { d.2.units with upset := d.2.units.upset.erase n } }).noteResidue n)

/-- Puts the final blocks of the owned shard in their place (R410). -/
def State.putFinal (s : State) (c : Cmd) (first : Nat) (bs : List GtBlock) : State :=
  let mode := c.param 49 1
  let idx := (List.range bs.length).zip bs
  if mode = 3 then s.updColl c fun k => { k with finals := k.finals ++ idx.map fun x => (first + x.1, x.2) }
  else
    let put := fun (t : State) (x : Nat × GtBlock) =>
      let i := first + x.1
      if mode = 0 then t.writeMem (c.param 72 8 + 132 * i) x.2.bytes
      else if mode = 1 then t.writeMem (c.param 72 8 + 256 * i) (packElems 0x01 (x.2.gradient.map toF32))
      else t.writeMem (c.param 72 8 + 128 * i)
        (packElems 0x02 ((List.range 64).map fun j => (bf16Format.convert (x.2.value j)).bits))
    let t := idx.foldl put s
    if first + bs.length = c.param 56 4 then t.updColl c fun k => { k with ownDone := true } else t

/-- Notes that blocks of a shard's chain have passed. -/
def State.passBlocks (s : State) (c : Cmd) (sh n : Nat) : State :=
  s.updColl c fun k => { k with chains := insert sh ((lookup sh k.chains).getD 0 + n) k.chains }

/-- Blocks in a chain message at most. -/
def chainMax : Nat := 1024

/-- The chains begin: the first member of a shard's chain sends its own blocks; on a ring of one they are the result. -/
def State.chainsRun (s : State) (c : Cmd) : State :=
  let n := s.members c
  let sh := (s.me c + n - 1) % n
  let blocks := c.param 56 4
  let one := fun (acc : Except (State × Nat × Nat × Nat) State) (i : Nat) =>
    match acc with
    | .error e => .error e
    | .ok t =>
      let first := i * chainMax
      let count := min chainMax (blocks - first)
      match (List.range count).mapM fun j => s.ownBlock c sh (first + j) with
      | .error st => .error (t, st, c.contribAddr sh first, count * strideOf (c.param 48 1))
      | .ok bs =>
        if n = 1 then .ok ((t.putFinal c first (bs.map GtBlock.widen)).passBlocks c sh count)
        else .ok ((t.sendColl c (s.posPort c) c.vc 0x0101 (collPrefix c (c.param 48 1) sh first count ++ bs.flatMap GtBlock.bytes)
          []).passBlocks c sh count)
  let t := s.updColl c fun k => { k with voting := false, lastAt := s.now }
  if !c.runsShard sh then t.settleColls
  else
    match (List.range ((blocks + chainMax - 1) / chainMax)).foldl one (.ok t) with
    | .ok t => t.settleColls
    | .error (t, st, a, len) =>
      match t.collAt c.group c.collSeq with
      | some k => t.failRead k [(a, len)] st
      | none => t

/-- CHAIN_MESSAGE: each block is checked and added to the own block; the sum goes on, or is final at the owner. -/
def State.chainMessage (s : State) (p : Nat) : State :=
  s.onColl p 0x0101 fun s k m =>
    let c := k.cmd
    let x := m.prefix
    let stride := strideOf x.format
    if !m.poison.isEmpty then s.failColl k stPoisoned
    else
      let one := fun (acc : Except Nat (List GtBlock) × State) (j : Nat) =>
        match acc.1 with
        | .error _ => acc
        | .ok bs =>
          match gtRead (x.format == 0x19) (slice m.body (16 + j * stride) stride) with
          | none => (.error stCollMalformed, acc.2)
          | some r =>
            match s.ownBlock c x.shard (x.first + j) with
            | .error st => (.error st, acc.2)
            | .ok own =>
              let sum := acc.2.addReceived c r own
              (sum.1.map fun b => bs ++ [b], sum.2)
      let r := (List.range x.count).foldl one (.ok [], s)
      match r.1 with
      | .error st => r.2.failRead k [(c.contribAddr x.shard x.first, x.count * strideOf (c.param 48 1))] st
      | .ok bs =>
        let t := (r.2.add64 (blkKeeper + 0x2118) x.count).passBlocks c x.shard x.count
        let t := if x.shard = s.me c then t.putFinal c x.first bs
          else t.sendColl c (s.posPort c) c.vc 0x0101 (collPrefix c 0x19 x.shard x.first x.count ++ bs.flatMap GtBlock.bytes) []
        t.settleColls

def execChainMessage (p now : Nat) (s : State) : Host.Outcome State Fault Refusal :=
  runs (fun s =>
    let s := s.at now
    match s.collMessage p 0x0101 with
    | some m => if (s.collAt m.prefix.group m.context).isSome then s.onRing fun s => s.chainMessage p else s.chainMessage p
    | none => s) s

/-! ## Retained contributions (R418) -/

/-- Releases the retained ranges of a group, those of one STEP where it is given. -/
def State.releaseRetained (s : State) (g : Nat) (step : Option Nat) : State :=
  s.updGroup g fun k =>
    { k with retained := match step with | some x => k.retained.filter fun r => r.step != x | none => [] }

/-- COLL_RELEASE: a write of COLL_CTRL. -/
def State.collRelease (s : State) (v : Nat) : State :=
  (bitsBelow 8 v).foldl (fun (t : State) g => t.releaseRetained g none) s

def execCollRelease (v : Word) (s : State) : Host.Outcome State Fault Refusal := runsHost (fun s => s.collRelease v.toNat) s

/-! ## Votes (R412-R417) -/

def VoteKey.is (k : VoteKey) (kind step round : Nat) : Bool := k.kind == kind && k.step == step && k.round == round

def State.voteKey (s : State) (g kind step round : Nat) : VoteKey :=
  ((s.group g).votes.find? fun k => k.is kind step round).getD
    { kind := kind, step := step, round := round, cast := none, records := [], result := none }

/-- Puts a key in front; the latest four stay (R415). -/
def State.putVote (s : State) (g : Nat) (v : VoteKey) : State :=
  s.updGroup g fun k => { k with votes := (v :: k.votes.filter fun x => !x.is v.kind v.step v.round).take 4 }

/-- Does a member mark its records of a COMMIT vote DECIDED (R416)? -/
def State.marksDecided (s : State) (g kind step : Nat) : Bool := kind == 1 && (s.group g).decided == some step

/-- A vote record's body. -/
def voteBody (c : Cmd) (kind step round member : Nat) (b decided : Bool) (m : Nat) : List Byte :=
  collPrefix c 0 member 0 0 ++ leBytes 4 step ++ leBytes 1 kind ++ leBytes 1 (bit b) ++ leBytes 2 (bit decided) ++ leBytes 4 m
    ++ leBytes 4 round

/-- Sends a record to a neighbour where the port carries it. -/
def State.sendVote (s : State) (c : Cmd) (p : Nat) (body : List Byte) : State :=
  if s.carries p c.vc then
    ((s.sendMessage p c.vc (s.neighbourRoute p) 0x0103 c.collSeq (s.neighbourInc p) body []).1).updCmd c.ref fun d =>
      { d with bodies := d.bodies ++ body }
  else s

/-- The kind, round and history slot of the vote that a VOTE, or a REDUCE_SCATTER with VOTE_FIRST, holds. -/
def Cmd.voteKind (c : Cmd) : Nat := if c.opcode = 0x5001 then 0 else c.param 48 1
def Cmd.voteRound (c : Cmd) : Nat := if c.opcode = 0x5001 then c.param 60 4 else c.param 49 1
def Cmd.voteLocal (c : Cmd) : Bool := c.opcode == 0x5001 || c.param 50 1 == 1
def Cmd.voteAssay (c : Cmd) : Nat := if c.opcode = 0x5001 then c.param 50 2 else c.param 52 2
def Cmd.voteHistory (c : Cmd) : Nat := if c.opcode = 0x5001 then c.param 52 2 else c.param 54 2

/-- The bit and the maximum a member would cast now. -/
def State.localVote (s : State) (c : Cmd) : Bool × Nat :=
  (if c.voteLocal then s.regNat (assayBase c.voteAssay + 0x18) == 0 else c.param 51 1 == 1,
   if c.voteKind = 0 && c.voteHistory ≠ 0 then s.regNat (histBase c.voteHistory + 8) else 0)

/-- What decides on a vote's result for the group: VOTE_STATE, the flag, the release, the decision (R416, R418). -/
def State.noteResult (s : State) (g : Nat) (v : VoteKey) (r : Bool) (zeros lowest : Nat) : State :=
  let t := s.updGroup g fun k =>
    { k with latest := some (v.step, v.round, v.kind, r, zeros, lowest),
             decided := if v.kind = 1 && r then some v.step else k.decided }
  let t := if v.kind = 0 && !r then t.raise evColl 6 else t
  if (v.kind = 0 && !r) || (v.kind = 1 && r) then t.releaseRetained g (some v.step) else t

/-- The open collectives that wait for a key. -/
def State.votersOf (s : State) (g : Nat) (v : VoteKey) : List Coll :=
  s.colls.filter fun k => k.cmd.group == g && k.ended.isNone && (k.cmd.opcode == 0x5005 || k.voting)
    && v.is k.cmd.voteKind k.cmd.step k.cmd.voteRound

/-- A vote's result reaches the collectives that wait for it (R413, R414, R417). -/
def State.giveResult (s : State) (g : Nat) (v : VoteKey) (r : Bool) (m zeros lowest : Nat) : State :=
  (s.votersOf g v).foldl (fun (t : State) k =>
    let h := k.cmd.voteHistory
    let t := if v.kind = 0 && r && h ≠ 0 then t.setNat (histBase h + 8) m else t
    if k.cmd.opcode = 0x5005 then
      t.closeColl k 0 (bit r + (if v.kind = 0 then m * 2 ^ 32 else 0)) (zeros + (if zeros = 0 then 0xFF else lowest) * 256)
    else if r then t.chainsRun k.cmd
    else t.closeColl k stCollNonfinite 0 0) s

/-- A key whose records are all here is decided: the AND of the bits, the group maximum (R413). -/
def State.tallyVote (s : State) (g n : Nat) (v : VoteKey) : State :=
  if v.result.isSome || v.cast.isNone || v.records.length < n then s
  else
    let zero := v.records.filter fun r => !r.2.1
    let lowest := zero.foldl (fun a r => min a r.1) 63
    let m := v.records.foldl (fun a r => max a r.2.2) 0
    let r := zero.isEmpty
    let t := s.putVote g { v with result := some (r, m, zero.length, lowest) }
    (t.noteResult g v r zero.length lowest).giveResult g v r m zero.length lowest

/-- A vote begins: the record is cast once for a key and sent in both directions; a recorded result is returned. -/
def State.castVote (s : State) (c : Cmd) : State :=
  let g := c.group
  let n := s.members c
  let v := s.voteKey g c.voteKind c.step c.voteRound
  let own := v.cast.getD (s.localVote c)
  let fresh := v.cast.isNone
  let v := if fresh then { v with cast := some own, records := v.records ++ [(s.me c, own.1, own.2)] } else v
  let t := s.putVote g v
  let body := voteBody c v.kind v.step v.round (s.me c) own.1 (s.marksDecided g v.kind v.step) own.2
  let t := if n = 1 then t else (t.sendVote c (s.posPort c) body).sendVote c (s.negPort c) body
  match v.result with
  | some (r, m, zeros, lowest) => t.giveResult g v r m zeros lowest
  | none => t.tallyVote g n v

/-- The commands accepted before a vote that name its slots have completed (R414). -/
def Cmd.namesSlots (d : Cmd) (assay hist : Nat) : Bool :=
  let a := if d.opcode = 0x2000 || d.opcode = 0x2001 then d.param 52 2 else if d.opcode = 0x3000 then d.param 38 2 else 0
  (assay ≠ 0 && a == assay) || (hist ≠ 0 && d.histSlot == hist)
def State.voteMayStart (s : State) (c : Cmd) : Bool :=
  let assay := if c.voteLocal then c.voteAssay else 0
  !(s.earlier c.ref).any fun d => d.namesSlots assay (if c.voteKind = 0 then c.voteHistory else 0)

def State.voteFails (s : State) (c : Cmd) : List (Option Refuse) :=
  [ refuseIf (c.voteLocal && !s.assayAllowed c c.voteAssay) stBerthOwnership
  , refuseRange (if c.voteKind = 0 then s.histFails c c.voteHistory 0x18 else none) (if c.opcode = 0x5001 then 52 else 54) ]

/-- A ring with both ports down carries no vote; broken at one link it does (R412). -/
def State.voteLinkFails (s : State) (c : Cmd) : Option Refuse :=
  refuseIf (s.members c != 1 && !s.carries (s.posPort c) c.vc && !s.carries (s.negPort c) c.vc) stLinkDown

def execVote (c : CmdRef) (hv : HostView) (s : State) : Host.Outcome State Fault Refusal :=
  runs (fun s => (s.sees hv).start 0x5005 c fun k s =>
    s.startColl k (s.voteFails k ++ [s.voteLinkFails k]) (s.voteMayStart k) fun s => (s.openColl k .command).castVote k) s

/-- A vote record as a message carries it. -/
structure VoteRecord where
  step : Nat
  kind : Nat
  round : Nat
  member : Nat
  vote : Bool
  decided : Bool
  max : Nat
  deriving DecidableEq, Repr

def Msg.vote (m : Msg) : VoteRecord :=
  { step := fieldAt m.body 16 4, kind := fieldAt m.body 20 1, round := fieldAt m.body 28 4, member := m.prefix.shard,
    vote := fieldAt m.body 21 1 == 1, decided := fieldAt m.body 22 1 == 1, max := fieldAt m.body 24 4 }

/-- The collective through which a member answers for a group: an open one of the record's key, else the record's own message. -/
def State.voteCarrier (s : State) (m : Msg) : Option Coll :=
  let r := m.vote
  s.colls.find? fun k => k.cmd.group == m.prefix.group && k.ended.isNone && (k.cmd.opcode == 0x5005 || k.voting)
    && k.cmd.voteKind == r.kind && k.cmd.step == r.step && k.cmd.voteRound == r.round

/-- Sends a message's body onward in the direction it travels, unchanged but for the bytes given. -/
def State.relay (s : State) (p vc cls : Nat) (m : Msg) (body : List Byte) : State :=
  let out := p ^^^ 1
  if s.carries out vc then (s.sendMessage out vc (s.neighbourRoute out) cls m.context (s.neighbourInc out) body m.poison).1 else s

/-- A COMMIT decision of 1 learnt from a peer completes this member's COMMIT votes of the STEP at once (R416). -/
def State.learnDecided (s : State) (g step : Nat) : State :=
  let t := (s.updGroup g fun k => { k with decided := some step }).releaseRetained g (some step)
  (t.colls.filter fun k => k.cmd.group == g && k.ended.isNone && k.cmd.opcode == 0x5005 && k.cmd.voteKind == 1 && k.cmd.step == step).foldl
    (fun (t : State) k =>
      let t := t.updGroup g fun x => { x with latest := some (step, k.cmd.voteRound, 1, true, 0, 63) }
      t.closeColl k 0 1 (0xFF * 256)) t

/-- VOTE_RECORD: held, relayed, answered, tallied. -/
def State.voteRecord (s : State) (p : Nat) : State :=
  match (s.port p).inbox.find? fun m => m.cls == 0x0103 && decide (m.context ≤ (s.group m.prefix.group).lastSeq) with
  | none => s
  | some m =>
    let t := s.consume p m
    let g := m.prefix.group
    let r := m.vote
    let known := (s.group g).votes.any fun k => k.is r.kind r.step r.round
    match s.voteCarrier m with
    | none =>
      if !known then t.staleColl
      else
        let v := s.voteKey g r.kind r.step r.round
        let t := if r.kind = 1 && r.decided then t.learnDecided g r.step else t
        match v.cast with
        | some (b, x) =>
          let own := fieldAt m.body 6 2
          let body := putField (putField (putField (putField m.body 6 2 (s.coord (s.groupAxis 0 g))) 21 1 (bit b)) 22 1
            (bit (s.marksDecided g r.kind r.step))) 24 4 x
          if own = s.coord (s.groupAxis 0 g) then t else t.relay p m.vc 0x0103 m body
        | none => t
    | some k =>
      let c := k.cmd
      let t := (t.actAs c).updColl c fun k => { k with lastAt := s.now }
      if m.prefix.digest ≠ c.digest && c.opcode = 0x5005 then t.failColl k stCollMismatch
      else
        let v := t.voteKey g r.kind r.step r.round
        if v.records.any fun x => x.1 == r.member then
          -- a repeated record: this member answers with its own, in the same direction (R415)
          match v.cast with
          | some (b, x) =>
            if r.member = s.me c then t
            else t.relay p c.vc 0x0103 m (voteBody c r.kind r.step r.round (s.me c) b (s.marksDecided g r.kind r.step) x)
          | none => t
        else
          let v := { v with records := v.records ++ [(r.member, r.vote, r.max)] }
          let t := (t.putVote g v).relay p c.vc 0x0103 m m.body
          if r.kind = 1 && r.decided then t.learnDecided g r.step else t.tallyVote g (s.members c) v

def execVoteRecord (p now : Nat) (s : State) : Host.Outcome State Fault Refusal :=
  runs (fun s => (s.at now).voteRecord p) s

/-! ## REDUCE_SCATTER as a command -/

/-- Bytes of a whole contribution. -/
def State.contribBytes (s : State) (c : Cmd) : Nat := s.members c * c.param 56 4 * strideOf (c.param 48 1)

/-- Does a contribution need a retained range of its own? A re-run uses the same SRC_ADDR and STEP. -/
def State.newRetained (s : State) (c : Cmd) : Bool :=
  (c.param 33 1).testBit 0 && !(s.group c.group).retained.any fun r => r.step == c.step && r.addr == c.param 64 8

def State.reduceFails (s : State) (c : Cmd) : List (Option Refuse) :=
  let mode := c.param 49 1
  let x := c.param 54 2
  let region := s.regionOf (c.param 64 8)
  [ refuseIf (region != .stack && region != .basin) stOutOfRange 64
  , refuseRange (s.rangeOf c (c.param 64 8) (s.contribBytes c) false) 64
  , refuseIf (c.param 80 8 / 2 ^ s.members c ≠ 0) stOutOfRange 80
  , if mode = 3 then none
    else refuseRange (s.rangeOf c (c.param 72 8) (c.param 56 4 * (if mode = 0 then 132 else if mode = 1 then 256 else 128)) true) 72
  , s.portsDown c [s.posPort c, s.negPort c] c.vc
  , refuseIf (s.newRetained c && 4 ≤ (s.group c.group).retained.length) stNoResource ]
  ++ (if mode = 3 then
        s.ctxFails c x 54 false
          ++ [ refuseIf (s.ctxEnabled c.epoch x && s.ctxBlocks c.epoch x ≠ c.param 56 4) stOutOfRange 54
             , refuseIf (s.guarded (s.stateRange c.epoch x).1 (s.stateRange c.epoch x).2) stResourceInUse ]
      else [])
  ++ (if (c.param 33 1).testBit 1 then s.voteFails c else [])

/-- REDUCE_SCATTER runs: the contribution is retained, the shadow opened, the vote held first where VOTE_FIRST asks for it, and
the chains begin (R417, R418, R495, R498). -/
def State.reduceRun (s : State) (c : Cmd) (o : CollOwner) : State :=
  let x := c.param 54 2
  let keep := s.newRetained c
  let t := s.openColl c o
  let t := if keep then t.updGroup c.group fun k => { k with retained := k.retained ++ [⟨c.step, c.param 64 8, s.contribBytes c⟩] } else t
  let t := if c.param 49 1 = 3 then (t.checkLive c.epoch x) else t
  if c.param 49 1 = 3 && t.stateLost x then
    match t.collAt c.group c.collSeq with
    | some k => t.failColl k stPoisoned
    | none => t
  else
    let t := if c.param 49 1 = 3 then (t.openShadow c.epoch x).stageAhead c.epoch x else t
    if c.param 49 1 = 3 && t.stateLost x then
      match t.collAt c.group c.collSeq with
      | some k => t.failColl k stPoisoned
      | none => t
    else if (c.param 33 1).testBit 1 then (t.updColl c fun k => { k with voting := true }).castVote c else t.chainsRun c

def execReduceScatter (c : CmdRef) (hv : HostView) (s : State) : Host.Outcome State Fault Refusal :=
  runs (fun s => (s.sees hv).start 0x5001 c fun k s =>
    s.startColl k (s.reduceFails k) (!(k.param 33 1).testBit 1 || s.voteMayStart k) fun s => s.reduceRun k .command) s

/-! ## PERMUTE (R419, R420) -/

/-- An OUT table entry: DEST, reserved word, SRC_ADDR, DST_ADDR, BYTES. -/
structure OutPiece where
  dest : Nat
  zero : Nat
  src : Nat
  dst : Nat
  bytes : Nat
  deriving DecidableEq, Repr

def State.outPiece (s : State) (table i : Nat) : OutPiece :=
  let b := s.bytesAt (table + 32 * i) 32
  ⟨fieldAt b 0 4 / 256, fieldAt b 4 4, fieldAt b 8 8, fieldAt b 16 8, fieldAt b 24 8⟩

/-- The landing windows. -/
def State.windows (s : State) (c : Cmd) : List (Nat × Nat) :=
  (List.range (c.param 52 4)).map fun i => (s.natAt (c.param 64 8 + 16 * i) 8, s.natAt (c.param 64 8 + 16 * i + 8) 8)

def State.permuteFails (s : State) (c : Cmd) : List (Option Refuse) :=
  [ if c.param 48 4 = 0 then none else refuseRange (s.rangeOf c (c.param 56 8) (32 * c.param 48 4) false) 56
  , if c.param 52 4 = 0 then none else refuseRange (s.rangeOf c (c.param 64 8) (16 * c.param 52 4) false) 64 ]

/-- What the tables themselves refuse, after they are read. -/
def State.permuteTableFails (s : State) (c : Cmd) (out : List OutPiece) : List (Option Refuse) :=
  [ out.findSome? fun e => refuseIf (e.zero ≠ 0) stReservedNonzero 56
  , out.findSome? fun e => refuseIf (s.outsideTorus e.dest) stOutOfRange 56
  , out.findSome? fun e => refuseRange (s.rangeOf c e.src e.bytes false { reach := true }) 56
  , (s.windows c).findSome? fun w => refuseRange (s.rangeOf c w.1 w.2 true { reach := true }) 64
  , out.findSome? fun e =>
      match s.routePort e.dest with
      | some p => refuseIf (!s.carries p 10) stLinkDown
      | none => none ]

/-- A piece lands: in a window, or discarded (R420). -/
def State.landPiece (s : State) (c : Cmd) (a : Nat) (bs : List Byte) (poison : List (Nat × Nat)) : State :=
  if (s.windows c).any fun w => within a bs.length w.1 w.2 then
    let t := s.writeMem a bs
    let t := poison.foldl (fun (t : State) r => t.poisonRange (a + r.1) r.2) t
    t.updColl c fun k => { k with received := k.received + bs.length }
  else s.staleColl.raise evColl 3

def State.permuteRun (s : State) (c : Cmd) : State :=
  let out := (List.range (c.param 48 4)).map (s.outPiece (c.param 56 8))
  let tables := [(c.param 56 8, 32 * c.param 48 4), (c.param 64 8, 16 * c.param 52 4)]
  match s.rangesStatus tables with
  | some st =>
    let t := s.openColl c .command
    match t.collAt c.group c.collSeq with
    | some k => t.failRead k tables st
    | none => t
  | none =>
  match theRefusal (s.permuteTableFails c out) with
  | some r => s.finish c.ref { status := r.status, detail := r.detail }
  | none =>
    let t := s.openColl c .command
    match s.rangesStatus (out.map fun e => (e.src, e.bytes)) with
    | some st =>
      match t.collAt c.group c.collSeq with
      | some k => t.failRead k (out.map fun e => (e.src, e.bytes)) st
      | none => t
    | none =>
      let one := fun (t : State) (x : Nat × OutPiece) =>
        let e := x.2
        let data := s.bytesAt e.src e.bytes
        match s.routePort e.dest with
        | none => t.landPiece c e.dst data []
        | some p =>
          let body := collPrefix c 0 0 0 0 ++ leBytes 8 e.dst ++ data
          let r := t.sendMessage p (s.nextVc none (10 + x.1 % 2) p) e.dest 0x0105 c.collSeq 0 body []
          (r.1.updColl c fun k => { k with sent := k.sent ++ [r.2] }).updCmd c.ref fun d => { d with bodies := d.bodies ++ body }
      (((List.range out.length).zip out).foldl one t).settleColls

def execPermute (c : CmdRef) (hv : HostView) (s : State) : Host.Outcome State Fault Refusal :=
  runs (fun s => (s.sees hv).start 0x5002 c fun k s => s.startColl k (s.permuteFails k) true fun s => s.permuteRun k) s

/-- PERMUTE_PIECE. Members' digests of one PERMUTE agree on its opcode, group, STEP and SEQ. -/
def State.permutePiece (s : State) (p : Nat) : State :=
  s.onColl p 0x0105 fun s k m =>
    let bad := m.poison.filterMap fun r => if 24 ≤ r.1 then some (r.1 - 24, r.2) else none
    (s.landPiece k.cmd (fieldAt m.body 16 8) (m.body.drop 24) bad).settleColls

def execPermutePiece (p now : Nat) (s : State) : Host.Outcome State Fault Refusal :=
  runs (fun s => (s.at now).permutePiece p) s

/-! ## SEND and RECV (R421) -/

/-- The port of DIR. -/
def State.dirPort (s : State) (c : Cmd) : Nat := if c.param 48 1 = 0 then s.posPort c else s.negPort c

def State.pipeFails (s : State) (c : Cmd) (write : Bool) : List (Option Refuse) :=
  [ refuseRange (s.rangeOf c (c.param 56 8) (c.param 64 8) write) 56, s.portsDown c [s.dirPort c] 14 ]

/-- SEND runs. On a ring of one nothing leaves the device. -/
def State.sendRun (s : State) (c : Cmd) (o : CollOwner) (data : List Byte) (src : List (Nat × Nat)) : State :=
  let t := s.openColl c o
  match s.rangesStatus src, t.collAt c.group c.collSeq with
  | some e, some k => t.failRead k src e
  | _, _ =>
    let t := if s.members c = 1 then t
      else t.sendColl c (s.dirPort c) 14 0x0104 (collPrefix c 0 0 0 data.length ++ data) []
    t.settleColls

def execSend (c : CmdRef) (hv : HostView) (s : State) : Host.Outcome State Fault Refusal :=
  runs (fun s => (s.sees hv).start 0x5003 c fun k s =>
    s.startColl k (s.pipeFails k false) true fun s =>
      s.sendRun k .command (s.bytesAt (k.param 56 8) (k.param 64 8)) [(k.param 56 8, k.param 64 8)]) s

def execRecv (c : CmdRef) (hv : HostView) (s : State) : Host.Outcome State Fault Refusal :=
  runs (fun s => (s.sees hv).start 0x5004 c fun k s =>
    s.startColl k (s.pipeFails k true) true fun s => s.openColl k .command) s

/-- PIPELINE_MESSAGE: matched to the RECV of its group, SEQ and direction. -/
def State.pipelineMessage (s : State) (p : Nat) : State :=
  match s.collMessage p 0x0104 with
  | none => s
  | some m =>
    match s.collAt m.prefix.group m.context with
    | none => (s.consume p m).staleColl
    | some k =>
      let c := k.cmd
      if c.opcode ≠ 0x5004 || s.dirPort c ≠ p then s
      else
        let t := (s.consume p m).actAs c
        let data := m.body.drop 16
        if m.prefix.digest ≠ c.digest || data.length ≠ c.param 64 8 then t.failColl k stCollMismatch
        else
          let t := t.writeMem (c.param 56 8) data
          let t := m.poison.foldl (fun (t : State) r => if 16 ≤ r.1 then t.poisonRange (c.param 56 8 + r.1 - 16) r.2 else t) t
          t.closeColl k 0 0 0

def execPipelineMessage (p now : Nat) (s : State) : Host.Outcome State Fault Refusal :=
  runs (fun s => (s.at now).pipelineMessage p) s

/-! ## Abort notices, deadlines, link-downs -/

/-- ABORT_NOTICE (R423). -/
def State.abortNotice (s : State) (p : Nat) : State :=
  match (s.port p).inbox.find? fun m => m.cls == 0x0110 with
  | none => s
  | some m =>
    let g := fieldAt m.body 4 1
    let seq := fieldAt m.body 16 4
    let st := fieldAt m.body 20 2
    let member := fieldAt m.body 22 2
    let t := (s.consume p m).raise evColl 1
    let own := s.coord (axisOf p)
    let t := if member = own || (s.group g).relayed.contains seq then t
      else (t.relay p 0 0x0110 m m.body).updGroup g fun k => { k with relayed := (seq :: k.relayed).take 16 }
    match t.collAt g seq with
    | some k => t.endColl k (if k.cmd.opcode = 0x5003 && st = stCollMismatch then stCollMismatch else stCollPeerFailed) 0
    | none =>
      if (s.group g).lastSeq < seq || s.inflight.any (fun c => c.opcode / 0x1000 == 5 && c.group == g && c.collSeq == seq && c.stage != .done) then
        t.updGroup g fun k => { k with aborts := (seq :: k.aborts.filter (· != seq)).take 16 }
      else t

def execAbortNotice (p now : Nat) (s : State) : Host.Outcome State Fault Refusal :=
  runs (fun s => (s.at now).abortNotice p) s

/-- COLL_DEADLINE: an expectation of an open collective was not met in time (R422). -/
def State.collLate (s : State) (g seq : Nat) : State :=
  match s.collAt g seq with
  | some k => if s.expired (k.lastAt + s.collDeadline k.cmd) then s.failColl k stCollDeadline else s
  | none => s

def execCollDeadline (group seq now : Nat) (s : State) : Host.Outcome State Fault Refusal :=
  runs (fun s => (s.at now).collLate group seq) s

/-- A port went down, or carries VC2 to VC14 no longer: the collectives of its axis, and those with a message part-sent or not yet
acknowledged through it, end with LINK_DOWN (Table 14-11, Table 15-8). `lost` lists the message numbers it held. -/
def State.collsLinkDown (s : State) (p : Nat) (lost : List Nat) : State :=
  (s.colls.filter fun k => k.ended.isNone && ((k.cmd.opcode != 0x5002 && axisOf p == s.axisOfCmd k.cmd
      && !(k.cmd.opcode == 0x5005 && s.carries (p ^^^ 1) k.cmd.vc)
      && !((k.cmd.opcode == 0x5003 || k.cmd.opcode == 0x5004) && s.dirPort k.cmd != p))
    || k.sent.any fun m => lost.contains m)).foldl (fun (t : State) k => t.failColl k stLinkDown) s

end Sys2Proof.Machine
end

