-- ==== Sys2Proof/Machine/Pave.lean ====
section
/-! DEFINITION. The pavé array (chapters 6 and 8): MATMUL and MATMUL_GROUPED, their refusals, their values in the reference order,
their epilogue, and how they end. -/

namespace Sys2Proof.Machine

open Sys2Proof

/-! ## Classes and shapes -/

/-- The depth k of a format's class (Table 6-1); 0 for a format no class holds. -/
def depthOf (code : Nat) : Nat :=
  if code = 0x01 then 1
  else if code = 0x02 || code = 0x03 then 2
  else if code = 0x0A then 8
  else if (0x04 ≤ code && code ≤ 0x09) || code = 0x0B then 4
  else 0

/-- The K tile of a class. -/
def tileOf (code : Nat) : Nat := 128 * depthOf code

def ceilDiv (a b : Nat) : Nat := (a + b - 1) / b

/-- The bits of FMT_OUT's class in the A layout. -/
def outFormats : List Nat := [0x01, 0x02, 0x03, 0x04, 0x05, 0x06, 0x07]

/-- One product: the parameters of Table 6-4, or of a group with its table entry. -/
structure Product where
  m : Nat
  n : Nat
  k : Nat
  fmtA : Nat
  fmtB : Nat
  fmtOut : Nat
  epi : Nat
  epiFmt : Nat
  dqMode : Nat
  tiled : Bool
  resident : Bool
  dqValue : Nat
  accAddr : Nat
  accSize : Nat
  epiAddr : Nat
  aAddr : Nat
  aScale : Nat
  bAddr : Nat
  bScale : Nat
  outAddr : Nat
  dqAddr : Nat
  /-- Tiles of the command before this product's (R173). -/
  tile0 : Nat
  deriving DecidableEq, Repr

/-- The product of a MATMUL. -/
def Cmd.product (c : Cmd) : Product :=
  { m := c.param 32 4, n := c.param 36 4, k := c.param 40 4, fmtA := c.param 44 1, fmtB := c.param 45 1, fmtOut := c.param 46 1,
    epi := field (c.param 48 1) 3 0, epiFmt := field (c.param 48 1) 7 4, dqMode := c.param 49 1,
    tiled := bitOf (c.param 51 1) 1, resident := bitOf (c.param 51 1) 0, dqValue := c.param 56 4, accAddr := c.param 60 4,
    accSize := c.param 64 4, epiAddr := c.param 68 4, aAddr := c.param 72 4, aScale := c.param 76 4, bAddr := c.param 80 8,
    bScale := c.param 88 8, outAddr := c.param 96 8, dqAddr := c.param 104 8, tile0 := 0 }

def Product.kt (p : Product) : Nat := tileOf p.fmtA
def Product.tK (p : Product) : Nat := ceilDiv p.k (max 1 p.kt)
def Product.tN (p : Product) : Nat := ceilDiv p.n 512
def Product.blocks (p : Product) : Nat := ceilDiv p.m 4

/-- Levels of the partial-sum stack (R162). -/
def Product.levels (p : Product) : Nat := Nat.log2 (p.tK + 1)

/-- Rows streamed per pass (R162). -/
def Product.mC (p : Product) : Nat :=
  if p.levels = 0 then p.m else min p.m (p.accSize / (2048 * p.levels) / 4 * 4)

/-- M chunks. -/
def Product.chunks (p : Product) : Nat := if p.mC = 0 then 0 else ceilDiv p.m p.mC

/-- Stone-rows of K tile t that hold data (Table 6-7). -/
def Product.stoneRows (p : Product) (t : Nat) : Nat :=
  min 128 (ceilDiv (p.k - t * p.kt) (max 1 (depthOf p.fmtA)))

/-! ## Banks of a pavé (Table 10-2) -/

def pavePlain (n : Nat) : Nat := bankBase + n / 2 * 0x80000000 + n % 2 * 0x08000000
def aBank (n : Nat) : Nat := pavePlain n
def bBank (n : Nat) : Nat := pavePlain n + 0x02000000
def cBank (n : Nat) : Nat := pavePlain n + 0x04000000
def aBankBytes : Nat := 0x2000000
def bBankBytes : Nat := 0x1000000
def cBankBytes : Nat := 0x1800000

/-! ## Layouts (R159, R160), as bit offsets -/

/-- The bit offset of A[i][kk] in the A layout of a tensor with M rows, for a format. -/
def layoutA (code blocks i kk : Nat) : Nat :=
  let d := depthOf code
  let kt := tileOf code
  8 * (2048 * (kk / kt * blocks + i / 4) + 16 * (kk % kt / d)) + (i % 4 * d + kk % kt % d) * storeBits code

/-- The byte offset of the scale of A[i][kk]. -/
def layoutAScale (code blocks i kk : Nat) : Nat :=
  let kt := tileOf code
  kt / 8 * (kk / kt * blocks + i / 4) + kt / 32 * (i % 4) + kk % kt / 32

/-- The bit offset of B[kk][nn] within its tile. -/
def layoutB (code kk nn : Nat) : Nat :=
  let d := depthOf code
  let kt := tileOf code
  8 * (2048 * (kk % kt / d) + 16 * (nn % 512 / 4)) + (kk % kt % d * 4 + nn % 4) * storeBits code

/-- The byte offset of the scale of B[kk][nn] within its tile's scale block. -/
def layoutBScale (code kk nn : Nat) : Nat := 512 * (kk % tileOf code / 32) + nn % 512

/-! ## Values -/

/-- A[i][kk] as pavé n holds it. -/
def State.prodA (s : State) (p : Product) (n i kk : Nat) : Fp :=
  let w := s.patternAt p.fmtA (aBank n + p.aAddr) (layoutA p.fmtA p.blocks i kk)
  if isMx p.fmtA then readMx p.fmtA (s.natAt (aBank n + p.aScale + layoutAScale p.fmtA p.blocks i kk) 1) w
  else readElem p.fmtA w

/-- The index of a tile among those dealt to its pavé, within the product (R163). -/
def Product.dealt (_p : Product) (count u : Nat) : Nat := u / count

/-- The tile of B that holds column nn and position kk: its index in the stream, or among the tiles dealt to the pavé. -/
def Product.bTile (p : Product) (count kk nn : Nat) : Nat :=
  (if p.resident then p.dealt count (nn / 512) else nn / 512) * p.tK + kk / p.kt

/-- B[kk][nn] as the pavé that runs its tile reads it. -/
def State.prodB (s : State) (p : Product) (count n kk nn : Nat) : Fp :=
  let o := if p.resident then bBank n else 0
  let t := p.bTile count kk nn
  let w := s.patternAt p.fmtB (o + p.bAddr + 262144 * t) (layoutB p.fmtB kk nn)
  if isMx p.fmtB then
    readMx p.fmtB (s.natAt (o + p.bScale + tileOf p.fmtB / 32 * 512 * t + layoutBScale p.fmtB kk nn) 1) w
  else readElem p.fmtB w

/-- The FP32 value of one output element in the reference order (R211-R215). -/
def State.accOf (s : State) (p : Product) (count n i nn : Nat) : Fp :=
  referenceDot ((List.range p.k).map fun kk => (s.prodA p n i kk).mul (s.prodB p count n kk nn))

/-- The pavé that runs column nn (R163, R173). -/
def Product.paveOf (p : Product) (paves : List Nat) (nn : Nat) : Nat := paves.getD ((p.tile0 + nn / 512) % paves.length) 0

/-- The epilogue's operand for (i, nn) (R166). -/
def State.epiOperand (s : State) (p : Product) (count n i nn : Nat) : Fp :=
  let code := if p.epiFmt = 0 then 0x01 else 0x02
  s.elemAt code (cBank n + p.epiAddr) ((p.dealt count (nn / 512) * p.m * 512 + i * 512 + nn % 512) * storeBits code)

/-- The epilogue up to its conversion (R174): each operation rounded once. -/
def epilogue (dqMode epi : Nat) (acc tensor column e : Fp) : Fp :=
  let y := if dqMode = 1 || dqMode = 3 then mulF acc tensor else acc
  let y := if dqMode = 2 || dqMode = 3 then mulF y column else y
  if epi = 1 then addF y e else if epi = 2 then mulF y e else y

/-- y of output element (i, nn). -/
def State.prodOut (s : State) (p : Product) (paves : List Nat) (i nn : Nat) : Fp :=
  let n := p.paveOf paves nn
  let count := paves.length
  epilogue p.dqMode p.epi (s.accOf p count n i nn) (ofF32 p.dqValue) (ofF32 (s.natAt (p.dqAddr + 4 * nn) 4))
    (s.epiOperand p count n i nn)

/-- The rows of OUT before conversion. -/
def State.prodRows (s : State) (p : Product) (paves : List Nat) : List (List Fp) :=
  (List.range p.m).map fun i => (List.range p.n).map fun nn => s.prodOut p paves i nn

/-! ## Ranges -/

def Product.empty (p : Product) : Bool := p.m == 0 || p.n == 0

/-- Bytes of A and of its scales. -/
def Product.aBytes (p : Product) : Nat := p.tK * p.blocks * 2048
def Product.aScaleBytes (p : Product) : Nat := if isMx p.fmtA then p.kt / 8 * (p.tK * p.blocks) else 0

/-- Bytes of one element of the epilogue operand. -/
def Product.epiBytes (p : Product) : Nat := if p.epiFmt = 0 then 4 else 2

/-- Tiles of the product dealt to the pavé at a place of the mask. -/
def Product.tilesAt (p : Product) (count place : Nat) : List Nat :=
  (List.range p.tN).filter fun u => (p.tile0 + u) % count == place

/-- The ranges OUT occupies (R168). -/
def Product.outRanges (p : Product) : List (Nat × Nat) :=
  if p.tiled then
    let t := ceilDiv p.n (tileOf p.fmtOut)
    let len := t * p.blocks * 2048
    (p.outAddr, len) :: (if isMx p.fmtOut then
      [((p.outAddr + len + 63) / 64 * 64, tileOf p.fmtOut / 8 * (t * p.blocks))] else [])
  else arrayRanges p.fmtOut p.outAddr p.m p.n

/-! The bytes that hold data: an error in padding does not arise from a read of it (R161). -/

/-- Positions of K in tile t that hold data, and in its stone-row r. -/
def Product.kLeft (p : Product) (t : Nat) : Nat := min p.kt (p.k - t * p.kt)
def Product.stoneData (p : Product) (t r : Nat) : Nat := min (depthOf p.fmtA) (p.kLeft t - r * depthOf p.fmtA)

/-- Columns of N in tile u. -/
def Product.cols (p : Product) (u : Nat) : Nat := min p.n (512 * u + 512) - 512 * u

/-- The data of one slab of A, rows 4·ib to 4·ib + 3 of K tile t, at an address: whole stone-rows, then what is left. -/
def Product.slabData (p : Product) (a ib t : Nat) : List (Nat × Nat) :=
  let rows := min 4 (p.m - 4 * ib)
  let d := max 1 (depthOf p.fmtA)
  let full := p.kLeft t / d
  (if rows = 4 then [(a, 16 * full)] else (List.range full).map fun r => (a + 16 * r, 4 * rows))
    ++ (if p.kLeft t % d = 0 then [] else (List.range rows).map fun i => (a + 16 * full + 4 * i, (p.kLeft t % d * storeBits p.fmtA + 7) / 8))

/-- The data of one tile of B, columns of N tile u and K tile t, at an address. -/
def Product.tileData (p : Product) (a u t : Nat) : List (Nat × Nat) :=
  let e := storeBits p.fmtB
  let d := depthOf p.fmtB
  let cols := p.cols u
  (List.range (p.stoneRows t)).flatMap fun r =>
    let o := a + 2048 * r
    let v := p.stoneData t r
    (if v = d then [(o, 16 * (cols / 4))] else (List.range (cols / 4)).map fun c => (o + 16 * c, (v * 4 * e + 7) / 8))
      ++ (if cols % 4 = 0 then [] else (List.range v).map fun j => (o + 16 * (cols / 4) + j * 4 * e / 8, (cols % 4 * e + 7) / 8))

/-- The ranges of B tiles and scales that a set of tiles reads from an origin; `pos` gives a tile's place there. -/
def Product.bRanges (p : Product) (origin : Nat) (tiles : List Nat) (pos : Nat → Nat) : List (Nat × Nat) :=
  tiles.flatMap fun u => (List.range p.tK).flatMap fun t =>
    let j := pos u * p.tK + t
    p.tileData (origin + p.bAddr + 262144 * j) u t
      ++ (if isMx p.fmtB then (List.range (ceilDiv (p.kLeft t) 32)).map fun g =>
            (origin + p.bScale + tileOf p.fmtB / 32 * 512 * j + 512 * g, p.cols u) else [])

/-- The A-bank ranges a pavé reads. -/
def Product.readsA (p : Product) (n : Nat) : List (Nat × Nat) :=
  (List.range p.tK).flatMap fun t => (List.range p.blocks).flatMap fun ib =>
    p.slabData (aBank n + p.aAddr + 2048 * (t * p.blocks + ib)) ib t
      ++ (if isMx p.fmtA then (List.range (min 4 (p.m - 4 * ib))).map fun i =>
            (aBank n + p.aScale + p.kt / 8 * (t * p.blocks + ib) + p.kt / 32 * i, ceilDiv (p.kLeft t) 32) else [])

/-- The ranges of B a pavé reads. -/
def Product.readsB (p : Product) (count place n : Nat) : List (Nat × Nat) :=
  if p.resident then p.bRanges (bBank n) (p.tilesAt count place) (p.dealt count) else p.bRanges 0 (p.tilesAt count place) id

/-- The epilogue operand that a pavé reads, of each of its tiles. -/
def Product.readsEpi (p : Product) (count place n : Nat) : List (Nat × Nat) :=
  if p.epi = 0 then []
  else (p.tilesAt count place).flatMap fun u =>
    let a := cBank n + p.epiAddr + p.dealt count u * p.m * 512 * p.epiBytes
    if p.cols u = 512 then [(a, p.m * 512 * p.epiBytes)]
    else (List.range p.m).map fun i => (a + i * 512 * p.epiBytes, p.cols u * p.epiBytes)

/-- The partial-sum stack, which every level reads back (R162): a bad byte found there is one that fell during the passes. -/
def Product.readsAcc (p : Product) (n : Nat) : List (Nat × Nat) := if p.levels = 0 then [] else [(cBank n + p.accAddr, p.accSize)]

/-- The column scales a pavé reads. -/
def Product.readsDq (p : Product) (count place : Nat) : List (Nat × Nat) :=
  if 2 ≤ p.dqMode then (p.tilesAt count place).map fun u => (p.dqAddr + 2048 * u, 4 * (min p.n (512 * u + 512) - 512 * u)) else []

/-! ## Refusals (R169) -/

/-- The pavés that run a command: its mask, without the fenced ones where ANY_PAVE is set. -/
def State.pavesOf (s : State) (c : Cmd) : List Nat :=
  let mask := bitsBelow 8 (c.param 47 1)
  if bitOf (c.param 51 1) 3 then mask.filter fun n => !s.isFenced (n + 1) else mask

/-- Does a region pass the end of its bank? One of zero extent never does (R169). -/
def passes (off len size : Nat) : Bool := decide (0 < len) && decide (size < off + len)

/-- The class 1 refusals of one product that rest on its shape alone. -/
def Product.shapeFails (p : Product) (count : Nat) : List (Option Refuse) :=
  let tiles := ceilDiv p.tN (max 1 count)
  let epi := tiles * p.m * 512 * p.epiBytes
  [ refuseIf (depthOf p.fmtA = 0 || depthOf p.fmtA ≠ depthOf p.fmtB) stOutOfRange 44
  , refuseIf (!outFormats.contains p.fmtOut) stOutOfRange 46
  , refuseIf (isMx p.fmtOut && p.n % 32 ≠ 0) stOutOfRange 36
  , refuseIf (p.accSize < 8192 * p.levels) stOutOfRange 64
  , refuseIf (passes p.accAddr p.accSize cBankBytes) stOutOfRange 60
  , refuseIf (p.epi ≠ 0 && 0 < epi && 0 < p.accSize && overlaps p.accAddr p.accSize p.epiAddr epi) stOutOfRange 60
  , refuseIf (p.epi ≠ 0 && passes p.epiAddr epi cBankBytes) stOutOfRange 68
  , refuseIf (passes p.aAddr p.aBytes aBankBytes) stOutOfRange 72
  , refuseIf (passes p.aScale p.aScaleBytes aBankBytes) stOutOfRange 76
  , refuseIf (isMx p.fmtA != (p.aScale != 0)) stOutOfRange 76
  , refuseIf (isMx p.fmtB != (p.bScale != 0)) stOutOfRange 88
  , refuseIf (p.resident && passes p.bAddr (tiles * p.tK * 262144) bBankBytes) stOutOfRange 80
  , refuseIf (p.resident && isMx p.fmtB && passes p.bScale (tiles * p.tK * (tileOf p.fmtB / 32 * 512)) bBankBytes) stOutOfRange 88 ]

/-- The judgements of a product's device addresses. -/
def State.prodRanges (s : State) (c : Cmd) (p : Product) : List (Option Refuse) :=
  (if p.resident then [] else
    [ refuseRange (s.rangeOf c p.bAddr (p.tN * p.tK * 262144) false) 80
    , if isMx p.fmtB then refuseRange (s.rangeOf c p.bScale (p.tN * p.tK * (tileOf p.fmtB / 32 * 512)) false) 88 else none ])
  ++ [ s.rangesFail c p.outRanges true 96
     , if 2 ≤ p.dqMode then refuseRange (s.rangeOf c p.dqAddr (4 * p.n) false) 104 else none ]

/-- The refusals that MATMUL and MATMUL_GROUPED share. -/
def State.commonFails (s : State) (c : Cmd) : List (Option Refuse) :=
  let fmtOut := c.param 46 1
  let scale := c.param 50 1
  let h := c.param 54 2
  [ refuseIf (c.param 47 1 = 0) stOutOfRange 47
  , refuseIf (fmtOut ≠ 0x04 && fmtOut ≠ 0x05 && scale ≠ 0) stOutOfRange 50
  , refuseIf (scale = 0x80) stOutOfRange 50
  , refuseRange (s.histFails c h fmtOut) 54
  , refuseIf (!s.assayAllowed c (c.param 52 2)) stBerthOwnership
  , refuseIf ((bitsBelow 8 (c.param 47 1)).any fun n => !(s.berthPaves c.epoch c.berth).testBit n) stBerthOwnership
  , refuseIf ((s.pavesOf c).isEmpty || (s.pavesOf c).any fun n => s.isFenced (n + 1)) stUnitFenced
  , refuseIf ((s.pavesOf c).any fun n => s.power.gated.testBit (n / 2)) stUnitFenced
  , refuseIf (bitOf (c.param 51 1) 2 && s.sec.debug = 0) stNotPermitted ]

def State.matmulFails (s : State) (c : Cmd) : List (Option Refuse) :=
  c.product.shapeFails (s.pavesOf c).length ++ s.commonFails c ++ s.prodRanges c c.product

/-! ## Running -/

/-- The scale exponent a command converts with: its slot's, else OUT_SCALE (R200). -/
def Cmd.outScale (c : Cmd) (slot scale : Nat) : Int := if slot = 0 then signedOf 8 scale else c.scale.getD 0

/-- What is written of OUT, run by run (R168): its elements within M × N, and their scales. -/
def Product.outRuns (p : Product) (v : Converted) : List (Nat × List Byte) :=
  if p.tiled then
    let elems := ((List.range v.elems.length).zip v.elems).map fun x =>
      (p.outAddr + layoutA p.fmtOut p.blocks (x.1 / p.n) (x.1 % p.n) / 8, leBytes (storeBits p.fmtOut / 8) x.2.bits)
    let scales := match p.outRanges with
      | _ :: sc :: _ => ((List.range v.scales.length).zip v.scales).map fun x =>
          let b := p.n / 32
          (sc.1 + layoutAScale p.fmtOut p.blocks (x.1 / b) (x.1 % b * 32), leBytes 1 x.2)
      | _ => []
    joinRuns ((elems ++ scales).mergeSort fun a b => decide (a.1 ≤ b.1))
  else rowRuns p.fmtOut p.outAddr v

/-- Writes OUT of a product (R168). -/
def State.writeOut (s : State) (p : Product) (v : Converted) : State := s.writeRuns (p.outRuns v)

/-- A pavé of a command with its place in the dealing. -/
def placed (paves : List Nat) : List (Nat × Nat) := (List.range paves.length).zip paves

/-- The pavés that run a tile of some product (R163). -/
def workers (ps : List Product) (paves : List Nat) : List (Nat × Nat) :=
  (placed paves).filter fun w => ps.any fun p => !p.empty && !(p.tilesAt paves.length w.1).isEmpty

/-- Everything a pavé reads for the products: A, B, C and column scales. -/
def paveReads (ps : List Product) (count : Nat) (w : Nat × Nat) : List (Nat × Nat) :=
  (ps.filter fun p => !p.empty).flatMap fun p =>
    if (p.tilesAt count w.1).isEmpty then []
    else p.readsA w.2 ++ p.readsB count w.1 w.2 ++ p.readsEpi count w.1 w.2 ++ p.readsDq count w.1

/-- The partial sums that a pavé reads back: parity alone is judged there (Table 6-8). -/
def accReads (ps : List Product) (count : Nat) (w : Nat × Nat) : List (Nat × Nat) :=
  (ps.filter fun p => !p.empty && !(p.tilesAt count w.1).isEmpty).flatMap fun p => p.readsAcc w.2

/-- The event flags that a failing read sets on one pavé. -/
def State.paveReadEvents (s : State) (ps : List Product) (count : Nat) (w : Nat × Nat) : State :=
  let qs := ps.filter fun p => !p.empty && !(p.tilesAt count w.1).isEmpty
  let ev := evPave w.2
  let s1 := if s.parityBad (qs.flatMap fun p => p.readsA w.2) then s.raise ev 1 else s
  let s2 := if s.parityBad (qs.flatMap fun p => p.readsB count w.1 w.2) then s1.raise ev 2 else s1
  let s3 := if s.parityBad (qs.flatMap (fun p => p.readsEpi count w.1 w.2) ++ accReads ps count w) then s2.raise ev 3 else s2
  if s.poisonIn (paveReads ps count w) then s3.raise ev 4 else s3

/-- What the banks of a pavé that ran a command hold afterwards, whether or not it had a tile: the B-bank after streaming and the ACC region
are undefined (R163, R167, R175). -/
def State.spend (s : State) (ps : List Product) (hold : Bool) (w : Nat × Nat) : State :=
  match ps.head? with
  | none => s
  | some p =>
    let s1 := if p.resident then s else s.undefine (bBank w.2) bBankBytes
    if hold then s1 else s1.undefine (cBank w.2 + p.accAddr) p.accSize

/-- The passes of a pavé in order (R163): the beats its rows take, b × ⌈M_c ÷ 4⌉, and the stone-rows of its tile (R156). -/
def passList (ps : List Product) (count place : Nat) : List (Nat × Nat) :=
  (ps.filter fun p => !p.empty).flatMap fun p =>
    let b := if depthOf p.fmtA = 1 then 2 else 1
    (p.tilesAt count place).flatMap fun _ =>
      (List.range p.chunks).flatMap fun j =>
        (List.range p.tK).map fun t => (b * ceilDiv (min p.mC (p.m - j * p.mC)) 4, p.stoneRows t)

/-- The beats in which passes wait for shadow loads: a load hides behind the pass before it, the first one behind `hide` beats
of an earlier command's last pass (R156, R157). -/
def exposedLoads : Nat → List (Nat × Nat) → Nat
  | _, [] => 0
  | hide, (beats, rows) :: ps => (rows - hide) + exposedLoads beats ps

/-- The beats of an earlier command's last pass behind which a command's first tile was loaded (R157). -/
def State.hiddenBeats (s : State) (c : Cmd) (n : Nat) : Nat :=
  match lookup n s.units.shadow with
  | some (beats, who) => if who.contains (c.ref, c.acceptedAt) then beats else 0
  | none => 0

/-- The commands other than c that are accepted for a pavé. -/
def State.waitingFor (s : State) (c : Cmd) (n : Nat) : List (CmdRef × Nat) :=
  (s.inflight.filter fun d => d.ref != c.ref && d.stage != Stage.done && (d.opcode == 0x2000 || d.opcode == 0x2001)
    && (d.param 47 1).testBit n).map fun d => (d.ref, d.acceptedAt)

/-- What the passes of a pavé add to PASS_COUNT and LOAD_EXPOSED. -/
def State.countPasses (s : State) (c : Cmd) (ps : List Product) (count : Nat) (w : Nat × Nat) : State :=
  let l := passList ps count w.1
  let t := (s.add64 (blkPave w.2 + 0x10) l.length).add64 (blkPave w.2 + 0x18) (exposedLoads (s.hiddenBeats c w.2) l)
  match l.getLast? with
  | some (beats, _) => { t with units := { t.units with shadow := insert w.2 (beats, s.waitingFor c w.2) t.units.shadow } }
  | none => t

/-- PASS_COUNT and LOAD_EXPOSED of a pavé whose command was stopped: how many of its passes had completed is open. -/
def State.somePasses (s : State) (c : Cmd) (ps : List Product) (count : Nat) (w : Nat × Nat) : State :=
  let d := s.draw
  let l := passList ps count w.1
  let t := (d.2.add64 (blkPave w.2 + 0x10) (Config.freeWord d.1 w.2 % (l.length + 1))).add64 (blkPave w.2 + 0x18)
    (Config.freeWord d.1 (8 + w.2) % (exposedLoads (s.hiddenBeats c w.2) l + 1))
  { t with units := { t.units with shadow := erase w.2 t.units.shadow } }

/-- ACC_HOLD of a pavé. -/
def accHoldAt (n : Nat) : Nat := blkPave n + 0x28

/-- The held region of a pavé after HOLD_ACC (R223): the last M chunk of the last tile it ran. -/
def State.holdAcc (s t : State) (ps : List Product) (paves : List Nat) (w : Nat × Nat) : State :=
  let runs := ps.flatMap fun p =>
    if p.empty || p.k = 0 then [] else (p.tilesAt paves.length w.1).map fun u => (p, u)
  match runs.getLast? with
  | none => t
  | some (p, u) =>
    let row0 := (p.chunks - 1) * p.mC
    let rows := p.m - row0
    let base := cBank w.2 + p.accAddr
    let t1 := t.undefine base p.accSize
    let cols := min p.n (512 * u + 512) - 512 * u
    let t2 := (List.range rows).foldl (fun (t : State) i =>
      t.writeMem (base + 2048 * i) ((List.range cols).flatMap fun c =>
        leBytes 4 (toF32 (s.accOf p paves.length w.2 (row0 + i) (512 * u + c))))) t1
    t2.set64 (accHoldAt w.2)
      (2 ^ 63 + (p.tile0 + u) % 4096 * 2 ^ 50 + row0 % 2 ^ 21 * 2 ^ 29 + rows % 2 ^ 14 * 2 ^ 15 + p.accAddr / 2048 % 2 ^ 14 * 2)

/-- Stops the products of a command (Table 6-8): what its passes left in the banks, OUT poisoned, and its status. -/
def State.stopProducts (s : State) (c : Cmd) (ps : List Product) (st : Nat) : State :=
  let paves := s.pavesOf c
  let ws := workers ps paves
  let live := ps.filter fun p => !p.empty
  let s0 := (placed paves).foldl (fun (t : State) w => (t.set64 (accHoldAt w.2) 0).spend live false w) s
  let s1 := ws.foldl (fun (t : State) w => (t.raise (evPave w.2) 5).somePasses c ps paves.length w) s0
  (s1.poisonRanges (live.flatMap Product.outRanges)).finish c.ref { status := st }

/-- The state after the passes of a command, before OUT is written: banks spent, passes counted, ACC_HOLD as HOLD_ACC says. -/
def State.runPasses (s : State) (c : Cmd) (ps : List Product) : State :=
  let paves := s.pavesOf c
  let ws := workers ps paves
  let hold := bitOf (c.param 51 1) 2
  let s0 := (placed paves).foldl (fun (t : State) w => (t.set64 (accHoldAt w.2) 0).spend (ps.filter fun p => !p.empty) hold w) s
  let s1 := ws.foldl (fun (t : State) w => t.countPasses c ps paves.length w) s0
  if hold then ws.foldl (fun (t : State) w => s.holdAcc t ps paves w) s1 else s1

/-- The converted output of each product that has one. -/
def State.productOuts (s : State) (c : Cmd) (ps : List Product) : List (Product × Converted) :=
  (ps.filter fun p => !p.empty).map fun p =>
    (p, convertRows p.fmtOut (c.outScale (c.param 54 2) (c.param 50 1)) (s.prodRows p (s.pavesOf c)))

/-- What the pavés of a command read. -/
def State.productReads (s : State) (c : Cmd) (ps : List Product) : List (Nat × Nat) :=
  (workers ps (s.pavesOf c)).flatMap (paveReads ps (s.pavesOf c).length)

/-- UNCORRECTABLE where a partial sum of a pavé has bad parity. -/
def State.sumStatus (s : State) (c : Cmd) (ps : List Product) : Option Nat :=
  if (workers ps (s.pavesOf c)).any fun w => s.parityBad (accReads ps (s.pavesOf c).length w) then some stUncorrectable else none

/-- The records that such a read leaves. -/
def State.noteSums (s : State) (c : Cmd) (ps : List Product) : State :=
  ((workers ps (s.pavesOf c)).flatMap (accReads ps (s.pavesOf c).length)).foldl (fun (t : State) r =>
    (s.parityIn r.1 r.2).foldl (fun (t : State) p => t.noteParity 0 p) t) s

/-- Runs the products of a command on its pavés: the values, or the end of Table 6-8. -/
def State.runProducts (s : State) (c : Cmd) (ps : List Product) : State :=
  let paves := s.pavesOf c
  let live := ps.filter fun p => !p.empty
  match worse (s.rangesStatus (s.productReads c ps)) (s.sumStatus c ps) with
  | some st =>
    (((workers ps paves).foldl (fun (t : State) w => t.paveReadEvents ps paves.length w) s).noteRanges 0 (s.productReads c ps)
      |>.noteSums c ps).stopProducts c ps st
  | none =>
    let convs := s.productOuts c ps
    let t := convs.foldl (fun (t : State) v => t.writeOut v.1 v.2) (s.runPasses c ps)
    let counts := Counts.ofList (convs.flatMap fun v => v.2.elems)
    let assay := if c.param 52 2 = 0 then none else some (c.param 52 2, c.param 46 1, counts)
    let amax := if c.param 54 2 = 0 then none else some (c.param 54 2, amaxBits (live.flatMap fun p => (s.prodRows p paves).flatten))
    (t.finish c.ref { status := s.outStatus (convs.flatMap fun v => (v.1.outRuns v.2).map fun r => (r.1, r.2.length)) }).updCmd c.ref fun d => { d with assay := assay, amax := amax }

/-- ACC_HOLD.VALID clears on the pavés that a command or a step starts on (R224). -/
def State.dropRegions (s : State) (paves : List Nat) : State := paves.foldl (fun (t : State) n => t.set64 (accHoldAt n) 0) s

def State.clearHeld (s : State) (c : Cmd) : State := s.dropRegions (s.pavesOf c)

/-- MATMUL (R165-R181). -/
def State.matmul (s : State) (c : Cmd) : State :=
  match theRefusal (s.matmulFails c) with
  | some r => s.refuse c r.status r.detail
  | none => if c.product.empty then (s.clearHeld c).finish c.ref {} else s.runProducts c [c.product]

def execMatmul (c : CmdRef) (hv : HostView) (s : State) : Host.Outcome State Fault Refusal :=
  runs (fun s => (s.sees hv).startCompute 0x2000 c fun k s => s.matmul k) s

/-! ## MATMUL_GROUPED (R171-R173) -/

/-- A group's product: the command's parameters with the table entry's (Table 6-6). -/
def Cmd.groupProduct (c : Cmd) (e : List Byte) (tile0 : Nat) : Product :=
  { c.product with
    m := fieldAt e 0 4, aAddr := fieldAt e 4 4, aScale := fieldAt e 8 4, epiAddr := fieldAt e 12 4, bAddr := fieldAt e 16 8,
    bScale := fieldAt e 24 8, outAddr := fieldAt e 32 8, dqAddr := fieldAt e 40 8, dqValue := fieldAt e 48 4,
    resident := false, tile0 := tile0 }

/-- The products of the group table, in table order; the N tiles of all groups form one sequence (R173). -/
def groupProducts (c : Cmd) : Nat → List (List Byte) → List Product
  | _, [] => []
  | t, e :: es =>
    let p := c.groupProduct e t
    p :: groupProducts c (t + p.tN) es

/-- The class 1 refusals of the command's own parameters (R171). -/
def State.groupedFails (s : State) (c : Cmd) : List (Option Refuse) :=
  [ refuseIf (depthOf (c.param 44 1) = 0 || depthOf (c.param 44 1) ≠ depthOf (c.param 45 1)) stOutOfRange 44
  , refuseIf (isMx (c.param 46 1) && c.param 36 4 % 32 ≠ 0) stOutOfRange 36
  , refuseIf (inBanks (c.param 80 8)) stOutOfRange 80
  , refuseRange (s.rangeOf c (c.param 80 8) (64 * c.param 32 4) false) 80 ]
  ++ s.commonFails c

/-- The first failing entry of the group table: its refusal with its index in RESULT1 (R172). DETAIL of a class 1 status is the offset
within the entry for what the entry alone breaks, and the offset of Table 6-4 for what MATMUL refuses too; MALFORMED does not set
(notes/assumptions/44.md). -/
def State.groupRefusal (s : State) (c : Cmd) (ps : List Product) (es : List (List Byte)) : Option Refuse :=
  ((List.range ps.length).zip (ps.zip es)).findSome? fun x =>
    let p := x.2.1
    let reserved := refuseIf ((slice x.2.2 52 12).any (· != 0)) stReservedNonzero 52
    let aligned := refuseIf (p.aAddr % 2048 ≠ 0) stOutOfRange 4
    let big := refuseIf (1048576 < p.m) stOutOfRange 0
    let column := refuseIf (p.dqMode < 2 && p.dqAddr ≠ 0) stOutOfRange 40
    (theRefusal (reserved :: aligned :: big :: column :: p.shapeFails (s.pavesOf c).length ++ s.prodRanges c p)).map fun r =>
      { r with result1 := x.1 }

/-- The entries of the group table. -/
def State.groupTable (s : State) (c : Cmd) : List (List Byte) :=
  (List.range (c.param 32 4)).map fun i => s.bytesAt (c.param 80 8 + 64 * i) 64

/-- MATMUL_GROUPED. The whole table is read before the first pass. -/
def State.matmulGrouped (s : State) (c : Cmd) : State :=
  match theRefusal (s.groupedFails c) with
  | some r => s.refuse c r.status r.detail
  | none =>
    let n := c.param 32 4
    let table := c.param 80 8
    match s.readStatus table (64 * n) with
    | some st => (s.noteRead 0 table (64 * n)).finish c.ref { status := st }
    | none =>
      let es := s.groupTable c
      let ps := groupProducts c 0 es
      match s.groupRefusal c ps es with
      | some r => s.finish c.ref { status := r.status, detail := r.detail, result1 := r.result1 }
      | none => s.runProducts c ps

def execMatmulGrouped (c : CmdRef) (hv : HostView) (s : State) : Host.Outcome State Fault Refusal :=
  runs (fun s => (s.sees hv).startCompute 0x2001 c fun k s => s.matmulGrouped k) s

end Sys2Proof.Machine
end

