-- ==== Sys2Proof/Machine/Moves.lean ====
section
/-! DEFINITION. Moving data (chapter 11): MOVE and its barges, INIT_FILL, the narrow commands, ATOMIC, the events of the basin, the
sluice and the weirs. -/

namespace Sys2Proof.Machine

open Sys2Proof

/-! ## Barges (R297-R299) -/

structure Barge where
  src : Place
  dst : Place
  bytes : Nat
  rows : Nat
  srcPitch : Nat
  dstPitch : Nat
  kind : Nat
  fmt : Nat
  /-- K tile of the layout of KIND 1 to 4 (R299). -/
  kt : Nat
  /-- BFLAGS.NO_ALLOCATE: its reads do not allocate in the basin (R282). -/
  noAlloc : Bool
  /-- A reserved value or bit is present. -/
  reserved : Bool
  deriving DecidableEq, Repr

/-- A 64-byte barge; `kt` is the K tile that the command gives KIND 3 and 4. -/
def readBarge (kt : Nat) (e : List Byte) : Barge :=
  let kind := fieldAt e 40 1
  let fmt := fieldAt e 41 1
  { src := placeOf (fieldAt e 0 8), dst := placeOf (fieldAt e 8 8), bytes := fieldAt e 16 4, rows := fieldAt e 20 4,
    srcPitch := fieldAt e 24 8, dstPitch := fieldAt e 32 8, kind := kind, fmt := fmt,
    kt := if kind = 1 || kind = 2 then tileOf fmt else kt, noAlloc := bitOf (fieldAt e 42 1) 0,
    reserved := 4 < kind || (kind ≠ 1 && kind ≠ 2 && fmt ≠ 0) || 1 < fieldAt e 42 1 || (slice e 43 21).any (· != 0) }

/-- The K tile of the first KIND 1 or 2 barge of a table (R299); 0 where there is none. -/
def tableTile (es : List (List Byte)) : Nat :=
  match es.find? fun e => fieldAt e 40 1 == 1 || fieldAt e 40 1 == 2 with
  | some e => tileOf (fieldAt e 41 1)
  | none => 0

/-- Elements of a source row (KIND 1 and 2). -/
def Barge.rowElems (b : Barge) : Nat := b.bytes * 8 / max 1 (storeBits b.fmt)

/-- K, and M or N, of a layout barge. -/
def Barge.k (b : Barge) : Nat :=
  if b.kind = 1 then b.rowElems else if b.kind = 2 then b.rows else if b.kind = 3 then 32 * b.bytes else 32 * b.rows
def Barge.mn (b : Barge) : Nat :=
  if b.kind = 1 then b.rows else if b.kind = 2 then b.rowElems else if b.kind = 3 then b.rows else b.bytes

def Barge.tK (b : Barge) : Nat := ceilDiv b.k (max 1 b.kt)

/-- The bytes of the whole layout that KIND 1 to 4 write (R299). -/
def Barge.layoutBytes (b : Barge) : Nat :=
  if b.kind = 1 then b.tK * ceilDiv b.mn 4 * 2048
  else if b.kind = 2 then ceilDiv b.mn 512 * b.tK * 262144
  else if b.kind = 3 then b.kt / 8 * (b.tK * ceilDiv b.mn 4)
  else b.kt / 32 * 512 * (ceilDiv b.mn 512 * b.tK)

/-- The source byte (row and byte in the row) that layout byte o takes; none for padding. Every layout is a permutation of
bytes: two MXFP4 elements of one layout byte are neighbours of one source byte. -/
def Barge.cell (b : Barge) (o : Nat) : Option (Nat × Nat) :=
  let e := max 1 (storeBits b.fmt)
  let depth := 32 / e
  let q := b.kt / 32
  let blocks := ceilDiv b.mn 4
  let at' := fun (row col part : Nat) =>
    if row < b.rows && (col * e / 8 + part) < b.bytes then some (row, col * e / 8 + part) else none
  if b.kind = 1 then
    let w := o % 2048
    let idx := w % 16 * 8 / e
    let i := o / 2048 % blocks * 4 + idx / depth
    at' i (o / 2048 / blocks * b.kt + w / 16 * depth + idx % depth) (if e < 8 then 0 else w % (e / 8))
  else if b.kind = 2 then
    let w := o % 262144
    let idx := w % 16 * 8 / e
    let kk := o / 262144 % b.tK * b.kt + w / 2048 * depth + idx / 4
    at' kk (o / 262144 / b.tK * 512 + w % 2048 / 16 * 4 + idx % 4) (if e < 8 then 0 else w % (e / 8))
  else if b.kind = 3 then
    let slab := o / (b.kt / 8)
    let w := o % (b.kt / 8)
    let row := slab % blocks * 4 + w / q
    let col := slab / blocks * q + w % q
    if row < b.rows && col < b.bytes then some (row, col) else none
  else
    let tile := o / (q * 512)
    let w := o % (q * 512)
    let row := tile % b.tK * q + w / 512
    let col := tile / b.tK * 512 + w % 512
    if row < b.rows && col < b.bytes then some (row, col) else none

/-- The destination of a barge: per run its offset from DST and its length. -/
def Barge.dstRuns (b : Barge) : List (Nat × Nat) :=
  if b.kind = 0 then (List.range b.rows).map fun r => (r * b.dstPitch, b.bytes) else [(0, b.layoutBytes)]

def Barge.srcRuns (b : Barge) : List (Nat × Nat) := (List.range b.rows).map fun r => (r * b.srcPitch, b.bytes)

/-- The offset from SRC of the byte that byte i of destination run r takes. -/
def Barge.from (b : Barge) (r i : Nat) : Option Nat :=
  if b.kind = 0 then some (r * b.srcPitch + i) else (b.cell i).map fun p => p.1 * b.srcPitch + p.2

/-! ## The check of a barge (R278, R257, R298, R300, R340) -/

/-- Does a place lie in the reach? -/
def State.inReach (s : State) : Place → Bool
  | .device a => match s.regionOf a with | .socket _ | .stripe => true | _ => false
  | _ => false

/-- The alias view that a place lies in. -/
def Place.view : Place → BankView
  | .device a => match bankPlace a with | some p => p.view | none => .plain
  | _ => .plain

/-- An alias write's width and alignment (R257). -/
def aliasFits (a n : Nat) : Bool := ((n == 4 || n == 8) && a % n == 0) || (n % 8 == 0 && a % 8 == 0)

/-- The failures of one barge. PF0 may read the logbook region (R588). -/
def State.bargeFails (s : State) (c : Cmd) (b : Barge) : List (Option Refuse) :=
  let out := fun (p : Bool) => refuseIf p stOutOfRange
  [ out b.reserved, out (b.src == .invalid || b.dst == .invalid), out (b.bytes == 0 || 2 ^ 30 < b.bytes),
    out (b.rows == 0 || 1048576 < b.rows), out (b.kind != 0 && b.kt == 0),
    out (s.inReach b.src && (b.bytes % 64 != 0 || b.srcPitch % 64 != 0)),
    out (s.inReach b.dst && b.kind == 0 && (b.bytes % 64 != 0 || b.dstPitch % 64 != 0)) ]
  ++ (match b.src with
      | .device a => b.srcRuns.map fun r =>
          if c.fn = 0 && within (a + r.1) r.2 s.bookRegion.1 s.bookRegion.2 then out ((a + r.1) % 64 != 0 || r.2 % 64 != 0)
          else refuseRange (s.rangeOf c (a + r.1) r.2 false { reach := true }) 0
      | _ => [])
  ++ (match b.dst with
      | .device a => b.dstRuns.flatMap fun r =>
          [ refuseRange (s.rangeOf c (a + r.1) r.2 true { reach := true, mask := true }) 0,
            out ((Place.device (a + r.1)).view != .plain && (b.kind != 0 || !aliasFits (a + r.1) r.2)) ]
      | _ => [])

/-- The first bad barge of a table: its refusal, with its index for RESULT1. -/
def State.firstBadBarge (s : State) (c : Cmd) : Nat → List Barge → Option Refuse
  | _, [] => none
  | i, b :: bs =>
    match theRefusal (s.bargeFails c b) with
    | some r => some { r with result1 := i }
    | none => s.firstBadBarge c (i + 1) bs

/-! ## What two barges share (R51, R301) -/

/-- A place as comparable bytes: the space, and the address with an alias taken as the plain word. -/
def Place.key : Place → Nat × Nat
  | .device a => (0, match bankPlace a with | some p => p.plainAddr | none => a)
  | .host a => (1, a)
  | .invalid => (2, 0)

def Place.offset (p : Place) (n : Nat) : Place :=
  match p with
  | .device a => .device (a + n)
  | .host a => .host (a + n)
  | .invalid => .invalid

/-- Do two runs overlap? -/
def runMeets (p : Place) (x : Nat × Nat) (q : Place) (y : Nat × Nat) : Bool :=
  let k := (p.offset x.1).key
  let l := (q.offset y.1).key
  k.1 == l.1 && overlaps k.2 x.2 l.2 y.2

/-- Do runs of two places overlap? -/
def runsMeet (p : Place) (xs : List (Nat × Nat)) (q : Place) (ys : List (Nat × Nat)) : Bool :=
  xs.any fun x => ys.any fun y => runMeets p x q y

/-- Has a barge's destination no order against its own source (R301)? -/
def Barge.overSelf (b : Barge) : Bool := runsMeet b.dst b.dstRuns b.src b.srcRuns

/-- Where the destination runs of a barge hold a byte: run, place in the run. -/
def Barge.writes (b : Barge) (key : Nat × Nat) : Option (Nat × Nat) :=
  ((List.range b.dstRuns.length).zip b.dstRuns).findSome? fun r =>
    let k := (b.dst.offset r.2.1).key
    if k.1 = key.1 && decide (k.2 ≤ key.2) && decide (key.2 < k.2 + r.2.2) then some (r.1, key.2 - k.2) else none

/-- One of a list by a free value. -/
def pick {α : Type} (w : Nat) (first : α) (more : List α) : α := (first :: more).getD (w % (more.length + 1)) first

/-- Do two barges of a command without SERIAL share a byte that one of them writes? -/
def Barge.meets (b k : Barge) : Bool :=
  runsMeet b.dst b.dstRuns k.dst k.dstRuns || runsMeet b.dst b.dstRuns k.src k.srcRuns || runsMeet b.src b.srcRuns k.dst k.dstRuns

/-! ## Running a barge (R299, R302, R316, R319, R598) -/

/-- One destination byte: what it takes, and how its source read. -/
structure Carried where
  byte : Byte
  bad : Option Nat
  deriving DecidableEq, Repr

/-- Reads one source byte. -/
def State.sourceByte (s : State) (b : Barge) (r i : Nat) : Carried :=
  match b.from r i with
  | none => ⟨0, none⟩
  | some o => let x := s.readPlace b.src o 1; ⟨x.1.getD 0 0, x.2⟩

/-- What a write through a view leaves of a byte that held `old`. -/
def viewByte (v : BankView) (old data : Byte) : Byte := (aliasWord v [old] [data]).getD 0 0

/-- Byte i of run r of a barge that runs beside others: its source byte, or what any of them writes there, with no order between them
(R51). The recursion goes along the chain of barges, at most each of them once. -/
def State.besideByte (s : State) (d : Nat) (all : List (Nat × Barge)) : Nat → Nat × Barge → Nat → Nat → Carried
  | 0, b, r, i => s.sourceByte b.2 r i
  | fuel + 1, b, r, i =>
    let own := s.sourceByte b.2 r i
    match b.2.from r i with
    | none => own
    | some o =>
      let key := (b.2.src.offset o).key
      let others := all.filterMap fun k =>
        if k.1 = b.1 then none
        else (k.2.writes key).map fun at_ =>
          let x := s.besideByte d all fuel k at_.1 at_.2
          let v := (k.2.dst.offset (k.2.dstRuns.getD at_.1 (0, 0)).1).view
          ({ x with byte := viewByte v own.byte x.byte } : Carried)
      pick (Config.freeWord d (65536 * key.2 + b.1)) own others

/-- The bytes of destination run r; `beside` gives the draw and the barges that run beside it. -/
def State.carried (s : State) (beside : Option (Nat × List (Nat × Barge))) (b : Nat × Barge) (r n : Nat) : List Carried :=
  (List.range n).map fun i =>
    match beside with
    | none => s.sourceByte b.2 r i
    | some x => s.besideByte x.1 x.2 x.2.length b r i

/-- Leaves one byte of a place undefined. -/
def State.undefinePlace (s : State) (p : Place) (off n : Nat) : State :=
  match p with
  | .device a => s.undefine (a + off) n
  | .host a => let d := s.draw; d.2.hostWrite (a + off) ((List.range n).map fun i => Config.freeByte d.1 (a + off + i))
  | .invalid => s

/-- Marks what a failed source leaves of a destination: poison where poisoned or uncorrectable data reached it, undefined
values elsewhere, and undefined host bytes (Table 12-2, R598). -/
def State.markBad (s : State) (p : Place) (off : Nat) (cs : List Carried) : State :=
  ((List.range cs.length).zip cs).foldl (fun t ic =>
    match ic.2.bad with
    | none => t
    | some st =>
      match p with
      | .device a =>
        if st = stPoisoned || st = stUncorrectable then t.poisonRange (a + off + ic.1) 1 else t.undefine (a + off + ic.1) 1
      | _ => t.undefinePlace p (off + ic.1) 1) s

/-- Writes one run. -/
def State.putRun (s : State) (p : Place) (off : Nat) (cs : List Carried) : State × Option Nat :=
  let bs := cs.map Carried.byte
  match p with
  | .device a =>
    let v := (p.offset off).view
    if v = .plain then s.writePlace p off bs
    else s.writeAlias v (a + off) (chunk (if bs.length = 4 then 4 else 8) bs.length bs) none
  | _ => s.writePlace p off bs

/-- What reading a barge's source leaves behind. -/
def State.noteSource (s : State) (b : Barge) : State :=
  match b.src with
  | .device a =>
    let rs := b.srcRuns.map fun r => (a + r.1, r.2)
    (s.noteRanges 1 rs).tallyReads (!b.noAlloc) rs
  | _ => s

/-- A barge's destination runs with what they take: offset from DST, bytes. -/
def State.load (s : State) (beside : Option (Nat × List (Nat × Barge))) (b : Nat × Barge) : List (Nat × List Carried) :=
  ((List.range b.2.dstRuns.length).zip b.2.dstRuns).map fun r => (r.2.1, s.carried beside b r.1 r.2.2)

/-- Runs one barge on what it carries: the status it ends with, none where it succeeds. Where its destination overlaps its own source it
is left undefined (R301). -/
def State.runBarge (s : State) (b : Barge) (data : List (Nat × List Carried)) : State × Option Nat :=
  let bad := data.foldl (fun w d => d.2.foldl (fun w c => worse w c.bad) w) none
  let w := data.foldl (fun (acc : State × Option Nat) d =>
    let r := acc.1.putRun b.dst d.1 d.2
    let t := r.1.markBad b.dst d.1 d.2
    (if b.overSelf then t.undefinePlace b.dst d.1 d.2.length else t, worse acc.2 r.2)) (s.noteSource b, none)
  (w.1, worse bad w.2)

/-- The failure at the lowest index. -/
def lowestFailure (a : Option (Nat × Nat)) (st : Option Nat) (i : Nat) : Option (Nat × Nat) :=
  match a, st with
  | some f, some st => if i < f.2 then some (st, i) else some f
  | some f, none => some f
  | none, some st => some (st, i)
  | none, none => none

/-- Runs the barges in table order, each on what it reads at its turn: the status and index of the first that failed. -/
def State.runSerial (s : State) (all : List (Nat × Barge)) : State × Option (Nat × Nat) :=
  all.foldl (fun (acc : State × Option (Nat × Nat)) k =>
    let r := acc.1.runBarge k.2 (acc.1.load none k)
    (r.1, lowestFailure acc.2 r.2 k.1)) (s, none)

/-- The barges in an order of a free draw. -/
def shuffle (d : Nat) (all : List (Nat × Barge)) : List (Nat × Barge) :=
  all.foldl (fun (acc : List (Nat × Barge)) k =>
    let before := fun (x : Nat × Barge) => decide (Config.freeWord d x.1 ≤ Config.freeWord d k.1)
    acc.takeWhile before ++ k :: acc.dropWhile before) []

/-- A byte that several barges write ends with what they leave in an order of its own (R51): the writers in a free order, on what it held
before the command. -/
def State.settleByte (s : State) (old : Byte) (writers : List (Nat × BankView × Byte)) (d : Nat) (key : Nat × Nat) : State :=
  let order := writers.foldl (fun (acc : List (Nat × BankView × Byte)) k =>
    let w := fun (x : Nat × BankView × Byte) => Config.freeWord d (65536 * key.2 + x.1)
    acc.takeWhile (fun x => decide (w x ≤ w k)) ++ k :: acc.dropWhile (fun x => decide (w x ≤ w k))) []
  let b := order.foldl (fun (b : Byte) (x : Nat × BankView × Byte) => viewByte x.2.1 b x.2.2) old
  if key.1 = 0 then
    let p := s.phys key.2
    if s.mem.poison.contains (s.poisonUnit p) || s.noModule p || s.noStack p then s else { s with mem := s.mem.put p b }
  else s.hostWrite key.2 [b]

/-- Settles every byte that two barges write: `loads` are the barges with what they carried, `s0` is the state before. -/
def State.settleShared (s s0 : State) (d : Nat) (loads : List ((Nat × Barge) × List (Nat × List Carried))) : State :=
  let flat := loads.flatMap fun l => l.2.flatMap fun r =>
    ((List.range r.2.length).zip r.2).map fun c =>
      let p := l.1.2.dst.offset (r.1 + c.1)
      (p.key, l.1.1, p.view, c.2.byte)
  let shared := (flat.map fun x => x.1).filter fun k => decide (2 ≤ (flat.filter fun x => x.1 == k).length)
  shared.dedup.foldl (fun (t : State) k =>
    let writers := (flat.filter fun x => x.1 == k).map fun x => x.2
    if decide (2 ≤ (writers.map fun w => w.1).dedup.length) then
      let old := if k.1 = 0 then s0.mem.get (s0.phys k.2) else s0.hostByte k.2
      t.settleByte old writers d k
    else t) s

/-- Runs the barges of a command without SERIAL: no barge waits for another (R301). Where two share a byte that one writes, each read of
it takes either value and each write of it comes in either order; elsewhere they do not tell their order apart. -/
def State.runBeside (s : State) (all : List (Nat × Barge)) : State × Option (Nat × Nat) :=
  let s := if decide (2 ≤ all.length) then s.uncountedAccess else s
  if all.any fun b => all.any fun k => k.1 != b.1 && b.2.meets k.2 then
    let d := s.draw
    let loads := (shuffle d.1 all).map fun b => (b, d.2.load (some (d.1, all)) b)
    let r := loads.foldl (fun (acc : State × Option (Nat × Nat)) l =>
      let r := acc.1.runBarge l.1.2 l.2
      (r.1, lowestFailure acc.2 r.2 l.1.1)) (d.2, none)
    (r.1.settleShared d.2 d.1 (loads.filter fun l => !l.1.2.overSelf), r.2)
  else s.runSerial all

def State.runBarges (s : State) (serial : Bool) (all : List (Nat × Barge)) : State × Option (Nat × Nat) :=
  if serial then s.runSerial all else s.runBeside all

/-- Ends a command made of transfers: SUCCESS, or the status and index of the lowest that failed (R302, R598). -/
def State.finishTransfers (s : State) (c : Cmd) (f : Option (Nat × Nat)) : State :=
  match f with
  | none => s.finish c.ref {}
  | some (st, i) => s.finish c.ref { status := st, result1 := i }

/-! ## MOVE -/

def State.moveFails (s : State) (c : Cmd) : List (Option Refuse) :=
  [refuseRange (s.rangeOf c (c.param 40 8) (64 * c.param 32 4) false) 40]

/-- The host bytes that barges read, for the logbook. -/
def State.recordBarges (s : State) (c : Cmd) (bs : List Barge) : State :=
  bs.foldl (fun (t : State) b =>
    match b.src with
    | .host h => b.srcRuns.foldl (fun (t : State) r => t.recordHostRead c.queue (h + r.1) (s.hostRead (h + r.1) r.2)) t
    | _ => t) s

/-- MOVE: the table is read and checked whole before any data moves. -/
def State.move (s : State) (c : Cmd) : State :=
  let a := c.param 40 8
  let n := c.param 32 4
  match theRefusal (s.moveFails c) with
  | some r => s.refuse c r.status r.detail
  | none =>
    match s.readStatus a (64 * n) with
    | some st => (s.noteRead 1 a (64 * n)).finish c.ref { status := st }
    | none =>
      let s := s.tally false true a (64 * n)
      let es := (List.range n).map fun i => s.bytesAt (a + 64 * i) 64
      let bs := es.map (readBarge (tableTile es))
      match s.firstBadBarge c 0 bs with
      | some r => s.finish c.ref { status := r.status, result1 := r.result1 }
      | none =>
        let r := (s.recordBarges c bs).runBarges (bitOf (c.param 36 1) 0) ((List.range n).zip bs)
        r.1.finishTransfers c r.2

def execMove (c : CmdRef) (hv : HostView) (s : State) : Host.Outcome State Fault Refusal :=
  runs (fun s => (s.sees hv).start 0x4000 c fun k s => s.move k) s

/-! ## INIT_FILL (R305) -/

def State.fillFails (s : State) (c : Cmd) : List (Option Refuse) :=
  let a := c.param 32 8
  [refuseIf (s.regionOf a == .bank) stOutOfRange 32, refuseRange (s.rangeOf c a (c.param 40 8) true { reach := true }) 32]

/-- The poisoned lines that a fill covers only in part: they stay poisoned and their bytes are lost (R317). -/
def State.fillLost (s : State) (a n : Nat) : List Nat :=
  if s.regionOf a = .basin || s.regionOf a = .stack then
    [s.poisonUnit a, s.poisonUnit (a + n - 1)].dedup.filter fun u =>
      (s.mem.poison.contains u || s.mem.bad.contains u) && !within u (s.poisonBytes u) a n
  else []

/-- Does a stack range touch a FAILED stack (R312)? -/
def State.touchesFailed (s : State) (a n : Nat) : Bool :=
  s.regionOf a == .stack && s.mem.failed.any fun c => bytesBelow s.spine.variant c a != bytesBelow s.spine.variant c (a + n)

/-- Does a range touch a lost socket? A range in the stripe touches every member once it holds as many granules. -/
def State.touchesLost (s : State) (a n : Nat) : Bool :=
  (s.physRuns a n).any fun r => match physSocket r.1 with | some k => s.socketLost k | none => false

def State.initFill (s : State) (c : Cmd) : State :=
  let a := c.param 32 8
  let n := c.param 40 8
  match theRefusal (s.fillFails c) with
  | some r => s.refuse c r.status r.detail
  | none =>
    if n = 0 then s.finish c.ref {}
    else if s.touchesLost a n then (s.undefine a n).finish c.ref { status := stReachLost }
    else
      let lost := s.fillLost a n
      let t := s.fillPattern a n (BitVec.ofNat 64 (c.param 48 8))
      let wide := lost.filter s.mem.basin.wide.contains
      let t := { t with mem := { t.mem with
        poison := (lost ++ t.mem.poison).dedup, basin := { t.mem.basin with wide := (wide ++ t.mem.basin.wide).dedup } } }
      t.finish c.ref { status :=
        if s.touchesFailed a n then stUncorrectable else if lost.isEmpty then stSuccess else stPoisoned }

def execInitFill (c : CmdRef) (hv : HostView) (s : State) : Host.Outcome State Fault Refusal :=
  runs (fun s => (s.sees hv).start 0x4001 c fun k s => s.initFill k) s

/-! ## The narrow commands (R295, R296) -/

structure Narrow where
  width : Nat
  idxBytes : Nat
  count : Nat
  base : Nat
  stride : Nat
  index : Nat
  data : Nat
  scatter : Bool
  deriving DecidableEq, Repr

def Cmd.narrow (c : Cmd) : Narrow :=
  { width := 8 * 2 ^ c.param 32 1, idxBytes := if c.param 33 1 = 0x11 then 4 else 8, count := c.param 36 4,
    base := c.param 40 8, stride := c.param 48 8, index := c.param 56 8, data := c.param 64 8,
    scatter := c.opcode == 0x4003 }

def State.narrowFails (s : State) (c : Cmd) : List (Option Refuse) :=
  let v := c.narrow
  [ refuseRange (s.rangeOf c v.index (v.idxBytes * v.count) false) 56,
    refuseRange (s.rangeOf c v.data (v.width * v.count) (!v.scatter)) 64 ]

/-- The address of element i, an integer; none where a scatter skips it. -/
def State.narrowAddr (s : State) (v : Narrow) (i : Nat) : Option Int :=
  let w := s.natAt (v.index + v.idxBytes * i) v.idxBytes
  if v.scatter && w + 1 = 2 ^ (8 * v.idxBytes) then none
  else some (v.base + (if v.idxBytes = 4 then signedOf 32 w else (w : Int)) * v.stride)

/-- What is wrong with an element address (R296, R517). -/
def State.elementFails (s : State) (c : Cmd) (v : Narrow) (x : Int) : Option Nat :=
  let a := x.toNat
  if x < 0 || 2 ^ 48 ≤ x || a % v.width ≠ 0 || a % 64 + v.width > 64 then some stOutOfRange
  else
    let r := s.regionOf a
    if !(r == .stack || r == .basin || (v.scatter && r == .bank)) then some stOutOfRange
    else s.rangeOf c a v.width v.scatter { mask := true }

/-- The elements a command reaches: index and address. -/
def State.elements (s : State) (v : Narrow) : List (Nat × Int) :=
  (List.range v.count).filterMap fun i => (s.narrowAddr v i).map fun a => (i, a)

/-- A gather or a scatter that meets a bad element: the destination is undefined (R119). -/
def State.narrowAbandon (s : State) (c : Cmd) (v : Narrow) (es : List (Nat × Int)) : State :=
  if v.scatter then
    es.foldl (fun t e => if (s.elementFails c v e.2).isNone then t.undefine e.2.toNat v.width else t) s
  else s.undefine v.data (v.width * v.count)

/-- The elements as barges of one row, for what they share: a gather's destination is its packed data, a scatter's source is. -/
def Narrow.lane (v : Narrow) (e : Nat × Int) : Nat × Barge :=
  let p := Place.device (v.data + v.width * e.1)
  let x := Place.device e.2.toNat
  (e.1, { src := if v.scatter then p else x, dst := if v.scatter then x else p, bytes := v.width, rows := 1, srcPitch := 0, dstPitch := 0,
          kind := 0, fmt := 0, kt := 0, noAlloc := false, reserved := false })

/-- What element e carries: where another element writes its source, no order holds between them and each byte takes either value (R51);
`d` is the draw. -/
def State.elementBytes (s : State) (d : Nat) (lanes : List (Nat × Barge)) (b : Nat × Barge) : List Byte :=
  (List.range b.2.bytes).map fun i =>
    if lanes.any fun k => k.1 != b.1 && runsMeet b.2.src b.2.srcRuns k.2.dst k.2.dstRuns then
      (s.besideByte d lanes lanes.length b 0 i).byte
    else (s.sourceByte b.2 0 i).byte

/-- A narrow access where the element lies in a stack (R294), and an ordinary one elsewhere. -/
def State.narrowTally (s : State) (write : Bool) (a n : Nat) : State :=
  if s.regionOf a = .stack then s.narrowLine write a n
  else if s.regionOf a = .basin then s.hit (basinHub a) 64
  else s

/-- One element of a gather. -/
def State.gatherOne (s : State) (v : Narrow) (e : Nat × Int) (bs : List Byte) : State × Option Nat :=
  let a := e.2.toNat
  let d := v.data + v.width * e.1
  match s.readStatus a v.width with
  | some st =>
    let t := s.noteRead 1 a v.width
    (if st = stReachLost then t.undefine d v.width else t.poisonRange d v.width, some st)
  | none => ((s.narrowTally false a v.width).writeMem d bs, s.writeStatus d v.width)

/-- Stores an element and counts it as one narrow access. -/
def State.narrowStore (s : State) (a : Nat) (bs : List Byte) : State :=
  let t := (s.noteMerge a bs.length).storeMem a bs
  if s.regionOf a = .stack || s.regionOf a = .basin then
    ({ t with mem := { t.mem with basin := s.mem.basin } }).narrowTally true a bs.length
  else t

/-- One element of a scatter. -/
def State.scatterOne (s : State) (v : Narrow) (e : Nat × Int) (bs : List Byte) : State × Option Nat :=
  let a := e.2.toNat
  let d := v.data + v.width * e.1
  match s.readStatus d v.width with
  | some st => ((s.noteRead 1 d v.width).poisonRange a v.width, some st)
  | none =>
    let s := s.tally false true d v.width
    let view := (Place.device a).view
    if view = .plain then (s.narrowStore a bs, s.writeStatus a v.width) else s.writeAlias view a (chunk 8 bs.length bs) none

/-- Does an element's index entry lie where an element of the command is written? Nothing says whether the entry was read before. -/
def narrowMeets (v : Narrow) (es : List (Nat × Int)) : Bool :=
  let k := (Place.device v.index).key.2
  es.any fun e => let b := (v.lane e).2; overlaps b.dst.key.2 v.width k (v.idxBytes * v.count)

/-- All elements in order: the state, and the status and index of the first that failed. -/
def State.narrowAll (s : State) (v : Narrow) (es : List (Nat × Int)) : State × Option (Nat × Nat) :=
  let d := s.draw
  let lanes := es.map v.lane
  es.foldl (fun (acc : State × Option (Nat × Nat)) e =>
    let bs := s.elementBytes d.1 lanes (v.lane e)
    let t := if v.scatter then acc.1.scatterOne v e bs else acc.1.gatherOne v e bs
    (t.1, lowestFailure acc.2 t.2 e.1)) (d.2, none)

def State.narrow (s : State) (c : Cmd) : State :=
  let v := c.narrow
  match theRefusal (s.narrowFails c) with
  | some r => s.refuse c r.status r.detail
  | none =>
    if v.count = 0 then s.finish c.ref {}
    else
      match s.readStatus v.index (v.idxBytes * v.count) with
      | some st =>
        ((s.noteRead 1 v.index (v.idxBytes * v.count)).narrowAbandon c v []).finish c.ref { status := st }
      | none =>
        let es := s.elements v
        match es.findSome? fun e => (s.elementFails c v e.2).map fun st => (st, e.1) with
        | some (st, i) => (s.narrowAbandon c v es).finish c.ref { status := st, result1 := i }
        | none =>
          let r := (s.tally false true v.index (v.idxBytes * v.count)).narrowAll v es
          (if narrowMeets v es then r.1.narrowAbandon c v es else r.1).finishTransfers c r.2

def execNarrowGather (c : CmdRef) (hv : HostView) (s : State) : Host.Outcome State Fault Refusal :=
  runs (fun s => (s.sees hv).start 0x4002 c fun k s => s.narrow k) s

def execNarrowScatter (c : CmdRef) (hv : HostView) (s : State) : Host.Outcome State Fault Refusal :=
  runs (fun s => (s.sees hv).start 0x4003 c fun k s => s.narrow k) s

/-! ## Atomics (R288-R293) -/

/-- The new value of one operation on patterns (R290): TYPE 0 INT32, 1 INT64, 2 FP32. -/
def atomicValue (op type old operand compare : Nat) : Nat :=
  let w := if type = 1 then 64 else 32
  if op = 3 then operand % 2 ^ w
  else if op = 4 then (if old = compare % 2 ^ w then operand % 2 ^ w else old)
  else if type = 2 then
    toF32 (if op = 0 then addF (ofF32 old) (ofF32 operand)
      else if op = 1 then minFp (ofF32 old) (ofF32 operand) else maxFp (ofF32 old) (ofF32 operand))
  else if op = 0 then (old + operand) % 2 ^ w
  else
    let less := decide (signedOf w operand < signedOf w old)
    if op = 1 then (if less then operand % 2 ^ w else old) else (if less then old else operand % 2 ^ w)

/-- The hub whose basin controller executes an operation (R288). -/
def State.atomicHub (s : State) (a : Nat) : Nat := if inBasin a then basinHub a else homeHub s.spine.variant a

/-- Executes one operation at an address: the state, the old value, and the status where it is not applied. -/
def State.atomicAt (s : State) (op type a operand compare : Nat) : State × Nat × Option Nat :=
  let n := if type = 1 then 8 else 4
  match s.readStatus a n with
  | some st => (s.noteRead 1 a n, 0, some st)
  | none =>
    let old := s.natAt a n
    let t := (s.tally false true a n).writeMem a (leBytes n (atomicValue op type old operand compare))
    (t.count (blkBasin (s.atomicHub a) + 0x58) 1, old, none)

/-- The failures of the command and of its table: FP32 with SWAP or CAS (R290), the two ranges (R289). -/
def State.atomicFails (s : State) (c : Cmd) : List (Option Refuse) :=
  [ refuseIf (c.param 33 1 == 2 && 3 ≤ c.param 32 1) stOutOfRange 32,
    refuseRange (s.rangeOf c (c.param 40 8) (24 * c.param 36 4) false) 40,
    if c.param 48 8 = 0 then none else refuseRange (s.rangeOf c (c.param 48 8) (8 * c.param 36 4) true) 48 ]

/-- What is wrong with one entry (R291). -/
def State.atomicEntryFails (s : State) (c : Cmd) (a : Nat) : Option Nat :=
  let n := if c.param 33 1 = 1 then 8 else 4
  if a % n ≠ 0 || !(s.regionOf a == .stack || s.regionOf a == .basin) then some stOutOfRange else s.rangeOf c a n true

/-- Applies entry i; its result takes 8 bytes, of which a 32-bit type gives the low 4 (the rest is a free value). -/
def State.atomicEntry (s : State) (c : Cmd) (i : Nat) (e : List Byte) : State × Option Nat :=
  let type := c.param 33 1
  let r := s.atomicAt (c.param 32 1) type (fieldAt e 0 8) (fieldAt e 8 8) (fieldAt e 16 8)
  let dst := c.param 48 8 + 8 * i
  match r.2.2 with
  | some st => (r.1, some st)
  | none =>
    if c.param 48 8 = 0 then (r.1, none)
    else
      let d := r.1.draw
      let high := if type = 1 then [] else (List.range 4).map fun j => Config.freeByte d.1 (dst + 4 + j)
      (d.2.writeMem dst (leBytes (if type = 1 then 8 else 4) r.2.1 ++ high), d.2.writeStatus dst 8)

/-- The entries of the table, with their places in it. -/
def State.atomicTable (s : State) (c : Cmd) : List (Nat × List Byte) :=
  (List.range (c.param 36 4)).map fun i => (i, s.bytesAt (c.param 40 8 + 24 * i) 24)

/-- All entries in order: the state, and the status and index of the first that failed. -/
def State.atomicAll (s : State) (c : Cmd) (es : List (Nat × List Byte)) : State × Option (Nat × Nat) :=
  es.foldl (fun (acc : State × Option (Nat × Nat)) e =>
    let t := acc.1.atomicEntry c e.1 e.2
    (t.1, lowestFailure acc.2 t.2 e.1)) (s, none)

def State.atomic (s : State) (c : Cmd) : State :=
  let a := c.param 40 8
  let n := c.param 36 4
  match theRefusal (s.atomicFails c) with
  | some r => s.refuse c r.status r.detail
  | none =>
    match s.readStatus a (24 * n) with
    | some st => (s.noteRead 1 a (24 * n)).finish c.ref { status := st }
    | none =>
      let s := s.tally false true a (24 * n)
      let es := s.atomicTable c
      match es.findSome? fun e => (s.atomicEntryFails c (fieldAt e.2 0 8)).map fun st => (st, e.1) with
      | some (st, i) => s.finish c.ref { status := st, result1 := i }
      | none =>
        let r := s.atomicAll c es
        r.1.finishTransfers c r.2

def execAtomic (c : CmdRef) (hv : HostView) (s : State) : Host.Outcome State Fault Refusal :=
  runs (fun s => (s.sees hv).start 0x4004 c fun k s => s.atomic k) s

/-! ## BAR2 (R74-R76, R283, R293, R342, Table 12-2) -/

/-- Is a basin offset in a segment whose change is not complete? -/
def State.segChanging (s : State) (off : Nat) : Bool :=
  s.segChanges.any fun k => k.hub == off / 0x18000000 && k.seg == off % 0x18000000 / 0x01000000

/-- The device address that n bytes at a BAR2 offset of a function map; none where the offset is not configured. -/
def State.bar2Place (s : State) (fn off n : Nat) : Option Nat :=
  let w := off / 2 ^ 30
  if off % 2 ^ 30 + n > 2 ^ 30 || n = 0 then none
  else if fn = 0 && w = 0 then
    if s.scratchpad 0 off n && !s.segChanging off && !s.segChanging (off + n - 1) then some (basinBase + off) else none
  else if (fn = 0 && 63 < w) || (fn ≠ 0 && 3 < w) || 31 < fn then none
  else
    let r := s.reg64 (blkDevice + (if fn = 0 then 0x200 + 8 * w else 0x1000 + 32 * fn + 8 * w))
    let a := field r 39 30 * 2 ^ 30 + off % 2 ^ 30
    if r.testBit 63 && a < stackBytes s.spine.variant then some a else none

/-- A BAR2 access acts for the berth of its function; PF0's belongs to no berth (R306, notes/assumptions/38.md). -/
def State.actBar2 (s : State) (fn : Nat) : State :=
  { s with acting := { epoch := 0, berth := if fn = 0 then none else (List.range 8).find? fun b => s.berthBound b fn, counted := true } }

/-- A BAR2 access met lost data: cause 0x0007. -/
def State.logBar2 (s : State) (fn a : Nat) : State := s.logEvent { cause := 0x0007, cls := 0, fn := fn, address := a }

def execBar2Read (fn off len : Nat) (s : State) : Host.Outcome State Fault Refusal :=
  runsHost (fun s =>
    match s.bar2Place fn off len with
    | none => (s.logDiscard fn off).emit (.readBytes (zeros len))
    | some a =>
      match s.readStatus a len with
      | some _ => ((((s.actBar2 fn).noteRead 5 a len).tally false true a len).logBar2 fn a).emit (.readPoisoned len)
      | none => ((s.actBar2 fn).tally false true a len).emit (.readBytes (s.bytesAt a len))) s

/-- Does a range lie in a set or adapter slot that is not EMPTY, whose bytes only the device writes (R342)? -/
def State.inWeights (s : State) (a n : Nat) : Bool :=
  s.sets.any (fun k => overlaps a n k.2.base k.2.bytes) || s.adapters.any fun k => overlaps a n k.2.base k.2.bytes

/-- The hub whose basin controller grants a BAR2 access. -/
def placeHub (v : Variant) (a : Nat) : Nat := if inBasin a then basinHub a else homeHub v a

/-- HOST_WRITE: a BAR2 write or AtomicOp, with its address and data (Table 22-5). -/
def State.recordHostWrite (s : State) (fn a : Nat) (bs : List Byte) : State :=
  s.record (placeHub s.spine.variant a) 5 fn (leBytes 8 a ++ bs)

def execBar2Write (fn off : Nat) (bytes : List Byte) (s : State) : Host.Outcome State Fault Refusal :=
  runsHost (fun s =>
    match s.bar2Place fn off bytes.length with
    | none => s.logDiscard fn off
    | some a =>
      if s.inWeights a bytes.length then s.logDiscard fn off
      else if s.bookHolds (placeHub s.spine.variant a) (8 + bytes.length) then s
      else
        let t := ((s.actBar2 fn).writeMem a bytes).recordHostWrite fn a bytes
        if (s.lostUnits a bytes.length).isEmpty then t else t.logBar2 fn a) s

/-- The operation code of a PCIe AtomicOp (R293), and its operand and compare values of n bytes. -/
def atomicCode : AtomicOp → Nat
  | .fetchAdd => 0
  | .swap => 3
  | .cas => 4

/-- An AtomicOp: FetchAdd and Swap carry one operand of 4 or 8 bytes, CAS the compare value and then the swap value. -/
def execBar2Atomicop (fn off : Nat) (op : AtomicOp) (operands : List Byte) (s : State) : Host.Outcome State Fault Refusal :=
  runsHost (fun s =>
    let n := if op = .cas then operands.length / 2 else operands.length
    let operand := if op = .cas then fieldAt operands n n else fieldAt operands 0 n
    match s.bar2Place fn off n with
    | none => (s.logDiscard fn off).emit .completerAbort
    | some a =>
      if (n ≠ 4 && n ≠ 8) || a % n ≠ 0 then s.emit .completerAbort
      else if s.inWeights a n then (s.logDiscard fn off).emit .completerAbort
      else if s.bookHolds (placeHub s.spine.variant a) (8 + operands.length) then s
      else
        let r := (s.actBar2 fn).atomicAt (atomicCode op) (if n = 8 then 1 else 0) a operand (fieldAt operands 0 n)
        match r.2.2 with
        | some _ => (r.1.logBar2 fn a).emit .completerAbort
        | none => (r.1.recordHostWrite fn a operands).emit (.readBytes (leBytes n r.2.1))) s

/-! ## Events of the basin, the sluice and the weirs -/

/-- A commit moved a segment: its change waits for the older epoch's operations, with CLEARING set (R283). -/
def State.beginSegChange (s : State) (h j old : Nat) : State :=
  { s with segChanges := s.segChanges ++ [(⟨h, j, old⟩ : SegChange)] }

/-- A segment's change completes: its dirty lines are written back, it is zeroed and every line of it is invalidated, and the new use
begins (R283). -/
def State.endSegChange (s : State) (h j : Nat) : State :=
  let s := s.emptySegment h j
  let left := s.segChanges.filter fun k => !(k.hub == h && k.seg == j)
  let m := s.mem.forget (basinBase + h * 0x18000000 + j * 0x01000000) 0x01000000
  { s with segChanges := left, mem := m }

def execBasinSegmentChange (hub seg : Nat) (s : State) : Host.Outcome State Fault Refusal :=
  runs (fun s =>
    if s.segChanges.any (fun k => k.hub == hub && k.seg == seg) && s.olderGone then s.endSegChange hub seg else s) s

/-- SLUICE_EVICT: the entry that holds the line of an address leaves the sluice (R285). Entries that a write completes leave it with that
write, and the 1S has no sluice (R287). -/
def execSluiceEvict (line : Nat) (s : State) : Host.Outcome State Fault Refusal :=
  runs (fun s => match s.entryAt (lineOf s.spine.variant line) with | some e => s.evict e | none => s) s

/-- WEIR_WINDOW: a window of 1,000 units ends at every regulated point (R306, R307, R309). -/
def execWeirWindow (now : Nat) (s : State) : Host.Outcome State Fault Refusal := runs (fun s => (s.at now).endWindow) s

end Sys2Proof.Machine
end

