-- ==== Sys2Proof/Machine/Weights.lean ====
section
/-! DEFINITION. Weight sets, adapters and sharing (chapter 13), and the repair of shared weights (R325-R328). Commits that wait take
effect in Machine/Commits.lean through the functions named `at…` here. -/

namespace Sys2Proof.Machine

open Sys2Proof

/-! ## Slots -/

/-- PINS of a set (R344): the manifest entries and the open services that name it. -/
def State.setPins (s : State) (w : Nat) : Nat :=
  (s.manifest.filter fun e => e.2.set == w).length
    + (s.serving.filter fun k => k.2.opened && (k.2.set == w || k.2.draftSet == some w)).length
    + (s.scores.filter fun k => k.2.opened && k.2.cmd.param 32 1 == 0 && k.2.cmd.param 33 1 == w).length

/-- PINS of an adapter slot (R356). -/
def State.adapterPins (s : State) (a : Nat) : Nat := (s.manifest.filter fun e => e.2.adapter == some a).length

/-- No accepted command of an epoch before a commit is left that could read what the commit changed (R348, R359): a compute,
memory or collective command of an older epoch. -/
def State.noOlderReader (s : State) : Bool :=
  s.inflight.all fun c => c.stage == .done || s.isCurrent c.epoch || !([2, 3, 4, 5].contains (c.opcode / 0x1000))

/-! ## Sources (R336, R341) -/

/-- This device's place on the ring of an axis. -/
def State.ringIndex (s : State) (axis : Nat) : Nat := field (s.lkWord s.acting.epoch (blkDevice + 0xB00 + 4 * axis)) 5 0

/-- The bytes of a load from its source, and the status of a source that fails (R339). -/
def State.sourceData (s : State) (source bytes src axis : Nat) (peer : PeerData) : List Byte × Option Nat :=
  let fails := if peer.status = 0 then none else some peer.status
  if source = 0 then (s.bytesAt src bytes, s.readStatus src bytes)
  else if source = 1 then (slice peer.bytes 0 bytes, fails)
  else if source = 2 then (s.hostRead src bytes, if s.hostFails src bytes then some stHostAccess else none)
  else if source = 3 then (zeros bytes, none)
  else
    let n := max 1 (s.ringLength axis)
    let shard := bytes / n
    let own := s.bytesAt src shard
    let st := s.readStatus src shard
    if n = 1 then (own, st) else (putBytes (slice peer.bytes 0 bytes) (s.ringIndex axis * shard) own, worse st fails)

/-- The device range that a source reads. -/
def State.sourceRange (s : State) (source bytes axis : Nat) : Nat :=
  if source = 0 then bytes else if source = 4 then bytes / max 1 (s.ringLength axis) else 0

/-! ## Reservation (R330, R331, Table 13-4) -/

/-- A range leaves the weight region, or overlaps a set or adapter slot that is not EMPTY. -/
def State.overlapFails (s : State) (a n : Nat) : Bool :=
  let w := s.weightRegion
  !within a n w.1 w.2 || s.inWeights a n

/-- Judges the source address of a load. -/
def State.sourceFails (s : State) (c : Cmd) (source bytes src axis off : Nat) : Option Refuse :=
  if source = 0 || source = 4 then
    refuseRange (s.rangeOf c src (s.sourceRange source bytes axis) false { reach := true }) off
  else refuseIf (source = 1 && src ≠ 0) stOutOfRange off

/-- Does a port carry bulk traffic (R383)? A command that needs one that does not is refused with LINK_DOWN (Table 14-11). -/
def State.portUp (s : State) (p : Nat) : Bool := match lookup p s.ports with | some k => k.state == 3 | none => false

/-! ## WEIGHTS_LOAD -/

def State.weightsLoadFails (s : State) (c : Cmd) : List (Option Refuse) :=
  let axis := c.param 35 1
  let n := max 1 (s.ringLength axis)
  [ refuseIf (c.param 33 1 = 4 && c.param 48 8 % (n * 0x8000) ≠ 0) stOutOfRange 48
  , refuseIf (s.regionOf (c.param 56 8) != .stack) stOutOfRange 56
  , s.sourceFails c (c.param 33 1) (c.param 48 8) (c.param 64 8) axis 64
  , refuseIf (c.param 33 1 = 1 && !s.portUp axis) stLinkDown
  , refuseIf (c.param 33 1 = 4 && s.ringLength axis != 1 && !s.portUp (2 * axis) && !s.portUp (2 * axis + 1)) stLinkDown
  , refuseIf (lookup (c.param 32 1) s.sets).isSome stResourceInUse ]

/-- WEIGHTS_LOAD: the slot's reservation is checked, and its commit waits (events 1 and 2 of Table 13-4). -/
def State.weightsLoad (s : State) (c : Cmd) : State :=
  match theRefusal (s.weightsLoadFails c) with
  | some r => s.refuse c r.status r.detail
  | none =>
    if s.overlapFails (c.param 56 8) (c.param 48 8) then s.finish c.ref { status := stAddressOverlap }
    else (s.running c.ref).awaitCommit (.setReserve c.ref)

def execWeightsLoad (c : CmdRef) (hv : HostView) (s : State) : Host.Outcome State Fault Refusal :=
  runs (fun s => (s.sees hv).start 0x6005 c fun k s => s.weightsLoad k) s

/-- The reservation commit: the slot is LOADING; where another commit took the slot or the range first, the load ends. -/
def State.atSetReserve (s : State) (r : CmdRef) : State :=
  match s.cmd r with
  | none => s
  | some c =>
    let w := c.param 32 1
    if (lookup w s.sets).isSome then s.finish r { status := stResourceInUse }
    else if s.overlapFails (c.param 56 8) (c.param 48 8) then s.finish r { status := stAddressOverlap }
    else
      s.serviceCommit.putSet w
        { state := 1, source := c.param 33 1, access := c.param 34 1, link := c.param 35 1, peerSet := c.param 36 1,
          version := c.param 40 4, base := c.param 56 8, bytes := c.param 48 8, sourceAddr := c.param 64 8,
          command := some r, failing := none, fingerprint := 0, cut := 0, droppedAt := 0, byTurn := false }

/-- A load that failed: its failure commit waits (R339). -/
def State.failSet (s : State) (w st : Nat) : State :=
  (s.updSet w fun k => { k with failing := some st }).awaitCommit (.setFail w)

/-- Removes a set slot, and closes the repairs of its lines without writing anything (R328). -/
def State.emptySet (s : State) (w : Nat) : State :=
  { s with sets := erase w s.sets, repairs := s.repairs.filter fun r => r.adapter || r.slot != w }

/-- The failure commit: the slot is EMPTY, its range undefined, the load ended. -/
def State.atSetFail (s : State) (w : Nat) : State :=
  match lookup w s.sets with
  | none => s
  | some k =>
    let t := ((s.serviceCommit.emptySet w).undefine k.base k.bytes).raise evWeight 1
    match k.command with
    | some r => t.finish r { status := k.failing.getD stAborted }
    | none => t

/-- Writes the bytes of a load: a NONE source fills the range (Table 13-3). -/
def State.putSource (s : State) (source a n : Nat) (bs : List Byte) : State :=
  if source = 3 then s.fillPattern a n 0 else s.writeMem a bs

/-- Notes what reading a source in the reach left behind. -/
def State.noteSourceRead (s : State) (source src n : Nat) : State :=
  if source = 0 || source = 4 then s.noteRead 5 src n else s

/-- A set's bytes have arrived: fingerprinted and committed RESIDENT, or the load fails (events 3 to 5 of Table 13-4). -/
def State.setArrives (s : State) (w : Nat) (k : WeightSet) (r : CmdRef) (peer : PeerData) : State :=
  let d := s.sourceData k.source k.bytes k.sourceAddr k.link peer
  let s1 := s.noteSourceRead k.source k.sourceAddr (s.sourceRange k.source k.bytes k.link)
  match d.2 with
  | some st => s1.failSet w st
  | none =>
    let t := (s1.putSource k.source k.base k.bytes d.1).serviceCommit
    let f := crc64 d.1
    let t := t.updSet w fun k => { k with state := 2, command := none, fingerprint := BitVec.ofNat 64 f }
    let t := if k.source = 2 then t.recordHostRead r.queue k.sourceAddr d.1 else t
    ((t.recordSet false w k.version f).raise evWeight 0).finish r { result0 := f, result1 := t.spine.epoch.toNat }

/-! ## ADAPTER_LOAD (R351-R354) -/

/-- Is a NAME another owner's (R351)? -/
def State.foreignName (s : State) (c : Cmd) (name : Nat) : Bool :=
  s.adapters.any fun k => k.2.name == name && !(k.2.shared == (c.fn == 0) && (k.2.shared || k.2.berth == c.berth))

/-- The slot a load takes. -/
def State.adapterSlot (s : State) (c : Cmd) : Option Nat :=
  if c.param 32 2 = 0xFFFF then (List.range 1024).find? fun i => (lookup i s.adapters).isNone else some (c.param 32 2)

/-- A VF's load would pass its quota (R354). -/
def State.quotaFails (s : State) (c : Cmd) : Bool :=
  let q := s.lkWord c.epoch (blkKeeper + 0x1A40 + 4 * c.berth)
  let mine := s.adapters.filter fun k => !k.2.shared && k.2.berth == c.berth
  c.fn != 0 && (decide (field q 31 21 < mine.length + 1)
    || decide (field q 15 0 * 2 ^ 20 < (mine.map fun k => k.2.bytes).sum + c.param 56 8))

def State.adapterLoadFails (s : State) (c : Cmd) : List (Option Refuse) :=
  let name := c.param 40 4
  let slot := s.adapterSlot c
  let base := lookup (c.param 34 1) s.sets
  [ refuseIf (c.fn ≠ 0 && c.param 38 1 ≠ 0) stOutOfRange 38
  , refuseIf (match base with | some k => k.state != 2 | none => true) stOutOfRange 34
  , refuseIf (s.adapters.any fun k => k.2.name == name && k.2.version == c.param 44 4) stOutOfRange 44
  , refuseIf (s.regionOf (c.param 64 8) != .stack) stOutOfRange 64
  , s.sourceFails c (c.param 35 1) (c.param 56 8) (c.param 72 8) 0 72
  , refuseIf (c.param 35 1 = 1 && !s.portUp (c.param 39 1)) stLinkDown
  , refuseIf (s.foreignName c name) stBerthOwnership
  , refuseIf (match base with | some k => !k.access.testBit c.berth | none => false) stBerthOwnership
  , refuseIf (match slot with | some i => (lookup i s.adapters).isSome | none => false) stResourceInUse
  , refuseIf (s.adapters.any fun k => k.2.name == name && k.2.state == 1) stResourceInUse
  , refuseIf (s.inflight.any fun d => d.opcode == 0x6007 && d.stage == .running && d.ref != c.ref && d.param 40 4 == name)
      stResourceInUse
  , refuseIf slot.isNone stNoResource
  , refuseIf (s.quotaFails c) stNoResource ]

def State.adapterLoad (s : State) (c : Cmd) : State :=
  match theRefusal (s.adapterLoadFails c) with
  | some r => s.refuse c r.status r.detail
  | none =>
    if s.overlapFails (c.param 64 8) (c.param 56 8) then s.finish c.ref { status := stAddressOverlap }
    else
      match s.adapterSlot c with
      | some i => (s.running c.ref).awaitCommit (.adapterReserve c.ref i)
      | none => s

def execAdapterLoad (c : CmdRef) (hv : HostView) (s : State) : Host.Outcome State Fault Refusal :=
  runs (fun s => (s.sees hv).start 0x6007 c fun k s => s.adapterLoad k) s

/-- The reservation commit of an adapter slot. -/
def State.atAdapterReserve (s : State) (r : CmdRef) (i : Nat) : State :=
  match s.cmd r with
  | none => s
  | some c =>
    if (lookup i s.adapters).isSome then s.finish r { status := stResourceInUse }
    else if s.overlapFails (c.param 64 8) (c.param 56 8) then s.finish r { status := stAddressOverlap }
    else
      let t := s.serviceCommit
      let k : Adapter :=
        { state := 1, name := c.param 40 4, version := c.param 44 4, source := c.param 35 1, baseSet := c.param 34 1,
          rank := c.param 36 2, access := if c.fn = 0 then c.param 38 1 else 2 ^ c.berth, shared := c.fn == 0,
          berth := c.berth, alpha := c.param 48 4, tensors := c.param 54 2, base := c.param 64 8, bytes := c.param 56 8,
          sourceAddr := c.param 72 8, peerPort := c.param 39 1, peerSlot := c.param 52 2, command := some r,
          failing := none, fingerprint := 0, liveDamaged := false, leftAt := 0 }
      { t with adapters := insert i k t.adapters }

def State.failAdapter (s : State) (i st : Nat) : State :=
  (s.updAdapter i fun k => { k with failing := some st }).awaitCommit (.adapterFail i)

def State.emptyAdapter (s : State) (i : Nat) : State :=
  { s with adapters := erase i s.adapters, repairs := s.repairs.filter fun r => !r.adapter || r.slot != i }

/-- The failure commit of an adapter load. A table entry that fails is reported with its index (R353), kept in `leftAt`. -/
def State.atAdapterFail (s : State) (i : Nat) : State :=
  match lookup i s.adapters with
  | none => s
  | some k =>
    let t := ((s.serviceCommit.emptyAdapter i).undefine k.base k.bytes).raise evWeight 1
    match k.command with
    | some r => t.finish r { status := k.failing.getD stAborted, result1 := k.leftAt }
    | none => t

/-- One entry of a tensor table (Table 13-7). -/
structure AdapterTensor where
  layer : Nat
  tensor : Nat
  inDim : Nat
  outDim : Nat
  reserved : Nat
  dOffset : Nat
  uOffset : Nat
  deriving DecidableEq, Repr

def adapterTensor (bs : List Byte) (i : Nat) : AdapterTensor :=
  { layer := fieldAt bs (32 * i) 2, tensor := fieldAt bs (32 * i + 2) 2, inDim := fieldAt bs (32 * i + 4) 4,
    outDim := fieldAt bs (32 * i + 8) 4, reserved := fieldAt bs (32 * i + 12) 4, dOffset := fieldAt bs (32 * i + 16) 8,
    uOffset := fieldAt bs (32 * i + 24) 8 }

/-- The ranges of a tensor's two matrices in the image. -/
def AdapterTensor.ranges (t : AdapterTensor) (rank : Nat) : List (Nat × Nat) :=
  [(t.dOffset, 2 * t.inDim * rank), (t.uOffset, 2 * rank * t.outDim)]

/-- What is wrong with entry i of a tensor table, given the entries before it (R353). -/
def tensorFails (bytes rank : Nat) (before : List AdapterTensor) (t : AdapterTensor) : Bool :=
  let mine := t.ranges rank
  let placed := before.flatMap fun b => b.ranges rank
  t.inDim == 0 || t.outDim == 0 || t.reserved != 0
    || (mine.any fun r => decide (r.1 < 0x8000) || decide (bytes < r.1 + r.2) || r.1 % 2048 != 0)
    || (mine.any fun r => placed.any fun q => overlaps r.1 r.2 q.1 q.2)
    || (match mine with | [d, u] => overlaps d.1 d.2 u.1 u.2 | _ => false)

/-- The index of the first bad entry of a tensor table. -/
def badTensor (bytes rank n : Nat) (image : List Byte) : Option Nat :=
  let ts := (List.range n).map (adapterTensor image)
  (List.range n).find? fun i => tensorFails bytes rank (ts.take i) (adapterTensor image i)

/-- The LIVE slot of a NAME leaves LIVE: RETIRING, or DAMAGED and no longer LIVE (R357, R360). -/
def State.retire (s : State) (name : Nat) : State :=
  match s.liveSlot name with
  | none => s
  | some (i, _) =>
    s.updAdapter i fun k =>
      { k with state := if k.state = 2 then 3 else k.state, liveDamaged := false, leftAt := s.spine.epoch.toNat }

/-- An adapter's bytes have arrived; a VF's load is traffic of its berth (R338). -/
def State.adapterArrives (s : State) (i : Nat) (k : Adapter) (r : CmdRef) (peer : PeerData) : State :=
  let s := if k.shared then s else s.actFor 0 k.berth
  let d := s.sourceData k.source k.bytes k.sourceAddr 0 peer
  let s1 := s.noteSourceRead k.source k.sourceAddr k.bytes
  match d.2 with
  | some st => s1.failAdapter i st
  | none =>
    match badTensor k.bytes k.rank k.tensors d.1 with
    | some e => (s1.updAdapter i fun k => { k with leftAt := e }).failAdapter i stOutOfRange
    | none =>
      let t := ((s1.putSource k.source k.base k.bytes d.1).serviceCommit).retire k.name
      let f := crc64 d.1
      let t := t.updAdapter i fun k => { k with state := 2, command := none, fingerprint := BitVec.ofNat 64 f }
      let t := if k.source = 2 then t.recordHostRead r.queue k.sourceAddr d.1 else t
      ((t.recordSet true i k.version f).raise evWeight 0).finish r { detail := i, result0 := f, result1 := t.spine.epoch.toNat }

/-- LOAD_ACTIVATION: the bytes of the load a command started have arrived. The commit waits while an operation of an older
epoch is in flight (R141). -/
def execLoadActivation (c : CmdRef) (peer : PeerData) (now : Nat) (hv : HostView) (s : State) : Host.Outcome State Fault Refusal :=
  runsSpine (fun s =>
    let s := (s.at now).sees hv
    if !s.olderGoneBut (some c) then s
    else
      match s.sets.find? fun k => k.2.command == some c && k.2.state == 1 && k.2.failing.isNone && !k.2.byTurn with
      | some (w, k) => s.setArrives w k c peer
      | none =>
        match s.adapters.find? fun k => k.2.command == some c && k.2.state == 1 && k.2.failing.isNone with
        | some (i, k) => s.adapterArrives i k c peer
        | none => s) s

/-! ## Dropping (R347-R349, R358, R359) -/

/-- An open service other than SERVE_OPEN, or a turn, names a set (R347): chapter 19's services are judged by
Machine/Turns.lean through this list of set slots. -/
def State.dropFails (s : State) (w mode : Nat) (named : List Nat) : Bool :=
  (s.adapters.any fun k => (k.2.state == 1 || k.2.state == 2) && k.2.baseSet == w) || named.contains w
    || (mode == 2 && s.setPins w != 0)

/-- WEIGHTS_DROP: a RESIDENT set waits for its DROPPING commit, a DAMAGED one for its release. An EMPTY, LOADING or DROPPING slot
is no set that can be dropped (notes/assumptions/16.md). -/
def State.weightsDrop (s : State) (c : Cmd) (named : List Nat) : State :=
  let w := c.param 32 1
  match lookup w s.sets with
  | none => s.refuse c stOutOfRange 32
  | some k =>
    if k.state = 1 || k.state = 4 || k.command.isSome || s.dropFails w (c.param 33 1) named then s.refuse c stResourceInUse
    else if k.state = 3 then (s.running c.ref).updSet w fun k => { k with command := some c.ref, droppedAt := s.spine.epoch.toNat }
    else ((s.running c.ref).updSet w fun k => { k with command := some c.ref }).awaitCommit (.setDropping c.ref)

/-- The DROPPING commit. What CUT does to the sequences that pin the set follows in Machine/Commits.lean. -/
def State.atSetDropping (s : State) (r : CmdRef) : State :=
  match s.cmd r with
  | none => s
  | some c =>
    -- a set DAMAGED meanwhile goes straight to its release commit (R348)
    if (match lookup (c.param 32 1) s.sets with | some k => k.state == 3 | none => true) then
      s.updSet (c.param 32 1) fun k => { k with droppedAt := s.spine.epoch.toNat }
    else
      let t := s.serviceCommit
      t.updSet (c.param 32 1) fun k => { k with state := 4, droppedAt := t.spine.epoch.toNat }

/-- An abandoned drop returns its set to RESIDENT (R349). -/
def State.atSetReturn (s : State) (w : Nat) : State :=
  match lookup w s.sets with
  | some k =>
    let t := if k.state = 4 then s.serviceCommit else s
    let t := t.updSet w fun k => { k with state := if k.state = 4 then 2 else k.state, command := none, failing := none }
    match k.command with
    | some r => t.finish r { status := k.failing.getD stAborted, result0 := k.cut }
    | none => t
  | none => s

/-- SET_RELEASE_COMMIT: the slot is EMPTY once it has no pins and no older reader, and its drop completes. -/
def execSetReleaseCommit (set now : Nat) (s : State) : Host.Outcome State Fault Refusal :=
  runsSpine (fun s =>
    let s := s.at now
    match lookup set s.sets with
    | none => s
    | some k =>
      let due := (k.state == 4 && (k.byTurn || k.command.isSome)) || (k.state == 3 && k.command.isSome)
      if !due || k.failing.isSome || s.setPins set ≠ 0 || !s.noOlderReader || !s.olderGoneBut k.command then s
      else
        let t := (s.serviceCommit.emptySet set).raise evWeight 2
        match k.command with
        | some r => t.finish r { result0 := k.cut }
        | none => t) s

/-- ADAPTER_DROP (R358). -/
def State.adapterDrop (s : State) (c : Cmd) : State :=
  let name := c.param 32 4
  if s.foreignName c name then s.refuse c stBerthOwnership
  else if (s.liveSlot name).isNone then s.finish c.ref { status := stNotFound }
  else (s.running c.ref).awaitCommit (.adapterRetire c.ref)

def execAdapterDrop (c : CmdRef) (hv : HostView) (s : State) : Host.Outcome State Fault Refusal :=
  runs (fun s => (s.sees hv).start 0x6008 c fun k s => s.adapterDrop k) s

/-- The retiring commit: the command completes with the slot's PINS. -/
def State.atAdapterRetire (s : State) (r : CmdRef) : State :=
  match s.cmd r with
  | none => s
  | some c =>
    match s.liveSlot (c.param 32 4) with
    | none => s.finish r { status := stNotFound }
    | some (i, _) => (s.serviceCommit.retire (c.param 32 4)).finish r { result0 := s.adapterPins i }

/-- The retiring commit of a per-function reset (R550). -/
def State.atAdapterDropName (s : State) (name : Nat) : State :=
  if (s.liveSlot name).isNone then s else s.serviceCommit.retire name

/-- ADAPTER_RELEASE_COMMIT (R359). -/
def execAdapterReleaseCommit (slot now : Nat) (s : State) : Host.Outcome State Fault Refusal :=
  runsSpine (fun s =>
    let s := s.at now
    match lookup slot s.adapters with
    | none => s
    | some k =>
      let due := k.state == 3 || (k.state == 4 && !k.liveDamaged)
      if !due || s.adapterPins slot ≠ 0 || !s.noOlderReader || !s.olderGone then s
      else (s.serviceCommit.emptyAdapter slot).raise evWeight 3) s

/-! ## ADAPTER_VIEW (R361) -/

/-- The record of Table 13-8 as eight words; a slot that is EMPTY reads as zeros. -/
def State.adapterRecord (s : State) (i : Nat) : List Word :=
  match lookup i s.adapters with
  | none => List.replicate 8 0
  | some k =>
    [ k.name, k.version,
      k.state * 2 ^ 29 + k.source * 2 ^ 26 + k.baseSet * 2 ^ 16 + k.access * 2 ^ 8 + bit k.shared * 2 ^ 7,
      k.rank % 512 * 2 ^ 23 + s.adapterPins i % 2 ^ 20, k.base, k.base / 2 ^ 32, k.bytes, k.bytes / 2 ^ 32 ].map (BitVec.ofNat 32)

/-- A read of the view's first word: the record of the selected slot is captured, and the word returned. -/
def execAdapterViewRead (s : State) : Host.Outcome State Fault Refusal :=
  runsHost (fun s =>
    let r := s.adapterRecord (field (s.regNat (blkKeeper + 0x1A00)) 9 0)
    ({ s with adapterView := r }).emit (.readData (r.headD 0).toNat)) s

/-! ## Repair (R325-R328) -/

/-- REPAIR_OPEN: a reader meets a bad sector of a resident set or adapter, which starts the repair of its line (R325). -/
def execRepairOpen (addr now : Nat) (s : State) : Host.Outcome State Fault Refusal :=
  runs (fun s =>
    let s := s.at now
    if (s.shared (s.phys addr)).isSome then s.noteRead 5 addr 1 else s) s

/-- The bytes of one line from the source of its set or adapter. -/
def State.repairData (s : State) (r : Repair) (peer : PeerData) : List Byte × Option Nat :=
  let n := lineBytes s.spine.variant
  if r.adapter then
    match lookup r.slot s.adapters with
    | some k => s.sourceData k.source n (k.sourceAddr + (r.line - k.base)) 0 peer
    | none => (zeros n, some stUncorrectable)
  else
    match lookup r.slot s.sets with
    | some k =>
      let o := r.line - k.base
      if k.source = 4 then
        let shard := k.bytes / max 1 (s.ringLength k.link)
        if o / max 1 shard = s.ringIndex k.link then s.sourceData 0 n (k.sourceAddr + o % max 1 shard) 0 peer
        else s.sourceData 1 n 0 0 peer
      else s.sourceData k.source n (k.sourceAddr + o) 0 peer
    | none => (zeros n, some stUncorrectable)

/-- The device range that a repair reads, where its source is this device's reach. -/
def State.repairSource (s : State) (r : Repair) : Option Nat :=
  if r.adapter then (lookup r.slot s.adapters).bind fun k => if k.source = 0 then some (k.sourceAddr + (r.line - k.base)) else none
  else (lookup r.slot s.sets).bind fun k =>
    let o := r.line - k.base
    let shard := k.bytes / max 1 (s.ringLength k.link)
    if k.source = 0 then some (k.sourceAddr + o)
    else if k.source = 4 && o / max 1 shard == s.ringIndex k.link then some (k.sourceAddr + o % max 1 shard)
    else none

/-- The read-back of a repaired line (R314): 0 CLEAN, 1 CORRECTED, anything else UNCORRECTABLE: then the error is recorded and the first
sector holds the poison code. -/
def State.readBack (s : State) (line outcome : Nat) : State :=
  if outcome = 0 then s
  else
    match s.controllerOf line with
    | none => s
    | some c =>
      if outcome = 1 then
        let d := s.draw
        ((d.2.sat64 (blkStack c + 0x58) 1).setNat (blkStack c + 0x48) (2 ^ 30 + Config.freeWord d.1 line % 256 * 2 ^ 16 + 0xFF * 2 ^ 8)).correctable c
      else ({ s with mem := { s.mem with bad := (line :: s.mem.bad).dedup } }).noteUnit line

/-- REPAIR_SOURCE_DATA: the line is written as whole sectors and read back; CLEAN closes the repair, not CLEAN twice in a row
damages the set (Table 12-4, R327). -/
def State.repairLine (s : State) (r : Repair) (peer : PeerData) (outcome : Nat) : State :=
  let d := s.repairData r peer
  let s := match s.repairSource r with | some a => s.noteRead 5 a (lineBytes s.spine.variant) | none => s
  match d.2 with
  | some _ => s.damage r.adapter r.slot
  | none =>
    let t := s.writeMem r.line d.1
    if outcome = 0 then
      (({ t with repairs := t.repairs.erase r }).add64 (blkKeeper + 0x208) 1).logEvent
        { cause := 0x0309, cls := 1, unit := 0x71, address := r.line, users := s.usersOf r.adapter r.slot }
    else
      let t := t.readBack r.line outcome
      if r.unclean then t.damage r.adapter r.slot
      else { t with repairs := t.repairs.map fun x => if x = r then { x with unclean := true } else x }

def execRepairSourceData (line : Nat) (peer : PeerData) (outcome : Nat) (now : Nat) (hv : HostView) (s : State) :
    Host.Outcome State Fault Refusal :=
  runs (fun s =>
    let s := (s.at now).sees hv
    match s.repairs.find? fun r => r.line == line with
    | some r => s.repairLine r peer outcome
    | none => s) s

/-- REPAIR_DEADLINE: a repair still open DEADLINE ms after it was opened (R327). -/
def execRepairDeadline (line now : Nat) (s : State) : Host.Outcome State Fault Refusal :=
  runs (fun s =>
    let s := s.at now
    match s.repairs.find? fun r => r.line == line with
    | some r => if s.expired (r.openedAt + msec * field (s.regNat (blkKeeper + 0x200)) 15 0) then s.damage r.adapter r.slot else s
    | none => s) s

end Sys2Proof.Machine
end

