-- ==== Sys2Proof/Machine/Attend.lean ====
section
/-! DEFINITION. KV pages and ATTEND (R443-R447), and the order in which a service computes a token row (R428-R430, R355). -/

namespace Sys2Proof.Machine

open Sys2Proof

/-! ## KV pages (R443, R444) -/

/-- What a page pool's geometry rests on. -/
structure Pool where
  kvHeads : Nat
  headDim : Nat
  fmt : Nat
  /-- KV_SCALE, signed; 0 for MXFP8. -/
  scale : Int
  base : Nat
  stride : Nat
  deriving DecidableEq, Repr

def kvElems (kvHeads headDim : Nat) : Nat := 128 * kvHeads * headDim

/-- The bytes of a page. -/
def pageBytes (kvHeads headDim fmt : Nat) : Nat :=
  2 * kvElems kvHeads headDim + (if fmt = 0x06 then 2 * kvElems kvHeads headDim / 32 else 0)

/-- A page's stride in its pool. -/
def pageStride (bytes : Nat) : Nat := (bytes + 2047) / 2048 * 2048

/-- The bytes of a span record with so many page numbers. -/
def spanBytes (layers : Nat) : Nat := (4 + 4 * layers + 63) / 64 * 64

/-- The place of K or V of one slot and head in a page: the offset of its elements, and of its scales. -/
def Pool.row (k : Pool) (value : Bool) (slot head : Nat) : Nat × Nat :=
  let n := kvElems k.kvHeads k.headDim
  let i := (slot * k.kvHeads + head) * k.headDim
  (bit value * n + i, 2 * n + bit value * (n / 32) + i / 32)

def Pool.page (k : Pool) (page : Nat) : Nat := k.base + page * k.stride

/-- A stored key or value vector, widened exactly to BF16 (R193). -/
def State.kvRow (s : State) (k : Pool) (page slot head : Nat) (value : Bool) : List Fp :=
  let r := k.row value slot head
  let a := k.page page
  (List.range k.headDim).map fun d =>
    let w := s.natAt (a + r.1 + d) 1
    if k.fmt = 0x06 then readMx 0x06 (s.natAt (a + r.2 + d / 32) 1) w else (readElem 0x04 w).shift (-k.scale)

/-- Writes a key or value vector, converted to KV_FMT. -/
def State.putKv (s : State) (k : Pool) (page slot head : Nat) (value : Bool) (xs : List Fp) : State :=
  let r := k.row value slot head
  let a := k.page page
  let c := convertRow k.fmt k.scale xs
  let t := s.writeMem (a + r.1) (packElems k.fmt (c.1.map Conv.bits))
  if k.fmt = 0x06 then t.writeMem (a + r.2) (c.2.flatMap (leBytes 1)) else t

/-- The ranges of one slot's K and V in a page. -/
def Pool.slotRanges (k : Pool) (page slot : Nat) : List (Nat × Nat) :=
  [false, true].flatMap fun v =>
    let r := k.row v slot 0
    let a := k.page page
    (a + r.1, k.kvHeads * k.headDim)
      :: (if k.fmt = 0x06 then [(a + r.2, k.kvHeads * k.headDim / 32)] else [])

/-! ## Rotation and attention (R447) -/

def bf16 (x : Fp) : Fp := bf16Format.decode (bf16Bits x)

/-- The two elements of pair i. -/
def rotaryPair (headDim i : Nat) : Nat × Nat :=
  if Config.rotaryNeighbours then (2 * i, 2 * i + 1) else (i, i + headDim / 2)

/-- One element of a rotated vector, with the cosines and sines of its position. -/
def rotated (cs sn : Nat → Fp) (xs : List Fp) (d : Nat) : Fp :=
  let n := xs.length
  let i := if Config.rotaryNeighbours then d / 2 else d % (n / 2)
  let p := rotaryPair n i
  let x0 := xs.getD p.1 .zero
  let x1 := xs.getD p.2 .zero
  if d = p.1 then round32 ((mulF x0 (cs i)).sub (mulF x1 (sn i))) else round32 ((mulF x0 (sn i)).add (mulF x1 (cs i)))

/-- A vector rotated for position p with the table at an address. -/
def State.rotate (s : State) (rope p : Nat) (xs : List Fp) : List Fp :=
  let cell := fun i part => ofF32 (s.natAt (rope + 8 * (p * (xs.length / 2) + i) + part) 4)
  (List.range xs.length).map fun d => rotated (fun i => cell i 0) (fun i => cell i 4) xs d

/-- One head's output for a query at position p, over the pages of its sequence (by span index). -/
def State.attendHead (s : State) (k : Pool) (pages : Nat → Nat) (p head : Nat) (scale : Fp) (q : List Fp) : List Fp :=
  let dot := fun xs ys : List Fp => referenceDot ((xs.zip ys).map fun z => z.1.mul z.2)
  let at' := fun (j : Nat) (v : Bool) => s.kvRow k (pages (j / 128)) (j % 128) head v
  let sc := (List.range (p + 1)).map fun j => dot (q.map bf16) (at' j false)
  let w := (softmax scale sc).map bf16
  let vs := (List.range (p + 1)).map fun j => at' j true
  (List.range k.headDim).map fun d => bf16 (dot w (vs.map fun v => v.getD d .zero))

/-- The pages a row at position p reads. -/
def pagesRead (k : Pool) (pages : Nat → Nat) (p : Nat) : List (Nat × Nat) :=
  (List.range (p + 1)).flatMap fun j => k.slotRanges (pages (j / 128)) (j % 128)

/-! ## ATTEND -/

structure AttendEntry where
  rows : Nat
  pos0 : Nat
  span : Nat
  row0 : Nat
  deriving DecidableEq, Repr

def Cmd.pool (c : Cmd) : Pool :=
  { kvHeads := c.param 38 2, headDim := c.param 40 2, fmt := c.param 42 1,
    scale := if c.param 42 1 = 0x06 then 0 else signedOf 8 (c.param 43 1), base := c.param 96 8,
    stride := pageStride (pageBytes (c.param 38 2) (c.param 40 2) (c.param 42 1)) }

/-- The refusals about a PAVE_MASK at an offset. -/
def State.paveMaskFails (s : State) (c : Cmd) (off : Nat) : List (Option Refuse) :=
  let ns := bitsBelow 8 (c.param off 1)
  [ refuseIf ns.isEmpty stOutOfRange off
  , refuseIf (ns.any fun n => !(s.berthPaves c.epoch c.berth).testBit n) stBerthOwnership
  , refuseIf (ns.any fun n => s.isFenced (n + 1)) stUnitFenced
  , refuseIf (ns.any fun n => s.power.gated.testBit (n / 2)) stUnitFenced ]

/-- HEADS is a multiple of KV_HEADS, and the other fields of Table 16-2 that ATTEND repeats are in range. -/
def attendShapeFails (c : Cmd) : List (Option Refuse) :=
  [ refuseIf (c.param 34 2 ≤ c.param 32 2) stOutOfRange 32
  , refuseIf (c.param 34 2 = 0 || 2048 < c.param 34 2) stOutOfRange 34
  , refuseIf (c.param 38 2 = 0 || 256 < c.param 38 2) stOutOfRange 38
  , refuseIf (c.param 36 2 = 0 || c.param 36 2 % max 1 (c.param 38 2) ≠ 0) stOutOfRange 36
  , refuseIf (!([64, 128, 256].contains (c.param 40 2))) stOutOfRange 40
  , refuseIf (c.param 42 1 = 0x06 && c.param 43 1 ≠ 0) stOutOfRange 43 ]

def State.attendFails (s : State) (c : Cmd) : List (Option Refuse) :=
  attendShapeFails c ++ s.maskFails c 52 false ++ s.paveMaskFails c 56
    ++ [refuseRange (s.rangeOf c (c.param 64 8) (16 * c.param 44 4) false) 64]

/-- The span records of a list from its head, by fuel: their page numbers for the command's layer. -/
def State.spanPages (s : State) (addr recBytes layer : Nat) : Nat → Nat → List Nat
  | 0, _ => []
  | n + 1, r =>
    if r = 0xFFFFFFFF then []
    else
      let a := addr + r * recBytes
      s.natAt (a + 4 + 4 * layer) 4 :: s.spanPages addr recBytes layer n (s.natAt a 4)

/-- The refusals that reading the entry table brings: two entries of one SPAN_HEAD, a position beyond the span list, an
unallocated page (R447), a range outside the berth. -/
def State.attendTableFails (s : State) (c : Cmd) (es : List (AttendEntry × List Nat)) : Option Refuse :=
  let k := c.pool
  let qRow := c.param 36 2 * c.param 40 2 * 2
  let kvRow := c.param 38 2 * c.param 40 2 * 4
  let heads := es.map fun e => e.1.span
  let top := (es.map fun e => e.1.row0 + e.1.rows).foldl max 0
  let out := fun (p : Bool) => refuseIf p stOutOfRange
  theRefusal ([ out (heads.dedup.length != heads.length) ]
    ++ es.flatMap (fun e =>
      [ out (0 < e.1.rows && e.2.length * 128 < e.1.pos0 + e.1.rows), out (e.2.contains 0xFFFFFFFF) ]
      ++ e.2.map fun p => refuseRange (s.rangeOf c (k.page p) (pageBytes k.kvHeads k.headDim k.fmt) true) 0)
    ++ [ refuseRange (s.rangeOf c (c.param 72 8) (qRow * top) false) 0
       , refuseRange (s.rangeOf c (c.param 80 8) (kvRow * top) false) 0
       , refuseRange (s.rangeOf c (c.param 88 8) (qRow * top) true) 0 ])

/-- The BF16 vectors of one row of an array of heads. -/
def State.headRow (s : State) (addr row heads headDim head : Nat) : List Fp :=
  (List.range headDim).map fun d => s.elemAt 0x02 addr (16 * ((row * heads + head) * headDim + d))

/-- Writes the new K and V of one row into its page. -/
def State.putNewKv (s : State) (c : Cmd) (pages : List Nat) (row p : Nat) : State :=
  let k := c.pool
  let page := pages.getD (p / 128) 0
  (List.range k.kvHeads).foldl (fun (t : State) g =>
    let kNew := s.headRow (c.param 80 8) row (2 * k.kvHeads) k.headDim g
    let vNew := s.headRow (c.param 80 8) row (2 * k.kvHeads) k.headDim (k.kvHeads + g)
    (t.putKv k page (p % 128) g false (s.rotate (c.param 112 8) p kNew)).putKv k page (p % 128) g true vNew) s

/-- The rows of all entries: entry pages, row of the arrays, position. -/
def attendRows (es : List (AttendEntry × List Nat)) : List (List Nat × Nat × Nat) :=
  es.flatMap fun e => (List.range e.1.rows).map fun r => (e.2, e.1.row0 + r, e.1.pos0 + r)

/-- The output of one row. -/
def State.attendRow (s : State) (c : Cmd) (pages : List Nat) (row p : Nat) : List Fp :=
  let k := c.pool
  let heads := c.param 36 2
  (List.range heads).flatMap fun h =>
    let q := s.rotate (c.param 112 8) p (s.headRow (c.param 72 8) row heads k.headDim h)
    s.attendHead k (fun i => pages.getD i 0) p (h / max 1 (heads / k.kvHeads)) (ofF32 (c.param 48 4)) q

/-- The entries of the table, each with the pages of its span list. -/
def State.attendEntries (s : State) (c : Cmd) : List (AttendEntry × List Nat) :=
  (List.range (c.param 44 4)).map fun i =>
    let a := c.param 64 8 + 16 * i
    let e : AttendEntry := ⟨s.natAt a 4, s.natAt (a + 4) 4, s.natAt (a + 8) 4, s.natAt (a + 12) 4⟩
    (e, s.spanPages (c.param 104 8) (spanBytes (c.param 34 2)) (c.param 32 2) ((e.pos0 + e.rows + 127) / 128) e.span)

/-- The output rows of ATTEND. -/
def Cmd.attendOuts (c : Cmd) (es : List (AttendEntry × List Nat)) : List (Nat × Nat) :=
  let rowBytes := c.param 36 2 * c.pool.headDim * 2
  (attendRows es).map fun r => (c.param 88 8 + r.2.1 * rowBytes, rowBytes)

/-- The query, new key and value, and rotary ranges that the rows of an ATTEND read. -/
def Cmd.attendIns (c : Cmd) (es : List (AttendEntry × List Nat)) : List (Nat × Nat) :=
  let k := c.pool
  let rowBytes := c.param 36 2 * k.headDim * 2
  (attendRows es).flatMap fun r =>
    [ (c.param 72 8 + r.2.1 * rowBytes, rowBytes), (c.param 80 8 + r.2.1 * k.kvHeads * k.headDim * 4, k.kvHeads * k.headDim * 4),
      (c.param 112 8 + 8 * (r.2.2 * (k.headDim / 2)), 8 * (k.headDim / 2)) ]

/-- The pages of the pool that they read. -/
def Cmd.attendPages (c : Cmd) (es : List (AttendEntry × List Nat)) : List (Nat × Nat) :=
  (attendRows es).flatMap fun r => pagesRead c.pool (fun i => r.1.getD i 0) r.2.2

/-- The new keys and values are in the pool. -/
def State.attendStore (s : State) (c : Cmd) (es : List (AttendEntry × List Nat)) : State :=
  (attendRows es).foldl (fun (t : State) r => t.putNewKv c r.1 r.2.1 r.2.2) s

/-- The outputs of all rows are written. -/
def State.attendWrite (s : State) (c : Cmd) (es : List (AttendEntry × List Nat)) : State :=
  ((attendRows es).zip (c.attendOuts es)).foldl (fun (u : State) r =>
    u.writeMem r.2.1 (packElems 0x02 ((s.attendRow c r.1.1 r.1.2.1 r.1.2.2).map bf16Bits))) s

/-- ATTEND: every new key and value is written before any score is computed. -/
def State.attend (s : State) (c : Cmd) : State :=
  match theRefusal (s.attendFails c) with
  | some r => s.refuse c r.status r.detail
  | none =>
    let n := c.param 44 4
    let table := c.param 64 8
    match s.readStatus table (16 * n) with
    | some st => (s.noteRead 5 table (16 * n)).finish c.ref { status := st }
    | none =>
      let es := s.attendEntries c
      match s.attendTableFails c es with
      | some r => s.finish c.ref { status := r.status }
      | none =>
        let s := s.dropRegions (bitsBelow 8 (c.param 56 1))
        let outs := c.attendOuts es
        match s.rangesStatus (c.attendIns es) with
        | some st => ((s.noteRanges 0 (c.attendIns es)).poisonRanges outs).finish c.ref { status := st }
        | none =>
          let t := s.attendStore c es
          match t.rangesStatus (c.attendPages es) with
          | some st => ((t.noteRanges 0 (c.attendPages es)).poisonRanges outs).finish c.ref { status := st }
          | none => (t.attendWrite c es).finish c.ref { status := t.outStatus outs }

def execAttend (c : CmdRef) (hv : HostView) (s : State) : Host.Outcome State Fault Refusal :=
  runs (fun s => (s.sees hv).startCompute 0x2002 c fun k s => s.attend k) s

/-! ## Model descriptors (Tables 16-2 to 16-4, R429) -/

def readTensor (e : List Byte) : Tensor :=
  { layer := fieldAt e 0 2, code := fieldAt e 2 2, fmt := fieldAt e 4 1, k := fieldAt e 8 4, n := fieldAt e 12 4,
    offset := fieldAt e 16 8, scaleOffset := fieldAt e 24 8 }

/-- A model descriptor at an address. -/
def State.readModel (s : State) (a : Nat) : Model :=
  let h := s.bytesAt a 64
  { layers := fieldAt h 0 2, heads := fieldAt h 2 2, kvHeads := fieldAt h 4 2, headDim := fieldAt h 6 2,
    hidden := fieldAt h 8 4, ffn := fieldAt h 12 4, vocab := fieldAt h 16 4, experts := fieldAt h 20 1,
    topExperts := fieldAt h 21 1, kvScale := fieldAt h 22 1, eps := fieldAt h 24 4, ropeAddr := fieldAt h 32 8,
    tensors := (List.range (fieldAt h 28 4)).map fun i => readTensor (s.bytesAt (a + 64 + 32 * i) 32) }

/-- A header field leaves its range; `bytes` are the descriptor's first 64. -/
def headerFails (h : List Byte) (m : Model) (kvFmt : Nat) : Bool :=
  m.layers == 0 || decide (1024 < m.layers) || m.kvHeads == 0 || decide (256 < m.kvHeads)
    || m.heads == 0 || m.heads % max 1 m.kvHeads != 0 || !([64, 128, 256].contains m.headDim)
    || m.hidden != m.heads * m.headDim || decide (m.vocab < 2) || decide (1048576 < m.vocab)
    || m.experts == 1 || decide (64 < m.experts)
    || (if m.experts = 0 then m.topExperts != 0 else m.topExperts == 0 || decide (8 < m.topExperts) || decide (m.experts < m.topExperts))
    || (kvFmt == 0x06 && m.kvScale != 0) || fieldAt h 23 1 != 0 || (slice h 40 24).any (· != 0)
    || fieldAt h 28 4 == 0 || decide (65536 < fieldAt h 28 4)

/-- The tensors a model needs: layer and code. -/
def Model.needs (m : Model) : List (Nat × Nat) :=
  [(0xFFFF, 0), (0xFFFF, 1), (0xFFFF, 2)] ++ (List.range m.layers).flatMap fun l =>
    ([0, 1, 2, 3, 8, 9].map fun c => (l, c))
      ++ (if m.experts = 0 then [(l, 4), (l, 5), (l, 6)]
          else (l, 7) :: (List.range m.experts).flatMap fun e => (List.range 3).map fun t => (l, 0x100 + 4 * e + t))

/-- Is a tensor one that the pavés stream as B? -/
def Tensor.projection (t : Tensor) : Bool := if t.layer = 0xFFFF then t.code == 2 else t.code != 8 && t.code != 9

/-- Is a tensor a vector of norm gains (R430)? -/
def Tensor.gains (t : Tensor) : Bool := if t.layer = 0xFFFF then t.code == 1 else t.code == 8 || t.code == 9

/-- The bytes a tensor occupies in its set, and its scales. -/
def Tensor.bytes (t : Tensor) : Nat :=
  if t.projection then ceilDiv t.n 512 * ceilDiv t.k (max 1 (tileOf t.fmt)) * 262144 else elemsBytes t.fmt (t.k * t.n)
def Tensor.scaleBytes (t : Tensor) : Nat :=
  if !isMx t.fmt then 0
  else if t.projection then ceilDiv t.n 512 * ceilDiv t.k (max 1 (tileOf t.fmt)) * (tileOf t.fmt / 32 * 512)
  else t.k * t.n / 32

/-- The index of the first bad tensor entry of a descriptor (R429); an index past the table names a missing tensor. -/
def Model.badTensor (m : Model) (setBytes : Nat) : Option Nat :=
  let n := m.tensors.length
  let bad := (List.range n).find? fun i =>
    match m.tensors[i]? with
    | some t =>
      ((m.tensors.take i).any fun u => u.layer == t.layer && u.code == t.code)
        || decide (setBytes < t.offset + t.bytes) || (isMx t.fmt && decide (setBytes < t.scaleOffset + t.scaleBytes))
        || (if t.projection then depthOf t.fmt == 0 else if t.gains then t.fmt != 0x02 else !tensorFormat t.fmt)
    | none => false
  match bad with
  | some i => some i
  | none => if m.needs.all fun k => m.tensors.any fun t => t.layer == k.1 && t.code == k.2 then none else some n

/-! ## A token row (R430, R355) -/

/-- What a service's arithmetic reads: the descriptor, the set's range, the adapter. -/
structure Reader where
  model : Model
  base : Nat
  adapter : Option Adapter

def Model.tensor (m : Model) (layer code : Nat) : Option Tensor := m.tensors.find? fun t => t.layer == layer && t.code == code

/-- W[kk][nn] of a projection in the B layout. -/
def State.weightAt (s : State) (base : Nat) (t : Tensor) (kk nn : Nat) : Fp :=
  let tile := nn / 512 * ceilDiv t.k (tileOf t.fmt) + kk / tileOf t.fmt
  let w := s.patternAt t.fmt (base + t.offset + 262144 * tile) (layoutB t.fmt kk nn)
  if isMx t.fmt then
    readMx t.fmt (s.natAt (base + t.scaleOffset + tileOf t.fmt / 32 * 512 * tile + layoutBScale t.fmt kk nn) 1) w
  else readElem t.fmt w

/-- A vector as an MX format holds it, in blocks of 32 (R191). -/
def throughMx (code : Nat) (xs : List Fp) : List Fp :=
  (groups 32 xs.length xs).flatMap fun g =>
    let b := writeMx code g
    b.2.map fun c => readMx code b.1 c.bits

/-- A projection's input in the format of its weight's depth class (R430). -/
def classInput (fmt : Nat) (xs : List Fp) : List Fp :=
  if depthOf fmt = 2 then xs.map bf16 else if depthOf fmt = 4 then throughMx 0x06 xs
  else if depthOf fmt = 8 then throughMx 0x0A xs else xs

/-- The adapter's term e of R355 for each output column; none where it does not name the projection. -/
def State.adapterTerm (s : State) (a : Adapter) (layer code : Nat) (xs : List Fp) : Option (List Fp) :=
  let image := s.bytesAt a.base 0x8000
  ((List.range a.tensors).map (adapterTensor image)).findSome? fun t =>
    if t.layer = layer && t.tensor = code then
      let elem := fun off i => s.elemAt 0x02 (a.base + off) (16 * i)
      let x := xs.map bf16
      let us := (List.range a.rank).map fun r =>
        bf16 (referenceDot ((List.range t.inDim).map fun i => (x.getD i .zero).mul (elem t.dOffset (i * a.rank + r))))
      some ((List.range t.outDim).map fun n =>
        mulF (referenceDot ((List.range a.rank).map fun r => (us.getD r .zero).mul (elem t.uOffset (r * t.outDim + n)))) (ofF32 a.alpha))
    else none

/-- A projection of a row: FP32, with the adapter's term added. -/
def State.project (s : State) (m : Reader) (layer code : Nat) (xs : List Fp) : List Fp :=
  match m.model.tensor layer code with
  | none => []
  | some t =>
    let x := classInput t.fmt xs
    let y := (List.range t.n).map fun nn =>
      referenceDot ((List.range t.k).map fun kk => (x.getD kk .zero).mul (s.weightAt m.base t kk nn))
    match m.adapter with
    | some a =>
      match s.adapterTerm a layer code xs with
      | some e => (List.range y.length).map fun i => addF (y.getD i .zero) (e.getD i .zero)
      | none => y
    | none => y

/-- A row of a tensor held row-major. -/
def State.tensorRow (s : State) (m : Reader) (layer code row n : Nat) : List Fp :=
  match m.model.tensor layer code with
  | none => []
  | some t => (List.range n).map fun j =>
      let i := row * n + j
      let w := s.patternAt t.fmt (m.base + t.offset) (i * storeBits t.fmt)
      if isMx t.fmt then readMx t.fmt (s.natAt (m.base + t.scaleOffset + i / 32) 1) w else readElem t.fmt w

def addRows (xs ys : List Fp) : List Fp := (xs.zip ys).map fun p => addF p.1 p.2

/-- The feed-forward half of a layer. -/
def State.feedForward (s : State) (m : Reader) (l : Nat) (x : List Fp) : List Fp :=
  let h := rmsnorm (ofF32 m.model.eps) x (s.tensorRow m l 9 0 m.model.hidden)
  let mlp := fun gate up down =>
    s.project m l down (((s.project m l gate h).zip (s.project m l up h)).map fun p => silu p.1 p.2)
  if m.model.experts = 0 then addRows x (mlp 4 5 6)
  else
    let top := (ranked (s.project m l 7 h)).take m.model.topExperts
    let w := softmax .one (top.map Prod.snd)
    let chosen := (List.range m.model.experts).filterMap fun e =>
      ((top.map Prod.fst).zip w).findSome? fun p => if p.1 = e then some (e, p.2) else none
    chosen.foldl (fun x k =>
      addRows x ((mlp (0x100 + 4 * k.1) (0x101 + 4 * k.1) (0x102 + 4 * k.1)).map fun y => mulF k.2 y)) x

/-- One layer of a token row at position p: the new key and value are written, then the row attends to positions 0 to p. -/
def State.layer (s : State) (m : Reader) (k : Pool) (pages : Nat → Nat) (p l : Nat) (x : List Fp) : State × List Fp :=
  let h := rmsnorm (ofF32 m.model.eps) x (s.tensorRow m l 8 0 m.model.hidden)
  let hd := m.model.headDim
  let part := fun (xs : List Fp) i => (xs.drop (i * hd)).take hd
  let q := (s.project m l 0 h).map bf16
  let kn := (s.project m l 1 h).map bf16
  let vn := (s.project m l 2 h).map bf16
  let t := (List.range m.model.kvHeads).foldl (fun (t : State) g =>
    (t.putKv k (pages (p / 128)) (p % 128) g false (s.rotate m.model.ropeAddr p (part kn g))).putKv k (pages (p / 128)) (p % 128) g
      true (part vn g)) s
  let scale := ofF32 (Config.serviceScale hd).toNat
  let a := (List.range m.model.heads).flatMap fun i =>
    t.attendHead k pages p (i / max 1 (m.model.heads / m.model.kvHeads)) scale (s.rotate m.model.ropeAddr p (part q i))
  (t, t.feedForward m l (addRows x (t.project m l 3 a)))

/-- Feeds one token at a position through every layer: its KV is written, and its logits result. Layer l of this model uses
page slot `first + l` of each span. -/
def State.feed (s : State) (m : Reader) (k : Pool) (spans : List Span) (first p token : Nat) : State × List Fp :=
  let x0 := (s.tensorRow m 0xFFFF 0 token m.model.hidden).map round32
  let r := (List.range m.model.layers).foldl (fun (acc : State × List Fp) l =>
    acc.1.layer m k (fun i => match spans[i]? with | some sp => sp.pages.getD (first + l) 0 | none => 0) p l acc.2) (s, x0)
  let h := rmsnorm (ofF32 m.model.eps) r.2 (r.1.tensorRow m 0xFFFF 1 0 m.model.hidden)
  (r.1, r.1.project m 0xFFFF 2 h)

/-- The ranges of a set that a forward pass reads. -/
def Reader.ranges (m : Reader) : List (Nat × Nat) :=
  m.model.tensors.flatMap fun t =>
    (m.base + t.offset, t.bytes) :: (if isMx t.fmt then [(m.base + t.scaleOffset, t.scaleBytes)] else [])

end Sys2Proof.Machine
end

