-- ==== Sys2Proof/Machine/Serving.lean ====
section
/-! DEFINITION. The serving loop (chapter 16): opening and closing services, admission, the step builder, batch steps, endings,
budgets, rollout runs. -/

namespace Sys2Proof.Machine

open Sys2Proof

/-! ## Status codes of Table 16-9 -/

def stSeqStopped : Nat := 0x8101
def stSeqLimit : Nat := 0x8102
def stSeqCancelled : Nat := 0x8103
def stSeqCut : Nat := 0x8104
def stSeqEvicted : Nat := 0x8105
def stSeqKvLost : Nat := 0x8106

/-! ## Services and entries -/

def State.updServing (s : State) (n : Nat) (f : Serving → Serving) : State :=
  match lookup n s.serving with
  | some k => { s with serving := insert n (f k) s.serving }
  | none => s

def State.updEntry (s : State) (i : Nat) (f : Entry → Entry) : State :=
  match lookup i s.manifest with
  | some e => { s with manifest := insert i (f e) s.manifest }
  | none => s

/-- A service's counter. -/
def serveCounter (n off : Nat) : Nat := blkManifest + 0x200 + 64 * n + off

/-- The entries of a service, by index. -/
def State.entriesOf (s : State) (n : Nat) : List (Nat × Entry) := s.manifest.filter fun e => e.2.svc == n

def Serving.draftLayers (k : Serving) : Nat := match k.draft with | some m => m.layers | none => 0

/-- Page numbers of a span record. -/
def Serving.pagesPerSpan (k : Serving) : Nat := k.model.layers + k.draftLayers

/-- The pool as the policy's layers, or the draft's, use it. -/
def Serving.pool (k : Serving) (m : Model) : Pool :=
  { kvHeads := m.kvHeads, headDim := m.headDim, fmt := k.kvFmt, scale := if k.kvFmt = 0x06 then 0 else signedOf 8 m.kvScale,
    base := k.kvBase, stride := k.stride }

/-- The epoch of a service's present step, or the epoch in force between its steps: that of a report (R435). -/
def State.stepEpoch (s : State) (n : Nat) : Nat :=
  match (lookup n s.serving).bind fun k => k.step with | some b => b.epoch | none => s.spine.epoch.toNat

/-! ## Budgets (R436-R438) -/

def budgetBase (a : Nat) : Nat := blkManifest + 0x1000 + 16 * a
def State.balance (s : State) (a : Nat) : Int := signedOf 32 (s.regNat (budgetBase a + 0xC))
def State.putBalance (s : State) (a : Nat) (v : Int) : State := s.setNat (budgetBase a + 0xC) (patternOf 32 v)

/-- A debit, to at most -2^31 below zero. -/
def State.debit (s : State) (a n : Nat) : State := s.putBalance a (max (s.balance a - n) (-(2 ^ 31)))

/-- BUDGET_REFILL: at whole multiples of 1 ms. -/
def execBudgetRefill (now : Nat) (s : State) : Host.Outcome State Fault Refusal :=
  runs (fun s =>
    let s := s.at now
    if s.now % msec ≠ 0 then s
    else (List.range 64).foldl (fun (t : State) a =>
      let cap : Int := field (t.regNat (budgetBase a + 4)) 30 0
      let refill : Int := field (t.regNat (budgetBase a)) 23 0
      let b := t.balance a
      if b < cap then t.putBalance a (min (b + refill) cap) else t) s) s

/-- Is an account assigned to a berth? -/
def State.accountOk (s : State) (epoch a b : Nat) : Bool :=
  let w := s.lkWord epoch (budgetBase a)
  w.testBit 31 && field w 30 28 == b

/-! ## Pages (R443-R445) -/

/-- The lowest numbers below a limit that a list does not hold. -/
def lowestFree (used : List Nat) (limit n : Nat) : List Nat := ((List.range limit).filter fun i => !used.contains i).take n

/-- Span records that positions 0 to p need. -/
def spansFor (p : Nat) : Nat := p / 128 + 1

/-- Are there records and pages for n more spans? -/
def Serving.fits (k : Serving) (n : Nat) : Bool :=
  k.usedSpans.length + n ≤ k.spans && k.usedPages.length + n * k.pagesPerSpan ≤ k.kvPages

/-- Gives an entry one more span: its record is written, and the record before it names it. -/
def State.addSpan (s : State) (n i : Nat) : State :=
  match lookup n s.serving, lookup i s.manifest with
  | some k, some e =>
    let r := (lowestFree k.usedSpans k.spans 1).headD 0
    let ps := lowestFree k.usedPages k.kvPages k.pagesPerSpan
    let t := s.updServing n fun k => { k with usedSpans := r :: k.usedSpans, usedPages := ps ++ k.usedPages }
    let t := t.updEntry i fun e => { e with spans := e.spans ++ [⟨r, ps⟩] }
    let t := t.writeMem (k.spanAddr + r * k.recBytes) (leBytes 4 0xFFFFFFFF ++ ps.flatMap (leBytes 4))
    match e.spans.getLast? with
    | some l => t.writeMem (k.spanAddr + l.record * k.recBytes) (leBytes 4 r)
    | none => t
  | _, _ => s

/-- Gives an entry the spans that cover positions 0 to p; by fuel. -/
def State.coverTo (s : State) (n i : Nat) : Nat → State
  | 0 => s
  | fuel + 1 => (s.addSpan n i).coverTo n i fuel

/-- An entry's spans return to the free lists. -/
def State.freeSpans (s : State) (i : Nat) : State :=
  match lookup i s.manifest with
  | none => s
  | some e =>
    let t := s.updServing e.svc fun k =>
      { k with
        usedSpans := k.usedSpans.filter fun r => !(e.spans.any fun p => p.record == r),
        usedPages := k.usedPages.filter fun r => !(e.spans.any fun p => p.pages.contains r) }
    t.updEntry i fun e => { e with spans := [] }

/-! ## Rollout records (R460) -/

/-- END of a record, by outcome. -/
def endCode (st : Nat) : Nat :=
  if st = stSeqStopped then 1 else if st = stSeqLimit then 2 else if st = stSeqCancelled then 3 else if st = stSeqCut then 4
  else if st = stSeqEvicted then 5 else if st = stSeqKvLost then 6 else if st = stWeightsDamaged then 7
  else if st = stHostAccess then 8 else if st = stUnitFault then 9 else 0

/-- The first 128 bytes of a record; `outcome` 0 while it runs. -/
def State.recordHeader (s : State) (e : Entry) (outcome : Nat) : List Byte :=
  let seed := match lookup e.svc s.serving with | some k => k.seed | none => 0
  leBytes 8 e.request ++ leBytes 4 e.sequence ++ leBytes 4 e.setVersion ++ leBytes 4 e.adapterName ++ leBytes 4 e.adapterVersion
  ++ leBytes 4 e.promptLen ++ leBytes 4 e.generated ++ leBytes 4 (if outcome = stSeqCut then e.length else 0xFFFFFFFF)
  ++ leBytes 2 (endCode outcome) ++ leBytes 1 e.cls ++ leBytes 1 e.aflags ++ leBytes 8 seed ++ leBytes 4 e.invTemp
  ++ leBytes 4 e.topP ++ leBytes 2 e.topK ++ zeros 2 ++ leBytes 4 e.accepted ++ leBytes 4 0x7FC00000 ++ zeros 60

/-- Writes a record's first 128 bytes. -/
def State.putRecord (s : State) (e : Entry) (outcome : Nat) : State × Option Nat :=
  s.writePlace (placeOf e.recordAddr) 0 (s.recordHeader e outcome)

/-- Writes the tokens and log-probabilities of one step, then COUNT with the kept draft tokens. -/
def State.putTokens (s : State) (e : Entry) (out : List (Nat × Nat)) : State × Option Nat :=
  let p := placeOf e.recordAddr
  let a := s.writePlace p (128 + 4 * e.generated) (out.flatMap fun t => leBytes 4 t.1)
  let b := a.1.writePlace p (128 + 4 * e.maxNew + 4 * e.generated) (out.flatMap fun t => leBytes 4 t.2)
  let c := b.1.writePlace p 28 (leBytes 4 (e.generated + out.length))
  let d := c.1.writePlace p 60 (leBytes 4 e.accepted)
  (d.1, worse (worse a.2 b.2) (worse c.2 d.2))

/-! ## Endings (R454-R456) -/

/-- The log record of a sequence that a fault ended. -/
def State.noteFaulted (s : State) (e : Entry) (st : Nat) : State :=
  if [stSeqKvLost, stWeightsDamaged, stUnitFault].contains st then
    s.logEvent { cause := 0x0602, cls := 2, unit := 0x76, berth := some e.berth, queue := e.queue, fn := e.fn, tag := e.tag }
  else s

/-- The event flag of an outcome. -/
def State.raiseOutcome (s : State) (st : Nat) : State :=
  if st = stSeqCut then s.raise evServe 1 else if st = stSeqEvicted then s.raise evServe 3
  else if st = stSeqKvLost then s.raise evServe 4 else s

/-- A run's sequence ended; its last one gives the run's report (R462). -/
def State.runEnded (s : State) (n run st : Nat) : State :=
  match lookup n s.serving with
  | none => s
  | some k =>
    match k.runs.find? fun r => r.run == run with
    | none => s
    | some r =>
      let r' := { r with ended := r.ended + 1, other := r.other + bit (st != stSeqStopped && st != stSeqLimit) }
      if r'.ended < r.prompts * r.samples then
        s.updServing n fun k => { k with runs := updateFirst (fun x => x.run == run) (fun _ => r') k.runs }
      else
        let t := s.updServing n fun k => { k with runs := k.runs.filter fun x => x.run != run }
        (t.raise evServe 0).report ⟨r.queue, r.tag, r.fn, stSuccess, 0, s.stepEpoch n, r.run, r'.other⟩

/-- A cut counts for the close or the drop that decided it. -/
def State.countCut (s : State) (e : Entry) : State :=
  let t := s.updServing e.svc fun k => { k with closing := k.closing.map fun c => (c.1, c.2.1, c.2.2 + 1) }
  t.updSet e.set fun w => if w.state = 4 then { w with cut := w.cut + 1 } else w

/-- An entry ends: spans, pins, record, report, and it is FREE (R456). One whose own bytes had bad parity keeps its spans, which return
to the pool when the service closes (R453). -/
def State.endEntry (s : State) (i st : Nat) : State :=
  match lookup i s.manifest with
  | none => s
  | some e =>
    let t := if st = stUnitFault then s.raise evServe 5 else s.freeSpans i
    let t := { t with manifest := erase i t.manifest }
    let t := (t.updServing e.svc fun k => { k with held := k.held.filter (· != i) }).putRecord e st
    let t := (t.1.raiseOutcome st).noteFaulted e st
    let t := if st = stSeqCut then t.countCut e else t
    let t := t.turnCounts e (st == stSeqStopped || st == stSeqLimit || st == stSeqCancelled) (st == stSeqCut)
    let t := e.cancels.foldl (fun (t : State) r =>
      t.finish r { status := if st = stSeqStopped || st = stSeqLimit then stNotFound else stSuccess }) t
    match e.run with
    | some r => t.runEnded e.svc r st
    | none => t.report ⟨e.queue, e.tag, e.fn, st, i, s.stepEpoch e.svc, e.request, e.generated⟩

/-- A service's step is over: a parked service rests, and the PARK commands are answered (R522). -/
def State.stepOver (s : State) (n : Nat) : State :=
  match lookup n s.serving with
  | none => s
  | some k =>
    (s.updServing n fun k => { k with step := none, parked := k.parked || !k.parking.isEmpty, parking := [] }).answerParking k.parking

/-- Every entry of a service that satisfies a test ends. -/
def State.endWhere (s : State) (n st : Nat) (p : Entry → Bool) : State :=
  (s.entriesOf n).foldl (fun (t : State) e => if p e.2 then t.endEntry e.1 st else t) s

/-- What a step boundary ends: cancels and cuts, entries of a DAMAGED set or adapter; a DAMAGED draft set ends speculation
(R327, R360, R454, R455, R458). -/
def State.boundary (s : State) (n : Nat) : State :=
  match lookup n s.serving with
  | none => s
  | some k =>
    let damagedSet := fun w => match lookup w s.sets with | some x => x.state == 3 | none => false
    let damagedAdapter := fun a => match lookup a s.adapters with | some x => x.state == 4 | none => false
    let t := (s.entriesOf n).foldl (fun (t : State) e =>
      if damagedSet e.2.set || (match e.2.adapter with | some a => damagedAdapter a | none => false) then
        t.endEntry e.1 stWeightsDamaged
      else match e.2.ending with | some st => t.endEntry e.1 st | none => t) s
    if (match k.draftSet with | some w => damagedSet w | none => false) then
      (t.entriesOf n).foldl (fun (t : State) e => t.updEntry e.1 fun e => { e with draftLen := 0 }) t
    else t

/-- Cuts every entry of a service: held ones at once, the others at the next step boundary (R455, R459). -/
def State.cutEntries (s : State) (n : Nat) (p : Entry → Bool) : State :=
  (s.entriesOf n).foldl (fun (t : State) e =>
    let t := if p e.2 then
        t.recordDecision e.2.queue (leBytes 1 3 ++ leBytes 1 n ++ leBytes 2 e.1 ++ leBytes 4 0 ++ leBytes 8 e.2.request)
      else t
    if !p e.2 then t
    else if e.2.state = 1 then t.endEntry e.1 stSeqCut
    else t.updEntry e.1 fun e => { e with ending := some (e.ending.getD stSeqCut) }) s

/-! ## SERVE_OPEN (R427-R429) -/

def State.serveOpenFails (s : State) (c : Cmd) : List (Option Refuse) :=
  let set := fun (w off : Nat) =>
    match lookup w s.sets with
    | some k => if k.state ≠ 2 then refuseIf true stOutOfRange off else refuseIf (!k.access.testBit c.berth) stBerthOwnership
    | none => refuseIf true stOutOfRange off
  let draft := c.param 34 1 ≠ 0xFF
  [ set (c.param 33 1) 33
  , if draft then set (c.param 34 1) 34 else none
  , refuseRange (s.rangeOf c (c.param 64 8) 96 false) 64
  , refuseIf (!(s.regionOf (c.param 64 8) == .basin || s.regionOf (c.param 64 8) == .stack)) stOutOfRange 64
  , if draft then refuseRange (s.rangeOf c (c.param 72 8) 96 false) 72 else none
  , refuseIf (s.regionOf (c.param 80 8) != .stack) stOutOfRange 80
  , refuseIf (s.regionOf (c.param 96 8) != .stack) stOutOfRange 96
  , refuseIf (lookup (c.param 32 1) s.serving).isSome stResourceInUse ]

/-- The index a bad descriptor reports: 0 for a header field, else the entry's. -/
def State.modelFails (s : State) (a kvFmt setBytes : Nat) : Option Nat :=
  let m := s.readModel a
  if headerFails (s.bytesAt a 64) m kvFmt then some 0 else m.badTensor setBytes

def State.setBytes (s : State) (w : Nat) : Nat := match lookup w s.sets with | some k => k.bytes | none => 0

/-- The service that a SERVE_OPEN describes, before its commit. -/
def State.newServing (s : State) (c : Cmd) : Serving :=
  let m := s.readModel (c.param 64 8)
  let d := if c.param 34 1 = 0xFF then none else some (s.readModel (c.param 72 8))
  let bytes := fun (x : Model) => pageBytes x.kvHeads x.headDim (c.param 35 1)
  { opened := false, closing := none, berth := c.berth, fn := c.fn, queue := c.queue, set := c.param 33 1,
    draftSet := if c.param 34 1 = 0xFF then none else some (c.param 34 1), kvFmt := c.param 35 1, stepMax := c.param 36 2,
    prefillTokens := if c.param 38 2 = 0 then 65536 else c.param 38 2, weights := (List.range 4).map fun i => c.param (40 + i) 1,
    holdDepth := c.param 44 2, alwaysMixed := bitOf (c.param 46 1) 0, maxSeq := c.param 48 4, maxContext := c.param 52 4,
    seed := c.param 56 8, model := m, draft := d, kvBase := c.param 80 8, kvPages := c.param 88 4,
    stride := pageStride (max (bytes m) (match d with | some x => bytes x | none => 0)), spans := c.param 92 4,
    spanAddr := c.param 96 8, recBytes := spanBytes (m.layers + match d with | some x => x.layers | none => 0), mixed := true,
    stepNo := 0, step := none, lastPrefill := false, held := [], runs := [], admitted := 0, usedPages := [], usedSpans := [],
    parked := false, stopClasses := 0, turning := false, frozen := false, share := 1, round := 0, parking := [] }

/-- The descriptors whole, with as many entries as they give, must lie where the berth may read (R427). -/
def State.descFails (s : State) (c : Cmd) (draft : Bool) : Option Refuse :=
  let one := fun off => refuseRange (s.rangeOf c (c.param off 8) (64 + 32 * s.natAt (c.param off 8 + 28) 4) false) off
  theRefusal [one 64, if draft then one 72 else none]

/-- So must the page pool and the span records, to be written. -/
def State.poolFails (s : State) (c : Cmd) (k : Serving) : List (Option Refuse) :=
  [ refuseRange (s.rangeOf c k.kvBase (k.kvPages * k.stride) true) 80, refuseRange (s.rangeOf c k.spanAddr (k.spans * k.recBytes) true) 96 ]

/-- SERVE_OPEN: both descriptors are read and checked, and the service commit waits. -/
def State.serveOpen (s : State) (c : Cmd) : State :=
  let a := c.param 64 8
  let b := c.param 72 8
  let draft := c.param 34 1 ≠ 0xFF
  let desc := fun x => [(x, 64 + 32 * s.natAt (x + 28) 4)]
  match theRefusal (s.serveOpenFails c) with
  | some r => s.refuse c r.status r.detail
  | none =>
    let reads := desc a ++ (if draft then desc b else [])
    match s.rangesStatus reads with
    | some st => (s.noteRanges 5 reads).finish c.ref { status := st }
    | none =>
      if let some r := s.descFails c draft then s.refuse c r.status r.detail else
      let k := s.newServing c
      match s.modelFails a k.kvFmt (s.setBytes k.set) with
      | some i => s.finish c.ref { status := stOutOfRange, result1 := i }
      | none =>
        match (if draft then s.modelFails b k.kvFmt (s.setBytes (c.param 34 1)) else none) with
        | some i => s.finish c.ref { status := stOutOfRange, result1 := i }
        | none =>
          if (match k.draft with | some m => m.vocab != k.model.vocab | none => false) then
            s.finish c.ref { status := stOutOfRange }
          else
            match theRefusal (s.poolFails c k) with
            | some r => s.refuse c r.status r.detail
            | none =>
              let t := { s with serving := insert (c.param 32 1) k s.serving }
              (t.running c.ref).awaitCommit (.serveOpen c.ref (c.param 32 1))

def execServeOpen (c : CmdRef) (hv : HostView) (s : State) : Host.Outcome State Fault Refusal :=
  runs (fun s => (s.sees hv).start 0x6000 c fun k s => s.serveOpen k) s

/-- The opening commit: counters restart, the service is OPEN. -/
def State.atServeOpen (s : State) (r : CmdRef) (n : Nat) : State :=
  let t := s.serviceCommit.updServing n fun k => { k with opened := true }
  let t := (List.range 13).foldl (fun (t : State) i => t.setNat (serveCounter n (4 * i)) 0) t
  t.finish r { result0 := n, result1 := t.spine.epoch.toNat }

/-! ## Admission (R432-R434) -/

/-- What ADMIT and a run's sequences ask for, as an entry not yet placed. -/
def Cmd.admitEntry (c : Cmd) : Entry :=
  { state := 1, wait := 0, svc := c.param 32 1, set := 0, cls := c.param 33 1, account := c.param 34 1, draftLen := c.param 62 1,
    rejectRun := 0, aflags := c.param 35 1, sequence := c.param 36 4, setVersion := 0, adapter := c.aims, adapterName := c.param 40 4,
    adapterVersion := 0, length := 0, promptLen := c.param 44 4, fed := 0, last := 0, generated := 0, maxNew := c.param 48 4,
    spans := [], invTemp := c.param 52 4, topP := c.param 56 4, topK := c.param 60 2, stop0 := c.param 64 4, stop1 := c.param 68 4,
    promptAddr := c.param 72 8, recordAddr := c.param 80 8, request := c.param 88 8, lastStep := 0, admitOrder := 0, tag := c.tag,
    queue := c.queue, fn := c.fn, run := none, accepted := 0, ending := none, cancels := [], failures := 0, berth := c.berth }

/-- The adapter slot that an ADMIT found LIVE at its acceptance (R356). -/
def State.aimedAdapter (s : State) (c : Cmd) : Option (Nat × Adapter) := c.aims.bind fun a => (lookup a s.adapters).map fun x => (a, x)

/-- Rows 1 to 4 of Table 16-8 for a service, an account and an adapter NAME (0: none). -/
def State.admitFails (s : State) (c : Cmd) (n cls account name : Nat) : Option Nat :=
  let dmg := fun w => match lookup w s.sets with | some k => k.state == 3 | none => false
  match lookup n s.serving with
  | none => some stOutOfRange
  | some k =>
    if !k.opened then some stOutOfRange
    else if k.berth ≠ c.berth || !s.accountOk c.epoch account c.berth then some stBerthOwnership
    else
      let live := if name = 0 then none else s.aimedAdapter c
      if dmg k.set || (match k.draftSet with | some w => dmg w | none => false)
          || (match live with | some (_, a) => a.state == 4 | none => false) then some stWeightsDamaged
      else if s.panel.hold || k.closing.isSome || k.stopClasses.testBit cls
          || (match lookup k.set s.sets with | some w => w.state == 4 | none => true)
          || (name ≠ 0 && (match live with
              | some (_, a) => !a.access.testBit c.berth || (!a.shared && a.berth != c.berth) || a.baseSet != k.set
              | none => true)) then some stRefusedPolicy
      else if s.balance account < (field (s.lkWord c.epoch (budgetBase account + 8)) 30 0 : Int) then some stRefusedBudget
      else none

/-- The judgements of ADMIT's own ranges: the prompt and the record. -/
def State.admitRanges (s : State) (c : Cmd) (prompt promptLen rec maxNew : Nat) (offP offR : Nat) : List (Option Refuse) :=
  [ match placeOf prompt with | .device a => refuseRange (s.rangeOf c a (4 * promptLen) false) offP | _ => none
  , match placeOf rec with | .device a => refuseRange (s.rangeOf c a (128 + 8 * maxNew) true) offR | _ => none ]

/-- The class queue of a service, by manifest index. -/
def State.classQueue (s : State) (n cls : Nat) : List Nat :=
  match lookup n s.serving with
  | some k => k.held.filter fun i => match lookup i s.manifest with | some e => e.cls == cls | none => false
  | none => []

/-- Places an entry, pinned, HELD or PREFILL with the spans of positions 0 to PROMPT_LEN. -/
def State.placeEntry (s : State) (n : Nat) (k : Serving) (e : Entry) (hold : Bool) : State × Nat :=
  let i := (lowestFree (s.manifest.map Prod.fst) 16384 1).headD 0
  let live := e.adapter.bind fun a => (lookup a s.adapters).map fun x => (a, x)
  let version := match lookup k.set s.sets with | some w => w.version | none => 0
  let e := { e with
    state := if hold then 1 else 2, set := k.set, setVersion := version,
    adapterVersion := match live with | some (_, a) => a.version | none => 0, admitOrder := k.admitted }
  let used := fun (users : Nat) => users ||| 2 ^ k.berth
  let t := ({ s with manifest := insert i e s.manifest }).updSet k.set fun w => { w with users := used w.users }
  let t := match live with | some (a, _) => t.updAdapter a fun x => { x with users := used x.users } | none => t
  let t := t.updServing n fun k => { k with admitted := k.admitted + 1, held := if hold then k.held ++ [i] else k.held }
  if hold then (t, i) else (((t.coverTo n i (spansFor e.promptLen)).putRecord e 0).1, i)

/-- A length that passes MAX_CONTEXT of the service that is open in the berth: a field out of range (row 1 of Table 16-8). -/
def State.tooLong (s : State) (c : Cmd) (n len : Nat) : Bool :=
  match lookup n s.serving with | some k => k.opened && k.berth == c.berth && decide (k.maxContext < len) | none => false

/-- ADMIT: the first outcome of Table 16-8 whose condition holds. -/
def State.admitSequence (s : State) (c : Cmd) : State :=
  let n := c.param 32 1
  match theRefusal (s.admitRanges c (c.param 72 8) (c.param 44 4) (c.param 80 8) (c.param 48 4) 72 80) with
  | some r => s.refuse c r.status r.detail
  | none =>
    if s.tooLong c n (c.param 44 4 + c.param 48 4) then s.refuse c stOutOfRange 48 else
    match s.admitFails c n (c.param 33 1) (c.param 34 1) (c.param 40 4), lookup n s.serving with
    | some st, _ => if classOf st = 8 then (s.raise evServe 2).finish c.ref { status := st }
        else if classOf st = 1 then s.refuse c st 32 else s.finish c.ref { status := st }
    | none, none => s
    | none, some k =>
      let q := s.classQueue n (c.param 33 1)
      let fits := q.isEmpty && !k.turning && k.fits (spansFor (c.param 44 4))
      if 16384 ≤ s.manifest.length || k.maxSeq ≤ (s.entriesOf n).length
          || (!fits && (k.holdDepth ≤ q.length || bitOf (c.param 35 1) 0)) then
        (s.raise evServe 2).finish c.ref { status := stRefusedCapacity }
      else
        let t := (s.placeEntry n k c.admitEntry (!fits)).1
        let t := t.recordDecision k.queue (leBytes 1 1 ++ leBytes 1 n ++ leBytes 2 0 ++ leBytes 4 (bit fits) ++ leBytes 8 (c.param 88 8))
        if fits then t.finish c.ref { status := stAdmitted }
        else t.finish c.ref { status := stHeld, result1 := q.length + 1 }

def execAdmitSequence (c : CmdRef) (hv : HostView) (s : State) : Host.Outcome State Fault Refusal :=
  runs (fun s => (s.sees hv).start 0x6002 c fun k s => s.admitSequence k) s

/-- A held request is released to PREFILL and reports ADMITTED (R435). -/
def State.releaseHeld (s : State) (n i : Nat) : State :=
  match lookup i s.manifest with
  | none => s
  | some e =>
    let t := (s.updServing n fun k => { k with held := k.held.filter (· != i) }).updEntry i fun e => { e with state := 2 }
    let t := ((t.coverTo n i (spansFor e.promptLen)).putRecord e 0).1
    let t := t.recordDecision e.queue (leBytes 1 2 ++ leBytes 1 n ++ leBytes 2 i ++ leBytes 4 0 ++ leBytes 8 e.request)
    t.report ⟨e.queue, e.tag, e.fn, stAdmitted, i, s.stepEpoch n, e.request, 0⟩

/-- Releases up to w of a class, in queue order, while the head fits: the count released. -/
def State.releaseClass (s : State) (n cls : Nat) : Nat → State × Nat
  | 0 => (s, 0)
  | w + 1 =>
    match s.classQueue n cls, lookup n s.serving with
    | i :: _, some k =>
      match lookup i s.manifest with
      | some e =>
        if k.fits (spansFor e.promptLen) then
          let r := (s.releaseHeld n i).releaseClass n cls w
          (r.1, r.2 + 1)
        else (s, 0)
      | none => (s, 0)
    | _, _ => (s, 0)

/-! ## Rollout runs (R461, R462) -/

/-- The entry of sequence x of a run, given its prompt table entry. -/
def runEntry (n : Nat) (k : Serving) (r : Run) (x promptAddr promptLen : Nat) : Entry :=
  { state := 2, wait := 0, svc := n, set := 0, cls := 0, account := r.account, draftLen := r.draftMax, rejectRun := 0,
    aflags := r.aflags, sequence := (r.baseSeq + x) % 2 ^ 32, setVersion := 0, adapter := none, adapterName := 0,
    adapterVersion := 0, length := 0, promptLen := promptLen, fed := 0, last := 0, generated := 0, maxNew := r.maxNew, spans := [],
    invTemp := r.invTemp, topP := r.topP, topK := r.topK, stop0 := r.stop0, stop1 := r.stop1, promptAddr := promptAddr,
    recordAddr := r.recordBase + x * r.recordStride, request := r.run * 2 ^ 32 + x, lastStep := 0, admitOrder := 0, tag := r.tag,
    queue := 0xFF, fn := r.fn, run := some r.run, accepted := 0, ending := none, cancels := [], failures := 0, berth := k.berth }

/-- Admits backlog sequences in ascending x while their pages and the account's balance allow it, by fuel. A prompt table that
cannot be read, or a prompt that passes MAX_CONTEXT, ends its sequence. -/
def State.admitBacklog (s : State) (n : Nat) : Nat → State
  | 0 => s
  | fuel + 1 =>
    match lookup n s.serving with
    | none => s
    | some k =>
      match k.runs.find? fun r => decide (r.next < r.prompts * r.samples) with
      | none => s
      | some r =>
        let x := r.next
        let e := s.readPlace (placeOf r.table) (16 * (x / max 1 r.samples)) 16
        let len := fieldAt e.1 8 4
        let bumped := s.updServing n fun k =>
          { k with runs := updateFirst (fun y => y.run == r.run) (fun y => { y with next := y.next + 1 }) k.runs }
        if e.2.isSome then (bumped.runEnded n r.run stHostAccess).admitBacklog n fuel
        else if len = 0 || k.maxContext < len + r.maxNew then (bumped.runEnded n r.run stSeqCancelled).admitBacklog n fuel
        else if !(s.classQueue n 0).isEmpty || !k.fits (spansFor len) || 16384 ≤ s.manifest.length || k.maxSeq ≤ (s.entriesOf n).length
            || s.balance r.account < (field (s.regNat (budgetBase r.account + 8)) 30 0 : Int) then s
        else (bumped.placeEntry n k (runEntry n k r x (fieldAt e.1 0 8) len) false).1.admitBacklog n fuel

/-- ROLLOUT. -/
def State.rollout (s : State) (c : Cmd) : State :=
  let n := c.param 32 1
  let ranges := [match placeOf (c.param 72 8) with | .device a => refuseRange (s.rangeOf c a (16 * c.param 36 4) false) 72 | _ => none]
    ++ (match placeOf (c.param 80 8) with
        | .device a => [refuseRange (s.rangeOf c a (c.param 36 4 * c.param 35 1 * c.param 88 8) true) 80]
        | _ => [])
  match theRefusal ranges with
  | some r => s.refuse c r.status r.detail
  | none =>
    if s.tooLong c n (c.param 40 4) then s.refuse c stOutOfRange 40 else
    match s.admitFails c n 0 (c.param 33 1) 0, lookup n s.serving with
    | some st, _ => if classOf st = 1 then s.refuse c st 32 else s.finish c.ref { status := st }
    | none, none => s
    | none, some k =>
      if 16384 ≤ s.manifest.length || k.maxSeq ≤ (s.entriesOf n).length then s.finish c.ref { status := stRefusedCapacity }
      else if 4 ≤ k.runs.length then s.finish c.ref { status := stNoResource }
      else
        let r : Run :=
          { run := c.param 60 4, account := c.param 33 1, aflags := c.param 34 1, samples := c.param 35 1, prompts := c.param 36 4,
            maxNew := c.param 40 4, invTemp := c.param 44 4, topP := c.param 48 4, topK := c.param 52 2, draftMax := c.param 54 1,
            baseSeq := c.param 56 4, stop0 := c.param 64 4, stop1 := c.param 68 4, table := c.param 72 8, recordBase := c.param 80 8,
            recordStride := c.param 88 8, next := 0, ended := 0, other := 0, queue := c.queue, tag := c.tag, fn := c.fn }
        (s.updServing n fun k => { k with runs := k.runs ++ [r] }).finish c.ref {}

def execRollout (c : CmdRef) (hv : HostView) (s : State) : Host.Outcome State Fault Refusal :=
  runs (fun s => (s.sees hv).start 0x6003 c fun k s => s.rollout k) s

/-! ## The step builder (R434, R438-R442, R448) -/

/-- Releases held requests in cycles over the four classes until none can release, then backlog in class ROLLOUT; by fuel. -/
def State.releaseAll (s : State) (n : Nat) : Nat → State
  | 0 => s
  | fuel + 1 =>
    match lookup n s.serving with
    | none => s
    | some k =>
      let r := (List.range 4).foldl (fun (acc : State × Nat) c =>
        let x := acc.1.releaseClass n c (k.weights.getD c 1)
        (x.1, acc.2 + x.2)) (s, 0)
      if r.2 = 0 then s else r.1.releaseAll n fuel

/-- WAIT_BUDGET at a build: set while the account's BALANCE is 0 or less. -/
def State.markBudget (s : State) (n : Nat) : State :=
  (s.entriesOf n).foldl (fun (t : State) e =>
    if e.2.state = 1 then t
    else t.updEntry e.1 fun x => { x with wait := putBit x.wait 0 (decide (t.balance x.account ≤ 0)) }) s

/-- The draft length of a DECODE entry (R449). -/
def Serving.draftFor (k : Serving) (e : Entry) : Nat :=
  if k.draft.isNone || bitOf e.aflags 3 then 0
  else min e.draftLen (min (e.maxNew - e.generated - 1) (k.maxContext - e.length - 1))

/-- Whom a kind of step takes: 0 PREFILL, 1 DECODE, 2 PREFILL and REBUILD. -/
def kindTakes (kind : Nat) (e : Entry) : Bool :=
  if kind = 0 then e.state == 2 else if kind = 1 then e.state == 3 else e.state == 2 || e.state == 4

/-- The candidates of a kind and class: smallest LAST_STEP first, then the lowest index. -/
def State.candidates (s : State) (n kind cls : Nat) : List Nat :=
  let es := (s.entriesOf n).filter fun e => e.2.cls == cls && e.2.wait == 0 && e.2.ending.isNone && kindTakes kind e.2
  (es.mergeSort fun a b => decide (a.2.lastStep < b.2.lastStep) || (a.2.lastStep == b.2.lastStep && decide (a.1 ≤ b.1))).map Prod.fst

/-- The order of R442 over the queues of the four classes, by fuel. -/
def takeCycles (weights : List Nat) : Nat → List (List Nat) → Nat → List Nat
  | 0, _, _ => []
  | fuel + 1, qs, slots =>
    if slots = 0 || qs.all List.isEmpty then []
    else
      let r := (weights.zip qs).foldl (fun (acc : List Nat × List (List Nat) × Nat) p =>
        let t := min (min p.1 p.2.length) acc.2.2
        (acc.1 ++ p.2.take t, acc.2.1 ++ [p.2.drop t], acc.2.2 - t)) ([], [], slots)
      r.1 ++ takeCycles weights fuel r.2.1 r.2.2

def State.ordered (s : State) (n kind slots : Nat) : List Nat :=
  match lookup n s.serving with
  | some k => takeCycles k.weights 16384 ((List.range 4).map fun c => s.candidates n kind c) slots
  | none => []

/-- Covers positions up to p for an entry, or marks it WAIT_KV (R445, R448). -/
def State.needPages (s : State) (n i p : Nat) : State × Bool :=
  match lookup n s.serving, lookup i s.manifest with
  | some k, some e =>
    let more := spansFor p - e.spans.length
    if k.fits more then (s.coverTo n i more, true)
    else (s.updEntry i fun e => { e with wait := putBit e.wait 1 true }, false)
  | _, _ => (s, false)

/-- What an entry still has to feed of its prompt, or of its rebuild. -/
def Entry.unfed (e : Entry) : Nat := if e.state = 2 then e.promptLen - e.fed else e.length - 1 - e.fed

/-- Takes entries in order into a step: each its draft length, or a chunk of at most `chunk` of the `tokens` that remain. -/
def State.takeRows (s : State) (n chunk : Nat) : List Nat → Nat → State × List StepRow
  | [], _ => (s, [])
  | i :: is, tokens =>
    match lookup n s.serving, lookup i s.manifest with
    | some k, some e =>
      if e.state = 3 then
        let d := k.draftFor e
        let r := s.needPages n i (e.length - 1 + d)
        let rest := r.1.takeRows n chunk is tokens
        (rest.1, if r.2 then ⟨i, d + 1, d⟩ :: rest.2 else rest.2)
      else
        let f := min (min chunk e.unfed) tokens
        if f = 0 || (chunk = 512 && tokens < min chunk e.unfed) then s.takeRows n chunk is (if chunk = 512 then 0 else tokens)
        else
          let r := s.needPages n i (e.fed + f - 1)
          let rest := r.1.takeRows n chunk is (if r.2 then tokens - f else tokens)
          (rest.1, if r.2 then ⟨i, f, 0⟩ :: rest.2 else rest.2)
    | _, _ => s.takeRows n chunk is tokens

/-- The rows of a step: kind and rows, with the pages they need. In normal mode a kind none of whose candidates has pages leaves the step
to the other (R440, R448). -/
def State.chooseRows (s : State) (n : Nat) (k : Serving) : State × Nat × List StepRow :=
  if k.mixed then
    let a := s.takeRows n 0 (s.ordered n 1 k.stepMax) 0
    let b := a.1.takeRows n 512 (a.1.ordered n 2 (k.stepMax - a.2.length)) k.prefillTokens
    (b.1, 2, a.2 ++ b.2)
  else
    let pre := s.ordered n 0 k.stepMax
    let dec := s.ordered n 1 k.stepMax
    let prefill := fun (t : State) => let r := t.takeRows n 65537 pre k.prefillTokens; (r.1, 0, r.2)
    let decode := fun (t : State) => let r := t.takeRows n 0 dec 0; (r.1, 1, r.2)
    if !pre.isEmpty && (dec.isEmpty || !k.lastPrefill) then
      let r := prefill s
      if r.2.2.isEmpty && !dec.isEmpty then decode r.1 else r
    else
      let r := decode s
      if r.2.2.isEmpty && !pre.isEmpty then prefill r.1 else r

/-- The DECODE or REBUILD entry with the highest ADMIT_ORDER (R448). -/
def State.evictee (s : State) (n : Nat) : Option Nat :=
  ((s.entriesOf n).foldl (fun (best : Option (Nat × Nat)) e =>
    if e.2.state = 3 || e.2.state = 4 then
      match best with
      | some b => if b.2 < e.2.admitOrder then some (e.1, e.2.admitOrder) else some b
      | none => some (e.1, e.2.admitOrder)
    else best) none).map Prod.fst

/-- Chooses rows, evicting while every candidate waits for pages; by fuel. -/
def State.chooseStep (s : State) (n : Nat) (k : Serving) : Nat → State × Nat × List StepRow
  | 0 => (s, 0, [])
  | fuel + 1 =>
    let t := (s.entriesOf n).foldl (fun (t : State) e => t.updEntry e.1 fun x => { x with wait := putBit x.wait 1 false }) s
    let r := t.chooseRows n k
    if !r.2.2.isEmpty then r
    else if (r.1.entriesOf n).any fun e => e.2.wait.testBit 1 then
      match r.1.evictee n with
      | some i =>
        ((r.1.recordDecision k.queue (leBytes 1 4 ++ leBytes 1 n ++ leBytes 2 i ++ leBytes 12 0)).endEntry i stSeqEvicted).chooseStep n k fuel
      | none => r
    else r

/-- Mixed mode at a step boundary (R441). -/
def State.mixedNow (s : State) (n : Nat) (k : Serving) : Bool :=
  let es := s.entriesOf n
  let rebuild := es.any fun e => e.2.state == 4
  k.alwaysMixed || rebuild || (k.mixed && es.any fun e => e.2.state == 2)

/-- What a service's steps use: the pavés and engines of its berth, its pool and its span records (R142, R312). -/
def State.serviceNeeds (s : State) (k : Serving) : List Need :=
  s.berthUnits 0 k.berth ++ [.range k.kvBase (k.kvPages * k.stride), .range k.spanAddr (k.spans * k.recBytes)]

/-- Is a repair open of something that the service's steps read (R326)? -/
def State.repairHolds (s : State) (n : Nat) (k : Serving) : Bool :=
  s.repairs.any fun r =>
    if r.adapter then (s.entriesOf n).any fun e => e.2.adapter == some r.slot
    else r.slot == k.set || k.draftSet == some r.slot || (s.entriesOf n).any fun e => e.2.set == r.slot

/-- WAIT of an entry: WAIT_REPAIR stands while a repair of something it uses is open (R326, R458). -/
def State.waitOf (s : State) (e : Entry) : Nat :=
  let draft := (lookup e.svc s.serving).bind fun k => k.draftSet
  putBit e.wait 2 (s.repairs.any fun r => if r.adapter then e.adapter == some r.slot else e.set == r.slot || draft == some r.slot)

/-- Does a service hold, a quiesce, a pre-emption, a repair or something that a step needs keep a service from building a step (R88, R142,
R312, R458, R521, R553)? -/
def State.stepsHeld (s : State) (n : Nat) (k : Serving) : Bool :=
  s.panel.hold || s.power.quiesced || s.power.quiescedBerths.testBit k.berth || k.parked || k.frozen || s.repairHolds n k
    || (s.serviceNeeds k).any (s.withheldFrom s.spine.epoch.toNat k.berth)

/-- A closing service with nothing left waits for its closing commit. -/
def State.closeIfDone (s : State) (n : Nat) : State :=
  match lookup n s.serving with
  | some k =>
    if k.opened && k.closing.isSome && k.step.isNone && k.again.isNone && k.runs.isEmpty && (s.entriesOf n).isEmpty
        && !(s.commits.any fun w => w.owner == .serveClose n) then s.awaitCommit (.serveClose n) else s
  | none => s

/-- What a step is chosen from: held entries released, backlogs admitted, budgets marked, and the mode of the step. -/
def State.stepReady (s : State) (n : Nat) (k : Serving) : State :=
  let s := if k.turning then s else s.releaseAll n 16384
  let s := if k.turning || k.stopClasses.testBit 0 then s else s.admitBacklog n 16384
  let s := s.markBudget n
  let m := s.mixedNow n k
  s.updServing n fun k => { k with mixed := m }

/-- The step that bad data interrupted starts again with the entries that are still there (R324, R326): a record, and no new number. -/
def State.stepAgain (s : State) (n : Nat) (b : BatchStep) : State :=
  let rows := b.rows.filter fun r => match lookup r.entry s.manifest with | some e => e.svc == n && decide (2 ≤ e.state) | none => false
  let t := s.updServing n fun k =>
    { k with again := none, step := if rows.isEmpty then none else some { b with epoch := s.spine.epoch.toNat, rows := rows } }
  if rows.isEmpty then t else t.logEvent { cause := 0x0601, cls := 1, unit := 0x71, detail := n }

/-- STEP_BUILD: the builder releases held requests and backlog, and builds the next step from the candidates. A step to be run again comes
first. -/
def State.stepBuild (s : State) (n : Nat) : State :=
  match lookup n s.serving with
  | none => s
  | some k =>
    if !k.opened || k.step.isSome then s
    else
      let s := (s.boundary n).closeIfDone n
      if s.stepsHeld n k then s
      else if let some b := k.again then (if s.power.state = .idle then s.wake else s.stepAgain n b)
      else
        let s := s.stepReady n k
        match lookup n s.serving with
        | none => s
        | some k =>
          let r := s.chooseStep n k 16384
          if r.2.2.isEmpty then r.1
          else if s.power.state = .idle then s.wake
          else
            let rows := r.2.2.flatMap fun x => leBytes 4 x.entry ++ leBytes 4 x.feed ++ leBytes 4 x.draft
            ((r.1.recordDecision k.queue (leBytes 1 0 ++ leBytes 1 n ++ leBytes 2 r.2.1 ++ leBytes 4 (k.stepNo + 1) ++ rows)).dropRegions
              (bitsBelow 8 (s.berthPaves 0 k.berth))).updServing n fun k =>
              { k with
                stepNo := k.stepNo + 1, tries := 0, lastPrefill := r.2.1 == 0,
                step := some ⟨k.stepNo + 1, s.spine.epoch.toNat, r.2.1, r.2.2⟩ }

/-! ## Batch steps (R430, R449-R452, R457) -/

/-- Token i of a sequence: of its prompt, or of its record; with the status of the read. -/
def State.tokenAt (s : State) (e : Entry) (i : Nat) : Nat × Option Nat :=
  let r := if i < e.promptLen then s.readPlace (placeOf e.promptAddr) (4 * i) 4
    else s.readPlace (placeOf e.recordAddr) (128 + 4 * (i - e.promptLen)) 4
  (fieldAt r.1 0 4, r.2)

/-- What the policy, and the draft, read for an entry. -/
def State.policyReader (s : State) (k : Serving) (e : Entry) : Reader :=
  { model := k.model, base := match lookup e.set s.sets with | some w => w.base | none => 0,
    adapter := match e.adapter with | some a => lookup a s.adapters | none => none }

def State.draftReader (s : State) (k : Serving) : Option Reader :=
  match k.draft, k.draftSet with
  | some m, some w => if (lookup w s.sets).any fun x => x.state == 3 then none else some { model := m, base := match lookup w s.sets with | some x => x.base | none => 0, adapter := none }
  | _, _ => none

/-- Does the draft take part in an entry's rows? -/
def State.drafts (s : State) (k : Serving) (e : Entry) : Bool := (s.draftReader k).isSome && e.draftLen != 0 && !bitOf e.aflags 3

/-- Feeds one token to the policy, and to the draft where the entry speculates. -/
def State.feedBoth (s : State) (k : Serving) (e : Entry) (p token : Nat) : State × List Fp :=
  let r := s.feed (s.policyReader k e) (k.pool k.model) e.spans 0 p token
  match s.draftReader k with
  | some d =>
    if e.draftLen = 0 || bitOf e.aflags 3 then r
    else ((r.1.feed d (k.pool d.model) e.spans k.model.layers p token).1, r.2)
  | none => r

/-- Samples the token of a position from a row of logits (R451): the token and the FP32 pattern of its log-probability. -/
def sampleAt (k : Serving) (e : Entry) (p : Nat) (logits : List Fp) : Nat × Nat :=
  let d : Draw := ⟨ofF32 e.invTemp, e.topP, e.topK, bitOf e.aflags 1, bitOf e.aflags 2⟩
  match drawToken d logits (uniform k.seed e.sequence p 0) with
  | some (t, l) => (t, toF32 l)
  | none => (0xFFFFFFFF, 0x7FC00000)

/-- The draft's proposals for positions p, p + 1, …: each is fed in turn. -/
def State.propose (s : State) (k : Serving) (e : Entry) (d : Reader) : Nat → Nat → Nat → State × List Nat
  | 0, _, _ => (s, [])
  | n + 1, p, token =>
    let r := s.feed d (k.pool d.model) e.spans k.model.layers (p - 1) token
    let t := (sampleAt k e p r.2).1
    let rest := r.1.propose k e d n (p + 1) t
    (rest.1, t :: rest.2)

/-- The policy's draws for positions p, p + 1, … while it feeds the given tokens. -/
def State.verify (s : State) (k : Serving) (e : Entry) : List Nat → Nat → State × List (Nat × Nat)
  | [], _ => (s, [])
  | token :: ts, p =>
    let r := s.feed (s.policyReader k e) (k.pool k.model) e.spans 0 (p - 1) token
    let x := sampleAt k e p r.2
    let rest := r.1.verify k e ts (p + 1)
    (rest.1, x :: rest.2)

/-- The leading proposals that equal the draws. -/
def agreeing : List Nat → List Nat → Nat
  | d :: ds, t :: ts => if d = t then agreeing ds ts + 1 else 0
  | _, _ => 0

/-- The tokens emitted up to the first stop token. -/
def upToStop (e : Entry) : List (Nat × Nat) → List (Nat × Nat)
  | [] => []
  | t :: ts =>
    if (e.stop0 ≠ 0xFFFFFFFF && t.1 = e.stop0) || (e.stop1 ≠ 0xFFFFFFFF && t.1 = e.stop1) then [t] else t :: upToStop e ts

def stopsAt (e : Entry) (t : Nat) : Bool :=
  (e.stop0 != 0xFFFFFFFF && t == e.stop0) || (e.stop1 != 0xFFFFFFFF && t == e.stop1)

/-- Emits tokens for an entry: the record first, then the entry's counts, the debit and the end by stop or limit. -/
def State.emitTokens (s : State) (n i : Nat) (out : List (Nat × Nat)) : State :=
  match lookup i s.manifest with
  | none => s
  | some e =>
    let r := s.putTokens e out
    let t := (r.1.updEntry i fun e =>
      { e with generated := e.generated + out.length, last := (out.getLast?.getD (0, 0)).1 }).debit e.account (4 * out.length)
    let t := t.add64 (serveCounter n 8) out.length
    if r.2 = some stHostAccess then t.endEntry i stHostAccess
    else if out.any fun x => stopsAt e x.1 then t.endEntry i stSeqStopped
    else if e.maxNew ≤ e.generated + out.length then t.endEntry i stSeqLimit
    else t

/-- One DECODE entry of a step. -/
def State.decodeRow (s : State) (n i draftK : Nat) (k : Serving) (e : Entry) : State :=
  let l := e.length
  let p := match s.draftReader k with
    | some d => if draftK = 0 then (s, []) else s.propose k e d (draftK + 1) l e.last
    | none => (s, [])
  let proposals := p.2.take draftK
  let v := p.1.verify k e (e.last :: proposals) l
  let j := agreeing proposals (v.2.map Prod.fst)
  let out := upToStop e (v.2.take (j + 1))
  let full := draftK ≥ 1 && j == 0
  let halve := full && decide (4 ≤ e.rejectRun + 1)
  let t := v.1.updEntry i fun e =>
    { e with
      length := l + j + 1, fed := l + j, accepted := e.accepted + j, lastStep := k.stepNo,
      rejectRun := if draftK = 0 then e.rejectRun else if !full || halve then 0 else e.rejectRun + 1,
      draftLen := if halve then e.draftLen / 2 else e.draftLen }
  let t := (t.add64 (serveCounter n 0x18) draftK).add64 (serveCounter n 0x20) j
  t.emitTokens n i out

/-- Feeds tokens fed, fed + 1, … of a sequence: the state, the logits of the last, and what stopped it. -/
def State.feedTokens (s : State) (k : Serving) (e : Entry) : Nat → Nat → List Fp → State × List Fp × Option Nat
  | 0, _, y => (s, y, none)
  | n + 1, p, _ =>
    let t := s.tokenAt e p
    match t.2 with
    | some st => (s, [], some st)
    | none =>
      let r := s.feedBoth k e p t.1
      r.1.feedTokens k e n (p + 1) r.2

/-- One PREFILL or REBUILD entry of a step. -/
def State.prefillRow (s : State) (n i f : Nat) (k : Serving) (e : Entry) : State :=
  let s := match placeOf e.promptAddr with
    | .host a => if e.fed < e.promptLen then
        s.recordHostRead e.queue (a + 4 * e.fed) (s.hostRead (a + 4 * e.fed) (4 * min f (e.promptLen - e.fed))) else s
    | _ => s
  let r := s.feedTokens k e f e.fed []
  match r.2.2 with
  | some st => r.1.endEntry i (if e.state = 2 && st = stHostAccess then stHostAccess else stSeqKvLost)
  | none =>
    let fed := e.fed + f
    if e.state = 4 then
      r.1.updEntry i fun e => { e with fed := fed, lastStep := k.stepNo, state := if fed + 1 = e.length then 3 else 4 }
    else
      let t := (r.1.debit e.account (fed - max e.fed e.length)).add64 (serveCounter n 0x10) f
      if fed < e.promptLen then t.updEntry i fun e => { e with fed := fed, length := max fed e.length, lastStep := k.stepNo }
      else
        let t := t.updEntry i fun e => { e with fed := fed, length := fed + 1, lastStep := k.stepNo, state := 3 }
        t.emitTokens n i [sampleAt k e fed r.2.1]

/-- The KV of positions of an entry, in the policy's layers and, where the draft takes part, in its layers. -/
def Serving.kvAt (k : Serving) (drafts : Bool) (e : Entry) (ps : List Nat) : List (Nat × Nat) :=
  ps.flatMap fun p =>
    (List.range k.model.layers).flatMap (fun l =>
      (k.pool k.model).slotRanges (match e.spans[p / 128]? with | some x => x.pages.getD l 0 | none => 0) (p % 128))
    ++ (match drafts, k.draft with
        | true, some m => (List.range m.layers).flatMap fun l =>
            (k.pool m).slotRanges (match e.spans[p / 128]? with | some x => x.pages.getD (k.model.layers + l) 0 | none => 0) (p % 128)
        | _, _ => [])

/-- The KV of earlier steps that an entry's step reads. -/
def Serving.kvReads (k : Serving) (drafts : Bool) (e : Entry) : List (Nat × Nat) := k.kvAt drafts e (List.range e.fed)

/-- A step that fails on KV of an earlier step: the sequence feeds itself again (R457). -/
def State.rebuild (s : State) (n i : Nat) : State :=
  ((s.freeSpans i).updEntry i fun e => { e with state := 4, fed := 0 }).updServing n fun k => { k with mixed := true }

/-- One row of a step. -/
def State.stepRow (s : State) (n : Nat) (r : StepRow) : State :=
  match lookup n s.serving, lookup r.entry s.manifest with
  | some k, some e =>
    let kv := k.kvReads (s.drafts k e) e
    match s.rangesStatus kv with
    | some _ =>
      let t := s.noteRanges 0 kv
      if e.state = 4 then
        if 2 ≤ e.failures then t.endEntry r.entry stSeqKvLost
        else (t.updEntry r.entry fun e => { e with failures := e.failures + 1 }).rebuild n r.entry
      else if e.state = 3 then t.rebuild n r.entry
      else (t.freeSpans r.entry).updEntry r.entry fun e => { e with fed := 0 }
    | none =>
      if e.state = 3 then s.decodeRow n r.entry (if (s.draftReader k).isSome then r.draft else 0) k e
      else s.prefillRow n r.entry r.feed k e
  | _, _ => s

/-- What a step's products read of the policy and draft sets and of the adapters. -/
def State.stepReads (s : State) (k : Serving) (b : BatchStep) : List (Nat × Nat) :=
  let readers := ((b.rows.filterMap fun r => lookup r.entry s.manifest).map fun e => (e.set, e.adapter)).dedup
  (readers.flatMap fun x =>
    (({ model := k.model, base := match lookup x.1 s.sets with | some w => w.base | none => 0, adapter := none } : Reader).ranges)
      ++ match x.2.bind fun a => lookup a s.adapters with | some a => [(a.base, a.bytes)] | none => [])
    ++ match s.draftReader k with | some d => d.ranges | none => []

/-- A step stops on bad data and is to be run again: it ends here, and its boundary passes (R324, R326). -/
def State.interrupt (s : State) (n : Nat) (b : BatchStep) (tries : Nat) : State :=
  (((s.updServing n fun k => { k with again := some b, tries := tries }).stepOver n).boundary n).closeIfDone n

/-- The rows of a step whose set and adapter are not DAMAGED; the boundary ends the others (R327, R360). -/
def State.soundRows (s : State) (b : BatchStep) : List StepRow :=
  b.rows.filter fun r =>
    match lookup r.entry s.manifest with
    | none => false
    | some e =>
      !((lookup e.set s.sets).any fun w => w.state == 3)
        && !((e.adapter.bind fun a => lookup a s.adapters).any fun a => a.state == 4)

/-- The rows whose new KV of this step cannot be read back: `s` is the state before the step, `t` after. -/
def State.badOutputs (t s : State) (n : Nat) (rows : List StepRow) : List StepRow :=
  rows.filter fun r =>
    match lookup n s.serving, lookup r.entry s.manifest, lookup r.entry t.manifest with
    | some k, some e, some x =>
      (t.rangesStatus (k.kvAt (s.drafts k e) x ((List.range x.fed).drop e.fed))).isSome
    | _, _, _ => false

/-- The rows of a step are computed, recorded and debited. One whose new KV is bad makes the step run again, at most twice, and then ends
its sequence (R324, R457). -/
def State.stepRun (s : State) (n : Nat) (k : Serving) (b : BatchStep) : State :=
  let rows := s.soundRows b
  let t := rows.foldl (fun (t : State) r => t.stepRow n r) s
  let bad := t.badOutputs s n rows
  let counted := fun (t : State) => t.add64 (serveCounter n 0) 1
  if !bad.isEmpty && decide (k.tries < 2) then
    let u := { s with mem := t.mem, draws := t.draws }
    (if k.tries = 0 then u else counted u).interrupt n b (k.tries + 1)
  else
    let t := bad.foldl (fun (t : State) r => t.endEntry r.entry stSeqKvLost) t
    let t := counted t
    let t := if b.kind = 2 then t.sat32 (serveCounter n 0x30) 1 else t
    ((t.stepOver n).boundary n).closeIfDone n

/-- SERVE_STEP_COMPLETE: the step's rows are computed, recorded and debited. A step that meets an error in a set or an adapter ends, and
is run again after the repair (R326, R458). -/
def State.stepComplete (s : State) (n : Nat) : State :=
  match lookup n s.serving with
  | none => s
  | some k =>
    match k.step with
    | none => s
    | some b =>
      if !s.beating then s
      else
        let s := ({ s with power := { s.power with idleSince := s.now } }).actFor b.epoch k.berth
        let reads := s.stepReads k { b with rows := s.soundRows b }
        match s.rangesStatus reads with
        | some _ => (s.noteRanges 0 reads).interrupt n b k.tries
        | none => s.stepRun n k b

def execServeStepComplete (svc now : Nat) (hv : HostView) (s : State) : Host.Outcome State Fault Refusal :=
  runs (fun s => ((s.at now).sees hv).stepComplete svc) s

/-! ## SEQ_CANCEL and SERVE_CLOSE (R454, R459) -/

def State.seqCancel (s : State) (c : Cmd) : State :=
  let n := c.param 32 1
  match lookup n s.serving with
  | none => s.refuse c stOutOfRange 32
  | some k =>
    if !k.opened then s.refuse c stOutOfRange 32
    else if k.berth ≠ c.berth then s.refuse c stBerthOwnership
    else
      match (s.entriesOf n).find? fun e => e.2.request == c.param 40 8 with
      | none => s.finish c.ref { status := stNotFound }
      | some (i, e) =>
        if e.state = 1 then (s.endEntry i stSeqCancelled).finish c.ref {}
        else
          let t := (s.running c.ref).updEntry i fun e =>
            { e with ending := some (e.ending.getD stSeqCancelled), cancels := e.cancels ++ [c.ref] }
          if k.step.isSome then t else t.boundary n

def execSeqCancel (c : CmdRef) (hv : HostView) (s : State) : Host.Outcome State Fault Refusal :=
  runs (fun s => (s.sees hv).start 0x6004 c fun k s => s.seqCancel k) s

/-- Backlog sequences of a cut close end at once, with the status given: each run reports. -/
def State.dropBacklog (s : State) (n : Nat) (st : Nat := stSeqCut) : State :=
  match lookup n s.serving with
  | none => s
  | some k =>
    k.runs.foldl (fun (t : State) r =>
      let left := r.prompts * r.samples - r.next
      let t := t.updServing n fun k =>
        { k with runs := updateFirst (fun x => x.run == r.run) (fun x => { x with next := x.prompts * x.samples }) k.runs }
      (List.range left).foldl (fun (t : State) _ => t.runEnded n r.run st) t) s

def State.serveClose (s : State) (c : Cmd) : State :=
  let n := c.param 32 1
  match lookup n s.serving with
  | none => s.refuse c stOutOfRange 32
  | some k =>
    if !k.opened then s.refuse c stOutOfRange 32
    else if k.berth ≠ c.berth then s.refuse c stBerthOwnership
    else if k.closing.isSome then s.finish c.ref { status := stResourceInUse }
    else
      let t := (s.running c.ref).updServing n fun k => { k with closing := some (c.ref, c.param 33 1, 0) }
      let t := if c.param 33 1 = 1 then (t.dropBacklog n).cutEntries n fun _ => true else t
      (if k.step.isSome then t else t.boundary n).closeIfDone n

def execServeClose (c : CmdRef) (hv : HostView) (s : State) : Host.Outcome State Fault Refusal :=
  runs (fun s => (s.sees hv).start 0x6001 c fun k s => s.serveClose k) s

/-- The closing commit: the service is gone and its pins with it. -/
def State.atServeClose (s : State) (n : Nat) : State :=
  match lookup n s.serving with
  | none => s
  | some k =>
    let t := s.serviceCommit
    let t := { t with serving := erase n t.serving }
    match k.closing with
    | some (r, _, cut) => t.finish r { result0 := cut }
    | none => t

/-! ## MANIFEST_VIEW (R463) -/

/-- An entry in the layout of Table 16-5; a FREE one reads as zeros. -/
def State.entryBytes (s : State) (i : Nat) : List Byte :=
  match lookup i s.manifest with
  | none => zeros 128
  | some e =>
    let pos := match (s.classQueue e.svc e.cls).findIdx? (· == i) with | some p => p + 1 | none => 0
    leBytes 1 e.state ++ leBytes 1 (s.waitOf e) ++ leBytes 1 e.svc ++ leBytes 1 e.cls ++ leBytes 1 e.account ++ leBytes 1 e.draftLen
    ++ leBytes 1 e.rejectRun ++ leBytes 1 e.aflags ++ leBytes 4 e.sequence ++ leBytes 4 e.setVersion
    ++ leBytes 2 (e.adapter.getD 0xFFFF) ++ zeros 2 ++ leBytes 4 e.adapterVersion ++ leBytes 4 e.length ++ leBytes 4 e.promptLen
    ++ leBytes 4 e.fed ++ leBytes 4 e.generated ++ leBytes 4 e.maxNew
    ++ leBytes 4 (match e.spans.head? with | some p => p.record | none => 0xFFFFFFFF)
    ++ leBytes 4 (match e.spans.getLast? with | some p => p.record | none => 0xFFFFFFFF) ++ leBytes 4 e.invTemp
    ++ leBytes 4 e.topP ++ leBytes 2 e.topK ++ leBytes 2 pos ++ leBytes 4 e.stop0 ++ leBytes 4 e.stop1 ++ leBytes 8 e.promptAddr
    ++ leBytes 8 e.recordAddr ++ leBytes 8 e.request ++ leBytes 4 e.lastStep ++ leBytes 4 e.admitOrder ++ leBytes 4 e.tag
    ++ leBytes 1 e.queue ++ zeros 19

def execManifestViewRead (s : State) : Host.Outcome State Fault Refusal :=
  runsHost (fun s =>
    let bs := s.entryBytes (field (s.regNat (blkManifest + 0x50)) 13 0)
    let ws := (List.range 32).map fun i => BitVec.ofNat 32 (fieldAt bs (4 * i) 4)
    ({ s with manifestView := ws }).emit (.readData (fieldAt bs 0 4))) s

end Sys2Proof.Machine
end

