-- ==== Sys2Proof/Machine/Training.lean ====
section
/-! DEFINITION. The training step (chapter 17) and what the update adds to it (R492, R497, R509, R510). The forward and backward
values of a layer, which the spec gives in words only or which come from other members' shards, are free values
(notes/assumptions/21.md); what is computed from them (the loss head, QUANT, the chains, the update) is as the spec gives it. -/

namespace Sys2Proof.Machine

open Sys2Proof

def stTrainSkipped : Nat := 0x8111
def stTrainFailed : Nat := 0x8112
def stTrainBatch : Nat := 0x8113
def stTrainVersion : Nat := 0x8114
def stTrainClosed : Nat := 0x8115

/-! ## Parameters (Table 17-1) -/

def Cmd.dataGroup (c : Cmd) : Nat := c.param 33 1
def Cmd.pipeGroup (c : Cmd) : Option Nat := if c.param 34 1 = 0xFF then none else some (c.param 34 1)
def Cmd.microRows (c : Cmd) : Nat := c.param 36 4
def Cmd.steps (c : Cmd) : Nat := c.param 40 4
def Cmd.seqBase (c : Cmd) : Nat := c.param 48 4
def Cmd.poundDepth (c : Cmd) : Nat := c.param 56 1
def Cmd.lead (c : Cmd) : Nat := c.param 57 1
def Cmd.advBaseline (c : Cmd) : Bool := (c.param 35 1).testBit 1
def Cmd.stashBf16 (c : Cmd) : Bool := (c.param 35 1).testBit 0

/-- The axes of the data group and of the pipeline, n, the member, P and the stage p. -/
def State.dataAxis (s : State) (c : Cmd) : Nat := s.groupAxis c.epoch c.dataGroup
def State.pipeAxis (s : State) (c : Cmd) : Nat := match c.pipeGroup with | some g => s.groupAxis c.epoch g | none => 0
def State.dataSize (s : State) (c : Cmd) : Nat := max 1 (s.ringLength (s.dataAxis c))
def State.dataMember (s : State) (c : Cmd) : Nat := s.coord (s.dataAxis c)
def State.stages (s : State) (c : Cmd) : Nat := match c.pipeGroup with | some _ => max 1 (s.ringLength (s.pipeAxis c)) | none => 1
def State.stage (s : State) (c : Cmd) : Nat := match c.pipeGroup with | some _ => s.coord (s.pipeAxis c) | none => 0

/-- STEP tag of step i. -/
def Train.tag (t : Train) (i : Nat) : Nat := (t.cmd.param 44 4 + i) % 2 ^ 32

def trainReg (n off : Nat) : Nat := blkKeeper + 0x3000 + 64 * n + off

/-! ## Stage plans (Tables 17-3 to 17-5, R468) -/

def readPlanTensor (e : List Byte) : PlanTensor :=
  { layer := fieldAt e 0 2, code := fieldAt e 2 2, fmt := fieldAt e 4 1, cfmt := fieldAt e 5 1, part := fieldAt e 6 1, k := fieldAt e 8 4,
    n := fieldAt e 12 4, shard := fieldAt e 16 8, feedback := fieldAt e 24 8, block0 := fieldAt e 32 4 }

def State.readPlan (s : State) (a : Nat) : Plan :=
  let h := s.bytesAt a 96
  { firstLayer := fieldAt h 0 2, layers := fieldAt h 2 2, embed := (fieldAt h 9 1).testBit 0, head := (fieldAt h 9 1).testBit 1,
    model := s.readModel (fieldAt h 16 8),
    parts := (List.range (fieldAt h 8 1)).map fun i =>
      ⟨fieldAt h (32 + 16 * i) 4, fieldAt h (36 + 16 * i) 2, fieldAt h (40 + 16 * i) 8⟩,
    tensors := (List.range (fieldAt h 4 4)).map fun i => readPlanTensor (s.bytesAt (a + 96 + 48 * i) 48) }

/-- The tensors a stage needs: layer and code. -/
def Plan.needs (p : Plan) : List (Nat × Nat) :=
  (if p.embed then [(0xFFFF, 0)] else []) ++ (if p.head then [(0xFFFF, 1), (0xFFFF, 2)] else [])
    ++ p.model.needs.filterMap fun k => if k.1 = 0xFFFF then none else some k

/-- The model's layers counted from the stage's first. -/
def Plan.withLayers (p : Plan) : Plan :=
  { p with model := { p.model with layers := p.firstLayer + p.layers } }

def Plan.needed (p : Plan) : List (Nat × Nat) := (p.withLayers.needs).filter fun k => k.1 == 0xFFFF || decide (p.firstLayer ≤ k.1)

/-- GT blocks of a tensor's gradient. -/
def PlanTensor.blocks (t : PlanTensor) : Nat := (t.k * t.n + 63) / 64

def Plan.part (p : Plan) (i : Nat) : PlanPart := p.parts.getD i ⟨0, 0, 0⟩

/-- Is entry i of a plan bad, given those before it? -/
def Plan.entryFails (p : Plan) (members i : Nat) : Bool :=
  match p.tensors[i]? with
  | none => false
  | some t =>
    let before := p.tensors.take i
    let x := p.part t.part
    !p.needed.contains (t.layer, t.code)
      || (before.any fun u => u.layer == t.layer && u.code == t.code)
      || !tensorFormat t.fmt || (t.cfmt != t.fmt && t.cfmt != 0x02)
      || (t.part != 0xFF && decide (p.parts.length ≤ t.part))
      || (t.layer == 0xFFFF && t.code == 0 && t.part != 0xFF)
      || t.k * t.n % (32 * members) != 0
      || (t.part != 0xFF && (decide (members * x.blocks < t.block0 + t.blocks)
          || before.any fun u => u.part == t.part && overlaps t.block0 t.blocks u.block0 u.blocks))

/-- The index of the first thing wrong with a plan: 0 for its header, the number of entries for a tensor that is missing. -/
def Plan.fails (p : Plan) (head : List Byte) (members stage stages : Nat) : Option Nat :=
  let n := p.tensors.length
  if p.layers = 0 || 1024 < p.layers || n = 0 || 65536 < n || p.parts.isEmpty || 4 < p.parts.length || fieldAt head 9 1 / 4 ≠ 0
      || p.embed != (stage == 0) || p.head != (stage + 1 == stages) then some 0
  else
    match (List.range n).find? (p.entryFails members) with
    | some i => some i
    | none => if p.needed.all fun k => p.tensors.any fun t => t.layer == k.1 && t.code == k.2 then none else some n

/-! ## Stash, working range and pounds (R474, R480) -/

/-- Forward values and output gradients of one row of one layer (R480). -/
def Model.stashValues (m : Model) : Nat × Nat :=
  let kv := m.kvHeads * m.headDim
  let e := m.topExperts
  if m.experts = 0 then (4 * m.hidden + m.ffn, 3 * m.hidden + 2 * kv + 2 * m.ffn)
  else (4 * m.hidden + e * m.ffn, 2 * m.hidden + 2 * kv + m.experts + e * (m.hidden + 2 * m.ffn))

/-- The stash that a step of so many micro-batches needs. -/
def State.stashBytes (s : State) (c : Cmd) (p : Plan) (micros : Nat) : Nat :=
  let v := p.model.stashValues
  let row := if c.stashBf16 then 2 * v.1 else v.1 + (v.1 + 31) / 32
  c.microRows * p.layers * (min micros (s.stages c - s.stage c + c.lead) * row + micros * (2 * v.2))

def State.stashNeeds (s : State) (c : Cmd) (p : Plan) : Nat := s.stashBytes c p 4096

def Plan.workNeeds (p : Plan) : Nat :=
  p.tensors.foldl (fun a t => max a (elemsBytes t.cfmt (t.k * t.n) + if isMx t.cfmt then t.k * t.n / 32 else 0)) 0

/-- Bytes of a pound entry. -/
def Plan.entryBytes (p : Plan) (rows : Nat) : Nat := 64 + rows * p.model.hidden * 4

/-- The first place for n bytes at or above a basin offset, in scratchpad segments of a berth: there, or at the start of a later
segment of it; by fuel over the 48 segments. -/
def State.poundPlace (s : State) (e b n : Nat) : Nat → Nat → Option Nat
  | 0, _ => none
  | fuel + 1, off =>
    if basinBytes < off + n then none
    else if s.scratchpadOf e off n b then some off
    else s.poundPlace e b n fuel (off / 0x01000000 * 0x01000000 + 0x01000000)

/-- Places a number of pound entries, in ascending basin offset. -/
def State.placePounds (s : State) (e b n : Nat) : Nat → Nat → Option (List Nat)
  | 0, _ => some []
  | k + 1, off =>
    match s.poundPlace e b n 49 off with
    | none => none
    | some a => (s.placePounds e b n k ((a + n + 63) / 64 * 64)).map fun l => (basinBase + a) :: l

def State.poundsOf (s : State) (c : Cmd) (p : Plan) : Option (List Nat) :=
  if c.pipeGroup.isNone then some []
  else if c.param 104 8 < basinBase then none
  else s.placePounds c.epoch c.berth (p.entryBytes c.microRows) (2 * c.poundDepth) (c.param 104 8 - basinBase)

/-! ## TRAIN_STEP (R464-R466, Table 17-2) -/

/-- Does HISTORY name a slot that only a service advances, with FORMAT GT8? -/
def State.trainHistoryFails (s : State) (c : Cmd) : Option Refuse :=
  let h := c.param 62 2
  if h = 0 || !(s.lkWord c.epoch (histBase h)).testBit 27 then some { status := stOutOfRange, detail := 62 }
  else refuseRange (s.histFails c h 0x18) 62

def State.trainFails (s : State) (c : Cmd) : List (Option Refuse) :=
  let pipe := match c.pipeGroup with | some g => (List.range 4).map (g + ·) | none => []
  let groups := c.dataGroup :: pipe
  [ refuseIf (!s.groupEnabled c.epoch c.dataGroup) stOutOfRange 33
  , refuseIf (pipe.any fun g => !s.groupEnabled c.epoch g || s.groupAxis c.epoch g ≠ s.pipeAxis c) stOutOfRange 34
  , refuseIf (!pipe.isEmpty && s.pipeAxis c = s.dataAxis c) stOutOfRange 34
  , refuseIf (groups.any fun g => s.groupEnabled c.epoch g && s.groupBerth c.epoch g ≠ c.berth) stBerthOwnership
  , refuseIf (groups.any fun g => c.seqBase ≤ (s.group g).lastSeq) stOutOfRange 48
  , refuseIf (2 ^ 32 < c.seqBase + 65536 * c.steps) stOutOfRange 48
  , refuseIf (!s.assayAllowed c (c.param 60 2)) stBerthOwnership
  , s.trainHistoryFails c
  , refuseRange (s.rangeOf c (c.param 72 8) 96 false) 72
  , refuseRange (s.rangeOf c (c.param 80 8) (8 * c.steps) false) 80
  , refuseIf (s.regionOf (c.param 88 8) != .stack) stOutOfRange 88
  , refuseRange (s.rangeOf c (c.param 88 8) (c.param 96 8) true) 88
  , refuseIf (s.regionOf (c.param 112 8) != .stack) stOutOfRange 112
  , refuseRange (s.rangeOf c (c.param 112 8) (c.param 120 8) true) 112
  , refuseIf (lookup (c.param 32 1) s.trains).isSome stResourceInUse ]

/-- The contexts of a plan's parts: enabled, of the berth, of one valid lane that no other open service uses (R490-R492). -/
def State.planLaneFails (s : State) (c : Cmd) (p : Plan) : Option Refuse :=
  let lane := s.ctxLane c.epoch (p.part 0).update
  (List.range p.parts.length).findSome? fun i =>
    let x := (p.part i).update
    if !(1 ≤ x && x ≤ 16) || !s.ctxEnabled c.epoch x || s.ctxLane c.epoch x ≠ lane || s.laneInService lane || !s.laneValid lane
        || s.ctxBlocks c.epoch x ≠ (p.part i).blocks then
      some { status := stOutOfRange, result1 := i }
    else if s.ctxBerth c.epoch x ≠ c.berth then some { status := stBerthOwnership }
    else none

/-- Slot j of a tensor's narrow shard and of its feedback term (R497). -/
def State.narrowAt (s : State) (c : Cmd) (p : Plan) (t : PlanTensor) (j : Nat) : Nat :=
  t.shard + j * s.narrowOffset c.epoch (p.part t.part).update
def State.feedbackAt (s : State) (c : Cmd) (p : Plan) (t : PlanTensor) (j : Nat) : Nat :=
  t.feedback + j * s.feedbackOffset c.epoch (p.part t.part).update

/-- The ranges of a plan that the service writes: shards, feedback terms and contributions. -/
def State.planRanges (s : State) (c : Cmd) (p : Plan) : List (Nat × Nat) :=
  let n := s.dataSize c
  (p.tensors.flatMap fun t =>
    if t.part = 0xFF then arrayRanges t.fmt t.shard 1 (t.k * t.n / n)
    else [0, 1].flatMap fun j => arrayRanges t.fmt (s.narrowAt c p t j) 1 (t.k * t.n / n) ++ [(s.feedbackAt c p t j, 2 * t.k * t.n)])
  ++ p.parts.map fun x => (x.contrib, 68 * n * x.blocks)

/-- State ranges and staging areas of a plan's contexts (R492). -/
def State.contextRanges (s : State) (c : Cmd) (p : Plan) : List (Nat × Nat) :=
  p.parts.flatMap fun x => [s.stateRange c.epoch x.update, s.ctxStage c.epoch x.update]

def State.newTrain (s : State) (c : Cmd) (p : Plan) (pounds : List Nat) : Train :=
  { cmd := c, plan := p, opened := false, stopped := none, closing := none, ended := false, version := c.param 52 4, index := 0, last := 0,
    phase := .idle, pass := 0, attempt := 0, micros := [], records := [], tokenNorm := 0, order := [], forwards := 0, backwards := 0,
    fwd := [], bwd := [], tags := [], invalid := [], again := none, op := none, fwdPosted := 0, bwdPosted := 0, idleAt := 0,
    sendWaits := false, issued := 0, gradDraw := 0, loss := 0, lossRows := 0, committed := 0,
    dirty := false, counts := [],
    guards := [(c.param 88 8, c.param 96 8), (c.param 112 8, c.param 120 8)] ++ pounds.map (fun a => (a, p.entryBytes c.microRows))
      ++ s.planRanges c p ++ s.contextRanges c p,
    pounds := pounds, parked := false, share := 1, round := 0, parking := [] }

/-- What TRAIN_STEP reads: its plan whole, and the header of the model that the plan names (R466). -/
def State.planReads (s : State) (c : Cmd) : List (Nat × Nat) :=
  let a := c.param 72 8
  [(a, 96), (a + 96, 48 * s.natAt (a + 4) 4), (s.natAt (a + 16) 8, 64)]

/-- TRAIN_STEP: checked, the plan read once, the service commit waits. -/
def State.trainStep (s : State) (c : Cmd) : State :=
  let a := c.param 72 8
  match theRefusal (s.trainFails c ++ [s.rangesFail c (s.planReads c) false 72]) with
  | some r => s.refuse c r.status r.detail
  | none =>
    match s.rangesStatus (s.planReads c) with
    | some st => (s.noteRanges 5 (s.planReads c)).finish c.ref { status := st }
    | none =>
      let p := s.readPlan a
      match p.fails (s.bytesAt a 96) (s.dataSize c) (s.stage c) (s.stages c) with
      | some i => s.finish c.ref { status := stOutOfRange, result1 := i }
      | none =>
        match s.planLaneFails c p, (s.planRanges c p).findSome? fun r => s.rangeOf c r.1 r.2 true { reach := true } with
        | some r, _ => s.finish c.ref { status := r.status, result1 := r.result1 }
        | none, some st => s.finish c.ref { status := st }
        | none, none =>
          match s.poundsOf c p with
          | none => s.finish c.ref { status := stNoResource }
          | some pounds =>
            if c.param 96 8 < s.stashNeeds c p || c.param 120 8 < p.workNeeds then s.finish c.ref { status := stNoResource }
            else
              let t := { s with trains := insert (c.param 32 1) (s.newTrain c p pounds) s.trains }
              (t.running c.ref).awaitCommit (.trainOpen c.ref (c.param 32 1))

def execTrainStep (c : CmdRef) (hv : HostView) (s : State) : Host.Outcome State Fault Refusal :=
  runs (fun s => (s.sees hv).start 0x7000 c fun k s => s.trainStep k) s

def State.updTrain (s : State) (n : Nat) (f : Train → Train) : State :=
  match lookup n s.trains with
  | some t => { s with trains := insert n (f t) s.trains }
  | none => s

/-- The master of element i of an owned shard in slot j (R494). -/
def State.masterAt (s : State) (e x i j : Nat) : Fp :=
  let a := s.blockAddr e x (i / 64) j
  ofF32 (s.natAt (a + 2 * (i % 64)) 2 * 65536 + s.natAt (a + 128 + 2 * (i % 64)) 2)

/-- Where the elements of owned block i of a part go in the member's narrow shards, slot j: the runs of each tensor (R497). -/
def State.narrowPlaces (s : State) (c : Cmd) (p : Plan) (part i j : Nat) : List NarrowPlace :=
  let n := s.dataSize c
  let m := s.dataMember c
  let b := m * (p.part part).blocks + i
  p.tensors.filterMap fun t =>
    if t.part ≠ part || b < t.block0 || t.block0 + t.blocks ≤ b then none
    else
      let total := t.k * t.n / n
      let lo := 64 * (b - t.block0)
      let from_ := max lo (m * total)
      let upto := min (min (lo + 64) (t.k * t.n)) ((m + 1) * total)
      if upto ≤ from_ then none
      else some ⟨t.fmt, s.narrowAt c p t j, total, from_ - m * total, from_ - lo, upto - from_⟩

/-- The live narrow slots are written again from the live masters of a context that is NARROW_STALE (R514). -/
def State.refreshNarrow (s : State) (c : Cmd) (p : Plan) : State :=
  (List.range p.parts.length).foldl (fun (t : State) part =>
    let x := (p.part part).update
    if !t.narrowStale x then t
    else
      let j := t.liveSlotOf (t.ctxLane c.epoch x)
      let one := fun (t : State) (i : Nat) =>
        let ys := (List.range 64).map fun k => t.masterAt c.epoch x (64 * i + k) j
        (t.narrowPlaces c p part i j).foldl (fun (t : State) pl => (t.putNarrow pl ys).1) t
      ((List.range (p.part part).blocks).foldl one t).setCtxBit x 30 false) s

/-- The opening commit (R466). -/
def State.atTrainOpen (s : State) (r : CmdRef) (n : Nat) : State :=
  match lookup n s.trains with
  | none => s
  | some k =>
    let t := s.serviceCommit.updTrain n fun k => { k with opened := true }
    let t := (List.range 16).foldl (fun (t : State) i => t.setNat (trainReg n (4 * i)) 0) t
    let t := (t.setNat (trainReg n 4) k.version).refreshNarrow k.cmd k.plan
    t.finish r { result1 := t.spine.epoch.toNat }

/-! ## Reports and endings (R488, R489) -/

def State.trainReport (s : State) (k : Train) (st detail r0 r1 : Nat) : State :=
  s.report { queue := k.cmd.queue, tag := k.cmd.tag, fn := k.cmd.fn, status := st, detail := detail % 65536,
             epoch := k.cmd.epoch, result0 := r0, result1 := r1 }

/-- The step's report: the loss and its rows, the STEP tag. -/
def State.stepReport (s : State) (n : Nat) (st : Nat) : State :=
  match lookup n s.trains with
  | none => s
  | some k =>
    let t := (s.trainReport k st k.index (k.loss + k.lossRows * 2 ^ 32) (k.tag k.index)).setNat (trainReg n 0xC) k.loss
    let t := t.updTrain n fun k => { k with last := st }
    if st = stSuccess then t else t.trainTurnFails n st

/-- The collectives that a service issued are dropped; those still open fail, which announces them to the peers. -/
def State.dropTrainColls (s : State) (n : Nat) : State :=
  let t := (s.colls.filter fun k => k.owner == .train n && k.ended.isNone).foldl (fun (t : State) k => t.failColl k stAborted) s
  { t with colls := t.colls.filter fun k => k.owner != CollOwner.train n }

/-- A step is over: the next tag, and a parked service rests. -/
def State.endStep (s : State) (n : Nat) : State :=
  match lookup n s.trains with
  | none => s
  | some k =>
    let t := s.dropTrainColls n
    let t := t.updTrain n fun k =>
      { k with phase := .idle, index := k.index + 1, pass := 0, attempt := 0, micros := [], records := [], order := [], forwards := 0,
               backwards := 0, fwd := [], bwd := [], tags := [], invalid := [], again := none, op := none, fwdPosted := 0, bwdPosted := 0,
               sendWaits := false, dirty := false, counts := [],
               parked := k.parked || !k.parking.isEmpty || s.turnParks n, parking := [] }
    let t := t.answerParking k.parking
    let last := k.cmd.steps ≤ k.index + 1
    if k.ended then t
    else if last || k.closing.isSome then
      (t.updTrain n fun k => { k with ended := true }).awaitCommit (.trainClose n)
    else t

/-- A service stops (R470, R483, R487): the step's report and the final one carry the status. -/
def State.stopTrain (s : State) (n st : Nat) : State :=
  match lookup n s.trains with
  | none => s
  | some k =>
    let t := (s.stepReport n st).dropTrainColls n
    let t := (t.updTrain n fun k =>
      { k with stopped := some st, last := st, phase := .idle, parked := k.parked || !k.parking.isEmpty, parking := [] }).answerParking k.parking
    let t := (t.trainReport k st 0 k.committed 0).raise evTrain 4
    if k.closing.isSome then (t.updTrain n fun k => { k with ended := true }).awaitCommit (.trainClose n) else t

/-- The closing commit: retained and protected ranges are released, and the service is gone (R489). -/
def State.atTrainClose (s : State) (n : Nat) : State :=
  match lookup n s.trains with
  | none => s
  | some k =>
    let t := (s.serviceCommit.releaseRetained k.cmd.dataGroup none).dropTrainColls n
    let t := { t with trains := erase n t.trains }
    let t := if k.stopped.isNone then t.trainReport k stSuccess 0 k.committed 0 else t
    let t := t.answerParking k.parking
    match k.closing with
    | some (r, _) => t.finish r { result0 := k.committed }
    | none => t

/-! ## Collectives that the service issues (R472, R473) -/

/-- A packet of the service's own: opcode, group, CFLAGS, STEP, SEQ, DEADLINE and the opcode's fields. -/
def serviceCmd (k : Train) (n op group cflags step seq : Nat) (fields : List (Nat × Nat × Nat)) : Cmd :=
  let p := leBytes 2 op ++ zeros 126
  let common := [(32, 1, group), (33, 1, cflags), (34, 2, k.cmd.param 68 2), (36, 4, step), (40, 4, seq)]
  { k.cmd with queue := 0x100 + n, tag := seq, opcode := op,
               packet := (common ++ fields).foldl (fun p f => putField p f.1 f.2.1 f.2.2) p }

/-- The ports that a service's collective needs are down (Table 14-11): both of its axis, or that of its direction. -/
def State.collDown (s : State) (c : Cmd) : Option Refuse :=
  if c.opcode = 0x5003 || c.opcode = 0x5004 then s.portsDown c [s.dirPort c] 14
  else if c.opcode = 0x5005 then none
  else s.portsDown c [s.posPort c, s.negPort c] c.vc

/-- The service issues a collective: LAST_SEQ takes its SEQ; one that a peer has already aborted, or whose ports are down, ends at once,
any other runs (R399, R423, Table 14-11). -/
def State.issue (s : State) (o : CollOwner) (c : Cmd) (run : State → State) : State :=
  let t := s.noteAccepted c
  let status := if (t.group c.group).aborts.contains c.collSeq then some stCollPeerFailed
    else (t.collDown c).map fun r => r.status
  match status, (t.openColl c o).collAt c.group c.collSeq with
  | some st, some x => (t.openColl c o).closeColl x st 0 0
  | _, _ => run t

/-- The next data-group SEQ. -/
def Train.nextSeq (k : Train) : Nat := k.cmd.seqBase + k.issued

/-- The pipeline window of the current step. -/
def Train.window (k : Train) : Nat := k.cmd.seqBase + 65536 * k.index

/-- Issues a vote on a group. -/
def State.issueVote (s : State) (n : Nat) (k : Train) (group seq kind round localBit b assay hist : Nat) : State :=
  let c := serviceCmd k n 0x5005 group 0 (k.tag k.index) seq
    [(48, 1, kind), (49, 1, round), (50, 1, localBit), (51, 1, b), (52, 2, assay), (54, 2, hist)]
  s.issue (.train n) c fun t => (t.openColl c (.train n)).castVote c

/-- Takes the result of a service's ended collective of an opcode and SEQ: status and RESULT0. -/
def State.takeResult (s : State) (n op seq : Nat) : Option (Nat × Nat) :=
  (s.colls.find? fun k => k.owner == .train n && k.cmd.opcode == op && k.cmd.collSeq == seq && k.ended.isSome).bind fun k =>
    k.ended.map fun e => (e.1, e.2.1)

/-! ## The loss head (R484) -/

/-- One loss row: its contribution to the loss and the gradient of its logits. -/
def lossRow (z : List Fp) (target : Nat) (pOld a clip tokenNorm : Fp) : Fp × List Fp :=
  let m := rowMax z
  let e := z.map fun x => exp32 (subF x m)
  let sum := tree e
  let lp := subF (subF (z.getD target .nan) m) (log32 sum)
  let r := exp32 (subF lp pOld)
  let hi := addF .one clip
  let lo := subF .one clip
  let u := mulF r a
  let vc : Fp × Fp :=
    if Fp.le .zero a && hi.lt r then (mulF hi a, .zero)
    else if a.lt .zero && r.lt lo then (mulF lo a, .zero)
    else (u, mulF u.neg tokenNorm)
  (mulF vc.1.neg tokenNorm,
    ((List.range z.length).zip e).map fun x =>
      mulF vc.2 (subF (if x.1 = target then .one else .zero) (div32 x.2 sum)))

/-! ## The step table (Table 17-6, R469, R470) -/

/-- A record as the step reads it. -/
structure StepRecord where
  promptLen : Nat
  count : Nat
  endCode : Nat
  aflags : Nat
  reward : Nat
  tokens : List Nat
  deriving DecidableEq, Repr

def State.stepRecord (s : State) (w : Nat) : StepRecord × Option Nat :=
  let h := s.readPlace (placeOf w) 0 128
  let n := fieldAt h.1 28 4
  let t := s.readPlace (placeOf w) 128 (4 * n)
  (⟨fieldAt h.1 24 4, n, fieldAt h.1 36 2, fieldAt h.1 39 1, fieldAt h.1 64 4, (List.range n).map fun i => fieldAt t.1 (4 * i) 4⟩,
    worse h.2 t.2)

/-- Does a record take part (R469)? -/
def StepRecord.takesPart (r : StepRecord) (baseline : Bool) : Bool :=
  [1, 2, 4].contains r.endCode && r.aflags.testBit 2 && decide (1 ≤ r.count) && (!baseline || (ofF32 r.reward).isFinite)

/-- Its advantage. -/
def StepRecord.advantage (r : StepRecord) (adv : Nat) (baseline : Bool) : Fp :=
  if baseline then subF (ofF32 r.reward) (ofF32 adv) else ofF32 adv

def StepRecord.rows (r : StepRecord) : Nat := r.promptLen + r.count - 1

/-- A step table as read. -/
structure StepTable where
  micros : List (Nat × Nat)
  records : List (Nat × Nat)
  tokenNorm : Nat
  bad : Bool
  deriving DecidableEq, Repr

def State.stepTable (s : State) (a : Nat) : StepTable :=
  let m := s.natAt a 4
  let r := s.natAt (a + 4) 4
  let bad := m = 0 || 4096 < m || r = 0 || 1048576 < r || !fp32Positive (s.natAt (a + 8) 4) || s.natAt (a + 12) 4 ≠ 0
    || (s.readStatus a (16 + 8 * m + 16 * r)).isSome
  if bad then ⟨[], [], 0, true⟩
  else
    let micros := (List.range m).map fun i => (s.natAt (a + 16 + 8 * i) 4, s.natAt (a + 20 + 8 * i) 4)
    let e := a + 16 + 8 * m
    let records := (List.range r).map fun i => (s.natAt (e + 16 * i) 8, s.natAt (e + 16 * i + 8) 4)
    let odd := (List.range r).any fun i => s.natAt (e + 16 * i + 12) 4 ≠ 0 || placeOf (s.natAt (e + 16 * i) 8) == .invalid
    ⟨micros, records, s.natAt (a + 8) 4, odd || micros.any fun x => decide (r < x.1 + x.2)⟩

/-- The records of a micro-batch that take part, with their advantages. -/
def State.microRecords (s : State) (k : Train) (t : StepTable) (x : Nat × Nat) : List (StepRecord × Fp) :=
  ((t.records.drop x.1).take x.2).filterMap fun e =>
    let r := (s.stepRecord e.1).1
    if r.takesPart k.cmd.advBaseline then some (r, r.advantage e.2 k.cmd.advBaseline) else none

/-- The loss of a step on its last stage: the tree over the loss rows in micro-batch, record and token order. Logits and old
log-probabilities are free values: the record gives no place for LOGP without the MAX_NEW it was made with. -/
def State.stepLoss (s : State) (k : Train) (t : StepTable) (draw : Nat) : Nat × Nat :=
  let rows := t.micros.flatMap fun x => (s.microRecords k t x).flatMap fun r => r.1.tokens.map fun w => (r.2, w)
  let vocab := k.plan.model.vocab
  let vs := ((List.range rows.length).zip rows).map fun x =>
    (lossRow ((List.range vocab).map fun j => ofF32 (Config.freeWord draw (x.1 * (vocab + 1) + j))) x.2.2
      (ofF32 (Config.freeWord draw (x.1 * (vocab + 1) + vocab))) x.2.1 (ofF32 (k.cmd.param 64 4)) (ofF32 t.tokenNorm)).1
  (if k.plan.head then toF32 (tree vs) else Config.freeWord draw 0 % 2 ^ 32, rows.length)

/-! ## Passes (R475-R483) -/

/-- The bytes of a pound entry: its header, and rows that are free values. -/
def entryBody (k : Train) (micro tag rows draw : Nat) (invalid : Bool) : List Byte :=
  let n := k.plan.entryBytes k.cmd.microRows - 64
  leBytes 4 micro ++ leBytes 4 tag ++ leBytes 4 (bit invalid) ++ leBytes 4 rows ++ zeros 48
    ++ (List.range n).map fun i => Config.layerByte draw i

/-- The body of PASS_END: the number of invalid micro-batches and their indices. -/
def passEndBody (k : Train) (bad : List Nat) : List Byte :=
  let n := k.plan.entryBytes k.cmd.microRows
  slice (leBytes 4 bad.length ++ zeros 60 ++ bad.flatMap (leBytes 4)) 0 n

/-- Sends a pipeline message of the service: group, direction, SEQ, body. A SEND that finds no room for all of its flits waits, and
counts in FULL_WAITS (R475). -/
def State.sendPipe (s : State) (n : Nat) (k : Train) (group dir seq : Nat) (body : List Byte) : State :=
  let c := serviceCmd k n 0x5003 group 0 (k.tag k.index) seq [(48, 1, dir), (64, 8, body.length)]
  let t := s.issue (.train n) c fun u => u.sendRun c (.train n) body []
  match t.collAt group seq with
  | none => t
  | some x =>
    let waits := (t.port (t.dirPort c)).waiting.any fun f => x.sent.contains f.2
    (if waits then t.sat32 (trainReg n 0x38) 1 else t).updTrain n fun k => { k with sendWaits := waits }

/-- The service's ended collectives of an opcode. -/
def State.endedOf (s : State) (n op : Nat) : List Coll :=
  s.colls.filter fun k => k.owner == .train n && k.cmd.opcode == op && k.ended.isSome

/-- A collective of the passes failed: a SEND or RECV, or a GATHER for another cause than a version (R482, R487). -/
def State.pipeFailed (s : State) (n : Nat) : Bool :=
  ((s.endedOf n 0x5003 ++ s.endedOf n 0x5004).any fun k => match k.ended with | some (st, _, _) => st != 0 | none => false)
    || (s.endedOf n 0x5000).any fun k => match k.ended with
        | some (st, _, _) => st != 0 && st != stCollVersion && st != stCollMismatch | none => false

/-- A GATHER of the service met another version (R482). -/
def State.gatherStale (s : State) (n : Nat) : Bool :=
  (s.endedOf n 0x5000).any fun k => match k.ended with | some (st, _, _) => st == stCollVersion || st == stCollMismatch | none => false

/-- A SEND or a GATHER of the service is under way. -/
def State.sending (s : State) (n : Nat) : Bool :=
  s.colls.any fun k => k.owner == .train n && (k.cmd.opcode == 0x5003 || k.cmd.opcode == 0x5000) && k.ended.isNone

/-- SENDs that have completed leave; the time of one that waited counts in POUND_FULL (R475). -/
def State.takeSends (s : State) (n : Nat) : State :=
  (s.endedOf n 0x5003).foldl (fun (t : State) x =>
    let waits := match lookup n t.trains with | some k => k.sendWaits | none => false
    let t := ({ t with colls := t.colls.erase x }).updTrain n fun k => { k with idleAt := x.lastAt, sendWaits := false }
    if waits then t.add64 (trainReg n 0x10) (x.lastAt - x.startedAt) else t) s

/-- The first SEQ of the pass. -/
def Train.passWindow (k : Train) : Nat := k.window + 8192 * k.pass

/-- The groups of R473. -/
def fwdOut (g p : Nat) : Nat := g + p % 2
def fwdIn (g p : Nat) : Nat := g + (p + 1) % 2
def bwdOut (g p : Nat) : Nat := g + 2 + p % 2
def bwdIn (g p : Nat) : Nat := g + 2 + (p + 1) % 2

/-- A micro-batch becomes invalid here: counted once (R482). -/
def State.microInvalid (s : State) (n micro : Nat) (counts : Bool) : State :=
  let t := s.updTrain n fun k => { k with invalid := if k.invalid.contains micro then k.invalid else k.invalid ++ [micro] }
  if counts then (t.sat32 (trainReg n 0x2C) 1).raise evTrain 3 else t

/-- The rows of a micro-batch (R469). -/
def State.microRowCount (s : State) (k : Train) (micro : Nat) : Nat :=
  match k.micros[micro]? with
  | some x => ((s.microRecords k ⟨k.micros, k.records, k.tokenNorm, false⟩ x).map fun r => r.1.rows).sum
  | none => 0

/-- Counts of so many conversions of values that are free (R195): the classes are free, each at most one for an element. -/
def freeCounts (draw total : Nat) : Counts :=
  let sat := Config.freeWord draw 1 % (total + 1)
  let van := Config.freeWord draw 2 % (total - sat + 1)
  { total := total, saturated := sat, vanished := van, nonfinite := Config.freeWord draw 3 % (total - sat - van + 1) }

/-- The conversions of a micro-batch into the stash, so many a row and layer, name the ASSAY slot (R195, R480). -/
def State.stashCounted (s : State) (k : Train) (micro values fmt : Nat) : State :=
  let d := s.draw
  d.2.addAssay (k.cmd.param 60 2) fmt (freeCounts d.1 (s.microRowCount k micro * k.plan.layers * values))

/-- The RECVs that the passes post for a pound: the micro-batches in their order, and PASS_END on the forward one (R472, R475). -/
def State.awaited (s : State) (k : Train) (forward : Bool) : List Nat :=
  if forward then (if s.stage k.cmd = 0 then [] else k.order ++ [4096])
  else if s.stage k.cmd + 1 = s.stages k.cmd then [] else k.order

/-- The RECV of entry i of a pound: it goes into slot i modulo POUND_DEPTH. -/
def State.poundRecv (s : State) (n : Nat) (k : Train) (g : Nat) (forward : Bool) (i off : Nat) : Cmd :=
  let slot := k.pounds.getD ((if forward then 0 else k.cmd.poundDepth) + i % max 1 k.cmd.poundDepth) basinBase
  serviceCmd k n 0x5004 (if forward then fwdIn g (s.stage k.cmd) else bwdIn g (s.stage k.cmd)) 0 (k.tag k.index) (k.passWindow + off)
    [(48, 1, if forward then 1 else 0), (56, 8, slot), (64, 8, k.plan.entryBytes k.cmd.microRows)]

/-- Posts a RECV on each free slot of a pound, by fuel over the slots: a slot is free once the operation that read its entry is
complete. -/
def State.postPound (s : State) (n : Nat) (forward : Bool) : Nat → State
  | 0 => s
  | fuel + 1 =>
    match lookup n s.trains with
    | none => s
    | some k =>
      let i := if forward then k.fwdPosted else k.bwdPosted
      match k.cmd.pipeGroup, (s.awaited k forward)[i]? with
      | some g, some off =>
        if k.cmd.poundDepth + (if forward then k.forwards else k.backwards) ≤ i then s
        else
          let c := s.poundRecv n k g forward i off
          let t := (s.issue (.train n) c fun u => u.openColl c (.train n)).updTrain n fun k =>
            if forward then { k with fwdPosted := i + 1 } else { k with bwdPosted := i + 1 }
          t.postPound n forward fuel
      | _, _ => s

def State.postRecvs (s : State) (n : Nat) : State := (s.postPound n true 4).postPound n false 4

/-- A received entry takes its place in its pound. -/
def State.takeEntry (s : State) (n : Nat) (x : Coll) : State :=
  let a := x.cmd.param 56 8
  let e : PoundEntry := ⟨s.natAt a 4, s.natAt (a + 4) 4, (s.natAt (a + 8) 4).testBit 0, a, x.lastAt⟩
  ({ s with colls := s.colls.erase x }).updTrain n fun k =>
    if x.cmd.param 48 1 = 1 then { k with fwd := k.fwd ++ [e] } else { k with bwd := k.bwd ++ [e] }

/-- The entries received since, but for PASS_END. -/
def State.takeEntries (s : State) (n : Nat) (k : Train) : State :=
  ((s.endedOf n 0x5004).filter fun x => x.cmd.collSeq != k.passWindow + 4096).foldl (fun (t : State) x => t.takeEntry n x) s

/-- The tensors of a stage in the order in which an operation gathers them: a forward the embedding, the layers ascending, then the
head's; a backward the reverse (R477). -/
def Plan.gatherOrder (p : Plan) (forward : Bool) : List PlanTensor :=
  let wide := p.tensors.filter fun t => t.layer == 0xFFFF
  let embed := wide.filter fun t => t.code == 0
  let head := wide.filter fun t => t.code != 0
  let layers := (List.range p.layers).map fun i => p.tensors.filter fun t => t.layer == p.firstLayer + i
  if forward then embed ++ layers.flatten ++ head else head ++ layers.reverse.flatten ++ embed

/-- The GATHER of a tensor into the working range in CFMT, naming the tag (R477, R481). -/
def State.gatherCmd (s : State) (n : Nat) (k : Train) (x : PlanTensor) (tag : Nat) : Cmd :=
  let src := if x.part = 0xFF then x.shard
    else s.narrowAt k.cmd k.plan x (s.liveSlotOf (s.ctxLane k.cmd.epoch (k.plan.part x.part).update))
  serviceCmd k n 0x5000 k.cmd.dataGroup 0 (k.tag k.index) k.nextSeq
    [(48, 1, x.fmt), (49, 1, x.cfmt), (52, 4, tag), (56, 8, x.k * x.n / s.dataSize k.cmd), (64, 8, src), (72, 8, k.cmd.param 112 8)]

/-- The micro-batch that the next operation runs. -/
def Train.micro (k : Train) (forward : Bool) : Nat := k.order.getD (if forward then k.forwards else k.backwards) 0

/-- The pound entry that the next operation reads: none on the first stage of a forward, or the last of a backward. -/
def State.entryOf (s : State) (k : Train) (forward : Bool) : Option PoundEntry :=
  if forward then (if s.stage k.cmd = 0 then none else k.fwd.head?)
  else if s.stage k.cmd + 1 = s.stages k.cmd then none else k.bwd.head?

/-- The stash that the current step uses, from the start of its range. -/
def State.stashRange (s : State) (k : Train) : Nat × Nat := (k.cmd.param 88 8, s.stashBytes k.cmd k.plan k.micros.length)

/-- What an operation reads of the pounds and the stash: its entry, and for a backward the values stashed. -/
def State.opReads (s : State) (k : Train) (forward : Bool) : List (Nat × Nat) :=
  ((s.entryOf k forward).toList.map fun e => (e.slot, k.plan.entryBytes k.cmd.microRows)) ++ if forward then [] else [s.stashRange k]

/-- An operation whose entry is there begins: what it cannot read fails the step, the time it waited counts in POUND_EMPTY, stage 0 tags
its micro-batch with E, and a backward whose E is no longer the tag finds it invalid (R475, R481, R482, R487). -/
def State.beginOp (s : State) (n : Nat) (k : Train) (forward : Bool) : State :=
  let reads := s.opReads k forward
  match s.rangesStatus reads with
  | some _ => (s.noteRanges 5 reads).stopTrain n stTrainFailed
  | none =>
    let micro := k.micro forward
    let e := s.entryOf k forward
    let t := s.add64 (trainReg n 0x18) (match e with | some x => x.at' - k.idleAt | none => 0)
    let came := match e with | some x => x.invalid | none => false
    if forward then
      t.updTrain n fun k =>
        { k with tags := insert micro (match e with | some x => x.tag | none => k.version) k.tags, op := some ⟨true, 0, came, false⟩ }
    else
      let already := came || k.invalid.contains micro
      t.updTrain n fun k => { k with op := some ⟨false, 0, already, !already && k.version != (lookup micro k.tags).getD 0⟩ }

/-- The next GATHER of the operation under way is issued; one that meets a lost live narrow slot makes its context NARROW_STALE (R500). -/
def State.gatherNext (s : State) (n : Nat) (k : Train) (o : PassOp) (x : PlanTensor) : State :=
  let c := s.gatherCmd n k x ((lookup (k.micro o.forward) k.tags).getD 0)
  let t := s.updTrain n fun k => { k with op := some { o with gathers := o.gathers + 1 }, issued := k.issued + 1 }
  let lost := x.part ≠ 0xFF && (s.rangesStatus (arrayRanges x.fmt (c.param 64 8) 1 (c.param 56 8))).isSome
  let t := if lost then t.setCtxBit (k.plan.part x.part).update 30 true else t
  t.issue (.train n) c fun u => u.gatherRun c (.train n) k.version

/-- The operation under way ends: its conversions are counted, its slot is free, and its entry goes on to the next stage; an invalid
micro-batch has no rows (R475, R477, R482). -/
def State.endOp (s : State) (n : Nat) (k : Train) (o : PassOp) : State :=
  let p := s.stage k.cmd
  let micro := k.micro o.forward
  let bad := o.invalid || o.stale
  let t := s.updTrain n fun k =>
    if o.forward then { k with op := none, idleAt := s.now, forwards := k.forwards + 1, fwd := k.fwd.drop 1 }
    else { k with op := none, idleAt := s.now, backwards := k.backwards + 1, bwd := k.bwd.drop 1 }
  let values := k.plan.model.stashValues
  let t := if bad then t.microInvalid n micro o.stale
    else if o.forward then t.stashCounted k micro values.1 (if k.cmd.stashBf16 then 0x02 else 0x06)
    else t.stashCounted k micro values.2 0x02
  let t := match k.cmd.pipeGroup with
    | some g =>
      let d := t.draw
      let body := entryBody k micro ((lookup micro k.tags).getD 0) (if bad then 0 else s.microRowCount k micro) d.1 bad
      if o.forward then
        if p + 1 < s.stages k.cmd then d.2.sendPipe n k (fwdOut g p) 0 (k.passWindow + micro) body else t
      else if 0 < p then d.2.sendPipe n k (bwdOut g p) 1 (k.passWindow + micro) body else t
    | none => t
  (t.takeSends n).postRecvs n

/-- The warm-up forwards (R476). -/
def State.warmUp (s : State) (k : Train) : Nat := min k.order.length (s.stages k.cmd - s.stage k.cmd - 1 + k.cmd.lead)

/-- Goes on with the operations of a pass in their fixed order while nothing is awaited: a SEND or GATHER under way, an entry of the
neighbour's; by fuel. A failed collective ends the step (R475, R476, R487). -/
def State.runPass (s : State) (n : Nat) : Nat → State
  | 0 => s
  | fuel + 1 =>
    match lookup n s.trains with
    | none => s
    | some k =>
      let m := k.order.length
      if k.phase ≠ .pass then s
      else if s.pipeFailed n then s.stopTrain n stTrainFailed
      else if s.sending n then s
      else
        match k.op with
        | some o =>
          let o := { o with stale := o.stale || (!o.invalid && s.gatherStale n) }
          let t : State := { s with colls := s.colls.filter fun x => !(x.owner == .train n && x.cmd.opcode == 0x5000) }
          match (k.plan.gatherOrder o.forward)[o.gathers]? with
          | some x => (t.gatherNext n k o x).runPass n fuel
          | none => (t.endOp n k o).runPass n fuel
        | none =>
          if m ≤ k.backwards then s
          else if k.forwards < m && k.forwards - k.backwards ≤ s.warmUp k then
            if s.stage k.cmd = 0 || !k.fwd.isEmpty then (s.beginOp n k true).runPass n fuel else s
          else if s.stage k.cmd + 1 = s.stages k.cmd || !k.bwd.isEmpty then (s.beginOp n k false).runPass n fuel
          else s

/-- Encodes the contribution of the step (events 3 and 4): gradients are free values, the live feedback term is added, each block
is quantised to GT8 with the slot's scale, the residuals go to the shadow feedback slot; blocks of no tensor are zero. A block whose
live term cannot be read is poison in the contribution and in the shadow slot (R319). -/
def State.formPart (s : State) (k : Train) (part : Nat) : State × Counts × List Fp :=
  let c := k.cmd
  let x := k.plan.part part
  let lane := s.ctxLane c.epoch x.update
  let scale := s.histCurrent (c.param 62 2)
  let n := s.dataSize c
  let one := fun (acc : State × Counts × List Fp) (b : Nat) =>
    let place := x.contrib + 68 * b
    match k.plan.tensors.find? fun t => t.part == part && decide (t.block0 ≤ b) && decide (b < t.block0 + t.blocks) with
    | none => (acc.1.writeMem place (quantGt scale (List.replicate 64 .zero)).bytes, acc.2)
    | some t =>
      let lo := 64 * (b - t.block0)
      let live := s.feedbackAt c k.plan t (s.liveSlotOf lane)
      let shadow := s.feedbackAt c k.plan t (s.shadowSlotOf lane)
      let cnt := min 64 (t.k * t.n - lo)
      let g := (List.range 64).map fun i =>
        if i < cnt then
          addF (ofF32 (Config.freeWord (k.gradDraw + 1 + part) (64 * b + i))) (bf16Format.decode (s.natAt (live + 2 * (lo + i)) 2))
        else .zero
      let q := quantGt scale g
      if (acc.1.readStatus (live + 2 * lo) (2 * cnt)).isSome then
        (((acc.1.noteRead 5 (live + 2 * lo) (2 * cnt)).poisonRange place 68).poisonRange (shadow + 2 * lo) (2 * cnt), acc.2)
      else
        ((acc.1.writeMem place q.bytes).writeMem (shadow + 2 * lo) ((q.residuals.take cnt).flatMap (leBytes 2)),
          acc.2.1.plus { q.counts with total := cnt }, acc.2.2 ++ q.folded)
  (List.range (n * x.blocks)).foldl one (s, {}, [])

/-- Forms every part, and adds the conversions to the ASSAY slot and the maximum to HISTORY (R196, R200). -/
def State.formParts (s : State) (k : Train) : State :=
  (List.range k.plan.parts.length).foldl (fun (t : State) part =>
    let r := t.formPart k part
    (r.1.addAssay (k.cmd.param 60 2) 0x18 r.2.1).foldPending (k.cmd.param 62 2) (amaxBits r.2.2)) s

/-- The gradient pass and its QUANT (events 3 and 4), then the data group's FINITE vote (event 5). -/
def State.gradients (s : State) (n : Nat) : State :=
  match lookup n s.trains with
  | none => s
  | some k =>
    if (s.rangesStatus [s.stashRange k]).isSome then (s.noteRanges 5 [s.stashRange k]).stopTrain n stTrainFailed else
    let t := s.formParts k
    let t := t.updTrain n fun k => { k with phase := .finiteData, issued := k.issued + 1 }
    t.issueVote n k k.cmd.dataGroup k.nextSeq 0 0 1 0 (k.cmd.param 60 2) (k.cmd.param 62 2)

/-- A pass has ended everywhere with this invalid set: the next event, a further pass after 1 ms, or the end (R483). -/
def State.passOver (s : State) (n : Nat) (bad : List Nat) : State :=
  match lookup n s.trains with
  | none => s
  | some k =>
    if bad.isEmpty then s.gradients n
    else if 3 ≤ k.pass then s.stopTrain n stTrainVersion
    else s.updTrain n fun k => { k with again := some (s.now, bad) }

/-- Stage 0 has run its last backward: PASS_END goes out, and it acts on the set (R483). -/
def State.passDone (s : State) (n : Nat) : State :=
  match lookup n s.trains with
  | none => s
  | some k =>
    if k.phase ≠ .pass || k.again.isSome || k.backwards < k.order.length || s.stage k.cmd ≠ 0 || k.op.isSome || s.sending n then s
    else
      let bad := k.order.filter k.invalid.contains
      let t := match k.cmd.pipeGroup with
        | some g =>
          if 1 < s.stages k.cmd then s.sendPipe n k (fwdOut g 0) 0 (k.passWindow + 4096) (passEndBody k bad) else s
        | none => s
      t.passOver n bad

/-- The passes go on: completed SENDs and received entries are taken, and the operations that can run are run. -/
def State.runOn (s : State) (n : Nat) : State :=
  match lookup n s.trains with
  | none => s
  | some k =>
    let t := if s.pipeFailed n then s else ((s.takeSends n).takeEntries n k).postRecvs n
    (t.runPass n ((2 * k.order.length + 1) * (k.plan.tensors.length + 3))).passDone n

/-- What a training step uses: the pavés and engines of its berth, its HISTORY slot, its contexts and the ranges it guards (R142,
R312). -/
def State.trainNeeds (s : State) (k : Train) : List Need :=
  s.berthUnits 0 k.cmd.berth ++ [.history (k.cmd.param 62 2)] ++ (k.plan.parts.map fun x => .context x.update) ++ k.guards.map fun r => .range r.1 r.2

/-- May a training service begin a step: open, idle, steps left, and nothing holds it (R88, R142, R312, R489, R522, R553)? A step whose
HISTORY slot still waits for an ADVANCE waits with it (R202, R203). -/
def State.trainMayStart (s : State) (k : Train) : Bool :=
  k.opened && k.stopped.isNone && !k.ended && k.closing.isNone && k.phase == .idle && decide (k.index < k.cmd.steps) && !k.parked
    && !s.panel.hold && !s.power.quiesced && !s.power.quiescedBerths.testBit k.cmd.berth
    && !s.histWaiting (k.cmd.param 62 2) && !(s.trainNeeds k).any (s.withheldFrom s.spine.epoch.toNat k.cmd.berth)

/-- A step table stops its service (R470): it is bad, a record cannot be read, or a micro-batch has more rows than MICRO_ROWS. -/
def State.tableStops (s : State) (k : Train) (table : StepTable) : Bool :=
  table.bad || (table.records.any fun e => match placeOf e.1 with
      | .device a => (s.rangeOf k.cmd a (128 + 4 * (s.stepRecord e.1).1.count) false { reach := true }).isSome | _ => false)
    || (table.records.any fun e => (s.stepRecord e.1).2.isSome)
    || table.micros.any fun x => decide (k.cmd.microRows < ((s.microRecords k table x).map fun r => r.1.rows).sum)

/-- The bad data that the reads of a step's table and records meet is recorded (R314). -/
def State.noteTable (s : State) (k : Train) (table : StepTable) : State :=
  let a := s.natAt (k.cmd.param 80 8 + 8 * k.index) 8
  let m := s.natAt a 4
  let r := s.natAt (a + 4) 4
  let own := (a, if 4096 < m || 1048576 < r then 16 else 16 + 8 * m + 16 * r)
  let records := table.records.filterMap fun e =>
    match placeOf e.1 with | .device a => some (a, 128 + 4 * (s.stepRecord e.1).1.count) | _ => none
  s.noteRanges 5 (((k.cmd.param 80 8 + 8 * k.index, 8) :: (if table.bad then [own] else []) ++ records).filter
    fun r => (s.readStatus r.1 r.2).isSome)

/-- A step of a training service acts under the settings of its epoch (R140). -/
def State.inTrain (s : State) (n : Nat) : State :=
  match lookup n s.trains with
  | some k => s.actFor k.cmd.epoch k.cmd.berth
  | none => s

/-- TRAIN_STEP_START: ASSAY cleared, the step table read and checked, the first pass begun. -/
def State.trainStart (s : State) (n : Nat) : State :=
  match lookup n s.trains with
  | none => s
  | some k =>
    if !s.trainMayStart k then s
    else
      let a := s.natAt (k.cmd.param 80 8 + 8 * k.index) 8
      let table := s.stepTable a
      let s1 := s.noteTable k table
      let s0 := (if k.cmd.param 60 2 = 0 then s1 else s1.clearAssay (k.cmd.param 60 2)).setNat (trainReg n 8) (k.tag k.index)
      if s.tableStops k table then (s0.updTrain n fun k => { k with loss := 0, lossRows := 0 }).stopTrain n stTrainBatch
      else
        let d := s0.draw
        let loss := s.stepLoss k table d.1
        let out := (table.micros.map fun x => x.2 - (s.microRecords k table x).length).sum
        let t := ({ d.2 with draws := d.2.draws + k.plan.parts.length } : State).dropRegions (bitsBelow 8 (s.berthPaves 0 k.cmd.berth))
        let t := ((t.overwrite (k.cmd.param 88 8) (s.stashBytes k.cmd k.plan table.micros.length)).overwrite (k.cmd.param 112 8)
          (k.cmd.param 120 8)).sat32 (trainReg n 0x34) out
        let t := t.updTrain n fun k =>
          { k with cmd := { k.cmd with epoch := s.spine.epoch.toNat }, phase := .pass, pass := 0, attempt := 0, micros := table.micros, records := table.records,
                   tokenNorm := table.tokenNorm, order := List.range table.micros.length, forwards := 0, backwards := 0, fwd := [],
                   bwd := [], tags := [], invalid := [], again := none, op := none, fwdPosted := 0, bwdPosted := 0, idleAt := s.now,
                   sendWaits := false, gradDraw := d.1, loss := loss.1, lossRows := loss.2,
                   dirty := false, counts := [], round := k.round + 1 }
        t.runOn n

/-- POUND_ENTRY: the message that has come for a posted RECV is received into its slot, and the operations that can run are run; without
a message, the stage's next operation can run since its SEND is complete (R474-R477). -/
def State.poundEntry (s : State) (n p : Nat) : State :=
  match lookup n s.trains with
  | none => s
  | some k => if k.phase ≠ .pass || k.again.isSome then s else (s.pipelineMessage p).runOn n

/-- PASS_END on a later stage, once its own backwards are run: relayed onward, then acted on. -/
def State.passEnd (s : State) (n p : Nat) : State :=
  match lookup n s.trains with
  | none => s
  | some k =>
    if k.phase ≠ .pass || k.again.isSome then s
    else
      let t := (s.pipelineMessage p).takeSends n
      if t.pipeFailed n then t.stopTrain n stTrainFailed
      else if k.backwards < k.order.length || t.sending n then t
      else
        match (t.endedOf n 0x5004).find? fun x => x.cmd.collSeq == k.passWindow + 4096, k.cmd.pipeGroup with
        | some x, some g =>
          let st := t.stage k.cmd
          let a := x.cmd.param 56 8
          let read := [(a, k.plan.entryBytes k.cmd.microRows)]
          if (t.rangesStatus read).isSome then (t.noteRanges 5 read).stopTrain n stTrainFailed
          else
            let bad := (List.range (t.natAt a 4)).map fun i => t.natAt (a + 64 + 4 * i) 4
            let u : State := { t with colls := t.colls.erase x }
            let u := if st + 1 < t.stages k.cmd then
                u.sendPipe n k (fwdOut g st) 0 x.cmd.collSeq (t.bytesAt a (k.plan.entryBytes k.cmd.microRows))
              else u
            u.passOver n bad
        | _, _ => t

/-- MICRO_RERUN_DELAY: 1 ms after the set is known, a new pass over it starts. -/
def State.rerunMicros (s : State) (n : Nat) : State :=
  match lookup n s.trains with
  | none => s
  | some k =>
    match k.again with
    | some (t0, bad) =>
      if !s.expired (t0 + msec) then s
      else
        ((s.sat32 (trainReg n 0x30) bad.length).updTrain n fun k =>
          { k with again := none, pass := k.pass + 1, order := bad, forwards := 0, backwards := 0, fwd := [], bwd := [], invalid := [],
                   fwdPosted := 0, bwdPosted := 0, idleAt := s.now }).runOn n
    | none => s

/-! ## Attempts and the decision (R485-R487) -/

/-- An attempt begins: REDUCE_SCATTER of each part, RETAIN, into its update (event 7). -/
def State.startAttempt (s : State) (n : Nat) : State :=
  match lookup n s.trains with
  | none => s
  | some k =>
    let t := s.updTrain n fun k =>
      { k with phase := .reducing, dirty := false, counts := [], issued := k.issued + k.plan.parts.length }
    (List.range k.plan.parts.length).foldl (fun (t : State) i =>
      let x := k.plan.part i
      let c := serviceCmd k n 0x5001 k.cmd.dataGroup 1 (k.tag k.index) (k.nextSeq + i)
        [(48, 1, 0x18), (49, 1, 3), (54, 2, x.update), (56, 4, x.blocks), (64, 8, x.contrib)]
      t.issue (.train n) c fun u => u.reduceRun c (.train n)) t

/-- The REDUCE_SCATTERs of an attempt. -/
def State.reduces (s : State) (n : Nat) : List Coll := s.colls.filter fun k => k.owner == .train n && k.cmd.opcode == 0x5001

/-- The local "done" bit (R471, R498, R499, R500). -/
def State.trainDone (s : State) (n : Nat) (k : Train) : Bool :=
  !k.dirty && !(k.plan.parts.any fun x => s.stateLost x.update)
    && (s.reduces n).all fun r => r.ownDone && match r.ended with | some (_, r0, _) => r0.testBit 0 | none => false

/-- Moves a step on as the collectives it waits for end; any vote that ends without a result fails the step (R487). -/
def State.trainProgress (s : State) (n : Nat) : State :=
  match lookup n s.trains with
  | none => s
  | some k =>
    let prev := k.nextSeq - 1
    let set := fun (t : State) (ph : TrainPhase) => t.updTrain n fun k => { k with phase := ph }
    let g := k.cmd.pipeGroup
    match k.phase with
    | .finiteData =>
      match s.takeResult n 0x5005 prev with
      | some (0, r0) =>
        match g with
        | some p => (set s .finitePipe).issueVote n k p (k.window + 32768) 0 0 0 (r0 % 2) 0 0
        | none => set s (.finiteKnown (r0.testBit 0))
      | some _ => s.stopTrain n stTrainFailed
      | none => s
    | .finitePipe =>
      match s.takeResult n 0x5005 (k.window + 32768) with
      | some (0, r0) => set s (.finiteKnown (r0.testBit 0))
      | some _ => s.stopTrain n stTrainFailed
      | none => s
    | .reducing =>
      if (s.reduces n).all fun r => r.ended.isSome then
        let b := bit (s.trainDone n k)
        let t := s.updTrain n fun k => { k with issued := k.issued + 1 }
        match g with
        | some _ => (set t .doneVote).issueVote n k k.cmd.dataGroup k.nextSeq 0 (16 + k.attempt) 0 b 0 0
        | none => (set t .commitVote).issueVote n k k.cmd.dataGroup k.nextSeq 1 k.attempt 0 b 0 0
      else s
    | .doneVote =>
      match s.takeResult n 0x5005 prev, g with
      | some (0, r0), some p => (set s .commitVote).issueVote n k p (k.window + 32769 + k.attempt) 1 k.attempt 0 (r0 % 2) 0 0
      | some _, _ => s.stopTrain n stTrainFailed
      | none, _ => s
    | .commitVote =>
      match s.takeResult n 0x5005 (if g.isSome then k.window + 32769 + k.attempt else prev) with
      | some (0, r0) => set s (.decided (r0.testBit 0))
      | some _ => s.stopTrain n stTrainFailed
      | none => s
    | .readyVote =>
      match s.takeResult n 0x5005 prev with
      | some (0, _) => s.startAttempt n
      | some _ => s.stopTrain n stTrainFailed
      | none => s
    | _ => s

/-- The narrow conversions of a committed step reach their slots (R497). -/
def State.addNarrowCounts (s : State) (k : Train) : State := k.counts.foldl (fun (t : State) x => t.addAssay x.1 x.2.1 x.2.2) s

/-- The layers that have tensors in a context, ascending (R509). -/
def Plan.layersOf (p : Plan) (part : Nat) : List Nat :=
  (p.tensors.filter fun t => t.part == part).foldl (fun ls t => if ls.contains t.layer then ls else ls ++ [t.layer]) [] |>.mergeSort

/-- DW2 and W2 of a layer over the owned elements of its tensors, from the slots before the lane's commit (R509). -/
def State.ratioSums (s : State) (k : Train) (part layer : Nat) : Nat × Nat :=
  let c := k.cmd
  let x := k.plan.part part
  let l := s.ctxLane c.epoch x.update
  let m := s.dataMember c
  let idx := (List.range (64 * x.blocks)).filter fun i =>
    let b := m * x.blocks + i / 64
    k.plan.tensors.any fun t => t.part == part && t.layer == layer && decide (t.block0 ≤ b)
      && decide (64 * (b - t.block0) + i % 64 < t.k * t.n)
  let w := idx.map fun i => s.masterAt c.epoch x.update i (s.liveSlotOf l)
  let w1 := idx.map fun i => s.masterAt c.epoch x.update i (s.shadowSlotOf l)
  (toF32 (tree ((w.zip w1).map fun p => let d := subF p.2 p.1; mulF d d)), toF32 (tree (w.map fun x => mulF x x)))

/-- Writes the ratio table of a context (R510, Table 18-6); `peers` gives the other members' pairs in member order. -/
def State.writeRatios (s : State) (k : Train) (part : Nat) (own : List (Nat × Nat)) (peers : List (List (Nat × Nat))) : State :=
  let a := s.ratioAddr k.cmd.epoch (k.plan.part part).update
  let m := s.dataMember k.cmd
  if a = 0 then s
  else
    let layers := k.plan.layersOf part
    let entry := fun (i : Nat) (layer : Nat) =>
      let all := (peers.take m ++ [own] ++ peers.drop m).map fun ps => ps.getD i (0, 0)
      let dw := tree (all.map fun p => ofF32 p.1)
      let w := tree (all.map fun p => ofF32 p.2)
      leBytes 2 layer ++ zeros 2 ++ leBytes 4 (toF32 dw) ++ leBytes 4 (toF32 w) ++ leBytes 4 (toF32 (div32 (sqrt32 dw) (sqrt32 w)))
    s.writeMem a (((List.range layers.length).zip layers).flatMap fun x => entry x.1 x.2)

/-- A decision of 1 (R486, R503): the lane's generation is written, then E rises, retention ends, HISTORY advances, and the step
is reported; the ratios follow (R510). -/
def State.commitStep (s : State) (n : Nat) (peers : List (List (List (Nat × Nat)))) : State :=
  match lookup n s.trains with
  | none => s
  | some k =>
    let c := k.cmd
    let l := s.ctxLane c.epoch (k.plan.part 0).update
    let parts := List.range k.plan.parts.length
    let own := parts.map fun i => (k.plan.layersOf i).map fun layer => s.ratioSums k i layer
    let t := s.setLane l ((s.laneGen l + 1) % 32768)
    let t := (t.laneContexts c.epoch l).foldl (fun (t : State) x => t.noteShadow c.epoch x) t
    let v := (k.version + 1) % 2 ^ 32
    let v := if v = 0 then 1 else v
    let t := (t.releaseRetained c.dataGroup none).histWrite (c.param 62 2) true
    let t := (t.addNarrowCounts k).updTrain n fun k => { k with version := v, committed := k.committed + 1, issued := k.issued + 1 }
    let t := ((t.setNat (trainReg n 4) v).sat32 (trainReg n 0x20) 1).raise evTrain 0
    let t := t.stepReport n stSuccess
    let t := parts.foldl (fun (t : State) i => t.writeRatios k i (own.getD i []) (peers.map fun q => q.getD i [])) t
    t.endStep n

/-- STEP_FINITE_RESULT: result 0 skips the step, result 1 starts the first attempt (R485). -/
def State.finiteResult (s : State) (n : Nat) : State :=
  let s := s.trainProgress n
  match lookup n s.trains with
  | none => s
  | some k =>
    match k.phase with
    | .finiteKnown true => s.startAttempt n
    | .finiteKnown false => ((((s.sat32 (trainReg n 0x24) 1).raise evTrain 2).stepReport n stTrainSkipped)).endStep n
    | _ => s

def execStepFiniteResult (t now : Nat) (s : State) : Host.Outcome State Fault Refusal :=
  runs (fun s => ((s.at now).inTrain t).finiteResult t) s

/-- STEP_DECISION: a COMMIT decision of 1. -/
def State.stepDecision (s : State) (n : Nat) (peers : List (List (List (Nat × Nat)))) : State :=
  let s := s.trainProgress n
  match lookup n s.trains with
  | none => s
  | some k => if k.phase = .decided true then s.commitStep n peers else s

def execStepDecision (t : Nat) (ratios : List (List (List (Nat × Nat)))) (now : Nat) (s : State) : Host.Outcome State Fault Refusal :=
  runs (fun s => ((s.at now).inTrain t).stepDecision t ratios) s

/-- ATTEMPT_RETRY: a decision of 0: the "ready" vote before the next attempt, or the end of the step (R487). A member whose
contribution could not be read releases its retained ranges and forms it again. -/
def State.attemptRetry (s : State) (n : Nat) : State :=
  let s := s.trainProgress n
  match lookup n s.trains with
  | none => s
  | some k =>
    if k.phase ≠ .decided false then s
    else if k.cmd.param 58 1 ≤ k.attempt then s.stopTrain n stTrainFailed
    else
      let unread := (s.reduces n).any fun r => match r.ended with | some (st, _, _) => st == stUncorrectable | none => false
      if unread && !s.beating then s
      else if unread && (s.rangesStatus [s.stashRange k]).isSome then (s.noteRanges 5 [s.stashRange k]).stopTrain n stTrainFailed
      else
      let t := if unread then (s.releaseRetained k.cmd.dataGroup none).formParts k else s
      let t := { t with colls := t.colls.filter fun r => r.owner != CollOwner.train n }
      let t := ((t.sat32 (trainReg n 0x28) 1).raise evTrain 1).updTrain n fun k =>
        { k with phase := .readyVote, attempt := k.attempt + 1, issued := k.issued + 1 }
      t.issueVote n k k.cmd.dataGroup k.nextSeq 0 (64 + k.attempt + 1) 0 1 0 0

def execAttemptRetry (t now : Nat) (s : State) : Host.Outcome State Fault Refusal :=
  runs (fun s => ((s.at now).inTrain t).attemptRetry t) s

/-! ## Update on arrival (R496-R502) -/

/-- The plan's part that a service's collective updates. -/
def Plan.partOf (p : Plan) (ctx : Nat) : Nat := ((List.range p.parts.length).find? fun i => (p.part i).update == ctx).getD 0

/-- The open collective that updates a context. -/
def State.updaterOf (s : State) (x : Nat) : Option Coll :=
  s.colls.find? fun k => k.cmd.opcode == 0x5001 && k.cmd.param 49 1 == 3 && k.cmd.param 54 2 == x && k.ended.isNone

/-- Block i of a context is updated from its staged live values, and the live block that takes its place in the ring is staged (R501). -/
def State.updateStaged (s : State) (e x i : Nat) (gs : List Fp) (places : List NarrowPlace) : State × Counts × Bool :=
  let r := s.applyBlock e x i (s.stageSlot e x i) gs places
  let next := i + (s.ctxStage e x).2 / 768
  if s.ctxBlocks e x ≤ next || r.1.stateLost x then r else (r.1.stageLive e x next, r.2)

/-- FINAL_BLOCK_UPDATE: the final block next in ascending index is applied to the shadow. -/
def State.finalBlock (s : State) (x : Nat) : State :=
  match s.updaterOf x with
  | none => s
  | some k =>
    let c := k.cmd
    let s := s.actAs c
    let i := s.ctxNext x
    match k.finals.find? fun f => f.1 == i with
    | none => s
    | some (_, b) =>
      let train := match k.owner with | CollOwner.train n => (lookup n s.trains).map fun t => (n, t) | _ => none
      let places := match train with
        | some (_, t) => s.narrowPlaces t.cmd t.plan (t.plan.partOf x) i (s.shadowSlotOf (s.ctxLane c.epoch x))
        | none => []
      let r := s.updateStaged c.epoch x i b.gradient places
      if r.1.stateLost x && !s.stateLost x then r.1.failColl k stPoisoned
      else
        let fmt := match places with | p :: _ => p.fmt | [] => 0
        let t := (r.1.setNext x (i + 1)).updColl c fun k => { k with finals := k.finals.filter fun f => f.1 != i }
        match train with
        | some (n, _) => t.updTrain n fun k =>
            { k with dirty := k.dirty || !r.2.2, counts := k.counts ++ [(s.ctxAssay c.epoch x, fmt, r.2.1)] }
        | none => t

def execFinalBlockUpdate (ctx now : Nat) (s : State) : Host.Outcome State Fault Refusal :=
  runs (fun s =>
    let s := s.at now
    match s.updaterOf ctx with
    | some k => if k.finals.any fun f => f.1 == s.ctxNext ctx then s.onRing fun s => s.finalBlock ctx else s
    | none => s) s

/-- SHADOW_HEADER_WRITE: every block's writes are granted; the shadow header is written COMPLETE (step 3 of R498). -/
def State.shadowDone (s : State) (x : Nat) : State :=
  match s.updaterOf x with
  | none => s
  | some k =>
    let c := k.cmd
    let s := s.actAs c
    if k.ownDone || s.ctxNext x ≠ s.ctxBlocks c.epoch x || s.stateLost x then s
    else ((s.closeShadow c.epoch x c.step).updColl c fun k => { k with ownDone := true }).settleColls

def execShadowHeaderWrite (ctx now : Nat) (s : State) : Host.Outcome State Fault Refusal :=
  runs (fun s => (s.at now).shadowDone ctx) s

/-! ## The events of the passes, and TRAIN_CLOSE -/

def execPoundEntry (t p now : Nat) (s : State) : Host.Outcome State Fault Refusal :=
  runs (fun s => let s := (s.at now).inTrain t; if (lookup t s.trains).isSome then s.onRing fun s => s.poundEntry t p else s) s

def execPassEnd (t p now : Nat) (s : State) : Host.Outcome State Fault Refusal :=
  runs (fun s => let s := (s.at now).inTrain t; if (lookup t s.trains).isSome then s.onRing fun s => s.passEnd t p else s) s

def execMicroRerunDelay (t now : Nat) (s : State) : Host.Outcome State Fault Refusal :=
  runs (fun s => let s := (s.at now).inTrain t; if (lookup t s.trains).isSome then s.onRing fun s => s.rerunMicros t else s) s

/-- Has the COMMIT vote of the current step been cast? -/
def Train.commitCast (k : Train) : Bool := match k.phase with | .commitVote | .decided _ => true | _ => false

/-- TRAIN_CLOSE (R489). -/
def State.trainClose (s : State) (c : Cmd) : State :=
  let n := c.param 32 1
  match lookup n s.trains with
  | none => s.refuse c stOutOfRange 32
  | some k =>
    if k.cmd.berth ≠ c.berth then s.refuse c stBerthOwnership
    else if k.closing.isSome || !k.opened || k.ended then s.finish c.ref { status := stResourceInUse }
    else
      let t := (s.running c.ref).updTrain n fun k => { k with closing := some (c.ref, c.param 33 1) }
      if k.stopped.isSome || k.phase = .idle then (t.updTrain n fun k => { k with ended := true }).awaitCommit (.trainClose n)
      else if c.param 33 1 = 1 && !k.commitCast then (t.stepReport n stTrainClosed).endStep n
      else t

def execTrainClose (c : CmdRef) (hv : HostView) (s : State) : Host.Outcome State Fault Refusal :=
  runs (fun s => (s.sees hv).start 0x7001 c fun k s => s.trainClose k) s

end Sys2Proof.Machine
end

