-- ==== Sys2Proof/Machine/LinkWork.lean ====
section
/-! DEFINITION. What a port that goes down, or carries VC2 to VC14 no longer, does to the work that uses it (Table 14-11). -/

namespace Sys2Proof.Machine

open Sys2Proof

/-! ## Work of the chapters -/

/-- A port that carries a piece of a turn goes down (R538): messages in `lost` were not acknowledged, or a piece was coming in. -/
def State.turnsLinkDown (s : State) (p : Nat) (lost : List Nat) : State :=
  (s.turns.filter fun t => t.2.phase == 3 && (t.2.sent.any (fun m => lost.contains m)
      || (s.port p).opening.any fun o => fieldAt o.bytes 10 2 == 0x1101 && fieldAt o.bytes 12 4 == t.2.cmd.param 40 4)).foldl
    (fun (u : State) t => u.failTurn t.1 stLinkDown false) s

/-- Does a set slot's or a repair's source read a peer through a port: PEER by its LINK, SHARDED by its axis? -/
def State.setUsesPort (s : State) (k : WeightSet) (p : Nat) : Bool :=
  (k.source == 1 && k.link == p) || (k.source == 4 && k.link == axisOf p && s.ringLength (axisOf p) != 1)

/-- Does a repair read its line through a port? -/
def State.repairUsesPort (s : State) (r : Repair) (p : Nat) : Bool :=
  if r.adapter then match lookup r.slot s.adapters with | some k => k.source == 1 && k.peerPort == p | none => false
  else
    match lookup r.slot s.sets with
    | some k =>
      s.setUsesPort k p
        && (k.source == 1 || (r.line - k.base) / max 1 (k.bytes / max 1 (s.ringLength k.link)) != s.ringIndex k.link)
    | none => false

/-- Loads from a peer on a port end with a status (R339). -/
def State.loadsPeerDown (s : State) (p st : Nat) : State :=
  let t := (s.sets.filter fun k => k.2.state == 1 && !k.2.byTurn && k.2.failing.isNone && s.setUsesPort k.2 p).foldl
    (fun (t : State) k => t.failSet k.1 st) s
  (s.adapters.filter fun k => k.2.state == 1 && k.2.failing.isNone && k.2.source == 1 && k.2.peerPort == p).foldl
    (fun (t : State) k => t.failAdapter k.1 st) t

/-- Repairs from a peer on a port: their sets and adapters are DAMAGED (R327). -/
def State.repairsPeerDown (s : State) (p : Nat) : State :=
  (s.repairs.filter fun r => s.repairUsesPort r p).foldl (fun (t : State) r =>
    if t.repairs.contains r then t.damage r.adapter r.slot else t) s

/-! ## Forwarded messages in transit (R386, R392) -/

/-- The port on which a notice to a source leaves: its route, or else any other that carries VC0. -/
def State.noticePort (s : State) (source avoid : Nat) : Option Nat :=
  let ok := fun p => p != avoid && s.carries p 0
  match s.routePort source with
  | some p => if ok p then some p else (List.range 8).find? ok
  | none => (List.range 8).find? ok

/-- PATH_BROKEN for a message with this header. -/
def State.pathBroken (s : State) (header : List Byte) (avoid : Nat) : State :=
  match s.noticePort (fieldAt header 4 4 / 256) avoid with
  | some q => s.sendNotice q 0x0001 (fieldAt header 10 2) (fieldAt header 12 4)
  | none => s

/-- Forwarded messages that a falling port carries on are discarded, whether or not they have ended, with PATH_BROKEN. -/
def State.transitLost (s : State) (p : Nat) : State :=
  let k := s.port p
  let sent := ((k.kept ++ k.waiting).filter fun f => f.1.kind == kindData && f.2 == 0 && f.1.flags.testBit 5).map fun f => f.1.payload
  let live := (s.ports.flatMap fun q => q.2.opening.map fun o => (q.1, o)).filter fun x =>
    match x.2.forward with | some (out, _) => out == p && x.1 != p && !x.2.drop | none => false
  let heads := live.map fun x => x.2.bytes
  let t := live.foldl (fun (t : State) x => t.putOpening x.1 x.2.vc (some { x.2 with bytes := [], drop := true, forward := none })) s
  let came := (k.opening.filter fun o => o.forward.isSome && !o.drop).map fun o => o.bytes
  ((sent ++ heads).foldl (fun (hs : List (List Byte)) h => if hs.any (fun g => g.take 16 == h.take 16) then hs else hs ++ [h]) came).foldl
    (fun (t : State) h => t.pathBroken h p) t

/-! ## The port goes down, or becomes RESTRICTED -/

/-- Numbers of the messages part-sent, or sent without an ACK, on a port: all of them, or those on VC2 to VC14. -/
def State.unacked (s : State) (p : Nat) (all : Bool) : List Nat :=
  let k := s.port p
  (((k.kept ++ k.waiting).filter fun f => f.1.kind == kindData && f.2 != 0 && (all || 2 ≤ f.1.vc)).map fun f => f.2).dedup

/-- Work of a port that has just left UP: collectives and loads and repairs from peers. -/
def State.workDown (s : State) (p : Nat) (lost : List Nat) : State :=
  ((s.collsLinkDown p lost).loadsPeerDown p stLinkDown).repairsPeerDown p

/-- A link goes down (R391, R392), and the port goes to a state. -/
def State.linkDown (s : State) (p next : Nat) : State :=
  let k := (s.port p).state
  if k = 3 || k = 4 then
    let lost := s.unacked p true
    (((s.turnsLinkDown p lost).transitLost p).dropLink p next).workDown p lost
  else s.updPort p fun k => { k with state := next, phase := 0, retrain := none, txWidth := 0, rxWidth := 0 }

/-- A port is judged again; one that becomes RESTRICTED counts as down for VC2 to VC14 (R372, R383). -/
def State.judgeLink (s : State) (p : Nat) : State :=
  let lost := s.unacked p false
  let t := s.judgePort p
  if (s.port p).state = 3 && (t.port p).state = 4 then
    (((t.turnsLinkDown p lost).transitLost p).updPort p fun k => { k with waiting := k.waiting.filter fun f => decide (f.1.vc < 2) }).workDown
      p lost
  else t

end Sys2Proof.Machine
end

