-- ==== Sys2Proof/Machine/Lockage.lean ====
section
/-! DEFINITION. Lockage (chapter 5): the chamber, the CHECK rules of Table 5-5, COMMIT up to its wait, what a granted commit of
entries does, and the restore at power-on. -/

namespace Sys2Proof.Machine

open Sys2Proof

def stUnknownSetting : Nat := 0x4101
def stDuplicateSetting : Nat := 0x4102
def stWeirSum : Nat := 0x4104
def stTorusMismatch : Nat := 0x4105
def stCapacityExceeded : Nat := 0x4106
def stFormatUnsupported : Nat := 0x4107
def stAxisConflict : Nat := 0x4108
def stResourceReferenced : Nat := 0x4109
def stPersistFull : Nat := 0x410A
def stPersistDenied : Nat := 0x410B
def stStaleCheck : Nat := 0x410C
def stChamberState : Nat := 0x410D

/-! ## Entries (Tables 5-1 and 5-2) -/

/-- A chamber entry: its index, and its fields; `flags` is the word at bytes 4 to 7. -/
structure Staged where
  index : Nat
  setting : Nat
  flags : Nat
  value : Nat
  deriving DecidableEq, Repr

def stagedOf (i : Nat) (bs : List Byte) : Staged := ⟨i, fieldAt bs 0 4, fieldAt bs 4 4, fieldAt bs 8 8⟩

def Staged.bytes (e : Staged) : List Byte := leBytes 4 e.setting ++ leBytes 4 e.flags ++ leBytes 8 e.value
def Staged.persists (e : Staged) : Bool := e.flags.testBit 0
def Staged.unpersists (e : Staged) : Bool := e.flags.testBit 1

def Chamber.word (c : Chamber) (k : Nat) : Nat := ((lookup k c.words).getD 0).toNat

/-- The non-empty entries, in ascending index order (R130). -/
def Chamber.entries (c : Chamber) : List Staged :=
  (((c.words.map fun k => k.1 / 4).eraseDups).map fun e =>
    (⟨e, c.word (4 * e), c.word (4 * e + 1), c.word (4 * e + 2) + c.word (4 * e + 3) * 2 ^ 32⟩ : Staged)).filter fun e => e.setting != 0

/-- The BAR0 address and the register that a setting names: an LK register of this variant. -/
def settingReg (v : Variant) (n : Nat) : Option (Nat × RegWord) :=
  let a := unitBlock (n / 0x10000) + n % 0x10000
  if 0x1000000 ≤ n || 0x8000 ≤ n % 0x10000 || n % 4 ≠ 0 || !sitePopulated v a then none
  else
    match regWord a with
    | some w => if w.row.access = .lk && !w.high then some (a, w) else none
    | none => none

/-- The setting identifier of an LK register's address. -/
def settingOf (a : Nat) : Nat := a - 0x02000000

/-- The words an entry writes. -/
def Staged.words (v : Variant) (e : Staged) : List (Nat × Word) :=
  match settingReg v e.setting with
  | some (a, w) =>
    (a, BitVec.ofNat 32 e.value) :: (if w.row.wide then [(a + 4, BitVec.ofNat 32 (e.value / 2 ^ 32))] else [])
  | none => []

/-- The configuration that results from laying entries over the current epoch's settings. -/
def State.lay (s : State) (es : List Staged) : State :=
  (es.flatMap (Staged.words s.spine.variant)).foldl (fun (t : State) k => t.setReg k.1 k.2) s

/-! ## Rules 1 to 4 -/

/-- Lowest bits of fields whose ranges depend on more than their own bits, where the value breaks them. `t` is the laid
configuration, which says whether an update context is ENABLED (UPD_BLOCKS and UPD_STAGE_BLOCKS: 0 only when it is not). -/
def specialFails (t : State) (es : List Staged) (w : RegWord) (v : Nat) : List Nat :=
  let n := w.row.name
  let x := w.index + 1
  let on := (t.ctxEnabled 0 x)
  let staged := fun (off : Nat) => es.any fun e => e.setting == settingOf (ctxBase x + off)
  let bad := fun (p : Bool) (lo : Nat) => if p then [lo] else []
  if n = "TORUS_AXIS" then bad (decide (sizeOf v ≤ coordOf v)) 0
  else if n = "HIST_CONFIG" then
    bad (field v 7 0 == 0x80) 0
      ++ bad (!([4, 5, 0x18].contains (field v 15 8) || (field v 15 8 == 0 && field v 24 20 == 0))) 8
  else if n = "BERTH_STACK" then bad (v.testBit 63 && field v 50 40 == 0) 40
  else if n = "BERTH_REACH" then bad (v.testBit 63 && field v 59 49 == 0) 49
  else if n = "LOGBOOK_REGION" then bad (v.testBit 63 && field v 56 48 == 0) 48
  else if n = "REACH_LAYOUT" then bad (field v 27 16 &&& field v 11 0 != field v 27 16) 16
  else if n = "POWER_CAP" then bad (t.spine.variant == .s && decide (2250 < v)) 0
  else if ["UPD_STATE_ADDR", "UPD_STAGE_ADDR", "UPD_NARROW_OFFSET", "UPD_FEEDBACK_OFFSET"].contains n then bad (v % 64 != 0) 0
  else if n = "UPD_LR" || n = "UPD_EPS" || n = "UPD_WD" then bad (!fp32Finite v || (v.testBit 31 && v != 0x80000000)) 0
  else if n = "UPD_BETA1" || n = "UPD_BETA2" then bad (!fp32UnitBottom v) 0
  else if n = "UPD_GRAD_SCALE" then bad (!fp32Finite v) 0
  else if n = "UPD_BLOCKS" then bad (v == 0 && on) 0
  else if n = "UPD_STAGE_BLOCKS" then bad (if v = 0 then on else decide (v < 1024)) 0
  else if n = "UPD_CFG" then
    bad (v.testBit 31 && ((t.ctxBlocks 0 x == 0 && !staged 4) || (t.regNat (ctxBase x + 0x18) == 0 && !staged 0x18))) 31
  else []

/-- Rule 3: the lowest offending bit of an entry, counted from its first byte, and its status. -/
def offence (t : State) (es : List Staged) (w : RegWord) (e : Staged) : Option (Nat × Nat) :=
  let flags := ((List.range 32).filter fun n => 2 ≤ n && e.flags.testBit n).map fun n => (32 + n, stReservedNonzero)
  let spare := ((List.range 64).filter fun n => e.value.testBit n && !(w.row.defined w.index).testBit n).map fun n =>
    (64 + n, stReservedNonzero)
  let out := (w.row.fields.filter fun f => field e.value f.hi f.lo < f.min || f.max < field e.value f.hi f.lo).map fun f =>
    (64 + f.lo, stOutOfRange)
  let more := (specialFails t es w e.value).map fun n => (64 + n, stOutOfRange)
  (flags ++ spare ++ out ++ more).foldl (fun a x =>
    match a with
    | some y => if x.1 < y.1 then some x else some y
    | none => some x) none

/-- Rules 1 to 4 for one entry. -/
def entryFails (t : State) (es : List Staged) (e : Staged) : Option Refuse :=
  match settingReg t.spine.variant e.setting with
  | none => some ⟨stUnknownSetting, e.index, 0⟩
  | some (_, w) =>
    if es.any fun d => d.setting == e.setting && d.index != e.index then some ⟨stDuplicateSetting, e.index, 0⟩
    else
      match offence t es w e with
      | some (n, st) => some ⟨st, n / 8, e.index⟩
      | none =>
        if e.persists && e.unpersists then some ⟨stOutOfRange, 4, e.index⟩
        else if e.persists && !w.row.persist then some ⟨stPersistDenied, e.index, 0⟩
        else none

/-! ## Rules 5 to 13: what is wrong in a configuration, and the registers involved -/

/-- A condition that a rule forbids, and the addresses of the registers it involves. -/
structure Breach where
  bad : Bool
  regs : List Nat

/-- A rule over the whole configuration: it reports the lowest index among the entries involved; 0 where none is. -/
def ruleFails (status : Nat) (es : List Staged) (bs : List Breach) : Option Refuse :=
  let broken := bs.filter fun b => b.bad
  if broken.isEmpty then none
  else
    let hit := es.filter fun e => broken.any fun b => b.regs.any fun a => settingOf a == e.setting
    some ⟨status, (hit.map fun e => e.index).foldl min (match hit with | e :: _ => e.index | [] => 0), 0⟩

def berths : List Nat := List.range 8
def pairs (n : Nat) : List (Nat × Nat) := (List.range n).flatMap fun i => (List.range i).map fun j => (j, i)

def segWord (h j : Nat) : Nat := blkBasin h + 4 * (j / 4)
def segWords : List Nat := [0, 1].flatMap fun h => (List.range 6).map fun w => blkBasin h + 4 * w
def layoutWord : Nat := blkDevice + 0x800
def regionWord : Nat := blkDevice + 0x810

/-- The words that hold the segments of a basin range; none for another range. -/
def padWords (a n : Nat) : List Nat :=
  if a < basinBase then []
  else ([0, 1].flatMap fun h => (List.range 24).filterMap fun j =>
    if overlaps a (max n 1) (basinBase + h * 0x18000000 + j * 0x01000000) 0x01000000 then some (segWord h j) else none).eraseDups

/-- A basin range lies in scratchpad segments of a berth. -/
def State.berthPad (s : State) (b a n : Nat) : Bool := decide (basinBase ≤ a) && s.scratchpadOf 0 (a - basinBase) n b

/-- A range lies in the stack range, the reach range or the scratchpad of a berth. -/
def State.berthHolds (s : State) (b a n : Nat) : Bool :=
  let x := s.berthStack 0 b
  let y := s.berthReach 0 b
  within a n x.1 x.2 || within a n y.1 y.2 || s.berthPad b a n

/-- The settings that give an item to a berth: the register, its bits where it is assigned, its berth (Table 19-1). A weir share is given
to a berth where its FLOOR is not 0: R135 does not say when one is, and this is the model's choice (notes/assumptions/53.md). -/
def State.assigned (s : State) : List (Nat × Bool × Nat) :=
  let word := fun (a bit lo : Nat) => (a, (s.regNat a).testBit bit, field (s.regNat a) (lo + 2) lo)
  let bytes := fun (a : Nat) => (List.range 4).map fun b => (a, (s.regNat a).testBit (8 * b + 7), field (s.regNat a) (8 * b + 2) (8 * b))
  (List.range 8).map (fun g => word (blkKeeper + 0x2010 + 4 * g) 31 24)
    ++ (List.range 63).map (fun h => word (histBase (h + 1)) 28 29)
    ++ (List.range 16).map (fun c => word (ctxBase (c + 1)) 31 28)
    ++ (List.range 64).map (fun a => word (blkManifest + 0x1000 + 16 * a) 31 28)
    ++ (List.range 64).flatMap (fun w => bytes (blkKeeper + 0x3F00 + 4 * w))
    ++ segWords.flatMap bytes
    ++ berths.flatMap fun b => [0x100, 0x104, 0x108].map fun o =>
        let a := blkWeirs + o + 32 * b
        (a, field (s.regNat a) 10 0 != 0, b)

def updContexts : List Nat := (List.range 16).map (· + 1)

/-- The berth that owns an assay slot (ASSAY_OWNER), or none. -/
def State.assayOwner (t : State) (n : Nat) : Option Nat :=
  let w := t.regNat (blkKeeper + 0x3F00 + 4 * (n / 4))
  if n ≠ 0 && w.testBit (8 * (n % 4) + 7) then some (field w (8 * (n % 4) + 2) (8 * (n % 4))) else none

/-- Rule 5, from the settings of `s` to those of `t`: ownership (R75, R231, R494, R515, R516). An aperture of a VF that no berth has
any more involves the berth that had the VF. -/
def State.rule5 (s t : State) : List Breach :=
  let cfg := berthCfg
  let mask := fun (o b : Nat) => t.regNat (cfg b + o)
  let off := fun b => !t.berthEnabled b
  berths.flatMap (fun b =>
      [ ⟨off b && mask 4 b != 0, [cfg b, cfg b + 4]⟩, ⟨off b && mask 8 b != 0, [cfg b, cfg b + 8]⟩
      , ⟨off b && (t.berthStack 0 b).2 != 0, [cfg b, cfg b + 0x10]⟩, ⟨off b && (t.berthReach 0 b).2 != 0, [cfg b, cfg b + 0x18]⟩ ])
    ++ (pairs 8).flatMap (fun p =>
      [ ⟨mask 4 p.1 &&& mask 4 p.2 != 0, [cfg p.1 + 4, cfg p.2 + 4]⟩, ⟨mask 8 p.1 &&& mask 8 p.2 != 0, [cfg p.1 + 8, cfg p.2 + 8]⟩
      , ⟨t.berthEnabled p.1 && t.berthEnabled p.2 && t.berthFn p.1 != 0 && t.berthFn p.1 == t.berthFn p.2, [cfg p.1, cfg p.2]⟩ ])
    ++ t.assigned.map (fun x => ⟨x.2.1 && off x.2.2, [x.1, cfg x.2.2]⟩)
    ++ (List.range 124).map (fun i =>
      let a := blkDevice + 0x1020 + 8 * i
      let w := t.reg64 a
      let mine := berths.filter fun b => t.berthEnabled b && t.berthFn b == 1 + i / 4
      ⟨w.testBit 63 && !(mine.any fun b => within (field w 39 30 * 2 ^ 30) (2 ^ 30) (t.berthStack 0 b).1 (t.berthStack 0 b).2),
        a :: berths.flatMap fun b =>
          if mine.contains b then [cfg b, cfg b + 0x10]
          else if s.berthEnabled b && s.berthFn b == 1 + i / 4 then [cfg b] else []⟩)
    ++ updContexts.flatMap (fun c =>
      let b := t.ctxBerth 0 c
      let r := t.stateRange 0 c
      let g := t.ctxStage 0 c
      let x := t.berthStack 0 b
      let y := t.berthReach 0 b
      [ ⟨t.ctxEnabled 0 c && !(within r.1 r.2 x.1 x.2 || within r.1 r.2 y.1 y.2),
          [ctxBase c, ctxBase c + 4, ctxBase c + 8, if t.regionOf r.1 = .stack then cfg b + 0x10 else cfg b + 0x18]⟩
      , ⟨t.ctxEnabled 0 c && !t.berthPad b g.1 g.2, [ctxBase c, ctxBase c + 0x10, ctxBase c + 0x18] ++ padWords g.1 g.2⟩
      , ⟨t.ctxEnabled 0 c && (match t.assayOwner (t.ctxAssay 0 c) with | some o => o != b | none => false),
          [ctxBase c, blkKeeper + 0x3F00 + 4 * (t.ctxAssay 0 c / 4)]⟩ ])

/-- Rule 6: ranges that must be disjoint (R330, R494, R588). -/
def State.rule6 (t : State) : List Breach :=
  let rs : List (Nat × Nat × List Nat) :=
    berths.flatMap (fun b => [((t.berthStack 0 b).1, (t.berthStack 0 b).2, [berthCfg b + 0x10]),
        ((t.berthReach 0 b).1, (t.berthReach 0 b).2, [berthCfg b + 0x18])])
      ++ [(t.weightRegion.1, t.weightRegion.2, [regionWord]), (t.bookRegion.1, t.bookRegion.2, [bookRegionWord])]
  let us : List (Nat × Nat × List Nat) := (updContexts.filter fun c => t.ctxEnabled 0 c).flatMap fun c =>
    [ ((t.stateRange 0 c).1, (t.stateRange 0 c).2, [ctxBase c, ctxBase c + 4, ctxBase c + 8])
    , ((t.ctxStage 0 c).1, (t.ctxStage 0 c).2, [ctxBase c, ctxBase c + 0x10, ctxBase c + 0x18]) ]
  let meet := fun (xs : List (Nat × Nat × List Nat)) => (pairs xs.length).map fun p =>
    let x := xs.getD p.1 (0, 0, [])
    let y := xs.getD p.2 (0, 0, [])
    (⟨decide (0 < x.2.1) && decide (0 < y.2.1) && overlaps x.1 x.2.1 y.1 y.2.1, x.2.2 ++ y.2.2⟩ : Breach)
  meet rs ++ meet us

/-- A reach range lies wholly in the window of one mapped socket outside the stripe, or wholly in the stripe view (R517, R588). -/
def State.reachFits (t : State) (a n : Nat) : Bool :=
  if socketBase 0 ≤ a && a < socketBase 12 then
    let i := (a - socketBase 0) / socketBytes
    decide (a + n ≤ socketBase (i + 1)) && t.reachMap.testBit i && !t.reachStripe.testBit i
  else within a n stripeBase (t.stripeMembers.length * socketBytes)

def State.socketState (s : State) (n : Nat) : SocketState := match lookup n s.panel.sockets with | some k => k.state | none => .empty

/-- Rule 7: fitted memory in service (R74, R275, R279). -/
def State.rule7 (t : State) : List Breach :=
  let top := stackBytes t.spine.variant
  let ready := fun n => [SocketState.powered, .inService, .releaseRequested].contains (t.socketState n)
  let reach := fun (r : Nat × Nat) (a : Nat) => (⟨decide (0 < r.2) && !t.reachFits r.1 r.2, [a, layoutWord]⟩ : Breach)
  let view := fun (a : Nat) => (⟨(t.reg64 a).testBit 63 && decide (top ≤ field (t.reg64 a) 39 30 * 2 ^ 30), [a]⟩ : Breach)
  berths.flatMap (fun b =>
      [ ⟨decide (top < (t.berthStack 0 b).1 + (t.berthStack 0 b).2), [berthCfg b + 0x10]⟩, reach (t.berthReach 0 b) (berthCfg b + 0x18) ])
    ++ [ ⟨decide (top < t.weightRegion.1 + t.weightRegion.2), [regionWord]⟩, reach t.bookRegion bookRegionWord ]
    ++ (List.range 63).map (fun i => view (blkDevice + 0x208 + 8 * i)) ++ (List.range 124).map (fun i => view (blkDevice + 0x1020 + 8 * i))
    ++ (List.range 12).map (fun n => ⟨t.reachMap.testBit n && !ready n, [layoutWord]⟩)
    ++ [0, 1].map fun h => ⟨t.spine.variant == .l && (List.range 4).any (fun i => (t.segByte 0 h (20 + i)).testBit 7), [segWord h 20]⟩

/-- Rule 8: weirs (R309). -/
def State.rule8 (t : State) : List Breach :=
  [0x100, 0x104, 0x108].flatMap fun o =>
    let a := fun w => blkWeirs + o + 32 * w
    let floor := fun w => field (t.regNat (a w)) 10 0
    (List.range 9).map (fun w => ⟨decide (field (t.regNat (a w)) 26 16 < floor w), [a w]⟩)
      ++ [⟨decide (1024 < ((List.range 9).map floor).sum), (List.range 9).map a⟩]

/-- Rule 9: no cut is carried by two axes. -/
def State.rule9 (t : State) : List Breach :=
  (pairs 4).map fun p =>
    let c := fun a => cutOf (t.regNat (axisWord a))
    ⟨c p.1 != 0 && c p.1 == c p.2, [axisWord p.1, axisWord p.2]⟩

/-- The coordinate that the peer of a port should have on the port's axis. -/
def onward (p w : Nat) : Nat :=
  let n := max 1 (sizeOf w)
  if p % 2 = 0 then (coordOf w + 1) % n else (coordOf w + n - 1) % n

/-- Rule 10: the peers of the ports that are up (R374). -/
def State.rule10 (t : State) : List Breach :=
  berths.map fun p =>
    let k := t.port p
    let expect := blkDevice + 0xB20 + 8 * p
    match k.identity with
    | none => ⟨false, []⟩
    | some i =>
      let odd := fun b =>
        let w := t.regNat (axisWord b)
        i.cuts.getD b 0 != cutOf w || (if b = axisOf p then i.sizes.getD b 0 != sizeOf w || i.coords.getD b 0 != onward p w
          else i.coords.getD b 0 != coordOf w)
      ⟨(k.state == 3 || k.state == 4) && !t.peerAgrees p i,
        (if t.reg64 expect != 0 && t.reg64 expect != i.serial then [expect] else []) ++ ((List.range 4).filter odd).map axisWord⟩

/-- Rule 11: formats. -/
def State.rule11 (t : State) : List Breach :=
  (List.range 63).map fun h =>
    let f := histFormat (t.histConfig (h + 1))
    ⟨f != 0 && !supportedFormats.contains f, [histBase (h + 1)]⟩

/-! ## Rule 12: what is referenced -/

/-- The open services: the berth of each, and the ranges it keeps. -/
def State.openServices (s : State) : List (Nat × List (Nat × Nat)) :=
  (s.serving.filter fun k => k.2.opened).map (fun k =>
      (k.2.berth, [(k.2.kvBase, k.2.kvPages * k.2.stride), (k.2.spanAddr, k.2.spans * k.2.recBytes)]))
    ++ (s.trains.filter fun k => k.2.opened).map (fun k => (k.2.cmd.berth, k.2.guards.filter fun r => decide (0 < r.2)))
    ++ (s.scores.filter fun k => k.2.opened && k.2.cmd.param 32 1 == 0).map fun k => (k.1, [(k.2.cmd.param 56 8, k.2.cmd.param 64 8)])

/-- A range that a record or a prompt names, where it lies in device memory. -/
def devicePlace (w n : Nat) : List (Nat × Nat) := match placeOf w with | .device a => [(a, n)] | _ => []

/-- The device ranges that manifest entries and rollout runs keep, with their berths. -/
def State.entryRanges (s : State) : List (Nat × Nat × Nat) :=
  (s.manifest.flatMap fun e => (devicePlace e.2.recordAddr 64 ++ devicePlace e.2.promptAddr (4 * e.2.promptLen)).map fun r => (e.2.berth, r))
    ++ s.serving.flatMap fun k => k.2.runs.flatMap fun r => (devicePlace r.recordBase 64 ++ devicePlace r.table 16).map fun x => (k.2.berth, x)

/-- Does a change of the reach layout take a range away or give its addresses to other bytes (R275)? -/
def State.reachMoved (s t : State) (a n : Nat) : Bool :=
  decide (0 < n) && decide (socketBase 0 ≤ a) && decide (a < basinBase)
    && (s.regionOf a != t.regionOf a || (s.regionOf a == .stripe && s.reachStripe != t.reachStripe))

/-- The reach source of a resident set or adapter. -/
def State.sourceRanges (s : State) : List (Nat × Nat) :=
  s.sets.map (fun k => (k.2.sourceAddr, s.sourceLen k.2))
    ++ s.adapters.map fun k => (k.2.sourceAddr, if k.2.source = 0 then k.2.bytes else 0)

/-- The budget accounts that entries and runs draw on. -/
def State.usedAccounts (s : State) : List Nat :=
  s.manifest.map (fun e => e.2.account) ++ s.serving.flatMap fun k => k.2.runs.map fun r => r.account

/-- A compute die is gated when every pavé and engine on it belongs to a berth of GATE_BERTHS or to none (R547), and some
berth is named there. -/
def State.dieGated (s : State) (d : Nat) : Bool :=
  let g := s.regNat (blkPower + 0x88)
  g != 0 && berths.all fun b =>
    g.testBit b || (field (s.regNat (berthCfg b + 4)) (2 * d + 1) (2 * d) == 0 && field (s.regNat (berthCfg b + 8)) (8 * d + 7) (8 * d) == 0)

/-- The berths that hold a unit of a die. -/
def State.dieBerths (s : State) (d : Nat) : List Nat :=
  berths.filter fun b => field (s.regNat (berthCfg b + 4)) (2 * d + 1) (2 * d) != 0 || field (s.regNat (berthCfg b + 8)) (8 * d + 7) (8 * d) != 0

/-- Rule 12, from the settings of `s` to those of `t` (R107, R275, R330, R492, R548). -/
def State.rule12 (s t : State) : List Breach :=
  let ranges := fun (b : Nat) (r : Nat × Nat) =>
    if basinBase ≤ r.1 then padWords r.1 r.2
    else if s.regionOf r.1 = .stack then [berthCfg b + 0x10]
    else [berthCfg b + 0x18, layoutWord]
  let range := fun (b : Nat) (r : Nat × Nat) =>
    (⟨(s.berthHolds b r.1 r.2 && !t.berthHolds b r.1 r.2) || s.reachMoved t r.1 r.2, ranges b r⟩ : Breach)
  let lost := fun (a : Nat) => s.regNat a &&& t.regNat a != s.regNat a
  let top := fun (a bits : Nat) => s.regNat a / 2 ^ bits != t.regNat a / 2 ^ bits
  let ring := fun (base log : Nat) =>
    (⟨basinRing base && !t.basinRingOk 0 base (32 * 2 ^ log) && s.basinRingOk 0 base (32 * 2 ^ log),
      padWords (basinBase + base % 2 ^ 63) (32 * 2 ^ log)⟩ : Breach)
  s.queues.flatMap (fun q =>
      [ ⟨q.1 != 0 && !t.berthBound q.2.berth q.2.fn, [berthCfg q.2.berth]⟩, ring q.2.sqBase q.2.sqLog2, ring q.2.cqBase q.2.cqLog2 ])
    ++ s.sets.map (fun k => ⟨!within k.2.base k.2.bytes t.weightRegion.1 t.weightRegion.2, [regionWord]⟩)
    ++ s.adapters.map (fun k => ⟨!within k.2.base k.2.bytes t.weightRegion.1 t.weightRegion.2, [regionWord]⟩)
    ++ s.sourceRanges.map (fun r => ⟨s.reachMoved t r.1 r.2, [layoutWord]⟩)
    ++ s.openServices.flatMap (fun k =>
      [ ⟨!t.berthEnabled k.1 || s.berthFn k.1 != t.berthFn k.1, [berthCfg k.1]⟩, ⟨lost (berthCfg k.1 + 4), [berthCfg k.1 + 4]⟩
      , ⟨lost (berthCfg k.1 + 8), [berthCfg k.1 + 8]⟩ ] ++ k.2.map (range k.1))
    ++ s.entryRanges.map (fun x => range x.1 x.2)
    ++ s.usedAccounts.map (fun a => let w := blkManifest + 0x1000 + 16 * a; ⟨top w 28, [w]⟩)
    ++ (s.trains.filter fun k => k.2.opened).flatMap (fun k =>
      let c := k.2.cmd
      let groups := c.dataGroup :: (match c.pipeGroup with | some g => (List.range 4).map (· + g) | none => [])
      let hist := c.param 62 2
      let slot := c.param 60 2
      let own := blkKeeper + 0x3F00 + 4 * (slot / 4)
      groups.map (fun g => let w := blkKeeper + 0x2010 + 4 * g; ⟨top w 0, [w]⟩)
        ++ [ ⟨hist != 0 && (top (histBase hist) 27 || histDepth (t.histConfig hist) == 0), [histBase hist]⟩
           , ⟨slot != 0 && field (s.regNat own) (8 * (slot % 4) + 7) (8 * (slot % 4))
                != field (t.regNat own) (8 * (slot % 4) + 7) (8 * (slot % 4)), [own]⟩ ]
        ++ k.2.plan.parts.flatMap fun x => [0, 4, 8, 0xC, 0x10, 0x14].map fun o =>
            let w := ctxBase x.update + o
            ⟨top w 0, [ctxBase x.update + o / 8 * 8, w]⟩)
    ++ (List.range 4).map fun d =>
        ⟨t.dieGated d && !s.dieGated d && (t.dieBerths d).any fun b => s.openServices.any fun k => k.1 == b,
          (blkPower + 0x88) :: (t.dieBerths d ++ s.dieBerths d).flatMap fun b => [berthCfg b + 4, berthCfg b + 8]⟩

/-! ## Rule 13 and CHECK -/

/-- The stored settings after a lockage (R144). -/
def keepSettings (es : List Staged) (k : List (Nat × Wide)) : List (Nat × Wide) :=
  es.foldl (fun k e =>
    if e.persists then insert e.setting (BitVec.ofNat 64 e.value) k else if e.unpersists then erase e.setting k else k) k

def State.rule13 (s : State) (es : List Staged) : List Breach :=
  [⟨decide (178 < (keepSettings es s.keepsake.settings).length), (es.filter fun e => e.persists).map fun e => 0x02000000 + e.setting⟩]

/-- CHECK (R135): the first failing rule. At the restore of R147 rule 10 does not apply. -/
def State.checkFails (s : State) (es : List Staged) (rule10 : Bool) : Option Refuse :=
  let t := s.lay es
  match es.findSome? (entryFails t es) with
  | some r => some r
  | none =>
    [ (stBerthOwnership, s.rule5 t), (stAddressOverlap, t.rule6), (stCapacityExceeded, t.rule7), (stWeirSum, t.rule8)
    , (stAxisConflict, t.rule9), (stTorusMismatch, if rule10 then t.rule10 else []), (stFormatUnsupported, t.rule11)
    , (stResourceReferenced, s.rule12 t), (stPersistFull, s.rule13 es) ].findSome? fun r => ruleFails r.1 es r.2

/-! ## The chamber (R130-R133) -/

def State.chamberTo (s : State) (k : ChamberState) : State :=
  { s with chamber := { s.chamber with state := k, checkedEpoch := if k = .checked then s.chamber.checkedEpoch else 0 } }

/-- The chamber becomes EMPTY: every entry reads as zero. -/
def State.emptyChamber (s : State) : State := ({ s with chamber := { s.chamber with words := [] } }).chamberTo .empty

/-- Words written into the chamber from word k; any check is void. -/
def State.putChamber (s : State) (k : Nat) : List Word → State
  | [] => s.chamberTo .opened
  | w :: ws =>
    let words := if w = 0 then erase k s.chamber.words else insert k w s.chamber.words
    ({ s with chamber := { s.chamber with words := words } }).putChamber (k + 1) ws

/-- A write of a word of the staging window (R131). Each 32-bit word takes effect at once, also of an entry's 64-bit VALUE; so do the ring
bases of HELLO_REQUEST: R8 speaks of 64-bit registers only, and this is the model's choice (notes/assumptions/48.md). -/
def State.stageWord (s : State) (fn off : Nat) (v : Word) : State :=
  if s.chamber.state = .committing then s.logDiscard fn (0x100000 + off) else s.putChamber (off / 4) [v]

/-- STAGE. -/
def State.stageEntries (s : State) (c : Cmd) : State :=
  if s.chamber.state = .committing then s.finish c.ref { status := stChamberState }
  else
    (s.putChamber (4 * c.param 32 2) ((List.range (4 * c.param 34 1)).map fun i => BitVec.ofNat 32 (c.param (40 + 4 * i) 4))).finish c.ref {}

def execStage (c : CmdRef) (hv : HostView) (s : State) : Host.Outcome State Fault Refusal :=
  runs (fun s => (s.sees hv).start 0x1000 c fun k s => s.stageEntries k) s

/-- CHECK (R136): it changes no setting. LAST_CHECK keeps the status and the entry. -/
def State.check (s : State) (c : Cmd) : State :=
  if s.chamber.state = .committing then s.finish c.ref { status := stChamberState }
  else
    match s.checkFails s.chamber.entries true with
    | none =>
      let e := s.spine.epoch.toNat
      let k := { s.chamber with state := ChamberState.checked, checkedEpoch := e, lastStatus := 0, lastEntry := 0 }
      ({ s with chamber := k, checkedAt := s.commitCount }).finish c.ref { result0 := e }
    | some r =>
      let entry := if classOf r.status = 1 then r.result1 else r.detail
      let k := { s.chamber with state := ChamberState.opened, checkedEpoch := 0, lastStatus := r.status, lastEntry := entry }
      ({ s with chamber := k }).finish c.ref { status := r.status, detail := r.detail, result1 := r.result1 }

def execCheck (c : CmdRef) (hv : HostView) (s : State) : Host.Outcome State Fault Refusal :=
  runs (fun s => (s.sees hv).start 0x1001 c fun k s => s.check k) s

/-- COMMIT (R138, R139): the settings go to the pending sets, and the commit waits for its instant. -/
def State.commit (s : State) (c : Cmd) : State :=
  if s.chamber.state ≠ .checked then s.finish c.ref { status := stChamberState }
  else if s.commitCount ≠ s.checkedAt then (s.chamberTo .opened).finish c.ref { status := stStaleCheck }
  else
    let w : WaitingCommit :=
      ⟨.host c.ref, s.chamber.entries.map fun (e : Staged) => (e.setting, e.flags, (BitVec.ofNat 64 e.value : Wide))⟩
    let t := { s with chamber := { s.chamber with state := .committing }, commits := s.commits ++ [w] }
    t.running c.ref

def execCommit (c : CmdRef) (hv : HostView) (s : State) : Host.Outcome State Fault Refusal :=
  runs (fun s => (s.sees hv).start 0x1002 c fun k s => s.commit k) s

/-- A COMMIT ends before its instant: the settings are withdrawn and the chamber is CHECKED again (R139). -/
def State.withdrawCommit (s : State) (r : CmdRef) : State :=
  (s.withdraw (.host r)).chamberTo .checked

def execAbandon (c : CmdRef) (hv : HostView) (s : State) : Host.Outcome State Fault Refusal :=
  runs (fun s => (s.sees hv).start 0x1003 c fun k s =>
    if s.chamber.state = .committing then s.finish k.ref { status := stChamberState } else s.emptyChamber.finish k.ref {}) s

/-! ## What a granted commit of entries does -/

/-- Basin segments whose use or berth changed start their change (R283). -/
def State.commitSegs (s old : State) : State :=
  ([0, 1].flatMap fun h => (List.range 24).map fun j => (h, j)).foldl (fun (t : State) x =>
    let b := old.segByte 0 x.1 x.2
    if segUse b != segUse (s.segByte 0 x.1 x.2) then t.beginSegChange x.1 x.2 b else t) s

/-- Scale-history slots whose settings changed (R204). -/
def State.commitHistory (s old : State) : State :=
  ((List.range 63).map (· + 1)).foldl (fun (t : State) h =>
    let a := old.histConfig h
    let b := s.histConfig h
    if histFormat a != histFormat b then t.histReset h
    else if histDepth a != histDepth b || field a 26 25 != field b 26 25 || field a 7 0 != field b 7 0 then t.histRecompute h
    else t) s

/-- A socket enters service. A module that replaced a lost one is unwritten then (R93, R304). -/
def State.socketServes (s : State) (n : Nat) : State :=
  let k := s.socket n
  let t := s.putSocket n { k with state := .inService, stale := false }
  if k.stale then { t with mem := t.mem.forget (socketBase n) socketBytes } else t

/-- Sockets that enter and leave the layout (R93, R277). `named`: the chamber holds a REACH_LAYOUT entry. -/
def State.commitSockets (s old : State) (named : Bool) : State :=
  (List.range 12).foldl (fun (t : State) n =>
    let k := t.socket n
    let put := t.putSocket n
    let was := old.reachMap.testBit n
    if s.reachMap.testBit n then
      if !was || (named && k.state == .powered) then t.socketServes n else t
    else if was && k.state == .inService then put { k with state := .powered }
    else t) s

/-- The link sensors of ports that a commit puts into LOOPBACK or takes out of it (R84, R367). -/
def State.commitSensors (s old : State) : State :=
  (List.range 8).foldl (fun (t : State) p => t.sensorChange (16 + p) (old.portSensor p) (s.portSensor p)) s

/-- Ports meet the new torus settings, partitions and expected serials (R372, R373, R385). -/
def State.commitPorts (s old : State) : State :=
  let ports := List.range 8
  let word := fun a => old.reg a != s.reg a
  let moved := fun p => (List.range 15).filter fun v => word (vcDedicated p v)
  let torus := (List.range 4).any (fun a => word (axisWord a)) || (List.range 16).any fun i => word (blkDevice + 0xB20 + 4 * i)
  if !torus && ports.all fun p => (moved p).isEmpty then s
  else
    ports.foldl (fun (t : State) p =>
      let k := t.port p
      if k.state = 3 || k.state = 4 then
        ((t.updPort p fun k => { k with repartition := (k.repartition ++ moved p).eraseDups }).sendIdent p 1).judgeLink p
      else t) s

/-- Units that a berth takes over clear their banks first (R260). -/
def State.commitUnits (s old : State) : State :=
  let owner := fun (u : State) (o n : Nat) => berths.find? fun b => (u.regNat (berthCfg b + o)).testBit n
  let came := fun o n => (owner s o n).isSome && owner s o n != owner old o n
  let us := ((List.range 8).filter (came 4)).map (· + 1) ++ ((List.range 32).filter (came 8)).map (· + 0x10)
  { s with clears := (s.clears ++ us).eraseDups }

/-- Update contexts whose LANE, ALGO, BLOCKS or STATE_ADDR changed lose their state (R493). -/
def State.commitContexts (s old : State) : State :=
  updContexts.foldl (fun (t : State) c =>
    let lost := field (old.ctxCfg 0 c) 27 24 != field (s.ctxCfg 0 c) 27 24 || old.ctxBlocks 0 c != s.ctxBlocks 0 c
      || old.ctxState 0 c != s.ctxState 0 c
    if lost then (t.loseState c).setCtxBit c 30 true else t) s

/-- A commit of entries is granted (R137-R141, R144): the epoch rises, the keepsake write is made where an entry asks for one,
and the units act on what changed. -/
def State.commitEntries (s : State) (es : List Staged) (service : Bool) : State :=
  let t := s.commitEpoch (es.flatMap (Staged.words s.spine.variant))
  let t := if es.any fun e => e.persists || e.unpersists then
      t.ksWrite fun k => { k with settings := keepSettings es k.settings }
    else t
  let named := es.any fun e => e.setting == settingOf layoutWord
  let t := ((((((t.commitSegs s).commitHistory s).commitSockets s named).commitUnits s).commitContexts s).commitSensors s).commitPorts s
  (t.raise evLock (bit service)).record 0 6 0 (es.flatMap Staged.bytes)

/-- The entries of a waiting host commit. -/
def WaitingCommit.entries (w : WaitingCommit) : List Staged :=
  (List.range w.settings.length).map fun i =>
    let x := w.settings.getD i (0, 0, 0)
    ⟨i, x.1, x.2.1, x.2.2.toNat⟩

/-- The commit instant of a COMMIT: it completes with the new epoch in RESULT0, and the chamber is EMPTY. Where another commit was
granted while it waited, its check is stale (R138). -/
def State.hostCommit (s : State) (r : CmdRef) (w : WaitingCommit) : State :=
  if s.commitCount ≠ s.checkedAt then (s.chamberTo .opened).finish r { status := stStaleCheck }
  else
    let t := (s.commitEntries w.entries false).emptyChamber
    t.finish r { result0 := t.spine.epoch.toNat }

/-! ## The restore at power-on (R147) -/

/-- Leaves out failing records until the check passes: the entries restored and those left out. -/
def State.restorable (s : State) : Nat → List Staged → List Staged → List Staged × List Staged
  | 0, es, out => (es, out)
  | n + 1, es, out =>
    match s.checkFails es false with
    | none => (es, out)
    | some r =>
      let i := if classOf r.status = 1 then r.result1 else r.detail
      match es.find? fun e => e.index == i with
      | some e => s.restorable n (es.filter fun d => d.index != i) (out ++ [e])
      | none => match es with | e :: rest => s.restorable n rest (out ++ [e]) | [] => ([], out)

/-- The stored settings are laid over the reset values; records left out stay in keepsake and are logged. The record's UNIT is the lockage
block and its DETAIL the setting: R147 gives neither, and this is the model's choice (notes/assumptions/52.md). -/
def State.restoreSettings (s : State) : State :=
  let ks := s.keepsake.settings
  let es := (List.range ks.length).map fun i => let k := ks.getD i (0, 0); (⟨i, k.1, 0, k.2.toNat⟩ : Staged)
  let r := s.restorable (ks.length + 1) es []
  let t := (s.lay r.1).setNat (blkLockage + 0x18) (min r.2.length 255 * 2 ^ 8)
  let t := r.2.foldl (fun (t : State) e => t.logEvent { cause := 0x0105, cls := 2, unit := 0x70, detail := e.setting }) t
  if r.2.isEmpty then t else t.raise evLock 2

end Sys2Proof.Machine
end

