-- ==== Sys2Proof/Machine/Turns.lean ====
section
/-! DEFINITION. Turns, berths and pre-emption (chapter 19): the step arbiter, PREEMPT, TURN with its pieces and phases, SCORE. -/

namespace Sys2Proof.Machine

open Sys2Proof

def stTurnFailed : Nat := 0x8121
def stTurnAbandoned : Nat := 0x8122
def stScorePartial : Nat := 0x8131

def turnReg (svc off : Nat) : Nat := blkKeeper + 0x3200 + 32 * svc + off

/-! ## The step arbiter (R518, R519) -/

/-- A service of a berth as the arbiter sees it: kind as BERTH_STATUS gives it, number, SHARE, steps run in this round, whether a
step of it is ready, whether one is in progress. -/
structure Runner where
  kind : Nat
  num : Nat
  share : Nat
  round : Nat
  ready : Bool
  busy : Bool
  deriving DecidableEq, Repr

/-- Nothing holds the steps of a score service in a berth (R88, R142, R312, R553): its state is the range that SCORE_OPEN gave. -/
def State.berthRuns (s : State) (b : Nat) (k : Score) : Bool :=
  !s.panel.hold && !s.power.quiesced && !s.power.quiescedBerths.testBit b
    && !(s.berthUnits 0 b ++ [Need.range (k.cmd.param 56 8) (k.cmd.param 64 8)]).any (s.withheldFrom s.spine.epoch.toNat b)

def State.runners (s : State) (b : Nat) : List Runner :=
  (s.serving.filter fun k => k.2.opened && k.2.berth == b).map (fun k =>
      (⟨1, k.1, k.2.share, k.2.round,
        !s.stepsHeld k.1 k.2 && (s.entriesOf k.1).any (fun e => 2 ≤ e.2.state && e.2.ending.isNone), k.2.step.isSome⟩ : Runner))
    ++ (s.trains.filter fun k => k.2.opened && k.2.cmd.berth == b).map (fun k =>
      (⟨2, k.1, k.2.share, k.2.round, s.trainMayStart k.2, k.2.phase != .idle⟩ : Runner))
    ++ (s.scores.filter fun k => k.2.opened && k.1 == b).map fun k =>
      (⟨3, k.1, k.2.share, k.2.round, !k.2.parked && s.berthRuns b k.2, false⟩ : Runner)

/-- A new round of a berth: no service has run a step in it. -/
def State.newRound (s : State) (b : Nat) : State :=
  { s with
    serving := s.serving.map fun k => if k.2.berth = b then (k.1, { k.2 with round := 0 }) else k,
    trains := s.trains.map fun k => if k.2.cmd.berth = b then (k.1, { k.2 with round := 0 }) else k,
    scores := s.scores.map fun k => if k.1 = b then (k.1, { k.2 with round := 0 }) else k }

/-- May a service start a step: no other service of the berth is in one, and its share of the round is not used up while another
ready one has steps left. -/
def State.turnOf (s : State) (b kind num : Nat) : Option State :=
  let rs := s.runners b
  let me := fun (r : Runner) => r.kind == kind && r.num == num
  if rs.any fun r => r.busy && !me r then none
  else
    match rs.find? me with
    | none => none
    | some r =>
      if r.round < r.share then some s
      else if rs.any fun x => !me x && x.ready && decide (x.round < x.share) then none
      else some (s.newRound b)

def State.occupy (s : State) (b kind num : Nat) : State := { s with occupants := insert b (kind, num) s.occupants }

/-- STEP_BUILD: the boundary's endings, then the next step where the arbiter grants it. -/
def State.serveStep (s : State) (n : Nat) : State :=
  match lookup n s.serving with
  | none => s
  | some k =>
    if !k.opened || k.step.isSome then s
    else
      match s.turnOf k.berth 1 n with
      | none => (s.boundary n).closeIfDone n
      | some t =>
        let t := t.stepBuild n
        match lookup n t.serving with
        | some j => if j.step.isSome then (t.updServing n fun j => { j with round := j.round + 1 }).occupy k.berth 1 n else t
        | none => t

def execStepBuild (svc now : Nat) (hv : HostView) (s : State) : Host.Outcome State Fault Refusal :=
  runs (fun s => ((s.at now).sees hv).serveStep svc) s

/-- TRAIN_STEP_START: a training step begins where the arbiter grants it; in IDLE the device wakes first (R545). -/
def State.trainStepStart (s : State) (n : Nat) : State :=
  match lookup n s.trains with
  | none => s
  | some k =>
    if !s.trainMayStart k then s
    else
      match s.turnOf k.cmd.berth 2 n with
      | none => s
      | some t =>
        (t.actFor s.spine.epoch.toNat k.cmd.berth).onRing fun t => (t.trainStart n).occupy k.cmd.berth 2 n

def execTrainStepStart (t now : Nat) (hv : HostView) (s : State) : Host.Outcome State Fault Refusal :=
  runs (fun s => ((s.at now).sees hv).trainStepStart t) s

/-! ## PREEMPT (R521-R523) -/

def State.updScore (s : State) (b : Nat) (f : Score → Score) : State :=
  match lookup b s.scores with
  | some k => { s with scores := insert b (f k) s.scores }
  | none => s

/-- Is a service of a kind open in a berth? A score service bears its berth's number (notes/assumptions/22.md). -/
def State.serviceOpen (s : State) (kind n b : Nat) : Bool :=
  if kind = 0 then match lookup n s.serving with | some k => k.opened && k.berth == b | none => false
  else if kind = 1 then match lookup n s.trains with | some k => k.opened && k.cmd.berth == b | none => false
  else match lookup n s.scores with | some k => k.opened && n == b | none => false

/-- PARK, RESUME and SHARE act on a service's parked flag and share; PARK of one in a step waits for the step's end. -/
def State.park (s : State) (kind n : Nat) (c : Cmd) : State :=
  let wait := (c.ref, s.now)
  if kind = 0 then
    match lookup n s.serving with
    | some k =>
      if k.parked || k.step.isNone then (s.updServing n fun k => { k with parked := true }).finish c.ref {}
      else (s.running c.ref).updServing n fun k => { k with parking := k.parking ++ [wait] }
    | none => s
  else if kind = 1 then
    match lookup n s.trains with
    | some k =>
      if k.parked || k.phase = .idle then (s.updTrain n fun k => { k with parked := true }).finish c.ref {}
      else (s.running c.ref).updTrain n fun k => { k with parking := k.parking ++ [wait] }
    | none => s
  else (s.updScore n fun k => { k with parked := true }).finish c.ref {}

def State.resume (s : State) (kind n : Nat) : State :=
  if kind = 0 then s.updServing n fun k => { k with parked := false }
  else if kind = 1 then s.updTrain n fun k => { k with parked := false }
  else s.updScore n fun k => { k with parked := false }

def State.share (s : State) (kind n v : Nat) : State :=
  if kind = 0 then s.updServing n fun k => { k with share := v }
  else if kind = 1 then s.updTrain n fun k => { k with share := v }
  else s.updScore n fun k => { k with share := v }

def State.preempt (s : State) (c : Cmd) : State :=
  let kind := c.param 32 1
  let n := c.param 33 1
  if !s.serviceOpen kind n c.berth then s.refuse c stOutOfRange 33
  else if c.param 34 1 = 0 then s.park kind n c
  else if c.param 34 1 = 1 then (s.resume kind n).finish c.ref {}
  else if c.param 34 1 = 2 then (s.share kind n (c.param 35 1)).finish c.ref {}
  else if kind = 0 && (match lookup n s.turns with | some t => t.failing.isNone | none => false) then
    (s.failTurn n stAborted true).finish c.ref {}
  else s.finish c.ref { status := stNotFound }

def execPreempt (c : CmdRef) (hv : HostView) (s : State) : Host.Outcome State Fault Refusal :=
  runs (fun s => (s.sees hv).start 0x8001 c fun k s => s.preempt k) s

/-! ## Pieces (Table 19-6, R526) -/

def readPiece (e : List Byte) : Piece :=
  { dest := fieldAt e 0 4 / 256, layer := fieldAt e 4 2, tensor := fieldAt e 6 2, master := fieldAt e 8 1 == 1, fmt := fieldAt e 9 1,
    plan := fieldAt e 10 2, srow := fieldAt e 12 4, scol := fieldAt e 16 4, rows := fieldAt e 20 4, cols := fieldAt e 24 4,
    drow := fieldAt e 28 4, dcol := fieldAt e 32 4 }

def Piece.bytes (x : Piece) : List Byte :=
  leBytes 4 (x.dest * 256) ++ leBytes 2 x.layer ++ leBytes 2 x.tensor ++ leBytes 1 (bit x.master) ++ leBytes 1 x.fmt ++ leBytes 2 x.plan
  ++ leBytes 4 x.srow ++ leBytes 4 x.scol ++ leBytes 4 x.rows ++ leBytes 4 x.cols ++ leBytes 4 x.drow ++ leBytes 4 x.dcol ++ zeros 12

/-- Reserved bits of an entry are zero, SOURCE and FMT are known, ROWS and COLS are not 0. -/
def pieceFormFails (e : List Byte) : Bool :=
  fieldAt e 0 1 != 0 || (slice e 36 12).any (· != 0) || decide (1 < fieldAt e 8 1) || !tensorFormat (fieldAt e 9 1)
    || fieldAt e 20 4 == 0 || fieldAt e 24 4 == 0

/-- Does the pavés' B layout hold a plan tensor (R160, R529)? -/
def PlanTensor.projection (t : PlanTensor) : Bool := if t.layer = 0xFFFF then t.code == 2 else t.code != 8 && t.code != 9

/-- The tensor of a descriptor that a piece names, where its rectangle lies in it. -/
def Piece.target (x : Piece) (m : Model) : Option Tensor :=
  match m.tensor x.layer x.tensor with
  | some t => if t.fmt = x.fmt && decide (x.drow + x.rows ≤ t.k) && decide (x.dcol + x.cols ≤ t.n) then some t else none
  | none => none

/-- The first element and the end of this member's shard of a plan tensor. -/
def State.shardOf (s : State) (k : Train) (t : PlanTensor) : Nat × Nat :=
  let n := t.k * t.n / s.dataSize k.cmd
  (s.dataMember k.cmd * n, (s.dataMember k.cmd + 1) * n)

/-- Is a piece entry bad (R526)? -/
def State.pieceFails (s : State) (k : Train) (m : Model) (e : List Byte) : Bool :=
  let x := readPiece e
  pieceFormFails e ||
  match k.plan.tensors[x.plan]? with
  | none => true
  | some t =>
    let sh := s.shardOf k t
    t.layer != x.layer || t.code != x.tensor
      || decide (t.k < x.srow + x.rows) || decide (t.n < x.scol + x.cols)
      || decide (x.srow * t.n + x.scol < sh.1) || decide (sh.2 < (x.srow + x.rows - 1) * t.n + x.scol + x.cols)
      || (!x.master && x.fmt != t.fmt)
      || (t.projection
        && (!((x.srow % 32 == 0 && x.drow % 32 == 0 && x.rows % 32 == 0) || x.srow + x.rows == t.k)
          || !((x.dcol % 512 == 0 && x.cols % 512 == 0) || x.scol + x.cols == t.n)))
      || (x.dest == s.ownRoute && (x.target m).isNone)

/-! ## Forming a piece (R527) -/

/-- What a piece carries: its elements row by row, then its MX scales; which body bytes are poisoned, and which of its reads failed, and
how. -/
structure PieceData where
  body : List Byte
  poison : List (Nat × Nat)
  lost : List (Nat × Nat)
  failed : Option Nat
  deriving DecidableEq, Repr

/-- The live master of element i of a member's shard; where this member does not own its block, or the tensor has none, the spec
gives no value. -/
def State.pieceMaster (s : State) (k : Train) (t : PlanTensor) (lo i draw : Nat) : Fp :=
  let p := k.plan.part t.part
  let b := t.block0 + (lo + i) / 64
  if t.part = 0xFF || b / max 1 p.blocks ≠ s.dataMember k.cmd then ofF32 (Config.freeWord draw i)
  else s.masterAt 0 p.update (64 * (b % max 1 p.blocks) + (lo + i) % 64) (s.liveSlotOf (s.ctxLane 0 p.update))

/-- A piece's bytes from the live slot of the training service's lane. -/
def State.formPiece (s : State) (k : Train) (x : Piece) (draw : Nat) : PieceData :=
  match k.plan.tensors[x.plan]? with
  | none => ⟨[], [], [], none⟩
  | some t =>
    let p := k.plan.part t.part
    let sh := s.shardOf k t
    let n := sh.2 - sh.1
    let j := s.liveSlotOf (s.ctxLane 0 p.update)
    let base := if t.part = 0xFF then t.shard else s.narrowAt k.cmd k.plan t j
    let first := fun r => (x.srow + r) * t.n + x.scol - sh.1
    let rows := List.range x.rows
    let blocks := fun r => (List.range (((first r + x.cols - 1) / 32 + 1) - first r / 32)).map fun i => first r / 32 + i
    let master := fun i => s.pieceMaster k t sh.1 i draw
    let converted := fun b => writeMx x.fmt ((List.range 32).map fun i => master (32 * b + i))
    let e := storeBits x.fmt
    let pattern := fun i =>
      if !x.master then s.patternAt t.fmt base (i * storeBits t.fmt)
      else if isMx x.fmt then ((converted (i / 32)).2.getD (i % 32) ⟨0, false, false, false⟩).bits
      else (convertTo x.fmt (master i)).bits
    let scale := fun b => if x.master then (converted b).1 else s.natAt (scalesAfter t.fmt base n + b) 1
    let data := packElems x.fmt (rows.flatMap fun r => (List.range x.cols).map fun c => pattern (first r + c))
    let scales := if isMx x.fmt then rows.flatMap fun r => (blocks r).map fun b => BitVec.ofNat 8 (scale b) else []
    let reads := fun r =>
      if x.master then
        if t.part = 0xFF then []
        else (blocks r).map fun b =>
          (s.blockAddr 0 p.update ((t.block0 + (sh.1 + 32 * b) / 64) % max 1 p.blocks) j, 256)
      else (base + first r * e / 8, elemsBytes x.fmt x.cols + 1)
        :: (if isMx x.fmt then [(scalesAfter t.fmt base n + first r / 32, (blocks r).length)] else [])
    let bad := rows.filterMap fun r => (s.rangesStatus (reads r)).map fun st => (r, st)
    ⟨data ++ scales, bad.map fun b => (b.1 * x.cols * e / 8, elemsBytes x.fmt x.cols + 1), bad.flatMap fun b => reads b.1,
      bad.foldl (fun a b => worse a (some b.2)) none⟩

/-! ## Placing a piece (R529) -/

/-- Writes an element pattern at a bit offset from a device address. -/
def State.putPattern (s : State) (code base off w : Nat) : State :=
  if code = 0x0A then
    let old := s.natAt (base + off / 8) 1
    let low := if off % 8 = 0 then w % 16 else old % 16
    let high := if off % 8 = 0 then old / 16 else w % 16
    s.writeMem (base + off / 8) [BitVec.ofNat 8 (low + 16 * high)]
  else s.writeMem (base + off / 8) (leBytes (storeBits code / 8) w)

/-- The bit offset of element (r, c) from a tensor's base: R160 for the B layout, else row-major. -/
def Tensor.bitAt (t : Tensor) (r c : Nat) : Nat :=
  if t.projection then
    8 * 262144 * (c / 512 * ceilDiv t.k (max 1 (tileOf t.fmt)) + r / max 1 (tileOf t.fmt)) + layoutB t.fmt r c
  else (r * t.n + c) * storeBits t.fmt

/-- Writes the MX scales of a piece: row-major tensors keep them by blocks of 32 elements, as the piece carries them; in the B
layout a scale belongs to 32 rows of a column, which no rule derives from them (notes/assumptions/22.md). -/
def State.placeScales (s : State) (base : Nat) (t : Tensor) (x : Piece) (scales : List Byte) (draw : Nat) : State :=
  let kt := max 1 (tileOf t.fmt)
  if !isMx t.fmt then s
  else if t.projection then
    (List.range ((x.rows + 31) / 32)).foldl (fun (u : State) q => (List.range x.cols).foldl (fun (u : State) j =>
      let r := x.drow + 32 * q
      let c := x.dcol + j
      let a := base + t.scaleOffset + kt / 32 * 512 * (c / 512 * ceilDiv t.k kt + r / kt) + layoutBScale t.fmt r c
      u.writeMem a [Config.freeByte draw a]) u) s
  else
    let per := scales.length / max 1 x.rows
    (List.range scales.length).foldl (fun (u : State) i =>
      u.writeMem (base + t.scaleOffset + ((x.drow + i / max 1 per) * t.n + x.dcol) / 32 + i % max 1 per) [scales.getD i 0]) s

/-- A piece that no tensor of the new set takes: discarded and counted. -/
def State.stalePiece (s : State) (svc : Nat) : State := (s.sat32 (turnReg svc 0x1C) 1).raise evTurn 2

/-- Places a piece's bytes into the new set, whole sectors at a time, and poison where it carried it. -/
def State.placePiece (s : State) (svc : Nat) (t : Turn) (x : Piece) (body : List Byte) (poison : List (Nat × Nat)) : State :=
  match (t.model.bind x.target), t.model with
  | some d, some _ =>
    let base := t.cmd.param 80 8
    let n := x.rows * x.cols
    let data := elemsBytes x.fmt n
    let e := storeBits x.fmt
    let place := fun i => base + d.offset + d.bitAt (x.drow + i / x.cols) (x.dcol + i % x.cols) / 8
    let units := ((List.range n).flatMap fun i => s.unitsOf (place i) 1).dedup
    let out := fun u => !units.contains u
    let s0 := { s with mem := { s.mem with poison := s.mem.poison.filter out, bad := s.mem.bad.filter out, lost := s.mem.lost.filter out } }
    let s1 := (List.range n).foldl (fun (u : State) i =>
      let w := fieldAt body (i * e / 8) (max 1 (e / 8)) / 2 ^ (i * e % 8) % 2 ^ e
      u.putPattern x.fmt (base + d.offset) (d.bitAt (x.drow + i / x.cols) (x.dcol + i % x.cols)) w) s0
    let dr := s1.draw
    let s2 := dr.2.placeScales base d x (body.drop data) dr.1
    let bad := (List.range n).filter fun i => poison.any fun r => overlaps (i * e / 8) (max 1 (e / 8)) r.1 r.2
    let s3 := bad.foldl (fun (u : State) i => u.poisonRange (place i) 1) s2
    (s3.updTurn svc fun t => { t with placed := t.placed + body.length, poisoned := t.poisoned || !bad.isEmpty }).add64
      (turnReg svc 8) body.length
  | _, _ => s.stalePiece svc

/-- TURN_PIECE: a piece that has come on a port is placed by the turn in TRANSFER that bears its TURN_ID; one of a turn that has
ended is discarded; one that comes early waits in its receive slots. Turn traffic is weir 8's (R533). -/
def State.turnPiece (s : State) (p : Nat) : State :=
  let id := fun (t : Nat × Turn) => t.2.cmd.param 40 4
  let live := fun (m : Msg) => s.turns.find? fun t => id t == m.context
  let ended := fun (m : Msg) => (List.range 8).find? fun n => s.regNat (turnReg n 4) == m.context
  match (s.port p).inbox.find? fun m => m.cls == 0x1101
      && (match live m with | some t => t.2.phase == 3 && t.2.failing.isNone | none => (ended m).isSome) with
  | none => s
  | some m =>
    let u := s.consume p m
    match live m with
    | some t =>
      if pieceFormFails m.body || m.body.length < 48 then u.stalePiece t.1
      else ({ u with acting := .idle } : State).placePiece t.1 t.2 (readPiece m.body) (m.body.drop 48) (m.poison.map fun r => (r.1 - 48, r.2 - (48 - r.1)))
    | none => u.stalePiece ((ended m).getD 0)

def execTurnPiece (p now : Nat) (s : State) : Host.Outcome State Fault Refusal := runs (fun s => (s.at now).turnPiece p) s

/-- Sends piece number i of a turn, or places it here (R528). -/
def State.sendPiece (s : State) (svc : Nat) (k : Train) (i : Nat) (x : Piece) : State :=
  match lookup svc s.turns with
  | none => s
  | some t =>
    let d := ({ s with acting := .idle } : State).draw
    let f := d.2.formPiece k x d.1
    let t1 := match f.failed with | some st => (d.2.noteRanges 1 f.lost).failTurn svc st false | none => d.2
    if x.dest = s.ownRoute then t1.placePiece svc t x f.body f.poison
    else
      match s.routePort x.dest with
      | none => t1.failTurn svc stLinkDown false
      | some p =>
        let vc := s.nextVc none (10 + i % 2) p
        if !s.carries p vc then t1.failTurn svc stLinkDown false
        else
          let r := t1.sendMessage p vc x.dest 0x1101 (t.cmd.param 40 4) 0 (x.bytes ++ f.body) (f.poison.map fun q => (q.1 + 48, q.2))
          r.1.updTurn svc fun t => { t with sent := t.sent ++ [r.2] }

/-! ## TURN (R524, R525) -/

/-- Row 1 of Table 19-5. -/
def State.turnFails (s : State) (c : Cmd) : List (Option Refuse) :=
  let gen := c.param 32 1 = 0
  let zero := fun off => refuseIf (!gen && c.param off 8 != 0) stOutOfRange off
  let range := fun (a n off : Nat) => if gen && n != 0 then refuseRange (s.rangeOf c a n false) off else none
  [ refuseIf (!s.serviceOpen 0 (c.param 33 1) c.berth) stOutOfRange 33
  , refuseIf (c.param 34 1 != 0xFF && !s.serviceOpen 1 (c.param 34 1) c.berth) stOutOfRange 34
  , refuseIf (c.param 38 1 != 0xFF && !s.groupEnabled c.epoch (c.param 38 1)) stOutOfRange 38
  , refuseIf (!gen && c.param 50 2 != 0) stOutOfRange 50, refuseIf (!gen && c.param 52 4 != 0) stOutOfRange 52
  , zero 56, zero 64, zero 72, zero 80, zero 88, zero 96
  , refuseIf (gen && c.param 80 8 % 0x8000 != 0) stOutOfRange 80
  , refuseIf (gen && (c.param 88 8 % 0x8000 != 0 || c.param 88 8 == 0)) stOutOfRange 88
  , range (c.param 64 8) (48 * c.param 52 4) 64, range (c.param 96 8) 64 96
  , if c.param 106 2 = 0 then none else refuseRange (s.rangeOf c (c.param 112 8) (16 * c.param 106 2) false) 112 ]

/-- The set slots that services other than a serving service, and score services, name. -/
def State.namedElsewhere (s : State) (svc w : Nat) : Bool :=
  (s.serving.any fun k => k.1 != svc && (k.2.set == w || k.2.draftSet == some w))
    || s.scores.any fun k => k.2.cmd.param 32 1 == 0 && k.2.cmd.param 33 1 == w

/-- The dimensions that a turn may not change. -/
def sameShape (a b : Model) : Bool :=
  a.layers == b.layers && a.heads == b.heads && a.kvHeads == b.kvHeads && a.headDim == b.headDim && a.hidden == b.hidden
    && a.ffn == b.ffn && a.vocab == b.vocab && a.experts == b.experts && a.topExperts == b.topExperts

/-- The further entries of a turn that are not empty. -/
def State.turnEntries (s : State) (c : Cmd) : List Staged :=
  ((List.range (c.param 106 2)).map fun i => stagedOf i (s.bytesAt (c.param 112 8 + 16 * i) 16)).filter fun e => e.setting != 0

/-- Rows 2 to 6 of Table 19-5, in that order. -/
def State.turnRefusal (s : State) (c : Cmd) (k : Serving) : Option Refuse :=
  let gen := c.param 32 1 = 0
  let table := (List.range (c.param 52 4)).map fun i => s.bytesAt (c.param 64 8 + 48 * i) 48
  let m := s.readModel (c.param 96 8)
  let dropping := match lookup k.set s.sets with | some x => x.state == 4 | none => false
  if dropping || (lookup (c.param 33 1) s.turns).isSome || (gen && (lookup (c.param 37 1) s.sets).isSome) || s.namedElsewhere (c.param 33 1) k.set then
    some ⟨stResourceInUse, 0, 0⟩
  else if gen && s.overlapFails (c.param 80 8) (c.param 88 8) then some ⟨stAddressOverlap, 0, 0⟩
  else
    match (if gen then s.modelFails (c.param 96 8) k.kvFmt (c.param 88 8) else none) with
    | some i => some ⟨stOutOfRange, 0, i⟩
    | none =>
      if gen && !sameShape m k.model then some ⟨stOutOfRange, 96, 0⟩
      else
        let bad := (List.range table.length).find? fun i =>
          match lookup (c.param 34 1) s.trains with
          | some tr => s.pieceFails tr m (table.getD i [])
          | none => true
        match bad with
        | some i => some ⟨stOutOfRange, 0, i⟩
        | none => s.checkFails (s.turnEntries c) false

/-- The ranges that TURN reads. -/
def Cmd.turnReads (c : Cmd) (tensors : Nat) : List (Nat × Nat) :=
  (if c.param 32 1 = 0 then [(c.param 64 8, 48 * c.param 52 4), (c.param 96 8, 64 + 32 * tensors)] else [])
    ++ [(c.param 112 8, 16 * c.param 106 2)]

/-- TURN: refused as Table 19-5 gives, or it waits for its first commit. -/
def State.turn (s : State) (c : Cmd) : State :=
  let n := c.param 33 1
  match theRefusal (s.turnFails c), lookup n s.serving with
  | some r, _ => s.refuse c r.status r.detail
  | none, none => s.refuse c stOutOfRange 33
  | none, some k =>
    let reads := (c.turnReads (s.natAt (c.param 96 8 + 28) 4)).filter fun r => decide (0 < r.2)
    match s.rangesStatus reads with
    | some st => (s.noteRanges 5 reads).finish c.ref { status := st }
    | none =>
      match s.turnRefusal c k with
      | some r => s.finish c.ref { status := r.status, detail := r.detail, result1 := r.result1 }
      | none =>
        let t : Turn :=
          { cmd := c, phase := 1, startedAt := s.now, transferAt := 0,
            model := if c.param 32 1 = 0 then some (s.readModel (c.param 96 8)) else none,
            pieces := (List.range (c.param 52 4)).map (fun i => readPiece (s.bytesAt (c.param 64 8 + 48 * i) 48)),
            version := 0, trainIndex := 0, trainBusy := false, drained := 0, cut := 0, sent := [], placed := 0, poisoned := false,
            transferUs := 0, voting := false, failing := none }
        (({ s with turns := insert n t s.turns }).running c.ref).awaitCommit (.turnFirst c.ref n)

def execTurn (c : CmdRef) (hv : HostView) (s : State) : Host.Outcome State Fault Refusal :=
  runs (fun s => (s.sees hv).start 0x8000 c fun k s => s.turn k) s

/-- The SERVICE_HOLD commands that wait for the end of a turn. -/
def State.holdCommands (s : State) : List CmdRef := (s.inflight.filter fun c => c.opcode == 0x0005 && c.stage == .running).map Cmd.ref

/-- A hold that came during the turn takes effect now (R89), and the SERVICE_HOLD commands that wait for it complete. -/
def State.releaseHoldWait (s : State) : State :=
  if (s.panel.holdWaits || !s.holdCommands.isEmpty) && s.turns.isEmpty then
    s.holdCommands.foldl (fun (t : State) r => t.finish r {})
      { s with panel := { s.panel with holdWaits := false, hold := true, request := none } }
  else s

/-- The first commit (R531, R532): the new slot is reserved, admission of the STOP classes stops, an idle training service parks,
and under CUT the entries to be answered end at the next boundary. The TURN completes. -/
def State.atTurnFirst (s : State) (r : CmdRef) (n : Nat) : State :=
  match lookup n s.turns with
  | none => s
  | some t =>
    let c := t.cmd
    let w := c.param 37 1
    let gone := { s with turns := erase n s.turns }
    if t.toGeneration && (lookup w s.sets).isSome then (gone.finish r { status := stResourceInUse }).releaseHoldWait
    else if t.toGeneration && s.overlapFails (c.param 80 8) (c.param 88 8) then (gone.finish r { status := stAddressOverlap }).releaseHoldWait
    else
      let u := s.serviceCommit
      let u := if t.toGeneration then
          u.putSet w
            { state := 1, source := 3, access := c.param 104 1, link := 0, peerSet := 0, version := 0, base := c.param 80 8,
              bytes := c.param 88 8, sourceAddr := 0, command := none, failing := none, fingerprint := 0, cut := 0, droppedAt := 0,
              byTurn := true }
        else u
      let u := u.updServing n fun k => { k with stopClasses := k.stopClasses ||| c.param 36 1, turning := true }
      let k := t.train.bind fun x => lookup x u.trains
      let u := u.updTurn n fun t =>
        { t with phase := 2, startedAt := u.now, trainIndex := (match k with | some k => k.index | none => 0),
                 trainBusy := (match k with | some k => k.phase != TrainPhase.idle | none => false) }
      let u := (u.setNat (turnReg n 4) (c.param 40 4)).set64 (turnReg n 8) 0
      let u := match t.train with
        | some x => u.updTrain x fun k => if t.keepTrain || k.phase != TrainPhase.idle then k else { k with parked := true }
        | none => u
      let u := u.finish r { result1 := u.spine.epoch.toNat }
      if t.cuts then
        let v := u.cutEntries n t.answers
        (match lookup n v.serving with | some k => if k.step.isSome then v else v.boundary n | none => v)
      else u

/-! ## SETTLE and TRANSFER (R532, R533) -/

/-- DRAIN_DEADLINE: what is still to be answered is cut. -/
def State.drainDeadline (s : State) (n : Nat) : State :=
  match lookup n s.turns with
  | none => s
  | some t =>
    if t.phase ≠ 2 || t.cuts || t.failing.isSome || !s.expired (t.startedAt + t.cmd.param 48 2 * msec) then s
    else
      let v := s.cutEntries n t.answers
      match lookup n v.serving with
      | some k => if k.step.isSome then v else v.boundary n
      | none => v

def execDrainDeadline (svc now : Nat) (s : State) : Host.Outcome State Fault Refusal := runs (fun s => (s.at now).drainDeadline svc) s

/-- SETTLE_END: the training service is parked past its decision and the entries are answered. The version is fixed, no step of
the serving service starts any more, and the pieces go out in table order. -/
def State.settleEnd (s : State) (n : Nat) : State :=
  match lookup n s.turns, lookup n s.serving with
  | some t, some k =>
    let k2 := t.train.bind fun x => lookup x s.trains
    let trainDone := match t.train with
      | none => true
      | some _ => match k2 with
        | some x => t.keepTrain || ((x.parked || x.ended) && x.phase == .idle)
        | none => false
    if t.phase ≠ 2 || t.failing.isSome then s
    else if t.train.isSome && k2.isNone then s.failTurn n stTrainClosed false
    else if !trainDone || k.step.isSome || (s.entriesOf n).any (fun e => t.answers e.2) then s
    else
      let version := match k2 with | some x => x.version | none => t.cmd.param 44 4
      let u := s.updServing n fun k => { k with frozen := true }
      if t.toGeneration then
        let u := u.updTurn n fun t => { t with phase := 3, version := version, transferAt := u.now }
        match k2 with
        | some x => (List.range t.pieces.length).foldl (fun (v : State) i =>
            match t.pieces[i]? with | some p => v.sendPiece n x i p | none => v) u
        | none => u
      else u.updTurn n fun t => { t with phase := 3, version := version, transferAt := u.now }
  | _, _ => s

def execSettleEnd (svc now : Nat) (s : State) : Host.Outcome State Fault Refusal := runs (fun s => (s.at now).settleEnd svc) s

/-- The packet of a turn's barrier vote: COMMIT kind, STEP = TURN_ID, ROUND 0, BIT 1 unless poison was placed (R533, R538). Its SEQ
is the next one of the group (notes/assumptions/22.md). -/
def State.barrierCmd (s : State) (n : Nat) (t : Turn) : Cmd :=
  let g := t.cmd.param 38 1
  let seq := ((lookup g s.groups).getD .reset).lastSeq + 1
  let p := leBytes 2 0x5005 ++ zeros 126
  let fields : List (Nat × Nat × Nat) :=
    [(32, 1, g), (36, 4, t.cmd.param 40 4), (40, 4, seq), (48, 1, 1), (51, 1, bit (!t.poisoned))]
  { t.cmd with queue := 0x200 + n, tag := seq, opcode := 0x5005, packet := fields.foldl (fun p f => putField p f.1 f.2.1 f.2.2) p }

/-- TRANSFER_END: every piece sent is acknowledged and IN_BYTES are placed; the barrier vote is cast where there is one. TRANSFER of a
turn to learning is empty. -/
def State.transferEnd (s : State) (n : Nat) : State :=
  match lookup n s.turns with
  | none => s
  | some t =>
    let done := t.sent.all (fun m => s.messageAcked m) && decide (t.cmd.param 72 8 ≤ t.placed)
    if t.phase ≠ 3 || t.failing.isSome || !done then s
    else
      let us := if t.toGeneration then (s.now - t.transferAt) / usec else 0
      let u := (s.updTurn n fun t => { t with phase := 4, transferUs := us }).setNat (turnReg n 0x10) us
      if t.cmd.param 38 1 = 0xFF then u
      else
        let c := u.barrierCmd n t
        let u := u.updTurn n fun t => { t with voting := true }
        u.issue (.turn n) c fun v => (v.openColl c (.turn n)).castVote c

def execTransferEnd (svc now : Nat) (s : State) : Host.Outcome State Fault Refusal := runs (fun s => (s.at now).transferEnd svc) s

/-- XFER_TIMEOUT: XFER_MS passed before TRANSFER ended. -/
def State.xferTimeout (s : State) (n : Nat) : State :=
  match lookup n s.turns with
  | none => s
  | some t =>
    if t.phase = 3 && t.cmd.param 50 2 ≠ 0 && s.expired (t.transferAt + t.cmd.param 50 2 * msec) then s.failTurn n stTimedOut false else s

def execXferTimeout (svc now : Nat) (s : State) : Host.Outcome State Fault Refusal := runs (fun s => (s.at now).xferTimeout svc) s

/-! ## COMMIT and failure (R534, R538, R539) -/

/-- The collectives a turn issued are dropped; one still open fails, which announces it to the peers. -/
def State.dropTurnColls (s : State) (n : Nat) : State :=
  let t := (s.colls.filter fun k => k.owner == CollOwner.turn n && k.ended.isNone).foldl (fun (t : State) k => t.failColl k stAborted) s
  { t with colls := t.colls.filter fun k => k.owner != CollOwner.turn n }

/-- The report of a turn, and its counters. -/
def State.turnReport (s : State) (n : Nat) (t : Turn) (st detail : Nat) : State :=
  let ok := st = stSuccess
  let u := s.sat32 (turnReg n (if ok then 0x14 else 0x18)) 1
  let u := u.raise evTurn (if ok then 0 else 1)
  u.report ⟨t.cmd.queue, t.cmd.tag, t.cmd.fn, st, detail, s.spine.epoch.toNat, t.drained * 2 ^ 32 + t.cut,
    if 4 ≤ t.phase then t.transferUs else 0⟩

/-- The effects of the final commit (Table 19-7), after the commit of the further entries. -/
def State.turnEffects (s : State) (n : Nat) (t : Turn) : State :=
  let c := t.cmd
  let w := c.param 37 1
  match lookup n s.serving with
  | none => s
  | some k =>
    if t.toGeneration then
      let f := crc64 (s.bytesAt (c.param 80 8) (c.param 88 8))
      let u := s.updSet w fun x => { x with state := 2, version := t.version, byTurn := false, fingerprint := BitVec.ofNat 64 f }
      let u := (u.recordSet false w t.version f).raise evWeight 0
      let u := u.updSet k.set fun x =>
        if x.state = 2 then { x with state := 4, byTurn := true, droppedAt := u.spine.epoch.toNat } else x
      let u := { u with
        adapters := u.adapters.map fun (a : Nat × Adapter) => if a.2.state = 2 && a.2.baseSet = k.set then (a.1, { a.2 with baseSet := w }) else a,
        manifest := u.manifest.map fun (e : Nat × Entry) => if e.2.svc = n then (e.1, { e.2 with set := w, setVersion := t.version }) else e }
      u.updServing n fun k =>
        { k with set := w, model := t.model.getD k.model, seed := c.param 56 8, mixed := true, stopClasses := 0, turning := false,
                 frozen := false }
    else
      let u := s.updServing n fun k => { k with turning := false, frozen := false, parked := k.parked || !t.keepServe }
      match t.train with
      | some x => u.updTrain x fun k => { k with parked := false }
      | none => u

/-- TURN_FINAL_COMMIT: the entries are checked again; the vote, if any, has decided 1; no operation older than the current epoch
is left. -/
def State.turnFinal (s : State) (n : Nat) : State :=
  match lookup n s.turns with
  | none => s
  | some t =>
    let voted := !t.voting || s.colls.any fun k => k.owner == CollOwner.turn n && k.ended.isSome
    let busy := match lookup n s.serving with | some k => k.step.isSome | none => false
    if t.phase ≠ 4 || t.failing.isSome || !voted || busy || !s.olderGone then s
    else
      let es := s.turnEntries t.cmd
      match s.checkFails es false with
      | some r => s.failTurn n r.status false
      | none =>
        let u := ((s.dropTurnColls n).commitEntries es true).turnEffects n t
        (({ u with turns := erase n u.turns }).turnReport n t stSuccess 0).releaseHoldWait

def execTurnFinalCommit (svc now : Nat) (hv : HostView) (s : State) : Host.Outcome State Fault Refusal :=
  runsSpine (fun s => ((s.at now).sees hv).turnFinal svc) s

/-- The failure commit of a turn: NEW_SET returns to EMPTY with its range undefined, admission resumes, the training service stays
parked. -/
def State.atTurnAbandon (s : State) (n : Nat) : State :=
  match lookup n s.turns with
  | none => s
  | some t =>
    let u := (s.dropTurnColls n).serviceCommit
    let w := t.cmd.param 37 1
    let u := match t.toGeneration, lookup w u.sets with
      | true, some k => if k.byTurn && k.state = 1 then (u.emptySet w).undefine k.base k.bytes else u
      | _, _ => u
    let u := u.updServing n fun k => { k with stopClasses := 0, turning := false, frozen := false }
    let f := t.failing.getD (stAborted, false)
    (({ u with turns := erase n u.turns }).turnReport n t (if f.2 then stTurnAbandoned else stTurnFailed) f.1).releaseHoldWait

/-! ## SCORE (R540-R542) -/

def State.scoreFails (s : State) (c : Cmd) : List (Option Refuse) :=
  let model := c.param 32 1 = 0
  [ if model then
      (match lookup (c.param 33 1) s.sets with
        | some k => if k.state ≠ 2 then refuseIf true stOutOfRange 33 else refuseIf (!k.access.testBit c.berth) stBerthOwnership
        | none => refuseIf true stOutOfRange 33)
    else none
  , refuseRange (s.rangeOf c (c.param 40 8) (32 * c.param 36 4) false) 40
  , if model then refuseRange (s.rangeOf c (c.param 48 8) 64 false) 48 else none
  , if model then refuseRange (s.rangeOf c (c.param 56 8) (c.param 64 8) true) 56 else none
  , refuseIf (model && s.regionOf (c.param 56 8) != .stack) stOutOfRange 56
  , refuseIf (!model && c.param 34 2 != 0) stOutOfRange 34
  , refuseIf (!model && c.param 64 8 != 0) stOutOfRange 64
  , refuseIf (lookup c.berth s.scores).isSome stResourceInUse ]

def State.scoreStart (s : State) (c : Cmd) : State :=
  let a := c.param 48 8
  let model := c.param 32 1 = 0
  match theRefusal (s.scoreFails c) with
  | some r => s.refuse c r.status r.detail
  | none =>
    let reads := if model then [(a, 64 + 32 * s.natAt (a + 28) 4)] else []
    match s.rangesStatus reads with
    | some st => (s.noteRanges 5 reads).finish c.ref { status := st }
    | none =>
      match (if model then s.modelFails a 0x06 (s.setBytes (c.param 33 1)) else none) with
      | some i => s.finish c.ref { status := stOutOfRange, result1 := i }
      | none =>
        let m := s.readModel a
        if model && m.vocab ≤ c.param 34 2 then s.refuse c stOutOfRange 34
        else
          let k : Score :=
            { cmd := c, model := if model then some m else none, opened := false, next := 0, fed := 0, scored := 0, unscored := 0,
              parked := false, share := 1, round := 0 }
          (({ s with scores := insert c.berth k s.scores }).running c.ref).awaitCommit (.scoreOpen c.ref c.berth)

def execScore (c : CmdRef) (hv : HostView) (s : State) : Host.Outcome State Fault Refusal :=
  runs (fun s => (s.sees hv).start 0x6009 c fun k s => s.scoreStart k) s

/-- The opening commit of a score service. -/
def State.atScoreOpen (s : State) (r : CmdRef) (b : Nat) : State :=
  let t := s.serviceCommit.updScore b fun k => { k with opened := true }
  t.finish r { result1 := t.spine.epoch.toNat }

/-- The pages of a score service's working range: page l of span j is number j × LAYERS + l. -/
def scorePool (m : Model) (base : Nat) : Pool :=
  { kvHeads := m.kvHeads, headDim := m.headDim, fmt := 0x06, scale := 0, base := base,
    stride := pageStride (pageBytes m.kvHeads m.headDim 0x06) }

def scoreSpans (m : Model) (tokens : Nat) : List Span :=
  (List.range (spansFor (tokens - 1))).map fun j => ⟨j, (List.range m.layers).map fun l => j * m.layers + l⟩

/-- Feeds tokens of a list from a position; the logits after the last. -/
def State.feedList (s : State) (m : Reader) (k : Pool) (spans : List Span) : Nat → List Nat → List Fp → State × List Fp
  | _, [], y => (s, y)
  | p, t :: ts, _ =>
    let r := s.feed m k spans 0 p t
    r.1.feedList m k spans (p + 1) ts r.2

/-- How the work on a record goes on: it is left out, it waits for more tokens, or its reward is known. -/
inductive Scoring where
  | leftOut
  | more (fed : Nat)
  | reward (w : Nat)
  deriving DecidableEq, Repr

/-- One record of a score service within a budget of tokens: the state, what came of it, and the tokens fed. -/
def State.scoreRecord (s : State) (k : Score) (budget : Nat) : State × Scoring × Nat :=
  let c := k.cmd
  let a := c.param 40 8 + 32 * k.next
  let rec_ := s.natAt a 8
  let prompt := s.natAt (a + 8) 8
  let r := s.stepRecord rec_
  let q := s.readPlace (placeOf prompt) 0 (4 * r.1.promptLen)
  let set := lookup (c.param 33 1) s.sets
  let damaged := match set with | some w => w.state != 2 && w.state != 4 | none => true
  if (s.readStatus a 32).isSome || r.2.isSome || r.1.endCode = 0 || r.1.count = 0 then (s, .leftOut, 0)
  else
    match k.model with
    | none => (s, .reward (s.natAt (a + 16) 4), 0)
    | some m =>
      let total := r.1.promptLen + r.1.count
      let pool := scorePool m (c.param 56 8)
      let spans := scoreSpans m total
      if q.2.isSome || damaged || c.param 64 8 < spans.length * m.layers * pool.stride then (s, .leftOut, 0)
      else
        let tokens := (List.range r.1.promptLen).map (fun i => fieldAt q.1 (4 * i) 4) ++ r.1.tokens
        let now := ((tokens.drop k.fed).take budget)
        let reader : Reader := { model := m, base := (match set with | some w => w.base | none => 0), adapter := none }
        let y := s.feedList reader pool spans k.fed now []
        if k.fed + now.length < total then (y.1, .more (k.fed + now.length), now.length)
        else (y.1, .reward (toF32 (round32 (y.2.getD (c.param 34 2) .zero))), now.length)

/-- The records of one score step, within its tokens; by fuel. -/
def State.scoreRecords (s : State) (b : Nat) : Nat → Nat → State
  | 0, _ => s
  | fuel + 1, budget =>
    match lookup b s.scores with
    | none => s
    | some k =>
      if k.cmd.param 36 4 ≤ k.next || (k.model.isSome && budget = 0) then s
      else
        let r := s.scoreRecord k budget
        match r.2.1 with
        | .more fed => r.1.updScore b fun k => { k with fed := fed }
        | .leftOut =>
          (r.1.updScore b fun k => { k with next := k.next + 1, fed := 0, unscored := k.unscored + 1 }).scoreRecords b fuel (budget - r.2.2)
        | .reward w =>
          let put := r.1.writePlace (placeOf (s.natAt (k.cmd.param 40 8 + 32 * k.next) 8)) 64 (leBytes 4 w)
          let ok := put.2.isNone
          (put.1.updScore b fun k =>
            { k with next := k.next + 1, fed := 0, scored := k.scored + bit ok, unscored := k.unscored + bit (!ok) }).scoreRecords b fuel
              (budget - r.2.2)

/-- SCORE_STEP: up to 65,536 tokens; after the last record the closing commit waits. -/
def State.scoreStep (s : State) (b : Nat) : State :=
  match lookup b s.scores with
  | none => s
  | some k =>
    let done := k.cmd.param 36 4 ≤ k.next
    if !k.opened || k.parked || !s.berthRuns b k || done then s
    else
      match s.turnOf b 3 b with
      | none => s
      | some t =>
        let reads := match k.model, lookup (k.cmd.param 33 1) s.sets with
          | some m, some w => ({ model := m, base := w.base, adapter := none } : Reader).ranges
          | _, _ => []
        let set := k.cmd.param 33 1
        let damaged := match lookup set s.sets with | some w => w.state == 3 | none => true
        if k.model.isSome && t.power.state = .idle then t.wake
        else if k.model.isSome && (!t.beating || t.repairs.any fun r => !r.adapter && r.slot == set) then t
        else if k.model.isSome && !damaged && (t.rangesStatus reads).isSome then t.noteRanges 0 reads
        else
          let t := (({ t with power := { t.power with idleSince := t.now } } : State).actFor t.spine.epoch.toNat b).dropRegions
            (bitsBelow 8 (t.berthPaves 0 b))
          let u := (t.scoreRecords b (k.cmd.param 36 4 + 1) 65536).occupy b 3 b
          let u := u.updScore b fun k => { k with round := k.round + 1 }
          match lookup b u.scores with
          | some j => if j.cmd.param 36 4 ≤ j.next then u.awaitCommit (.scoreClose b) else u
          | none => u

def execScoreStep (berth now : Nat) (hv : HostView) (s : State) : Host.Outcome State Fault Refusal :=
  runs (fun s => ((s.at now).sees hv).scoreStep berth) s

/-- The closing commit of a score service, and its report (R542). -/
def State.atScoreClose (s : State) (b : Nat) : State :=
  match lookup b s.scores with
  | none => s
  | some k =>
    let t := s.serviceCommit
    let t := ({ t with scores := erase b t.scores }).raise evTurn 3
    t.report ⟨k.cmd.queue, k.cmd.tag, k.cmd.fn, if k.unscored = 0 then stSuccess else stScorePartial, 0, t.spine.epoch.toNat, k.scored,
      k.unscored⟩

/-! ## WEIGHTS_DROP, which judges the services of this chapter too (R347) -/

/-- Set slots that turns and score services name. -/
def State.turnSets (s : State) : List Nat :=
  s.turns.flatMap (fun t => (if t.2.toGeneration then [t.2.cmd.param 37 1] else [])
      ++ match lookup t.1 s.serving with | some k => [k.set] | none => [])
    ++ (s.scores.filter fun k => k.2.cmd.param 32 1 == 0).map fun k => k.2.cmd.param 33 1

def execWeightsDrop (c : CmdRef) (hv : HostView) (s : State) : Host.Outcome State Fault Refusal :=
  runs (fun s => (s.sees hv).start 0x6006 c fun k s => s.weightsDrop k s.turnSets) s

end Sys2Proof.Machine
end

