-- ==== Sys2Proof/Machine/Commits.lean ====
section
/-! DEFINITION. COMMIT_INSTANT: the acceptance arbiter grants the oldest waiting commit (R137-R141, R334). -/

namespace Sys2Proof.Machine

open Sys2Proof

/-- DROPPING under MODE CUT: every sequence that pins the set is cut (R348). -/
def State.dropCuts (s : State) (r : CmdRef) : State :=
  let t := s.atSetDropping r
  match s.cmd r with
  | none => t
  | some c =>
    if c.param 33 1 ≠ 1 then t
    else
      (t.serving.map fun (k : Nat × Serving) => k.1).foldl (fun (u : State) n =>
        let v := u.cutEntries n fun e => e.set == c.param 32 1
        match lookup n v.serving with
        | some k => if k.step.isSome then v else (v.boundary n).closeIfDone n
        | none => v) t

/-- What a granted commit does. -/
def State.grantCommit (s : State) (w : WaitingCommit) : State :=
  match w.owner with
  | .host r => s.hostCommit r w
  | .setReserve r => s.atSetReserve r
  | .setFail n => s.atSetFail n
  | .setDropping r => s.dropCuts r
  | .setReturn n => s.atSetReturn n
  | .adapterReserve r i => s.atAdapterReserve r i
  | .adapterFail i => s.atAdapterFail i
  | .adapterRetire r => s.atAdapterRetire r
  | .adapterDropName n => s.atAdapterDropName n
  | .serveOpen r n => s.atServeOpen r n
  | .serveClose n => s.atServeClose n
  | .trainOpen r n => s.atTrainOpen r n
  | .trainClose n => s.atTrainClose n
  | .turnFirst r n => s.atTurnFirst r n
  | .turnAbandon n => s.atTurnAbandon n
  | .scoreOpen r b => s.atScoreOpen r b
  | .scoreClose b => s.atScoreClose b

/-- The oldest waiting commit is granted, unless an operation or batch step of an epoch before the current one is in flight. -/
def State.commitInstant (s : State) : State :=
  match s.commits with
  | [] => s
  | w :: rest =>
    if !s.olderGoneBut (s.commandOf w.owner) then s else ({ s with commits := rest }).grantCommit w

def execCommitInstant (now : Nat) (hv : HostView) (s : State) : Host.Outcome State Fault Refusal :=
  runsSpine (fun s => ((s.at now).sees hv).commitInstant) s

end Sys2Proof.Machine
end

