-- ==== Sys2Proof/Machine/LinkEvents.lean ====
section
/-! DEFINITION. The events of chapter 14: flits received, retrains, widths, bring-up, PORT_CTRL, fences, messages delivered, link
notices, and the requests of peers that load a set. -/

namespace Sys2Proof.Machine

open Sys2Proof

/-! ## Flits of each kind, accepted in sequence or before the count begins -/

/-- A WIDTH flit sets the transmit width (R388): it falls at once, and rises only at a bring-up or a retrain. -/
def State.takeWidth (s : State) (p : Nat) (f : Flit) : State :=
  let k := s.port p
  let lanes := fieldAt f.payload 0 8
  let w := widthOf lanes
  let t := s.set64 (blkPort p + 0x28) lanes
  if k.state = 2 then
    if w = 0 then t.failBringUp p else (t.updPort p fun k => { k with widthSeen := true, txWidth := w }).bringUpIdent p
  else if w = 0 then t.linkDown p (t.restState p)
  else
    let u := t.updPort p fun k => { k with txWidth := w }
    if w < k.txWidth then u.noteReduced p else u

/-- An IDENT flit (R370-R372): revision and peer at bring-up; afterwards another serial or incarnation takes the port down. -/
def State.takeIdent (s : State) (p : Nat) (f : Flit) : State :=
  let i := identOf f.payload
  let k := s.port p
  match agreedRevision (s.ownIdent p) i with
  | none =>
    if k.state = 2 then
      (((s.notePeer p i 0).updPort p fun k => { k with state := 5, phase := 0 }).raise (evPort p) 5).logEvent
        { cause := 0x0405, cls := 2, unit := 0x60 + p }
    else s.linkDown p 5
  | some rev =>
    let t := s.notePeer p i rev
    if k.state = 2 then
      if k.phase = 3 then (t.updPort p fun k => { k with phase := 4 }).sendCreditInit p else t
    else
      match k.identity with
      | some old => if old.serial != i.serial || old.inc != i.inc then t.linkDown p (t.restState p) else t.judgeLink p
      | none => t.judgeLink p

/-- A CREDIT_INIT flit: credits, and the end of bring-up. -/
def State.takeCreditFlit (s : State) (p : Nat) (f : Flit) : State :=
  let t := s.takeCreditInit p f.payload
  if (s.port p).state = 2 && (s.port p).phase = 4 then t.comeUp p else t

/-- A DATA flit (R384, R389). -/
def State.takeDataFlit (s : State) (p : Nat) (f : Flit) : State :=
  if !s.carries p f.vc then s.violation p
  else
    match (s.port p).takeSlot f.vc with
    | none => s.violation p
    | some (ded, k) => ({ s with ports := insert p k s.ports }).takeData p f ded

def State.takeKind (s : State) (p : Nat) (f : Flit) : State :=
  if f.kind = kindData then s.takeDataFlit p f
  else if f.kind = kindIdent then s.takeIdent p f
  else if f.kind = kindWidth then s.takeWidth p f
  else if f.kind = kindCreditInit then s.takeCreditFlit p f
  else s.startRetrain p

/-- A NAK goes out for the first gap; NAK_REPEAT repeats it. -/
def State.gap (s : State) (p : Nat) : State := if (s.port p).nakFrom.isSome then s else s.sendNak p

/-- A flit with a good CRC, in a state that receives (R381, Table 14-8, Table 14-10). -/
def State.receive (s : State) (p : Nat) (f : Flit) : State :=
  let k := s.port p
  let s := s.updPort p fun k => { k with lastGood := s.now }
  let x := (f.seq + 65536 - k.expect) % 65536
  if malformed f then s.violation p
  else if k.state = 2 && k.phase ≤ 2 then (if f.kind = kindWidth then s.takeWidth p f else s)
  else if decide (16384 ≤ x) && decide (x < 49152) then s.violation p
  else
    let t := ((s.takeAck p f).takeNak p f).takeCredits p f
    let u :=
      if 49152 ≤ x then t.add32 (blkPort p + 0x7C) 1
      else if x ≠ 0 then t.gap p
      else if f.kind = 0 then t
      else
        let t := (t.updPort p fun k => { k with expect := (k.expect + 1) % 65536, nakFrom := none }).add64 (blkPort p + 0x48) 1
        let v := t.takeKind p f
        if [2, 3, 4].contains (v.port p).state then v.sendIdle p 0 0 else v
    ((u.drain (u.port p).waiting.length p).settleColls)

/-- A port in a state that receives flits. -/
def State.receives (s : State) (p : Nat) : Bool := decide (p < 8) && !s.loopback p && [2, 3, 4].contains (s.port p).state

/-- A flit comes on a port: of the kinds that a row stands for, with a good CRC. -/
def State.flitCame (s : State) (p : Nat) (bytes : List Byte) (kinds : Nat → Bool) : State :=
  let f := flitOf bytes
  if s.receives p && flitGood bytes && kinds f.kind then s.receive p f else s

def execDataFlit (p : Nat) (bytes : List Byte) (now : Nat) (s : State) : Host.Outcome State Fault Refusal :=
  runs (fun s => (s.at now).flitCame p bytes fun k => k == kindData || decide (6 ≤ k)) s

def execIdleFlit (p : Nat) (bytes : List Byte) (now : Nat) (s : State) : Host.Outcome State Fault Refusal :=
  runs (fun s => (s.at now).flitCame p bytes fun k => k == 0) s

def execWidthFlit (p : Nat) (bytes : List Byte) (now : Nat) (s : State) : Host.Outcome State Fault Refusal :=
  runs (fun s => (s.at now).flitCame p bytes fun k => k == kindWidth) s

def execIdentFlit (p : Nat) (bytes : List Byte) (now : Nat) (s : State) : Host.Outcome State Fault Refusal :=
  runs (fun s => (s.at now).flitCame p bytes fun k => k == kindIdent) s

def execCreditInitFlit (p : Nat) (bytes : List Byte) (now : Nat) (s : State) : Host.Outcome State Fault Refusal :=
  runs (fun s => (s.at now).flitCame p bytes fun k => k == kindCreditInit) s

def execRetrainFlit (p : Nat) (bytes : List Byte) (now : Nat) (s : State) : Host.Outcome State Fault Refusal :=
  runs (fun s => (s.at now).flitCame p bytes fun k => k == kindRetrain) s

/-- FLIT_CRC_FAILURE: the flit is discarded whole, counted, and a gap (R377, R381). -/
def State.crcFailed (s : State) (p : Nat) : State :=
  if !s.receives p then s
  else
    let t := s.add64 (blkPort p + 0x50) 1
    if (s.port p).state = 2 && (s.port p).phase ≤ 2 then t else t.gap p

def execFlitCrcFailure (p now : Nat) (s : State) : Host.Outcome State Fault Refusal := runs (fun s => (s.at now).crcFailed p) s

/-! ## Replay and retrain (R381, R382) -/

def execNakRepeat (p now : Nat) (s : State) : Host.Outcome State Fault Refusal :=
  runs (fun s =>
    let s := s.at now
    match (s.port p).nakFrom with
    | some t => if s.receives p && s.expired (t + 2 * usec) then s.sendNak p else s
    | none => s) s

/-- The port retrains of itself: its peer learns it from a RETRAIN flit. -/
def State.retrainPort (s : State) (p : Nat) : State :=
  if [3, 4].contains (s.port p).state && (s.port p).retrain.isNone then (s.sendFlits p [(control kindRetrain [], 0)]).startRetrain p else s

def execNakLimit (p now : Nat) (s : State) : Host.Outcome State Fault Refusal :=
  runs (fun s => let s := s.at now; if 16 ≤ (s.port p).nakCount then s.retrainPort p else s) s

def execAckStall (p now : Nat) (s : State) : Host.Outcome State Fault Refusal :=
  runs (fun s =>
    let s := s.at now
    let k := s.port p
    if !k.kept.isEmpty && s.expired (k.ackAt + 100 * usec) then s.retrainPort p else s) s

/-- RETRAIN_DONE: lanes and width are judged again; fewer than 8 good lanes take the link down. -/
def State.retrainDone (s : State) (p good : Nat) : State :=
  let k := s.port p
  if k.retrain.isNone || !([3, 4].contains k.state) then s
  else
    let t := s.set64 (blkPort p + 0x20) good
    let w := widthOf good
    if w = 0 then t.linkDown p (t.restState p)
    else
      let t := t.updPort p fun k => { k with retrain := none, rxWidth := w, ackAt := s.now, lastGood := s.now, nakCount := 0 }
      let t := if w < k.rxWidth then t.noteReduced p else t
      ((t.raise (evPort p) 3).logEvent { cause := 0x0403, cls := 1, unit := 0x60 + p }).sendWidth p

def execRetrainDone (p good now : Nat) (s : State) : Host.Outcome State Fault Refusal := runs (fun s => (s.at now).retrainDone p good) s

/-! ## Lanes (R387, R388) -/

def execLaneJudgeDone (p good now : Nat) (s : State) : Host.Outcome State Fault Refusal :=
  runs (fun s => (s.at now).lanesJudged p (good % 2 ^ 64)) s

/-- LANE_FAIL: a receive lane in service fails; the direction narrows, or the link goes down. -/
def State.laneFail (s : State) (p lane : Nat) : State :=
  let k := s.port p
  let old := s.reg64 (blkPort p + 0x20)
  if !([3, 4].contains k.state) || k.retrain.isSome || 64 ≤ lane || !old.testBit lane then s
  else
    let good := putBit old lane false
    let t := s.set64 (blkPort p + 0x20) good
    let w := min (widthOf good) k.rxWidth
    if w = 0 then t.linkDown p (t.restState p)
    else
      let t := t.updPort p fun k => { k with rxWidth := w }
      (if w < k.rxWidth then t.noteReduced p else t).sendWidth p

def execLaneFail (p lane now : Nat) (s : State) : Host.Outcome State Fault Refusal := runs (fun s => (s.at now).laneFail p lane) s

/-! ## Bring-up, silence, feed, fence -/

def execBringUpStart (p now : Nat) (s : State) : Host.Outcome State Fault Refusal :=
  runs (fun s =>
    let s := s.at now
    let k := s.port p
    if s.mayBringUp p && (k.state = 0 || k.state = 1) && k.retryAt.isNone then s.startBringUp p else s) s

def execIdentTimeout (p now : Nat) (s : State) : Host.Outcome State Fault Refusal :=
  runs (fun s =>
    let s := s.at now
    let k := s.port p
    if k.state = 2 && k.phase ≤ 3 && s.expired (k.since + 100 * msec) then s.failBringUp p else s) s

def execBringUpRetry (p now : Nat) (s : State) : Host.Outcome State Fault Refusal :=
  runs (fun s =>
    let s := s.at now
    let k := s.port p
    match k.retryAt with
    | some t => if s.expired t && s.mayBringUp p && (k.state = 0 || k.state = 1) then s.startBringUp p else s
    | none => s) s

/-- LINK_SILENCE: no flit passed its CRC for 10 µs (R391); a retrain, which passes none, does not count. -/
def execLinkSilence (p now : Nat) (s : State) : Host.Outcome State Fault Refusal :=
  runs (fun s =>
    let s := s.at now
    let k := s.port p
    if [3, 4].contains k.state && k.retrain.isNone && s.expired (k.lastGood + 10 * usec) then s.linkDown p (s.restState p) else s) s

/-- LASER_FEED_READING (R366). -/
def State.laserFeed (s : State) (p : Nat) (reading : Int) : State :=
  if 8 ≤ p then s
  else
    let k := s.port p
    let t := s.setNat (blkPort p + 0x30) (patternOf 16 reading)
    let t := if reading < 1900 then (t.raise (evPort p) 8).logEvent { cause := 0x0407, cls := 1, unit := 0x60 + p } else t
    let low := decide (reading < 1700)
    let t := t.updPort p fun k => { k with weak := low }
    if low && k.weak && [1, 2, 3, 4].contains k.state then t.linkDown p 0 else t

def execLaserFeedReading (p : Nat) (reading : Int) (now : Nat) (s : State) : Host.Outcome State Fault Refusal :=
  runs (fun s => (s.at now).laserFeed p reading) s

/-- PORT_FENCE: 64 violations within 1 s of local time (R390). -/
def State.portFence (s : State) (p : Nat) : State :=
  let k := s.port p
  let n := (k.violationsAt.filter fun t => decide (s.now < t + second)).length
  if n < 64 || k.state = 6 then s
  else
    let t := (s.linkDown p 6).updPort p fun k => { k with violationsAt := [], sawAbsent := false }
    (t.raise (evPort p) 7).logEvent { cause := 0x0406, cls := 2, unit := 0x60 + p }

def execPortFence (p now : Nat) (s : State) : Host.Outcome State Fault Refusal := runs (fun s => (s.at now).portFence p) s

/-- VC_REPARTITION: the changed VCs hold no flit (R385). -/
def State.vcRepartition (s : State) (p : Nat) : State :=
  let k := s.port p
  let empty := k.repartition.all fun v => k.heldDed.getD v 0 == 0 && k.heldShared.getD v 0 == 0
  if k.repartition.isEmpty || !empty || !([3, 4].contains k.state) then s else s.sendCreditInit p

def execVcRepartition (p now : Nat) (s : State) : Host.Outcome State Fault Refusal := runs (fun s => (s.at now).vcRepartition p) s

/-! ## PORT_CTRL -/

/-- A write of PORT_CTRL with more than one of its bits set changes nothing and is logged; one without the row's bit is none of its. -/
def State.portCtrl (s : State) (p : Nat) (v : Word) (n : Nat) (f : State → State) : State :=
  if 8 ≤ p then s
  else if 1 < popCount 4 (v.toNat % 16) then s.logDiscard 0 (blkPort p + 0xC)
  else if v.toNat.testBit n then f s else s

def execPortRetrain (p : Nat) (v : Word) (s : State) : Host.Outcome State Fault Refusal :=
  runsHost (fun s => s.portCtrl p v 0 fun s =>
    let k := (s.port p).state
    if k = 3 || k = 4 then s.retrainPort p
    else if (k = 0 || k = 5) && s.mayBringUp p then s.startBringUp p else s) s

def execPortUnfence (p : Nat) (v : Word) (s : State) : Host.Outcome State Fault Refusal :=
  runsHost (fun s => s.portCtrl p v 1 fun s =>
    let k := s.port p
    if k.state = 6 then s.updPort p fun k => { k with state := s.restState p, sawAbsent := false }
    else s.updPort p fun k => { k with fencedUnder := false }) s

def execPortHold (p : Nat) (v : Word) (s : State) : Host.Outcome State Fault Refusal :=
  runsHost (fun s => s.portCtrl p v 2 fun s =>
    let fenced := (s.port p).state == 6
    if (s.port p).state = 7 then s else (s.linkDown p 7).updPort p fun k => { k with fencedUnder := fenced, retryAt := none }) s

def execPortRelease (p : Nat) (v : Word) (s : State) : Host.Outcome State Fault Refusal :=
  runsHost (fun s => s.portCtrl p v 3 fun s =>
    let k := s.port p
    if k.state = 7 then s.updPort p fun k => { k with state := if k.fencedUnder then 6 else s.restState p, fencedUnder := false }
    else s) s

/-! ## Messages (R378) -/

/-- MESSAGE_DELIVERED: the oldest message that has arrived goes to its consumer, or is stale. -/
def State.deliver (s : State) (p : Nat) : State :=
  match (s.port p).arrived with
  | [] => s
  | m :: rest =>
    let t := s.updPort p fun k => { k with arrived := rest }
    if m.targetInc = 0 || m.targetInc = s.enlonInc then t.updPort p fun k => { k with inbox := k.inbox ++ [m] }
    else
      let t := ((t.returnCredits p m.vc m.held).add32 (blkPort p + 0x74) 1).raise (evPort p) 9
      if t.carries p 0 then t.sendNotice p 0x0002 m.cls m.context else t

def execMessageDelivered (p now : Nat) (s : State) : Host.Outcome State Fault Refusal := runs (fun s => (s.at now).deliver p) s

/-- The operations of this device that sent a message of a class and CONTEXT through a port's axis end with a status. -/
def State.endSender (s : State) (p cls context st : Nat) : State :=
  let t := (s.colls.filter fun k => k.ended.isNone && decide (0x0101 ≤ cls) && decide (cls ≤ 0x0105) && k.cmd.collSeq == context
      && (cls == 0x0105 || axisOf p == s.axisOfCmd k.cmd)).foldl (fun (t : State) k => t.failColl k st) s
  let t := if cls = 0x1101 then
      (t.turns.filter fun k => k.2.cmd.param 40 4 == context && k.2.phase == 3).foldl (fun (t : State) k => t.failTurn k.1 st false) t
    else t
  if 0x1000 ≤ cls && cls < 0x1100 then t.loadsPeerDown p st else t

/-- Takes a link notice of a class from a port. -/
def State.takeNotice (s : State) (p cls st : Nat) : State :=
  match (s.port p).inbox.find? fun m => m.cls == cls with
  | none => s
  | some m => (s.consume p m).endSender p (fieldAt m.body 0 4) (fieldAt m.body 4 4) st

def execLinkNoticeRestarted (p now : Nat) (s : State) : Host.Outcome State Fault Refusal :=
  runs (fun s => (s.at now).takeNotice p 0x0002 stTargetRestarted) s

def execPathBroken (p now : Nat) (s : State) : Host.Outcome State Fault Refusal :=
  runs (fun s => (s.at now).takeNotice p 0x0001 stLinkDown) s

/-! ## Requests of peers (R336) -/

/-- PEER_SET_REQUEST: a request of class 0x1000 is served from a RESIDENT slot of the same VERSION and BYTES, or answered with a
mismatch, by a message of class 0x1001. The bodies of both are the model's (notes/assumptions/20.md). -/
def State.peerRequest (s : State) (p : Nat) : State :=
  match (s.port p).inbox.find? fun m => m.cls == 0x1000 with
  | none => s
  | some m =>
    let t := s.consume p m
    let slot := fieldAt m.body 0 2
    let adapter := fieldAt m.body 2 1 == 1
    let off := fieldAt m.body 16 8
    let n := fieldAt m.body 24 8
    let same := fun (v b : Nat) => v == fieldAt m.body 4 4 && b == fieldAt m.body 8 8 && decide (off + n ≤ b)
    let base := if adapter then
        (match lookup slot s.adapters with | some k => if k.state = 2 && same k.version k.bytes then some k.base else none | none => none)
      else (match lookup slot s.sets with | some k => if k.state = 2 && same k.version k.bytes then some k.base else none | none => none)
    let st := match base with | some a => (s.readStatus (a + off) n).getD 0 | none => stOutOfRange
    let data := match base with | some a => if st = 0 then s.bytesAt (a + off) n else [] | none => []
    let vc := s.nextVc none 10 p
    if !t.carries p vc then t
    else (t.sendMessage p vc m.source 0x1001 m.context 0 (leBytes 4 st ++ zeros 4 ++ data) []).1

def execPeerSetRequest (p now : Nat) (s : State) : Host.Outcome State Fault Refusal := runs (fun s => (s.at now).peerRequest p) s

end Sys2Proof.Machine
end

