-- ==== Sys2Proof/Machine/Outputs.lean ====
section
/-! DEFINITION. The destination ranges of a command, opcode by opcode: what it leaves undefined when it is abandoned (R119), and what
its output fingerprint covers (R594); and COMMAND_COMPLETION. -/

namespace Sys2Proof.Machine

open Sys2Proof

/-- Ranges of device memory as places. -/
def devPlaces (rs : List (Nat × Nat)) : List (Place × Nat) := rs.map fun r => (.device r.1, r.2)

/-- The barges of a MOVE's table. -/
def State.bargesOf (s : State) (c : Cmd) : List Barge :=
  let es := (List.range (c.param 32 4)).map fun i => s.bytesAt (c.param 40 8 + 64 * i) 64
  es.map (readBarge (tableTile es))

/-- The destinations of a MOVE; none where its table is refused. -/
def State.moveDst (s : State) (c : Cmd) : List (Place × Nat) :=
  let bs := s.bargesOf c
  if (s.firstBadBarge c 0 bs).isSome then [] else bs.flatMap fun b => b.dstRuns.map fun r => (b.dst.offset r.1, r.2)

/-- The destinations of a narrow command. -/
def State.narrowDst (s : State) (c : Cmd) : List (Nat × Nat) :=
  let v := c.narrow
  if v.scatter then
    (s.elements v).filterMap fun e => if (s.elementFails c v e.2).isNone then some (e.2.toNat, v.width) else none
  else [(v.data, v.width * v.count)]

/-- The targets of ATOMIC's operations and its results. -/
def State.atomicDst (s : State) (c : Cmd) : List (Nat × Nat) :=
  let w := if c.param 33 1 = 1 then 8 else 4
  let targets := (List.range (c.param 36 4)).map fun i => s.natAt (c.param 40 8 + 24 * i) 8
  if targets.any fun a => (s.atomicEntryFails c a).isSome then []
  else targets.map (fun a => (a, w)) ++ (if c.param 48 8 = 0 then [] else [(c.param 48 8, 8 * c.param 36 4)])

/-- What an APPLY writes: the shadow blocks of its context, and the narrow values. -/
def State.applyDst (s : State) (c : Cmd) : List (Nat × Nat) :=
  let x := c.param 33 1
  let j := s.shadowSlotOf (s.ctxLane c.epoch x)
  (List.range (c.param 44 4)).map (fun i => (s.blockAddr c.epoch x (c.param 40 4 + i) j, 768)) ++ c.narrowRanges

/-- The slot that an import writes. -/
def State.importDst (s : State) (c : Cmd) : List (Nat × Nat) :=
  let x := c.param 32 1
  let head := (s.readPlace (placeOf (c.param 40 8)) 0 128).1
  let g := if (c.param 33 1).testBit 0 then fieldAt head 28 2 else s.laneGen (s.ctxLane c.epoch x)
  (List.range (s.ctxBlocks c.epoch x)).map (fun i => (s.blockAddr c.epoch x i (g % 2), 768))
    ++ [(s.ctxState c.epoch x + 64 * (g % 2), 64)]

/-- The destination ranges of ATTEND: its output rows, and the new keys and values. -/
def State.attendDst (s : State) (c : Cmd) : List (Nat × Nat) :=
  let es := s.attendEntries c
  if (s.attendTableFails c es).isSome then []
  else c.attendOuts es ++ (attendRows es).flatMap fun r => c.pool.slotRanges (r.1.getD (r.2.2 / 128) 0) (r.2.2 % 128)

/-- The range that a load writes: none where another set or adapter lies there and the load has not reserved it, since the bytes of a
set never change by such a load (R333). -/
def State.loadDst (s : State) (c : Cmd) (a n : Nat) : List (Nat × Nat) :=
  let mine := (s.sets.any fun k => k.2.command == some c.ref) || s.adapters.any fun k => k.2.command == some c.ref
  if c.stage = .done || mine || !s.inWeights a n then [(a, n)] else []

/-- The destination ranges of a command. -/
def State.dstPlaces (s : State) (c : Cmd) : List (Place × Nat) :=
  let op := c.opcode
  if op = 0x0004 then [(placeOf (c.param 48 8), 64 * (if c.stage = .done then c.result0 else c.param 36 4))]
  else if op = 0x2000 then devPlaces c.product.outRanges
  else if op = 0x2001 then
    let es := (List.range (c.param 32 4)).map fun i => s.bytesAt (c.param 80 8 + 64 * i) 64
    let ps := groupProducts c 0 es
    if (s.groupRefusal c ps es).isSome then [] else devPlaces (ps.flatMap Product.outRanges)
  else if op = 0x2002 then devPlaces (s.attendDst c)
  else if op = 0x3000 then devPlaces (s.vopOut c.vop ++ c.vop.auxOut)
  else if op = 0x3001 then devPlaces [(c.param 80 8, 8 * c.param 32 4)]
  else if op = 0x3002 then (if c.param 32 1 = 0 then devPlaces (s.applyDst c) else [])
  else if op = 0x4000 then s.moveDst c
  else if op = 0x4001 then devPlaces [(c.param 32 8, c.param 40 8)]
  else if op = 0x4002 || op = 0x4003 then devPlaces (s.narrowDst c)
  else if op = 0x4004 then devPlaces (s.atomicDst c)
  else if op / 0x1000 = 5 then devPlaces (s.collWrites c)
  else if op = 0x6005 then devPlaces (s.loadDst c (c.param 56 8) (c.param 48 8))
  else if op = 0x6007 then devPlaces (s.loadDst c (c.param 64 8) (c.param 56 8))
  else if op = 0x7002 then [(placeOf (c.param 40 8), if c.stage = .done then 0 else s.imageBytes c.epoch (c.param 32 1))]
  else if op = 0x7003 then devPlaces (s.importDst c)
  else []

/-- GET_LOG: host memory, or a device range other than the reach (R584). -/
def State.logPlaceFails (s : State) (c : Cmd) : Option Refuse :=
  match placeOf (c.param 48 8) with
  | .device a => refuseRange (s.rangeOf c a (64 * c.param 36 4) true) 48
  | .host _ => none
  | .invalid => refuseIf true stOutOfRange 48

/-- The refusals that a chapter judges by the packet and the configuration alone, before the command starts. -/
def State.chapterFails (s : State) (c : Cmd) : List (Option Refuse) :=
  let s := s.actAs c
  let op := c.opcode
  if op = 0x0004 then [s.logPlaceFails c]
  else if op = 0x2000 then s.matmulFails c
  else if op = 0x2001 then s.groupedFails c
  else if op = 0x2002 then s.attendFails c
  else if op = 0x3000 then s.vopFails c
  else if op = 0x3001 then s.sampleFails c
  else if op = 0x3002 then (if c.param 32 1 = 0 then s.applyFails c else [refuseIf (!s.laneValid (c.param 34 1)) stOutOfRange 34])
  else if op = 0x4000 then s.moveFails c
  else if op = 0x4001 then s.fillFails c
  else if op = 0x4002 || op = 0x4003 then s.narrowFails c
  else if op = 0x4004 then s.atomicFails c
  else if op / 0x1000 = 5 then
    s.collFails c
      ++ (if op = 0x5000 then s.gatherFails c
          else if op = 0x5001 then s.reduceFails c
          else if op = 0x5002 then s.permuteFails c
          else if op = 0x5003 then s.pipeFails c false
          else if op = 0x5004 then s.pipeFails c true
          else s.voteFails c)
  else if op = 0x6000 then s.serveOpenFails c
  else if op = 0x6005 then s.weightsLoadFails c
  else if op = 0x6007 then s.adapterLoadFails c
  else if op = 0x6009 then s.scoreFails c
  else if op = 0x7002 then s.checkpointFails c
  else if op = 0x7003 then s.ctxFails c (c.param 32 1) 32 false
  else if op = 0x8000 then s.turnFails c
  else []

/-! ## Abandonment (R117-R119) -/

/-- Leaves the destination ranges of a command with undefined values; a command that its chapter would refuse has none. -/
def State.undefineOutputs (s : State) (c : Cmd) : State :=
  if (theRefusal (s.chapterFails c)).isSome then s
  else (s.dstPlaces c).foldl (fun (t : State) p => if p.2 = 0 then t else t.undefinePlace p.1 0 p.2) s

/-! ## Completion -/

/-- The bytes a finished command wrote, in ascending address order, device ranges before host ranges. -/
def outputBytes : Outputs := fun s c =>
  if classOf c.status ≠ 0 then []
  else
    ((s.dstPlaces c).mergeSort fun a b =>
      decide (a.1.key.1 < b.1.key.1) || (a.1.key.1 == b.1.key.1 && decide (a.1.key.2 ≤ b.1.key.2))).flatMap fun p =>
        (s.readPlace p.1 0 p.2).1

end Sys2Proof.Machine
end

