-- ==== Sys2Proof/Machine/Needs.lean ====
section
/-! DEFINITION. What a command needs of the device (R142), opcode by opcode: units, the ranges it reads and writes, groups and slots. -/

namespace Sys2Proof.Machine

open Sys2Proof

/-- The units that a command's masks name. -/
def State.unitsOfCmd (s : State) (c : Cmd) : List Nat :=
  let paves := fun ns : List Nat => ns.map (0x01 + ·)
  let engines := fun ns : List Nat => ns.map (0x10 + ·)
  if c.opcode = 0x2000 || c.opcode = 0x2001 then paves (s.pavesOf c)
  else if c.opcode = 0x2002 then paves (bitsBelow 8 (c.param 56 1)) ++ engines (bitsBelow 32 (c.param 52 4))
  else if c.opcode = 0x3000 then engines (s.enginesOf (c.param 40 4) (bitOf (c.param 37 1) 0))
  else if c.opcode = 0x3001 then engines (s.enginesOf (c.param 44 4) true)
  else if c.opcode = 0x3002 && c.param 32 1 = 0 then engines (bitsBelow 32 (c.param 72 4))
  else []

/-- The ranges that a product reads. -/
def Product.inRanges (p : Product) : List (Nat × Nat) :=
  (p.bAddr, p.tN * p.tK * 262144) :: (if isMx p.fmtB then [(p.bScale, p.tN * p.tK * (tileOf p.fmtB / 32 * 512))] else [])
    ++ (if 2 ≤ p.dqMode then [(p.dqAddr, 4 * p.n)] else [])

/-- Ranges of device memory among places. -/
def devRanges (ps : List (Place × Nat)) : List (Nat × Nat) := ps.filterMap fun p => match p.1 with | .device a => some (a, p.2) | _ => none

/-- The ranges that a command reads. -/
def State.srcRanges (s : State) (c : Cmd) : List (Nat × Nat) :=
  let op := c.opcode
  if op = 0x2000 then c.product.inRanges
  else if op = 0x2001 then
    let es := (List.range (c.param 32 4)).map fun i => s.bytesAt (c.param 80 8 + 64 * i) 64
    let ps := groupProducts c 0 es
    (c.param 80 8, 64 * c.param 32 4) :: (if (s.groupRefusal c ps es).isSome then [] else ps.flatMap Product.inRanges)
  else if op = 0x2002 then
    let es := s.attendEntries c
    let k := c.pool
    let top := (es.map fun e => e.1.row0 + e.1.rows).foldl max 0
    [ (c.param 64 8, 16 * c.param 44 4), (c.param 72 8, c.param 36 2 * c.param 40 2 * 2 * top)
    , (c.param 80 8, c.param 38 2 * c.param 40 2 * 4 * top) ]
      ++ (if (s.attendTableFails c es).isSome then [] else es.flatMap fun e => e.2.map fun p => (k.page p, pageBytes k.kvHeads k.headDim k.fmt))
  else if op = 0x3000 then c.vop.xRanges ++ c.vop.yRanges ++ c.vop.auxIn
  else if op = 0x3001 then
    [(c.param 64 8, c.param 32 4 * elemsBytes (c.param 40 1) (c.param 36 4)), (c.param 72 8, 16 * c.param 32 4)]
  else if op = 0x3002 then (if c.param 32 1 = 0 then c.applyRanges else [])
  else if op = 0x4000 then
    let bs := s.bargesOf c
    (c.param 40 8, 64 * c.param 32 4) :: (if (s.firstBadBarge c 0 bs).isSome then []
      else bs.flatMap fun b => devRanges (b.srcRuns.map fun r => (b.src.offset r.1, r.2)))
  else if op = 0x4002 || op = 0x4003 then
    let v := c.narrow
    (v.index, v.idxBytes * v.count) :: (if v.scatter then [(v.data, v.width * v.count)]
      else (s.elements v).filterMap fun e => if (s.elementFails c v e.2).isNone then some (e.2.toNat, v.width) else none)
  else if op = 0x4004 then [(c.param 40 8, 24 * c.param 36 4)]
  else if op = 0x5000 then arrayRanges (c.param 48 1) (c.param 64 8) 1 (c.param 56 8)
  else if op = 0x5001 then [(c.param 64 8, s.contribBytes c)]
  else if op = 0x5002 then
    [(c.param 56 8, 32 * c.param 48 4), (c.param 64 8, 16 * c.param 52 4)] ++ (List.range (c.param 48 4)).map fun i =>
        let e := s.outPiece (c.param 56 8) i
        (e.src, e.bytes)
  else if op = 0x5003 then [(c.param 56 8, c.param 64 8)]
  else if op = 0x6005 then [(c.param 64 8, s.sourceRange (c.param 33 1) (c.param 48 8) (c.param 35 1))]
  else if op = 0x6007 then [(c.param 72 8, s.sourceRange (c.param 35 1) (c.param 56 8) 0)]
  else if op = 0x7003 then devRanges [(placeOf (c.param 40 8), s.imageBytes c.epoch (c.param 32 1))]
  else []

/-- The group, the slots and the context that a command names. -/
def Cmd.slotNeeds (c : Cmd) : List Need :=
  let op := c.opcode
  let assay :=
    if op = 0x2000 || op = 0x2001 then c.param 52 2
    else if op = 0x3000 then c.param 38 2
    else if op = 0x5001 && bitOf (c.param 33 1) 1 then c.param 50 2
    else if op = 0x5005 && c.param 50 1 = 1 then c.param 52 2
    else 0
  let ctx :=
    if op = 0x3002 && c.param 32 1 = 0 then c.param 33 1
    else if op = 0x5001 && c.param 49 1 = 3 then c.param 54 2
    else if op = 0x7002 || op = 0x7003 then c.param 32 1
    else 0
  (if op / 0x1000 = 5 then [.group (c.param 32 1)] else []) ++ (if assay = 0 then [] else [.assay assay])
    ++ (if c.histSlot = 0 then [] else [.history c.histSlot]) ++ (if ctx = 0 then [] else [.context ctx])

/-- What a command needs (R142); one that its chapter refuses needs nothing. -/
def State.needsOf (s : State) (c : Cmd) : List Need :=
  let t := s.actAs c
  if (theRefusal (t.chapterFails c)).isSome then []
  else
    (t.unitsOfCmd c).map Need.unit
      ++ ((t.srcRanges c ++ devRanges (t.dstPlaces c)).filter fun r => decide (0 < r.2)).map (fun r => .range r.1 r.2)
      ++ c.slotNeeds

/-! ## The judgements at fetch (Table 4-6, check 10) -/

/-- A collective's SEQ must pass LAST_SEQ of its group (R399). -/
def State.seqFails (s : State) (c : Cmd) : Option Refuse :=
  refuseIf (c.opcode / 0x1000 = 5 && decide (c.param 40 4 ≤ (s.group (c.param 32 1)).lastSeq)) stOutOfRange 40

/-- The units that take RESET_UNIT (Table 20-5). -/
def takesUnitReset (u : Nat) : Bool :=
  (decide (0x01 ≤ u) && decide (u ≤ 0x08)) || (decide (0x10 ≤ u) && decide (u ≤ 0x2F)) || (decide (0x60 ≤ u) && decide (u ≤ 0x67)) || u == 0x71

/-- A VF may abort only commands of its own queues: another's is out of range (R118, R129; the status is the model's choice,
notes/assumptions/41.md). -/
def State.foreignAbort (s : State) (c : Cmd) : Bool :=
  c.fn != 0 && (match lookup (c.param 32 1) s.queues with | some k => k.fn != c.fn | none => false)

/-- Bytes of an authorisation record, of an envelope, and those that an action reads at ADDR (R561-R563). -/
def recordBytes : Nat := 320

def envelopeBytes : Nat := 384

def actionBytes (action : Nat) : Nat :=
  if action = 5 then 0 else if action = 1 then envelopeBytes else if action = 2 then recordBytes + envelopeBytes else recordBytes

/-- What the packet and the configuration alone decide of a command, before it is accepted. Service commands, whose refusals turn on
what is open or resident when they run, are judged there. -/
def State.acceptanceFails (s : State) (c : Cmd) : List (Option Refuse) :=
  let op := c.opcode
  if op = 0x0001 then [(s.createFails c).map fun d => { status := stOutOfRange, detail := d }]
  else if op = 0x0003 then [refuseIf (s.foreignAbort c) stOutOfRange 32]
  else if op = 0x000A then [refuseIf (!takesUnitReset (c.param 32 1)) stOutOfRange 32]
  else if op = 0x0004 || (decide (0x2000 ≤ op) && decide (op < 0x6000) && op != 0x3002) then s.seqFails c :: s.chapterFails c
  else if op = 0x9000 then [if actionBytes (c.param 32 1) = 0 then none else s.placeFails c (c.param 40 8) (actionBytes (c.param 32 1)) false 40]
  else if op = 0x9001 then [s.placeFails c (c.param 40 8) recordBytes false 40]
  else if op = 0xA001 && c.param 32 1 = 2 && c.param 36 4 != 0 then [refuseRange (s.rangeOf c (c.param 40 8) (16 * c.param 36 4) false) 40]
  else []

/-- The class 1 judgements of the chapters, the failure at the lowest byte, and what a command needs. -/
def deepChecks : Deep :=
  { fails := fun s c => (theRefusal (s.acceptanceFails c)).filter fun r => classOf r.status == 1, needs := State.needsOf }

end Sys2Proof.Machine
end

