-- ==== Sys2Proof/Machine/Units.lean ====
section
/-! DEFINITION. Faults, fences and tests of pavés and vector engines (chapters 6, 9 and 10), the beat ring and its watchdog
(chapter 2), and the accumulator view (R225). -/

namespace Sys2Proof.Machine

open Sys2Proof

/-! ## Units -/

/-- Is a unit block ID a pavé's or an engine's? -/
def isCompute (u : Nat) : Bool := (decide (0x01 ≤ u) && decide (u ≤ 0x08)) || (decide (0x10 ≤ u) && decide (u ≤ 0x2F))

/-- The event register of a pavé or engine, and the flags FENCED and ABANDONED in it. -/
def evUnit (u : Nat) : Nat := if u < 0x10 then evPave (u - 1) else evEngine (u - 0x10)
def flagFenced (u : Nat) : Nat := if u < 0x10 then 6 else 5

/-- PV_FAULT or VE_FAULT. -/
def faultReg (u : Nat) : Nat := unitBlock u + 0xC

/-- Is a pavé or engine on the beat ring: neither fenced nor gated (R41)? -/
def State.inService (s : State) (u : Nat) : Bool := isCompute u && !s.isFenced u && !s.power.gated.testBit (unitDie u)

/-- The berths that hold a pavé or engine. -/
def State.unitBerths (s : State) (u : Nat) : List Nat :=
  (List.range 8).filter fun b =>
    s.berthEnabled b && (if u < 0x10 then (s.regNat (berthCfg b + 4)).testBit (u - 1) else (s.regNat (berthCfg b + 8)).testBit (u - 0x10))

/-- Clears the banks of a unit: zero with valid parity and no poison (R259, R260). -/
def State.clearBanks (s : State) (u : Nat) : State :=
  { s with mem := (unitBanks u).foldl (fun (m : Mem) r => m.forget r.1 r.2) s.mem }

/-! ## The command on a unit -/

/-- The command that runs on a unit: the earliest that may run there. A compute command has its whole effect in one step of
this model, so the one a fault meets is the one that would run next (notes/assumptions/26.md). -/
def State.cmdOn (s : State) (u : Nat) : Option Cmd :=
  s.inflight.find? fun c =>
    (s.unitsOfCmd c).contains u && s.mayStart c && s.power.state == .active && (theRefusal (s.chapterFails c)).isNone

/-- Stops a command on the pavés and engines, as Table 6-8 and R241 give. -/
def State.stopCompute (s : State) (c : Cmd) (st : Nat) : State :=
  if c.opcode = 0x2000 then s.stopProducts c [c.product] st
  else if c.opcode = 0x2001 then
    let es := (List.range (c.param 32 4)).map fun i => s.bytesAt (c.param 80 8 + 64 * i) 64
    let ps := groupProducts c 0 es
    if (s.groupRefusal c ps es).isSome then s.finish c.ref { status := st } else s.stopProducts c ps st
  else if c.opcode = 0x2002 then
    let t := (s.unitsOfCmd c).foldl (fun (t : State) u => t.raise (evUnit u) (flagFenced u - 1)) s
    (t.poisonRanges (s.attendDst c)).finish c.ref { status := st }
  else if c.opcode = 0x3000 then
    s.engineAbandon c (s.enginesOf (c.param 40 4) (bitOf (c.param 37 1) 0)) [] (s.vopOut c.vop) c.vop.auxOut st
  else if c.opcode = 0x3001 then s.engineAbandon c (s.enginesOf (c.param 44 4) true) [] [(c.param 80 8, 8 * c.param 32 4)] [] st
  else
    let shadow := (s.applyDst c).take (c.param 44 4)
    s.engineAbandon c (bitsBelow 32 (c.param 72 4)) [] c.narrowRanges shadow st

/-- The collectives of the berth that streams through an engine end with a status. -/
def State.failUnitColls (s : State) (u st : Nat) : State :=
  if u < 0x10 then s
  else
    let berths := s.unitBerths u
    (s.colls.filter fun k => k.ended.isNone && (k.cmd.opcode == 0x5000 || k.cmd.opcode == 0x5001) && berths.contains k.cmd.berth).foldl
      (fun (t : State) k => t.failColl k st) s

/-- Stops what runs on a unit: its command, and the stream work of an engine, which ends its collective (R552). -/
def State.stopOn (s : State) (u st : Nat) : State :=
  (match s.cmdOn u with
    | some c => s.stopCompute c st
    | none => s).failUnitColls u st

/-! ## Faults and fences (R150, R178, R232, R246, R255) -/

/-- PV_FAULT and VE_FAULT keep the first fault. -/
def State.keepFault (s : State) (u w : Nat) : State :=
  if (s.regNat (faultReg u)).testBit 31 then s else s.setNat (faultReg u) (2 ^ 31 + w)

/-- Fences a unit: its fault is kept, it leaves the beat ring, and the fence is recorded. -/
def State.fenceUnit (s : State) (u w : Nat) : State :=
  if !isCompute u || s.isFenced u then s
  else
    let t := s.keepFault u w
    let t := { t with units := { t.units with fenced := t.units.fenced ++ [u], readied := t.units.readied.filter (· != u) } }
    (t.raise (evUnit u) (flagFenced u)).logEvent { cause := 0x0201, cls := 2, unit := u }

/-- A fault of a unit in the passes of a training step of its berth ends that step with TRAIN_FAILED (R487). -/
def State.failPasses (s : State) (u : Nat) : State :=
  (s.trains.filter fun k => k.2.phase == .pass && (s.unitBerths u).contains k.2.cmd.berth).foldl
    (fun (t : State) k => t.stopTrain k.1 stTrainFailed) s

/-- A unit fails: a fault of kind 1 or 2 of PV_FAULT, or 1 of VE_FAULT. On a unit that is fenced already the fault is only
counted (R178). -/
def State.unitFault (s : State) (u w : Nat) : State :=
  let t := (s.raise (evUnit u) 0).failPasses u
  if t.isFenced u then t else (t.stopOn u stUnitFault).fenceUnit u w

/-- A fault as the registers hold it: KIND, and the place where LOCATED is set. -/
def paveFaultWord (w : Nat) : Nat := if w.testBit 6 then field w 30 28 * 2 ^ 28 + field w 20 6 * 2 ^ 6 else field w 30 28 * 2 ^ 28
def engineFaultWord (w : Nat) : Nat := if w.testBit 11 then field w 30 28 * 2 ^ 28 + field w 11 0 else field w 30 28 * 2 ^ 28

/-- PAVE_FAULT: an array fault of PVn, given as PV_FAULT holds it. -/
def execPaveFault (n fault : Nat) (s : State) : Host.Outcome State Fault Refusal :=
  runs (fun s =>
    if n < 8 && !s.power.gated.testBit (n / 2) && [1, 2].contains (field fault 30 28) then s.unitFault (n + 1) (paveFaultWord fault)
    else s) s

/-- ENGINE_FAULT: a fault of VEn, given as VE_FAULT holds it. -/
def execEngineFault (n fault : Nat) (s : State) : Host.Outcome State Fault Refusal :=
  runs (fun s =>
    if 32 ≤ n || s.power.gated.testBit (n / 8) then s
    else if field fault 30 28 = 1 then s.unitFault (0x10 + n) (engineFaultWord fault)
    else if field fault 30 28 = 2 && !s.units.upset.contains n then { s with units := { s.units with upset := s.units.upset ++ [n] } }
    else s) s

/-- RESIDUE_FENCE: a second disagreement on one engine within 1 s. -/
def execResidueFence (n now : Nat) (s : State) : Host.Outcome State Fault Refusal :=
  runs (fun s =>
    let s := s.at now
    let ts := (lookup n s.units.residueAt).getD []
    let near := match ts with
      | a :: b :: _ => decide (a - b ≤ second)
      | _ => false
    if n < 32 && near then s.fenceUnit (0x10 + n) (2 * 2 ^ 28) else s) s

/-- BANK_OWNER_FENCE: 16 parity errors of one bank within 1 s. The fence adds no UNIT_FAULT and no ARRAY_FAULT (R255). -/
def execBankOwnerFence (die bank now : Nat) (s : State) : Host.Outcome State Fault Refusal :=
  runs (fun s =>
    let s := s.at now
    let ts := (lookup (16 * die + bank) s.units.parityAt).getD []
    let near := match ts with
      | a :: _ => decide (16 ≤ ts.length) && decide (a - ts.getLastD 0 ≤ second)
      | [] => false
    match bankOwner die bank with
    | some u => if die < 4 && bank < 15 && near && !s.isFenced u then (s.fenceUnit u (3 * 2 ^ 28)).raise (evBanks die) 3 else s
    | none => s) s

/-! ## The beat ring (R41, R42, R178) -/

/-- The windows of 1,000 local-timer units that have ended: PACE_NOW holds the beats of the latest (R42). -/
def State.rollWindow (s : State) : State :=
  let whole := (s.now - s.gov.windowFrom) / 1000
  if whole = 0 then s
  else
    let t := s.setNat blkPower (if whole = 1 then s.gov.windowBeats else 0)
    { t with gov := { t.gov with windowBeats := 0, windowFrom := t.gov.windowFrom + 1000 * whole } }

/-- n beats complete. They count in the window in which the event falls. -/
def State.beats (s : State) (n : Nat) : State :=
  let t := s.rollWindow.add64 (blkPower + 8) n
  { t with gov := { t.gov with windowBeats := t.gov.windowBeats + n, beatFrom := t.now } }

/-- A parity error in the towpath bank of a die: it ends the command whose staged item it hits with UNCORRECTABLE (R255). Which of the
commands that may start on the die has its item there, or none, is free (notes/assumptions/47.md). -/
def State.towpathUpset (s : State) (die a : Nat) : State :=
  let cs := s.inflight.filter fun c =>
    (s.unitsOfCmd c).any (fun u => unitDie u == die) && s.mayStart c && (theRefusal (s.chapterFails c)).isNone
  let d := (s.noteParity 5 a).draw
  match cs[Config.freeWord d.1 0 % (cs.length + 1)]? with
  | some c => d.2.stopCompute c stUncorrectable
  | none => d.2

/-- An upset of the memory at a physical address (R310): a bank byte has bad parity until it is written (R252), the sector of a stack or
reach module that has been written has two symbols in error at its next read (R314). The basin's is CRC_MISMATCH. An address of 2⁵⁶ and
more stands for a manifest entry, whose sequence ends at the next step boundary (R453, notes/assumptions/47.md). -/
def State.upset (s : State) (a : Nat) : State :=
  if 2 ^ 56 ≤ a then
    { s with manifest := updateFirst (fun k => k.1 == a - 2 ^ 56) (fun k => (k.1, { k.2 with ending := some stUnitFault })) s.manifest }
  else if inBanks a then
    match bankPlace a with
    | none => s
    | some k =>
      if k.bank.index = 14 then s.towpathUpset k.die a
      else if k.view ≠ .plain || s.mem.parity.contains a then s
      else { s with mem := { s.mem with parity := s.mem.parity ++ [a] } }
  else
    let u := s.poisonUnit a
    if (a < stackBytes s.spine.variant || (physSocket a).isSome) && !s.neverWritten u && !s.mem.poison.contains u
        && !s.mem.bad.contains u then
      { s with mem := { s.mem with bad := s.mem.bad ++ [u] } }
    else s

/-- BEAT: n beats complete, every unit in service having acknowledged each (R41, R42), in whose time the memories at these addresses are upset. -/
def execBeat (n : Nat) (upsets : List Nat) (now : Nat) (s : State) : Host.Outcome State Fault Refusal :=
  runs (fun s => let s := s.at now; if s.beating then upsets.foldl (fun (t : State) a => t.upset a) (s.beats n) else s) s

/-- PACE_WINDOW: a window of 1,000 local-timer units has ended. -/
def execPaceWindow (now : Nat) (s : State) : Host.Outcome State Fault Refusal :=
  runs (fun s => (s.at now).rollWindow) s

/-- BEAT_WATCHDOG: a beat stands uncompleted 10 µs after it began; the units in service that are late with their acknowledge are
fenced, and the beat completes without them. -/
def execBeatWatchdog (late : List Nat) (now : Nat) (s : State) : Host.Outcome State Fault Refusal :=
  runs (fun s =>
    let s := s.at now
    let us := (late.filter s.inService).dedup
    if s.beating && s.expired (s.gov.beatFrom + 10 * usec) && !us.isEmpty then
      let victims := us.foldl (fun (cs : List Cmd) u =>
        match s.cmdOn u with | some c => if cs.any fun d => d.ref == c.ref then cs else cs ++ [c] | none => cs) []
      let t := victims.foldl (fun (t : State) c => t.stopCompute c stUnitFault) s
      let t := us.foldl (fun (t : State) u => (((t.raise (evUnit u) 0).failPasses u).failUnitColls u stUnitFault).fenceUnit u 0) t
      t.beats 1
    else s) s

/-! ## Clearing (R260) -/

/-- The operations of an older epoch that need a unit or its banks have left them (R142). -/
def State.unitLeft (s : State) (u : Nat) : Bool :=
  (s.inflight.all fun c => !c.working || s.isCurrent c.epoch || !c.needs.any (Need.unit u).meets)
    && (s.serving.all fun k => match k.2.step with
      | some b => s.isCurrent b.epoch || !(s.berthUnits b.epoch k.2.berth).contains (.unit u)
      | none => true)
    && s.trains.all fun k =>
      !k.2.inStep || s.isCurrent k.2.cmd.epoch || !(s.berthUnits k.2.cmd.epoch k.2.cmd.berth).contains (.unit u)

/-- The banks of a unit that a commit moved are cleared once the older epoch's operations have left it. -/
def State.clearMoved (s : State) (u : Nat) : State :=
  if s.clears.contains u && s.unitLeft u then
    { s.clearBanks u with clears := s.clears.filter (· != u) }
  else s

/-- BANK_CLEAR: all banks of a bank's owner clear at once. -/
def execBankClear (die bank : Nat) (s : State) : Host.Outcome State Fault Refusal :=
  runs (fun s =>
    match bankOwner die bank with
    | some u => if die < 4 && bank < 15 then s.clearMoved u else s
    | none => s) s

/-! ## SELF_TEST (R596) -/

/-- Does anything run on a unit: a command, or a batch step of a service in its berth? -/
def State.unitBusy (s : State) (u : Nat) : Bool :=
  (s.cmdOn u).isSome || (s.serving.any fun k => k.2.step.isSome && (s.unitBerths u).contains k.2.berth)
    || s.trains.any fun k => k.2.inStep && (s.unitBerths u).contains k.2.cmd.berth

/-- SELF_TEST: the comparison with the reference results passes or not, as the units give it. -/
def State.selfTest (s : State) (c : Cmd) (pass : Bool) : State :=
  let u := c.param 32 1
  let ready := if s.isFenced u then s.units.readied.contains u else !s.unitBusy u
  let owned := if u < 0x10 then (s.berthPaves c.epoch c.berth).testBit (u - 1) else (s.berthVes c.epoch c.berth).testBit (u - 0x10)
  match theRefusal
    [ refuseIf (!isCompute u) stOutOfRange 32, refuseIf (isCompute u && !owned) stBerthOwnership
    , refuseIf (isCompute u && s.power.gated.testBit (unitDie u)) stUnitFenced, refuseIf (isCompute u && !ready) stResourceInUse ] with
  | some r => s.refuse c r.status r.detail
  | none =>
    let t := (if u < 0x10 then s.dropRegions [u - 1] else s).clearBanks u
    if pass then
      ({ t with units := { t.units with fenced := t.units.fenced.filter (· != u), readied := t.units.readied.filter (· != u) } }).finish
        c.ref { result0 := 1 }
    else
      let t := { t with units := { t.units with readied := t.units.readied.filter (· != u) } }
      let t := if t.isFenced u then t
        else ({ t with units := { t.units with fenced := t.units.fenced ++ [u] } }).raise (evUnit u) (flagFenced u)
      ((t.logEvent { cause := 0x0203, cls := 2, unit := u, berth := some c.berth, queue := c.queue, fn := c.fn, tag := c.tag }).markLogged
        c.ref).finish c.ref { result0 := 0 }

def execSelfTest (c : CmdRef) (pass : Bool) (hv : HostView) (s : State) : Host.Outcome State Fault Refusal :=
  runs (fun s => (s.sees hv).startCompute 0xA002 c fun k s => s.selfTest k pass) s

/-! ## The accumulator view (R225) -/

/-- A word read through the debug window at offset x. -/
def State.accView (s : State) (x : Nat) : Option Nat :=
  let v := s.regNat (blkDevice + 0xA00)
  let at' := field v 4 0 * 0x100000 + x
  if s.sec.debug = 0 || !v.testBit 31 || 0x800000 ≤ x then none
  else if at' + 4 ≤ cBankBytes then some (cBank (field v 10 8) + at')
  else none

/-- ACC_VIEW_READ: a word of the viewed C-bank as it is stored; PARITY_C sets where its parity is bad. An access that is not aligned
reads zero and is logged (R9). -/
def execAccViewRead (off : Nat) (s : State) : Host.Outcome State Fault Refusal :=
  runsHost (fun s =>
    if off % 4 ≠ 0 then (s.logEvent { cause := 0x0001, cls := 0, fn := 0, address := 0x03000000 + off }).emit (.readData 0) else
    match s.accView off with
    | none => s.emit (.readData 0)
    | some a =>
      let n := field (s.regNat (blkDevice + 0xA00)) 10 8
      let t := s.noteRead 4 a 4
      let t := if (s.parityIn a 4).isEmpty then t else t.raise (evPave n) 3
      t.emit (.readData (s.natAt a 4))) s

end Sys2Proof.Machine
end

