-- ==== Sys2Proof/Machine/Abandon.lean ====
section
/-! DEFINITION. Abandoned commands (R117-R119): ABORT, COMMAND_TIMEOUT and QUEUE_DELETE, opcode by opcode; and COMMAND_COMPLETION. Services
are no commands in flight once their opening commit is granted, and go on. -/

namespace Sys2Proof.Machine

open Sys2Proof

/-! ## Safe points -/

/-- The pavés and engines that run a command. -/
def State.unitsRunning (s : State) (c : Cmd) : List Nat := (s.unitsOfCmd c).filter fun u => s.cmdOn u == some c

/-- A paused pass has no safe point until the pause ends (R177). -/
def State.pausedOn (s : State) (c : Cmd) : Bool := (s.gov.pausedPower || s.gov.pausedThermal) && !(s.unitsRunning c).isEmpty

/-! ## Commands that have not started, or run on units -/

/-- A command on pavés or engines stops: ABANDONED sets there, and the banks that its passes used are undefined (Table 6-8, R175). -/
def State.leaveUnits (s : State) (c : Cmd) : State :=
  let us := s.unitsRunning c
  let t := us.foldl (fun (t : State) u => t.raise (evUnit u) (flagFenced u - 1)) s
  if c.opcode = 0x2000 || c.opcode = 0x2001 then
    us.foldl (fun (t : State) u => (t.set64 (accHoldAt (u - 1)) 0).spend [c.product] false (u - 1, u - 1)) t
  else t

/-- A collective that waits to start fails as one that runs: its neighbours hear of it (R423). -/
def State.failWaitingColl (s : State) (c : Cmd) (st : Nat) : State :=
  let t := s.openColl c .command
  match t.collAt c.group c.collSeq with
  | some k => t.failColl k st
  | none => s.finish c.ref { status := st }

/-- A command that waits, or runs in one step, ends: its destinations are undefined (R119). -/
def State.abandonReady (s : State) (c : Cmd) (st : Nat) : State :=
  if c.opcode / 0x1000 = 5 then
    (if (theRefusal (s.chapterFails c)).isNone then s.failWaitingColl c st else s.finish c.ref { status := st })
  else ((s.leaveUnits c).undefineOutputs c).finish c.ref { status := st }

/-! ## Commands that wait for a commit or an event -/

/-- Does this commit still wait? -/
def State.awaiting (s : State) (o : CommitFor) : Bool := s.commits.any fun w => w.owner == o

/-- A load: before its reserving commit nothing is left of it; after it the failure commit of R339 follows. -/
def State.abandonLoad (s : State) (c : Cmd) (st : Nat) : State :=
  let set := (s.sets.find? fun k => k.2.command == some c.ref).map fun k => k.1
  let slot := (s.adapters.find? fun k => k.2.command == some c.ref).map fun k => k.1
  match set, slot with
  | some w, _ => if s.awaiting (.setFail w) then s else s.failSet w st
  | none, some i => if s.awaiting (.adapterFail i) then s else s.failAdapter i st
  | none, none =>
    ({ s with commits := s.commits.filter fun w => match w.owner with
        | .setReserve r => r != c.ref
        | .adapterReserve r _ => r != c.ref
        | _ => true }).finish c.ref { status := st }

/-- A drop of a set: a DROPPING set returns to RESIDENT by a commit (R349). -/
def State.abandonDrop (s : State) (c : Cmd) (st : Nat) : State :=
  let w := c.param 32 1
  match lookup w s.sets with
  | none => s.finish c.ref { status := st }
  | some k =>
    if k.state = 4 then
      (if k.failing.isSome then s else (s.updSet w fun k => { k with failing := some st }).awaitCommit (.setReturn w))
    else ((s.withdraw (.setDropping c.ref)).updSet w fun k => { k with command := none }).finish c.ref { status := st }

/-- A service command before its commit: the commit is withdrawn and the service is none. -/
def State.abandonOpen (s : State) (c : Cmd) (st : Nat) : State :=
  let t :=
    if c.opcode = 0x6000 then { s.withdraw (.serveOpen c.ref (c.param 32 1)) with serving := erase (c.param 32 1) s.serving }
    else if c.opcode = 0x7000 then { s.withdraw (.trainOpen c.ref (c.param 32 1)) with trains := erase (c.param 32 1) s.trains }
    else if c.opcode = 0x6009 then { s.withdraw (.scoreOpen c.ref c.berth) with scores := erase c.berth s.scores }
    else s
  t.finish c.ref { status := st }

/-- A TURN before its first commit. -/
def State.abandonTurn (s : State) (c : Cmd) (st : Nat) : State :=
  let ns := s.commits.filterMap fun w => match w.owner with | .turnFirst r n => if r = c.ref then some n else none | _ => none
  (ns.foldl (fun (t : State) n => { t.withdraw (.turnFirst c.ref n) with turns := erase n t.turns }) s).finish c.ref { status := st } |>.releaseHoldWait

/-- A close command: the service is as if it had not come, but what it has cut stays cut. -/
def State.abandonClose (s : State) (c : Cmd) (st : Nat) : State :=
  let n := c.param 32 1
  let t :=
    if c.opcode = 0x6001 then (s.withdraw (.serveClose n)).updServing n fun k => { k with closing := none }
    else
      match lookup n s.trains with
      | some k =>
        if k.ended && k.cmd.steps ≤ k.index then s.updTrain n fun k => { k with closing := none }
        else (s.withdraw (.trainClose n)).updTrain n fun k => { k with closing := none, ended := false }
      | none => s
  t.finish c.ref { status := st, result0 := match lookup n s.serving with | some k => (match k.closing with | some x => x.2.2 | none => 0) | none => 0 }

/-- A SEQ_CANCEL that waits for its step boundary is withdrawn. -/
def State.abandonCancel (s : State) (c : Cmd) (st : Nat) : State :=
  let drop := fun (e : Entry) =>
    if !e.cancels.contains c.ref then e
    else
      let left := e.cancels.filter (· != c.ref)
      { e with cancels := left, ending := if left.isEmpty && e.ending == some stSeqCancelled then none else e.ending }
  ({ s with manifest := s.manifest.map fun (k : Nat × Entry) => (k.1, drop k.2) }).finish c.ref { status := st }

/-- A PARK that waits for a step. -/
def State.abandonPark (s : State) (c : Cmd) (st : Nat) : State :=
  let out := fun (ps : List (CmdRef × Nat)) => ps.filter fun p => p.1 != c.ref
  ({ s with
    serving := s.serving.map fun (k : Nat × Serving) => (k.1, { k.2 with parking := out k.2.parking }),
    trains := s.trains.map fun (k : Nat × Train) => (k.1, { k.2 with parking := out k.2.parking }) }).finish c.ref { status := st }

/-- Ends a quiesce of a scope: a berth, or 0xFF for the device (R553). -/
def State.unquiesce (s : State) (scope : Nat) : State :=
  if scope = 0xFF then { s with power := { s.power with quiesced := false } }
  else if scope < 8 then { s with power := { s.power with quiescedBerths := putBit s.power.quiescedBerths scope false } }
  else s

/-- A QUIESCE or POWER_STATE that waits: the scope that it put under quiesce is released. -/
def State.abandonQuiesce (s : State) (c : Cmd) (st : Nat) : State :=
  let t := (s.power.quiescing.filter fun q => q.1 == c.ref).foldl (fun (t : State) q => t.unquiesce q.2) s
  ({ t with power := { t.power with quiescing := t.power.quiescing.filter fun q => q.1 != c.ref } }).finish c.ref { status := st }

/-- A MARGIN_PLAN in progress. -/
def State.abandonPlan (s : State) (c : Cmd) (st : Nat) : State :=
  ({ s with gov := { s.gov with planning := s.gov.planning.filter fun p => p.2 != some c.ref } }).finish c.ref { status := st }

/-- Abandons a command in flight with a status. A finished one keeps its own (R117). -/
def State.abandonCmd (s : State) (c : Cmd) (st : Nat) : State :=
  let op := c.opcode
  if c.stage = .done then s
  else if c.stage = .waiting then s.finish c.ref { status := st }
  else if c.stage ≠ .running then s.abandonReady c st
  else if op = 0x1002 then (s.withdrawCommit c.ref).finish c.ref { status := st }
  else if op / 0x1000 = 5 then
    match s.collAt c.group c.collSeq with
    | some k => s.failColl k st
    | none => s.finish c.ref { status := st }
  else if op = 0x6005 || op = 0x6007 then s.abandonLoad c st
  else if op = 0x6006 then s.abandonDrop c st
  else if op = 0x6008 then (s.withdraw (.adapterRetire c.ref)).finish c.ref { status := st }
  else if op = 0x6000 || op = 0x7000 || op = 0x6009 then s.abandonOpen c st
  else if op = 0x8000 then s.abandonTurn c st
  else if op = 0x6001 || op = 0x7001 then s.abandonClose c st
  else if op = 0x6004 then s.abandonCancel c st
  else if op = 0x8001 then s.abandonPark c st
  else if op = 0x0005 then s.finish c.ref { status := st }
  else if op = 0x0008 then s.abandonPlan c st
  else if op = 0x0009 || op = 0x000B then s.abandonQuiesce c st
  else (s.undefineOutputs c).finish c.ref { status := st }

/-! ## ABORT and COMMAND_TIMEOUT -/

/-- ABORT (R118) of the command that it named at its acceptance; one that has finished since is unaffected. A COMMIT whose instant has
passed counts as not in flight (R139). -/
def State.abort (s : State) (c : Cmd) : State :=
  match c.aims with
  | none => s.finish c.ref { status := stNotFound }
  | some n =>
    match s.inflight.find? fun d => d.seq == n with
    | none => s.finish c.ref {}
    | some d =>
      if d.opcode = 0x1002 && d.stage = .done && d.status = stSuccess then s.finish c.ref { status := stNotFound }
      else if s.pausedOn d then s
      else (s.abandonCmd d stAborted).finish c.ref {}

def execAbort (c : CmdRef) (hv : HostView) (s : State) : Host.Outcome State Fault Refusal :=
  runs (fun s => (s.sees hv).start 0x0003 c fun k s => s.abort k) s

/-- COMMAND_TIMEOUT: the deadline of a command has come, and it is at a safe point. -/
def execCommandTimeout (c : CmdRef) (now : Nat) (s : State) : Host.Outcome State Fault Refusal :=
  runs (fun s =>
    let s := s.at now
    match s.cmd c with
    | none => s
    | some d =>
      match d.deadline with
      | some t => if s.expired t && !s.pausedOn d then s.abandonCmd d stTimedOut else s
      | none => s) s

/-! ## QUEUE_DELETE (R107) -/

/-- Every command of a queue ends with a status, and leaves flight without a reply. -/
def State.emptyQueue (s : State) (n st : Nat) : State :=
  let mine := s.inflight.filter fun c => c.queue == n
  let t := mine.foldl (fun (t : State) c => match t.cmd c.ref with | some d => t.abandonCmd d st | none => t) s
  let gone := fun (r : Option CmdRef) => match r with | some r => if r.queue = n then none else some r | none => none
  let t := { t with
    inflight := t.inflight.filter fun c => c.queue != n,
    sets := t.sets.map fun (k : Nat × WeightSet) => (k.1, { k.2 with command := gone k.2.command }),
    adapters := t.adapters.map fun (k : Nat × Adapter) => (k.1, { k.2 with command := gone k.2.command }) }
  let sec := match t.sec.resetAfter with
    | some r => if r.queue = n then { t.sec with resetAfter := none, resetDue := some (t.now + 10 * msec) } else t.sec
    | none => t.sec
  ({ t with sec := sec }).histSettle

/-- Deletes a queue that has nothing in flight: its page keeps no event flag. -/
def State.eraseQueue (s : State) (n : Nat) : State := { s.clearPage n with queues := erase n s.queues }

def State.queueDelete (s : State) (c : Cmd) : State :=
  let n := c.param 32 1
  if (lookup n s.queues).isNone then s.finish c.ref { status := stNotFound }
  else if s.inflight.any fun d => d.queue == n && s.pausedOn d then s
  else ((s.emptyQueue n stAborted).eraseQueue n).finish c.ref {}

def execQueueDelete (c : CmdRef) (hv : HostView) (s : State) : Host.Outcome State Fault Refusal :=
  runs (fun s => (s.sees hv).start 0x0002 c fun k s => s.queueDelete k) s

/-! ## COMMAND_COMPLETION -/

/-- A LOGBOOK_CTRL STOP that succeeded ends the recording after its own COMPLETE entry (R591). -/
def State.stopRecording (s : State) : State :=
  let t := s.record 0 11 0 []
  { t with logbook := { t.logbook with state := .stopped } }

/-- The reply of a life-cycle transition is written: the warm reset follows after 10 ms (R559). -/
def State.transitionAnswered (s : State) (r : CmdRef) : State :=
  if s.sec.resetAfter == some r && (s.cmd r).isNone then
    { s with sec := { s.sec with resetAfter := none, resetDue := some (s.now + 10 * msec) } }
  else s

/-- A finished command is answered. The commands that waited behind a COMMIT of its queue are accepted once that has ended. -/
def State.answerCmd (s : State) (r : CmdRef) : State :=
  let t := (s.complete outputBytes r).transitionAnswered r
  match s.doneCmd r with
  | some c =>
    if c.opcode = 0xA001 && c.param 32 1 = 1 && c.status = stSuccess && (t.inflight.all fun d => d.seq != c.seq) && t.recording then
      t.stopRecording
    else t
  | none => t

def execCommandCompletion (c : CmdRef) (now : Nat) (hv : HostView) (s : State) : Host.Outcome State Fault Refusal :=
  runs (fun s => (((s.at now).sees hv).answerCmd c).grantWaiting deepChecks c.queue) s

end Sys2Proof.Machine
end

