-- ==== Sys2Proof/Machine/Keepsake.lean ====
section
/-! DEFINITION. Keepsake as the coin cell holds it (Table 5-6): its bytes, its checksum, and what a power-on reads of it (R146, R147). -/

namespace Sys2Proof.Machine

open Sys2Proof

/-- A keepsake event record (Table 22-3). -/
def KeepsakeEvent.bytes (e : KeepsakeEvent) : List Byte :=
  leBytes 1 e.kind ++ leBytes 1 (2 * bit e.copied + bit e.acknowledged) ++ leBytes 1 e.order ++ [0] ++ leBytes 4 e.hours ++ leBytes 8 e.time

def readEvent (b : List Byte) : KeepsakeEvent :=
  { kind := fieldAt b 0 1, copied := bitOf (fieldAt b 1 1) 1, acknowledged := bitOf (fieldAt b 1 1) 0, order := fieldAt b 2 1,
    hours := fieldAt b 4 4, time := fieldAt b 8 8 }

/-- A margin-plan record (Table 2-3). -/
def PlanRecord.bytes (p : PlanRecord) : List Byte :=
  leBytes 2 p.plan ++ leBytes 2 p.ceiling ++ leBytes 4 p.hours ++ ((List.range 14).flatMap fun i => leBytes 1 (p.offsets.getD i 0))
    ++ leBytes 1 p.headroom ++ leBytes 1 p.flags

def readPlan (b : List Byte) : PlanRecord :=
  { plan := fieldAt b 0 2, ceiling := fieldAt b 2 2, hours := fieldAt b 4 4, offsets := (List.range 14).map fun i => fieldAt b (8 + i) 1,
    headroom := fieldAt b 22 1, flags := fieldAt b 23 1 }

/-- The bytes 0x00C to 0xFFF, which the checksum covers. -/
def Keepsake.body (k : Keepsake) : List Byte :=
  leBytes 4 k.hours ++ ((List.range 4).flatMap fun i => leBytes 2 (k.lanes.getD i 0).toNat) ++ leBytes 2 k.planNext.toNat
    ++ leBytes 2 k.settings.length ++ leBytes 2 k.enlonInc.toNat ++ zeros 2
    ++ ((List.range 8).flatMap fun i => match k.events[i]? with | some e => e.bytes | none => zeros 16)
    ++ (if k.ownerBlob.isEmpty then zeros 256 else (List.range 256).map fun i => Config.sealedByte k.ownerBlob i)
    ++ ((List.range 64).flatMap fun i => match lookup i k.plans with | some p => p.bytes | none => zeros 24)
    ++ ((List.range 178).flatMap fun i => match k.settings[i]? with | some r => leBytes 4 r.1 ++ leBytes 8 r.2.toNat | none => zeros 12)
    ++ leBytes 4 k.wipes.toNat ++ zeros 4

/-- The 4,096 bytes. Every write of the device leaves MAGIC and CHECKSUM good (R146). -/
def Keepsake.image (k : Keepsake) : List Byte :=
  let b := k.body
  leBytes 4 0x4B530001 ++ leBytes 4 k.writeCount ++ leBytes 4 (crc32c b) ++ b

/-- An image some of whose bytes the cell no longer holds as they were written. -/
def decayed (image : List Byte) (decay : List (Nat × Byte)) : List Byte :=
  decay.foldl (fun (l : List Byte) (d : Nat × Byte) => l.set d.1 d.2) image

/-- Do MAGIC and CHECKSUM of an image verify (R147)? -/
def imageVerifies (raw : List Byte) : Bool := fieldAt raw 0 4 == 0x4B530001 && fieldAt raw 8 4 == crc32c (raw.drop 12)

/-- The contents of an image that verifies; `k` is what was written, for the blob that the sealed bytes hold. -/
def Keepsake.read (k : Keepsake) (raw : List Byte) : Keepsake :=
  { writeCount := fieldAt raw 4 4, hours := fieldAt raw 0x00C 4,
    lanes := (List.range 4).map fun i => BitVec.ofNat 16 (fieldAt raw (0x010 + 2 * i) 2),
    planNext := BitVec.ofNat 16 (fieldAt raw 0x018 2), enlonInc := BitVec.ofNat 16 (fieldAt raw 0x01C 2),
    events := (List.range 8).map fun i => readEvent (slice raw (0x020 + 16 * i) 16),
    ownerBlob := k.ownerBlob,
    plans := (List.range 64).filterMap fun i =>
      let b := slice raw (0x1A0 + 24 * i) 24
      if b.all (· == 0) then none else some (i, readPlan b),
    settings := (List.range (min 178 (fieldAt raw 0x01A 2))).map fun i =>
      (fieldAt raw (0x7A0 + 12 * i) 4, BitVec.ofNat 64 (fieldAt raw (0x7A4 + 12 * i) 8)),
    wipes := BitVec.ofNat 24 (fieldAt raw 0xFF8 3) }

/-- Keepsake as a power-on finds it, with the bytes that decayed; none where it does not verify. The bytes as they were written verify. -/
def Keepsake.found (k : Keepsake) (decay : List (Nat × Byte)) : Option Keepsake :=
  if decay.isEmpty then some k
  else
    let raw := decayed k.image decay
    if imageVerifies raw then some (k.read raw) else none

end Sys2Proof.Machine
end

