-- ==== Sys2Proof/Machine/Secure.lean ====
section
/-! DEFINITION. The security core (chapters 10, 21 and 22): keepsake events, the locket and its wipe, the fuse log, debug modes,
authorisation records, the owner blob. -/

namespace Sys2Proof.Machine

open Sys2Proof

/-! ## Keepsake events (R585) -/

/-- A record that stands for a tamper not acknowledged. -/
def KeepsakeEvent.pendingTamper (e : KeepsakeEvent) : Bool := decide (4 ≤ e.kind) && decide (e.kind ≤ 6) && !e.acknowledged

/-- A tamper is pending (R577). -/
def State.tamperPending (s : State) : Bool := s.keepsake.events.any KeepsakeEvent.pendingTamper

/-- The slot of a new record: the first empty one, or the one with the oldest ORDER among those that are no pending tamper. -/
def eventSlot (es : List KeepsakeEvent) : Option Nat :=
  match (List.range 8).find? fun i => match es[i]? with | some e => e.kind == 0 | none => true with
  | some i => some i
  | none =>
    let old := (List.range 8).filter fun i => match es[i]? with | some e => !e.pendingTamper | none => false
    let order := fun (i : Nat) => match es[i]? with | some e => e.order | none => 0
    old.find? fun i => old.all fun j => order i ≤ order j

/-- A record of kind 1 to 6 is written where a slot is free for it. -/
def State.keepsakeEvent (s : State) (kind : Nat) (powered : Bool) : State :=
  let es := s.keepsake.events
  match eventSlot es with
  | none => s
  | some i =>
    let order := if es.any fun e => e.kind != 0 then ((es.filter fun e => e.kind != 0).foldl (fun m e => max m e.order) 0 + 1) % 256 else 1
    let e : KeepsakeEvent :=
      { kind := kind, copied := false, acknowledged := decide (kind < 4), order := order, hours := s.keepsake.hours,
        time := if powered then s.now else 0 }
    s.ksWrite fun k => { k with events := if i < es.length then k.events.set i e else k.events ++ [e] }

/-- A tamper record written under power: TAMPER sets and the event is logged. -/
def State.tamper (s : State) (kind : Nat) : State :=
  ((s.keepsakeEvent kind true).raise evSec 6).logEvent { cause := 0x0502, cls := 2, unit := 0x72, detail := kind }

/-- Every pending tamper is acknowledged (R572). -/
def State.acknowledge (s : State) : State :=
  if !s.tamperPending then s
  else (s.ksWrite fun k => { k with events := k.events.map fun (e : KeepsakeEvent) => { e with acknowledged := true } }).raise evSec 7

/-! ## The locket (R263-R268) -/

/-- A transport after every session has ended. -/
def SpdmPort.dropSessions (p : SpdmPort) : SpdmPort := { p with sessions := [] }

/-- Both lockets are zero: the wipe is counted, its cause kept, and the event logged (R266, R267). -/
def State.clearLocket (s : State) (cause : Nat) : State :=
  let n := s.keepsake.wipes.toNat
  let n' := min (n + 1) 0xFFFFFF
  let burn := n' != n && n' % 65536 == 0
  let t := s.ksWrite fun k => { k with wipes := BitVec.ofNat 24 n' }
  let t := { t with
    pcie := { t.pcie with ideStopped := t.pcie.ideStopped ++ (t.sec.locket.ideKeys.map Prod.fst) },
    sec := { t.sec with locket := Locket.reset, wipeCause := cause, wipeFuses := if burn then min (t.sec.wipeFuses + 1) 256 else t.sec.wipeFuses },
    mgmt := { t.mgmt with
      spdmDoe := t.mgmt.spdmDoe.dropSessions, spdmSmbus := t.mgmt.spdmSmbus.dropSessions, spdmI3c := t.mgmt.spdmI3c.dropSessions } }
  t.logEvent { cause := 0x0501, cls := 0, unit := 0x72, detail := cause }

/-! ## The fuse log (R558, R559) -/

/-- Entries are left for a transition other than RETIRE. -/
def State.fusesLeft (s : State) : Bool := decide (s.sec.fuseLog.length < 47)

/-- Burns one entry. -/
def State.burnFuse (s : State) (code : Nat) : State :=
  let t := { s with sec := { s.sec with fuseLog := s.sec.fuseLog ++ [code] } }
  (t.raise evSec 3).sensorChange 49 s.lcState code

/-- The registers that only a debug mode fills. -/
def State.clearHolds' (s : State) : State := (List.range 8).foldl (fun (t : State) n => t.set64 (accHoldAt n) 0) s

/-- A debug mode is over, with its grant and what its registers hold. -/
def State.dropDebug (s : State) : State :=
  if s.sec.debug = 0 then s
  else
    (({ s with sec := { s.sec with debug := 0, debugExpiry := 0, locket := { s.sec.locket with grant := false } } }).raise evSec 5).clearHolds'

/-- A transition: the entry is burned and the locket wiped; the warm reset follows 10 ms after the reply, or after the burn where no
command made it. The wipe takes the grant of a debug mode with it (R268). -/
def State.transition (s : State) (code : Nat) (by_ : Option CmdRef) : State :=
  let t := ((s.burnFuse code).clearLocket 2).dropDebug
  { t with sec := { t.sec with
    resetAfter := by_, resetDue := if by_.isSome then t.sec.resetDue else some (t.now + 10 * msec) } }

/-! ## Debug modes (R573, R574) -/

/-- A debug mode ends. The end of SERVICE_DEBUG is the transition to DEPLOYED; that of owner debug wipes the locket, unless a wipe
ended it. -/
def State.endDebug (s : State) (wiped : Bool) (by_ : Option CmdRef) : State :=
  if s.sec.debug = 0 then s
  else
    let service := s.sec.debug == 1
    let t := s.dropDebug
    if service then (if t.fusesLeft then t.transition 2 by_ else t)
    else if wiped then t else t.clearLocket 5

/-- A wipe for a cause of Table 10-5, which takes the grant of a debug mode with it. -/
def State.wipeLocket (s : State) (cause : Nat) : State := (s.clearLocket cause).endDebug true none

/-- A grant is placed in the locket. -/
def State.placeGrant (s : State) (mode expiry : Nat) : State :=
  ({ s with sec := { s.sec with debug := mode, debugExpiry := expiry, locket := { s.sec.locket with grant := true } } }).raise evSec 4

def execDebugExpiry (now : Nat) (s : State) : Host.Outcome State Fault Refusal :=
  runs (fun s =>
    let s := s.at now
    if s.sec.debug ≠ 0 && s.expired s.sec.debugExpiry then s.endDebug false none else s) s

/-! ## Authorisation (R561-R563) -/

/-- The hash that the owner's key must have: OWNER_KEY_HASH of the installed blob; none where there is none, or its tag fails. -/
def State.ownerHash (s : State) : Option (List Byte) :=
  if s.keepsake.ownerBlob.isEmpty || s.sec.blobBad then none else some (slice s.keepsake.ownerBlob 0 64)

/-- Does a record authorise an action of a signer? `hash` is what the key's hash must be. -/
def State.recordPasses (s : State) (b : List Byte) (signer action : Nat) (hash : Option (List Byte)) : Bool :=
  let key := slice b 32 136
  let duration := fieldAt b 24 4
  fieldAt b 0 4 == 0x41550001 && fieldAt b 4 1 == signer && fieldAt b 5 1 == action && fieldAt b 6 2 == 0 && fieldAt b 28 4 == 0
    && (slice b 300 20).all (· == 0) && (slice b 165 3).all (· == 0)
    && (if 0x10 ≤ action then decide (1 ≤ duration) && decide (duration ≤ 86400000) else duration == 0)
    && fieldAt b 8 8 == s.spine.serial.toNat && fieldAt b 16 8 == (Config.random s.sec.nonceDraw).toNat
    && (match hash with | some h => Config.sha512 key == h | none => false)
    && Config.ecdsaVerifies key (slice b 0 168) (slice b 168 132)

/-- AUTH_NONCE is drawn anew. -/
def State.renewNonce (s : State) : State :=
  let d := s.draw
  { d.2 with sec := { d.2.sec with nonceDraw := d.1 } }

/-- A check fails: AUTH_FAIL, AUTH_FAILS, a record, and the count of R563. -/
def State.noteAuthFail (s : State) (c : Cmd) : State :=
  let t := { s with sec := { s.sec with failedAt := s.now :: s.recent (3600 * second) s.sec.failedAt } }
  (((t.raise evSec 1).sat32 (blkSecurity + 0x20) 1).logEvent
    { cause := 0x0503, cls := 0, unit := 0x72, queue := c.queue, fn := c.fn, tag := c.tag }).markLogged c.ref

/-- Checks a record: while LOCKOUT stands every check fails. The nonce is renewed either way. -/
def State.checkRecord (s : State) (c : Cmd) (b : List Byte) (signer action : Nat) (hash : Option (List Byte)) : State × Bool :=
  let ok := s.sec.lockout.isNone && s.recordPasses b signer action hash
  ((if ok then s.raise evSec 0 else s.noteAuthFail c).renewNonce, ok)

/-- AUTH_LOCKOUT: the eighth failed check within 1 h. -/
def execAuthLockout (now : Nat) (s : State) : Host.Outcome State Fault Refusal :=
  runs (fun s =>
    let s := s.at now
    if s.sec.lockout.isNone && 8 ≤ (s.recent (3600 * second) s.sec.failedAt).length then
      (({ s with sec := { s.sec with lockout := some (s.now + 3600 * second), failedAt := [] } }).raise evSec 2).logEvent
        { cause := 0x0503, cls := 0, unit := 0x72 }
    else s) s

def execLockoutExpiry (now : Nat) (s : State) : Host.Outcome State Fault Refusal :=
  runs (fun s =>
    let s := s.at now
    match s.sec.lockout with
    | some t => if s.expired t then { s with sec := { s.sec with lockout := none } } else s
    | none => s) s

/-! ## The owner blob (R570, R571) -/

/-- SVN of the booted image, and the fused SVN. -/
def State.bootSlot (s : State) : FwSlot := if s.sec.bootSlot = 0 then s.sec.slotA else s.sec.slotB

/-- UNSEAL: why the blob is not unsealed, or 0, in the order of R570. -/
def State.unsealCode (s : State) : Nat :=
  let b := s.keepsake.ownerBlob
  if s.lcState ≠ 2 then 5
  else if b.isEmpty then 1
  else if s.sec.blobBad then 2
  else if s.bootSlot.svn < fieldAt b 128 1 then 3
  else if s.tamperPending then 4
  else 0

/-- Unseals the blob into the locket where R570 allows it. -/
def State.unseal (s : State) : State :=
  let n := s.unsealCode
  let l := if n = 0 then { s.sec.locket with owner := some s.keepsake.ownerBlob } else s.sec.locket
  { s with sec := { s.sec with unsealCode := n, locket := l } }

/-- The plaintext of an envelope that passes its check. -/
def State.envelope (s : State) (b : List Byte) : Option (List Byte) :=
  if fieldAt b 0 4 = 0x454E0001 && fieldAt b 4 4 = 0 && fieldAt b 156 4 = 0 && (slice b 141 3).all (· == 0) && !s.sec.seedBurned then
    (Config.openEnvelope b).map fun p => slice p 0 208
  else none

/-- A new blob is sealed into keepsake. -/
def State.installBlob (s : State) (p : List Byte) : State :=
  let t := s.ksWrite fun k => { k with ownerBlob := p }
  { t with sec := { t.sec with blobBad := false } }

/-! ## What a transition destroys -/

/-- Zero fill of every fitted stack and every reach module in service, and with them the logbook's contents (R559). -/
def State.zeroFill (s : State) : State :=
  let ns := (List.range 12).filter fun n => [SocketState.inService, .releaseRequested].contains (s.socket n).state
  let m := ns.foldl (fun (m : Mem) n => m.fill (socketBase n) socketBytes (.pattern 0)) (s.mem.fill 0 (stackBytes s.spine.variant) (.pattern 0))
  { s with mem := m, logbook := { s.logbook with held := [], buffer := [], lost := [] } }

/-- OWNER_BLOB, stack, reach and logbook contents (RETURN). -/
def State.destroyOwner (s : State) : State := (s.ksWrite fun k => { k with ownerBlob := [] }).zeroFill

/-- An empty flash slot. -/
def FwSlot.erased : FwSlot := { passes := false, svn := 0, activation := 0, digest := [] }

/-- The signet seed and both flash slots too (RETIRE). -/
def State.destroyAll (s : State) : State :=
  let t := s.destroyOwner
  { t with sec := { t.sec with seedBurned := true, slotA := .erased, slotB := .erased } }

/-! ## LIFECYCLE_SET and DEBUG_TOKEN (R572, R573) -/

/-- A firmware update is in progress (R567). -/
def State.updating (s : State) : Bool := match s.mgmt.update with | some u => u.phase != 4 | none => false

/-- The states in which an action is allowed (Table 21-8). -/
def State.actionAllowed (s : State) (action : Nat) : Bool :=
  let lc := s.lcState
  if action = 0 then lc == 0 || lc == 4
  else if action = 1 then lc == 1
  else if action = 4 then lc != 0xF
  else if action = 5 then lc == 3 || (lc == 2 && s.sec.debug == 2)
  else lc == 2

/-- An action whose record or envelope is read and whose state allows it. -/
def State.lifecycleAct (s : State) (c : Cmd) (b : List Byte) : State :=
  let action := c.param 32 1
  let deny := fun (t : State) => t.finish c.ref { status := stNotPermitted }
  let check := fun (signer : Nat) (hash : Option (List Byte)) => s.checkRecord c (slice b 0 recordBytes) signer action hash
  let vendor := some Config.vendorHash
  let move := fun (t : State) (code : Nat) => (t.transition code (some c.ref)).finish c.ref {}
  if action = 0 then let r := check 0 vendor; if r.2 then move r.1 1 else deny r.1
  else if action = 1 then
    match s.envelope b with
    | some p => move (s.installBlob p) 2
    | none => deny s
  else if action = 2 then
    let new := s.envelope (slice b recordBytes envelopeBytes)
    let none_ := s.keepsake.ownerBlob.isEmpty
    if none_ && new.isNone then deny s
    else
      let r := check 1 (if none_ then new.map fun p => slice p 0 64 else s.ownerHash)
      match r.2, new with
      | true, some p =>
        let t := r.1.installBlob p
        let t := if none_ then t.acknowledge else t
        ({ t with sec := { t.sec with unsealCode := 0, locket := { t.sec.locket with owner := some p } } }).finish c.ref {}
      | _, _ => deny r.1
  else if action = 3 then let r := check 1 s.ownerHash; if r.2 then move r.1.destroyOwner 4 else deny r.1
  else if action = 4 then
    let r := if s.lcState = 2 then check 1 s.ownerHash else check 0 vendor
    if r.2 then move r.1.destroyAll 0xF else deny r.1
  else if action = 5 then
    if s.sec.debug = 0 then move { s with sec := { s.sec with grantDue := none } } 2 else (s.endDebug false (some c.ref)).finish c.ref {}
  else
    let r := check 1 s.ownerHash
    if r.2 then r.1.acknowledge.unseal.finish c.ref {} else deny r.1

/-- Does an action burn a fuse entry that is held for RETIRE? -/
def State.noEntryLeft (s : State) (action : Nat) : Bool :=
  !s.fusesLeft && ([0, 1, 3].contains action || (action == 5 && s.lcState == 3))

def State.lifecycleSet (s : State) (c : Cmd) : State :=
  let action := c.param 32 1
  let n := actionBytes action
  let p := placeOf (c.param 40 8)
  match (if n = 0 then none else s.placeFails c (c.param 40 8) n false 40) with
  | some r => s.refuse c r.status r.detail
  | none =>
    if s.updating then s.finish c.ref { status := stResourceInUse }
    else if !s.actionAllowed action then s.finish c.ref { status := stNotPermitted }
    else if s.noEntryLeft action then s.finish c.ref { status := stNoResource }
    else if action = 6 && s.keepsake.ownerBlob.isEmpty then s.finish c.ref { status := stNotPermitted }
    else if action = 6 && s.panel.lidOpen then s.finish c.ref { status := stResourceInUse }
    else
      let r := s.readPlace p 0 n
      match r.2 with
      | some st => (match p with | .device a => s.noteRead 5 a n | _ => s).finish c.ref { status := st }
      | none => s.lifecycleAct c r.1

def execLifecycleSet (c : CmdRef) (hv : HostView) (s : State) : Host.Outcome State Fault Refusal :=
  runs (fun s => (s.sees hv).start 0x9000 c fun k s => s.lifecycleSet k) s

/-- DEBUG_TOKEN: the record's ACTION decides the mode. -/
def State.debugToken (s : State) (c : Cmd) : State :=
  let p := placeOf (c.param 40 8)
  match s.placeFails c (c.param 40 8) recordBytes false 40 with
  | some r => s.refuse c r.status r.detail
  | none =>
    if s.updating || s.sec.debug ≠ 0 then s.finish c.ref { status := stResourceInUse }
    else if s.lcState ≠ 2 then s.finish c.ref { status := stNotPermitted }
    else
      let r := s.readPlace p 0 recordBytes
      match r.2 with
      | some st => (match p with | .device a => s.noteRead 5 a recordBytes | _ => s).finish c.ref { status := st }
      | none =>
        let b := r.1
        let duration := fieldAt b 24 4 * msec
        if fieldAt b 5 1 = 0x10 then
          if !s.fusesLeft then s.finish c.ref { status := stNoResource }
          else
            let k := s.checkRecord c b 0 0x10 (some Config.vendorHash)
            if k.2 then
              let t := k.1.zeroFill.transition 3 (some c.ref)
              ({ t with sec := { t.sec with grantDue := some duration } }).finish c.ref {}
            else k.1.finish c.ref { status := stNotPermitted }
        else
          let k := s.checkRecord c b 1 0x11 s.ownerHash
          if k.2 then ((k.1.clearLocket 5).placeGrant 2 (c.acceptedAt + duration)).finish c.ref {}
          else k.1.finish c.ref { status := stNotPermitted }

def execDebugToken (c : CmdRef) (hv : HostView) (s : State) : Host.Outcome State Fault Refusal :=
  runs (fun s => (s.sees hv).start 0x9001 c fun k s => s.debugToken k) s

/-! ## Wipes -/

/-- LOCKET_WIPE (R269). -/
def execLocketWipe (c : CmdRef) (hv : HostView) (s : State) : Host.Outcome State Fault Refusal :=
  runs (fun s => (s.sees hv).start 0x9002 c fun k s =>
    let t := s.wipeLocket 4
    t.finish k.ref { result0 := t.keepsake.wipes.toNat }) s

/-- LOCKET_PARITY_ERROR: in either hub's locket (R265). -/
def execLocketParityError (hub : Nat) (s : State) : Host.Outcome State Fault Refusal :=
  runs (fun s => if hub < 2 && (s.power.state == .idle || s.power.state == .active || s.power.state == .standby) then s.wipeLocket 6 else s) s

end Sys2Proof.Machine
end

