-- ==== Sys2Proof/Machine/Governor.lean ====
section
/-! DEFINITION. Hallmarks and margin plans, the pace governor and the thermal response (chapters 1 and 2). -/

namespace Sys2Proof.Machine

open Sys2Proof

/-! ## Hallmarks (R56, R57) -/

def hallmarkReg (i : Nat) : Nat := blkPower + 0x1000 + 8 * i

/-- The compute die of a hallmark; none for those of the hubs. -/
def hallmarkDie (i : Nat) : Option Nat := if i < 512 then some (i / 128) else none

/-- The supply region of a hallmark (Table 2-2). -/
def hallmarkRegion (i : Nat) : Nat :=
  if i < 512 then 3 * (i / 128) + (if i % 128 < 48 then 0 else if i % 128 < 96 then 1 else 2) else 12 + (i - 512) / 64

/-- Drift of a reading in units of 0.01 %: the nearest whole number below it, or the one above, where it is none. -/
def driftOf (delay base : Nat) : Int :=
  let n : Int := ((delay : Int) - (base : Int)) * 10000
  let q := n / (base : Int)
  if n % (base : Int) ≠ 0 && Config.driftRoundsUp delay base then q + 1 else q

/-- Does a reading's drift lie outside -5.00 % to +40.00 %? -/
def driftFails (delay base : Nat) : Bool := base == 0 || decide (delay * 10000 < 9500 * base) || decide (14000 * base < delay * 10000)

def State.hallmark (s : State) (i : Nat) : Nat := s.reg64 (hallmarkReg i)
def State.hallmarkFaulty (s : State) (i : Nat) : Bool := (s.hallmark i).testBit 49
def State.hallmarkValid (s : State) (i : Nat) : Bool := (s.hallmark i).testBit 48
def State.hallmarkDrift (s : State) (i : Nat) : Int := signedOf 16 (field (s.hallmark i) 47 32)

/-- A hallmark is read, or its reading is unobtainable. -/
def State.readHallmark (s : State) (i : Nat) (delay : Option Nat) : State :=
  let base := (Config.hallmarkBaseline i).toNat
  match delay with
  | none => s.set64 (hallmarkReg i) (2 ^ 49 + bit (s.hallmarkValid i) * 2 ^ 48 + field (s.hallmark i) 47 32 * 2 ^ 32 + base * 2 ^ 16
      + field (s.hallmark i) 15 0)
  | some d =>
    s.set64 (hallmarkReg i) (bit (driftFails d base) * 2 ^ 49 + 2 ^ 48 + patternOf 16 (driftOf d base) * 2 ^ 32 + base * 2 ^ 16 + d % 65536)

/-- All hallmarks are read but those of gated dies (R547). -/
def State.readHallmarks (s : State) (rs : List HallmarkReading) : State :=
  (List.range 640).foldl (fun (t : State) i =>
    if (match hallmarkDie i with | some d => s.power.gated.testBit d | none => false) then t
    else t.readHallmark i (match rs.find? fun r => r.index == i with | some r => r.delay | none => none)) s

/-! ## Margin plans (R58-R65) -/

/-- The offset a region has now, as offset + 40 mV: it moves from its old value to the applied plan's by 1 mV per µs (R62). R62 gives
that rate as the greatest; that the slew takes it is the model's choice (notes/assumptions/33.md). -/
def State.offsetNow (s : State) (r : Nat) : Nat :=
  match s.gov.applied with
  | none => 40
  | some k =>
    let new := k.offsets.getD r 40
    let old := s.gov.slewOld.getD r new
    let step := (s.now - s.gov.slewFrom) / usec
    if old ≤ new then min new (old + step) else max new (old - step)

/-- A region's supply, mV: the common setpoint plus its offset, between 0.62 V and 0.88 V. -/
def supplyAt (setpoint offset : Nat) : Nat := min 880 (max 620 (setpoint + offset - 40))

/-- The hallmarks of a region that take part in planning. -/
def State.usable (s : State) (r : Nat) : List Nat :=
  (List.range 640).filter fun i => hallmarkRegion i == r && s.hallmarkValid i && !s.hallmarkFaulty i

/-- More than 8 of its hallmarks take no part. -/
def State.regionPartial (s : State) (r : Nat) : Bool :=
  decide (8 < ((List.range 640).filter fun i => hallmarkRegion i == r).length - (s.usable r).length)

/-- The largest drift of the hallmarks that take part. -/
def State.regionDrift (s : State) (r : Nat) : Option Int :=
  (s.usable r).foldl (fun (m : Option Int) i => some (match m with | some x => max x (s.hallmarkDrift i) | none => s.hallmarkDrift i)) none

/-- The smallest offset, as offset + 40 mV, that sustains 1,250 beats/µs at a common setpoint of 0.75 V; none where more than +130 mV
is needed. -/
def neededOffset (r : Nat) (drift : Int) : Option Nat := (List.range 171).find? fun o => decide (12500 ≤ Config.regionPace r drift (710 + o))

/-- The previous plan: the record that stands before PLAN_NEXT. -/
def State.previousPlan (s : State) : Option PlanRecord :=
  let p := (s.keepsake.planNext - 1).toNat
  (lookup (p % 64) s.keepsake.plans).bind fun r => if r.plan = p then some r else none

/-- The offset of a region, as offset + 40 mV, and whether it needs more than +130 mV. A partial region whose raised offset would pass
+130 mV takes +130 mV, and MARGIN_END is not raised for it: R60 says neither, and this is the model's choice (notes/assumptions/32.md). -/
def State.planOffset (s : State) (r : Nat) : Nat × Bool :=
  if s.regionPartial r then
    match s.previousPlan with
    | some k => (min (k.offsets.getD r 170 + 10) 170, false)
    | none => (170, false)
  else
    match s.regionDrift r with
    | some d => (match neededOffset r d with | some o => (o, false) | none => (170, true))
    | none => (170, false)

/-- A new plan. `command`: CAUSE; `lost`: the first plan after a keepsake loss. -/
def State.makePlan (s : State) (command lost : Bool) : PlanRecord :=
  let os := (List.range 14).map s.planOffset
  let low := (List.range 14).foldl (fun (m : Nat) r =>
    match s.regionDrift r with | some d => min m (Config.regionPace r d 880 / 10) | none => m) 1600
  let headroom := 170 - (os.map fun o => o.1).foldl max 0
  let beyond := os.any fun o => o.2
  { plan := s.keepsake.planNext.toNat, ceiling := low, hours := s.keepsake.hours, offsets := os.map fun o => o.1, headroom := headroom,
    flags := bit lost * 16 + bit ((List.range 14).any s.regionPartial) * 8 + bit beyond * 4 + bit (decide (headroom < 20)) * 2 + bit command }

/-- MARGIN_LOW and MARGIN_END of a plan (R61). -/
def State.notePlan (s : State) (k : PlanRecord) : State :=
  let one := fun (t : State) (n flag : Nat) =>
    if k.flags.testBit n then (t.raise evGov flag).logEvent { cause := 0x0104, cls := 1, unit := 0x73, detail := k.plan } else t
  one (one s 1 4) 2 5

/-- A plan is recorded in keepsake, then applied: from now on each region's supply slews to its new offset (R62). -/
def State.applyPlan (s : State) (k : PlanRecord) : State :=
  let t := s.ksWrite fun x => { x with plans := insert (k.plan % 64) k x.plans, planNext := x.planNext + 1 }
  let old := if s.gov.applied.isSome then (List.range 14).map s.offsetNow else k.offsets
  (({ t with gov := { t.gov with applied := some k, planCeiling := k.ceiling, slewOld := old, slewFrom := s.now } }).raise evGov 6).notePlan k

/-- MARGIN_PLAN: a plan is under way. -/
def execMarginPlan (c : CmdRef) (hv : HostView) (s : State) : Host.Outcome State Fault Refusal :=
  runs (fun s => (s.sees hv).start 0x0008 c fun k s =>
    let t := s.running k.ref
    { t with gov := { t.gov with planning := t.gov.planning ++ [(k.param 32 1, some k.ref)] } }) s

/-- The readings of the plan under way are taken, and it is complete. -/
def State.planDone (s : State) (rs : List HallmarkReading) : State :=
  match s.gov.planning with
  | [] => s
  | (mode, c) :: rest =>
    let t := ({ s with gov := { s.gov with planning := rest } }).readHallmarks rs
    let k := t.makePlan c.isSome false
    let t := if mode = 1 then t.notePlan k else t.applyPlan k
    match c with
    | some r => t.finish r { result0 := k.plan, result1 := k.headroom }
    | none => t

def execMarginPlanDone (readings : List HallmarkReading) (now : Nat) (s : State) : Host.Outcome State Fault Refusal :=
  runs (fun s => (s.at now).planDone readings) s

/-- OPERATING_HOUR_TICK: an hour of local time with PWRGD high; each time the count reaches a multiple of 500 a plan starts. -/
def State.hourTick (s : State) : State :=
  if !s.power.pwrgd || s.power.state = .off || !s.expired (s.clock.hourFrom + 3600 * second) then s
  else
    let t := s.ksWrite fun k => { k with hours := (k.hours + 1) % 2 ^ 32 }
    let t := { t with clock := { t.clock with hourFrom := t.clock.hourFrom + 3600 * second } }
    if t.keepsake.hours % 500 = 0 then
      { t with gov := { t.gov with planning := t.gov.planning ++ [(0, none)] } }
    else t

def execOperatingHourTick (now : Nat) (s : State) : Host.Outcome State Fault Refusal := runs (fun s => (s.at now).hourTick) s

/-! ## Temperature (R26) -/

/-- The device takes samples: it is IDLE or ACTIVE. -/
def State.sampling (s : State) : Bool := s.power.state == .idle || s.power.state == .active

/-- A pause for temperature begins or ends. -/
def State.thermalPause (s : State) (on : Bool) : State :=
  if on = s.gov.pausedThermal then s
  else
    let t := { s with gov := { s.gov with pausedThermal := on, beatFrom := s.now } }
    if on then (t.raise evGov 3).logEvent { cause := 0x0102, cls := 1, unit := 0x73 } else t

/-- The highest junction, in tenths of a degree, is known: the pace ceiling falls from 95 °C on, by an amount the spec does not give; the
pavés pause from 105 °C on and resume below 100 °C. -/
def State.noteJunction (s : State) (dc : Nat) : State :=
  let t := { s with mgmt := { s.mgmt with junctionDc := dc } }
  let t := if 1050 ≤ dc then t.thermalPause true else if dc < 1000 then t.thermalPause false else t
  if dc < 950 then { t with gov := { t.gov with thermalCeiling := none } }
  else
    let present := t.gov.thermalCeiling.getD t.gov.planCeiling
    let d := t.draw
    let u := { d.2 with gov := { d.2.gov with thermalCeiling := some (Config.freeWord d.1 0 % max 1 present) } }
    if t.gov.thermalCeiling.isNone then (u.raise evGov 1).logEvent { cause := 0x0102, cls := 1, unit := 0x73 } else u

/-- The inlet thermistor reads dc tenths of a degree. As it rises above 42 °C the warning event of Table 1-6 is logged; operation does
not change. The table names no cause or flag for it: a record of cause 0x0102 with the reading in DETAIL is the model's choice
(notes/assumptions/30.md). -/
def State.noteInlet (s : State) (dc : Nat) : State :=
  let t := { s with mgmt := { s.mgmt with inletDc := dc } }
  if 420 < dc && s.mgmt.inletDc ≤ 420 then t.logEvent { cause := 0x0102, cls := 1, unit := 0x73, detail := dc } else t

/-- INLET_WARNING: the inlet thermistor exceeds 42 °C. -/
def execInletWarning (dc : Nat) (s : State) : Host.Outcome State Fault Refusal :=
  runs (fun s => if s.sampling && 420 < dc then s.noteInlet dc else s) s

def execThermalLimit (dc : Nat) (s : State) : Host.Outcome State Fault Refusal :=
  runs (fun s => if s.sampling && 950 ≤ dc then s.noteJunction dc else s) s

def execThermalHardBreach (dc : Nat) (s : State) : Host.Outcome State Fault Refusal :=
  runs (fun s => if s.sampling && 1050 ≤ dc then s.noteJunction dc else s) s

def execThermalResume (dc : Nat) (s : State) : Host.Outcome State Fault Refusal :=
  runs (fun s => if s.sampling && dc < 1000 then s.noteJunction dc else s) s

/-! ## The governor (R20, R66-R70) -/

def powerCapReg : Nat := blkPower + 0x24

/-- The cap in effect: POWER_CAP or a lower management limit, scaled in the low input band. -/
def State.powerCap (s : State) : Nat :=
  let cap := s.regNat powerCapReg
  let cap := if s.mgmt.limit = 0 then cap else min cap s.mgmt.limit
  match s.power.inputLow with
  | some dv => cap * dv / 400
  | none => cap

/-- POWER_AVG: the mean of the latest 1,000 samples, or of those there are. Whole watts are shown: that the fraction is dropped, and the
mean over fewer samples, are the model's choice (notes/assumptions/31.md). -/
def State.powerAverage (s : State) : Nat := if s.gov.samples.isEmpty then 0 else s.gov.samples.sum / s.gov.samples.length

/-- The highest common setpoint: 0.75 V, or where the plan ceiling is reached. -/
def State.setpointTop (s : State) : Nat := min 750 (Config.setpointAtCeiling s.gov.planCeiling)

/-- The input's bands, as a sample finds it: between 40 and 60 V the device is in neither. -/
def State.noteInput (s : State) (dv : Nat) : State :=
  let low := if 400 ≤ dv then none else s.power.inputLow.map fun _ => dv
  { s with power := { s.power with inputLow := low, inputHigh := s.power.inputHigh && decide (600 < dv) }, mgmt := { s.mgmt with inputDv := dv } }

/-- The samples of one instant: the average, CAP_LIMIT, excursions (Table 2-4), the setpoint (R67). -/
def State.samplePower (s : State) (w : Nat) : State :=
  let cap := s.powerCap
  let g := s.gov
  let t := { s with gov := { g with
    samples := (w :: g.samples).take 1000, excess := (decide (cap < w) :: g.excess).take 1000, lastSample := w, sampledAt := s.now } }
  let t := (t.setNat (blkPower + 0x20) (min w 4095 * 2 ^ 16 + min t.powerAverage 4095))
  let beyond := decide (cap < t.powerAverage)
  let t := { (if beyond && !g.overCap then t.raise evGov 0 else t) with gov := { t.gov with overCap := beyond } }
  let above := (t.gov.excess.filter id).length
  let far := decide (cap + 400 < w)
  let soft := far || (decide (cap < w) && decide (20 < above))
  let hard := far && g.soft && !g.pausedPower
  let note := fun (t : State) (flag : Nat) => (t.raise evGov flag).logEvent { cause := 0x0103, cls := 1, unit := 0x73 }
  let t := if soft then { note t 2 with gov := { t.gov with setpoint := 620, soft := true } } else { t with gov := { t.gov with soft := false } }
  let t := if hard then { note t 3 with gov := { t.gov with pausedPower := true, calm := 0 } } else t
  let calm := if w ≤ cap then t.gov.calm + 1 else 0
  let t := if !t.gov.pausedPower then t
    else if 10 ≤ calm then { t with gov := { t.gov with pausedPower := false, calm := 0, beatFrom := t.now } }
    else { t with gov := { t.gov with calm := calm } }
  let sp := t.gov.setpoint
  if soft then t
  else if beyond then { t with gov := { t.gov with setpoint := max 620 (sp - 5) } }
  else if t.powerAverage + 50 < cap && t.gov.thermalCeiling.isNone && !t.gov.pausedPower && !t.gov.pausedThermal then
    { t with gov := { t.gov with setpoint := max sp (min (sp + 5) t.setpointTop) } }
  else t

/-- GOVERNOR_SAMPLE: every 100 µs. -/
def State.governorSample (s : State) (r : SensorReading) : State :=
  if !s.sampling || (!s.gov.samples.isEmpty && s.now < s.gov.sampledAt + 100 * usec) then s
  else
    let t := (s.noteInput r.inputDv).samplePower r.watts
    ((({ t with mgmt := { t.mgmt with outletDc := r.outletDc } }).noteInlet r.inletDc).noteJunction r.junctionDc)

def execGovernorSample (r : SensorReading) (now : Nat) (s : State) : Host.Outcome State Fault Refusal :=
  runs (fun s => (s.at now).governorSample r) s

/-- The pace the plan's regions reach at the present setpoint, beats/µs (R66: within the power cap). -/
def State.capPace (s : State) : Nat :=
  match s.gov.applied with
  | none => s.gov.planCeiling
  | some k =>
    (List.range 14).foldl (fun (m : Nat) r =>
      match s.regionDrift r with
      | some d => min m (Config.regionPace r d (supplyAt s.gov.setpoint (s.offsetNow r)) / 10)
      | none => m) 1600

/-- The pace the governor permits (R66). -/
def State.permittedPace (s : State) : Nat := min (min s.gov.planCeiling (s.gov.thermalCeiling.getD s.gov.planCeiling)) s.capPace

end Sys2Proof.Machine
end

