-- ==== Sys2Proof/Machine/Resets.lean ====
section
/-! DEFINITION. Resets and the boot sequence (chapter 20, R544, R549-R551, R554; R262, R564-R566): cold, warm, keeper complex, keeper
bank, per function. -/

namespace Sys2Proof.Machine

open Sys2Proof

/-! ## What every reset notes -/

/-- RESET_CAUSE. -/
def State.resetCause (s : State) (kind trigger fn unit : Nat) : State :=
  s.setNat (blkPower + 0x94) (kind * 2 ^ 29 + trigger * 2 ^ 16 + fn * 2 ^ 8 + unit)

/-- A TRIGGER code where the spec gives the occasion none: a free value. -/
def State.freeTrigger (s : State) : Nat × State :=
  let d := s.draw
  (Config.freeWord d.1 0 % 256, d.2)

/-- ENLON_INC rises; from 0 it takes a random value (R371). -/
def State.raiseEnlon (s : State) : State :=
  let i := s.keepsake.enlonInc
  if i = 0 then
    let d := s.draw
    d.2.ksWrite fun k => { k with enlonInc := BitVec.ofNat 16 (Config.freeWord d.1 0 % 0xFFFF + 1) }
  else s.ksWrite fun k => { k with enlonInc := nextInc i }

/-- Registers of a range of addresses take their reset values again. -/
def State.forgetRegs (s : State) (lo hi : Nat) : State :=
  { s with regs := s.regs.filter fun r => !(decide (lo ≤ r.1) && decide (r.1 < hi)) }

/-- The occurrence counters of the unit blocks are zero again (R54). -/
def State.forgetCounters (s : State) (ours : Nat → Bool) : State :=
  { s with regs := s.regs.filter fun r => !(decide (unitBlock 0 ≤ r.1) && decide (r.1 < unitBlock 0x100) && decide (0x8000 ≤ r.1 % 0x10000) && ours r.1) }

/-- Recording stops at every reset (chapter 22). -/
def State.stopBook (s : State) : State := { s with logbook := { s.logbook with state := .stopped } }

/-- The chamber and its contents are gone (R550). -/
def State.dropChamber (s : State) : State := { s with chamber := { s.chamber with words := [], state := .empty } }

/-- What the keepers hold for services: all of it goes, without a report (R550). Sets and adapters are EMPTY (R350). -/
def State.dropServices (s : State) : State :=
  { s with
    serving := [], manifest := [], groups := [], colls := [], trains := [], exports := [], turns := [], scores := [], occupants := [],
    commits := [], histWaits := [], sets := [], adapters := [], repairs := [],
    gov := { s.gov with planning := s.gov.planning.filter fun p => p.2.isNone },
    logbook := { s.logbook with state := .stopped } }

/-- Assay slots and scale-history slots lose what they hold, and TRAIN_* read zero. -/
def State.dropKeeperRegs (s : State) : State :=
  let t := (s.forgetRegs (blkKeeper + 0x4000) (blkKeeper + 0x6000)).forgetRegs (blkKeeper + 0x3000) (blkKeeper + 0x3100)
  t.histResetAll

/-! ## Cold (Table 20-4) -/

/-- Everything that does not outlast a cold reset or a loss of power is at its reset value: what stays is keepsake, the fuses and the flash,
what is attached outside, and what the sensors and contacts show. -/
def State.blank (s : State) : State :=
  let r := State.reset
  { r with
    spine := { s.spine with epoch := 1, unitInc := [], funcInc := [] }, draws := s.draws + 1, mem := { Mem.reset with life := s.draws },
    host := s.host, outbox := s.outbox, pending := s.pending, keepsake := s.keepsake, pcie := { s.pcie with ideStopped := [] },
    power := { s.power with
      waking := false, quiesced := false, quiescedBerths := 0, quiescing := [], gated := 0, entering := none, booting := .none, idleSince := 0 },
    panel := { Panel.reset with
      lidOpen := s.panel.lidOpen, fibres := s.panel.fibres, coinMv := s.panel.coinMv,
      fibresSince := ((List.range 8).filter s.sensorsPresent).map fun p => (p, 0) },
    mgmt := { Mgmt.reset with
      inputDv := s.mgmt.inputDv, inletDc := s.mgmt.inletDc, outletDc := s.mgmt.outletDc, junctionDc := s.mgmt.junctionDc },
    sec := { s.sec with
      fallback := false, recovery := false, failedAt := [], lockout := none, debug := 0, debugExpiry := 0, grantDue := none, resetAfter := none,
      resetDue := none, blobBad := false, unsealCode := 1, locket := .reset } }

/-- A cold reset begins; one that is under way absorbs another (R549). -/
def State.startCold (s : State) (trigger : Nat) : State :=
  if s.power.booting == .full && !s.clock.fatal then s
  else
    let st := if s.power.state == .active then PowerState.idle else s.power.state
    let t := (s.blank.renewNonce).resetCause 0 trigger 0 0
    { t with power := { t.power with state := st, booting := .full } }

/-! ## Boot (R564-R566) -/

/-- The slots in the order in which the ROM tries them: 0 A, 1 B. -/
def State.slotOrder (s : State) : List Nat :=
  let a := s.sec.slotA.activation
  let b := s.sec.slotB.activation
  if a = 0 && b = 0 then [0, 1] else if a = 0 then [1] else if b = 0 then [0] else if b ≤ a then [0, 1] else [1, 0]

/-- Does the image of a slot pass? -/
def State.slotPasses (s : State) (b : BootInputs) (n : Nat) : Bool :=
  let k := if n = 0 then s.sec.slotA else s.sec.slotB
  k.passes && decide (s.sec.fusedSvn ≤ k.svn) && (if n = 0 then b.slotAVerifies else b.slotBVerifies)

/-- Hub and image choice: none where both hubs fail; otherwise the state, and whether an image passed. -/
def State.chooseImage (s : State) (b : BootInputs) : Option (State × Bool) :=
  if !b.hub0Passes && !b.hub1Passes then none
  else
    let t := { s with sec := { s.sec with bootHub := if b.hub0Passes then 0 else 1, recovery := false, fallback := false } }
    match t.slotOrder.find? (t.slotPasses b) with
    | none => some ({ t with sec := { t.sec with recovery := true } }, false)
    | some n =>
      let t := { t with sec := { t.sec with bootSlot := n, bootFused := t.sec.fusedSvn } }
      some (if t.slotOrder.head? = some n then t else ({ t with sec := { t.sec with fallback := true } }).raise evSec 8, true)

/-- The fused SVN follows the booted image's. -/
def State.advanceSvn (s : State) : State :=
  let v := min s.bootSlot.svn 64
  if v ≤ s.sec.fusedSvn then s else ({ s with sec := { s.sec with fusedSvn := v } }).raise evSec 9

/-- Neither image passes: the device is in recovery. -/
def State.enterRecovery (s : State) : State :=
  ({ s with power := { s.power with booting := .none } }).toPower .idle

/-- Keepsake is verified: one that fails is discarded (R147, R267, R577). -/
def State.checkKeepsake (s : State) (decay : List (Nat × Byte)) : State :=
  match s.keepsake.found decay with
  | some k => { s with keepsake := k }
  | none =>
    let k := { Keepsake.reset with enlonInc := 0, wipes := BitVec.ofNat 24 (min (65536 * s.sec.wipeFuses) 0xFFFFFF) }
    let t := (({ s with keepsake := k }).raise evLock 3).logEvent { cause := 0x0105, cls := 2, unit := 0x70 }
    if t.lcState = 0 then t else t.tamper 6

/-- A socket as presence data shows it at power-on (R18). -/
def bootSocket (m : Option ReachModule) : SocketState :=
  match m with
  | none => .empty
  | some m => if m.gib = 128 && m.gbps = 136 then .powered else .refused

/-- Sockets that the reach layout maps and that hold a module are in service. -/
def State.mapSockets (s : State) : State :=
  (List.range 12).foldl (fun (t : State) n =>
    if t.reachMap.testBit n && (t.socket n).state == .powered then t.putSocket n { t.socket n with state := .inService, stale := false } else t) s

/-- Restore: the sockets are brought up, then the stored settings are laid over the reset values. -/
def State.restore (s : State) (sockets : List (Nat × Option ReachModule)) : State :=
  let t := sockets.foldl (fun (t : State) k => if k.1 < 12 then t.putSocket k.1 ⟨bootSocket k.2, 0, false⟩ else t) s
  t.restoreSettings.histResetAll.mapSockets

/-- Keepsake events that the log has not seen are copied into it (R586). -/
def State.copyEvents (s : State) : State :=
  let es := s.keepsake.events.filter fun e => e.kind != 0 && !e.copied
  if es.isEmpty then s
  else
    let t := es.foldl (fun (t : State) e =>
      t.logEvent { cause := 0x0701, cls := if 3 ≤ e.kind then 2 else 1, unit := 0x72, detail := e.kind, keepsake := true }) s
    t.ksWrite fun k => { k with events := k.events.map fun (e : KeepsakeEvent) => { e with copied := true } }

/-- The coin cell is measured (R38). -/
def State.measureCell (s : State) (mv : Nat) : State :=
  let t := { s with panel := { s.panel with coinMv := mv }, clock := { s.clock with cellFrom := s.now } }
  let t := if mv < 2600 then t.raisePanel 11 else t
  if mv < 1800 then t.raisePanel 12 else t

/-- A cold reset leaves SERVICE_DEBUG: the transition to DEPLOYED (R573). -/
def State.leaveService (s : State) : State := if s.lcState = 3 && s.fusesLeft then (s.burnFuse 2).clearLocket 2 else s

/-- The owner blob's tag is checked, and the blob unsealed where R570 allows it. -/
def State.bootUnseal (s : State) (verifies : Bool) : State :=
  ({ s with sec := { s.sec with blobBad := !s.keepsake.ownerBlob.isEmpty && !verifies } }).unseal

/-- The stacks are trained; one that fails is FAILED (R312). -/
def State.trainStacks (s : State) (failed : List Nat) : State :=
  failed.foldl (fun (t : State) c =>
    if c < 16 && t.ctrlFitted c && !t.mem.failed.contains c then
      let t := t.raise (evMem c) 5
      ({ t with mem := { t.mem with failed := c :: t.mem.failed } }).fatal { cause := 0x0303, cls := 3, unit := 0x40 + c }
    else t) s

/-- The boot sequence of a power-on or cold reset, with the device's way from OFF or STANDBY into IDLE. -/
def State.powerUp (s : State) (b : BootInputs) : State :=
  if s.power.booting != .full || !s.power.pwrgd || s.clock.fatal || (s.power.state == .standby && !s.power.perstReleased) then s
  else
    match s.chooseImage b with
    | none => { s with clock := { s.clock with fatal := true } }
    | some (t, false) => t.enterRecovery
    | some (t, true) =>
      let lost := ((t.clearLocket 1).keepsake.found b.keepsakeDecay).isNone
      let t := (((t.clearLocket 1).checkKeepsake b.keepsakeDecay).trainStacks b.failedStacks |>.restore b.sockets).copyEvents.raiseEnlon
      let t := ((t.leaveService.bootUnseal b.blobVerifies).advanceSvn).readHallmarks b.readings
      let t := (t.applyPlan (t.makePlan false lost)).measureCell b.coinMv
      ({ t with power := { t.power with booting := .none } }).toPower .idle

/-- The boot of a warm reset: image choice, unsealing, and the grant of a SERVICE_DEBUG that goes on (R573). -/
def State.bootWarm (s : State) (b : BootInputs) : State :=
  if s.power.booting != .warm then s
  else
    match s.chooseImage b with
    | none => { s with clock := { s.clock with fatal := true }, power := { s.power with booting := .full } }
    | some (t, false) => t.enterRecovery
    | some (t, true) =>
      let t := (t.bootUnseal b.blobVerifies).advanceSvn
      let t := match t.sec.grantDue with
        | some d => ({ t with sec := { t.sec with grantDue := none } }).placeGrant 1 (t.now + d)
        | none => if t.sec.debug = 1 then { t with sec := { t.sec with locket := { t.sec.locket with grant := true } } } else t
      { t with power := { t.power with booting := .none } }

/-! ## Warm -/

/-- Every incarnation of a unit and of a function rises (R554). -/
def State.raiseAll (s : State) : State :=
  let t := (knownUnits s.spine.variant).foldl (fun (t : State) u => t.raiseUnit u) s
  (List.range 32).foldl (fun (t : State) f => t.raiseFunc f) t

/-- A port at a warm reset: a link that was up goes down; HELD and FENCED stay. -/
def State.warmPort (s : State) (p : Nat) : State :=
  let k := s.port p
  let held := k.state == 6 || k.state == 7
  let t := s.updPort p fun k =>
    { Port.reset with
      state := if held then k.state else s.restState p, sawAbsent := k.sawAbsent, fencedUnder := k.fencedUnder, weak := k.weak }
  if k.state = 3 || k.state = 4 then (t.raise (evPort p) 1).logEvent { cause := 0x0401, cls := 2, unit := 0x60 + p } else t

/-- Queues, HELLO and what is in flight are gone, with every register of the doorbell pages and mailboxes. -/
def State.dropQueues (s : State) : State :=
  let mine := fun (a : Nat) => inDoorbells a || (decide (0x200 ≤ a % 2 ^ 36) && decide (a % 2 ^ 36 < 0x1000))
  { s with
    queues := [], hellos := [], inflight := [], reports := [], regs := s.regs.filter fun r => !mine r.1, oldRegs := [], heldHigh := [], heldLow := [] }

/-- A warm reset: the device keeps its time, its settings, its fences and its stacks; the boot of R564 follows. -/
def State.warm (s : State) (trigger : Nat) : State :=
  if s.power.booting != .none || !(s.power.state == .idle || s.power.state == .active) then s
  else
    let t := if s.sec.debug = 2 then s.endDebug true none else s
    let t := t.writeBackAll
    let t := (t.dropServices.dropQueues.dropChamber.dropKeeperRegs).forgetCounters fun _ => true
    let t := { t with
      mem := (t.mem.forget basinBase basinBytes).forget bankBase 0x200000000, segChanges := [], clears := [], logbook := { t.logbook with buffer := [], lost := [] }, adapterView := [], manifestView := [],
      power := { t.power with quiesced := false, quiescedBerths := 0, quiescing := [], entering := none },
      mgmt := { t.mgmt with update := none }, sec := { t.sec with resetAfter := none, resetDue := none } }
    let t := ((List.range 8).foldl (fun (t : State) p => t.warmPort p) t).raiseEnlon
    let t := ((t.clearLocket 1).renewNonce.raiseAll).resetCause 1 trigger 0 0
    { t with power := { t.power with booting := .warm } }

/-! ## Keeper complex and keepers -/

/-- A command that a reset of its keeper ends: what it writes is undefined (R119). -/
def State.restartCmd (s : State) (c : Cmd) : State :=
  let t := if c.stage = .done || c.epoch = 0 then s else (s.leaveUnits c).undefineOutputs c
  t.finish c.ref { status := stTargetRestarted }

/-- The keepers forget what they took from a port: its receive slots are free. -/
def State.dropInbox (s : State) (p : Nat) : State :=
  (s.port p).inbox.foldl (fun (t : State) m => t.consume p m) s

/-- A reset of the keeper complex (Table 20-4). `but`: the RESET_UNIT that asked for it. -/
def State.keeperComplex (s : State) (trigger : Nat) (but : Option CmdRef) : State :=
  let t := (s.inflight.filter fun c => some c.ref != but).foldl (fun (t : State) c => t.restartCmd c) s
  let t := t.power.quiescing.foldl (fun (t : State) q => t.unquiesce q.2) t
  let t := { t with power := { t.power with quiescing := [] } }
  let t := (t.manifest.map fun e => e.1).foldl (fun (t : State) i => t.endEntry i stTargetRestarted) t
  let t := (t.serving.map fun k => k.1).foldl (fun (t : State) n => t.dropBacklog n stTargetRestarted) t
  let t := (t.dropServices.dropChamber.dropKeeperRegs).forgetCounters fun a => decide (blkKeeper ≤ a) && decide (a < blkKeeper + 0x10000)
  let t := ((List.range 8).foldl (fun (t : State) p => t.dropInbox p) t).raiseEnlon
  let t := (List.range 32).foldl (fun (t : State) f => t.raiseFunc f) (t.raiseUnit 0x71)
  (t.raise evReset 1).resetCause 3 trigger 0 0x71

/-- A keeper's own incarnation, which no register shows, is held beyond the unit block IDs. -/
def keeperInc (k : Nat) : Nat := 0x100 + k

/-- A parity reset of one keeper that hosts no open service (R262, R550). -/
def State.oneKeeper (s : State) (k : Nat) : State :=
  let mine := s.inflight.filter fun c => keeperOf c.queue == k
  let t := mine.foldl (fun (t : State) c =>
    match t.cmd c.ref with
    | some d => if d.stage = .done then t.finish d.ref { status := stTargetRestarted } else t.abandonCmd d stTargetRestarted
    | none => t) s
  ((t.raiseUnit (keeperInc k)).raise evReset 1).stopBook.resetCause 4 6 0 0x71

/-- Does a keeper host an open service? -/
def State.hostsService (s : State) (k : Nat) : Bool :=
  s.serving.any (fun x => hostKeeperOf x.2.queue == k) || s.trains.any (fun x => hostKeeperOf x.2.cmd.queue == k)
    || s.scores.any fun x => hostKeeperOf x.2.cmd.queue == k

/-- KEEPER_BANK_PARITY. -/
def State.keeperParity (s : State) (k : Nat) : State :=
  let a := blkKeeper + 0x100
  let w := s.regNat a
  let t := (s.setNat a (min (w / 2 ^ 16 + 1) 0xFFFF * 2 ^ 16 + putBit (w % 2 ^ 16) k true)).logEvent
    { cause := 0x0202, cls := 2, unit := 0x71, detail := k }
  if t.hostsService k then (t.keeperComplex 6 none).raiseUnit (keeperInc k) else t.oneKeeper k

/-! ## Per function -/

/-- A queue number that no queue has: what a closed function's services report goes nowhere. -/
def noQueue : Nat := 64

/-- The services that a function's queues opened close as with CUT or NOW, and their reports go nowhere. -/
def State.closeServices (s : State) (qs : List Nat) : State :=
  let ours := fun (q : Nat) => qs.contains q
  let gone := fun (q : Nat) => if ours q then noQueue else q
  let servings := (s.serving.filter fun k => ours k.2.queue && k.2.opened).map fun k => k.1
  let trains := (s.trains.filter fun k => ours k.2.cmd.queue && k.2.opened).map fun k => k.1
  let scores := (s.scores.filter fun k => ours k.2.cmd.queue && k.2.opened).map fun k => k.1
  let unname := fun (c : Cmd) => { c with queue := gone c.queue }
  let t := { s with
    reports := s.reports.filter fun r => !ours r.queue,
    manifest := s.manifest.map fun (e : Nat × Entry) => (e.1, { e.2 with queue := gone e.2.queue }),
    serving := s.serving.map fun (k : Nat × Serving) =>
      (k.1, { k.2 with queue := gone k.2.queue, runs := k.2.runs.map fun (r : Run) => { r with queue := gone r.queue } }),
    trains := s.trains.map fun (k : Nat × Train) => (k.1, { k.2 with cmd := unname k.2.cmd }),
    scores := s.scores.map fun (k : Nat × Score) => (k.1, { k.2 with cmd := unname k.2.cmd }),
    turns := s.turns.map fun (k : Nat × Turn) => (k.1, { k.2 with cmd := unname k.2.cmd }),
    exports := s.exports.map fun (k : Export) => { k with queue := gone k.queue } }
  let t := servings.foldl (fun (t : State) n =>
    let was := fun (k : Serving) => match k.closing with | some x => some (x.1, 1, x.2.2) | none => some (⟨noQueue, 0⟩, 1, 0)
    let u := ((t.updServing n fun k => { k with closing := was k }).dropBacklog n).cutEntries n fun _ => true
    let idle := match lookup n u.serving with | some k => k.step.isNone | none => false
    (if idle then u.boundary n else u).closeIfDone n) t
  let t := trains.foldl (fun (t : State) n =>
    match lookup n t.trains with
    | none => t
    | some k =>
      if k.ended then t
      else
        let u := t.updTrain n fun k => { k with closing := some ((match k.closing with | some x => x.1 | none => ⟨noQueue, 0⟩), 1) }
        if k.stopped.isSome || k.phase == TrainPhase.idle then (u.updTrain n fun k => { k with ended := true }).awaitCommit (.trainClose n)
        else if !k.commitCast then (u.stepReport n stTrainClosed).endStep n
        else u) t
  scores.foldl (fun (t : State) b => if t.awaiting (.scoreClose b) then t else t.awaitCommit (.scoreClose b)) t

/-- The NAMEs that a VF's adapters have. -/
def State.namesOf (s : State) (fn : Nat) : List Nat :=
  ((s.adapters.filter fun a => !a.2.shared && s.berthFn a.2.berth == fn && (s.liveSlot a.2.name).isSome).map fun a => a.2.name).eraseDups

/-- A per-function reset of a VF (Table 20-4). -/
def State.functionReset (s : State) (fn : Nat) : State :=
  if fn = 0 || !s.functionEnabled fn then s
  else
    let qs := (s.queues.filter fun q => q.2.fn == fn).map fun q => q.1
    let t := qs.foldl (fun (t : State) n => t.emptyQueue n stTargetRestarted) s
    let t := (qs.foldl (fun (t : State) n => t.eraseQueue n) t).closeServices qs
    let t := (t.namesOf fn).foldl (fun (t : State) n => t.awaitCommit (.adapterDropName n)) t
    let t := ({ t with hellos := erase fn t.hellos }).forgetRegs (helloBase fn + 0x200) (helloBase fn + 0x1000)
    ((t.raiseFunc fn).raise evReset 2).stopBook.resetCause 2 4 fn 0

/-! ## The rows -/

/-- RESET_CTRL: takes effect only with KEY and one of its bits; any other write is discarded and logged. -/
def State.resetCtrl (s : State) (v : Word) (cold : Bool) : State :=
  let w := v.toNat
  if w = 0xC0DE0001 then (if cold then s.startCold 2 else s)
  else if w = 0xC0DE0002 then (if cold then s else s.warm 2)
  else s.logDiscard 0 (blkPower + 0x90)

def execResetCtrlCold (v : Word) (s : State) : Host.Outcome State Fault Refusal :=
  runsSpine (fun s => if s.pcieUp then s.resetCtrl v true else s) s

def execResetCtrlWarm (v : Word) (s : State) : Host.Outcome State Fault Refusal :=
  runsSpine (fun s => if s.pcieUp then s.resetCtrl v false else s) s

/-- PERST_N falls: a cold reset, where the device has power. -/
def execPerstNAssert (s : State) : Host.Outcome State Fault Refusal :=
  runsSpine (fun s =>
    let t := { s with power := { s.power with perstReleased := false } }
    if s.power.state == .off then t else t.startCold 1) s

/-- PERST_N rises. The way from STANDBY into IDLE is then open. -/
def execPerstNRelease (s : State) : Host.Outcome State Fault Refusal :=
  runs (fun s => { s with power := { s.power with perstReleased := true } }) s

def execPcieHotReset (s : State) : Host.Outcome State Fault Refusal := runsSpine (fun s => if s.pcieLink then s.warm 3 else s) s

def execFlrPf0 (s : State) : Host.Outcome State Fault Refusal := runsSpine (fun s => if s.pcieLink then s.warm 4 else s) s

def execFlrVf (fn : Nat) (s : State) : Host.Outcome State Fault Refusal := runsSpine (fun s => if s.pcieLink then s.functionReset fn else s) s

/-- A cold reset runs to its end: one that is under way, or a new one whose TRIGGER is free. -/
def execColdReset (boot : BootInputs) (s : State) : Host.Outcome State Fault Refusal :=
  runsSpine (fun s =>
    if s.power.booting == .full then s.powerUp boot
    else if s.power.state == .idle || s.power.state == .active then
      let d := s.freeTrigger
      (d.2.startCold d.1).powerUp boot
    else s) s

/-- A warm reset runs to its end: one that is under way, or a new one whose TRIGGER is free. -/
def execWarmReset (boot : BootInputs) (s : State) : Host.Outcome State Fault Refusal :=
  runsSpine (fun s =>
    if s.power.booting == .warm then s.bootWarm boot
    else
      let d := s.freeTrigger
      (d.2.warm d.1).bootWarm boot) s

def execPerFunctionReset (fn : Nat) (s : State) : Host.Outcome State Fault Refusal :=
  runsSpine (fun s => if s.operating then s.functionReset fn else s) s

/-- A reset of the keeper complex whose TRIGGER is free. -/
def execKeeperComplexReset (s : State) : Host.Outcome State Fault Refusal :=
  runsSpine (fun s =>
    if s.operating then
      let d := s.freeTrigger
      d.2.keeperComplex d.1 none
    else s) s

def execKeeperFirmwareFault (s : State) : Host.Outcome State Fault Refusal :=
  runsSpine (fun s => if s.operating then s.keeperComplex 7 none else s) s

def execKeeperBankParity (keeper : Nat) (s : State) : Host.Outcome State Fault Refusal :=
  runsSpine (fun s => if s.operating && keeper < 16 then s.keeperParity keeper else s) s

def execPowerUpToIdle (boot : BootInputs) (s : State) : Host.Outcome State Fault Refusal := runsSpine (fun s => s.powerUp boot) s

/-- LIFECYCLE_RESET_DELAY: 10 ms after a transition's reply (R559). -/
def execLifecycleResetDelay (now : Nat) (s : State) : Host.Outcome State Fault Refusal :=
  runsSpine (fun s =>
    let s := s.at now
    match s.sec.resetDue with
    | some t =>
      if s.expired t then
        let d := s.freeTrigger
        d.2.warm d.1
      else s
    | none => s) s

end Sys2Proof.Machine
end

