-- ==== Sys2Proof/Machine/Power.lean ====
section
/-! DEFINITION. Power (chapters 1, 2 and 20): contacts and input voltage, OFF and STANDBY, IDLE and ACTIVE, QUIESCE and POWER_STATE, gating of
compute dies, RESET_UNIT, the oscillator and the coin cell. -/

namespace Sys2Proof.Machine

open Sys2Proof

/-! ## Into OFF and out of it (R20, R21, R26, R29, R546) -/

/-- The device has power: it is not OFF, or on its way out of OFF. -/
def State.powered (s : State) : Bool := s.power.state != .off || s.power.booting == .full

/-- What a loss of power leaves; the model's time goes on for the 10 ms of R546. -/
def State.dark (s : State) (st : PowerState) : State :=
  let t := s.blank
  { t with clock := { t.clock with time := s.clock.time }, power := { t.power with state := st } }

/-- The device enters OFF. -/
def State.enterOff (s : State) (cause : OffCause) : State :=
  let t := s.dark .off
  { t with power := { t.power with offCause := cause, pwrgd := false, inputLow := none, inputHigh := false } }

/-- A power-fail: the keepsake record is written and the locket wiped (R21, R265). -/
def State.powerFail (s : State) : State := if s.powered then ((s.keepsakeEvent 1 true).clearLocket 7).enterOff .input else s

/-- The device leaves OFF: PWRGD rises, and the boot sequence is due. -/
def State.leaveOff (s : State) : State :=
  ({ s with power := { s.power with pwrgd := true, thermLow := false } }).startCold 0

/-- PWR_EN_RISE. -/
def State.pwrEnRise (s : State) : State :=
  let low := match s.power.pwrEnLowSince with | some t => s.expired (t + 10 * msec) | none => false
  let t := { s with power := { s.power with pwrEn := true, pwrEnLowSince := none } }
  if !s.power.pwrEn && !s.powered && s.power.inputGood && (s.power.offCause == .input || low) then t.leaveOff else t

def execPwrEnRise (now : Nat) (s : State) : Host.Outcome State Fault Refusal := runsSpine (fun s => (s.at now).pwrEnRise) s

/-- PWR_EN_FALL: OFF, as a power-fail. -/
def execPwrEnFall (now : Nat) (s : State) : Host.Outcome State Fault Refusal :=
  runsSpine (fun s =>
    let t := (s.at now).powerFail
    { t with power := { t.power with
      pwrEn := false, pwrEnLowSince := if s.power.pwrEn then some t.now else t.power.pwrEnLowSince } }) s

/-- POWER_FAIL: the input falls below 38.0 V. An OFF of any cause is left at the next rise above 42.0 V (R546). -/
def execPowerFail (s : State) : Host.Outcome State Fault Refusal :=
  runsSpine (fun s =>
    let t := s.powerFail
    { t with power := { t.power with inputGood := false, offCause := .input } }) s

/-- INPUT_ABOVE_42V. -/
def execInputAbove42v (s : State) : Host.Outcome State Fault Refusal :=
  runsSpine (fun s =>
    let t := { s with power := { s.power with inputGood := true } }
    if !s.powered && s.power.pwrEn && s.power.offCause == .input && !s.power.inputGood then t.leaveOff else t) s

/-- The input's band is logged once per entry. -/
def State.noteBand (s : State) : State := s.logEvent { cause := 0x0106, cls := 1, unit := 0x73 }

def execInputLowBand (dv : Nat) (s : State) : Host.Outcome State Fault Refusal :=
  runs (fun s =>
    if s.powered && 380 ≤ dv && dv < 400 then
      let t := if s.power.inputLow.isNone then s.noteBand else s
      { t with power := { t.power with inputLow := some dv, inputHigh := false }, mgmt := { t.mgmt with inputDv := dv } }
    else s) s

def execInputHighBand (dv : Nat) (s : State) : Host.Outcome State Fault Refusal :=
  runs (fun s =>
    if s.powered && 600 < dv && dv ≤ 620 then
      let t := if s.power.inputHigh then s else s.noteBand
      { t with power := { t.power with inputHigh := true, inputLow := none }, mgmt := { t.mgmt with inputDv := dv } }
    else s) s

def execInputOvervoltage (s : State) : Host.Outcome State Fault Refusal :=
  runsSpine (fun s => if s.powered then (s.keepsakeEvent 2 true).enterOff .latched else s) s

/-- THERMAL_TRIP: the independent trip, at 115 °C or without a thermistor, which it answers alike. -/
def execThermalTrip (_lost : Bool) (s : State) : Host.Outcome State Fault Refusal :=
  runsSpine (fun s =>
    if s.powered then
      let t := (s.keepsakeEvent 3 true).enterOff .latched
      { t with power := { t.power with thermLow := true } }
    else s) s

def execRailOutOfRegulation (s : State) : Host.Outcome State Fault Refusal :=
  runs (fun s => { s with power := { s.power with pwrgd := false } }) s

/-! ## IDLE and ACTIVE (R544, R545) -/

/-- Work for a pavé or engine. -/
def State.ringWork (s : State) : Bool :=
  s.inflight.any (fun c => c.stage != .done && decide (0x2000 ≤ c.opcode) && decide (c.opcode < 0x4000))
    || s.serving.any (fun k => k.2.step.isSome) || s.trains.any (fun k => k.2.phase != .idle)
    || s.colls.any fun k => k.cmd.opcode == 0x5001 && k.ended.isNone

/-- IDLE_TO_ACTIVE: the wake ends, and the beat ring runs. -/
def execIdleToActive (s : State) : Host.Outcome State Fault Refusal :=
  runs (fun s =>
    if s.operating && s.power.state == .idle && (s.power.waking || s.ringWork) then
      let t := s.toPower .active
      { t with power := { t.power with waking := false, idleSince := s.now }, gov := { t.gov with beatFrom := s.now } }
    else s) s

/-- IDLE_DELAY_EXPIRY. -/
def execIdleDelayExpiry (now : Nat) (s : State) : Host.Outcome State Fault Refusal :=
  runs (fun s =>
    let s := s.at now
    let delay := field (s.regNat (blkPower + 0x84)) 15 0
    if s.power.state == .active && delay != 0 && !s.ringWork && s.expired (s.power.idleSince + delay * 100 * usec) then s.toPower .idle
    else s) s

/-! ## QUIESCE and POWER_STATE (R546, R553) -/

/-- A scope: a berth, or 0xFF for the device. -/
def inScope (scope b : Nat) : Bool := scope == 0xFF || scope == b

/-- Is a scope under quiesce? -/
def State.quiescedScope (s : State) (scope : Nat) : Bool := if scope = 0xFF then s.power.quiesced else s.power.quiescedBerths.testBit scope

def State.putQuiesced (s : State) (scope : Nat) : State :=
  if scope = 0xFF then { s with power := { s.power with quiesced := true } }
  else { s with power := { s.power with quiescedBerths := putBit s.power.quiescedBerths scope true } }

/-- The scope has come to rest: the commands before this one are complete and no service of it is in a step. -/
def State.atRest (s : State) (c : Cmd) (scope : Nat) : Bool :=
  !(s.earlier c.ref).any (fun d => inScope scope d.berth) && !s.serving.any (fun k => inScope scope k.2.berth && k.2.step.isSome)
    && !s.trains.any fun k => inScope scope k.2.cmd.berth && k.2.phase != .idle

/-- Puts a scope under quiesce, for a command that then waits for it. -/
def State.startQuiesce (s : State) (c : Cmd) (scope : Nat) : State :=
  if c.stage = .running then s
  else
    let held := scope + (if s.quiescedScope scope then 0x100 else 0)
    let t := (s.putQuiesced scope).running c.ref
    { t with power := { t.power with quiescing := t.power.quiescing ++ [(c.ref, held)] } }

/-- The scope is at rest: the command no longer waits. -/
def State.endQuiesce (s : State) (c : Cmd) : State :=
  { s with power := { s.power with quiescing := s.power.quiescing.filter fun q => q.1 != c.ref } }

def State.quiesce (s : State) (c : Cmd) : State :=
  let scope := c.param 33 1
  if c.param 32 1 = 1 then (s.unquiesce scope).finish c.ref {}
  else
    let t := s.startQuiesce c scope
    if t.atRest c scope then (t.drainSluice.endQuiesce c).finish c.ref {} else t

def execQuiesce (c : CmdRef) (hv : HostView) (s : State) : Host.Outcome State Fault Refusal :=
  runs (fun s => (s.sees hv).startOrGoOn 0x000B c fun k s => s.quiesce k) s

def State.powerStateCmd (s : State) (c : Cmd) : State :=
  let target := c.param 32 1
  if target = 2 then s.finish c.ref {}
  else
    let t := s.startQuiesce c 0xFF
    if t.atRest c 0xFF then
      let t := (t.writeBackAll.endQuiesce c).finish c.ref {}
      { t with power := { t.power with entering := some (target, t.now) } }
    else t

def execPowerState (c : CmdRef) (hv : HostView) (s : State) : Host.Outcome State Fault Refusal :=
  runs (fun s => (s.sees hv).startOrGoOn 0x0009 c fun k s => s.powerStateCmd k) s

/-- POWER_STATE_ENTRY: within 1 ms after the reply. -/
def execPowerStateEntry (now : Nat) (s : State) : Host.Outcome State Fault Refusal :=
  runsSpine (fun s =>
    let s := s.at now
    match s.power.entering with
    | none => s
    | some (target, _) =>
      if s.inflight.any fun c => c.opcode == 0x0009 && c.stage == .done && c.param 32 1 != 2 then s
      else if target = 0 then s.enterOff .latched
      else s.dark .standby) s

/-! ## Die gating (R547, R548) -/

/-- The pavés and engines of a compute die. -/
def dieUnits (d : Nat) : List Nat := (List.range 2).map (fun i => 0x01 + 2 * d + i) ++ (List.range 8).map fun i => 0x10 + 8 * d + i

/-- Every operation of an older epoch has left a die. -/
def State.dieLeft (s : State) (d : Nat) : Bool := (dieUnits d).all s.unitLeft

/-- The collectives under way that need a unit or bank of a die: their banks lose power, which ends them with UNIT_FENCED (R251). -/
def State.failDieColls (s : State) (d : Nat) : State :=
  (s.colls.filter fun k => k.ended.isNone && (dieUnits d).any fun u => k.cmd.needs.any (Need.unit u).meets).foldl
    (fun (t : State) k => t.failColl k stUnitFenced) s

/-- DIE_GATE: the die's units leave the beat ring and its banks lose power. -/
def execDieGate (die : Nat) (s : State) : Host.Outcome State Fault Refusal :=
  runs (fun s =>
    if die < 4 && s.operating && s.dieGated die && !s.power.gated.testBit die && s.dieLeft die then
      (({ s with power := { s.power with gated := putBit s.power.gated die true } }).failDieColls die).raise evReset 4
    else s) s

/-- DIE_UNGATE: the die is powered and all its banks are clear. -/
def execDieUngate (die : Nat) (s : State) : Host.Outcome State Fault Refusal :=
  runs (fun s =>
    if die < 4 && !s.dieGated die && s.power.gated.testBit die then
      ({ s with
        power := { s.power with gated := putBit s.power.gated die false },
        mem := s.mem.forget (bankBase + die * 0x80000000) 0x80000000,
        clears := s.clears.filter fun u => !(dieUnits die).contains u }).raise evReset 4
    else s) s

/-! ## RESET_UNIT (R552) -/

/-- The reset of a pavé or engine: what runs on it ends, its banks clear, its fault and counters are gone; a fenced one is ready for
SELF_TEST. -/
def State.resetCompute (s : State) (u : Nat) : State :=
  let t := ((s.stopOn u stTargetRestarted).clearBanks u).forgetRegs (faultReg u) (unitBlock u + 0x30)
  let t := t.forgetCounters fun a => decide (unitBlock u ≤ a) && decide (a < unitBlock (u + 1))
  if t.isFenced u then { t with units := { t.units with readied := u :: t.units.readied.filter (· != u) } } else t

/-- The reset of a port: link down, its occurrence counters zero (R54), then bring-up; HELD and FENCED stay. -/
def State.resetPort (s : State) (p : Nat) : State :=
  let k := (s.port p).state
  (s.linkDown p (if k = 6 || k = 7 then k else s.restState p)).forgetCounters fun a => decide (blkPort p ≤ a) && decide (a < blkPort p + 0x10000)

def State.resetUnit (s : State) (c : Cmd) : State :=
  let u := c.param 32 1
  let expect := c.param 34 2
  if !takesUnitReset u then s.refuse c stOutOfRange 32
  else if expect ≠ 0 && expect ≠ c.result0 then s.refuse c stTargetRestarted
  else
    let t :=
      if u = 0x71 then s.keeperComplex 5 (some c.ref)
      else
        let t := if isCompute u then s.resetCompute u else s.resetPort (u - 0x60)
        ((t.raiseUnit u).raise evReset 0).stopBook.resetCause 4 5 0 u
    t.finish c.ref { result0 := t.unitInc u }

def execResetUnit (c : CmdRef) (hv : HostView) (s : State) : Host.Outcome State Fault Refusal :=
  runsSpine (fun s => (s.sees hv).start 0x000A c fun k s => s.resetUnit k) s

/-! ## The oscillator (R35) and the coin cell (R38) -/

/-- OSCILLATOR_LOST: the timer stops, a fatal error is raised, every port goes down. -/
def execOscillatorLost (s : State) : Host.Outcome State Fault Refusal :=
  runs (fun s =>
    if s.operating && s.clock.good then
      let t := ({ s with clock := { s.clock with good := false } }).fatal { cause := 0x0101, cls := 3 }
      (List.range 8).foldl (fun (t : State) p =>
        let k := (t.port p).state
        t.linkDown p (if k = 6 || k = 7 then k else 0)) t
    else s) s

/-- COIN_CELL_MEASURE: every 24 h of local time. -/
def execCoinCellMeasure (mv : Nat) (now : Nat) (s : State) : Host.Outcome State Fault Refusal :=
  runs (fun s =>
    let s := s.at now
    if s.powered && s.expired (s.clock.cellFrom + 86400 * second) then s.measureCell mv else s) s

end Sys2Proof.Machine
end

