-- ==== Sys2Proof/Machine/Panel.lean ====
section
/-! DEFINITION. The service panel (chapter 3, R86-R99; R575, R576): buttons, holds, attention pads, reach modules, fibres, the lid, and what
the ring, the lamps and the link lights show. -/

namespace Sys2Proof.Machine

open Sys2Proof

/-! ## Locate (R90) -/

def State.locate (s : State) (on : Bool) : State := { s with panel := { s.panel with locate := on } }

/-- LOCATE_CTRL_WRITE. -/
def execLocateCtrlWrite (v : Word) (s : State) : Host.Outcome State Fault Refusal := runsHost (fun s => s.locate (v.toNat.testBit 0)) s

/-- LOCATE_PRESS: a press of at least 50 ms (R87). -/
def execLocatePress (ms : Nat) (s : State) : Host.Outcome State Fault Refusal :=
  runs (fun s => if s.powered && 50 ≤ ms then (s.locate (!s.panel.locate)).raisePanel 0 else s) s

/-! ## Service requests and holds (R87-R89) -/

/-- A hold comes into force; it takes up a pending request. -/
def State.holdNow (s : State) : State := { s with panel := { s.panel with hold := true, request := none } }

def State.releaseHold (s : State) : State := { s with panel := { s.panel with hold := false } }

/-- SERVICE_HOLD: SUCCESS once the hold is in force. -/
def execServiceHold (c : CmdRef) (hv : HostView) (s : State) : Host.Outcome State Fault Refusal :=
  runs (fun s => (s.sees hv).start 0x0005 c fun k s =>
    if s.panel.hold || s.turns.isEmpty then s.holdNow.finish k.ref {} else s.running k.ref) s

def execServiceResume (c : CmdRef) (hv : HostView) (s : State) : Host.Outcome State Fault Refusal :=
  runs (fun s => (s.sees hv).start 0x0006 c fun k s => s.releaseHold.finish k.ref {}) s

/-- SERVICE_PRESS: decided at release, at least 50 ms and short of a hold of 10 s. -/
def execServicePress (ms : Nat) (now : Nat) (s : State) : Host.Outcome State Fault Refusal :=
  runs (fun s =>
    let s := s.at now
    if !s.powered || ms < 50 || 10000 ≤ ms then s
    else if s.panel.hold then s.releaseHold
    else if s.panel.request.isSome then { s with panel := { s.panel with request := none } }
    else ({ s with panel := { s.panel with request := some (s.now + 120 * second) } }).raisePanel 1) s

/-- SERVICE_LONG: a forced hold. -/
def execServiceLong (now : Nat) (s : State) : Host.Outcome State Fault Refusal :=
  runs (fun s =>
    let s := s.at now
    if !s.powered then s
    else
      let t := s.raisePanel 2
      if t.turns.isEmpty then t.holdNow else { t with panel := { t.panel with holdWaits := true } }) s

/-- The owner has issued a SERVICE_HOLD that is not complete: a request it answers does not lapse (R88). -/
def State.holdIssued (s : State) : Bool := s.inflight.any fun c => c.opcode == 0x0005 && c.epoch != 0 && c.stage != .done

/-- SERVICE_REQUEST_LAPSE: 120 s without a SERVICE_HOLD. -/
def execServiceRequestLapse (now : Nat) (s : State) : Host.Outcome State Fault Refusal :=
  runs (fun s =>
    let s := s.at now
    match s.panel.request with
    | some t => if s.expired t && !s.holdIssued then { s with panel := { s.panel with request := none } } else s
    | none => s) s

/-! ## Coin-cell service (R99) -/

def execCellService (now : Nat) (s : State) : Host.Outcome State Fault Refusal :=
  runs (fun s =>
    let s := s.at now
    if s.powered && s.power.pwrgd && s.panel.cellService.isNone then
      ({ s with panel := { s.panel with cellService := some (s.now + 600 * second), cellInserted := false } }).raisePanel 3
    else s) s

/-- CELL_INSERTED: the cell is measured. -/
def execCellInserted (mv : Nat) (now : Nat) (s : State) : Host.Outcome State Fault Refusal :=
  runs (fun s =>
    let s := s.at now
    if s.panel.cellService.isNone then s
    else if 2600 ≤ mv then
      ({ s with panel := { s.panel with coinMv := mv, cellService := none, cellInserted := false } }).raisePanel 13
    else ({ s with panel := { s.panel with coinMv := mv, cellInserted := true } }).raisePanel 11) s

/-- CELL_SERVICE_TIMEOUT: 10 min without a cell. -/
def execCellServiceTimeout (now : Nat) (s : State) : Host.Outcome State Fault Refusal :=
  runs (fun s =>
    let s := s.at now
    match s.panel.cellService with
    | some t =>
      if s.expired t && !s.panel.cellInserted then ({ s with panel := { s.panel with cellService := none } }).raisePanel 12 else s
    | none => s) s

/-! ## Attention pads and reach modules (R18, R91-R93) -/

/-- A module is powered down: RELEASED, and its contents are gone. -/
def State.powerDown (s : State) (n : Nat) : State :=
  let t := s.putSocket n { s.socket n with state := .released }
  { t with mem := t.mem.forget (socketBase n) socketBytes }

/-- A counted touch, as Table 3-8 gives. -/
def State.touch (s : State) (n : Nat) : State :=
  let k := s.socket n
  let t := s.putSocket n { k with touches := k.touches + 1 }
  let goTo := fun (st : SocketState) => t.putSocket n { t.socket n with state := st }
  match k.state with
  | .powered => t.powerDown n
  | .inService => (goTo .releaseRequested).raisePanel 4
  | .releaseRequested => goTo (if s.reachMap.testBit n then .inService else .powered)
  | _ => t

/-- PAD_TOUCH: one of at least 100 ms counts. -/
def execPadTouch (socket : Nat) (ms : Nat) (s : State) : Host.Outcome State Fault Refusal :=
  runs (fun s => if s.operating && socket < 12 && 100 ≤ ms then s.touch socket else s) s

/-- REACH_RELEASE (R92, R129). A LOST socket that the layout still maps is refused as LOST (notes/assumptions/34.md). -/
def State.reachRelease (s : State) (c : Cmd) : State :=
  let n := c.param 32 1
  let k := (s.socket n).state
  if [SocketState.empty, .refused, .released, .lost].contains k then s.finish c.ref { status := stOutOfRange, detail := 32 }
  else if s.reachMap.testBit n then s.finish c.ref { status := stResourceInUse }
  else (s.powerDown n).finish c.ref {}

def execReachRelease (c : CmdRef) (hv : HostView) (s : State) : Host.Outcome State Fault Refusal :=
  runs (fun s => (s.sees hv).start 0x0007 c fun k s => s.reachRelease k) s

/-- REACH_INSERT: a module enters an empty or LOST socket. One that enters a LOST socket is new: what the layout maps there stays lost
until a commit maps it again (R93). -/
def execReachInsert (socket : Nat) (spd : Option ReachModule) (s : State) : Host.Outcome State Fault Refusal :=
  runs (fun s =>
    let k := s.socket socket
    if s.operating && socket < 12 && (k.state == .empty || k.state == .lost) then
      let st := match spd with | some m => bootSocket (some m) | none => .refused
      (s.putSocket socket { k with state := st, stale := k.stale || k.state == .lost }).raisePanel 5
    else s) s

/-- REACH_REMOVE. -/
def State.reachRemove (s : State) (n : Nat) : State :=
  let k := s.socket n
  match k.state with
  | .empty => s
  | .lost => s
  | .inService => ((s.loseSocket n).raisePanel 6).raisePanel 7
  | .releaseRequested => ((s.loseSocket n).raisePanel 6).raisePanel 7
  | _ =>
    let t := s.putSocket n { k with state := .empty }
    ({ t with mem := t.mem.forget (socketBase n) socketBytes }).raisePanel 6

def execReachRemove (socket : Nat) (s : State) : Host.Outcome State Fault Refusal :=
  runs (fun s =>
    if s.operating && socket < 12 then
      let t := s.reachRemove socket
      { t with retraining := t.retraining.filter (· != 16 + socket) }
    else s) s

/-! ## Fibres (R94, R95) -/

/-- FIBRE_CHANGE: sensor 3n + i reports present or absent. -/
def State.fibreChange (s : State) (i : Nat) (present : Bool) : State :=
  if 24 ≤ i || s.panel.fibres.testBit i == present then s
  else
    let p := i / 3
    let t := { s with panel := { s.panel with fibres := putBit s.panel.fibres i present } }
    let since := if t.sensorsPresent p then insert p t.now t.panel.fibresSince else erase p t.panel.fibresSince
    let t := (({ t with panel := { t.panel with fibresSince := since } }).raise evFibre i).raisePanel 8
    let k := t.port p
    if k.state = 7 then t
    else if k.state = 6 then
      if t.sensorsAbsent p then t.updPort p fun k => { k with sawAbsent := true }
      else if t.sensorsPresent p && k.sawAbsent then t.updPort p fun k => { k with state := t.restState p, sawAbsent := false }
      else t
    else t.linkDown p (t.restState p)

def execFibreChange (sensor : Nat) (present : Bool) (now : Nat) (s : State) : Host.Outcome State Fault Refusal :=
  runs (fun s => let s := s.at now; if s.powered then s.fibreChange sensor present else s) s

/-! ## Lid (R96, R575, R576) -/

def State.lid (s : State) (open_ : Bool) : State := { s with panel := { s.panel with lidOpen := open_ } }

def execLidOpen (s : State) : Host.Outcome State Fault Refusal :=
  runs (fun s =>
    if s.powered && s.power.pwrgd && !s.panel.lidOpen then ((((s.lid true).raisePanel 9).clearLocket 3).endDebug true none).tamper 4 else s) s

def execLidClose (s : State) : Host.Outcome State Fault Refusal :=
  runs (fun s => if !s.panel.lidOpen then s else if s.powered then (s.lid false).raisePanel 10 else s.lid false) s

/-- LID_OPEN_UNPOWERED: watched only while the cell holds 1.8 V. -/
def execLidOpenUnpowered (s : State) : Host.Outcome State Fault Refusal :=
  runs (fun s =>
    if s.power.pwrgd || s.panel.lidOpen then s
    else if s.panel.coinMv < 1800 then s.lid true
    else { (s.lid true) with keepsake := { s.keepsake with ownerBlob := [] } }.keepsakeEvent 5 false) s

/-! ## What the panel shows -/

/-- Table 3-6, highest priority first. -/
inductive RingPattern where
  | redSteady
  | redAmber
  | redFlashing
  | amberSteady
  | amberFlashing
  | whiteBreathing
  | greenSteady
  | greenDim
  | greenBlink
  | off
  deriving DecidableEq, Repr

/-- The pattern of the light ring (R86). -/
def State.ring (s : State) : RingPattern :=
  if s.clock.fatal || s.power.thermLow || s.sec.recovery then .redSteady
  else if s.panel.lidOpen || s.tamperPending then .redAmber
  else if s.gov.pausedPower || s.gov.pausedThermal then .redFlashing
  else if s.panel.hold || s.panel.cellService.isSome then .amberSteady
  else if s.panel.request.isSome then .amberFlashing
  else if s.power.booting != .none || !s.gov.planning.isEmpty then .whiteBreathing
  else
    match s.power.state with
    | .active => .greenSteady
    | .idle => .greenDim
    | .standby => .greenBlink
    | .off => .off

/-- OEn blocks light to the transmit ribbon of port p: its Pn-TX sensor reports absent (R94). -/
def State.lightBlocked (s : State) (p : Nat) : Bool := !s.panel.fibres.testBit (3 * p)

/-- The overlays of the ring: locate, and the warnings that are outstanding. -/
def State.ringLocate (s : State) : Bool := s.ring != .off && s.panel.locate
def State.ringWarning (s : State) : Bool :=
  let p := s.regNat evPanel
  let g := s.regNat evGov
  s.ring != .off && (g.testBit 4 || g.testBit 5 || p.testBit 11 || p.testBit 12)

/-- The lamp of a reach socket's pad (Table 3-8). -/
inductive PadLamp where
  | off
  | redSteady
  | greenFlashing
  | greenSteady
  | amberFlashing
  | amberSteady
  | redFlashing
  deriving DecidableEq, Repr

def SocketState.lamp : SocketState → PadLamp
  | .empty => .off
  | .refused => .redSteady
  | .powered => .greenFlashing
  | .inService => .greenSteady
  | .releaseRequested => .amberFlashing
  | .released => .amberSteady
  | .lost => .redFlashing

/-- The light of a port (Table 3-9). -/
inductive LinkLight where
  | off
  | amberSteady
  | greenSteady
  | greenFlashing
  | amberFlashing
  | redSteady
  | greenBlink
  deriving DecidableEq, Repr

def State.linkLight (s : State) (p : Nat) : LinkLight :=
  let k := s.port p
  if s.loopback p then .greenBlink
  else if !s.sensorsPresent p then .off
  else if k.state = 1 || k.state = 2 then .amberSteady
  else if k.state = 4 then .amberFlashing
  else if k.state = 3 then (if k.txWidth = 64 && k.rxWidth = 64 then .greenSteady else .greenFlashing)
  else .redSteady

end Sys2Proof.Machine
end

