-- ==== Sys2Proof/Machine/Mgmt.lean ====
section
/-! DEFINITION. Management (chapter 3, R79-R85; R565, R567-R569): MCTP control, PLDM types 0, 2 and 5, SPDM, DOE and IDE keys. Codes and
message numbers of the DMTF and PCI-SIG standards that the spec names are PRESUMED from those standards (notes/assumptions/27.md); what a
response carries that neither gives is a free value. -/

namespace Sys2Proof.Machine

open Sys2Proof

/-! ## Who is heard (Table 3-4, Table 20-1, R565, R560) -/

/-- The SMBus address of the device (R80). -/
def State.smbusAddress (s : State) : Nat := 0x30 + s.spine.slotId.toNat

/-- Does a request reach the device: one on SMBus names its address? -/
def State.addressed (s : State) : Transport → Bool
  | .smbus a => a == s.smbusAddress
  | _ => true

/-- Does the device answer a protocol on a transport? -/
def State.hears (s : State) (t : Transport) (p : MgmtProtocol) : Bool :=
  if !s.addressed t then false
  else if t == .doe then p == .spdm && s.pcieLink
  else if s.power.booting == .full then false
  else if s.sec.recovery then p == .mctpControl || p == .pldmBase || p == .pldmUpdate
  else if s.power.state == .standby then p == .mctpControl || p == .pldmBase || p == .pldmPlatform
  else s.power.state != .off

/-- Answers with a code and values. -/
def State.answer (s : State) (t : Transport) (code : Nat) (values : List Nat) : State := s.emit (.response t code values)
def State.answerBytes (s : State) (t : Transport) (bs : List Byte) : State := s.emit (.responseBytes t 0 bs)

/-- A value of a response that the spec leaves open, one for the life of the module. -/
def openValue (place : Nat) : Nat := Config.freeWord 0 place

def ccInvalidData : Nat := 0x02
def ccUnsupported : Nat := 0x05
def ccNotInUpdate : Nat := 0x80
def ccAlreadyInUpdate : Nat := 0x81
def ccOutOfRange : Nat := 0x82
def ccInvalidState : Nat := 0x84
def ccNoSuchId : Nat := 0x80
def ccNoRecord : Nat := 0x82
def ccNoType : Nat := 0x83

/-- RETIRED (R560). -/
def State.retired (s : State) : Bool := s.lcState == 0xF

/-- Runs what a request of a protocol does, where it is heard. -/
def mgmt (t : Transport) (p : MgmtProtocol) (f : State → State) (s : State) : Host.Outcome State Fault Refusal :=
  runs (fun s =>
    if !s.hears t p then s
    else if p == .pldmUpdate && s.retired then s.answer t ccUnsupported []
    else f s) s

/-! ## MCTP control (R80) -/

def execSetEndpointId (t : Transport) (eid : Nat) (s : State) : Host.Outcome State Fault Refusal :=
  mgmt t .mctpControl (fun s =>
    if eid < 8 || 255 ≤ eid then s.answer t ccInvalidData []
    else ({ s with mgmt := { s.mgmt with eid := eid } }).answer t 0 [eid]) s

def execGetEndpointId (t : Transport) (s : State) : Host.Outcome State Fault Refusal :=
  mgmt t .mctpControl (fun s => s.answer t 0 [s.mgmt.eid]) s

def execGetEndpointUuid (t : Transport) (s : State) : Host.Outcome State Fault Refusal :=
  mgmt t .mctpControl (fun s => s.answerBytes t ((List.range 16).map fun i => BitVec.ofNat 8 (openValue i))) s

def execGetMctpVersionSupport (t : Transport) (s : State) : Host.Outcome State Fault Refusal :=
  mgmt t .mctpControl (fun s => s.answer t 0 [openValue 16]) s

/-- GET_MESSAGE_TYPE_SUPPORT: control, PLDM, SPDM and secured messages. -/
def execGetMessageTypeSupport (t : Transport) (s : State) : Host.Outcome State Fault Refusal :=
  mgmt t .mctpControl (fun s => s.answer t 0 [0, 1, 5, 6]) s

/-! ## PLDM type 0 -/

/-- The commands of a PLDM type (Table 3-4), by their numbers in the standards. -/
def pldmCommands : Nat → Option (List Nat)
  | 0 => some [0x02, 0x03, 0x04, 0x05]
  | 2 => some [0x04, 0x0A, 0x11, 0x21, 0x31, 0x32, 0x39, 0x50, 0x51]
  | 5 => some [0x01, 0x02, 0x10, 0x13, 0x14, 0x15, 0x16, 0x17, 0x18, 0x1A, 0x1B, 0x1C, 0x1D]
  | _ => none

def execGetTid (t : Transport) (s : State) : Host.Outcome State Fault Refusal :=
  mgmt t .pldmBase (fun s => s.answer t 0 [openValue 17]) s

def execGetPldmVersion (t : Transport) (type : Nat) (s : State) : Host.Outcome State Fault Refusal :=
  mgmt t .pldmBase (fun s => if (pldmCommands type).isSome then s.answer t 0 [openValue (18 + type)] else s.answer t ccNoType []) s

def execGetPldmTypes (t : Transport) (s : State) : Host.Outcome State Fault Refusal :=
  mgmt t .pldmBase (fun s => s.answer t 0 [0, 2, 5]) s

def execGetPldmCommands (t : Transport) (type : Nat) (s : State) : Host.Outcome State Fault Refusal :=
  mgmt t .pldmBase (fun s => match pldmCommands type with | some l => s.answer t 0 l | none => s.answer t ccNoType []) s

/-! ## PLDM type 2 (R84, R85) -/

/-- The sensors and effecters of Table 3-5, each with its kind: 0 numeric sensor, 1 state sensor, 2 numeric effecter, 3 state effecter. -/
def pdrs : List (Nat × Nat) :=
  (List.range 8).map (fun i => (1 + i, 0)) ++ (List.range 8).map (fun i => (16 + i, 1)) ++ (List.range 12).map (fun i => (32 + i, 1))
    ++ [(48, 1), (49, 1), (64, 2), (65, 3)]

/-- GET_PDR: records are numbered from 1, and handle 0 asks for the first. -/
def execGetPdr (t : Transport) (handle : Nat) (s : State) : Host.Outcome State Fault Refusal :=
  mgmt t .pldmPlatform (fun s =>
    let h := max handle 1
    match pdrs[h - 1]? with
    | some r => s.answer t 0 [if h < pdrs.length then h + 1 else 0, r.1, r.2]
    | none => s.answer t ccNoRecord []) s

def execGetPdrRepositoryInfo (t : Transport) (s : State) : Host.Outcome State Fault Refusal :=
  mgmt t .pldmPlatform (fun s => s.answer t 0 [pdrs.length]) s

/-- A numeric sensor's reading. -/
def State.numericSensor (s : State) (id : Nat) : Option Nat :=
  match id with
  | 1 => some s.powerAverage
  | 2 => some s.mgmt.inputDv
  | 3 => some s.mgmt.inletDc
  | 4 => some s.mgmt.outletDc
  | 5 => some s.mgmt.junctionDc
  | 6 => some (field (s.regNat blkPower) 15 0 / 10)
  | 7 => some s.panel.coinMv
  | 8 => some (match s.gov.applied with | some k => k.headroom | none => 0)
  | _ => none

/-- A state sensor's present state. -/
def State.stateSensor (s : State) (id : Nat) : Option Nat :=
  if 16 ≤ id && id < 24 then some (s.portSensor (id - 16))
  else if 32 ≤ id && id < 44 then some (s.socket (id - 32)).state.code
  else if id = 48 then some s.power.state.code
  else if id = 49 then some s.lcState
  else none

def execGetSensorReading (t : Transport) (id : Nat) (s : State) : Host.Outcome State Fault Refusal :=
  mgmt t .pldmPlatform (fun s => match s.numericSensor id with | some v => s.answer t 0 [v] | none => s.answer t ccNoSuchId []) s

def execGetStateSensorReadings (t : Transport) (id : Nat) (s : State) : Host.Outcome State Fault Refusal :=
  mgmt t .pldmPlatform (fun s => match s.stateSensor id with | some v => s.answer t 0 [v] | none => s.answer t ccNoSuchId []) s

/-- The highest power cap of the variant (R23). -/
def capTop (v : Variant) : Nat := match v with | .l => 2500 | .s => 2250

/-- SET_NUMERIC_EFFECTER_VALUE: the management power limit (R85). -/
def execSetNumericEffecterValue (t : Transport) (id : Nat) (v : Nat) (s : State) : Host.Outcome State Fault Refusal :=
  mgmt t .pldmPlatform (fun s =>
    if id ≠ 64 then s.answer t ccNoSuchId []
    else if v = 0 || (600 ≤ v && v ≤ capTop s.spine.variant) then ({ s with mgmt := { s.mgmt with limit := v } }).answer t 0 []
    else s.answer t ccInvalidData []) s

def execGetNumericEffecterValue (t : Transport) (id : Nat) (s : State) : Host.Outcome State Fault Refusal :=
  mgmt t .pldmPlatform (fun s => if id = 64 then s.answer t 0 [s.mgmt.limit] else s.answer t ccNoSuchId []) s

/-- SET_STATE_EFFECTER_STATES: locate, 0 off or 1 on (R90). -/
def execSetStateEffecterStates (t : Transport) (id : Nat) (v : Nat) (s : State) : Host.Outcome State Fault Refusal :=
  mgmt t .pldmPlatform (fun s =>
    if id ≠ 65 then s.answer t ccNoSuchId []
    else if 1 < v then s.answer t ccInvalidData []
    else (s.locate (v == 1)).answer t 0 []) s

/-- SET_EVENT_RECEIVER: endpoint 0 is none. Messages to an earlier receiver are not sent. -/
def execSetEventReceiver (t : Transport) (receiver : Nat) (s : State) : Host.Outcome State Fault Refusal :=
  mgmt t .pldmPlatform (fun s =>
    let r := if receiver = 0 then none else some (t, receiver)
    let es := if r.isNone then [] else s.mgmt.events
    ({ s with mgmt := { s.mgmt with receiver := r, events := es } }).answer t 0 []) s

/-- EVENT_MESSAGE_COLLECTED: the oldest PlatformEventMessage leaves the device; ALERT_N is high again once none waits. -/
def execEventMessageCollected (now : Nat) (s : State) : Host.Outcome State Fault Refusal :=
  runs (fun s =>
    let s := s.at now
    match s.mgmt.receiver, s.mgmt.events with
    | some (t, _), e :: rest => ({ s with mgmt := { s.mgmt with events := rest } }).answer t 0 [e.1, e.2]
    | _, _ => s) s

/-! ## PLDM type 5 (R566, R567) -/

/-- The slot that did not boot. -/
def State.otherSlot (s : State) : FwSlot := if s.sec.bootSlot = 0 then s.sec.slotB else s.sec.slotA
def State.putOther (s : State) (k : FwSlot) : State :=
  if s.sec.bootSlot = 0 then { s with sec := { s.sec with slotB := k } } else { s with sec := { s.sec with slotA := k } }

def State.putUpdate (s : State) (u : Option FwUpdate) : State := { s with mgmt := { s.mgmt with update := u } }

/-- Does an image pass R566, but for the fused SVN? -/
def imagePasses (v : Variant) (b : List Byte) : Bool :=
  let key := slice b 88 136
  let signed := slice b 0 8 ++ [0, 0, 0, 0] ++ slice b 12 212
  let len := fieldAt b 16 8
  let body := slice b 512 len
  let kinds := fieldAt b 5 1
  fieldAt b 0 4 == 0x46570001 && decide (fieldAt b 4 1 ≤ 64) && decide (kinds < 4)
    && kinds.testBit (match v with | .l => 0 | .s => 1)
    && fieldAt b 6 2 == 0 && fieldAt b 12 4 == 0 && (slice b 356 156).all (· == 0) && decide (512 + len ≤ b.length)
    && Config.sha512 key == Config.firmwareHash && Config.ecdsaVerifies key signed (slice b 224 132)
    && Config.sha512 body == slice b 24 64

/-- Every byte of an update's image has been written. -/
def FwUpdate.whole (u : FwUpdate) : Bool := (List.range u.size).all fun i => (lookup i u.image).isSome

/-- The slot as the bytes written make it: an image that is not whole does not pass. -/
def State.slotOf (s : State) (u : FwUpdate) : FwSlot :=
  let b := (List.range u.size).map fun i => (lookup i u.image).getD 0
  { passes := u.whole && imagePasses s.spine.variant b, svn := fieldAt b 4 1, activation := 0, digest := slice b 24 64 }

/-- Runs a step of an update in one of the phases given. -/
def State.inUpdate (s : State) (t : Transport) (phases : List Nat) (f : FwUpdate → State) : State :=
  match s.mgmt.update with
  | none => s.answer t ccNotInUpdate []
  | some u => if u.phase = 4 then s.answer t ccNotInUpdate [] else if phases.contains u.phase then f u else s.answer t ccInvalidState []

def execQueryDeviceIdentifiers (t : Transport) (s : State) : Host.Outcome State Fault Refusal :=
  mgmt t .pldmUpdate (fun s => s.answer t 0 [openValue 32]) s

/-- GET_FIRMWARE_PARAMETERS: component 1, the SVN of the booted image and of the other slot. -/
def execGetFirmwareParameters (t : Transport) (s : State) : Host.Outcome State Fault Refusal :=
  mgmt t .pldmUpdate (fun s => s.answer t 0 [1, s.bootSlot.svn, s.otherSlot.svn]) s

def execRequestUpdate (t : Transport) (s : State) : Host.Outcome State Fault Refusal :=
  mgmt t .pldmUpdate (fun s =>
    if s.updating then s.answer t ccAlreadyInUpdate [] else (s.putUpdate (some ⟨0, 0, []⟩)).answer t 0 []) s

def execPassComponentTable (t : Transport) (component : Nat) (s : State) : Host.Outcome State Fault Refusal :=
  mgmt t .pldmUpdate (fun s => s.inUpdate t [0] fun u =>
    if component = 1 then (s.putUpdate (some { u with phase := 1 })).answer t 0 [] else s.answer t ccInvalidData []) s

/-- UPDATE_COMPONENT: the slot's ACTIVATION is 0 before its first byte is written. -/
def execUpdateComponent (t : Transport) (component : Nat) (size : Nat) (s : State) : Host.Outcome State Fault Refusal :=
  mgmt t .pldmUpdate (fun s => s.inUpdate t [1] fun _ =>
    if component = 1 then
      ((s.putOther { s.otherSlot with activation := 0 }).putUpdate (some ⟨2, size, []⟩)).answer t 0 []
    else s.answer t ccInvalidData []) s

/-- The device sends TransferComplete with the portion that makes the image whole (Table 3-4). -/
def State.transferComplete (s : State) (t : Transport) (u v : FwUpdate) : State :=
  if !u.whole && v.whole then s.answer t 0 [0x16, 0] else s

/-- REQUEST_FIRMWARE_DATA: one portion of the image, as the host answers it. -/
def execRequestFirmwareData (t : Transport) (off : Nat) (bytes : List Byte) (s : State) : Host.Outcome State Fault Refusal :=
  mgmt t .pldmUpdate (fun s => s.inUpdate t [2] fun u =>
    if u.size < off + bytes.length then s.answer t ccOutOfRange []
    else
      let v := { u with image := putCells off bytes u.image }
      (((s.putOther (s.slotOf v)).putUpdate (some v)).answer t 0 []).transferComplete t u v) s

/-- VERIFY_COMPLETE: 0 for an image that passes, 1 for one that does not, which has to be written anew. An image that passes lies in its slot
already, so ApplyComplete follows. -/
def execVerifyComplete (t : Transport) (s : State) : Host.Outcome State Fault Refusal :=
  mgmt t .pldmUpdate (fun s => s.inUpdate t [2] fun u =>
    let ok := s.otherSlot.passes && (s.slotOf u).passes && decide (s.sec.fusedSvn ≤ s.otherSlot.svn)
    let v := (s.putUpdate (some { u with phase := if ok then 3 else 1 })).answer t 0 [bit (!ok)]
    if ok then v.answer t 0 [0x18, 0] else v) s

/-- ACTIVATE_FIRMWARE: activation needs a reset. -/
def execActivateFirmware (t : Transport) (s : State) : Host.Outcome State Fault Refusal :=
  mgmt t .pldmUpdate (fun s => s.inUpdate t [3] fun u =>
    ((s.putOther { s.otherSlot with activation := s.bootSlot.activation + 1 }).putUpdate (some { u with phase := 4 })).answer t 0 []) s

def execGetStatus (t : Transport) (s : State) : Host.Outcome State Fault Refusal :=
  mgmt t .pldmUpdate (fun s => s.answer t 0 [match s.mgmt.update with | some u => u.phase + 1 | none => 0]) s

def execCancelUpdateComponent (t : Transport) (s : State) : Host.Outcome State Fault Refusal :=
  mgmt t .pldmUpdate (fun s => s.inUpdate t [2, 3] fun u => (s.putUpdate (some { u with phase := 1, image := [] })).answer t 0 []) s

def execCancelUpdate (t : Transport) (s : State) : Host.Outcome State Fault Refusal :=
  mgmt t .pldmUpdate (fun s => s.inUpdate t [0, 1, 2, 3] fun _ => (s.putUpdate none).answer t 0 []) s

/-! ## SPDM (R82, R83, R568, R569) -/

def errInvalidRequest : Nat := 0x01
def errBusy : Nat := 0x03
def errUnexpectedRequest : Nat := 0x04
def errUnsupportedRequest : Nat := 0x07
def errSessionLimit : Nat := 0x0A

def State.spdmPort (s : State) : Transport → SpdmPort
  | .doe => s.mgmt.spdmDoe
  | .smbus _ => s.mgmt.spdmSmbus
  | .i3c => s.mgmt.spdmI3c

def State.putSpdm (s : State) (t : Transport) (k : SpdmPort) : State :=
  match t with
  | .doe => { s with mgmt := { s.mgmt with spdmDoe := k } }
  | .smbus _ => { s with mgmt := { s.mgmt with spdmSmbus := k } }
  | .i3c => { s with mgmt := { s.mgmt with spdmI3c := k } }

/-- An SPDM error response: answered, counted and logged. -/
def State.spdmError (s : State) (t : Transport) (code : Nat) : State :=
  let k := s.spdmPort t
  let u := s.putSpdm t { k with errorsAt := s.now :: s.recent (10 * second) k.errorsAt }
  (u.logEvent { cause := 0x0006, cls := 0 }).answer t code []

/-- Is a transport under the fence of R83? -/
def State.spdmBusy (s : State) (t : Transport) : Bool := match (s.spdmPort t).busyUntil with | some b => !s.expired b | none => false

/-- Runs what an SPDM request does. In RETIRED only GET_VERSION is answered. -/
def spdm (t : Transport) (wellFormed : Bool) (now : Nat) (f : State → SpdmPort → State) (s : State) (always : Bool := false) :
    Host.Outcome State Fault Refusal :=
  runs (fun s =>
    let s := s.at now
    if !s.hears t .spdm || (s.retired && !always) then s
    else if s.spdmBusy t then s.answer t errBusy []
    else if !wellFormed then s.spdmError t errInvalidRequest
    else f s (s.spdmPort t)) s

/-- Runs a request that needs the stage before it. -/
def atStage (n : Nat) (t : Transport) (f : State → SpdmPort → State) (s : State) (k : SpdmPort) : State :=
  if k.stage = n then f s k else s.spdmError t errUnexpectedRequest

/-- A transport's number among the session secrets. -/
def transportIndex : Transport → Nat
  | .doe => 0
  | .smbus _ => 1
  | .i3c => 2

/-- The session secrets of a transport whose sessions end go (R263). -/
def State.dropSecrets (s : State) (t : Transport) (ends : Nat → Bool) : State :=
  { s with sec := { s.sec with locket := { s.sec.locket with
    secrets := s.sec.locket.secrets.filter fun x => !(x.1 == transportIndex t && ends x.2.1) } } }

/-- The locket takes a new secret of a session (R263). -/
def State.keepSecret (s : State) (t : Transport) (session : Nat) : State :=
  let d := s.draw
  let u := d.2.dropSecrets t (· == session)
  { u with sec := { u.sec with locket := { u.sec.locket with secrets := u.sec.locket.secrets ++ [(transportIndex t, session, d.1)] } } }

/-- GET_VERSION: 1.2 and 1.3; the connection starts anew. -/
def execGetVersion (t : Transport) (wellFormed : Bool) (now : Nat) (s : State) : Host.Outcome State Fault Refusal :=
  spdm t wellFormed now (fun s k => ((s.putSpdm t { k with stage := 1, sessions := [] }).dropSecrets t fun _ => true).answer t 0 [0x12, 0x13]) s true

def execGetCapabilities (t : Transport) (wellFormed : Bool) (now : Nat) (s : State) : Host.Outcome State Fault Refusal :=
  spdm t wellFormed now (atStage 1 t fun s k => (s.putSpdm t { k with stage := 2 }).answer t 0 [openValue 33]) s

def execNegotiateAlgorithms (t : Transport) (offered : SpdmAlgorithms) (wellFormed : Bool) (now : Nat) (s : State) :
    Host.Outcome State Fault Refusal :=
  spdm t wellFormed now (atStage 2 t fun s k =>
    if offered.p521 && offered.sha512 && offered.secp521r1 && offered.aes256gcm then (s.putSpdm t { k with stage := 3 }).answer t 0 []
    else s.spdmError t errInvalidRequest) s

/-- The largest data object of the DOE mailbox (R79), and the bytes of it that a message's two headers take: 8 bytes each, by the
standards (notes/assumptions/27.md). -/
def doeObject : Nat := 0x10000
def doePayload : Nat := doeObject - 16

/-- The certificate chain of slot 0. -/
def State.chain (s : State) : List Byte := Config.certificates s.spine.serial s.spine.variant

def execGetDigests (t : Transport) (wellFormed : Bool) (now : Nat) (s : State) : Host.Outcome State Fault Refusal :=
  spdm t wellFormed now (atStage 3 t fun s _ => s.answerBytes t (Config.sha512 s.chain)) s

/-- GET_CERTIFICATE: slots 1 to 7 are empty. -/
def execGetCertificate (t : Transport) (slot : Nat) (off : Nat) (len : Nat) (wellFormed : Bool) (now : Nat) (s : State) :
    Host.Outcome State Fault Refusal :=
  spdm t wellFormed now (atStage 3 t fun s _ =>
    if slot ≠ 0 || s.chain.length ≤ off then s.spdmError t errInvalidRequest else
      s.answerBytes t (slice s.chain off (if t == .doe then min len doePayload else len))) s

/-- A response signed with the signet: the content, a nonce of the device, and the signature. -/
def State.answerSigned (s : State) (t : Transport) (nonce content : List Byte) : State :=
  let d := s.draw
  let own := (Config.random d.1).toNat
  let bs := content ++ leBytes 8 own
  d.2.answerBytes t (bs ++ Config.signetSign d.1 (nonce ++ bs))

def execChallenge (t : Transport) (slot : Nat) (nonce : List Byte) (wellFormed : Bool) (now : Nat) (s : State) : Host.Outcome State Fault Refusal :=
  spdm t wellFormed now (atStage 3 t fun s _ =>
    if slot ≠ 0 then s.spdmError t errInvalidRequest else s.answerSigned t nonce (Config.sha512 s.chain)) s

/-- A measurement block (Table 21-6). -/
def State.measurement (s : State) (i : Nat) : Option (List Byte) :=
  match i with
  | 1 => some Config.romDigest
  | 2 => some s.bootSlot.digest
  | 3 => some (leBytes 1 s.bootSlot.svn ++ leBytes 1 s.sec.bootFused)
  | 4 => some ([s.lcState, s.sec.debug, bit s.tamperPending, s.sec.bootHub, s.sec.bootSlot].flatMap (leBytes 1))
  | 5 => some (if s.keepsake.ownerBlob.isEmpty then List.replicate 64 0 else slice s.keepsake.ownerBlob 0 64)
  | _ => none

/-- GET_MEASUREMENTS: index 0 asks for the number of blocks, 0xFF for all of them. A request with a nonce is answered signed. -/
def execGetMeasurements (t : Transport) (index : Nat) (nonce : List Byte) (wellFormed : Bool) (now : Nat) (s : State) :
    Host.Outcome State Fault Refusal :=
  spdm t wellFormed now (atStage 3 t fun s _ =>
    let content := if index = 0 then some [5]
      else if index = 0xFF then some ((List.range 5).flatMap fun i => (s.measurement (i + 1)).getD [])
      else s.measurement index
    match content with
    | none => s.spdmError t errInvalidRequest
    | some bs => if nonce.isEmpty then s.answerBytes t bs else s.answerSigned t nonce bs) s

/-- KEY_EXCHANGE: at most four sessions to a transport. -/
def execKeyExchange (t : Transport) (share : List Byte) (wellFormed : Bool) (now : Nat) (s : State) : Host.Outcome State Fault Refusal :=
  spdm t wellFormed now (atStage 3 t fun s k =>
    if 4 ≤ k.sessions.length then s.spdmError t errSessionLimit
    else
      let u := s.putSpdm t { k with sessions := k.sessions ++ [(k.nextSession, false)], nextSession := k.nextSession + 1 }
      (u.keepSecret t k.nextSession).answerSigned t share (leBytes 2 k.nextSession ++ Config.exchangeShare u.draws)) s

/-- Runs a request within a session: one whose FINISH has completed, or has not. -/
def inSession (finished : Bool) (t : Transport) (session : Nat) (f : State → SpdmPort → State) (s : State) (k : SpdmPort) : State :=
  if k.sessions.contains (session, finished) then f s k else s.spdmError t errUnexpectedRequest

def execFinish (t : Transport) (session : Nat) (wellFormed : Bool) (now : Nat) (s : State) : Host.Outcome State Fault Refusal :=
  spdm t wellFormed now (inSession false t session fun s k =>
    ((s.putSpdm t { k with sessions := k.sessions.map fun x => if x.1 = session then (session, true) else x }).keepSecret t session).answer t 0 []) s

def execHeartbeat (t : Transport) (session : Nat) (wellFormed : Bool) (now : Nat) (s : State) : Host.Outcome State Fault Refusal :=
  spdm t wellFormed now (inSession true t session fun s _ => s.answer t 0 []) s

def execKeyUpdate (t : Transport) (session : Nat) (wellFormed : Bool) (now : Nat) (s : State) : Host.Outcome State Fault Refusal :=
  spdm t wellFormed now (inSession true t session fun s _ => (s.keepSecret t session).answer t 0 []) s

def execEndSession (t : Transport) (session : Nat) (wellFormed : Bool) (now : Nat) (s : State) : Host.Outcome State Fault Refusal :=
  spdm t wellFormed now (inSession true t session fun s k =>
    ((s.putSpdm t { k with sessions := k.sessions.filter fun x => x.1 != session }).dropSecrets t (· == session)).answer t 0 []) s

/-- SPDM_FENCE: 64 error responses within 10 s. -/
def execSpdmFence (t : Transport) (now : Nat) (s : State) : Host.Outcome State Fault Refusal :=
  runs (fun s =>
    let s := s.at now
    let k := s.spdmPort t
    if k.busyUntil.isNone && 64 ≤ (s.recent (10 * second) k.errorsAt).length then
      (s.putSpdm t { k with busyUntil := some (s.now + 10 * second), errorsAt := [] }).logEvent { cause := 0x0006, cls := 0 }
    else s) s

def execSpdmFenceExpiry (t : Transport) (now : Nat) (s : State) : Host.Outcome State Fault Refusal :=
  runs (fun s =>
    let s := s.at now
    let k := s.spdmPort t
    match k.busyUntil with
    | some b => if s.expired b then s.putSpdm t { k with busyUntil := none } else s
    | none => s) s

/-- MGMT_UNSUPPORTED_COMMAND: the standard's code for an unsupported command. -/
def execMgmtUnsupportedCommand (t : Transport) (protocol : MgmtProtocol) (_cmd : Nat) (s : State) : Host.Outcome State Fault Refusal :=
  runs (fun s =>
    if !s.hears t protocol then s
    else if protocol == .spdm then
      if s.retired then s else if s.spdmBusy t then s.answer t errBusy [] else s.spdmError t errUnsupportedRequest
    else s.answer t ccUnsupported []) s

/-! ## DOE and IDE (R78, R79) -/

/-- DOE_DISCOVERY: DOE Discovery, CMA/SPDM and Secured CMA/SPDM. -/
def execDoeDiscovery (index : Nat) (s : State) : Host.Outcome State Fault Refusal :=
  runs (fun s =>
    if !s.pcieLink then s
    else if index < 3 then s.answer .doe 0 [1, index, (index + 1) % 3]
    else s.answer .doe 0 [0xFFFF, 0, 0]) s

/-- Does the device support the stream that an IDE_KM message keys: the link stream, or one of eight selective streams of up to four
ranges, with a key of 256 bits? -/
def keySuits (m : IdeKm) : Bool :=
  m.key.length == 32 && (if m.selective then decide (1 ≤ m.stream) && decide (m.stream ≤ 8) && decide (m.ranges ≤ 4) else m.stream == 0)

/-- IDE_KM: the keys of one stream, in a secured session of the DOE mailbox. -/
def execIdeKm (session : Nat) (msg : IdeKm) (s : State) : Host.Outcome State Fault Refusal :=
  runs (fun s =>
    if !s.hears .doe .spdm || s.retired then s
    else if s.spdmBusy .doe then s.answer .doe errBusy []
    else if !s.mgmt.spdmDoe.sessions.contains (session, true) then s.spdmError .doe errUnexpectedRequest
    else if !keySuits msg then s.spdmError .doe errInvalidRequest
    else
      ({ s with
        sec := { s.sec with locket := { s.sec.locket with ideKeys := insert msg.stream msg s.sec.locket.ideKeys } },
        pcie := { s.pcie with ideStopped := s.pcie.ideStopped.filter (· != msg.stream) } }).answer .doe 0 []) s

end Sys2Proof.Machine
end

