-- ==== Sys2Proof/Machine/Logbook.lean ====
section
/-! DEFINITION. The event log's reader GET_LOG, and the logbook: LOGBOOK_CTRL and the flush of its buffers (chapter 22, R582-R584,
R588-R591). -/

namespace Sys2Proof.Machine

open Sys2Proof

/-! ## GET_LOG (R329, R584) -/

/-- A record as Table 22-2 lays it out. -/
def LogRecord.bytes (r : LogRecord) : List Byte :=
  leBytes 4 r.seq ++ leBytes 2 r.cause ++ leBytes 1 r.cls ++ leBytes 1 (2 * bit r.keepsake + bit r.berth.isSome) ++ leBytes 8 r.time
    ++ leBytes 4 r.epoch ++ leBytes 1 r.unit ++ leBytes 1 (r.berth.getD 0) ++ leBytes 2 r.incarnation ++ leBytes 1 r.queue ++ leBytes 1 r.fn
    ++ zeros 2 ++ leBytes 4 r.tag ++ leBytes 8 r.address ++ leBytes 16 r.detail ++ zeros 8

/-- The device address of a physical address: a sector of a striped socket has its address in the stripe view (R276). -/
def State.unstripe (s : State) (p : Nat) : Nat :=
  match physSocket p with
  | none => p
  | some n =>
    let m := s.stripeMembers
    match m.findIdx? (· == n) with
    | some i => let o := p - socketBase n; stripeBase + (o / 4096 * m.length + i) * 4096 + o % 4096
    | none => p

/-- An address of a record lies in a berth. -/
def State.addressInBerth (s : State) (b p : Nat) : Bool :=
  let a := s.unstripe p
  let k := s.berthStack 0 b
  let r := s.berthReach 0 b
  within a 1 k.1 k.2 || within a 1 r.1 r.2 || s.berthPad b a 1

/-- Does a record of the memories carry an address? The records of a bucket or an interface do not (Table 12-6). -/
def LogRecord.hasAddress (r : LogRecord) : Bool := decide (0x0305 ≤ r.cause)

/-- Does GET_LOG return a record to a function? A VF gets the memory records whose address lies in its berth, and those of repairs and
damage of what its requests used (R329). -/
def State.logShows (s : State) (fn b : Nat) (r : LogRecord) : Bool :=
  fn == 0
    || (if r.cause / 0x100 = 3 then (r.hasAddress && s.addressInBerth b r.address) || r.users.testBit b else r.berth == some b)

def State.getLog (s : State) (c : Cmd) : State :=
  match theRefusal [s.logPlaceFails c] with
  | some r => s.refuse c r.status r.detail
  | none =>
    let rs := (s.log.records.filter fun r =>
      decide (c.param 32 4 ≤ r.seq) && (c.param 40 1).testBit r.cls && s.logShows c.fn c.berth r).take (c.param 36 4)
    match rs.getLast? with
    | none => s.finish c.ref { result1 := s.log.next.toNat }
    | some last =>
      let w := s.writePlace (placeOf (c.param 48 8)) 0 (rs.flatMap LogRecord.bytes)
      match w.2 with
      | some st => w.1.finish c.ref { status := st }
      | none => w.1.finish c.ref { result0 := rs.length, result1 := last.seq + 1 }

def execGetLog (c : CmdRef) (hv : HostView) (s : State) : Host.Outcome State Fault Refusal :=
  runs (fun s => (s.sees hv).start 0x0004 c fun k s => s.getLog k) s

/-! ## The region (R589, R590) -/

/-- An entry as it lies in the region. -/
def BookEntry.bytes (e : BookEntry) : List Byte :=
  let b := leBytes 1 e.kind ++ zeros 1 ++ leBytes 2 e.source ++ leBytes 4 e.body.length ++ leBytes 8 e.index ++ leBytes 4 e.epoch ++ zeros 4
    ++ leBytes 8 e.fingerprint ++ e.body
  b ++ zeros (entrySize e.body.length - b.length)

/-- Where an entry of a size goes that follows what ends at `place`: an entry is not split at the end of the region. -/
def bookPlace (region place size : Nat) : Nat := if place + size ≤ region then place else 0

/-- Writes one entry to the region. Without WRAP recording stops where the region is full; with it the oldest entries go. -/
def State.writeEntry (s : State) (e : BookEntry) : State :=
  let r := s.bookRegion
  let n := entrySize e.body.length
  let b := s.logbook
  if b.state == .full then s
  else if r.2 < n || (r.2 < b.place + n && !s.bookWrap) then { s with logbook := { b with state := .full } }
  else
    let at' := bookPlace r.2 b.place n
    let past := fun (k : Nat × BookEntry) => decide (at' < b.place) && decide (b.place ≤ k.1)
    let gone := fun (k : Nat × BookEntry) => past k || overlaps k.1 (entrySize k.2.body.length) at' n
    let t := s.writeMem (r.1 + at') e.bytes
    { t with logbook := { b with
      held := (b.held.filter fun k => !gone k) ++ [(at', e)], wrapped := b.wrapped || b.held.any gone, place := at' + n } }

/-- The waiting entries reach the region in order. -/
def State.flushBook (s : State) : State :=
  s.logbook.buffer.foldl (fun (t : State) k => t.writeEntry k.2) { s with logbook := { s.logbook with buffer := [] } }

def execLogbookBufferFlush (now : Nat) (s : State) : Host.Outcome State Fault Refusal :=
  runs (fun s => let s := s.at now; if s.operating then s.flushBook else s) s

/-! ## LOGBOOK_CTRL (R591) -/

/-- START: the region is empty, and recording begins. -/
def State.bookStart (s : State) : State :=
  { s with logbook := { Logbook.reset with state := .recording } }

/-- A service is open. -/
def State.anyServiceOpen (s : State) : Bool := !s.serving.isEmpty || !s.trains.isEmpty || !s.scores.isEmpty

/-- The bytes of one register of an LK row, lowest first. -/
def State.lkBytes (s : State) (r : RegRow) (i : Nat) : List Byte :=
  let a := r.base + r.stride * i
  if r.wide then leBytes 8 (s.reg64 a) else leBytes 4 (s.regNat a)

/-- Every LK register value in ascending setting order. -/
def State.allSettings (s : State) : List Byte :=
  let rs := (regTable.filter fun r => r.access == .lk).flatMap fun r => (List.range r.count).map fun i => (r.base + r.stride * i, s.lkBytes r i)
  (rs.mergeSort fun a b => decide (a.1 ≤ b.1)).flatMap fun r => r.2

/-- The items of a MARK, 16 bytes each: the ranges' fingerprints, the settings', the sets and adapters, the lane generations, LAST_SEQ of
every group (notes/assumptions/23.md). -/
def State.markItems (s : State) (ranges : List (Nat × Nat)) : List (List Byte) :=
  let one := fun (kind n version fp : Nat) => leBytes 2 n ++ leBytes 2 kind ++ leBytes 4 version ++ leBytes 8 fp
  ranges.map (fun r => leBytes 8 (crc64 (s.bytesAt r.1 r.2)) ++ zeros 8)
    ++ [leBytes 8 (crc64 s.allSettings) ++ zeros 8]
    ++ (s.sets.filter fun k => k.2.state == 2).map (fun k => one 0 k.1 k.2.version k.2.fingerprint.toNat)
    ++ (s.adapters.filter fun k => k.2.state == 2).map (fun k => one 1 k.1 k.2.version k.2.fingerprint.toNat)
    ++ [(List.range 4).flatMap (fun l => leBytes 2 (s.laneGen l)) ++ zeros 8]
    ++ (s.groups.filter fun g => g.2.lastSeq != 0).map fun g => one 2 g.1 g.2.lastSeq 0

/-- The ranges that a MARK lists. -/
def markRanges (table : List Byte) (n : Nat) : List (Nat × Nat) :=
  (List.range n).map fun i => (fieldAt table (16 * i) 8, fieldAt table (16 * i + 8) 8)

/-- The first listed range that may not be read, or cannot be. -/
def State.markFails (s : State) (c : Cmd) (rs : List (Nat × Nat)) : Option Nat :=
  rs.findSome? fun r =>
    match s.rangeOf c r.1 r.2 false { reach := true } with
    | some st => some st
    | none => s.readStatus r.1 r.2

/-- Region offset of the entry that would follow the waiting ones. -/
def State.nextOffset (s : State) (body : Nat) : Nat :=
  let r := s.bookRegion.2
  let after := s.logbook.buffer.foldl (fun (p : Nat) k => let n := entrySize k.2.body.length; bookPlace r p n + n) s.logbook.place
  bookPlace r after (entrySize body)

/-- MARK, once the commands before it are complete. Where nothing is recorded there is no entry, and what the reply says of it is free. -/
def State.bookMark (s : State) (c : Cmd) : State :=
  let n := c.param 36 4
  let table := s.bytesAt (c.param 40 8) (16 * n)
  let rs := markRanges table n
  match (if n = 0 then none else s.readStatus (c.param 40 8) (16 * n)), s.markFails c rs with
  | some st, _ => s.finish c.ref { status := st }
  | none, some st => s.finish c.ref { status := st }
  | none, none =>
    if !s.recording then
      let d := s.draw
      d.2.finish c.ref { result0 := Config.freeWord d.1 0 % 2 ^ 64, result1 := Config.freeWord d.1 1 % 2 ^ 32 }
    else
      let body := leBytes 4 n ++ zeros 12 ++ table ++ (s.markItems rs).flatten
      (s.record 0 1 0 body).finish c.ref { result0 := s.logbook.next, result1 := s.nextOffset body.length / 64 }

def State.logbookCtrl (s : State) (c : Cmd) : State :=
  let op := c.param 32 1
  let n := c.param 36 4
  if op = 0 then s.bookStart.finish c.ref {}
  else if op = 1 then
    (if s.recording then s else { s with logbook := { s.logbook with state := .stopped } }).finish c.ref {}
  else
    match (if n = 0 then none else theRefusal [refuseRange (s.rangeOf c (c.param 40 8) (16 * n) false) 40]) with
    | some r => s.refuse c r.status r.detail
    | none =>
      if s.anyServiceOpen then s.finish c.ref { status := stResourceInUse }
      else if (s.earlier c.ref).isEmpty && !s.bookHolds 0 (4096 + 32 * n) then s.bookMark c
      else s.running c.ref

def execLogbookCtrl (c : CmdRef) (hv : HostView) (s : State) : Host.Outcome State Fault Refusal :=
  runs (fun s => (s.sees hv).startOrGoOn 0xA001 c fun k s => s.logbookCtrl k) s

end Sys2Proof.Machine
end

