-- ==== Sys2Proof/Machine/Access.lean ====
section
/-! DEFINITION. Register reads and writes through BAR0 (R8-R10, R49-R55, R72, R73, R131, R132): what each register shows, and what a
write does by its access code. Registers that are views of structured state are computed here at the read. -/

namespace Sys2Proof.Machine

open Sys2Proof

/-! ## What the registers of each chapter show. `i` is the index in the array of the row. -/

/-- Bit b at place n. -/
def at1 (n : Nat) (b : Bool) : Nat := bit b * 2 ^ n

/-- A number in the bits from n up. -/
def atN (n width v : Nat) : Nat := v % 2 ^ width * 2 ^ n

/-- PV_STATUS and VE_STATUS: the unit's state and the queue of its command, with the codes of PAUSED, FENCED and GATED. -/
def State.computeStatus (s : State) (u paused fenced gated : Nat) : Nat :=
  let c := s.cmdOn u
  let st := if s.power.gated.testBit (unitDie u) then gated else if s.isFenced u then fenced
    else if c.isSome && (s.gov.pausedPower || s.gov.pausedThermal) then paused else 0
  atN 29 3 st + atN 8 8 (match c with | some c => c.queue | none => 0xFF)

/-- BANK_STATUS of a die. -/
def State.bankStatus (s : State) (d : Nat) : Nat :=
  let fenced := (List.range 15).foldl (fun m b =>
    m + at1 b (match bankOwner d b with | some u => s.isFenced u | none => false)) 0
  let clearing := (List.range 15).any fun b => match bankOwner d b with | some u => s.clears.contains u | none => false
  at1 31 clearing + at1 30 (s.power.gated.testBit d) + fenced

/-- GOV_STATUS. -/
def State.govStatus (s : State) : Nat :=
  let p := s.permittedPace
  at1 5 (s.gov.pausedPower || s.gov.pausedThermal) + at1 4 (decide (s.gov.setpoint ≤ 620)) + at1 3 (s.gov.thermalCeiling == some p)
    + at1 2 (s.capPace == p && decide (s.gov.setpoint < s.setpointTop)) + at1 1 (s.gov.applied.isSome && p == s.gov.planCeiling) + at1 0 (!s.gov.planning.isEmpty)

/-- REGION_SUPPLY: the setpoint with the region's offset. -/
def State.regionSupply (s : State) (r : Nat) : Nat :=
  let set := if s.power.state = .idle && r < 12 then 620 else s.gov.setpoint
  let off := s.power.state == .off || s.power.state == .standby || (decide (r < 12) && s.power.gated.testBit (r / 3))
  match s.gov.applied with
  | some k => atN 16 16 (if off then 0 else supplyAt set (s.offsetNow r)) + atN 0 8 (k.offsets.getD r 40)
  | none => 0

/-- A hallmark shows its fused baseline before any reading. -/
def State.hallmarkView (s : State) (i : Nat) : Nat :=
  if s.hallmark i = 0 then (Config.hallmarkBaseline i).toNat * 2 ^ 16 else s.hallmark i

/-- SEC_STATUS. -/
def State.secStatus (s : State) : Nat :=
  atN 28 4 s.lcState + atN 27 1 s.sec.bootHub + atN 26 1 s.sec.bootSlot + at1 25 s.sec.locket.owner.isSome + at1 24 s.tamperPending
    + atN 22 2 s.sec.debug + atN 19 3 s.sec.unsealCode + at1 18 s.sec.lockout.isSome + atN 0 6 (48 - s.sec.fuseLog.length)

/-- FW_STATUS. -/
def State.fwStatus (s : State) : Nat :=
  let slot := if s.sec.bootSlot = 0 then s.sec.slotA else s.sec.slotB
  let u := match s.mgmt.update with | some u => if u.phase < 3 then 1 else if u.phase = 3 then 2 else 4 | none => 0
  atN 24 8 slot.svn + atN 16 8 s.sec.fusedSvn + atN 1 3 u + at1 0 s.sec.fallback

/-- POWER_STATUS. -/
def State.powerStatus (s : State) : Nat :=
  atN 30 2 s.power.state.code + at1 29 s.power.waking + at1 28 s.power.quiesced + atN 8 8 s.power.quiescedBerths + atN 0 4 s.power.gated

/-- CHAMBER_STATUS. -/
def State.chamberStatus (s : State) : Nat :=
  let st := match s.chamber.state with | .empty => 0 | .opened => 1 | .checked => 2 | .committing => 3
  atN 30 2 st + atN 0 13 s.chamber.entries.length

/-- STACK_STATUS: a stack outside the variant is ABSENT; a fitted one is FAILED, TRAINING again, or IN_SERVICE once the device operates. -/
def State.stackStatus (s : State) (c : Nat) : Nat :=
  if !sitePopulated s.spine.variant (blkStack c) then 0
  else if s.mem.failed.contains c then atN 30 2 3
  else if s.retraining.contains c then atN 30 2 1
  else if s.operating then atN 30 2 2
  else 0

/-- BASIN_STATUS of a hub. The lines of the staging area leave it as their operation ends and a drain is done in one step, so STAGING and
DRAINING read 0 (notes/assumptions/38.md). -/
def State.basinStatus (s : State) (h : Nat) : Nat :=
  let held := (s.mem.basin.sluice.filter fun e => homeHub s.spine.variant e.line == h).length
  let lines := match s.spine.variant with | .l => (if s.mem.basin.inexact then Config.freeWord s.draws (blkBasin h + 0x20) else held) | .s => 0
  at1 31 (s.segChanges.any fun c => c.hub == h) + atN 0 16 lines

/-- Identity, capability words, HELLO and doorbell pages (chapters 3 and 4). -/
def State.hostView (s : State) (fn : Nat) (name : String) (i : Nat) : Option Nat :=
  match name with
  | "IDENTITY" => some (0x100 + at1 4 (fn != 0) + (match s.spine.variant with | .l => 1 | .s => 2))
  | "SERIAL" => some s.spine.serial.toNat
  | "HELLO_CTRL" => some (s.regNat (helloBase fn + 0x200))
  | "HELLO_REQUEST" => some (s.regNat (helloBase fn + 0x240 + 4 * i))
  | "HELLO_REPLY" => some (s.regNat (helloBase fn + 0x280 + 4 * i))
  | "SQ_TAIL" => (lookup i s.queues).map fun q => q.tail
  | "CQ_HEAD" => (lookup i s.queues).map fun q => q.cqHead
  | "QUEUE_STATE" => (lookup i s.queues).map fun q =>
      atN 30 2 (match q.status with | .active => 1 | .fenced => 2 | .resetting => 3) + atN 16 11 (s.inflightOf i) + atN 0 16 q.head
  | "QUEUE_CTRL" => some 0
  | _ => none

/-- The device control block, and the power and hallmarks block. -/
def State.deviceView (s : State) (name : String) (i : Nat) : Option Nat :=
  match name with
  | "LOCAL_TIME" => some s.now
  | "FIBRE_PRESENT" => some (s.panel.fibres % 2 ^ 24)
  | "LOCATE_CTRL" => some (bit s.panel.locate)
  | "REACH_SOCKET" => some ((s.socket i).touches.toNat * 256 + (s.socket i).state.code)
  | "ENLON_INC" => some s.enlonInc
  | "BERTH_STATUS" =>
    let o := lookup i s.occupants
    let open' := (s.serving.filter fun k => k.2.opened && k.2.berth == i).length
      + (s.trains.filter fun k => k.2.opened && k.2.cmd.berth == i).length + (s.scores.filter fun k => k.2.opened && k.1 == i).length
    let turning := s.turns.any fun t => decide (2 ≤ t.2.phase) && t.2.cmd.berth == i
    some (atN 30 2 ((o.map Prod.fst).getD 0) + atN 27 3 ((o.map Prod.snd).getD 0) + at1 26 turning + atN 16 5 open')
  | "ACC_VIEW" => some (if s.sec.debug = 0 then 0 else s.regNat (blkDevice + 0xA00))
  | "PACE_NOW" => some (atN 16 16 (if s.gov.applied.isSome then s.permittedPace else 0) + s.regNat blkPower % 2 ^ 16)
  | "GOV_STATUS" => some s.govStatus
  | "PLAN_STATUS" => some (match s.gov.applied with | some k => atN 24 8 k.headroom + atN 16 5 k.flags + atN 0 16 k.plan | none => 0)
  | "OPERATING_HOURS" => some s.keepsake.hours
  | "REGION_SUPPLY" => some (s.regionSupply i)
  | "POWER_STATUS" => some s.powerStatus
  | "RESET_CTRL" => some 0
  | "HALLMARK" => some (s.hallmarkView i)
  | "UNIT_INC" => some (if (knownUnits s.spine.variant).contains i then s.unitInc i else 0)
  | "FUNC_INC" => some (s.funcInc i)
  | _ => none

/-- Lockage, security, log, basin, banks, units and links. -/
def State.blockView (s : State) (name : String) (i : Nat) : Option Nat :=
  match name with
  | "LOCK_EPOCH" => some s.spine.epoch.toNat
  | "CHAMBER_STATUS" => some s.chamberStatus
  | "CHECKED_EPOCH" => some (if s.chamber.state = .checked then s.chamber.checkedEpoch else 0)
  | "LAST_CHECK" => some (atN 16 16 s.chamber.lastStatus + atN 0 16 s.chamber.lastEntry)
  | "KEEPSAKE_STATUS" =>
    some (atN 16 16 s.keepsake.writeCount + s.regNat (blkLockage + 0x18) / 256 % 256 * 256 + atN 0 8 s.keepsake.settings.length)
  | "SEC_STATUS" => some s.secStatus
  | "FW_STATUS" => some s.fwStatus
  | "AUTH_NONCE" => some (Config.random s.sec.nonceDraw).toNat
  | "DEBUG_EXPIRY" => some s.sec.debugExpiry
  | "LOCKET_STATUS" => some (atN 24 3 s.sec.wipeCause + s.keepsake.wipes.toNat)
  | "LOG_NEXT" => some s.log.next.toNat
  | "LOG_COUNTS" => some (atN 16 16 s.log.dropped + atN 0 13 s.log.records.length)
  | "LOGBOOK_STATUS" =>
    let st := match s.logbook.state with | .stopped => 0 | .recording => 1 | .full => 2 | .replaying => 3
    some (atN 30 2 st + at1 29 s.logbook.gap + at1 28 s.logbook.wrapped)
  | "LOGBOOK_NEXT" => some s.logbook.next
  | "LOGBOOK_OLDEST" => some (match s.logbook.held with | k :: _ => k.2.index | [] => (match s.logbook.buffer with | k :: _ => k.2.index | [] => 0))
  | "BASIN_STATUS" => some (s.basinStatus i)
  | "STACK_STATUS" => some (s.stackStatus i)
  | "BANK_STATUS" => some (s.bankStatus i)
  | "PV_STATUS" => some (s.computeStatus (0x01 + i) 3 4 5)
  | "VE_STATUS" => some (s.computeStatus (0x10 + i) 2 3 4)
  | "ACC_HOLD" => if s.sec.debug = 0 then some 0 else none
  | "PORT_STATUS" => some (s.portStatus i)
  | "PORT_CTRL" => some 0
  | _ => none

/-- SET_INFO. -/
def WeightSet.info (k : WeightSet) : Nat :=
  atN 29 3 k.state + atN 26 3 k.source + atN 16 8 k.access + (if k.source = 4 then atN 9 3 k.link else if k.source = 1 then atN 6 3 k.link else 0)
    + (if k.source = 1 then atN 0 6 k.peerSet else 0)

/-- The keeper complex: repairs, sets and adapters, collectives, lanes and contexts. -/
def State.keeperView (s : State) (name : String) (i : Nat) : Option Nat :=
  let set := fun (f : WeightSet → Nat) => some (match lookup i s.sets with | some k => f k | none => 0)
  match name with
  | "REPAIR_STATUS" => some (atN 0 16 s.repairs.length)
  | "DAMAGED_SETS" => some (s.sets.foldl (fun m k => m + at1 k.1 (k.2.state == 3)) 0)
  | "SET_INFO" => set WeightSet.info
  | "SET_VERSION" => set fun k => k.version
  | "SET_BASE" => set fun k => k.base
  | "SET_BYTES" => set fun k => k.bytes
  | "SET_SOURCE" => set fun k => k.sourceAddr
  | "SET_PINS" => some (atN 0 20 (s.setPins i))
  | "ADAPTER_COUNT" =>
    some (atN 11 11 (s.adapters.filter fun k => k.2.state == 3 || k.2.state == 4).length + atN 0 11 (s.adapters.filter fun k => k.2.state == 2).length)
  | "ADAPTER_VIEW" => some (s.adapterView.getD i 0).toNat
  | "COLL_CTRL" => some 0
  | "COLL_GROUP_STATE" =>
    let g := s.group i
    let running := (s.colls.filter fun k => k.ended.isNone && k.cmd.group == i).length
    some (g.lastSeq * 2 ^ 32 + atN 29 3 running + atN 26 3 g.retained.length)
  | "VOTE_STATE" =>
    let g := s.group i
    some (match g.latest with
      | some (step, round, kind, result, zeros, lowest) =>
        step * 2 ^ 32 + atN 24 8 round + atN 23 1 kind + at1 22 (g.decided == some step) + at1 21 result + atN 14 7 zeros + atN 8 6 lowest
      | none => 0)
  | "LANE_GEN" => some (s.laneWord i)
  | "LANE_STEP" =>
    some (match s.laneContexts s.spine.epoch.toNat i with
      | c :: _ => (s.slotHeader s.spine.epoch.toNat c (s.liveSlotOf i)).step
      | [] => 0)
  | "UPD_STATUS" =>
    let busy := s.exports.any (fun k => k.ctx == i + 1) || (s.updaterOf (i + 1)).isSome
    some (putBit (s.regNat (ctxStatus (i + 1))) 28 busy)
  | "HIST_CTRL" => some 0
  | _ => none

/-- TRAIN_STATE.STATE. -/
def Train.stateCode (k : Train) : Nat :=
  if !k.opened then 0 else if k.stopped.isSome then 5
  else match k.phase with
    | .idle => 1
    | .pass => 1
    | .reducing => 4
    | _ => 3

/-- Services, turns, budgets and the manifest. -/
def State.serviceView (s : State) (name : String) (i : Nat) : Option Nat :=
  let sv := fun (f : Serving → Nat) => some (match lookup i s.serving with | some k => if k.opened then f k else 0 | none => 0)
  match name with
  | "TRAIN_STATE" => some (match lookup i s.trains with
      | some k => if k.opened then
            atN 29 3 k.stateCode + atN 26 3 k.cmd.berth + atN 24 2 k.pass + atN 21 3 k.attempt + atN 14 7 (s.stages k.cmd) + atN 7 7 (s.stage k.cmd)
          else 0
      | none => 0)
  | "TURN_STATE" => some (match lookup i s.turns with
      | some t => atN 29 3 t.phase + atN 28 1 (t.cmd.param 32 1) + atN 27 1 (t.cmd.param 35 1)
      | none => 0)
  | "SCHED" =>
    let quiet := fun (b : Nat) => s.power.quiesced || s.power.quiescedBerths.testBit b
    let v := if i < 8 then (lookup i s.serving).map fun (k : Serving) => (k.parked || (quiet k.berth && k.step.isNone), k.share)
      else (lookup (i - 8) s.trains).map fun (k : Train) => (k.parked || (quiet k.cmd.berth && k.phase == .idle), k.share)
    some (match v with | some (p, n) => at1 31 p + atN 0 8 n | none => 1)
  | "SERVE_STATE" => sv fun k =>
      let repair := s.repairs.any fun r => !r.adapter && (r.slot == k.set || k.draftSet == some r.slot)
      atN 30 2 (if k.closing.isSome then 2 else 1) + at1 29 (k.mixed || k.alwaysMixed) + at1 28 repair + atN 25 3 k.berth + atN 0 15 (s.entriesOf i).length
  | "KV_FREE" => sv fun k => k.kvPages - k.usedPages.length
  | "HELD" => sv fun k => k.held.length + (k.runs.map fun r => r.prompts * r.samples - r.next).sum
  | "MANIFEST_VIEW" => some (s.manifestView.getD i 0).toNat
  | _ => none

/-- Counters of waiting times, of engine beats and of the links' error correction: what they count rests on the timing that the model
leaves out, so a read of one is a free value once local time has run (notes/assumptions/29.md). -/
def uncounted : List String :=
  ["STREAM_STALL", "FOREGROUND_BEATS", "STREAM_BEATS", "FEC_CORRECTED", "FEC_UNCORRECTABLE", "STAGE_STALL"]

/-- The counters of the basin, the controllers and the weirs (R281-R308). -/
def traffic : List String :=
  ["BASIN_HITS", "BASIN_MISSES", "WRITEBACKS", "SLUICE_FULL", "SLUICE_PARTIAL", "READ_BYTES", "WRITE_BYTES", "MERGED_SECTORS", "NARROW",
   "WEIR_THROTTLED", "WEIR_BYTES"]

/-- A read of the register is a free value: a counter of the timing, or one of traffic after an access that the spec does not count
out. -/
def State.isFree (s : State) (r : RegRow) : Bool :=
  (uncounted.contains r.name && s.now != 0) || (traffic.contains r.name && s.mem.basin.inexact)

/-- What register i of a row shows to a function: 32 or 64 bits. -/
def State.rowValue (s : State) (fn : Nat) (r : RegRow) (i : Nat) : Nat :=
  let a := r.base + r.stride * i
  if s.isFree r then Config.freeWord s.draws a % (if r.wide then 2 ^ 64 else 2 ^ 32)
  else if traffic.contains r.name || r.name = "ATOMICS" then (lookup a s.mem.basin.counts).getD 0
  else ((s.hostView fn r.name i).or ((s.deviceView r.name i).or ((s.blockView r.name i).or ((s.keeperView r.name i).or
    (s.serviceView r.name i))))).getD (if r.wide then s.reg64 a else s.regNat a)

/-! ## Which function sees what -/

/-- A VF sees the identity registers, the capability words, its HELLO mailbox and its live doorbell pages (R73); PF0 all but the pages of
other functions and, on the 1S, the blocks of the unpopulated sites (R16). -/
def State.visible (s : State) (fn a : Nat) : Bool :=
  if inDoorbells a then (s.pageLive fn ((a - 0x10000) / 0x1000)).isSome
  else if fn ≠ 0 then decide (a < 0x1000)
  else sitePopulated s.spine.variant a

/-- The register word a function meets at an address; none where the offset is reserved for it. -/
def State.wordFor (s : State) (fn a : Nat) : Option RegWord := if s.visible fn a then regWord a else none

/-- Is an address an occurrence counter (R54)? -/
def counterAddress (a : Nat) : Bool :=
  if inDoorbells a then decide (0x800 ≤ a % 0x1000) && decide (a % 0x1000 < 0x820)
  else decide (0x02000000 ≤ a) && decide (a < 0x03000000) && decide (0x8000 ≤ a % 0x10000)

/-- Does the address belong to the staging window of PF0 (R131)? -/
def inStaging (a : Nat) : Bool := decide (0x100000 ≤ a) && decide (a < 0x110000)

/-- The 32-bit word a read returns that captures nothing. -/
def State.wordValue (s : State) (fn a : Nat) : Nat :=
  if fn = 0 && inStaging a then s.chamber.word ((a - 0x100000) / 4)
  else
    match s.wordFor fn a with
    | some w =>
      let v := s.rowValue fn w.row w.index &&& w.row.defined w.index
      let v := if w.row.access == .wo && w.row.name != "HELLO_CTRL" then 0 else if w.row.name = "HELLO_CTRL" then s.rowValue fn w.row 0 else v
      if w.high then v / 2 ^ 32 else v % 2 ^ 32
    | none => if counterAddress a && s.visible fn a then s.regNat a else 0

/-! ## Reads -/

/-- The key of a holding copy: the register's low word, as a function sees it. -/
def holdKey (fn a : Nat) : Nat := helloBase fn + a

/-- A 32-bit read. The low word of a 64-bit register captures the high word; the next read of the high word returns that copy (R8). The
first word of a view captures the view's record. -/
def State.read32 (s : State) (fn a : Nat) : State :=
  let plain := s.emit (.readData (s.wordValue fn a))
  match s.wordFor fn a with
  | none => plain
  | some w =>
    if w.row.wide && !w.high then
      { plain with heldHigh := insert (holdKey fn a) (BitVec.ofNat 32 (s.wordValue fn (a + 4))) plain.heldHigh }
    else if w.high then
      match lookup (holdKey fn (a - 4)) s.heldHigh with
      | some v => ({ s with heldHigh := erase (holdKey fn (a - 4)) s.heldHigh }).emit (.readData v.toNat)
      | none => plain
    else if w.row.name = "ADAPTER_VIEW" && w.index = 0 then
      let r := s.adapterRecord (field (s.regNat (blkKeeper + 0x1A00)) 9 0)
      ({ s with adapterView := r }).emit (.readData (r.headD 0).toNat)
    else if w.row.name = "MANIFEST_VIEW" && w.index = 0 then
      let bs := s.entryBytes (field (s.regNat (blkManifest + 0x50)) 13 0)
      let ws := (List.range 32).map fun i => BitVec.ofNat 32 (fieldAt bs (4 * i) 4)
      ({ s with manifestView := ws }).emit (.readData (fieldAt bs 0 4))
    else plain

/-- WIDE_LOW_WORD_READ: a read of an aligned word. The row names the low word of a 64-bit register; the other words, which the table
gives no row of their own, are read by it too (notes/assumptions/28.md). -/
def execWideLowWordRead (fn addr : Nat) (s : State) : Host.Outcome State Fault Refusal :=
  runsHost (fun s =>
    if addr % 4 ≠ 0 then s
    else
      match s.wordFor fn addr with
      | some w => if s.isFree w.row && !w.high then s.draw.2.read32 fn addr else s.read32 fn addr
      | none => s.read32 fn addr) s

/-- CHAMBER_STATUS_READ: every earlier window write has reached the arbiter; one command after another, they all have. -/
def execChamberStatusRead (fn : Nat) (s : State) : Host.Outcome State Fault Refusal :=
  runsHost (fun s => s.read32 fn (blkLockage + 4)) s

/-! ## Writes -/

/-- Registers whose writes are rows of their own. -/
def ownRow (name : String) : Bool :=
  ["SQ_TAIL", "CQ_HEAD", "QUEUE_CTRL", "HELLO_CTRL", "ASSAY_CTRL", "HIST_CTRL", "LOCATE_CTRL", "COLL_CTRL", "PORT_CTRL", "RESET_CTRL"].contains name

/-- The address a word is stored under: each function has its own mailbox. -/
def storeAddress (fn : Nat) (w : RegWord) (a : Nat) : Nat := if w.row.name = "HELLO_REQUEST" then helloBase fn + a else a

/-- A write of a register without behaviour of its own, by its access code (Table 0-4). The low word of a 64-bit register is held (R8). -/
def State.write32 (s : State) (fn a : Nat) (v : Word) : State :=
  match s.wordFor fn a with
  | none => if counterAddress a && s.visible fn a then s else s.logDiscard fn a
  | some w =>
    if w.row.wide && !w.high then { s with heldLow := insert (holdKey fn a) v s.heldLow }
    else
      let masked := v &&& BitVec.ofNat 32 w.mask
      match w.row.access with
      | .ro => s
      | .hs => s
      | .lk => s.logDiscard fn a
      | .wo => s
      | .w1c => s
      | .rw =>
        if w.row.name = "UNIT_VECTOR" && decide (1 ≤ masked.toNat) && decide (masked.toNat ≤ 63) then s.logDiscard fn a
        else s.setReg (storeAddress fn w a) masked
      | .dbg =>
        if s.sec.debug = 0 then s
        else if w.row.name = "ACC_VIEW" && decide (16 < field masked.toNat 4 0) then s.logDiscard fn a
        else s.setReg a masked

/-- REGISTER_WRITE. Writes that are other rows' are none of its. -/
def execRegisterWrite (fn addr : Nat) (v : Word) (s : State) : Host.Outcome State Fault Refusal :=
  runsHost (fun s =>
    if addr % 4 ≠ 0 || (fn = 0 && inStaging addr) then s
    else
      match s.wordFor fn addr with
      | some w => if ownRow w.row.name || w.high || w.row.access == .w1c then s else s.write32 fn addr v
      | none => s.write32 fn addr v) s

/-- A write of the high word of a 64-bit register: the held low word takes effect with it (R8). The 64-bit registers that a write
reaches are the DBG ones, in debug mode; the others are RO, HS or LK, so both words are discarded, and a direct write of an LK register is
logged. -/
def State.writeHigh (s : State) (fn a : Nat) (w : RegWord) (v : Word) : State :=
  let t := ({ s with heldLow := erase (holdKey fn (a - 4)) s.heldLow }).write32 fn a v
  match lookup (holdKey fn (a - 4)) s.heldLow with
  | some low =>
    if w.row.access == .dbg && s.sec.debug != 0 then t.setReg (a - 4) (low &&& BitVec.ofNat 32 (w.row.defined w.index)) else t
  | none => t

/-- WIDE_HIGH_WORD_WRITE: the held low word takes effect with it. -/
def execWideHighWordWrite (fn addr : Nat) (v : Word) (s : State) : Host.Outcome State Fault Refusal :=
  runsHost (fun s =>
    match s.wordFor fn addr with
    | some w => if w.high then s.writeHigh fn addr w v else s
    | none => s) s

/-- W1C_CLEAR (R53, R55). On a page or block that the function does not have, the write is to a reserved offset. -/
def execW1cClear (fn addr : Nat) (v : Word) (s : State) : Host.Outcome State Fault Refusal :=
  runsHost (fun s =>
    match regWord addr with
    | some w =>
      if w.row.access != .w1c then s
      else if s.visible fn addr then s.clearFlags addr (v.toNat &&& w.mask)
      else s.logDiscard fn addr
    | none => s) s

/-- STAGING_WINDOW_WRITE: a word of an entry, or a reserved offset of the window. -/
def execStagingWindowWrite (addr : Nat) (v : Word) (s : State) : Host.Outcome State Fault Refusal :=
  runsHost (fun s =>
    if addr % 4 ≠ 0 then s
    else if inStaging addr then s.stageWord 0 (addr - 0x100000) v
    else if 0x110000 ≤ addr && addr < 0x200000 then s.logDiscard 0 addr
    else s) s

/-- Is an access neither an aligned 32-bit nor an aligned 64-bit one (R9)? -/
def misaligned (a size : Nat) : Bool := !((size == 4 && a % 4 == 0) || (size == 8 && a % 8 == 0))

/-- UNALIGNED_BAR0_ACCESS: logged; a read returns zero, a write is discarded. -/
def execUnalignedBar0Access (fn addr size : Nat) (write : Bool) (s : State) : Host.Outcome State Fault Refusal :=
  runsHost (fun s =>
    if !misaligned addr size then s
    else
      let t := s.logEvent { cause := 0x0001, cls := 0, fn := fn, address := addr }
      if write then t else t.emit (.readData 0)) s

end Sys2Proof.Machine
end

