-- ==== Sys2Proof/Machine/Fetch.lean ====
section
/-! DEFINITION. PACKET_FETCH: the fetch of Machine/Queue.lean with every chapter's judgement of the parameters (Table 4-6, check 10). -/

namespace Sys2Proof.Machine

open Sys2Proof

def execPacketFetch (q now : Nat) (hv : HostView) (s : State) : Host.Outcome State Fault Refusal :=
  runsHost (fun s => ((s.at now).sees hv).fetch deepChecks q) s

end Sys2Proof.Machine
end

