-- ==== Sys2Proof/Machine/Replay.lean ====
section
/-! DEFINITION. REPLAY (chapter 22, R592-R595): the window of the logbook is run again, entry by entry, in a state set apart for it:
its commands alone in flight, its ports sending nothing, its host memory a copy. Commands run as soon as they may, except those whose
outcome a DECISION places. How the entries are followed is said in notes/assumptions/25.md. -/

namespace Sys2Proof.Machine

open Sys2Proof

/-- The state that an outcome gives. -/
def nextOf (s : State) : Host.Outcome State Fault Refusal → State
  | .next t => t
  | _ => s

/-- A row of an opcode. -/
abbrev CmdRow := CmdRef → HostView → State → Host.Outcome State Fault Refusal

/-- The rows of the opcodes that a replay runs again; of these, each acts on a command of its own opcode alone. -/
def replayRows : List CmdRow :=
  [ execNop, execQueueCreate, execQueueDelete, execAbort, execGetLog, execServiceHold, execServiceResume, execReachRelease
  , execMarginPlan, execPowerState, execResetUnit, execQuiesce, execStage, execCheck, execCommit, execAbandon
  , execMatmul, execMatmulGrouped, execAttend, execVop, execSample, execUpdate, execMove, execInitFill, execNarrowGather
  , execNarrowScatter, execAtomic ] ++
  [ execGather, execReduceScatter, execPermute, execSend, execRecv, execVote, execServeOpen, execServeClose, execAdmitSequence, execRollout
  , execSeqCancel, execWeightsLoad, execWeightsDrop, execAdapterLoad, execAdapterDrop, execScore, execTrainStep, execTrainClose
  , execCheckpoint, execCheckpointImport, execTurn, execPreempt, execLifecycleSet, execDebugToken, execLocketWipe ]

/-- Commands whose place among the batch steps a DECISION or their COMPLETE gives. -/
def placedLater (op : Nat) : Bool := [0x6002, 0x6003, 0x6004].contains op

/-- A window being run again. -/
structure Rerun where
  s : State
  /-- Host memory and ports as the run found them. -/
  host : HostMem
  ports : List (Nat × Port)
  window : List BookEntry
  /-- INDEX of the COMMAND entry of each command run. -/
  started : List (CmdRef × Nat)
  /-- Output bytes of the commands that have finished. -/
  outs : List (CmdRef × List Byte)
  matched : Nat
  /-- DETAIL and RESULT0 of the verdict. -/
  verdict : Option (Nat × Nat)

/-- The host as a read of the window meets it: the recorded bytes where there are any (R593). -/
def Rerun.view (r : Rerun) (after before : Nat) (queue : Option Nat) : HostView :=
  let es := r.window.filter fun e => e.kind == 4 && decide (after < e.index) && decide (e.index < before) && (queue.isNone || queue == some e.source)
  let cells := es.foldr (fun e cs => putCells (fieldAt e.body 0 8) (e.body.drop 16) cs) []
  ⟨cells, if cells.isEmpty then r.host.fails else []⟩

/-- INDEX of the COMPLETE entry of a command: the first one after its COMMAND with its queue and TAG. -/
def Rerun.completeOf (r : Rerun) (c : CmdRef) (from' : Nat) : Nat :=
  match r.window.find? fun e => e.kind == 3 && decide (from' < e.index) && fieldAt e.body 0 4 == c.tag && fieldAt e.body 6 1 == c.queue with
  | some e => e.index
  | none => 2 ^ 64

/-- After each piece of work: outputs of what has finished are kept, host memory is as before, and nothing has been sent. -/
def Rerun.settle (r : Rerun) (t : State) : Rerun :=
  let fresh := t.inflight.filter fun c => c.stage == .done && !r.outs.any fun o => o.1 == c.ref
  let quiet : List (Nat × Port) := r.ports.map fun (k : Nat × Port) => (k.1, { k.2 with inbox := (t.port k.1).inbox })
  { r with
    outs := r.outs ++ fresh.map fun (c : Cmd) => (c.ref, outputBytes t c),
    s := { t with host := r.host, outbox := r.s.outbox, ports := quiet } }

/-- Runs a command that may start. -/
def Rerun.runCmd (r : Rerun) (c : CmdRef) : Rerun :=
  let at' := (r.started.find? fun x => x.1 == c).elim 0 fun x => x.2
  let hv := r.view at' (r.completeOf c at') (some c.queue)
  let t := replayRows.foldl (fun (t : State) f => nextOf t (f c hv t)) r.s
  let passed := match r.window.find? fun e => decide (e.index = r.completeOf c at') with | some e => fieldAt e.body 16 8 == 1 | none => false
  r.settle (nextOf t (execSelfTest c passed hv t))

/-- The events that follow of themselves from what the window has brought: of ports, score services, trainings, exports and turns. -/
def replayEvents (hv : HostView) (s : State) : List (State → Host.Outcome State Fault Refusal) :=
  let now := s.now
  (List.range 8).flatMap (fun p =>
    [execLinkNoticeRestarted p now, execPathBroken p now, execPeerSetRequest p now, execTurnPiece p now, execChainMessage p now
    , execGatherPiece p now, execVoteRecord p now, execPipelineMessage p now, execPermutePiece p now, execAbortNotice p now
    , execScoreStep p now hv])
  ++ s.trains.flatMap (fun (k : Nat × Train) =>
    [execTrainStepStart k.1 now hv, execStepFiniteResult k.1 now, execStepDecision k.1 [] now, execAttemptRetry k.1 now]
    ++ (List.range 8).flatMap fun p => [execPoundEntry k.1 p now, execPassEnd k.1 p now])
  ++ (s.colls.map fun (k : Coll) => k.cmd.param 54 2).eraseDups.flatMap (fun x => [execFinalBlockUpdate x now, execShadowHeaderWrite x now])
  ++ s.exports.map (fun (k : Export) => execCheckpointExportDone k.ctx now hv)
  ++ s.turns.flatMap fun (k : Nat × Turn) => [execSettleEnd k.1 now, execTransferEnd k.1 now]

/-- One pass of the work that can go on: the window's commands, then the events. -/
def Rerun.pass (r : Rerun) (index : Nat) : Rerun :=
  let r := r.s.inflight.foldl (fun (r : Rerun) c => if c.stage = .done || placedLater c.opcode then r else r.runCmd c.ref) r
  let hv := r.view index (2 ^ 64) none
  (replayEvents hv r.s).foldl (fun (r : Rerun) f => r.settle (nextOf r.s (f r.s))) (r.settle r.s.settleColls)

/-- Passes until one changes nothing, by fuel. -/
def Rerun.goOn (index : Nat) : Nat → Rerun → Rerun
  | 0, r => r
  | n + 1, r =>
    let t := r.pass index
    if t.s == r.s then r else t.goOn index n

def replayFuel : Nat := 1000000

/-! ## The entries -/

/-- COMMAND: accepted on the internal queue with its fences, and without a TIMEOUT. -/
def Rerun.command (r : Rerun) (e : BookEntry) : Rerun :=
  let s := r.s
  let q := (lookup e.source s.queues).getD (newQueue 0 (fieldAt e.body 14 1) 255 6 6 64 0 0)
  let j := s.join (fetched e.source q e.body s.now)
  let c := { j.accepted deepChecks { fetched e.source q e.body s.now with seq := s.fetches } with deadline := none }
  let st := if fenceHolds s.inflight c then Stage.held else Stage.ready
  let t := ({ s with fetches := s.fetches + 1, inflight := s.inflight ++ [{ c with stage := st }] }).noteAccepted c
  { r with s := t, started := (c.ref, e.index) :: r.started.filter (fun x => x.1 != c.ref), outs := r.outs.filter fun o => o.1 != c.ref }

/-- LOCKAGE: the commit that waits is granted, or the load, drop or turn that is ready to commit; otherwise the entries are. -/
def Rerun.lockage (r : Rerun) (e : BookEntry) : Rerun :=
  let s := r.s
  let hv := r.view e.index (2 ^ 64) none
  let peers := r.window.filter fun x => x.kind == 7 && fieldAt x.body 10 2 == 0x1001
  let peer : PeerData :=
    { status := (peers.findSome? fun x => let st := fieldAt x.body 16 4; if st = 0 then none else some st).getD 0, bytes := peers.flatMap fun x => x.body.drop 24 }
  let tries : List (State → Host.Outcome State Fault Refusal) :=
    [execCommitInstant s.now hv]
    ++ s.inflight.map (fun (c : Cmd) => execLoadActivation c.ref peer s.now hv)
    ++ s.sets.map (fun (k : Nat × WeightSet) => execSetReleaseCommit k.1 s.now)
    ++ s.adapters.map (fun (k : Nat × Adapter) => execAdapterReleaseCommit k.1 s.now)
    ++ s.turns.map fun (k : Nat × Turn) => execTurnFinalCommit k.1 s.now hv
  let done := tries.foldl (fun (t : State) f => if t.spine.epoch = s.spine.epoch then nextOf t (f t) else t) s
  let es := (List.range (e.body.length / 16)).map fun i => stagedOf i (e.body.drop (16 * i))
  r.settle (if done.spine.epoch = s.spine.epoch then s.commitEntries es true else done)

/-- INBOUND: the message is delivered on its port. -/
def Rerun.inbound (r : Rerun) (e : BookEntry) : Rerun :=
  let o : Inbound :=
    { vc := e.source % 16, route := r.s.ownRoute, bytes := e.body, poison := [], held := (0, 0), hold := false, forward := none, drop := false }
  { r with s := r.s.updPort (e.source / 16) fun k => { k with inbox := k.inbox ++ [o.message] } }

/-- DECISION: a step list lets the service's step end and the listed one begin; an admission runs the oldest command that admits; a cut
ends what it names. Releases and evictions belong to the step list that follows. -/
def Rerun.decision (r : Rerun) (e : BookEntry) : Rerun :=
  let n := fieldAt e.body 1 1
  let hv := r.view e.index (2 ^ 64) none
  let kind := fieldAt e.body 0 1
  if kind = 0 then
    let r := r.settle (nextOf r.s (execServeStepComplete n r.s.now hv r.s))
    r.settle (nextOf r.s (execStepBuild n r.s.now hv r.s))
  else if kind = 1 then
    match r.s.inflight.find? fun c => c.opcode == 0x6002 && c.stage == .ready && c.param 32 1 == n && c.param 88 8 == fieldAt e.body 8 8 with
    | some c => r.runCmd c.ref
    | none => r
  else if kind = 3 then
    r.settle (r.s.cutEntries n fun k => k.request == fieldAt e.body 8 8 && k.ending.isNone)
  else r

/-- Statuses of Table 22-6, verdict 4: ends that depend on time or on a fault. -/
def boundaryStatus (st : Nat) : Bool :=
  [stTimedOut, stAborted, stLinkDown, stCollDeadline, stTargetRestarted, stUncorrectable, stPoisoned, stUnitFault].contains st

/-- A queue that gives a reply the SQ_HEAD and PHASE of a recorded one: the internal queue has no ring of its own. -/
def likeRecorded (body : List Byte) : Queue :=
  { newQueue 0 0 255 6 6 64 0 0 with head := fieldAt body 4 2, phase := (fieldAt body 7 1).testBit 0 }

def Rerun.ends (r : Rerun) (detail result0 : Nat) : Rerun := { r with verdict := some (detail, result0) }

/-- COMPLETE of a command: compared with its re-run, which leaves flight. LOGBOOK_CTRL, and a REPLAY refused while recording went on,
are not run again: their COMPLETE stands. -/
def Rerun.completeCmd (r : Rerun) (e : BookEntry) (c : CmdRef) : Rerun :=
  let r : Rerun := match r.s.cmd c with | some d => if placedLater d.opcode && d.stage != Stage.done then r.runCmd c else r | none => r
  match r.s.cmd c with
  | none => r.ends 1 e.index
  | some d =>
    let own := d.opcode == 0xA001 || d.opcode == 0xA000
    let outs := ((r.outs.find? fun o => o.1 == c).map Prod.snd).getD []
    let same := d.stage == .done && outputPrint (r.s.reply d (likeRecorded e.body)) outs d.bodies == e.fingerprint
    if !own && !same then r.ends 1 e.index
    else { r with s := (((if own then r.s else r.s.addCounts d).dropCmd c).histSettle).releaseFences, matched := r.matched + 1 }

/-- COMPLETE of a service's report: compared with the oldest report of its queue and TAG. -/
def Rerun.completeReport (r : Rerun) (e : BookEntry) : Rerun :=
  let mine := fun (x : Report) => x.queue == fieldAt e.body 6 1 && x.tag == fieldAt e.body 0 4
  let hv := r.view e.index (2 ^ 64) none
  let r := if r.s.reports.any mine then r
    else r.s.serving.foldl (fun (r : Rerun) k => r.settle (nextOf r.s (execServeStepComplete k.1 r.s.now hv r.s))) r
  match r.s.reports.find? mine with
  | none => r.ends 1 e.index
  | some x =>
    let b := r.s.reportBytes x (likeRecorded e.body)
    if b.take 12 ++ b.drop 16 = e.body.take 12 ++ e.body.drop 16 then
      { r with s := { r.s with reports := r.s.reports.erase x }, matched := r.matched + 1 }
    else r.ends 1 e.index

/-- Is a report's opening command one of the window? -/
def Rerun.knowsTag (r : Rerun) (c : CmdRef) : Bool := r.started.any fun x => x.1 == c

/-- COMPLETE: one whose command the window does not hold is passed over. -/
def Rerun.complete (r : Rerun) (e : BookEntry) : Rerun :=
  let c : CmdRef := ⟨fieldAt e.body 6 1, fieldAt e.body 0 4⟩
  if !r.knowsTag c then r
  else if boundaryStatus (fieldAt e.body 8 2) then r.ends 4 e.index
  else if (r.s.cmd c).isSome then r.completeCmd e c
  else r.completeReport e

/-- HOST_DATA without bytes: host memory must still have the recorded fingerprint. -/
def Rerun.hostData (r : Rerun) (e : BookEntry) : Rerun :=
  let n := fieldAt e.body 8 8
  let t := { r.s with host := r.host }
  if e.body.length = 16 && n ≠ 0 && crc64 (t.hostRead (fieldAt e.body 0 8) n) != e.fingerprint then r.ends 3 e.index else r

/-- Re-enters one entry. What can go on before it goes on first. -/
def Rerun.entry (r : Rerun) (e : BookEntry) : Rerun :=
  if r.verdict.isSome then r
  else
    let r := r.goOn e.index replayFuel
    if e.kind = 2 then r.command e
    else if e.kind = 3 then r.complete e
    else if e.kind = 4 then r.hostData e
    else if e.kind = 5 then { r with s := r.s.writeMem (fieldAt e.body 0 8) (e.body.drop 8) }
    else if e.kind = 6 then r.lockage e
    else if e.kind = 7 then r.inbound e
    else if e.kind = 8 then r.decision e
    else r

/-! ## REPLAY -/

/-- The window: the entries from FIRST_INDEX to LAST_INDEX, or to the newest. -/
def State.replayWindow (s : State) (c : Cmd) : List BookEntry :=
  (s.logbook.held.map Prod.snd).filter fun e => decide (c.param 32 8 ≤ e.index) && decide (e.index ≤ c.param 48 8)

/-- INDEX of the last entry of the window. -/
def State.replayLast (s : State) (c : Cmd) : Nat := if c.param 48 8 = 2 ^ 64 - 1 then s.logbook.next - 1 else c.param 48 8

/-- The MARK that the window begins with. -/
def State.replayMark (s : State) (c : Cmd) : Option BookEntry :=
  match s.logbook.held.find? fun k => k.1 == 64 * c.param 40 4 with
  | some k => if k.2.kind = 1 && k.2.index = c.param 32 8 then some k.2 else none
  | none => none

/-- The refusals of R592. -/
def State.replayFails (s : State) (c : Cmd) : Option Refuse :=
  let first := c.param 32 8
  let last := s.replayLast c
  let w := s.replayWindow c
  theRefusal
    [ refuseIf (s.logbook.state == .recording || !s.power.quiesced || s.anyServiceOpen || s.chamber.state != .empty) stResourceInUse
    , refuseIf (s.replayMark c).isNone stOutOfRange 40
    , refuseIf (decide (last < first) || w.length != last + 1 - first || w.any (fun e => e.kind == 10)) stOutOfRange 48 ]

/-- The first item of a MARK that differs from the present state. -/
def State.markDiffers (s : State) (m : BookEntry) : Option Nat :=
  let n := fieldAt m.body 0 4
  let now := s.markItems (markRanges (m.body.drop 16) n)
  let was := (List.range ((m.body.length - 16 - 16 * n) / 16)).map fun i => (m.body.drop (16 + 16 * n + 16 * i)).take 16
  (List.range (max now.length was.length)).find? fun i => decide (now[i]? ≠ was[i]?)

/-- The state a window is run in: nothing else in flight, no quiesce, every port ready to send what is never sent. -/
def State.forReplay (s : State) : State :=
  let ports : List (Nat × Port) := (List.range 8).map fun p =>
    (p, { s.port p with state := 3, retrain := none, waiting := [], kept := [], arrived := [], inbox := [] })
  let full : List (Nat × Queue) := s.queues.map fun (k : Nat × Queue) => (k.1, { k.2 with cqHead := (k.2.cqNext + 1) % 2 ^ k.2.cqLog2 })
  { s with inflight := [], reports := [], queues := full, ports := ports, power := { s.power with quiesced := false, quiescedBerths := 0 } }

/-- The end of a replay: what the window wrote stands; the host, the queues and the ports are as before it. -/
def State.afterReplay (s t : State) : State :=
  let queues : List (Nat × Queue) := t.queues.map fun (k : Nat × Queue) => (k.1, (lookup k.1 s.queues).getD k.2)
  let pages := s.regs.filter fun r => inDoorbells r.1
  { t with
    inflight := s.inflight, reports := s.reports, queues := queues, ports := s.ports, host := s.host, outbox := s.outbox, clock := s.clock,
    logbook := s.logbook, colls := s.colls, msgNext := s.msgNext,
    regs := pages.foldl (fun (m : List (Nat × Word)) r => insert r.1 r.2 m) (t.regs.filter fun r => !inDoorbells r.1),
    power := { t.power with quiesced := s.power.quiesced, quiescedBerths := s.power.quiescedBerths } }

/-- The replay of a window that may be replayed. -/
def State.replayRun (s : State) (c : Cmd) (m : BookEntry) : State :=
  match s.markDiffers m with
  | some i => s.finish c.ref { detail := 2, result0 := i }
  | none =>
    let w := s.replayWindow c
    let t := s.forReplay
    let r : Rerun := { s := t, host := s.host, ports := t.ports, window := w, started := [], outs := [], matched := 0, verdict := none }
    let r := w.foldl Rerun.entry r
    let v := r.verdict.getD (0, s.replayLast c)
    (s.afterReplay r.s).finish c.ref { detail := v.1, result0 := v.2, result1 := r.matched }

def State.replay (s : State) (c : Cmd) : State :=
  let s := s.flushBook
  match s.replayFails c, s.replayMark c with
  | some r, _ => s.refuse c r.status r.detail
  | none, some m => s.onRing fun s => s.replayRun c m
  | none, none => s

def execReplay (c : CmdRef) (hv : HostView) (s : State) : Host.Outcome State Fault Refusal :=
  runsSpine (fun s => (s.sees hv).start 0xA000 c fun k s => s.replay k) s

end Sys2Proof.Machine
end

