-- ==== Sys2Proof/Machine/Dispatch.lean ====
section
/-! DEFINITION. One arm per command: the meaning of each constructor of Instr, or its rejection by name. -/

namespace Sys2Proof.Machine

open Sys2Proof

/-- What a command does to everything but the queue of waiting commands. -/
def exec (i : Instr) (s : State) : Host.Outcome State Fault Refusal :=
  match i with
  | .nop c hv => Sys2Proof.Machine.execNop c hv s
  | .queueCreate c hv => Sys2Proof.Machine.execQueueCreate c hv s
  | .queueDelete c hv => Sys2Proof.Machine.execQueueDelete c hv s
  | .abort c hv => Sys2Proof.Machine.execAbort c hv s
  | .getLog c hv => Sys2Proof.Machine.execGetLog c hv s
  | .serviceHold c hv => Sys2Proof.Machine.execServiceHold c hv s
  | .serviceResume c hv => Sys2Proof.Machine.execServiceResume c hv s
  | .reachRelease c hv => Sys2Proof.Machine.execReachRelease c hv s
  | .marginPlan c hv => Sys2Proof.Machine.execMarginPlan c hv s
  | .powerState c hv => Sys2Proof.Machine.execPowerState c hv s
  | .resetUnit c hv => Sys2Proof.Machine.execResetUnit c hv s
  | .quiesce c hv => Sys2Proof.Machine.execQuiesce c hv s
  | .stage c hv => Sys2Proof.Machine.execStage c hv s
  | .check c hv => Sys2Proof.Machine.execCheck c hv s
  | .commit c hv => Sys2Proof.Machine.execCommit c hv s
  | .abandon c hv => Sys2Proof.Machine.execAbandon c hv s
  | .matmul c hv => Sys2Proof.Machine.execMatmul c hv s
  | .matmulGrouped c hv => Sys2Proof.Machine.execMatmulGrouped c hv s
  | .attend c hv => Sys2Proof.Machine.execAttend c hv s
  | .vop c hv => Sys2Proof.Machine.execVop c hv s
  | .sample c hv => Sys2Proof.Machine.execSample c hv s
  | .update c hv => Sys2Proof.Machine.execUpdate c hv s
  | .move c hv => Sys2Proof.Machine.execMove c hv s
  | .initFill c hv => Sys2Proof.Machine.execInitFill c hv s
  | .narrowGather c hv => Sys2Proof.Machine.execNarrowGather c hv s
  | .narrowScatter c hv => Sys2Proof.Machine.execNarrowScatter c hv s
  | .atomic c hv => Sys2Proof.Machine.execAtomic c hv s
  | .gather c hv => Sys2Proof.Machine.execGather c hv s
  | .reduceScatter c hv => Sys2Proof.Machine.execReduceScatter c hv s
  | .permute c hv => Sys2Proof.Machine.execPermute c hv s
  | .send c hv => Sys2Proof.Machine.execSend c hv s
  | .recv c hv => Sys2Proof.Machine.execRecv c hv s
  | .vote c hv => Sys2Proof.Machine.execVote c hv s
  | .serveOpen c hv => Sys2Proof.Machine.execServeOpen c hv s
  | .serveClose c hv => Sys2Proof.Machine.execServeClose c hv s
  | .admitSequence c hv => Sys2Proof.Machine.execAdmitSequence c hv s
  | .rollout c hv => Sys2Proof.Machine.execRollout c hv s
  | .seqCancel c hv => Sys2Proof.Machine.execSeqCancel c hv s
  | .weightsLoad c hv => Sys2Proof.Machine.execWeightsLoad c hv s
  | .weightsDrop c hv => Sys2Proof.Machine.execWeightsDrop c hv s
  | .adapterLoad c hv => Sys2Proof.Machine.execAdapterLoad c hv s
  | .adapterDrop c hv => Sys2Proof.Machine.execAdapterDrop c hv s
  | .score c hv => Sys2Proof.Machine.execScore c hv s
  | .trainStep c hv => Sys2Proof.Machine.execTrainStep c hv s
  | .trainClose c hv => Sys2Proof.Machine.execTrainClose c hv s
  | .checkpoint c hv => Sys2Proof.Machine.execCheckpoint c hv s
  | .checkpointImport c hv => Sys2Proof.Machine.execCheckpointImport c hv s
  | .turn c hv => Sys2Proof.Machine.execTurn c hv s
  | .preempt c hv => Sys2Proof.Machine.execPreempt c hv s
  | .lifecycleSet c hv => Sys2Proof.Machine.execLifecycleSet c hv s
  | .debugToken c hv => Sys2Proof.Machine.execDebugToken c hv s
  | .locketWipe c hv => Sys2Proof.Machine.execLocketWipe c hv s
  | .replay c hv => Sys2Proof.Machine.execReplay c hv s
  | .logbookCtrl c hv => Sys2Proof.Machine.execLogbookCtrl c hv s
  | .selfTest c pass hv => Sys2Proof.Machine.execSelfTest c pass hv s
  | .packetFetch q now hv => Sys2Proof.Machine.execPacketFetch q now hv s
  | .fencedCommandStart c now => Sys2Proof.Machine.execFencedCommandStart c now s
  | .commandCompletion c now hv => Sys2Proof.Machine.execCommandCompletion c now hv s
  | .commandTimeout c now => Sys2Proof.Machine.execCommandTimeout c now s
  | .queueFence q now => Sys2Proof.Machine.execQueueFence q now s
  | .sqTailWrite fn q v now => Sys2Proof.Machine.execSqTailWrite fn q v now s
  | .cqHeadWrite fn q v now => Sys2Proof.Machine.execCqHeadWrite fn q v now s
  | .queueReset fn q => Sys2Proof.Machine.execQueueReset fn q s
  | .hello fn v => Sys2Proof.Machine.execHello fn v s
  | .stagingWindowWrite addr v => Sys2Proof.Machine.execStagingWindowWrite addr v s
  | .chamberStatusRead fn => Sys2Proof.Machine.execChamberStatusRead fn s
  | .w1cClear fn addr v => Sys2Proof.Machine.execW1cClear fn addr v s
  | .wideLowWordRead fn addr => Sys2Proof.Machine.execWideLowWordRead fn addr s
  | .wideHighWordWrite fn addr v => Sys2Proof.Machine.execWideHighWordWrite fn addr v s
  | .unalignedBar0Access fn addr size write => Sys2Proof.Machine.execUnalignedBar0Access fn addr size write s
  | .registerWrite fn addr v => Sys2Proof.Machine.execRegisterWrite fn addr v s
  | .assayClear slot v => Sys2Proof.Machine.execAssayClear slot v s
  | .histAdvance slot v => Sys2Proof.Machine.execHistAdvance slot v s
  | .histReset slot v => Sys2Proof.Machine.execHistReset slot v s
  | .locateCtrlWrite v => Sys2Proof.Machine.execLocateCtrlWrite v s
  | .collRelease v => Sys2Proof.Machine.execCollRelease v s
  | .portRetrain p v => Sys2Proof.Machine.execPortRetrain p v s
  | .portUnfence p v => Sys2Proof.Machine.execPortUnfence p v s
  | .portHold p v => Sys2Proof.Machine.execPortHold p v s
  | .portRelease p v => Sys2Proof.Machine.execPortRelease p v s
  | .resetCtrlCold v => Sys2Proof.Machine.execResetCtrlCold v s
  | .resetCtrlWarm v => Sys2Proof.Machine.execResetCtrlWarm v s
  | .adapterViewRead => Sys2Proof.Machine.execAdapterViewRead s
  | .manifestViewRead => Sys2Proof.Machine.execManifestViewRead s
  | .accViewRead off => Sys2Proof.Machine.execAccViewRead off s
  | .bar2Read fn off len => Sys2Proof.Machine.execBar2Read fn off len s
  | .bar2Write fn off bytes => Sys2Proof.Machine.execBar2Write fn off bytes s
  | .bar2Atomicop fn off op operands => Sys2Proof.Machine.execBar2Atomicop fn off op operands s
  | .perstNAssert => Sys2Proof.Machine.execPerstNAssert s
  | .perstNRelease => Sys2Proof.Machine.execPerstNRelease s
  | .pcieHotReset => Sys2Proof.Machine.execPcieHotReset s
  | .flrPf0 => Sys2Proof.Machine.execFlrPf0 s
  | .flrVf fn => Sys2Proof.Machine.execFlrVf fn s
  | .coldReset boot => Sys2Proof.Machine.execColdReset boot s
  | .warmReset boot => Sys2Proof.Machine.execWarmReset boot s
  | .perFunctionReset fn => Sys2Proof.Machine.execPerFunctionReset fn s
  | .keeperComplexReset => Sys2Proof.Machine.execKeeperComplexReset s
  | .keeperFirmwareFault => Sys2Proof.Machine.execKeeperFirmwareFault s
  | .keeperBankParity keeper => Sys2Proof.Machine.execKeeperBankParity keeper s
  | .ideKm session msg => Sys2Proof.Machine.execIdeKm session msg s
  | .doeDiscovery index => Sys2Proof.Machine.execDoeDiscovery index s
  | .pwrEnRise now => Sys2Proof.Machine.execPwrEnRise now s
  | .pwrEnFall now => Sys2Proof.Machine.execPwrEnFall now s
  | .powerFail => Sys2Proof.Machine.execPowerFail s
  | .inputAbove42v => Sys2Proof.Machine.execInputAbove42v s
  | .inputLowBand dv => Sys2Proof.Machine.execInputLowBand dv s
  | .inputHighBand dv => Sys2Proof.Machine.execInputHighBand dv s
  | .inputOvervoltage => Sys2Proof.Machine.execInputOvervoltage s
  | .railOutOfRegulation => Sys2Proof.Machine.execRailOutOfRegulation s
  | .powerUpToIdle boot => Sys2Proof.Machine.execPowerUpToIdle boot s
  | .idleToActive => Sys2Proof.Machine.execIdleToActive s
  | .idleDelayExpiry now => Sys2Proof.Machine.execIdleDelayExpiry now s
  | .powerStateEntry now => Sys2Proof.Machine.execPowerStateEntry now s
  | .dieGate die => Sys2Proof.Machine.execDieGate die s
  | .dieUngate die => Sys2Proof.Machine.execDieUngate die s
  | .inletWarning dc => Sys2Proof.Machine.execInletWarning dc s
  | .thermalLimit dc => Sys2Proof.Machine.execThermalLimit dc s
  | .thermalHardBreach dc => Sys2Proof.Machine.execThermalHardBreach dc s
  | .thermalResume dc => Sys2Proof.Machine.execThermalResume dc s
  | .thermalTrip lost => Sys2Proof.Machine.execThermalTrip lost s
  | .oscillatorLost => Sys2Proof.Machine.execOscillatorLost s
  | .governorSample r now => Sys2Proof.Machine.execGovernorSample r now s
  | .paceWindow now => Sys2Proof.Machine.execPaceWindow now s
  | .beat n upsets now => Sys2Proof.Machine.execBeat n upsets now s
  | .beatWatchdog late now => Sys2Proof.Machine.execBeatWatchdog late now s
  | .paveFault n fault => Sys2Proof.Machine.execPaveFault n fault s
  | .engineFault n fault => Sys2Proof.Machine.execEngineFault n fault s
  | .residueFence n now => Sys2Proof.Machine.execResidueFence n now s
  | .bankOwnerFence die bank now => Sys2Proof.Machine.execBankOwnerFence die bank now s
  | .bankClear die bank => Sys2Proof.Machine.execBankClear die bank s
  | .operatingHourTick now => Sys2Proof.Machine.execOperatingHourTick now s
  | .marginPlanDone readings now => Sys2Proof.Machine.execMarginPlanDone readings now s
  | .coinCellMeasure mv now => Sys2Proof.Machine.execCoinCellMeasure mv now s
  | .locatePress ms => Sys2Proof.Machine.execLocatePress ms s
  | .servicePress ms now => Sys2Proof.Machine.execServicePress ms now s
  | .serviceLong now => Sys2Proof.Machine.execServiceLong now s
  | .cellService now => Sys2Proof.Machine.execCellService now s
  | .serviceRequestLapse now => Sys2Proof.Machine.execServiceRequestLapse now s
  | .cellInserted mv now => Sys2Proof.Machine.execCellInserted mv now s
  | .cellServiceTimeout now => Sys2Proof.Machine.execCellServiceTimeout now s
  | .padTouch socket ms => Sys2Proof.Machine.execPadTouch socket ms s
  | .reachInsert socket spd => Sys2Proof.Machine.execReachInsert socket spd s
  | .reachRemove socket => Sys2Proof.Machine.execReachRemove socket s
  | .fibreChange sensor present now => Sys2Proof.Machine.execFibreChange sensor present now s
  | .lidOpen => Sys2Proof.Machine.execLidOpen s
  | .lidClose => Sys2Proof.Machine.execLidClose s
  | .lidOpenUnpowered => Sys2Proof.Machine.execLidOpenUnpowered s
  | .locketParityError hub => Sys2Proof.Machine.execLocketParityError hub s
  | .setEndpointId t eid => Sys2Proof.Machine.execSetEndpointId t eid s
  | .getEndpointId t => Sys2Proof.Machine.execGetEndpointId t s
  | .getEndpointUuid t => Sys2Proof.Machine.execGetEndpointUuid t s
  | .getMctpVersionSupport t => Sys2Proof.Machine.execGetMctpVersionSupport t s
  | .getMessageTypeSupport t => Sys2Proof.Machine.execGetMessageTypeSupport t s
  | .getTid t => Sys2Proof.Machine.execGetTid t s
  | .getPldmVersion t type => Sys2Proof.Machine.execGetPldmVersion t type s
  | .getPldmTypes t => Sys2Proof.Machine.execGetPldmTypes t s
  | .getPldmCommands t type => Sys2Proof.Machine.execGetPldmCommands t type s
  | .getPdr t handle => Sys2Proof.Machine.execGetPdr t handle s
  | .getPdrRepositoryInfo t => Sys2Proof.Machine.execGetPdrRepositoryInfo t s
  | .getSensorReading t id => Sys2Proof.Machine.execGetSensorReading t id s
  | .getStateSensorReadings t id => Sys2Proof.Machine.execGetStateSensorReadings t id s
  | .setNumericEffecterValue t id v => Sys2Proof.Machine.execSetNumericEffecterValue t id v s
  | .getNumericEffecterValue t id => Sys2Proof.Machine.execGetNumericEffecterValue t id s
  | .setStateEffecterStates t id v => Sys2Proof.Machine.execSetStateEffecterStates t id v s
  | .setEventReceiver t receiver => Sys2Proof.Machine.execSetEventReceiver t receiver s
  | .queryDeviceIdentifiers t => Sys2Proof.Machine.execQueryDeviceIdentifiers t s
  | .getFirmwareParameters t => Sys2Proof.Machine.execGetFirmwareParameters t s
  | .requestUpdate t => Sys2Proof.Machine.execRequestUpdate t s
  | .passComponentTable t component => Sys2Proof.Machine.execPassComponentTable t component s
  | .updateComponent t component size => Sys2Proof.Machine.execUpdateComponent t component size s
  | .requestFirmwareData t off bytes => Sys2Proof.Machine.execRequestFirmwareData t off bytes s
  | .verifyComplete t => Sys2Proof.Machine.execVerifyComplete t s
  | .activateFirmware t => Sys2Proof.Machine.execActivateFirmware t s
  | .getStatus t => Sys2Proof.Machine.execGetStatus t s
  | .cancelUpdateComponent t => Sys2Proof.Machine.execCancelUpdateComponent t s
  | .cancelUpdate t => Sys2Proof.Machine.execCancelUpdate t s
  | .mgmtUnsupportedCommand t protocol cmd => Sys2Proof.Machine.execMgmtUnsupportedCommand t protocol cmd s
  | .getVersion t wellFormed now => Sys2Proof.Machine.execGetVersion t wellFormed now s
  | .getCapabilities t wellFormed now => Sys2Proof.Machine.execGetCapabilities t wellFormed now s
  | .negotiateAlgorithms t offered wellFormed now => Sys2Proof.Machine.execNegotiateAlgorithms t offered wellFormed now s
  | .getDigests t wellFormed now => Sys2Proof.Machine.execGetDigests t wellFormed now s
  | .getCertificate t slot off len wellFormed now => Sys2Proof.Machine.execGetCertificate t slot off len wellFormed now s
  | .challenge t slot nonce wellFormed now => Sys2Proof.Machine.execChallenge t slot nonce wellFormed now s
  | .getMeasurements t index nonce wellFormed now => Sys2Proof.Machine.execGetMeasurements t index nonce wellFormed now s
  | .keyExchange t share wellFormed now => Sys2Proof.Machine.execKeyExchange t share wellFormed now s
  | .finish t session wellFormed now => Sys2Proof.Machine.execFinish t session wellFormed now s
  | .heartbeat t session wellFormed now => Sys2Proof.Machine.execHeartbeat t session wellFormed now s
  | .keyUpdate t session wellFormed now => Sys2Proof.Machine.execKeyUpdate t session wellFormed now s
  | .endSession t session wellFormed now => Sys2Proof.Machine.execEndSession t session wellFormed now s
  | .spdmFence t now => Sys2Proof.Machine.execSpdmFence t now s
  | .spdmFenceExpiry t now => Sys2Proof.Machine.execSpdmFenceExpiry t now s
  | .bringUpStart p now => Sys2Proof.Machine.execBringUpStart p now s
  | .laneJudgeDone p good now => Sys2Proof.Machine.execLaneJudgeDone p good now s
  | .widthFlit p bytes now => Sys2Proof.Machine.execWidthFlit p bytes now s
  | .identFlit p bytes now => Sys2Proof.Machine.execIdentFlit p bytes now s
  | .creditInitFlit p bytes now => Sys2Proof.Machine.execCreditInitFlit p bytes now s
  | .retrainFlit p bytes now => Sys2Proof.Machine.execRetrainFlit p bytes now s
  | .idleFlit p bytes now => Sys2Proof.Machine.execIdleFlit p bytes now s
  | .dataFlit p bytes now => Sys2Proof.Machine.execDataFlit p bytes now s
  | .flitCrcFailure p now => Sys2Proof.Machine.execFlitCrcFailure p now s
  | .nakRepeat p now => Sys2Proof.Machine.execNakRepeat p now s
  | .nakLimit p now => Sys2Proof.Machine.execNakLimit p now s
  | .ackStall p now => Sys2Proof.Machine.execAckStall p now s
  | .retrainDone p good now => Sys2Proof.Machine.execRetrainDone p good now s
  | .laneFail p lane now => Sys2Proof.Machine.execLaneFail p lane now s
  | .identTimeout p now => Sys2Proof.Machine.execIdentTimeout p now s
  | .bringUpRetry p now => Sys2Proof.Machine.execBringUpRetry p now s
  | .linkSilence p now => Sys2Proof.Machine.execLinkSilence p now s
  | .laserFeedReading p reading now => Sys2Proof.Machine.execLaserFeedReading p reading now s
  | .portFence p now => Sys2Proof.Machine.execPortFence p now s
  | .vcRepartition p now => Sys2Proof.Machine.execVcRepartition p now s
  | .messageDelivered p now => Sys2Proof.Machine.execMessageDelivered p now s
  | .linkNoticeRestarted p now => Sys2Proof.Machine.execLinkNoticeRestarted p now s
  | .pathBroken p now => Sys2Proof.Machine.execPathBroken p now s
  | .chainMessage p now => Sys2Proof.Machine.execChainMessage p now s
  | .gatherPiece p now => Sys2Proof.Machine.execGatherPiece p now s
  | .voteRecord p now => Sys2Proof.Machine.execVoteRecord p now s
  | .pipelineMessage p now => Sys2Proof.Machine.execPipelineMessage p now s
  | .permutePiece p now => Sys2Proof.Machine.execPermutePiece p now s
  | .abortNotice p now => Sys2Proof.Machine.execAbortNotice p now s
  | .collDeadline group seq now => Sys2Proof.Machine.execCollDeadline group seq now s
  | .peerSetRequest p now => Sys2Proof.Machine.execPeerSetRequest p now s
  | .turnPiece p now => Sys2Proof.Machine.execTurnPiece p now s
  | .interfaceParityRetry ctrl => Sys2Proof.Machine.execInterfaceParityRetry ctrl s
  | .interfaceRetrain ctrl now => Sys2Proof.Machine.execInterfaceRetrain ctrl now s
  | .correctedWriteBack addr lane => Sys2Proof.Machine.execCorrectedWriteBack addr lane s
  | .bucketLeak ctrl ondie now => Sys2Proof.Machine.execBucketLeak ctrl ondie now s
  | .bucketOverflow ctrl now => Sys2Proof.Machine.execBucketOverflow ctrl now s
  | .basinCrcMismatch addr => Sys2Proof.Machine.execBasinCrcMismatch addr s
  | .sluiceEvict line => Sys2Proof.Machine.execSluiceEvict line s
  | .basinSegmentChange hub seg => Sys2Proof.Machine.execBasinSegmentChange hub seg s
  | .weirWindow now => Sys2Proof.Machine.execWeirWindow now s
  | .repairOpen addr now => Sys2Proof.Machine.execRepairOpen addr now s
  | .repairSourceData line peer outcome now hv => Sys2Proof.Machine.execRepairSourceData line peer outcome now hv s
  | .repairDeadline line now => Sys2Proof.Machine.execRepairDeadline line now s
  | .budgetRefill now => Sys2Proof.Machine.execBudgetRefill now s
  | .serveStepComplete svc now hv => Sys2Proof.Machine.execServeStepComplete svc now hv s
  | .stepBuild svc now hv => Sys2Proof.Machine.execStepBuild svc now hv s
  | .trainStepStart t now hv => Sys2Proof.Machine.execTrainStepStart t now hv s
  | .poundEntry t p now => Sys2Proof.Machine.execPoundEntry t p now s
  | .passEnd t p now => Sys2Proof.Machine.execPassEnd t p now s
  | .microRerunDelay t now => Sys2Proof.Machine.execMicroRerunDelay t now s
  | .stepFiniteResult t now => Sys2Proof.Machine.execStepFiniteResult t now s
  | .stepDecision t ratios now => Sys2Proof.Machine.execStepDecision t ratios now s
  | .attemptRetry t now => Sys2Proof.Machine.execAttemptRetry t now s
  | .finalBlockUpdate ctx now => Sys2Proof.Machine.execFinalBlockUpdate ctx now s
  | .shadowHeaderWrite ctx now => Sys2Proof.Machine.execShadowHeaderWrite ctx now s
  | .checkpointExportDone ctx now hv => Sys2Proof.Machine.execCheckpointExportDone ctx now hv s
  | .loadActivation c peer now hv => Sys2Proof.Machine.execLoadActivation c peer now hv s
  | .setReleaseCommit set now => Sys2Proof.Machine.execSetReleaseCommit set now s
  | .adapterReleaseCommit slot now => Sys2Proof.Machine.execAdapterReleaseCommit slot now s
  | .commitInstant now hv => Sys2Proof.Machine.execCommitInstant now hv s
  | .settleEnd svc now => Sys2Proof.Machine.execSettleEnd svc now s
  | .drainDeadline svc now => Sys2Proof.Machine.execDrainDeadline svc now s
  | .transferEnd svc now => Sys2Proof.Machine.execTransferEnd svc now s
  | .turnFinalCommit svc now hv => Sys2Proof.Machine.execTurnFinalCommit svc now hv s
  | .xferTimeout svc now => Sys2Proof.Machine.execXferTimeout svc now s
  | .scoreStep berth now hv => Sys2Proof.Machine.execScoreStep berth now hv s
  | .lifecycleResetDelay now => Sys2Proof.Machine.execLifecycleResetDelay now s
  | .debugExpiry now => Sys2Proof.Machine.execDebugExpiry now s
  | .authLockout now => Sys2Proof.Machine.execAuthLockout now s
  | .lockoutExpiry now => Sys2Proof.Machine.execLockoutExpiry now s
  | .logbookBufferFlush now => Sys2Proof.Machine.execLogbookBufferFlush now s
  | .interfaceRetrainDone ctrl ok now => Sys2Proof.Machine.execInterfaceRetrainDone ctrl ok now s
  | .eventMessageCollected now => Sys2Proof.Machine.execEventMessageCollected now s

end Sys2Proof.Machine
end

