-- ==== Sys2Proof/Safety.lean ====
section
/-! DEFINITION. The words in which claims speak of a run: the parts of the state and what it is for one to be left alone, the
invariant that every step keeps, and when a command of a queue may start and how it is answered. -/

namespace Sys2Proof.Machine

open Sys2Proof

/-- The parts of the state. -/
inductive Part where
  /-- Identity, epoch and incarnations. -/
  | spine
  /-- The count of free values drawn. -/
  | draws
  | clock
  | power
  /-- Governor and margin plans. -/
  | gov
  /-- Registers, the words of the epoch before, and the holding copies of 64-bit accesses. -/
  | regs
  /-- Device memories, with poison and parity. -/
  | mem
  /-- Segments in change, banks to clear, interfaces in training. -/
  | moving
  /-- Host memory. -/
  | host
  /-- HELLOs, queues and waiting reports. -/
  | queues
  /-- Commands in flight, and the count of packets fetched. -/
  | cmds
  /-- Fences of pavés and engines. -/
  | units
  /-- Waiting writes to scale-history slots. -/
  | hist
  /-- Weight sets, adapters and repairs. -/
  | weights
  /-- Optical ports. -/
  | links
  /-- Serving services and manifest entries. -/
  | serving
  /-- Collective groups and collectives. -/
  | colls
  /-- Training services and exports. -/
  | trains
  /-- Turns, score services and occupants. -/
  | turns
  | logbook
  /-- The chamber and waiting commits. -/
  | lockage
  | keepsake
  | panel
  | mgmt
  | sec
  /-- The event log. -/
  | log
  /-- What the block has sent out. -/
  | outbox
  /-- Enumeration and the PCIe link. -/
  | pcie
  /-- The operation under way. -/
  | acting
  /-- The queue of waiting commands. -/
  | pending
  deriving DecidableEq, Repr

/-- A part is the same in two states. -/
def Part.same (p : Part) (s t : State) : Prop :=
  match p with
  | .spine => t.spine = s.spine
  | .draws => t.draws = s.draws
  | .clock => t.clock = s.clock
  | .power => t.power = s.power
  | .gov => t.gov = s.gov
  | .regs => t.regs = s.regs ∧ t.oldRegs = s.oldRegs ∧ t.heldHigh = s.heldHigh ∧ t.heldLow = s.heldLow
  | .mem => t.mem = s.mem
  | .moving => t.segChanges = s.segChanges ∧ t.clears = s.clears ∧ t.retraining = s.retraining
  | .host => t.host = s.host
  | .queues => t.hellos = s.hellos ∧ t.queues = s.queues ∧ t.reports = s.reports
  | .cmds => t.fetches = s.fetches ∧ t.inflight = s.inflight
  | .units => t.units = s.units
  | .hist => t.histWaits = s.histWaits
  | .weights => t.sets = s.sets ∧ t.adapters = s.adapters ∧ t.adapterView = s.adapterView ∧ t.repairs = s.repairs
  | .links => t.ports = s.ports ∧ t.msgNext = s.msgNext
  | .serving => t.serving = s.serving ∧ t.manifest = s.manifest ∧ t.manifestView = s.manifestView
  | .colls => t.groups = s.groups ∧ t.colls = s.colls
  | .trains => t.trains = s.trains ∧ t.exports = s.exports
  | .turns => t.turns = s.turns ∧ t.scores = s.scores ∧ t.occupants = s.occupants
  | .logbook => t.logbook = s.logbook
  | .lockage => t.chamber = s.chamber ∧ t.commits = s.commits ∧ t.commitCount = s.commitCount ∧ t.checkedAt = s.checkedAt
  | .keepsake => t.keepsake = s.keepsake
  | .panel => t.panel = s.panel
  | .mgmt => t.mgmt = s.mgmt
  | .sec => t.sec = s.sec
  | .log => t.log = s.log
  | .outbox => t.outbox = s.outbox
  | .pcie => t.pcie = s.pcie
  | .acting => t.acting = s.acting
  | .pending => t.pending = s.pending

/-- Everything outside the listed parts is the same in two states. -/
def SameBut (ps : List Part) (s t : State) : Prop := ∀ p : Part, p ∉ ps → p.same s t

/-! ## Footprints -/

/-- The parts of the state that a command may change. -/
def footprint (i : Instr) : List Part :=
  match i with
  | .nop .. => [.host, .cmds]
  | .queueCreate .. => [.regs, .host, .queues, .cmds, .log, .outbox]
  | .queueDelete .. => [.draws, .power, .gov, .regs, .mem, .host, .queues, .cmds, .hist, .weights, .links, .serving, .colls, .trains, .turns, .lockage, .panel, .mgmt, .sec, .outbox]
  | .abort .. => [.draws, .power, .gov, .regs, .mem, .host, .cmds, .weights, .links, .serving, .colls, .trains, .turns, .lockage, .panel, .mgmt, .outbox]
  | .getLog .. => [.draws, .regs, .mem, .host, .queues, .cmds, .weights, .log, .outbox]
  | .serviceHold .. => [.host, .cmds, .panel]
  | .serviceResume .. => [.host, .cmds, .panel]
  | .reachRelease .. => [.mem, .host, .cmds, .panel, .mgmt]
  | .marginPlan .. => [.gov, .host, .cmds]
  | .powerState .. => [.draws, .power, .regs, .mem, .host, .cmds, .weights, .log, .outbox]
  | .resetUnit .. => [.spine, .draws, .power, .gov, .regs, .mem, .host, .queues, .cmds, .units, .hist, .weights, .links, .serving, .colls, .trains, .turns, .logbook, .lockage, .keepsake, .mgmt, .log, .outbox]
  | .quiesce .. => [.draws, .power, .regs, .mem, .host, .cmds, .weights, .log, .outbox]
  | .stage .. => [.host, .cmds, .lockage]
  | .check .. => [.regs, .host, .cmds, .lockage]
  | .commit .. => [.host, .cmds, .lockage]
  | .abandon .. => [.host, .cmds, .lockage]
  | .matmul .. => [.draws, .power, .regs, .mem, .host, .queues, .cmds, .units, .weights, .log, .outbox]
  | .matmulGrouped .. => [.draws, .power, .regs, .mem, .host, .queues, .cmds, .units, .weights, .log, .outbox]
  | .attend .. => [.draws, .power, .regs, .mem, .host, .queues, .cmds, .units, .weights, .log, .outbox]
  | .vop .. => [.draws, .power, .regs, .mem, .host, .queues, .cmds, .units, .weights, .log, .outbox]
  | .sample .. => [.draws, .power, .regs, .mem, .host, .queues, .cmds, .units, .weights, .log, .outbox]
  | .update .. => [.draws, .power, .regs, .mem, .host, .queues, .cmds, .units, .weights, .keepsake, .log, .outbox]
  | .move .. => [.draws, .regs, .mem, .host, .queues, .cmds, .units, .weights, .logbook, .log, .outbox]
  | .initFill .. => [.draws, .regs, .mem, .host, .queues, .cmds, .log, .outbox]
  | .narrowGather .. => [.draws, .regs, .mem, .host, .queues, .cmds, .units, .weights, .log, .outbox]
  | .narrowScatter .. => [.draws, .regs, .mem, .host, .queues, .cmds, .units, .weights, .log, .outbox]
  | .atomic .. => [.draws, .regs, .mem, .host, .queues, .cmds, .units, .weights, .log, .outbox]
  | .gather .. => [.draws, .power, .regs, .mem, .host, .queues, .cmds, .units, .weights, .links, .colls, .turns, .lockage, .mgmt, .log, .outbox]
  | .reduceScatter .. => [.draws, .regs, .mem, .host, .queues, .cmds, .units, .weights, .links, .colls, .turns, .lockage, .mgmt, .log, .outbox]
  | .permute .. => [.draws, .regs, .mem, .host, .queues, .cmds, .units, .weights, .links, .colls, .turns, .lockage, .mgmt, .log, .outbox]
  | .send .. => [.draws, .regs, .mem, .host, .queues, .cmds, .units, .weights, .links, .colls, .turns, .lockage, .mgmt, .log, .outbox]
  | .recv .. => [.regs, .host, .queues, .cmds, .colls, .log, .outbox]
  | .vote .. => [.draws, .regs, .mem, .host, .queues, .cmds, .units, .weights, .links, .colls, .turns, .lockage, .mgmt, .log, .outbox]
  | .serveOpen .. => [.draws, .regs, .mem, .host, .queues, .cmds, .units, .weights, .serving, .lockage, .log, .outbox]
  | .serveClose .. => [.draws, .regs, .mem, .host, .queues, .cmds, .weights, .serving, .turns, .logbook, .lockage, .log, .outbox]
  | .admitSequence .. => [.draws, .regs, .mem, .host, .queues, .cmds, .weights, .serving, .logbook, .log, .outbox]
  | .rollout .. => [.regs, .host, .queues, .cmds, .serving, .log, .outbox]
  | .seqCancel .. => [.draws, .regs, .mem, .host, .queues, .cmds, .weights, .serving, .turns, .logbook, .log, .outbox]
  | .weightsLoad .. => [.regs, .host, .queues, .cmds, .lockage, .log, .outbox]
  | .weightsDrop .. => [.regs, .host, .queues, .cmds, .weights, .lockage, .log, .outbox]
  | .adapterLoad .. => [.regs, .host, .queues, .cmds, .lockage, .log, .outbox]
  | .adapterDrop .. => [.regs, .host, .queues, .cmds, .lockage, .log, .outbox]
  | .score .. => [.draws, .regs, .mem, .host, .queues, .cmds, .units, .weights, .turns, .lockage, .log, .outbox]
  | .trainStep .. => [.draws, .regs, .mem, .host, .queues, .cmds, .units, .weights, .trains, .lockage, .log, .outbox]
  | .trainClose .. => [.draws, .regs, .mem, .host, .queues, .cmds, .weights, .links, .colls, .trains, .turns, .logbook, .lockage, .mgmt, .log, .outbox]
  | .checkpoint .. => [.draws, .regs, .mem, .host, .queues, .cmds, .units, .weights, .trains, .log, .outbox]
  | .checkpointImport .. => [.draws, .regs, .mem, .host, .queues, .cmds, .units, .weights, .logbook, .keepsake, .log, .outbox]
  | .turn .. => [.draws, .regs, .mem, .host, .queues, .cmds, .units, .weights, .turns, .lockage, .log, .outbox]
  | .preempt .. => [.regs, .host, .queues, .cmds, .serving, .trains, .turns, .lockage, .log, .outbox]
  | .lifecycleSet .. => [.draws, .regs, .mem, .host, .queues, .cmds, .units, .weights, .logbook, .keepsake, .mgmt, .sec, .log, .outbox, .pcie]
  | .debugToken .. => [.draws, .regs, .mem, .host, .queues, .cmds, .units, .weights, .logbook, .keepsake, .mgmt, .sec, .log, .outbox, .pcie]
  | .locketWipe .. => [.regs, .host, .cmds, .keepsake, .mgmt, .sec, .log, .outbox, .pcie]
  | .replay .. => [.spine, .draws, .clock, .power, .gov, .regs, .mem, .moving, .host, .queues, .cmds, .units, .hist, .weights, .links, .serving, .colls, .trains, .turns, .logbook, .lockage, .keepsake, .panel, .mgmt, .sec, .log, .outbox, .pcie]
  | .logbookCtrl .. => [.draws, .regs, .host, .queues, .cmds, .logbook, .log, .outbox]
  | .selfTest .. => [.power, .regs, .mem, .host, .queues, .cmds, .units, .log, .outbox]
  | .packetFetch .. => [.clock, .regs, .mem, .host, .queues, .cmds, .colls, .logbook, .log, .outbox]
  | .fencedCommandStart .. => [.clock, .cmds]
  | .commandCompletion .. => [.draws, .clock, .regs, .mem, .host, .queues, .cmds, .hist, .weights, .colls, .logbook, .sec, .log, .outbox]
  | .commandTimeout .. => [.draws, .clock, .power, .gov, .regs, .mem, .host, .cmds, .weights, .links, .serving, .colls, .trains, .turns, .lockage, .panel, .mgmt, .outbox]
  | .queueFence .. => [.clock, .regs, .queues, .log, .outbox]
  | .sqTailWrite .. => [.clock, .regs, .queues, .log, .outbox]
  | .cqHeadWrite .. => [.draws, .clock, .regs, .mem, .host, .queues, .weights, .logbook, .log, .outbox]
  | .queueReset .. => [.queues, .log, .outbox]
  | .hello .. => [.regs, .queues]
  | .stagingWindowWrite .. => [.lockage, .log, .outbox]
  | .chamberStatusRead .. => [.regs, .weights, .serving, .outbox]
  | .w1cClear .. => [.regs, .log, .outbox]
  | .wideLowWordRead .. => [.draws, .regs, .weights, .serving, .outbox]
  | .wideHighWordWrite .. => [.regs, .log, .outbox]
  | .unalignedBar0Access .. => [.log, .outbox]
  | .registerWrite .. => [.regs, .log, .outbox]
  | .assayClear .. => [.regs]
  | .histAdvance .. => [.regs, .cmds, .hist, .log, .outbox]
  | .histReset .. => [.regs, .cmds, .hist, .log, .outbox]
  | .locateCtrlWrite .. => [.panel]
  | .collRelease .. => [.colls]
  | .portRetrain .. => [.regs, .links, .mgmt, .log, .outbox]
  | .portUnfence .. => [.links, .mgmt, .log, .outbox]
  | .portHold .. => [.draws, .regs, .mem, .cmds, .weights, .links, .colls, .turns, .lockage, .mgmt, .log, .outbox]
  | .portRelease .. => [.links, .mgmt, .log, .outbox]
  | .resetCtrlCold .. => [.spine, .draws, .clock, .power, .gov, .regs, .mem, .moving, .queues, .cmds, .units, .hist, .weights, .links, .serving, .colls, .trains, .turns, .logbook, .lockage, .keepsake, .panel, .mgmt, .sec, .log, .outbox, .pcie]
  | .resetCtrlWarm .. => [.spine, .draws, .clock, .power, .gov, .regs, .mem, .moving, .queues, .cmds, .units, .hist, .weights, .links, .serving, .colls, .trains, .turns, .logbook, .lockage, .keepsake, .panel, .mgmt, .sec, .log, .outbox, .pcie]
  | .adapterViewRead => [.weights, .outbox]
  | .manifestViewRead => [.serving, .outbox]
  | .accViewRead .. => [.draws, .regs, .mem, .units, .weights, .log, .outbox]
  | .bar2Read .. => [.draws, .regs, .mem, .units, .weights, .log, .outbox]
  | .bar2Write .. => [.draws, .regs, .mem, .weights, .logbook, .log, .outbox]
  | .bar2Atomicop .. => [.draws, .regs, .mem, .units, .weights, .logbook, .log, .outbox]
  | .perstNAssert => [.spine, .draws, .clock, .power, .gov, .regs, .mem, .moving, .queues, .cmds, .units, .hist, .weights, .links, .serving, .colls, .trains, .turns, .logbook, .lockage, .panel, .mgmt, .sec, .log, .pcie]
  | .perstNRelease => [.power]
  | .pcieHotReset => [.spine, .draws, .power, .gov, .regs, .mem, .moving, .queues, .cmds, .hist, .weights, .links, .serving, .colls, .trains, .turns, .logbook, .lockage, .keepsake, .mgmt, .sec, .log, .outbox, .pcie]
  | .flrPf0 => [.spine, .draws, .power, .gov, .regs, .mem, .moving, .queues, .cmds, .hist, .weights, .links, .serving, .colls, .trains, .turns, .logbook, .lockage, .keepsake, .mgmt, .sec, .log, .outbox, .pcie]
  | .flrVf .. => [.spine, .draws, .power, .gov, .regs, .mem, .host, .queues, .cmds, .hist, .weights, .links, .serving, .colls, .trains, .turns, .logbook, .lockage, .panel, .mgmt, .sec, .log, .outbox]
  | .coldReset .. => [.spine, .draws, .clock, .power, .gov, .regs, .mem, .moving, .queues, .cmds, .units, .hist, .weights, .links, .serving, .colls, .trains, .turns, .logbook, .lockage, .keepsake, .panel, .mgmt, .sec, .log, .outbox, .pcie]
  | .warmReset .. => [.spine, .draws, .clock, .power, .gov, .regs, .mem, .moving, .queues, .cmds, .hist, .weights, .links, .serving, .colls, .trains, .turns, .logbook, .lockage, .keepsake, .mgmt, .sec, .log, .outbox, .pcie]
  | .perFunctionReset .. => [.spine, .draws, .power, .gov, .regs, .mem, .host, .queues, .cmds, .hist, .weights, .links, .serving, .colls, .trains, .turns, .logbook, .lockage, .panel, .mgmt, .sec, .log, .outbox]
  | .keeperComplexReset => [.spine, .draws, .power, .gov, .regs, .mem, .host, .queues, .cmds, .hist, .weights, .links, .serving, .colls, .trains, .turns, .logbook, .lockage, .keepsake, .mgmt, .log, .outbox]
  | .keeperFirmwareFault => [.spine, .draws, .power, .gov, .regs, .mem, .host, .queues, .cmds, .hist, .weights, .links, .serving, .colls, .trains, .turns, .logbook, .lockage, .keepsake, .mgmt, .log, .outbox]
  | .keeperBankParity .. => [.spine, .draws, .power, .gov, .regs, .mem, .host, .queues, .cmds, .hist, .weights, .links, .serving, .colls, .trains, .turns, .logbook, .lockage, .keepsake, .panel, .mgmt, .log, .outbox]
  | .ideKm .. => [.mgmt, .sec, .log, .outbox, .pcie]
  | .doeDiscovery .. => [.outbox]
  | .pwrEnRise .. => [.spine, .draws, .clock, .power, .gov, .regs, .mem, .moving, .queues, .cmds, .units, .hist, .weights, .links, .serving, .colls, .trains, .turns, .logbook, .lockage, .panel, .mgmt, .sec, .log, .pcie]
  | .pwrEnFall .. => [.spine, .draws, .clock, .power, .gov, .regs, .mem, .moving, .queues, .cmds, .units, .hist, .weights, .links, .serving, .colls, .trains, .turns, .logbook, .lockage, .keepsake, .panel, .mgmt, .sec, .log, .outbox, .pcie]
  | .powerFail => [.spine, .draws, .clock, .power, .gov, .regs, .mem, .moving, .queues, .cmds, .units, .hist, .weights, .links, .serving, .colls, .trains, .turns, .logbook, .lockage, .keepsake, .panel, .mgmt, .sec, .log, .outbox, .pcie]
  | .inputAbove42v => [.spine, .draws, .clock, .power, .gov, .regs, .mem, .moving, .queues, .cmds, .units, .hist, .weights, .links, .serving, .colls, .trains, .turns, .logbook, .lockage, .panel, .mgmt, .sec, .log, .pcie]
  | .inputLowBand .. => [.power, .mgmt, .log, .outbox]
  | .inputHighBand .. => [.power, .mgmt, .log, .outbox]
  | .inputOvervoltage => [.spine, .draws, .clock, .power, .gov, .regs, .mem, .moving, .queues, .cmds, .units, .hist, .weights, .links, .serving, .colls, .trains, .turns, .logbook, .lockage, .keepsake, .panel, .mgmt, .sec, .log, .pcie]
  | .railOutOfRegulation => [.power]
  | .powerUpToIdle .. => [.spine, .draws, .clock, .power, .gov, .regs, .mem, .keepsake, .panel, .mgmt, .sec, .log, .outbox, .pcie]
  | .idleToActive => [.power, .gov, .mgmt]
  | .idleDelayExpiry .. => [.clock, .power, .mgmt]
  | .powerStateEntry .. => [.spine, .draws, .clock, .power, .gov, .regs, .mem, .moving, .queues, .cmds, .units, .hist, .weights, .links, .serving, .colls, .trains, .turns, .logbook, .lockage, .panel, .mgmt, .sec, .log, .pcie]
  | .dieGate .. => [.draws, .power, .regs, .mem, .cmds, .links, .colls, .turns, .lockage, .mgmt, .outbox]
  | .dieUngate .. => [.power, .regs, .mem, .moving, .outbox]
  | .inletWarning .. => [.mgmt, .log, .outbox]
  | .thermalLimit .. => [.draws, .gov, .regs, .mgmt, .log, .outbox]
  | .thermalHardBreach .. => [.draws, .gov, .regs, .mgmt, .log, .outbox]
  | .thermalResume .. => [.draws, .gov, .regs, .mgmt, .log, .outbox]
  | .thermalTrip .. => [.spine, .draws, .clock, .power, .gov, .regs, .mem, .moving, .queues, .cmds, .units, .hist, .weights, .links, .serving, .colls, .trains, .turns, .logbook, .lockage, .keepsake, .panel, .mgmt, .sec, .log, .pcie]
  | .oscillatorLost => [.draws, .clock, .regs, .mem, .cmds, .weights, .links, .colls, .turns, .lockage, .mgmt, .log, .outbox]
  | .governorSample .. => [.draws, .clock, .power, .gov, .regs, .mgmt, .log, .outbox]
  | .paceWindow .. => [.clock, .gov, .regs]
  | .beat .. => [.draws, .clock, .gov, .regs, .mem, .cmds, .units, .weights, .serving, .log, .outbox]
  | .beatWatchdog .. => [.draws, .clock, .gov, .regs, .mem, .host, .queues, .cmds, .units, .weights, .links, .colls, .trains, .turns, .logbook, .lockage, .mgmt, .log, .outbox]
  | .paveFault .. => [.draws, .regs, .mem, .host, .queues, .cmds, .units, .weights, .links, .colls, .trains, .turns, .logbook, .lockage, .mgmt, .log, .outbox]
  | .engineFault .. => [.draws, .regs, .mem, .host, .queues, .cmds, .units, .weights, .links, .colls, .trains, .turns, .logbook, .lockage, .mgmt, .log, .outbox]
  | .residueFence .. => [.clock, .regs, .units, .log, .outbox]
  | .bankOwnerFence .. => [.clock, .regs, .units, .log, .outbox]
  | .bankClear .. => [.mem, .moving]
  | .operatingHourTick .. => [.clock, .gov, .keepsake]
  | .marginPlanDone .. => [.clock, .gov, .regs, .cmds, .keepsake, .log, .outbox]
  | .coinCellMeasure .. => [.clock, .regs, .panel, .mgmt, .outbox]
  | .locatePress .. => [.regs, .panel, .mgmt, .outbox]
  | .servicePress .. => [.clock, .regs, .panel, .mgmt, .outbox]
  | .serviceLong .. => [.clock, .regs, .panel, .mgmt, .outbox]
  | .cellService .. => [.clock, .regs, .panel, .mgmt, .outbox]
  | .serviceRequestLapse .. => [.clock, .panel]
  | .cellInserted .. => [.clock, .regs, .panel, .mgmt, .outbox]
  | .cellServiceTimeout .. => [.clock, .regs, .panel, .mgmt, .outbox]
  | .padTouch .. => [.regs, .mem, .panel, .mgmt, .outbox]
  | .reachInsert .. => [.regs, .panel, .mgmt, .outbox]
  | .reachRemove .. => [.regs, .mem, .moving, .panel, .mgmt, .outbox]
  | .fibreChange .. => [.draws, .clock, .regs, .mem, .cmds, .weights, .links, .colls, .turns, .lockage, .panel, .mgmt, .log, .outbox]
  | .lidOpen => [.regs, .keepsake, .panel, .mgmt, .sec, .log, .outbox, .pcie]
  | .lidClose => [.regs, .panel, .mgmt, .outbox]
  | .lidOpenUnpowered => [.keepsake, .panel]
  | .locketParityError .. => [.regs, .keepsake, .mgmt, .sec, .log, .outbox, .pcie]
  | .setEndpointId .. => [.mgmt, .outbox]
  | .getEndpointId .. => [.outbox]
  | .getEndpointUuid .. => [.outbox]
  | .getMctpVersionSupport .. => [.outbox]
  | .getMessageTypeSupport .. => [.outbox]
  | .getTid .. => [.outbox]
  | .getPldmVersion .. => [.outbox]
  | .getPldmTypes .. => [.outbox]
  | .getPldmCommands .. => [.outbox]
  | .getPdr .. => [.outbox]
  | .getPdrRepositoryInfo .. => [.outbox]
  | .getSensorReading .. => [.outbox]
  | .getStateSensorReadings .. => [.outbox]
  | .setNumericEffecterValue .. => [.mgmt, .outbox]
  | .getNumericEffecterValue .. => [.outbox]
  | .setStateEffecterStates .. => [.panel, .outbox]
  | .setEventReceiver .. => [.mgmt, .outbox]
  | .queryDeviceIdentifiers .. => [.outbox]
  | .getFirmwareParameters .. => [.outbox]
  | .requestUpdate .. => [.mgmt, .outbox]
  | .passComponentTable .. => [.mgmt, .outbox]
  | .updateComponent .. => [.mgmt, .sec, .outbox]
  | .requestFirmwareData .. => [.mgmt, .sec, .outbox]
  | .verifyComplete .. => [.mgmt, .outbox]
  | .activateFirmware .. => [.mgmt, .sec, .outbox]
  | .getStatus .. => [.outbox]
  | .cancelUpdateComponent .. => [.mgmt, .outbox]
  | .cancelUpdate .. => [.mgmt, .outbox]
  | .mgmtUnsupportedCommand .. => [.mgmt, .log, .outbox]
  | .getVersion .. => [.clock, .mgmt, .sec, .log, .outbox]
  | .getCapabilities .. => [.clock, .mgmt, .log, .outbox]
  | .negotiateAlgorithms .. => [.clock, .mgmt, .log, .outbox]
  | .getDigests .. => [.clock, .mgmt, .log, .outbox]
  | .getCertificate .. => [.clock, .mgmt, .log, .outbox]
  | .challenge .. => [.draws, .clock, .mgmt, .log, .outbox]
  | .getMeasurements .. => [.draws, .clock, .mgmt, .log, .outbox]
  | .keyExchange .. => [.draws, .clock, .mgmt, .sec, .log, .outbox]
  | .finish .. => [.draws, .clock, .mgmt, .sec, .log, .outbox]
  | .heartbeat .. => [.clock, .mgmt, .log, .outbox]
  | .keyUpdate .. => [.draws, .clock, .mgmt, .sec, .log, .outbox]
  | .endSession .. => [.clock, .mgmt, .sec, .log, .outbox]
  | .spdmFence .. => [.clock, .mgmt, .log, .outbox]
  | .spdmFenceExpiry .. => [.clock, .mgmt]
  | .bringUpStart .. => [.clock, .links, .mgmt]
  | .laneJudgeDone .. => [.draws, .clock, .regs, .links, .mgmt, .outbox]
  | .widthFlit .. => [.draws, .clock, .regs, .mem, .cmds, .weights, .links, .colls, .turns, .logbook, .lockage, .mgmt, .log, .outbox]
  | .identFlit .. => [.draws, .clock, .regs, .mem, .cmds, .weights, .links, .colls, .turns, .logbook, .lockage, .mgmt, .log, .outbox]
  | .creditInitFlit .. => [.draws, .clock, .regs, .mem, .cmds, .weights, .links, .colls, .turns, .logbook, .lockage, .mgmt, .log, .outbox]
  | .retrainFlit .. => [.draws, .clock, .regs, .mem, .cmds, .weights, .links, .colls, .turns, .logbook, .lockage, .mgmt, .log, .outbox]
  | .idleFlit .. => [.draws, .clock, .regs, .mem, .cmds, .weights, .links, .colls, .turns, .logbook, .lockage, .mgmt, .log, .outbox]
  | .dataFlit .. => [.draws, .clock, .regs, .mem, .cmds, .weights, .links, .colls, .turns, .logbook, .lockage, .mgmt, .log, .outbox]
  | .flitCrcFailure .. => [.clock, .regs, .links, .mgmt, .outbox]
  | .nakRepeat .. => [.clock, .links, .mgmt, .outbox]
  | .nakLimit .. => [.clock, .regs, .links, .mgmt, .outbox]
  | .ackStall .. => [.clock, .regs, .links, .mgmt, .outbox]
  | .retrainDone .. => [.draws, .clock, .regs, .mem, .cmds, .weights, .links, .colls, .turns, .lockage, .mgmt, .log, .outbox]
  | .laneFail .. => [.draws, .clock, .regs, .mem, .cmds, .weights, .links, .colls, .turns, .lockage, .mgmt, .log, .outbox]
  | .identTimeout .. => [.clock, .links, .mgmt]
  | .bringUpRetry .. => [.clock, .links, .mgmt]
  | .linkSilence .. => [.draws, .clock, .regs, .mem, .cmds, .weights, .links, .colls, .turns, .lockage, .mgmt, .log, .outbox]
  | .laserFeedReading .. => [.draws, .clock, .regs, .mem, .cmds, .weights, .links, .colls, .turns, .lockage, .mgmt, .log, .outbox]
  | .portFence .. => [.draws, .clock, .regs, .mem, .cmds, .weights, .links, .colls, .turns, .lockage, .mgmt, .log, .outbox]
  | .vcRepartition .. => [.clock, .regs, .links, .mgmt, .outbox]
  | .messageDelivered .. => [.clock, .regs, .links, .mgmt, .outbox]
  | .linkNoticeRestarted .. => [.draws, .clock, .regs, .mem, .cmds, .weights, .links, .colls, .turns, .lockage, .mgmt, .outbox]
  | .pathBroken .. => [.draws, .clock, .regs, .mem, .cmds, .weights, .links, .colls, .turns, .lockage, .mgmt, .outbox]
  | .chainMessage .. => [.draws, .clock, .power, .regs, .mem, .cmds, .units, .weights, .links, .colls, .turns, .lockage, .mgmt, .log, .outbox]
  | .gatherPiece .. => [.draws, .clock, .power, .regs, .mem, .cmds, .weights, .links, .colls, .turns, .lockage, .mgmt, .log, .outbox]
  | .voteRecord .. => [.draws, .clock, .regs, .mem, .cmds, .units, .weights, .links, .colls, .turns, .lockage, .mgmt, .log, .outbox]
  | .pipelineMessage .. => [.draws, .clock, .regs, .mem, .cmds, .weights, .links, .colls, .turns, .lockage, .mgmt, .log, .outbox]
  | .permutePiece .. => [.draws, .clock, .regs, .mem, .cmds, .weights, .links, .colls, .turns, .lockage, .mgmt, .log, .outbox]
  | .abortNotice .. => [.draws, .clock, .regs, .mem, .cmds, .links, .colls, .turns, .lockage, .mgmt, .outbox]
  | .collDeadline .. => [.draws, .clock, .regs, .mem, .cmds, .links, .colls, .turns, .lockage, .mgmt, .outbox]
  | .peerSetRequest .. => [.clock, .regs, .links, .mgmt, .outbox]
  | .turnPiece .. => [.draws, .clock, .regs, .mem, .weights, .links, .turns, .mgmt, .log, .outbox]
  | .interfaceParityRetry .. => [.regs, .log, .outbox]
  | .interfaceRetrain .. => [.clock, .moving]
  | .correctedWriteBack .. => [.regs, .log, .outbox]
  | .bucketLeak .. => [.clock, .regs]
  | .bucketOverflow .. => [.clock, .regs, .log, .outbox]
  | .basinCrcMismatch .. => [.regs, .mem, .log, .outbox]
  | .sluiceEvict .. => [.draws, .regs, .mem, .weights, .log, .outbox]
  | .basinSegmentChange .. => [.mem, .moving]
  | .weirWindow .. => [.clock, .mem]
  | .repairOpen .. => [.draws, .clock, .regs, .mem, .units, .weights, .log, .outbox]
  | .repairSourceData .. => [.draws, .clock, .regs, .mem, .host, .units, .weights, .log, .outbox]
  | .repairDeadline .. => [.clock, .regs, .weights, .log, .outbox]
  | .budgetRefill .. => [.clock, .regs]
  | .serveStepComplete .. => [.draws, .clock, .power, .regs, .mem, .host, .queues, .cmds, .units, .weights, .serving, .turns, .logbook, .lockage, .log, .outbox]
  | .stepBuild .. => [.draws, .clock, .power, .regs, .mem, .host, .queues, .cmds, .weights, .serving, .trains, .turns, .logbook, .lockage, .log, .outbox]
  | .trainStepStart .. => [.draws, .clock, .power, .regs, .mem, .host, .queues, .cmds, .units, .weights, .links, .serving, .colls, .trains, .turns, .logbook, .lockage, .mgmt, .log, .outbox]
  | .poundEntry .. => [.draws, .clock, .power, .regs, .mem, .host, .queues, .cmds, .units, .weights, .links, .colls, .trains, .turns, .logbook, .lockage, .mgmt, .log, .outbox]
  | .passEnd .. => [.draws, .clock, .power, .regs, .mem, .host, .queues, .cmds, .units, .weights, .links, .colls, .trains, .turns, .logbook, .lockage, .mgmt, .log, .outbox]
  | .microRerunDelay .. => [.draws, .clock, .power, .regs, .mem, .host, .queues, .cmds, .units, .weights, .links, .colls, .trains, .turns, .logbook, .lockage, .mgmt, .log, .outbox]
  | .stepFiniteResult .. => [.draws, .clock, .regs, .mem, .host, .queues, .cmds, .units, .weights, .links, .colls, .trains, .turns, .logbook, .lockage, .mgmt, .log, .outbox]
  | .stepDecision .. => [.draws, .clock, .regs, .mem, .host, .queues, .cmds, .units, .hist, .weights, .links, .colls, .trains, .turns, .logbook, .lockage, .keepsake, .mgmt, .log, .outbox]
  | .attemptRetry .. => [.draws, .clock, .regs, .mem, .host, .queues, .cmds, .units, .weights, .links, .colls, .trains, .turns, .logbook, .lockage, .mgmt, .log, .outbox]
  | .finalBlockUpdate .. => [.draws, .clock, .power, .regs, .mem, .cmds, .units, .weights, .links, .colls, .trains, .turns, .lockage, .mgmt, .log, .outbox]
  | .shadowHeaderWrite .. => [.draws, .clock, .regs, .mem, .cmds, .weights, .colls, .turns, .lockage, .log, .outbox]
  | .checkpointExportDone .. => [.draws, .clock, .regs, .mem, .host, .queues, .weights, .trains, .logbook, .log, .outbox]
  | .loadActivation .. => [.spine, .draws, .clock, .regs, .mem, .host, .cmds, .units, .weights, .logbook, .lockage, .log, .outbox]
  | .setReleaseCommit .. => [.spine, .clock, .regs, .cmds, .weights, .logbook, .lockage, .outbox]
  | .adapterReleaseCommit .. => [.spine, .clock, .regs, .weights, .logbook, .lockage, .outbox]
  | .commitInstant .. => [.spine, .draws, .clock, .regs, .mem, .moving, .host, .queues, .cmds, .weights, .links, .serving, .colls, .trains, .turns, .logbook, .lockage, .keepsake, .panel, .mgmt, .log, .outbox]
  | .settleEnd .. => [.draws, .clock, .regs, .mem, .units, .weights, .links, .serving, .turns, .lockage, .mgmt, .log, .outbox]
  | .drainDeadline .. => [.draws, .clock, .regs, .mem, .host, .queues, .cmds, .weights, .serving, .turns, .logbook, .log, .outbox]
  | .transferEnd .. => [.draws, .clock, .regs, .mem, .cmds, .units, .weights, .links, .colls, .turns, .lockage, .mgmt, .log, .outbox]
  | .turnFinalCommit .. => [.spine, .draws, .clock, .regs, .mem, .moving, .host, .queues, .cmds, .weights, .links, .serving, .colls, .trains, .turns, .logbook, .lockage, .keepsake, .panel, .mgmt, .log, .outbox]
  | .xferTimeout .. => [.clock, .turns, .lockage]
  | .scoreStep .. => [.draws, .clock, .power, .regs, .mem, .host, .units, .weights, .serving, .trains, .turns, .lockage, .log, .outbox]
  | .lifecycleResetDelay .. => [.spine, .draws, .clock, .power, .gov, .regs, .mem, .moving, .queues, .cmds, .hist, .weights, .links, .serving, .colls, .trains, .turns, .logbook, .lockage, .keepsake, .mgmt, .sec, .log, .outbox, .pcie]
  | .debugExpiry .. => [.clock, .regs, .keepsake, .mgmt, .sec, .log, .outbox, .pcie]
  | .authLockout .. => [.clock, .regs, .sec, .log, .outbox]
  | .lockoutExpiry .. => [.clock, .sec]
  | .logbookBufferFlush .. => [.draws, .clock, .regs, .mem, .weights, .logbook, .log, .outbox]
  | .interfaceRetrainDone .. => [.clock, .regs, .mem, .moving, .panel, .mgmt, .log, .outbox]
  | .eventMessageCollected .. => [.clock, .mgmt, .outbox]

/-! ## The invariant -/

/-- The epoch is never 0 (R137) and no incarnation is (R554). -/
def Spine.counts (x : Spine) : Prop :=
  x.epoch ≠ 0 ∧ (∀ p ∈ x.unitInc, p.2 ≠ 0) ∧ ∀ p ∈ x.funcInc, p.2 ≠ 0

/-- What every step keeps: the counts of the spine, the canonical form of device memory and of the register table, and that the event
log holds at most 4,096 records (R583). -/
def State.Inv (s : State) : Prop :=
  s.spine.counts ∧ s.mem.wf = true ∧ sortedKeys s.regs = true ∧ s.log.records.length ≤ 4096

/-! ## Commands of queues -/

/-- Command r is in flight as k, has the opcode, was accepted and has not started, and may start: with FENCE_BEFORE no older command of
its queue is in flight, no older command of its queue with FENCE_AFTER is in flight (R114), and nothing it needs is withheld: no commit
moved it away from an operation that still uses it (R142), no bank of it is still to be cleared (R260), no segment of it is in change
(R283) and no controller of it retrains (R312). A condition on the state and the command alone. -/
def State.Ready (s : State) (opcode : Nat) (r : CmdRef) (k : Cmd) : Prop :=
  s.cmd r = some k ∧ k.opcode = opcode ∧ k.stage = .ready ∧
    (∀ d ∈ s.earlier r, d.queue = k.queue → k.flags.testBit 0 = false ∧ d.flags.testBit 1 = false) ∧
    ∀ x ∈ k.needs, s.withheld k x = false

/-- A ready command for a pavé or engine runs at once: the device is ACTIVE and neither the governor nor a thermal limit pauses the beat
ring (R49, R68, R69), and what its scale-history slot holds is known (R202). -/
def State.ReadyOnRing (s : State) (opcode : Nat) (r : CmdRef) (k : Cmd) : Prop :=
  s.Ready opcode r k ∧ s.power.state = .active ∧ s.gov.pausedPower = false ∧ s.gov.pausedThermal = false ∧
    (k.histSlot = 0 ∨ k.scale.isSome = true)

/-- The state in which a command acts: it sees its host, the settings of its epoch, and the traffic counts of its berth. -/
def State.meets (s : State) (hv : HostView) (k : Cmd) : State := (s.sees hv).actAs k

/-- The state in which a command on the ring acts: the ring is no longer idle. -/
def State.rings (s : State) (hv : HostView) (k : Cmd) : State :=
  ({ s.meets hv k with power := { s.power with idleSince := s.now } } : State).streamed k

/-- The state in which an event on the ring acts: the ring is no longer idle. -/
def State.ringing (s : State) : State := { s with power := { s.power with idleSince := s.now } }

/-- Command r is finished, and its reply will carry the answer. -/
def State.Answered (s : State) (r : CmdRef) (a : Answer) : Prop :=
  ∃ k, s.cmd r = some k ∧ k.stage = .done ∧ k.status = a.status ∧ k.detail = a.detail ∧ k.result0 = a.result0 ∧ k.result1 = a.result1

/-- Command r is finished with a status. -/
def State.Ended (s : State) (r : CmdRef) (status : Nat) : Prop := ∃ k, s.cmd r = some k ∧ k.stage = .done ∧ k.status = status

/-- Command r has started and waits for the event that ends it. -/
def State.Waits (s : State) (r : CmdRef) : Prop := ∃ k, s.cmd r = some k ∧ k.stage = .running

/-- An outcome is a next state of which P holds. -/
def Reaches (o : Host.Outcome State Fault Refusal) (P : State → Prop) : Prop := ∃ t, o = .next t ∧ P t

/-- An SPDM request on a transport is taken up: the protocol is heard there, the device is not RETIRED, and no fence holds the transport. -/
def State.Converses (s : State) (t : Transport) : Prop := s.hears t .spdm = true ∧ s.retired = false ∧ s.spdmBusy t = false

/-- A collective command is accepted at its start (R396, R400, R423), and no other collective is open. -/
def State.TakesColl (s : State) (c : Cmd) (fails : List (Option Refuse)) : Prop :=
  theRefusal (s.collFails c ++ fails) = none ∧ (s.group c.group).aborts.contains c.collSeq = false ∧ s.colls = []

/-- Message m of a class is the one that port p takes up now, and k the open collective it belongs to, which a command opened. No other
is open, and their digests agree. -/
def State.Meets (s : State) (p cls : Nat) (m : Msg) (k : Coll) : Prop :=
  s.collMessage p cls = some m ∧ s.colls = [k] ∧ k.cmd.group = m.prefix.group ∧ k.cmd.collSeq = m.context ∧ k.ended = none ∧ k.owner = .command ∧
    m.prefix.digest = k.cmd.digest

/-- The state in which a collective takes a message up: its slots are free, the collective's deadline runs anew, and the settings are
those of its epoch. -/
def State.taken (s : State) (p : Nat) (m : Msg) (k : Coll) : State := ((s.consume p m).actAs k.cmd).updColl k.cmd fun k => { k with lastAt := s.now }

/-- A pipeline message has come on port p for the RECV of a training service, the device's only collective. -/
def State.PipeMeets (s : State) (n p : Nat) (m : Msg) (x : Coll) : Prop :=
  s.collMessage p 0x0104 = some m ∧ s.colls = [x] ∧ x.cmd.group = m.prefix.group ∧ x.cmd.collSeq = m.context ∧ x.ended = none ∧
    x.owner = .train n ∧ x.cmd.opcode = 0x5004 ∧ s.dirPort x.cmd = p

/-- The state in which that RECV has ended with the message's data in place. -/
def State.pipeTaken (s : State) (p : Nat) (m : Msg) (x : Coll) : State :=
  (((s.consume p m).actAs x.cmd).writeMem (x.cmd.param 56 8) (m.body.drop 16)).closeColl x 0 0 0

/-- A RECV is posted on every free slot of both pounds. -/
def Train.PoundsPosted (k : Train) : Prop :=
  k.cmd.poundDepth + k.forwards ≤ k.fwdPosted ∧ k.cmd.poundDepth + k.backwards ≤ k.bwdPosted

/-- Nothing is under way that a link which goes down would end: no collective, turn, load or repair, no message half come, and nothing
sent on port p that waits. -/
def State.LinkQuiet (s : State) (p : Nat) : Prop :=
  s.colls = [] ∧ s.turns = [] ∧ s.sets = [] ∧ s.adapters = [] ∧ s.repairs = [] ∧ (∀ q ∈ s.ports, q.2.opening = []) ∧
    (s.port p).opening = [] ∧ (s.port p).kept = [] ∧ (s.port p).waiting = []

end Sys2Proof.Machine
end

