-- ==== Sys2Proof/Certificates/Slice0/Obligations.lean ====
section
/-! DEFINITION. The statements for the provers. Each says its own rules in words in OBLIGATIONS.json. -/

open Sys2Proof Sys2Proof.Machine

/-- A step runs the command at the front of the queue on the queue's rest (04_command_packets.md, 00_scope.md). -/
def Obligations.StepRunsFront : Prop :=
  ∀ (s : State) (c : Instr) (rest : List Instr), s.pending = c :: rest → step s = exec c { s with pending := rest }

/-- On an empty queue the block idles and its clock counts one unit (R35, 00_scope.md). -/
def Obligations.EmptyQueueIdles : Prop :=
  ∀ s : State, s.pending = [] → step s = .next (s.at (s.now + 1))

/-- Every command answers a next state from every state (R129, R114). -/
def Obligations.EveryCommandIsAnswered : Prop :=
  ∀ (c : Instr) (s : State), ∃ t, exec c s = .next t

/-- The invariant holds of the state after reset (R137, R554, R583). -/
def Obligations.InvHoldsAtReset : Prop :=
  State.reset.Inv

/-- Every step keeps the invariant (R137, R554, R583). -/
def Obligations.InvIsKept : Prop :=
  ∀ s t : State, s.Inv → step s = .next t → t.Inv

/-- Every command leaves the parts of the state outside its footprint alone (R17, R49, R113, R140). -/
def Obligations.FrameOfEveryCommand : Prop :=
  ∀ (c : Instr) (s t : State), exec c s = .next t → SameBut (footprint c) s t

/-- The variant is fixed and IDENTITY reports it (R17). -/
def Obligations.VariantIsFixed : Prop :=
  (∀ (c : Instr) (s t : State), exec c s = .next t → t.spine.variant = s.spine.variant ∧ t.spine.serial = s.spine.serial) ∧
  (∀ (s : State) (fn i v : Nat), s.hostView fn "IDENTITY" i = some v → v % 16 = match s.spine.variant with | .l => 1 | .s => 2)

/-- The epoch is 1 after power-on, rises by one at each commit, and is never 0 (R137). -/
def Obligations.EpochCountsCommits : Prop :=
  State.reset.spine.epoch = 1 ∧
  (∀ (s t : State) (b : BootInputs), s.power.booting ≠ .full → (s.power.state = .idle ∨ s.power.state = .active) →
    exec (.coldReset b) s = .next t → t.spine.epoch = 1) ∧
  (∀ (s : State) (es : List Staged) (b : Bool),
    (s.commitEntries es b).spine.epoch = if s.spine.epoch = 0xFFFFFFFF then 1 else s.spine.epoch + 1) ∧
  (∀ s : State, s.serviceCommit.spine.epoch = if s.spine.epoch = 0xFFFFFFFF then 1 else s.spine.epoch + 1) ∧
  (∀ s t : State, s.Inv → step s = .next t → t.spine.epoch ≠ 0)

/-- COMMIT after another commit is refused with STALE_CHECK and the chamber returns to OPEN (R138). -/
def Obligations.StaleCheckIsRefused : Prop :=
  (∀ (s : State) (k : Cmd), s.chamber.state ≠ .committing → s.checkFails s.chamber.entries true = none →
    (s.check k).chamber.state = .checked ∧ (s.check k).checkedAt = s.commitCount) ∧
  (∀ (s : State) (es : List Staged) (b : Bool), (s.commitEntries es b).commitCount = s.commitCount + 1) ∧
  (∀ s : State, s.serviceCommit.commitCount = s.commitCount + 1) ∧
  (∀ (s : State) (r : CmdRef) (k : Cmd) (hv : HostView), s.Ready 0x1002 r k → s.chamber.state = .checked → s.commitCount ≠ s.checkedAt →
    Reaches (exec (.commit r hv) s) fun t => t.Ended r 0x410C ∧ t.chamber.state = .opened ∧ t.chamber.entries = s.chamber.entries ∧
      t.spine.epoch = s.spine.epoch ∧ t.commits = s.commits)

/-- An event that would raise the bucket above THRESHOLD zeroes it and writes a record; no other one does (R321). -/
def Obligations.BucketOverflowIsRecorded : Prop :=
  (∀ (s : State) (c : Nat), s.bucketThreshold c < s.bucketLevel c + 1 →
    (s.correctable c).bucketLevel c = 0 ∧ ((s.correctable c).regNat (evMem c)).testBit 1 = true ∧
      (s.correctable c).bucketOverflows c = (s.bucketOverflows c + 1) % 65536 ∧ (s.correctable c).log.next = s.log.next + 1 ∧
      ∃ r, (s.correctable c).log.records.getLast? = some r ∧ r.cause = 0x0301) ∧
  (∀ (s : State) (c : Nat), s.bucketLevel c + 1 ≤ s.bucketThreshold c → (s.correctable c).log = s.log) ∧
  (∀ (s : State) (c : Nat), s.ctrlFitted c = true → s.bucketLevel c + 1 ≤ s.bucketThreshold c →
    Reaches (exec (.interfaceParityRetry c) s) fun t => t.log = s.log) ∧
  (∀ (s : State) (addr lane c : Nat), s.controllerOf (s.phys addr) = some c → s.bucketLevel c + 1 ≤ s.bucketThreshold c →
    Reaches (exec (.correctedWriteBack addr lane) s) fun t => t.log = s.log)

/-- A full event log gives up its oldest INFO record, or its oldest, and interrupts when enabled (R583, R582). -/
def Obligations.FullLogDropsOldestInfo : Prop :=
  (∀ (s : State) (g : LogArg), s.log.records.length < 4096 →
    ∃ r, (s.logEvent g).log.records = s.log.records ++ [r] ∧ r.cause = g.cause ∧ r.cls = g.cls ∧ r.seq = s.log.next.toNat ∧
      (s.logEvent g).log.dropped = s.log.dropped) ∧
  (∀ (s : State) (g : LogArg), 4096 ≤ s.log.records.length →
    ∃ a x b r, s.log.records = a ++ x :: b ∧ (s.logEvent g).log.records = a ++ b ++ [r] ∧ r.cause = g.cause ∧ r.cls = g.cls ∧
      ((x.cls = 0 ∧ ∀ y ∈ a, y.cls ≠ 0) ∨ (a = [] ∧ ∀ y ∈ s.log.records, y.cls ≠ 0)) ∧
      (s.logEvent g).log.dropped = min (s.log.dropped + 1) 0xFFFF) ∧
  (∀ (s : State) (g : LogArg), (s.logEvent g).outbox =
    if (s.regNat (blkLogbook + 8)).testBit g.cls then s.outbox ++ [.interrupt 0 0] else s.outbox) ∧
  (∀ r : LogRecord, r.bytes.length = 64) ∧ State.reset.regNat (blkLogbook + 8) = 0xC

/-- The short control commands complete as Table 4-9 and their chapters give (R129, R106, R107, R118, R584, R63, R546, R552, R553). -/
def Obligations.ControlCommandsComplete : Prop :=
  -- nop
  (∀ s r k hv, s.Ready 0x0000 r k → Reaches (exec (.nop r hv) s) fun t => t.Answered r {}) ∧
  -- queueCreate
  (∀ s r k hv, s.Ready 0x0001 r k → lookup (k.param 32 1) s.queues = none → s.functionEnabled (k.param 33 1) = true →
    s.berthBoundAt k.epoch (k.param 34 1) (k.param 33 1) = true →
    s.basinRingOk k.epoch (k.param 40 8) (32 * 2 ^ k.param 36 1) = true → s.basinRingOk k.epoch (k.param 48 8) (32 * 2 ^ k.param 37 1) = true →
    Reaches (exec (.queueCreate r hv) s) fun t => t.Answered r {} ∧
      t.queues = insert (k.param 32 1)
        (newQueue (k.param 33 1) (k.param 34 1) (k.param 35 1) (k.param 36 1) (k.param 37 1) (k.param 38 2) (k.param 40 8) (k.param 48 8))
        s.queues) ∧
  -- queueDelete
  (∀ s r k hv, s.Ready 0x0002 r k → (lookup (k.param 32 1) s.queues).isSome = true → (∀ d ∈ s.inflight, d.queue ≠ k.param 32 1) →
    s.histWaits = [] →
    Reaches (exec (.queueDelete r hv) s) fun t => t.Answered r {} ∧ t.queues = erase (k.param 32 1) s.queues) ∧
  -- abort
  (∀ s r k hv d, s.Ready 0x0003 r k → k.aims = some d.seq → s.inflight.find? (fun x => x.seq == d.seq) = some d → s.cmd d.ref = some d →
    d.stage = .held → d.opcode / 0x1000 ≠ 5 → (s.meets hv k).pausedOn d = false → r ≠ d.ref →
    Reaches (exec (.abort r hv) s) fun t => t.Answered r {} ∧ t.Ended d.ref stAborted) ∧
  (∀ s r k hv n, s.Ready 0x0003 r k → k.aims = some n → s.inflight.find? (fun x => x.seq == n) = none →
    Reaches (exec (.abort r hv) s) fun t => t.Answered r {}) ∧
  (∀ s r k hv, s.Ready 0x0003 r k → k.aims = none → Reaches (exec (.abort r hv) s) fun t => t.Answered r { status := stNotFound }) ∧
  -- getLog
  (∀ s r k hv, s.Ready 0x0004 r k → (s.meets hv k).logPlaceFails k = none → (∀ x ∈ s.log.records, x.seq < k.param 32 4) →
    Reaches (exec (.getLog r hv) s) fun t => t.Answered r { result1 := s.log.next.toNat }) ∧
  -- marginPlan
  (∀ s r k hv, s.Ready 0x0008 r k →
    Reaches (exec (.marginPlan r hv) s) fun t => t.Waits r ∧ t.gov.planning = s.gov.planning ++ [(k.param 32 1, some r)]) ∧
  -- powerState
  (∀ s r k hv, s.Ready 0x0009 r k → k.param 32 1 = 2 → Reaches (exec (.powerState r hv) s) fun t => t.Answered r {}) ∧
  (∀ s r k hv, s.Ready 0x0009 r k → k.param 32 1 ≠ 2 → s.atRest k 0xFF = true →
    Reaches (exec (.powerState r hv) s) fun t => t.Answered r {} ∧ t.power.quiesced = true ∧ t.power.entering = some (k.param 32 1, s.now)) ∧
  -- resetUnit
  (∀ s r k hv, s.Ready 0x000A r k → isCompute (k.param 32 1) = true → (k.param 34 2 = 0 ∨ k.param 34 2 = k.result0) →
    (s.meets hv k).cmdOn (k.param 32 1) = none → s.colls = [] →
    Reaches (exec (.resetUnit r hv) s) fun t =>
      t.Answered r { result0 := (nextInc (incOf s.spine.unitInc (k.param 32 1))).toNat } ∧ t.spine.epoch = s.spine.epoch ∧
        t.spine.unitInc = raiseInc s.spine.unitInc (k.param 32 1)) ∧
  -- quiesce
  (∀ s r k hv, s.Ready 0x000B r k → k.param 32 1 = 1 → k.param 33 1 = 0xFF →
    Reaches (exec (.quiesce r hv) s) fun t => t.Answered r {} ∧ t.power.quiesced = false) ∧
  (∀ s r k hv, s.Ready 0x000B r k → k.param 32 1 ≠ 1 → k.param 33 1 = 0xFF → s.atRest k 0xFF = true →
    Reaches (exec (.quiesce r hv) s) fun t => t.Answered r {} ∧ t.power.quiesced = true)

/-- Service hold, resume, release and the panel's buttons act as chapter 3 gives (R88, R92, R87, R90). -/
def Obligations.PanelCommandsComplete : Prop :=
  -- serviceHold
  (∀ s r k hv, s.Ready 0x0005 r k → s.turns = [] →
    Reaches (exec (.serviceHold r hv) s) fun t => t.Answered r {} ∧ t.panel.hold = true) ∧
  -- serviceResume
  (∀ s r k hv, s.Ready 0x0006 r k → Reaches (exec (.serviceResume r hv) s) fun t => t.Answered r {} ∧ t.panel.hold = false) ∧
  -- reachRelease
  (∀ s r k hv, s.Ready 0x0007 r k → [SocketState.powered, .inService, .releaseRequested].contains (s.socket (k.param 32 1)).state = true →
    (s.meets hv k).reachMap.testBit (k.param 32 1) = false →
    Reaches (exec (.reachRelease r hv) s) fun t => t.Answered r {} ∧ (t.socket (k.param 32 1)).state = SocketState.released ∧
      t.mem = s.mem.forget (socketBase (k.param 32 1)) socketBytes) ∧
  -- locatePress
  (∀ s ms, s.powered = true → 50 ≤ ms →
    Reaches (exec (.locatePress ms) s) fun t => t.panel = { s.panel with locate := !s.panel.locate } ∧ (t.regNat evPanel).testBit 0 = true) ∧
  -- servicePress
  (∀ s ms now, s.powered = true → 50 ≤ ms → ms < 10000 → s.panel.hold = true →
    Reaches (exec (.servicePress ms now) s) fun t => t.panel = { s.panel with hold := false }) ∧
  (∀ s ms now, s.powered = true → 50 ≤ ms → ms < 10000 → s.panel.hold = false → s.panel.request.isSome = true →
    Reaches (exec (.servicePress ms now) s) fun t => t.panel = { s.panel with request := none }) ∧
  (∀ s ms now, s.powered = true → 50 ≤ ms → ms < 10000 → s.panel.hold = false → s.panel.request = none →
    Reaches (exec (.servicePress ms now) s) fun t => t.panel = { s.panel with request := some ((s.at now).now + 120 * second) } ∧
      (t.regNat evPanel).testBit 1 = true) ∧
  -- serviceLong
  (∀ s now, s.powered = true → s.turns = [] →
    Reaches (exec (.serviceLong now) s) fun t => t.panel = { s.panel with hold := true, request := none } ∧ (t.regNat evPanel).testBit 2 = true) ∧
  (∀ s now, s.powered = true → s.turns ≠ [] →
    Reaches (exec (.serviceLong now) s) fun t => t.panel = { s.panel with holdWaits := true } ∧ (t.regNat evPanel).testBit 2 = true) ∧
  -- serviceRequestLapse
  (∀ s now d, s.panel.request = some d → (s.at now).expired d = true → s.holdIssued = false →
    Reaches (exec (.serviceRequestLapse now) s) fun t => t.panel = { s.panel with request := none }) ∧
  -- locateCtrlWrite
  (∀ s v, s.pcieUp = true → Reaches (exec (.locateCtrlWrite v) s) fun t => t.panel = { s.panel with locate := v.toNat.testBit 0 })

/-- The coin cell, the Locket and the debug allowance act as chapters 1, 3, 10 and 21 give (R99, R38, R265, R269, R574). -/
def Obligations.CellServiceCompletes : Prop :=
  -- cellService
  (∀ s now, s.powered = true → s.power.pwrgd = true → s.panel.cellService = none →
    Reaches (exec (.cellService now) s) fun t =>
      t.panel = { s.panel with cellService := some ((s.at now).now + 600 * second), cellInserted := false } ∧ (t.regNat evPanel).testBit 3 = true) ∧
  -- cellInserted
  (∀ s mv now, s.panel.cellService.isSome = true → 2600 ≤ mv →
    Reaches (exec (.cellInserted mv now) s) fun t =>
      t.panel = { s.panel with coinMv := mv, cellService := none, cellInserted := false } ∧ (t.regNat evPanel).testBit 13 = true) ∧
  (∀ s mv now, s.panel.cellService.isSome = true → mv < 2600 →
    Reaches (exec (.cellInserted mv now) s) fun t =>
      t.panel = { s.panel with coinMv := mv, cellInserted := true } ∧ (t.regNat evPanel).testBit 11 = true) ∧
  -- cellServiceTimeout
  (∀ s now d, s.panel.cellService = some d → (s.at now).expired d = true → s.panel.cellInserted = false →
    Reaches (exec (.cellServiceTimeout now) s) fun t => t.panel = { s.panel with cellService := none } ∧ (t.regNat evPanel).testBit 12 = true) ∧
  -- coinCellMeasure
  (∀ s mv now, s.powered = true → (s.at now).expired (s.clock.cellFrom + 86400 * second) = true →
    Reaches (exec (.coinCellMeasure mv now) s) fun t => t.panel.coinMv = mv ∧ t.clock.cellFrom = (s.at now).now ∧
      (mv < 2600 → (t.regNat evPanel).testBit 11 = true) ∧ (mv < 1800 → (t.regNat evPanel).testBit 12 = true)) ∧
  -- locketParityError
  (∀ s hub, hub < 2 → s.power.state ≠ .off →
    Reaches (exec (.locketParityError hub) s) fun t => t.sec.locket = Locket.reset ∧ t.sec.debug = 0 ∧
      (s.sec.debug = 0 → t.sec.wipeCause = 6 ∧ t.keepsake.wipes.toNat = min (s.keepsake.wipes.toNat + 1) 0xFFFFFF)) ∧
  -- locketWipe
  (∀ s r k hv, s.Ready 0x9002 r k →
    Reaches (exec (.locketWipe r hv) s) fun t => t.Answered r { result0 := t.keepsake.wipes.toNat } ∧ t.sec.locket = Locket.reset ∧
      t.sec.debug = 0 ∧
      (s.sec.debug = 0 → t.sec.wipeCause = 4 ∧ t.keepsake.wipes.toNat = min (s.keepsake.wipes.toNat + 1) 0xFFFFFF)) ∧
  -- debugExpiry
  (∀ s now, s.sec.debug = 2 → (s.at now).expired s.sec.debugExpiry = true →
    Reaches (exec (.debugExpiry now) s) fun t => t.sec.debug = 0 ∧ t.sec.locket = Locket.reset ∧ t.sec.wipeCause = 5 ∧
      (t.regNat evSec).testBit 5 = true) ∧
  (∀ s now, s.sec.debug = 1 → (s.at now).expired s.sec.debugExpiry = true → s.fusesLeft = true →
    Reaches (exec (.debugExpiry now) s) fun t => t.sec.debug = 0 ∧ t.sec.locket = Locket.reset ∧
      t.sec.fuseLog = s.sec.fuseLog ++ [2] ∧ t.sec.resetDue = some ((s.at now).now + 10 * msec))

/-- A touch, an insertion, a removal and a fibre change act on a socket as Table 3-8 and R93 give (R91, R18, R93, R94). -/
def Obligations.TouchAndSocketEventsComplete : Prop :=
  -- padTouch
  (∀ s n ms, s.operating = true → n < 12 → 100 ≤ ms → (s.socket n).state = .powered →
    Reaches (exec (.padTouch n ms) s) fun t => t.socket n = { s.socket n with state := .released, touches := (s.socket n).touches + 1 } ∧
      t.mem = s.mem.forget (socketBase n) socketBytes) ∧
  (∀ s n ms, s.operating = true → n < 12 → 100 ≤ ms → (s.socket n).state = .inService →
    Reaches (exec (.padTouch n ms) s) fun t => t.socket n = { s.socket n with state := .releaseRequested, touches := (s.socket n).touches + 1 } ∧
      t.mem = s.mem ∧ (t.regNat evPanel).testBit 4 = true) ∧
  (∀ s n ms, s.operating = true → n < 12 → 100 ≤ ms → (s.socket n).state = .releaseRequested →
    Reaches (exec (.padTouch n ms) s) fun t =>
      t.socket n = { s.socket n with
        state := if s.reachMap.testBit n then .inService else .powered, touches := (s.socket n).touches + 1 }) ∧
  -- reachInsert
  (∀ s n m, s.operating = true → n < 12 → (s.socket n).state = .empty →
    Reaches (exec (.reachInsert n (some m)) s) fun t =>
      t.socket n = { s.socket n with state := if m.gib = 128 ∧ m.gbps = 136 then .powered else .refused } ∧ (t.regNat evPanel).testBit 5 = true) ∧
  (∀ s n, s.operating = true → n < 12 → (s.socket n).state = .empty →
    Reaches (exec (.reachInsert n none) s) fun t => t.socket n = { s.socket n with state := .refused } ∧ (t.regNat evPanel).testBit 5 = true) ∧
  -- reachRemove
  (∀ s n, s.operating = true → n < 12 → (s.socket n).state = .powered →
    Reaches (exec (.reachRemove n) s) fun t => t.socket n = { s.socket n with state := .empty } ∧
      t.mem = s.mem.forget (socketBase n) socketBytes ∧ (t.regNat evPanel).testBit 6 = true) ∧
  (∀ s n, s.operating = true → n < 12 → (s.socket n).state = .inService →
    Reaches (exec (.reachRemove n) s) fun t => t.socket n = { s.socket n with state := .lost } ∧
      t.mem = s.mem.forget (socketBase n) socketBytes ∧ (t.regNat evPanel).testBit 6 = true ∧ (t.regNat evPanel).testBit 7 = true) ∧
  -- fibreChange
  (∀ s i present now, s.powered = true → i < 24 → s.panel.fibres.testBit i ≠ present → (s.port (i / 3)).state ≠ 3 → (s.port (i / 3)).state ≠ 4 →
    Reaches (exec (.fibreChange i present now) s) fun t => t.panel.fibres = putBit s.panel.fibres i present ∧
      (t.regNat evFibre).testBit i = true ∧ (t.regNat evPanel).testBit 8 = true)

/-- Lid, oscillator and authentication lockout events act as R575, R96, R576, R35 and R563 give (R575, R96, R576, R35, R563). -/
def Obligations.LidEventsComplete : Prop :=
  -- lidOpen
  (∀ s, s.powered = true → s.power.pwrgd = true → s.panel.lidOpen = false →
    Reaches (exec .lidOpen s) fun t => t.panel.lidOpen = true ∧ t.sec.locket = Locket.reset ∧ t.sec.debug = 0 ∧
      (t.regNat evPanel).testBit 9 = true ∧ (t.regNat evSec).testBit 6 = true) ∧
  -- lidClose
  (∀ s, s.powered = true → s.panel.lidOpen = true →
    Reaches (exec .lidClose s) fun t => t.panel = { s.panel with lidOpen := false } ∧ (t.regNat evPanel).testBit 10 = true) ∧
  (∀ s, s.powered = false → s.panel.lidOpen = true →
    Reaches (exec .lidClose s) fun t => t.panel = { s.panel with lidOpen := false } ∧ t.regs = s.regs) ∧
  -- lidOpenUnpowered
  (∀ s, s.power.pwrgd = false → s.panel.lidOpen = false → 1800 ≤ s.panel.coinMv →
    Reaches (exec .lidOpenUnpowered s) fun t => t.panel = { s.panel with lidOpen := true } ∧ t.keepsake.ownerBlob = []) ∧
  (∀ s, s.power.pwrgd = false → s.panel.lidOpen = false → s.panel.coinMv < 1800 →
    Reaches (exec .lidOpenUnpowered s) fun t => t.panel = { s.panel with lidOpen := true } ∧ t.keepsake = s.keepsake) ∧
  -- oscillatorLost
  (∀ s, s.operating = true → s.clock.good = true → (∀ p, p < 8 → (s.port p).state ≠ 3 ∧ (s.port p).state ≠ 4) →
    Reaches (exec .oscillatorLost s) fun t => t.clock = { s.clock with good := false, fatal := true } ∧ t.log.next = s.log.next + 1 ∧
      ∀ p, p < 8 → (t.port p).state = if (s.port p).state = 6 ∨ (s.port p).state = 7 then (s.port p).state else 0) ∧
  -- authLockout
  (∀ s now, s.sec.lockout = none → 8 ≤ ((s.at now).recent (3600 * second) s.sec.failedAt).length →
    Reaches (exec (.authLockout now) s) fun t =>
      t.sec = { s.sec with lockout := some ((s.at now).now + 3600 * second), failedAt := [] } ∧ (t.regNat evSec).testBit 2 = true ∧
      t.log.next = s.log.next + 1) ∧
  -- lockoutExpiry
  (∀ s now d, s.sec.lockout = some d → (s.at now).expired d = true →
    Reaches (exec (.lockoutExpiry now) s) fun t => t.sec = { s.sec with lockout := none })

/-- Register accesses of BAR0 act as R7 to R10, R53 and the view registers give (R10, R53, R8, R9, R418, R361, R463, R225). -/
def Obligations.RegisterAccessCompletes : Prop :=
  -- registerWrite
  (∀ s fn addr v w, s.pcieUp = true → addr % 4 = 0 → (fn = 0 && inStaging addr) = false → s.wordFor fn addr = some w →
    w.row.access = .rw → ownRow w.row.name = false → w.row.wide = false → w.high = false → w.row.name ≠ "UNIT_VECTOR" →
    Reaches (exec (.registerWrite fn addr v) s) fun t =>
      t.reg (storeAddress fn w addr) = v &&& BitVec.ofNat 32 w.mask ∧ ∀ a, a ≠ storeAddress fn w addr → t.reg a = s.reg a) ∧
  -- w1cClear
  (∀ s fn addr v w, s.pcieUp = true → regWord addr = some w → w.row.access = .w1c → s.visible fn addr = true →
    Reaches (exec (.w1cClear fn addr v) s) fun t =>
      t.reg addr = BitVec.ofNat 32 (clearedBy (s.regNat addr) (v.toNat &&& w.mask)) ∧ ∀ a, a ≠ addr → t.reg a = s.reg a) ∧
  -- wideLowWordRead
  (∀ s fn addr w, s.pcieUp = true → addr % 4 = 0 → s.wordFor fn addr = some w → s.isFree w.row = false → w.row.wide = true → w.high = false →
    Reaches (exec (.wideLowWordRead fn addr) s) fun t =>
      t.outbox = s.outbox ++ [Out.readData (s.wordValue fn addr)] ∧
        lookup (holdKey fn addr) t.heldHigh = some (BitVec.ofNat 32 (s.wordValue fn (addr + 4)))) ∧
  -- wideHighWordWrite
  (∀ s fn addr v w, s.pcieUp = true → s.wordFor fn addr = some w → w.high = true → w.row.access = .lk →
    Reaches (exec (.wideHighWordWrite fn addr v) s) fun t =>
      t.heldLow = erase (holdKey fn (addr - 4)) s.heldLow ∧ t.regs = s.regs ∧ t.log.next = s.log.next + 1) ∧
  (∀ s fn addr v w low, s.pcieUp = true → s.wordFor fn addr = some w → w.high = true → w.row.access = .dbg → w.row.name ≠ "ACC_VIEW" → 4 ≤ addr →
    s.sec.debug ≠ 0 → lookup (holdKey fn (addr - 4)) s.heldLow = some low →
    Reaches (exec (.wideHighWordWrite fn addr v) s) fun t =>
      t.heldLow = erase (holdKey fn (addr - 4)) s.heldLow ∧ t.reg addr = v &&& BitVec.ofNat 32 w.mask ∧
        t.reg (addr - 4) = low &&& BitVec.ofNat 32 (w.row.defined w.index) ∧ ∀ a, a ≠ addr → a ≠ addr - 4 → t.reg a = s.reg a) ∧
  -- unalignedBar0Access
  (∀ s fn addr size write, s.pcieUp = true → misaligned addr size = true →
    Reaches (exec (.unalignedBar0Access fn addr size write) s) fun t =>
      t.regs = s.regs ∧ t.log.next = s.log.next + 1 ∧ (write = false → t.outbox.getLast? = some (Out.readData 0))) ∧
  -- collRelease
  (∀ s g, s.pcieUp = true → g < 8 → Reaches (exec (.collRelease (BitVec.ofNat 32 (2 ^ g))) s) fun t =>
    (t.group g).retained = [] ∧ ∀ n, n ≠ g → t.group n = s.group n) ∧
  -- adapterViewRead
  (∀ s, s.pcieUp = true → Reaches (exec .adapterViewRead s) fun t =>
    t.adapterView = s.adapterRecord (field (s.regNat (blkKeeper + 0x1A00)) 9 0) ∧
      t.outbox = s.outbox ++ [Out.readData ((s.adapterRecord (field (s.regNat (blkKeeper + 0x1A00)) 9 0)).headD 0).toNat]) ∧
  -- manifestViewRead
  (∀ s, s.pcieUp = true → Reaches (exec .manifestViewRead s) fun t =>
    t.manifestView = ((List.range 32).map fun i =>
      BitVec.ofNat 32 (fieldAt (s.entryBytes (field (s.regNat (blkManifest + 0x50)) 13 0)) (4 * i) 4)) ∧
      t.outbox = s.outbox ++ [Out.readData (fieldAt (s.entryBytes (field (s.regNat (blkManifest + 0x50)) 13 0)) 0 4)]) ∧
  -- accViewRead
  (∀ s off a, s.pcieUp = true → off % 4 = 0 → s.accView off = some a → s.parityIn a 4 = [] → s.noteRead 4 a 4 = s →
    Reaches (exec (.accViewRead off) s) fun t => t.outbox = s.outbox ++ [Out.readData (s.natAt a 4)] ∧ t.mem = s.mem) ∧
  (∀ s off, s.pcieUp = true → off % 4 = 0 → s.accView off = none →
    Reaches (exec (.accViewRead off) s) fun t => t.outbox = s.outbox ++ [Out.readData 0]) ∧
  (∀ s off, s.pcieUp = true → off % 4 ≠ 0 →
    Reaches (exec (.accViewRead off) s) fun t => t.outbox.getLast? = some (Out.readData 0) ∧ t.log.next = s.log.next + 1 ∧ t.mem = s.mem)

/-- ASSAY clear, HISTORY advance and HISTORY reset act as R198 and R202 give (R198, R202). -/
def Obligations.HistoryAndAssayControlsComplete : Prop :=
  -- assayClear
  (∀ s slot v, s.pcieUp = true → v.toNat.testBit 0 = true → 1 ≤ slot → slot ≤ 255 →
    Reaches (exec (.assayClear slot v) s) fun t =>
      (∀ i, i < 8 → t.reg (assayBase slot + 4 * i) = 0) ∧ ∀ a, (∀ i, i < 8 → a ≠ assayBase slot + 4 * i) → t.reg a = s.reg a) ∧
  -- histAdvance
  (∀ s slot v, s.pcieUp = true → 1 ≤ slot → slot ≤ 63 → v.toNat.testBit 0 = true → v.toNat.testBit 1 = false →
    (s.histConfig slot).testBit 27 = false → s.inflight = [] → s.histWaits = [] →
    Reaches (exec (.histAdvance slot v) s) fun t => t.regs = (s.histAdvance slot).regs ∧ t.histWaits = []) ∧
  (∀ s slot v, s.pcieUp = true → 1 ≤ slot → slot ≤ 63 → v.toNat.testBit 0 = true → v.toNat.testBit 1 = false →
    (s.histConfig slot).testBit 27 = false → (∃ c ∈ s.inflight, c.histSlot = slot ∧ c.epoch ≠ 0) → s.histWaits = [] →
    Reaches (exec (.histAdvance slot v) s) fun t => t.regs = s.regs ∧ t.histWaits = [(⟨slot, true, s.naming slot⟩ : HistWait)]) ∧
  -- histReset
  (∀ s slot v, s.pcieUp = true → 1 ≤ slot → slot ≤ 63 → v.toNat.testBit 0 = false → v.toNat.testBit 1 = true →
    (s.histConfig slot).testBit 27 = false → s.inflight = [] → s.histWaits = [] →
    Reaches (exec (.histReset slot v) s) fun t => t.regs = (s.histReset slot).regs ∧ t.histWaits = [])

/-- BAR2 reads, writes and atomics, and ATOMIC, act on memory as R74, R76, R289 and R293 give (R74, R293, R289). -/
def Obligations.Bar2AccessCompletes : Prop :=
  -- bar2Read
  (∀ s fn off len a, s.pcieUp = true → s.bar2Place fn off len = some a → s.readStatus a len = none →
    Reaches (exec (.bar2Read fn off len) s) fun t =>
      t.outbox = s.outbox ++ [Out.readBytes (s.bytesAt a len)] ∧ ∀ p, t.mem.get p = s.mem.get p) ∧
  -- bar2Write
  (∀ s fn off bytes a, s.pcieUp = true → s.bar2Place fn off bytes.length = some a → s.inWeights a bytes.length = false →
    s.bookHolds (placeHub s.spine.variant a) (8 + bytes.length) = false →
    Reaches (exec (.bar2Write fn off bytes) s) fun t => t.mem = ((s.actBar2 fn).writeMem a bytes).mem ∧
      ∀ p, (∀ i, i < bytes.length → p ≠ ((s.actBar2 fn).noteMerge a bytes.length).phys (a + i)) → t.mem.get p = s.mem.get p) ∧
  -- bar2Atomicop
  (∀ s fn off op operands a n, s.pcieUp = true → op ≠ .cas → n = operands.length → (n = 4 ∨ n = 8) → s.bar2Place fn off n = some a → a % n = 0 →
    s.inWeights a n = false → s.bookHolds (placeHub s.spine.variant a) (8 + n) = false → (s.actBar2 fn).readStatus a n = none →
    Reaches (exec (.bar2Atomicop fn off op operands) s) fun t => t.outbox.getLast? = some (Out.readBytes (leBytes n ((s.actBar2 fn).natAt a n))) ∧
      (∀ p, t.mem.get p = (((s.actBar2 fn).tally false true a n).writeMem a
        (leBytes n (atomicValue (atomicCode op) (if n = 8 then 1 else 0) ((s.actBar2 fn).natAt a n) (fieldAt operands 0 n) (fieldAt operands 0 n)))).mem.get p) ∧
      ∀ p, (∀ i, i < n → p ≠ (((s.actBar2 fn).tally false true a n).noteMerge a n).phys (a + i)) → t.mem.get p = s.mem.get p) ∧
  -- atomic
  (∀ s r k hv, s.Ready 0x4004 r k → theRefusal ((s.meets hv k).atomicFails k) = none →
    (s.meets hv k).readStatus (k.param 40 8) (24 * k.param 36 4) = none →
    (∀ e ∈ ((s.meets hv k).tally false true (k.param 40 8) (24 * k.param 36 4)).atomicTable k, ((s.meets hv k).tally false true (k.param 40 8) (24 * k.param 36 4)).atomicEntryFails k (fieldAt e.2 0 8) = none) →
    Reaches (exec (.atomic r hv) s) fun t =>
      t.mem = (((s.meets hv k).tally false true (k.param 40 8) (24 * k.param 36 4)).atomicAll k (((s.meets hv k).tally false true (k.param 40 8) (24 * k.param 36 4)).atomicTable k)).1.mem ∧
      t.Answered r (match (((s.meets hv k).tally false true (k.param 40 8) (24 * k.param 36 4)).atomicAll k (((s.meets hv k).tally false true (k.param 40 8) (24 * k.param 36 4)).atomicTable k)).2 with
        | none => {}
        | some (st, i) => { status := st, result1 := i })) ∧
  (∀ s r k hv e n u, s.Ready 0x4004 r k → theRefusal ((s.meets hv k).atomicFails k) = none → u = ((s.meets hv k).tally false true (k.param 40 8) (24 * k.param 36 4)) →
    (s.meets hv k).readStatus (k.param 40 8) (24 * k.param 36 4) = none → u.atomicTable k = [(0, e)] →
    u.atomicEntryFails k (fieldAt e 0 8) = none → k.param 48 8 = 0 → n = (if k.param 33 1 = 1 then 8 else 4) →
    u.readStatus (fieldAt e 0 8) n = none → (u.tally false true (fieldAt e 0 8) n).writeStatus (fieldAt e 0 8) n = none →
    Reaches (exec (.atomic r hv) s) fun t => t.Answered r {} ∧
      (∀ p, t.mem.get p = ((u.tally false true (fieldAt e 0 8) n).writeMem (fieldAt e 0 8) (leBytes n
        (atomicValue (k.param 32 1) (k.param 33 1) (u.natAt (fieldAt e 0 8) n) (fieldAt e 8 8) (fieldAt e 16 8)))).mem.get p) ∧
      ∀ p, (∀ i, i < n → p ≠ ((u.tally false true (fieldAt e 0 8) n).noteMerge (fieldAt e 0 8) n).phys (fieldAt e 0 8 + i)) →
        t.mem.get p = s.mem.get p)

/-- MOVE, INIT_FILL and the narrow moves copy the bytes their parameters name (R297, R305, R295). -/
def Obligations.MoveCommandsComplete : Prop :=
  -- move
  (∀ s r k hv bs, s.Ready 0x4000 r k → theRefusal ((s.meets hv k).moveFails k) = none →
    (s.meets hv k).readStatus (k.param 40 8) (64 * k.param 32 4) = none →
    bs = ((List.range (k.param 32 4)).map fun i => ((s.meets hv k).tally false true (k.param 40 8) (64 * k.param 32 4)).bytesAt (k.param 40 8 + 64 * i) 64).map
      (readBarge (tableTile ((List.range (k.param 32 4)).map fun i => ((s.meets hv k).tally false true (k.param 40 8) (64 * k.param 32 4)).bytesAt (k.param 40 8 + 64 * i) 64))) →
    ((s.meets hv k).tally false true (k.param 40 8) (64 * k.param 32 4)).firstBadBarge k 0 bs = none →
    Reaches (exec (.move r hv) s) fun t =>
      t.mem = ((((s.meets hv k).tally false true (k.param 40 8) (64 * k.param 32 4)).recordBarges k bs).runBarges (bitOf (k.param 36 1) 0) ((List.range (k.param 32 4)).zip bs)).1.mem ∧
      t.host = ((((s.meets hv k).tally false true (k.param 40 8) (64 * k.param 32 4)).recordBarges k bs).runBarges (bitOf (k.param 36 1) 0) ((List.range (k.param 32 4)).zip bs)).1.host ∧
      t.Answered r (match ((((s.meets hv k).tally false true (k.param 40 8) (64 * k.param 32 4)).recordBarges k bs).runBarges (bitOf (k.param 36 1) 0) ((List.range (k.param 32 4)).zip bs)).2 with
        | none => {}
        | some (st, i) => { status := st, result1 := i })) ∧
  -- initFill
  (∀ s r k hv, s.Ready 0x4001 r k → theRefusal ((s.meets hv k).fillFails k) = none → k.param 40 8 = 0 →
    Reaches (exec (.initFill r hv) s) fun t => t.Answered r {} ∧ t.mem = s.mem) ∧
  (∀ s r k hv, s.Ready 0x4001 r k → theRefusal ((s.meets hv k).fillFails k) = none → k.param 40 8 ≠ 0 →
    (s.meets hv k).touchesLost (k.param 32 8) (k.param 40 8) = false →
    Reaches (exec (.initFill r hv) s) fun t =>
      t.Answered r { status := if (s.meets hv k).touchesFailed (k.param 32 8) (k.param 40 8) then stUncorrectable
        else if ((s.meets hv k).fillLost (k.param 32 8) (k.param 40 8)).isEmpty then stSuccess else stPoisoned } ∧
      t.mem.poison = ((s.meets hv k).fillLost (k.param 32 8) (k.param 40 8) ++
        ((s.meets hv k).fillPattern (k.param 32 8) (k.param 40 8) (BitVec.ofNat 64 (k.param 48 8))).mem.poison).dedup ∧
      ∀ p, t.mem.get p = ((s.meets hv k).fillPattern (k.param 32 8) (k.param 40 8) (BitVec.ofNat 64 (k.param 48 8))).mem.get p) ∧
  -- narrowGather
  (∀ s r k hv, s.Ready 0x4002 r k → theRefusal ((s.meets hv k).narrowFails k) = none → k.narrow.count = 0 →
    Reaches (exec (.narrowGather r hv) s) fun t => t.Answered r {} ∧ t.mem = s.mem) ∧
  (∀ s r k hv, s.Ready 0x4002 r k → theRefusal ((s.meets hv k).narrowFails k) = none → k.narrow.count ≠ 0 →
    (s.meets hv k).readStatus k.narrow.index (k.narrow.idxBytes * k.narrow.count) = none →
    (∀ e ∈ (s.meets hv k).elements k.narrow, (s.meets hv k).elementFails k k.narrow e.2 = none) →
    narrowMeets k.narrow ((s.meets hv k).elements k.narrow) = false →
    Reaches (exec (.narrowGather r hv) s) fun t =>
      t.mem = (((s.meets hv k).tally false true k.narrow.index (k.narrow.idxBytes * k.narrow.count)).narrowAll k.narrow ((s.meets hv k).elements k.narrow)).1.mem ∧
      t.Answered r (match (((s.meets hv k).tally false true k.narrow.index (k.narrow.idxBytes * k.narrow.count)).narrowAll k.narrow ((s.meets hv k).elements k.narrow)).2 with
        | none => {}
        | some (st, i) => { status := st, result1 := i })) ∧
  -- narrowScatter
  (∀ s r k hv, s.Ready 0x4003 r k → theRefusal ((s.meets hv k).narrowFails k) = none → k.narrow.count = 0 →
    Reaches (exec (.narrowScatter r hv) s) fun t => t.Answered r {} ∧ t.mem = s.mem) ∧
  (∀ s r k hv, s.Ready 0x4003 r k → theRefusal ((s.meets hv k).narrowFails k) = none → k.narrow.count ≠ 0 →
    (s.meets hv k).readStatus k.narrow.index (k.narrow.idxBytes * k.narrow.count) = none →
    (∀ e ∈ (s.meets hv k).elements k.narrow, (s.meets hv k).elementFails k k.narrow e.2 = none) →
    narrowMeets k.narrow ((s.meets hv k).elements k.narrow) = false →
    Reaches (exec (.narrowScatter r hv) s) fun t =>
      t.mem = (((s.meets hv k).tally false true k.narrow.index (k.narrow.idxBytes * k.narrow.count)).narrowAll k.narrow ((s.meets hv k).elements k.narrow)).1.mem ∧
      t.Answered r (match (((s.meets hv k).tally false true k.narrow.index (k.narrow.idxBytes * k.narrow.count)).narrowAll k.narrow ((s.meets hv k).elements k.narrow)).2 with
        | none => {}
        | some (st, i) => { status := st, result1 := i }))

/-- Doorbells, HELLO, queue reset and queue fence act as R108 to R126 give (R108, R110, R111, R124, R126). -/
def Obligations.QueueRegistersAct : Prop :=
  -- sqTailWrite
  (∀ s fn q v now k, s.pcieUp = true → (lookup fn s.hellos).isSome = true → s.pageLive fn q = some k → k.badTail v.toNat = false →
    Reaches (exec (.sqTailWrite fn q v now) s) fun t => t.queues = insert q { k with tail := v.toNat } s.queues) ∧
  -- cqHeadWrite
  (∀ s fn q v now k, s.pcieUp = true → (lookup fn s.hellos).isSome = true → s.pageLive fn q = some k → k.badHead v.toNat = false → s.reports = [] →
    Reaches (exec (.cqHeadWrite fn q v now) s) fun t => t.queues = insert q { k with cqHead := v.toNat } s.queues) ∧
  -- queueReset
  (∀ s fn q k, s.pcieUp = true → s.pageLive fn q = some k → s.inflightOf q = 0 →
    Reaches (exec (.queueReset fn q) s) fun t => lookup q t.queues = some { k with
      refusedAt := [], badAt := [], head := 0, tail := 0, cqHead := 0, cqNext := 0, phase := true, status := .active }) ∧
  -- queueFence
  (∀ s q now k, lookup q s.queues = some k → (s.at now).fenceDue k = true → k.status ≠ .fenced →
    Reaches (exec (.queueFence q now) s) fun t => lookup q t.queues = some { k with status := .fenced, refusedAt := [], badAt := [] }) ∧
  -- hello
  (∀ s fn v, s.pcieUp = true → v.toNat.testBit 0 = true → s.power.booting = .none → s.helloFails fn (s.helloRequest fn) = none →
    Reaches (exec (.hello fn v) s) fun t =>
      t.hellos = insert fn (⟨min (fieldAt (s.helloRequest fn) 2 2) 0x0100, fieldAt (s.helloRequest fn) 8 4 &&& deviceFeatures⟩ : Hello) s.hellos ∧
        t.reg (helloBase fn + 0x200) = 4)

/-- Packets are fetched, commands start, time out and are answered as R114 to R123 give (R114, R117, R123, R115). -/
def Obligations.QueueServiceCompletes : Prop :=
  -- fencedCommandStart
  (∀ s c now d, s.cmd c = some d → d.stage = .held → fenceHolds (s.earlier c) d = false →
    Reaches (exec (.fencedCommandStart c now) s) fun t => t.cmd c = some { d with stage := .ready }) ∧
  -- commandTimeout
  (∀ s c now d dl, s.cmd c = some d → d.deadline = some dl → (s.at now).expired dl = true → (s.at now).pausedOn d = false →
    d.stage = .held → d.opcode / 0x1000 ≠ 5 →
    Reaches (exec (.commandTimeout c now) s) fun t => t.Answered c { status := stTimedOut }) ∧
  -- packetFetch
  (∀ s q now hv k z p, s.pcieUp = true → z = (s.at now).sees hv → lookup q s.queues = some k → basinRing k.sqBase = false →
    z.fetchable q k = true → z.marking = false → z.inflight.length < 4096 → k.round < k.weight →
    (z.slots k k.head 1).2 = false → p = (z.slots k k.head (fieldAt (z.slots k k.head 1).1 2 1)).1 →
    (z.slots k k.head (fieldAt (z.slots k k.head 1).1 2 1)).2 = false →
    1 ≤ fieldAt (z.slots k k.head 1).1 2 1 → fieldAt (z.slots k k.head 1).1 2 1 ≤ 16 →
    z.quiesceStops q k (fieldAt p 0 2) (fieldAt p 14 1) = false → z.bookHolds (queueHub q) p.length = false →
    z.packetFails deepChecks q k p = none → s.cmd ⟨q, fieldAt p 4 4⟩ = none → (∀ d ∈ s.inflight, d.queue = q → d.opcode ≠ 0x1002) →
    z.acceptFails k p = none →
    Reaches (exec (.packetFetch q now hv) s) fun t => ∃ c, t.inflight = s.inflight ++ [c] ∧ c.queue = q ∧ c.tag = fieldAt p 4 4 ∧
      c.opcode = fieldAt p 0 2 ∧ c.fn = k.fn ∧ c.packet = p ∧ c.seq = s.fetches ∧ c.epoch = s.spine.epoch.toNat ∧
      c.stage = if fenceHolds s.inflight c then .held else .ready) ∧
  -- commandCompletion
  (∀ s c now hv d k, s.doneCmd c = some d → lookup d.queue s.queues = some k → k.status = .active → k.cqFull = false →
    basinRing k.cqBase = false → ((s.at now).sees hv).hostFails (k.cqBase + k.cqNext * 32) 32 = false → s.recording = false →
    (∀ x ∈ s.inflight, x.stage ≠ .waiting) →
    Reaches (exec (.commandCompletion c now hv) s) fun t =>
      lookup d.queue t.queues = some { k with
        cqNext := if k.cqNext + 1 == 2 ^ k.cqLog2 then 0 else k.cqNext + 1, phase := if k.cqNext + 1 == 2 ^ k.cqLog2 then !k.phase else k.phase } ∧
      t.host = (((s.at now).sees hv).hostWrite (k.cqBase + k.cqNext * 32) (((s.at now).sees hv).reply d k)).host)

/-- The lockage commands move the chamber between its states as Table 5-4 gives (R131, R135, R139, R133, R132). -/
def Obligations.LockageCommandsComplete : Prop :=
  -- stage
  (∀ s r k hv, s.Ready 0x1000 r k → s.chamber.state ≠ .committing →
    Reaches (exec (.stage r hv) s) fun t => t.Answered r {} ∧ t.chamber.state = ChamberState.opened ∧ t.chamber.checkedEpoch = 0 ∧
      t.chamber.words = (s.putChamber (4 * k.param 32 2)
        ((List.range (4 * k.param 34 1)).map fun i => BitVec.ofNat 32 (k.param (40 + 4 * i) 4))).chamber.words) ∧
  -- check
  (∀ s r k hv, s.Ready 0x1001 r k → s.chamber.state ≠ .committing → (s.meets hv k).checkFails s.chamber.entries true = none →
    Reaches (exec (.check r hv) s) fun t => t.Answered r { result0 := s.spine.epoch.toNat } ∧ t.chamber.state = ChamberState.checked ∧
      t.chamber.checkedEpoch = s.spine.epoch.toNat ∧ t.chamber.words = s.chamber.words ∧ t.spine.epoch = s.spine.epoch) ∧
  -- commit
  (∀ s r k hv, s.Ready 0x1002 r k → s.chamber.state = ChamberState.checked → s.commitCount = s.checkedAt →
    Reaches (exec (.commit r hv) s) fun t => t.Waits r ∧ t.chamber.state = ChamberState.committing ∧
      (t.commits.map fun (w : WaitingCommit) => w.owner) = (s.commits.map fun (w : WaitingCommit) => w.owner) ++ [CommitFor.host r]) ∧
  -- abandon
  (∀ s r k hv, s.Ready 0x1003 r k → s.chamber.state ≠ .committing →
    Reaches (exec (.abandon r hv) s) fun t => t.Answered r {} ∧ t.chamber.state = ChamberState.empty ∧ t.chamber.words = []) ∧
  -- commitInstant
  (∀ s now hv r w rest, s.commits = w :: rest → w.owner = .host r → ((s.at now).sees hv).olderGoneBut (some r) = true →
    s.commitCount = s.checkedAt →
    Reaches (exec (.commitInstant now hv) s) fun t => t.spine.epoch = nextEpoch s.spine.epoch ∧ t.chamber.state = ChamberState.empty ∧ t.chamber.words = [] ∧
      ∀ k, t.cmd r = some k → k.stage = .done ∧ k.status = stSuccess ∧ k.result0 = (nextEpoch s.spine.epoch).toNat) ∧
  -- chamberStatusRead
  (∀ s, s.pcieUp = true → Reaches (exec (.chamberStatusRead 0) s) fun t =>
    t.outbox = s.outbox ++ [Out.readData (s.wordValue 0 (blkLockage + 4))] ∧ t.chamber = s.chamber) ∧
  -- stagingWindowWrite
  (∀ s addr v, s.pcieUp = true → addr % 4 = 0 → inStaging addr = true → s.chamber.state ≠ .committing →
    Reaches (exec (.stagingWindowWrite addr v) s) fun t => t.chamber.state = ChamberState.opened ∧ t.chamber.checkedEpoch = 0 ∧
      t.chamber.words = if v = 0 then erase ((addr - 0x100000) / 4) s.chamber.words else insert ((addr - 0x100000) / 4) v s.chamber.words)

/-- Enlon ports are held, released, retrained and brought up as chapter 14 gives (R382, R390, R374, R368, R387, R369). -/
def Obligations.PortControlsComplete : Prop :=
  -- portRetrain
  (∀ s p, s.pcieUp = true → p < 8 → (s.port p).state = 0 → s.mayBringUp p = true →
    Reaches (exec (.portRetrain p 1) s) fun t => (t.port p).state = 2 ∧ (t.port p).phase = 1) ∧
  -- portUnfence
  (∀ s p, s.pcieUp = true → p < 8 → (s.port p).state = 6 →
    Reaches (exec (.portUnfence p 2) s) fun t => (t.port p).state = s.restState p ∧ (t.port p).sawAbsent = false) ∧
  -- portHold
  (∀ s p, s.pcieUp = true → p < 8 → [0, 1, 2, 5, 6].contains (s.port p).state = true →
    Reaches (exec (.portHold p 4) s) fun t => (t.port p).state = 7 ∧ (t.port p).fencedUnder = ((s.port p).state == 6)) ∧
  -- portRelease
  (∀ s p, s.pcieUp = true → p < 8 → (s.port p).state = 7 →
    Reaches (exec (.portRelease p 8) s) fun t => (t.port p).state = (if (s.port p).fencedUnder then 6 else s.restState p) ∧ (t.port p).fencedUnder = false) ∧
  -- bringUpStart
  (∀ s p now, (s.at now).mayBringUp p = true → ((s.port p).state = 0 ∨ (s.port p).state = 1) → (s.port p).retryAt = none →
    Reaches (exec (.bringUpStart p now) s) fun t => (t.port p).state = 2 ∧ (t.port p).phase = 1 ∧ (t.port p).since = (s.at now).now) ∧
  -- laneJudgeDone
  (∀ s p good now, good < 2 ^ 64 → (s.port p).state = 2 → (s.port p).phase = 1 → (s.port p).since + msec ≤ (s.at now).now → (s.port p).widthSeen = false →
    widthOf good ≠ 0 →
    Reaches (exec (.laneJudgeDone p good now) s) fun t => (t.port p).phase = 2 ∧ (t.port p).rxWidth = widthOf good) ∧
  -- laneFail
  (∀ s p lane now, (s.port p).state = 3 → (s.port p).retrain = none → lane < 64 → (s.reg64 (blkPort p + 0x20)).testBit lane = true →
    min (widthOf (putBit (s.reg64 (blkPort p + 0x20)) lane false)) (s.port p).rxWidth ≠ 0 →
    Reaches (exec (.laneFail p lane now) s) fun t =>
      (t.port p).rxWidth = min (widthOf (putBit (s.reg64 (blkPort p + 0x20)) lane false)) (s.port p).rxWidth) ∧
  -- identTimeout
  (∀ s p now, (s.port p).state = 2 → (s.port p).phase ≤ 3 → (s.port p).since + 100 * msec ≤ (s.at now).now →
    Reaches (exec (.identTimeout p now) s) fun t => (t.port p).state = 0 ∧ (t.port p).retryAt = some ((s.at now).now + second)) ∧
  -- bringUpRetry
  (∀ s p now x, (s.port p).retryAt = some x → x ≤ (s.at now).now → (s.at now).mayBringUp p = true → ((s.port p).state = 0 ∨ (s.port p).state = 1) →
    Reaches (exec (.bringUpRetry p now) s) fun t => (t.port p).state = 2 ∧ (t.port p).phase = 1 ∧ (t.port p).retryAt = none)

/-- A flit received in sequence acts on its port as chapter 14 gives for its kind (R388, R372, R384, R382, R380, R381). -/
def Obligations.FlitsAreTakenUp : Prop :=
  -- widthFlit
  (∀ s p bytes now, (s.at now).receives p = true → flitGood bytes = true → (flitOf bytes).kind = kindWidth → malformed (flitOf bytes) = false →
    (s.port p).state = 2 → (s.port p).phase = 1 → widthOf (fieldAt (flitOf bytes).payload 0 8) ≠ 0 →
    Reaches (exec (.widthFlit p bytes now) s) fun t => (t.port p).widthSeen = true ∧ (t.port p).txWidth = widthOf (fieldAt (flitOf bytes).payload 0 8)) ∧
  -- identFlit
  (∀ s p bytes now, (s.at now).receives p = true → flitGood bytes = true → (flitOf bytes).kind = kindIdent → malformed (flitOf bytes) = false →
    (s.port p).state = 2 → (s.port p).phase = 3 → (flitOf bytes).seq = (s.port p).expect → (s.port p).expect < 65536 →
    (flitOf bytes).flags = 0 → (flitOf bytes).credit = 0 → (s.port p).waiting = [] → s.colls = [] →
    agreedRevision ((s.at now).ownIdent p) (identOf (flitOf bytes).payload) ≠ none →
    Reaches (exec (.identFlit p bytes now) s) fun t => (t.port p).phase = 4 ∧ (t.port p).identity = some (identOf (flitOf bytes).payload)) ∧
  (∀ s p bytes now, (s.at now).receives p = true → flitGood bytes = true → (flitOf bytes).kind = kindIdent → malformed (flitOf bytes) = false →
    (s.port p).state = 2 → (s.port p).phase = 3 → (flitOf bytes).seq = (s.port p).expect → (s.port p).expect < 65536 →
    (flitOf bytes).flags = 0 → (flitOf bytes).credit = 0 → (s.port p).waiting = [] → s.colls = [] →
    agreedRevision ((s.at now).ownIdent p) (identOf (flitOf bytes).payload) = none →
    Reaches (exec (.identFlit p bytes now) s) fun t => (t.port p).state = 5) ∧
  -- creditInitFlit
  (∀ s p bytes now, (s.at now).receives p = true → flitGood bytes = true → (flitOf bytes).kind = kindCreditInit → malformed (flitOf bytes) = false →
    (s.port p).state = 2 → (s.port p).phase = 4 → (flitOf bytes).seq = (s.port p).expect → (s.port p).expect < 65536 →
    (flitOf bytes).flags = 0 → (flitOf bytes).credit = 0 → (s.port p).waiting = [] → s.colls = [] →
    Reaches (exec (.creditInitFlit p bytes now) s) fun t => ((t.port p).state = 3 ∨ (t.port p).state = 4) ∧
      (t.port p).pool = fieldAt (flitOf bytes).payload 30 2) ∧
  -- retrainFlit
  (∀ s p bytes now, (s.at now).receives p = true → flitGood bytes = true → (flitOf bytes).kind = kindRetrain → malformed (flitOf bytes) = false →
    (s.port p).state = 3 → (s.port p).retrain = none → (flitOf bytes).seq = (s.port p).expect → (s.port p).expect < 65536 →
    (flitOf bytes).flags = 0 → (flitOf bytes).credit = 0 → (s.port p).waiting = [] → s.colls = [] →
    Reaches (exec (.retrainFlit p bytes now) s) fun t => (t.port p).retrain = some (s.at now).now) ∧
  -- idleFlit
  (∀ s p bytes now, (s.at now).receives p = true → flitGood bytes = true → (flitOf bytes).kind = 0 → malformed (flitOf bytes) = false →
    (s.port p).state = 3 → (flitOf bytes).seq = (s.port p).expect → (s.port p).expect < 65536 →
    (flitOf bytes).flags = 0 → (flitOf bytes).credit = 0 → (s.port p).waiting = [] → s.colls = [] →
    Reaches (exec (.idleFlit p bytes now) s) fun t => t.port p = { s.port p with lastGood := (s.at now).now }) ∧
  -- dataFlit
  (∀ s p bytes now, (s.at now).receives p = true → flitGood bytes = true → (flitOf bytes).kind = kindData → malformed (flitOf bytes) = false →
    (s.port p).state = 3 → (flitOf bytes).seq = (s.port p).expect → (s.port p).expect < 65536 →
    (flitOf bytes).flags = 0 → (flitOf bytes).credit = 0 → (s.port p).waiting = [] → s.colls = [] →
    Reaches (exec (.dataFlit p bytes now) s) fun t => (t.port p).expect = ((s.port p).expect + 1) % 65536)

/-- Link faults are retried, retrained and fenced as chapter 14 gives (R377, R381, R382, R391, R366, R390, R385). -/
def Obligations.LinkFaultsComplete : Prop :=
  -- flitCrcFailure
  (∀ s p now, (s.at now).receives p = true → (s.port p).state = 3 → (s.port p).nakFrom = none →
    Reaches (exec (.flitCrcFailure p now) s) fun t => (t.port p).nakFrom = some (s.at now).now ∧ (t.port p).expect = (s.port p).expect) ∧
  -- nakRepeat
  (∀ s p now x, (s.port p).nakFrom = some x → (s.at now).receives p = true → x + 2 * usec ≤ (s.at now).now →
    Reaches (exec (.nakRepeat p now) s) fun t => (t.port p).nakFrom = some (s.at now).now) ∧
  -- nakLimit
  (∀ s p now, 16 ≤ (s.port p).nakCount → (s.port p).state = 3 → (s.port p).retrain = none → 
    Reaches (exec (.nakLimit p now) s) fun t => (t.port p).retrain = some (s.at now).now ∧ (t.port p).nakCount = 0) ∧
  -- ackStall
  (∀ s p now, (s.port p).kept ≠ [] → (s.port p).ackAt + 100 * usec ≤ (s.at now).now → (s.port p).state = 3 → (s.port p).retrain = none →
    Reaches (exec (.ackStall p now) s) fun t => (t.port p).retrain = some (s.at now).now) ∧
  -- retrainDone
  (∀ s p good now x, (s.port p).state = 3 → (s.port p).retrain = some x → widthOf good = (s.port p).rxWidth → (s.port p).rxWidth ≠ 0 →
    Reaches (exec (.retrainDone p good now) s) fun t => (t.port p).retrain = none ∧ (t.port p).rxWidth = (s.port p).rxWidth ∧ (t.port p).nakCount = 0) ∧
  -- linkSilence
  (∀ s p now, (s.at now).LinkQuiet p → ((s.port p).state = 3 ∨ (s.port p).state = 4) → (s.port p).retrain = none →
    (s.port p).lastGood + 10 * usec ≤ (s.at now).now →
    Reaches (exec (.linkSilence p now) s) fun t => (t.port p).state = (s.at now).restState p ∧ (t.port p).identity = none) ∧
  -- laserFeedReading
  (∀ s p reading now, p < 8 → (s.port p).state = 3 → 1700 ≤ reading →
    Reaches (exec (.laserFeedReading p reading now) s) fun t => (t.port p).weak = false ∧ (t.port p).state = 3) ∧
  -- portFence
  (∀ s p now, (s.port p).state = 0 → 64 ≤ ((s.port p).violationsAt.filter fun t => decide ((s.at now).now < t + second)).length →
    Reaches (exec (.portFence p now) s) fun t => (t.port p).state = 6 ∧ (t.port p).violationsAt = []) ∧
  -- vcRepartition
  (∀ s p now, (s.port p).repartition ≠ [] → ((s.port p).repartition.all fun v => (s.port p).heldDed.getD v 0 == 0 && (s.port p).heldShared.getD v 0 == 0) = true →
    (s.port p).state = 3 →
    Reaches (exec (.vcRepartition p now) s) fun t => (t.port p).repartition = [] ∧ (t.port p).granted = (s.at now).dedicated p)

/-- Messages whose flits have all come are delivered, and notices and peer requests are taken up (R378, R392, R336). -/
def Obligations.MessagesAreDelivered : Prop :=
  -- messageDelivered
  (∀ s p now m rest, (s.port p).arrived = m :: rest → (m.targetInc = 0 ∨ m.targetInc = s.enlonInc) →
    Reaches (exec (.messageDelivered p now) s) fun t => (t.port p).arrived = rest ∧ (t.port p).inbox = (s.port p).inbox ++ [m]) ∧
  -- linkNoticeRestarted
  (∀ s p now m, ((s.port p).inbox.find? fun x => x.cls == 0x0002) = some m → s.colls = [] → s.turns = [] → s.sets = [] → s.adapters = [] →
    Reaches (exec (.linkNoticeRestarted p now) s) fun t => (t.port p).inbox = (s.port p).inbox.erase m) ∧
  -- pathBroken
  (∀ s p now m, ((s.port p).inbox.find? fun x => x.cls == 0x0001) = some m → s.colls = [] → s.turns = [] → s.sets = [] → s.adapters = [] →
    Reaches (exec (.pathBroken p now) s) fun t => (t.port p).inbox = (s.port p).inbox.erase m) ∧
  -- peerSetRequest
  (∀ s p now m, ((s.port p).inbox.find? fun x => x.cls == 0x1000) = some m →
    Reaches (exec (.peerSetRequest p now) s) fun t => (t.port p).inbox = (s.port p).inbox.erase m)

/-- GATHER, REDUCE_SCATTER, PERMUTE, SEND, RECV and VOTE start, and in a ring of one complete, as chapter 15 gives (R402, R406, R419, R421, R412). -/
def Obligations.CollectiveCommandsComplete : Prop :=
  -- gather
  (∀ s r k hv, s.Ready 0x5000 r k → (s.meets hv k).TakesColl k ((s.meets hv k).gatherFails k) →
    (s.meets hv k).rangesStatus (arrayRanges (k.param 48 1) (k.param 64 8) 1 (k.param 56 8)) = none → s.members k = 1 → (k.param 48 1 = k.param 49 1 ∨ s.beating = true) →
    Reaches (exec (.gather r hv) s) fun t => t.Answered r {} ∧
      t.mem = ((s.meets hv k).putPiece (k.param 48 1) (k.param 49 1) (k.param 72 8) (k.param 56 8) (s.me k * k.param 56 8) (k.param 56 8)
        ((s.meets hv k).pieceBytes (k.param 48 1) (k.param 64 8) (k.param 56 8) 0 (k.param 56 8))).mem) ∧
  (∀ s r k hv, s.Ready 0x5000 r k → (s.meets hv k).TakesColl k ((s.meets hv k).gatherFails k) →
    (s.meets hv k).rangesStatus (arrayRanges (k.param 48 1) (k.param 64 8) 1 (k.param 56 8)) = none → s.members k ≠ 1 → (k.param 48 1 = k.param 49 1 ∨ s.beating = true) →
    Reaches (exec (.gather r hv) s) fun t => (t.Waits r ∨ t.Answered r {}) ∧
      t.mem = ((s.meets hv k).putPiece (k.param 48 1) (k.param 49 1) (k.param 72 8) (s.members k * k.param 56 8) (s.me k * k.param 56 8) (k.param 56 8)
        ((s.meets hv k).pieceBytes (k.param 48 1) (k.param 64 8) (k.param 56 8) 0 (k.param 56 8))).mem) ∧
  -- reduceScatter
  (∀ s r k hv b, s.Ready 0x5001 r k → (s.meets hv k).TakesColl k ((s.meets hv k).reduceFails k) → k.param 33 1 = 0 → k.param 49 1 = 0 →
    k.param 56 4 = 1 → k.param 80 8 = 0 → s.members k = 1 → s.me k = 0 → (s.meets hv k).ownBlock k 0 0 = .ok b →
    Reaches (exec (.reduceScatter r hv) s) fun t => t.Answered r { result0 := 1 } ∧
      t.mem = ((s.meets hv k).writeMem (k.param 72 8) b.widen.bytes).mem) ∧
  (∀ s r k hv b, s.Ready 0x5001 r k → (s.meets hv k).TakesColl k ((s.meets hv k).reduceFails k) → k.param 33 1 = 0 → k.param 49 1 = 0 →
    k.param 56 4 = 1 → k.param 80 8 = 0 → s.members k ≠ 1 →
    (s.meets hv k).ownBlock k ((s.me k + s.members k - 1) % s.members k) 0 = .ok b →
    Reaches (exec (.reduceScatter r hv) s) fun t => t.Waits r ∧ t.msgNext = s.msgNext + 1 ∧ t.mem = s.mem) ∧
  -- permute
  (∀ s r k hv, s.Ready 0x5002 r k → (s.meets hv k).TakesColl k ((s.meets hv k).permuteFails k) → k.param 48 4 = 0 →
    (s.meets hv k).rangesStatus [(k.param 56 8, 32 * k.param 48 4), (k.param 64 8, 16 * k.param 52 4)] = none →
    theRefusal ((s.meets hv k).permuteTableFails k []) = none → k.param 72 8 ≠ 0 →
    Reaches (exec (.permute r hv) s) fun t => t.Waits r ∧ t.mem = s.mem) ∧
  (∀ s r k hv e, s.Ready 0x5002 r k → (s.meets hv k).TakesColl k ((s.meets hv k).permuteFails k) → k.param 48 4 = 1 →
    (s.meets hv k).rangesStatus [(k.param 56 8, 32 * k.param 48 4), (k.param 64 8, 16 * k.param 52 4)] = none →
    (s.meets hv k).outPiece (k.param 56 8) 0 = e → theRefusal ((s.meets hv k).permuteTableFails k [e]) = none →
    (s.meets hv k).rangesStatus [(e.src, e.bytes)] = none → s.routePort e.dest = none → k.param 72 8 = e.bytes →
    ((s.meets hv k).windows k).any (fun w => within e.dst e.bytes w.1 w.2) = true →
    Reaches (exec (.permute r hv) s) fun t => t.Answered r {} ∧ t.mem = ((s.meets hv k).writeMem e.dst ((s.meets hv k).bytesAt e.src e.bytes)).mem) ∧
  -- send
  (∀ s r k hv, s.Ready 0x5003 r k → (s.meets hv k).TakesColl k ((s.meets hv k).pipeFails k false) →
    (s.meets hv k).readStatus (k.param 56 8) (k.param 64 8) = none → s.members k = 1 →
    Reaches (exec (.send r hv) s) fun t => t.Answered r {} ∧ t.mem = s.mem) ∧
  (∀ s r k hv, s.Ready 0x5003 r k → (s.meets hv k).TakesColl k ((s.meets hv k).pipeFails k false) →
    (s.meets hv k).readStatus (k.param 56 8) (k.param 64 8) = none → s.members k ≠ 1 →
    Reaches (exec (.send r hv) s) fun t => t.msgNext = s.msgNext + 1 ∧ t.mem = s.mem ∧
      (t.messageAcked s.msgNext = false → t.Waits r) ∧ (t.messageAcked s.msgNext = true → t.Answered r {})) ∧
  -- recv
  (∀ s r k hv, s.Ready 0x5004 r k → (s.meets hv k).TakesColl k ((s.meets hv k).pipeFails k true) →
    Reaches (exec (.recv r hv) s) fun t => t.Waits r ∧ (∃ x, t.colls = [x] ∧ x.cmd = k ∧ x.owner = CollOwner.command ∧ x.startedAt = s.now ∧ x.ended = none) ∧
      t.mem = s.mem) ∧
  -- vote
  (∀ s r k hv, s.Ready 0x5005 r k → (s.meets hv k).TakesColl k ((s.meets hv k).voteFails k ++ [(s.meets hv k).voteLinkFails k]) →
    s.voteMayStart k = true → s.members k = 1 → (s.group k.group).votes = [] →
    Reaches (exec (.vote r hv) s) fun t =>
      t.Answered r { result0 := bit (s.localVote k).1 + (if k.voteKind = 0 then (s.localVote k).2 * 2 ^ 32 else 0),
                     result1 := if (s.localVote k).1 then 0xFF00 else 1 + min 63 (s.me k) * 256 }) ∧
  (∀ s r k hv, s.Ready 0x5005 r k → (s.meets hv k).TakesColl k ((s.meets hv k).voteFails k ++ [(s.meets hv k).voteLinkFails k]) →
    s.voteMayStart k = true → 1 < s.members k → (s.group k.group).votes = [] →
    Reaches (exec (.vote r hv) s) fun t => t.Waits r ∧
      (t.voteKey k.group k.voteKind k.step k.voteRound).cast = some (s.localVote k) ∧
      (t.voteKey k.group k.voteKind k.step k.voteRound).records = [(s.me k, (s.localVote k).1, (s.localVote k).2)])

/-- Collective messages are consumed and advance the collective that they belong to (R407, R404, R412, R421, R420, R423, R422). -/
def Obligations.CollectiveEventsComplete : Prop :=
  -- chainMessage
  (∀ s p now m k r own b, (s.at now).Meets p 0x0101 m k → s.beating = true → s.units.upset = [] → m.poison = [] → k.cmd.opcode = 0x5001 → m.prefix.count = 1 →
    gtRead (m.prefix.format == 0x19) (slice m.body 16 (strideOf m.prefix.format)) = some r →
    ((s.at now).taken p m k).ownBlock k.cmd m.prefix.shard m.prefix.first = .ok own → addChain r own = .ok b →
    m.prefix.shard = s.me k.cmd → k.cmd.param 49 1 = 0 →
    Reaches (exec (.chainMessage p now) s) fun t =>
      t.mem = (((s.at now).taken p m k).writeMem (k.cmd.param 72 8 + 132 * m.prefix.first) b.bytes).mem) ∧
  (∀ s p now m, (s.at now).collMessage p 0x0101 = some m → (s.at now).collAt m.prefix.group m.context = none →
    Reaches (exec (.chainMessage p now) s) fun t => (t.port p).inbox = (s.port p).inbox.erase m ∧ t.mem = s.mem ∧
      (t.regNat evColl).testBit 7 = true) ∧
  -- gatherPiece
  (∀ s p now m k, (s.at now).Meets p 0x0102 m k → (k.cmd.param 52 4 = 0 ∨ fieldAt m.body 16 4 = k.cmd.param 52 4) →
    (k.cmd.param 48 1 = k.cmd.param 49 1 ∨ s.beating = true) → m.poison = [] →
    Reaches (exec (.gatherPiece p now) s) fun t =>
      t.mem = (((s.at now).taken p m k).putPiece (k.cmd.param 48 1) (k.cmd.param 49 1) (k.cmd.param 72 8)
        (s.members k.cmd * k.cmd.param 56 8) (m.prefix.shard * k.cmd.param 56 8 + m.prefix.first) m.prefix.count (m.body.drop 20)).mem) ∧
  (∀ s p now m, (s.at now).collMessage p 0x0102 = some m → (s.at now).collAt m.prefix.group m.context = none →
    Reaches (exec (.gatherPiece p now) s) fun t => (t.port p).inbox = (s.port p).inbox.erase m ∧ t.mem = s.mem ∧
      (t.regNat evColl).testBit 7 = true) ∧
  -- voteRecord
  (∀ s p now m k, (s.port p).inbox.find? (fun m => m.cls == 0x0103 && decide (m.context ≤ (s.group m.prefix.group).lastSeq)) = some m →
    s.voteCarrier m = some k → m.prefix.digest = k.cmd.digest → m.vote.kind = 0 →
    (s.voteKey m.prefix.group 0 m.vote.step m.vote.round).records.any (fun x => x.1 == m.vote.member) = false →
    (s.voteKey m.prefix.group 0 m.vote.step m.vote.round).records.length + 1 < s.members k.cmd →
    Reaches (exec (.voteRecord p now) s) fun t =>
      (t.voteKey m.prefix.group 0 m.vote.step m.vote.round).records =
        (s.voteKey m.prefix.group 0 m.vote.step m.vote.round).records ++ [(m.vote.member, m.vote.vote, m.vote.max)]) ∧
  (∀ s p now m, (s.port p).inbox.find? (fun m => m.cls == 0x0103 && decide (m.context ≤ (s.group m.prefix.group).lastSeq)) = some m →
    s.voteCarrier m = none → (s.group m.prefix.group).votes = [] →
    Reaches (exec (.voteRecord p now) s) fun t => (t.port p).inbox = (s.port p).inbox.erase m ∧ (t.regNat evColl).testBit 7 = true) ∧
  -- pipelineMessage
  (∀ s p now m k d, (s.at now).Meets p 0x0104 m k → k.cmd.opcode = 0x5004 → s.dirPort k.cmd = p → m.body.length = k.cmd.param 64 8 + 16 →
    m.poison = [] → s.cmd k.cmd.ref = some d →
    Reaches (exec (.pipelineMessage p now) s) fun t => t.Answered k.cmd.ref {} ∧ t.colls = [] ∧
      t.mem = (((s.at now).taken p m k).writeMem (k.cmd.param 56 8) (m.body.drop 16)).mem) ∧
  -- permutePiece
  (∀ s p now m k, (s.at now).Meets p 0x0105 m k → m.poison = [] →
    (((s.at now).taken p m k).windows k.cmd).any (fun w => within (fieldAt m.body 16 8) (m.body.drop 24).length w.1 w.2) = true →
    Reaches (exec (.permutePiece p now) s) fun t => t.mem = (((s.at now).taken p m k).writeMem (fieldAt m.body 16 8) (m.body.drop 24)).mem) ∧
  (∀ s p now m k, (s.at now).Meets p 0x0105 m k →
    (((s.at now).taken p m k).windows k.cmd).any (fun w => within (fieldAt m.body 16 8) (m.body.drop 24).length w.1 w.2) = false →
    Reaches (exec (.permutePiece p now) s) fun t => t.mem = s.mem ∧ (t.regNat evColl).testBit 3 = true ∧ (t.regNat evColl).testBit 7 = true) ∧
  -- abortNotice
  (∀ s p now m, (s.port p).inbox.find? (fun m => m.cls == 0x0110) = some m → s.colls = [] →
    (s.group (fieldAt m.body 4 1)).lastSeq < fieldAt m.body 16 4 →
    Reaches (exec (.abortNotice p now) s) fun t =>
      (t.group (fieldAt m.body 4 1)).aborts.contains (fieldAt m.body 16 4) = true ∧ (t.regNat evColl).testBit 1 = true ∧ t.mem = s.mem) ∧
  (∀ s p now m k d, (s.port p).inbox.find? (fun m => m.cls == 0x0110) = some m → s.colls = [k] → k.ended = none → k.owner = CollOwner.command →
    k.cmd.group = fieldAt m.body 4 1 → k.cmd.collSeq = fieldAt m.body 16 4 → k.cmd.opcode ≠ 0x5003 → s.cmd k.cmd.ref = some d →
    Reaches (exec (.abortNotice p now) s) fun t => t.Ended k.cmd.ref stCollPeerFailed ∧ t.colls = []) ∧
  -- collDeadline
  (∀ s g seq now k d, s.colls = [k] → k.cmd.group = g → k.cmd.collSeq = seq → k.ended = none → k.owner = CollOwner.command → s.cmd k.cmd.ref = some d →
    (s.at now).expired (k.lastAt + s.collDeadline k.cmd) = true →
    Reaches (exec (.collDeadline g seq now) s) fun t => t.Ended k.cmd.ref stCollDeadline ∧ t.colls = [] ∧
      (t.regNat evColl).testBit 0 = true ∧ (t.regNat evColl).testBit 5 = true)

/-- MATMUL, MATMUL_GROUPED and ATTEND write the outputs of the reference order (R165, R171, R447). -/
def Obligations.MatmulCompletes : Prop :=
  -- matmul
  (∀ s r k hv, s.ReadyOnRing 0x2000 r k → theRefusal ((s.rings hv k).matmulFails k) = none → k.product.empty = true →
    Reaches (exec (.matmul r hv) s) fun t => t.Answered r {} ∧ ∀ p, t.mem.get p = s.mem.get p) ∧
  (∀ s r k hv, s.ReadyOnRing 0x2000 r k → theRefusal ((s.rings hv k).matmulFails k) = none → k.product.empty = false →
    worse ((s.rings hv k).rangesStatus ((s.rings hv k).productReads k [k.product])) ((s.rings hv k).sumStatus k [k.product]) = none →
    Reaches (exec (.matmul r hv) s) fun t =>
      t.Answered r { status := (s.rings hv k).outStatus ((k.product.outRuns (convertRows k.product.fmtOut
        (k.outScale (k.param 54 2) (k.param 50 1)) ((s.rings hv k).prodRows k.product ((s.rings hv k).pavesOf k)))).map
          fun x => (x.1, x.2.length)) } ∧
      t.mem = (((s.rings hv k).runPasses k [k.product]).writeOut k.product
        (convertRows k.product.fmtOut (k.outScale (k.param 54 2) (k.param 50 1))
          ((s.rings hv k).prodRows k.product ((s.rings hv k).pavesOf k)))).mem) ∧
  -- matmulGrouped
  (∀ s r k hv, s.ReadyOnRing 0x2001 r k → theRefusal ((s.rings hv k).groupedFails k) = none →
    (s.rings hv k).readStatus (k.param 80 8) (64 * k.param 32 4) = none →
    (s.rings hv k).groupRefusal k (groupProducts k 0 ((s.rings hv k).groupTable k)) ((s.rings hv k).groupTable k) = none →
    worse ((s.rings hv k).rangesStatus ((s.rings hv k).productReads k (groupProducts k 0 ((s.rings hv k).groupTable k))))
      ((s.rings hv k).sumStatus k (groupProducts k 0 ((s.rings hv k).groupTable k))) = none →
    Reaches (exec (.matmulGrouped r hv) s) fun t =>
      t.Answered r { status := ((s.rings hv k).outStatus
        (((s.rings hv k).productOuts k (groupProducts k 0 ((s.rings hv k).groupTable k))).flatMap
          fun v => (v.1.outRuns v.2).map fun x => (x.1, x.2.length))) } ∧
      t.mem = (((s.rings hv k).productOuts k (groupProducts k 0 ((s.rings hv k).groupTable k))).foldl (fun u v => u.writeOut v.1 v.2)
        ((s.rings hv k).runPasses k (groupProducts k 0 ((s.rings hv k).groupTable k)))).mem) ∧
  -- attend
  (∀ s r k hv, s.ReadyOnRing 0x2002 r k → theRefusal ((s.rings hv k).attendFails k) = none →
    (s.rings hv k).readStatus (k.param 64 8) (16 * k.param 44 4) = none →
    (s.rings hv k).attendTableFails k ((s.rings hv k).attendEntries k) = none →
    ((s.rings hv k).dropRegions (bitsBelow 8 (k.param 56 1))).rangesStatus (k.attendIns ((s.rings hv k).attendEntries k)) = none →
    (((s.rings hv k).dropRegions (bitsBelow 8 (k.param 56 1))).attendStore k ((s.rings hv k).attendEntries k)).rangesStatus (k.attendPages ((s.rings hv k).attendEntries k)) = none →
    Reaches (exec (.attend r hv) s) fun t =>
      t.Answered r { status := (((s.rings hv k).dropRegions (bitsBelow 8 (k.param 56 1))).attendStore k ((s.rings hv k).attendEntries k)).outStatus (k.attendOuts ((s.rings hv k).attendEntries k)) } ∧
      t.mem = ((((s.rings hv k).dropRegions (bitsBelow 8 (k.param 56 1))).attendStore k ((s.rings hv k).attendEntries k)).attendWrite k ((s.rings hv k).attendEntries k)).mem)

/-- VOP, SAMPLE and UPDATE write the results of chapters 9, 16 and 18 (R233, R244, R506). -/
def Obligations.VectorOpsComplete : Prop :=
  -- vop
  (∀ s r k hv, s.ReadyOnRing 0x3000 r k → theRefusal ((s.rings hv k).vopFails k) = none → (k.vop.rows = 0 ∨ k.vop.cols = 0) →
    Reaches (exec (.vop r hv) s) fun t => t.Answered r {} ∧ ∀ p, t.mem.get p = s.mem.get p) ∧
  (∀ s r k hv, s.ReadyOnRing 0x3000 r k → theRefusal ((s.rings hv k).vopFails k) = none → k.vop.rows ≠ 0 → k.vop.cols ≠ 0 →
    (s.rings hv k).rangesStatus ((List.range k.vop.rows).flatMap fun i => (s.rings hv k).vopRowReads k.vop i) = none →
    k.vop.op ≠ 0x25 → k.vop.op ≠ 0x30 → k.vop.op ≠ 0x32 → k.vop.op ≠ 0x40 →
    Reaches (exec (.vop r hv) s) fun t =>
      t.Answered r { status := (s.rings hv k).outStatus ((s.rings hv k).vopOut k.vop ++ k.vop.auxOut) } ∧
      t.mem = ((s.rings hv k).writeRows k.vop.fmtOut k.vop.out
        (convertRows k.vop.fmtOut k.vopScale ((List.range k.vop.rows).map fun i => ((s.rings hv k).vopRow k.vop i).1))).mem) ∧
  (∀ s r k hv, s.ReadyOnRing 0x3000 r k → theRefusal ((s.rings hv k).vopFails k) = none → k.vop.rows ≠ 0 → k.vop.cols ≠ 0 →
    (s.rings hv k).rangesStatus ((List.range k.vop.rows).flatMap fun i => (s.rings hv k).vopRowReads k.vop i) = none → k.vop.op = 0x25 →
    Reaches (exec (.vop r hv) s) fun t =>
      t.Answered r { status := (s.rings hv k).outStatus ((s.rings hv k).vopOut k.vop ++ k.vop.auxOut) } ∧
      t.mem = (((s.rings hv k).writeRows k.vop.fmtOut k.vop.out
        (convertRows k.vop.fmtOut k.vopScale ((List.range k.vop.rows).map fun i => ((s.rings hv k).vopRow k.vop i).1))).writeMem k.vop.aux
          ((List.range k.vop.rows).flatMap fun i => ((s.rings hv k).vopRow k.vop i).2.flatMap (leBytes 4))).mem) ∧
  (∀ s r k hv, s.ReadyOnRing 0x3000 r k → theRefusal ((s.rings hv k).vopFails k) = none → k.vop.rows ≠ 0 → k.vop.cols ≠ 0 →
    (s.rings hv k).rangesStatus ((List.range k.vop.rows).flatMap fun i => (s.rings hv k).vopRowReads k.vop i) = none → k.vop.op = 0x32 →
    Reaches (exec (.vop r hv) s) fun t =>
      t.Answered r { status := (s.rings hv k).outStatus ((s.rings hv k).vopOut k.vop ++ k.vop.auxOut) } ∧
      t.mem = ((s.rings hv k).writeRows k.vop.fmtOut k.vop.out
        (convertRows k.vop.fmtOut k.vopScale [(List.range k.vop.rows).flatMap fun i => (s.rings hv k).philoxRow k.vop i])).mem) ∧
  (∀ s r k hv, s.ReadyOnRing 0x3000 r k → theRefusal ((s.rings hv k).vopFails k) = none → k.vop.rows ≠ 0 → k.vop.cols ≠ 0 →
    (s.rings hv k).rangesStatus ((List.range k.vop.rows).flatMap fun i => (s.rings hv k).vopRowReads k.vop i) = none → k.vop.op = 0x30 →
    k.vop.y = 0 → isMx k.vop.fmtOut = false →
    Reaches (exec (.vop r hv) s) fun t =>
      t.Answered r { status := (s.rings hv k).outStatus ((s.rings hv k).vopOut k.vop ++ k.vop.auxOut) } ∧
      t.mem = ((s.rings hv k).writeMem k.vop.out (((List.range k.vop.rows).map fun i =>
        quantRow k.vop.fmtOut k.vopScale ((s.rings hv k).widenRow k.vop.fmtX k.vop.x k.vop.rows k.vop.cols i)).foldl
          Quantised.join ⟨[], [], {}, [], []⟩).bytes).mem) ∧
  (∀ s r k hv a b x cl va, s.ReadyOnRing 0x3000 r k → theRefusal ((s.rings hv k).vopFails k) = none → k.vop.rows = 1 → k.vop.cols = 64 →
    (s.rings hv k).rangesStatus ((s.rings hv k).vopRowReads k.vop 0) = none → k.vop.op = 0x40 →
    (s.rings hv k).gtAt (k.vop.fmtX == 0x19) k.vop.x = some a → (s.rings hv k).gtAt (k.vop.fmtY == 0x19) k.vop.y = some b →
    gtAdd a b = .sum x cl va → s.units.upset = [] →
    Reaches (exec (.vop r hv) s) fun t =>
      t.Answered r { status := (s.rings hv k).outStatus ((s.rings hv k).vopOut k.vop) } ∧ t.mem = (((s.rings hv k).add64
        (blkEngine (((s.rings hv k).enginesOf (k.param 40 4) (bitOf (k.param 37 1) 0)).getD 0 0) + 0x20) 1).writeMem k.vop.out x.bytes).mem) ∧
  -- sample
  (∀ s r k hv, s.ReadyOnRing 0x3001 r k → theRefusal ((s.rings hv k).sampleFails k) = none →
    (s.rings hv k).rangesStatus ((List.range (k.param 32 4)).flatMap fun i =>
      [(k.param 64 8 + i * elemsBytes (k.param 40 1) (k.param 36 4), elemsBytes (k.param 40 1) (k.param 36 4)), (k.param 72 8 + 16 * i, 16)]) = none →
    Reaches (exec (.sample r hv) s) fun t =>
      t.Answered r { status := (s.rings hv k).outStatus [(k.param 80 8, 8 * k.param 32 4)] } ∧
      t.mem = ((s.rings hv k).writeMem (k.param 80 8) ((List.range (k.param 32 4)).flatMap fun i =>
        drawBytes (drawToken k.draw ((s.rings hv k).widenRow (k.param 40 1) (k.param 64 8) (k.param 32 4) (k.param 36 4) i)
          (uniform (k.param 56 8) ((s.rings hv k).natAt (k.param 72 8 + 16 * i) 4) ((s.rings hv k).natAt (k.param 72 8 + 16 * i + 4) 4)
            ((s.rings hv k).natAt (k.param 72 8 + 16 * i + 8) 4))))).mem) ∧
  -- update
  (∀ s r k hv, s.ReadyOnRing 0x3002 r k → k.param 32 1 = 0 → theRefusal ((s.rings hv k).applyFails k) = none →
    ((s.rings hv k).checkLive k.epoch (k.param 33 1)).stateLost (k.param 33 1) = false →
    ((s.rings hv k).checkLive k.epoch (k.param 33 1)).rangesStatus k.applyRanges = none →
    Reaches (exec (.update r hv) s) fun t =>
      t.Answered r { status :=
        if (((s.rings hv k).checkLive k.epoch (k.param 33 1)).applyBlocks k
          (if k.param 40 4 = 0 then ((s.rings hv k).checkLive k.epoch (k.param 33 1)).openShadow k.epoch (k.param 33 1)
            else (s.rings hv k).checkLive k.epoch (k.param 33 1))).2.2
        then ((s.rings hv k).checkLive k.epoch (k.param 33 1)).outStatus k.narrowRanges else stPoisoned } ∧
      (k.param 40 4 + k.param 44 4 ≠ (s.rings hv k).ctxBlocks k.epoch (k.param 33 1) →
        t.mem = (((s.rings hv k).checkLive k.epoch (k.param 33 1)).applyBlocks k
          (if k.param 40 4 = 0 then ((s.rings hv k).checkLive k.epoch (k.param 33 1)).openShadow k.epoch (k.param 33 1)
            else (s.rings hv k).checkLive k.epoch (k.param 33 1))).1.mem)) ∧
  (∀ s r k hv, s.ReadyOnRing 0x3002 r k → k.param 32 1 ≠ 0 → s.laneValid (k.param 34 1) = true → s.laneInService (k.param 34 1) = false →
    (s.rings hv k).commitBlocked k.epoch (k.param 34 1) (k.param 36 4) = none → k.param 34 1 < 4 →
    Reaches (exec (.update r hv) s) fun t =>
      t.Answered r { result0 := (s.laneGen (k.param 34 1) + 1) % 32768 } ∧
      t.laneGen (k.param 34 1) = (s.laneGen (k.param 34 1) + 1) % 32768 ∧ ∀ p, t.mem.get p = s.mem.get p)

/-- Unit faults, fences, clears and self-tests act as R150, R232, R246, R255, R260 and R596 give (R150, R232, R246, R255, R260, R596). -/
def Obligations.UnitEventsComplete : Prop :=
  -- paveFault
  (∀ s n fault, n < 8 → s.power.gated.testBit (n / 2) = false → (field fault 30 28 = 1 ∨ field fault 30 28 = 2) → s.cmdOn (n + 1) = none →
    Reaches (exec (.paveFault n fault) s) fun t => t.isFenced (n + 1) = true ∧ (t.regNat (evPave n)).testBit 0 = true ∧
      (s.isFenced (n + 1) = false → (s.regNat (faultReg (n + 1))).testBit 31 = false →
        t.regNat (faultReg (n + 1)) = 2 ^ 31 + paveFaultWord fault)) ∧
  -- engineFault
  (∀ s n fault, n < 32 → s.power.gated.testBit (n / 8) = false → field fault 30 28 = 1 → s.cmdOn (0x10 + n) = none → s.colls = [] →
    Reaches (exec (.engineFault n fault) s) fun t => t.isFenced (0x10 + n) = true ∧ (t.regNat (evEngine n)).testBit 0 = true ∧
      (s.isFenced (0x10 + n) = false → (s.regNat (faultReg (0x10 + n))).testBit 31 = false →
        t.regNat (faultReg (0x10 + n)) = 2 ^ 31 + engineFaultWord fault)) ∧
  -- residueFence
  (∀ s n now a b l, n < 32 → lookup n s.units.residueAt = some (a :: b :: l) → a - b ≤ second →
    Reaches (exec (.residueFence n now) s) fun t => t.isFenced (0x10 + n) = true ∧
      (s.isFenced (0x10 + n) = false → (t.regNat (evEngine n)).testBit 5 = true ∧
        ((s.regNat (faultReg (0x10 + n))).testBit 31 = false → t.regNat (faultReg (0x10 + n)) = 0xA0000000))) ∧
  -- bankOwnerFence
  (∀ s die bank now u ts, die < 4 → bank < 14 → bankOwner die bank = some u → lookup (16 * die + bank) s.units.parityAt = some ts →
    16 ≤ ts.length → ts.headD 0 - ts.getLastD 0 ≤ second → s.isFenced u = false →
    Reaches (exec (.bankOwnerFence die bank now) s) fun t => t.isFenced u = true ∧ (t.regNat (evBanks die)).testBit 3 = true ∧
      ((s.regNat (faultReg u)).testBit 31 = false → t.regNat (faultReg u) = 0xB0000000)) ∧
  -- bankClear
  (∀ s die bank u, die < 4 → bank < 14 → bankOwner die bank = some u → s.clears.contains u = true → s.unitLeft u = true →
    Reaches (exec (.bankClear die bank) s) fun t => t.clears = s.clears.filter (· != u) ∧
      t.mem = (unitBanks u).foldl (fun m r => m.forget r.1 r.2) s.mem) ∧
  -- selfTest
  (∀ s r k pass hv, s.ReadyOnRing 0xA002 r k → isCompute (k.param 32 1) = true → s.isFenced (k.param 32 1) = true →
    s.units.readied.contains (k.param 32 1) = true → s.power.gated = 0 →
    (if k.param 32 1 < 0x10 then (s.berthPaves k.epoch k.berth).testBit (k.param 32 1 - 1)
      else (s.berthVes k.epoch k.berth).testBit (k.param 32 1 - 0x10)) = true →
    Reaches (exec (.selfTest r pass hv) s) fun t => t.Answered r { result0 := if pass then 1 else 0 } ∧
      t.isFenced (k.param 32 1) = !pass ∧ t.units.readied = s.units.readied.filter (· != k.param 32 1) ∧
      t.mem = (unitBanks (k.param 32 1)).foldl (fun m r => m.forget r.1 r.2) (s.rings hv k).mem)

/-- Weight sets are loaded, activated and released by service commits (R337, R348). -/
def Obligations.WeightSetCommandsComplete : Prop :=
  -- weightsLoad
  (∀ s r k hv, s.Ready 0x6005 r k → theRefusal ((s.meets hv k).weightsLoadFails k) = none → s.overlapFails (k.param 56 8) (k.param 48 8) = false →
    Reaches (exec (.weightsLoad r hv) s) fun t => t.Waits r ∧ t.commits = s.commits ++ [⟨.setReserve r, []⟩]) ∧
  -- weightsDrop
  (∀ s r k hv v, s.Ready 0x6006 r k → lookup (k.param 32 1) s.sets = some v → v.state = 2 → v.command = none →
    s.dropFails (k.param 32 1) (k.param 33 1) s.turnSets = false →
    Reaches (exec (.weightsDrop r hv) s) fun t => t.Waits r ∧ t.commits = s.commits ++ [⟨.setDropping r, []⟩] ∧
      lookup (k.param 32 1) t.sets = some { v with command := some r }) ∧
  (∀ s r k hv v, s.Ready 0x6006 r k → lookup (k.param 32 1) s.sets = some v → v.state = 3 → v.command = none →
    s.dropFails (k.param 32 1) (k.param 33 1) s.turnSets = false →
    Reaches (exec (.weightsDrop r hv) s) fun t => t.Waits r ∧ t.commits = s.commits ∧
      lookup (k.param 32 1) t.sets = some { v with command := some r, droppedAt := s.spine.epoch.toNat }) ∧
  -- loadActivation
  (∀ s r peer now hv w v bs d, s.olderGoneBut (some r) = true →
    s.sets.find? (fun k => k.2.command == some r && k.2.state == 1 && k.2.failing.isNone && !k.2.byTurn) = some (w, v) →
    lookup w s.sets = some v → ((s.at now).sees hv).sourceData v.source v.bytes v.sourceAddr v.link peer = (bs, none) → s.cmd r = some d →
    Reaches (exec (.loadActivation r peer now hv) s) fun t =>
      t.Answered r { result0 := crc64 bs, result1 := (nextEpoch s.spine.epoch).toNat } ∧ t.spine.epoch = nextEpoch s.spine.epoch ∧
      ∃ x, lookup w t.sets = some x ∧ x.state = 2 ∧ x.command = none ∧ x.fingerprint = BitVec.ofNat 64 (crc64 bs)) ∧
  (∀ s r peer now hv i v bs d, s.olderGoneBut (some r) = true → s.sets = [] →
    s.adapters.find? (fun k => k.2.command == some r && k.2.state == 1 && k.2.failing.isNone) = some (i, v) → lookup i s.adapters = some v →
    (if v.shared then (s.at now).sees hv else ((s.at now).sees hv).actFor 0 v.berth).sourceData v.source v.bytes v.sourceAddr 0 peer = (bs, none) → badTensor v.bytes v.rank v.tensors bs = none →
    s.liveSlot v.name = none → s.cmd r = some d →
    Reaches (exec (.loadActivation r peer now hv) s) fun t =>
      t.Answered r { detail := i, result0 := crc64 bs, result1 := (nextEpoch s.spine.epoch).toNat } ∧ t.spine.epoch = nextEpoch s.spine.epoch ∧
      ∃ x, lookup i t.adapters = some x ∧ x.state = 2 ∧ x.command = none) ∧
  -- setReleaseCommit
  (∀ s w now v r d, lookup w s.sets = some v → v.state = 4 → v.command = some r → v.failing = none → s.setPins w = 0 →
    s.noOlderReader = true → s.olderGoneBut v.command = true → s.cmd r = some d →
    Reaches (exec (.setReleaseCommit w now) s) fun t => t.Answered r { result0 := v.cut } ∧ t.sets = erase w s.sets ∧
      t.spine.epoch = nextEpoch s.spine.epoch ∧ (t.regNat evWeight).testBit 2 = true)

/-- Adapters are loaded, retired and released by service commits (R352, R358, R359). -/
def Obligations.AdapterCommandsComplete : Prop :=
  -- adapterLoad
  (∀ s r k hv i, s.Ready 0x6007 r k → theRefusal ((s.meets hv k).adapterLoadFails k) = none →
    s.overlapFails (k.param 64 8) (k.param 56 8) = false → s.adapterSlot k = some i →
    Reaches (exec (.adapterLoad r hv) s) fun t => t.Waits r ∧ t.commits = s.commits ++ [⟨.adapterReserve r i, []⟩]) ∧
  -- adapterDrop
  (∀ s r k hv, s.Ready 0x6008 r k → s.foreignName k (k.param 32 4) = false → (s.liveSlot (k.param 32 4)).isSome = true →
    Reaches (exec (.adapterDrop r hv) s) fun t => t.Waits r ∧ t.commits = s.commits ++ [⟨.adapterRetire r, []⟩]) ∧
  (∀ s r k hv, s.Ready 0x6008 r k → s.foreignName k (k.param 32 4) = false → s.liveSlot (k.param 32 4) = none →
    Reaches (exec (.adapterDrop r hv) s) fun t => t.Ended r stNotFound ∧ t.commits = s.commits) ∧
  -- adapterReleaseCommit
  (∀ s i now v, lookup i s.adapters = some v → v.state = 3 → s.adapterPins i = 0 → s.noOlderReader = true → s.olderGone = true →
    Reaches (exec (.adapterReleaseCommit i now) s) fun t => t.adapters = erase i s.adapters ∧ t.spine.epoch = nextEpoch s.spine.epoch ∧
      (t.regNat evWeight).testBit 3 = true)

/-- Repairs of damaged lines and interface retraining act as R312 and R325 to R327 give (R325, R326, R327, R312). -/
def Obligations.RepairsComplete : Prop :=
  -- repairOpen
  (∀ s a now ad slot u, s.unitsOf a 1 = [u] → inBanks u = false → (s.unitStatus u).isSome = true → s.parityIn a 1 = [] →
    s.shared (s.phys a) = some (ad, slot) → s.shared u = some (ad, slot) → s.repairs = [] → s.sourceCode ad slot ≠ 3 →
    Reaches (exec (.repairOpen a now) s) fun t =>
      t.repairs = [⟨lineOf s.spine.variant u, ad, slot, (s.at now).now, false⟩] ∧ ∀ p, t.mem.get p = s.mem.get p) ∧
  (∀ s a now slot u v, s.unitsOf a 1 = [u] → inBanks u = false → (s.unitStatus u).isSome = true → s.parityIn a 1 = [] →
    s.shared (s.phys a) = some (false, slot) → s.shared u = some (false, slot) → s.repairs = [] → s.sourceCode false slot = 3 →
    lookup slot s.sets = some v → v.state = 2 →
    Reaches (exec (.repairOpen a now) s) fun t => t.repairs = [] ∧ ∃ y, lookup slot t.sets = some y ∧ y.state = 3) ∧
  -- repairSourceData
  (∀ s line peer now hv x bs z, s.repairs.find? (fun r => r.line == line) = some x → ((s.at now).sees hv).repairData x peer = (bs, none) →
    z = (match ((s.at now).sees hv).repairSource x with
      | some a => ((s.at now).sees hv).noteRead 5 a (lineBytes s.spine.variant)
      | none => (s.at now).sees hv) →
    Reaches (exec (.repairSourceData line peer 0 now hv) s) fun t => t.repairs = (z.writeMem x.line bs).repairs.erase x ∧
      t.log.next = (z.writeMem x.line bs).log.next + 1 ∧ t.mem = (z.writeMem x.line bs).mem) ∧
  (∀ s line peer now hv x bs z, s.repairs.find? (fun r => r.line == line) = some x → ((s.at now).sees hv).repairData x peer = (bs, none) →
    z = (match ((s.at now).sees hv).repairSource x with
      | some a => ((s.at now).sees hv).noteRead 5 a (lineBytes s.spine.variant)
      | none => (s.at now).sees hv) →
    x.unclean = false →
    Reaches (exec (.repairSourceData line peer 1 now hv) s) fun t =>
      t.repairs = (z.writeMem x.line bs).repairs.map (fun y => if y = x then { y with unclean := true } else y) ∧
      t.mem = (z.writeMem x.line bs).mem) ∧
  (∀ s line peer outcome now hv x bs v, s.repairs.find? (fun r => r.line == line) = some x →
    ((s.at now).sees hv).repairData x peer = (bs, none) → outcome ≠ 0 → x.unclean = true → x.adapter = false →
    lookup x.slot s.sets = some v → v.state = 2 →
    Reaches (exec (.repairSourceData line peer outcome now hv) s) fun t => ∃ y, lookup x.slot t.sets = some y ∧ y.state = 3) ∧
  -- repairDeadline
  (∀ s line now x v, s.repairs.find? (fun r => r.line == line) = some x →
    (s.at now).expired (x.openedAt + msec * field (s.regNat (blkKeeper + 0x200)) 15 0) = true → x.adapter = false →
    lookup x.slot s.sets = some v → v.state = 2 →
    Reaches (exec (.repairDeadline line now) s) fun t => ∃ y, lookup x.slot t.sets = some y ∧ y.state = 3) ∧
  -- interfaceRetrain
  (∀ s c now, s.ctrlFitted c = true → c ∉ s.retraining → c ∉ s.mem.failed →
    Reaches (exec (.interfaceRetrain c now) s) fun t => t.retraining = s.retraining ++ [c] ∧ t.mem = s.mem) ∧
  -- interfaceRetrainDone
  (∀ s c now, c ∈ s.retraining →
    Reaches (exec (.interfaceRetrainDone c true now) s) fun t => c ∉ t.retraining ∧ t.log.next = s.log.next + 1 ∧ t.mem = s.mem ∧
      (t.regNat (evMem c)).testBit 4 = true) ∧
  (∀ s c now, c ∈ s.retraining → c < 16 →
    Reaches (exec (.interfaceRetrainDone c false now) s) fun t => c ∉ t.retraining ∧ t.log.next = s.log.next + 1 ∧ c ∈ t.mem.failed ∧
      t.clock.fatal = true) ∧
  (∀ s c now, c ∈ s.retraining → 16 ≤ c →
    Reaches (exec (.interfaceRetrainDone c false now) s) fun t => c ∉ t.retraining ∧ t.log.next = s.log.next + 1 ∧
      (t.socket (c - 16)).state = .lost ∧ t.mem = s.mem.forget (socketBase (c - 16)) socketBytes)

/-- Serving services open and close by commits, and a sequence is cancelled (R427, R459, R454). -/
def Obligations.ServicesOpenAndClose : Prop :=
  -- serveOpen
  (∀ s r k hv, s.Ready 0x6000 r k → theRefusal ((s.meets hv k).serveOpenFails k) = none →
    (s.meets hv k).rangesStatus ((k.param 64 8, 64 + 32 * (s.meets hv k).natAt (k.param 64 8 + 28) 4) ::
      if k.param 34 1 ≠ 0xFF then [(k.param 72 8, 64 + 32 * (s.meets hv k).natAt (k.param 72 8 + 28) 4)] else []) = none →
    (s.meets hv k).modelFails (k.param 64 8) ((s.meets hv k).newServing k).kvFmt ((s.meets hv k).setBytes ((s.meets hv k).newServing k).set) = none →
    (k.param 34 1 ≠ 0xFF →
      (s.meets hv k).modelFails (k.param 72 8) ((s.meets hv k).newServing k).kvFmt ((s.meets hv k).setBytes (k.param 34 1)) = none) →
    (∀ m, ((s.meets hv k).newServing k).draft = some m → m.vocab = ((s.meets hv k).newServing k).model.vocab) →
    (s.meets hv k).descFails k (decide (k.param 34 1 ≠ 0xFF)) = none → theRefusal ((s.meets hv k).poolFails k ((s.meets hv k).newServing k)) = none →
    Reaches (exec (.serveOpen r hv) s) fun t => t.Waits r ∧
      t.serving = insert (k.param 32 1) ((s.meets hv k).newServing k) s.serving ∧ t.commits = s.commits ++ [⟨.serveOpen r (k.param 32 1), []⟩]) ∧
  -- serveClose
  (∀ s r k hv v, s.Ready 0x6001 r k → lookup (k.param 32 1) s.serving = some v → v.opened = true → v.berth = k.berth → v.closing = none →
    Reaches (exec (.serveClose r hv) s) fun t => ∃ x, lookup (k.param 32 1) t.serving = some x ∧ x.closing.isSome = true) ∧
  (∀ s r k hv v, s.Ready 0x6001 r k → lookup (k.param 32 1) s.serving = some v → v.opened = true → v.berth = k.berth → v.closing = none →
    v.step = none → v.runs = [] → v.draftSet = none → s.manifest = [] →
    (s.commits.any fun w => w.owner == .serveClose (k.param 32 1)) = false →
    Reaches (exec (.serveClose r hv) s) fun t => t.Waits r ∧ t.commits = s.commits ++ [⟨.serveClose (k.param 32 1), []⟩] ∧
      ∃ x, lookup (k.param 32 1) t.serving = some x ∧ x.closing = some (r, k.param 33 1, 0)) ∧
  -- seqCancel
  (∀ s r k hv v i e, s.Ready 0x6004 r k → lookup (k.param 32 1) s.serving = some v → v.opened = true → v.berth = k.berth →
    (s.entriesOf (k.param 32 1)).find? (fun e => e.2.request == k.param 40 8) = some (i, e) → e.state = 1 →
    Reaches (exec (.seqCancel r hv) s) fun t => t.Answered r {}) ∧
  (∀ s r k hv v i e, s.Ready 0x6004 r k → lookup (k.param 32 1) s.serving = some v → v.opened = true → v.berth = k.berth →
    (s.entriesOf (k.param 32 1)).find? (fun e => e.2.request == k.param 40 8) = some (i, e) → lookup i s.manifest = some e → e.state ≠ 1 →
    v.step.isSome = true →
    Reaches (exec (.seqCancel r hv) s) fun t => t.Waits r ∧
      ∃ x, lookup i t.manifest = some x ∧ x.ending = some (e.ending.getD stSeqCancelled) ∧ x.cancels = e.cancels ++ [r]) ∧
  (∀ s r k hv v, s.Ready 0x6004 r k → lookup (k.param 32 1) s.serving = some v → v.opened = true → v.berth = k.berth →
    (s.entriesOf (k.param 32 1)).find? (fun e => e.2.request == k.param 40 8) = none →
    Reaches (exec (.seqCancel r hv) s) fun t => t.Ended r stNotFound ∧ t.manifest = s.manifest)

/-- ADMIT and ROLLOUT put their work into the manifest or the service's list of runs (R433, R461). -/
def Obligations.RequestsAreAdmitted : Prop :=
  -- admitSequence
  (∀ s r k hv v, s.Ready 0x6002 r k →
    theRefusal ((s.meets hv k).admitRanges k (k.param 72 8) (k.param 44 4) (k.param 80 8) (k.param 48 4) 72 80) = none →
    (s.meets hv k).admitFails k (k.param 32 1) (k.param 33 1) (k.param 34 1) (k.param 40 4) = none →
    lookup (k.param 32 1) s.serving = some v → k.param 44 4 + k.param 48 4 ≤ v.maxContext → s.manifest.length < 16384 →
    (s.entriesOf (k.param 32 1)).length < v.maxSeq → s.classQueue (k.param 32 1) (k.param 33 1) = [] → v.turning = false →
    v.fits (spansFor (k.param 44 4)) = true →
    Reaches (exec (.admitSequence r hv) s) fun t => t.Answered r { status := stAdmitted } ∧
      ∃ i e, i < 16384 ∧ lookup i t.manifest = some e ∧ e.svc = k.param 32 1 ∧ e.request = k.param 88 8 ∧ e.state = 2) ∧
  (∀ s r k hv v, s.Ready 0x6002 r k →
    theRefusal ((s.meets hv k).admitRanges k (k.param 72 8) (k.param 44 4) (k.param 80 8) (k.param 48 4) 72 80) = none →
    (s.meets hv k).admitFails k (k.param 32 1) (k.param 33 1) (k.param 34 1) (k.param 40 4) = none →
    lookup (k.param 32 1) s.serving = some v → k.param 44 4 + k.param 48 4 ≤ v.maxContext → s.manifest.length < 16384 →
    (s.entriesOf (k.param 32 1)).length < v.maxSeq →
    (s.classQueue (k.param 32 1) (k.param 33 1) ≠ [] ∨ v.turning = true ∨ v.fits (spansFor (k.param 44 4)) = false) →
    (s.classQueue (k.param 32 1) (k.param 33 1)).length < v.holdDepth → bitOf (k.param 35 1) 0 = false →
    Reaches (exec (.admitSequence r hv) s) fun t =>
      t.Answered r { status := stHeld, result1 := (s.classQueue (k.param 32 1) (k.param 33 1)).length + 1 } ∧
      ∃ i e x, lookup i t.manifest = some e ∧ e.svc = k.param 32 1 ∧ e.request = k.param 88 8 ∧ e.state = 1 ∧
        lookup (k.param 32 1) t.serving = some x ∧ x.held = v.held ++ [i]) ∧
  -- rollout
  (∀ s r k hv v, s.Ready 0x6003 r k → placeOf (k.param 72 8) = .host (k.param 72 8 % 2 ^ 62) → placeOf (k.param 80 8) = .host (k.param 80 8 % 2 ^ 62) →
    (s.meets hv k).admitFails k (k.param 32 1) 0 (k.param 33 1) 0 = none → lookup (k.param 32 1) s.serving = some v →
    k.param 40 4 ≤ v.maxContext → s.manifest.length < 16384 → (s.entriesOf (k.param 32 1)).length < v.maxSeq → v.runs.length < 4 →
    Reaches (exec (.rollout r hv) s) fun t => t.Answered r {} ∧
      ∃ x y, lookup (k.param 32 1) t.serving = some x ∧ x.runs = v.runs ++ [y] ∧ y.run = k.param 60 4 ∧ y.prompts = k.param 36 4 ∧
        y.samples = k.param 35 1 ∧ y.next = 0 ∧ y.ended = 0) ∧
  (∀ s r k hv v a b, s.Ready 0x6003 r k → placeOf (k.param 72 8) = .device a → placeOf (k.param 80 8) = .device b →
    (s.meets hv k).rangeOf k a (16 * k.param 36 4) false = none →
    (s.meets hv k).rangeOf k b (k.param 36 4 * k.param 35 1 * k.param 88 8) true = none →
    (s.meets hv k).admitFails k (k.param 32 1) 0 (k.param 33 1) 0 = none → lookup (k.param 32 1) s.serving = some v →
    k.param 40 4 ≤ v.maxContext → s.manifest.length < 16384 → (s.entriesOf (k.param 32 1)).length < v.maxSeq → v.runs.length < 4 →
    Reaches (exec (.rollout r hv) s) fun t => t.Answered r {} ∧
      ∃ x y, lookup (k.param 32 1) t.serving = some x ∧ x.runs = v.runs ++ [y] ∧ y.run = k.param 60 4 ∧ y.prompts = k.param 36 4 ∧
        y.samples = k.param 35 1 ∧ y.next = 0 ∧ y.ended = 0)

/-- Serving steps are built and completed, and budgets refilled (R439, R437, R436). -/
def Obligations.ServingStepsRun : Prop :=
  -- stepBuild
  (∀ s n now hv v t0 v0 w j j2, lookup n s.serving = some v → v.opened = true → v.step = none →
    ((s.at now).sees hv).turnOf v.berth 1 n = some t0 → lookup n t0.serving = some v0 → v0.opened = true → v0.step = none → v0.again = none →
    ((t0.boundary n).closeIfDone n).stepsHeld n v0 = false → ((t0.boundary n).closeIfDone n).stepReady n v0 = w →
    lookup n w.serving = some j → (w.chooseStep n j 16384).2.2 ≠ [] → w.power.state ≠ .idle →
    lookup n (w.chooseStep n j 16384).1.serving = some j2 →
    Reaches (exec (.stepBuild n now hv) s) fun t => ∃ x, lookup n t.serving = some x ∧ x.stepNo = j2.stepNo + 1 ∧
      x.step = some ⟨j2.stepNo + 1, s.spine.epoch.toNat, (w.chooseStep n j 16384).2.1, (w.chooseStep n j 16384).2.2⟩) ∧
  -- serveStepComplete
  (∀ s n now hv v b z, lookup n s.serving = some v → v.step = some b → s.beating = true →
    z = ((s.at now).sees hv).ringing.actFor b.epoch v.berth → z.rangesStatus (z.stepReads v { b with rows := z.soundRows b }) = none →
    Reaches (exec (.serveStepComplete n now hv) s) fun t => ∃ x, lookup n t.serving = some x ∧ x.step = none) ∧
  -- budgetRefill
  (∀ s now a, a < 64 → (s.at now).now % msec = 0 →
    Reaches (exec (.budgetRefill now) s) fun t => t.balance a =
      if s.balance a < (field (s.regNat (budgetBase a + 4)) 30 0 : Nat) then
        min (s.balance a + (field (s.regNat (budgetBase a)) 23 0 : Nat)) (field (s.regNat (budgetBase a + 4)) 30 0 : Nat)
      else s.balance a)

/-- Training services open, begin steps and close (R464, R489, R470). -/
def Obligations.TrainingOpensAndCloses : Prop :=
  -- trainStep
  (∀ s r k hv pounds, s.Ready 0x7000 r k → theRefusal ((s.meets hv k).trainFails k ++ [(s.meets hv k).rangesFail k ((s.meets hv k).planReads k) false 72]) = none →
    (s.meets hv k).rangesStatus ((s.meets hv k).planReads k) = none →
    ((s.meets hv k).readPlan (k.param 72 8)).fails ((s.meets hv k).bytesAt (k.param 72 8) 96) ((s.meets hv k).dataSize k) ((s.meets hv k).stage k) ((s.meets hv k).stages k) = none →
    (s.meets hv k).planLaneFails k ((s.meets hv k).readPlan (k.param 72 8)) = none →
    (((s.meets hv k).planRanges k ((s.meets hv k).readPlan (k.param 72 8))).findSome? fun x => (s.meets hv k).rangeOf k x.1 x.2 true { reach := true }) = none →
    (s.meets hv k).poundsOf k ((s.meets hv k).readPlan (k.param 72 8)) = some pounds → (s.meets hv k).stashNeeds k ((s.meets hv k).readPlan (k.param 72 8)) ≤ k.param 96 8 →
    ((s.meets hv k).readPlan (k.param 72 8)).workNeeds ≤ k.param 120 8 →
    Reaches (exec (.trainStep r hv) s) fun t => t.Waits r ∧ t.commits = s.commits ++ [⟨.trainOpen r (k.param 32 1), []⟩] ∧
      lookup (k.param 32 1) t.trains = some ((s.meets hv k).newTrain k ((s.meets hv k).readPlan (k.param 72 8)) pounds)) ∧
  -- trainClose
  (∀ s r k hv v, s.Ready 0x7001 r k → lookup (k.param 32 1) s.trains = some v → v.cmd.berth = k.berth → v.opened = true → v.ended = false →
    v.closing = none → (v.stopped.isSome = true ∨ v.phase = .idle) →
    Reaches (exec (.trainClose r hv) s) fun t => t.Waits r ∧ t.commits = s.commits ++ [⟨.trainClose (k.param 32 1), []⟩] ∧
      lookup (k.param 32 1) t.trains = some { v with closing := some (r, k.param 33 1), ended := true }) ∧
  (∀ s r k hv v, s.Ready 0x7001 r k → lookup (k.param 32 1) s.trains = some v → v.cmd.berth = k.berth → v.opened = true → v.ended = false →
    v.closing = none → v.stopped = none → v.phase ≠ .idle → (k.param 33 1 ≠ 1 ∨ v.commitCast = true) →
    Reaches (exec (.trainClose r hv) s) fun t => t.Waits r ∧ t.commits = s.commits ∧
      lookup (k.param 32 1) t.trains = some { v with closing := some (r, k.param 33 1) }) ∧
  (∀ s r k hv v, s.Ready 0x7001 r k → lookup (k.param 32 1) s.trains = some v → v.cmd.berth = k.berth → v.opened = true → v.ended = false →
    v.closing = none → v.stopped = none → v.phase ≠ .idle → k.param 33 1 = 1 → v.commitCast = false → v.parking = [] → s.turns = [] →
    s.colls = [] →
    Reaches (exec (.trainClose r hv) s) fun t => t.Waits r ∧ t.commits = s.commits ++ [⟨.trainClose (k.param 32 1), []⟩] ∧
      ∃ x, lookup (k.param 32 1) t.trains = some x ∧ x.phase = .idle ∧ x.ended = true ∧ x.last = stTrainClosed ∧ x.committed = v.committed) ∧
  -- trainStepStart
  (∀ s n now hv k t0 k0 u, lookup n s.trains = some k → ((s.at now).sees hv).trainMayStart k = true →
    ((s.at now).sees hv).turnOf k.cmd.berth 2 n = some t0 → t0.beating = true →
    u = (t0.actFor s.spine.epoch.toNat k.cmd.berth).ringing → lookup n t0.trains = some k0 → u.trainMayStart k0 = true →
    u.tableStops k0 (u.stepTable (u.natAt (k0.cmd.param 80 8 + 8 * k0.index) 8)) = true →
    Reaches (exec (.trainStepStart n now hv) s) fun t => ∃ x, lookup n t.trains = some x ∧ x.stopped = some stTrainBatch ∧
      x.phase = .idle ∧ x.loss = 0 ∧ x.lossRows = 0 ∧ x.committed = k0.committed) ∧
  (∀ s n now hv k t0 k0 u table, lookup n s.trains = some k → ((s.at now).sees hv).trainMayStart k = true →
    ((s.at now).sees hv).turnOf k.cmd.berth 2 n = some t0 → t0.beating = true →
    u = (t0.actFor s.spine.epoch.toNat k.cmd.berth).ringing → lookup n t0.trains = some k0 → u.trainMayStart k0 = true →
    u.stepTable (u.natAt (k0.cmd.param 80 8 + 8 * k0.index) 8) = table → u.tableStops k0 table = false →
    Reaches (exec (.trainStepStart n now hv) s) fun t => ∃ x, lookup n t.trains = some x ∧ x.micros = table.micros ∧
      x.records = table.records ∧ x.tokenNorm = table.tokenNorm ∧ x.order = List.range table.micros.length ∧ x.round = k0.round + 1 ∧
      lookup k.cmd.berth t.occupants = some (2, n))

/-- Pipeline entries, pass ends and repeated passes act as R474 to R483 give (R475, R483). -/
def Obligations.TrainingPassesRun : Prop :=
  -- poundEntry
  (∀ s n p now k m x z w, lookup n s.trains = some k → (s.at now).beating = true → z = ((s.at now).inTrain n).ringing → k.phase = .pass → k.again = none →
    z.PipeMeets n p m x → m.prefix.digest = x.cmd.digest → m.body.length = x.cmd.param 64 8 + 16 → m.poison = [] → w = z.pipeTaken p m x →
    x.cmd.collSeq ≠ k.passWindow + 4096 → k.PoundsPosted → k.op = none → x.cmd.param 48 1 = 1 → k.bwd = [] → z.stage k.cmd + 1 ≠ z.stages k.cmd →
    k.backwards < k.order.length → (k.order.length ≤ k.forwards ∨ z.warmUp k < k.forwards - k.backwards) →
    Reaches (exec (.poundEntry n p now) s) fun t => t.mem = w.mem ∧ t.colls = [] ∧
      lookup n t.trains = some { k with fwd := k.fwd ++ [⟨w.natAt (x.cmd.param 56 8) 4, w.natAt (x.cmd.param 56 8 + 4) 4, (w.natAt (x.cmd.param 56 8 + 8) 4).testBit 0, x.cmd.param 56 8, z.now⟩] }) ∧
  (∀ s n p now k m x z w, lookup n s.trains = some k → (s.at now).beating = true → z = ((s.at now).inTrain n).ringing → k.phase = .pass → k.again = none →
    z.PipeMeets n p m x → m.prefix.digest = x.cmd.digest → m.body.length = x.cmd.param 64 8 + 16 → m.poison = [] → w = z.pipeTaken p m x →
    x.cmd.collSeq ≠ k.passWindow + 4096 → k.PoundsPosted → k.op = none → x.cmd.param 48 1 = 0 → k.fwd = [] → z.stage k.cmd ≠ 0 →
    k.forwards < k.order.length → k.backwards < k.order.length → k.forwards - k.backwards ≤ z.warmUp k →
    Reaches (exec (.poundEntry n p now) s) fun t => t.mem = w.mem ∧ t.colls = [] ∧
      lookup n t.trains = some { k with bwd := k.bwd ++ [⟨w.natAt (x.cmd.param 56 8) 4, w.natAt (x.cmd.param 56 8 + 4) 4, (w.natAt (x.cmd.param 56 8 + 8) 4).testBit 0, x.cmd.param 56 8, z.now⟩] }) ∧
  (∀ s n p now k m x z w, lookup n s.trains = some k → (s.at now).beating = true → z = ((s.at now).inTrain n).ringing → k.phase = .pass → k.again = none →
    z.PipeMeets n p m x → m.prefix.digest = x.cmd.digest → m.body.length = x.cmd.param 64 8 + 16 → m.poison = [] → w = z.pipeTaken p m x →
    x.cmd.collSeq ≠ k.passWindow + 4096 → k.PoundsPosted → k.op = none → x.cmd.param 48 1 = 1 → k.fwd = [] → z.stage k.cmd ≠ 0 →
    k.forwards < k.order.length → k.backwards < k.order.length → k.forwards - k.backwards ≤ z.warmUp k →
    w.rangesStatus [(x.cmd.param 56 8, k.plan.entryBytes k.cmd.microRows)] = none →
    Reaches (exec (.poundEntry n p now) s) fun t => ∃ y, lookup n t.trains = some y ∧
      y.tags = insert (k.micro true) (w.natAt (x.cmd.param 56 8 + 4) 4) k.tags) ∧
  (∀ s n p now k m x z w st, lookup n s.trains = some k → (s.at now).beating = true → z = ((s.at now).inTrain n).ringing → k.phase = .pass → k.again = none →
    z.PipeMeets n p m x → m.prefix.digest = x.cmd.digest → m.body.length = x.cmd.param 64 8 + 16 → m.poison = [] → w = z.pipeTaken p m x →
    x.cmd.collSeq ≠ k.passWindow + 4096 → k.PoundsPosted → k.op = none → x.cmd.param 48 1 = 1 → k.fwd = [] → z.stage k.cmd ≠ 0 →
    k.forwards < k.order.length → k.backwards < k.order.length → k.forwards - k.backwards ≤ z.warmUp k →
    w.rangesStatus [(x.cmd.param 56 8, k.plan.entryBytes k.cmd.microRows)] = some st →
    Reaches (exec (.poundEntry n p now) s) fun t => ∃ y, lookup n t.trains = some y ∧ y.stopped = some stTrainFailed ∧ y.phase = .idle) ∧
  (∀ s n p now k m x z, lookup n s.trains = some k → (s.at now).beating = true → z = ((s.at now).inTrain n).ringing → k.phase = .pass → k.again = none →
    z.PipeMeets n p m x → m.prefix.digest ≠ x.cmd.digest →
    Reaches (exec (.poundEntry n p now) s) fun t => ∃ y, lookup n t.trains = some y ∧ y.stopped = some stTrainFailed ∧ y.phase = .idle) ∧
  -- passEnd
  (∀ s n p now k m x g z w, lookup n s.trains = some k → (s.at now).beating = true → z = ((s.at now).inTrain n).ringing → k.phase = .pass → k.again = none →
    z.PipeMeets n p m x → m.prefix.digest = x.cmd.digest → m.body.length = x.cmd.param 64 8 + 16 → m.poison = [] → w = z.pipeTaken p m x →
    x.cmd.collSeq = k.passWindow + 4096 → k.order.length ≤ k.backwards → k.cmd.pipeGroup = some g →
    w.rangesStatus [(x.cmd.param 56 8, k.plan.entryBytes k.cmd.microRows)] = none →
    w.natAt (x.cmd.param 56 8) 4 ≠ 0 → k.pass < 3 →
    Reaches (exec (.passEnd n p now) s) fun t => ∃ y, lookup n t.trains = some y ∧ y.phase = .pass ∧
      y.again = some (z.now, (List.range (w.natAt (x.cmd.param 56 8) 4)).map fun i => w.natAt (x.cmd.param 56 8 + 64 + 4 * i) 4)) ∧
  (∀ s n p now k m x g z w, lookup n s.trains = some k → (s.at now).beating = true → z = ((s.at now).inTrain n).ringing → k.phase = .pass → k.again = none →
    z.PipeMeets n p m x → m.prefix.digest = x.cmd.digest → m.body.length = x.cmd.param 64 8 + 16 → m.poison = [] → w = z.pipeTaken p m x →
    x.cmd.collSeq = k.passWindow + 4096 → k.order.length ≤ k.backwards → k.cmd.pipeGroup = some g →
    w.rangesStatus [(x.cmd.param 56 8, k.plan.entryBytes k.cmd.microRows)] = none →
    w.natAt (x.cmd.param 56 8) 4 = 0 → w.rangesStatus [w.stashRange k] = none →
    Reaches (exec (.passEnd n p now) s) fun t => ∃ y, lookup n t.trains = some y ∧ y.phase = .finiteData) ∧
  (∀ s n p now k m x g z w, lookup n s.trains = some k → (s.at now).beating = true → z = ((s.at now).inTrain n).ringing → k.phase = .pass → k.again = none →
    z.PipeMeets n p m x → m.prefix.digest = x.cmd.digest → m.body.length = x.cmd.param 64 8 + 16 → m.poison = [] → w = z.pipeTaken p m x →
    x.cmd.collSeq = k.passWindow + 4096 → k.order.length ≤ k.backwards → k.cmd.pipeGroup = some g →
    w.rangesStatus [(x.cmd.param 56 8, k.plan.entryBytes k.cmd.microRows)] = none →
    w.natAt (x.cmd.param 56 8) 4 ≠ 0 → 3 ≤ k.pass →
    Reaches (exec (.passEnd n p now) s) fun t => ∃ y, lookup n t.trains = some y ∧ y.stopped = some stTrainVersion) ∧
  -- microRerunDelay
  (∀ s n now k t0 bad, lookup n s.trains = some k → (s.at now).beating = true → k.again = some (t0, bad) →
    (s.at now).expired (t0 + msec) = true →
    Reaches (exec (.microRerunDelay n now) s) fun t => ∃ x, lookup n t.trains = some x ∧ x.pass = k.pass + 1 ∧ x.order = bad)

/-- A step's votes skip, commit or repeat it as R485 to R487 give (R485, R486, R487). -/
def Obligations.TrainingDecisionsApply : Prop :=
  -- stepFiniteResult
  (∀ s n now k, lookup n s.trains = some k → k.phase = .finiteKnown false →
    Reaches (exec (.stepFiniteResult n now) s) fun t => ∃ x, lookup n t.trains = some x ∧ x.phase = .idle ∧ x.index = k.index + 1 ∧
      x.last = stTrainSkipped ∧ x.committed = k.committed ∧ x.version = k.version) ∧
  (∀ s n now k, lookup n s.trains = some k → k.phase = .finiteKnown true →
    Reaches (exec (.stepFiniteResult n now) s) fun t => ∃ x, lookup n t.trains = some x ∧ x.phase = .reducing ∧ x.dirty = false ∧
      x.index = k.index ∧ x.issued = k.issued + k.plan.parts.length) ∧
  (∀ s n now k, lookup n s.trains = some k → k.phase = .finiteData → k.cmd.pipeGroup = none →
    s.takeResult n 0x5005 (k.nextSeq - 1) = some (0, 1) →
    Reaches (exec (.stepFiniteResult n now) s) fun t => ∃ x, lookup n t.trains = some x ∧ x.phase = .reducing ∧ x.index = k.index) ∧
  (∀ s n now k st r0, lookup n s.trains = some k → k.phase = .finiteData → s.takeResult n 0x5005 (k.nextSeq - 1) = some (st + 1, r0) →
    Reaches (exec (.stepFiniteResult n now) s) fun t => ∃ x, lookup n t.trains = some x ∧ x.phase = .idle ∧ x.stopped = some stTrainFailed) ∧
  -- stepDecision
  (∀ s n ratios now k, lookup n s.trains = some k → k.phase = .decided true →
    Reaches (exec (.stepDecision n ratios now) s) fun t => ∃ x, lookup n t.trains = some x ∧ x.phase = .idle ∧ x.index = k.index + 1 ∧
      x.committed = k.committed + 1 ∧ x.last = stSuccess ∧
      x.version = if (k.version + 1) % 2 ^ 32 = 0 then 1 else (k.version + 1) % 2 ^ 32) ∧
  -- attemptRetry
  (∀ s n now k, lookup n s.trains = some k → k.phase = .decided false → k.attempt < k.cmd.param 58 1 →
    (∀ r ∈ s.reduces n, r.ended.map Prod.fst ≠ some stUncorrectable) →
    Reaches (exec (.attemptRetry n now) s) fun t =>
      lookup n t.trains = some { k with phase := .readyVote, attempt := k.attempt + 1, issued := k.issued + 1 }) ∧
  (∀ s n now k, lookup n s.trains = some k → k.phase = .decided false → k.cmd.param 58 1 ≤ k.attempt →
    Reaches (exec (.attemptRetry n now) s) fun t => ∃ x, lookup n t.trains = some x ∧ x.phase = .idle ∧ x.stopped = some stTrainFailed ∧
      x.version = k.version ∧ x.committed = k.committed)

/-- Final blocks are applied to the shadow slot, whose header is then written (R496, R498). -/
def Obligations.UpdateEventsApply : Prop :=
  -- finalBlockUpdate
  (∀ s ctx now k i b u, s.updaterOf ctx = some k → k.owner = CollOwner.command → (s.at now).beating = true →
    k.finals.find? (fun f => f.1 == s.ctxNext ctx) = some (i, b) → ((s.at now).ringing.actAs k.cmd).updateStaged k.cmd.epoch ctx i b.gradient [] = u →
    u.1.stateLost ctx = false →
    Reaches (exec (.finalBlockUpdate ctx now) s) fun t => t.mem = u.1.mem ∧
      t.regNat (ctxStatus ctx) = u.1.regNat (ctxStatus ctx) - u.1.ctxNext ctx + (i + 1) % 2 ^ 25) ∧
  -- shadowHeaderWrite
  (∀ s ctx now k, s.updaterOf ctx = some k → k.ownDone = false → s.ctxNext ctx = s.ctxBlocks k.cmd.epoch ctx → s.stateLost ctx = false →
    Reaches (exec (.shadowHeaderWrite ctx now) s) fun t => t.mem = (((s.at now).actAs k.cmd).closeShadow k.cmd.epoch ctx k.cmd.step).mem) ∧
  (∀ s ctx now k, s.updaterOf ctx = some k → s.colls = [k] → k.voting = true → k.ownDone = false →
    s.ctxNext ctx = s.ctxBlocks k.cmd.epoch ctx → s.stateLost ctx = false →
    Reaches (exec (.shadowHeaderWrite ctx now) s) fun t => t.mem = (((s.at now).actAs k.cmd).closeShadow k.cmd.epoch ctx k.cmd.step).mem ∧
      t.colls = [{ k with ownDone := true }])

/-- Checkpoints are exported and imported as R511 to R514 give (R511, R513). -/
def Obligations.CheckpointsComplete : Prop :=
  -- checkpoint
  (∀ s r k hv, s.Ready 0x7002 r k → theRefusal ((s.meets hv k).checkpointFails k) = none →
    ((s.meets hv k).checkLive k.epoch (k.param 32 1)).stateLost (k.param 32 1) = false →
    Reaches (exec (.checkpoint r hv) s) fun t => t.Answered r {} ∧ t.mem = ((s.meets hv k).checkLive k.epoch (k.param 32 1)).mem ∧
      ∃ e, t.exports = s.exports ++ [e] ∧ e.ctx = k.param 32 1 ∧ e.queue = k.queue ∧ e.fn = k.fn ∧ e.tag = k.tag ∧ e.dst = k.param 40 8) ∧
  (∀ s r k hv, s.Ready 0x7002 r k → theRefusal ((s.meets hv k).checkpointFails k) = none →
    ((s.meets hv k).checkLive k.epoch (k.param 32 1)).stateLost (k.param 32 1) = true →
    Reaches (exec (.checkpoint r hv) s) fun t => t.Ended r stPoisoned ∧ t.exports = s.exports) ∧
  -- checkpointImport
  (∀ s r k hv, s.Ready 0x7003 r k → theRefusal ((s.meets hv k).importFails k ((s.meets hv k).readPlace (placeOf (k.param 40 8)) 0 ((s.meets hv k).imageBytes k.epoch (k.param 32 1))).1) = none →
    ((s.meets hv k).readPlace (placeOf (k.param 40 8)) 0 ((s.meets hv k).imageBytes k.epoch (k.param 32 1))).2 = none →
    Reaches (exec (.checkpointImport r hv) s) fun t =>
      if crc64 (((s.meets hv k).readPlace (placeOf (k.param 40 8)) 0 ((s.meets hv k).imageBytes k.epoch (k.param 32 1))).1.drop 128)
          = fieldAt ((s.meets hv k).readPlace (placeOf (k.param 40 8)) 0 ((s.meets hv k).imageBytes k.epoch (k.param 32 1))).1 32 8
      then t.Answered r {} else t.Ended r stUncorrectable) ∧
  -- checkpointExportDone
  (∀ s ctx now hv e, s.exports.find? (fun e => e.ctx == ctx) = some e →
    Reaches (exec (.checkpointExportDone ctx now hv) s) fun t => t.exports = s.exports.erase e) ∧
  (∀ s ctx now hv e q, s.exports.find? (fun e => e.ctx == ctx) = some e → e.failed = none →
    (((s.at now).sees hv).writePlace (placeOf e.dst) 0 e.image).2 = none →
    s.reports = [] → lookup e.queue s.queues = some q → q.cqFull = true → q.fn = e.fn →
    Reaches (exec (.checkpointExportDone ctx now hv) s) fun t =>
      t.mem = (((s.at now).sees hv).writePlace (placeOf e.dst) 0 e.image).1.mem ∧
      t.host = (((s.at now).sees hv).writePlace (placeOf e.dst) 0 e.image).1.host ∧
      t.reports = [{ queue := e.queue, tag := e.tag, fn := e.fn, status := stSuccess, detail := 0, epoch := e.epoch,
                     result0 := fieldAt e.image 32 8, result1 := e.generation }]) ∧
  (∀ s ctx now hv e st q, s.exports.find? (fun e => e.ctx == ctx) = some e → e.failed = some st →
    s.reports = [] → lookup e.queue s.queues = some q → q.cqFull = true → q.fn = e.fn →
    Reaches (exec (.checkpointExportDone ctx now hv) s) fun t => t.mem = s.mem ∧
      t.reports = [{ queue := e.queue, tag := e.tag, fn := e.fn, status := st, detail := 0, epoch := e.epoch, result0 := 0, result1 := 0 }])

/-- A TURN waits for its first commit, settles, and cuts what is late (R524, R532). -/
def Obligations.TurnsBeginAndSettle : Prop :=
  -- turn
  (∀ s r k hv v, s.Ready 0x8000 r k → theRefusal ((s.meets hv k).turnFails k) = none → lookup (k.param 33 1) s.serving = some v →
    (s.meets hv k).rangesStatus ((k.turnReads ((s.meets hv k).natAt (k.param 96 8 + 28) 4)).filter fun x => decide (0 < x.2)) = none →
    (s.meets hv k).turnRefusal k v = none →
    Reaches (exec (.turn r hv) s) fun t => t.Waits r ∧ t.commits = s.commits ++ [⟨.turnFirst r (k.param 33 1), []⟩] ∧
      ∃ x, lookup (k.param 33 1) t.turns = some x ∧ x.cmd = k ∧ x.phase = 1 ∧ x.failing = none ∧ x.pieces.length = k.param 52 4) ∧
  -- settleEnd
  (∀ s n now x v, lookup n s.turns = some x → lookup n s.serving = some v → x.phase = 2 → x.failing = none → x.train = none →
    v.step = none → (s.entriesOf n).any (fun e => x.answers e.2) = false →
    Reaches (exec (.settleEnd n now) s) fun t => lookup n t.serving = some { v with frozen := true } ∧
      lookup n t.turns = some { x with phase := 3, version := x.cmd.param 44 4, transferAt := (s.at now).now }) ∧
  (∀ s n now x v y q, lookup n s.turns = some x → lookup n s.serving = some v → x.phase = 2 → x.failing = none → x.train = some q →
    lookup q s.trains = some y → y.parked = true → y.phase = .idle → x.pieces = [] →
    v.step = none → (s.entriesOf n).any (fun e => x.answers e.2) = false →
    Reaches (exec (.settleEnd n now) s) fun t => lookup n t.serving = some { v with frozen := true } ∧
      lookup n t.turns = some { x with phase := 3, version := y.version, transferAt := (s.at now).now }) ∧
  (∀ s n now x v y q z p, lookup n s.turns = some x → lookup n s.serving = some v → x.phase = 2 → x.failing = none → x.train = some q →
    lookup q s.trains = some y → y.parked = true → y.phase = .idle → x.toGeneration = true → x.pieces = [z] → z.dest ≠ s.ownRoute →
    s.routePort z.dest = some p → (s.port p).state < 3 →
    v.step = none → (s.entriesOf n).any (fun e => x.answers e.2) = false →
    Reaches (exec (.settleEnd n now) s) fun t => ∃ w, lookup n t.turns = some w ∧ w.phase = 3 ∧ w.version = y.version ∧
      w.failing.isSome = true) ∧
  (∀ s n now x v q, lookup n s.turns = some x → lookup n s.serving = some v → x.phase = 2 → x.failing = none → x.train = some q →
    lookup q s.trains = none →
    Reaches (exec (.settleEnd n now) s) fun t => t.commits = s.commits ++ [⟨.turnAbandon n, []⟩] ∧
      lookup n t.turns = some { x with failing := some (stTrainClosed, false) }) ∧
  -- drainDeadline
  (∀ s n now x v i e, lookup n s.turns = some x → x.phase = 2 → x.cuts = false → x.failing = none →
    (s.at now).expired (x.startedAt + x.cmd.param 48 2 * msec) = true → lookup n s.serving = some v → v.step.isSome = true →
    s.entriesOf n = [(i, e)] → lookup i s.manifest = some e → x.answers e = true →
    Reaches (exec (.drainDeadline n now) s) fun t =>
      lookup i t.manifest = some { e with ending := some (e.ending.getD stSeqCut) })

/-- A turn's pieces are placed, its transfer ends, and its final commit makes the new set serve (R529, R533, R534, R538). -/
def Obligations.TurnsTransferAndCommit : Prop :=
  -- turnPiece
  (∀ s p now m svc x, (s.port p).inbox = [m] → m.cls = 0x1101 → s.turns = [(svc, x)] → x.cmd.param 40 4 = m.context → x.phase = 3 →
    x.failing = none → pieceFormFails m.body = false → 48 ≤ m.body.length →
    (x.model.bind (readPiece m.body).target).isSome = true →
    Reaches (exec (.turnPiece p now) s) fun t =>
      t.mem = (({ (s.at now).consume p m with acting := .idle } : State).placePiece svc x (readPiece m.body) (m.body.drop 48)
        (m.poison.map fun q => (q.1 - 48, q.2 - (48 - q.1)))).mem ∧
      ∃ y, lookup svc t.turns = some y ∧ y.placed = x.placed + (m.body.length - 48)) ∧
  (∀ s p now m svc x, (s.port p).inbox = [m] → m.cls = 0x1101 → s.turns = [(svc, x)] → x.cmd.param 40 4 = m.context → x.phase = 3 →
    x.failing = none → 48 ≤ m.body.length → (x.model.bind (readPiece m.body).target) = none →
    Reaches (exec (.turnPiece p now) s) fun t => t.mem = s.mem ∧ t.turns = s.turns ∧
      (t.port p).inbox = []) ∧
  -- transferEnd
  (∀ s n now x, lookup n s.turns = some x → x.phase = 3 → x.failing = none → x.sent.all (fun m => s.messageAcked m) = true →
    x.cmd.param 72 8 ≤ x.placed → x.cmd.param 38 1 = 0xFF →
    Reaches (exec (.transferEnd n now) s) fun t => lookup n t.turns = some { x with phase := 4, transferUs := if x.toGeneration then
      ((s.at now).now - x.transferAt) / usec else 0 }) ∧
  (∀ s n now x, lookup n s.turns = some x → x.phase = 3 → x.failing = none → x.sent.all (fun m => s.messageAcked m) = true →
    x.cmd.param 72 8 ≤ x.placed → x.cmd.param 38 1 ≠ 0xFF →
    Reaches (exec (.transferEnd n now) s) fun t => ∃ y, lookup n t.turns = some y ∧ y.phase = 4 ∧ y.voting = true ∧
      y.transferUs = if x.toGeneration then ((s.at now).now - x.transferAt) / usec else 0) ∧
  -- turnFinalCommit
  (∀ s n now hv x, s.turns = [(n, x)] → x.phase = 4 → x.failing = none → x.voting = false → s.colls = [] →
    (∀ v, lookup n s.serving = some v → v.step = none) → s.olderGone = true →
    ((s.at now).sees hv).checkFails (((s.at now).sees hv).turnEntries x.cmd) false = none →
    Reaches (exec (.turnFinalCommit n now hv) s) fun t => t.turns = [] ∧ t.spine.epoch = nextEpoch s.spine.epoch) ∧
  (∀ s n now hv x v, lookup n s.turns = some x → x.phase = 4 → x.failing = none → x.voting = false → s.colls = [] → x.toGeneration = true →
    lookup n s.serving = some v → v.step = none → s.olderGone = true →
    ((s.at now).sees hv).checkFails (((s.at now).sees hv).turnEntries x.cmd) false = none →
    Reaches (exec (.turnFinalCommit n now hv) s) fun t => ∃ y, lookup n t.serving = some y ∧ y.set = x.cmd.param 37 1 ∧ y.mixed = true ∧
      y.model = x.model.getD v.model ∧ y.seed = x.cmd.param 56 8 ∧ y.turning = false ∧ y.frozen = false ∧ y.stopClasses = 0) ∧
  (∀ s n now hv x v q y, lookup n s.turns = some x → x.phase = 4 → x.failing = none → x.voting = false → s.colls = [] →
    x.toGeneration = false → lookup n s.serving = some v → v.step = none → s.olderGone = true →
    ((s.at now).sees hv).checkFails (((s.at now).sees hv).turnEntries x.cmd) false = none → x.train = some q → lookup q s.trains = some y →
    Reaches (exec (.turnFinalCommit n now hv) s) fun t => ∃ z w, lookup n t.serving = some z ∧ z.turning = false ∧ z.frozen = false ∧
      z.parked = (v.parked || !x.keepServe) ∧ lookup q t.trains = some w ∧ w.parked = false) ∧
  -- xferTimeout
  (∀ s n now x, lookup n s.turns = some x → x.phase = 3 → x.failing = none → x.cmd.param 50 2 ≠ 0 →
    (s.at now).expired (x.transferAt + x.cmd.param 50 2 * msec) = true →
    Reaches (exec (.xferTimeout n now) s) fun t => t.commits = s.commits ++ [⟨.turnAbandon n, []⟩] ∧
      lookup n t.turns = some { x with failing := some (stTimedOut, false) })

/-- PREEMPT parks, resumes and shares services, and SCORE scores records (R521, R540, R541). -/
def Obligations.PreemptionAndScoresComplete : Prop :=
  -- preempt
  (∀ s r k hv v, s.Ready 0x8001 r k → k.param 34 1 = 0 → k.param 32 1 = 0 → s.serviceOpen 0 (k.param 33 1) k.berth = true →
    lookup (k.param 33 1) s.serving = some v → v.step = none →
    Reaches (exec (.preempt r hv) s) fun t => t.Answered r {} ∧ lookup (k.param 33 1) t.serving = some { v with parked := true }) ∧
  (∀ s r k hv v, s.Ready 0x8001 r k → k.param 34 1 = 0 → k.param 32 1 = 0 → s.serviceOpen 0 (k.param 33 1) k.berth = true →
    lookup (k.param 33 1) s.serving = some v → v.parked = false → v.step.isSome = true →
    Reaches (exec (.preempt r hv) s) fun t => t.Waits r ∧
      lookup (k.param 33 1) t.serving = some { v with parking := v.parking ++ [(r, (s.meets hv k).now)] }) ∧
  (∀ s r k hv v, s.Ready 0x8001 r k → k.param 34 1 = 0 → k.param 32 1 = 1 → s.serviceOpen 1 (k.param 33 1) k.berth = true →
    lookup (k.param 33 1) s.trains = some v → v.phase = .idle →
    Reaches (exec (.preempt r hv) s) fun t => t.Answered r {} ∧ lookup (k.param 33 1) t.trains = some { v with parked := true }) ∧
  (∀ s r k hv v, s.Ready 0x8001 r k → k.param 34 1 = 0 → k.param 32 1 = 1 → s.serviceOpen 1 (k.param 33 1) k.berth = true →
    lookup (k.param 33 1) s.trains = some v → v.parked = false → v.phase ≠ .idle →
    Reaches (exec (.preempt r hv) s) fun t => t.Waits r ∧
      lookup (k.param 33 1) t.trains = some { v with parking := v.parking ++ [(r, (s.meets hv k).now)] }) ∧
  (∀ s r k hv v, s.Ready 0x8001 r k → k.param 34 1 = 0 → 2 ≤ k.param 32 1 → s.serviceOpen (k.param 32 1) (k.param 33 1) k.berth = true →
    lookup (k.param 33 1) s.scores = some v →
    Reaches (exec (.preempt r hv) s) fun t => t.Answered r {} ∧ lookup (k.param 33 1) t.scores = some { v with parked := true }) ∧
  (∀ s r k hv v, s.Ready 0x8001 r k → k.param 34 1 = 1 → k.param 32 1 = 0 → s.serviceOpen 0 (k.param 33 1) k.berth = true →
    lookup (k.param 33 1) s.serving = some v →
    Reaches (exec (.preempt r hv) s) fun t => t.Answered r {} ∧ lookup (k.param 33 1) t.serving = some { v with parked := false }) ∧
  (∀ s r k hv v, s.Ready 0x8001 r k → k.param 34 1 = 1 → k.param 32 1 = 1 → s.serviceOpen 1 (k.param 33 1) k.berth = true →
    lookup (k.param 33 1) s.trains = some v →
    Reaches (exec (.preempt r hv) s) fun t => t.Answered r {} ∧ lookup (k.param 33 1) t.trains = some { v with parked := false }) ∧
  (∀ s r k hv v, s.Ready 0x8001 r k → k.param 34 1 = 1 → 2 ≤ k.param 32 1 → s.serviceOpen (k.param 32 1) (k.param 33 1) k.berth = true →
    lookup (k.param 33 1) s.scores = some v →
    Reaches (exec (.preempt r hv) s) fun t => t.Answered r {} ∧ lookup (k.param 33 1) t.scores = some { v with parked := false }) ∧
  (∀ s r k hv v, s.Ready 0x8001 r k → k.param 34 1 = 2 → k.param 32 1 = 0 → s.serviceOpen 0 (k.param 33 1) k.berth = true →
    lookup (k.param 33 1) s.serving = some v →
    Reaches (exec (.preempt r hv) s) fun t => t.Answered r {} ∧ lookup (k.param 33 1) t.serving = some { v with share := k.param 35 1 }) ∧
  (∀ s r k hv v, s.Ready 0x8001 r k → k.param 34 1 = 2 → k.param 32 1 = 1 → s.serviceOpen 1 (k.param 33 1) k.berth = true →
    lookup (k.param 33 1) s.trains = some v →
    Reaches (exec (.preempt r hv) s) fun t => t.Answered r {} ∧ lookup (k.param 33 1) t.trains = some { v with share := k.param 35 1 }) ∧
  (∀ s r k hv v, s.Ready 0x8001 r k → k.param 34 1 = 2 → 2 ≤ k.param 32 1 → s.serviceOpen (k.param 32 1) (k.param 33 1) k.berth = true →
    lookup (k.param 33 1) s.scores = some v →
    Reaches (exec (.preempt r hv) s) fun t => t.Answered r {} ∧ lookup (k.param 33 1) t.scores = some { v with share := k.param 35 1 }) ∧
  (∀ s r k hv x, s.Ready 0x8001 r k → 3 ≤ k.param 34 1 → k.param 32 1 = 0 → s.serviceOpen 0 (k.param 33 1) k.berth = true →
    lookup (k.param 33 1) s.turns = some x → x.failing = none →
    Reaches (exec (.preempt r hv) s) fun t => t.Answered r {} ∧ t.commits = s.commits ++ [⟨.turnAbandon (k.param 33 1), []⟩] ∧
      lookup (k.param 33 1) t.turns = some { x with failing := some (stAborted, true) }) ∧
  (∀ s r k hv, s.Ready 0x8001 r k → 3 ≤ k.param 34 1 → s.serviceOpen (k.param 32 1) (k.param 33 1) k.berth = true → s.turns = [] →
    Reaches (exec (.preempt r hv) s) fun t => t.Ended r stNotFound) ∧
  -- score
  (∀ s r k hv, s.Ready 0x6009 r k → theRefusal ((s.meets hv k).scoreFails k) = none → k.param 32 1 ≠ 0 →
    Reaches (exec (.score r hv) s) fun t => t.Waits r ∧ t.commits = s.commits ++ [⟨.scoreOpen r k.berth, []⟩] ∧
      lookup k.berth t.scores = some
        { cmd := k, model := none, opened := false, next := 0, fed := 0, scored := 0, unscored := 0, parked := false, share := 1, round := 0 }) ∧
  (∀ s r k hv, s.Ready 0x6009 r k → theRefusal ((s.meets hv k).scoreFails k) = none → k.param 32 1 = 0 →
    (s.meets hv k).rangesStatus [(k.param 48 8, 64 + 32 * (s.meets hv k).natAt (k.param 48 8 + 28) 4)] = none →
    (s.meets hv k).modelFails (k.param 48 8) 0x06 ((s.meets hv k).setBytes (k.param 33 1)) = none → k.param 34 2 < ((s.meets hv k).readModel (k.param 48 8)).vocab →
    Reaches (exec (.score r hv) s) fun t => t.Waits r ∧ t.commits = s.commits ++ [⟨.scoreOpen r k.berth, []⟩] ∧
      lookup k.berth t.scores = some
        { cmd := k, model := some ((s.meets hv k).readModel (k.param 48 8)), opened := false, next := 0, fed := 0, scored := 0, unscored := 0, parked := false, share := 1, round := 0 }) ∧
  -- scoreStep
  (∀ s b now hv k t0 j z a, lookup b s.scores = some k → k.opened = true → k.parked = false → s.berthRuns b k = true → k.model = none →
    ((s.at now).sees hv).turnOf b 3 b = some t0 → lookup b t0.scores = some j → j = { k with round := j.round } →
    z = ((t0.actFor s.spine.epoch.toNat b).ringing).dropRegions (bitsBelow 8 (t0.berthPaves 0 b)) →
    a = k.cmd.param 40 8 + 32 * k.next → k.next + 1 = k.cmd.param 36 4 →
    z.readStatus a 32 = none → (z.stepRecord (z.natAt a 8)).2 = none → (z.stepRecord (z.natAt a 8)).1.endCode ≠ 0 →
    (z.stepRecord (z.natAt a 8)).1.count ≠ 0 → (z.writePlace (placeOf (z.natAt a 8)) 64 (leBytes 4 (z.natAt (a + 16) 4))).2 = none →
    Reaches (exec (.scoreStep b now hv) s) fun t => t.commits = s.commits ++ [⟨.scoreClose b, []⟩] ∧
      t.mem = (z.writePlace (placeOf (z.natAt a 8)) 64 (leBytes 4 (z.natAt (a + 16) 4))).1.mem ∧
      lookup b t.scores = some { k with next := k.next + 1, fed := 0, scored := k.scored + 1, round := j.round + 1 } ∧
      lookup b t.occupants = some (3, b)) ∧
  (∀ s b now hv k t0 j z a, lookup b s.scores = some k → k.opened = true → k.parked = false → s.berthRuns b k = true → k.model = none →
    ((s.at now).sees hv).turnOf b 3 b = some t0 → lookup b t0.scores = some j → j = { k with round := j.round } →
    z = ((t0.actFor s.spine.epoch.toNat b).ringing).dropRegions (bitsBelow 8 (t0.berthPaves 0 b)) →
    a = k.cmd.param 40 8 + 32 * k.next → k.next + 1 = k.cmd.param 36 4 → (z.readStatus a 32).isSome = true →
    Reaches (exec (.scoreStep b now hv) s) fun t => t.commits = s.commits ++ [⟨.scoreClose b, []⟩] ∧ t.mem = z.mem ∧
      lookup b t.scores = some { k with next := k.next + 1, fed := 0, unscored := k.unscored + 1, round := j.round + 1 })

/-- LOGBOOK_CTRL, the flush of its buffers and REPLAY act as R589 to R593 give (R593, R591, R590). -/
def Obligations.LogbookCommandsComplete : Prop :=
  -- replay
  (∀ s r k hv m i, s.Ready 0xA000 r k → s.beating = true → (s.meets hv k).flushBook.replayFails k = none →
    (s.meets hv k).flushBook.replayMark k = some m → (s.meets hv k).flushBook.ringing.markDiffers m = some i →
    Reaches (exec (.replay r hv) s) fun t => t.Answered r { detail := 2, result0 := i }) ∧
  (∀ s r k hv m, s.Ready 0xA000 r k → s.beating = true → (s.meets hv k).flushBook.replayFails k = none →
    (s.meets hv k).flushBook.replayMark k = some m → (s.meets hv k).flushBook.ringing.markDiffers m = none →
    Reaches (exec (.replay r hv) s) fun t => t.Ended r stSuccess ∧ t.host = (s.meets hv k).host ∧ t.ports = s.ports ∧ t.reports = s.reports ∧
      t.colls = s.colls ∧ t.clock = s.clock ∧ t.logbook = (s.meets hv k).flushBook.logbook) ∧
  -- logbookCtrl
  (∀ s r k hv, s.Ready 0xA001 r k → k.param 32 1 = 0 →
    Reaches (exec (.logbookCtrl r hv) s) fun t => t.Answered r {} ∧ t.logbook.state = .recording ∧ t.logbook.held = [] ∧ t.logbook.buffer = [] ∧
      t.logbook.next = 0 ∧ t.logbook.place = 0) ∧
  (∀ s r k hv, s.Ready 0xA001 r k → k.param 32 1 = 1 →
    Reaches (exec (.logbookCtrl r hv) s) fun t => t.Answered r {} ∧
      t.logbook = if s.recording then s.logbook else { s.logbook with state := .stopped }) ∧
  (∀ s r k hv, s.Ready 0xA001 r k → 2 ≤ k.param 32 1 → k.param 36 4 = 0 → s.anyServiceOpen = false → s.earlier r = [] →
    s.bookHolds 0 4096 = false → s.recording = true →
    Reaches (exec (.logbookCtrl r hv) s) fun t => t.Answered r
      { result0 := s.logbook.next, result1 := s.nextOffset (zeros 16 ++ (s.markItems []).flatten).length / 64 }) ∧
  (∀ s r k hv, s.Ready 0xA001 r k → 2 ≤ k.param 32 1 → k.param 36 4 = 0 → s.anyServiceOpen = false → s.earlier r ≠ [] →
    Reaches (exec (.logbookCtrl r hv) s) fun t => t.Waits r ∧ t.logbook = s.logbook) ∧
  -- logbookBufferFlush
  (∀ s now h e, s.operating = true → s.logbook.buffer = [(h, e)] → s.logbook.state ≠ .full →
    s.logbook.place + entrySize e.body.length ≤ s.bookRegion.2 →
    Reaches (exec (.logbookBufferFlush now) s) fun t => t.mem = (s.writeMem (s.bookRegion.1 + s.logbook.place) e.bytes).mem ∧
      t.logbook.buffer = [] ∧ t.logbook.place = s.logbook.place + entrySize e.body.length) ∧
  (∀ s now h e, s.operating = true → s.logbook.buffer = [(h, e)] → s.logbook.state ≠ .full → s.bookWrap = true →
    s.bookRegion.2 < s.logbook.place + entrySize e.body.length → entrySize e.body.length ≤ s.bookRegion.2 →
    Reaches (exec (.logbookBufferFlush now) s) fun t => t.mem = (s.writeMem s.bookRegion.1 e.bytes).mem ∧
      t.logbook.buffer = [] ∧ t.logbook.place = entrySize e.body.length) ∧
  (∀ s now h e, s.operating = true → s.logbook.buffer = [(h, e)] → s.logbook.state ≠ .full → s.bookWrap = false →
    s.bookRegion.2 < s.logbook.place + entrySize e.body.length →
    Reaches (exec (.logbookBufferFlush now) s) fun t => t.mem = s.mem ∧ t.logbook.buffer = [] ∧ t.logbook.state = .full)

/-- Correctable events fill the bucket, which leaks and overflows, as R311 to R321 give (R311, R315, R320, R321). -/
def Obligations.IntegrityEventsComplete : Prop :=
  -- interfaceParityRetry
  (∀ s c, s.ctrlFitted c = true → s.bucketLevel c + 1 ≤ s.bucketThreshold c →
    Reaches (exec (.interfaceParityRetry c) s) fun t => t.regNat (blkStack c + 0x64) = min (s.regNat (blkStack c + 0x64) + 1) 0xFFFFFFFF ∧
      t.bucketLevel c = s.bucketLevel c + 1 ∧ t.bucketOverflows c = s.bucketOverflows c ∧ (t.regNat (evMem c)).testBit 0 = true ∧ t.mem = s.mem) ∧
  (∀ s c, s.ctrlFitted c = true → s.bucketThreshold c < s.bucketLevel c + 1 →
    Reaches (exec (.interfaceParityRetry c) s) fun t => t.regNat (blkStack c + 0x64) = min (s.regNat (blkStack c + 0x64) + 1) 0xFFFFFFFF ∧
      t.bucketLevel c = 0 ∧ t.bucketOverflows c = (s.bucketOverflows c + 1) % 65536 ∧ t.log.next = s.log.next + 1 ∧
      (t.regNat (evMem c)).testBit 1 = true) ∧
  -- correctedWriteBack
  (∀ s addr lane c, s.controllerOf (s.phys addr) = some c → s.unitStatus (s.poisonUnit (s.phys addr)) = none →
    Reaches (exec (.correctedWriteBack addr lane) s) fun t => t.mem = s.mem ∧
      t.regNat (blkStack c + 0x48) = 2 ^ 30 + lane % 256 * 2 ^ 16 + 0xFF * 2 ^ 8 ∧ (t.regNat (evMem c)).testBit 0 = true) ∧
  -- bucketLeak
  (∀ s c ondie now, s.ctrlFitted c = true → s.bucketInterval c ≠ 0 → (s.at now).now % (s.bucketInterval c * second) = 0 →
    Reaches (exec (.bucketLeak c ondie now) s) fun t => t.bucketLevel c = s.bucketLevel c - 1 ∧ t.bucketOverflows c = s.bucketOverflows c ∧
      t.regNat (blkStack c + 0x68) = min (s.regNat (blkStack c + 0x68) + ondie) 0xFFFFFFFF) ∧
  -- bucketOverflow
  (∀ s c now, s.ctrlFitted c = true → s.bucketThreshold c < s.bucketLevel c + 1 →
    Reaches (exec (.bucketOverflow c now) s) fun t => t.bucketLevel c = 0 ∧ t.bucketOverflows c = (s.bucketOverflows c + 1) % 65536 ∧
      (t.regNat (evMem c)).testBit 1 = true ∧ t.log.next = s.log.next + 1)

/-- Basin CRC failures, evictions, segment changes and weir windows act as chapters 11 and 12 give (R317, R285, R283, R306). -/
def Obligations.BasinEventsComplete : Prop :=
  -- basinCrcMismatch
  (∀ s addr p, p = s.phys addr - s.phys addr % lineBytes s.spine.variant → inBasin p = true → p ∉ s.mem.basin.wide → p ∉ s.mem.poison →
    s.scratchpad 0 (p - basinBase) (lineBytes s.spine.variant) = true →
    Reaches (exec (.basinCrcMismatch addr) s) fun t => p ∈ t.mem.poison ∧ p ∈ t.mem.lost ∧
      t.log.next = s.log.next + (if (s.mem.basin.failedOnce.filter (· == p)).length = 1 then 2 else 1)) ∧
  (∀ s addr p x, p = s.phys addr - s.phys addr % lineBytes s.spine.variant → inBasin p = false → p ∉ s.mem.basin.wide →
    s.cached p = some x → x.dirty = true →
    Reaches (exec (.basinCrcMismatch addr) s) fun t => p ∈ t.mem.poison ∧ p ∈ t.mem.lost ∧ p ∈ t.mem.basin.wide ∧
      t.log.next = s.log.next + 1) ∧
  (∀ s addr p x, p = s.phys addr - s.phys addr % lineBytes s.spine.variant → inBasin p = false → p ∉ s.mem.basin.wide →
    s.cached p = some x → x.dirty = false → x.refetched = false →
    Reaches (exec (.basinCrcMismatch addr) s) fun t => t.mem.poison = s.mem.poison ∧ t.mem.cells = s.mem.cells ∧
      t.log.next = s.log.next + 1 ∧ ∃ y, t.cached p = some y ∧ y.refetched = true) ∧
  (∀ s addr p x, p = s.phys addr - s.phys addr % lineBytes s.spine.variant → inBasin p = false → p ∉ s.mem.basin.wide →
    s.cached p = some x → x.dirty = false → x.refetched = true →
    Reaches (exec (.basinCrcMismatch addr) s) fun t => t.mem.poison = s.mem.poison ∧ t.mem.cells = s.mem.cells ∧
      t.log.next = s.log.next + 2 ∧ t.cached p = none ∧
      (homeHub s.spine.variant p, x.seg, x.set, x.way) ∈ t.mem.basin.disabled) ∧
  -- sluiceEvict
  (∀ s line e, s.entryAt (lineOf s.spine.variant line) = some e → (∀ i, i < 4 → s.neverWritten (e.line + 64 * i) = false) →
    Reaches (exec (.sluiceEvict line) s) fun t => t.mem.basin.sluice = s.mem.basin.sluice.filter (fun x => x.line != e.line) ∧
      lookup (blkBasin (homeHub s.spine.variant e.line) + 0x50) t.mem.basin.counts =
        some (((lookup (blkBasin (homeHub s.spine.variant e.line) + 0x50) s.mem.basin.counts).getD 0 + 1) % 2 ^ 64) ∧
      ∀ p, t.mem.get p = s.mem.get p) ∧
  (∀ s line, s.entryAt (lineOf s.spine.variant line) = none → Reaches (exec (.sluiceEvict line) s) fun t => t.mem = s.mem) ∧
  -- basinSegmentChange
  (∀ s h j, s.segChanges.any (fun k => k.hub == h && k.seg == j) = true → s.olderGone = true →
    Reaches (exec (.basinSegmentChange h j) s) fun t => t.segChanges = s.segChanges.filter (fun k => !(k.hub == h && k.seg == j)) ∧
      t.mem = (s.emptySegment h j).mem.forget (basinBase + h * 0x18000000 + j * 0x01000000) 0x01000000) ∧
  -- weirWindow
  (∀ s now, (s.at now).now < s.mem.basin.windowFrom + 1000 →
    Reaches (exec (.weirWindow now) s) fun t => t.now = (s.at now).now ∧ t.regs = s.regs ∧ t.mem = s.mem) ∧
  (∀ s now, s.mem.basin.windowFrom + 1000 ≤ (s.at now).now →
    Reaches (exec (.weirWindow now) s) fun t => t.now = (s.at now).now ∧ t.regs = s.regs ∧
      t.mem.basin.windowFrom = s.mem.basin.windowFrom + 1000 ∧
      t.mem.basin.shares = ((List.range 9).map fun w => (s.regNat (weirAt w), s.regNat (weirAt w + 4), s.regNat (weirAt w + 8))) ∧
      ∀ p, t.mem.get p = s.mem.get p)

/-- Function-level and bus resets act as R544 and R549 to R551 give (R549, R544, R551, R550). -/
def Obligations.FunctionResetsComplete : Prop :=
  -- perstNAssert
  (∀ s, s.power.state ≠ .off → (s.power.booting ≠ .full ∨ s.clock.fatal = true) →
    Reaches (exec .perstNAssert s) fun t => t.spine.epoch = 1 ∧ t.spine.unitInc = [] ∧ t.queues = [] ∧ t.inflight = [] ∧
      t.keepsake = s.keepsake ∧ t.power.perstReleased = false ∧ t.power.booting = .full ∧ t.regNat (blkPower + 0x94) = 0x00010000) ∧
  -- perstNRelease
  (∀ s, Reaches (exec .perstNRelease s) fun t => t.power = { s.power with perstReleased := true }) ∧
  -- pcieHotReset
  (∀ s, s.pcieUp = true → s.power.booting = .none →
    Reaches (exec .pcieHotReset s) fun t => t.queues = [] ∧ t.inflight = [] ∧ t.serving = [] ∧ t.hellos = [] ∧ t.power.booting = .warm ∧
      t.spine.epoch = s.spine.epoch ∧ t.regNat (blkPower + 0x94) = 0x20030000) ∧
  -- flrPf0
  (∀ s, s.pcieUp = true → s.power.booting = .none →
    Reaches (exec .flrPf0 s) fun t => t.queues = [] ∧ t.inflight = [] ∧ t.serving = [] ∧ t.hellos = [] ∧ t.power.booting = .warm ∧
      t.spine.epoch = s.spine.epoch ∧ t.regNat (blkPower + 0x94) = 0x20040000) ∧
  -- flrVf
  (∀ s fn, s.pcieUp = true → 1 ≤ fn → s.functionEnabled fn = true →
    Reaches (exec (.flrVf fn) s) fun t => t.funcInc fn = (nextInc (incOf s.spine.funcInc fn)).toNat ∧ t.hellos = erase fn s.hellos ∧
      t.logbook.state = .stopped ∧ t.regNat (blkPower + 0x94) = 0x40040000 + fn * 0x100) ∧
  -- perFunctionReset
  (∀ s fn, s.operating = true → 1 ≤ fn → s.functionEnabled fn = true →
    Reaches (exec (.perFunctionReset fn) s) fun t => t.funcInc fn = (nextInc (incOf s.spine.funcInc fn)).toNat ∧ t.hellos = erase fn s.hellos ∧
      t.logbook.state = .stopped ∧ t.regNat (blkPower + 0x94) = 0x40040000 + fn * 0x100)

/-- Cold, warm and keeper-complex resets act as R544, R549 and R550 give (R550, R544, R549, R262, R551, R559). -/
def Obligations.DeviceResetsComplete : Prop :=
  -- coldReset
  (∀ s b, s.power.booting = .full → s.power.pwrgd = true → s.clock.fatal = false → (s.power.state = .standby → s.power.perstReleased = true) →
    (b.hub0Passes = true ∨ b.hub1Passes = true) →
    Reaches (exec (.coldReset b) s) fun t => t.power.booting = .none ∧ t.power.state = .idle ∧ t.sec.bootHub = if b.hub0Passes then 0 else 1) ∧
  -- powerUpToIdle
  (∀ s b, s.power.booting = .full → s.power.pwrgd = true → s.clock.fatal = false → (s.power.state = .standby → s.power.perstReleased = true) →
    (b.hub0Passes = true ∨ b.hub1Passes = true) →
    Reaches (exec (.powerUpToIdle b) s) fun t => t.power.booting = .none ∧ t.power.state = .idle ∧ t.sec.bootHub = if b.hub0Passes then 0 else 1) ∧
  -- warmReset
  (∀ s b, s.power.booting = .warm → (b.hub0Passes = true ∨ b.hub1Passes = true) →
    Reaches (exec (.warmReset b) s) fun t => t.power.booting = .none ∧ t.sec.bootHub = if b.hub0Passes then 0 else 1) ∧
  -- keeperComplexReset
  (∀ s, s.operating = true →
    Reaches (exec .keeperComplexReset s) fun t => t.unitInc 0x71 = (nextInc (incOf s.spine.unitInc 0x71)).toNat ∧ t.serving = [] ∧ t.trains = [] ∧
      t.turns = [] ∧ t.colls = [] ∧ t.chamber.state = ChamberState.empty ∧ t.logbook.state = .stopped ∧
      ∃ n, n < 256 ∧ t.regNat (blkPower + 0x94) = 0x60000071 + n * 0x10000) ∧
  -- keeperFirmwareFault
  (∀ s, s.operating = true →
    Reaches (exec .keeperFirmwareFault s) fun t => t.unitInc 0x71 = (nextInc (incOf s.spine.unitInc 0x71)).toNat ∧ t.serving = [] ∧ t.trains = [] ∧
      t.turns = [] ∧ t.colls = [] ∧ t.chamber.state = ChamberState.empty ∧ t.logbook.state = .stopped ∧ t.regNat (blkPower + 0x94) = 0x60070071) ∧
  -- keeperBankParity
  (∀ s k, s.operating = true → k < 16 → s.hostsService k = false → (∀ c ∈ s.inflight, keeperOf c.queue ≠ k) →
    Reaches (exec (.keeperBankParity k) s) fun t => (t.regNat (blkKeeper + 0x100)).testBit k = true ∧ t.logbook.state = .stopped ∧
      t.inflight = s.inflight ∧ t.regNat (blkPower + 0x94) = 0x80060071) ∧
  -- resetCtrlCold
  (∀ s, s.pcieUp = true → s.power.booting ≠ .full →
    Reaches (exec (.resetCtrlCold 0xC0DE0001) s) fun t => t.spine.epoch = 1 ∧ t.spine.unitInc = [] ∧ t.queues = [] ∧ t.inflight = [] ∧
      t.keepsake = s.keepsake ∧ t.power.booting = .full ∧ t.regNat (blkPower + 0x94) = 0x00020000) ∧
  (∀ s v, s.pcieUp = true → v ≠ 0xC0DE0001 → v ≠ 0xC0DE0002 →
    Reaches (exec (.resetCtrlCold v) s) fun t => t.log.next = s.log.next + 1 ∧ t.power = s.power ∧ t.queues = s.queues) ∧
  -- resetCtrlWarm
  (∀ s, s.pcieUp = true → s.power.booting = .none →
    Reaches (exec (.resetCtrlWarm 0xC0DE0002) s) fun t => t.queues = [] ∧ t.inflight = [] ∧ t.serving = [] ∧ t.hellos = [] ∧ t.power.booting = .warm ∧
      t.spine.epoch = s.spine.epoch ∧ t.regNat (blkPower + 0x94) = 0x20020000) ∧
  (∀ s v, s.pcieUp = true → v ≠ 0xC0DE0001 → v ≠ 0xC0DE0002 →
    Reaches (exec (.resetCtrlWarm v) s) fun t => t.log.next = s.log.next + 1 ∧ t.power = s.power ∧ t.queues = s.queues) ∧
  -- lifecycleResetDelay
  (∀ s now d, s.sec.resetDue = some d → (s.at now).expired d = true → s.power.booting = .none → s.operating = true →
    Reaches (exec (.lifecycleResetDelay now) s) fun t => t.queues = [] ∧ t.inflight = [] ∧ t.serving = [] ∧ t.hellos = [] ∧
      t.power.booting = .warm ∧ t.sec.resetDue = none)

/-- Power inputs start, stop and protect the device as R20, R21 and R29 give (R29, R21, R20). -/
def Obligations.PowerInputsAct : Prop :=
  -- pwrEnRise
  (∀ s now, s.power.pwrEn = false → s.power.state = .off → s.power.booting = .none → s.power.inputGood = true → s.power.offCause = .input →
    Reaches (exec (.pwrEnRise now) s) fun t => t.power.pwrEn = true ∧ t.power.pwrgd = true ∧ t.power.booting = .full ∧ t.spine.epoch = 1) ∧
  (∀ s now, s.power.pwrEn = true → Reaches (exec (.pwrEnRise now) s) fun t => t.power = { s.power with pwrEnLowSince := none }) ∧
  -- pwrEnFall
  (∀ s now, s.powered = true →
    Reaches (exec (.pwrEnFall now) s) fun t => t.power.state = .off ∧ t.power.pwrEn = false ∧ t.power.offCause = .input ∧ t.queues = [] ∧
      t.inflight = [] ∧ t.sec.locket = Locket.reset) ∧
  -- powerFail
  (∀ s, s.powered = true →
    Reaches (exec .powerFail s) fun t => t.power.state = .off ∧ t.power.inputGood = false ∧ t.power.offCause = .input ∧ t.queues = [] ∧
      t.inflight = [] ∧ t.sec.locket = Locket.reset) ∧
  -- inputAbove42v
  (∀ s, s.power.state = .off → s.power.booting = .none → s.power.pwrEn = true → s.power.offCause = .input → s.power.inputGood = false →
    Reaches (exec .inputAbove42v s) fun t => t.power.inputGood = true ∧ t.power.pwrgd = true ∧ t.power.booting = .full) ∧
  (∀ s, s.powered = true → Reaches (exec .inputAbove42v s) fun t => t.power = { s.power with inputGood := true }) ∧
  -- inputLowBand
  (∀ s dv, s.powered = true → 380 ≤ dv → dv < 400 →
    Reaches (exec (.inputLowBand dv) s) fun t => t.power = { s.power with inputLow := some dv, inputHigh := false } ∧ t.mgmt.inputDv = dv ∧
      (s.power.inputLow = none → t.log.next = s.log.next + 1)) ∧
  -- inputHighBand
  (∀ s dv, s.powered = true → 600 < dv → dv ≤ 620 →
    Reaches (exec (.inputHighBand dv) s) fun t => t.power = { s.power with inputHigh := true, inputLow := none } ∧ t.mgmt.inputDv = dv ∧
      (s.power.inputHigh = false → t.log.next = s.log.next + 1)) ∧
  -- inputOvervoltage
  (∀ s, s.powered = true →
    Reaches (exec .inputOvervoltage s) fun t => t.power.state = .off ∧ t.power.offCause = .latched ∧ t.queues = [] ∧ t.inflight = [] ∧
      t.keepsake = (s.keepsakeEvent 2 true).keepsake) ∧
  -- railOutOfRegulation
  (∀ s, Reaches (exec .railOutOfRegulation s) fun t => t.power = { s.power with pwrgd := false })

/-- Power states and die gating change as R544 to R548 give (R545, R544, R546, R547, R548). -/
def Obligations.PowerStatesAct : Prop :=
  -- idleToActive
  (∀ s, s.operating = true → s.power.state = .idle → s.ringWork = true →
    Reaches (exec .idleToActive s) fun t => t.power.state = .active ∧ t.power.waking = false ∧ t.power.idleSince = s.now) ∧
  -- idleDelayExpiry
  (∀ s now, s.power.state = .active → field (s.regNat (blkPower + 0x84)) 15 0 ≠ 0 → s.ringWork = false →
    (s.at now).expired (s.power.idleSince + field (s.regNat (blkPower + 0x84)) 15 0 * 100 * usec) = true →
    Reaches (exec (.idleDelayExpiry now) s) fun t => t.power.state = .idle) ∧
  -- powerStateEntry
  (∀ s now d, s.power.entering = some (0, d) → s.inflight = [] →
    Reaches (exec (.powerStateEntry now) s) fun t => t.power.state = .off ∧ t.power.offCause = .latched ∧ t.queues = [] ∧ t.keepsake = s.keepsake) ∧
  (∀ s now d, s.power.entering = some (1, d) → s.inflight = [] →
    Reaches (exec (.powerStateEntry now) s) fun t => t.power.state = .standby ∧ t.queues = [] ∧ t.keepsake = s.keepsake) ∧
  -- dieGate
  (∀ s d, d < 4 → s.operating = true → s.dieGated d = true → s.power.gated.testBit d = false → s.dieLeft d = true →
    Reaches (exec (.dieGate d) s) fun t => t.power.gated = putBit s.power.gated d true ∧ (t.regNat evReset).testBit 4 = true) ∧
  -- dieUngate
  (∀ s d, d < 4 → s.dieGated d = false → s.power.gated.testBit d = true →
    Reaches (exec (.dieUngate d) s) fun t => t.power.gated = putBit s.power.gated d false ∧ (t.regNat evReset).testBit 4 = true ∧
      t.mem = s.mem.forget (bankBase + d * 0x80000000) 0x80000000)

/-- Thermal limits and the governor act as R26, R42 and R66 give (R26, R66, R42). -/
def Obligations.ThermalAndPaceEventsAct : Prop :=
  -- inletWarning
  (∀ s dc, s.sampling = true → 420 < dc →
    Reaches (exec (.inletWarning dc) s) fun t => t.mgmt = { s.mgmt with inletDc := dc } ∧ t.gov = s.gov ∧ t.power = s.power ∧
      t.log.next = s.log.next + (if s.mgmt.inletDc ≤ 420 then 1 else 0)) ∧
  -- thermalLimit
  (∀ s dc, s.sampling = true → 950 ≤ dc →
    Reaches (exec (.thermalLimit dc) s) fun t => t.mgmt.junctionDc = dc ∧
      ∃ c, t.gov.thermalCeiling = some c ∧ c < max 1 (s.gov.thermalCeiling.getD s.gov.planCeiling)) ∧
  -- thermalHardBreach
  (∀ s dc, s.sampling = true → 1050 ≤ dc →
    Reaches (exec (.thermalHardBreach dc) s) fun t => t.mgmt.junctionDc = dc ∧ t.gov.pausedThermal = true) ∧
  -- thermalResume
  (∀ s dc, s.sampling = true → dc < 1000 →
    Reaches (exec (.thermalResume dc) s) fun t => t.mgmt.junctionDc = dc ∧ t.gov.pausedThermal = false) ∧
  -- thermalTrip
  (∀ s lost, s.powered = true →
    Reaches (exec (.thermalTrip lost) s) fun t => t.power.state = .off ∧ t.power.offCause = .latched ∧ t.power.thermLow = true ∧
      t.queues = [] ∧ t.keepsake = (s.keepsakeEvent 3 true).keepsake) ∧
  -- governorSample
  (∀ s r now, s.sampling = true → (s.gov.samples = [] ∨ s.gov.sampledAt + 100 * usec ≤ (s.at now).now) →
    Reaches (exec (.governorSample r now) s) fun t => t.gov.samples = (r.watts :: s.gov.samples).take 1000 ∧ t.gov.lastSample = r.watts ∧
      t.gov.sampledAt = (s.at now).now ∧ t.mgmt.inputDv = r.inputDv ∧ t.mgmt.inletDc = r.inletDc ∧ t.mgmt.outletDc = r.outletDc ∧
      t.mgmt.junctionDc = r.junctionDc ∧
      t.regNat (blkPower + 0x20) = min r.watts 4095 * 2 ^ 16 +
        min (((r.watts :: s.gov.samples).take 1000).sum / ((r.watts :: s.gov.samples).take 1000).length) 4095) ∧
  -- paceWindow
  (∀ s now, s.gov.windowFrom + 1000 ≤ (s.at now).now → (s.at now).now < s.gov.windowFrom + 2000 →
    Reaches (exec (.paceWindow now) s) fun t => t.regNat blkPower = s.gov.windowBeats % 2 ^ 32 ∧ t.gov.windowBeats = 0 ∧
      t.gov.windowFrom = s.gov.windowFrom + 1000) ∧
  (∀ s now, s.gov.windowFrom + 2000 ≤ (s.at now).now →
    Reaches (exec (.paceWindow now) s) fun t => t.regNat blkPower = 0 ∧ t.gov.windowBeats = 0 ∧
      t.gov.windowFrom = s.gov.windowFrom + 1000 * (((s.at now).now - s.gov.windowFrom) / 1000))

/-- Beats, the watchdog, operating hours and margin plans count as R41, R58, R62 and R178 give (R41, R178, R58, R62). -/
def Obligations.BeatEventsAct : Prop :=
  -- beat
  (∀ s n now, s.beating = true → (s.at now).now < s.gov.windowFrom + 1000 →
    Reaches (exec (.beat n [] now) s) fun t => t.gov.windowBeats = s.gov.windowBeats + n ∧ t.gov.beatFrom = (s.at now).now ∧
      t.reg64 (blkPower + 8) = (s.reg64 (blkPower + 8) + n) % 2 ^ 64 ∧ t.mem = s.mem) ∧
  (∀ s n a now, s.beating = true → a < stackBytes s.spine.variant → s.neverWritten (s.poisonUnit a) = false →
    s.poisonUnit a ∉ s.mem.poison → s.poisonUnit a ∉ s.mem.bad →
    Reaches (exec (.beat n [a] now) s) fun t => t.mem.bad = s.mem.bad ++ [s.poisonUnit a] ∧ t.mem.cells = s.mem.cells) ∧
  -- beatWatchdog
  (∀ s late now u, s.beating = true → (s.at now).expired (s.gov.beatFrom + 10 * usec) = true → u ∈ late → s.inService u = true →
    Reaches (exec (.beatWatchdog late now) s) fun t => t.isFenced u = true) ∧
  -- operatingHourTick
  (∀ s now, s.power.pwrgd = true → s.power.state ≠ .off → (s.at now).expired (s.clock.hourFrom + 3600 * second) = true →
    Reaches (exec (.operatingHourTick now) s) fun t => t.keepsake.hours = (s.keepsake.hours + 1) % 2 ^ 32 ∧
      t.clock.hourFrom = s.clock.hourFrom + 3600 * second) ∧
  -- marginPlanDone
  (∀ s rs now r k rest, s.gov.planning = (0, some r) :: rest → s.cmd r = some k →
    Reaches (exec (.marginPlanDone rs now) s) fun t => t.gov.planning = rest ∧ t.keepsake.planNext = s.keepsake.planNext + 1 ∧
      ∃ h p, h ≤ 170 ∧ t.Answered r { result0 := s.keepsake.planNext.toNat, result1 := h } ∧ t.gov.applied = some p ∧
        p.plan = s.keepsake.planNext.toNat ∧ p.headroom = h ∧ t.gov.planCeiling = p.ceiling ∧
        t.keepsake.plans = insert (p.plan % 64) p s.keepsake.plans) ∧
  (∀ s rs now r k rest, s.gov.planning = (1, some r) :: rest → s.cmd r = some k →
    Reaches (exec (.marginPlanDone rs now) s) fun t => t.gov.planning = rest ∧ t.keepsake = s.keepsake ∧ t.gov.applied = s.gov.applied ∧
      ∃ h, h ≤ 170 ∧ t.Answered r { result0 := s.keepsake.planNext.toNat, result1 := h })

/-- MCTP control and PLDM base commands are answered as R80 and R81 give (R80, R81). -/
def Obligations.MctpCommandsAnswer : Prop :=
  -- setEndpointId
  (∀ s t eid, s.hears t .mctpControl = true → 8 ≤ eid → eid < 255 → Reaches (exec (.setEndpointId t eid) s) fun u => u.mgmt.eid = eid ∧ u.outbox = s.outbox ++ [.response t 0 [eid]]) ∧
  -- getEndpointId
  (∀ s t, s.hears t .mctpControl = true → Reaches (exec (.getEndpointId t) s) fun u => u.outbox = s.outbox ++ [.response t 0 [s.mgmt.eid]]) ∧
  -- getEndpointUuid
  (∀ s t, s.hears t .mctpControl = true → Reaches (exec (.getEndpointUuid t) s) fun u => u.outbox = s.outbox ++ [.responseBytes t 0 ((List.range 16).map fun i => BitVec.ofNat 8 (openValue i))]) ∧
  -- getMctpVersionSupport
  (∀ s t, s.hears t .mctpControl = true → Reaches (exec (.getMctpVersionSupport t) s) fun u => u.outbox = s.outbox ++ [.response t 0 [openValue 16]]) ∧
  -- getMessageTypeSupport
  (∀ s t, s.hears t .mctpControl = true → Reaches (exec (.getMessageTypeSupport t) s) fun u => u.outbox = s.outbox ++ [.response t 0 [0, 1, 5, 6]]) ∧
  -- getTid
  (∀ s t, s.hears t .pldmBase = true → Reaches (exec (.getTid t) s) fun u => u.outbox = s.outbox ++ [.response t 0 [openValue 17]]) ∧
  -- getPldmVersion
  (∀ s t type, s.hears t .pldmBase = true → type ∈ [0, 2, 5] → Reaches (exec (.getPldmVersion t type) s) fun u => u.outbox = s.outbox ++ [.response t 0 [openValue (18 + type)]]) ∧
  -- getPldmTypes
  (∀ s t, s.hears t .pldmBase = true → Reaches (exec (.getPldmTypes t) s) fun u => u.outbox = s.outbox ++ [.response t 0 [0, 2, 5]]) ∧
  -- getPldmCommands
  (∀ s t type l, s.hears t .pldmBase = true → pldmCommands type = some l → Reaches (exec (.getPldmCommands t type) s) fun u => u.outbox = s.outbox ++ [.response t 0 l]) ∧
  -- mgmtUnsupportedCommand
  (∀ s t protocol cmd, s.hears t protocol = true → protocol ≠ .spdm → Reaches (exec (.mgmtUnsupportedCommand t protocol cmd) s) fun u => u.outbox = s.outbox ++ [.response t ccUnsupported []])

/-- PLDM platform commands read sensors and set effecters as R84, R85 and R90 give (R84, R85, R90). -/
def Obligations.PlatformCommandsAnswer : Prop :=
  -- getPdr
  (∀ s t handle r, s.hears t .pldmPlatform = true → 1 ≤ handle → pdrs[handle - 1]? = some r → Reaches (exec (.getPdr t handle) s) fun u => u.outbox = s.outbox ++ [.response t 0 [if handle < pdrs.length then handle + 1 else 0, r.1, r.2]]) ∧
  -- getPdrRepositoryInfo
  (∀ s t, s.hears t .pldmPlatform = true → Reaches (exec (.getPdrRepositoryInfo t) s) fun u => u.outbox = s.outbox ++ [.response t 0 [pdrs.length]]) ∧
  -- getSensorReading
  (∀ s t id v, s.hears t .pldmPlatform = true → s.numericSensor id = some v → Reaches (exec (.getSensorReading t id) s) fun u => u.outbox = s.outbox ++ [.response t 0 [v]]) ∧
  -- getStateSensorReadings
  (∀ s t id v, s.hears t .pldmPlatform = true → s.stateSensor id = some v → Reaches (exec (.getStateSensorReadings t id) s) fun u => u.outbox = s.outbox ++ [.response t 0 [v]]) ∧
  -- setNumericEffecterValue
  (∀ s t v, s.hears t .pldmPlatform = true → v = 0 ∨ (600 ≤ v ∧ v ≤ capTop s.spine.variant) → Reaches (exec (.setNumericEffecterValue t 64 v) s) fun u => u.mgmt.limit = v ∧ u.outbox = s.outbox ++ [.response t 0 []]) ∧
  -- getNumericEffecterValue
  (∀ s t, s.hears t .pldmPlatform = true → Reaches (exec (.getNumericEffecterValue t 64) s) fun u => u.outbox = s.outbox ++ [.response t 0 [s.mgmt.limit]]) ∧
  -- setStateEffecterStates
  (∀ s t v, s.hears t .pldmPlatform = true → v ≤ 1 → Reaches (exec (.setStateEffecterStates t 65 v) s) fun u => u.panel.locate = (v == 1) ∧ u.outbox = s.outbox ++ [.response t 0 []]) ∧
  -- setEventReceiver
  (∀ s t receiver, s.hears t .pldmPlatform = true → Reaches (exec (.setEventReceiver t receiver) s) fun u => u.mgmt.receiver = (if receiver = 0 then none else some (t, receiver)) ∧ u.outbox = s.outbox ++ [.response t 0 []]) ∧
  -- eventMessageCollected
  (∀ s now t receiver e rest, s.mgmt.receiver = some (t, receiver) → s.mgmt.events = e :: rest → Reaches (exec (.eventMessageCollected now) s) fun u => u.mgmt.events = rest ∧ u.outbox = s.outbox ++ [.response t 0 [e.1, e.2]])

/-- PLDM firmware-update commands move the update between its states as R567 gives (R81, R567). -/
def Obligations.FirmwareUpdateCommandsAnswer : Prop :=
  -- queryDeviceIdentifiers
  (∀ s t, s.hears t .pldmUpdate = true → s.retired = false → Reaches (exec (.queryDeviceIdentifiers t) s) fun u => u.outbox = s.outbox ++ [.response t 0 [openValue 32]]) ∧
  -- getFirmwareParameters
  (∀ s t, s.hears t .pldmUpdate = true → s.retired = false → Reaches (exec (.getFirmwareParameters t) s) fun u => u.outbox = s.outbox ++ [.response t 0 [1, s.bootSlot.svn, s.otherSlot.svn]]) ∧
  -- requestUpdate
  (∀ s t, s.hears t .pldmUpdate = true → s.retired = false → s.mgmt.update = none → Reaches (exec (.requestUpdate t) s) fun u => u.mgmt.update = some ⟨0, 0, []⟩ ∧ u.outbox = s.outbox ++ [.response t 0 []]) ∧
  -- passComponentTable
  (∀ s t w, s.hears t .pldmUpdate = true → s.retired = false → s.mgmt.update = some w → w.phase = 0 → Reaches (exec (.passComponentTable t 1) s) fun u => u.mgmt.update = some { w with phase := 1 } ∧ u.outbox = s.outbox ++ [.response t 0 []]) ∧
  -- updateComponent
  (∀ s t size w, s.hears t .pldmUpdate = true → s.retired = false → s.mgmt.update = some w → w.phase = 1 → Reaches (exec (.updateComponent t 1 size) s) fun u => u.mgmt.update = some ⟨2, size, []⟩ ∧ u.otherSlot = { s.otherSlot with activation := 0 } ∧ u.outbox = s.outbox ++ [.response t 0 []]) ∧
  -- requestFirmwareData
  (∀ s t off bytes w, s.hears t .pldmUpdate = true → s.retired = false → s.mgmt.update = some w → w.phase = 2 → off + bytes.length ≤ w.size → Reaches (exec (.requestFirmwareData t off bytes) s) fun u => u.mgmt.update = some { w with image := putCells off bytes w.image } ∧ u.otherSlot = s.slotOf { w with image := putCells off bytes w.image } ∧ u.outbox = s.outbox ++ [.response t 0 []] ++ (if w.whole = false ∧ FwUpdate.whole { w with image := putCells off bytes w.image } = true then [.response t 0 [0x16, 0]] else [])) ∧
  -- verifyComplete
  (∀ s t w, s.hears t .pldmUpdate = true → s.retired = false → s.mgmt.update = some w → w.phase = 2 → Reaches (exec (.verifyComplete t) s) fun u => if s.otherSlot.passes = true ∧ (s.slotOf w).passes = true ∧ s.sec.fusedSvn ≤ s.otherSlot.svn then u.mgmt.update = some { w with phase := 3 } ∧ u.outbox = s.outbox ++ [.response t 0 [0], .response t 0 [0x18, 0]] else u.mgmt.update = some { w with phase := 1 } ∧ u.outbox = s.outbox ++ [.response t 0 [1]]) ∧
  -- activateFirmware
  (∀ s t w, s.hears t .pldmUpdate = true → s.retired = false → s.mgmt.update = some w → w.phase = 3 → Reaches (exec (.activateFirmware t) s) fun u => u.mgmt.update = some { w with phase := 4 } ∧ u.otherSlot = { s.otherSlot with activation := s.bootSlot.activation + 1 } ∧ u.outbox = s.outbox ++ [.response t 0 []]) ∧
  -- getStatus
  (∀ s t, s.hears t .pldmUpdate = true → s.retired = false → Reaches (exec (.getStatus t) s) fun u => u.outbox = s.outbox ++ [.response t 0 [match s.mgmt.update with | some w => w.phase + 1 | none => 0]]) ∧
  -- cancelUpdateComponent
  (∀ s t w, s.hears t .pldmUpdate = true → s.retired = false → s.mgmt.update = some w → (w.phase = 2 ∨ w.phase = 3) → Reaches (exec (.cancelUpdateComponent t) s) fun u => u.mgmt.update = some { w with phase := 1, image := [] } ∧ u.outbox = s.outbox ++ [.response t 0 []]) ∧
  -- cancelUpdate
  (∀ s t w, s.hears t .pldmUpdate = true → s.retired = false → s.mgmt.update = some w → w.phase < 4 → Reaches (exec (.cancelUpdate t) s) fun u => u.mgmt.update = none ∧ u.outbox = s.outbox ++ [.response t 0 []])

/-- SPDM, DOE and IDE key management requests are answered as R78 to R83, R568 and R569 give (R78, R79, R81, R82, R568, R569, R83). -/
def Obligations.SpdmCommandsAnswer : Prop :=
  -- ideKm
  (∀ s session msg, s.Converses .doe → s.mgmt.spdmDoe.sessions.contains (session, true) = true → keySuits msg = true → Reaches (exec (.ideKm session msg) s) fun u => lookup msg.stream u.sec.locket.ideKeys = some msg ∧ u.outbox = s.outbox ++ [.response .doe 0 []]) ∧
  -- doeDiscovery
  (∀ s index, s.pcieLink = true → index < 3 → Reaches (exec (.doeDiscovery index) s) fun u => u.outbox = s.outbox ++ [.response .doe 0 [1, index, (index + 1) % 3]]) ∧
  -- getVersion
  (∀ s t now, (s.at now).Converses t → Reaches (exec (.getVersion t true now) s) fun u => (u.spdmPort t).stage = 1 ∧ (u.spdmPort t).sessions = [] ∧ u.outbox = s.outbox ++ [.response t 0 [0x12, 0x13]]) ∧
  -- getCapabilities
  (∀ s t now, (s.at now).Converses t → ((s.at now).spdmPort t).stage = 1 → Reaches (exec (.getCapabilities t true now) s) fun u => (u.spdmPort t).stage = 2 ∧ u.outbox = s.outbox ++ [.response t 0 [openValue 33]]) ∧
  -- negotiateAlgorithms
  (∀ s t now, (s.at now).Converses t → ((s.at now).spdmPort t).stage = 2 → Reaches (exec (.negotiateAlgorithms t ⟨true, true, true, true⟩ true now) s) fun u => (u.spdmPort t).stage = 3 ∧ u.outbox = s.outbox ++ [.response t 0 []]) ∧
  -- getDigests
  (∀ s t now, (s.at now).Converses t → ((s.at now).spdmPort t).stage = 3 → Reaches (exec (.getDigests t true now) s) fun u => u.outbox = s.outbox ++ [.responseBytes t 0 (Config.sha512 s.chain)]) ∧
  -- getCertificate
  (∀ s t off len now, (s.at now).Converses t → ((s.at now).spdmPort t).stage = 3 → Reaches (exec (.getCertificate t 0 off len true now) s) fun u => if off < s.chain.length then u.outbox = s.outbox ++ [.responseBytes t 0 (slice s.chain off (if t == .doe then min len doePayload else len))] else u.outbox.getLast? = some (.response t errInvalidRequest [])) ∧
  -- challenge
  (∀ s t nonce now, (s.at now).Converses t → ((s.at now).spdmPort t).stage = 3 → Reaches (exec (.challenge t 0 nonce true now) s) fun u => u.draws = s.draws + 1 ∧ u.outbox = s.outbox ++ [.responseBytes t 0 (Config.sha512 s.chain ++ leBytes 8 (Config.random s.draws).toNat ++ Config.signetSign s.draws (nonce ++ (Config.sha512 s.chain ++ leBytes 8 (Config.random s.draws).toNat)))]) ∧
  -- getMeasurements
  (∀ s t index now content, (s.at now).Converses t → ((s.at now).spdmPort t).stage = 3 → 1 ≤ index → index ≤ 5 → (s.at now).measurement index = some content → Reaches (exec (.getMeasurements t index [] true now) s) fun u => u.outbox = s.outbox ++ [.responseBytes t 0 content]) ∧
  -- keyExchange
  (∀ s t share now k, (s.at now).Converses t → ((s.at now).spdmPort t).stage = 3 → (s.at now).spdmPort t = k → k.sessions.length < 4 → Reaches (exec (.keyExchange t share true now) s) fun u => (u.spdmPort t).sessions = k.sessions ++ [(k.nextSession, false)] ∧ (u.spdmPort t).nextSession = k.nextSession + 1 ∧ u.draws = s.draws + 2) ∧
  -- finish
  (∀ s t session now k, (s.at now).Converses t → (s.at now).spdmPort t = k → k.sessions.contains (session, false) = true → Reaches (exec (.finish t session true now) s) fun u => (u.spdmPort t).sessions = (k.sessions.map fun x => if x.1 = session then (session, true) else x) ∧ u.outbox = s.outbox ++ [.response t 0 []]) ∧
  -- heartbeat
  (∀ s t session now k, (s.at now).Converses t → (s.at now).spdmPort t = k → k.sessions.contains (session, true) = true → Reaches (exec (.heartbeat t session true now) s) fun u => u.outbox = s.outbox ++ [.response t 0 []]) ∧
  -- keyUpdate
  (∀ s t session now k, (s.at now).Converses t → (s.at now).spdmPort t = k → k.sessions.contains (session, true) = true → Reaches (exec (.keyUpdate t session true now) s) fun u => u.outbox = s.outbox ++ [.response t 0 []]) ∧
  -- endSession
  (∀ s t session now k, (s.at now).Converses t → (s.at now).spdmPort t = k → k.sessions.contains (session, true) = true → Reaches (exec (.endSession t session true now) s) fun u => (u.spdmPort t).sessions = (k.sessions.filter fun x => x.1 != session) ∧ u.outbox = s.outbox ++ [.response t 0 []]) ∧
  -- spdmFence
  (∀ s t now, ((s.at now).spdmPort t).busyUntil = none → 64 ≤ ((s.at now).recent (10 * second) ((s.at now).spdmPort t).errorsAt).length → Reaches (exec (.spdmFence t now) s) fun u => (u.spdmPort t).busyUntil = some ((s.at now).now + 10 * second) ∧ (u.spdmPort t).errorsAt = []) ∧
  -- spdmFenceExpiry
  (∀ s t now b, ((s.at now).spdmPort t).busyUntil = some b → (s.at now).expired b = true → Reaches (exec (.spdmFenceExpiry t now) s) fun u => (u.spdmPort t).busyUntil = none ∧ (u.spdmPort t).stage = ((s.at now).spdmPort t).stage)

/-- LIFECYCLE_SET and DEBUG_TOKEN act as Table 21-9 and R573 give (R572, R573). -/
def Obligations.SecureCommandsComplete : Prop :=
  -- lifecycleSet
  (∀ s r k hv b, s.Ready 0x9000 r k → k.param 32 1 = 0 → (s.meets hv k).placeFails k (k.param 40 8) recordBytes false 40 = none →
    s.updating = false → (s.lcState = 0 ∨ s.lcState = 4) → s.fusesLeft = true →
    (s.meets hv k).readPlace (placeOf (k.param 40 8)) 0 recordBytes = (b, none) →
    Reaches (exec (.lifecycleSet r hv) s) fun t =>
      if s.sec.lockout = none ∧ s.recordPasses (slice b 0 recordBytes) 0 0 (some Config.vendorHash) = true then
        t.Answered r {} ∧ t.sec.fuseLog = s.sec.fuseLog ++ [1] ∧ t.sec.locket = Locket.reset ∧ t.sec.resetAfter = some r
      else t.Ended r stNotPermitted ∧ t.sec.fuseLog = s.sec.fuseLog) ∧
  (∀ s r k hv b, s.Ready 0x9000 r k → k.param 32 1 = 1 → (s.meets hv k).placeFails k (k.param 40 8) envelopeBytes false 40 = none →
    s.updating = false → s.lcState = 1 → s.fusesLeft = true → (s.meets hv k).readPlace (placeOf (k.param 40 8)) 0 envelopeBytes = (b, none) →
    Reaches (exec (.lifecycleSet r hv) s) fun t =>
      match s.envelope b with
      | some p => t.Answered r {} ∧ t.sec.fuseLog = s.sec.fuseLog ++ [2] ∧ t.keepsake.ownerBlob = p ∧ t.sec.resetAfter = some r
      | none => t.Ended r stNotPermitted ∧ t.sec.fuseLog = s.sec.fuseLog) ∧
  (∀ s r k hv b, s.Ready 0x9000 r k → k.param 32 1 = 2 → (s.meets hv k).placeFails k (k.param 40 8) (recordBytes + envelopeBytes) false 40 = none →
    s.updating = false → s.lcState = 2 → (s.meets hv k).readPlace (placeOf (k.param 40 8)) 0 (recordBytes + envelopeBytes) = (b, none) →
    Reaches (exec (.lifecycleSet r hv) s) fun t =>
      match s.envelope (slice b recordBytes envelopeBytes) with
      | some p =>
        if s.sec.lockout = none ∧ s.recordPasses (slice b 0 recordBytes) 1 2
            (if s.keepsake.ownerBlob.isEmpty then some (slice p 0 64) else s.ownerHash) = true then
          t.Answered r {} ∧ t.keepsake.ownerBlob = p ∧ t.sec.unsealCode = 0 ∧ t.sec.locket.owner = some p
        else t.Ended r stNotPermitted ∧ t.keepsake.ownerBlob = s.keepsake.ownerBlob
      | none => t.Ended r stNotPermitted ∧ t.keepsake.ownerBlob = s.keepsake.ownerBlob) ∧
  (∀ s r k hv b, s.Ready 0x9000 r k → k.param 32 1 = 3 → (s.meets hv k).placeFails k (k.param 40 8) recordBytes false 40 = none →
    s.updating = false → s.lcState = 2 → s.fusesLeft = true → (s.meets hv k).readPlace (placeOf (k.param 40 8)) 0 recordBytes = (b, none) →
    Reaches (exec (.lifecycleSet r hv) s) fun t =>
      if s.sec.lockout = none ∧ s.recordPasses (slice b 0 recordBytes) 1 3 s.ownerHash = true then
        t.Answered r {} ∧ t.sec.fuseLog = s.sec.fuseLog ++ [4] ∧ t.keepsake.ownerBlob = [] ∧ t.sec.resetAfter = some r
      else t.Ended r stNotPermitted ∧ t.sec.fuseLog = s.sec.fuseLog) ∧
  (∀ s r k hv b, s.Ready 0x9000 r k → k.param 32 1 = 4 → (s.meets hv k).placeFails k (k.param 40 8) recordBytes false 40 = none →
    s.updating = false → s.lcState ≠ 15 → (s.meets hv k).readPlace (placeOf (k.param 40 8)) 0 recordBytes = (b, none) →
    Reaches (exec (.lifecycleSet r hv) s) fun t =>
      if s.sec.lockout = none ∧ s.recordPasses (slice b 0 recordBytes) (if s.lcState = 2 then 1 else 0) 4
          (if s.lcState = 2 then s.ownerHash else some Config.vendorHash) = true then
        t.Answered r {} ∧ t.sec.fuseLog = s.sec.fuseLog ++ [15] ∧ t.sec.seedBurned = true ∧ t.keepsake.ownerBlob = [] ∧ t.sec.resetAfter = some r
      else t.Ended r stNotPermitted ∧ t.sec.fuseLog = s.sec.fuseLog) ∧
  (∀ s r k hv, s.Ready 0x9000 r k → k.param 32 1 = 5 → s.updating = false → s.lcState = 3 → s.fusesLeft = true → s.sec.debug = 0 →
    Reaches (exec (.lifecycleSet r hv) s) fun t => t.Answered r {} ∧ t.sec.fuseLog = s.sec.fuseLog ++ [2] ∧ t.sec.resetAfter = some r) ∧
  (∀ s r k hv, s.Ready 0x9000 r k → k.param 32 1 = 5 → s.updating = false → s.lcState = 2 → s.sec.debug = 2 →
    Reaches (exec (.lifecycleSet r hv) s) fun t => t.Answered r {} ∧ t.sec.debug = 0 ∧ t.sec.locket = Locket.reset) ∧
  (∀ s r k hv b, s.Ready 0x9000 r k → k.param 32 1 = 6 → (s.meets hv k).placeFails k (k.param 40 8) recordBytes false 40 = none →
    s.updating = false → s.lcState = 2 → s.keepsake.ownerBlob ≠ [] → s.panel.lidOpen = false →
    (s.meets hv k).readPlace (placeOf (k.param 40 8)) 0 recordBytes = (b, none) →
    Reaches (exec (.lifecycleSet r hv) s) fun t =>
      if s.sec.lockout = none ∧ s.recordPasses (slice b 0 recordBytes) 1 6 s.ownerHash = true then t.Answered r {} ∧ t.tamperPending = false
      else t.Ended r stNotPermitted ∧ t.keepsake = s.keepsake) ∧
  -- debugToken
  (∀ s r k hv b, s.Ready 0x9001 r k → (s.meets hv k).placeFails k (k.param 40 8) recordBytes false 40 = none → s.updating = false →
    s.sec.debug = 0 → s.lcState = 2 → s.fusesLeft = true → (s.meets hv k).readPlace (placeOf (k.param 40 8)) 0 recordBytes = (b, none) →
    Reaches (exec (.debugToken r hv) s) fun t =>
      if fieldAt b 5 1 = 0x10 then
        if s.sec.lockout = none ∧ s.recordPasses b 0 0x10 (some Config.vendorHash) = true then
          t.Answered r {} ∧ t.sec.fuseLog = s.sec.fuseLog ++ [3] ∧ t.sec.grantDue = some (fieldAt b 24 4 * msec) ∧ t.sec.resetAfter = some r
        else t.Ended r stNotPermitted ∧ t.sec.fuseLog = s.sec.fuseLog
      else if s.sec.lockout = none ∧ s.recordPasses b 1 0x11 s.ownerHash = true then
        t.Answered r {} ∧ t.sec.debug = 2 ∧ t.sec.debugExpiry = k.acceptedAt + fieldAt b 24 4 * msec ∧ t.sec.locket.grant = true
      else t.Ended r stNotPermitted ∧ t.sec.debug = 0)
end

