-- ==== Sys2Proof/Laws/Acts.lean ====
section
/-! SUPPORT. What an operation may do: Acts ps s t says that t differs from s in the listed parts only, and that the invariant of s is that
of t. The lemmas of this file say it of one update of a field; Laws/Acts<Name>.lean say it of the operations of Machine/<Name>.lean. -/

namespace Sys2Proof.Machine

open Sys2Proof

/-- t differs from s in the listed parts only, and keeps the invariant. -/
def Acts (ps : List Part) (s t : State) : Prop := SameBut ps s t ∧ (s.Inv → t.Inv)

theorem Part.same_refl (p : Part) (s : State) : p.same s s := by cases p <;> simp [Part.same]

theorem Part.same_trans {p : Part} {s t u : State} (h : p.same s t) (k : p.same t u) : p.same s u := by
  cases p <;> simp_all [Part.same]

theorem Acts.refl {ps : List Part} {s : State} : Acts ps s s := ⟨fun p _ => p.same_refl s, id⟩

theorem Acts.trans {ps : List Part} {s t u : State} (h : Acts ps s t) (k : Acts ps t u) : Acts ps s u :=
  ⟨fun p hp => Part.same_trans (h.1 p hp) (k.1 p hp), fun hi => k.2 (h.2 hi)⟩

theorem Acts.more {ps qs : List Part} {s t : State} (h : Acts ps s t) (k : ∀ p ∈ ps, p ∈ qs) : Acts qs s t :=
  ⟨fun p hp => h.1 p fun hq => hp (k p hq), h.2⟩

/-- An operation of parts ps after one of parts qs that take those in. -/
theorem Acts.andThen {ps qs : List Part} {s t u : State} (h : Acts qs s t) (k : Acts ps t u) (hq : ∀ p ∈ ps, p ∈ qs) : Acts qs s u :=
  h.trans (k.more hq)

/-- One step of an update: it leaves everything but one part alone and keeps the invariant. -/
theorem Acts.update {ps : List Part} {s t u : State} (h : Acts ps s t) (p : Part) (hp : p ∈ ps) (same : ∀ q, q ≠ p → q.same t u)
    (inv : t.Inv → u.Inv) : Acts ps s u :=
  h.trans ⟨fun q hq => same q fun e => hq (e ▸ hp), inv⟩

theorem Acts.ite {ps : List Part} {s t u : State} {c : Prop} [Decidable c] (h : Acts ps s t) (k : Acts ps s u) :
    Acts ps s (if c then t else u) := by
  split <;> assumption

theorem Acts.foldl {α : Type} {ps : List Part} {s : State} {f : State → α → State} {l : List α} {t : State} (h : Acts ps s t)
    (hf : ∀ u x, Acts ps s u → Acts ps s (f u x)) : Acts ps s (l.foldl f t) := by
  induction l generalizing t with
  | nil => exact h
  | cons x l ih => exact ih (hf t x h)

/-- A fold whose state carries something beside it. -/
theorem Acts.foldl_fst {α β : Type} {ps : List Part} {s : State} {f : State × β → α → State × β} {l : List α} {t : State × β}
    (h : Acts ps s t.1) (hf : ∀ u x, Acts ps s u.1 → Acts ps s (f u x).1) : Acts ps s (l.foldl f t).1 := by
  induction l generalizing t with
  | nil => exact h
  | cons x l ih => exact ih (hf t x h)

theorem Acts.foldl_snd {α β : Type} {ps : List Part} {s : State} {f : β × State → α → β × State} {l : List α} {t : β × State}
    (h : Acts ps s t.2) (hf : ∀ u x, Acts ps s u.2 → Acts ps s (f u x).2) : Acts ps s (l.foldl f t).2 := by
  induction l generalizing t with
  | nil => exact h
  | cons x l ih => exact ih (hf t x h)

theorem inside {ps qs rs : List Part} (h : ∀ p ∈ qs, p ∈ ps) (k : ∀ p ∈ rs, p ∈ qs) : ∀ p ∈ rs, p ∈ ps := fun p hp => h p (k p hp)

/-! ## Tables stay sorted -/

theorem sortedKeys_cons {α : Type} (j : Nat) (a : α) (l : List (Nat × α)) :
    sortedKeys ((j, a) :: l) = true ↔ (∀ p ∈ l, j < p.1) ∧ sortedKeys l = true := by
  induction l generalizing j a with
  | nil => simp [sortedKeys]
  | cons q l ih =>
    obtain ⟨k, b⟩ := q
    simp only [sortedKeys, Bool.and_eq_true, decide_eq_true_eq, List.mem_cons, forall_eq_or_imp]
    constructor
    · rintro ⟨h, hs⟩
      exact ⟨⟨h, fun p hp => lt_trans h (((ih k b).1 hs).1 p hp)⟩, hs⟩
    · rintro ⟨⟨h, _⟩, hs⟩
      exact ⟨h, hs⟩

theorem mem_insert_key {α : Type} {k : Nat} {a : α} {l : List (Nat × α)} {p : Nat × α} (h : p ∈ insert k a l) : p = (k, a) ∨ p ∈ l := by
  induction l with
  | nil => simpa [insert] using h
  | cons q l ih =>
    simp only [insert] at h
    split at h <;> simp only [List.mem_cons] at h ⊢
    · exact h
    · split at h <;> simp only [List.mem_cons] at h
      · rcases h with h | h <;> simp [h]
      · rcases h with h | h
        · simp [h]
        · rcases ih h with h | h <;> simp [h]

theorem insert_sorted {α : Type} {k : Nat} {a : α} {l : List (Nat × α)} (h : sortedKeys l = true) : sortedKeys (insert k a l) = true := by
  induction l with
  | nil => simp [insert, sortedKeys]
  | cons q l ih =>
    obtain ⟨j, b⟩ := q
    rw [sortedKeys_cons] at h
    simp only [insert]
    split
    · rw [sortedKeys_cons]
      refine ⟨fun p hp => ?_, by rw [sortedKeys_cons]; exact h⟩
      rcases List.mem_cons.1 hp with rfl | hp
      · assumption
      · exact lt_trans (by assumption) (h.1 p hp)
    · split
      · next e => subst e; rw [sortedKeys_cons]; exact h
      · rw [sortedKeys_cons]
        refine ⟨fun p hp => ?_, ih h.2⟩
        rcases mem_insert_key hp with rfl | hp
        · simp only; omega
        · exact h.1 p hp

theorem filter_sorted {α : Type} {f : Nat × α → Bool} {l : List (Nat × α)} (h : sortedKeys l = true) : sortedKeys (l.filter f) = true := by
  induction l with
  | nil => simpa using h
  | cons q l ih =>
    obtain ⟨j, b⟩ := q
    rw [sortedKeys_cons] at h
    simp only [List.filter_cons]
    split
    · rw [sortedKeys_cons]
      exact ⟨fun p hp => h.1 p (List.mem_filter.1 hp).1, ih h.2⟩
    · exact ih h.2

theorem mem_erase_key {α : Type} {k : Nat} {l : List (Nat × α)} {p : Nat × α} (h : p ∈ erase k l) : p ∈ l := by
  induction l with
  | nil => simpa [erase] using h
  | cons q l ih =>
    simp only [erase] at h
    split at h
    · exact List.mem_cons_of_mem _ h
    · rcases List.mem_cons.1 h with rfl | h
      · exact List.mem_cons_self
      · exact List.mem_cons_of_mem _ (ih h)

theorem erase_sorted {α : Type} {k : Nat} {l : List (Nat × α)} (h : sortedKeys l = true) : sortedKeys (erase k l) = true := by
  induction l with
  | nil => simpa [erase] using h
  | cons q l ih =>
    obtain ⟨j, b⟩ := q
    rw [sortedKeys_cons] at h
    simp only [erase]
    split
    · exact h.2
    · rw [sortedKeys_cons]
      exact ⟨fun p hp => h.1 p (mem_erase_key hp), ih h.2⟩

/-! ## One field -/

theorem Acts.set_spine {ps : List Part} {s t : State} {v} (h : Acts ps s t) (hv : t.spine.counts → v.counts) (hp : Part.spine ∈ ps) :
    Acts ps s { t with spine := v } :=
  h.update .spine hp (fun q hq => by cases q <;> simp [Part.same] at hq ⊢) (fun hi => ⟨hv hi.1, hi.2⟩)

theorem Acts.set_draws {ps : List Part} {s t : State} {v} (h : Acts ps s t) (hp : Part.draws ∈ ps) :
    Acts ps s { t with draws := v } :=
  h.update .draws hp (fun q hq => by cases q <;> simp [Part.same] at hq ⊢) (fun hi => hi)

theorem Acts.set_clock {ps : List Part} {s t : State} {v} (h : Acts ps s t) (hp : Part.clock ∈ ps) :
    Acts ps s { t with clock := v } :=
  h.update .clock hp (fun q hq => by cases q <;> simp [Part.same] at hq ⊢) (fun hi => hi)

theorem Acts.set_power {ps : List Part} {s t : State} {v} (h : Acts ps s t) (hp : Part.power ∈ ps) :
    Acts ps s { t with power := v } :=
  h.update .power hp (fun q hq => by cases q <;> simp [Part.same] at hq ⊢) (fun hi => hi)

theorem Acts.set_gov {ps : List Part} {s t : State} {v} (h : Acts ps s t) (hp : Part.gov ∈ ps) :
    Acts ps s { t with gov := v } :=
  h.update .gov hp (fun q hq => by cases q <;> simp [Part.same] at hq ⊢) (fun hi => hi)

theorem Acts.set_regs {ps : List Part} {s t : State} {v} (h : Acts ps s t) (hv : sortedKeys t.regs = true → sortedKeys v = true) (hp : Part.regs ∈ ps) :
    Acts ps s { t with regs := v } :=
  h.update .regs hp (fun q hq => by cases q <;> simp [Part.same] at hq ⊢) (fun hi => ⟨hi.1, hi.2.1, hv hi.2.2.1, hi.2.2.2⟩)

theorem Acts.set_oldRegs {ps : List Part} {s t : State} {v} (h : Acts ps s t) (hp : Part.regs ∈ ps) :
    Acts ps s { t with oldRegs := v } :=
  h.update .regs hp (fun q hq => by cases q <;> simp [Part.same] at hq ⊢) (fun hi => hi)

theorem Acts.set_heldHigh {ps : List Part} {s t : State} {v} (h : Acts ps s t) (hp : Part.regs ∈ ps) :
    Acts ps s { t with heldHigh := v } :=
  h.update .regs hp (fun q hq => by cases q <;> simp [Part.same] at hq ⊢) (fun hi => hi)

theorem Acts.set_heldLow {ps : List Part} {s t : State} {v} (h : Acts ps s t) (hp : Part.regs ∈ ps) :
    Acts ps s { t with heldLow := v } :=
  h.update .regs hp (fun q hq => by cases q <;> simp [Part.same] at hq ⊢) (fun hi => hi)

theorem Acts.set_mem {ps : List Part} {s t : State} {v} (h : Acts ps s t) (hv : t.mem.wf = true → v.wf = true) (hp : Part.mem ∈ ps) :
    Acts ps s { t with mem := v } :=
  h.update .mem hp (fun q hq => by cases q <;> simp [Part.same] at hq ⊢) (fun hi => ⟨hi.1, hv hi.2.1, hi.2.2⟩)

theorem Acts.set_segChanges {ps : List Part} {s t : State} {v} (h : Acts ps s t) (hp : Part.moving ∈ ps) :
    Acts ps s { t with segChanges := v } :=
  h.update .moving hp (fun q hq => by cases q <;> simp [Part.same] at hq ⊢) (fun hi => hi)

theorem Acts.set_clears {ps : List Part} {s t : State} {v} (h : Acts ps s t) (hp : Part.moving ∈ ps) :
    Acts ps s { t with clears := v } :=
  h.update .moving hp (fun q hq => by cases q <;> simp [Part.same] at hq ⊢) (fun hi => hi)

theorem Acts.set_retraining {ps : List Part} {s t : State} {v} (h : Acts ps s t) (hp : Part.moving ∈ ps) :
    Acts ps s { t with retraining := v } :=
  h.update .moving hp (fun q hq => by cases q <;> simp [Part.same] at hq ⊢) (fun hi => hi)

theorem Acts.set_host {ps : List Part} {s t : State} {v} (h : Acts ps s t) (hp : Part.host ∈ ps) :
    Acts ps s { t with host := v } :=
  h.update .host hp (fun q hq => by cases q <;> simp [Part.same] at hq ⊢) (fun hi => hi)

theorem Acts.set_hellos {ps : List Part} {s t : State} {v} (h : Acts ps s t) (hp : Part.queues ∈ ps) :
    Acts ps s { t with hellos := v } :=
  h.update .queues hp (fun q hq => by cases q <;> simp [Part.same] at hq ⊢) (fun hi => hi)

theorem Acts.set_queues {ps : List Part} {s t : State} {v} (h : Acts ps s t) (hp : Part.queues ∈ ps) :
    Acts ps s { t with queues := v } :=
  h.update .queues hp (fun q hq => by cases q <;> simp [Part.same] at hq ⊢) (fun hi => hi)

theorem Acts.set_reports {ps : List Part} {s t : State} {v} (h : Acts ps s t) (hp : Part.queues ∈ ps) :
    Acts ps s { t with reports := v } :=
  h.update .queues hp (fun q hq => by cases q <;> simp [Part.same] at hq ⊢) (fun hi => hi)

theorem Acts.set_inflight {ps : List Part} {s t : State} {v} (h : Acts ps s t) (hp : Part.cmds ∈ ps) :
    Acts ps s { t with inflight := v } :=
  h.update .cmds hp (fun q hq => by cases q <;> simp [Part.same] at hq ⊢) (fun hi => hi)

theorem Acts.set_units {ps : List Part} {s t : State} {v} (h : Acts ps s t) (hp : Part.units ∈ ps) :
    Acts ps s { t with units := v } :=
  h.update .units hp (fun q hq => by cases q <;> simp [Part.same] at hq ⊢) (fun hi => hi)

theorem Acts.set_histWaits {ps : List Part} {s t : State} {v} (h : Acts ps s t) (hp : Part.hist ∈ ps) :
    Acts ps s { t with histWaits := v } :=
  h.update .hist hp (fun q hq => by cases q <;> simp [Part.same] at hq ⊢) (fun hi => hi)

theorem Acts.set_sets {ps : List Part} {s t : State} {v} (h : Acts ps s t) (hp : Part.weights ∈ ps) :
    Acts ps s { t with sets := v } :=
  h.update .weights hp (fun q hq => by cases q <;> simp [Part.same] at hq ⊢) (fun hi => hi)

theorem Acts.set_adapters {ps : List Part} {s t : State} {v} (h : Acts ps s t) (hp : Part.weights ∈ ps) :
    Acts ps s { t with adapters := v } :=
  h.update .weights hp (fun q hq => by cases q <;> simp [Part.same] at hq ⊢) (fun hi => hi)

theorem Acts.set_adapterView {ps : List Part} {s t : State} {v} (h : Acts ps s t) (hp : Part.weights ∈ ps) :
    Acts ps s { t with adapterView := v } :=
  h.update .weights hp (fun q hq => by cases q <;> simp [Part.same] at hq ⊢) (fun hi => hi)

theorem Acts.set_repairs {ps : List Part} {s t : State} {v} (h : Acts ps s t) (hp : Part.weights ∈ ps) :
    Acts ps s { t with repairs := v } :=
  h.update .weights hp (fun q hq => by cases q <;> simp [Part.same] at hq ⊢) (fun hi => hi)

theorem Acts.set_ports {ps : List Part} {s t : State} {v} (h : Acts ps s t) (hp : Part.links ∈ ps) :
    Acts ps s { t with ports := v } :=
  h.update .links hp (fun q hq => by cases q <;> simp [Part.same] at hq ⊢) (fun hi => hi)

theorem Acts.set_msgNext {ps : List Part} {s t : State} {v} (h : Acts ps s t) (hp : Part.links ∈ ps) :
    Acts ps s { t with msgNext := v } :=
  h.update .links hp (fun q hq => by cases q <;> simp [Part.same] at hq ⊢) (fun hi => hi)

theorem Acts.set_serving {ps : List Part} {s t : State} {v} (h : Acts ps s t) (hp : Part.serving ∈ ps) :
    Acts ps s { t with serving := v } :=
  h.update .serving hp (fun q hq => by cases q <;> simp [Part.same] at hq ⊢) (fun hi => hi)

theorem Acts.set_manifest {ps : List Part} {s t : State} {v} (h : Acts ps s t) (hp : Part.serving ∈ ps) :
    Acts ps s { t with manifest := v } :=
  h.update .serving hp (fun q hq => by cases q <;> simp [Part.same] at hq ⊢) (fun hi => hi)

theorem Acts.set_manifestView {ps : List Part} {s t : State} {v} (h : Acts ps s t) (hp : Part.serving ∈ ps) :
    Acts ps s { t with manifestView := v } :=
  h.update .serving hp (fun q hq => by cases q <;> simp [Part.same] at hq ⊢) (fun hi => hi)

theorem Acts.set_groups {ps : List Part} {s t : State} {v} (h : Acts ps s t) (hp : Part.colls ∈ ps) :
    Acts ps s { t with groups := v } :=
  h.update .colls hp (fun q hq => by cases q <;> simp [Part.same] at hq ⊢) (fun hi => hi)

theorem Acts.set_colls {ps : List Part} {s t : State} {v} (h : Acts ps s t) (hp : Part.colls ∈ ps) :
    Acts ps s { t with colls := v } :=
  h.update .colls hp (fun q hq => by cases q <;> simp [Part.same] at hq ⊢) (fun hi => hi)

theorem Acts.set_trains {ps : List Part} {s t : State} {v} (h : Acts ps s t) (hp : Part.trains ∈ ps) :
    Acts ps s { t with trains := v } :=
  h.update .trains hp (fun q hq => by cases q <;> simp [Part.same] at hq ⊢) (fun hi => hi)

theorem Acts.set_exports {ps : List Part} {s t : State} {v} (h : Acts ps s t) (hp : Part.trains ∈ ps) :
    Acts ps s { t with exports := v } :=
  h.update .trains hp (fun q hq => by cases q <;> simp [Part.same] at hq ⊢) (fun hi => hi)

theorem Acts.set_turns {ps : List Part} {s t : State} {v} (h : Acts ps s t) (hp : Part.turns ∈ ps) :
    Acts ps s { t with turns := v } :=
  h.update .turns hp (fun q hq => by cases q <;> simp [Part.same] at hq ⊢) (fun hi => hi)

theorem Acts.set_scores {ps : List Part} {s t : State} {v} (h : Acts ps s t) (hp : Part.turns ∈ ps) :
    Acts ps s { t with scores := v } :=
  h.update .turns hp (fun q hq => by cases q <;> simp [Part.same] at hq ⊢) (fun hi => hi)

theorem Acts.set_occupants {ps : List Part} {s t : State} {v} (h : Acts ps s t) (hp : Part.turns ∈ ps) :
    Acts ps s { t with occupants := v } :=
  h.update .turns hp (fun q hq => by cases q <;> simp [Part.same] at hq ⊢) (fun hi => hi)

theorem Acts.set_logbook {ps : List Part} {s t : State} {v} (h : Acts ps s t) (hp : Part.logbook ∈ ps) :
    Acts ps s { t with logbook := v } :=
  h.update .logbook hp (fun q hq => by cases q <;> simp [Part.same] at hq ⊢) (fun hi => hi)

theorem Acts.set_chamber {ps : List Part} {s t : State} {v} (h : Acts ps s t) (hp : Part.lockage ∈ ps) :
    Acts ps s { t with chamber := v } :=
  h.update .lockage hp (fun q hq => by cases q <;> simp [Part.same] at hq ⊢) (fun hi => hi)

theorem Acts.set_commits {ps : List Part} {s t : State} {v} (h : Acts ps s t) (hp : Part.lockage ∈ ps) :
    Acts ps s { t with commits := v } :=
  h.update .lockage hp (fun q hq => by cases q <;> simp [Part.same] at hq ⊢) (fun hi => hi)

theorem Acts.set_commitCount {ps : List Part} {s t : State} {v} (h : Acts ps s t) (hp : Part.lockage ∈ ps) :
    Acts ps s { t with commitCount := v } :=
  h.update .lockage hp (fun q hq => by cases q <;> simp [Part.same] at hq ⊢) (fun hi => hi)

theorem Acts.set_checkedAt {ps : List Part} {s t : State} {v} (h : Acts ps s t) (hp : Part.lockage ∈ ps) :
    Acts ps s { t with checkedAt := v } :=
  h.update .lockage hp (fun q hq => by cases q <;> simp [Part.same] at hq ⊢) (fun hi => hi)

theorem Acts.set_keepsake {ps : List Part} {s t : State} {v} (h : Acts ps s t) (hp : Part.keepsake ∈ ps) :
    Acts ps s { t with keepsake := v } :=
  h.update .keepsake hp (fun q hq => by cases q <;> simp [Part.same] at hq ⊢) (fun hi => hi)

theorem Acts.set_panel {ps : List Part} {s t : State} {v} (h : Acts ps s t) (hp : Part.panel ∈ ps) :
    Acts ps s { t with panel := v } :=
  h.update .panel hp (fun q hq => by cases q <;> simp [Part.same] at hq ⊢) (fun hi => hi)

theorem Acts.set_mgmt {ps : List Part} {s t : State} {v} (h : Acts ps s t) (hp : Part.mgmt ∈ ps) :
    Acts ps s { t with mgmt := v } :=
  h.update .mgmt hp (fun q hq => by cases q <;> simp [Part.same] at hq ⊢) (fun hi => hi)

theorem Acts.set_sec {ps : List Part} {s t : State} {v} (h : Acts ps s t) (hp : Part.sec ∈ ps) :
    Acts ps s { t with sec := v } :=
  h.update .sec hp (fun q hq => by cases q <;> simp [Part.same] at hq ⊢) (fun hi => hi)

theorem Acts.set_log {ps : List Part} {s t : State} {v} (h : Acts ps s t) (hv : t.log.records.length ≤ 4096 → v.records.length ≤ 4096) (hp : Part.log ∈ ps) :
    Acts ps s { t with log := v } :=
  h.update .log hp (fun q hq => by cases q <;> simp [Part.same] at hq ⊢) (fun hi => ⟨hi.1, hi.2.1, hi.2.2.1, hv hi.2.2.2⟩)

theorem Acts.set_outbox {ps : List Part} {s t : State} {v} (h : Acts ps s t) (hp : Part.outbox ∈ ps) :
    Acts ps s { t with outbox := v } :=
  h.update .outbox hp (fun q hq => by cases q <;> simp [Part.same] at hq ⊢) (fun hi => hi)

theorem Acts.set_pending {ps : List Part} {s t : State} {v} (h : Acts ps s t) (hp : Part.pending ∈ ps) :
    Acts ps s { t with pending := v } :=
  h.update .pending hp (fun q hq => by cases q <;> simp [Part.same] at hq ⊢) (fun hi => hi)

theorem Acts.set_pcie {ps : List Part} {s t : State} {v} (h : Acts ps s t) (hp : Part.pcie ∈ ps) :
    Acts ps s { t with pcie := v } :=
  h.update .pcie hp (fun q hq => by cases q <;> simp [Part.same] at hq ⊢) (fun hi => hi)

theorem Acts.set_acting {ps : List Part} {s t : State} {v} (h : Acts ps s t) (hp : Part.acting ∈ ps) :
    Acts ps s { t with acting := v } :=
  h.update .acting hp (fun q hq => by cases q <;> simp [Part.same] at hq ⊢) (fun hi => hi)

theorem Acts.set_fetches {ps : List Part} {s t : State} {v} (h : Acts ps s t) (hp : Part.cmds ∈ ps) :
    Acts ps s { t with fetches := v } :=
  h.update .cmds hp (fun q hq => by cases q <;> simp [Part.same] at hq ⊢) (fun hi => hi)

/-- The memory and the draws of one state beside the rest of another. -/
theorem Acts.mix {ps : List Part} {z s t : State} (hs : Acts ps z s) (ht : Acts ps z t) (hm : Part.mem ∈ ps) (hd : Part.draws ∈ ps) :
    Acts ps z { s with mem := t.mem, draws := t.draws } := by
  refine ⟨fun p hp => ?_, fun i => ⟨(hs.2 i).1, (ht.2 i).2.1, (hs.2 i).2.2⟩⟩
  have h := hs.1 p hp
  have h1 : p ≠ .mem := fun e => hp (e ▸ hm)
  have h2 : p ≠ .draws := fun e => hp (e ▸ hd)
  cases p <;> simp_all [Part.same]

/-! ## What an arm answers -/

/-- An arm that leaves the spine, the operation under way and the queue of commands alone: what its effect may do, it may do. -/
theorem runs_acts {qs rs : List Part} {f : State → State} {s t : State}
    (k : ∀ p ∈ qs, p ∈ Part.spine :: Part.acting :: Part.pending :: rs)
    (h : ∀ ps, Acts ps s s → (∀ p ∈ qs, p ∈ ps) → Acts ps s (f s)) (e : runs f s = .next t) : Acts rs s t := by
  obtain ⟨a, b⟩ := h _ .refl k
  simp only [runs, Host.Outcome.next.injEq] at e
  subst e
  refine ⟨fun p hp => ?_, fun i => ⟨i.1, (b i).2⟩⟩
  by_cases h1 : p = .spine
  · subst h1; rfl
  by_cases h2 : p = .pending
  · subst h2; rfl
  by_cases h3 : p = .acting
  · subst h3; rfl
  have := a p (by simp [h1, h2, h3, hp])
  cases p <;> simp_all [Part.same]

/-- An arm that leaves the operation under way and the queue of commands alone, and the variant and the serial. -/
theorem runsSpine_acts {qs rs : List Part} {f : State → State} {s t : State}
    (k : ∀ p ∈ qs, p ∈ Part.acting :: Part.pending :: rs)
    (h : ∀ ps, Acts ps s s → (∀ p ∈ qs, p ∈ ps) → Acts ps s (f s)) (e : runsSpine f s = .next t) : Acts rs s t := by
  obtain ⟨a, b⟩ := h _ .refl k
  simp only [runsSpine, Host.Outcome.next.injEq] at e
  subst e
  refine ⟨fun p hp => ?_, fun i => ⟨(b i).1, (b i).2⟩⟩
  by_cases h2 : p = .pending
  · subst h2; rfl
  by_cases h3 : p = .acting
  · subst h3; rfl
  have := a p (by simp [h2, h3, hp])
  cases p <;> simp_all [Part.same]

/-! ## Several fields -/

theorem Acts.set_adapters_manifest {ps : List Part} {s t : State} {v0 v1} (h : Acts ps s t) (hp0 : Part.weights ∈ ps) (hp1 : Part.serving ∈ ps) :
    Acts ps s { t with adapters := v0, manifest := v1 } :=
  Acts.set_manifest (t := { t with adapters := v0 }) (Acts.set_adapters (t := t) (h) hp0) hp1

theorem Acts.set_adapters_repairs {ps : List Part} {s t : State} {v0 v1} (h : Acts ps s t) (hp0 : Part.weights ∈ ps) (hp1 : Part.weights ∈ ps) :
    Acts ps s { t with adapters := v0, repairs := v1 } :=
  Acts.set_repairs (t := { t with adapters := v0 }) (Acts.set_adapters (t := t) (h) hp0) hp1

theorem Acts.set_chamber_checkedAt {ps : List Part} {s t : State} {v0 v1} (h : Acts ps s t) (hp0 : Part.lockage ∈ ps) (hp1 : Part.lockage ∈ ps) :
    Acts ps s { t with chamber := v0, checkedAt := v1 } :=
  Acts.set_checkedAt (t := { t with chamber := v0 }) (Acts.set_chamber (t := t) (h) hp0) hp1

theorem Acts.set_chamber_commits {ps : List Part} {s t : State} {v0 v1} (h : Acts ps s t) (hp0 : Part.lockage ∈ ps) (hp1 : Part.lockage ∈ ps) :
    Acts ps s { t with chamber := v0, commits := v1 } :=
  Acts.set_commits (t := { t with chamber := v0 }) (Acts.set_chamber (t := t) (h) hp0) hp1

theorem Acts.set_clock_panel {ps : List Part} {s t : State} {v0 v1} (h : Acts ps s t) (hp0 : Part.clock ∈ ps) (hp1 : Part.panel ∈ ps) :
    Acts ps s { t with clock := v0, panel := v1 } :=
  Acts.set_panel (t := { t with clock := v0 }) (Acts.set_clock (t := t) (h) hp0) hp1

theorem Acts.set_clock_power {ps : List Part} {s t : State} {v0 v1} (h : Acts ps s t) (hp0 : Part.clock ∈ ps) (hp1 : Part.power ∈ ps) :
    Acts ps s { t with clock := v0, power := v1 } :=
  Acts.set_power (t := { t with clock := v0 }) (Acts.set_clock (t := t) (h) hp0) hp1

theorem Acts.set_fetches_inflight {ps : List Part} {s t : State} {v0 v1} (h : Acts ps s t) (hp0 : Part.cmds ∈ ps) (hp1 : Part.cmds ∈ ps) :
    Acts ps s { t with fetches := v0, inflight := v1 } :=
  Acts.set_inflight (t := { t with fetches := v0 }) (Acts.set_fetches (t := t) (h) hp0) hp1

theorem Acts.set_gov_histWaits_sets_adapters_repairs_serving_manifest_groups_colls_trains_exports_turns_scores_occupants_logbook_commits {ps : List Part} {s t : State} {v0 v1 v2 v3 v4 v5 v6 v7 v8 v9 v10 v11 v12 v13 v14 v15} (h : Acts ps s t) (hp0 : Part.gov ∈ ps) (hp1 : Part.hist ∈ ps) (hp2 : Part.weights ∈ ps) (hp3 : Part.weights ∈ ps) (hp4 : Part.weights ∈ ps) (hp5 : Part.serving ∈ ps) (hp6 : Part.serving ∈ ps) (hp7 : Part.colls ∈ ps) (hp8 : Part.colls ∈ ps) (hp9 : Part.trains ∈ ps) (hp10 : Part.trains ∈ ps) (hp11 : Part.turns ∈ ps) (hp12 : Part.turns ∈ ps) (hp13 : Part.turns ∈ ps) (hp14 : Part.logbook ∈ ps) (hp15 : Part.lockage ∈ ps) :
    Acts ps s { t with gov := v0, histWaits := v1, sets := v2, adapters := v3, repairs := v4, serving := v5, manifest := v6, groups := v7, colls := v8, trains := v9, exports := v10, turns := v11, scores := v12, occupants := v13, logbook := v14, commits := v15 } :=
  Acts.set_commits (t := { t with gov := v0, histWaits := v1, sets := v2, adapters := v3, repairs := v4, serving := v5, manifest := v6, groups := v7, colls := v8, trains := v9, exports := v10, turns := v11, scores := v12, occupants := v13, logbook := v14 }) (Acts.set_logbook (t := { t with gov := v0, histWaits := v1, sets := v2, adapters := v3, repairs := v4, serving := v5, manifest := v6, groups := v7, colls := v8, trains := v9, exports := v10, turns := v11, scores := v12, occupants := v13 }) (Acts.set_occupants (t := { t with gov := v0, histWaits := v1, sets := v2, adapters := v3, repairs := v4, serving := v5, manifest := v6, groups := v7, colls := v8, trains := v9, exports := v10, turns := v11, scores := v12 }) (Acts.set_scores (t := { t with gov := v0, histWaits := v1, sets := v2, adapters := v3, repairs := v4, serving := v5, manifest := v6, groups := v7, colls := v8, trains := v9, exports := v10, turns := v11 }) (Acts.set_turns (t := { t with gov := v0, histWaits := v1, sets := v2, adapters := v3, repairs := v4, serving := v5, manifest := v6, groups := v7, colls := v8, trains := v9, exports := v10 }) (Acts.set_exports (t := { t with gov := v0, histWaits := v1, sets := v2, adapters := v3, repairs := v4, serving := v5, manifest := v6, groups := v7, colls := v8, trains := v9 }) (Acts.set_trains (t := { t with gov := v0, histWaits := v1, sets := v2, adapters := v3, repairs := v4, serving := v5, manifest := v6, groups := v7, colls := v8 }) (Acts.set_colls (t := { t with gov := v0, histWaits := v1, sets := v2, adapters := v3, repairs := v4, serving := v5, manifest := v6, groups := v7 }) (Acts.set_groups (t := { t with gov := v0, histWaits := v1, sets := v2, adapters := v3, repairs := v4, serving := v5, manifest := v6 }) (Acts.set_manifest (t := { t with gov := v0, histWaits := v1, sets := v2, adapters := v3, repairs := v4, serving := v5 }) (Acts.set_serving (t := { t with gov := v0, histWaits := v1, sets := v2, adapters := v3, repairs := v4 }) (Acts.set_repairs (t := { t with gov := v0, histWaits := v1, sets := v2, adapters := v3 }) (Acts.set_adapters (t := { t with gov := v0, histWaits := v1, sets := v2 }) (Acts.set_sets (t := { t with gov := v0, histWaits := v1 }) (Acts.set_histWaits (t := { t with gov := v0 }) (Acts.set_gov (t := t) (h) hp0) hp1) hp2) hp3) hp4) hp5) hp6) hp7) hp8) hp9) hp10) hp11) hp12) hp13) hp14) hp15

theorem Acts.set_inflight_sets_adapters {ps : List Part} {s t : State} {v0 v1 v2} (h : Acts ps s t) (hp0 : Part.cmds ∈ ps) (hp1 : Part.weights ∈ ps) (hp2 : Part.weights ∈ ps) :
    Acts ps s { t with inflight := v0, sets := v1, adapters := v2 } :=
  Acts.set_adapters (t := { t with inflight := v0, sets := v1 }) (Acts.set_sets (t := { t with inflight := v0 }) (Acts.set_inflight (t := t) (h) hp0) hp1) hp2

theorem Acts.set_mem_logbook {ps : List Part} {s t : State} {v0 v1} (h : Acts ps s t) (hv0 : t.mem.wf = true → v0.wf = true) (hp0 : Part.mem ∈ ps) (hp1 : Part.logbook ∈ ps) :
    Acts ps s { t with mem := v0, logbook := v1 } :=
  Acts.set_logbook (t := { t with mem := v0 }) (Acts.set_mem (t := t) (h) hv0 hp0) hp1

theorem Acts.set_mem_segChanges {ps : List Part} {s t : State} {v0 v1} (h : Acts ps s t) (hv0 : t.mem.wf = true → v0.wf = true) (hp0 : Part.mem ∈ ps) (hp1 : Part.moving ∈ ps) :
    Acts ps s { t with mem := v0, segChanges := v1 } :=
  Acts.set_segChanges (t := { t with mem := v0 }) (Acts.set_mem (t := t) (h) hv0 hp0) hp1

theorem Acts.set_pcie_mgmt_sec {ps : List Part} {s t : State} {v0 v1 v2} (h : Acts ps s t) (hp0 : Part.pcie ∈ ps) (hp1 : Part.mgmt ∈ ps) (hp2 : Part.sec ∈ ps) :
    Acts ps s { t with pcie := v0, mgmt := v1, sec := v2 } :=
  Acts.set_sec (t := { t with pcie := v0, mgmt := v1 }) (Acts.set_mgmt (t := { t with pcie := v0 }) (Acts.set_pcie (t := t) (h) hp0) hp1) hp2

theorem Acts.set_pcie_sec {ps : List Part} {s t : State} {v0 v1} (h : Acts ps s t) (hp0 : Part.pcie ∈ ps) (hp1 : Part.sec ∈ ps) :
    Acts ps s { t with pcie := v0, sec := v1 } :=
  Acts.set_sec (t := { t with pcie := v0 }) (Acts.set_pcie (t := t) (h) hp0) hp1

theorem Acts.set_power_gov {ps : List Part} {s t : State} {v0 v1} (h : Acts ps s t) (hp0 : Part.power ∈ ps) (hp1 : Part.gov ∈ ps) :
    Acts ps s { t with power := v0, gov := v1 } :=
  Acts.set_gov (t := { t with power := v0 }) (Acts.set_power (t := t) (h) hp0) hp1

theorem Acts.set_power_mem_clears {ps : List Part} {s t : State} {v0 v1 v2} (h : Acts ps s t) (hp0 : Part.power ∈ ps) (hv1 : t.mem.wf = true → v1.wf = true) (hp1 : Part.mem ∈ ps) (hp2 : Part.moving ∈ ps) :
    Acts ps s { t with power := v0, mem := v1, clears := v2 } :=
  Acts.set_clears (t := { t with power := v0, mem := v1 }) (Acts.set_mem (t := { t with power := v0 }) (Acts.set_power (t := t) (h) hp0) hv1 hp1) hp2

theorem Acts.set_power_mem_segChanges_adapterView_manifestView_clears_logbook_mgmt_sec {ps : List Part} {s t : State} {v0 v1 v2 v3 v4 v5 v6 v7 v8} (h : Acts ps s t) (hp0 : Part.power ∈ ps) (hv1 : t.mem.wf = true → v1.wf = true) (hp1 : Part.mem ∈ ps) (hp2 : Part.moving ∈ ps) (hp3 : Part.weights ∈ ps) (hp4 : Part.serving ∈ ps) (hp5 : Part.moving ∈ ps) (hp6 : Part.logbook ∈ ps) (hp7 : Part.mgmt ∈ ps) (hp8 : Part.sec ∈ ps) :
    Acts ps s { t with power := v0, mem := v1, segChanges := v2, adapterView := v3, manifestView := v4, clears := v5, logbook := v6, mgmt := v7, sec := v8 } :=
  Acts.set_sec (t := { t with power := v0, mem := v1, segChanges := v2, adapterView := v3, manifestView := v4, clears := v5, logbook := v6, mgmt := v7 }) (Acts.set_mgmt (t := { t with power := v0, mem := v1, segChanges := v2, adapterView := v3, manifestView := v4, clears := v5, logbook := v6 }) (Acts.set_logbook (t := { t with power := v0, mem := v1, segChanges := v2, adapterView := v3, manifestView := v4, clears := v5 }) (Acts.set_clears (t := { t with power := v0, mem := v1, segChanges := v2, adapterView := v3, manifestView := v4 }) (Acts.set_manifestView (t := { t with power := v0, mem := v1, segChanges := v2, adapterView := v3 }) (Acts.set_adapterView (t := { t with power := v0, mem := v1, segChanges := v2 }) (Acts.set_segChanges (t := { t with power := v0, mem := v1 }) (Acts.set_mem (t := { t with power := v0 }) (Acts.set_power (t := t) (h) hp0) hv1 hp1) hp2) hp3) hp4) hp5) hp6) hp7) hp8

theorem Acts.set_power_mgmt {ps : List Part} {s t : State} {v0 v1} (h : Acts ps s t) (hp0 : Part.power ∈ ps) (hp1 : Part.mgmt ∈ ps) :
    Acts ps s { t with power := v0, mgmt := v1 } :=
  Acts.set_mgmt (t := { t with power := v0 }) (Acts.set_power (t := t) (h) hp0) hp1

theorem Acts.set_power_queues_inflight_reports_ports {ps : List Part} {s t : State} {v0 v1 v2 v3 v4} (h : Acts ps s t) (hp0 : Part.power ∈ ps) (hp1 : Part.queues ∈ ps) (hp2 : Part.cmds ∈ ps) (hp3 : Part.queues ∈ ps) (hp4 : Part.links ∈ ps) :
    Acts ps s { t with power := v0, queues := v1, inflight := v2, reports := v3, ports := v4 } :=
  Acts.set_ports (t := { t with power := v0, queues := v1, inflight := v2, reports := v3 }) (Acts.set_reports (t := { t with power := v0, queues := v1, inflight := v2 }) (Acts.set_inflight (t := { t with power := v0, queues := v1 }) (Acts.set_queues (t := { t with power := v0 }) (Acts.set_power (t := t) (h) hp0) hp1) hp2) hp3) hp4

theorem Acts.set_power_regs_queues {ps : List Part} {s t : State} {v0 v1 v2} (h : Acts ps s t) (hp0 : Part.power ∈ ps) (hv1 : sortedKeys t.regs = true → sortedKeys v1 = true) (hp1 : Part.regs ∈ ps) (hp2 : Part.queues ∈ ps) :
    Acts ps s { t with power := v0, regs := v1, queues := v2 } :=
  Acts.set_queues (t := { t with power := v0, regs := v1 }) (Acts.set_regs (t := { t with power := v0 }) (Acts.set_power (t := t) (h) hp0) hv1 hp1) hp2

theorem Acts.set_regs_oldRegs_heldHigh_heldLow_hellos_queues_inflight_reports {ps : List Part} {s t : State} {v0 v1 v2 v3 v4 v5 v6 v7} (h : Acts ps s t) (hv0 : sortedKeys t.regs = true → sortedKeys v0 = true) (hp0 : Part.regs ∈ ps) (hp1 : Part.regs ∈ ps) (hp2 : Part.regs ∈ ps) (hp3 : Part.regs ∈ ps) (hp4 : Part.queues ∈ ps) (hp5 : Part.queues ∈ ps) (hp6 : Part.cmds ∈ ps) (hp7 : Part.queues ∈ ps) :
    Acts ps s { t with regs := v0, oldRegs := v1, heldHigh := v2, heldLow := v3, hellos := v4, queues := v5, inflight := v6, reports := v7 } :=
  Acts.set_reports (t := { t with regs := v0, oldRegs := v1, heldHigh := v2, heldLow := v3, hellos := v4, queues := v5, inflight := v6 }) (Acts.set_inflight (t := { t with regs := v0, oldRegs := v1, heldHigh := v2, heldLow := v3, hellos := v4, queues := v5 }) (Acts.set_queues (t := { t with regs := v0, oldRegs := v1, heldHigh := v2, heldLow := v3, hellos := v4 }) (Acts.set_hellos (t := { t with regs := v0, oldRegs := v1, heldHigh := v2, heldLow := v3 }) (Acts.set_heldLow (t := { t with regs := v0, oldRegs := v1, heldHigh := v2 }) (Acts.set_heldHigh (t := { t with regs := v0, oldRegs := v1 }) (Acts.set_oldRegs (t := { t with regs := v0 }) (Acts.set_regs (t := t) (h) hv0 hp0) hp1) hp2) hp3) hp4) hp5) hp6) hp7

theorem Acts.set_reports_serving_manifest_trains_exports_turns_scores {ps : List Part} {s t : State} {v0 v1 v2 v3 v4 v5 v6} (h : Acts ps s t) (hp0 : Part.queues ∈ ps) (hp1 : Part.serving ∈ ps) (hp2 : Part.serving ∈ ps) (hp3 : Part.trains ∈ ps) (hp4 : Part.trains ∈ ps) (hp5 : Part.turns ∈ ps) (hp6 : Part.turns ∈ ps) :
    Acts ps s { t with reports := v0, serving := v1, manifest := v2, trains := v3, exports := v4, turns := v5, scores := v6 } :=
  Acts.set_scores (t := { t with reports := v0, serving := v1, manifest := v2, trains := v3, exports := v4, turns := v5 }) (Acts.set_turns (t := { t with reports := v0, serving := v1, manifest := v2, trains := v3, exports := v4 }) (Acts.set_exports (t := { t with reports := v0, serving := v1, manifest := v2, trains := v3 }) (Acts.set_trains (t := { t with reports := v0, serving := v1, manifest := v2 }) (Acts.set_manifest (t := { t with reports := v0, serving := v1 }) (Acts.set_serving (t := { t with reports := v0 }) (Acts.set_reports (t := t) (h) hp0) hp1) hp2) hp3) hp4) hp5) hp6

theorem Acts.set_serving_trains {ps : List Part} {s t : State} {v0 v1} (h : Acts ps s t) (hp0 : Part.serving ∈ ps) (hp1 : Part.trains ∈ ps) :
    Acts ps s { t with serving := v0, trains := v1 } :=
  Acts.set_trains (t := { t with serving := v0 }) (Acts.set_serving (t := t) (h) hp0) hp1

theorem Acts.set_serving_trains_scores {ps : List Part} {s t : State} {v0 v1 v2} (h : Acts ps s t) (hp0 : Part.serving ∈ ps) (hp1 : Part.trains ∈ ps) (hp2 : Part.turns ∈ ps) :
    Acts ps s { t with serving := v0, trains := v1, scores := v2 } :=
  Acts.set_scores (t := { t with serving := v0, trains := v1 }) (Acts.set_trains (t := { t with serving := v0 }) (Acts.set_serving (t := t) (h) hp0) hp1) hp2

theorem Acts.set_sets_repairs {ps : List Part} {s t : State} {v0 v1} (h : Acts ps s t) (hp0 : Part.weights ∈ ps) (hp1 : Part.weights ∈ ps) :
    Acts ps s { t with sets := v0, repairs := v1 } :=
  Acts.set_repairs (t := { t with sets := v0 }) (Acts.set_sets (t := t) (h) hp0) hp1

theorem Acts.set_spine_draws_power_mem_pcie_panel_mgmt_sec {ps : List Part} {s t : State} {v0 v1 v2 v3 v4 v5 v6 v7} (h : Acts ps s t) (hv0 : t.spine.counts → v0.counts) (hp0 : Part.spine ∈ ps) (hp1 : Part.draws ∈ ps) (hp2 : Part.power ∈ ps) (hv3 : t.mem.wf = true → v3.wf = true) (hp3 : Part.mem ∈ ps) (hp4 : Part.pcie ∈ ps) (hp5 : Part.panel ∈ ps) (hp6 : Part.mgmt ∈ ps) (hp7 : Part.sec ∈ ps) :
    Acts ps s { t with spine := v0, draws := v1, power := v2, mem := v3, pcie := v4, panel := v5, mgmt := v6, sec := v7 } :=
  Acts.set_sec (t := { t with spine := v0, draws := v1, power := v2, mem := v3, pcie := v4, panel := v5, mgmt := v6 }) (Acts.set_mgmt (t := { t with spine := v0, draws := v1, power := v2, mem := v3, pcie := v4, panel := v5 }) (Acts.set_panel (t := { t with spine := v0, draws := v1, power := v2, mem := v3, pcie := v4 }) (Acts.set_pcie (t := { t with spine := v0, draws := v1, power := v2, mem := v3 }) (Acts.set_mem (t := { t with spine := v0, draws := v1, power := v2 }) (Acts.set_power (t := { t with spine := v0, draws := v1 }) (Acts.set_draws (t := { t with spine := v0 }) (Acts.set_spine (t := t) (h) hv0 hp0) hp1) hp2) hv3 hp3) hp4) hp5) hp6) hp7

theorem Acts.set_spine_oldRegs_commitCount {ps : List Part} {s t : State} {v0 v1 v2} (h : Acts ps s t) (hv0 : t.spine.counts → v0.counts) (hp0 : Part.spine ∈ ps) (hp1 : Part.regs ∈ ps) (hp2 : Part.lockage ∈ ps) :
    Acts ps s { t with spine := v0, oldRegs := v1, commitCount := v2 } :=
  Acts.set_commitCount (t := { t with spine := v0, oldRegs := v1 }) (Acts.set_oldRegs (t := { t with spine := v0 }) (Acts.set_spine (t := t) (h) hv0 hp0) hp1) hp2

end Sys2Proof.Machine
end

