-- ==== Sys2Proof/Laws/ActsOps.lean ====
section
/-! SUPPORT. What the operations of Machine/Ops.lean may do (Laws/Acts.lean): the parts each may change, the invariant kept. -/

namespace Sys2Proof.Machine

open Sys2Proof

theorem nextInc_ne_zero (i : BitVec 16) : nextInc i ≠ 0 := by
  unfold nextInc
  split
  · decide
  · intro h
    have : i = 0xFFFF := by bv_omega
    contradiction

theorem raiseInc_counts {l : List (Nat × BitVec 16)} {k : Nat} (h : ∀ p ∈ l, p.2 ≠ 0) : ∀ p ∈ raiseInc l k, p.2 ≠ 0 := by
  intro p hp
  rcases mem_insert_key hp with rfl | hp
  · exact nextInc_ne_zero _
  · exact h p hp

theorem State.at_acts {ps : List Part} {z : State} {s : State} {t : Nat}
    (hs : Acts ps z s) (hp : ∀ p ∈ ([.clock] : List Part), p ∈ ps) :
    Acts ps z (State.at s t) := by
  unfold State.at
  repeat' first
    | with_reducible assumption | with_reducible refine Acts.ite ?_ ?_ | with_reducible refine Acts.set_clock ?_ (hp _ (by decide))

theorem State.draw_acts {ps : List Part} {z : State} {s : State}
    (hs : Acts ps z s) (hp : ∀ p ∈ ([.draws] : List Part), p ∈ ps) :
    Acts ps z (State.draw s).2 := by
  unfold State.draw
  repeat' first
    | with_reducible assumption | dsimp only | with_reducible refine Acts.set_draws ?_ (hp _ (by decide))

theorem State.setReg_acts {ps : List Part} {z : State} {s : State} {a : Nat} {v : Word}
    (hs : Acts ps z s) (hp : ∀ p ∈ ([.regs] : List Part), p ∈ ps) :
    Acts ps z (State.setReg s a v) := by
  unfold State.setReg
  repeat' first
    | with_reducible assumption | exact fun q => insert_sorted q | exact fun q => filter_sorted q | exact fun q => Mem.forget_wf q
    | exact fun q => q | with_reducible refine Acts.set_regs ?_ ?_ (hp _ (by decide))

theorem State.setNat_acts {ps : List Part} {z : State} {s : State} {a : Nat} {v : Nat}
    (hs : Acts ps z s) (hp : ∀ p ∈ ([.regs] : List Part), p ∈ ps) :
    Acts ps z (State.setNat s a v) := by
  unfold State.setNat
  repeat' first
    | with_reducible assumption | with_reducible refine State.setReg_acts ?_ (inside hp (by decide))

theorem State.set64_acts {ps : List Part} {z : State} {s : State} {a : Nat} {v : Nat}
    (hs : Acts ps z s) (hp : ∀ p ∈ ([.regs] : List Part), p ∈ ps) :
    Acts ps z (State.set64 s a v) := by
  unfold State.set64
  repeat' first
    | with_reducible assumption | with_reducible refine State.setNat_acts ?_ (inside hp (by decide))

theorem State.add64_acts {ps : List Part} {z : State} {s : State} {a : Nat} {n : Nat}
    (hs : Acts ps z s) (hp : ∀ p ∈ ([.regs] : List Part), p ∈ ps) :
    Acts ps z (State.add64 s a n) := by
  unfold State.add64
  repeat' first
    | with_reducible assumption | with_reducible refine State.set64_acts ?_ (inside hp (by decide))

theorem State.add32_acts {ps : List Part} {z : State} {s : State} {a : Nat} {n : Nat}
    (hs : Acts ps z s) (hp : ∀ p ∈ ([.regs] : List Part), p ∈ ps) :
    Acts ps z (State.add32 s a n) := by
  unfold State.add32
  repeat' first
    | with_reducible assumption | with_reducible refine State.setNat_acts ?_ (inside hp (by decide))

theorem State.sat32_acts {ps : List Part} {z : State} {s : State} {a : Nat} {n : Nat}
    (hs : Acts ps z s) (hp : ∀ p ∈ ([.regs] : List Part), p ∈ ps) :
    Acts ps z (State.sat32 s a n) := by
  unfold State.sat32
  repeat' first
    | with_reducible assumption | with_reducible refine State.setNat_acts ?_ (inside hp (by decide))

theorem State.sat64_acts {ps : List Part} {z : State} {s : State} {a : Nat} {n : Nat}
    (hs : Acts ps z s) (hp : ∀ p ∈ ([.regs] : List Part), p ∈ ps) :
    Acts ps z (State.sat64 s a n) := by
  unfold State.sat64
  repeat' first
    | with_reducible assumption | with_reducible refine State.set64_acts ?_ (inside hp (by decide))

theorem State.emit_acts {ps : List Part} {z : State} {s : State} {o : Out}
    (hs : Acts ps z s) (hp : ∀ p ∈ ([.outbox] : List Part), p ∈ ps) :
    Acts ps z (State.emit s o) := by
  unfold State.emit
  repeat' first
    | with_reducible assumption | with_reducible refine Acts.set_outbox ?_ (hp _ (by decide))

theorem State.interruptOf_acts {ps : List Part} {z : State} {s : State} {a : Nat}
    (hs : Acts ps z s) (hp : ∀ p ∈ ([.outbox] : List Part), p ∈ ps) :
    Acts ps z (State.interruptOf s a) := by
  unfold State.interruptOf
  repeat' first
    | with_reducible assumption | with_reducible refine State.emit_acts ?_ (inside hp (by decide)) | split

theorem State.bump_acts {ps : List Part} {z : State} {s : State} {a : Nat} {n : Nat}
    (hs : Acts ps z s) (hp : ∀ p ∈ ([.regs] : List Part), p ∈ ps) :
    Acts ps z (State.bump s a n) := by
  unfold State.bump
  repeat' first
    | with_reducible assumption | with_reducible refine State.setNat_acts ?_ (inside hp (by decide)) | extract_lets
    | dsimp +zetaDelta only

theorem State.raise_acts {ps : List Part} {z : State} {s : State} {a : Nat} {n : Nat}
    (hs : Acts ps z s) (hp : ∀ p ∈ ([.regs, .outbox] : List Part), p ∈ ps) :
    Acts ps z (State.raise s a n) := by
  unfold State.raise
  repeat' first
    | with_reducible assumption | with_reducible refine State.interruptOf_acts ?_ (inside hp (by decide))
    | with_reducible refine State.setNat_acts ?_ (inside hp (by decide))
    | with_reducible refine State.bump_acts ?_ (inside hp (by decide)) | extract_lets | with_reducible refine Acts.ite ?_ ?_
    | dsimp +zetaDelta only

theorem State.clearFlags_acts {ps : List Part} {z : State} {s : State} {a : Nat} {v : Nat}
    (hs : Acts ps z s) (hp : ∀ p ∈ ([.regs, .outbox] : List Part), p ∈ ps) :
    Acts ps z (State.clearFlags s a v) := by
  unfold State.clearFlags
  repeat' first
    | with_reducible assumption | with_reducible refine State.interruptOf_acts ?_ (inside hp (by decide))
    | with_reducible refine State.setNat_acts ?_ (inside hp (by decide)) | extract_lets | with_reducible refine Acts.ite ?_ ?_
    | dsimp +zetaDelta only

theorem State.raiseUnit_acts {ps : List Part} {z : State} {s : State} {u : Nat}
    (hs : Acts ps z s) (hp : ∀ p ∈ ([.spine] : List Part), p ∈ ps) :
    Acts ps z (State.raiseUnit s u) := by
  unfold State.raiseUnit
  exact Acts.set_spine hs (fun q => ⟨q.1, raiseInc_counts q.2.1, q.2.2⟩) (hp _ (by decide))

theorem State.raiseFunc_acts {ps : List Part} {z : State} {s : State} {f : Nat}
    (hs : Acts ps z s) (hp : ∀ p ∈ ([.spine] : List Part), p ∈ ps) :
    Acts ps z (State.raiseFunc s f) := by
  unfold State.raiseFunc
  exact Acts.set_spine hs (fun q => ⟨q.1, q.2.1, raiseInc_counts q.2.2⟩) (hp _ (by decide))

theorem dropOne_length {l : List LogRecord} (h : l ≠ []) : (dropOne l).length + 1 = l.length := by
  cases l with
  | nil => contradiction
  | cons r rs =>
    simp only [dropOne]
    split
    · next e =>
      have he : ∃ x ∈ r :: rs, (x.cls == 0) = true := by simpa using e
      obtain ⟨x, hx, hc⟩ := he
      have := List.length_eraseP_of_mem (p := fun x : LogRecord => x.cls == 0) hx hc
      simp only [List.length_cons] at this ⊢
      omega
    · simp

theorem log_stays_bounded {l : List LogRecord} {r : LogRecord} (h : l.length ≤ 4096) :
    ((if decide (4096 ≤ l.length) = true then dropOne l else l) ++ [r]).length ≤ 4096 := by
  split
  · next e =>
    have e : 4096 ≤ l.length := by simpa using e
    have := dropOne_length (l := l) (by intro h; simp [h] at e)
    simp only [List.length_append, List.length_singleton]
    omega
  · next e =>
    have e : ¬ 4096 ≤ l.length := by simpa using e
    simp only [List.length_append, List.length_singleton]
    omega

theorem State.logEvent_acts {ps : List Part} {z : State} {s : State} {g : LogArg}
    (hs : Acts ps z s) (hp : ∀ p ∈ ([.log, .outbox] : List Part), p ∈ ps) : Acts ps z (State.logEvent s g) := by
  unfold State.logEvent
  extract_lets r full kept s1
  have h1 : Acts ps z s1 := Acts.set_log hs (fun q => log_stays_bounded q) (hp _ (by decide))
  split
  · exact State.emit_acts h1 (inside hp (by decide))
  · exact h1

theorem State.logDiscard_acts {ps : List Part} {z : State} {s : State} {fn : Nat} {addr : Nat}
    (hs : Acts ps z s) (hp : ∀ p ∈ ([.log, .outbox] : List Part), p ∈ ps) :
    Acts ps z (State.logDiscard s fn addr) := by
  unfold State.logDiscard
  repeat' first
    | with_reducible assumption | with_reducible refine State.logEvent_acts ?_ (inside hp (by decide))

theorem State.platformEvent_acts {ps : List Part} {z : State} {s : State} {id : Nat} {state : Nat}
    (hs : Acts ps z s) (hp : ∀ p ∈ ([.mgmt] : List Part), p ∈ ps) :
    Acts ps z (State.platformEvent s id state) := by
  unfold State.platformEvent
  repeat' first
    | with_reducible assumption | split | with_reducible refine Acts.set_mgmt ?_ (hp _ (by decide))

theorem State.sensorChange_acts {ps : List Part} {z : State} {s : State} {id : Nat} {old : Nat} {new : Nat}
    (hs : Acts ps z s) (hp : ∀ p ∈ ([.mgmt] : List Part), p ∈ ps) :
    Acts ps z (State.sensorChange s id old new) := by
  unfold State.sensorChange
  repeat' first
    | with_reducible assumption | with_reducible refine State.platformEvent_acts ?_ (inside hp (by decide))
    | with_reducible refine Acts.ite ?_ ?_

theorem State.putSocket_acts {ps : List Part} {z : State} {s : State} {n : Nat} {k : Socket}
    (hs : Acts ps z s) (hp : ∀ p ∈ ([.panel, .mgmt] : List Part), p ∈ ps) :
    Acts ps z (State.putSocket s n k) := by
  unfold State.putSocket
  repeat' first
    | with_reducible assumption | with_reducible refine State.sensorChange_acts ?_ (inside hp (by decide)) | extract_lets
    | with_reducible refine Acts.set_panel ?_ (hp _ (by decide)) | dsimp +zetaDelta only

theorem State.toPower_acts {ps : List Part} {z : State} {s : State} {p : PowerState}
    (hs : Acts ps z s) (hp : ∀ p ∈ ([.power, .mgmt] : List Part), p ∈ ps) :
    Acts ps z (State.toPower s p) := by
  unfold State.toPower
  repeat' first
    | with_reducible assumption | with_reducible refine State.sensorChange_acts ?_ (inside hp (by decide))
    | with_reducible refine Acts.set_power ?_ (hp _ (by decide))

theorem State.raisePanel_acts {ps : List Part} {z : State} {s : State} {n : Nat}
    (hs : Acts ps z s) (hp : ∀ p ∈ ([.regs, .mgmt, .outbox] : List Part), p ∈ ps) :
    Acts ps z (State.raisePanel s n) := by
  unfold State.raisePanel
  repeat' first
    | with_reducible assumption | with_reducible refine State.platformEvent_acts ?_ (inside hp (by decide))
    | with_reducible refine State.raise_acts ?_ (inside hp (by decide))

theorem State.sees_acts {ps : List Part} {z : State} {s : State} {hv : HostView}
    (hs : Acts ps z s) (hp : ∀ p ∈ ([.host] : List Part), p ∈ ps) :
    Acts ps z (State.sees s hv) := by
  unfold State.sees
  repeat' first
    | with_reducible assumption | with_reducible refine Acts.foldl ?_ ?_ | with_reducible refine Acts.foldl_fst ?_ ?_
    | with_reducible refine Acts.foldl_snd ?_ ?_ | intro _ | dsimp only | with_reducible refine Acts.set_host ?_ (hp _ (by decide))

theorem State.hostWrite_acts {ps : List Part} {z : State} {s : State} {a : Nat} {bs : List Byte}
    (hs : Acts ps z s) (hp : ∀ p ∈ ([.host] : List Part), p ∈ ps) :
    Acts ps z (State.hostWrite s a bs) := by
  unfold State.hostWrite
  repeat' first
    | with_reducible assumption | with_reducible refine Acts.set_host ?_ (hp _ (by decide))

theorem State.updCmd_acts {ps : List Part} {z : State} {s : State} {r : CmdRef} {f : Cmd → Cmd}
    (hs : Acts ps z s) (hp : ∀ p ∈ ([.cmds] : List Part), p ∈ ps) :
    Acts ps z (State.updCmd s r f) := by
  unfold State.updCmd
  repeat' first
    | with_reducible assumption | intro _ | dsimp only | with_reducible refine Acts.set_inflight ?_ (hp _ (by decide))

theorem State.finish_acts {ps : List Part} {z : State} {s : State} {r : CmdRef} {a : Answer}
    (hs : Acts ps z s) (hp : ∀ p ∈ ([.cmds] : List Part), p ∈ ps) :
    Acts ps z (State.finish s r a) := by
  unfold State.finish
  repeat' first
    | with_reducible assumption | with_reducible refine State.updCmd_acts ?_ (inside hp (by decide)) | intro _ | dsimp only

theorem State.running_acts {ps : List Part} {z : State} {s : State} {r : CmdRef}
    (hs : Acts ps z s) (hp : ∀ p ∈ ([.cmds] : List Part), p ∈ ps) :
    Acts ps z (State.running s r) := by
  unfold State.running
  repeat' first
    | with_reducible assumption | with_reducible refine State.updCmd_acts ?_ (inside hp (by decide)) | intro _ | dsimp only

theorem State.markLogged_acts {ps : List Part} {z : State} {s : State} {r : CmdRef}
    (hs : Acts ps z s) (hp : ∀ p ∈ ([.cmds] : List Part), p ∈ ps) :
    Acts ps z (State.markLogged s r) := by
  unfold State.markLogged
  repeat' first
    | with_reducible assumption | with_reducible refine State.updCmd_acts ?_ (inside hp (by decide)) | intro _ | dsimp only

theorem State.actFor_acts {ps : List Part} {z : State} {s : State} {epoch : Nat} {berth : Nat}
    (hs : Acts ps z s) (hp : ∀ p ∈ ([.acting] : List Part), p ∈ ps) :
    Acts ps z (State.actFor s epoch berth) := by
  unfold State.actFor
  repeat' first
    | with_reducible assumption | with_reducible refine Acts.set_acting ?_ (hp _ (by decide))

theorem State.actAs_acts {ps : List Part} {z : State} {s : State} {c : Cmd}
    (hs : Acts ps z s) (hp : ∀ p ∈ ([.acting] : List Part), p ∈ ps) :
    Acts ps z (State.actAs s c) := by
  unfold State.actAs
  repeat' first
    | with_reducible assumption | with_reducible refine Acts.set_acting ?_ (hp _ (by decide))

theorem State.ksWrite_acts {ps : List Part} {z : State} {s : State} {f : Keepsake → Keepsake}
    (hs : Acts ps z s) (hp : ∀ p ∈ ([.keepsake] : List Part), p ∈ ps) :
    Acts ps z (State.ksWrite s f) := by
  unfold State.ksWrite
  repeat' first
    | with_reducible assumption | with_reducible refine Acts.set_keepsake ?_ (hp _ (by decide))

end Sys2Proof.Machine
end

