-- ==== Sys2Proof/Laws/ActsBasin.lean ====
section
/-! SUPPORT. What the operations of Machine/Basin.lean may do (Laws/Acts.lean): the parts each may change, the invariant kept. -/

namespace Sys2Proof.Machine

open Sys2Proof

theorem State.updBasin_acts {ps : List Part} {z : State} {s : State} {f : Basin → Basin}
    (hs : Acts ps z s) (hp : ∀ p ∈ ([.mem] : List Part), p ∈ ps) :
    Acts ps z (State.updBasin s f) := by
  unfold State.updBasin
  repeat' first
    | with_reducible assumption | exact fun q => insert_sorted q | exact fun q => filter_sorted q | exact fun q => Mem.forget_wf q
    | exact fun q => q | with_reducible refine Acts.set_mem ?_ ?_ (hp _ (by decide))

theorem State.count_acts {ps : List Part} {z : State} {s : State} {a : Nat} {n : Nat}
    (hs : Acts ps z s) (hp : ∀ p ∈ ([.mem] : List Part), p ∈ ps) :
    Acts ps z (State.count s a n) := by
  unfold State.count
  repeat' first
    | with_reducible assumption | with_reducible refine State.updBasin_acts ?_ (inside hp (by decide)) | intro _ | dsimp only

theorem State.chargeTo_acts {ps : List Part} {z : State} {s : State} {w : Nat} {point : Nat} {n : Nat}
    (hs : Acts ps z s) (hp : ∀ p ∈ ([.mem] : List Part), p ∈ ps) :
    Acts ps z (State.chargeTo s w point n) := by
  unfold State.chargeTo
  repeat' first
    | with_reducible assumption | with_reducible refine State.updBasin_acts ?_ (inside hp (by decide))
    | with_reducible refine State.count_acts ?_ (inside hp (by decide)) | extract_lets | intro _ | with_reducible refine Acts.ite ?_ ?_
    | dsimp only | dsimp +zetaDelta only

theorem State.charge_acts {ps : List Part} {z : State} {s : State} {point : Nat} {n : Nat}
    (hs : Acts ps z s) (hp : ∀ p ∈ ([.mem] : List Part), p ∈ ps) :
    Acts ps z (State.charge s point n) := by
  unfold State.charge
  repeat' first
    | with_reducible assumption | with_reducible refine State.chargeTo_acts ?_ (inside hp (by decide))

theorem State.ctrlRead_acts {ps : List Part} {z : State} {s : State} {c : Nat} {n : Nat}
    (hs : Acts ps z s) (hp : ∀ p ∈ ([.mem] : List Part), p ∈ ps) :
    Acts ps z (State.ctrlRead s c n) := by
  unfold State.ctrlRead
  repeat' first
    | with_reducible assumption | with_reducible refine State.charge_acts ?_ (inside hp (by decide))
    | with_reducible refine State.count_acts ?_ (inside hp (by decide))

theorem State.ctrlWrite_acts {ps : List Part} {z : State} {s : State} {c : Nat} {n : Nat}
    (hs : Acts ps z s) (hp : ∀ p ∈ ([.mem] : List Part), p ∈ ps) :
    Acts ps z (State.ctrlWrite s c n) := by
  unfold State.ctrlWrite
  repeat' first
    | with_reducible assumption | with_reducible refine State.charge_acts ?_ (inside hp (by decide))
    | with_reducible refine State.count_acts ?_ (inside hp (by decide))

theorem State.hit_acts {ps : List Part} {z : State} {s : State} {h : Nat} {n : Nat}
    (hs : Acts ps z s) (hp : ∀ p ∈ ([.mem] : List Part), p ∈ ps) :
    Acts ps z (State.hit s h n) := by
  unfold State.hit
  repeat' first
    | with_reducible assumption | with_reducible refine State.charge_acts ?_ (inside hp (by decide))
    | with_reducible refine State.count_acts ?_ (inside hp (by decide))

theorem State.miss_acts {ps : List Part} {z : State} {s : State} {h : Nat} {n : Nat}
    (hs : Acts ps z s) (hp : ∀ p ∈ ([.mem] : List Part), p ∈ ps) :
    Acts ps z (State.miss s h n) := by
  unfold State.miss
  repeat' first
    | with_reducible assumption | with_reducible refine State.charge_acts ?_ (inside hp (by decide))
    | with_reducible refine State.count_acts ?_ (inside hp (by decide))

theorem State.spreadPoison_acts {ps : List Part} {z : State} {s : State} {l : Nat} {sectors : List Nat}
    (hs : Acts ps z s) (hp : ∀ p ∈ ([.mem] : List Part), p ∈ ps) :
    Acts ps z (State.spreadPoison s l sectors) := by
  unfold State.spreadPoison
  repeat' first
    | with_reducible assumption | exact fun q => insert_sorted q | exact fun q => filter_sorted q | exact fun q => Mem.forget_wf q
    | exact fun q => q | with_reducible refine Acts.ite ?_ ?_ | with_reducible refine Acts.set_mem ?_ ?_ (hp _ (by decide))

theorem State.expel_acts {ps : List Part} {z : State} {s : State} {k : CacheLine}
    (hs : Acts ps z s) (hp : ∀ p ∈ ([.mem] : List Part), p ∈ ps) :
    Acts ps z (State.expel s k) := by
  unfold State.expel
  repeat' first
    | with_reducible assumption | with_reducible refine State.spreadPoison_acts ?_ (inside hp (by decide))
    | with_reducible refine State.chargeTo_acts ?_ (inside hp (by decide))
    | with_reducible refine State.updBasin_acts ?_ (inside hp (by decide))
    | with_reducible refine State.count_acts ?_ (inside hp (by decide)) | extract_lets | intro _ | with_reducible refine Acts.ite ?_ ?_
    | dsimp only | dsimp +zetaDelta only

theorem State.allocate_acts {ps : List Part} {z : State} {s : State} {l : Nat} {dirty : Bool}
    (hs : Acts ps z s) (hp : ∀ p ∈ ([.mem] : List Part), p ∈ ps) :
    Acts ps z (State.allocate s l dirty) := by
  unfold State.allocate
  repeat' first
    | with_reducible assumption | with_reducible refine State.updBasin_acts ?_ (inside hp (by decide))
    | with_reducible refine State.expel_acts ?_ (inside hp (by decide)) | extract_lets | intro _ | with_reducible refine Acts.ite ?_ ?_
    | split | dsimp only | dsimp +zetaDelta only

theorem State.useLine_acts {ps : List Part} {z : State} {s : State} {l : Nat} {write : Bool}
    (hs : Acts ps z s) (hp : ∀ p ∈ ([.mem] : List Part), p ∈ ps) :
    Acts ps z (State.useLine s l write) := by
  unfold State.useLine
  repeat' first
    | with_reducible assumption | with_reducible refine State.updBasin_acts ?_ (inside hp (by decide)) | intro _
    | with_reducible refine Acts.ite ?_ ?_ | dsimp only

theorem State.dropEntry_acts {ps : List Part} {z : State} {s : State} {l : Nat}
    (hs : Acts ps z s) (hp : ∀ p ∈ ([.mem] : List Part), p ∈ ps) :
    Acts ps z (State.dropEntry s l) := by
  unfold State.dropEntry
  repeat' first
    | with_reducible assumption | with_reducible refine State.updBasin_acts ?_ (inside hp (by decide)) | intro _ | dsimp only

theorem State.mergeSectors_acts {ps : List Part} {z : State} {s : State} {l : Nat} {m : Nat}
    (hs : Acts ps z s) (hp : ∀ p ∈ ([.mem] : List Part), p ∈ ps) :
    Acts ps z (State.mergeSectors s l m) := by
  unfold State.mergeSectors
  repeat' first
    | with_reducible assumption | with_reducible refine State.ctrlWrite_acts ?_ (inside hp (by decide))
    | with_reducible refine State.ctrlRead_acts ?_ (inside hp (by decide))
    | with_reducible refine State.count_acts ?_ (inside hp (by decide)) | extract_lets | intro _ | with_reducible refine Acts.ite ?_ ?_
    | dsimp only | dsimp +zetaDelta only

theorem State.sluiceWrite_acts {ps : List Part} {z : State} {s : State} {l : Nat} {off : Nat} {n : Nat}
    (hs : Acts ps z s) (hp : ∀ p ∈ ([.mem] : List Part), p ∈ ps) :
    Acts ps z (State.sluiceWrite s l off n) := by
  unfold State.sluiceWrite
  repeat' first
    | with_reducible assumption | with_reducible refine State.spreadPoison_acts ?_ (inside hp (by decide))
    | with_reducible refine State.ctrlWrite_acts ?_ (inside hp (by decide))
    | with_reducible refine State.dropEntry_acts ?_ (inside hp (by decide))
    | with_reducible refine State.updBasin_acts ?_ (inside hp (by decide))
    | with_reducible refine State.count_acts ?_ (inside hp (by decide)) | with_reducible refine State.hit_acts ?_ (inside hp (by decide))
    | extract_lets | intro _ | with_reducible refine Acts.ite ?_ ?_ | split | dsimp only | dsimp +zetaDelta only

theorem State.evictEntry_acts {ps : List Part} {z : State} {s : State} {a1 : SluiceEntry}
    (hs : Acts ps z s) (hp : ∀ p ∈ ([.mem] : List Part), p ∈ ps) :
    Acts ps z (State.evictEntry s a1) := by
  unfold State.evictEntry
  repeat' first
    | with_reducible assumption | with_reducible refine State.spreadPoison_acts ?_ (inside hp (by decide))
    | with_reducible refine State.mergeSectors_acts ?_ (inside hp (by decide))
    | with_reducible refine State.dropEntry_acts ?_ (inside hp (by decide))
    | with_reducible refine State.count_acts ?_ (inside hp (by decide)) | extract_lets | intro _ | dsimp only | dsimp +zetaDelta only

theorem State.readLine_acts {ps : List Part} {z : State} {s : State} {alloc : Bool} {l : Nat} {n : Nat}
    (hs : Acts ps z s) (hp : ∀ p ∈ ([.mem] : List Part), p ∈ ps) :
    Acts ps z (State.readLine s alloc l n) := by
  unfold State.readLine
  repeat' first
    | with_reducible assumption | with_reducible refine State.ctrlRead_acts ?_ (inside hp (by decide))
    | with_reducible refine State.allocate_acts ?_ (inside hp (by decide))
    | with_reducible refine State.useLine_acts ?_ (inside hp (by decide))
    | with_reducible refine State.miss_acts ?_ (inside hp (by decide)) | with_reducible refine State.hit_acts ?_ (inside hp (by decide))
    | extract_lets | with_reducible refine Acts.ite ?_ ?_ | dsimp +zetaDelta only

theorem State.writeLine_acts {ps : List Part} {z : State} {s : State} {l : Nat} {off : Nat} {n : Nat}
    (hs : Acts ps z s) (hp : ∀ p ∈ ([.mem] : List Part), p ∈ ps) :
    Acts ps z (State.writeLine s l off n) := by
  unfold State.writeLine
  repeat' first
    | with_reducible assumption | with_reducible refine State.mergeSectors_acts ?_ (inside hp (by decide))
    | with_reducible refine State.sluiceWrite_acts ?_ (inside hp (by decide))
    | with_reducible refine State.ctrlWrite_acts ?_ (inside hp (by decide))
    | with_reducible refine State.dropEntry_acts ?_ (inside hp (by decide))
    | with_reducible refine State.allocate_acts ?_ (inside hp (by decide))
    | with_reducible refine State.useLine_acts ?_ (inside hp (by decide))
    | with_reducible refine State.miss_acts ?_ (inside hp (by decide)) | with_reducible refine State.hit_acts ?_ (inside hp (by decide))
    | extract_lets | with_reducible refine Acts.ite ?_ ?_ | dsimp +zetaDelta only

theorem State.narrowLine_acts {ps : List Part} {z : State} {s : State} {write : Bool} {a : Nat} {n : Nat}
    (hs : Acts ps z s) (hp : ∀ p ∈ ([.mem] : List Part), p ∈ ps) :
    Acts ps z (State.narrowLine s write a n) := by
  unfold State.narrowLine
  repeat' first
    | with_reducible assumption | with_reducible refine State.mergeSectors_acts ?_ (inside hp (by decide))
    | with_reducible refine State.sluiceWrite_acts ?_ (inside hp (by decide))
    | with_reducible refine State.ctrlRead_acts ?_ (inside hp (by decide))
    | with_reducible refine State.useLine_acts ?_ (inside hp (by decide))
    | with_reducible refine State.charge_acts ?_ (inside hp (by decide))
    | with_reducible refine State.count_acts ?_ (inside hp (by decide)) | with_reducible refine State.miss_acts ?_ (inside hp (by decide))
    | with_reducible refine State.hit_acts ?_ (inside hp (by decide)) | extract_lets | with_reducible refine Acts.ite ?_ ?_
    | dsimp +zetaDelta only

theorem State.tally_acts {ps : List Part} {z : State} {s : State} {write : Bool} {alloc : Bool} {a : Nat} {n : Nat}
    (hs : Acts ps z s) (hp : ∀ p ∈ ([.mem] : List Part), p ∈ ps) :
    Acts ps z (State.tally s write alloc a n) := by
  unfold State.tally
  repeat' first
    | with_reducible assumption | with_reducible refine State.writeLine_acts ?_ (inside hp (by decide))
    | with_reducible refine State.ctrlWrite_acts ?_ (inside hp (by decide))
    | with_reducible refine State.readLine_acts ?_ (inside hp (by decide))
    | with_reducible refine State.ctrlRead_acts ?_ (inside hp (by decide))
    | with_reducible refine State.updBasin_acts ?_ (inside hp (by decide))
    | with_reducible refine State.hit_acts ?_ (inside hp (by decide)) | with_reducible refine Acts.foldl ?_ ?_
    | with_reducible refine Acts.foldl_fst ?_ ?_ | with_reducible refine Acts.foldl_snd ?_ ?_ | extract_lets | intro _
    | with_reducible refine Acts.ite ?_ ?_ | split | dsimp only | dsimp +zetaDelta only

theorem State.tallyReads_acts {ps : List Part} {z : State} {s : State} {alloc : Bool} {rs : List (Nat × Nat)}
    (hs : Acts ps z s) (hp : ∀ p ∈ ([.mem] : List Part), p ∈ ps) :
    Acts ps z (State.tallyReads s alloc rs) := by
  unfold State.tallyReads
  repeat' first
    | with_reducible assumption | with_reducible refine State.tally_acts ?_ (inside hp (by decide))
    | with_reducible refine Acts.foldl ?_ ?_ | with_reducible refine Acts.foldl_fst ?_ ?_ | with_reducible refine Acts.foldl_snd ?_ ?_
    | intro _ | dsimp only

theorem State.uncountedAccess_acts {ps : List Part} {z : State} {s : State}
    (hs : Acts ps z s) (hp : ∀ p ∈ ([.mem] : List Part), p ∈ ps) :
    Acts ps z (State.uncountedAccess s) := by
  unfold State.uncountedAccess
  repeat' first
    | with_reducible assumption | with_reducible refine State.updBasin_acts ?_ (inside hp (by decide)) | intro _ | dsimp only

theorem State.fillLines_acts {ps : List Part} {z : State} {s : State} {a : Nat} {n : Nat}
    (hs : Acts ps z s) (hp : ∀ p ∈ ([.mem] : List Part), p ∈ ps) :
    Acts ps z (State.fillLines s a n) := by
  unfold State.fillLines
  repeat' first
    | with_reducible assumption | with_reducible refine State.ctrlWrite_acts ?_ (inside hp (by decide))
    | with_reducible refine State.updBasin_acts ?_ (inside hp (by decide)) | with_reducible refine Acts.foldl ?_ ?_ | extract_lets
    | intro _ | with_reducible refine Acts.ite ?_ ?_ | dsimp only | dsimp +zetaDelta only

theorem State.emptyCache_acts {ps : List Part} {z : State} {s : State}
    (hs : Acts ps z s) (hp : ∀ p ∈ ([.mem] : List Part), p ∈ ps) :
    Acts ps z (State.emptyCache s) := by
  unfold State.emptyCache
  repeat' first
    | with_reducible assumption | with_reducible refine State.expel_acts ?_ (inside hp (by decide))
    | with_reducible refine Acts.foldl ?_ ?_ | intro _ | dsimp only

theorem State.emptySegment_acts {ps : List Part} {z : State} {s : State} {h : Nat} {j : Nat}
    (hs : Acts ps z s) (hp : ∀ p ∈ ([.mem] : List Part), p ∈ ps) :
    Acts ps z (State.emptySegment s h j) := by
  unfold State.emptySegment
  repeat' first
    | with_reducible assumption | with_reducible refine State.expel_acts ?_ (inside hp (by decide))
    | with_reducible refine Acts.foldl ?_ ?_ | intro _ | dsimp only

theorem State.endPoint_acts {ps : List Part} {z : State} {s : State} {beats : Nat} {point : Nat}
    (hs : Acts ps z s) (hp : ∀ p ∈ ([.mem] : List Part), p ∈ ps) :
    Acts ps z (State.endPoint s beats point) := by
  unfold State.endPoint
  repeat' first
    | with_reducible assumption | with_reducible refine State.updBasin_acts ?_ (inside hp (by decide))
    | with_reducible refine Acts.foldl ?_ ?_ | with_reducible refine Acts.foldl_fst ?_ ?_ | with_reducible refine Acts.foldl_snd ?_ ?_
    | extract_lets | intro _ | with_reducible refine Acts.ite ?_ ?_ | dsimp only | dsimp +zetaDelta only

theorem State.endWindow_acts {ps : List Part} {z : State} {s : State}
    (hs : Acts ps z s) (hp : ∀ p ∈ ([.mem] : List Part), p ∈ ps) :
    Acts ps z (State.endWindow s) := by
  unfold State.endWindow
  repeat' first
    | with_reducible assumption | with_reducible refine State.updBasin_acts ?_ (inside hp (by decide))
    | with_reducible refine State.endPoint_acts ?_ (inside hp (by decide)) | with_reducible refine Acts.foldl ?_ ?_ | extract_lets
    | intro _ | with_reducible refine Acts.ite ?_ ?_ | dsimp only | dsimp +zetaDelta only

end Sys2Proof.Machine
end

