-- ==== Sys2Proof/Laws/ActsShared.lean ====
section
/-! SUPPORT. What the operations of Machine/Shared.lean may do (Laws/Acts.lean): the parts each may change, the invariant kept. -/

namespace Sys2Proof.Machine

open Sys2Proof

theorem State.putSet_acts {ps : List Part} {z : State} {s : State} {w : Nat} {k : WeightSet}
    (hs : Acts ps z s) (hp : ∀ p ∈ ([.weights] : List Part), p ∈ ps) :
    Acts ps z (State.putSet s w k) := by
  unfold State.putSet
  repeat' first
    | with_reducible assumption | with_reducible refine Acts.set_sets ?_ (hp _ (by decide))

theorem State.updSet_acts {ps : List Part} {z : State} {s : State} {w : Nat} {f : WeightSet → WeightSet}
    (hs : Acts ps z s) (hp : ∀ p ∈ ([.weights] : List Part), p ∈ ps) :
    Acts ps z (State.updSet s w f) := by
  unfold State.updSet
  repeat' first
    | with_reducible assumption | with_reducible refine State.putSet_acts ?_ (inside hp (by decide)) | split

theorem State.updAdapter_acts {ps : List Part} {z : State} {s : State} {a : Nat} {f : Adapter → Adapter}
    (hs : Acts ps z s) (hp : ∀ p ∈ ([.weights] : List Part), p ∈ ps) :
    Acts ps z (State.updAdapter s a f) := by
  unfold State.updAdapter
  repeat' first
    | with_reducible assumption | split | with_reducible refine Acts.set_adapters ?_ (hp _ (by decide))

theorem State.damageSet_acts {ps : List Part} {z : State} {s : State} {w : Nat}
    (hs : Acts ps z s) (hp : ∀ p ∈ ([.weights, .log, .outbox] : List Part), p ∈ ps) :
    Acts ps z (State.damageSet s w) := by
  unfold State.damageSet
  repeat' first
    | with_reducible assumption | with_reducible refine State.logEvent_acts ?_ (inside hp (by decide))
    | with_reducible refine State.updSet_acts ?_ (inside hp (by decide)) | extract_lets | intro _ | with_reducible refine Acts.ite ?_ ?_
    | split | dsimp only | with_reducible refine Acts.set_repairs ?_ (hp _ (by decide)) | dsimp +zetaDelta only

theorem State.damageAdapter_acts {ps : List Part} {z : State} {s : State} {i : Nat}
    (hs : Acts ps z s) (hp : ∀ p ∈ ([.regs, .weights, .log, .outbox] : List Part), p ∈ ps) :
    Acts ps z (State.damageAdapter s i) := by
  unfold State.damageAdapter
  repeat' first
    | with_reducible assumption | with_reducible refine State.updAdapter_acts ?_ (inside hp (by decide))
    | with_reducible refine State.logEvent_acts ?_ (inside hp (by decide))
    | with_reducible refine State.raise_acts ?_ (inside hp (by decide)) | extract_lets | intro _ | split | dsimp only
    | with_reducible refine Acts.set_repairs ?_ (hp _ (by decide)) | dsimp +zetaDelta only

theorem State.damage_acts {ps : List Part} {z : State} {s : State} {adapter : Bool} {slot : Nat}
    (hs : Acts ps z s) (hp : ∀ p ∈ ([.regs, .weights, .log, .outbox] : List Part), p ∈ ps) :
    Acts ps z (State.damage s adapter slot) := by
  unfold State.damage
  repeat' first
    | with_reducible assumption | with_reducible refine State.damageAdapter_acts ?_ (inside hp (by decide))
    | with_reducible refine State.damageSet_acts ?_ (inside hp (by decide)) | with_reducible refine Acts.ite ?_ ?_

theorem State.openRepair_acts {ps : List Part} {z : State} {s : State} {u : Nat}
    (hs : Acts ps z s) (hp : ∀ p ∈ ([.regs, .weights, .log, .outbox] : List Part), p ∈ ps) :
    Acts ps z (State.openRepair s u) := by
  unfold State.openRepair
  repeat' first
    | with_reducible assumption | with_reducible refine State.damage_acts ?_ (inside hp (by decide)) | extract_lets | intro _
    | with_reducible refine Acts.ite ?_ ?_ | split | dsimp only | with_reducible refine Acts.set_repairs ?_ (hp _ (by decide))
    | dsimp +zetaDelta only

end Sys2Proof.Machine
end

