-- ==== Sys2Proof/Laws/ActsMemory.lean ====
section
/-! SUPPORT. What the operations of Machine/Memory.lean may do (Laws/Acts.lean): the parts each may change, the invariant kept. -/

namespace Sys2Proof.Machine

open Sys2Proof

/-! ## The canonical form of memory: every operation keeps it -/

theorem cellsWf_iff {c : List Host.Cell} : cellsWf c = true ↔ sortedKeys c = true ∧ ∀ p ∈ c, unlisted p.1 ≠ some p.2 := by
  simp [cellsWf]

theorem putCell_wf {p : Nat} {b : Byte} {c : List Host.Cell} (h : cellsWf c = true) : cellsWf (putCell p b c) = true := by
  rw [cellsWf_iff] at h ⊢
  unfold putCell
  split
  · exact ⟨erase_sorted h.1, fun q hq => h.2 q (mem_erase_key hq)⟩
  · next e =>
    refine ⟨insert_sorted h.1, fun q hq => ?_⟩
    rcases mem_insert_key hq with rfl | hq
    · exact e
    · exact h.2 q hq

theorem Mem.put_wf {m : Mem} {p : Nat} {b : Byte} (h : m.wf = true) : (m.put p b).wf = true := putCell_wf h

theorem Mem.forget_wf {m : Mem} {lo len : Nat} (h : m.wf = true) : (m.forget lo len).wf = true := by
  unfold Mem.wf at h ⊢
  rw [cellsWf_iff] at h ⊢
  exact ⟨filter_sorted h.1, fun q hq => h.2 q (List.mem_filter.1 hq).1⟩

theorem Mem.fill_wf {m : Mem} {lo len : Nat} {k : FillKind} (h : m.wf = true) : (m.fill lo len k).wf = true := Mem.forget_wf (m := m) h

/-- A fold of operations on memory that each keep the canonical form. -/
theorem Mem.foldl_wf {α : Type} {f : Mem → α → Mem} {l : List α} {m : Mem} (h : m.wf = true) (hf : ∀ m x, m.wf = true → (f m x).wf = true) :
    (l.foldl f m).wf = true := by
  induction l generalizing m with
  | nil => exact h
  | cons x l ih => exact ih (hf m x h)

theorem State.recordUnit_acts {ps : List Part} {z : State} {s : State} {u : Nat} {st : Nat}
    (hs : Acts ps z s) (hp : ∀ p ∈ ([.draws, .regs, .mem, .log, .outbox] : List Part), p ∈ ps) :
    Acts ps z (State.recordUnit s u st) := by
  unfold State.recordUnit
  repeat' first
    | with_reducible assumption | with_reducible refine State.logEvent_acts ?_ (inside hp (by decide))
    | with_reducible refine State.setNat_acts ?_ (inside hp (by decide))
    | with_reducible refine State.raise_acts ?_ (inside hp (by decide))
    | with_reducible refine State.sat32_acts ?_ (inside hp (by decide))
    | with_reducible refine State.set64_acts ?_ (inside hp (by decide)) | with_reducible refine State.draw_acts ?_ (inside hp (by decide))
    | extract_lets | exact fun q => insert_sorted q | exact fun q => filter_sorted q | exact fun q => Mem.forget_wf q | exact fun q => q
    | with_reducible refine Acts.ite ?_ ?_ | split | dsimp only | with_reducible refine Acts.set_mem ?_ ?_ (hp _ (by decide))
    | dsimp +zetaDelta only

theorem State.noteUnit_acts {ps : List Part} {z : State} {s : State} {u : Nat}
    (hs : Acts ps z s) (hp : ∀ p ∈ ([.draws, .regs, .mem, .weights, .log, .outbox] : List Part), p ∈ ps) :
    Acts ps z (State.noteUnit s u) := by
  unfold State.noteUnit
  repeat' first
    | with_reducible assumption | with_reducible refine State.recordUnit_acts ?_ (inside hp (by decide))
    | with_reducible refine State.openRepair_acts ?_ (inside hp (by decide)) | split

theorem State.noteParity_acts {ps : List Part} {z : State} {s : State} {master : Nat} {p : Nat}
    (hs : Acts ps z s) (hp : ∀ p ∈ ([.regs, .units, .log, .outbox] : List Part), p ∈ ps) :
    Acts ps z (State.noteParity s master p) := by
  unfold State.noteParity
  repeat' first
    | with_reducible assumption | with_reducible refine State.logEvent_acts ?_ (inside hp (by decide))
    | with_reducible refine State.setNat_acts ?_ (inside hp (by decide))
    | with_reducible refine State.raise_acts ?_ (inside hp (by decide))
    | with_reducible refine State.sat32_acts ?_ (inside hp (by decide))
    | with_reducible refine State.set64_acts ?_ (inside hp (by decide)) | extract_lets | with_reducible refine Acts.ite ?_ ?_ | split
    | with_reducible refine Acts.set_units ?_ (hp _ (by decide)) | dsimp +zetaDelta only

theorem State.noteBankPoison_acts {ps : List Part} {z : State} {s : State} {u : Nat}
    (hs : Acts ps z s) (hp : ∀ p ∈ ([.regs, .outbox] : List Part), p ∈ ps) :
    Acts ps z (State.noteBankPoison s u) := by
  unfold State.noteBankPoison
  repeat' first
    | with_reducible assumption | with_reducible refine State.raise_acts ?_ (inside hp (by decide)) | with_reducible refine Acts.ite ?_ ?_
    | split

theorem State.noteRead_acts {ps : List Part} {z : State} {s : State} {master : Nat} {a : Nat} {n : Nat}
    (hs : Acts ps z s) (hp : ∀ p ∈ ([.draws, .regs, .mem, .units, .weights, .log, .outbox] : List Part), p ∈ ps) :
    Acts ps z (State.noteRead s master a n) := by
  unfold State.noteRead
  repeat' first
    | with_reducible assumption | with_reducible refine State.noteBankPoison_acts ?_ (inside hp (by decide))
    | with_reducible refine State.noteParity_acts ?_ (inside hp (by decide))
    | with_reducible refine State.noteUnit_acts ?_ (inside hp (by decide)) | with_reducible refine Acts.foldl ?_ ?_ | extract_lets
    | intro _ | with_reducible refine Acts.ite ?_ ?_ | dsimp only | dsimp +zetaDelta only

theorem State.poisonRange_acts {ps : List Part} {z : State} {s : State} {a : Nat} {n : Nat}
    (hs : Acts ps z s) (hp : ∀ p ∈ ([.mem] : List Part), p ∈ ps) :
    Acts ps z (State.poisonRange s a n) := by
  unfold State.poisonRange
  repeat' first
    | with_reducible assumption | exact fun q => insert_sorted q | exact fun q => filter_sorted q | exact fun q => Mem.forget_wf q
    | exact fun q => q | with_reducible refine Acts.set_mem ?_ ?_ (hp _ (by decide))

theorem State.undefine_acts {ps : List Part} {z : State} {s : State} {a : Nat} {n : Nat}
    (hs : Acts ps z s) (hp : ∀ p ∈ ([.draws, .mem] : List Part), p ∈ ps) :
    Acts ps z (State.undefine s a n) := by
  unfold State.undefine
  exact State.uncountedAccess_acts (Acts.set_mem (State.draw_acts hs (inside hp (by decide)))
    (fun q => Mem.foldl_wf q fun m r h => Mem.fill_wf (m := m) (k := .free s.draw.1) h) (hp _ (by decide))) (inside hp (by decide))

theorem State.overwrite_acts {ps : List Part} {z : State} {s : State} {a : Nat} {n : Nat}
    (hs : Acts ps z s) (hp : ∀ p ∈ ([.draws, .mem] : List Part), p ∈ ps) :
    Acts ps z (State.overwrite s a n) := by
  unfold State.overwrite
  exact State.uncountedAccess_acts (Acts.set_mem (State.draw_acts hs (inside hp (by decide)))
    (fun q => Mem.foldl_wf q fun m r h => Mem.fill_wf (m := m) (k := .free s.draw.1) h) (hp _ (by decide))) (inside hp (by decide))

theorem State.fillPattern_acts {ps : List Part} {z : State} {s : State} {a : Nat} {n : Nat} {w : Wide}
    (hs : Acts ps z s) (hp : ∀ p ∈ ([.mem] : List Part), p ∈ ps) :
    Acts ps z (State.fillPattern s a n w) := by
  unfold State.fillPattern
  extract_lets t
  have h : Acts ps z t := Acts.set_mem hs (fun q => Mem.foldl_wf q fun m r h => Mem.fill_wf h) (hp _ (by decide))
  split
  · exact State.fillLines_acts h (inside hp (by decide))
  · exact State.tally_acts h (inside hp (by decide))

theorem State.noteMerge_acts {ps : List Part} {z : State} {s : State} {a : Nat} {n : Nat}
    (hs : Acts ps z s) (hp : ∀ p ∈ ([.draws, .regs, .mem, .weights, .log, .outbox] : List Part), p ∈ ps) :
    Acts ps z (State.noteMerge s a n) := by
  unfold State.noteMerge
  repeat' first
    | with_reducible assumption | with_reducible refine State.noteUnit_acts ?_ (inside hp (by decide))
    | with_reducible refine Acts.foldl ?_ ?_ | intro _ | dsimp only

theorem State.storeMem_acts {ps : List Part} {z : State} {s : State} {a : Nat} {bs : List Byte}
    (hs : Acts ps z s) (hp : ∀ p ∈ ([.mem] : List Part), p ∈ ps) :
    Acts ps z (State.storeMem s a bs) := by
  unfold State.storeMem
  extract_lets n lost whole put m
  refine State.tally_acts (Acts.set_mem hs (fun q => ?_) (hp _ (by decide))) (inside hp (by decide))
  refine Mem.foldl_wf (f := put) (m := s.mem) q fun m x h => ?_
  simp only [put]
  split
  · exact h
  · exact Mem.put_wf h

theorem State.writeMem_acts {ps : List Part} {z : State} {s : State} {a : Nat} {bs : List Byte}
    (hs : Acts ps z s) (hp : ∀ p ∈ ([.draws, .regs, .mem, .weights, .log, .outbox] : List Part), p ∈ ps) :
    Acts ps z (State.writeMem s a bs) := by
  unfold State.writeMem
  repeat' first
    | with_reducible assumption | with_reducible refine State.noteMerge_acts ?_ (inside hp (by decide))
    | with_reducible refine State.storeMem_acts ?_ (inside hp (by decide))

theorem State.evict_acts {ps : List Part} {z : State} {s : State} {a1 : SluiceEntry}
    (hs : Acts ps z s) (hp : ∀ p ∈ ([.draws, .regs, .mem, .weights, .log, .outbox] : List Part), p ∈ ps) :
    Acts ps z (State.evict s a1) := by
  unfold State.evict
  repeat' first
    | with_reducible assumption | with_reducible refine State.evictEntry_acts ?_ (inside hp (by decide))
    | with_reducible refine State.noteUnit_acts ?_ (inside hp (by decide)) | with_reducible refine Acts.foldl ?_ ?_ | extract_lets
    | intro _ | dsimp only | dsimp +zetaDelta only

theorem State.drainSluice_acts {ps : List Part} {z : State} {s : State}
    (hs : Acts ps z s) (hp : ∀ p ∈ ([.draws, .regs, .mem, .weights, .log, .outbox] : List Part), p ∈ ps) :
    Acts ps z (State.drainSluice s) := by
  unfold State.drainSluice
  repeat' first
    | with_reducible assumption | with_reducible refine State.evict_acts ?_ (inside hp (by decide))
    | with_reducible refine Acts.foldl ?_ ?_ | intro _ | dsimp only

theorem State.writeBackAll_acts {ps : List Part} {z : State} {s : State}
    (hs : Acts ps z s) (hp : ∀ p ∈ ([.draws, .regs, .mem, .weights, .log, .outbox] : List Part), p ∈ ps) :
    Acts ps z (State.writeBackAll s) := by
  unfold State.writeBackAll
  repeat' first
    | with_reducible assumption | with_reducible refine State.drainSluice_acts ?_ (inside hp (by decide))
    | with_reducible refine State.emptyCache_acts ?_ (inside hp (by decide))
    | with_reducible refine State.logEvent_acts ?_ (inside hp (by decide)) | with_reducible refine Acts.foldl ?_ ?_ | extract_lets
    | intro _ | dsimp only | dsimp +zetaDelta only

theorem State.writeAlias_acts {ps : List Part} {z : State} {s : State} {view : BankView} {a2 : Nat} {a3 : List (List Byte)} {a4 : Option Nat}
    (hs : Acts ps z s) (hp : ∀ p ∈ ([.draws, .regs, .mem, .units, .weights, .log, .outbox] : List Part), p ∈ ps) :
    Acts ps z (State.writeAlias s view a2 a3 a4).1 := by
  induction a3 generalizing s a2 a4 with
  | nil => exact hs
  | cons w ws ih =>
    unfold State.writeAlias
    split
    · exact ih (State.raise_acts (State.noteRead_acts hs (inside hp (by decide))) (inside hp (by decide)))
    · exact ih (State.writeMem_acts hs (inside hp (by decide)))

theorem State.writePlace_acts {ps : List Part} {z : State} {s : State} {p : Place} {off : Nat} {bs : List Byte}
    (hs : Acts ps z s) (hp : ∀ p ∈ ([.draws, .regs, .mem, .host, .weights, .log, .outbox] : List Part), p ∈ ps) :
    Acts ps z (State.writePlace s p off bs).1 := by
  unfold State.writePlace
  repeat' first
    | with_reducible assumption | with_reducible refine State.hostWrite_acts ?_ (inside hp (by decide))
    | with_reducible refine State.writeMem_acts ?_ (inside hp (by decide)) | with_reducible refine Acts.ite ?_ ?_ | split | dsimp only

end Sys2Proof.Machine
end

