-- ==== Sys2Proof/Laws/ActsIntegrity.lean ====
section
/-! SUPPORT. What the operations of Machine/Integrity.lean may do (Laws/Acts.lean): the parts each may change, the invariant kept. -/

namespace Sys2Proof.Machine

open Sys2Proof

theorem State.putBucket_acts {ps : List Part} {z : State} {s : State} {c : Nat} {overflows : Nat} {level : Nat}
    (hs : Acts ps z s) (hp : ∀ p ∈ ([.regs] : List Part), p ∈ ps) :
    Acts ps z (State.putBucket s c overflows level) := by
  unfold State.putBucket
  repeat' first
    | with_reducible assumption | with_reducible refine State.setNat_acts ?_ (inside hp (by decide))

theorem State.overflowBucket_acts {ps : List Part} {z : State} {s : State} {c : Nat}
    (hs : Acts ps z s) (hp : ∀ p ∈ ([.regs, .log, .outbox] : List Part), p ∈ ps) :
    Acts ps z (State.overflowBucket s c) := by
  unfold State.overflowBucket
  repeat' first
    | with_reducible assumption | with_reducible refine State.putBucket_acts ?_ (inside hp (by decide))
    | with_reducible refine State.logEvent_acts ?_ (inside hp (by decide))
    | with_reducible refine State.raise_acts ?_ (inside hp (by decide))

theorem State.correctable_acts {ps : List Part} {z : State} {s : State} {c : Nat}
    (hs : Acts ps z s) (hp : ∀ p ∈ ([.regs, .log, .outbox] : List Part), p ∈ ps) :
    Acts ps z (State.correctable s c) := by
  unfold State.correctable
  repeat' first
    | with_reducible assumption | with_reducible refine State.overflowBucket_acts ?_ (inside hp (by decide))
    | with_reducible refine State.putBucket_acts ?_ (inside hp (by decide))
    | with_reducible refine State.raise_acts ?_ (inside hp (by decide)) | extract_lets | with_reducible refine Acts.ite ?_ ?_
    | dsimp +zetaDelta only

theorem execBucketOverflow_acts {ctrl : Nat} {now : Nat} {s : State} {t : State} (e : execBucketOverflow ctrl now s = .next t) :
    Acts [.clock, .regs, .log, .outbox] s t := by
  unfold execBucketOverflow at e
  refine runs_acts (qs := [.clock, .regs, .log, .outbox]) (by decide) (fun ps hs hp => ?_) e
  repeat' first
    | with_reducible assumption | with_reducible refine State.overflowBucket_acts ?_ (inside hp (by decide))
    | with_reducible refine State.at_acts ?_ (inside hp (by decide)) | extract_lets | intro _ | with_reducible refine Acts.ite ?_ ?_
    | dsimp only | dsimp +zetaDelta only

theorem execBucketLeak_acts {ctrl : Nat} {ondie : Nat} {now : Nat} {s : State} {t : State} (e : execBucketLeak ctrl ondie now s = .next t) :
    Acts [.clock, .regs] s t := by
  unfold execBucketLeak at e
  refine runs_acts (qs := [.clock, .regs]) (by decide) (fun ps hs hp => ?_) e
  repeat' first
    | with_reducible assumption | with_reducible refine State.putBucket_acts ?_ (inside hp (by decide))
    | with_reducible refine State.sat32_acts ?_ (inside hp (by decide)) | with_reducible refine State.at_acts ?_ (inside hp (by decide))
    | extract_lets | intro _ | with_reducible refine Acts.ite ?_ ?_ | dsimp only | dsimp +zetaDelta only

theorem execInterfaceParityRetry_acts {ctrl : Nat} {s : State} {t : State} (e : execInterfaceParityRetry ctrl s = .next t) :
    Acts [.regs, .log, .outbox] s t := by
  unfold execInterfaceParityRetry at e
  refine runs_acts (qs := [.regs, .log, .outbox]) (by decide) (fun ps hs hp => ?_) e
  repeat' first
    | with_reducible assumption | with_reducible refine State.correctable_acts ?_ (inside hp (by decide))
    | with_reducible refine State.sat32_acts ?_ (inside hp (by decide)) | intro _ | with_reducible refine Acts.ite ?_ ?_ | dsimp only

theorem execCorrectedWriteBack_acts {addr : Nat} {lane : Nat} {s : State} {t : State} (e : execCorrectedWriteBack addr lane s = .next t) :
    Acts [.regs, .log, .outbox] s t := by
  unfold execCorrectedWriteBack at e
  refine runs_acts (qs := [.regs, .log, .outbox]) (by decide) (fun ps hs hp => ?_) e
  repeat' first
    | with_reducible assumption | with_reducible refine State.correctable_acts ?_ (inside hp (by decide))
    | with_reducible refine State.setNat_acts ?_ (inside hp (by decide))
    | with_reducible refine State.sat64_acts ?_ (inside hp (by decide)) | extract_lets | intro _ | with_reducible refine Acts.ite ?_ ?_
    | split | dsimp only | dsimp +zetaDelta only

theorem execInterfaceRetrain_acts {ctrl : Nat} {now : Nat} {s : State} {t : State} (e : execInterfaceRetrain ctrl now s = .next t) :
    Acts [.clock, .moving] s t := by
  unfold execInterfaceRetrain at e
  refine runs_acts (qs := [.clock, .moving]) (by decide) (fun ps hs hp => ?_) e
  repeat' first
    | with_reducible assumption | with_reducible refine State.at_acts ?_ (inside hp (by decide)) | extract_lets | intro _
    | with_reducible refine Acts.ite ?_ ?_ | dsimp only | with_reducible refine Acts.set_retraining ?_ (hp _ (by decide))
    | dsimp +zetaDelta only

theorem State.loseSocket_acts {ps : List Part} {z : State} {s : State} {n : Nat}
    (hs : Acts ps z s) (hp : ∀ p ∈ ([.mem, .panel, .mgmt] : List Part), p ∈ ps) :
    Acts ps z (State.loseSocket s n) := by
  unfold State.loseSocket
  repeat' first
    | with_reducible assumption | with_reducible refine State.putSocket_acts ?_ (inside hp (by decide)) | extract_lets
    | exact fun q => insert_sorted q | exact fun q => filter_sorted q | exact fun q => Mem.forget_wf q | exact fun q => q
    | with_reducible refine Acts.set_mem ?_ ?_ (hp _ (by decide)) | dsimp +zetaDelta only

theorem State.fatal_acts {ps : List Part} {z : State} {s : State} {g : LogArg}
    (hs : Acts ps z s) (hp : ∀ p ∈ ([.clock, .log, .outbox] : List Part), p ∈ ps) :
    Acts ps z (State.fatal s g) := by
  unfold State.fatal
  repeat' first
    | with_reducible assumption | with_reducible refine State.logEvent_acts ?_ (inside hp (by decide))
    | with_reducible refine Acts.set_clock ?_ (hp _ (by decide))

theorem execInterfaceRetrainDone_acts {ctrl : Nat} {ok : Bool} {now : Nat} {s : State} {t : State} (e : execInterfaceRetrainDone ctrl ok now s = .next t) :
    Acts [.clock, .regs, .mem, .moving, .panel, .mgmt, .log, .outbox] s t := by
  unfold execInterfaceRetrainDone at e
  refine runs_acts (qs := [.clock, .regs, .mem, .moving, .panel, .mgmt, .log, .outbox]) (by decide) (fun ps hs hp => ?_) e
  repeat' first
    | with_reducible assumption | with_reducible refine State.loseSocket_acts ?_ (inside hp (by decide))
    | with_reducible refine State.logEvent_acts ?_ (inside hp (by decide))
    | with_reducible refine State.raise_acts ?_ (inside hp (by decide))
    | with_reducible refine State.fatal_acts ?_ (inside hp (by decide)) | with_reducible refine State.at_acts ?_ (inside hp (by decide))
    | extract_lets | exact fun q => insert_sorted q | exact fun q => filter_sorted q | exact fun q => Mem.forget_wf q | exact fun q => q
    | intro _ | with_reducible refine Acts.ite ?_ ?_ | dsimp only | with_reducible refine Acts.set_retraining ?_ (hp _ (by decide))
    | with_reducible refine Acts.set_mem ?_ ?_ (hp _ (by decide)) | dsimp +zetaDelta only

theorem State.wayFaulty_acts {ps : List Part} {z : State} {s : State} {h : Nat} {p : Nat}
    (hs : Acts ps z s) (hp : ∀ p ∈ ([.regs, .log, .outbox] : List Part), p ∈ ps) :
    Acts ps z (State.wayFaulty s h p) := by
  unfold State.wayFaulty
  repeat' first
    | with_reducible assumption | with_reducible refine State.logEvent_acts ?_ (inside hp (by decide))
    | with_reducible refine State.add32_acts ?_ (inside hp (by decide))
    | with_reducible refine State.raise_acts ?_ (inside hp (by decide))

theorem State.crcLost_acts {ps : List Part} {z : State} {s : State} {h : Nat} {p : Nat} {wide : Bool}
    (hs : Acts ps z s) (hp : ∀ p ∈ ([.regs, .mem, .log, .outbox] : List Part), p ∈ ps) :
    Acts ps z (State.crcLost s h p wide) := by
  unfold State.crcLost
  repeat' first
    | with_reducible assumption | with_reducible refine State.logEvent_acts ?_ (inside hp (by decide))
    | with_reducible refine State.raise_acts ?_ (inside hp (by decide))
    | with_reducible refine State.sat32_acts ?_ (inside hp (by decide))
    | with_reducible refine State.set64_acts ?_ (inside hp (by decide)) | extract_lets | exact fun q => insert_sorted q
    | exact fun q => filter_sorted q | exact fun q => Mem.forget_wf q | exact fun q => q | with_reducible refine Acts.ite ?_ ?_
    | with_reducible refine Acts.set_mem ?_ ?_ (hp _ (by decide)) | dsimp +zetaDelta only

theorem State.crcRefetch_acts {ps : List Part} {z : State} {s : State} {h : Nat} {k : CacheLine}
    (hs : Acts ps z s) (hp : ∀ p ∈ ([.regs, .mem, .log, .outbox] : List Part), p ∈ ps) :
    Acts ps z (State.crcRefetch s h k) := by
  unfold State.crcRefetch
  repeat' first
    | with_reducible assumption | with_reducible refine State.wayFaulty_acts ?_ (inside hp (by decide))
    | with_reducible refine State.updBasin_acts ?_ (inside hp (by decide))
    | with_reducible refine State.logEvent_acts ?_ (inside hp (by decide))
    | with_reducible refine State.chargeTo_acts ?_ (inside hp (by decide))
    | with_reducible refine State.raise_acts ?_ (inside hp (by decide))
    | with_reducible refine State.sat32_acts ?_ (inside hp (by decide))
    | with_reducible refine State.count_acts ?_ (inside hp (by decide))
    | with_reducible refine State.set64_acts ?_ (inside hp (by decide)) | extract_lets | intro _ | with_reducible refine Acts.ite ?_ ?_
    | dsimp only | dsimp +zetaDelta only

theorem State.crcMismatch_acts {ps : List Part} {z : State} {s : State} {addr : Nat}
    (hs : Acts ps z s) (hp : ∀ p ∈ ([.regs, .mem, .log, .outbox] : List Part), p ∈ ps) :
    Acts ps z (State.crcMismatch s addr) := by
  unfold State.crcMismatch
  repeat' first
    | with_reducible assumption | with_reducible refine State.crcRefetch_acts ?_ (inside hp (by decide))
    | with_reducible refine State.wayFaulty_acts ?_ (inside hp (by decide))
    | with_reducible refine State.updBasin_acts ?_ (inside hp (by decide))
    | with_reducible refine State.crcLost_acts ?_ (inside hp (by decide)) | extract_lets | intro _ | with_reducible refine Acts.ite ?_ ?_
    | split | dsimp only | dsimp +zetaDelta only

theorem execBasinCrcMismatch_acts {addr : Nat} {s : State} {t : State} (e : execBasinCrcMismatch addr s = .next t) :
    Acts [.regs, .mem, .log, .outbox] s t := by
  unfold execBasinCrcMismatch at e
  refine runs_acts (qs := [.regs, .mem, .log, .outbox]) (by decide) (fun ps hs hp => ?_) e
  repeat' first
    | with_reducible assumption | with_reducible refine State.crcMismatch_acts ?_ (inside hp (by decide)) | intro _ | dsimp only

end Sys2Proof.Machine
end

