-- ==== Sys2Proof/Laws/ActsHistory.lean ====
section
/-! SUPPORT. What the operations of Machine/History.lean may do (Laws/Acts.lean): the parts each may change, the invariant kept. -/

namespace Sys2Proof.Machine

open Sys2Proof

theorem State.addAssay_acts {ps : List Part} {z : State} {s : State} {n : Nat} {format : Nat} {k : Counts}
    (hs : Acts ps z s) (hp : ∀ p ∈ ([.regs] : List Part), p ∈ ps) :
    Acts ps z (State.addAssay s n format k) := by
  unfold State.addAssay
  repeat' first
    | with_reducible assumption | with_reducible refine State.setNat_acts ?_ (inside hp (by decide))
    | with_reducible refine State.add64_acts ?_ (inside hp (by decide))
    | with_reducible refine State.sat32_acts ?_ (inside hp (by decide)) | extract_lets | with_reducible refine Acts.ite ?_ ?_
    | dsimp +zetaDelta only

theorem State.clearAssay_acts {ps : List Part} {z : State} {s : State} {n : Nat}
    (hs : Acts ps z s) (hp : ∀ p ∈ ([.regs] : List Part), p ∈ ps) :
    Acts ps z (State.clearAssay s n) := by
  unfold State.clearAssay
  repeat' first
    | with_reducible assumption | with_reducible refine State.setNat_acts ?_ (inside hp (by decide))
    | with_reducible refine Acts.foldl ?_ ?_ | intro _ | dsimp only

theorem State.putHist_acts {ps : List Part} {z : State} {s : State} {h : Nat} {current : Int} {count : Nat} {step : Nat}
    (hs : Acts ps z s) (hp : ∀ p ∈ ([.regs] : List Part), p ∈ ps) :
    Acts ps z (State.putHist s h current count step) := by
  unfold State.putHist
  repeat' first
    | with_reducible assumption | with_reducible refine State.setNat_acts ?_ (inside hp (by decide))

theorem State.histAdvance_acts {ps : List Part} {z : State} {s : State} {h : Nat}
    (hs : Acts ps z s) (hp : ∀ p ∈ ([.regs] : List Part), p ∈ ps) :
    Acts ps z (State.histAdvance s h) := by
  unfold State.histAdvance
  repeat' first
    | with_reducible assumption | with_reducible refine State.putHist_acts ?_ (inside hp (by decide))
    | with_reducible refine State.setNat_acts ?_ (inside hp (by decide)) | extract_lets | dsimp +zetaDelta only

theorem State.histReset_acts {ps : List Part} {z : State} {s : State} {h : Nat}
    (hs : Acts ps z s) (hp : ∀ p ∈ ([.regs] : List Part), p ∈ ps) :
    Acts ps z (State.histReset s h) := by
  unfold State.histReset
  repeat' first
    | with_reducible assumption | with_reducible refine State.putHist_acts ?_ (inside hp (by decide))
    | with_reducible refine State.setNat_acts ?_ (inside hp (by decide)) | with_reducible refine Acts.foldl ?_ ?_ | extract_lets | intro _
    | dsimp only | dsimp +zetaDelta only

theorem State.histResetAll_acts {ps : List Part} {z : State} {s : State}
    (hs : Acts ps z s) (hp : ∀ p ∈ ([.regs] : List Part), p ∈ ps) :
    Acts ps z (State.histResetAll s) := by
  unfold State.histResetAll
  repeat' first
    | with_reducible assumption | with_reducible refine State.histReset_acts ?_ (inside hp (by decide))
    | with_reducible refine Acts.foldl ?_ ?_ | intro _ | dsimp only

theorem State.histRecompute_acts {ps : List Part} {z : State} {s : State} {h : Nat}
    (hs : Acts ps z s) (hp : ∀ p ∈ ([.regs] : List Part), p ∈ ps) :
    Acts ps z (State.histRecompute s h) := by
  unfold State.histRecompute
  repeat' first
    | with_reducible assumption | with_reducible refine State.putHist_acts ?_ (inside hp (by decide)) | extract_lets
    | dsimp +zetaDelta only

theorem State.foldPending_acts {ps : List Part} {z : State} {s : State} {h : Nat} {a : Nat}
    (hs : Acts ps z s) (hp : ∀ p ∈ ([.regs] : List Part), p ∈ ps) :
    Acts ps z (State.foldPending s h a) := by
  unfold State.foldPending
  repeat' first
    | with_reducible assumption | with_reducible refine State.setNat_acts ?_ (inside hp (by decide))

theorem State.handScale_acts {ps : List Part} {z : State} {s : State} {h : Nat}
    (hs : Acts ps z s) (hp : ∀ p ∈ ([.cmds] : List Part), p ∈ ps) :
    Acts ps z (State.handScale s h) := by
  unfold State.handScale
  repeat' first
    | with_reducible assumption | extract_lets | intro _ | with_reducible refine Acts.ite ?_ ?_ | split | dsimp only
    | with_reducible refine Acts.set_inflight ?_ (hp _ (by decide)) | dsimp +zetaDelta only

theorem State.settle_acts {ps : List Part} {z : State} {k : Nat} {s : State}
    (hs : Acts ps z s) (hp : ∀ p ∈ ([.regs, .cmds, .hist] : List Part), p ∈ ps) : Acts ps z (State.settle k s) := by
  induction k generalizing s with
  | zero => exact hs
  | succ k ih =>
    unfold State.settle
    split
    · exact hs
    · refine ih (State.handScale_acts ?_ (inside hp (by decide)))
      refine Acts.ite ?_ ?_
      · exact State.histAdvance_acts (Acts.set_histWaits hs (hp _ (by decide))) (inside hp (by decide))
      · exact State.histReset_acts (Acts.set_histWaits hs (hp _ (by decide))) (inside hp (by decide))

theorem State.histSettle_acts {ps : List Part} {z : State} {s : State}
    (hs : Acts ps z s) (hp : ∀ p ∈ ([.regs, .cmds, .hist] : List Part), p ∈ ps) :
    Acts ps z (State.histSettle s) := by
  unfold State.histSettle
  repeat' first
    | with_reducible assumption | with_reducible refine State.settle_acts ?_ (inside hp (by decide))

theorem State.histWrite_acts {ps : List Part} {z : State} {s : State} {h : Nat} {advance : Bool}
    (hs : Acts ps z s) (hp : ∀ p ∈ ([.regs, .cmds, .hist] : List Part), p ∈ ps) :
    Acts ps z (State.histWrite s h advance) := by
  unfold State.histWrite
  repeat' first
    | with_reducible assumption | with_reducible refine State.histSettle_acts ?_ (inside hp (by decide)) | extract_lets
    | with_reducible refine Acts.set_histWaits ?_ (hp _ (by decide)) | dsimp +zetaDelta only

theorem State.histCtrl_acts {ps : List Part} {z : State} {s : State} {h : Nat} {v : Word} {advance : Bool}
    (hs : Acts ps z s) (hp : ∀ p ∈ ([.regs, .cmds, .hist, .log, .outbox] : List Part), p ∈ ps) :
    Acts ps z (State.histCtrl s h v advance) := by
  unfold State.histCtrl
  repeat' first
    | with_reducible assumption | with_reducible refine State.logDiscard_acts ?_ (inside hp (by decide))
    | with_reducible refine State.histWrite_acts ?_ (inside hp (by decide)) | extract_lets | with_reducible refine Acts.ite ?_ ?_
    | dsimp +zetaDelta only

theorem State.addCounts_acts {ps : List Part} {z : State} {s : State} {c : Cmd}
    (hs : Acts ps z s) (hp : ∀ p ∈ ([.regs] : List Part), p ∈ ps) :
    Acts ps z (State.addCounts s c) := by
  unfold State.addCounts
  repeat' first
    | with_reducible assumption | with_reducible refine State.foldPending_acts ?_ (inside hp (by decide))
    | with_reducible refine State.addAssay_acts ?_ (inside hp (by decide)) | with_reducible refine Acts.foldl ?_ ?_ | extract_lets
    | with_reducible refine Acts.ite ?_ ?_ | split | dsimp +zetaDelta only

theorem execAssayClear_acts {slot : Nat} {v : Word} {s : State} {t : State} (e : execAssayClear slot v s = .next t) :
    Acts [.regs] s t := by
  unfold execAssayClear runsHost at e
  refine runs_acts (qs := [.regs]) (by decide) (fun ps hs hp => ?_) e
  repeat' first
    | with_reducible assumption | with_reducible refine State.clearAssay_acts ?_ (inside hp (by decide)) | intro _
    | with_reducible refine Acts.ite ?_ ?_ | dsimp only

theorem execHistAdvance_acts {slot : Nat} {v : Word} {s : State} {t : State} (e : execHistAdvance slot v s = .next t) :
    Acts [.regs, .cmds, .hist, .log, .outbox] s t := by
  unfold execHistAdvance runsHost at e
  refine runs_acts (qs := [.regs, .cmds, .hist, .log, .outbox]) (by decide) (fun ps hs hp => ?_) e
  repeat' first
    | with_reducible assumption | with_reducible refine Acts.ite ?_ ?_ | with_reducible refine State.histCtrl_acts ?_ (inside hp (by decide)) | intro _ | dsimp only

theorem execHistReset_acts {slot : Nat} {v : Word} {s : State} {t : State} (e : execHistReset slot v s = .next t) :
    Acts [.regs, .cmds, .hist, .log, .outbox] s t := by
  unfold execHistReset runsHost at e
  refine runs_acts (qs := [.regs, .cmds, .hist, .log, .outbox]) (by decide) (fun ps hs hp => ?_) e
  repeat' first
    | with_reducible assumption | with_reducible refine Acts.ite ?_ ?_ | with_reducible refine State.histCtrl_acts ?_ (inside hp (by decide)) | intro _ | dsimp only

end Sys2Proof.Machine
end

