-- ==== Sys2Proof/Laws/ActsRecording.lean ====
section
/-! SUPPORT. What the operations of Machine/Recording.lean may do (Laws/Acts.lean): the parts each may change, the invariant kept. -/

namespace Sys2Proof.Machine

open Sys2Proof

theorem State.recordAs_acts {ps : List Part} {z : State} {s : State} {hub : Nat} {kind : Nat} {source : Nat} {fp : Nat} {body : List Byte}
    (hs : Acts ps z s) (hp : ∀ p ∈ ([.logbook] : List Part), p ∈ ps) :
    Acts ps z (State.recordAs s hub kind source fp body) := by
  unfold State.recordAs
  repeat' first
    | with_reducible assumption | extract_lets | with_reducible refine Acts.ite ?_ ?_
    | with_reducible refine Acts.set_logbook ?_ (hp _ (by decide)) | dsimp +zetaDelta only

theorem State.record_acts {ps : List Part} {z : State} {s : State} {hub : Nat} {kind : Nat} {source : Nat} {body : List Byte}
    (hs : Acts ps z s) (hp : ∀ p ∈ ([.logbook] : List Part), p ∈ ps) :
    Acts ps z (State.record s hub kind source body) := by
  unfold State.record
  repeat' first
    | with_reducible assumption | with_reducible refine State.recordAs_acts ?_ (inside hp (by decide))

theorem State.recordHostRead_acts {ps : List Part} {z : State} {s : State} {q : Nat} {a : Nat} {bs : List Byte}
    (hs : Acts ps z s) (hp : ∀ p ∈ ([.logbook] : List Part), p ∈ ps) :
    Acts ps z (State.recordHostRead s q a bs) := by
  unfold State.recordHostRead
  repeat' first
    | with_reducible assumption | with_reducible refine State.recordAs_acts ?_ (inside hp (by decide))
    | with_reducible refine Acts.ite ?_ ?_

theorem State.recordDecision_acts {ps : List Part} {z : State} {s : State} {q : Nat} {body : List Byte}
    (hs : Acts ps z s) (hp : ∀ p ∈ ([.logbook] : List Part), p ∈ ps) :
    Acts ps z (State.recordDecision s q body) := by
  unfold State.recordDecision
  repeat' first
    | with_reducible assumption | with_reducible refine State.record_acts ?_ (inside hp (by decide))

theorem State.recordSet_acts {ps : List Part} {z : State} {s : State} {adapter : Bool} {slot : Nat} {version : Nat} {fp : Nat}
    (hs : Acts ps z s) (hp : ∀ p ∈ ([.logbook] : List Part), p ∈ ps) :
    Acts ps z (State.recordSet s adapter slot version fp) := by
  unfold State.recordSet
  repeat' first
    | with_reducible assumption | with_reducible refine State.record_acts ?_ (inside hp (by decide))

end Sys2Proof.Machine
end

