-- ==== Sys2Proof/Laws/ActsStart.lean ====
section
/-! SUPPORT. What the operations of Machine/Start.lean may do (Laws/Acts.lean): the parts each may change, the invariant kept. -/

namespace Sys2Proof.Machine

open Sys2Proof

theorem State.start_acts {ps : List Part} {z : State} {s : State} {opcode : Nat} {r : CmdRef} {f : Cmd → State → State}
    (hs : Acts ps z s) (hf : ∀ (x0 : Cmd) (x1 : State), Acts ps z x1 → Acts ps z (f x0 x1)) (hp : ∀ p ∈ ([.acting] : List Part), p ∈ ps) :
    Acts ps z (State.start s opcode r f) := by
  unfold State.start
  repeat' first
    | with_reducible assumption | with_reducible refine State.actAs_acts ?_ (inside hp (by decide)) | with_reducible refine hf _ _ ?_
    | with_reducible refine Acts.ite ?_ ?_ | split

theorem State.startOrGoOn_acts {ps : List Part} {z : State} {s : State} {opcode : Nat} {r : CmdRef} {f : Cmd → State → State}
    (hs : Acts ps z s) (hf : ∀ (x0 : Cmd) (x1 : State), Acts ps z x1 → Acts ps z (f x0 x1)) (hp : ∀ p ∈ ([.acting] : List Part), p ∈ ps) :
    Acts ps z (State.startOrGoOn s opcode r f) := by
  unfold State.startOrGoOn
  repeat' first
    | with_reducible assumption | with_reducible refine State.actAs_acts ?_ (inside hp (by decide)) | with_reducible refine hf _ _ ?_
    | with_reducible refine Acts.ite ?_ ?_ | split

end Sys2Proof.Machine
end

