-- ==== Sys2Proof/Laws/ActsQueue.lean ====
section
/-! SUPPORT. What the operations of Machine/Queue.lean may do (Laws/Acts.lean): the parts each may change, the invariant kept. -/

namespace Sys2Proof.Machine

open Sys2Proof

theorem State.ringWrite_acts {ps : List Part} {z : State} {s : State} {base : Nat} {off : Nat} {bs : List Byte}
    (hs : Acts ps z s) (hp : ∀ p ∈ ([.draws, .regs, .mem, .host, .weights, .log, .outbox] : List Part), p ∈ ps) :
    Acts ps z (State.ringWrite s base off bs).1 := by
  unfold State.ringWrite
  repeat' first
    | with_reducible assumption | with_reducible refine State.hostWrite_acts ?_ (inside hp (by decide))
    | with_reducible refine State.writeMem_acts ?_ (inside hp (by decide)) | extract_lets | with_reducible refine Acts.ite ?_ ?_ | split
    | dsimp only | dsimp +zetaDelta only

theorem State.updQueue_acts {ps : List Part} {z : State} {s : State} {n : Nat} {f : Queue → Queue}
    (hs : Acts ps z s) (hp : ∀ p ∈ ([.queues] : List Part), p ∈ ps) :
    Acts ps z (State.updQueue s n f) := by
  unfold State.updQueue
  repeat' first
    | with_reducible assumption | split | with_reducible refine Acts.set_queues ?_ (hp _ (by decide))

theorem State.fenceQueue_acts {ps : List Part} {z : State} {s : State} {n : Nat}
    (hs : Acts ps z s) (hp : ∀ p ∈ ([.regs, .queues, .log, .outbox] : List Part), p ∈ ps) :
    Acts ps z (State.fenceQueue s n) := by
  unfold State.fenceQueue
  repeat' first
    | with_reducible assumption | with_reducible refine State.updQueue_acts ?_ (inside hp (by decide))
    | with_reducible refine State.logEvent_acts ?_ (inside hp (by decide))
    | with_reducible refine State.raise_acts ?_ (inside hp (by decide)) | extract_lets | intro _ | with_reducible refine Acts.ite ?_ ?_
    | split | dsimp only | dsimp +zetaDelta only

theorem State.hostFault_acts {ps : List Part} {z : State} {s : State} {n : Nat}
    (hs : Acts ps z s) (hp : ∀ p ∈ ([.regs, .queues, .log, .outbox] : List Part), p ∈ ps) :
    Acts ps z (State.hostFault s n) := by
  unfold State.hostFault
  repeat' first
    | with_reducible assumption | with_reducible refine State.fenceQueue_acts ?_ (inside hp (by decide))
    | with_reducible refine State.raise_acts ?_ (inside hp (by decide))

theorem State.noteMalformed_acts {ps : List Part} {z : State} {s : State} {n : Nat} {fn : Nat} {tag : Nat}
    (hs : Acts ps z s) (hp : ∀ p ∈ ([.regs, .queues, .log, .outbox] : List Part), p ∈ ps) :
    Acts ps z (State.noteMalformed s n fn tag) := by
  unfold State.noteMalformed
  repeat' first
    | with_reducible assumption | with_reducible refine State.updQueue_acts ?_ (inside hp (by decide))
    | with_reducible refine State.logEvent_acts ?_ (inside hp (by decide))
    | with_reducible refine State.raise_acts ?_ (inside hp (by decide)) | extract_lets | intro _ | dsimp only | dsimp +zetaDelta only

theorem State.refuse_acts {ps : List Part} {z : State} {s : State} {c : Cmd} {status : Nat} {detail : Nat} {result1 : Nat}
    (hs : Acts ps z s) (hp : ∀ p ∈ ([.regs, .queues, .cmds, .log, .outbox] : List Part), p ∈ ps) :
    Acts ps z (State.refuse s c status detail result1) := by
  unfold State.refuse
  repeat' first
    | with_reducible assumption | with_reducible refine State.noteMalformed_acts ?_ (inside hp (by decide))
    | with_reducible refine State.updCmd_acts ?_ (inside hp (by decide))
    | with_reducible refine State.finish_acts ?_ (inside hp (by decide)) | extract_lets | intro _ | with_reducible refine Acts.ite ?_ ?_
    | dsimp only | dsimp +zetaDelta only

theorem State.roundTurn_acts {ps : List Part} {z : State} {s : State} {n : Nat} {q : Queue} {r}
    (hs : Acts ps z s) (hp : ∀ p ∈ ([.queues] : List Part), p ∈ ps) (e : State.roundTurn s n q = some r) :
    Acts ps z r := by
  unfold State.roundTurn at e
  split at e
  · cases e; exact hs
  · split at e
    · cases e
    · cases e; exact Acts.set_queues hs (hp _ (by decide))

theorem State.advanceHead_acts {ps : List Part} {z : State} {s : State} {n : Nat} {k : Nat}
    (hs : Acts ps z s) (hp : ∀ p ∈ ([.queues] : List Part), p ∈ ps) :
    Acts ps z (State.advanceHead s n k) := by
  unfold State.advanceHead
  repeat' first
    | with_reducible assumption | with_reducible refine State.updQueue_acts ?_ (inside hp (by decide)) | intro _ | dsimp only

theorem State.noteAccepted_acts {ps : List Part} {z : State} {s : State} {c : Cmd}
    (hs : Acts ps z s) (hp : ∀ p ∈ ([.colls] : List Part), p ∈ ps) :
    Acts ps z (State.noteAccepted s c) := by
  unfold State.noteAccepted
  repeat' first
    | with_reducible assumption | extract_lets | with_reducible refine Acts.ite ?_ ?_
    | with_reducible refine Acts.set_groups ?_ (hp _ (by decide)) | dsimp +zetaDelta only

theorem State.grant_acts {ps : List Part} {z : State} {s : State} {deep : Deep} {r : CmdRef}
    (hs : Acts ps z s) (hp : ∀ p ∈ ([.cmds, .colls, .logbook] : List Part), p ∈ ps) :
    Acts ps z (State.grant s deep r) := by
  unfold State.grant
  repeat' first
    | with_reducible assumption | with_reducible refine State.noteAccepted_acts ?_ (inside hp (by decide))
    | with_reducible refine State.updCmd_acts ?_ (inside hp (by decide))
    | with_reducible refine State.record_acts ?_ (inside hp (by decide)) | extract_lets | intro _ | with_reducible refine Acts.ite ?_ ?_
    | split | dsimp only | dsimp +zetaDelta only

theorem State.grantWaiting_acts {ps : List Part} {z : State} {s : State} {deep : Deep} {n : Nat}
    (hs : Acts ps z s) (hp : ∀ p ∈ ([.cmds, .colls, .logbook] : List Part), p ∈ ps) :
    Acts ps z (State.grantWaiting s deep n) := by
  unfold State.grantWaiting
  repeat' first
    | with_reducible assumption | with_reducible refine State.grant_acts ?_ (inside hp (by decide))
    | with_reducible refine Acts.foldl ?_ ?_ | intro _ | dsimp only

theorem State.join_acts {ps : List Part} {z : State} {s : State} {c : Cmd}
    (hs : Acts ps z s) (hp : ∀ p ∈ ([.cmds] : List Part), p ∈ ps) :
    Acts ps z (State.join s c) := by
  unfold State.join
  repeat' first
    | with_reducible assumption | with_reducible refine Acts.set_fetches_inflight ?_ (hp _ (by decide)) (hp _ (by decide))

theorem State.fetchFrom_acts {ps : List Part} {z : State} {s : State} {deep : Deep} {n : Nat} {q : Queue}
    (hs : Acts ps z s) (hp : ∀ p ∈ ([.regs, .mem, .queues, .cmds, .colls, .logbook, .log, .outbox] : List Part), p ∈ ps) :
    Acts ps z (State.fetchFrom s deep n q) := by
  unfold State.fetchFrom
  repeat' first
    | with_reducible assumption | with_reducible refine State.uncountedAccess_acts ?_ (inside hp (by decide))
    | with_reducible refine State.noteMalformed_acts ?_ (inside hp (by decide))
    | with_reducible refine State.advanceHead_acts ?_ (inside hp (by decide))
    | with_reducible refine State.hostFault_acts ?_ (inside hp (by decide))
    | with_reducible refine State.grant_acts ?_ (inside hp (by decide)) | with_reducible refine State.join_acts ?_ (inside hp (by decide))
    | extract_lets | with_reducible refine Acts.ite ?_ ?_ | split | dsimp only | dsimp +zetaDelta only

theorem State.fetch_acts {ps : List Part} {z : State} {s : State} {deep : Deep} {n : Nat}
    (hs : Acts ps z s) (hp : ∀ p ∈ ([.regs, .mem, .queues, .cmds, .colls, .logbook, .log, .outbox] : List Part), p ∈ ps) :
    Acts ps z (State.fetch s deep n) := by
  unfold State.fetch
  repeat' first
    | with_reducible assumption | with_reducible refine State.fetchFrom_acts ?_ (inside hp (by decide))
    | with_reducible refine State.roundTurn_acts ?_ (inside hp (by decide)) (by with_reducible assumption)
    | with_reducible refine Acts.ite ?_ ?_ | split

theorem execFencedCommandStart_acts {c : CmdRef} {now : Nat} {s : State} {t : State} (e : execFencedCommandStart c now s = .next t) :
    Acts [.clock, .cmds] s t := by
  unfold execFencedCommandStart at e
  refine runs_acts (qs := [.clock, .cmds]) (by decide) (fun ps hs hp => ?_) e
  repeat' first
    | with_reducible assumption | with_reducible refine State.updCmd_acts ?_ (inside hp (by decide))
    | with_reducible refine State.at_acts ?_ (inside hp (by decide)) | extract_lets | intro _ | with_reducible refine Acts.ite ?_ ?_
    | split | dsimp only | dsimp +zetaDelta only

theorem State.postReply_acts {ps : List Part} {z : State} {s : State} {n : Nat} {q : Queue} {bs : List Byte} {interrupt : Bool}
    (hs : Acts ps z s) (hp : ∀ p ∈ ([.draws, .regs, .mem, .host, .queues, .weights, .log, .outbox] : List Part), p ∈ ps) :
    Acts ps z (State.postReply s n q bs interrupt) := by
  unfold State.postReply
  repeat' first
    | with_reducible assumption | with_reducible refine State.ringWrite_acts ?_ (inside hp (by decide))
    | with_reducible refine State.hostFault_acts ?_ (inside hp (by decide))
    | with_reducible refine State.updQueue_acts ?_ (inside hp (by decide))
    | with_reducible refine State.emit_acts ?_ (inside hp (by decide)) | extract_lets | intro _ | with_reducible refine Acts.ite ?_ ?_
    | dsimp only | dsimp +zetaDelta only

theorem State.flushReports_acts {ps : List Part} {z : State} {a0 : Nat} {a1 : State}
    (ha1 : Acts ps z a1) (hp : ∀ p ∈ ([.draws, .regs, .mem, .host, .queues, .weights, .logbook, .log, .outbox] : List Part), p ∈ ps) :
    Acts ps z (State.flushReports a0 a1) := by
  induction a0 generalizing a1 with
  | zero =>
    unfold State.flushReports
    repeat' first
      | with_reducible assumption | with_reducible refine State.postReply_acts ?_ (inside hp (by decide))
      | with_reducible refine State.recordAs_acts ?_ (inside hp (by decide))
      | with_reducible refine State.draw_acts ?_ (inside hp (by decide)) | extract_lets | intro _ | with_reducible refine Acts.ite ?_ ?_
      | split | dsimp only | with_reducible refine Acts.set_reports ?_ (hp _ (by decide)) | dsimp +zetaDelta only
  | succ _ ih =>
    unfold State.flushReports
    repeat' first
      | with_reducible assumption | with_reducible refine ih ?_ | with_reducible refine State.postReply_acts ?_ (inside hp (by decide))
      | with_reducible refine State.recordAs_acts ?_ (inside hp (by decide))
      | with_reducible refine State.draw_acts ?_ (inside hp (by decide)) | extract_lets | intro _ | with_reducible refine Acts.ite ?_ ?_
      | split | dsimp only | with_reducible refine Acts.set_reports ?_ (hp _ (by decide)) | dsimp +zetaDelta only

theorem State.report_acts {ps : List Part} {z : State} {s : State} {r : Report}
    (hs : Acts ps z s) (hp : ∀ p ∈ ([.draws, .regs, .mem, .host, .queues, .weights, .logbook, .log, .outbox] : List Part), p ∈ ps) :
    Acts ps z (State.report s r) := by
  unfold State.report
  repeat' first
    | with_reducible assumption | with_reducible refine State.flushReports_acts ?_ (inside hp (by decide))
    | with_reducible refine State.raise_acts ?_ (inside hp (by decide)) | extract_lets | with_reducible refine Acts.ite ?_ ?_
    | with_reducible refine Acts.set_reports ?_ (hp _ (by decide)) | dsimp +zetaDelta only

theorem State.resetQueueDone_acts {ps : List Part} {z : State} {s : State} {n : Nat}
    (hs : Acts ps z s) (hp : ∀ p ∈ ([.queues] : List Part), p ∈ ps) :
    Acts ps z (State.resetQueueDone s n) := by
  unfold State.resetQueueDone
  repeat' first
    | with_reducible assumption | with_reducible refine State.updQueue_acts ?_ (inside hp (by decide)) | intro _
    | with_reducible refine Acts.ite ?_ ?_ | split | dsimp only

theorem State.releaseFences_acts {ps : List Part} {z : State} {s : State}
    (hs : Acts ps z s) (hp : ∀ p ∈ ([.cmds] : List Part), p ∈ ps) :
    Acts ps z (State.releaseFences s) := by
  unfold State.releaseFences
  repeat' first
    | with_reducible assumption | with_reducible refine Acts.foldl ?_ ?_ | with_reducible refine Acts.foldl_fst ?_ ?_
    | with_reducible refine Acts.foldl_snd ?_ ?_ | extract_lets | intro _ | with_reducible refine Acts.ite ?_ ?_ | dsimp only
    | with_reducible refine Acts.set_inflight ?_ (hp _ (by decide)) | dsimp +zetaDelta only

theorem State.dropCmd_acts {ps : List Part} {z : State} {s : State} {r : CmdRef}
    (hs : Acts ps z s) (hp : ∀ p ∈ ([.cmds] : List Part), p ∈ ps) :
    Acts ps z (State.dropCmd s r) := by
  unfold State.dropCmd
  repeat' first
    | with_reducible assumption | intro _ | dsimp only | with_reducible refine Acts.set_inflight ?_ (hp _ (by decide))

theorem State.complete_acts {ps : List Part} {z : State} {outs : Outputs} {s : State} {r : CmdRef}
    (hs : Acts ps z s) (hp : ∀ p ∈ ([.draws, .regs, .mem, .host, .queues, .cmds, .hist, .weights, .logbook, .log, .outbox] : List Part), p ∈ ps) :
    Acts ps z (State.complete outs s r) := by
  unfold State.complete
  repeat' first
    | with_reducible assumption | with_reducible refine State.resetQueueDone_acts ?_ (inside hp (by decide))
    | with_reducible refine State.releaseFences_acts ?_ (inside hp (by decide))
    | with_reducible refine State.histSettle_acts ?_ (inside hp (by decide))
    | with_reducible refine State.addCounts_acts ?_ (inside hp (by decide))
    | with_reducible refine State.postReply_acts ?_ (inside hp (by decide))
    | with_reducible refine State.recordAs_acts ?_ (inside hp (by decide))
    | with_reducible refine State.dropCmd_acts ?_ (inside hp (by decide))
    | with_reducible refine State.raise_acts ?_ (inside hp (by decide)) | extract_lets | with_reducible refine Acts.ite ?_ ?_ | split
    | dsimp +zetaDelta only

theorem State.badDoorbell_acts {ps : List Part} {z : State} {s : State} {n : Nat} {q : Queue}
    (hs : Acts ps z s) (hp : ∀ p ∈ ([.regs, .queues, .log, .outbox] : List Part), p ∈ ps) :
    Acts ps z (State.badDoorbell s n q) := by
  unfold State.badDoorbell
  repeat' first
    | with_reducible assumption | with_reducible refine State.updQueue_acts ?_ (inside hp (by decide))
    | with_reducible refine State.logEvent_acts ?_ (inside hp (by decide))
    | with_reducible refine State.raise_acts ?_ (inside hp (by decide)) | extract_lets | intro _ | dsimp only | dsimp +zetaDelta only

theorem State.doorbell_acts {ps : List Part} {z : State} {s : State} {fn : Nat} {n : Nat} {v : Word} {bad : Queue → Nat → Bool} {put : Queue → Nat → Queue}
    (hs : Acts ps z s) (hp : ∀ p ∈ ([.regs, .queues, .log, .outbox] : List Part), p ∈ ps) :
    Acts ps z (State.doorbell s fn n v bad put) := by
  unfold State.doorbell
  repeat' first
    | with_reducible assumption | with_reducible refine State.badDoorbell_acts ?_ (inside hp (by decide))
    | with_reducible refine State.logDiscard_acts ?_ (inside hp (by decide))
    | with_reducible refine State.updQueue_acts ?_ (inside hp (by decide))
    | with_reducible refine State.logEvent_acts ?_ (inside hp (by decide)) | intro _ | with_reducible refine Acts.ite ?_ ?_ | split
    | dsimp only

theorem execSqTailWrite_acts {fn : Nat} {q : Nat} {v : Word} {now : Nat} {s : State} {t : State} (e : execSqTailWrite fn q v now s = .next t) :
    Acts [.clock, .regs, .queues, .log, .outbox] s t := by
  unfold execSqTailWrite runsHost at e
  refine runs_acts (qs := [.clock, .regs, .queues, .log, .outbox]) (by decide) (fun ps hs hp => ?_) e
  repeat' first
    | with_reducible assumption | with_reducible refine Acts.ite ?_ ?_ | with_reducible refine State.doorbell_acts ?_ (inside hp (by decide))
    | with_reducible refine State.at_acts ?_ (inside hp (by decide)) | intro _ | dsimp only

theorem execCqHeadWrite_acts {fn : Nat} {q : Nat} {v : Word} {now : Nat} {s : State} {t : State} (e : execCqHeadWrite fn q v now s = .next t) :
    Acts [.draws, .clock, .regs, .mem, .host, .queues, .weights, .logbook, .log, .outbox] s t := by
  unfold execCqHeadWrite runsHost at e
  refine runs_acts (qs := [.draws, .clock, .regs, .mem, .host, .queues, .weights, .logbook, .log, .outbox]) (by decide) (fun ps hs hp => ?_) e
  repeat' first
    | with_reducible assumption | with_reducible refine Acts.ite ?_ ?_ | with_reducible refine State.flushReports_acts ?_ (inside hp (by decide))
    | with_reducible refine State.doorbell_acts ?_ (inside hp (by decide))
    | with_reducible refine State.at_acts ?_ (inside hp (by decide)) | extract_lets | intro _ | dsimp only | dsimp +zetaDelta only

theorem execQueueFence_acts {q : Nat} {now : Nat} {s : State} {t : State} (e : execQueueFence q now s = .next t) :
    Acts [.clock, .regs, .queues, .log, .outbox] s t := by
  unfold execQueueFence at e
  refine runs_acts (qs := [.clock, .regs, .queues, .log, .outbox]) (by decide) (fun ps hs hp => ?_) e
  repeat' first
    | with_reducible assumption | with_reducible refine State.fenceQueue_acts ?_ (inside hp (by decide))
    | with_reducible refine State.at_acts ?_ (inside hp (by decide)) | extract_lets | intro _ | with_reducible refine Acts.ite ?_ ?_
    | split | dsimp only | dsimp +zetaDelta only

theorem execQueueReset_acts {fn : Nat} {q : Nat} {s : State} {t : State} (e : execQueueReset fn q s = .next t) :
    Acts [.queues, .log, .outbox] s t := by
  unfold execQueueReset runsHost at e
  refine runs_acts (qs := [.queues, .log, .outbox]) (by decide) (fun ps hs hp => ?_) e
  repeat' first
    | with_reducible assumption | with_reducible refine Acts.ite ?_ ?_ | with_reducible refine State.resetQueueDone_acts ?_ (inside hp (by decide))
    | with_reducible refine State.logDiscard_acts ?_ (inside hp (by decide))
    | with_reducible refine State.updQueue_acts ?_ (inside hp (by decide)) | intro _ | split | dsimp only

theorem State.putHelloReply_acts {ps : List Part} {z : State} {s : State} {fn : Nat} {bs : List Byte}
    (hs : Acts ps z s) (hp : ∀ p ∈ ([.regs] : List Part), p ∈ ps) :
    Acts ps z (State.putHelloReply s fn bs) := by
  unfold State.putHelloReply
  repeat' first
    | with_reducible assumption | with_reducible refine State.setNat_acts ?_ (inside hp (by decide))
    | with_reducible refine Acts.foldl ?_ ?_ | intro _ | dsimp only

theorem State.hello_acts {ps : List Part} {z : State} {s : State} {fn : Nat} {v : Word}
    (hs : Acts ps z s) (hp : ∀ p ∈ ([.regs, .queues] : List Part), p ∈ ps) :
    Acts ps z (State.hello s fn v) := by
  unfold State.hello
  repeat' first
    | with_reducible assumption | with_reducible refine State.putHelloReply_acts ?_ (inside hp (by decide)) | extract_lets
    | with_reducible refine Acts.ite ?_ ?_ | split | with_reducible refine Acts.set_hellos ?_ (hp _ (by decide))
    | with_reducible refine Acts.set_queues ?_ (hp _ (by decide)) | dsimp +zetaDelta only

theorem execHello_acts {fn : Nat} {v : Word} {s : State} {t : State} (e : execHello fn v s = .next t) :
    Acts [.regs, .queues] s t := by
  unfold execHello runsHost at e
  refine runs_acts (qs := [.regs, .queues]) (by decide) (fun ps hs hp => ?_) e
  repeat' first
    | with_reducible assumption | with_reducible refine Acts.ite ?_ ?_ | with_reducible refine State.hello_acts ?_ (inside hp (by decide)) | intro _ | dsimp only

theorem execNop_acts {c : CmdRef} {hv : HostView} {s : State} {t : State} (e : execNop c hv s = .next t) :
    Acts [.host, .cmds] s t := by
  unfold execNop at e
  refine runs_acts (qs := [.host, .cmds, .acting]) (by decide) (fun ps hs hp => ?_) e
  repeat' first
    | with_reducible assumption | with_reducible refine State.finish_acts ?_ (inside hp (by decide))
    | with_reducible refine State.start_acts ?_ ?_ (inside hp (by decide))
    | with_reducible refine State.sees_acts ?_ (inside hp (by decide)) | intro _ | dsimp only

theorem State.queueCreate_acts {ps : List Part} {z : State} {s : State} {c : Cmd}
    (hs : Acts ps z s) (hp : ∀ p ∈ ([.regs, .queues, .cmds, .log, .outbox] : List Part), p ∈ ps) :
    Acts ps z (State.queueCreate s c) := by
  unfold State.queueCreate
  repeat' first
    | with_reducible assumption | with_reducible refine State.refuse_acts ?_ (inside hp (by decide))
    | with_reducible refine State.finish_acts ?_ (inside hp (by decide)) | extract_lets | with_reducible refine Acts.ite ?_ ?_ | split
    | with_reducible refine Acts.set_queues ?_ (hp _ (by decide)) | dsimp +zetaDelta only

theorem execQueueCreate_acts {c : CmdRef} {hv : HostView} {s : State} {t : State} (e : execQueueCreate c hv s = .next t) :
    Acts [.regs, .host, .queues, .cmds, .log, .outbox] s t := by
  unfold execQueueCreate at e
  refine runs_acts (qs := [.regs, .host, .queues, .cmds, .log, .outbox, .acting]) (by decide) (fun ps hs hp => ?_) e
  repeat' first
    | with_reducible assumption | with_reducible refine State.queueCreate_acts ?_ (inside hp (by decide))
    | with_reducible refine State.start_acts ?_ ?_ (inside hp (by decide))
    | with_reducible refine State.sees_acts ?_ (inside hp (by decide)) | intro _ | dsimp only

theorem State.clearPage_acts {ps : List Part} {z : State} {s : State} {n : Nat}
    (hs : Acts ps z s) (hp : ∀ p ∈ ([.regs] : List Part), p ∈ ps) :
    Acts ps z (State.clearPage s n) := by
  unfold State.clearPage
  repeat' first
    | with_reducible assumption | exact fun q => insert_sorted q | exact fun q => filter_sorted q | exact fun q => Mem.forget_wf q
    | exact fun q => q | intro _ | dsimp only | with_reducible refine Acts.set_regs ?_ ?_ (hp _ (by decide))

end Sys2Proof.Machine
end

