-- ==== Sys2Proof/Laws/ActsEpoch.lean ====
section
/-! SUPPORT. What the operations of Machine/Epoch.lean may do (Laws/Acts.lean): the parts each may change, the invariant kept. -/

namespace Sys2Proof.Machine

open Sys2Proof

theorem nextEpoch_ne_zero (e : BitVec 32) : nextEpoch e ≠ 0 := by
  unfold nextEpoch
  split
  · decide
  · intro h
    have : e = 0xFFFFFFFF := by bv_omega
    contradiction

theorem State.commitEpoch_acts {ps : List Part} {z : State} {s : State} {changed : List (Nat × Word)}
    (hs : Acts ps z s) (hp : ∀ p ∈ ([.spine, .regs, .lockage] : List Part), p ∈ ps) :
    Acts ps z (State.commitEpoch s changed) := by
  unfold State.commitEpoch
  have h : Acts ps z (changed.foldl (fun (t : State) k => t.setReg k.1 k.2) s) :=
    Acts.foldl hs fun u k hu => State.setReg_acts hu (inside hp (by decide))
  refine Acts.set_commitCount (Acts.set_oldRegs (Acts.set_spine h ?_ (hp _ (by decide))) (hp _ (by decide))) (hp _ (by decide))
  exact fun q => ⟨nextEpoch_ne_zero _, q.2⟩

theorem State.serviceCommit_acts {ps : List Part} {z : State} {s : State}
    (hs : Acts ps z s) (hp : ∀ p ∈ ([.spine, .regs, .logbook, .lockage, .outbox] : List Part), p ∈ ps) :
    Acts ps z (State.serviceCommit s) := by
  unfold State.serviceCommit
  repeat' first
    | with_reducible assumption | with_reducible refine State.commitEpoch_acts ?_ (inside hp (by decide))
    | with_reducible refine State.record_acts ?_ (inside hp (by decide))
    | with_reducible refine State.raise_acts ?_ (inside hp (by decide))

theorem State.awaitCommit_acts {ps : List Part} {z : State} {s : State} {o : CommitFor}
    (hs : Acts ps z s) (hp : ∀ p ∈ ([.lockage] : List Part), p ∈ ps) :
    Acts ps z (State.awaitCommit s o) := by
  unfold State.awaitCommit
  repeat' first
    | with_reducible assumption | with_reducible refine Acts.set_commits ?_ (hp _ (by decide))

theorem State.updTurn_acts {ps : List Part} {z : State} {s : State} {n : Nat} {f : Turn → Turn}
    (hs : Acts ps z s) (hp : ∀ p ∈ ([.turns] : List Part), p ∈ ps) :
    Acts ps z (State.updTurn s n f) := by
  unfold State.updTurn
  repeat' first
    | with_reducible assumption | split | with_reducible refine Acts.set_turns ?_ (hp _ (by decide))

theorem State.failTurn_acts {ps : List Part} {z : State} {s : State} {n : Nat} {detail : Nat} {abandoned : Bool}
    (hs : Acts ps z s) (hp : ∀ p ∈ ([.turns, .lockage] : List Part), p ∈ ps) :
    Acts ps z (State.failTurn s n detail abandoned) := by
  unfold State.failTurn
  repeat' first
    | with_reducible assumption | with_reducible refine State.awaitCommit_acts ?_ (inside hp (by decide))
    | with_reducible refine State.updTurn_acts ?_ (inside hp (by decide)) | intro _ | with_reducible refine Acts.ite ?_ ?_ | split
    | dsimp only

theorem State.trainTurnFails_acts {ps : List Part} {z : State} {s : State} {n : Nat} {st : Nat}
    (hs : Acts ps z s) (hp : ∀ p ∈ ([.turns, .lockage] : List Part), p ∈ ps) :
    Acts ps z (State.trainTurnFails s n st) := by
  unfold State.trainTurnFails
  repeat' first
    | with_reducible assumption | with_reducible refine State.failTurn_acts ?_ (inside hp (by decide))
    | with_reducible refine Acts.foldl ?_ ?_ | with_reducible refine Acts.foldl_fst ?_ ?_ | with_reducible refine Acts.foldl_snd ?_ ?_
    | intro _ | dsimp only

theorem State.turnCounts_acts {ps : List Part} {z : State} {s : State} {a1 : Entry} {own : Bool} {cut : Bool}
    (hs : Acts ps z s) (hp : ∀ p ∈ ([.turns] : List Part), p ∈ ps) :
    Acts ps z (State.turnCounts s a1 own cut) := by
  unfold State.turnCounts
  repeat' first
    | with_reducible assumption | with_reducible refine State.updTurn_acts ?_ (inside hp (by decide)) | intro _
    | with_reducible refine Acts.ite ?_ ?_ | dsimp only

theorem State.answerParking_acts {ps : List Part} {z : State} {s : State} {a1 : List (CmdRef × Nat)}
    (hs : Acts ps z s) (hp : ∀ p ∈ ([.cmds] : List Part), p ∈ ps) :
    Acts ps z (State.answerParking s a1) := by
  unfold State.answerParking
  repeat' first
    | with_reducible assumption | with_reducible refine State.finish_acts ?_ (inside hp (by decide))
    | with_reducible refine Acts.foldl ?_ ?_ | with_reducible refine Acts.foldl_fst ?_ ?_ | with_reducible refine Acts.foldl_snd ?_ ?_
    | intro _ | dsimp only

theorem State.withdraw_acts {ps : List Part} {z : State} {s : State} {o : CommitFor}
    (hs : Acts ps z s) (hp : ∀ p ∈ ([.lockage] : List Part), p ∈ ps) :
    Acts ps z (State.withdraw s o) := by
  unfold State.withdraw
  repeat' first
    | with_reducible assumption | intro _ | dsimp only | with_reducible refine Acts.set_commits ?_ (hp _ (by decide))

end Sys2Proof.Machine
end

