-- ==== Sys2Proof/Laws/ActsLinks.lean ====
section
/-! SUPPORT. What the operations of Machine/Links.lean may do (Laws/Acts.lean): the parts each may change, the invariant kept. -/

namespace Sys2Proof.Machine

open Sys2Proof

theorem State.updPort_acts {ps : List Part} {z : State} {s : State} {p : Nat} {f : Port → Port}
    (hs : Acts ps z s) (hp : ∀ p ∈ ([.links, .mgmt] : List Part), p ∈ ps) :
    Acts ps z (State.updPort s p f) := by
  unfold State.updPort
  repeat' first
    | with_reducible assumption | with_reducible refine State.sensorChange_acts ?_ (inside hp (by decide)) | extract_lets
    | with_reducible refine Acts.set_ports ?_ (hp _ (by decide)) | dsimp +zetaDelta only

theorem State.emitFlit_acts {ps : List Part} {z : State} {s : State} {p : Nat} {f : Flit}
    (hs : Acts ps z s) (hp : ∀ p ∈ ([.outbox] : List Part), p ∈ ps) :
    Acts ps z (State.emitFlit s p f) := by
  unfold State.emitFlit
  repeat' first
    | with_reducible assumption | with_reducible refine State.emit_acts ?_ (inside hp (by decide))

theorem State.sendIdle_acts {ps : List Part} {z : State} {s : State} {p : Nat} {credit : Nat} {flags : Nat}
    (hs : Acts ps z s) (hp : ∀ p ∈ ([.outbox] : List Part), p ∈ ps) :
    Acts ps z (State.sendIdle s p credit flags) := by
  unfold State.sendIdle
  repeat' first
    | with_reducible assumption | with_reducible refine State.emitFlit_acts ?_ (inside hp (by decide))

theorem State.sendNak_acts {ps : List Part} {z : State} {s : State} {p : Nat}
    (hs : Acts ps z s) (hp : ∀ p ∈ ([.links, .mgmt, .outbox] : List Part), p ∈ ps) :
    Acts ps z (State.sendNak s p) := by
  unfold State.sendNak
  repeat' first
    | with_reducible assumption | with_reducible refine State.sendIdle_acts ?_ (inside hp (by decide))
    | with_reducible refine State.updPort_acts ?_ (inside hp (by decide)) | intro _ | dsimp only

theorem State.sendNow_acts {ps : List Part} {z : State} {s : State} {p : Nat} {f : Flit} {msg : Nat}
    (hs : Acts ps z s) (hp : ∀ p ∈ ([.regs, .links, .mgmt, .outbox] : List Part), p ∈ ps) :
    Acts ps z (State.sendNow s p f msg) := by
  unfold State.sendNow
  repeat' first
    | with_reducible assumption | with_reducible refine State.emitFlit_acts ?_ (inside hp (by decide))
    | with_reducible refine State.updPort_acts ?_ (inside hp (by decide))
    | with_reducible refine State.add64_acts ?_ (inside hp (by decide)) | extract_lets | intro _ | with_reducible refine Acts.ite ?_ ?_
    | dsimp only | dsimp +zetaDelta only

theorem State.drain_acts {ps : List Part} {z : State} {a0 : Nat} {a1 : State} {a2 : Nat}
    (ha1 : Acts ps z a1) (hp : ∀ p ∈ ([.regs, .links, .mgmt, .outbox] : List Part), p ∈ ps) :
    Acts ps z (State.drain a0 a1 a2) := by
  induction a0 generalizing a1 a2 with
  | zero =>
    unfold State.drain
    repeat' first
      | with_reducible assumption | with_reducible refine State.sendNow_acts ?_ (inside hp (by decide)) | split
      | with_reducible refine Acts.set_ports ?_ (hp _ (by decide))
  | succ _ ih =>
    unfold State.drain
    repeat' first
      | with_reducible assumption | with_reducible refine ih ?_ | with_reducible refine State.sendNow_acts ?_ (inside hp (by decide))
      | split | with_reducible refine Acts.set_ports ?_ (hp _ (by decide))

theorem State.sendFlits_acts {ps : List Part} {z : State} {s : State} {p : Nat} {fs : List (Flit × Nat)}
    (hs : Acts ps z s) (hp : ∀ p ∈ ([.regs, .links, .mgmt, .outbox] : List Part), p ∈ ps) :
    Acts ps z (State.sendFlits s p fs) := by
  unfold State.sendFlits
  repeat' first
    | with_reducible assumption | with_reducible refine State.updPort_acts ?_ (inside hp (by decide))
    | with_reducible refine State.drain_acts ?_ (inside hp (by decide)) | extract_lets | intro _ | dsimp only | dsimp +zetaDelta only

theorem State.sendIdent_acts {ps : List Part} {z : State} {s : State} {p : Nat} {vc : Nat}
    (hs : Acts ps z s) (hp : ∀ p ∈ ([.regs, .links, .mgmt, .outbox] : List Part), p ∈ ps) :
    Acts ps z (State.sendIdent s p vc) := by
  unfold State.sendIdent
  repeat' first
    | with_reducible assumption | with_reducible refine State.sendFlits_acts ?_ (inside hp (by decide))

theorem State.sendWidth_acts {ps : List Part} {z : State} {s : State} {p : Nat}
    (hs : Acts ps z s) (hp : ∀ p ∈ ([.draws, .regs, .links, .mgmt, .outbox] : List Part), p ∈ ps) :
    Acts ps z (State.sendWidth s p) := by
  unfold State.sendWidth
  repeat' first
    | with_reducible assumption | with_reducible refine State.sendFlits_acts ?_ (inside hp (by decide))
    | with_reducible refine State.draw_acts ?_ (inside hp (by decide)) | extract_lets | dsimp only | dsimp +zetaDelta only

theorem State.sendCreditInit_acts {ps : List Part} {z : State} {s : State} {p : Nat}
    (hs : Acts ps z s) (hp : ∀ p ∈ ([.regs, .links, .mgmt, .outbox] : List Part), p ∈ ps) :
    Acts ps z (State.sendCreditInit s p) := by
  unfold State.sendCreditInit
  repeat' first
    | with_reducible assumption | with_reducible refine State.sendFlits_acts ?_ (inside hp (by decide))
    | with_reducible refine State.updPort_acts ?_ (inside hp (by decide)) | extract_lets | intro _ | dsimp only | dsimp +zetaDelta only

theorem State.sendMessage_acts {ps : List Part} {z : State} {s : State} {p : Nat} {vc : Nat} {route : Nat} {cls : Nat} {context : Nat} {targetInc : Nat} {body : List Byte} {poison : List (Nat × Nat)}
    (hs : Acts ps z s) (hp : ∀ p ∈ ([.regs, .links, .mgmt, .outbox] : List Part), p ∈ ps) :
    Acts ps z (State.sendMessage s p vc route cls context targetInc body poison).1 := by
  unfold State.sendMessage
  repeat' first
    | with_reducible assumption | with_reducible refine State.sendFlits_acts ?_ (inside hp (by decide)) | extract_lets | intro _
    | dsimp only | with_reducible refine Acts.set_msgNext ?_ (hp _ (by decide)) | dsimp +zetaDelta only

theorem State.sendNotice_acts {ps : List Part} {z : State} {s : State} {p : Nat} {cls : Nat} {about : Nat} {context : Nat}
    (hs : Acts ps z s) (hp : ∀ p ∈ ([.regs, .links, .mgmt, .outbox] : List Part), p ∈ ps) :
    Acts ps z (State.sendNotice s p cls about context) := by
  unfold State.sendNotice
  repeat' first
    | with_reducible assumption | with_reducible refine State.sendMessage_acts ?_ (inside hp (by decide)) | dsimp only

theorem State.violation_acts {ps : List Part} {z : State} {s : State} {p : Nat}
    (hs : Acts ps z s) (hp : ∀ p ∈ ([.regs, .links, .mgmt, .outbox] : List Part), p ∈ ps) :
    Acts ps z (State.violation s p) := by
  unfold State.violation
  repeat' first
    | with_reducible assumption | with_reducible refine State.updPort_acts ?_ (inside hp (by decide))
    | with_reducible refine State.add32_acts ?_ (inside hp (by decide))
    | with_reducible refine State.raise_acts ?_ (inside hp (by decide)) | intro _ | dsimp only

theorem State.takeAck_acts {ps : List Part} {z : State} {s : State} {p : Nat} {f : Flit}
    (hs : Acts ps z s) (hp : ∀ p ∈ ([.regs, .links, .mgmt, .outbox] : List Part), p ∈ ps) :
    Acts ps z (State.takeAck s p f) := by
  unfold State.takeAck
  repeat' first
    | with_reducible assumption | with_reducible refine State.violation_acts ?_ (inside hp (by decide))
    | with_reducible refine State.updPort_acts ?_ (inside hp (by decide)) | extract_lets | intro _ | with_reducible refine Acts.ite ?_ ?_
    | split | dsimp only | dsimp +zetaDelta only

theorem State.resend_acts {ps : List Part} {z : State} {s : State} {p : Nat}
    (hs : Acts ps z s) (hp : ∀ p ∈ ([.regs, .outbox] : List Part), p ∈ ps) :
    Acts ps z (State.resend s p) := by
  unfold State.resend
  repeat' first
    | with_reducible assumption | with_reducible refine State.emitFlit_acts ?_ (inside hp (by decide))
    | with_reducible refine State.add64_acts ?_ (inside hp (by decide)) | with_reducible refine Acts.foldl ?_ ?_
    | with_reducible refine Acts.foldl_fst ?_ ?_ | extract_lets | intro _ | dsimp only | dsimp +zetaDelta only

theorem State.takeNak_acts {ps : List Part} {z : State} {s : State} {p : Nat} {f : Flit}
    (hs : Acts ps z s) (hp : ∀ p ∈ ([.regs, .links, .mgmt, .outbox] : List Part), p ∈ ps) :
    Acts ps z (State.takeNak s p f) := by
  unfold State.takeNak
  repeat' first
    | with_reducible assumption | with_reducible refine State.updPort_acts ?_ (inside hp (by decide))
    | with_reducible refine State.resend_acts ?_ (inside hp (by decide)) | extract_lets | intro _ | with_reducible refine Acts.ite ?_ ?_
    | dsimp only | dsimp +zetaDelta only

theorem State.takeCredits_acts {ps : List Part} {z : State} {s : State} {p : Nat} {f : Flit}
    (hs : Acts ps z s) (hp : ∀ p ∈ ([.links, .mgmt] : List Part), p ∈ ps) :
    Acts ps z (State.takeCredits s p f) := by
  unfold State.takeCredits
  repeat' first
    | with_reducible assumption | with_reducible refine State.updPort_acts ?_ (inside hp (by decide)) | extract_lets | intro _
    | with_reducible refine Acts.ite ?_ ?_ | dsimp only | dsimp +zetaDelta only

theorem State.returnCredits_acts {ps : List Part} {z : State} {s : State} {p : Nat} {vc : Nat} {held : Nat × Nat}
    (hs : Acts ps z s) (hp : ∀ p ∈ ([.links, .mgmt, .outbox] : List Part), p ∈ ps) :
    Acts ps z (State.returnCredits s p vc held) := by
  unfold State.returnCredits
  repeat' first
    | with_reducible assumption | with_reducible refine State.sendIdle_acts ?_ (inside hp (by decide))
    | with_reducible refine State.updPort_acts ?_ (inside hp (by decide)) | extract_lets | intro _ | with_reducible refine Acts.ite ?_ ?_
    | dsimp only | dsimp +zetaDelta only

theorem State.putOpening_acts {ps : List Part} {z : State} {s : State} {p : Nat} {vc : Nat} {o : Option Inbound}
    (hs : Acts ps z s) (hp : ∀ p ∈ ([.links, .mgmt] : List Part), p ∈ ps) :
    Acts ps z (State.putOpening s p vc o) := by
  unfold State.putOpening
  repeat' first
    | with_reducible assumption | with_reducible refine State.updPort_acts ?_ (inside hp (by decide)) | intro _ | split | dsimp only

theorem State.discardOpening_acts {ps : List Part} {z : State} {s : State} {p : Nat} {vc : Nat} {swallow : Bool}
    (hs : Acts ps z s) (hp : ∀ p ∈ ([.links, .mgmt, .outbox] : List Part), p ∈ ps) :
    Acts ps z (State.discardOpening s p vc swallow) := by
  unfold State.discardOpening
  repeat' first
    | with_reducible assumption | with_reducible refine State.returnCredits_acts ?_ (inside hp (by decide))
    | with_reducible refine State.putOpening_acts ?_ (inside hp (by decide)) | intro _ | with_reducible refine Acts.ite ?_ ?_ | split
    | dsimp only

theorem State.openMessage_acts {ps : List Part} {z : State} {s : State} {p : Nat} {f : Flit}
    (hs : Acts ps z s) (hp : ∀ p ∈ ([.regs, .links, .mgmt, .outbox] : List Part), p ∈ ps) :
    Acts ps z (State.openMessage s p f) := by
  unfold State.openMessage
  repeat' first
    | with_reducible assumption | with_reducible refine State.sendNotice_acts ?_ (inside hp (by decide))
    | with_reducible refine State.putOpening_acts ?_ (inside hp (by decide))
    | with_reducible refine State.violation_acts ?_ (inside hp (by decide)) | extract_lets | with_reducible refine Acts.ite ?_ ?_ | split
    | dsimp +zetaDelta only

theorem State.closeMessage_acts {ps : List Part} {z : State} {s : State} {p : Nat} {vc : Nat}
    (hs : Acts ps z s) (hp : ∀ p ∈ ([.regs, .links, .logbook, .mgmt, .outbox] : List Part), p ∈ ps) :
    Acts ps z (State.closeMessage s p vc) := by
  unfold State.closeMessage
  repeat' first
    | with_reducible assumption | with_reducible refine State.returnCredits_acts ?_ (inside hp (by decide))
    | with_reducible refine State.putOpening_acts ?_ (inside hp (by decide))
    | with_reducible refine State.violation_acts ?_ (inside hp (by decide))
    | with_reducible refine State.updPort_acts ?_ (inside hp (by decide))
    | with_reducible refine State.record_acts ?_ (inside hp (by decide)) | extract_lets | intro _ | with_reducible refine Acts.ite ?_ ?_
    | split | dsimp only | dsimp +zetaDelta only

theorem State.takeData_acts {ps : List Part} {z : State} {s : State} {p : Nat} {f : Flit} {ded : Bool}
    (hs : Acts ps z s) (hp : ∀ p ∈ ([.regs, .links, .logbook, .mgmt, .outbox] : List Part), p ∈ ps) :
    Acts ps z (State.takeData s p f ded) := by
  unfold State.takeData
  repeat' first
    | with_reducible assumption | with_reducible refine State.discardOpening_acts ?_ (inside hp (by decide))
    | with_reducible refine State.returnCredits_acts ?_ (inside hp (by decide))
    | with_reducible refine State.closeMessage_acts ?_ (inside hp (by decide))
    | with_reducible refine State.openMessage_acts ?_ (inside hp (by decide))
    | with_reducible refine State.putOpening_acts ?_ (inside hp (by decide))
    | with_reducible refine State.sendFlits_acts ?_ (inside hp (by decide))
    | with_reducible refine State.violation_acts ?_ (inside hp (by decide)) | extract_lets | intro _
    | with_reducible refine Acts.ite ?_ ?_ | split | dsimp only | dsimp +zetaDelta only

theorem State.noteReduced_acts {ps : List Part} {z : State} {s : State} {p : Nat}
    (hs : Acts ps z s) (hp : ∀ p ∈ ([.regs, .log, .outbox] : List Part), p ∈ ps) :
    Acts ps z (State.noteReduced s p) := by
  unfold State.noteReduced
  repeat' first
    | with_reducible assumption | with_reducible refine State.logEvent_acts ?_ (inside hp (by decide))
    | with_reducible refine State.raise_acts ?_ (inside hp (by decide))

theorem State.startBringUp_acts {ps : List Part} {z : State} {s : State} {p : Nat}
    (hs : Acts ps z s) (hp : ∀ p ∈ ([.links, .mgmt] : List Part), p ∈ ps) :
    Acts ps z (State.startBringUp s p) := by
  unfold State.startBringUp
  repeat' first
    | with_reducible assumption | with_reducible refine State.updPort_acts ?_ (inside hp (by decide)) | intro _ | dsimp only

theorem State.failBringUp_acts {ps : List Part} {z : State} {s : State} {p : Nat}
    (hs : Acts ps z s) (hp : ∀ p ∈ ([.links, .mgmt] : List Part), p ∈ ps) :
    Acts ps z (State.failBringUp s p) := by
  unfold State.failBringUp
  repeat' first
    | with_reducible assumption | with_reducible refine State.updPort_acts ?_ (inside hp (by decide)) | intro _ | dsimp only

theorem State.bringUpIdent_acts {ps : List Part} {z : State} {s : State} {p : Nat}
    (hs : Acts ps z s) (hp : ∀ p ∈ ([.regs, .links, .mgmt, .outbox] : List Part), p ∈ ps) :
    Acts ps z (State.bringUpIdent s p) := by
  unfold State.bringUpIdent
  repeat' first
    | with_reducible assumption | with_reducible refine State.sendIdent_acts ?_ (inside hp (by decide))
    | with_reducible refine State.updPort_acts ?_ (inside hp (by decide)) | extract_lets | intro _ | with_reducible refine Acts.ite ?_ ?_
    | dsimp only | dsimp +zetaDelta only

theorem State.lanesJudged_acts {ps : List Part} {z : State} {s : State} {p : Nat} {good : Nat}
    (hs : Acts ps z s) (hp : ∀ p ∈ ([.draws, .regs, .links, .mgmt, .outbox] : List Part), p ∈ ps) :
    Acts ps z (State.lanesJudged s p good) := by
  unfold State.lanesJudged
  repeat' first
    | with_reducible assumption | with_reducible refine State.bringUpIdent_acts ?_ (inside hp (by decide))
    | with_reducible refine State.failBringUp_acts ?_ (inside hp (by decide))
    | with_reducible refine State.emitFlit_acts ?_ (inside hp (by decide))
    | with_reducible refine State.updPort_acts ?_ (inside hp (by decide))
    | with_reducible refine State.set64_acts ?_ (inside hp (by decide)) | with_reducible refine State.draw_acts ?_ (inside hp (by decide))
    | extract_lets | intro _ | with_reducible refine Acts.ite ?_ ?_ | dsimp only | dsimp +zetaDelta only

theorem State.judgePort_acts {ps : List Part} {z : State} {s : State} {p : Nat}
    (hs : Acts ps z s) (hp : ∀ p ∈ ([.regs, .links, .mgmt, .log, .outbox] : List Part), p ∈ ps) :
    Acts ps z (State.judgePort s p) := by
  unfold State.judgePort
  repeat' first
    | with_reducible assumption | with_reducible refine State.logEvent_acts ?_ (inside hp (by decide))
    | with_reducible refine State.updPort_acts ?_ (inside hp (by decide))
    | with_reducible refine State.raise_acts ?_ (inside hp (by decide)) | extract_lets | intro _ | with_reducible refine Acts.ite ?_ ?_
    | split | dsimp only | dsimp +zetaDelta only

theorem State.notePeer_acts {ps : List Part} {z : State} {s : State} {p : Nat} {i : Ident} {rev : Nat}
    (hs : Acts ps z s) (hp : ∀ p ∈ ([.regs, .links, .mgmt] : List Part), p ∈ ps) :
    Acts ps z (State.notePeer s p i rev) := by
  unfold State.notePeer
  repeat' first
    | with_reducible assumption | with_reducible refine State.updPort_acts ?_ (inside hp (by decide))
    | with_reducible refine State.setNat_acts ?_ (inside hp (by decide))
    | with_reducible refine State.set64_acts ?_ (inside hp (by decide)) | extract_lets | intro _ | dsimp only | dsimp +zetaDelta only

theorem State.takeCreditInit_acts {ps : List Part} {z : State} {s : State} {p : Nat} {b : List Byte}
    (hs : Acts ps z s) (hp : ∀ p ∈ ([.links, .mgmt] : List Part), p ∈ ps) :
    Acts ps z (State.takeCreditInit s p b) := by
  unfold State.takeCreditInit
  repeat' first
    | with_reducible assumption | with_reducible refine State.updPort_acts ?_ (inside hp (by decide)) | extract_lets | intro _
    | with_reducible refine Acts.ite ?_ ?_ | dsimp only | dsimp +zetaDelta only

theorem State.comeUp_acts {ps : List Part} {z : State} {s : State} {p : Nat}
    (hs : Acts ps z s) (hp : ∀ p ∈ ([.regs, .links, .mgmt, .log, .outbox] : List Part), p ∈ ps) :
    Acts ps z (State.comeUp s p) := by
  unfold State.comeUp
  repeat' first
    | with_reducible assumption | with_reducible refine State.judgePort_acts ?_ (inside hp (by decide))
    | with_reducible refine State.updPort_acts ?_ (inside hp (by decide))
    | with_reducible refine State.add32_acts ?_ (inside hp (by decide))
    | with_reducible refine State.raise_acts ?_ (inside hp (by decide)) | extract_lets | intro _ | dsimp only | dsimp +zetaDelta only

theorem State.dropLink_acts {ps : List Part} {z : State} {s : State} {p : Nat} {next : Nat}
    (hs : Acts ps z s) (hp : ∀ p ∈ ([.regs, .links, .mgmt, .log, .outbox] : List Part), p ∈ ps) :
    Acts ps z (State.dropLink s p next) := by
  unfold State.dropLink
  repeat' first
    | with_reducible assumption | with_reducible refine State.logEvent_acts ?_ (inside hp (by decide))
    | with_reducible refine State.updPort_acts ?_ (inside hp (by decide))
    | with_reducible refine State.raise_acts ?_ (inside hp (by decide)) | extract_lets | intro _ | dsimp only | dsimp +zetaDelta only

theorem State.startRetrain_acts {ps : List Part} {z : State} {s : State} {p : Nat}
    (hs : Acts ps z s) (hp : ∀ p ∈ ([.links, .mgmt] : List Part), p ∈ ps) :
    Acts ps z (State.startRetrain s p) := by
  unfold State.startRetrain
  repeat' first
    | with_reducible assumption | with_reducible refine State.updPort_acts ?_ (inside hp (by decide)) | intro _
    | with_reducible refine Acts.ite ?_ ?_ | dsimp only

end Sys2Proof.Machine
end

