-- ==== Sys2Proof/Laws/ActsTensor.lean ====
section
/-! SUPPORT. What the operations of Machine/Tensor.lean may do (Laws/Acts.lean): the parts each may change, the invariant kept. -/

namespace Sys2Proof.Machine

open Sys2Proof

theorem State.writeRuns_acts {ps : List Part} {z : State} {s : State} {rs : List (Nat × List Byte)}
    (hs : Acts ps z s) (hp : ∀ p ∈ ([.draws, .regs, .mem, .weights, .log, .outbox] : List Part), p ∈ ps) :
    Acts ps z (State.writeRuns s rs) := by
  unfold State.writeRuns
  repeat' first
    | with_reducible assumption | with_reducible refine State.writeMem_acts ?_ (inside hp (by decide))
    | with_reducible refine Acts.foldl ?_ ?_ | with_reducible refine Acts.foldl_fst ?_ ?_ | with_reducible refine Acts.foldl_snd ?_ ?_
    | intro _ | dsimp only

theorem State.writeRows_acts {ps : List Part} {z : State} {s : State} {code : Nat} {addr : Nat} {v : Converted}
    (hs : Acts ps z s) (hp : ∀ p ∈ ([.draws, .regs, .mem, .weights, .log, .outbox] : List Part), p ∈ ps) :
    Acts ps z (State.writeRows s code addr v) := by
  unfold State.writeRows
  repeat' first
    | with_reducible assumption | with_reducible refine State.writeRuns_acts ?_ (inside hp (by decide))

theorem State.noteRanges_acts {ps : List Part} {z : State} {s : State} {master : Nat} {rs : List (Nat × Nat)}
    (hs : Acts ps z s) (hp : ∀ p ∈ ([.draws, .regs, .mem, .units, .weights, .log, .outbox] : List Part), p ∈ ps) :
    Acts ps z (State.noteRanges s master rs) := by
  unfold State.noteRanges
  repeat' first
    | with_reducible assumption | with_reducible refine State.noteRead_acts ?_ (inside hp (by decide))
    | with_reducible refine Acts.foldl ?_ ?_ | with_reducible refine Acts.foldl_fst ?_ ?_ | with_reducible refine Acts.foldl_snd ?_ ?_
    | intro _ | dsimp only

theorem State.poisonRanges_acts {ps : List Part} {z : State} {s : State} {rs : List (Nat × Nat)}
    (hs : Acts ps z s) (hp : ∀ p ∈ ([.mem] : List Part), p ∈ ps) :
    Acts ps z (State.poisonRanges s rs) := by
  unfold State.poisonRanges
  repeat' first
    | with_reducible assumption | with_reducible refine State.poisonRange_acts ?_ (inside hp (by decide))
    | with_reducible refine Acts.foldl ?_ ?_ | with_reducible refine Acts.foldl_fst ?_ ?_ | with_reducible refine Acts.foldl_snd ?_ ?_
    | intro _ | dsimp only

theorem State.wake_acts {ps : List Part} {z : State} {s : State}
    (hs : Acts ps z s) (hp : ∀ p ∈ ([.power] : List Part), p ∈ ps) :
    Acts ps z (State.wake s) := by
  unfold State.wake
  repeat' first
    | with_reducible assumption | with_reducible refine Acts.set_power ?_ (hp _ (by decide))

theorem State.onRing_acts {ps : List Part} {z : State} {s : State} {f : State → State}
    (hs : Acts ps z s) (hf : ∀ (x0 : State), Acts ps z x0 → Acts ps z (f x0)) (hp : ∀ p ∈ ([.power] : List Part), p ∈ ps) :
    Acts ps z (State.onRing s f) := by
  unfold State.onRing
  repeat' first
    | with_reducible assumption | with_reducible refine State.wake_acts ?_ (inside hp (by decide)) | with_reducible refine hf _ ?_
    | with_reducible refine Acts.ite ?_ ?_ | with_reducible refine Acts.set_power ?_ (hp _ (by decide))

theorem State.streamed_acts {ps : List Part} {z : State} {s : State} {c : Cmd}
    (hs : Acts ps z s) (hp : ∀ p ∈ ([.mem] : List Part), p ∈ ps) :
    Acts ps z (State.streamed s c) := by
  unfold State.streamed
  repeat' first
    | with_reducible assumption | with_reducible refine State.uncountedAccess_acts ?_ (inside hp (by decide)) | intro _
    | with_reducible refine Acts.ite ?_ ?_ | split | dsimp only

theorem State.startCompute_acts {ps : List Part} {z : State} {s : State} {opcode : Nat} {r : CmdRef} {f : Cmd → State → State}
    (hs : Acts ps z s) (hf : ∀ (x0 : Cmd) (x1 : State), Acts ps z x1 → Acts ps z (f x0 x1)) (hp : ∀ p ∈ ([.power, .mem, .acting] : List Part), p ∈ ps) :
    Acts ps z (State.startCompute s opcode r f) := by
  unfold State.startCompute
  repeat' first
    | with_reducible assumption | with_reducible refine State.streamed_acts ?_ (inside hp (by decide))
    | with_reducible refine State.onRing_acts ?_ ?_ (inside hp (by decide))
    | with_reducible refine State.start_acts ?_ ?_ (inside hp (by decide)) | with_reducible refine hf _ _ ?_ | intro _
    | with_reducible refine Acts.ite ?_ ?_ | dsimp only

end Sys2Proof.Machine
end

