-- ==== Sys2Proof/Laws/ActsEngine.lean ====
section
/-! SUPPORT. What the operations of Machine/Engine.lean may do (Laws/Acts.lean): the parts each may change, the invariant kept. -/

namespace Sys2Proof.Machine

open Sys2Proof

theorem State.engineReadEvents_acts {ps : List Part} {z : State} {s : State} {es : List Nat} {rows : List (List (Nat × Nat))}
    (hs : Acts ps z s) (hp : ∀ p ∈ ([.regs, .outbox] : List Part), p ∈ ps) :
    Acts ps z (State.engineReadEvents s es rows) := by
  unfold State.engineReadEvents
  repeat' first
    | with_reducible assumption | with_reducible refine State.raise_acts ?_ (inside hp (by decide))
    | with_reducible refine Acts.foldl ?_ ?_ | with_reducible refine Acts.foldl_fst ?_ ?_ | with_reducible refine Acts.foldl_snd ?_ ?_
    | extract_lets | intro _ | with_reducible refine Acts.ite ?_ ?_ | dsimp only | dsimp +zetaDelta only

theorem State.engineAbandon_acts {ps : List Part} {z : State} {s : State} {c : Cmd} {es : List Nat} {rows : List (List (Nat × Nat))} {out : List (Nat × Nat)} {aux : List (Nat × Nat)} {st : Nat}
    (hs : Acts ps z s) (hp : ∀ p ∈ ([.draws, .regs, .mem, .cmds, .units, .weights, .log, .outbox] : List Part), p ∈ ps) :
    Acts ps z (State.engineAbandon s c es rows out aux st) := by
  unfold State.engineAbandon
  repeat' first
    | with_reducible assumption | with_reducible refine State.engineReadEvents_acts ?_ (inside hp (by decide))
    | with_reducible refine State.poisonRanges_acts ?_ (inside hp (by decide))
    | with_reducible refine State.noteRanges_acts ?_ (inside hp (by decide))
    | with_reducible refine State.undefine_acts ?_ (inside hp (by decide))
    | with_reducible refine State.finish_acts ?_ (inside hp (by decide))
    | with_reducible refine State.raise_acts ?_ (inside hp (by decide)) | with_reducible refine Acts.foldl ?_ ?_
    | with_reducible refine Acts.foldl_fst ?_ ?_ | with_reducible refine Acts.foldl_snd ?_ ?_ | extract_lets | intro _ | dsimp only
    | dsimp +zetaDelta only

theorem State.vopCounts_acts {ps : List Part} {z : State} {s : State} {c : Cmd} {k : Counts} {folded : List Fp}
    (hs : Acts ps z s) (hp : ∀ p ∈ ([.cmds] : List Part), p ∈ ps) :
    Acts ps z (State.vopCounts s c k folded) := by
  unfold State.vopCounts
  repeat' first
    | with_reducible assumption | with_reducible refine State.updCmd_acts ?_ (inside hp (by decide))
    | with_reducible refine Acts.foldl ?_ ?_ | intro _ | with_reducible refine Acts.ite ?_ ?_ | dsimp only

theorem State.noteResidue_acts {ps : List Part} {z : State} {s : State} {n : Nat}
    (hs : Acts ps z s) (hp : ∀ p ∈ ([.regs, .units, .outbox] : List Part), p ∈ ps) :
    Acts ps z (State.noteResidue s n) := by
  unfold State.noteResidue
  repeat' first
    | with_reducible assumption | with_reducible refine State.sat32_acts ?_ (inside hp (by decide))
    | with_reducible refine State.raise_acts ?_ (inside hp (by decide)) | extract_lets
    | with_reducible refine Acts.set_units ?_ (hp _ (by decide)) | dsimp +zetaDelta only

theorem State.addOn_acts {ps : List Part} {z : State} {s : State} {n : Nat} {a : GtBlock} {b : GtBlock}
    (hs : Acts ps z s) (hp : ∀ p ∈ ([.units] : List Part), p ∈ ps) :
    Acts ps z (State.addOn s n a b).2 := by
  unfold State.addOn
  repeat' first
    | with_reducible assumption | with_reducible refine Acts.ite ?_ ?_ | split | dsimp only
    | with_reducible refine Acts.set_units ?_ (hp _ (by decide))

/-- One block of a GT addition. -/
theorem GtRun.block_acts {ps : List Part} {z : State} {s : State} {v : Vop} {es : List Nat} {r : GtRun} {k : Nat}
    (hr : Acts ps z r.s) (hp : ∀ p ∈ ([.draws, .regs, .mem, .cmds, .units, .weights, .log, .outbox] : List Part), p ∈ ps) :
    Acts ps z (GtRun.block s v es r k).s := by
  unfold GtRun.block
  extract_lets per i n ax ay x
  have hx : Acts ps z x.2 := by
    simp only [x]
    split
    · exact State.addOn_acts hr (inside hp (by decide))
    · exact hr
  split
  · exact State.add64_acts hx (inside hp (by decide))
  · exact State.raise_acts hx (inside hp (by decide))
  · exact State.noteResidue_acts (State.add64_acts hx (inside hp (by decide))) (inside hp (by decide))

theorem State.vopGtAdd_acts {ps : List Part} {z : State} {s : State} {c : Cmd} {v : Vop} {es : List Nat}
    (hs : Acts ps z s) (hp : ∀ p ∈ ([.draws, .regs, .mem, .cmds, .units, .weights, .log, .outbox] : List Part), p ∈ ps) :
    Acts ps z (State.vopGtAdd s c v es) := by
  unfold State.vopGtAdd
  extract_lets r t st
  have key : ∀ (l : List Nat) (q : GtRun), Acts ps z q.s → Acts ps z (l.foldl (GtRun.block s v es) q).s := by
    intro l
    induction l with
    | nil => exact fun q h => h
    | cons x l ih => exact fun q h => ih _ (GtRun.block_acts h hp)
  have ht : Acts ps z t := Acts.foldl (State.writeRuns_acts (key _ _ hs) (inside hp (by decide)))
    fun u k hu => State.poisonRange_acts hu (inside hp (by decide))
  exact State.vopCounts_acts (State.finish_acts ht (inside hp (by decide))) (inside hp (by decide))

theorem State.vopQuant_acts {ps : List Part} {z : State} {s : State} {c : Cmd} {v : Vop}
    (hs : Acts ps z s) (hp : ∀ p ∈ ([.draws, .regs, .mem, .cmds, .weights, .log, .outbox] : List Part), p ∈ ps) :
    Acts ps z (State.vopQuant s c v) := by
  unfold State.vopQuant
  repeat' first
    | with_reducible assumption | with_reducible refine State.vopCounts_acts ?_ (inside hp (by decide))
    | with_reducible refine State.writeMem_acts ?_ (inside hp (by decide))
    | with_reducible refine State.finish_acts ?_ (inside hp (by decide)) | with_reducible refine Acts.foldl ?_ ?_
    | with_reducible refine Acts.foldl_fst ?_ ?_ | with_reducible refine Acts.foldl_snd ?_ ?_ | extract_lets | intro _
    | with_reducible refine Acts.ite ?_ ?_ | dsimp only | dsimp +zetaDelta only

theorem State.vopRows_acts {ps : List Part} {z : State} {s : State} {c : Cmd} {v : Vop}
    (hs : Acts ps z s) (hp : ∀ p ∈ ([.draws, .regs, .mem, .cmds, .weights, .log, .outbox] : List Part), p ∈ ps) :
    Acts ps z (State.vopRows s c v) := by
  unfold State.vopRows
  repeat' first
    | with_reducible assumption | with_reducible refine State.vopCounts_acts ?_ (inside hp (by decide))
    | with_reducible refine State.writeRows_acts ?_ (inside hp (by decide))
    | with_reducible refine State.writeMem_acts ?_ (inside hp (by decide))
    | with_reducible refine State.finish_acts ?_ (inside hp (by decide)) | extract_lets | intro _ | with_reducible refine Acts.ite ?_ ?_
    | dsimp only | dsimp +zetaDelta only

theorem State.vop_acts {ps : List Part} {z : State} {s : State} {c : Cmd}
    (hs : Acts ps z s) (hp : ∀ p ∈ ([.draws, .regs, .mem, .queues, .cmds, .units, .weights, .log, .outbox] : List Part), p ∈ ps) :
    Acts ps z (State.vop s c) := by
  unfold State.vop
  repeat' first
    | with_reducible assumption | with_reducible refine State.engineAbandon_acts ?_ (inside hp (by decide))
    | with_reducible refine State.vopQuant_acts ?_ (inside hp (by decide))
    | with_reducible refine State.vopGtAdd_acts ?_ (inside hp (by decide))
    | with_reducible refine State.vopRows_acts ?_ (inside hp (by decide))
    | with_reducible refine State.finish_acts ?_ (inside hp (by decide))
    | with_reducible refine State.refuse_acts ?_ (inside hp (by decide)) | extract_lets | intro _ | with_reducible refine Acts.ite ?_ ?_
    | split | dsimp only | dsimp +zetaDelta only

theorem execVop_acts {c : CmdRef} {hv : HostView} {s : State} {t : State} (e : execVop c hv s = .next t) :
    Acts [.draws, .power, .regs, .mem, .host, .queues, .cmds, .units, .weights, .log, .outbox] s t := by
  unfold execVop at e
  refine runs_acts (qs := [.draws, .power, .regs, .mem, .host, .queues, .cmds, .units, .weights, .log, .outbox, .acting]) (by decide) (fun ps hs hp => ?_) e
  repeat' first
    | with_reducible assumption | with_reducible refine State.startCompute_acts ?_ ?_ (inside hp (by decide))
    | with_reducible refine State.sees_acts ?_ (inside hp (by decide)) | with_reducible refine State.vop_acts ?_ (inside hp (by decide))
    | intro _ | dsimp only

theorem State.sample_acts {ps : List Part} {z : State} {s : State} {c : Cmd}
    (hs : Acts ps z s) (hp : ∀ p ∈ ([.draws, .regs, .mem, .queues, .cmds, .units, .weights, .log, .outbox] : List Part), p ∈ ps) :
    Acts ps z (State.sample s c) := by
  unfold State.sample
  repeat' first
    | with_reducible assumption | with_reducible refine State.engineAbandon_acts ?_ (inside hp (by decide))
    | with_reducible refine State.writeMem_acts ?_ (inside hp (by decide))
    | with_reducible refine State.refuse_acts ?_ (inside hp (by decide))
    | with_reducible refine State.finish_acts ?_ (inside hp (by decide)) | extract_lets | intro _ | split | dsimp only
    | dsimp +zetaDelta only

theorem execSample_acts {c : CmdRef} {hv : HostView} {s : State} {t : State} (e : execSample c hv s = .next t) :
    Acts [.draws, .power, .regs, .mem, .host, .queues, .cmds, .units, .weights, .log, .outbox] s t := by
  unfold execSample at e
  refine runs_acts (qs := [.draws, .power, .regs, .mem, .host, .queues, .cmds, .units, .weights, .log, .outbox, .acting]) (by decide) (fun ps hs hp => ?_) e
  repeat' first
    | with_reducible assumption | with_reducible refine State.startCompute_acts ?_ ?_ (inside hp (by decide))
    | with_reducible refine State.sample_acts ?_ (inside hp (by decide))
    | with_reducible refine State.sees_acts ?_ (inside hp (by decide)) | intro _ | dsimp only

end Sys2Proof.Machine
end

