-- ==== Sys2Proof/Laws/ActsUpdate.lean ====
section
/-! SUPPORT. What the operations of Machine/Update.lean may do (Laws/Acts.lean): the parts each may change, the invariant kept. -/

namespace Sys2Proof.Machine

open Sys2Proof

theorem State.setLane_acts {ps : List Part} {z : State} {s : State} {l : Nat} {g : Nat}
    (hs : Acts ps z s) (hp : ∀ p ∈ ([.regs, .keepsake, .outbox] : List Part), p ∈ ps) :
    Acts ps z (State.setLane s l g) := by
  unfold State.setLane
  repeat' first
    | with_reducible assumption | with_reducible refine State.ksWrite_acts ?_ (inside hp (by decide))
    | with_reducible refine State.raise_acts ?_ (inside hp (by decide)) | extract_lets | intro _ | with_reducible refine Acts.ite ?_ ?_
    | dsimp only | dsimp +zetaDelta only

theorem State.setCtxBit_acts {ps : List Part} {z : State} {s : State} {c : Nat} {n : Nat} {b : Bool}
    (hs : Acts ps z s) (hp : ∀ p ∈ ([.regs] : List Part), p ∈ ps) :
    Acts ps z (State.setCtxBit s c n b) := by
  unfold State.setCtxBit
  repeat' first
    | with_reducible assumption | with_reducible refine State.setNat_acts ?_ (inside hp (by decide))

theorem State.setNext_acts {ps : List Part} {z : State} {s : State} {c : Nat} {v : Nat}
    (hs : Acts ps z s) (hp : ∀ p ∈ ([.regs] : List Part), p ∈ ps) :
    Acts ps z (State.setNext s c v) := by
  unfold State.setNext
  repeat' first
    | with_reducible assumption | with_reducible refine State.setNat_acts ?_ (inside hp (by decide))

theorem State.loseState_acts {ps : List Part} {z : State} {s : State} {c : Nat}
    (hs : Acts ps z s) (hp : ∀ p ∈ ([.regs, .outbox] : List Part), p ∈ ps) :
    Acts ps z (State.loseState s c) := by
  unfold State.loseState
  repeat' first
    | with_reducible assumption | with_reducible refine State.setCtxBit_acts ?_ (inside hp (by decide))
    | with_reducible refine State.raise_acts ?_ (inside hp (by decide))

theorem State.putSlotHeader_acts {ps : List Part} {z : State} {s : State} {a1 : Nat} {c : Nat} {j : Nat} {h : SlotHeader}
    (hs : Acts ps z s) (hp : ∀ p ∈ ([.draws, .regs, .mem, .weights, .log, .outbox] : List Part), p ∈ ps) :
    Acts ps z (State.putSlotHeader s a1 c j h) := by
  unfold State.putSlotHeader
  repeat' first
    | with_reducible assumption | with_reducible refine State.loseState_acts ?_ (inside hp (by decide))
    | with_reducible refine State.writeMem_acts ?_ (inside hp (by decide)) | extract_lets | with_reducible refine Acts.ite ?_ ?_
    | dsimp +zetaDelta only

theorem State.noteShadow_acts {ps : List Part} {z : State} {s : State} {a1 : Nat} {c : Nat}
    (hs : Acts ps z s) (hp : ∀ p ∈ ([.regs] : List Part), p ∈ ps) :
    Acts ps z (State.noteShadow s a1 c) := by
  unfold State.noteShadow
  repeat' first
    | with_reducible assumption | with_reducible refine State.setCtxBit_acts ?_ (inside hp (by decide))

theorem State.checkLive_acts {ps : List Part} {z : State} {s : State} {a1 : Nat} {c : Nat}
    (hs : Acts ps z s) (hp : ∀ p ∈ ([.draws, .regs, .mem, .units, .weights, .log, .outbox] : List Part), p ∈ ps) :
    Acts ps z (State.checkLive s a1 c) := by
  unfold State.checkLive
  repeat' first
    | with_reducible assumption | with_reducible refine State.loseState_acts ?_ (inside hp (by decide))
    | with_reducible refine State.noteRead_acts ?_ (inside hp (by decide)) | extract_lets | with_reducible refine Acts.ite ?_ ?_
    | dsimp +zetaDelta only

theorem State.putNarrow_acts {ps : List Part} {z : State} {s : State} {p : NarrowPlace} {ys : List Fp}
    (hs : Acts ps z s) (hp : ∀ p ∈ ([.draws, .regs, .mem, .weights, .log, .outbox] : List Part), p ∈ ps) :
    Acts ps z (State.putNarrow s p ys).1 := by
  unfold State.putNarrow
  repeat' first
    | with_reducible assumption | with_reducible refine State.writeMem_acts ?_ (inside hp (by decide)) | extract_lets
    | with_reducible refine Acts.ite ?_ ?_ | split | dsimp only | dsimp +zetaDelta only

theorem State.stageLive_acts {ps : List Part} {z : State} {s : State} {a1 : Nat} {c : Nat} {i : Nat}
    (hs : Acts ps z s) (hp : ∀ p ∈ ([.draws, .regs, .mem, .units, .weights, .log, .outbox] : List Part), p ∈ ps) :
    Acts ps z (State.stageLive s a1 c i) := by
  unfold State.stageLive
  repeat' first
    | with_reducible assumption | with_reducible refine State.loseState_acts ?_ (inside hp (by decide))
    | with_reducible refine State.noteRead_acts ?_ (inside hp (by decide))
    | with_reducible refine State.writeMem_acts ?_ (inside hp (by decide)) | extract_lets | with_reducible refine Acts.ite ?_ ?_
    | dsimp +zetaDelta only

theorem State.stageAhead_acts {ps : List Part} {z : State} {s : State} {a1 : Nat} {c : Nat}
    (hs : Acts ps z s) (hp : ∀ p ∈ ([.draws, .regs, .mem, .units, .weights, .log, .outbox] : List Part), p ∈ ps) :
    Acts ps z (State.stageAhead s a1 c) := by
  unfold State.stageAhead
  repeat' first
    | with_reducible assumption | with_reducible refine State.stageLive_acts ?_ (inside hp (by decide))
    | with_reducible refine Acts.foldl ?_ ?_ | with_reducible refine Acts.foldl_snd ?_ ?_ | intro _ | with_reducible refine Acts.ite ?_ ?_
    | dsimp only

theorem State.applyBlock_acts {ps : List Part} {z : State} {s : State} {a1 : Nat} {c : Nat} {i : Nat} {live : Nat} {gs : List Fp} {places : List NarrowPlace}
    (hs : Acts ps z s) (hp : ∀ p ∈ ([.draws, .regs, .mem, .units, .weights, .log, .outbox] : List Part), p ∈ ps) :
    Acts ps z (State.applyBlock s a1 c i live gs places).1 := by
  unfold State.applyBlock
  repeat' first
    | with_reducible assumption | with_reducible refine State.putNarrow_acts ?_ (inside hp (by decide))
    | with_reducible refine State.loseState_acts ?_ (inside hp (by decide))
    | with_reducible refine State.writeMem_acts ?_ (inside hp (by decide))
    | with_reducible refine State.noteRead_acts ?_ (inside hp (by decide))
    | with_reducible refine State.sat32_acts ?_ (inside hp (by decide))
    | with_reducible refine State.raise_acts ?_ (inside hp (by decide))
    | with_reducible refine State.add64_acts ?_ (inside hp (by decide)) | with_reducible refine Acts.foldl ?_ ?_
    | with_reducible refine Acts.foldl_fst ?_ ?_ | with_reducible refine Acts.foldl_snd ?_ ?_ | extract_lets | intro _
    | with_reducible refine Acts.ite ?_ ?_ | split | dsimp only | dsimp +zetaDelta only

theorem State.openShadow_acts {ps : List Part} {z : State} {s : State} {a1 : Nat} {c : Nat}
    (hs : Acts ps z s) (hp : ∀ p ∈ ([.draws, .regs, .mem, .weights, .log, .outbox] : List Part), p ∈ ps) :
    Acts ps z (State.openShadow s a1 c) := by
  unfold State.openShadow
  repeat' first
    | with_reducible assumption | with_reducible refine State.putSlotHeader_acts ?_ (inside hp (by decide))
    | with_reducible refine State.noteShadow_acts ?_ (inside hp (by decide))
    | with_reducible refine State.setNext_acts ?_ (inside hp (by decide)) | extract_lets | dsimp +zetaDelta only

theorem State.closeShadow_acts {ps : List Part} {z : State} {s : State} {a1 : Nat} {c : Nat} {step : Nat}
    (hs : Acts ps z s) (hp : ∀ p ∈ ([.draws, .regs, .mem, .weights, .log, .outbox] : List Part), p ∈ ps) :
    Acts ps z (State.closeShadow s a1 c step) := by
  unfold State.closeShadow
  repeat' first
    | with_reducible assumption | with_reducible refine State.putSlotHeader_acts ?_ (inside hp (by decide))
    | with_reducible refine State.noteShadow_acts ?_ (inside hp (by decide)) | extract_lets | with_reducible refine Acts.ite ?_ ?_
    | dsimp +zetaDelta only

theorem State.applyBlocks_acts {ps : List Part} {z : State} {s : State} {c : Cmd} {t : State}
    (hs : Acts ps z s) (ht : Acts ps z t) (hp : ∀ p ∈ ([.draws, .regs, .mem, .units, .weights, .log, .outbox] : List Part), p ∈ ps) :
    Acts ps z (State.applyBlocks s c t).1 := by
  unfold State.applyBlocks
  repeat' first
    | with_reducible assumption | with_reducible refine State.applyBlock_acts ?_ (inside hp (by decide))
    | with_reducible refine State.setNext_acts ?_ (inside hp (by decide)) | with_reducible refine Acts.foldl ?_ ?_
    | with_reducible refine Acts.foldl_fst ?_ ?_ | with_reducible refine Acts.foldl_snd ?_ ?_ | extract_lets | intro _
    | with_reducible refine Acts.ite ?_ ?_ | split | dsimp only | dsimp +zetaDelta only

theorem State.updateApply_acts {ps : List Part} {z : State} {s : State} {c : Cmd}
    (hs : Acts ps z s) (hp : ∀ p ∈ ([.draws, .regs, .mem, .queues, .cmds, .units, .weights, .log, .outbox] : List Part), p ∈ ps) :
    Acts ps z (State.updateApply s c) := by
  unfold State.updateApply
  repeat' first
    | with_reducible assumption | with_reducible refine State.applyBlocks_acts ?_ ?_ (inside hp (by decide))
    | with_reducible refine State.closeShadow_acts ?_ (inside hp (by decide))
    | with_reducible refine State.noteRanges_acts ?_ (inside hp (by decide))
    | with_reducible refine State.openShadow_acts ?_ (inside hp (by decide))
    | with_reducible refine State.checkLive_acts ?_ (inside hp (by decide))
    | with_reducible refine State.updCmd_acts ?_ (inside hp (by decide))
    | with_reducible refine State.finish_acts ?_ (inside hp (by decide))
    | with_reducible refine State.refuse_acts ?_ (inside hp (by decide)) | extract_lets | intro _ | with_reducible refine Acts.ite ?_ ?_
    | split | dsimp only | dsimp +zetaDelta only

theorem State.updateCommit_acts {ps : List Part} {z : State} {s : State} {c : Cmd}
    (hs : Acts ps z s) (hp : ∀ p ∈ ([.regs, .queues, .cmds, .keepsake, .log, .outbox] : List Part), p ∈ ps) :
    Acts ps z (State.updateCommit s c) := by
  unfold State.updateCommit
  repeat' first
    | with_reducible assumption | with_reducible refine State.noteShadow_acts ?_ (inside hp (by decide))
    | with_reducible refine State.setLane_acts ?_ (inside hp (by decide))
    | with_reducible refine State.refuse_acts ?_ (inside hp (by decide))
    | with_reducible refine State.finish_acts ?_ (inside hp (by decide)) | with_reducible refine Acts.foldl ?_ ?_ | extract_lets | intro _
    | with_reducible refine Acts.ite ?_ ?_ | split | dsimp only | dsimp +zetaDelta only

theorem execUpdate_acts {c : CmdRef} {hv : HostView} {s : State} {t : State} (e : execUpdate c hv s = .next t) :
    Acts [.draws, .power, .regs, .mem, .host, .queues, .cmds, .units, .weights, .keepsake, .log, .outbox] s t := by
  unfold execUpdate at e
  refine runs_acts (qs := [.draws, .power, .regs, .mem, .host, .queues, .cmds, .units, .weights, .keepsake, .log, .outbox, .acting]) (by decide) (fun ps hs hp => ?_) e
  repeat' first
    | with_reducible assumption | with_reducible refine State.startCompute_acts ?_ ?_ (inside hp (by decide))
    | with_reducible refine State.updateCommit_acts ?_ (inside hp (by decide))
    | with_reducible refine State.updateApply_acts ?_ (inside hp (by decide))
    | with_reducible refine State.sees_acts ?_ (inside hp (by decide)) | intro _ | with_reducible refine Acts.ite ?_ ?_ | dsimp only

theorem State.checkpoint_acts {ps : List Part} {z : State} {s : State} {c : Cmd}
    (hs : Acts ps z s) (hp : ∀ p ∈ ([.draws, .regs, .mem, .queues, .cmds, .units, .weights, .trains, .log, .outbox] : List Part), p ∈ ps) :
    Acts ps z (State.checkpoint s c) := by
  unfold State.checkpoint
  repeat' first
    | with_reducible assumption | with_reducible refine State.noteRanges_acts ?_ (inside hp (by decide))
    | with_reducible refine State.checkLive_acts ?_ (inside hp (by decide))
    | with_reducible refine State.refuse_acts ?_ (inside hp (by decide))
    | with_reducible refine State.finish_acts ?_ (inside hp (by decide)) | extract_lets | intro _ | with_reducible refine Acts.ite ?_ ?_
    | split | dsimp only | with_reducible refine Acts.set_exports ?_ (hp _ (by decide)) | dsimp +zetaDelta only

theorem execCheckpoint_acts {c : CmdRef} {hv : HostView} {s : State} {t : State} (e : execCheckpoint c hv s = .next t) :
    Acts [.draws, .regs, .mem, .host, .queues, .cmds, .units, .weights, .trains, .log, .outbox] s t := by
  unfold execCheckpoint at e
  refine runs_acts (qs := [.draws, .regs, .mem, .host, .queues, .cmds, .units, .weights, .trains, .log, .outbox, .acting]) (by decide) (fun ps hs hp => ?_) e
  repeat' first
    | with_reducible assumption | with_reducible refine State.checkpoint_acts ?_ (inside hp (by decide))
    | with_reducible refine State.start_acts ?_ ?_ (inside hp (by decide))
    | with_reducible refine State.sees_acts ?_ (inside hp (by decide)) | intro _ | dsimp only

theorem State.exportDone_acts {ps : List Part} {z : State} {s : State} {x : Nat}
    (hs : Acts ps z s) (hp : ∀ p ∈ ([.draws, .regs, .mem, .host, .queues, .weights, .trains, .logbook, .log, .outbox] : List Part), p ∈ ps) :
    Acts ps z (State.exportDone s x) := by
  unfold State.exportDone
  repeat' first
    | with_reducible assumption | with_reducible refine State.writePlace_acts ?_ (inside hp (by decide))
    | with_reducible refine State.report_acts ?_ (inside hp (by decide)) | extract_lets | intro _ | with_reducible refine Acts.ite ?_ ?_
    | split | dsimp only | with_reducible refine Acts.set_exports ?_ (hp _ (by decide)) | dsimp +zetaDelta only

theorem execCheckpointExportDone_acts {ctx : Nat} {now : Nat} {hv : HostView} {s : State} {t : State} (e : execCheckpointExportDone ctx now hv s = .next t) :
    Acts [.draws, .clock, .regs, .mem, .host, .queues, .weights, .trains, .logbook, .log, .outbox] s t := by
  unfold execCheckpointExportDone at e
  refine runs_acts (qs := [.draws, .clock, .regs, .mem, .host, .queues, .weights, .trains, .logbook, .log, .outbox]) (by decide) (fun ps hs hp => ?_) e
  repeat' first
    | with_reducible assumption | with_reducible refine State.exportDone_acts ?_ (inside hp (by decide))
    | with_reducible refine State.sees_acts ?_ (inside hp (by decide)) | with_reducible refine State.at_acts ?_ (inside hp (by decide))
    | intro _ | dsimp only

theorem State.checkpointImport_acts {ps : List Part} {z : State} {s : State} {c : Cmd}
    (hs : Acts ps z s) (hp : ∀ p ∈ ([.draws, .regs, .mem, .queues, .cmds, .units, .weights, .logbook, .keepsake, .log, .outbox] : List Part), p ∈ ps) :
    Acts ps z (State.checkpointImport s c) := by
  unfold State.checkpointImport
  repeat' first
    | with_reducible assumption | with_reducible refine State.recordHostRead_acts ?_ (inside hp (by decide))
    | with_reducible refine State.putSlotHeader_acts ?_ (inside hp (by decide))
    | with_reducible refine State.noteShadow_acts ?_ (inside hp (by decide))
    | with_reducible refine State.setCtxBit_acts ?_ (inside hp (by decide))
    | with_reducible refine State.checkLive_acts ?_ (inside hp (by decide))
    | with_reducible refine State.loseState_acts ?_ (inside hp (by decide))
    | with_reducible refine State.writeMem_acts ?_ (inside hp (by decide))
    | with_reducible refine State.setLane_acts ?_ (inside hp (by decide))
    | with_reducible refine State.finish_acts ?_ (inside hp (by decide))
    | with_reducible refine State.refuse_acts ?_ (inside hp (by decide))
    | with_reducible refine State.raise_acts ?_ (inside hp (by decide)) | with_reducible refine Acts.foldl ?_ ?_
    | with_reducible refine Acts.foldl_fst ?_ ?_ | with_reducible refine Acts.foldl_snd ?_ ?_ | extract_lets | intro _
    | with_reducible refine Acts.ite ?_ ?_ | split | dsimp only | dsimp +zetaDelta only

theorem execCheckpointImport_acts {c : CmdRef} {hv : HostView} {s : State} {t : State} (e : execCheckpointImport c hv s = .next t) :
    Acts [.draws, .regs, .mem, .host, .queues, .cmds, .units, .weights, .logbook, .keepsake, .log, .outbox] s t := by
  unfold execCheckpointImport at e
  refine runs_acts (qs := [.draws, .regs, .mem, .host, .queues, .cmds, .units, .weights, .logbook, .keepsake, .log, .outbox, .acting]) (by decide) (fun ps hs hp => ?_) e
  repeat' first
    | with_reducible assumption | with_reducible refine State.checkpointImport_acts ?_ (inside hp (by decide))
    | with_reducible refine State.start_acts ?_ ?_ (inside hp (by decide))
    | with_reducible refine State.sees_acts ?_ (inside hp (by decide)) | intro _ | dsimp only

end Sys2Proof.Machine
end

