-- ==== Sys2Proof/Laws/ActsCollectives.lean ====
section
/-! SUPPORT. What the operations of Machine/Collectives.lean may do (Laws/Acts.lean): the parts each may change, the invariant kept. -/

namespace Sys2Proof.Machine

open Sys2Proof

theorem State.updGroup_acts {ps : List Part} {z : State} {s : State} {g : Nat} {f : CollGroup → CollGroup}
    (hs : Acts ps z s) (hp : ∀ p ∈ ([.colls] : List Part), p ∈ ps) :
    Acts ps z (State.updGroup s g f) := by
  unfold State.updGroup
  repeat' first
    | with_reducible assumption | with_reducible refine Acts.set_groups ?_ (hp _ (by decide))

theorem State.updColl_acts {ps : List Part} {z : State} {s : State} {c : Cmd} {f : Coll → Coll}
    (hs : Acts ps z s) (hp : ∀ p ∈ ([.colls] : List Part), p ∈ ps) :
    Acts ps z (State.updColl s c f) := by
  unfold State.updColl
  repeat' first
    | with_reducible assumption | intro _ | dsimp only | with_reducible refine Acts.set_colls ?_ (hp _ (by decide))

theorem State.openColl_acts {ps : List Part} {z : State} {s : State} {c : Cmd} {o : CollOwner}
    (hs : Acts ps z s) (hp : ∀ p ∈ ([.cmds, .colls] : List Part), p ∈ ps) :
    Acts ps z (State.openColl s c o) := by
  unfold State.openColl
  repeat' first
    | with_reducible assumption | with_reducible refine State.running_acts ?_ (inside hp (by decide)) | extract_lets | split
    | with_reducible refine Acts.set_colls ?_ (hp _ (by decide)) | dsimp +zetaDelta only

theorem State.closeColl_acts {ps : List Part} {z : State} {s : State} {k : Coll} {st : Nat} {r0 : Nat} {r1 : Nat}
    (hs : Acts ps z s) (hp : ∀ p ∈ ([.regs, .cmds, .colls, .turns, .lockage] : List Part), p ∈ ps) :
    Acts ps z (State.closeColl s k st r0 r1) := by
  unfold State.closeColl
  repeat' first
    | with_reducible assumption | with_reducible refine State.failTurn_acts ?_ (inside hp (by decide))
    | with_reducible refine State.updColl_acts ?_ (inside hp (by decide))
    | with_reducible refine State.finish_acts ?_ (inside hp (by decide))
    | with_reducible refine State.add64_acts ?_ (inside hp (by decide)) | extract_lets | intro _ | with_reducible refine Acts.ite ?_ ?_
    | split | dsimp only | with_reducible refine Acts.set_colls ?_ (hp _ (by decide)) | dsimp +zetaDelta only

theorem State.sendColl_acts {ps : List Part} {z : State} {s : State} {c : Cmd} {p : Nat} {vc : Nat} {cls : Nat} {body : List Byte} {poison : List (Nat × Nat)}
    (hs : Acts ps z s) (hp : ∀ p ∈ ([.regs, .cmds, .links, .colls, .mgmt, .outbox] : List Part), p ∈ ps) :
    Acts ps z (State.sendColl s c p vc cls body poison) := by
  unfold State.sendColl
  repeat' first
    | with_reducible assumption | with_reducible refine State.sendMessage_acts ?_ (inside hp (by decide))
    | with_reducible refine State.updColl_acts ?_ (inside hp (by decide))
    | with_reducible refine State.updCmd_acts ?_ (inside hp (by decide)) | extract_lets | intro _ | dsimp only | dsimp +zetaDelta only

theorem State.sendAbort_acts {ps : List Part} {z : State} {s : State} {p : Nat} {g : Nat} {seq : Nat} {st : Nat} {member : Nat}
    (hs : Acts ps z s) (hp : ∀ p ∈ ([.regs, .links, .mgmt, .outbox] : List Part), p ∈ ps) :
    Acts ps z (State.sendAbort s p g seq st member) := by
  unfold State.sendAbort
  repeat' first
    | with_reducible assumption | with_reducible refine State.sendMessage_acts ?_ (inside hp (by decide))
    | with_reducible refine Acts.ite ?_ ?_ | dsimp only

theorem State.endColl_acts {ps : List Part} {z : State} {s : State} {k : Coll} {st : Nat} {r1 : Nat}
    (hs : Acts ps z s) (hp : ∀ p ∈ ([.draws, .regs, .mem, .cmds, .colls, .turns, .lockage] : List Part), p ∈ ps) :
    Acts ps z (State.endColl s k st r1) := by
  unfold State.endColl
  repeat' first
    | with_reducible assumption | with_reducible refine State.closeColl_acts ?_ (inside hp (by decide))
    | with_reducible refine State.undefine_acts ?_ (inside hp (by decide)) | with_reducible refine Acts.foldl ?_ ?_
    | with_reducible refine Acts.foldl_fst ?_ ?_ | with_reducible refine Acts.foldl_snd ?_ ?_ | intro _ | dsimp only

theorem State.failColl_acts {ps : List Part} {z : State} {s : State} {k : Coll} {st : Nat} {r1 : Nat}
    (hs : Acts ps z s) (hp : ∀ p ∈ ([.draws, .regs, .mem, .cmds, .links, .colls, .turns, .lockage, .mgmt, .outbox] : List Part), p ∈ ps) :
    Acts ps z (State.failColl s k st r1) := by
  unfold State.failColl
  repeat' first
    | with_reducible assumption | with_reducible refine State.sendAbort_acts ?_ (inside hp (by decide))
    | with_reducible refine State.endColl_acts ?_ (inside hp (by decide))
    | with_reducible refine State.raise_acts ?_ (inside hp (by decide))
    | with_reducible refine State.sat32_acts ?_ (inside hp (by decide)) | extract_lets | with_reducible refine Acts.ite ?_ ?_
    | dsimp +zetaDelta only

theorem State.failRead_acts {ps : List Part} {z : State} {s : State} {k : Coll} {src : List (Nat × Nat)} {st : Nat}
    (hs : Acts ps z s) (hp : ∀ p ∈ ([.draws, .regs, .mem, .cmds, .units, .weights, .links, .colls, .turns, .lockage, .mgmt, .log, .outbox] : List Part), p ∈ ps) :
    Acts ps z (State.failRead s k src st) := by
  unfold State.failRead
  repeat' first
    | with_reducible assumption | with_reducible refine State.poisonRanges_acts ?_ (inside hp (by decide))
    | with_reducible refine State.noteRanges_acts ?_ (inside hp (by decide))
    | with_reducible refine State.failColl_acts ?_ (inside hp (by decide)) | extract_lets | intro _ | with_reducible refine Acts.ite ?_ ?_
    | dsimp only | dsimp +zetaDelta only

theorem State.startColl_acts {ps : List Part} {z : State} {s : State} {c : Cmd} {fails : List (Option Refuse)} {ready : Bool} {run : State → State}
    (hs : Acts ps z s) (hrun : ∀ (x0 : State), Acts ps z x0 → Acts ps z (run x0)) (hp : ∀ p ∈ ([.regs, .queues, .cmds, .log, .outbox] : List Part), p ∈ ps) :
    Acts ps z (State.startColl s c fails ready run) := by
  unfold State.startColl
  repeat' first
    | with_reducible assumption | with_reducible refine State.refuse_acts ?_ (inside hp (by decide))
    | with_reducible refine State.finish_acts ?_ (inside hp (by decide)) | with_reducible refine hrun _ ?_
    | with_reducible refine Acts.ite ?_ ?_ | split

theorem State.settleColls_acts {ps : List Part} {z : State} {s : State}
    (hs : Acts ps z s) (hp : ∀ p ∈ ([.regs, .cmds, .colls, .turns, .lockage] : List Part), p ∈ ps) :
    Acts ps z (State.settleColls s) := by
  unfold State.settleColls
  repeat' first
    | with_reducible assumption | with_reducible refine State.closeColl_acts ?_ (inside hp (by decide))
    | with_reducible refine Acts.foldl ?_ ?_ | intro _ | with_reducible refine Acts.ite ?_ ?_ | dsimp only

theorem State.putPiece_acts {ps : List Part} {z : State} {s : State} {src : Nat} {dst : Nat} {base : Nat} {total : Nat} {first : Nat} {count : Nat} {bs : List Byte}
    (hs : Acts ps z s) (hp : ∀ p ∈ ([.draws, .regs, .mem, .weights, .log, .outbox] : List Part), p ∈ ps) :
    Acts ps z (State.putPiece s src dst base total first count bs) := by
  unfold State.putPiece
  repeat' first
    | with_reducible assumption | with_reducible refine State.writeMem_acts ?_ (inside hp (by decide)) | extract_lets | intro _
    | with_reducible refine Acts.ite ?_ ?_ | dsimp only | dsimp +zetaDelta only

theorem State.gatherRun_acts {ps : List Part} {z : State} {s : State} {c : Cmd} {o : CollOwner} {version : Nat}
    (hs : Acts ps z s) (hp : ∀ p ∈ ([.draws, .regs, .mem, .cmds, .units, .weights, .links, .colls, .turns, .lockage, .mgmt, .log, .outbox] : List Part), p ∈ ps) :
    Acts ps z (State.gatherRun s c o version) := by
  unfold State.gatherRun
  repeat' first
    | with_reducible assumption | with_reducible refine State.settleColls_acts ?_ (inside hp (by decide))
    | with_reducible refine State.openColl_acts ?_ (inside hp (by decide))
    | with_reducible refine State.putPiece_acts ?_ (inside hp (by decide))
    | with_reducible refine State.sendColl_acts ?_ (inside hp (by decide))
    | with_reducible refine State.failRead_acts ?_ (inside hp (by decide)) | with_reducible refine Acts.foldl ?_ ?_ | extract_lets
    | intro _ | with_reducible refine Acts.ite ?_ ?_ | split | dsimp only | dsimp +zetaDelta only

theorem execGather_acts {c : CmdRef} {hv : HostView} {s : State} {t : State} (e : execGather c hv s = .next t) :
    Acts [.draws, .power, .regs, .mem, .host, .queues, .cmds, .units, .weights, .links, .colls, .turns, .lockage, .mgmt, .log, .outbox] s t := by
  unfold execGather at e
  refine runs_acts (qs := [.draws, .power, .regs, .mem, .host, .queues, .cmds, .units, .weights, .links, .colls, .turns, .lockage, .mgmt, .log, .outbox, .acting]) (by decide) (fun ps hs hp => ?_) e
  repeat' first
    | with_reducible assumption | with_reducible refine State.gatherRun_acts ?_ (inside hp (by decide))
    | with_reducible refine State.startColl_acts ?_ ?_ (inside hp (by decide))
    | with_reducible refine State.onRing_acts ?_ ?_ (inside hp (by decide))
    | with_reducible refine State.start_acts ?_ ?_ (inside hp (by decide))
    | with_reducible refine State.sees_acts ?_ (inside hp (by decide)) | intro _ | with_reducible refine Acts.ite ?_ ?_ | dsimp only

theorem State.consume_acts {ps : List Part} {z : State} {s : State} {p : Nat} {m : Msg}
    (hs : Acts ps z s) (hp : ∀ p ∈ ([.links, .mgmt, .outbox] : List Part), p ∈ ps) :
    Acts ps z (State.consume s p m) := by
  unfold State.consume
  repeat' first
    | with_reducible assumption | with_reducible refine State.returnCredits_acts ?_ (inside hp (by decide))
    | with_reducible refine State.updPort_acts ?_ (inside hp (by decide)) | intro _ | dsimp only

theorem State.staleColl_acts {ps : List Part} {z : State} {s : State}
    (hs : Acts ps z s) (hp : ∀ p ∈ ([.regs, .outbox] : List Part), p ∈ ps) :
    Acts ps z (State.staleColl s) := by
  unfold State.staleColl
  repeat' first
    | with_reducible assumption | with_reducible refine State.sat32_acts ?_ (inside hp (by decide))
    | with_reducible refine State.raise_acts ?_ (inside hp (by decide))

theorem State.onColl_acts {ps : List Part} {z : State} {s : State} {p : Nat} {cls : Nat} {f : State → Coll → Msg → State}
    (hs : Acts ps z s) (hf : ∀ (x0 : State) (x1 : Coll) (x2 : Msg), Acts ps z x0 → Acts ps z (f x0 x1 x2)) (hp : ∀ p ∈ ([.draws, .regs, .mem, .cmds, .links, .colls, .turns, .lockage, .mgmt, .outbox, .acting] : List Part), p ∈ ps) :
    Acts ps z (State.onColl s p cls f) := by
  unfold State.onColl
  repeat' first
    | with_reducible assumption | with_reducible refine State.staleColl_acts ?_ (inside hp (by decide))
    | with_reducible refine State.failColl_acts ?_ (inside hp (by decide))
    | with_reducible refine State.consume_acts ?_ (inside hp (by decide))
    | with_reducible refine State.updColl_acts ?_ (inside hp (by decide))
    | with_reducible refine State.actAs_acts ?_ (inside hp (by decide)) | with_reducible refine hf _ _ _ ?_ | extract_lets | intro _
    | with_reducible refine Acts.ite ?_ ?_ | split | dsimp only | dsimp +zetaDelta only

theorem State.gatherPiece_acts {ps : List Part} {z : State} {s : State} {p : Nat}
    (hs : Acts ps z s) (hp : ∀ p ∈ ([.draws, .regs, .mem, .cmds, .weights, .links, .colls, .turns, .lockage, .mgmt, .log, .outbox, .acting] : List Part), p ∈ ps) :
    Acts ps z (State.gatherPiece s p) := by
  unfold State.gatherPiece
  repeat' first
    | with_reducible assumption | with_reducible refine State.poisonRanges_acts ?_ (inside hp (by decide))
    | with_reducible refine State.settleColls_acts ?_ (inside hp (by decide))
    | with_reducible refine State.sendColl_acts ?_ (inside hp (by decide))
    | with_reducible refine State.putPiece_acts ?_ (inside hp (by decide))
    | with_reducible refine State.failColl_acts ?_ (inside hp (by decide))
    | with_reducible refine State.updColl_acts ?_ (inside hp (by decide))
    | with_reducible refine State.onColl_acts ?_ ?_ (inside hp (by decide)) | with_reducible refine Acts.foldl ?_ ?_
    | with_reducible refine Acts.foldl_fst ?_ ?_ | with_reducible refine Acts.foldl_snd ?_ ?_ | extract_lets | intro _
    | with_reducible refine Acts.ite ?_ ?_ | dsimp only | dsimp +zetaDelta only

theorem execGatherPiece_acts {p : Nat} {now : Nat} {s : State} {t : State} (e : execGatherPiece p now s = .next t) :
    Acts [.draws, .clock, .power, .regs, .mem, .cmds, .weights, .links, .colls, .turns, .lockage, .mgmt, .log, .outbox] s t := by
  unfold execGatherPiece at e
  refine runs_acts (qs := [.draws, .clock, .power, .regs, .mem, .cmds, .weights, .links, .colls, .turns, .lockage, .mgmt, .log, .outbox, .acting]) (by decide) (fun ps hs hp => ?_) e
  repeat' first
    | with_reducible assumption | with_reducible refine State.gatherPiece_acts ?_ (inside hp (by decide))
    | with_reducible refine State.onRing_acts ?_ ?_ (inside hp (by decide))
    | with_reducible refine State.at_acts ?_ (inside hp (by decide)) | extract_lets | intro _ | with_reducible refine Acts.ite ?_ ?_
    | dsimp only | dsimp +zetaDelta only

theorem State.addReceived_acts {ps : List Part} {z : State} {s : State} {c : Cmd} {received : GtBlock} {own : GtBlock}
    (hs : Acts ps z s) (hp : ∀ p ∈ ([.draws, .regs, .units, .outbox] : List Part), p ∈ ps) :
    Acts ps z (State.addReceived s c received own).2 := by
  unfold State.addReceived
  repeat' first
    | with_reducible assumption | with_reducible refine State.noteResidue_acts ?_ (inside hp (by decide))
    | with_reducible refine State.draw_acts ?_ (inside hp (by decide)) | extract_lets | with_reducible refine Acts.ite ?_ ?_ | split
    | dsimp only | with_reducible refine Acts.set_units ?_ (hp _ (by decide)) | dsimp +zetaDelta only

theorem State.putFinal_acts {ps : List Part} {z : State} {s : State} {c : Cmd} {first : Nat} {bs : List GtBlock}
    (hs : Acts ps z s) (hp : ∀ p ∈ ([.draws, .regs, .mem, .weights, .colls, .log, .outbox] : List Part), p ∈ ps) :
    Acts ps z (State.putFinal s c first bs) := by
  unfold State.putFinal
  repeat' first
    | with_reducible assumption | with_reducible refine State.writeMem_acts ?_ (inside hp (by decide))
    | with_reducible refine State.updColl_acts ?_ (inside hp (by decide)) | with_reducible refine Acts.foldl ?_ ?_
    | with_reducible refine Acts.foldl_fst ?_ ?_ | with_reducible refine Acts.foldl_snd ?_ ?_ | extract_lets | intro _
    | with_reducible refine Acts.ite ?_ ?_ | dsimp only | dsimp +zetaDelta only

theorem State.passBlocks_acts {ps : List Part} {z : State} {s : State} {c : Cmd} {sh : Nat} {n : Nat}
    (hs : Acts ps z s) (hp : ∀ p ∈ ([.colls] : List Part), p ∈ ps) :
    Acts ps z (State.passBlocks s c sh n) := by
  unfold State.passBlocks
  repeat' first
    | with_reducible assumption | with_reducible refine State.updColl_acts ?_ (inside hp (by decide)) | intro _ | dsimp only

/-- What holds of the state that a fold with an early end carries. -/
def Carries (P : State → Prop) : Except (State × Nat × Nat × Nat) State → Prop
  | .ok t => P t
  | .error e => P e.1

theorem State.chainsRun_acts {ps : List Part} {z : State} {s : State} {c : Cmd}
    (hs : Acts ps z s) (hp : ∀ p ∈ ([.draws, .regs, .mem, .cmds, .units, .weights, .links, .colls, .turns, .lockage, .mgmt, .log, .outbox] : List Part), p ∈ ps) :
    Acts ps z (State.chainsRun s c) := by
  unfold State.chainsRun
  extract_lets n sh blocks one t
  have ht : Acts ps z t := State.updColl_acts hs (inside hp (by decide))
  have step : ∀ a i, Carries (Acts ps z) a → Carries (Acts ps z) (one a i) := by
    intro a i h
    cases a with
    | error e => exact h
    | ok u =>
      have h : Acts ps z u := h
      dsimp only [one]
      cases (List.range (min chainMax (blocks - i * chainMax))).mapM fun j => s.ownBlock c sh (i * chainMax + j) with
      | error st => exact h
      | ok bs =>
        dsimp only
        split
        · exact State.passBlocks_acts (State.putFinal_acts h (inside hp (by decide))) (inside hp (by decide))
        · exact State.passBlocks_acts (State.sendColl_acts h (inside hp (by decide))) (inside hp (by decide))
  have fold : ∀ (l : List Nat) a, Carries (Acts ps z) a → Carries (Acts ps z) (l.foldl one a) := by
    intro l
    induction l with
    | nil => exact fun a h => h
    | cons i l ih => exact fun a h => ih _ (step a i h)
  split
  · exact State.settleColls_acts ht (inside hp (by decide))
  · have h := fold (List.range ((blocks + chainMax - 1) / chainMax)) (.ok t) ht
    generalize List.foldl one (.ok t) (List.range ((blocks + chainMax - 1) / chainMax)) = r at h ⊢
    cases r with
    | ok u => exact State.settleColls_acts h (inside hp (by decide))
    | error e =>
      have h : Acts ps z e.1 := h
      dsimp only
      split
      · exact State.failRead_acts h (inside hp (by decide))
      · exact h

theorem State.chainMessage_acts {ps : List Part} {z : State} {s : State} {p : Nat}
    (hs : Acts ps z s) (hp : ∀ p ∈ ([.draws, .regs, .mem, .cmds, .units, .weights, .links, .colls, .turns, .lockage, .mgmt, .log, .outbox, .acting] : List Part), p ∈ ps) :
    Acts ps z (State.chainMessage s p) := by
  unfold State.chainMessage
  repeat' first
    | with_reducible assumption | with_reducible refine State.settleColls_acts ?_ (inside hp (by decide))
    | with_reducible refine State.addReceived_acts ?_ (inside hp (by decide))
    | with_reducible refine State.passBlocks_acts ?_ (inside hp (by decide))
    | with_reducible refine State.failRead_acts ?_ (inside hp (by decide))
    | with_reducible refine State.failColl_acts ?_ (inside hp (by decide))
    | with_reducible refine State.sendColl_acts ?_ (inside hp (by decide))
    | with_reducible refine State.putFinal_acts ?_ (inside hp (by decide))
    | with_reducible refine State.onColl_acts ?_ ?_ (inside hp (by decide))
    | with_reducible refine State.add64_acts ?_ (inside hp (by decide)) | with_reducible refine Acts.foldl ?_ ?_
    | with_reducible refine Acts.foldl_fst ?_ ?_ | with_reducible refine Acts.foldl_snd ?_ ?_ | extract_lets | intro _
    | with_reducible refine Acts.ite ?_ ?_ | split | dsimp only | dsimp +zetaDelta only

theorem execChainMessage_acts {p : Nat} {now : Nat} {s : State} {t : State} (e : execChainMessage p now s = .next t) :
    Acts [.draws, .clock, .power, .regs, .mem, .cmds, .units, .weights, .links, .colls, .turns, .lockage, .mgmt, .log, .outbox] s t := by
  unfold execChainMessage at e
  refine runs_acts (qs := [.draws, .clock, .power, .regs, .mem, .cmds, .units, .weights, .links, .colls, .turns, .lockage, .mgmt, .log, .outbox, .acting]) (by decide) (fun ps hs hp => ?_) e
  repeat' first
    | with_reducible assumption | with_reducible refine State.chainMessage_acts ?_ (inside hp (by decide))
    | with_reducible refine State.onRing_acts ?_ ?_ (inside hp (by decide))
    | with_reducible refine State.at_acts ?_ (inside hp (by decide)) | extract_lets | intro _ | with_reducible refine Acts.ite ?_ ?_
    | split | dsimp only | dsimp +zetaDelta only

theorem State.releaseRetained_acts {ps : List Part} {z : State} {s : State} {g : Nat} {step : Option Nat}
    (hs : Acts ps z s) (hp : ∀ p ∈ ([.colls] : List Part), p ∈ ps) :
    Acts ps z (State.releaseRetained s g step) := by
  unfold State.releaseRetained
  repeat' first
    | with_reducible assumption | with_reducible refine State.updGroup_acts ?_ (inside hp (by decide)) | intro _ | split | dsimp only

theorem State.collRelease_acts {ps : List Part} {z : State} {s : State} {v : Nat}
    (hs : Acts ps z s) (hp : ∀ p ∈ ([.colls] : List Part), p ∈ ps) :
    Acts ps z (State.collRelease s v) := by
  unfold State.collRelease
  repeat' first
    | with_reducible assumption | with_reducible refine State.releaseRetained_acts ?_ (inside hp (by decide))
    | with_reducible refine Acts.foldl ?_ ?_ | intro _ | dsimp only

theorem execCollRelease_acts {v : Word} {s : State} {t : State} (e : execCollRelease v s = .next t) :
    Acts [.colls] s t := by
  unfold execCollRelease runsHost at e
  refine runs_acts (qs := [.colls]) (by decide) (fun ps hs hp => ?_) e
  repeat' first
    | with_reducible assumption | with_reducible refine Acts.ite ?_ ?_ | with_reducible refine State.collRelease_acts ?_ (inside hp (by decide)) | intro _ | dsimp only

theorem State.putVote_acts {ps : List Part} {z : State} {s : State} {g : Nat} {v : VoteKey}
    (hs : Acts ps z s) (hp : ∀ p ∈ ([.colls] : List Part), p ∈ ps) :
    Acts ps z (State.putVote s g v) := by
  unfold State.putVote
  repeat' first
    | with_reducible assumption | with_reducible refine State.updGroup_acts ?_ (inside hp (by decide)) | intro _ | dsimp only

theorem State.sendVote_acts {ps : List Part} {z : State} {s : State} {c : Cmd} {p : Nat} {body : List Byte}
    (hs : Acts ps z s) (hp : ∀ p ∈ ([.regs, .cmds, .links, .mgmt, .outbox] : List Part), p ∈ ps) :
    Acts ps z (State.sendVote s c p body) := by
  unfold State.sendVote
  repeat' first
    | with_reducible assumption | with_reducible refine State.sendMessage_acts ?_ (inside hp (by decide))
    | with_reducible refine State.updCmd_acts ?_ (inside hp (by decide)) | intro _ | with_reducible refine Acts.ite ?_ ?_ | dsimp only

theorem State.noteResult_acts {ps : List Part} {z : State} {s : State} {g : Nat} {v : VoteKey} {r : Bool} {zeros : Nat} {lowest : Nat}
    (hs : Acts ps z s) (hp : ∀ p ∈ ([.regs, .colls, .outbox] : List Part), p ∈ ps) :
    Acts ps z (State.noteResult s g v r zeros lowest) := by
  unfold State.noteResult
  repeat' first
    | with_reducible assumption | with_reducible refine State.releaseRetained_acts ?_ (inside hp (by decide))
    | with_reducible refine State.updGroup_acts ?_ (inside hp (by decide))
    | with_reducible refine State.raise_acts ?_ (inside hp (by decide)) | extract_lets | intro _ | with_reducible refine Acts.ite ?_ ?_
    | dsimp only | dsimp +zetaDelta only

theorem State.giveResult_acts {ps : List Part} {z : State} {s : State} {g : Nat} {v : VoteKey} {r : Bool} {m : Nat} {zeros : Nat} {lowest : Nat}
    (hs : Acts ps z s) (hp : ∀ p ∈ ([.draws, .regs, .mem, .cmds, .units, .weights, .links, .colls, .turns, .lockage, .mgmt, .log, .outbox] : List Part), p ∈ ps) :
    Acts ps z (State.giveResult s g v r m zeros lowest) := by
  unfold State.giveResult
  repeat' first
    | with_reducible assumption | with_reducible refine State.chainsRun_acts ?_ (inside hp (by decide))
    | with_reducible refine State.closeColl_acts ?_ (inside hp (by decide))
    | with_reducible refine State.setNat_acts ?_ (inside hp (by decide)) | with_reducible refine Acts.foldl ?_ ?_ | extract_lets | intro _
    | with_reducible refine Acts.ite ?_ ?_ | dsimp only | dsimp +zetaDelta only

theorem State.tallyVote_acts {ps : List Part} {z : State} {s : State} {g : Nat} {n : Nat} {v : VoteKey}
    (hs : Acts ps z s) (hp : ∀ p ∈ ([.draws, .regs, .mem, .cmds, .units, .weights, .links, .colls, .turns, .lockage, .mgmt, .log, .outbox] : List Part), p ∈ ps) :
    Acts ps z (State.tallyVote s g n v) := by
  unfold State.tallyVote
  repeat' first
    | with_reducible assumption | with_reducible refine State.giveResult_acts ?_ (inside hp (by decide))
    | with_reducible refine State.noteResult_acts ?_ (inside hp (by decide))
    | with_reducible refine State.putVote_acts ?_ (inside hp (by decide)) | with_reducible refine Acts.foldl ?_ ?_
    | with_reducible refine Acts.foldl_fst ?_ ?_ | with_reducible refine Acts.foldl_snd ?_ ?_ | extract_lets | intro _
    | with_reducible refine Acts.ite ?_ ?_ | dsimp only | dsimp +zetaDelta only

theorem State.castVote_acts {ps : List Part} {z : State} {s : State} {c : Cmd}
    (hs : Acts ps z s) (hp : ∀ p ∈ ([.draws, .regs, .mem, .cmds, .units, .weights, .links, .colls, .turns, .lockage, .mgmt, .log, .outbox] : List Part), p ∈ ps) :
    Acts ps z (State.castVote s c) := by
  unfold State.castVote
  repeat' first
    | with_reducible assumption | with_reducible refine State.giveResult_acts ?_ (inside hp (by decide))
    | with_reducible refine State.tallyVote_acts ?_ (inside hp (by decide))
    | with_reducible refine State.sendVote_acts ?_ (inside hp (by decide))
    | with_reducible refine State.putVote_acts ?_ (inside hp (by decide)) | extract_lets | with_reducible refine Acts.ite ?_ ?_ | split
    | dsimp only | dsimp +zetaDelta only

theorem execVote_acts {c : CmdRef} {hv : HostView} {s : State} {t : State} (e : execVote c hv s = .next t) :
    Acts [.draws, .regs, .mem, .host, .queues, .cmds, .units, .weights, .links, .colls, .turns, .lockage, .mgmt, .log, .outbox] s t := by
  unfold execVote at e
  refine runs_acts (qs := [.draws, .regs, .mem, .host, .queues, .cmds, .units, .weights, .links, .colls, .turns, .lockage, .mgmt, .log, .outbox, .acting]) (by decide) (fun ps hs hp => ?_) e
  repeat' first
    | with_reducible assumption | with_reducible refine State.startColl_acts ?_ ?_ (inside hp (by decide))
    | with_reducible refine State.openColl_acts ?_ (inside hp (by decide))
    | with_reducible refine State.castVote_acts ?_ (inside hp (by decide))
    | with_reducible refine State.start_acts ?_ ?_ (inside hp (by decide))
    | with_reducible refine State.sees_acts ?_ (inside hp (by decide)) | intro _ | dsimp only

theorem State.relay_acts {ps : List Part} {z : State} {s : State} {p : Nat} {vc : Nat} {cls : Nat} {m : Msg} {body : List Byte}
    (hs : Acts ps z s) (hp : ∀ p ∈ ([.regs, .links, .mgmt, .outbox] : List Part), p ∈ ps) :
    Acts ps z (State.relay s p vc cls m body) := by
  unfold State.relay
  repeat' first
    | with_reducible assumption | with_reducible refine State.sendMessage_acts ?_ (inside hp (by decide)) | extract_lets
    | with_reducible refine Acts.ite ?_ ?_ | dsimp only | dsimp +zetaDelta only

theorem State.learnDecided_acts {ps : List Part} {z : State} {s : State} {g : Nat} {step : Nat}
    (hs : Acts ps z s) (hp : ∀ p ∈ ([.regs, .cmds, .colls, .turns, .lockage] : List Part), p ∈ ps) :
    Acts ps z (State.learnDecided s g step) := by
  unfold State.learnDecided
  repeat' first
    | with_reducible assumption | with_reducible refine State.releaseRetained_acts ?_ (inside hp (by decide))
    | with_reducible refine State.closeColl_acts ?_ (inside hp (by decide))
    | with_reducible refine State.updGroup_acts ?_ (inside hp (by decide)) | with_reducible refine Acts.foldl ?_ ?_ | extract_lets
    | intro _ | dsimp only | dsimp +zetaDelta only

theorem State.voteRecord_acts {ps : List Part} {z : State} {s : State} {p : Nat}
    (hs : Acts ps z s) (hp : ∀ p ∈ ([.draws, .regs, .mem, .cmds, .units, .weights, .links, .colls, .turns, .lockage, .mgmt, .log, .outbox, .acting] : List Part), p ∈ ps) :
    Acts ps z (State.voteRecord s p) := by
  unfold State.voteRecord
  repeat' first
    | with_reducible assumption | with_reducible refine State.learnDecided_acts ?_ (inside hp (by decide))
    | with_reducible refine State.tallyVote_acts ?_ (inside hp (by decide))
    | with_reducible refine State.staleColl_acts ?_ (inside hp (by decide))
    | with_reducible refine State.failColl_acts ?_ (inside hp (by decide))
    | with_reducible refine State.consume_acts ?_ (inside hp (by decide))
    | with_reducible refine State.updColl_acts ?_ (inside hp (by decide))
    | with_reducible refine State.putVote_acts ?_ (inside hp (by decide))
    | with_reducible refine State.actAs_acts ?_ (inside hp (by decide))
    | with_reducible refine State.relay_acts ?_ (inside hp (by decide)) | extract_lets | intro _ | with_reducible refine Acts.ite ?_ ?_
    | split | dsimp only | dsimp +zetaDelta only

theorem execVoteRecord_acts {p : Nat} {now : Nat} {s : State} {t : State} (e : execVoteRecord p now s = .next t) :
    Acts [.draws, .clock, .regs, .mem, .cmds, .units, .weights, .links, .colls, .turns, .lockage, .mgmt, .log, .outbox] s t := by
  unfold execVoteRecord at e
  refine runs_acts (qs := [.draws, .clock, .regs, .mem, .cmds, .units, .weights, .links, .colls, .turns, .lockage, .mgmt, .log, .outbox, .acting]) (by decide) (fun ps hs hp => ?_) e
  repeat' first
    | with_reducible assumption | with_reducible refine State.voteRecord_acts ?_ (inside hp (by decide))
    | with_reducible refine State.at_acts ?_ (inside hp (by decide)) | intro _ | dsimp only

theorem State.reduceRun_acts {ps : List Part} {z : State} {s : State} {c : Cmd} {o : CollOwner}
    (hs : Acts ps z s) (hp : ∀ p ∈ ([.draws, .regs, .mem, .cmds, .units, .weights, .links, .colls, .turns, .lockage, .mgmt, .log, .outbox] : List Part), p ∈ ps) :
    Acts ps z (State.reduceRun s c o) := by
  unfold State.reduceRun
  repeat' first
    | with_reducible assumption | with_reducible refine State.stageAhead_acts ?_ (inside hp (by decide))
    | with_reducible refine State.openShadow_acts ?_ (inside hp (by decide))
    | with_reducible refine State.checkLive_acts ?_ (inside hp (by decide))
    | with_reducible refine State.chainsRun_acts ?_ (inside hp (by decide))
    | with_reducible refine State.updGroup_acts ?_ (inside hp (by decide))
    | with_reducible refine State.openColl_acts ?_ (inside hp (by decide))
    | with_reducible refine State.castVote_acts ?_ (inside hp (by decide))
    | with_reducible refine State.failColl_acts ?_ (inside hp (by decide))
    | with_reducible refine State.updColl_acts ?_ (inside hp (by decide)) | extract_lets | intro _ | with_reducible refine Acts.ite ?_ ?_
    | split | dsimp only | dsimp +zetaDelta only

theorem execReduceScatter_acts {c : CmdRef} {hv : HostView} {s : State} {t : State} (e : execReduceScatter c hv s = .next t) :
    Acts [.draws, .regs, .mem, .host, .queues, .cmds, .units, .weights, .links, .colls, .turns, .lockage, .mgmt, .log, .outbox] s t := by
  unfold execReduceScatter at e
  refine runs_acts (qs := [.draws, .regs, .mem, .host, .queues, .cmds, .units, .weights, .links, .colls, .turns, .lockage, .mgmt, .log, .outbox, .acting]) (by decide) (fun ps hs hp => ?_) e
  repeat' first
    | with_reducible assumption | with_reducible refine State.startColl_acts ?_ ?_ (inside hp (by decide))
    | with_reducible refine State.reduceRun_acts ?_ (inside hp (by decide))
    | with_reducible refine State.start_acts ?_ ?_ (inside hp (by decide))
    | with_reducible refine State.sees_acts ?_ (inside hp (by decide)) | intro _ | dsimp only

theorem State.landPiece_acts {ps : List Part} {z : State} {s : State} {c : Cmd} {a : Nat} {bs : List Byte} {poison : List (Nat × Nat)}
    (hs : Acts ps z s) (hp : ∀ p ∈ ([.draws, .regs, .mem, .weights, .colls, .log, .outbox] : List Part), p ∈ ps) :
    Acts ps z (State.landPiece s c a bs poison) := by
  unfold State.landPiece
  repeat' first
    | with_reducible assumption | with_reducible refine State.poisonRange_acts ?_ (inside hp (by decide))
    | with_reducible refine State.staleColl_acts ?_ (inside hp (by decide))
    | with_reducible refine State.writeMem_acts ?_ (inside hp (by decide))
    | with_reducible refine State.updColl_acts ?_ (inside hp (by decide))
    | with_reducible refine State.raise_acts ?_ (inside hp (by decide)) | with_reducible refine Acts.foldl ?_ ?_
    | with_reducible refine Acts.foldl_fst ?_ ?_ | with_reducible refine Acts.foldl_snd ?_ ?_ | extract_lets | intro _
    | with_reducible refine Acts.ite ?_ ?_ | dsimp only | dsimp +zetaDelta only

theorem State.permuteRun_acts {ps : List Part} {z : State} {s : State} {c : Cmd}
    (hs : Acts ps z s) (hp : ∀ p ∈ ([.draws, .regs, .mem, .cmds, .units, .weights, .links, .colls, .turns, .lockage, .mgmt, .log, .outbox] : List Part), p ∈ ps) :
    Acts ps z (State.permuteRun s c) := by
  unfold State.permuteRun
  repeat' first
    | with_reducible assumption | with_reducible refine State.settleColls_acts ?_ (inside hp (by decide))
    | with_reducible refine State.sendMessage_acts ?_ (inside hp (by decide))
    | with_reducible refine State.landPiece_acts ?_ (inside hp (by decide))
    | with_reducible refine State.openColl_acts ?_ (inside hp (by decide))
    | with_reducible refine State.failRead_acts ?_ (inside hp (by decide))
    | with_reducible refine State.updColl_acts ?_ (inside hp (by decide))
    | with_reducible refine State.updCmd_acts ?_ (inside hp (by decide))
    | with_reducible refine State.finish_acts ?_ (inside hp (by decide)) | with_reducible refine Acts.foldl ?_ ?_
    | with_reducible refine Acts.foldl_fst ?_ ?_ | with_reducible refine Acts.foldl_snd ?_ ?_ | extract_lets | intro _ | split
    | dsimp only | dsimp +zetaDelta only

theorem execPermute_acts {c : CmdRef} {hv : HostView} {s : State} {t : State} (e : execPermute c hv s = .next t) :
    Acts [.draws, .regs, .mem, .host, .queues, .cmds, .units, .weights, .links, .colls, .turns, .lockage, .mgmt, .log, .outbox] s t := by
  unfold execPermute at e
  refine runs_acts (qs := [.draws, .regs, .mem, .host, .queues, .cmds, .units, .weights, .links, .colls, .turns, .lockage, .mgmt, .log, .outbox, .acting]) (by decide) (fun ps hs hp => ?_) e
  repeat' first
    | with_reducible assumption | with_reducible refine State.permuteRun_acts ?_ (inside hp (by decide))
    | with_reducible refine State.startColl_acts ?_ ?_ (inside hp (by decide))
    | with_reducible refine State.start_acts ?_ ?_ (inside hp (by decide))
    | with_reducible refine State.sees_acts ?_ (inside hp (by decide)) | intro _ | dsimp only

theorem State.permutePiece_acts {ps : List Part} {z : State} {s : State} {p : Nat}
    (hs : Acts ps z s) (hp : ∀ p ∈ ([.draws, .regs, .mem, .cmds, .weights, .links, .colls, .turns, .lockage, .mgmt, .log, .outbox, .acting] : List Part), p ∈ ps) :
    Acts ps z (State.permutePiece s p) := by
  unfold State.permutePiece
  repeat' first
    | with_reducible assumption | with_reducible refine State.settleColls_acts ?_ (inside hp (by decide))
    | with_reducible refine State.landPiece_acts ?_ (inside hp (by decide))
    | with_reducible refine State.onColl_acts ?_ ?_ (inside hp (by decide)) | extract_lets | intro _
    | with_reducible refine Acts.ite ?_ ?_ | dsimp only | dsimp +zetaDelta only

theorem execPermutePiece_acts {p : Nat} {now : Nat} {s : State} {t : State} (e : execPermutePiece p now s = .next t) :
    Acts [.draws, .clock, .regs, .mem, .cmds, .weights, .links, .colls, .turns, .lockage, .mgmt, .log, .outbox] s t := by
  unfold execPermutePiece at e
  refine runs_acts (qs := [.draws, .clock, .regs, .mem, .cmds, .weights, .links, .colls, .turns, .lockage, .mgmt, .log, .outbox, .acting]) (by decide) (fun ps hs hp => ?_) e
  repeat' first
    | with_reducible assumption | with_reducible refine State.permutePiece_acts ?_ (inside hp (by decide))
    | with_reducible refine State.at_acts ?_ (inside hp (by decide)) | intro _ | dsimp only

theorem State.sendRun_acts {ps : List Part} {z : State} {s : State} {c : Cmd} {o : CollOwner} {data : List Byte} {src : List (Nat × Nat)}
    (hs : Acts ps z s) (hp : ∀ p ∈ ([.draws, .regs, .mem, .cmds, .units, .weights, .links, .colls, .turns, .lockage, .mgmt, .log, .outbox] : List Part), p ∈ ps) :
    Acts ps z (State.sendRun s c o data src) := by
  unfold State.sendRun
  repeat' first
    | with_reducible assumption | with_reducible refine State.settleColls_acts ?_ (inside hp (by decide))
    | with_reducible refine State.sendColl_acts ?_ (inside hp (by decide))
    | with_reducible refine State.openColl_acts ?_ (inside hp (by decide))
    | with_reducible refine State.failRead_acts ?_ (inside hp (by decide)) | extract_lets | with_reducible refine Acts.ite ?_ ?_ | split
    | dsimp +zetaDelta only

theorem execSend_acts {c : CmdRef} {hv : HostView} {s : State} {t : State} (e : execSend c hv s = .next t) :
    Acts [.draws, .regs, .mem, .host, .queues, .cmds, .units, .weights, .links, .colls, .turns, .lockage, .mgmt, .log, .outbox] s t := by
  unfold execSend at e
  refine runs_acts (qs := [.draws, .regs, .mem, .host, .queues, .cmds, .units, .weights, .links, .colls, .turns, .lockage, .mgmt, .log, .outbox, .acting]) (by decide) (fun ps hs hp => ?_) e
  repeat' first
    | with_reducible assumption | with_reducible refine State.startColl_acts ?_ ?_ (inside hp (by decide))
    | with_reducible refine State.sendRun_acts ?_ (inside hp (by decide))
    | with_reducible refine State.start_acts ?_ ?_ (inside hp (by decide))
    | with_reducible refine State.sees_acts ?_ (inside hp (by decide)) | intro _ | dsimp only

theorem execRecv_acts {c : CmdRef} {hv : HostView} {s : State} {t : State} (e : execRecv c hv s = .next t) :
    Acts [.regs, .host, .queues, .cmds, .colls, .log, .outbox] s t := by
  unfold execRecv at e
  refine runs_acts (qs := [.regs, .host, .queues, .cmds, .colls, .log, .outbox, .acting]) (by decide) (fun ps hs hp => ?_) e
  repeat' first
    | with_reducible assumption | with_reducible refine State.startColl_acts ?_ ?_ (inside hp (by decide))
    | with_reducible refine State.openColl_acts ?_ (inside hp (by decide))
    | with_reducible refine State.start_acts ?_ ?_ (inside hp (by decide))
    | with_reducible refine State.sees_acts ?_ (inside hp (by decide)) | intro _ | dsimp only

theorem State.pipelineMessage_acts {ps : List Part} {z : State} {s : State} {p : Nat}
    (hs : Acts ps z s) (hp : ∀ p ∈ ([.draws, .regs, .mem, .cmds, .weights, .links, .colls, .turns, .lockage, .mgmt, .log, .outbox, .acting] : List Part), p ∈ ps) :
    Acts ps z (State.pipelineMessage s p) := by
  unfold State.pipelineMessage
  repeat' first
    | with_reducible assumption | with_reducible refine State.poisonRange_acts ?_ (inside hp (by decide))
    | with_reducible refine State.closeColl_acts ?_ (inside hp (by decide))
    | with_reducible refine State.staleColl_acts ?_ (inside hp (by decide))
    | with_reducible refine State.writeMem_acts ?_ (inside hp (by decide))
    | with_reducible refine State.failColl_acts ?_ (inside hp (by decide))
    | with_reducible refine State.consume_acts ?_ (inside hp (by decide))
    | with_reducible refine State.actAs_acts ?_ (inside hp (by decide)) | with_reducible refine Acts.foldl ?_ ?_
    | with_reducible refine Acts.foldl_fst ?_ ?_ | with_reducible refine Acts.foldl_snd ?_ ?_ | extract_lets | intro _
    | with_reducible refine Acts.ite ?_ ?_ | split | dsimp only | dsimp +zetaDelta only

theorem execPipelineMessage_acts {p : Nat} {now : Nat} {s : State} {t : State} (e : execPipelineMessage p now s = .next t) :
    Acts [.draws, .clock, .regs, .mem, .cmds, .weights, .links, .colls, .turns, .lockage, .mgmt, .log, .outbox] s t := by
  unfold execPipelineMessage at e
  refine runs_acts (qs := [.draws, .clock, .regs, .mem, .cmds, .weights, .links, .colls, .turns, .lockage, .mgmt, .log, .outbox, .acting]) (by decide) (fun ps hs hp => ?_) e
  repeat' first
    | with_reducible assumption | with_reducible refine State.pipelineMessage_acts ?_ (inside hp (by decide))
    | with_reducible refine State.at_acts ?_ (inside hp (by decide)) | intro _ | dsimp only

theorem State.abortNotice_acts {ps : List Part} {z : State} {s : State} {p : Nat}
    (hs : Acts ps z s) (hp : ∀ p ∈ ([.draws, .regs, .mem, .cmds, .links, .colls, .turns, .lockage, .mgmt, .outbox] : List Part), p ∈ ps) :
    Acts ps z (State.abortNotice s p) := by
  unfold State.abortNotice
  repeat' first
    | with_reducible assumption | with_reducible refine State.updGroup_acts ?_ (inside hp (by decide))
    | with_reducible refine State.consume_acts ?_ (inside hp (by decide))
    | with_reducible refine State.endColl_acts ?_ (inside hp (by decide))
    | with_reducible refine State.raise_acts ?_ (inside hp (by decide))
    | with_reducible refine State.relay_acts ?_ (inside hp (by decide)) | extract_lets | intro _ | with_reducible refine Acts.ite ?_ ?_
    | split | dsimp only | dsimp +zetaDelta only

theorem execAbortNotice_acts {p : Nat} {now : Nat} {s : State} {t : State} (e : execAbortNotice p now s = .next t) :
    Acts [.draws, .clock, .regs, .mem, .cmds, .links, .colls, .turns, .lockage, .mgmt, .outbox] s t := by
  unfold execAbortNotice at e
  refine runs_acts (qs := [.draws, .clock, .regs, .mem, .cmds, .links, .colls, .turns, .lockage, .mgmt, .outbox]) (by decide) (fun ps hs hp => ?_) e
  repeat' first
    | with_reducible assumption | with_reducible refine State.abortNotice_acts ?_ (inside hp (by decide))
    | with_reducible refine State.at_acts ?_ (inside hp (by decide)) | intro _ | dsimp only

theorem State.collLate_acts {ps : List Part} {z : State} {s : State} {g : Nat} {seq : Nat}
    (hs : Acts ps z s) (hp : ∀ p ∈ ([.draws, .regs, .mem, .cmds, .links, .colls, .turns, .lockage, .mgmt, .outbox] : List Part), p ∈ ps) :
    Acts ps z (State.collLate s g seq) := by
  unfold State.collLate
  repeat' first
    | with_reducible assumption | with_reducible refine State.failColl_acts ?_ (inside hp (by decide))
    | with_reducible refine Acts.ite ?_ ?_ | split

theorem execCollDeadline_acts {group : Nat} {seq : Nat} {now : Nat} {s : State} {t : State} (e : execCollDeadline group seq now s = .next t) :
    Acts [.draws, .clock, .regs, .mem, .cmds, .links, .colls, .turns, .lockage, .mgmt, .outbox] s t := by
  unfold execCollDeadline at e
  refine runs_acts (qs := [.draws, .clock, .regs, .mem, .cmds, .links, .colls, .turns, .lockage, .mgmt, .outbox]) (by decide) (fun ps hs hp => ?_) e
  repeat' first
    | with_reducible assumption | with_reducible refine State.collLate_acts ?_ (inside hp (by decide))
    | with_reducible refine State.at_acts ?_ (inside hp (by decide)) | intro _ | dsimp only

theorem State.collsLinkDown_acts {ps : List Part} {z : State} {s : State} {p : Nat} {lost : List Nat}
    (hs : Acts ps z s) (hp : ∀ p ∈ ([.draws, .regs, .mem, .cmds, .links, .colls, .turns, .lockage, .mgmt, .outbox] : List Part), p ∈ ps) :
    Acts ps z (State.collsLinkDown s p lost) := by
  unfold State.collsLinkDown
  repeat' first
    | with_reducible assumption | with_reducible refine State.failColl_acts ?_ (inside hp (by decide))
    | with_reducible refine Acts.foldl ?_ ?_ | intro _ | dsimp only

end Sys2Proof.Machine
end

