-- ==== Sys2Proof/Laws/ActsPave.lean ====
section
/-! SUPPORT. What the operations of Machine/Pave.lean may do (Laws/Acts.lean): the parts each may change, the invariant kept. -/

namespace Sys2Proof.Machine

open Sys2Proof

theorem State.writeOut_acts {ps : List Part} {z : State} {s : State} {p : Product} {v : Converted}
    (hs : Acts ps z s) (hp : ∀ p ∈ ([.draws, .regs, .mem, .weights, .log, .outbox] : List Part), p ∈ ps) :
    Acts ps z (State.writeOut s p v) := by
  unfold State.writeOut
  repeat' first
    | with_reducible assumption | with_reducible refine State.writeRuns_acts ?_ (inside hp (by decide))

theorem State.paveReadEvents_acts {ps : List Part} {z : State} {s : State} {a1 : List Product} {count : Nat} {w : Nat × Nat}
    (hs : Acts ps z s) (hp : ∀ p ∈ ([.regs, .outbox] : List Part), p ∈ ps) :
    Acts ps z (State.paveReadEvents s a1 count w) := by
  unfold State.paveReadEvents
  repeat' first
    | with_reducible assumption | with_reducible refine State.raise_acts ?_ (inside hp (by decide)) | extract_lets | intro _
    | with_reducible refine Acts.ite ?_ ?_ | dsimp only | dsimp +zetaDelta only

theorem State.spend_acts {ps : List Part} {z : State} {s : State} {a1 : List Product} {hold : Bool} {w : Nat × Nat}
    (hs : Acts ps z s) (hp : ∀ p ∈ ([.draws, .mem] : List Part), p ∈ ps) :
    Acts ps z (State.spend s a1 hold w) := by
  unfold State.spend
  repeat' first
    | with_reducible assumption | with_reducible refine State.undefine_acts ?_ (inside hp (by decide)) | extract_lets
    | with_reducible refine Acts.ite ?_ ?_ | split | dsimp only | dsimp +zetaDelta only

theorem State.countPasses_acts {ps : List Part} {z : State} {s : State} {c : Cmd} {a2 : List Product} {count : Nat} {w : Nat × Nat}
    (hs : Acts ps z s) (hp : ∀ p ∈ ([.regs, .units] : List Part), p ∈ ps) :
    Acts ps z (State.countPasses s c a2 count w) := by
  unfold State.countPasses
  repeat' first
    | with_reducible assumption | with_reducible refine State.add64_acts ?_ (inside hp (by decide)) | extract_lets | split | dsimp only
    | with_reducible refine Acts.set_units ?_ (hp _ (by decide)) | dsimp +zetaDelta only

theorem State.somePasses_acts {ps : List Part} {z : State} {s : State} {c : Cmd} {a2 : List Product} {count : Nat} {w : Nat × Nat}
    (hs : Acts ps z s) (hp : ∀ p ∈ ([.draws, .regs, .units] : List Part), p ∈ ps) :
    Acts ps z (State.somePasses s c a2 count w) := by
  unfold State.somePasses
  repeat' first
    | with_reducible assumption | with_reducible refine State.add64_acts ?_ (inside hp (by decide))
    | with_reducible refine State.draw_acts ?_ (inside hp (by decide)) | extract_lets | dsimp only
    | with_reducible refine Acts.set_units ?_ (hp _ (by decide)) | dsimp +zetaDelta only

theorem State.holdAcc_acts {ps : List Part} {z : State} {s : State} {t : State} {a2 : List Product} {paves : List Nat} {w : Nat × Nat}
    (hs : Acts ps z s) (ht : Acts ps z t) (hp : ∀ p ∈ ([.draws, .regs, .mem, .weights, .log, .outbox] : List Part), p ∈ ps) :
    Acts ps z (State.holdAcc s t a2 paves w) := by
  unfold State.holdAcc
  repeat' first
    | with_reducible assumption | with_reducible refine State.undefine_acts ?_ (inside hp (by decide))
    | with_reducible refine State.writeMem_acts ?_ (inside hp (by decide))
    | with_reducible refine State.set64_acts ?_ (inside hp (by decide)) | with_reducible refine Acts.foldl ?_ ?_
    | with_reducible refine Acts.foldl_fst ?_ ?_ | with_reducible refine Acts.foldl_snd ?_ ?_ | extract_lets | intro _
    | with_reducible refine Acts.ite ?_ ?_ | split | dsimp only | dsimp +zetaDelta only

theorem State.stopProducts_acts {ps : List Part} {z : State} {s : State} {c : Cmd} {a2 : List Product} {st : Nat}
    (hs : Acts ps z s) (hp : ∀ p ∈ ([.draws, .regs, .mem, .cmds, .units, .outbox] : List Part), p ∈ ps) :
    Acts ps z (State.stopProducts s c a2 st) := by
  unfold State.stopProducts
  repeat' first
    | with_reducible assumption | with_reducible refine State.poisonRanges_acts ?_ (inside hp (by decide))
    | with_reducible refine State.somePasses_acts ?_ (inside hp (by decide))
    | with_reducible refine State.finish_acts ?_ (inside hp (by decide))
    | with_reducible refine State.raise_acts ?_ (inside hp (by decide))
    | with_reducible refine State.set64_acts ?_ (inside hp (by decide))
    | with_reducible refine State.spend_acts ?_ (inside hp (by decide)) | with_reducible refine Acts.foldl ?_ ?_
    | with_reducible refine Acts.foldl_snd ?_ ?_ | extract_lets | intro _ | dsimp only | dsimp +zetaDelta only

theorem State.runPasses_acts {ps : List Part} {z : State} {s : State} {c : Cmd} {a2 : List Product}
    (hs : Acts ps z s) (hp : ∀ p ∈ ([.draws, .regs, .mem, .units, .weights, .log, .outbox] : List Part), p ∈ ps) :
    Acts ps z (State.runPasses s c a2) := by
  unfold State.runPasses
  repeat' first
    | with_reducible assumption | with_reducible refine State.countPasses_acts ?_ (inside hp (by decide))
    | with_reducible refine State.holdAcc_acts ?_ ?_ (inside hp (by decide))
    | with_reducible refine State.set64_acts ?_ (inside hp (by decide))
    | with_reducible refine State.spend_acts ?_ (inside hp (by decide)) | with_reducible refine Acts.foldl ?_ ?_
    | with_reducible refine Acts.foldl_snd ?_ ?_ | extract_lets | intro _ | with_reducible refine Acts.ite ?_ ?_ | dsimp only
    | dsimp +zetaDelta only

theorem State.noteSums_acts {ps : List Part} {z : State} {s : State} {c : Cmd} {a2 : List Product}
    (hs : Acts ps z s) (hp : ∀ p ∈ ([.regs, .units, .log, .outbox] : List Part), p ∈ ps) :
    Acts ps z (State.noteSums s c a2) := by
  unfold State.noteSums
  repeat' first
    | with_reducible assumption | with_reducible refine State.noteParity_acts ?_ (inside hp (by decide))
    | with_reducible refine Acts.foldl ?_ ?_ | with_reducible refine Acts.foldl_fst ?_ ?_ | with_reducible refine Acts.foldl_snd ?_ ?_
    | intro _ | dsimp only

theorem State.runProducts_acts {ps : List Part} {z : State} {s : State} {c : Cmd} {a2 : List Product}
    (hs : Acts ps z s) (hp : ∀ p ∈ ([.draws, .regs, .mem, .cmds, .units, .weights, .log, .outbox] : List Part), p ∈ ps) :
    Acts ps z (State.runProducts s c a2) := by
  unfold State.runProducts
  repeat' first
    | with_reducible assumption | with_reducible refine State.paveReadEvents_acts ?_ (inside hp (by decide))
    | with_reducible refine State.stopProducts_acts ?_ (inside hp (by decide))
    | with_reducible refine State.noteRanges_acts ?_ (inside hp (by decide))
    | with_reducible refine State.runPasses_acts ?_ (inside hp (by decide))
    | with_reducible refine State.writeOut_acts ?_ (inside hp (by decide))
    | with_reducible refine State.noteSums_acts ?_ (inside hp (by decide))
    | with_reducible refine State.updCmd_acts ?_ (inside hp (by decide))
    | with_reducible refine State.finish_acts ?_ (inside hp (by decide)) | with_reducible refine Acts.foldl ?_ ?_
    | with_reducible refine Acts.foldl_fst ?_ ?_ | with_reducible refine Acts.foldl_snd ?_ ?_ | extract_lets | intro _
    | with_reducible refine Acts.ite ?_ ?_ | split | dsimp only | dsimp +zetaDelta only

theorem State.dropRegions_acts {ps : List Part} {z : State} {s : State} {paves : List Nat}
    (hs : Acts ps z s) (hp : ∀ p ∈ ([.regs] : List Part), p ∈ ps) :
    Acts ps z (State.dropRegions s paves) := by
  unfold State.dropRegions
  repeat' first
    | with_reducible assumption | with_reducible refine State.set64_acts ?_ (inside hp (by decide))
    | with_reducible refine Acts.foldl ?_ ?_ | intro _ | dsimp only

theorem State.clearHeld_acts {ps : List Part} {z : State} {s : State} {c : Cmd}
    (hs : Acts ps z s) (hp : ∀ p ∈ ([.regs] : List Part), p ∈ ps) :
    Acts ps z (State.clearHeld s c) := by
  unfold State.clearHeld
  repeat' first
    | with_reducible assumption | with_reducible refine State.dropRegions_acts ?_ (inside hp (by decide))

theorem State.matmul_acts {ps : List Part} {z : State} {s : State} {c : Cmd}
    (hs : Acts ps z s) (hp : ∀ p ∈ ([.draws, .regs, .mem, .queues, .cmds, .units, .weights, .log, .outbox] : List Part), p ∈ ps) :
    Acts ps z (State.matmul s c) := by
  unfold State.matmul
  repeat' first
    | with_reducible assumption | with_reducible refine State.runProducts_acts ?_ (inside hp (by decide))
    | with_reducible refine State.clearHeld_acts ?_ (inside hp (by decide))
    | with_reducible refine State.refuse_acts ?_ (inside hp (by decide))
    | with_reducible refine State.finish_acts ?_ (inside hp (by decide)) | with_reducible refine Acts.ite ?_ ?_ | split

theorem execMatmul_acts {c : CmdRef} {hv : HostView} {s : State} {t : State} (e : execMatmul c hv s = .next t) :
    Acts [.draws, .power, .regs, .mem, .host, .queues, .cmds, .units, .weights, .log, .outbox] s t := by
  unfold execMatmul at e
  refine runs_acts (qs := [.draws, .power, .regs, .mem, .host, .queues, .cmds, .units, .weights, .log, .outbox, .acting]) (by decide) (fun ps hs hp => ?_) e
  repeat' first
    | with_reducible assumption | with_reducible refine State.startCompute_acts ?_ ?_ (inside hp (by decide))
    | with_reducible refine State.matmul_acts ?_ (inside hp (by decide))
    | with_reducible refine State.sees_acts ?_ (inside hp (by decide)) | intro _ | dsimp only

theorem State.matmulGrouped_acts {ps : List Part} {z : State} {s : State} {c : Cmd}
    (hs : Acts ps z s) (hp : ∀ p ∈ ([.draws, .regs, .mem, .queues, .cmds, .units, .weights, .log, .outbox] : List Part), p ∈ ps) :
    Acts ps z (State.matmulGrouped s c) := by
  unfold State.matmulGrouped
  repeat' first
    | with_reducible assumption | with_reducible refine State.runProducts_acts ?_ (inside hp (by decide))
    | with_reducible refine State.noteRead_acts ?_ (inside hp (by decide))
    | with_reducible refine State.refuse_acts ?_ (inside hp (by decide))
    | with_reducible refine State.finish_acts ?_ (inside hp (by decide)) | extract_lets | split | dsimp +zetaDelta only

theorem execMatmulGrouped_acts {c : CmdRef} {hv : HostView} {s : State} {t : State} (e : execMatmulGrouped c hv s = .next t) :
    Acts [.draws, .power, .regs, .mem, .host, .queues, .cmds, .units, .weights, .log, .outbox] s t := by
  unfold execMatmulGrouped at e
  refine runs_acts (qs := [.draws, .power, .regs, .mem, .host, .queues, .cmds, .units, .weights, .log, .outbox, .acting]) (by decide) (fun ps hs hp => ?_) e
  repeat' first
    | with_reducible assumption | with_reducible refine State.matmulGrouped_acts ?_ (inside hp (by decide))
    | with_reducible refine State.startCompute_acts ?_ ?_ (inside hp (by decide))
    | with_reducible refine State.sees_acts ?_ (inside hp (by decide)) | intro _ | dsimp only

end Sys2Proof.Machine
end

