-- ==== Sys2Proof/Laws/ActsMoves.lean ====
section
/-! SUPPORT. What the operations of Machine/Moves.lean may do (Laws/Acts.lean): the parts each may change, the invariant kept. -/

namespace Sys2Proof.Machine

open Sys2Proof

theorem State.undefinePlace_acts {ps : List Part} {z : State} {s : State} {p : Place} {off : Nat} {n : Nat}
    (hs : Acts ps z s) (hp : ∀ p ∈ ([.draws, .mem, .host] : List Part), p ∈ ps) :
    Acts ps z (State.undefinePlace s p off n) := by
  unfold State.undefinePlace
  repeat' first
    | with_reducible assumption | with_reducible refine State.hostWrite_acts ?_ (inside hp (by decide))
    | with_reducible refine State.undefine_acts ?_ (inside hp (by decide))
    | with_reducible refine State.draw_acts ?_ (inside hp (by decide)) | extract_lets | intro _ | split | dsimp only
    | dsimp +zetaDelta only

theorem State.markBad_acts {ps : List Part} {z : State} {s : State} {p : Place} {off : Nat} {cs : List Carried}
    (hs : Acts ps z s) (hp : ∀ p ∈ ([.draws, .mem, .host] : List Part), p ∈ ps) :
    Acts ps z (State.markBad s p off cs) := by
  unfold State.markBad
  repeat' first
    | with_reducible assumption | with_reducible refine State.undefinePlace_acts ?_ (inside hp (by decide))
    | with_reducible refine State.poisonRange_acts ?_ (inside hp (by decide))
    | with_reducible refine State.undefine_acts ?_ (inside hp (by decide)) | with_reducible refine Acts.foldl ?_ ?_
    | with_reducible refine Acts.foldl_fst ?_ ?_ | with_reducible refine Acts.foldl_snd ?_ ?_ | intro _
    | with_reducible refine Acts.ite ?_ ?_ | split | dsimp only

theorem State.putRun_acts {ps : List Part} {z : State} {s : State} {p : Place} {off : Nat} {cs : List Carried}
    (hs : Acts ps z s) (hp : ∀ p ∈ ([.draws, .regs, .mem, .host, .units, .weights, .log, .outbox] : List Part), p ∈ ps) :
    Acts ps z (State.putRun s p off cs).1 := by
  unfold State.putRun
  repeat' first
    | with_reducible assumption | with_reducible refine State.writePlace_acts ?_ (inside hp (by decide))
    | with_reducible refine State.writeAlias_acts ?_ (inside hp (by decide)) | extract_lets | with_reducible refine Acts.ite ?_ ?_ | split
    | dsimp only | dsimp +zetaDelta only

theorem State.noteSource_acts {ps : List Part} {z : State} {s : State} {b : Barge}
    (hs : Acts ps z s) (hp : ∀ p ∈ ([.draws, .regs, .mem, .units, .weights, .log, .outbox] : List Part), p ∈ ps) :
    Acts ps z (State.noteSource s b) := by
  unfold State.noteSource
  repeat' first
    | with_reducible assumption | with_reducible refine State.noteRanges_acts ?_ (inside hp (by decide))
    | with_reducible refine State.tallyReads_acts ?_ (inside hp (by decide)) | extract_lets | intro _ | split | dsimp only
    | dsimp +zetaDelta only

theorem State.runBarge_acts {ps : List Part} {z : State} {s : State} {b : Barge} {data : List (Nat × List Carried)}
    (hs : Acts ps z s) (hp : ∀ p ∈ ([.draws, .regs, .mem, .host, .units, .weights, .log, .outbox] : List Part), p ∈ ps) :
    Acts ps z (State.runBarge s b data).1 := by
  unfold State.runBarge
  repeat' first
    | with_reducible assumption | with_reducible refine State.undefinePlace_acts ?_ (inside hp (by decide))
    | with_reducible refine State.noteSource_acts ?_ (inside hp (by decide))
    | with_reducible refine State.markBad_acts ?_ (inside hp (by decide))
    | with_reducible refine State.putRun_acts ?_ (inside hp (by decide)) | with_reducible refine Acts.foldl ?_ ?_
    | with_reducible refine Acts.foldl_fst ?_ ?_ | with_reducible refine Acts.foldl_snd ?_ ?_ | extract_lets | intro _
    | with_reducible refine Acts.ite ?_ ?_ | split | dsimp only | dsimp +zetaDelta only

theorem State.runSerial_acts {ps : List Part} {z : State} {s : State} {all : List (Nat × Barge)}
    (hs : Acts ps z s) (hp : ∀ p ∈ ([.draws, .regs, .mem, .host, .units, .weights, .log, .outbox] : List Part), p ∈ ps) :
    Acts ps z (State.runSerial s all).1 := by
  unfold State.runSerial
  repeat' first
    | with_reducible assumption | with_reducible refine State.runBarge_acts ?_ (inside hp (by decide))
    | with_reducible refine Acts.foldl ?_ ?_ | with_reducible refine Acts.foldl_fst ?_ ?_ | with_reducible refine Acts.foldl_snd ?_ ?_
    | extract_lets | intro _ | dsimp only | dsimp +zetaDelta only

theorem State.settleByte_acts {ps : List Part} {z : State} {s : State} {old : Byte} {writers : List (Nat × BankView × Byte)} {d : Nat} {key : Nat × Nat}
    (hs : Acts ps z s) (hp : ∀ p ∈ ([.mem, .host] : List Part), p ∈ ps) :
    Acts ps z (State.settleByte s old writers d key) := by
  unfold State.settleByte
  extract_lets order b p
  split
  · split
    · exact hs
    · exact Acts.set_mem hs (fun q => Mem.put_wf q) (hp _ (by decide))
  · exact State.hostWrite_acts hs (inside hp (by decide))

theorem State.settleShared_acts {ps : List Part} {z : State} {s : State} {s0 : State} {d : Nat} {loads : List ((Nat × Barge) × List (Nat × List Carried))}
    (hs : Acts ps z s) (hs0 : Acts ps z s0) (hp : ∀ p ∈ ([.mem, .host] : List Part), p ∈ ps) :
    Acts ps z (State.settleShared s s0 d loads) := by
  unfold State.settleShared
  repeat' first
    | with_reducible assumption | with_reducible refine State.settleByte_acts ?_ (inside hp (by decide))
    | with_reducible refine Acts.foldl ?_ ?_ | with_reducible refine Acts.foldl_fst ?_ ?_ | with_reducible refine Acts.foldl_snd ?_ ?_
    | extract_lets | intro _ | with_reducible refine Acts.ite ?_ ?_ | dsimp only | dsimp +zetaDelta only

theorem State.runBeside_acts {ps : List Part} {z : State} {s : State} {all : List (Nat × Barge)}
    (hs : Acts ps z s) (hp : ∀ p ∈ ([.draws, .regs, .mem, .host, .units, .weights, .log, .outbox] : List Part), p ∈ ps) :
    Acts ps z (State.runBeside s all).1 := by
  unfold State.runBeside
  repeat' first
    | with_reducible assumption | with_reducible refine State.uncountedAccess_acts ?_ (inside hp (by decide))
    | with_reducible refine State.settleShared_acts ?_ ?_ (inside hp (by decide))
    | with_reducible refine State.runSerial_acts ?_ (inside hp (by decide))
    | with_reducible refine State.runBarge_acts ?_ (inside hp (by decide))
    | with_reducible refine State.draw_acts ?_ (inside hp (by decide)) | with_reducible refine Acts.foldl ?_ ?_
    | with_reducible refine Acts.foldl_fst ?_ ?_ | with_reducible refine Acts.foldl_snd ?_ ?_ | extract_lets | intro _
    | with_reducible refine Acts.ite ?_ ?_ | split | dsimp only | dsimp +zetaDelta only

theorem State.runBarges_acts {ps : List Part} {z : State} {s : State} {serial : Bool} {all : List (Nat × Barge)}
    (hs : Acts ps z s) (hp : ∀ p ∈ ([.draws, .regs, .mem, .host, .units, .weights, .log, .outbox] : List Part), p ∈ ps) :
    Acts ps z (State.runBarges s serial all).1 := by
  unfold State.runBarges
  repeat' first
    | with_reducible assumption | with_reducible refine State.runBeside_acts ?_ (inside hp (by decide))
    | with_reducible refine State.runSerial_acts ?_ (inside hp (by decide)) | with_reducible refine Acts.ite ?_ ?_ | split | dsimp only

theorem State.finishTransfers_acts {ps : List Part} {z : State} {s : State} {c : Cmd} {f : Option (Nat × Nat)}
    (hs : Acts ps z s) (hp : ∀ p ∈ ([.cmds] : List Part), p ∈ ps) :
    Acts ps z (State.finishTransfers s c f) := by
  unfold State.finishTransfers
  repeat' first
    | with_reducible assumption | with_reducible refine State.finish_acts ?_ (inside hp (by decide)) | split

theorem State.recordBarges_acts {ps : List Part} {z : State} {s : State} {c : Cmd} {bs : List Barge}
    (hs : Acts ps z s) (hp : ∀ p ∈ ([.logbook] : List Part), p ∈ ps) :
    Acts ps z (State.recordBarges s c bs) := by
  unfold State.recordBarges
  repeat' first
    | with_reducible assumption | with_reducible refine State.recordHostRead_acts ?_ (inside hp (by decide))
    | with_reducible refine Acts.foldl ?_ ?_ | with_reducible refine Acts.foldl_fst ?_ ?_ | with_reducible refine Acts.foldl_snd ?_ ?_
    | intro _ | split | dsimp only

theorem State.move_acts {ps : List Part} {z : State} {s : State} {c : Cmd}
    (hs : Acts ps z s) (hp : ∀ p ∈ ([.draws, .regs, .mem, .host, .queues, .cmds, .units, .weights, .logbook, .log, .outbox] : List Part), p ∈ ps) :
    Acts ps z (State.move s c) := by
  unfold State.move
  repeat' first
    | with_reducible assumption | with_reducible refine State.finishTransfers_acts ?_ (inside hp (by decide))
    | with_reducible refine State.recordBarges_acts ?_ (inside hp (by decide))
    | with_reducible refine State.runBarges_acts ?_ (inside hp (by decide))
    | with_reducible refine State.noteRead_acts ?_ (inside hp (by decide))
    | with_reducible refine State.finish_acts ?_ (inside hp (by decide))
    | with_reducible refine State.refuse_acts ?_ (inside hp (by decide))
    | with_reducible refine State.tally_acts ?_ (inside hp (by decide)) | extract_lets | intro _ | split | dsimp only
    | dsimp +zetaDelta only

theorem execMove_acts {c : CmdRef} {hv : HostView} {s : State} {t : State} (e : execMove c hv s = .next t) :
    Acts [.draws, .regs, .mem, .host, .queues, .cmds, .units, .weights, .logbook, .log, .outbox] s t := by
  unfold execMove at e
  refine runs_acts (qs := [.draws, .regs, .mem, .host, .queues, .cmds, .units, .weights, .logbook, .log, .outbox, .acting]) (by decide) (fun ps hs hp => ?_) e
  repeat' first
    | with_reducible assumption | with_reducible refine State.start_acts ?_ ?_ (inside hp (by decide))
    | with_reducible refine State.move_acts ?_ (inside hp (by decide)) | with_reducible refine State.sees_acts ?_ (inside hp (by decide))
    | intro _ | dsimp only

theorem State.initFill_acts {ps : List Part} {z : State} {s : State} {c : Cmd}
    (hs : Acts ps z s) (hp : ∀ p ∈ ([.draws, .regs, .mem, .queues, .cmds, .log, .outbox] : List Part), p ∈ ps) :
    Acts ps z (State.initFill s c) := by
  unfold State.initFill
  repeat' first
    | with_reducible assumption | with_reducible refine State.fillPattern_acts ?_ (inside hp (by decide))
    | with_reducible refine State.undefine_acts ?_ (inside hp (by decide))
    | with_reducible refine State.refuse_acts ?_ (inside hp (by decide))
    | with_reducible refine State.finish_acts ?_ (inside hp (by decide)) | extract_lets | exact fun q => insert_sorted q
    | exact fun q => filter_sorted q | exact fun q => Mem.forget_wf q | exact fun q => q | with_reducible refine Acts.ite ?_ ?_ | split
    | with_reducible refine Acts.set_mem ?_ ?_ (hp _ (by decide)) | dsimp +zetaDelta only

theorem execInitFill_acts {c : CmdRef} {hv : HostView} {s : State} {t : State} (e : execInitFill c hv s = .next t) :
    Acts [.draws, .regs, .mem, .host, .queues, .cmds, .log, .outbox] s t := by
  unfold execInitFill at e
  refine runs_acts (qs := [.draws, .regs, .mem, .host, .queues, .cmds, .log, .outbox, .acting]) (by decide) (fun ps hs hp => ?_) e
  repeat' first
    | with_reducible assumption | with_reducible refine State.initFill_acts ?_ (inside hp (by decide))
    | with_reducible refine State.start_acts ?_ ?_ (inside hp (by decide))
    | with_reducible refine State.sees_acts ?_ (inside hp (by decide)) | intro _ | dsimp only

theorem State.narrowAbandon_acts {ps : List Part} {z : State} {s : State} {c : Cmd} {v : Narrow} {es : List (Nat × Int)}
    (hs : Acts ps z s) (hp : ∀ p ∈ ([.draws, .mem] : List Part), p ∈ ps) :
    Acts ps z (State.narrowAbandon s c v es) := by
  unfold State.narrowAbandon
  repeat' first
    | with_reducible assumption | with_reducible refine State.undefine_acts ?_ (inside hp (by decide))
    | with_reducible refine Acts.foldl ?_ ?_ | with_reducible refine Acts.foldl_snd ?_ ?_ | intro _ | with_reducible refine Acts.ite ?_ ?_
    | dsimp only

theorem State.narrowTally_acts {ps : List Part} {z : State} {s : State} {write : Bool} {a : Nat} {n : Nat}
    (hs : Acts ps z s) (hp : ∀ p ∈ ([.mem] : List Part), p ∈ ps) :
    Acts ps z (State.narrowTally s write a n) := by
  unfold State.narrowTally
  repeat' first
    | with_reducible assumption | with_reducible refine State.narrowLine_acts ?_ (inside hp (by decide))
    | with_reducible refine State.hit_acts ?_ (inside hp (by decide)) | with_reducible refine Acts.ite ?_ ?_

theorem State.gatherOne_acts {ps : List Part} {z : State} {s : State} {v : Narrow} {a2 : Nat × Int} {bs : List Byte}
    (hs : Acts ps z s) (hp : ∀ p ∈ ([.draws, .regs, .mem, .units, .weights, .log, .outbox] : List Part), p ∈ ps) :
    Acts ps z (State.gatherOne s v a2 bs).1 := by
  unfold State.gatherOne
  repeat' first
    | with_reducible assumption | with_reducible refine State.narrowTally_acts ?_ (inside hp (by decide))
    | with_reducible refine State.poisonRange_acts ?_ (inside hp (by decide))
    | with_reducible refine State.undefine_acts ?_ (inside hp (by decide))
    | with_reducible refine State.writeMem_acts ?_ (inside hp (by decide))
    | with_reducible refine State.noteRead_acts ?_ (inside hp (by decide)) | extract_lets | with_reducible refine Acts.ite ?_ ?_ | split
    | dsimp only | dsimp +zetaDelta only

theorem State.narrowStore_acts {ps : List Part} {z : State} {s : State} {a : Nat} {bs : List Byte}
    (hs : Acts ps z s) (hp : ∀ p ∈ ([.draws, .regs, .mem, .weights, .log, .outbox] : List Part), p ∈ ps) :
    Acts ps z (State.narrowStore s a bs) := by
  unfold State.narrowStore
  repeat' first
    | with_reducible assumption | with_reducible refine State.narrowTally_acts ?_ (inside hp (by decide))
    | with_reducible refine State.noteMerge_acts ?_ (inside hp (by decide))
    | with_reducible refine State.storeMem_acts ?_ (inside hp (by decide)) | extract_lets | exact fun q => insert_sorted q
    | exact fun q => filter_sorted q | exact fun q => Mem.forget_wf q | exact fun q => q | with_reducible refine Acts.ite ?_ ?_
    | with_reducible refine Acts.set_mem ?_ ?_ (hp _ (by decide)) | dsimp +zetaDelta only

theorem State.scatterOne_acts {ps : List Part} {z : State} {s : State} {v : Narrow} {a2 : Nat × Int} {bs : List Byte}
    (hs : Acts ps z s) (hp : ∀ p ∈ ([.draws, .regs, .mem, .units, .weights, .log, .outbox] : List Part), p ∈ ps) :
    Acts ps z (State.scatterOne s v a2 bs).1 := by
  unfold State.scatterOne
  repeat' first
    | with_reducible assumption | with_reducible refine State.narrowStore_acts ?_ (inside hp (by decide))
    | with_reducible refine State.poisonRange_acts ?_ (inside hp (by decide))
    | with_reducible refine State.writeAlias_acts ?_ (inside hp (by decide))
    | with_reducible refine State.noteRead_acts ?_ (inside hp (by decide))
    | with_reducible refine State.tally_acts ?_ (inside hp (by decide)) | extract_lets | with_reducible refine Acts.ite ?_ ?_ | split
    | dsimp only | dsimp +zetaDelta only

theorem State.narrowAll_acts {ps : List Part} {z : State} {s : State} {v : Narrow} {es : List (Nat × Int)}
    (hs : Acts ps z s) (hp : ∀ p ∈ ([.draws, .regs, .mem, .units, .weights, .log, .outbox] : List Part), p ∈ ps) :
    Acts ps z (State.narrowAll s v es).1 := by
  unfold State.narrowAll
  repeat' first
    | with_reducible assumption | with_reducible refine State.scatterOne_acts ?_ (inside hp (by decide))
    | with_reducible refine State.gatherOne_acts ?_ (inside hp (by decide))
    | with_reducible refine State.draw_acts ?_ (inside hp (by decide)) | with_reducible refine Acts.foldl ?_ ?_
    | with_reducible refine Acts.foldl_fst ?_ ?_ | with_reducible refine Acts.foldl_snd ?_ ?_ | extract_lets | intro _
    | with_reducible refine Acts.ite ?_ ?_ | split | dsimp only | dsimp +zetaDelta only

theorem State.narrow_acts {ps : List Part} {z : State} {s : State} {c : Cmd}
    (hs : Acts ps z s) (hp : ∀ p ∈ ([.draws, .regs, .mem, .queues, .cmds, .units, .weights, .log, .outbox] : List Part), p ∈ ps) :
    Acts ps z (State.narrow s c) := by
  unfold State.narrow
  repeat' first
    | with_reducible assumption | with_reducible refine State.finishTransfers_acts ?_ (inside hp (by decide))
    | with_reducible refine State.narrowAbandon_acts ?_ (inside hp (by decide))
    | with_reducible refine State.narrowAll_acts ?_ (inside hp (by decide))
    | with_reducible refine State.noteRead_acts ?_ (inside hp (by decide))
    | with_reducible refine State.finish_acts ?_ (inside hp (by decide))
    | with_reducible refine State.refuse_acts ?_ (inside hp (by decide))
    | with_reducible refine State.tally_acts ?_ (inside hp (by decide)) | extract_lets | intro _ | with_reducible refine Acts.ite ?_ ?_
    | split | dsimp only | dsimp +zetaDelta only

theorem execNarrowGather_acts {c : CmdRef} {hv : HostView} {s : State} {t : State} (e : execNarrowGather c hv s = .next t) :
    Acts [.draws, .regs, .mem, .host, .queues, .cmds, .units, .weights, .log, .outbox] s t := by
  unfold execNarrowGather at e
  refine runs_acts (qs := [.draws, .regs, .mem, .host, .queues, .cmds, .units, .weights, .log, .outbox, .acting]) (by decide) (fun ps hs hp => ?_) e
  repeat' first
    | with_reducible assumption | with_reducible refine State.narrow_acts ?_ (inside hp (by decide))
    | with_reducible refine State.start_acts ?_ ?_ (inside hp (by decide))
    | with_reducible refine State.sees_acts ?_ (inside hp (by decide)) | intro _ | dsimp only

theorem execNarrowScatter_acts {c : CmdRef} {hv : HostView} {s : State} {t : State} (e : execNarrowScatter c hv s = .next t) :
    Acts [.draws, .regs, .mem, .host, .queues, .cmds, .units, .weights, .log, .outbox] s t := by
  unfold execNarrowScatter at e
  refine runs_acts (qs := [.draws, .regs, .mem, .host, .queues, .cmds, .units, .weights, .log, .outbox, .acting]) (by decide) (fun ps hs hp => ?_) e
  repeat' first
    | with_reducible assumption | with_reducible refine State.narrow_acts ?_ (inside hp (by decide))
    | with_reducible refine State.start_acts ?_ ?_ (inside hp (by decide))
    | with_reducible refine State.sees_acts ?_ (inside hp (by decide)) | intro _ | dsimp only

theorem State.atomicAt_acts {ps : List Part} {z : State} {s : State} {op : Nat} {type : Nat} {a : Nat} {operand : Nat} {compare : Nat}
    (hs : Acts ps z s) (hp : ∀ p ∈ ([.draws, .regs, .mem, .units, .weights, .log, .outbox] : List Part), p ∈ ps) :
    Acts ps z (State.atomicAt s op type a operand compare).1 := by
  unfold State.atomicAt
  repeat' first
    | with_reducible assumption | with_reducible refine State.noteRead_acts ?_ (inside hp (by decide))
    | with_reducible refine State.writeMem_acts ?_ (inside hp (by decide))
    | with_reducible refine State.tally_acts ?_ (inside hp (by decide))
    | with_reducible refine State.count_acts ?_ (inside hp (by decide)) | extract_lets | with_reducible refine Acts.ite ?_ ?_ | split
    | dsimp only | dsimp +zetaDelta only

theorem State.atomicEntry_acts {ps : List Part} {z : State} {s : State} {c : Cmd} {i : Nat} {a3 : List Byte}
    (hs : Acts ps z s) (hp : ∀ p ∈ ([.draws, .regs, .mem, .units, .weights, .log, .outbox] : List Part), p ∈ ps) :
    Acts ps z (State.atomicEntry s c i a3).1 := by
  unfold State.atomicEntry
  repeat' first
    | with_reducible assumption | with_reducible refine State.writeMem_acts ?_ (inside hp (by decide))
    | with_reducible refine State.atomicAt_acts ?_ (inside hp (by decide))
    | with_reducible refine State.draw_acts ?_ (inside hp (by decide)) | extract_lets | intro _ | with_reducible refine Acts.ite ?_ ?_
    | split | dsimp only | dsimp +zetaDelta only

theorem State.atomicAll_acts {ps : List Part} {z : State} {s : State} {c : Cmd} {es : List (Nat × List Byte)}
    (hs : Acts ps z s) (hp : ∀ p ∈ ([.draws, .regs, .mem, .units, .weights, .log, .outbox] : List Part), p ∈ ps) :
    Acts ps z (State.atomicAll s c es).1 := by
  unfold State.atomicAll
  repeat' first
    | with_reducible assumption | with_reducible refine State.atomicEntry_acts ?_ (inside hp (by decide))
    | with_reducible refine Acts.foldl ?_ ?_ | with_reducible refine Acts.foldl_fst ?_ ?_ | with_reducible refine Acts.foldl_snd ?_ ?_
    | extract_lets | intro _ | dsimp only | dsimp +zetaDelta only

theorem State.atomic_acts {ps : List Part} {z : State} {s : State} {c : Cmd}
    (hs : Acts ps z s) (hp : ∀ p ∈ ([.draws, .regs, .mem, .queues, .cmds, .units, .weights, .log, .outbox] : List Part), p ∈ ps) :
    Acts ps z (State.atomic s c) := by
  unfold State.atomic
  repeat' first
    | with_reducible assumption | with_reducible refine State.finishTransfers_acts ?_ (inside hp (by decide))
    | with_reducible refine State.atomicAll_acts ?_ (inside hp (by decide))
    | with_reducible refine State.noteRead_acts ?_ (inside hp (by decide))
    | with_reducible refine State.finish_acts ?_ (inside hp (by decide))
    | with_reducible refine State.refuse_acts ?_ (inside hp (by decide))
    | with_reducible refine State.tally_acts ?_ (inside hp (by decide)) | extract_lets | intro _ | split | dsimp only
    | dsimp +zetaDelta only

theorem execAtomic_acts {c : CmdRef} {hv : HostView} {s : State} {t : State} (e : execAtomic c hv s = .next t) :
    Acts [.draws, .regs, .mem, .host, .queues, .cmds, .units, .weights, .log, .outbox] s t := by
  unfold execAtomic at e
  refine runs_acts (qs := [.draws, .regs, .mem, .host, .queues, .cmds, .units, .weights, .log, .outbox, .acting]) (by decide) (fun ps hs hp => ?_) e
  repeat' first
    | with_reducible assumption | with_reducible refine State.atomic_acts ?_ (inside hp (by decide))
    | with_reducible refine State.start_acts ?_ ?_ (inside hp (by decide))
    | with_reducible refine State.sees_acts ?_ (inside hp (by decide)) | intro _ | dsimp only

theorem State.actBar2_acts {ps : List Part} {z : State} {s : State} {fn : Nat}
    (hs : Acts ps z s) (hp : ∀ p ∈ ([.acting] : List Part), p ∈ ps) :
    Acts ps z (State.actBar2 s fn) := by
  unfold State.actBar2
  repeat' first
    | with_reducible assumption | intro _ | with_reducible refine Acts.ite ?_ ?_ | dsimp only
    | with_reducible refine Acts.set_acting ?_ (hp _ (by decide))

theorem State.logBar2_acts {ps : List Part} {z : State} {s : State} {fn : Nat} {a : Nat}
    (hs : Acts ps z s) (hp : ∀ p ∈ ([.log, .outbox] : List Part), p ∈ ps) :
    Acts ps z (State.logBar2 s fn a) := by
  unfold State.logBar2
  repeat' first
    | with_reducible assumption | with_reducible refine State.logEvent_acts ?_ (inside hp (by decide))

theorem execBar2Read_acts {fn : Nat} {off : Nat} {len : Nat} {s : State} {t : State} (e : execBar2Read fn off len s = .next t) :
    Acts [.draws, .regs, .mem, .units, .weights, .log, .outbox] s t := by
  unfold execBar2Read runsHost at e
  refine runs_acts (qs := [.draws, .regs, .mem, .units, .weights, .log, .outbox, .acting]) (by decide) (fun ps hs hp => ?_) e
  repeat' first
    | with_reducible assumption | with_reducible refine Acts.ite ?_ ?_ | with_reducible refine State.logDiscard_acts ?_ (inside hp (by decide))
    | with_reducible refine State.noteRead_acts ?_ (inside hp (by decide))
    | with_reducible refine State.actBar2_acts ?_ (inside hp (by decide))
    | with_reducible refine State.logBar2_acts ?_ (inside hp (by decide))
    | with_reducible refine State.tally_acts ?_ (inside hp (by decide)) | with_reducible refine State.emit_acts ?_ (inside hp (by decide))
    | intro _ | split | dsimp only

theorem State.recordHostWrite_acts {ps : List Part} {z : State} {s : State} {fn : Nat} {a : Nat} {bs : List Byte}
    (hs : Acts ps z s) (hp : ∀ p ∈ ([.logbook] : List Part), p ∈ ps) :
    Acts ps z (State.recordHostWrite s fn a bs) := by
  unfold State.recordHostWrite
  repeat' first
    | with_reducible assumption | with_reducible refine State.record_acts ?_ (inside hp (by decide))

theorem execBar2Write_acts {fn : Nat} {off : Nat} {bytes : List Byte} {s : State} {t : State} (e : execBar2Write fn off bytes s = .next t) :
    Acts [.draws, .regs, .mem, .weights, .logbook, .log, .outbox] s t := by
  unfold execBar2Write runsHost at e
  refine runs_acts (qs := [.draws, .regs, .mem, .weights, .logbook, .log, .outbox, .acting]) (by decide) (fun ps hs hp => ?_) e
  repeat' first
    | with_reducible assumption | with_reducible refine State.recordHostWrite_acts ?_ (inside hp (by decide))
    | with_reducible refine State.logDiscard_acts ?_ (inside hp (by decide))
    | with_reducible refine State.writeMem_acts ?_ (inside hp (by decide))
    | with_reducible refine State.actBar2_acts ?_ (inside hp (by decide))
    | with_reducible refine State.logBar2_acts ?_ (inside hp (by decide)) | extract_lets | intro _ | with_reducible refine Acts.ite ?_ ?_
    | split | dsimp only | dsimp +zetaDelta only

theorem execBar2Atomicop_acts {fn : Nat} {off : Nat} {op : AtomicOp} {operands : List Byte} {s : State} {t : State} (e : execBar2Atomicop fn off op operands s = .next t) :
    Acts [.draws, .regs, .mem, .units, .weights, .logbook, .log, .outbox] s t := by
  unfold execBar2Atomicop runsHost at e
  refine runs_acts (qs := [.draws, .regs, .mem, .units, .weights, .logbook, .log, .outbox, .acting]) (by decide) (fun ps hs hp => ?_) e
  repeat' first
    | with_reducible assumption | with_reducible refine State.recordHostWrite_acts ?_ (inside hp (by decide))
    | with_reducible refine State.logDiscard_acts ?_ (inside hp (by decide))
    | with_reducible refine State.atomicAt_acts ?_ (inside hp (by decide))
    | with_reducible refine State.actBar2_acts ?_ (inside hp (by decide))
    | with_reducible refine State.logBar2_acts ?_ (inside hp (by decide))
    | with_reducible refine State.emit_acts ?_ (inside hp (by decide)) | extract_lets | intro _ | with_reducible refine Acts.ite ?_ ?_
    | split | dsimp only | dsimp +zetaDelta only

theorem State.beginSegChange_acts {ps : List Part} {z : State} {s : State} {h : Nat} {j : Nat} {old : Nat}
    (hs : Acts ps z s) (hp : ∀ p ∈ ([.moving] : List Part), p ∈ ps) :
    Acts ps z (State.beginSegChange s h j old) := by
  unfold State.beginSegChange
  repeat' first
    | with_reducible assumption | with_reducible refine Acts.set_segChanges ?_ (hp _ (by decide))

theorem State.endSegChange_acts {ps : List Part} {z : State} {s : State} {h : Nat} {j : Nat}
    (hs : Acts ps z s) (hp : ∀ p ∈ ([.mem, .moving] : List Part), p ∈ ps) :
    Acts ps z (State.endSegChange s h j) := by
  unfold State.endSegChange
  repeat' first
    | with_reducible assumption | with_reducible refine State.emptySegment_acts ?_ (inside hp (by decide)) | extract_lets
    | exact fun q => insert_sorted q | exact fun q => filter_sorted q | exact fun q => Mem.forget_wf q | exact fun q => q | intro _
    | dsimp only | with_reducible refine Acts.set_mem_segChanges ?_ ?_ (hp _ (by decide)) (hp _ (by decide)) | dsimp +zetaDelta only

theorem execBasinSegmentChange_acts {hub : Nat} {seg : Nat} {s : State} {t : State} (e : execBasinSegmentChange hub seg s = .next t) :
    Acts [.mem, .moving] s t := by
  unfold execBasinSegmentChange at e
  refine runs_acts (qs := [.mem, .moving]) (by decide) (fun ps hs hp => ?_) e
  repeat' first
    | with_reducible assumption | with_reducible refine State.endSegChange_acts ?_ (inside hp (by decide)) | intro _
    | with_reducible refine Acts.ite ?_ ?_ | dsimp only

theorem execSluiceEvict_acts {line : Nat} {s : State} {t : State} (e : execSluiceEvict line s = .next t) :
    Acts [.draws, .regs, .mem, .weights, .log, .outbox] s t := by
  unfold execSluiceEvict at e
  refine runs_acts (qs := [.draws, .regs, .mem, .weights, .log, .outbox]) (by decide) (fun ps hs hp => ?_) e
  repeat' first
    | with_reducible assumption | with_reducible refine State.evict_acts ?_ (inside hp (by decide)) | intro _ | split | dsimp only

theorem execWeirWindow_acts {now : Nat} {s : State} {t : State} (e : execWeirWindow now s = .next t) :
    Acts [.clock, .mem] s t := by
  unfold execWeirWindow at e
  refine runs_acts (qs := [.clock, .mem]) (by decide) (fun ps hs hp => ?_) e
  repeat' first
    | with_reducible assumption | with_reducible refine State.endWindow_acts ?_ (inside hp (by decide))
    | with_reducible refine State.at_acts ?_ (inside hp (by decide)) | intro _ | dsimp only

end Sys2Proof.Machine
end

