-- ==== Sys2Proof/Laws/ActsWeights.lean ====
section
/-! SUPPORT. What the operations of Machine/Weights.lean may do (Laws/Acts.lean): the parts each may change, the invariant kept. -/

namespace Sys2Proof.Machine

open Sys2Proof

theorem State.weightsLoad_acts {ps : List Part} {z : State} {s : State} {c : Cmd}
    (hs : Acts ps z s) (hp : ∀ p ∈ ([.regs, .queues, .cmds, .lockage, .log, .outbox] : List Part), p ∈ ps) :
    Acts ps z (State.weightsLoad s c) := by
  unfold State.weightsLoad
  repeat' first
    | with_reducible assumption | with_reducible refine State.awaitCommit_acts ?_ (inside hp (by decide))
    | with_reducible refine State.running_acts ?_ (inside hp (by decide))
    | with_reducible refine State.refuse_acts ?_ (inside hp (by decide))
    | with_reducible refine State.finish_acts ?_ (inside hp (by decide)) | with_reducible refine Acts.ite ?_ ?_ | split

theorem execWeightsLoad_acts {c : CmdRef} {hv : HostView} {s : State} {t : State} (e : execWeightsLoad c hv s = .next t) :
    Acts [.regs, .host, .queues, .cmds, .lockage, .log, .outbox] s t := by
  unfold execWeightsLoad at e
  refine runs_acts (qs := [.regs, .host, .queues, .cmds, .lockage, .log, .outbox, .acting]) (by decide) (fun ps hs hp => ?_) e
  repeat' first
    | with_reducible assumption | with_reducible refine State.weightsLoad_acts ?_ (inside hp (by decide))
    | with_reducible refine State.start_acts ?_ ?_ (inside hp (by decide))
    | with_reducible refine State.sees_acts ?_ (inside hp (by decide)) | intro _ | dsimp only

theorem State.atSetReserve_acts {ps : List Part} {z : State} {s : State} {r : CmdRef}
    (hs : Acts ps z s) (hp : ∀ p ∈ ([.spine, .regs, .cmds, .weights, .logbook, .lockage, .outbox] : List Part), p ∈ ps) :
    Acts ps z (State.atSetReserve s r) := by
  unfold State.atSetReserve
  repeat' first
    | with_reducible assumption | with_reducible refine State.serviceCommit_acts ?_ (inside hp (by decide))
    | with_reducible refine State.putSet_acts ?_ (inside hp (by decide))
    | with_reducible refine State.finish_acts ?_ (inside hp (by decide)) | extract_lets | with_reducible refine Acts.ite ?_ ?_ | split
    | dsimp +zetaDelta only

theorem State.failSet_acts {ps : List Part} {z : State} {s : State} {w : Nat} {st : Nat}
    (hs : Acts ps z s) (hp : ∀ p ∈ ([.weights, .lockage] : List Part), p ∈ ps) :
    Acts ps z (State.failSet s w st) := by
  unfold State.failSet
  repeat' first
    | with_reducible assumption | with_reducible refine State.awaitCommit_acts ?_ (inside hp (by decide))
    | with_reducible refine State.updSet_acts ?_ (inside hp (by decide)) | intro _ | dsimp only

theorem State.emptySet_acts {ps : List Part} {z : State} {s : State} {w : Nat}
    (hs : Acts ps z s) (hp : ∀ p ∈ ([.weights] : List Part), p ∈ ps) :
    Acts ps z (State.emptySet s w) := by
  unfold State.emptySet
  repeat' first
    | with_reducible assumption | intro _ | dsimp only
    | with_reducible refine Acts.set_sets_repairs ?_ (hp _ (by decide)) (hp _ (by decide))

theorem State.atSetFail_acts {ps : List Part} {z : State} {s : State} {w : Nat}
    (hs : Acts ps z s) (hp : ∀ p ∈ ([.spine, .draws, .regs, .mem, .cmds, .weights, .logbook, .lockage, .outbox] : List Part), p ∈ ps) :
    Acts ps z (State.atSetFail s w) := by
  unfold State.atSetFail
  repeat' first
    | with_reducible assumption | with_reducible refine State.serviceCommit_acts ?_ (inside hp (by decide))
    | with_reducible refine State.undefine_acts ?_ (inside hp (by decide))
    | with_reducible refine State.emptySet_acts ?_ (inside hp (by decide))
    | with_reducible refine State.finish_acts ?_ (inside hp (by decide))
    | with_reducible refine State.raise_acts ?_ (inside hp (by decide)) | extract_lets | split | dsimp +zetaDelta only

theorem State.putSource_acts {ps : List Part} {z : State} {s : State} {source : Nat} {a : Nat} {n : Nat} {bs : List Byte}
    (hs : Acts ps z s) (hp : ∀ p ∈ ([.draws, .regs, .mem, .weights, .log, .outbox] : List Part), p ∈ ps) :
    Acts ps z (State.putSource s source a n bs) := by
  unfold State.putSource
  repeat' first
    | with_reducible assumption | with_reducible refine State.fillPattern_acts ?_ (inside hp (by decide))
    | with_reducible refine State.writeMem_acts ?_ (inside hp (by decide)) | with_reducible refine Acts.ite ?_ ?_

theorem State.noteSourceRead_acts {ps : List Part} {z : State} {s : State} {source : Nat} {src : Nat} {n : Nat}
    (hs : Acts ps z s) (hp : ∀ p ∈ ([.draws, .regs, .mem, .units, .weights, .log, .outbox] : List Part), p ∈ ps) :
    Acts ps z (State.noteSourceRead s source src n) := by
  unfold State.noteSourceRead
  repeat' first
    | with_reducible assumption | with_reducible refine State.noteRead_acts ?_ (inside hp (by decide))
    | with_reducible refine Acts.ite ?_ ?_

theorem State.setArrives_acts {ps : List Part} {z : State} {s : State} {w : Nat} {k : WeightSet} {r : CmdRef} {peer : PeerData}
    (hs : Acts ps z s) (hp : ∀ p ∈ ([.spine, .draws, .regs, .mem, .cmds, .units, .weights, .logbook, .lockage, .log, .outbox] : List Part), p ∈ ps) :
    Acts ps z (State.setArrives s w k r peer) := by
  unfold State.setArrives
  repeat' first
    | with_reducible assumption | with_reducible refine State.noteSourceRead_acts ?_ (inside hp (by decide))
    | with_reducible refine State.recordHostRead_acts ?_ (inside hp (by decide))
    | with_reducible refine State.serviceCommit_acts ?_ (inside hp (by decide))
    | with_reducible refine State.putSource_acts ?_ (inside hp (by decide))
    | with_reducible refine State.recordSet_acts ?_ (inside hp (by decide))
    | with_reducible refine State.failSet_acts ?_ (inside hp (by decide))
    | with_reducible refine State.updSet_acts ?_ (inside hp (by decide))
    | with_reducible refine State.finish_acts ?_ (inside hp (by decide))
    | with_reducible refine State.raise_acts ?_ (inside hp (by decide)) | extract_lets | intro _ | with_reducible refine Acts.ite ?_ ?_
    | split | dsimp only | dsimp +zetaDelta only

theorem State.adapterLoad_acts {ps : List Part} {z : State} {s : State} {c : Cmd}
    (hs : Acts ps z s) (hp : ∀ p ∈ ([.regs, .queues, .cmds, .lockage, .log, .outbox] : List Part), p ∈ ps) :
    Acts ps z (State.adapterLoad s c) := by
  unfold State.adapterLoad
  repeat' first
    | with_reducible assumption | with_reducible refine State.awaitCommit_acts ?_ (inside hp (by decide))
    | with_reducible refine State.running_acts ?_ (inside hp (by decide))
    | with_reducible refine State.refuse_acts ?_ (inside hp (by decide))
    | with_reducible refine State.finish_acts ?_ (inside hp (by decide)) | with_reducible refine Acts.ite ?_ ?_ | split

theorem execAdapterLoad_acts {c : CmdRef} {hv : HostView} {s : State} {t : State} (e : execAdapterLoad c hv s = .next t) :
    Acts [.regs, .host, .queues, .cmds, .lockage, .log, .outbox] s t := by
  unfold execAdapterLoad at e
  refine runs_acts (qs := [.regs, .host, .queues, .cmds, .lockage, .log, .outbox, .acting]) (by decide) (fun ps hs hp => ?_) e
  repeat' first
    | with_reducible assumption | with_reducible refine State.adapterLoad_acts ?_ (inside hp (by decide))
    | with_reducible refine State.start_acts ?_ ?_ (inside hp (by decide))
    | with_reducible refine State.sees_acts ?_ (inside hp (by decide)) | intro _ | dsimp only

theorem State.atAdapterReserve_acts {ps : List Part} {z : State} {s : State} {r : CmdRef} {i : Nat}
    (hs : Acts ps z s) (hp : ∀ p ∈ ([.spine, .regs, .cmds, .weights, .logbook, .lockage, .outbox] : List Part), p ∈ ps) :
    Acts ps z (State.atAdapterReserve s r i) := by
  unfold State.atAdapterReserve
  repeat' first
    | with_reducible assumption | with_reducible refine State.serviceCommit_acts ?_ (inside hp (by decide))
    | with_reducible refine State.finish_acts ?_ (inside hp (by decide)) | extract_lets | with_reducible refine Acts.ite ?_ ?_ | split
    | with_reducible refine Acts.set_adapters ?_ (hp _ (by decide)) | dsimp +zetaDelta only

theorem State.failAdapter_acts {ps : List Part} {z : State} {s : State} {i : Nat} {st : Nat}
    (hs : Acts ps z s) (hp : ∀ p ∈ ([.weights, .lockage] : List Part), p ∈ ps) :
    Acts ps z (State.failAdapter s i st) := by
  unfold State.failAdapter
  repeat' first
    | with_reducible assumption | with_reducible refine State.awaitCommit_acts ?_ (inside hp (by decide))
    | with_reducible refine State.updAdapter_acts ?_ (inside hp (by decide)) | intro _ | dsimp only

theorem State.emptyAdapter_acts {ps : List Part} {z : State} {s : State} {i : Nat}
    (hs : Acts ps z s) (hp : ∀ p ∈ ([.weights] : List Part), p ∈ ps) :
    Acts ps z (State.emptyAdapter s i) := by
  unfold State.emptyAdapter
  repeat' first
    | with_reducible assumption | intro _ | dsimp only
    | with_reducible refine Acts.set_adapters_repairs ?_ (hp _ (by decide)) (hp _ (by decide))

theorem State.atAdapterFail_acts {ps : List Part} {z : State} {s : State} {i : Nat}
    (hs : Acts ps z s) (hp : ∀ p ∈ ([.spine, .draws, .regs, .mem, .cmds, .weights, .logbook, .lockage, .outbox] : List Part), p ∈ ps) :
    Acts ps z (State.atAdapterFail s i) := by
  unfold State.atAdapterFail
  repeat' first
    | with_reducible assumption | with_reducible refine State.serviceCommit_acts ?_ (inside hp (by decide))
    | with_reducible refine State.emptyAdapter_acts ?_ (inside hp (by decide))
    | with_reducible refine State.undefine_acts ?_ (inside hp (by decide))
    | with_reducible refine State.finish_acts ?_ (inside hp (by decide))
    | with_reducible refine State.raise_acts ?_ (inside hp (by decide)) | extract_lets | split | dsimp +zetaDelta only

theorem State.retire_acts {ps : List Part} {z : State} {s : State} {name : Nat}
    (hs : Acts ps z s) (hp : ∀ p ∈ ([.weights] : List Part), p ∈ ps) :
    Acts ps z (State.retire s name) := by
  unfold State.retire
  repeat' first
    | with_reducible assumption | with_reducible refine State.updAdapter_acts ?_ (inside hp (by decide)) | intro _
    | with_reducible refine Acts.ite ?_ ?_ | split | dsimp only

theorem State.adapterArrives_acts {ps : List Part} {z : State} {s : State} {i : Nat} {k : Adapter} {r : CmdRef} {peer : PeerData}
    (hs : Acts ps z s) (hp : ∀ p ∈ ([.spine, .draws, .regs, .mem, .cmds, .units, .weights, .logbook, .lockage, .log, .outbox, .acting] : List Part), p ∈ ps) :
    Acts ps z (State.adapterArrives s i k r peer) := by
  unfold State.adapterArrives
  repeat' first
    | with_reducible assumption | with_reducible refine State.noteSourceRead_acts ?_ (inside hp (by decide))
    | with_reducible refine State.recordHostRead_acts ?_ (inside hp (by decide))
    | with_reducible refine State.serviceCommit_acts ?_ (inside hp (by decide))
    | with_reducible refine State.failAdapter_acts ?_ (inside hp (by decide))
    | with_reducible refine State.updAdapter_acts ?_ (inside hp (by decide))
    | with_reducible refine State.putSource_acts ?_ (inside hp (by decide))
    | with_reducible refine State.recordSet_acts ?_ (inside hp (by decide))
    | with_reducible refine State.retire_acts ?_ (inside hp (by decide))
    | with_reducible refine State.finish_acts ?_ (inside hp (by decide))
    | with_reducible refine State.actFor_acts ?_ (inside hp (by decide))
    | with_reducible refine State.raise_acts ?_ (inside hp (by decide)) | extract_lets | intro _ | with_reducible refine Acts.ite ?_ ?_
    | split | dsimp only | dsimp +zetaDelta only

theorem execLoadActivation_acts {c : CmdRef} {peer : PeerData} {now : Nat} {hv : HostView} {s : State} {t : State} (e : execLoadActivation c peer now hv s = .next t) :
    Acts [.spine, .draws, .clock, .regs, .mem, .host, .cmds, .units, .weights, .logbook, .lockage, .log, .outbox] s t := by
  unfold execLoadActivation at e
  refine runsSpine_acts (qs := [.spine, .draws, .clock, .regs, .mem, .host, .cmds, .units, .weights, .logbook, .lockage, .log, .outbox, .acting]) (by decide) (fun ps hs hp => ?_) e
  repeat' first
    | with_reducible assumption | with_reducible refine State.adapterArrives_acts ?_ (inside hp (by decide))
    | with_reducible refine State.setArrives_acts ?_ (inside hp (by decide))
    | with_reducible refine State.sees_acts ?_ (inside hp (by decide)) | with_reducible refine State.at_acts ?_ (inside hp (by decide))
    | extract_lets | intro _ | with_reducible refine Acts.ite ?_ ?_ | split | dsimp only | dsimp +zetaDelta only

theorem State.weightsDrop_acts {ps : List Part} {z : State} {s : State} {c : Cmd} {named : List Nat}
    (hs : Acts ps z s) (hp : ∀ p ∈ ([.regs, .queues, .cmds, .weights, .lockage, .log, .outbox] : List Part), p ∈ ps) :
    Acts ps z (State.weightsDrop s c named) := by
  unfold State.weightsDrop
  repeat' first
    | with_reducible assumption | with_reducible refine State.awaitCommit_acts ?_ (inside hp (by decide))
    | with_reducible refine State.running_acts ?_ (inside hp (by decide))
    | with_reducible refine State.refuse_acts ?_ (inside hp (by decide))
    | with_reducible refine State.updSet_acts ?_ (inside hp (by decide)) | extract_lets | intro _ | with_reducible refine Acts.ite ?_ ?_
    | split | dsimp only | dsimp +zetaDelta only

theorem State.atSetDropping_acts {ps : List Part} {z : State} {s : State} {r : CmdRef}
    (hs : Acts ps z s) (hp : ∀ p ∈ ([.spine, .regs, .weights, .logbook, .lockage, .outbox] : List Part), p ∈ ps) :
    Acts ps z (State.atSetDropping s r) := by
  unfold State.atSetDropping
  repeat' first
    | with_reducible assumption | with_reducible refine State.serviceCommit_acts ?_ (inside hp (by decide))
    | with_reducible refine State.updSet_acts ?_ (inside hp (by decide)) | extract_lets | intro _ | with_reducible refine Acts.ite ?_ ?_
    | split | dsimp only | dsimp +zetaDelta only

theorem State.atSetReturn_acts {ps : List Part} {z : State} {s : State} {w : Nat}
    (hs : Acts ps z s) (hp : ∀ p ∈ ([.spine, .regs, .cmds, .weights, .logbook, .lockage, .outbox] : List Part), p ∈ ps) :
    Acts ps z (State.atSetReturn s w) := by
  unfold State.atSetReturn
  repeat' first
    | with_reducible assumption | with_reducible refine State.serviceCommit_acts ?_ (inside hp (by decide))
    | with_reducible refine State.updSet_acts ?_ (inside hp (by decide))
    | with_reducible refine State.finish_acts ?_ (inside hp (by decide)) | extract_lets | intro _ | with_reducible refine Acts.ite ?_ ?_
    | split | dsimp only | dsimp +zetaDelta only

theorem execSetReleaseCommit_acts {set : Nat} {now : Nat} {s : State} {t : State} (e : execSetReleaseCommit set now s = .next t) :
    Acts [.spine, .clock, .regs, .cmds, .weights, .logbook, .lockage, .outbox] s t := by
  unfold execSetReleaseCommit at e
  refine runsSpine_acts (qs := [.spine, .clock, .regs, .cmds, .weights, .logbook, .lockage, .outbox]) (by decide) (fun ps hs hp => ?_) e
  repeat' first
    | with_reducible assumption | with_reducible refine State.serviceCommit_acts ?_ (inside hp (by decide))
    | with_reducible refine State.emptySet_acts ?_ (inside hp (by decide))
    | with_reducible refine State.finish_acts ?_ (inside hp (by decide))
    | with_reducible refine State.raise_acts ?_ (inside hp (by decide)) | with_reducible refine State.at_acts ?_ (inside hp (by decide))
    | extract_lets | intro _ | with_reducible refine Acts.ite ?_ ?_ | split | dsimp only | dsimp +zetaDelta only

theorem State.adapterDrop_acts {ps : List Part} {z : State} {s : State} {c : Cmd}
    (hs : Acts ps z s) (hp : ∀ p ∈ ([.regs, .queues, .cmds, .lockage, .log, .outbox] : List Part), p ∈ ps) :
    Acts ps z (State.adapterDrop s c) := by
  unfold State.adapterDrop
  repeat' first
    | with_reducible assumption | with_reducible refine State.awaitCommit_acts ?_ (inside hp (by decide))
    | with_reducible refine State.running_acts ?_ (inside hp (by decide))
    | with_reducible refine State.refuse_acts ?_ (inside hp (by decide))
    | with_reducible refine State.finish_acts ?_ (inside hp (by decide)) | extract_lets | with_reducible refine Acts.ite ?_ ?_
    | dsimp +zetaDelta only

theorem execAdapterDrop_acts {c : CmdRef} {hv : HostView} {s : State} {t : State} (e : execAdapterDrop c hv s = .next t) :
    Acts [.regs, .host, .queues, .cmds, .lockage, .log, .outbox] s t := by
  unfold execAdapterDrop at e
  refine runs_acts (qs := [.regs, .host, .queues, .cmds, .lockage, .log, .outbox, .acting]) (by decide) (fun ps hs hp => ?_) e
  repeat' first
    | with_reducible assumption | with_reducible refine State.adapterDrop_acts ?_ (inside hp (by decide))
    | with_reducible refine State.start_acts ?_ ?_ (inside hp (by decide))
    | with_reducible refine State.sees_acts ?_ (inside hp (by decide)) | intro _ | dsimp only

theorem State.atAdapterRetire_acts {ps : List Part} {z : State} {s : State} {r : CmdRef}
    (hs : Acts ps z s) (hp : ∀ p ∈ ([.spine, .regs, .cmds, .weights, .logbook, .lockage, .outbox] : List Part), p ∈ ps) :
    Acts ps z (State.atAdapterRetire s r) := by
  unfold State.atAdapterRetire
  repeat' first
    | with_reducible assumption | with_reducible refine State.serviceCommit_acts ?_ (inside hp (by decide))
    | with_reducible refine State.finish_acts ?_ (inside hp (by decide))
    | with_reducible refine State.retire_acts ?_ (inside hp (by decide)) | split

theorem State.atAdapterDropName_acts {ps : List Part} {z : State} {s : State} {name : Nat}
    (hs : Acts ps z s) (hp : ∀ p ∈ ([.spine, .regs, .weights, .logbook, .lockage, .outbox] : List Part), p ∈ ps) :
    Acts ps z (State.atAdapterDropName s name) := by
  unfold State.atAdapterDropName
  repeat' first
    | with_reducible assumption | with_reducible refine State.serviceCommit_acts ?_ (inside hp (by decide))
    | with_reducible refine State.retire_acts ?_ (inside hp (by decide)) | with_reducible refine Acts.ite ?_ ?_

theorem execAdapterReleaseCommit_acts {slot : Nat} {now : Nat} {s : State} {t : State} (e : execAdapterReleaseCommit slot now s = .next t) :
    Acts [.spine, .clock, .regs, .weights, .logbook, .lockage, .outbox] s t := by
  unfold execAdapterReleaseCommit at e
  refine runsSpine_acts (qs := [.spine, .clock, .regs, .weights, .logbook, .lockage, .outbox]) (by decide) (fun ps hs hp => ?_) e
  repeat' first
    | with_reducible assumption | with_reducible refine State.serviceCommit_acts ?_ (inside hp (by decide))
    | with_reducible refine State.emptyAdapter_acts ?_ (inside hp (by decide))
    | with_reducible refine State.raise_acts ?_ (inside hp (by decide)) | with_reducible refine State.at_acts ?_ (inside hp (by decide))
    | extract_lets | intro _ | with_reducible refine Acts.ite ?_ ?_ | split | dsimp only | dsimp +zetaDelta only

theorem execAdapterViewRead_acts {s : State} {t : State} (e : execAdapterViewRead s = .next t) :
    Acts [.weights, .outbox] s t := by
  unfold execAdapterViewRead runsHost at e
  refine runs_acts (qs := [.weights, .outbox]) (by decide) (fun ps hs hp => ?_) e
  repeat' first
    | with_reducible assumption | with_reducible refine Acts.ite ?_ ?_ | with_reducible refine State.emit_acts ?_ (inside hp (by decide)) | extract_lets | intro _ | dsimp only
    | with_reducible refine Acts.set_adapterView ?_ (hp _ (by decide)) | dsimp +zetaDelta only

theorem execRepairOpen_acts {addr : Nat} {now : Nat} {s : State} {t : State} (e : execRepairOpen addr now s = .next t) :
    Acts [.draws, .clock, .regs, .mem, .units, .weights, .log, .outbox] s t := by
  unfold execRepairOpen at e
  refine runs_acts (qs := [.draws, .clock, .regs, .mem, .units, .weights, .log, .outbox]) (by decide) (fun ps hs hp => ?_) e
  repeat' first
    | with_reducible assumption | with_reducible refine State.noteRead_acts ?_ (inside hp (by decide))
    | with_reducible refine State.at_acts ?_ (inside hp (by decide)) | extract_lets | intro _ | with_reducible refine Acts.ite ?_ ?_
    | dsimp only | dsimp +zetaDelta only

theorem State.readBack_acts {ps : List Part} {z : State} {s : State} {line : Nat} {outcome : Nat}
    (hs : Acts ps z s) (hp : ∀ p ∈ ([.draws, .regs, .mem, .weights, .log, .outbox] : List Part), p ∈ ps) :
    Acts ps z (State.readBack s line outcome) := by
  unfold State.readBack
  repeat' first
    | with_reducible assumption | with_reducible refine State.correctable_acts ?_ (inside hp (by decide))
    | with_reducible refine State.noteUnit_acts ?_ (inside hp (by decide))
    | with_reducible refine State.setNat_acts ?_ (inside hp (by decide))
    | with_reducible refine State.sat64_acts ?_ (inside hp (by decide)) | with_reducible refine State.draw_acts ?_ (inside hp (by decide))
    | extract_lets | exact fun q => insert_sorted q | exact fun q => filter_sorted q | exact fun q => Mem.forget_wf q | exact fun q => q
    | with_reducible refine Acts.ite ?_ ?_ | split | dsimp only | with_reducible refine Acts.set_mem ?_ ?_ (hp _ (by decide))
    | dsimp +zetaDelta only

theorem State.repairLine_acts {ps : List Part} {z : State} {s : State} {r : Repair} {peer : PeerData} {outcome : Nat}
    (hs : Acts ps z s) (hp : ∀ p ∈ ([.draws, .regs, .mem, .units, .weights, .log, .outbox] : List Part), p ∈ ps) :
    Acts ps z (State.repairLine s r peer outcome) := by
  unfold State.repairLine
  repeat' first
    | with_reducible assumption | with_reducible refine State.readBack_acts ?_ (inside hp (by decide))
    | with_reducible refine State.writeMem_acts ?_ (inside hp (by decide))
    | with_reducible refine State.logEvent_acts ?_ (inside hp (by decide))
    | with_reducible refine State.noteRead_acts ?_ (inside hp (by decide))
    | with_reducible refine State.damage_acts ?_ (inside hp (by decide))
    | with_reducible refine State.add64_acts ?_ (inside hp (by decide)) | extract_lets | intro _ | with_reducible refine Acts.ite ?_ ?_
    | split | dsimp only | with_reducible refine Acts.set_repairs ?_ (hp _ (by decide)) | dsimp +zetaDelta only

theorem execRepairSourceData_acts {line : Nat} {peer : PeerData} {outcome : Nat} {now : Nat} {hv : HostView} {s : State} {t : State} (e : execRepairSourceData line peer outcome now hv s = .next t) :
    Acts [.draws, .clock, .regs, .mem, .host, .units, .weights, .log, .outbox] s t := by
  unfold execRepairSourceData at e
  refine runs_acts (qs := [.draws, .clock, .regs, .mem, .host, .units, .weights, .log, .outbox]) (by decide) (fun ps hs hp => ?_) e
  repeat' first
    | with_reducible assumption | with_reducible refine State.repairLine_acts ?_ (inside hp (by decide))
    | with_reducible refine State.sees_acts ?_ (inside hp (by decide)) | with_reducible refine State.at_acts ?_ (inside hp (by decide))
    | extract_lets | intro _ | split | dsimp only | dsimp +zetaDelta only

theorem execRepairDeadline_acts {line : Nat} {now : Nat} {s : State} {t : State} (e : execRepairDeadline line now s = .next t) :
    Acts [.clock, .regs, .weights, .log, .outbox] s t := by
  unfold execRepairDeadline at e
  refine runs_acts (qs := [.clock, .regs, .weights, .log, .outbox]) (by decide) (fun ps hs hp => ?_) e
  repeat' first
    | with_reducible assumption | with_reducible refine State.damage_acts ?_ (inside hp (by decide))
    | with_reducible refine State.at_acts ?_ (inside hp (by decide)) | extract_lets | intro _ | with_reducible refine Acts.ite ?_ ?_
    | split | dsimp only | dsimp +zetaDelta only

end Sys2Proof.Machine
end

