-- ==== Sys2Proof/Laws/ActsAttend.lean ====
section
/-! SUPPORT. What the operations of Machine/Attend.lean may do (Laws/Acts.lean): the parts each may change, the invariant kept. -/

namespace Sys2Proof.Machine

open Sys2Proof

theorem State.putKv_acts {ps : List Part} {z : State} {s : State} {k : Pool} {page : Nat} {slot : Nat} {head : Nat} {value : Bool} {xs : List Fp}
    (hs : Acts ps z s) (hp : ∀ p ∈ ([.draws, .regs, .mem, .weights, .log, .outbox] : List Part), p ∈ ps) :
    Acts ps z (State.putKv s k page slot head value xs) := by
  unfold State.putKv
  repeat' first
    | with_reducible assumption | with_reducible refine State.writeMem_acts ?_ (inside hp (by decide)) | extract_lets
    | with_reducible refine Acts.ite ?_ ?_ | dsimp only | dsimp +zetaDelta only

theorem State.putNewKv_acts {ps : List Part} {z : State} {s : State} {c : Cmd} {pages : List Nat} {row : Nat} {p : Nat}
    (hs : Acts ps z s) (hp : ∀ p ∈ ([.draws, .regs, .mem, .weights, .log, .outbox] : List Part), p ∈ ps) :
    Acts ps z (State.putNewKv s c pages row p) := by
  unfold State.putNewKv
  repeat' first
    | with_reducible assumption | with_reducible refine State.putKv_acts ?_ (inside hp (by decide))
    | with_reducible refine Acts.foldl ?_ ?_ | extract_lets | intro _ | dsimp only | dsimp +zetaDelta only

theorem State.attendStore_acts {ps : List Part} {z : State} {s : State} {c : Cmd} {es : List (AttendEntry × List Nat)}
    (hs : Acts ps z s) (hp : ∀ p ∈ ([.draws, .regs, .mem, .weights, .log, .outbox] : List Part), p ∈ ps) :
    Acts ps z (State.attendStore s c es) := by
  unfold State.attendStore
  repeat' first
    | with_reducible assumption | with_reducible refine State.putNewKv_acts ?_ (inside hp (by decide))
    | with_reducible refine Acts.foldl ?_ ?_ | with_reducible refine Acts.foldl_fst ?_ ?_ | with_reducible refine Acts.foldl_snd ?_ ?_
    | intro _ | dsimp only

theorem State.attendWrite_acts {ps : List Part} {z : State} {s : State} {c : Cmd} {es : List (AttendEntry × List Nat)}
    (hs : Acts ps z s) (hp : ∀ p ∈ ([.draws, .regs, .mem, .weights, .log, .outbox] : List Part), p ∈ ps) :
    Acts ps z (State.attendWrite s c es) := by
  unfold State.attendWrite
  repeat' first
    | with_reducible assumption | with_reducible refine State.writeMem_acts ?_ (inside hp (by decide))
    | with_reducible refine Acts.foldl ?_ ?_ | with_reducible refine Acts.foldl_fst ?_ ?_ | with_reducible refine Acts.foldl_snd ?_ ?_
    | intro _ | dsimp only

theorem State.attend_acts {ps : List Part} {z : State} {s : State} {c : Cmd}
    (hs : Acts ps z s) (hp : ∀ p ∈ ([.draws, .regs, .mem, .queues, .cmds, .units, .weights, .log, .outbox] : List Part), p ∈ ps) :
    Acts ps z (State.attend s c) := by
  unfold State.attend
  repeat' first
    | with_reducible assumption | with_reducible refine State.poisonRanges_acts ?_ (inside hp (by decide))
    | with_reducible refine State.dropRegions_acts ?_ (inside hp (by decide))
    | with_reducible refine State.attendWrite_acts ?_ (inside hp (by decide))
    | with_reducible refine State.attendStore_acts ?_ (inside hp (by decide))
    | with_reducible refine State.noteRanges_acts ?_ (inside hp (by decide))
    | with_reducible refine State.noteRead_acts ?_ (inside hp (by decide))
    | with_reducible refine State.finish_acts ?_ (inside hp (by decide))
    | with_reducible refine State.refuse_acts ?_ (inside hp (by decide)) | extract_lets | split | dsimp +zetaDelta only

theorem execAttend_acts {c : CmdRef} {hv : HostView} {s : State} {t : State} (e : execAttend c hv s = .next t) :
    Acts [.draws, .power, .regs, .mem, .host, .queues, .cmds, .units, .weights, .log, .outbox] s t := by
  unfold execAttend at e
  refine runs_acts (qs := [.draws, .power, .regs, .mem, .host, .queues, .cmds, .units, .weights, .log, .outbox, .acting]) (by decide) (fun ps hs hp => ?_) e
  repeat' first
    | with_reducible assumption | with_reducible refine State.startCompute_acts ?_ ?_ (inside hp (by decide))
    | with_reducible refine State.attend_acts ?_ (inside hp (by decide))
    | with_reducible refine State.sees_acts ?_ (inside hp (by decide)) | intro _ | dsimp only

theorem State.layer_acts {ps : List Part} {z : State} {s : State} {m : Reader} {k : Pool} {pages : Nat → Nat} {p : Nat} {l : Nat} {x : List Fp}
    (hs : Acts ps z s) (hp : ∀ p ∈ ([.draws, .regs, .mem, .weights, .log, .outbox] : List Part), p ∈ ps) :
    Acts ps z (State.layer s m k pages p l x).1 := by
  unfold State.layer
  repeat' first
    | with_reducible assumption | with_reducible refine State.putKv_acts ?_ (inside hp (by decide))
    | with_reducible refine Acts.foldl ?_ ?_ | extract_lets | intro _ | dsimp only | dsimp +zetaDelta only

theorem State.feed_acts {ps : List Part} {z : State} {s : State} {m : Reader} {k : Pool} {spans : List Span} {first : Nat} {p : Nat} {token : Nat}
    (hs : Acts ps z s) (hp : ∀ p ∈ ([.draws, .regs, .mem, .weights, .log, .outbox] : List Part), p ∈ ps) :
    Acts ps z (State.feed s m k spans first p token).1 := by
  unfold State.feed
  repeat' first
    | with_reducible assumption | with_reducible refine State.layer_acts ?_ (inside hp (by decide))
    | with_reducible refine Acts.foldl ?_ ?_ | with_reducible refine Acts.foldl_fst ?_ ?_ | with_reducible refine Acts.foldl_snd ?_ ?_
    | extract_lets | intro _ | split | dsimp only | dsimp +zetaDelta only

end Sys2Proof.Machine
end

