-- ==== Sys2Proof/Laws/ActsServing.lean ====
section
/-! SUPPORT. What the operations of Machine/Serving.lean may do (Laws/Acts.lean): the parts each may change, the invariant kept. -/

namespace Sys2Proof.Machine

open Sys2Proof

theorem State.updServing_acts {ps : List Part} {z : State} {s : State} {n : Nat} {f : Serving → Serving}
    (hs : Acts ps z s) (hp : ∀ p ∈ ([.serving] : List Part), p ∈ ps) :
    Acts ps z (State.updServing s n f) := by
  unfold State.updServing
  repeat' first
    | with_reducible assumption | split | with_reducible refine Acts.set_serving ?_ (hp _ (by decide))

theorem State.updEntry_acts {ps : List Part} {z : State} {s : State} {i : Nat} {f : Entry → Entry}
    (hs : Acts ps z s) (hp : ∀ p ∈ ([.serving] : List Part), p ∈ ps) :
    Acts ps z (State.updEntry s i f) := by
  unfold State.updEntry
  repeat' first
    | with_reducible assumption | split | with_reducible refine Acts.set_manifest ?_ (hp _ (by decide))

theorem State.putBalance_acts {ps : List Part} {z : State} {s : State} {a : Nat} {v : Int}
    (hs : Acts ps z s) (hp : ∀ p ∈ ([.regs] : List Part), p ∈ ps) :
    Acts ps z (State.putBalance s a v) := by
  unfold State.putBalance
  repeat' first
    | with_reducible assumption | with_reducible refine State.setNat_acts ?_ (inside hp (by decide))

theorem State.debit_acts {ps : List Part} {z : State} {s : State} {a : Nat} {n : Nat}
    (hs : Acts ps z s) (hp : ∀ p ∈ ([.regs] : List Part), p ∈ ps) :
    Acts ps z (State.debit s a n) := by
  unfold State.debit
  repeat' first
    | with_reducible assumption | with_reducible refine State.putBalance_acts ?_ (inside hp (by decide))

theorem execBudgetRefill_acts {now : Nat} {s : State} {t : State} (e : execBudgetRefill now s = .next t) :
    Acts [.clock, .regs] s t := by
  unfold execBudgetRefill at e
  refine runs_acts (qs := [.clock, .regs]) (by decide) (fun ps hs hp => ?_) e
  repeat' first
    | with_reducible assumption | with_reducible refine State.putBalance_acts ?_ (inside hp (by decide))
    | with_reducible refine State.at_acts ?_ (inside hp (by decide)) | with_reducible refine Acts.foldl ?_ ?_ | extract_lets | intro _
    | with_reducible refine Acts.ite ?_ ?_ | dsimp only | dsimp +zetaDelta only

theorem State.addSpan_acts {ps : List Part} {z : State} {s : State} {n : Nat} {i : Nat}
    (hs : Acts ps z s) (hp : ∀ p ∈ ([.draws, .regs, .mem, .weights, .serving, .log, .outbox] : List Part), p ∈ ps) :
    Acts ps z (State.addSpan s n i) := by
  unfold State.addSpan
  repeat' first
    | with_reducible assumption | with_reducible refine State.updServing_acts ?_ (inside hp (by decide))
    | with_reducible refine State.writeMem_acts ?_ (inside hp (by decide))
    | with_reducible refine State.updEntry_acts ?_ (inside hp (by decide)) | extract_lets | intro _ | split | dsimp only
    | dsimp +zetaDelta only

theorem State.coverTo_acts {ps : List Part} {z : State} {s : State} {n : Nat} {i : Nat} {a3 : Nat}
    (hs : Acts ps z s) (hp : ∀ p ∈ ([.draws, .regs, .mem, .weights, .serving, .log, .outbox] : List Part), p ∈ ps) :
    Acts ps z (State.coverTo s n i a3) := by
  induction a3 generalizing s n i with
  | zero =>
    unfold State.coverTo
    repeat' first
      | with_reducible assumption | with_reducible refine State.addSpan_acts ?_ (inside hp (by decide))
  | succ _ ih =>
    unfold State.coverTo
    repeat' first
      | with_reducible assumption | with_reducible refine ih ?_ | with_reducible refine State.addSpan_acts ?_ (inside hp (by decide))

theorem State.freeSpans_acts {ps : List Part} {z : State} {s : State} {i : Nat}
    (hs : Acts ps z s) (hp : ∀ p ∈ ([.serving] : List Part), p ∈ ps) :
    Acts ps z (State.freeSpans s i) := by
  unfold State.freeSpans
  repeat' first
    | with_reducible assumption | with_reducible refine State.updServing_acts ?_ (inside hp (by decide))
    | with_reducible refine State.updEntry_acts ?_ (inside hp (by decide)) | extract_lets | intro _ | split | dsimp only
    | dsimp +zetaDelta only

theorem State.putRecord_acts {ps : List Part} {z : State} {s : State} {a1 : Entry} {outcome : Nat}
    (hs : Acts ps z s) (hp : ∀ p ∈ ([.draws, .regs, .mem, .host, .weights, .log, .outbox] : List Part), p ∈ ps) :
    Acts ps z (State.putRecord s a1 outcome).1 := by
  unfold State.putRecord
  repeat' first
    | with_reducible assumption | with_reducible refine State.writePlace_acts ?_ (inside hp (by decide)) | dsimp only

theorem State.putTokens_acts {ps : List Part} {z : State} {s : State} {a1 : Entry} {out : List (Nat × Nat)}
    (hs : Acts ps z s) (hp : ∀ p ∈ ([.draws, .regs, .mem, .host, .weights, .log, .outbox] : List Part), p ∈ ps) :
    Acts ps z (State.putTokens s a1 out).1 := by
  unfold State.putTokens
  repeat' first
    | with_reducible assumption | with_reducible refine State.writePlace_acts ?_ (inside hp (by decide)) | extract_lets | intro _
    | dsimp only | dsimp +zetaDelta only

theorem State.noteFaulted_acts {ps : List Part} {z : State} {s : State} {a1 : Entry} {st : Nat}
    (hs : Acts ps z s) (hp : ∀ p ∈ ([.log, .outbox] : List Part), p ∈ ps) :
    Acts ps z (State.noteFaulted s a1 st) := by
  unfold State.noteFaulted
  repeat' first
    | with_reducible assumption | with_reducible refine State.logEvent_acts ?_ (inside hp (by decide))
    | with_reducible refine Acts.ite ?_ ?_

theorem State.raiseOutcome_acts {ps : List Part} {z : State} {s : State} {st : Nat}
    (hs : Acts ps z s) (hp : ∀ p ∈ ([.regs, .outbox] : List Part), p ∈ ps) :
    Acts ps z (State.raiseOutcome s st) := by
  unfold State.raiseOutcome
  repeat' first
    | with_reducible assumption | with_reducible refine State.raise_acts ?_ (inside hp (by decide)) | with_reducible refine Acts.ite ?_ ?_

theorem State.runEnded_acts {ps : List Part} {z : State} {s : State} {n : Nat} {run : Nat} {st : Nat}
    (hs : Acts ps z s) (hp : ∀ p ∈ ([.draws, .regs, .mem, .host, .queues, .weights, .serving, .logbook, .log, .outbox] : List Part), p ∈ ps) :
    Acts ps z (State.runEnded s n run st) := by
  unfold State.runEnded
  repeat' first
    | with_reducible assumption | with_reducible refine State.updServing_acts ?_ (inside hp (by decide))
    | with_reducible refine State.report_acts ?_ (inside hp (by decide))
    | with_reducible refine State.raise_acts ?_ (inside hp (by decide)) | extract_lets | intro _ | with_reducible refine Acts.ite ?_ ?_
    | split | dsimp only | dsimp +zetaDelta only

theorem State.countCut_acts {ps : List Part} {z : State} {s : State} {a1 : Entry}
    (hs : Acts ps z s) (hp : ∀ p ∈ ([.weights, .serving] : List Part), p ∈ ps) :
    Acts ps z (State.countCut s a1) := by
  unfold State.countCut
  repeat' first
    | with_reducible assumption | with_reducible refine State.updServing_acts ?_ (inside hp (by decide))
    | with_reducible refine State.updSet_acts ?_ (inside hp (by decide)) | extract_lets | intro _ | with_reducible refine Acts.ite ?_ ?_
    | dsimp only | dsimp +zetaDelta only

theorem State.endEntry_acts {ps : List Part} {z : State} {s : State} {i : Nat} {st : Nat}
    (hs : Acts ps z s) (hp : ∀ p ∈ ([.draws, .regs, .mem, .host, .queues, .cmds, .weights, .serving, .turns, .logbook, .log, .outbox] : List Part), p ∈ ps) :
    Acts ps z (State.endEntry s i st) := by
  unfold State.endEntry
  repeat' first
    | with_reducible assumption | with_reducible refine State.raiseOutcome_acts ?_ (inside hp (by decide))
    | with_reducible refine State.noteFaulted_acts ?_ (inside hp (by decide))
    | with_reducible refine State.updServing_acts ?_ (inside hp (by decide))
    | with_reducible refine State.turnCounts_acts ?_ (inside hp (by decide))
    | with_reducible refine State.putRecord_acts ?_ (inside hp (by decide))
    | with_reducible refine State.freeSpans_acts ?_ (inside hp (by decide))
    | with_reducible refine State.runEnded_acts ?_ (inside hp (by decide))
    | with_reducible refine State.countCut_acts ?_ (inside hp (by decide))
    | with_reducible refine State.report_acts ?_ (inside hp (by decide))
    | with_reducible refine State.finish_acts ?_ (inside hp (by decide))
    | with_reducible refine State.raise_acts ?_ (inside hp (by decide)) | with_reducible refine Acts.foldl ?_ ?_
    | with_reducible refine Acts.foldl_fst ?_ ?_ | extract_lets | intro _ | with_reducible refine Acts.ite ?_ ?_ | split | dsimp only
    | with_reducible refine Acts.set_manifest ?_ (hp _ (by decide)) | dsimp +zetaDelta only

theorem State.stepOver_acts {ps : List Part} {z : State} {s : State} {n : Nat}
    (hs : Acts ps z s) (hp : ∀ p ∈ ([.cmds, .serving] : List Part), p ∈ ps) :
    Acts ps z (State.stepOver s n) := by
  unfold State.stepOver
  repeat' first
    | with_reducible assumption | with_reducible refine State.answerParking_acts ?_ (inside hp (by decide))
    | with_reducible refine State.updServing_acts ?_ (inside hp (by decide)) | intro _ | split | dsimp only

theorem State.endWhere_acts {ps : List Part} {z : State} {s : State} {n : Nat} {st : Nat} {p : Entry → Bool}
    (hs : Acts ps z s) (hp : ∀ p ∈ ([.draws, .regs, .mem, .host, .queues, .cmds, .weights, .serving, .turns, .logbook, .log, .outbox] : List Part), p ∈ ps) :
    Acts ps z (State.endWhere s n st p) := by
  unfold State.endWhere
  repeat' first
    | with_reducible assumption | with_reducible refine State.endEntry_acts ?_ (inside hp (by decide))
    | with_reducible refine Acts.foldl ?_ ?_ | with_reducible refine Acts.foldl_fst ?_ ?_ | with_reducible refine Acts.foldl_snd ?_ ?_
    | intro _ | with_reducible refine Acts.ite ?_ ?_ | dsimp only

theorem State.boundary_acts {ps : List Part} {z : State} {s : State} {n : Nat}
    (hs : Acts ps z s) (hp : ∀ p ∈ ([.draws, .regs, .mem, .host, .queues, .cmds, .weights, .serving, .turns, .logbook, .log, .outbox] : List Part), p ∈ ps) :
    Acts ps z (State.boundary s n) := by
  unfold State.boundary
  repeat' first
    | with_reducible assumption | with_reducible refine State.endEntry_acts ?_ (inside hp (by decide))
    | with_reducible refine State.updEntry_acts ?_ (inside hp (by decide)) | with_reducible refine Acts.foldl ?_ ?_
    | with_reducible refine Acts.foldl_fst ?_ ?_ | with_reducible refine Acts.foldl_snd ?_ ?_ | extract_lets | intro _
    | with_reducible refine Acts.ite ?_ ?_ | split | dsimp only | dsimp +zetaDelta only

theorem State.cutEntries_acts {ps : List Part} {z : State} {s : State} {n : Nat} {p : Entry → Bool}
    (hs : Acts ps z s) (hp : ∀ p ∈ ([.draws, .regs, .mem, .host, .queues, .cmds, .weights, .serving, .turns, .logbook, .log, .outbox] : List Part), p ∈ ps) :
    Acts ps z (State.cutEntries s n p) := by
  unfold State.cutEntries
  repeat' first
    | with_reducible assumption | with_reducible refine State.recordDecision_acts ?_ (inside hp (by decide))
    | with_reducible refine State.endEntry_acts ?_ (inside hp (by decide))
    | with_reducible refine State.updEntry_acts ?_ (inside hp (by decide)) | with_reducible refine Acts.foldl ?_ ?_
    | with_reducible refine Acts.foldl_fst ?_ ?_ | with_reducible refine Acts.foldl_snd ?_ ?_ | extract_lets | intro _
    | with_reducible refine Acts.ite ?_ ?_ | dsimp only | dsimp +zetaDelta only

theorem State.serveOpen_acts {ps : List Part} {z : State} {s : State} {c : Cmd}
    (hs : Acts ps z s) (hp : ∀ p ∈ ([.draws, .regs, .mem, .queues, .cmds, .units, .weights, .serving, .lockage, .log, .outbox] : List Part), p ∈ ps) :
    Acts ps z (State.serveOpen s c) := by
  unfold State.serveOpen
  repeat' first
    | with_reducible assumption | with_reducible refine State.awaitCommit_acts ?_ (inside hp (by decide))
    | with_reducible refine State.noteRanges_acts ?_ (inside hp (by decide))
    | with_reducible refine State.running_acts ?_ (inside hp (by decide))
    | with_reducible refine State.finish_acts ?_ (inside hp (by decide))
    | with_reducible refine State.refuse_acts ?_ (inside hp (by decide)) | extract_lets | intro _ | with_reducible refine Acts.ite ?_ ?_
    | split | dsimp only | with_reducible refine Acts.set_serving ?_ (hp _ (by decide)) | dsimp +zetaDelta only

theorem execServeOpen_acts {c : CmdRef} {hv : HostView} {s : State} {t : State} (e : execServeOpen c hv s = .next t) :
    Acts [.draws, .regs, .mem, .host, .queues, .cmds, .units, .weights, .serving, .lockage, .log, .outbox] s t := by
  unfold execServeOpen at e
  refine runs_acts (qs := [.draws, .regs, .mem, .host, .queues, .cmds, .units, .weights, .serving, .lockage, .log, .outbox, .acting]) (by decide) (fun ps hs hp => ?_) e
  repeat' first
    | with_reducible assumption | with_reducible refine State.serveOpen_acts ?_ (inside hp (by decide))
    | with_reducible refine State.start_acts ?_ ?_ (inside hp (by decide))
    | with_reducible refine State.sees_acts ?_ (inside hp (by decide)) | intro _ | dsimp only

theorem State.atServeOpen_acts {ps : List Part} {z : State} {s : State} {r : CmdRef} {n : Nat}
    (hs : Acts ps z s) (hp : ∀ p ∈ ([.spine, .regs, .cmds, .serving, .logbook, .lockage, .outbox] : List Part), p ∈ ps) :
    Acts ps z (State.atServeOpen s r n) := by
  unfold State.atServeOpen
  repeat' first
    | with_reducible assumption | with_reducible refine State.serviceCommit_acts ?_ (inside hp (by decide))
    | with_reducible refine State.updServing_acts ?_ (inside hp (by decide))
    | with_reducible refine State.setNat_acts ?_ (inside hp (by decide))
    | with_reducible refine State.finish_acts ?_ (inside hp (by decide)) | with_reducible refine Acts.foldl ?_ ?_ | extract_lets | intro _
    | dsimp only | dsimp +zetaDelta only

theorem State.placeEntry_acts {ps : List Part} {z : State} {s : State} {n : Nat} {k : Serving} {a3 : Entry} {hold : Bool}
    (hs : Acts ps z s) (hp : ∀ p ∈ ([.draws, .regs, .mem, .host, .weights, .serving, .log, .outbox] : List Part), p ∈ ps) :
    Acts ps z (State.placeEntry s n k a3 hold).1 := by
  unfold State.placeEntry
  extract_lets i live version e used t1 t2 t3
  have h1 : Acts ps z t1 := State.updSet_acts (Acts.set_manifest hs (hp _ (by decide))) (inside hp (by decide))
  have h2 : Acts ps z t2 := by
    clear_value t1 e
    rcases live with _ | ⟨a, x⟩
    · exact h1
    · exact State.updAdapter_acts h1 (inside hp (by decide))
  have h3 : Acts ps z t3 := State.updServing_acts h2 (inside hp (by decide))
  split
  · exact h3
  · exact State.putRecord_acts (State.coverTo_acts h3 (inside hp (by decide))) (inside hp (by decide))

theorem State.admitSequence_acts {ps : List Part} {z : State} {s : State} {c : Cmd}
    (hs : Acts ps z s) (hp : ∀ p ∈ ([.draws, .regs, .mem, .host, .queues, .cmds, .weights, .serving, .logbook, .log, .outbox] : List Part), p ∈ ps) :
    Acts ps z (State.admitSequence s c) := by
  unfold State.admitSequence
  repeat' first
    | with_reducible assumption | with_reducible refine State.recordDecision_acts ?_ (inside hp (by decide))
    | with_reducible refine State.placeEntry_acts ?_ (inside hp (by decide))
    | with_reducible refine State.finish_acts ?_ (inside hp (by decide))
    | with_reducible refine State.refuse_acts ?_ (inside hp (by decide))
    | with_reducible refine State.raise_acts ?_ (inside hp (by decide)) | extract_lets | with_reducible refine Acts.ite ?_ ?_ | split
    | dsimp only | dsimp +zetaDelta only

theorem execAdmitSequence_acts {c : CmdRef} {hv : HostView} {s : State} {t : State} (e : execAdmitSequence c hv s = .next t) :
    Acts [.draws, .regs, .mem, .host, .queues, .cmds, .weights, .serving, .logbook, .log, .outbox] s t := by
  unfold execAdmitSequence at e
  refine runs_acts (qs := [.draws, .regs, .mem, .host, .queues, .cmds, .weights, .serving, .logbook, .log, .outbox, .acting]) (by decide) (fun ps hs hp => ?_) e
  repeat' first
    | with_reducible assumption | with_reducible refine State.admitSequence_acts ?_ (inside hp (by decide))
    | with_reducible refine State.start_acts ?_ ?_ (inside hp (by decide))
    | with_reducible refine State.sees_acts ?_ (inside hp (by decide)) | intro _ | dsimp only

theorem State.releaseHeld_acts {ps : List Part} {z : State} {s : State} {n : Nat} {i : Nat}
    (hs : Acts ps z s) (hp : ∀ p ∈ ([.draws, .regs, .mem, .host, .queues, .weights, .serving, .logbook, .log, .outbox] : List Part), p ∈ ps) :
    Acts ps z (State.releaseHeld s n i) := by
  unfold State.releaseHeld
  repeat' first
    | with_reducible assumption | with_reducible refine State.recordDecision_acts ?_ (inside hp (by decide))
    | with_reducible refine State.updServing_acts ?_ (inside hp (by decide))
    | with_reducible refine State.putRecord_acts ?_ (inside hp (by decide))
    | with_reducible refine State.updEntry_acts ?_ (inside hp (by decide))
    | with_reducible refine State.coverTo_acts ?_ (inside hp (by decide))
    | with_reducible refine State.report_acts ?_ (inside hp (by decide)) | extract_lets | intro _ | split | dsimp only
    | dsimp +zetaDelta only

theorem State.releaseClass_acts {ps : List Part} {z : State} {s : State} {n : Nat} {cls : Nat} {a3 : Nat}
    (hs : Acts ps z s) (hp : ∀ p ∈ ([.draws, .regs, .mem, .host, .queues, .weights, .serving, .logbook, .log, .outbox] : List Part), p ∈ ps) :
    Acts ps z (State.releaseClass s n cls a3).1 := by
  induction a3 generalizing s n cls with
  | zero =>
    unfold State.releaseClass
    repeat' first
      | with_reducible assumption | with_reducible refine State.releaseHeld_acts ?_ (inside hp (by decide)) | extract_lets
      | with_reducible refine Acts.ite ?_ ?_ | split | dsimp only | dsimp +zetaDelta only
  | succ _ ih =>
    unfold State.releaseClass
    repeat' first
      | with_reducible assumption | with_reducible refine ih ?_ | with_reducible refine State.releaseHeld_acts ?_ (inside hp (by decide))
      | extract_lets | with_reducible refine Acts.ite ?_ ?_ | split | dsimp only | dsimp +zetaDelta only

theorem State.admitBacklog_acts {ps : List Part} {z : State} {s : State} {n : Nat} {a2 : Nat}
    (hs : Acts ps z s) (hp : ∀ p ∈ ([.draws, .regs, .mem, .host, .queues, .weights, .serving, .logbook, .log, .outbox] : List Part), p ∈ ps) :
    Acts ps z (State.admitBacklog s n a2) := by
  induction a2 generalizing s n with
  | zero =>
    unfold State.admitBacklog
    repeat' first
      | with_reducible assumption | with_reducible refine State.placeEntry_acts ?_ (inside hp (by decide))
      | with_reducible refine State.updServing_acts ?_ (inside hp (by decide))
      | with_reducible refine State.runEnded_acts ?_ (inside hp (by decide)) | extract_lets | intro _
      | with_reducible refine Acts.ite ?_ ?_ | split | dsimp only | dsimp +zetaDelta only
  | succ _ ih =>
    unfold State.admitBacklog
    repeat' first
      | with_reducible assumption | with_reducible refine ih ?_ | with_reducible refine State.placeEntry_acts ?_ (inside hp (by decide))
      | with_reducible refine State.updServing_acts ?_ (inside hp (by decide))
      | with_reducible refine State.runEnded_acts ?_ (inside hp (by decide)) | extract_lets | intro _
      | with_reducible refine Acts.ite ?_ ?_ | split | dsimp only | dsimp +zetaDelta only

theorem State.rollout_acts {ps : List Part} {z : State} {s : State} {c : Cmd}
    (hs : Acts ps z s) (hp : ∀ p ∈ ([.regs, .queues, .cmds, .serving, .log, .outbox] : List Part), p ∈ ps) :
    Acts ps z (State.rollout s c) := by
  unfold State.rollout
  repeat' first
    | with_reducible assumption | with_reducible refine State.updServing_acts ?_ (inside hp (by decide))
    | with_reducible refine State.refuse_acts ?_ (inside hp (by decide))
    | with_reducible refine State.finish_acts ?_ (inside hp (by decide)) | extract_lets | intro _ | with_reducible refine Acts.ite ?_ ?_
    | split | dsimp only | dsimp +zetaDelta only

theorem execRollout_acts {c : CmdRef} {hv : HostView} {s : State} {t : State} (e : execRollout c hv s = .next t) :
    Acts [.regs, .host, .queues, .cmds, .serving, .log, .outbox] s t := by
  unfold execRollout at e
  refine runs_acts (qs := [.regs, .host, .queues, .cmds, .serving, .log, .outbox, .acting]) (by decide) (fun ps hs hp => ?_) e
  repeat' first
    | with_reducible assumption | with_reducible refine State.rollout_acts ?_ (inside hp (by decide))
    | with_reducible refine State.start_acts ?_ ?_ (inside hp (by decide))
    | with_reducible refine State.sees_acts ?_ (inside hp (by decide)) | intro _ | dsimp only

theorem State.releaseAll_acts {ps : List Part} {z : State} {s : State} {n : Nat} {a2 : Nat}
    (hs : Acts ps z s) (hp : ∀ p ∈ ([.draws, .regs, .mem, .host, .queues, .weights, .serving, .logbook, .log, .outbox] : List Part), p ∈ ps) :
    Acts ps z (State.releaseAll s n a2) := by
  induction a2 generalizing s n with
  | zero =>
    unfold State.releaseAll
    repeat' first
      | with_reducible assumption | with_reducible refine State.releaseClass_acts ?_ (inside hp (by decide))
      | with_reducible refine Acts.foldl ?_ ?_ | with_reducible refine Acts.foldl_fst ?_ ?_ | with_reducible refine Acts.foldl_snd ?_ ?_
      | extract_lets | intro _ | with_reducible refine Acts.ite ?_ ?_ | split | dsimp only | dsimp +zetaDelta only
  | succ _ ih =>
    unfold State.releaseAll
    repeat' first
      | with_reducible assumption | with_reducible refine ih ?_ | with_reducible refine State.releaseClass_acts ?_ (inside hp (by decide))
      | with_reducible refine Acts.foldl ?_ ?_ | with_reducible refine Acts.foldl_fst ?_ ?_ | with_reducible refine Acts.foldl_snd ?_ ?_
      | extract_lets | intro _ | with_reducible refine Acts.ite ?_ ?_ | split | dsimp only | dsimp +zetaDelta only

theorem State.markBudget_acts {ps : List Part} {z : State} {s : State} {n : Nat}
    (hs : Acts ps z s) (hp : ∀ p ∈ ([.serving] : List Part), p ∈ ps) :
    Acts ps z (State.markBudget s n) := by
  unfold State.markBudget
  repeat' first
    | with_reducible assumption | with_reducible refine State.updEntry_acts ?_ (inside hp (by decide))
    | with_reducible refine Acts.foldl ?_ ?_ | with_reducible refine Acts.foldl_fst ?_ ?_ | with_reducible refine Acts.foldl_snd ?_ ?_
    | intro _ | with_reducible refine Acts.ite ?_ ?_ | dsimp only

theorem State.needPages_acts {ps : List Part} {z : State} {s : State} {n : Nat} {i : Nat} {p : Nat}
    (hs : Acts ps z s) (hp : ∀ p ∈ ([.draws, .regs, .mem, .weights, .serving, .log, .outbox] : List Part), p ∈ ps) :
    Acts ps z (State.needPages s n i p).1 := by
  unfold State.needPages
  repeat' first
    | with_reducible assumption | with_reducible refine State.updEntry_acts ?_ (inside hp (by decide))
    | with_reducible refine State.coverTo_acts ?_ (inside hp (by decide)) | extract_lets | intro _ | with_reducible refine Acts.ite ?_ ?_
    | split | dsimp only | dsimp +zetaDelta only

theorem State.takeRows_acts {ps : List Part} {z : State} {s : State} {n : Nat} {chunk : Nat} {a3 : List Nat} {a4 : Nat}
    (hs : Acts ps z s) (hp : ∀ p ∈ ([.draws, .regs, .mem, .weights, .serving, .log, .outbox] : List Part), p ∈ ps) :
    Acts ps z (State.takeRows s n chunk a3 a4).1 := by
  induction a3 generalizing s n chunk a4 with
  | nil =>
    unfold State.takeRows
    repeat' first
      | with_reducible assumption | with_reducible refine State.needPages_acts ?_ (inside hp (by decide)) | extract_lets
      | with_reducible refine Acts.ite ?_ ?_ | split | dsimp only | dsimp +zetaDelta only
  | cons _ _ ih =>
    unfold State.takeRows
    repeat' first
      | with_reducible assumption | with_reducible refine ih ?_ | with_reducible refine State.needPages_acts ?_ (inside hp (by decide))
      | extract_lets | with_reducible refine Acts.ite ?_ ?_ | split | dsimp only | dsimp +zetaDelta only

theorem State.chooseRows_acts {ps : List Part} {z : State} {s : State} {n : Nat} {k : Serving}
    (hs : Acts ps z s) (hp : ∀ p ∈ ([.draws, .regs, .mem, .weights, .serving, .log, .outbox] : List Part), p ∈ ps) :
    Acts ps z (State.chooseRows s n k).1 := by
  unfold State.chooseRows
  repeat' first
    | with_reducible assumption | with_reducible refine State.takeRows_acts ?_ (inside hp (by decide)) | extract_lets | intro _
    | with_reducible refine Acts.ite ?_ ?_ | split | dsimp only | dsimp +zetaDelta only

theorem State.chooseStep_acts {ps : List Part} {z : State} {s : State} {n : Nat} {k : Serving} {a3 : Nat}
    (hs : Acts ps z s) (hp : ∀ p ∈ ([.draws, .regs, .mem, .host, .queues, .cmds, .weights, .serving, .turns, .logbook, .log, .outbox] : List Part), p ∈ ps) :
    Acts ps z (State.chooseStep s n k a3).1 := by
  induction a3 generalizing s n k with
  | zero =>
    unfold State.chooseStep
    repeat' first
      | with_reducible assumption | with_reducible refine State.recordDecision_acts ?_ (inside hp (by decide))
      | with_reducible refine State.chooseRows_acts ?_ (inside hp (by decide))
      | with_reducible refine State.endEntry_acts ?_ (inside hp (by decide))
      | with_reducible refine State.updEntry_acts ?_ (inside hp (by decide)) | with_reducible refine Acts.foldl ?_ ?_
      | with_reducible refine Acts.foldl_fst ?_ ?_ | with_reducible refine Acts.foldl_snd ?_ ?_ | extract_lets | intro _
      | with_reducible refine Acts.ite ?_ ?_ | split | dsimp only | dsimp +zetaDelta only
  | succ _ ih =>
    unfold State.chooseStep
    repeat' first
      | with_reducible assumption | with_reducible refine ih ?_
      | with_reducible refine State.recordDecision_acts ?_ (inside hp (by decide))
      | with_reducible refine State.chooseRows_acts ?_ (inside hp (by decide))
      | with_reducible refine State.endEntry_acts ?_ (inside hp (by decide))
      | with_reducible refine State.updEntry_acts ?_ (inside hp (by decide)) | with_reducible refine Acts.foldl ?_ ?_
      | with_reducible refine Acts.foldl_fst ?_ ?_ | with_reducible refine Acts.foldl_snd ?_ ?_ | extract_lets | intro _
      | with_reducible refine Acts.ite ?_ ?_ | split | dsimp only | dsimp +zetaDelta only

theorem State.closeIfDone_acts {ps : List Part} {z : State} {s : State} {n : Nat}
    (hs : Acts ps z s) (hp : ∀ p ∈ ([.lockage] : List Part), p ∈ ps) :
    Acts ps z (State.closeIfDone s n) := by
  unfold State.closeIfDone
  repeat' first
    | with_reducible assumption | with_reducible refine State.awaitCommit_acts ?_ (inside hp (by decide)) | intro _
    | with_reducible refine Acts.ite ?_ ?_ | split | dsimp only

theorem State.stepReady_acts {ps : List Part} {z : State} {s : State} {n : Nat} {k : Serving}
    (hs : Acts ps z s) (hp : ∀ p ∈ ([.draws, .regs, .mem, .host, .queues, .weights, .serving, .logbook, .log, .outbox] : List Part), p ∈ ps) :
    Acts ps z (State.stepReady s n k) := by
  unfold State.stepReady
  repeat' first
    | with_reducible assumption | with_reducible refine State.admitBacklog_acts ?_ (inside hp (by decide))
    | with_reducible refine State.markBudget_acts ?_ (inside hp (by decide))
    | with_reducible refine State.updServing_acts ?_ (inside hp (by decide))
    | with_reducible refine State.releaseAll_acts ?_ (inside hp (by decide)) | extract_lets | intro _
    | with_reducible refine Acts.ite ?_ ?_ | dsimp only | dsimp +zetaDelta only

theorem State.stepAgain_acts {ps : List Part} {z : State} {s : State} {n : Nat} {b : BatchStep}
    (hs : Acts ps z s) (hp : ∀ p ∈ ([.serving, .log, .outbox] : List Part), p ∈ ps) :
    Acts ps z (State.stepAgain s n b) := by
  unfold State.stepAgain
  repeat' first
    | with_reducible assumption | with_reducible refine State.updServing_acts ?_ (inside hp (by decide))
    | with_reducible refine State.logEvent_acts ?_ (inside hp (by decide)) | extract_lets | intro _ | with_reducible refine Acts.ite ?_ ?_
    | split | dsimp only | dsimp +zetaDelta only

theorem State.stepBuild_acts {ps : List Part} {z : State} {s : State} {n : Nat}
    (hs : Acts ps z s) (hp : ∀ p ∈ ([.draws, .power, .regs, .mem, .host, .queues, .cmds, .weights, .serving, .turns, .logbook, .lockage, .log, .outbox] : List Part), p ∈ ps) :
    Acts ps z (State.stepBuild s n) := by
  unfold State.stepBuild
  repeat' first
    | with_reducible assumption | with_reducible refine State.recordDecision_acts ?_ (inside hp (by decide))
    | with_reducible refine State.dropRegions_acts ?_ (inside hp (by decide))
    | with_reducible refine State.closeIfDone_acts ?_ (inside hp (by decide))
    | with_reducible refine State.updServing_acts ?_ (inside hp (by decide))
    | with_reducible refine State.chooseStep_acts ?_ (inside hp (by decide))
    | with_reducible refine State.stepReady_acts ?_ (inside hp (by decide))
    | with_reducible refine State.stepAgain_acts ?_ (inside hp (by decide))
    | with_reducible refine State.boundary_acts ?_ (inside hp (by decide))
    | with_reducible refine State.wake_acts ?_ (inside hp (by decide)) | extract_lets | intro _ | with_reducible refine Acts.ite ?_ ?_
    | split | dsimp only | dsimp +zetaDelta only

theorem State.feedBoth_acts {ps : List Part} {z : State} {s : State} {k : Serving} {a2 : Entry} {p : Nat} {token : Nat}
    (hs : Acts ps z s) (hp : ∀ p ∈ ([.draws, .regs, .mem, .weights, .log, .outbox] : List Part), p ∈ ps) :
    Acts ps z (State.feedBoth s k a2 p token).1 := by
  unfold State.feedBoth
  repeat' first
    | with_reducible assumption | with_reducible refine State.feed_acts ?_ (inside hp (by decide)) | extract_lets
    | with_reducible refine Acts.ite ?_ ?_ | split | dsimp only | dsimp +zetaDelta only

theorem State.propose_acts {ps : List Part} {z : State} {s : State} {k : Serving} {a2 : Entry} {d : Reader} {a4 : Nat} {a5 : Nat} {a6 : Nat}
    (hs : Acts ps z s) (hp : ∀ p ∈ ([.draws, .regs, .mem, .weights, .log, .outbox] : List Part), p ∈ ps) :
    Acts ps z (State.propose s k a2 d a4 a5 a6).1 := by
  induction a4 generalizing s k a2 d a5 a6 with
  | zero =>
    unfold State.propose
    repeat' first
      | with_reducible assumption | with_reducible refine State.feed_acts ?_ (inside hp (by decide)) | extract_lets | dsimp only
      | dsimp +zetaDelta only
  | succ _ ih =>
    unfold State.propose
    repeat' first
      | with_reducible assumption | with_reducible refine ih ?_ | with_reducible refine State.feed_acts ?_ (inside hp (by decide))
      | extract_lets | dsimp only | dsimp +zetaDelta only

theorem State.verify_acts {ps : List Part} {z : State} {s : State} {k : Serving} {a2 : Entry} {a3 : List Nat} {a4 : Nat}
    (hs : Acts ps z s) (hp : ∀ p ∈ ([.draws, .regs, .mem, .weights, .log, .outbox] : List Part), p ∈ ps) :
    Acts ps z (State.verify s k a2 a3 a4).1 := by
  induction a3 generalizing s k a2 a4 with
  | nil =>
    unfold State.verify
    repeat' first
      | with_reducible assumption | with_reducible refine State.feed_acts ?_ (inside hp (by decide)) | extract_lets | dsimp only
      | dsimp +zetaDelta only
  | cons _ _ ih =>
    unfold State.verify
    repeat' first
      | with_reducible assumption | with_reducible refine ih ?_ | with_reducible refine State.feed_acts ?_ (inside hp (by decide))
      | extract_lets | dsimp only | dsimp +zetaDelta only

theorem State.emitTokens_acts {ps : List Part} {z : State} {s : State} {n : Nat} {i : Nat} {out : List (Nat × Nat)}
    (hs : Acts ps z s) (hp : ∀ p ∈ ([.draws, .regs, .mem, .host, .queues, .cmds, .weights, .serving, .turns, .logbook, .log, .outbox] : List Part), p ∈ ps) :
    Acts ps z (State.emitTokens s n i out) := by
  unfold State.emitTokens
  repeat' first
    | with_reducible assumption | with_reducible refine State.putTokens_acts ?_ (inside hp (by decide))
    | with_reducible refine State.endEntry_acts ?_ (inside hp (by decide))
    | with_reducible refine State.updEntry_acts ?_ (inside hp (by decide))
    | with_reducible refine State.debit_acts ?_ (inside hp (by decide))
    | with_reducible refine State.add64_acts ?_ (inside hp (by decide)) | extract_lets | intro _ | with_reducible refine Acts.ite ?_ ?_
    | split | dsimp only | dsimp +zetaDelta only

theorem State.decodeRow_acts {ps : List Part} {z : State} {s : State} {n : Nat} {i : Nat} {draftK : Nat} {k : Serving} {a5 : Entry}
    (hs : Acts ps z s) (hp : ∀ p ∈ ([.draws, .regs, .mem, .host, .queues, .cmds, .weights, .serving, .turns, .logbook, .log, .outbox] : List Part), p ∈ ps) :
    Acts ps z (State.decodeRow s n i draftK k a5) := by
  unfold State.decodeRow
  repeat' first
    | with_reducible assumption | with_reducible refine State.emitTokens_acts ?_ (inside hp (by decide))
    | with_reducible refine State.updEntry_acts ?_ (inside hp (by decide))
    | with_reducible refine State.propose_acts ?_ (inside hp (by decide))
    | with_reducible refine State.verify_acts ?_ (inside hp (by decide))
    | with_reducible refine State.add64_acts ?_ (inside hp (by decide)) | extract_lets | intro _ | with_reducible refine Acts.ite ?_ ?_
    | split | dsimp only | dsimp +zetaDelta only

theorem State.feedTokens_acts {ps : List Part} {z : State} {s : State} {k : Serving} {a2 : Entry} {a3 : Nat} {a4 : Nat} {a5 : List Fp}
    (hs : Acts ps z s) (hp : ∀ p ∈ ([.draws, .regs, .mem, .weights, .log, .outbox] : List Part), p ∈ ps) :
    Acts ps z (State.feedTokens s k a2 a3 a4 a5).1 := by
  induction a3 generalizing s k a2 a4 a5 with
  | zero =>
    unfold State.feedTokens
    repeat' first
      | with_reducible assumption | with_reducible refine State.feedBoth_acts ?_ (inside hp (by decide)) | extract_lets | split
      | dsimp only | dsimp +zetaDelta only
  | succ _ ih =>
    unfold State.feedTokens
    repeat' first
      | with_reducible assumption | with_reducible refine ih ?_ | with_reducible refine State.feedBoth_acts ?_ (inside hp (by decide))
      | extract_lets | split | dsimp only | dsimp +zetaDelta only

theorem State.prefillRow_acts {ps : List Part} {z : State} {s : State} {n : Nat} {i : Nat} {f : Nat} {k : Serving} {a5 : Entry}
    (hs : Acts ps z s) (hp : ∀ p ∈ ([.draws, .regs, .mem, .host, .queues, .cmds, .weights, .serving, .turns, .logbook, .log, .outbox] : List Part), p ∈ ps) :
    Acts ps z (State.prefillRow s n i f k a5) := by
  unfold State.prefillRow
  repeat' first
    | with_reducible assumption | with_reducible refine State.recordHostRead_acts ?_ (inside hp (by decide))
    | with_reducible refine State.emitTokens_acts ?_ (inside hp (by decide))
    | with_reducible refine State.feedTokens_acts ?_ (inside hp (by decide))
    | with_reducible refine State.endEntry_acts ?_ (inside hp (by decide))
    | with_reducible refine State.updEntry_acts ?_ (inside hp (by decide))
    | with_reducible refine State.debit_acts ?_ (inside hp (by decide))
    | with_reducible refine State.add64_acts ?_ (inside hp (by decide)) | extract_lets | intro _ | with_reducible refine Acts.ite ?_ ?_
    | split | dsimp only | dsimp +zetaDelta only

theorem State.rebuild_acts {ps : List Part} {z : State} {s : State} {n : Nat} {i : Nat}
    (hs : Acts ps z s) (hp : ∀ p ∈ ([.serving] : List Part), p ∈ ps) :
    Acts ps z (State.rebuild s n i) := by
  unfold State.rebuild
  repeat' first
    | with_reducible assumption | with_reducible refine State.updServing_acts ?_ (inside hp (by decide))
    | with_reducible refine State.freeSpans_acts ?_ (inside hp (by decide))
    | with_reducible refine State.updEntry_acts ?_ (inside hp (by decide)) | intro _ | dsimp only

theorem State.stepRow_acts {ps : List Part} {z : State} {s : State} {n : Nat} {r : StepRow}
    (hs : Acts ps z s) (hp : ∀ p ∈ ([.draws, .regs, .mem, .host, .queues, .cmds, .units, .weights, .serving, .turns, .logbook, .log, .outbox] : List Part), p ∈ ps) :
    Acts ps z (State.stepRow s n r) := by
  unfold State.stepRow
  repeat' first
    | with_reducible assumption | with_reducible refine State.noteRanges_acts ?_ (inside hp (by decide))
    | with_reducible refine State.prefillRow_acts ?_ (inside hp (by decide))
    | with_reducible refine State.freeSpans_acts ?_ (inside hp (by decide))
    | with_reducible refine State.decodeRow_acts ?_ (inside hp (by decide))
    | with_reducible refine State.endEntry_acts ?_ (inside hp (by decide))
    | with_reducible refine State.updEntry_acts ?_ (inside hp (by decide))
    | with_reducible refine State.rebuild_acts ?_ (inside hp (by decide)) | extract_lets | intro _ | with_reducible refine Acts.ite ?_ ?_
    | split | dsimp only | dsimp +zetaDelta only

theorem State.interrupt_acts {ps : List Part} {z : State} {s : State} {n : Nat} {b : BatchStep} {tries : Nat}
    (hs : Acts ps z s) (hp : ∀ p ∈ ([.draws, .regs, .mem, .host, .queues, .cmds, .weights, .serving, .turns, .logbook, .lockage, .log, .outbox] : List Part), p ∈ ps) :
    Acts ps z (State.interrupt s n b tries) := by
  unfold State.interrupt
  repeat' first
    | with_reducible assumption | with_reducible refine State.closeIfDone_acts ?_ (inside hp (by decide))
    | with_reducible refine State.updServing_acts ?_ (inside hp (by decide))
    | with_reducible refine State.boundary_acts ?_ (inside hp (by decide))
    | with_reducible refine State.stepOver_acts ?_ (inside hp (by decide)) | intro _ | dsimp only

theorem State.stepRun_acts {ps : List Part} {z : State} {s : State} {n : Nat} {k : Serving} {b : BatchStep}
    (hs : Acts ps z s) (hp : ∀ p ∈ ([.draws, .regs, .mem, .host, .queues, .cmds, .units, .weights, .serving, .turns, .logbook, .lockage, .log, .outbox] : List Part), p ∈ ps) :
    Acts ps z (State.stepRun s n k b) := by
  unfold State.stepRun
  extract_lets rows t1 bad counted u t2 t3 t4
  have h1 : Acts ps z t1 := Acts.foldl hs fun u x hu => State.stepRow_acts hu (inside hp (by decide))
  have hc : ∀ x, Acts ps z x → Acts ps z (counted x) := fun x hx => State.add64_acts hx (inside hp (by decide))
  have hu : Acts ps z u := Acts.mix hs h1 (hp _ (by decide)) (hp _ (by decide))
  have h2 : Acts ps z t2 := Acts.foldl h1 fun u x hu => State.endEntry_acts hu (inside hp (by decide))
  have h4 : Acts ps z t4 := by
    simp only [t4]
    split
    · exact State.sat32_acts (hc _ h2) (inside hp (by decide))
    · exact hc _ h2
  split
  · refine State.interrupt_acts ?_ (inside hp (by decide))
    split
    · exact hu
    · exact hc _ hu
  · exact State.closeIfDone_acts (State.boundary_acts (State.stepOver_acts h4 (inside hp (by decide))) (inside hp (by decide)))
      (inside hp (by decide))

theorem State.stepComplete_acts {ps : List Part} {z : State} {s : State} {n : Nat}
    (hs : Acts ps z s) (hp : ∀ p ∈ ([.draws, .power, .regs, .mem, .host, .queues, .cmds, .units, .weights, .serving, .turns, .logbook, .lockage, .log, .outbox, .acting] : List Part), p ∈ ps) :
    Acts ps z (State.stepComplete s n) := by
  unfold State.stepComplete
  repeat' first
    | with_reducible assumption | with_reducible refine State.noteRanges_acts ?_ (inside hp (by decide))
    | with_reducible refine State.interrupt_acts ?_ (inside hp (by decide))
    | with_reducible refine State.stepRun_acts ?_ (inside hp (by decide))
    | with_reducible refine State.actFor_acts ?_ (inside hp (by decide)) | extract_lets | with_reducible refine Acts.ite ?_ ?_ | split
    | with_reducible refine Acts.set_power ?_ (hp _ (by decide)) | dsimp +zetaDelta only

theorem execServeStepComplete_acts {svc : Nat} {now : Nat} {hv : HostView} {s : State} {t : State} (e : execServeStepComplete svc now hv s = .next t) :
    Acts [.draws, .clock, .power, .regs, .mem, .host, .queues, .cmds, .units, .weights, .serving, .turns, .logbook, .lockage, .log, .outbox] s t := by
  unfold execServeStepComplete at e
  refine runs_acts (qs := [.draws, .clock, .power, .regs, .mem, .host, .queues, .cmds, .units, .weights, .serving, .turns, .logbook, .lockage, .log, .outbox, .acting]) (by decide) (fun ps hs hp => ?_) e
  repeat' first
    | with_reducible assumption | with_reducible refine State.stepComplete_acts ?_ (inside hp (by decide))
    | with_reducible refine State.sees_acts ?_ (inside hp (by decide)) | with_reducible refine State.at_acts ?_ (inside hp (by decide))
    | intro _ | dsimp only

theorem State.seqCancel_acts {ps : List Part} {z : State} {s : State} {c : Cmd}
    (hs : Acts ps z s) (hp : ∀ p ∈ ([.draws, .regs, .mem, .host, .queues, .cmds, .weights, .serving, .turns, .logbook, .log, .outbox] : List Part), p ∈ ps) :
    Acts ps z (State.seqCancel s c) := by
  unfold State.seqCancel
  repeat' first
    | with_reducible assumption | with_reducible refine State.endEntry_acts ?_ (inside hp (by decide))
    | with_reducible refine State.updEntry_acts ?_ (inside hp (by decide))
    | with_reducible refine State.boundary_acts ?_ (inside hp (by decide))
    | with_reducible refine State.running_acts ?_ (inside hp (by decide))
    | with_reducible refine State.finish_acts ?_ (inside hp (by decide))
    | with_reducible refine State.refuse_acts ?_ (inside hp (by decide)) | extract_lets | intro _ | with_reducible refine Acts.ite ?_ ?_
    | split | dsimp only | dsimp +zetaDelta only

theorem execSeqCancel_acts {c : CmdRef} {hv : HostView} {s : State} {t : State} (e : execSeqCancel c hv s = .next t) :
    Acts [.draws, .regs, .mem, .host, .queues, .cmds, .weights, .serving, .turns, .logbook, .log, .outbox] s t := by
  unfold execSeqCancel at e
  refine runs_acts (qs := [.draws, .regs, .mem, .host, .queues, .cmds, .weights, .serving, .turns, .logbook, .log, .outbox, .acting]) (by decide) (fun ps hs hp => ?_) e
  repeat' first
    | with_reducible assumption | with_reducible refine State.seqCancel_acts ?_ (inside hp (by decide))
    | with_reducible refine State.start_acts ?_ ?_ (inside hp (by decide))
    | with_reducible refine State.sees_acts ?_ (inside hp (by decide)) | intro _ | dsimp only

theorem State.dropBacklog_acts {ps : List Part} {z : State} {s : State} {n : Nat} {st : Nat}
    (hs : Acts ps z s) (hp : ∀ p ∈ ([.draws, .regs, .mem, .host, .queues, .weights, .serving, .logbook, .log, .outbox] : List Part), p ∈ ps) :
    Acts ps z (State.dropBacklog s n st) := by
  unfold State.dropBacklog
  repeat' first
    | with_reducible assumption | with_reducible refine State.updServing_acts ?_ (inside hp (by decide))
    | with_reducible refine State.runEnded_acts ?_ (inside hp (by decide)) | with_reducible refine Acts.foldl ?_ ?_ | extract_lets
    | intro _ | split | dsimp only | dsimp +zetaDelta only

theorem State.serveClose_acts {ps : List Part} {z : State} {s : State} {c : Cmd}
    (hs : Acts ps z s) (hp : ∀ p ∈ ([.draws, .regs, .mem, .host, .queues, .cmds, .weights, .serving, .turns, .logbook, .lockage, .log, .outbox] : List Part), p ∈ ps) :
    Acts ps z (State.serveClose s c) := by
  unfold State.serveClose
  repeat' first
    | with_reducible assumption | with_reducible refine State.dropBacklog_acts ?_ (inside hp (by decide))
    | with_reducible refine State.closeIfDone_acts ?_ (inside hp (by decide))
    | with_reducible refine State.cutEntries_acts ?_ (inside hp (by decide))
    | with_reducible refine State.updServing_acts ?_ (inside hp (by decide))
    | with_reducible refine State.boundary_acts ?_ (inside hp (by decide))
    | with_reducible refine State.running_acts ?_ (inside hp (by decide))
    | with_reducible refine State.finish_acts ?_ (inside hp (by decide))
    | with_reducible refine State.refuse_acts ?_ (inside hp (by decide)) | extract_lets | intro _ | with_reducible refine Acts.ite ?_ ?_
    | split | dsimp only | dsimp +zetaDelta only

theorem execServeClose_acts {c : CmdRef} {hv : HostView} {s : State} {t : State} (e : execServeClose c hv s = .next t) :
    Acts [.draws, .regs, .mem, .host, .queues, .cmds, .weights, .serving, .turns, .logbook, .lockage, .log, .outbox] s t := by
  unfold execServeClose at e
  refine runs_acts (qs := [.draws, .regs, .mem, .host, .queues, .cmds, .weights, .serving, .turns, .logbook, .lockage, .log, .outbox, .acting]) (by decide) (fun ps hs hp => ?_) e
  repeat' first
    | with_reducible assumption | with_reducible refine State.serveClose_acts ?_ (inside hp (by decide))
    | with_reducible refine State.start_acts ?_ ?_ (inside hp (by decide))
    | with_reducible refine State.sees_acts ?_ (inside hp (by decide)) | intro _ | dsimp only

theorem State.atServeClose_acts {ps : List Part} {z : State} {s : State} {n : Nat}
    (hs : Acts ps z s) (hp : ∀ p ∈ ([.spine, .regs, .cmds, .serving, .logbook, .lockage, .outbox] : List Part), p ∈ ps) :
    Acts ps z (State.atServeClose s n) := by
  unfold State.atServeClose
  repeat' first
    | with_reducible assumption | with_reducible refine State.serviceCommit_acts ?_ (inside hp (by decide))
    | with_reducible refine State.finish_acts ?_ (inside hp (by decide)) | extract_lets | split
    | with_reducible refine Acts.set_serving ?_ (hp _ (by decide)) | dsimp +zetaDelta only

theorem execManifestViewRead_acts {s : State} {t : State} (e : execManifestViewRead s = .next t) :
    Acts [.serving, .outbox] s t := by
  unfold execManifestViewRead runsHost at e
  refine runs_acts (qs := [.serving, .outbox]) (by decide) (fun ps hs hp => ?_) e
  repeat' first
    | with_reducible assumption | with_reducible refine Acts.ite ?_ ?_ | with_reducible refine State.emit_acts ?_ (inside hp (by decide)) | extract_lets | intro _ | dsimp only
    | with_reducible refine Acts.set_manifestView ?_ (hp _ (by decide)) | dsimp +zetaDelta only

end Sys2Proof.Machine
end

