-- ==== Sys2Proof/Laws/ActsTraining.lean ====
section
/-! SUPPORT. What the operations of Machine/Training.lean may do (Laws/Acts.lean): the parts each may change, the invariant kept. -/

namespace Sys2Proof.Machine

open Sys2Proof

theorem State.trainStep_acts {ps : List Part} {z : State} {s : State} {c : Cmd}
    (hs : Acts ps z s) (hp : ∀ p ∈ ([.draws, .regs, .mem, .queues, .cmds, .units, .weights, .trains, .lockage, .log, .outbox] : List Part), p ∈ ps) :
    Acts ps z (State.trainStep s c) := by
  unfold State.trainStep
  repeat' first
    | with_reducible assumption | with_reducible refine State.awaitCommit_acts ?_ (inside hp (by decide))
    | with_reducible refine State.noteRanges_acts ?_ (inside hp (by decide))
    | with_reducible refine State.running_acts ?_ (inside hp (by decide))
    | with_reducible refine State.finish_acts ?_ (inside hp (by decide))
    | with_reducible refine State.refuse_acts ?_ (inside hp (by decide)) | extract_lets | intro _ | with_reducible refine Acts.ite ?_ ?_
    | split | dsimp only | with_reducible refine Acts.set_trains ?_ (hp _ (by decide)) | dsimp +zetaDelta only

theorem execTrainStep_acts {c : CmdRef} {hv : HostView} {s : State} {t : State} (e : execTrainStep c hv s = .next t) :
    Acts [.draws, .regs, .mem, .host, .queues, .cmds, .units, .weights, .trains, .lockage, .log, .outbox] s t := by
  unfold execTrainStep at e
  refine runs_acts (qs := [.draws, .regs, .mem, .host, .queues, .cmds, .units, .weights, .trains, .lockage, .log, .outbox, .acting]) (by decide) (fun ps hs hp => ?_) e
  repeat' first
    | with_reducible assumption | with_reducible refine State.trainStep_acts ?_ (inside hp (by decide))
    | with_reducible refine State.start_acts ?_ ?_ (inside hp (by decide))
    | with_reducible refine State.sees_acts ?_ (inside hp (by decide)) | intro _ | dsimp only

theorem State.updTrain_acts {ps : List Part} {z : State} {s : State} {n : Nat} {f : Train → Train}
    (hs : Acts ps z s) (hp : ∀ p ∈ ([.trains] : List Part), p ∈ ps) :
    Acts ps z (State.updTrain s n f) := by
  unfold State.updTrain
  repeat' first
    | with_reducible assumption | split | with_reducible refine Acts.set_trains ?_ (hp _ (by decide))

theorem State.refreshNarrow_acts {ps : List Part} {z : State} {s : State} {c : Cmd} {p : Plan}
    (hs : Acts ps z s) (hp : ∀ p ∈ ([.draws, .regs, .mem, .weights, .log, .outbox] : List Part), p ∈ ps) :
    Acts ps z (State.refreshNarrow s c p) := by
  unfold State.refreshNarrow
  repeat' first
    | with_reducible assumption | with_reducible refine State.setCtxBit_acts ?_ (inside hp (by decide))
    | with_reducible refine State.putNarrow_acts ?_ (inside hp (by decide)) | with_reducible refine Acts.foldl ?_ ?_
    | with_reducible refine Acts.foldl_fst ?_ ?_ | extract_lets | intro _ | with_reducible refine Acts.ite ?_ ?_ | dsimp only
    | dsimp +zetaDelta only

theorem State.atTrainOpen_acts {ps : List Part} {z : State} {s : State} {r : CmdRef} {n : Nat}
    (hs : Acts ps z s) (hp : ∀ p ∈ ([.spine, .draws, .regs, .mem, .cmds, .weights, .trains, .logbook, .lockage, .log, .outbox] : List Part), p ∈ ps) :
    Acts ps z (State.atTrainOpen s r n) := by
  unfold State.atTrainOpen
  repeat' first
    | with_reducible assumption | with_reducible refine State.refreshNarrow_acts ?_ (inside hp (by decide))
    | with_reducible refine State.serviceCommit_acts ?_ (inside hp (by decide))
    | with_reducible refine State.updTrain_acts ?_ (inside hp (by decide))
    | with_reducible refine State.setNat_acts ?_ (inside hp (by decide))
    | with_reducible refine State.finish_acts ?_ (inside hp (by decide)) | with_reducible refine Acts.foldl ?_ ?_ | extract_lets | intro _
    | split | dsimp only | dsimp +zetaDelta only

theorem State.trainReport_acts {ps : List Part} {z : State} {s : State} {k : Train} {st : Nat} {detail : Nat} {r0 : Nat} {r1 : Nat}
    (hs : Acts ps z s) (hp : ∀ p ∈ ([.draws, .regs, .mem, .host, .queues, .weights, .logbook, .log, .outbox] : List Part), p ∈ ps) :
    Acts ps z (State.trainReport s k st detail r0 r1) := by
  unfold State.trainReport
  repeat' first
    | with_reducible assumption | with_reducible refine State.report_acts ?_ (inside hp (by decide))

theorem State.stepReport_acts {ps : List Part} {z : State} {s : State} {n : Nat} {st : Nat}
    (hs : Acts ps z s) (hp : ∀ p ∈ ([.draws, .regs, .mem, .host, .queues, .weights, .trains, .turns, .logbook, .lockage, .log, .outbox] : List Part), p ∈ ps) :
    Acts ps z (State.stepReport s n st) := by
  unfold State.stepReport
  repeat' first
    | with_reducible assumption | with_reducible refine State.trainTurnFails_acts ?_ (inside hp (by decide))
    | with_reducible refine State.trainReport_acts ?_ (inside hp (by decide))
    | with_reducible refine State.updTrain_acts ?_ (inside hp (by decide))
    | with_reducible refine State.setNat_acts ?_ (inside hp (by decide)) | extract_lets | intro _ | with_reducible refine Acts.ite ?_ ?_
    | split | dsimp only | dsimp +zetaDelta only

theorem State.dropTrainColls_acts {ps : List Part} {z : State} {s : State} {n : Nat}
    (hs : Acts ps z s) (hp : ∀ p ∈ ([.draws, .regs, .mem, .cmds, .links, .colls, .turns, .lockage, .mgmt, .outbox] : List Part), p ∈ ps) :
    Acts ps z (State.dropTrainColls s n) := by
  unfold State.dropTrainColls
  repeat' first
    | with_reducible assumption | with_reducible refine State.failColl_acts ?_ (inside hp (by decide))
    | with_reducible refine Acts.foldl ?_ ?_ | extract_lets | intro _ | dsimp only
    | with_reducible refine Acts.set_colls ?_ (hp _ (by decide)) | dsimp +zetaDelta only

theorem State.endStep_acts {ps : List Part} {z : State} {s : State} {n : Nat}
    (hs : Acts ps z s) (hp : ∀ p ∈ ([.draws, .regs, .mem, .cmds, .links, .colls, .trains, .turns, .lockage, .mgmt, .outbox] : List Part), p ∈ ps) :
    Acts ps z (State.endStep s n) := by
  unfold State.endStep
  repeat' first
    | with_reducible assumption | with_reducible refine State.dropTrainColls_acts ?_ (inside hp (by decide))
    | with_reducible refine State.answerParking_acts ?_ (inside hp (by decide))
    | with_reducible refine State.awaitCommit_acts ?_ (inside hp (by decide))
    | with_reducible refine State.updTrain_acts ?_ (inside hp (by decide)) | extract_lets | intro _ | with_reducible refine Acts.ite ?_ ?_
    | split | dsimp only | dsimp +zetaDelta only

theorem State.stopTrain_acts {ps : List Part} {z : State} {s : State} {n : Nat} {st : Nat}
    (hs : Acts ps z s) (hp : ∀ p ∈ ([.draws, .regs, .mem, .host, .queues, .cmds, .weights, .links, .colls, .trains, .turns, .logbook, .lockage, .mgmt, .log, .outbox] : List Part), p ∈ ps) :
    Acts ps z (State.stopTrain s n st) := by
  unfold State.stopTrain
  repeat' first
    | with_reducible assumption | with_reducible refine State.dropTrainColls_acts ?_ (inside hp (by decide))
    | with_reducible refine State.answerParking_acts ?_ (inside hp (by decide))
    | with_reducible refine State.awaitCommit_acts ?_ (inside hp (by decide))
    | with_reducible refine State.trainReport_acts ?_ (inside hp (by decide))
    | with_reducible refine State.stepReport_acts ?_ (inside hp (by decide))
    | with_reducible refine State.updTrain_acts ?_ (inside hp (by decide))
    | with_reducible refine State.raise_acts ?_ (inside hp (by decide)) | extract_lets | intro _ | with_reducible refine Acts.ite ?_ ?_
    | split | dsimp only | dsimp +zetaDelta only

theorem State.atTrainClose_acts {ps : List Part} {z : State} {s : State} {n : Nat}
    (hs : Acts ps z s) (hp : ∀ p ∈ ([.spine, .draws, .regs, .mem, .host, .queues, .cmds, .weights, .links, .colls, .trains, .turns, .logbook, .lockage, .mgmt, .log, .outbox] : List Part), p ∈ ps) :
    Acts ps z (State.atTrainClose s n) := by
  unfold State.atTrainClose
  repeat' first
    | with_reducible assumption | with_reducible refine State.releaseRetained_acts ?_ (inside hp (by decide))
    | with_reducible refine State.dropTrainColls_acts ?_ (inside hp (by decide))
    | with_reducible refine State.answerParking_acts ?_ (inside hp (by decide))
    | with_reducible refine State.serviceCommit_acts ?_ (inside hp (by decide))
    | with_reducible refine State.trainReport_acts ?_ (inside hp (by decide))
    | with_reducible refine State.finish_acts ?_ (inside hp (by decide)) | extract_lets | with_reducible refine Acts.ite ?_ ?_ | split
    | with_reducible refine Acts.set_trains ?_ (hp _ (by decide)) | dsimp +zetaDelta only

theorem State.issue_acts {ps : List Part} {z : State} {s : State} {o : CollOwner} {c : Cmd} {run : State → State}
    (hs : Acts ps z s) (hrun : ∀ (x0 : State), Acts ps z x0 → Acts ps z (run x0)) (hp : ∀ p ∈ ([.regs, .cmds, .colls, .turns, .lockage] : List Part), p ∈ ps) :
    Acts ps z (State.issue s o c run) := by
  unfold State.issue
  repeat' first
    | with_reducible assumption | with_reducible refine State.noteAccepted_acts ?_ (inside hp (by decide))
    | with_reducible refine State.closeColl_acts ?_ (inside hp (by decide))
    | with_reducible refine State.openColl_acts ?_ (inside hp (by decide)) | with_reducible refine hrun _ ?_ | extract_lets | intro _
    | with_reducible refine Acts.ite ?_ ?_ | split | dsimp only | dsimp +zetaDelta only

theorem State.issueVote_acts {ps : List Part} {z : State} {s : State} {n : Nat} {k : Train} {group : Nat} {seq : Nat} {kind : Nat} {round : Nat} {localBit : Nat} {b : Nat} {assay : Nat} {hist : Nat}
    (hs : Acts ps z s) (hp : ∀ p ∈ ([.draws, .regs, .mem, .cmds, .units, .weights, .links, .colls, .turns, .lockage, .mgmt, .log, .outbox] : List Part), p ∈ ps) :
    Acts ps z (State.issueVote s n k group seq kind round localBit b assay hist) := by
  unfold State.issueVote
  repeat' first
    | with_reducible assumption | with_reducible refine State.openColl_acts ?_ (inside hp (by decide))
    | with_reducible refine State.castVote_acts ?_ (inside hp (by decide))
    | with_reducible refine State.issue_acts ?_ ?_ (inside hp (by decide)) | extract_lets | intro _ | dsimp only | dsimp +zetaDelta only

theorem State.sendPipe_acts {ps : List Part} {z : State} {s : State} {n : Nat} {k : Train} {group : Nat} {dir : Nat} {seq : Nat} {body : List Byte}
    (hs : Acts ps z s) (hp : ∀ p ∈ ([.draws, .regs, .mem, .cmds, .units, .weights, .links, .colls, .trains, .turns, .lockage, .mgmt, .log, .outbox] : List Part), p ∈ ps) :
    Acts ps z (State.sendPipe s n k group dir seq body) := by
  unfold State.sendPipe
  repeat' first
    | with_reducible assumption | with_reducible refine State.updTrain_acts ?_ (inside hp (by decide))
    | with_reducible refine State.sendRun_acts ?_ (inside hp (by decide))
    | with_reducible refine State.issue_acts ?_ ?_ (inside hp (by decide))
    | with_reducible refine State.sat32_acts ?_ (inside hp (by decide)) | extract_lets | intro _ | with_reducible refine Acts.ite ?_ ?_
    | split | dsimp only | dsimp +zetaDelta only

theorem State.takeSends_acts {ps : List Part} {z : State} {s : State} {n : Nat}
    (hs : Acts ps z s) (hp : ∀ p ∈ ([.regs, .colls, .trains] : List Part), p ∈ ps) :
    Acts ps z (State.takeSends s n) := by
  unfold State.takeSends
  repeat' first
    | with_reducible assumption | with_reducible refine State.updTrain_acts ?_ (inside hp (by decide))
    | with_reducible refine State.add64_acts ?_ (inside hp (by decide)) | with_reducible refine Acts.foldl ?_ ?_ | extract_lets | intro _
    | with_reducible refine Acts.ite ?_ ?_ | split | dsimp only | with_reducible refine Acts.set_colls ?_ (hp _ (by decide))
    | dsimp +zetaDelta only

theorem State.microInvalid_acts {ps : List Part} {z : State} {s : State} {n : Nat} {micro : Nat} {counts : Bool}
    (hs : Acts ps z s) (hp : ∀ p ∈ ([.regs, .trains, .outbox] : List Part), p ∈ ps) :
    Acts ps z (State.microInvalid s n micro counts) := by
  unfold State.microInvalid
  repeat' first
    | with_reducible assumption | with_reducible refine State.updTrain_acts ?_ (inside hp (by decide))
    | with_reducible refine State.sat32_acts ?_ (inside hp (by decide))
    | with_reducible refine State.raise_acts ?_ (inside hp (by decide)) | extract_lets | intro _ | with_reducible refine Acts.ite ?_ ?_
    | dsimp only | dsimp +zetaDelta only

theorem State.stashCounted_acts {ps : List Part} {z : State} {s : State} {k : Train} {micro : Nat} {values : Nat} {fmt : Nat}
    (hs : Acts ps z s) (hp : ∀ p ∈ ([.draws, .regs] : List Part), p ∈ ps) :
    Acts ps z (State.stashCounted s k micro values fmt) := by
  unfold State.stashCounted
  repeat' first
    | with_reducible assumption | with_reducible refine State.addAssay_acts ?_ (inside hp (by decide))
    | with_reducible refine State.draw_acts ?_ (inside hp (by decide)) | extract_lets | dsimp only | dsimp +zetaDelta only

theorem State.postPound_acts {ps : List Part} {z : State} {s : State} {n : Nat} {forward : Bool} {a3 : Nat}
    (hs : Acts ps z s) (hp : ∀ p ∈ ([.regs, .cmds, .colls, .trains, .turns, .lockage] : List Part), p ∈ ps) :
    Acts ps z (State.postPound s n forward a3) := by
  induction a3 generalizing s n forward with
  | zero =>
    unfold State.postPound
    repeat' first
      | with_reducible assumption | with_reducible refine State.updTrain_acts ?_ (inside hp (by decide))
      | with_reducible refine State.openColl_acts ?_ (inside hp (by decide))
      | with_reducible refine State.issue_acts ?_ ?_ (inside hp (by decide)) | extract_lets | intro _
      | with_reducible refine Acts.ite ?_ ?_ | split | dsimp only | dsimp +zetaDelta only
  | succ _ ih =>
    unfold State.postPound
    repeat' first
      | with_reducible assumption | with_reducible refine ih ?_ | with_reducible refine State.updTrain_acts ?_ (inside hp (by decide))
      | with_reducible refine State.openColl_acts ?_ (inside hp (by decide))
      | with_reducible refine State.issue_acts ?_ ?_ (inside hp (by decide)) | extract_lets | intro _
      | with_reducible refine Acts.ite ?_ ?_ | split | dsimp only | dsimp +zetaDelta only

theorem State.postRecvs_acts {ps : List Part} {z : State} {s : State} {n : Nat}
    (hs : Acts ps z s) (hp : ∀ p ∈ ([.regs, .cmds, .colls, .trains, .turns, .lockage] : List Part), p ∈ ps) :
    Acts ps z (State.postRecvs s n) := by
  unfold State.postRecvs
  repeat' first
    | with_reducible assumption | with_reducible refine State.postPound_acts ?_ (inside hp (by decide))

theorem State.takeEntry_acts {ps : List Part} {z : State} {s : State} {n : Nat} {x : Coll}
    (hs : Acts ps z s) (hp : ∀ p ∈ ([.colls, .trains] : List Part), p ∈ ps) :
    Acts ps z (State.takeEntry s n x) := by
  unfold State.takeEntry
  repeat' first
    | with_reducible assumption | with_reducible refine State.updTrain_acts ?_ (inside hp (by decide)) | extract_lets | intro _
    | with_reducible refine Acts.ite ?_ ?_ | dsimp only | with_reducible refine Acts.set_colls ?_ (hp _ (by decide))
    | dsimp +zetaDelta only

theorem State.takeEntries_acts {ps : List Part} {z : State} {s : State} {n : Nat} {k : Train}
    (hs : Acts ps z s) (hp : ∀ p ∈ ([.colls, .trains] : List Part), p ∈ ps) :
    Acts ps z (State.takeEntries s n k) := by
  unfold State.takeEntries
  repeat' first
    | with_reducible assumption | with_reducible refine State.takeEntry_acts ?_ (inside hp (by decide))
    | with_reducible refine Acts.foldl ?_ ?_ | intro _ | dsimp only

theorem State.beginOp_acts {ps : List Part} {z : State} {s : State} {n : Nat} {k : Train} {forward : Bool}
    (hs : Acts ps z s) (hp : ∀ p ∈ ([.draws, .regs, .mem, .host, .queues, .cmds, .units, .weights, .links, .colls, .trains, .turns, .logbook, .lockage, .mgmt, .log, .outbox] : List Part), p ∈ ps) :
    Acts ps z (State.beginOp s n k forward) := by
  unfold State.beginOp
  repeat' first
    | with_reducible assumption | with_reducible refine State.noteRanges_acts ?_ (inside hp (by decide))
    | with_reducible refine State.stopTrain_acts ?_ (inside hp (by decide))
    | with_reducible refine State.updTrain_acts ?_ (inside hp (by decide))
    | with_reducible refine State.add64_acts ?_ (inside hp (by decide)) | extract_lets | intro _ | with_reducible refine Acts.ite ?_ ?_
    | split | dsimp only | dsimp +zetaDelta only

theorem State.gatherNext_acts {ps : List Part} {z : State} {s : State} {n : Nat} {k : Train} {o : PassOp} {x : PlanTensor}
    (hs : Acts ps z s) (hp : ∀ p ∈ ([.draws, .regs, .mem, .cmds, .units, .weights, .links, .colls, .trains, .turns, .lockage, .mgmt, .log, .outbox] : List Part), p ∈ ps) :
    Acts ps z (State.gatherNext s n k o x) := by
  unfold State.gatherNext
  repeat' first
    | with_reducible assumption | with_reducible refine State.setCtxBit_acts ?_ (inside hp (by decide))
    | with_reducible refine State.gatherRun_acts ?_ (inside hp (by decide))
    | with_reducible refine State.updTrain_acts ?_ (inside hp (by decide))
    | with_reducible refine State.issue_acts ?_ ?_ (inside hp (by decide)) | extract_lets | intro _ | with_reducible refine Acts.ite ?_ ?_
    | dsimp only | dsimp +zetaDelta only

theorem State.endOp_acts {ps : List Part} {z : State} {s : State} {n : Nat} {k : Train} {o : PassOp}
    (hs : Acts ps z s) (hp : ∀ p ∈ ([.draws, .regs, .mem, .cmds, .units, .weights, .links, .colls, .trains, .turns, .lockage, .mgmt, .log, .outbox] : List Part), p ∈ ps) :
    Acts ps z (State.endOp s n k o) := by
  unfold State.endOp
  repeat' first
    | with_reducible assumption | with_reducible refine State.stashCounted_acts ?_ (inside hp (by decide))
    | with_reducible refine State.microInvalid_acts ?_ (inside hp (by decide))
    | with_reducible refine State.takeSends_acts ?_ (inside hp (by decide))
    | with_reducible refine State.postRecvs_acts ?_ (inside hp (by decide))
    | with_reducible refine State.updTrain_acts ?_ (inside hp (by decide))
    | with_reducible refine State.sendPipe_acts ?_ (inside hp (by decide))
    | with_reducible refine State.draw_acts ?_ (inside hp (by decide)) | extract_lets | intro _ | with_reducible refine Acts.ite ?_ ?_
    | split | dsimp only | dsimp +zetaDelta only

theorem State.runPass_acts {ps : List Part} {z : State} {s : State} {n : Nat} {a2 : Nat}
    (hs : Acts ps z s) (hp : ∀ p ∈ ([.draws, .regs, .mem, .host, .queues, .cmds, .units, .weights, .links, .colls, .trains, .turns, .logbook, .lockage, .mgmt, .log, .outbox] : List Part), p ∈ ps) :
    Acts ps z (State.runPass s n a2) := by
  induction a2 generalizing s n with
  | zero =>
    unfold State.runPass
    repeat' first
      | with_reducible assumption | with_reducible refine State.gatherNext_acts ?_ (inside hp (by decide))
      | with_reducible refine State.stopTrain_acts ?_ (inside hp (by decide))
      | with_reducible refine State.beginOp_acts ?_ (inside hp (by decide))
      | with_reducible refine State.endOp_acts ?_ (inside hp (by decide)) | extract_lets | intro _ | with_reducible refine Acts.ite ?_ ?_
      | split | dsimp only | with_reducible refine Acts.set_colls ?_ (hp _ (by decide)) | dsimp +zetaDelta only
  | succ _ ih =>
    unfold State.runPass
    repeat' first
      | with_reducible assumption | with_reducible refine ih ?_ | with_reducible refine State.gatherNext_acts ?_ (inside hp (by decide))
      | with_reducible refine State.stopTrain_acts ?_ (inside hp (by decide))
      | with_reducible refine State.beginOp_acts ?_ (inside hp (by decide))
      | with_reducible refine State.endOp_acts ?_ (inside hp (by decide)) | extract_lets | intro _ | with_reducible refine Acts.ite ?_ ?_
      | split | dsimp only | with_reducible refine Acts.set_colls ?_ (hp _ (by decide)) | dsimp +zetaDelta only

theorem State.formPart_acts {ps : List Part} {z : State} {s : State} {k : Train} {part : Nat}
    (hs : Acts ps z s) (hp : ∀ p ∈ ([.draws, .regs, .mem, .units, .weights, .log, .outbox] : List Part), p ∈ ps) :
    Acts ps z (State.formPart s k part).1 := by
  unfold State.formPart
  repeat' first
    | with_reducible assumption | with_reducible refine State.poisonRange_acts ?_ (inside hp (by decide))
    | with_reducible refine State.noteRead_acts ?_ (inside hp (by decide))
    | with_reducible refine State.writeMem_acts ?_ (inside hp (by decide)) | with_reducible refine Acts.foldl ?_ ?_
    | with_reducible refine Acts.foldl_fst ?_ ?_ | with_reducible refine Acts.foldl_snd ?_ ?_ | extract_lets | intro _
    | with_reducible refine Acts.ite ?_ ?_ | split | dsimp only | dsimp +zetaDelta only

theorem State.formParts_acts {ps : List Part} {z : State} {s : State} {k : Train}
    (hs : Acts ps z s) (hp : ∀ p ∈ ([.draws, .regs, .mem, .units, .weights, .log, .outbox] : List Part), p ∈ ps) :
    Acts ps z (State.formParts s k) := by
  unfold State.formParts
  repeat' first
    | with_reducible assumption | with_reducible refine State.foldPending_acts ?_ (inside hp (by decide))
    | with_reducible refine State.addAssay_acts ?_ (inside hp (by decide))
    | with_reducible refine State.formPart_acts ?_ (inside hp (by decide)) | with_reducible refine Acts.foldl ?_ ?_
    | with_reducible refine Acts.foldl_fst ?_ ?_ | with_reducible refine Acts.foldl_snd ?_ ?_ | extract_lets | intro _ | dsimp only
    | dsimp +zetaDelta only

theorem State.gradients_acts {ps : List Part} {z : State} {s : State} {n : Nat}
    (hs : Acts ps z s) (hp : ∀ p ∈ ([.draws, .regs, .mem, .host, .queues, .cmds, .units, .weights, .links, .colls, .trains, .turns, .logbook, .lockage, .mgmt, .log, .outbox] : List Part), p ∈ ps) :
    Acts ps z (State.gradients s n) := by
  unfold State.gradients
  repeat' first
    | with_reducible assumption | with_reducible refine State.noteRanges_acts ?_ (inside hp (by decide))
    | with_reducible refine State.formParts_acts ?_ (inside hp (by decide))
    | with_reducible refine State.issueVote_acts ?_ (inside hp (by decide))
    | with_reducible refine State.stopTrain_acts ?_ (inside hp (by decide))
    | with_reducible refine State.updTrain_acts ?_ (inside hp (by decide)) | extract_lets | intro _ | with_reducible refine Acts.ite ?_ ?_
    | split | dsimp only | dsimp +zetaDelta only

theorem State.passOver_acts {ps : List Part} {z : State} {s : State} {n : Nat} {bad : List Nat}
    (hs : Acts ps z s) (hp : ∀ p ∈ ([.draws, .regs, .mem, .host, .queues, .cmds, .units, .weights, .links, .colls, .trains, .turns, .logbook, .lockage, .mgmt, .log, .outbox] : List Part), p ∈ ps) :
    Acts ps z (State.passOver s n bad) := by
  unfold State.passOver
  repeat' first
    | with_reducible assumption | with_reducible refine State.gradients_acts ?_ (inside hp (by decide))
    | with_reducible refine State.stopTrain_acts ?_ (inside hp (by decide))
    | with_reducible refine State.updTrain_acts ?_ (inside hp (by decide)) | intro _ | with_reducible refine Acts.ite ?_ ?_ | split
    | dsimp only

theorem State.passDone_acts {ps : List Part} {z : State} {s : State} {n : Nat}
    (hs : Acts ps z s) (hp : ∀ p ∈ ([.draws, .regs, .mem, .host, .queues, .cmds, .units, .weights, .links, .colls, .trains, .turns, .logbook, .lockage, .mgmt, .log, .outbox] : List Part), p ∈ ps) :
    Acts ps z (State.passDone s n) := by
  unfold State.passDone
  repeat' first
    | with_reducible assumption | with_reducible refine State.passOver_acts ?_ (inside hp (by decide))
    | with_reducible refine State.sendPipe_acts ?_ (inside hp (by decide)) | extract_lets | with_reducible refine Acts.ite ?_ ?_ | split
    | dsimp +zetaDelta only

theorem State.runOn_acts {ps : List Part} {z : State} {s : State} {n : Nat}
    (hs : Acts ps z s) (hp : ∀ p ∈ ([.draws, .regs, .mem, .host, .queues, .cmds, .units, .weights, .links, .colls, .trains, .turns, .logbook, .lockage, .mgmt, .log, .outbox] : List Part), p ∈ ps) :
    Acts ps z (State.runOn s n) := by
  unfold State.runOn
  repeat' first
    | with_reducible assumption | with_reducible refine State.takeEntries_acts ?_ (inside hp (by decide))
    | with_reducible refine State.takeSends_acts ?_ (inside hp (by decide))
    | with_reducible refine State.postRecvs_acts ?_ (inside hp (by decide))
    | with_reducible refine State.passDone_acts ?_ (inside hp (by decide))
    | with_reducible refine State.runPass_acts ?_ (inside hp (by decide)) | extract_lets | with_reducible refine Acts.ite ?_ ?_ | split
    | dsimp +zetaDelta only

theorem State.noteTable_acts {ps : List Part} {z : State} {s : State} {k : Train} {table : StepTable}
    (hs : Acts ps z s) (hp : ∀ p ∈ ([.draws, .regs, .mem, .units, .weights, .log, .outbox] : List Part), p ∈ ps) :
    Acts ps z (State.noteTable s k table) := by
  unfold State.noteTable
  repeat' first
    | with_reducible assumption | with_reducible refine State.noteRanges_acts ?_ (inside hp (by decide)) | extract_lets | intro _
    | with_reducible refine Acts.ite ?_ ?_ | split | dsimp only | dsimp +zetaDelta only

theorem State.inTrain_acts {ps : List Part} {z : State} {s : State} {n : Nat}
    (hs : Acts ps z s) (hp : ∀ p ∈ ([.acting] : List Part), p ∈ ps) :
    Acts ps z (State.inTrain s n) := by
  unfold State.inTrain
  repeat' first
    | with_reducible assumption | with_reducible refine State.actFor_acts ?_ (inside hp (by decide)) | split

theorem State.trainStart_acts {ps : List Part} {z : State} {s : State} {n : Nat}
    (hs : Acts ps z s) (hp : ∀ p ∈ ([.draws, .regs, .mem, .host, .queues, .cmds, .units, .weights, .links, .colls, .trains, .turns, .logbook, .lockage, .mgmt, .log, .outbox] : List Part), p ∈ ps) :
    Acts ps z (State.trainStart s n) := by
  unfold State.trainStart
  repeat' first
    | with_reducible assumption | with_reducible refine State.dropRegions_acts ?_ (inside hp (by decide))
    | with_reducible refine State.clearAssay_acts ?_ (inside hp (by decide))
    | with_reducible refine State.overwrite_acts ?_ (inside hp (by decide))
    | with_reducible refine State.noteTable_acts ?_ (inside hp (by decide))
    | with_reducible refine State.stopTrain_acts ?_ (inside hp (by decide))
    | with_reducible refine State.updTrain_acts ?_ (inside hp (by decide))
    | with_reducible refine State.setNat_acts ?_ (inside hp (by decide))
    | with_reducible refine State.sat32_acts ?_ (inside hp (by decide))
    | with_reducible refine State.runOn_acts ?_ (inside hp (by decide)) | with_reducible refine State.draw_acts ?_ (inside hp (by decide))
    | extract_lets | intro _ | with_reducible refine Acts.ite ?_ ?_ | split | dsimp only
    | with_reducible refine Acts.set_draws ?_ (hp _ (by decide)) | dsimp +zetaDelta only

theorem State.poundEntry_acts {ps : List Part} {z : State} {s : State} {n : Nat} {p : Nat}
    (hs : Acts ps z s) (hp : ∀ p ∈ ([.draws, .regs, .mem, .host, .queues, .cmds, .units, .weights, .links, .colls, .trains, .turns, .logbook, .lockage, .mgmt, .log, .outbox, .acting] : List Part), p ∈ ps) :
    Acts ps z (State.poundEntry s n p) := by
  unfold State.poundEntry
  repeat' first
    | with_reducible assumption | with_reducible refine State.pipelineMessage_acts ?_ (inside hp (by decide))
    | with_reducible refine State.runOn_acts ?_ (inside hp (by decide)) | with_reducible refine Acts.ite ?_ ?_ | split

theorem State.passEnd_acts {ps : List Part} {z : State} {s : State} {n : Nat} {p : Nat}
    (hs : Acts ps z s) (hp : ∀ p ∈ ([.draws, .regs, .mem, .host, .queues, .cmds, .units, .weights, .links, .colls, .trains, .turns, .logbook, .lockage, .mgmt, .log, .outbox, .acting] : List Part), p ∈ ps) :
    Acts ps z (State.passEnd s n p) := by
  unfold State.passEnd
  repeat' first
    | with_reducible assumption | with_reducible refine State.pipelineMessage_acts ?_ (inside hp (by decide))
    | with_reducible refine State.noteRanges_acts ?_ (inside hp (by decide))
    | with_reducible refine State.takeSends_acts ?_ (inside hp (by decide))
    | with_reducible refine State.stopTrain_acts ?_ (inside hp (by decide))
    | with_reducible refine State.sendPipe_acts ?_ (inside hp (by decide))
    | with_reducible refine State.passOver_acts ?_ (inside hp (by decide)) | extract_lets | intro _ | with_reducible refine Acts.ite ?_ ?_
    | split | dsimp only | with_reducible refine Acts.set_colls ?_ (hp _ (by decide)) | dsimp +zetaDelta only

theorem State.rerunMicros_acts {ps : List Part} {z : State} {s : State} {n : Nat}
    (hs : Acts ps z s) (hp : ∀ p ∈ ([.draws, .regs, .mem, .host, .queues, .cmds, .units, .weights, .links, .colls, .trains, .turns, .logbook, .lockage, .mgmt, .log, .outbox] : List Part), p ∈ ps) :
    Acts ps z (State.rerunMicros s n) := by
  unfold State.rerunMicros
  repeat' first
    | with_reducible assumption | with_reducible refine State.updTrain_acts ?_ (inside hp (by decide))
    | with_reducible refine State.runOn_acts ?_ (inside hp (by decide))
    | with_reducible refine State.sat32_acts ?_ (inside hp (by decide)) | intro _ | with_reducible refine Acts.ite ?_ ?_ | split
    | dsimp only

theorem State.startAttempt_acts {ps : List Part} {z : State} {s : State} {n : Nat}
    (hs : Acts ps z s) (hp : ∀ p ∈ ([.draws, .regs, .mem, .cmds, .units, .weights, .links, .colls, .trains, .turns, .lockage, .mgmt, .log, .outbox] : List Part), p ∈ ps) :
    Acts ps z (State.startAttempt s n) := by
  unfold State.startAttempt
  repeat' first
    | with_reducible assumption | with_reducible refine State.reduceRun_acts ?_ (inside hp (by decide))
    | with_reducible refine State.updTrain_acts ?_ (inside hp (by decide))
    | with_reducible refine State.issue_acts ?_ ?_ (inside hp (by decide)) | with_reducible refine Acts.foldl ?_ ?_ | extract_lets
    | intro _ | split | dsimp only | dsimp +zetaDelta only

theorem State.trainProgress_acts {ps : List Part} {z : State} {s : State} {n : Nat}
    (hs : Acts ps z s) (hp : ∀ p ∈ ([.draws, .regs, .mem, .host, .queues, .cmds, .units, .weights, .links, .colls, .trains, .turns, .logbook, .lockage, .mgmt, .log, .outbox] : List Part), p ∈ ps) :
    Acts ps z (State.trainProgress s n) := by
  unfold State.trainProgress
  repeat' first
    | with_reducible assumption | with_reducible refine State.startAttempt_acts ?_ (inside hp (by decide))
    | with_reducible refine State.stopTrain_acts ?_ (inside hp (by decide))
    | with_reducible refine State.issueVote_acts ?_ (inside hp (by decide))
    | with_reducible refine State.updTrain_acts ?_ (inside hp (by decide)) | extract_lets | intro _ | with_reducible refine Acts.ite ?_ ?_
    | split | dsimp only | dsimp +zetaDelta only

theorem State.addNarrowCounts_acts {ps : List Part} {z : State} {s : State} {k : Train}
    (hs : Acts ps z s) (hp : ∀ p ∈ ([.regs] : List Part), p ∈ ps) :
    Acts ps z (State.addNarrowCounts s k) := by
  unfold State.addNarrowCounts
  repeat' first
    | with_reducible assumption | with_reducible refine State.addAssay_acts ?_ (inside hp (by decide))
    | with_reducible refine Acts.foldl ?_ ?_ | with_reducible refine Acts.foldl_fst ?_ ?_ | with_reducible refine Acts.foldl_snd ?_ ?_
    | intro _ | dsimp only

theorem State.writeRatios_acts {ps : List Part} {z : State} {s : State} {k : Train} {part : Nat} {own : List (Nat × Nat)} {peers : List (List (Nat × Nat))}
    (hs : Acts ps z s) (hp : ∀ p ∈ ([.draws, .regs, .mem, .weights, .log, .outbox] : List Part), p ∈ ps) :
    Acts ps z (State.writeRatios s k part own peers) := by
  unfold State.writeRatios
  repeat' first
    | with_reducible assumption | with_reducible refine State.writeMem_acts ?_ (inside hp (by decide)) | extract_lets | intro _
    | with_reducible refine Acts.ite ?_ ?_ | dsimp only | dsimp +zetaDelta only

theorem State.commitStep_acts {ps : List Part} {z : State} {s : State} {n : Nat} {peers : List (List (List (Nat × Nat)))}
    (hs : Acts ps z s) (hp : ∀ p ∈ ([.draws, .regs, .mem, .host, .queues, .cmds, .hist, .weights, .links, .colls, .trains, .turns, .logbook, .lockage, .keepsake, .mgmt, .log, .outbox] : List Part), p ∈ ps) :
    Acts ps z (State.commitStep s n peers) := by
  unfold State.commitStep
  repeat' first
    | with_reducible assumption | with_reducible refine State.releaseRetained_acts ?_ (inside hp (by decide))
    | with_reducible refine State.addNarrowCounts_acts ?_ (inside hp (by decide))
    | with_reducible refine State.writeRatios_acts ?_ (inside hp (by decide))
    | with_reducible refine State.stepReport_acts ?_ (inside hp (by decide))
    | with_reducible refine State.noteShadow_acts ?_ (inside hp (by decide))
    | with_reducible refine State.histWrite_acts ?_ (inside hp (by decide))
    | with_reducible refine State.updTrain_acts ?_ (inside hp (by decide))
    | with_reducible refine State.endStep_acts ?_ (inside hp (by decide))
    | with_reducible refine State.setLane_acts ?_ (inside hp (by decide))
    | with_reducible refine State.setNat_acts ?_ (inside hp (by decide))
    | with_reducible refine State.sat32_acts ?_ (inside hp (by decide))
    | with_reducible refine State.raise_acts ?_ (inside hp (by decide)) | with_reducible refine Acts.foldl ?_ ?_ | extract_lets | intro _
    | with_reducible refine Acts.ite ?_ ?_ | split | dsimp only | dsimp +zetaDelta only

theorem State.finiteResult_acts {ps : List Part} {z : State} {s : State} {n : Nat}
    (hs : Acts ps z s) (hp : ∀ p ∈ ([.draws, .regs, .mem, .host, .queues, .cmds, .units, .weights, .links, .colls, .trains, .turns, .logbook, .lockage, .mgmt, .log, .outbox] : List Part), p ∈ ps) :
    Acts ps z (State.finiteResult s n) := by
  unfold State.finiteResult
  repeat' first
    | with_reducible assumption | with_reducible refine State.trainProgress_acts ?_ (inside hp (by decide))
    | with_reducible refine State.startAttempt_acts ?_ (inside hp (by decide))
    | with_reducible refine State.stepReport_acts ?_ (inside hp (by decide))
    | with_reducible refine State.endStep_acts ?_ (inside hp (by decide))
    | with_reducible refine State.sat32_acts ?_ (inside hp (by decide))
    | with_reducible refine State.raise_acts ?_ (inside hp (by decide)) | extract_lets | split | dsimp +zetaDelta only

theorem execStepFiniteResult_acts {a0 : Nat} {now : Nat} {s : State} {t : State} (e : execStepFiniteResult a0 now s = .next t) :
    Acts [.draws, .clock, .regs, .mem, .host, .queues, .cmds, .units, .weights, .links, .colls, .trains, .turns, .logbook, .lockage, .mgmt, .log, .outbox] s t := by
  unfold execStepFiniteResult at e
  refine runs_acts (qs := [.draws, .clock, .regs, .mem, .host, .queues, .cmds, .units, .weights, .links, .colls, .trains, .turns, .logbook, .lockage, .mgmt, .log, .outbox, .acting]) (by decide) (fun ps hs hp => ?_) e
  repeat' first
    | with_reducible assumption | with_reducible refine State.finiteResult_acts ?_ (inside hp (by decide))
    | with_reducible refine State.inTrain_acts ?_ (inside hp (by decide)) | with_reducible refine State.at_acts ?_ (inside hp (by decide))
    | intro _ | dsimp only

theorem State.stepDecision_acts {ps : List Part} {z : State} {s : State} {n : Nat} {peers : List (List (List (Nat × Nat)))}
    (hs : Acts ps z s) (hp : ∀ p ∈ ([.draws, .regs, .mem, .host, .queues, .cmds, .units, .hist, .weights, .links, .colls, .trains, .turns, .logbook, .lockage, .keepsake, .mgmt, .log, .outbox] : List Part), p ∈ ps) :
    Acts ps z (State.stepDecision s n peers) := by
  unfold State.stepDecision
  repeat' first
    | with_reducible assumption | with_reducible refine State.trainProgress_acts ?_ (inside hp (by decide))
    | with_reducible refine State.commitStep_acts ?_ (inside hp (by decide)) | extract_lets | with_reducible refine Acts.ite ?_ ?_ | split
    | dsimp +zetaDelta only

theorem execStepDecision_acts {a0 : Nat} {ratios : List (List (List (Nat × Nat)))} {now : Nat} {s : State} {t : State} (e : execStepDecision a0 ratios now s = .next t) :
    Acts [.draws, .clock, .regs, .mem, .host, .queues, .cmds, .units, .hist, .weights, .links, .colls, .trains, .turns, .logbook, .lockage, .keepsake, .mgmt, .log, .outbox] s t := by
  unfold execStepDecision at e
  refine runs_acts (qs := [.draws, .clock, .regs, .mem, .host, .queues, .cmds, .units, .hist, .weights, .links, .colls, .trains, .turns, .logbook, .lockage, .keepsake, .mgmt, .log, .outbox, .acting]) (by decide) (fun ps hs hp => ?_) e
  repeat' first
    | with_reducible assumption | with_reducible refine State.stepDecision_acts ?_ (inside hp (by decide))
    | with_reducible refine State.inTrain_acts ?_ (inside hp (by decide)) | with_reducible refine State.at_acts ?_ (inside hp (by decide))
    | intro _ | dsimp only

theorem State.attemptRetry_acts {ps : List Part} {z : State} {s : State} {n : Nat}
    (hs : Acts ps z s) (hp : ∀ p ∈ ([.draws, .regs, .mem, .host, .queues, .cmds, .units, .weights, .links, .colls, .trains, .turns, .logbook, .lockage, .mgmt, .log, .outbox] : List Part), p ∈ ps) :
    Acts ps z (State.attemptRetry s n) := by
  unfold State.attemptRetry
  repeat' first
    | with_reducible assumption | with_reducible refine State.releaseRetained_acts ?_ (inside hp (by decide))
    | with_reducible refine State.trainProgress_acts ?_ (inside hp (by decide))
    | with_reducible refine State.noteRanges_acts ?_ (inside hp (by decide))
    | with_reducible refine State.formParts_acts ?_ (inside hp (by decide))
    | with_reducible refine State.issueVote_acts ?_ (inside hp (by decide))
    | with_reducible refine State.stopTrain_acts ?_ (inside hp (by decide))
    | with_reducible refine State.updTrain_acts ?_ (inside hp (by decide))
    | with_reducible refine State.raise_acts ?_ (inside hp (by decide))
    | with_reducible refine State.sat32_acts ?_ (inside hp (by decide)) | extract_lets | intro _ | with_reducible refine Acts.ite ?_ ?_
    | split | dsimp only | with_reducible refine Acts.set_colls ?_ (hp _ (by decide)) | dsimp +zetaDelta only

theorem execAttemptRetry_acts {a0 : Nat} {now : Nat} {s : State} {t : State} (e : execAttemptRetry a0 now s = .next t) :
    Acts [.draws, .clock, .regs, .mem, .host, .queues, .cmds, .units, .weights, .links, .colls, .trains, .turns, .logbook, .lockage, .mgmt, .log, .outbox] s t := by
  unfold execAttemptRetry at e
  refine runs_acts (qs := [.draws, .clock, .regs, .mem, .host, .queues, .cmds, .units, .weights, .links, .colls, .trains, .turns, .logbook, .lockage, .mgmt, .log, .outbox, .acting]) (by decide) (fun ps hs hp => ?_) e
  repeat' first
    | with_reducible assumption | with_reducible refine State.attemptRetry_acts ?_ (inside hp (by decide))
    | with_reducible refine State.inTrain_acts ?_ (inside hp (by decide)) | with_reducible refine State.at_acts ?_ (inside hp (by decide))
    | intro _ | dsimp only

theorem State.updateStaged_acts {ps : List Part} {z : State} {s : State} {a1 : Nat} {x : Nat} {i : Nat} {gs : List Fp} {places : List NarrowPlace}
    (hs : Acts ps z s) (hp : ∀ p ∈ ([.draws, .regs, .mem, .units, .weights, .log, .outbox] : List Part), p ∈ ps) :
    Acts ps z (State.updateStaged s a1 x i gs places).1 := by
  unfold State.updateStaged
  repeat' first
    | with_reducible assumption | with_reducible refine State.applyBlock_acts ?_ (inside hp (by decide))
    | with_reducible refine State.stageLive_acts ?_ (inside hp (by decide)) | extract_lets | with_reducible refine Acts.ite ?_ ?_ | split
    | dsimp only | dsimp +zetaDelta only

theorem State.finalBlock_acts {ps : List Part} {z : State} {s : State} {x : Nat}
    (hs : Acts ps z s) (hp : ∀ p ∈ ([.draws, .regs, .mem, .cmds, .units, .weights, .links, .colls, .trains, .turns, .lockage, .mgmt, .log, .outbox, .acting] : List Part), p ∈ ps) :
    Acts ps z (State.finalBlock s x) := by
  unfold State.finalBlock
  repeat' first
    | with_reducible assumption | with_reducible refine State.updateStaged_acts ?_ (inside hp (by decide))
    | with_reducible refine State.updTrain_acts ?_ (inside hp (by decide))
    | with_reducible refine State.failColl_acts ?_ (inside hp (by decide))
    | with_reducible refine State.setNext_acts ?_ (inside hp (by decide))
    | with_reducible refine State.updColl_acts ?_ (inside hp (by decide))
    | with_reducible refine State.actAs_acts ?_ (inside hp (by decide)) | extract_lets | intro _ | with_reducible refine Acts.ite ?_ ?_
    | split | dsimp only | dsimp +zetaDelta only

theorem execFinalBlockUpdate_acts {ctx : Nat} {now : Nat} {s : State} {t : State} (e : execFinalBlockUpdate ctx now s = .next t) :
    Acts [.draws, .clock, .power, .regs, .mem, .cmds, .units, .weights, .links, .colls, .trains, .turns, .lockage, .mgmt, .log, .outbox] s t := by
  unfold execFinalBlockUpdate at e
  refine runs_acts (qs := [.draws, .clock, .power, .regs, .mem, .cmds, .units, .weights, .links, .colls, .trains, .turns, .lockage, .mgmt, .log, .outbox, .acting]) (by decide) (fun ps hs hp => ?_) e
  repeat' first
    | with_reducible assumption | with_reducible refine State.finalBlock_acts ?_ (inside hp (by decide))
    | with_reducible refine State.onRing_acts ?_ ?_ (inside hp (by decide))
    | with_reducible refine State.at_acts ?_ (inside hp (by decide)) | extract_lets | intro _ | with_reducible refine Acts.ite ?_ ?_
    | split | dsimp only | dsimp +zetaDelta only

theorem State.shadowDone_acts {ps : List Part} {z : State} {s : State} {x : Nat}
    (hs : Acts ps z s) (hp : ∀ p ∈ ([.draws, .regs, .mem, .cmds, .weights, .colls, .turns, .lockage, .log, .outbox, .acting] : List Part), p ∈ ps) :
    Acts ps z (State.shadowDone s x) := by
  unfold State.shadowDone
  repeat' first
    | with_reducible assumption | with_reducible refine State.settleColls_acts ?_ (inside hp (by decide))
    | with_reducible refine State.closeShadow_acts ?_ (inside hp (by decide))
    | with_reducible refine State.updColl_acts ?_ (inside hp (by decide))
    | with_reducible refine State.actAs_acts ?_ (inside hp (by decide)) | extract_lets | intro _ | with_reducible refine Acts.ite ?_ ?_
    | split | dsimp only | dsimp +zetaDelta only

theorem execShadowHeaderWrite_acts {ctx : Nat} {now : Nat} {s : State} {t : State} (e : execShadowHeaderWrite ctx now s = .next t) :
    Acts [.draws, .clock, .regs, .mem, .cmds, .weights, .colls, .turns, .lockage, .log, .outbox] s t := by
  unfold execShadowHeaderWrite at e
  refine runs_acts (qs := [.draws, .clock, .regs, .mem, .cmds, .weights, .colls, .turns, .lockage, .log, .outbox, .acting]) (by decide) (fun ps hs hp => ?_) e
  repeat' first
    | with_reducible assumption | with_reducible refine State.shadowDone_acts ?_ (inside hp (by decide))
    | with_reducible refine State.at_acts ?_ (inside hp (by decide)) | intro _ | dsimp only

theorem execPoundEntry_acts {a0 : Nat} {p : Nat} {now : Nat} {s : State} {t : State} (e : execPoundEntry a0 p now s = .next t) :
    Acts [.draws, .clock, .power, .regs, .mem, .host, .queues, .cmds, .units, .weights, .links, .colls, .trains, .turns, .logbook, .lockage, .mgmt, .log, .outbox] s t := by
  unfold execPoundEntry at e
  refine runs_acts (qs := [.draws, .clock, .power, .regs, .mem, .host, .queues, .cmds, .units, .weights, .links, .colls, .trains, .turns, .logbook, .lockage, .mgmt, .log, .outbox, .acting]) (by decide) (fun ps hs hp => ?_) e
  repeat' first
    | with_reducible assumption | with_reducible refine State.poundEntry_acts ?_ (inside hp (by decide))
    | with_reducible refine State.inTrain_acts ?_ (inside hp (by decide))
    | with_reducible refine State.onRing_acts ?_ ?_ (inside hp (by decide))
    | with_reducible refine State.at_acts ?_ (inside hp (by decide)) | extract_lets | intro _ | with_reducible refine Acts.ite ?_ ?_
    | dsimp only | dsimp +zetaDelta only

theorem execPassEnd_acts {a0 : Nat} {p : Nat} {now : Nat} {s : State} {t : State} (e : execPassEnd a0 p now s = .next t) :
    Acts [.draws, .clock, .power, .regs, .mem, .host, .queues, .cmds, .units, .weights, .links, .colls, .trains, .turns, .logbook, .lockage, .mgmt, .log, .outbox] s t := by
  unfold execPassEnd at e
  refine runs_acts (qs := [.draws, .clock, .power, .regs, .mem, .host, .queues, .cmds, .units, .weights, .links, .colls, .trains, .turns, .logbook, .lockage, .mgmt, .log, .outbox, .acting]) (by decide) (fun ps hs hp => ?_) e
  repeat' first
    | with_reducible assumption | with_reducible refine State.inTrain_acts ?_ (inside hp (by decide))
    | with_reducible refine State.passEnd_acts ?_ (inside hp (by decide))
    | with_reducible refine State.onRing_acts ?_ ?_ (inside hp (by decide))
    | with_reducible refine State.at_acts ?_ (inside hp (by decide)) | extract_lets | intro _ | with_reducible refine Acts.ite ?_ ?_
    | dsimp only | dsimp +zetaDelta only

theorem execMicroRerunDelay_acts {a0 : Nat} {now : Nat} {s : State} {t : State} (e : execMicroRerunDelay a0 now s = .next t) :
    Acts [.draws, .clock, .power, .regs, .mem, .host, .queues, .cmds, .units, .weights, .links, .colls, .trains, .turns, .logbook, .lockage, .mgmt, .log, .outbox] s t := by
  unfold execMicroRerunDelay at e
  refine runs_acts (qs := [.draws, .clock, .power, .regs, .mem, .host, .queues, .cmds, .units, .weights, .links, .colls, .trains, .turns, .logbook, .lockage, .mgmt, .log, .outbox, .acting]) (by decide) (fun ps hs hp => ?_) e
  repeat' first
    | with_reducible assumption | with_reducible refine State.rerunMicros_acts ?_ (inside hp (by decide))
    | with_reducible refine State.inTrain_acts ?_ (inside hp (by decide))
    | with_reducible refine State.onRing_acts ?_ ?_ (inside hp (by decide))
    | with_reducible refine State.at_acts ?_ (inside hp (by decide)) | extract_lets | intro _ | with_reducible refine Acts.ite ?_ ?_
    | dsimp only | dsimp +zetaDelta only

theorem State.trainClose_acts {ps : List Part} {z : State} {s : State} {c : Cmd}
    (hs : Acts ps z s) (hp : ∀ p ∈ ([.draws, .regs, .mem, .host, .queues, .cmds, .weights, .links, .colls, .trains, .turns, .logbook, .lockage, .mgmt, .log, .outbox] : List Part), p ∈ ps) :
    Acts ps z (State.trainClose s c) := by
  unfold State.trainClose
  repeat' first
    | with_reducible assumption | with_reducible refine State.awaitCommit_acts ?_ (inside hp (by decide))
    | with_reducible refine State.stepReport_acts ?_ (inside hp (by decide))
    | with_reducible refine State.updTrain_acts ?_ (inside hp (by decide))
    | with_reducible refine State.endStep_acts ?_ (inside hp (by decide))
    | with_reducible refine State.running_acts ?_ (inside hp (by decide))
    | with_reducible refine State.finish_acts ?_ (inside hp (by decide))
    | with_reducible refine State.refuse_acts ?_ (inside hp (by decide)) | extract_lets | intro _ | with_reducible refine Acts.ite ?_ ?_
    | split | dsimp only | dsimp +zetaDelta only

theorem execTrainClose_acts {c : CmdRef} {hv : HostView} {s : State} {t : State} (e : execTrainClose c hv s = .next t) :
    Acts [.draws, .regs, .mem, .host, .queues, .cmds, .weights, .links, .colls, .trains, .turns, .logbook, .lockage, .mgmt, .log, .outbox] s t := by
  unfold execTrainClose at e
  refine runs_acts (qs := [.draws, .regs, .mem, .host, .queues, .cmds, .weights, .links, .colls, .trains, .turns, .logbook, .lockage, .mgmt, .log, .outbox, .acting]) (by decide) (fun ps hs hp => ?_) e
  repeat' first
    | with_reducible assumption | with_reducible refine State.trainClose_acts ?_ (inside hp (by decide))
    | with_reducible refine State.start_acts ?_ ?_ (inside hp (by decide))
    | with_reducible refine State.sees_acts ?_ (inside hp (by decide)) | intro _ | dsimp only

end Sys2Proof.Machine
end

