-- ==== Sys2Proof/Laws/ActsLinkWork.lean ====
section
/-! SUPPORT. What the operations of Machine/LinkWork.lean may do (Laws/Acts.lean): the parts each may change, the invariant kept. -/

namespace Sys2Proof.Machine

open Sys2Proof

theorem State.turnsLinkDown_acts {ps : List Part} {z : State} {s : State} {p : Nat} {lost : List Nat}
    (hs : Acts ps z s) (hp : ∀ p ∈ ([.turns, .lockage] : List Part), p ∈ ps) :
    Acts ps z (State.turnsLinkDown s p lost) := by
  unfold State.turnsLinkDown
  repeat' first
    | with_reducible assumption | with_reducible refine State.failTurn_acts ?_ (inside hp (by decide))
    | with_reducible refine Acts.foldl ?_ ?_ | with_reducible refine Acts.foldl_fst ?_ ?_ | with_reducible refine Acts.foldl_snd ?_ ?_
    | intro _ | dsimp only

theorem State.loadsPeerDown_acts {ps : List Part} {z : State} {s : State} {p : Nat} {st : Nat}
    (hs : Acts ps z s) (hp : ∀ p ∈ ([.weights, .lockage] : List Part), p ∈ ps) :
    Acts ps z (State.loadsPeerDown s p st) := by
  unfold State.loadsPeerDown
  repeat' first
    | with_reducible assumption | with_reducible refine State.failAdapter_acts ?_ (inside hp (by decide))
    | with_reducible refine State.failSet_acts ?_ (inside hp (by decide)) | with_reducible refine Acts.foldl ?_ ?_
    | with_reducible refine Acts.foldl_fst ?_ ?_ | with_reducible refine Acts.foldl_snd ?_ ?_ | extract_lets | intro _ | dsimp only
    | dsimp +zetaDelta only

theorem State.repairsPeerDown_acts {ps : List Part} {z : State} {s : State} {p : Nat}
    (hs : Acts ps z s) (hp : ∀ p ∈ ([.regs, .weights, .log, .outbox] : List Part), p ∈ ps) :
    Acts ps z (State.repairsPeerDown s p) := by
  unfold State.repairsPeerDown
  repeat' first
    | with_reducible assumption | with_reducible refine State.damage_acts ?_ (inside hp (by decide))
    | with_reducible refine Acts.foldl ?_ ?_ | intro _ | with_reducible refine Acts.ite ?_ ?_ | dsimp only

theorem State.pathBroken_acts {ps : List Part} {z : State} {s : State} {header : List Byte} {avoid : Nat}
    (hs : Acts ps z s) (hp : ∀ p ∈ ([.regs, .links, .mgmt, .outbox] : List Part), p ∈ ps) :
    Acts ps z (State.pathBroken s header avoid) := by
  unfold State.pathBroken
  repeat' first
    | with_reducible assumption | with_reducible refine State.sendNotice_acts ?_ (inside hp (by decide)) | split

theorem State.transitLost_acts {ps : List Part} {z : State} {s : State} {p : Nat}
    (hs : Acts ps z s) (hp : ∀ p ∈ ([.regs, .links, .mgmt, .outbox] : List Part), p ∈ ps) :
    Acts ps z (State.transitLost s p) := by
  unfold State.transitLost
  repeat' first
    | with_reducible assumption | with_reducible refine State.putOpening_acts ?_ (inside hp (by decide))
    | with_reducible refine State.pathBroken_acts ?_ (inside hp (by decide)) | with_reducible refine Acts.foldl ?_ ?_
    | with_reducible refine Acts.foldl_fst ?_ ?_ | with_reducible refine Acts.foldl_snd ?_ ?_ | extract_lets | intro _
    | with_reducible refine Acts.ite ?_ ?_ | split | dsimp only | dsimp +zetaDelta only

theorem State.workDown_acts {ps : List Part} {z : State} {s : State} {p : Nat} {lost : List Nat}
    (hs : Acts ps z s) (hp : ∀ p ∈ ([.draws, .regs, .mem, .cmds, .weights, .links, .colls, .turns, .lockage, .mgmt, .log, .outbox] : List Part), p ∈ ps) :
    Acts ps z (State.workDown s p lost) := by
  unfold State.workDown
  repeat' first
    | with_reducible assumption | with_reducible refine State.repairsPeerDown_acts ?_ (inside hp (by decide))
    | with_reducible refine State.loadsPeerDown_acts ?_ (inside hp (by decide))
    | with_reducible refine State.collsLinkDown_acts ?_ (inside hp (by decide))

theorem State.linkDown_acts {ps : List Part} {z : State} {s : State} {p : Nat} {next : Nat}
    (hs : Acts ps z s) (hp : ∀ p ∈ ([.draws, .regs, .mem, .cmds, .weights, .links, .colls, .turns, .lockage, .mgmt, .log, .outbox] : List Part), p ∈ ps) :
    Acts ps z (State.linkDown s p next) := by
  unfold State.linkDown
  repeat' first
    | with_reducible assumption | with_reducible refine State.turnsLinkDown_acts ?_ (inside hp (by decide))
    | with_reducible refine State.transitLost_acts ?_ (inside hp (by decide))
    | with_reducible refine State.dropLink_acts ?_ (inside hp (by decide))
    | with_reducible refine State.workDown_acts ?_ (inside hp (by decide))
    | with_reducible refine State.updPort_acts ?_ (inside hp (by decide)) | extract_lets | intro _ | with_reducible refine Acts.ite ?_ ?_
    | dsimp only | dsimp +zetaDelta only

theorem State.judgeLink_acts {ps : List Part} {z : State} {s : State} {p : Nat}
    (hs : Acts ps z s) (hp : ∀ p ∈ ([.draws, .regs, .mem, .cmds, .weights, .links, .colls, .turns, .lockage, .mgmt, .log, .outbox] : List Part), p ∈ ps) :
    Acts ps z (State.judgeLink s p) := by
  unfold State.judgeLink
  repeat' first
    | with_reducible assumption | with_reducible refine State.turnsLinkDown_acts ?_ (inside hp (by decide))
    | with_reducible refine State.transitLost_acts ?_ (inside hp (by decide))
    | with_reducible refine State.judgePort_acts ?_ (inside hp (by decide))
    | with_reducible refine State.workDown_acts ?_ (inside hp (by decide))
    | with_reducible refine State.updPort_acts ?_ (inside hp (by decide)) | extract_lets | intro _ | with_reducible refine Acts.ite ?_ ?_
    | dsimp only | dsimp +zetaDelta only

end Sys2Proof.Machine
end

