-- ==== Sys2Proof/Laws/ActsLockage.lean ====
section
/-! SUPPORT. What the operations of Machine/Lockage.lean may do (Laws/Acts.lean): the parts each may change, the invariant kept. -/

namespace Sys2Proof.Machine

open Sys2Proof

theorem State.lay_acts {ps : List Part} {z : State} {s : State} {es : List Staged}
    (hs : Acts ps z s) (hp : ∀ p ∈ ([.regs] : List Part), p ∈ ps) :
    Acts ps z (State.lay s es) := by
  unfold State.lay
  repeat' first
    | with_reducible assumption | with_reducible refine State.setReg_acts ?_ (inside hp (by decide))
    | with_reducible refine Acts.foldl ?_ ?_ | with_reducible refine Acts.foldl_fst ?_ ?_ | with_reducible refine Acts.foldl_snd ?_ ?_
    | intro _ | dsimp only

theorem State.chamberTo_acts {ps : List Part} {z : State} {s : State} {k : ChamberState}
    (hs : Acts ps z s) (hp : ∀ p ∈ ([.lockage] : List Part), p ∈ ps) :
    Acts ps z (State.chamberTo s k) := by
  unfold State.chamberTo
  repeat' first
    | with_reducible assumption | with_reducible refine Acts.ite ?_ ?_ | with_reducible refine Acts.set_chamber ?_ (hp _ (by decide))

theorem State.emptyChamber_acts {ps : List Part} {z : State} {s : State}
    (hs : Acts ps z s) (hp : ∀ p ∈ ([.lockage] : List Part), p ∈ ps) :
    Acts ps z (State.emptyChamber s) := by
  unfold State.emptyChamber
  repeat' first
    | with_reducible assumption | with_reducible refine State.chamberTo_acts ?_ (inside hp (by decide))
    | with_reducible refine Acts.set_chamber ?_ (hp _ (by decide))

theorem State.putChamber_acts {ps : List Part} {z : State} {s : State} {k : Nat} {a2 : List Word}
    (hs : Acts ps z s) (hp : ∀ p ∈ ([.lockage] : List Part), p ∈ ps) :
    Acts ps z (State.putChamber s k a2) := by
  induction a2 generalizing s k with
  | nil =>
    unfold State.putChamber
    repeat' first
      | with_reducible assumption | with_reducible refine State.chamberTo_acts ?_ (inside hp (by decide)) | extract_lets
      | with_reducible refine Acts.ite ?_ ?_ | with_reducible refine Acts.set_chamber ?_ (hp _ (by decide)) | dsimp +zetaDelta only
  | cons _ _ ih =>
    unfold State.putChamber
    repeat' first
      | with_reducible assumption | with_reducible refine ih ?_ | with_reducible refine State.chamberTo_acts ?_ (inside hp (by decide))
      | extract_lets | with_reducible refine Acts.ite ?_ ?_ | with_reducible refine Acts.set_chamber ?_ (hp _ (by decide))
      | dsimp +zetaDelta only

theorem State.stageWord_acts {ps : List Part} {z : State} {s : State} {fn : Nat} {off : Nat} {v : Word}
    (hs : Acts ps z s) (hp : ∀ p ∈ ([.lockage, .log, .outbox] : List Part), p ∈ ps) :
    Acts ps z (State.stageWord s fn off v) := by
  unfold State.stageWord
  repeat' first
    | with_reducible assumption | with_reducible refine State.putChamber_acts ?_ (inside hp (by decide))
    | with_reducible refine State.logDiscard_acts ?_ (inside hp (by decide)) | with_reducible refine Acts.ite ?_ ?_

theorem State.stageEntries_acts {ps : List Part} {z : State} {s : State} {c : Cmd}
    (hs : Acts ps z s) (hp : ∀ p ∈ ([.cmds, .lockage] : List Part), p ∈ ps) :
    Acts ps z (State.stageEntries s c) := by
  unfold State.stageEntries
  repeat' first
    | with_reducible assumption | with_reducible refine State.putChamber_acts ?_ (inside hp (by decide))
    | with_reducible refine State.finish_acts ?_ (inside hp (by decide)) | intro _ | with_reducible refine Acts.ite ?_ ?_ | dsimp only

theorem execStage_acts {c : CmdRef} {hv : HostView} {s : State} {t : State} (e : execStage c hv s = .next t) :
    Acts [.host, .cmds, .lockage] s t := by
  unfold execStage at e
  refine runs_acts (qs := [.host, .cmds, .lockage, .acting]) (by decide) (fun ps hs hp => ?_) e
  repeat' first
    | with_reducible assumption | with_reducible refine State.stageEntries_acts ?_ (inside hp (by decide))
    | with_reducible refine State.start_acts ?_ ?_ (inside hp (by decide))
    | with_reducible refine State.sees_acts ?_ (inside hp (by decide)) | intro _ | dsimp only

theorem State.check_acts {ps : List Part} {z : State} {s : State} {c : Cmd}
    (hs : Acts ps z s) (hp : ∀ p ∈ ([.regs, .cmds, .lockage] : List Part), p ∈ ps) :
    Acts ps z (State.check s c) := by
  unfold State.check
  repeat' first
    | with_reducible assumption | with_reducible refine State.finish_acts ?_ (inside hp (by decide)) | extract_lets
    | with_reducible refine Acts.ite ?_ ?_ | split
    | with_reducible refine Acts.set_chamber_checkedAt ?_ (hp _ (by decide)) (hp _ (by decide))
    | with_reducible refine Acts.set_chamber ?_ (hp _ (by decide)) | dsimp +zetaDelta only

theorem execCheck_acts {c : CmdRef} {hv : HostView} {s : State} {t : State} (e : execCheck c hv s = .next t) :
    Acts [.regs, .host, .cmds, .lockage] s t := by
  unfold execCheck at e
  refine runs_acts (qs := [.regs, .host, .cmds, .lockage, .acting]) (by decide) (fun ps hs hp => ?_) e
  repeat' first
    | with_reducible assumption | with_reducible refine State.start_acts ?_ ?_ (inside hp (by decide))
    | with_reducible refine State.check_acts ?_ (inside hp (by decide)) | with_reducible refine State.sees_acts ?_ (inside hp (by decide))
    | intro _ | dsimp only

theorem State.commit_acts {ps : List Part} {z : State} {s : State} {c : Cmd}
    (hs : Acts ps z s) (hp : ∀ p ∈ ([.cmds, .lockage] : List Part), p ∈ ps) :
    Acts ps z (State.commit s c) := by
  unfold State.commit
  repeat' first
    | with_reducible assumption | with_reducible refine State.chamberTo_acts ?_ (inside hp (by decide))
    | with_reducible refine State.running_acts ?_ (inside hp (by decide))
    | with_reducible refine State.finish_acts ?_ (inside hp (by decide)) | extract_lets | intro _ | with_reducible refine Acts.ite ?_ ?_
    | dsimp only | with_reducible refine Acts.set_chamber_commits ?_ (hp _ (by decide)) (hp _ (by decide)) | dsimp +zetaDelta only

theorem execCommit_acts {c : CmdRef} {hv : HostView} {s : State} {t : State} (e : execCommit c hv s = .next t) :
    Acts [.host, .cmds, .lockage] s t := by
  unfold execCommit at e
  refine runs_acts (qs := [.host, .cmds, .lockage, .acting]) (by decide) (fun ps hs hp => ?_) e
  repeat' first
    | with_reducible assumption | with_reducible refine State.commit_acts ?_ (inside hp (by decide))
    | with_reducible refine State.start_acts ?_ ?_ (inside hp (by decide))
    | with_reducible refine State.sees_acts ?_ (inside hp (by decide)) | intro _ | dsimp only

theorem State.withdrawCommit_acts {ps : List Part} {z : State} {s : State} {r : CmdRef}
    (hs : Acts ps z s) (hp : ∀ p ∈ ([.lockage] : List Part), p ∈ ps) :
    Acts ps z (State.withdrawCommit s r) := by
  unfold State.withdrawCommit
  repeat' first
    | with_reducible assumption | with_reducible refine State.chamberTo_acts ?_ (inside hp (by decide))
    | with_reducible refine State.withdraw_acts ?_ (inside hp (by decide))

theorem execAbandon_acts {c : CmdRef} {hv : HostView} {s : State} {t : State} (e : execAbandon c hv s = .next t) :
    Acts [.host, .cmds, .lockage] s t := by
  unfold execAbandon at e
  refine runs_acts (qs := [.host, .cmds, .lockage, .acting]) (by decide) (fun ps hs hp => ?_) e
  repeat' first
    | with_reducible assumption | with_reducible refine State.emptyChamber_acts ?_ (inside hp (by decide))
    | with_reducible refine State.finish_acts ?_ (inside hp (by decide))
    | with_reducible refine State.start_acts ?_ ?_ (inside hp (by decide))
    | with_reducible refine State.sees_acts ?_ (inside hp (by decide)) | intro _ | with_reducible refine Acts.ite ?_ ?_ | dsimp only

theorem State.commitSegs_acts {ps : List Part} {z : State} {s : State} {old : State}
    (hs : Acts ps z s) (hold : Acts ps z old) (hp : ∀ p ∈ ([.moving] : List Part), p ∈ ps) :
    Acts ps z (State.commitSegs s old) := by
  unfold State.commitSegs
  repeat' first
    | with_reducible assumption | with_reducible refine State.beginSegChange_acts ?_ (inside hp (by decide))
    | with_reducible refine Acts.foldl ?_ ?_ | with_reducible refine Acts.foldl_fst ?_ ?_ | with_reducible refine Acts.foldl_snd ?_ ?_
    | extract_lets | intro _ | with_reducible refine Acts.ite ?_ ?_ | dsimp only | dsimp +zetaDelta only

theorem State.commitHistory_acts {ps : List Part} {z : State} {s : State} {old : State}
    (hs : Acts ps z s) (hold : Acts ps z old) (hp : ∀ p ∈ ([.regs] : List Part), p ∈ ps) :
    Acts ps z (State.commitHistory s old) := by
  unfold State.commitHistory
  repeat' first
    | with_reducible assumption | with_reducible refine State.histRecompute_acts ?_ (inside hp (by decide))
    | with_reducible refine State.histReset_acts ?_ (inside hp (by decide)) | with_reducible refine Acts.foldl ?_ ?_ | extract_lets
    | intro _ | with_reducible refine Acts.ite ?_ ?_ | dsimp only | dsimp +zetaDelta only

theorem State.socketServes_acts {ps : List Part} {z : State} {s : State} {n : Nat}
    (hs : Acts ps z s) (hp : ∀ p ∈ ([.mem, .panel, .mgmt] : List Part), p ∈ ps) :
    Acts ps z (State.socketServes s n) := by
  unfold State.socketServes
  repeat' first
    | with_reducible assumption | with_reducible refine State.putSocket_acts ?_ (inside hp (by decide)) | extract_lets
    | exact fun q => insert_sorted q | exact fun q => filter_sorted q | exact fun q => Mem.forget_wf q | exact fun q => q
    | with_reducible refine Acts.ite ?_ ?_ | with_reducible refine Acts.set_mem ?_ ?_ (hp _ (by decide)) | dsimp +zetaDelta only

theorem State.commitSockets_acts {ps : List Part} {z : State} {s : State} {old : State} {named : Bool}
    (hs : Acts ps z s) (hold : Acts ps z old) (hp : ∀ p ∈ ([.mem, .panel, .mgmt] : List Part), p ∈ ps) :
    Acts ps z (State.commitSockets s old named) := by
  unfold State.commitSockets
  repeat' first
    | with_reducible assumption | with_reducible refine State.socketServes_acts ?_ (inside hp (by decide))
    | with_reducible refine State.putSocket_acts ?_ (inside hp (by decide)) | with_reducible refine Acts.foldl ?_ ?_ | extract_lets
    | intro _ | with_reducible refine Acts.ite ?_ ?_ | dsimp only | dsimp +zetaDelta only

theorem State.commitSensors_acts {ps : List Part} {z : State} {s : State} {old : State}
    (hs : Acts ps z s) (hold : Acts ps z old) (hp : ∀ p ∈ ([.mgmt] : List Part), p ∈ ps) :
    Acts ps z (State.commitSensors s old) := by
  unfold State.commitSensors
  repeat' first
    | with_reducible assumption | with_reducible refine State.sensorChange_acts ?_ (inside hp (by decide))
    | with_reducible refine Acts.foldl ?_ ?_ | intro _ | dsimp only

theorem State.commitPorts_acts {ps : List Part} {z : State} {s : State} {old : State}
    (hs : Acts ps z s) (hold : Acts ps z old) (hp : ∀ p ∈ ([.draws, .regs, .mem, .cmds, .weights, .links, .colls, .turns, .lockage, .mgmt, .log, .outbox] : List Part), p ∈ ps) :
    Acts ps z (State.commitPorts s old) := by
  unfold State.commitPorts
  repeat' first
    | with_reducible assumption | with_reducible refine State.sendIdent_acts ?_ (inside hp (by decide))
    | with_reducible refine State.judgeLink_acts ?_ (inside hp (by decide))
    | with_reducible refine State.updPort_acts ?_ (inside hp (by decide)) | with_reducible refine Acts.foldl ?_ ?_ | extract_lets
    | intro _ | with_reducible refine Acts.ite ?_ ?_ | dsimp only | dsimp +zetaDelta only

theorem State.commitUnits_acts {ps : List Part} {z : State} {s : State} {old : State}
    (hs : Acts ps z s) (hold : Acts ps z old) (hp : ∀ p ∈ ([.moving] : List Part), p ∈ ps) :
    Acts ps z (State.commitUnits s old) := by
  unfold State.commitUnits
  repeat' first
    | with_reducible assumption | extract_lets | intro _ | dsimp only | with_reducible refine Acts.set_clears ?_ (hp _ (by decide))
    | dsimp +zetaDelta only

theorem State.commitContexts_acts {ps : List Part} {z : State} {s : State} {old : State}
    (hs : Acts ps z s) (hold : Acts ps z old) (hp : ∀ p ∈ ([.regs, .outbox] : List Part), p ∈ ps) :
    Acts ps z (State.commitContexts s old) := by
  unfold State.commitContexts
  repeat' first
    | with_reducible assumption | with_reducible refine State.setCtxBit_acts ?_ (inside hp (by decide))
    | with_reducible refine State.loseState_acts ?_ (inside hp (by decide)) | with_reducible refine Acts.foldl ?_ ?_ | extract_lets
    | intro _ | with_reducible refine Acts.ite ?_ ?_ | dsimp only | dsimp +zetaDelta only

theorem State.commitEntries_acts {ps : List Part} {z : State} {s : State} {es : List Staged} {service : Bool}
    (hs : Acts ps z s) (hp : ∀ p ∈ ([.spine, .draws, .regs, .mem, .moving, .cmds, .weights, .links, .colls, .turns, .logbook, .lockage, .keepsake, .panel, .mgmt, .log, .outbox] : List Part), p ∈ ps) :
    Acts ps z (State.commitEntries s es service) := by
  unfold State.commitEntries
  repeat' first
    | with_reducible assumption | with_reducible refine State.commitContexts_acts ?_ ?_ (inside hp (by decide))
    | with_reducible refine State.commitSockets_acts ?_ ?_ (inside hp (by decide))
    | with_reducible refine State.commitSensors_acts ?_ ?_ (inside hp (by decide))
    | with_reducible refine State.commitHistory_acts ?_ ?_ (inside hp (by decide))
    | with_reducible refine State.commitPorts_acts ?_ ?_ (inside hp (by decide))
    | with_reducible refine State.commitUnits_acts ?_ ?_ (inside hp (by decide))
    | with_reducible refine State.commitEpoch_acts ?_ (inside hp (by decide))
    | with_reducible refine State.commitSegs_acts ?_ ?_ (inside hp (by decide))
    | with_reducible refine State.ksWrite_acts ?_ (inside hp (by decide))
    | with_reducible refine State.record_acts ?_ (inside hp (by decide))
    | with_reducible refine State.raise_acts ?_ (inside hp (by decide)) | extract_lets | intro _ | with_reducible refine Acts.ite ?_ ?_
    | dsimp only | dsimp +zetaDelta only

theorem State.hostCommit_acts {ps : List Part} {z : State} {s : State} {r : CmdRef} {w : WaitingCommit}
    (hs : Acts ps z s) (hp : ∀ p ∈ ([.spine, .draws, .regs, .mem, .moving, .cmds, .weights, .links, .colls, .turns, .logbook, .lockage, .keepsake, .panel, .mgmt, .log, .outbox] : List Part), p ∈ ps) :
    Acts ps z (State.hostCommit s r w) := by
  unfold State.hostCommit
  repeat' first
    | with_reducible assumption | with_reducible refine State.commitEntries_acts ?_ (inside hp (by decide))
    | with_reducible refine State.emptyChamber_acts ?_ (inside hp (by decide))
    | with_reducible refine State.chamberTo_acts ?_ (inside hp (by decide))
    | with_reducible refine State.finish_acts ?_ (inside hp (by decide)) | extract_lets | with_reducible refine Acts.ite ?_ ?_
    | dsimp +zetaDelta only

theorem State.restoreSettings_acts {ps : List Part} {z : State} {s : State}
    (hs : Acts ps z s) (hp : ∀ p ∈ ([.regs, .log, .outbox] : List Part), p ∈ ps) :
    Acts ps z (State.restoreSettings s) := by
  unfold State.restoreSettings
  repeat' first
    | with_reducible assumption | with_reducible refine State.logEvent_acts ?_ (inside hp (by decide))
    | with_reducible refine State.setNat_acts ?_ (inside hp (by decide))
    | with_reducible refine State.raise_acts ?_ (inside hp (by decide)) | with_reducible refine State.lay_acts ?_ (inside hp (by decide))
    | with_reducible refine Acts.foldl ?_ ?_ | with_reducible refine Acts.foldl_fst ?_ ?_ | with_reducible refine Acts.foldl_snd ?_ ?_
    | extract_lets | intro _ | with_reducible refine Acts.ite ?_ ?_ | dsimp only | dsimp +zetaDelta only

end Sys2Proof.Machine
end

