-- ==== Sys2Proof/Laws/ActsTurns.lean ====
section
/-! SUPPORT. What the operations of Machine/Turns.lean may do (Laws/Acts.lean): the parts each may change, the invariant kept. -/

namespace Sys2Proof.Machine

open Sys2Proof

theorem State.newRound_acts {ps : List Part} {z : State} {s : State} {b : Nat}
    (hs : Acts ps z s) (hp : ∀ p ∈ ([.serving, .trains, .turns] : List Part), p ∈ ps) :
    Acts ps z (State.newRound s b) := by
  unfold State.newRound
  repeat' first
    | with_reducible assumption | intro _ | with_reducible refine Acts.ite ?_ ?_ | dsimp only
    | with_reducible refine Acts.set_serving_trains_scores ?_ (hp _ (by decide)) (hp _ (by decide)) (hp _ (by decide))

theorem State.turnOf_acts {ps : List Part} {z : State} {s : State} {b : Nat} {kind : Nat} {num : Nat} {r}
    (hs : Acts ps z s) (hp : ∀ p ∈ ([.serving, .trains, .turns] : List Part), p ∈ ps) (e : State.turnOf s b kind num = some r) :
    Acts ps z r := by
  unfold State.turnOf at e
  dsimp only at e
  split at e
  · cases e
  · split at e
    · cases e
    · split at e
      · cases e; exact hs
      · split at e
        · cases e
        · cases e; exact State.newRound_acts hs (inside hp (by decide))

theorem State.occupy_acts {ps : List Part} {z : State} {s : State} {b : Nat} {kind : Nat} {num : Nat}
    (hs : Acts ps z s) (hp : ∀ p ∈ ([.turns] : List Part), p ∈ ps) :
    Acts ps z (State.occupy s b kind num) := by
  unfold State.occupy
  repeat' first
    | with_reducible assumption | with_reducible refine Acts.set_occupants ?_ (hp _ (by decide))

theorem State.serveStep_acts {ps : List Part} {z : State} {s : State} {n : Nat}
    (hs : Acts ps z s) (hp : ∀ p ∈ ([.draws, .power, .regs, .mem, .host, .queues, .cmds, .weights, .serving, .trains, .turns, .logbook, .lockage, .log, .outbox] : List Part), p ∈ ps) :
    Acts ps z (State.serveStep s n) := by
  unfold State.serveStep
  repeat' first
    | with_reducible assumption | with_reducible refine State.closeIfDone_acts ?_ (inside hp (by decide))
    | with_reducible refine State.updServing_acts ?_ (inside hp (by decide))
    | with_reducible refine State.stepBuild_acts ?_ (inside hp (by decide))
    | with_reducible refine State.boundary_acts ?_ (inside hp (by decide))
    | with_reducible refine State.occupy_acts ?_ (inside hp (by decide))
    | with_reducible refine State.turnOf_acts ?_ (inside hp (by decide)) (by with_reducible assumption) | extract_lets | intro _
    | with_reducible refine Acts.ite ?_ ?_ | split | dsimp only | dsimp +zetaDelta only

theorem execStepBuild_acts {svc : Nat} {now : Nat} {hv : HostView} {s : State} {t : State} (e : execStepBuild svc now hv s = .next t) :
    Acts [.draws, .clock, .power, .regs, .mem, .host, .queues, .cmds, .weights, .serving, .trains, .turns, .logbook, .lockage, .log, .outbox] s t := by
  unfold execStepBuild at e
  refine runs_acts (qs := [.draws, .clock, .power, .regs, .mem, .host, .queues, .cmds, .weights, .serving, .trains, .turns, .logbook, .lockage, .log, .outbox]) (by decide) (fun ps hs hp => ?_) e
  repeat' first
    | with_reducible assumption | with_reducible refine State.serveStep_acts ?_ (inside hp (by decide))
    | with_reducible refine State.sees_acts ?_ (inside hp (by decide)) | with_reducible refine State.at_acts ?_ (inside hp (by decide))
    | intro _ | dsimp only

theorem State.trainStepStart_acts {ps : List Part} {z : State} {s : State} {n : Nat}
    (hs : Acts ps z s) (hp : ∀ p ∈ ([.draws, .power, .regs, .mem, .host, .queues, .cmds, .units, .weights, .links, .serving, .colls, .trains, .turns, .logbook, .lockage, .mgmt, .log, .outbox, .acting] : List Part), p ∈ ps) :
    Acts ps z (State.trainStepStart s n) := by
  unfold State.trainStepStart
  repeat' first
    | with_reducible assumption | with_reducible refine State.trainStart_acts ?_ (inside hp (by decide))
    | with_reducible refine State.onRing_acts ?_ ?_ (inside hp (by decide))
    | with_reducible refine State.occupy_acts ?_ (inside hp (by decide))
    | with_reducible refine State.actFor_acts ?_ (inside hp (by decide))
    | with_reducible refine State.turnOf_acts ?_ (inside hp (by decide)) (by with_reducible assumption) | intro _
    | with_reducible refine Acts.ite ?_ ?_ | split | dsimp only

theorem execTrainStepStart_acts {a0 : Nat} {now : Nat} {hv : HostView} {s : State} {t : State} (e : execTrainStepStart a0 now hv s = .next t) :
    Acts [.draws, .clock, .power, .regs, .mem, .host, .queues, .cmds, .units, .weights, .links, .serving, .colls, .trains, .turns, .logbook, .lockage, .mgmt, .log, .outbox] s t := by
  unfold execTrainStepStart at e
  refine runs_acts (qs := [.draws, .clock, .power, .regs, .mem, .host, .queues, .cmds, .units, .weights, .links, .serving, .colls, .trains, .turns, .logbook, .lockage, .mgmt, .log, .outbox, .acting]) (by decide) (fun ps hs hp => ?_) e
  repeat' first
    | with_reducible assumption | with_reducible refine State.trainStepStart_acts ?_ (inside hp (by decide))
    | with_reducible refine State.sees_acts ?_ (inside hp (by decide)) | with_reducible refine State.at_acts ?_ (inside hp (by decide))
    | intro _ | dsimp only

theorem State.updScore_acts {ps : List Part} {z : State} {s : State} {b : Nat} {f : Score → Score}
    (hs : Acts ps z s) (hp : ∀ p ∈ ([.turns] : List Part), p ∈ ps) :
    Acts ps z (State.updScore s b f) := by
  unfold State.updScore
  repeat' first
    | with_reducible assumption | split | with_reducible refine Acts.set_scores ?_ (hp _ (by decide))

theorem State.park_acts {ps : List Part} {z : State} {s : State} {kind : Nat} {n : Nat} {c : Cmd}
    (hs : Acts ps z s) (hp : ∀ p ∈ ([.cmds, .serving, .trains, .turns] : List Part), p ∈ ps) :
    Acts ps z (State.park s kind n c) := by
  unfold State.park
  repeat' first
    | with_reducible assumption | with_reducible refine State.updServing_acts ?_ (inside hp (by decide))
    | with_reducible refine State.updTrain_acts ?_ (inside hp (by decide))
    | with_reducible refine State.updScore_acts ?_ (inside hp (by decide))
    | with_reducible refine State.running_acts ?_ (inside hp (by decide))
    | with_reducible refine State.finish_acts ?_ (inside hp (by decide)) | extract_lets | intro _ | with_reducible refine Acts.ite ?_ ?_
    | split | dsimp only | dsimp +zetaDelta only

theorem State.resume_acts {ps : List Part} {z : State} {s : State} {kind : Nat} {n : Nat}
    (hs : Acts ps z s) (hp : ∀ p ∈ ([.serving, .trains, .turns] : List Part), p ∈ ps) :
    Acts ps z (State.resume s kind n) := by
  unfold State.resume
  repeat' first
    | with_reducible assumption | with_reducible refine State.updServing_acts ?_ (inside hp (by decide))
    | with_reducible refine State.updScore_acts ?_ (inside hp (by decide))
    | with_reducible refine State.updTrain_acts ?_ (inside hp (by decide)) | intro _ | with_reducible refine Acts.ite ?_ ?_ | dsimp only

theorem State.share_acts {ps : List Part} {z : State} {s : State} {kind : Nat} {n : Nat} {v : Nat}
    (hs : Acts ps z s) (hp : ∀ p ∈ ([.serving, .trains, .turns] : List Part), p ∈ ps) :
    Acts ps z (State.share s kind n v) := by
  unfold State.share
  repeat' first
    | with_reducible assumption | with_reducible refine State.updServing_acts ?_ (inside hp (by decide))
    | with_reducible refine State.updScore_acts ?_ (inside hp (by decide))
    | with_reducible refine State.updTrain_acts ?_ (inside hp (by decide)) | intro _ | with_reducible refine Acts.ite ?_ ?_ | dsimp only

theorem State.preempt_acts {ps : List Part} {z : State} {s : State} {c : Cmd}
    (hs : Acts ps z s) (hp : ∀ p ∈ ([.regs, .queues, .cmds, .serving, .trains, .turns, .lockage, .log, .outbox] : List Part), p ∈ ps) :
    Acts ps z (State.preempt s c) := by
  unfold State.preempt
  repeat' first
    | with_reducible assumption | with_reducible refine State.failTurn_acts ?_ (inside hp (by decide))
    | with_reducible refine State.resume_acts ?_ (inside hp (by decide))
    | with_reducible refine State.finish_acts ?_ (inside hp (by decide))
    | with_reducible refine State.refuse_acts ?_ (inside hp (by decide))
    | with_reducible refine State.share_acts ?_ (inside hp (by decide)) | with_reducible refine State.park_acts ?_ (inside hp (by decide))
    | extract_lets | with_reducible refine Acts.ite ?_ ?_ | split | dsimp +zetaDelta only

theorem execPreempt_acts {c : CmdRef} {hv : HostView} {s : State} {t : State} (e : execPreempt c hv s = .next t) :
    Acts [.regs, .host, .queues, .cmds, .serving, .trains, .turns, .lockage, .log, .outbox] s t := by
  unfold execPreempt at e
  refine runs_acts (qs := [.regs, .host, .queues, .cmds, .serving, .trains, .turns, .lockage, .log, .outbox, .acting]) (by decide) (fun ps hs hp => ?_) e
  repeat' first
    | with_reducible assumption | with_reducible refine State.preempt_acts ?_ (inside hp (by decide))
    | with_reducible refine State.start_acts ?_ ?_ (inside hp (by decide))
    | with_reducible refine State.sees_acts ?_ (inside hp (by decide)) | intro _ | dsimp only

theorem State.putPattern_acts {ps : List Part} {z : State} {s : State} {code : Nat} {base : Nat} {off : Nat} {w : Nat}
    (hs : Acts ps z s) (hp : ∀ p ∈ ([.draws, .regs, .mem, .weights, .log, .outbox] : List Part), p ∈ ps) :
    Acts ps z (State.putPattern s code base off w) := by
  unfold State.putPattern
  repeat' first
    | with_reducible assumption | with_reducible refine State.writeMem_acts ?_ (inside hp (by decide)) | extract_lets
    | with_reducible refine Acts.ite ?_ ?_ | dsimp +zetaDelta only

theorem State.placeScales_acts {ps : List Part} {z : State} {s : State} {base : Nat} {t : Tensor} {x : Piece} {scales : List Byte} {draw : Nat}
    (hs : Acts ps z s) (hp : ∀ p ∈ ([.draws, .regs, .mem, .weights, .log, .outbox] : List Part), p ∈ ps) :
    Acts ps z (State.placeScales s base t x scales draw) := by
  unfold State.placeScales
  repeat' first
    | with_reducible assumption | with_reducible refine State.writeMem_acts ?_ (inside hp (by decide))
    | with_reducible refine Acts.foldl ?_ ?_ | extract_lets | intro _ | with_reducible refine Acts.ite ?_ ?_ | dsimp only
    | dsimp +zetaDelta only

theorem State.stalePiece_acts {ps : List Part} {z : State} {s : State} {svc : Nat}
    (hs : Acts ps z s) (hp : ∀ p ∈ ([.regs, .outbox] : List Part), p ∈ ps) :
    Acts ps z (State.stalePiece s svc) := by
  unfold State.stalePiece
  repeat' first
    | with_reducible assumption | with_reducible refine State.sat32_acts ?_ (inside hp (by decide))
    | with_reducible refine State.raise_acts ?_ (inside hp (by decide))

theorem State.placePiece_acts {ps : List Part} {z : State} {s : State} {svc : Nat} {t : Turn} {x : Piece} {body : List Byte} {poison : List (Nat × Nat)}
    (hs : Acts ps z s) (hp : ∀ p ∈ ([.draws, .regs, .mem, .weights, .turns, .log, .outbox] : List Part), p ∈ ps) :
    Acts ps z (State.placePiece s svc t x body poison) := by
  unfold State.placePiece
  repeat' first
    | with_reducible assumption | with_reducible refine State.placeScales_acts ?_ (inside hp (by decide))
    | with_reducible refine State.poisonRange_acts ?_ (inside hp (by decide))
    | with_reducible refine State.stalePiece_acts ?_ (inside hp (by decide))
    | with_reducible refine State.putPattern_acts ?_ (inside hp (by decide))
    | with_reducible refine State.updTurn_acts ?_ (inside hp (by decide))
    | with_reducible refine State.add64_acts ?_ (inside hp (by decide)) | with_reducible refine State.draw_acts ?_ (inside hp (by decide))
    | with_reducible refine Acts.foldl ?_ ?_ | with_reducible refine Acts.foldl_fst ?_ ?_ | with_reducible refine Acts.foldl_snd ?_ ?_
    | extract_lets | exact fun q => insert_sorted q | exact fun q => filter_sorted q | exact fun q => Mem.forget_wf q | exact fun q => q
    | intro _ | split | dsimp only | with_reducible refine Acts.set_mem ?_ ?_ (hp _ (by decide)) | dsimp +zetaDelta only

theorem State.turnPiece_acts {ps : List Part} {z : State} {s : State} {p : Nat}
    (hs : Acts ps z s) (hp : ∀ p ∈ ([.draws, .regs, .mem, .weights, .links, .turns, .mgmt, .log, .outbox, .acting] : List Part), p ∈ ps) :
    Acts ps z (State.turnPiece s p) := by
  unfold State.turnPiece
  repeat' first
    | with_reducible assumption | with_reducible refine State.placePiece_acts ?_ (inside hp (by decide))
    | with_reducible refine State.stalePiece_acts ?_ (inside hp (by decide))
    | with_reducible refine State.consume_acts ?_ (inside hp (by decide)) | extract_lets | intro _ | with_reducible refine Acts.ite ?_ ?_
    | split | dsimp only | with_reducible refine Acts.set_acting ?_ (hp _ (by decide)) | dsimp +zetaDelta only

theorem execTurnPiece_acts {p : Nat} {now : Nat} {s : State} {t : State} (e : execTurnPiece p now s = .next t) :
    Acts [.draws, .clock, .regs, .mem, .weights, .links, .turns, .mgmt, .log, .outbox] s t := by
  unfold execTurnPiece at e
  refine runs_acts (qs := [.draws, .clock, .regs, .mem, .weights, .links, .turns, .mgmt, .log, .outbox, .acting]) (by decide) (fun ps hs hp => ?_) e
  repeat' first
    | with_reducible assumption | with_reducible refine State.turnPiece_acts ?_ (inside hp (by decide))
    | with_reducible refine State.at_acts ?_ (inside hp (by decide)) | intro _ | dsimp only

theorem State.sendPiece_acts {ps : List Part} {z : State} {s : State} {svc : Nat} {k : Train} {i : Nat} {x : Piece}
    (hs : Acts ps z s) (hp : ∀ p ∈ ([.draws, .regs, .mem, .units, .weights, .links, .turns, .lockage, .mgmt, .log, .outbox, .acting] : List Part), p ∈ ps) :
    Acts ps z (State.sendPiece s svc k i x) := by
  unfold State.sendPiece
  repeat' first
    | with_reducible assumption | with_reducible refine State.sendMessage_acts ?_ (inside hp (by decide))
    | with_reducible refine State.noteRanges_acts ?_ (inside hp (by decide))
    | with_reducible refine State.placePiece_acts ?_ (inside hp (by decide))
    | with_reducible refine State.failTurn_acts ?_ (inside hp (by decide))
    | with_reducible refine State.updTurn_acts ?_ (inside hp (by decide))
    | with_reducible refine State.draw_acts ?_ (inside hp (by decide)) | extract_lets | intro _ | with_reducible refine Acts.ite ?_ ?_
    | split | dsimp only | with_reducible refine Acts.set_acting ?_ (hp _ (by decide)) | dsimp +zetaDelta only

theorem State.turn_acts {ps : List Part} {z : State} {s : State} {c : Cmd}
    (hs : Acts ps z s) (hp : ∀ p ∈ ([.draws, .regs, .mem, .queues, .cmds, .units, .weights, .turns, .lockage, .log, .outbox] : List Part), p ∈ ps) :
    Acts ps z (State.turn s c) := by
  unfold State.turn
  repeat' first
    | with_reducible assumption | with_reducible refine State.awaitCommit_acts ?_ (inside hp (by decide))
    | with_reducible refine State.noteRanges_acts ?_ (inside hp (by decide))
    | with_reducible refine State.running_acts ?_ (inside hp (by decide))
    | with_reducible refine State.finish_acts ?_ (inside hp (by decide))
    | with_reducible refine State.refuse_acts ?_ (inside hp (by decide)) | extract_lets | intro _ | with_reducible refine Acts.ite ?_ ?_
    | split | dsimp only | with_reducible refine Acts.set_turns ?_ (hp _ (by decide)) | dsimp +zetaDelta only

theorem execTurn_acts {c : CmdRef} {hv : HostView} {s : State} {t : State} (e : execTurn c hv s = .next t) :
    Acts [.draws, .regs, .mem, .host, .queues, .cmds, .units, .weights, .turns, .lockage, .log, .outbox] s t := by
  unfold execTurn at e
  refine runs_acts (qs := [.draws, .regs, .mem, .host, .queues, .cmds, .units, .weights, .turns, .lockage, .log, .outbox, .acting]) (by decide) (fun ps hs hp => ?_) e
  repeat' first
    | with_reducible assumption | with_reducible refine State.start_acts ?_ ?_ (inside hp (by decide))
    | with_reducible refine State.sees_acts ?_ (inside hp (by decide)) | with_reducible refine State.turn_acts ?_ (inside hp (by decide))
    | intro _ | dsimp only

theorem State.releaseHoldWait_acts {ps : List Part} {z : State} {s : State}
    (hs : Acts ps z s) (hp : ∀ p ∈ ([.cmds, .panel] : List Part), p ∈ ps) :
    Acts ps z (State.releaseHoldWait s) := by
  unfold State.releaseHoldWait
  repeat' first
    | with_reducible assumption | with_reducible refine State.finish_acts ?_ (inside hp (by decide))
    | with_reducible refine Acts.foldl ?_ ?_ | intro _ | with_reducible refine Acts.ite ?_ ?_ | dsimp only
    | with_reducible refine Acts.set_panel ?_ (hp _ (by decide))

theorem State.atTurnFirst_acts {ps : List Part} {z : State} {s : State} {r : CmdRef} {n : Nat}
    (hs : Acts ps z s) (hp : ∀ p ∈ ([.spine, .draws, .regs, .mem, .host, .queues, .cmds, .weights, .serving, .trains, .turns, .logbook, .lockage, .panel, .log, .outbox] : List Part), p ∈ ps) :
    Acts ps z (State.atTurnFirst s r n) := by
  unfold State.atTurnFirst
  repeat' first
    | with_reducible assumption | with_reducible refine State.releaseHoldWait_acts ?_ (inside hp (by decide))
    | with_reducible refine State.serviceCommit_acts ?_ (inside hp (by decide))
    | with_reducible refine State.cutEntries_acts ?_ (inside hp (by decide))
    | with_reducible refine State.updServing_acts ?_ (inside hp (by decide))
    | with_reducible refine State.updTrain_acts ?_ (inside hp (by decide))
    | with_reducible refine State.boundary_acts ?_ (inside hp (by decide))
    | with_reducible refine State.updTurn_acts ?_ (inside hp (by decide))
    | with_reducible refine State.putSet_acts ?_ (inside hp (by decide))
    | with_reducible refine State.setNat_acts ?_ (inside hp (by decide))
    | with_reducible refine State.finish_acts ?_ (inside hp (by decide))
    | with_reducible refine State.set64_acts ?_ (inside hp (by decide)) | extract_lets | intro _ | with_reducible refine Acts.ite ?_ ?_
    | split | dsimp only | with_reducible refine Acts.set_turns ?_ (hp _ (by decide)) | dsimp +zetaDelta only

theorem State.drainDeadline_acts {ps : List Part} {z : State} {s : State} {n : Nat}
    (hs : Acts ps z s) (hp : ∀ p ∈ ([.draws, .regs, .mem, .host, .queues, .cmds, .weights, .serving, .turns, .logbook, .log, .outbox] : List Part), p ∈ ps) :
    Acts ps z (State.drainDeadline s n) := by
  unfold State.drainDeadline
  repeat' first
    | with_reducible assumption | with_reducible refine State.cutEntries_acts ?_ (inside hp (by decide))
    | with_reducible refine State.boundary_acts ?_ (inside hp (by decide)) | extract_lets | with_reducible refine Acts.ite ?_ ?_ | split
    | dsimp +zetaDelta only

theorem execDrainDeadline_acts {svc : Nat} {now : Nat} {s : State} {t : State} (e : execDrainDeadline svc now s = .next t) :
    Acts [.draws, .clock, .regs, .mem, .host, .queues, .cmds, .weights, .serving, .turns, .logbook, .log, .outbox] s t := by
  unfold execDrainDeadline at e
  refine runs_acts (qs := [.draws, .clock, .regs, .mem, .host, .queues, .cmds, .weights, .serving, .turns, .logbook, .log, .outbox]) (by decide) (fun ps hs hp => ?_) e
  repeat' first
    | with_reducible assumption | with_reducible refine State.drainDeadline_acts ?_ (inside hp (by decide))
    | with_reducible refine State.at_acts ?_ (inside hp (by decide)) | intro _ | dsimp only

theorem State.settleEnd_acts {ps : List Part} {z : State} {s : State} {n : Nat}
    (hs : Acts ps z s) (hp : ∀ p ∈ ([.draws, .regs, .mem, .units, .weights, .links, .serving, .turns, .lockage, .mgmt, .log, .outbox, .acting] : List Part), p ∈ ps) :
    Acts ps z (State.settleEnd s n) := by
  unfold State.settleEnd
  repeat' first
    | with_reducible assumption | with_reducible refine State.updServing_acts ?_ (inside hp (by decide))
    | with_reducible refine State.sendPiece_acts ?_ (inside hp (by decide))
    | with_reducible refine State.failTurn_acts ?_ (inside hp (by decide))
    | with_reducible refine State.updTurn_acts ?_ (inside hp (by decide)) | with_reducible refine Acts.foldl ?_ ?_
    | with_reducible refine Acts.foldl_snd ?_ ?_ | extract_lets | intro _ | with_reducible refine Acts.ite ?_ ?_ | split | dsimp only
    | dsimp +zetaDelta only

theorem execSettleEnd_acts {svc : Nat} {now : Nat} {s : State} {t : State} (e : execSettleEnd svc now s = .next t) :
    Acts [.draws, .clock, .regs, .mem, .units, .weights, .links, .serving, .turns, .lockage, .mgmt, .log, .outbox] s t := by
  unfold execSettleEnd at e
  refine runs_acts (qs := [.draws, .clock, .regs, .mem, .units, .weights, .links, .serving, .turns, .lockage, .mgmt, .log, .outbox, .acting]) (by decide) (fun ps hs hp => ?_) e
  repeat' first
    | with_reducible assumption | with_reducible refine State.settleEnd_acts ?_ (inside hp (by decide))
    | with_reducible refine State.at_acts ?_ (inside hp (by decide)) | intro _ | dsimp only

theorem State.transferEnd_acts {ps : List Part} {z : State} {s : State} {n : Nat}
    (hs : Acts ps z s) (hp : ∀ p ∈ ([.draws, .regs, .mem, .cmds, .units, .weights, .links, .colls, .turns, .lockage, .mgmt, .log, .outbox] : List Part), p ∈ ps) :
    Acts ps z (State.transferEnd s n) := by
  unfold State.transferEnd
  repeat' first
    | with_reducible assumption | with_reducible refine State.openColl_acts ?_ (inside hp (by decide))
    | with_reducible refine State.castVote_acts ?_ (inside hp (by decide))
    | with_reducible refine State.updTurn_acts ?_ (inside hp (by decide))
    | with_reducible refine State.setNat_acts ?_ (inside hp (by decide))
    | with_reducible refine State.issue_acts ?_ ?_ (inside hp (by decide)) | extract_lets | intro _ | with_reducible refine Acts.ite ?_ ?_
    | split | dsimp only | dsimp +zetaDelta only

theorem execTransferEnd_acts {svc : Nat} {now : Nat} {s : State} {t : State} (e : execTransferEnd svc now s = .next t) :
    Acts [.draws, .clock, .regs, .mem, .cmds, .units, .weights, .links, .colls, .turns, .lockage, .mgmt, .log, .outbox] s t := by
  unfold execTransferEnd at e
  refine runs_acts (qs := [.draws, .clock, .regs, .mem, .cmds, .units, .weights, .links, .colls, .turns, .lockage, .mgmt, .log, .outbox]) (by decide) (fun ps hs hp => ?_) e
  repeat' first
    | with_reducible assumption | with_reducible refine State.transferEnd_acts ?_ (inside hp (by decide))
    | with_reducible refine State.at_acts ?_ (inside hp (by decide)) | intro _ | dsimp only

theorem State.xferTimeout_acts {ps : List Part} {z : State} {s : State} {n : Nat}
    (hs : Acts ps z s) (hp : ∀ p ∈ ([.turns, .lockage] : List Part), p ∈ ps) :
    Acts ps z (State.xferTimeout s n) := by
  unfold State.xferTimeout
  repeat' first
    | with_reducible assumption | with_reducible refine State.failTurn_acts ?_ (inside hp (by decide))
    | with_reducible refine Acts.ite ?_ ?_ | split

theorem execXferTimeout_acts {svc : Nat} {now : Nat} {s : State} {t : State} (e : execXferTimeout svc now s = .next t) :
    Acts [.clock, .turns, .lockage] s t := by
  unfold execXferTimeout at e
  refine runs_acts (qs := [.clock, .turns, .lockage]) (by decide) (fun ps hs hp => ?_) e
  repeat' first
    | with_reducible assumption | with_reducible refine State.xferTimeout_acts ?_ (inside hp (by decide))
    | with_reducible refine State.at_acts ?_ (inside hp (by decide)) | intro _ | dsimp only

theorem State.dropTurnColls_acts {ps : List Part} {z : State} {s : State} {n : Nat}
    (hs : Acts ps z s) (hp : ∀ p ∈ ([.draws, .regs, .mem, .cmds, .links, .colls, .turns, .lockage, .mgmt, .outbox] : List Part), p ∈ ps) :
    Acts ps z (State.dropTurnColls s n) := by
  unfold State.dropTurnColls
  repeat' first
    | with_reducible assumption | with_reducible refine State.failColl_acts ?_ (inside hp (by decide))
    | with_reducible refine Acts.foldl ?_ ?_ | extract_lets | intro _ | dsimp only
    | with_reducible refine Acts.set_colls ?_ (hp _ (by decide)) | dsimp +zetaDelta only

theorem State.turnReport_acts {ps : List Part} {z : State} {s : State} {n : Nat} {t : Turn} {st : Nat} {detail : Nat}
    (hs : Acts ps z s) (hp : ∀ p ∈ ([.draws, .regs, .mem, .host, .queues, .weights, .logbook, .log, .outbox] : List Part), p ∈ ps) :
    Acts ps z (State.turnReport s n t st detail) := by
  unfold State.turnReport
  repeat' first
    | with_reducible assumption | with_reducible refine State.report_acts ?_ (inside hp (by decide))
    | with_reducible refine State.raise_acts ?_ (inside hp (by decide))
    | with_reducible refine State.sat32_acts ?_ (inside hp (by decide)) | extract_lets | with_reducible refine Acts.ite ?_ ?_
    | dsimp +zetaDelta only

theorem State.turnEffects_acts {ps : List Part} {z : State} {s : State} {n : Nat} {t : Turn}
    (hs : Acts ps z s) (hp : ∀ p ∈ ([.regs, .weights, .serving, .trains, .logbook, .outbox] : List Part), p ∈ ps) :
    Acts ps z (State.turnEffects s n t) := by
  unfold State.turnEffects
  repeat' first
    | with_reducible assumption | with_reducible refine State.updServing_acts ?_ (inside hp (by decide))
    | with_reducible refine State.recordSet_acts ?_ (inside hp (by decide))
    | with_reducible refine State.updTrain_acts ?_ (inside hp (by decide))
    | with_reducible refine State.updSet_acts ?_ (inside hp (by decide))
    | with_reducible refine State.raise_acts ?_ (inside hp (by decide)) | extract_lets | intro _ | with_reducible refine Acts.ite ?_ ?_
    | split | dsimp only | with_reducible refine Acts.set_adapters_manifest ?_ (hp _ (by decide)) (hp _ (by decide))
    | dsimp +zetaDelta only

theorem State.turnFinal_acts {ps : List Part} {z : State} {s : State} {n : Nat}
    (hs : Acts ps z s) (hp : ∀ p ∈ ([.spine, .draws, .regs, .mem, .moving, .host, .queues, .cmds, .weights, .links, .serving, .colls, .trains, .turns, .logbook, .lockage, .keepsake, .panel, .mgmt, .log, .outbox] : List Part), p ∈ ps) :
    Acts ps z (State.turnFinal s n) := by
  unfold State.turnFinal
  repeat' first
    | with_reducible assumption | with_reducible refine State.releaseHoldWait_acts ?_ (inside hp (by decide))
    | with_reducible refine State.commitEntries_acts ?_ (inside hp (by decide))
    | with_reducible refine State.dropTurnColls_acts ?_ (inside hp (by decide))
    | with_reducible refine State.turnEffects_acts ?_ (inside hp (by decide))
    | with_reducible refine State.turnReport_acts ?_ (inside hp (by decide))
    | with_reducible refine State.failTurn_acts ?_ (inside hp (by decide)) | extract_lets | intro _ | with_reducible refine Acts.ite ?_ ?_
    | split | dsimp only | with_reducible refine Acts.set_turns ?_ (hp _ (by decide)) | dsimp +zetaDelta only

theorem execTurnFinalCommit_acts {svc : Nat} {now : Nat} {hv : HostView} {s : State} {t : State} (e : execTurnFinalCommit svc now hv s = .next t) :
    Acts [.spine, .draws, .clock, .regs, .mem, .moving, .host, .queues, .cmds, .weights, .links, .serving, .colls, .trains, .turns, .logbook, .lockage, .keepsake, .panel, .mgmt, .log, .outbox] s t := by
  unfold execTurnFinalCommit at e
  refine runsSpine_acts (qs := [.spine, .draws, .clock, .regs, .mem, .moving, .host, .queues, .cmds, .weights, .links, .serving, .colls, .trains, .turns, .logbook, .lockage, .keepsake, .panel, .mgmt, .log, .outbox]) (by decide) (fun ps hs hp => ?_) e
  repeat' first
    | with_reducible assumption | with_reducible refine State.turnFinal_acts ?_ (inside hp (by decide))
    | with_reducible refine State.sees_acts ?_ (inside hp (by decide)) | with_reducible refine State.at_acts ?_ (inside hp (by decide))
    | intro _ | dsimp only

theorem State.atTurnAbandon_acts {ps : List Part} {z : State} {s : State} {n : Nat}
    (hs : Acts ps z s) (hp : ∀ p ∈ ([.spine, .draws, .regs, .mem, .host, .queues, .cmds, .weights, .links, .serving, .colls, .turns, .logbook, .lockage, .panel, .mgmt, .log, .outbox] : List Part), p ∈ ps) :
    Acts ps z (State.atTurnAbandon s n) := by
  unfold State.atTurnAbandon
  repeat' first
    | with_reducible assumption | with_reducible refine State.releaseHoldWait_acts ?_ (inside hp (by decide))
    | with_reducible refine State.dropTurnColls_acts ?_ (inside hp (by decide))
    | with_reducible refine State.serviceCommit_acts ?_ (inside hp (by decide))
    | with_reducible refine State.turnReport_acts ?_ (inside hp (by decide))
    | with_reducible refine State.updServing_acts ?_ (inside hp (by decide))
    | with_reducible refine State.undefine_acts ?_ (inside hp (by decide))
    | with_reducible refine State.emptySet_acts ?_ (inside hp (by decide)) | extract_lets | intro _ | with_reducible refine Acts.ite ?_ ?_
    | split | dsimp only | with_reducible refine Acts.set_turns ?_ (hp _ (by decide)) | dsimp +zetaDelta only

theorem State.scoreStart_acts {ps : List Part} {z : State} {s : State} {c : Cmd}
    (hs : Acts ps z s) (hp : ∀ p ∈ ([.draws, .regs, .mem, .queues, .cmds, .units, .weights, .turns, .lockage, .log, .outbox] : List Part), p ∈ ps) :
    Acts ps z (State.scoreStart s c) := by
  unfold State.scoreStart
  repeat' first
    | with_reducible assumption | with_reducible refine State.awaitCommit_acts ?_ (inside hp (by decide))
    | with_reducible refine State.noteRanges_acts ?_ (inside hp (by decide))
    | with_reducible refine State.running_acts ?_ (inside hp (by decide))
    | with_reducible refine State.finish_acts ?_ (inside hp (by decide))
    | with_reducible refine State.refuse_acts ?_ (inside hp (by decide)) | extract_lets | with_reducible refine Acts.ite ?_ ?_ | split
    | with_reducible refine Acts.set_scores ?_ (hp _ (by decide)) | dsimp +zetaDelta only

theorem execScore_acts {c : CmdRef} {hv : HostView} {s : State} {t : State} (e : execScore c hv s = .next t) :
    Acts [.draws, .regs, .mem, .host, .queues, .cmds, .units, .weights, .turns, .lockage, .log, .outbox] s t := by
  unfold execScore at e
  refine runs_acts (qs := [.draws, .regs, .mem, .host, .queues, .cmds, .units, .weights, .turns, .lockage, .log, .outbox, .acting]) (by decide) (fun ps hs hp => ?_) e
  repeat' first
    | with_reducible assumption | with_reducible refine State.scoreStart_acts ?_ (inside hp (by decide))
    | with_reducible refine State.start_acts ?_ ?_ (inside hp (by decide))
    | with_reducible refine State.sees_acts ?_ (inside hp (by decide)) | intro _ | dsimp only

theorem State.atScoreOpen_acts {ps : List Part} {z : State} {s : State} {r : CmdRef} {b : Nat}
    (hs : Acts ps z s) (hp : ∀ p ∈ ([.spine, .regs, .cmds, .turns, .logbook, .lockage, .outbox] : List Part), p ∈ ps) :
    Acts ps z (State.atScoreOpen s r b) := by
  unfold State.atScoreOpen
  repeat' first
    | with_reducible assumption | with_reducible refine State.serviceCommit_acts ?_ (inside hp (by decide))
    | with_reducible refine State.updScore_acts ?_ (inside hp (by decide))
    | with_reducible refine State.finish_acts ?_ (inside hp (by decide)) | extract_lets | intro _ | dsimp only | dsimp +zetaDelta only

theorem State.feedList_acts {ps : List Part} {z : State} {s : State} {m : Reader} {k : Pool} {spans : List Span} {a4 : Nat} {a5 : List Nat} {a6 : List Fp}
    (hs : Acts ps z s) (hp : ∀ p ∈ ([.draws, .regs, .mem, .weights, .log, .outbox] : List Part), p ∈ ps) :
    Acts ps z (State.feedList s m k spans a4 a5 a6).1 := by
  induction a5 generalizing s m k spans a4 a6 with
  | nil =>
    unfold State.feedList
    repeat' first
      | with_reducible assumption | with_reducible refine State.feed_acts ?_ (inside hp (by decide)) | extract_lets | dsimp only
      | dsimp +zetaDelta only
  | cons _ _ ih =>
    unfold State.feedList
    repeat' first
      | with_reducible assumption | with_reducible refine ih ?_ | with_reducible refine State.feed_acts ?_ (inside hp (by decide))
      | extract_lets | dsimp only | dsimp +zetaDelta only

theorem State.scoreRecord_acts {ps : List Part} {z : State} {s : State} {k : Score} {budget : Nat}
    (hs : Acts ps z s) (hp : ∀ p ∈ ([.draws, .regs, .mem, .weights, .log, .outbox] : List Part), p ∈ ps) :
    Acts ps z (State.scoreRecord s k budget).1 := by
  unfold State.scoreRecord
  repeat' first
    | with_reducible assumption | with_reducible refine State.feedList_acts ?_ (inside hp (by decide)) | extract_lets | intro _
    | with_reducible refine Acts.ite ?_ ?_ | split | dsimp only | dsimp +zetaDelta only

theorem State.scoreRecords_acts {ps : List Part} {z : State} {s : State} {b : Nat} {a2 : Nat} {a3 : Nat}
    (hs : Acts ps z s) (hp : ∀ p ∈ ([.draws, .regs, .mem, .host, .weights, .turns, .log, .outbox] : List Part), p ∈ ps) :
    Acts ps z (State.scoreRecords s b a2 a3) := by
  induction a2 generalizing s b a3 with
  | zero =>
    unfold State.scoreRecords
    repeat' first
      | with_reducible assumption | with_reducible refine State.scoreRecord_acts ?_ (inside hp (by decide))
      | with_reducible refine State.writePlace_acts ?_ (inside hp (by decide))
      | with_reducible refine State.updScore_acts ?_ (inside hp (by decide)) | extract_lets | intro _
      | with_reducible refine Acts.ite ?_ ?_ | split | dsimp only | dsimp +zetaDelta only
  | succ _ ih =>
    unfold State.scoreRecords
    repeat' first
      | with_reducible assumption | with_reducible refine ih ?_ | with_reducible refine State.scoreRecord_acts ?_ (inside hp (by decide))
      | with_reducible refine State.writePlace_acts ?_ (inside hp (by decide))
      | with_reducible refine State.updScore_acts ?_ (inside hp (by decide)) | extract_lets | intro _
      | with_reducible refine Acts.ite ?_ ?_ | split | dsimp only | dsimp +zetaDelta only

theorem State.scoreStep_acts {ps : List Part} {z : State} {s : State} {b : Nat}
    (hs : Acts ps z s) (hp : ∀ p ∈ ([.draws, .power, .regs, .mem, .host, .units, .weights, .serving, .trains, .turns, .lockage, .log, .outbox, .acting] : List Part), p ∈ ps) :
    Acts ps z (State.scoreStep s b) := by
  unfold State.scoreStep
  repeat' first
    | with_reducible assumption | with_reducible refine State.scoreRecords_acts ?_ (inside hp (by decide))
    | with_reducible refine State.awaitCommit_acts ?_ (inside hp (by decide))
    | with_reducible refine State.dropRegions_acts ?_ (inside hp (by decide))
    | with_reducible refine State.noteRanges_acts ?_ (inside hp (by decide))
    | with_reducible refine State.updScore_acts ?_ (inside hp (by decide))
    | with_reducible refine State.occupy_acts ?_ (inside hp (by decide))
    | with_reducible refine State.actFor_acts ?_ (inside hp (by decide))
    | with_reducible refine State.turnOf_acts ?_ (inside hp (by decide)) (by with_reducible assumption)
    | with_reducible refine State.wake_acts ?_ (inside hp (by decide)) | extract_lets | intro _ | with_reducible refine Acts.ite ?_ ?_
    | split | dsimp only | with_reducible refine Acts.set_power ?_ (hp _ (by decide)) | dsimp +zetaDelta only

theorem execScoreStep_acts {berth : Nat} {now : Nat} {hv : HostView} {s : State} {t : State} (e : execScoreStep berth now hv s = .next t) :
    Acts [.draws, .clock, .power, .regs, .mem, .host, .units, .weights, .serving, .trains, .turns, .lockage, .log, .outbox] s t := by
  unfold execScoreStep at e
  refine runs_acts (qs := [.draws, .clock, .power, .regs, .mem, .host, .units, .weights, .serving, .trains, .turns, .lockage, .log, .outbox, .acting]) (by decide) (fun ps hs hp => ?_) e
  repeat' first
    | with_reducible assumption | with_reducible refine State.scoreStep_acts ?_ (inside hp (by decide))
    | with_reducible refine State.sees_acts ?_ (inside hp (by decide)) | with_reducible refine State.at_acts ?_ (inside hp (by decide))
    | intro _ | dsimp only

theorem State.atScoreClose_acts {ps : List Part} {z : State} {s : State} {b : Nat}
    (hs : Acts ps z s) (hp : ∀ p ∈ ([.spine, .draws, .regs, .mem, .host, .queues, .weights, .turns, .logbook, .lockage, .log, .outbox] : List Part), p ∈ ps) :
    Acts ps z (State.atScoreClose s b) := by
  unfold State.atScoreClose
  repeat' first
    | with_reducible assumption | with_reducible refine State.serviceCommit_acts ?_ (inside hp (by decide))
    | with_reducible refine State.report_acts ?_ (inside hp (by decide))
    | with_reducible refine State.raise_acts ?_ (inside hp (by decide)) | extract_lets | with_reducible refine Acts.ite ?_ ?_ | split
    | with_reducible refine Acts.set_scores ?_ (hp _ (by decide)) | dsimp +zetaDelta only

theorem execWeightsDrop_acts {c : CmdRef} {hv : HostView} {s : State} {t : State} (e : execWeightsDrop c hv s = .next t) :
    Acts [.regs, .host, .queues, .cmds, .weights, .lockage, .log, .outbox] s t := by
  unfold execWeightsDrop at e
  refine runs_acts (qs := [.regs, .host, .queues, .cmds, .weights, .lockage, .log, .outbox, .acting]) (by decide) (fun ps hs hp => ?_) e
  repeat' first
    | with_reducible assumption | with_reducible refine State.weightsDrop_acts ?_ (inside hp (by decide))
    | with_reducible refine State.start_acts ?_ ?_ (inside hp (by decide))
    | with_reducible refine State.sees_acts ?_ (inside hp (by decide)) | intro _ | dsimp only

end Sys2Proof.Machine
end

