-- ==== Sys2Proof/Laws/ActsCommits.lean ====
section
/-! SUPPORT. What the operations of Machine/Commits.lean may do (Laws/Acts.lean): the parts each may change, the invariant kept. -/

namespace Sys2Proof.Machine

open Sys2Proof

theorem State.dropCuts_acts {ps : List Part} {z : State} {s : State} {r : CmdRef}
    (hs : Acts ps z s) (hp : ∀ p ∈ ([.spine, .draws, .regs, .mem, .host, .queues, .cmds, .weights, .serving, .turns, .logbook, .lockage, .log, .outbox] : List Part), p ∈ ps) :
    Acts ps z (State.dropCuts s r) := by
  unfold State.dropCuts
  repeat' first
    | with_reducible assumption | with_reducible refine State.atSetDropping_acts ?_ (inside hp (by decide))
    | with_reducible refine State.closeIfDone_acts ?_ (inside hp (by decide))
    | with_reducible refine State.cutEntries_acts ?_ (inside hp (by decide))
    | with_reducible refine State.boundary_acts ?_ (inside hp (by decide)) | with_reducible refine Acts.foldl ?_ ?_
    | with_reducible refine Acts.foldl_fst ?_ ?_ | extract_lets | intro _ | with_reducible refine Acts.ite ?_ ?_ | split | dsimp only
    | dsimp +zetaDelta only

theorem State.grantCommit_acts {ps : List Part} {z : State} {s : State} {w : WaitingCommit}
    (hs : Acts ps z s) (hp : ∀ p ∈ ([.spine, .draws, .regs, .mem, .moving, .host, .queues, .cmds, .weights, .links, .serving, .colls, .trains, .turns, .logbook, .lockage, .keepsake, .panel, .mgmt, .log, .outbox] : List Part), p ∈ ps) :
    Acts ps z (State.grantCommit s w) := by
  unfold State.grantCommit
  repeat' first
    | with_reducible assumption | with_reducible refine State.atAdapterDropName_acts ?_ (inside hp (by decide))
    | with_reducible refine State.atAdapterReserve_acts ?_ (inside hp (by decide))
    | with_reducible refine State.atAdapterRetire_acts ?_ (inside hp (by decide))
    | with_reducible refine State.atTurnAbandon_acts ?_ (inside hp (by decide))
    | with_reducible refine State.atAdapterFail_acts ?_ (inside hp (by decide))
    | with_reducible refine State.atTrainClose_acts ?_ (inside hp (by decide))
    | with_reducible refine State.atScoreClose_acts ?_ (inside hp (by decide))
    | with_reducible refine State.atServeClose_acts ?_ (inside hp (by decide))
    | with_reducible refine State.atSetReserve_acts ?_ (inside hp (by decide))
    | with_reducible refine State.atTurnFirst_acts ?_ (inside hp (by decide))
    | with_reducible refine State.atTrainOpen_acts ?_ (inside hp (by decide))
    | with_reducible refine State.atScoreOpen_acts ?_ (inside hp (by decide))
    | with_reducible refine State.atSetReturn_acts ?_ (inside hp (by decide))
    | with_reducible refine State.atServeOpen_acts ?_ (inside hp (by decide))
    | with_reducible refine State.hostCommit_acts ?_ (inside hp (by decide))
    | with_reducible refine State.atSetFail_acts ?_ (inside hp (by decide))
    | with_reducible refine State.dropCuts_acts ?_ (inside hp (by decide)) | split

theorem State.commitInstant_acts {ps : List Part} {z : State} {s : State}
    (hs : Acts ps z s) (hp : ∀ p ∈ ([.spine, .draws, .regs, .mem, .moving, .host, .queues, .cmds, .weights, .links, .serving, .colls, .trains, .turns, .logbook, .lockage, .keepsake, .panel, .mgmt, .log, .outbox] : List Part), p ∈ ps) :
    Acts ps z (State.commitInstant s) := by
  unfold State.commitInstant
  repeat' first
    | with_reducible assumption | with_reducible refine State.grantCommit_acts ?_ (inside hp (by decide))
    | with_reducible refine Acts.ite ?_ ?_ | split | with_reducible refine Acts.set_commits ?_ (hp _ (by decide))

theorem execCommitInstant_acts {now : Nat} {hv : HostView} {s : State} {t : State} (e : execCommitInstant now hv s = .next t) :
    Acts [.spine, .draws, .clock, .regs, .mem, .moving, .host, .queues, .cmds, .weights, .links, .serving, .colls, .trains, .turns, .logbook, .lockage, .keepsake, .panel, .mgmt, .log, .outbox] s t := by
  unfold execCommitInstant at e
  refine runsSpine_acts (qs := [.spine, .draws, .clock, .regs, .mem, .moving, .host, .queues, .cmds, .weights, .links, .serving, .colls, .trains, .turns, .logbook, .lockage, .keepsake, .panel, .mgmt, .log, .outbox]) (by decide) (fun ps hs hp => ?_) e
  repeat' first
    | with_reducible assumption | with_reducible refine State.commitInstant_acts ?_ (inside hp (by decide))
    | with_reducible refine State.sees_acts ?_ (inside hp (by decide)) | with_reducible refine State.at_acts ?_ (inside hp (by decide))
    | intro _ | dsimp only

end Sys2Proof.Machine
end

