-- ==== Sys2Proof/Laws/ActsLinkEvents.lean ====
section
/-! SUPPORT. What the operations of Machine/LinkEvents.lean may do (Laws/Acts.lean): the parts each may change, the invariant kept. -/

namespace Sys2Proof.Machine

open Sys2Proof

theorem State.takeWidth_acts {ps : List Part} {z : State} {s : State} {p : Nat} {f : Flit}
    (hs : Acts ps z s) (hp : ∀ p ∈ ([.draws, .regs, .mem, .cmds, .weights, .links, .colls, .turns, .lockage, .mgmt, .log, .outbox] : List Part), p ∈ ps) :
    Acts ps z (State.takeWidth s p f) := by
  unfold State.takeWidth
  repeat' first
    | with_reducible assumption | with_reducible refine State.bringUpIdent_acts ?_ (inside hp (by decide))
    | with_reducible refine State.noteReduced_acts ?_ (inside hp (by decide))
    | with_reducible refine State.failBringUp_acts ?_ (inside hp (by decide))
    | with_reducible refine State.linkDown_acts ?_ (inside hp (by decide))
    | with_reducible refine State.updPort_acts ?_ (inside hp (by decide))
    | with_reducible refine State.set64_acts ?_ (inside hp (by decide)) | extract_lets | intro _ | with_reducible refine Acts.ite ?_ ?_
    | dsimp only | dsimp +zetaDelta only

theorem State.takeIdent_acts {ps : List Part} {z : State} {s : State} {p : Nat} {f : Flit}
    (hs : Acts ps z s) (hp : ∀ p ∈ ([.draws, .regs, .mem, .cmds, .weights, .links, .colls, .turns, .lockage, .mgmt, .log, .outbox] : List Part), p ∈ ps) :
    Acts ps z (State.takeIdent s p f) := by
  unfold State.takeIdent
  repeat' first
    | with_reducible assumption | with_reducible refine State.sendCreditInit_acts ?_ (inside hp (by decide))
    | with_reducible refine State.judgeLink_acts ?_ (inside hp (by decide))
    | with_reducible refine State.notePeer_acts ?_ (inside hp (by decide))
    | with_reducible refine State.logEvent_acts ?_ (inside hp (by decide))
    | with_reducible refine State.linkDown_acts ?_ (inside hp (by decide))
    | with_reducible refine State.updPort_acts ?_ (inside hp (by decide))
    | with_reducible refine State.raise_acts ?_ (inside hp (by decide)) | extract_lets | intro _ | with_reducible refine Acts.ite ?_ ?_
    | split | dsimp only | dsimp +zetaDelta only

theorem State.takeCreditFlit_acts {ps : List Part} {z : State} {s : State} {p : Nat} {f : Flit}
    (hs : Acts ps z s) (hp : ∀ p ∈ ([.regs, .links, .mgmt, .log, .outbox] : List Part), p ∈ ps) :
    Acts ps z (State.takeCreditFlit s p f) := by
  unfold State.takeCreditFlit
  repeat' first
    | with_reducible assumption | with_reducible refine State.takeCreditInit_acts ?_ (inside hp (by decide))
    | with_reducible refine State.comeUp_acts ?_ (inside hp (by decide)) | extract_lets | with_reducible refine Acts.ite ?_ ?_
    | dsimp +zetaDelta only

theorem State.takeDataFlit_acts {ps : List Part} {z : State} {s : State} {p : Nat} {f : Flit}
    (hs : Acts ps z s) (hp : ∀ p ∈ ([.regs, .links, .logbook, .mgmt, .outbox] : List Part), p ∈ ps) :
    Acts ps z (State.takeDataFlit s p f) := by
  unfold State.takeDataFlit
  repeat' first
    | with_reducible assumption | with_reducible refine State.violation_acts ?_ (inside hp (by decide))
    | with_reducible refine State.takeData_acts ?_ (inside hp (by decide)) | with_reducible refine Acts.ite ?_ ?_ | split
    | with_reducible refine Acts.set_ports ?_ (hp _ (by decide))

theorem State.takeKind_acts {ps : List Part} {z : State} {s : State} {p : Nat} {f : Flit}
    (hs : Acts ps z s) (hp : ∀ p ∈ ([.draws, .regs, .mem, .cmds, .weights, .links, .colls, .turns, .logbook, .lockage, .mgmt, .log, .outbox] : List Part), p ∈ ps) :
    Acts ps z (State.takeKind s p f) := by
  unfold State.takeKind
  repeat' first
    | with_reducible assumption | with_reducible refine State.takeCreditFlit_acts ?_ (inside hp (by decide))
    | with_reducible refine State.takeDataFlit_acts ?_ (inside hp (by decide))
    | with_reducible refine State.startRetrain_acts ?_ (inside hp (by decide))
    | with_reducible refine State.takeIdent_acts ?_ (inside hp (by decide))
    | with_reducible refine State.takeWidth_acts ?_ (inside hp (by decide)) | with_reducible refine Acts.ite ?_ ?_

theorem State.gap_acts {ps : List Part} {z : State} {s : State} {p : Nat}
    (hs : Acts ps z s) (hp : ∀ p ∈ ([.links, .mgmt, .outbox] : List Part), p ∈ ps) :
    Acts ps z (State.gap s p) := by
  unfold State.gap
  repeat' first
    | with_reducible assumption | with_reducible refine State.sendNak_acts ?_ (inside hp (by decide))
    | with_reducible refine Acts.ite ?_ ?_

theorem State.receive_acts {ps : List Part} {z : State} {s : State} {p : Nat} {f : Flit}
    (hs : Acts ps z s) (hp : ∀ p ∈ ([.draws, .regs, .mem, .cmds, .weights, .links, .colls, .turns, .logbook, .lockage, .mgmt, .log, .outbox] : List Part), p ∈ ps) :
    Acts ps z (State.receive s p f) := by
  unfold State.receive
  repeat' first
    | with_reducible assumption | with_reducible refine State.settleColls_acts ?_ (inside hp (by decide))
    | with_reducible refine State.takeCredits_acts ?_ (inside hp (by decide))
    | with_reducible refine State.takeWidth_acts ?_ (inside hp (by decide))
    | with_reducible refine State.violation_acts ?_ (inside hp (by decide))
    | with_reducible refine State.takeKind_acts ?_ (inside hp (by decide))
    | with_reducible refine State.sendIdle_acts ?_ (inside hp (by decide))
    | with_reducible refine State.updPort_acts ?_ (inside hp (by decide))
    | with_reducible refine State.takeAck_acts ?_ (inside hp (by decide))
    | with_reducible refine State.takeNak_acts ?_ (inside hp (by decide))
    | with_reducible refine State.add32_acts ?_ (inside hp (by decide))
    | with_reducible refine State.drain_acts ?_ (inside hp (by decide))
    | with_reducible refine State.add64_acts ?_ (inside hp (by decide)) | with_reducible refine State.gap_acts ?_ (inside hp (by decide))
    | extract_lets | intro _ | with_reducible refine Acts.ite ?_ ?_ | dsimp only | dsimp +zetaDelta only

theorem State.flitCame_acts {ps : List Part} {z : State} {s : State} {p : Nat} {bytes : List Byte} {kinds : Nat → Bool}
    (hs : Acts ps z s) (hp : ∀ p ∈ ([.draws, .regs, .mem, .cmds, .weights, .links, .colls, .turns, .logbook, .lockage, .mgmt, .log, .outbox] : List Part), p ∈ ps) :
    Acts ps z (State.flitCame s p bytes kinds) := by
  unfold State.flitCame
  repeat' first
    | with_reducible assumption | with_reducible refine State.receive_acts ?_ (inside hp (by decide)) | extract_lets
    | with_reducible refine Acts.ite ?_ ?_ | dsimp +zetaDelta only

theorem execDataFlit_acts {p : Nat} {bytes : List Byte} {now : Nat} {s : State} {t : State} (e : execDataFlit p bytes now s = .next t) :
    Acts [.draws, .clock, .regs, .mem, .cmds, .weights, .links, .colls, .turns, .logbook, .lockage, .mgmt, .log, .outbox] s t := by
  unfold execDataFlit at e
  refine runs_acts (qs := [.draws, .clock, .regs, .mem, .cmds, .weights, .links, .colls, .turns, .logbook, .lockage, .mgmt, .log, .outbox]) (by decide) (fun ps hs hp => ?_) e
  repeat' first
    | with_reducible assumption | with_reducible refine State.flitCame_acts ?_ (inside hp (by decide))
    | with_reducible refine State.at_acts ?_ (inside hp (by decide)) | intro _ | dsimp only

theorem execIdleFlit_acts {p : Nat} {bytes : List Byte} {now : Nat} {s : State} {t : State} (e : execIdleFlit p bytes now s = .next t) :
    Acts [.draws, .clock, .regs, .mem, .cmds, .weights, .links, .colls, .turns, .logbook, .lockage, .mgmt, .log, .outbox] s t := by
  unfold execIdleFlit at e
  refine runs_acts (qs := [.draws, .clock, .regs, .mem, .cmds, .weights, .links, .colls, .turns, .logbook, .lockage, .mgmt, .log, .outbox]) (by decide) (fun ps hs hp => ?_) e
  repeat' first
    | with_reducible assumption | with_reducible refine State.flitCame_acts ?_ (inside hp (by decide))
    | with_reducible refine State.at_acts ?_ (inside hp (by decide)) | intro _ | dsimp only

theorem execWidthFlit_acts {p : Nat} {bytes : List Byte} {now : Nat} {s : State} {t : State} (e : execWidthFlit p bytes now s = .next t) :
    Acts [.draws, .clock, .regs, .mem, .cmds, .weights, .links, .colls, .turns, .logbook, .lockage, .mgmt, .log, .outbox] s t := by
  unfold execWidthFlit at e
  refine runs_acts (qs := [.draws, .clock, .regs, .mem, .cmds, .weights, .links, .colls, .turns, .logbook, .lockage, .mgmt, .log, .outbox]) (by decide) (fun ps hs hp => ?_) e
  repeat' first
    | with_reducible assumption | with_reducible refine State.flitCame_acts ?_ (inside hp (by decide))
    | with_reducible refine State.at_acts ?_ (inside hp (by decide)) | intro _ | dsimp only

theorem execIdentFlit_acts {p : Nat} {bytes : List Byte} {now : Nat} {s : State} {t : State} (e : execIdentFlit p bytes now s = .next t) :
    Acts [.draws, .clock, .regs, .mem, .cmds, .weights, .links, .colls, .turns, .logbook, .lockage, .mgmt, .log, .outbox] s t := by
  unfold execIdentFlit at e
  refine runs_acts (qs := [.draws, .clock, .regs, .mem, .cmds, .weights, .links, .colls, .turns, .logbook, .lockage, .mgmt, .log, .outbox]) (by decide) (fun ps hs hp => ?_) e
  repeat' first
    | with_reducible assumption | with_reducible refine State.flitCame_acts ?_ (inside hp (by decide))
    | with_reducible refine State.at_acts ?_ (inside hp (by decide)) | intro _ | dsimp only

theorem execCreditInitFlit_acts {p : Nat} {bytes : List Byte} {now : Nat} {s : State} {t : State} (e : execCreditInitFlit p bytes now s = .next t) :
    Acts [.draws, .clock, .regs, .mem, .cmds, .weights, .links, .colls, .turns, .logbook, .lockage, .mgmt, .log, .outbox] s t := by
  unfold execCreditInitFlit at e
  refine runs_acts (qs := [.draws, .clock, .regs, .mem, .cmds, .weights, .links, .colls, .turns, .logbook, .lockage, .mgmt, .log, .outbox]) (by decide) (fun ps hs hp => ?_) e
  repeat' first
    | with_reducible assumption | with_reducible refine State.flitCame_acts ?_ (inside hp (by decide))
    | with_reducible refine State.at_acts ?_ (inside hp (by decide)) | intro _ | dsimp only

theorem execRetrainFlit_acts {p : Nat} {bytes : List Byte} {now : Nat} {s : State} {t : State} (e : execRetrainFlit p bytes now s = .next t) :
    Acts [.draws, .clock, .regs, .mem, .cmds, .weights, .links, .colls, .turns, .logbook, .lockage, .mgmt, .log, .outbox] s t := by
  unfold execRetrainFlit at e
  refine runs_acts (qs := [.draws, .clock, .regs, .mem, .cmds, .weights, .links, .colls, .turns, .logbook, .lockage, .mgmt, .log, .outbox]) (by decide) (fun ps hs hp => ?_) e
  repeat' first
    | with_reducible assumption | with_reducible refine State.flitCame_acts ?_ (inside hp (by decide))
    | with_reducible refine State.at_acts ?_ (inside hp (by decide)) | intro _ | dsimp only

theorem State.crcFailed_acts {ps : List Part} {z : State} {s : State} {p : Nat}
    (hs : Acts ps z s) (hp : ∀ p ∈ ([.regs, .links, .mgmt, .outbox] : List Part), p ∈ ps) :
    Acts ps z (State.crcFailed s p) := by
  unfold State.crcFailed
  repeat' first
    | with_reducible assumption | with_reducible refine State.add64_acts ?_ (inside hp (by decide))
    | with_reducible refine State.gap_acts ?_ (inside hp (by decide)) | extract_lets | with_reducible refine Acts.ite ?_ ?_
    | dsimp +zetaDelta only

theorem execFlitCrcFailure_acts {p : Nat} {now : Nat} {s : State} {t : State} (e : execFlitCrcFailure p now s = .next t) :
    Acts [.clock, .regs, .links, .mgmt, .outbox] s t := by
  unfold execFlitCrcFailure at e
  refine runs_acts (qs := [.clock, .regs, .links, .mgmt, .outbox]) (by decide) (fun ps hs hp => ?_) e
  repeat' first
    | with_reducible assumption | with_reducible refine State.crcFailed_acts ?_ (inside hp (by decide))
    | with_reducible refine State.at_acts ?_ (inside hp (by decide)) | intro _ | dsimp only

theorem execNakRepeat_acts {p : Nat} {now : Nat} {s : State} {t : State} (e : execNakRepeat p now s = .next t) :
    Acts [.clock, .links, .mgmt, .outbox] s t := by
  unfold execNakRepeat at e
  refine runs_acts (qs := [.clock, .links, .mgmt, .outbox]) (by decide) (fun ps hs hp => ?_) e
  repeat' first
    | with_reducible assumption | with_reducible refine State.sendNak_acts ?_ (inside hp (by decide))
    | with_reducible refine State.at_acts ?_ (inside hp (by decide)) | extract_lets | intro _ | with_reducible refine Acts.ite ?_ ?_
    | split | dsimp only | dsimp +zetaDelta only

theorem State.retrainPort_acts {ps : List Part} {z : State} {s : State} {p : Nat}
    (hs : Acts ps z s) (hp : ∀ p ∈ ([.regs, .links, .mgmt, .outbox] : List Part), p ∈ ps) :
    Acts ps z (State.retrainPort s p) := by
  unfold State.retrainPort
  repeat' first
    | with_reducible assumption | with_reducible refine State.startRetrain_acts ?_ (inside hp (by decide))
    | with_reducible refine State.sendFlits_acts ?_ (inside hp (by decide)) | with_reducible refine Acts.ite ?_ ?_

theorem execNakLimit_acts {p : Nat} {now : Nat} {s : State} {t : State} (e : execNakLimit p now s = .next t) :
    Acts [.clock, .regs, .links, .mgmt, .outbox] s t := by
  unfold execNakLimit at e
  refine runs_acts (qs := [.clock, .regs, .links, .mgmt, .outbox]) (by decide) (fun ps hs hp => ?_) e
  repeat' first
    | with_reducible assumption | with_reducible refine State.retrainPort_acts ?_ (inside hp (by decide))
    | with_reducible refine State.at_acts ?_ (inside hp (by decide)) | extract_lets | intro _ | with_reducible refine Acts.ite ?_ ?_
    | dsimp only | dsimp +zetaDelta only

theorem execAckStall_acts {p : Nat} {now : Nat} {s : State} {t : State} (e : execAckStall p now s = .next t) :
    Acts [.clock, .regs, .links, .mgmt, .outbox] s t := by
  unfold execAckStall at e
  refine runs_acts (qs := [.clock, .regs, .links, .mgmt, .outbox]) (by decide) (fun ps hs hp => ?_) e
  repeat' first
    | with_reducible assumption | with_reducible refine State.retrainPort_acts ?_ (inside hp (by decide))
    | with_reducible refine State.at_acts ?_ (inside hp (by decide)) | extract_lets | intro _ | with_reducible refine Acts.ite ?_ ?_
    | dsimp only | dsimp +zetaDelta only

theorem State.retrainDone_acts {ps : List Part} {z : State} {s : State} {p : Nat} {good : Nat}
    (hs : Acts ps z s) (hp : ∀ p ∈ ([.draws, .regs, .mem, .cmds, .weights, .links, .colls, .turns, .lockage, .mgmt, .log, .outbox] : List Part), p ∈ ps) :
    Acts ps z (State.retrainDone s p good) := by
  unfold State.retrainDone
  repeat' first
    | with_reducible assumption | with_reducible refine State.noteReduced_acts ?_ (inside hp (by decide))
    | with_reducible refine State.sendWidth_acts ?_ (inside hp (by decide))
    | with_reducible refine State.logEvent_acts ?_ (inside hp (by decide))
    | with_reducible refine State.linkDown_acts ?_ (inside hp (by decide))
    | with_reducible refine State.updPort_acts ?_ (inside hp (by decide))
    | with_reducible refine State.raise_acts ?_ (inside hp (by decide))
    | with_reducible refine State.set64_acts ?_ (inside hp (by decide)) | extract_lets | intro _ | with_reducible refine Acts.ite ?_ ?_
    | dsimp only | dsimp +zetaDelta only

theorem execRetrainDone_acts {p : Nat} {good : Nat} {now : Nat} {s : State} {t : State} (e : execRetrainDone p good now s = .next t) :
    Acts [.draws, .clock, .regs, .mem, .cmds, .weights, .links, .colls, .turns, .lockage, .mgmt, .log, .outbox] s t := by
  unfold execRetrainDone at e
  refine runs_acts (qs := [.draws, .clock, .regs, .mem, .cmds, .weights, .links, .colls, .turns, .lockage, .mgmt, .log, .outbox]) (by decide) (fun ps hs hp => ?_) e
  repeat' first
    | with_reducible assumption | with_reducible refine State.retrainDone_acts ?_ (inside hp (by decide))
    | with_reducible refine State.at_acts ?_ (inside hp (by decide)) | intro _ | dsimp only

theorem execLaneJudgeDone_acts {p : Nat} {good : Nat} {now : Nat} {s : State} {t : State} (e : execLaneJudgeDone p good now s = .next t) :
    Acts [.draws, .clock, .regs, .links, .mgmt, .outbox] s t := by
  unfold execLaneJudgeDone at e
  refine runs_acts (qs := [.draws, .clock, .regs, .links, .mgmt, .outbox]) (by decide) (fun ps hs hp => ?_) e
  repeat' first
    | with_reducible assumption | with_reducible refine State.lanesJudged_acts ?_ (inside hp (by decide))
    | with_reducible refine State.at_acts ?_ (inside hp (by decide)) | intro _ | dsimp only

theorem State.laneFail_acts {ps : List Part} {z : State} {s : State} {p : Nat} {lane : Nat}
    (hs : Acts ps z s) (hp : ∀ p ∈ ([.draws, .regs, .mem, .cmds, .weights, .links, .colls, .turns, .lockage, .mgmt, .log, .outbox] : List Part), p ∈ ps) :
    Acts ps z (State.laneFail s p lane) := by
  unfold State.laneFail
  repeat' first
    | with_reducible assumption | with_reducible refine State.noteReduced_acts ?_ (inside hp (by decide))
    | with_reducible refine State.sendWidth_acts ?_ (inside hp (by decide))
    | with_reducible refine State.linkDown_acts ?_ (inside hp (by decide))
    | with_reducible refine State.updPort_acts ?_ (inside hp (by decide))
    | with_reducible refine State.set64_acts ?_ (inside hp (by decide)) | extract_lets | intro _ | with_reducible refine Acts.ite ?_ ?_
    | dsimp only | dsimp +zetaDelta only

theorem execLaneFail_acts {p : Nat} {lane : Nat} {now : Nat} {s : State} {t : State} (e : execLaneFail p lane now s = .next t) :
    Acts [.draws, .clock, .regs, .mem, .cmds, .weights, .links, .colls, .turns, .lockage, .mgmt, .log, .outbox] s t := by
  unfold execLaneFail at e
  refine runs_acts (qs := [.draws, .clock, .regs, .mem, .cmds, .weights, .links, .colls, .turns, .lockage, .mgmt, .log, .outbox]) (by decide) (fun ps hs hp => ?_) e
  repeat' first
    | with_reducible assumption | with_reducible refine State.laneFail_acts ?_ (inside hp (by decide))
    | with_reducible refine State.at_acts ?_ (inside hp (by decide)) | intro _ | dsimp only

theorem execBringUpStart_acts {p : Nat} {now : Nat} {s : State} {t : State} (e : execBringUpStart p now s = .next t) :
    Acts [.clock, .links, .mgmt] s t := by
  unfold execBringUpStart at e
  refine runs_acts (qs := [.clock, .links, .mgmt]) (by decide) (fun ps hs hp => ?_) e
  repeat' first
    | with_reducible assumption | with_reducible refine State.startBringUp_acts ?_ (inside hp (by decide))
    | with_reducible refine State.at_acts ?_ (inside hp (by decide)) | extract_lets | intro _ | with_reducible refine Acts.ite ?_ ?_
    | dsimp only | dsimp +zetaDelta only

theorem execIdentTimeout_acts {p : Nat} {now : Nat} {s : State} {t : State} (e : execIdentTimeout p now s = .next t) :
    Acts [.clock, .links, .mgmt] s t := by
  unfold execIdentTimeout at e
  refine runs_acts (qs := [.clock, .links, .mgmt]) (by decide) (fun ps hs hp => ?_) e
  repeat' first
    | with_reducible assumption | with_reducible refine State.failBringUp_acts ?_ (inside hp (by decide))
    | with_reducible refine State.at_acts ?_ (inside hp (by decide)) | extract_lets | intro _ | with_reducible refine Acts.ite ?_ ?_
    | dsimp only | dsimp +zetaDelta only

theorem execBringUpRetry_acts {p : Nat} {now : Nat} {s : State} {t : State} (e : execBringUpRetry p now s = .next t) :
    Acts [.clock, .links, .mgmt] s t := by
  unfold execBringUpRetry at e
  refine runs_acts (qs := [.clock, .links, .mgmt]) (by decide) (fun ps hs hp => ?_) e
  repeat' first
    | with_reducible assumption | with_reducible refine State.startBringUp_acts ?_ (inside hp (by decide))
    | with_reducible refine State.at_acts ?_ (inside hp (by decide)) | extract_lets | intro _ | with_reducible refine Acts.ite ?_ ?_
    | split | dsimp only | dsimp +zetaDelta only

theorem execLinkSilence_acts {p : Nat} {now : Nat} {s : State} {t : State} (e : execLinkSilence p now s = .next t) :
    Acts [.draws, .clock, .regs, .mem, .cmds, .weights, .links, .colls, .turns, .lockage, .mgmt, .log, .outbox] s t := by
  unfold execLinkSilence at e
  refine runs_acts (qs := [.draws, .clock, .regs, .mem, .cmds, .weights, .links, .colls, .turns, .lockage, .mgmt, .log, .outbox]) (by decide) (fun ps hs hp => ?_) e
  repeat' first
    | with_reducible assumption | with_reducible refine State.linkDown_acts ?_ (inside hp (by decide))
    | with_reducible refine State.at_acts ?_ (inside hp (by decide)) | extract_lets | intro _ | with_reducible refine Acts.ite ?_ ?_
    | dsimp only | dsimp +zetaDelta only

theorem State.laserFeed_acts {ps : List Part} {z : State} {s : State} {p : Nat} {reading : Int}
    (hs : Acts ps z s) (hp : ∀ p ∈ ([.draws, .regs, .mem, .cmds, .weights, .links, .colls, .turns, .lockage, .mgmt, .log, .outbox] : List Part), p ∈ ps) :
    Acts ps z (State.laserFeed s p reading) := by
  unfold State.laserFeed
  repeat' first
    | with_reducible assumption | with_reducible refine State.logEvent_acts ?_ (inside hp (by decide))
    | with_reducible refine State.linkDown_acts ?_ (inside hp (by decide))
    | with_reducible refine State.updPort_acts ?_ (inside hp (by decide))
    | with_reducible refine State.setNat_acts ?_ (inside hp (by decide))
    | with_reducible refine State.raise_acts ?_ (inside hp (by decide)) | extract_lets | intro _ | with_reducible refine Acts.ite ?_ ?_
    | dsimp only | dsimp +zetaDelta only

theorem execLaserFeedReading_acts {p : Nat} {reading : Int} {now : Nat} {s : State} {t : State} (e : execLaserFeedReading p reading now s = .next t) :
    Acts [.draws, .clock, .regs, .mem, .cmds, .weights, .links, .colls, .turns, .lockage, .mgmt, .log, .outbox] s t := by
  unfold execLaserFeedReading at e
  refine runs_acts (qs := [.draws, .clock, .regs, .mem, .cmds, .weights, .links, .colls, .turns, .lockage, .mgmt, .log, .outbox]) (by decide) (fun ps hs hp => ?_) e
  repeat' first
    | with_reducible assumption | with_reducible refine State.laserFeed_acts ?_ (inside hp (by decide))
    | with_reducible refine State.at_acts ?_ (inside hp (by decide)) | intro _ | dsimp only

theorem State.portFence_acts {ps : List Part} {z : State} {s : State} {p : Nat}
    (hs : Acts ps z s) (hp : ∀ p ∈ ([.draws, .regs, .mem, .cmds, .weights, .links, .colls, .turns, .lockage, .mgmt, .log, .outbox] : List Part), p ∈ ps) :
    Acts ps z (State.portFence s p) := by
  unfold State.portFence
  repeat' first
    | with_reducible assumption | with_reducible refine State.linkDown_acts ?_ (inside hp (by decide))
    | with_reducible refine State.logEvent_acts ?_ (inside hp (by decide))
    | with_reducible refine State.updPort_acts ?_ (inside hp (by decide))
    | with_reducible refine State.raise_acts ?_ (inside hp (by decide)) | extract_lets | intro _ | with_reducible refine Acts.ite ?_ ?_
    | dsimp only | dsimp +zetaDelta only

theorem execPortFence_acts {p : Nat} {now : Nat} {s : State} {t : State} (e : execPortFence p now s = .next t) :
    Acts [.draws, .clock, .regs, .mem, .cmds, .weights, .links, .colls, .turns, .lockage, .mgmt, .log, .outbox] s t := by
  unfold execPortFence at e
  refine runs_acts (qs := [.draws, .clock, .regs, .mem, .cmds, .weights, .links, .colls, .turns, .lockage, .mgmt, .log, .outbox]) (by decide) (fun ps hs hp => ?_) e
  repeat' first
    | with_reducible assumption | with_reducible refine State.portFence_acts ?_ (inside hp (by decide))
    | with_reducible refine State.at_acts ?_ (inside hp (by decide)) | intro _ | dsimp only

theorem State.vcRepartition_acts {ps : List Part} {z : State} {s : State} {p : Nat}
    (hs : Acts ps z s) (hp : ∀ p ∈ ([.regs, .links, .mgmt, .outbox] : List Part), p ∈ ps) :
    Acts ps z (State.vcRepartition s p) := by
  unfold State.vcRepartition
  repeat' first
    | with_reducible assumption | with_reducible refine State.sendCreditInit_acts ?_ (inside hp (by decide)) | extract_lets | intro _
    | with_reducible refine Acts.ite ?_ ?_ | dsimp only | dsimp +zetaDelta only

theorem execVcRepartition_acts {p : Nat} {now : Nat} {s : State} {t : State} (e : execVcRepartition p now s = .next t) :
    Acts [.clock, .regs, .links, .mgmt, .outbox] s t := by
  unfold execVcRepartition at e
  refine runs_acts (qs := [.clock, .regs, .links, .mgmt, .outbox]) (by decide) (fun ps hs hp => ?_) e
  repeat' first
    | with_reducible assumption | with_reducible refine State.vcRepartition_acts ?_ (inside hp (by decide))
    | with_reducible refine State.at_acts ?_ (inside hp (by decide)) | intro _ | dsimp only

theorem State.portCtrl_acts {ps : List Part} {z : State} {s : State} {p : Nat} {v : Word} {n : Nat} {f : State → State}
    (hs : Acts ps z s) (hf : ∀ (x0 : State), Acts ps z x0 → Acts ps z (f x0)) (hp : ∀ p ∈ ([.log, .outbox] : List Part), p ∈ ps) :
    Acts ps z (State.portCtrl s p v n f) := by
  unfold State.portCtrl
  repeat' first
    | with_reducible assumption | with_reducible refine State.logDiscard_acts ?_ (inside hp (by decide)) | with_reducible refine hf _ ?_
    | with_reducible refine Acts.ite ?_ ?_

theorem execPortRetrain_acts {p : Nat} {v : Word} {s : State} {t : State} (e : execPortRetrain p v s = .next t) :
    Acts [.regs, .links, .mgmt, .log, .outbox] s t := by
  unfold execPortRetrain runsHost at e
  refine runs_acts (qs := [.regs, .links, .mgmt, .log, .outbox]) (by decide) (fun ps hs hp => ?_) e
  repeat' first
    | with_reducible assumption | with_reducible refine State.startBringUp_acts ?_ (inside hp (by decide))
    | with_reducible refine State.retrainPort_acts ?_ (inside hp (by decide))
    | with_reducible refine State.portCtrl_acts ?_ ?_ (inside hp (by decide)) | extract_lets | intro _
    | with_reducible refine Acts.ite ?_ ?_ | dsimp only | dsimp +zetaDelta only

theorem execPortUnfence_acts {p : Nat} {v : Word} {s : State} {t : State} (e : execPortUnfence p v s = .next t) :
    Acts [.links, .mgmt, .log, .outbox] s t := by
  unfold execPortUnfence runsHost at e
  refine runs_acts (qs := [.links, .mgmt, .log, .outbox]) (by decide) (fun ps hs hp => ?_) e
  repeat' first
    | with_reducible assumption | with_reducible refine State.portCtrl_acts ?_ ?_ (inside hp (by decide))
    | with_reducible refine State.updPort_acts ?_ (inside hp (by decide)) | extract_lets | intro _ | with_reducible refine Acts.ite ?_ ?_
    | dsimp only | dsimp +zetaDelta only

theorem execPortHold_acts {p : Nat} {v : Word} {s : State} {t : State} (e : execPortHold p v s = .next t) :
    Acts [.draws, .regs, .mem, .cmds, .weights, .links, .colls, .turns, .lockage, .mgmt, .log, .outbox] s t := by
  unfold execPortHold runsHost at e
  refine runs_acts (qs := [.draws, .regs, .mem, .cmds, .weights, .links, .colls, .turns, .lockage, .mgmt, .log, .outbox]) (by decide) (fun ps hs hp => ?_) e
  repeat' first
    | with_reducible assumption | with_reducible refine State.linkDown_acts ?_ (inside hp (by decide))
    | with_reducible refine State.portCtrl_acts ?_ ?_ (inside hp (by decide))
    | with_reducible refine State.updPort_acts ?_ (inside hp (by decide)) | extract_lets | intro _ | with_reducible refine Acts.ite ?_ ?_
    | dsimp only | dsimp +zetaDelta only

theorem execPortRelease_acts {p : Nat} {v : Word} {s : State} {t : State} (e : execPortRelease p v s = .next t) :
    Acts [.links, .mgmt, .log, .outbox] s t := by
  unfold execPortRelease runsHost at e
  refine runs_acts (qs := [.links, .mgmt, .log, .outbox]) (by decide) (fun ps hs hp => ?_) e
  repeat' first
    | with_reducible assumption | with_reducible refine State.portCtrl_acts ?_ ?_ (inside hp (by decide))
    | with_reducible refine State.updPort_acts ?_ (inside hp (by decide)) | extract_lets | intro _ | with_reducible refine Acts.ite ?_ ?_
    | dsimp only | dsimp +zetaDelta only

theorem State.deliver_acts {ps : List Part} {z : State} {s : State} {p : Nat}
    (hs : Acts ps z s) (hp : ∀ p ∈ ([.regs, .links, .mgmt, .outbox] : List Part), p ∈ ps) :
    Acts ps z (State.deliver s p) := by
  unfold State.deliver
  repeat' first
    | with_reducible assumption | with_reducible refine State.returnCredits_acts ?_ (inside hp (by decide))
    | with_reducible refine State.sendNotice_acts ?_ (inside hp (by decide))
    | with_reducible refine State.updPort_acts ?_ (inside hp (by decide))
    | with_reducible refine State.add32_acts ?_ (inside hp (by decide))
    | with_reducible refine State.raise_acts ?_ (inside hp (by decide)) | extract_lets | intro _ | with_reducible refine Acts.ite ?_ ?_
    | split | dsimp only | dsimp +zetaDelta only

theorem execMessageDelivered_acts {p : Nat} {now : Nat} {s : State} {t : State} (e : execMessageDelivered p now s = .next t) :
    Acts [.clock, .regs, .links, .mgmt, .outbox] s t := by
  unfold execMessageDelivered at e
  refine runs_acts (qs := [.clock, .regs, .links, .mgmt, .outbox]) (by decide) (fun ps hs hp => ?_) e
  repeat' first
    | with_reducible assumption | with_reducible refine State.deliver_acts ?_ (inside hp (by decide))
    | with_reducible refine State.at_acts ?_ (inside hp (by decide)) | intro _ | dsimp only

theorem State.endSender_acts {ps : List Part} {z : State} {s : State} {p : Nat} {cls : Nat} {context : Nat} {st : Nat}
    (hs : Acts ps z s) (hp : ∀ p ∈ ([.draws, .regs, .mem, .cmds, .weights, .links, .colls, .turns, .lockage, .mgmt, .outbox] : List Part), p ∈ ps) :
    Acts ps z (State.endSender s p cls context st) := by
  unfold State.endSender
  repeat' first
    | with_reducible assumption | with_reducible refine State.loadsPeerDown_acts ?_ (inside hp (by decide))
    | with_reducible refine State.failTurn_acts ?_ (inside hp (by decide))
    | with_reducible refine State.failColl_acts ?_ (inside hp (by decide)) | with_reducible refine Acts.foldl ?_ ?_
    | with_reducible refine Acts.foldl_fst ?_ ?_ | with_reducible refine Acts.foldl_snd ?_ ?_ | extract_lets | intro _
    | with_reducible refine Acts.ite ?_ ?_ | dsimp only | dsimp +zetaDelta only

theorem State.takeNotice_acts {ps : List Part} {z : State} {s : State} {p : Nat} {cls : Nat} {st : Nat}
    (hs : Acts ps z s) (hp : ∀ p ∈ ([.draws, .regs, .mem, .cmds, .weights, .links, .colls, .turns, .lockage, .mgmt, .outbox] : List Part), p ∈ ps) :
    Acts ps z (State.takeNotice s p cls st) := by
  unfold State.takeNotice
  repeat' first
    | with_reducible assumption | with_reducible refine State.endSender_acts ?_ (inside hp (by decide))
    | with_reducible refine State.consume_acts ?_ (inside hp (by decide)) | intro _ | split | dsimp only

theorem execLinkNoticeRestarted_acts {p : Nat} {now : Nat} {s : State} {t : State} (e : execLinkNoticeRestarted p now s = .next t) :
    Acts [.draws, .clock, .regs, .mem, .cmds, .weights, .links, .colls, .turns, .lockage, .mgmt, .outbox] s t := by
  unfold execLinkNoticeRestarted at e
  refine runs_acts (qs := [.draws, .clock, .regs, .mem, .cmds, .weights, .links, .colls, .turns, .lockage, .mgmt, .outbox]) (by decide) (fun ps hs hp => ?_) e
  repeat' first
    | with_reducible assumption | with_reducible refine State.takeNotice_acts ?_ (inside hp (by decide))
    | with_reducible refine State.at_acts ?_ (inside hp (by decide)) | intro _ | dsimp only

theorem execPathBroken_acts {p : Nat} {now : Nat} {s : State} {t : State} (e : execPathBroken p now s = .next t) :
    Acts [.draws, .clock, .regs, .mem, .cmds, .weights, .links, .colls, .turns, .lockage, .mgmt, .outbox] s t := by
  unfold execPathBroken at e
  refine runs_acts (qs := [.draws, .clock, .regs, .mem, .cmds, .weights, .links, .colls, .turns, .lockage, .mgmt, .outbox]) (by decide) (fun ps hs hp => ?_) e
  repeat' first
    | with_reducible assumption | with_reducible refine State.takeNotice_acts ?_ (inside hp (by decide))
    | with_reducible refine State.at_acts ?_ (inside hp (by decide)) | intro _ | dsimp only

theorem State.peerRequest_acts {ps : List Part} {z : State} {s : State} {p : Nat}
    (hs : Acts ps z s) (hp : ∀ p ∈ ([.regs, .links, .mgmt, .outbox] : List Part), p ∈ ps) :
    Acts ps z (State.peerRequest s p) := by
  unfold State.peerRequest
  repeat' first
    | with_reducible assumption | with_reducible refine State.sendMessage_acts ?_ (inside hp (by decide))
    | with_reducible refine State.consume_acts ?_ (inside hp (by decide)) | extract_lets | intro _ | with_reducible refine Acts.ite ?_ ?_
    | split | dsimp only | dsimp +zetaDelta only

theorem execPeerSetRequest_acts {p : Nat} {now : Nat} {s : State} {t : State} (e : execPeerSetRequest p now s = .next t) :
    Acts [.clock, .regs, .links, .mgmt, .outbox] s t := by
  unfold execPeerSetRequest at e
  refine runs_acts (qs := [.clock, .regs, .links, .mgmt, .outbox]) (by decide) (fun ps hs hp => ?_) e
  repeat' first
    | with_reducible assumption | with_reducible refine State.peerRequest_acts ?_ (inside hp (by decide))
    | with_reducible refine State.at_acts ?_ (inside hp (by decide)) | intro _ | dsimp only

end Sys2Proof.Machine
end

