-- ==== Sys2Proof/Laws/ActsOutputs.lean ====
section
/-! SUPPORT. What the operations of Machine/Outputs.lean may do (Laws/Acts.lean): the parts each may change, the invariant kept. -/

namespace Sys2Proof.Machine

open Sys2Proof

theorem State.undefineOutputs_acts {ps : List Part} {z : State} {s : State} {c : Cmd}
    (hs : Acts ps z s) (hp : ∀ p ∈ ([.draws, .mem, .host, .acting] : List Part), p ∈ ps) :
    Acts ps z (State.undefineOutputs s c) := by
  unfold State.undefineOutputs
  repeat' first
    | with_reducible assumption | with_reducible refine State.undefinePlace_acts ?_ (inside hp (by decide))
    | with_reducible refine Acts.foldl ?_ ?_ | with_reducible refine Acts.foldl_fst ?_ ?_ | with_reducible refine Acts.foldl_snd ?_ ?_
    | intro _ | with_reducible refine Acts.ite ?_ ?_ | dsimp only

end Sys2Proof.Machine
end

