-- ==== Sys2Proof/Laws/ActsUnits.lean ====
section
/-! SUPPORT. What the operations of Machine/Units.lean may do (Laws/Acts.lean): the parts each may change, the invariant kept. -/

namespace Sys2Proof.Machine

open Sys2Proof

theorem State.clearBanks_acts {ps : List Part} {z : State} {s : State} {u : Nat}
    (hs : Acts ps z s) (hp : ∀ p ∈ ([.mem] : List Part), p ∈ ps) :
    Acts ps z (State.clearBanks s u) := by
  unfold State.clearBanks
  exact Acts.set_mem hs (fun q => Mem.foldl_wf q fun m r h => Mem.forget_wf h) (hp _ (by decide))

theorem State.stopCompute_acts {ps : List Part} {z : State} {s : State} {c : Cmd} {st : Nat}
    (hs : Acts ps z s) (hp : ∀ p ∈ ([.draws, .regs, .mem, .cmds, .units, .weights, .log, .outbox] : List Part), p ∈ ps) :
    Acts ps z (State.stopCompute s c st) := by
  unfold State.stopCompute
  repeat' first
    | with_reducible assumption | with_reducible refine State.engineAbandon_acts ?_ (inside hp (by decide))
    | with_reducible refine State.stopProducts_acts ?_ (inside hp (by decide))
    | with_reducible refine State.poisonRanges_acts ?_ (inside hp (by decide))
    | with_reducible refine State.finish_acts ?_ (inside hp (by decide))
    | with_reducible refine State.raise_acts ?_ (inside hp (by decide)) | with_reducible refine Acts.foldl ?_ ?_ | extract_lets | intro _
    | with_reducible refine Acts.ite ?_ ?_ | dsimp only | dsimp +zetaDelta only

theorem State.failUnitColls_acts {ps : List Part} {z : State} {s : State} {u : Nat} {st : Nat}
    (hs : Acts ps z s) (hp : ∀ p ∈ ([.draws, .regs, .mem, .cmds, .links, .colls, .turns, .lockage, .mgmt, .outbox] : List Part), p ∈ ps) :
    Acts ps z (State.failUnitColls s u st) := by
  unfold State.failUnitColls
  repeat' first
    | with_reducible assumption | with_reducible refine State.failColl_acts ?_ (inside hp (by decide))
    | with_reducible refine Acts.foldl ?_ ?_ | extract_lets | intro _ | with_reducible refine Acts.ite ?_ ?_ | dsimp only
    | dsimp +zetaDelta only

theorem State.stopOn_acts {ps : List Part} {z : State} {s : State} {u : Nat} {st : Nat}
    (hs : Acts ps z s) (hp : ∀ p ∈ ([.draws, .regs, .mem, .cmds, .units, .weights, .links, .colls, .turns, .lockage, .mgmt, .log, .outbox, .acting] : List Part), p ∈ ps) :
    Acts ps z (State.stopOn s u st) := by
  unfold State.stopOn
  repeat' first
    | with_reducible assumption | with_reducible refine State.failUnitColls_acts ?_ (inside hp (by decide))
    | with_reducible refine State.stopCompute_acts ?_ (inside hp (by decide)) | split

theorem State.keepFault_acts {ps : List Part} {z : State} {s : State} {u : Nat} {w : Nat}
    (hs : Acts ps z s) (hp : ∀ p ∈ ([.regs] : List Part), p ∈ ps) :
    Acts ps z (State.keepFault s u w) := by
  unfold State.keepFault
  repeat' first
    | with_reducible assumption | with_reducible refine State.setNat_acts ?_ (inside hp (by decide))
    | with_reducible refine Acts.ite ?_ ?_

theorem State.fenceUnit_acts {ps : List Part} {z : State} {s : State} {u : Nat} {w : Nat}
    (hs : Acts ps z s) (hp : ∀ p ∈ ([.regs, .units, .log, .outbox] : List Part), p ∈ ps) :
    Acts ps z (State.fenceUnit s u w) := by
  unfold State.fenceUnit
  repeat' first
    | with_reducible assumption | with_reducible refine State.keepFault_acts ?_ (inside hp (by decide))
    | with_reducible refine State.logEvent_acts ?_ (inside hp (by decide))
    | with_reducible refine State.raise_acts ?_ (inside hp (by decide)) | extract_lets | with_reducible refine Acts.ite ?_ ?_
    | with_reducible refine Acts.set_units ?_ (hp _ (by decide)) | dsimp +zetaDelta only

theorem State.failPasses_acts {ps : List Part} {z : State} {s : State} {u : Nat}
    (hs : Acts ps z s) (hp : ∀ p ∈ ([.draws, .regs, .mem, .host, .queues, .cmds, .weights, .links, .colls, .trains, .turns, .logbook, .lockage, .mgmt, .log, .outbox] : List Part), p ∈ ps) :
    Acts ps z (State.failPasses s u) := by
  unfold State.failPasses
  repeat' first
    | with_reducible assumption | with_reducible refine State.stopTrain_acts ?_ (inside hp (by decide))
    | with_reducible refine Acts.foldl ?_ ?_ | with_reducible refine Acts.foldl_fst ?_ ?_ | with_reducible refine Acts.foldl_snd ?_ ?_
    | intro _ | dsimp only

theorem State.unitFault_acts {ps : List Part} {z : State} {s : State} {u : Nat} {w : Nat}
    (hs : Acts ps z s) (hp : ∀ p ∈ ([.draws, .regs, .mem, .host, .queues, .cmds, .units, .weights, .links, .colls, .trains, .turns, .logbook, .lockage, .mgmt, .log, .outbox, .acting] : List Part), p ∈ ps) :
    Acts ps z (State.unitFault s u w) := by
  unfold State.unitFault
  repeat' first
    | with_reducible assumption | with_reducible refine State.failPasses_acts ?_ (inside hp (by decide))
    | with_reducible refine State.fenceUnit_acts ?_ (inside hp (by decide))
    | with_reducible refine State.stopOn_acts ?_ (inside hp (by decide))
    | with_reducible refine State.raise_acts ?_ (inside hp (by decide)) | extract_lets | with_reducible refine Acts.ite ?_ ?_
    | dsimp +zetaDelta only

theorem execPaveFault_acts {n : Nat} {fault : Nat} {s : State} {t : State} (e : execPaveFault n fault s = .next t) :
    Acts [.draws, .regs, .mem, .host, .queues, .cmds, .units, .weights, .links, .colls, .trains, .turns, .logbook, .lockage, .mgmt, .log, .outbox] s t := by
  unfold execPaveFault at e
  refine runs_acts (qs := [.draws, .regs, .mem, .host, .queues, .cmds, .units, .weights, .links, .colls, .trains, .turns, .logbook, .lockage, .mgmt, .log, .outbox, .acting]) (by decide) (fun ps hs hp => ?_) e
  repeat' first
    | with_reducible assumption | with_reducible refine State.unitFault_acts ?_ (inside hp (by decide)) | intro _
    | with_reducible refine Acts.ite ?_ ?_ | dsimp only

theorem execEngineFault_acts {n : Nat} {fault : Nat} {s : State} {t : State} (e : execEngineFault n fault s = .next t) :
    Acts [.draws, .regs, .mem, .host, .queues, .cmds, .units, .weights, .links, .colls, .trains, .turns, .logbook, .lockage, .mgmt, .log, .outbox] s t := by
  unfold execEngineFault at e
  refine runs_acts (qs := [.draws, .regs, .mem, .host, .queues, .cmds, .units, .weights, .links, .colls, .trains, .turns, .logbook, .lockage, .mgmt, .log, .outbox, .acting]) (by decide) (fun ps hs hp => ?_) e
  repeat' first
    | with_reducible assumption | with_reducible refine State.unitFault_acts ?_ (inside hp (by decide)) | intro _
    | with_reducible refine Acts.ite ?_ ?_ | dsimp only | with_reducible refine Acts.set_units ?_ (hp _ (by decide))

theorem execResidueFence_acts {n : Nat} {now : Nat} {s : State} {t : State} (e : execResidueFence n now s = .next t) :
    Acts [.clock, .regs, .units, .log, .outbox] s t := by
  unfold execResidueFence at e
  refine runs_acts (qs := [.clock, .regs, .units, .log, .outbox]) (by decide) (fun ps hs hp => ?_) e
  repeat' first
    | with_reducible assumption | with_reducible refine State.fenceUnit_acts ?_ (inside hp (by decide))
    | with_reducible refine State.at_acts ?_ (inside hp (by decide)) | extract_lets | intro _ | with_reducible refine Acts.ite ?_ ?_
    | split | dsimp only | dsimp +zetaDelta only

theorem execBankOwnerFence_acts {die : Nat} {bank : Nat} {now : Nat} {s : State} {t : State} (e : execBankOwnerFence die bank now s = .next t) :
    Acts [.clock, .regs, .units, .log, .outbox] s t := by
  unfold execBankOwnerFence at e
  refine runs_acts (qs := [.clock, .regs, .units, .log, .outbox]) (by decide) (fun ps hs hp => ?_) e
  repeat' first
    | with_reducible assumption | with_reducible refine State.fenceUnit_acts ?_ (inside hp (by decide))
    | with_reducible refine State.raise_acts ?_ (inside hp (by decide)) | with_reducible refine State.at_acts ?_ (inside hp (by decide))
    | extract_lets | intro _ | with_reducible refine Acts.ite ?_ ?_ | split | dsimp only | dsimp +zetaDelta only

theorem State.rollWindow_acts {ps : List Part} {z : State} {s : State}
    (hs : Acts ps z s) (hp : ∀ p ∈ ([.gov, .regs] : List Part), p ∈ ps) :
    Acts ps z (State.rollWindow s) := by
  unfold State.rollWindow
  repeat' first
    | with_reducible assumption | with_reducible refine State.setNat_acts ?_ (inside hp (by decide)) | extract_lets
    | with_reducible refine Acts.ite ?_ ?_ | with_reducible refine Acts.set_gov ?_ (hp _ (by decide)) | dsimp +zetaDelta only

theorem State.beats_acts {ps : List Part} {z : State} {s : State} {n : Nat}
    (hs : Acts ps z s) (hp : ∀ p ∈ ([.gov, .regs] : List Part), p ∈ ps) :
    Acts ps z (State.beats s n) := by
  unfold State.beats
  repeat' first
    | with_reducible assumption | with_reducible refine State.rollWindow_acts ?_ (inside hp (by decide))
    | with_reducible refine State.add64_acts ?_ (inside hp (by decide)) | extract_lets
    | with_reducible refine Acts.set_gov ?_ (hp _ (by decide)) | dsimp +zetaDelta only

theorem State.towpathUpset_acts {ps : List Part} {z : State} {s : State} {die : Nat} {a : Nat}
    (hs : Acts ps z s) (hp : ∀ p ∈ ([.draws, .regs, .mem, .cmds, .units, .weights, .log, .outbox, .acting] : List Part), p ∈ ps) :
    Acts ps z (State.towpathUpset s die a) := by
  unfold State.towpathUpset
  repeat' first
    | with_reducible assumption | with_reducible refine State.stopCompute_acts ?_ (inside hp (by decide))
    | with_reducible refine State.noteParity_acts ?_ (inside hp (by decide))
    | with_reducible refine State.draw_acts ?_ (inside hp (by decide)) | extract_lets | intro _ | split | dsimp only
    | dsimp +zetaDelta only

theorem State.upset_acts {ps : List Part} {z : State} {s : State} {a : Nat}
    (hs : Acts ps z s) (hp : ∀ p ∈ ([.draws, .regs, .mem, .cmds, .units, .weights, .serving, .log, .outbox, .acting] : List Part), p ∈ ps) :
    Acts ps z (State.upset s a) := by
  unfold State.upset
  repeat' first
    | with_reducible assumption | with_reducible refine State.towpathUpset_acts ?_ (inside hp (by decide)) | extract_lets
    | exact fun q => insert_sorted q | exact fun q => filter_sorted q | exact fun q => Mem.forget_wf q | exact fun q => q | intro _
    | with_reducible refine Acts.ite ?_ ?_ | split | dsimp only | with_reducible refine Acts.set_manifest ?_ (hp _ (by decide))
    | with_reducible refine Acts.set_mem ?_ ?_ (hp _ (by decide)) | dsimp +zetaDelta only

theorem execBeat_acts {n : Nat} {upsets : List Nat} {now : Nat} {s : State} {t : State} (e : execBeat n upsets now s = .next t) :
    Acts [.draws, .clock, .gov, .regs, .mem, .cmds, .units, .weights, .serving, .log, .outbox] s t := by
  unfold execBeat at e
  refine runs_acts (qs := [.draws, .clock, .gov, .regs, .mem, .cmds, .units, .weights, .serving, .log, .outbox, .acting]) (by decide) (fun ps hs hp => ?_) e
  repeat' first
    | with_reducible assumption | with_reducible refine State.upset_acts ?_ (inside hp (by decide))
    | with_reducible refine State.beats_acts ?_ (inside hp (by decide)) | with_reducible refine State.at_acts ?_ (inside hp (by decide))
    | with_reducible refine Acts.foldl ?_ ?_ | extract_lets | intro _ | with_reducible refine Acts.ite ?_ ?_ | dsimp only
    | dsimp +zetaDelta only

theorem execPaceWindow_acts {now : Nat} {s : State} {t : State} (e : execPaceWindow now s = .next t) :
    Acts [.clock, .gov, .regs] s t := by
  unfold execPaceWindow at e
  refine runs_acts (qs := [.clock, .gov, .regs]) (by decide) (fun ps hs hp => ?_) e
  repeat' first
    | with_reducible assumption | with_reducible refine State.rollWindow_acts ?_ (inside hp (by decide))
    | with_reducible refine State.at_acts ?_ (inside hp (by decide)) | intro _ | dsimp only

theorem execBeatWatchdog_acts {late : List Nat} {now : Nat} {s : State} {t : State} (e : execBeatWatchdog late now s = .next t) :
    Acts [.draws, .clock, .gov, .regs, .mem, .host, .queues, .cmds, .units, .weights, .links, .colls, .trains, .turns, .logbook, .lockage, .mgmt, .log, .outbox] s t := by
  unfold execBeatWatchdog at e
  refine runs_acts (qs := [.draws, .clock, .gov, .regs, .mem, .host, .queues, .cmds, .units, .weights, .links, .colls, .trains, .turns, .logbook, .lockage, .mgmt, .log, .outbox, .acting]) (by decide) (fun ps hs hp => ?_) e
  repeat' first
    | with_reducible assumption | with_reducible refine State.failUnitColls_acts ?_ (inside hp (by decide))
    | with_reducible refine State.stopCompute_acts ?_ (inside hp (by decide))
    | with_reducible refine State.failPasses_acts ?_ (inside hp (by decide))
    | with_reducible refine State.fenceUnit_acts ?_ (inside hp (by decide))
    | with_reducible refine State.raise_acts ?_ (inside hp (by decide))
    | with_reducible refine State.beats_acts ?_ (inside hp (by decide)) | with_reducible refine State.at_acts ?_ (inside hp (by decide))
    | with_reducible refine Acts.foldl ?_ ?_ | extract_lets | intro _ | with_reducible refine Acts.ite ?_ ?_ | split | dsimp only
    | dsimp +zetaDelta only

theorem State.clearMoved_acts {ps : List Part} {z : State} {s : State} {u : Nat}
    (hs : Acts ps z s) (hp : ∀ p ∈ ([.mem, .moving] : List Part), p ∈ ps) :
    Acts ps z (State.clearMoved s u) := by
  unfold State.clearMoved
  repeat' first
    | with_reducible assumption | with_reducible refine State.clearBanks_acts ?_ (inside hp (by decide))
    | with_reducible refine Acts.ite ?_ ?_ | with_reducible refine Acts.set_clears ?_ (hp _ (by decide))

theorem execBankClear_acts {die : Nat} {bank : Nat} {s : State} {t : State} (e : execBankClear die bank s = .next t) :
    Acts [.mem, .moving] s t := by
  unfold execBankClear at e
  refine runs_acts (qs := [.mem, .moving]) (by decide) (fun ps hs hp => ?_) e
  repeat' first
    | with_reducible assumption | with_reducible refine State.clearMoved_acts ?_ (inside hp (by decide)) | intro _
    | with_reducible refine Acts.ite ?_ ?_ | split | dsimp only

theorem State.selfTest_acts {ps : List Part} {z : State} {s : State} {c : Cmd} {pass : Bool}
    (hs : Acts ps z s) (hp : ∀ p ∈ ([.regs, .mem, .queues, .cmds, .units, .log, .outbox, .acting] : List Part), p ∈ ps) :
    Acts ps z (State.selfTest s c pass) := by
  unfold State.selfTest
  repeat' first
    | with_reducible assumption | with_reducible refine State.dropRegions_acts ?_ (inside hp (by decide))
    | with_reducible refine State.markLogged_acts ?_ (inside hp (by decide))
    | with_reducible refine State.clearBanks_acts ?_ (inside hp (by decide))
    | with_reducible refine State.logEvent_acts ?_ (inside hp (by decide))
    | with_reducible refine State.finish_acts ?_ (inside hp (by decide))
    | with_reducible refine State.refuse_acts ?_ (inside hp (by decide))
    | with_reducible refine State.raise_acts ?_ (inside hp (by decide)) | extract_lets | with_reducible refine Acts.ite ?_ ?_ | split
    | with_reducible refine Acts.set_units ?_ (hp _ (by decide)) | dsimp +zetaDelta only

theorem execSelfTest_acts {c : CmdRef} {pass : Bool} {hv : HostView} {s : State} {t : State} (e : execSelfTest c pass hv s = .next t) :
    Acts [.power, .regs, .mem, .host, .queues, .cmds, .units, .log, .outbox] s t := by
  unfold execSelfTest at e
  refine runs_acts (qs := [.power, .regs, .mem, .host, .queues, .cmds, .units, .log, .outbox, .acting]) (by decide) (fun ps hs hp => ?_) e
  repeat' first
    | with_reducible assumption | with_reducible refine State.startCompute_acts ?_ ?_ (inside hp (by decide))
    | with_reducible refine State.selfTest_acts ?_ (inside hp (by decide))
    | with_reducible refine State.sees_acts ?_ (inside hp (by decide)) | intro _ | dsimp only

theorem execAccViewRead_acts {off : Nat} {s : State} {t : State} (e : execAccViewRead off s = .next t) :
    Acts [.draws, .regs, .mem, .units, .weights, .log, .outbox] s t := by
  unfold execAccViewRead runsHost at e
  refine runs_acts (qs := [.draws, .regs, .mem, .units, .weights, .log, .outbox]) (by decide) (fun ps hs hp => ?_) e
  repeat' first
    | with_reducible assumption | with_reducible refine State.noteRead_acts ?_ (inside hp (by decide))
    | with_reducible refine State.logEvent_acts ?_ (inside hp (by decide))
    | with_reducible refine State.raise_acts ?_ (inside hp (by decide)) | with_reducible refine State.emit_acts ?_ (inside hp (by decide))
    | extract_lets | intro _ | with_reducible refine Acts.ite ?_ ?_ | split | dsimp only | dsimp +zetaDelta only

end Sys2Proof.Machine
end

