-- ==== Sys2Proof/Laws/ActsAbandon.lean ====
section
/-! SUPPORT. What the operations of Machine/Abandon.lean may do (Laws/Acts.lean): the parts each may change, the invariant kept. -/

namespace Sys2Proof.Machine

open Sys2Proof

theorem State.leaveUnits_acts {ps : List Part} {z : State} {s : State} {c : Cmd}
    (hs : Acts ps z s) (hp : ∀ p ∈ ([.draws, .regs, .mem, .outbox, .acting] : List Part), p ∈ ps) :
    Acts ps z (State.leaveUnits s c) := by
  unfold State.leaveUnits
  repeat' first
    | with_reducible assumption | with_reducible refine State.raise_acts ?_ (inside hp (by decide))
    | with_reducible refine State.set64_acts ?_ (inside hp (by decide))
    | with_reducible refine State.spend_acts ?_ (inside hp (by decide)) | with_reducible refine Acts.foldl ?_ ?_ | extract_lets | intro _
    | with_reducible refine Acts.ite ?_ ?_ | dsimp only | dsimp +zetaDelta only

theorem State.failWaitingColl_acts {ps : List Part} {z : State} {s : State} {c : Cmd} {st : Nat}
    (hs : Acts ps z s) (hp : ∀ p ∈ ([.draws, .regs, .mem, .cmds, .links, .colls, .turns, .lockage, .mgmt, .outbox] : List Part), p ∈ ps) :
    Acts ps z (State.failWaitingColl s c st) := by
  unfold State.failWaitingColl
  repeat' first
    | with_reducible assumption | with_reducible refine State.openColl_acts ?_ (inside hp (by decide))
    | with_reducible refine State.failColl_acts ?_ (inside hp (by decide))
    | with_reducible refine State.finish_acts ?_ (inside hp (by decide)) | extract_lets | split | dsimp +zetaDelta only

theorem State.abandonReady_acts {ps : List Part} {z : State} {s : State} {c : Cmd} {st : Nat}
    (hs : Acts ps z s) (hp : ∀ p ∈ ([.draws, .regs, .mem, .host, .cmds, .links, .colls, .turns, .lockage, .mgmt, .outbox, .acting] : List Part), p ∈ ps) :
    Acts ps z (State.abandonReady s c st) := by
  unfold State.abandonReady
  repeat' first
    | with_reducible assumption | with_reducible refine State.failWaitingColl_acts ?_ (inside hp (by decide))
    | with_reducible refine State.undefineOutputs_acts ?_ (inside hp (by decide))
    | with_reducible refine State.leaveUnits_acts ?_ (inside hp (by decide))
    | with_reducible refine State.finish_acts ?_ (inside hp (by decide)) | with_reducible refine Acts.ite ?_ ?_

theorem State.abandonLoad_acts {ps : List Part} {z : State} {s : State} {c : Cmd} {st : Nat}
    (hs : Acts ps z s) (hp : ∀ p ∈ ([.cmds, .weights, .lockage] : List Part), p ∈ ps) :
    Acts ps z (State.abandonLoad s c st) := by
  unfold State.abandonLoad
  repeat' first
    | with_reducible assumption | with_reducible refine State.failAdapter_acts ?_ (inside hp (by decide))
    | with_reducible refine State.failSet_acts ?_ (inside hp (by decide))
    | with_reducible refine State.finish_acts ?_ (inside hp (by decide)) | extract_lets | intro _ | with_reducible refine Acts.ite ?_ ?_
    | split | dsimp only | dsimp +zetaDelta only | with_reducible refine Acts.set_commits ?_ (hp _ (by decide))

theorem State.abandonDrop_acts {ps : List Part} {z : State} {s : State} {c : Cmd} {st : Nat}
    (hs : Acts ps z s) (hp : ∀ p ∈ ([.cmds, .weights, .lockage] : List Part), p ∈ ps) :
    Acts ps z (State.abandonDrop s c st) := by
  unfold State.abandonDrop
  repeat' first
    | with_reducible assumption | with_reducible refine State.awaitCommit_acts ?_ (inside hp (by decide))
    | with_reducible refine State.withdraw_acts ?_ (inside hp (by decide))
    | with_reducible refine State.updSet_acts ?_ (inside hp (by decide))
    | with_reducible refine State.finish_acts ?_ (inside hp (by decide)) | extract_lets | intro _ | with_reducible refine Acts.ite ?_ ?_
    | split | dsimp only | dsimp +zetaDelta only

theorem State.abandonOpen_acts {ps : List Part} {z : State} {s : State} {c : Cmd} {st : Nat}
    (hs : Acts ps z s) (hp : ∀ p ∈ ([.cmds, .serving, .trains, .turns, .lockage] : List Part), p ∈ ps) :
    Acts ps z (State.abandonOpen s c st) := by
  unfold State.abandonOpen
  repeat' first
    | with_reducible assumption | with_reducible refine State.withdraw_acts ?_ (inside hp (by decide))
    | with_reducible refine State.finish_acts ?_ (inside hp (by decide)) | extract_lets | with_reducible refine Acts.ite ?_ ?_
    | with_reducible refine Acts.set_serving ?_ (hp _ (by decide)) | with_reducible refine Acts.set_trains ?_ (hp _ (by decide))
    | with_reducible refine Acts.set_scores ?_ (hp _ (by decide)) | dsimp +zetaDelta only

theorem State.abandonTurn_acts {ps : List Part} {z : State} {s : State} {c : Cmd} {st : Nat}
    (hs : Acts ps z s) (hp : ∀ p ∈ ([.cmds, .turns, .lockage, .panel] : List Part), p ∈ ps) :
    Acts ps z (State.abandonTurn s c st) := by
  unfold State.abandonTurn
  repeat' first
    | with_reducible assumption | with_reducible refine State.releaseHoldWait_acts ?_ (inside hp (by decide))
    | with_reducible refine State.withdraw_acts ?_ (inside hp (by decide))
    | with_reducible refine State.finish_acts ?_ (inside hp (by decide)) | with_reducible refine Acts.foldl ?_ ?_ | extract_lets | intro _
    | with_reducible refine Acts.ite ?_ ?_ | split | dsimp only | with_reducible refine Acts.set_turns ?_ (hp _ (by decide))
    | dsimp +zetaDelta only

theorem State.abandonClose_acts {ps : List Part} {z : State} {s : State} {c : Cmd} {st : Nat}
    (hs : Acts ps z s) (hp : ∀ p ∈ ([.cmds, .serving, .trains, .lockage] : List Part), p ∈ ps) :
    Acts ps z (State.abandonClose s c st) := by
  unfold State.abandonClose
  repeat' first
    | with_reducible assumption | with_reducible refine State.updServing_acts ?_ (inside hp (by decide))
    | with_reducible refine State.updTrain_acts ?_ (inside hp (by decide))
    | with_reducible refine State.withdraw_acts ?_ (inside hp (by decide))
    | with_reducible refine State.finish_acts ?_ (inside hp (by decide)) | extract_lets | intro _ | with_reducible refine Acts.ite ?_ ?_
    | split | dsimp only | dsimp +zetaDelta only

theorem State.abandonCancel_acts {ps : List Part} {z : State} {s : State} {c : Cmd} {st : Nat}
    (hs : Acts ps z s) (hp : ∀ p ∈ ([.cmds, .serving] : List Part), p ∈ ps) :
    Acts ps z (State.abandonCancel s c st) := by
  unfold State.abandonCancel
  repeat' first
    | with_reducible assumption | with_reducible refine State.finish_acts ?_ (inside hp (by decide)) | extract_lets | intro _
    | with_reducible refine Acts.ite ?_ ?_ | dsimp only | with_reducible refine Acts.set_manifest ?_ (hp _ (by decide))
    | dsimp +zetaDelta only

theorem State.abandonPark_acts {ps : List Part} {z : State} {s : State} {c : Cmd} {st : Nat}
    (hs : Acts ps z s) (hp : ∀ p ∈ ([.cmds, .serving, .trains] : List Part), p ∈ ps) :
    Acts ps z (State.abandonPark s c st) := by
  unfold State.abandonPark
  repeat' first
    | with_reducible assumption | with_reducible refine State.finish_acts ?_ (inside hp (by decide)) | extract_lets | intro _ | dsimp only
    | with_reducible refine Acts.set_serving_trains ?_ (hp _ (by decide)) (hp _ (by decide)) | dsimp +zetaDelta only

theorem State.unquiesce_acts {ps : List Part} {z : State} {s : State} {scope : Nat}
    (hs : Acts ps z s) (hp : ∀ p ∈ ([.power] : List Part), p ∈ ps) :
    Acts ps z (State.unquiesce s scope) := by
  unfold State.unquiesce
  repeat' first
    | with_reducible assumption | with_reducible refine Acts.ite ?_ ?_ | with_reducible refine Acts.set_power ?_ (hp _ (by decide))

theorem State.abandonQuiesce_acts {ps : List Part} {z : State} {s : State} {c : Cmd} {st : Nat}
    (hs : Acts ps z s) (hp : ∀ p ∈ ([.power, .cmds] : List Part), p ∈ ps) :
    Acts ps z (State.abandonQuiesce s c st) := by
  unfold State.abandonQuiesce
  repeat' first
    | with_reducible assumption | with_reducible refine State.unquiesce_acts ?_ (inside hp (by decide))
    | with_reducible refine State.finish_acts ?_ (inside hp (by decide)) | with_reducible refine Acts.foldl ?_ ?_
    | with_reducible refine Acts.foldl_fst ?_ ?_ | with_reducible refine Acts.foldl_snd ?_ ?_ | extract_lets | intro _ | dsimp only
    | with_reducible refine Acts.set_power ?_ (hp _ (by decide)) | dsimp +zetaDelta only

theorem State.abandonPlan_acts {ps : List Part} {z : State} {s : State} {c : Cmd} {st : Nat}
    (hs : Acts ps z s) (hp : ∀ p ∈ ([.gov, .cmds] : List Part), p ∈ ps) :
    Acts ps z (State.abandonPlan s c st) := by
  unfold State.abandonPlan
  repeat' first
    | with_reducible assumption | with_reducible refine State.finish_acts ?_ (inside hp (by decide)) | intro _ | dsimp only
    | with_reducible refine Acts.set_gov ?_ (hp _ (by decide))

theorem State.abandonCmd_acts {ps : List Part} {z : State} {s : State} {c : Cmd} {st : Nat}
    (hs : Acts ps z s) (hp : ∀ p ∈ ([.draws, .power, .gov, .regs, .mem, .host, .cmds, .weights, .links, .serving, .colls, .trains, .turns, .lockage, .panel, .mgmt, .outbox, .acting] : List Part), p ∈ ps) :
    Acts ps z (State.abandonCmd s c st) := by
  unfold State.abandonCmd
  repeat' first
    | with_reducible assumption | with_reducible refine State.undefineOutputs_acts ?_ (inside hp (by decide))
    | with_reducible refine State.abandonQuiesce_acts ?_ (inside hp (by decide))
    | with_reducible refine State.withdrawCommit_acts ?_ (inside hp (by decide))
    | with_reducible refine State.abandonCancel_acts ?_ (inside hp (by decide))
    | with_reducible refine State.abandonClose_acts ?_ (inside hp (by decide))
    | with_reducible refine State.abandonReady_acts ?_ (inside hp (by decide))
    | with_reducible refine State.abandonLoad_acts ?_ (inside hp (by decide))
    | with_reducible refine State.abandonTurn_acts ?_ (inside hp (by decide))
    | with_reducible refine State.abandonDrop_acts ?_ (inside hp (by decide))
    | with_reducible refine State.abandonOpen_acts ?_ (inside hp (by decide))
    | with_reducible refine State.abandonPlan_acts ?_ (inside hp (by decide))
    | with_reducible refine State.abandonPark_acts ?_ (inside hp (by decide))
    | with_reducible refine State.withdraw_acts ?_ (inside hp (by decide))
    | with_reducible refine State.failColl_acts ?_ (inside hp (by decide))
    | with_reducible refine State.finish_acts ?_ (inside hp (by decide)) | extract_lets | with_reducible refine Acts.ite ?_ ?_ | split
    | dsimp +zetaDelta only

theorem State.abort_acts {ps : List Part} {z : State} {s : State} {c : Cmd}
    (hs : Acts ps z s) (hp : ∀ p ∈ ([.draws, .power, .gov, .regs, .mem, .host, .cmds, .weights, .links, .serving, .colls, .trains, .turns, .lockage, .panel, .mgmt, .outbox, .acting] : List Part), p ∈ ps) :
    Acts ps z (State.abort s c) := by
  unfold State.abort
  repeat' first
    | with_reducible assumption | with_reducible refine State.abandonCmd_acts ?_ (inside hp (by decide))
    | with_reducible refine State.finish_acts ?_ (inside hp (by decide)) | intro _ | with_reducible refine Acts.ite ?_ ?_ | split
    | dsimp only

theorem execAbort_acts {c : CmdRef} {hv : HostView} {s : State} {t : State} (e : execAbort c hv s = .next t) :
    Acts [.draws, .power, .gov, .regs, .mem, .host, .cmds, .weights, .links, .serving, .colls, .trains, .turns, .lockage, .panel, .mgmt, .outbox] s t := by
  unfold execAbort at e
  refine runs_acts (qs := [.draws, .power, .gov, .regs, .mem, .host, .cmds, .weights, .links, .serving, .colls, .trains, .turns, .lockage, .panel, .mgmt, .outbox, .acting]) (by decide) (fun ps hs hp => ?_) e
  repeat' first
    | with_reducible assumption | with_reducible refine State.start_acts ?_ ?_ (inside hp (by decide))
    | with_reducible refine State.abort_acts ?_ (inside hp (by decide)) | with_reducible refine State.sees_acts ?_ (inside hp (by decide))
    | intro _ | dsimp only

theorem execCommandTimeout_acts {c : CmdRef} {now : Nat} {s : State} {t : State} (e : execCommandTimeout c now s = .next t) :
    Acts [.draws, .clock, .power, .gov, .regs, .mem, .host, .cmds, .weights, .links, .serving, .colls, .trains, .turns, .lockage, .panel, .mgmt, .outbox] s t := by
  unfold execCommandTimeout at e
  refine runs_acts (qs := [.draws, .clock, .power, .gov, .regs, .mem, .host, .cmds, .weights, .links, .serving, .colls, .trains, .turns, .lockage, .panel, .mgmt, .outbox, .acting]) (by decide) (fun ps hs hp => ?_) e
  repeat' first
    | with_reducible assumption | with_reducible refine State.abandonCmd_acts ?_ (inside hp (by decide))
    | with_reducible refine State.at_acts ?_ (inside hp (by decide)) | extract_lets | intro _ | with_reducible refine Acts.ite ?_ ?_
    | split | dsimp only | dsimp +zetaDelta only

theorem State.emptyQueue_acts {ps : List Part} {z : State} {s : State} {n : Nat} {st : Nat}
    (hs : Acts ps z s) (hp : ∀ p ∈ ([.draws, .power, .gov, .regs, .mem, .host, .cmds, .hist, .weights, .links, .serving, .colls, .trains, .turns, .lockage, .panel, .mgmt, .sec, .outbox, .acting] : List Part), p ∈ ps) :
    Acts ps z (State.emptyQueue s n st) := by
  unfold State.emptyQueue
  extract_lets mine t gone u sec
  have ht : Acts ps z t := Acts.foldl hs fun v c hv => by
    split
    · exact State.abandonCmd_acts hv (inside hp (by decide))
    · exact hv
  have hu : Acts ps z u := Acts.set_inflight_sets_adapters ht (hp _ (by decide)) (hp _ (by decide)) (hp _ (by decide))
  clear_value sec u
  exact State.histSettle_acts (Acts.set_sec hu (hp _ (by decide))) (inside hp (by decide))

theorem State.eraseQueue_acts {ps : List Part} {z : State} {s : State} {n : Nat}
    (hs : Acts ps z s) (hp : ∀ p ∈ ([.regs, .queues] : List Part), p ∈ ps) :
    Acts ps z (State.eraseQueue s n) := by
  unfold State.eraseQueue
  repeat' first
    | with_reducible assumption | with_reducible refine State.clearPage_acts ?_ (inside hp (by decide))
    | with_reducible refine Acts.set_queues ?_ (hp _ (by decide))

theorem State.queueDelete_acts {ps : List Part} {z : State} {s : State} {c : Cmd}
    (hs : Acts ps z s) (hp : ∀ p ∈ ([.draws, .power, .gov, .regs, .mem, .host, .queues, .cmds, .hist, .weights, .links, .serving, .colls, .trains, .turns, .lockage, .panel, .mgmt, .sec, .outbox, .acting] : List Part), p ∈ ps) :
    Acts ps z (State.queueDelete s c) := by
  unfold State.queueDelete
  repeat' first
    | with_reducible assumption | with_reducible refine State.emptyQueue_acts ?_ (inside hp (by decide))
    | with_reducible refine State.eraseQueue_acts ?_ (inside hp (by decide))
    | with_reducible refine State.finish_acts ?_ (inside hp (by decide)) | extract_lets | intro _ | with_reducible refine Acts.ite ?_ ?_
    | dsimp only | dsimp +zetaDelta only

theorem execQueueDelete_acts {c : CmdRef} {hv : HostView} {s : State} {t : State} (e : execQueueDelete c hv s = .next t) :
    Acts [.draws, .power, .gov, .regs, .mem, .host, .queues, .cmds, .hist, .weights, .links, .serving, .colls, .trains, .turns, .lockage, .panel, .mgmt, .sec, .outbox] s t := by
  unfold execQueueDelete at e
  refine runs_acts (qs := [.draws, .power, .gov, .regs, .mem, .host, .queues, .cmds, .hist, .weights, .links, .serving, .colls, .trains, .turns, .lockage, .panel, .mgmt, .sec, .outbox, .acting]) (by decide) (fun ps hs hp => ?_) e
  repeat' first
    | with_reducible assumption | with_reducible refine State.queueDelete_acts ?_ (inside hp (by decide))
    | with_reducible refine State.start_acts ?_ ?_ (inside hp (by decide))
    | with_reducible refine State.sees_acts ?_ (inside hp (by decide)) | intro _ | dsimp only

theorem State.stopRecording_acts {ps : List Part} {z : State} {s : State}
    (hs : Acts ps z s) (hp : ∀ p ∈ ([.logbook] : List Part), p ∈ ps) :
    Acts ps z (State.stopRecording s) := by
  unfold State.stopRecording
  repeat' first
    | with_reducible assumption | with_reducible refine State.record_acts ?_ (inside hp (by decide)) | extract_lets
    | with_reducible refine Acts.set_logbook ?_ (hp _ (by decide)) | dsimp +zetaDelta only

theorem State.transitionAnswered_acts {ps : List Part} {z : State} {s : State} {r : CmdRef}
    (hs : Acts ps z s) (hp : ∀ p ∈ ([.sec] : List Part), p ∈ ps) :
    Acts ps z (State.transitionAnswered s r) := by
  unfold State.transitionAnswered
  repeat' first
    | with_reducible assumption | with_reducible refine Acts.ite ?_ ?_ | with_reducible refine Acts.set_sec ?_ (hp _ (by decide))

theorem State.answerCmd_acts {ps : List Part} {z : State} {s : State} {r : CmdRef}
    (hs : Acts ps z s) (hp : ∀ p ∈ ([.draws, .regs, .mem, .host, .queues, .cmds, .hist, .weights, .logbook, .sec, .log, .outbox] : List Part), p ∈ ps) :
    Acts ps z (State.answerCmd s r) := by
  unfold State.answerCmd
  repeat' first
    | with_reducible assumption | with_reducible refine State.transitionAnswered_acts ?_ (inside hp (by decide))
    | with_reducible refine State.stopRecording_acts ?_ (inside hp (by decide))
    | with_reducible refine State.complete_acts ?_ (inside hp (by decide)) | extract_lets | intro _ | with_reducible refine Acts.ite ?_ ?_
    | split | dsimp only | dsimp +zetaDelta only

theorem execCommandCompletion_acts {c : CmdRef} {now : Nat} {hv : HostView} {s : State} {t : State} (e : execCommandCompletion c now hv s = .next t) :
    Acts [.draws, .clock, .regs, .mem, .host, .queues, .cmds, .hist, .weights, .colls, .logbook, .sec, .log, .outbox] s t := by
  unfold execCommandCompletion at e
  refine runs_acts (qs := [.draws, .clock, .regs, .mem, .host, .queues, .cmds, .hist, .weights, .colls, .logbook, .sec, .log, .outbox, .acting]) (by decide) (fun ps hs hp => ?_) e
  repeat' first
    | with_reducible assumption | with_reducible refine State.grantWaiting_acts ?_ (inside hp (by decide))
    | with_reducible refine State.answerCmd_acts ?_ (inside hp (by decide))
    | with_reducible refine State.sees_acts ?_ (inside hp (by decide)) | with_reducible refine State.at_acts ?_ (inside hp (by decide))
    | intro _ | dsimp only

end Sys2Proof.Machine
end

