-- ==== Sys2Proof/Laws/ActsSecure.lean ====
section
/-! SUPPORT. What the operations of Machine/Secure.lean may do (Laws/Acts.lean): the parts each may change, the invariant kept. -/

namespace Sys2Proof.Machine

open Sys2Proof

theorem State.keepsakeEvent_acts {ps : List Part} {z : State} {s : State} {kind : Nat} {powered : Bool}
    (hs : Acts ps z s) (hp : ∀ p ∈ ([.keepsake] : List Part), p ∈ ps) :
    Acts ps z (State.keepsakeEvent s kind powered) := by
  unfold State.keepsakeEvent
  repeat' first
    | with_reducible assumption | with_reducible refine State.ksWrite_acts ?_ (inside hp (by decide))
    | with_reducible refine Acts.foldl ?_ ?_ | extract_lets | intro _ | with_reducible refine Acts.ite ?_ ?_ | split | dsimp only
    | dsimp +zetaDelta only

theorem State.tamper_acts {ps : List Part} {z : State} {s : State} {kind : Nat}
    (hs : Acts ps z s) (hp : ∀ p ∈ ([.regs, .keepsake, .log, .outbox] : List Part), p ∈ ps) :
    Acts ps z (State.tamper s kind) := by
  unfold State.tamper
  repeat' first
    | with_reducible assumption | with_reducible refine State.keepsakeEvent_acts ?_ (inside hp (by decide))
    | with_reducible refine State.logEvent_acts ?_ (inside hp (by decide))
    | with_reducible refine State.raise_acts ?_ (inside hp (by decide))

theorem State.acknowledge_acts {ps : List Part} {z : State} {s : State}
    (hs : Acts ps z s) (hp : ∀ p ∈ ([.regs, .keepsake, .outbox] : List Part), p ∈ ps) :
    Acts ps z (State.acknowledge s) := by
  unfold State.acknowledge
  repeat' first
    | with_reducible assumption | with_reducible refine State.ksWrite_acts ?_ (inside hp (by decide))
    | with_reducible refine State.raise_acts ?_ (inside hp (by decide)) | intro _ | with_reducible refine Acts.ite ?_ ?_ | dsimp only

theorem State.clearLocket_acts {ps : List Part} {z : State} {s : State} {cause : Nat}
    (hs : Acts ps z s) (hp : ∀ p ∈ ([.keepsake, .mgmt, .sec, .log, .outbox, .pcie] : List Part), p ∈ ps) :
    Acts ps z (State.clearLocket s cause) := by
  unfold State.clearLocket
  repeat' first
    | with_reducible assumption | with_reducible refine State.logEvent_acts ?_ (inside hp (by decide))
    | with_reducible refine State.ksWrite_acts ?_ (inside hp (by decide)) | extract_lets | intro _ | with_reducible refine Acts.ite ?_ ?_
    | dsimp only | with_reducible refine Acts.set_pcie_mgmt_sec ?_ (hp _ (by decide)) (hp _ (by decide)) (hp _ (by decide))
    | dsimp +zetaDelta only

theorem State.burnFuse_acts {ps : List Part} {z : State} {s : State} {code : Nat}
    (hs : Acts ps z s) (hp : ∀ p ∈ ([.regs, .mgmt, .sec, .outbox] : List Part), p ∈ ps) :
    Acts ps z (State.burnFuse s code) := by
  unfold State.burnFuse
  repeat' first
    | with_reducible assumption | with_reducible refine State.sensorChange_acts ?_ (inside hp (by decide))
    | with_reducible refine State.raise_acts ?_ (inside hp (by decide)) | extract_lets
    | with_reducible refine Acts.set_sec ?_ (hp _ (by decide)) | dsimp +zetaDelta only

theorem State.clearHolds'_acts {ps : List Part} {z : State} {s : State}
    (hs : Acts ps z s) (hp : ∀ p ∈ ([.regs] : List Part), p ∈ ps) :
    Acts ps z (State.clearHolds' s) := by
  unfold State.clearHolds'
  repeat' first
    | with_reducible assumption | with_reducible refine State.set64_acts ?_ (inside hp (by decide))
    | with_reducible refine Acts.foldl ?_ ?_ | intro _ | dsimp only

theorem State.dropDebug_acts {ps : List Part} {z : State} {s : State}
    (hs : Acts ps z s) (hp : ∀ p ∈ ([.regs, .sec, .outbox] : List Part), p ∈ ps) :
    Acts ps z (State.dropDebug s) := by
  unfold State.dropDebug
  repeat' first
    | with_reducible assumption | with_reducible refine State.clearHolds'_acts ?_ (inside hp (by decide))
    | with_reducible refine State.raise_acts ?_ (inside hp (by decide)) | with_reducible refine Acts.ite ?_ ?_
    | with_reducible refine Acts.set_sec ?_ (hp _ (by decide))

theorem State.transition_acts {ps : List Part} {z : State} {s : State} {code : Nat} {by_ : Option CmdRef}
    (hs : Acts ps z s) (hp : ∀ p ∈ ([.regs, .keepsake, .mgmt, .sec, .log, .outbox, .pcie] : List Part), p ∈ ps) :
    Acts ps z (State.transition s code by_) := by
  unfold State.transition
  repeat' first
    | with_reducible assumption | with_reducible refine State.clearLocket_acts ?_ (inside hp (by decide))
    | with_reducible refine State.dropDebug_acts ?_ (inside hp (by decide))
    | with_reducible refine State.burnFuse_acts ?_ (inside hp (by decide)) | extract_lets | with_reducible refine Acts.ite ?_ ?_
    | with_reducible refine Acts.set_sec ?_ (hp _ (by decide)) | dsimp +zetaDelta only

theorem State.endDebug_acts {ps : List Part} {z : State} {s : State} {wiped : Bool} {by_ : Option CmdRef}
    (hs : Acts ps z s) (hp : ∀ p ∈ ([.regs, .keepsake, .mgmt, .sec, .log, .outbox, .pcie] : List Part), p ∈ ps) :
    Acts ps z (State.endDebug s wiped by_) := by
  unfold State.endDebug
  repeat' first
    | with_reducible assumption | with_reducible refine State.clearLocket_acts ?_ (inside hp (by decide))
    | with_reducible refine State.transition_acts ?_ (inside hp (by decide))
    | with_reducible refine State.dropDebug_acts ?_ (inside hp (by decide)) | extract_lets | with_reducible refine Acts.ite ?_ ?_
    | dsimp +zetaDelta only

theorem State.wipeLocket_acts {ps : List Part} {z : State} {s : State} {cause : Nat}
    (hs : Acts ps z s) (hp : ∀ p ∈ ([.regs, .keepsake, .mgmt, .sec, .log, .outbox, .pcie] : List Part), p ∈ ps) :
    Acts ps z (State.wipeLocket s cause) := by
  unfold State.wipeLocket
  repeat' first
    | with_reducible assumption | with_reducible refine State.clearLocket_acts ?_ (inside hp (by decide))
    | with_reducible refine State.endDebug_acts ?_ (inside hp (by decide))

theorem State.placeGrant_acts {ps : List Part} {z : State} {s : State} {mode : Nat} {expiry : Nat}
    (hs : Acts ps z s) (hp : ∀ p ∈ ([.regs, .sec, .outbox] : List Part), p ∈ ps) :
    Acts ps z (State.placeGrant s mode expiry) := by
  unfold State.placeGrant
  repeat' first
    | with_reducible assumption | with_reducible refine State.raise_acts ?_ (inside hp (by decide))
    | with_reducible refine Acts.set_sec ?_ (hp _ (by decide))

theorem execDebugExpiry_acts {now : Nat} {s : State} {t : State} (e : execDebugExpiry now s = .next t) :
    Acts [.clock, .regs, .keepsake, .mgmt, .sec, .log, .outbox, .pcie] s t := by
  unfold execDebugExpiry at e
  refine runs_acts (qs := [.clock, .regs, .keepsake, .mgmt, .sec, .log, .outbox, .pcie]) (by decide) (fun ps hs hp => ?_) e
  repeat' first
    | with_reducible assumption | with_reducible refine State.endDebug_acts ?_ (inside hp (by decide))
    | with_reducible refine State.at_acts ?_ (inside hp (by decide)) | extract_lets | intro _ | with_reducible refine Acts.ite ?_ ?_
    | dsimp only | dsimp +zetaDelta only

theorem State.renewNonce_acts {ps : List Part} {z : State} {s : State}
    (hs : Acts ps z s) (hp : ∀ p ∈ ([.draws, .sec] : List Part), p ∈ ps) :
    Acts ps z (State.renewNonce s) := by
  unfold State.renewNonce
  repeat' first
    | with_reducible assumption | with_reducible refine State.draw_acts ?_ (inside hp (by decide)) | extract_lets | dsimp only
    | with_reducible refine Acts.set_sec ?_ (hp _ (by decide)) | dsimp +zetaDelta only

theorem State.noteAuthFail_acts {ps : List Part} {z : State} {s : State} {c : Cmd}
    (hs : Acts ps z s) (hp : ∀ p ∈ ([.regs, .cmds, .sec, .log, .outbox] : List Part), p ∈ ps) :
    Acts ps z (State.noteAuthFail s c) := by
  unfold State.noteAuthFail
  repeat' first
    | with_reducible assumption | with_reducible refine State.markLogged_acts ?_ (inside hp (by decide))
    | with_reducible refine State.logEvent_acts ?_ (inside hp (by decide))
    | with_reducible refine State.raise_acts ?_ (inside hp (by decide))
    | with_reducible refine State.sat32_acts ?_ (inside hp (by decide)) | extract_lets
    | with_reducible refine Acts.set_sec ?_ (hp _ (by decide)) | dsimp +zetaDelta only

theorem State.checkRecord_acts {ps : List Part} {z : State} {s : State} {c : Cmd} {b : List Byte} {signer : Nat} {action : Nat} {hash : Option (List Byte)}
    (hs : Acts ps z s) (hp : ∀ p ∈ ([.draws, .regs, .cmds, .sec, .log, .outbox] : List Part), p ∈ ps) :
    Acts ps z (State.checkRecord s c b signer action hash).1 := by
  unfold State.checkRecord
  repeat' first
    | with_reducible assumption | with_reducible refine State.noteAuthFail_acts ?_ (inside hp (by decide))
    | with_reducible refine State.renewNonce_acts ?_ (inside hp (by decide))
    | with_reducible refine State.raise_acts ?_ (inside hp (by decide)) | extract_lets | with_reducible refine Acts.ite ?_ ?_ | split
    | dsimp only | dsimp +zetaDelta only

theorem execAuthLockout_acts {now : Nat} {s : State} {t : State} (e : execAuthLockout now s = .next t) :
    Acts [.clock, .regs, .sec, .log, .outbox] s t := by
  unfold execAuthLockout at e
  refine runs_acts (qs := [.clock, .regs, .sec, .log, .outbox]) (by decide) (fun ps hs hp => ?_) e
  repeat' first
    | with_reducible assumption | with_reducible refine State.logEvent_acts ?_ (inside hp (by decide))
    | with_reducible refine State.raise_acts ?_ (inside hp (by decide)) | with_reducible refine State.at_acts ?_ (inside hp (by decide))
    | extract_lets | intro _ | with_reducible refine Acts.ite ?_ ?_ | dsimp only
    | with_reducible refine Acts.set_sec ?_ (hp _ (by decide)) | dsimp +zetaDelta only

theorem execLockoutExpiry_acts {now : Nat} {s : State} {t : State} (e : execLockoutExpiry now s = .next t) :
    Acts [.clock, .sec] s t := by
  unfold execLockoutExpiry at e
  refine runs_acts (qs := [.clock, .sec]) (by decide) (fun ps hs hp => ?_) e
  repeat' first
    | with_reducible assumption | with_reducible refine State.at_acts ?_ (inside hp (by decide)) | extract_lets | intro _
    | with_reducible refine Acts.ite ?_ ?_ | split | dsimp only | with_reducible refine Acts.set_sec ?_ (hp _ (by decide))
    | dsimp +zetaDelta only

theorem State.unseal_acts {ps : List Part} {z : State} {s : State}
    (hs : Acts ps z s) (hp : ∀ p ∈ ([.sec] : List Part), p ∈ ps) :
    Acts ps z (State.unseal s) := by
  unfold State.unseal
  repeat' first
    | with_reducible assumption | extract_lets | with_reducible refine Acts.ite ?_ ?_
    | with_reducible refine Acts.set_sec ?_ (hp _ (by decide)) | dsimp +zetaDelta only

theorem State.installBlob_acts {ps : List Part} {z : State} {s : State} {p : List Byte}
    (hs : Acts ps z s) (hp : ∀ p ∈ ([.keepsake, .sec] : List Part), p ∈ ps) :
    Acts ps z (State.installBlob s p) := by
  unfold State.installBlob
  repeat' first
    | with_reducible assumption | with_reducible refine State.ksWrite_acts ?_ (inside hp (by decide)) | extract_lets | intro _
    | dsimp only | with_reducible refine Acts.set_sec ?_ (hp _ (by decide)) | dsimp +zetaDelta only

theorem State.zeroFill_acts {ps : List Part} {z : State} {s : State}
    (hs : Acts ps z s) (hp : ∀ p ∈ ([.mem, .logbook] : List Part), p ∈ ps) :
    Acts ps z (State.zeroFill s) := by
  unfold State.zeroFill
  exact Acts.set_mem_logbook hs (fun q => Mem.foldl_wf (Mem.fill_wf q) fun m n h => Mem.fill_wf h) (hp _ (by decide)) (hp _ (by decide))

theorem State.destroyOwner_acts {ps : List Part} {z : State} {s : State}
    (hs : Acts ps z s) (hp : ∀ p ∈ ([.mem, .logbook, .keepsake] : List Part), p ∈ ps) :
    Acts ps z (State.destroyOwner s) := by
  unfold State.destroyOwner
  repeat' first
    | with_reducible assumption | with_reducible refine State.zeroFill_acts ?_ (inside hp (by decide))
    | with_reducible refine State.ksWrite_acts ?_ (inside hp (by decide)) | intro _ | dsimp only

theorem State.destroyAll_acts {ps : List Part} {z : State} {s : State}
    (hs : Acts ps z s) (hp : ∀ p ∈ ([.mem, .logbook, .keepsake, .sec] : List Part), p ∈ ps) :
    Acts ps z (State.destroyAll s) := by
  unfold State.destroyAll
  repeat' first
    | with_reducible assumption | with_reducible refine State.destroyOwner_acts ?_ (inside hp (by decide)) | extract_lets
    | with_reducible refine Acts.set_sec ?_ (hp _ (by decide)) | dsimp +zetaDelta only

theorem State.lifecycleAct_acts {ps : List Part} {z : State} {s : State} {c : Cmd} {b : List Byte}
    (hs : Acts ps z s) (hp : ∀ p ∈ ([.draws, .regs, .mem, .cmds, .logbook, .keepsake, .mgmt, .sec, .log, .outbox, .pcie] : List Part), p ∈ ps) :
    Acts ps z (State.lifecycleAct s c b) := by
  unfold State.lifecycleAct
  repeat' first
    | with_reducible assumption | with_reducible refine State.destroyOwner_acts ?_ (inside hp (by decide))
    | with_reducible refine State.checkRecord_acts ?_ (inside hp (by decide))
    | with_reducible refine State.installBlob_acts ?_ (inside hp (by decide))
    | with_reducible refine State.acknowledge_acts ?_ (inside hp (by decide))
    | with_reducible refine State.transition_acts ?_ (inside hp (by decide))
    | with_reducible refine State.destroyAll_acts ?_ (inside hp (by decide))
    | with_reducible refine State.endDebug_acts ?_ (inside hp (by decide))
    | with_reducible refine State.finish_acts ?_ (inside hp (by decide))
    | with_reducible refine State.unseal_acts ?_ (inside hp (by decide)) | extract_lets | intro _ | with_reducible refine Acts.ite ?_ ?_
    | split | dsimp only | dsimp +zetaDelta only | with_reducible refine Acts.set_sec ?_ (hp _ (by decide))

theorem State.lifecycleSet_acts {ps : List Part} {z : State} {s : State} {c : Cmd}
    (hs : Acts ps z s) (hp : ∀ p ∈ ([.draws, .regs, .mem, .queues, .cmds, .units, .weights, .logbook, .keepsake, .mgmt, .sec, .log, .outbox, .pcie] : List Part), p ∈ ps) :
    Acts ps z (State.lifecycleSet s c) := by
  unfold State.lifecycleSet
  repeat' first
    | with_reducible assumption | with_reducible refine State.lifecycleAct_acts ?_ (inside hp (by decide))
    | with_reducible refine State.noteRead_acts ?_ (inside hp (by decide))
    | with_reducible refine State.refuse_acts ?_ (inside hp (by decide))
    | with_reducible refine State.finish_acts ?_ (inside hp (by decide)) | extract_lets | with_reducible refine Acts.ite ?_ ?_ | split
    | dsimp only | dsimp +zetaDelta only

theorem execLifecycleSet_acts {c : CmdRef} {hv : HostView} {s : State} {t : State} (e : execLifecycleSet c hv s = .next t) :
    Acts [.draws, .regs, .mem, .host, .queues, .cmds, .units, .weights, .logbook, .keepsake, .mgmt, .sec, .log, .outbox, .pcie] s t := by
  unfold execLifecycleSet at e
  refine runs_acts (qs := [.draws, .regs, .mem, .host, .queues, .cmds, .units, .weights, .logbook, .keepsake, .mgmt, .sec, .log, .outbox, .pcie, .acting]) (by decide) (fun ps hs hp => ?_) e
  repeat' first
    | with_reducible assumption | with_reducible refine State.lifecycleSet_acts ?_ (inside hp (by decide))
    | with_reducible refine State.start_acts ?_ ?_ (inside hp (by decide))
    | with_reducible refine State.sees_acts ?_ (inside hp (by decide)) | intro _ | dsimp only

theorem State.debugToken_acts {ps : List Part} {z : State} {s : State} {c : Cmd}
    (hs : Acts ps z s) (hp : ∀ p ∈ ([.draws, .regs, .mem, .queues, .cmds, .units, .weights, .logbook, .keepsake, .mgmt, .sec, .log, .outbox, .pcie] : List Part), p ∈ ps) :
    Acts ps z (State.debugToken s c) := by
  unfold State.debugToken
  repeat' first
    | with_reducible assumption | with_reducible refine State.checkRecord_acts ?_ (inside hp (by decide))
    | with_reducible refine State.clearLocket_acts ?_ (inside hp (by decide))
    | with_reducible refine State.transition_acts ?_ (inside hp (by decide))
    | with_reducible refine State.placeGrant_acts ?_ (inside hp (by decide))
    | with_reducible refine State.noteRead_acts ?_ (inside hp (by decide))
    | with_reducible refine State.zeroFill_acts ?_ (inside hp (by decide))
    | with_reducible refine State.refuse_acts ?_ (inside hp (by decide))
    | with_reducible refine State.finish_acts ?_ (inside hp (by decide)) | extract_lets | with_reducible refine Acts.ite ?_ ?_ | split
    | dsimp only | dsimp +zetaDelta only | with_reducible refine Acts.set_sec ?_ (hp _ (by decide))

theorem execDebugToken_acts {c : CmdRef} {hv : HostView} {s : State} {t : State} (e : execDebugToken c hv s = .next t) :
    Acts [.draws, .regs, .mem, .host, .queues, .cmds, .units, .weights, .logbook, .keepsake, .mgmt, .sec, .log, .outbox, .pcie] s t := by
  unfold execDebugToken at e
  refine runs_acts (qs := [.draws, .regs, .mem, .host, .queues, .cmds, .units, .weights, .logbook, .keepsake, .mgmt, .sec, .log, .outbox, .pcie, .acting]) (by decide) (fun ps hs hp => ?_) e
  repeat' first
    | with_reducible assumption | with_reducible refine State.debugToken_acts ?_ (inside hp (by decide))
    | with_reducible refine State.start_acts ?_ ?_ (inside hp (by decide))
    | with_reducible refine State.sees_acts ?_ (inside hp (by decide)) | intro _ | dsimp only

theorem execLocketWipe_acts {c : CmdRef} {hv : HostView} {s : State} {t : State} (e : execLocketWipe c hv s = .next t) :
    Acts [.regs, .host, .cmds, .keepsake, .mgmt, .sec, .log, .outbox, .pcie] s t := by
  unfold execLocketWipe at e
  refine runs_acts (qs := [.regs, .host, .cmds, .keepsake, .mgmt, .sec, .log, .outbox, .pcie, .acting]) (by decide) (fun ps hs hp => ?_) e
  repeat' first
    | with_reducible assumption | with_reducible refine State.wipeLocket_acts ?_ (inside hp (by decide))
    | with_reducible refine State.finish_acts ?_ (inside hp (by decide))
    | with_reducible refine State.start_acts ?_ ?_ (inside hp (by decide))
    | with_reducible refine State.sees_acts ?_ (inside hp (by decide)) | extract_lets | intro _ | dsimp only | dsimp +zetaDelta only

theorem execLocketParityError_acts {hub : Nat} {s : State} {t : State} (e : execLocketParityError hub s = .next t) :
    Acts [.regs, .keepsake, .mgmt, .sec, .log, .outbox, .pcie] s t := by
  unfold execLocketParityError at e
  refine runs_acts (qs := [.regs, .keepsake, .mgmt, .sec, .log, .outbox, .pcie]) (by decide) (fun ps hs hp => ?_) e
  repeat' first
    | with_reducible assumption | with_reducible refine State.wipeLocket_acts ?_ (inside hp (by decide)) | intro _
    | with_reducible refine Acts.ite ?_ ?_ | dsimp only

end Sys2Proof.Machine
end

