-- ==== Sys2Proof/Laws/ActsGovernor.lean ====
section
/-! SUPPORT. What the operations of Machine/Governor.lean may do (Laws/Acts.lean): the parts each may change, the invariant kept. -/

namespace Sys2Proof.Machine

open Sys2Proof

theorem State.readHallmark_acts {ps : List Part} {z : State} {s : State} {i : Nat} {delay : Option Nat}
    (hs : Acts ps z s) (hp : ∀ p ∈ ([.regs] : List Part), p ∈ ps) :
    Acts ps z (State.readHallmark s i delay) := by
  unfold State.readHallmark
  repeat' first
    | with_reducible assumption | with_reducible refine State.set64_acts ?_ (inside hp (by decide)) | extract_lets | split
    | dsimp +zetaDelta only

theorem State.readHallmarks_acts {ps : List Part} {z : State} {s : State} {rs : List HallmarkReading}
    (hs : Acts ps z s) (hp : ∀ p ∈ ([.regs] : List Part), p ∈ ps) :
    Acts ps z (State.readHallmarks s rs) := by
  unfold State.readHallmarks
  repeat' first
    | with_reducible assumption | with_reducible refine State.readHallmark_acts ?_ (inside hp (by decide))
    | with_reducible refine Acts.foldl ?_ ?_ | intro _ | with_reducible refine Acts.ite ?_ ?_ | split | dsimp only

theorem State.notePlan_acts {ps : List Part} {z : State} {s : State} {k : PlanRecord}
    (hs : Acts ps z s) (hp : ∀ p ∈ ([.regs, .log, .outbox] : List Part), p ∈ ps) :
    Acts ps z (State.notePlan s k) := by
  unfold State.notePlan
  repeat' first
    | with_reducible assumption | with_reducible refine State.logEvent_acts ?_ (inside hp (by decide))
    | with_reducible refine State.raise_acts ?_ (inside hp (by decide)) | extract_lets | intro _ | with_reducible refine Acts.ite ?_ ?_
    | dsimp only | dsimp +zetaDelta only

theorem State.applyPlan_acts {ps : List Part} {z : State} {s : State} {k : PlanRecord}
    (hs : Acts ps z s) (hp : ∀ p ∈ ([.gov, .regs, .keepsake, .log, .outbox] : List Part), p ∈ ps) :
    Acts ps z (State.applyPlan s k) := by
  unfold State.applyPlan
  repeat' first
    | with_reducible assumption | with_reducible refine State.notePlan_acts ?_ (inside hp (by decide))
    | with_reducible refine State.ksWrite_acts ?_ (inside hp (by decide))
    | with_reducible refine State.raise_acts ?_ (inside hp (by decide)) | extract_lets | intro _ | with_reducible refine Acts.ite ?_ ?_
    | dsimp only | with_reducible refine Acts.set_gov ?_ (hp _ (by decide)) | dsimp +zetaDelta only

theorem execMarginPlan_acts {c : CmdRef} {hv : HostView} {s : State} {t : State} (e : execMarginPlan c hv s = .next t) :
    Acts [.gov, .host, .cmds] s t := by
  unfold execMarginPlan at e
  refine runs_acts (qs := [.gov, .host, .cmds, .acting]) (by decide) (fun ps hs hp => ?_) e
  repeat' first
    | with_reducible assumption | with_reducible refine State.running_acts ?_ (inside hp (by decide))
    | with_reducible refine State.start_acts ?_ ?_ (inside hp (by decide))
    | with_reducible refine State.sees_acts ?_ (inside hp (by decide)) | extract_lets | intro _ | dsimp only
    | with_reducible refine Acts.set_gov ?_ (hp _ (by decide)) | dsimp +zetaDelta only

theorem State.planDone_acts {ps : List Part} {z : State} {s : State} {rs : List HallmarkReading}
    (hs : Acts ps z s) (hp : ∀ p ∈ ([.gov, .regs, .cmds, .keepsake, .log, .outbox] : List Part), p ∈ ps) :
    Acts ps z (State.planDone s rs) := by
  unfold State.planDone
  repeat' first
    | with_reducible assumption | with_reducible refine State.readHallmarks_acts ?_ (inside hp (by decide))
    | with_reducible refine State.applyPlan_acts ?_ (inside hp (by decide))
    | with_reducible refine State.notePlan_acts ?_ (inside hp (by decide))
    | with_reducible refine State.finish_acts ?_ (inside hp (by decide)) | extract_lets | with_reducible refine Acts.ite ?_ ?_ | split
    | with_reducible refine Acts.set_gov ?_ (hp _ (by decide)) | dsimp +zetaDelta only

theorem execMarginPlanDone_acts {readings : List HallmarkReading} {now : Nat} {s : State} {t : State} (e : execMarginPlanDone readings now s = .next t) :
    Acts [.clock, .gov, .regs, .cmds, .keepsake, .log, .outbox] s t := by
  unfold execMarginPlanDone at e
  refine runs_acts (qs := [.clock, .gov, .regs, .cmds, .keepsake, .log, .outbox]) (by decide) (fun ps hs hp => ?_) e
  repeat' first
    | with_reducible assumption | with_reducible refine State.planDone_acts ?_ (inside hp (by decide))
    | with_reducible refine State.at_acts ?_ (inside hp (by decide)) | intro _ | dsimp only

theorem State.hourTick_acts {ps : List Part} {z : State} {s : State}
    (hs : Acts ps z s) (hp : ∀ p ∈ ([.clock, .gov, .keepsake] : List Part), p ∈ ps) :
    Acts ps z (State.hourTick s) := by
  unfold State.hourTick
  repeat' first
    | with_reducible assumption | with_reducible refine State.ksWrite_acts ?_ (inside hp (by decide)) | extract_lets | intro _
    | with_reducible refine Acts.ite ?_ ?_ | dsimp only | with_reducible refine Acts.set_clock ?_ (hp _ (by decide))
    | with_reducible refine Acts.set_gov ?_ (hp _ (by decide)) | dsimp +zetaDelta only

theorem execOperatingHourTick_acts {now : Nat} {s : State} {t : State} (e : execOperatingHourTick now s = .next t) :
    Acts [.clock, .gov, .keepsake] s t := by
  unfold execOperatingHourTick at e
  refine runs_acts (qs := [.clock, .gov, .keepsake]) (by decide) (fun ps hs hp => ?_) e
  repeat' first
    | with_reducible assumption | with_reducible refine State.hourTick_acts ?_ (inside hp (by decide))
    | with_reducible refine State.at_acts ?_ (inside hp (by decide)) | intro _ | dsimp only

theorem State.thermalPause_acts {ps : List Part} {z : State} {s : State} {on : Bool}
    (hs : Acts ps z s) (hp : ∀ p ∈ ([.gov, .regs, .log, .outbox] : List Part), p ∈ ps) :
    Acts ps z (State.thermalPause s on) := by
  unfold State.thermalPause
  repeat' first
    | with_reducible assumption | with_reducible refine State.logEvent_acts ?_ (inside hp (by decide))
    | with_reducible refine State.raise_acts ?_ (inside hp (by decide)) | extract_lets | with_reducible refine Acts.ite ?_ ?_
    | with_reducible refine Acts.set_gov ?_ (hp _ (by decide)) | dsimp +zetaDelta only

theorem State.noteJunction_acts {ps : List Part} {z : State} {s : State} {dc : Nat}
    (hs : Acts ps z s) (hp : ∀ p ∈ ([.draws, .gov, .regs, .mgmt, .log, .outbox] : List Part), p ∈ ps) :
    Acts ps z (State.noteJunction s dc) := by
  unfold State.noteJunction
  repeat' first
    | with_reducible assumption | with_reducible refine State.thermalPause_acts ?_ (inside hp (by decide))
    | with_reducible refine State.logEvent_acts ?_ (inside hp (by decide))
    | with_reducible refine State.raise_acts ?_ (inside hp (by decide)) | with_reducible refine State.draw_acts ?_ (inside hp (by decide))
    | extract_lets | with_reducible refine Acts.ite ?_ ?_ | dsimp only | with_reducible refine Acts.set_mgmt ?_ (hp _ (by decide))
    | with_reducible refine Acts.set_gov ?_ (hp _ (by decide)) | dsimp +zetaDelta only

theorem State.noteInlet_acts {ps : List Part} {z : State} {s : State} {dc : Nat}
    (hs : Acts ps z s) (hp : ∀ p ∈ ([.mgmt, .log, .outbox] : List Part), p ∈ ps) :
    Acts ps z (State.noteInlet s dc) := by
  unfold State.noteInlet
  repeat' first
    | with_reducible assumption | with_reducible refine State.logEvent_acts ?_ (inside hp (by decide)) | extract_lets
    | with_reducible refine Acts.ite ?_ ?_ | with_reducible refine Acts.set_mgmt ?_ (hp _ (by decide)) | dsimp +zetaDelta only

theorem execInletWarning_acts {dc : Nat} {s : State} {t : State} (e : execInletWarning dc s = .next t) :
    Acts [.mgmt, .log, .outbox] s t := by
  unfold execInletWarning at e
  refine runs_acts (qs := [.mgmt, .log, .outbox]) (by decide) (fun ps hs hp => ?_) e
  repeat' first
    | with_reducible assumption | with_reducible refine State.noteInlet_acts ?_ (inside hp (by decide)) | intro _
    | with_reducible refine Acts.ite ?_ ?_ | dsimp only

theorem execThermalLimit_acts {dc : Nat} {s : State} {t : State} (e : execThermalLimit dc s = .next t) :
    Acts [.draws, .gov, .regs, .mgmt, .log, .outbox] s t := by
  unfold execThermalLimit at e
  refine runs_acts (qs := [.draws, .gov, .regs, .mgmt, .log, .outbox]) (by decide) (fun ps hs hp => ?_) e
  repeat' first
    | with_reducible assumption | with_reducible refine State.noteJunction_acts ?_ (inside hp (by decide)) | intro _
    | with_reducible refine Acts.ite ?_ ?_ | dsimp only

theorem execThermalHardBreach_acts {dc : Nat} {s : State} {t : State} (e : execThermalHardBreach dc s = .next t) :
    Acts [.draws, .gov, .regs, .mgmt, .log, .outbox] s t := by
  unfold execThermalHardBreach at e
  refine runs_acts (qs := [.draws, .gov, .regs, .mgmt, .log, .outbox]) (by decide) (fun ps hs hp => ?_) e
  repeat' first
    | with_reducible assumption | with_reducible refine State.noteJunction_acts ?_ (inside hp (by decide)) | intro _
    | with_reducible refine Acts.ite ?_ ?_ | dsimp only

theorem execThermalResume_acts {dc : Nat} {s : State} {t : State} (e : execThermalResume dc s = .next t) :
    Acts [.draws, .gov, .regs, .mgmt, .log, .outbox] s t := by
  unfold execThermalResume at e
  refine runs_acts (qs := [.draws, .gov, .regs, .mgmt, .log, .outbox]) (by decide) (fun ps hs hp => ?_) e
  repeat' first
    | with_reducible assumption | with_reducible refine State.noteJunction_acts ?_ (inside hp (by decide)) | intro _
    | with_reducible refine Acts.ite ?_ ?_ | dsimp only

theorem State.noteInput_acts {ps : List Part} {z : State} {s : State} {dv : Nat}
    (hs : Acts ps z s) (hp : ∀ p ∈ ([.power, .mgmt] : List Part), p ∈ ps) :
    Acts ps z (State.noteInput s dv) := by
  unfold State.noteInput
  repeat' first
    | with_reducible assumption | extract_lets | intro _ | with_reducible refine Acts.ite ?_ ?_ | dsimp only
    | with_reducible refine Acts.set_power_mgmt ?_ (hp _ (by decide)) (hp _ (by decide)) | dsimp +zetaDelta only

theorem State.samplePower_acts {ps : List Part} {z : State} {s : State} {w : Nat}
    (hs : Acts ps z s) (hp : ∀ p ∈ ([.gov, .regs, .log, .outbox] : List Part), p ∈ ps) :
    Acts ps z (State.samplePower s w) := by
  unfold State.samplePower
  repeat' first
    | with_reducible assumption | with_reducible refine State.logEvent_acts ?_ (inside hp (by decide))
    | with_reducible refine State.setNat_acts ?_ (inside hp (by decide))
    | with_reducible refine State.raise_acts ?_ (inside hp (by decide)) | extract_lets | intro _ | with_reducible refine Acts.ite ?_ ?_
    | dsimp only | with_reducible refine Acts.set_gov ?_ (hp _ (by decide)) | dsimp +zetaDelta only

theorem State.governorSample_acts {ps : List Part} {z : State} {s : State} {r : SensorReading}
    (hs : Acts ps z s) (hp : ∀ p ∈ ([.draws, .power, .gov, .regs, .mgmt, .log, .outbox] : List Part), p ∈ ps) :
    Acts ps z (State.governorSample s r) := by
  unfold State.governorSample
  repeat' first
    | with_reducible assumption | with_reducible refine State.noteJunction_acts ?_ (inside hp (by decide))
    | with_reducible refine State.samplePower_acts ?_ (inside hp (by decide))
    | with_reducible refine State.noteInlet_acts ?_ (inside hp (by decide))
    | with_reducible refine State.noteInput_acts ?_ (inside hp (by decide)) | extract_lets | with_reducible refine Acts.ite ?_ ?_
    | with_reducible refine Acts.set_mgmt ?_ (hp _ (by decide)) | dsimp +zetaDelta only

theorem execGovernorSample_acts {r : SensorReading} {now : Nat} {s : State} {t : State} (e : execGovernorSample r now s = .next t) :
    Acts [.draws, .clock, .power, .gov, .regs, .mgmt, .log, .outbox] s t := by
  unfold execGovernorSample at e
  refine runs_acts (qs := [.draws, .clock, .power, .gov, .regs, .mgmt, .log, .outbox]) (by decide) (fun ps hs hp => ?_) e
  repeat' first
    | with_reducible assumption | with_reducible refine State.governorSample_acts ?_ (inside hp (by decide))
    | with_reducible refine State.at_acts ?_ (inside hp (by decide)) | intro _ | dsimp only

end Sys2Proof.Machine
end

