-- ==== Sys2Proof/Laws/ActsResets.lean ====
section
/-! SUPPORT. What the operations of Machine/Resets.lean may do (Laws/Acts.lean): the parts each may change, the invariant kept. -/

namespace Sys2Proof.Machine

open Sys2Proof

theorem State.resetCause_acts {ps : List Part} {z : State} {s : State} {kind : Nat} {trigger : Nat} {fn : Nat} {unit : Nat}
    (hs : Acts ps z s) (hp : ∀ p ∈ ([.regs] : List Part), p ∈ ps) :
    Acts ps z (State.resetCause s kind trigger fn unit) := by
  unfold State.resetCause
  repeat' first
    | with_reducible assumption | with_reducible refine State.setNat_acts ?_ (inside hp (by decide))

theorem State.freeTrigger_acts {ps : List Part} {z : State} {s : State}
    (hs : Acts ps z s) (hp : ∀ p ∈ ([.draws] : List Part), p ∈ ps) :
    Acts ps z (State.freeTrigger s).2 := by
  unfold State.freeTrigger
  repeat' first
    | with_reducible assumption | with_reducible refine State.draw_acts ?_ (inside hp (by decide)) | extract_lets | dsimp only
    | dsimp +zetaDelta only

theorem State.raiseEnlon_acts {ps : List Part} {z : State} {s : State}
    (hs : Acts ps z s) (hp : ∀ p ∈ ([.draws, .keepsake] : List Part), p ∈ ps) :
    Acts ps z (State.raiseEnlon s) := by
  unfold State.raiseEnlon
  repeat' first
    | with_reducible assumption | with_reducible refine State.ksWrite_acts ?_ (inside hp (by decide))
    | with_reducible refine State.draw_acts ?_ (inside hp (by decide)) | extract_lets | intro _ | with_reducible refine Acts.ite ?_ ?_
    | dsimp only | dsimp +zetaDelta only

theorem State.forgetRegs_acts {ps : List Part} {z : State} {s : State} {lo : Nat} {hi : Nat}
    (hs : Acts ps z s) (hp : ∀ p ∈ ([.regs] : List Part), p ∈ ps) :
    Acts ps z (State.forgetRegs s lo hi) := by
  unfold State.forgetRegs
  repeat' first
    | with_reducible assumption | exact fun q => insert_sorted q | exact fun q => filter_sorted q | exact fun q => Mem.forget_wf q
    | exact fun q => q | intro _ | dsimp only | with_reducible refine Acts.set_regs ?_ ?_ (hp _ (by decide))

theorem State.forgetCounters_acts {ps : List Part} {z : State} {s : State} {ours : Nat → Bool}
    (hs : Acts ps z s) (hp : ∀ p ∈ ([.regs] : List Part), p ∈ ps) :
    Acts ps z (State.forgetCounters s ours) := by
  unfold State.forgetCounters
  repeat' first
    | with_reducible assumption | exact fun q => insert_sorted q | exact fun q => filter_sorted q | exact fun q => Mem.forget_wf q
    | exact fun q => q | intro _ | dsimp only | with_reducible refine Acts.set_regs ?_ ?_ (hp _ (by decide))

theorem State.stopBook_acts {ps : List Part} {z : State} {s : State}
    (hs : Acts ps z s) (hp : ∀ p ∈ ([.logbook] : List Part), p ∈ ps) :
    Acts ps z (State.stopBook s) := by
  unfold State.stopBook
  repeat' first
    | with_reducible assumption | with_reducible refine Acts.set_logbook ?_ (hp _ (by decide))

theorem State.dropChamber_acts {ps : List Part} {z : State} {s : State}
    (hs : Acts ps z s) (hp : ∀ p ∈ ([.lockage] : List Part), p ∈ ps) :
    Acts ps z (State.dropChamber s) := by
  unfold State.dropChamber
  repeat' first
    | with_reducible assumption | with_reducible refine Acts.set_chamber ?_ (hp _ (by decide))

theorem State.dropServices_acts {ps : List Part} {z : State} {s : State}
    (hs : Acts ps z s) (hp : ∀ p ∈ ([.gov, .hist, .weights, .serving, .colls, .trains, .turns, .logbook, .lockage] : List Part), p ∈ ps) :
    Acts ps z (State.dropServices s) := by
  unfold State.dropServices
  repeat' first
    | with_reducible assumption | intro _ | dsimp only
    | with_reducible refine Acts.set_gov_histWaits_sets_adapters_repairs_serving_manifest_groups_colls_trains_exports_turns_scores_occupants_logbook_commits ?_ (hp _ (by decide)) (hp _ (by decide)) (hp _ (by decide)) (hp _ (by decide)) (hp _ (by decide)) (hp _ (by decide)) (hp _ (by decide)) (hp _ (by decide)) (hp _ (by decide)) (hp _ (by decide)) (hp _ (by decide)) (hp _ (by decide)) (hp _ (by decide)) (hp _ (by decide)) (hp _ (by decide)) (hp _ (by decide))

theorem State.dropKeeperRegs_acts {ps : List Part} {z : State} {s : State}
    (hs : Acts ps z s) (hp : ∀ p ∈ ([.regs] : List Part), p ∈ ps) :
    Acts ps z (State.dropKeeperRegs s) := by
  unfold State.dropKeeperRegs
  repeat' first
    | with_reducible assumption | with_reducible refine State.histResetAll_acts ?_ (inside hp (by decide))
    | with_reducible refine State.forgetRegs_acts ?_ (inside hp (by decide)) | extract_lets | dsimp +zetaDelta only

theorem State.blank_acts {ps : List Part} {z : State} {s : State}
    (hs : Acts ps z s) (hp : ∀ p ∈ ([.spine, .draws, .clock, .power, .gov, .regs, .mem, .moving, .queues, .cmds, .units, .hist, .weights, .links, .serving, .colls, .trains, .turns, .logbook, .lockage, .panel, .mgmt, .sec, .log, .pcie, .acting] : List Part), p ∈ ps) :
    Acts ps z (State.blank s) := by
  refine hs.trans ⟨fun p h => ?_, fun q => ⟨⟨by simp [State.blank], by simp [State.blank], by simp [State.blank]⟩, rfl, rfl,
    by simp [State.blank, State.reset, EventLog.reset]⟩⟩
  cases p <;> first | exact (h (hp _ (by decide))).elim | simp [Part.same, State.blank]

theorem State.startCold_acts {ps : List Part} {z : State} {s : State} {trigger : Nat}
    (hs : Acts ps z s) (hp : ∀ p ∈ ([.spine, .draws, .clock, .power, .gov, .regs, .mem, .moving, .queues, .cmds, .units, .hist, .weights, .links, .serving, .colls, .trains, .turns, .logbook, .lockage, .panel, .mgmt, .sec, .log, .pcie, .acting] : List Part), p ∈ ps) :
    Acts ps z (State.startCold s trigger) := by
  unfold State.startCold
  repeat' first
    | with_reducible assumption | with_reducible refine State.renewNonce_acts ?_ (inside hp (by decide))
    | with_reducible refine State.resetCause_acts ?_ (inside hp (by decide))
    | with_reducible refine State.blank_acts ?_ (inside hp (by decide)) | extract_lets | with_reducible refine Acts.ite ?_ ?_
    | with_reducible refine Acts.set_power ?_ (hp _ (by decide)) | dsimp +zetaDelta only

theorem State.chooseImage_acts {ps : List Part} {z : State} {s : State} {b : BootInputs} {r}
    (hs : Acts ps z s) (hp : ∀ p ∈ ([.regs, .sec, .outbox] : List Part), p ∈ ps) (e : State.chooseImage s b = some r) :
    Acts ps z r.1 := by
  unfold State.chooseImage at e
  split at e
  · cases e
  · extract_lets x t at e
    have ht : Acts ps z t := Acts.set_sec hs (hp _ (by decide))
    clear_value t x
    split at e
    · cases e; exact Acts.set_sec ht (hp _ (by decide))
    · cases e
      dsimp only
      split
      · exact Acts.set_sec ht (hp _ (by decide))
      · refine State.raise_acts ?_ (inside hp (by decide))
        exact Acts.set_sec (Acts.set_sec ht (hp _ (by decide))) (hp _ (by decide))

theorem State.advanceSvn_acts {ps : List Part} {z : State} {s : State}
    (hs : Acts ps z s) (hp : ∀ p ∈ ([.regs, .sec, .outbox] : List Part), p ∈ ps) :
    Acts ps z (State.advanceSvn s) := by
  unfold State.advanceSvn
  repeat' first
    | with_reducible assumption | with_reducible refine State.raise_acts ?_ (inside hp (by decide)) | extract_lets
    | with_reducible refine Acts.ite ?_ ?_ | with_reducible refine Acts.set_sec ?_ (hp _ (by decide)) | dsimp +zetaDelta only

theorem State.enterRecovery_acts {ps : List Part} {z : State} {s : State}
    (hs : Acts ps z s) (hp : ∀ p ∈ ([.power, .mgmt] : List Part), p ∈ ps) :
    Acts ps z (State.enterRecovery s) := by
  unfold State.enterRecovery
  repeat' first
    | with_reducible assumption | with_reducible refine State.toPower_acts ?_ (inside hp (by decide))
    | with_reducible refine Acts.set_power ?_ (hp _ (by decide))

theorem State.checkKeepsake_acts {ps : List Part} {z : State} {s : State} {decay : List (Nat × Byte)}
    (hs : Acts ps z s) (hp : ∀ p ∈ ([.regs, .keepsake, .log, .outbox] : List Part), p ∈ ps) :
    Acts ps z (State.checkKeepsake s decay) := by
  unfold State.checkKeepsake
  repeat' first
    | with_reducible assumption | with_reducible refine State.logEvent_acts ?_ (inside hp (by decide))
    | with_reducible refine State.tamper_acts ?_ (inside hp (by decide))
    | with_reducible refine State.raise_acts ?_ (inside hp (by decide)) | extract_lets | with_reducible refine Acts.ite ?_ ?_ | split
    | with_reducible refine Acts.set_keepsake ?_ (hp _ (by decide)) | dsimp +zetaDelta only

theorem State.mapSockets_acts {ps : List Part} {z : State} {s : State}
    (hs : Acts ps z s) (hp : ∀ p ∈ ([.panel, .mgmt] : List Part), p ∈ ps) :
    Acts ps z (State.mapSockets s) := by
  unfold State.mapSockets
  repeat' first
    | with_reducible assumption | with_reducible refine State.putSocket_acts ?_ (inside hp (by decide))
    | with_reducible refine Acts.foldl ?_ ?_ | intro _ | with_reducible refine Acts.ite ?_ ?_ | dsimp only

theorem State.restore_acts {ps : List Part} {z : State} {s : State} {sockets : List (Nat × Option ReachModule)}
    (hs : Acts ps z s) (hp : ∀ p ∈ ([.regs, .panel, .mgmt, .log, .outbox] : List Part), p ∈ ps) :
    Acts ps z (State.restore s sockets) := by
  unfold State.restore
  repeat' first
    | with_reducible assumption | with_reducible refine State.restoreSettings_acts ?_ (inside hp (by decide))
    | with_reducible refine State.histResetAll_acts ?_ (inside hp (by decide))
    | with_reducible refine State.mapSockets_acts ?_ (inside hp (by decide))
    | with_reducible refine State.putSocket_acts ?_ (inside hp (by decide)) | with_reducible refine Acts.foldl ?_ ?_
    | with_reducible refine Acts.foldl_fst ?_ ?_ | with_reducible refine Acts.foldl_snd ?_ ?_ | extract_lets | intro _
    | with_reducible refine Acts.ite ?_ ?_ | dsimp only | dsimp +zetaDelta only

theorem State.copyEvents_acts {ps : List Part} {z : State} {s : State}
    (hs : Acts ps z s) (hp : ∀ p ∈ ([.keepsake, .log, .outbox] : List Part), p ∈ ps) :
    Acts ps z (State.copyEvents s) := by
  unfold State.copyEvents
  repeat' first
    | with_reducible assumption | with_reducible refine State.logEvent_acts ?_ (inside hp (by decide))
    | with_reducible refine State.ksWrite_acts ?_ (inside hp (by decide)) | with_reducible refine Acts.foldl ?_ ?_ | extract_lets
    | intro _ | with_reducible refine Acts.ite ?_ ?_ | dsimp only | dsimp +zetaDelta only

theorem State.measureCell_acts {ps : List Part} {z : State} {s : State} {mv : Nat}
    (hs : Acts ps z s) (hp : ∀ p ∈ ([.clock, .regs, .panel, .mgmt, .outbox] : List Part), p ∈ ps) :
    Acts ps z (State.measureCell s mv) := by
  unfold State.measureCell
  repeat' first
    | with_reducible assumption | with_reducible refine State.raisePanel_acts ?_ (inside hp (by decide)) | extract_lets
    | with_reducible refine Acts.ite ?_ ?_ | with_reducible refine Acts.set_clock_panel ?_ (hp _ (by decide)) (hp _ (by decide))
    | dsimp +zetaDelta only

theorem State.leaveService_acts {ps : List Part} {z : State} {s : State}
    (hs : Acts ps z s) (hp : ∀ p ∈ ([.regs, .keepsake, .mgmt, .sec, .log, .outbox, .pcie] : List Part), p ∈ ps) :
    Acts ps z (State.leaveService s) := by
  unfold State.leaveService
  repeat' first
    | with_reducible assumption | with_reducible refine State.clearLocket_acts ?_ (inside hp (by decide))
    | with_reducible refine State.burnFuse_acts ?_ (inside hp (by decide)) | with_reducible refine Acts.ite ?_ ?_

theorem State.bootUnseal_acts {ps : List Part} {z : State} {s : State} {verifies : Bool}
    (hs : Acts ps z s) (hp : ∀ p ∈ ([.sec] : List Part), p ∈ ps) :
    Acts ps z (State.bootUnseal s verifies) := by
  unfold State.bootUnseal
  repeat' first
    | with_reducible assumption | with_reducible refine State.unseal_acts ?_ (inside hp (by decide))
    | with_reducible refine Acts.set_sec ?_ (hp _ (by decide))

theorem State.trainStacks_acts {ps : List Part} {z : State} {s : State} {failed : List Nat}
    (hs : Acts ps z s) (hp : ∀ p ∈ ([.clock, .regs, .mem, .log, .outbox] : List Part), p ∈ ps) :
    Acts ps z (State.trainStacks s failed) := by
  unfold State.trainStacks
  repeat' first
    | with_reducible assumption | with_reducible refine State.raise_acts ?_ (inside hp (by decide))
    | with_reducible refine State.fatal_acts ?_ (inside hp (by decide)) | with_reducible refine Acts.foldl ?_ ?_ | extract_lets
    | exact fun q => insert_sorted q | exact fun q => filter_sorted q | exact fun q => Mem.forget_wf q | exact fun q => q | intro _
    | with_reducible refine Acts.ite ?_ ?_ | dsimp only | with_reducible refine Acts.set_mem ?_ ?_ (hp _ (by decide))
    | dsimp +zetaDelta only

theorem State.powerUp_acts {ps : List Part} {z : State} {s : State} {b : BootInputs}
    (hs : Acts ps z s) (hp : ∀ p ∈ ([.draws, .clock, .power, .gov, .regs, .mem, .keepsake, .panel, .mgmt, .sec, .log, .outbox, .pcie] : List Part), p ∈ ps) :
    Acts ps z (State.powerUp s b) := by
  unfold State.powerUp
  repeat' first
    | with_reducible assumption | with_reducible refine State.enterRecovery_acts ?_ (inside hp (by decide))
    | with_reducible refine State.readHallmarks_acts ?_ (inside hp (by decide))
    | with_reducible refine State.checkKeepsake_acts ?_ (inside hp (by decide))
    | with_reducible refine State.leaveService_acts ?_ (inside hp (by decide))
    | with_reducible refine State.chooseImage_acts ?_ (inside hp (by decide)) (by with_reducible assumption)
    | with_reducible refine State.measureCell_acts ?_ (inside hp (by decide))
    | with_reducible refine State.trainStacks_acts ?_ (inside hp (by decide))
    | with_reducible refine State.clearLocket_acts ?_ (inside hp (by decide))
    | with_reducible refine State.raiseEnlon_acts ?_ (inside hp (by decide))
    | with_reducible refine State.copyEvents_acts ?_ (inside hp (by decide))
    | with_reducible refine State.advanceSvn_acts ?_ (inside hp (by decide))
    | with_reducible refine State.bootUnseal_acts ?_ (inside hp (by decide))
    | with_reducible refine State.applyPlan_acts ?_ (inside hp (by decide))
    | with_reducible refine State.toPower_acts ?_ (inside hp (by decide))
    | with_reducible refine State.restore_acts ?_ (inside hp (by decide)) | extract_lets | with_reducible refine Acts.ite ?_ ?_ | split
    | with_reducible refine Acts.set_clock ?_ (hp _ (by decide)) | with_reducible refine Acts.set_power ?_ (hp _ (by decide))
    | dsimp +zetaDelta only

theorem State.bootWarm_acts {ps : List Part} {z : State} {s : State} {b : BootInputs}
    (hs : Acts ps z s) (hp : ∀ p ∈ ([.clock, .power, .regs, .mgmt, .sec, .outbox] : List Part), p ∈ ps) :
    Acts ps z (State.bootWarm s b) := by
  unfold State.bootWarm
  repeat' first
    | with_reducible assumption | with_reducible refine State.enterRecovery_acts ?_ (inside hp (by decide))
    | with_reducible refine State.chooseImage_acts ?_ (inside hp (by decide)) (by with_reducible assumption)
    | with_reducible refine State.advanceSvn_acts ?_ (inside hp (by decide))
    | with_reducible refine State.bootUnseal_acts ?_ (inside hp (by decide))
    | with_reducible refine State.placeGrant_acts ?_ (inside hp (by decide)) | extract_lets | with_reducible refine Acts.ite ?_ ?_ | split
    | with_reducible refine Acts.set_clock_power ?_ (hp _ (by decide)) (hp _ (by decide))
    | with_reducible refine Acts.set_sec ?_ (hp _ (by decide)) | with_reducible refine Acts.set_power ?_ (hp _ (by decide))
    | dsimp +zetaDelta only

theorem State.raiseAll_acts {ps : List Part} {z : State} {s : State}
    (hs : Acts ps z s) (hp : ∀ p ∈ ([.spine] : List Part), p ∈ ps) :
    Acts ps z (State.raiseAll s) := by
  unfold State.raiseAll
  repeat' first
    | with_reducible assumption | with_reducible refine State.raiseUnit_acts ?_ (inside hp (by decide))
    | with_reducible refine State.raiseFunc_acts ?_ (inside hp (by decide)) | with_reducible refine Acts.foldl ?_ ?_ | extract_lets
    | intro _ | dsimp only | dsimp +zetaDelta only

theorem State.warmPort_acts {ps : List Part} {z : State} {s : State} {p : Nat}
    (hs : Acts ps z s) (hp : ∀ p ∈ ([.regs, .links, .mgmt, .log, .outbox] : List Part), p ∈ ps) :
    Acts ps z (State.warmPort s p) := by
  unfold State.warmPort
  repeat' first
    | with_reducible assumption | with_reducible refine State.logEvent_acts ?_ (inside hp (by decide))
    | with_reducible refine State.updPort_acts ?_ (inside hp (by decide))
    | with_reducible refine State.raise_acts ?_ (inside hp (by decide)) | extract_lets | intro _ | with_reducible refine Acts.ite ?_ ?_
    | dsimp only | dsimp +zetaDelta only

theorem State.dropQueues_acts {ps : List Part} {z : State} {s : State}
    (hs : Acts ps z s) (hp : ∀ p ∈ ([.regs, .queues, .cmds] : List Part), p ∈ ps) :
    Acts ps z (State.dropQueues s) := by
  unfold State.dropQueues
  repeat' first
    | with_reducible assumption | extract_lets | exact fun q => insert_sorted q | exact fun q => filter_sorted q
    | exact fun q => Mem.forget_wf q | exact fun q => q | intro _ | dsimp only
    | with_reducible refine Acts.set_regs_oldRegs_heldHigh_heldLow_hellos_queues_inflight_reports ?_ ?_ (hp _ (by decide)) (hp _ (by decide)) (hp _ (by decide)) (hp _ (by decide)) (hp _ (by decide)) (hp _ (by decide)) (hp _ (by decide)) (hp _ (by decide))
    | dsimp +zetaDelta only

theorem State.warm_acts {ps : List Part} {z : State} {s : State} {trigger : Nat}
    (hs : Acts ps z s) (hp : ∀ p ∈ ([.spine, .draws, .power, .gov, .regs, .mem, .moving, .queues, .cmds, .hist, .weights, .links, .serving, .colls, .trains, .turns, .logbook, .lockage, .keepsake, .mgmt, .sec, .log, .outbox, .pcie] : List Part), p ∈ ps) :
    Acts ps z (State.warm s trigger) := by
  unfold State.warm
  split
  · exact hs
  extract_lets t0 t u c1 c2 c3 c4 v w x c5
  have h0 : Acts ps z t0 := Acts.ite (State.endDebug_acts hs (inside hp (by decide))) hs
  have ht : Acts ps z t := State.writeBackAll_acts h0 (inside hp (by decide))
  clear_value t
  have hu : Acts ps z u :=
    State.forgetCounters_acts (State.dropKeeperRegs_acts (State.dropChamber_acts (State.dropQueues_acts (State.dropServices_acts ht
      (inside hp (by decide))) (inside hp (by decide))) (inside hp (by decide))) (inside hp (by decide))) (inside hp (by decide))
  clear_value u
  have hv : Acts ps z v := by
    exact Acts.set_power_mem_segChanges_adapterView_manifestView_clears_logbook_mgmt_sec hu (hp _ (by decide))
      (fun q => Mem.forget_wf (Mem.forget_wf q)) (hp _ (by decide)) (hp _ (by decide)) (hp _ (by decide)) (hp _ (by decide))
      (hp _ (by decide)) (hp _ (by decide)) (hp _ (by decide)) (hp _ (by decide))
  clear_value v
  have hw : Acts ps z w :=
    State.raiseEnlon_acts (Acts.foldl hv fun v p h => State.warmPort_acts h (inside hp (by decide))) (inside hp (by decide))
  clear_value w
  have hx : Acts ps z x := State.resetCause_acts (State.raiseAll_acts (State.renewNonce_acts (State.clearLocket_acts hw (inside hp (by decide)))
    (inside hp (by decide))) (inside hp (by decide))) (inside hp (by decide))
  exact Acts.set_power hx (hp _ (by decide))

theorem State.restartCmd_acts {ps : List Part} {z : State} {s : State} {c : Cmd}
    (hs : Acts ps z s) (hp : ∀ p ∈ ([.draws, .regs, .mem, .host, .cmds, .outbox, .acting] : List Part), p ∈ ps) :
    Acts ps z (State.restartCmd s c) := by
  unfold State.restartCmd
  repeat' first
    | with_reducible assumption | with_reducible refine State.undefineOutputs_acts ?_ (inside hp (by decide))
    | with_reducible refine State.leaveUnits_acts ?_ (inside hp (by decide))
    | with_reducible refine State.finish_acts ?_ (inside hp (by decide)) | extract_lets | with_reducible refine Acts.ite ?_ ?_
    | dsimp +zetaDelta only

theorem State.dropInbox_acts {ps : List Part} {z : State} {s : State} {p : Nat}
    (hs : Acts ps z s) (hp : ∀ p ∈ ([.links, .mgmt, .outbox] : List Part), p ∈ ps) :
    Acts ps z (State.dropInbox s p) := by
  unfold State.dropInbox
  repeat' first
    | with_reducible assumption | with_reducible refine State.consume_acts ?_ (inside hp (by decide))
    | with_reducible refine Acts.foldl ?_ ?_ | intro _ | dsimp only

theorem State.keeperComplex_acts {ps : List Part} {z : State} {s : State} {trigger : Nat} {but : Option CmdRef}
    (hs : Acts ps z s) (hp : ∀ p ∈ ([.spine, .draws, .power, .gov, .regs, .mem, .host, .queues, .cmds, .hist, .weights, .links, .serving, .colls, .trains, .turns, .logbook, .lockage, .keepsake, .mgmt, .log, .outbox, .acting] : List Part), p ∈ ps) :
    Acts ps z (State.keeperComplex s trigger but) := by
  unfold State.keeperComplex
  repeat' first
    | with_reducible assumption | with_reducible refine State.dropKeeperRegs_acts ?_ (inside hp (by decide))
    | with_reducible refine State.forgetCounters_acts ?_ (inside hp (by decide))
    | with_reducible refine State.dropServices_acts ?_ (inside hp (by decide))
    | with_reducible refine State.dropChamber_acts ?_ (inside hp (by decide))
    | with_reducible refine State.dropBacklog_acts ?_ (inside hp (by decide))
    | with_reducible refine State.raiseEnlon_acts ?_ (inside hp (by decide))
    | with_reducible refine State.resetCause_acts ?_ (inside hp (by decide))
    | with_reducible refine State.restartCmd_acts ?_ (inside hp (by decide))
    | with_reducible refine State.raiseFunc_acts ?_ (inside hp (by decide))
    | with_reducible refine State.dropInbox_acts ?_ (inside hp (by decide))
    | with_reducible refine State.unquiesce_acts ?_ (inside hp (by decide))
    | with_reducible refine State.raiseUnit_acts ?_ (inside hp (by decide))
    | with_reducible refine State.endEntry_acts ?_ (inside hp (by decide))
    | with_reducible refine State.raise_acts ?_ (inside hp (by decide)) | with_reducible refine Acts.foldl ?_ ?_
    | with_reducible refine Acts.foldl_fst ?_ ?_ | with_reducible refine Acts.foldl_snd ?_ ?_ | extract_lets | intro _ | dsimp only
    | with_reducible refine Acts.set_power ?_ (hp _ (by decide)) | dsimp +zetaDelta only

theorem State.oneKeeper_acts {ps : List Part} {z : State} {s : State} {k : Nat}
    (hs : Acts ps z s) (hp : ∀ p ∈ ([.spine, .draws, .power, .gov, .regs, .mem, .host, .cmds, .weights, .links, .serving, .colls, .trains, .turns, .logbook, .lockage, .panel, .mgmt, .outbox, .acting] : List Part), p ∈ ps) :
    Acts ps z (State.oneKeeper s k) := by
  unfold State.oneKeeper
  repeat' first
    | with_reducible assumption | with_reducible refine State.abandonCmd_acts ?_ (inside hp (by decide))
    | with_reducible refine State.resetCause_acts ?_ (inside hp (by decide))
    | with_reducible refine State.raiseUnit_acts ?_ (inside hp (by decide))
    | with_reducible refine State.stopBook_acts ?_ (inside hp (by decide))
    | with_reducible refine State.finish_acts ?_ (inside hp (by decide))
    | with_reducible refine State.raise_acts ?_ (inside hp (by decide)) | with_reducible refine Acts.foldl ?_ ?_ | extract_lets | intro _
    | with_reducible refine Acts.ite ?_ ?_ | split | dsimp only | dsimp +zetaDelta only

theorem State.keeperParity_acts {ps : List Part} {z : State} {s : State} {k : Nat}
    (hs : Acts ps z s) (hp : ∀ p ∈ ([.spine, .draws, .power, .gov, .regs, .mem, .host, .queues, .cmds, .hist, .weights, .links, .serving, .colls, .trains, .turns, .logbook, .lockage, .keepsake, .panel, .mgmt, .log, .outbox, .acting] : List Part), p ∈ ps) :
    Acts ps z (State.keeperParity s k) := by
  unfold State.keeperParity
  repeat' first
    | with_reducible assumption | with_reducible refine State.keeperComplex_acts ?_ (inside hp (by decide))
    | with_reducible refine State.raiseUnit_acts ?_ (inside hp (by decide))
    | with_reducible refine State.oneKeeper_acts ?_ (inside hp (by decide))
    | with_reducible refine State.logEvent_acts ?_ (inside hp (by decide))
    | with_reducible refine State.setNat_acts ?_ (inside hp (by decide)) | extract_lets | with_reducible refine Acts.ite ?_ ?_
    | dsimp +zetaDelta only

theorem State.closeServices_acts {ps : List Part} {z : State} {s : State} {qs : List Nat}
    (hs : Acts ps z s) (hp : ∀ p ∈ ([.draws, .regs, .mem, .host, .queues, .cmds, .weights, .links, .serving, .colls, .trains, .turns, .logbook, .lockage, .mgmt, .log, .outbox] : List Part), p ∈ ps) :
    Acts ps z (State.closeServices s qs) := by
  unfold State.closeServices
  repeat' first
    | with_reducible assumption | with_reducible refine State.awaitCommit_acts ?_ (inside hp (by decide))
    | with_reducible refine State.dropBacklog_acts ?_ (inside hp (by decide))
    | with_reducible refine State.closeIfDone_acts ?_ (inside hp (by decide))
    | with_reducible refine State.cutEntries_acts ?_ (inside hp (by decide))
    | with_reducible refine State.stepReport_acts ?_ (inside hp (by decide))
    | with_reducible refine State.updServing_acts ?_ (inside hp (by decide))
    | with_reducible refine State.updTrain_acts ?_ (inside hp (by decide))
    | with_reducible refine State.boundary_acts ?_ (inside hp (by decide))
    | with_reducible refine State.endStep_acts ?_ (inside hp (by decide)) | with_reducible refine Acts.foldl ?_ ?_
    | with_reducible refine Acts.foldl_fst ?_ ?_ | with_reducible refine Acts.foldl_snd ?_ ?_ | extract_lets | intro _
    | with_reducible refine Acts.ite ?_ ?_ | split | dsimp only
    | with_reducible refine Acts.set_reports_serving_manifest_trains_exports_turns_scores ?_ (hp _ (by decide)) (hp _ (by decide)) (hp _ (by decide)) (hp _ (by decide)) (hp _ (by decide)) (hp _ (by decide)) (hp _ (by decide))
    | dsimp +zetaDelta only

theorem State.functionReset_acts {ps : List Part} {z : State} {s : State} {fn : Nat}
    (hs : Acts ps z s) (hp : ∀ p ∈ ([.spine, .draws, .power, .gov, .regs, .mem, .host, .queues, .cmds, .hist, .weights, .links, .serving, .colls, .trains, .turns, .logbook, .lockage, .panel, .mgmt, .sec, .log, .outbox, .acting] : List Part), p ∈ ps) :
    Acts ps z (State.functionReset s fn) := by
  unfold State.functionReset
  repeat' first
    | with_reducible assumption | with_reducible refine State.closeServices_acts ?_ (inside hp (by decide))
    | with_reducible refine State.awaitCommit_acts ?_ (inside hp (by decide))
    | with_reducible refine State.resetCause_acts ?_ (inside hp (by decide))
    | with_reducible refine State.emptyQueue_acts ?_ (inside hp (by decide))
    | with_reducible refine State.forgetRegs_acts ?_ (inside hp (by decide))
    | with_reducible refine State.eraseQueue_acts ?_ (inside hp (by decide))
    | with_reducible refine State.raiseFunc_acts ?_ (inside hp (by decide))
    | with_reducible refine State.stopBook_acts ?_ (inside hp (by decide))
    | with_reducible refine State.raise_acts ?_ (inside hp (by decide)) | with_reducible refine Acts.foldl ?_ ?_
    | with_reducible refine Acts.foldl_fst ?_ ?_ | with_reducible refine Acts.foldl_snd ?_ ?_ | extract_lets | intro _
    | with_reducible refine Acts.ite ?_ ?_ | dsimp only | with_reducible refine Acts.set_hellos ?_ (hp _ (by decide))
    | dsimp +zetaDelta only

theorem State.resetCtrl_acts {ps : List Part} {z : State} {s : State} {v : Word} {cold : Bool}
    (hs : Acts ps z s) (hp : ∀ p ∈ ([.spine, .draws, .clock, .power, .gov, .regs, .mem, .moving, .queues, .cmds, .units, .hist, .weights, .links, .serving, .colls, .trains, .turns, .logbook, .lockage, .keepsake, .panel, .mgmt, .sec, .log, .outbox, .pcie, .acting] : List Part), p ∈ ps) :
    Acts ps z (State.resetCtrl s v cold) := by
  unfold State.resetCtrl
  repeat' first
    | with_reducible assumption | with_reducible refine State.logDiscard_acts ?_ (inside hp (by decide))
    | with_reducible refine State.startCold_acts ?_ (inside hp (by decide))
    | with_reducible refine State.warm_acts ?_ (inside hp (by decide)) | extract_lets | with_reducible refine Acts.ite ?_ ?_
    | dsimp +zetaDelta only

theorem execResetCtrlCold_acts {v : Word} {s : State} {t : State} (e : execResetCtrlCold v s = .next t) :
    Acts [.spine, .draws, .clock, .power, .gov, .regs, .mem, .moving, .queues, .cmds, .units, .hist, .weights, .links, .serving, .colls, .trains, .turns, .logbook, .lockage, .keepsake, .panel, .mgmt, .sec, .log, .outbox, .pcie] s t := by
  unfold execResetCtrlCold at e
  refine runsSpine_acts (qs := [.spine, .draws, .clock, .power, .gov, .regs, .mem, .moving, .queues, .cmds, .units, .hist, .weights, .links, .serving, .colls, .trains, .turns, .logbook, .lockage, .keepsake, .panel, .mgmt, .sec, .log, .outbox, .pcie, .acting]) (by decide) (fun ps hs hp => ?_) e
  repeat' first
    | with_reducible assumption | with_reducible refine State.resetCtrl_acts ?_ (inside hp (by decide)) | intro _
    | with_reducible refine Acts.ite ?_ ?_ | dsimp only

theorem execResetCtrlWarm_acts {v : Word} {s : State} {t : State} (e : execResetCtrlWarm v s = .next t) :
    Acts [.spine, .draws, .clock, .power, .gov, .regs, .mem, .moving, .queues, .cmds, .units, .hist, .weights, .links, .serving, .colls, .trains, .turns, .logbook, .lockage, .keepsake, .panel, .mgmt, .sec, .log, .outbox, .pcie] s t := by
  unfold execResetCtrlWarm at e
  refine runsSpine_acts (qs := [.spine, .draws, .clock, .power, .gov, .regs, .mem, .moving, .queues, .cmds, .units, .hist, .weights, .links, .serving, .colls, .trains, .turns, .logbook, .lockage, .keepsake, .panel, .mgmt, .sec, .log, .outbox, .pcie, .acting]) (by decide) (fun ps hs hp => ?_) e
  repeat' first
    | with_reducible assumption | with_reducible refine State.resetCtrl_acts ?_ (inside hp (by decide)) | intro _
    | with_reducible refine Acts.ite ?_ ?_ | dsimp only

theorem execPerstNAssert_acts {s : State} {t : State} (e : execPerstNAssert s = .next t) :
    Acts [.spine, .draws, .clock, .power, .gov, .regs, .mem, .moving, .queues, .cmds, .units, .hist, .weights, .links, .serving, .colls, .trains, .turns, .logbook, .lockage, .panel, .mgmt, .sec, .log, .pcie] s t := by
  unfold execPerstNAssert at e
  refine runsSpine_acts (qs := [.spine, .draws, .clock, .power, .gov, .regs, .mem, .moving, .queues, .cmds, .units, .hist, .weights, .links, .serving, .colls, .trains, .turns, .logbook, .lockage, .panel, .mgmt, .sec, .log, .pcie, .acting]) (by decide) (fun ps hs hp => ?_) e
  repeat' first
    | with_reducible assumption | with_reducible refine State.startCold_acts ?_ (inside hp (by decide)) | extract_lets | intro _
    | with_reducible refine Acts.ite ?_ ?_ | dsimp only | with_reducible refine Acts.set_power ?_ (hp _ (by decide))
    | dsimp +zetaDelta only

theorem execPerstNRelease_acts {s : State} {t : State} (e : execPerstNRelease s = .next t) :
    Acts [.power] s t := by
  unfold execPerstNRelease at e
  refine runs_acts (qs := [.power]) (by decide) (fun ps hs hp => ?_) e
  repeat' first
    | with_reducible assumption | intro _ | dsimp only | with_reducible refine Acts.set_power ?_ (hp _ (by decide))

theorem execPcieHotReset_acts {s : State} {t : State} (e : execPcieHotReset s = .next t) :
    Acts [.spine, .draws, .power, .gov, .regs, .mem, .moving, .queues, .cmds, .hist, .weights, .links, .serving, .colls, .trains, .turns, .logbook, .lockage, .keepsake, .mgmt, .sec, .log, .outbox, .pcie] s t := by
  unfold execPcieHotReset at e
  refine runsSpine_acts (qs := [.spine, .draws, .power, .gov, .regs, .mem, .moving, .queues, .cmds, .hist, .weights, .links, .serving, .colls, .trains, .turns, .logbook, .lockage, .keepsake, .mgmt, .sec, .log, .outbox, .pcie]) (by decide) (fun ps hs hp => ?_) e
  repeat' first
    | with_reducible assumption | with_reducible refine State.warm_acts ?_ (inside hp (by decide)) | intro _
    | with_reducible refine Acts.ite ?_ ?_ | dsimp only

theorem execFlrPf0_acts {s : State} {t : State} (e : execFlrPf0 s = .next t) :
    Acts [.spine, .draws, .power, .gov, .regs, .mem, .moving, .queues, .cmds, .hist, .weights, .links, .serving, .colls, .trains, .turns, .logbook, .lockage, .keepsake, .mgmt, .sec, .log, .outbox, .pcie] s t := by
  unfold execFlrPf0 at e
  refine runsSpine_acts (qs := [.spine, .draws, .power, .gov, .regs, .mem, .moving, .queues, .cmds, .hist, .weights, .links, .serving, .colls, .trains, .turns, .logbook, .lockage, .keepsake, .mgmt, .sec, .log, .outbox, .pcie]) (by decide) (fun ps hs hp => ?_) e
  repeat' first
    | with_reducible assumption | with_reducible refine State.warm_acts ?_ (inside hp (by decide)) | intro _
    | with_reducible refine Acts.ite ?_ ?_ | dsimp only

theorem execFlrVf_acts {fn : Nat} {s : State} {t : State} (e : execFlrVf fn s = .next t) :
    Acts [.spine, .draws, .power, .gov, .regs, .mem, .host, .queues, .cmds, .hist, .weights, .links, .serving, .colls, .trains, .turns, .logbook, .lockage, .panel, .mgmt, .sec, .log, .outbox] s t := by
  unfold execFlrVf at e
  refine runsSpine_acts (qs := [.spine, .draws, .power, .gov, .regs, .mem, .host, .queues, .cmds, .hist, .weights, .links, .serving, .colls, .trains, .turns, .logbook, .lockage, .panel, .mgmt, .sec, .log, .outbox, .acting]) (by decide) (fun ps hs hp => ?_) e
  repeat' first
    | with_reducible assumption | with_reducible refine State.functionReset_acts ?_ (inside hp (by decide)) | intro _
    | with_reducible refine Acts.ite ?_ ?_ | dsimp only

theorem execColdReset_acts {boot : BootInputs} {s : State} {t : State} (e : execColdReset boot s = .next t) :
    Acts [.spine, .draws, .clock, .power, .gov, .regs, .mem, .moving, .queues, .cmds, .units, .hist, .weights, .links, .serving, .colls, .trains, .turns, .logbook, .lockage, .keepsake, .panel, .mgmt, .sec, .log, .outbox, .pcie] s t := by
  unfold execColdReset at e
  refine runsSpine_acts (qs := [.spine, .draws, .clock, .power, .gov, .regs, .mem, .moving, .queues, .cmds, .units, .hist, .weights, .links, .serving, .colls, .trains, .turns, .logbook, .lockage, .keepsake, .panel, .mgmt, .sec, .log, .outbox, .pcie, .acting]) (by decide) (fun ps hs hp => ?_) e
  repeat' first
    | with_reducible assumption | with_reducible refine State.freeTrigger_acts ?_ (inside hp (by decide))
    | with_reducible refine State.startCold_acts ?_ (inside hp (by decide))
    | with_reducible refine State.powerUp_acts ?_ (inside hp (by decide)) | extract_lets | intro _ | with_reducible refine Acts.ite ?_ ?_
    | dsimp only | dsimp +zetaDelta only

theorem execWarmReset_acts {boot : BootInputs} {s : State} {t : State} (e : execWarmReset boot s = .next t) :
    Acts [.spine, .draws, .clock, .power, .gov, .regs, .mem, .moving, .queues, .cmds, .hist, .weights, .links, .serving, .colls, .trains, .turns, .logbook, .lockage, .keepsake, .mgmt, .sec, .log, .outbox, .pcie] s t := by
  unfold execWarmReset at e
  refine runsSpine_acts (qs := [.spine, .draws, .clock, .power, .gov, .regs, .mem, .moving, .queues, .cmds, .hist, .weights, .links, .serving, .colls, .trains, .turns, .logbook, .lockage, .keepsake, .mgmt, .sec, .log, .outbox, .pcie]) (by decide) (fun ps hs hp => ?_) e
  repeat' first
    | with_reducible assumption | with_reducible refine State.freeTrigger_acts ?_ (inside hp (by decide))
    | with_reducible refine State.bootWarm_acts ?_ (inside hp (by decide))
    | with_reducible refine State.warm_acts ?_ (inside hp (by decide)) | extract_lets | intro _ | with_reducible refine Acts.ite ?_ ?_
    | dsimp only | dsimp +zetaDelta only

theorem execPerFunctionReset_acts {fn : Nat} {s : State} {t : State} (e : execPerFunctionReset fn s = .next t) :
    Acts [.spine, .draws, .power, .gov, .regs, .mem, .host, .queues, .cmds, .hist, .weights, .links, .serving, .colls, .trains, .turns, .logbook, .lockage, .panel, .mgmt, .sec, .log, .outbox] s t := by
  unfold execPerFunctionReset at e
  refine runsSpine_acts (qs := [.spine, .draws, .power, .gov, .regs, .mem, .host, .queues, .cmds, .hist, .weights, .links, .serving, .colls, .trains, .turns, .logbook, .lockage, .panel, .mgmt, .sec, .log, .outbox, .acting]) (by decide) (fun ps hs hp => ?_) e
  repeat' first
    | with_reducible assumption | with_reducible refine State.functionReset_acts ?_ (inside hp (by decide)) | intro _
    | with_reducible refine Acts.ite ?_ ?_ | dsimp only

theorem execKeeperComplexReset_acts {s : State} {t : State} (e : execKeeperComplexReset s = .next t) :
    Acts [.spine, .draws, .power, .gov, .regs, .mem, .host, .queues, .cmds, .hist, .weights, .links, .serving, .colls, .trains, .turns, .logbook, .lockage, .keepsake, .mgmt, .log, .outbox] s t := by
  unfold execKeeperComplexReset at e
  refine runsSpine_acts (qs := [.spine, .draws, .power, .gov, .regs, .mem, .host, .queues, .cmds, .hist, .weights, .links, .serving, .colls, .trains, .turns, .logbook, .lockage, .keepsake, .mgmt, .log, .outbox, .acting]) (by decide) (fun ps hs hp => ?_) e
  repeat' first
    | with_reducible assumption | with_reducible refine State.keeperComplex_acts ?_ (inside hp (by decide))
    | with_reducible refine State.freeTrigger_acts ?_ (inside hp (by decide)) | extract_lets | intro _
    | with_reducible refine Acts.ite ?_ ?_ | dsimp only | dsimp +zetaDelta only

theorem execKeeperFirmwareFault_acts {s : State} {t : State} (e : execKeeperFirmwareFault s = .next t) :
    Acts [.spine, .draws, .power, .gov, .regs, .mem, .host, .queues, .cmds, .hist, .weights, .links, .serving, .colls, .trains, .turns, .logbook, .lockage, .keepsake, .mgmt, .log, .outbox] s t := by
  unfold execKeeperFirmwareFault at e
  refine runsSpine_acts (qs := [.spine, .draws, .power, .gov, .regs, .mem, .host, .queues, .cmds, .hist, .weights, .links, .serving, .colls, .trains, .turns, .logbook, .lockage, .keepsake, .mgmt, .log, .outbox, .acting]) (by decide) (fun ps hs hp => ?_) e
  repeat' first
    | with_reducible assumption | with_reducible refine State.keeperComplex_acts ?_ (inside hp (by decide)) | intro _
    | with_reducible refine Acts.ite ?_ ?_ | dsimp only

theorem execKeeperBankParity_acts {keeper : Nat} {s : State} {t : State} (e : execKeeperBankParity keeper s = .next t) :
    Acts [.spine, .draws, .power, .gov, .regs, .mem, .host, .queues, .cmds, .hist, .weights, .links, .serving, .colls, .trains, .turns, .logbook, .lockage, .keepsake, .panel, .mgmt, .log, .outbox] s t := by
  unfold execKeeperBankParity at e
  refine runsSpine_acts (qs := [.spine, .draws, .power, .gov, .regs, .mem, .host, .queues, .cmds, .hist, .weights, .links, .serving, .colls, .trains, .turns, .logbook, .lockage, .keepsake, .panel, .mgmt, .log, .outbox, .acting]) (by decide) (fun ps hs hp => ?_) e
  repeat' first
    | with_reducible assumption | with_reducible refine State.keeperParity_acts ?_ (inside hp (by decide)) | intro _
    | with_reducible refine Acts.ite ?_ ?_ | dsimp only

theorem execPowerUpToIdle_acts {boot : BootInputs} {s : State} {t : State} (e : execPowerUpToIdle boot s = .next t) :
    Acts [.spine, .draws, .clock, .power, .gov, .regs, .mem, .keepsake, .panel, .mgmt, .sec, .log, .outbox, .pcie] s t := by
  unfold execPowerUpToIdle at e
  refine runsSpine_acts (qs := [.spine, .draws, .clock, .power, .gov, .regs, .mem, .keepsake, .panel, .mgmt, .sec, .log, .outbox, .pcie]) (by decide) (fun ps hs hp => ?_) e
  repeat' first
    | with_reducible assumption | with_reducible refine State.powerUp_acts ?_ (inside hp (by decide)) | intro _ | dsimp only

theorem execLifecycleResetDelay_acts {now : Nat} {s : State} {t : State} (e : execLifecycleResetDelay now s = .next t) :
    Acts [.spine, .draws, .clock, .power, .gov, .regs, .mem, .moving, .queues, .cmds, .hist, .weights, .links, .serving, .colls, .trains, .turns, .logbook, .lockage, .keepsake, .mgmt, .sec, .log, .outbox, .pcie] s t := by
  unfold execLifecycleResetDelay at e
  refine runsSpine_acts (qs := [.spine, .draws, .clock, .power, .gov, .regs, .mem, .moving, .queues, .cmds, .hist, .weights, .links, .serving, .colls, .trains, .turns, .logbook, .lockage, .keepsake, .mgmt, .sec, .log, .outbox, .pcie]) (by decide) (fun ps hs hp => ?_) e
  repeat' first
    | with_reducible assumption | with_reducible refine State.freeTrigger_acts ?_ (inside hp (by decide))
    | with_reducible refine State.warm_acts ?_ (inside hp (by decide)) | with_reducible refine State.at_acts ?_ (inside hp (by decide))
    | extract_lets | intro _ | with_reducible refine Acts.ite ?_ ?_ | split | dsimp only | dsimp +zetaDelta only

end Sys2Proof.Machine
end

