-- ==== Sys2Proof/Laws/ActsPower.lean ====
section
/-! SUPPORT. What the operations of Machine/Power.lean may do (Laws/Acts.lean): the parts each may change, the invariant kept. -/

namespace Sys2Proof.Machine

open Sys2Proof

theorem State.dark_acts {ps : List Part} {z : State} {s : State} {st : PowerState}
    (hs : Acts ps z s) (hp : ∀ p ∈ ([.spine, .draws, .clock, .power, .gov, .regs, .mem, .moving, .queues, .cmds, .units, .hist, .weights, .links, .serving, .colls, .trains, .turns, .logbook, .lockage, .panel, .mgmt, .sec, .log, .pcie, .acting] : List Part), p ∈ ps) :
    Acts ps z (State.dark s st) := by
  unfold State.dark
  repeat' first
    | with_reducible assumption | with_reducible refine State.blank_acts ?_ (inside hp (by decide)) | extract_lets
    | with_reducible refine Acts.set_clock_power ?_ (hp _ (by decide)) (hp _ (by decide)) | dsimp +zetaDelta only

theorem State.enterOff_acts {ps : List Part} {z : State} {s : State} {cause : OffCause}
    (hs : Acts ps z s) (hp : ∀ p ∈ ([.spine, .draws, .clock, .power, .gov, .regs, .mem, .moving, .queues, .cmds, .units, .hist, .weights, .links, .serving, .colls, .trains, .turns, .logbook, .lockage, .panel, .mgmt, .sec, .log, .pcie, .acting] : List Part), p ∈ ps) :
    Acts ps z (State.enterOff s cause) := by
  unfold State.enterOff
  repeat' first
    | with_reducible assumption | with_reducible refine State.dark_acts ?_ (inside hp (by decide)) | extract_lets
    | with_reducible refine Acts.set_power ?_ (hp _ (by decide)) | dsimp +zetaDelta only

theorem State.powerFail_acts {ps : List Part} {z : State} {s : State}
    (hs : Acts ps z s) (hp : ∀ p ∈ ([.spine, .draws, .clock, .power, .gov, .regs, .mem, .moving, .queues, .cmds, .units, .hist, .weights, .links, .serving, .colls, .trains, .turns, .logbook, .lockage, .keepsake, .panel, .mgmt, .sec, .log, .outbox, .pcie, .acting] : List Part), p ∈ ps) :
    Acts ps z (State.powerFail s) := by
  unfold State.powerFail
  repeat' first
    | with_reducible assumption | with_reducible refine State.keepsakeEvent_acts ?_ (inside hp (by decide))
    | with_reducible refine State.clearLocket_acts ?_ (inside hp (by decide))
    | with_reducible refine State.enterOff_acts ?_ (inside hp (by decide)) | with_reducible refine Acts.ite ?_ ?_

theorem State.leaveOff_acts {ps : List Part} {z : State} {s : State}
    (hs : Acts ps z s) (hp : ∀ p ∈ ([.spine, .draws, .clock, .power, .gov, .regs, .mem, .moving, .queues, .cmds, .units, .hist, .weights, .links, .serving, .colls, .trains, .turns, .logbook, .lockage, .panel, .mgmt, .sec, .log, .pcie, .acting] : List Part), p ∈ ps) :
    Acts ps z (State.leaveOff s) := by
  unfold State.leaveOff
  repeat' first
    | with_reducible assumption | with_reducible refine State.startCold_acts ?_ (inside hp (by decide))
    | with_reducible refine Acts.set_power ?_ (hp _ (by decide))

theorem State.pwrEnRise_acts {ps : List Part} {z : State} {s : State}
    (hs : Acts ps z s) (hp : ∀ p ∈ ([.spine, .draws, .clock, .power, .gov, .regs, .mem, .moving, .queues, .cmds, .units, .hist, .weights, .links, .serving, .colls, .trains, .turns, .logbook, .lockage, .panel, .mgmt, .sec, .log, .pcie, .acting] : List Part), p ∈ ps) :
    Acts ps z (State.pwrEnRise s) := by
  unfold State.pwrEnRise
  repeat' first
    | with_reducible assumption | with_reducible refine State.leaveOff_acts ?_ (inside hp (by decide)) | extract_lets
    | with_reducible refine Acts.ite ?_ ?_ | split | with_reducible refine Acts.set_power ?_ (hp _ (by decide)) | dsimp +zetaDelta only

theorem execPwrEnRise_acts {now : Nat} {s : State} {t : State} (e : execPwrEnRise now s = .next t) :
    Acts [.spine, .draws, .clock, .power, .gov, .regs, .mem, .moving, .queues, .cmds, .units, .hist, .weights, .links, .serving, .colls, .trains, .turns, .logbook, .lockage, .panel, .mgmt, .sec, .log, .pcie] s t := by
  unfold execPwrEnRise at e
  refine runsSpine_acts (qs := [.spine, .draws, .clock, .power, .gov, .regs, .mem, .moving, .queues, .cmds, .units, .hist, .weights, .links, .serving, .colls, .trains, .turns, .logbook, .lockage, .panel, .mgmt, .sec, .log, .pcie, .acting]) (by decide) (fun ps hs hp => ?_) e
  repeat' first
    | with_reducible assumption | with_reducible refine State.pwrEnRise_acts ?_ (inside hp (by decide))
    | with_reducible refine State.at_acts ?_ (inside hp (by decide)) | intro _ | dsimp only

theorem execPwrEnFall_acts {now : Nat} {s : State} {t : State} (e : execPwrEnFall now s = .next t) :
    Acts [.spine, .draws, .clock, .power, .gov, .regs, .mem, .moving, .queues, .cmds, .units, .hist, .weights, .links, .serving, .colls, .trains, .turns, .logbook, .lockage, .keepsake, .panel, .mgmt, .sec, .log, .outbox, .pcie] s t := by
  unfold execPwrEnFall at e
  refine runsSpine_acts (qs := [.spine, .draws, .clock, .power, .gov, .regs, .mem, .moving, .queues, .cmds, .units, .hist, .weights, .links, .serving, .colls, .trains, .turns, .logbook, .lockage, .keepsake, .panel, .mgmt, .sec, .log, .outbox, .pcie, .acting]) (by decide) (fun ps hs hp => ?_) e
  repeat' first
    | with_reducible assumption | with_reducible refine State.powerFail_acts ?_ (inside hp (by decide))
    | with_reducible refine State.at_acts ?_ (inside hp (by decide)) | extract_lets | intro _ | with_reducible refine Acts.ite ?_ ?_
    | dsimp only | with_reducible refine Acts.set_power ?_ (hp _ (by decide)) | dsimp +zetaDelta only

theorem execPowerFail_acts {s : State} {t : State} (e : execPowerFail s = .next t) :
    Acts [.spine, .draws, .clock, .power, .gov, .regs, .mem, .moving, .queues, .cmds, .units, .hist, .weights, .links, .serving, .colls, .trains, .turns, .logbook, .lockage, .keepsake, .panel, .mgmt, .sec, .log, .outbox, .pcie] s t := by
  unfold execPowerFail at e
  refine runsSpine_acts (qs := [.spine, .draws, .clock, .power, .gov, .regs, .mem, .moving, .queues, .cmds, .units, .hist, .weights, .links, .serving, .colls, .trains, .turns, .logbook, .lockage, .keepsake, .panel, .mgmt, .sec, .log, .outbox, .pcie, .acting]) (by decide) (fun ps hs hp => ?_) e
  repeat' first
    | with_reducible assumption | with_reducible refine State.powerFail_acts ?_ (inside hp (by decide)) | extract_lets | intro _
    | dsimp only | with_reducible refine Acts.set_power ?_ (hp _ (by decide)) | dsimp +zetaDelta only

theorem execInputAbove42v_acts {s : State} {t : State} (e : execInputAbove42v s = .next t) :
    Acts [.spine, .draws, .clock, .power, .gov, .regs, .mem, .moving, .queues, .cmds, .units, .hist, .weights, .links, .serving, .colls, .trains, .turns, .logbook, .lockage, .panel, .mgmt, .sec, .log, .pcie] s t := by
  unfold execInputAbove42v at e
  refine runsSpine_acts (qs := [.spine, .draws, .clock, .power, .gov, .regs, .mem, .moving, .queues, .cmds, .units, .hist, .weights, .links, .serving, .colls, .trains, .turns, .logbook, .lockage, .panel, .mgmt, .sec, .log, .pcie, .acting]) (by decide) (fun ps hs hp => ?_) e
  repeat' first
    | with_reducible assumption | with_reducible refine State.leaveOff_acts ?_ (inside hp (by decide)) | extract_lets | intro _
    | with_reducible refine Acts.ite ?_ ?_ | dsimp only | with_reducible refine Acts.set_power ?_ (hp _ (by decide))
    | dsimp +zetaDelta only

theorem State.noteBand_acts {ps : List Part} {z : State} {s : State}
    (hs : Acts ps z s) (hp : ∀ p ∈ ([.log, .outbox] : List Part), p ∈ ps) :
    Acts ps z (State.noteBand s) := by
  unfold State.noteBand
  repeat' first
    | with_reducible assumption | with_reducible refine State.logEvent_acts ?_ (inside hp (by decide))

theorem execInputLowBand_acts {dv : Nat} {s : State} {t : State} (e : execInputLowBand dv s = .next t) :
    Acts [.power, .mgmt, .log, .outbox] s t := by
  unfold execInputLowBand at e
  refine runs_acts (qs := [.power, .mgmt, .log, .outbox]) (by decide) (fun ps hs hp => ?_) e
  repeat' first
    | with_reducible assumption | with_reducible refine State.noteBand_acts ?_ (inside hp (by decide)) | extract_lets | intro _
    | with_reducible refine Acts.ite ?_ ?_ | dsimp only
    | with_reducible refine Acts.set_power_mgmt ?_ (hp _ (by decide)) (hp _ (by decide)) | dsimp +zetaDelta only

theorem execInputHighBand_acts {dv : Nat} {s : State} {t : State} (e : execInputHighBand dv s = .next t) :
    Acts [.power, .mgmt, .log, .outbox] s t := by
  unfold execInputHighBand at e
  refine runs_acts (qs := [.power, .mgmt, .log, .outbox]) (by decide) (fun ps hs hp => ?_) e
  repeat' first
    | with_reducible assumption | with_reducible refine State.noteBand_acts ?_ (inside hp (by decide)) | extract_lets | intro _
    | with_reducible refine Acts.ite ?_ ?_ | dsimp only
    | with_reducible refine Acts.set_power_mgmt ?_ (hp _ (by decide)) (hp _ (by decide)) | dsimp +zetaDelta only

theorem execInputOvervoltage_acts {s : State} {t : State} (e : execInputOvervoltage s = .next t) :
    Acts [.spine, .draws, .clock, .power, .gov, .regs, .mem, .moving, .queues, .cmds, .units, .hist, .weights, .links, .serving, .colls, .trains, .turns, .logbook, .lockage, .keepsake, .panel, .mgmt, .sec, .log, .pcie] s t := by
  unfold execInputOvervoltage at e
  refine runsSpine_acts (qs := [.spine, .draws, .clock, .power, .gov, .regs, .mem, .moving, .queues, .cmds, .units, .hist, .weights, .links, .serving, .colls, .trains, .turns, .logbook, .lockage, .keepsake, .panel, .mgmt, .sec, .log, .pcie, .acting]) (by decide) (fun ps hs hp => ?_) e
  repeat' first
    | with_reducible assumption | with_reducible refine State.keepsakeEvent_acts ?_ (inside hp (by decide))
    | with_reducible refine State.enterOff_acts ?_ (inside hp (by decide)) | intro _ | with_reducible refine Acts.ite ?_ ?_ | dsimp only

theorem execThermalTrip_acts {a0 : Bool} {s : State} {t : State} (e : execThermalTrip a0 s = .next t) :
    Acts [.spine, .draws, .clock, .power, .gov, .regs, .mem, .moving, .queues, .cmds, .units, .hist, .weights, .links, .serving, .colls, .trains, .turns, .logbook, .lockage, .keepsake, .panel, .mgmt, .sec, .log, .pcie] s t := by
  unfold execThermalTrip at e
  refine runsSpine_acts (qs := [.spine, .draws, .clock, .power, .gov, .regs, .mem, .moving, .queues, .cmds, .units, .hist, .weights, .links, .serving, .colls, .trains, .turns, .logbook, .lockage, .keepsake, .panel, .mgmt, .sec, .log, .pcie, .acting]) (by decide) (fun ps hs hp => ?_) e
  repeat' first
    | with_reducible assumption | with_reducible refine State.keepsakeEvent_acts ?_ (inside hp (by decide))
    | with_reducible refine State.enterOff_acts ?_ (inside hp (by decide)) | extract_lets | intro _ | with_reducible refine Acts.ite ?_ ?_
    | dsimp only | with_reducible refine Acts.set_power ?_ (hp _ (by decide)) | dsimp +zetaDelta only

theorem execRailOutOfRegulation_acts {s : State} {t : State} (e : execRailOutOfRegulation s = .next t) :
    Acts [.power] s t := by
  unfold execRailOutOfRegulation at e
  refine runs_acts (qs := [.power]) (by decide) (fun ps hs hp => ?_) e
  repeat' first
    | with_reducible assumption | intro _ | dsimp only | with_reducible refine Acts.set_power ?_ (hp _ (by decide))

theorem execIdleToActive_acts {s : State} {t : State} (e : execIdleToActive s = .next t) :
    Acts [.power, .gov, .mgmt] s t := by
  unfold execIdleToActive at e
  refine runs_acts (qs := [.power, .gov, .mgmt]) (by decide) (fun ps hs hp => ?_) e
  repeat' first
    | with_reducible assumption | with_reducible refine State.toPower_acts ?_ (inside hp (by decide)) | extract_lets | intro _
    | with_reducible refine Acts.ite ?_ ?_ | dsimp only
    | with_reducible refine Acts.set_power_gov ?_ (hp _ (by decide)) (hp _ (by decide)) | dsimp +zetaDelta only

theorem execIdleDelayExpiry_acts {now : Nat} {s : State} {t : State} (e : execIdleDelayExpiry now s = .next t) :
    Acts [.clock, .power, .mgmt] s t := by
  unfold execIdleDelayExpiry at e
  refine runs_acts (qs := [.clock, .power, .mgmt]) (by decide) (fun ps hs hp => ?_) e
  repeat' first
    | with_reducible assumption | with_reducible refine State.toPower_acts ?_ (inside hp (by decide))
    | with_reducible refine State.at_acts ?_ (inside hp (by decide)) | extract_lets | intro _ | with_reducible refine Acts.ite ?_ ?_
    | dsimp only | dsimp +zetaDelta only

theorem State.putQuiesced_acts {ps : List Part} {z : State} {s : State} {scope : Nat}
    (hs : Acts ps z s) (hp : ∀ p ∈ ([.power] : List Part), p ∈ ps) :
    Acts ps z (State.putQuiesced s scope) := by
  unfold State.putQuiesced
  repeat' first
    | with_reducible assumption | with_reducible refine Acts.ite ?_ ?_ | with_reducible refine Acts.set_power ?_ (hp _ (by decide))

theorem State.startQuiesce_acts {ps : List Part} {z : State} {s : State} {c : Cmd} {scope : Nat}
    (hs : Acts ps z s) (hp : ∀ p ∈ ([.power, .cmds] : List Part), p ∈ ps) :
    Acts ps z (State.startQuiesce s c scope) := by
  unfold State.startQuiesce
  repeat' first
    | with_reducible assumption | with_reducible refine State.putQuiesced_acts ?_ (inside hp (by decide))
    | with_reducible refine State.running_acts ?_ (inside hp (by decide)) | extract_lets | with_reducible refine Acts.ite ?_ ?_
    | with_reducible refine Acts.set_power ?_ (hp _ (by decide)) | dsimp +zetaDelta only

theorem State.endQuiesce_acts {ps : List Part} {z : State} {s : State} {c : Cmd}
    (hs : Acts ps z s) (hp : ∀ p ∈ ([.power] : List Part), p ∈ ps) :
    Acts ps z (State.endQuiesce s c) := by
  unfold State.endQuiesce
  repeat' first
    | with_reducible assumption | intro _ | dsimp only | with_reducible refine Acts.set_power ?_ (hp _ (by decide))

theorem State.quiesce_acts {ps : List Part} {z : State} {s : State} {c : Cmd}
    (hs : Acts ps z s) (hp : ∀ p ∈ ([.draws, .power, .regs, .mem, .cmds, .weights, .log, .outbox] : List Part), p ∈ ps) :
    Acts ps z (State.quiesce s c) := by
  unfold State.quiesce
  repeat' first
    | with_reducible assumption | with_reducible refine State.startQuiesce_acts ?_ (inside hp (by decide))
    | with_reducible refine State.drainSluice_acts ?_ (inside hp (by decide))
    | with_reducible refine State.endQuiesce_acts ?_ (inside hp (by decide))
    | with_reducible refine State.unquiesce_acts ?_ (inside hp (by decide))
    | with_reducible refine State.finish_acts ?_ (inside hp (by decide)) | extract_lets | with_reducible refine Acts.ite ?_ ?_
    | dsimp +zetaDelta only

theorem execQuiesce_acts {c : CmdRef} {hv : HostView} {s : State} {t : State} (e : execQuiesce c hv s = .next t) :
    Acts [.draws, .power, .regs, .mem, .host, .cmds, .weights, .log, .outbox] s t := by
  unfold execQuiesce at e
  refine runs_acts (qs := [.draws, .power, .regs, .mem, .host, .cmds, .weights, .log, .outbox, .acting]) (by decide) (fun ps hs hp => ?_) e
  repeat' first
    | with_reducible assumption | with_reducible refine State.startOrGoOn_acts ?_ ?_ (inside hp (by decide))
    | with_reducible refine State.quiesce_acts ?_ (inside hp (by decide))
    | with_reducible refine State.sees_acts ?_ (inside hp (by decide)) | intro _ | dsimp only

theorem State.powerStateCmd_acts {ps : List Part} {z : State} {s : State} {c : Cmd}
    (hs : Acts ps z s) (hp : ∀ p ∈ ([.draws, .power, .regs, .mem, .cmds, .weights, .log, .outbox] : List Part), p ∈ ps) :
    Acts ps z (State.powerStateCmd s c) := by
  unfold State.powerStateCmd
  repeat' first
    | with_reducible assumption | with_reducible refine State.writeBackAll_acts ?_ (inside hp (by decide))
    | with_reducible refine State.startQuiesce_acts ?_ (inside hp (by decide))
    | with_reducible refine State.endQuiesce_acts ?_ (inside hp (by decide))
    | with_reducible refine State.finish_acts ?_ (inside hp (by decide)) | extract_lets | with_reducible refine Acts.ite ?_ ?_
    | with_reducible refine Acts.set_power ?_ (hp _ (by decide)) | dsimp +zetaDelta only

theorem execPowerState_acts {c : CmdRef} {hv : HostView} {s : State} {t : State} (e : execPowerState c hv s = .next t) :
    Acts [.draws, .power, .regs, .mem, .host, .cmds, .weights, .log, .outbox] s t := by
  unfold execPowerState at e
  refine runs_acts (qs := [.draws, .power, .regs, .mem, .host, .cmds, .weights, .log, .outbox, .acting]) (by decide) (fun ps hs hp => ?_) e
  repeat' first
    | with_reducible assumption | with_reducible refine State.powerStateCmd_acts ?_ (inside hp (by decide))
    | with_reducible refine State.startOrGoOn_acts ?_ ?_ (inside hp (by decide))
    | with_reducible refine State.sees_acts ?_ (inside hp (by decide)) | intro _ | dsimp only

theorem execPowerStateEntry_acts {now : Nat} {s : State} {t : State} (e : execPowerStateEntry now s = .next t) :
    Acts [.spine, .draws, .clock, .power, .gov, .regs, .mem, .moving, .queues, .cmds, .units, .hist, .weights, .links, .serving, .colls, .trains, .turns, .logbook, .lockage, .panel, .mgmt, .sec, .log, .pcie] s t := by
  unfold execPowerStateEntry at e
  refine runsSpine_acts (qs := [.spine, .draws, .clock, .power, .gov, .regs, .mem, .moving, .queues, .cmds, .units, .hist, .weights, .links, .serving, .colls, .trains, .turns, .logbook, .lockage, .panel, .mgmt, .sec, .log, .pcie, .acting]) (by decide) (fun ps hs hp => ?_) e
  repeat' first
    | with_reducible assumption | with_reducible refine State.enterOff_acts ?_ (inside hp (by decide))
    | with_reducible refine State.dark_acts ?_ (inside hp (by decide)) | with_reducible refine State.at_acts ?_ (inside hp (by decide))
    | extract_lets | intro _ | with_reducible refine Acts.ite ?_ ?_ | split | dsimp only | dsimp +zetaDelta only

theorem State.failDieColls_acts {ps : List Part} {z : State} {s : State} {d : Nat}
    (hs : Acts ps z s) (hp : ∀ p ∈ ([.draws, .regs, .mem, .cmds, .links, .colls, .turns, .lockage, .mgmt, .outbox] : List Part), p ∈ ps) :
    Acts ps z (State.failDieColls s d) := by
  unfold State.failDieColls
  repeat' first
    | with_reducible assumption | with_reducible refine State.failColl_acts ?_ (inside hp (by decide))
    | with_reducible refine Acts.foldl ?_ ?_ | intro _ | dsimp only

theorem execDieGate_acts {die : Nat} {s : State} {t : State} (e : execDieGate die s = .next t) :
    Acts [.draws, .power, .regs, .mem, .cmds, .links, .colls, .turns, .lockage, .mgmt, .outbox] s t := by
  unfold execDieGate at e
  refine runs_acts (qs := [.draws, .power, .regs, .mem, .cmds, .links, .colls, .turns, .lockage, .mgmt, .outbox]) (by decide) (fun ps hs hp => ?_) e
  repeat' first
    | with_reducible assumption | with_reducible refine State.failDieColls_acts ?_ (inside hp (by decide))
    | with_reducible refine State.raise_acts ?_ (inside hp (by decide)) | intro _ | with_reducible refine Acts.ite ?_ ?_ | dsimp only
    | with_reducible refine Acts.set_power ?_ (hp _ (by decide))

theorem execDieUngate_acts {die : Nat} {s : State} {t : State} (e : execDieUngate die s = .next t) :
    Acts [.power, .regs, .mem, .moving, .outbox] s t := by
  unfold execDieUngate at e
  refine runs_acts (qs := [.power, .regs, .mem, .moving, .outbox]) (by decide) (fun ps hs hp => ?_) e
  repeat' first
    | with_reducible assumption | with_reducible refine State.raise_acts ?_ (inside hp (by decide)) | exact fun q => insert_sorted q
    | exact fun q => filter_sorted q | exact fun q => Mem.forget_wf q | exact fun q => q | intro _ | with_reducible refine Acts.ite ?_ ?_
    | dsimp only | with_reducible refine Acts.set_power_mem_clears ?_ (hp _ (by decide)) ?_ (hp _ (by decide)) (hp _ (by decide))

theorem State.resetCompute_acts {ps : List Part} {z : State} {s : State} {u : Nat}
    (hs : Acts ps z s) (hp : ∀ p ∈ ([.draws, .regs, .mem, .cmds, .units, .weights, .links, .colls, .turns, .lockage, .mgmt, .log, .outbox, .acting] : List Part), p ∈ ps) :
    Acts ps z (State.resetCompute s u) := by
  unfold State.resetCompute
  repeat' first
    | with_reducible assumption | with_reducible refine State.forgetCounters_acts ?_ (inside hp (by decide))
    | with_reducible refine State.forgetRegs_acts ?_ (inside hp (by decide))
    | with_reducible refine State.clearBanks_acts ?_ (inside hp (by decide))
    | with_reducible refine State.stopOn_acts ?_ (inside hp (by decide)) | extract_lets | intro _ | with_reducible refine Acts.ite ?_ ?_
    | dsimp only | with_reducible refine Acts.set_units ?_ (hp _ (by decide)) | dsimp +zetaDelta only

theorem State.resetPort_acts {ps : List Part} {z : State} {s : State} {p : Nat}
    (hs : Acts ps z s) (hp : ∀ p ∈ ([.draws, .regs, .mem, .cmds, .weights, .links, .colls, .turns, .lockage, .mgmt, .log, .outbox] : List Part), p ∈ ps) :
    Acts ps z (State.resetPort s p) := by
  unfold State.resetPort
  repeat' first
    | with_reducible assumption | with_reducible refine State.forgetCounters_acts ?_ (inside hp (by decide))
    | with_reducible refine State.linkDown_acts ?_ (inside hp (by decide)) | extract_lets | intro _ | with_reducible refine Acts.ite ?_ ?_
    | dsimp only | dsimp +zetaDelta only

theorem State.resetUnit_acts {ps : List Part} {z : State} {s : State} {c : Cmd}
    (hs : Acts ps z s) (hp : ∀ p ∈ ([.spine, .draws, .power, .gov, .regs, .mem, .host, .queues, .cmds, .units, .hist, .weights, .links, .serving, .colls, .trains, .turns, .logbook, .lockage, .keepsake, .mgmt, .log, .outbox, .acting] : List Part), p ∈ ps) :
    Acts ps z (State.resetUnit s c) := by
  unfold State.resetUnit
  repeat' first
    | with_reducible assumption | with_reducible refine State.keeperComplex_acts ?_ (inside hp (by decide))
    | with_reducible refine State.resetCompute_acts ?_ (inside hp (by decide))
    | with_reducible refine State.resetCause_acts ?_ (inside hp (by decide))
    | with_reducible refine State.resetPort_acts ?_ (inside hp (by decide))
    | with_reducible refine State.raiseUnit_acts ?_ (inside hp (by decide))
    | with_reducible refine State.stopBook_acts ?_ (inside hp (by decide))
    | with_reducible refine State.refuse_acts ?_ (inside hp (by decide))
    | with_reducible refine State.finish_acts ?_ (inside hp (by decide))
    | with_reducible refine State.raise_acts ?_ (inside hp (by decide)) | extract_lets | with_reducible refine Acts.ite ?_ ?_
    | dsimp +zetaDelta only

theorem execResetUnit_acts {c : CmdRef} {hv : HostView} {s : State} {t : State} (e : execResetUnit c hv s = .next t) :
    Acts [.spine, .draws, .power, .gov, .regs, .mem, .host, .queues, .cmds, .units, .hist, .weights, .links, .serving, .colls, .trains, .turns, .logbook, .lockage, .keepsake, .mgmt, .log, .outbox] s t := by
  unfold execResetUnit at e
  refine runsSpine_acts (qs := [.spine, .draws, .power, .gov, .regs, .mem, .host, .queues, .cmds, .units, .hist, .weights, .links, .serving, .colls, .trains, .turns, .logbook, .lockage, .keepsake, .mgmt, .log, .outbox, .acting]) (by decide) (fun ps hs hp => ?_) e
  repeat' first
    | with_reducible assumption | with_reducible refine State.resetUnit_acts ?_ (inside hp (by decide))
    | with_reducible refine State.start_acts ?_ ?_ (inside hp (by decide))
    | with_reducible refine State.sees_acts ?_ (inside hp (by decide)) | intro _ | dsimp only

theorem execOscillatorLost_acts {s : State} {t : State} (e : execOscillatorLost s = .next t) :
    Acts [.draws, .clock, .regs, .mem, .cmds, .weights, .links, .colls, .turns, .lockage, .mgmt, .log, .outbox] s t := by
  unfold execOscillatorLost at e
  refine runs_acts (qs := [.draws, .clock, .regs, .mem, .cmds, .weights, .links, .colls, .turns, .lockage, .mgmt, .log, .outbox]) (by decide) (fun ps hs hp => ?_) e
  repeat' first
    | with_reducible assumption | with_reducible refine State.linkDown_acts ?_ (inside hp (by decide))
    | with_reducible refine State.fatal_acts ?_ (inside hp (by decide)) | with_reducible refine Acts.foldl ?_ ?_ | extract_lets | intro _
    | with_reducible refine Acts.ite ?_ ?_ | dsimp only | with_reducible refine Acts.set_clock ?_ (hp _ (by decide))
    | dsimp +zetaDelta only

theorem execCoinCellMeasure_acts {mv : Nat} {now : Nat} {s : State} {t : State} (e : execCoinCellMeasure mv now s = .next t) :
    Acts [.clock, .regs, .panel, .mgmt, .outbox] s t := by
  unfold execCoinCellMeasure at e
  refine runs_acts (qs := [.clock, .regs, .panel, .mgmt, .outbox]) (by decide) (fun ps hs hp => ?_) e
  repeat' first
    | with_reducible assumption | with_reducible refine State.measureCell_acts ?_ (inside hp (by decide))
    | with_reducible refine State.at_acts ?_ (inside hp (by decide)) | extract_lets | intro _ | with_reducible refine Acts.ite ?_ ?_
    | dsimp only | dsimp +zetaDelta only

end Sys2Proof.Machine
end

