-- ==== Sys2Proof/Laws/ActsPanel.lean ====
section
/-! SUPPORT. What the operations of Machine/Panel.lean may do (Laws/Acts.lean): the parts each may change, the invariant kept. -/

namespace Sys2Proof.Machine

open Sys2Proof

theorem State.locate_acts {ps : List Part} {z : State} {s : State} {on : Bool}
    (hs : Acts ps z s) (hp : ∀ p ∈ ([.panel] : List Part), p ∈ ps) :
    Acts ps z (State.locate s on) := by
  unfold State.locate
  repeat' first
    | with_reducible assumption | with_reducible refine Acts.set_panel ?_ (hp _ (by decide))

theorem execLocateCtrlWrite_acts {v : Word} {s : State} {t : State} (e : execLocateCtrlWrite v s = .next t) :
    Acts [.panel] s t := by
  unfold execLocateCtrlWrite runsHost at e
  refine runs_acts (qs := [.panel]) (by decide) (fun ps hs hp => ?_) e
  repeat' first
    | with_reducible assumption | with_reducible refine Acts.ite ?_ ?_ | with_reducible refine State.locate_acts ?_ (inside hp (by decide)) | intro _ | dsimp only

theorem execLocatePress_acts {ms : Nat} {s : State} {t : State} (e : execLocatePress ms s = .next t) :
    Acts [.regs, .panel, .mgmt, .outbox] s t := by
  unfold execLocatePress at e
  refine runs_acts (qs := [.regs, .panel, .mgmt, .outbox]) (by decide) (fun ps hs hp => ?_) e
  repeat' first
    | with_reducible assumption | with_reducible refine State.raisePanel_acts ?_ (inside hp (by decide))
    | with_reducible refine State.locate_acts ?_ (inside hp (by decide)) | intro _ | with_reducible refine Acts.ite ?_ ?_ | dsimp only

theorem State.holdNow_acts {ps : List Part} {z : State} {s : State}
    (hs : Acts ps z s) (hp : ∀ p ∈ ([.panel] : List Part), p ∈ ps) :
    Acts ps z (State.holdNow s) := by
  unfold State.holdNow
  repeat' first
    | with_reducible assumption | with_reducible refine Acts.set_panel ?_ (hp _ (by decide))

theorem State.releaseHold_acts {ps : List Part} {z : State} {s : State}
    (hs : Acts ps z s) (hp : ∀ p ∈ ([.panel] : List Part), p ∈ ps) :
    Acts ps z (State.releaseHold s) := by
  unfold State.releaseHold
  repeat' first
    | with_reducible assumption | with_reducible refine Acts.set_panel ?_ (hp _ (by decide))

theorem execServiceHold_acts {c : CmdRef} {hv : HostView} {s : State} {t : State} (e : execServiceHold c hv s = .next t) :
    Acts [.host, .cmds, .panel] s t := by
  unfold execServiceHold at e
  refine runs_acts (qs := [.host, .cmds, .panel, .acting]) (by decide) (fun ps hs hp => ?_) e
  repeat' first
    | with_reducible assumption | with_reducible refine State.holdNow_acts ?_ (inside hp (by decide))
    | with_reducible refine State.running_acts ?_ (inside hp (by decide))
    | with_reducible refine State.finish_acts ?_ (inside hp (by decide))
    | with_reducible refine State.start_acts ?_ ?_ (inside hp (by decide))
    | with_reducible refine State.sees_acts ?_ (inside hp (by decide)) | intro _ | with_reducible refine Acts.ite ?_ ?_ | dsimp only

theorem execServiceResume_acts {c : CmdRef} {hv : HostView} {s : State} {t : State} (e : execServiceResume c hv s = .next t) :
    Acts [.host, .cmds, .panel] s t := by
  unfold execServiceResume at e
  refine runs_acts (qs := [.host, .cmds, .panel, .acting]) (by decide) (fun ps hs hp => ?_) e
  repeat' first
    | with_reducible assumption | with_reducible refine State.releaseHold_acts ?_ (inside hp (by decide))
    | with_reducible refine State.finish_acts ?_ (inside hp (by decide))
    | with_reducible refine State.start_acts ?_ ?_ (inside hp (by decide))
    | with_reducible refine State.sees_acts ?_ (inside hp (by decide)) | intro _ | dsimp only

theorem execServicePress_acts {ms : Nat} {now : Nat} {s : State} {t : State} (e : execServicePress ms now s = .next t) :
    Acts [.clock, .regs, .panel, .mgmt, .outbox] s t := by
  unfold execServicePress at e
  refine runs_acts (qs := [.clock, .regs, .panel, .mgmt, .outbox]) (by decide) (fun ps hs hp => ?_) e
  repeat' first
    | with_reducible assumption | with_reducible refine State.releaseHold_acts ?_ (inside hp (by decide))
    | with_reducible refine State.raisePanel_acts ?_ (inside hp (by decide))
    | with_reducible refine State.at_acts ?_ (inside hp (by decide)) | extract_lets | intro _ | with_reducible refine Acts.ite ?_ ?_
    | dsimp only | with_reducible refine Acts.set_panel ?_ (hp _ (by decide)) | dsimp +zetaDelta only

theorem execServiceLong_acts {now : Nat} {s : State} {t : State} (e : execServiceLong now s = .next t) :
    Acts [.clock, .regs, .panel, .mgmt, .outbox] s t := by
  unfold execServiceLong at e
  refine runs_acts (qs := [.clock, .regs, .panel, .mgmt, .outbox]) (by decide) (fun ps hs hp => ?_) e
  repeat' first
    | with_reducible assumption | with_reducible refine State.raisePanel_acts ?_ (inside hp (by decide))
    | with_reducible refine State.holdNow_acts ?_ (inside hp (by decide)) | with_reducible refine State.at_acts ?_ (inside hp (by decide))
    | extract_lets | intro _ | with_reducible refine Acts.ite ?_ ?_ | dsimp only
    | with_reducible refine Acts.set_panel ?_ (hp _ (by decide)) | dsimp +zetaDelta only

theorem execServiceRequestLapse_acts {now : Nat} {s : State} {t : State} (e : execServiceRequestLapse now s = .next t) :
    Acts [.clock, .panel] s t := by
  unfold execServiceRequestLapse at e
  refine runs_acts (qs := [.clock, .panel]) (by decide) (fun ps hs hp => ?_) e
  repeat' first
    | with_reducible assumption | with_reducible refine State.at_acts ?_ (inside hp (by decide)) | extract_lets | intro _
    | with_reducible refine Acts.ite ?_ ?_ | split | dsimp only | with_reducible refine Acts.set_panel ?_ (hp _ (by decide))
    | dsimp +zetaDelta only

theorem execCellService_acts {now : Nat} {s : State} {t : State} (e : execCellService now s = .next t) :
    Acts [.clock, .regs, .panel, .mgmt, .outbox] s t := by
  unfold execCellService at e
  refine runs_acts (qs := [.clock, .regs, .panel, .mgmt, .outbox]) (by decide) (fun ps hs hp => ?_) e
  repeat' first
    | with_reducible assumption | with_reducible refine State.raisePanel_acts ?_ (inside hp (by decide))
    | with_reducible refine State.at_acts ?_ (inside hp (by decide)) | extract_lets | intro _ | with_reducible refine Acts.ite ?_ ?_
    | dsimp only | with_reducible refine Acts.set_panel ?_ (hp _ (by decide)) | dsimp +zetaDelta only

theorem execCellInserted_acts {mv : Nat} {now : Nat} {s : State} {t : State} (e : execCellInserted mv now s = .next t) :
    Acts [.clock, .regs, .panel, .mgmt, .outbox] s t := by
  unfold execCellInserted at e
  refine runs_acts (qs := [.clock, .regs, .panel, .mgmt, .outbox]) (by decide) (fun ps hs hp => ?_) e
  repeat' first
    | with_reducible assumption | with_reducible refine State.raisePanel_acts ?_ (inside hp (by decide))
    | with_reducible refine State.at_acts ?_ (inside hp (by decide)) | extract_lets | intro _ | with_reducible refine Acts.ite ?_ ?_
    | dsimp only | with_reducible refine Acts.set_panel ?_ (hp _ (by decide)) | dsimp +zetaDelta only

theorem execCellServiceTimeout_acts {now : Nat} {s : State} {t : State} (e : execCellServiceTimeout now s = .next t) :
    Acts [.clock, .regs, .panel, .mgmt, .outbox] s t := by
  unfold execCellServiceTimeout at e
  refine runs_acts (qs := [.clock, .regs, .panel, .mgmt, .outbox]) (by decide) (fun ps hs hp => ?_) e
  repeat' first
    | with_reducible assumption | with_reducible refine State.raisePanel_acts ?_ (inside hp (by decide))
    | with_reducible refine State.at_acts ?_ (inside hp (by decide)) | extract_lets | intro _ | with_reducible refine Acts.ite ?_ ?_
    | split | dsimp only | with_reducible refine Acts.set_panel ?_ (hp _ (by decide)) | dsimp +zetaDelta only

theorem State.powerDown_acts {ps : List Part} {z : State} {s : State} {n : Nat}
    (hs : Acts ps z s) (hp : ∀ p ∈ ([.mem, .panel, .mgmt] : List Part), p ∈ ps) :
    Acts ps z (State.powerDown s n) := by
  unfold State.powerDown
  repeat' first
    | with_reducible assumption | with_reducible refine State.putSocket_acts ?_ (inside hp (by decide)) | extract_lets
    | exact fun q => insert_sorted q | exact fun q => filter_sorted q | exact fun q => Mem.forget_wf q | exact fun q => q
    | with_reducible refine Acts.set_mem ?_ ?_ (hp _ (by decide)) | dsimp +zetaDelta only

theorem State.touch_acts {ps : List Part} {z : State} {s : State} {n : Nat}
    (hs : Acts ps z s) (hp : ∀ p ∈ ([.regs, .mem, .panel, .mgmt, .outbox] : List Part), p ∈ ps) :
    Acts ps z (State.touch s n) := by
  unfold State.touch
  repeat' first
    | with_reducible assumption | with_reducible refine State.raisePanel_acts ?_ (inside hp (by decide))
    | with_reducible refine State.powerDown_acts ?_ (inside hp (by decide))
    | with_reducible refine State.putSocket_acts ?_ (inside hp (by decide)) | extract_lets | intro _
    | with_reducible refine Acts.ite ?_ ?_ | split | dsimp only | dsimp +zetaDelta only

theorem execPadTouch_acts {socket : Nat} {ms : Nat} {s : State} {t : State} (e : execPadTouch socket ms s = .next t) :
    Acts [.regs, .mem, .panel, .mgmt, .outbox] s t := by
  unfold execPadTouch at e
  refine runs_acts (qs := [.regs, .mem, .panel, .mgmt, .outbox]) (by decide) (fun ps hs hp => ?_) e
  repeat' first
    | with_reducible assumption | with_reducible refine State.touch_acts ?_ (inside hp (by decide)) | intro _
    | with_reducible refine Acts.ite ?_ ?_ | dsimp only

theorem State.reachRelease_acts {ps : List Part} {z : State} {s : State} {c : Cmd}
    (hs : Acts ps z s) (hp : ∀ p ∈ ([.mem, .cmds, .panel, .mgmt] : List Part), p ∈ ps) :
    Acts ps z (State.reachRelease s c) := by
  unfold State.reachRelease
  repeat' first
    | with_reducible assumption | with_reducible refine State.powerDown_acts ?_ (inside hp (by decide))
    | with_reducible refine State.finish_acts ?_ (inside hp (by decide)) | extract_lets | with_reducible refine Acts.ite ?_ ?_
    | dsimp +zetaDelta only

theorem execReachRelease_acts {c : CmdRef} {hv : HostView} {s : State} {t : State} (e : execReachRelease c hv s = .next t) :
    Acts [.mem, .host, .cmds, .panel, .mgmt] s t := by
  unfold execReachRelease at e
  refine runs_acts (qs := [.mem, .host, .cmds, .panel, .mgmt, .acting]) (by decide) (fun ps hs hp => ?_) e
  repeat' first
    | with_reducible assumption | with_reducible refine State.reachRelease_acts ?_ (inside hp (by decide))
    | with_reducible refine State.start_acts ?_ ?_ (inside hp (by decide))
    | with_reducible refine State.sees_acts ?_ (inside hp (by decide)) | intro _ | dsimp only

theorem execReachInsert_acts {socket : Nat} {spd : Option ReachModule} {s : State} {t : State} (e : execReachInsert socket spd s = .next t) :
    Acts [.regs, .panel, .mgmt, .outbox] s t := by
  unfold execReachInsert at e
  refine runs_acts (qs := [.regs, .panel, .mgmt, .outbox]) (by decide) (fun ps hs hp => ?_) e
  repeat' first
    | with_reducible assumption | with_reducible refine State.raisePanel_acts ?_ (inside hp (by decide))
    | with_reducible refine State.putSocket_acts ?_ (inside hp (by decide)) | extract_lets | intro _
    | with_reducible refine Acts.ite ?_ ?_ | split | dsimp only | dsimp +zetaDelta only

theorem State.reachRemove_acts {ps : List Part} {z : State} {s : State} {n : Nat}
    (hs : Acts ps z s) (hp : ∀ p ∈ ([.regs, .mem, .panel, .mgmt, .outbox] : List Part), p ∈ ps) :
    Acts ps z (State.reachRemove s n) := by
  unfold State.reachRemove
  repeat' first
    | with_reducible assumption | with_reducible refine State.loseSocket_acts ?_ (inside hp (by decide))
    | with_reducible refine State.raisePanel_acts ?_ (inside hp (by decide))
    | with_reducible refine State.putSocket_acts ?_ (inside hp (by decide)) | extract_lets | exact fun q => insert_sorted q
    | exact fun q => filter_sorted q | exact fun q => Mem.forget_wf q | exact fun q => q | split
    | with_reducible refine Acts.set_mem ?_ ?_ (hp _ (by decide)) | dsimp +zetaDelta only

theorem execReachRemove_acts {socket : Nat} {s : State} {t : State} (e : execReachRemove socket s = .next t) :
    Acts [.regs, .mem, .moving, .panel, .mgmt, .outbox] s t := by
  unfold execReachRemove at e
  refine runs_acts (qs := [.regs, .mem, .moving, .panel, .mgmt, .outbox]) (by decide) (fun ps hs hp => ?_) e
  repeat' first
    | with_reducible assumption | with_reducible refine State.reachRemove_acts ?_ (inside hp (by decide)) | extract_lets | intro _
    | with_reducible refine Acts.ite ?_ ?_ | dsimp only | with_reducible refine Acts.set_retraining ?_ (hp _ (by decide))
    | dsimp +zetaDelta only

theorem State.fibreChange_acts {ps : List Part} {z : State} {s : State} {i : Nat} {present : Bool}
    (hs : Acts ps z s) (hp : ∀ p ∈ ([.draws, .regs, .mem, .cmds, .weights, .links, .colls, .turns, .lockage, .panel, .mgmt, .log, .outbox] : List Part), p ∈ ps) :
    Acts ps z (State.fibreChange s i present) := by
  unfold State.fibreChange
  repeat' first
    | with_reducible assumption | with_reducible refine State.raisePanel_acts ?_ (inside hp (by decide))
    | with_reducible refine State.linkDown_acts ?_ (inside hp (by decide))
    | with_reducible refine State.updPort_acts ?_ (inside hp (by decide))
    | with_reducible refine State.raise_acts ?_ (inside hp (by decide)) | extract_lets | intro _ | with_reducible refine Acts.ite ?_ ?_
    | dsimp only | with_reducible refine Acts.set_panel ?_ (hp _ (by decide)) | dsimp +zetaDelta only

theorem execFibreChange_acts {sensor : Nat} {present : Bool} {now : Nat} {s : State} {t : State} (e : execFibreChange sensor present now s = .next t) :
    Acts [.draws, .clock, .regs, .mem, .cmds, .weights, .links, .colls, .turns, .lockage, .panel, .mgmt, .log, .outbox] s t := by
  unfold execFibreChange at e
  refine runs_acts (qs := [.draws, .clock, .regs, .mem, .cmds, .weights, .links, .colls, .turns, .lockage, .panel, .mgmt, .log, .outbox]) (by decide) (fun ps hs hp => ?_) e
  repeat' first
    | with_reducible assumption | with_reducible refine State.fibreChange_acts ?_ (inside hp (by decide))
    | with_reducible refine State.at_acts ?_ (inside hp (by decide)) | extract_lets | intro _ | with_reducible refine Acts.ite ?_ ?_
    | dsimp only | dsimp +zetaDelta only

theorem State.lid_acts {ps : List Part} {z : State} {s : State} {open_ : Bool}
    (hs : Acts ps z s) (hp : ∀ p ∈ ([.panel] : List Part), p ∈ ps) :
    Acts ps z (State.lid s open_) := by
  unfold State.lid
  repeat' first
    | with_reducible assumption | with_reducible refine Acts.set_panel ?_ (hp _ (by decide))

theorem execLidOpen_acts {s : State} {t : State} (e : execLidOpen s = .next t) :
    Acts [.regs, .keepsake, .panel, .mgmt, .sec, .log, .outbox, .pcie] s t := by
  unfold execLidOpen at e
  refine runs_acts (qs := [.regs, .keepsake, .panel, .mgmt, .sec, .log, .outbox, .pcie]) (by decide) (fun ps hs hp => ?_) e
  repeat' first
    | with_reducible assumption | with_reducible refine State.clearLocket_acts ?_ (inside hp (by decide))
    | with_reducible refine State.raisePanel_acts ?_ (inside hp (by decide))
    | with_reducible refine State.endDebug_acts ?_ (inside hp (by decide))
    | with_reducible refine State.tamper_acts ?_ (inside hp (by decide)) | with_reducible refine State.lid_acts ?_ (inside hp (by decide))
    | intro _ | with_reducible refine Acts.ite ?_ ?_ | dsimp only

theorem execLidClose_acts {s : State} {t : State} (e : execLidClose s = .next t) :
    Acts [.regs, .panel, .mgmt, .outbox] s t := by
  unfold execLidClose at e
  refine runs_acts (qs := [.regs, .panel, .mgmt, .outbox]) (by decide) (fun ps hs hp => ?_) e
  repeat' first
    | with_reducible assumption | with_reducible refine State.raisePanel_acts ?_ (inside hp (by decide))
    | with_reducible refine State.lid_acts ?_ (inside hp (by decide)) | intro _ | with_reducible refine Acts.ite ?_ ?_ | dsimp only

theorem execLidOpenUnpowered_acts {s : State} {t : State} (e : execLidOpenUnpowered s = .next t) :
    Acts [.keepsake, .panel] s t := by
  unfold execLidOpenUnpowered at e
  refine runs_acts (qs := [.keepsake, .panel]) (by decide) (fun ps hs hp => ?_) e
  repeat' first
    | with_reducible assumption | with_reducible refine State.keepsakeEvent_acts ?_ (inside hp (by decide))
    | with_reducible refine State.lid_acts ?_ (inside hp (by decide)) | intro _ | with_reducible refine Acts.ite ?_ ?_ | dsimp only
    | with_reducible refine Acts.set_keepsake ?_ (hp _ (by decide))

end Sys2Proof.Machine
end

