-- ==== Sys2Proof/Laws/ActsMgmt.lean ====
section
/-! SUPPORT. What the operations of Machine/Mgmt.lean may do (Laws/Acts.lean): the parts each may change, the invariant kept. -/

namespace Sys2Proof.Machine

open Sys2Proof

theorem State.answer_acts {ps : List Part} {z : State} {s : State} {t : Transport} {code : Nat} {values : List Nat}
    (hs : Acts ps z s) (hp : ∀ p ∈ ([.outbox] : List Part), p ∈ ps) :
    Acts ps z (State.answer s t code values) := by
  unfold State.answer
  repeat' first
    | with_reducible assumption | with_reducible refine State.emit_acts ?_ (inside hp (by decide))

theorem State.answerBytes_acts {ps : List Part} {z : State} {s : State} {t : Transport} {bs : List Byte}
    (hs : Acts ps z s) (hp : ∀ p ∈ ([.outbox] : List Part), p ∈ ps) :
    Acts ps z (State.answerBytes s t bs) := by
  unfold State.answerBytes
  repeat' first
    | with_reducible assumption | with_reducible refine State.emit_acts ?_ (inside hp (by decide))

theorem execSetEndpointId_acts {a0 : Transport} {eid : Nat} {s : State} {t : State} (e : execSetEndpointId a0 eid s = .next t) :
    Acts [.mgmt, .outbox] s t := by
  unfold execSetEndpointId mgmt at e
  refine runs_acts (qs := [.mgmt, .outbox]) (by decide) (fun ps hs hp => ?_) e
  repeat' first
    | with_reducible assumption | with_reducible refine State.answer_acts ?_ (inside hp (by decide)) | intro _
    | with_reducible refine Acts.ite ?_ ?_ | dsimp only | with_reducible refine Acts.set_mgmt ?_ (hp _ (by decide))

theorem execGetEndpointId_acts {a0 : Transport} {s : State} {t : State} (e : execGetEndpointId a0 s = .next t) :
    Acts [.outbox] s t := by
  unfold execGetEndpointId mgmt at e
  refine runs_acts (qs := [.outbox]) (by decide) (fun ps hs hp => ?_) e
  repeat' first
    | with_reducible assumption | with_reducible refine Acts.ite ?_ ?_ | with_reducible refine State.answer_acts ?_ (inside hp (by decide)) | intro _ | dsimp only

theorem execGetEndpointUuid_acts {a0 : Transport} {s : State} {t : State} (e : execGetEndpointUuid a0 s = .next t) :
    Acts [.outbox] s t := by
  unfold execGetEndpointUuid mgmt at e
  refine runs_acts (qs := [.outbox]) (by decide) (fun ps hs hp => ?_) e
  repeat' first
    | with_reducible assumption | with_reducible refine Acts.ite ?_ ?_ | with_reducible refine State.answerBytes_acts ?_ (inside hp (by decide)) | intro _ | dsimp only | with_reducible refine State.answer_acts ?_ (inside hp (by decide))

theorem execGetMctpVersionSupport_acts {a0 : Transport} {s : State} {t : State} (e : execGetMctpVersionSupport a0 s = .next t) :
    Acts [.outbox] s t := by
  unfold execGetMctpVersionSupport mgmt at e
  refine runs_acts (qs := [.outbox]) (by decide) (fun ps hs hp => ?_) e
  repeat' first
    | with_reducible assumption | with_reducible refine Acts.ite ?_ ?_ | with_reducible refine State.answer_acts ?_ (inside hp (by decide)) | intro _ | dsimp only

theorem execGetMessageTypeSupport_acts {a0 : Transport} {s : State} {t : State} (e : execGetMessageTypeSupport a0 s = .next t) :
    Acts [.outbox] s t := by
  unfold execGetMessageTypeSupport mgmt at e
  refine runs_acts (qs := [.outbox]) (by decide) (fun ps hs hp => ?_) e
  repeat' first
    | with_reducible assumption | with_reducible refine Acts.ite ?_ ?_ | with_reducible refine State.answer_acts ?_ (inside hp (by decide)) | intro _ | dsimp only

theorem execGetTid_acts {a0 : Transport} {s : State} {t : State} (e : execGetTid a0 s = .next t) :
    Acts [.outbox] s t := by
  unfold execGetTid mgmt at e
  refine runs_acts (qs := [.outbox]) (by decide) (fun ps hs hp => ?_) e
  repeat' first
    | with_reducible assumption | with_reducible refine Acts.ite ?_ ?_ | with_reducible refine State.answer_acts ?_ (inside hp (by decide)) | intro _ | dsimp only

theorem execGetPldmVersion_acts {a0 : Transport} {type : Nat} {s : State} {t : State} (e : execGetPldmVersion a0 type s = .next t) :
    Acts [.outbox] s t := by
  unfold execGetPldmVersion mgmt at e
  refine runs_acts (qs := [.outbox]) (by decide) (fun ps hs hp => ?_) e
  repeat' first
    | with_reducible assumption | with_reducible refine State.answer_acts ?_ (inside hp (by decide)) | intro _
    | with_reducible refine Acts.ite ?_ ?_ | dsimp only

theorem execGetPldmTypes_acts {a0 : Transport} {s : State} {t : State} (e : execGetPldmTypes a0 s = .next t) :
    Acts [.outbox] s t := by
  unfold execGetPldmTypes mgmt at e
  refine runs_acts (qs := [.outbox]) (by decide) (fun ps hs hp => ?_) e
  repeat' first
    | with_reducible assumption | with_reducible refine Acts.ite ?_ ?_ | with_reducible refine State.answer_acts ?_ (inside hp (by decide)) | intro _ | dsimp only

theorem execGetPldmCommands_acts {a0 : Transport} {type : Nat} {s : State} {t : State} (e : execGetPldmCommands a0 type s = .next t) :
    Acts [.outbox] s t := by
  unfold execGetPldmCommands mgmt at e
  refine runs_acts (qs := [.outbox]) (by decide) (fun ps hs hp => ?_) e
  repeat' first
    | with_reducible assumption | with_reducible refine Acts.ite ?_ ?_ | with_reducible refine State.answer_acts ?_ (inside hp (by decide)) | intro _ | split | dsimp only

theorem execGetPdr_acts {a0 : Transport} {handle : Nat} {s : State} {t : State} (e : execGetPdr a0 handle s = .next t) :
    Acts [.outbox] s t := by
  unfold execGetPdr mgmt at e
  refine runs_acts (qs := [.outbox]) (by decide) (fun ps hs hp => ?_) e
  repeat' first
    | with_reducible assumption | with_reducible refine State.answer_acts ?_ (inside hp (by decide)) | extract_lets | intro _
    | with_reducible refine Acts.ite ?_ ?_ | split | dsimp only | dsimp +zetaDelta only

theorem execGetPdrRepositoryInfo_acts {a0 : Transport} {s : State} {t : State} (e : execGetPdrRepositoryInfo a0 s = .next t) :
    Acts [.outbox] s t := by
  unfold execGetPdrRepositoryInfo mgmt at e
  refine runs_acts (qs := [.outbox]) (by decide) (fun ps hs hp => ?_) e
  repeat' first
    | with_reducible assumption | with_reducible refine Acts.ite ?_ ?_ | with_reducible refine State.answer_acts ?_ (inside hp (by decide)) | intro _ | dsimp only

theorem execGetSensorReading_acts {a0 : Transport} {id : Nat} {s : State} {t : State} (e : execGetSensorReading a0 id s = .next t) :
    Acts [.outbox] s t := by
  unfold execGetSensorReading mgmt at e
  refine runs_acts (qs := [.outbox]) (by decide) (fun ps hs hp => ?_) e
  repeat' first
    | with_reducible assumption | with_reducible refine Acts.ite ?_ ?_ | with_reducible refine State.answer_acts ?_ (inside hp (by decide)) | intro _ | split | dsimp only

theorem execGetStateSensorReadings_acts {a0 : Transport} {id : Nat} {s : State} {t : State} (e : execGetStateSensorReadings a0 id s = .next t) :
    Acts [.outbox] s t := by
  unfold execGetStateSensorReadings mgmt at e
  refine runs_acts (qs := [.outbox]) (by decide) (fun ps hs hp => ?_) e
  repeat' first
    | with_reducible assumption | with_reducible refine Acts.ite ?_ ?_ | with_reducible refine State.answer_acts ?_ (inside hp (by decide)) | intro _ | split | dsimp only

theorem execSetNumericEffecterValue_acts {a0 : Transport} {id : Nat} {v : Nat} {s : State} {t : State} (e : execSetNumericEffecterValue a0 id v s = .next t) :
    Acts [.mgmt, .outbox] s t := by
  unfold execSetNumericEffecterValue mgmt at e
  refine runs_acts (qs := [.mgmt, .outbox]) (by decide) (fun ps hs hp => ?_) e
  repeat' first
    | with_reducible assumption | with_reducible refine State.answer_acts ?_ (inside hp (by decide)) | intro _
    | with_reducible refine Acts.ite ?_ ?_ | dsimp only | with_reducible refine Acts.set_mgmt ?_ (hp _ (by decide))

theorem execGetNumericEffecterValue_acts {a0 : Transport} {id : Nat} {s : State} {t : State} (e : execGetNumericEffecterValue a0 id s = .next t) :
    Acts [.outbox] s t := by
  unfold execGetNumericEffecterValue mgmt at e
  refine runs_acts (qs := [.outbox]) (by decide) (fun ps hs hp => ?_) e
  repeat' first
    | with_reducible assumption | with_reducible refine State.answer_acts ?_ (inside hp (by decide)) | intro _
    | with_reducible refine Acts.ite ?_ ?_ | dsimp only

theorem execSetStateEffecterStates_acts {a0 : Transport} {id : Nat} {v : Nat} {s : State} {t : State} (e : execSetStateEffecterStates a0 id v s = .next t) :
    Acts [.panel, .outbox] s t := by
  unfold execSetStateEffecterStates mgmt at e
  refine runs_acts (qs := [.panel, .outbox]) (by decide) (fun ps hs hp => ?_) e
  repeat' first
    | with_reducible assumption | with_reducible refine State.locate_acts ?_ (inside hp (by decide))
    | with_reducible refine State.answer_acts ?_ (inside hp (by decide)) | intro _ | with_reducible refine Acts.ite ?_ ?_ | dsimp only

theorem execSetEventReceiver_acts {a0 : Transport} {receiver : Nat} {s : State} {t : State} (e : execSetEventReceiver a0 receiver s = .next t) :
    Acts [.mgmt, .outbox] s t := by
  unfold execSetEventReceiver mgmt at e
  refine runs_acts (qs := [.mgmt, .outbox]) (by decide) (fun ps hs hp => ?_) e
  repeat' first
    | with_reducible assumption | with_reducible refine State.answer_acts ?_ (inside hp (by decide)) | extract_lets | intro _
    | with_reducible refine Acts.ite ?_ ?_ | dsimp only | with_reducible refine Acts.set_mgmt ?_ (hp _ (by decide))
    | dsimp +zetaDelta only

theorem execEventMessageCollected_acts {now : Nat} {s : State} {t : State} (e : execEventMessageCollected now s = .next t) :
    Acts [.clock, .mgmt, .outbox] s t := by
  unfold execEventMessageCollected at e
  refine runs_acts (qs := [.clock, .mgmt, .outbox]) (by decide) (fun ps hs hp => ?_) e
  repeat' first
    | with_reducible assumption | with_reducible refine State.answer_acts ?_ (inside hp (by decide))
    | with_reducible refine State.at_acts ?_ (inside hp (by decide)) | extract_lets | intro _ | split | dsimp only
    | with_reducible refine Acts.set_mgmt ?_ (hp _ (by decide)) | dsimp +zetaDelta only

theorem State.putOther_acts {ps : List Part} {z : State} {s : State} {k : FwSlot}
    (hs : Acts ps z s) (hp : ∀ p ∈ ([.sec] : List Part), p ∈ ps) :
    Acts ps z (State.putOther s k) := by
  unfold State.putOther
  repeat' first
    | with_reducible assumption | with_reducible refine Acts.ite ?_ ?_ | with_reducible refine Acts.set_sec ?_ (hp _ (by decide))

theorem State.putUpdate_acts {ps : List Part} {z : State} {s : State} {u : Option FwUpdate}
    (hs : Acts ps z s) (hp : ∀ p ∈ ([.mgmt] : List Part), p ∈ ps) :
    Acts ps z (State.putUpdate s u) := by
  unfold State.putUpdate
  repeat' first
    | with_reducible assumption | with_reducible refine Acts.set_mgmt ?_ (hp _ (by decide))

theorem State.inUpdate_acts {ps : List Part} {z : State} {s : State} {t : Transport} {phases : List Nat} {f : FwUpdate → State}
    (hs : Acts ps z s) (hf : ∀ (x0 : FwUpdate), Acts ps z (f x0)) (hp : ∀ p ∈ ([.outbox] : List Part), p ∈ ps) :
    Acts ps z (State.inUpdate s t phases f) := by
  unfold State.inUpdate
  repeat' first
    | with_reducible assumption | with_reducible refine State.answer_acts ?_ (inside hp (by decide)) | with_reducible refine hf _
    | with_reducible refine Acts.ite ?_ ?_ | split

theorem execQueryDeviceIdentifiers_acts {a0 : Transport} {s : State} {t : State} (e : execQueryDeviceIdentifiers a0 s = .next t) :
    Acts [.outbox] s t := by
  unfold execQueryDeviceIdentifiers mgmt at e
  refine runs_acts (qs := [.outbox]) (by decide) (fun ps hs hp => ?_) e
  repeat' first
    | with_reducible assumption | with_reducible refine Acts.ite ?_ ?_ | with_reducible refine State.answer_acts ?_ (inside hp (by decide)) | intro _ | dsimp only

theorem execGetFirmwareParameters_acts {a0 : Transport} {s : State} {t : State} (e : execGetFirmwareParameters a0 s = .next t) :
    Acts [.outbox] s t := by
  unfold execGetFirmwareParameters mgmt at e
  refine runs_acts (qs := [.outbox]) (by decide) (fun ps hs hp => ?_) e
  repeat' first
    | with_reducible assumption | with_reducible refine Acts.ite ?_ ?_ | with_reducible refine State.answer_acts ?_ (inside hp (by decide)) | intro _ | dsimp only

theorem execRequestUpdate_acts {a0 : Transport} {s : State} {t : State} (e : execRequestUpdate a0 s = .next t) :
    Acts [.mgmt, .outbox] s t := by
  unfold execRequestUpdate mgmt at e
  refine runs_acts (qs := [.mgmt, .outbox]) (by decide) (fun ps hs hp => ?_) e
  repeat' first
    | with_reducible assumption | with_reducible refine State.putUpdate_acts ?_ (inside hp (by decide))
    | with_reducible refine State.answer_acts ?_ (inside hp (by decide)) | intro _ | with_reducible refine Acts.ite ?_ ?_ | dsimp only

theorem execPassComponentTable_acts {a0 : Transport} {component : Nat} {s : State} {t : State} (e : execPassComponentTable a0 component s = .next t) :
    Acts [.mgmt, .outbox] s t := by
  unfold execPassComponentTable mgmt at e
  refine runs_acts (qs := [.mgmt, .outbox]) (by decide) (fun ps hs hp => ?_) e
  repeat' first
    | with_reducible assumption | with_reducible refine State.putUpdate_acts ?_ (inside hp (by decide))
    | with_reducible refine State.inUpdate_acts ?_ ?_ (inside hp (by decide))
    | with_reducible refine State.answer_acts ?_ (inside hp (by decide)) | intro _ | with_reducible refine Acts.ite ?_ ?_ | dsimp only

theorem execUpdateComponent_acts {a0 : Transport} {component : Nat} {size : Nat} {s : State} {t : State} (e : execUpdateComponent a0 component size s = .next t) :
    Acts [.mgmt, .sec, .outbox] s t := by
  unfold execUpdateComponent mgmt at e
  refine runs_acts (qs := [.mgmt, .sec, .outbox]) (by decide) (fun ps hs hp => ?_) e
  repeat' first
    | with_reducible assumption | with_reducible refine State.putUpdate_acts ?_ (inside hp (by decide))
    | with_reducible refine State.inUpdate_acts ?_ ?_ (inside hp (by decide))
    | with_reducible refine State.putOther_acts ?_ (inside hp (by decide))
    | with_reducible refine State.answer_acts ?_ (inside hp (by decide)) | intro _ | with_reducible refine Acts.ite ?_ ?_ | dsimp only

theorem State.transferComplete_acts {ps : List Part} {z : State} {s : State} {t : Transport} {u : FwUpdate} {v : FwUpdate}
    (hs : Acts ps z s) (hp : ∀ p ∈ ([.outbox] : List Part), p ∈ ps) :
    Acts ps z (State.transferComplete s t u v) := by
  unfold State.transferComplete
  repeat' first
    | with_reducible assumption | with_reducible refine State.answer_acts ?_ (inside hp (by decide))
    | with_reducible refine Acts.ite ?_ ?_

theorem execRequestFirmwareData_acts {a0 : Transport} {off : Nat} {bytes : List Byte} {s : State} {t : State} (e : execRequestFirmwareData a0 off bytes s = .next t) :
    Acts [.mgmt, .sec, .outbox] s t := by
  unfold execRequestFirmwareData mgmt at e
  refine runs_acts (qs := [.mgmt, .sec, .outbox]) (by decide) (fun ps hs hp => ?_) e
  repeat' first
    | with_reducible assumption | with_reducible refine State.transferComplete_acts ?_ (inside hp (by decide))
    | with_reducible refine State.putUpdate_acts ?_ (inside hp (by decide))
    | with_reducible refine State.putOther_acts ?_ (inside hp (by decide))
    | with_reducible refine State.inUpdate_acts ?_ ?_ (inside hp (by decide))
    | with_reducible refine State.answer_acts ?_ (inside hp (by decide)) | extract_lets | intro _ | with_reducible refine Acts.ite ?_ ?_
    | dsimp only | dsimp +zetaDelta only

theorem execVerifyComplete_acts {a0 : Transport} {s : State} {t : State} (e : execVerifyComplete a0 s = .next t) :
    Acts [.mgmt, .outbox] s t := by
  unfold execVerifyComplete mgmt at e
  refine runs_acts (qs := [.mgmt, .outbox]) (by decide) (fun ps hs hp => ?_) e
  repeat' first
    | with_reducible assumption | with_reducible refine State.putUpdate_acts ?_ (inside hp (by decide))
    | with_reducible refine State.inUpdate_acts ?_ ?_ (inside hp (by decide))
    | with_reducible refine State.answer_acts ?_ (inside hp (by decide)) | extract_lets | intro _ | with_reducible refine Acts.ite ?_ ?_
    | dsimp only | dsimp +zetaDelta only

theorem execActivateFirmware_acts {a0 : Transport} {s : State} {t : State} (e : execActivateFirmware a0 s = .next t) :
    Acts [.mgmt, .sec, .outbox] s t := by
  unfold execActivateFirmware mgmt at e
  refine runs_acts (qs := [.mgmt, .sec, .outbox]) (by decide) (fun ps hs hp => ?_) e
  repeat' first
    | with_reducible assumption | with_reducible refine Acts.ite ?_ ?_ | with_reducible refine State.putUpdate_acts ?_ (inside hp (by decide))
    | with_reducible refine State.inUpdate_acts ?_ ?_ (inside hp (by decide))
    | with_reducible refine State.putOther_acts ?_ (inside hp (by decide))
    | with_reducible refine State.answer_acts ?_ (inside hp (by decide)) | intro _ | dsimp only

theorem execGetStatus_acts {a0 : Transport} {s : State} {t : State} (e : execGetStatus a0 s = .next t) :
    Acts [.outbox] s t := by
  unfold execGetStatus mgmt at e
  refine runs_acts (qs := [.outbox]) (by decide) (fun ps hs hp => ?_) e
  repeat' first
    | with_reducible assumption | with_reducible refine Acts.ite ?_ ?_ | with_reducible refine State.answer_acts ?_ (inside hp (by decide)) | intro _ | split | dsimp only

theorem execCancelUpdateComponent_acts {a0 : Transport} {s : State} {t : State} (e : execCancelUpdateComponent a0 s = .next t) :
    Acts [.mgmt, .outbox] s t := by
  unfold execCancelUpdateComponent mgmt at e
  refine runs_acts (qs := [.mgmt, .outbox]) (by decide) (fun ps hs hp => ?_) e
  repeat' first
    | with_reducible assumption | with_reducible refine Acts.ite ?_ ?_ | with_reducible refine State.putUpdate_acts ?_ (inside hp (by decide))
    | with_reducible refine State.inUpdate_acts ?_ ?_ (inside hp (by decide))
    | with_reducible refine State.answer_acts ?_ (inside hp (by decide)) | intro _ | dsimp only

theorem execCancelUpdate_acts {a0 : Transport} {s : State} {t : State} (e : execCancelUpdate a0 s = .next t) :
    Acts [.mgmt, .outbox] s t := by
  unfold execCancelUpdate mgmt at e
  refine runs_acts (qs := [.mgmt, .outbox]) (by decide) (fun ps hs hp => ?_) e
  repeat' first
    | with_reducible assumption | with_reducible refine Acts.ite ?_ ?_ | with_reducible refine State.putUpdate_acts ?_ (inside hp (by decide))
    | with_reducible refine State.inUpdate_acts ?_ ?_ (inside hp (by decide))
    | with_reducible refine State.answer_acts ?_ (inside hp (by decide)) | intro _ | dsimp only

theorem State.putSpdm_acts {ps : List Part} {z : State} {s : State} {t : Transport} {k : SpdmPort}
    (hs : Acts ps z s) (hp : ∀ p ∈ ([.mgmt] : List Part), p ∈ ps) :
    Acts ps z (State.putSpdm s t k) := by
  unfold State.putSpdm
  repeat' first
    | with_reducible assumption | split | with_reducible refine Acts.set_mgmt ?_ (hp _ (by decide))

theorem State.spdmError_acts {ps : List Part} {z : State} {s : State} {t : Transport} {code : Nat}
    (hs : Acts ps z s) (hp : ∀ p ∈ ([.mgmt, .log, .outbox] : List Part), p ∈ ps) :
    Acts ps z (State.spdmError s t code) := by
  unfold State.spdmError
  repeat' first
    | with_reducible assumption | with_reducible refine State.logEvent_acts ?_ (inside hp (by decide))
    | with_reducible refine State.putSpdm_acts ?_ (inside hp (by decide))
    | with_reducible refine State.answer_acts ?_ (inside hp (by decide)) | extract_lets | dsimp +zetaDelta only

theorem atStage_acts {ps : List Part} {z : State} {n : Nat} {t : Transport} {f : State → SpdmPort → State} {s : State} {k : SpdmPort}
    (hf : ∀ (x0 : State) (x1 : SpdmPort), Acts ps z x0 → Acts ps z (f x0 x1)) (hs : Acts ps z s) (hp : ∀ p ∈ ([.mgmt, .log, .outbox] : List Part), p ∈ ps) :
    Acts ps z (atStage n t f s k) := by
  unfold atStage
  repeat' first
    | with_reducible assumption | with_reducible refine State.spdmError_acts ?_ (inside hp (by decide)) | with_reducible refine hf _ _ ?_
    | with_reducible refine Acts.ite ?_ ?_

theorem State.dropSecrets_acts {ps : List Part} {z : State} {s : State} {t : Transport} {ends : Nat → Bool}
    (hs : Acts ps z s) (hp : ∀ p ∈ ([.sec] : List Part), p ∈ ps) :
    Acts ps z (State.dropSecrets s t ends) := by
  unfold State.dropSecrets
  repeat' first
    | with_reducible assumption | intro _ | dsimp only | with_reducible refine Acts.set_sec ?_ (hp _ (by decide))

theorem State.keepSecret_acts {ps : List Part} {z : State} {s : State} {t : Transport} {session : Nat}
    (hs : Acts ps z s) (hp : ∀ p ∈ ([.draws, .sec] : List Part), p ∈ ps) :
    Acts ps z (State.keepSecret s t session) := by
  unfold State.keepSecret
  repeat' first
    | with_reducible assumption | with_reducible refine State.dropSecrets_acts ?_ (inside hp (by decide))
    | with_reducible refine State.draw_acts ?_ (inside hp (by decide)) | extract_lets | dsimp only
    | with_reducible refine Acts.set_sec ?_ (hp _ (by decide)) | dsimp +zetaDelta only

theorem execGetVersion_acts {a0 : Transport} {wellFormed : Bool} {now : Nat} {s : State} {t : State} (e : execGetVersion a0 wellFormed now s = .next t) :
    Acts [.clock, .mgmt, .sec, .log, .outbox] s t := by
  unfold execGetVersion spdm at e
  refine runs_acts (qs := [.clock, .mgmt, .sec, .log, .outbox]) (by decide) (fun ps hs hp => ?_) e
  repeat' first
    | with_reducible assumption | with_reducible refine Acts.ite ?_ ?_ | with_reducible refine State.dropSecrets_acts ?_ (inside hp (by decide))
    | with_reducible refine State.putSpdm_acts ?_ (inside hp (by decide))
    | with_reducible refine State.answer_acts ?_ (inside hp (by decide)) | intro _ | dsimp only | with_reducible refine State.spdmError_acts ?_ (inside hp (by decide)) | with_reducible refine State.at_acts ?_ (inside hp (by decide)) | extract_lets | dsimp +zetaDelta only

theorem execGetCapabilities_acts {a0 : Transport} {wellFormed : Bool} {now : Nat} {s : State} {t : State} (e : execGetCapabilities a0 wellFormed now s = .next t) :
    Acts [.clock, .mgmt, .log, .outbox] s t := by
  unfold execGetCapabilities spdm at e
  refine runs_acts (qs := [.clock, .mgmt, .log, .outbox]) (by decide) (fun ps hs hp => ?_) e
  repeat' first
    | with_reducible assumption | with_reducible refine Acts.ite ?_ ?_ | with_reducible refine State.putSpdm_acts ?_ (inside hp (by decide))
    | with_reducible refine State.answer_acts ?_ (inside hp (by decide))
    | with_reducible refine atStage_acts ?_ ?_ (inside hp (by decide)) | intro _ | dsimp only | with_reducible refine State.spdmError_acts ?_ (inside hp (by decide)) | with_reducible refine State.at_acts ?_ (inside hp (by decide)) | extract_lets | dsimp +zetaDelta only

theorem execNegotiateAlgorithms_acts {a0 : Transport} {offered : SpdmAlgorithms} {wellFormed : Bool} {now : Nat} {s : State} {t : State} (e : execNegotiateAlgorithms a0 offered wellFormed now s = .next t) :
    Acts [.clock, .mgmt, .log, .outbox] s t := by
  unfold execNegotiateAlgorithms spdm at e
  refine runs_acts (qs := [.clock, .mgmt, .log, .outbox]) (by decide) (fun ps hs hp => ?_) e
  repeat' first
    | with_reducible assumption | with_reducible refine State.spdmError_acts ?_ (inside hp (by decide))
    | with_reducible refine State.putSpdm_acts ?_ (inside hp (by decide))
    | with_reducible refine State.answer_acts ?_ (inside hp (by decide))
    | with_reducible refine atStage_acts ?_ ?_ (inside hp (by decide)) | intro _ | with_reducible refine Acts.ite ?_ ?_ | dsimp only | with_reducible refine State.at_acts ?_ (inside hp (by decide)) | extract_lets | dsimp +zetaDelta only

theorem execGetDigests_acts {a0 : Transport} {wellFormed : Bool} {now : Nat} {s : State} {t : State} (e : execGetDigests a0 wellFormed now s = .next t) :
    Acts [.clock, .mgmt, .log, .outbox] s t := by
  unfold execGetDigests spdm at e
  refine runs_acts (qs := [.clock, .mgmt, .log, .outbox]) (by decide) (fun ps hs hp => ?_) e
  repeat' first
    | with_reducible assumption | with_reducible refine Acts.ite ?_ ?_ | with_reducible refine State.answerBytes_acts ?_ (inside hp (by decide))
    | with_reducible refine atStage_acts ?_ ?_ (inside hp (by decide)) | intro _ | dsimp only | with_reducible refine State.answer_acts ?_ (inside hp (by decide)) | with_reducible refine State.spdmError_acts ?_ (inside hp (by decide)) | with_reducible refine State.at_acts ?_ (inside hp (by decide)) | extract_lets | dsimp +zetaDelta only

theorem execGetCertificate_acts {a0 : Transport} {slot : Nat} {off : Nat} {len : Nat} {wellFormed : Bool} {now : Nat} {s : State} {t : State} (e : execGetCertificate a0 slot off len wellFormed now s = .next t) :
    Acts [.clock, .mgmt, .log, .outbox] s t := by
  unfold execGetCertificate spdm at e
  refine runs_acts (qs := [.clock, .mgmt, .log, .outbox]) (by decide) (fun ps hs hp => ?_) e
  repeat' first
    | with_reducible assumption | with_reducible refine State.answerBytes_acts ?_ (inside hp (by decide))
    | with_reducible refine State.spdmError_acts ?_ (inside hp (by decide))
    | with_reducible refine atStage_acts ?_ ?_ (inside hp (by decide)) | intro _ | with_reducible refine Acts.ite ?_ ?_ | dsimp only | with_reducible refine State.answer_acts ?_ (inside hp (by decide)) | with_reducible refine State.at_acts ?_ (inside hp (by decide)) | extract_lets | dsimp +zetaDelta only

theorem State.answerSigned_acts {ps : List Part} {z : State} {s : State} {t : Transport} {nonce : List Byte} {content : List Byte}
    (hs : Acts ps z s) (hp : ∀ p ∈ ([.draws, .outbox] : List Part), p ∈ ps) :
    Acts ps z (State.answerSigned s t nonce content) := by
  unfold State.answerSigned
  repeat' first
    | with_reducible assumption | with_reducible refine State.answerBytes_acts ?_ (inside hp (by decide))
    | with_reducible refine State.draw_acts ?_ (inside hp (by decide)) | extract_lets | dsimp only | dsimp +zetaDelta only

theorem execChallenge_acts {a0 : Transport} {slot : Nat} {nonce : List Byte} {wellFormed : Bool} {now : Nat} {s : State} {t : State} (e : execChallenge a0 slot nonce wellFormed now s = .next t) :
    Acts [.draws, .clock, .mgmt, .log, .outbox] s t := by
  unfold execChallenge spdm at e
  refine runs_acts (qs := [.draws, .clock, .mgmt, .log, .outbox]) (by decide) (fun ps hs hp => ?_) e
  repeat' first
    | with_reducible assumption | with_reducible refine State.answerSigned_acts ?_ (inside hp (by decide))
    | with_reducible refine State.spdmError_acts ?_ (inside hp (by decide))
    | with_reducible refine atStage_acts ?_ ?_ (inside hp (by decide)) | intro _ | with_reducible refine Acts.ite ?_ ?_ | dsimp only | with_reducible refine State.answer_acts ?_ (inside hp (by decide)) | with_reducible refine State.at_acts ?_ (inside hp (by decide)) | extract_lets | dsimp +zetaDelta only

theorem execGetMeasurements_acts {a0 : Transport} {index : Nat} {nonce : List Byte} {wellFormed : Bool} {now : Nat} {s : State} {t : State} (e : execGetMeasurements a0 index nonce wellFormed now s = .next t) :
    Acts [.draws, .clock, .mgmt, .log, .outbox] s t := by
  unfold execGetMeasurements spdm at e
  refine runs_acts (qs := [.draws, .clock, .mgmt, .log, .outbox]) (by decide) (fun ps hs hp => ?_) e
  repeat' first
    | with_reducible assumption | with_reducible refine State.answerSigned_acts ?_ (inside hp (by decide))
    | with_reducible refine State.answerBytes_acts ?_ (inside hp (by decide))
    | with_reducible refine State.spdmError_acts ?_ (inside hp (by decide))
    | with_reducible refine atStage_acts ?_ ?_ (inside hp (by decide)) | extract_lets | intro _ | with_reducible refine Acts.ite ?_ ?_
    | split | dsimp only | dsimp +zetaDelta only | with_reducible refine State.answer_acts ?_ (inside hp (by decide)) | with_reducible refine State.at_acts ?_ (inside hp (by decide)) | extract_lets | dsimp +zetaDelta only

theorem execKeyExchange_acts {a0 : Transport} {share : List Byte} {wellFormed : Bool} {now : Nat} {s : State} {t : State} (e : execKeyExchange a0 share wellFormed now s = .next t) :
    Acts [.draws, .clock, .mgmt, .sec, .log, .outbox] s t := by
  unfold execKeyExchange spdm at e
  refine runs_acts (qs := [.draws, .clock, .mgmt, .sec, .log, .outbox]) (by decide) (fun ps hs hp => ?_) e
  repeat' first
    | with_reducible assumption | with_reducible refine State.answerSigned_acts ?_ (inside hp (by decide))
    | with_reducible refine State.keepSecret_acts ?_ (inside hp (by decide))
    | with_reducible refine State.spdmError_acts ?_ (inside hp (by decide))
    | with_reducible refine State.putSpdm_acts ?_ (inside hp (by decide))
    | with_reducible refine atStage_acts ?_ ?_ (inside hp (by decide)) | extract_lets | intro _ | with_reducible refine Acts.ite ?_ ?_
    | dsimp only | dsimp +zetaDelta only | with_reducible refine State.answer_acts ?_ (inside hp (by decide)) | with_reducible refine State.at_acts ?_ (inside hp (by decide)) | extract_lets | dsimp +zetaDelta only

theorem inSession_acts {ps : List Part} {z : State} {finished : Bool} {t : Transport} {session : Nat} {f : State → SpdmPort → State} {s : State} {k : SpdmPort}
    (hf : ∀ (x0 : State) (x1 : SpdmPort), Acts ps z x0 → Acts ps z (f x0 x1)) (hs : Acts ps z s) (hp : ∀ p ∈ ([.mgmt, .log, .outbox] : List Part), p ∈ ps) :
    Acts ps z (inSession finished t session f s k) := by
  unfold inSession
  repeat' first
    | with_reducible assumption | with_reducible refine State.spdmError_acts ?_ (inside hp (by decide)) | with_reducible refine hf _ _ ?_
    | with_reducible refine Acts.ite ?_ ?_

theorem execFinish_acts {a0 : Transport} {session : Nat} {wellFormed : Bool} {now : Nat} {s : State} {t : State} (e : execFinish a0 session wellFormed now s = .next t) :
    Acts [.draws, .clock, .mgmt, .sec, .log, .outbox] s t := by
  unfold execFinish spdm at e
  refine runs_acts (qs := [.draws, .clock, .mgmt, .sec, .log, .outbox]) (by decide) (fun ps hs hp => ?_) e
  repeat' first
    | with_reducible assumption | with_reducible refine State.keepSecret_acts ?_ (inside hp (by decide))
    | with_reducible refine State.putSpdm_acts ?_ (inside hp (by decide))
    | with_reducible refine State.answer_acts ?_ (inside hp (by decide))
    | with_reducible refine inSession_acts ?_ ?_ (inside hp (by decide)) | intro _ | with_reducible refine Acts.ite ?_ ?_ | dsimp only | with_reducible refine State.spdmError_acts ?_ (inside hp (by decide)) | with_reducible refine State.at_acts ?_ (inside hp (by decide)) | extract_lets | dsimp +zetaDelta only

theorem execHeartbeat_acts {a0 : Transport} {session : Nat} {wellFormed : Bool} {now : Nat} {s : State} {t : State} (e : execHeartbeat a0 session wellFormed now s = .next t) :
    Acts [.clock, .mgmt, .log, .outbox] s t := by
  unfold execHeartbeat spdm at e
  refine runs_acts (qs := [.clock, .mgmt, .log, .outbox]) (by decide) (fun ps hs hp => ?_) e
  repeat' first
    | with_reducible assumption | with_reducible refine Acts.ite ?_ ?_ | with_reducible refine State.answer_acts ?_ (inside hp (by decide))
    | with_reducible refine inSession_acts ?_ ?_ (inside hp (by decide)) | intro _ | dsimp only | with_reducible refine State.spdmError_acts ?_ (inside hp (by decide)) | with_reducible refine State.at_acts ?_ (inside hp (by decide)) | extract_lets | dsimp +zetaDelta only

theorem execKeyUpdate_acts {a0 : Transport} {session : Nat} {wellFormed : Bool} {now : Nat} {s : State} {t : State} (e : execKeyUpdate a0 session wellFormed now s = .next t) :
    Acts [.draws, .clock, .mgmt, .sec, .log, .outbox] s t := by
  unfold execKeyUpdate spdm at e
  refine runs_acts (qs := [.draws, .clock, .mgmt, .sec, .log, .outbox]) (by decide) (fun ps hs hp => ?_) e
  repeat' first
    | with_reducible assumption | with_reducible refine Acts.ite ?_ ?_ | with_reducible refine State.keepSecret_acts ?_ (inside hp (by decide))
    | with_reducible refine State.answer_acts ?_ (inside hp (by decide))
    | with_reducible refine inSession_acts ?_ ?_ (inside hp (by decide)) | intro _ | dsimp only | with_reducible refine State.spdmError_acts ?_ (inside hp (by decide)) | with_reducible refine State.at_acts ?_ (inside hp (by decide)) | extract_lets | dsimp +zetaDelta only

theorem execEndSession_acts {a0 : Transport} {session : Nat} {wellFormed : Bool} {now : Nat} {s : State} {t : State} (e : execEndSession a0 session wellFormed now s = .next t) :
    Acts [.clock, .mgmt, .sec, .log, .outbox] s t := by
  unfold execEndSession spdm at e
  refine runs_acts (qs := [.clock, .mgmt, .sec, .log, .outbox]) (by decide) (fun ps hs hp => ?_) e
  repeat' first
    | with_reducible assumption | with_reducible refine Acts.ite ?_ ?_ | with_reducible refine State.dropSecrets_acts ?_ (inside hp (by decide))
    | with_reducible refine State.putSpdm_acts ?_ (inside hp (by decide))
    | with_reducible refine State.answer_acts ?_ (inside hp (by decide))
    | with_reducible refine inSession_acts ?_ ?_ (inside hp (by decide)) | intro _ | dsimp only | with_reducible refine State.spdmError_acts ?_ (inside hp (by decide)) | with_reducible refine State.at_acts ?_ (inside hp (by decide)) | extract_lets | dsimp +zetaDelta only

theorem execSpdmFence_acts {a0 : Transport} {now : Nat} {s : State} {t : State} (e : execSpdmFence a0 now s = .next t) :
    Acts [.clock, .mgmt, .log, .outbox] s t := by
  unfold execSpdmFence at e
  refine runs_acts (qs := [.clock, .mgmt, .log, .outbox]) (by decide) (fun ps hs hp => ?_) e
  repeat' first
    | with_reducible assumption | with_reducible refine State.logEvent_acts ?_ (inside hp (by decide))
    | with_reducible refine State.putSpdm_acts ?_ (inside hp (by decide)) | with_reducible refine State.at_acts ?_ (inside hp (by decide))
    | extract_lets | intro _ | with_reducible refine Acts.ite ?_ ?_ | dsimp only | dsimp +zetaDelta only

theorem execSpdmFenceExpiry_acts {a0 : Transport} {now : Nat} {s : State} {t : State} (e : execSpdmFenceExpiry a0 now s = .next t) :
    Acts [.clock, .mgmt] s t := by
  unfold execSpdmFenceExpiry at e
  refine runs_acts (qs := [.clock, .mgmt]) (by decide) (fun ps hs hp => ?_) e
  repeat' first
    | with_reducible assumption | with_reducible refine State.putSpdm_acts ?_ (inside hp (by decide))
    | with_reducible refine State.at_acts ?_ (inside hp (by decide)) | extract_lets | intro _ | with_reducible refine Acts.ite ?_ ?_
    | split | dsimp only | dsimp +zetaDelta only

theorem execMgmtUnsupportedCommand_acts {a0 : Transport} {protocol : MgmtProtocol} {a2 : Nat} {s : State} {t : State} (e : execMgmtUnsupportedCommand a0 protocol a2 s = .next t) :
    Acts [.mgmt, .log, .outbox] s t := by
  unfold execMgmtUnsupportedCommand at e
  refine runs_acts (qs := [.mgmt, .log, .outbox]) (by decide) (fun ps hs hp => ?_) e
  repeat' first
    | with_reducible assumption | with_reducible refine State.spdmError_acts ?_ (inside hp (by decide))
    | with_reducible refine State.answer_acts ?_ (inside hp (by decide)) | intro _ | with_reducible refine Acts.ite ?_ ?_ | dsimp only

theorem execDoeDiscovery_acts {index : Nat} {s : State} {t : State} (e : execDoeDiscovery index s = .next t) :
    Acts [.outbox] s t := by
  unfold execDoeDiscovery at e
  refine runs_acts (qs := [.outbox]) (by decide) (fun ps hs hp => ?_) e
  repeat' first
    | with_reducible assumption | with_reducible refine State.answer_acts ?_ (inside hp (by decide)) | intro _
    | with_reducible refine Acts.ite ?_ ?_ | dsimp only

theorem execIdeKm_acts {session : Nat} {msg : IdeKm} {s : State} {t : State} (e : execIdeKm session msg s = .next t) :
    Acts [.mgmt, .sec, .log, .outbox, .pcie] s t := by
  unfold execIdeKm at e
  refine runs_acts (qs := [.mgmt, .sec, .log, .outbox, .pcie]) (by decide) (fun ps hs hp => ?_) e
  repeat' first
    | with_reducible assumption | with_reducible refine State.spdmError_acts ?_ (inside hp (by decide))
    | with_reducible refine State.answer_acts ?_ (inside hp (by decide)) | intro _ | with_reducible refine Acts.ite ?_ ?_ | dsimp only
    | with_reducible refine Acts.set_pcie_sec ?_ (hp _ (by decide)) (hp _ (by decide))

end Sys2Proof.Machine
end

