-- ==== Sys2Proof/Laws/ActsLogbook.lean ====
section
/-! SUPPORT. What the operations of Machine/Logbook.lean may do (Laws/Acts.lean): the parts each may change, the invariant kept. -/

namespace Sys2Proof.Machine

open Sys2Proof

theorem State.getLog_acts {ps : List Part} {z : State} {s : State} {c : Cmd}
    (hs : Acts ps z s) (hp : ∀ p ∈ ([.draws, .regs, .mem, .host, .queues, .cmds, .weights, .log, .outbox] : List Part), p ∈ ps) :
    Acts ps z (State.getLog s c) := by
  unfold State.getLog
  repeat' first
    | with_reducible assumption | with_reducible refine State.writePlace_acts ?_ (inside hp (by decide))
    | with_reducible refine State.refuse_acts ?_ (inside hp (by decide))
    | with_reducible refine State.finish_acts ?_ (inside hp (by decide)) | extract_lets | intro _ | split | dsimp only
    | dsimp +zetaDelta only

theorem execGetLog_acts {c : CmdRef} {hv : HostView} {s : State} {t : State} (e : execGetLog c hv s = .next t) :
    Acts [.draws, .regs, .mem, .host, .queues, .cmds, .weights, .log, .outbox] s t := by
  unfold execGetLog at e
  refine runs_acts (qs := [.draws, .regs, .mem, .host, .queues, .cmds, .weights, .log, .outbox, .acting]) (by decide) (fun ps hs hp => ?_) e
  repeat' first
    | with_reducible assumption | with_reducible refine State.getLog_acts ?_ (inside hp (by decide))
    | with_reducible refine State.start_acts ?_ ?_ (inside hp (by decide))
    | with_reducible refine State.sees_acts ?_ (inside hp (by decide)) | intro _ | dsimp only

theorem State.writeEntry_acts {ps : List Part} {z : State} {s : State} {a1 : BookEntry}
    (hs : Acts ps z s) (hp : ∀ p ∈ ([.draws, .regs, .mem, .weights, .logbook, .log, .outbox] : List Part), p ∈ ps) :
    Acts ps z (State.writeEntry s a1) := by
  unfold State.writeEntry
  repeat' first
    | with_reducible assumption | with_reducible refine State.writeMem_acts ?_ (inside hp (by decide)) | extract_lets | intro _
    | with_reducible refine Acts.ite ?_ ?_ | dsimp only | with_reducible refine Acts.set_logbook ?_ (hp _ (by decide))
    | dsimp +zetaDelta only

theorem State.flushBook_acts {ps : List Part} {z : State} {s : State}
    (hs : Acts ps z s) (hp : ∀ p ∈ ([.draws, .regs, .mem, .weights, .logbook, .log, .outbox] : List Part), p ∈ ps) :
    Acts ps z (State.flushBook s) := by
  unfold State.flushBook
  repeat' first
    | with_reducible assumption | with_reducible refine State.writeEntry_acts ?_ (inside hp (by decide))
    | with_reducible refine Acts.foldl ?_ ?_ | with_reducible refine Acts.foldl_snd ?_ ?_ | intro _ | dsimp only
    | with_reducible refine Acts.set_logbook ?_ (hp _ (by decide))

theorem execLogbookBufferFlush_acts {now : Nat} {s : State} {t : State} (e : execLogbookBufferFlush now s = .next t) :
    Acts [.draws, .clock, .regs, .mem, .weights, .logbook, .log, .outbox] s t := by
  unfold execLogbookBufferFlush at e
  refine runs_acts (qs := [.draws, .clock, .regs, .mem, .weights, .logbook, .log, .outbox]) (by decide) (fun ps hs hp => ?_) e
  repeat' first
    | with_reducible assumption | with_reducible refine State.flushBook_acts ?_ (inside hp (by decide))
    | with_reducible refine State.at_acts ?_ (inside hp (by decide)) | extract_lets | intro _ | with_reducible refine Acts.ite ?_ ?_
    | dsimp only | dsimp +zetaDelta only

theorem State.bookStart_acts {ps : List Part} {z : State} {s : State}
    (hs : Acts ps z s) (hp : ∀ p ∈ ([.logbook] : List Part), p ∈ ps) :
    Acts ps z (State.bookStart s) := by
  unfold State.bookStart
  repeat' first
    | with_reducible assumption | with_reducible refine Acts.set_logbook ?_ (hp _ (by decide))

theorem State.bookMark_acts {ps : List Part} {z : State} {s : State} {c : Cmd}
    (hs : Acts ps z s) (hp : ∀ p ∈ ([.draws, .cmds, .logbook] : List Part), p ∈ ps) :
    Acts ps z (State.bookMark s c) := by
  unfold State.bookMark
  repeat' first
    | with_reducible assumption | with_reducible refine State.finish_acts ?_ (inside hp (by decide))
    | with_reducible refine State.record_acts ?_ (inside hp (by decide))
    | with_reducible refine State.draw_acts ?_ (inside hp (by decide)) | extract_lets | with_reducible refine Acts.ite ?_ ?_ | split
    | dsimp only | dsimp +zetaDelta only

theorem State.logbookCtrl_acts {ps : List Part} {z : State} {s : State} {c : Cmd}
    (hs : Acts ps z s) (hp : ∀ p ∈ ([.draws, .regs, .queues, .cmds, .logbook, .log, .outbox] : List Part), p ∈ ps) :
    Acts ps z (State.logbookCtrl s c) := by
  unfold State.logbookCtrl
  repeat' first
    | with_reducible assumption | with_reducible refine State.bookStart_acts ?_ (inside hp (by decide))
    | with_reducible refine State.bookMark_acts ?_ (inside hp (by decide))
    | with_reducible refine State.running_acts ?_ (inside hp (by decide))
    | with_reducible refine State.finish_acts ?_ (inside hp (by decide))
    | with_reducible refine State.refuse_acts ?_ (inside hp (by decide)) | extract_lets | with_reducible refine Acts.ite ?_ ?_ | split
    | with_reducible refine Acts.set_logbook ?_ (hp _ (by decide)) | dsimp +zetaDelta only

theorem execLogbookCtrl_acts {c : CmdRef} {hv : HostView} {s : State} {t : State} (e : execLogbookCtrl c hv s = .next t) :
    Acts [.draws, .regs, .host, .queues, .cmds, .logbook, .log, .outbox] s t := by
  unfold execLogbookCtrl at e
  refine runs_acts (qs := [.draws, .regs, .host, .queues, .cmds, .logbook, .log, .outbox, .acting]) (by decide) (fun ps hs hp => ?_) e
  repeat' first
    | with_reducible assumption | with_reducible refine State.startOrGoOn_acts ?_ ?_ (inside hp (by decide))
    | with_reducible refine State.logbookCtrl_acts ?_ (inside hp (by decide))
    | with_reducible refine State.sees_acts ?_ (inside hp (by decide)) | intro _ | dsimp only

end Sys2Proof.Machine
end

