-- ==== Sys2Proof/Laws/ActsAccess.lean ====
section
/-! SUPPORT. What the operations of Machine/Access.lean may do (Laws/Acts.lean): the parts each may change, the invariant kept. -/

namespace Sys2Proof.Machine

open Sys2Proof

theorem State.read32_acts {ps : List Part} {z : State} {s : State} {fn : Nat} {a : Nat}
    (hs : Acts ps z s) (hp : ∀ p ∈ ([.regs, .weights, .serving, .outbox, .acting] : List Part), p ∈ ps) :
    Acts ps z (State.read32 s fn a) := by
  unfold State.read32
  repeat' first
    | with_reducible assumption | with_reducible refine State.emit_acts ?_ (inside hp (by decide)) | extract_lets | intro _
    | with_reducible refine Acts.ite ?_ ?_ | split | dsimp only | with_reducible refine Acts.set_heldHigh ?_ (hp _ (by decide))
    | with_reducible refine Acts.set_adapterView ?_ (hp _ (by decide)) | with_reducible refine Acts.set_manifestView ?_ (hp _ (by decide))
    | dsimp +zetaDelta only

theorem execWideLowWordRead_acts {fn : Nat} {addr : Nat} {s : State} {t : State} (e : execWideLowWordRead fn addr s = .next t) :
    Acts [.draws, .regs, .weights, .serving, .outbox] s t := by
  unfold execWideLowWordRead runsHost at e
  refine runs_acts (qs := [.draws, .regs, .weights, .serving, .outbox, .acting]) (by decide) (fun ps hs hp => ?_) e
  repeat' first
    | with_reducible assumption | with_reducible refine State.read32_acts ?_ (inside hp (by decide))
    | with_reducible refine State.draw_acts ?_ (inside hp (by decide)) | intro _ | with_reducible refine Acts.ite ?_ ?_ | split
    | dsimp only

theorem execChamberStatusRead_acts {fn : Nat} {s : State} {t : State} (e : execChamberStatusRead fn s = .next t) :
    Acts [.regs, .weights, .serving, .outbox] s t := by
  unfold execChamberStatusRead runsHost at e
  refine runs_acts (qs := [.regs, .weights, .serving, .outbox, .acting]) (by decide) (fun ps hs hp => ?_) e
  repeat' first
    | with_reducible assumption | with_reducible refine Acts.ite ?_ ?_ | with_reducible refine State.read32_acts ?_ (inside hp (by decide)) | intro _ | dsimp only

theorem State.write32_acts {ps : List Part} {z : State} {s : State} {fn : Nat} {a : Nat} {v : Word}
    (hs : Acts ps z s) (hp : ∀ p ∈ ([.regs, .log, .outbox] : List Part), p ∈ ps) :
    Acts ps z (State.write32 s fn a v) := by
  unfold State.write32
  repeat' first
    | with_reducible assumption | with_reducible refine State.logDiscard_acts ?_ (inside hp (by decide))
    | with_reducible refine State.setReg_acts ?_ (inside hp (by decide)) | extract_lets | with_reducible refine Acts.ite ?_ ?_ | split
    | with_reducible refine Acts.set_heldLow ?_ (hp _ (by decide)) | dsimp +zetaDelta only

theorem execRegisterWrite_acts {fn : Nat} {addr : Nat} {v : Word} {s : State} {t : State} (e : execRegisterWrite fn addr v s = .next t) :
    Acts [.regs, .log, .outbox] s t := by
  unfold execRegisterWrite runsHost at e
  refine runs_acts (qs := [.regs, .log, .outbox]) (by decide) (fun ps hs hp => ?_) e
  repeat' first
    | with_reducible assumption | with_reducible refine State.write32_acts ?_ (inside hp (by decide)) | intro _
    | with_reducible refine Acts.ite ?_ ?_ | split | dsimp only

theorem State.writeHigh_acts {ps : List Part} {z : State} {s : State} {fn : Nat} {a : Nat} {w : RegWord} {v : Word}
    (hs : Acts ps z s) (hp : ∀ p ∈ ([.regs, .log, .outbox] : List Part), p ∈ ps) :
    Acts ps z (State.writeHigh s fn a w v) := by
  unfold State.writeHigh
  repeat' first
    | with_reducible assumption | with_reducible refine State.write32_acts ?_ (inside hp (by decide))
    | with_reducible refine State.setReg_acts ?_ (inside hp (by decide)) | extract_lets | with_reducible refine Acts.ite ?_ ?_ | split
    | with_reducible refine Acts.set_heldLow ?_ (hp _ (by decide)) | dsimp +zetaDelta only

theorem execWideHighWordWrite_acts {fn : Nat} {addr : Nat} {v : Word} {s : State} {t : State} (e : execWideHighWordWrite fn addr v s = .next t) :
    Acts [.regs, .log, .outbox] s t := by
  unfold execWideHighWordWrite runsHost at e
  refine runs_acts (qs := [.regs, .log, .outbox]) (by decide) (fun ps hs hp => ?_) e
  repeat' first
    | with_reducible assumption | with_reducible refine State.writeHigh_acts ?_ (inside hp (by decide)) | intro _
    | with_reducible refine Acts.ite ?_ ?_ | split | dsimp only

theorem execW1cClear_acts {fn : Nat} {addr : Nat} {v : Word} {s : State} {t : State} (e : execW1cClear fn addr v s = .next t) :
    Acts [.regs, .log, .outbox] s t := by
  unfold execW1cClear runsHost at e
  refine runs_acts (qs := [.regs, .log, .outbox]) (by decide) (fun ps hs hp => ?_) e
  repeat' first
    | with_reducible assumption | with_reducible refine State.logDiscard_acts ?_ (inside hp (by decide))
    | with_reducible refine State.clearFlags_acts ?_ (inside hp (by decide)) | intro _ | with_reducible refine Acts.ite ?_ ?_ | split
    | dsimp only

theorem execStagingWindowWrite_acts {addr : Nat} {v : Word} {s : State} {t : State} (e : execStagingWindowWrite addr v s = .next t) :
    Acts [.lockage, .log, .outbox] s t := by
  unfold execStagingWindowWrite runsHost at e
  refine runs_acts (qs := [.lockage, .log, .outbox]) (by decide) (fun ps hs hp => ?_) e
  repeat' first
    | with_reducible assumption | with_reducible refine State.logDiscard_acts ?_ (inside hp (by decide))
    | with_reducible refine State.stageWord_acts ?_ (inside hp (by decide)) | intro _ | with_reducible refine Acts.ite ?_ ?_ | dsimp only

theorem execUnalignedBar0Access_acts {fn : Nat} {addr : Nat} {size : Nat} {write : Bool} {s : State} {t : State} (e : execUnalignedBar0Access fn addr size write s = .next t) :
    Acts [.log, .outbox] s t := by
  unfold execUnalignedBar0Access runsHost at e
  refine runs_acts (qs := [.log, .outbox]) (by decide) (fun ps hs hp => ?_) e
  repeat' first
    | with_reducible assumption | with_reducible refine State.logEvent_acts ?_ (inside hp (by decide))
    | with_reducible refine State.emit_acts ?_ (inside hp (by decide)) | extract_lets | intro _ | with_reducible refine Acts.ite ?_ ?_
    | dsimp only | dsimp +zetaDelta only

end Sys2Proof.Machine
end

