-- ==== Sys2Proof/Laws/ActsAddress.lean ====
section
/-! SUPPORT. What the operations of Machine/Address.lean may do (Laws/Acts.lean): the parts each may change, the invariant kept. -/

namespace Sys2Proof.Machine

open Sys2Proof


end Sys2Proof.Machine
end

