-- ==== Sys2Proof/Laws/ActsFetch.lean ====
section
/-! SUPPORT. What the operations of Machine/Fetch.lean may do (Laws/Acts.lean): the parts each may change, the invariant kept. -/

namespace Sys2Proof.Machine

open Sys2Proof

theorem execPacketFetch_acts {q : Nat} {now : Nat} {hv : HostView} {s : State} {t : State} (e : execPacketFetch q now hv s = .next t) :
    Acts [.clock, .regs, .mem, .host, .queues, .cmds, .colls, .logbook, .log, .outbox] s t := by
  unfold execPacketFetch runsHost at e
  refine runs_acts (qs := [.clock, .regs, .mem, .host, .queues, .cmds, .colls, .logbook, .log, .outbox, .acting]) (by decide) (fun ps hs hp => ?_) e
  repeat' first
    | with_reducible assumption | with_reducible refine Acts.ite ?_ ?_ | with_reducible refine State.fetch_acts ?_ (inside hp (by decide))
    | with_reducible refine State.sees_acts ?_ (inside hp (by decide)) | with_reducible refine State.at_acts ?_ (inside hp (by decide))
    | intro _ | dsimp only

end Sys2Proof.Machine
end

