-- ==== Sys2Proof/Laws/ActsReplay.lean ====
section
/-! SUPPORT. What the operations of Machine/Replay.lean may do (Laws/Acts.lean): the parts each may change, the invariant kept. -/

namespace Sys2Proof.Machine

open Sys2Proof

/-! ## A window keeps the invariant -/

theorem nextOf_inv {s : State} {o : Host.Outcome State Fault Refusal} (h : s.Inv) (k : ∀ t, o = .next t → t.Inv) : (nextOf s o).Inv := by
  cases o with
  | next t => exact k t rfl
  | fault => exact h
  | refused => exact h

/-- A row keeps the invariant. -/
def CmdRow.Keeps (f : CmdRow) : Prop := ∀ c hv s t, f c hv s = .next t → s.Inv → t.Inv

theorem replayRows_keeps : ∀ f ∈ replayRows, CmdRow.Keeps f := by
  simp only [replayRows, List.forall_mem_append, List.forall_mem_cons, List.not_mem_nil, IsEmpty.forall_iff, implies_true, and_true]
  refine ⟨⟨?_, ?_, ?_, ?_, ?_, ?_, ?_, ?_, ?_, ?_, ?_, ?_, ?_, ?_, ?_, ?_, ?_, ?_, ?_, ?_, ?_, ?_, ?_, ?_, ?_, ?_, ?_⟩,
    ?_, ?_, ?_, ?_, ?_, ?_, ?_, ?_, ?_, ?_, ?_, ?_, ?_, ?_, ?_, ?_, ?_, ?_, ?_, ?_, ?_, ?_, ?_, ?_, ?_⟩ <;> intro c hv s t e
  exacts [(execNop_acts e).2, (execQueueCreate_acts e).2, (execQueueDelete_acts e).2, (execAbort_acts e).2, (execGetLog_acts e).2,
    (execServiceHold_acts e).2, (execServiceResume_acts e).2, (execReachRelease_acts e).2, (execMarginPlan_acts e).2,
    (execPowerState_acts e).2, (execResetUnit_acts e).2, (execQuiesce_acts e).2, (execStage_acts e).2, (execCheck_acts e).2,
    (execCommit_acts e).2, (execAbandon_acts e).2, (execMatmul_acts e).2, (execMatmulGrouped_acts e).2, (execAttend_acts e).2,
    (execVop_acts e).2, (execSample_acts e).2, (execUpdate_acts e).2, (execMove_acts e).2, (execInitFill_acts e).2,
    (execNarrowGather_acts e).2, (execNarrowScatter_acts e).2, (execAtomic_acts e).2,
    (execGather_acts e).2, (execReduceScatter_acts e).2, (execPermute_acts e).2, (execSend_acts e).2, (execRecv_acts e).2,
    (execVote_acts e).2, (execServeOpen_acts e).2, (execServeClose_acts e).2, (execAdmitSequence_acts e).2, (execRollout_acts e).2,
    (execSeqCancel_acts e).2, (execWeightsLoad_acts e).2, (execWeightsDrop_acts e).2, (execAdapterLoad_acts e).2,
    (execAdapterDrop_acts e).2, (execScore_acts e).2, (execTrainStep_acts e).2, (execTrainClose_acts e).2, (execCheckpoint_acts e).2,
    (execCheckpointImport_acts e).2, (execTurn_acts e).2, (execPreempt_acts e).2, (execLifecycleSet_acts e).2,
    (execDebugToken_acts e).2, (execLocketWipe_acts e).2]

/-- A fold of steps each of which keeps the invariant, over the elements of a list. -/
theorem foldl_keeps {α β : Type} {P : β → Prop} {f : β → α → β} {l : List α} (h : ∀ x ∈ l, ∀ b, P b → P (f b x)) :
    ∀ {b : β}, P b → P (l.foldl f b) := by
  induction l with
  | nil => exact id
  | cons x l ih =>
    intro b hb
    exact ih (fun y hy => h y (List.mem_cons_of_mem _ hy)) (h x List.mem_cons_self b hb)

theorem Rerun.settle_inv {r : Rerun} {t : State} (h : t.Inv) : (r.settle t).s.Inv := h

theorem Rerun.runCmd_inv {r : Rerun} {c : CmdRef} (h : r.s.Inv) : (r.runCmd c).s.Inv := by
  unfold Rerun.runCmd
  extract_lets a hv t p
  have ht : t.Inv := foldl_keeps (P := State.Inv) (fun f hf s hs => nextOf_inv hs fun u e => replayRows_keeps f hf _ _ _ _ e hs) h
  exact settle_inv (nextOf_inv ht fun u e => (execSelfTest_acts e).2 ht)

theorem replayEvents_inv {hv : HostView} {s : State} : ∀ f ∈ replayEvents hv s, ∀ t u : State, f t = .next u → t.Inv → u.Inv := by
  unfold replayEvents
  simp only [List.forall_mem_append, List.forall_mem_flatMap, List.forall_mem_map, List.forall_mem_cons, List.not_mem_nil,
    IsEmpty.forall_iff, implies_true, and_true]
  refine ⟨⟨⟨⟨fun p _ => ⟨?_, ?_, ?_, ?_, ?_, ?_, ?_, ?_, ?_, ?_, ?_⟩, fun k _ => ⟨⟨?_, ?_, ?_, ?_⟩, fun p _ => ⟨?_, ?_⟩⟩⟩,
    fun x _ => ⟨?_, ?_⟩⟩, fun k _ => ?_⟩, fun k _ => ⟨?_, ?_⟩⟩ <;> intro t u e
  exacts [(execLinkNoticeRestarted_acts e).2, (execPathBroken_acts e).2, (execPeerSetRequest_acts e).2, (execTurnPiece_acts e).2,
    (execChainMessage_acts e).2, (execGatherPiece_acts e).2, (execVoteRecord_acts e).2, (execPipelineMessage_acts e).2,
    (execPermutePiece_acts e).2, (execAbortNotice_acts e).2, (execScoreStep_acts e).2, (execTrainStepStart_acts e).2,
    (execStepFiniteResult_acts e).2, (execStepDecision_acts e).2, (execAttemptRetry_acts e).2, (execPoundEntry_acts e).2,
    (execPassEnd_acts e).2, (execFinalBlockUpdate_acts e).2, (execShadowHeaderWrite_acts e).2, (execCheckpointExportDone_acts e).2,
    (execSettleEnd_acts e).2, (execTransferEnd_acts e).2]

theorem State.settleColls_inv {s : State} (h : s.Inv) : s.settleColls.Inv := (State.settleColls_acts .refl fun _ q => q).2 h

theorem Rerun.pass_inv {r : Rerun} {index : Nat} (h : r.s.Inv) : (r.pass index).s.Inv := by
  unfold Rerun.pass
  extract_lets u hv
  have hu : u.s.Inv := foldl_keeps (P := fun r : Rerun => r.s.Inv)
    (fun c _ r hr => by split; exacts [hr, Rerun.runCmd_inv hr]) h
  clear_value u
  exact foldl_keeps (P := fun r : Rerun => r.s.Inv) (fun f hf r hr => Rerun.settle_inv (nextOf_inv hr fun t e => replayEvents_inv f hf _ _ e hr))
    (Rerun.settle_inv (State.settleColls_inv hu))

theorem Rerun.goOn_inv {index n : Nat} {r : Rerun} (h : r.s.Inv) : (r.goOn index n).s.Inv := by
  induction n generalizing r with
  | zero => exact h
  | succ n ih =>
    unfold Rerun.goOn
    dsimp only
    split
    · exact h
    · exact ih (Rerun.pass_inv h)

theorem Rerun.command_inv {r : Rerun} {e : BookEntry} (h : r.s.Inv) : (r.command e).s.Inv := by
  unfold Rerun.command
  extract_lets s q j c0 c1 c st t
  have k : Acts [.cmds, .colls] s { s with fetches := s.fetches + 1, inflight := s.inflight ++ [{ c with stage := st }] } :=
    Acts.set_inflight (t := { s with fetches := s.fetches + 1 }) (Acts.set_fetches .refl (by decide)) (by decide)
  exact (State.noteAccepted_acts k (by decide)).2 h

theorem State.commitEntries_inv {s : State} {es : List Staged} {b : Bool} (h : s.Inv) : (s.commitEntries es b).Inv :=
  (State.commitEntries_acts .refl fun _ q => q).2 h

theorem Rerun.lockage_inv {r : Rerun} {e : BookEntry} (h : r.s.Inv) : (r.lockage e).s.Inv := by
  unfold Rerun.lockage
  extract_lets s hv peers peer tries done es
  have hd : done.Inv := by
    refine foldl_keeps (P := State.Inv) (fun f hf t ht => ?_) h
    split
    · refine nextOf_inv ht fun u eu => ?_
      revert f
      simp only [tries, List.forall_mem_append, List.forall_mem_map, List.forall_mem_cons, List.not_mem_nil, IsEmpty.forall_iff,
        implies_true, and_true]
      exact ⟨⟨⟨⟨fun e => (execCommitInstant_acts e).2 ht, fun k _ e => (execLoadActivation_acts e).2 ht⟩,
        fun k _ e => (execSetReleaseCommit_acts e).2 ht⟩, fun k _ e => (execAdapterReleaseCommit_acts e).2 ht⟩,
        fun k _ e => (execTurnFinalCommit_acts e).2 ht⟩
    · exact ht
  clear_value done
  refine Rerun.settle_inv ?_
  split
  · exact State.commitEntries_inv h
  · exact hd

theorem Rerun.inbound_inv {r : Rerun} {e : BookEntry} (h : r.s.Inv) : (r.inbound e).s.Inv :=
  (State.updPort_acts .refl fun _ q => q).2 h

theorem State.cutEntries_inv {s : State} {n : Nat} {f : Entry → Bool} (h : s.Inv) : (s.cutEntries n f).Inv :=
  (State.cutEntries_acts .refl fun _ q => q).2 h

theorem Rerun.decision_inv {r : Rerun} {e : BookEntry} (h : r.s.Inv) : (r.decision e).s.Inv := by
  unfold Rerun.decision
  extract_lets n hv kind u
  have hu : u.s.Inv := Rerun.settle_inv (nextOf_inv h fun t e => (execServeStepComplete_acts e).2 h)
  clear_value u
  split
  · exact Rerun.settle_inv (nextOf_inv hu fun t e => (execStepBuild_acts e).2 hu)
  split
  · split
    · exact Rerun.runCmd_inv h
    · exact h
  split
  · exact Rerun.settle_inv (State.cutEntries_inv h)
  · exact h

theorem Rerun.completeCmd_inv {r : Rerun} {e : BookEntry} {c : CmdRef} (h : r.s.Inv) : (r.completeCmd e c).s.Inv := by
  unfold Rerun.completeCmd
  extract_lets u
  have hu : u.s.Inv := by
    simp only [u]
    split
    · split
      · exact Rerun.runCmd_inv h
      · exact h
    · exact h
  clear_value u
  split
  · exact hu
  dsimp only
  split
  · exact hu
  · refine (State.releaseFences_acts .refl fun _ q => q).2 ((State.histSettle_acts .refl fun _ q => q).2
      ((State.dropCmd_acts .refl fun _ q => q).2 ?_))
    split
    · exact hu
    · exact (State.addCounts_acts .refl fun _ q => q).2 hu

theorem Rerun.completeReport_inv {r : Rerun} {e : BookEntry} (h : r.s.Inv) : (r.completeReport e).s.Inv := by
  unfold Rerun.completeReport
  extract_lets mine hv u
  have hu : u.s.Inv := by
    simp only [u]
    split
    · exact h
    · exact foldl_keeps (P := fun r : Rerun => r.s.Inv)
        (fun k _ r hr => Rerun.settle_inv (nextOf_inv hr fun t e => (execServeStepComplete_acts e).2 hr)) h
  clear_value u
  split
  · exact hu
  · dsimp only
    split
    · exact hu
    · exact hu

theorem Rerun.complete_inv {r : Rerun} {e : BookEntry} (h : r.s.Inv) : (r.complete e).s.Inv := by
  unfold Rerun.complete
  dsimp only
  split
  · exact h
  split
  · exact h
  split
  · exact Rerun.completeCmd_inv h
  · exact Rerun.completeReport_inv h

theorem Rerun.hostData_inv {r : Rerun} {e : BookEntry} (h : r.s.Inv) : (r.hostData e).s.Inv := by
  unfold Rerun.hostData
  dsimp only
  split <;> exact h

theorem State.writeMem_inv {s : State} {a : Nat} {bs : List Byte} (h : s.Inv) : (s.writeMem a bs).Inv :=
  (State.writeMem_acts .refl fun _ q => q).2 h

theorem Rerun.entry_inv {r : Rerun} {e : BookEntry} (h : r.s.Inv) : (r.entry e).s.Inv := by
  unfold Rerun.entry
  split
  · exact h
  extract_lets u
  have hu : u.s.Inv := Rerun.goOn_inv h
  clear_value u
  split
  · exact Rerun.command_inv hu
  split
  · exact Rerun.complete_inv hu
  split
  · exact Rerun.hostData_inv hu
  split
  · exact State.writeMem_inv hu
  split
  · exact Rerun.lockage_inv hu
  split
  · exact Rerun.inbound_inv hu
  split
  · exact Rerun.decision_inv hu
  · exact hu

/-! ## The operations -/

theorem State.forReplay_acts {ps : List Part} {z : State} {s : State}
    (hs : Acts ps z s) (hp : ∀ p ∈ ([.power, .queues, .cmds, .links] : List Part), p ∈ ps) :
    Acts ps z (State.forReplay s) := by
  unfold State.forReplay
  repeat' first
    | with_reducible assumption | extract_lets | intro _ | dsimp only
    | with_reducible refine Acts.set_power_queues_inflight_reports_ports ?_ (hp _ (by decide)) (hp _ (by decide)) (hp _ (by decide)) (hp _ (by decide)) (hp _ (by decide))
    | dsimp +zetaDelta only

theorem State.afterReplay_acts {ps : List Part} {z : State} {s : State} {t : State}
    (hs : Acts ps z s) (ht : Acts ps z t) (hp : ∀ p ∈ ([.power, .regs, .queues] : List Part), p ∈ ps) :
    Acts ps z (State.afterReplay s t) := by
  refine ⟨fun p h => ?_, fun q => ?_⟩
  · have a := hs.1 p h
    have b := ht.1 p h
    cases p <;> first | exact (h (hp _ (by decide))).elim | simp_all [Part.same, State.afterReplay]
  · obtain ⟨q1, q2, q3, q4⟩ := ht.2 q
    exact ⟨q1, q2, foldl_keeps (P := fun m => sortedKeys m = true) (fun x _ m hm => insert_sorted hm) (filter_sorted q3), q4⟩

theorem State.replayRun_acts {ps : List Part} {z : State} {s : State} {c : Cmd} {m : BookEntry}
    (hs : Acts ps z s) (hp : ∀ p ∈ ([.spine, .draws, .clock, .power, .gov, .regs, .mem, .moving, .host, .queues, .cmds, .units, .hist, .weights, .links, .serving, .colls, .trains, .turns, .logbook, .lockage, .keepsake, .panel, .mgmt, .sec, .log, .outbox, .pcie, .acting, .pending] : List Part), p ∈ ps) :
    Acts ps z (State.replayRun s c m) := by
  unfold State.replayRun
  split
  · exact State.finish_acts hs (inside hp (by decide))
  · extract_lets w t r u v
    refine State.finish_acts (State.afterReplay_acts hs ?_ (inside hp (by decide))) (inside hp (by decide))
    refine hs.trans ⟨fun p h => (h (hp p (by cases p <;> decide))).elim, fun q => ?_⟩
    exact foldl_keeps (P := fun r : Rerun => r.s.Inv) (fun e _ r hr => Rerun.entry_inv hr)
      ((State.forReplay_acts (ps := [.power, .queues, .cmds, .links]) .refl (by decide)).2 q)

theorem State.replay_acts {ps : List Part} {z : State} {s : State} {c : Cmd}
    (hs : Acts ps z s) (hp : ∀ p ∈ ([.spine, .draws, .clock, .power, .gov, .regs, .mem, .moving, .host, .queues, .cmds, .units, .hist, .weights, .links, .serving, .colls, .trains, .turns, .logbook, .lockage, .keepsake, .panel, .mgmt, .sec, .log, .outbox, .pcie, .acting, .pending] : List Part), p ∈ ps) :
    Acts ps z (State.replay s c) := by
  unfold State.replay
  repeat' first
    | with_reducible assumption | with_reducible refine State.flushBook_acts ?_ (inside hp (by decide))
    | with_reducible refine State.replayRun_acts ?_ (inside hp (by decide))
    | with_reducible refine State.refuse_acts ?_ (inside hp (by decide))
    | with_reducible refine State.onRing_acts ?_ ?_ (inside hp (by decide)) | extract_lets | intro _ | split | dsimp only
    | dsimp +zetaDelta only

theorem execReplay_acts {c : CmdRef} {hv : HostView} {s : State} {t : State} (e : execReplay c hv s = .next t) :
    Acts [.spine, .draws, .clock, .power, .gov, .regs, .mem, .moving, .host, .queues, .cmds, .units, .hist, .weights, .links, .serving, .colls, .trains, .turns, .logbook, .lockage, .keepsake, .panel, .mgmt, .sec, .log, .outbox, .pcie] s t := by
  unfold execReplay at e
  refine runsSpine_acts (qs := [.spine, .draws, .clock, .power, .gov, .regs, .mem, .moving, .host, .queues, .cmds, .units, .hist, .weights, .links, .serving, .colls, .trains, .turns, .logbook, .lockage, .keepsake, .panel, .mgmt, .sec, .log, .outbox, .pcie, .acting, .pending]) (by decide) (fun ps hs hp => ?_) e
  repeat' first
    | with_reducible assumption | with_reducible refine State.replay_acts ?_ (inside hp (by decide))
    | with_reducible refine State.start_acts ?_ ?_ (inside hp (by decide))
    | with_reducible refine State.sees_acts ?_ (inside hp (by decide)) | intro _ | dsimp only

end Sys2Proof.Machine
end

