-- ==== Sys2Proof/Laws/ActsStep.lean ====
section
/-! SUPPORT. What the operations of Machine/Step.lean may do (Laws/Acts.lean): the parts each may change, the invariant kept. -/

namespace Sys2Proof.Machine

open Sys2Proof

theorem idle_acts {ps : List Part} {z : State} {s : State}
    (hs : Acts ps z s) (hp : ∀ p ∈ ([.clock] : List Part), p ∈ ps) :
    Acts ps z (idle s) := by
  unfold idle
  repeat' first
    | with_reducible assumption | with_reducible refine State.at_acts ?_ (inside hp (by decide))

theorem State.withFetchWord_acts {ps : List Part} {z : State} {s : State} {nbits : Nat} {w : Nat}
    (hs : Acts ps z s) (hp : ∀ p ∈ ([.pending] : List Part), p ∈ ps) :
    Acts ps z (State.withFetchWord s nbits w) := by
  unfold State.withFetchWord
  repeat' first
    | with_reducible assumption | split | with_reducible refine Acts.set_pending ?_ (hp _ (by decide))

end Sys2Proof.Machine
end

