-- ==== Sys2Proof/Laws/Bytes.lean ====
section
/-! SUPPORT. Little-endian bytes and checksums: lengths, bounds, and a flit that carries its own CRC. -/

namespace Sys2Proof.Machine

/-- n low bytes are n bytes. -/
@[simp] theorem leBytes_length (n v : Nat) : (leBytes n v).length = n := by
  induction n generalizing v with
  | zero => rfl
  | succ n ih => simp [leBytes, ih]

/-- Reading the n low bytes of a number gives it modulo 256ⁿ. -/
theorem leNat_leBytes (n v : Nat) : leNat (leBytes n v) = v % 256 ^ n := by
  induction n generalizing v with
  | zero => simp [leBytes, leNat, Nat.mod_one]
  | succ n ih =>
    have e : (BitVec.ofNat 8 v).toNat = v % 256 := BitVec.toNat_ofNat v 8
    rw [leBytes, leNat, ih, e, Nat.pow_succ, Nat.mul_comm (256 ^ n), Nat.mod_mul]

/-- A slice of n bytes has n bytes. -/
@[simp] theorem slice_length (bs : List Byte) (off n : Nat) : (slice bs off n).length = n := by
  simp [slice]

/-- A step of a k-bit check stays within k bits. -/
theorem crcBit_bound {p c k : Nat} (hp : p < 2 ^ k) (hc : c < 2 ^ k) : crcBit p c < 2 ^ k := by
  have h : c / 2 < 2 ^ k := by omega
  unfold crcBit
  split
  · exact Nat.xor_lt_two_pow h hp
  · exact h

/-- So does a byte of it. -/
theorem crcByte_bound {p c k : Nat} (b : Byte) (hk : 8 ≤ k) (hp : p < 2 ^ k) (hc : c < 2 ^ k) : crcByte p c b < 2 ^ k := by
  have hb : b.toNat < 2 ^ k := Nat.lt_of_lt_of_le b.isLt (Nat.pow_le_pow_right (by decide) hk)
  unfold crcByte
  exact crcBit_bound hp (crcBit_bound hp (crcBit_bound hp (crcBit_bound hp (crcBit_bound hp (crcBit_bound hp (crcBit_bound hp
    (crcBit_bound hp (Nat.xor_lt_two_pow hc hb))))))))

/-- And a list of bytes. -/
theorem crc_fold_bound {p k : Nat} (hk : 8 ≤ k) (hp : p < 2 ^ k) (bs : List Byte) (c : Nat) (hc : c < 2 ^ k) :
    bs.foldl (crcByte p) c < 2 ^ k := by
  induction bs generalizing c with
  | nil => exact hc
  | cons b bs ih => exact ih _ (crcByte_bound b hk hp hc)

/-- CRC-32 is a 32-bit number. -/
theorem crc32_bound (bs : List Byte) : crc32 bs < 2 ^ 32 :=
  Nat.xor_lt_two_pow (crc_fold_bound (by decide) (by decide) bs _ (by decide)) (by decide)

/-- A flit whose last four bytes are the CRC of the others is good. -/
theorem flitGood_append (b : List Byte) (h : b.length = 252) : flitGood (b ++ leBytes 4 (crc32 b)) = true := by
  have d : (b ++ leBytes 4 (crc32 b)).drop 252 = leBytes 4 (crc32 b) := by rw [← h, List.drop_left]
  have k : (b ++ leBytes 4 (crc32 b)).take 252 = b := by rw [← h, List.take_left]
  have e : fieldAt (b ++ leBytes 4 (crc32 b)) 252 4 = crc32 b := by
    have n := leBytes_length 4 (crc32 b)
    simp only [fieldAt, slice, d, List.take_of_length_le (Nat.le_of_eq n), n, Nat.sub_self, List.replicate_zero, List.append_nil,
      leNat_leBytes]
    exact Nat.mod_eq_of_lt (crc32_bound b)
  rw [flitGood, k, e]
  simp [leBytes_length, h]

end Sys2Proof.Machine
end

