-- ==== Sys2Proof/Laws/Commands.lean ====
section
/-! SUPPORT. Commands in flight under the operations that start and finish them, and how an arm's answer is read off its effect. -/

namespace Sys2Proof.Machine

open Sys2Proof

theorem find?_updateFirst {l : List Cmd} {r : CmdRef} {f : Cmd → Cmd} (hf : ∀ c, (f c).is r.queue r.tag = c.is r.queue r.tag) :
    (updateFirst (fun c => c.is r.queue r.tag) f l).find? (fun c => c.is r.queue r.tag) =
      (l.find? fun c => c.is r.queue r.tag).map f := by
  induction l with
  | nil => rfl
  | cons c l ih =>
    simp only [updateFirst]
    by_cases h : c.is r.queue r.tag = true
    · simp [h, hf]
    · simp [h, ih]

/-- An update of a command that keeps its name gives the updated command. -/
theorem State.updCmd_cmd {s : State} {r : CmdRef} {f : Cmd → Cmd} {k : Cmd} (h : s.cmd r = some k)
    (hf : ∀ c, (f c).is r.queue r.tag = c.is r.queue r.tag) : (s.updCmd r f).cmd r = some (f k) := by
  simp only [State.cmd, State.updCmd] at h ⊢
  rw [find?_updateFirst hf, h]
  rfl

/-- A command in flight bears the reference that finds it. -/
theorem State.cmd_ref {s : State} {r : CmdRef} {k : Cmd} (h : s.cmd r = some k) : k.ref = r := by
  have := List.find?_some h
  simp only [Cmd.is, Bool.and_eq_true, beq_iff_eq] at this
  obtain ⟨a, b⟩ := this
  cases r
  simp_all [Cmd.ref]

theorem State.finish_answered {s : State} {r : CmdRef} {k : Cmd} {a : Answer} (h : s.cmd r = some k) : (s.finish r a).Answered r a :=
  ⟨_, State.updCmd_cmd h fun _ => rfl, rfl, rfl, rfl, rfl, rfl⟩

theorem State.finish_ended {s : State} {r : CmdRef} {k : Cmd} {a : Answer} (h : s.cmd r = some k) : (s.finish r a).Ended r a.status :=
  ⟨_, State.updCmd_cmd h fun _ => rfl, rfl, rfl⟩

theorem State.running_waits {s : State} {r : CmdRef} {k : Cmd} (h : s.cmd r = some k) : (s.running r).Waits r :=
  ⟨_, State.updCmd_cmd h fun _ => rfl, rfl⟩

theorem find?_updateFirst_ne {l : List Cmd} {r q : CmdRef} {f : Cmd → Cmd} (hf : ∀ c, (f c).queue = c.queue ∧ (f c).tag = c.tag) (h : r ≠ q) :
    (updateFirst (fun c => c.is r.queue r.tag) f l).find? (fun c => c.is q.queue q.tag) = l.find? fun c => c.is q.queue q.tag := by
  have key : ∀ c : Cmd, c.is r.queue r.tag = true → c.is q.queue q.tag = false := by
    intro c hc
    simp only [Cmd.is, Bool.and_eq_true, beq_iff_eq] at hc
    by_contra hq
    simp only [Bool.not_eq_false, Cmd.is, Bool.and_eq_true, beq_iff_eq] at hq
    apply h
    cases r; cases q; simp_all
  induction l with
  | nil => rfl
  | cons c l ih =>
    simp only [updateFirst]
    split
    · next hc =>
      have h1 := key c hc
      have h2 : (f c).is q.queue q.tag = false := by rw [← h1]; simp [Cmd.is, hf]
      simp [h1, h2]
    · simp [List.find?_cons, ih]

/-- An update of one command that keeps its name leaves the others alone. -/
theorem State.updCmd_other {s : State} {r q : CmdRef} {f : Cmd → Cmd} (hf : ∀ c, (f c).queue = c.queue ∧ (f c).tag = c.tag) (h : r ≠ q) :
    (s.updCmd r f).cmd q = s.cmd q := find?_updateFirst_ne hf h

theorem State.finish_other {s : State} {r q : CmdRef} {a : Answer} (h : r ≠ q) : (s.finish r a).cmd q = s.cmd q :=
  State.updCmd_other (fun _ => ⟨rfl, rfl⟩) h

theorem takeWhile_updateFirst {l : List Cmd} {r : CmdRef} {f : Cmd → Cmd} (hf : ∀ c, (f c).is r.queue r.tag = c.is r.queue r.tag) :
    (updateFirst (fun c => c.is r.queue r.tag) f l).takeWhile (fun c => !c.is r.queue r.tag) = l.takeWhile fun c => !c.is r.queue r.tag := by
  induction l with
  | nil => rfl
  | cons c l ih =>
    simp only [updateFirst]
    by_cases h : c.is r.queue r.tag = true
    · simp [h, hf]
    · simp [h, ih]

/-- An update of a command leaves the commands before it alone. -/
theorem State.updCmd_earlier {s : State} {r : CmdRef} {f : Cmd → Cmd} (hf : ∀ c, (f c).is r.queue r.tag = c.is r.queue r.tag) :
    (s.updCmd r f).earlier r = s.earlier r := takeWhile_updateFirst hf

/-- Commands in flight are found by the list alone. -/
theorem State.cmd_congr {s t : State} {r : CmdRef} (h : t.inflight = s.inflight) : t.cmd r = s.cmd r := by
  simp only [State.cmd, h]

theorem State.answered_congr {s t : State} {r : CmdRef} {a : Answer} (h : t.inflight = s.inflight) : t.Answered r a ↔ s.Answered r a := by
  simp only [State.Answered, State.cmd_congr h]

theorem State.ended_congr {s t : State} {r : CmdRef} {st : Nat} (h : t.inflight = s.inflight) : t.Ended r st ↔ s.Ended r st := by
  simp only [State.Ended, State.cmd_congr h]

theorem State.waits_congr {s t : State} {r : CmdRef} (h : t.inflight = s.inflight) : t.Waits r ↔ s.Waits r := by
  simp only [State.Waits, State.cmd_congr h]

/-- An operation that leaves commands alone leaves them to be found as before. -/
theorem Acts.cmd {ps : List Part} {s t : State} {r : CmdRef} (h : Acts ps s t) (hp : Part.cmds ∉ ps) : t.cmd r = s.cmd r :=
  State.cmd_congr ((h.1 .cmds hp).2)

theorem State.sees_cmd {s : State} {hv : HostView} {r : CmdRef} : (s.sees hv).cmd r = s.cmd r := rfl

/-- A ready command may start. -/
theorem State.Ready.mayStart {s : State} {opcode : Nat} {r : CmdRef} {k : Cmd} (h : s.Ready opcode r k) : s.mayStart k = true := by
  have e : k.ref = r := State.cmd_ref h.1
  obtain ⟨-, -, h3, h4, h5⟩ := h
  have f : fenceHolds (s.earlier r) k = false := by
    by_contra hf
    simp only [fenceHolds, Bool.not_eq_false, Bool.or_eq_true, Bool.and_eq_true, Bool.not_eq_true', List.isEmpty_eq_false_iff_exists_mem,
      List.any_eq_true, List.mem_filter, beq_iff_eq] at hf
    rcases hf with ⟨hb, d, hd, hq⟩ | ⟨d, ⟨hd, hq⟩, hb⟩
    · simp [(h4 d hd hq).1] at hb
    · simp [(h4 d hd hq).2] at hb
  have w : k.needs.any (s.withheld k) = false := List.any_eq_false.2 fun x hx => by simp [h5 x hx]
  simp only [State.mayStart, h3, e, f, w, beq_self_eq_true, Bool.not_false, Bool.and_self]

/-- A ready command starts: the host it meets is no part of what holds it back. -/
theorem State.Ready.start {s : State} {opcode : Nat} {r : CmdRef} {k : Cmd} {hv : HostView} {f : Cmd → State → State} (h : s.Ready opcode r k) :
    (s.sees hv).start opcode r f = f k (s.meets hv k) := by
  have h4 : (s.sees hv).mayStart k = true := h.mayStart
  obtain ⟨h1, h2, -⟩ := h
  simp only [State.start, State.sees_cmd, h1, h2, h4, decide_true, Bool.and_self, if_true, State.meets]

theorem State.Ready.startOrGoOn {s : State} {opcode : Nat} {r : CmdRef} {k : Cmd} {hv : HostView} {f : Cmd → State → State}
    (h : s.Ready opcode r k) : (s.sees hv).startOrGoOn opcode r f = f k (s.meets hv k) := by
  have h4 : (s.sees hv).mayStart k = true := h.mayStart
  obtain ⟨h1, h2, -⟩ := h
  simp only [State.startOrGoOn, State.sees_cmd, h1, h2, h4, decide_true, Bool.or_true, Bool.and_self, if_true, State.meets]

/-- A command ready on the ring runs at once. -/
theorem State.ReadyOnRing.go {s : State} {opcode : Nat} {r : CmdRef} {k : Cmd} {hv : HostView} {f : Cmd → State → State}
    (h : s.ReadyOnRing opcode r k) : (s.sees hv).startCompute opcode r f = f k (s.rings hv k) := by
  obtain ⟨h1, h2, h3, h4, h5⟩ := h
  have i : ¬ (s.meets hv k).power.state = .idle := by
    have q : (s.meets hv k).power.state = .active := h2
    simp [q]
  have e : (s.meets hv k).beating = true := by
    have q : (s.meets hv k).power.state = .active := h2
    have q1 : (s.meets hv k).gov.pausedPower = false := h3
    have q2 : (s.meets hv k).gov.pausedThermal = false := h4
    simp [State.beating, q, q1, q2]
  simp only [State.startCompute, h1.start, State.onRing, i, e, Bool.not_true, Bool.false_eq_true, if_false]
  rcases h5 with h5 | h5
  · simp only [h5, bne_self_eq_false, Bool.false_and, Bool.false_eq_true, if_false]; rfl
  · have : k.scale.isNone = false := by simpa using h5
    simp only [this, Bool.and_false, Bool.false_eq_true, if_false]; rfl

theorem State.rings_cmd {s : State} {hv : HostView} {k : Cmd} {r : CmdRef} : (s.rings hv k).cmd r = s.cmd r := by
  unfold State.rings State.streamed
  split <;> rfl

theorem State.Ready.ref {s : State} {opcode : Nat} {r : CmdRef} {k : Cmd} (h : s.Ready opcode r k) : k.ref = r := State.cmd_ref h.1

/-! ## Reading off an arm -/

/-- What holds of an effect whatever the spine and the queue of commands holds of the arm. -/
theorem runs_reaches {f : State → State} {s : State} {P : State → Prop}
    (h : P { f s with spine := s.spine, acting := s.acting, pending := s.pending }) : Reaches (runs f s) P := ⟨_, rfl, h⟩

theorem runsSpine_reaches {f : State → State} {s : State} {P : State → Prop}
    (h : P { f s with spine := { (f s).spine with variant := s.spine.variant, serial := s.spine.serial, slotId := s.spine.slotId }, acting := s.acting, pending := s.pending }) :
    Reaches (runsSpine f s) P := ⟨_, rfl, h⟩

theorem runsHost_reaches {f : State → State} {s : State} {P : State → Prop} (hu : s.pcieUp = true)
    (h : P { f s with spine := s.spine, acting := s.acting, pending := s.pending }) : Reaches (runsHost f s) P := by
  refine ⟨_, rfl, ?_⟩
  simp only [hu, if_true]
  exact h

theorem mgmt_reaches {t : Transport} {p : MgmtProtocol} {f : State → State} {s : State} {P : State → Prop} (h : s.hears t p = true)
    (h2 : p ≠ .pldmUpdate ∨ s.retired = false) (k : P { f s with spine := s.spine, acting := s.acting, pending := s.pending }) : Reaches (mgmt t p f s) P := by
  refine ⟨_, rfl, ?_⟩
  have e : (p == .pldmUpdate && s.retired) = false := by
    rcases h2 with h2 | h2
    · have : (p == .pldmUpdate) = false := beq_eq_false_iff_ne.2 h2
      simp [this]
    · simp [h2]
  simp only [h, e, Bool.not_true, Bool.false_eq_true, if_false]
  exact k

theorem spdm_reaches {t : Transport} {w always : Bool} {now : Nat} {f : State → SpdmPort → State} {s : State} {P : State → Prop}
    (h : (s.at now).Converses t) (hw : w = true)
    (k : P { f (s.at now) ((s.at now).spdmPort t) with spine := s.spine, acting := s.acting, pending := s.pending }) : Reaches (spdm t w now f s always) P := by
  refine ⟨_, rfl, ?_⟩
  obtain ⟨h1, h2, h3⟩ := h
  simp only [h1, h2, h3, hw, Bool.not_true, Bool.false_and, Bool.or_false, Bool.false_eq_true, if_false]
  exact k

theorem Reaches.mono {o : Host.Outcome State Fault Refusal} {P Q : State → Prop} (h : Reaches o P) (k : ∀ t, P t → Q t) : Reaches o Q := by
  obtain ⟨t, e, p⟩ := h
  exact ⟨t, e, k t p⟩

/-- A finished command carries its answer. -/
theorem State.finish_closed {s : State} {r : CmdRef} {a : Answer} {k : Cmd} (h : (s.finish r a).cmd r = some k) :
    k.stage = .done ∧ k.status = a.status ∧ k.result0 = a.result0 ∧ k.result1 = a.result1 ∧ k.detail = a.detail := by
  simp only [State.cmd, State.finish, State.updCmd] at h
  rw [find?_updateFirst (r := r)
    (f := fun c => { c with stage := .done, status := a.status, detail := a.detail, result0 := a.result0, result1 := a.result1 })
    fun _ => rfl] at h
  obtain ⟨c, _, rfl⟩ := Option.map_eq_some_iff.1 h
  exact ⟨rfl, rfl, rfl, rfl, rfl⟩

/-! ## The chamber -/

theorem State.putChamber_state (s : State) (k : Nat) (ws : List Word) :
    (s.putChamber k ws).chamber.state = .opened ∧ (s.putChamber k ws).chamber.checkedEpoch = 0 := by
  induction ws generalizing s k with
  | nil => exact ⟨rfl, rfl⟩
  | cons w ws ih => exact ih _ _

theorem State.putChamber_congr (s t : State) (k : Nat) (ws : List Word) (h : s.chamber = t.chamber) :
    (s.putChamber k ws).chamber = (t.putChamber k ws).chamber := by
  induction ws generalizing s t k with
  | nil => simp only [State.putChamber, State.chamberTo, h]
  | cons w ws ih => exact ih _ _ _ (by simp only [h])

/-! ## Tables -/

theorem lookup_insert {α : Type} {k : Nat} {a : α} {l : List (Nat × α)} : lookup k (insert k a l) = some a := by
  induction l with
  | nil => simp [insert, lookup]
  | cons q l ih =>
    obtain ⟨j, b⟩ := q
    simp only [insert]
    split
    · simp [lookup]
    · split
      · simp [lookup]
      · next h1 h2 => simp [lookup, ih, h2]

theorem lookup_insert_ne {α : Type} {j k : Nat} {a : α} {l : List (Nat × α)} (h : j ≠ k) : lookup j (insert k a l) = lookup j l := by
  induction l with
  | nil => simp [insert, lookup, h]
  | cons q l ih =>
    obtain ⟨i, b⟩ := q
    simp only [insert]
    split
    · simp [lookup, h]
    · split
      · next e => subst e; simp [lookup, h]
      · simp [lookup, ih]

theorem State.sensorChange_panel {s : State} {id old new : Nat} : (s.sensorChange id old new).panel = s.panel := by
  simp only [State.sensorChange, State.platformEvent]
  split
  · rfl
  · split <;> rfl

theorem State.putSocket_socket {s : State} {n : Nat} {k : Socket} : (s.putSocket n k).socket n = k := by
  simp only [State.putSocket, State.socket, State.sensorChange_panel, lookup_insert, Option.getD_some]

/-! ## The epoch -/

theorem State.setReg_foldl_spine {l : List (Nat × Word)} {s : State} : (l.foldl (fun (t : State) k => t.setReg k.1 k.2) s).spine = s.spine := by
  induction l generalizing s with
  | nil => rfl
  | cons k l ih => exact ih

theorem State.commitEpoch_epoch {s : State} {c : List (Nat × Word)} : (s.commitEpoch c).spine.epoch = nextEpoch s.spine.epoch := by
  simp only [State.commitEpoch, State.setReg_foldl_spine]

/-! ## Ports -/

theorem State.sensorChange_ports {s : State} {id old new : Nat} : (s.sensorChange id old new).ports = s.ports := by
  simp only [State.sensorChange, State.platformEvent]
  split
  · rfl
  · split <;> rfl

theorem State.updPort_ports {s : State} {p : Nat} {f : Port → Port} : (s.updPort p f).ports = insert p (f (s.port p)) s.ports := by
  simp only [State.updPort, State.sensorChange_ports]

theorem State.updPort_port {s : State} {p : Nat} {f : Port → Port} : (s.updPort p f).port p = f (s.port p) := by
  rw [State.port, State.updPort_ports, lookup_insert]
  rfl

theorem State.updPort_other {s : State} {p q : Nat} {f : Port → Port} (h : q ≠ p) : (s.updPort p f).port q = s.port q := by
  rw [State.port, State.updPort_ports, lookup_insert_ne h]
  rfl

theorem Acts.port {ps : List Part} {s t : State} {p : Nat} (h : Acts ps s t) (hp : Part.links ∉ ps) : t.port p = s.port p := by
  rw [State.port, show t.ports = s.ports from (h.1 .links hp).1]
  rfl

end Sys2Proof.Machine
end

