-- ==== Sys2Proof/Laws/Epoch.lean ====
section
/-! SUPPORT. What a commit does to the epoch: it raises it once, whatever the settings that it lays. -/

namespace Sys2Proof.Machine

open Sys2Proof

/-- The parts that the consequences of new settings may change: the spine is not among them. -/
def commitParts : List Part :=
  [.draws, .regs, .mem, .moving, .cmds, .weights, .links, .colls, .turns, .logbook, .lockage, .keepsake, .panel, .mgmt, .log, .outbox]

theorem State.commitSegs_from {s old : State} : Acts commitParts s (s.commitSegs old) := by
  unfold State.commitSegs
  refine Acts.foldl .refl fun u x h => ?_
  dsimp only
  split
  · exact State.beginSegChange_acts h (by decide)
  · exact h

theorem State.commitHistory_from {s old : State} : Acts commitParts s (s.commitHistory old) := by
  unfold State.commitHistory
  refine Acts.foldl .refl fun u x h => ?_
  dsimp only
  split
  · exact State.histReset_acts h (by decide)
  · split
    · exact State.histRecompute_acts h (by decide)
    · exact h

theorem State.commitSockets_from {s old : State} {named : Bool} : Acts commitParts s (s.commitSockets old named) := by
  unfold State.commitSockets
  refine Acts.foldl .refl fun u x h => ?_
  dsimp only
  split
  · split
    · exact State.socketServes_acts h (by decide)
    · exact h
  · split
    · exact State.putSocket_acts h (by decide)
    · exact h

theorem State.commitUnits_from {s old : State} : Acts commitParts s (s.commitUnits old) := by
  unfold State.commitUnits
  dsimp only
  exact Acts.set_clears .refl (by decide)

theorem State.commitContexts_from {s old : State} : Acts commitParts s (s.commitContexts old) := by
  unfold State.commitContexts
  refine Acts.foldl .refl fun u x h => ?_
  dsimp only
  split
  · exact State.setCtxBit_acts (State.loseState_acts h (by decide)) (by decide)
  · exact h

theorem State.commitSensors_from {s old : State} : Acts commitParts s (s.commitSensors old) := by
  unfold State.commitSensors
  exact Acts.foldl .refl fun u x h => State.sensorChange_acts h (by decide)

theorem State.commitPorts_from {s old : State} : Acts commitParts s (s.commitPorts old) := by
  unfold State.commitPorts
  dsimp only
  split
  · exact .refl
  · refine Acts.foldl .refl fun u x h => ?_
    split
    · exact State.judgeLink_acts (State.sendIdent_acts (State.updPort_acts h (by decide)) (by decide)) (by decide)
    · exact h

/-- A commit of settings raises the epoch by one. -/
theorem State.commitEntries_epoch {s : State} {es : List Staged} {b : Bool} : (s.commitEntries es b).spine.epoch = nextEpoch s.spine.epoch := by
  unfold State.commitEntries
  extract_lets t u named v
  have a1 : Acts commitParts t u := by
    simp only [u]
    split
    · exact State.ksWrite_acts .refl (by decide)
    · exact .refl
  have a2 : Acts commitParts u v :=
    ((((((State.commitSegs_from.trans State.commitHistory_from).trans State.commitSockets_from).trans State.commitUnits_from).trans
      State.commitContexts_from).trans State.commitSensors_from).trans State.commitPorts_from)
  have a3 := State.record_acts (hub := 0) (kind := 6) (source := 0) (body := es.flatMap Staged.bytes)
    (State.raise_acts (a := evLock) (n := bit b) (a1.trans a2) (by decide)) (by decide)
  rw [show _ = _ from a3.1 .spine (by decide)]
  exact State.commitEpoch_epoch

end Sys2Proof.Machine
end

