-- ==== Sys2Proof/Laws/Memory.lean ====
section
/-! SUPPORT. Reads after writes in device memory: a byte written is the byte read, and a write leaves every other byte alone. -/

namespace Sys2Proof.Machine

open Sys2Proof

theorem lookup_erase_ne {α : Type} {j k : Nat} {l : List (Nat × α)} (h : j ≠ k) : lookup j (erase k l) = lookup j l := by
  induction l with
  | nil => rfl
  | cons q l ih =>
    obtain ⟨i, b⟩ := q
    simp only [erase]
    split
    · next e => subst e; simp [lookup, h]
    · simp [lookup, ih]

theorem lookup_below {α : Type} {k : Nat} {l : List (Nat × α)} (h : ∀ p ∈ l, k < p.1) : lookup k l = none := by
  induction l with
  | nil => rfl
  | cons q l ih =>
    obtain ⟨i, b⟩ := q
    have := h (i, b) List.mem_cons_self
    simp only at this
    simp [lookup, Nat.ne_of_lt this, ih fun p hp => h p (List.mem_cons_of_mem _ hp)]

theorem lookup_erase {α : Type} {k : Nat} {l : List (Nat × α)} (h : sortedKeys l = true) : lookup k (erase k l) = none := by
  induction l with
  | nil => rfl
  | cons q l ih =>
    obtain ⟨j, b⟩ := q
    rw [sortedKeys_cons] at h
    simp only [erase]
    split
    · next e => subst e; exact lookup_below h.1
    · next e => simp [lookup, ih h.2, e]

theorem lookup_putCell_ne {p q : Nat} {b : Byte} {c : List Host.Cell} (h : q ≠ p) : lookup q (putCell p b c) = lookup q c := by
  unfold putCell
  split
  · exact lookup_erase_ne h
  · exact lookup_insert_ne h

theorem Fill.outside_find {r : Fill} {p q : Nat} (h : q ≠ p) :
    ((r.outside p 1).find? fun x => decide (x.lo ≤ q) && decide (q < x.lo + x.len)).map Fill.kind =
      if r.lo ≤ q ∧ q < r.lo + r.len then some r.kind else none := by
  obtain ⟨lo, len, k⟩ := r
  simp only [Fill.outside]
  by_cases a : lo < p <;> by_cases b : p + 1 < lo + len <;> simp only [a, b, if_true, if_false, List.nil_append, List.append_nil, List.cons_append]
  · simp only [List.find?_cons, List.find?_nil]
    by_cases c : lo ≤ q ∧ q < lo + len
    · by_cases d : q < p
      · rw [if_pos c]
        have e1 : (decide (lo ≤ q) && decide (q < lo + (min (lo + len) p - lo))) = true := by simp; omega
        simp only [e1, Option.map_some, Option.map_none]
      · rw [if_pos c]
        have e1 : (decide (lo ≤ q) && decide (q < lo + (min (lo + len) p - lo))) = false := by simp; omega
        have e2 : (decide (max lo (p + 1) ≤ q) && decide (q < max lo (p + 1) + (lo + len - max lo (p + 1)))) = true := by simp; omega
        simp only [e1, e2, Option.map_some, Option.map_none]
    · rw [if_neg c]
      have e1 : (decide (lo ≤ q) && decide (q < lo + (min (lo + len) p - lo))) = false := by simp; omega
      have e2 : (decide (max lo (p + 1) ≤ q) && decide (q < max lo (p + 1) + (lo + len - max lo (p + 1)))) = false := by simp; omega
      simp only [e1, e2, Option.map_some, Option.map_none]
  · simp only [List.find?_cons, List.find?_nil]
    by_cases c : lo ≤ q ∧ q < lo + len
    · rw [if_pos c]
      have e1 : (decide (lo ≤ q) && decide (q < lo + (min (lo + len) p - lo))) = true := by simp; omega
      simp only [e1, Option.map_some, Option.map_none]
    · rw [if_neg c]
      have e1 : (decide (lo ≤ q) && decide (q < lo + (min (lo + len) p - lo))) = false := by simp; omega
      simp only [e1, Option.map_some, Option.map_none]
  · simp only [List.find?_cons, List.find?_nil]
    by_cases c : lo ≤ q ∧ q < lo + len
    · rw [if_pos c]
      have e2 : (decide (max lo (p + 1) ≤ q) && decide (q < max lo (p + 1) + (lo + len - max lo (p + 1)))) = true := by simp; omega
      simp only [e2, Option.map_some, Option.map_none]
    · rw [if_neg c]
      have e2 : (decide (max lo (p + 1) ≤ q) && decide (q < max lo (p + 1) + (lo + len - max lo (p + 1)))) = false := by simp; omega
      simp only [e2, Option.map_some, Option.map_none]
  · have c : ¬(lo ≤ q ∧ q < lo + len) := by omega
    simp [c]

theorem cutFills_find {p q : Nat} {l : List Fill} (h : q ≠ p) :
    ((cutFills p 1 l).find? fun x => decide (x.lo ≤ q) && decide (q < x.lo + x.len)).map Fill.kind =
      (l.find? fun x => decide (x.lo ≤ q) && decide (q < x.lo + x.len)).map Fill.kind := by
  induction l with
  | nil => rfl
  | cons r l ih =>
    simp only [cutFills, List.flatMap_cons, List.find?_append]
    have k := Fill.outside_find (r := r) h
    by_cases c : r.lo ≤ q ∧ q < r.lo + r.len
    · simp only [c, and_self, if_true] at k
      obtain ⟨x, hx, hk⟩ := Option.map_eq_some_iff.1 k
      simp [hx, hk, List.find?_cons, c]
    · simp only [c, if_false, Option.map_eq_none_iff] at k
      have d : (decide (r.lo ≤ q) && decide (q < r.lo + r.len)) = false := by simpa using c
      simp only [k, Option.none_or, List.find?_cons, d]
      exact ih

/-- A write of one byte leaves the other bytes alone. -/
theorem Mem.put_get_ne {m : Mem} {p q : Nat} {b : Byte} (h : q ≠ p) : (m.put p b).get q = m.get q := by
  have f := cutFills_find (l := m.fills) h
  simp only [Mem.get, Mem.put, lookup_putCell_ne h, Mem.fillAt]
  split
  · rfl
  · revert f
    generalize (cutFills p 1 m.fills).find? _ = x
    generalize m.fills.find? _ = y
    cases x <;> cases y <;> simp
    intro e
    rw [e]

theorem cutFills_none {p : Nat} {l : List Fill} : (cutFills p 1 l).find? (fun x => decide (x.lo ≤ p) && decide (p < x.lo + x.len)) = none := by
  rw [List.find?_eq_none]
  intro x hx
  simp only [cutFills, List.mem_flatMap, Fill.outside, List.mem_append] at hx
  obtain ⟨r, _, hx | hx⟩ := hx <;> split at hx <;> simp at hx <;> subst hx <;> simp <;> omega

/-- The byte written is the byte read. -/
theorem Mem.put_get {m : Mem} {p : Nat} {b : Byte} (h : m.wf = true) : (m.put p b).get p = b := by
  simp only [Mem.wf, cellsWf, Bool.and_eq_true] at h
  simp only [Mem.get, Mem.put, Mem.fillAt, cutFills_none, putCell]
  split
  · next c e =>
    split at e
    · rw [lookup_erase h.1] at e; cases e
    · rw [lookup_insert] at e; cases e; rfl
  · next e =>
    split at e
    · next u => simp [u]
    · rw [lookup_insert] at e; cases e

/-! ## What touches no byte -/

/-- The bytes of device memory are the same in two states. -/
def SameBytes (s t : State) : Prop := t.mem.cells = s.mem.cells ∧ t.mem.fills = s.mem.fills ∧ t.mem.life = s.mem.life

theorem SameBytes.refl {s : State} : SameBytes s s := ⟨rfl, rfl, rfl⟩

theorem SameBytes.trans {s t u : State} (h : SameBytes s t) (k : SameBytes t u) : SameBytes s u :=
  ⟨k.1.trans h.1, k.2.1.trans h.2.1, k.2.2.trans h.2.2⟩

theorem SameBytes.get {s t : State} {p : Nat} (h : SameBytes s t) : t.mem.get p = s.mem.get p := by
  simp only [Mem.get, Mem.fillAt, h.1, h.2.1, h.2.2]

/-- An operation that leaves memory alone leaves its bytes alone. -/
theorem Acts.bytes {ps : List Part} {s t : State} (h : Acts ps s t) (hp : Part.mem ∉ ps) : SameBytes s t := by
  have e : t.mem = s.mem := h.1 .mem hp
  exact ⟨by rw [e], by rw [e], by rw [e]⟩

theorem SameBytes.foldl {α : Type} {l : List α} {f : State → α → State} {s t : State} (h : SameBytes s t)
    (k : ∀ u x, SameBytes u (f u x)) : SameBytes s (l.foldl f t) := by
  induction l generalizing t with
  | nil => exact h
  | cons x l ih => exact ih (h.trans (k t x))

theorem SameBytes.ite {c : Prop} [Decidable c] {s t u : State} (h : SameBytes s t) (k : SameBytes s u) : SameBytes s (if c then t else u) := by
  split
  · exact h
  · exact k

theorem State.updBasin_bytes {s : State} {f : Basin → Basin} : SameBytes s (s.updBasin f) := ⟨rfl, rfl, rfl⟩

theorem State.count_bytes {s : State} {a n : Nat} : SameBytes s (s.count a n) := State.updBasin_bytes

theorem State.chargeTo_bytes {s : State} {w point n : Nat} : SameBytes s (s.chargeTo w point n) := by
  unfold State.chargeTo
  exact .ite (State.updBasin_bytes.trans State.count_bytes) State.updBasin_bytes

theorem State.ctrlRead_bytes {s : State} {c n : Nat} : SameBytes s (s.ctrlRead c n) := State.count_bytes.trans State.chargeTo_bytes
theorem State.ctrlWrite_bytes {s : State} {c n : Nat} : SameBytes s (s.ctrlWrite c n) := State.count_bytes.trans State.chargeTo_bytes
theorem State.hit_bytes {s : State} {h n : Nat} : SameBytes s (s.hit h n) := State.count_bytes.trans State.chargeTo_bytes
theorem State.miss_bytes {s : State} {h n : Nat} : SameBytes s (s.miss h n) := State.count_bytes.trans State.chargeTo_bytes

theorem State.spreadPoison_bytes {s : State} {l : Nat} {sectors : List Nat} : SameBytes s (s.spreadPoison l sectors) := by
  unfold State.spreadPoison
  exact .ite ⟨rfl, rfl, rfl⟩ .refl

theorem State.expel_bytes {s : State} {k : CacheLine} : SameBytes s (s.expel k) := by
  unfold State.expel
  exact .ite (State.updBasin_bytes.trans (State.count_bytes.trans (State.chargeTo_bytes.trans (State.chargeTo_bytes.trans
    (State.count_bytes.trans State.spreadPoison_bytes))))) State.updBasin_bytes

theorem State.allocate_bytes {s : State} {l : Nat} {dirty : Bool} : SameBytes s (s.allocate l dirty) := by
  unfold State.allocate
  dsimp only
  split
  · exact .refl
  · split
    · exact State.updBasin_bytes
    · split
      · exact State.expel_bytes.trans State.updBasin_bytes
      · exact .refl

theorem State.mergeSectors_bytes {s : State} {l m : Nat} : SameBytes s (s.mergeSectors l m) := by
  unfold State.mergeSectors
  dsimp only
  split
  · exact State.ctrlWrite_bytes
  · exact State.count_bytes.trans (State.ctrlRead_bytes.trans State.ctrlWrite_bytes)

theorem State.sluiceWrite_bytes {s : State} {l off n : Nat} : SameBytes s (s.sluiceWrite l off n) := by
  unfold State.sluiceWrite
  dsimp only
  refine .ite (State.hit_bytes.trans (State.updBasin_bytes.trans (State.count_bytes.trans (State.ctrlWrite_bytes.trans
    State.spreadPoison_bytes)))) (.ite (State.hit_bytes.trans State.updBasin_bytes) (State.hit_bytes.trans State.updBasin_bytes))

theorem State.readLine_bytes {s : State} {alloc : Bool} {l n : Nat} : SameBytes s (s.readLine alloc l n) := by
  unfold State.readLine
  exact .ite (State.updBasin_bytes.trans State.hit_bytes) (.ite State.hit_bytes
    (.ite (State.miss_bytes.trans (State.ctrlRead_bytes.trans State.allocate_bytes)) (State.miss_bytes.trans State.ctrlRead_bytes)))

theorem State.writeLine_bytes {s : State} {l off n : Nat} : SameBytes s (s.writeLine l off n) := by
  unfold State.writeLine
  exact .ite (State.updBasin_bytes.trans State.hit_bytes) (.ite (.ite
    (State.updBasin_bytes.trans (State.miss_bytes.trans State.ctrlWrite_bytes))
    (State.updBasin_bytes.trans (State.hit_bytes.trans State.allocate_bytes)))
    (.ite State.sluiceWrite_bytes (State.miss_bytes.trans State.mergeSectors_bytes)))

/-- The traffic of an access touches no byte. -/
theorem State.tally_bytes {s : State} {write alloc : Bool} {a n : Nat} : SameBytes s (s.tally write alloc a n) := by
  have mark : ∀ {u : State}, SameBytes s u →
      SameBytes s (if s.acting.counted then u else u.updBasin fun b => { b with inexact := true }) :=
    fun h => .ite h (h.trans State.updBasin_bytes)
  unfold State.tally
  dsimp only
  split
  · exact mark (.foldl .refl fun u x => .ite State.writeLine_bytes State.readLine_bytes)
  · exact mark (.foldl .refl fun u x => State.hit_bytes)
  · refine mark (.foldl .refl fun u x => ?_)
    split
    · exact .ite State.ctrlWrite_bytes State.ctrlRead_bytes
    · exact .refl
  · refine mark (.foldl .refl fun u x => ?_)
    split
    · exact .ite State.ctrlWrite_bytes State.ctrlRead_bytes
    · exact .refl
  · exact .refl

/-- What a failed read leaves behind touches no byte. -/
theorem State.recordUnit_bytes {s : State} {u st : Nat} : SameBytes s (s.recordUnit u st) := by
  have h : ∀ {x : State} {a : Nat} {g : LogArg} {n : Nat}, SameBytes x ((x.raise a n).logEvent g) := fun {x a g n} =>
    Acts.bytes (ps := [.regs, .log, .outbox]) (State.logEvent_acts (State.raise_acts .refl (by decide)) (by decide)) (by decide)
  have k : ∀ {x : State} {a n b v : Nat}, SameBytes x ((x.sat32 a n).set64 b v) := fun {x a n b v} =>
    Acts.bytes (ps := [.regs]) (State.set64_acts (State.sat32_acts .refl (by decide)) (by decide)) (by decide)
  unfold State.recordUnit
  dsimp only
  split
  · exact ⟨rfl, rfl, rfl⟩
  · split
    · exact .refl
    · split
      · split
        · refine SameBytes.trans (t := { s with mem := { s.mem with bad := s.mem.bad.filter (· != u), poison := u :: s.mem.poison } }) ⟨rfl, rfl, rfl⟩ ?_
          exact k.trans h
        · exact .refl
      · split
        · exact .refl
        · next c _ =>
          split
          · refine SameBytes.trans (t := { s with mem := { s.mem with bad := s.mem.bad.filter (· != u), poison := u :: s.mem.poison } }) ⟨rfl, rfl, rfl⟩ ?_
            exact Acts.bytes (ps := [.draws, .regs, .log, .outbox]) (State.logEvent_acts (State.raise_acts (State.setNat_acts (State.draw_acts
              (State.set64_acts (State.sat32_acts .refl (by decide)) (by decide)) (by decide)) (by decide)) (by decide)) (by decide)) (by decide)
          · split
            · exact Acts.bytes (ps := [.regs, .outbox]) (State.raise_acts (State.setNat_acts (State.set64_acts .refl (by decide)) (by decide)) (by decide))
                (by decide)
            · exact .refl

theorem State.noteUnit_bytes {s : State} {u : Nat} : SameBytes s (s.noteUnit u) := by
  unfold State.noteUnit
  split
  · exact .refl
  · exact State.recordUnit_bytes.trans
      (Acts.bytes (ps := [.regs, .weights, .log, .outbox]) (State.openRepair_acts .refl (by decide)) (by decide))

theorem State.noteMerge_bytes {s : State} {a n : Nat} : SameBytes s (s.noteMerge a n) := .foldl .refl fun _ _ => State.noteUnit_bytes

theorem State.noteRead_bytes {s : State} {master a n : Nat} : SameBytes s (s.noteRead master a n) := by
  have p : ∀ {x : State} {m q : Nat}, SameBytes x (x.noteParity m q) := fun {x m q} =>
    Acts.bytes (ps := [.regs, .units, .log, .outbox]) (State.noteParity_acts .refl (by decide)) (by decide)
  have b : ∀ {x : State} {q : Nat}, SameBytes x (x.noteBankPoison q) := fun {x q} =>
    Acts.bytes (ps := [.regs, .outbox]) (State.noteBankPoison_acts .refl (by decide)) (by decide)
  unfold State.noteRead
  exact .foldl (.foldl .refl fun _ _ => .ite b State.noteUnit_bytes) fun _ _ => p

/-! ## Writes of ranges -/

/-- What storing a range leaves alone: every byte whose place is not one of the range's. -/
theorem State.storeMem_get {s : State} {a : Nat} {bs : List Byte} {p : Nat} (h : ∀ i, i < bs.length → p ≠ s.phys (a + i)) :
    (s.storeMem a bs).mem.get p = s.mem.get p := by
  have key : ∀ (l : List (Nat × Byte)) (m : Mem), (∀ x ∈ l, p ≠ s.phys (a + x.1)) →
      (l.foldl (fun (m : Mem) (ib : Nat × Byte) =>
        if (s.lostUnits a bs.length).contains (s.poisonUnit (s.phys (a + ib.1))) || s.noModule (s.phys (a + ib.1))
            || s.noStack (s.phys (a + ib.1)) then m
        else m.put (s.phys (a + ib.1)) ib.2) m).get p = m.get p := by
    intro l
    induction l with
    | nil => intro m _; rfl
    | cons x l ih =>
      intro m hx
      rw [List.foldl_cons, ih _ fun y hy => hx y (List.mem_cons_of_mem _ hy)]
      split
      · rfl
      · exact Mem.put_get_ne (hx x List.mem_cons_self)
  unfold State.storeMem
  rw [State.tally_bytes.get]
  refine key ((List.range bs.length).zip bs) s.mem fun x hx => h x.1 ?_
  exact List.mem_range.1 (List.of_mem_zip hx).1

/-- What a write of a range leaves alone: every byte whose place is not one of the range's, as the merge reads leave the device. -/
theorem State.writeMem_get {s : State} {a : Nat} {bs : List Byte} {p : Nat}
    (h : ∀ i, i < bs.length → p ≠ (s.noteMerge a bs.length).phys (a + i)) : (s.writeMem a bs).mem.get p = s.mem.get p := by
  unfold State.writeMem
  rw [State.storeMem_get h, State.noteMerge_bytes.get]

end Sys2Proof.Machine
end

