-- ==== Sys2Proof/WellFormed.lean ====
section
/-! DEFINITION. When a command's operands are ones that the block can be given: numbers of queues, functions, ports, units and slots
that exist, register addresses that are aligned and inside BAR0, times that fit LOCAL_TIME. The meanings are total and do not ask for
this; where the spec gives a number outside these ranges an effect, such as a refusal, the meaning has it. -/

namespace Sys2Proof

/-- Local time is a 64-bit count (R35). -/
def timeWf (t : Nat) : Bool := decide (t < 2 ^ 64)
/-- Queues 0-63 exist (R100). -/
def queueWf (q : Nat) : Bool := decide (q < 64)
/-- Function 0 is PF0; 1-31 are VFs (chapter 0). -/
def functionWf (f : Nat) : Bool := decide (f < 32)
def vfWf (f : Nat) : Bool := decide (1 ≤ f) && decide (f < 32)
/-- A register access: aligned, inside BAR0 of 64 MiB (R7, Table 3-2). -/
def registerWf (a : Nat) : Bool := decide (a % 4 = 0) && decide (a < 2 ^ 26)
/-- An access that R9 calls unaligned: not 4 bytes, or not at a multiple of 4. -/
def unalignedWf (a size : Nat) : Bool := decide (a % 4 ≠ 0) || decide (size ≠ 4)
/-- Device addresses are 64-bit numbers. -/
def addressWf (a : Nat) : Bool := decide (a < 2 ^ 64)
/-- BAR2 of PF0 is 64 GiB, of a VF 4 GiB (Table 3-1, R75). -/
def bar2Wf (fn off : Nat) : Bool := decide (off < if fn = 0 then 2 ^ 36 else 2 ^ 32)
def assaySlotWf (n : Nat) : Bool := decide (1 ≤ n) && decide (n ≤ 255)
/-- Scale-history slots 1-63 exist (R199). -/
def histSlotWf (n : Nat) : Bool := decide (1 ≤ n) && decide (n ≤ 63)
/-- 1,024 adapter slots (R351). -/
def adapterSlotWf (n : Nat) : Bool := decide (n < 1024)
def portWf (p : Nat) : Bool := decide (p < 8)
def keeperWf (k : Nat) : Bool := decide (k < 16)
def dieWf (d : Nat) : Bool := decide (d < 4)
def bankWf (b : Nat) : Bool := decide (b < 15)
def socketWf (n : Nat) : Bool := decide (n < 12)
def fibreWf (n : Nat) : Bool := decide (n < 24)
def hubWf (h : Nat) : Bool := decide (h < 2)
def segmentWf (n : Nat) : Bool := decide (n < 24)
/-- Controllers 0-15 of the stacks, 16-27 of the reach. -/
def controllerWf (c : Nat) : Bool := decide (c < 28)
/-- A port has 64 lanes (R362). -/
def laneWf (n : Nat) : Bool := decide (n < 64)
def paveWf (n : Nat) : Bool := decide (n < 8)
def engineWf (n : Nat) : Bool := decide (n < 32)
/-- Units that the watchdog may find late: pavés 1-8 and engines 0x10-0x2F. -/
def unitWf (u : Nat) : Bool := (decide (1 ≤ u) && decide (u ≤ 8)) || (decide (0x10 ≤ u) && decide (u < 0x30))
/-- Services 0-7 of a kind (R427). -/
def serviceWf (n : Nat) : Bool := decide (n < 8)
/-- Update contexts 1-16 (R490). -/
def contextWf (x : Nat) : Bool := decide (1 ≤ x) && decide (x ≤ 16)
/-- 64 set slots (chapter 13). -/
def setWf (w : Nat) : Bool := decide (w < 64)
def berthWf (b : Nat) : Bool := decide (b < 8)
/-- Groups 0-7 (R396). -/
def groupWf (g : Nat) : Bool := decide (g < 8)
/-- A status is 16 bits wide. -/
def statusWf (w : Nat) : Bool := decide (w < 65536)
/-- A flit is 256 bytes (chapter 14). -/
def flitWf (bs : List Byte) : Bool := decide (bs.length = 256)
/-- The operands of an AtomicOp: one of 4 or 8 bytes, for CAS two (R76). -/
def operandsWf (op : AtomicOp) (bs : List Byte) : Bool :=
  match op with
  | .cas => decide (bs.length = 8) || decide (bs.length = 16)
  | _ => decide (bs.length = 4) || decide (bs.length = 8)
/-- An SPDM nonce is 32 bytes. -/
def nonceWf (bs : List Byte) : Bool := decide (bs.length = 32)

/-- Cells by strictly rising address. -/
def risingCells : List Host.Cell → Bool
  | a :: b :: t => decide (a.1 < b.1) && risingCells (b :: t)
  | _ => true

def CmdRef.wf (c : CmdRef) : Bool := queueWf c.queue && decide (c.tag < 2 ^ 32)
/-- Host memory as a command meets it: cells by strictly rising address, ranges not upside down. -/
def HostView.wf (v : HostView) : Bool := risingCells v.cells && v.fails.all fun r => decide (r.1 ≤ r.2)
def HallmarkReading.wf (r : HallmarkReading) : Bool := decide (r.index < 256)
def IdeKm.wf (m : IdeKm) : Bool := decide (m.stream < 256)
def BootInputs.wf (b : BootInputs) : Bool := (b.readings.all HallmarkReading.wf) && b.sockets.all fun k => socketWf k.1

/-- The local time that a timed event brings with it. -/
def Instr.time (i : Instr) : Option Nat :=
  match i with
  | .nop _ _ => none
  | .queueCreate _ _ => none
  | .queueDelete _ _ => none
  | .abort _ _ => none
  | .getLog _ _ => none
  | .serviceHold _ _ => none
  | .serviceResume _ _ => none
  | .reachRelease _ _ => none
  | .marginPlan _ _ => none
  | .powerState _ _ => none
  | .resetUnit _ _ => none
  | .quiesce _ _ => none
  | .stage _ _ => none
  | .check _ _ => none
  | .commit _ _ => none
  | .abandon _ _ => none
  | .matmul _ _ => none
  | .matmulGrouped _ _ => none
  | .attend _ _ => none
  | .vop _ _ => none
  | .sample _ _ => none
  | .update _ _ => none
  | .move _ _ => none
  | .initFill _ _ => none
  | .narrowGather _ _ => none
  | .narrowScatter _ _ => none
  | .atomic _ _ => none
  | .gather _ _ => none
  | .reduceScatter _ _ => none
  | .permute _ _ => none
  | .send _ _ => none
  | .recv _ _ => none
  | .vote _ _ => none
  | .serveOpen _ _ => none
  | .serveClose _ _ => none
  | .admitSequence _ _ => none
  | .rollout _ _ => none
  | .seqCancel _ _ => none
  | .weightsLoad _ _ => none
  | .weightsDrop _ _ => none
  | .adapterLoad _ _ => none
  | .adapterDrop _ _ => none
  | .score _ _ => none
  | .trainStep _ _ => none
  | .trainClose _ _ => none
  | .checkpoint _ _ => none
  | .checkpointImport _ _ => none
  | .turn _ _ => none
  | .preempt _ _ => none
  | .lifecycleSet _ _ => none
  | .debugToken _ _ => none
  | .locketWipe _ _ => none
  | .replay _ _ => none
  | .logbookCtrl _ _ => none
  | .selfTest _ _ _ => none
  | .packetFetch _ now _ => some now
  | .fencedCommandStart _ now => some now
  | .commandCompletion _ now _ => some now
  | .commandTimeout _ now => some now
  | .queueFence _ now => some now
  | .sqTailWrite _ _ _ now => some now
  | .cqHeadWrite _ _ _ now => some now
  | .queueReset _ _ => none
  | .hello _ _ => none
  | .stagingWindowWrite _ _ => none
  | .chamberStatusRead _ => none
  | .w1cClear _ _ _ => none
  | .wideLowWordRead _ _ => none
  | .wideHighWordWrite _ _ _ => none
  | .unalignedBar0Access _ _ _ _ => none
  | .registerWrite _ _ _ => none
  | .assayClear _ _ => none
  | .histAdvance _ _ => none
  | .histReset _ _ => none
  | .locateCtrlWrite _ => none
  | .collRelease _ => none
  | .portRetrain _ _ => none
  | .portUnfence _ _ => none
  | .portHold _ _ => none
  | .portRelease _ _ => none
  | .resetCtrlCold _ => none
  | .resetCtrlWarm _ => none
  | .adapterViewRead => none
  | .manifestViewRead => none
  | .accViewRead _ => none
  | .bar2Read _ _ _ => none
  | .bar2Write _ _ _ => none
  | .bar2Atomicop _ _ _ _ => none
  | .perstNAssert => none
  | .perstNRelease => none
  | .pcieHotReset => none
  | .flrPf0 => none
  | .flrVf _ => none
  | .coldReset _ => none
  | .warmReset _ => none
  | .perFunctionReset _ => none
  | .keeperComplexReset => none
  | .keeperFirmwareFault => none
  | .keeperBankParity _ => none
  | .ideKm _ _ => none
  | .doeDiscovery _ => none
  | .pwrEnRise now => some now
  | .pwrEnFall now => some now
  | .powerFail => none
  | .inputAbove42v => none
  | .inputLowBand _ => none
  | .inputHighBand _ => none
  | .inputOvervoltage => none
  | .railOutOfRegulation => none
  | .powerUpToIdle _ => none
  | .idleToActive => none
  | .idleDelayExpiry now => some now
  | .powerStateEntry now => some now
  | .dieGate _ => none
  | .dieUngate _ => none
  | .inletWarning _ => none
  | .thermalLimit _ => none
  | .thermalHardBreach _ => none
  | .thermalResume _ => none
  | .thermalTrip _ => none
  | .oscillatorLost => none
  | .governorSample _ now => some now
  | .paceWindow now => some now
  | .beat _ _ now => some now
  | .beatWatchdog _ now => some now
  | .paveFault _ _ => none
  | .engineFault _ _ => none
  | .residueFence _ now => some now
  | .bankOwnerFence _ _ now => some now
  | .bankClear _ _ => none
  | .operatingHourTick now => some now
  | .marginPlanDone _ now => some now
  | .coinCellMeasure _ now => some now
  | .locatePress _ => none
  | .servicePress _ now => some now
  | .serviceLong now => some now
  | .cellService now => some now
  | .serviceRequestLapse now => some now
  | .cellInserted _ now => some now
  | .cellServiceTimeout now => some now
  | .padTouch _ _ => none
  | .reachInsert _ _ => none
  | .reachRemove _ => none
  | .fibreChange _ _ now => some now
  | .lidOpen => none
  | .lidClose => none
  | .lidOpenUnpowered => none
  | .locketParityError _ => none
  | .setEndpointId _ _ => none
  | .getEndpointId _ => none
  | .getEndpointUuid _ => none
  | .getMctpVersionSupport _ => none
  | .getMessageTypeSupport _ => none
  | .getTid _ => none
  | .getPldmVersion _ _ => none
  | .getPldmTypes _ => none
  | .getPldmCommands _ _ => none
  | .getPdr _ _ => none
  | .getPdrRepositoryInfo _ => none
  | .getSensorReading _ _ => none
  | .getStateSensorReadings _ _ => none
  | .setNumericEffecterValue _ _ _ => none
  | .getNumericEffecterValue _ _ => none
  | .setStateEffecterStates _ _ _ => none
  | .setEventReceiver _ _ => none
  | .queryDeviceIdentifiers _ => none
  | .getFirmwareParameters _ => none
  | .requestUpdate _ => none
  | .passComponentTable _ _ => none
  | .updateComponent _ _ _ => none
  | .requestFirmwareData _ _ _ => none
  | .verifyComplete _ => none
  | .activateFirmware _ => none
  | .getStatus _ => none
  | .cancelUpdateComponent _ => none
  | .cancelUpdate _ => none
  | .mgmtUnsupportedCommand _ _ _ => none
  | .getVersion _ _ now => some now
  | .getCapabilities _ _ now => some now
  | .negotiateAlgorithms _ _ _ now => some now
  | .getDigests _ _ now => some now
  | .getCertificate _ _ _ _ _ now => some now
  | .challenge _ _ _ _ now => some now
  | .getMeasurements _ _ _ _ now => some now
  | .keyExchange _ _ _ now => some now
  | .finish _ _ _ now => some now
  | .heartbeat _ _ _ now => some now
  | .keyUpdate _ _ _ now => some now
  | .endSession _ _ _ now => some now
  | .spdmFence _ now => some now
  | .spdmFenceExpiry _ now => some now
  | .bringUpStart _ now => some now
  | .laneJudgeDone _ _ now => some now
  | .widthFlit _ _ now => some now
  | .identFlit _ _ now => some now
  | .creditInitFlit _ _ now => some now
  | .retrainFlit _ _ now => some now
  | .idleFlit _ _ now => some now
  | .dataFlit _ _ now => some now
  | .flitCrcFailure _ now => some now
  | .nakRepeat _ now => some now
  | .nakLimit _ now => some now
  | .ackStall _ now => some now
  | .retrainDone _ _ now => some now
  | .laneFail _ _ now => some now
  | .identTimeout _ now => some now
  | .bringUpRetry _ now => some now
  | .linkSilence _ now => some now
  | .laserFeedReading _ _ now => some now
  | .portFence _ now => some now
  | .vcRepartition _ now => some now
  | .messageDelivered _ now => some now
  | .linkNoticeRestarted _ now => some now
  | .pathBroken _ now => some now
  | .chainMessage _ now => some now
  | .gatherPiece _ now => some now
  | .voteRecord _ now => some now
  | .pipelineMessage _ now => some now
  | .permutePiece _ now => some now
  | .abortNotice _ now => some now
  | .collDeadline _ _ now => some now
  | .peerSetRequest _ now => some now
  | .turnPiece _ now => some now
  | .interfaceParityRetry _ => none
  | .interfaceRetrain _ now => some now
  | .correctedWriteBack _ _ => none
  | .bucketLeak _ _ now => some now
  | .bucketOverflow _ now => some now
  | .basinCrcMismatch _ => none
  | .sluiceEvict _ => none
  | .basinSegmentChange _ _ => none
  | .weirWindow now => some now
  | .repairOpen _ now => some now
  | .repairSourceData _ _ _ now _ => some now
  | .repairDeadline _ now => some now
  | .budgetRefill now => some now
  | .serveStepComplete _ now _ => some now
  | .stepBuild _ now _ => some now
  | .trainStepStart _ now _ => some now
  | .poundEntry _ _ now => some now
  | .passEnd _ _ now => some now
  | .microRerunDelay _ now => some now
  | .stepFiniteResult _ now => some now
  | .stepDecision _ _ now => some now
  | .attemptRetry _ now => some now
  | .finalBlockUpdate _ now => some now
  | .shadowHeaderWrite _ now => some now
  | .checkpointExportDone _ now _ => some now
  | .loadActivation _ _ now _ => some now
  | .setReleaseCommit _ now => some now
  | .adapterReleaseCommit _ now => some now
  | .commitInstant now _ => some now
  | .settleEnd _ now => some now
  | .drainDeadline _ now => some now
  | .transferEnd _ now => some now
  | .turnFinalCommit _ now _ => some now
  | .xferTimeout _ now => some now
  | .scoreStep _ now _ => some now
  | .lifecycleResetDelay now => some now
  | .debugExpiry now => some now
  | .authLockout now => some now
  | .lockoutExpiry now => some now
  | .logbookBufferFlush now => some now
  | .interfaceRetrainDone _ _ now => some now
  | .eventMessageCollected now => some now

/-- Are a command's operands ones that the block can be given? -/
def Instr.wf (i : Instr) : Bool :=
  match i with
  | .nop c hv => c.wf && hv.wf
  | .queueCreate c hv => c.wf && hv.wf
  | .queueDelete c hv => c.wf && hv.wf
  | .abort c hv => c.wf && hv.wf
  | .getLog c hv => c.wf && hv.wf
  | .serviceHold c hv => c.wf && hv.wf
  | .serviceResume c hv => c.wf && hv.wf
  | .reachRelease c hv => c.wf && hv.wf
  | .marginPlan c hv => c.wf && hv.wf
  | .powerState c hv => c.wf && hv.wf
  | .resetUnit c hv => c.wf && hv.wf
  | .quiesce c hv => c.wf && hv.wf
  | .stage c hv => c.wf && hv.wf
  | .check c hv => c.wf && hv.wf
  | .commit c hv => c.wf && hv.wf
  | .abandon c hv => c.wf && hv.wf
  | .matmul c hv => c.wf && hv.wf
  | .matmulGrouped c hv => c.wf && hv.wf
  | .attend c hv => c.wf && hv.wf
  | .vop c hv => c.wf && hv.wf
  | .sample c hv => c.wf && hv.wf
  | .update c hv => c.wf && hv.wf
  | .move c hv => c.wf && hv.wf
  | .initFill c hv => c.wf && hv.wf
  | .narrowGather c hv => c.wf && hv.wf
  | .narrowScatter c hv => c.wf && hv.wf
  | .atomic c hv => c.wf && hv.wf
  | .gather c hv => c.wf && hv.wf
  | .reduceScatter c hv => c.wf && hv.wf
  | .permute c hv => c.wf && hv.wf
  | .send c hv => c.wf && hv.wf
  | .recv c hv => c.wf && hv.wf
  | .vote c hv => c.wf && hv.wf
  | .serveOpen c hv => c.wf && hv.wf
  | .serveClose c hv => c.wf && hv.wf
  | .admitSequence c hv => c.wf && hv.wf
  | .rollout c hv => c.wf && hv.wf
  | .seqCancel c hv => c.wf && hv.wf
  | .weightsLoad c hv => c.wf && hv.wf
  | .weightsDrop c hv => c.wf && hv.wf
  | .adapterLoad c hv => c.wf && hv.wf
  | .adapterDrop c hv => c.wf && hv.wf
  | .score c hv => c.wf && hv.wf
  | .trainStep c hv => c.wf && hv.wf
  | .trainClose c hv => c.wf && hv.wf
  | .checkpoint c hv => c.wf && hv.wf
  | .checkpointImport c hv => c.wf && hv.wf
  | .turn c hv => c.wf && hv.wf
  | .preempt c hv => c.wf && hv.wf
  | .lifecycleSet c hv => c.wf && hv.wf
  | .debugToken c hv => c.wf && hv.wf
  | .locketWipe c hv => c.wf && hv.wf
  | .replay c hv => c.wf && hv.wf
  | .logbookCtrl c hv => c.wf && hv.wf
  | .selfTest c _ hv => c.wf && hv.wf
  | .packetFetch q now hv => timeWf now && (queueWf q && hv.wf)
  | .fencedCommandStart c now => timeWf now && (c.wf)
  | .commandCompletion c now hv => timeWf now && (c.wf && hv.wf)
  | .commandTimeout c now => timeWf now && (c.wf)
  | .queueFence q now => timeWf now && (queueWf q)
  | .sqTailWrite fn q _ now => timeWf now && (functionWf fn && queueWf q)
  | .cqHeadWrite fn q _ now => timeWf now && (functionWf fn && queueWf q)
  | .queueReset fn q => functionWf fn && queueWf q
  | .hello fn _ => functionWf fn
  | .stagingWindowWrite addr _ => registerWf addr
  | .chamberStatusRead fn => functionWf fn
  | .w1cClear fn addr _ => functionWf fn && registerWf addr
  | .wideLowWordRead fn addr => functionWf fn && registerWf addr
  | .wideHighWordWrite fn addr _ => functionWf fn && registerWf addr
  | .unalignedBar0Access fn addr size _ => functionWf fn && decide (addr < 2 ^ 26) && unalignedWf addr size
  | .registerWrite fn addr _ => functionWf fn && registerWf addr
  | .assayClear slot _ => assaySlotWf slot
  | .histAdvance slot _ => histSlotWf slot
  | .histReset slot _ => histSlotWf slot
  | .locateCtrlWrite _ => true
  | .collRelease _ => true
  | .portRetrain p _ => portWf p
  | .portUnfence p _ => portWf p
  | .portHold p _ => portWf p
  | .portRelease p _ => portWf p
  | .resetCtrlCold _ => true
  | .resetCtrlWarm _ => true
  | .adapterViewRead => true
  | .manifestViewRead => true
  | .accViewRead _ => true
  | .bar2Read fn off _ => functionWf fn && bar2Wf fn off
  | .bar2Write fn off _ => functionWf fn && bar2Wf fn off
  | .bar2Atomicop fn off op operands => functionWf fn && bar2Wf fn off && operandsWf op operands
  | .perstNAssert => true
  | .perstNRelease => true
  | .pcieHotReset => true
  | .flrPf0 => true
  | .flrVf fn => vfWf fn
  | .coldReset boot => boot.wf
  | .warmReset boot => boot.wf
  | .perFunctionReset fn => vfWf fn
  | .keeperComplexReset => true
  | .keeperFirmwareFault => true
  | .keeperBankParity keeper => keeperWf keeper
  | .ideKm _ msg => msg.wf
  | .doeDiscovery _ => true
  | .pwrEnRise now => timeWf now && (true)
  | .pwrEnFall now => timeWf now && (true)
  | .powerFail => true
  | .inputAbove42v => true
  | .inputLowBand _ => true
  | .inputHighBand _ => true
  | .inputOvervoltage => true
  | .railOutOfRegulation => true
  | .powerUpToIdle boot => boot.wf
  | .idleToActive => true
  | .idleDelayExpiry now => timeWf now && (true)
  | .powerStateEntry now => timeWf now && (true)
  | .dieGate die => dieWf die
  | .dieUngate die => dieWf die
  | .inletWarning _ => true
  | .thermalLimit _ => true
  | .thermalHardBreach _ => true
  | .thermalResume _ => true
  | .thermalTrip _ => true
  | .oscillatorLost => true
  | .governorSample _ now => timeWf now && (true)
  | .paceWindow now => timeWf now && (true)
  | .beat _ _ now => timeWf now && (true)
  | .beatWatchdog late now => timeWf now && (late.all unitWf)
  | .paveFault n _ => paveWf n
  | .engineFault n _ => engineWf n
  | .residueFence n now => timeWf now && (engineWf n)
  | .bankOwnerFence die bank now => timeWf now && (dieWf die && bankWf bank)
  | .bankClear die bank => dieWf die && bankWf bank
  | .operatingHourTick now => timeWf now && (true)
  | .marginPlanDone readings now => timeWf now && (readings.all HallmarkReading.wf)
  | .coinCellMeasure _ now => timeWf now && (true)
  | .locatePress _ => true
  | .servicePress _ now => timeWf now && (true)
  | .serviceLong now => timeWf now && (true)
  | .cellService now => timeWf now && (true)
  | .serviceRequestLapse now => timeWf now && (true)
  | .cellInserted _ now => timeWf now && (true)
  | .cellServiceTimeout now => timeWf now && (true)
  | .padTouch socket _ => socketWf socket
  | .reachInsert socket _ => socketWf socket
  | .reachRemove socket => socketWf socket
  | .fibreChange sensor _ now => timeWf now && (fibreWf sensor)
  | .lidOpen => true
  | .lidClose => true
  | .lidOpenUnpowered => true
  | .locketParityError hub => hubWf hub
  | .setEndpointId _ _ => true
  | .getEndpointId _ => true
  | .getEndpointUuid _ => true
  | .getMctpVersionSupport _ => true
  | .getMessageTypeSupport _ => true
  | .getTid _ => true
  | .getPldmVersion _ _ => true
  | .getPldmTypes _ => true
  | .getPldmCommands _ _ => true
  | .getPdr _ _ => true
  | .getPdrRepositoryInfo _ => true
  | .getSensorReading _ _ => true
  | .getStateSensorReadings _ _ => true
  | .setNumericEffecterValue _ _ _ => true
  | .getNumericEffecterValue _ _ => true
  | .setStateEffecterStates _ _ _ => true
  | .setEventReceiver _ _ => true
  | .queryDeviceIdentifiers _ => true
  | .getFirmwareParameters _ => true
  | .requestUpdate _ => true
  | .passComponentTable _ _ => true
  | .updateComponent _ _ _ => true
  | .requestFirmwareData _ _ _ => true
  | .verifyComplete _ => true
  | .activateFirmware _ => true
  | .getStatus _ => true
  | .cancelUpdateComponent _ => true
  | .cancelUpdate _ => true
  | .mgmtUnsupportedCommand _ _ _ => true
  | .getVersion _ _ now => timeWf now && (true)
  | .getCapabilities _ _ now => timeWf now && (true)
  | .negotiateAlgorithms _ _ _ now => timeWf now && (true)
  | .getDigests _ _ now => timeWf now && (true)
  | .getCertificate _ _ _ _ _ now => timeWf now && (true)
  | .challenge _ _ nonce _ now => timeWf now && (nonceWf nonce)
  | .getMeasurements _ _ nonce _ now => timeWf now && (nonceWf nonce)
  | .keyExchange _ _ _ now => timeWf now && (true)
  | .finish _ _ _ now => timeWf now && (true)
  | .heartbeat _ _ _ now => timeWf now && (true)
  | .keyUpdate _ _ _ now => timeWf now && (true)
  | .endSession _ _ _ now => timeWf now && (true)
  | .spdmFence _ now => timeWf now && (true)
  | .spdmFenceExpiry _ now => timeWf now && (true)
  | .bringUpStart p now => timeWf now && (portWf p)
  | .laneJudgeDone p _ now => timeWf now && (portWf p)
  | .widthFlit p bytes now => timeWf now && (portWf p && flitWf bytes)
  | .identFlit p bytes now => timeWf now && (portWf p && flitWf bytes)
  | .creditInitFlit p bytes now => timeWf now && (portWf p && flitWf bytes)
  | .retrainFlit p bytes now => timeWf now && (portWf p && flitWf bytes)
  | .idleFlit p bytes now => timeWf now && (portWf p && flitWf bytes)
  | .dataFlit p bytes now => timeWf now && (portWf p && flitWf bytes)
  | .flitCrcFailure p now => timeWf now && (portWf p)
  | .nakRepeat p now => timeWf now && (portWf p)
  | .nakLimit p now => timeWf now && (portWf p)
  | .ackStall p now => timeWf now && (portWf p)
  | .retrainDone p _ now => timeWf now && (portWf p)
  | .laneFail p lane now => timeWf now && (portWf p && laneWf lane)
  | .identTimeout p now => timeWf now && (portWf p)
  | .bringUpRetry p now => timeWf now && (portWf p)
  | .linkSilence p now => timeWf now && (portWf p)
  | .laserFeedReading p _ now => timeWf now && (portWf p)
  | .portFence p now => timeWf now && (portWf p)
  | .vcRepartition p now => timeWf now && (portWf p)
  | .messageDelivered p now => timeWf now && (portWf p)
  | .linkNoticeRestarted p now => timeWf now && (portWf p)
  | .pathBroken p now => timeWf now && (portWf p)
  | .chainMessage p now => timeWf now && (portWf p)
  | .gatherPiece p now => timeWf now && (portWf p)
  | .voteRecord p now => timeWf now && (portWf p)
  | .pipelineMessage p now => timeWf now && (portWf p)
  | .permutePiece p now => timeWf now && (portWf p)
  | .abortNotice p now => timeWf now && (portWf p)
  | .collDeadline group seq now => timeWf now && (groupWf group && decide (seq < 2 ^ 32))
  | .peerSetRequest p now => timeWf now && (portWf p)
  | .turnPiece p now => timeWf now && (portWf p)
  | .interfaceParityRetry ctrl => controllerWf ctrl
  | .interfaceRetrain ctrl now => timeWf now && (controllerWf ctrl)
  | .correctedWriteBack addr lane => addressWf addr && decide (lane < 256)
  | .bucketLeak ctrl _ now => timeWf now && (controllerWf ctrl)
  | .bucketOverflow ctrl now => timeWf now && (controllerWf ctrl)
  | .basinCrcMismatch addr => addressWf addr
  | .sluiceEvict line => addressWf line
  | .basinSegmentChange hub seg => hubWf hub && segmentWf seg
  | .weirWindow now => timeWf now && (true)
  | .repairOpen addr now => timeWf now && (addressWf addr)
  | .repairSourceData line peer _ now hv => timeWf now && (addressWf line && statusWf peer.status && hv.wf)
  | .repairDeadline line now => timeWf now && (addressWf line)
  | .budgetRefill now => timeWf now && (true)
  | .serveStepComplete svc now hv => timeWf now && (serviceWf svc && hv.wf)
  | .stepBuild svc now hv => timeWf now && (serviceWf svc && hv.wf)
  | .trainStepStart t now hv => timeWf now && (serviceWf t && hv.wf)
  | .poundEntry t p now => timeWf now && (serviceWf t && portWf p)
  | .passEnd t p now => timeWf now && (serviceWf t && portWf p)
  | .microRerunDelay t now => timeWf now && (serviceWf t)
  | .stepFiniteResult t now => timeWf now && (serviceWf t)
  | .stepDecision t _ now => timeWf now && (serviceWf t)
  | .attemptRetry t now => timeWf now && (serviceWf t)
  | .finalBlockUpdate ctx now => timeWf now && (contextWf ctx)
  | .shadowHeaderWrite ctx now => timeWf now && (contextWf ctx)
  | .checkpointExportDone ctx now hv => timeWf now && (contextWf ctx && hv.wf)
  | .loadActivation c peer now hv => timeWf now && (c.wf && statusWf peer.status && hv.wf)
  | .setReleaseCommit set now => timeWf now && (setWf set)
  | .adapterReleaseCommit slot now => timeWf now && (adapterSlotWf slot)
  | .commitInstant now hv => timeWf now && (hv.wf)
  | .settleEnd svc now => timeWf now && (serviceWf svc)
  | .drainDeadline svc now => timeWf now && (serviceWf svc)
  | .transferEnd svc now => timeWf now && (serviceWf svc)
  | .turnFinalCommit svc now hv => timeWf now && (serviceWf svc && hv.wf)
  | .xferTimeout svc now => timeWf now && (serviceWf svc)
  | .scoreStep berth now hv => timeWf now && (berthWf berth && hv.wf)
  | .lifecycleResetDelay now => timeWf now && (true)
  | .debugExpiry now => timeWf now && (true)
  | .authLockout now => timeWf now && (true)
  | .lockoutExpiry now => timeWf now && (true)
  | .logbookBufferFlush now => timeWf now && (true)
  | .interfaceRetrainDone ctrl _ now => timeWf now && (controllerWf ctrl)
  | .eventMessageCollected now => timeWf now && (true)

end Sys2Proof
end

