-- ==== Sys2Proof/Laws/PerInstr.lean ====
section
/-! SUPPORT. A family of lemmas over the constructors of Instr: what a well-formed timed event brings fits LOCAL_TIME. -/

namespace Sys2Proof.Laws.TimesFit

open Sys2Proof

/-- The local time of a well-formed command, where it has one, fits 64 bits (R35). -/
def Statement (i : Instr) : Prop := i.wf = true → ∀ t, i.time = some t → t < 2 ^ 64

theorem of_none {i : Instr} (h : i.time = none) : Statement i := fun _ t e => by rw [h] at e; cases e

theorem of_time {i : Instr} {now : Nat} {x : Bool} (h : i.time = some now) (w : i.wf = (timeWf now && x)) : Statement i := fun hw t e => by
  rw [h] at e
  cases e
  rw [w, Bool.and_eq_true] at hw
  exact of_decide_eq_true hw.1

theorem nop (c : CmdRef) (hv : HostView) : Statement (.nop c hv) := of_none rfl
theorem queueCreate (c : CmdRef) (hv : HostView) : Statement (.queueCreate c hv) := of_none rfl
theorem queueDelete (c : CmdRef) (hv : HostView) : Statement (.queueDelete c hv) := of_none rfl
theorem abort (c : CmdRef) (hv : HostView) : Statement (.abort c hv) := of_none rfl
theorem getLog (c : CmdRef) (hv : HostView) : Statement (.getLog c hv) := of_none rfl
theorem serviceHold (c : CmdRef) (hv : HostView) : Statement (.serviceHold c hv) := of_none rfl
theorem serviceResume (c : CmdRef) (hv : HostView) : Statement (.serviceResume c hv) := of_none rfl
theorem reachRelease (c : CmdRef) (hv : HostView) : Statement (.reachRelease c hv) := of_none rfl
theorem marginPlan (c : CmdRef) (hv : HostView) : Statement (.marginPlan c hv) := of_none rfl
theorem powerState (c : CmdRef) (hv : HostView) : Statement (.powerState c hv) := of_none rfl
theorem resetUnit (c : CmdRef) (hv : HostView) : Statement (.resetUnit c hv) := of_none rfl
theorem quiesce (c : CmdRef) (hv : HostView) : Statement (.quiesce c hv) := of_none rfl
theorem stage (c : CmdRef) (hv : HostView) : Statement (.stage c hv) := of_none rfl
theorem check (c : CmdRef) (hv : HostView) : Statement (.check c hv) := of_none rfl
theorem commit (c : CmdRef) (hv : HostView) : Statement (.commit c hv) := of_none rfl
theorem abandon (c : CmdRef) (hv : HostView) : Statement (.abandon c hv) := of_none rfl
theorem matmul (c : CmdRef) (hv : HostView) : Statement (.matmul c hv) := of_none rfl
theorem matmulGrouped (c : CmdRef) (hv : HostView) : Statement (.matmulGrouped c hv) := of_none rfl
theorem attend (c : CmdRef) (hv : HostView) : Statement (.attend c hv) := of_none rfl
theorem vop (c : CmdRef) (hv : HostView) : Statement (.vop c hv) := of_none rfl
theorem sample (c : CmdRef) (hv : HostView) : Statement (.sample c hv) := of_none rfl
theorem update (c : CmdRef) (hv : HostView) : Statement (.update c hv) := of_none rfl
theorem move (c : CmdRef) (hv : HostView) : Statement (.move c hv) := of_none rfl
theorem initFill (c : CmdRef) (hv : HostView) : Statement (.initFill c hv) := of_none rfl
theorem narrowGather (c : CmdRef) (hv : HostView) : Statement (.narrowGather c hv) := of_none rfl
theorem narrowScatter (c : CmdRef) (hv : HostView) : Statement (.narrowScatter c hv) := of_none rfl
theorem atomic (c : CmdRef) (hv : HostView) : Statement (.atomic c hv) := of_none rfl
theorem gather (c : CmdRef) (hv : HostView) : Statement (.gather c hv) := of_none rfl
theorem reduceScatter (c : CmdRef) (hv : HostView) : Statement (.reduceScatter c hv) := of_none rfl
theorem permute (c : CmdRef) (hv : HostView) : Statement (.permute c hv) := of_none rfl
theorem send (c : CmdRef) (hv : HostView) : Statement (.send c hv) := of_none rfl
theorem recv (c : CmdRef) (hv : HostView) : Statement (.recv c hv) := of_none rfl
theorem vote (c : CmdRef) (hv : HostView) : Statement (.vote c hv) := of_none rfl
theorem serveOpen (c : CmdRef) (hv : HostView) : Statement (.serveOpen c hv) := of_none rfl
theorem serveClose (c : CmdRef) (hv : HostView) : Statement (.serveClose c hv) := of_none rfl
theorem admitSequence (c : CmdRef) (hv : HostView) : Statement (.admitSequence c hv) := of_none rfl
theorem rollout (c : CmdRef) (hv : HostView) : Statement (.rollout c hv) := of_none rfl
theorem seqCancel (c : CmdRef) (hv : HostView) : Statement (.seqCancel c hv) := of_none rfl
theorem weightsLoad (c : CmdRef) (hv : HostView) : Statement (.weightsLoad c hv) := of_none rfl
theorem weightsDrop (c : CmdRef) (hv : HostView) : Statement (.weightsDrop c hv) := of_none rfl
theorem adapterLoad (c : CmdRef) (hv : HostView) : Statement (.adapterLoad c hv) := of_none rfl
theorem adapterDrop (c : CmdRef) (hv : HostView) : Statement (.adapterDrop c hv) := of_none rfl
theorem score (c : CmdRef) (hv : HostView) : Statement (.score c hv) := of_none rfl
theorem trainStep (c : CmdRef) (hv : HostView) : Statement (.trainStep c hv) := of_none rfl
theorem trainClose (c : CmdRef) (hv : HostView) : Statement (.trainClose c hv) := of_none rfl
theorem checkpoint (c : CmdRef) (hv : HostView) : Statement (.checkpoint c hv) := of_none rfl
theorem checkpointImport (c : CmdRef) (hv : HostView) : Statement (.checkpointImport c hv) := of_none rfl
theorem turn (c : CmdRef) (hv : HostView) : Statement (.turn c hv) := of_none rfl
theorem preempt (c : CmdRef) (hv : HostView) : Statement (.preempt c hv) := of_none rfl
theorem lifecycleSet (c : CmdRef) (hv : HostView) : Statement (.lifecycleSet c hv) := of_none rfl
theorem debugToken (c : CmdRef) (hv : HostView) : Statement (.debugToken c hv) := of_none rfl
theorem locketWipe (c : CmdRef) (hv : HostView) : Statement (.locketWipe c hv) := of_none rfl
theorem replay (c : CmdRef) (hv : HostView) : Statement (.replay c hv) := of_none rfl
theorem logbookCtrl (c : CmdRef) (hv : HostView) : Statement (.logbookCtrl c hv) := of_none rfl
theorem selfTest (c : CmdRef) (pass : Bool) (hv : HostView) : Statement (.selfTest c pass hv) := of_none rfl
theorem packetFetch (q : Nat) (now : Nat) (hv : HostView) : Statement (.packetFetch q now hv) := of_time rfl rfl
theorem fencedCommandStart (c : CmdRef) (now : Nat) : Statement (.fencedCommandStart c now) := of_time rfl rfl
theorem commandCompletion (c : CmdRef) (now : Nat) (hv : HostView) : Statement (.commandCompletion c now hv) := of_time rfl rfl
theorem commandTimeout (c : CmdRef) (now : Nat) : Statement (.commandTimeout c now) := of_time rfl rfl
theorem queueFence (q : Nat) (now : Nat) : Statement (.queueFence q now) := of_time rfl rfl
theorem sqTailWrite (fn : Nat) (q : Nat) (v : Word) (now : Nat) : Statement (.sqTailWrite fn q v now) := of_time rfl rfl
theorem cqHeadWrite (fn : Nat) (q : Nat) (v : Word) (now : Nat) : Statement (.cqHeadWrite fn q v now) := of_time rfl rfl
theorem queueReset (fn : Nat) (q : Nat) : Statement (.queueReset fn q) := of_none rfl
theorem hello (fn : Nat) (v : Word) : Statement (.hello fn v) := of_none rfl
theorem stagingWindowWrite (addr : Nat) (v : Word) : Statement (.stagingWindowWrite addr v) := of_none rfl
theorem chamberStatusRead (fn : Nat) : Statement (.chamberStatusRead fn) := of_none rfl
theorem w1cClear (fn : Nat) (addr : Nat) (v : Word) : Statement (.w1cClear fn addr v) := of_none rfl
theorem wideLowWordRead (fn : Nat) (addr : Nat) : Statement (.wideLowWordRead fn addr) := of_none rfl
theorem wideHighWordWrite (fn : Nat) (addr : Nat) (v : Word) : Statement (.wideHighWordWrite fn addr v) := of_none rfl
theorem unalignedBar0Access (fn : Nat) (addr : Nat) (size : Nat) (write : Bool) : Statement (.unalignedBar0Access fn addr size write) := of_none rfl
theorem registerWrite (fn : Nat) (addr : Nat) (v : Word) : Statement (.registerWrite fn addr v) := of_none rfl
theorem assayClear (slot : Nat) (v : Word) : Statement (.assayClear slot v) := of_none rfl
theorem histAdvance (slot : Nat) (v : Word) : Statement (.histAdvance slot v) := of_none rfl
theorem histReset (slot : Nat) (v : Word) : Statement (.histReset slot v) := of_none rfl
theorem locateCtrlWrite (v : Word) : Statement (.locateCtrlWrite v) := of_none rfl
theorem collRelease (v : Word) : Statement (.collRelease v) := of_none rfl
theorem portRetrain (p : Nat) (v : Word) : Statement (.portRetrain p v) := of_none rfl
theorem portUnfence (p : Nat) (v : Word) : Statement (.portUnfence p v) := of_none rfl
theorem portHold (p : Nat) (v : Word) : Statement (.portHold p v) := of_none rfl
theorem portRelease (p : Nat) (v : Word) : Statement (.portRelease p v) := of_none rfl
theorem resetCtrlCold (v : Word) : Statement (.resetCtrlCold v) := of_none rfl
theorem resetCtrlWarm (v : Word) : Statement (.resetCtrlWarm v) := of_none rfl
theorem adapterViewRead : Statement (.adapterViewRead) := of_none rfl
theorem manifestViewRead : Statement (.manifestViewRead) := of_none rfl
theorem accViewRead (off : Nat) : Statement (.accViewRead off) := of_none rfl
theorem bar2Read (fn : Nat) (off : Nat) (len : Nat) : Statement (.bar2Read fn off len) := of_none rfl
theorem bar2Write (fn : Nat) (off : Nat) (bytes : List Byte) : Statement (.bar2Write fn off bytes) := of_none rfl
theorem bar2Atomicop (fn : Nat) (off : Nat) (op : AtomicOp) (operands : List Byte) : Statement (.bar2Atomicop fn off op operands) := of_none rfl
theorem perstNAssert : Statement (.perstNAssert) := of_none rfl
theorem perstNRelease : Statement (.perstNRelease) := of_none rfl
theorem pcieHotReset : Statement (.pcieHotReset) := of_none rfl
theorem flrPf0 : Statement (.flrPf0) := of_none rfl
theorem flrVf (fn : Nat) : Statement (.flrVf fn) := of_none rfl
theorem coldReset (boot : BootInputs) : Statement (.coldReset boot) := of_none rfl
theorem warmReset (boot : BootInputs) : Statement (.warmReset boot) := of_none rfl
theorem perFunctionReset (fn : Nat) : Statement (.perFunctionReset fn) := of_none rfl
theorem keeperComplexReset : Statement (.keeperComplexReset) := of_none rfl
theorem keeperFirmwareFault : Statement (.keeperFirmwareFault) := of_none rfl
theorem keeperBankParity (keeper : Nat) : Statement (.keeperBankParity keeper) := of_none rfl
theorem ideKm (session : Nat) (msg : IdeKm) : Statement (.ideKm session msg) := of_none rfl
theorem doeDiscovery (index : Nat) : Statement (.doeDiscovery index) := of_none rfl
theorem pwrEnRise (now : Nat) : Statement (.pwrEnRise now) := of_time rfl rfl
theorem pwrEnFall (now : Nat) : Statement (.pwrEnFall now) := of_time rfl rfl
theorem powerFail : Statement (.powerFail) := of_none rfl
theorem inputAbove42v : Statement (.inputAbove42v) := of_none rfl
theorem inputLowBand (dv : Nat) : Statement (.inputLowBand dv) := of_none rfl
theorem inputHighBand (dv : Nat) : Statement (.inputHighBand dv) := of_none rfl
theorem inputOvervoltage : Statement (.inputOvervoltage) := of_none rfl
theorem railOutOfRegulation : Statement (.railOutOfRegulation) := of_none rfl
theorem powerUpToIdle (boot : BootInputs) : Statement (.powerUpToIdle boot) := of_none rfl
theorem idleToActive : Statement (.idleToActive) := of_none rfl
theorem idleDelayExpiry (now : Nat) : Statement (.idleDelayExpiry now) := of_time rfl rfl
theorem powerStateEntry (now : Nat) : Statement (.powerStateEntry now) := of_time rfl rfl
theorem dieGate (die : Nat) : Statement (.dieGate die) := of_none rfl
theorem dieUngate (die : Nat) : Statement (.dieUngate die) := of_none rfl
theorem inletWarning (dc : Nat) : Statement (.inletWarning dc) := of_none rfl
theorem thermalLimit (dc : Nat) : Statement (.thermalLimit dc) := of_none rfl
theorem thermalHardBreach (dc : Nat) : Statement (.thermalHardBreach dc) := of_none rfl
theorem thermalResume (dc : Nat) : Statement (.thermalResume dc) := of_none rfl
theorem thermalTrip (lost : Bool) : Statement (.thermalTrip lost) := of_none rfl
theorem oscillatorLost : Statement (.oscillatorLost) := of_none rfl
theorem governorSample (r : SensorReading) (now : Nat) : Statement (.governorSample r now) := of_time rfl rfl
theorem paceWindow (now : Nat) : Statement (.paceWindow now) := of_time rfl rfl
theorem beat (n : Nat) (upsets : List Nat) (now : Nat) : Statement (.beat n upsets now) := of_time rfl rfl
theorem beatWatchdog (late : List Nat) (now : Nat) : Statement (.beatWatchdog late now) := of_time rfl rfl
theorem paveFault (n : Nat) (fault : Nat) : Statement (.paveFault n fault) := of_none rfl
theorem engineFault (n : Nat) (fault : Nat) : Statement (.engineFault n fault) := of_none rfl
theorem residueFence (n : Nat) (now : Nat) : Statement (.residueFence n now) := of_time rfl rfl
theorem bankOwnerFence (die : Nat) (bank : Nat) (now : Nat) : Statement (.bankOwnerFence die bank now) := of_time rfl rfl
theorem bankClear (die : Nat) (bank : Nat) : Statement (.bankClear die bank) := of_none rfl
theorem operatingHourTick (now : Nat) : Statement (.operatingHourTick now) := of_time rfl rfl
theorem marginPlanDone (readings : List HallmarkReading) (now : Nat) : Statement (.marginPlanDone readings now) := of_time rfl rfl
theorem coinCellMeasure (mv : Nat) (now : Nat) : Statement (.coinCellMeasure mv now) := of_time rfl rfl
theorem locatePress (ms : Nat) : Statement (.locatePress ms) := of_none rfl
theorem servicePress (ms : Nat) (now : Nat) : Statement (.servicePress ms now) := of_time rfl rfl
theorem serviceLong (now : Nat) : Statement (.serviceLong now) := of_time rfl rfl
theorem cellService (now : Nat) : Statement (.cellService now) := of_time rfl rfl
theorem serviceRequestLapse (now : Nat) : Statement (.serviceRequestLapse now) := of_time rfl rfl
theorem cellInserted (mv : Nat) (now : Nat) : Statement (.cellInserted mv now) := of_time rfl rfl
theorem cellServiceTimeout (now : Nat) : Statement (.cellServiceTimeout now) := of_time rfl rfl
theorem padTouch (socket : Nat) (ms : Nat) : Statement (.padTouch socket ms) := of_none rfl
theorem reachInsert (socket : Nat) (spd : Option ReachModule) : Statement (.reachInsert socket spd) := of_none rfl
theorem reachRemove (socket : Nat) : Statement (.reachRemove socket) := of_none rfl
theorem fibreChange (sensor : Nat) (present : Bool) (now : Nat) : Statement (.fibreChange sensor present now) := of_time rfl rfl
theorem lidOpen : Statement (.lidOpen) := of_none rfl
theorem lidClose : Statement (.lidClose) := of_none rfl
theorem lidOpenUnpowered : Statement (.lidOpenUnpowered) := of_none rfl
theorem locketParityError (hub : Nat) : Statement (.locketParityError hub) := of_none rfl
theorem setEndpointId (t : Transport) (eid : Nat) : Statement (.setEndpointId t eid) := of_none rfl
theorem getEndpointId (t : Transport) : Statement (.getEndpointId t) := of_none rfl
theorem getEndpointUuid (t : Transport) : Statement (.getEndpointUuid t) := of_none rfl
theorem getMctpVersionSupport (t : Transport) : Statement (.getMctpVersionSupport t) := of_none rfl
theorem getMessageTypeSupport (t : Transport) : Statement (.getMessageTypeSupport t) := of_none rfl
theorem getTid (t : Transport) : Statement (.getTid t) := of_none rfl
theorem getPldmVersion (t : Transport) (type : Nat) : Statement (.getPldmVersion t type) := of_none rfl
theorem getPldmTypes (t : Transport) : Statement (.getPldmTypes t) := of_none rfl
theorem getPldmCommands (t : Transport) (type : Nat) : Statement (.getPldmCommands t type) := of_none rfl
theorem getPdr (t : Transport) (handle : Nat) : Statement (.getPdr t handle) := of_none rfl
theorem getPdrRepositoryInfo (t : Transport) : Statement (.getPdrRepositoryInfo t) := of_none rfl
theorem getSensorReading (t : Transport) (id : Nat) : Statement (.getSensorReading t id) := of_none rfl
theorem getStateSensorReadings (t : Transport) (id : Nat) : Statement (.getStateSensorReadings t id) := of_none rfl
theorem setNumericEffecterValue (t : Transport) (id : Nat) (v : Nat) : Statement (.setNumericEffecterValue t id v) := of_none rfl
theorem getNumericEffecterValue (t : Transport) (id : Nat) : Statement (.getNumericEffecterValue t id) := of_none rfl
theorem setStateEffecterStates (t : Transport) (id : Nat) (v : Nat) : Statement (.setStateEffecterStates t id v) := of_none rfl
theorem setEventReceiver (t : Transport) (receiver : Nat) : Statement (.setEventReceiver t receiver) := of_none rfl
theorem queryDeviceIdentifiers (t : Transport) : Statement (.queryDeviceIdentifiers t) := of_none rfl
theorem getFirmwareParameters (t : Transport) : Statement (.getFirmwareParameters t) := of_none rfl
theorem requestUpdate (t : Transport) : Statement (.requestUpdate t) := of_none rfl
theorem passComponentTable (t : Transport) (component : Nat) : Statement (.passComponentTable t component) := of_none rfl
theorem updateComponent (t : Transport) (component : Nat) (size : Nat) : Statement (.updateComponent t component size) := of_none rfl
theorem requestFirmwareData (t : Transport) (off : Nat) (bytes : List Byte) : Statement (.requestFirmwareData t off bytes) := of_none rfl
theorem verifyComplete (t : Transport) : Statement (.verifyComplete t) := of_none rfl
theorem activateFirmware (t : Transport) : Statement (.activateFirmware t) := of_none rfl
theorem getStatus (t : Transport) : Statement (.getStatus t) := of_none rfl
theorem cancelUpdateComponent (t : Transport) : Statement (.cancelUpdateComponent t) := of_none rfl
theorem cancelUpdate (t : Transport) : Statement (.cancelUpdate t) := of_none rfl
theorem mgmtUnsupportedCommand (t : Transport) (protocol : MgmtProtocol) (cmd : Nat) : Statement (.mgmtUnsupportedCommand t protocol cmd) := of_none rfl
theorem getVersion (t : Transport) (wellFormed : Bool) (now : Nat) : Statement (.getVersion t wellFormed now) := of_time rfl rfl
theorem getCapabilities (t : Transport) (wellFormed : Bool) (now : Nat) : Statement (.getCapabilities t wellFormed now) := of_time rfl rfl
theorem negotiateAlgorithms (t : Transport) (offered : SpdmAlgorithms) (wellFormed : Bool) (now : Nat) : Statement (.negotiateAlgorithms t offered wellFormed now) := of_time rfl rfl
theorem getDigests (t : Transport) (wellFormed : Bool) (now : Nat) : Statement (.getDigests t wellFormed now) := of_time rfl rfl
theorem getCertificate (t : Transport) (slot : Nat) (off : Nat) (len : Nat) (wellFormed : Bool) (now : Nat) : Statement (.getCertificate t slot off len wellFormed now) := of_time rfl rfl
theorem challenge (t : Transport) (slot : Nat) (nonce : List Byte) (wellFormed : Bool) (now : Nat) : Statement (.challenge t slot nonce wellFormed now) := of_time rfl rfl
theorem getMeasurements (t : Transport) (index : Nat) (nonce : List Byte) (wellFormed : Bool) (now : Nat) : Statement (.getMeasurements t index nonce wellFormed now) := of_time rfl rfl
theorem keyExchange (t : Transport) (share : List Byte) (wellFormed : Bool) (now : Nat) : Statement (.keyExchange t share wellFormed now) := of_time rfl rfl
theorem finish (t : Transport) (session : Nat) (wellFormed : Bool) (now : Nat) : Statement (.finish t session wellFormed now) := of_time rfl rfl
theorem heartbeat (t : Transport) (session : Nat) (wellFormed : Bool) (now : Nat) : Statement (.heartbeat t session wellFormed now) := of_time rfl rfl
theorem keyUpdate (t : Transport) (session : Nat) (wellFormed : Bool) (now : Nat) : Statement (.keyUpdate t session wellFormed now) := of_time rfl rfl
theorem endSession (t : Transport) (session : Nat) (wellFormed : Bool) (now : Nat) : Statement (.endSession t session wellFormed now) := of_time rfl rfl
theorem spdmFence (t : Transport) (now : Nat) : Statement (.spdmFence t now) := of_time rfl rfl
theorem spdmFenceExpiry (t : Transport) (now : Nat) : Statement (.spdmFenceExpiry t now) := of_time rfl rfl
theorem bringUpStart (p : Nat) (now : Nat) : Statement (.bringUpStart p now) := of_time rfl rfl
theorem laneJudgeDone (p : Nat) (good : Nat) (now : Nat) : Statement (.laneJudgeDone p good now) := of_time rfl rfl
theorem widthFlit (p : Nat) (bytes : List Byte) (now : Nat) : Statement (.widthFlit p bytes now) := of_time rfl rfl
theorem identFlit (p : Nat) (bytes : List Byte) (now : Nat) : Statement (.identFlit p bytes now) := of_time rfl rfl
theorem creditInitFlit (p : Nat) (bytes : List Byte) (now : Nat) : Statement (.creditInitFlit p bytes now) := of_time rfl rfl
theorem retrainFlit (p : Nat) (bytes : List Byte) (now : Nat) : Statement (.retrainFlit p bytes now) := of_time rfl rfl
theorem idleFlit (p : Nat) (bytes : List Byte) (now : Nat) : Statement (.idleFlit p bytes now) := of_time rfl rfl
theorem dataFlit (p : Nat) (bytes : List Byte) (now : Nat) : Statement (.dataFlit p bytes now) := of_time rfl rfl
theorem flitCrcFailure (p : Nat) (now : Nat) : Statement (.flitCrcFailure p now) := of_time rfl rfl
theorem nakRepeat (p : Nat) (now : Nat) : Statement (.nakRepeat p now) := of_time rfl rfl
theorem nakLimit (p : Nat) (now : Nat) : Statement (.nakLimit p now) := of_time rfl rfl
theorem ackStall (p : Nat) (now : Nat) : Statement (.ackStall p now) := of_time rfl rfl
theorem retrainDone (p : Nat) (good : Nat) (now : Nat) : Statement (.retrainDone p good now) := of_time rfl rfl
theorem laneFail (p : Nat) (lane : Nat) (now : Nat) : Statement (.laneFail p lane now) := of_time rfl rfl
theorem identTimeout (p : Nat) (now : Nat) : Statement (.identTimeout p now) := of_time rfl rfl
theorem bringUpRetry (p : Nat) (now : Nat) : Statement (.bringUpRetry p now) := of_time rfl rfl
theorem linkSilence (p : Nat) (now : Nat) : Statement (.linkSilence p now) := of_time rfl rfl
theorem laserFeedReading (p : Nat) (reading : Int) (now : Nat) : Statement (.laserFeedReading p reading now) := of_time rfl rfl
theorem portFence (p : Nat) (now : Nat) : Statement (.portFence p now) := of_time rfl rfl
theorem vcRepartition (p : Nat) (now : Nat) : Statement (.vcRepartition p now) := of_time rfl rfl
theorem messageDelivered (p : Nat) (now : Nat) : Statement (.messageDelivered p now) := of_time rfl rfl
theorem linkNoticeRestarted (p : Nat) (now : Nat) : Statement (.linkNoticeRestarted p now) := of_time rfl rfl
theorem pathBroken (p : Nat) (now : Nat) : Statement (.pathBroken p now) := of_time rfl rfl
theorem chainMessage (p : Nat) (now : Nat) : Statement (.chainMessage p now) := of_time rfl rfl
theorem gatherPiece (p : Nat) (now : Nat) : Statement (.gatherPiece p now) := of_time rfl rfl
theorem voteRecord (p : Nat) (now : Nat) : Statement (.voteRecord p now) := of_time rfl rfl
theorem pipelineMessage (p : Nat) (now : Nat) : Statement (.pipelineMessage p now) := of_time rfl rfl
theorem permutePiece (p : Nat) (now : Nat) : Statement (.permutePiece p now) := of_time rfl rfl
theorem abortNotice (p : Nat) (now : Nat) : Statement (.abortNotice p now) := of_time rfl rfl
theorem collDeadline (group : Nat) (seq : Nat) (now : Nat) : Statement (.collDeadline group seq now) := of_time rfl rfl
theorem peerSetRequest (p : Nat) (now : Nat) : Statement (.peerSetRequest p now) := of_time rfl rfl
theorem turnPiece (p : Nat) (now : Nat) : Statement (.turnPiece p now) := of_time rfl rfl
theorem interfaceParityRetry (ctrl : Nat) : Statement (.interfaceParityRetry ctrl) := of_none rfl
theorem interfaceRetrain (ctrl : Nat) (now : Nat) : Statement (.interfaceRetrain ctrl now) := of_time rfl rfl
theorem correctedWriteBack (addr : Nat) (lane : Nat) : Statement (.correctedWriteBack addr lane) := of_none rfl
theorem bucketLeak (ctrl : Nat) (ondie : Nat) (now : Nat) : Statement (.bucketLeak ctrl ondie now) := of_time rfl rfl
theorem bucketOverflow (ctrl : Nat) (now : Nat) : Statement (.bucketOverflow ctrl now) := of_time rfl rfl
theorem basinCrcMismatch (addr : Nat) : Statement (.basinCrcMismatch addr) := of_none rfl
theorem sluiceEvict (line : Nat) : Statement (.sluiceEvict line) := of_none rfl
theorem basinSegmentChange (hub : Nat) (seg : Nat) : Statement (.basinSegmentChange hub seg) := of_none rfl
theorem weirWindow (now : Nat) : Statement (.weirWindow now) := of_time rfl rfl
theorem repairOpen (addr : Nat) (now : Nat) : Statement (.repairOpen addr now) := of_time rfl rfl
theorem repairSourceData (line : Nat) (peer : PeerData) (outcome : Nat) (now : Nat) (hv : HostView) : Statement (.repairSourceData line peer outcome now hv) := of_time rfl rfl
theorem repairDeadline (line : Nat) (now : Nat) : Statement (.repairDeadline line now) := of_time rfl rfl
theorem budgetRefill (now : Nat) : Statement (.budgetRefill now) := of_time rfl rfl
theorem serveStepComplete (svc : Nat) (now : Nat) (hv : HostView) : Statement (.serveStepComplete svc now hv) := of_time rfl rfl
theorem stepBuild (svc : Nat) (now : Nat) (hv : HostView) : Statement (.stepBuild svc now hv) := of_time rfl rfl
theorem trainStepStart (t : Nat) (now : Nat) (hv : HostView) : Statement (.trainStepStart t now hv) := of_time rfl rfl
theorem poundEntry (t : Nat) (p : Nat) (now : Nat) : Statement (.poundEntry t p now) := of_time rfl rfl
theorem passEnd (t : Nat) (p : Nat) (now : Nat) : Statement (.passEnd t p now) := of_time rfl rfl
theorem microRerunDelay (t : Nat) (now : Nat) : Statement (.microRerunDelay t now) := of_time rfl rfl
theorem stepFiniteResult (t : Nat) (now : Nat) : Statement (.stepFiniteResult t now) := of_time rfl rfl
theorem stepDecision (t : Nat) (ratios : List (List (List (Nat × Nat)))) (now : Nat) : Statement (.stepDecision t ratios now) := of_time rfl rfl
theorem attemptRetry (t : Nat) (now : Nat) : Statement (.attemptRetry t now) := of_time rfl rfl
theorem finalBlockUpdate (ctx : Nat) (now : Nat) : Statement (.finalBlockUpdate ctx now) := of_time rfl rfl
theorem shadowHeaderWrite (ctx : Nat) (now : Nat) : Statement (.shadowHeaderWrite ctx now) := of_time rfl rfl
theorem checkpointExportDone (ctx : Nat) (now : Nat) (hv : HostView) : Statement (.checkpointExportDone ctx now hv) := of_time rfl rfl
theorem loadActivation (c : CmdRef) (peer : PeerData) (now : Nat) (hv : HostView) : Statement (.loadActivation c peer now hv) := of_time rfl rfl
theorem setReleaseCommit (set : Nat) (now : Nat) : Statement (.setReleaseCommit set now) := of_time rfl rfl
theorem adapterReleaseCommit (slot : Nat) (now : Nat) : Statement (.adapterReleaseCommit slot now) := of_time rfl rfl
theorem commitInstant (now : Nat) (hv : HostView) : Statement (.commitInstant now hv) := of_time rfl rfl
theorem settleEnd (svc : Nat) (now : Nat) : Statement (.settleEnd svc now) := of_time rfl rfl
theorem drainDeadline (svc : Nat) (now : Nat) : Statement (.drainDeadline svc now) := of_time rfl rfl
theorem transferEnd (svc : Nat) (now : Nat) : Statement (.transferEnd svc now) := of_time rfl rfl
theorem turnFinalCommit (svc : Nat) (now : Nat) (hv : HostView) : Statement (.turnFinalCommit svc now hv) := of_time rfl rfl
theorem xferTimeout (svc : Nat) (now : Nat) : Statement (.xferTimeout svc now) := of_time rfl rfl
theorem scoreStep (berth : Nat) (now : Nat) (hv : HostView) : Statement (.scoreStep berth now hv) := of_time rfl rfl
theorem lifecycleResetDelay (now : Nat) : Statement (.lifecycleResetDelay now) := of_time rfl rfl
theorem debugExpiry (now : Nat) : Statement (.debugExpiry now) := of_time rfl rfl
theorem authLockout (now : Nat) : Statement (.authLockout now) := of_time rfl rfl
theorem lockoutExpiry (now : Nat) : Statement (.lockoutExpiry now) := of_time rfl rfl
theorem logbookBufferFlush (now : Nat) : Statement (.logbookBufferFlush now) := of_time rfl rfl
theorem interfaceRetrainDone (ctrl : Nat) (ok : Bool) (now : Nat) : Statement (.interfaceRetrainDone ctrl ok now) := of_time rfl rfl
theorem eventMessageCollected (now : Nat) : Statement (.eventMessageCollected now) := of_time rfl rfl

end Sys2Proof.Laws.TimesFit
end

