-- ==== Sys2Proof/Laws/State.lean ====
section
/-! SUPPORT. The fields of a state after each plain update of it: no later proof unfolds a record update. -/

namespace Sys2Proof.Machine

/-! ## setReg -/

@[simp] theorem State.setReg_spine (s : State) (a : Nat) (v : Word) : (s.setReg a v).spine = s.spine := rfl
@[simp] theorem State.setReg_draws (s : State) (a : Nat) (v : Word) : (s.setReg a v).draws = s.draws := rfl
@[simp] theorem State.setReg_clock (s : State) (a : Nat) (v : Word) : (s.setReg a v).clock = s.clock := rfl
@[simp] theorem State.setReg_power (s : State) (a : Nat) (v : Word) : (s.setReg a v).power = s.power := rfl
@[simp] theorem State.setReg_gov (s : State) (a : Nat) (v : Word) : (s.setReg a v).gov = s.gov := rfl
@[simp] theorem State.setReg_oldRegs (s : State) (a : Nat) (v : Word) : (s.setReg a v).oldRegs = s.oldRegs := rfl
@[simp] theorem State.setReg_heldHigh (s : State) (a : Nat) (v : Word) : (s.setReg a v).heldHigh = s.heldHigh := rfl
@[simp] theorem State.setReg_heldLow (s : State) (a : Nat) (v : Word) : (s.setReg a v).heldLow = s.heldLow := rfl
@[simp] theorem State.setReg_mem (s : State) (a : Nat) (v : Word) : (s.setReg a v).mem = s.mem := rfl
@[simp] theorem State.setReg_segChanges (s : State) (a : Nat) (v : Word) : (s.setReg a v).segChanges = s.segChanges := rfl
@[simp] theorem State.setReg_host (s : State) (a : Nat) (v : Word) : (s.setReg a v).host = s.host := rfl
@[simp] theorem State.setReg_hellos (s : State) (a : Nat) (v : Word) : (s.setReg a v).hellos = s.hellos := rfl
@[simp] theorem State.setReg_queues (s : State) (a : Nat) (v : Word) : (s.setReg a v).queues = s.queues := rfl
@[simp] theorem State.setReg_fetches (s : State) (a : Nat) (v : Word) : (s.setReg a v).fetches = s.fetches := rfl
@[simp] theorem State.setReg_inflight (s : State) (a : Nat) (v : Word) : (s.setReg a v).inflight = s.inflight := rfl
@[simp] theorem State.setReg_reports (s : State) (a : Nat) (v : Word) : (s.setReg a v).reports = s.reports := rfl
@[simp] theorem State.setReg_units (s : State) (a : Nat) (v : Word) : (s.setReg a v).units = s.units := rfl
@[simp] theorem State.setReg_histWaits (s : State) (a : Nat) (v : Word) : (s.setReg a v).histWaits = s.histWaits := rfl
@[simp] theorem State.setReg_sets (s : State) (a : Nat) (v : Word) : (s.setReg a v).sets = s.sets := rfl
@[simp] theorem State.setReg_adapters (s : State) (a : Nat) (v : Word) : (s.setReg a v).adapters = s.adapters := rfl
@[simp] theorem State.setReg_adapterView (s : State) (a : Nat) (v : Word) : (s.setReg a v).adapterView = s.adapterView := rfl
@[simp] theorem State.setReg_repairs (s : State) (a : Nat) (v : Word) : (s.setReg a v).repairs = s.repairs := rfl
@[simp] theorem State.setReg_retraining (s : State) (a : Nat) (v : Word) : (s.setReg a v).retraining = s.retraining := rfl
@[simp] theorem State.setReg_ports (s : State) (a : Nat) (v : Word) : (s.setReg a v).ports = s.ports := rfl
@[simp] theorem State.setReg_msgNext (s : State) (a : Nat) (v : Word) : (s.setReg a v).msgNext = s.msgNext := rfl
@[simp] theorem State.setReg_serving (s : State) (a : Nat) (v : Word) : (s.setReg a v).serving = s.serving := rfl
@[simp] theorem State.setReg_manifest (s : State) (a : Nat) (v : Word) : (s.setReg a v).manifest = s.manifest := rfl
@[simp] theorem State.setReg_manifestView (s : State) (a : Nat) (v : Word) : (s.setReg a v).manifestView = s.manifestView := rfl
@[simp] theorem State.setReg_groups (s : State) (a : Nat) (v : Word) : (s.setReg a v).groups = s.groups := rfl
@[simp] theorem State.setReg_colls (s : State) (a : Nat) (v : Word) : (s.setReg a v).colls = s.colls := rfl
@[simp] theorem State.setReg_trains (s : State) (a : Nat) (v : Word) : (s.setReg a v).trains = s.trains := rfl
@[simp] theorem State.setReg_exports (s : State) (a : Nat) (v : Word) : (s.setReg a v).exports = s.exports := rfl
@[simp] theorem State.setReg_turns (s : State) (a : Nat) (v : Word) : (s.setReg a v).turns = s.turns := rfl
@[simp] theorem State.setReg_scores (s : State) (a : Nat) (v : Word) : (s.setReg a v).scores = s.scores := rfl
@[simp] theorem State.setReg_occupants (s : State) (a : Nat) (v : Word) : (s.setReg a v).occupants = s.occupants := rfl
@[simp] theorem State.setReg_clears (s : State) (a : Nat) (v : Word) : (s.setReg a v).clears = s.clears := rfl
@[simp] theorem State.setReg_logbook (s : State) (a : Nat) (v : Word) : (s.setReg a v).logbook = s.logbook := rfl
@[simp] theorem State.setReg_chamber (s : State) (a : Nat) (v : Word) : (s.setReg a v).chamber = s.chamber := rfl
@[simp] theorem State.setReg_commits (s : State) (a : Nat) (v : Word) : (s.setReg a v).commits = s.commits := rfl
@[simp] theorem State.setReg_commitCount (s : State) (a : Nat) (v : Word) : (s.setReg a v).commitCount = s.commitCount := rfl
@[simp] theorem State.setReg_checkedAt (s : State) (a : Nat) (v : Word) : (s.setReg a v).checkedAt = s.checkedAt := rfl
@[simp] theorem State.setReg_keepsake (s : State) (a : Nat) (v : Word) : (s.setReg a v).keepsake = s.keepsake := rfl
@[simp] theorem State.setReg_pcie (s : State) (a : Nat) (v : Word) : (s.setReg a v).pcie = s.pcie := rfl
@[simp] theorem State.setReg_panel (s : State) (a : Nat) (v : Word) : (s.setReg a v).panel = s.panel := rfl
@[simp] theorem State.setReg_mgmt (s : State) (a : Nat) (v : Word) : (s.setReg a v).mgmt = s.mgmt := rfl
@[simp] theorem State.setReg_sec (s : State) (a : Nat) (v : Word) : (s.setReg a v).sec = s.sec := rfl
@[simp] theorem State.setReg_log (s : State) (a : Nat) (v : Word) : (s.setReg a v).log = s.log := rfl
@[simp] theorem State.setReg_acting (s : State) (a : Nat) (v : Word) : (s.setReg a v).acting = s.acting := rfl
@[simp] theorem State.setReg_outbox (s : State) (a : Nat) (v : Word) : (s.setReg a v).outbox = s.outbox := rfl
@[simp] theorem State.setReg_pending (s : State) (a : Nat) (v : Word) : (s.setReg a v).pending = s.pending := rfl

/-! ## setNat -/

@[simp] theorem State.setNat_spine (s : State) (a v : Nat) : (s.setNat a v).spine = s.spine := rfl
@[simp] theorem State.setNat_draws (s : State) (a v : Nat) : (s.setNat a v).draws = s.draws := rfl
@[simp] theorem State.setNat_clock (s : State) (a v : Nat) : (s.setNat a v).clock = s.clock := rfl
@[simp] theorem State.setNat_power (s : State) (a v : Nat) : (s.setNat a v).power = s.power := rfl
@[simp] theorem State.setNat_gov (s : State) (a v : Nat) : (s.setNat a v).gov = s.gov := rfl
@[simp] theorem State.setNat_oldRegs (s : State) (a v : Nat) : (s.setNat a v).oldRegs = s.oldRegs := rfl
@[simp] theorem State.setNat_heldHigh (s : State) (a v : Nat) : (s.setNat a v).heldHigh = s.heldHigh := rfl
@[simp] theorem State.setNat_heldLow (s : State) (a v : Nat) : (s.setNat a v).heldLow = s.heldLow := rfl
@[simp] theorem State.setNat_mem (s : State) (a v : Nat) : (s.setNat a v).mem = s.mem := rfl
@[simp] theorem State.setNat_segChanges (s : State) (a v : Nat) : (s.setNat a v).segChanges = s.segChanges := rfl
@[simp] theorem State.setNat_host (s : State) (a v : Nat) : (s.setNat a v).host = s.host := rfl
@[simp] theorem State.setNat_hellos (s : State) (a v : Nat) : (s.setNat a v).hellos = s.hellos := rfl
@[simp] theorem State.setNat_queues (s : State) (a v : Nat) : (s.setNat a v).queues = s.queues := rfl
@[simp] theorem State.setNat_fetches (s : State) (a v : Nat) : (s.setNat a v).fetches = s.fetches := rfl
@[simp] theorem State.setNat_inflight (s : State) (a v : Nat) : (s.setNat a v).inflight = s.inflight := rfl
@[simp] theorem State.setNat_reports (s : State) (a v : Nat) : (s.setNat a v).reports = s.reports := rfl
@[simp] theorem State.setNat_units (s : State) (a v : Nat) : (s.setNat a v).units = s.units := rfl
@[simp] theorem State.setNat_histWaits (s : State) (a v : Nat) : (s.setNat a v).histWaits = s.histWaits := rfl
@[simp] theorem State.setNat_sets (s : State) (a v : Nat) : (s.setNat a v).sets = s.sets := rfl
@[simp] theorem State.setNat_adapters (s : State) (a v : Nat) : (s.setNat a v).adapters = s.adapters := rfl
@[simp] theorem State.setNat_adapterView (s : State) (a v : Nat) : (s.setNat a v).adapterView = s.adapterView := rfl
@[simp] theorem State.setNat_repairs (s : State) (a v : Nat) : (s.setNat a v).repairs = s.repairs := rfl
@[simp] theorem State.setNat_retraining (s : State) (a v : Nat) : (s.setNat a v).retraining = s.retraining := rfl
@[simp] theorem State.setNat_ports (s : State) (a v : Nat) : (s.setNat a v).ports = s.ports := rfl
@[simp] theorem State.setNat_msgNext (s : State) (a v : Nat) : (s.setNat a v).msgNext = s.msgNext := rfl
@[simp] theorem State.setNat_serving (s : State) (a v : Nat) : (s.setNat a v).serving = s.serving := rfl
@[simp] theorem State.setNat_manifest (s : State) (a v : Nat) : (s.setNat a v).manifest = s.manifest := rfl
@[simp] theorem State.setNat_manifestView (s : State) (a v : Nat) : (s.setNat a v).manifestView = s.manifestView := rfl
@[simp] theorem State.setNat_groups (s : State) (a v : Nat) : (s.setNat a v).groups = s.groups := rfl
@[simp] theorem State.setNat_colls (s : State) (a v : Nat) : (s.setNat a v).colls = s.colls := rfl
@[simp] theorem State.setNat_trains (s : State) (a v : Nat) : (s.setNat a v).trains = s.trains := rfl
@[simp] theorem State.setNat_exports (s : State) (a v : Nat) : (s.setNat a v).exports = s.exports := rfl
@[simp] theorem State.setNat_turns (s : State) (a v : Nat) : (s.setNat a v).turns = s.turns := rfl
@[simp] theorem State.setNat_scores (s : State) (a v : Nat) : (s.setNat a v).scores = s.scores := rfl
@[simp] theorem State.setNat_occupants (s : State) (a v : Nat) : (s.setNat a v).occupants = s.occupants := rfl
@[simp] theorem State.setNat_clears (s : State) (a v : Nat) : (s.setNat a v).clears = s.clears := rfl
@[simp] theorem State.setNat_logbook (s : State) (a v : Nat) : (s.setNat a v).logbook = s.logbook := rfl
@[simp] theorem State.setNat_chamber (s : State) (a v : Nat) : (s.setNat a v).chamber = s.chamber := rfl
@[simp] theorem State.setNat_commits (s : State) (a v : Nat) : (s.setNat a v).commits = s.commits := rfl
@[simp] theorem State.setNat_commitCount (s : State) (a v : Nat) : (s.setNat a v).commitCount = s.commitCount := rfl
@[simp] theorem State.setNat_checkedAt (s : State) (a v : Nat) : (s.setNat a v).checkedAt = s.checkedAt := rfl
@[simp] theorem State.setNat_keepsake (s : State) (a v : Nat) : (s.setNat a v).keepsake = s.keepsake := rfl
@[simp] theorem State.setNat_pcie (s : State) (a v : Nat) : (s.setNat a v).pcie = s.pcie := rfl
@[simp] theorem State.setNat_panel (s : State) (a v : Nat) : (s.setNat a v).panel = s.panel := rfl
@[simp] theorem State.setNat_mgmt (s : State) (a v : Nat) : (s.setNat a v).mgmt = s.mgmt := rfl
@[simp] theorem State.setNat_sec (s : State) (a v : Nat) : (s.setNat a v).sec = s.sec := rfl
@[simp] theorem State.setNat_log (s : State) (a v : Nat) : (s.setNat a v).log = s.log := rfl
@[simp] theorem State.setNat_acting (s : State) (a v : Nat) : (s.setNat a v).acting = s.acting := rfl
@[simp] theorem State.setNat_outbox (s : State) (a v : Nat) : (s.setNat a v).outbox = s.outbox := rfl
@[simp] theorem State.setNat_pending (s : State) (a v : Nat) : (s.setNat a v).pending = s.pending := rfl

/-! ## set64 -/

@[simp] theorem State.set64_spine (s : State) (a v : Nat) : (s.set64 a v).spine = s.spine := rfl
@[simp] theorem State.set64_draws (s : State) (a v : Nat) : (s.set64 a v).draws = s.draws := rfl
@[simp] theorem State.set64_clock (s : State) (a v : Nat) : (s.set64 a v).clock = s.clock := rfl
@[simp] theorem State.set64_power (s : State) (a v : Nat) : (s.set64 a v).power = s.power := rfl
@[simp] theorem State.set64_gov (s : State) (a v : Nat) : (s.set64 a v).gov = s.gov := rfl
@[simp] theorem State.set64_oldRegs (s : State) (a v : Nat) : (s.set64 a v).oldRegs = s.oldRegs := rfl
@[simp] theorem State.set64_heldHigh (s : State) (a v : Nat) : (s.set64 a v).heldHigh = s.heldHigh := rfl
@[simp] theorem State.set64_heldLow (s : State) (a v : Nat) : (s.set64 a v).heldLow = s.heldLow := rfl
@[simp] theorem State.set64_mem (s : State) (a v : Nat) : (s.set64 a v).mem = s.mem := rfl
@[simp] theorem State.set64_segChanges (s : State) (a v : Nat) : (s.set64 a v).segChanges = s.segChanges := rfl
@[simp] theorem State.set64_host (s : State) (a v : Nat) : (s.set64 a v).host = s.host := rfl
@[simp] theorem State.set64_hellos (s : State) (a v : Nat) : (s.set64 a v).hellos = s.hellos := rfl
@[simp] theorem State.set64_queues (s : State) (a v : Nat) : (s.set64 a v).queues = s.queues := rfl
@[simp] theorem State.set64_fetches (s : State) (a v : Nat) : (s.set64 a v).fetches = s.fetches := rfl
@[simp] theorem State.set64_inflight (s : State) (a v : Nat) : (s.set64 a v).inflight = s.inflight := rfl
@[simp] theorem State.set64_reports (s : State) (a v : Nat) : (s.set64 a v).reports = s.reports := rfl
@[simp] theorem State.set64_units (s : State) (a v : Nat) : (s.set64 a v).units = s.units := rfl
@[simp] theorem State.set64_histWaits (s : State) (a v : Nat) : (s.set64 a v).histWaits = s.histWaits := rfl
@[simp] theorem State.set64_sets (s : State) (a v : Nat) : (s.set64 a v).sets = s.sets := rfl
@[simp] theorem State.set64_adapters (s : State) (a v : Nat) : (s.set64 a v).adapters = s.adapters := rfl
@[simp] theorem State.set64_adapterView (s : State) (a v : Nat) : (s.set64 a v).adapterView = s.adapterView := rfl
@[simp] theorem State.set64_repairs (s : State) (a v : Nat) : (s.set64 a v).repairs = s.repairs := rfl
@[simp] theorem State.set64_retraining (s : State) (a v : Nat) : (s.set64 a v).retraining = s.retraining := rfl
@[simp] theorem State.set64_ports (s : State) (a v : Nat) : (s.set64 a v).ports = s.ports := rfl
@[simp] theorem State.set64_msgNext (s : State) (a v : Nat) : (s.set64 a v).msgNext = s.msgNext := rfl
@[simp] theorem State.set64_serving (s : State) (a v : Nat) : (s.set64 a v).serving = s.serving := rfl
@[simp] theorem State.set64_manifest (s : State) (a v : Nat) : (s.set64 a v).manifest = s.manifest := rfl
@[simp] theorem State.set64_manifestView (s : State) (a v : Nat) : (s.set64 a v).manifestView = s.manifestView := rfl
@[simp] theorem State.set64_groups (s : State) (a v : Nat) : (s.set64 a v).groups = s.groups := rfl
@[simp] theorem State.set64_colls (s : State) (a v : Nat) : (s.set64 a v).colls = s.colls := rfl
@[simp] theorem State.set64_trains (s : State) (a v : Nat) : (s.set64 a v).trains = s.trains := rfl
@[simp] theorem State.set64_exports (s : State) (a v : Nat) : (s.set64 a v).exports = s.exports := rfl
@[simp] theorem State.set64_turns (s : State) (a v : Nat) : (s.set64 a v).turns = s.turns := rfl
@[simp] theorem State.set64_scores (s : State) (a v : Nat) : (s.set64 a v).scores = s.scores := rfl
@[simp] theorem State.set64_occupants (s : State) (a v : Nat) : (s.set64 a v).occupants = s.occupants := rfl
@[simp] theorem State.set64_clears (s : State) (a v : Nat) : (s.set64 a v).clears = s.clears := rfl
@[simp] theorem State.set64_logbook (s : State) (a v : Nat) : (s.set64 a v).logbook = s.logbook := rfl
@[simp] theorem State.set64_chamber (s : State) (a v : Nat) : (s.set64 a v).chamber = s.chamber := rfl
@[simp] theorem State.set64_commits (s : State) (a v : Nat) : (s.set64 a v).commits = s.commits := rfl
@[simp] theorem State.set64_commitCount (s : State) (a v : Nat) : (s.set64 a v).commitCount = s.commitCount := rfl
@[simp] theorem State.set64_checkedAt (s : State) (a v : Nat) : (s.set64 a v).checkedAt = s.checkedAt := rfl
@[simp] theorem State.set64_keepsake (s : State) (a v : Nat) : (s.set64 a v).keepsake = s.keepsake := rfl
@[simp] theorem State.set64_pcie (s : State) (a v : Nat) : (s.set64 a v).pcie = s.pcie := rfl
@[simp] theorem State.set64_panel (s : State) (a v : Nat) : (s.set64 a v).panel = s.panel := rfl
@[simp] theorem State.set64_mgmt (s : State) (a v : Nat) : (s.set64 a v).mgmt = s.mgmt := rfl
@[simp] theorem State.set64_sec (s : State) (a v : Nat) : (s.set64 a v).sec = s.sec := rfl
@[simp] theorem State.set64_log (s : State) (a v : Nat) : (s.set64 a v).log = s.log := rfl
@[simp] theorem State.set64_acting (s : State) (a v : Nat) : (s.set64 a v).acting = s.acting := rfl
@[simp] theorem State.set64_outbox (s : State) (a v : Nat) : (s.set64 a v).outbox = s.outbox := rfl
@[simp] theorem State.set64_pending (s : State) (a v : Nat) : (s.set64 a v).pending = s.pending := rfl

/-! ## emit -/

@[simp] theorem State.emit_spine (s : State) (o : Out) : (s.emit o).spine = s.spine := rfl
@[simp] theorem State.emit_draws (s : State) (o : Out) : (s.emit o).draws = s.draws := rfl
@[simp] theorem State.emit_clock (s : State) (o : Out) : (s.emit o).clock = s.clock := rfl
@[simp] theorem State.emit_power (s : State) (o : Out) : (s.emit o).power = s.power := rfl
@[simp] theorem State.emit_gov (s : State) (o : Out) : (s.emit o).gov = s.gov := rfl
@[simp] theorem State.emit_regs (s : State) (o : Out) : (s.emit o).regs = s.regs := rfl
@[simp] theorem State.emit_oldRegs (s : State) (o : Out) : (s.emit o).oldRegs = s.oldRegs := rfl
@[simp] theorem State.emit_heldHigh (s : State) (o : Out) : (s.emit o).heldHigh = s.heldHigh := rfl
@[simp] theorem State.emit_heldLow (s : State) (o : Out) : (s.emit o).heldLow = s.heldLow := rfl
@[simp] theorem State.emit_mem (s : State) (o : Out) : (s.emit o).mem = s.mem := rfl
@[simp] theorem State.emit_segChanges (s : State) (o : Out) : (s.emit o).segChanges = s.segChanges := rfl
@[simp] theorem State.emit_host (s : State) (o : Out) : (s.emit o).host = s.host := rfl
@[simp] theorem State.emit_hellos (s : State) (o : Out) : (s.emit o).hellos = s.hellos := rfl
@[simp] theorem State.emit_queues (s : State) (o : Out) : (s.emit o).queues = s.queues := rfl
@[simp] theorem State.emit_fetches (s : State) (o : Out) : (s.emit o).fetches = s.fetches := rfl
@[simp] theorem State.emit_inflight (s : State) (o : Out) : (s.emit o).inflight = s.inflight := rfl
@[simp] theorem State.emit_reports (s : State) (o : Out) : (s.emit o).reports = s.reports := rfl
@[simp] theorem State.emit_units (s : State) (o : Out) : (s.emit o).units = s.units := rfl
@[simp] theorem State.emit_histWaits (s : State) (o : Out) : (s.emit o).histWaits = s.histWaits := rfl
@[simp] theorem State.emit_sets (s : State) (o : Out) : (s.emit o).sets = s.sets := rfl
@[simp] theorem State.emit_adapters (s : State) (o : Out) : (s.emit o).adapters = s.adapters := rfl
@[simp] theorem State.emit_adapterView (s : State) (o : Out) : (s.emit o).adapterView = s.adapterView := rfl
@[simp] theorem State.emit_repairs (s : State) (o : Out) : (s.emit o).repairs = s.repairs := rfl
@[simp] theorem State.emit_retraining (s : State) (o : Out) : (s.emit o).retraining = s.retraining := rfl
@[simp] theorem State.emit_ports (s : State) (o : Out) : (s.emit o).ports = s.ports := rfl
@[simp] theorem State.emit_msgNext (s : State) (o : Out) : (s.emit o).msgNext = s.msgNext := rfl
@[simp] theorem State.emit_serving (s : State) (o : Out) : (s.emit o).serving = s.serving := rfl
@[simp] theorem State.emit_manifest (s : State) (o : Out) : (s.emit o).manifest = s.manifest := rfl
@[simp] theorem State.emit_manifestView (s : State) (o : Out) : (s.emit o).manifestView = s.manifestView := rfl
@[simp] theorem State.emit_groups (s : State) (o : Out) : (s.emit o).groups = s.groups := rfl
@[simp] theorem State.emit_colls (s : State) (o : Out) : (s.emit o).colls = s.colls := rfl
@[simp] theorem State.emit_trains (s : State) (o : Out) : (s.emit o).trains = s.trains := rfl
@[simp] theorem State.emit_exports (s : State) (o : Out) : (s.emit o).exports = s.exports := rfl
@[simp] theorem State.emit_turns (s : State) (o : Out) : (s.emit o).turns = s.turns := rfl
@[simp] theorem State.emit_scores (s : State) (o : Out) : (s.emit o).scores = s.scores := rfl
@[simp] theorem State.emit_occupants (s : State) (o : Out) : (s.emit o).occupants = s.occupants := rfl
@[simp] theorem State.emit_clears (s : State) (o : Out) : (s.emit o).clears = s.clears := rfl
@[simp] theorem State.emit_logbook (s : State) (o : Out) : (s.emit o).logbook = s.logbook := rfl
@[simp] theorem State.emit_chamber (s : State) (o : Out) : (s.emit o).chamber = s.chamber := rfl
@[simp] theorem State.emit_commits (s : State) (o : Out) : (s.emit o).commits = s.commits := rfl
@[simp] theorem State.emit_commitCount (s : State) (o : Out) : (s.emit o).commitCount = s.commitCount := rfl
@[simp] theorem State.emit_checkedAt (s : State) (o : Out) : (s.emit o).checkedAt = s.checkedAt := rfl
@[simp] theorem State.emit_keepsake (s : State) (o : Out) : (s.emit o).keepsake = s.keepsake := rfl
@[simp] theorem State.emit_pcie (s : State) (o : Out) : (s.emit o).pcie = s.pcie := rfl
@[simp] theorem State.emit_panel (s : State) (o : Out) : (s.emit o).panel = s.panel := rfl
@[simp] theorem State.emit_mgmt (s : State) (o : Out) : (s.emit o).mgmt = s.mgmt := rfl
@[simp] theorem State.emit_sec (s : State) (o : Out) : (s.emit o).sec = s.sec := rfl
@[simp] theorem State.emit_log (s : State) (o : Out) : (s.emit o).log = s.log := rfl
@[simp] theorem State.emit_acting (s : State) (o : Out) : (s.emit o).acting = s.acting := rfl
@[simp] theorem State.emit_pending (s : State) (o : Out) : (s.emit o).pending = s.pending := rfl

/-! ## actFor -/

@[simp] theorem State.actFor_spine (s : State) (e b : Nat) : (s.actFor e b).spine = s.spine := rfl
@[simp] theorem State.actFor_draws (s : State) (e b : Nat) : (s.actFor e b).draws = s.draws := rfl
@[simp] theorem State.actFor_clock (s : State) (e b : Nat) : (s.actFor e b).clock = s.clock := rfl
@[simp] theorem State.actFor_power (s : State) (e b : Nat) : (s.actFor e b).power = s.power := rfl
@[simp] theorem State.actFor_gov (s : State) (e b : Nat) : (s.actFor e b).gov = s.gov := rfl
@[simp] theorem State.actFor_regs (s : State) (e b : Nat) : (s.actFor e b).regs = s.regs := rfl
@[simp] theorem State.actFor_oldRegs (s : State) (e b : Nat) : (s.actFor e b).oldRegs = s.oldRegs := rfl
@[simp] theorem State.actFor_heldHigh (s : State) (e b : Nat) : (s.actFor e b).heldHigh = s.heldHigh := rfl
@[simp] theorem State.actFor_heldLow (s : State) (e b : Nat) : (s.actFor e b).heldLow = s.heldLow := rfl
@[simp] theorem State.actFor_mem (s : State) (e b : Nat) : (s.actFor e b).mem = s.mem := rfl
@[simp] theorem State.actFor_segChanges (s : State) (e b : Nat) : (s.actFor e b).segChanges = s.segChanges := rfl
@[simp] theorem State.actFor_host (s : State) (e b : Nat) : (s.actFor e b).host = s.host := rfl
@[simp] theorem State.actFor_hellos (s : State) (e b : Nat) : (s.actFor e b).hellos = s.hellos := rfl
@[simp] theorem State.actFor_queues (s : State) (e b : Nat) : (s.actFor e b).queues = s.queues := rfl
@[simp] theorem State.actFor_fetches (s : State) (e b : Nat) : (s.actFor e b).fetches = s.fetches := rfl
@[simp] theorem State.actFor_inflight (s : State) (e b : Nat) : (s.actFor e b).inflight = s.inflight := rfl
@[simp] theorem State.actFor_reports (s : State) (e b : Nat) : (s.actFor e b).reports = s.reports := rfl
@[simp] theorem State.actFor_units (s : State) (e b : Nat) : (s.actFor e b).units = s.units := rfl
@[simp] theorem State.actFor_histWaits (s : State) (e b : Nat) : (s.actFor e b).histWaits = s.histWaits := rfl
@[simp] theorem State.actFor_sets (s : State) (e b : Nat) : (s.actFor e b).sets = s.sets := rfl
@[simp] theorem State.actFor_adapters (s : State) (e b : Nat) : (s.actFor e b).adapters = s.adapters := rfl
@[simp] theorem State.actFor_adapterView (s : State) (e b : Nat) : (s.actFor e b).adapterView = s.adapterView := rfl
@[simp] theorem State.actFor_repairs (s : State) (e b : Nat) : (s.actFor e b).repairs = s.repairs := rfl
@[simp] theorem State.actFor_retraining (s : State) (e b : Nat) : (s.actFor e b).retraining = s.retraining := rfl
@[simp] theorem State.actFor_ports (s : State) (e b : Nat) : (s.actFor e b).ports = s.ports := rfl
@[simp] theorem State.actFor_msgNext (s : State) (e b : Nat) : (s.actFor e b).msgNext = s.msgNext := rfl
@[simp] theorem State.actFor_serving (s : State) (e b : Nat) : (s.actFor e b).serving = s.serving := rfl
@[simp] theorem State.actFor_manifest (s : State) (e b : Nat) : (s.actFor e b).manifest = s.manifest := rfl
@[simp] theorem State.actFor_manifestView (s : State) (e b : Nat) : (s.actFor e b).manifestView = s.manifestView := rfl
@[simp] theorem State.actFor_groups (s : State) (e b : Nat) : (s.actFor e b).groups = s.groups := rfl
@[simp] theorem State.actFor_colls (s : State) (e b : Nat) : (s.actFor e b).colls = s.colls := rfl
@[simp] theorem State.actFor_trains (s : State) (e b : Nat) : (s.actFor e b).trains = s.trains := rfl
@[simp] theorem State.actFor_exports (s : State) (e b : Nat) : (s.actFor e b).exports = s.exports := rfl
@[simp] theorem State.actFor_turns (s : State) (e b : Nat) : (s.actFor e b).turns = s.turns := rfl
@[simp] theorem State.actFor_scores (s : State) (e b : Nat) : (s.actFor e b).scores = s.scores := rfl
@[simp] theorem State.actFor_occupants (s : State) (e b : Nat) : (s.actFor e b).occupants = s.occupants := rfl
@[simp] theorem State.actFor_clears (s : State) (e b : Nat) : (s.actFor e b).clears = s.clears := rfl
@[simp] theorem State.actFor_logbook (s : State) (e b : Nat) : (s.actFor e b).logbook = s.logbook := rfl
@[simp] theorem State.actFor_chamber (s : State) (e b : Nat) : (s.actFor e b).chamber = s.chamber := rfl
@[simp] theorem State.actFor_commits (s : State) (e b : Nat) : (s.actFor e b).commits = s.commits := rfl
@[simp] theorem State.actFor_commitCount (s : State) (e b : Nat) : (s.actFor e b).commitCount = s.commitCount := rfl
@[simp] theorem State.actFor_checkedAt (s : State) (e b : Nat) : (s.actFor e b).checkedAt = s.checkedAt := rfl
@[simp] theorem State.actFor_keepsake (s : State) (e b : Nat) : (s.actFor e b).keepsake = s.keepsake := rfl
@[simp] theorem State.actFor_pcie (s : State) (e b : Nat) : (s.actFor e b).pcie = s.pcie := rfl
@[simp] theorem State.actFor_panel (s : State) (e b : Nat) : (s.actFor e b).panel = s.panel := rfl
@[simp] theorem State.actFor_mgmt (s : State) (e b : Nat) : (s.actFor e b).mgmt = s.mgmt := rfl
@[simp] theorem State.actFor_sec (s : State) (e b : Nat) : (s.actFor e b).sec = s.sec := rfl
@[simp] theorem State.actFor_log (s : State) (e b : Nat) : (s.actFor e b).log = s.log := rfl
@[simp] theorem State.actFor_outbox (s : State) (e b : Nat) : (s.actFor e b).outbox = s.outbox := rfl
@[simp] theorem State.actFor_pending (s : State) (e b : Nat) : (s.actFor e b).pending = s.pending := rfl

/-! ## actAs -/

@[simp] theorem State.actAs_spine (s : State) (c : Cmd) : (s.actAs c).spine = s.spine := rfl
@[simp] theorem State.actAs_draws (s : State) (c : Cmd) : (s.actAs c).draws = s.draws := rfl
@[simp] theorem State.actAs_clock (s : State) (c : Cmd) : (s.actAs c).clock = s.clock := rfl
@[simp] theorem State.actAs_power (s : State) (c : Cmd) : (s.actAs c).power = s.power := rfl
@[simp] theorem State.actAs_gov (s : State) (c : Cmd) : (s.actAs c).gov = s.gov := rfl
@[simp] theorem State.actAs_regs (s : State) (c : Cmd) : (s.actAs c).regs = s.regs := rfl
@[simp] theorem State.actAs_oldRegs (s : State) (c : Cmd) : (s.actAs c).oldRegs = s.oldRegs := rfl
@[simp] theorem State.actAs_heldHigh (s : State) (c : Cmd) : (s.actAs c).heldHigh = s.heldHigh := rfl
@[simp] theorem State.actAs_heldLow (s : State) (c : Cmd) : (s.actAs c).heldLow = s.heldLow := rfl
@[simp] theorem State.actAs_mem (s : State) (c : Cmd) : (s.actAs c).mem = s.mem := rfl
@[simp] theorem State.actAs_segChanges (s : State) (c : Cmd) : (s.actAs c).segChanges = s.segChanges := rfl
@[simp] theorem State.actAs_host (s : State) (c : Cmd) : (s.actAs c).host = s.host := rfl
@[simp] theorem State.actAs_hellos (s : State) (c : Cmd) : (s.actAs c).hellos = s.hellos := rfl
@[simp] theorem State.actAs_queues (s : State) (c : Cmd) : (s.actAs c).queues = s.queues := rfl
@[simp] theorem State.actAs_fetches (s : State) (c : Cmd) : (s.actAs c).fetches = s.fetches := rfl
@[simp] theorem State.actAs_inflight (s : State) (c : Cmd) : (s.actAs c).inflight = s.inflight := rfl
@[simp] theorem State.actAs_reports (s : State) (c : Cmd) : (s.actAs c).reports = s.reports := rfl
@[simp] theorem State.actAs_units (s : State) (c : Cmd) : (s.actAs c).units = s.units := rfl
@[simp] theorem State.actAs_histWaits (s : State) (c : Cmd) : (s.actAs c).histWaits = s.histWaits := rfl
@[simp] theorem State.actAs_sets (s : State) (c : Cmd) : (s.actAs c).sets = s.sets := rfl
@[simp] theorem State.actAs_adapters (s : State) (c : Cmd) : (s.actAs c).adapters = s.adapters := rfl
@[simp] theorem State.actAs_adapterView (s : State) (c : Cmd) : (s.actAs c).adapterView = s.adapterView := rfl
@[simp] theorem State.actAs_repairs (s : State) (c : Cmd) : (s.actAs c).repairs = s.repairs := rfl
@[simp] theorem State.actAs_retraining (s : State) (c : Cmd) : (s.actAs c).retraining = s.retraining := rfl
@[simp] theorem State.actAs_ports (s : State) (c : Cmd) : (s.actAs c).ports = s.ports := rfl
@[simp] theorem State.actAs_msgNext (s : State) (c : Cmd) : (s.actAs c).msgNext = s.msgNext := rfl
@[simp] theorem State.actAs_serving (s : State) (c : Cmd) : (s.actAs c).serving = s.serving := rfl
@[simp] theorem State.actAs_manifest (s : State) (c : Cmd) : (s.actAs c).manifest = s.manifest := rfl
@[simp] theorem State.actAs_manifestView (s : State) (c : Cmd) : (s.actAs c).manifestView = s.manifestView := rfl
@[simp] theorem State.actAs_groups (s : State) (c : Cmd) : (s.actAs c).groups = s.groups := rfl
@[simp] theorem State.actAs_colls (s : State) (c : Cmd) : (s.actAs c).colls = s.colls := rfl
@[simp] theorem State.actAs_trains (s : State) (c : Cmd) : (s.actAs c).trains = s.trains := rfl
@[simp] theorem State.actAs_exports (s : State) (c : Cmd) : (s.actAs c).exports = s.exports := rfl
@[simp] theorem State.actAs_turns (s : State) (c : Cmd) : (s.actAs c).turns = s.turns := rfl
@[simp] theorem State.actAs_scores (s : State) (c : Cmd) : (s.actAs c).scores = s.scores := rfl
@[simp] theorem State.actAs_occupants (s : State) (c : Cmd) : (s.actAs c).occupants = s.occupants := rfl
@[simp] theorem State.actAs_clears (s : State) (c : Cmd) : (s.actAs c).clears = s.clears := rfl
@[simp] theorem State.actAs_logbook (s : State) (c : Cmd) : (s.actAs c).logbook = s.logbook := rfl
@[simp] theorem State.actAs_chamber (s : State) (c : Cmd) : (s.actAs c).chamber = s.chamber := rfl
@[simp] theorem State.actAs_commits (s : State) (c : Cmd) : (s.actAs c).commits = s.commits := rfl
@[simp] theorem State.actAs_commitCount (s : State) (c : Cmd) : (s.actAs c).commitCount = s.commitCount := rfl
@[simp] theorem State.actAs_checkedAt (s : State) (c : Cmd) : (s.actAs c).checkedAt = s.checkedAt := rfl
@[simp] theorem State.actAs_keepsake (s : State) (c : Cmd) : (s.actAs c).keepsake = s.keepsake := rfl
@[simp] theorem State.actAs_pcie (s : State) (c : Cmd) : (s.actAs c).pcie = s.pcie := rfl
@[simp] theorem State.actAs_panel (s : State) (c : Cmd) : (s.actAs c).panel = s.panel := rfl
@[simp] theorem State.actAs_mgmt (s : State) (c : Cmd) : (s.actAs c).mgmt = s.mgmt := rfl
@[simp] theorem State.actAs_sec (s : State) (c : Cmd) : (s.actAs c).sec = s.sec := rfl
@[simp] theorem State.actAs_log (s : State) (c : Cmd) : (s.actAs c).log = s.log := rfl
@[simp] theorem State.actAs_outbox (s : State) (c : Cmd) : (s.actAs c).outbox = s.outbox := rfl
@[simp] theorem State.actAs_pending (s : State) (c : Cmd) : (s.actAs c).pending = s.pending := rfl

/-! ## updCmd -/

@[simp] theorem State.updCmd_spine (s : State) (r : CmdRef) (f : Cmd → Cmd) : (s.updCmd r f).spine = s.spine := rfl
@[simp] theorem State.updCmd_draws (s : State) (r : CmdRef) (f : Cmd → Cmd) : (s.updCmd r f).draws = s.draws := rfl
@[simp] theorem State.updCmd_clock (s : State) (r : CmdRef) (f : Cmd → Cmd) : (s.updCmd r f).clock = s.clock := rfl
@[simp] theorem State.updCmd_power (s : State) (r : CmdRef) (f : Cmd → Cmd) : (s.updCmd r f).power = s.power := rfl
@[simp] theorem State.updCmd_gov (s : State) (r : CmdRef) (f : Cmd → Cmd) : (s.updCmd r f).gov = s.gov := rfl
@[simp] theorem State.updCmd_regs (s : State) (r : CmdRef) (f : Cmd → Cmd) : (s.updCmd r f).regs = s.regs := rfl
@[simp] theorem State.updCmd_oldRegs (s : State) (r : CmdRef) (f : Cmd → Cmd) : (s.updCmd r f).oldRegs = s.oldRegs := rfl
@[simp] theorem State.updCmd_heldHigh (s : State) (r : CmdRef) (f : Cmd → Cmd) : (s.updCmd r f).heldHigh = s.heldHigh := rfl
@[simp] theorem State.updCmd_heldLow (s : State) (r : CmdRef) (f : Cmd → Cmd) : (s.updCmd r f).heldLow = s.heldLow := rfl
@[simp] theorem State.updCmd_mem (s : State) (r : CmdRef) (f : Cmd → Cmd) : (s.updCmd r f).mem = s.mem := rfl
@[simp] theorem State.updCmd_segChanges (s : State) (r : CmdRef) (f : Cmd → Cmd) : (s.updCmd r f).segChanges = s.segChanges := rfl
@[simp] theorem State.updCmd_host (s : State) (r : CmdRef) (f : Cmd → Cmd) : (s.updCmd r f).host = s.host := rfl
@[simp] theorem State.updCmd_hellos (s : State) (r : CmdRef) (f : Cmd → Cmd) : (s.updCmd r f).hellos = s.hellos := rfl
@[simp] theorem State.updCmd_queues (s : State) (r : CmdRef) (f : Cmd → Cmd) : (s.updCmd r f).queues = s.queues := rfl
@[simp] theorem State.updCmd_fetches (s : State) (r : CmdRef) (f : Cmd → Cmd) : (s.updCmd r f).fetches = s.fetches := rfl
@[simp] theorem State.updCmd_reports (s : State) (r : CmdRef) (f : Cmd → Cmd) : (s.updCmd r f).reports = s.reports := rfl
@[simp] theorem State.updCmd_units (s : State) (r : CmdRef) (f : Cmd → Cmd) : (s.updCmd r f).units = s.units := rfl
@[simp] theorem State.updCmd_histWaits (s : State) (r : CmdRef) (f : Cmd → Cmd) : (s.updCmd r f).histWaits = s.histWaits := rfl
@[simp] theorem State.updCmd_sets (s : State) (r : CmdRef) (f : Cmd → Cmd) : (s.updCmd r f).sets = s.sets := rfl
@[simp] theorem State.updCmd_adapters (s : State) (r : CmdRef) (f : Cmd → Cmd) : (s.updCmd r f).adapters = s.adapters := rfl
@[simp] theorem State.updCmd_adapterView (s : State) (r : CmdRef) (f : Cmd → Cmd) : (s.updCmd r f).adapterView = s.adapterView := rfl
@[simp] theorem State.updCmd_repairs (s : State) (r : CmdRef) (f : Cmd → Cmd) : (s.updCmd r f).repairs = s.repairs := rfl
@[simp] theorem State.updCmd_retraining (s : State) (r : CmdRef) (f : Cmd → Cmd) : (s.updCmd r f).retraining = s.retraining := rfl
@[simp] theorem State.updCmd_ports (s : State) (r : CmdRef) (f : Cmd → Cmd) : (s.updCmd r f).ports = s.ports := rfl
@[simp] theorem State.updCmd_msgNext (s : State) (r : CmdRef) (f : Cmd → Cmd) : (s.updCmd r f).msgNext = s.msgNext := rfl
@[simp] theorem State.updCmd_serving (s : State) (r : CmdRef) (f : Cmd → Cmd) : (s.updCmd r f).serving = s.serving := rfl
@[simp] theorem State.updCmd_manifest (s : State) (r : CmdRef) (f : Cmd → Cmd) : (s.updCmd r f).manifest = s.manifest := rfl
@[simp] theorem State.updCmd_manifestView (s : State) (r : CmdRef) (f : Cmd → Cmd) : (s.updCmd r f).manifestView = s.manifestView := rfl
@[simp] theorem State.updCmd_groups (s : State) (r : CmdRef) (f : Cmd → Cmd) : (s.updCmd r f).groups = s.groups := rfl
@[simp] theorem State.updCmd_colls (s : State) (r : CmdRef) (f : Cmd → Cmd) : (s.updCmd r f).colls = s.colls := rfl
@[simp] theorem State.updCmd_trains (s : State) (r : CmdRef) (f : Cmd → Cmd) : (s.updCmd r f).trains = s.trains := rfl
@[simp] theorem State.updCmd_exports (s : State) (r : CmdRef) (f : Cmd → Cmd) : (s.updCmd r f).exports = s.exports := rfl
@[simp] theorem State.updCmd_turns (s : State) (r : CmdRef) (f : Cmd → Cmd) : (s.updCmd r f).turns = s.turns := rfl
@[simp] theorem State.updCmd_scores (s : State) (r : CmdRef) (f : Cmd → Cmd) : (s.updCmd r f).scores = s.scores := rfl
@[simp] theorem State.updCmd_occupants (s : State) (r : CmdRef) (f : Cmd → Cmd) : (s.updCmd r f).occupants = s.occupants := rfl
@[simp] theorem State.updCmd_clears (s : State) (r : CmdRef) (f : Cmd → Cmd) : (s.updCmd r f).clears = s.clears := rfl
@[simp] theorem State.updCmd_logbook (s : State) (r : CmdRef) (f : Cmd → Cmd) : (s.updCmd r f).logbook = s.logbook := rfl
@[simp] theorem State.updCmd_chamber (s : State) (r : CmdRef) (f : Cmd → Cmd) : (s.updCmd r f).chamber = s.chamber := rfl
@[simp] theorem State.updCmd_commits (s : State) (r : CmdRef) (f : Cmd → Cmd) : (s.updCmd r f).commits = s.commits := rfl
@[simp] theorem State.updCmd_commitCount (s : State) (r : CmdRef) (f : Cmd → Cmd) : (s.updCmd r f).commitCount = s.commitCount := rfl
@[simp] theorem State.updCmd_checkedAt (s : State) (r : CmdRef) (f : Cmd → Cmd) : (s.updCmd r f).checkedAt = s.checkedAt := rfl
@[simp] theorem State.updCmd_keepsake (s : State) (r : CmdRef) (f : Cmd → Cmd) : (s.updCmd r f).keepsake = s.keepsake := rfl
@[simp] theorem State.updCmd_pcie (s : State) (r : CmdRef) (f : Cmd → Cmd) : (s.updCmd r f).pcie = s.pcie := rfl
@[simp] theorem State.updCmd_panel (s : State) (r : CmdRef) (f : Cmd → Cmd) : (s.updCmd r f).panel = s.panel := rfl
@[simp] theorem State.updCmd_mgmt (s : State) (r : CmdRef) (f : Cmd → Cmd) : (s.updCmd r f).mgmt = s.mgmt := rfl
@[simp] theorem State.updCmd_sec (s : State) (r : CmdRef) (f : Cmd → Cmd) : (s.updCmd r f).sec = s.sec := rfl
@[simp] theorem State.updCmd_log (s : State) (r : CmdRef) (f : Cmd → Cmd) : (s.updCmd r f).log = s.log := rfl
@[simp] theorem State.updCmd_acting (s : State) (r : CmdRef) (f : Cmd → Cmd) : (s.updCmd r f).acting = s.acting := rfl
@[simp] theorem State.updCmd_outbox (s : State) (r : CmdRef) (f : Cmd → Cmd) : (s.updCmd r f).outbox = s.outbox := rfl
@[simp] theorem State.updCmd_pending (s : State) (r : CmdRef) (f : Cmd → Cmd) : (s.updCmd r f).pending = s.pending := rfl

/-! ## finish -/

@[simp] theorem State.finish_spine (s : State) (r : CmdRef) (a : Answer) : (s.finish r a).spine = s.spine := rfl
@[simp] theorem State.finish_draws (s : State) (r : CmdRef) (a : Answer) : (s.finish r a).draws = s.draws := rfl
@[simp] theorem State.finish_clock (s : State) (r : CmdRef) (a : Answer) : (s.finish r a).clock = s.clock := rfl
@[simp] theorem State.finish_power (s : State) (r : CmdRef) (a : Answer) : (s.finish r a).power = s.power := rfl
@[simp] theorem State.finish_gov (s : State) (r : CmdRef) (a : Answer) : (s.finish r a).gov = s.gov := rfl
@[simp] theorem State.finish_regs (s : State) (r : CmdRef) (a : Answer) : (s.finish r a).regs = s.regs := rfl
@[simp] theorem State.finish_oldRegs (s : State) (r : CmdRef) (a : Answer) : (s.finish r a).oldRegs = s.oldRegs := rfl
@[simp] theorem State.finish_heldHigh (s : State) (r : CmdRef) (a : Answer) : (s.finish r a).heldHigh = s.heldHigh := rfl
@[simp] theorem State.finish_heldLow (s : State) (r : CmdRef) (a : Answer) : (s.finish r a).heldLow = s.heldLow := rfl
@[simp] theorem State.finish_mem (s : State) (r : CmdRef) (a : Answer) : (s.finish r a).mem = s.mem := rfl
@[simp] theorem State.finish_segChanges (s : State) (r : CmdRef) (a : Answer) : (s.finish r a).segChanges = s.segChanges := rfl
@[simp] theorem State.finish_host (s : State) (r : CmdRef) (a : Answer) : (s.finish r a).host = s.host := rfl
@[simp] theorem State.finish_hellos (s : State) (r : CmdRef) (a : Answer) : (s.finish r a).hellos = s.hellos := rfl
@[simp] theorem State.finish_queues (s : State) (r : CmdRef) (a : Answer) : (s.finish r a).queues = s.queues := rfl
@[simp] theorem State.finish_fetches (s : State) (r : CmdRef) (a : Answer) : (s.finish r a).fetches = s.fetches := rfl
@[simp] theorem State.finish_reports (s : State) (r : CmdRef) (a : Answer) : (s.finish r a).reports = s.reports := rfl
@[simp] theorem State.finish_units (s : State) (r : CmdRef) (a : Answer) : (s.finish r a).units = s.units := rfl
@[simp] theorem State.finish_histWaits (s : State) (r : CmdRef) (a : Answer) : (s.finish r a).histWaits = s.histWaits := rfl
@[simp] theorem State.finish_sets (s : State) (r : CmdRef) (a : Answer) : (s.finish r a).sets = s.sets := rfl
@[simp] theorem State.finish_adapters (s : State) (r : CmdRef) (a : Answer) : (s.finish r a).adapters = s.adapters := rfl
@[simp] theorem State.finish_adapterView (s : State) (r : CmdRef) (a : Answer) : (s.finish r a).adapterView = s.adapterView := rfl
@[simp] theorem State.finish_repairs (s : State) (r : CmdRef) (a : Answer) : (s.finish r a).repairs = s.repairs := rfl
@[simp] theorem State.finish_retraining (s : State) (r : CmdRef) (a : Answer) : (s.finish r a).retraining = s.retraining := rfl
@[simp] theorem State.finish_ports (s : State) (r : CmdRef) (a : Answer) : (s.finish r a).ports = s.ports := rfl
@[simp] theorem State.finish_msgNext (s : State) (r : CmdRef) (a : Answer) : (s.finish r a).msgNext = s.msgNext := rfl
@[simp] theorem State.finish_serving (s : State) (r : CmdRef) (a : Answer) : (s.finish r a).serving = s.serving := rfl
@[simp] theorem State.finish_manifest (s : State) (r : CmdRef) (a : Answer) : (s.finish r a).manifest = s.manifest := rfl
@[simp] theorem State.finish_manifestView (s : State) (r : CmdRef) (a : Answer) : (s.finish r a).manifestView = s.manifestView := rfl
@[simp] theorem State.finish_groups (s : State) (r : CmdRef) (a : Answer) : (s.finish r a).groups = s.groups := rfl
@[simp] theorem State.finish_colls (s : State) (r : CmdRef) (a : Answer) : (s.finish r a).colls = s.colls := rfl
@[simp] theorem State.finish_trains (s : State) (r : CmdRef) (a : Answer) : (s.finish r a).trains = s.trains := rfl
@[simp] theorem State.finish_exports (s : State) (r : CmdRef) (a : Answer) : (s.finish r a).exports = s.exports := rfl
@[simp] theorem State.finish_turns (s : State) (r : CmdRef) (a : Answer) : (s.finish r a).turns = s.turns := rfl
@[simp] theorem State.finish_scores (s : State) (r : CmdRef) (a : Answer) : (s.finish r a).scores = s.scores := rfl
@[simp] theorem State.finish_occupants (s : State) (r : CmdRef) (a : Answer) : (s.finish r a).occupants = s.occupants := rfl
@[simp] theorem State.finish_clears (s : State) (r : CmdRef) (a : Answer) : (s.finish r a).clears = s.clears := rfl
@[simp] theorem State.finish_logbook (s : State) (r : CmdRef) (a : Answer) : (s.finish r a).logbook = s.logbook := rfl
@[simp] theorem State.finish_chamber (s : State) (r : CmdRef) (a : Answer) : (s.finish r a).chamber = s.chamber := rfl
@[simp] theorem State.finish_commits (s : State) (r : CmdRef) (a : Answer) : (s.finish r a).commits = s.commits := rfl
@[simp] theorem State.finish_commitCount (s : State) (r : CmdRef) (a : Answer) : (s.finish r a).commitCount = s.commitCount := rfl
@[simp] theorem State.finish_checkedAt (s : State) (r : CmdRef) (a : Answer) : (s.finish r a).checkedAt = s.checkedAt := rfl
@[simp] theorem State.finish_keepsake (s : State) (r : CmdRef) (a : Answer) : (s.finish r a).keepsake = s.keepsake := rfl
@[simp] theorem State.finish_pcie (s : State) (r : CmdRef) (a : Answer) : (s.finish r a).pcie = s.pcie := rfl
@[simp] theorem State.finish_panel (s : State) (r : CmdRef) (a : Answer) : (s.finish r a).panel = s.panel := rfl
@[simp] theorem State.finish_mgmt (s : State) (r : CmdRef) (a : Answer) : (s.finish r a).mgmt = s.mgmt := rfl
@[simp] theorem State.finish_sec (s : State) (r : CmdRef) (a : Answer) : (s.finish r a).sec = s.sec := rfl
@[simp] theorem State.finish_log (s : State) (r : CmdRef) (a : Answer) : (s.finish r a).log = s.log := rfl
@[simp] theorem State.finish_acting (s : State) (r : CmdRef) (a : Answer) : (s.finish r a).acting = s.acting := rfl
@[simp] theorem State.finish_outbox (s : State) (r : CmdRef) (a : Answer) : (s.finish r a).outbox = s.outbox := rfl
@[simp] theorem State.finish_pending (s : State) (r : CmdRef) (a : Answer) : (s.finish r a).pending = s.pending := rfl

/-! ## raiseUnit -/

@[simp] theorem State.raiseUnit_draws (s : State) (u : Nat) : (s.raiseUnit u).draws = s.draws := rfl
@[simp] theorem State.raiseUnit_clock (s : State) (u : Nat) : (s.raiseUnit u).clock = s.clock := rfl
@[simp] theorem State.raiseUnit_power (s : State) (u : Nat) : (s.raiseUnit u).power = s.power := rfl
@[simp] theorem State.raiseUnit_gov (s : State) (u : Nat) : (s.raiseUnit u).gov = s.gov := rfl
@[simp] theorem State.raiseUnit_regs (s : State) (u : Nat) : (s.raiseUnit u).regs = s.regs := rfl
@[simp] theorem State.raiseUnit_oldRegs (s : State) (u : Nat) : (s.raiseUnit u).oldRegs = s.oldRegs := rfl
@[simp] theorem State.raiseUnit_heldHigh (s : State) (u : Nat) : (s.raiseUnit u).heldHigh = s.heldHigh := rfl
@[simp] theorem State.raiseUnit_heldLow (s : State) (u : Nat) : (s.raiseUnit u).heldLow = s.heldLow := rfl
@[simp] theorem State.raiseUnit_mem (s : State) (u : Nat) : (s.raiseUnit u).mem = s.mem := rfl
@[simp] theorem State.raiseUnit_segChanges (s : State) (u : Nat) : (s.raiseUnit u).segChanges = s.segChanges := rfl
@[simp] theorem State.raiseUnit_host (s : State) (u : Nat) : (s.raiseUnit u).host = s.host := rfl
@[simp] theorem State.raiseUnit_hellos (s : State) (u : Nat) : (s.raiseUnit u).hellos = s.hellos := rfl
@[simp] theorem State.raiseUnit_queues (s : State) (u : Nat) : (s.raiseUnit u).queues = s.queues := rfl
@[simp] theorem State.raiseUnit_fetches (s : State) (u : Nat) : (s.raiseUnit u).fetches = s.fetches := rfl
@[simp] theorem State.raiseUnit_inflight (s : State) (u : Nat) : (s.raiseUnit u).inflight = s.inflight := rfl
@[simp] theorem State.raiseUnit_reports (s : State) (u : Nat) : (s.raiseUnit u).reports = s.reports := rfl
@[simp] theorem State.raiseUnit_units (s : State) (u : Nat) : (s.raiseUnit u).units = s.units := rfl
@[simp] theorem State.raiseUnit_histWaits (s : State) (u : Nat) : (s.raiseUnit u).histWaits = s.histWaits := rfl
@[simp] theorem State.raiseUnit_sets (s : State) (u : Nat) : (s.raiseUnit u).sets = s.sets := rfl
@[simp] theorem State.raiseUnit_adapters (s : State) (u : Nat) : (s.raiseUnit u).adapters = s.adapters := rfl
@[simp] theorem State.raiseUnit_adapterView (s : State) (u : Nat) : (s.raiseUnit u).adapterView = s.adapterView := rfl
@[simp] theorem State.raiseUnit_repairs (s : State) (u : Nat) : (s.raiseUnit u).repairs = s.repairs := rfl
@[simp] theorem State.raiseUnit_retraining (s : State) (u : Nat) : (s.raiseUnit u).retraining = s.retraining := rfl
@[simp] theorem State.raiseUnit_ports (s : State) (u : Nat) : (s.raiseUnit u).ports = s.ports := rfl
@[simp] theorem State.raiseUnit_msgNext (s : State) (u : Nat) : (s.raiseUnit u).msgNext = s.msgNext := rfl
@[simp] theorem State.raiseUnit_serving (s : State) (u : Nat) : (s.raiseUnit u).serving = s.serving := rfl
@[simp] theorem State.raiseUnit_manifest (s : State) (u : Nat) : (s.raiseUnit u).manifest = s.manifest := rfl
@[simp] theorem State.raiseUnit_manifestView (s : State) (u : Nat) : (s.raiseUnit u).manifestView = s.manifestView := rfl
@[simp] theorem State.raiseUnit_groups (s : State) (u : Nat) : (s.raiseUnit u).groups = s.groups := rfl
@[simp] theorem State.raiseUnit_colls (s : State) (u : Nat) : (s.raiseUnit u).colls = s.colls := rfl
@[simp] theorem State.raiseUnit_trains (s : State) (u : Nat) : (s.raiseUnit u).trains = s.trains := rfl
@[simp] theorem State.raiseUnit_exports (s : State) (u : Nat) : (s.raiseUnit u).exports = s.exports := rfl
@[simp] theorem State.raiseUnit_turns (s : State) (u : Nat) : (s.raiseUnit u).turns = s.turns := rfl
@[simp] theorem State.raiseUnit_scores (s : State) (u : Nat) : (s.raiseUnit u).scores = s.scores := rfl
@[simp] theorem State.raiseUnit_occupants (s : State) (u : Nat) : (s.raiseUnit u).occupants = s.occupants := rfl
@[simp] theorem State.raiseUnit_clears (s : State) (u : Nat) : (s.raiseUnit u).clears = s.clears := rfl
@[simp] theorem State.raiseUnit_logbook (s : State) (u : Nat) : (s.raiseUnit u).logbook = s.logbook := rfl
@[simp] theorem State.raiseUnit_chamber (s : State) (u : Nat) : (s.raiseUnit u).chamber = s.chamber := rfl
@[simp] theorem State.raiseUnit_commits (s : State) (u : Nat) : (s.raiseUnit u).commits = s.commits := rfl
@[simp] theorem State.raiseUnit_commitCount (s : State) (u : Nat) : (s.raiseUnit u).commitCount = s.commitCount := rfl
@[simp] theorem State.raiseUnit_checkedAt (s : State) (u : Nat) : (s.raiseUnit u).checkedAt = s.checkedAt := rfl
@[simp] theorem State.raiseUnit_keepsake (s : State) (u : Nat) : (s.raiseUnit u).keepsake = s.keepsake := rfl
@[simp] theorem State.raiseUnit_pcie (s : State) (u : Nat) : (s.raiseUnit u).pcie = s.pcie := rfl
@[simp] theorem State.raiseUnit_panel (s : State) (u : Nat) : (s.raiseUnit u).panel = s.panel := rfl
@[simp] theorem State.raiseUnit_mgmt (s : State) (u : Nat) : (s.raiseUnit u).mgmt = s.mgmt := rfl
@[simp] theorem State.raiseUnit_sec (s : State) (u : Nat) : (s.raiseUnit u).sec = s.sec := rfl
@[simp] theorem State.raiseUnit_log (s : State) (u : Nat) : (s.raiseUnit u).log = s.log := rfl
@[simp] theorem State.raiseUnit_acting (s : State) (u : Nat) : (s.raiseUnit u).acting = s.acting := rfl
@[simp] theorem State.raiseUnit_outbox (s : State) (u : Nat) : (s.raiseUnit u).outbox = s.outbox := rfl
@[simp] theorem State.raiseUnit_pending (s : State) (u : Nat) : (s.raiseUnit u).pending = s.pending := rfl

/-! ## raiseFunc -/

@[simp] theorem State.raiseFunc_draws (s : State) (f : Nat) : (s.raiseFunc f).draws = s.draws := rfl
@[simp] theorem State.raiseFunc_clock (s : State) (f : Nat) : (s.raiseFunc f).clock = s.clock := rfl
@[simp] theorem State.raiseFunc_power (s : State) (f : Nat) : (s.raiseFunc f).power = s.power := rfl
@[simp] theorem State.raiseFunc_gov (s : State) (f : Nat) : (s.raiseFunc f).gov = s.gov := rfl
@[simp] theorem State.raiseFunc_regs (s : State) (f : Nat) : (s.raiseFunc f).regs = s.regs := rfl
@[simp] theorem State.raiseFunc_oldRegs (s : State) (f : Nat) : (s.raiseFunc f).oldRegs = s.oldRegs := rfl
@[simp] theorem State.raiseFunc_heldHigh (s : State) (f : Nat) : (s.raiseFunc f).heldHigh = s.heldHigh := rfl
@[simp] theorem State.raiseFunc_heldLow (s : State) (f : Nat) : (s.raiseFunc f).heldLow = s.heldLow := rfl
@[simp] theorem State.raiseFunc_mem (s : State) (f : Nat) : (s.raiseFunc f).mem = s.mem := rfl
@[simp] theorem State.raiseFunc_segChanges (s : State) (f : Nat) : (s.raiseFunc f).segChanges = s.segChanges := rfl
@[simp] theorem State.raiseFunc_host (s : State) (f : Nat) : (s.raiseFunc f).host = s.host := rfl
@[simp] theorem State.raiseFunc_hellos (s : State) (f : Nat) : (s.raiseFunc f).hellos = s.hellos := rfl
@[simp] theorem State.raiseFunc_queues (s : State) (f : Nat) : (s.raiseFunc f).queues = s.queues := rfl
@[simp] theorem State.raiseFunc_fetches (s : State) (f : Nat) : (s.raiseFunc f).fetches = s.fetches := rfl
@[simp] theorem State.raiseFunc_inflight (s : State) (f : Nat) : (s.raiseFunc f).inflight = s.inflight := rfl
@[simp] theorem State.raiseFunc_reports (s : State) (f : Nat) : (s.raiseFunc f).reports = s.reports := rfl
@[simp] theorem State.raiseFunc_units (s : State) (f : Nat) : (s.raiseFunc f).units = s.units := rfl
@[simp] theorem State.raiseFunc_histWaits (s : State) (f : Nat) : (s.raiseFunc f).histWaits = s.histWaits := rfl
@[simp] theorem State.raiseFunc_sets (s : State) (f : Nat) : (s.raiseFunc f).sets = s.sets := rfl
@[simp] theorem State.raiseFunc_adapters (s : State) (f : Nat) : (s.raiseFunc f).adapters = s.adapters := rfl
@[simp] theorem State.raiseFunc_adapterView (s : State) (f : Nat) : (s.raiseFunc f).adapterView = s.adapterView := rfl
@[simp] theorem State.raiseFunc_repairs (s : State) (f : Nat) : (s.raiseFunc f).repairs = s.repairs := rfl
@[simp] theorem State.raiseFunc_retraining (s : State) (f : Nat) : (s.raiseFunc f).retraining = s.retraining := rfl
@[simp] theorem State.raiseFunc_ports (s : State) (f : Nat) : (s.raiseFunc f).ports = s.ports := rfl
@[simp] theorem State.raiseFunc_msgNext (s : State) (f : Nat) : (s.raiseFunc f).msgNext = s.msgNext := rfl
@[simp] theorem State.raiseFunc_serving (s : State) (f : Nat) : (s.raiseFunc f).serving = s.serving := rfl
@[simp] theorem State.raiseFunc_manifest (s : State) (f : Nat) : (s.raiseFunc f).manifest = s.manifest := rfl
@[simp] theorem State.raiseFunc_manifestView (s : State) (f : Nat) : (s.raiseFunc f).manifestView = s.manifestView := rfl
@[simp] theorem State.raiseFunc_groups (s : State) (f : Nat) : (s.raiseFunc f).groups = s.groups := rfl
@[simp] theorem State.raiseFunc_colls (s : State) (f : Nat) : (s.raiseFunc f).colls = s.colls := rfl
@[simp] theorem State.raiseFunc_trains (s : State) (f : Nat) : (s.raiseFunc f).trains = s.trains := rfl
@[simp] theorem State.raiseFunc_exports (s : State) (f : Nat) : (s.raiseFunc f).exports = s.exports := rfl
@[simp] theorem State.raiseFunc_turns (s : State) (f : Nat) : (s.raiseFunc f).turns = s.turns := rfl
@[simp] theorem State.raiseFunc_scores (s : State) (f : Nat) : (s.raiseFunc f).scores = s.scores := rfl
@[simp] theorem State.raiseFunc_occupants (s : State) (f : Nat) : (s.raiseFunc f).occupants = s.occupants := rfl
@[simp] theorem State.raiseFunc_clears (s : State) (f : Nat) : (s.raiseFunc f).clears = s.clears := rfl
@[simp] theorem State.raiseFunc_logbook (s : State) (f : Nat) : (s.raiseFunc f).logbook = s.logbook := rfl
@[simp] theorem State.raiseFunc_chamber (s : State) (f : Nat) : (s.raiseFunc f).chamber = s.chamber := rfl
@[simp] theorem State.raiseFunc_commits (s : State) (f : Nat) : (s.raiseFunc f).commits = s.commits := rfl
@[simp] theorem State.raiseFunc_commitCount (s : State) (f : Nat) : (s.raiseFunc f).commitCount = s.commitCount := rfl
@[simp] theorem State.raiseFunc_checkedAt (s : State) (f : Nat) : (s.raiseFunc f).checkedAt = s.checkedAt := rfl
@[simp] theorem State.raiseFunc_keepsake (s : State) (f : Nat) : (s.raiseFunc f).keepsake = s.keepsake := rfl
@[simp] theorem State.raiseFunc_pcie (s : State) (f : Nat) : (s.raiseFunc f).pcie = s.pcie := rfl
@[simp] theorem State.raiseFunc_panel (s : State) (f : Nat) : (s.raiseFunc f).panel = s.panel := rfl
@[simp] theorem State.raiseFunc_mgmt (s : State) (f : Nat) : (s.raiseFunc f).mgmt = s.mgmt := rfl
@[simp] theorem State.raiseFunc_sec (s : State) (f : Nat) : (s.raiseFunc f).sec = s.sec := rfl
@[simp] theorem State.raiseFunc_log (s : State) (f : Nat) : (s.raiseFunc f).log = s.log := rfl
@[simp] theorem State.raiseFunc_acting (s : State) (f : Nat) : (s.raiseFunc f).acting = s.acting := rfl
@[simp] theorem State.raiseFunc_outbox (s : State) (f : Nat) : (s.raiseFunc f).outbox = s.outbox := rfl
@[simp] theorem State.raiseFunc_pending (s : State) (f : Nat) : (s.raiseFunc f).pending = s.pending := rfl

/-! ## putSet -/

@[simp] theorem State.putSet_spine (s : State) (w : Nat) (k : WeightSet) : (s.putSet w k).spine = s.spine := rfl
@[simp] theorem State.putSet_draws (s : State) (w : Nat) (k : WeightSet) : (s.putSet w k).draws = s.draws := rfl
@[simp] theorem State.putSet_clock (s : State) (w : Nat) (k : WeightSet) : (s.putSet w k).clock = s.clock := rfl
@[simp] theorem State.putSet_power (s : State) (w : Nat) (k : WeightSet) : (s.putSet w k).power = s.power := rfl
@[simp] theorem State.putSet_gov (s : State) (w : Nat) (k : WeightSet) : (s.putSet w k).gov = s.gov := rfl
@[simp] theorem State.putSet_regs (s : State) (w : Nat) (k : WeightSet) : (s.putSet w k).regs = s.regs := rfl
@[simp] theorem State.putSet_oldRegs (s : State) (w : Nat) (k : WeightSet) : (s.putSet w k).oldRegs = s.oldRegs := rfl
@[simp] theorem State.putSet_heldHigh (s : State) (w : Nat) (k : WeightSet) : (s.putSet w k).heldHigh = s.heldHigh := rfl
@[simp] theorem State.putSet_heldLow (s : State) (w : Nat) (k : WeightSet) : (s.putSet w k).heldLow = s.heldLow := rfl
@[simp] theorem State.putSet_mem (s : State) (w : Nat) (k : WeightSet) : (s.putSet w k).mem = s.mem := rfl
@[simp] theorem State.putSet_segChanges (s : State) (w : Nat) (k : WeightSet) : (s.putSet w k).segChanges = s.segChanges := rfl
@[simp] theorem State.putSet_host (s : State) (w : Nat) (k : WeightSet) : (s.putSet w k).host = s.host := rfl
@[simp] theorem State.putSet_hellos (s : State) (w : Nat) (k : WeightSet) : (s.putSet w k).hellos = s.hellos := rfl
@[simp] theorem State.putSet_queues (s : State) (w : Nat) (k : WeightSet) : (s.putSet w k).queues = s.queues := rfl
@[simp] theorem State.putSet_fetches (s : State) (w : Nat) (k : WeightSet) : (s.putSet w k).fetches = s.fetches := rfl
@[simp] theorem State.putSet_inflight (s : State) (w : Nat) (k : WeightSet) : (s.putSet w k).inflight = s.inflight := rfl
@[simp] theorem State.putSet_reports (s : State) (w : Nat) (k : WeightSet) : (s.putSet w k).reports = s.reports := rfl
@[simp] theorem State.putSet_units (s : State) (w : Nat) (k : WeightSet) : (s.putSet w k).units = s.units := rfl
@[simp] theorem State.putSet_histWaits (s : State) (w : Nat) (k : WeightSet) : (s.putSet w k).histWaits = s.histWaits := rfl
@[simp] theorem State.putSet_adapters (s : State) (w : Nat) (k : WeightSet) : (s.putSet w k).adapters = s.adapters := rfl
@[simp] theorem State.putSet_adapterView (s : State) (w : Nat) (k : WeightSet) : (s.putSet w k).adapterView = s.adapterView := rfl
@[simp] theorem State.putSet_repairs (s : State) (w : Nat) (k : WeightSet) : (s.putSet w k).repairs = s.repairs := rfl
@[simp] theorem State.putSet_retraining (s : State) (w : Nat) (k : WeightSet) : (s.putSet w k).retraining = s.retraining := rfl
@[simp] theorem State.putSet_ports (s : State) (w : Nat) (k : WeightSet) : (s.putSet w k).ports = s.ports := rfl
@[simp] theorem State.putSet_msgNext (s : State) (w : Nat) (k : WeightSet) : (s.putSet w k).msgNext = s.msgNext := rfl
@[simp] theorem State.putSet_serving (s : State) (w : Nat) (k : WeightSet) : (s.putSet w k).serving = s.serving := rfl
@[simp] theorem State.putSet_manifest (s : State) (w : Nat) (k : WeightSet) : (s.putSet w k).manifest = s.manifest := rfl
@[simp] theorem State.putSet_manifestView (s : State) (w : Nat) (k : WeightSet) : (s.putSet w k).manifestView = s.manifestView := rfl
@[simp] theorem State.putSet_groups (s : State) (w : Nat) (k : WeightSet) : (s.putSet w k).groups = s.groups := rfl
@[simp] theorem State.putSet_colls (s : State) (w : Nat) (k : WeightSet) : (s.putSet w k).colls = s.colls := rfl
@[simp] theorem State.putSet_trains (s : State) (w : Nat) (k : WeightSet) : (s.putSet w k).trains = s.trains := rfl
@[simp] theorem State.putSet_exports (s : State) (w : Nat) (k : WeightSet) : (s.putSet w k).exports = s.exports := rfl
@[simp] theorem State.putSet_turns (s : State) (w : Nat) (k : WeightSet) : (s.putSet w k).turns = s.turns := rfl
@[simp] theorem State.putSet_scores (s : State) (w : Nat) (k : WeightSet) : (s.putSet w k).scores = s.scores := rfl
@[simp] theorem State.putSet_occupants (s : State) (w : Nat) (k : WeightSet) : (s.putSet w k).occupants = s.occupants := rfl
@[simp] theorem State.putSet_clears (s : State) (w : Nat) (k : WeightSet) : (s.putSet w k).clears = s.clears := rfl
@[simp] theorem State.putSet_logbook (s : State) (w : Nat) (k : WeightSet) : (s.putSet w k).logbook = s.logbook := rfl
@[simp] theorem State.putSet_chamber (s : State) (w : Nat) (k : WeightSet) : (s.putSet w k).chamber = s.chamber := rfl
@[simp] theorem State.putSet_commits (s : State) (w : Nat) (k : WeightSet) : (s.putSet w k).commits = s.commits := rfl
@[simp] theorem State.putSet_commitCount (s : State) (w : Nat) (k : WeightSet) : (s.putSet w k).commitCount = s.commitCount := rfl
@[simp] theorem State.putSet_checkedAt (s : State) (w : Nat) (k : WeightSet) : (s.putSet w k).checkedAt = s.checkedAt := rfl
@[simp] theorem State.putSet_keepsake (s : State) (w : Nat) (k : WeightSet) : (s.putSet w k).keepsake = s.keepsake := rfl
@[simp] theorem State.putSet_pcie (s : State) (w : Nat) (k : WeightSet) : (s.putSet w k).pcie = s.pcie := rfl
@[simp] theorem State.putSet_panel (s : State) (w : Nat) (k : WeightSet) : (s.putSet w k).panel = s.panel := rfl
@[simp] theorem State.putSet_mgmt (s : State) (w : Nat) (k : WeightSet) : (s.putSet w k).mgmt = s.mgmt := rfl
@[simp] theorem State.putSet_sec (s : State) (w : Nat) (k : WeightSet) : (s.putSet w k).sec = s.sec := rfl
@[simp] theorem State.putSet_log (s : State) (w : Nat) (k : WeightSet) : (s.putSet w k).log = s.log := rfl
@[simp] theorem State.putSet_acting (s : State) (w : Nat) (k : WeightSet) : (s.putSet w k).acting = s.acting := rfl
@[simp] theorem State.putSet_outbox (s : State) (w : Nat) (k : WeightSet) : (s.putSet w k).outbox = s.outbox := rfl
@[simp] theorem State.putSet_pending (s : State) (w : Nat) (k : WeightSet) : (s.putSet w k).pending = s.pending := rfl

@[simp] theorem State.setReg_regs (s : State) (a : Nat) (v : Word) : (s.setReg a v).regs = insert a v s.regs := rfl
@[simp] theorem State.emit_outbox (s : State) (o : Out) : (s.emit o).outbox = s.outbox ++ [o] := rfl
@[simp] theorem State.putSet_sets (s : State) (w : Nat) (k : WeightSet) : (s.putSet w k).sets = insert w k s.sets := rfl

end Sys2Proof.Machine
end

