-- ==== Sys2Proof/Tests/Slice0.lean ====
section
/-! SUPPORT. Tests. First the numbers of the spec's worked examples and an ill-formed command for each check of WellFormed.lean; then,
for each obligation with hypotheses, states and operands that meet those of every clause together. -/

namespace Sys2Proof.Machine

open Sys2Proof

section Witnesses

set_option Elab.async false
set_option linter.unusedVariables false

/-! ## The spec's worked examples -/

/-- The queue of chapter 4's example: 256 slots, head 254, six slots posted. -/
def exampleQueue : Queue := { newQueue 0 0 1 8 6 1 0 0x10000 with head := 254, tail := 4 }

/-- Chapter 4: SQ_TAIL = 2 would withdraw posted slots, SQ_TAIL = 4 would not; 256 is no slot. -/
theorem test_doorbell_example :
    exampleQueue.badTail 2 = true ∧ exampleQueue.badTail 4 = false ∧ exampleQueue.badTail 256 = true := by decide

/-- The slot of chapter 7's example: FP8 E4M3, DEPTH 4, MARGIN 1, entries 2.9, 4.2, 5.7, 3.1, with 15.0 pending. -/
def exampleSlot : State :=
  [(0, 1 * 2 ^ 25 + 4 * 2 ^ 20 + 4 * 2 ^ 8), (4, 4 * 2 ^ 16 + 4), (8, 0x41700000), (0x10, 0x4039999A), (0x14, 0x40866666), (0x18, 0x40B66666),
    (0x1C, 0x40466666)].foldl (fun (t : State) r => t.setNat (histBase 9 + r.1) r.2) State.reset

/-- Chapter 7: the entries give the scale 5, and after the advance 3. -/
theorem test_scale_example : exampleSlot.histScale 9 4 4 = 5 ∧ (exampleSlot.histAdvance 9).histCurrent 9 = 3 := by decide +kernel

/-- Chapter 7: 11.9 × 2⁵ rounds to 384, and 15.0 × 2⁵ saturates to 448. -/
theorem test_e4m3_example :
    (convertTo 0x04 ((ofF32 0x413E6666).shift 5)).bits = 0x7C ∧ (convertTo 0x04 ((ofF32 0x41700000).shift 5)).bits = 0x7E := by
  decide +kernel

/-- A GT16 block of leading elements. -/
def leading (scale esc residue : Nat) (vs : List Int) : GtBlock :=
  ⟨true, scale, false, false, false, esc, residue, vs ++ List.replicate (64 - vs.length) 0⟩

/-- Chapter 7: the block at ESC 1 with residue 14 leaves its escalation with ESC 2 and residue 5. -/
theorem test_escalation_example :
    (leading 107 1 14 [30117, -3, 77, 5, -9600]).checked = true ∧
    (leading 107 1 14 [30117, -3, 77, 5, -9600]).escalate = (leading 107 2 5 [15058, -2, 38, 2, -4800], true) := by decide +kernel

/-- Chapter 9: the sum leaves with SCALE 107, ESC 3, RING_ESC set, residue 180 and first element 17,500. -/
theorem test_adder_example :
    gtAdd (leading 107 2 167 [20000, -7, 3]) (leading 107 2 194 [15000, 4, -1]) =
      .sum { leading 107 3 180 [17500, -2, 1] with ringEsc := true } 0 0 := by decide +kernel

/-- The products of chapter 8's example. -/
def exampleProducts : List Fp :=
  (List.range 96).map fun i => if i = 0 then Fp.ofInt 16777216 else if i = 40 then Fp.one else if i = 80 then Fp.ofInt (-16777216) else .zero

/-- Chapter 8: the logit is +0, although the exact sum is 1. -/
theorem test_reference_order_example : toF32 (referenceDot exampleProducts) = 0 := by decide +kernel

/-- Chapter 10: offset 0x1000 of VE13's bank is 0xF000_9140_1000; VE13 is engine 5 of CD1, so its bank has index 11. -/
theorem test_bank_example : (bankPlace 0xF00091401000).map (fun p => (p.die, p.bank.index, p.off)) = some (1, 11, 0x1000) := by decide

/-- Chapter 16: an MXFP8 E4M3 page of the Sorter is 270,336 bytes, of Punt 135,168. -/
theorem test_page_example : pageBytes 8 128 0x06 = 270336 ∧ pageBytes 4 128 0x06 = 135168 := by decide

/-! ## Ill-formed commands, one for each check -/

/-- Times, queues, functions, registers, addresses. -/
theorem test_ill_formed_places :
    (
  [ .pwrEnRise (2 ^ 64), .queueReset 0 64, .hello 32 0, .flrVf 0, .w1cClear 0 2 0, .w1cClear 0 (2 ^ 26) 0, .unalignedBar0Access 0 8 4 true
  , .unalignedBar0Access 0 (2 ^ 26) 1 true, .repairOpen (2 ^ 64) 0, .bar2Read 0 (2 ^ 36) 4, .bar2Read 1 (2 ^ 32) 4 ] : List Instr).all (fun i => !i.wf) = true := by decide +kernel

/-- Slots, ports and units. -/
theorem test_ill_formed_units :
    (
  [ .assayClear 0 0, .histAdvance 64 0, .adapterReleaseCommit 1024 0, .portRetrain 8 0, .keeperBankParity 16, .dieGate 4, .bankClear 0 15
  , .reachRemove 12, .fibreChange 24 true 0, .basinSegmentChange 2 0, .basinSegmentChange 0 24, .interfaceParityRetry 28, .laneFail 0 64 0
  , .correctedWriteBack 0 256, .paveFault 8 1, .residueFence 32 0, .beatWatchdog [9] 0, .serveStepComplete 8 0 ⟨[], []⟩
  , .finalBlockUpdate 0 0, .setReleaseCommit 64 0, .scoreStep 8 0 ⟨[], []⟩, .collDeadline 8 0 0, .collDeadline 0 (2 ^ 32) 0 ] : List Instr).all (fun i => !i.wf) = true := by decide +kernel

/-- Operands with a form of their own. -/
theorem test_ill_formed_operands :
    (
  [ .nop ⟨64, 0⟩ ⟨[], []⟩, .nop ⟨0, 2 ^ 32⟩ ⟨[], []⟩, .nop ⟨0, 0⟩ ⟨[(1, 0), (0, 0)], []⟩, .nop ⟨0, 0⟩ ⟨[], [(1, 0)]⟩, .idleFlit 0 [] 0
  , .bar2Atomicop 0 0 .cas [0, 0, 0, 0], .bar2Atomicop 0 0 .swap [0], .challenge .doe 0 [] true 0, .marginPlanDone [⟨256, none⟩] 0
  , .repairSourceData 0 ⟨65536, []⟩ 0 0 ⟨[], []⟩, .ideKm 0 ⟨true, 256, 0, []⟩
  , .coldReset ⟨true, true, true, true, [], 3000, [(12, none)], [], [], true⟩ ] : List Instr).all (fun i => !i.wf) = true := by decide +kernel

/-- The table gives no row any bits, so no word spells a command (notes/assumptions/100.md). -/
theorem test_no_word_decodes : decodeTableWord 16 0 = none := by decide

/-! ## Helpers of the witnesses -/

/-- No host memory. -/
def noHost : HostView := ⟨[], []⟩

/-- An active device: the beat ring runs, PCIe is up. -/
def act : State := { State.reset with power := { Power.reset with state := .active } }

/-- The active device with the stacks, the reach and the basin written. -/
def full : State := { act with mem := (((Mem.reset.fill 0 (2 ^ 40) (.pattern 0)).fill basinBase basinBytes (.pattern 0)).fill bankBase 0x200000000 (.pattern 0)) }

/-- A packet: an opcode and fields (offset, size, value). -/
def packetOf (op : Nat) (fs : List (Nat × Nat × Nat)) : List Byte := fs.foldl (fun p f => putField p f.1 f.2.1 f.2.2) (leBytes 2 op ++ zeros 254)

/-- A ready command of queue 1, TAG 7, of PF0 in berth 0. -/
def wc (op : Nat) (fs : List (Nat × Nat × Nat)) : Cmd :=
  { queue := 1, tag := 7, fn := 0, opcode := op, flags := 0, berth := 0, epoch := 1, acceptedAt := 0, deadline := none, packet := packetOf op fs,
    stage := .ready, status := 0, detail := 0, result0 := 0, result1 := 0, logged := false, scale := some 0, assay := none, amax := none,
    bodies := [] }

/-- A state with one command in flight. -/
def on (s : State) (c : Cmd) : State := { s with inflight := [c] }

/-- A state with registers set. -/
def regsOf (s : State) (rs : List (Nat × Nat)) : State := rs.foldl (fun (t : State) r => t.setNat r.1 r.2) s

/-- A state whose memory holds bytes at an address: the zeros among them are what the written device reads anyway. -/
def State.placed (s : State) (a : Nat) (bs : List Byte) : State :=
  { s with mem := { s.mem with
      cells := s.mem.cells ++ ((List.range bs.length).zip bs).filterMap fun x => if x.2 = 0 then none else some (a + x.1, x.2) } }

/-- The written device with berth 0: 128 GiB of stacks, every pavé and engine, and the whole basin as its scratchpad. -/
def ber : State :=
  regsOf full ([(berthCfg 0, 2 ^ 31), (berthCfg 0 + 4, 0xFF), (berthCfg 0 + 8, 0xFFFFFFFF), (berthCfg 0 + 0x14, 2 ^ 31 + 128 * 256)]
    ++ (List.range 5).map (fun j => (blkBasin 0 + 4 * j, 0xC0C0C0C0)) ++ (List.range 5).map fun j => (blkBasin 1 + 4 * j, 0xC0C0C0C0))

/-- A queue of PF0. -/
def aQueue : Queue := newQueue 0 0 1 6 6 1 0 0x10000

/-- The device with axis A of two members and its fibres present for long: its port 0 is no loopback. -/
def wired : State :=
  regsOf { ber with panel := { ber.panel with fibres := 2 ^ 24 - 1, fibresSince := (List.range 8).map fun p => (p, 0) } }
    ([(axisWord 0, 2 * 256)] ++ (List.range 8).map fun p => (blkPort p + 0x30, 2000))

/-- A state with port 0 as given. -/
def port0 (s : State) (k : Port) : State := { s with ports := [(0, k)] }

/-- A flit's 256 bytes with its CRC. -/
def flitBytes (seq vc kind route : Nat) (payload : List Byte) : List Byte :=
  let b := leBytes 2 seq ++ leBytes 2 0 ++ leBytes 1 (16 * vc + kind) ++ leBytes 1 0 ++ leBytes 2 0 ++ leBytes 4 route ++ slice payload 0 240
  b ++ leBytes 4 (crc32 b)

/-- A state with group 0 on axis A, in berth 0. -/
def grouped (s : State) : State := s.setNat (blkKeeper + 0x2010) (2 ^ 31)

/-- A message in port 0's inbox. -/
def msgOf (cls context : Nat) (body : List Byte) : Msg :=
  { vc := 2, route := 0, length := body.length, source := 1, targetInc := 0, cls := cls, context := context, body := body, poison := [],
    held := (0, 0) }

/-- An open collective of a command. -/
def collOf (c : Cmd) : Coll :=
  { cmd := c, owner := .command, startedAt := 0, lastAt := 0, ended := none, got := [], chains := [], ownDone := false, sent := [],
    received := 0, voting := false, finals := [] }

/-- A running command. -/
def running (c : Cmd) : Cmd := { c with stage := .running }

/-- A GT8 block of zeros, as read. -/
def aBlock : GtBlock := (gtRead false (zeros 68)).get (by decide)

/-- A GT8 block of zeros. -/
def zeroGt : List Byte := ((gtRead false (zeros 68)).map GtBlock.bytes).getD []

/-- The parts of a block sum; the first block where there is none. -/
def gtSumOf (a b : GtBlock) : GtBlock × Nat × Nat := match gtAdd a b with | .sum x cl va => (x, cl, va) | _ => (a, 0, 0)

/-- A weight set: LIVE, local, of 1 MiB at 16 MiB, for every berth. -/
def aSet : WeightSet :=
  { state := 2, source := 3, access := 255, link := 0, peerSet := 0, version := 1, base := 0x4001000000, bytes := 0x100000,
    sourceAddr := 0, command := none, failing := none, fingerprint := 0, cut := 0, droppedAt := 0, byTurn := false }

/-- An adapter: LIVE, shared, NAME 9. -/
def anAdapter : Adapter :=
  { state := 2, name := 9, version := 1, source := 3, baseSet := 0, rank := 1, access := 255, shared := true, berth := 0, alpha := 0,
    tensors := 0, base := 0x4002000000, bytes := 0x8000, sourceAddr := 0, peerPort := 0, peerSlot := 0, command := none, failing := none,
    fingerprint := 0, liveDamaged := false, leftAt := 0 }

/-- A model descriptor of one layer whose twelve tensors are empty. -/
def modelBytes : List Byte :=
  leBytes 2 1 ++ leBytes 2 1 ++ leBytes 2 1 ++ leBytes 2 64 ++ leBytes 4 64 ++ leBytes 4 64 ++ leBytes 4 2 ++ zeros 8 ++ leBytes 4 12 ++ zeros 32
    ++ (([(0xFFFF, 0), (0xFFFF, 1), (0xFFFF, 2)] ++ ([0, 1, 2, 3, 8, 9, 4, 5, 6].map fun c => (0, c)) : List (Nat × Nat)).flatMap
      fun k => leBytes 2 k.1 ++ leBytes 2 k.2 ++ leBytes 2 (if k = (0xFFFF, 1) ∨ k = (0, 8) ∨ k = (0, 9) then 2 else 1) ++ zeros 26)

/-- The same descriptor as read. -/
def aModel : Model :=
  { layers := 1, heads := 1, kvHeads := 1, headDim := 64, hidden := 64, ffn := 64, vocab := 2, experts := 0, topExperts := 0,
    kvScale := 0, eps := 0, ropeAddr := 0, tensors := [] }

/-- An open service of berth 0 on set 0. -/
def aServing : Serving :=
  { opened := true, closing := none, berth := 0, fn := 0, queue := 1, set := 0, draftSet := none, kvFmt := 4, stepMax := 64,
    prefillTokens := 64, weights := [1, 1, 1, 1], holdDepth := 4, alwaysMixed := false, maxSeq := 16, maxContext := 1024, seed := 0,
    model := aModel, draft := none, kvBase := 0x3000000, kvPages := 64, stride := 32768, spans := 16, spanAddr := 0x4000000,
    recBytes := 512, mixed := true, stepNo := 0, step := none, lastPrefill := false, held := [], runs := [], admitted := 0,
    usedPages := [], usedSpans := [], parked := false, stopClasses := 0, turning := false, frozen := false, share := 1, round := 0,
    parking := [] }

/-- A sequence of service 0, REQUEST 77. -/
def anEntry (state : Nat) : Entry :=
  { state := state, wait := 0, svc := 0, set := 0, cls := 0, account := 0, draftLen := 0, rejectRun := 0, aflags := 0, sequence := 1,
    setVersion := 1, adapter := none, adapterName := 0, adapterVersion := 0, length := 4, promptLen := 4, fed := 0, last := 0,
    generated := 0, maxNew := 4, spans := [], invTemp := 0x3F800000, topP := 0x3F800000, topK := 0, stop0 := 0, stop1 := 0,
    promptAddr := 0x5000000, recordAddr := 0x5100000, request := 77, lastStep := 0, admitOrder := 0, tag := 7, queue := 1, fn := 0,
    run := none, accepted := 0, ending := none, cancels := [], failures := 0, berth := 0 }

/-- A batch step with no rows. -/
def aStep : BatchStep := { number := 1, epoch := 1, kind := 1, rows := [] }

/-- The berth with a weight region of 64 GiB and set 0 LIVE. -/
def stocked : State := { ber.setNat (blkDevice + 0x810) (64 * 2 ^ 16 + 256) with sets := [(0, aSet)] }

/-- An open service 0 on it. -/
def serving0 (v : Serving) (es : List (Nat × Entry)) : State := { stocked with serving := [(0, v)], manifest := es }

/-- `ber` with lane 0 valid at generation 0, and update context x on it: blocks as given, its state at 1 MiB with a complete slot 0. -/
def withCtx (x blocks : Nat) : State :=
  (regsOf { ber with keepsake := { ber.keepsake with lanes := [0x8000#16] } }
    [(ctxBase x, 2 ^ 31), (ctxBase x + 4, blocks), (ctxBase x + 8, 0x100000)]).placed 0x100000 ([0, 0, 1] ++ zeros 61)

/-- A reduce-scatter that updates context 1, with its first final block, and the device that runs it. -/
def updating : Coll := { collOf (running (wc 0x5001 [(36,4,5),(49,1,3),(54,2,1)])) with finals := [(0, aBlock)] }

def updater : State := { (withCtx 1 2).setNat (ctxBase 1 + 0x18) 2 with colls := [updating] }

/-- A plan whose tensors are empty. -/
def aPlan : Plan := { firstLayer := 0, layers := 1, embed := true, head := true, model := aModel, parts := [⟨2, 1, 0x9000000⟩], tensors := [] }

/-- The fields of a TRAIN_STEP of service 0. -/
def trainFields : List (Nat × Nat × Nat) :=
  [(32, 1, 0), (33, 1, 0), (34, 1, 0xFF), (36, 4, 0), (40, 4, 4), (48, 4, 1), (52, 4, 1), (56, 1, 2), (58, 1, 2), (62, 2, 1), (72, 8, 0x6800000),
   (80, 8, 0x6900000), (88, 8, 0x10000000), (96, 8, 0x100000), (112, 8, 0x20000000), (120, 8, 0x100000)]

/-- Its service, open and idle. -/
def aTrain : Train := { act.newTrain (wc 0x7000 trainFields) aPlan [] with opened := true }

/-- The same with pipeline groups 4 to 7, in a pass of two micro-batches, its RECVs posted. -/
def pipeTrain : Train :=
  { act.newTrain (wc 0x7000 (trainFields ++ [(34, 1, 4), (36, 4, 1)])) { aPlan with model := { aModel with hidden := 1 } }
      [0x6000000, 0x6001000, 0x6002000, 0x6003000] with
    opened := true, phase := .pass, order := [0, 1], forwards := 1, fwdPosted := 4, bwdPosted := 4 }

/-- A state with the training service 0. -/
def trains0 (s : State) (k : Train) : State := { s with trains := [(0, k)] }

/-- Axis A of three members, this one at 1. -/
def threeDevices : State := wired.setNat (axisWord 0) (3 * 256 + 1)

/-- The RECV of entry 0 of a pound, with SEQ offset off. -/
def pipeRecv (k : Train) (forward : Bool) (off : Nat) : Coll := { collOf (threeDevices.poundRecv 0 k 4 forward 0 off) with owner := .train 0 }

/-- A pipeline message for a RECV with a digest that differs from the RECV's by d. -/
def pipeMsg (x : Coll) (d : Nat) (rest : List Byte) : Msg :=
  msgOf 0x0104 x.cmd.collSeq (leBytes 4 (x.cmd.digest + d) ++ leBytes 1 x.cmd.group ++ rest)

/-- The service with the RECV open and a message in the inbox of port p. -/
def piped (k : Train) (p : Nat) (x : Coll) (m : Msg) : State :=
  { trains0 threeDevices k with ports := [(p, { Port.reset with state := 3, inbox := [m] })], colls := [x] }

/-- A turn of service 0 with the fields given, in a phase. -/
def aTurn (fs : List (Nat × Nat × Nat)) (phase : Nat) : Turn :=
  { cmd := wc 0x8000 fs, phase := phase, startedAt := 0, transferAt := 0, model := none, pieces := [], version := 0, trainIndex := 0,
    trainBusy := false, drained := 0, cut := 0, sent := [], placed := 0, poisoned := false, transferUs := 0, voting := false,
    failing := none }

/-- The serving service 0, the training service 0 and a turn. -/
def turning0 (v : Serving) (k : Train) (x : Turn) : State := { (serving0 v []).setNat (histBase 1) (2 ^ 27 + 2 ^ 20 + 0x1800) with trains := [(0, k)], turns := [(0, x)] }

/-- A score service of berth 0, without a model. -/
def aScore : Score :=
  { cmd := wc 0x6009 [(32, 1, 1), (36, 4, 1), (40, 8, 0x6100000)], model := none, opened := true, next := 0, fed := 0, scored := 0,
    unscored := 0, parked := false, share := 1, round := 0 }

/-- A state with a logbook. -/
def booked (s : State) (l : Logbook) : State := { s with logbook := l }

/-- A flit built with its CRC is good. -/
theorem flitBytes_good {seq vc kind route : Nat} {payload : List Byte} : flitGood (flitBytes seq vc kind route payload) = true :=
  flitGood_append _ (by simp [leBytes_length, slice_length])

/-- A quiesced device, and a mark of its state without ranges. -/
def quiet : State := { ber with power := { ber.power with quiesced := true } }

def aMark : BookEntry :=
  { kind := 1, source := 0, index := 5, epoch := 1, fingerprint := 0, body := zeros 16 ++ (quiet.markItems []).flatten }

/-- A REPLAY from that mark, and the device that holds it. -/
def replayCmd : Cmd := wc 0xA000 [(32,8,5),(40,4,0),(48,8,5)]

def replaying : State := on (booked quiet { Logbook.reset with held := [(0, aMark)] }) replayCmd

/-- What a mark covers, without ranges, turns on a few parts of the state. -/
theorem markItems_of {s t : State} (hr : s.regs = t.regs) (hv : s.spine.variant = t.spine.variant) (h1 : s.sets = t.sets)
    (h2 : s.adapters = t.adapters) (h3 : s.keepsake = t.keepsake) (h4 : s.groups = t.groups) : s.markItems [] = t.markItems [] := by
  simp only [State.markItems, State.allSettings, State.lkBytes, State.reg64, State.regNat, State.reg, State.laneGen, State.laneWord, hr, hv,
    h1, h2, h3, h4, List.map_nil]

/-- A state does not differ from a mark of its own two items. -/
theorem markDiffers_own {s : State} {m : BookEntry} {a b : List Byte} (ha : a.length = 16) (hb : b.length = 16)
    (h : s.markItems [] = [a, b]) (hm : m.body = zeros 16 ++ (a ++ (b ++ []))) : s.markDiffers m = none := by
  have n0 : fieldAt m.body 0 4 = 0 := by rw [hm]; rfl
  have d : m.body.drop 16 = a ++ b := by rw [hm, List.append_nil]; exact List.drop_left' rfl
  have l : m.body.length = 48 := by simp [hm, ha, hb, show (zeros 16).length = 16 from rfl]
  have dd : m.body.drop 32 = b := by
    rw [show m.body.drop 32 = (m.body.drop 16).drop 16 by rw [List.drop_drop], d]; exact List.drop_left' ha
  have r : List.range ((48 - 16 - 16 * 0) / 16) = [0, 1] := rfl
  simp only [State.markDiffers, n0, markRanges, List.range_zero, List.map_nil, h, l, r, List.map_cons, Nat.mul_zero, Nat.add_zero,
    Nat.mul_one, d, dd, List.take_left' ha, List.take_of_length_le (Nat.le_of_eq hb)]
  simp

theorem replay_differs : ((replaying.meets noHost replayCmd).flushBook.ringing).markDiffers aMark = none := by
  have e : ((replaying.meets noHost replayCmd).flushBook.ringing).markItems [] = quiet.markItems [] := markItems_of rfl rfl rfl rfl rfl rfl
  have q : quiet.markItems [] =
      [leBytes 8 (crc64 quiet.allSettings) ++ zeros 8, (List.range 4).flatMap (fun l => leBytes 2 (quiet.laneGen l)) ++ zeros 8] := rfl
  have m : aMark.body = zeros 16 ++ (quiet.markItems []).flatten := rfl
  exact markDiffers_own (by simp [leBytes_length, zeros]) (by simp [leBytes_length, zeros]) (e.trans q) (by rw [m, q]; rfl)

/-! ## Witnesses -/

/-- ControlCommandsComplete: what its clauses ask, met clause by clause (nop, queueCreate, queueDelete, abort, getLog, marginPlan, powerState, resetUnit, quiesce). -/
theorem witness_ControlCommandsComplete :
    (∃ (s : State) (r : CmdRef) (k : Cmd), s.Ready 0x0000 r k)
    ∧ (∃ (s : State) (r : CmdRef) (k : Cmd), s.Ready 0x0001 r k ∧ lookup (k.param 32 1) s.queues = none ∧
        (s.functionEnabled (k.param 33 1) = true) ∧ s.berthBoundAt k.epoch (k.param 34 1) (k.param 33 1) = true ∧
        s.basinRingOk k.epoch (k.param 40 8) (32 * 2 ^ k.param 36 1) = true ∧
        s.basinRingOk k.epoch (k.param 48 8) (32 * 2 ^ k.param 37 1) = true)
    ∧ (∃ (s : State) (r : CmdRef) (k : Cmd), s.Ready 0x0002 r k ∧ (lookup (k.param 32 1) s.queues).isSome = true ∧ ((∀ d ∈ s.inflight,
        d.queue ≠ k.param 32 1)) ∧ s.histWaits = [])
    ∧ (∃ (s : State) (r : CmdRef) (k : Cmd) (hv : HostView) (d : Cmd), s.Ready 0x0003 r k ∧ k.aims = some d.seq ∧
        (s.inflight.find? (fun x => x.seq == d.seq) = some d) ∧ s.cmd d.ref = some d ∧ d.stage = .held ∧ (d.opcode / 0x1000 ≠ 5) ∧
        (s.meets hv k).pausedOn d = false ∧ (r ≠ d.ref))
    ∧ (∃ (s : State) (r : CmdRef) (k : Cmd) (n : Nat), s.Ready 0x0003 r k ∧ k.aims = some n ∧
        (s.inflight.find? (fun x => x.seq == n) = none))
    ∧ (∃ (s : State) (r : CmdRef) (k : Cmd), s.Ready 0x0003 r k ∧ k.aims = none)
    ∧ (∃ (s : State) (r : CmdRef) (k : Cmd) (hv : HostView), s.Ready 0x0004 r k ∧ (s.meets hv k).logPlaceFails k = none ∧
        ((∀ x ∈ s.log.records, x.seq < k.param 32 4)))
    ∧ (∃ (s : State) (r : CmdRef) (k : Cmd), s.Ready 0x0008 r k)
    ∧ (∃ (s : State) (r : CmdRef) (k : Cmd), s.Ready 0x0009 r k ∧ k.param 32 1 = 2)
    ∧ (∃ (s : State) (r : CmdRef) (k : Cmd), s.Ready 0x0009 r k ∧ (k.param 32 1 ≠ 2) ∧ s.atRest k 0xFF = true)
    ∧ (∃ (s : State) (r : CmdRef) (k : Cmd) (hv : HostView), s.Ready 0x000A r k ∧ isCompute (k.param 32 1) = true ∧
        ((k.param 34 2 = 0 ∨ k.param 34 2 = k.result0)) ∧ (s.meets hv k).cmdOn (k.param 32 1) = none ∧ s.colls = [])
    ∧ (∃ (s : State) (r : CmdRef) (k : Cmd), s.Ready 0x000B r k ∧ k.param 32 1 = 1 ∧ k.param 33 1 = 0xFF)
    ∧ (∃ (s : State) (r : CmdRef) (k : Cmd), s.Ready 0x000B r k ∧ (k.param 32 1 ≠ 1) ∧ k.param 33 1 = 0xFF ∧ s.atRest k 0xFF = true) :=
  ⟨⟨(on act (wc 0x0000 [])), ⟨1, 7⟩, (wc 0x0000 []), by unfold State.Ready; decide +kernel⟩,
   ⟨(on ber (wc 0x0001 [(32,1,5),(36,1,6),(37,1,6)])), ⟨1, 7⟩, (wc 0x0001 [(32,1,5),(36,1,6),(37,1,6)]),
    by unfold State.Ready; decide +kernel⟩,
   ⟨(on { act with queues := [(5, newQueue 0 0 1 6 6 0 0 0)] } (wc 0x0002 [(32,1,5)])), ⟨1, 7⟩, (wc 0x0002 [(32,1,5)]),
    by unfold State.Ready; decide +kernel⟩,
   ⟨{ act with inflight := [{ wc 0x0000 [] with queue := 2, tag := 9, stage := .held, seq := 3 }, { wc 0x0003 [(32,1,2),(36,4,9)] with aims := some 3 }] },
    ⟨1, 7⟩, { wc 0x0003 [(32,1,2),(36,4,9)] with aims := some 3 }, noHost,
    { wc 0x0000 [] with queue := 2, tag := 9, stage := .held, seq := 3 }, by unfold State.Ready; decide +kernel⟩,
   ⟨(on act { wc 0x0003 [(32,1,2),(36,4,9)] with aims := some 3 }), ⟨1, 7⟩, { wc 0x0003 [(32,1,2),(36,4,9)] with aims := some 3 }, 3,
    by unfold State.Ready; decide +kernel⟩,
   ⟨(on act (wc 0x0003 [(32,1,2),(36,4,9)])), ⟨1, 7⟩, (wc 0x0003 [(32,1,2),(36,4,9)]), by unfold State.Ready; decide +kernel⟩,
   ⟨(on act (wc 0x0004 [])), ⟨1, 7⟩, (wc 0x0004 []), noHost, by unfold State.Ready; decide +kernel⟩,
   ⟨(on act (wc 0x0008 [])), ⟨1, 7⟩, (wc 0x0008 []), by unfold State.Ready; decide +kernel⟩,
   ⟨(on act (wc 0x0009 [(32,1,2)])), ⟨1, 7⟩, (wc 0x0009 [(32,1,2)]), by unfold State.Ready; decide +kernel⟩,
   ⟨(on act (wc 0x0009 [])), ⟨1, 7⟩, (wc 0x0009 []), by unfold State.Ready; decide +kernel⟩,
   ⟨(on act (wc 0x000A [(32,1,1)])), ⟨1, 7⟩, (wc 0x000A [(32,1,1)]), noHost, by unfold State.Ready; decide +kernel⟩,
   ⟨(on act (wc 0x000B [(32,1,1),(33,1,0xFF)])), ⟨1, 7⟩, (wc 0x000B [(32,1,1),(33,1,0xFF)]), by unfold State.Ready; decide +kernel⟩,
   ⟨(on act (wc 0x000B [(32,1,0),(33,1,0xFF)])), ⟨1, 7⟩, (wc 0x000B [(32,1,0),(33,1,0xFF)]), by unfold State.Ready; decide +kernel⟩⟩

/-- PanelCommandsComplete: what its clauses ask, met clause by clause (serviceHold, serviceResume, reachRelease, locatePress, servicePress, serviceLong, serviceRequestLapse, locateCtrlWrite). -/
theorem witness_PanelCommandsComplete :
    (∃ (s : State) (r : CmdRef) (k : Cmd), s.Ready 0x0005 r k ∧ s.turns = [])
    ∧ (∃ (s : State) (r : CmdRef) (k : Cmd), s.Ready 0x0006 r k)
    ∧ (∃ (s : State) (r : CmdRef) (k : Cmd) (hv : HostView), s.Ready 0x0007 r k ∧ [SocketState.powered, .inService,
        .releaseRequested].contains (s.socket (k.param 32 1)).state = true ∧ (s.meets hv k).reachMap.testBit (k.param 32 1) = false)
    ∧ (∃ (s : State) (ms : Nat), s.powered = true ∧ 50 ≤ ms)
    ∧ (∃ (s : State) (ms : Nat), s.powered = true ∧ 50 ≤ ms ∧ ms < 10000 ∧ s.panel.hold = true)
    ∧ (∃ (s : State) (ms : Nat), s.powered = true ∧ 50 ≤ ms ∧ ms < 10000 ∧ s.panel.hold = false ∧ s.panel.request.isSome = true)
    ∧ (∃ (s : State) (ms : Nat), s.powered = true ∧ 50 ≤ ms ∧ ms < 10000 ∧ s.panel.hold = false ∧ s.panel.request = none)
    ∧ (∃ (s : State), s.powered = true ∧ s.turns = [])
    ∧ (∃ (s : State), s.powered = true ∧ (s.turns ≠ []))
    ∧ (∃ (s : State) (now : Nat) (d : Nat), s.panel.request = some d ∧ (s.at now).expired d = true ∧ s.holdIssued = false)
    ∧ (∃ (s : State), s.pcieUp = true) :=
  ⟨⟨(on act (wc 0x0005 [])), ⟨1, 7⟩, (wc 0x0005 []), by unfold State.Ready; decide +kernel⟩,
   ⟨(on act (wc 0x0006 [])), ⟨1, 7⟩, (wc 0x0006 []), by unfold State.Ready; decide +kernel⟩,
   ⟨(on { act with panel := { act.panel with sockets := [(2, ⟨.powered, 0, false⟩)] } } (wc 0x0007 [(32,1,2)])), ⟨1, 7⟩,
    (wc 0x0007 [(32,1,2)]), noHost, by unfold State.Ready; decide +kernel⟩,
   ⟨act, 60, by decide +kernel⟩,
   ⟨{ act with panel := { act.panel with hold := true } }, 60, by decide +kernel⟩,
   ⟨{ act with panel := { act.panel with request := some 5 } }, 60, by decide +kernel⟩,
   ⟨act, 60, by decide +kernel⟩,
   ⟨act, by decide +kernel⟩,
   ⟨{ act with turns := [(0, { cmd := wc 0x8000 [(34,1,0xFF),(38,1,0xFF)], phase := 2, startedAt := 0, transferAt := 0, model := none, pieces := [], version := 0, trainIndex := 0, trainBusy := false, drained := 0, cut := 0, sent := [], placed := 0, poisoned := false, transferUs := 0, voting := false, failing := none })] },
    by decide +kernel⟩,
   ⟨{ act with panel := { act.panel with request := some 5 } }, (10 ^ 15), 5, by decide +kernel⟩,
   ⟨act, by decide +kernel⟩⟩

/-- CellServiceCompletes: what its clauses ask, met clause by clause (cellService, cellInserted, cellServiceTimeout, coinCellMeasure, locketParityError, locketWipe, debugExpiry). -/
theorem witness_CellServiceCompletes :
    (∃ (s : State), s.powered = true ∧ s.power.pwrgd = true ∧ s.panel.cellService = none)
    ∧ (∃ (s : State) (mv : Nat), s.panel.cellService.isSome = true ∧ 2600 ≤ mv)
    ∧ (∃ (s : State) (mv : Nat), s.panel.cellService.isSome = true ∧ mv < 2600)
    ∧ (∃ (s : State) (now : Nat) (d : Nat), s.panel.cellService = some d ∧ (s.at now).expired d = true ∧ s.panel.cellInserted = false)
    ∧ (∃ (s : State) (now : Nat), s.powered = true ∧ (s.at now).expired (s.clock.cellFrom + 86400 * second) = true)
    ∧ (∃ (s : State) (hub : Nat), hub < 2 ∧ (s.power.state ≠ .off))
    ∧ (∃ (s : State) (r : CmdRef) (k : Cmd), s.Ready 0x9002 r k)
    ∧ (∃ (s : State) (now : Nat), s.sec.debug = 2 ∧ (s.at now).expired s.sec.debugExpiry = true)
    ∧ (∃ (s : State) (now : Nat), s.sec.debug = 1 ∧ (s.at now).expired s.sec.debugExpiry = true ∧ s.fusesLeft = true) :=
  ⟨⟨act, by decide +kernel⟩,
   ⟨{ act with panel := { act.panel with cellService := some 5 } }, 3000, by decide +kernel⟩,
   ⟨{ act with panel := { act.panel with cellService := some 5 } }, 2000, by decide +kernel⟩,
   ⟨{ act with panel := { act.panel with cellService := some 5 } }, (10 ^ 15), 5, by decide +kernel⟩,
   ⟨act, (10 ^ 15), by decide +kernel⟩,
   ⟨act, 1, by decide +kernel⟩,
   ⟨(on act (wc 0x9002 [])), ⟨1, 7⟩, (wc 0x9002 []), by unfold State.Ready; decide +kernel⟩,
   ⟨{ act with sec := { act.sec with debug := 2, debugExpiry := 5 } }, (10 ^ 15), by decide +kernel⟩,
   ⟨{ act with sec := { act.sec with debug := 1, debugExpiry := 5 } }, (10 ^ 15), by decide +kernel⟩⟩

/-- TouchAndSocketEventsComplete: what its clauses ask, met clause by clause (padTouch, reachInsert, reachRemove, fibreChange). -/
theorem witness_TouchAndSocketEventsComplete :
    (∃ (s : State) (n : Nat) (ms : Nat), s.operating = true ∧ n < 12 ∧ 100 ≤ ms ∧ (s.socket n).state = .powered)
    ∧ (∃ (s : State) (n : Nat) (ms : Nat), s.operating = true ∧ n < 12 ∧ 100 ≤ ms ∧ (s.socket n).state = .inService)
    ∧ (∃ (s : State) (n : Nat) (ms : Nat), s.operating = true ∧ n < 12 ∧ 100 ≤ ms ∧ (s.socket n).state = .releaseRequested)
    ∧ (∃ (s : State) (n : Nat), s.operating = true ∧ n < 12 ∧ (s.socket n).state = .empty)
    ∧ (∃ (s : State) (n : Nat), s.operating = true ∧ n < 12 ∧ (s.socket n).state = .empty)
    ∧ (∃ (s : State) (n : Nat), s.operating = true ∧ n < 12 ∧ (s.socket n).state = .powered)
    ∧ (∃ (s : State) (n : Nat), s.operating = true ∧ n < 12 ∧ (s.socket n).state = .inService)
    ∧ (∃ (s : State) (i : Nat) (present : Bool), s.powered = true ∧ i < 24 ∧ (s.panel.fibres.testBit i ≠ present) ∧
        ((s.port (i / 3)).state ≠ 3) ∧ ((s.port (i / 3)).state ≠ 4)) :=
  ⟨⟨{ act with panel := { act.panel with sockets := [(2, ⟨.powered, 0, false⟩)] } }, 2, 100, by decide +kernel⟩,
   ⟨{ act with panel := { act.panel with sockets := [(2, ⟨.inService, 0, false⟩)] } }, 2, 100, by decide +kernel⟩,
   ⟨{ act with panel := { act.panel with sockets := [(2, ⟨.releaseRequested, 0, false⟩)] } }, 2, 100, by decide +kernel⟩,
   ⟨act, 11, by decide +kernel⟩,
   ⟨act, 0, by decide +kernel⟩,
   ⟨{ act with panel := { act.panel with sockets := [(2, ⟨.powered, 0, false⟩)] } }, 2, by decide +kernel⟩,
   ⟨{ act with panel := { act.panel with sockets := [(2, ⟨.inService, 0, false⟩)] } }, 2, by decide +kernel⟩,
   ⟨act, 23, true, by decide +kernel⟩⟩

/-- LidEventsComplete: what its clauses ask, met clause by clause (lidOpen, lidClose, lidOpenUnpowered, oscillatorLost, authLockout, lockoutExpiry). -/
theorem witness_LidEventsComplete :
    (∃ (s : State), s.powered = true ∧ s.power.pwrgd = true ∧ s.panel.lidOpen = false)
    ∧ (∃ (s : State), s.powered = true ∧ s.panel.lidOpen = true)
    ∧ (∃ (s : State), s.powered = false ∧ s.panel.lidOpen = true)
    ∧ (∃ (s : State), s.power.pwrgd = false ∧ s.panel.lidOpen = false ∧ 1800 ≤ s.panel.coinMv)
    ∧ (∃ (s : State), s.power.pwrgd = false ∧ s.panel.lidOpen = false ∧ s.panel.coinMv < 1800)
    ∧ (∃ (s : State), s.operating = true ∧ s.clock.good = true ∧ ((∀ p, p < 8 → (s.port p).state ≠ 3 ∧ (s.port p).state ≠ 4)))
    ∧ (∃ (s : State) (now : Nat), s.sec.lockout = none ∧ 8 ≤ ((s.at now).recent (3600 * second) s.sec.failedAt).length)
    ∧ (∃ (s : State) (now : Nat) (d : Nat), s.sec.lockout = some d ∧ (s.at now).expired d = true) :=
  ⟨⟨act, by decide +kernel⟩,
   ⟨{ act with panel := { act.panel with lidOpen := true } }, by decide +kernel⟩,
   ⟨{ act with power := { act.power with state := .off }, panel := { act.panel with lidOpen := true } }, by decide +kernel⟩,
   ⟨{ act with power := { act.power with state := .off, pwrgd := false } }, by decide +kernel⟩,
   ⟨{ act with power := { act.power with state := .off, pwrgd := false }, panel := { act.panel with coinMv := 1000 } }, by decide +kernel⟩,
   ⟨act, by decide +kernel⟩,
   ⟨{ act with clock := { act.clock with time := 100 }, sec := { act.sec with failedAt := [1,1,1,1,1,1,1,1] } }, 100, by decide +kernel⟩,
   ⟨{ act with sec := { act.sec with lockout := some 5 } }, (10 ^ 15), 5, by decide +kernel⟩⟩

/-- RegisterAccessCompletes: what its clauses ask, met clause by clause (registerWrite, w1cClear, wideLowWordRead, wideHighWordWrite, unalignedBar0Access, collRelease, adapterViewRead, manifestViewRead, accViewRead). -/
theorem witness_RegisterAccessCompletes :
    (∃ (s : State) (fn : Nat) (addr : Nat) (w : RegWord), s.pcieUp = true ∧ addr % 4 = 0 ∧ (fn = 0 && inStaging addr) = false ∧
        s.wordFor fn addr = some w ∧ w.row.access = .rw ∧ ownRow w.row.name = false ∧ w.row.wide = false ∧ w.high = false ∧
        (w.row.name ≠ "UNIT_VECTOR"))
    ∧ (∃ (s : State) (fn : Nat) (addr : Nat) (w : RegWord), s.pcieUp = true ∧ regWord addr = some w ∧ w.row.access = .w1c ∧
        s.visible fn addr = true)
    ∧ (∃ (s : State) (fn : Nat) (addr : Nat) (w : RegWord), s.pcieUp = true ∧ addr % 4 = 0 ∧ s.wordFor fn addr = some w ∧
        s.isFree w.row = false ∧ w.row.wide = true ∧ w.high = false)
    ∧ (∃ (s : State) (fn : Nat) (addr : Nat) (w : RegWord), s.pcieUp = true ∧ s.wordFor fn addr = some w ∧ w.high = true ∧
        w.row.access = .lk)
    ∧ (∃ (s : State) (fn : Nat) (addr : Nat) (w : RegWord) (low : Word), s.pcieUp = true ∧ s.wordFor fn addr = some w ∧ w.high = true ∧
        w.row.access = .dbg ∧ (w.row.name ≠ "ACC_VIEW") ∧ 4 ≤ addr ∧ (s.sec.debug ≠ 0) ∧ lookup (holdKey fn (addr - 4)) s.heldLow = some low)
    ∧ (∃ (s : State) (addr : Nat) (size : Nat), s.pcieUp = true ∧ misaligned addr size = true)
    ∧ (∃ (s : State) (g : Nat), s.pcieUp = true ∧ g < 8)
    ∧ (∃ (s : State), s.pcieUp = true)
    ∧ (∃ (s : State), s.pcieUp = true)
    ∧ (∃ (s : State) (off : Nat) (a : Nat), s.pcieUp = true ∧ off % 4 = 0 ∧ s.accView off = some a ∧ s.parityIn a 4 = [] ∧
        s.noteRead 4 a 4 = s)
    ∧ (∃ (s : State) (off : Nat), s.pcieUp = true ∧ off % 4 = 0 ∧ s.accView off = none)
    ∧ (∃ (s : State) (off : Nat), s.pcieUp = true ∧ (off % 4 ≠ 0)) :=
  ⟨⟨act, 0, (blkDevice + 0x404), ((regWord (blkDevice + 0x404)).get (by decide)), by decide +kernel⟩,
   ⟨(regsOf act [(blkDevice + 0x400, 7)]), 0, (blkDevice + 0x400), ((regWord (blkDevice + 0x400)).get (by decide)), by decide +kernel⟩,
   ⟨act, 0, (8), ((regWord 8).get (by decide)), by decide +kernel⟩,
   ⟨act, 0, (blkDevice + 0x20C), ((regWord (blkDevice + 0x20C)).get (by decide)), by decide +kernel⟩,
   ⟨{ act with sec := { act.sec with debug := 1 }, heldLow := [(holdKey 0 (blkPave 0 + 0x28), 7)] }, 0, (blkPave 0 + 0x2C),
    ((regWord (blkPave 0 + 0x2C)).get (by decide)), 7#32, by decide +kernel⟩,
   ⟨act, (blkDevice + 0x402), 4, by decide +kernel⟩,
   ⟨act, 7, by decide +kernel⟩,
   ⟨act, by decide +kernel⟩,
   ⟨act, by decide +kernel⟩,
   ⟨{ regsOf full [(blkDevice + 0xA00, 2 ^ 31)] with sec := { act.sec with debug := 1 } }, 0, (cBank 0), by decide +kernel⟩,
   ⟨act, 0, by decide +kernel⟩,
   ⟨act, 1, by decide +kernel⟩⟩

/-- HistoryAndAssayControlsComplete: what its clauses ask, met clause by clause (assayClear, histAdvance, histReset). -/
theorem witness_HistoryAndAssayControlsComplete :
    (∃ (s : State) (slot : Nat) (v : Word), s.pcieUp = true ∧ v.toNat.testBit 0 = true ∧ 1 ≤ slot ∧ slot ≤ 255)
    ∧ (∃ (s : State) (slot : Nat) (v : Word), s.pcieUp = true ∧ 1 ≤ slot ∧ slot ≤ 63 ∧ v.toNat.testBit 0 = true ∧
        v.toNat.testBit 1 = false ∧ (s.histConfig slot).testBit 27 = false ∧ s.inflight = [] ∧ s.histWaits = [])
    ∧ (∃ (s : State) (slot : Nat) (v : Word), s.pcieUp = true ∧ 1 ≤ slot ∧ slot ≤ 63 ∧ v.toNat.testBit 0 = true ∧
        v.toNat.testBit 1 = false ∧ (s.histConfig slot).testBit 27 = false ∧ ((∃ c ∈ s.inflight, c.histSlot = slot ∧ c.epoch ≠ 0)) ∧
        s.histWaits = [])
    ∧ (∃ (s : State) (slot : Nat) (v : Word), s.pcieUp = true ∧ 1 ≤ slot ∧ slot ≤ 63 ∧ v.toNat.testBit 0 = false ∧
        v.toNat.testBit 1 = true ∧ (s.histConfig slot).testBit 27 = false ∧ s.inflight = [] ∧ s.histWaits = []) :=
  ⟨⟨act, 255, 1, by decide +kernel⟩,
   ⟨act, 63, 1, by decide +kernel⟩,
   ⟨(on act (wc 0x2000 [(54,2,1)])), 1, 1, by decide +kernel⟩,
   ⟨act, 1, 2, by decide +kernel⟩⟩

/-- Bar2AccessCompletes: what its clauses ask, met clause by clause (bar2Read, bar2Write, bar2Atomicop, atomic). -/
theorem witness_Bar2AccessCompletes :
    (∃ (s : State) (fn : Nat) (off : Nat) (len : Nat) (a : Nat), s.pcieUp = true ∧ s.bar2Place fn off len = some a ∧
        s.readStatus a len = none)
    ∧ (∃ (s : State) (fn : Nat) (off : Nat) (bytes : List Byte) (a : Nat), s.pcieUp = true ∧ s.bar2Place fn off bytes.length = some a ∧
        s.inWeights a bytes.length = false ∧ s.bookHolds (placeHub s.spine.variant a) (8 + bytes.length) = false)
    ∧ (∃ (s : State) (fn : Nat) (off : Nat) (op : AtomicOp) (operands : List Byte) (a : Nat) (n : Nat), s.pcieUp = true ∧ (op ≠ .cas) ∧
        n = operands.length ∧ ((n = 4 ∨ n = 8)) ∧ s.bar2Place fn off n = some a ∧ a % n = 0 ∧ s.inWeights a n = false ∧
        s.bookHolds (placeHub s.spine.variant a) (8 + n) = false ∧ (s.actBar2 fn).readStatus a n = none)
    ∧ (∃ (s : State) (r : CmdRef) (k : Cmd) (hv : HostView), s.Ready 0x4004 r k ∧ theRefusal ((s.meets hv k).atomicFails k) = none ∧
        (s.meets hv k).readStatus (k.param 40 8) (24 * k.param 36 4) = none ∧
        ((∀ e ∈ ((s.meets hv k).tally false true (k.param 40 8) (24 * k.param 36 4)).atomicTable k,
        ((s.meets hv k).tally false true (k.param 40 8) (24 * k.param 36 4)).atomicEntryFails k (fieldAt e.2 0 8) = none)))
    ∧ (∃ (s : State) (r : CmdRef) (k : Cmd) (hv : HostView) (e : List Byte) (n : Nat) (u : State), s.Ready 0x4004 r k ∧
        theRefusal ((s.meets hv k).atomicFails k) = none ∧ u = ((s.meets hv k).tally false true (k.param 40 8) (24 * k.param 36 4)) ∧
        (s.meets hv k).readStatus (k.param 40 8) (24 * k.param 36 4) = none ∧ u.atomicTable k = [(0, e)] ∧
        u.atomicEntryFails k (fieldAt e 0 8) = none ∧ k.param 48 8 = 0 ∧ (n = (if k.param 33 1 = 1 then 8 else 4)) ∧
        u.readStatus (fieldAt e 0 8) n = none ∧ (u.tally false true (fieldAt e 0 8) n).writeStatus (fieldAt e 0 8) n = none) :=
  ⟨⟨ber, 0, (0x1000), 8, (basinBase + 0x1000), by decide +kernel⟩,
   ⟨ber, 0, (0x1000), [1,2,3,4], (basinBase + 0x1000), by decide +kernel⟩,
   ⟨ber, 0, (0x1000), AtomicOp.fetchAdd, ([5,0,0,0] : List Byte), (basinBase + 0x1000), 4, by decide +kernel⟩,
   ⟨(on (ber.placed 0x4000 (leBytes 8 0x8000 ++ leBytes 8 5 ++ leBytes 8 0)) (wc 0x4004 [(32,1,0),(36,4,1),(40,8,0x4000)])), ⟨1, 7⟩,
    (wc 0x4004 [(32,1,0),(36,4,1),(40,8,0x4000)]), noHost, by unfold State.Ready; decide +kernel⟩,
   ⟨(on (ber.placed 0x4000 (leBytes 8 0x8000 ++ leBytes 8 5 ++ leBytes 8 0)) (wc 0x4004 [(32,1,0),(36,4,1),(40,8,0x4000)])), ⟨1, 7⟩,
    (wc 0x4004 [(32,1,0),(36,4,1),(40,8,0x4000)]), noHost, leBytes 8 0x8000 ++ leBytes 8 5 ++ leBytes 8 0, 4,
    ((((on (ber.placed 0x4000 (leBytes 8 0x8000 ++ leBytes 8 5 ++ leBytes 8 0)) (wc 0x4004 [(32,1,0),(36,4,1),(40,8,0x4000)]))).sees noHost).actAs ((wc 0x4004 [(32,1,0),(36,4,1),(40,8,0x4000)]))).tally false true 0x4000 24,
    by unfold State.Ready; decide +kernel⟩⟩

/-- MoveCommandsComplete: what its clauses ask, met clause by clause (move, initFill, narrowGather, narrowScatter). -/
theorem witness_MoveCommandsComplete :
    (∃ (s : State) (r : CmdRef) (k : Cmd) (hv : HostView) (bs : List Barge), s.Ready 0x4000 r k ∧
        theRefusal ((s.meets hv k).moveFails k) = none ∧ (s.meets hv k).readStatus (k.param 40 8) (64 * k.param 32 4) = none ∧
        (bs = ((List.range (k.param 32 4)).map fun i => ((s.meets hv k).tally false true (k.param 40 8) (64 * k.param 32 4)).bytesAt (k.param 40 8 + 64 * i) 64).map (readBarge (tableTile ((List.range (k.param 32 4)).map fun i => ((s.meets hv k).tally false true (k.param 40 8) (64 * k.param 32 4)).bytesAt (k.param 40 8 + 64 * i) 64)))) ∧
        ((s.meets hv k).tally false true (k.param 40 8) (64 * k.param 32 4)).firstBadBarge k 0 bs = none)
    ∧ (∃ (s : State) (r : CmdRef) (k : Cmd) (hv : HostView), s.Ready 0x4001 r k ∧ theRefusal ((s.meets hv k).fillFails k) = none ∧
        k.param 40 8 = 0)
    ∧ (∃ (s : State) (r : CmdRef) (k : Cmd) (hv : HostView), s.Ready 0x4001 r k ∧ theRefusal ((s.meets hv k).fillFails k) = none ∧
        (k.param 40 8 ≠ 0) ∧ (s.meets hv k).touchesLost (k.param 32 8) (k.param 40 8) = false)
    ∧ (∃ (s : State) (r : CmdRef) (k : Cmd) (hv : HostView), s.Ready 0x4002 r k ∧ theRefusal ((s.meets hv k).narrowFails k) = none ∧
        k.narrow.count = 0)
    ∧ (∃ (s : State) (r : CmdRef) (k : Cmd) (hv : HostView), s.Ready 0x4002 r k ∧ theRefusal ((s.meets hv k).narrowFails k) = none ∧
        (k.narrow.count ≠ 0) ∧ (s.meets hv k).readStatus k.narrow.index (k.narrow.idxBytes * k.narrow.count) = none ∧
        ((∀ e ∈ (s.meets hv k).elements k.narrow, (s.meets hv k).elementFails k k.narrow e.2 = none)) ∧
        narrowMeets k.narrow ((s.meets hv k).elements k.narrow) = false)
    ∧ (∃ (s : State) (r : CmdRef) (k : Cmd) (hv : HostView), s.Ready 0x4003 r k ∧ theRefusal ((s.meets hv k).narrowFails k) = none ∧
        k.narrow.count = 0)
    ∧ (∃ (s : State) (r : CmdRef) (k : Cmd) (hv : HostView), s.Ready 0x4003 r k ∧ theRefusal ((s.meets hv k).narrowFails k) = none ∧
        (k.narrow.count ≠ 0) ∧ (s.meets hv k).readStatus k.narrow.index (k.narrow.idxBytes * k.narrow.count) = none ∧
        ((∀ e ∈ (s.meets hv k).elements k.narrow, (s.meets hv k).elementFails k k.narrow e.2 = none)) ∧
        narrowMeets k.narrow ((s.meets hv k).elements k.narrow) = false) :=
  ⟨⟨(on (ber.placed 0x4000 (leBytes 8 0x8000 ++ leBytes 8 0xC000 ++ leBytes 4 64 ++ leBytes 4 1 ++ leBytes 8 64 ++ leBytes 8 64 ++ zeros 24)) (wc 0x4000 [(32,4,1),(40,8,0x4000)])),
    ⟨1, 7⟩, (wc 0x4000 [(32,4,1),(40,8,0x4000)]), noHost,
    ((List.range (((wc 0x4000 [(32,4,1),(40,8,0x4000)])).param 32 4)).map fun i => (((on (ber.placed 0x4000 (leBytes 8 0x8000 ++ leBytes 8 0xC000 ++ leBytes 4 64 ++ leBytes 4 1 ++ leBytes 8 64 ++ leBytes 8 64 ++ zeros 24)) (wc 0x4000 [(32,4,1),(40,8,0x4000)]))).sees noHost).bytesAt (((wc 0x4000 [(32,4,1),(40,8,0x4000)])).param 40 8 + 64 * i) 64).map (readBarge (tableTile ((List.range (((wc 0x4000 [(32,4,1),(40,8,0x4000)])).param 32 4)).map fun i => (((on (ber.placed 0x4000 (leBytes 8 0x8000 ++ leBytes 8 0xC000 ++ leBytes 4 64 ++ leBytes 4 1 ++ leBytes 8 64 ++ leBytes 8 64 ++ zeros 24)) (wc 0x4000 [(32,4,1),(40,8,0x4000)]))).sees noHost).bytesAt (((wc 0x4000 [(32,4,1),(40,8,0x4000)])).param 40 8 + 64 * i) 64))),
    by unfold State.Ready; decide +kernel⟩,
   ⟨(on ber (wc 0x4001 [(32,8,0x4000),(40,8,0)])), ⟨1, 7⟩, (wc 0x4001 [(32,8,0x4000),(40,8,0)]), noHost,
    by unfold State.Ready; decide +kernel⟩,
   ⟨(on ber (wc 0x4001 [(32,8,0x4000),(40,8,64),(48,8,7)])), ⟨1, 7⟩, (wc 0x4001 [(32,8,0x4000),(40,8,64),(48,8,7)]), noHost,
    by unfold State.Ready; decide +kernel⟩,
   ⟨(on ber (wc 0x4002 [(32,1,0),(33,1,0x11),(36,4,0),(40,8,0x8000),(48,8,8),(56,8,0x4000),(64,8,0xC000)])), ⟨1, 7⟩,
    (wc 0x4002 [(32,1,0),(33,1,0x11),(36,4,0),(40,8,0x8000),(48,8,8),(56,8,0x4000),(64,8,0xC000)]), noHost,
    by unfold State.Ready; decide +kernel⟩,
   ⟨(on (ber.placed 0x4000 (leBytes 4 3)) (wc 0x4002 [(32,1,0),(33,1,0x11),(36,4,1),(40,8,0x8000),(48,8,8),(56,8,0x4000),(64,8,0xC000)])),
    ⟨1, 7⟩, (wc 0x4002 [(32,1,0),(33,1,0x11),(36,4,1),(40,8,0x8000),(48,8,8),(56,8,0x4000),(64,8,0xC000)]), noHost,
    by unfold State.Ready; decide +kernel⟩,
   ⟨(on ber (wc 0x4003 [(32,1,0),(33,1,0x11),(36,4,0),(40,8,0x8000),(48,8,8),(56,8,0x4000),(64,8,0xC000)])), ⟨1, 7⟩,
    (wc 0x4003 [(32,1,0),(33,1,0x11),(36,4,0),(40,8,0x8000),(48,8,8),(56,8,0x4000),(64,8,0xC000)]), noHost,
    by unfold State.Ready; decide +kernel⟩,
   ⟨(on (ber.placed 0x4000 (leBytes 4 3)) (wc 0x4003 [(32,1,0),(33,1,0x11),(36,4,1),(40,8,0x8000),(48,8,8),(56,8,0x4000),(64,8,0xC000)])),
    ⟨1, 7⟩, (wc 0x4003 [(32,1,0),(33,1,0x11),(36,4,1),(40,8,0x8000),(48,8,8),(56,8,0x4000),(64,8,0xC000)]), noHost,
    by unfold State.Ready; decide +kernel⟩⟩

/-- QueueRegistersAct: what its clauses ask, met clause by clause (sqTailWrite, cqHeadWrite, queueReset, queueFence, hello). -/
theorem witness_QueueRegistersAct :
    (∃ (s : State) (fn : Nat) (q : Nat) (v : Word) (k : Queue), s.pcieUp = true ∧ (lookup fn s.hellos).isSome = true ∧
        s.pageLive fn q = some k ∧ k.badTail v.toNat = false)
    ∧ (∃ (s : State) (fn : Nat) (q : Nat) (v : Word) (k : Queue), s.pcieUp = true ∧ (lookup fn s.hellos).isSome = true ∧
        s.pageLive fn q = some k ∧ k.badHead v.toNat = false ∧ s.reports = [])
    ∧ (∃ (s : State) (fn : Nat) (q : Nat) (k : Queue), s.pcieUp = true ∧ s.pageLive fn q = some k ∧ s.inflightOf q = 0)
    ∧ (∃ (s : State) (q : Nat) (now : Nat) (k : Queue), lookup q s.queues = some k ∧ (s.at now).fenceDue k = true ∧ (k.status ≠ .fenced))
    ∧ (∃ (s : State) (fn : Nat) (v : Word), s.pcieUp = true ∧ v.toNat.testBit 0 = true ∧ s.power.booting = .none ∧
        s.helloFails fn (s.helloRequest fn) = none) :=
  ⟨⟨{ act with queues := [(5, aQueue)], hellos := [(0, (⟨1, 0⟩ : Hello))] }, 0, 5, 1, aQueue, by decide +kernel⟩,
   ⟨{ act with queues := [(5, aQueue)], hellos := [(0, (⟨1, 0⟩ : Hello))] }, 0, 5, 0, aQueue, by decide +kernel⟩,
   ⟨{ act with queues := [(5, aQueue)] }, 0, 5, aQueue, by decide +kernel⟩,
   ⟨{ act with queues := [(5, { aQueue with badAt := List.replicate 16 0 })] }, 5, 5, { aQueue with badAt := List.replicate 16 0 },
    by decide +kernel⟩,
   ⟨(regsOf act [(helloBase 0 + 0x240, 0x01000100), (helloBase 0 + 0x240 + 40, 0x00400606)]), 0, 1, by decide +kernel⟩⟩

/-- QueueServiceCompletes: what its clauses ask, met clause by clause (fencedCommandStart, commandTimeout, packetFetch, commandCompletion). -/
theorem witness_QueueServiceCompletes :
    (∃ (s : State) (c : CmdRef) (d : Cmd), s.cmd c = some d ∧ d.stage = .held ∧ fenceHolds (s.earlier c) d = false)
    ∧ (∃ (s : State) (c : CmdRef) (now : Nat) (d : Cmd) (dl : Nat), s.cmd c = some d ∧ d.deadline = some dl ∧
        (s.at now).expired dl = true ∧ (s.at now).pausedOn d = false ∧ d.stage = .held ∧ (d.opcode / 0x1000 ≠ 5))
    ∧ (∃ (s : State) (q : Nat) (now : Nat) (hv : HostView) (k : Queue) (z : State) (p : List Byte), s.pcieUp = true ∧
        z = (s.at now).sees hv ∧ lookup q s.queues = some k ∧ basinRing k.sqBase = false ∧ z.fetchable q k = true ∧ z.marking = false ∧
        z.inflight.length < 4096 ∧ k.round < k.weight ∧ (z.slots k k.head 1).2 = false ∧
        p = (z.slots k k.head (fieldAt (z.slots k k.head 1).1 2 1)).1 ∧ (z.slots k k.head (fieldAt (z.slots k k.head 1).1 2 1)).2 = false ∧
        1 ≤ fieldAt (z.slots k k.head 1).1 2 1 ∧ fieldAt (z.slots k k.head 1).1 2 1 ≤ 16 ∧
        z.quiesceStops q k (fieldAt p 0 2) (fieldAt p 14 1) = false ∧ z.bookHolds (queueHub q) p.length = false ∧
        z.packetFails deepChecks q k p = none ∧ s.cmd ⟨q, fieldAt p 4 4⟩ = none ∧ ((∀ d ∈ s.inflight, d.queue = q → d.opcode ≠ 0x1002)) ∧
        z.acceptFails k p = none)
    ∧ (∃ (s : State) (c : CmdRef) (now : Nat) (hv : HostView) (d : Cmd) (k : Queue), s.doneCmd c = some d ∧
        lookup d.queue s.queues = some k ∧ k.status = .active ∧ k.cqFull = false ∧ basinRing k.cqBase = false ∧
        ((s.at now).sees hv).hostFails (k.cqBase + k.cqNext * 32) 32 = false ∧ s.recording = false ∧ ((∀ x ∈ s.inflight,
        x.stage ≠ .waiting))) :=
  ⟨⟨(on act { wc 0 [] with stage := .held }), (⟨1, 7⟩ : CmdRef), { wc 0 [] with stage := .held }, by decide +kernel⟩,
   ⟨(on act { wc 0 [] with stage := .held, deadline := some 5 }), (⟨1, 7⟩ : CmdRef), (10 ^ 15),
    { wc 0 [] with stage := .held, deadline := some 5 }, 5, by decide +kernel⟩,
   ⟨{ ber with queues := [(5, { aQueue with tail := 1 })], hellos := [(0, (⟨1, 0⟩ : Hello))], sec := { ber.sec with fuseLog := [1, 2] } },
    5, 0, ⟨(List.range 32).map fun i => (i,
    ((slice (leBytes 2 0 ++ leBytes 1 1 ++ leBytes 1 0 ++ leBytes 4 9 ++ zeros 7 ++ [1]) 0 32)).getD i 0), []⟩, { aQueue with tail := 1 },
    ((({ ber with queues := [(5, { aQueue with tail := 1 })], hellos := [(0, (⟨1, 0⟩ : Hello))], sec := { ber.sec with fuseLog := [1, 2] } }).at (0)).sees (⟨(List.range 32).map fun i => (i,
    ((slice (leBytes 2 0 ++ leBytes 1 1 ++ leBytes 1 0 ++ leBytes 4 9 ++ zeros 7 ++ [1]) 0 32)).getD i 0), []⟩)),
    ((((({ ber with queues := [(5, { aQueue with tail := 1 })], hellos := [(0, (⟨1, 0⟩ : Hello))], sec := { ber.sec with fuseLog := [1, 2] } }).at (0)).sees (⟨(List.range 32).map fun i => (i,
    ((slice (leBytes 2 0 ++ leBytes 1 1 ++ leBytes 1 0 ++ leBytes 4 9 ++ zeros 7 ++ [1]) 0 32)).getD i 0),
    []⟩))).slots ({ aQueue with tail := 1 }) ({ aQueue with tail := 1 }).head (fieldAt ((((({ ber with queues := [(5, { aQueue with tail := 1 })], hellos := [(0, (⟨1, 0⟩ : Hello))], sec := { ber.sec with fuseLog := [1, 2] } }).at (0)).sees (⟨(List.range 32).map fun i => (i,
    ((slice (leBytes 2 0 ++ leBytes 1 1 ++ leBytes 1 0 ++ leBytes 4 9 ++ zeros 7 ++ [1]) 0 32)).getD i 0),
    []⟩))).slots ({ aQueue with tail := 1 }) ({ aQueue with tail := 1 }).head 1).1 2 1)).1, by decide +kernel⟩,
   ⟨{ (on act { wc 0 [] with stage := .done }) with queues := [(1, aQueue)] }, (⟨1, 7⟩ : CmdRef), (10 ^ 15), noHost,
    { wc 0 [] with stage := .done }, aQueue, by decide +kernel⟩⟩

/-- LockageCommandsComplete: what its clauses ask, met clause by clause (stage, check, commit, abandon, commitInstant, chamberStatusRead, stagingWindowWrite). -/
theorem witness_LockageCommandsComplete :
    (∃ (s : State) (r : CmdRef) (k : Cmd), s.Ready 0x1000 r k ∧ (s.chamber.state ≠ .committing))
    ∧ (∃ (s : State) (r : CmdRef) (k : Cmd) (hv : HostView), s.Ready 0x1001 r k ∧ (s.chamber.state ≠ .committing) ∧
        (s.meets hv k).checkFails s.chamber.entries true = none)
    ∧ (∃ (s : State) (r : CmdRef) (k : Cmd), s.Ready 0x1002 r k ∧ s.chamber.state = ChamberState.checked ∧ s.commitCount = s.checkedAt)
    ∧ (∃ (s : State) (r : CmdRef) (k : Cmd), s.Ready 0x1003 r k ∧ (s.chamber.state ≠ .committing))
    ∧ (∃ (s : State) (now : Nat) (hv : HostView) (r : CmdRef) (w : WaitingCommit) (rest : List WaitingCommit), s.commits = w :: rest ∧
        w.owner = .host r ∧ ((s.at now).sees hv).olderGoneBut (some r) = true ∧ s.commitCount = s.checkedAt)
    ∧ (∃ (s : State), s.pcieUp = true)
    ∧ (∃ (s : State) (addr : Nat), s.pcieUp = true ∧ addr % 4 = 0 ∧ inStaging addr = true ∧ (s.chamber.state ≠ .committing)) :=
  ⟨⟨(on act (wc 0x1000 [(32,2,3),(34,1,1),(40,8,5)])), ⟨1, 7⟩, (wc 0x1000 [(32,2,3),(34,1,1),(40,8,5)]),
    by unfold State.Ready; decide +kernel⟩,
   ⟨(on act (wc 0x1001 [])), ⟨1, 7⟩, (wc 0x1001 []), noHost, by unfold State.Ready; decide +kernel⟩,
   ⟨(on { act with chamber := { act.chamber with state := .checked } } (wc 0x1002 [])), ⟨1, 7⟩, (wc 0x1002 []),
    by unfold State.Ready; decide +kernel⟩,
   ⟨(on act (wc 0x1003 [])), ⟨1, 7⟩, (wc 0x1003 []), by unfold State.Ready; decide +kernel⟩,
   ⟨{ (on act (running (wc 0x1002 []))) with commits := [⟨.host ⟨1, 7⟩, []⟩], chamber := { act.chamber with state := .committing } },
    (10 ^ 15), noHost, (⟨1, 7⟩ : CmdRef), (⟨.host ⟨1, 7⟩, []⟩ : WaitingCommit), ([] : List WaitingCommit), by decide +kernel⟩,
   ⟨act, by decide +kernel⟩,
   ⟨act, (0x100004), by decide +kernel⟩⟩

/-- PortControlsComplete: what its clauses ask, met clause by clause (portRetrain, portUnfence, portHold, portRelease, bringUpStart, laneJudgeDone, laneFail, identTimeout, bringUpRetry). -/
theorem witness_PortControlsComplete :
    (∃ (s : State) (p : Nat), s.pcieUp = true ∧ p < 8 ∧ (s.port p).state = 0 ∧ s.mayBringUp p = true)
    ∧ (∃ (s : State) (p : Nat), s.pcieUp = true ∧ p < 8 ∧ (s.port p).state = 6)
    ∧ (∃ (s : State) (p : Nat), s.pcieUp = true ∧ p < 8 ∧ [0, 1, 2, 5, 6].contains (s.port p).state = true)
    ∧ (∃ (s : State) (p : Nat), s.pcieUp = true ∧ p < 8 ∧ (s.port p).state = 7)
    ∧ (∃ (s : State) (p : Nat) (now : Nat), (s.at now).mayBringUp p = true ∧ (((s.port p).state = 0 ∨ (s.port p).state = 1)) ∧
        (s.port p).retryAt = none)
    ∧ (∃ (s : State) (p : Nat) (good : Nat) (now : Nat), good < 2 ^ 64 ∧ (s.port p).state = 2 ∧ (s.port p).phase = 1 ∧
        (s.port p).since + msec ≤ (s.at now).now ∧ (s.port p).widthSeen = false ∧ (widthOf good ≠ 0))
    ∧ (∃ (s : State) (p : Nat) (lane : Nat), (s.port p).state = 3 ∧ (s.port p).retrain = none ∧ lane < 64 ∧
        (s.reg64 (blkPort p + 0x20)).testBit lane = true ∧
        (min (widthOf (putBit (s.reg64 (blkPort p + 0x20)) lane false)) (s.port p).rxWidth ≠ 0))
    ∧ (∃ (s : State) (p : Nat) (now : Nat), (s.port p).state = 2 ∧ (s.port p).phase ≤ 3 ∧ (s.port p).since + 100 * msec ≤ (s.at now).now)
    ∧ (∃ (s : State) (p : Nat) (now : Nat) (x : Nat), (s.port p).retryAt = some x ∧ x ≤ (s.at now).now ∧ (s.at now).mayBringUp p = true ∧
        (((s.port p).state = 0 ∨ (s.port p).state = 1))) :=
  ⟨⟨{ wired with clock := { wired.clock with time := 10 ^ 15 } }, 0, by decide +kernel⟩,
   ⟨(port0 wired { Port.reset with state := 6 }), 0, by decide +kernel⟩,
   ⟨(port0 wired { Port.reset with state := 6 }), 0, by decide +kernel⟩,
   ⟨(port0 wired { Port.reset with state := 7 }), 0, by decide +kernel⟩,
   ⟨wired, 0, (10 ^ 15), by decide +kernel⟩,
   ⟨(port0 wired { Port.reset with state := 2, phase := 1 }), 0, (2 ^ 64 - 1), (10 ^ 15), by decide +kernel⟩,
   ⟨((port0 wired { Port.reset with state := 3, rxWidth := 64 }).set64 (blkPort 0 + 0x20) (2 ^ 64 - 1)), 0, 63, by decide +kernel⟩,
   ⟨(port0 wired { Port.reset with state := 2, phase := 3 }), 0, (10 ^ 15), by decide +kernel⟩,
   ⟨(port0 wired { Port.reset with retryAt := some 5 }), 0, (10 ^ 15), 5, by decide +kernel⟩⟩

/-- FlitsAreTakenUp: what its clauses ask, met clause by clause (widthFlit, identFlit, creditInitFlit, retrainFlit, idleFlit, dataFlit). -/
theorem witness_FlitsAreTakenUp :
    (∃ (s : State) (p : Nat) (bytes : List Byte) (now : Nat), (s.at now).receives p = true ∧ flitGood bytes = true ∧
        (flitOf bytes).kind = kindWidth ∧ malformed (flitOf bytes) = false ∧ (s.port p).state = 2 ∧ (s.port p).phase = 1 ∧
        (widthOf (fieldAt (flitOf bytes).payload 0 8) ≠ 0))
    ∧ (∃ (s : State) (p : Nat) (bytes : List Byte) (now : Nat), (s.at now).receives p = true ∧ flitGood bytes = true ∧
        (flitOf bytes).kind = kindIdent ∧ malformed (flitOf bytes) = false ∧ (s.port p).state = 2 ∧ (s.port p).phase = 3 ∧
        (flitOf bytes).seq = (s.port p).expect ∧ (s.port p).expect < 65536 ∧ (flitOf bytes).flags = 0 ∧ (flitOf bytes).credit = 0 ∧
        (s.port p).waiting = [] ∧ s.colls = [] ∧ (agreedRevision ((s.at now).ownIdent p) (identOf (flitOf bytes).payload) ≠ none))
    ∧ (∃ (s : State) (p : Nat) (bytes : List Byte) (now : Nat), (s.at now).receives p = true ∧ flitGood bytes = true ∧
        (flitOf bytes).kind = kindIdent ∧ malformed (flitOf bytes) = false ∧ (s.port p).state = 2 ∧ (s.port p).phase = 3 ∧
        (flitOf bytes).seq = (s.port p).expect ∧ (s.port p).expect < 65536 ∧ (flitOf bytes).flags = 0 ∧ (flitOf bytes).credit = 0 ∧
        (s.port p).waiting = [] ∧ s.colls = [] ∧ agreedRevision ((s.at now).ownIdent p) (identOf (flitOf bytes).payload) = none)
    ∧ (∃ (s : State) (p : Nat) (bytes : List Byte) (now : Nat), (s.at now).receives p = true ∧ flitGood bytes = true ∧
        (flitOf bytes).kind = kindCreditInit ∧ malformed (flitOf bytes) = false ∧ (s.port p).state = 2 ∧ (s.port p).phase = 4 ∧
        (flitOf bytes).seq = (s.port p).expect ∧ (s.port p).expect < 65536 ∧ (flitOf bytes).flags = 0 ∧ (flitOf bytes).credit = 0 ∧
        (s.port p).waiting = [] ∧ s.colls = [])
    ∧ (∃ (s : State) (p : Nat) (bytes : List Byte) (now : Nat), (s.at now).receives p = true ∧ flitGood bytes = true ∧
        (flitOf bytes).kind = kindRetrain ∧ malformed (flitOf bytes) = false ∧ (s.port p).state = 3 ∧ (s.port p).retrain = none ∧
        (flitOf bytes).seq = (s.port p).expect ∧ (s.port p).expect < 65536 ∧ (flitOf bytes).flags = 0 ∧ (flitOf bytes).credit = 0 ∧
        (s.port p).waiting = [] ∧ s.colls = [])
    ∧ (∃ (s : State) (p : Nat) (bytes : List Byte) (now : Nat), (s.at now).receives p = true ∧ flitGood bytes = true ∧
        (flitOf bytes).kind = 0 ∧ malformed (flitOf bytes) = false ∧ (s.port p).state = 3 ∧ (flitOf bytes).seq = (s.port p).expect ∧
        (s.port p).expect < 65536 ∧ (flitOf bytes).flags = 0 ∧ (flitOf bytes).credit = 0 ∧ (s.port p).waiting = [] ∧ s.colls = [])
    ∧ (∃ (s : State) (p : Nat) (bytes : List Byte) (now : Nat), (s.at now).receives p = true ∧ flitGood bytes = true ∧
        (flitOf bytes).kind = kindData ∧ malformed (flitOf bytes) = false ∧ (s.port p).state = 3 ∧ (flitOf bytes).seq = (s.port p).expect ∧
        (s.port p).expect < 65536 ∧ (flitOf bytes).flags = 0 ∧ (flitOf bytes).credit = 0 ∧ (s.port p).waiting = [] ∧ s.colls = []) :=
  ⟨⟨(port0 wired { Port.reset with state := 2, phase := 1 }), 0, (flitBytes 0 0 3 0 (leBytes 8 (2 ^ 64 - 1))), (10 ^ 15),
    by decide +kernel, flitBytes_good, by decide +kernel⟩,
   ⟨(port0 wired { Port.reset with state := 2, phase := 3 }), 0,
    (flitBytes 0 0 2 0 (((port0 wired { Port.reset with state := 2, phase := 3 })).ownIdent 1).bytes), (10 ^ 15), by decide +kernel,
    flitBytes_good, by decide +kernel⟩,
   ⟨(port0 wired { Port.reset with state := 2, phase := 3 }), 0, (flitBytes 0 0 2 0 (leBytes 2 0x200 ++ leBytes 2 0x300)), (10 ^ 15),
    by decide +kernel, flitBytes_good, by decide +kernel⟩,
   ⟨(port0 wired { Port.reset with state := 2, phase := 4, identity := some (wired.ownIdent 1) }), 0,
    (flitBytes 0 0 4 0 (zeros 30 ++ leBytes 2 100)), (10 ^ 15), by decide +kernel, flitBytes_good, by decide +kernel⟩,
   ⟨(port0 wired { Port.reset with state := 3, rxWidth := 64 }), 0, (flitBytes 0 0 5 0 []), (10 ^ 15), by decide +kernel, flitBytes_good,
    by decide +kernel⟩,
   ⟨(port0 wired { Port.reset with state := 3 }), 0, (flitBytes 0 0 0 0 []), (10 ^ 15), by decide +kernel, flitBytes_good,
    by decide +kernel⟩,
   ⟨(port0 wired { Port.reset with state := 3 }), 0, (flitBytes 0 2 1 1 []), (10 ^ 15), by decide +kernel, flitBytes_good,
    by decide +kernel⟩⟩

/-- LinkFaultsComplete: what its clauses ask, met clause by clause (flitCrcFailure, nakRepeat, nakLimit, ackStall, retrainDone, linkSilence, laserFeedReading, portFence, vcRepartition). -/
theorem witness_LinkFaultsComplete :
    (∃ (s : State) (p : Nat) (now : Nat), (s.at now).receives p = true ∧ (s.port p).state = 3 ∧ (s.port p).nakFrom = none)
    ∧ (∃ (s : State) (p : Nat) (now : Nat) (x : Nat), (s.port p).nakFrom = some x ∧ (s.at now).receives p = true ∧
        x + 2 * usec ≤ (s.at now).now)
    ∧ (∃ (s : State) (p : Nat), 16 ≤ (s.port p).nakCount ∧ (s.port p).state = 3 ∧ (s.port p).retrain = none)
    ∧ (∃ (s : State) (p : Nat) (now : Nat), ((s.port p).kept ≠ []) ∧ (s.port p).ackAt + 100 * usec ≤ (s.at now).now ∧
        (s.port p).state = 3 ∧ (s.port p).retrain = none)
    ∧ (∃ (s : State) (p : Nat) (good : Nat) (x : Nat), (s.port p).state = 3 ∧ (s.port p).retrain = some x ∧
        widthOf good = (s.port p).rxWidth ∧ ((s.port p).rxWidth ≠ 0))
    ∧ (∃ (s : State) (p : Nat) (now : Nat), (s.at now).LinkQuiet p ∧ (((s.port p).state = 3 ∨ (s.port p).state = 4)) ∧
        (s.port p).retrain = none ∧ (s.port p).lastGood + 10 * usec ≤ (s.at now).now)
    ∧ (∃ (s : State) (p : Nat) (reading : Int), p < 8 ∧ (s.port p).state = 3 ∧ 1700 ≤ reading)
    ∧ (∃ (s : State) (p : Nat) (now : Nat), (s.port p).state = 0 ∧
        (64 ≤ ((s.port p).violationsAt.filter fun t => decide ((s.at now).now < t + second)).length))
    ∧ (∃ (s : State) (p : Nat), ((s.port p).repartition ≠ []) ∧
        (((s.port p).repartition.all fun v => (s.port p).heldDed.getD v 0 == 0 && (s.port p).heldShared.getD v 0 == 0) = true) ∧
        (s.port p).state = 3) :=
  ⟨⟨(port0 wired { Port.reset with state := 3 }), 0, (10 ^ 15), by decide +kernel⟩,
   ⟨(port0 wired { Port.reset with state := 3, nakFrom := some 0 }), 0, (10 ^ 15), 0, by decide +kernel⟩,
   ⟨(port0 wired { Port.reset with state := 3, nakCount := 16 }), 0, by decide +kernel⟩,
   ⟨(port0 wired { Port.reset with state := 3, kept := [(flitOf (zeros 256), 0)] }), 0, (10 ^ 15), by decide +kernel⟩,
   ⟨(port0 wired { Port.reset with state := 3, retrain := some 0, rxWidth := 64 }), 0, (2 ^ 64 - 1), 0, by decide +kernel⟩,
   ⟨(port0 wired { Port.reset with state := 3 }), 0, (10 ^ 15), by unfold State.LinkQuiet; decide +kernel⟩,
   ⟨(port0 wired { Port.reset with state := 3 }), 0, 1700, by decide +kernel⟩,
   ⟨(port0 wired { Port.reset with violationsAt := List.replicate 64 5 }), 0, 6, by decide +kernel⟩,
   ⟨(port0 wired { Port.reset with state := 3, repartition := [2] }), 0, by decide +kernel⟩⟩

/-- MessagesAreDelivered: what its clauses ask, met clause by clause (messageDelivered, linkNoticeRestarted, pathBroken, peerSetRequest). -/
theorem witness_MessagesAreDelivered :
    (∃ (s : State) (p : Nat) (m : Msg) (rest : List Msg), (s.port p).arrived = m :: rest ∧ ((m.targetInc = 0 ∨ m.targetInc = s.enlonInc)))
    ∧ (∃ (s : State) (p : Nat) (m : Msg), (((s.port p).inbox.find? fun x => x.cls == 0x0002) = some m) ∧ s.colls = [] ∧ s.turns = [] ∧
        s.sets = [] ∧ s.adapters = [])
    ∧ (∃ (s : State) (p : Nat) (m : Msg), (((s.port p).inbox.find? fun x => x.cls == 0x0001) = some m) ∧ s.colls = [] ∧ s.turns = [] ∧
        s.sets = [] ∧ s.adapters = [])
    ∧ (∃ (s : State) (p : Nat) (m : Msg), (((s.port p).inbox.find? fun x => x.cls == 0x1000) = some m)) :=
  ⟨⟨(port0 wired { Port.reset with arrived := [msgOf 0x0102 5 []] }), 0, (msgOf 0x0102 5 []), ([] : List Msg), by decide +kernel⟩,
   ⟨(port0 wired { Port.reset with inbox := [msgOf 0x0002 0 (zeros 16)] }), 0, (msgOf 0x0002 0 (zeros 16)), by decide +kernel⟩,
   ⟨(port0 wired { Port.reset with inbox := [msgOf 0x0001 0 (zeros 32)] }), 0, (msgOf 0x0001 0 (zeros 32)), by decide +kernel⟩,
   ⟨(port0 wired { Port.reset with inbox := [msgOf 0x1000 0 (zeros 32)] }), 0, (msgOf 0x1000 0 (zeros 32)), by decide +kernel⟩⟩

/-- CollectiveCommandsComplete: what its clauses ask, met clause by clause (gather, reduceScatter, permute, send, recv, vote). -/
theorem witness_CollectiveCommandsComplete :
    (∃ (s : State) (r : CmdRef) (k : Cmd) (hv : HostView), s.Ready 0x5000 r k ∧
        (s.meets hv k).TakesColl k ((s.meets hv k).gatherFails k) ∧
        (s.meets hv k).rangesStatus (arrayRanges (k.param 48 1) (k.param 64 8) 1 (k.param 56 8)) = none ∧ s.members k = 1 ∧
        ((k.param 48 1 = k.param 49 1 ∨ s.beating = true)))
    ∧ (∃ (s : State) (r : CmdRef) (k : Cmd) (hv : HostView), s.Ready 0x5000 r k ∧
        (s.meets hv k).TakesColl k ((s.meets hv k).gatherFails k) ∧
        (s.meets hv k).rangesStatus (arrayRanges (k.param 48 1) (k.param 64 8) 1 (k.param 56 8)) = none ∧ (s.members k ≠ 1) ∧
        ((k.param 48 1 = k.param 49 1 ∨ s.beating = true)))
    ∧ (∃ (s : State) (r : CmdRef) (k : Cmd) (hv : HostView) (b : GtBlock), s.Ready 0x5001 r k ∧
        (s.meets hv k).TakesColl k ((s.meets hv k).reduceFails k) ∧ k.param 33 1 = 0 ∧ k.param 49 1 = 0 ∧ k.param 56 4 = 1 ∧
        k.param 80 8 = 0 ∧ s.members k = 1 ∧ s.me k = 0 ∧ (s.meets hv k).ownBlock k 0 0 = .ok b)
    ∧ (∃ (s : State) (r : CmdRef) (k : Cmd) (hv : HostView) (b : GtBlock), s.Ready 0x5001 r k ∧
        (s.meets hv k).TakesColl k ((s.meets hv k).reduceFails k) ∧ k.param 33 1 = 0 ∧ k.param 49 1 = 0 ∧ k.param 56 4 = 1 ∧
        k.param 80 8 = 0 ∧ (s.members k ≠ 1) ∧ (s.meets hv k).ownBlock k ((s.me k + s.members k - 1) % s.members k) 0 = .ok b)
    ∧ (∃ (s : State) (r : CmdRef) (k : Cmd) (hv : HostView), s.Ready 0x5002 r k ∧
        (s.meets hv k).TakesColl k ((s.meets hv k).permuteFails k) ∧ k.param 48 4 = 0 ∧ (s.meets hv k).rangesStatus [(k.param 56 8,
        32 * k.param 48 4), (k.param 64 8, 16 * k.param 52 4)] = none ∧ theRefusal ((s.meets hv k).permuteTableFails k []) = none ∧
        (k.param 72 8 ≠ 0))
    ∧ (∃ (s : State) (r : CmdRef) (k : Cmd) (hv : HostView) (e : OutPiece), s.Ready 0x5002 r k ∧
        (s.meets hv k).TakesColl k ((s.meets hv k).permuteFails k) ∧ k.param 48 4 = 1 ∧ (s.meets hv k).rangesStatus [(k.param 56 8,
        32 * k.param 48 4), (k.param 64 8, 16 * k.param 52 4)] = none ∧ (s.meets hv k).outPiece (k.param 56 8) 0 = e ∧
        theRefusal ((s.meets hv k).permuteTableFails k [e]) = none ∧ (s.meets hv k).rangesStatus [(e.src, e.bytes)] = none ∧
        s.routePort e.dest = none ∧ k.param 72 8 = e.bytes ∧ (((s.meets hv k).windows k).any (fun w => within e.dst e.bytes w.1 w.2) = true))
    ∧ (∃ (s : State) (r : CmdRef) (k : Cmd) (hv : HostView), s.Ready 0x5003 r k ∧
        (s.meets hv k).TakesColl k ((s.meets hv k).pipeFails k false) ∧ (s.meets hv k).readStatus (k.param 56 8) (k.param 64 8) = none ∧
        s.members k = 1)
    ∧ (∃ (s : State) (r : CmdRef) (k : Cmd) (hv : HostView), s.Ready 0x5003 r k ∧
        (s.meets hv k).TakesColl k ((s.meets hv k).pipeFails k false) ∧ (s.meets hv k).readStatus (k.param 56 8) (k.param 64 8) = none ∧
        (s.members k ≠ 1))
    ∧ (∃ (s : State) (r : CmdRef) (k : Cmd) (hv : HostView), s.Ready 0x5004 r k ∧
        (s.meets hv k).TakesColl k ((s.meets hv k).pipeFails k true))
    ∧ (∃ (s : State) (r : CmdRef) (k : Cmd) (hv : HostView), s.Ready 0x5005 r k ∧
        (s.meets hv k).TakesColl k ((s.meets hv k).voteFails k ++ [(s.meets hv k).voteLinkFails k]) ∧ s.voteMayStart k = true ∧
        s.members k = 1 ∧ (s.group k.group).votes = [])
    ∧ (∃ (s : State) (r : CmdRef) (k : Cmd) (hv : HostView), s.Ready 0x5005 r k ∧
        (s.meets hv k).TakesColl k ((s.meets hv k).voteFails k ++ [(s.meets hv k).voteLinkFails k]) ∧ s.voteMayStart k = true ∧
        1 < s.members k ∧ (s.group k.group).votes = []) :=
  ⟨⟨(on (grouped ber) (wc 0x5000 [(36,4,1),(40,4,1),(48,1,0x01),(49,1,0x01),(56,8,16),(64,8,0x4000),(72,8,0x8000)])), ⟨1, 7⟩,
    (wc 0x5000 [(36,4,1),(40,4,1),(48,1,0x01),(49,1,0x01),(56,8,16),(64,8,0x4000),(72,8,0x8000)]), noHost,
    by unfold State.Ready State.TakesColl; decide +kernel⟩,
   ⟨(on (grouped { wired with ports := [(0, { Port.reset with state := 3 }), (1, { Port.reset with state := 3 })] }) (wc 0x5000 [(36,4,1),(40,4,1),(48,1,0x01),(49,1,0x01),(56,8,16),(64,8,0x4000),(72,8,0x8000)])),
    ⟨1, 7⟩, (wc 0x5000 [(36,4,1),(40,4,1),(48,1,0x01),(49,1,0x01),(56,8,16),(64,8,0x4000),(72,8,0x8000)]), noHost,
    by unfold State.Ready State.TakesColl; decide +kernel⟩,
   ⟨(on ((grouped ber).placed 0x4000 zeroGt) (wc 0x5001 [(36,4,1),(40,4,1),(48,1,0x18),(56,4,1),(64,8,0x4000),(72,8,0x8000)])), ⟨1, 7⟩,
    (wc 0x5001 [(36,4,1),(40,4,1),(48,1,0x18),(56,4,1),(64,8,0x4000),(72,8,0x8000)]), noHost, aBlock,
    by unfold State.Ready State.TakesColl; decide +kernel⟩,
   ⟨(on ((grouped { wired with ports := [(0, { Port.reset with state := 3 }), (1, { Port.reset with state := 3 })] }).placed 0x4000 (zeroGt ++ zeroGt)) (wc 0x5001 [(36,4,1),(40,4,1),(48,1,0x18),(56,4,1),(64,8,0x4000),(72,8,0x8000)])),
    ⟨1, 7⟩, (wc 0x5001 [(36,4,1),(40,4,1),(48,1,0x18),(56,4,1),(64,8,0x4000),(72,8,0x8000)]), noHost, aBlock,
    by unfold State.Ready State.TakesColl; decide +kernel⟩,
   ⟨(on (grouped { wired with ports := [(0, { Port.reset with state := 3 }), (1, { Port.reset with state := 3 })] }) (wc 0x5002 [(36,4,1),(40,4,1),(72,8,64)])),
    ⟨1, 7⟩, (wc 0x5002 [(36,4,1),(40,4,1),(72,8,64)]), noHost, by unfold State.Ready State.TakesColl; decide +kernel⟩,
   ⟨(on (((grouped ber).placed 0x4000 (leBytes 8 0 ++ leBytes 8 0x8000 ++ leBytes 8 0xC000 ++ leBytes 8 64)).placed 0x5000 (leBytes 8 0xC000 ++ leBytes 8 64)) (wc 0x5002 [(36,4,1),(40,4,1),(48,4,1),(52,4,1),(56,8,0x4000),(64,8,0x5000),(72,8,64)])),
    ⟨1, 7⟩, (wc 0x5002 [(36,4,1),(40,4,1),(48,4,1),(52,4,1),(56,8,0x4000),(64,8,0x5000),(72,8,64)]), noHost, (⟨0, 0, 0x8000, 0xC000,
    64⟩ : OutPiece), by unfold State.Ready State.TakesColl; decide +kernel⟩,
   ⟨(on (grouped ber) (wc 0x5003 [(36,4,1),(40,4,1),(56,8,0x4000),(64,8,64)])), ⟨1, 7⟩,
    (wc 0x5003 [(36,4,1),(40,4,1),(56,8,0x4000),(64,8,64)]), noHost, by unfold State.Ready State.TakesColl; decide +kernel⟩,
   ⟨(on (grouped { wired with ports := [(0, { Port.reset with state := 3 }), (1, { Port.reset with state := 3 })] }) (wc 0x5003 [(36,4,1),(40,4,1),(56,8,0x4000),(64,8,64)])),
    ⟨1, 7⟩, (wc 0x5003 [(36,4,1),(40,4,1),(56,8,0x4000),(64,8,64)]), noHost, by unfold State.Ready State.TakesColl; decide +kernel⟩,
   ⟨(on (grouped { wired with ports := [(0, { Port.reset with state := 3 }), (1, { Port.reset with state := 3 })] }) (wc 0x5004 [(36,4,1),(40,4,1),(56,8,0x4000),(64,8,64)])),
    ⟨1, 7⟩, (wc 0x5004 [(36,4,1),(40,4,1),(56,8,0x4000),(64,8,64)]), noHost, by unfold State.Ready State.TakesColl; decide +kernel⟩,
   ⟨(on (grouped ber) (wc 0x5005 [(36,4,1),(40,4,1),(48,1,1),(51,1,1)])), ⟨1, 7⟩, (wc 0x5005 [(36,4,1),(40,4,1),(48,1,1),(51,1,1)]),
    noHost, by unfold State.Ready State.TakesColl; decide +kernel⟩,
   ⟨(on (grouped { wired with ports := [(0, { Port.reset with state := 3 }), (1, { Port.reset with state := 3 })] }) (wc 0x5005 [(36,4,1),(40,4,1),(48,1,1),(51,1,1)])),
    ⟨1, 7⟩, (wc 0x5005 [(36,4,1),(40,4,1),(48,1,1),(51,1,1)]), noHost, by unfold State.Ready State.TakesColl; decide +kernel⟩⟩

/-- CollectiveEventsComplete: what its clauses ask, met clause by clause (chainMessage, gatherPiece, voteRecord, pipelineMessage, permutePiece, abortNotice, collDeadline). -/
theorem witness_CollectiveEventsComplete :
    (∃ (s : State) (p : Nat) (now : Nat) (m : Msg) (k : Coll) (r : GtBlock) (own : GtBlock) (b : GtBlock),
        (s.at now).Meets p 0x0101 m k ∧ s.beating = true ∧ s.units.upset = [] ∧ m.poison = [] ∧ k.cmd.opcode = 0x5001 ∧ m.prefix.count = 1 ∧
        gtRead (m.prefix.format == 0x19) (slice m.body 16 (strideOf m.prefix.format)) = some r ∧
        ((s.at now).taken p m k).ownBlock k.cmd m.prefix.shard m.prefix.first = .ok own ∧ addChain r own = .ok b ∧
        m.prefix.shard = s.me k.cmd ∧ k.cmd.param 49 1 = 0)
    ∧ (∃ (s : State) (p : Nat) (now : Nat) (m : Msg), (s.at now).collMessage p 0x0101 = some m ∧
        (s.at now).collAt m.prefix.group m.context = none)
    ∧ (∃ (s : State) (p : Nat) (now : Nat) (m : Msg) (k : Coll), (s.at now).Meets p 0x0102 m k ∧
        ((k.cmd.param 52 4 = 0 ∨ fieldAt m.body 16 4 = k.cmd.param 52 4)) ∧ ((k.cmd.param 48 1 = k.cmd.param 49 1 ∨ s.beating = true)) ∧
        m.poison = [])
    ∧ (∃ (s : State) (p : Nat) (now : Nat) (m : Msg), (s.at now).collMessage p 0x0102 = some m ∧
        (s.at now).collAt m.prefix.group m.context = none)
    ∧ (∃ (s : State) (p : Nat) (m : Msg) (k : Coll),
        ((s.port p).inbox.find? (fun m => m.cls == 0x0103 && decide (m.context ≤ (s.group m.prefix.group).lastSeq)) = some m) ∧
        s.voteCarrier m = some k ∧ m.prefix.digest = k.cmd.digest ∧ m.vote.kind = 0 ∧
        ((s.voteKey m.prefix.group 0 m.vote.step m.vote.round).records.any (fun x => x.1 == m.vote.member) = false) ∧
        (s.voteKey m.prefix.group 0 m.vote.step m.vote.round).records.length + 1 < s.members k.cmd)
    ∧ (∃ (s : State) (p : Nat) (m : Msg),
        ((s.port p).inbox.find? (fun m => m.cls == 0x0103 && decide (m.context ≤ (s.group m.prefix.group).lastSeq)) = some m) ∧
        s.voteCarrier m = none ∧ (s.group m.prefix.group).votes = [])
    ∧ (∃ (s : State) (p : Nat) (now : Nat) (m : Msg) (k : Coll) (d : Cmd), (s.at now).Meets p 0x0104 m k ∧ k.cmd.opcode = 0x5004 ∧
        s.dirPort k.cmd = p ∧ m.body.length = k.cmd.param 64 8 + 16 ∧ m.poison = [] ∧ s.cmd k.cmd.ref = some d)
    ∧ (∃ (s : State) (p : Nat) (now : Nat) (m : Msg) (k : Coll), (s.at now).Meets p 0x0105 m k ∧ m.poison = [] ∧
        ((((s.at now).taken p m k).windows k.cmd).any (fun w => within (fieldAt m.body 16 8) (m.body.drop 24).length w.1 w.2) = true))
    ∧ (∃ (s : State) (p : Nat) (now : Nat) (m : Msg) (k : Coll), (s.at now).Meets p 0x0105 m k ∧
        ((((s.at now).taken p m k).windows k.cmd).any (fun w => within (fieldAt m.body 16 8) (m.body.drop 24).length w.1 w.2) = false))
    ∧ (∃ (s : State) (p : Nat) (m : Msg), ((s.port p).inbox.find? (fun m => m.cls == 0x0110) = some m) ∧ s.colls = [] ∧
        (s.group (fieldAt m.body 4 1)).lastSeq < fieldAt m.body 16 4)
    ∧ (∃ (s : State) (p : Nat) (m : Msg) (k : Coll) (d : Cmd), ((s.port p).inbox.find? (fun m => m.cls == 0x0110) = some m) ∧
        s.colls = [k] ∧ k.ended = none ∧ k.owner = CollOwner.command ∧ k.cmd.group = fieldAt m.body 4 1 ∧
        k.cmd.collSeq = fieldAt m.body 16 4 ∧ (k.cmd.opcode ≠ 0x5003) ∧ s.cmd k.cmd.ref = some d)
    ∧ (∃ (s : State) (g : Nat) (seq : Nat) (now : Nat) (k : Coll) (d : Cmd), s.colls = [k] ∧ k.cmd.group = g ∧ k.cmd.collSeq = seq ∧
        k.ended = none ∧ k.owner = CollOwner.command ∧ s.cmd k.cmd.ref = some d ∧
        (s.at now).expired (k.lastAt + s.collDeadline k.cmd) = true) :=
  ⟨⟨(State.placed ({ (grouped wired) with ports := [(0, { Port.reset with state := 3, inbox := [(msgOf 0x0101 1 ((leBytes 4 (running (wc 0x5001 [(36,4,1),(40,4,1),(48,1,0x18),(56,4,1),(64,8,0x4000),(72,8,0x8000)])).digest ++ (leBytes 1 0 ++ leBytes 1 0x18 ++ leBytes 2 0 ++ leBytes 4 0 ++ leBytes 4 1)) ++ zeroGt))] }), (1, { Port.reset with state := 3 })] , colls := [collOf (running (wc 0x5001 [(36,4,1),(40,4,1),(48,1,0x18),(56,4,1),(64,8,0x4000),(72,8,0x8000)]))], inflight := [(running (wc 0x5001 [(36,4,1),(40,4,1),(48,1,0x18),(56,4,1),(64,8,0x4000),(72,8,0x8000)]))]  }) 0x4000 (zeroGt ++ zeroGt)),
    0, (10 ^ 15),
    (msgOf 0x0101 1 ((leBytes 4 (running (wc 0x5001 [(36,4,1),(40,4,1),(48,1,0x18),(56,4,1),(64,8,0x4000),(72,8,0x8000)])).digest ++ (leBytes 1 0 ++ leBytes 1 0x18 ++ leBytes 2 0 ++ leBytes 4 0 ++ leBytes 4 1)) ++ zeroGt)),
    (collOf (running (wc 0x5001 [(36,4,1),(40,4,1),(48,1,0x18),(56,4,1),(64,8,0x4000),(72,8,0x8000)]))), aBlock, aBlock,
    (match addChain (aBlock) (aBlock) with | .ok x => x | _ => (aBlock)), by unfold State.Meets; decide +kernel⟩,
   ⟨{ { (grouped wired) with groups := [(0, { CollGroup.reset with lastSeq := 5 })] } with ports := [(0, { Port.reset with state := 3, inbox := [(msgOf 0x0101 1 (zeros 84))] }), (1, { Port.reset with state := 3 })]  },
    0, (10 ^ 15), (msgOf 0x0101 1 (zeros 84)), by decide +kernel⟩,
   ⟨{ (grouped wired) with ports := [(0, { Port.reset with state := 3, inbox := [(msgOf 0x0102 1 ((leBytes 4 (running (wc 0x5000 [(36,4,1),(40,4,1),(48,1,0x01),(49,1,0x01),(56,8,4),(64,8,0x4000),(72,8,0x8000)])).digest ++ (leBytes 1 0 ++ leBytes 1 1 ++ leBytes 2 1 ++ leBytes 4 0 ++ leBytes 4 4)) ++ (leBytes 4 0 ++ zeros 16)))] }), (1, { Port.reset with state := 3 })] , colls := [collOf (running (wc 0x5000 [(36,4,1),(40,4,1),(48,1,0x01),(49,1,0x01),(56,8,4),(64,8,0x4000),(72,8,0x8000)]))], inflight := [(running (wc 0x5000 [(36,4,1),(40,4,1),(48,1,0x01),(49,1,0x01),(56,8,4),(64,8,0x4000),(72,8,0x8000)]))]  },
    0, (10 ^ 15),
    (msgOf 0x0102 1 ((leBytes 4 (running (wc 0x5000 [(36,4,1),(40,4,1),(48,1,0x01),(49,1,0x01),(56,8,4),(64,8,0x4000),(72,8,0x8000)])).digest ++ (leBytes 1 0 ++ leBytes 1 1 ++ leBytes 2 1 ++ leBytes 4 0 ++ leBytes 4 4)) ++ (leBytes 4 0 ++ zeros 16))),
    (collOf (running (wc 0x5000 [(36,4,1),(40,4,1),(48,1,0x01),(49,1,0x01),(56,8,4),(64,8,0x4000),(72,8,0x8000)]))),
    by unfold State.Meets; decide +kernel⟩,
   ⟨{ { (grouped wired) with groups := [(0, { CollGroup.reset with lastSeq := 5 })] } with ports := [(0, { Port.reset with state := 3, inbox := [(msgOf 0x0102 1 (zeros 84))] }), (1, { Port.reset with state := 3 })]  },
    0, (10 ^ 15), (msgOf 0x0102 1 (zeros 84)), by decide +kernel⟩,
   ⟨(regsOf ({ (grouped wired) with ports := [(0, { Port.reset with state := 3, inbox := [(msgOf 0x0103 1 ((leBytes 4 (running (wc 0x5005 [(36,4,1),(40,4,1)])).digest ++ (leBytes 1 0 ++ leBytes 1 0 ++ leBytes 2 1 ++ leBytes 4 0 ++ leBytes 4 0)) ++ (leBytes 4 1 ++ leBytes 1 0 ++ leBytes 1 1 ++ zeros 10)))] }), (1, { Port.reset with state := 3 })] , colls := [collOf (running (wc 0x5005 [(36,4,1),(40,4,1)]))], inflight := [(running (wc 0x5005 [(36,4,1),(40,4,1)]))] , groups := [(0, { CollGroup.reset with lastSeq := 5 })] }) [(axisWord 0,
    3 * 256)]), 0,
    (msgOf 0x0103 1 ((leBytes 4 (running (wc 0x5005 [(36,4,1),(40,4,1)])).digest ++ (leBytes 1 0 ++ leBytes 1 0 ++ leBytes 2 1 ++ leBytes 4 0 ++ leBytes 4 0)) ++ (leBytes 4 1 ++ leBytes 1 0 ++ leBytes 1 1 ++ zeros 10))),
    (collOf (running (wc 0x5005 [(36,4,1),(40,4,1)]))), by decide +kernel⟩,
   ⟨{ { (grouped wired) with groups := [(0, { CollGroup.reset with lastSeq := 5 })] } with ports := [(0, { Port.reset with state := 3, inbox := [(msgOf 0x0103 1 (zeros 84))] }), (1, { Port.reset with state := 3 })]  },
    0, (msgOf 0x0103 1 (zeros 84)), by decide +kernel⟩,
   ⟨{ (grouped wired) with ports := [(0, { Port.reset with state := 3, inbox := [(msgOf 0x0104 1 ((leBytes 4 (running (wc 0x5004 [(36,4,1),(40,4,1),(48,1,0),(56,8,0x8000),(64,8,64)])).digest ++ zeros 12) ++ (zeros 64)))] }), (1, { Port.reset with state := 3 })] , colls := [collOf (running (wc 0x5004 [(36,4,1),(40,4,1),(48,1,0),(56,8,0x8000),(64,8,64)]))], inflight := [(running (wc 0x5004 [(36,4,1),(40,4,1),(48,1,0),(56,8,0x8000),(64,8,64)]))]  },
    0, (10 ^ 15),
    (msgOf 0x0104 1 ((leBytes 4 (running (wc 0x5004 [(36,4,1),(40,4,1),(48,1,0),(56,8,0x8000),(64,8,64)])).digest ++ zeros 12) ++ (zeros 64))),
    (collOf (running (wc 0x5004 [(36,4,1),(40,4,1),(48,1,0),(56,8,0x8000),(64,8,64)]))),
    (running (wc 0x5004 [(36,4,1),(40,4,1),(48,1,0),(56,8,0x8000),(64,8,64)])), by unfold State.Meets; decide +kernel⟩,
   ⟨(State.placed ({ (grouped wired) with ports := [(0, { Port.reset with state := 3, inbox := [(msgOf 0x0105 1 ((leBytes 4 (running (wc 0x5002 [(36,4,1),(40,4,1),(52,4,1),(64,8,0x5000),(72,8,64)])).digest ++ zeros 12) ++ (leBytes 8 0xC000 ++ zeros 64)))] }), (1, { Port.reset with state := 3 })] , colls := [collOf (running (wc 0x5002 [(36,4,1),(40,4,1),(52,4,1),(64,8,0x5000),(72,8,64)]))], inflight := [(running (wc 0x5002 [(36,4,1),(40,4,1),(52,4,1),(64,8,0x5000),(72,8,64)]))]  }) 0x5000 (leBytes 8 0xC000 ++ leBytes 8 64)),
    0, (10 ^ 15),
    (msgOf 0x0105 1 ((leBytes 4 (running (wc 0x5002 [(36,4,1),(40,4,1),(52,4,1),(64,8,0x5000),(72,8,64)])).digest ++ zeros 12) ++ (leBytes 8 0xC000 ++ zeros 64))),
    (collOf (running (wc 0x5002 [(36,4,1),(40,4,1),(52,4,1),(64,8,0x5000),(72,8,64)]))), by unfold State.Meets; decide +kernel⟩,
   ⟨(State.placed ({ (grouped wired) with ports := [(0, { Port.reset with state := 3, inbox := [(msgOf 0x0105 1 ((leBytes 4 (running (wc 0x5002 [(36,4,1),(40,4,1),(52,4,1),(64,8,0x5000),(72,8,64)])).digest ++ zeros 12) ++ (leBytes 8 0xC000 ++ zeros 64)))] }), (1, { Port.reset with state := 3 })] , colls := [collOf (running (wc 0x5002 [(36,4,1),(40,4,1),(52,4,1),(64,8,0x5000),(72,8,64)]))], inflight := [(running (wc 0x5002 [(36,4,1),(40,4,1),(52,4,1),(64,8,0x5000),(72,8,64)]))]  }) 0x5000 (zeros 16)),
    0, (10 ^ 15),
    (msgOf 0x0105 1 ((leBytes 4 (running (wc 0x5002 [(36,4,1),(40,4,1),(52,4,1),(64,8,0x5000),(72,8,64)])).digest ++ zeros 12) ++ (leBytes 8 0xC000 ++ zeros 64))),
    (collOf (running (wc 0x5002 [(36,4,1),(40,4,1),(52,4,1),(64,8,0x5000),(72,8,64)]))), by unfold State.Meets; decide +kernel⟩,
   ⟨{ (grouped wired) with ports := [(0, { Port.reset with state := 3, inbox := [(msgOf 0x0110 1 (zeros 16 ++ leBytes 4 9))] }), (1, { Port.reset with state := 3 })]  },
    0, (msgOf 0x0110 1 (zeros 16 ++ leBytes 4 9)), by decide +kernel⟩,
   ⟨{ (grouped wired) with ports := [(0, { Port.reset with state := 3, inbox := [(msgOf 0x0110 1 (zeros 16 ++ leBytes 4 9))] }), (1, { Port.reset with state := 3 })] , colls := [collOf (running (wc 0x5005 [(36,4,1),(40,4,9)]))], inflight := [(running (wc 0x5005 [(36,4,1),(40,4,9)]))] },
    0, (msgOf 0x0110 1 (zeros 16 ++ leBytes 4 9)), (collOf (running (wc 0x5005 [(36,4,1),(40,4,9)]))),
    (running (wc 0x5005 [(36,4,1),(40,4,9)])), by decide +kernel⟩,
   ⟨{ wired with colls := [collOf (running (wc 0x5005 [(36,4,1),(40,4,9)]))], inflight := [(running (wc 0x5005 [(36,4,1),(40,4,9)]))] }, 0,
    9, (10 ^ 15), (collOf (running (wc 0x5005 [(36,4,1),(40,4,9)]))), (running (wc 0x5005 [(36,4,1),(40,4,9)])), by decide +kernel⟩⟩

/-- MatmulCompletes: what its clauses ask, met clause by clause (matmul, matmulGrouped, attend). -/
theorem witness_MatmulCompletes :
    (∃ (s : State) (r : CmdRef) (k : Cmd) (hv : HostView), s.ReadyOnRing 0x2000 r k ∧ theRefusal ((s.rings hv k).matmulFails k) = none ∧
        k.product.empty = true)
    ∧ (∃ (s : State) (r : CmdRef) (k : Cmd) (hv : HostView), s.ReadyOnRing 0x2000 r k ∧ theRefusal ((s.rings hv k).matmulFails k) = none ∧
        k.product.empty = false ∧
        worse ((s.rings hv k).rangesStatus ((s.rings hv k).productReads k [k.product])) ((s.rings hv k).sumStatus k [k.product]) = none)
    ∧ (∃ (s : State) (r : CmdRef) (k : Cmd) (hv : HostView), s.ReadyOnRing 0x2001 r k ∧ theRefusal ((s.rings hv k).groupedFails k) = none ∧
        (s.rings hv k).readStatus (k.param 80 8) (64 * k.param 32 4) = none ∧
        (s.rings hv k).groupRefusal k (groupProducts k 0 ((s.rings hv k).groupTable k)) ((s.rings hv k).groupTable k) = none ∧
        worse ((s.rings hv k).rangesStatus ((s.rings hv k).productReads k (groupProducts k 0 ((s.rings hv k).groupTable k)))) ((s.rings hv k).sumStatus k (groupProducts k 0 ((s.rings hv k).groupTable k))) = none)
    ∧ (∃ (s : State) (r : CmdRef) (k : Cmd) (hv : HostView), s.ReadyOnRing 0x2002 r k ∧ theRefusal ((s.rings hv k).attendFails k) = none ∧
        (s.rings hv k).readStatus (k.param 64 8) (16 * k.param 44 4) = none ∧
        (s.rings hv k).attendTableFails k ((s.rings hv k).attendEntries k) = none ∧
        ((s.rings hv k).dropRegions (bitsBelow 8 (k.param 56 1))).rangesStatus (k.attendIns ((s.rings hv k).attendEntries k)) = none ∧
        (((s.rings hv k).dropRegions (bitsBelow 8 (k.param 56 1))).attendStore k ((s.rings hv k).attendEntries k)).rangesStatus (k.attendPages ((s.rings hv k).attendEntries k)) = none) :=
  ⟨⟨(on ber (wc 0x2000 [(32,4,0),(36,4,4),(40,4,4),(44,1,1),(45,1,1),(46,1,1),(47,1,1),(60,4,0),(64,4,0x10000),(80,8,0x100000),(96,8,0x200000)])),
    ⟨1, 7⟩,
    (wc 0x2000 [(32,4,0),(36,4,4),(40,4,4),(44,1,1),(45,1,1),(46,1,1),(47,1,1),(60,4,0),(64,4,0x10000),(80,8,0x100000),(96,8,0x200000)]),
    noHost, by unfold State.ReadyOnRing State.Ready; decide +kernel⟩,
   ⟨(on ber (wc 0x2000 [(32,4,1),(36,4,4),(40,4,4),(44,1,1),(45,1,1),(46,1,1),(47,1,1),(60,4,0),(64,4,0x10000),(80,8,0x100000),(96,8,0x200000)])),
    ⟨1, 7⟩,
    (wc 0x2000 [(32,4,1),(36,4,4),(40,4,4),(44,1,1),(45,1,1),(46,1,1),(47,1,1),(60,4,0),(64,4,0x10000),(80,8,0x100000),(96,8,0x200000)]),
    noHost, by unfold State.ReadyOnRing State.Ready; decide +kernel⟩,
   ⟨(on ber (wc 0x2001 [(32,4,0),(44,1,1),(45,1,1),(46,1,1),(47,1,1),(80,8,0x300000)])), ⟨1, 7⟩,
    (wc 0x2001 [(32,4,0),(44,1,1),(45,1,1),(46,1,1),(47,1,1),(80,8,0x300000)]), noHost,
    by unfold State.ReadyOnRing State.Ready; decide +kernel⟩,
   ⟨(on ber (wc 0x2002 [(32,2,0),(34,2,1),(36,2,1),(38,2,1),(40,2,64),(42,1,4),(43,1,0),(44,4,0),(52,4,1),(56,1,1),(64,8,0x300000),(72,8,0x310000),(80,8,0x320000),(88,8,0x330000),(96,8,0x400000),(104,8,0x340000),(112,8,0x350000)])),
    ⟨1, 7⟩,
    (wc 0x2002 [(32,2,0),(34,2,1),(36,2,1),(38,2,1),(40,2,64),(42,1,4),(43,1,0),(44,4,0),(52,4,1),(56,1,1),(64,8,0x300000),(72,8,0x310000),(80,8,0x320000),(88,8,0x330000),(96,8,0x400000),(104,8,0x340000),(112,8,0x350000)]),
    noHost, by unfold State.ReadyOnRing State.Ready; decide +kernel⟩⟩

/-- VectorOpsComplete: what its clauses ask, met clause by clause (vop, sample, update). -/
theorem witness_VectorOpsComplete :
    (∃ (s : State) (r : CmdRef) (k : Cmd) (hv : HostView), s.ReadyOnRing 0x3000 r k ∧ theRefusal ((s.rings hv k).vopFails k) = none ∧
        ((k.vop.rows = 0 ∨ k.vop.cols = 0)))
    ∧ (∃ (s : State) (r : CmdRef) (k : Cmd) (hv : HostView), s.ReadyOnRing 0x3000 r k ∧ theRefusal ((s.rings hv k).vopFails k) = none ∧
        (k.vop.rows ≠ 0) ∧ (k.vop.cols ≠ 0) ∧
        ((s.rings hv k).rangesStatus ((List.range k.vop.rows).flatMap fun i => (s.rings hv k).vopRowReads k.vop i) = none) ∧
        (k.vop.op ≠ 0x25) ∧ (k.vop.op ≠ 0x30) ∧ (k.vop.op ≠ 0x32) ∧ (k.vop.op ≠ 0x40))
    ∧ (∃ (s : State) (r : CmdRef) (k : Cmd) (hv : HostView), s.ReadyOnRing 0x3000 r k ∧ theRefusal ((s.rings hv k).vopFails k) = none ∧
        (k.vop.rows ≠ 0) ∧ (k.vop.cols ≠ 0) ∧
        ((s.rings hv k).rangesStatus ((List.range k.vop.rows).flatMap fun i => (s.rings hv k).vopRowReads k.vop i) = none) ∧ k.vop.op = 0x25)
    ∧ (∃ (s : State) (r : CmdRef) (k : Cmd) (hv : HostView), s.ReadyOnRing 0x3000 r k ∧ theRefusal ((s.rings hv k).vopFails k) = none ∧
        (k.vop.rows ≠ 0) ∧ (k.vop.cols ≠ 0) ∧
        ((s.rings hv k).rangesStatus ((List.range k.vop.rows).flatMap fun i => (s.rings hv k).vopRowReads k.vop i) = none) ∧ k.vop.op = 0x32)
    ∧ (∃ (s : State) (r : CmdRef) (k : Cmd) (hv : HostView), s.ReadyOnRing 0x3000 r k ∧ theRefusal ((s.rings hv k).vopFails k) = none ∧
        (k.vop.rows ≠ 0) ∧ (k.vop.cols ≠ 0) ∧
        ((s.rings hv k).rangesStatus ((List.range k.vop.rows).flatMap fun i => (s.rings hv k).vopRowReads k.vop i) = none) ∧
        k.vop.op = 0x30 ∧ k.vop.y = 0 ∧ isMx k.vop.fmtOut = false)
    ∧ (∃ (s : State) (r : CmdRef) (k : Cmd) (hv : HostView) (a : GtBlock) (b : GtBlock) (x : GtBlock) (cl : Nat) (va : Nat),
        s.ReadyOnRing 0x3000 r k ∧ theRefusal ((s.rings hv k).vopFails k) = none ∧ k.vop.rows = 1 ∧ k.vop.cols = 64 ∧
        (s.rings hv k).rangesStatus ((s.rings hv k).vopRowReads k.vop 0) = none ∧ k.vop.op = 0x40 ∧
        (s.rings hv k).gtAt (k.vop.fmtX == 0x19) k.vop.x = some a ∧ (s.rings hv k).gtAt (k.vop.fmtY == 0x19) k.vop.y = some b ∧
        gtAdd a b = .sum x cl va ∧ s.units.upset = [])
    ∧ (∃ (s : State) (r : CmdRef) (k : Cmd) (hv : HostView), s.ReadyOnRing 0x3001 r k ∧ theRefusal ((s.rings hv k).sampleFails k) = none ∧
        ((s.rings hv k).rangesStatus ((List.range (k.param 32 4)).flatMap fun i => [(k.param 64 8 + i * elemsBytes (k.param 40 1) (k.param 36 4),
        elemsBytes (k.param 40 1) (k.param 36 4)), (k.param 72 8 + 16 * i, 16)]) = none))
    ∧ (∃ (s : State) (r : CmdRef) (k : Cmd) (hv : HostView), s.ReadyOnRing 0x3002 r k ∧ k.param 32 1 = 0 ∧
        theRefusal ((s.rings hv k).applyFails k) = none ∧
        ((s.rings hv k).checkLive k.epoch (k.param 33 1)).stateLost (k.param 33 1) = false ∧
        ((s.rings hv k).checkLive k.epoch (k.param 33 1)).rangesStatus k.applyRanges = none)
    ∧ (∃ (s : State) (r : CmdRef) (k : Cmd) (hv : HostView), s.ReadyOnRing 0x3002 r k ∧ (k.param 32 1 ≠ 0) ∧
        s.laneValid (k.param 34 1) = true ∧ s.laneInService (k.param 34 1) = false ∧
        (s.rings hv k).commitBlocked k.epoch (k.param 34 1) (k.param 36 4) = none ∧ k.param 34 1 < 4) :=
  ⟨⟨(on ber (wc 0x3000 [(32,2,8),(34,1,1),(35,1,0),(36,1,1),(40,4,1),(44,4,0),(48,4,1),(56,8,0x100000),(64,8,0),(72,8,0x300000)])), ⟨1, 7⟩,
    (wc 0x3000 [(32,2,8),(34,1,1),(35,1,0),(36,1,1),(40,4,1),(44,4,0),(48,4,1),(56,8,0x100000),(64,8,0),(72,8,0x300000)]), noHost,
    by unfold State.ReadyOnRing State.Ready; decide +kernel⟩,
   ⟨(on ber (wc 0x3000 [(32,2,1),(34,1,1),(35,1,0),(36,1,1),(40,4,1),(44,4,1),(48,4,2),(56,8,0x100000),(64,8,0),(72,8,0x300000)])), ⟨1, 7⟩,
    (wc 0x3000 [(32,2,1),(34,1,1),(35,1,0),(36,1,1),(40,4,1),(44,4,1),(48,4,2),(56,8,0x100000),(64,8,0),(72,8,0x300000)]), noHost,
    by unfold State.ReadyOnRing State.Ready; decide +kernel⟩,
   ⟨(on ber (wc 0x3000 [(32,2,37),(34,1,1),(35,1,0),(36,1,1),(40,4,1),(44,4,1),(48,4,2),(56,8,0x100000),(64,8,0),(72,8,0x300000),(80,8,0x400000),(88,4,1)])),
    ⟨1, 7⟩,
    (wc 0x3000 [(32,2,37),(34,1,1),(35,1,0),(36,1,1),(40,4,1),(44,4,1),(48,4,2),(56,8,0x100000),(64,8,0),(72,8,0x300000),(80,8,0x400000),(88,4,1)]),
    noHost, by unfold State.ReadyOnRing State.Ready; decide +kernel⟩,
   ⟨(on ber (wc 0x3000 [(32,2,50),(34,1,1),(35,1,0),(36,1,1),(40,4,1),(44,4,1),(48,4,4),(56,8,0x100000),(64,8,0),(72,8,0x300000)])), ⟨1,
    7⟩, (wc 0x3000 [(32,2,50),(34,1,1),(35,1,0),(36,1,1),(40,4,1),(44,4,1),(48,4,4),(56,8,0x100000),(64,8,0),(72,8,0x300000)]), noHost,
    by unfold State.ReadyOnRing State.Ready; decide +kernel⟩,
   ⟨(on ber (wc 0x3000 [(32,2,48),(34,1,1),(35,1,0),(36,1,4),(40,4,1),(44,4,1),(48,4,2),(56,8,0x100000),(64,8,0),(72,8,0x300000)])), ⟨1,
    7⟩, (wc 0x3000 [(32,2,48),(34,1,1),(35,1,0),(36,1,4),(40,4,1),(44,4,1),(48,4,2),(56,8,0x100000),(64,8,0),(72,8,0x300000)]), noHost,
    by unfold State.ReadyOnRing State.Ready; decide +kernel⟩,
   ⟨(on ber (wc 0x3000 [(32,2,64),(34,1,24),(35,1,24),(36,1,25),(40,4,1),(44,4,1),(48,4,64),(56,8,0x100000),(64,8,0x200000),(72,8,0x300000)])),
    ⟨1, 7⟩,
    (wc 0x3000 [(32,2,64),(34,1,24),(35,1,24),(36,1,25),(40,4,1),(44,4,1),(48,4,64),(56,8,0x100000),(64,8,0x200000),(72,8,0x300000)]),
    noHost, aBlock, aBlock, (gtSumOf (aBlock) (aBlock)).1, (gtSumOf (aBlock) (aBlock)).2.1, (gtSumOf (aBlock) (aBlock)).2.2,
    by unfold State.ReadyOnRing State.Ready; decide +kernel⟩,
   ⟨(on ber (wc 0x3001 [(32,4,1),(36,4,2),(40,1,1),(44,4,1),(48,4,0x3F800000),(52,4,0x3F800000),(64,8,0x100000),(72,8,0x200000),(80,8,0x300000)])),
    ⟨1, 7⟩,
    (wc 0x3001 [(32,4,1),(36,4,2),(40,1,1),(44,4,1),(48,4,0x3F800000),(52,4,0x3F800000),(64,8,0x100000),(72,8,0x200000),(80,8,0x300000)]),
    noHost, by unfold State.ReadyOnRing State.Ready; decide +kernel⟩,
   ⟨(on ((regsOf ({ ber with keepsake := { ber.keepsake with lanes := [0x8000#16] } }) [(ctxBase 0, 2 ^ 31), (ctxBase 0 + 4, 2),
    (ctxBase 0 + 8, 0x100000)]).placed 0x100000 ([0, 0,
    1] ++ zeros 61)) (wc 0x3002 [(32,1,0),(33,1,0),(35,1,0x18),(40,4,0),(44,4,1),(48,8,0x8000000),(72,4,1)])), ⟨1, 7⟩,
    (wc 0x3002 [(32,1,0),(33,1,0),(35,1,0x18),(40,4,0),(44,4,1),(48,8,0x8000000),(72,4,1)]), noHost,
    by unfold State.ReadyOnRing State.Ready; decide +kernel⟩,
   ⟨(on ({ ber with keepsake := { ber.keepsake with lanes := [0x8000#16] } }) (wc 0x3002 [(32,1,1),(34,1,0)])), ⟨1, 7⟩,
    (wc 0x3002 [(32,1,1),(34,1,0)]), noHost, by unfold State.ReadyOnRing State.Ready; decide +kernel⟩⟩

/-- UnitEventsComplete: what its clauses ask, met clause by clause (paveFault, engineFault, residueFence, bankOwnerFence, bankClear, selfTest). -/
theorem witness_UnitEventsComplete :
    (∃ (s : State) (n : Nat) (fault : Nat), n < 8 ∧ s.power.gated.testBit (n / 2) = false ∧
        ((field fault 30 28 = 1 ∨ field fault 30 28 = 2)) ∧ s.cmdOn (n + 1) = none)
    ∧ (∃ (s : State) (n : Nat) (fault : Nat), n < 32 ∧ s.power.gated.testBit (n / 8) = false ∧ field fault 30 28 = 1 ∧
        s.cmdOn (0x10 + n) = none ∧ s.colls = [])
    ∧ (∃ (s : State) (n : Nat) (a : Nat) (b : Nat) (l : List Nat), n < 32 ∧ lookup n s.units.residueAt = some (a :: b :: l) ∧
        a - b ≤ second)
    ∧ (∃ (s : State) (die : Nat) (bank : Nat) (u : Nat) (ts : List Nat), die < 4 ∧ bank < 14 ∧ bankOwner die bank = some u ∧
        lookup (16 * die + bank) s.units.parityAt = some ts ∧ 16 ≤ ts.length ∧ ts.headD 0 - ts.getLastD 0 ≤ second ∧ s.isFenced u = false)
    ∧ (∃ (s : State) (die : Nat) (bank : Nat) (u : Nat), die < 4 ∧ bank < 14 ∧ bankOwner die bank = some u ∧ s.clears.contains u = true ∧
        s.unitLeft u = true)
    ∧ (∃ (s : State) (r : CmdRef) (k : Cmd), s.ReadyOnRing 0xA002 r k ∧ isCompute (k.param 32 1) = true ∧
        s.isFenced (k.param 32 1) = true ∧ s.units.readied.contains (k.param 32 1) = true ∧ s.power.gated = 0 ∧
        ((if k.param 32 1 < 0x10 then (s.berthPaves k.epoch k.berth).testBit (k.param 32 1 - 1) else (s.berthVes k.epoch k.berth).testBit (k.param 32 1 - 0x10)) = true)) :=
  ⟨⟨act, 7, (2 ^ 28 + 2 ^ 6 + 5 * 2 ^ 10), by decide +kernel⟩,
   ⟨act, 31, (2 ^ 28 + 1), by decide +kernel⟩,
   ⟨{ act with units := { act.units with residueAt := [(31, [7, 5])] } }, 31, 7, 5, ([] : List Nat), by decide +kernel⟩,
   ⟨{ act with units := { act.units with parityAt := [(16 * 3 + 13, List.replicate 16 7)] } }, 3, 13, 0x2F, (List.replicate 16 7),
    by decide +kernel⟩,
   ⟨{ act with clears := [0x2F] }, 3, 13, 0x2F, by decide +kernel⟩,
   ⟨(on { ber with units := { ber.units with fenced := [1], readied := [1] } } (wc 0xA002 [(32,1,1)])), ⟨1, 7⟩, (wc 0xA002 [(32,1,1)]),
    by unfold State.ReadyOnRing State.Ready; decide +kernel⟩⟩

/-- WeightSetCommandsComplete: what its clauses ask, met clause by clause (weightsLoad, weightsDrop, loadActivation, setReleaseCommit). -/
theorem witness_WeightSetCommandsComplete :
    (∃ (s : State) (r : CmdRef) (k : Cmd) (hv : HostView), s.Ready 0x6005 r k ∧ theRefusal ((s.meets hv k).weightsLoadFails k) = none ∧
        s.overlapFails (k.param 56 8) (k.param 48 8) = false)
    ∧ (∃ (s : State) (r : CmdRef) (k : Cmd) (v : WeightSet), s.Ready 0x6006 r k ∧ lookup (k.param 32 1) s.sets = some v ∧ v.state = 2 ∧
        v.command = none ∧ s.dropFails (k.param 32 1) (k.param 33 1) s.turnSets = false)
    ∧ (∃ (s : State) (r : CmdRef) (k : Cmd) (v : WeightSet), s.Ready 0x6006 r k ∧ lookup (k.param 32 1) s.sets = some v ∧ v.state = 3 ∧
        v.command = none ∧ s.dropFails (k.param 32 1) (k.param 33 1) s.turnSets = false)
    ∧ (∃ (s : State) (r : CmdRef) (peer : PeerData) (now : Nat) (hv : HostView) (w : Nat) (v : WeightSet) (bs : List Byte) (d : Cmd),
        s.olderGoneBut (some r) = true ∧
        (s.sets.find? (fun k => k.2.command == some r && k.2.state == 1 && k.2.failing.isNone && !k.2.byTurn) = some (w, v)) ∧
        lookup w s.sets = some v ∧ ((s.at now).sees hv).sourceData v.source v.bytes v.sourceAddr v.link peer = (bs, none) ∧ s.cmd r = some d)
    ∧ (∃ (s : State) (r : CmdRef) (peer : PeerData) (now : Nat) (hv : HostView) (i : Nat) (v : Adapter) (bs : List Byte) (d : Cmd),
        s.olderGoneBut (some r) = true ∧ s.sets = [] ∧
        (s.adapters.find? (fun k => k.2.command == some r && k.2.state == 1 && k.2.failing.isNone) = some (i, v)) ∧
        lookup i s.adapters = some v ∧
        ((if v.shared then (s.at now).sees hv else ((s.at now).sees hv).actFor 0 v.berth).sourceData v.source v.bytes v.sourceAddr 0 peer = (bs,
        none)) ∧ badTensor v.bytes v.rank v.tensors bs = none ∧ s.liveSlot v.name = none ∧ s.cmd r = some d)
    ∧ (∃ (s : State) (w : Nat) (v : WeightSet) (r : CmdRef) (d : Cmd), lookup w s.sets = some v ∧ v.state = 4 ∧ v.command = some r ∧
        v.failing = none ∧ s.setPins w = 0 ∧ s.noOlderReader = true ∧ s.olderGoneBut v.command = true ∧ s.cmd r = some d) :=
  ⟨⟨(on stocked (wc 0x6005 [(32,1,5),(33,1,0),(48,8,0x100000),(56,8,0x4002000000),(64,8,0x8000000)])), ⟨1, 7⟩,
    (wc 0x6005 [(32,1,5),(33,1,0),(48,8,0x100000),(56,8,0x4002000000),(64,8,0x8000000)]), noHost, by unfold State.Ready; decide +kernel⟩,
   ⟨(on { stocked with sets := [(0, { aSet with state := 2 })] } (wc 0x6006 [(32,1,0),(33,1,0)])), ⟨1, 7⟩, (wc 0x6006 [(32,1,0),(33,1,0)]),
    { aSet with state := 2 }, by unfold State.Ready; decide +kernel⟩,
   ⟨(on { stocked with sets := [(0, { aSet with state := 3 })] } (wc 0x6006 [(32,1,0),(33,1,0)])), ⟨1, 7⟩, (wc 0x6006 [(32,1,0),(33,1,0)]),
    { aSet with state := 3 }, by unfold State.Ready; decide +kernel⟩,
   ⟨{ (on stocked (running (wc 0x6005 []))) with sets := [(0, { aSet with state := 1, command := some ⟨1, 7⟩, bytes := 64 })] }, (⟨1,
    7⟩ : CmdRef), (⟨0, []⟩ : PeerData), (10 ^ 15), noHost, 0, { aSet with state := 1, command := some ⟨1, 7⟩, bytes := 64 }, zeros 64,
    running (wc 0x6005 []), by decide +kernel⟩,
   ⟨{ (on stocked (running (wc 0x6007 []))) with sets := [], adapters := [(3, { anAdapter with state := 1, command := some ⟨1, 7⟩, bytes := 64 })] },
    (⟨1, 7⟩ : CmdRef), (⟨0, []⟩ : PeerData), (10 ^ 15), noHost, 3, { anAdapter with state := 1, command := some ⟨1, 7⟩, bytes := 64 },
    zeros 64, running (wc 0x6007 []), by decide +kernel⟩,
   ⟨{ (on stocked (running (wc 0x6006 []))) with sets := [(0, { aSet with state := 4, command := some ⟨1, 7⟩, cut := 5 })] }, 0,
    { aSet with state := 4, command := some ⟨1, 7⟩, cut := 5 }, (⟨1, 7⟩ : CmdRef), running (wc 0x6006 []), by decide +kernel⟩⟩

/-- AdapterCommandsComplete: what its clauses ask, met clause by clause (adapterLoad, adapterDrop, adapterReleaseCommit). -/
theorem witness_AdapterCommandsComplete :
    (∃ (s : State) (r : CmdRef) (k : Cmd) (hv : HostView) (i : Nat), s.Ready 0x6007 r k ∧
        theRefusal ((s.meets hv k).adapterLoadFails k) = none ∧ s.overlapFails (k.param 64 8) (k.param 56 8) = false ∧
        s.adapterSlot k = some i)
    ∧ (∃ (s : State) (r : CmdRef) (k : Cmd), s.Ready 0x6008 r k ∧ s.foreignName k (k.param 32 4) = false ∧
        (s.liveSlot (k.param 32 4)).isSome = true)
    ∧ (∃ (s : State) (r : CmdRef) (k : Cmd), s.Ready 0x6008 r k ∧ s.foreignName k (k.param 32 4) = false ∧ s.liveSlot (k.param 32 4) = none)
    ∧ (∃ (s : State) (i : Nat) (v : Adapter), lookup i s.adapters = some v ∧ v.state = 3 ∧ s.adapterPins i = 0 ∧ s.noOlderReader = true ∧
        s.olderGone = true) :=
  ⟨⟨(on stocked (wc 0x6007 [(32,2,0xFFFF),(34,1,0),(35,1,0),(40,4,9),(44,4,2),(56,8,0x8000),(64,8,0x4002000000),(72,8,0x8000000)])), ⟨1,
    7⟩, (wc 0x6007 [(32,2,0xFFFF),(34,1,0),(35,1,0),(40,4,9),(44,4,2),(56,8,0x8000),(64,8,0x4002000000),(72,8,0x8000000)]), noHost, 0,
    by unfold State.Ready; decide +kernel⟩,
   ⟨(on { stocked with adapters := [(3, anAdapter)] } (wc 0x6008 [(32,4,9)])), ⟨1, 7⟩, (wc 0x6008 [(32,4,9)]),
    by unfold State.Ready; decide +kernel⟩,
   ⟨(on { stocked with adapters := [(3, anAdapter)] } (wc 0x6008 [(32,4,8)])), ⟨1, 7⟩, (wc 0x6008 [(32,4,8)]),
    by unfold State.Ready; decide +kernel⟩,
   ⟨{ stocked with adapters := [(3, { anAdapter with state := 3 })] }, 3, { anAdapter with state := 3 }, by decide +kernel⟩⟩

/-- RepairsComplete: what its clauses ask, met clause by clause (repairOpen, repairSourceData, repairDeadline, interfaceRetrain, interfaceRetrainDone). -/
theorem witness_RepairsComplete :
    (∃ (s : State) (a : Nat) (ad : Bool) (slot : Nat) (u : Nat), s.unitsOf a 1 = [u] ∧ inBanks u = false ∧
        (s.unitStatus u).isSome = true ∧ s.parityIn a 1 = [] ∧ s.shared (s.phys a) = some (ad, slot) ∧ s.shared u = some (ad, slot) ∧
        s.repairs = [] ∧ (s.sourceCode ad slot ≠ 3))
    ∧ (∃ (s : State) (a : Nat) (slot : Nat) (u : Nat) (v : WeightSet), s.unitsOf a 1 = [u] ∧ inBanks u = false ∧
        (s.unitStatus u).isSome = true ∧ s.parityIn a 1 = [] ∧ s.shared (s.phys a) = some (false, slot) ∧ s.shared u = some (false, slot) ∧
        s.repairs = [] ∧ s.sourceCode false slot = 3 ∧ lookup slot s.sets = some v ∧ v.state = 2)
    ∧ (∃ (s : State) (line : Nat) (peer : PeerData) (now : Nat) (hv : HostView) (x : Repair) (bs : List Byte) (z : State),
        (s.repairs.find? (fun r => r.line == line) = some x) ∧ ((s.at now).sees hv).repairData x peer = (bs, none) ∧
        z = (match ((s.at now).sees hv).repairSource x with | some a => ((s.at now).sees hv).noteRead 5 a (lineBytes s.spine.variant) | none => (s.at now).sees hv))
    ∧ (∃ (s : State) (line : Nat) (peer : PeerData) (now : Nat) (hv : HostView) (x : Repair) (bs : List Byte) (z : State),
        (s.repairs.find? (fun r => r.line == line) = some x) ∧ ((s.at now).sees hv).repairData x peer = (bs, none) ∧
        z = (match ((s.at now).sees hv).repairSource x with | some a => ((s.at now).sees hv).noteRead 5 a (lineBytes s.spine.variant) | none => (s.at now).sees hv) ∧
        x.unclean = false)
    ∧ (∃ (s : State) (line : Nat) (peer : PeerData) (outcome : Nat) (now : Nat) (hv : HostView) (x : Repair) (bs : List Byte) (v : WeightSet),
        (s.repairs.find? (fun r => r.line == line) = some x) ∧ ((s.at now).sees hv).repairData x peer = (bs, none) ∧ (outcome ≠ 0) ∧
        x.unclean = true ∧ x.adapter = false ∧ lookup x.slot s.sets = some v ∧ v.state = 2)
    ∧ (∃ (s : State) (line : Nat) (now : Nat) (x : Repair) (v : WeightSet), (s.repairs.find? (fun r => r.line == line) = some x) ∧
        (s.at now).expired (x.openedAt + msec * field (s.regNat (blkKeeper + 0x200)) 15 0) = true ∧ x.adapter = false ∧
        lookup x.slot s.sets = some v ∧ v.state = 2)
    ∧ (∃ (s : State) (c : Nat), s.ctrlFitted c = true ∧ c ∉ s.retraining ∧ c ∉ s.mem.failed)
    ∧ (∃ (s : State) (c : Nat), c ∈ s.retraining)
    ∧ (∃ (s : State) (c : Nat), c ∈ s.retraining ∧ c < 16)
    ∧ (∃ (s : State) (c : Nat), c ∈ s.retraining ∧ 16 ≤ c) :=
  ⟨⟨{ stocked with sets := [(0, { aSet with source := 0, sourceAddr := 0x8000000 })], mem := (stocked.poisonRange 0x4001000040 64).mem },
    0x4001000040, false, 0, 0x4001000040, by decide +kernel⟩,
   ⟨{ stocked with mem := (stocked.poisonRange 0x4001000040 64).mem }, 0x4001000040, 0, 0x4001000040, aSet, by decide +kernel⟩,
   ⟨{ stocked with sets := [(0, { aSet with source := 0, sourceAddr := 0x8000000 })], repairs := [(⟨0x4001000000, false, 0, 0, false⟩ : Repair)] },
    0x4001000000, (⟨0, []⟩ : PeerData), (10 ^ 15), noHost, (⟨0x4001000000, false, 0, 0, false⟩ : Repair),
    ((({ stocked with sets := [(0, { aSet with source := 0, sourceAddr := 0x8000000 })], repairs := [(⟨0x4001000000, false, 0, 0, false⟩ : Repair)] }).at ((10 ^ 15))).sees (noHost)).bytesAt 0x8000000 (lineBytes ({ stocked with sets := [(0, { aSet with source := 0, sourceAddr := 0x8000000 })], repairs := [(⟨0x4001000000, false, 0, 0, false⟩ : Repair)] }).spine.variant),
    (match ((({ stocked with sets := [(0, { aSet with source := 0, sourceAddr := 0x8000000 })], repairs := [(⟨0x4001000000, false, 0, 0, false⟩ : Repair)] }).at ((10 ^ 15))).sees (noHost)).repairSource ((⟨0x4001000000,
    false, 0, 0,
    false⟩ : Repair)) with | some a => ((({ stocked with sets := [(0, { aSet with source := 0, sourceAddr := 0x8000000 })], repairs := [(⟨0x4001000000, false, 0, 0, false⟩ : Repair)] }).at ((10 ^ 15))).sees (noHost)).noteRead 5 a (lineBytes ({ stocked with sets := [(0, { aSet with source := 0, sourceAddr := 0x8000000 })], repairs := [(⟨0x4001000000, false, 0, 0, false⟩ : Repair)] }).spine.variant) | none => (({ stocked with sets := [(0, { aSet with source := 0, sourceAddr := 0x8000000 })], repairs := [(⟨0x4001000000, false, 0, 0, false⟩ : Repair)] }).at ((10 ^ 15))).sees (noHost)),
    by decide +kernel⟩,
   ⟨{ stocked with sets := [(0, { aSet with source := 0, sourceAddr := 0x8000000 })], repairs := [(⟨0x4001000000, false, 0, 0, false⟩ : Repair)] },
    0x4001000000, (⟨0, []⟩ : PeerData), (10 ^ 15), noHost, (⟨0x4001000000, false, 0, 0, false⟩ : Repair),
    ((({ stocked with sets := [(0, { aSet with source := 0, sourceAddr := 0x8000000 })], repairs := [(⟨0x4001000000, false, 0, 0, false⟩ : Repair)] }).at ((10 ^ 15))).sees (noHost)).bytesAt 0x8000000 (lineBytes ({ stocked with sets := [(0, { aSet with source := 0, sourceAddr := 0x8000000 })], repairs := [(⟨0x4001000000, false, 0, 0, false⟩ : Repair)] }).spine.variant),
    (match ((({ stocked with sets := [(0, { aSet with source := 0, sourceAddr := 0x8000000 })], repairs := [(⟨0x4001000000, false, 0, 0, false⟩ : Repair)] }).at ((10 ^ 15))).sees (noHost)).repairSource ((⟨0x4001000000,
    false, 0, 0,
    false⟩ : Repair)) with | some a => ((({ stocked with sets := [(0, { aSet with source := 0, sourceAddr := 0x8000000 })], repairs := [(⟨0x4001000000, false, 0, 0, false⟩ : Repair)] }).at ((10 ^ 15))).sees (noHost)).noteRead 5 a (lineBytes ({ stocked with sets := [(0, { aSet with source := 0, sourceAddr := 0x8000000 })], repairs := [(⟨0x4001000000, false, 0, 0, false⟩ : Repair)] }).spine.variant) | none => (({ stocked with sets := [(0, { aSet with source := 0, sourceAddr := 0x8000000 })], repairs := [(⟨0x4001000000, false, 0, 0, false⟩ : Repair)] }).at ((10 ^ 15))).sees (noHost)),
    by decide +kernel⟩,
   ⟨{ stocked with sets := [(0, { aSet with source := 0, sourceAddr := 0x8000000 })], repairs := [(⟨0x4001000000, false, 0, 0, true⟩ : Repair)] },
    0x4001000000, (⟨0, []⟩ : PeerData), 2, (10 ^ 15), noHost, (⟨0x4001000000, false, 0, 0, true⟩ : Repair),
    ((({ stocked with sets := [(0, { aSet with source := 0, sourceAddr := 0x8000000 })], repairs := [(⟨0x4001000000, false, 0, 0, true⟩ : Repair)] }).at ((10 ^ 15))).sees (noHost)).bytesAt 0x8000000 (lineBytes ({ stocked with sets := [(0, { aSet with source := 0, sourceAddr := 0x8000000 })], repairs := [(⟨0x4001000000, false, 0, 0, true⟩ : Repair)] }).spine.variant),
    { aSet with source := 0, sourceAddr := 0x8000000 }, by decide +kernel⟩,
   ⟨{ stocked with sets := [(0, { aSet with source := 0, sourceAddr := 0x8000000 })], repairs := [(⟨0x4001000000, false, 0, 0, false⟩ : Repair)] },
    0x4001000000, (10 ^ 15), (⟨0x4001000000, false, 0, 0, false⟩ : Repair), { aSet with source := 0, sourceAddr := 0x8000000 },
    by decide +kernel⟩,
   ⟨act, 15, by decide +kernel⟩,
   ⟨{ act with retraining := [15] }, 15, by decide +kernel⟩,
   ⟨{ act with retraining := [15] }, 15, by decide +kernel⟩,
   ⟨{ act with retraining := [27] }, 27, by decide +kernel⟩⟩

/-- ServicesOpenAndClose: what its clauses ask, met clause by clause (serveOpen, serveClose, seqCancel). -/
theorem witness_ServicesOpenAndClose :
    (∃ (s : State) (r : CmdRef) (k : Cmd) (hv : HostView), s.Ready 0x6000 r k ∧ theRefusal ((s.meets hv k).serveOpenFails k) = none ∧
        ((s.meets hv k).rangesStatus ((k.param 64 8,
        64 + 32 * (s.meets hv k).natAt (k.param 64 8 + 28) 4) :: if k.param 34 1 ≠ 0xFF then [(k.param 72 8,
        64 + 32 * (s.meets hv k).natAt (k.param 72 8 + 28) 4)] else []) = none) ∧
        (s.meets hv k).modelFails (k.param 64 8) ((s.meets hv k).newServing k).kvFmt ((s.meets hv k).setBytes ((s.meets hv k).newServing k).set) = none ∧
        ((k.param 34 1 ≠ 0xFF → (s.meets hv k).modelFails (k.param 72 8) ((s.meets hv k).newServing k).kvFmt ((s.meets hv k).setBytes (k.param 34 1)) = none)) ∧
        ((∀ m, ((s.meets hv k).newServing k).draft = some m → m.vocab = ((s.meets hv k).newServing k).model.vocab)) ∧
        ((s.meets hv k).descFails k (decide (k.param 34 1 ≠ 0xFF)) = none) ∧
        theRefusal ((s.meets hv k).poolFails k ((s.meets hv k).newServing k)) = none)
    ∧ (∃ (s : State) (r : CmdRef) (k : Cmd) (v : Serving), s.Ready 0x6001 r k ∧ lookup (k.param 32 1) s.serving = some v ∧
        v.opened = true ∧ v.berth = k.berth ∧ v.closing = none)
    ∧ (∃ (s : State) (r : CmdRef) (k : Cmd) (v : Serving), s.Ready 0x6001 r k ∧ lookup (k.param 32 1) s.serving = some v ∧
        v.opened = true ∧ v.berth = k.berth ∧ v.closing = none ∧ v.step = none ∧ v.runs = [] ∧ v.draftSet = none ∧ s.manifest = [] ∧
        ((s.commits.any fun w => w.owner == .serveClose (k.param 32 1)) = false))
    ∧ (∃ (s : State) (r : CmdRef) (k : Cmd) (v : Serving) (i : Nat) (e : Entry), s.Ready 0x6004 r k ∧
        lookup (k.param 32 1) s.serving = some v ∧ v.opened = true ∧ v.berth = k.berth ∧
        ((s.entriesOf (k.param 32 1)).find? (fun e => e.2.request == k.param 40 8) = some (i, e)) ∧ e.state = 1)
    ∧ (∃ (s : State) (r : CmdRef) (k : Cmd) (v : Serving) (i : Nat) (e : Entry), s.Ready 0x6004 r k ∧
        lookup (k.param 32 1) s.serving = some v ∧ v.opened = true ∧ v.berth = k.berth ∧
        ((s.entriesOf (k.param 32 1)).find? (fun e => e.2.request == k.param 40 8) = some (i, e)) ∧ lookup i s.manifest = some e ∧
        (e.state ≠ 1) ∧ v.step.isSome = true)
    ∧ (∃ (s : State) (r : CmdRef) (k : Cmd) (v : Serving), s.Ready 0x6004 r k ∧ lookup (k.param 32 1) s.serving = some v ∧
        v.opened = true ∧ v.berth = k.berth ∧ ((s.entriesOf (k.param 32 1)).find? (fun e => e.2.request == k.param 40 8) = none)) :=
  ⟨⟨(on (stocked.placed 0x6000000 modelBytes) (wc 0x6000 [(32,1,0),(33,1,0),(34,1,0xFF),(35,1,4),(36,2,64),(38,2,64),(44,2,4),(48,4,16),(52,4,1024),(64,8,0x6000000),(80,8,0x10000000),(88,4,64),(92,4,16),(96,8,0x20000000)])),
    ⟨1, 7⟩,
    (wc 0x6000 [(32,1,0),(33,1,0),(34,1,0xFF),(35,1,4),(36,2,64),(38,2,64),(44,2,4),(48,4,16),(52,4,1024),(64,8,0x6000000),(80,8,0x10000000),(88,4,64),(92,4,16),(96,8,0x20000000)]),
    noHost, by unfold State.Ready; decide +kernel⟩,
   ⟨(on (serving0 aServing []) (wc 0x6001 [(32,1,0)])), ⟨1, 7⟩, (wc 0x6001 [(32,1,0)]), aServing, by unfold State.Ready; decide +kernel⟩,
   ⟨(on (serving0 aServing []) (wc 0x6001 [(32,1,0)])), ⟨1, 7⟩, (wc 0x6001 [(32,1,0)]), aServing, by unfold State.Ready; decide +kernel⟩,
   ⟨(on (serving0 { aServing with held := [4] } [(4, anEntry 1)]) (wc 0x6004 [(32,1,0),(40,8,77)])), ⟨1, 7⟩,
    (wc 0x6004 [(32,1,0),(40,8,77)]), { aServing with held := [4] }, 4, anEntry 1, by unfold State.Ready; decide +kernel⟩,
   ⟨(on (serving0 { aServing with step := some aStep } [(4, anEntry 2)]) (wc 0x6004 [(32,1,0),(40,8,77)])), ⟨1, 7⟩,
    (wc 0x6004 [(32,1,0),(40,8,77)]), { aServing with step := some aStep }, 4, anEntry 2, by unfold State.Ready; decide +kernel⟩,
   ⟨(on (serving0 aServing [(4, anEntry 2)]) (wc 0x6004 [(32,1,0),(40,8,78)])), ⟨1, 7⟩, (wc 0x6004 [(32,1,0),(40,8,78)]), aServing,
    by unfold State.Ready; decide +kernel⟩⟩

/-- RequestsAreAdmitted: what its clauses ask, met clause by clause (admitSequence, rollout). -/
theorem witness_RequestsAreAdmitted :
    (∃ (s : State) (r : CmdRef) (k : Cmd) (hv : HostView) (v : Serving), s.Ready 0x6002 r k ∧
        theRefusal ((s.meets hv k).admitRanges k (k.param 72 8) (k.param 44 4) (k.param 80 8) (k.param 48 4) 72 80) = none ∧
        (s.meets hv k).admitFails k (k.param 32 1) (k.param 33 1) (k.param 34 1) (k.param 40 4) = none ∧
        lookup (k.param 32 1) s.serving = some v ∧ k.param 44 4 + k.param 48 4 ≤ v.maxContext ∧ s.manifest.length < 16384 ∧
        (s.entriesOf (k.param 32 1)).length < v.maxSeq ∧ s.classQueue (k.param 32 1) (k.param 33 1) = [] ∧ v.turning = false ∧
        v.fits (spansFor (k.param 44 4)) = true)
    ∧ (∃ (s : State) (r : CmdRef) (k : Cmd) (hv : HostView) (v : Serving), s.Ready 0x6002 r k ∧
        theRefusal ((s.meets hv k).admitRanges k (k.param 72 8) (k.param 44 4) (k.param 80 8) (k.param 48 4) 72 80) = none ∧
        (s.meets hv k).admitFails k (k.param 32 1) (k.param 33 1) (k.param 34 1) (k.param 40 4) = none ∧
        lookup (k.param 32 1) s.serving = some v ∧ k.param 44 4 + k.param 48 4 ≤ v.maxContext ∧ s.manifest.length < 16384 ∧
        (s.entriesOf (k.param 32 1)).length < v.maxSeq ∧
        ((s.classQueue (k.param 32 1) (k.param 33 1) ≠ [] ∨ v.turning = true ∨ v.fits (spansFor (k.param 44 4)) = false)) ∧
        (s.classQueue (k.param 32 1) (k.param 33 1)).length < v.holdDepth ∧ bitOf (k.param 35 1) 0 = false)
    ∧ (∃ (s : State) (r : CmdRef) (k : Cmd) (hv : HostView) (v : Serving), s.Ready 0x6003 r k ∧
        placeOf (k.param 72 8) = .host (k.param 72 8 % 2 ^ 62) ∧ placeOf (k.param 80 8) = .host (k.param 80 8 % 2 ^ 62) ∧
        (s.meets hv k).admitFails k (k.param 32 1) 0 (k.param 33 1) 0 = none ∧ lookup (k.param 32 1) s.serving = some v ∧
        k.param 40 4 ≤ v.maxContext ∧ s.manifest.length < 16384 ∧ (s.entriesOf (k.param 32 1)).length < v.maxSeq ∧ v.runs.length < 4)
    ∧ (∃ (s : State) (r : CmdRef) (k : Cmd) (hv : HostView) (v : Serving) (a : Nat) (b : Nat), s.Ready 0x6003 r k ∧
        placeOf (k.param 72 8) = .device a ∧ placeOf (k.param 80 8) = .device b ∧
        (s.meets hv k).rangeOf k a (16 * k.param 36 4) false = none ∧
        (s.meets hv k).rangeOf k b (k.param 36 4 * k.param 35 1 * k.param 88 8) true = none ∧
        (s.meets hv k).admitFails k (k.param 32 1) 0 (k.param 33 1) 0 = none ∧ lookup (k.param 32 1) s.serving = some v ∧
        k.param 40 4 ≤ v.maxContext ∧ s.manifest.length < 16384 ∧ (s.entriesOf (k.param 32 1)).length < v.maxSeq ∧ v.runs.length < 4) :=
  ⟨⟨(on ((serving0 aServing []).setNat (budgetBase 0) (2 ^ 31)) (wc 0x6002 [(32,1,0),(33,1,0),(34,1,0),(35,1,1),(40,4,0),(44,4,4),(48,4,4),(72,8,0x5000000),(80,8,0x5100000),(88,8,77)])),
    ⟨1, 7⟩, (wc 0x6002 [(32,1,0),(33,1,0),(34,1,0),(35,1,1),(40,4,0),(44,4,4),(48,4,4),(72,8,0x5000000),(80,8,0x5100000),(88,8,77)]),
    noHost, aServing, by unfold State.Ready; decide +kernel⟩,
   ⟨(on ((serving0 { aServing with turning := true } []).setNat (budgetBase 0) (2 ^ 31)) (wc 0x6002 [(32,1,0),(33,1,0),(34,1,0),(35,1,0),(40,4,0),(44,4,4),(48,4,4),(72,8,0x5000000),(80,8,0x5100000),(88,8,77)])),
    ⟨1, 7⟩, (wc 0x6002 [(32,1,0),(33,1,0),(34,1,0),(35,1,0),(40,4,0),(44,4,4),(48,4,4),(72,8,0x5000000),(80,8,0x5100000),(88,8,77)]),
    noHost, { aServing with turning := true }, by unfold State.Ready; decide +kernel⟩,
   ⟨(on ((serving0 aServing []).setNat (budgetBase 0) (2 ^ 31)) (wc 0x6003 [(32,1,0),(33,1,0),(35,1,2),(36,4,1),(40,4,4),(60,4,99),(72,8,2 ^ 62),(80,8,2 ^ 62 + 4096),(88,8,256)])),
    ⟨1, 7⟩, (wc 0x6003 [(32,1,0),(33,1,0),(35,1,2),(36,4,1),(40,4,4),(60,4,99),(72,8,2 ^ 62),(80,8,2 ^ 62 + 4096),(88,8,256)]), noHost,
    aServing, by unfold State.Ready; decide +kernel⟩,
   ⟨(on ((serving0 aServing []).setNat (budgetBase 0) (2 ^ 31)) (wc 0x6003 [(32,1,0),(33,1,0),(35,1,2),(36,4,1),(40,4,4),(60,4,99),(72,8,0x5000000),(80,8,0x5100000),(88,8,256)])),
    ⟨1, 7⟩, (wc 0x6003 [(32,1,0),(33,1,0),(35,1,2),(36,4,1),(40,4,4),(60,4,99),(72,8,0x5000000),(80,8,0x5100000),(88,8,256)]), noHost,
    aServing, 0x5000000, 0x5100000, by unfold State.Ready; decide +kernel⟩⟩

/-- ServingStepsRun: what its clauses ask, met clause by clause (stepBuild, serveStepComplete, budgetRefill). -/
theorem witness_ServingStepsRun :
    (∃ (s : State) (n : Nat) (now : Nat) (hv : HostView) (v : Serving) (t0 : State) (v0 : Serving) (w : State) (j : Serving) (j2 : Serving),
        lookup n s.serving = some v ∧ v.opened = true ∧ v.step = none ∧ ((s.at now).sees hv).turnOf v.berth 1 n = some t0 ∧
        lookup n t0.serving = some v0 ∧ v0.opened = true ∧ v0.step = none ∧ v0.again = none ∧
        ((t0.boundary n).closeIfDone n).stepsHeld n v0 = false ∧ ((t0.boundary n).closeIfDone n).stepReady n v0 = w ∧
        lookup n w.serving = some j ∧ ((w.chooseStep n j 16384).2.2 ≠ []) ∧ (w.power.state ≠ .idle) ∧
        lookup n (w.chooseStep n j 16384).1.serving = some j2)
    ∧ (∃ (s : State) (n : Nat) (now : Nat) (hv : HostView) (v : Serving) (b : BatchStep) (z : State), lookup n s.serving = some v ∧
        v.step = some b ∧ s.beating = true ∧ z = ((s.at now).sees hv).ringing.actFor b.epoch v.berth ∧
        z.rangesStatus (z.stepReads v { b with rows := z.soundRows b }) = none)
    ∧ (∃ (s : State) (now : Nat) (a : Nat), a < 64 ∧ (s.at now).now % msec = 0) :=
  ⟨⟨(State.setNat (serving0 aServing [(4, { anEntry 2 with spans := [⟨0, [0, 1]⟩] })]) (budgetBase 0 + 12) 100), 0, (10 ^ 15), noHost,
    aServing, ((((((State.setNat (serving0 aServing [(4,
    { anEntry 2 with spans := [⟨0, [0, 1]⟩] })]) (budgetBase 0 + 12) 100)).at ((10 ^ 15))).sees (noHost)).turnOf 0 1 0).getD ((State.setNat (serving0 aServing [(4,
    { anEntry 2 with spans := [⟨0, [0, 1]⟩] })]) (budgetBase 0 + 12) 100))), (lookup 0 ((((((((State.setNat (serving0 aServing [(4,
    { anEntry 2 with spans := [⟨0, [0, 1]⟩] })]) (budgetBase 0 + 12) 100)).at ((10 ^ 15))).sees (noHost)).turnOf 0 1 0).getD ((State.setNat (serving0 aServing [(4,
    { anEntry 2 with spans := [⟨0, [0, 1]⟩] })]) (budgetBase 0 + 12) 100))))).serving).getD (aServing),
    (((((((((((State.setNat (serving0 aServing [(4,
    { anEntry 2 with spans := [⟨0, [0, 1]⟩] })]) (budgetBase 0 + 12) 100)).at ((10 ^ 15))).sees (noHost)).turnOf 0 1 0).getD ((State.setNat (serving0 aServing [(4,
    { anEntry 2 with spans := [⟨0, [0, 1]⟩] })]) (budgetBase 0 + 12) 100))))).boundary 0).closeIfDone 0).stepReady 0 ((lookup 0 ((((((((State.setNat (serving0 aServing [(4,
    { anEntry 2 with spans := [⟨0, [0, 1]⟩] })]) (budgetBase 0 + 12) 100)).at ((10 ^ 15))).sees (noHost)).turnOf 0 1 0).getD ((State.setNat (serving0 aServing [(4,
    { anEntry 2 with spans := [⟨0, [0, 1]⟩] })]) (budgetBase 0 + 12) 100))))).serving).getD (aServing))),
    (lookup 0 (((((((((((((State.setNat (serving0 aServing [(4,
    { anEntry 2 with spans := [⟨0, [0, 1]⟩] })]) (budgetBase 0 + 12) 100)).at ((10 ^ 15))).sees (noHost)).turnOf 0 1 0).getD ((State.setNat (serving0 aServing [(4,
    { anEntry 2 with spans := [⟨0, [0, 1]⟩] })]) (budgetBase 0 + 12) 100))))).boundary 0).closeIfDone 0).stepReady 0 ((lookup 0 ((((((((State.setNat (serving0 aServing [(4,
    { anEntry 2 with spans := [⟨0, [0, 1]⟩] })]) (budgetBase 0 + 12) 100)).at ((10 ^ 15))).sees (noHost)).turnOf 0 1 0).getD ((State.setNat (serving0 aServing [(4,
    { anEntry 2 with spans := [⟨0, [0, 1]⟩] })]) (budgetBase 0 + 12) 100))))).serving).getD (aServing))))).serving).getD (aServing),
    (lookup 0 ((((((((((((((State.setNat (serving0 aServing [(4,
    { anEntry 2 with spans := [⟨0, [0, 1]⟩] })]) (budgetBase 0 + 12) 100)).at ((10 ^ 15))).sees (noHost)).turnOf 0 1 0).getD ((State.setNat (serving0 aServing [(4,
    { anEntry 2 with spans := [⟨0, [0, 1]⟩] })]) (budgetBase 0 + 12) 100))))).boundary 0).closeIfDone 0).stepReady 0 ((lookup 0 ((((((((State.setNat (serving0 aServing [(4,
    { anEntry 2 with spans := [⟨0, [0, 1]⟩] })]) (budgetBase 0 + 12) 100)).at ((10 ^ 15))).sees (noHost)).turnOf 0 1 0).getD ((State.setNat (serving0 aServing [(4,
    { anEntry 2 with spans := [⟨0, [0, 1]⟩] })]) (budgetBase 0 + 12) 100))))).serving).getD (aServing))))).chooseStep 0 ((lookup 0 (((((((((((((State.setNat (serving0 aServing [(4,
    { anEntry 2 with spans := [⟨0, [0, 1]⟩] })]) (budgetBase 0 + 12) 100)).at ((10 ^ 15))).sees (noHost)).turnOf 0 1 0).getD ((State.setNat (serving0 aServing [(4,
    { anEntry 2 with spans := [⟨0, [0, 1]⟩] })]) (budgetBase 0 + 12) 100))))).boundary 0).closeIfDone 0).stepReady 0 ((lookup 0 ((((((((State.setNat (serving0 aServing [(4,
    { anEntry 2 with spans := [⟨0, [0, 1]⟩] })]) (budgetBase 0 + 12) 100)).at ((10 ^ 15))).sees (noHost)).turnOf 0 1 0).getD ((State.setNat (serving0 aServing [(4,
    { anEntry 2 with spans := [⟨0, [0, 1]⟩] })]) (budgetBase 0 + 12) 100))))).serving).getD (aServing))))).serving).getD (aServing)) 16384).1.serving).getD (aServing),
    by decide +kernel⟩,
   ⟨(serving0 { aServing with step := some aStep } []), 0, (10 ^ 15), noHost, { aServing with step := some aStep }, aStep,
    (((((serving0 { aServing with step := some aStep } [])).at ((10 ^ 15))).sees (noHost)).ringing.actFor 1 0), by decide +kernel⟩,
   ⟨(regsOf act [(budgetBase 63, 2 ^ 31 + 70), (budgetBase 63 + 4, 100)]), (10 ^ 15), 63, by decide +kernel⟩⟩

/-- TrainingOpensAndCloses: what its clauses ask, met clause by clause (trainStep, trainClose, trainStepStart). -/
theorem witness_TrainingOpensAndCloses :
    (∃ (s : State) (r : CmdRef) (k : Cmd) (hv : HostView) (pounds : List Nat), s.Ready 0x7000 r k ∧
        theRefusal ((s.meets hv k).trainFails k ++ [(s.meets hv k).rangesFail k ((s.meets hv k).planReads k) false 72]) = none ∧
        (s.meets hv k).rangesStatus ((s.meets hv k).planReads k) = none ∧
        ((s.meets hv k).readPlan (k.param 72 8)).fails ((s.meets hv k).bytesAt (k.param 72 8) 96) ((s.meets hv k).dataSize k) ((s.meets hv k).stage k) ((s.meets hv k).stages k) = none ∧
        (s.meets hv k).planLaneFails k ((s.meets hv k).readPlan (k.param 72 8)) = none ∧
        ((((s.meets hv k).planRanges k ((s.meets hv k).readPlan (k.param 72 8))).findSome? fun x => (s.meets hv k).rangeOf k x.1 x.2 true { reach := true }) = none) ∧
        (s.meets hv k).poundsOf k ((s.meets hv k).readPlan (k.param 72 8)) = some pounds ∧
        (s.meets hv k).stashNeeds k ((s.meets hv k).readPlan (k.param 72 8)) ≤ k.param 96 8 ∧
        ((s.meets hv k).readPlan (k.param 72 8)).workNeeds ≤ k.param 120 8)
    ∧ (∃ (s : State) (r : CmdRef) (k : Cmd) (v : Train), s.Ready 0x7001 r k ∧ lookup (k.param 32 1) s.trains = some v ∧
        v.cmd.berth = k.berth ∧ v.opened = true ∧ v.ended = false ∧ v.closing = none ∧ ((v.stopped.isSome = true ∨ v.phase = .idle)))
    ∧ (∃ (s : State) (r : CmdRef) (k : Cmd) (v : Train), s.Ready 0x7001 r k ∧ lookup (k.param 32 1) s.trains = some v ∧
        v.cmd.berth = k.berth ∧ v.opened = true ∧ v.ended = false ∧ v.closing = none ∧ v.stopped = none ∧ (v.phase ≠ .idle) ∧
        ((k.param 33 1 ≠ 1 ∨ v.commitCast = true)))
    ∧ (∃ (s : State) (r : CmdRef) (k : Cmd) (v : Train), s.Ready 0x7001 r k ∧ lookup (k.param 32 1) s.trains = some v ∧
        v.cmd.berth = k.berth ∧ v.opened = true ∧ v.ended = false ∧ v.closing = none ∧ v.stopped = none ∧ (v.phase ≠ .idle) ∧
        k.param 33 1 = 1 ∧ v.commitCast = false ∧ v.parking = [] ∧ s.turns = [] ∧ s.colls = [])
    ∧ (∃ (s : State) (n : Nat) (now : Nat) (hv : HostView) (k : Train) (t0 : State) (k0 : Train) (u : State), lookup n s.trains = some k ∧
        ((s.at now).sees hv).trainMayStart k = true ∧ ((s.at now).sees hv).turnOf k.cmd.berth 2 n = some t0 ∧ t0.beating = true ∧
        u = (t0.actFor s.spine.epoch.toNat k.cmd.berth).ringing ∧ lookup n t0.trains = some k0 ∧ u.trainMayStart k0 = true ∧
        u.tableStops k0 (u.stepTable (u.natAt (k0.cmd.param 80 8 + 8 * k0.index) 8)) = true)
    ∧ (∃ (s : State) (n : Nat) (now : Nat) (hv : HostView) (k : Train) (t0 : State) (k0 : Train) (u : State) (table : StepTable),
        lookup n s.trains = some k ∧ ((s.at now).sees hv).trainMayStart k = true ∧ ((s.at now).sees hv).turnOf k.cmd.berth 2 n = some t0 ∧
        t0.beating = true ∧ u = (t0.actFor s.spine.epoch.toNat k.cmd.berth).ringing ∧ lookup n t0.trains = some k0 ∧
        u.trainMayStart k0 = true ∧ u.stepTable (u.natAt (k0.cmd.param 80 8 + 8 * k0.index) 8) = table ∧ u.tableStops k0 table = false) :=
  ⟨⟨(on (((((withCtx 1 2).setNat (blkKeeper + 0x2010) (2 ^ 31)).setNat (histBase 1) (2 ^ 27 + 2 ^ 20 + 0x1800)).placed 0x6000000 modelBytes).placed 0x6800000 ((leBytes 2 0 ++ leBytes 2 1 ++ leBytes 4 12 ++ leBytes 1 1 ++ leBytes 1 3 ++ zeros 6 ++ leBytes 8 0x6000000 ++ zeros 8 ++ leBytes 4 2 ++ leBytes 2 1 ++ zeros 2 ++ leBytes 8 0x9000000 ++ zeros 48) ++ ((([(0xFFFF,
    0), (0xFFFF, 1), (0xFFFF, 2)] ++ ([0, 1, 2, 3, 8, 9, 4, 5, 6].map fun c => (0,
    c)) : List (Nat × Nat))).flatMap fun k => leBytes 2 k.1 ++ leBytes 2 k.2 ++ [1, 1, 255] ++ zeros 41))) (wc 0x7000 trainFields)), ⟨1, 7⟩,
    (wc 0x7000 trainFields), noHost, ([] : List Nat), by unfold State.Ready; decide +kernel⟩,
   ⟨(on (trains0 ber aTrain) (wc 0x7001 [(32,1,0),(33,1,0)])), ⟨1, 7⟩, (wc 0x7001 [(32,1,0),(33,1,0)]), aTrain,
    by unfold State.Ready; decide +kernel⟩,
   ⟨(on (trains0 ber { aTrain with phase := .reducing }) (wc 0x7001 [(32,1,0),(33,1,0)])), ⟨1, 7⟩, (wc 0x7001 [(32,1,0),(33,1,0)]),
    { aTrain with phase := .reducing }, by unfold State.Ready; decide +kernel⟩,
   ⟨(on (trains0 ber { aTrain with phase := .reducing }) (wc 0x7001 [(32,1,0),(33,1,1)])), ⟨1, 7⟩, (wc 0x7001 [(32,1,0),(33,1,1)]),
    { aTrain with phase := .reducing }, by unfold State.Ready; decide +kernel⟩,
   ⟨(trains0 ber aTrain), 0, (10 ^ 15), noHost, aTrain,
    ((((((trains0 ber aTrain)).at ((10 ^ 15))).sees (noHost)).turnOf 0 2 0).getD ((trains0 ber aTrain))),
    (lookup 0 ((((((((trains0 ber aTrain)).at ((10 ^ 15))).sees (noHost)).turnOf 0 2 0).getD ((trains0 ber aTrain))))).trains).getD (aTrain),
    (((((((((trains0 ber aTrain)).at ((10 ^ 15))).sees (noHost)).turnOf 0 2 0).getD ((trains0 ber aTrain))))).actFor (((trains0 ber aTrain))).spine.epoch.toNat 0).ringing,
    by decide +kernel⟩,
   ⟨(((trains0 ber aTrain).placed 0x6900000 (leBytes 8 0x6A00000)).placed 0x6A00000 (leBytes 4 1 ++ leBytes 4 1 ++ leBytes 4 0x3F800000 ++ zeros 4 ++ zeros 4 ++ zeros 4 ++ leBytes 8 0x6B00000 ++ zeros 8)),
    0, (10 ^ 15), noHost, aTrain,
    ((((((((trains0 ber aTrain).placed 0x6900000 (leBytes 8 0x6A00000)).placed 0x6A00000 (leBytes 4 1 ++ leBytes 4 1 ++ leBytes 4 0x3F800000 ++ zeros 4 ++ zeros 4 ++ zeros 4 ++ leBytes 8 0x6B00000 ++ zeros 8))).at ((10 ^ 15))).sees (noHost)).turnOf 0 2 0).getD ((((trains0 ber aTrain).placed 0x6900000 (leBytes 8 0x6A00000)).placed 0x6A00000 (leBytes 4 1 ++ leBytes 4 1 ++ leBytes 4 0x3F800000 ++ zeros 4 ++ zeros 4 ++ zeros 4 ++ leBytes 8 0x6B00000 ++ zeros 8)))),
    (lookup 0 ((((((((((trains0 ber aTrain).placed 0x6900000 (leBytes 8 0x6A00000)).placed 0x6A00000 (leBytes 4 1 ++ leBytes 4 1 ++ leBytes 4 0x3F800000 ++ zeros 4 ++ zeros 4 ++ zeros 4 ++ leBytes 8 0x6B00000 ++ zeros 8))).at ((10 ^ 15))).sees (noHost)).turnOf 0 2 0).getD ((((trains0 ber aTrain).placed 0x6900000 (leBytes 8 0x6A00000)).placed 0x6A00000 (leBytes 4 1 ++ leBytes 4 1 ++ leBytes 4 0x3F800000 ++ zeros 4 ++ zeros 4 ++ zeros 4 ++ leBytes 8 0x6B00000 ++ zeros 8)))))).trains).getD (aTrain),
    (((((((((((trains0 ber aTrain).placed 0x6900000 (leBytes 8 0x6A00000)).placed 0x6A00000 (leBytes 4 1 ++ leBytes 4 1 ++ leBytes 4 0x3F800000 ++ zeros 4 ++ zeros 4 ++ zeros 4 ++ leBytes 8 0x6B00000 ++ zeros 8))).at ((10 ^ 15))).sees (noHost)).turnOf 0 2 0).getD ((((trains0 ber aTrain).placed 0x6900000 (leBytes 8 0x6A00000)).placed 0x6A00000 (leBytes 4 1 ++ leBytes 4 1 ++ leBytes 4 0x3F800000 ++ zeros 4 ++ zeros 4 ++ zeros 4 ++ leBytes 8 0x6B00000 ++ zeros 8)))))).actFor (((((trains0 ber aTrain).placed 0x6900000 (leBytes 8 0x6A00000)).placed 0x6A00000 (leBytes 4 1 ++ leBytes 4 1 ++ leBytes 4 0x3F800000 ++ zeros 4 ++ zeros 4 ++ zeros 4 ++ leBytes 8 0x6B00000 ++ zeros 8)))).spine.epoch.toNat 0).ringing,
    (((((((((((((trains0 ber aTrain).placed 0x6900000 (leBytes 8 0x6A00000)).placed 0x6A00000 (leBytes 4 1 ++ leBytes 4 1 ++ leBytes 4 0x3F800000 ++ zeros 4 ++ zeros 4 ++ zeros 4 ++ leBytes 8 0x6B00000 ++ zeros 8))).at ((10 ^ 15))).sees (noHost)).turnOf 0 2 0).getD ((((trains0 ber aTrain).placed 0x6900000 (leBytes 8 0x6A00000)).placed 0x6A00000 (leBytes 4 1 ++ leBytes 4 1 ++ leBytes 4 0x3F800000 ++ zeros 4 ++ zeros 4 ++ zeros 4 ++ leBytes 8 0x6B00000 ++ zeros 8)))))).actFor (((((trains0 ber aTrain).placed 0x6900000 (leBytes 8 0x6A00000)).placed 0x6A00000 (leBytes 4 1 ++ leBytes 4 1 ++ leBytes 4 0x3F800000 ++ zeros 4 ++ zeros 4 ++ zeros 4 ++ leBytes 8 0x6B00000 ++ zeros 8)))).spine.epoch.toNat 0).ringing)).stepTable 0x6A00000,
    by decide +kernel⟩⟩

/-- TrainingPassesRun: what its clauses ask, met clause by clause (poundEntry, passEnd, microRerunDelay). -/
theorem witness_TrainingPassesRun :
    (∃ (s : State) (n : Nat) (p : Nat) (now : Nat) (k : Train) (m : Msg) (x : Coll) (z : State) (w : State), lookup n s.trains = some k ∧
        (s.at now).beating = true ∧ z = ((s.at now).inTrain n).ringing ∧ k.phase = .pass ∧ k.again = none ∧ z.PipeMeets n p m x ∧
        m.prefix.digest = x.cmd.digest ∧ m.body.length = x.cmd.param 64 8 + 16 ∧ m.poison = [] ∧ w = z.pipeTaken p m x ∧
        (x.cmd.collSeq ≠ k.passWindow + 4096) ∧ k.PoundsPosted ∧ k.op = none ∧ x.cmd.param 48 1 = 1 ∧ k.bwd = [] ∧
        (z.stage k.cmd + 1 ≠ z.stages k.cmd) ∧ k.backwards < k.order.length ∧
        ((k.order.length ≤ k.forwards ∨ z.warmUp k < k.forwards - k.backwards)))
    ∧ (∃ (s : State) (n : Nat) (p : Nat) (now : Nat) (k : Train) (m : Msg) (x : Coll) (z : State) (w : State), lookup n s.trains = some k ∧
        (s.at now).beating = true ∧ z = ((s.at now).inTrain n).ringing ∧ k.phase = .pass ∧ k.again = none ∧ z.PipeMeets n p m x ∧
        m.prefix.digest = x.cmd.digest ∧ m.body.length = x.cmd.param 64 8 + 16 ∧ m.poison = [] ∧ w = z.pipeTaken p m x ∧
        (x.cmd.collSeq ≠ k.passWindow + 4096) ∧ k.PoundsPosted ∧ k.op = none ∧ x.cmd.param 48 1 = 0 ∧ k.fwd = [] ∧ (z.stage k.cmd ≠ 0) ∧
        k.forwards < k.order.length ∧ k.backwards < k.order.length ∧ k.forwards - k.backwards ≤ z.warmUp k)
    ∧ (∃ (s : State) (n : Nat) (p : Nat) (now : Nat) (k : Train) (m : Msg) (x : Coll) (z : State) (w : State), lookup n s.trains = some k ∧
        (s.at now).beating = true ∧ z = ((s.at now).inTrain n).ringing ∧ k.phase = .pass ∧ k.again = none ∧ z.PipeMeets n p m x ∧
        m.prefix.digest = x.cmd.digest ∧ m.body.length = x.cmd.param 64 8 + 16 ∧ m.poison = [] ∧ w = z.pipeTaken p m x ∧
        (x.cmd.collSeq ≠ k.passWindow + 4096) ∧ k.PoundsPosted ∧ k.op = none ∧ x.cmd.param 48 1 = 1 ∧ k.fwd = [] ∧ (z.stage k.cmd ≠ 0) ∧
        k.forwards < k.order.length ∧ k.backwards < k.order.length ∧ k.forwards - k.backwards ≤ z.warmUp k ∧
        w.rangesStatus [(x.cmd.param 56 8, k.plan.entryBytes k.cmd.microRows)] = none)
    ∧ (∃ (s : State) (n : Nat) (p : Nat) (now : Nat) (k : Train) (m : Msg) (x : Coll) (z : State) (w : State) (st : Nat),
        lookup n s.trains = some k ∧ (s.at now).beating = true ∧ z = ((s.at now).inTrain n).ringing ∧ k.phase = .pass ∧ k.again = none ∧
        z.PipeMeets n p m x ∧ m.prefix.digest = x.cmd.digest ∧ m.body.length = x.cmd.param 64 8 + 16 ∧ m.poison = [] ∧
        w = z.pipeTaken p m x ∧ (x.cmd.collSeq ≠ k.passWindow + 4096) ∧ k.PoundsPosted ∧ k.op = none ∧ x.cmd.param 48 1 = 1 ∧ k.fwd = [] ∧
        (z.stage k.cmd ≠ 0) ∧ k.forwards < k.order.length ∧ k.backwards < k.order.length ∧ k.forwards - k.backwards ≤ z.warmUp k ∧
        w.rangesStatus [(x.cmd.param 56 8, k.plan.entryBytes k.cmd.microRows)] = some st)
    ∧ (∃ (s : State) (n : Nat) (p : Nat) (now : Nat) (k : Train) (m : Msg) (x : Coll) (z : State), lookup n s.trains = some k ∧
        (s.at now).beating = true ∧ z = ((s.at now).inTrain n).ringing ∧ k.phase = .pass ∧ k.again = none ∧ z.PipeMeets n p m x ∧
        (m.prefix.digest ≠ x.cmd.digest))
    ∧ (∃ (s : State) (n : Nat) (p : Nat) (now : Nat) (k : Train) (m : Msg) (x : Coll) (g : Nat) (z : State) (w : State),
        lookup n s.trains = some k ∧ (s.at now).beating = true ∧ z = ((s.at now).inTrain n).ringing ∧ k.phase = .pass ∧ k.again = none ∧
        z.PipeMeets n p m x ∧ m.prefix.digest = x.cmd.digest ∧ m.body.length = x.cmd.param 64 8 + 16 ∧ m.poison = [] ∧
        w = z.pipeTaken p m x ∧ x.cmd.collSeq = k.passWindow + 4096 ∧ k.order.length ≤ k.backwards ∧ k.cmd.pipeGroup = some g ∧
        w.rangesStatus [(x.cmd.param 56 8, k.plan.entryBytes k.cmd.microRows)] = none ∧ (w.natAt (x.cmd.param 56 8) 4 ≠ 0) ∧ k.pass < 3)
    ∧ (∃ (s : State) (n : Nat) (p : Nat) (now : Nat) (k : Train) (m : Msg) (x : Coll) (g : Nat) (z : State) (w : State),
        lookup n s.trains = some k ∧ (s.at now).beating = true ∧ z = ((s.at now).inTrain n).ringing ∧ k.phase = .pass ∧ k.again = none ∧
        z.PipeMeets n p m x ∧ m.prefix.digest = x.cmd.digest ∧ m.body.length = x.cmd.param 64 8 + 16 ∧ m.poison = [] ∧
        w = z.pipeTaken p m x ∧ x.cmd.collSeq = k.passWindow + 4096 ∧ k.order.length ≤ k.backwards ∧ k.cmd.pipeGroup = some g ∧
        w.rangesStatus [(x.cmd.param 56 8, k.plan.entryBytes k.cmd.microRows)] = none ∧ w.natAt (x.cmd.param 56 8) 4 = 0 ∧
        w.rangesStatus [w.stashRange k] = none)
    ∧ (∃ (s : State) (n : Nat) (p : Nat) (now : Nat) (k : Train) (m : Msg) (x : Coll) (g : Nat) (z : State) (w : State),
        lookup n s.trains = some k ∧ (s.at now).beating = true ∧ z = ((s.at now).inTrain n).ringing ∧ k.phase = .pass ∧ k.again = none ∧
        z.PipeMeets n p m x ∧ m.prefix.digest = x.cmd.digest ∧ m.body.length = x.cmd.param 64 8 + 16 ∧ m.poison = [] ∧
        w = z.pipeTaken p m x ∧ x.cmd.collSeq = k.passWindow + 4096 ∧ k.order.length ≤ k.backwards ∧ k.cmd.pipeGroup = some g ∧
        w.rangesStatus [(x.cmd.param 56 8, k.plan.entryBytes k.cmd.microRows)] = none ∧ (w.natAt (x.cmd.param 56 8) 4 ≠ 0) ∧ 3 ≤ k.pass)
    ∧ (∃ (s : State) (n : Nat) (now : Nat) (k : Train) (t0 : Nat) (bad : List Nat), lookup n s.trains = some k ∧
        (s.at now).beating = true ∧ k.again = some (t0, bad) ∧ (s.at now).expired (t0 + msec) = true) :=
  ⟨⟨(piped { pipeTrain with forwards := 2 } 1 (pipeRecv { pipeTrain with forwards := 2 } true 0) (pipeMsg (pipeRecv { pipeTrain with forwards := 2 } true 0) 0 (zeros 11 ++ leBytes 4 1 ++ leBytes 4 9 ++ zeros 60))),
    0, 1, (10 ^ 15), { pipeTrain with forwards := 2 },
    (pipeMsg (pipeRecv { pipeTrain with forwards := 2 } true 0) 0 (zeros 11 ++ leBytes 4 1 ++ leBytes 4 9 ++ zeros 60)),
    (pipeRecv { pipeTrain with forwards := 2 } true 0),
    ((((piped { pipeTrain with forwards := 2 } 1 (pipeRecv { pipeTrain with forwards := 2 } true 0) (pipeMsg (pipeRecv { pipeTrain with forwards := 2 } true 0) 0 (zeros 11 ++ leBytes 4 1 ++ leBytes 4 9 ++ zeros 60)))).at ((10 ^ 15))).inTrain 0).ringing,
    (((((piped { pipeTrain with forwards := 2 } 1 (pipeRecv { pipeTrain with forwards := 2 } true 0) (pipeMsg (pipeRecv { pipeTrain with forwards := 2 } true 0) 0 (zeros 11 ++ leBytes 4 1 ++ leBytes 4 9 ++ zeros 60)))).at ((10 ^ 15))).inTrain 0).ringing).pipeTaken (1) ((pipeMsg (pipeRecv { pipeTrain with forwards := 2 } true 0) 0 (zeros 11 ++ leBytes 4 1 ++ leBytes 4 9 ++ zeros 60))) ((pipeRecv { pipeTrain with forwards := 2 } true 0)),
    by unfold State.PipeMeets Train.PoundsPosted; decide +kernel⟩,
   ⟨(piped { pipeTrain with forwards := 0 } 0 (pipeRecv { pipeTrain with forwards := 0 } false 0) (pipeMsg (pipeRecv { pipeTrain with forwards := 0 } false 0) 0 (zeros 11 ++ leBytes 4 1 ++ leBytes 4 9 ++ zeros 60))),
    0, 0, (10 ^ 15), { pipeTrain with forwards := 0 },
    (pipeMsg (pipeRecv { pipeTrain with forwards := 0 } false 0) 0 (zeros 11 ++ leBytes 4 1 ++ leBytes 4 9 ++ zeros 60)),
    (pipeRecv { pipeTrain with forwards := 0 } false 0),
    ((((piped { pipeTrain with forwards := 0 } 0 (pipeRecv { pipeTrain with forwards := 0 } false 0) (pipeMsg (pipeRecv { pipeTrain with forwards := 0 } false 0) 0 (zeros 11 ++ leBytes 4 1 ++ leBytes 4 9 ++ zeros 60)))).at ((10 ^ 15))).inTrain 0).ringing,
    (((((piped { pipeTrain with forwards := 0 } 0 (pipeRecv { pipeTrain with forwards := 0 } false 0) (pipeMsg (pipeRecv { pipeTrain with forwards := 0 } false 0) 0 (zeros 11 ++ leBytes 4 1 ++ leBytes 4 9 ++ zeros 60)))).at ((10 ^ 15))).inTrain 0).ringing).pipeTaken (0) ((pipeMsg (pipeRecv { pipeTrain with forwards := 0 } false 0) 0 (zeros 11 ++ leBytes 4 1 ++ leBytes 4 9 ++ zeros 60))) ((pipeRecv { pipeTrain with forwards := 0 } false 0)),
    by unfold State.PipeMeets Train.PoundsPosted; decide +kernel⟩,
   ⟨(piped { pipeTrain with forwards := 0 } 1 (pipeRecv { pipeTrain with forwards := 0 } true 0) (pipeMsg (pipeRecv { pipeTrain with forwards := 0 } true 0) 0 (zeros 11 ++ leBytes 4 1 ++ leBytes 4 9 ++ zeros 60))),
    0, 1, (10 ^ 15), { pipeTrain with forwards := 0 },
    (pipeMsg (pipeRecv { pipeTrain with forwards := 0 } true 0) 0 (zeros 11 ++ leBytes 4 1 ++ leBytes 4 9 ++ zeros 60)),
    (pipeRecv { pipeTrain with forwards := 0 } true 0),
    ((((piped { pipeTrain with forwards := 0 } 1 (pipeRecv { pipeTrain with forwards := 0 } true 0) (pipeMsg (pipeRecv { pipeTrain with forwards := 0 } true 0) 0 (zeros 11 ++ leBytes 4 1 ++ leBytes 4 9 ++ zeros 60)))).at ((10 ^ 15))).inTrain 0).ringing,
    (((((piped { pipeTrain with forwards := 0 } 1 (pipeRecv { pipeTrain with forwards := 0 } true 0) (pipeMsg (pipeRecv { pipeTrain with forwards := 0 } true 0) 0 (zeros 11 ++ leBytes 4 1 ++ leBytes 4 9 ++ zeros 60)))).at ((10 ^ 15))).inTrain 0).ringing).pipeTaken (1) ((pipeMsg (pipeRecv { pipeTrain with forwards := 0 } true 0) 0 (zeros 11 ++ leBytes 4 1 ++ leBytes 4 9 ++ zeros 60))) ((pipeRecv { pipeTrain with forwards := 0 } true 0)),
    by unfold State.PipeMeets Train.PoundsPosted; decide +kernel⟩,
   ⟨(let q : State := (piped { pipeTrain with forwards := 0 } 1 (pipeRecv { pipeTrain with forwards := 0 } true 0) (pipeMsg (pipeRecv { pipeTrain with forwards := 0 } true 0) 0 (zeros 11 ++ leBytes 4 1 ++ leBytes 4 9 ++ zeros 60))); { q with mem := { q.mem with failed := List.range 64 } }),
    0, 1, (10 ^ 15), { pipeTrain with forwards := 0 },
    (pipeMsg (pipeRecv { pipeTrain with forwards := 0 } true 0) 0 (zeros 11 ++ leBytes 4 1 ++ leBytes 4 9 ++ zeros 60)),
    (pipeRecv { pipeTrain with forwards := 0 } true 0),
    ((((let q : State := (piped { pipeTrain with forwards := 0 } 1 (pipeRecv { pipeTrain with forwards := 0 } true 0) (pipeMsg (pipeRecv { pipeTrain with forwards := 0 } true 0) 0 (zeros 11 ++ leBytes 4 1 ++ leBytes 4 9 ++ zeros 60))); { q with mem := { q.mem with failed := List.range 64 } })).at ((10 ^ 15))).inTrain 0).ringing,
    (((((let q : State := (piped { pipeTrain with forwards := 0 } 1 (pipeRecv { pipeTrain with forwards := 0 } true 0) (pipeMsg (pipeRecv { pipeTrain with forwards := 0 } true 0) 0 (zeros 11 ++ leBytes 4 1 ++ leBytes 4 9 ++ zeros 60))); { q with mem := { q.mem with failed := List.range 64 } })).at ((10 ^ 15))).inTrain 0).ringing).pipeTaken (1) ((pipeMsg (pipeRecv { pipeTrain with forwards := 0 } true 0) 0 (zeros 11 ++ leBytes 4 1 ++ leBytes 4 9 ++ zeros 60))) ((pipeRecv { pipeTrain with forwards := 0 } true 0)),
    stUncorrectable, by unfold State.PipeMeets Train.PoundsPosted; decide +kernel⟩,
   ⟨(piped pipeTrain 1 (pipeRecv pipeTrain true 0) (pipeMsg (pipeRecv pipeTrain true 0) 1 (zeros 11 ++ leBytes 4 1 ++ leBytes 4 9 ++ zeros 60))),
    0, 1, (10 ^ 15), pipeTrain, (pipeMsg (pipeRecv pipeTrain true 0) 1 (zeros 11 ++ leBytes 4 1 ++ leBytes 4 9 ++ zeros 60)),
    (pipeRecv pipeTrain true 0),
    ((((piped pipeTrain 1 (pipeRecv pipeTrain true 0) (pipeMsg (pipeRecv pipeTrain true 0) 1 (zeros 11 ++ leBytes 4 1 ++ leBytes 4 9 ++ zeros 60)))).at ((10 ^ 15))).inTrain 0).ringing,
    by unfold State.PipeMeets; decide +kernel⟩,
   ⟨(piped { pipeTrain with forwards := 2, backwards := 2 } 1 (pipeRecv { pipeTrain with forwards := 2, backwards := 2 } true 4096) (pipeMsg (pipeRecv { pipeTrain with forwards := 2, backwards := 2 } true 4096) 0 (zeros 11 ++ leBytes 4 1 ++ zeros 60 ++ leBytes 4 1))),
    0, 1, (10 ^ 15), { pipeTrain with forwards := 2, backwards := 2 },
    (pipeMsg (pipeRecv { pipeTrain with forwards := 2, backwards := 2 } true 4096) 0 (zeros 11 ++ leBytes 4 1 ++ zeros 60 ++ leBytes 4 1)),
    (pipeRecv { pipeTrain with forwards := 2, backwards := 2 } true 4096), 4,
    ((((piped { pipeTrain with forwards := 2, backwards := 2 } 1 (pipeRecv { pipeTrain with forwards := 2, backwards := 2 } true 4096) (pipeMsg (pipeRecv { pipeTrain with forwards := 2, backwards := 2 } true 4096) 0 (zeros 11 ++ leBytes 4 1 ++ zeros 60 ++ leBytes 4 1)))).at ((10 ^ 15))).inTrain 0).ringing,
    (((((piped { pipeTrain with forwards := 2, backwards := 2 } 1 (pipeRecv { pipeTrain with forwards := 2, backwards := 2 } true 4096) (pipeMsg (pipeRecv { pipeTrain with forwards := 2, backwards := 2 } true 4096) 0 (zeros 11 ++ leBytes 4 1 ++ zeros 60 ++ leBytes 4 1)))).at ((10 ^ 15))).inTrain 0).ringing).pipeTaken (1) ((pipeMsg (pipeRecv { pipeTrain with forwards := 2, backwards := 2 } true 4096) 0 (zeros 11 ++ leBytes 4 1 ++ zeros 60 ++ leBytes 4 1))) ((pipeRecv { pipeTrain with forwards := 2, backwards := 2 } true 4096)),
    by unfold State.PipeMeets; decide +kernel⟩,
   ⟨(piped { pipeTrain with forwards := 2, backwards := 2 } 1 (pipeRecv { pipeTrain with forwards := 2, backwards := 2 } true 4096) (pipeMsg (pipeRecv { pipeTrain with forwards := 2, backwards := 2 } true 4096) 0 (zeros 79))),
    0, 1, (10 ^ 15), { pipeTrain with forwards := 2, backwards := 2 },
    (pipeMsg (pipeRecv { pipeTrain with forwards := 2, backwards := 2 } true 4096) 0 (zeros 79)),
    (pipeRecv { pipeTrain with forwards := 2, backwards := 2 } true 4096), 4,
    ((((piped { pipeTrain with forwards := 2, backwards := 2 } 1 (pipeRecv { pipeTrain with forwards := 2, backwards := 2 } true 4096) (pipeMsg (pipeRecv { pipeTrain with forwards := 2, backwards := 2 } true 4096) 0 (zeros 79)))).at ((10 ^ 15))).inTrain 0).ringing,
    (((((piped { pipeTrain with forwards := 2, backwards := 2 } 1 (pipeRecv { pipeTrain with forwards := 2, backwards := 2 } true 4096) (pipeMsg (pipeRecv { pipeTrain with forwards := 2, backwards := 2 } true 4096) 0 (zeros 79)))).at ((10 ^ 15))).inTrain 0).ringing).pipeTaken (1) ((pipeMsg (pipeRecv { pipeTrain with forwards := 2, backwards := 2 } true 4096) 0 (zeros 79))) ((pipeRecv { pipeTrain with forwards := 2, backwards := 2 } true 4096)),
    by unfold State.PipeMeets; decide +kernel⟩,
   ⟨(piped { pipeTrain with forwards := 2, backwards := 2, pass := 3 } 1 (pipeRecv { pipeTrain with forwards := 2, backwards := 2, pass := 3 } true 4096) (pipeMsg (pipeRecv { pipeTrain with forwards := 2, backwards := 2, pass := 3 } true 4096) 0 (zeros 11 ++ leBytes 4 1 ++ zeros 60 ++ leBytes 4 1))),
    0, 1, (10 ^ 15), { pipeTrain with forwards := 2, backwards := 2, pass := 3 },
    (pipeMsg (pipeRecv { pipeTrain with forwards := 2, backwards := 2, pass := 3 } true 4096) 0 (zeros 11 ++ leBytes 4 1 ++ zeros 60 ++ leBytes 4 1)),
    (pipeRecv { pipeTrain with forwards := 2, backwards := 2, pass := 3 } true 4096), 4,
    ((((piped { pipeTrain with forwards := 2, backwards := 2, pass := 3 } 1 (pipeRecv { pipeTrain with forwards := 2, backwards := 2, pass := 3 } true 4096) (pipeMsg (pipeRecv { pipeTrain with forwards := 2, backwards := 2, pass := 3 } true 4096) 0 (zeros 11 ++ leBytes 4 1 ++ zeros 60 ++ leBytes 4 1)))).at ((10 ^ 15))).inTrain 0).ringing,
    (((((piped { pipeTrain with forwards := 2, backwards := 2, pass := 3 } 1 (pipeRecv { pipeTrain with forwards := 2, backwards := 2, pass := 3 } true 4096) (pipeMsg (pipeRecv { pipeTrain with forwards := 2, backwards := 2, pass := 3 } true 4096) 0 (zeros 11 ++ leBytes 4 1 ++ zeros 60 ++ leBytes 4 1)))).at ((10 ^ 15))).inTrain 0).ringing).pipeTaken (1) ((pipeMsg (pipeRecv { pipeTrain with forwards := 2, backwards := 2, pass := 3 } true 4096) 0 (zeros 11 ++ leBytes 4 1 ++ zeros 60 ++ leBytes 4 1))) ((pipeRecv { pipeTrain with forwards := 2, backwards := 2, pass := 3 } true 4096)),
    by unfold State.PipeMeets; decide +kernel⟩,
   ⟨(trains0 ber { aTrain with phase := .pass, again := some (5, [3]), micros := [(0, 0), (0, 0), (0, 0), (0, 0)] }), 0, (10 ^ 15),
    { aTrain with phase := .pass, again := some (5, [3]), micros := [(0, 0), (0, 0), (0, 0), (0, 0)] }, 5, ([3] : List Nat),
    by decide +kernel⟩⟩

/-- TrainingDecisionsApply: what its clauses ask, met clause by clause (stepFiniteResult, stepDecision, attemptRetry). -/
theorem witness_TrainingDecisionsApply :
    (∃ (s : State) (n : Nat) (k : Train), lookup n s.trains = some k ∧ k.phase = .finiteKnown false)
    ∧ (∃ (s : State) (n : Nat) (k : Train), lookup n s.trains = some k ∧ k.phase = .finiteKnown true)
    ∧ (∃ (s : State) (n : Nat) (k : Train), lookup n s.trains = some k ∧ k.phase = .finiteData ∧ k.cmd.pipeGroup = none ∧
        s.takeResult n 0x5005 (k.nextSeq - 1) = some (0, 1))
    ∧ (∃ (s : State) (n : Nat) (k : Train) (st : Nat) (r0 : Nat), lookup n s.trains = some k ∧ k.phase = .finiteData ∧
        s.takeResult n 0x5005 (k.nextSeq - 1) = some (st + 1, r0))
    ∧ (∃ (s : State) (n : Nat) (k : Train), lookup n s.trains = some k ∧ k.phase = .decided true)
    ∧ (∃ (s : State) (n : Nat) (k : Train), lookup n s.trains = some k ∧ k.phase = .decided false ∧ k.attempt < k.cmd.param 58 1 ∧
        ((∀ r ∈ s.reduces n, r.ended.map Prod.fst ≠ some stUncorrectable)))
    ∧ (∃ (s : State) (n : Nat) (k : Train), lookup n s.trains = some k ∧ k.phase = .decided false ∧ k.cmd.param 58 1 ≤ k.attempt) :=
  ⟨⟨(trains0 (grouped wired) { aTrain with phase := .finiteKnown false }), 0, { aTrain with phase := .finiteKnown false },
    by decide +kernel⟩,
   ⟨(trains0 (grouped wired) { aTrain with phase := .finiteKnown true }), 0, { aTrain with phase := .finiteKnown true }, by decide +kernel⟩,
   ⟨{ (trains0 (grouped wired) { aTrain with phase := .finiteData, issued := 1 }) with colls := [{ (collOf (wc 0x5005 [(40, 4, 1)])) with owner := .train 0, ended := some (0, 1, 0) }] },
    0, { aTrain with phase := .finiteData, issued := 1 }, by decide +kernel⟩,
   ⟨{ (trains0 (grouped wired) { aTrain with phase := .finiteData, issued := 1 }) with colls := [{ (collOf (wc 0x5005 [(40, 4, 1)])) with owner := .train 0, ended := some ((5 + 1), 0, 0) }] },
    0, { aTrain with phase := .finiteData, issued := 1 }, 5, 0, by decide +kernel⟩,
   ⟨(trains0 (grouped wired) { aTrain with phase := .decided true, attempt := 0 }), 0,
    { aTrain with phase := .decided true, attempt := 0 }, by decide +kernel⟩,
   ⟨(trains0 (grouped wired) { aTrain with phase := .decided false, attempt := 1 }), 0,
    { aTrain with phase := .decided false, attempt := 1 }, by decide +kernel⟩,
   ⟨(trains0 (grouped wired) { aTrain with phase := .decided false, attempt := 2 }), 0,
    { aTrain with phase := .decided false, attempt := 2 }, by decide +kernel⟩⟩

/-- UpdateEventsApply: what its clauses ask, met clause by clause (finalBlockUpdate, shadowHeaderWrite). -/
theorem witness_UpdateEventsApply :
    (∃ (s : State) (ctx : Nat) (now : Nat) (k : Coll) (i : Nat) (b : GtBlock) (u : Prod State (Prod Counts Bool)),
        s.updaterOf ctx = some k ∧ k.owner = CollOwner.command ∧ (s.at now).beating = true ∧
        (k.finals.find? (fun f => f.1 == s.ctxNext ctx) = some (i, b)) ∧
        ((s.at now).ringing.actAs k.cmd).updateStaged k.cmd.epoch ctx i b.gradient [] = u ∧ u.1.stateLost ctx = false)
    ∧ (∃ (s : State) (ctx : Nat) (k : Coll), s.updaterOf ctx = some k ∧ k.ownDone = false ∧ s.ctxNext ctx = s.ctxBlocks k.cmd.epoch ctx ∧
        s.stateLost ctx = false)
    ∧ (∃ (s : State) (ctx : Nat) (k : Coll), s.updaterOf ctx = some k ∧ s.colls = [k] ∧ k.voting = true ∧ k.ownDone = false ∧
        s.ctxNext ctx = s.ctxBlocks k.cmd.epoch ctx ∧ s.stateLost ctx = false) :=
  ⟨⟨updater, 1, (10 ^ 15), updating, 0, aBlock,
    (((updater).at ((10 ^ 15))).ringing.actAs ((updating)).cmd).updateStaged ((updating)).cmd.epoch 1 0 ((aBlock)).gradient [],
    by decide +kernel, by decide +kernel, by decide +kernel, by decide +kernel, rfl, by decide +kernel⟩,
   ⟨{ ((withCtx 1 2).setNat (ctxStatus 1) 2) with colls := [(collOf (running (wc 0x5001 [(36,4,5),(49,1,3),(54,2,1)])))] }, 1,
    (collOf (running (wc 0x5001 [(36,4,5),(49,1,3),(54,2,1)]))), by decide +kernel⟩,
   ⟨{ ((withCtx 1 2).setNat (ctxStatus 1) 2) with colls := [{ (collOf (running (wc 0x5001 [(36,4,5),(49,1,3),(54,2,1)]))) with voting := true }] },
    1, { (collOf (running (wc 0x5001 [(36,4,5),(49,1,3),(54,2,1)]))) with voting := true }, by decide +kernel⟩⟩

/-- CheckpointsComplete: what its clauses ask, met clause by clause (checkpoint, checkpointImport, checkpointExportDone). -/
theorem witness_CheckpointsComplete :
    (∃ (s : State) (r : CmdRef) (k : Cmd) (hv : HostView), s.Ready 0x7002 r k ∧ theRefusal ((s.meets hv k).checkpointFails k) = none ∧
        ((s.meets hv k).checkLive k.epoch (k.param 32 1)).stateLost (k.param 32 1) = false)
    ∧ (∃ (s : State) (r : CmdRef) (k : Cmd) (hv : HostView), s.Ready 0x7002 r k ∧ theRefusal ((s.meets hv k).checkpointFails k) = none ∧
        ((s.meets hv k).checkLive k.epoch (k.param 32 1)).stateLost (k.param 32 1) = true)
    ∧ (∃ (s : State) (r : CmdRef) (k : Cmd) (hv : HostView), s.Ready 0x7003 r k ∧
        theRefusal ((s.meets hv k).importFails k ((s.meets hv k).readPlace (placeOf (k.param 40 8)) 0 ((s.meets hv k).imageBytes k.epoch (k.param 32 1))).1) = none ∧
        ((s.meets hv k).readPlace (placeOf (k.param 40 8)) 0 ((s.meets hv k).imageBytes k.epoch (k.param 32 1))).2 = none)
    ∧ (∃ (s : State) (ctx : Nat) (e : Export), (s.exports.find? (fun e => e.ctx == ctx) = some e))
    ∧ (∃ (s : State) (ctx : Nat) (now : Nat) (hv : HostView) (e : Export) (q : Queue), (s.exports.find? (fun e => e.ctx == ctx) = some e) ∧
        e.failed = none ∧ (((s.at now).sees hv).writePlace (placeOf e.dst) 0 e.image).2 = none ∧ s.reports = [] ∧
        lookup e.queue s.queues = some q ∧ q.cqFull = true ∧ q.fn = e.fn)
    ∧ (∃ (s : State) (ctx : Nat) (e : Export) (st : Nat) (q : Queue), (s.exports.find? (fun e => e.ctx == ctx) = some e) ∧
        e.failed = some st ∧ s.reports = [] ∧ lookup e.queue s.queues = some q ∧ q.cqFull = true ∧ q.fn = e.fn) :=
  ⟨⟨(on (withCtx 1 2) (wc 0x7002 [(32,1,1),(33,1,0),(40,8,0x8000000),(48,8,0x10000)])), ⟨1, 7⟩,
    (wc 0x7002 [(32,1,1),(33,1,0),(40,8,0x8000000),(48,8,0x10000)]), noHost, by unfold State.Ready; decide +kernel⟩,
   ⟨(on ((withCtx 1 2).setNat (ctxStatus 1) (2 ^ 31)) (wc 0x7002 [(32,1,1),(33,1,0),(40,8,0x8000000),(48,8,0x10000)])), ⟨1, 7⟩,
    (wc 0x7002 [(32,1,1),(33,1,0),(40,8,0x8000000),(48,8,0x10000)]), noHost, by unfold State.Ready; decide +kernel⟩,
   ⟨(on ((withCtx 1 0).placed 0x8000000 (leBytes 4 checkpointMagic ++ leBytes 1 ((withCtx 1 0).ctxAlgo 1 1) ++ zeros 3 ++ leBytes 4 0 ++ zeros 20 ++ leBytes 8 (crc64 []) ++ zeros 88)) (wc 0x7003 [(32,1,1),(33,1,0),(40,8,0x8000000),(48,8,0x10000)])),
    ⟨1, 7⟩, (wc 0x7003 [(32,1,1),(33,1,0),(40,8,0x8000000),(48,8,0x10000)]), noHost, by unfold State.Ready; decide +kernel⟩,
   ⟨{ ber with exports := [({ ctx := 1, queue := 1, fn := 0, tag := 7, epoch := 1, berth := 0, dst := 0x8000000, generation := 0, image := zeros 128, failed := none : Export })] },
    1,
    ({ ctx := 1, queue := 1, fn := 0, tag := 7, epoch := 1, berth := 0, dst := 0x8000000, generation := 0, image := zeros 128, failed := none : Export }),
    by decide +kernel⟩,
   ⟨{ ber with exports := [({ ctx := 1, queue := 1, fn := 0, tag := 7, epoch := 1, berth := 0, dst := 0x8000000, generation := 0, image := zeros 128, failed := none : Export })], queues := [(1, { aQueue with cqNext := 63 })] },
    1, (10 ^ 15), noHost,
    ({ ctx := 1, queue := 1, fn := 0, tag := 7, epoch := 1, berth := 0, dst := 0x8000000, generation := 0, image := zeros 128, failed := none : Export }),
    { aQueue with cqNext := 63 }, by decide +kernel⟩,
   ⟨{ ber with exports := [({ ctx := 1, queue := 1, fn := 0, tag := 7, epoch := 1, berth := 0, dst := 0x8000000, generation := 0, image := zeros 128, failed := (some 5) : Export })], queues := [(1, { aQueue with cqNext := 63 })] },
    1,
    ({ ctx := 1, queue := 1, fn := 0, tag := 7, epoch := 1, berth := 0, dst := 0x8000000, generation := 0, image := zeros 128, failed := (some 5) : Export }),
    5, { aQueue with cqNext := 63 }, by decide +kernel⟩⟩

/-- TurnsBeginAndSettle: what its clauses ask, met clause by clause (turn, settleEnd, drainDeadline). -/
theorem witness_TurnsBeginAndSettle :
    (∃ (s : State) (r : CmdRef) (k : Cmd) (hv : HostView) (v : Serving), s.Ready 0x8000 r k ∧
        theRefusal ((s.meets hv k).turnFails k) = none ∧ lookup (k.param 33 1) s.serving = some v ∧
        ((s.meets hv k).rangesStatus ((k.turnReads ((s.meets hv k).natAt (k.param 96 8 + 28) 4)).filter fun x => decide (0 < x.2)) = none) ∧
        (s.meets hv k).turnRefusal k v = none)
    ∧ (∃ (s : State) (n : Nat) (x : Turn) (v : Serving), lookup n s.turns = some x ∧ lookup n s.serving = some v ∧ x.phase = 2 ∧
        x.failing = none ∧ x.train = none ∧ v.step = none ∧ ((s.entriesOf n).any (fun e => x.answers e.2) = false))
    ∧ (∃ (s : State) (n : Nat) (x : Turn) (v : Serving) (y : Train) (q : Nat), lookup n s.turns = some x ∧ lookup n s.serving = some v ∧
        x.phase = 2 ∧ x.failing = none ∧ x.train = some q ∧ lookup q s.trains = some y ∧ y.parked = true ∧ y.phase = .idle ∧ x.pieces = [] ∧
        v.step = none ∧ ((s.entriesOf n).any (fun e => x.answers e.2) = false))
    ∧ (∃ (s : State) (n : Nat) (x : Turn) (v : Serving) (y : Train) (q : Nat) (z : Piece) (p : Nat), lookup n s.turns = some x ∧
        lookup n s.serving = some v ∧ x.phase = 2 ∧ x.failing = none ∧ x.train = some q ∧ lookup q s.trains = some y ∧ y.parked = true ∧
        y.phase = .idle ∧ x.toGeneration = true ∧ x.pieces = [z] ∧ (z.dest ≠ s.ownRoute) ∧ s.routePort z.dest = some p ∧
        (s.port p).state < 3 ∧ v.step = none ∧ ((s.entriesOf n).any (fun e => x.answers e.2) = false))
    ∧ (∃ (s : State) (n : Nat) (x : Turn) (v : Serving) (q : Nat), lookup n s.turns = some x ∧ lookup n s.serving = some v ∧ x.phase = 2 ∧
        x.failing = none ∧ x.train = some q ∧ lookup q s.trains = none)
    ∧ (∃ (s : State) (n : Nat) (now : Nat) (x : Turn) (v : Serving) (i : Nat) (e : Entry), lookup n s.turns = some x ∧ x.phase = 2 ∧
        x.cuts = false ∧ x.failing = none ∧ (s.at now).expired (x.startedAt + x.cmd.param 48 2 * msec) = true ∧
        lookup n s.serving = some v ∧ v.step.isSome = true ∧ s.entriesOf n = [(i, e)] ∧ lookup i s.manifest = some e ∧ x.answers e = true) :=
  ⟨⟨(on (serving0 aServing []) (wc 0x8000 [(32,1,1),(33,1,0),(34,1,0xFF),(37,1,9),(38,1,0xFF)])), ⟨1, 7⟩,
    (wc 0x8000 [(32,1,1),(33,1,0),(34,1,0xFF),(37,1,9),(38,1,0xFF)]), noHost, aServing, by unfold State.Ready; decide +kernel⟩,
   ⟨(turning0 aServing aTrain (aTurn [(32, 1, 0), (33, 1, 0), (34, 1, 0xFF), (37, 1, 9), (38, 1, 0xFF), (40, 4, 9), (44, 4, 3), (48, 2, 5),
    (50, 2, 7), (56, 8, 1234)] 2)), 0, (aTurn [(32, 1, 0), (33, 1, 0), (34, 1, 0xFF), (37, 1, 9), (38, 1, 0xFF), (40, 4, 9), (44, 4, 3),
    (48, 2, 5), (50, 2, 7), (56, 8, 1234)] 2), aServing, by decide +kernel⟩,
   ⟨(turning0 aServing { aTrain with parked := true } (aTurn [(32, 1, 0), (33, 1, 0), (34, 1, 0), (37, 1, 9), (38, 1, 0xFF), (40, 4, 9),
    (44, 4, 3), (48, 2, 5), (50, 2, 7), (56, 8, 1234)] 2)), 0, (aTurn [(32, 1, 0), (33, 1, 0), (34, 1, 0), (37, 1, 9), (38, 1, 0xFF), (40,
    4, 9), (44, 4, 3), (48, 2, 5), (50, 2, 7), (56, 8, 1234)] 2), aServing, { aTrain with parked := true }, 0, by decide +kernel⟩,
   ⟨(regsOf (turning0 aServing { aTrain with parked := true } { (aTurn [(32, 1, 0), (33, 1, 0), (34, 1, 0), (37, 1, 9), (38, 1, 0xFF), (40, 4, 9), (44, 4, 3), (48, 2, 5), (50, 2, 7), (56, 8, 1234)] 2) with pieces := [(readPiece (leBytes 4 (256 * 2 ^ 18) ++ zeros 4 ++ [0, 1] ++ zeros 10 ++ leBytes 4 1 ++ leBytes 4 1 ++ zeros 20))] }) [(axisWord 0,
    3 * 256)]), 0,
    { (aTurn [(32, 1, 0), (33, 1, 0), (34, 1, 0), (37, 1, 9), (38, 1, 0xFF), (40, 4, 9), (44, 4, 3), (48, 2, 5), (50, 2, 7), (56, 8, 1234)] 2) with pieces := [(readPiece (leBytes 4 (256 * 2 ^ 18) ++ zeros 4 ++ [0, 1] ++ zeros 10 ++ leBytes 4 1 ++ leBytes 4 1 ++ zeros 20))] },
    aServing, { aTrain with parked := true }, 0, (readPiece (leBytes 4 (256 * 2 ^ 18) ++ zeros 4 ++ [0,
    1] ++ zeros 10 ++ leBytes 4 1 ++ leBytes 4 1 ++ zeros 20)), 0, by decide +kernel⟩,
   ⟨(turning0 aServing aTrain (aTurn [(32, 1, 0), (33, 1, 0), (34, 1, 3), (37, 1, 9), (38, 1, 0xFF), (40, 4, 9), (44, 4, 3), (48, 2, 5),
    (50, 2, 7), (56, 8, 1234)] 2)), 0, (aTurn [(32, 1, 0), (33, 1, 0), (34, 1, 3), (37, 1, 9), (38, 1, 0xFF), (40, 4, 9), (44, 4, 3), (48,
    2, 5), (50, 2, 7), (56, 8, 1234)] 2), aServing, 3, by decide +kernel⟩,
   ⟨{ (turning0 { aServing with step := some aStep } aTrain (aTurn [(32, 1, 0), (33, 1, 0), (34, 1, 0xFF), (37, 1, 9), (38, 1, 0xFF), (40, 4, 9), (44, 4, 3), (48, 2, 5), (50, 2, 7), (56, 8, 1234)] 2)) with manifest := [(4, anEntry 3)] },
    0, (10 ^ 15), (aTurn [(32, 1, 0), (33, 1, 0), (34, 1, 0xFF), (37, 1, 9), (38, 1, 0xFF), (40, 4, 9), (44, 4, 3), (48, 2, 5), (50, 2, 7),
    (56, 8, 1234)] 2), { aServing with step := some aStep }, 4, anEntry 3, by decide +kernel⟩⟩

/-- TurnsTransferAndCommit: what its clauses ask, met clause by clause (turnPiece, transferEnd, turnFinalCommit, xferTimeout). -/
theorem witness_TurnsTransferAndCommit :
    (∃ (s : State) (p : Nat) (m : Msg) (svc : Nat) (x : Turn), (s.port p).inbox = [m] ∧ m.cls = 0x1101 ∧ s.turns = [(svc, x)] ∧
        x.cmd.param 40 4 = m.context ∧ x.phase = 3 ∧ x.failing = none ∧ pieceFormFails m.body = false ∧ 48 ≤ m.body.length ∧
        (x.model.bind (readPiece m.body).target).isSome = true)
    ∧ (∃ (s : State) (p : Nat) (m : Msg) (svc : Nat) (x : Turn), (s.port p).inbox = [m] ∧ m.cls = 0x1101 ∧ s.turns = [(svc, x)] ∧
        x.cmd.param 40 4 = m.context ∧ x.phase = 3 ∧ x.failing = none ∧ 48 ≤ m.body.length ∧ (x.model.bind (readPiece m.body).target) = none)
    ∧ (∃ (s : State) (n : Nat) (x : Turn), lookup n s.turns = some x ∧ x.phase = 3 ∧ x.failing = none ∧
        (x.sent.all (fun m => s.messageAcked m) = true) ∧ x.cmd.param 72 8 ≤ x.placed ∧ x.cmd.param 38 1 = 0xFF)
    ∧ (∃ (s : State) (n : Nat) (x : Turn), lookup n s.turns = some x ∧ x.phase = 3 ∧ x.failing = none ∧
        (x.sent.all (fun m => s.messageAcked m) = true) ∧ x.cmd.param 72 8 ≤ x.placed ∧ (x.cmd.param 38 1 ≠ 0xFF))
    ∧ (∃ (s : State) (n : Nat) (now : Nat) (hv : HostView) (x : Turn), s.turns = [(n, x)] ∧ x.phase = 4 ∧ x.failing = none ∧
        x.voting = false ∧ s.colls = [] ∧ ((∀ v, lookup n s.serving = some v → v.step = none)) ∧ s.olderGone = true ∧
        ((s.at now).sees hv).checkFails (((s.at now).sees hv).turnEntries x.cmd) false = none)
    ∧ (∃ (s : State) (n : Nat) (now : Nat) (hv : HostView) (x : Turn) (v : Serving), lookup n s.turns = some x ∧ x.phase = 4 ∧
        x.failing = none ∧ x.voting = false ∧ s.colls = [] ∧ x.toGeneration = true ∧ lookup n s.serving = some v ∧ v.step = none ∧
        s.olderGone = true ∧ ((s.at now).sees hv).checkFails (((s.at now).sees hv).turnEntries x.cmd) false = none)
    ∧ (∃ (s : State) (n : Nat) (now : Nat) (hv : HostView) (x : Turn) (v : Serving) (q : Nat) (y : Train), lookup n s.turns = some x ∧
        x.phase = 4 ∧ x.failing = none ∧ x.voting = false ∧ s.colls = [] ∧ x.toGeneration = false ∧ lookup n s.serving = some v ∧
        v.step = none ∧ s.olderGone = true ∧ ((s.at now).sees hv).checkFails (((s.at now).sees hv).turnEntries x.cmd) false = none ∧
        x.train = some q ∧ lookup q s.trains = some y)
    ∧ (∃ (s : State) (n : Nat) (now : Nat) (x : Turn), lookup n s.turns = some x ∧ x.phase = 3 ∧ x.failing = none ∧
        (x.cmd.param 50 2 ≠ 0) ∧ (s.at now).expired (x.transferAt + x.cmd.param 50 2 * msec) = true) :=
  ⟨⟨{ (turning0 aServing aTrain { (aTurn [(32, 1, 0), (33, 1, 0), (34, 1, 0xFF), (37, 1, 9), (38, 1, 0xFF), (40, 4, 9), (44, 4, 3), (48, 2, 5), (50, 2, 7), (56, 8, 1234)] 3) with model := some { aModel with tensors := [⟨0, 0, 1, 4, 4, 0, 0⟩] } }) with ports := [(0, { Port.reset with state := 3, inbox := [(msgOf 0x1101 9 (leBytes 4 0 ++ leBytes 2 0 ++ leBytes 2 0 ++ [0, 1] ++ zeros 10 ++ leBytes 4 1 ++ leBytes 4 1 ++ zeros 20 ++ [1, 2, 3, 4]))] })] },
    0, (msgOf 0x1101 9 (leBytes 4 0 ++ leBytes 2 0 ++ leBytes 2 0 ++ [0, 1] ++ zeros 10 ++ leBytes 4 1 ++ leBytes 4 1 ++ zeros 20 ++ [1, 2,
    3, 4])), 0,
    { (aTurn [(32, 1, 0), (33, 1, 0), (34, 1, 0xFF), (37, 1, 9), (38, 1, 0xFF), (40, 4, 9), (44, 4, 3), (48, 2, 5), (50, 2, 7), (56, 8, 1234)] 3) with model := some { aModel with tensors := [⟨0, 0, 1, 4, 4, 0, 0⟩] } },
    by decide +kernel⟩,
   ⟨{ (turning0 aServing aTrain { (aTurn [(32, 1, 0), (33, 1, 0), (34, 1, 0xFF), (37, 1, 9), (38, 1, 0xFF), (40, 4, 9), (44, 4, 3), (48, 2, 5), (50, 2, 7), (56, 8, 1234)] 3) with model := some { aModel with tensors := [⟨0, 0, 1, 4, 4, 0, 0⟩] } }) with ports := [(0, { Port.reset with state := 3, inbox := [(msgOf 0x1101 9 (leBytes 4 0 ++ leBytes 2 0 ++ leBytes 2 1 ++ [0, 1] ++ zeros 10 ++ leBytes 4 1 ++ leBytes 4 1 ++ zeros 20 ++ [1, 2, 3, 4]))] })] },
    0, (msgOf 0x1101 9 (leBytes 4 0 ++ leBytes 2 0 ++ leBytes 2 1 ++ [0, 1] ++ zeros 10 ++ leBytes 4 1 ++ leBytes 4 1 ++ zeros 20 ++ [1, 2,
    3, 4])), 0,
    { (aTurn [(32, 1, 0), (33, 1, 0), (34, 1, 0xFF), (37, 1, 9), (38, 1, 0xFF), (40, 4, 9), (44, 4, 3), (48, 2, 5), (50, 2, 7), (56, 8, 1234)] 3) with model := some { aModel with tensors := [⟨0, 0, 1, 4, 4, 0, 0⟩] } },
    by decide +kernel⟩,
   ⟨(turning0 aServing aTrain (aTurn [(32, 1, 0), (33, 1, 0), (34, 1, 0xFF), (37, 1, 9), (38, 1, 0xFF), (40, 4, 9), (44, 4, 3), (48, 2, 5),
    (50, 2, 7), (56, 8, 1234)] 3)), 0, (aTurn [(32, 1, 0), (33, 1, 0), (34, 1, 0xFF), (37, 1, 9), (38, 1, 0xFF), (40, 4, 9), (44, 4, 3),
    (48, 2, 5), (50, 2, 7), (56, 8, 1234)] 3), by decide +kernel⟩,
   ⟨(grouped (turning0 aServing aTrain (aTurn [(32, 1, 0), (33, 1, 0), (34, 1, 0xFF), (37, 1, 9), (38, 1, 0), (40, 4, 9), (44, 4, 3), (48,
    2, 5), (50, 2, 7), (56, 8, 1234)] 3))), 0, (aTurn [(32, 1, 0), (33, 1, 0), (34, 1, 0xFF), (37, 1, 9), (38, 1, 0), (40, 4, 9), (44, 4,
    3), (48, 2, 5), (50, 2, 7), (56, 8, 1234)] 3), by decide +kernel⟩,
   ⟨(turning0 aServing aTrain (aTurn [(32, 1, 1), (33, 1, 0), (34, 1, 0xFF), (37, 1, 9), (38, 1, 0xFF), (40, 4, 9), (44, 4, 3), (48, 2, 5),
    (50, 2, 7), (56, 8, 1234)] 4)), 0, (10 ^ 15), noHost, (aTurn [(32, 1, 1), (33, 1, 0), (34, 1, 0xFF), (37, 1, 9), (38, 1, 0xFF), (40, 4,
    9), (44, 4, 3), (48, 2, 5), (50, 2, 7), (56, 8, 1234)] 4), by decide +kernel⟩,
   ⟨(turning0 aServing aTrain { (aTurn [(32, 1, 0), (33, 1, 0), (34, 1, 0xFF), (37, 1, 9), (38, 1, 0xFF), (40, 4, 9), (44, 4, 3), (48, 2, 5), (50, 2, 7), (56, 8, 1234)] 4) with model := some aModel }),
    0, (10 ^ 15), noHost,
    { (aTurn [(32, 1, 0), (33, 1, 0), (34, 1, 0xFF), (37, 1, 9), (38, 1, 0xFF), (40, 4, 9), (44, 4, 3), (48, 2, 5), (50, 2, 7), (56, 8, 1234)] 4) with model := some aModel },
    aServing, by decide +kernel⟩,
   ⟨(turning0 aServing aTrain (aTurn [(32, 1, 1), (33, 1, 0), (34, 1, 0), (37, 1, 9), (38, 1, 0xFF), (40, 4, 9), (44, 4, 3), (48, 2, 5),
    (50, 2, 7), (56, 8, 1234)] 4)), 0, (10 ^ 15), noHost, (aTurn [(32, 1, 1), (33, 1, 0), (34, 1, 0), (37, 1, 9), (38, 1, 0xFF), (40, 4, 9),
    (44, 4, 3), (48, 2, 5), (50, 2, 7), (56, 8, 1234)] 4), aServing, 0, aTrain, by decide +kernel⟩,
   ⟨(turning0 aServing aTrain (aTurn [(32, 1, 0), (33, 1, 0), (34, 1, 0xFF), (37, 1, 9), (38, 1, 0xFF), (40, 4, 9), (44, 4, 3), (48, 2, 5),
    (50, 2, 7), (56, 8, 1234)] 3)), 0, (10 ^ 15), (aTurn [(32, 1, 0), (33, 1, 0), (34, 1, 0xFF), (37, 1, 9), (38, 1, 0xFF), (40, 4, 9), (44,
    4, 3), (48, 2, 5), (50, 2, 7), (56, 8, 1234)] 3), by decide +kernel⟩⟩

/-- PreemptionAndScoresComplete: what its clauses ask, met clause by clause (preempt, score, scoreStep). -/
theorem witness_PreemptionAndScoresComplete :
    (∃ (s : State) (r : CmdRef) (k : Cmd) (v : Serving), s.Ready 0x8001 r k ∧ k.param 34 1 = 0 ∧ k.param 32 1 = 0 ∧
        s.serviceOpen 0 (k.param 33 1) k.berth = true ∧ lookup (k.param 33 1) s.serving = some v ∧ v.step = none)
    ∧ (∃ (s : State) (r : CmdRef) (k : Cmd) (v : Serving), s.Ready 0x8001 r k ∧ k.param 34 1 = 0 ∧ k.param 32 1 = 0 ∧
        s.serviceOpen 0 (k.param 33 1) k.berth = true ∧ lookup (k.param 33 1) s.serving = some v ∧ v.parked = false ∧ v.step.isSome = true)
    ∧ (∃ (s : State) (r : CmdRef) (k : Cmd) (v : Train), s.Ready 0x8001 r k ∧ k.param 34 1 = 0 ∧ k.param 32 1 = 1 ∧
        s.serviceOpen 1 (k.param 33 1) k.berth = true ∧ lookup (k.param 33 1) s.trains = some v ∧ v.phase = .idle)
    ∧ (∃ (s : State) (r : CmdRef) (k : Cmd) (v : Train), s.Ready 0x8001 r k ∧ k.param 34 1 = 0 ∧ k.param 32 1 = 1 ∧
        s.serviceOpen 1 (k.param 33 1) k.berth = true ∧ lookup (k.param 33 1) s.trains = some v ∧ v.parked = false ∧ (v.phase ≠ .idle))
    ∧ (∃ (s : State) (r : CmdRef) (k : Cmd) (v : Score), s.Ready 0x8001 r k ∧ k.param 34 1 = 0 ∧ 2 ≤ k.param 32 1 ∧
        s.serviceOpen (k.param 32 1) (k.param 33 1) k.berth = true ∧ lookup (k.param 33 1) s.scores = some v)
    ∧ (∃ (s : State) (r : CmdRef) (k : Cmd) (v : Serving), s.Ready 0x8001 r k ∧ k.param 34 1 = 1 ∧ k.param 32 1 = 0 ∧
        s.serviceOpen 0 (k.param 33 1) k.berth = true ∧ lookup (k.param 33 1) s.serving = some v)
    ∧ (∃ (s : State) (r : CmdRef) (k : Cmd) (v : Train), s.Ready 0x8001 r k ∧ k.param 34 1 = 1 ∧ k.param 32 1 = 1 ∧
        s.serviceOpen 1 (k.param 33 1) k.berth = true ∧ lookup (k.param 33 1) s.trains = some v)
    ∧ (∃ (s : State) (r : CmdRef) (k : Cmd) (v : Score), s.Ready 0x8001 r k ∧ k.param 34 1 = 1 ∧ 2 ≤ k.param 32 1 ∧
        s.serviceOpen (k.param 32 1) (k.param 33 1) k.berth = true ∧ lookup (k.param 33 1) s.scores = some v)
    ∧ (∃ (s : State) (r : CmdRef) (k : Cmd) (v : Serving), s.Ready 0x8001 r k ∧ k.param 34 1 = 2 ∧ k.param 32 1 = 0 ∧
        s.serviceOpen 0 (k.param 33 1) k.berth = true ∧ lookup (k.param 33 1) s.serving = some v)
    ∧ (∃ (s : State) (r : CmdRef) (k : Cmd) (v : Train), s.Ready 0x8001 r k ∧ k.param 34 1 = 2 ∧ k.param 32 1 = 1 ∧
        s.serviceOpen 1 (k.param 33 1) k.berth = true ∧ lookup (k.param 33 1) s.trains = some v)
    ∧ (∃ (s : State) (r : CmdRef) (k : Cmd) (v : Score), s.Ready 0x8001 r k ∧ k.param 34 1 = 2 ∧ 2 ≤ k.param 32 1 ∧
        s.serviceOpen (k.param 32 1) (k.param 33 1) k.berth = true ∧ lookup (k.param 33 1) s.scores = some v)
    ∧ (∃ (s : State) (r : CmdRef) (k : Cmd) (x : Turn), s.Ready 0x8001 r k ∧ 3 ≤ k.param 34 1 ∧ k.param 32 1 = 0 ∧
        s.serviceOpen 0 (k.param 33 1) k.berth = true ∧ lookup (k.param 33 1) s.turns = some x ∧ x.failing = none)
    ∧ (∃ (s : State) (r : CmdRef) (k : Cmd), s.Ready 0x8001 r k ∧ 3 ≤ k.param 34 1 ∧
        s.serviceOpen (k.param 32 1) (k.param 33 1) k.berth = true ∧ s.turns = [])
    ∧ (∃ (s : State) (r : CmdRef) (k : Cmd) (hv : HostView), s.Ready 0x6009 r k ∧ theRefusal ((s.meets hv k).scoreFails k) = none ∧
        (k.param 32 1 ≠ 0))
    ∧ (∃ (s : State) (r : CmdRef) (k : Cmd) (hv : HostView), s.Ready 0x6009 r k ∧ theRefusal ((s.meets hv k).scoreFails k) = none ∧
        k.param 32 1 = 0 ∧ (s.meets hv k).rangesStatus [(k.param 48 8, 64 + 32 * (s.meets hv k).natAt (k.param 48 8 + 28) 4)] = none ∧
        (s.meets hv k).modelFails (k.param 48 8) 0x06 ((s.meets hv k).setBytes (k.param 33 1)) = none ∧
        k.param 34 2 < ((s.meets hv k).readModel (k.param 48 8)).vocab)
    ∧ (∃ (s : State) (b : Nat) (now : Nat) (hv : HostView) (k : Score) (t0 : State) (j : Score) (z : State) (a : Nat),
        lookup b s.scores = some k ∧ k.opened = true ∧ k.parked = false ∧ s.berthRuns b k = true ∧ k.model = none ∧
        ((s.at now).sees hv).turnOf b 3 b = some t0 ∧ lookup b t0.scores = some j ∧ j = { k with round := j.round } ∧
        z = ((t0.actFor s.spine.epoch.toNat b).ringing).dropRegions (bitsBelow 8 (t0.berthPaves 0 b)) ∧ a = k.cmd.param 40 8 + 32 * k.next ∧
        k.next + 1 = k.cmd.param 36 4 ∧ z.readStatus a 32 = none ∧ (z.stepRecord (z.natAt a 8)).2 = none ∧
        ((z.stepRecord (z.natAt a 8)).1.endCode ≠ 0) ∧ ((z.stepRecord (z.natAt a 8)).1.count ≠ 0) ∧
        (z.writePlace (placeOf (z.natAt a 8)) 64 (leBytes 4 (z.natAt (a + 16) 4))).2 = none)
    ∧ (∃ (s : State) (b : Nat) (now : Nat) (hv : HostView) (k : Score) (t0 : State) (j : Score) (z : State) (a : Nat),
        lookup b s.scores = some k ∧ k.opened = true ∧ k.parked = false ∧ s.berthRuns b k = true ∧ k.model = none ∧
        ((s.at now).sees hv).turnOf b 3 b = some t0 ∧ lookup b t0.scores = some j ∧ j = { k with round := j.round } ∧
        z = ((t0.actFor s.spine.epoch.toNat b).ringing).dropRegions (bitsBelow 8 (t0.berthPaves 0 b)) ∧ a = k.cmd.param 40 8 + 32 * k.next ∧
        k.next + 1 = k.cmd.param 36 4 ∧ (z.readStatus a 32).isSome = true) :=
  ⟨⟨(on (serving0 aServing []) (wc 0x8001 [(32,1,0),(33,1,0),(34,1,0),(35,1,5)])), ⟨1, 7⟩,
    (wc 0x8001 [(32,1,0),(33,1,0),(34,1,0),(35,1,5)]), aServing, by unfold State.Ready; decide +kernel⟩,
   ⟨(on (serving0 { aServing with step := some aStep } []) (wc 0x8001 [(32,1,0),(33,1,0),(34,1,0),(35,1,5)])), ⟨1, 7⟩,
    (wc 0x8001 [(32,1,0),(33,1,0),(34,1,0),(35,1,5)]), { aServing with step := some aStep }, by unfold State.Ready; decide +kernel⟩,
   ⟨(on (trains0 ber aTrain) (wc 0x8001 [(32,1,1),(33,1,0),(34,1,0),(35,1,5)])), ⟨1, 7⟩, (wc 0x8001 [(32,1,1),(33,1,0),(34,1,0),(35,1,5)]),
    aTrain, by unfold State.Ready; decide +kernel⟩,
   ⟨(on (trains0 ber { aTrain with phase := .pass }) (wc 0x8001 [(32,1,1),(33,1,0),(34,1,0),(35,1,5)])), ⟨1, 7⟩,
    (wc 0x8001 [(32,1,1),(33,1,0),(34,1,0),(35,1,5)]), { aTrain with phase := .pass }, by unfold State.Ready; decide +kernel⟩,
   ⟨(on { ber with scores := [(0, aScore)] } (wc 0x8001 [(32,1,2),(33,1,0),(34,1,0),(35,1,5)])), ⟨1, 7⟩,
    (wc 0x8001 [(32,1,2),(33,1,0),(34,1,0),(35,1,5)]), aScore, by unfold State.Ready; decide +kernel⟩,
   ⟨(on (serving0 aServing []) (wc 0x8001 [(32,1,0),(33,1,0),(34,1,1),(35,1,5)])), ⟨1, 7⟩,
    (wc 0x8001 [(32,1,0),(33,1,0),(34,1,1),(35,1,5)]), aServing, by unfold State.Ready; decide +kernel⟩,
   ⟨(on (trains0 ber aTrain) (wc 0x8001 [(32,1,1),(33,1,0),(34,1,1),(35,1,5)])), ⟨1, 7⟩, (wc 0x8001 [(32,1,1),(33,1,0),(34,1,1),(35,1,5)]),
    aTrain, by unfold State.Ready; decide +kernel⟩,
   ⟨(on { ber with scores := [(0, aScore)] } (wc 0x8001 [(32,1,2),(33,1,0),(34,1,1),(35,1,5)])), ⟨1, 7⟩,
    (wc 0x8001 [(32,1,2),(33,1,0),(34,1,1),(35,1,5)]), aScore, by unfold State.Ready; decide +kernel⟩,
   ⟨(on (serving0 aServing []) (wc 0x8001 [(32,1,0),(33,1,0),(34,1,2),(35,1,5)])), ⟨1, 7⟩,
    (wc 0x8001 [(32,1,0),(33,1,0),(34,1,2),(35,1,5)]), aServing, by unfold State.Ready; decide +kernel⟩,
   ⟨(on (trains0 ber aTrain) (wc 0x8001 [(32,1,1),(33,1,0),(34,1,2),(35,1,5)])), ⟨1, 7⟩, (wc 0x8001 [(32,1,1),(33,1,0),(34,1,2),(35,1,5)]),
    aTrain, by unfold State.Ready; decide +kernel⟩,
   ⟨(on { ber with scores := [(0, aScore)] } (wc 0x8001 [(32,1,2),(33,1,0),(34,1,2),(35,1,5)])), ⟨1, 7⟩,
    (wc 0x8001 [(32,1,2),(33,1,0),(34,1,2),(35,1,5)]), aScore, by unfold State.Ready; decide +kernel⟩,
   ⟨(on (turning0 aServing aTrain (aTurn [(32, 1, 0), (33, 1, 0), (34, 1, 0xFF), (37, 1, 9), (38, 1, 0xFF), (40, 4, 9), (44, 4, 3), (48, 2,
    5), (50, 2, 7), (56, 8, 1234)] 2)) (wc 0x8001 [(32,1,0),(33,1,0),(34,1,3),(35,1,5)])), ⟨1, 7⟩,
    (wc 0x8001 [(32,1,0),(33,1,0),(34,1,3),(35,1,5)]), (aTurn [(32, 1, 0), (33, 1, 0), (34, 1, 0xFF), (37, 1, 9), (38, 1, 0xFF), (40, 4, 9),
    (44, 4, 3), (48, 2, 5), (50, 2, 7), (56, 8, 1234)] 2), by unfold State.Ready; decide +kernel⟩,
   ⟨(on (serving0 aServing []) (wc 0x8001 [(32,1,0),(33,1,0),(34,1,3),(35,1,5)])), ⟨1, 7⟩,
    (wc 0x8001 [(32,1,0),(33,1,0),(34,1,3),(35,1,5)]), by unfold State.Ready; decide +kernel⟩,
   ⟨(on ber (wc 0x6009 [(32,1,1),(36,4,1),(40,8,0x6100000)])), ⟨1, 7⟩, (wc 0x6009 [(32,1,1),(36,4,1),(40,8,0x6100000)]), noHost,
    by unfold State.Ready; decide +kernel⟩,
   ⟨(on (stocked.placed 0x6000000 modelBytes) (wc 0x6009 [(32,1,0),(33,1,0),(34,2,1),(36,4,1),(40,8,0x6100000),(48,8,0x6000000),(56,8,0x6200000),(64,8,0x1000)])),
    ⟨1, 7⟩, (wc 0x6009 [(32,1,0),(33,1,0),(34,2,1),(36,4,1),(40,8,0x6100000),(48,8,0x6000000),(56,8,0x6200000),(64,8,0x1000)]), noHost,
    by unfold State.Ready; decide +kernel⟩,
   ⟨((State.placed ({ ber with scores := [(0, aScore)] }) 0x6100000 (leBytes 8 0x6300000 ++ zeros 8 ++ leBytes 4 77 ++ zeros 12)).placed 0x6300000 (zeros 24 ++ leBytes 4 4 ++ leBytes 4 1 ++ zeros 4 ++ leBytes 2 1 ++ zeros 90)),
    0, (10 ^ 15), noHost, aScore,
    (((((((State.placed ({ ber with scores := [(0, aScore)] }) 0x6100000 (leBytes 8 0x6300000 ++ zeros 8 ++ leBytes 4 77 ++ zeros 12)).placed 0x6300000 (zeros 24 ++ leBytes 4 4 ++ leBytes 4 1 ++ zeros 4 ++ leBytes 2 1 ++ zeros 90))).at ((10 ^ 15))).sees (noHost)).turnOf 0 3 0).getD (((State.placed ({ ber with scores := [(0, aScore)] }) 0x6100000 (leBytes 8 0x6300000 ++ zeros 8 ++ leBytes 4 77 ++ zeros 12)).placed 0x6300000 (zeros 24 ++ leBytes 4 4 ++ leBytes 4 1 ++ zeros 4 ++ leBytes 2 1 ++ zeros 90)))),
    ((lookup 0 (((((((((State.placed ({ ber with scores := [(0, aScore)] }) 0x6100000 (leBytes 8 0x6300000 ++ zeros 8 ++ leBytes 4 77 ++ zeros 12)).placed 0x6300000 (zeros 24 ++ leBytes 4 4 ++ leBytes 4 1 ++ zeros 4 ++ leBytes 2 1 ++ zeros 90))).at ((10 ^ 15))).sees (noHost)).turnOf 0 3 0).getD (((State.placed ({ ber with scores := [(0, aScore)] }) 0x6100000 (leBytes 8 0x6300000 ++ zeros 8 ++ leBytes 4 77 ++ zeros 12)).placed 0x6300000 (zeros 24 ++ leBytes 4 4 ++ leBytes 4 1 ++ zeros 4 ++ leBytes 2 1 ++ zeros 90)))))).scores).getD (aScore)),
    (((((((((((State.placed ({ ber with scores := [(0, aScore)] }) 0x6100000 (leBytes 8 0x6300000 ++ zeros 8 ++ leBytes 4 77 ++ zeros 12)).placed 0x6300000 (zeros 24 ++ leBytes 4 4 ++ leBytes 4 1 ++ zeros 4 ++ leBytes 2 1 ++ zeros 90))).at ((10 ^ 15))).sees (noHost)).turnOf 0 3 0).getD (((State.placed ({ ber with scores := [(0, aScore)] }) 0x6100000 (leBytes 8 0x6300000 ++ zeros 8 ++ leBytes 4 77 ++ zeros 12)).placed 0x6300000 (zeros 24 ++ leBytes 4 4 ++ leBytes 4 1 ++ zeros 4 ++ leBytes 2 1 ++ zeros 90)))))).actFor ((((State.placed ({ ber with scores := [(0, aScore)] }) 0x6100000 (leBytes 8 0x6300000 ++ zeros 8 ++ leBytes 4 77 ++ zeros 12)).placed 0x6300000 (zeros 24 ++ leBytes 4 4 ++ leBytes 4 1 ++ zeros 4 ++ leBytes 2 1 ++ zeros 90)))).spine.epoch.toNat 0).ringing).dropRegions (bitsBelow 8 ((((((((((State.placed ({ ber with scores := [(0, aScore)] }) 0x6100000 (leBytes 8 0x6300000 ++ zeros 8 ++ leBytes 4 77 ++ zeros 12)).placed 0x6300000 (zeros 24 ++ leBytes 4 4 ++ leBytes 4 1 ++ zeros 4 ++ leBytes 2 1 ++ zeros 90))).at ((10 ^ 15))).sees (noHost)).turnOf 0 3 0).getD (((State.placed ({ ber with scores := [(0, aScore)] }) 0x6100000 (leBytes 8 0x6300000 ++ zeros 8 ++ leBytes 4 77 ++ zeros 12)).placed 0x6300000 (zeros 24 ++ leBytes 4 4 ++ leBytes 4 1 ++ zeros 4 ++ leBytes 2 1 ++ zeros 90)))))).berthPaves 0 0)),
    0x6100000, by decide +kernel⟩,
   ⟨(State.poisonRange ({ ber with scores := [(0, aScore)] }) 0x6100000 32), 0, (10 ^ 15), noHost, aScore,
    ((((((State.poisonRange ({ ber with scores := [(0, aScore)] }) 0x6100000 32)).at ((10 ^ 15))).sees (noHost)).turnOf 0 3 0).getD ((State.poisonRange ({ ber with scores := [(0, aScore)] }) 0x6100000 32))),
    ((lookup 0 ((((((((State.poisonRange ({ ber with scores := [(0, aScore)] }) 0x6100000 32)).at ((10 ^ 15))).sees (noHost)).turnOf 0 3 0).getD ((State.poisonRange ({ ber with scores := [(0, aScore)] }) 0x6100000 32))))).scores).getD (aScore)),
    ((((((((((State.poisonRange ({ ber with scores := [(0, aScore)] }) 0x6100000 32)).at ((10 ^ 15))).sees (noHost)).turnOf 0 3 0).getD ((State.poisonRange ({ ber with scores := [(0, aScore)] }) 0x6100000 32))))).actFor (((State.poisonRange ({ ber with scores := [(0, aScore)] }) 0x6100000 32))).spine.epoch.toNat 0).ringing).dropRegions (bitsBelow 8 (((((((((State.poisonRange ({ ber with scores := [(0, aScore)] }) 0x6100000 32)).at ((10 ^ 15))).sees (noHost)).turnOf 0 3 0).getD ((State.poisonRange ({ ber with scores := [(0, aScore)] }) 0x6100000 32))))).berthPaves 0 0)),
    0x6100000, by decide +kernel⟩⟩

/-- LogbookCommandsComplete: what its clauses ask, met clause by clause (replay, logbookCtrl, logbookBufferFlush). -/
theorem witness_LogbookCommandsComplete :
    (∃ (s : State) (r : CmdRef) (k : Cmd) (hv : HostView) (m : BookEntry) (i : Nat), s.Ready 0xA000 r k ∧ s.beating = true ∧
        (s.meets hv k).flushBook.replayFails k = none ∧ (s.meets hv k).flushBook.replayMark k = some m ∧
        (s.meets hv k).flushBook.ringing.markDiffers m = some i)
    ∧ (∃ (s : State) (r : CmdRef) (k : Cmd) (hv : HostView) (m : BookEntry), s.Ready 0xA000 r k ∧ s.beating = true ∧
        (s.meets hv k).flushBook.replayFails k = none ∧ (s.meets hv k).flushBook.replayMark k = some m ∧
        (s.meets hv k).flushBook.ringing.markDiffers m = none)
    ∧ (∃ (s : State) (r : CmdRef) (k : Cmd), s.Ready 0xA001 r k ∧ k.param 32 1 = 0)
    ∧ (∃ (s : State) (r : CmdRef) (k : Cmd), s.Ready 0xA001 r k ∧ k.param 32 1 = 1)
    ∧ (∃ (s : State) (r : CmdRef) (k : Cmd), s.Ready 0xA001 r k ∧ 2 ≤ k.param 32 1 ∧ k.param 36 4 = 0 ∧ s.anyServiceOpen = false ∧
        s.earlier r = [] ∧ s.bookHolds 0 4096 = false ∧ s.recording = true)
    ∧ (∃ (s : State) (r : CmdRef) (k : Cmd), s.Ready 0xA001 r k ∧ 2 ≤ k.param 32 1 ∧ k.param 36 4 = 0 ∧ s.anyServiceOpen = false ∧
        (s.earlier r ≠ []))
    ∧ (∃ (s : State) (h : Nat) (e : BookEntry), s.operating = true ∧ s.logbook.buffer = [(h, e)] ∧ (s.logbook.state ≠ .full) ∧
        s.logbook.place + entrySize e.body.length ≤ s.bookRegion.2)
    ∧ (∃ (s : State) (h : Nat) (e : BookEntry), s.operating = true ∧ s.logbook.buffer = [(h, e)] ∧ (s.logbook.state ≠ .full) ∧
        s.bookWrap = true ∧ s.bookRegion.2 < s.logbook.place + entrySize e.body.length ∧ entrySize e.body.length ≤ s.bookRegion.2)
    ∧ (∃ (s : State) (h : Nat) (e : BookEntry), s.operating = true ∧ s.logbook.buffer = [(h, e)] ∧ (s.logbook.state ≠ .full) ∧
        s.bookWrap = false ∧ s.bookRegion.2 < s.logbook.place + entrySize e.body.length) :=
  ⟨⟨(on (booked { ber with power := { ber.power with quiesced := true } } { Logbook.reset with held := [(0, { kind := 1, source := 0, index := 5, epoch := 1, fingerprint := 0, body := zeros 16 })] }) (wc 0xA000 [(32,8,5),(40,4,0),(48,8,5)])),
    ⟨1, 7⟩, (wc 0xA000 [(32,8,5),(40,4,0),(48,8,5)]), noHost,
    ({ kind := 1, source := 0, index := 5, epoch := 1, fingerprint := 0, body := zeros 16 } : BookEntry), 0,
    by unfold State.Ready; decide +kernel⟩,
   ⟨replaying, ⟨1, 7⟩, replayCmd, noHost, aMark, by unfold State.Ready; decide +kernel, by decide +kernel, by decide +kernel, rfl,
    replay_differs⟩,
   ⟨(on (booked ber { Logbook.reset with state := .recording, next := 5 }) (wc 0xA001 [(32,1,0)])), ⟨1, 7⟩, (wc 0xA001 [(32,1,0)]),
    by unfold State.Ready; decide +kernel⟩,
   ⟨(on (booked ber { Logbook.reset with state := .recording, next := 5 }) (wc 0xA001 [(32,1,1)])), ⟨1, 7⟩, (wc 0xA001 [(32,1,1)]),
    by unfold State.Ready; decide +kernel⟩,
   ⟨(on (booked ber { Logbook.reset with state := .recording, next := 5 }) (wc 0xA001 [(32,1,2)])), ⟨1, 7⟩, (wc 0xA001 [(32,1,2)]),
    by unfold State.Ready; decide +kernel⟩,
   ⟨{ (booked ber { Logbook.reset with state := .recording, next := 5 }) with inflight := [running { wc 0 [] with tag := 3 }, (wc 0xA001 [(32,1,2)])] },
    ⟨1, 7⟩, (wc 0xA001 [(32,1,2)]), by unfold State.Ready; decide +kernel⟩,
   ⟨(booked (regsOf (ber.set64 bookRegionWord (2 ^ 63 + 2 ^ 48)) [(blkLogbook + 0x18,
    0)]) { Logbook.reset with state := .recording, buffer := [(0, ({ kind := 9, source := 0, index := 5, epoch := 1, fingerprint := 0, body := zeros 20 } : BookEntry))], place := 0 }),
    0, ({ kind := 9, source := 0, index := 5, epoch := 1, fingerprint := 0, body := zeros 20 } : BookEntry), by decide +kernel⟩,
   ⟨(booked (regsOf (ber.set64 bookRegionWord (2 ^ 63 + 2 ^ 48)) [(blkLogbook + 0x18,
    4)]) { Logbook.reset with state := .recording, buffer := [(0, ({ kind := 9, source := 0, index := 5, epoch := 1, fingerprint := 0, body := zeros 20 } : BookEntry))], place := 2 ^ 30 }),
    0, ({ kind := 9, source := 0, index := 5, epoch := 1, fingerprint := 0, body := zeros 20 } : BookEntry), by decide +kernel⟩,
   ⟨(booked (regsOf (ber.set64 bookRegionWord (2 ^ 63 + 2 ^ 48)) [(blkLogbook + 0x18,
    0)]) { Logbook.reset with state := .recording, buffer := [(0, ({ kind := 9, source := 0, index := 5, epoch := 1, fingerprint := 0, body := zeros 20 } : BookEntry))], place := 2 ^ 30 }),
    0, ({ kind := 9, source := 0, index := 5, epoch := 1, fingerprint := 0, body := zeros 20 } : BookEntry), by decide +kernel⟩⟩

/-- IntegrityEventsComplete: what its clauses ask, met clause by clause (interfaceParityRetry, correctedWriteBack, bucketLeak, bucketOverflow). -/
theorem witness_IntegrityEventsComplete :
    (∃ (s : State) (c : Nat), s.ctrlFitted c = true ∧ s.bucketLevel c + 1 ≤ s.bucketThreshold c)
    ∧ (∃ (s : State) (c : Nat), s.ctrlFitted c = true ∧ s.bucketThreshold c < s.bucketLevel c + 1)
    ∧ (∃ (s : State) (addr : Nat) (c : Nat), s.controllerOf (s.phys addr) = some c ∧ s.unitStatus (s.poisonUnit (s.phys addr)) = none)
    ∧ (∃ (s : State) (c : Nat) (now : Nat), s.ctrlFitted c = true ∧ (s.bucketInterval c ≠ 0) ∧
        (s.at now).now % (s.bucketInterval c * second) = 0)
    ∧ (∃ (s : State) (c : Nat), s.ctrlFitted c = true ∧ s.bucketThreshold c < s.bucketLevel c + 1) :=
  ⟨⟨(regsOf act [(blkCtrl 15 + 0x50, 5)]), 15, by decide +kernel⟩,
   ⟨(regsOf act [(blkCtrl 27 + 0x50, 5), (blkCtrl 27 + 0x4C, 5)]), 27, by decide +kernel⟩,
   ⟨ber, 0x100040, (((ber)).controllerOf (((ber)).phys 0x100040)).getD 0, by decide +kernel⟩,
   ⟨(regsOf act [(blkCtrl 15 + 0x50, 2 ^ 16 * 20 + 5), (blkCtrl 15 + 0x4C, 5)]), 15, (20 * second), by decide +kernel⟩,
   ⟨(regsOf act [(blkCtrl 15 + 0x50, 5), (blkCtrl 15 + 0x4C, 5)]), 15, by decide +kernel⟩⟩

/-- BasinEventsComplete: what its clauses ask, met clause by clause (basinCrcMismatch, sluiceEvict, basinSegmentChange, weirWindow). -/
theorem witness_BasinEventsComplete :
    (∃ (s : State) (addr : Nat) (p : Nat), p = s.phys addr - s.phys addr % lineBytes s.spine.variant ∧ inBasin p = true ∧
        p ∉ s.mem.basin.wide ∧ p ∉ s.mem.poison ∧ s.scratchpad 0 (p - basinBase) (lineBytes s.spine.variant) = true)
    ∧ (∃ (s : State) (addr : Nat) (p : Nat) (x : CacheLine), p = s.phys addr - s.phys addr % lineBytes s.spine.variant ∧
        inBasin p = false ∧ p ∉ s.mem.basin.wide ∧ s.cached p = some x ∧ x.dirty = true)
    ∧ (∃ (s : State) (addr : Nat) (p : Nat) (x : CacheLine), p = s.phys addr - s.phys addr % lineBytes s.spine.variant ∧
        inBasin p = false ∧ p ∉ s.mem.basin.wide ∧ s.cached p = some x ∧ x.dirty = false ∧ x.refetched = false)
    ∧ (∃ (s : State) (addr : Nat) (p : Nat) (x : CacheLine), p = s.phys addr - s.phys addr % lineBytes s.spine.variant ∧
        inBasin p = false ∧ p ∉ s.mem.basin.wide ∧ s.cached p = some x ∧ x.dirty = false ∧ x.refetched = true)
    ∧ (∃ (s : State) (line : Nat) (e : SluiceEntry), s.entryAt (lineOf s.spine.variant line) = some e ∧ ((∀ i,
        i < 4 → s.neverWritten (e.line + 64 * i) = false)))
    ∧ (∃ (s : State) (line : Nat), s.entryAt (lineOf s.spine.variant line) = none)
    ∧ (∃ (s : State) (h : Nat) (j : Nat), (s.segChanges.any (fun k => k.hub == h && k.seg == j) = true) ∧ s.olderGone = true)
    ∧ (∃ (s : State) (now : Nat), (s.at now).now < s.mem.basin.windowFrom + 1000)
    ∧ (∃ (s : State) (now : Nat), s.mem.basin.windowFrom + 1000 ≤ (s.at now).now) :=
  ⟨⟨ber, (basinBase + 0x1234), basinBase + 0x1200, by decide +kernel⟩,
   ⟨{ ber with mem := { ber.mem with basin := { ber.mem.basin with lines := [(⟨0x1200, 5, 0, 0, true, false, 0⟩ : CacheLine)] } } },
    0x1234, (0x1234 - 0x34), (⟨0x1200, 5, 0, 0, true, false, 0⟩ : CacheLine), by decide +kernel⟩,
   ⟨{ ber with mem := { ber.mem with basin := { ber.mem.basin with lines := [(⟨0x1200, 5, 0, 0, false, false, 0⟩ : CacheLine)] } } },
    0x1234, (0x1234 - 0x34), (⟨0x1200, 5, 0, 0, false, false, 0⟩ : CacheLine), by decide +kernel⟩,
   ⟨{ ber with mem := { ber.mem with basin := { ber.mem.basin with lines := [(⟨0x1200, 5, 0, 0, false, true, 0⟩ : CacheLine)] } } },
    0x1234, (0x1234 - 0x34), (⟨0x1200, 5, 0, 0, false, true, 0⟩ : CacheLine), by decide +kernel⟩,
   ⟨{ ber with mem := { ber.mem with basin := { ber.mem.basin with sluice := [(⟨0x1200, 64⟩ : SluiceEntry)] } } }, 0x1210, (⟨0x1200,
    64⟩ : SluiceEntry), by decide +kernel⟩,
   ⟨act, 0x1210, by decide +kernel⟩,
   ⟨{ ber with segChanges := [⟨1, 19, 0⟩, ⟨0, 3, 0⟩] }, 1, 19, by decide +kernel⟩,
   ⟨act, 5, by decide +kernel⟩,
   ⟨act, (10 ^ 15), by decide +kernel⟩⟩

/-- FunctionResetsComplete: what its clauses ask, met clause by clause (perstNAssert, perstNRelease, pcieHotReset, flrPf0, flrVf, perFunctionReset). -/
theorem witness_FunctionResetsComplete :
    (∃ (s : State), (s.power.state ≠ .off) ∧ ((s.power.booting ≠ .full ∨ s.clock.fatal = true)))
    ∧ (∃ (s : State), s.pcieUp = true ∧ s.power.booting = .none)
    ∧ (∃ (s : State), s.pcieUp = true ∧ s.power.booting = .none)
    ∧ (∃ (s : State) (fn : Nat), s.pcieUp = true ∧ 1 ≤ fn ∧ (s.functionEnabled fn = true))
    ∧ (∃ (s : State) (fn : Nat), s.operating = true ∧ 1 ≤ fn ∧ (s.functionEnabled fn = true)) :=
  ⟨⟨act, by decide +kernel⟩,
   ⟨act, by decide +kernel⟩,
   ⟨act, by decide +kernel⟩,
   ⟨{ act with spine := { act.spine with funcInc := [(31, 4)] }, hellos := [(31, (⟨1, 0⟩ : Hello))] }, 31, by decide +kernel⟩,
   ⟨{ act with spine := { act.spine with funcInc := [(31, 4)] }, hellos := [(31, (⟨1, 0⟩ : Hello))] }, 31, by decide +kernel⟩⟩

/-- DeviceResetsComplete: what its clauses ask, met clause by clause (coldReset, powerUpToIdle, warmReset, keeperComplexReset, keeperFirmwareFault, keeperBankParity, resetCtrlCold, resetCtrlWarm, lifecycleResetDelay). -/
theorem witness_DeviceResetsComplete :
    (∃ (s : State) (b : BootInputs), s.power.booting = .full ∧ s.power.pwrgd = true ∧ s.clock.fatal = false ∧
        ((s.power.state = .standby → s.power.perstReleased = true)) ∧ ((b.hub0Passes = true ∨ b.hub1Passes = true)))
    ∧ (∃ (s : State) (b : BootInputs), s.power.booting = .full ∧ s.power.pwrgd = true ∧ s.clock.fatal = false ∧
        ((s.power.state = .standby → s.power.perstReleased = true)) ∧ ((b.hub0Passes = true ∨ b.hub1Passes = true)))
    ∧ (∃ (s : State) (b : BootInputs), s.power.booting = .warm ∧ ((b.hub0Passes = true ∨ b.hub1Passes = true)))
    ∧ (∃ (s : State), s.operating = true)
    ∧ (∃ (s : State), s.operating = true)
    ∧ (∃ (s : State) (k : Nat), s.operating = true ∧ k < 16 ∧ s.hostsService k = false ∧ ((∀ c ∈ s.inflight, keeperOf c.queue ≠ k)))
    ∧ (∃ (s : State), s.pcieUp = true ∧ (s.power.booting ≠ .full))
    ∧ (∃ (s : State) (v : Word), s.pcieUp = true ∧ (v ≠ 0xC0DE0001) ∧ (v ≠ 0xC0DE0002))
    ∧ (∃ (s : State), s.pcieUp = true ∧ s.power.booting = .none)
    ∧ (∃ (s : State) (v : Word), s.pcieUp = true ∧ (v ≠ 0xC0DE0001) ∧ (v ≠ 0xC0DE0002))
    ∧ (∃ (s : State) (now : Nat) (d : Nat), s.sec.resetDue = some d ∧ (s.at now).expired d = true ∧ s.power.booting = .none ∧
        s.operating = true) :=
  ⟨⟨{ act with power := { act.power with state := .standby, booting := .full, perstReleased := true } },
    ({ hub0Passes := false, hub1Passes := true, slotAVerifies := true, slotBVerifies := true, readings := [], coinMv := 3000, sockets := [], keepsakeDecay := [], failedStacks := [], blobVerifies := true : BootInputs }),
    by decide +kernel⟩,
   ⟨{ act with power := { act.power with booting := .full } },
    ({ hub0Passes := true, hub1Passes := true, slotAVerifies := true, slotBVerifies := true, readings := [], coinMv := 3000, sockets := [], keepsakeDecay := [], failedStacks := [], blobVerifies := true : BootInputs }),
    by decide +kernel⟩,
   ⟨{ act with power := { act.power with booting := .warm } },
    ({ hub0Passes := false, hub1Passes := true, slotAVerifies := true, slotBVerifies := true, readings := [], coinMv := 3000, sockets := [], keepsakeDecay := [], failedStacks := [], blobVerifies := true : BootInputs }),
    by decide +kernel⟩,
   ⟨act, by decide +kernel⟩,
   ⟨act, by decide +kernel⟩,
   ⟨(on act (running (wc 0 []))), 15, by decide +kernel⟩,
   ⟨act, by decide +kernel⟩,
   ⟨act, 5, by decide +kernel⟩,
   ⟨act, by decide +kernel⟩,
   ⟨act, 5, by decide +kernel⟩,
   ⟨{ act with sec := { act.sec with resetDue := some 5 } }, (10 ^ 15), 5, by decide +kernel⟩⟩

/-- PowerInputsAct: what its clauses ask, met clause by clause (pwrEnRise, pwrEnFall, powerFail, inputAbove42v, inputLowBand, inputHighBand, inputOvervoltage, railOutOfRegulation). -/
theorem witness_PowerInputsAct :
    (∃ (s : State), s.power.pwrEn = false ∧ s.power.state = .off ∧ s.power.booting = .none ∧ s.power.inputGood = true ∧
        s.power.offCause = .input)
    ∧ (∃ (s : State), s.power.pwrEn = true)
    ∧ (∃ (s : State), s.powered = true)
    ∧ (∃ (s : State), s.powered = true)
    ∧ (∃ (s : State), s.power.state = .off ∧ s.power.booting = .none ∧ s.power.pwrEn = true ∧ s.power.offCause = .input ∧
        s.power.inputGood = false)
    ∧ (∃ (s : State), s.powered = true)
    ∧ (∃ (s : State) (dv : Nat), s.powered = true ∧ 380 ≤ dv ∧ dv < 400)
    ∧ (∃ (s : State) (dv : Nat), s.powered = true ∧ 600 < dv ∧ dv ≤ 620)
    ∧ (∃ (s : State), s.powered = true) :=
  ⟨⟨{ act with power := { act.power with pwrEn := false, state := .off, pwrgd := false } }, by decide +kernel⟩,
   ⟨act, by decide +kernel⟩,
   ⟨act, by decide +kernel⟩,
   ⟨act, by decide +kernel⟩,
   ⟨{ act with power := { act.power with state := .off, inputGood := false, pwrgd := false } }, by decide +kernel⟩,
   ⟨act, by decide +kernel⟩,
   ⟨act, 380, by decide +kernel⟩,
   ⟨act, 620, by decide +kernel⟩,
   ⟨act, by decide +kernel⟩⟩

/-- PowerStatesAct: what its clauses ask, met clause by clause (idleToActive, idleDelayExpiry, powerStateEntry, dieGate, dieUngate). -/
theorem witness_PowerStatesAct :
    (∃ (s : State), s.operating = true ∧ s.power.state = .idle ∧ s.ringWork = true)
    ∧ (∃ (s : State) (now : Nat), s.power.state = .active ∧ (field (s.regNat (blkPower + 0x84)) 15 0 ≠ 0) ∧ s.ringWork = false ∧
        (s.at now).expired (s.power.idleSince + field (s.regNat (blkPower + 0x84)) 15 0 * 100 * usec) = true)
    ∧ (∃ (s : State) (d : Nat), s.power.entering = some (0, d) ∧ s.inflight = [])
    ∧ (∃ (s : State) (d : Nat), s.power.entering = some (1, d) ∧ s.inflight = [])
    ∧ (∃ (s : State) (d : Nat), d < 4 ∧ s.operating = true ∧ s.dieGated d = true ∧ s.power.gated.testBit d = false ∧ s.dieLeft d = true)
    ∧ (∃ (s : State) (d : Nat), d < 4 ∧ s.dieGated d = false ∧ s.power.gated.testBit d = true) :=
  ⟨⟨(on { act with power := { act.power with state := .idle } } (running (wc 0x2000 []))), by decide +kernel⟩,
   ⟨(act.setNat (blkPower + 0x84) 3), (10 ^ 15), by decide +kernel⟩,
   ⟨{ act with power := { act.power with entering := some (0, 5) } }, 5, by decide +kernel⟩,
   ⟨{ act with power := { act.power with entering := some (1, 5) } }, 5, by decide +kernel⟩,
   ⟨(act.setNat (blkPower + 0x88) 1), 3, by decide +kernel⟩,
   ⟨{ act with power := { act.power with gated := 8 } }, 3, by decide +kernel⟩⟩

/-- ThermalAndPaceEventsAct: what its clauses ask, met clause by clause (inletWarning, thermalLimit, thermalHardBreach, thermalResume, thermalTrip, governorSample, paceWindow). -/
theorem witness_ThermalAndPaceEventsAct :
    (∃ (s : State) (dc : Nat), s.sampling = true ∧ 420 < dc)
    ∧ (∃ (s : State) (dc : Nat), s.sampling = true ∧ 950 ≤ dc)
    ∧ (∃ (s : State) (dc : Nat), s.sampling = true ∧ 1050 ≤ dc)
    ∧ (∃ (s : State) (dc : Nat), s.sampling = true ∧ dc < 1000)
    ∧ (∃ (s : State), s.powered = true)
    ∧ (∃ (s : State) (now : Nat), s.sampling = true ∧ ((s.gov.samples = [] ∨ s.gov.sampledAt + 100 * usec ≤ (s.at now).now)))
    ∧ (∃ (s : State) (now : Nat), s.gov.windowFrom + 1000 ≤ (s.at now).now ∧ (s.at now).now < s.gov.windowFrom + 2000)
    ∧ (∃ (s : State) (now : Nat), s.gov.windowFrom + 2000 ≤ (s.at now).now) :=
  ⟨⟨act, 421, by decide +kernel⟩,
   ⟨act, 950, by decide +kernel⟩,
   ⟨act, 1050, by decide +kernel⟩,
   ⟨{ act with gov := { act.gov with pausedThermal := true } }, 999, by decide +kernel⟩,
   ⟨act, by decide +kernel⟩,
   ⟨{ act with gov := { act.gov with samples := [600], sampledAt := 0 } }, (10 ^ 15), by decide +kernel⟩,
   ⟨{ act with gov := { act.gov with windowBeats := 1500 } }, (1500), by decide +kernel⟩,
   ⟨act, (10 ^ 15), by decide +kernel⟩⟩

/-- BeatEventsAct: what its clauses ask, met clause by clause (beat, beatWatchdog, operatingHourTick, marginPlanDone). -/
theorem witness_BeatEventsAct :
    (∃ (s : State) (now : Nat), s.beating = true ∧ (s.at now).now < s.gov.windowFrom + 1000)
    ∧ (∃ (s : State) (a : Nat), s.beating = true ∧ a < stackBytes s.spine.variant ∧ s.neverWritten (s.poisonUnit a) = false ∧
        s.poisonUnit a ∉ s.mem.poison ∧ s.poisonUnit a ∉ s.mem.bad)
    ∧ (∃ (s : State) (late : List Nat) (now : Nat) (u : Nat), s.beating = true ∧ (s.at now).expired (s.gov.beatFrom + 10 * usec) = true ∧
        u ∈ late ∧ s.inService u = true)
    ∧ (∃ (s : State) (now : Nat), s.power.pwrgd = true ∧ (s.power.state ≠ .off) ∧
        (s.at now).expired (s.clock.hourFrom + 3600 * second) = true)
    ∧ (∃ (s : State) (r : CmdRef) (k : Cmd) (rest : List (Prod Nat (Option CmdRef))), s.gov.planning = (0, some r) :: rest ∧
        s.cmd r = some k)
    ∧ (∃ (s : State) (r : CmdRef) (k : Cmd) (rest : List (Prod Nat (Option CmdRef))), s.gov.planning = (1, some r) :: rest ∧
        s.cmd r = some k) :=
  ⟨⟨act, 5, by decide +kernel⟩,
   ⟨ber, 0x1000, by decide +kernel⟩,
   ⟨act, ([0x2F] : List Nat), (10 ^ 15), 0x2F, by decide +kernel⟩,
   ⟨act, (10 ^ 15), by decide +kernel⟩,
   ⟨{ (on act (running (wc 0x0009 []))) with gov := { act.gov with planning := [(0, some ⟨1, 7⟩)] } }, (⟨1, 7⟩ : CmdRef),
    running (wc 0x0009 []), ([] : List (Nat × Option CmdRef)), by decide +kernel⟩,
   ⟨{ (on act (running (wc 0x0009 []))) with gov := { act.gov with planning := [(1, some ⟨1, 7⟩)] } }, (⟨1, 7⟩ : CmdRef),
    running (wc 0x0009 []), ([] : List (Nat × Option CmdRef)), by decide +kernel⟩⟩

/-- MctpCommandsAnswer: what its clauses ask, met clause by clause (setEndpointId, getEndpointId, getEndpointUuid, getMctpVersionSupport, getMessageTypeSupport, getTid, getPldmVersion, getPldmTypes, getPldmCommands, mgmtUnsupportedCommand). -/
theorem witness_MctpCommandsAnswer :
    (∃ (s : State) (t : Transport) (eid : Nat), s.hears t .mctpControl = true ∧ 8 ≤ eid ∧ eid < 255)
    ∧ (∃ (s : State) (t : Transport), s.hears t .mctpControl = true)
    ∧ (∃ (s : State) (t : Transport), s.hears t .mctpControl = true)
    ∧ (∃ (s : State) (t : Transport), s.hears t .mctpControl = true)
    ∧ (∃ (s : State) (t : Transport), s.hears t .mctpControl = true)
    ∧ (∃ (s : State) (t : Transport), s.hears t .pldmBase = true)
    ∧ (∃ (s : State) (t : Transport) (type : Nat), s.hears t .pldmBase = true ∧ type ∈ [0, 2, 5])
    ∧ (∃ (s : State) (t : Transport), s.hears t .pldmBase = true)
    ∧ (∃ (s : State) (t : Transport) (type : Nat) (l : List Nat), s.hears t .pldmBase = true ∧ pldmCommands type = some l)
    ∧ (∃ (s : State) (t : Transport) (protocol : MgmtProtocol), s.hears t protocol = true ∧ (protocol ≠ .spdm)) :=
  ⟨⟨act, Transport.i3c, 254, by decide +kernel⟩,
   ⟨act, Transport.smbus 0x30, by decide +kernel⟩,
   ⟨act, Transport.smbus 0x30, by decide +kernel⟩,
   ⟨act, Transport.smbus 0x30, by decide +kernel⟩,
   ⟨act, Transport.smbus 0x30, by decide +kernel⟩,
   ⟨act, Transport.smbus 0x30, by decide +kernel⟩,
   ⟨act, Transport.smbus 0x30, 5, by decide +kernel⟩,
   ⟨act, Transport.smbus 0x30, by decide +kernel⟩,
   ⟨act, Transport.smbus 0x30, 5, (pldmCommands 5).getD [], by decide +kernel⟩,
   ⟨act, Transport.smbus 0x30, MgmtProtocol.pldmUpdate, by decide +kernel⟩⟩

/-- PlatformCommandsAnswer: what its clauses ask, met clause by clause (getPdr, getPdrRepositoryInfo, getSensorReading, getStateSensorReadings, setNumericEffecterValue, getNumericEffecterValue, setStateEffecterStates, setEventReceiver, eventMessageCollected). -/
theorem witness_PlatformCommandsAnswer :
    (∃ (s : State) (t : Transport) (handle : Nat) (r : Prod Nat Nat), s.hears t .pldmPlatform = true ∧ 1 ≤ handle ∧
        pdrs[handle - 1]? = some r)
    ∧ (∃ (s : State) (t : Transport), s.hears t .pldmPlatform = true)
    ∧ (∃ (s : State) (t : Transport) (id : Nat) (v : Nat), s.hears t .pldmPlatform = true ∧ s.numericSensor id = some v)
    ∧ (∃ (s : State) (t : Transport) (id : Nat) (v : Nat), s.hears t .pldmPlatform = true ∧ s.stateSensor id = some v)
    ∧ (∃ (s : State) (t : Transport) (v : Nat), s.hears t .pldmPlatform = true ∧ (v = 0 ∨ (600 ≤ v ∧ v ≤ capTop s.spine.variant)))
    ∧ (∃ (s : State) (t : Transport), s.hears t .pldmPlatform = true)
    ∧ (∃ (s : State) (t : Transport) (v : Nat), s.hears t .pldmPlatform = true ∧ v ≤ 1)
    ∧ (∃ (s : State) (t : Transport), s.hears t .pldmPlatform = true)
    ∧ (∃ (s : State) (t : Transport) (receiver : Nat) (e : Prod Nat Nat) (rest : List (Prod Nat Nat)), s.mgmt.receiver = some (t,
        receiver) ∧ s.mgmt.events = e :: rest) :=
  ⟨⟨act, Transport.smbus 0x30, 1, pdrs.getD 0 (0, 0), by decide +kernel⟩,
   ⟨act, Transport.smbus 0x30, by decide +kernel⟩,
   ⟨act, Transport.smbus 0x30, 8, ((act).numericSensor 8).getD 0, by decide +kernel⟩,
   ⟨act, Transport.smbus 0x30, 49, ((act).stateSensor 49).getD 0, by decide +kernel⟩,
   ⟨act, Transport.smbus 0x30, 600, by decide +kernel⟩,
   ⟨act, Transport.smbus 0x30, by decide +kernel⟩,
   ⟨act, Transport.smbus 0x30, 1, by decide +kernel⟩,
   ⟨act, Transport.smbus 0x30, by decide +kernel⟩,
   ⟨{ act with mgmt := { act.mgmt with receiver := some (Transport.smbus 0x30, 9), events := [(5, 6), (7, 8)] } }, Transport.smbus 0x30, 9,
    ((5, 6) : Nat × Nat), ([(7, 8)] : List (Nat × Nat)), by decide +kernel⟩⟩

/-- FirmwareUpdateCommandsAnswer: what its clauses ask, met clause by clause (queryDeviceIdentifiers, getFirmwareParameters, requestUpdate, passComponentTable, updateComponent, requestFirmwareData, verifyComplete, activateFirmware, getStatus, cancelUpdateComponent, cancelUpdate). -/
theorem witness_FirmwareUpdateCommandsAnswer :
    (∃ (s : State) (t : Transport), s.hears t .pldmUpdate = true ∧ s.retired = false)
    ∧ (∃ (s : State) (t : Transport), s.hears t .pldmUpdate = true ∧ s.retired = false)
    ∧ (∃ (s : State) (t : Transport), s.hears t .pldmUpdate = true ∧ s.retired = false ∧ s.mgmt.update = none)
    ∧ (∃ (s : State) (t : Transport) (w : FwUpdate), s.hears t .pldmUpdate = true ∧ s.retired = false ∧ s.mgmt.update = some w ∧
        w.phase = 0)
    ∧ (∃ (s : State) (t : Transport) (w : FwUpdate), s.hears t .pldmUpdate = true ∧ s.retired = false ∧ s.mgmt.update = some w ∧
        w.phase = 1)
    ∧ (∃ (s : State) (t : Transport) (off : Nat) (bytes : List Byte) (w : FwUpdate), s.hears t .pldmUpdate = true ∧ s.retired = false ∧
        s.mgmt.update = some w ∧ w.phase = 2 ∧ off + bytes.length ≤ w.size)
    ∧ (∃ (s : State) (t : Transport) (w : FwUpdate), s.hears t .pldmUpdate = true ∧ s.retired = false ∧ s.mgmt.update = some w ∧
        w.phase = 2)
    ∧ (∃ (s : State) (t : Transport) (w : FwUpdate), s.hears t .pldmUpdate = true ∧ s.retired = false ∧ s.mgmt.update = some w ∧
        w.phase = 3)
    ∧ (∃ (s : State) (t : Transport), s.hears t .pldmUpdate = true ∧ s.retired = false)
    ∧ (∃ (s : State) (t : Transport) (w : FwUpdate), s.hears t .pldmUpdate = true ∧ s.retired = false ∧ s.mgmt.update = some w ∧
        ((w.phase = 2 ∨ w.phase = 3)))
    ∧ (∃ (s : State) (t : Transport) (w : FwUpdate), s.hears t .pldmUpdate = true ∧ s.retired = false ∧ s.mgmt.update = some w ∧
        w.phase < 4) :=
  ⟨⟨act, Transport.smbus 0x30, by decide +kernel⟩,
   ⟨act, Transport.smbus 0x30, by decide +kernel⟩,
   ⟨act, Transport.smbus 0x30, by decide +kernel⟩,
   ⟨{ act with mgmt := { act.mgmt with update := some (⟨0, 0, []⟩ : FwUpdate) } }, Transport.smbus 0x30, (⟨0, 0, []⟩ : FwUpdate),
    by decide +kernel⟩,
   ⟨{ act with mgmt := { act.mgmt with update := some (⟨1, 0, []⟩ : FwUpdate) } }, Transport.smbus 0x30, (⟨1, 0, []⟩ : FwUpdate),
    by decide +kernel⟩,
   ⟨{ act with mgmt := { act.mgmt with update := some (⟨2, 4, []⟩ : FwUpdate) } }, Transport.smbus 0x30, 2, [1, 2], (⟨2, 4,
    []⟩ : FwUpdate), by decide +kernel⟩,
   ⟨{ act with mgmt := { act.mgmt with update := some (⟨2, 0, []⟩ : FwUpdate) } }, Transport.smbus 0x30, (⟨2, 0, []⟩ : FwUpdate),
    by decide +kernel⟩,
   ⟨{ act with mgmt := { act.mgmt with update := some (⟨3, 0, []⟩ : FwUpdate) } }, Transport.smbus 0x30, (⟨3, 0, []⟩ : FwUpdate),
    by decide +kernel⟩,
   ⟨act, Transport.smbus 0x30, by decide +kernel⟩,
   ⟨{ act with mgmt := { act.mgmt with update := some (⟨3, 0, []⟩ : FwUpdate) } }, Transport.smbus 0x30, (⟨3, 0, []⟩ : FwUpdate),
    by decide +kernel⟩,
   ⟨{ act with mgmt := { act.mgmt with update := some (⟨3, 0, []⟩ : FwUpdate) } }, Transport.smbus 0x30, (⟨3, 0, []⟩ : FwUpdate),
    by decide +kernel⟩⟩

/-- SpdmCommandsAnswer: what its clauses ask, met clause by clause (ideKm, doeDiscovery, getVersion, getCapabilities, negotiateAlgorithms, getDigests, getCertificate, challenge, getMeasurements, keyExchange, finish, heartbeat, keyUpdate, endSession, spdmFence, spdmFenceExpiry). -/
theorem witness_SpdmCommandsAnswer :
    (∃ (s : State) (session : Nat) (msg : IdeKm), s.Converses .doe ∧ s.mgmt.spdmDoe.sessions.contains (session, true) = true ∧
        keySuits msg = true)
    ∧ (∃ (s : State) (index : Nat), s.pcieLink = true ∧ index < 3)
    ∧ (∃ (s : State) (t : Transport) (now : Nat), (s.at now).Converses t)
    ∧ (∃ (s : State) (t : Transport) (now : Nat), (s.at now).Converses t ∧ ((s.at now).spdmPort t).stage = 1)
    ∧ (∃ (s : State) (t : Transport) (now : Nat), (s.at now).Converses t ∧ ((s.at now).spdmPort t).stage = 2)
    ∧ (∃ (s : State) (t : Transport) (now : Nat), (s.at now).Converses t ∧ ((s.at now).spdmPort t).stage = 3)
    ∧ (∃ (s : State) (t : Transport) (now : Nat), (s.at now).Converses t ∧ ((s.at now).spdmPort t).stage = 3)
    ∧ (∃ (s : State) (t : Transport) (now : Nat), (s.at now).Converses t ∧ ((s.at now).spdmPort t).stage = 3)
    ∧ (∃ (s : State) (t : Transport) (index : Nat) (now : Nat) (content : List Byte), (s.at now).Converses t ∧
        ((s.at now).spdmPort t).stage = 3 ∧ 1 ≤ index ∧ index ≤ 5 ∧ (s.at now).measurement index = some content)
    ∧ (∃ (s : State) (t : Transport) (now : Nat) (k : SpdmPort), (s.at now).Converses t ∧ ((s.at now).spdmPort t).stage = 3 ∧
        (s.at now).spdmPort t = k ∧ k.sessions.length < 4)
    ∧ (∃ (s : State) (t : Transport) (session : Nat) (now : Nat) (k : SpdmPort), (s.at now).Converses t ∧ (s.at now).spdmPort t = k ∧
        k.sessions.contains (session, false) = true)
    ∧ (∃ (s : State) (t : Transport) (session : Nat) (now : Nat) (k : SpdmPort), (s.at now).Converses t ∧ (s.at now).spdmPort t = k ∧
        k.sessions.contains (session, true) = true)
    ∧ (∃ (s : State) (t : Transport) (session : Nat) (now : Nat) (k : SpdmPort), (s.at now).Converses t ∧ (s.at now).spdmPort t = k ∧
        k.sessions.contains (session, true) = true)
    ∧ (∃ (s : State) (t : Transport) (session : Nat) (now : Nat) (k : SpdmPort), (s.at now).Converses t ∧ (s.at now).spdmPort t = k ∧
        k.sessions.contains (session, true) = true)
    ∧ (∃ (s : State) (t : Transport) (now : Nat), ((s.at now).spdmPort t).busyUntil = none ∧
        64 ≤ ((s.at now).recent (10 * second) ((s.at now).spdmPort t).errorsAt).length)
    ∧ (∃ (s : State) (t : Transport) (now : Nat) (b : Nat), ((s.at now).spdmPort t).busyUntil = some b ∧ (s.at now).expired b = true) :=
  ⟨⟨{ act with mgmt := { act.mgmt with spdmDoe := { SpdmPort.reset with sessions := [(4, true)] } } }, 4, (⟨false, 0, 4,
    zeros 32⟩ : IdeKm), by unfold State.Converses; decide +kernel⟩,
   ⟨act, 2, by decide +kernel⟩,
   ⟨{ act with mgmt := { act.mgmt with spdmI3c := { SpdmPort.reset with stage := 3, sessions := [(1, true)] } } }, Transport.i3c,
    (10 ^ 15), by unfold State.Converses; decide +kernel⟩,
   ⟨{ act with mgmt := { act.mgmt with spdmI3c := { SpdmPort.reset with stage := 1 } } }, Transport.i3c, (10 ^ 15),
    by unfold State.Converses; decide +kernel⟩,
   ⟨{ act with mgmt := { act.mgmt with spdmI3c := { SpdmPort.reset with stage := 2 } } }, Transport.i3c, (10 ^ 15),
    by unfold State.Converses; decide +kernel⟩,
   ⟨{ act with mgmt := { act.mgmt with spdmI3c := { SpdmPort.reset with stage := 3 } } }, Transport.i3c, (10 ^ 15),
    by unfold State.Converses; decide +kernel⟩,
   ⟨{ act with mgmt := { act.mgmt with spdmI3c := { SpdmPort.reset with stage := 3 } } }, Transport.i3c, (10 ^ 15),
    by unfold State.Converses; decide +kernel⟩,
   ⟨{ act with mgmt := { act.mgmt with spdmI3c := { SpdmPort.reset with stage := 3 } } }, Transport.i3c, (10 ^ 15),
    by unfold State.Converses; decide +kernel⟩,
   ⟨{ act with mgmt := { act.mgmt with spdmI3c := { SpdmPort.reset with stage := 3 } } }, Transport.i3c, 5, (10 ^ 15),
    ((({ act with mgmt := { act.mgmt with spdmI3c := { SpdmPort.reset with stage := 3 } } }).at ((10 ^ 15))).measurement 5).getD [],
    by unfold State.Converses; decide +kernel⟩,
   ⟨{ act with mgmt := { act.mgmt with spdmI3c := { SpdmPort.reset with stage := 3, sessions := [(1, true), (2, true), (3, true)], nextSession := 4 } } },
    Transport.i3c, (10 ^ 15), { SpdmPort.reset with stage := 3, sessions := [(1, true), (2, true), (3, true)], nextSession := 4 },
    by unfold State.Converses; decide +kernel⟩,
   ⟨{ act with mgmt := { act.mgmt with spdmI3c := { SpdmPort.reset with stage := 3, sessions := [(1, true), (2, false)] } } },
    Transport.i3c, 2, (10 ^ 15), { SpdmPort.reset with stage := 3, sessions := [(1, true), (2, false)] },
    by unfold State.Converses; decide +kernel⟩,
   ⟨{ act with mgmt := { act.mgmt with spdmI3c := { SpdmPort.reset with stage := 3, sessions := [(1, true), (2, false)] } } },
    Transport.i3c, 1, (10 ^ 15), { SpdmPort.reset with stage := 3, sessions := [(1, true), (2, false)] },
    by unfold State.Converses; decide +kernel⟩,
   ⟨{ act with mgmt := { act.mgmt with spdmI3c := { SpdmPort.reset with stage := 3, sessions := [(1, true), (2, false)] } } },
    Transport.i3c, 1, (10 ^ 15), { SpdmPort.reset with stage := 3, sessions := [(1, true), (2, false)] },
    by unfold State.Converses; decide +kernel⟩,
   ⟨{ act with mgmt := { act.mgmt with spdmI3c := { SpdmPort.reset with stage := 3, sessions := [(1, true), (2, false)] } } },
    Transport.i3c, 1, (10 ^ 15), { SpdmPort.reset with stage := 3, sessions := [(1, true), (2, false)] },
    by unfold State.Converses; decide +kernel⟩,
   ⟨{ act with mgmt := { act.mgmt with spdmI3c := { SpdmPort.reset with errorsAt := List.replicate 64 (10 ^ 15) } } }, Transport.i3c,
    (10 ^ 15), by decide +kernel⟩,
   ⟨{ act with mgmt := { act.mgmt with spdmI3c := { SpdmPort.reset with busyUntil := some 5, stage := 3 } } }, Transport.i3c, (10 ^ 15), 5,
    by decide +kernel⟩⟩

/-- SecureCommandsComplete: what its clauses ask, met clause by clause (lifecycleSet, debugToken). -/
theorem witness_SecureCommandsComplete :
    (∃ (s : State) (r : CmdRef) (k : Cmd) (hv : HostView) (b : List Byte), s.Ready 0x9000 r k ∧ k.param 32 1 = 0 ∧
        (s.meets hv k).placeFails k (k.param 40 8) recordBytes false 40 = none ∧ s.updating = false ∧ ((s.lcState = 0 ∨ s.lcState = 4)) ∧
        s.fusesLeft = true ∧ (s.meets hv k).readPlace (placeOf (k.param 40 8)) 0 recordBytes = (b, none))
    ∧ (∃ (s : State) (r : CmdRef) (k : Cmd) (hv : HostView) (b : List Byte), s.Ready 0x9000 r k ∧ k.param 32 1 = 1 ∧
        (s.meets hv k).placeFails k (k.param 40 8) envelopeBytes false 40 = none ∧ s.updating = false ∧ s.lcState = 1 ∧ s.fusesLeft = true ∧
        (s.meets hv k).readPlace (placeOf (k.param 40 8)) 0 envelopeBytes = (b, none))
    ∧ (∃ (s : State) (r : CmdRef) (k : Cmd) (hv : HostView) (b : List Byte), s.Ready 0x9000 r k ∧ k.param 32 1 = 2 ∧
        (s.meets hv k).placeFails k (k.param 40 8) (recordBytes + envelopeBytes) false 40 = none ∧ s.updating = false ∧ s.lcState = 2 ∧
        (s.meets hv k).readPlace (placeOf (k.param 40 8)) 0 (recordBytes + envelopeBytes) = (b, none))
    ∧ (∃ (s : State) (r : CmdRef) (k : Cmd) (hv : HostView) (b : List Byte), s.Ready 0x9000 r k ∧ k.param 32 1 = 3 ∧
        (s.meets hv k).placeFails k (k.param 40 8) recordBytes false 40 = none ∧ s.updating = false ∧ s.lcState = 2 ∧ s.fusesLeft = true ∧
        (s.meets hv k).readPlace (placeOf (k.param 40 8)) 0 recordBytes = (b, none))
    ∧ (∃ (s : State) (r : CmdRef) (k : Cmd) (hv : HostView) (b : List Byte), s.Ready 0x9000 r k ∧ k.param 32 1 = 4 ∧
        (s.meets hv k).placeFails k (k.param 40 8) recordBytes false 40 = none ∧ s.updating = false ∧ (s.lcState ≠ 15) ∧
        (s.meets hv k).readPlace (placeOf (k.param 40 8)) 0 recordBytes = (b, none))
    ∧ (∃ (s : State) (r : CmdRef) (k : Cmd), s.Ready 0x9000 r k ∧ k.param 32 1 = 5 ∧ s.updating = false ∧ s.lcState = 3 ∧
        s.fusesLeft = true ∧ s.sec.debug = 0)
    ∧ (∃ (s : State) (r : CmdRef) (k : Cmd), s.Ready 0x9000 r k ∧ k.param 32 1 = 5 ∧ s.updating = false ∧ s.lcState = 2 ∧ s.sec.debug = 2)
    ∧ (∃ (s : State) (r : CmdRef) (k : Cmd) (hv : HostView) (b : List Byte), s.Ready 0x9000 r k ∧ k.param 32 1 = 6 ∧
        (s.meets hv k).placeFails k (k.param 40 8) recordBytes false 40 = none ∧ s.updating = false ∧ s.lcState = 2 ∧
        (s.keepsake.ownerBlob ≠ []) ∧ s.panel.lidOpen = false ∧ (s.meets hv k).readPlace (placeOf (k.param 40 8)) 0 recordBytes = (b, none))
    ∧ (∃ (s : State) (r : CmdRef) (k : Cmd) (hv : HostView) (b : List Byte), s.Ready 0x9001 r k ∧
        (s.meets hv k).placeFails k (k.param 40 8) recordBytes false 40 = none ∧ s.updating = false ∧ s.sec.debug = 0 ∧ s.lcState = 2 ∧
        s.fusesLeft = true ∧ (s.meets hv k).readPlace (placeOf (k.param 40 8)) 0 recordBytes = (b, none)) :=
  ⟨⟨(on { ber with sec := { ber.sec with fuseLog := [1, 2, 4] } } (wc 0x9000 [(32,1,0),(40,8,0x8000000)])), ⟨1, 7⟩,
    (wc 0x9000 [(32,1,0),(40,8,0x8000000)]), noHost,
    (((on { ber with sec := { ber.sec with fuseLog := [1, 2, 4] } } (wc 0x9000 [(32,1,0),(40,8,0x8000000)]))).sees (noHost)).bytesAt 0x8000000 (recordBytes),
    by unfold State.Ready; decide +kernel⟩,
   ⟨(on { ber with sec := { ber.sec with fuseLog := [1] } } (wc 0x9000 [(32,1,1),(40,8,0x8000000)])), ⟨1, 7⟩,
    (wc 0x9000 [(32,1,1),(40,8,0x8000000)]), noHost,
    (((on { ber with sec := { ber.sec with fuseLog := [1] } } (wc 0x9000 [(32,1,1),(40,8,0x8000000)]))).sees (noHost)).bytesAt 0x8000000 (envelopeBytes),
    by unfold State.Ready; decide +kernel⟩,
   ⟨(on { ber with sec := { ber.sec with fuseLog := [1, 2] } } (wc 0x9000 [(32,1,2),(40,8,0x8000000)])), ⟨1, 7⟩,
    (wc 0x9000 [(32,1,2),(40,8,0x8000000)]), noHost,
    (((on { ber with sec := { ber.sec with fuseLog := [1, 2] } } (wc 0x9000 [(32,1,2),(40,8,0x8000000)]))).sees (noHost)).bytesAt 0x8000000 (recordBytes + envelopeBytes),
    by unfold State.Ready; decide +kernel⟩,
   ⟨(on { ber with sec := { ber.sec with fuseLog := [1, 2] } } (wc 0x9000 [(32,1,3),(40,8,0x8000000)])), ⟨1, 7⟩,
    (wc 0x9000 [(32,1,3),(40,8,0x8000000)]), noHost,
    (((on { ber with sec := { ber.sec with fuseLog := [1, 2] } } (wc 0x9000 [(32,1,3),(40,8,0x8000000)]))).sees (noHost)).bytesAt 0x8000000 (recordBytes),
    by unfold State.Ready; decide +kernel⟩,
   ⟨(on { ber with sec := { ber.sec with fuseLog := [1, 2] } } (wc 0x9000 [(32,1,4),(40,8,0x8000000)])), ⟨1, 7⟩,
    (wc 0x9000 [(32,1,4),(40,8,0x8000000)]), noHost,
    (((on { ber with sec := { ber.sec with fuseLog := [1, 2] } } (wc 0x9000 [(32,1,4),(40,8,0x8000000)]))).sees (noHost)).bytesAt 0x8000000 (recordBytes),
    by unfold State.Ready; decide +kernel⟩,
   ⟨(on { ber with sec := { ber.sec with fuseLog := [1, 2, 3] } } (wc 0x9000 [(32,1,5)])), ⟨1, 7⟩, (wc 0x9000 [(32,1,5)]),
    by unfold State.Ready; decide +kernel⟩,
   ⟨(on { ber with sec := { ber.sec with fuseLog := [1, 2], debug := 2 } } (wc 0x9000 [(32,1,5)])), ⟨1, 7⟩, (wc 0x9000 [(32,1,5)]),
    by unfold State.Ready; decide +kernel⟩,
   ⟨(on { { ber with sec := { ber.sec with fuseLog := [1, 2] } } with keepsake := { ber.keepsake with ownerBlob := [1] } } (wc 0x9000 [(32,1,6),(40,8,0x8000000)])),
    ⟨1, 7⟩, (wc 0x9000 [(32,1,6),(40,8,0x8000000)]), noHost,
    (((on { { ber with sec := { ber.sec with fuseLog := [1, 2] } } with keepsake := { ber.keepsake with ownerBlob := [1] } } (wc 0x9000 [(32,1,6),(40,8,0x8000000)]))).sees (noHost)).bytesAt 0x8000000 recordBytes,
    by unfold State.Ready; decide +kernel⟩,
   ⟨(on { ber with sec := { ber.sec with fuseLog := [1, 2] } } (wc 0x9001 [(40,8,0x8000000)])), ⟨1, 7⟩, (wc 0x9001 [(40,8,0x8000000)]),
    noHost,
    (((on { ber with sec := { ber.sec with fuseLog := [1, 2] } } (wc 0x9001 [(40,8,0x8000000)]))).sees (noHost)).bytesAt 0x8000000 recordBytes,
    by unfold State.Ready; decide +kernel⟩⟩

/-- StepRunsFront and EmptyQueueIdles: a queue with a command, and one without. -/
theorem witness_StepRunsFront :
    (∃ (s : State) (c : Instr) (rest : List Instr), s.pending = c :: rest) ∧ ∃ s : State, s.pending = [] :=
  ⟨⟨{ act with pending := [.lidClose, .lidOpen] }, .lidClose, [.lidOpen], rfl⟩, act, rfl⟩

/-- InvIsKept, FrameOfEveryCommand, VariantIsFixed: a state with the invariant whose step and whose command answer a next state. -/
theorem witness_InvIsKept :
    ∃ (s t : State) (c : Instr), s.Inv ∧ step s = .next t ∧ exec c s = .next (s.at 5) :=
  ⟨act, act.at 1, .idleDelayExpiry 5, by unfold State.Inv Spine.counts; decide +kernel, rfl, rfl⟩

/-- VariantIsFixed: IDENTITY reads a value. -/
theorem witness_VariantIsFixed : ∃ (s : State) (fn i v : Nat), s.hostView fn "IDENTITY" i = some v :=
  ⟨act, 0, 0, _, rfl⟩

/-- StaleCheckIsRefused: a CHECK that passes, and a COMMIT in CHECKED after another commit. -/
theorem witness_StaleCheckIsRefused :
    (∃ s : State, s.chamber.state ≠ .committing ∧ s.checkFails s.chamber.entries true = none) ∧
    ∃ (s : State) (r : CmdRef) (k : Cmd), s.Ready 0x1002 r k ∧ s.chamber.state = .checked ∧ s.commitCount ≠ s.checkedAt :=
  ⟨⟨ber, by decide +kernel⟩,
   { on ber (wc 0x1002 []) with chamber := { ber.chamber with state := .checked }, commitCount := 1 }, ⟨1, 7⟩, wc 0x1002 [],
   by unfold State.Ready; decide +kernel⟩

/-- BucketOverflowIsRecorded: a bucket at its threshold, one below it, and the two events that meet the latter. -/
theorem witness_BucketOverflowIsRecorded :
    (∃ (s : State) (c : Nat), s.bucketThreshold c < s.bucketLevel c + 1) ∧
    (∃ (s : State) (c : Nat), s.ctrlFitted c = true ∧ s.bucketLevel c + 1 ≤ s.bucketThreshold c) ∧
    ∃ (s : State) (addr c : Nat), s.controllerOf (s.phys addr) = some c ∧ s.bucketLevel c + 1 ≤ s.bucketThreshold c :=
  ⟨⟨act.setNat (blkCtrl 0 + 0x4C) 64, 0, by decide +kernel⟩, ⟨act, 0, by decide +kernel⟩, act, 0, (act.controllerOf (act.phys 0)).getD 0,
    by decide +kernel⟩

/-- A record of the log. -/
def aRecord : LogRecord :=
  { seq := 1, cause := 0x0301, cls := 1, keepsake := false, berth := none, time := 0, epoch := 1, unit := 0, incarnation := 1, queue := 0xFF,
    fn := 0, tag := 0, address := 0, detail := 0, users := 0 }

/-- FullLogDropsOldestInfo: a log with room, and a full one. -/
theorem witness_FullLogDropsOldestInfo :
    (∃ s : State, s.log.records.length < 4096) ∧ ∃ s : State, 4096 ≤ s.log.records.length :=
  ⟨⟨act, by decide +kernel⟩, { act with log := { act.log with records := List.replicate 4096 aRecord } },
    Nat.le_of_eq (List.length_replicate (n := 4096) (a := aRecord)).symm⟩

/-- EpochCountsCommits: a cold reset that is not refused. -/
theorem witness_EpochCountsCommits :
    ∃ (s t : State) (b : BootInputs), s.power.booting ≠ .full ∧ (s.power.state = .idle ∨ s.power.state = .active) ∧
      exec (.coldReset b) s = .next t :=
  ⟨act, _, ⟨true, true, true, true, [], 3000, [], [], [], true⟩, by decide +kernel, by decide +kernel, rfl⟩

end Witnesses

end Sys2Proof.Machine
end

section
/-! SUPPORT. Laws of the register file, of the event log and of the retained ranges: what a read returns after a write. -/

namespace Sys2Proof.Machine

open Sys2Proof

/-! ## Reading off a request of the host -/

/-- A request of the host whose effect leaves the spine and the queue of commands alone reaches just that effect. -/
theorem runsHost_reaches_of_acts {ps : List Part} {f : State → State} {s t : State} {P : State → Prop} (hu : s.pcieUp = true) (hf : f s = t)
    (ha : Acts ps s t) (hps : .spine ∉ ps ∧ .acting ∉ ps ∧ .pending ∉ ps) (h : P t) : Reaches (runsHost f s) P := by
  obtain ⟨hspine, hacting, hpending⟩ := hps
  have espine : t.spine = s.spine := ha.1 .spine hspine
  have eacting : t.acting = s.acting := ha.1 .acting hacting
  have epending : t.pending = s.pending := ha.1 .pending hpending
  refine runsHost_reaches hu ?_
  rw [hf, ← espine, ← eacting, ← epending]
  exact h

/-! ## The register file -/

@[simp] theorem State.reg_setReg_same (s : State) (a : Nat) (v : Word) : (s.setReg a v).reg a = v := by
  simp only [State.reg, State.setReg_regs, lookup_insert, Option.getD_some]

theorem State.reg_setReg_ne {a b : Nat} (h : b ≠ a) (s : State) (v : Word) : (s.setReg a v).reg b = s.reg b := by
  simp only [State.reg, State.setReg_regs, State.setReg_spine, lookup_insert_ne h]

@[simp] theorem State.interruptOf_reg (s : State) (a b : Nat) : (s.interruptOf a).reg b = s.reg b := by
  unfold State.interruptOf
  split <;> rfl

/-- A clear of flags stores what is left of them, and its interrupt changes no register. -/
theorem State.clearFlags_reg (s : State) (a v b : Nat) :
    (s.clearFlags a v).reg b = (s.setNat a (clearedBy (s.regNat a) v)).reg b := by
  simp only [State.clearFlags]
  split
  · exact State.interruptOf_reg _ _ _
  · rfl

/-! ## The event log -/

/-- A record of the event log advances its sequence number by one. -/
@[simp] theorem State.logEvent_log_next (s : State) (g : LogArg) : (s.logEvent g).log.next = s.log.next + 1 := by
  simp only [State.logEvent]
  split <;> rfl

@[simp] theorem State.logEvent_regs (s : State) (g : LogArg) : (s.logEvent g).regs = s.regs := by
  simp only [State.logEvent]
  split <;> rfl

@[simp] theorem State.logEvent_heldLow (s : State) (g : LogArg) : (s.logEvent g).heldLow = s.heldLow := by
  simp only [State.logEvent]
  split <;> rfl

@[simp] theorem State.logEvent_mem (s : State) (g : LogArg) : (s.logEvent g).mem = s.mem := by
  simp only [State.logEvent]
  split <;> rfl

/-! ## Groups -/

@[simp] theorem State.updGroup_group_same (s : State) (g : Nat) (f : CollGroup → CollGroup) : (s.updGroup g f).group g = f (s.group g) := by
  simp only [State.updGroup, State.group, lookup_insert, Option.getD_some]

theorem State.updGroup_group_ne {g n : Nat} (h : n ≠ g) (s : State) (f : CollGroup → CollGroup) : (s.updGroup g f).group n = s.group n := by
  simp only [State.updGroup, State.group, lookup_insert_ne h]

theorem bitsBelow_two_pow {limit g : Nat} (h : g < limit) : bitsBelow limit (2 ^ g) = [g] := by
  simp only [bitsBelow, Nat.testBit_two_pow, eq_comm (a := g), List.filter_eq,
    List.count_eq_one_of_mem List.nodup_range (List.mem_range.2 h), List.replicate_one]

end Sys2Proof.Machine
end

section
/-! PROOF. Register accesses of BAR0 (R7 to R10, R53) and the reads of the views (R225, R361, R463), row by row, and the release of
retained ranges (R418). -/

namespace Sys2Proof.Machine

open Sys2Proof

/-! ## Words of 32 bits -/

/-- A write of a narrow read/write word stores its defined bits. UNIT_VECTOR judges its values (R597), so it is left out. -/
theorem State.write32_rw {s : State} {fn a : Nat} {v : Word} {w : RegWord} (hw : s.wordFor fn a = some w) (hrw : w.row.access = .rw)
    (hwide : w.row.wide = false) (hname : w.row.name ≠ "UNIT_VECTOR") :
    s.write32 fn a v = s.setReg (storeAddress fn w a) (v &&& BitVec.ofNat 32 w.mask) := by
  simp [State.write32, hw, hrw, hwide, hname]

/-- The high word of a settings register takes no direct write: the write is discarded and recorded (Table 0-4, LK). -/
theorem State.write32_lk {s : State} {fn a : Nat} {v : Word} {w : RegWord} (hw : s.wordFor fn a = some w) (hhigh : w.high = true)
    (hlk : w.row.access = .lk) : s.write32 fn a v = s.logDiscard fn a := by
  simp [State.write32, hw, hhigh, hlk]

/-- In debug mode the high word of a debug register stores its defined bits. ACC_VIEW judges its values, so it is left out. -/
theorem State.write32_dbg {s : State} {fn a : Nat} {v : Word} {w : RegWord} (hw : s.wordFor fn a = some w) (hhigh : w.high = true)
    (hdbg : w.row.access = .dbg) (hdebug : s.sec.debug ≠ 0) (hname : w.row.name ≠ "ACC_VIEW") :
    s.write32 fn a v = s.setReg a (v &&& BitVec.ofNat 32 w.mask) := by
  simp [State.write32, hw, hhigh, hdbg, hdebug, hname]

/-! ## Words of 64 bits (R8) -/

/-- The state without the low word that a function has had held. -/
def State.dropLow (s : State) (fn a : Nat) : State := { s with heldLow := erase (holdKey fn a) s.heldLow }

@[simp] theorem State.dropLow_reg (s : State) (fn a b : Nat) : (s.dropLow fn b).reg a = s.reg a := rfl

theorem State.writeHigh_lk {s : State} {fn a : Nat} {v : Word} {w : RegWord} (hw : s.wordFor fn a = some w) (hhigh : w.high = true)
    (hlk : w.row.access = .lk) : s.writeHigh fn a w v = (s.dropLow fn (a - 4)).logDiscard fn a := by
  rw [← State.write32_lk (v := v) (s := s.dropLow fn (a - 4)) hw hhigh hlk]
  simp only [State.writeHigh, hlk]
  split <;> rfl

theorem State.writeHigh_dbg {s : State} {fn a : Nat} {v low : Word} {w : RegWord} (hw : s.wordFor fn a = some w) (hhigh : w.high = true)
    (hdbg : w.row.access = .dbg) (hdebug : s.sec.debug ≠ 0) (hname : w.row.name ≠ "ACC_VIEW")
    (hlow : lookup (holdKey fn (a - 4)) s.heldLow = some low) :
    s.writeHigh fn a w v = ((s.dropLow fn (a - 4)).setReg a (v &&& BitVec.ofNat 32 w.mask)).setReg (a - 4)
      (low &&& BitVec.ofNat 32 (w.row.defined w.index)) := by
  rw [← State.write32_dbg (s := s.dropLow fn (a - 4)) hw hhigh hdbg hdebug hname]
  simp [State.writeHigh, State.dropLow, hlow, hdbg, hdebug]

/-- A read of a wide register's low word answers it and holds the high word of that instant. -/
theorem State.read32_low {s : State} {fn a : Nat} {w : RegWord} (hw : s.wordFor fn a = some w) (hwide : w.row.wide = true)
    (hhigh : w.high = false) :
    s.read32 fn a = { s.emit (.readData (s.wordValue fn a)) with
      heldHigh := insert (holdKey fn a) (BitVec.ofNat 32 (s.wordValue fn (a + 4))) s.heldHigh } := by
  simp [State.read32, hw, hwide, hhigh]

/-! ## The rows -/

theorem registerWrite_stores {s : State} {fn addr : Nat} {v : Word} {w : RegWord} (hup : s.pcieUp = true) (hal : addr % 4 = 0)
    (hst : (fn = 0 && inStaging addr) = false) (hw : s.wordFor fn addr = some w) (hrw : w.row.access = .rw)
    (hown : ownRow w.row.name = false) (hwide : w.row.wide = false) (hhigh : w.high = false) (hname : w.row.name ≠ "UNIT_VECTOR") :
    Reaches (execRegisterWrite fn addr v s) fun t =>
      t.reg (storeAddress fn w addr) = v &&& BitVec.ofNat 32 w.mask ∧ ∀ a, a ≠ storeAddress fn w addr → t.reg a = s.reg a := by
  refine runsHost_reaches_of_acts (t := s.setReg (storeAddress fn w addr) (v &&& BitVec.ofNat 32 w.mask)) (ps := [.regs]) hup ?_
    (State.setReg_acts Acts.refl (by decide)) (by decide) ⟨State.reg_setReg_same .., fun a ha => State.reg_setReg_ne ha ..⟩
  rw [← State.write32_rw hw hrw hwide hname]
  simp [hal, hst, hw, hown, hhigh, hrw]

theorem w1cClear_clears {s : State} {fn addr : Nat} {v : Word} {w : RegWord} (hup : s.pcieUp = true) (hw : regWord addr = some w)
    (hw1c : w.row.access = .w1c) (hvis : s.visible fn addr = true) :
    Reaches (execW1cClear fn addr v s) fun t =>
      t.reg addr = BitVec.ofNat 32 (clearedBy (s.regNat addr) (v.toNat &&& w.mask)) ∧ ∀ a, a ≠ addr → t.reg a = s.reg a := by
  refine runsHost_reaches_of_acts (t := s.clearFlags addr (v.toNat &&& w.mask)) (ps := [.regs, .outbox]) hup ?_
    (State.clearFlags_acts Acts.refl (by decide)) (by decide) ⟨?_, fun a ha => ?_⟩
  · simp [hw, hw1c, hvis]
  · rw [State.clearFlags_reg, State.setNat, State.reg_setReg_same]
  · rw [State.clearFlags_reg, State.setNat, State.reg_setReg_ne ha]

theorem wideLowWordRead_latches {s : State} {fn addr : Nat} {w : RegWord} (hup : s.pcieUp = true) (hal : addr % 4 = 0)
    (hw : s.wordFor fn addr = some w) (hfree : s.isFree w.row = false) (hwide : w.row.wide = true) (hhigh : w.high = false) :
    Reaches (execWideLowWordRead fn addr s) fun t =>
      t.outbox = s.outbox ++ [Out.readData (s.wordValue fn addr)] ∧
        lookup (holdKey fn addr) t.heldHigh = some (BitVec.ofNat 32 (s.wordValue fn (addr + 4))) := by
  refine runsHost_reaches hup ?_
  simp [hal, hw, hfree, State.read32_low hw hwide hhigh, lookup_insert]

theorem wideHighWordWrite_lk {s : State} {fn addr : Nat} {v : Word} {w : RegWord} (hup : s.pcieUp = true) (hw : s.wordFor fn addr = some w)
    (hhigh : w.high = true) (hlk : w.row.access = .lk) :
    Reaches (execWideHighWordWrite fn addr v s) fun t =>
      t.heldLow = erase (holdKey fn (addr - 4)) s.heldLow ∧ t.regs = s.regs ∧ t.log.next = s.log.next + 1 := by
  refine runsHost_reaches_of_acts (t := s.writeHigh fn addr w v) (ps := [.regs, .log, .outbox]) hup (by simp [hw, hhigh])
    (State.writeHigh_acts Acts.refl (by decide)) (by decide) ?_
  rw [State.writeHigh_lk hw hhigh hlk]
  exact ⟨State.logEvent_heldLow .., State.logEvent_regs .., State.logEvent_log_next ..⟩

theorem wideHighWordWrite_dbg {s : State} {fn addr : Nat} {v low : Word} {w : RegWord} (hup : s.pcieUp = true)
    (hw : s.wordFor fn addr = some w) (hhigh : w.high = true) (hdbg : w.row.access = .dbg) (hname : w.row.name ≠ "ACC_VIEW") (haddr : 4 ≤ addr)
    (hdebug : s.sec.debug ≠ 0) (hlow : lookup (holdKey fn (addr - 4)) s.heldLow = some low) :
    Reaches (execWideHighWordWrite fn addr v s) fun t =>
      t.heldLow = erase (holdKey fn (addr - 4)) s.heldLow ∧ t.reg addr = v &&& BitVec.ofNat 32 w.mask ∧
        t.reg (addr - 4) = low &&& BitVec.ofNat 32 (w.row.defined w.index) ∧ ∀ a, a ≠ addr → a ≠ addr - 4 → t.reg a = s.reg a := by
  refine runsHost_reaches_of_acts (t := s.writeHigh fn addr w v) (ps := [.regs, .log, .outbox]) hup (by simp [hw, hhigh])
    (State.writeHigh_acts Acts.refl (by decide)) (by decide) ?_
  rw [State.writeHigh_dbg hw hhigh hdbg hdebug hname hlow]
  refine ⟨rfl, ?_, State.reg_setReg_same .., fun a ha hb => ?_⟩
  · rw [State.reg_setReg_ne (by omega), State.reg_setReg_same]
  · rw [State.reg_setReg_ne hb, State.reg_setReg_ne ha, State.dropLow_reg]

theorem unalignedBar0Access_records {s : State} {fn addr size : Nat} {write : Bool} (hup : s.pcieUp = true) (hmis : misaligned addr size = true) :
    Reaches (execUnalignedBar0Access fn addr size write s) fun t =>
      t.regs = s.regs ∧ t.log.next = s.log.next + 1 ∧ (write = false → t.outbox.getLast? = some (Out.readData 0)) := by
  refine runsHost_reaches hup ?_
  cases write <;> simp [hmis]

theorem collRelease_releases {s : State} {g : Nat} (hup : s.pcieUp = true) (hg : g < 8) :
    Reaches (execCollRelease (BitVec.ofNat 32 (2 ^ g)) s) fun t => (t.group g).retained = [] ∧ ∀ n, n ≠ g → t.group n = s.group n := by
  have hword : (BitVec.ofNat 32 (2 ^ g)).toNat = 2 ^ g := Nat.mod_eq_of_lt (Nat.pow_lt_pow_right (by decide) (by omega))
  have hone : s.collRelease (2 ^ g) = s.releaseRetained g none := by
    simp only [State.collRelease, bitsBelow_two_pow hg, List.foldl_cons, List.foldl_nil]
  refine runsHost_reaches_of_acts (t := s.collRelease (2 ^ g)) (ps := [.colls]) hup (by rw [hword])
    (State.collRelease_acts Acts.refl (by decide)) (by decide) ?_
  rw [hone]
  exact ⟨by rw [State.releaseRetained, State.updGroup_group_same], fun n hn => State.updGroup_group_ne hn ..⟩

theorem adapterViewRead_latches {s : State} (hup : s.pcieUp = true) :
    Reaches (execAdapterViewRead s) fun t =>
      t.adapterView = s.adapterRecord (field (s.regNat (blkKeeper + 0x1A00)) 9 0) ∧
        t.outbox = s.outbox ++ [Out.readData ((s.adapterRecord (field (s.regNat (blkKeeper + 0x1A00)) 9 0)).headD 0).toNat] :=
  runsHost_reaches hup ⟨rfl, rfl⟩

theorem manifestViewRead_latches {s : State} (hup : s.pcieUp = true) :
    Reaches (execManifestViewRead s) fun t =>
      t.manifestView = ((List.range 32).map fun i =>
        BitVec.ofNat 32 (fieldAt (s.entryBytes (field (s.regNat (blkManifest + 0x50)) 13 0)) (4 * i) 4)) ∧
        t.outbox = s.outbox ++ [Out.readData (fieldAt (s.entryBytes (field (s.regNat (blkManifest + 0x50)) 13 0)) 0 4)] :=
  runsHost_reaches hup ⟨rfl, rfl⟩

theorem accViewRead_answers {s : State} {off a : Nat} (hup : s.pcieUp = true) (hal : off % 4 = 0) (hview : s.accView off = some a)
    (hparity : s.parityIn a 4 = []) (hnote : s.noteRead 4 a 4 = s) :
    Reaches (execAccViewRead off s) fun t => t.outbox = s.outbox ++ [Out.readData (s.natAt a 4)] ∧ t.mem = s.mem := by
  refine runsHost_reaches hup ?_
  simp [hal, hview, hparity, hnote]

theorem accViewRead_closed {s : State} {off : Nat} (hup : s.pcieUp = true) (hal : off % 4 = 0) (hview : s.accView off = none) :
    Reaches (execAccViewRead off s) fun t => t.outbox = s.outbox ++ [Out.readData 0] := by
  refine runsHost_reaches hup ?_
  simp [hal, hview]

theorem accViewRead_unaligned {s : State} {off : Nat} (hup : s.pcieUp = true) (hal : off % 4 ≠ 0) :
    Reaches (execAccViewRead off s) fun t =>
      t.outbox.getLast? = some (Out.readData 0) ∧ t.log.next = s.log.next + 1 ∧ t.mem = s.mem := by
  refine runsHost_reaches hup ?_
  simp [hal]

/-- Settles O17: each row's own lemma, in the order of the clauses. -/
theorem registerAccessCompletes : Obligations.RegisterAccessCompletes :=
  ⟨fun _ _ _ _ _ => registerWrite_stores,
   fun _ _ _ _ _ => w1cClear_clears,
   fun _ _ _ _ => wideLowWordRead_latches,
   fun _ _ _ _ _ => wideHighWordWrite_lk,
   fun _ _ _ _ _ _ => wideHighWordWrite_dbg,
   fun _ _ _ _ _ => unalignedBar0Access_records,
   fun _ _ => collRelease_releases,
   fun _ => adapterViewRead_latches,
   fun _ => manifestViewRead_latches,
   fun _ _ _ => accViewRead_answers,
   fun _ _ => accViewRead_closed,
   fun _ _ => accViewRead_unaligned⟩

end Sys2Proof.Machine
end

section
/-! PROOF. What every command leaves alone (R17, R49, R113, R140), the variant and the serial number that no command changes (R17), and
the step of an empty queue (R35). -/

namespace Sys2Proof.Machine

open Sys2Proof

/-! ## The footprints -/

/-- A command that answers a next state acts within its footprint and keeps the invariant: the rows' own lemmas, in the order of the
constructors. THERMAL_TRIP and MGMT_UNSUPPORTED_COMMAND have an operand that their effect does not depend on, given here as any value. -/
theorem exec_acts {c : Instr} {s t : State} (e : exec c s = .next t) : Acts (footprint c) s t := by
  cases c
  exacts [
    execNop_acts e, execQueueCreate_acts e, execQueueDelete_acts e, execAbort_acts e, execGetLog_acts e, execServiceHold_acts e,
    execServiceResume_acts e, execReachRelease_acts e, execMarginPlan_acts e, execPowerState_acts e, execResetUnit_acts e,
    execQuiesce_acts e, execStage_acts e, execCheck_acts e, execCommit_acts e, execAbandon_acts e, execMatmul_acts e,
    execMatmulGrouped_acts e, execAttend_acts e, execVop_acts e, execSample_acts e, execUpdate_acts e, execMove_acts e,
    execInitFill_acts e, execNarrowGather_acts e, execNarrowScatter_acts e, execAtomic_acts e, execGather_acts e,
    execReduceScatter_acts e, execPermute_acts e, execSend_acts e, execRecv_acts e, execVote_acts e, execServeOpen_acts e,
    execServeClose_acts e, execAdmitSequence_acts e, execRollout_acts e, execSeqCancel_acts e, execWeightsLoad_acts e,
    execWeightsDrop_acts e, execAdapterLoad_acts e, execAdapterDrop_acts e, execScore_acts e, execTrainStep_acts e,
    execTrainClose_acts e, execCheckpoint_acts e, execCheckpointImport_acts e, execTurn_acts e, execPreempt_acts e,
    execLifecycleSet_acts e, execDebugToken_acts e, execLocketWipe_acts e, execReplay_acts e, execLogbookCtrl_acts e,
    execSelfTest_acts e, execPacketFetch_acts e, execFencedCommandStart_acts e, execCommandCompletion_acts e, execCommandTimeout_acts e,
    execQueueFence_acts e, execSqTailWrite_acts e, execCqHeadWrite_acts e, execQueueReset_acts e, execHello_acts e,
    execStagingWindowWrite_acts e, execChamberStatusRead_acts e, execW1cClear_acts e, execWideLowWordRead_acts e,
    execWideHighWordWrite_acts e, execUnalignedBar0Access_acts e, execRegisterWrite_acts e, execAssayClear_acts e,
    execHistAdvance_acts e, execHistReset_acts e, execLocateCtrlWrite_acts e, execCollRelease_acts e, execPortRetrain_acts e,
    execPortUnfence_acts e, execPortHold_acts e, execPortRelease_acts e, execResetCtrlCold_acts e, execResetCtrlWarm_acts e,
    execAdapterViewRead_acts e, execManifestViewRead_acts e, execAccViewRead_acts e, execBar2Read_acts e, execBar2Write_acts e,
    execBar2Atomicop_acts e, execPerstNAssert_acts e, execPerstNRelease_acts e, execPcieHotReset_acts e, execFlrPf0_acts e,
    execFlrVf_acts e, execColdReset_acts e, execWarmReset_acts e, execPerFunctionReset_acts e, execKeeperComplexReset_acts e,
    execKeeperFirmwareFault_acts e, execKeeperBankParity_acts e, execIdeKm_acts e, execDoeDiscovery_acts e, execPwrEnRise_acts e,
    execPwrEnFall_acts e, execPowerFail_acts e, execInputAbove42v_acts e, execInputLowBand_acts e, execInputHighBand_acts e,
    execInputOvervoltage_acts e, execRailOutOfRegulation_acts e, execPowerUpToIdle_acts e, execIdleToActive_acts e,
    execIdleDelayExpiry_acts e, execPowerStateEntry_acts e, execDieGate_acts e, execDieUngate_acts e, execInletWarning_acts e,
    execThermalLimit_acts e, execThermalHardBreach_acts e, execThermalResume_acts e, execThermalTrip_acts (a0 := true) e,
    execOscillatorLost_acts e,
    execGovernorSample_acts e, execPaceWindow_acts e, execBeat_acts e, execBeatWatchdog_acts e, execPaveFault_acts e,
    execEngineFault_acts e, execResidueFence_acts e, execBankOwnerFence_acts e, execBankClear_acts e, execOperatingHourTick_acts e,
    execMarginPlanDone_acts e, execCoinCellMeasure_acts e, execLocatePress_acts e, execServicePress_acts e, execServiceLong_acts e,
    execCellService_acts e, execServiceRequestLapse_acts e, execCellInserted_acts e, execCellServiceTimeout_acts e, execPadTouch_acts e,
    execReachInsert_acts e, execReachRemove_acts e, execFibreChange_acts e, execLidOpen_acts e, execLidClose_acts e,
    execLidOpenUnpowered_acts e, execLocketParityError_acts e, execSetEndpointId_acts e, execGetEndpointId_acts e,
    execGetEndpointUuid_acts e, execGetMctpVersionSupport_acts e, execGetMessageTypeSupport_acts e, execGetTid_acts e,
    execGetPldmVersion_acts e, execGetPldmTypes_acts e, execGetPldmCommands_acts e, execGetPdr_acts e, execGetPdrRepositoryInfo_acts e,
    execGetSensorReading_acts e, execGetStateSensorReadings_acts e, execSetNumericEffecterValue_acts e,
    execGetNumericEffecterValue_acts e, execSetStateEffecterStates_acts e, execSetEventReceiver_acts e,
    execQueryDeviceIdentifiers_acts e, execGetFirmwareParameters_acts e, execRequestUpdate_acts e, execPassComponentTable_acts e,
    execUpdateComponent_acts e, execRequestFirmwareData_acts e, execVerifyComplete_acts e, execActivateFirmware_acts e,
    execGetStatus_acts e, execCancelUpdateComponent_acts e, execCancelUpdate_acts e, execMgmtUnsupportedCommand_acts (a2 := 0) e,
    execGetVersion_acts e, execGetCapabilities_acts e, execNegotiateAlgorithms_acts e, execGetDigests_acts e, execGetCertificate_acts e,
    execChallenge_acts e, execGetMeasurements_acts e, execKeyExchange_acts e, execFinish_acts e, execHeartbeat_acts e,
    execKeyUpdate_acts e, execEndSession_acts e, execSpdmFence_acts e, execSpdmFenceExpiry_acts e, execBringUpStart_acts e,
    execLaneJudgeDone_acts e, execWidthFlit_acts e, execIdentFlit_acts e, execCreditInitFlit_acts e, execRetrainFlit_acts e,
    execIdleFlit_acts e, execDataFlit_acts e, execFlitCrcFailure_acts e, execNakRepeat_acts e, execNakLimit_acts e, execAckStall_acts e,
    execRetrainDone_acts e, execLaneFail_acts e, execIdentTimeout_acts e, execBringUpRetry_acts e, execLinkSilence_acts e,
    execLaserFeedReading_acts e, execPortFence_acts e, execVcRepartition_acts e, execMessageDelivered_acts e,
    execLinkNoticeRestarted_acts e, execPathBroken_acts e, execChainMessage_acts e, execGatherPiece_acts e, execVoteRecord_acts e,
    execPipelineMessage_acts e, execPermutePiece_acts e, execAbortNotice_acts e, execCollDeadline_acts e, execPeerSetRequest_acts e,
    execTurnPiece_acts e, execInterfaceParityRetry_acts e, execInterfaceRetrain_acts e, execCorrectedWriteBack_acts e,
    execBucketLeak_acts e, execBucketOverflow_acts e, execBasinCrcMismatch_acts e, execSluiceEvict_acts e, execBasinSegmentChange_acts e,
    execWeirWindow_acts e, execRepairOpen_acts e, execRepairSourceData_acts e, execRepairDeadline_acts e, execBudgetRefill_acts e,
    execServeStepComplete_acts e, execStepBuild_acts e, execTrainStepStart_acts e, execPoundEntry_acts e, execPassEnd_acts e,
    execMicroRerunDelay_acts e, execStepFiniteResult_acts e, execStepDecision_acts e, execAttemptRetry_acts e,
    execFinalBlockUpdate_acts e, execShadowHeaderWrite_acts e, execCheckpointExportDone_acts e, execLoadActivation_acts e,
    execSetReleaseCommit_acts e, execAdapterReleaseCommit_acts e, execCommitInstant_acts e, execSettleEnd_acts e,
    execDrainDeadline_acts e, execTransferEnd_acts e, execTurnFinalCommit_acts e, execXferTimeout_acts e, execScoreStep_acts e,
    execLifecycleResetDelay_acts e, execDebugExpiry_acts e, execAuthLockout_acts e, execLockoutExpiry_acts e,
    execLogbookBufferFlush_acts e, execInterfaceRetrainDone_acts e, execEventMessageCollected_acts e]

/-- Settles O6: every row acts within its footprint. -/
theorem frameOfEveryCommand : Obligations.FrameOfEveryCommand := fun _ _ _ e => (exec_acts e).1

/-! ## The variant -/

/-- No command changes the variant or the serial number: the rows with the spine in their footprint put both back (`runsSpine`), and the
others leave the spine alone. -/
theorem exec_identity {c : Instr} {s t : State} (e : exec c s = .next t) :
    t.spine.variant = s.spine.variant ∧ t.spine.serial = s.spine.serial := by
  cases c with
  | resetUnit | replay | resetCtrlCold | resetCtrlWarm | perstNAssert | pcieHotReset | flrPf0 | flrVf | coldReset | warmReset
  | perFunctionReset | keeperComplexReset | keeperFirmwareFault | keeperBankParity | pwrEnRise | pwrEnFall | powerFail | inputAbove42v
  | inputOvervoltage | powerUpToIdle | powerStateEntry | thermalTrip | loadActivation | setReleaseCommit | adapterReleaseCommit
  | commitInstant | turnFinalCommit | lifecycleResetDelay =>
    cases e
    exact ⟨rfl, rfl⟩
  | _ =>
    have hspine : t.spine = s.spine := (exec_acts e).1 .spine (by dsimp only [footprint]; decide)
    exact ⟨congrArg Spine.variant hspine, congrArg Spine.serial hspine⟩

/-- IDENTITY's low four bits tell the variant: FUNCTION and ARCH_MAJOR stand above them. -/
theorem State.hostView_identity {s : State} {fn i v : Nat} (e : s.hostView fn "IDENTITY" i = some v) :
    v % 16 = match s.spine.variant with | .l => 1 | .s => 2 := by
  cases e
  cases s.spine.variant <;> by_cases hfn : fn = 0 <;> simp [at1, bit, hfn]

/-- Settles O7: no command changes the identity, and IDENTITY reads the variant. -/
theorem variantIsFixed : Obligations.VariantIsFixed := ⟨fun _ _ _ => exec_identity, fun _ _ _ _ => State.hostView_identity⟩

/-! ## The empty queue -/

/-- Settles O2: without a waiting command a step is `idle`. -/
theorem emptyQueueIdles : Obligations.EmptyQueueIdles := by
  intro s hempty
  simp only [step, hempty, idle]

end Sys2Proof.Machine
end

section
/-! SUPPORT. What the shared operations leave alone, read off Laws/Acts*.lean once, and the registers that raising a flag leaves alone. -/

namespace Sys2Proof.Machine

open Sys2Proof

/-! ## Reading off an arm -/

/-- What holds of an effect that leaves the spine, the operation under way and the queue of commands alone holds of the arm. -/
theorem runs_reaches_of_acts {ps : List Part} {f : State → State} {s : State} {P : State → Prop} (ha : Acts ps s (f s))
    (hps : .spine ∉ ps ∧ .acting ∉ ps ∧ .pending ∉ ps) (h : P (f s)) : Reaches (runs f s) P := by
  obtain ⟨hspine, hacting, hpending⟩ := hps
  have espine : (f s).spine = s.spine := ha.1 .spine hspine
  have eacting : (f s).acting = s.acting := ha.1 .acting hacting
  have epending : (f s).pending = s.pending := ha.1 .pending hpending
  refine runs_reaches ?_
  rw [← espine, ← eacting, ← epending]
  exact h

/-! ## Parts that an operation leaves alone -/

@[simp] theorem State.at_power (s : State) (now : Nat) : (s.at now).power = s.power :=
  (State.at_acts (ps := [.clock]) .refl (by decide)).1 .power (by decide)

@[simp] theorem State.at_powered (s : State) (now : Nat) : (s.at now).powered = s.powered := by
  simp only [State.powered, State.at_power]

@[simp] theorem State.logEvent_power (s : State) (g : LogArg) : (s.logEvent g).power = s.power :=
  (State.logEvent_acts (ps := [.log, .outbox]) .refl (by decide)).1 .power (by decide)

@[simp] theorem State.logEvent_mgmt (s : State) (g : LogArg) : (s.logEvent g).mgmt = s.mgmt :=
  (State.logEvent_acts (ps := [.log, .outbox]) .refl (by decide)).1 .mgmt (by decide)

@[simp] theorem State.at_gov (s : State) (now : Nat) : (s.at now).gov = s.gov :=
  (State.at_acts (ps := [.clock]) .refl (by decide)).1 .gov (by decide)

@[simp] theorem State.at_sampling (s : State) (now : Nat) : (s.at now).sampling = s.sampling := by
  simp only [State.sampling, State.at_power]

@[simp] theorem State.logEvent_gov (s : State) (g : LogArg) : (s.logEvent g).gov = s.gov :=
  (State.logEvent_acts (ps := [.log, .outbox]) .refl (by decide)).1 .gov (by decide)

@[simp] theorem State.logEvent_spine (s : State) (g : LogArg) : (s.logEvent g).spine = s.spine :=
  (State.logEvent_acts (ps := [.log, .outbox]) .refl (by decide)).1 .spine (by decide)

theorem State.logEvent_reg (s : State) (g : LogArg) (b : Nat) : (s.logEvent g).reg b = s.reg b := by
  simp only [State.reg, State.logEvent_regs, State.logEvent_spine]

@[simp] theorem State.raise_gov (s : State) (a n : Nat) : (s.raise a n).gov = s.gov :=
  (State.raise_acts (ps := [.regs, .outbox]) .refl (by decide)).1 .gov (by decide)

@[simp] theorem State.raise_mgmt (s : State) (a n : Nat) : (s.raise a n).mgmt = s.mgmt :=
  (State.raise_acts (ps := [.regs, .outbox]) .refl (by decide)).1 .mgmt (by decide)

theorem State.thermalPause_mgmt (s : State) (on : Bool) : (s.thermalPause on).mgmt = s.mgmt :=
  (State.thermalPause_acts (ps := [.gov, .regs, .log, .outbox]) .refl (by decide)).1 .mgmt (by decide)

theorem State.samplePower_mgmt (s : State) (w : Nat) : (s.samplePower w).mgmt = s.mgmt :=
  (State.samplePower_acts (ps := [.gov, .regs, .log, .outbox]) .refl (by decide)).1 .mgmt (by decide)

/-! ## Registers -/

@[simp] theorem State.regNat_setNat_same (s : State) (a v : Nat) : (s.setNat a v).regNat a = v % 2 ^ 32 := by
  simp only [State.regNat, State.setNat, State.reg_setReg_same, BitVec.toNat_ofNat]

theorem State.reg_setNat_ne {a b : Nat} (h : b ≠ a) (s : State) (v : Nat) : (s.setNat a v).reg b = s.reg b := State.reg_setReg_ne h ..

/-- A flag of an event register and its occurrence counter are all that raising it stores. -/
theorem State.raise_reg_ne {a n b : Nat} (hflag : b ≠ a) (hcount : b ≠ counterWord a n) (s : State) : (s.raise a n).reg b = s.reg b := by
  have hset : ((s.setNat a (putBit (s.regNat a) n true)).bump a n).reg b = s.reg b := by
    rw [State.bump, State.reg_setNat_ne hcount, State.reg_setNat_ne hflag]
  simp only [State.raise]
  split
  · rw [State.interruptOf_reg, hset]
  · exact hset

end Sys2Proof.Machine
end

section
/-! PROOF. The power inputs (R20, R21, R29): into OFF, out of it, the bands of the input voltage, and a rail out of regulation. -/

namespace Sys2Proof.Machine

open Sys2Proof

/-! ## Into OFF -/

/-- A device that enters OFF has lost its queues, its commands and what its locket held. -/
theorem State.enterOff_loses (s : State) (cause : OffCause) :
    (s.enterOff cause).power.state = .off ∧ (s.enterOff cause).power.offCause = cause ∧ (s.enterOff cause).queues = [] ∧
      (s.enterOff cause).inflight = [] ∧ (s.enterOff cause).sec.locket = Locket.reset :=
  ⟨rfl, rfl, rfl, rfl, rfl⟩

@[simp] theorem State.enterOff_keepsake (s : State) (cause : OffCause) : (s.enterOff cause).keepsake = s.keepsake := rfl

/-- A power-fail of a device that has power takes it into OFF by the input, once the record is written and the locket wiped. -/
theorem State.powerFail_off {s : State} (hpow : s.powered = true) :
    s.powerFail = ((s.keepsakeEvent 1 true).clearLocket 7).enterOff .input := by
  simp only [State.powerFail, hpow, if_true]

theorem pwrEnFall_enters_off {s : State} {now : Nat} (hpow : s.powered = true) :
    Reaches (execPwrEnFall now s) fun t => t.power.state = .off ∧ t.power.pwrEn = false ∧ t.power.offCause = .input ∧ t.queues = [] ∧
      t.inflight = [] ∧ t.sec.locket = Locket.reset := by
  have hfail := State.powerFail_off ((s.at_powered now).trans hpow)
  obtain ⟨hstate, hcause, hqueues, hinflight, hlocket⟩ := State.enterOff_loses (((s.at now).keepsakeEvent 1 true).clearLocket 7) .input
  rw [← hfail] at hstate hcause hqueues hinflight hlocket
  exact runsSpine_reaches ⟨hstate, rfl, hcause, hqueues, hinflight, hlocket⟩

theorem powerFail_enters_off {s : State} (hpow : s.powered = true) :
    Reaches (execPowerFail s) fun t => t.power.state = .off ∧ t.power.inputGood = false ∧ t.power.offCause = .input ∧ t.queues = [] ∧
      t.inflight = [] ∧ t.sec.locket = Locket.reset := by
  have hfail := State.powerFail_off hpow
  obtain ⟨hstate, -, hqueues, hinflight, hlocket⟩ := State.enterOff_loses ((s.keepsakeEvent 1 true).clearLocket 7) .input
  rw [← hfail] at hstate hqueues hinflight hlocket
  exact runsSpine_reaches ⟨hstate, rfl, rfl, hqueues, hinflight, hlocket⟩

theorem inputOvervoltage_latches_off {s : State} (hpow : s.powered = true) :
    Reaches (execInputOvervoltage s) fun t => t.power.state = .off ∧ t.power.offCause = .latched ∧ t.queues = [] ∧ t.inflight = [] ∧
      t.keepsake = (s.keepsakeEvent 2 true).keepsake := by
  refine runsSpine_reaches ?_
  simp only [hpow, if_true]
  obtain ⟨hstate, hcause, hqueues, hinflight, -⟩ := (s.keepsakeEvent 2 true).enterOff_loses .latched
  exact ⟨hstate, hcause, hqueues, hinflight, State.enterOff_keepsake ..⟩

/-! ## Out of OFF -/

/-- A device that leaves OFF raises PWRGD and its cold boot is due, in epoch 1. The contacts stand as they did. -/
theorem State.leaveOff_boots {s : State} (hboot : s.power.booting = .none) :
    s.leaveOff.power.pwrgd = true ∧ s.leaveOff.power.booting = .full ∧ s.leaveOff.power.pwrEn = s.power.pwrEn ∧
      s.leaveOff.power.inputGood = s.power.inputGood ∧ s.leaveOff.spine.epoch = 1 := by
  simp only [State.leaveOff, State.startCold, hboot]
  exact ⟨rfl, rfl, rfl, rfl, rfl⟩

/-- An OFF device that is not on its way out has no power. -/
theorem State.powered_off {s : State} (hoff : s.power.state = .off) (hboot : s.power.booting = .none) : s.powered = false := by
  simp only [State.powered, hoff, hboot]
  rfl

theorem pwrEnRise_leaves_off {s : State} {now : Nat} (hlow : s.power.pwrEn = false) (hoff : s.power.state = .off)
    (hboot : s.power.booting = .none) (hgood : s.power.inputGood = true) (hcause : s.power.offCause = .input) :
    Reaches (execPwrEnRise now s) fun t =>
      t.power.pwrEn = true ∧ t.power.pwrgd = true ∧ t.power.booting = .full ∧ t.spine.epoch = 1 := by
  have hrise : (s.at now).pwrEnRise =
      ({ s.at now with power := { s.power with pwrEn := true, pwrEnLowSince := none } } : State).leaveOff := by
    simp [State.pwrEnRise, State.powered_off hoff hboot, hlow, hgood, hcause]
  obtain ⟨hpwrgd, hfull, hpwrEn, -, hepoch⟩ := State.leaveOff_boots
    (s := { s.at now with power := { s.power with pwrEn := true, pwrEnLowSince := none } }) hboot
  rw [← hrise] at hpwrgd hfull hpwrEn hepoch
  exact runsSpine_reaches ⟨hpwrEn, hpwrgd, hfull, hepoch⟩

theorem pwrEnRise_already_high {s : State} {now : Nat} (hhigh : s.power.pwrEn = true) :
    Reaches (execPwrEnRise now s) fun t => t.power = { s.power with pwrEnLowSince := none } := by
  refine runsSpine_reaches ?_
  simp [State.pwrEnRise, hhigh]

theorem inputAbove42v_leaves_off {s : State} (hoff : s.power.state = .off) (hboot : s.power.booting = .none)
    (hpwrEn : s.power.pwrEn = true) (hcause : s.power.offCause = .input) (hbad : s.power.inputGood = false) :
    Reaches (execInputAbove42v s) fun t => t.power.inputGood = true ∧ t.power.pwrgd = true ∧ t.power.booting = .full := by
  have hstart : (!s.powered && s.power.pwrEn && s.power.offCause == .input && !s.power.inputGood) = true := by
    simp [State.powered_off hoff hboot, hpwrEn, hcause, hbad]
  obtain ⟨hpwrgd, hfull, -, hgood, -⟩ := State.leaveOff_boots (s := { s with power := { s.power with inputGood := true } }) hboot
  refine runsSpine_reaches ?_
  simp only [hstart, if_true]
  exact ⟨hgood, hpwrgd, hfull⟩

theorem inputAbove42v_powered {s : State} (hpow : s.powered = true) :
    Reaches (execInputAbove42v s) fun t => t.power = { s.power with inputGood := true } := by
  refine runsSpine_reaches ?_
  simp [hpow]

/-! ## The input's bands -/

theorem inputLowBand_notes {s : State} {dv : Nat} (hpow : s.powered = true) (hlow : 380 ≤ dv) (hhigh : dv < 400) :
    Reaches (execInputLowBand dv s) fun t => t.power = { s.power with inputLow := some dv, inputHigh := false } ∧ t.mgmt.inputDv = dv ∧
      (s.power.inputLow = none → t.log.next = s.log.next + 1) := by
  refine runs_reaches ?_
  cases s.power.inputLow <;> simp [hpow, hlow, hhigh, State.noteBand]

theorem inputHighBand_notes {s : State} {dv : Nat} (hpow : s.powered = true) (hlow : 600 < dv) (hhigh : dv ≤ 620) :
    Reaches (execInputHighBand dv s) fun t => t.power = { s.power with inputHigh := true, inputLow := none } ∧ t.mgmt.inputDv = dv ∧
      (s.power.inputHigh = false → t.log.next = s.log.next + 1) := by
  refine runs_reaches ?_
  cases s.power.inputHigh <;> simp [hpow, hlow, hhigh, State.noteBand]

theorem railOutOfRegulation_drops_pwrgd {s : State} : Reaches (execRailOutOfRegulation s) fun t => t.power = { s.power with pwrgd := false } :=
  runs_reaches rfl

/-- Settles O52: each input's own lemma, in the order of the clauses. -/
theorem powerInputsAct : Obligations.PowerInputsAct :=
  ⟨fun _ _ => pwrEnRise_leaves_off,
   fun _ _ => pwrEnRise_already_high,
   fun _ _ => pwrEnFall_enters_off,
   fun _ => powerFail_enters_off,
   fun _ => inputAbove42v_leaves_off,
   fun _ => inputAbove42v_powered,
   fun _ _ => inputLowBand_notes,
   fun _ _ => inputHighBand_notes,
   fun _ => inputOvervoltage_latches_off,
   fun _ => railOutOfRegulation_drops_pwrgd⟩

end Sys2Proof.Machine
end

section
/-! PROOF. Temperature (R26), the governor's samples (R66) and the pace windows (R42). -/

namespace Sys2Proof.Machine

open Sys2Proof

/-! ## Samples -/

/-- The address of POWER_AVG. -/
def powerAvgReg : Nat := blkPower + 0x20

/-- t holds the power samples that s holds, and POWER_AVG shows in t what it shows in s. -/
structure SameSamples (s t : State) : Prop where
  samples : t.gov.samples = s.gov.samples
  lastSample : t.gov.lastSample = s.gov.lastSample
  sampledAt : t.gov.sampledAt = s.gov.sampledAt
  powerAvg : t.reg powerAvgReg = s.reg powerAvgReg

theorem SameSamples.refl (s : State) : SameSamples s s := ⟨rfl, rfl, rfl, rfl⟩

theorem SameSamples.ite {s t u : State} {c : Prop} [Decidable c] (h : SameSamples s t) (k : SameSamples s u) :
    SameSamples s (if c then t else u) := by
  split <;> assumption

/-- Another governor that holds the samples of a state u that holds those of s. -/
theorem SameSamples.set_gov {s t u : State} {g : Governor} (h : SameSamples s t) (k : SameSamples s u)
    (hsamples : g.samples = u.gov.samples := by rfl) (hlast : g.lastSample = u.gov.lastSample := by rfl)
    (hat : g.sampledAt = u.gov.sampledAt := by rfl) : SameSamples s { t with gov := g } :=
  ⟨hsamples.trans k.samples, hlast.trans k.lastSample, hat.trans k.sampledAt, h.powerAvg⟩

theorem SameSamples.set_mgmt {s t : State} {m : Mgmt} (h : SameSamples s t) : SameSamples s { t with mgmt := m } :=
  ⟨h.samples, h.lastSample, h.sampledAt, h.powerAvg⟩

theorem SameSamples.draw {s t : State} (h : SameSamples s t) : SameSamples s t.draw.2 :=
  ⟨h.samples, h.lastSample, h.sampledAt, h.powerAvg⟩

theorem SameSamples.logEvent {s t : State} {g : LogArg} (h : SameSamples s t) : SameSamples s (t.logEvent g) :=
  ⟨by simpa using h.samples, by simpa using h.lastSample, by simpa using h.sampledAt, (State.logEvent_reg ..).trans h.powerAvg⟩

/-- Flags of GOV_EVENTS and their counters lie elsewhere than POWER_AVG. -/
theorem SameSamples.raise {s t : State} {n : Nat} (h : SameSamples s t) : SameSamples s (t.raise evGov n) := by
  have hcount : powerAvgReg ≠ counterWord evGov n := by
    have hdoor : inDoorbells evGov = false := by decide
    have hlt : powerAvgReg < evGov + 0x8000 := by decide
    simp only [counterWord, hdoor, Bool.false_eq_true, if_false]
    omega
  exact ⟨by simpa using h.samples, by simpa using h.lastSample, by simpa using h.sampledAt,
    (State.raise_reg_ne (by decide) hcount t).trans h.powerAvg⟩

/-- The state once a sample is taken and POWER_AVG shows it. -/
def State.sampled (s : State) (w : Nat) : State :=
  let t := { s with gov := { s.gov with
    samples := (w :: s.gov.samples).take 1000, excess := (decide (s.powerCap < w) :: s.gov.excess).take 1000, lastSample := w,
    sampledAt := s.now } }
  t.setNat powerAvgReg (min w 4095 * 2 ^ 16 + min t.powerAverage 4095)

/-- What follows a sample (R67, R68) leaves the sample as it was taken. -/
theorem State.samplePower_sampled (s : State) (w : Nat) : SameSamples (s.sampled w) (s.samplePower w) := by
  unfold State.samplePower
  extract_lets cap g taken shown beyond flagged gov0 t0 above far soft hard note noted1 gov1 t1 noted2 gov2 t2 calm gov3 t3 setpoint gov4
  have hnote {t : State} {flag : Nat} (h : SameSamples (s.sampled w) t) : SameSamples (s.sampled w) (note t flag) := h.raise.logEvent
  have hshown : SameSamples (s.sampled w) shown := .refl _
  have h0 : SameSamples (s.sampled w) t0 := (hshown.raise.ite hshown).set_gov hshown
  have h1 : SameSamples (s.sampled w) t1 := .ite ((hnote h0).set_gov h0) (h0.set_gov h0)
  have h2 : SameSamples (s.sampled w) t2 := .ite ((hnote h1).set_gov h1) h1
  have h3 : SameSamples (s.sampled w) t3 := .ite h2 (.ite (h2.set_gov h2) (h2.set_gov h2))
  exact .ite h3 (.ite (h3.set_gov h3) (.ite (h3.set_gov h3) h3))

/-- POWER_AVG after a sample: the sample and the mean of those held, each cut off at 4,095 W. -/
theorem State.sampled_powerAvg (s : State) (w : Nat) :
    ((s.sampled w).reg powerAvgReg).toNat = min w 4095 * 2 ^ 16 +
      min (((w :: s.gov.samples).take 1000).sum / ((w :: s.gov.samples).take 1000).length) 4095 := by
  change (s.sampled w).regNat powerAvgReg = _
  rw [State.sampled, State.regNat_setNat_same, Nat.mod_eq_of_lt (by omega)]
  rfl

/-! ## Temperature -/

@[simp] theorem State.noteInlet_mgmt (s : State) (dc : Nat) : (s.noteInlet dc).mgmt = { s.mgmt with inletDc := dc } := by
  simp only [State.noteInlet]
  split
  · exact State.logEvent_mgmt ..
  · rfl

@[simp] theorem State.noteInlet_gov (s : State) (dc : Nat) : (s.noteInlet dc).gov = s.gov :=
  (State.noteInlet_acts (ps := [.mgmt, .log, .outbox]) .refl (by decide)).1 .gov (by decide)

/-- An inlet above 42 °C is recorded where the reading before it was not. -/
theorem State.noteInlet_log_next {s : State} {dc : Nat} (hwarm : 420 < dc) :
    (s.noteInlet dc).log.next = s.log.next + (if s.mgmt.inletDc ≤ 420 then 1 else 0) := by
  by_cases hwas : s.mgmt.inletDc ≤ 420 <;> simp [State.noteInlet, hwarm, hwas]

theorem inletWarning_warns {s : State} {dc : Nat} (hsam : s.sampling = true) (hwarm : 420 < dc) :
    Reaches (execInletWarning dc s) fun t => t.mgmt = { s.mgmt with inletDc := dc } ∧ t.gov = s.gov ∧ t.power = s.power ∧
      t.log.next = s.log.next + (if s.mgmt.inletDc ≤ 420 then 1 else 0) := by
  have hpower : (s.noteInlet dc).power = s.power :=
    (State.noteInlet_acts (ps := [.mgmt, .log, .outbox]) .refl (by decide)).1 .power (by decide)
  refine runs_reaches ?_
  simp only [hsam, hwarm, decide_true, Bool.and_self, if_true]
  exact ⟨State.noteInlet_mgmt .., State.noteInlet_gov .., hpower, State.noteInlet_log_next hwarm⟩

/-- After a pause begins or ends, the pavés pause just where it says; the ceilings are those of before. -/
theorem State.thermalPause_gov (s : State) (on : Bool) :
    (s.thermalPause on).gov.pausedThermal = on ∧ (s.thermalPause on).gov.thermalCeiling = s.gov.thermalCeiling ∧
      (s.thermalPause on).gov.planCeiling = s.gov.planCeiling := by
  by_cases hon : on = s.gov.pausedThermal
  · simp [State.thermalPause, hon]
  · cases on <;> simp_all [State.thermalPause]

/-- The first half of what a junction reading does (R26): the reading is known, and the pavés pause from 105 °C on and resume below 100 °C. -/
def State.junctionRead (s : State) (dc : Nat) : State :=
  let t := { s with mgmt := { s.mgmt with junctionDc := dc } }
  if 1050 ≤ dc then t.thermalPause true else if dc < 1000 then t.thermalPause false else t

theorem State.junctionRead_mgmt (s : State) (dc : Nat) : (s.junctionRead dc).mgmt = { s.mgmt with junctionDc := dc } := by
  simp only [State.junctionRead]
  split
  · exact State.thermalPause_mgmt ..
  split
  · exact State.thermalPause_mgmt ..
  · rfl

theorem State.junctionRead_ceilings (s : State) (dc : Nat) :
    (s.junctionRead dc).gov.thermalCeiling = s.gov.thermalCeiling ∧ (s.junctionRead dc).gov.planCeiling = s.gov.planCeiling := by
  simp only [State.junctionRead]
  split
  · exact (State.thermalPause_gov ..).2
  split
  · exact (State.thermalPause_gov ..).2
  · exact ⟨rfl, rfl⟩

/-- The second half: the ceiling of R26 is lifted below 95 °C, and falls to a free value from there on. -/
def State.ceilingRead (s : State) (dc : Nat) : State :=
  if dc < 950 then { s with gov := { s.gov with thermalCeiling := none } }
  else
    let t := { s.draw.2 with gov := { s.gov with
      thermalCeiling := some (Config.freeWord s.draws 0 % max 1 (s.gov.thermalCeiling.getD s.gov.planCeiling)) } }
    if s.gov.thermalCeiling.isNone then (t.raise evGov 1).logEvent { cause := 0x0102, cls := 1, unit := 0x73 } else t

theorem State.noteJunction_eq (s : State) (dc : Nat) : s.noteJunction dc = (s.junctionRead dc).ceilingRead dc := rfl

theorem State.ceilingRead_mgmt (s : State) (dc : Nat) : (s.ceilingRead dc).mgmt = s.mgmt := by
  by_cases hcool : dc < 950 <;> cases hceil : s.gov.thermalCeiling <;> simp [State.ceilingRead, hcool, hceil, State.draw]

/-- The ceiling is all that the second half changes of the governor; at 95 °C and more it is lower than the one in force. -/
theorem State.ceilingRead_gov (s : State) (dc : Nat) :
    ∃ ceiling, (s.ceilingRead dc).gov = { s.gov with thermalCeiling := ceiling } ∧
      (950 ≤ dc → ∃ c, ceiling = some c ∧ c < max 1 (s.gov.thermalCeiling.getD s.gov.planCeiling)) := by
  rcases lt_or_ge dc 950 with hcool | hhot
  · refine ⟨none, ?_, by omega⟩
    simp [State.ceilingRead, hcool]
  · refine ⟨some (Config.freeWord s.draws 0 % max 1 (s.gov.thermalCeiling.getD s.gov.planCeiling)), ?_,
      fun _ => ⟨_, rfl, Nat.mod_lt _ (by omega)⟩⟩
    cases hceil : s.gov.thermalCeiling <;> simp [State.ceilingRead, Nat.not_lt.2 hhot, hceil]

@[simp] theorem State.noteJunction_mgmt (s : State) (dc : Nat) : (s.noteJunction dc).mgmt = { s.mgmt with junctionDc := dc } := by
  rw [State.noteJunction_eq, State.ceilingRead_mgmt, State.junctionRead_mgmt]

/-- From 95 °C on the ceiling falls. -/
theorem State.noteJunction_ceiling {s : State} {dc : Nat} (hhot : 950 ≤ dc) :
    ∃ c, (s.noteJunction dc).gov.thermalCeiling = some c ∧ c < max 1 (s.gov.thermalCeiling.getD s.gov.planCeiling) := by
  obtain ⟨ceiling, hgov, hfall⟩ := (s.junctionRead dc).ceilingRead_gov dc
  obtain ⟨c, hc, hlt⟩ := hfall hhot
  obtain ⟨hceil, hplan⟩ := s.junctionRead_ceilings dc
  rw [hceil, hplan] at hlt
  exact ⟨c, by rw [State.noteJunction_eq, hgov, hc], hlt⟩

theorem State.noteJunction_paused (s : State) (dc : Nat) :
    (s.noteJunction dc).gov.pausedThermal = (s.junctionRead dc).gov.pausedThermal := by
  obtain ⟨_, hgov, -⟩ := (s.junctionRead dc).ceilingRead_gov dc
  rw [State.noteJunction_eq, hgov]

theorem thermalLimit_lowers_ceiling {s : State} {dc : Nat} (hsam : s.sampling = true) (hhot : 950 ≤ dc) :
    Reaches (execThermalLimit dc s) fun t => t.mgmt.junctionDc = dc ∧
      ∃ c, t.gov.thermalCeiling = some c ∧ c < max 1 (s.gov.thermalCeiling.getD s.gov.planCeiling) := by
  refine runs_reaches ?_
  simp only [hsam, hhot, decide_true, Bool.and_self, if_true, State.noteJunction_mgmt, true_and]
  exact State.noteJunction_ceiling hhot

theorem thermalHardBreach_pauses {s : State} {dc : Nat} (hsam : s.sampling = true) (hhot : 1050 ≤ dc) :
    Reaches (execThermalHardBreach dc s) fun t => t.mgmt.junctionDc = dc ∧ t.gov.pausedThermal = true := by
  refine runs_reaches ?_
  simp only [hsam, hhot, decide_true, Bool.and_self, if_true, State.noteJunction_mgmt, true_and, State.noteJunction_paused,
    State.junctionRead]
  exact (State.thermalPause_gov ..).1

theorem thermalResume_resumes {s : State} {dc : Nat} (hsam : s.sampling = true) (hcool : dc < 1000) :
    Reaches (execThermalResume dc s) fun t => t.mgmt.junctionDc = dc ∧ t.gov.pausedThermal = false := by
  have hbelow : ¬ 1050 ≤ dc := by omega
  refine runs_reaches ?_
  simp only [hsam, hcool, hbelow, decide_true, Bool.and_self, if_true, if_false, State.noteJunction_mgmt, true_and,
    State.noteJunction_paused, State.junctionRead]
  exact (State.thermalPause_gov ..).1

theorem thermalTrip_latches_off {s : State} {lost : Bool} (hpow : s.powered = true) :
    Reaches (execThermalTrip lost s) fun t => t.power.state = .off ∧ t.power.offCause = .latched ∧ t.power.thermLow = true ∧
      t.queues = [] ∧ t.keepsake = (s.keepsakeEvent 3 true).keepsake := by
  refine runsSpine_reaches ?_
  simp only [hpow, if_true]
  obtain ⟨hstate, hcause, hqueues, -, -⟩ := (s.keepsakeEvent 3 true).enterOff_loses .latched
  exact ⟨hstate, hcause, trivial, hqueues, State.enterOff_keepsake ..⟩

/-! ## The governor -/

theorem SameSamples.thermalPause {s t : State} {on : Bool} (h : SameSamples s t) : SameSamples s (t.thermalPause on) :=
  have hset : SameSamples s { t with gov := { t.gov with pausedThermal := on, beatFrom := t.now } } := h.set_gov h
  .ite h (.ite hset.raise.logEvent hset)

theorem SameSamples.ceilingRead {s t : State} {dc : Nat} (h : SameSamples s t) : SameSamples s (t.ceilingRead dc) := by
  unfold State.ceilingRead
  extract_lets gov drawn fallen
  have hfallen : SameSamples s fallen := h.draw.set_gov h
  split
  · exact h.set_gov h
  · exact .ite hfallen.raise.logEvent hfallen

theorem SameSamples.noteJunction {s t : State} {dc : Nat} (h : SameSamples s t) : SameSamples s (t.noteJunction dc) := by
  have hread : SameSamples s (t.junctionRead dc) := .ite h.set_mgmt.thermalPause (.ite h.set_mgmt.thermalPause h.set_mgmt)
  exact hread.ceilingRead

theorem SameSamples.noteInlet {s t : State} {dc : Nat} (h : SameSamples s t) : SameSamples s (t.noteInlet dc) :=
  .ite h.set_mgmt.logEvent h.set_mgmt

/-- A sample that is due is taken with the input's band noted, and the temperatures of the same instant follow. -/
theorem State.governorSample_due {s : State} {r : SensorReading} (hsam : s.sampling = true)
    (hdue : s.gov.samples = [] ∨ s.gov.sampledAt + 100 * usec ≤ s.now) :
    let t := (s.noteInput r.inputDv).samplePower r.watts
    s.governorSample r = (({ t with mgmt := { t.mgmt with outletDc := r.outletDc } }).noteInlet r.inletDc).noteJunction r.junctionDc := by
  have hnot : (!s.sampling || (!s.gov.samples.isEmpty && decide (s.now < s.gov.sampledAt + 100 * usec))) = false := by
    rcases hdue with hnone | hlate
    · simp [hsam, hnone]
    · simp [hsam, Nat.not_lt.2 hlate]
  simp only [State.governorSample, hnot, Bool.false_eq_true, if_false]

theorem State.governorSample_mgmt {s : State} {r : SensorReading} (hsam : s.sampling = true)
    (hdue : s.gov.samples = [] ∨ s.gov.sampledAt + 100 * usec ≤ s.now) :
    (s.governorSample r).mgmt =
      { s.mgmt with inputDv := r.inputDv, inletDc := r.inletDc, outletDc := r.outletDc, junctionDc := r.junctionDc } := by
  simp only [State.governorSample_due hsam hdue, State.noteJunction_mgmt, State.noteInlet_mgmt, State.samplePower_mgmt]
  rfl

theorem State.governorSample_sampled {s : State} {r : SensorReading} (hsam : s.sampling = true)
    (hdue : s.gov.samples = [] ∨ s.gov.sampledAt + 100 * usec ≤ s.now) :
    SameSamples ((s.noteInput r.inputDv).sampled r.watts) (s.governorSample r) := by
  rw [State.governorSample_due hsam hdue]
  exact ((State.samplePower_sampled ..).set_mgmt.noteInlet).noteJunction

theorem governorSample_samples {s : State} {r : SensorReading} {now : Nat} (hsam : s.sampling = true)
    (hdue : s.gov.samples = [] ∨ s.gov.sampledAt + 100 * usec ≤ (s.at now).now) :
    Reaches (execGovernorSample r now s) fun t => t.gov.samples = (r.watts :: s.gov.samples).take 1000 ∧ t.gov.lastSample = r.watts ∧
      t.gov.sampledAt = (s.at now).now ∧ t.mgmt.inputDv = r.inputDv ∧ t.mgmt.inletDc = r.inletDc ∧ t.mgmt.outletDc = r.outletDc ∧
      t.mgmt.junctionDc = r.junctionDc ∧
      t.regNat (blkPower + 0x20) = min r.watts 4095 * 2 ^ 16 +
        min (((r.watts :: s.gov.samples).take 1000).sum / ((r.watts :: s.gov.samples).take 1000).length) 4095 := by
  have hsam' : (s.at now).sampling = true := (s.at_sampling now).trans hsam
  rw [← s.at_gov now] at hdue ⊢
  have hmgmt := State.governorSample_mgmt (r := r) hsam' hdue
  obtain ⟨hsamples, hlast, hat, havg⟩ := State.governorSample_sampled (r := r) hsam' hdue
  exact runs_reaches_of_acts (ps := [.draws, .clock, .power, .gov, .regs, .mgmt, .log, .outbox])
    (State.governorSample_acts (State.at_acts .refl (by decide)) (by decide)) (by decide)
    ⟨hsamples, hlast, hat, congrArg Mgmt.inputDv hmgmt, congrArg Mgmt.inletDc hmgmt, congrArg Mgmt.outletDc hmgmt,
      congrArg Mgmt.junctionDc hmgmt, (congrArg BitVec.toNat havg).trans (State.sampled_powerAvg ..)⟩

/-! ## The pace windows -/

/-- Once a window has ended, PACE_NOW shows the beats of the latest that has: those counted so far where it is the only one, or none. -/
theorem State.rollWindow_ended {s : State} (hended : s.gov.windowFrom + 1000 ≤ s.now) :
    s.rollWindow.regNat blkPower = (if (s.now - s.gov.windowFrom) / 1000 = 1 then s.gov.windowBeats else 0) % 2 ^ 32 ∧
      s.rollWindow.gov.windowBeats = 0 ∧
      s.rollWindow.gov.windowFrom = s.gov.windowFrom + 1000 * ((s.now - s.gov.windowFrom) / 1000) := by
  have hwhole : (s.now - s.gov.windowFrom) / 1000 ≠ 0 := by omega
  rw [State.rollWindow, if_neg hwhole]
  exact ⟨State.regNat_setNat_same .., rfl, rfl⟩

theorem paceWindow_one {s : State} {now : Nat} (hended : s.gov.windowFrom + 1000 ≤ (s.at now).now)
    (hone : (s.at now).now < s.gov.windowFrom + 2000) :
    Reaches (execPaceWindow now s) fun t => t.regNat blkPower = s.gov.windowBeats % 2 ^ 32 ∧ t.gov.windowBeats = 0 ∧
      t.gov.windowFrom = s.gov.windowFrom + 1000 := by
  rw [← s.at_gov now] at hended hone ⊢
  have hwhole : ((s.at now).now - (s.at now).gov.windowFrom) / 1000 = 1 := by omega
  have hroll := State.rollWindow_ended hended
  simp only [hwhole, if_true, Nat.mul_one] at hroll
  exact runs_reaches_of_acts (ps := [.clock, .gov, .regs]) (State.rollWindow_acts (State.at_acts .refl (by decide)) (by decide)) (by decide)
    hroll

theorem paceWindow_more {s : State} {now : Nat} (hended : s.gov.windowFrom + 2000 ≤ (s.at now).now) :
    Reaches (execPaceWindow now s) fun t => t.regNat blkPower = 0 ∧ t.gov.windowBeats = 0 ∧
      t.gov.windowFrom = s.gov.windowFrom + 1000 * (((s.at now).now - s.gov.windowFrom) / 1000) := by
  rw [← s.at_gov now] at hended ⊢
  have hwhole : ((s.at now).now - (s.at now).gov.windowFrom) / 1000 ≠ 1 := by omega
  have hroll := State.rollWindow_ended (s := s.at now) (by omega)
  rw [if_neg hwhole] at hroll
  exact runs_reaches_of_acts (ps := [.clock, .gov, .regs]) (State.rollWindow_acts (State.at_acts .refl (by decide)) (by decide)) (by decide)
    hroll

/-- Settles O54: each event's own lemma, in the order of the clauses. -/
theorem thermalAndPaceEventsAct : Obligations.ThermalAndPaceEventsAct :=
  ⟨fun _ _ => inletWarning_warns,
   fun _ _ => thermalLimit_lowers_ceiling,
   fun _ _ => thermalHardBreach_pauses,
   fun _ _ => thermalResume_resumes,
   fun _ lost => thermalTrip_latches_off (lost := lost),
   fun _ _ _ => governorSample_samples,
   fun _ _ => paceWindow_one,
   fun _ _ => paceWindow_more⟩

end Sys2Proof.Machine
end

section
/-! PROOF. The beat ring with its upsets and its watchdog (R41, R178, R310), the operating hours (R58) and the end of a margin plan
(R62, R63). -/

namespace Sys2Proof.Machine

open Sys2Proof

/-! ## Beats -/

@[simp] theorem State.at_beating (s : State) (now : Nat) : (s.at now).beating = s.beating := by
  simp only [State.beating, State.at_power, State.at_gov]

/-- A 64-bit register shows what was last put into it, modulo 2^64. -/
@[simp] theorem State.reg64_set64_same (s : State) (a v : Nat) : (s.set64 a v).reg64 a = v % 2 ^ 64 := by
  have hlow : (s.set64 a v).regNat a = v % 2 ^ 32 :=
    (congrArg BitVec.toNat (State.reg_setNat_ne (by omega) ..)).trans (s.regNat_setNat_same a v)
  rw [State.reg64, hlow, State.set64, State.regNat_setNat_same]
  omega

/-- A window that has not ended goes on. -/
theorem State.rollWindow_open {s : State} (hopen : s.now < s.gov.windowFrom + 1000) : s.rollWindow = s := by
  have hnone : (s.now - s.gov.windowFrom) / 1000 = 0 := by omega
  rw [State.rollWindow, if_pos hnone]

/-- Beats of a window that goes on add to its count and to BEAT_COUNT. -/
theorem State.beats_open {s : State} {n : Nat} (hopen : s.now < s.gov.windowFrom + 1000) :
    (s.beats n).gov = { s.gov with windowBeats := s.gov.windowBeats + n, beatFrom := s.now } ∧
      (s.beats n).reg64 (blkPower + 8) = (s.reg64 (blkPower + 8) + n) % 2 ^ 64 := by
  rw [State.beats, State.rollWindow_open hopen]
  exact ⟨rfl, s.reg64_set64_same ..⟩

theorem State.at_reg64 (s : State) (now a : Nat) : (s.at now).reg64 a = s.reg64 a := by
  have hat : Acts [.clock] s (s.at now) := State.at_acts .refl (by decide)
  have hspine : (s.at now).spine = s.spine := hat.1 .spine (by decide)
  obtain ⟨hregs, -⟩ := hat.1 .regs (by decide)
  simp only [State.reg64, State.regNat, State.reg, hregs, hspine]

theorem State.at_beats_acts (s : State) (now n : Nat) : Acts [.clock, .gov, .regs] s ((s.at now).beats n) :=
  State.beats_acts (State.at_acts .refl (by decide)) (by decide)

theorem beat_counts {s : State} {n now : Nat} (hbeat : s.beating = true) (hopen : (s.at now).now < s.gov.windowFrom + 1000) :
    Reaches (execBeat n [] now s) fun t => t.gov.windowBeats = s.gov.windowBeats + n ∧ t.gov.beatFrom = (s.at now).now ∧
      t.reg64 (blkPower + 8) = (s.reg64 (blkPower + 8) + n) % 2 ^ 64 ∧ t.mem = s.mem := by
  have hacts := s.at_beats_acts now n
  rw [← s.at_gov now] at hopen
  obtain ⟨hgov, hcount⟩ := State.beats_open (n := n) hopen
  rw [State.at_reg64] at hcount
  have hrun : (if (s.at now).beating then ([] : List Nat).foldl (fun (t : State) a => t.upset a) ((s.at now).beats n) else s.at now) =
      (s.at now).beats n := if_pos ((s.at_beating now).trans hbeat)
  refine runs_reaches_of_acts (ps := [.clock, .gov, .regs]) (hrun ▸ hacts) (by decide) ?_
  simp only [hrun, hgov, hcount, State.at_gov, true_and]
  exact hacts.1 .mem (by decide)

/-! ## Upsets -/

/-- An upset of a sound sector of a stack marks its unit bad (R310): a stack's addresses lie below those of the banks and below those that
stand for manifest entries (notes/assumptions/47.md). -/
theorem State.upset_stack {s : State} {a : Nat} (hstack : a < stackBytes s.spine.variant)
    (hwritten : s.neverWritten (s.poisonUnit a) = false) (hpoison : s.poisonUnit a ∉ s.mem.poison) (hbad : s.poisonUnit a ∉ s.mem.bad) :
    s.upset a = { s with mem := { s.mem with bad := s.mem.bad ++ [s.poisonUnit a] } } := by
  have htop : a < 2 ^ 40 := by
    revert hstack
    cases s.spine.variant <;> simp only [stackBytes] <;> omega
  have hentry : ¬ 2 ^ 56 ≤ a := by omega
  have hbanks : inBanks a = false := by
    simp only [inBanks, Bool.and_eq_false_iff, decide_eq_false_iff_not]
    omega
  have hmarks : ((decide (a < stackBytes s.spine.variant) || (physSocket a).isSome) && !s.neverWritten (s.poisonUnit a) &&
      !s.mem.poison.contains (s.poisonUnit a) && !s.mem.bad.contains (s.poisonUnit a)) = true := by
    simp [hstack, hwritten, hpoison, hbad]
  simp only [State.upset, hentry, hbanks, hmarks, if_true, if_false, Bool.false_eq_true]

/-- Where the spine and the memories are the same, so are the units of poison and what was never written. -/
theorem State.poisonUnit_congr {s t : State} (hspine : t.spine = s.spine) (hmem : t.mem = s.mem) (a : Nat) :
    t.poisonUnit a = s.poisonUnit a := by
  simp only [State.poisonUnit, State.poisonBytes, hspine, hmem]

theorem State.neverWritten_congr {s t : State} (hmem : t.mem = s.mem) (u : Nat) : t.neverWritten u = s.neverWritten u := by
  simp only [State.neverWritten, hmem]

theorem beat_upset_marks_bad {s : State} {n a now : Nat} (hbeat : s.beating = true) (hstack : a < stackBytes s.spine.variant)
    (hwritten : s.neverWritten (s.poisonUnit a) = false) (hpoison : s.poisonUnit a ∉ s.mem.poison) (hbad : s.poisonUnit a ∉ s.mem.bad) :
    Reaches (execBeat n [a] now s) fun t => t.mem.bad = s.mem.bad ++ [s.poisonUnit a] ∧ t.mem.cells = s.mem.cells := by
  have hacts := s.at_beats_acts now n
  have hspine : ((s.at now).beats n).spine = s.spine := hacts.1 .spine (by decide)
  have hmem : ((s.at now).beats n).mem = s.mem := hacts.1 .mem (by decide)
  have hunit := State.poisonUnit_congr hspine hmem a
  rw [← hspine] at hstack
  rw [← hunit, ← State.neverWritten_congr hmem] at hwritten
  rw [← hunit, ← hmem] at hpoison hbad
  refine runs_reaches ?_
  simp only [State.at_beating, hbeat, if_true, List.foldl_cons, List.foldl_nil, State.upset_stack hstack hwritten hpoison hbad, hunit, hmem,
    true_and]

/-! ## The watchdog -/

/-- A pavé or engine that does not stand fenced joins the fenced units. -/
theorem State.fenceUnit_fenced (s : State) (u w : Nat) :
    (s.fenceUnit u w).units.fenced = if !isCompute u || s.isFenced u then s.units.fenced else s.units.fenced ++ [u] := by
  have hfault : (s.keepFault u w).units = s.units := (State.keepFault_acts (ps := [.regs]) .refl (by decide)).1 .units (by decide)
  have hrecord (t : State) (g : LogArg) : ((t.raise (evUnit u) (flagFenced u)).logEvent g).units = t.units :=
    (State.logEvent_acts (ps := [.regs, .log, .outbox]) (State.raise_acts .refl (by decide)) (by decide)).1 .units (by decide)
  simp only [State.fenceUnit, apply_ite State.units, apply_ite Units.fenced, hrecord, hfault]

/-- A pavé or engine stands fenced once it is fenced: it was before, or is now. -/
theorem State.fenceUnit_fences {s : State} {u w : Nat} (hcompute : isCompute u = true) : (s.fenceUnit u w).isFenced u = true := by
  rw [State.isFenced, State.fenceUnit_fenced]
  by_cases hwas : s.isFenced u = true
  · rw [hwas, Bool.or_true, if_pos rfl]
    exact hwas
  · simp [hcompute, hwas]

/-- A fence of one unit lifts no other. -/
theorem State.fenceUnit_keeps {s : State} {u v w : Nat} (hfenced : s.isFenced u = true) : (s.fenceUnit v w).isFenced u = true := by
  rw [State.isFenced, State.fenceUnit_fenced]
  split
  · exact hfenced
  · rw [List.contains_append]
    exact Bool.or_eq_true_iff.2 (.inl hfenced)

/-- What the watchdog does to one late unit (R178). -/
def State.watchdogFence (s : State) (u : Nat) : State :=
  (((s.raise (evUnit u) 0).failPasses u).failUnitColls u stUnitFault).fenceUnit u 0

theorem State.watchdogFence_fences {s : State} {u : Nat} (hcompute : isCompute u = true) : (s.watchdogFence u).isFenced u = true :=
  State.fenceUnit_fences hcompute

/-- Until the fence itself, no fence changes. -/
theorem State.watchdogFence_keeps {s : State} {u v : Nat} (hfenced : s.isFenced u = true) : (s.watchdogFence v).isFenced u = true := by
  have hunits : (((s.raise (evUnit v) 0).failPasses v).failUnitColls v stUnitFault).units = s.units :=
    (State.failUnitColls_acts (ps := [.draws, .regs, .mem, .host, .queues, .cmds, .weights, .links, .colls, .trains, .turns, .logbook,
      .lockage, .mgmt, .log, .outbox]) (State.failPasses_acts (State.raise_acts .refl (by decide)) (by decide)) (by decide)).1 .units
      (by decide)
  refine State.fenceUnit_keeps ?_
  simpa only [State.isFenced, hunits] using hfenced

/-- Every late pavé and engine stands fenced when the watchdog is through: fenced in its turn, and left so after it. -/
theorem State.foldl_watchdogFence_fences {us : List Nat} {u : Nat} (s : State) (hmem : u ∈ us) (hcompute : isCompute u = true) :
    (us.foldl State.watchdogFence s).isFenced u = true := by
  obtain ⟨before, after, rfl⟩ := List.append_of_mem hmem
  rw [List.foldl_append, List.foldl_cons]
  exact List.foldlRecOn (motive := fun t : State => t.isFenced u = true) after _ (State.watchdogFence_fences hcompute)
    fun _ hfenced _ _ => State.watchdogFence_keeps hfenced

@[simp] theorem State.at_inService (s : State) (now u : Nat) : (s.at now).inService u = s.inService u := by
  have hunits : (s.at now).units = s.units := (State.at_acts (ps := [.clock]) .refl (by decide)).1 .units (by decide)
  simp only [State.inService, State.isFenced, State.at_power, hunits]

@[simp] theorem State.beats_units (s : State) (n : Nat) : (s.beats n).units = s.units :=
  (State.beats_acts (ps := [.gov, .regs]) .refl (by decide)).1 .units (by decide)

theorem beatWatchdog_fences {s : State} {late : List Nat} {now u : Nat} (hbeat : s.beating = true)
    (hlong : (s.at now).expired (s.gov.beatFrom + 10 * usec) = true) (hlate : u ∈ late) (hserves : s.inService u = true) :
    Reaches (execBeatWatchdog late now s) fun t => t.isFenced u = true := by
  have hcompute : isCompute u = true := by
    simp only [State.inService, Bool.and_eq_true] at hserves
    obtain ⟨⟨hcompute, -⟩, -⟩ := hserves
    exact hcompute
  have hmem : u ∈ (late.filter (s.at now).inService).dedup :=
    List.mem_dedup.2 (List.mem_filter.2 ⟨hlate, (s.at_inService now u).trans hserves⟩)
  have hfires : ((s.at now).beating && (s.at now).expired ((s.at now).gov.beatFrom + 10 * usec) &&
      !(late.filter (s.at now).inService).dedup.isEmpty) = true := by
    simp only [State.at_beating, hbeat, State.at_gov, hlong, Bool.true_and, Bool.not_eq_true', List.isEmpty_eq_false_iff]
    exact List.ne_nil_of_mem hmem
  refine runs_reaches ?_
  simp only [hfires, if_true, State.isFenced, State.beats_units]
  exact State.foldl_watchdogFence_fences _ hmem hcompute

/-! ## Operating hours -/

/-- At the end of an hour with PWRGD high the count goes up and the next hour begins where this one ended. -/
theorem State.hourTick_counts {s : State} (hgood : s.power.pwrgd = true) (hon : s.power.state ≠ .off)
    (hhour : s.expired (s.clock.hourFrom + 3600 * second) = true) :
    s.hourTick.keepsake.hours = (s.keepsake.hours + 1) % 2 ^ 32 ∧ s.hourTick.clock.hourFrom = s.clock.hourFrom + 3600 * second := by
  have hdue : (!s.power.pwrgd || decide (s.power.state = .off) || !s.expired (s.clock.hourFrom + 3600 * second)) = false := by
    simp [hgood, hon, hhour]
  simp only [State.hourTick, hdue, Bool.false_eq_true, if_false]
  split <;> exact ⟨rfl, rfl⟩

theorem State.at_hourFrom (s : State) (now : Nat) : (s.at now).clock.hourFrom = s.clock.hourFrom := by
  simp only [State.at]
  split <;> rfl

@[simp] theorem State.at_keepsake (s : State) (now : Nat) : (s.at now).keepsake = s.keepsake :=
  (State.at_acts (ps := [.clock]) .refl (by decide)).1 .keepsake (by decide)

theorem operatingHourTick_counts {s : State} {now : Nat} (hgood : s.power.pwrgd = true) (hon : s.power.state ≠ .off)
    (hhour : (s.at now).expired (s.clock.hourFrom + 3600 * second) = true) :
    Reaches (execOperatingHourTick now s) fun t => t.keepsake.hours = (s.keepsake.hours + 1) % 2 ^ 32 ∧
      t.clock.hourFrom = s.clock.hourFrom + 3600 * second := by
  rw [← s.at_power now] at hgood hon
  rw [← s.at_hourFrom now] at hhour ⊢
  rw [← s.at_keepsake now]
  exact runs_reaches (State.hourTick_counts hgood hon hhour)

/-! ## Margin plans -/

@[simp] theorem State.notePlan_gov (s : State) (k : PlanRecord) : (s.notePlan k).gov = s.gov :=
  (State.notePlan_acts (ps := [.regs, .log, .outbox]) .refl (by decide)).1 .gov (by decide)

@[simp] theorem State.notePlan_keepsake (s : State) (k : PlanRecord) : (s.notePlan k).keepsake = s.keepsake :=
  (State.notePlan_acts (ps := [.regs, .log, .outbox]) .refl (by decide)).1 .keepsake (by decide)

@[simp] theorem State.raise_keepsake (s : State) (a n : Nat) : (s.raise a n).keepsake = s.keepsake :=
  (State.raise_acts (ps := [.regs, .outbox]) .refl (by decide)).1 .keepsake (by decide)

/-- An applied plan is the one in force; the plans under way are those of before. -/
theorem State.applyPlan_gov (s : State) (k : PlanRecord) :
    (s.applyPlan k).gov.applied = some k ∧ (s.applyPlan k).gov.planCeiling = k.ceiling ∧
      (s.applyPlan k).gov.planning = s.gov.planning := by
  simp only [State.applyPlan, State.notePlan_gov, State.raise_gov, true_and]
  rfl

/-- An applied plan is recorded in its slot, and the next plan takes the next number. -/
theorem State.applyPlan_keepsake (s : State) (k : PlanRecord) :
    (s.applyPlan k).keepsake.planNext = s.keepsake.planNext + 1 ∧
      (s.applyPlan k).keepsake.plans = insert (k.plan % 64) k s.keepsake.plans := by
  simp only [State.applyPlan, State.notePlan_keepsake, State.raise_keepsake]
  exact ⟨rfl, rfl⟩

/-- The state once the readings of the plan under way are taken, `rest` being the plans that wait behind it. -/
def State.planRead (s : State) (rs : List HallmarkReading) (rest : List (Nat × Option CmdRef)) : State :=
  ({ s with gov := { s.gov with planning := rest } }).readHallmarks rs

theorem State.planRead_gov (s : State) (rs : List HallmarkReading) (rest : List (Nat × Option CmdRef)) :
    (s.planRead rs rest).gov = { s.gov with planning := rest } :=
  (State.readHallmarks_acts (ps := [.regs]) .refl (by decide)).1 .gov (by decide)

theorem State.planRead_keepsake (s : State) (rs : List HallmarkReading) (rest : List (Nat × Option CmdRef)) :
    (s.planRead rs rest).keepsake = s.keepsake :=
  (State.readHallmarks_acts (ps := [.regs]) .refl (by decide)).1 .keepsake (by decide)

theorem State.makePlan_plan (s : State) (command lost : Bool) : (s.makePlan command lost).plan = s.keepsake.planNext.toNat := rfl

/-- The plan that these readings give a command. -/
def State.planMade (s : State) (rs : List HallmarkReading) (rest : List (Nat × Option CmdRef)) : PlanRecord :=
  (s.planRead rs rest).makePlan true false

theorem State.planMade_plan (s : State) (rs : List HallmarkReading) (rest : List (Nat × Option CmdRef)) :
    (s.planMade rs rest).plan = s.keepsake.planNext.toNat := by
  rw [State.planMade, State.makePlan_plan, State.planRead_keepsake]

/-- The largest offset is +130 mV, that is 170. -/
theorem State.planMade_headroom_le (s : State) (rs : List HallmarkReading) (rest : List (Nat × Option CmdRef)) :
    (s.planMade rs rest).headroom ≤ 170 := Nat.sub_le ..

/-- The plan is only reported in mode 1, and applied in mode 0 (R63). -/
def State.planEnacted (s : State) (rs : List HallmarkReading) (mode : Nat) (rest : List (Nat × Option CmdRef)) : State :=
  if mode = 1 then (s.planRead rs rest).notePlan (s.planMade rs rest) else (s.planRead rs rest).applyPlan (s.planMade rs rest)

/-- The end of a plan that a command asked for answers that command. -/
theorem State.planDone_command {s : State} {rs : List HallmarkReading} {mode : Nat} {r : CmdRef} {rest : List (Nat × Option CmdRef)}
    (hplanning : s.gov.planning = (mode, some r) :: rest) :
    s.planDone rs = (s.planEnacted rs mode rest).finish r
      { result0 := (s.planMade rs rest).plan, result1 := (s.planMade rs rest).headroom } := by
  simp only [State.planDone, hplanning]
  rfl

theorem State.planDone_gov {s : State} {rs : List HallmarkReading} {mode : Nat} {r : CmdRef} {rest : List (Nat × Option CmdRef)}
    (hplanning : s.gov.planning = (mode, some r) :: rest) : (s.planDone rs).gov = (s.planEnacted rs mode rest).gov := by
  rw [State.planDone_command hplanning, State.finish_gov]

theorem State.planDone_keepsake {s : State} {rs : List HallmarkReading} {mode : Nat} {r : CmdRef} {rest : List (Nat × Option CmdRef)}
    (hplanning : s.gov.planning = (mode, some r) :: rest) : (s.planDone rs).keepsake = (s.planEnacted rs mode rest).keepsake := by
  rw [State.planDone_command hplanning, State.finish_keepsake]

theorem State.at_cmd (s : State) (now : Nat) (r : CmdRef) : (s.at now).cmd r = s.cmd r :=
  (State.at_acts (ps := [.clock]) .refl (by decide)).cmd (by decide)

theorem State.planRead_cmd (s : State) (rs : List HallmarkReading) (rest : List (Nat × Option CmdRef)) (r : CmdRef) :
    (s.planRead rs rest).cmd r = s.cmd r :=
  (State.readHallmarks_acts (ps := [.regs]) .refl (by decide)).cmd (by decide)

theorem State.planEnacted_cmd (s : State) (rs : List HallmarkReading) (mode : Nat) (rest : List (Nat × Option CmdRef)) (r : CmdRef) :
    (s.planEnacted rs mode rest).cmd r = s.cmd r := by
  have hread := s.planRead_cmd rs rest r
  unfold State.planEnacted
  split
  · exact ((State.notePlan_acts (ps := [.regs, .log, .outbox]) .refl (by decide)).cmd (by decide)).trans hread
  · exact ((State.applyPlan_acts (ps := [.gov, .regs, .keepsake, .log, .outbox]) .refl (by decide)).cmd (by decide)).trans hread

/-- In either mode the command learns the plan's number and headroom. -/
theorem State.planDone_answered {s : State} {rs : List HallmarkReading} {mode : Nat} {r : CmdRef} {k : Cmd}
    {rest : List (Nat × Option CmdRef)} (hplanning : s.gov.planning = (mode, some r) :: rest) (hcmd : s.cmd r = some k) :
    (s.planDone rs).Answered r { result0 := s.keepsake.planNext.toNat, result1 := (s.planMade rs rest).headroom } := by
  rw [State.planDone_command hplanning, State.planMade_plan]
  exact State.finish_answered ((s.planEnacted_cmd rs mode rest r).trans hcmd)

/-- Mode 0: the plan is in force and recorded. -/
theorem State.planDone_applied {s : State} {rs : List HallmarkReading} {r : CmdRef} {rest : List (Nat × Option CmdRef)}
    (hplanning : s.gov.planning = (0, some r) :: rest) :
    (s.planDone rs).gov.planning = rest ∧ (s.planDone rs).gov.applied = some (s.planMade rs rest) ∧
      (s.planDone rs).gov.planCeiling = (s.planMade rs rest).ceiling ∧
      (s.planDone rs).keepsake.planNext = s.keepsake.planNext + 1 ∧
      (s.planDone rs).keepsake.plans = insert ((s.planMade rs rest).plan % 64) (s.planMade rs rest) s.keepsake.plans := by
  obtain ⟨happlied, hceiling, hrest⟩ := (s.planRead rs rest).applyPlan_gov (s.planMade rs rest)
  obtain ⟨hnext, hplans⟩ := (s.planRead rs rest).applyPlan_keepsake (s.planMade rs rest)
  rw [State.planRead_gov] at hrest
  rw [State.planRead_keepsake] at hnext hplans
  rw [State.planDone_gov hplanning, State.planDone_keepsake hplanning, State.planEnacted, if_neg Nat.zero_ne_one]
  exact ⟨hrest, happlied, hceiling, hnext, hplans⟩

/-- Mode 1: what is in force and in keepsake stays. -/
theorem State.planDone_reported {s : State} {rs : List HallmarkReading} {r : CmdRef} {rest : List (Nat × Option CmdRef)}
    (hplanning : s.gov.planning = (1, some r) :: rest) :
    (s.planDone rs).gov.planning = rest ∧ (s.planDone rs).gov.applied = s.gov.applied ∧ (s.planDone rs).keepsake = s.keepsake := by
  rw [State.planDone_gov hplanning, State.planDone_keepsake hplanning, State.planEnacted, if_pos rfl, State.notePlan_gov,
    State.notePlan_keepsake, State.planRead_gov, State.planRead_keepsake]
  exact ⟨rfl, rfl, rfl⟩

theorem marginPlanDone_applies {s : State} {rs : List HallmarkReading} {now : Nat} {r : CmdRef} {k : Cmd}
    {rest : List (Nat × Option CmdRef)} (hplanning : s.gov.planning = (0, some r) :: rest) (hcmd : s.cmd r = some k) :
    Reaches (execMarginPlanDone rs now s) fun t => t.gov.planning = rest ∧ t.keepsake.planNext = s.keepsake.planNext + 1 ∧
      ∃ h p, h ≤ 170 ∧ t.Answered r { result0 := s.keepsake.planNext.toNat, result1 := h } ∧ t.gov.applied = some p ∧
        p.plan = s.keepsake.planNext.toNat ∧ p.headroom = h ∧ t.gov.planCeiling = p.ceiling ∧
        t.keepsake.plans = insert (p.plan % 64) p s.keepsake.plans := by
  rw [← s.at_gov now] at hplanning
  rw [← s.at_cmd now] at hcmd
  rw [← s.at_keepsake now]
  obtain ⟨hrest, happlied, hceiling, hnext, hplans⟩ := State.planDone_applied (rs := rs) hplanning
  exact runs_reaches ⟨hrest, hnext, _, _, State.planMade_headroom_le .., State.planDone_answered hplanning hcmd, happlied,
    State.planMade_plan .., rfl, hceiling, hplans⟩

theorem marginPlanDone_reports {s : State} {rs : List HallmarkReading} {now : Nat} {r : CmdRef} {k : Cmd}
    {rest : List (Nat × Option CmdRef)} (hplanning : s.gov.planning = (1, some r) :: rest) (hcmd : s.cmd r = some k) :
    Reaches (execMarginPlanDone rs now s) fun t => t.gov.planning = rest ∧ t.keepsake = s.keepsake ∧ t.gov.applied = s.gov.applied ∧
      ∃ h, h ≤ 170 ∧ t.Answered r { result0 := s.keepsake.planNext.toNat, result1 := h } := by
  rw [← s.at_gov now] at hplanning ⊢
  rw [← s.at_cmd now] at hcmd
  rw [← s.at_keepsake now]
  obtain ⟨hrest, happlied, hkeepsake⟩ := State.planDone_reported (rs := rs) hplanning
  exact runs_reaches ⟨hrest, hkeepsake, happlied, _, State.planMade_headroom_le .., State.planDone_answered hplanning hcmd⟩

/-- Settles O55: each event's own lemma, in the order of the clauses. -/
theorem beatEventsAct : Obligations.BeatEventsAct :=
  ⟨fun _ _ _ => beat_counts,
   fun _ _ _ _ => beat_upset_marks_bad,
   fun _ _ _ _ => beatWatchdog_fences,
   fun _ _ => operatingHourTick_counts,
   fun _ _ _ _ _ _ => marginPlanDone_applies,
   fun _ _ _ _ _ _ => marginPlanDone_reports⟩

end Sys2Proof.Machine
end

section
/-! SUPPORT. A ready command and its effect; what raising a flag stores; and the parts that a timed event, a panel flag and a reach socket
leave alone, read off Laws/Acts*.lean once. -/

namespace Sys2Proof.Machine

open Sys2Proof

/-! ## Reading off an arm -/

/-- What holds of the effect of a ready command on the state it meets holds of the command's arm. -/
theorem State.Ready.reaches {s : State} {opcode : Nat} {r : CmdRef} {k : Cmd} {hv : HostView} {f : Cmd → State → State} {P : State → Prop}
    (h : s.Ready opcode r k) (hP : P { f k (s.meets hv k) with spine := s.spine, acting := s.acting, pending := s.pending }) :
    Reaches (runs (fun s => (s.sees hv).start opcode r f) s) P := by
  refine runs_reaches ?_
  rw [h.start]
  exact hP

/-- What holds of a state that an effect comes to holds of the arm, where the effect leaves the spine, the operation under way and the queue
of commands alone. -/
theorem runs_reaches_of_eq {ps : List Part} {f : State → State} {s t : State} {P : State → Prop} (hf : f s = t) (ha : Acts ps s t)
    (hps : .spine ∉ ps ∧ .acting ∉ ps ∧ .pending ∉ ps) (h : P t) : Reaches (runs f s) P := by
  subst hf
  exact runs_reaches_of_acts ha hps h

/-- An operation that leaves registers and the spine alone leaves a register to read as before. -/
theorem Acts.reg {ps : List Part} {s t : State} (h : Acts ps s t) (hregs : Part.regs ∉ ps) (hspine : Part.spine ∉ ps) (a : Nat) :
    t.reg a = s.reg a := by
  obtain ⟨hr, -⟩ := h.1 .regs hregs
  rw [State.reg, hr, h.1 .spine hspine, ← State.reg]

/-! ## Flags of event registers -/

theorem testBit_putBit_same (w n : Nat) : (putBit w n true).testBit n = true := by
  unfold putBit
  split
  · assumption
  · next hclear => rw [if_pos rfl, Nat.add_comm, Nat.testBit_two_pow_add_eq]; simpa using hclear

theorem testBit_putBit_lt {m n : Nat} (h : m < n) (w : Nat) : (putBit w n true).testBit m = w.testBit m := by
  unfold putBit
  split
  · rfl
  · rw [if_pos rfl, Nat.add_comm, Nat.testBit_two_pow_add_gt h]

/-- A raised flag's register holds what it held, with the flag set. -/
theorem State.raise_regNat {a n : Nat} (hcount : a ≠ counterWord a n) (s : State) :
    (s.raise a n).regNat a = putBit (s.regNat a) n true % 2 ^ 32 := by
  have hset : ((s.setNat a (putBit (s.regNat a) n true)).bump a n).regNat a = putBit (s.regNat a) n true % 2 ^ 32 := by
    rw [State.bump, State.regNat, State.reg_setNat_ne hcount]
    exact State.regNat_setNat_same ..
  simp only [State.raise]
  split
  · rw [State.regNat, State.interruptOf_reg]
    exact hset
  · exact hset

theorem State.raise_flag {a n : Nat} (hn : n < 32) (hcount : a ≠ counterWord a n) (s : State) :
    ((s.raise a n).regNat a).testBit n = true := by
  rw [State.raise_regNat hcount, Nat.testBit_mod_two_pow, testBit_putBit_same, decide_eq_true hn, Bool.and_self]

theorem State.raise_flag_lt {a m n : Nat} (hm : m < n) (hn : n < 32) (hcount : a ≠ counterWord a n) (s : State) :
    ((s.raise a n).regNat a).testBit m = (s.regNat a).testBit m := by
  rw [State.raise_regNat hcount, Nat.testBit_mod_two_pow, testBit_putBit_lt hm, decide_eq_true (hm.trans hn), Bool.true_and]

/-! ## Flags of the panel (R86) -/

theorem counterWord_evPanel_ne (n : Nat) : evPanel ≠ counterWord evPanel n := by
  simp only [counterWord, show inDoorbells evPanel = false by decide, Bool.false_eq_true, if_false]
  omega

@[simp] theorem State.raisePanel_clock (s : State) (n : Nat) : (s.raisePanel n).clock = s.clock :=
  (State.raisePanel_acts (ps := [.regs, .mgmt, .outbox]) .refl (by decide)).1 .clock (by decide)

@[simp] theorem State.raisePanel_mem (s : State) (n : Nat) : (s.raisePanel n).mem = s.mem :=
  (State.raisePanel_acts (ps := [.regs, .mgmt, .outbox]) .refl (by decide)).1 .mem (by decide)

@[simp] theorem State.raisePanel_panel (s : State) (n : Nat) : (s.raisePanel n).panel = s.panel :=
  (State.raisePanel_acts (ps := [.regs, .mgmt, .outbox]) .refl (by decide)).1 .panel (by decide)

@[simp] theorem State.raisePanel_turns (s : State) (n : Nat) : (s.raisePanel n).turns = s.turns :=
  ((State.raisePanel_acts (ps := [.regs, .mgmt, .outbox]) .refl (by decide)).1 .turns (by decide)).1

@[simp] theorem State.raisePanel_socket (s : State) (m n : Nat) : (s.raisePanel n).socket m = s.socket m := by
  simp only [State.socket, State.raisePanel_panel]

/-- The message to the event receiver changes no register. -/
theorem State.raisePanel_reg (s : State) (n a : Nat) : (s.raisePanel n).reg a = (s.raise evPanel n).reg a :=
  (State.platformEvent_acts (ps := [.mgmt]) .refl (by decide)).reg (by decide) (by decide) a

theorem State.raisePanel_flag {n : Nat} (hn : n < 32) (s : State) : ((s.raisePanel n).regNat evPanel).testBit n = true := by
  rw [State.regNat, State.raisePanel_reg]
  exact State.raise_flag hn (counterWord_evPanel_ne n) s

theorem State.raisePanel_flag_lt {m n : Nat} (hm : m < n) (hn : n < 32) (s : State) :
    ((s.raisePanel n).regNat evPanel).testBit m = (s.regNat evPanel).testBit m := by
  rw [State.regNat, State.raisePanel_reg]
  exact State.raise_flag_lt hm hn (counterWord_evPanel_ne n) s

/-- The arm of an event that changes the panel and then raises a flag of it. -/
theorem runs_raisePanel_reaches {f : State → State} {s u : State} {p : Panel} {n : Nat} (hu : Acts [.clock] s u) (hn : n < 32)
    (hf : f s = ({ u with panel := p } : State).raisePanel n) :
    Reaches (runs f s) fun t => t.panel = p ∧ (t.regNat evPanel).testBit n = true :=
  runs_reaches_of_eq (ps := [.clock, .regs, .panel, .mgmt, .outbox]) hf
    (State.raisePanel_acts (Acts.set_panel (hu.more (by decide)) (by decide)) (by decide)) (by decide)
    ⟨State.raisePanel_panel .., State.raisePanel_flag hn _⟩

/-! ## Parts that the coming of a timed event leaves alone -/

@[simp] theorem State.at_spine (s : State) (now : Nat) : (s.at now).spine = s.spine :=
  (State.at_acts (ps := [.clock]) .refl (by decide)).1 .spine (by decide)

@[simp] theorem State.at_draws (s : State) (now : Nat) : (s.at now).draws = s.draws :=
  (State.at_acts (ps := [.clock]) .refl (by decide)).1 .draws (by decide)

@[simp] theorem State.at_inflight (s : State) (now : Nat) : (s.at now).inflight = s.inflight :=
  ((State.at_acts (ps := [.clock]) .refl (by decide)).1 .cmds (by decide)).2

@[simp] theorem State.at_turns (s : State) (now : Nat) : (s.at now).turns = s.turns :=
  ((State.at_acts (ps := [.clock]) .refl (by decide)).1 .turns (by decide)).1

@[simp] theorem State.at_panel (s : State) (now : Nat) : (s.at now).panel = s.panel :=
  (State.at_acts (ps := [.clock]) .refl (by decide)).1 .panel (by decide)

@[simp] theorem State.at_mgmt (s : State) (now : Nat) : (s.at now).mgmt = s.mgmt :=
  (State.at_acts (ps := [.clock]) .refl (by decide)).1 .mgmt (by decide)

@[simp] theorem State.at_sec (s : State) (now : Nat) : (s.at now).sec = s.sec :=
  (State.at_acts (ps := [.clock]) .refl (by decide)).1 .sec (by decide)

@[simp] theorem State.at_outbox (s : State) (now : Nat) : (s.at now).outbox = s.outbox :=
  (State.at_acts (ps := [.clock]) .refl (by decide)).1 .outbox (by decide)

/-! ## Reach sockets -/

@[simp] theorem State.putSocket_mem (s : State) (n : Nat) (k : Socket) : (s.putSocket n k).mem = s.mem :=
  (State.putSocket_acts (ps := [.panel, .mgmt]) .refl (by decide)).1 .mem (by decide)

@[simp] theorem State.powerDown_socket (s : State) (n : Nat) : (s.powerDown n).socket n = { s.socket n with state := .released } :=
  State.putSocket_socket

@[simp] theorem State.powerDown_mem (s : State) (n : Nat) : (s.powerDown n).mem = s.mem.forget (socketBase n) socketBytes := by
  simp only [State.powerDown, State.putSocket_mem]

theorem State.powerDown_cmd (s : State) (n : Nat) (r : CmdRef) : (s.powerDown n).cmd r = s.cmd r :=
  (State.powerDown_acts (ps := [.mem, .panel, .mgmt]) .refl (by decide)).cmd (by decide)

end Sys2Proof.Machine
end

section
/-! PROOF. The buttons of the panel, service requests and holds, and the release of a reach socket (R87 to R92). -/

namespace Sys2Proof.Machine

open Sys2Proof

/-! ## Commands -/

theorem serviceHold_holds {s : State} {r : CmdRef} {k : Cmd} {hv : HostView} (hready : s.Ready 0x0005 r k) (hturns : s.turns = []) :
    Reaches (execServiceHold r hv s) fun t => t.Answered r {} ∧ t.panel.hold = true := by
  refine hready.reaches ?_
  have hquiet : ((s.meets hv k).panel.hold || (s.meets hv k).turns.isEmpty) = true := by
    rw [show (s.meets hv k).turns = [] from hturns, List.isEmpty_nil, Bool.or_true]
  simp only [hquiet, if_true, hready.ref]
  exact ⟨State.finish_answered hready.1, rfl⟩

theorem serviceResume_ends_hold {s : State} {r : CmdRef} {k : Cmd} {hv : HostView} (hready : s.Ready 0x0006 r k) :
    Reaches (execServiceResume r hv s) fun t => t.Answered r {} ∧ t.panel.hold = false := by
  refine hready.reaches ?_
  rw [hready.ref]
  exact ⟨State.finish_answered hready.1, rfl⟩

/-- A socket with power, or in service, that the layout does not map is powered down by REACH_RELEASE. -/
theorem State.reachRelease_unmapped {s : State} {k : Cmd}
    (hstate : [SocketState.powered, .inService, .releaseRequested].contains (s.socket (k.param 32 1)).state = true)
    (hmap : s.reachMap.testBit (k.param 32 1) = false) :
    s.reachRelease k = (s.powerDown (k.param 32 1)).finish k.ref {} := by
  have hin : [SocketState.empty, .refused, .released, .lost].contains (s.socket (k.param 32 1)).state = false := by
    revert hstate
    cases (s.socket (k.param 32 1)).state <;> decide
  simp only [State.reachRelease, hin, hmap, Bool.false_eq_true, if_false]

theorem reachRelease_releases {s : State} {r : CmdRef} {k : Cmd} {hv : HostView} (hready : s.Ready 0x0007 r k)
    (hstate : [SocketState.powered, .inService, .releaseRequested].contains (s.socket (k.param 32 1)).state = true)
    (hmap : (s.meets hv k).reachMap.testBit (k.param 32 1) = false) :
    Reaches (execReachRelease r hv s) fun t => t.Answered r {} ∧ (t.socket (k.param 32 1)).state = SocketState.released ∧
      t.mem = s.mem.forget (socketBase (k.param 32 1)) socketBytes := by
  refine hready.reaches ?_
  rw [State.reachRelease_unmapped (s := s.meets hv k) hstate hmap, hready.ref]
  refine ⟨State.finish_answered (k := k) ?_, congrArg Socket.state (State.powerDown_socket ..), State.powerDown_mem ..⟩
  rw [State.powerDown_cmd]
  exact hready.1

/-! ## Buttons -/

theorem locatePress_toggles {s : State} {ms : Nat} (hpow : s.powered = true) (hms : 50 ≤ ms) :
    Reaches (execLocatePress ms s) fun t =>
      t.panel = { s.panel with locate := !s.panel.locate } ∧ (t.regNat evPanel).testBit 0 = true :=
  runs_raisePanel_reaches (u := s) .refl (by decide) (if_pos (by simp [hpow, hms]))

/-- A press of SERVICE with power that is long enough, and short of a hold of the button, is decided by the panel alone. -/
theorem servicePress_not_ignored {s : State} {ms now : Nat} (hpow : s.powered = true) (hlow : 50 ≤ ms) (hhigh : ms < 10000) :
    (!(s.at now).powered || decide (ms < 50) || decide (10000 ≤ ms)) = false := by
  simp [hpow, hlow, hhigh]

theorem servicePress_ends_hold {s : State} {ms now : Nat} (hpow : s.powered = true) (hlow : 50 ≤ ms) (hhigh : ms < 10000)
    (hhold : s.panel.hold = true) : Reaches (execServicePress ms now s) fun t => t.panel = { s.panel with hold := false } := by
  refine runs_reaches ?_
  simp only [servicePress_not_ignored hpow hlow hhigh, State.at_panel, hhold, Bool.false_eq_true, if_true, if_false,
    State.releaseHold]

theorem servicePress_withdraws_request {s : State} {ms now : Nat} (hpow : s.powered = true) (hlow : 50 ≤ ms) (hhigh : ms < 10000)
    (hhold : s.panel.hold = false) (hreq : s.panel.request.isSome = true) :
    Reaches (execServicePress ms now s) fun t => t.panel = { s.panel with request := none } := by
  refine runs_reaches ?_
  simp only [servicePress_not_ignored hpow hlow hhigh, State.at_panel, hhold, hreq, Bool.false_eq_true, if_true, if_false]

theorem servicePress_requests {s : State} {ms now : Nat} (hpow : s.powered = true) (hlow : 50 ≤ ms) (hhigh : ms < 10000)
    (hhold : s.panel.hold = false) (hreq : s.panel.request = none) :
    Reaches (execServicePress ms now s) fun t =>
      t.panel = { s.panel with request := some ((s.at now).now + 120 * second) } ∧ (t.regNat evPanel).testBit 1 = true := by
  refine runs_raisePanel_reaches (u := s.at now) (State.at_acts .refl (by decide)) (by decide) ?_
  simp only [servicePress_not_ignored hpow hlow hhigh, State.at_panel, hhold, hreq, Option.isSome_none, Bool.false_eq_true, if_false]

theorem serviceLong_holds {s : State} {now : Nat} (hpow : s.powered = true) (hturns : s.turns = []) :
    Reaches (execServiceLong now s) fun t =>
      t.panel = { s.panel with hold := true, request := none } ∧ (t.regNat evPanel).testBit 2 = true := by
  refine runs_reaches_of_eq (t := ((s.at now).raisePanel 2).holdNow) (ps := [.clock, .regs, .panel, .mgmt, .outbox]) ?_
    (State.holdNow_acts (State.raisePanel_acts (State.at_acts .refl (by decide)) (by decide)) (by decide)) (by decide)
    ⟨?_, State.raisePanel_flag (by decide) _⟩
  · simp [hpow, hturns]
  · simp only [State.holdNow, State.raisePanel_panel, State.at_panel]

theorem serviceLong_waits {s : State} {now : Nat} (hpow : s.powered = true) (hturns : s.turns ≠ []) :
    Reaches (execServiceLong now s) fun t => t.panel = { s.panel with holdWaits := true } ∧ (t.regNat evPanel).testBit 2 = true := by
  refine runs_reaches_of_eq (ps := [.clock, .regs, .panel, .mgmt, .outbox])
    (t := { (s.at now).raisePanel 2 with panel := { ((s.at now).raisePanel 2).panel with holdWaits := true } }) ?_
    (Acts.set_panel (State.raisePanel_acts (State.at_acts .refl (by decide)) (by decide)) (by decide)) (by decide)
    ⟨?_, State.raisePanel_flag (by decide) _⟩
  · simp [hpow, hturns]
  · simp only [State.raisePanel_panel, State.at_panel]

/-! ## A request that lapses, and LOCATE_CTRL -/

theorem serviceRequestLapse_lapses {s : State} {now d : Nat} (hreq : s.panel.request = some d) (hexp : (s.at now).expired d = true)
    (hissued : s.holdIssued = false) :
    Reaches (execServiceRequestLapse now s) fun t => t.panel = { s.panel with request := none } := by
  refine runs_reaches ?_
  have hdue : ((s.at now).expired d && !(s.at now).holdIssued) = true := by
    rw [hexp, State.holdIssued, State.at_inflight, ← State.holdIssued, hissued, Bool.not_false, Bool.and_self]
  simp only [State.at_panel, hreq, hdue, if_true]

theorem locateCtrlWrite_stores {s : State} {v : Word} (hup : s.pcieUp = true) :
    Reaches (execLocateCtrlWrite v s) fun t => t.panel = { s.panel with locate := v.toNat.testBit 0 } :=
  runsHost_reaches hup rfl

/-- Settles O13: each row's own lemma, in the order of the clauses. -/
theorem panelCommandsComplete : Obligations.PanelCommandsComplete :=
  ⟨fun _ _ _ _ => serviceHold_holds,
   fun _ _ _ _ => serviceResume_ends_hold,
   fun _ _ _ _ => reachRelease_releases,
   fun _ _ => locatePress_toggles,
   fun _ _ _ => servicePress_ends_hold,
   fun _ _ _ => servicePress_withdraws_request,
   fun _ _ _ => servicePress_requests,
   fun _ _ => serviceLong_holds,
   fun _ _ => serviceLong_waits,
   fun _ _ _ => serviceRequestLapse_lapses,
   fun _ _ => locateCtrlWrite_stores⟩

end Sys2Proof.Machine
end

section
/-! PROOF. The coin cell (R99, R38), the wipe of the locket (R265 to R269) and the end of a debug allowance (R573, R574). -/

namespace Sys2Proof.Machine

open Sys2Proof

/-! ## The coin cell -/

theorem cellService_opens {s : State} {now : Nat} (hpow : s.powered = true) (hgood : s.power.pwrgd = true)
    (hnone : s.panel.cellService = none) :
    Reaches (execCellService now s) fun t =>
      t.panel = { s.panel with cellService := some ((s.at now).now + 600 * second), cellInserted := false } ∧
        (t.regNat evPanel).testBit 3 = true := by
  refine runs_raisePanel_reaches (u := s.at now) (State.at_acts .refl (by decide)) (by decide) ?_
  simp [hpow, hgood, hnone]

theorem cellInserted_good {s : State} {mv now : Nat} (hopen : s.panel.cellService.isSome = true) (hmv : 2600 ≤ mv) :
    Reaches (execCellInserted mv now s) fun t =>
      t.panel = { s.panel with coinMv := mv, cellService := none, cellInserted := false } ∧ (t.regNat evPanel).testBit 13 = true := by
  refine runs_raisePanel_reaches (u := s.at now) (State.at_acts .refl (by decide)) (by decide) ?_
  obtain ⟨d, hd⟩ := Option.isSome_iff_exists.1 hopen
  simp [hd, hmv]

theorem cellInserted_low {s : State} {mv now : Nat} (hopen : s.panel.cellService.isSome = true) (hmv : mv < 2600) :
    Reaches (execCellInserted mv now s) fun t =>
      t.panel = { s.panel with coinMv := mv, cellInserted := true } ∧ (t.regNat evPanel).testBit 11 = true := by
  refine runs_raisePanel_reaches (u := s.at now) (State.at_acts .refl (by decide)) (by decide) ?_
  obtain ⟨d, hd⟩ := Option.isSome_iff_exists.1 hopen
  simp [hd, Nat.not_le.2 hmv]

theorem cellServiceTimeout_closes {s : State} {now d : Nat} (hopen : s.panel.cellService = some d) (hexp : (s.at now).expired d = true)
    (hnone : s.panel.cellInserted = false) :
    Reaches (execCellServiceTimeout now s) fun t =>
      t.panel = { s.panel with cellService := none } ∧ (t.regNat evPanel).testBit 12 = true := by
  refine runs_raisePanel_reaches (u := s.at now) (State.at_acts .refl (by decide)) (by decide) ?_
  simp [hopen, hexp, hnone]

theorem State.at_cellFrom (s : State) (now : Nat) : (s.at now).clock.cellFrom = s.clock.cellFrom := by
  simp only [State.at]
  split <;> rfl

/-- A measured voltage is kept with its time, and raises CELL_LOW below 2.6 V and CELL_DEAD below 1.8 V. -/
theorem State.measureCell_measures (s : State) (mv : Nat) :
    (s.measureCell mv).panel.coinMv = mv ∧ (s.measureCell mv).clock.cellFrom = s.now ∧
      (mv < 2600 → ((s.measureCell mv).regNat evPanel).testBit 11 = true) ∧
        (mv < 1800 → ((s.measureCell mv).regNat evPanel).testBit 12 = true) := by
  unfold State.measureCell
  by_cases hlow : mv < 2600
  · by_cases hdead : mv < 1800
    · simp only [hlow, hdead, if_true, State.raisePanel_panel, State.raisePanel_clock, State.raisePanel_flag_lt (show 11 < 12 by decide),
        State.raisePanel_flag (show 11 < 32 by decide), State.raisePanel_flag (show 12 < 32 by decide), Nat.reduceLT, implies_true, and_self]
    · simp only [hlow, hdead, if_true, if_false, State.raisePanel_panel, State.raisePanel_clock,
        State.raisePanel_flag (show 11 < 32 by decide), implies_true, false_implies, and_self]
  · have halive : ¬ mv < 1800 := by omega
    simp only [hlow, halive, if_false, false_implies, and_self]

theorem coinCellMeasure_measures {s : State} {mv now : Nat} (hpow : s.powered = true)
    (hdue : (s.at now).expired (s.clock.cellFrom + 86400 * second) = true) :
    Reaches (execCoinCellMeasure mv now s) fun t => t.panel.coinMv = mv ∧ t.clock.cellFrom = (s.at now).now ∧
      (mv < 2600 → (t.regNat evPanel).testBit 11 = true) ∧ (mv < 1800 → (t.regNat evPanel).testBit 12 = true) := by
  refine runs_reaches_of_eq (ps := [.clock, .regs, .panel, .mgmt, .outbox]) (if_pos ?_)
    (State.measureCell_acts (State.at_acts .refl (by decide)) (by decide)) (by decide) (State.measureCell_measures (s.at now) mv)
  rw [State.at_powered, hpow, State.at_cellFrom, hdue, Bool.and_self]

/-! ## The parts that the wipe and the end of a debug mode leave alone -/

@[simp] theorem State.logEvent_sec (s : State) (g : LogArg) : (s.logEvent g).sec = s.sec :=
  (State.logEvent_acts (ps := [.log, .outbox]) .refl (by decide)).1 .sec (by decide)

@[simp] theorem State.logEvent_keepsake (s : State) (g : LogArg) : (s.logEvent g).keepsake = s.keepsake :=
  (State.logEvent_acts (ps := [.log, .outbox]) .refl (by decide)).1 .keepsake (by decide)

@[simp] theorem State.raise_sec (s : State) (a n : Nat) : (s.raise a n).sec = s.sec :=
  (State.raise_acts (ps := [.regs, .outbox]) .refl (by decide)).1 .sec (by decide)

@[simp] theorem State.clearHolds'_sec (s : State) : s.clearHolds'.sec = s.sec :=
  (State.clearHolds'_acts (ps := [.regs]) .refl (by decide)).1 .sec (by decide)

@[simp] theorem State.burnFuse_sec (s : State) (code : Nat) :
    (s.burnFuse code).sec = { s.sec with fuseLog := s.sec.fuseLog ++ [code] } := by
  rw [State.burnFuse, (State.sensorChange_acts (ps := [.mgmt]) .refl (by decide)).1 .sec (by decide), State.raise_sec]

/-! ## The wipe of the locket -/

/-- A wipe empties the locket and keeps its cause. It may burn a wipe fuse and leaves the rest of the security core alone. -/
theorem State.clearLocket_sec (s : State) (cause : Nat) :
    ∃ n, (s.clearLocket cause).sec = { s.sec with locket := Locket.reset, wipeCause := cause, wipeFuses := n } := by
  rw [State.clearLocket, State.logEvent_sec]
  exact ⟨_, rfl⟩

/-- A wipe is counted, up to the counter's largest value (R266). -/
theorem State.clearLocket_wipes (s : State) (cause : Nat) :
    (s.clearLocket cause).keepsake.wipes.toNat = min (s.keepsake.wipes.toNat + 1) 0xFFFFFF := by
  rw [State.clearLocket, State.logEvent_keepsake]
  exact Nat.mod_eq_of_lt (by omega)

/-! ## The end of a debug mode -/

theorem State.dropDebug_sec (s : State) : s.dropDebug.sec =
    if s.sec.debug = 0 then s.sec else { s.sec with debug := 0, debugExpiry := 0, locket := { s.sec.locket with grant := false } } := by
  unfold State.dropDebug
  split
  · rfl
  · rw [State.clearHolds'_sec, State.raise_sec]

/-- No debug mode is left, an empty locket stays empty, and the fuse log stays. -/
theorem State.dropDebug_drops (s : State) :
    s.dropDebug.sec.debug = 0 ∧ (s.sec.locket = Locket.reset → s.dropDebug.sec.locket = Locket.reset) ∧
      s.dropDebug.sec.fuseLog = s.sec.fuseLog := by
  rw [State.dropDebug_sec]
  split
  · next hnone => exact ⟨hnone, id, rfl⟩
  · exact ⟨rfl, fun hlocket => by rw [hlocket]; rfl, rfl⟩

/-- A transition burns its entry, empties the locket and leaves no debug mode. Where no command made it, its reset is due 10 ms on. -/
theorem State.transition_burns (s : State) (code : Nat) :
    (s.transition code none).sec.debug = 0 ∧ (s.transition code none).sec.locket = Locket.reset ∧
      (s.transition code none).sec.fuseLog = s.sec.fuseLog ++ [code] ∧ (s.transition code none).sec.resetDue = some (s.now + 10 * msec) := by
  obtain ⟨n, hwiped⟩ := (s.burnFuse code).clearLocket_sec 2
  obtain ⟨hdebug, hlocket, hfuses⟩ := ((s.burnFuse code).clearLocket 2).dropDebug_drops
  have hclock : (((s.burnFuse code).clearLocket 2).dropDebug).clock = s.clock :=
    (State.dropDebug_acts (State.clearLocket_acts (State.burnFuse_acts (ps := [.regs, .keepsake, .mgmt, .sec, .log, .outbox, .pcie]) .refl
      (by decide)) (by decide)) (by decide)).1 .clock (by decide)
  refine ⟨hdebug, hlocket (by rw [hwiped]), ?_, ?_⟩
  · rw [hwiped, State.burnFuse_sec] at hfuses
    exact hfuses
  · simp only [State.transition, Option.isSome_none, Bool.false_eq_true, if_false, State.now, hclock]

/-- A wipe that finds a debug mode ends it: no debug mode is left, and an empty locket stays empty. -/
theorem State.endDebug_wiped (s : State) (hlocket : s.sec.locket = Locket.reset) :
    (s.endDebug true none).sec.debug = 0 ∧ (s.endDebug true none).sec.locket = Locket.reset := by
  obtain ⟨hdebug, hkept, -⟩ := s.dropDebug_drops
  obtain ⟨hdebug', hlocket', -, -⟩ := s.dropDebug.transition_burns 2
  unfold State.endDebug
  split
  · next hnone => exact ⟨hnone, hlocket⟩
  · simp only [if_true]
    split
    · split
      · exact ⟨hdebug', hlocket'⟩
      · exact ⟨hdebug, hkept hlocket⟩
    · exact ⟨hdebug, hkept hlocket⟩

/-- A wipe for a cause: the locket is empty and no debug mode is left. One that finds no debug mode is the only wipe, and is counted. -/
theorem State.wipeLocket_wipes (s : State) (cause : Nat) :
    (s.wipeLocket cause).sec.locket = Locket.reset ∧ (s.wipeLocket cause).sec.debug = 0 ∧
      (s.sec.debug = 0 → (s.wipeLocket cause).sec.wipeCause = cause ∧
        (s.wipeLocket cause).keepsake.wipes.toNat = min (s.keepsake.wipes.toNat + 1) 0xFFFFFF) := by
  obtain ⟨n, hwiped⟩ := s.clearLocket_sec cause
  obtain ⟨hdebug, hlocket⟩ := (s.clearLocket cause).endDebug_wiped (by rw [hwiped])
  refine ⟨hlocket, hdebug, fun hnone => ?_⟩
  have hsame : s.wipeLocket cause = s.clearLocket cause := if_pos (by rw [hwiped]; exact hnone)
  rw [hsame]
  exact ⟨by rw [hwiped], s.clearLocket_wipes cause⟩

theorem locketParityError_wipes {s : State} {hub : Nat} (hhub : hub < 2) (hon : s.power.state ≠ .off) :
    Reaches (execLocketParityError hub s) fun t => t.sec.locket = Locket.reset ∧ t.sec.debug = 0 ∧
      (s.sec.debug = 0 → t.sec.wipeCause = 6 ∧ t.keepsake.wipes.toNat = min (s.keepsake.wipes.toNat + 1) 0xFFFFFF) := by
  refine runs_reaches_of_eq (ps := [.regs, .keepsake, .mgmt, .sec, .log, .outbox, .pcie]) (if_pos ?_)
    (State.wipeLocket_acts .refl (by decide)) (by decide) (s.wipeLocket_wipes 6)
  cases hstate : s.power.state with
  | off => exact absurd hstate hon
  | standby | idle | active => simp [hhub]

theorem locketWipe_wipes {s : State} {r : CmdRef} {k : Cmd} {hv : HostView} (hready : s.Ready 0x9002 r k) :
    Reaches (execLocketWipe r hv s) fun t => t.Answered r { result0 := t.keepsake.wipes.toNat } ∧ t.sec.locket = Locket.reset ∧
      t.sec.debug = 0 ∧
      (s.sec.debug = 0 → t.sec.wipeCause = 4 ∧ t.keepsake.wipes.toNat = min (s.keepsake.wipes.toNat + 1) 0xFFFFFF) := by
  have hcmd : ((s.meets hv k).wipeLocket 4).cmd r = some k := by
    rw [(State.wipeLocket_acts (ps := [.regs, .keepsake, .mgmt, .sec, .log, .outbox, .pcie]) .refl (by decide)).cmd (by decide)]
    exact hready.1
  refine hready.reaches ?_
  rw [hready.ref]
  exact ⟨State.finish_answered hcmd, (s.meets hv k).wipeLocket_wipes 4⟩

/-! ## The expiry of a debug allowance -/

theorem evSec_ne_accHold (n : Nat) (hn : n < 8) : evSec ≠ accHoldAt n ∧ evSec ≠ accHoldAt n + 4 := by
  simp only [evSec, blkSecurity, accHoldAt, blkPave, unitBlock]
  omega

/-- Zeroing 64-bit registers leaves a word that is none of theirs alone. -/
theorem State.foldl_set64_reg_ne {f : Nat → Nat} {l : List Nat} {b : Nat} (h : ∀ n ∈ l, b ≠ f n ∧ b ≠ f n + 4) (s : State) :
    (l.foldl (fun (t : State) n => t.set64 (f n) 0) s).reg b = s.reg b := by
  induction l generalizing s with
  | nil => rfl
  | cons n l ih =>
    obtain ⟨hlow, hhigh⟩ := h n List.mem_cons_self
    rw [List.foldl_cons, ih fun m hm => h m (List.mem_cons_of_mem _ hm), State.set64, State.reg_setNat_ne hhigh, State.reg_setNat_ne hlow]

/-- The clearing of the held accumulators leaves the security core's flags alone. -/
theorem State.clearHolds'_evSec (s : State) : s.clearHolds'.reg evSec = s.reg evSec :=
  State.foldl_set64_reg_ne (fun n hn => evSec_ne_accHold n (List.mem_range.1 hn)) s

/-- The end of a debug mode raises DEBUG_END. -/
theorem State.dropDebug_flag {s : State} (hdebug : s.sec.debug ≠ 0) : (s.dropDebug.regNat evSec).testBit 5 = true := by
  rw [State.dropDebug, if_neg hdebug, State.regNat, State.clearHolds'_evSec]
  exact State.raise_flag (by decide) (by decide) _

theorem debugExpiry_owner {s : State} {now : Nat} (hdebug : s.sec.debug = 2) (hexp : (s.at now).expired s.sec.debugExpiry = true) :
    Reaches (execDebugExpiry now s) fun t => t.sec.debug = 0 ∧ t.sec.locket = Locket.reset ∧ t.sec.wipeCause = 5 ∧
      (t.regNat evSec).testBit 5 = true := by
  obtain ⟨n, hwiped⟩ := (s.at now).dropDebug.clearLocket_sec 5
  obtain ⟨hnone, -, -⟩ := (s.at now).dropDebug_drops
  refine runs_reaches_of_eq (t := (s.at now).dropDebug.clearLocket 5)
    (ps := [.clock, .regs, .keepsake, .mgmt, .sec, .log, .outbox, .pcie]) ?_
    (State.clearLocket_acts (State.dropDebug_acts (State.at_acts .refl (by decide)) (by decide)) (by decide)) (by decide) ?_
  · simp [State.endDebug, hdebug, hexp]
  · rw [hwiped]
    refine ⟨hnone, rfl, rfl, ?_⟩
    have hregs := (State.clearLocket_acts (s := (s.at now).dropDebug) (cause := 5) (ps := [.keepsake, .mgmt, .sec, .log, .outbox, .pcie])
      .refl (by decide)).reg (by decide) (by decide) evSec
    rw [State.regNat, hregs]
    exact State.dropDebug_flag (by rw [State.at_sec, hdebug]; decide)

theorem debugExpiry_service {s : State} {now : Nat} (hdebug : s.sec.debug = 1) (hexp : (s.at now).expired s.sec.debugExpiry = true)
    (hfuses : s.fusesLeft = true) :
    Reaches (execDebugExpiry now s) fun t => t.sec.debug = 0 ∧ t.sec.locket = Locket.reset ∧
      t.sec.fuseLog = s.sec.fuseLog ++ [2] ∧ t.sec.resetDue = some ((s.at now).now + 10 * msec) := by
  obtain ⟨-, -, hlog⟩ := (s.at now).dropDebug_drops
  rw [State.at_sec] at hlog
  have hclock : (s.at now).dropDebug.clock = (s.at now).clock :=
    (State.dropDebug_acts (ps := [.regs, .sec, .outbox]) .refl (by decide)).1 .clock (by decide)
  have hburns := (s.at now).dropDebug.transition_burns 2
  rw [hlog, State.now, hclock] at hburns
  refine runs_reaches_of_eq (ps := [.clock, .regs, .keepsake, .mgmt, .sec, .log, .outbox, .pcie]) ?_
    (State.transition_acts (State.dropDebug_acts (State.at_acts .refl (by decide)) (by decide)) (by decide)) (by decide) hburns
  have hleft : (s.at now).dropDebug.fusesLeft = true := by
    rw [State.fusesLeft, hlog]
    exact hfuses
  simp [State.endDebug, hdebug, hexp, hleft]

/-- Settles O14: each row's own lemma, in the order of the clauses. -/
theorem cellServiceCompletes : Obligations.CellServiceCompletes :=
  ⟨fun _ _ => cellService_opens,
   fun _ _ _ => cellInserted_good,
   fun _ _ _ => cellInserted_low,
   fun _ _ _ => cellServiceTimeout_closes,
   fun _ _ _ => coinCellMeasure_measures,
   fun _ _ => locketParityError_wipes,
   fun _ _ _ _ => locketWipe_wipes,
   fun _ _ => debugExpiry_owner,
   fun _ _ => debugExpiry_service⟩

end Sys2Proof.Machine
end

section
/-! PROOF. Touches of the attention pads, reach modules that come and go (R18, R91 to R93), and fibres (R94, R95). -/

namespace Sys2Proof.Machine

open Sys2Proof

/-! ## Touches (Table 3-8) -/

/-- A counted touch of a socket with power: its module is powered down. -/
theorem State.touch_powered {s : State} {n : Nat} (hstate : (s.socket n).state = .powered) :
    (s.touch n).socket n = { s.socket n with state := .released, touches := (s.socket n).touches + 1 } ∧
      (s.touch n).mem = s.mem.forget (socketBase n) socketBytes := by
  simp only [State.touch, hstate, State.powerDown_socket, State.powerDown_mem, State.putSocket_socket, State.putSocket_mem, and_self]

/-- A counted touch of a socket in service requests its release. -/
theorem State.touch_inService {s : State} {n : Nat} (hstate : (s.socket n).state = .inService) :
    (s.touch n).socket n = { s.socket n with state := .releaseRequested, touches := (s.socket n).touches + 1 } ∧
      (s.touch n).mem = s.mem ∧ ((s.touch n).regNat evPanel).testBit 4 = true := by
  simp only [State.touch, hstate, State.raisePanel_socket, State.raisePanel_mem, State.putSocket_socket, State.putSocket_mem,
    State.raisePanel_flag (show 4 < 32 by decide), and_self]

/-- A counted touch takes a requested release back. -/
theorem State.touch_releaseRequested {s : State} {n : Nat} (hstate : (s.socket n).state = .releaseRequested) :
    (s.touch n).socket n = { s.socket n with
      state := if s.reachMap.testBit n then .inService else .powered, touches := (s.socket n).touches + 1 } := by
  simp only [State.touch, hstate, State.putSocket_socket]

/-- A touch that counts, as the arm of PAD_TOUCH runs it. -/
theorem padTouch_reaches {s : State} {n ms : Nat} {P : State → Prop} (hop : s.operating = true) (hn : n < 12) (hms : 100 ≤ ms)
    (h : P (s.touch n)) : Reaches (execPadTouch n ms s) P :=
  runs_reaches_of_eq (ps := [.regs, .mem, .panel, .mgmt, .outbox]) (if_pos (by simp [hop, hn, hms])) (State.touch_acts .refl (by decide))
    (by decide) h

/-! ## Modules that come -/

/-- The state that a socket takes for what its module's presence data gives; a module without any is refused. -/
def insertedState : Option ReachModule → SocketState
  | some m => if m.gib = 128 ∧ m.gbps = 136 then .powered else .refused
  | none => .refused

theorem reachInsert_brings_up {s : State} {n : Nat} {m : Option ReachModule} (hop : s.operating = true) (hn : n < 12)
    (hempty : (s.socket n).state = .empty) :
    Reaches (execReachInsert n m s) fun t =>
      t.socket n = { s.socket n with state := insertedState m } ∧ (t.regNat evPanel).testBit 5 = true := by
  refine runs_reaches_of_eq (t := (s.putSocket n { s.socket n with state := insertedState m }).raisePanel 5)
    (ps := [.regs, .panel, .mgmt, .outbox]) ?_ (State.raisePanel_acts (State.putSocket_acts .refl (by decide)) (by decide)) (by decide)
    ⟨?_, State.raisePanel_flag (by decide) _⟩
  · have hold : (SocketState.empty == SocketState.lost) = false := rfl
    cases m <;> simp [hop, hn, hempty, hold, insertedState, bootSocket]
  · rw [State.raisePanel_socket, State.putSocket_socket]

/-! ## Modules that go -/

/-- A removed module that had power and was not in service leaves an empty socket. -/
theorem State.reachRemove_powered {s : State} {n : Nat} (hstate : (s.socket n).state = .powered) :
    (s.reachRemove n).socket n = { s.socket n with state := .empty } ∧ (s.reachRemove n).mem = s.mem.forget (socketBase n) socketBytes ∧
      ((s.reachRemove n).regNat evPanel).testBit 6 = true := by
  simp only [State.reachRemove, hstate, State.raisePanel_socket, State.raisePanel_mem, State.putSocket_mem,
    State.raisePanel_flag (show 6 < 32 by decide), and_true]
  exact State.putSocket_socket

/-- A module removed in service leaves a LOST socket, whose contents are lost (R93). -/
theorem State.reachRemove_inService {s : State} {n : Nat} (hstate : (s.socket n).state = .inService) :
    (s.reachRemove n).socket n = { s.socket n with state := .lost } ∧ (s.reachRemove n).mem = s.mem.forget (socketBase n) socketBytes ∧
      ((s.reachRemove n).regNat evPanel).testBit 6 = true ∧ ((s.reachRemove n).regNat evPanel).testBit 7 = true := by
  simp only [State.reachRemove, hstate, State.loseSocket, State.raisePanel_socket, State.raisePanel_mem, State.putSocket_mem,
    State.raisePanel_flag_lt (show 6 < 7 by decide), State.raisePanel_flag (show 6 < 32 by decide),
    State.raisePanel_flag (show 7 < 32 by decide), Nat.reduceLT, and_true]
  exact State.putSocket_socket

/-- A removal, as the arm of REACH_REMOVE runs it: the socket's interface no longer retrains. -/
theorem reachRemove_reaches {s : State} {n : Nat} {P : State → Prop} (hop : s.operating = true) (hn : n < 12)
    (h : P { s.reachRemove n with retraining := (s.reachRemove n).retraining.filter (· != 16 + n) }) : Reaches (execReachRemove n s) P :=
  runs_reaches_of_eq (ps := [.regs, .mem, .moving, .panel, .mgmt, .outbox]) (if_pos (by simp [hop, hn]))
    (Acts.set_retraining (State.reachRemove_acts .refl (by decide)) (by decide)) (by decide) h

/-! ## Fibres -/

/-- What a changed sensor does at once: its new reading and time, its flag, and the panel's. -/
def State.sensed (s : State) (i : Nat) (present : Bool) (since : List (Nat × Nat)) : State :=
  (({ s with panel := { s.panel with fibres := putBit s.panel.fibres i present, fibresSince := since } } : State).raise evFibre i).raisePanel 8

@[simp] theorem State.raise_panel (s : State) (a n : Nat) : (s.raise a n).panel = s.panel :=
  (State.raise_acts (ps := [.regs, .outbox]) .refl (by decide)).1 .panel (by decide)

theorem counterWord_evFibre_ne (n : Nat) : evFibre ≠ counterWord evFibre n := by
  simp only [counterWord, show inDoorbells evFibre = false by decide, Bool.false_eq_true, if_false]
  omega

theorem State.sensed_shows {s : State} {i : Nat} {present : Bool} {since : List (Nat × Nat)} (hi : i < 24) :
    (s.sensed i present since).panel.fibres = putBit s.panel.fibres i present ∧
      ((s.sensed i present since).regNat evFibre).testBit i = true ∧ ((s.sensed i present since).regNat evPanel).testBit 8 = true := by
  refine ⟨?_, ?_, State.raisePanel_flag (by decide) _⟩
  · rw [State.sensed, State.raisePanel_panel, State.raise_panel]
  · rw [State.sensed, State.regNat, State.raisePanel_reg, State.raise_reg_ne (by decide) (by decide)]
    exact State.raise_flag (by omega) (counterWord_evFibre_ne i) _

/-- A port that is not up goes down without more: only its own state changes. -/
theorem State.linkDown_acts_of_not_up {ps : List Part} {z s : State} {p next : Nat} (hup : (s.port p).state ≠ 3) (hres : (s.port p).state ≠ 4)
    (hs : Acts ps z s) (hp : ∀ q ∈ ([.links, .mgmt] : List Part), q ∈ ps) : Acts ps z (s.linkDown p next) := by
  have hdown : ¬ ((s.port p).state = 3 || (s.port p).state = 4) = true := by simp [hup, hres]
  rw [State.linkDown, if_neg hdown]
  exact State.updPort_acts hs hp

/-- A changed sensor of a port that is not up: beside what it does at once, only the port's own state changes. -/
theorem State.fibreChange_acts_of_not_up {s : State} {i : Nat} {present : Bool} (hi : i < 24) (hnew : s.panel.fibres.testBit i ≠ present)
    (hup : (s.port (i / 3)).state ≠ 3) (hres : (s.port (i / 3)).state ≠ 4) :
    ∃ since, Acts [.links, .mgmt] (s.sensed i present since) (s.fibreChange i present) := by
  have hchange : ¬ (decide (24 ≤ i) || s.panel.fibres.testBit i == present) = true := by simp [hi, hnew]
  rw [State.fibreChange, if_neg hchange]
  extract_lets p _ t since _ u k
  have hport : u.port p = s.port p :=
    (State.raisePanel_acts (State.raise_acts (Acts.set_panel (Acts.set_panel (ps := [.regs, .panel, .mgmt, .outbox]) .refl (by decide))
      (by decide)) (by decide)) (by decide)).port (by decide)
  refine ⟨since, show Acts _ u _ from ?_⟩
  refine .ite .refl (.ite (.ite ?_ (.ite ?_ .refl)) ?_)
  · exact State.updPort_acts .refl (by decide)
  · exact State.updPort_acts .refl (by decide)
  · exact State.linkDown_acts_of_not_up (by rw [hport]; exact hup) (by rw [hport]; exact hres) .refl (by decide)

theorem fibreChange_records {s : State} {i : Nat} {present : Bool} {now : Nat} (hpow : s.powered = true) (hi : i < 24)
    (hnew : s.panel.fibres.testBit i ≠ present) (hup : (s.port (i / 3)).state ≠ 3) (hres : (s.port (i / 3)).state ≠ 4) :
    Reaches (execFibreChange i present now s) fun t => t.panel.fibres = putBit s.panel.fibres i present ∧
      (t.regNat evFibre).testBit i = true ∧ (t.regNat evPanel).testBit 8 = true := by
  have hport : (s.at now).port (i / 3) = s.port (i / 3) := (State.at_acts (ps := [.clock]) .refl (by decide)).port (by decide)
  rw [← s.at_panel now] at hnew ⊢
  rw [← hport] at hup hres
  obtain ⟨since, hacts⟩ := State.fibreChange_acts_of_not_up hi hnew hup hres
  have hpanel : ((s.at now).fibreChange i present).panel = ((s.at now).sensed i present since).panel := hacts.1 .panel (by decide)
  refine runs_reaches_of_eq (t := (s.at now).fibreChange i present)
    (ps := [.draws, .clock, .regs, .mem, .cmds, .weights, .links, .colls, .turns, .lockage, .panel, .mgmt, .log, .outbox])
    (if_pos (by rw [State.at_powered, hpow])) (State.fibreChange_acts (State.at_acts .refl (by decide)) (by decide)) (by decide) ?_
  rw [hpanel, State.regNat, State.regNat, hacts.reg (by decide) (by decide), hacts.reg (by decide) (by decide)]
  exact State.sensed_shows hi

/-- Settles O15: each row's own lemma, in the order of the clauses. -/
theorem touchAndSocketEventsComplete : Obligations.TouchAndSocketEventsComplete :=
  ⟨fun _ _ _ hop hn hms hstate => padTouch_reaches hop hn hms (State.touch_powered hstate),
   fun _ _ _ hop hn hms hstate => padTouch_reaches hop hn hms (State.touch_inService hstate),
   fun _ _ _ hop hn hms hstate => padTouch_reaches hop hn hms (State.touch_releaseRequested hstate),
   fun _ _ m => reachInsert_brings_up (m := some m),
   fun _ _ => reachInsert_brings_up (m := none),
   fun _ _ hop hn hstate => reachRemove_reaches hop hn (State.reachRemove_powered hstate),
   fun _ _ hop hn hstate => reachRemove_reaches hop hn (State.reachRemove_inService hstate),
   fun _ _ _ _ => fibreChange_records⟩

end Sys2Proof.Machine
end

section
/-! PROOF. BAR2 accesses (R74 to R76, R293) and ATOMIC (R289 to R291): what is answered, what is stored, and that no other byte changes. -/

namespace Sys2Proof.Machine

open Sys2Proof

/-! ## Reading off an access -/

/-- What holds of the state that a BAR2 access comes to, and says nothing of the spine, of the operation under way or of the queue of
commands, holds of the arm. -/
theorem runsHost_reaches_of_eq {f : State → State} {s t : State} {P : State → Prop} (hup : s.pcieUp = true) (hf : f s = t)
    (h : P { t with spine := s.spine, acting := s.acting, pending := s.pending }) : Reaches (runsHost f s) P := by
  subst hf
  exact runsHost_reaches hup h

@[simp] theorem State.tally_outbox (s : State) (write alloc : Bool) (a n : Nat) : (s.tally write alloc a n).outbox = s.outbox :=
  (State.tally_acts (ps := [.mem]) .refl (by decide)).1 .outbox (by decide)

@[simp] theorem State.recordHostWrite_mem (s : State) (fn a : Nat) (bs : List Byte) : (s.recordHostWrite fn a bs).mem = s.mem :=
  (State.recordHostWrite_acts (ps := [.logbook]) .refl (by decide)).1 .mem (by decide)

@[simp] theorem State.logBar2_mem (s : State) (fn a : Nat) : (s.logBar2 fn a).mem = s.mem := State.logEvent_mem ..

/-! ## Reads and writes of BAR2 -/

theorem bar2Read_answers {s : State} {fn off len a : Nat} (hup : s.pcieUp = true) (hplace : s.bar2Place fn off len = some a)
    (hgood : s.readStatus a len = none) :
    Reaches (execBar2Read fn off len s) fun t =>
      t.outbox = s.outbox ++ [Out.readBytes (s.bytesAt a len)] ∧ ∀ p, t.mem.get p = s.mem.get p := by
  refine runsHost_reaches_of_eq (t := ((s.actBar2 fn).tally false true a len).emit (.readBytes (s.bytesAt a len))) hup ?_
    ⟨?_, fun p => (State.tally_bytes (s := s.actBar2 fn)).get⟩
  · simp only [hplace, hgood]
  · rw [State.emit_outbox, State.tally_outbox]
    rfl

theorem bar2Write_stores {s : State} {fn off : Nat} {bytes : List Byte} {a : Nat} (hup : s.pcieUp = true)
    (hplace : s.bar2Place fn off bytes.length = some a) (hweights : s.inWeights a bytes.length = false)
    (hroom : s.bookHolds (placeHub s.spine.variant a) (8 + bytes.length) = false) :
    Reaches (execBar2Write fn off bytes s) fun t => t.mem = ((s.actBar2 fn).writeMem a bytes).mem ∧
      ∀ p, (∀ i, i < bytes.length → p ≠ ((s.actBar2 fn).noteMerge a bytes.length).phys (a + i)) → t.mem.get p = s.mem.get p := by
  have hstored : Reaches (execBar2Write fn off bytes s) fun t => t.mem = ((s.actBar2 fn).writeMem a bytes).mem := by
    refine runsHost_reaches hup ?_
    simp only [hplace, hweights, hroom, Bool.false_eq_true, if_false]
    split
    · exact State.recordHostWrite_mem ..
    · exact (State.logBar2_mem ..).trans (State.recordHostWrite_mem ..)
  refine hstored.mono fun t hmem => ⟨hmem, fun p hp => ?_⟩
  rw [hmem]
  exact State.writeMem_get hp

/-! ## One atomic operation -/

/-- The bytes of an operand (R290): 8 of INT64, 4 of the other types. -/
def atomicBytes (type : Nat) : Nat := if type = 1 then 8 else 4

/-- An operation whose operand reads well returns it and stores the operation's result in its place. -/
theorem State.atomicAt_applies {s : State} {op type a operand compare : Nat} (hgood : s.readStatus a (atomicBytes type) = none) :
    s.atomicAt op type a operand compare =
      (((s.tally false true a (atomicBytes type)).writeMem a
        (leBytes (atomicBytes type) (atomicValue op type (s.natAt a (atomicBytes type)) operand compare))).count
          (blkBasin (s.atomicHub a) + 0x58) 1, s.natAt a (atomicBytes type), none) := by
  rw [atomicBytes] at hgood
  simp only [State.atomicAt, atomicBytes, hgood]

/-- The store of an operation's result of n bytes leaves every byte outside its place alone. -/
theorem State.tally_writeMem_get {s : State} {a n v p : Nat} (h : ∀ i, i < n → p ≠ ((s.tally false true a n).noteMerge a n).phys (a + i)) :
    ((s.tally false true a n).writeMem a (leBytes n v)).mem.get p = s.mem.get p := by
  rw [State.writeMem_get (by rw [leBytes_length]; exact h), State.tally_bytes.get]

theorem bar2Atomicop_applies {s : State} {fn off : Nat} {op : AtomicOp} {operands : List Byte} {a n : Nat} (hup : s.pcieUp = true)
    (hop : op ≠ .cas) (hn : n = operands.length) (hsize : n = 4 ∨ n = 8) (hplace : s.bar2Place fn off n = some a) (hal : a % n = 0)
    (hweights : s.inWeights a n = false) (hroom : s.bookHolds (placeHub s.spine.variant a) (8 + n) = false)
    (hgood : (s.actBar2 fn).readStatus a n = none) :
    Reaches (execBar2Atomicop fn off op operands s) fun t =>
      t.outbox.getLast? = some (Out.readBytes (leBytes n ((s.actBar2 fn).natAt a n))) ∧
        (∀ p, t.mem.get p = (((s.actBar2 fn).tally false true a n).writeMem a (leBytes n (atomicValue (atomicCode op)
          (if n = 8 then 1 else 0) ((s.actBar2 fn).natAt a n) (fieldAt operands 0 n) (fieldAt operands 0 n)))).mem.get p) ∧
        ∀ p, (∀ i, i < n → p ≠ (((s.actBar2 fn).tally false true a n).noteMerge a n).phys (a + i)) → t.mem.get p = s.mem.get p := by
  have htype : atomicBytes (if n = 8 then 1 else 0) = n := by
    rcases hsize with rfl | rfl <;> rfl
  have happly := (s.actBar2 fn).atomicAt_applies (op := atomicCode op) (type := if n = 8 then 1 else 0) (a := a)
    (operand := fieldAt operands 0 n) (compare := fieldAt operands 0 n) (by rw [htype]; exact hgood)
  rw [htype] at happly
  have hshape : ((decide (n ≠ 4) && decide (n ≠ 8)) || decide (a % n ≠ 0)) = false := by
    rcases hsize with rfl | rfl <;> simp [hal]
  have hmem : Reaches (execBar2Atomicop fn off op operands s) fun t =>
      t.outbox.getLast? = some (Out.readBytes (leBytes n ((s.actBar2 fn).natAt a n))) ∧
        ∀ p, t.mem.get p = (((s.actBar2 fn).tally false true a n).writeMem a (leBytes n (atomicValue (atomicCode op)
          (if n = 8 then 1 else 0) ((s.actBar2 fn).natAt a n) (fieldAt operands 0 n) (fieldAt operands 0 n)))).mem.get p := by
    refine runsHost_reaches hup ?_
    simp only [hop, if_false, ← hn, hplace, hshape, hweights, hroom, Bool.false_eq_true, happly]
    refine ⟨List.getLast?_concat .., fun p => ?_⟩
    rw [State.emit_mem, State.recordHostWrite_mem, State.count_bytes.get]
  refine hmem.mono fun t ⟨hanswer, hstored⟩ => ⟨hanswer, hstored, fun p hp => ?_⟩
  rw [hstored]
  exact State.tally_writeMem_get hp

/-! ## ATOMIC -/

/-- What a command made of transfers answers: SUCCESS, or the status and index of the lowest that failed (R302). -/
def transfersAnswer : Option (Nat × Nat) → Answer
  | none => {}
  | some (st, i) => { status := st, result1 := i }

theorem State.finishTransfers_eq (s : State) (c : Cmd) (f : Option (Nat × Nat)) : s.finishTransfers c f = s.finish c.ref (transfersAnswer f) := by
  rcases f with _ | ⟨st, i⟩ <;> rfl

/-- A table that reads well and whose entries all name a place runs whole. -/
theorem State.atomic_runs {s u : State} {c : Cmd} (hu : u = s.tally false true (c.param 40 8) (24 * c.param 36 4))
    (hrefusal : theRefusal (s.atomicFails c) = none) (hgood : s.readStatus (c.param 40 8) (24 * c.param 36 4) = none)
    (hentries : ∀ e ∈ u.atomicTable c, u.atomicEntryFails c (fieldAt e.2 0 8) = none) :
    s.atomic c = (u.atomicAll c (u.atomicTable c)).1.finish c.ref (transfersAnswer (u.atomicAll c (u.atomicTable c)).2) := by
  have hall : (u.atomicTable c).findSome? (fun e => (u.atomicEntryFails c (fieldAt e.2 0 8)).map fun st => (st, e.1)) = none :=
    List.findSome?_eq_none_iff.2 fun e he => by rw [hentries e he]; rfl
  subst hu
  simp only [State.atomic, hrefusal, hgood, hall, State.finishTransfers_eq]

/-- Entries applied leave the commands in flight to be found as before. -/
theorem State.atomicAll_cmd (s : State) (c : Cmd) (es : List (Nat × List Byte)) (r : CmdRef) : (s.atomicAll c es).1.cmd r = s.cmd r :=
  (State.atomicAll_acts (ps := [.draws, .regs, .mem, .units, .weights, .log, .outbox]) .refl (by decide)).cmd (by decide)

theorem atomic_applies {s u : State} {r : CmdRef} {k : Cmd} {hv : HostView} (hready : s.Ready 0x4004 r k)
    (hu : u = (s.meets hv k).tally false true (k.param 40 8) (24 * k.param 36 4))
    (hrefusal : theRefusal ((s.meets hv k).atomicFails k) = none)
    (hgood : (s.meets hv k).readStatus (k.param 40 8) (24 * k.param 36 4) = none)
    (hentries : ∀ e ∈ u.atomicTable k, u.atomicEntryFails k (fieldAt e.2 0 8) = none) :
    Reaches (execAtomic r hv s) fun t => t.mem = (u.atomicAll k (u.atomicTable k)).1.mem ∧
      t.Answered r (transfersAnswer (u.atomicAll k (u.atomicTable k)).2) := by
  have hcmd : (u.atomicAll k (u.atomicTable k)).1.cmd r = some k := by
    rw [State.atomicAll_cmd, hu, (State.tally_acts (ps := [.mem]) .refl (by decide)).cmd (by decide)]
    exact hready.1
  refine hready.reaches ?_
  rw [State.atomic_runs hu hrefusal hgood hentries, hready.ref]
  exact ⟨rfl, State.finish_answered hcmd⟩

/-- A table of one entry that asks for no result and whose operand reads well: the operation is applied. -/
theorem State.atomicAll_one {u : State} {k : Cmd} {e : List Byte} (hresult : k.param 48 8 = 0)
    (hgood : u.readStatus (fieldAt e 0 8) (atomicBytes (k.param 33 1)) = none) :
    u.atomicAll k [(0, e)] = (((u.tally false true (fieldAt e 0 8) (atomicBytes (k.param 33 1))).writeMem (fieldAt e 0 8)
      (leBytes (atomicBytes (k.param 33 1)) (atomicValue (k.param 32 1) (k.param 33 1) (u.natAt (fieldAt e 0 8) (atomicBytes (k.param 33 1)))
        (fieldAt e 8 8) (fieldAt e 16 8)))).count (blkBasin (u.atomicHub (fieldAt e 0 8)) + 0x58) 1, none) := by
  simp only [State.atomicAll, List.foldl_cons, List.foldl_nil, State.atomicEntry, State.atomicAt_applies hgood, hresult, if_true,
    lowestFailure]

theorem atomic_applies_one {s u : State} {r : CmdRef} {k : Cmd} {hv : HostView} {e : List Byte} {n : Nat} (hready : s.Ready 0x4004 r k)
    (hrefusal : theRefusal ((s.meets hv k).atomicFails k) = none)
    (hu : u = (s.meets hv k).tally false true (k.param 40 8) (24 * k.param 36 4))
    (hgood : (s.meets hv k).readStatus (k.param 40 8) (24 * k.param 36 4) = none) (htable : u.atomicTable k = [(0, e)])
    (hentry : u.atomicEntryFails k (fieldAt e 0 8) = none) (hresult : k.param 48 8 = 0) (hn : n = atomicBytes (k.param 33 1))
    (hread : u.readStatus (fieldAt e 0 8) n = none) :
    Reaches (execAtomic r hv s) fun t => t.Answered r {} ∧
      (∀ p, t.mem.get p = ((u.tally false true (fieldAt e 0 8) n).writeMem (fieldAt e 0 8) (leBytes n
        (atomicValue (k.param 32 1) (k.param 33 1) (u.natAt (fieldAt e 0 8) n) (fieldAt e 8 8) (fieldAt e 16 8)))).mem.get p) ∧
      ∀ p, (∀ i, i < n → p ≠ ((u.tally false true (fieldAt e 0 8) n).noteMerge (fieldAt e 0 8) n).phys (fieldAt e 0 8 + i)) →
        t.mem.get p = s.mem.get p := by
  subst hn
  have hrun := atomic_applies hready hu hrefusal hgood (by rw [htable]; exact List.forall_mem_singleton.2 hentry)
  rw [htable, State.atomicAll_one hresult hread] at hrun
  refine hrun.mono fun t ⟨hmem, hanswer⟩ => ⟨hanswer, fun p => ?_, fun p hp => ?_⟩
  · rw [hmem, State.count_bytes.get]
  · rw [hmem, State.count_bytes.get, State.tally_writeMem_get hp, hu, State.tally_bytes.get]
    rfl

/-- Settles O19: each row's own lemma, in the order of the clauses. -/
theorem bar2AccessCompletes : Obligations.Bar2AccessCompletes :=
  ⟨fun _ _ _ _ _ => bar2Read_answers,
   fun _ _ _ _ _ => bar2Write_stores,
   fun _ _ _ _ _ _ _ => bar2Atomicop_applies,
   fun _ _ _ _ hready hrefusal hgood hentries => atomic_applies hready rfl hrefusal hgood hentries,
   fun _ _ _ _ _ _ _ hready hrefusal hu hgood htable hentry hresult hn hread _ =>
     atomic_applies_one hready hrefusal hu hgood htable hentry hresult hn hread⟩

end Sys2Proof.Machine
end

section
/-! PROOF. MCTP control, the PLDM base commands (R80, R81) and PLDM for platforms (R84, R85, R90): what is answered and what is kept. -/

namespace Sys2Proof.Machine

open Sys2Proof

/-! ## Reading off a request -/

/-- A request that only answers, where its protocol is heard. -/
theorem mgmt_answers {t : Transport} {p : MgmtProtocol} {f : State → State} {s : State} {code : Nat} {values : List Nat}
    (hhears : s.hears t p = true) (hlive : p ≠ .pldmUpdate ∨ s.retired = false) (hf : f s = s.answer t code values) :
    Reaches (mgmt t p f s) fun u => u.outbox = s.outbox ++ [.response t code values] :=
  mgmt_reaches hhears hlive (by rw [hf]; rfl)

/-! ## MCTP control and PLDM base -/

theorem setEndpointId_assigns {s : State} {t : Transport} {eid : Nat} (hhears : s.hears t .mctpControl = true) (hlow : 8 ≤ eid)
    (hhigh : eid < 255) :
    Reaches (execSetEndpointId t eid s) fun u => u.mgmt.eid = eid ∧ u.outbox = s.outbox ++ [.response t 0 [eid]] := by
  refine mgmt_reaches hhears (.inl (by decide)) ?_
  rw [if_neg (by simp [hlow, hhigh])]
  exact ⟨rfl, rfl⟩

/-- GET_ENDPOINT_UUID answers with the bytes of its identifier. -/
theorem getEndpointUuid_answers {s : State} {t : Transport} (hhears : s.hears t .mctpControl = true) :
    Reaches (execGetEndpointUuid t s) fun u =>
      u.outbox = s.outbox ++ [.responseBytes t 0 ((List.range 16).map fun i => BitVec.ofNat 8 (openValue i))] :=
  mgmt_reaches hhears (.inl (by decide)) rfl

theorem getPldmVersion_answers {s : State} {t : Transport} {type : Nat} (hhears : s.hears t .pldmBase = true) (htype : type ∈ [0, 2, 5]) :
    Reaches (execGetPldmVersion t type s) fun u => u.outbox = s.outbox ++ [.response t 0 [openValue (18 + type)]] := by
  refine mgmt_answers hhears (.inl (by decide)) (if_pos ?_)
  simp only [List.mem_cons, List.not_mem_nil, or_false] at htype
  rcases htype with rfl | rfl | rfl <;> rfl

theorem getPldmCommands_answers {s : State} {t : Transport} {type : Nat} {l : List Nat} (hhears : s.hears t .pldmBase = true)
    (hcmds : pldmCommands type = some l) :
    Reaches (execGetPldmCommands t type s) fun u => u.outbox = s.outbox ++ [.response t 0 l] :=
  mgmt_answers hhears (.inl (by decide)) (by simp only [hcmds])

theorem mgmtUnsupportedCommand_answers {s : State} {t : Transport} {protocol : MgmtProtocol} {cmd : Nat}
    (hhears : s.hears t protocol = true) (hspdm : protocol ≠ .spdm) :
    Reaches (execMgmtUnsupportedCommand t protocol cmd s) fun u => u.outbox = s.outbox ++ [.response t ccUnsupported []] := by
  refine runs_reaches ?_
  simp only [hhears, beq_false_of_ne hspdm, Bool.not_true, Bool.false_eq_true, if_false]
  rfl

/-- Settles O56: the rows that only answer by `mgmt_answers`, the others by their own lemmas, in the order of the clauses. -/
theorem mctpCommandsAnswer : Obligations.MctpCommandsAnswer :=
  ⟨fun _ _ _ => setEndpointId_assigns,
   fun s t hhears => show Reaches (execGetEndpointId t s) _ from mgmt_answers hhears (.inl (by decide)) rfl,
   fun _ _ => getEndpointUuid_answers,
   fun s t hhears => show Reaches (execGetMctpVersionSupport t s) _ from mgmt_answers hhears (.inl (by decide)) rfl,
   fun s t hhears => show Reaches (execGetMessageTypeSupport t s) _ from mgmt_answers hhears (.inl (by decide)) rfl,
   fun s t hhears => show Reaches (execGetTid t s) _ from mgmt_answers hhears (.inl (by decide)) rfl,
   fun _ _ _ => getPldmVersion_answers,
   fun s t hhears => show Reaches (execGetPldmTypes t s) _ from mgmt_answers hhears (.inl (by decide)) rfl,
   fun _ _ _ _ => getPldmCommands_answers,
   fun _ _ _ cmd => mgmtUnsupportedCommand_answers (cmd := cmd)⟩

/-! ## PLDM for platforms -/

theorem getPdr_answers {s : State} {t : Transport} {handle : Nat} {r : Nat × Nat} (hhears : s.hears t .pldmPlatform = true)
    (hhandle : 1 ≤ handle) (hrecord : pdrs[handle - 1]? = some r) :
    Reaches (execGetPdr t handle s) fun u =>
      u.outbox = s.outbox ++ [.response t 0 [if handle < pdrs.length then handle + 1 else 0, r.1, r.2]] :=
  mgmt_answers hhears (.inl (by decide)) (by simp only [Nat.max_eq_left hhandle, hrecord])

theorem getSensorReading_answers {s : State} {t : Transport} {id v : Nat} (hhears : s.hears t .pldmPlatform = true)
    (hsensor : s.numericSensor id = some v) :
    Reaches (execGetSensorReading t id s) fun u => u.outbox = s.outbox ++ [.response t 0 [v]] :=
  mgmt_answers hhears (.inl (by decide)) (by simp only [hsensor])

theorem getStateSensorReadings_answers {s : State} {t : Transport} {id v : Nat} (hhears : s.hears t .pldmPlatform = true)
    (hsensor : s.stateSensor id = some v) :
    Reaches (execGetStateSensorReadings t id s) fun u => u.outbox = s.outbox ++ [.response t 0 [v]] :=
  mgmt_answers hhears (.inl (by decide)) (by simp only [hsensor])

theorem setNumericEffecterValue_limits {s : State} {t : Transport} {v : Nat} (hhears : s.hears t .pldmPlatform = true)
    (hlimit : v = 0 ∨ (600 ≤ v ∧ v ≤ capTop s.spine.variant)) :
    Reaches (execSetNumericEffecterValue t 64 v s) fun u => u.mgmt.limit = v ∧ u.outbox = s.outbox ++ [.response t 0 []] := by
  refine mgmt_reaches hhears (.inl (by decide)) ?_
  rw [if_neg (not_not.2 rfl), if_pos (by simpa using hlimit)]
  exact ⟨rfl, rfl⟩

theorem setStateEffecterStates_locates {s : State} {t : Transport} {v : Nat} (hhears : s.hears t .pldmPlatform = true) (hv : v ≤ 1) :
    Reaches (execSetStateEffecterStates t 65 v s) fun u => u.panel.locate = (v == 1) ∧ u.outbox = s.outbox ++ [.response t 0 []] := by
  refine mgmt_reaches hhears (.inl (by decide)) ?_
  rw [if_neg (not_not.2 rfl), if_neg (Nat.not_lt.2 hv)]
  exact ⟨rfl, rfl⟩

theorem setEventReceiver_keeps {s : State} {t : Transport} {receiver : Nat} (hhears : s.hears t .pldmPlatform = true) :
    Reaches (execSetEventReceiver t receiver s) fun u =>
      u.mgmt.receiver = (if receiver = 0 then none else some (t, receiver)) ∧ u.outbox = s.outbox ++ [.response t 0 []] :=
  mgmt_reaches hhears (.inl (by decide)) ⟨rfl, rfl⟩

theorem eventMessageCollected_collects {s : State} {now : Nat} {t : Transport} {receiver : Nat} {e : Nat × Nat} {rest : List (Nat × Nat)}
    (hreceiver : s.mgmt.receiver = some (t, receiver)) (hevents : s.mgmt.events = e :: rest) :
    Reaches (execEventMessageCollected now s) fun u => u.mgmt.events = rest ∧ u.outbox = s.outbox ++ [.response t 0 [e.1, e.2]] := by
  refine runs_reaches ?_
  simp only [State.at_mgmt, hreceiver, hevents, State.answer, State.emit_mgmt, State.emit_outbox, State.at_outbox, and_self]

/-- Settles O57: the rows that only answer by `mgmt_answers`, the others by their own lemmas, in the order of the clauses. -/
theorem platformCommandsAnswer : Obligations.PlatformCommandsAnswer :=
  ⟨fun _ _ _ _ => getPdr_answers,
   fun s t hhears => show Reaches (execGetPdrRepositoryInfo t s) _ from mgmt_answers hhears (.inl (by decide)) rfl,
   fun _ _ _ _ => getSensorReading_answers,
   fun _ _ _ _ => getStateSensorReadings_answers,
   fun _ _ _ => setNumericEffecterValue_limits,
   fun s t hhears => show Reaches (execGetNumericEffecterValue t 64 s) _ from mgmt_answers hhears (.inl (by decide)) (if_pos rfl),
   fun _ _ _ => setStateEffecterStates_locates,
   fun _ _ _ => setEventReceiver_keeps,
   fun _ _ _ _ _ _ => eventMessageCollected_collects⟩

end Sys2Proof.Machine
end

section
/-! PROOF. PLDM for firmware update (R566, R567): an update goes through its phases, and the other slot follows the bytes written. -/

namespace Sys2Proof.Machine

open Sys2Proof

/-! ## The update and the other slot -/

@[simp] theorem State.putOther_otherSlot (s : State) (k : FwSlot) : (s.putOther k).otherSlot = k := by
  by_cases hslot : s.sec.bootSlot = 0 <;> simp [State.putOther, State.otherSlot, hslot]

@[simp] theorem State.putOther_outbox (s : State) (k : FwSlot) : (s.putOther k).outbox = s.outbox := by
  unfold State.putOther
  split <;> rfl

/-- A step of an update that is in one of the step's phases runs. -/
theorem State.inUpdate_runs {s : State} {t : Transport} {phases : List Nat} {f : FwUpdate → State} {w : FwUpdate}
    (hupdate : s.mgmt.update = some w) (hphase : w.phase ∈ phases) (hopen : w.phase ≠ 4) : s.inUpdate t phases f = f w := by
  simp only [State.inUpdate, hupdate, hopen, List.contains_iff_mem.2 hphase, if_false, if_true]

/-- A request for an update in one of its phases, heard by a device that is not RETIRED. -/
theorem update_reaches {s : State} {t : Transport} {phases : List Nat} {f : State → FwUpdate → State} {w : FwUpdate} {P : State → Prop}
    (hhears : s.hears t .pldmUpdate = true) (hlive : s.retired = false) (hupdate : s.mgmt.update = some w) (hphase : w.phase ∈ phases)
    (hopen : w.phase ≠ 4) (h : P { f s w with spine := s.spine, acting := s.acting, pending := s.pending }) :
    Reaches (mgmt t .pldmUpdate (fun s => s.inUpdate t phases (f s)) s) P := by
  refine mgmt_reaches hhears (.inr hlive) ?_
  rw [State.inUpdate_runs hupdate hphase hopen]
  exact h

/-! ## The rows -/

theorem requestUpdate_opens {s : State} {t : Transport} (hhears : s.hears t .pldmUpdate = true) (hlive : s.retired = false)
    (hnone : s.mgmt.update = none) :
    Reaches (execRequestUpdate t s) fun u => u.mgmt.update = some ⟨0, 0, []⟩ ∧ u.outbox = s.outbox ++ [.response t 0 []] := by
  have hidle : ¬ s.updating = true := by simp [State.updating, hnone]
  refine mgmt_reaches hhears (.inr hlive) ?_
  rw [if_neg hidle]
  exact ⟨rfl, rfl⟩

theorem passComponentTable_passes {s : State} {t : Transport} {w : FwUpdate} (hhears : s.hears t .pldmUpdate = true)
    (hlive : s.retired = false) (hupdate : s.mgmt.update = some w) (hphase : w.phase = 0) :
    Reaches (execPassComponentTable t 1 s) fun u =>
      u.mgmt.update = some { w with phase := 1 } ∧ u.outbox = s.outbox ++ [.response t 0 []] :=
  update_reaches hhears hlive hupdate (by simp [hphase]) (by simp [hphase]) ⟨rfl, rfl⟩

theorem updateComponent_downloads {s : State} {t : Transport} {size : Nat} {w : FwUpdate} (hhears : s.hears t .pldmUpdate = true)
    (hlive : s.retired = false) (hupdate : s.mgmt.update = some w) (hphase : w.phase = 1) :
    Reaches (execUpdateComponent t 1 size s) fun u => u.mgmt.update = some ⟨2, size, []⟩ ∧
      u.otherSlot = { s.otherSlot with activation := 0 } ∧ u.outbox = s.outbox ++ [.response t 0 []] :=
  update_reaches hhears hlive hupdate (by simp [hphase]) (by simp [hphase])
    ⟨rfl, State.putOther_otherSlot .., congrArg (· ++ _) (State.putOther_outbox ..)⟩

/-- The portion that makes an image whole is followed by TransferComplete, which changes nothing else. -/
theorem State.transferComplete_sends (s : State) (t : Transport) (w v : FwUpdate) :
    (s.transferComplete t w v).mgmt = s.mgmt ∧ (s.transferComplete t w v).otherSlot = s.otherSlot ∧
      (s.transferComplete t w v).outbox = s.outbox ++ if w.whole = false ∧ v.whole = true then [.response t 0 [0x16, 0]] else [] := by
  unfold State.transferComplete
  by_cases hwhole : w.whole = false ∧ v.whole = true
  · rw [if_pos (by simpa using hwhole), if_pos hwhole]
    exact ⟨rfl, rfl, rfl⟩
  · rw [if_neg (by simpa using hwhole), if_neg hwhole, List.append_nil]
    exact ⟨rfl, rfl, rfl⟩

theorem requestFirmwareData_appends {s : State} {t : Transport} {off : Nat} {bytes : List Byte} {w : FwUpdate}
    (hhears : s.hears t .pldmUpdate = true) (hlive : s.retired = false) (hupdate : s.mgmt.update = some w) (hphase : w.phase = 2)
    (hfits : off + bytes.length ≤ w.size) :
    Reaches (execRequestFirmwareData t off bytes s) fun u =>
      u.mgmt.update = some { w with image := putCells off bytes w.image } ∧
        u.otherSlot = s.slotOf { w with image := putCells off bytes w.image } ∧
        u.outbox = s.outbox ++ [.response t 0 []] ++
          (if w.whole = false ∧ FwUpdate.whole { w with image := putCells off bytes w.image } = true then [.response t 0 [0x16, 0]] else []) := by
  obtain ⟨hmgmt, hslot, houtbox⟩ := State.transferComplete_sends
    (((s.putOther (s.slotOf { w with image := putCells off bytes w.image })).putUpdate
      (some { w with image := putCells off bytes w.image })).answer t 0 []) t w { w with image := putCells off bytes w.image }
  refine update_reaches hhears hlive hupdate (by simp [hphase]) (by simp [hphase]) ?_
  rw [if_neg (Nat.not_lt.2 hfits)]
  refine ⟨congrArg Mgmt.update hmgmt, hslot.trans (State.putOther_otherSlot ..), houtbox.trans ?_⟩
  exact congrArg (· ++ _ ++ _) (State.putOther_outbox ..)

theorem verifyComplete_judges {s : State} {t : Transport} {w : FwUpdate} (hhears : s.hears t .pldmUpdate = true)
    (hlive : s.retired = false) (hupdate : s.mgmt.update = some w) (hphase : w.phase = 2) :
    Reaches (execVerifyComplete t s) fun u =>
      if s.otherSlot.passes = true ∧ (s.slotOf w).passes = true ∧ s.sec.fusedSvn ≤ s.otherSlot.svn then
        u.mgmt.update = some { w with phase := 3 } ∧ u.outbox = s.outbox ++ [.response t 0 [0], .response t 0 [0x18, 0]]
      else u.mgmt.update = some { w with phase := 1 } ∧ u.outbox = s.outbox ++ [.response t 0 [1]] := by
  refine update_reaches hhears hlive hupdate (by simp [hphase]) (by simp [hphase]) ?_
  by_cases hpass : s.otherSlot.passes = true ∧ (s.slotOf w).passes = true ∧ s.sec.fusedSvn ≤ s.otherSlot.svn
  · have hok : (s.otherSlot.passes && (s.slotOf w).passes && decide (s.sec.fusedSvn ≤ s.otherSlot.svn)) = true := by
      simpa [and_assoc] using hpass
    rw [if_pos hpass]
    simp only [hok, if_true]
    exact ⟨rfl, List.append_assoc ..⟩
  · have hok : (s.otherSlot.passes && (s.slotOf w).passes && decide (s.sec.fusedSvn ≤ s.otherSlot.svn)) = false := by
      simpa [and_assoc] using hpass
    rw [if_neg hpass]
    simp only [hok, Bool.false_eq_true, if_false]
    exact ⟨rfl, rfl⟩

theorem activateFirmware_activates {s : State} {t : Transport} {w : FwUpdate} (hhears : s.hears t .pldmUpdate = true)
    (hlive : s.retired = false) (hupdate : s.mgmt.update = some w) (hphase : w.phase = 3) :
    Reaches (execActivateFirmware t s) fun u => u.mgmt.update = some { w with phase := 4 } ∧
      u.otherSlot = { s.otherSlot with activation := s.bootSlot.activation + 1 } ∧ u.outbox = s.outbox ++ [.response t 0 []] :=
  update_reaches hhears hlive hupdate (by simp [hphase]) (by simp [hphase])
    ⟨rfl, State.putOther_otherSlot .., congrArg (· ++ _) (State.putOther_outbox ..)⟩

theorem cancelUpdateComponent_cancels {s : State} {t : Transport} {w : FwUpdate} (hhears : s.hears t .pldmUpdate = true)
    (hlive : s.retired = false) (hupdate : s.mgmt.update = some w) (hphase : w.phase = 2 ∨ w.phase = 3) :
    Reaches (execCancelUpdateComponent t s) fun u =>
      u.mgmt.update = some { w with phase := 1, image := [] } ∧ u.outbox = s.outbox ++ [.response t 0 []] :=
  update_reaches hhears hlive hupdate (by simpa using hphase) (by omega) ⟨rfl, rfl⟩

theorem cancelUpdate_cancels {s : State} {t : Transport} {w : FwUpdate} (hhears : s.hears t .pldmUpdate = true)
    (hlive : s.retired = false) (hupdate : s.mgmt.update = some w) (hphase : w.phase < 4) :
    Reaches (execCancelUpdate t s) fun u => u.mgmt.update = none ∧ u.outbox = s.outbox ++ [.response t 0 []] := by
  have hin : w.phase ∈ [0, 1, 2, 3] := by
    simp only [List.mem_cons, List.not_mem_nil, or_false]
    omega
  exact update_reaches hhears hlive hupdate hin (by omega) ⟨rfl, rfl⟩

/-- Settles O58: the rows that only answer by `mgmt_answers`, the others by their own lemmas, in the order of the clauses. -/
theorem firmwareUpdateCommandsAnswer : Obligations.FirmwareUpdateCommandsAnswer :=
  ⟨fun s t hhears hlive => show Reaches (execQueryDeviceIdentifiers t s) _ from mgmt_answers hhears (.inr hlive) rfl,
   fun s t hhears hlive => show Reaches (execGetFirmwareParameters t s) _ from mgmt_answers hhears (.inr hlive) rfl,
   fun _ _ => requestUpdate_opens,
   fun _ _ _ => passComponentTable_passes,
   fun _ _ _ _ => updateComponent_downloads,
   fun _ _ _ _ _ => requestFirmwareData_appends,
   fun _ _ _ => verifyComplete_judges,
   fun _ _ _ => activateFirmware_activates,
   fun s t hhears hlive => show Reaches (execGetStatus t s) _ from mgmt_answers hhears (.inr hlive) rfl,
   fun _ _ _ => cancelUpdateComponent_cancels,
   fun _ _ _ => cancelUpdate_cancels⟩

end Sys2Proof.Machine
end

section
/-! PROOF. SPDM, DOE and IDE key management (R78 to R83, R568, R569): how a request moves its connection, and what is answered. -/

namespace Sys2Proof.Machine

open Sys2Proof

/-! ## Connections -/

@[simp] theorem State.putSpdm_spdmPort (s : State) (t : Transport) (k : SpdmPort) : (s.putSpdm t k).spdmPort t = k := by
  cases t <;> rfl

@[simp] theorem State.putSpdm_draws (s : State) (t : Transport) (k : SpdmPort) : (s.putSpdm t k).draws = s.draws :=
  (State.putSpdm_acts (ps := [.mgmt]) .refl (by decide)).1 .draws (by decide)

@[simp] theorem State.putSpdm_outbox (s : State) (t : Transport) (k : SpdmPort) : (s.putSpdm t k).outbox = s.outbox :=
  (State.putSpdm_acts (ps := [.mgmt]) .refl (by decide)).1 .outbox (by decide)

/-- A transport's connection is part of what management holds. -/
theorem State.spdmPort_congr {s u : State} (h : u.mgmt = s.mgmt) (t : Transport) : u.spdmPort t = s.spdmPort t := by
  cases t <;> simp only [State.spdmPort, h]

/-! ## Reading off a request -/

/-- A request that only answers, at the stage it needs. -/
theorem atStage_answers {t : Transport} {n now : Nat} {f : State → SpdmPort → State} {s : State} {o : Out}
    (htaken : (s.at now).Converses t) (hstage : ((s.at now).spdmPort t).stage = n)
    (hf : f (s.at now) ((s.at now).spdmPort t) = (s.at now).emit o) :
    Reaches (spdm t true now (atStage n t f) s) fun u => u.outbox = s.outbox ++ [o] := by
  refine spdm_reaches htaken rfl ?_
  rw [atStage, if_pos hstage, hf, ← s.at_outbox now]
  rfl

/-- A request that moves its connection and answers, at the stage it needs. -/
theorem atStage_moves {t : Transport} {n now : Nat} {f : State → SpdmPort → State} {s : State} {k : SpdmPort} {values : List Nat}
    (htaken : (s.at now).Converses t) (hstage : ((s.at now).spdmPort t).stage = n)
    (hf : f (s.at now) ((s.at now).spdmPort t) = ((s.at now).putSpdm t k).answer t 0 values) :
    Reaches (spdm t true now (atStage n t f) s) fun u => u.spdmPort t = k ∧ u.outbox = s.outbox ++ [.response t 0 values] := by
  refine spdm_reaches htaken rfl ?_
  rw [atStage, if_pos hstage, hf, ← s.at_outbox now]
  exact ⟨State.putSpdm_spdmPort .., congrArg (· ++ _) (State.putSpdm_outbox ..)⟩

/-- A request within a session of the kind it needs. -/
theorem inSession_reaches {t : Transport} {finished : Bool} {session now : Nat} {f : State → SpdmPort → State} {s : State} {k : SpdmPort}
    {P : State → Prop} (htaken : (s.at now).Converses t) (hport : (s.at now).spdmPort t = k)
    (hin : k.sessions.contains (session, finished) = true)
    (h : P { f (s.at now) k with spine := s.spine, acting := s.acting, pending := s.pending }) :
    Reaches (spdm t true now (inSession finished t session f) s) P := by
  refine spdm_reaches htaken rfl ?_
  rw [hport, inSession, if_pos hin]
  exact h

/-! ## The connection -/

theorem getVersion_starts {s : State} {t : Transport} {now : Nat} (htaken : (s.at now).Converses t) :
    Reaches (execGetVersion t true now s) fun u =>
      (u.spdmPort t).stage = 1 ∧ (u.spdmPort t).sessions = [] ∧ u.outbox = s.outbox ++ [.response t 0 [0x12, 0x13]] := by
  refine spdm_reaches htaken rfl ?_
  have hport := State.putSpdm_spdmPort (s.at now) t { (s.at now).spdmPort t with stage := 1, sessions := [] }
  refine ⟨congrArg SpdmPort.stage hport, congrArg SpdmPort.sessions hport, ?_⟩
  rw [← s.at_outbox now]
  exact congrArg (· ++ _) (State.putSpdm_outbox ..)

theorem getCapabilities_moves {s : State} {t : Transport} {now : Nat} (htaken : (s.at now).Converses t)
    (hstage : ((s.at now).spdmPort t).stage = 1) :
    Reaches (execGetCapabilities t true now s) fun u =>
      (u.spdmPort t).stage = 2 ∧ u.outbox = s.outbox ++ [.response t 0 [openValue 33]] :=
  (atStage_moves htaken hstage rfl).mono fun _ ⟨hport, hanswer⟩ => ⟨congrArg SpdmPort.stage hport, hanswer⟩

theorem negotiateAlgorithms_moves {s : State} {t : Transport} {now : Nat} (htaken : (s.at now).Converses t)
    (hstage : ((s.at now).spdmPort t).stage = 2) :
    Reaches (execNegotiateAlgorithms t ⟨true, true, true, true⟩ true now s) fun u =>
      (u.spdmPort t).stage = 3 ∧ u.outbox = s.outbox ++ [.response t 0 []] :=
  (atStage_moves htaken hstage (if_pos rfl)).mono fun _ ⟨hport, hanswer⟩ => ⟨congrArg SpdmPort.stage hport, hanswer⟩

/-! ## What the device shows of itself -/

@[simp] theorem State.at_chain (s : State) (now : Nat) : (s.at now).chain = s.chain := by
  simp only [State.chain, State.at_spine]

theorem getDigests_answers {s : State} {t : Transport} {now : Nat} (htaken : (s.at now).Converses t)
    (hstage : ((s.at now).spdmPort t).stage = 3) :
    Reaches (execGetDigests t true now s) fun u => u.outbox = s.outbox ++ [.responseBytes t 0 (Config.sha512 s.chain)] :=
  atStage_answers htaken hstage (by rw [State.at_chain]; rfl)

theorem getCertificate_answers {s : State} {t : Transport} {off len now : Nat} (htaken : (s.at now).Converses t)
    (hstage : ((s.at now).spdmPort t).stage = 3) :
    Reaches (execGetCertificate t 0 off len true now s) fun u =>
      if off < s.chain.length then
        u.outbox = s.outbox ++ [.responseBytes t 0 (slice s.chain off (if t == .doe then min len doePayload else len))]
      else u.outbox.getLast? = some (.response t errInvalidRequest []) := by
  by_cases hoff : off < s.chain.length
  · simp only [hoff, if_true]
    exact atStage_answers htaken hstage (by simp [hoff, State.answerBytes])
  · simp only [hoff, if_false]
    refine spdm_reaches htaken rfl ?_
    simp [atStage, hstage, Nat.not_lt.1 hoff, State.spdmError, State.answer]

/-- A signed answer draws the device's nonce. -/
theorem State.answerSigned_signs (s : State) (t : Transport) (nonce content : List Byte) :
    (s.answerSigned t nonce content).draws = s.draws + 1 ∧ (s.answerSigned t nonce content).mgmt = s.mgmt ∧
      (s.answerSigned t nonce content).outbox = s.outbox ++ [.responseBytes t 0 (content ++ leBytes 8 (Config.random s.draws).toNat ++
        Config.signetSign s.draws (nonce ++ (content ++ leBytes 8 (Config.random s.draws).toNat)))] :=
  ⟨rfl, rfl, rfl⟩

theorem challenge_signs {s : State} {t : Transport} {nonce : List Byte} {now : Nat} (htaken : (s.at now).Converses t)
    (hstage : ((s.at now).spdmPort t).stage = 3) :
    Reaches (execChallenge t 0 nonce true now s) fun u => u.draws = s.draws + 1 ∧
      u.outbox = s.outbox ++ [.responseBytes t 0 (Config.sha512 s.chain ++ leBytes 8 (Config.random s.draws).toNat ++
        Config.signetSign s.draws (nonce ++ (Config.sha512 s.chain ++ leBytes 8 (Config.random s.draws).toNat)))] := by
  obtain ⟨hdraws, -, hanswer⟩ := (s.at now).answerSigned_signs t nonce (Config.sha512 (s.at now).chain)
  rw [State.at_draws] at hdraws
  rw [State.at_draws, State.at_outbox, State.at_chain] at hanswer
  refine spdm_reaches htaken rfl ?_
  rw [atStage, if_pos hstage, if_neg (not_not.2 rfl), State.at_chain]
  exact ⟨hdraws, hanswer⟩

theorem getMeasurements_answers {s : State} {t : Transport} {index now : Nat} {content : List Byte} (htaken : (s.at now).Converses t)
    (hstage : ((s.at now).spdmPort t).stage = 3) (hlow : 1 ≤ index) (hhigh : index ≤ 5)
    (hcontent : (s.at now).measurement index = some content) :
    Reaches (execGetMeasurements t index [] true now s) fun u => u.outbox = s.outbox ++ [.responseBytes t 0 content] := by
  have hcount : index ≠ 0 := by omega
  have hall : index ≠ 0xFF := by omega
  exact atStage_answers htaken hstage (by simp only [hcount, hall, if_false, hcontent]; rfl)

/-! ## Sessions -/

theorem keyExchange_opens {s : State} {t : Transport} {share : List Byte} {now : Nat} {k : SpdmPort} (htaken : (s.at now).Converses t)
    (hstage : ((s.at now).spdmPort t).stage = 3) (hport : (s.at now).spdmPort t = k) (hroom : k.sessions.length < 4) :
    Reaches (execKeyExchange t share true now s) fun u => (u.spdmPort t).sessions = k.sessions ++ [(k.nextSession, false)] ∧
      (u.spdmPort t).nextSession = k.nextSession + 1 ∧ u.draws = s.draws + 2 := by
  have hopen := State.putSpdm_spdmPort (s.at now) t
    { k with sessions := k.sessions ++ [(k.nextSession, false)], nextSession := k.nextSession + 1 }
  refine spdm_reaches htaken rfl ?_
  rw [atStage, if_pos hstage, hport, if_neg (Nat.not_le.2 hroom), ← s.at_draws now]
  exact ⟨congrArg SpdmPort.sessions hopen, congrArg SpdmPort.nextSession hopen, congrArg (· + 2) (State.putSpdm_draws ..)⟩

theorem finish_completes {s : State} {t : Transport} {session now : Nat} {k : SpdmPort} (htaken : (s.at now).Converses t)
    (hport : (s.at now).spdmPort t = k) (hin : k.sessions.contains (session, false) = true) :
    Reaches (execFinish t session true now s) fun u =>
      (u.spdmPort t).sessions = (k.sessions.map fun x => if x.1 = session then (session, true) else x) ∧
        u.outbox = s.outbox ++ [.response t 0 []] := by
  refine inSession_reaches htaken hport hin ?_
  rw [← s.at_outbox now]
  exact ⟨congrArg SpdmPort.sessions (State.putSpdm_spdmPort (s.at now) t _), congrArg (· ++ _) (State.putSpdm_outbox (s.at now) t _)⟩

theorem heartbeat_answers {s : State} {t : Transport} {session now : Nat} {k : SpdmPort} (htaken : (s.at now).Converses t)
    (hport : (s.at now).spdmPort t = k) (hin : k.sessions.contains (session, true) = true) :
    Reaches (execHeartbeat t session true now s) fun u => u.outbox = s.outbox ++ [.response t 0 []] :=
  inSession_reaches htaken hport hin (congrArg (· ++ _) (s.at_outbox now))

theorem keyUpdate_answers {s : State} {t : Transport} {session now : Nat} {k : SpdmPort} (htaken : (s.at now).Converses t)
    (hport : (s.at now).spdmPort t = k) (hin : k.sessions.contains (session, true) = true) :
    Reaches (execKeyUpdate t session true now s) fun u => u.outbox = s.outbox ++ [.response t 0 []] :=
  inSession_reaches htaken hport hin (congrArg (· ++ _) (s.at_outbox now))

theorem endSession_closes {s : State} {t : Transport} {session now : Nat} {k : SpdmPort} (htaken : (s.at now).Converses t)
    (hport : (s.at now).spdmPort t = k) (hin : k.sessions.contains (session, true) = true) :
    Reaches (execEndSession t session true now s) fun u =>
      (u.spdmPort t).sessions = (k.sessions.filter fun x => x.1 != session) ∧ u.outbox = s.outbox ++ [.response t 0 []] := by
  refine inSession_reaches htaken hport hin ?_
  rw [← s.at_outbox now]
  exact ⟨congrArg SpdmPort.sessions (State.putSpdm_spdmPort (s.at now) t _), congrArg (· ++ _) (State.putSpdm_outbox (s.at now) t _)⟩

/-! ## The fence -/

theorem spdmFence_holds {s : State} {t : Transport} {now : Nat} (hidle : ((s.at now).spdmPort t).busyUntil = none)
    (hmany : 64 ≤ ((s.at now).recent (10 * second) ((s.at now).spdmPort t).errorsAt).length) :
    Reaches (execSpdmFence t now s) fun u =>
      (u.spdmPort t).busyUntil = some ((s.at now).now + 10 * second) ∧ (u.spdmPort t).errorsAt = [] := by
  refine ⟨_, rfl, ?_⟩
  simp only [hidle, hmany, Option.isNone_none, decide_true, Bool.and_true, if_true]
  have hport := (State.spdmPort_congr (State.logEvent_mgmt _ { cause := 0x0006, cls := 0 }) t).trans
    (State.putSpdm_spdmPort (s.at now) t
      { (s.at now).spdmPort t with busyUntil := some ((s.at now).now + 10 * second), errorsAt := [] })
  exact ⟨congrArg SpdmPort.busyUntil hport, congrArg SpdmPort.errorsAt hport⟩

theorem spdmFenceExpiry_lifts {s : State} {t : Transport} {now b : Nat} (hbusy : ((s.at now).spdmPort t).busyUntil = some b)
    (hover : (s.at now).expired b = true) :
    Reaches (execSpdmFenceExpiry t now s) fun u =>
      (u.spdmPort t).busyUntil = none ∧ (u.spdmPort t).stage = ((s.at now).spdmPort t).stage := by
  refine ⟨_, rfl, ?_⟩
  simp only [hbusy, hover, if_true]
  have hport := State.putSpdm_spdmPort (s.at now) t { (s.at now).spdmPort t with busyUntil := none }
  exact ⟨congrArg SpdmPort.busyUntil hport, (congrArg SpdmPort.stage hport :)⟩

/-! ## DOE and IDE -/

theorem ideKm_keys {s : State} {session : Nat} {msg : IdeKm} (htaken : s.Converses .doe)
    (hin : s.mgmt.spdmDoe.sessions.contains (session, true) = true) (hsuits : keySuits msg = true) :
    Reaches (execIdeKm session msg s) fun u =>
      lookup msg.stream u.sec.locket.ideKeys = some msg ∧ u.outbox = s.outbox ++ [.response .doe 0 []] := by
  obtain ⟨hhears, hlive, hidle⟩ := htaken
  refine ⟨_, rfl, ?_⟩
  simp only [hhears, hlive, hidle, hin, hsuits, Bool.not_true, Bool.or_false, Bool.false_eq_true, if_false]
  exact ⟨lookup_insert, rfl⟩

theorem doeDiscovery_answers {s : State} {index : Nat} (hlink : s.pcieLink = true) (hindex : index < 3) :
    Reaches (execDoeDiscovery index s) fun u => u.outbox = s.outbox ++ [.response .doe 0 [1, index, (index + 1) % 3]] := by
  refine ⟨_, rfl, ?_⟩
  simp only [hlink, hindex, Bool.not_true, Bool.false_eq_true, if_false, if_true]
  rfl

/-- Settles O59: a request comes to what its own row does, at the stage or in the session it needs. -/
theorem spdmCommandsAnswer : Obligations.SpdmCommandsAnswer :=
  ⟨fun _ _ _ => ideKm_keys,
   fun _ _ => doeDiscovery_answers,
   fun _ _ _ => getVersion_starts,
   fun _ _ _ => getCapabilities_moves,
   fun _ _ _ => negotiateAlgorithms_moves,
   fun _ _ _ => getDigests_answers,
   fun _ _ _ _ _ => getCertificate_answers,
   fun _ _ _ _ => challenge_signs,
   fun _ _ _ _ _ => getMeasurements_answers,
   fun _ _ _ _ _ => keyExchange_opens,
   fun _ _ _ _ _ => finish_completes,
   fun _ _ _ _ _ => heartbeat_answers,
   fun _ _ _ _ _ => keyUpdate_answers,
   fun _ _ _ _ _ => endSession_closes,
   fun _ _ _ => spdmFence_holds,
   fun _ _ _ _ => spdmFenceExpiry_lifts⟩

end Sys2Proof.Machine
end

section
/-! SUPPORT. What the shared operations leave alone of commands in flight and of queues, and what a queue holds after an update. -/

namespace Sys2Proof.Machine

open Sys2Proof

/-! ## Reading off an arm -/

/-- What holds of the effect of a ready command that may go on later holds of the command's arm. -/
theorem State.Ready.reachesOn {s : State} {opcode : Nat} {r : CmdRef} {k : Cmd} {hv : HostView} {f : Cmd → State → State} {P : State → Prop}
    (h : s.Ready opcode r k) (hP : P { f k (s.meets hv k) with spine := s.spine, acting := s.acting, pending := s.pending }) :
    Reaches (runs (fun s => (s.sees hv).startOrGoOn opcode r f) s) P := by
  refine runs_reaches ?_
  rw [h.startOrGoOn]
  exact hP

/-! ## Queues -/

@[simp] theorem State.at_hellos (s : State) (now : Nat) : (s.at now).hellos = s.hellos :=
  ((State.at_acts (ps := [.clock]) .refl (by decide)).1 .queues (by decide)).1

@[simp] theorem State.at_queues (s : State) (now : Nat) : (s.at now).queues = s.queues :=
  ((State.at_acts (ps := [.clock]) .refl (by decide)).1 .queues (by decide)).2.1

@[simp] theorem State.at_reports (s : State) (now : Nat) : (s.at now).reports = s.reports :=
  ((State.at_acts (ps := [.clock]) .refl (by decide)).1 .queues (by decide)).2.2

@[simp] theorem State.raise_queues (s : State) (a n : Nat) : (s.raise a n).queues = s.queues :=
  ((State.raise_acts (ps := [.regs, .outbox]) .refl (by decide)).1 .queues (by decide)).2.1

@[simp] theorem State.logEvent_queues (s : State) (g : LogArg) : (s.logEvent g).queues = s.queues :=
  ((State.logEvent_acts (ps := [.log, .outbox]) .refl (by decide)).1 .queues (by decide)).2.1

/-- An update of a queue that exists stores the updated queue and changes nothing else. -/
theorem State.updQueue_eq {s : State} {n : Nat} {q : Queue} (hq : lookup n s.queues = some q) (f : Queue → Queue) :
    s.updQueue n f = { s with queues := insert n (f q) s.queues } := by
  simp only [State.updQueue, hq]

theorem State.updQueue_queue {s : State} {n : Nat} {q : Queue} (hq : lookup n s.queues = some q) (f : Queue → Queue) :
    lookup n (s.updQueue n f).queues = some (f q) := by
  rw [State.updQueue_eq hq, lookup_insert]

/-- A queue whose doorbell page is live is the one that the table holds. -/
theorem State.pageLive_lookup {s : State} {fn n : Nat} {q : Queue} (hlive : s.pageLive fn n = some q) : lookup n s.queues = some q := by
  unfold State.pageLive at hlive
  split at hlive
  · next k hk =>
    split at hlive
    · rw [hk, hlive]
    · cases hlive
  · cases hlive

theorem State.at_pageLive (s : State) (now fn n : Nat) : (s.at now).pageLive fn n = s.pageLive fn n := by
  unfold State.pageLive State.deleting State.creating
  rw [State.at_queues, State.at_inflight]

/-! ## Commands in flight -/

theorem State.at_earlier (s : State) (now : Nat) (r : CmdRef) : (s.at now).earlier r = s.earlier r := by
  rw [State.earlier, State.at_inflight, ← State.earlier]

/-- A command that has not started, and is no collective, ends with the status when it is abandoned: only its units and its outputs are
touched. -/
theorem State.abandonCmd_held {s : State} {d : Cmd} {st : Nat} (hheld : d.stage = .held) (hclass : d.opcode / 0x1000 ≠ 5) :
    s.abandonCmd d st = ((s.leaveUnits d).undefineOutputs d).finish d.ref { status := st } := by
  simp [State.abandonCmd, State.abandonReady, hheld, hclass]

theorem State.leaveUndefined_cmd (s : State) (d : Cmd) (r : CmdRef) : ((s.leaveUnits d).undefineOutputs d).cmd r = s.cmd r :=
  (State.undefineOutputs_acts (ps := [.draws, .regs, .mem, .host, .outbox, .acting])
    (State.leaveUnits_acts .refl (by decide)) (by decide)).cmd (by decide)

end Sys2Proof.Machine
end

section
/-! PROOF. Every command answers a next state (R129), and the short control commands complete (Table 4-9). -/

namespace Sys2Proof.Machine

open Sys2Proof

/-! ## Every command is answered -/

/-- Settles O3: the arm of every constructor runs an effect through `runs` or `runsSpine` (those of the host and of management among them),
and both answer a next state whatever the effect. -/
theorem everyCommandIsAnswered : Obligations.EveryCommandIsAnswered := by
  intro c s
  cases c <;> exact ⟨_, rfl⟩

/-! ## NOP, QUEUE_CREATE, QUEUE_DELETE -/

theorem nop_answers {s : State} {r : CmdRef} {k : Cmd} {hv : HostView} (hready : s.Ready 0x0000 r k) :
    Reaches (execNop r hv s) fun t => t.Answered r {} := by
  refine hready.reaches ?_
  rw [hready.ref]
  exact State.finish_answered hready.1

/-- The queue that a QUEUE_CREATE describes, at its creation values. -/
def Cmd.describedQueue (c : Cmd) : Queue :=
  newQueue (c.param 33 1) (c.param 34 1) (c.param 35 1) (c.param 36 1) (c.param 37 1) (c.param 38 2) (c.param 40 8) (c.param 48 8)

/-- A berth that is bound to a function exists. -/
theorem State.berthEnabledAt_of_bound {s : State} {epoch b fn : Nat} (hbound : s.berthBoundAt epoch b fn = true) :
    s.berthEnabledAt epoch b = true := (Bool.and_eq_true_iff.1 hbound).1

theorem State.queueCreate_adds {s : State} {c : Cmd} (hnew : lookup (c.param 32 1) s.queues = none)
    (hfn : s.functionEnabled (c.param 33 1) = true) (hberth : s.berthBoundAt c.epoch (c.param 34 1) (c.param 33 1) = true)
    (hsq : s.basinRingOk c.epoch (c.param 40 8) (32 * 2 ^ c.param 36 1) = true)
    (hcq : s.basinRingOk c.epoch (c.param 48 8) (32 * 2 ^ c.param 37 1) = true) :
    s.queueCreate c = ({ s with queues := insert (c.param 32 1) c.describedQueue s.queues } : State).finish c.ref {} := by
  have hfails : s.createFails c = none := by
    simp [State.createFails, hfn, State.berthEnabledAt_of_bound hberth, hsq, hcq]
  simp [State.queueCreate, hfails, hnew, hberth, Cmd.describedQueue]

theorem queueCreate_creates {s : State} {r : CmdRef} {k : Cmd} {hv : HostView} (hready : s.Ready 0x0001 r k)
    (hnew : lookup (k.param 32 1) s.queues = none) (hfn : s.functionEnabled (k.param 33 1) = true)
    (hberth : s.berthBoundAt k.epoch (k.param 34 1) (k.param 33 1) = true)
    (hsq : s.basinRingOk k.epoch (k.param 40 8) (32 * 2 ^ k.param 36 1) = true)
    (hcq : s.basinRingOk k.epoch (k.param 48 8) (32 * 2 ^ k.param 37 1) = true) :
    Reaches (execQueueCreate r hv s) fun t => t.Answered r {} ∧ t.queues = insert (k.param 32 1) k.describedQueue s.queues := by
  refine hready.reaches ?_
  rw [State.queueCreate_adds (s := s.meets hv k) hnew hfn hberth hsq hcq, hready.ref]
  exact ⟨State.finish_answered (k := k) hready.1, rfl⟩

theorem State.histSettle_idle {s : State} (hwaits : s.histWaits = []) : s.histSettle = s := by
  rw [State.histSettle, hwaits, List.length_nil, State.settle]

/-- A queue with nothing in flight has no command to end: what the emptying leaves of the commands and queues is what there was. -/
theorem State.emptyQueue_idle {s : State} {n : Nat} (st : Nat) (hnone : ∀ d ∈ s.inflight, d.queue ≠ n) (hwaits : s.histWaits = []) :
    (s.emptyQueue n st).inflight = s.inflight ∧ (s.emptyQueue n st).queues = s.queues := by
  have hmine : (s.inflight.filter fun c => c.queue == n) = [] := List.filter_eq_nil_iff.2 fun d hd => by simpa using hnone d hd
  have hkept : (s.inflight.filter fun c => c.queue != n) = s.inflight := List.filter_eq_self.2 fun d hd => by simpa using hnone d hd
  simp only [State.emptyQueue, hmine, List.foldl_nil]
  rw [State.histSettle_idle (by exact hwaits)]
  exact ⟨hkept, rfl⟩

theorem queueDelete_deletes {s : State} {r : CmdRef} {k : Cmd} {hv : HostView} (hready : s.Ready 0x0002 r k)
    (hqueue : (lookup (k.param 32 1) s.queues).isSome = true) (hnone : ∀ d ∈ s.inflight, d.queue ≠ k.param 32 1)
    (hwaits : s.histWaits = []) :
    Reaches (execQueueDelete r hv s) fun t => t.Answered r {} ∧ t.queues = erase (k.param 32 1) s.queues := by
  obtain ⟨hinflight, hqueues⟩ := State.emptyQueue_idle (s := s.meets hv k) stAborted hnone hwaits
  have hpaused : ((s.meets hv k).inflight.any fun d => d.queue == k.param 32 1 && (s.meets hv k).pausedOn d) = false :=
    List.any_eq_false.2 fun d hd => by simp [hnone d hd]
  have hsome : (lookup (k.param 32 1) (s.meets hv k).queues).isNone = false := by
    rw [← Option.not_isSome]
    exact congrArg not hqueue
  refine hready.reaches ?_
  simp only [State.queueDelete, hsome, hpaused, Bool.false_eq_true, if_false, hready.ref]
  exact ⟨State.finish_answered (k := k) ((State.cmd_congr hinflight).trans hready.1), congrArg (erase (k.param 32 1)) hqueues⟩

/-! ## ABORT -/

theorem abort_ends_held {s : State} {r : CmdRef} {k d : Cmd} {hv : HostView} (hready : s.Ready 0x0003 r k) (haims : k.aims = some d.seq)
    (hfind : s.inflight.find? (fun x => x.seq == d.seq) = some d) (hcmd : s.cmd d.ref = some d) (hheld : d.stage = .held)
    (hclass : d.opcode / 0x1000 ≠ 5) (hpaused : (s.meets hv k).pausedOn d = false) (hne : r ≠ d.ref) :
    Reaches (execAbort r hv s) fun t => t.Answered r {} ∧ t.Ended d.ref stAborted := by
  have habort : (s.meets hv k).abort k = ((s.meets hv k).abandonCmd d stAborted).finish r {} := by
    simp [State.abort, haims, show (s.meets hv k).inflight = s.inflight from rfl, hfind, hheld, hpaused, hready.ref]
  refine hready.reaches ?_
  rw [habort, State.abandonCmd_held hheld hclass]
  obtain ⟨e, hended, hdone, hstatus⟩ := State.finish_ended (a := { status := stAborted }) (((s.meets hv k).leaveUndefined_cmd d d.ref).trans hcmd)
  refine ⟨State.finish_answered (k := k) ?_, e, (State.finish_other hne).trans hended, hdone, hstatus⟩
  exact (State.finish_other hne.symm).trans (((s.meets hv k).leaveUndefined_cmd d r).trans hready.1)

theorem abort_of_gone {s : State} {r : CmdRef} {k : Cmd} {hv : HostView} {n : Nat} (hready : s.Ready 0x0003 r k) (haims : k.aims = some n)
    (hgone : s.inflight.find? (fun x => x.seq == n) = none) : Reaches (execAbort r hv s) fun t => t.Answered r {} := by
  refine hready.reaches ?_
  simp only [State.abort, haims, show (s.meets hv k).inflight = s.inflight from rfl, hgone, hready.ref]
  exact State.finish_answered hready.1

theorem abort_of_none {s : State} {r : CmdRef} {k : Cmd} {hv : HostView} (hready : s.Ready 0x0003 r k) (haims : k.aims = none) :
    Reaches (execAbort r hv s) fun t => t.Answered r { status := stNotFound } := by
  refine hready.reaches ?_
  simp only [State.abort, haims, hready.ref]
  exact State.finish_answered hready.1

/-! ## GET_LOG and MARGIN_PLAN -/

/-- A GET_LOG for records that are all older than FROM_SEQ answers where the log goes on. -/
theorem State.getLog_none {s : State} {c : Cmd} (hplace : s.logPlaceFails c = none) (hnone : ∀ x ∈ s.log.records, x.seq < c.param 32 4) :
    s.getLog c = s.finish c.ref { result1 := s.log.next.toNat } := by
  have hrecords : (s.log.records.filter fun x => decide (c.param 32 4 ≤ x.seq) && (c.param 40 1).testBit x.cls &&
      s.logShows c.fn c.berth x) = [] :=
    List.filter_eq_nil_iff.2 fun x hx => by simp [Nat.not_le.2 (hnone x hx)]
  simp only [State.getLog, hplace, hrecords, List.take_nil]
  rfl

theorem getLog_answers_none {s : State} {r : CmdRef} {k : Cmd} {hv : HostView} (hready : s.Ready 0x0004 r k)
    (hplace : (s.meets hv k).logPlaceFails k = none) (hnone : ∀ x ∈ s.log.records, x.seq < k.param 32 4) :
    Reaches (execGetLog r hv s) fun t => t.Answered r { result1 := s.log.next.toNat } := by
  refine hready.reaches ?_
  rw [State.getLog_none hplace hnone, hready.ref]
  exact State.finish_answered hready.1

theorem marginPlan_waits {s : State} {r : CmdRef} {k : Cmd} {hv : HostView} (hready : s.Ready 0x0008 r k) :
    Reaches (execMarginPlan r hv s) fun t => t.Waits r ∧ t.gov.planning = s.gov.planning ++ [(k.param 32 1, some r)] := by
  refine hready.reaches ?_
  rw [hready.ref]
  exact ⟨State.running_waits hready.1, rfl⟩

/-! ## POWER_STATE and QUIESCE -/

/-- The device is put under quiesce for a command that has not run yet: the command then waits. -/
theorem State.startQuiesce_device {s : State} {c : Cmd} (hstage : c.stage = .ready) :
    s.startQuiesce c 0xFF = { s.running c.ref with power := { s.power with
      quiesced := true, quiescing := s.power.quiescing ++ [(c.ref, 0xFF + if s.power.quiesced then 0x100 else 0)] } } := by
  simp [State.startQuiesce, State.putQuiesced, State.quiescedScope, State.running, State.updCmd, hstage]

/-- A command that has the device put under quiesce finds it at rest, or not, as it was before. -/
theorem State.startQuiesce_atRest {s : State} {c : Cmd} (hstage : c.stage = .ready) :
    (s.startQuiesce c 0xFF).atRest c 0xFF = s.atRest c 0xFF := by
  have hearlier : (s.startQuiesce c 0xFF).earlier c.ref = s.earlier c.ref := by
    rw [State.startQuiesce_device hstage]
    exact State.updCmd_earlier fun _ => rfl
  rw [State.atRest, hearlier, State.startQuiesce_device hstage]
  rfl

theorem State.Ready.stage {s : State} {opcode : Nat} {r : CmdRef} {k : Cmd} (h : s.Ready opcode r k) : k.stage = .ready := by
  obtain ⟨-, -, hstage, -⟩ := h
  exact hstage

/-- What a command comes to that put the device under quiesce and found it at rest, once the caches are written back: it is answered, the
device stays under quiesce, and no time has passed. -/
theorem State.endQuiesce_rests {ps : List Part} {s u : State} {c : Cmd} (ha : Acts ps (s.startQuiesce c 0xFF) u)
    (hps : .cmds ∉ ps ∧ .power ∉ ps ∧ .clock ∉ ps) (hstage : c.stage = .ready) (hcmd : s.cmd c.ref = some c) :
    ((u.endQuiesce c).finish c.ref {}).Answered c.ref {} ∧ u.power.quiesced = true ∧ u.now = s.now := by
  obtain ⟨hcmds, hpower, hclock⟩ := hps
  have ecmd := ha.cmd (r := c.ref) hcmds
  have epower : u.power = _ := ha.1 .power hpower
  have eclock : u.clock = _ := ha.1 .clock hclock
  rw [State.startQuiesce_device hstage] at ecmd epower eclock
  refine ⟨State.finish_answered (k := { c with stage := .running }) (ecmd.trans (State.updCmd_cmd hcmd fun _ => rfl)), ?_, ?_⟩
  · rw [epower]
  · rw [State.now, eclock]
    rfl

theorem powerState_idle {s : State} {r : CmdRef} {k : Cmd} {hv : HostView} (hready : s.Ready 0x0009 r k) (htarget : k.param 32 1 = 2) :
    Reaches (execPowerState r hv s) fun t => t.Answered r {} := by
  refine hready.reachesOn ?_
  simp only [State.powerStateCmd, htarget, if_true, hready.ref]
  exact State.finish_answered hready.1

theorem powerState_enters {s : State} {r : CmdRef} {k : Cmd} {hv : HostView} (hready : s.Ready 0x0009 r k) (htarget : k.param 32 1 ≠ 2)
    (hrest : s.atRest k 0xFF = true) :
    Reaches (execPowerState r hv s) fun t =>
      t.Answered r {} ∧ t.power.quiesced = true ∧ t.power.entering = some (k.param 32 1, s.now) := by
  obtain rfl := hready.ref
  obtain ⟨hanswered, hquiesced, hnow⟩ := State.endQuiesce_rests (s := s.meets hv k)
    (State.writeBackAll_acts (ps := [.draws, .regs, .mem, .weights, .log, .outbox]) .refl (by decide)) (by decide) hready.stage hready.1
  refine hready.reachesOn ?_
  simp only [State.powerStateCmd, htarget, if_false, State.startQuiesce_atRest hready.stage,
    show (s.meets hv k).atRest k 0xFF = true from hrest, if_true]
  exact ⟨hanswered, hquiesced, congrArg (fun n => some (k.param 32 1, n)) hnow⟩

theorem quiesce_ends {s : State} {r : CmdRef} {k : Cmd} {hv : HostView} (hready : s.Ready 0x000B r k) (hend : k.param 32 1 = 1)
    (hscope : k.param 33 1 = 0xFF) : Reaches (execQuiesce r hv s) fun t => t.Answered r {} ∧ t.power.quiesced = false := by
  refine hready.reachesOn ?_
  simp only [State.quiesce, hend, hscope, State.unquiesce, if_true, hready.ref]
  exact ⟨State.finish_answered (k := k) hready.1, rfl⟩

theorem quiesce_rests {s : State} {r : CmdRef} {k : Cmd} {hv : HostView} (hready : s.Ready 0x000B r k) (hstart : k.param 32 1 ≠ 1)
    (hscope : k.param 33 1 = 0xFF) (hrest : s.atRest k 0xFF = true) :
    Reaches (execQuiesce r hv s) fun t => t.Answered r {} ∧ t.power.quiesced = true := by
  obtain rfl := hready.ref
  obtain ⟨hanswered, hquiesced, -⟩ := State.endQuiesce_rests (s := s.meets hv k)
    (State.drainSluice_acts (ps := [.draws, .regs, .mem, .weights, .log, .outbox]) .refl (by decide)) (by decide) hready.stage hready.1
  refine hready.reachesOn ?_
  simp only [State.quiesce, hstart, if_false, hscope, State.startQuiesce_atRest hready.stage,
    show (s.meets hv k).atRest k 0xFF = true from hrest, if_true]
  exact ⟨hanswered, hquiesced⟩

/-! ## RESET_UNIT -/

/-- Nothing runs on a unit without a command, and with no collective open: stopping it changes nothing. -/
theorem State.stopOn_idle {s : State} {u st : Nat} (hcmd : s.cmdOn u = none) (hcolls : s.colls = []) : s.stopOn u st = s := by
  simp only [State.stopOn, hcmd, State.failUnitColls, hcolls, List.filter_nil, List.foldl_nil, ite_self]

theorem State.resetCompute_acts_of_idle {s : State} {u : Nat} (hcmd : s.cmdOn u = none) (hcolls : s.colls = []) :
    Acts [.regs, .mem, .units] s (s.resetCompute u) := by
  have hcleared : Acts [.regs, .mem, .units] s (((s.clearBanks u).forgetRegs (faultReg u) (unitBlock u + 0x30)).forgetCounters
      fun a => decide (unitBlock u ≤ a) && decide (a < unitBlock (u + 1))) :=
    State.forgetCounters_acts (State.forgetRegs_acts (State.clearBanks_acts .refl (by decide)) (by decide)) (by decide)
  rw [State.resetCompute, State.stopOn_idle hcmd hcolls]
  exact Acts.ite (Acts.set_units hcleared (by decide)) hcleared

/-- The reset of a pavé or engine with all that is noted of it: its incarnation, the flag, the end of the recording and the cause. -/
def State.computeRestarted (s : State) (u : Nat) : State := ((((s.resetCompute u).raiseUnit u).raise evReset 0).stopBook).resetCause 4 5 0 u

/-- What a restart does after the unit's own reset. -/
theorem State.computeRestarted_acts (s : State) (u : Nat) :
    Acts [.regs, .outbox, .logbook] ((s.resetCompute u).raiseUnit u) (s.computeRestarted u) :=
  State.resetCause_acts (State.stopBook_acts (State.raise_acts .refl (by decide)) (by decide)) (by decide)

theorem State.computeRestarted_spine {s : State} {u : Nat} (hcmd : s.cmdOn u = none) (hcolls : s.colls = []) :
    (s.computeRestarted u).spine = { s.spine with unitInc := raiseInc s.spine.unitInc u } := by
  have hunit : (s.resetCompute u).spine = s.spine := (State.resetCompute_acts_of_idle hcmd hcolls).1 .spine (by decide)
  have hrest : (s.computeRestarted u).spine = ((s.resetCompute u).raiseUnit u).spine := (s.computeRestarted_acts u).1 .spine (by decide)
  rw [hrest, State.raiseUnit, hunit]

theorem State.computeRestarted_cmd {s : State} {u : Nat} (hcmd : s.cmdOn u = none) (hcolls : s.colls = []) (r : CmdRef) :
    (s.computeRestarted u).cmd r = s.cmd r :=
  ((s.computeRestarted_acts u).cmd (by decide)).trans ((State.resetCompute_acts_of_idle hcmd hcolls).cmd (by decide))

theorem takesUnitReset_of_isCompute {u : Nat} (h : isCompute u = true) : takesUnitReset u = true ∧ u ≠ 0x71 := by
  simp only [isCompute, takesUnitReset, Bool.or_eq_true, Bool.and_eq_true, decide_eq_true_eq, beq_iff_eq] at h ⊢
  omega

theorem State.resetUnit_restarts {s : State} {c : Cmd} (hunit : isCompute (c.param 32 1) = true)
    (hexpect : c.param 34 2 = 0 ∨ c.param 34 2 = c.result0) :
    s.resetUnit c = (s.computeRestarted (c.param 32 1)).finish c.ref { result0 := (s.computeRestarted (c.param 32 1)).unitInc (c.param 32 1) } := by
  obtain ⟨htakes, hkeeper⟩ := takesUnitReset_of_isCompute hunit
  have hexpected : (decide (c.param 34 2 ≠ 0) && decide (c.param 34 2 ≠ c.result0)) = false := by
    rcases hexpect with h | h <;> simp [h]
  simp only [State.resetUnit, htakes, hexpected, hkeeper, hunit, Bool.not_true, Bool.false_eq_true, if_false, if_true, State.computeRestarted]

theorem resetUnit_resets {s : State} {r : CmdRef} {k : Cmd} {hv : HostView} (hready : s.Ready 0x000A r k)
    (hunit : isCompute (k.param 32 1) = true) (hexpect : k.param 34 2 = 0 ∨ k.param 34 2 = k.result0)
    (hidle : (s.meets hv k).cmdOn (k.param 32 1) = none) (hcolls : s.colls = []) :
    Reaches (execResetUnit r hv s) fun t =>
      t.Answered r { result0 := (nextInc (incOf s.spine.unitInc (k.param 32 1))).toNat } ∧ t.spine.epoch = s.spine.epoch ∧
        t.spine.unitInc = raiseInc s.spine.unitInc (k.param 32 1) := by
  have hspine : ((s.meets hv k).computeRestarted (k.param 32 1)).spine = { s.spine with unitInc := raiseInc s.spine.unitInc (k.param 32 1) } :=
    State.computeRestarted_spine hidle hcolls
  have hinc : ((s.meets hv k).computeRestarted (k.param 32 1)).unitInc (k.param 32 1) =
      (nextInc (incOf s.spine.unitInc (k.param 32 1))).toNat := by
    simp only [State.unitInc, hspine, raiseInc, incOf, lookup_insert, Option.getD_some]
  refine runsSpine_reaches ?_
  rw [hready.start, State.resetUnit_restarts hunit hexpect, hready.ref, hinc]
  have hepoch : ((s.meets hv k).computeRestarted (k.param 32 1)).spine.epoch = s.spine.epoch := by rw [hspine]
  have hraised : ((s.meets hv k).computeRestarted (k.param 32 1)).spine.unitInc = raiseInc s.spine.unitInc (k.param 32 1) := by rw [hspine]
  exact ⟨State.finish_answered (k := k) ((State.computeRestarted_cmd hidle hcolls r).trans hready.1), hepoch, hraised⟩

/-- Settles O12: each command's own lemma, in the order of the clauses. -/
theorem controlCommandsComplete : Obligations.ControlCommandsComplete :=
  ⟨fun _ _ _ _ => nop_answers,
   fun _ _ _ _ => queueCreate_creates,
   fun _ _ _ _ => queueDelete_deletes,
   fun _ _ _ _ _ => abort_ends_held,
   fun _ _ _ _ _ => abort_of_gone,
   fun _ _ _ _ => abort_of_none,
   fun _ _ _ _ => getLog_answers_none,
   fun _ _ _ _ => marginPlan_waits,
   fun _ _ _ _ => powerState_idle,
   fun _ _ _ _ => powerState_enters,
   fun _ _ _ _ => resetUnit_resets,
   fun _ _ _ _ => quiesce_ends,
   fun _ _ _ _ => quiesce_rests⟩

end Sys2Proof.Machine
end

section
/-! PROOF. Doorbells, queue reset and fence, and HELLO (R108, R110, R111, R124, R126). -/

namespace Sys2Proof.Machine

open Sys2Proof

/-! ## Doorbells -/

/-- A good doorbell of a live page, after the function's HELLO, moves the queue's index. -/
theorem State.doorbell_moves {s : State} {fn n : Nat} {v : Word} {q : Queue} {bad : Queue → Nat → Bool} {put : Queue → Nat → Queue}
    (hhello : (lookup fn s.hellos).isSome = true) (hlive : s.pageLive fn n = some q) (hgood : bad q v.toNat = false) :
    s.doorbell fn n v bad put = { s with queues := insert n (put q v.toNat) s.queues } := by
  have hmet : (lookup fn s.hellos).isNone = false := by rw [← Option.not_isSome, hhello, Bool.not_true]
  simp only [State.doorbell, hmet, hlive, hgood, Bool.false_eq_true, if_false]
  exact State.updQueue_eq (State.pageLive_lookup hlive) _

theorem sqTailWrite_moves {s : State} {fn n : Nat} {v : Word} {now : Nat} {q : Queue} (hup : s.pcieUp = true)
    (hhello : (lookup fn s.hellos).isSome = true) (hlive : s.pageLive fn n = some q) (hgood : q.badTail v.toNat = false) :
    Reaches (execSqTailWrite fn n v now s) fun t => t.queues = insert n { q with tail := v.toNat } s.queues := by
  refine runsHost_reaches hup ?_
  rw [State.doorbell_moves (by rwa [State.at_hellos]) (by rwa [State.at_pageLive]) hgood, State.at_queues]

theorem cqHeadWrite_moves {s : State} {fn n : Nat} {v : Word} {now : Nat} {q : Queue} (hup : s.pcieUp = true)
    (hhello : (lookup fn s.hellos).isSome = true) (hlive : s.pageLive fn n = some q) (hgood : q.badHead v.toNat = false)
    (hreports : s.reports = []) :
    Reaches (execCqHeadWrite fn n v now s) fun t => t.queues = insert n { q with cqHead := v.toNat } s.queues := by
  refine runsHost_reaches hup ?_
  simp only [State.doorbell_moves (s := s.at now) (by rwa [State.at_hellos]) (by rwa [State.at_pageLive]) hgood, State.at_reports, hreports,
    List.length_nil, State.flushReports, State.at_queues]

/-! ## Queue reset and fence -/

/-- A queue that is put in reset with nothing in flight takes its creation values again at once (R111). -/
theorem State.updQueue_resets {s : State} {n : Nat} {q : Queue} {f : Queue → Queue} (hq : lookup n s.queues = some q)
    (hreset : (f q).status = .resetting) (hidle : s.inflightOf n = 0) :
    lookup n ((s.updQueue n f).resetQueueDone n).queues =
      some { f q with head := 0, tail := 0, cqHead := 0, cqNext := 0, phase := true, status := .active } := by
  have hput := State.updQueue_queue hq f
  have hnone : (s.updQueue n f).inflightOf n = 0 := by rw [State.updQueue_eq hq]; exact hidle
  simp only [State.resetQueueDone, hput, hreset, hnone, decide_true, beq_self_eq_true, Bool.and_self, if_true]
  exact State.updQueue_queue hput _

theorem queueReset_resets {s : State} {fn n : Nat} {q : Queue} (hup : s.pcieUp = true) (hlive : s.pageLive fn n = some q)
    (hidle : s.inflightOf n = 0) :
    Reaches (execQueueReset fn n s) fun t => lookup n t.queues = some { q with
      refusedAt := [], badAt := [], head := 0, tail := 0, cqHead := 0, cqNext := 0, phase := true, status := .active } := by
  refine runsHost_reaches hup ?_
  simp only [hlive]
  exact State.updQueue_resets (State.pageLive_lookup hlive) rfl hidle

theorem queueFence_fences {s : State} {n now : Nat} {q : Queue} (hq : lookup n s.queues = some q) (hdue : (s.at now).fenceDue q = true)
    (hopen : q.status ≠ .fenced) :
    Reaches (execQueueFence n now s) fun t => lookup n t.queues = some { q with status := .fenced, refusedAt := [], badAt := [] } := by
  rw [← s.at_queues now] at hq
  refine runs_reaches ?_
  simp only [hq, hdue, if_true, State.fenceQueue, hopen, if_false, State.updQueue_eq hq, State.logEvent_queues, State.raise_queues,
    lookup_insert]

/-! ## HELLO -/

theorem State.putHelloReply_hellos (s : State) (fn : Nat) (bs : List Byte) : (s.putHelloReply fn bs).hellos = s.hellos :=
  ((State.putHelloReply_acts (ps := [.regs]) .refl (by decide)).1 .queues (by decide)).1

/-- The mailbox shows DONE. -/
theorem State.putHelloReply_done (s : State) (fn : Nat) (bs : List Byte) : (s.putHelloReply fn bs).reg (helloBase fn + 0x200) = 4 := by
  rw [State.putHelloReply, State.setNat, State.reg_setReg_same]
  rfl

theorem hello_negotiates {s : State} {fn : Nat} {v : Word} (hup : s.pcieUp = true) (hgo : v.toNat.testBit 0 = true)
    (hbooted : s.power.booting = .none) (hgood : s.helloFails fn (s.helloRequest fn) = none) :
    Reaches (execHello fn v s) fun t =>
      t.hellos = insert fn (⟨min (fieldAt (s.helloRequest fn) 2 2) 0x0100, fieldAt (s.helloRequest fn) 8 4 &&& deviceFeatures⟩ : Hello)
        s.hellos ∧ t.reg (helloBase fn + 0x200) = 4 := by
  refine runsHost_reaches_of_acts (ps := [.regs, .queues]) hup rfl (State.hello_acts .refl (by decide)) (by decide) ?_
  simp only [State.hello, hgo, hbooted, hgood, bne_self_eq_false, Bool.not_true, Bool.or_self, Bool.false_eq_true, if_false]
  refine ⟨(State.putHelloReply_hellos ..).trans ?_, State.putHelloReply_done ..⟩
  split <;> rfl

/-- Settles O21: each row's own lemma, in the order of the clauses. -/
theorem queueRegistersAct : Obligations.QueueRegistersAct :=
  ⟨fun _ _ _ _ _ _ => sqTailWrite_moves,
   fun _ _ _ _ _ _ => cqHeadWrite_moves,
   fun _ _ _ _ => queueReset_resets,
   fun _ _ _ _ => queueFence_fences,
   fun _ _ _ => hello_negotiates⟩

end Sys2Proof.Machine
end

section
/-! PROOF. Packets are fetched, commands start, time out and are answered (R114 to R117, R123). -/

namespace Sys2Proof.Machine

open Sys2Proof

/-! ## The start behind a fence, and the deadline -/

theorem fencedCommandStart_readies {s : State} {c : CmdRef} {now : Nat} {d : Cmd} (hcmd : s.cmd c = some d) (hheld : d.stage = .held)
    (hfree : fenceHolds (s.earlier c) d = false) :
    Reaches (execFencedCommandStart c now s) fun t => t.cmd c = some { d with stage := .ready } := by
  rw [← s.at_cmd now] at hcmd
  rw [← s.at_earlier now] at hfree
  refine runs_reaches ?_
  simp only [hcmd, hheld, hfree, decide_true, Bool.not_false, Bool.and_self, if_true]
  exact State.updCmd_cmd hcmd fun _ => rfl

theorem commandTimeout_ends {s : State} {c : CmdRef} {now : Nat} {d : Cmd} {dl : Nat} (hcmd : s.cmd c = some d) (hdeadline : d.deadline = some dl)
    (hdue : (s.at now).expired dl = true) (hsafe : (s.at now).pausedOn d = false) (hheld : d.stage = .held)
    (hclass : d.opcode / 0x1000 ≠ 5) : Reaches (execCommandTimeout c now s) fun t => t.Answered c { status := stTimedOut } := by
  rw [← s.at_cmd now] at hcmd
  refine runs_reaches ?_
  simp only [hcmd, hdeadline, hdue, hsafe, Bool.not_false, Bool.and_self, if_true, State.abandonCmd_held hheld hclass, State.cmd_ref hcmd]
  exact State.finish_answered (k := d) ((State.leaveUndefined_cmd ..).trans hcmd)

/-! ## The newest command in flight -/

theorem updateFirst_concat {α : Type} {p : α → Bool} {f : α → α} {l : List α} {a : α} (hl : ∀ x ∈ l, p x = false) (ha : p a = true) :
    updateFirst p f (l ++ [a]) = l ++ [f a] := by
  induction l with
  | nil => simp [updateFirst, ha]
  | cons x l ih => simp [updateFirst, hl x (by simp), ih fun y hy => hl y (by simp [hy])]

/-- A reference that names no command in flight: none bears its name. -/
theorem State.cmd_none {s : State} {r : CmdRef} (h : s.cmd r = none) : ∀ d ∈ s.inflight, d.is r.queue r.tag = false := fun d hd => by
  simpa using List.find?_eq_none.1 h d hd

/-- The newest command in flight, of a name that no older one bears. -/
structure State.Newest (s : State) (l : List Cmd) (c : Cmd) : Prop where
  inflight : s.inflight = l ++ [c]
  fresh : ∀ d ∈ l, d.is c.queue c.tag = false

theorem Cmd.is_self (c : Cmd) : c.is c.queue c.tag = true := by simp [Cmd.is]

theorem State.Newest.cmd {s : State} {l : List Cmd} {c : Cmd} (h : s.Newest l c) : s.cmd c.ref = some c := by
  rw [State.cmd, h.inflight, List.find?_append, List.find?_eq_none.2 fun d hd => by simp [Cmd.ref, h.fresh d hd]]
  simp [Cmd.ref, Cmd.is_self]

theorem State.Newest.earlier {s : State} {l : List Cmd} {c : Cmd} (h : s.Newest l c) : s.earlier c.ref = l := by
  rw [State.earlier, h.inflight, List.takeWhile_append_of_pos fun d hd => by simp [Cmd.ref, h.fresh d hd]]
  simp [Cmd.ref, Cmd.is_self]

theorem State.Newest.updCmd {s : State} {l : List Cmd} {c : Cmd} (h : s.Newest l c) (f : Cmd → Cmd) :
    (s.updCmd c.ref f).inflight = l ++ [f c] := by
  rw [State.updCmd, h.inflight]
  exact updateFirst_concat h.fresh c.is_self

/-- A fetched command joins as the newest one. -/
theorem State.join_newest {s : State} {c : Cmd} (hfresh : s.cmd c.ref = none) : (s.join c).Newest s.inflight { c with seq := s.fetches } :=
  ⟨rfl, State.cmd_none hfresh⟩

/-! ## The fetch -/

/-- The stage of a command at its grant: a fence holds it, or it is ready (R114). -/
def grantStage (earlier : List Cmd) (c : Cmd) : Stage := if fenceHolds earlier c then .held else .ready

/-- The arbiter grants a command that waits, with no COMMIT before it and checks 13 and 14 passed. -/
theorem State.Newest.grant {s : State} {deep : Deep} {l : List Cmd} {c : Cmd} {q : Queue} (h : s.Newest l c)
    (hq : lookup c.queue s.queues = some q) (hwaits : c.stage = .waiting) (hcommit : commitHolds l c = false)
    (hgood : s.acceptFails q c.packet = none) :
    (s.grant deep c.ref).inflight = l ++ [{ s.accepted deep c with stage := grantStage l c }] := by
  have hgrant : s.grant deep c.ref = ((s.updCmd c.ref fun d => { s.accepted deep d with stage := grantStage l c }).noteAccepted c).record
      (queueHub c.queue) 2 c.queue c.packet := by
    simp only [State.grant, h.cmd, hq, hwaits, h.earlier, hcommit, hgood, ne_eq, not_true_eq_false, decide_false, Bool.or_self,
      Bool.false_eq_true, if_false]
    rfl
  have hkept := ((State.record_acts (ps := [.colls, .logbook]) (hub := queueHub c.queue) (kind := 2) (source := c.queue) (body := c.packet)
    (State.noteAccepted_acts (c := c) (s := s.updCmd c.ref fun d => { s.accepted deep d with stage := grantStage l c }) .refl (by decide))
    (by decide)).1 .cmds (by decide)).2
  rw [hgrant, hkept, h.updCmd]

/-- A packet that a queue may fetch lies in the ring as a whole. -/
theorem State.fetchable_posted {s : State} {n : Nat} {q : Queue} (hfetch : s.fetchable n q = true) : s.nextLength q ≤ q.posted := by
  simp only [State.fetchable, Bool.and_eq_true, decide_eq_true_eq] at hfetch
  obtain ⟨⟨⟨⟨-, hposted⟩, -⟩, -⟩, -⟩ := hfetch
  exact hposted

theorem State.fetch_turn {s : State} {deep : Deep} {n : Nat} {q : Queue} (hq : lookup n s.queues = some q) (hfetch : s.fetchable n q = true)
    (hmark : s.marking = false) (hroom : s.inflight.length < 4096) (hround : q.round < q.weight) :
    s.fetch deep n = s.fetchFrom deep n q := by
  simp [State.fetch, hq, hfetch, hmark, Nat.not_le.2 hroom, State.roundTurn, hround]

/-- The LENGTH that the header of a queue's next packet gives. -/
def State.headerLength (s : State) (q : Queue) : Nat := fieldAt (s.slots q q.head 1).1 2 1

/-- A queue's next packet p lies in a host ring as a whole, reads well, may be fetched now and passes the checks of Table 4-6. -/
structure State.Offers (s : State) (deep : Deep) (n : Nat) (q : Queue) (p : List Byte) : Prop where
  base : basinRing q.sqBase = false
  fetchable : s.fetchable n q = true
  headerReads : (s.slots q q.head 1).2 = false
  packet : p = (s.slots q q.head (s.headerLength q)).1
  packetReads : (s.slots q q.head (s.headerLength q)).2 = false
  notEmpty : 1 ≤ s.headerLength q
  atMost : s.headerLength q ≤ 16
  noQuiesce : s.quiesceStops n q (fieldAt p 0 2) (fieldAt p 14 1) = false
  bookRoom : s.bookHolds (queueHub n) p.length = false
  checks : s.packetFails deep n q p = none

/-- A packet that its queue offers goes to the acceptance arbiter. -/
theorem State.Offers.fetchFrom {s : State} {deep : Deep} {n : Nat} {q : Queue} {p : List Byte} (h : s.Offers deep n q p) :
    s.fetchFrom deep n q = ((s.advanceHead n (s.headerLength q)).join { fetched n q p s.now with stage := .waiting }).grant deep
      (fetched n q p s.now).ref := by
  have hheader : fieldAt (s.slots q q.head 1).1 2 1 = s.headerLength q := rfl
  have hsuits : (decide (s.headerLength q = 0) || decide (16 < s.headerLength q)) = false := by
    simp [Nat.not_lt.2 h.atMost, Nat.one_le_iff_ne_zero.1 h.notEmpty]
  have hlength : s.nextLength q = s.headerLength q := by
    simp only [State.nextLength, hheader, h.headerReads, Bool.false_or, hsuits, Bool.false_eq_true, if_false]
  have hwhole : ¬ q.posted < s.headerLength q := Nat.not_lt.2 (hlength ▸ s.fetchable_posted h.fetchable)
  simp only [State.fetchFrom, h.base, h.headerReads, hheader, hsuits, hwhole, h.packetReads, ← h.packet, h.noQuiesce, h.bookRoom, h.checks,
    Bool.or_self, Bool.false_eq_true, if_false]

/-- A queue whose head has passed a packet of len slots. -/
def Queue.advanced (q : Queue) (len : Nat) : Queue := { q with head := (q.head + len) % 2 ^ q.sqLog2, round := q.round + 1 }

theorem State.advanceHead_eq {s : State} {n : Nat} {q : Queue} (hq : lookup n s.queues = some q) (len : Nat) :
    s.advanceHead n len = { s with queues := insert n (q.advanced len) s.queues } := State.updQueue_eq hq _

/-- A fetched command's name is free, no COMMIT of its queue is in flight: it is accepted and joins those in flight. -/
theorem State.fetched_joins {s : State} {deep : Deep} {n len : Nat} {q : Queue} {p : List Byte} (hq : lookup n s.queues = some q)
    (hfresh : s.cmd ⟨n, fieldAt p 4 4⟩ = none) (hcommit : ∀ d ∈ s.inflight, d.queue = n → d.opcode ≠ 0x1002)
    (hgood : s.acceptFails q p = none) :
    ∃ c, (((s.advanceHead n len).join { fetched n q p s.now with stage := .waiting }).grant deep (fetched n q p s.now).ref).inflight =
        s.inflight ++ [c] ∧ c.queue = n ∧ c.tag = fieldAt p 4 4 ∧ c.opcode = fieldAt p 0 2 ∧ c.fn = q.fn ∧ c.packet = p ∧
      c.seq = s.fetches ∧ c.epoch = s.spine.epoch.toNat ∧ c.stage = if fenceHolds s.inflight c then .held else .ready := by
  rw [State.advanceHead_eq hq]
  have hnew := State.join_newest (c := { fetched n q p s.now with stage := .waiting })
    (s := { s with queues := insert n (q.advanced len) s.queues }) hfresh
  have hfree : commitHolds s.inflight { fetched n q p s.now with stage := .waiting, seq := s.fetches } = false :=
    List.any_eq_false.2 fun d hd hcommits => by
      simp only [Bool.and_eq_true, beq_iff_eq] at hcommits
      obtain ⟨⟨hmine, hop⟩, -⟩ := hcommits
      exact hcommit d hd hmine hop
  exact ⟨_, hnew.grant lookup_insert rfl hfree hgood, rfl, rfl, rfl, rfl, rfl, rfl, rfl, rfl⟩

theorem packetFetch_joins {s z : State} {n now : Nat} {hv : HostView} {q : Queue} {p : List Byte} (hup : s.pcieUp = true)
    (hz : z = (s.at now).sees hv) (hq : lookup n s.queues = some q) (hoffers : z.Offers deepChecks n q p) (hmark : z.marking = false)
    (hroom : z.inflight.length < 4096) (hround : q.round < q.weight) (hfresh : s.cmd ⟨n, fieldAt p 4 4⟩ = none)
    (hcommit : ∀ d ∈ s.inflight, d.queue = n → d.opcode ≠ 0x1002) (hgood : z.acceptFails q p = none) :
    Reaches (execPacketFetch n now hv s) fun t => ∃ c, t.inflight = s.inflight ++ [c] ∧ c.queue = n ∧ c.tag = fieldAt p 4 4 ∧
      c.opcode = fieldAt p 0 2 ∧ c.fn = q.fn ∧ c.packet = p ∧ c.seq = s.fetches ∧ c.epoch = s.spine.epoch.toNat ∧
      c.stage = if fenceHolds s.inflight c then .held else .ready := by
  have hzq : lookup n z.queues = some q := by rw [hz]; exact (congrArg (lookup n) (s.at_queues now)).trans hq
  have hflight : z.inflight = s.inflight := by rw [hz]; exact s.at_inflight now
  have hfetches : z.fetches = s.fetches := by rw [hz]; exact ((State.at_acts (ps := [.clock]) .refl (by decide)).1 .cmds (by decide)).1
  have hspine : z.spine = s.spine := by rw [hz]; exact s.at_spine now
  refine runsHost_reaches hup ?_
  rw [← hz, State.fetch_turn hzq hoffers.fetchable hmark hroom hround, hoffers.fetchFrom, ← hflight, ← hfetches, ← hspine]
  exact State.fetched_joins hzq ((State.cmd_congr hflight).trans hfresh) (hflight ▸ hcommit) hgood

/-! ## The completion -/

/-- A queue after one more reply: PHASE turns at the end of a pass (R104). -/
def Queue.replied (q : Queue) : Queue :=
  { q with cqNext := if q.cqNext + 1 == 2 ^ q.cqLog2 then 0 else q.cqNext + 1, phase := if q.cqNext + 1 == 2 ^ q.cqLog2 then !q.phase else q.phase }

/-- A reply to a ring in host memory that takes the write is stored there, and the ring's next entry follows. -/
theorem State.postReply_host {s : State} {n : Nat} {q : Queue} {bs : List Byte} {interrupt : Bool} (hq : lookup n s.queues = some q)
    (hbase : basinRing q.cqBase = false) (hhost : s.hostFails (q.cqBase + q.cqNext * 32) bs.length = false) :
    (s.postReply n q bs interrupt).queues = insert n q.replied s.queues ∧
      (s.postReply n q bs interrupt).host = (s.hostWrite (q.cqBase + q.cqNext * 32) bs).host := by
  have hwritten : s.ringWrite q.cqBase (q.cqNext * 32) bs = (s.hostWrite (q.cqBase + q.cqNext * 32) bs, false) := by
    simp only [State.ringWrite, hbase, hhost, Bool.false_eq_true, if_false]
  have hmoved := State.updQueue_eq (s := s.hostWrite (q.cqBase + q.cqNext * 32) bs) (n := n) hq
  simp only [State.postReply, hwritten, hmoved, Bool.false_eq_true, if_false]
  cases interrupt <;> exact ⟨rfl, rfl⟩

theorem State.reply_length (s : State) (c : Cmd) (q : Queue) : (s.reply c q).length = 32 := by
  simp [State.reply]

/-- No command in flight waits for the arbiter. -/
def State.NoneWaits (s : State) : Prop := ∀ x ∈ s.inflight, x.stage ≠ .waiting

theorem State.NoneWaits.congr {s t : State} (h : s.NoneWaits) (hflight : t.inflight = s.inflight) : t.NoneWaits := by
  rwa [State.NoneWaits, hflight]

theorem State.NoneWaits.dropCmd {s : State} (h : s.NoneWaits) (r : CmdRef) : (s.dropCmd r).NoneWaits :=
  fun x hx => h x (List.mem_of_mem_eraseP hx)

theorem State.NoneWaits.handScale {s : State} (h : s.NoneWaits) (slot : Nat) : (s.handScale slot).NoneWaits := by
  intro x hx
  obtain ⟨c, hc, rfl⟩ := List.mem_map.1 hx
  rw [apply_ite Cmd.stage, ite_self]
  exact h c hc

theorem State.NoneWaits.settle {s : State} (h : s.NoneWaits) (n : Nat) : (s.settle n).NoneWaits := by
  induction n generalizing s with
  | zero => exact h
  | succ n ih =>
    unfold State.settle
    split
    · exact h
    · next w _ =>
      refine ih (State.NoneWaits.handScale (h.congr ?_) w.slot)
      split
      · exact ((State.histAdvance_acts (ps := [.regs]) .refl (by decide)).1 .cmds (by decide)).2
      · exact ((State.histReset_acts (ps := [.regs]) .refl (by decide)).1 .cmds (by decide)).2

/-- The release of fences changes no stage but that of a held command. -/
theorem State.NoneWaits.releaseFences {s : State} (h : s.NoneWaits) : s.releaseFences.NoneWaits := by
  refine List.foldlRecOn (motive := fun acc : List Cmd × List Cmd => ∀ x ∈ acc.2, x.stage ≠ .waiting) s.inflight _ (by simp) ?_
  intro acc hacc c hc x hx
  rcases List.mem_append.1 hx with hx | hx
  · exact hacc x hx
  · rw [List.mem_singleton.1 hx]
    split
    · exact Stage.noConfusion
    · exact h c hc

theorem State.grantWaiting_none {s : State} {deep : Deep} {n : Nat} (h : s.NoneWaits) : s.grantWaiting deep n = s := by
  have hnone : (s.inflight.filter fun c => c.queue == n && c.stage == .waiting) = [] :=
    List.filter_eq_nil_iff.2 fun c hc => by simp [h c hc]
  rw [State.grantWaiting, hnone, List.foldl_nil]

/-- A queue that does not reset stays as it is. -/
theorem State.resetQueueDone_open {s : State} {n : Nat} {q : Queue} (hq : lookup n s.queues = some q) (hopen : q.status ≠ .resetting) :
    s.resetQueueDone n = s := by
  simp [State.resetQueueDone, hq, hopen]

/-- A finished command out of flight, and what its going lets on: writes to its scale-history slot, and the commands behind its fence. -/
def State.takeOut (s : State) (r : CmdRef) : State := (s.dropCmd r).histSettle.releaseFences

theorem State.takeOut_acts (s : State) (r : CmdRef) : Acts [.regs, .cmds, .hist] s (s.takeOut r) :=
  State.releaseFences_acts (State.histSettle_acts (State.dropCmd_acts .refl (by decide)) (by decide)) (by decide)

theorem State.NoneWaits.takeOut {s : State} (h : s.NoneWaits) (r : CmdRef) : (s.takeOut r).NoneWaits :=
  ((h.dropCmd r).settle _).releaseFences

/-- The completion ring of d's queue, q, has room for its reply in host memory that takes the write. -/
structure State.TakesReply (s : State) (d : Cmd) (q : Queue) : Prop where
  queue : lookup d.queue s.queues = some q
  active : q.status = .active
  room : q.cqFull = false
  base : basinRing q.cqBase = false
  writes : s.hostFails (q.cqBase + q.cqNext * 32) 32 = false

/-- The state after a command's counts, with its reply posted. -/
def State.replied (s : State) (d : Cmd) (q : Queue) : State :=
  (s.addCounts d).postReply d.queue q (s.reply d q) (!d.flags.testBit 2)

theorem State.replied_acts (s : State) (d : Cmd) (q : Queue) :
    Acts [.draws, .regs, .mem, .host, .queues, .weights, .log, .outbox] s (s.replied d q) :=
  State.postReply_acts (State.addCounts_acts .refl (by decide)) (by decide)

theorem State.replied_queue {s : State} {d : Cmd} {q : Queue} (h : s.TakesReply d q) :
    lookup d.queue (s.replied d q).queues = some q.replied ∧
      (s.replied d q).host = (s.hostWrite (q.cqBase + q.cqNext * 32) (s.reply d q)).host := by
  have hcounts : Acts [.regs] s (s.addCounts d) := State.addCounts_acts .refl (by decide)
  obtain ⟨-, hqueues, -⟩ := hcounts.1 .queues (by decide)
  have hsame : (s.addCounts d).host = s.host := hcounts.1 .host (by decide)
  obtain ⟨hmoved, hwritten⟩ := State.postReply_host (s := s.addCounts d) (n := d.queue) (bs := s.reply d q) (interrupt := !d.flags.testBit 2)
    (by rw [hqueues]; exact h.queue) h.base (by rw [State.hostFails, hsame, s.reply_length]; exact h.writes)
  refine ⟨?_, ?_⟩
  · rw [State.replied, hmoved, lookup_insert]
  · rw [State.replied, hwritten, State.hostWrite, State.hostWrite, hsame]

/-- The completion of a finished command whose reply has room, with nothing recorded. -/
theorem State.complete_replies {outs : Outputs} {s : State} {r : CmdRef} {d : Cmd} {q : Queue} (hdone : s.doneCmd r = some d)
    (h : s.TakesReply d q) (hbook : s.recording = false) :
    s.complete outs r = (s.replied d q).takeOut r := by
  have hplain : s.complete outs r = ((s.replied d q).takeOut r).resetQueueDone d.queue := by
    simp only [State.complete, hdone, h.queue, h.room, hbook, Bool.false_eq_true, if_false]
    rfl
  obtain ⟨-, hqueues, -⟩ := ((s.replied d q).takeOut_acts r).1 .queues (by decide)
  rw [hplain]
  refine State.resetQueueDone_open (q := q.replied) ?_ ?_
  · rw [hqueues]
    exact (State.replied_queue h).1
  · rw [Queue.replied, h.active]
    exact QueueStatus.noConfusion

/-- Outside a recording a completion changes nothing further but the security state. -/
theorem State.answerCmd_acts_of_quiet {s : State} {r : CmdRef} (hbook : (s.complete outputBytes r).recording = false) :
    Acts [.sec] (s.complete outputBytes r) (s.answerCmd r) := by
  have hanswered : Acts [.sec] (s.complete outputBytes r) ((s.complete outputBytes r).transitionAnswered r) :=
    State.transitionAnswered_acts .refl (by decide)
  have hquiet : ((s.complete outputBytes r).transitionAnswered r).recording = false := by
    rw [State.recording, hanswered.1 .logbook (by decide)]
    exact hbook
  simp only [State.answerCmd, hquiet, Bool.and_false, Bool.false_eq_true, if_false]
  split <;> exact hanswered

/-- The answer of such a command: its reply is in the ring, and no command is left to the arbiter. -/
theorem State.answerCmd_replies {s : State} {r : CmdRef} {d : Cmd} {q : Queue} (hdone : s.doneCmd r = some d)
    (h : s.TakesReply d q) (hbook : s.recording = false) (hnone : s.NoneWaits) :
    (s.answerCmd r).NoneWaits ∧ lookup d.queue (s.answerCmd r).queues = some q.replied ∧
      (s.answerCmd r).host = (s.hostWrite (q.cqBase + q.cqNext * 32) (s.reply d q)).host := by
  have hcomplete := State.complete_replies (outs := outputBytes) hdone h hbook
  have hreplied := s.replied_acts d q
  have hout := (s.replied d q).takeOut_acts r
  have hquiet : (s.complete outputBytes r).recording = false := by
    rw [hcomplete, State.recording, hout.1 .logbook (by decide), hreplied.1 .logbook (by decide)]
    exact hbook
  have hlast := State.answerCmd_acts_of_quiet hquiet
  rw [hcomplete] at hlast
  obtain ⟨hqueue, hwritten⟩ := State.replied_queue h
  obtain ⟨-, hflightLast⟩ := hlast.1 .cmds (by decide)
  obtain ⟨-, hflightReplied⟩ := hreplied.1 .cmds (by decide)
  obtain ⟨-, hqueuesLast, -⟩ := hlast.1 .queues (by decide)
  obtain ⟨-, hqueuesOut, -⟩ := hout.1 .queues (by decide)
  have hhostLast : (s.answerCmd r).host = _ := hlast.1 .host (by decide)
  have hhostOut : ((s.replied d q).takeOut r).host = _ := hout.1 .host (by decide)
  exact ⟨((hnone.congr hflightReplied).takeOut r).congr hflightLast, by rw [hqueuesLast, hqueuesOut, hqueue],
    by rw [hhostLast, hhostOut, hwritten]⟩

theorem State.at_doneCmd (s : State) (now : Nat) (r : CmdRef) : (s.at now).doneCmd r = s.doneCmd r := by
  rw [State.doneCmd, State.at_inflight, ← State.doneCmd]

theorem State.at_recording (s : State) (now : Nat) : (s.at now).recording = s.recording := by
  rw [State.recording, (State.at_acts (ps := [.clock]) (z := s) .refl (by decide)).1 .logbook (by decide), ← State.recording]

theorem commandCompletion_replies {s : State} {c : CmdRef} {now : Nat} {hv : HostView} {d : Cmd} {q : Queue} (hdone : s.doneCmd c = some d)
    (h : ((s.at now).sees hv).TakesReply d q) (hbook : s.recording = false) (hnone : ∀ x ∈ s.inflight, x.stage ≠ .waiting) :
    Reaches (execCommandCompletion c now hv s) fun t => lookup d.queue t.queues = some q.replied ∧
      t.host = (((s.at now).sees hv).hostWrite (q.cqBase + q.cqNext * 32) (((s.at now).sees hv).reply d q)).host := by
  rw [← s.at_doneCmd now] at hdone
  rw [← s.at_recording now] at hbook
  obtain ⟨hquiet, hqueue, hwritten⟩ := State.answerCmd_replies (s := (s.at now).sees hv) hdone h hbook
    (State.NoneWaits.congr (s := s) hnone (s.at_inflight now))
  refine runs_reaches ?_
  rw [State.grantWaiting_none hquiet]
  exact ⟨hqueue, hwritten⟩

/-- Settles O22: each row's own lemma, in the order of the clauses. -/
theorem queueServiceCompletes : Obligations.QueueServiceCompletes :=
  ⟨fun _ _ _ _ => fencedCommandStart_readies,
   fun _ _ _ _ _ => commandTimeout_ends,
   fun _ _ _ _ _ _ _ hup hz hq hbase hfetch hmark hroom hround hheader hpacket hreads hlow hhigh hquiet hbook hchecks =>
    packetFetch_joins hup hz hq ⟨hbase, hfetch, hheader, hpacket, hreads, hlow, hhigh, hquiet, hbook, hchecks⟩ hmark hroom hround,
   fun _ _ _ _ _ _ hdone hq hactive hroom hbase hhost =>
    commandCompletion_replies hdone ⟨(congrArg (lookup _) (State.at_queues ..)).trans hq, hactive, hroom, hbase, hhost⟩⟩

end Sys2Proof.Machine
end

section
/-! SUPPORT. The count of commits that a CHECK notes (R138): work that fails under the new settings leaves it alone, and a commit advances it
by one whatever the settings that it lays. -/

namespace Sys2Proof.Machine

open Sys2Proof

/-! ## Operations that leave the count alone -/

theorem Acts.commitCount {ps : List Part} {s t : State} (h : Acts ps s t) (hps : .lockage ∉ ps) : t.commitCount = s.commitCount := by
  obtain ⟨-, -, hcount, -⟩ := h.1 .lockage hps
  exact hcount

theorem foldl_commitCount {α : Type} {f : State → α → State} (hf : ∀ u x, (f u x).commitCount = u.commitCount) (l : List α) (s : State) :
    (l.foldl f s).commitCount = s.commitCount :=
  List.foldlRecOn (motive := fun u : State => u.commitCount = s.commitCount) l f rfl fun u hu x _ => (hf u x).trans hu

@[simp] theorem State.raise_commitCount (s : State) (a n : Nat) : (s.raise a n).commitCount = s.commitCount :=
  (State.raise_acts (ps := [.regs, .outbox]) .refl (by decide)).commitCount (by decide)

@[simp] theorem State.sendAbort_commitCount (s : State) (p g seq st member : Nat) :
    (s.sendAbort p g seq st member).commitCount = s.commitCount :=
  (State.sendAbort_acts (ps := [.regs, .links, .mgmt, .outbox]) .refl (by decide)).commitCount (by decide)

@[simp] theorem State.failTurn_commitCount (s : State) (n detail : Nat) (abandoned : Bool) :
    (s.failTurn n detail abandoned).commitCount = s.commitCount := by
  have hturn (f : Turn → Turn) : (s.updTurn n f).commitCount = s.commitCount :=
    (State.updTurn_acts (ps := [.turns]) .refl (by decide)).commitCount (by decide)
  unfold State.failTurn
  split
  · rfl
  · split
    · rfl
    · exact hturn _

/-- The failure of a load waits as a commit, which does not count until it is granted. -/
theorem State.failSet_commitCount (s : State) (w st : Nat) : (s.failSet w st).commitCount = s.commitCount :=
  (State.updSet_acts (ps := [.weights]) .refl (by decide)).commitCount (by decide)

theorem State.failAdapter_commitCount (s : State) (i st : Nat) : (s.failAdapter i st).commitCount = s.commitCount :=
  (State.updAdapter_acts (ps := [.weights]) .refl (by decide)).commitCount (by decide)

theorem State.closeColl_commitCount (s : State) (k : Coll) (st r0 r1 : Nat) :
    (s.closeColl k st r0 r1).commitCount = s.commitCount := by
  have hcounter (t : State) : (if st = 0 then t.add64 (blkKeeper + 0x2100) 1 else t).commitCount = t.commitCount := by
    split <;> rfl
  unfold State.closeColl
  rw [hcounter]
  cases k.owner with
  | command => rfl
  | train n => rfl
  | turn n =>
    dsimp only
    split
    · rfl
    · exact State.failTurn_commitCount ..

@[simp] theorem State.endColl_commitCount (s : State) (k : Coll) (st r1 : Nat) : (s.endColl k st r1).commitCount = s.commitCount := by
  rw [State.endColl, State.closeColl_commitCount]
  exact foldl_commitCount (fun u x => (State.undefine_acts (ps := [.draws, .mem]) .refl (by decide)).commitCount (by decide)) _ s

theorem State.failColl_commitCount (s : State) (k : Coll) (st r1 : Nat) : (s.failColl k st r1).commitCount = s.commitCount := by
  simp only [State.failColl, State.sat32, apply_ite State.commitCount, State.setNat_commitCount, State.sendAbort_commitCount,
    State.endColl_commitCount, State.raise_commitCount, ite_self]

/-! ## A port that is judged again -/

theorem State.turnsLinkDown_commitCount (s : State) (p : Nat) (lost : List Nat) : (s.turnsLinkDown p lost).commitCount = s.commitCount :=
  foldl_commitCount (fun _ _ => by exact State.failTurn_commitCount ..) _ s

theorem State.loadsPeerDown_commitCount (s : State) (p st : Nat) : (s.loadsPeerDown p st).commitCount = s.commitCount := by
  have hsets (l : List (Nat × WeightSet)) : (l.foldl (fun (t : State) k => t.failSet k.1 st) s).commitCount = s.commitCount :=
    foldl_commitCount (fun u k => u.failSet_commitCount k.1 st) l s
  exact (foldl_commitCount (fun _ _ => by exact State.failAdapter_commitCount ..) _ _).trans (hsets _)

theorem State.workDown_commitCount (s : State) (p : Nat) (lost : List Nat) : (s.workDown p lost).commitCount = s.commitCount := by
  have hcolls : (s.collsLinkDown p lost).commitCount = s.commitCount :=
    foldl_commitCount (fun u k => u.failColl_commitCount k stLinkDown 0) _ s
  have hrepairs (u : State) : (u.repairsPeerDown p).commitCount = u.commitCount :=
    (State.repairsPeerDown_acts (ps := [.regs, .weights, .log, .outbox]) .refl (by decide)).commitCount (by decide)
  rw [State.workDown, hrepairs, State.loadsPeerDown_commitCount, hcolls]

theorem State.judgeLink_commitCount (s : State) (p : Nat) : (s.judgeLink p).commitCount = s.commitCount := by
  have hjudged : (s.judgePort p).commitCount = s.commitCount :=
    (State.judgePort_acts (ps := [.regs, .links, .mgmt, .log, .outbox]) .refl (by decide)).commitCount (by decide)
  have hcleared (u : State) (f : Port → Port) : ((u.transitLost p).updPort p f).commitCount = u.commitCount :=
    (State.updPort_acts (ps := [.regs, .links, .mgmt, .outbox]) (State.transitLost_acts .refl (by decide)) (by decide)).commitCount (by decide)
  unfold State.judgeLink
  dsimp only
  split
  · rw [State.workDown_commitCount, hcleared, State.turnsLinkDown_commitCount, hjudged]
  · exact hjudged

/-! ## A commit -/

theorem State.setReg_foldl_commitCount (l : List (Nat × Word)) (s : State) :
    (l.foldl (fun (t : State) k => t.setReg k.1 k.2) s).commitCount = s.commitCount :=
  foldl_commitCount (fun _ _ => by rfl) l s

@[simp] theorem State.commitEpoch_commitCount (s : State) (changed : List (Nat × Word)) :
    (s.commitEpoch changed).commitCount = s.commitCount + 1 :=
  congrArg (· + 1) (State.setReg_foldl_commitCount changed s)

theorem State.commitSegs_commitCount (s old : State) : (s.commitSegs old).commitCount = s.commitCount :=
  foldl_commitCount (fun _ _ => by dsimp only; split <;> rfl) _ s

theorem State.commitHistory_commitCount (s old : State) : (s.commitHistory old).commitCount = s.commitCount := by
  refine foldl_commitCount (fun u h => ?_) _ s
  dsimp only
  split
  · exact (State.histReset_acts (ps := [.regs]) .refl (by decide)).commitCount (by decide)
  · split
    · exact (State.histRecompute_acts (ps := [.regs]) .refl (by decide)).commitCount (by decide)
    · rfl

theorem State.commitSockets_commitCount (s old : State) (named : Bool) : (s.commitSockets old named).commitCount = s.commitCount := by
  refine foldl_commitCount (fun u n => ?_) _ s
  dsimp only
  split
  · split
    · exact (State.socketServes_acts (ps := [.mem, .panel, .mgmt]) .refl (by decide)).commitCount (by decide)
    · rfl
  · split
    · exact (State.putSocket_acts (ps := [.panel, .mgmt]) .refl (by decide)).commitCount (by decide)
    · rfl

theorem State.commitContexts_commitCount (s old : State) : (s.commitContexts old).commitCount = s.commitCount := by
  refine foldl_commitCount (fun u c => ?_) _ s
  dsimp only
  split
  · exact (State.setCtxBit_acts (ps := [.regs, .outbox]) (State.loseState_acts .refl (by decide)) (by decide)).commitCount (by decide)
  · rfl

theorem State.commitSensors_commitCount (s old : State) : (s.commitSensors old).commitCount = s.commitCount :=
  foldl_commitCount (fun _ _ => (State.sensorChange_acts (ps := [.mgmt]) .refl (by decide)).commitCount (by decide)) _ s

theorem State.commitPorts_commitCount (s old : State) : (s.commitPorts old).commitCount = s.commitCount := by
  have hsent (u : State) (p : Nat) (f : Port → Port) : ((u.updPort p f).sendIdent p 1).commitCount = u.commitCount :=
    (State.sendIdent_acts (ps := [.regs, .links, .mgmt, .outbox]) (State.updPort_acts .refl (by decide)) (by decide)).commitCount (by decide)
  unfold State.commitPorts
  dsimp only
  split
  · rfl
  · refine foldl_commitCount (fun u p => ?_) _ s
    split
    · rw [State.judgeLink_commitCount, hsent]
    · rfl

/-- A commit of settings counts once. -/
theorem State.commitEntries_commitCount (s : State) (es : List Staged) (b : Bool) :
    (s.commitEntries es b).commitCount = s.commitCount + 1 := by
  have hrecord (u : State) (body : List Byte) : ((u.raise evLock (bit b)).record 0 6 0 body).commitCount = u.commitCount :=
    (State.record_acts (ps := [.regs, .logbook, .outbox]) (State.raise_acts .refl (by decide)) (by decide)).commitCount (by decide)
  have hunits (u : State) : (u.commitUnits s).commitCount = u.commitCount := rfl
  have hkeepsake (u : State) (f : Keepsake → Keepsake) : (u.ksWrite f).commitCount = u.commitCount := rfl
  simp only [State.commitEntries, hrecord, State.commitPorts_commitCount, State.commitSensors_commitCount, State.commitContexts_commitCount,
    hunits, State.commitSockets_commitCount, State.commitHistory_commitCount, State.commitSegs_commitCount, apply_ite State.commitCount,
    hkeepsake, ite_self, State.commitEpoch_commitCount]

theorem State.serviceCommit_commitCount (s : State) : s.serviceCommit.commitCount = s.commitCount + 1 :=
  ((State.record_acts (ps := [.regs, .logbook, .outbox]) (State.raise_acts .refl (by decide)) (by decide)).commitCount (by decide)).trans
    (s.commitEpoch_commitCount [])

theorem State.serviceCommit_epoch (s : State) : s.serviceCommit.spine.epoch = nextEpoch s.spine.epoch := by
  have hafter : Acts [.regs, .logbook, .outbox] (s.commitEpoch []) s.serviceCommit :=
    State.record_acts (State.raise_acts .refl (by decide)) (by decide)
  rw [show s.serviceCommit.spine = _ from hafter.1 .spine (by decide), State.commitEpoch_epoch]

end Sys2Proof.Machine
end

section
/-! PROOF. The invariant holds after reset and every step keeps it (R137, R554, R583), and the epoch counts the commits (R137). -/

namespace Sys2Proof.Machine

open Sys2Proof

/-! ## The invariant -/

/-- Settles O4: epoch 1, no incarnation listed, and memory, registers and log empty. -/
theorem invHoldsAtReset : Obligations.InvHoldsAtReset := by
  have hcounts : State.reset.spine.counts := ⟨by decide, List.forall_mem_nil _, List.forall_mem_nil _⟩
  exact ⟨hcounts, rfl, rfl, Nat.zero_le _⟩

/-- Settles O5: an empty queue lets the clock run on, and a command at its front keeps the invariant by its row's lemma. -/
theorem invIsKept : Obligations.InvIsKept := by
  intro s t hinv hstep
  unfold step at hstep
  split at hstep
  · cases hstep
    exact (idle_acts (ps := [.clock]) .refl (by decide)).2 hinv
  · next c rest _ =>
    have hrest : ({ s with pending := rest } : State).Inv := hinv
    exact (exec_acts hstep).2 hrest

/-! ## The epoch -/

/-- A cold reset that begins puts the epoch back to 1. -/
theorem State.startCold_epoch {s : State} {trigger : Nat} (hboot : s.power.booting ≠ .full) : (s.startCold trigger).spine.epoch = 1 := by
  have hbegins : (s.power.booting == .full && !s.clock.fatal) = false := by simp [hboot]
  have hcause : Acts [.draws, .regs, .sec] s.blank (s.blank.renewNonce.resetCause 0 trigger 0 0) :=
    State.resetCause_acts (State.renewNonce_acts .refl (by decide)) (by decide)
  simp only [State.startCold, hbegins, Bool.false_eq_true, if_false]
  exact congrArg Spine.epoch (hcause.1 .spine (by decide))

/-- The boot sequence leaves the epoch alone. -/
theorem State.powerUp_spine (s : State) (b : BootInputs) : (s.powerUp b).spine = s.spine :=
  (State.powerUp_acts (ps := [.draws, .clock, .power, .gov, .regs, .mem, .keepsake, .panel, .mgmt, .sec, .log, .outbox, .pcie]) .refl
    (by decide)).1 .spine (by decide)

theorem coldReset_epoch {s t : State} {b : BootInputs} (hboot : s.power.booting ≠ .full)
    (hstate : s.power.state = .idle ∨ s.power.state = .active) (e : execColdReset b s = .next t) : t.spine.epoch = 1 := by
  have hnew : (s.power.booting == .full) = false := beq_eq_false_iff_ne.2 hboot
  have hon : (s.power.state == .idle || s.power.state == .active) = true := by simpa using hstate
  simp only [execColdReset, runsSpine, hnew, hon, Bool.false_eq_true, if_false, if_true, State.powerUp_spine] at e
  cases e
  exact State.startCold_epoch (s := s.freeTrigger.2) hboot

/-- Settles O8: the reset state and the cold reset begin at 1, both kinds of commit take `nextEpoch`, and O5 keeps the epoch off 0. -/
theorem epochCountsCommits : Obligations.EpochCountsCommits :=
  ⟨rfl,
   fun _ _ _ => coldReset_epoch,
   fun _ _ _ => State.commitEntries_epoch,
   State.serviceCommit_epoch,
   fun s t hinv hstep => by
    obtain ⟨⟨hepoch, -⟩, -⟩ := invIsKept s t hinv hstep
    exact hepoch⟩

end Sys2Proof.Machine
end

section
/-! PROOF. Lockage: the commands of the chamber, its window and its status (R131 to R139), and the stale check (R138). -/

namespace Sys2Proof.Machine

open Sys2Proof

/-! ## STAGE and the staging window -/

/-- The words of the entries that a STAGE carries. -/
def Cmd.stagedWords (c : Cmd) : List Word := (List.range (4 * c.param 34 1)).map fun i => BitVec.ofNat 32 (c.param (40 + 4 * i) 4)

theorem State.stageEntries_puts {s : State} {c : Cmd} (hopen : s.chamber.state ≠ .committing) :
    s.stageEntries c = (s.putChamber (4 * c.param 32 2) c.stagedWords).finish c.ref {} := if_neg hopen

theorem State.putChamber_cmd (s : State) (n : Nat) (ws : List Word) (r : CmdRef) : (s.putChamber n ws).cmd r = s.cmd r :=
  (State.putChamber_acts (ps := [.lockage]) .refl (by decide)).cmd (by decide)

theorem stage_opens {s : State} {r : CmdRef} {k : Cmd} {hv : HostView} (hready : s.Ready 0x1000 r k)
    (hopen : s.chamber.state ≠ .committing) :
    Reaches (execStage r hv s) fun t => t.Answered r {} ∧ t.chamber.state = .opened ∧ t.chamber.checkedEpoch = 0 ∧
      t.chamber.words = (s.putChamber (4 * k.param 32 2) k.stagedWords).chamber.words := by
  obtain ⟨hstate, hepoch⟩ := (s.meets hv k).putChamber_state (4 * k.param 32 2) k.stagedWords
  have hsame := State.putChamber_congr (s.meets hv k) s (4 * k.param 32 2) k.stagedWords rfl
  refine hready.reaches ?_
  rw [State.stageEntries_puts (s := s.meets hv k) hopen, hready.ref]
  exact ⟨State.finish_answered (k := k) ((State.putChamber_cmd ..).trans hready.1), hstate, hepoch, congrArg Chamber.words hsame⟩

theorem stagingWindowWrite_opens {s : State} {addr : Nat} {v : Word} (hup : s.pcieUp = true) (haligned : addr % 4 = 0)
    (hwindow : inStaging addr = true) (hopen : s.chamber.state ≠ .committing) :
    Reaches (execStagingWindowWrite addr v s) fun t => t.chamber.state = .opened ∧ t.chamber.checkedEpoch = 0 ∧
      t.chamber.words = if v = 0 then erase ((addr - 0x100000) / 4) s.chamber.words else insert ((addr - 0x100000) / 4) v s.chamber.words := by
  refine runsHost_reaches hup ?_
  simp only [haligned, hwindow, State.stageWord, hopen, ne_eq, not_true_eq_false, if_false, if_true]
  exact ⟨rfl, rfl, rfl⟩

/-! ## CHECK -/

/-- A CHECK that passes notes the epoch and the count of commits, and keeps the entries. -/
theorem State.check_passes {s : State} {c : Cmd} (hopen : s.chamber.state ≠ .committing)
    (hpass : s.checkFails s.chamber.entries true = none) :
    s.check c = ({ s with
      chamber := { s.chamber with state := .checked, checkedEpoch := s.spine.epoch.toNat, lastStatus := 0, lastEntry := 0 },
      checkedAt := s.commitCount } : State).finish c.ref { result0 := s.spine.epoch.toNat } := by
  simp only [State.check, hopen, hpass, if_false]

theorem check_passes {s : State} {r : CmdRef} {k : Cmd} {hv : HostView} (hready : s.Ready 0x1001 r k)
    (hopen : s.chamber.state ≠ .committing) (hpass : (s.meets hv k).checkFails s.chamber.entries true = none) :
    Reaches (execCheck r hv s) fun t => t.Answered r { result0 := s.spine.epoch.toNat } ∧ t.chamber.state = .checked ∧
      t.chamber.checkedEpoch = s.spine.epoch.toNat ∧ t.chamber.words = s.chamber.words ∧ t.spine.epoch = s.spine.epoch := by
  refine hready.reaches ?_
  rw [State.check_passes (s := s.meets hv k) hopen hpass, hready.ref]
  exact ⟨State.finish_answered (k := k) hready.1, rfl, rfl, rfl, rfl⟩

/-! ## COMMIT up to its wait, and ABANDON -/

theorem commit_waits {s : State} {r : CmdRef} {k : Cmd} {hv : HostView} (hready : s.Ready 0x1002 r k)
    (hchecked : s.chamber.state = .checked) (hfresh : s.commitCount = s.checkedAt) :
    Reaches (execCommit r hv s) fun t => t.Waits r ∧ t.chamber.state = .committing ∧
      (t.commits.map fun (w : WaitingCommit) => w.owner) = (s.commits.map fun (w : WaitingCommit) => w.owner) ++ [CommitFor.host r] := by
  have hstate : ¬ (s.meets hv k).chamber.state ≠ .checked := not_not.2 hchecked
  have hcount : ¬ (s.meets hv k).commitCount ≠ (s.meets hv k).checkedAt := not_not.2 hfresh
  refine hready.reaches ?_
  rw [State.commit, if_neg hstate, if_neg hcount, hready.ref]
  exact ⟨State.running_waits (k := k) hready.1, rfl, List.map_append⟩

/-- A COMMIT after another commit is refused: the chamber is OPEN again, with its entries. -/
theorem State.commit_stale {s : State} {c : Cmd} (hchecked : s.chamber.state = .checked) (hstale : s.commitCount ≠ s.checkedAt) :
    s.commit c = (s.chamberTo .opened).finish c.ref { status := stStaleCheck } := by
  rw [State.commit, if_neg (not_not.2 hchecked), if_pos hstale]

theorem commit_stale {s : State} {r : CmdRef} {k : Cmd} {hv : HostView} (hready : s.Ready 0x1002 r k)
    (hchecked : s.chamber.state = .checked) (hstale : s.commitCount ≠ s.checkedAt) :
    Reaches (execCommit r hv s) fun t => t.Ended r stStaleCheck ∧ t.chamber.state = .opened ∧ t.chamber.entries = s.chamber.entries ∧
      t.spine.epoch = s.spine.epoch ∧ t.commits = s.commits := by
  refine hready.reaches ?_
  rw [State.commit_stale (s := s.meets hv k) hchecked hstale, hready.ref]
  exact ⟨State.finish_ended (k := k) hready.1, rfl, rfl, rfl, rfl⟩

theorem abandon_empties {s : State} {r : CmdRef} {k : Cmd} {hv : HostView} (hready : s.Ready 0x1003 r k)
    (hopen : s.chamber.state ≠ .committing) :
    Reaches (execAbandon r hv s) fun t => t.Answered r {} ∧ t.chamber.state = .empty ∧ t.chamber.words = [] := by
  refine hready.reaches ?_
  rw [if_neg (show ¬ (s.meets hv k).chamber.state = .committing from hopen), hready.ref]
  exact ⟨State.finish_answered (k := k) hready.1, rfl, rfl⟩

/-! ## The instant of a COMMIT -/

theorem State.at_lockage (s : State) (now : Nat) :
    (s.at now).commits = s.commits ∧ (s.at now).commitCount = s.commitCount ∧ (s.at now).checkedAt = s.checkedAt := by
  obtain ⟨-, hcommits⟩ := (State.at_acts (ps := [.clock]) (z := s) (s := s) (t := now) .refl (by decide)).1 .lockage (by decide)
  exact hcommits

/-- A COMMIT whose check still stands is granted: its entries take effect, the chamber is EMPTY, and the reply carries the new epoch. -/
theorem State.hostCommit_grants {s : State} {r : CmdRef} {w : WaitingCommit} (hfresh : s.commitCount = s.checkedAt) :
    s.hostCommit r w = (s.commitEntries w.entries false).emptyChamber.finish r { result0 := (nextEpoch s.spine.epoch).toNat } := by
  have hepoch : (s.commitEntries w.entries false).emptyChamber.spine.epoch = nextEpoch s.spine.epoch := State.commitEntries_epoch
  rw [State.hostCommit, if_neg (not_not.2 hfresh)]
  exact congrArg (fun e => State.finish _ r { result0 := e.toNat }) hepoch

/-- The oldest waiting commit is a COMMIT's, and nothing of an older epoch but the command itself is in flight: it is granted. -/
theorem State.commitInstant_grants {s : State} {r : CmdRef} {w : WaitingCommit} {rest : List WaitingCommit} (hfirst : s.commits = w :: rest)
    (howner : w.owner = .host r) (holder : s.olderGoneBut (some r) = true) (hfresh : s.commitCount = s.checkedAt) :
    s.commitInstant = (({ s with commits := rest } : State).commitEntries w.entries false).emptyChamber.finish r
      { result0 := (nextEpoch s.spine.epoch).toNat } := by
  simp only [State.commitInstant, hfirst, howner, State.commandOf, holder, State.grantCommit, Bool.not_true, Bool.false_eq_true, if_false]
  exact State.hostCommit_grants hfresh

theorem commitInstant_grants {s : State} {now : Nat} {hv : HostView} {r : CmdRef} {w : WaitingCommit} {rest : List WaitingCommit}
    (hfirst : s.commits = w :: rest) (howner : w.owner = .host r) (holder : ((s.at now).sees hv).olderGoneBut (some r) = true)
    (hfresh : s.commitCount = s.checkedAt) :
    Reaches (execCommitInstant now hv s) fun t => t.spine.epoch = nextEpoch s.spine.epoch ∧ t.chamber.state = .empty ∧
      t.chamber.words = [] ∧ ∀ k, t.cmd r = some k → k.stage = .done ∧ k.status = stSuccess ∧ k.result0 = (nextEpoch s.spine.epoch).toNat := by
  obtain ⟨hcommits, hcount, hchecked⟩ := s.at_lockage now
  have hspine : ((s.at now).sees hv).spine = s.spine := s.at_spine now
  refine runsSpine_reaches ?_
  rw [State.commitInstant_grants (s := (s.at now).sees hv) (hcommits.trans hfirst) howner holder
    (hcount.trans (hfresh.trans hchecked.symm)), hspine]
  refine ⟨State.commitEntries_epoch, rfl, rfl, fun k hk => ?_⟩
  obtain ⟨hdone, hstatus, hresult, -⟩ := State.finish_closed hk
  exact ⟨hdone, hstatus, hresult⟩

/-! ## CHAMBER_STATUS -/

/-- A read of a 32-bit register outside the views captures nothing. -/
theorem State.read32_plain {s : State} {fn a : Nat} {w : RegWord} (hword : regWord a = some w) (hwide : w.row.wide = false)
    (hhigh : w.high = false) (hview : w.row.name ≠ "ADAPTER_VIEW" ∧ w.row.name ≠ "MANIFEST_VIEW") :
    s.read32 fn a = s.emit (.readData (s.wordValue fn a)) := by
  obtain ⟨hadapter, hmanifest⟩ := hview
  by_cases hvisible : s.visible fn a = true
  · have hmet : s.wordFor fn a = some w := (if_pos hvisible).trans hword
    simp [State.read32, hmet, hwide, hhigh, hadapter, hmanifest]
  · have hmet : s.wordFor fn a = none := if_neg hvisible
    simp only [State.read32, hmet]

theorem regWord_chamberStatus :
    ∃ w, regWord (blkLockage + 4) = some w ∧ w.row.wide = false ∧ w.high = false ∧ w.row.name = "CHAMBER_STATUS" :=
  ⟨_, rfl, rfl, rfl, rfl⟩

theorem chamberStatusRead_answers {s : State} (hup : s.pcieUp = true) :
    Reaches (execChamberStatusRead 0 s) fun t =>
      t.outbox = s.outbox ++ [Out.readData (s.wordValue 0 (blkLockage + 4))] ∧ t.chamber = s.chamber := by
  obtain ⟨w, hword, hwide, hhigh, hname⟩ := regWord_chamberStatus
  refine runsHost_reaches hup ?_
  rw [State.read32_plain hword hwide hhigh (by simp [hname])]
  exact ⟨rfl, rfl⟩

/-- Settles O23: each row's own lemma, in the order of the clauses. -/
theorem lockageCommandsComplete : Obligations.LockageCommandsComplete :=
  ⟨fun _ _ _ _ => stage_opens,
   fun _ _ _ _ => check_passes,
   fun _ _ _ _ => commit_waits,
   fun _ _ _ _ => abandon_empties,
   fun _ _ _ _ _ _ => commitInstant_grants,
   fun _ => chamberStatusRead_answers,
   fun _ _ _ => stagingWindowWrite_opens⟩

/-! ## The stale check (R138) -/

/-- Settles O9: a CHECK that passes notes the count, both kinds of commit advance it, and a COMMIT that finds another count is refused. -/
theorem staleCheckIsRefused : Obligations.StaleCheckIsRefused :=
  ⟨fun _ _ hopen hpass => by rw [State.check_passes hopen hpass]; exact ⟨rfl, rfl⟩,
   State.commitEntries_commitCount,
   State.serviceCommit_commitCount,
   fun _ _ _ _ => commit_stale⟩

end Sys2Proof.Machine
end

section
/-! PROOF. MATMUL, MATMUL_GROUPED and ATTEND (R165, R171, R447): a command that its checks and its reads let through ends with the status of
its writes, and leaves its products, or its attention, in memory. -/

namespace Sys2Proof.Machine

open Sys2Proof

/-! ## Reading off an arm -/

/-- What holds of the effect of a command ready on the ring on the state in which it acts holds of the command's arm. -/
theorem State.ReadyOnRing.reaches {s : State} {opcode : Nat} {r : CmdRef} {k : Cmd} {hv : HostView} {f : Cmd → State → State} {P : State → Prop}
    (h : s.ReadyOnRing opcode r k) (hP : P { f k (s.rings hv k) with spine := s.spine, acting := s.acting, pending := s.pending }) :
    Reaches (runs (fun s => (s.sees hv).startCompute opcode r f) s) P := by
  refine runs_reaches ?_
  rw [h.go]
  exact hP

theorem State.ReadyOnRing.ref {s : State} {opcode : Nat} {r : CmdRef} {k : Cmd} (h : s.ReadyOnRing opcode r k) : k.ref = r := h.1.ref

/-- A command ready on the ring is found there by its own reference. -/
theorem State.ReadyOnRing.rings_cmd {s : State} {opcode : Nat} {r : CmdRef} {k : Cmd} (h : s.ReadyOnRing opcode r k) (hv : HostView) :
    (s.rings hv k).cmd k.ref = some k := by
  rw [State.rings_cmd, h.ref]
  exact h.1.1

/-- What a command meets on the ring are the bytes that were there. -/
theorem State.rings_bytes (s : State) (hv : HostView) (k : Cmd) : SameBytes s (s.rings hv k) := by
  unfold State.rings State.streamed
  split <;> exact ⟨rfl, rfl, rfl⟩

/-- What a finished command will add to its slots is no part of its answer. -/
theorem State.Answered.counted {s : State} {r : CmdRef} {a : Answer} (h : s.Answered r a) (assay : Option (Nat × Nat × Counts))
    (amax : Option (Nat × Nat)) : (s.updCmd r fun d => { d with assay := assay, amax := amax }).Answered r a := by
  obtain ⟨k, hcmd, hanswer⟩ := h
  exact ⟨_, State.updCmd_cmd hcmd fun _ => rfl, hanswer⟩

/-! ## Products (R165, R171) -/

/-- The passes and the writes of a command leave the commands in flight to be found as before. -/
theorem State.writeOuts_cmd (s : State) (c : Cmd) (ps : List Product) (vs : List (Product × Converted)) (r : CmdRef) :
    (vs.foldl (fun u v => u.writeOut v.1 v.2) (s.runPasses c ps)).cmd r = s.cmd r :=
  (Acts.foldl (ps := [.draws, .regs, .mem, .units, .weights, .log, .outbox]) (State.runPasses_acts .refl (by decide))
    fun _ _ hu => State.writeOut_acts hu (by decide)).cmd (by decide)

/-- Products whose reads and partial sums are sound are written, in the order of the command, and the command answers for the writes. -/
theorem State.runProducts_completes {s : State} {c : Cmd} {ps : List Product} (hcmd : s.cmd c.ref = some c)
    (hgood : worse (s.rangesStatus (s.productReads c ps)) (s.sumStatus c ps) = none) :
    (s.runProducts c ps).Answered c.ref
        { status := s.outStatus ((s.productOuts c ps).flatMap fun v => (v.1.outRuns v.2).map fun x => (x.1, x.2.length)) } ∧
      (s.runProducts c ps).mem = ((s.productOuts c ps).foldl (fun u v => u.writeOut v.1 v.2) (s.runPasses c ps)).mem := by
  have hfound := (s.writeOuts_cmd c ps (s.productOuts c ps) c.ref).trans hcmd
  simp only [State.runProducts, hgood]
  exact ⟨(State.finish_answered hfound).counted _ _, rfl⟩

/-- The one product of a MATMUL that is not empty, converted. -/
theorem State.productOuts_single {p : Product} (hp : p.empty = false) (s : State) (c : Cmd) :
    s.productOuts c [p] = [(p, convertRows p.fmtOut (c.outScale (c.param 54 2) (c.param 50 1)) (s.prodRows p (s.pavesOf c)))] := by
  simp only [State.productOuts, List.filter_cons, hp, Bool.not_false, if_true, List.filter_nil, List.map_cons, List.map_nil]

theorem matmul_empty_answers {s : State} {r : CmdRef} {k : Cmd} {hv : HostView} (hready : s.ReadyOnRing 0x2000 r k)
    (hrefusal : theRefusal ((s.rings hv k).matmulFails k) = none) (hempty : k.product.empty = true) :
    Reaches (execMatmul r hv s) fun t => t.Answered r {} ∧ ∀ p, t.mem.get p = s.mem.get p := by
  have hheld : Acts [.regs] (s.rings hv k) ((s.rings hv k).clearHeld k) := State.clearHeld_acts .refl (by decide)
  have hcmd := (hheld.cmd (r := k.ref) (by decide)).trans (hready.rings_cmd hv)
  refine hready.reaches ?_
  simp only [State.matmul, hrefusal, hempty, if_true]
  rw [hready.ref] at hcmd ⊢
  exact ⟨State.finish_answered hcmd, fun p => ((s.rings_bytes hv k).trans (hheld.bytes (by decide))).get⟩

theorem matmul_completes {s : State} {r : CmdRef} {k : Cmd} {hv : HostView} (hready : s.ReadyOnRing 0x2000 r k)
    (hrefusal : theRefusal ((s.rings hv k).matmulFails k) = none) (hfull : k.product.empty = false)
    (hgood : worse ((s.rings hv k).rangesStatus ((s.rings hv k).productReads k [k.product])) ((s.rings hv k).sumStatus k [k.product]) = none) :
    Reaches (execMatmul r hv s) fun t =>
      t.Answered r { status := (s.rings hv k).outStatus ((k.product.outRuns (convertRows k.product.fmtOut
        (k.outScale (k.param 54 2) (k.param 50 1)) ((s.rings hv k).prodRows k.product ((s.rings hv k).pavesOf k)))).map
          fun x => (x.1, x.2.length)) } ∧
      t.mem = (((s.rings hv k).runPasses k [k.product]).writeOut k.product
        (convertRows k.product.fmtOut (k.outScale (k.param 54 2) (k.param 50 1))
          ((s.rings hv k).prodRows k.product ((s.rings hv k).pavesOf k)))).mem := by
  have hruns := State.runProducts_completes (hready.rings_cmd hv) hgood
  rw [State.productOuts_single hfull, hready.ref, List.flatMap_singleton] at hruns
  refine hready.reaches ?_
  simp only [State.matmul, hrefusal, hfull, Bool.false_eq_true, if_false]
  exact hruns

theorem matmulGrouped_completes {s : State} {r : CmdRef} {k : Cmd} {hv : HostView} {ps : List Product} (hready : s.ReadyOnRing 0x2001 r k)
    (hps : ps = groupProducts k 0 ((s.rings hv k).groupTable k)) (hrefusal : theRefusal ((s.rings hv k).groupedFails k) = none)
    (htable : (s.rings hv k).readStatus (k.param 80 8) (64 * k.param 32 4) = none)
    (hgroups : (s.rings hv k).groupRefusal k ps ((s.rings hv k).groupTable k) = none)
    (hgood : worse ((s.rings hv k).rangesStatus ((s.rings hv k).productReads k ps)) ((s.rings hv k).sumStatus k ps) = none) :
    Reaches (execMatmulGrouped r hv s) fun t =>
      t.Answered r
        { status := (s.rings hv k).outStatus (((s.rings hv k).productOuts k ps).flatMap fun v => (v.1.outRuns v.2).map fun x => (x.1, x.2.length)) } ∧
      t.mem = (((s.rings hv k).productOuts k ps).foldl (fun u v => u.writeOut v.1 v.2) ((s.rings hv k).runPasses k ps)).mem := by
  subst hps
  have hruns := State.runProducts_completes (hready.rings_cmd hv) hgood
  rw [hready.ref] at hruns
  refine hready.reaches ?_
  simp only [State.matmulGrouped, hrefusal, htable, hgroups]
  exact hruns

/-! ## Attention (R447) -/

/-- The new keys and values and the outputs of an ATTEND leave the commands in flight to be found as before. -/
theorem State.attended_cmd (s : State) (paves : List Nat) (c : Cmd) (es : List (AttendEntry × List Nat)) (r : CmdRef) :
    (((s.dropRegions paves).attendStore c es).attendWrite c es).cmd r = s.cmd r :=
  (State.attendWrite_acts (ps := [.draws, .regs, .mem, .weights, .log, .outbox])
    (State.attendStore_acts (State.dropRegions_acts .refl (by decide)) (by decide)) (by decide)).cmd (by decide)

theorem attend_completes {s u : State} {r : CmdRef} {k : Cmd} {hv : HostView} {es : List (AttendEntry × List Nat)}
    (hready : s.ReadyOnRing 0x2002 r k) (hes : es = (s.rings hv k).attendEntries k)
    (hu : u = (s.rings hv k).dropRegions (bitsBelow 8 (k.param 56 1))) (hrefusal : theRefusal ((s.rings hv k).attendFails k) = none)
    (htable : (s.rings hv k).readStatus (k.param 64 8) (16 * k.param 44 4) = none)
    (hentries : (s.rings hv k).attendTableFails k es = none) (hins : u.rangesStatus (k.attendIns es) = none)
    (hpages : (u.attendStore k es).rangesStatus (k.attendPages es) = none) :
    Reaches (execAttend r hv s) fun t =>
      t.Answered r { status := (u.attendStore k es).outStatus (k.attendOuts es) } ∧
      t.mem = ((u.attendStore k es).attendWrite k es).mem := by
  subst hes hu
  have hcmd := ((s.rings hv k).attended_cmd (bitsBelow 8 (k.param 56 1)) k ((s.rings hv k).attendEntries k) k.ref).trans (hready.rings_cmd hv)
  refine hready.reaches ?_
  simp only [State.attend, hrefusal, htable, hentries, hins, hpages]
  rw [hready.ref] at hcmd ⊢
  exact ⟨State.finish_answered hcmd, rfl⟩

/-- Settles O30: each row's own lemma, in the order of the clauses. -/
theorem matmulCompletes : Obligations.MatmulCompletes :=
  ⟨fun _ _ _ _ => matmul_empty_answers,
   fun _ _ _ _ => matmul_completes,
   fun _ _ _ _ hready => matmulGrouped_completes hready rfl,
   fun _ _ _ _ hready => attend_completes hready rfl rfl⟩

end Sys2Proof.Machine
end

section
/-! PROOF. Unit events (R150, R178): the statement speaks of every state, and in one of a queue numbered beyond the 64 of the device a fault of
a pavé is not kept in PV_FAULT. -/

namespace Sys2Proof.Machine

open Sys2Proof

/-! ## The state -/

/-- The TRAIN_STEP of a service that queue 0x1FF8 opened in berth 0. No doorbell page has that number, and the occurrence counter of the
FENCED flag that such a page's event register would have (R54), `counterWord (evQueue 0x1FF8) 3`, is bits 31:24 of the word at `faultReg 1`,
PV_FAULT of pavé 0. -/
def strayCmd : Cmd :=
  { queue := 0x1FF8, tag := 0, fn := 0, opcode := 0x7000, flags := 0, berth := 0, epoch := 1, acceptedAt := 0, deadline := none,
    packet := [], stage := .done, status := 0, detail := 0, result0 := 0, result1 := 0, logged := false, scale := none, assay := none,
    amax := none, bodies := [] }

/-- A stage plan without layers. -/
def strayPlan : Plan :=
  { firstLayer := 0, layers := 0, embed := false, head := false, parts := [], tensors := [],
    model := { layers := 0, heads := 0, kvHeads := 0, headDim := 0, hidden := 0, ffn := 0, vocab := 0, experts := 0, topExperts := 0,
               kvScale := 0, eps := 0, ropeAddr := 0, tensors := [] } }

/-- The reset device with that service in a pass. Its queue's completion ring lies in host memory that fails, so that the step's report
fences the queue (R124); and the word that then counts the fence stands at 127 in its highest byte, so that the count sets bit 31. -/
def strayState : State :=
  { State.reset with
    regs := [(faultReg 1, 0x7F000000)]
    host := { cells := [], fails := [(0, 2 ^ 32)] }
    queues := [(0x1FF8, newQueue 0 0 1 6 6 1 0 0x10000)]
    trains := [(0, { State.reset.newTrain strayCmd strayPlan [] with phase := .pass })] }

/-! ## The fault -/

/-- The fault ends the step (R487), whose report fences the queue; the count of that fence sets bit 31 of PV_FAULT, and the unit's own fault,
of kind 1, finds a fault kept already. -/
theorem strayState_paveFault : Reaches (exec (.paveFault 0 (2 ^ 28)) strayState) fun t => t.regNat (faultReg 1) = 0x80000000 :=
  runs_reaches (by decide)

/-- Refutes O32: a fault of kind 1 of pavé 0 leaves PV_FAULT without its kind where the report of the training step that it ends goes to
queue 0x1FF8. -/
theorem not_unitEventsComplete : ¬ Obligations.UnitEventsComplete := by
  intro h
  obtain ⟨hpave, -⟩ := h
  obtain ⟨t, hrun, -, -, hkept⟩ := hpave strayState 0 (2 ^ 28) (by decide) (by decide) (.inl (by decide)) (by decide)
  have hfault : t.regNat (faultReg 1) = 2 ^ 31 + paveFaultWord (2 ^ 28) := hkept (by decide) (by decide)
  obtain ⟨u, hreached, hstands⟩ := strayState_paveFault
  have hsame : u = t := Host.Outcome.next.inj (hreached.symm.trans hrun)
  rw [← hsame, hstands] at hfault
  exact absurd hfault (by decide)

end Sys2Proof.Machine
end

section
/-! PROOF. VOP, SAMPLE and UPDATE (R233, R244, R506 to R508): a command that its checks and its reads let through ends with the status of
its writes, and leaves its results in memory, or its lane at the next generation. -/

namespace Sys2Proof.Machine

open Sys2Proof

/-! ## VOP (R233 to R246) -/

/-- A VOP ends with the answer it finishes with: what it will add to its slots is no part of it. -/
theorem State.vopCounts_answered {s : State} {c : Cmd} (hcmd : s.cmd c.ref = some c) (a : Answer) (n : Counts) (folded : List Fp) :
    ((s.finish c.ref a).vopCounts c n folded).Answered c.ref a :=
  (State.finish_answered hcmd).counted _ _

@[simp] theorem State.vopCounts_mem (s : State) (c : Cmd) (n : Counts) (folded : List Fp) : (s.vopCounts c n folded).mem = s.mem := rfl

/-- A VOP that has elements, and whose operands are sound, is one of three: an addition of GT blocks, a quantisation, or an operation on
rows. -/
theorem State.vop_sound {s : State} {c : Cmd} (hrefusal : theRefusal (s.vopFails c) = none) (hrows : c.vop.rows ≠ 0) (hcols : c.vop.cols ≠ 0)
    (hreads : s.rangesStatus ((List.range c.vop.rows).flatMap fun i => s.vopRowReads c.vop i) = none) :
    s.vop c =
      if c.vop.op = 0x40 then s.vopGtAdd c c.vop (s.enginesOf (c.param 40 4) (bitOf (c.param 37 1) 0))
      else if c.vop.op = 0x30 then s.vopQuant c c.vop else s.vopRows c c.vop := by
  rw [List.flatMap_def] at hreads
  simp only [State.vop, hrefusal, hrows, hcols, hreads, decide_false, Bool.or_self, Bool.false_eq_true, if_false]

theorem vop_empty_answers {s : State} {r : CmdRef} {k : Cmd} {hv : HostView} (hready : s.ReadyOnRing 0x3000 r k)
    (hrefusal : theRefusal ((s.rings hv k).vopFails k) = none) (hempty : k.vop.rows = 0 ∨ k.vop.cols = 0) :
    Reaches (execVop r hv s) fun t => t.Answered r {} ∧ ∀ p, t.mem.get p = s.mem.get p := by
  have hcmd := hready.rings_cmd hv
  have hzero : (decide (k.vop.rows = 0) || decide (k.vop.cols = 0)) = true := by simpa using hempty
  refine hready.reaches ?_
  simp only [State.vop, hrefusal, hzero, if_true]
  rw [hready.ref] at hcmd ⊢
  exact ⟨State.finish_answered hcmd, fun _ => (s.rings_bytes hv k).get⟩

/-! ### Operations on rows -/

theorem State.vopRows_answered {s : State} {c : Cmd} (hcmd : s.cmd c.ref = some c) (v : Vop) :
    (s.vopRows c v).Answered c.ref { status := s.outStatus (s.vopOut v ++ v.auxOut) } := by
  unfold State.vopRows
  extract_lets rows k s1 s2
  have h1 : Acts [.draws, .regs, .mem, .weights, .log, .outbox] s s1 := State.writeRows_acts .refl (by decide)
  have h2 : Acts [.draws, .regs, .mem, .weights, .log, .outbox] s s2 := Acts.ite (State.writeMem_acts h1 (by decide)) h1
  exact State.vopCounts_answered ((h2.cmd (by decide)).trans hcmd) _ _ _

/-- The rows of an operation other than TOPK and PHILOX are converted to the output format and written. -/
theorem State.vopRows_mem {s : State} {c : Cmd} {v : Vop} (htopk : v.op ≠ 0x25) (hphilox : v.op ≠ 0x32) :
    (s.vopRows c v).mem =
      (s.writeRows v.fmtOut v.out (convertRows v.fmtOut c.vopScale ((List.range v.rows).map fun i => (s.vopRow v i).1))).mem := by
  simp only [State.vopRows, State.vopCounts_mem, State.finish_mem, htopk, hphilox, if_false, List.map_map, Function.comp_def]

/-- TOPK writes the largest values of each row, and their indices to AUX. -/
theorem State.vopRows_mem_topk {s : State} {c : Cmd} {v : Vop} (hop : v.op = 0x25) :
    (s.vopRows c v).mem =
      ((s.writeRows v.fmtOut v.out (convertRows v.fmtOut c.vopScale ((List.range v.rows).map fun i => (s.vopRow v i).1))).writeMem v.aux
        ((List.range v.rows).flatMap fun i => (s.vopRow v i).2.flatMap (leBytes 4))).mem := by
  simp only [State.vopRows, State.vopCounts_mem, State.finish_mem, hop, if_true, Nat.reduceEqDiff, if_false, List.map_map, Function.comp_def,
    List.flatMap_map, List.flatMap_assoc]

/-- PHILOX writes its uniforms as one row. -/
theorem State.vopRows_mem_philox {s : State} {c : Cmd} {v : Vop} (hop : v.op = 0x32) :
    (s.vopRows c v).mem =
      (s.writeRows v.fmtOut v.out (convertRows v.fmtOut c.vopScale [(List.range v.rows).flatMap fun i => s.philoxRow v i])).mem := by
  simp only [State.vopRows, State.vopCounts_mem, State.finish_mem, hop, if_true, Nat.reduceEqDiff, if_false, List.map_cons, List.map_nil]

/-- A VOP on rows answers for its writes, and leaves the memory that the rows leave. -/
theorem vop_rows_complete {s : State} {r : CmdRef} {k : Cmd} {hv : HostView} {m : Mem} (hready : s.ReadyOnRing 0x3000 r k)
    (hrefusal : theRefusal ((s.rings hv k).vopFails k) = none) (hrows : k.vop.rows ≠ 0) (hcols : k.vop.cols ≠ 0)
    (hreads : (s.rings hv k).rangesStatus ((List.range k.vop.rows).flatMap fun i => (s.rings hv k).vopRowReads k.vop i) = none)
    (hquant : k.vop.op ≠ 0x30) (hgt : k.vop.op ≠ 0x40) (hm : ((s.rings hv k).vopRows k k.vop).mem = m) :
    Reaches (execVop r hv s) fun t =>
      t.Answered r { status := (s.rings hv k).outStatus ((s.rings hv k).vopOut k.vop ++ k.vop.auxOut) } ∧ t.mem = m := by
  have hanswer := State.vopRows_answered (hready.rings_cmd hv) k.vop
  rw [hready.ref] at hanswer
  refine hready.reaches ?_
  rw [State.vop_sound hrefusal hrows hcols hreads, if_neg hgt, if_neg hquant]
  exact ⟨hanswer, hm⟩

/-! ### Quantisation (R239) -/

theorem State.vopQuant_answered {s : State} {c : Cmd} (hcmd : s.cmd c.ref = some c) (v : Vop) :
    (s.vopQuant c v).Answered c.ref { status := s.outStatus (s.vopOut v ++ v.auxOut) } := by
  unfold State.vopQuant
  extract_lets scale q s1 s2 s3
  have h1 : Acts [.draws, .regs, .mem, .weights, .log, .outbox] s s1 := State.writeMem_acts .refl (by decide)
  have h2 : Acts [.draws, .regs, .mem, .weights, .log, .outbox] s s2 := Acts.ite (State.writeMem_acts h1 (by decide)) h1
  have h3 : Acts [.draws, .regs, .mem, .weights, .log, .outbox] s s3 := Acts.ite h2 (State.writeMem_acts h2 (by decide))
  exact State.vopCounts_answered ((h3.cmd (by decide)).trans hcmd) _ _ _

/-- Without residuals, and in a format whose scales are not apart, a quantisation writes its output array alone. -/
theorem State.vopQuant_mem {s : State} {c : Cmd} {v : Vop} (hy : v.y = 0) (hmx : isMx v.fmtOut = false) :
    (s.vopQuant c v).mem = (s.writeMem v.out (((List.range v.rows).map fun i =>
      quantRow v.fmtOut c.vopScale (s.widenRow v.fmtX v.x v.rows v.cols i)).foldl Quantised.join ⟨[], [], {}, [], []⟩).bytes).mem := by
  simp only [State.vopQuant, State.vopCounts_mem, State.finish_mem, hy, hmx, if_true, Bool.false_eq_true, if_false]

theorem vop_quant_completes {s : State} {r : CmdRef} {k : Cmd} {hv : HostView} (hready : s.ReadyOnRing 0x3000 r k)
    (hrefusal : theRefusal ((s.rings hv k).vopFails k) = none) (hrows : k.vop.rows ≠ 0) (hcols : k.vop.cols ≠ 0)
    (hreads : (s.rings hv k).rangesStatus ((List.range k.vop.rows).flatMap fun i => (s.rings hv k).vopRowReads k.vop i) = none)
    (hop : k.vop.op = 0x30) (hy : k.vop.y = 0) (hmx : isMx k.vop.fmtOut = false) :
    Reaches (execVop r hv s) fun t =>
      t.Answered r { status := (s.rings hv k).outStatus ((s.rings hv k).vopOut k.vop ++ k.vop.auxOut) } ∧
      t.mem = ((s.rings hv k).writeMem k.vop.out (((List.range k.vop.rows).map fun i =>
        quantRow k.vop.fmtOut k.vopScale ((s.rings hv k).widenRow k.vop.fmtX k.vop.x k.vop.rows k.vop.cols i)).foldl
          Quantised.join ⟨[], [], {}, [], []⟩).bytes).mem := by
  have hanswer := State.vopQuant_answered (hready.rings_cmd hv) k.vop
  rw [hready.ref] at hanswer
  refine hready.reaches ?_
  rw [State.vop_sound hrefusal hrows hcols hreads, if_neg (by omega), if_pos hop]
  exact ⟨hanswer, State.vopQuant_mem hy hmx⟩

/-! ### The addition of GT blocks (R245) -/

/-- Where no fault has upset an engine, its addition is the one of R245. -/
theorem State.addOn_sum {s : State} {a b x : GtBlock} {cl va : Nat} (hupset : s.units.upset = []) (hsum : gtAdd a b = .sum x cl va) (n : Nat) :
    s.addOn n a b = (.sum x cl va, s) := by
  simp only [State.addOn, hsum, hupset, List.contains_nil, Bool.false_eq_true, if_false]

/-- The one block of a row of 64 columns: its sum lies at OUT, and the engine counts it. -/
theorem GtRun.block_single {s : State} {v : Vop} {a b x : GtBlock} {cl va : Nat} (hcols : v.cols = 64)
    (ha : s.gtAt (v.fmtX == 0x19) v.x = some a) (hb : s.gtAt (v.fmtY == 0x19) v.y = some b) (hsum : gtAdd a b = .sum x cl va)
    (hupset : s.units.upset = []) (es : List Nat) :
    GtRun.block s v es ⟨s, [], [], false, {}⟩ 0 =
      ⟨s.add64 (blkEngine (es.getD 0 0) + 0x20) 1, [(v.out, x.bytes)], [], false,
        ({} : Counts).plus { total := 64, saturated := cl, vanished := va }⟩ := by
  simp only [GtRun.block, hcols, Nat.reduceDiv, Nat.zero_mod, Nat.zero_mul, Nat.add_zero, ha, hb, State.addOn_sum hupset hsum, List.nil_append]

/-- An addition of one block writes the sum and answers for it. -/
theorem State.vopGtAdd_single {s : State} {c : Cmd} {v : Vop} {a b x : GtBlock} {cl va : Nat} (hcmd : s.cmd c.ref = some c) (hrows : v.rows = 1)
    (hcols : v.cols = 64) (ha : s.gtAt (v.fmtX == 0x19) v.x = some a) (hb : s.gtAt (v.fmtY == 0x19) v.y = some b)
    (hsum : gtAdd a b = .sum x cl va) (hupset : s.units.upset = []) (es : List Nat) :
    (s.vopGtAdd c v es).Answered c.ref { status := s.outStatus (s.vopOut v) } ∧
      (s.vopGtAdd c v es).mem = ((s.add64 (blkEngine (es.getD 0 0) + 0x20) 1).writeMem v.out x.bytes).mem := by
  have hacts : Acts [.draws, .regs, .mem, .weights, .log, .outbox] s
      ((s.add64 (blkEngine (es.getD 0 0) + 0x20) 1).writeMem v.out x.bytes) :=
    State.writeMem_acts (State.add64_acts .refl (by decide)) (by decide)
  have hblocks : List.range (v.rows * (v.cols / 64)) = [0] := by rw [hrows, hcols]; rfl
  simp only [State.vopGtAdd, hblocks, List.foldl_cons, List.foldl_nil, GtRun.block_single hcols ha hb hsum hupset, joinRuns, State.writeRuns,
    List.isEmpty_nil, if_true, State.vopCounts_mem, State.finish_mem]
  exact ⟨State.vopCounts_answered ((hacts.cmd (by decide)).trans hcmd) _ _ _, trivial⟩

theorem State.rings_units (s : State) (hv : HostView) (k : Cmd) : (s.rings hv k).units = s.units :=
  (State.streamed_acts (ps := [.mem]) .refl (by decide)).1 .units (by decide)

theorem vop_gtAdd_completes {s : State} {r : CmdRef} {k : Cmd} {hv : HostView} {a b x : GtBlock} {cl va : Nat} (hready : s.ReadyOnRing 0x3000 r k)
    (hrefusal : theRefusal ((s.rings hv k).vopFails k) = none) (hrows : k.vop.rows = 1) (hcols : k.vop.cols = 64)
    (hreads : (s.rings hv k).rangesStatus ((s.rings hv k).vopRowReads k.vop 0) = none) (hop : k.vop.op = 0x40)
    (ha : (s.rings hv k).gtAt (k.vop.fmtX == 0x19) k.vop.x = some a) (hb : (s.rings hv k).gtAt (k.vop.fmtY == 0x19) k.vop.y = some b)
    (hsum : gtAdd a b = .sum x cl va) (hupset : s.units.upset = []) :
    Reaches (execVop r hv s) fun t =>
      t.Answered r { status := (s.rings hv k).outStatus ((s.rings hv k).vopOut k.vop) } ∧
      t.mem = (((s.rings hv k).add64
        (blkEngine (((s.rings hv k).enginesOf (k.param 40 4) (bitOf (k.param 37 1) 0)).getD 0 0) + 0x20) 1).writeMem k.vop.out x.bytes).mem := by
  have hall : (s.rings hv k).rangesStatus ((List.range k.vop.rows).flatMap fun i => (s.rings hv k).vopRowReads k.vop i) = none := by
    rw [hrows, List.range_one, List.flatMap_singleton]
    exact hreads
  have hupset : (s.rings hv k).units.upset = [] := by rw [State.rings_units, hupset]
  have hruns := State.vopGtAdd_single (hready.rings_cmd hv) hrows hcols ha hb hsum hupset
    ((s.rings hv k).enginesOf (k.param 40 4) (bitOf (k.param 37 1) 0))
  rw [hready.ref] at hruns
  refine hready.reaches ?_
  rw [State.vop_sound hrefusal (by omega) (by omega) hall, if_pos hop]
  exact hruns

/-! ## SAMPLE (R243, R244) -/

/-- A SAMPLE whose rows are sound writes what it draws for each row, and answers for the writes. -/
theorem State.sample_sound {s : State} {c : Cmd} (hcmd : s.cmd c.ref = some c) (hrefusal : theRefusal (s.sampleFails c) = none)
    (hreads : s.rangesStatus ((List.range (c.param 32 4)).flatMap fun i =>
      [(c.param 64 8 + i * elemsBytes (c.param 40 1) (c.param 36 4), elemsBytes (c.param 40 1) (c.param 36 4)), (c.param 72 8 + 16 * i, 16)]) = none) :
    (s.sample c).Answered c.ref { status := s.outStatus [(c.param 80 8, 8 * c.param 32 4)] } ∧
      (s.sample c).mem = (s.writeMem (c.param 80 8) ((List.range (c.param 32 4)).flatMap fun i =>
        drawBytes (drawToken c.draw (s.widenRow (c.param 40 1) (c.param 64 8) (c.param 32 4) (c.param 36 4) i)
          (uniform (c.param 56 8) (s.natAt (c.param 72 8 + 16 * i) 4) (s.natAt (c.param 72 8 + 16 * i + 4) 4)
            (s.natAt (c.param 72 8 + 16 * i + 8) 4))))).mem := by
  have hwritten (a : Nat) (bs : List Byte) : (s.writeMem a bs).cmd c.ref = some c :=
    (Acts.cmd (ps := [.draws, .regs, .mem, .weights, .log, .outbox]) (State.writeMem_acts .refl (by decide)) (by decide)).trans hcmd
  rw [List.flatMap_def] at hreads
  simp only [State.sample, hrefusal, hreads, State.finish_mem, and_true]
  exact State.finish_answered (hwritten ..)

theorem sample_completes {s : State} {r : CmdRef} {k : Cmd} {hv : HostView} (hready : s.ReadyOnRing 0x3001 r k)
    (hrefusal : theRefusal ((s.rings hv k).sampleFails k) = none)
    (hreads : (s.rings hv k).rangesStatus ((List.range (k.param 32 4)).flatMap fun i =>
      [(k.param 64 8 + i * elemsBytes (k.param 40 1) (k.param 36 4), elemsBytes (k.param 40 1) (k.param 36 4)), (k.param 72 8 + 16 * i, 16)]) = none) :
    Reaches (execSample r hv s) fun t =>
      t.Answered r { status := (s.rings hv k).outStatus [(k.param 80 8, 8 * k.param 32 4)] } ∧
      t.mem = ((s.rings hv k).writeMem (k.param 80 8) ((List.range (k.param 32 4)).flatMap fun i =>
        drawBytes (drawToken k.draw ((s.rings hv k).widenRow (k.param 40 1) (k.param 64 8) (k.param 32 4) (k.param 36 4) i)
          (uniform (k.param 56 8) ((s.rings hv k).natAt (k.param 72 8 + 16 * i) 4) ((s.rings hv k).natAt (k.param 72 8 + 16 * i + 4) 4)
            ((s.rings hv k).natAt (k.param 72 8 + 16 * i + 8) 4))))).mem := by
  have hsound := State.sample_sound (hready.rings_cmd hv) hrefusal hreads
  rw [hready.ref] at hsound
  exact hready.reaches hsound

/-! ## APPLY (R507) -/

/-- The flags of the updates lie apart from the status words of the contexts, and so do their occurrence counters. -/
theorem ctxStatus_ne_evUpd (c : Nat) : ctxStatus c ≠ evUpd ∧ ctxStatus c ≠ counterWord evUpd 2 := by
  have hflag : evUpd = blkKeeper + 0x2740 := rfl
  have hcount : counterWord evUpd 2 = blkKeeper + 0xA740 := by decide
  rw [hcount, hflag, ctxStatus, ctxBase]
  omega

/-- A context whose state is lost says so (R495). -/
theorem State.loseState_stateLost (s : State) (c : Nat) : (s.loseState c).stateLost c = true := by
  obtain ⟨hflag, hcount⟩ := ctxStatus_ne_evUpd c
  rw [State.stateLost, State.regNat, State.loseState, State.raise_reg_ne hflag hcount]
  rw [← State.regNat, State.setCtxBit, State.regNat_setNat_same, Nat.testBit_mod_two_pow, testBit_putBit_same]
  rfl

/-- The check of a live header that loses nothing changes nothing (R495). -/
theorem State.checkLive_eq {s : State} {e c : Nat} (hkept : (s.checkLive e c).stateLost c = false) : s.checkLive e c = s := by
  have hlost (u : State) : ¬(u.loseState c).stateLost c = false := by rw [State.loseState_stateLost]; decide
  revert hkept
  unfold State.checkLive
  dsimp only
  split
  · exact fun hkept => absurd hkept (hlost _)
  · split
    · exact fun hkept => absurd hkept (hlost _)
    · exact fun _ => rfl

/-- The state in which an APPLY updates its blocks: with the first one the shadow is opened (R498). -/
def State.applyFrom (s : State) (c : Cmd) : State := if c.param 40 4 = 0 then s.openShadow c.epoch (c.param 33 1) else s

/-- The state in which an APPLY ends: after the last block of the context the shadow is closed (R498). -/
def State.applied (s : State) (c : Cmd) : State :=
  let r := s.applyBlocks c (s.applyFrom c)
  if r.2.2 && c.param 40 4 + c.param 44 4 == s.ctxBlocks c.epoch (c.param 33 1) then r.1.closeShadow c.epoch (c.param 33 1) (c.param 36 4)
  else r.1

theorem State.applied_cmd (s : State) (c : Cmd) (r : CmdRef) : (s.applied c).cmd r = s.cmd r := by
  have hfrom : Acts [.draws, .regs, .mem, .units, .weights, .log, .outbox] s (s.applyFrom c) :=
    Acts.ite (State.openShadow_acts .refl (by decide)) .refl
  have hblocks := State.applyBlocks_acts (c := c) .refl hfrom (by decide)
  exact (Acts.ite (State.closeShadow_acts hblocks (by decide)) hblocks).cmd (by decide)

/-- Before the last block of the context the shadow stays open. -/
theorem State.applied_of_more {s : State} {c : Cmd} (hmore : c.param 40 4 + c.param 44 4 ≠ s.ctxBlocks c.epoch (c.param 33 1)) :
    s.applied c = (s.applyBlocks c (s.applyFrom c)).1 := by
  simp only [State.applied, beq_eq_false_iff_ne.2 hmore, Bool.and_false, Bool.false_eq_true, if_false]

/-- What a finished command will add to its assay slot is no part of its answer. -/
theorem State.Answered.assayed {s : State} {r : CmdRef} {a : Answer} (h : s.Answered r a) (assay : Option (Nat × Nat × Counts)) :
    (s.updCmd r fun d => { d with assay := assay }).Answered r a := by
  obtain ⟨k, hcmd, hanswer⟩ := h
  exact ⟨_, State.updCmd_cmd hcmd fun _ => rfl, hanswer⟩

/-- An APPLY whose live header and gradients are sound updates its blocks; it answers for its writes, or that the state is lost. -/
theorem State.updateApply_completes {s : State} {c : Cmd} (hcmd : s.cmd c.ref = some c) (hrefusal : theRefusal (s.applyFails c) = none)
    (hlive : s.checkLive c.epoch (c.param 33 1) = s) (hkept : s.stateLost (c.param 33 1) = false) (hreads : s.rangesStatus c.applyRanges = none) :
    (s.updateApply c).Answered c.ref
        { status := if (s.applyBlocks c (s.applyFrom c)).2.2 then s.outStatus c.narrowRanges else stPoisoned } ∧
      (s.updateApply c).mem = (s.applied c).mem := by
  simp only [State.updateApply, hrefusal, hlive, hkept, hreads, Bool.false_eq_true, if_false]
  exact ⟨(State.finish_answered ((s.applied_cmd c c.ref).trans hcmd)).assayed _, rfl⟩

theorem update_apply_completes {s u : State} {r : CmdRef} {k : Cmd} {hv : HostView} (hu : u = (s.rings hv k).checkLive k.epoch (k.param 33 1))
    (hready : s.ReadyOnRing 0x3002 r k) (hform : k.param 32 1 = 0) (hrefusal : theRefusal ((s.rings hv k).applyFails k) = none)
    (hkept : u.stateLost (k.param 33 1) = false) (hreads : u.rangesStatus k.applyRanges = none) :
    Reaches (execUpdate r hv s) fun t =>
      t.Answered r { status := if (u.applyBlocks k (u.applyFrom k)).2.2 then u.outStatus k.narrowRanges else stPoisoned } ∧
      (k.param 40 4 + k.param 44 4 ≠ (s.rings hv k).ctxBlocks k.epoch (k.param 33 1) → t.mem = (u.applyBlocks k (u.applyFrom k)).1.mem) := by
  subst hu
  have hlive := State.checkLive_eq hkept
  rw [hlive] at hkept hreads ⊢
  obtain ⟨hanswer, hmem⟩ := State.updateApply_completes (hready.rings_cmd hv) hrefusal hlive hkept hreads
  rw [hready.ref] at hanswer
  refine hready.reaches ?_
  rw [if_pos hform]
  exact ⟨hanswer, fun hmore => hmem.trans (congrArg State.mem (State.applied_of_more hmore))⟩

/-! ## COMMIT of a lane (R508) -/

/-- A lane reads the generation written to it (R503). -/
theorem State.setLane_laneGen {l : Nat} (hl : l < 4) (s : State) (g : Nat) : (s.setLane l g).laneGen l = g % 32768 := by
  have hlane : (s.setLane l g).keepsake.lanes.getD l 0 = BitVec.ofNat 16 (0x8000 + g % 32768) := by
    simp [State.setLane, State.ksWrite, List.getD_eq_getElem?_getD, hl]
  simp only [State.laneGen, State.laneWord, hlane, BitVec.toNat_ofNat, field]
  omega

/-- Lanes are read from keepsake alone. -/
theorem State.laneGen_congr {s t : State} (h : t.keepsake = s.keepsake) (l : Nat) : t.laneGen l = s.laneGen l := by
  simp only [State.laneGen, State.laneWord, h]

/-- The lanes, and what uses them, are no part of what a command meets on the ring. -/
theorem State.rings_lanes (s : State) (hv : HostView) (k : Cmd) (l : Nat) :
    (s.rings hv k).laneValid l = s.laneValid l ∧ (s.rings hv k).laneGen l = s.laneGen l ∧
      (s.rings hv k).laneInService l = s.laneInService l := by
  unfold State.rings State.streamed
  split <;> exact ⟨rfl, rfl, rfl⟩

/-- The state in which a COMMIT ends: the lane at a generation, and each of its contexts with its shadow noted. -/
def State.laneCommitted (s : State) (e l g : Nat) : State :=
  ((s.setLane l g).laneContexts e l).foldl (fun t x => t.noteShadow e x) (s.setLane l g)

theorem State.laneCommitted_acts (s : State) (e l g : Nat) : Acts [.regs] (s.setLane l g) (s.laneCommitted e l g) :=
  Acts.foldl .refl fun _ _ hu => State.noteShadow_acts hu (by decide)

/-- Registers, keepsake and interrupts are all that a COMMIT of a lane touches. -/
theorem State.laneCommitted_leaves (s : State) (e l g : Nat) : Acts [.regs, .keepsake, .outbox] s (s.laneCommitted e l g) :=
  (State.setLane_acts .refl (by decide)).trans ((s.laneCommitted_acts e l g).more (by decide))

/-- A COMMIT of a lane of no service, whose shadows are ready, takes the lane to its next generation and answers it. -/
theorem State.updateCommit_eq {s : State} {c : Cmd} (hvalid : s.laneValid (c.param 34 1) = true) (hfree : s.laneInService (c.param 34 1) = false)
    (hshadows : s.commitBlocked c.epoch (c.param 34 1) (c.param 36 4) = none) :
    s.updateCommit c = (s.laneCommitted c.epoch (c.param 34 1) ((s.laneGen (c.param 34 1) + 1) % 32768)).finish c.ref
      { result0 := (s.laneGen (c.param 34 1) + 1) % 32768 } := by
  simp only [State.updateCommit, hvalid, hfree, hshadows, Bool.not_true, Bool.false_eq_true, if_false]
  rfl

theorem update_commit_completes {s : State} {r : CmdRef} {k : Cmd} {hv : HostView} (hready : s.ReadyOnRing 0x3002 r k) (hform : k.param 32 1 ≠ 0)
    (hvalid : s.laneValid (k.param 34 1) = true) (hfree : s.laneInService (k.param 34 1) = false)
    (hshadows : (s.rings hv k).commitBlocked k.epoch (k.param 34 1) (k.param 36 4) = none) (hlane : k.param 34 1 < 4) :
    Reaches (execUpdate r hv s) fun t =>
      t.Answered r { result0 := (s.laneGen (k.param 34 1) + 1) % 32768 } ∧
      t.laneGen (k.param 34 1) = (s.laneGen (k.param 34 1) + 1) % 32768 ∧ ∀ p, t.mem.get p = s.mem.get p := by
  obtain ⟨evalid, egen, eservice⟩ := s.rings_lanes hv k (k.param 34 1)
  generalize hg : (s.laneGen (k.param 34 1) + 1) % 32768 = g
  have hleaves := (s.rings hv k).laneCommitted_leaves k.epoch (k.param 34 1) g
  have hkeepsake : ((s.rings hv k).laneCommitted k.epoch (k.param 34 1) g).keepsake = ((s.rings hv k).setLane (k.param 34 1) g).keepsake :=
    (State.laneCommitted_acts ..).1 .keepsake (by decide)
  have hgen : ((s.rings hv k).laneCommitted k.epoch (k.param 34 1) g).laneGen (k.param 34 1) = g := by
    rw [State.laneGen_congr hkeepsake, State.setLane_laneGen hlane]
    omega
  have hcmd := (hleaves.cmd (by decide)).trans (hready.rings_cmd hv)
  refine hready.reaches ?_
  rw [if_neg hform, State.updateCommit_eq (evalid.trans hvalid) (eservice.trans hfree) hshadows, egen, hg]
  rw [hready.ref] at hcmd ⊢
  exact ⟨State.finish_answered hcmd, hgen, fun _ => ((s.rings_bytes hv k).trans (hleaves.bytes (by decide))).get⟩

/-! ## The obligation -/

/-- Settles O31: each row's own lemma, in the order of the clauses; the three clauses about rows differ only in the memory that
`State.vopRows` leaves. -/
theorem vectorOpsComplete : Obligations.VectorOpsComplete :=
  ⟨fun _ _ _ _ => vop_empty_answers,
   fun _ _ _ _ hready hrefusal hrows hcols hreads htopk hquant hphilox hgt =>
     vop_rows_complete hready hrefusal hrows hcols hreads hquant hgt (State.vopRows_mem htopk hphilox),
   fun _ _ _ _ hready hrefusal hrows hcols hreads hop =>
     vop_rows_complete hready hrefusal hrows hcols hreads (by omega) (by omega) (State.vopRows_mem_topk hop),
   fun _ _ _ _ hready hrefusal hrows hcols hreads hop =>
     vop_rows_complete hready hrefusal hrows hcols hreads (by omega) (by omega) (State.vopRows_mem_philox hop),
   fun _ _ _ _ => vop_quant_completes,
   fun _ _ _ _ _ _ _ _ _ => vop_gtAdd_completes,
   fun _ _ _ _ => sample_completes,
   fun _ _ _ _ => update_apply_completes rfl,
   fun _ _ _ _ => update_commit_completes⟩

end Sys2Proof.Machine
end

section
/-! SUPPORT. What the registers of a controller, an event log and a timed event leave alone (R5, R53, R582): the facts about memory integrity
that its obligations share. -/

namespace Sys2Proof.Machine

open Sys2Proof

/-! ## Registers -/

theorem State.regNat_setNat_ne {a b : Nat} (h : b ≠ a) (s : State) (v : Nat) : (s.setNat a v).regNat b = s.regNat b :=
  congrArg BitVec.toNat (State.reg_setNat_ne h s v)

theorem State.regNat_set64_ne {a b : Nat} (hlow : b ≠ a) (hhigh : b ≠ a + 4) (s : State) (v : Nat) : (s.set64 a v).regNat b = s.regNat b := by
  rw [State.set64, State.regNat_setNat_ne hhigh, State.regNat_setNat_ne hlow]

@[simp] theorem State.regNat_sat32_same (s : State) (a n : Nat) : (s.sat32 a n).regNat a = min (s.regNat a + n) 0xFFFFFFFF := by
  rw [State.sat32, State.regNat_setNat_same]
  omega

theorem State.regNat_raise_ne {a n b : Nat} (hflag : b ≠ a) (hcount : b ≠ counterWord a n) (s : State) :
    (s.raise a n).regNat b = s.regNat b :=
  congrArg BitVec.toNat (State.raise_reg_ne hflag hcount s)

@[simp] theorem State.regNat_logEvent (s : State) (g : LogArg) (b : Nat) : (s.logEvent g).regNat b = s.regNat b :=
  congrArg BitVec.toNat (State.logEvent_reg s g b)

@[simp] theorem State.regNat_at (s : State) (now b : Nat) : (s.at now).regNat b = s.regNat b :=
  congrArg BitVec.toNat ((State.at_acts (ps := [.clock]) .refl (by decide)).reg (by decide) (by decide) b)

/-- The words that count the flags of a controller's event register stand beyond its other registers (R54). -/
theorem counterWord_evMem (c n : Nat) : counterWord (evMem c) n = blkStack c + 0x8004 + 4 * (n / 4) := by
  have hbeyond : 0x50000 ≤ evMem c := by rw [evMem, blkStack, unitBlock]; omega
  have hpage : inDoorbells (evMem c) = false := by rw [inDoorbells, decide_eq_false (Nat.not_lt.2 hbeyond), Bool.and_false]
  have hflags : evMem c = blkStack c + 4 := rfl
  rw [counterWord, hpage, if_neg Bool.false_ne_true]
  omega

theorem evMem_ne_counterWord (c n : Nat) : evMem c ≠ counterWord (evMem c) n := by
  rw [counterWord_evMem, evMem]
  omega

/-- A flag of a controller changes no register of the controller but its event register. -/
theorem State.regNat_raise_evMem {k : Nat} (hflag : k ≠ 4) (hcount : k < 0x8004) (s : State) (c n : Nat) :
    (s.raise (evMem c) n).regNat (blkStack c + k) = s.regNat (blkStack c + k) :=
  State.regNat_raise_ne (by rw [evMem]; omega) (by rw [counterWord_evMem]; omega) s

/-! ## Parts that a flag, a record and a timed event leave alone -/

@[simp] theorem State.raise_log (s : State) (a n : Nat) : (s.raise a n).log = s.log :=
  (State.raise_acts (ps := [.regs, .outbox]) .refl (by decide)).1 .log (by decide)

@[simp] theorem State.raise_mem (s : State) (a n : Nat) : (s.raise a n).mem = s.mem :=
  (State.raise_acts (ps := [.regs, .outbox]) .refl (by decide)).1 .mem (by decide)

@[simp] theorem State.raise_retraining (s : State) (a n : Nat) : (s.raise a n).retraining = s.retraining :=
  ((State.raise_acts (ps := [.regs, .outbox]) .refl (by decide)).1 .moving (by decide)).2.2

@[simp] theorem State.logEvent_clock (s : State) (g : LogArg) : (s.logEvent g).clock = s.clock :=
  (State.logEvent_acts (ps := [.log, .outbox]) .refl (by decide)).1 .clock (by decide)

@[simp] theorem State.logEvent_panel (s : State) (g : LogArg) : (s.logEvent g).panel = s.panel :=
  (State.logEvent_acts (ps := [.log, .outbox]) .refl (by decide)).1 .panel (by decide)

@[simp] theorem State.logEvent_retraining (s : State) (g : LogArg) : (s.logEvent g).retraining = s.retraining :=
  ((State.logEvent_acts (ps := [.log, .outbox]) .refl (by decide)).1 .moving (by decide)).2.2

@[simp] theorem State.logEvent_sets (s : State) (g : LogArg) : (s.logEvent g).sets = s.sets :=
  ((State.logEvent_acts (ps := [.log, .outbox]) .refl (by decide)).1 .weights (by decide)).1

@[simp] theorem State.logEvent_repairs (s : State) (g : LogArg) : (s.logEvent g).repairs = s.repairs :=
  ((State.logEvent_acts (ps := [.log, .outbox]) .refl (by decide)).1 .weights (by decide)).2.2.2

@[simp] theorem State.at_log (s : State) (now : Nat) : (s.at now).log = s.log :=
  (State.at_acts (ps := [.clock]) .refl (by decide)).1 .log (by decide)

@[simp] theorem State.at_mem (s : State) (now : Nat) : (s.at now).mem = s.mem :=
  (State.at_acts (ps := [.clock]) .refl (by decide)).1 .mem (by decide)

@[simp] theorem State.at_regs (s : State) (now : Nat) : (s.at now).regs = s.regs :=
  ((State.at_acts (ps := [.clock]) .refl (by decide)).1 .regs (by decide)).1

@[simp] theorem State.at_retraining (s : State) (now : Nat) : (s.at now).retraining = s.retraining :=
  ((State.at_acts (ps := [.clock]) .refl (by decide)).1 .moving (by decide)).2.2

@[simp] theorem State.at_ctrlFitted (s : State) (now c : Nat) : (s.at now).ctrlFitted c = s.ctrlFitted c := by
  simp only [State.ctrlFitted, State.at_spine]

/-- The record that an event writes is the newest of the log. -/
theorem State.logEvent_newest (s : State) (g : LogArg) : ∃ r, (s.logEvent g).log.records.getLast? = some r ∧ r.cause = g.cause := by
  simp only [State.logEvent]
  split <;> exact ⟨_, List.getLast?_concat, rfl⟩

end Sys2Proof.Machine
end

section
/-! PROOF. Correctable events and the leaky bucket of a controller (R311, R313 to R315, R320, R321). -/

namespace Sys2Proof.Machine

open Sys2Proof

/-! ## The bucket -/

/-- The bucket of controller c and its settings show in t what they show in s. -/
structure SameBucket (c : Nat) (s t : State) : Prop where
  level : t.bucketLevel c = s.bucketLevel c
  overflows : t.bucketOverflows c = s.bucketOverflows c
  threshold : t.bucketThreshold c = s.bucketThreshold c
  interval : t.bucketInterval c = s.bucketInterval c

theorem SameBucket.of_regs {c : Nat} {s t : State} (hbucket : t.regNat (blkCtrl c + 0x4C) = s.regNat (blkCtrl c + 0x4C))
    (hconfig : t.regNat (blkCtrl c + 0x50) = s.regNat (blkCtrl c + 0x50)) : SameBucket c s t :=
  ⟨by simp only [State.bucketLevel, hbucket], by simp only [State.bucketOverflows, hbucket],
   by simp only [State.bucketThreshold, hconfig], by simp only [State.bucketInterval, hconfig]⟩

theorem SameBucket.trans {c : Nat} {s t u : State} (h : SameBucket c s t) (k : SameBucket c t u) : SameBucket c s u :=
  ⟨k.level.trans h.level, k.overflows.trans h.overflows, k.threshold.trans h.threshold, k.interval.trans h.interval⟩

/-- Another register of the controller does not hold the bucket. -/
theorem SameBucket.setNat {c k : Nat} (hbucket : k ≠ 0x4C) (hconfig : k ≠ 0x50) (s : State) (v : Nat) :
    SameBucket c s (s.setNat (blkCtrl c + k) v) :=
  .of_regs (State.regNat_setNat_ne (by omega) ..) (State.regNat_setNat_ne (by omega) ..)

theorem SameBucket.raise (c : Nat) (s : State) (n : Nat) : SameBucket c s (s.raise (evMem c) n) :=
  .of_regs (State.regNat_raise_evMem (by decide) (by decide) ..) (State.regNat_raise_evMem (by decide) (by decide) ..)

theorem SameBucket.at (c : Nat) (s : State) (now : Nat) : SameBucket c s (s.at now) :=
  .of_regs (State.regNat_at ..) (State.regNat_at ..)

theorem State.bucketLevel_lt (s : State) (c : Nat) : s.bucketLevel c < 256 := Nat.mod_lt _ (by decide)

theorem State.bucketOverflows_lt (s : State) (c : Nat) : s.bucketOverflows c < 65536 := Nat.mod_lt _ (by decide)

theorem State.bucketThreshold_lt (s : State) (c : Nat) : s.bucketThreshold c < 256 := Nat.mod_lt _ (by decide)

theorem State.regNat_putBucket_same (s : State) {c overflows level : Nat} (h : level < 256) :
    (s.putBucket c overflows level).regNat (blkCtrl c + 0x4C) = overflows % 65536 * 2 ^ 16 + level := by
  rw [State.putBucket, State.regNat_setNat_same]
  omega

theorem State.regNat_putBucket_ne {c a : Nat} (h : a ≠ blkCtrl c + 0x4C) (s : State) (overflows level : Nat) :
    (s.putBucket c overflows level).regNat a = s.regNat a :=
  State.regNat_setNat_ne h ..

theorem State.putBucket_bucketLevel (s : State) {c overflows level : Nat} (h : level < 256) :
    (s.putBucket c overflows level).bucketLevel c = level := by
  rw [State.bucketLevel, State.regNat_putBucket_same s h, field, Nat.shiftRight_zero]
  omega

theorem State.putBucket_bucketOverflows (s : State) {c overflows level : Nat} (h : level < 256) :
    (s.putBucket c overflows level).bucketOverflows c = overflows % 65536 := by
  rw [State.bucketOverflows, State.regNat_putBucket_same s h, field, Nat.shiftRight_eq_div_pow]
  omega

/-! ## An overflow -/

/-- What an overflow of a bucket leaves: the bucket is empty, its flag is set, and the overflow is counted and recorded (R321). -/
theorem State.overflowBucket_overflows (s : State) (c : Nat) :
    (s.overflowBucket c).bucketLevel c = 0 ∧ ((s.overflowBucket c).regNat (evMem c)).testBit 1 = true ∧
      (s.overflowBucket c).bucketOverflows c = (s.bucketOverflows c + 1) % 65536 ∧ (s.overflowBucket c).log.next = s.log.next + 1 ∧
      ∃ r, (s.overflowBucket c).log.records.getLast? = some r ∧ r.cause = 0x0301 := by
  have hput : SameBucket c (s.putBucket c (s.bucketOverflows c + 1) 0) (s.overflowBucket c) :=
    (SameBucket.raise c _ 1).trans (.of_regs (State.regNat_logEvent ..) (State.regNat_logEvent ..))
  refine ⟨hput.level.trans (State.putBucket_bucketLevel s (by decide)), ?_,
    hput.overflows.trans (State.putBucket_bucketOverflows s (by decide)), ?_, State.logEvent_newest ..⟩
  · rw [State.overflowBucket, State.regNat_logEvent]
    exact State.raise_flag (by decide) (evMem_ne_counterWord c 1) _
  · rw [State.overflowBucket, State.logEvent_log_next, State.raise_log]
    rfl

/-- No other register of the controller changes. -/
theorem State.regNat_overflowBucket {k : Nat} (hflag : k ≠ 4) (hbucket : k ≠ 0x4C) (hcount : k < 0x8004) (s : State) (c : Nat) :
    (s.overflowBucket c).regNat (blkCtrl c + k) = s.regNat (blkCtrl c + k) := by
  rw [State.overflowBucket, State.regNat_logEvent, blkCtrl, State.regNat_raise_evMem hflag hcount,
    State.regNat_putBucket_ne (by rw [blkCtrl]; omega)]

/-! ## A correctable event -/

theorem State.correctable_within {s : State} {c : Nat} (h : s.bucketLevel c + 1 ≤ s.bucketThreshold c) :
    s.correctable c = (s.raise (evMem c) 0).putBucket c (s.bucketOverflows c) (s.bucketLevel c + 1) := by
  have hsame := SameBucket.raise c s 0
  simp only [State.correctable, hsame.level, hsame.overflows, hsame.threshold, Nat.not_lt.2 h, if_false]

theorem State.correctable_above {s : State} {c : Nat} (h : s.bucketThreshold c < s.bucketLevel c + 1) :
    s.correctable c = (s.raise (evMem c) 0).overflowBucket c := by
  have hsame := SameBucket.raise c s 0
  simp only [State.correctable, hsame.level, hsame.threshold, h, if_true]

/-- An event that the bucket can take adds one to it, and nothing is recorded (R320). -/
theorem State.correctable_fills {s : State} {c : Nat} (h : s.bucketLevel c + 1 ≤ s.bucketThreshold c) :
    (s.correctable c).bucketLevel c = s.bucketLevel c + 1 ∧ (s.correctable c).bucketOverflows c = s.bucketOverflows c ∧
      (s.correctable c).log = s.log := by
  have hlevel : s.bucketLevel c + 1 < 256 := Nat.lt_of_le_of_lt h (s.bucketThreshold_lt c)
  rw [State.correctable_within h]
  exact ⟨State.putBucket_bucketLevel _ hlevel,
    (State.putBucket_bucketOverflows _ hlevel).trans (Nat.mod_eq_of_lt (s.bucketOverflows_lt c)), State.raise_log ..⟩

/-- An event that would raise the bucket above THRESHOLD makes it overflow (R321). -/
theorem State.correctable_overflows {s : State} {c : Nat} (h : s.bucketThreshold c < s.bucketLevel c + 1) :
    (s.correctable c).bucketLevel c = 0 ∧ ((s.correctable c).regNat (evMem c)).testBit 1 = true ∧
      (s.correctable c).bucketOverflows c = (s.bucketOverflows c + 1) % 65536 ∧ (s.correctable c).log.next = s.log.next + 1 ∧
      ∃ r, (s.correctable c).log.records.getLast? = some r ∧ r.cause = 0x0301 := by
  rw [State.correctable_above h, ← (SameBucket.raise c s 0).overflows, ← State.raise_log s (evMem c) 0]
  exact State.overflowBucket_overflows ..

/-- Every correctable event sets CORRECTED. -/
theorem State.correctable_flag (s : State) (c : Nat) : ((s.correctable c).regNat (evMem c)).testBit 0 = true := by
  have hset (u : State) : ((u.raise (evMem c) 0).regNat (evMem c)).testBit 0 = true :=
    State.raise_flag (by decide) (evMem_ne_counterWord c 0) u
  have hput (u : State) (overflows level : Nat) : (u.putBucket c overflows level).regNat (evMem c) = u.regNat (evMem c) :=
    State.regNat_putBucket_ne (by rw [evMem, blkCtrl]; omega) ..
  by_cases h : s.bucketLevel c + 1 ≤ s.bucketThreshold c
  · rw [State.correctable_within h, hput, hset]
  · rw [State.correctable_above (Nat.lt_of_not_le h), State.overflowBucket, State.regNat_logEvent,
      State.raise_flag_lt (by decide) (by decide) (evMem_ne_counterWord c 1), hput, hset]

/-- A correctable event changes no register of the controller but its event register and its bucket. -/
theorem State.regNat_correctable {k : Nat} (hflag : k ≠ 4) (hbucket : k ≠ 0x4C) (hcount : k < 0x8004) (s : State) (c : Nat) :
    (s.correctable c).regNat (blkCtrl c + k) = s.regNat (blkCtrl c + k) := by
  have hraise : (s.raise (evMem c) 0).regNat (blkCtrl c + k) = s.regNat (blkCtrl c + k) := State.regNat_raise_evMem hflag hcount ..
  by_cases h : s.bucketLevel c + 1 ≤ s.bucketThreshold c
  · rw [State.correctable_within h, State.regNat_putBucket_ne (by omega), hraise]
  · rw [State.correctable_above (Nat.lt_of_not_le h), State.regNat_overflowBucket hflag hbucket hcount, hraise]

@[simp] theorem State.correctable_mem (s : State) (c : Nat) : (s.correctable c).mem = s.mem :=
  (State.correctable_acts (ps := [.regs, .log, .outbox]) .refl (by decide)).1 .mem (by decide)

/-! ## The rows -/

/-- A retried transfer of a fitted controller counts in RETRIES and is one correctable event (R311). -/
theorem interfaceParityRetry_reaches {s : State} {c : Nat} {P : State → Prop} (hfit : s.ctrlFitted c = true)
    (h : P ((s.sat32 (blkCtrl c + 0x64) 1).correctable c)) : Reaches (execInterfaceParityRetry c s) P :=
  runs_reaches_of_eq (ps := [.regs, .log, .outbox]) (if_pos hfit) (State.correctable_acts (State.sat32_acts .refl (by decide)) (by decide))
    (by decide) h

theorem SameBucket.retried (c : Nat) (s : State) : SameBucket c s (s.sat32 (blkCtrl c + 0x64) 1) :=
  .setNat (by decide) (by decide) ..

theorem State.retried_counts (s : State) (c : Nat) :
    ((s.sat32 (blkCtrl c + 0x64) 1).correctable c).regNat (blkStack c + 0x64) = min (s.regNat (blkStack c + 0x64) + 1) 0xFFFFFFFF :=
  (State.regNat_correctable (by decide) (by decide) (by decide) ..).trans (State.regNat_sat32_same ..)

theorem State.retried_fills {s : State} {c : Nat} (h : s.bucketLevel c + 1 ≤ s.bucketThreshold c) :
    ((s.sat32 (blkCtrl c + 0x64) 1).correctable c).bucketLevel c = s.bucketLevel c + 1 ∧
      ((s.sat32 (blkCtrl c + 0x64) 1).correctable c).bucketOverflows c = s.bucketOverflows c ∧
      ((s.sat32 (blkCtrl c + 0x64) 1).correctable c).log = s.log := by
  have hsame := SameBucket.retried c s
  rw [← hsame.level, ← hsame.threshold] at h
  rw [← hsame.level, ← hsame.overflows]
  exact State.correctable_fills h

theorem interfaceParityRetry_fills {s : State} {c : Nat} (hfit : s.ctrlFitted c = true) (h : s.bucketLevel c + 1 ≤ s.bucketThreshold c) :
    Reaches (execInterfaceParityRetry c s) fun t =>
      t.regNat (blkStack c + 0x64) = min (s.regNat (blkStack c + 0x64) + 1) 0xFFFFFFFF ∧ t.bucketLevel c = s.bucketLevel c + 1 ∧
        t.bucketOverflows c = s.bucketOverflows c ∧ (t.regNat (evMem c)).testBit 0 = true ∧ t.mem = s.mem := by
  obtain ⟨hlevel, hoverflows, -⟩ := State.retried_fills h
  exact interfaceParityRetry_reaches hfit ⟨State.retried_counts s c, hlevel, hoverflows, State.correctable_flag .., State.correctable_mem ..⟩

theorem interfaceParityRetry_overflows {s : State} {c : Nat} (hfit : s.ctrlFitted c = true)
    (h : s.bucketThreshold c < s.bucketLevel c + 1) :
    Reaches (execInterfaceParityRetry c s) fun t =>
      t.regNat (blkStack c + 0x64) = min (s.regNat (blkStack c + 0x64) + 1) 0xFFFFFFFF ∧ t.bucketLevel c = 0 ∧
        t.bucketOverflows c = (s.bucketOverflows c + 1) % 65536 ∧ t.log.next = s.log.next + 1 ∧ (t.regNat (evMem c)).testBit 1 = true := by
  have hsame := SameBucket.retried c s
  rw [← hsame.level, ← hsame.threshold] at h
  rw [← hsame.overflows]
  obtain ⟨hlevel, hflag, hoverflows, hnext, -⟩ := State.correctable_overflows h
  exact interfaceParityRetry_reaches hfit ⟨State.retried_counts s c, hlevel, hoverflows, hnext, hflag⟩

/-- The state once a controller has corrected a sector: the correction is counted and its lane stands in MEM_ERR_INFO (R315). -/
def State.laneRecorded (s : State) (c lane : Nat) : State :=
  (s.sat64 (blkCtrl c + 0x58) 1).setNat (blkCtrl c + 0x48) (2 ^ 30 + lane % 256 * 2 ^ 16 + 0xFF * 2 ^ 8)

theorem SameBucket.laneRecorded (c : Nat) (s : State) (lane : Nat) : SameBucket c s (s.laneRecorded c lane) := by
  have hcounted : SameBucket c s (s.sat64 (blkCtrl c + 0x58) 1) :=
    .of_regs (State.regNat_set64_ne (by omega) (by omega) ..) (State.regNat_set64_ne (by omega) (by omega) ..)
  exact hcounted.trans (.setNat (by decide) (by decide) ..)

theorem State.laneRecorded_shows (s : State) (c lane : Nat) :
    ((s.laneRecorded c lane).correctable c).regNat (blkStack c + 0x48) = 2 ^ 30 + lane % 256 * 2 ^ 16 + 0xFF * 2 ^ 8 := by
  rw [← blkCtrl, State.regNat_correctable (by decide) (by decide) (by decide), State.laneRecorded, State.regNat_setNat_same]
  omega

/-- A corrected sector that reads soundly is one correctable event of its controller. -/
theorem correctedWriteBack_reaches {s : State} {addr lane c : Nat} {P : State → Prop} (hctrl : s.controllerOf (s.phys addr) = some c)
    (hsound : s.unitStatus (s.poisonUnit (s.phys addr)) = none) (h : P ((s.laneRecorded c lane).correctable c)) :
    Reaches (execCorrectedWriteBack addr lane s) P := by
  refine runs_reaches_of_eq (ps := [.regs, .log, .outbox]) ?_
    (State.correctable_acts (State.setNat_acts (State.sat64_acts .refl (by decide)) (by decide)) (by decide)) (by decide) h
  simp only [hctrl, hsound, Option.isSome_none, Bool.false_eq_true, if_false]

theorem correctedWriteBack_records {s : State} {addr lane c : Nat} (hctrl : s.controllerOf (s.phys addr) = some c)
    (hsound : s.unitStatus (s.poisonUnit (s.phys addr)) = none) :
    Reaches (execCorrectedWriteBack addr lane s) fun t => t.mem = s.mem ∧
      t.regNat (blkStack c + 0x48) = 2 ^ 30 + lane % 256 * 2 ^ 16 + 0xFF * 2 ^ 8 ∧ (t.regNat (evMem c)).testBit 0 = true :=
  correctedWriteBack_reaches hctrl hsound ⟨State.correctable_mem .., s.laneRecorded_shows c lane, State.correctable_flag ..⟩

theorem bucketLeak_leaks {s : State} {c ondie now : Nat} (hfit : s.ctrlFitted c = true) (hinterval : s.bucketInterval c ≠ 0)
    (hdue : (s.at now).now % (s.bucketInterval c * second) = 0) :
    Reaches (execBucketLeak c ondie now s) fun t => t.bucketLevel c = s.bucketLevel c - 1 ∧ t.bucketOverflows c = s.bucketOverflows c ∧
      t.regNat (blkStack c + 0x68) = min (s.regNat (blkStack c + 0x68) + ondie) 0xFFFFFFFF := by
  have hat := SameBucket.at c s now
  have hperiod : s.bucketInterval c * second ≠ 0 := Nat.mul_ne_zero hinterval (by decide)
  have hlevel : s.bucketLevel c - 1 < 256 := by have := s.bucketLevel_lt c; omega
  refine runs_reaches_of_eq (ps := [.clock, .regs])
    (t := ((s.at now).putBucket c (s.bucketOverflows c) (s.bucketLevel c - 1)).sat32 (blkCtrl c + 0x68) ondie) ?_
    (State.sat32_acts (State.putBucket_acts (State.at_acts .refl (by decide)) (by decide)) (by decide)) (by decide) ?_
  · simp [hat.interval, hat.level, hat.overflows, hfit, hperiod, hdue]
  · have hsame : SameBucket c _ (((s.at now).putBucket c (s.bucketOverflows c) (s.bucketLevel c - 1)).sat32 (blkCtrl c + 0x68) ondie) :=
      .setNat (by decide) (by decide) ..
    refine ⟨hsame.level.trans (State.putBucket_bucketLevel _ hlevel),
      hsame.overflows.trans ((State.putBucket_bucketOverflows _ hlevel).trans (Nat.mod_eq_of_lt (s.bucketOverflows_lt c))), ?_⟩
    rw [← blkCtrl, State.regNat_sat32_same, State.regNat_putBucket_ne (by omega), State.regNat_at]

theorem bucketOverflow_overflows {s : State} {c now : Nat} (hfit : s.ctrlFitted c = true) (h : s.bucketThreshold c < s.bucketLevel c + 1) :
    Reaches (execBucketOverflow c now s) fun t => t.bucketLevel c = 0 ∧ t.bucketOverflows c = (s.bucketOverflows c + 1) % 65536 ∧
      (t.regNat (evMem c)).testBit 1 = true ∧ t.log.next = s.log.next + 1 := by
  have hat := SameBucket.at c s now
  obtain ⟨hlevel, hflag, hoverflows, hnext, -⟩ := (s.at now).overflowBucket_overflows c
  rw [hat.overflows] at hoverflows
  rw [State.at_log] at hnext
  refine runs_reaches_of_eq (ps := [.clock, .regs, .log, .outbox]) (t := (s.at now).overflowBucket c) ?_
    (State.overflowBucket_acts (State.at_acts .refl (by decide)) (by decide)) (by decide) ⟨hlevel, hoverflows, hflag, hnext⟩
  simp only [State.at_ctrlFitted, hfit, hat.threshold, hat.level, h, decide_true, Bool.and_self, if_true]

/-- Settles O48: each row's own lemma, in the order of the clauses. -/
theorem integrityEventsComplete : Obligations.IntegrityEventsComplete :=
  ⟨fun _ _ => interfaceParityRetry_fills,
   fun _ _ => interfaceParityRetry_overflows,
   fun _ _ _ _ => correctedWriteBack_records,
   fun _ _ _ _ => bucketLeak_leaks,
   fun _ _ _ => bucketOverflow_overflows⟩

/-! ## What is recorded -/

theorem interfaceParityRetry_keeps_log {s : State} {c : Nat} (hfit : s.ctrlFitted c = true)
    (h : s.bucketLevel c + 1 ≤ s.bucketThreshold c) : Reaches (execInterfaceParityRetry c s) fun t => t.log = s.log :=
  interfaceParityRetry_reaches hfit (State.retried_fills h).2.2

/-- A sector that does not read soundly is not corrected, and nothing is recorded of it. -/
theorem correctedWriteBack_keeps_log {s : State} {addr lane c : Nat} (hctrl : s.controllerOf (s.phys addr) = some c)
    (h : s.bucketLevel c + 1 ≤ s.bucketThreshold c) : Reaches (execCorrectedWriteBack addr lane s) fun t => t.log = s.log := by
  cases hstatus : s.unitStatus (s.poisonUnit (s.phys addr)) with
  | some status =>
    refine runs_reaches ?_
    simp only [hctrl, hstatus, Option.isSome_some, if_true]
  | none =>
    have hsame := SameBucket.laneRecorded c s lane
    rw [← hsame.level, ← hsame.threshold] at h
    obtain ⟨-, -, hlog⟩ := State.correctable_fills h
    exact correctedWriteBack_reaches hctrl hstatus hlog

/-- Settles O10: an event above THRESHOLD overflows the bucket, and one within it leaves the log alone, at each row. -/
theorem bucketOverflowIsRecorded : Obligations.BucketOverflowIsRecorded :=
  ⟨fun _ _ => State.correctable_overflows,
   fun _ _ h => (State.correctable_fills h).2.2,
   fun _ _ => interfaceParityRetry_keeps_log,
   fun _ _ _ _ => correctedWriteBack_keeps_log⟩

end Sys2Proof.Machine
end

section
/-! PROOF. The basin: lines whose CRC fails (R317, R318), the sluice (R285), segments in change (R283) and the weirs' windows (R306). -/

namespace Sys2Proof.Machine

open Sys2Proof

/-! ## Traffic -/

/-- In memory t differs from s by traffic only: by what the weirs asked, and by counters other than the basins' own, which stand below the
blocks of the stacks. -/
structure Traffic (s t : State) : Prop where
  mem : ∃ counts asked, t.mem = { s.mem with basin := { s.mem.basin with counts := counts, asked := asked } }
  basinCounts : ∀ a, a < blkStack 0 → lookup a t.mem.basin.counts = lookup a s.mem.basin.counts

theorem Traffic.of_mem {s t : State} (h : t.mem = s.mem) : Traffic s t := ⟨⟨_, _, h⟩, fun a _ => by rw [h]⟩

theorem Traffic.ite {s t u : State} {c : Prop} [Decidable c] (h : Traffic s t) (k : Traffic s u) : Traffic s (if c then t else u) := by
  split <;> assumption

theorem Traffic.count {s t : State} {a : Nat} (h : Traffic s t) (ha : blkStack 0 ≤ a) (n : Nat) : Traffic s (t.count a n) := by
  obtain ⟨⟨counts, asked, hmem⟩, hcounts⟩ := h
  refine ⟨⟨insert a (((lookup a t.mem.basin.counts).getD 0 + n) % 2 ^ 64) t.mem.basin.counts, asked, ?_⟩, fun b hb => ?_⟩
  · simp only [State.count, State.updBasin, hmem]
  · have hne : b ≠ a := Nat.ne_of_lt (Nat.lt_of_lt_of_le hb ha)
    exact (lookup_insert_ne hne).trans (hcounts b hb)

theorem weirCount_beyond (w : Nat) : blkStack 0 ≤ weirAt w + 0x18 := by
  rw [weirAt, blkWeirs, blkStack, unitBlock, unitBlock]
  omega

theorem stackCount_beyond (c k : Nat) : blkStack 0 ≤ blkStack c + k := by
  rw [blkStack, blkStack, unitBlock, unitBlock]
  omega

theorem Traffic.chargeTo {s t : State} (h : Traffic s t) (w point n : Nat) : Traffic s (t.chargeTo w point n) := by
  have hasked (f : List (Nat × Nat) → List (Nat × Nat)) : Traffic s (t.updBasin fun b => { b with asked := f b.asked }) := by
    obtain ⟨⟨counts, asked, hmem⟩, hcounts⟩ := h
    exact ⟨⟨counts, f asked, by simp only [State.updBasin, hmem]⟩, hcounts⟩
  exact .ite (.count (hasked _) (weirCount_beyond w) n) (hasked _)

theorem Traffic.ctrlRead {s t : State} (h : Traffic s t) (c n : Nat) : Traffic s (t.ctrlRead c n) :=
  .chargeTo (h.count (stackCount_beyond ..) n) ..

theorem Traffic.ctrlWrite {s t : State} (h : Traffic s t) (c n : Nat) : Traffic s (t.ctrlWrite c n) :=
  .chargeTo (h.count (stackCount_beyond ..) n) ..

theorem Traffic.mergeSectors {s t : State} (h : Traffic s t) (l m : Nat) : Traffic s (t.mergeSectors l m) := by
  unfold State.mergeSectors
  exact .ctrlWrite (.ite h (.ctrlRead (h.count (stackCount_beyond ..) _) ..)) ..

/-! ## Lines whose CRC fails (R317, R318) -/

theorem basinCrcMismatch_reaches {s : State} {addr : Nat} {P : State → Prop} (h : P (s.crcMismatch addr)) :
    Reaches (execBasinCrcMismatch addr s) P :=
  runs_reaches_of_acts (State.crcMismatch_acts (ps := [.regs, .mem, .log, .outbox]) .refl (by decide)) (by decide) h

/-- A line whose data is lost is poisoned, and lost until its first read; a line of a stack is marked as a whole. -/
theorem State.crcLost_loses (s : State) (h p : Nat) (wide : Bool) :
    p ∈ (s.crcLost h p wide).mem.poison ∧ p ∈ (s.crcLost h p wide).mem.lost ∧
      (wide = true → p ∈ (s.crcLost h p wide).mem.basin.wide) := by
  simp only [State.crcLost, State.logEvent_mem, State.raise_mem]
  refine ⟨List.mem_dedup.2 List.mem_cons_self, List.mem_dedup.2 List.mem_cons_self, ?_⟩
  rintro rfl
  exact List.mem_dedup.2 List.mem_cons_self

theorem State.crcLost_log_next (s : State) (h p : Nat) (wide : Bool) : (s.crcLost h p wide).log.next = s.log.next + 1 := by
  rw [State.crcLost, State.logEvent_log_next, State.raise_log]
  rfl

@[simp] theorem State.wayFaulty_mem (s : State) (h p : Nat) : (s.wayFaulty h p).mem = s.mem :=
  (State.wayFaulty_acts (ps := [.regs, .log, .outbox]) .refl (by decide)).1 .mem (by decide)

theorem State.wayFaulty_log_next (s : State) (h p : Nat) : (s.wayFaulty h p).log.next = s.log.next + 1 := by
  rw [State.wayFaulty, State.logEvent_log_next, State.raise_log]
  rfl

/-- A scratchpad line has lost its data, and the failure is noted for the next one. -/
def State.scratchpadLost (s : State) (p : Nat) : State :=
  (s.crcLost (basinHub p) p false).updBasin fun b => { b with failedOnce := p :: b.failedOnce }

theorem State.crcMismatch_scratchpad {s : State} {addr p : Nat} (hp : p = s.phys addr - s.phys addr % lineBytes s.spine.variant)
    (hbasin : inBasin p = true) (hwide : p ∉ s.mem.basin.wide) (hpoison : p ∉ s.mem.poison)
    (hscratch : s.scratchpad 0 (p - basinBase) (lineBytes s.spine.variant) = true) :
    s.crcMismatch addr =
      if (s.mem.basin.failedOnce.filter (· == p)).length = 1 then (s.scratchpadLost p).wayFaulty (basinHub p) p
      else s.scratchpadLost p := by
  simp only [State.crcMismatch, ← hp, List.contains_eq_mem, decide_eq_false hwide, decide_eq_false hpoison, hbasin, hscratch, Bool.not_true,
    Bool.or_self, Bool.false_eq_true, if_false, if_true, State.scratchpadLost]

/-- A sound scratchpad line loses its data, and its second failure is recorded as a faulty line too. -/
theorem crcMismatch_loses_scratchpad {s : State} {addr p : Nat} (hp : p = s.phys addr - s.phys addr % lineBytes s.spine.variant)
    (hbasin : inBasin p = true) (hwide : p ∉ s.mem.basin.wide) (hpoison : p ∉ s.mem.poison)
    (hscratch : s.scratchpad 0 (p - basinBase) (lineBytes s.spine.variant) = true) :
    Reaches (execBasinCrcMismatch addr s) fun t => p ∈ t.mem.poison ∧ p ∈ t.mem.lost ∧
      t.log.next = s.log.next + (if (s.mem.basin.failedOnce.filter (· == p)).length = 1 then 2 else 1) := by
  refine basinCrcMismatch_reaches ?_
  rw [State.crcMismatch_scratchpad hp hbasin hwide hpoison hscratch]
  obtain ⟨hpoisoned, hlost, -⟩ := s.crcLost_loses (basinHub p) p false
  have hnext : (s.scratchpadLost p).log.next = s.log.next + 1 := s.crcLost_log_next (basinHub p) p false
  split
  · rw [State.wayFaulty_mem, State.wayFaulty_log_next, hnext, add_assoc]
    exact ⟨hpoisoned, hlost, rfl⟩
  · exact ⟨hpoisoned, hlost, hnext⟩

/-! ### Lines of the cache -/

/-- A cached line of a stack is lost where it is dirty, and fetched again where it is clean. -/
theorem State.crcMismatch_cached {s : State} {addr p : Nat} {x : CacheLine}
    (hp : p = s.phys addr - s.phys addr % lineBytes s.spine.variant) (hbasin : inBasin p = false) (hwide : p ∉ s.mem.basin.wide)
    (hcached : s.cached p = some x) :
    s.crcMismatch addr =
      if x.dirty then s.crcLost (homeHub s.spine.variant p) p true else s.crcRefetch (homeHub s.spine.variant p) x := by
  simp only [State.crcMismatch, ← hp, List.contains_eq_mem, decide_eq_false hwide, hbasin, Bool.false_eq_true, if_false, hcached]

theorem crcMismatch_loses_dirty {s : State} {addr p : Nat} {x : CacheLine}
    (hp : p = s.phys addr - s.phys addr % lineBytes s.spine.variant) (hbasin : inBasin p = false) (hwide : p ∉ s.mem.basin.wide)
    (hcached : s.cached p = some x) (hdirty : x.dirty = true) :
    Reaches (execBasinCrcMismatch addr s) fun t => p ∈ t.mem.poison ∧ p ∈ t.mem.lost ∧ p ∈ t.mem.basin.wide ∧
      t.log.next = s.log.next + 1 := by
  refine basinCrcMismatch_reaches ?_
  rw [State.crcMismatch_cached hp hbasin hwide hcached, if_pos hdirty]
  obtain ⟨hpoisoned, hlost, hmarked⟩ := s.crcLost_loses (homeHub s.spine.variant p) p true
  exact ⟨hpoisoned, hlost, hmarked rfl, s.crcLost_log_next ..⟩

theorem State.cached_line {s : State} {p : Nat} {x : CacheLine} (h : s.cached p = some x) : x.line = p := by
  simpa using List.find?_some h

/-- The state once a clean line is fetched again: the failure is counted and recorded, and the fetch is traffic of its segment's weir. -/
def State.refetched (s : State) (h : Nat) (k : CacheLine) : State :=
  let c := stackOf s.spine.variant k.line
  let n := lineBytes s.spine.variant
  let t := (s.sat32 (blkBasin h + 0x80) 1).set64 (blkBasin h + 0x78) (2 ^ 63 + k.line)
  let t := (t.raise (evBasin h) 0).logEvent { cause := 0x0306, cls := 1, unit := 0x38 + h, address := k.line }
  (t.count (blkStack c + 0x10) n).chargeTo (t.segWeir h k.seg) c n

theorem State.crcRefetch_eq (s : State) (h : Nat) (k : CacheLine) :
    s.crcRefetch h k =
      if k.refetched then
        ((s.refetched h k).updBasin fun b => { b with
          lines := b.lines.filter fun x => x.line != k.line, disabled := (h, k.seg, k.set, k.way) :: b.disabled }).wayFaulty h k.line
      else (s.refetched h k).updBasin fun b => { b with
        lines := b.lines.map fun x => if x.line = k.line then { x with refetched := true } else x } :=
  rfl

theorem State.refetched_traffic (s : State) (h : Nat) (k : CacheLine) : Traffic s (s.refetched h k) := by
  refine .chargeTo (.count (.of_mem ?_) (stackCount_beyond ..) _) ..
  rw [State.logEvent_mem, State.raise_mem]
  rfl

theorem State.refetched_log_next (s : State) (h : Nat) (k : CacheLine) : (s.refetched h k).log.next = s.log.next + 1 := by
  have hlog (t : State) (w point n : Nat) : (t.chargeTo w point n).log = t.log :=
    (State.chargeTo_acts (ps := [.mem]) .refl (by decide)).1 .log (by decide)
  rw [State.refetched, hlog]
  refine (State.logEvent_log_next ..).trans ?_
  rw [State.raise_log]
  rfl

/-- A clean line that fails is fetched again, and no byte changes. -/
theorem crcMismatch_refetches {s : State} {addr p : Nat} {x : CacheLine}
    (hp : p = s.phys addr - s.phys addr % lineBytes s.spine.variant) (hbasin : inBasin p = false) (hwide : p ∉ s.mem.basin.wide)
    (hcached : s.cached p = some x) (hclean : x.dirty = false) (hfirst : x.refetched = false) :
    Reaches (execBasinCrcMismatch addr s) fun t => t.mem.poison = s.mem.poison ∧ t.mem.cells = s.mem.cells ∧
      t.log.next = s.log.next + 1 ∧ ∃ y, t.cached p = some y ∧ y.refetched = true := by
  refine basinCrcMismatch_reaches ?_
  rw [State.crcMismatch_cached hp hbasin hwide hcached, if_neg (by simp [hclean]), State.crcRefetch_eq, if_neg (by simp [hfirst]),
    State.cached_line hcached]
  obtain ⟨⟨counts, asked, hmem⟩, -⟩ := s.refetched_traffic (homeHub s.spine.variant p) x
  have hnext := s.refetched_log_next (homeHub s.spine.variant p) x
  refine ⟨by simp only [State.updBasin, hmem], by simp only [State.updBasin, hmem], hnext, { x with refetched := true }, ?_, rfl⟩
  have hkeeps : ((fun k : CacheLine => k.line == p) ∘ fun k => if k.line = p then { k with refetched := true } else k) =
      fun k => k.line == p := by
    funext k
    by_cases hk : k.line = p <;> simp [hk]
  have hfound : s.mem.basin.lines.find? (fun k => k.line == p) = some x := hcached
  simp only [State.cached, State.updBasin, hmem, List.find?_map, hkeeps, hfound, Option.map_some, State.cached_line hcached, if_true]

/-- The second failure of a line that was fetched again takes the line out of the cache and its way out of use (R318). -/
theorem crcMismatch_disables_way {s : State} {addr p : Nat} {x : CacheLine}
    (hp : p = s.phys addr - s.phys addr % lineBytes s.spine.variant) (hbasin : inBasin p = false) (hwide : p ∉ s.mem.basin.wide)
    (hcached : s.cached p = some x) (hclean : x.dirty = false) (hsecond : x.refetched = true) :
    Reaches (execBasinCrcMismatch addr s) fun t => t.mem.poison = s.mem.poison ∧ t.mem.cells = s.mem.cells ∧
      t.log.next = s.log.next + 2 ∧ t.cached p = none ∧ (homeHub s.spine.variant p, x.seg, x.set, x.way) ∈ t.mem.basin.disabled := by
  refine basinCrcMismatch_reaches ?_
  rw [State.crcMismatch_cached hp hbasin hwide hcached, if_neg (by simp [hclean]), State.crcRefetch_eq, if_pos hsecond,
    State.cached_line hcached]
  obtain ⟨⟨counts, asked, hmem⟩, -⟩ := s.refetched_traffic (homeHub s.spine.variant p) x
  have hnext := s.refetched_log_next (homeHub s.spine.variant p) x
  simp only [State.cached, State.wayFaulty_mem, State.wayFaulty_log_next, State.updBasin, hmem, hnext]
  refine ⟨trivial, trivial, by rw [add_assoc]; rfl, ?_, List.mem_cons_self⟩
  simp

/-! ## The sluice (R285) -/

/-- Poison that leaves the basin with a line changes neither the sluice nor a counter. -/
theorem State.spreadPoison_sluice (s : State) (l : Nat) (sectors : List Nat) :
    (s.spreadPoison l sectors).mem.basin.sluice = s.mem.basin.sluice ∧
      (s.spreadPoison l sectors).mem.basin.counts = s.mem.basin.counts := by
  unfold State.spreadPoison
  split <;> exact ⟨rfl, rfl⟩

theorem State.evictEntry_bytes {s : State} {e : SluiceEntry} : SameBytes s (s.evictEntry e) :=
  State.updBasin_bytes.trans (State.count_bytes.trans (State.mergeSectors_bytes.trans State.spreadPoison_bytes))

theorem stackOf_lt (v : Variant) (a : Nat) : stackOf v a < 16 := by
  have hxor {x y z k : Nat} (hk : 0 < 2 ^ k) : (x % 2 ^ k) ^^^ (y % 2 ^ k) ^^^ (z % 2 ^ k) < 2 ^ k :=
    Nat.xor_lt_two_pow (Nat.xor_lt_two_pow (Nat.mod_lt _ hk) (Nat.mod_lt _ hk)) (Nat.mod_lt _ hk)
  cases v with
  | l => exact hxor (k := 4) (by decide)
  | s =>
    have hgroup : (a / 2048 % 8) ^^^ (a / 2048 / 8 % 8) ^^^ (a / 2048 / 64 % 8) < 8 := hxor (k := 3) (by decide)
    simp only [stackOf]
    omega

theorem homeHub_lt (v : Variant) (a : Nat) : homeHub v a < 2 := by
  have hstack := stackOf_lt v a
  rw [homeHub]
  omega

/-- The counter of a hub's evictions is one of its basin's own. -/
theorem evictCount_within (v : Variant) (l : Nat) : blkBasin (homeHub v l) + 0x50 < blkStack 0 := by
  have hhub : homeHub v l < 2 := homeHub_lt v l
  rw [blkBasin, blkStack, unitBlock, unitBlock]
  omega

theorem State.evictEntry_leaves (s : State) (e : SluiceEntry) :
    (s.evictEntry e).mem.basin.sluice = s.mem.basin.sluice.filter (fun x => x.line != e.line) ∧
      lookup (blkBasin (homeHub s.spine.variant e.line) + 0x50) (s.evictEntry e).mem.basin.counts =
        some (((lookup (blkBasin (homeHub s.spine.variant e.line) + 0x50) s.mem.basin.counts).getD 0 + 1) % 2 ^ 64) := by
  obtain ⟨⟨counts, asked, hmem⟩, hcounts⟩ := (Traffic.of_mem rfl).mergeSectors
    (s := (s.dropEntry e.line).count (blkBasin (homeHub s.spine.variant e.line) + 0x50) 1) e.line e.bytes
  obtain ⟨hsluice, hspread⟩ := State.spreadPoison_sluice
    (((s.dropEntry e.line).count (blkBasin (homeHub s.spine.variant e.line) + 0x50) 1).mergeSectors e.line e.bytes) e.line
    (((List.range (lineBytes s.spine.variant / 64)).filter (someSector e.bytes)).map fun i => e.line + 64 * i)
  refine ⟨hsluice.trans ?_, (congrArg (lookup _) hspread).trans ((hcounts _ (evictCount_within ..)).trans lookup_insert)⟩
  rw [hmem]
  rfl

/-- An entry whose sectors were all written leaves the sluice with no read that could fail. -/
theorem State.evict_written {s : State} {e : SluiceEntry} (h : ∀ i, i < 4 → s.neverWritten (e.line + 64 * i) = false) :
    s.evict e = s.evictEntry e := by
  have hlines : lineBytes s.spine.variant / 64 ≤ 4 := by cases s.spine.variant <;> decide
  have hsound : ((((List.range (lineBytes s.spine.variant / 64)).filter fun i => someSector e.bytes i && !wholeSector e.bytes i).map
      fun i => e.line + 64 * i).filter s.unwrittenBad) = [] := by
    rw [List.filter_eq_nil_iff]
    intro u hu
    obtain ⟨i, hi, rfl⟩ := List.mem_map.1 hu
    have hlt : i < 4 := Nat.lt_of_lt_of_le (List.mem_range.1 (List.mem_filter.1 hi).1) hlines
    simp [State.unwrittenBad, h i hlt]
  rw [State.evict, hsound]
  rfl

theorem sluiceEvict_evicts {s : State} {line : Nat} {e : SluiceEntry} (he : s.entryAt (lineOf s.spine.variant line) = some e)
    (hwritten : ∀ i, i < 4 → s.neverWritten (e.line + 64 * i) = false) :
    Reaches (execSluiceEvict line s) fun t => t.mem.basin.sluice = s.mem.basin.sluice.filter (fun x => x.line != e.line) ∧
      lookup (blkBasin (homeHub s.spine.variant e.line) + 0x50) t.mem.basin.counts =
        some (((lookup (blkBasin (homeHub s.spine.variant e.line) + 0x50) s.mem.basin.counts).getD 0 + 1) % 2 ^ 64) ∧
      ∀ p, t.mem.get p = s.mem.get p := by
  obtain ⟨hsluice, hcount⟩ := s.evictEntry_leaves e
  refine runs_reaches_of_eq (t := s.evictEntry e) ?_ (State.evictEntry_acts (ps := [.mem]) .refl (by decide)) (by decide)
    ⟨hsluice, hcount, fun _ => State.evictEntry_bytes.get⟩
  simp only [he, State.evict_written hwritten]

theorem sluiceEvict_none {s : State} {line : Nat} (hnone : s.entryAt (lineOf s.spine.variant line) = none) :
    Reaches (execSluiceEvict line s) fun t => t.mem = s.mem := by
  refine runs_reaches ?_
  simp only [hnone]

/-! ## Segments in change (R283) -/

theorem basinSegmentChange_forgets {s : State} {h j : Nat} (hchange : s.segChanges.any (fun k => k.hub == h && k.seg == j) = true)
    (holder : s.olderGone = true) :
    Reaches (execBasinSegmentChange h j s) fun t => t.segChanges = s.segChanges.filter (fun k => !(k.hub == h && k.seg == j)) ∧
      t.mem = (s.emptySegment h j).mem.forget (basinBase + h * 0x18000000 + j * 0x01000000) 0x01000000 := by
  have hleft : (s.emptySegment h j).segChanges = s.segChanges :=
    ((State.emptySegment_acts (ps := [.mem]) .refl (by decide)).1 .moving (by decide)).1
  refine runs_reaches_of_eq (t := s.endSegChange h j) ?_ (State.endSegChange_acts (ps := [.mem, .moving]) .refl (by decide)) (by decide)
    ⟨?_, rfl⟩
  · simp only [hchange, holder, Bool.and_self, if_true]
  · rw [State.endSegChange, hleft]

/-! ## The weirs' windows (R306) -/

theorem State.endPoint_bytes {s : State} {beats point : Nat} : SameBytes s (s.endPoint beats point) := by
  unfold State.endPoint
  exact .ite .refl (.foldl .refl fun _ _ => State.updBasin_bytes)

theorem State.endPoint_windowFrom (s : State) (beats point : Nat) :
    (s.endPoint beats point).mem.basin.windowFrom = s.mem.basin.windowFrom := by
  unfold State.endPoint
  extract_lets
  split
  · rfl
  · exact List.foldlRecOn (motive := fun t : State => t.mem.basin.windowFrom = s.mem.basin.windowFrom) _ _ rfl fun _ ht _ _ => ht

theorem weirWindow_open {s : State} {now : Nat} (hopen : (s.at now).now < s.mem.basin.windowFrom + 1000) :
    Reaches (execWeirWindow now s) fun t => t.now = (s.at now).now ∧ t.regs = s.regs ∧ t.mem = s.mem := by
  refine runs_reaches_of_eq (ps := [.clock]) (t := s.at now) ?_ (State.at_acts .refl (by decide)) (by decide)
    ⟨rfl, State.at_regs .., State.at_mem ..⟩
  simp only [State.endWindow, State.expired, State.at_mem, decide_eq_false (Nat.not_le.2 hopen), Bool.not_false, if_true]

/-- The points of a window that ends, before the next one takes its shares. -/
def State.windowEnded (s : State) : State :=
  (List.range 30).foldl (fun (t : State) p => t.endPoint (s.reg64 (blkPower + 8) - s.mem.basin.beatsFrom) p) s

theorem State.endWindow_ended {s : State} (h : s.expired (s.mem.basin.windowFrom + 1000) = true) :
    s.endWindow = s.windowEnded.updBasin fun b => { b with
      windowFrom := b.windowFrom + 1000, beatsFrom := s.reg64 (blkPower + 8),
      shares := (List.range 9).map fun w => (s.regNat (weirAt w), s.regNat (weirAt w + 4), s.regNat (weirAt w + 8)) } := by
  rw [State.endWindow, h, Bool.not_true, if_neg Bool.false_ne_true, State.windowEnded]

theorem State.windowEnded_windowFrom (s : State) : s.windowEnded.mem.basin.windowFrom = s.mem.basin.windowFrom := by
  rw [State.windowEnded]
  exact List.foldlRecOn (motive := fun t : State => t.mem.basin.windowFrom = s.mem.basin.windowFrom) _ _ rfl
    fun t ht p _ => (t.endPoint_windowFrom _ p).trans ht

theorem State.windowEnded_bytes (s : State) : SameBytes s s.windowEnded := .foldl .refl fun _ _ => State.endPoint_bytes

theorem weirWindow_ends {s : State} {now : Nat} (hended : s.mem.basin.windowFrom + 1000 ≤ (s.at now).now) :
    Reaches (execWeirWindow now s) fun t => t.now = (s.at now).now ∧ t.regs = s.regs ∧
      t.mem.basin.windowFrom = s.mem.basin.windowFrom + 1000 ∧
      t.mem.basin.shares = ((List.range 9).map fun w => (s.regNat (weirAt w), s.regNat (weirAt w + 4), s.regNat (weirAt w + 8))) ∧
      ∀ p, t.mem.get p = s.mem.get p := by
  rw [← State.at_mem s now] at hended
  have hacts : Acts [.clock, .mem] s (s.at now).endWindow := State.endWindow_acts (State.at_acts .refl (by decide)) (by decide)
  have hwindow : Acts [.mem] (s.at now) (s.at now).endWindow := State.endWindow_acts .refl (by decide)
  have hclock : (s.at now).endWindow.clock = (s.at now).clock := hwindow.1 .clock (by decide)
  have hnow : (s.at now).endWindow.now = (s.at now).now := by rw [State.now, hclock, State.now]
  have hregs : (s.at now).endWindow.regs = s.regs := (hacts.1 .regs (by decide)).1
  have hbytes := (s.at now).windowEnded_bytes
  refine runs_reaches_of_acts hacts (by decide) ⟨hnow, hregs, ?_⟩
  have hexpired : (s.at now).expired ((s.at now).mem.basin.windowFrom + 1000) = true := decide_eq_true hended
  rw [State.endWindow_ended hexpired, ← State.at_mem s now]
  refine ⟨congrArg (· + 1000) (s.at now).windowEnded_windowFrom, ?_, fun _ => (hbytes.trans State.updBasin_bytes).get⟩
  simp only [State.updBasin, State.regNat_at]

/-- Settles O49: each event's own lemma, in the order of the clauses. -/
theorem basinEventsComplete : Obligations.BasinEventsComplete :=
  ⟨fun _ _ _ => crcMismatch_loses_scratchpad,
   fun _ _ _ _ => crcMismatch_loses_dirty,
   fun _ _ _ _ => crcMismatch_refetches,
   fun _ _ _ _ => crcMismatch_disables_way,
   fun _ _ _ => sluiceEvict_evicts,
   fun _ _ => sluiceEvict_none,
   fun _ _ _ => basinSegmentChange_forgets,
   fun _ _ => weirWindow_open,
   fun _ _ => weirWindow_ends⟩

end Sys2Proof.Machine
end

section
/-! PROOF. Repairs of damaged lines (R325 to R327) and the retraining of a controller's interface (R312). -/

namespace Sys2Proof.Machine

open Sys2Proof

/-! ## Damage -/

/-- The set in slot w is RESIDENT or DAMAGED: what repairs and failed reads make of a RESIDENT one. -/
def State.SetStands (s : State) (w : Nat) : Prop := ∃ y, lookup w s.sets = some y ∧ (y.state = 2 ∨ y.state = 3)

theorem State.SetStands.congr {s t : State} {w : Nat} (h : s.SetStands w) (hsets : t.sets = s.sets) : t.SetStands w := by
  rw [State.SetStands, hsets]
  exact h

theorem State.SetStands.acts {ps : List Part} {s t : State} {w : Nat} (h : s.SetStands w) (ha : Acts ps s t) (hp : Part.weights ∉ ps) :
    t.SetStands w :=
  h.congr (ha.1 .weights hp).1

/-- Damage to a RESIDENT set makes it DAMAGED and leaves the other sets alone. -/
theorem State.damageSet_resident {s : State} {w : Nat} {k : WeightSet} (hk : lookup w s.sets = some k) (hstate : k.state = 2) :
    (s.damageSet w).sets = insert w { k with state := 3 } s.sets := by
  simp only [State.damageSet, hk, hstate, if_true, State.logEvent_sets, State.updSet, State.putSet_sets]

/-- Damage to a set that is not RESIDENT leaves every set alone. -/
theorem State.damageSet_other {s : State} {w : Nat} (hnot : ∀ k, lookup w s.sets = some k → k.state ≠ 2) :
    (s.damageSet w).sets = s.sets := by
  unfold State.damageSet
  cases hk : lookup w s.sets with
  | none => rfl
  | some k => simp only [hnot k hk, if_false]

theorem State.damageSet_repairs (s : State) (w : Nat) :
    (s.damageSet w).repairs = s.repairs.filter fun r => r.adapter || r.slot != w := by
  unfold State.damageSet
  cases hk : lookup w s.sets with
  | none => rfl
  | some k =>
    dsimp only
    split
    · rw [State.logEvent_repairs, State.updSet, hk]
      rfl
    · rfl

theorem State.SetStands.damageSet {s : State} {w : Nat} (h : s.SetStands w) (v : Nat) : (s.damageSet v).SetStands w := by
  by_cases hresident : ∃ k, lookup v s.sets = some k ∧ k.state = 2
  · obtain ⟨k, hk, hstate⟩ := hresident
    rw [State.SetStands, State.damageSet_resident hk hstate]
    by_cases hslot : w = v
    · exact ⟨_, by rw [hslot, lookup_insert], .inr rfl⟩
    · rw [lookup_insert_ne hslot]
      exact h
  · exact h.congr (State.damageSet_other fun k hk hstate => hresident ⟨k, hk, hstate⟩)

theorem State.damageAdapter_sets (s : State) (i : Nat) : (s.damageAdapter i).sets = s.sets := by
  have hupd (f : Adapter → Adapter) : (s.updAdapter i f).sets = s.sets := by
    unfold State.updAdapter
    split <;> rfl
  have hraise (t : State) (a n : Nat) : (t.raise a n).sets = t.sets :=
    ((State.raise_acts (ps := [.regs, .outbox]) .refl (by decide)).1 .weights (by decide)).1
  rw [State.damageAdapter, State.logEvent_sets, hraise]
  exact hupd _

theorem State.SetStands.damage {s : State} {w : Nat} (h : s.SetStands w) (adapter : Bool) (slot : Nat) :
    (s.damage adapter slot).SetStands w := by
  cases adapter with
  | true => exact h.congr (State.damageAdapter_sets s slot)
  | false => exact h.damageSet slot

/-- Damage leaves a set that stands DAMAGED (R327). -/
theorem State.SetStands.damaged {s : State} {w : Nat} (h : s.SetStands w) :
    ∃ y, lookup w (s.damage false w).sets = some y ∧ y.state = 3 := by
  obtain ⟨k, hk, hresident | hdamaged⟩ := h
  · exact ⟨_, by rw [State.damage, if_neg Bool.false_ne_true, State.damageSet_resident hk hresident, lookup_insert], rfl⟩
  · have hother : (s.damageSet w).sets = s.sets := State.damageSet_other fun x hx => by
      rw [hk] at hx
      cases hx
      omega
    exact ⟨k, by rw [State.damage, if_neg Bool.false_ne_true, hother, hk], hdamaged⟩

/-! ## What failed reads and writes leave of a set -/

theorem State.SetStands.openRepair {s : State} {w : Nat} (h : s.SetStands w) (u : Nat) : (s.openRepair u).SetStands w := by
  unfold State.openRepair
  dsimp only
  split
  · exact h
  · split
    · exact h
    · split
      · exact h.damage ..
      · split
        · exact h.damage ..
        · exact h.congr rfl

theorem State.recordUnit_leaves (s : State) (u st : Nat) : Acts [.draws, .regs, .mem, .log, .outbox] s (s.recordUnit u st) :=
  State.recordUnit_acts .refl (by decide)

theorem State.SetStands.noteUnit {s : State} {w : Nat} (h : s.SetStands w) (u : Nat) : (s.noteUnit u).SetStands w := by
  unfold State.noteUnit
  split
  · exact h
  · exact State.SetStands.openRepair (h.acts (s.recordUnit_leaves ..) (by decide)) u

theorem State.SetStands.noteRead {s : State} {w : Nat} (h : s.SetStands w) (master a n : Nat) : (s.noteRead master a n).SetStands w := by
  unfold State.noteRead
  refine List.foldlRecOn (motive := fun t : State => t.SetStands w) _ _
    (List.foldlRecOn (motive := fun t : State => t.SetStands w) _ _ h fun t ht u _ => ?_) fun t ht p _ => ?_
  · split
    · exact ht.acts (State.noteBankPoison_acts (ps := [.regs, .outbox]) .refl (by decide)) (by decide)
    · exact ht.noteUnit u
  · exact ht.acts (State.noteParity_acts (ps := [.regs, .units, .log, .outbox]) .refl (by decide)) (by decide)

theorem State.SetStands.writeMem {s : State} {w : Nat} (h : s.SetStands w) (a : Nat) (bs : List Byte) : (s.writeMem a bs).SetStands w := by
  have hnoted : (s.noteMerge a bs.length).SetStands w :=
    List.foldlRecOn (motive := fun t : State => t.SetStands w) _ _ h fun _ hu u _ => hu.noteUnit u
  exact hnoted.acts (State.storeMem_acts (ps := [.mem]) .refl (by decide)) (by decide)

/-- A read-back that is clean after one correction only records it. -/
theorem State.readBack_corrected (s : State) (line : Nat) : Acts [.draws, .regs, .log, .outbox] s (s.readBack line 1) := by
  unfold State.readBack
  simp only [Nat.one_ne_zero, if_false, if_true]
  split
  · exact .refl
  · exact State.correctable_acts (State.setNat_acts (State.sat64_acts (State.draw_acts .refl (by decide)) (by decide)) (by decide)) (by decide)

theorem State.SetStands.readBack {s : State} {w : Nat} (h : s.SetStands w) (line outcome : Nat) : (s.readBack line outcome).SetStands w := by
  by_cases hone : outcome = 1
  · rw [hone]
    exact h.acts (s.readBack_corrected line) (by decide)
  · unfold State.readBack
    split
    · exact h
    · split
      · exact h
      · refine State.SetStands.noteUnit ?_ line
        exact h.congr rfl

/-! ## A repair opens (R325) -/

theorem State.shared_congr {s t : State} (hsets : t.sets = s.sets) (hadapters : t.adapters = s.adapters) (a : Nat) :
    t.shared a = s.shared a := by
  simp only [State.shared, hsets, hadapters]

theorem State.sourceCode_congr {s t : State} (hsets : t.sets = s.sets) (hadapters : t.adapters = s.adapters) (adapter : Bool) (slot : Nat) :
    t.sourceCode adapter slot = s.sourceCode adapter slot := by
  simp only [State.sourceCode, hsets, hadapters]

/-- Where no repair is open and there is a source, the line's repair opens. -/
theorem State.openRepair_opens {s : State} {u slot : Nat} {adapter : Bool} (hshared : s.shared u = some (adapter, slot))
    (hnone : s.repairs = []) (hsource : s.sourceCode adapter slot ≠ 3) :
    (s.openRepair u).repairs = [⟨lineOf s.spine.variant u, adapter, slot, s.now, false⟩] := by
  simp [State.openRepair, hshared, hnone, hsource]

/-- Where there is no source, the set is damaged. -/
theorem State.openRepair_damages {s : State} {u slot : Nat} {adapter : Bool} (hshared : s.shared u = some (adapter, slot))
    (hnone : s.repairs = []) (hsource : s.sourceCode adapter slot = 3) : s.openRepair u = s.damage adapter slot := by
  simp [State.openRepair, hshared, hnone, hsource]

/-- A read of one sector or line that is sound in parity leaves what the unit leaves. -/
theorem State.noteRead_unit {s : State} {a u : Nat} (hunit : s.unitsOf a 1 = [u]) (hbank : inBanks u = false) (hparity : s.parityIn a 1 = [])
    (master : Nat) : s.noteRead master a 1 = s.noteUnit u := by
  simp only [State.noteRead, hunit, hparity, List.foldl_cons, List.foldl_nil, hbank, Bool.false_eq_true, if_false]

/-- A timed event is the state before it but for its clock. -/
theorem State.at_clock (s : State) (now : Nat) : ∃ k, s.at now = { s with clock := k } := by
  unfold State.at
  split
  · exact ⟨_, rfl⟩
  · exact ⟨s.clock, rfl⟩

/-- A read that meets a bad unit of a shared set or adapter records it and opens its repair. -/
theorem State.repairOpen_notes {s : State} {a u slot st now : Nat} {adapter : Bool} (hunit : s.unitsOf a 1 = [u]) (hbank : inBanks u = false)
    (hstatus : s.unitStatus u = some st) (hparity : s.parityIn a 1 = []) (hread : s.shared (s.phys a) = some (adapter, slot)) :
    (if ((s.at now).shared ((s.at now).phys a)).isSome then (s.at now).noteRead 5 a 1 else s.at now) =
      ((s.at now).recordUnit u st).openRepair u := by
  obtain ⟨k, hk⟩ := s.at_clock now
  have hshared : ((s.at now).shared ((s.at now).phys a)).isSome = true := by
    rw [hk]
    exact Option.isSome_of_eq_some hread
  have hnote : (s.at now).noteRead 5 a 1 = (s.at now).noteUnit u := by
    rw [hk]
    exact State.noteRead_unit (s := { s with clock := k }) hunit hbank hparity 5
  have hbad : (s.at now).unitStatus u = some st := by
    rw [hk]
    exact hstatus
  rw [if_pos hshared, hnote, State.noteUnit, hbad]

/-- The effect of REPAIR_OPEN on such a read. -/
theorem repairOpen_reaches {s : State} {a u slot st now : Nat} {adapter : Bool} {P : State → Prop} (hunit : s.unitsOf a 1 = [u])
    (hbank : inBanks u = false) (hstatus : s.unitStatus u = some st) (hparity : s.parityIn a 1 = [])
    (hread : s.shared (s.phys a) = some (adapter, slot)) (h : P (((s.at now).recordUnit u st).openRepair u)) :
    Reaches (execRepairOpen a now s) P :=
  runs_reaches_of_eq (ps := [.draws, .clock, .regs, .mem, .weights, .log, .outbox])
    (State.repairOpen_notes hunit hbank hstatus hparity hread)
    (State.openRepair_acts (State.recordUnit_acts (State.at_acts .refl (by decide)) (by decide)) (by decide)) (by decide) h

/-- What the record of a bad unit leaves of what its repair goes by. -/
theorem State.recorded_leaves (s : State) (now u st : Nat) :
    ((s.at now).recordUnit u st).spine = s.spine ∧ ((s.at now).recordUnit u st).clock = (s.at now).clock ∧
      ((s.at now).recordUnit u st).sets = s.sets ∧ ((s.at now).recordUnit u st).adapters = s.adapters ∧
      ((s.at now).recordUnit u st).repairs = s.repairs := by
  have hacts : Acts [.draws, .clock, .regs, .mem, .log, .outbox] s ((s.at now).recordUnit u st) :=
    State.recordUnit_acts (State.at_acts .refl (by decide)) (by decide)
  obtain ⟨hsets, hadapters, -, hrepairs⟩ := hacts.1 .weights (by decide)
  exact ⟨hacts.1 .spine (by decide), ((s.at now).recordUnit_leaves u st).1 .clock (by decide), hsets, hadapters, hrepairs⟩

theorem repairOpen_opens {s : State} {a u slot now : Nat} {adapter : Bool} (hunit : s.unitsOf a 1 = [u]) (hbank : inBanks u = false)
    (hbad : (s.unitStatus u).isSome = true) (hparity : s.parityIn a 1 = []) (hread : s.shared (s.phys a) = some (adapter, slot))
    (hshared : s.shared u = some (adapter, slot)) (hnone : s.repairs = []) (hsource : s.sourceCode adapter slot ≠ 3) :
    Reaches (execRepairOpen a now s) fun t =>
      t.repairs = [⟨lineOf s.spine.variant u, adapter, slot, (s.at now).now, false⟩] ∧ ∀ p, t.mem.get p = s.mem.get p := by
  obtain ⟨st, hstatus⟩ := Option.isSome_iff_exists.1 hbad
  obtain ⟨hspine, hclock, hsets, hadapters, hrepairs⟩ := s.recorded_leaves now u st
  rw [← State.shared_congr hsets hadapters] at hshared
  rw [← State.sourceCode_congr hsets hadapters] at hsource
  have hopens := State.openRepair_opens hshared (hrepairs.trans hnone) hsource
  rw [hspine, State.now, hclock] at hopens
  have hopened : SameBytes ((s.at now).recordUnit u st) (((s.at now).recordUnit u st).openRepair u) :=
    Acts.bytes (ps := [.regs, .weights, .log, .outbox]) (State.openRepair_acts .refl (by decide)) (by decide)
  refine repairOpen_reaches hunit hbank hstatus hparity hread ⟨hopens, fun _ => ?_⟩
  rw [(State.recordUnit_bytes.trans hopened).get, State.at_mem]

theorem repairOpen_damages {s : State} {a u slot now : Nat} {v : WeightSet} (hunit : s.unitsOf a 1 = [u]) (hbank : inBanks u = false)
    (hbad : (s.unitStatus u).isSome = true) (hparity : s.parityIn a 1 = []) (hread : s.shared (s.phys a) = some (false, slot))
    (hshared : s.shared u = some (false, slot)) (hnone : s.repairs = []) (hsource : s.sourceCode false slot = 3)
    (hset : lookup slot s.sets = some v) (hresident : v.state = 2) :
    Reaches (execRepairOpen a now s) fun t => t.repairs = [] ∧ ∃ y, lookup slot t.sets = some y ∧ y.state = 3 := by
  obtain ⟨st, hstatus⟩ := Option.isSome_iff_exists.1 hbad
  obtain ⟨-, -, hsets, hadapters, hrepairs⟩ := s.recorded_leaves now u st
  rw [← State.shared_congr hsets hadapters] at hshared
  rw [← State.sourceCode_congr hsets hadapters] at hsource
  have hstands : ((s.at now).recordUnit u st).SetStands slot := State.SetStands.congr (s := s) ⟨v, hset, .inl hresident⟩ hsets
  have hclosed : (((s.at now).recordUnit u st).damageSet slot).repairs = [] := by
    rw [State.damageSet_repairs, hrepairs, hnone, List.filter_nil]
  refine repairOpen_reaches hunit hbank hstatus hparity hread ?_
  rw [State.openRepair_damages hshared (hrepairs.trans hnone) hsource]
  exact ⟨hclosed, hstands.damaged⟩

/-! ## The source's bytes come (R326, R327) -/

/-- The device's own range that a repair copies from is read. -/
def State.sourceRead (s : State) (r : Repair) : State :=
  match s.repairSource r with
  | some a => s.noteRead 5 a (lineBytes s.spine.variant)
  | none => s

/-- The line of a repair is written with the source's bytes. -/
def State.lineRepaired (s : State) (r : Repair) (bs : List Byte) : State := (s.sourceRead r).writeMem r.line bs

/-- A line that reads back clean closes its repair, which is counted and recorded (R326). -/
theorem State.repairLine_clean {s : State} {r : Repair} {peer : PeerData} {bs : List Byte} (hdata : s.repairData r peer = (bs, none)) :
    s.repairLine r peer 0 =
      (({ s.lineRepaired r bs with repairs := (s.lineRepaired r bs).repairs.erase r }).add64 (blkKeeper + 0x208) 1).logEvent
        { cause := 0x0309, cls := 1, unit := 0x71, address := r.line, users := (s.sourceRead r).usersOf r.adapter r.slot } := by
  simp only [State.repairLine, hdata, if_true]
  rfl

/-- A line that does not read back clean is tried once more, and then damages what it belongs to (R327). -/
theorem State.repairLine_unclean {s : State} {r : Repair} {peer : PeerData} {bs : List Byte} {outcome : Nat}
    (hdata : s.repairData r peer = (bs, none)) (houtcome : outcome ≠ 0) :
    s.repairLine r peer outcome =
      if r.unclean then ((s.lineRepaired r bs).readBack r.line outcome).damage r.adapter r.slot
      else { (s.lineRepaired r bs).readBack r.line outcome with
        repairs := ((s.lineRepaired r bs).readBack r.line outcome).repairs.map fun x => if x = r then { x with unclean := true } else x } := by
  simp only [State.repairLine, hdata, houtcome, if_false]
  rfl

theorem State.SetStands.lineRepaired {s : State} {w : Nat} (h : s.SetStands w) (r : Repair) (bs : List Byte) :
    (s.lineRepaired r bs).SetStands w := by
  refine State.SetStands.writeMem ?_ ..
  unfold State.sourceRead
  split
  · exact h.noteRead ..
  · exact h

/-- The effect of REPAIR_SOURCE_DATA on an open repair. -/
theorem repairSourceData_reaches {s : State} {line outcome now : Nat} {peer : PeerData} {hv : HostView} {x : Repair} {P : State → Prop}
    (hopen : s.repairs.find? (fun r => r.line == line) = some x) (h : P (((s.at now).sees hv).repairLine x peer outcome)) :
    Reaches (execRepairSourceData line peer outcome now hv s) P := by
  have hrepairs : ((s.at now).sees hv).repairs = s.repairs :=
    ((State.sees_acts (ps := [.clock, .host]) (State.at_acts .refl (by decide)) (by decide)).1 .weights (by decide)).2.2.2
  refine runs_reaches_of_eq (ps := [.draws, .clock, .regs, .mem, .host, .units, .weights, .log, .outbox]) ?_
    (State.repairLine_acts (State.sees_acts (State.at_acts .refl (by decide)) (by decide)) (by decide)) (by decide) h
  simp only [hrepairs, hopen]

/-- The state in which a repair's line is written, as the statement spells it. -/
theorem State.sourceRead_of_eq {s z : State} {now : Nat} {hv : HostView} {x : Repair}
    (hz : z = (match ((s.at now).sees hv).repairSource x with
      | some a => ((s.at now).sees hv).noteRead 5 a (lineBytes s.spine.variant)
      | none => (s.at now).sees hv)) : ((s.at now).sees hv).sourceRead x = z := by
  have hspine : ((s.at now).sees hv).spine = s.spine := State.at_spine ..
  rw [State.sourceRead, hspine]
  exact hz.symm

theorem repairSourceData_closes {s z : State} {line now : Nat} {peer : PeerData} {hv : HostView} {x : Repair} {bs : List Byte}
    (hopen : s.repairs.find? (fun r => r.line == line) = some x) (hdata : ((s.at now).sees hv).repairData x peer = (bs, none))
    (hz : ((s.at now).sees hv).sourceRead x = z) :
    Reaches (execRepairSourceData line peer 0 now hv s) fun t => t.repairs = (z.writeMem x.line bs).repairs.erase x ∧
      t.log.next = (z.writeMem x.line bs).log.next + 1 ∧ t.mem = (z.writeMem x.line bs).mem := by
  subst hz
  refine repairSourceData_reaches hopen ?_
  rw [State.repairLine_clean hdata, State.logEvent_repairs, State.logEvent_log_next, State.logEvent_mem]
  exact ⟨rfl, rfl, rfl⟩

theorem repairSourceData_retries {s z : State} {line now : Nat} {peer : PeerData} {hv : HostView} {x : Repair} {bs : List Byte}
    (hopen : s.repairs.find? (fun r => r.line == line) = some x) (hdata : ((s.at now).sees hv).repairData x peer = (bs, none))
    (hz : ((s.at now).sees hv).sourceRead x = z) (hfirst : x.unclean = false) :
    Reaches (execRepairSourceData line peer 1 now hv s) fun t =>
      t.repairs = (z.writeMem x.line bs).repairs.map (fun y => if y = x then { y with unclean := true } else y) ∧
      t.mem = (z.writeMem x.line bs).mem := by
  subst hz
  have hread := (((s.at now).sees hv).lineRepaired x bs).readBack_corrected x.line
  refine repairSourceData_reaches hopen ?_
  rw [State.repairLine_unclean hdata Nat.one_ne_zero, if_neg (by simp [hfirst])]
  exact ⟨congrArg (List.map _) (hread.1 .weights (by decide)).2.2.2, hread.1 .mem (by decide)⟩

theorem repairSourceData_damages {s : State} {line outcome now : Nat} {peer : PeerData} {hv : HostView} {x : Repair} {bs : List Byte}
    {v : WeightSet} (hopen : s.repairs.find? (fun r => r.line == line) = some x)
    (hdata : ((s.at now).sees hv).repairData x peer = (bs, none)) (houtcome : outcome ≠ 0) (hsecond : x.unclean = true)
    (hkind : x.adapter = false) (hset : lookup x.slot s.sets = some v) (hresident : v.state = 2) :
    Reaches (execRepairSourceData line peer outcome now hv s) fun t => ∃ y, lookup x.slot t.sets = some y ∧ y.state = 3 := by
  have hstands : s.SetStands x.slot := ⟨v, hset, .inl hresident⟩
  have hcome : ((s.at now).sees hv).SetStands x.slot :=
    hstands.acts (State.sees_acts (ps := [.clock, .host]) (State.at_acts .refl (by decide)) (by decide)) (by decide)
  refine repairSourceData_reaches hopen ?_
  rw [State.repairLine_unclean hdata houtcome, if_pos hsecond, hkind]
  exact ((hcome.lineRepaired x bs).readBack x.line outcome).damaged

theorem repairDeadline_damages {s : State} {line now : Nat} {x : Repair} {v : WeightSet}
    (hopen : s.repairs.find? (fun r => r.line == line) = some x)
    (hlate : (s.at now).expired (x.openedAt + msec * field (s.regNat (blkKeeper + 0x200)) 15 0) = true) (hkind : x.adapter = false)
    (hset : lookup x.slot s.sets = some v) (hresident : v.state = 2) :
    Reaches (execRepairDeadline line now s) fun t => ∃ y, lookup x.slot t.sets = some y ∧ y.state = 3 := by
  have hat : Acts [.clock] s (s.at now) := State.at_acts .refl (by decide)
  have hrepairs : (s.at now).repairs = s.repairs := (hat.1 .weights (by decide)).2.2.2
  have hstands : (s.at now).SetStands x.slot := State.SetStands.acts (s := s) ⟨v, hset, .inl hresident⟩ hat (by decide)
  refine runs_reaches_of_eq (ps := [.clock, .regs, .weights, .log, .outbox]) (t := (s.at now).damage x.adapter x.slot) ?_
    (State.damage_acts (State.at_acts .refl (by decide)) (by decide)) (by decide) ?_
  · simp only [hrepairs, hopen, State.regNat_at, hlate, if_true]
  · rw [hkind]
    exact hstands.damaged

/-! ## Retraining (R312) -/

theorem interfaceRetrain_holds {s : State} {c now : Nat} (hfit : s.ctrlFitted c = true) (hidle : c ∉ s.retraining)
    (hsound : c ∉ s.mem.failed) :
    Reaches (execInterfaceRetrain c now s) fun t => t.retraining = s.retraining ++ [c] ∧ t.mem = s.mem := by
  refine runs_reaches ?_
  simp [hfit, hidle, hsound]

/-- The controller's retraining is over. -/
def State.retrained (s : State) (c : Nat) : State := { s with retraining := s.retraining.filter (· != c) }

theorem State.retrained_acts {ps : List Part} {z s : State} (c : Nat) (hs : Acts ps z s) (hp : Part.moving ∈ ps) :
    Acts ps z (s.retrained c) :=
  Acts.set_retraining hs hp

@[simp] theorem State.retrained_log (s : State) (c : Nat) : (s.retrained c).log = s.log := rfl

@[simp] theorem State.retrained_mem (s : State) (c : Nat) : (s.retrained c).mem = s.mem := rfl

theorem State.retrained_over (s : State) (c : Nat) : c ∉ (s.retrained c).retraining := by
  simp [State.retrained]

theorem State.at_retrains {s : State} {c : Nat} (hbusy : c ∈ s.retraining) (now : Nat) : (s.at now).retraining.contains c = true := by
  simpa using hbusy

/-- The interface works again, which is recorded. -/
def State.interfaceWorks (s : State) (c : Nat) : State :=
  ((s.retrained c).raise (evMem c) 4).logEvent { cause := 0x0302, cls := 1, unit := 0x40 + c }

theorem interfaceRetrainDone_works {s : State} {c now : Nat} (hbusy : c ∈ s.retraining) :
    Reaches (execInterfaceRetrainDone c true now s) fun t => c ∉ t.retraining ∧ t.log.next = s.log.next + 1 ∧ t.mem = s.mem ∧
      (t.regNat (evMem c)).testBit 4 = true := by
  refine runs_reaches_of_eq (ps := [.clock, .regs, .moving, .log, .outbox]) (t := (s.at now).interfaceWorks c) ?_
    (State.logEvent_acts (State.raise_acts (State.retrained_acts c (State.at_acts .refl (by decide)) (by decide)) (by decide)) (by decide))
    (by decide) ?_
  · simp only [State.at_retrains hbusy, Bool.not_true, Bool.false_eq_true, if_false, if_true]
    rfl
  · rw [State.interfaceWorks, State.logEvent_retraining, State.raise_retraining, State.logEvent_log_next, State.raise_log,
      State.logEvent_mem, State.raise_mem, State.regNat_logEvent]
    exact ⟨(s.at now).retrained_over c, by rw [State.retrained_log, State.at_log], State.at_mem .., State.raise_flag (by decide)
      (evMem_ne_counterWord c 4) _⟩

/-- A stack whose interface does not work again is FAILED. -/
def State.markFailed (s : State) (c : Nat) : State := { s with mem := { s.mem with failed := c :: s.mem.failed } }

/-- A FAILED stack is a fatal error. -/
def State.stackFails (s : State) (c : Nat) : State :=
  (((s.retrained c).raise (evMem c) 5).markFailed c).fatal { cause := 0x0303, cls := 3, unit := 0x40 + c }

theorem State.stackFails_acts {s : State} (c now : Nat) :
    Acts [.clock, .regs, .mem, .moving, .log, .outbox] s ((s.at now).stackFails c) :=
  State.fatal_acts (Acts.set_mem (State.raise_acts (State.retrained_acts c (State.at_acts .refl (by decide)) (by decide)) (by decide)) id
    (by decide)) (by decide)

theorem interfaceRetrainDone_fails_stack {s : State} {c now : Nat} (hbusy : c ∈ s.retraining) (hstack : c < 16) :
    Reaches (execInterfaceRetrainDone c false now s) fun t => c ∉ t.retraining ∧ t.log.next = s.log.next + 1 ∧ c ∈ t.mem.failed ∧
      t.clock.fatal = true := by
  refine runs_reaches_of_eq (t := (s.at now).stackFails c) ?_ (State.stackFails_acts c now) (by decide) ?_
  · simp only [State.at_retrains hbusy, Bool.not_true, Bool.false_eq_true, if_false, hstack, if_true]
    rfl
  · rw [State.stackFails, State.fatal, State.logEvent_retraining, State.logEvent_log_next, State.logEvent_mem, State.logEvent_clock]
    refine ⟨?_, ?_, List.mem_cons_self, rfl⟩
    · rw [State.markFailed, State.raise_retraining]
      exact (s.at now).retrained_over c
    · rw [State.markFailed, State.raise_log, State.retrained_log, State.at_log]

/-- A socket whose interface does not work again is LOST. -/
def State.socketFails (s : State) (c : Nat) : State :=
  (((s.retrained c).loseSocket (c - 16)).raise (evMem c) 5).logEvent { cause := 0x0304, cls := 2, unit := 0x40 + c }

theorem State.loseSocket_loses (s : State) (n : Nat) :
    ((s.loseSocket n).socket n).state = .lost ∧ (s.loseSocket n).mem = s.mem.forget (socketBase n) socketBytes :=
  ⟨congrArg Socket.state State.putSocket_socket, congrArg (fun m => m.forget (socketBase n) socketBytes) (State.putSocket_mem ..)⟩

theorem interfaceRetrainDone_loses_socket {s : State} {c now : Nat} (hbusy : c ∈ s.retraining) (hsocket : 16 ≤ c) :
    Reaches (execInterfaceRetrainDone c false now s) fun t => c ∉ t.retraining ∧ t.log.next = s.log.next + 1 ∧
      (t.socket (c - 16)).state = .lost ∧ t.mem = s.mem.forget (socketBase (c - 16)) socketBytes := by
  have hlose : Acts [.mem, .panel, .mgmt] ((s.at now).retrained c) (((s.at now).retrained c).loseSocket (c - 16)) :=
    State.loseSocket_acts .refl (by decide)
  have hlog : (((s.at now).retrained c).loseSocket (c - 16)).log = ((s.at now).retrained c).log := hlose.1 .log (by decide)
  have hover : (((s.at now).retrained c).loseSocket (c - 16)).retraining = ((s.at now).retrained c).retraining :=
    (hlose.1 .moving (by decide)).2.2
  obtain ⟨hlost, hforgets⟩ := ((s.at now).retrained c).loseSocket_loses (c - 16)
  refine runs_reaches_of_eq (ps := [.clock, .regs, .mem, .moving, .panel, .mgmt, .log, .outbox]) (t := (s.at now).socketFails c) ?_
    (State.logEvent_acts (State.raise_acts (State.loseSocket_acts (State.retrained_acts c (State.at_acts .refl (by decide)) (by decide))
      (by decide)) (by decide)) (by decide)) (by decide) ?_
  · simp only [State.at_retrains hbusy, Bool.not_true, Bool.false_eq_true, if_false, Nat.not_lt.2 hsocket]
    rfl
  · rw [State.socketFails, State.socket, State.logEvent_retraining, State.raise_retraining, State.logEvent_log_next, State.raise_log,
      State.logEvent_mem, State.raise_mem, State.logEvent_panel, State.raise_panel, ← State.socket, hforgets, hlog, hover]
    exact ⟨(s.at now).retrained_over c, by rw [State.retrained_log, State.at_log], hlost, by rw [State.retrained_mem, State.at_mem]⟩

/-- Settles O35: each row's own lemma, in the order of the clauses. -/
theorem repairsComplete : Obligations.RepairsComplete :=
  ⟨fun _ _ _ _ _ _ => repairOpen_opens,
   fun _ _ _ _ _ _ => repairOpen_damages,
   fun _ _ _ _ _ _ _ _ hopen hdata hz => repairSourceData_closes hopen hdata (State.sourceRead_of_eq hz),
   fun _ _ _ _ _ _ _ _ hopen hdata hz => repairSourceData_retries hopen hdata (State.sourceRead_of_eq hz),
   fun _ _ _ _ _ _ _ _ _ => repairSourceData_damages,
   fun _ _ _ _ _ => repairDeadline_damages,
   fun _ _ _ => interfaceRetrain_holds,
   fun _ _ _ => interfaceRetrainDone_works,
   fun _ _ _ => interfaceRetrainDone_fails_stack,
   fun _ _ _ => interfaceRetrainDone_loses_socket⟩

end Sys2Proof.Machine
end

section
/-! PROOF. Loads into the weight region (R331): a load is judged by the region of the epoch that it carries (R140), and the statements about
WEIGHTS_LOAD and ADAPTER_LOAD by the region that the state reads. Where a commit has grown the region since the command was accepted, the
two differ. -/

namespace Sys2Proof.Machine

open Sys2Proof

/-! ## One outcome -/

/-- What two readings of one outcome say holds of one state. -/
theorem Reaches.both {o : Host.Outcome State Fault Refusal} {P Q : State → Prop} (hp : Reaches o P) (hq : Reaches o Q) : ∃ t, P t ∧ Q t := by
  obtain ⟨t, ht, hPt⟩ := hp
  obtain ⟨u, hu, hQu⟩ := hq
  have hsame : u = t := Host.Outcome.next.inj (hu.symm.trans ht)
  exact ⟨t, hPt, hsame ▸ hQu⟩

/-- A command that is finished waits for nothing. -/
theorem State.Ended.not_waits {s : State} {r : CmdRef} {st : Nat} (h : s.Ended r st) : ¬ s.Waits r := by
  rintro ⟨d, hd, hrunning⟩
  obtain ⟨c, hc, hdone, -⟩ := h
  have hsame : c = d := Option.some.inj (hc.symm.trans hd)
  rw [hsame, hrunning] at hdone
  cases hdone

/-! ## Loads outside the region of their epoch (R140, R331) -/

theorem weightsLoad_overlap_ends {s : State} {r : CmdRef} {k : Cmd} {hv : HostView} (hready : s.Ready 0x6005 r k)
    (hrefusal : theRefusal ((s.meets hv k).weightsLoadFails k) = none)
    (hoverlap : (s.meets hv k).overlapFails (k.param 56 8) (k.param 48 8) = true) :
    Reaches (execWeightsLoad r hv s) fun t => t.Ended r stAddressOverlap := by
  refine hready.reaches ?_
  simp only [State.weightsLoad, hrefusal, hoverlap, if_true, hready.ref]
  exact State.finish_ended hready.1

theorem adapterLoad_overlap_ends {s : State} {r : CmdRef} {k : Cmd} {hv : HostView} (hready : s.Ready 0x6007 r k)
    (hrefusal : theRefusal ((s.meets hv k).adapterLoadFails k) = none)
    (hoverlap : (s.meets hv k).overlapFails (k.param 64 8) (k.param 56 8) = true) :
    Reaches (execAdapterLoad r hv s) fun t => t.Ended r stAddressOverlap := by
  refine hready.reaches ?_
  simp only [State.adapterLoad, hrefusal, hoverlap, if_true, hready.ref]
  exact State.finish_ended hready.1

/-! ## A region that grew -/

/-- A RESIDENT set of 32 KiB at the start of the region, for every berth. -/
def residentSet : WeightSet :=
  { state := 2, source := 3, access := 255, link := 0, peerSet := 0, version := 1, base := 0x4000000000, bytes := 0x8000, sourceAddr := 0,
    command := none, failing := none, fingerprint := 0, cut := 0, droppedAt := 0, byTurn := false }

/-- The reset device with that set as set 0, after a commit that grew WEIGHT_REGION at 256 GiB from 1 GiB to 2 GiB: its epoch is 2. -/
def regionGrown : State :=
  ({ State.reset.setNat (blkDevice + 0x810) (2 ^ 16 + 256) with sets := [(0, residentSet)] } : State).commitEpoch
    [(blkDevice + 0x810, BitVec.ofNat 32 (2 * 2 ^ 16 + 256))]

/-- A ready command of PF0, TAG 7 of queue 1, accepted in epoch 1, with the parameters that follow the packet's first 32 bytes. -/
def acceptedBefore (opcode : Nat) (params : List Byte) : Cmd :=
  { queue := 1, tag := 7, fn := 0, opcode := opcode, flags := 0, berth := 0, epoch := 1, acceptedAt := 0, deadline := none,
    packet := zeros 32 ++ params, stage := .ready, status := 0, detail := 0, result0 := 0, result1 := 0, logged := false, scale := none,
    assay := none, amax := none, bodies := [] }

/-- WEIGHTS_LOAD of set 5 without a source: 32 KiB in the second GiB of the region. -/
def setLoad : Cmd :=
  acceptedBefore 0x6005 (leBytes 1 5 ++ leBytes 1 3 ++ zeros 14 ++ leBytes 8 0x8000 ++ leBytes 8 0x4040000000)

/-- ADAPTER_LOAD of adapter slot 0 onto set 0, without a source: 32 KiB at the same place. -/
def adapterImageLoad : Cmd :=
  acceptedBefore 0x6007 (leBytes 2 0 ++ leBytes 1 0 ++ leBytes 1 3 ++ zeros 20 ++ leBytes 8 0x8000 ++ leBytes 8 0x4040000000)

/-- The device with a command of epoch 1 still in flight. -/
def regionGrownWith (c : Cmd) : State := { regionGrown with inflight := [c] }

theorem regionGrownWith_ready (opcode : Nat) (params : List Byte) :
    (regionGrownWith (acceptedBefore opcode params)).Ready opcode ⟨1, 7⟩ (acceptedBefore opcode params) :=
  ⟨rfl, rfl, rfl, by simp [State.earlier, regionGrownWith, acceptedBefore, Cmd.is], by simp [acceptedBefore]⟩

/-- Refutes O33: a WEIGHTS_LOAD accepted before a commit grew the region, and into the part that the region gained, ends with
ADDRESS_OVERLAP, though its range lies in the region that the state reads. -/
theorem not_weightSetCommandsComplete : ¬ Obligations.WeightSetCommandsComplete := by
  intro h
  obtain ⟨hload, -⟩ := h
  have hready : (regionGrownWith setLoad).Ready 0x6005 ⟨1, 7⟩ setLoad := regionGrownWith_ready ..
  have hrefusal : theRefusal (((regionGrownWith setLoad).meets ⟨[], []⟩ setLoad).weightsLoadFails setLoad) = none := by decide
  have hnow : (regionGrownWith setLoad).overlapFails (setLoad.param 56 8) (setLoad.param 48 8) = false := by decide
  have hthen : ((regionGrownWith setLoad).meets ⟨[], []⟩ setLoad).overlapFails (setLoad.param 56 8) (setLoad.param 48 8) = true := by decide
  obtain ⟨t, hended, hwaits, -⟩ := (weightsLoad_overlap_ends hready hrefusal hthen).both (hload _ _ _ _ hready hrefusal hnow)
  exact hended.not_waits hwaits

/-- Refutes O34: an ADAPTER_LOAD accepted before a commit grew the region, and into the part that the region gained, ends with
ADDRESS_OVERLAP, though its range lies in the region that the state reads. -/
theorem not_adapterCommandsComplete : ¬ Obligations.AdapterCommandsComplete := by
  intro h
  obtain ⟨hload, -⟩ := h
  have hready : (regionGrownWith adapterImageLoad).Ready 0x6007 ⟨1, 7⟩ adapterImageLoad := regionGrownWith_ready ..
  have hrefusal : theRefusal (((regionGrownWith adapterImageLoad).meets ⟨[], []⟩ adapterImageLoad).adapterLoadFails adapterImageLoad) = none := by
    decide
  have hnow : (regionGrownWith adapterImageLoad).overlapFails (adapterImageLoad.param 64 8) (adapterImageLoad.param 56 8) = false := by decide
  have hthen : ((regionGrownWith adapterImageLoad).meets ⟨[], []⟩ adapterImageLoad).overlapFails (adapterImageLoad.param 64 8)
      (adapterImageLoad.param 56 8) = true := by decide
  have hslot : (regionGrownWith adapterImageLoad).adapterSlot adapterImageLoad = some 0 := by decide
  obtain ⟨t, hended, hwaits, -⟩ := (adapterLoad_overlap_ends hready hrefusal hthen).both (hload _ _ _ _ _ hready hrefusal hnow hslot)
  exact hended.not_waits hwaits

end Sys2Proof.Machine
end

section
/-! SUPPORT. Enlon ports: how an arm's answer about a port is read off its effect, which operations leave a port alone, and what the traffic
of a port (flits sent and kept, credits, slots, messages) leaves of it. -/

namespace Sys2Proof.Machine

open Sys2Proof

/-! ## Reading off an arm -/

/-- What holds of every state with the ports that an effect comes to holds of the arm. -/
theorem runs_reaches_of_ports {f : State → State} {s u : State} {P : State → Prop} (hf : f s = u)
    (h : ∀ t : State, (∀ q, t.port q = u.port q) → P t) : Reaches (runs f s) P := by
  subst hf
  exact runs_reaches (h _ fun _ => rfl)

theorem Acts.now {ps : List Part} {s t : State} (h : Acts ps s t) (hp : Part.clock ∉ ps) : t.now = s.now := by
  rw [State.now, show t.clock = s.clock from h.1 .clock hp, ← State.now]

/-! ## Operations that leave the ports alone -/

@[simp] theorem State.at_port (s : State) (now p : Nat) : (s.at now).port p = s.port p :=
  (State.at_acts (ps := [.clock]) .refl (by decide)).port (by decide)

@[simp] theorem State.raise_port (s : State) (a n p : Nat) : (s.raise a n).port p = s.port p :=
  (State.raise_acts (ps := [.regs, .outbox]) .refl (by decide)).port (by decide)

@[simp] theorem State.logEvent_port (s : State) (g : LogArg) (p : Nat) : (s.logEvent g).port p = s.port p :=
  (State.logEvent_acts (ps := [.log, .outbox]) .refl (by decide)).port (by decide)

@[simp] theorem State.setNat_port (s : State) (a v p : Nat) : (s.setNat a v).port p = s.port p := rfl

@[simp] theorem State.set64_port (s : State) (a v p : Nat) : (s.set64 a v).port p = s.port p := rfl

@[simp] theorem State.add32_port (s : State) (a n p : Nat) : (s.add32 a n).port p = s.port p := rfl

@[simp] theorem State.add64_port (s : State) (a n p : Nat) : (s.add64 a n).port p = s.port p := rfl

@[simp] theorem State.emitFlit_port (s : State) (q : Nat) (f : Flit) (p : Nat) : (s.emitFlit q f).port p = s.port p := rfl

@[simp] theorem State.draw_port (s : State) (p : Nat) : s.draw.2.port p = s.port p := rfl

@[simp] theorem State.noteReduced_port (s : State) (q p : Nat) : (s.noteReduced q).port p = s.port p :=
  (State.noteReduced_acts (ps := [.regs, .log, .outbox]) .refl (by decide)).port (by decide)

@[simp] theorem State.settleColls_port (s : State) (p : Nat) : s.settleColls.port p = s.port p :=
  (State.settleColls_acts (ps := [.regs, .cmds, .colls, .turns, .lockage]) .refl (by decide)).port (by decide)

@[simp] theorem State.record_port (s : State) (hub kind source : Nat) (bs : List Byte) (p : Nat) :
    (s.record hub kind source bs).port p = s.port p :=
  (State.record_acts (ps := [.logbook]) .refl (by decide)).port (by decide)

/-! ## Local time -/

@[simp] theorem State.updPort_now (s : State) (p : Nat) (f : Port → Port) : (s.updPort p f).now = s.now :=
  (State.updPort_acts (ps := [.links, .mgmt]) .refl (by decide)).now (by decide)

@[simp] theorem State.sendFlits_now (s : State) (p : Nat) (fs : List (Flit × Nat)) : (s.sendFlits p fs).now = s.now :=
  (State.sendFlits_acts (ps := [.regs, .links, .mgmt, .outbox]) .refl (by decide)).now (by decide)

/-! ## A port without its traffic -/

/-- What is left of a port besides its traffic: its state and bring-up, widths, identity, the SEQ it expects, NAKs, retrain, the credits
it granted and the pool of its peer. -/
def Port.link (k : Port) : Port :=
  { k with next := 0, kept := [], waiting := [], ackAt := 0, credits := [], shared := 0, usedShared := [], heldDed := [], heldShared := [],
           opening := [], arrived := [], violationsAt := [] }

/-- What the traffic of a port has no part in reads the same of ports that differ in their traffic only. -/
theorem Port.read_of_link {α : Type} {k l : Port} (g : Port → α) (h : k.link = l.link) (hg : ∀ k : Port, g k.link = g k := by intro; rfl) :
    g k = g l := by
  rw [← hg k, h, hg l]

/-- From s to t the ports change in their traffic only. -/
def KeepsLinks (s t : State) : Prop := ∀ q, (t.port q).link = (s.port q).link

theorem KeepsLinks.refl (s : State) : KeepsLinks s s := fun _ => rfl

theorem KeepsLinks.trans {s t u : State} (h : KeepsLinks s t) (k : KeepsLinks t u) : KeepsLinks s u := fun q => (k q).trans (h q)

/-- An operation that leaves the ports alone may follow. -/
theorem KeepsLinks.of_port_eq {z s t : State} (h : KeepsLinks z s) (hports : ∀ q, t.port q = s.port q) : KeepsLinks z t := fun q => by
  rw [hports q, h q]

theorem KeepsLinks.ite {s t u : State} {c : Prop} [Decidable c] (h : KeepsLinks s t) (k : KeepsLinks s u) :
    KeepsLinks s (if c then t else u) := by
  split <;> assumption

/-- Port p is put anew. -/
theorem KeepsLinks.putPort {z s : State} {p : Nat} {k : Port} (h : KeepsLinks z s) (hk : k.link = (s.port p).link) :
    KeepsLinks z { s with ports := insert p k s.ports } := by
  refine h.trans fun q => ?_
  by_cases hq : q = p
  · rw [hq, State.port, lookup_insert]
    exact hk
  · rw [State.port, lookup_insert_ne hq, ← State.port]

theorem KeepsLinks.updPort {z s : State} {p : Nat} {f : Port → Port} (h : KeepsLinks z s) (hf : ∀ k, (f k).link = k.link) :
    KeepsLinks z (s.updPort p f) := by
  refine h.trans fun q => ?_
  by_cases hq : q = p
  · rw [hq, State.updPort_port, hf]
  · rw [State.updPort_other hq]

theorem KeepsLinks.raise {z s : State} {a n : Nat} (h : KeepsLinks z s) : KeepsLinks z (s.raise a n) := h.of_port_eq (s.raise_port a n)

theorem KeepsLinks.add32 {z s : State} {a n : Nat} (h : KeepsLinks z s) : KeepsLinks z (s.add32 a n) := h.of_port_eq (s.add32_port a n)

theorem KeepsLinks.add64 {z s : State} {a n : Nat} (h : KeepsLinks z s) : KeepsLinks z (s.add64 a n) := h.of_port_eq (s.add64_port a n)

/-! ## Sending -/

theorem KeepsLinks.emitFlit {z s : State} {p : Nat} {f : Flit} (h : KeepsLinks z s) : KeepsLinks z (s.emitFlit p f) :=
  h.of_port_eq (s.emitFlit_port p f)

theorem KeepsLinks.sendIdle {z s : State} {p credit flags : Nat} (h : KeepsLinks z s) : KeepsLinks z (s.sendIdle p credit flags) :=
  h.emitFlit

theorem KeepsLinks.sendNow {z s : State} {p : Nat} {f : Flit} {msg : Nat} (h : KeepsLinks z s) : KeepsLinks z (s.sendNow p f msg) := by
  rw [State.sendNow]
  exact .add64 (.emitFlit (h.updPort fun _ => rfl))

theorem Port.takeCredit_link {k l : Port} {vc : Nat} (h : k.takeCredit vc = some l) : l.link = k.link := by
  unfold Port.takeCredit at h
  split at h
  · cases h; rfl
  · split at h
    · cases h; rfl
    · cases h

theorem State.flitMayGo_link {s : State} {p : Nat} {f : Flit} {k : Port} (h : s.flitMayGo p f = some k) : k.link = (s.port p).link := by
  unfold State.flitMayGo at h
  dsimp only at h
  split at h
  · cases h
  · split at h
    · split at h
      · exact Port.takeCredit_link h
      · cases h
    · cases h; rfl

theorem State.nextToGo_link {s : State} {p : Nat} {fs : List (Flit × Nat)} {blocked : List Nat} {f : Flit} {m : Nat} {k : Port}
    (h : s.nextToGo p fs blocked = some (f, m, k)) : k.link = (s.port p).link := by
  induction fs generalizing blocked with
  | nil => cases h
  | cons g fs ih =>
    rw [State.nextToGo] at h
    split at h
    · exact ih h
    · split at h
      · next hgo =>
        cases h
        exact State.flitMayGo_link hgo
      · exact ih h

theorem KeepsLinks.drain {z s : State} {n p : Nat} (h : KeepsLinks z s) : KeepsLinks z (s.drain n p) := by
  induction n generalizing s with
  | zero => exact h
  | succ n ih =>
    rw [State.drain]
    split
    · exact h
    · next hgo =>
      have hlink := State.nextToGo_link hgo
      exact ih (.sendNow (h.putPort hlink))

theorem KeepsLinks.sendFlits {z s : State} {p : Nat} {fs : List (Flit × Nat)} (h : KeepsLinks z s) : KeepsLinks z (s.sendFlits p fs) := by
  rw [State.sendFlits]
  exact .drain (h.updPort fun _ => rfl)

theorem KeepsLinks.sendWidth {z s : State} {p : Nat} (h : KeepsLinks z s) : KeepsLinks z (s.sendWidth p) :=
  .sendFlits (h.of_port_eq fun _ => rfl)

theorem KeepsLinks.sendNotice {z s : State} {p cls about context : Nat} (h : KeepsLinks z s) :
    KeepsLinks z (s.sendNotice p cls about context) :=
  .sendFlits (h.of_port_eq fun _ => rfl)

/-- New dedicated credits go out: what is left of the port besides its traffic is what it was, with the credits granted. -/
theorem State.sendCreditInit_link (s : State) (p : Nat) :
    ((s.sendCreditInit p).port p).link = ({ s.port p with granted := s.dedicated p, repartition := [] } : Port).link := by
  rw [State.sendCreditInit, KeepsLinks.sendFlits (.refl _) p, State.updPort_port]

/-! ## Retrains -/

theorem State.startRetrain_port {s : State} {p : Nat} (h : (s.port p).retrain = none) :
    (s.startRetrain p).port p = { s.port p with retrain := some s.now, nakCount := 0 } := by
  rw [State.startRetrain, if_neg (by simp [h]), State.updPort_port]

end Sys2Proof.Machine
end

section
/-! PROOF. PORT_CTRL (R374, R390), bring-up (R368, R369, R387) and a lane that fails (R388). -/

namespace Sys2Proof.Machine

open Sys2Proof

/-! ## PORT_CTRL -/

/-- A write of PORT_CTRL with one bit set does what that bit asks. -/
theorem portCtrl_reaches {f : State → State} {s u : State} {p n : Nat} {v : Word} {P : State → Prop} (hup : s.pcieUp = true) (hp : p < 8)
    (hone : popCount 4 (v.toNat % 16) ≤ 1) (hbit : v.toNat.testBit n = true) (hf : f s = u)
    (h : ∀ t : State, (∀ q, t.port q = u.port q) → P t) : Reaches (runsHost (fun s => s.portCtrl p v n f) s) P := by
  refine runs_reaches_of_ports ((if_pos hup).trans ?_) h
  change s.portCtrl p v n f = u
  rw [State.portCtrl, if_neg (Nat.not_le.2 hp), if_neg (Nat.not_lt.2 hone), if_pos hbit, hf]

theorem State.startBringUp_port (s : State) (p : Nat) :
    ((s.startBringUp p).port p).state = 2 ∧ ((s.startBringUp p).port p).phase = 1 ∧ ((s.startBringUp p).port p).since = s.now ∧
      ((s.startBringUp p).port p).retryAt = none := by
  rw [State.startBringUp, State.updPort_port]
  exact ⟨rfl, rfl, rfl, rfl⟩

theorem portRetrain_brings_up {s : State} {p : Nat} (hup : s.pcieUp = true) (hp : p < 8) (hdown : (s.port p).state = 0)
    (hmay : s.mayBringUp p = true) : Reaches (execPortRetrain p 1 s) fun t => (t.port p).state = 2 ∧ (t.port p).phase = 1 := by
  refine portCtrl_reaches (u := s.startBringUp p) hup hp (by decide) (by decide) (by simp [hdown, hmay]) fun t ht => ?_
  obtain ⟨hstate, hphase, -⟩ := s.startBringUp_port p
  rw [ht]
  exact ⟨hstate, hphase⟩

theorem portUnfence_rests {s : State} {p : Nat} (hup : s.pcieUp = true) (hp : p < 8) (hfenced : (s.port p).state = 6) :
    Reaches (execPortUnfence p 2 s) fun t => (t.port p).state = s.restState p ∧ (t.port p).sawAbsent = false := by
  refine portCtrl_reaches hup hp (by decide) (by decide) (if_pos hfenced) fun t ht => ?_
  rw [ht, State.updPort_port]
  exact ⟨rfl, rfl⟩

/-- A port that is not up goes down without more. -/
theorem State.linkDown_port_of_not_up {s : State} {p next : Nat} (hup : (s.port p).state ≠ 3) (hres : (s.port p).state ≠ 4) :
    (s.linkDown p next).port p = { s.port p with state := next, phase := 0, retrain := none, txWidth := 0, rxWidth := 0 } := by
  rw [State.linkDown, if_neg (by simp [hup, hres]), State.updPort_port]

theorem portHold_holds {s : State} {p : Nat} (hup : s.pcieUp = true) (hp : p < 8)
    (hstate : [0, 1, 2, 5, 6].contains (s.port p).state = true) :
    Reaches (execPortHold p 4 s) fun t => (t.port p).state = 7 ∧ (t.port p).fencedUnder = ((s.port p).state == 6) := by
  have hcases : (s.port p).state = 0 ∨ (s.port p).state = 1 ∨ (s.port p).state = 2 ∨ (s.port p).state = 5 ∨ (s.port p).state = 6 := by
    simpa using hstate
  refine portCtrl_reaches hup hp (by decide) (by decide) (if_neg (by omega)) fun t ht => ?_
  rw [ht, State.updPort_port, State.linkDown_port_of_not_up (by omega) (by omega)]
  exact ⟨rfl, rfl⟩

theorem portRelease_releases {s : State} {p : Nat} (hup : s.pcieUp = true) (hp : p < 8) (hheld : (s.port p).state = 7) :
    Reaches (execPortRelease p 8 s) fun t =>
      (t.port p).state = (if (s.port p).fencedUnder then 6 else s.restState p) ∧ (t.port p).fencedUnder = false := by
  refine portCtrl_reaches hup hp (by decide) (by decide) (if_pos hheld) fun t ht => ?_
  rw [ht, State.updPort_port]
  exact ⟨rfl, rfl⟩

/-! ## Bring-up -/

theorem bringUpStart_brings_up {s : State} {p now : Nat} (hmay : (s.at now).mayBringUp p = true)
    (hrest : (s.port p).state = 0 ∨ (s.port p).state = 1) (hretry : (s.port p).retryAt = none) :
    Reaches (execBringUpStart p now s) fun t => (t.port p).state = 2 ∧ (t.port p).phase = 1 ∧ (t.port p).since = (s.at now).now := by
  refine runs_reaches_of_ports (u := (s.at now).startBringUp p) (if_pos (by simp [hmay, hrest, hretry])) fun t ht => ?_
  obtain ⟨hstate, hphase, hsince, -⟩ := (s.at now).startBringUp_port p
  rw [ht]
  exact ⟨hstate, hphase, hsince⟩

theorem bringUpRetry_brings_up {s : State} {p now x : Nat} (hretry : (s.port p).retryAt = some x) (hdue : x ≤ (s.at now).now)
    (hmay : (s.at now).mayBringUp p = true) (hrest : (s.port p).state = 0 ∨ (s.port p).state = 1) :
    Reaches (execBringUpRetry p now s) fun t => (t.port p).state = 2 ∧ (t.port p).phase = 1 ∧ (t.port p).retryAt = none := by
  refine runs_reaches_of_ports (u := (s.at now).startBringUp p) (by simp [hretry, State.expired, hdue, hmay, hrest]) fun t ht => ?_
  obtain ⟨hstate, hphase, -, hnone⟩ := (s.at now).startBringUp_port p
  rw [ht]
  exact ⟨hstate, hphase, hnone⟩

theorem identTimeout_fails {s : State} {p now : Nat} (htraining : (s.port p).state = 2) (hphase : (s.port p).phase ≤ 3)
    (hdue : (s.port p).since + 100 * msec ≤ (s.at now).now) :
    Reaches (execIdentTimeout p now s) fun t => (t.port p).state = 0 ∧ (t.port p).retryAt = some ((s.at now).now + second) := by
  refine runs_reaches_of_ports (if_pos (by simp [htraining, hphase, State.expired, hdue])) fun t ht => ?_
  rw [ht, State.failBringUp, State.updPort_port]
  exact ⟨rfl, rfl⟩

/-- The window ends with good lanes and the peer's WIDTH still to come: the port has its receive width and waits. -/
theorem State.lanesJudged_port {s : State} {p good : Nat} (htraining : (s.port p).state = 2) (hphase : (s.port p).phase = 1)
    (hdue : (s.port p).since + msec ≤ s.now) (hseen : (s.port p).widthSeen = false) (hwidth : widthOf good ≠ 0) :
    (s.lanesJudged p good).port p = { s.port p with phase := 2, rxWidth := widthOf good } := by
  simp [State.lanesJudged, htraining, hphase, hdue, hwidth, State.bringUpIdent, State.updPort_port, hseen]

theorem laneJudgeDone_sets_width {s : State} {p good now : Nat} (hgood : good < 2 ^ 64) (htraining : (s.port p).state = 2)
    (hphase : (s.port p).phase = 1) (hdue : (s.port p).since + msec ≤ (s.at now).now) (hseen : (s.port p).widthSeen = false)
    (hwidth : widthOf good ≠ 0) :
    Reaches (execLaneJudgeDone p good now s) fun t => (t.port p).phase = 2 ∧ (t.port p).rxWidth = widthOf good := by
  refine runs_reaches_of_ports (u := (s.at now).lanesJudged p good) (by rw [Nat.mod_eq_of_lt hgood]) fun t ht => ?_
  rw [← s.at_port now] at htraining hphase hdue hseen
  rw [ht, State.lanesJudged_port htraining hphase hdue hseen hwidth]
  exact ⟨rfl, rfl⟩

/-! ## Lanes in service -/

theorem State.sendWidth_rxWidth (s : State) (p : Nat) : ((s.sendWidth p).port p).rxWidth = (s.port p).rxWidth :=
  Port.read_of_link Port.rxWidth (KeepsLinks.sendWidth (.refl s) p)

theorem laneFail_narrows {s : State} {p lane now : Nat} (hup : (s.port p).state = 3) (hretrain : (s.port p).retrain = none)
    (hlane : lane < 64) (hgood : (s.reg64 (blkPort p + 0x20)).testBit lane = true)
    (hwidth : min (widthOf (putBit (s.reg64 (blkPort p + 0x20)) lane false)) (s.port p).rxWidth ≠ 0) :
    Reaches (execLaneFail p lane now s) fun t =>
      (t.port p).rxWidth = min (widthOf (putBit (s.reg64 (blkPort p + 0x20)) lane false)) (s.port p).rxWidth := by
  refine runs_reaches_of_ports rfl fun t ht => ?_
  rw [ht, State.laneFail]
  dsimp only
  rw [State.at_reg64, State.at_port, if_neg (by simp [hup, hretrain, hlane, hgood]), if_neg hwidth]
  rw [State.sendWidth_rxWidth]
  split
  · rw [State.noteReduced_port, State.updPort_port]
  · rw [State.updPort_port]

/-- Settles O24: each row's own lemma, in the order of the clauses. -/
theorem portControlsComplete : Obligations.PortControlsComplete :=
  ⟨fun _ _ => portRetrain_brings_up, fun _ _ => portUnfence_rests, fun _ _ => portHold_holds, fun _ _ => portRelease_releases,
   fun _ _ _ => bringUpStart_brings_up, fun _ _ _ _ => laneJudgeDone_sets_width, fun _ _ _ _ => laneFail_narrows,
   fun _ _ _ => identTimeout_fails, fun _ _ _ _ => bringUpRetry_brings_up⟩

end Sys2Proof.Machine
end

section
/-! PROOF. Flits taken up (R372, R380 to R382, R384, R388): the WIDTH of a bring-up, and the flits that come in sequence. -/

namespace Sys2Proof.Machine

open Sys2Proof

/-! ## A DATA flit leaves the link alone (R384, R386, R389) -/

theorem KeepsLinks.record {z s : State} {hub kind source : Nat} {bs : List Byte} (h : KeepsLinks z s) :
    KeepsLinks z (s.record hub kind source bs) :=
  h.of_port_eq (s.record_port hub kind source bs)

theorem KeepsLinks.violation {z s : State} {p : Nat} (h : KeepsLinks z s) : KeepsLinks z (s.violation p) :=
  .raise (.add32 (h.updPort fun _ => rfl))

theorem KeepsLinks.returnCredits {z s : State} {p vc : Nat} {held : Nat × Nat} (h : KeepsLinks z s) :
    KeepsLinks z (s.returnCredits p vc held) := by
  rw [State.returnCredits]
  dsimp only
  have hfreed := h.updPort (p := p) (f := fun k => { k with
    heldDed := subIdx vc held.1 k.heldDed, heldShared := subIdx vc held.2 k.heldShared }) fun _ => rfl
  refine .ite hfreed (.ite ?_ (.sendIdle ?_)) <;> exact .ite hfreed hfreed.sendIdle

theorem KeepsLinks.putOpening {z s : State} {p vc : Nat} {o : Option Inbound} (h : KeepsLinks z s) : KeepsLinks z (s.putOpening p vc o) :=
  h.updPort fun _ => rfl

theorem KeepsLinks.discardOpening {z s : State} {p vc : Nat} {swallow : Bool} (h : KeepsLinks z s) :
    KeepsLinks z (s.discardOpening p vc swallow) := by
  rw [State.discardOpening]
  split
  · exact h
  · exact h.putOpening.returnCredits

theorem KeepsLinks.openMessage {z s : State} {p : Nat} {f : Flit} (h : KeepsLinks z s) : KeepsLinks z (s.openMessage p f) := by
  rw [State.openMessage]
  refine .ite h.putOpening (.ite h.violation.putOpening ?_)
  split
  · exact h.putOpening
  · exact .ite h.putOpening h.sendNotice.putOpening

theorem KeepsLinks.closeMessage {z s : State} {p vc : Nat} (h : KeepsLinks z s) : KeepsLinks z (s.closeMessage p vc) := by
  rw [State.closeMessage]
  split
  · exact h
  · refine .ite h.putOpening (.ite h.putOpening.violation.returnCredits ?_)
    exact .record (h.putOpening.updPort fun _ => rfl)

theorem KeepsLinks.takeData {z s : State} {p : Nat} {f : Flit} {ded : Bool} (h : KeepsLinks z s) : KeepsLinks z (s.takeData p f ded) := by
  unfold State.takeData
  extract_lets slot isOpen start start' t bs
  have ht : KeepsLinks z t := .ite h.openMessage h
  refine .ite h.violation.discardOpening.returnCredits (.ite h.violation.returnCredits ?_)
  split
  · exact ht.returnCredits
  · next o _ =>
    extract_lets poison _ u
    have hu : KeepsLinks z u := by
      refine .ite ht.returnCredits ?_
      split
      · exact ht.putOpening.sendFlits.returnCredits
      · exact .ite ht.putOpening ht.putOpening.returnCredits
    exact .ite hu.closeMessage hu

theorem Port.takeSlot_link {k l : Port} {vc : Nat} {ded : Bool} (h : k.takeSlot vc = some (ded, l)) : l.link = k.link := by
  unfold Port.takeSlot at h
  dsimp only at h
  split at h
  · cases h; rfl
  · split at h
    · cases h; rfl
    · cases h

theorem State.takeDataFlit_keepsLinks (s : State) (p : Nat) (f : Flit) : KeepsLinks s (s.takeDataFlit p f) := by
  rw [State.takeDataFlit]
  refine .ite (KeepsLinks.refl s).violation ?_
  split
  · exact (KeepsLinks.refl s).violation
  · next hslot => exact ((KeepsLinks.refl s).putPort (Port.takeSlot_link hslot)).takeData

/-! ## A flit in sequence (R380, R381) -/

/-- A well-formed flit that port p receives, past the WIDTHs of a bring-up, with the SEQ it expects; it brings no acknowledgement, no NAK
and no credits. -/
structure State.InSequence (s : State) (p : Nat) (f : Flit) : Prop where
  receives : s.receives p = true
  wellFormed : malformed f = false
  pastWidths : ¬ ((s.port p).state = 2 ∧ (s.port p).phase ≤ 2)
  seq : f.seq = (s.port p).expect
  flags : f.flags = 0
  credit : f.credit = 0

theorem State.inSequence_at {s : State} {p now : Nat} {f : Flit} (hrec : (s.at now).receives p = true) (hmal : malformed f = false)
    (hpast : (s.port p).state = 3 ∨ 3 ≤ (s.port p).phase) (hseq : f.seq = (s.port p).expect) (hflags : f.flags = 0) (hcredit : f.credit = 0) :
    (s.at now).InSequence p f :=
  ⟨hrec, hmal, by rw [State.at_port]; omega, by rw [State.at_port, hseq], hflags, hcredit⟩

/-- A port that hears a flit with a good CRC. -/
def State.heard (s : State) (p : Nat) : State := s.updPort p fun k => { k with lastGood := s.now }

/-- The state in which a flit in sequence that is no IDLE acts on its port: it is counted, and the next SEQ is expected. -/
def State.flitAccepted (s : State) (p : Nat) : State :=
  ((s.heard p).updPort p fun k => { k with expect := (k.expect + 1) % 65536, nakFrom := none }).add64 (blkPort p + 0x48) 1

theorem State.heard_port (s : State) (p : Nat) : (s.heard p).port p = { s.port p with lastGood := s.now } := State.updPort_port

theorem State.flitAccepted_port (s : State) (p : Nat) :
    (s.flitAccepted p).port p = { s.port p with lastGood := s.now, expect := ((s.port p).expect + 1) % 65536, nakFrom := none } := by
  rw [State.flitAccepted, State.add64_port, State.updPort_port, State.heard_port]

theorem State.flitAccepted_now (s : State) (p : Nat) : (s.flitAccepted p).now = s.now := by
  have hcounted : (s.flitAccepted p).now = ((s.heard p).updPort p fun k => { k with expect := (k.expect + 1) % 65536, nakFrom := none }).now := rfl
  rw [hcounted, State.updPort_now, State.heard, State.updPort_now]

/-- A flit without flags and credits acknowledges, repeats and returns nothing. -/
theorem State.takeNothing {f : Flit} (hflags : f.flags = 0) (hcredit : f.credit = 0) (s : State) (p : Nat) :
    ((s.takeAck p f).takeNak p f).takeCredits p f = s := by
  simp [State.takeAck, State.takeNak, State.takeCredits, hflags, hcredit, field]

/-- What a flit in sequence does to a port: it is heard, and unless it is IDLE it acts by its kind and is acknowledged. -/
def State.takeUp (s : State) (p : Nat) (f : Flit) : State :=
  if f.kind = 0 then s.heard p
  else if [2, 3, 4].contains (((s.flitAccepted p).takeKind p f).port p).state then ((s.flitAccepted p).takeKind p f).sendIdle p 0 0
  else (s.flitAccepted p).takeKind p f

theorem State.receive_of_inSequence {s : State} {p : Nat} {f : Flit} (h : s.InSequence p f) :
    s.receive p f = ((s.takeUp p f).drain ((s.takeUp p f).port p).waiting.length p).settleColls := by
  have hnothing := State.takeNothing h.flags h.credit (s.heard p) p
  have hseq : (f.seq + 65536 - (s.port p).expect) % 65536 = 0 := by rw [h.seq, Nat.add_sub_cancel_left]
  rw [State.receive]
  extract_lets t w v u
  have ht : t = s.heard p := hnothing
  have hu : u = s.takeUp p f := by
    simp [u, v, w, hseq, ht, State.takeUp, State.flitAccepted]
  rw [if_neg (by simp [h.wellFormed]), if_neg (by simpa using h.pastWidths), hseq, if_neg (by decide), hu]

theorem KeepsLinks.takeUp {s : State} {p : Nat} {f : Flit} (hkind : f.kind ≠ 0) :
    KeepsLinks ((s.flitAccepted p).takeKind p f) (s.takeUp p f) := by
  rw [State.takeUp, if_neg hkind]
  exact .ite (KeepsLinks.refl _).sendIdle (.refl _)

/-- After a flit in sequence, other than IDLE, acted on its port, there is only traffic. -/
theorem State.receive_link {s : State} {p : Nat} {f : Flit} (h : s.InSequence p f) (hkind : f.kind ≠ 0) :
    ((s.receive p f).port p).link = (((s.flitAccepted p).takeKind p f).port p).link := by
  rw [State.receive_of_inSequence h, State.settleColls_port]
  exact (KeepsLinks.takeUp hkind).drain p

/-! ## What a flit does by its kind -/

/-- The widths of a bring-up: a flit that comes before IDENT acts only as WIDTH. -/
theorem State.receive_width {s : State} {p : Nat} {f : Flit} (hmal : malformed f = false) (htraining : (s.port p).state = 2)
    (hphase : (s.port p).phase ≤ 2) (hkind : f.kind = kindWidth) : s.receive p f = (s.heard p).takeWidth p f := by
  rw [State.receive]
  extract_lets
  rw [if_neg (by simp [hmal]), if_pos (by simp [htraining, hphase]), if_pos hkind, State.heard]

/-- The peer's WIDTH comes before the port's own window has ended. -/
theorem State.takeWidth_port {s : State} {p : Nat} {f : Flit} (htraining : (s.port p).state = 2) (hphase : (s.port p).phase = 1)
    (hwidth : widthOf (fieldAt f.payload 0 8) ≠ 0) :
    (s.takeWidth p f).port p = { s.port p with widthSeen := true, txWidth := widthOf (fieldAt f.payload 0 8) } := by
  simp [State.takeWidth, htraining, hwidth, State.bringUpIdent, State.updPort_port, hphase]

theorem State.notePeer_port (s : State) (p : Nat) (i : Ident) (rev : Nat) :
    (s.notePeer p i rev).port p = { s.port p with identity := some i } := by
  simp [State.notePeer, State.updPort_port]

/-- Every device sends the same revisions. -/
theorem agreedRevision_ownIdent (s t : State) (p : Nat) (i : Ident) : agreedRevision (s.ownIdent p) i = agreedRevision (t.ownIdent p) i := rfl

theorem State.takeIdent_agreed {s : State} {p : Nat} {f : Flit} (htraining : (s.port p).state = 2) (hphase : (s.port p).phase = 3)
    (hagreed : agreedRevision (s.ownIdent p) (identOf f.payload) ≠ none) :
    ((s.takeIdent p f).port p).phase = 4 ∧ ((s.takeIdent p f).port p).identity = some (identOf f.payload) := by
  obtain ⟨rev, hrev⟩ := Option.ne_none_iff_exists'.1 hagreed
  have hlink := ((s.notePeer p (identOf f.payload) rev).updPort p fun k => { k with phase := 4 }).sendCreditInit_link p
  rw [State.updPort_port, State.notePeer_port] at hlink
  simp only [State.takeIdent, hrev, htraining, hphase, if_true]
  exact ⟨Port.read_of_link Port.phase hlink, Port.read_of_link Port.identity hlink⟩

theorem State.takeIdent_refused {s : State} {p : Nat} {f : Flit} (htraining : (s.port p).state = 2)
    (hagreed : agreedRevision (s.ownIdent p) (identOf f.payload) = none) : ((s.takeIdent p f).port p).state = 5 := by
  simp [State.takeIdent, hagreed, htraining, State.updPort_port]

theorem State.judgePort_port {s : State} {p : Nat} (hup : (s.port p).state = 3) :
    ∃ n, (n = 3 ∨ n = 4) ∧ (s.judgePort p).port p = { s.port p with state := n } := by
  have hsame : s.port p = { s.port p with state := 3 } := by rw [← hup]
  rw [State.judgePort]
  dsimp only
  split
  · split
    · exact ⟨4, .inr rfl, by rw [State.logEvent_port, State.raise_port, State.updPort_port]⟩
    · rw [if_neg (by simp [hup])]
      exact ⟨3, .inl rfl, hsame⟩
  · exact ⟨3, .inl rfl, hsame⟩

/-- A port that comes up keeps the credits of its peer. -/
theorem State.comeUp_port (s : State) (p : Nat) :
    (((s.comeUp p).port p).state = 3 ∨ ((s.comeUp p).port p).state = 4) ∧ ((s.comeUp p).port p).pool = (s.port p).pool := by
  obtain ⟨n, hn, hport⟩ := State.judgePort_port (s := s.updPort p fun k => { k with state := 3, phase := 0, retryAt := none }) (p := p)
    (by rw [State.updPort_port])
  rw [State.comeUp, State.add32_port, State.raise_port, hport, State.updPort_port]
  exact ⟨hn, rfl⟩

theorem State.takeCreditFlit_port {s : State} {p : Nat} {f : Flit} (htraining : (s.port p).state = 2) (hphase : (s.port p).phase = 4) :
    (((s.takeCreditFlit p f).port p).state = 3 ∨ ((s.takeCreditFlit p f).port p).state = 4) ∧
      ((s.takeCreditFlit p f).port p).pool = fieldAt f.payload 30 2 := by
  obtain ⟨hstate, hpool⟩ := (s.takeCreditInit p f.payload).comeUp_port p
  rw [State.takeCreditFlit, if_pos (by simp [htraining, hphase])]
  refine ⟨hstate, hpool.trans ?_⟩
  rw [State.takeCreditInit, State.updPort_port]

theorem State.takeKind_ident {f : Flit} (hkind : f.kind = kindIdent) (s : State) (p : Nat) : s.takeKind p f = s.takeIdent p f := by
  rw [State.takeKind, if_neg (by rw [hkind]; decide), if_pos hkind]

theorem State.takeKind_creditInit {f : Flit} (hkind : f.kind = kindCreditInit) (s : State) (p : Nat) :
    s.takeKind p f = s.takeCreditFlit p f := by
  rw [State.takeKind, if_neg (by rw [hkind]; decide), if_neg (by rw [hkind]; decide), if_neg (by rw [hkind]; decide), if_pos hkind]

theorem State.takeKind_retrain {f : Flit} (hkind : f.kind = kindRetrain) (s : State) (p : Nat) : s.takeKind p f = s.startRetrain p := by
  rw [State.takeKind, if_neg (by rw [hkind]; decide), if_neg (by rw [hkind]; decide), if_neg (by rw [hkind]; decide),
    if_neg (by rw [hkind]; decide)]

/-! ## The rows -/

/-- A flit of a row's own kind, with a good CRC, on a port that receives. -/
theorem flitCame_reaches {s u : State} {p now : Nat} {bytes : List Byte} {kinds : Nat → Bool} {P : State → Prop}
    (hrec : (s.at now).receives p = true) (hgood : flitGood bytes = true) (hkind : kinds (flitOf bytes).kind = true)
    (hu : (s.at now).receive p (flitOf bytes) = u) (h : ∀ t : State, (∀ q, t.port q = u.port q) → P t) :
    Reaches (runs (fun s => (s.at now).flitCame p bytes kinds) s) P :=
  runs_reaches_of_ports ((if_pos (by simp [hrec, hgood, hkind])).trans hu) h

theorem widthFlit_sets_width {s : State} {p now : Nat} {bytes : List Byte} (hrec : (s.at now).receives p = true)
    (hgood : flitGood bytes = true) (hkind : (flitOf bytes).kind = kindWidth) (hmal : malformed (flitOf bytes) = false)
    (htraining : (s.port p).state = 2) (hphase : (s.port p).phase = 1) (hwidth : widthOf (fieldAt (flitOf bytes).payload 0 8) ≠ 0) :
    Reaches (execWidthFlit p bytes now s) fun t =>
      (t.port p).widthSeen = true ∧ (t.port p).txWidth = widthOf (fieldAt (flitOf bytes).payload 0 8) := by
  rw [← s.at_port now] at htraining hphase
  refine flitCame_reaches hrec hgood (beq_iff_eq.2 hkind) (State.receive_width hmal htraining (by omega) hkind) fun t ht => ?_
  rw [ht, State.takeWidth_port (by rw [State.heard_port, htraining]) (by rw [State.heard_port, hphase]) hwidth]
  exact ⟨rfl, rfl⟩

section

variable {s : State} {p now : Nat} {bytes : List Byte} (hgood : flitGood bytes = true) (hseq : (s.at now).InSequence p (flitOf bytes))
include hgood hseq

/-- A flit in sequence of another kind than IDLE: but for traffic, its port is as the kind leaves it. -/
theorem inSequence_reaches {kinds : Nat → Bool} {P : State → Prop} (hkind : kinds (flitOf bytes).kind = true) (hidle : (flitOf bytes).kind ≠ 0)
    (h : ∀ t : State, (t.port p).link = ((((s.at now).flitAccepted p).takeKind p (flitOf bytes)).port p).link → P t) :
    Reaches (runs (fun s => (s.at now).flitCame p bytes kinds) s) P :=
  flitCame_reaches hseq.receives hgood hkind rfl fun t ht => h t (by rw [ht, State.receive_link hseq hidle])

theorem identFlit_agrees (hkind : (flitOf bytes).kind = kindIdent) (htraining : (s.port p).state = 2) (hphase : (s.port p).phase = 3)
    (hagreed : agreedRevision ((s.at now).ownIdent p) (identOf (flitOf bytes).payload) ≠ none) :
    Reaches (execIdentFlit p bytes now s) fun t => (t.port p).phase = 4 ∧ (t.port p).identity = some (identOf (flitOf bytes).payload) := by
  refine inSequence_reaches hgood hseq (beq_iff_eq.2 hkind) (by rw [hkind]; decide) fun t ht => ?_
  rw [State.takeKind_ident hkind] at ht
  obtain ⟨hfour, hident⟩ := State.takeIdent_agreed (s := (s.at now).flitAccepted p) (f := flitOf bytes)
    (by rw [State.flitAccepted_port, State.at_port, htraining]) (by rw [State.flitAccepted_port, State.at_port, hphase])
    (by rwa [agreedRevision_ownIdent _ (s.at now)])
  exact ⟨(Port.read_of_link Port.phase ht).trans hfour, (Port.read_of_link Port.identity ht).trans hident⟩

theorem identFlit_refuses (hkind : (flitOf bytes).kind = kindIdent) (htraining : (s.port p).state = 2)
    (hagreed : agreedRevision ((s.at now).ownIdent p) (identOf (flitOf bytes).payload) = none) :
    Reaches (execIdentFlit p bytes now s) fun t => (t.port p).state = 5 := by
  refine inSequence_reaches hgood hseq (beq_iff_eq.2 hkind) (by rw [hkind]; decide) fun t ht => ?_
  rw [State.takeKind_ident hkind] at ht
  exact (Port.read_of_link Port.state ht).trans
    (State.takeIdent_refused (by rw [State.flitAccepted_port, State.at_port, htraining]) ((agreedRevision_ownIdent ..).trans hagreed))

theorem creditInitFlit_brings_up (hkind : (flitOf bytes).kind = kindCreditInit) (htraining : (s.port p).state = 2)
    (hphase : (s.port p).phase = 4) :
    Reaches (execCreditInitFlit p bytes now s) fun t =>
      ((t.port p).state = 3 ∨ (t.port p).state = 4) ∧ (t.port p).pool = fieldAt (flitOf bytes).payload 30 2 := by
  refine inSequence_reaches hgood hseq (beq_iff_eq.2 hkind) (by rw [hkind]; decide) fun t ht => ?_
  rw [State.takeKind_creditInit hkind] at ht
  have hstate : (t.port p).state = _ := Port.read_of_link Port.state ht
  have hpool : (t.port p).pool = _ := Port.read_of_link Port.pool ht
  rw [hstate, hpool]
  exact State.takeCreditFlit_port (by rw [State.flitAccepted_port, State.at_port, htraining])
    (by rw [State.flitAccepted_port, State.at_port, hphase])

theorem retrainFlit_retrains (hkind : (flitOf bytes).kind = kindRetrain) (hretrain : (s.port p).retrain = none) :
    Reaches (execRetrainFlit p bytes now s) fun t => (t.port p).retrain = some (s.at now).now := by
  refine inSequence_reaches hgood hseq (beq_iff_eq.2 hkind) (by rw [hkind]; decide) fun t ht => ?_
  rw [State.takeKind_retrain hkind, State.startRetrain_port (by rw [State.flitAccepted_port, State.at_port, hretrain]),
    State.flitAccepted_now] at ht
  exact Port.read_of_link Port.retrain ht

theorem idleFlit_is_heard (hkind : (flitOf bytes).kind = 0) (hwaiting : (s.port p).waiting = []) :
    Reaches (execIdleFlit p bytes now s) fun t => t.port p = { s.port p with lastGood := (s.at now).now } := by
  refine flitCame_reaches hseq.receives hgood (beq_iff_eq.2 hkind) (State.receive_of_inSequence hseq) fun t ht => ?_
  have hidle : (s.at now).takeUp p (flitOf bytes) = (s.at now).heard p := if_pos hkind
  have hnone : (((s.at now).heard p).port p).waiting = [] := by rw [State.heard_port, State.at_port, hwaiting]
  rw [ht, State.settleColls_port, hidle, hnone, List.length_nil, State.drain, State.heard_port, State.at_port]

theorem dataFlit_is_counted (hkind : (flitOf bytes).kind = kindData) :
    Reaches (execDataFlit p bytes now s) fun t => (t.port p).expect = ((s.port p).expect + 1) % 65536 := by
  refine inSequence_reaches hgood hseq (by rw [hkind]; decide) (by rw [hkind]; decide) fun t ht => ?_
  rw [State.takeKind, if_pos hkind, State.takeDataFlit_keepsLinks _ _ _ p, State.flitAccepted_port, State.at_port] at ht
  exact Port.read_of_link Port.expect ht

end

/-- Settles O25: each row's own lemma, in the order of the clauses; no row but IDLE needs the waiting list to be empty, and none needs that no
collective is open. -/
theorem flitsAreTakenUp : Obligations.FlitsAreTakenUp := by
  refine ⟨fun _ _ _ _ => widthFlit_sets_width, ?_, ?_, ?_, ?_, ?_, ?_⟩
  · intro s p bytes now hrec hgood hkind hmal htraining hphase hseq _ hflags hcredit _ _
    exact identFlit_agrees hgood (State.inSequence_at hrec hmal (by omega) hseq hflags hcredit) hkind htraining hphase
  · intro s p bytes now hrec hgood hkind hmal htraining hphase hseq _ hflags hcredit _ _
    exact identFlit_refuses hgood (State.inSequence_at hrec hmal (by omega) hseq hflags hcredit) hkind htraining
  · intro s p bytes now hrec hgood hkind hmal htraining hphase hseq _ hflags hcredit _ _
    exact creditInitFlit_brings_up hgood (State.inSequence_at hrec hmal (by omega) hseq hflags hcredit) hkind htraining hphase
  · intro s p bytes now hrec hgood hkind hmal hup hretrain hseq _ hflags hcredit _ _
    exact retrainFlit_retrains hgood (State.inSequence_at hrec hmal (.inl hup) hseq hflags hcredit) hkind hretrain
  · intro s p bytes now hrec hgood hkind hmal hup hseq _ hflags hcredit hwaiting _
    exact idleFlit_is_heard hgood (State.inSequence_at hrec hmal (.inl hup) hseq hflags hcredit) hkind hwaiting
  · intro s p bytes now hrec hgood hkind hmal hup hseq _ hflags hcredit _ _
    exact dataFlit_is_counted hgood (State.inSequence_at hrec hmal (.inl hup) hseq hflags hcredit) hkind

end Sys2Proof.Machine
end

section
/-! PROOF. Link faults (R366, R377, R381, R382, R385, R390, R391): NAKs, retrains, silence, a weak feed, the fence, and new dedicated credits. -/

namespace Sys2Proof.Machine

open Sys2Proof

/-! ## NAKs (R377, R381) -/

/-- A NAK that goes out is noted with its time; the port is otherwise as before. -/
theorem State.sendNak_port (s : State) (p : Nat) : (s.sendNak p).port p = { s.port p with nakFrom := some s.now } := State.updPort_port

theorem flitCrcFailure_sends_nak {s : State} {p now : Nat} (hrec : (s.at now).receives p = true) (hup : (s.port p).state = 3)
    (hnone : (s.port p).nakFrom = none) :
    Reaches (execFlitCrcFailure p now s) fun t => (t.port p).nakFrom = some (s.at now).now ∧ (t.port p).expect = (s.port p).expect := by
  refine runs_reaches_of_ports (u := ((s.at now).add64 (blkPort p + 0x50) 1).sendNak p)
    (by simp [State.crcFailed, State.gap, hrec, hup, hnone]) fun t ht => ?_
  rw [ht, State.sendNak_port, State.add64_port, State.at_port]
  exact ⟨rfl, rfl⟩

theorem nakRepeat_repeats_nak {s : State} {p now x : Nat} (hsent : (s.port p).nakFrom = some x) (hrec : (s.at now).receives p = true)
    (hdue : x + 2 * usec ≤ (s.at now).now) : Reaches (execNakRepeat p now s) fun t => (t.port p).nakFrom = some (s.at now).now := by
  refine runs_reaches_of_ports (u := (s.at now).sendNak p) (by simp [hsent, hrec, State.expired, hdue]) fun t ht => ?_
  rw [ht, State.sendNak_port]

/-! ## Retrains (R382) -/

/-- A port that is up retrains of itself: the RETRAIN flit to its peer is traffic. -/
theorem State.retrainPort_link {s : State} {p : Nat} (hup : (s.port p).state = 3) (hretrain : (s.port p).retrain = none) :
    ((s.retrainPort p).port p).link = ({ s.port p with retrain := some s.now, nakCount := 0 } : Port).link := by
  have hsent (fs : List (Flit × Nat)) : ((s.sendFlits p fs).port p).link = (s.port p).link := KeepsLinks.sendFlits (.refl s) p
  have hnone (fs : List (Flit × Nat)) : ((s.sendFlits p fs).port p).retrain = none :=
    (Port.read_of_link Port.retrain (hsent fs)).trans hretrain
  rw [State.retrainPort, if_pos (by simp [hup, hretrain]), State.startRetrain_port (hnone _), State.sendFlits_now]
  exact congrArg (fun k : Port => { k with retrain := some s.now, nakCount := 0 }) (hsent _)

theorem nakLimit_retrains {s : State} {p now : Nat} (hlimit : 16 ≤ (s.port p).nakCount) (hup : (s.port p).state = 3)
    (hretrain : (s.port p).retrain = none) :
    Reaches (execNakLimit p now s) fun t => (t.port p).retrain = some (s.at now).now ∧ (t.port p).nakCount = 0 := by
  rw [← s.at_port now] at hlimit hup hretrain
  refine runs_reaches_of_ports (if_pos hlimit) fun t ht => ?_
  have hlink := State.retrainPort_link hup hretrain
  rw [ht]
  exact ⟨Port.read_of_link Port.retrain hlink, Port.read_of_link Port.nakCount hlink⟩

theorem ackStall_retrains {s : State} {p now : Nat} (hkept : (s.port p).kept ≠ []) (hdue : (s.port p).ackAt + 100 * usec ≤ (s.at now).now)
    (hup : (s.port p).state = 3) (hretrain : (s.port p).retrain = none) :
    Reaches (execAckStall p now s) fun t => (t.port p).retrain = some (s.at now).now := by
  refine runs_reaches_of_ports (if_pos (by simp [hkept, State.expired, hdue])) fun t ht => ?_
  rw [← s.at_port now] at hup hretrain
  rw [ht]
  exact Port.read_of_link Port.retrain (State.retrainPort_link hup hretrain)

theorem retrainDone_resumes {s : State} {p good now x : Nat} (hup : (s.port p).state = 3) (hretrain : (s.port p).retrain = some x)
    (hsame : widthOf good = (s.port p).rxWidth) (hwidth : (s.port p).rxWidth ≠ 0) :
    Reaches (execRetrainDone p good now s) fun t =>
      (t.port p).retrain = none ∧ (t.port p).rxWidth = (s.port p).rxWidth ∧ (t.port p).nakCount = 0 := by
  refine runs_reaches_of_ports rfl fun t ht => ?_
  have hlink : (t.port p).link = ({ s.port p with
      retrain := none, rxWidth := (s.port p).rxWidth, ackAt := (s.at now).now, lastGood := (s.at now).now, nakCount := 0 } : Port).link := by
    rw [ht, State.retrainDone]
    dsimp only
    rw [State.at_port, if_neg (by simp [hup, hretrain]), hsame, if_neg hwidth, if_neg (Nat.lt_irrefl _), KeepsLinks.sendWidth (.refl _) p,
      State.logEvent_port, State.raise_port, State.updPort_port, State.set64_port, State.at_port]
  exact ⟨Port.read_of_link Port.retrain hlink, (Port.read_of_link Port.rxWidth hlink :), Port.read_of_link Port.nakCount hlink⟩

/-! ## Silence (R391) -/

/-- Nothing that a falling link would end is under way: the port's own part of the fall is all. -/
theorem State.workDown_of_idle {s : State} (hcolls : s.colls = []) (hsets : s.sets = []) (hadapters : s.adapters = []) (hrepairs : s.repairs = [])
    (p : Nat) (lost : List Nat) : s.workDown p lost = s := by
  simp [State.workDown, State.collsLinkDown, State.loadsPeerDown, State.repairsPeerDown, hcolls, hsets, hadapters, hrepairs]

theorem State.transitLost_of_quiet {s : State} {p : Nat} (hopening : ∀ q ∈ s.ports, q.2.opening = []) (hown : (s.port p).opening = [])
    (hkept : (s.port p).kept = []) (hwaiting : (s.port p).waiting = []) : s.transitLost p = s := by
  have hopen : (s.ports.flatMap fun q => q.2.opening.map fun o => (q.1, o)) = [] :=
    List.flatMap_eq_nil_iff.2 fun q hq => by rw [hopening q hq, List.map_nil]
  simp [State.transitLost, hopen, hown, hkept, hwaiting]

theorem State.linkDown_of_quiet {s : State} {p : Nat} (hquiet : s.LinkQuiet p) (hup : (s.port p).state = 3 ∨ (s.port p).state = 4) (next : Nat) :
    s.linkDown p next = s.dropLink p next := by
  obtain ⟨hcolls, hturns, hsets, hadapters, hrepairs, hopening, hown, hkept, hwaiting⟩ := hquiet
  have hturn (lost : List Nat) : s.turnsLinkDown p lost = s := by simp [State.turnsLinkDown, hturns]
  have hdrop : Acts [.regs, .links, .mgmt, .log, .outbox] s (s.dropLink p next) := State.dropLink_acts .refl (by decide)
  obtain ⟨-, ecolls⟩ := hdrop.1 .colls (by decide)
  obtain ⟨esets, eadapters, -, erepairs⟩ := hdrop.1 .weights (by decide)
  rw [State.linkDown, if_pos (by simpa using hup)]
  dsimp only
  rw [hturn, State.transitLost_of_quiet hopening hown hkept hwaiting,
    State.workDown_of_idle (ecolls.trans hcolls) (esets.trans hsets) (eadapters.trans hadapters) (erepairs.trans hrepairs)]

theorem State.dropLink_port (s : State) (p next : Nat) :
    ((s.dropLink p next).port p).state = next ∧ ((s.dropLink p next).port p).identity = none := by
  rw [State.dropLink, State.logEvent_port, State.raise_port, State.updPort_port]
  exact ⟨rfl, rfl⟩

theorem linkSilence_takes_down {s : State} {p now : Nat} (hquiet : (s.at now).LinkQuiet p) (hup : (s.port p).state = 3 ∨ (s.port p).state = 4)
    (hretrain : (s.port p).retrain = none) (hdue : (s.port p).lastGood + 10 * usec ≤ (s.at now).now) :
    Reaches (execLinkSilence p now s) fun t => (t.port p).state = (s.at now).restState p ∧ (t.port p).identity = none := by
  refine runs_reaches_of_ports (if_pos (by simp [hup, hretrain, State.expired, hdue])) fun t ht => ?_
  rw [← s.at_port now] at hup
  rw [ht, State.linkDown_of_quiet hquiet hup]
  exact State.dropLink_port ..

/-! ## The feed (R366), the fence (R390) and new credits (R385) -/

theorem laserFeedReading_keeps_up {s : State} {p now : Nat} {reading : Int} (hp : p < 8) (hup : (s.port p).state = 3) (hstrong : 1700 ≤ reading) :
    Reaches (execLaserFeedReading p reading now s) fun t => (t.port p).weak = false ∧ (t.port p).state = 3 := by
  refine runs_reaches_of_ports rfl fun t ht => ?_
  have hport : t.port p = { s.port p with weak := false } := by
    have hlow : decide (reading < 1700) = false := decide_eq_false (by omega)
    rw [ht, State.laserFeed, if_neg (by omega)]
    dsimp only
    rw [hlow, Bool.false_and, Bool.false_and, if_neg Bool.false_ne_true, State.updPort_port]
    split <;> simp
  rw [hport]
  exact ⟨rfl, hup⟩

theorem portFence_fences {s : State} {p now : Nat} (hdown : (s.port p).state = 0)
    (hmany : 64 ≤ ((s.port p).violationsAt.filter fun t => decide ((s.at now).now < t + second)).length) :
    Reaches (execPortFence p now s) fun t => (t.port p).state = 6 ∧ (t.port p).violationsAt = [] := by
  refine runs_reaches_of_ports (if_neg (by simp [hdown, hmany])) fun t ht => ?_
  rw [← s.at_port now] at hdown
  rw [ht, State.logEvent_port, State.raise_port, State.updPort_port, State.linkDown_port_of_not_up (by omega) (by omega)]
  exact ⟨rfl, rfl⟩

theorem vcRepartition_grants {s : State} {p now : Nat} (hchange : (s.port p).repartition ≠ [])
    (hempty : ((s.port p).repartition.all fun v => (s.port p).heldDed.getD v 0 == 0 && (s.port p).heldShared.getD v 0 == 0) = true)
    (hup : (s.port p).state = 3) :
    Reaches (execVcRepartition p now s) fun t => (t.port p).repartition = [] ∧ (t.port p).granted = (s.at now).dedicated p := by
  refine runs_reaches_of_ports (if_neg (by rw [s.at_port, hempty]; simp [hchange, hup])) fun t ht => ?_
  have hlink := (s.at now).sendCreditInit_link p
  rw [ht]
  exact ⟨Port.read_of_link Port.repartition hlink, Port.read_of_link Port.granted hlink⟩

/-- Settles O26: each row's own lemma, in the order of the clauses. -/
theorem linkFaultsComplete : Obligations.LinkFaultsComplete :=
  ⟨fun _ _ _ => flitCrcFailure_sends_nak, fun _ _ _ _ => nakRepeat_repeats_nak, fun _ _ _ => nakLimit_retrains,
   fun _ _ _ => ackStall_retrains, fun _ _ _ _ _ => retrainDone_resumes, fun _ _ _ => linkSilence_takes_down,
   fun _ _ _ _ => laserFeedReading_keeps_up, fun _ _ _ => portFence_fences, fun _ _ _ => vcRepartition_grants⟩

end Sys2Proof.Machine
end

section
/-! PROOF. The step on a queue that is not empty (R114), and the event log: how a new record makes room, what it is, and when it
interrupts (R582, R583). -/

namespace Sys2Proof.Machine

open Sys2Proof

/-! ## The step -/

/-- Settles O1: a step takes the front of the queue. -/
theorem stepRunsFront : Obligations.StepRunsFront := by
  intro s c rest hfront
  simp only [step, hfront]

/-! ## Room in the event log (R583) -/

/-- A log that is not empty gives up its oldest record of class 0, or its oldest where none is of class 0. -/
theorem dropOne_eq {l : List LogRecord} (hne : l ≠ []) :
    ∃ a x b, l = a ++ x :: b ∧ dropOne l = a ++ b ∧ ((x.cls = 0 ∧ ∀ y ∈ a, y.cls ≠ 0) ∨ (a = [] ∧ ∀ y ∈ l, y.cls ≠ 0)) := by
  cases l with
  | nil => exact absurd rfl hne
  | cons r rs =>
    rw [dropOne]
    split
    · next hinfo =>
      obtain ⟨i, hi, hcls⟩ := List.any_eq_true.1 hinfo
      obtain ⟨x, a, b, hbefore, hx, hsplit, hleft⟩ := List.exists_of_eraseP (p := fun x => x.cls == 0) hi hcls
      exact ⟨a, x, b, hsplit, hleft, .inl ⟨by simpa using hx, by simpa using hbefore⟩⟩
    · next hnone =>
      exact ⟨[], r, rs, rfl, rfl, .inr ⟨rfl, by simpa using hnone⟩⟩

/-! ## A new record (R582, R583) -/

theorem State.logEvent_log_of_room {s : State} {g : LogArg} (hroom : s.log.records.length < 4096) :
    ∃ r, (s.logEvent g).log.records = s.log.records ++ [r] ∧ r.cause = g.cause ∧ r.cls = g.cls ∧ r.seq = s.log.next.toNat ∧
      (s.logEvent g).log.dropped = s.log.dropped := by
  simp only [State.logEvent, decide_eq_false (Nat.not_le.2 hroom), Bool.false_eq_true, if_false]
  split <;> exact ⟨_, rfl, rfl, rfl, rfl, rfl⟩

theorem State.logEvent_log_of_full {s : State} {g : LogArg} (hfull : 4096 ≤ s.log.records.length) :
    ∃ r, (s.logEvent g).log.records = dropOne s.log.records ++ [r] ∧ r.cause = g.cause ∧ r.cls = g.cls ∧
      (s.logEvent g).log.dropped = min (s.log.dropped + 1) 0xFFFF := by
  simp only [State.logEvent, decide_eq_true hfull, if_true]
  split <;> exact ⟨_, rfl, rfl, rfl, rfl⟩

theorem State.logEvent_outbox (s : State) (g : LogArg) : (s.logEvent g).outbox =
    if (s.regNat (blkLogbook + 8)).testBit g.cls then s.outbox ++ [.interrupt 0 0] else s.outbox := by
  simp only [State.logEvent]
  split <;> rfl

theorem LogRecord.bytes_length (r : LogRecord) : r.bytes.length = 64 := by
  simp only [LogRecord.bytes, List.length_append, leBytes_length, zeros, List.length_replicate]

/-- Settles O11: each clause is what a new record does to the log, with what `dropOne` gives up of a full one. -/
theorem fullLogDropsOldestInfo : Obligations.FullLogDropsOldestInfo := by
  refine ⟨fun _ _ => State.logEvent_log_of_room, fun s g hfull => ?_, State.logEvent_outbox, LogRecord.bytes_length, by decide⟩
  obtain ⟨a, x, b, hsplit, hleft, hx⟩ := dropOne_eq (List.ne_nil_of_length_pos (Nat.lt_of_lt_of_le (by decide) hfull))
  obtain ⟨r, hrecords, hcause, hcls, hdropped⟩ := State.logEvent_log_of_full (g := g) hfull
  exact ⟨a, x, b, r, hsplit, by rw [hrecords, hleft], hcause, hcls, hx, hdropped⟩

end Sys2Proof.Machine
end

section
/-! PROOF. The lid (R96, R575, R576), the loss of the oscillator (R35) and the lockout of authentications (R563). -/

namespace Sys2Proof.Machine

open Sys2Proof

/-! ## The flags of the panel under a wipe of the locket -/

/-- The words that count the flags of an event register beyond the doorbell pages stand 32 KiB above it (R54). -/
theorem counterWord_of_unit {a : Nat} (hunit : 0x50000 ≤ a) (n : Nat) : counterWord a n = a + 0x8000 + 4 * (n / 4) := by
  rw [counterWord, inDoorbells, decide_eq_false (Nat.not_lt.2 hunit), Bool.and_false, if_neg Bool.false_ne_true]

theorem evPanel_ne_counterWord_evSec (n : Nat) : evPanel ≠ counterWord evSec n := by
  rw [counterWord_of_unit (by decide), show evPanel = 0x02000400 from rfl, show evSec = 0x02720008 from rfl]
  omega

theorem State.raise_evSec_evPanel (s : State) (n : Nat) : (s.raise evSec n).reg evPanel = s.reg evPanel :=
  State.raise_reg_ne (by decide) (evPanel_ne_counterWord_evSec n) s

theorem State.clearLocket_reg (s : State) (cause a : Nat) : (s.clearLocket cause).reg a = s.reg a :=
  (State.clearLocket_acts (ps := [.keepsake, .mgmt, .sec, .log, .outbox, .pcie]) .refl (by decide)).reg (by decide) (by decide) a

theorem evPanel_ne_accHold (n : Nat) : evPanel ≠ accHoldAt n ∧ evPanel ≠ accHoldAt n + 4 := by
  have hacc : accHoldAt n = 0x02010028 + n * 0x10000 := by
    simp only [accHoldAt, blkPave, unitBlock]
    omega
  rw [hacc, show evPanel = 0x02000400 from rfl]
  omega

theorem State.dropDebug_evPanel (s : State) : s.dropDebug.reg evPanel = s.reg evPanel := by
  unfold State.dropDebug
  split
  · rfl
  · rw [State.clearHolds', State.foldl_set64_reg_ne fun n _ => evPanel_ne_accHold n]
    exact State.raise_evSec_evPanel ..

theorem State.burnFuse_evPanel (s : State) (code : Nat) : (s.burnFuse code).reg evPanel = s.reg evPanel := by
  rw [State.burnFuse, (State.sensorChange_acts (ps := [.mgmt]) .refl (by decide)).reg (by decide) (by decide)]
  exact State.raise_evSec_evPanel ..

theorem State.transition_evPanel (s : State) (code : Nat) (by_ : Option CmdRef) : (s.transition code by_).reg evPanel = s.reg evPanel :=
  (State.dropDebug_evPanel _).trans ((State.clearLocket_reg ..).trans (State.burnFuse_evPanel ..))

theorem State.endDebug_evPanel (s : State) (wiped : Bool) (by_ : Option CmdRef) : (s.endDebug wiped by_).reg evPanel = s.reg evPanel := by
  have hdrop := s.dropDebug_evPanel
  unfold State.endDebug
  dsimp only
  split
  · rfl
  · split
    · split
      · exact (State.transition_evPanel ..).trans hdrop
      · exact hdrop
    · split
      · exact hdrop
      · exact (State.clearLocket_reg ..).trans hdrop

/-! ## The tamper record -/

theorem State.tamper_reg_ne {a kind : Nat} (hflag : a ≠ evSec) (hcount : a ≠ counterWord evSec 6) (s : State) :
    (s.tamper kind).reg a = s.reg a := by
  rw [State.tamper, State.logEvent_reg, State.raise_reg_ne hflag hcount]
  exact (State.keepsakeEvent_acts (ps := [.keepsake]) .refl (by decide)).reg (by decide) (by decide) a

theorem State.tamper_flag (s : State) (kind : Nat) : ((s.tamper kind).regNat evSec).testBit 6 = true := by
  rw [State.tamper, State.regNat_logEvent]
  exact State.raise_flag (by decide) (by decide) _

theorem State.tamper_sec (s : State) (kind : Nat) : (s.tamper kind).sec = s.sec :=
  (State.tamper_acts (ps := [.regs, .keepsake, .log, .outbox]) .refl (by decide)).1 .sec (by decide)

/-! ## The lid -/

theorem lidOpen_tampers {s : State} (hpow : s.powered = true) (hgood : s.power.pwrgd = true) (hclosed : s.panel.lidOpen = false) :
    Reaches (execLidOpen s) fun t => t.panel.lidOpen = true ∧ t.sec.locket = Locket.reset ∧ t.sec.debug = 0 ∧
      (t.regNat evPanel).testBit 9 = true ∧ (t.regNat evSec).testBit 6 = true := by
  have hwipe : Acts [.regs, .keepsake, .mgmt, .sec, .log, .outbox, .pcie] ((s.lid true).raisePanel 9)
      (((((s.lid true).raisePanel 9).clearLocket 3).endDebug true none).tamper 4) :=
    State.tamper_acts (State.endDebug_acts (State.clearLocket_acts .refl (by decide)) (by decide)) (by decide)
  have hopen : Acts [.regs, .panel, .mgmt, .outbox] s ((s.lid true).raisePanel 9) :=
    State.raisePanel_acts (Acts.set_panel .refl (by decide)) (by decide)
  obtain ⟨n, hlocket⟩ := ((s.lid true).raisePanel 9).clearLocket_sec 3
  obtain ⟨hdebug, hempty⟩ := (((s.lid true).raisePanel 9).clearLocket 3).endDebug_wiped (by rw [hlocket])
  refine runs_reaches_of_eq (ps := [.regs, .keepsake, .panel, .mgmt, .sec, .log, .outbox, .pcie]) (if_pos (by simp [hpow, hgood, hclosed]))
    ((hopen.more (by decide)).andThen hwipe (by decide)) (by decide) ⟨?_, ?_, ?_, ?_, State.tamper_flag ..⟩
  · rw [hwipe.1 .panel (by decide), State.raisePanel_panel]
    rfl
  · rw [State.tamper_sec, hempty]
  · rw [State.tamper_sec, hdebug]
  · rw [State.regNat, State.tamper_reg_ne (by decide) (by decide), State.endDebug_evPanel, State.clearLocket_reg]
    exact State.raisePanel_flag (by decide) _

theorem lidClose_powered {s : State} (hpow : s.powered = true) (hopen : s.panel.lidOpen = true) :
    Reaches (execLidClose s) fun t => t.panel = { s.panel with lidOpen := false } ∧ (t.regNat evPanel).testBit 10 = true :=
  runs_raisePanel_reaches (u := s) .refl (by decide) (by simp [hpow, hopen, State.lid])

theorem lidClose_unpowered {s : State} (hpow : s.powered = false) (hopen : s.panel.lidOpen = true) :
    Reaches (execLidClose s) fun t => t.panel = { s.panel with lidOpen := false } ∧ t.regs = s.regs :=
  runs_reaches_of_eq (ps := [.panel]) (t := s.lid false) (by simp [hpow, hopen]) (Acts.set_panel .refl (by decide)) (by decide) ⟨rfl, rfl⟩

/-- A record of an event leaves the owner blob alone. -/
theorem State.keepsakeEvent_ownerBlob (s : State) (kind : Nat) (powered : Bool) :
    (s.keepsakeEvent kind powered).keepsake.ownerBlob = s.keepsake.ownerBlob := by
  unfold State.keepsakeEvent
  dsimp only
  split <;> rfl

theorem lidOpenUnpowered_erases {s : State} (hoff : s.power.pwrgd = false) (hclosed : s.panel.lidOpen = false) (hcell : 1800 ≤ s.panel.coinMv) :
    Reaches (execLidOpenUnpowered s) fun t => t.panel = { s.panel with lidOpen := true } ∧ t.keepsake.ownerBlob = [] := by
  refine runs_reaches_of_eq (ps := [.keepsake, .panel]) (by simp [hoff, hclosed, Nat.not_lt.2 hcell]; rfl)
    (State.keepsakeEvent_acts (Acts.set_keepsake (Acts.set_panel .refl (by decide)) (by decide)) (by decide)) (by decide)
    ⟨(State.keepsakeEvent_acts (ps := [.keepsake]) .refl (by decide)).1 .panel (by decide), State.keepsakeEvent_ownerBlob ..⟩

theorem lidOpenUnpowered_unseen {s : State} (hoff : s.power.pwrgd = false) (hclosed : s.panel.lidOpen = false) (hcell : s.panel.coinMv < 1800) :
    Reaches (execLidOpenUnpowered s) fun t => t.panel = { s.panel with lidOpen := true } ∧ t.keepsake = s.keepsake :=
  runs_reaches_of_eq (ps := [.panel]) (t := s.lid true) (by simp [hoff, hclosed, hcell]) (Acts.set_panel .refl (by decide)) (by decide) ⟨rfl, rfl⟩

/-! ## The oscillator -/

/-- The state that a stopped oscillator leaves a port in: FENCED and HELD stay. -/
def stopped (k : Nat) : Nat := if k = 6 ∨ k = 7 then k else 0

/-- A port goes down because the oscillator has stopped. -/
def State.stopPort (s : State) (p : Nat) : State :=
  s.linkDown p (if (s.port p).state = 6 || (s.port p).state = 7 then (s.port p).state else 0)

theorem stopped_not_up (k : Nat) : stopped k ≠ 3 ∧ stopped k ≠ 4 := by
  unfold stopped
  split <;> omega

theorem stopped_stopped (k : Nat) : stopped (stopped k) = stopped k := by
  unfold stopped
  split
  · rfl
  · rfl

theorem State.stopPort_state {s : State} {p : Nat} (hdown : (s.port p).state ≠ 3 ∧ (s.port p).state ≠ 4) (q : Nat) :
    ((s.stopPort p).port q).state = if q = p then stopped (s.port p).state else (s.port q).state := by
  obtain ⟨hup, hres⟩ := hdown
  by_cases hq : q = p
  · rw [hq, if_pos rfl, State.stopPort, State.linkDown_port_of_not_up hup hres]
    simp [stopped]
  · rw [if_neg hq, State.stopPort, State.linkDown, if_neg (by simp [hup, hres]), State.updPort_other hq]

/-- Ports that are not up stop one after the other: nothing but their own states changes. -/
theorem State.foldl_stopPort (l : List Nat) {s : State} (hdown : ∀ p ∈ l, (s.port p).state ≠ 3 ∧ (s.port p).state ≠ 4) :
    Acts [.links, .mgmt] s (l.foldl State.stopPort s) ∧
      ∀ p, ((l.foldl State.stopPort s).port p).state = if p ∈ l then stopped (s.port p).state else (s.port p).state := by
  induction l generalizing s with
  | nil => exact ⟨.refl, fun _ => rfl⟩
  | cons q l ih =>
    have hq := hdown q List.mem_cons_self
    have hstate := State.stopPort_state hq
    obtain ⟨hacts, hrest⟩ := ih (s := s.stopPort q) fun p hp => by
      rw [hstate]
      split
      · exact stopped_not_up _
      · exact hdown p (List.mem_cons_of_mem _ hp)
    refine ⟨(State.linkDown_acts_of_not_up hq.1 hq.2 .refl (by decide)).trans hacts, fun p => ?_⟩
    rw [List.foldl_cons, hrest, hstate]
    by_cases hpq : p = q <;> by_cases hpl : p ∈ l <;> simp [hpq, hpl, stopped_stopped]

theorem oscillatorLost_stops {s : State} (hon : s.operating = true) (hgood : s.clock.good = true)
    (hdown : ∀ p, p < 8 → (s.port p).state ≠ 3 ∧ (s.port p).state ≠ 4) :
    Reaches (execOscillatorLost s) fun t => t.clock = { s.clock with good := false, fatal := true } ∧ t.log.next = s.log.next + 1 ∧
      ∀ p, p < 8 → (t.port p).state = if (s.port p).state = 6 ∨ (s.port p).state = 7 then (s.port p).state else 0 := by
  obtain ⟨u, hu⟩ : ∃ u, u = ({ s with clock := { s.clock with good := false } } : State).fatal { cause := 0x0101, cls := 3 } := ⟨_, rfl⟩
  have hfatal : Acts [.clock, .log, .outbox] s u := hu ▸ State.fatal_acts (Acts.set_clock .refl (by decide)) (by decide)
  have hport (p : Nat) : u.port p = s.port p := hfatal.port (by decide)
  obtain ⟨hacts, hstopped⟩ := State.foldl_stopPort (List.range 8) (s := u) fun p hp => by
    rw [hport]
    exact hdown p (List.mem_range.1 hp)
  refine runs_reaches_of_eq (ps := [.clock, .links, .mgmt, .log, .outbox]) (t := (List.range 8).foldl State.stopPort u)
    ((if_pos (by simp [hon, hgood])).trans (by rw [hu]; rfl)) ((hfatal.more (by decide)).andThen hacts (by decide)) (by decide)
    ⟨?_, ?_, fun p hp => ?_⟩
  · rw [hacts.1 .clock (by decide), hu, State.fatal, State.logEvent_clock]
  · rw [hacts.1 .log (by decide), hu, State.fatal, State.logEvent_log_next]
  · rw [hstopped, if_pos (List.mem_range.2 hp), hport]
    rfl

/-! ## The lockout -/

theorem authLockout_locks {s : State} {now : Nat} (hnone : s.sec.lockout = none)
    (hmany : 8 ≤ ((s.at now).recent (3600 * second) s.sec.failedAt).length) :
    Reaches (execAuthLockout now s) fun t =>
      t.sec = { s.sec with lockout := some ((s.at now).now + 3600 * second), failedAt := [] } ∧ (t.regNat evSec).testBit 2 = true ∧
      t.log.next = s.log.next + 1 := by
  refine runs_reaches_of_eq (ps := [.clock, .regs, .sec, .log, .outbox]) (if_pos (by simp [hnone, hmany]))
    (State.logEvent_acts (State.raise_acts (Acts.set_sec (State.at_acts .refl (by decide)) (by decide)) (by decide)) (by decide)) (by decide)
    ⟨?_, ?_, ?_⟩
  · rw [State.logEvent_sec, State.raise_sec, State.at_sec]
  · rw [State.regNat_logEvent]
    exact State.raise_flag (by decide) (by decide) _
  · rw [State.logEvent_log_next, State.raise_log, ← s.at_log now]

theorem lockoutExpiry_ends {s : State} {now d : Nat} (hlocked : s.sec.lockout = some d) (hexp : (s.at now).expired d = true) :
    Reaches (execLockoutExpiry now s) fun t => t.sec = { s.sec with lockout := none } :=
  runs_reaches_of_eq (ps := [.clock, .sec]) (by simp only [State.at_sec, hlocked, hexp, if_true]; rfl)
    (Acts.set_sec (State.at_acts .refl (by decide)) (by decide)) (by decide) (by rw [← s.at_sec now])

/-- Settles O16: each row's own lemma, in the order of the clauses. -/
theorem lidEventsComplete : Obligations.LidEventsComplete :=
  ⟨fun _ => lidOpen_tampers, fun _ => lidClose_powered, fun _ => lidClose_unpowered, fun _ => lidOpenUnpowered_erases,
   fun _ => lidOpenUnpowered_unseen, fun _ => oscillatorLost_stops, fun _ _ => authLockout_locks, fun _ _ _ => lockoutExpiry_ends⟩

end Sys2Proof.Machine
end

section
/-! PROOF. LIFECYCLE_SET (R559, R572) and DEBUG_TOKEN (R573): what a passed or failed check of a record leaves, what a transition leaves,
and then each action. -/

namespace Sys2Proof.Machine

open Sys2Proof

/-! ## A checked record (R561 to R563) -/

theorem State.checkRecord_passes (s : State) (c : Cmd) (b : List Byte) (signer action : Nat) (hash : Option (List Byte)) :
    (s.checkRecord c b signer action hash).2 = true ↔ s.sec.lockout = none ∧ s.recordPasses b signer action hash = true := by
  simp [State.checkRecord]

/-- A check leaves of the security core all but its nonce and its failures. -/
theorem State.checkRecord_sec (s : State) (c : Cmd) (b : List Byte) (signer action : Nat) (hash : Option (List Byte)) :
    ∃ nonce failed, (s.checkRecord c b signer action hash).1.sec = { s.sec with nonceDraw := nonce, failedAt := failed } := by
  unfold State.checkRecord
  dsimp only
  split
  · exact ⟨_, s.sec.failedAt, congrArg (fun x : Security => { x with nonceDraw := (s.raise evSec 0).draws }) (s.raise_sec evSec 0)⟩
  · have hfail : (s.noteAuthFail c).sec = { s.sec with failedAt := s.now :: s.recent (3600 * second) s.sec.failedAt } := by
      rw [State.noteAuthFail, State.markLogged, State.updCmd, State.logEvent_sec, State.sat32, State.setNat_sec, State.raise_sec]
    exact ⟨_, _, congrArg (fun x : Security => { x with nonceDraw := (s.noteAuthFail c).draws }) hfail⟩

theorem State.checkRecord_keepsake (s : State) (c : Cmd) (b : List Byte) (signer action : Nat) (hash : Option (List Byte)) :
    (s.checkRecord c b signer action hash).1.keepsake = s.keepsake :=
  (State.checkRecord_acts (ps := [.draws, .regs, .cmds, .sec, .log, .outbox]) .refl (by decide)).1 .keepsake (by decide)

/-- The command whose record is checked is still in flight: a failed check only marks it. -/
theorem State.checkRecord_cmd {s : State} {c k : Cmd} (hcmd : s.cmd c.ref = some k) (b : List Byte) (signer action : Nat)
    (hash : Option (List Byte)) : ∃ d, (s.checkRecord c b signer action hash).1.cmd c.ref = some d := by
  unfold State.checkRecord
  dsimp only
  split
  · exact ⟨k, ((State.renewNonce_acts (State.raise_acts (ps := [.draws, .regs, .sec, .outbox]) .refl (by decide)) (by decide)).cmd
      (by decide)).trans hcmd⟩
  · rw [(State.renewNonce_acts (ps := [.draws, .sec]) .refl (by decide)).cmd (by decide)]
    refine ⟨_, State.updCmd_cmd (k := k) ?_ fun _ => rfl⟩
    refine ((State.logEvent_acts (ps := [.regs, .sec, .log, .outbox]) (State.sat32_acts (State.raise_acts (Acts.set_sec .refl (by decide))
      (by decide)) (by decide)) (by decide)).cmd (by decide)).trans hcmd

/-! ## Transitions (R558, R559, R268) -/

/-- A transition that a command makes burns its entry and empties the locket, ends any debug mode, and leaves the reset to the reply. -/
theorem State.transition_sec (s : State) (code : Nat) (r : CmdRef) :
    (s.transition code (some r)).sec.fuseLog = s.sec.fuseLog ++ [code] ∧ (s.transition code (some r)).sec.locket = Locket.reset ∧
      (s.transition code (some r)).sec.resetAfter = some r ∧ (s.transition code (some r)).sec.seedBurned = s.sec.seedBurned := by
  obtain ⟨n, hwiped⟩ := (s.burnFuse code).clearLocket_sec 2
  obtain ⟨-, hlocket, hfuses⟩ := ((s.burnFuse code).clearLocket 2).dropDebug_drops
  have hseed : ((s.burnFuse code).clearLocket 2).dropDebug.sec.seedBurned = s.sec.seedBurned := by
    rw [State.dropDebug_sec, hwiped, State.burnFuse_sec]
    split <;> rfl
  rw [hwiped, State.burnFuse_sec] at hfuses
  exact ⟨hfuses, hlocket (by rw [hwiped]), rfl, hseed⟩

/-- A wipe is counted in keepsake and changes nothing else of it. -/
theorem State.clearLocket_ownerBlob (s : State) (cause : Nat) : (s.clearLocket cause).keepsake.ownerBlob = s.keepsake.ownerBlob := by
  rw [State.clearLocket, State.logEvent_keepsake]
  rfl

theorem State.transition_ownerBlob (s : State) (code : Nat) (by_ : Option CmdRef) :
    (s.transition code by_).keepsake.ownerBlob = s.keepsake.ownerBlob := by
  have hdrop : ((s.burnFuse code).clearLocket 2).dropDebug.keepsake = ((s.burnFuse code).clearLocket 2).keepsake :=
    (State.dropDebug_acts (ps := [.regs, .sec, .outbox]) .refl (by decide)).1 .keepsake (by decide)
  have hburn : (s.burnFuse code).keepsake = s.keepsake :=
    (State.burnFuse_acts (ps := [.regs, .mgmt, .sec, .outbox]) .refl (by decide)).1 .keepsake (by decide)
  exact (congrArg Keepsake.ownerBlob hdrop).trans ((State.clearLocket_ownerBlob ..).trans (congrArg Keepsake.ownerBlob hburn))

theorem State.transition_cmd (s : State) (code : Nat) (by_ : Option CmdRef) (r : CmdRef) : (s.transition code by_).cmd r = s.cmd r :=
  (State.transition_acts (ps := [.regs, .keepsake, .mgmt, .sec, .log, .outbox, .pcie]) .refl (by decide)).cmd (by decide)

/-! ## Acknowledged tampers (R572) -/

theorem State.acknowledge_tamperPending (s : State) : s.acknowledge.tamperPending = false := by
  unfold State.acknowledge
  split
  · next hnone => simpa using hnone
  · rw [State.tamperPending, (State.raise_acts (ps := [.regs, .outbox]) .refl (by decide)).1 .keepsake (by decide)]
    simp [State.ksWrite, KeepsakeEvent.pendingTamper]

theorem State.acknowledge_ownerBlob (s : State) : s.acknowledge.keepsake.ownerBlob = s.keepsake.ownerBlob := by
  unfold State.acknowledge
  split
  · rfl
  · rw [(State.raise_acts (ps := [.regs, .outbox]) .refl (by decide)).1 .keepsake (by decide)]
    rfl

/-! ## LIFECYCLE_SET up to its action -/

/-- An access of no bytes does not fail. -/
theorem State.readPlace_zero (s : State) (p : Place) (off : Nat) : s.readPlace p off 0 = ([], none) := by
  cases p with
  | device a => rfl
  | host a => rfl
  | invalid => rfl

/-- A LIFECYCLE_SET that nothing refuses acts on the bytes that it reads. -/
theorem State.lifecycleSet_acts_on {s : State} {c : Cmd} {b : List Byte}
    (hplace : c.param 32 1 ≠ 5 → s.placeFails c (c.param 40 8) (actionBytes (c.param 32 1)) false 40 = none)
    (hidle : s.updating = false) (hallowed : s.actionAllowed (c.param 32 1) = true) (hleft : s.noEntryLeft (c.param 32 1) = false)
    (hblob : c.param 32 1 = 6 → s.keepsake.ownerBlob ≠ [] ∧ s.panel.lidOpen = false)
    (hread : s.readPlace (placeOf (c.param 40 8)) 0 (actionBytes (c.param 32 1)) = (b, none)) : s.lifecycleSet c = s.lifecycleAct c b := by
  have hplaced : (if actionBytes (c.param 32 1) = 0 then none
      else s.placeFails c (c.param 40 8) (actionBytes (c.param 32 1)) false 40) = none := by
    by_cases h5 : c.param 32 1 = 5
    · rw [h5]; rfl
    · rw [hplace h5, ite_self]
  rw [State.lifecycleSet]
  dsimp only
  rw [hplaced]
  by_cases h6 : c.param 32 1 = 6
  · obtain ⟨hinstalled, hclosed⟩ := hblob h6
    simp [hidle, hallowed, hleft, hinstalled, hclosed, hread]
  · simp [hidle, hallowed, hleft, h6, hread]

/-! ## The ends of an action -/

/-- A denied action: the check that failed has touched neither the fuses nor keepsake. -/
theorem State.checkRecord_deny {s : State} {c k : Cmd} (hcmd : s.cmd c.ref = some k) (b : List Byte) (signer action : Nat)
    (hash : Option (List Byte)) :
    ((s.checkRecord c b signer action hash).1.finish c.ref { status := stNotPermitted }).Ended c.ref stNotPermitted ∧
      (s.checkRecord c b signer action hash).1.sec.fuseLog = s.sec.fuseLog ∧ (s.checkRecord c b signer action hash).1.sec.debug = s.sec.debug ∧
      (s.checkRecord c b signer action hash).1.keepsake = s.keepsake := by
  obtain ⟨d, hd⟩ := State.checkRecord_cmd hcmd b signer action hash
  obtain ⟨nonce, failed, hsec⟩ := s.checkRecord_sec c b signer action hash
  exact ⟨State.finish_ended hd, by rw [hsec], by rw [hsec], s.checkRecord_keepsake ..⟩

/-- A transition that the command makes after a state u that still holds the command. -/
theorem State.transition_finish {u : State} {r : CmdRef} {d : Cmd} (hcmd : u.cmd r = some d) (code : Nat) :
    ((u.transition code (some r)).finish r {}).Answered r {} :=
  State.finish_answered ((u.transition_cmd code (some r) r).trans hcmd)

theorem fusesLeft_noEntryLeft {s : State} (hfuses : s.fusesLeft = true) (action : Nat) : s.noEntryLeft action = false := by
  simp [State.noEntryLeft, hfuses]

/-- An action that its record authorises and that ends in a transition, after it has destroyed what g says; denied otherwise. -/
theorem State.checked_transition {s t : State} {c k : Cmd} {b : List Byte} {signer action code : Nat} {hash : Option (List Byte)}
    {g : State → State} (hcmd : s.cmd c.ref = some k)
    (hg : ∀ u, (g u).inflight = u.inflight ∧ (g u).sec.fuseLog = u.sec.fuseLog)
    (ht : t = if (s.checkRecord c b signer action hash).2 then
      ((g (s.checkRecord c b signer action hash).1).transition code (some c.ref)).finish c.ref {}
      else (s.checkRecord c b signer action hash).1.finish c.ref { status := stNotPermitted }) :
    (s.sec.lockout = none ∧ s.recordPasses b signer action hash = true → t.Answered c.ref {} ∧ t.sec.fuseLog = s.sec.fuseLog ++ [code] ∧
      t.sec.locket = Locket.reset ∧ t.sec.resetAfter = some c.ref ∧
      t.sec.seedBurned = (g (s.checkRecord c b signer action hash).1).sec.seedBurned ∧
      t.keepsake.ownerBlob = (g (s.checkRecord c b signer action hash).1).keepsake.ownerBlob) ∧
    (¬ (s.sec.lockout = none ∧ s.recordPasses b signer action hash = true) →
      t.Ended c.ref stNotPermitted ∧ t.sec.fuseLog = s.sec.fuseLog) := by
  have hpasses := s.checkRecord_passes c b signer action hash
  obtain ⟨hended, hlog, -⟩ := State.checkRecord_deny hcmd b signer action hash
  refine ⟨fun hpass => ?_, fun hfail => ?_⟩
  · obtain ⟨d, hd⟩ := State.checkRecord_cmd hcmd b signer action hash
    obtain ⟨hinflight, hfuses⟩ := hg (s.checkRecord c b signer action hash).1
    obtain ⟨hburnt, hlocket, hafter, hseed⟩ := (g (s.checkRecord c b signer action hash).1).transition_sec code c.ref
    rw [ht, if_pos (hpasses.2 hpass)]
    exact ⟨State.transition_finish ((State.cmd_congr hinflight).trans hd) code, hburnt.trans (by rw [hfuses, hlog]), hlocket, hafter, hseed,
      State.transition_ownerBlob (g (s.checkRecord c b signer action hash).1) code (some c.ref)⟩
  · rw [ht, if_neg (mt hpasses.1 hfail)]
    exact ⟨hended, hlog⟩

/-! ## LIFECYCLE_SET, action by action (Table 21-8) -/

theorem State.lifecycleSet_provision {s : State} {c k : Cmd} {b : List Byte} (hcmd : s.cmd c.ref = some k)
    (haction : c.param 32 1 = 0) (hplace : s.placeFails c (c.param 40 8) recordBytes false 40 = none)
    (hidle : s.updating = false) (hlc : s.lcState = 0 ∨ s.lcState = 4) (hfuses : s.fusesLeft = true)
    (hread : s.readPlace (placeOf (c.param 40 8)) 0 recordBytes = (b, none)) :
    if s.sec.lockout = none ∧ s.recordPasses (slice b 0 recordBytes) 0 0 (some Config.vendorHash) = true then
      (s.lifecycleSet c).Answered c.ref {} ∧ (s.lifecycleSet c).sec.fuseLog = s.sec.fuseLog ++ [1] ∧
        (s.lifecycleSet c).sec.locket = Locket.reset ∧ (s.lifecycleSet c).sec.resetAfter = some c.ref
    else (s.lifecycleSet c).Ended c.ref stNotPermitted ∧ (s.lifecycleSet c).sec.fuseLog = s.sec.fuseLog := by
  have hact : s.lifecycleSet c = s.lifecycleAct c b := State.lifecycleSet_acts_on (fun _ => by rw [haction]; exact hplace) hidle
    (by rw [haction]; simpa [State.actionAllowed] using hlc) (fusesLeft_noEntryLeft hfuses _) (by omega) (by rw [haction]; exact hread)
  obtain ⟨hdone, hdenied⟩ := State.checked_transition (g := id) hcmd (fun _ => ⟨rfl, rfl⟩) (hact.trans (by rw [State.lifecycleAct]; simp only [haction, if_true]; rfl))
  refine ite_prop_iff_and.2 ⟨fun hpass => ?_, hdenied⟩
  obtain ⟨hanswered, hlog, hlocket, hafter, -⟩ := hdone hpass
  exact ⟨hanswered, hlog, hlocket, hafter⟩

theorem State.lifecycleSet_own {s : State} {c k : Cmd} {b : List Byte} (hcmd : s.cmd c.ref = some k)
    (haction : c.param 32 1 = 1) (hplace : s.placeFails c (c.param 40 8) envelopeBytes false 40 = none)
    (hidle : s.updating = false) (hlc : s.lcState = 1) (hfuses : s.fusesLeft = true)
    (hread : s.readPlace (placeOf (c.param 40 8)) 0 envelopeBytes = (b, none)) :
    match s.envelope b with
    | some p => (s.lifecycleSet c).Answered c.ref {} ∧ (s.lifecycleSet c).sec.fuseLog = s.sec.fuseLog ++ [2] ∧
        (s.lifecycleSet c).keepsake.ownerBlob = p ∧ (s.lifecycleSet c).sec.resetAfter = some c.ref
    | none => (s.lifecycleSet c).Ended c.ref stNotPermitted ∧ (s.lifecycleSet c).sec.fuseLog = s.sec.fuseLog := by
  have hact : s.lifecycleSet c = s.lifecycleAct c b := State.lifecycleSet_acts_on (fun _ => by rw [haction]; exact hplace) hidle
    (by rw [haction]; simpa [State.actionAllowed] using hlc) (fusesLeft_noEntryLeft hfuses _) (by omega) (by rw [haction]; exact hread)
  rw [hact, State.lifecycleAct]
  simp only [haction, Nat.one_ne_zero, if_false, if_true]
  cases henv : s.envelope b with
  | none => exact ⟨State.finish_ended hcmd, rfl⟩
  | some p =>
    obtain ⟨hlog, -, hafter, -⟩ := (s.installBlob p).transition_sec 2 c.ref
    have hstays : (s.installBlob p).cmd c.ref = some k := hcmd
    exact ⟨State.transition_finish hstays 2, hlog, State.transition_ownerBlob (s.installBlob p) 2 (some c.ref), hafter⟩

/-- An installed blob is in keepsake, whether or not it acknowledges a tamper, and commands in flight stay. -/
theorem State.installBlob_keeps (s : State) (p : List Byte) (first : Bool) :
    (if first then (s.installBlob p).acknowledge else s.installBlob p).keepsake.ownerBlob = p ∧
      (if first then (s.installBlob p).acknowledge else s.installBlob p).inflight = s.inflight := by
  cases first with
  | true =>
    exact ⟨State.acknowledge_ownerBlob _,
      ((State.acknowledge_acts (s := s.installBlob p) (ps := [.regs, .keepsake, .outbox]) .refl (by decide)).1 .cmds (by decide)).2⟩
  | false => exact ⟨rfl, rfl⟩

theorem State.lifecycleSet_install {s : State} {c k : Cmd} {b : List Byte} (hcmd : s.cmd c.ref = some k)
    (haction : c.param 32 1 = 2) (hplace : s.placeFails c (c.param 40 8) (recordBytes + envelopeBytes) false 40 = none)
    (hidle : s.updating = false) (hlc : s.lcState = 2)
    (hread : s.readPlace (placeOf (c.param 40 8)) 0 (recordBytes + envelopeBytes) = (b, none)) :
    match s.envelope (slice b recordBytes envelopeBytes) with
    | some p =>
      if s.sec.lockout = none ∧ s.recordPasses (slice b 0 recordBytes) 1 2
          (if s.keepsake.ownerBlob.isEmpty then some (slice p 0 64) else s.ownerHash) = true then
        (s.lifecycleSet c).Answered c.ref {} ∧ (s.lifecycleSet c).keepsake.ownerBlob = p ∧ (s.lifecycleSet c).sec.unsealCode = 0 ∧
          (s.lifecycleSet c).sec.locket.owner = some p
      else (s.lifecycleSet c).Ended c.ref stNotPermitted ∧ (s.lifecycleSet c).keepsake.ownerBlob = s.keepsake.ownerBlob
    | none => (s.lifecycleSet c).Ended c.ref stNotPermitted ∧ (s.lifecycleSet c).keepsake.ownerBlob = s.keepsake.ownerBlob := by
  have hact : s.lifecycleSet c = s.lifecycleAct c b := State.lifecycleSet_acts_on (fun _ => by rw [haction]; exact hplace) hidle
    (by rw [haction]; simpa [State.actionAllowed] using hlc) (by simp [State.noEntryLeft, haction]) (by omega) (by rw [haction]; exact hread)
  rw [hact, State.lifecycleAct]
  simp only [haction, OfNat.ofNat_ne_zero, OfNat.ofNat_ne_one, if_false, if_true]
  cases henv : s.envelope (slice b recordBytes envelopeBytes) with
  | none =>
    cases hempty : s.keepsake.ownerBlob.isEmpty with
    | true => exact ⟨State.finish_ended hcmd, rfl⟩
    | false =>
      obtain ⟨hended, -, -, hkept⟩ := State.checkRecord_deny hcmd (slice b 0 recordBytes) 1 2 s.ownerHash
      simp only [Bool.false_and, Bool.false_eq_true, if_false]
      split
      · contradiction
      · exact ⟨hended, congrArg Keepsake.ownerBlob hkept⟩
  | some p =>
    simp only [Option.isNone_some, Bool.and_false, Bool.false_eq_true, if_false, Option.map_some]
    have hpasses := s.checkRecord_passes c (slice b 0 recordBytes) 1 2 (if s.keepsake.ownerBlob.isEmpty = true then some (slice p 0 64) else s.ownerHash)
    obtain ⟨d, hd⟩ := State.checkRecord_cmd hcmd (slice b 0 recordBytes) 1 2 (if s.keepsake.ownerBlob.isEmpty = true then some (slice p 0 64) else s.ownerHash)
    obtain ⟨hended, -, -, hkept⟩ := State.checkRecord_deny hcmd (slice b 0 recordBytes) 1 2 (if s.keepsake.ownerBlob.isEmpty = true then some (slice p 0 64) else s.ownerHash)
    generalize s.checkRecord c (slice b 0 recordBytes) 1 2 (if s.keepsake.ownerBlob.isEmpty = true then some (slice p 0 64) else s.ownerHash) = x at *
    obtain ⟨u, ok⟩ := x
    cases ok with
    | true =>
      obtain ⟨hblob, hinflight⟩ := u.installBlob_keeps p s.keepsake.ownerBlob.isEmpty
      rw [if_pos (hpasses.1 rfl)]
      exact ⟨State.finish_answered ((State.cmd_congr hinflight).trans hd), hblob, rfl, rfl⟩
    | false =>
      rw [if_neg (mt hpasses.2 Bool.false_ne_true)]
      exact ⟨hended, congrArg Keepsake.ownerBlob hkept⟩

/-- The end of the lease: what the owner had is destroyed. -/
theorem State.lifecycleSet_return {s : State} {c k : Cmd} {b : List Byte} (hcmd : s.cmd c.ref = some k)
    (haction : c.param 32 1 = 3) (hplace : s.placeFails c (c.param 40 8) recordBytes false 40 = none)
    (hidle : s.updating = false) (hlc : s.lcState = 2) (hfuses : s.fusesLeft = true)
    (hread : s.readPlace (placeOf (c.param 40 8)) 0 recordBytes = (b, none)) :
    if s.sec.lockout = none ∧ s.recordPasses (slice b 0 recordBytes) 1 3 s.ownerHash = true then
      (s.lifecycleSet c).Answered c.ref {} ∧ (s.lifecycleSet c).sec.fuseLog = s.sec.fuseLog ++ [4] ∧
        (s.lifecycleSet c).keepsake.ownerBlob = [] ∧ (s.lifecycleSet c).sec.resetAfter = some c.ref
    else (s.lifecycleSet c).Ended c.ref stNotPermitted ∧ (s.lifecycleSet c).sec.fuseLog = s.sec.fuseLog := by
  have hact : s.lifecycleSet c = s.lifecycleAct c b := State.lifecycleSet_acts_on (fun _ => by rw [haction]; exact hplace) hidle
    (by rw [haction]; simpa [State.actionAllowed] using hlc) (fusesLeft_noEntryLeft hfuses _) (by omega) (by rw [haction]; exact hread)
  obtain ⟨hdone, hdenied⟩ := State.checked_transition (g := State.destroyOwner) hcmd (fun _ => ⟨rfl, rfl⟩)
    (hact.trans (by rw [State.lifecycleAct]; simp only [haction, OfNat.ofNat_ne_zero, OfNat.ofNat_ne_one, Nat.reduceEqDiff, if_false, if_true]; rfl))
  refine ite_prop_iff_and.2 ⟨fun hpass => ?_, hdenied⟩
  obtain ⟨hanswered, hlog, -, hafter, -, hblob⟩ := hdone hpass
  exact ⟨hanswered, hlog, hblob, hafter⟩

theorem State.lifecycleSet_retire {s : State} {c k : Cmd} {b : List Byte} (hcmd : s.cmd c.ref = some k)
    (haction : c.param 32 1 = 4) (hplace : s.placeFails c (c.param 40 8) recordBytes false 40 = none)
    (hidle : s.updating = false) (hlc : s.lcState ≠ 15)
    (hread : s.readPlace (placeOf (c.param 40 8)) 0 recordBytes = (b, none)) :
    if s.sec.lockout = none ∧ s.recordPasses (slice b 0 recordBytes) (if s.lcState = 2 then 1 else 0) 4
        (if s.lcState = 2 then s.ownerHash else some Config.vendorHash) = true then
      (s.lifecycleSet c).Answered c.ref {} ∧ (s.lifecycleSet c).sec.fuseLog = s.sec.fuseLog ++ [15] ∧ (s.lifecycleSet c).sec.seedBurned = true ∧
        (s.lifecycleSet c).keepsake.ownerBlob = [] ∧ (s.lifecycleSet c).sec.resetAfter = some c.ref
    else (s.lifecycleSet c).Ended c.ref stNotPermitted ∧ (s.lifecycleSet c).sec.fuseLog = s.sec.fuseLog := by
  have hact : s.lifecycleSet c = s.lifecycleAct c b := State.lifecycleSet_acts_on (fun _ => by rw [haction]; exact hplace) hidle
    (by rw [haction]; simpa [State.actionAllowed] using hlc) (by simp [State.noEntryLeft, haction]) (by omega) (by rw [haction]; exact hread)
  obtain ⟨hdone, hdenied⟩ := State.checked_transition (g := State.destroyAll) (b := slice b 0 recordBytes) (action := 4) (code := 15)
    (signer := if s.lcState = 2 then 1 else 0) (hash := if s.lcState = 2 then s.ownerHash else some Config.vendorHash) hcmd (fun _ => ⟨rfl, rfl⟩)
    (hact.trans (by
      rw [State.lifecycleAct]
      simp only [haction, OfNat.ofNat_ne_zero, OfNat.ofNat_ne_one, Nat.reduceEqDiff, if_false, if_true]
      by_cases howned : s.lcState = 2 <;> simp only [howned, if_true, if_false]))
  refine ite_prop_iff_and.2 ⟨fun hpass => ?_, hdenied⟩
  obtain ⟨hanswered, hlog, -, hafter, hseed, hblob⟩ := hdone hpass
  exact ⟨hanswered, hlog, hseed, hblob, hafter⟩

/-- The end of SERVICE_DEBUG by command. -/
theorem State.lifecycleSet_endService {s : State} {c k : Cmd} (hcmd : s.cmd c.ref = some k) (haction : c.param 32 1 = 5)
    (hidle : s.updating = false) (hlc : s.lcState = 3) (hfuses : s.fusesLeft = true) (hdebug : s.sec.debug = 0) :
    (s.lifecycleSet c).Answered c.ref {} ∧ (s.lifecycleSet c).sec.fuseLog = s.sec.fuseLog ++ [2] ∧ (s.lifecycleSet c).sec.resetAfter = some c.ref := by
  have hact : s.lifecycleSet c = s.lifecycleAct c [] := State.lifecycleSet_acts_on (fun h => absurd haction h) hidle
    (by rw [haction]; simp [State.actionAllowed, hlc]) (fusesLeft_noEntryLeft hfuses _) (by omega) (by rw [haction]; exact State.readPlace_zero ..)
  obtain ⟨u, hu⟩ : ∃ u, u = ({ s with sec := { s.sec with grantDue := none } } : State) := ⟨_, rfl⟩
  have hmove : s.lifecycleSet c = (u.transition 2 (some c.ref)).finish c.ref {} := by
    rw [hact, State.lifecycleAct, hu]
    simp only [haction, OfNat.ofNat_ne_zero, OfNat.ofNat_ne_one, Nat.reduceEqDiff, if_false, if_true, hdebug]
  have hstays : u.cmd c.ref = some k := by rw [hu]; exact hcmd
  obtain ⟨hlog, -, hafter, -⟩ := u.transition_sec 2 c.ref
  rw [hmove]
  exact ⟨State.transition_finish hstays 2, hlog.trans (by rw [hu]), hafter⟩

/-- The end of the owner's debug mode by command. -/
theorem State.lifecycleSet_endOwner {s : State} {c k : Cmd} (hcmd : s.cmd c.ref = some k) (haction : c.param 32 1 = 5)
    (hidle : s.updating = false) (hlc : s.lcState = 2) (hdebug : s.sec.debug = 2) :
    (s.lifecycleSet c).Answered c.ref {} ∧ (s.lifecycleSet c).sec.debug = 0 ∧ (s.lifecycleSet c).sec.locket = Locket.reset := by
  have hact : s.lifecycleSet c = s.lifecycleAct c [] := State.lifecycleSet_acts_on (fun h => absurd haction h) hidle
    (by rw [haction]; simp [State.actionAllowed, hlc, hdebug]) (by simp [State.noEntryLeft, haction, hlc]) (by omega)
    (by rw [haction]; exact State.readPlace_zero ..)
  have hend : s.lifecycleSet c = (s.dropDebug.clearLocket 5).finish c.ref {} := by
    rw [hact, State.lifecycleAct]
    simp only [haction, OfNat.ofNat_ne_zero, OfNat.ofNat_ne_one, Nat.reduceEqDiff, if_false, if_true, State.endDebug, hdebug]
    rfl
  obtain ⟨n, hwiped⟩ := s.dropDebug.clearLocket_sec 5
  obtain ⟨hnone, -⟩ := s.dropDebug_drops
  have hstays : (s.dropDebug.clearLocket 5).cmd c.ref = some k :=
    ((State.clearLocket_acts (State.dropDebug_acts (ps := [.regs, .keepsake, .mgmt, .sec, .log, .outbox, .pcie]) .refl (by decide))
      (by decide)).cmd (by decide)).trans hcmd
  have hsec : (s.lifecycleSet c).sec = (s.dropDebug.clearLocket 5).sec := by rw [hend]; rfl
  rw [hsec, hwiped]
  exact ⟨hend ▸ State.finish_answered hstays, hnone, rfl⟩

theorem State.lifecycleSet_acknowledge {s : State} {c k : Cmd} {b : List Byte} (hcmd : s.cmd c.ref = some k)
    (haction : c.param 32 1 = 6) (hplace : s.placeFails c (c.param 40 8) recordBytes false 40 = none)
    (hidle : s.updating = false) (hlc : s.lcState = 2) (hblob : s.keepsake.ownerBlob ≠ []) (hclosed : s.panel.lidOpen = false)
    (hread : s.readPlace (placeOf (c.param 40 8)) 0 recordBytes = (b, none)) :
    if s.sec.lockout = none ∧ s.recordPasses (slice b 0 recordBytes) 1 6 s.ownerHash = true then
      (s.lifecycleSet c).Answered c.ref {} ∧ (s.lifecycleSet c).tamperPending = false
    else (s.lifecycleSet c).Ended c.ref stNotPermitted ∧ (s.lifecycleSet c).keepsake = s.keepsake := by
  have hact : s.lifecycleSet c = s.lifecycleAct c b := State.lifecycleSet_acts_on (fun _ => by rw [haction]; exact hplace) hidle
    (by rw [haction]; simpa [State.actionAllowed] using hlc) (by simp [State.noEntryLeft, haction]) (fun _ => ⟨hblob, hclosed⟩)
    (by rw [haction]; exact hread)
  have hpasses := s.checkRecord_passes c (slice b 0 recordBytes) 1 6 s.ownerHash
  obtain ⟨d, hd⟩ := State.checkRecord_cmd hcmd (slice b 0 recordBytes) 1 6 s.ownerHash
  obtain ⟨hended, -, -, hkept⟩ := State.checkRecord_deny hcmd (slice b 0 recordBytes) 1 6 s.ownerHash
  rw [hact, State.lifecycleAct]
  simp only [haction, OfNat.ofNat_ne_zero, OfNat.ofNat_ne_one, Nat.reduceEqDiff, if_false]
  split
  · next hpass =>
    rw [if_pos (hpasses.2 hpass)]
    have hstays : (s.checkRecord c (slice b 0 recordBytes) 1 6 s.ownerHash).1.acknowledge.unseal.cmd c.ref = some d :=
      ((State.acknowledge_acts (ps := [.regs, .keepsake, .outbox]) .refl (by decide)).cmd (by decide)).trans hd
    exact ⟨State.finish_answered hstays, State.acknowledge_tamperPending _⟩
  · next hfail =>
    rw [if_neg (mt hpasses.1 hfail)]
    exact ⟨hended, hkept⟩

/-! ## DEBUG_TOKEN (R573) -/

/-- A DEBUG_TOKEN that nothing refuses up to its record: the record's ACTION decides the mode. -/
theorem State.debugToken_eq {s : State} {c : Cmd} {b : List Byte} (hplace : s.placeFails c (c.param 40 8) recordBytes false 40 = none)
    (hidle : s.updating = false) (hdebug : s.sec.debug = 0) (hlc : s.lcState = 2) (hfuses : s.fusesLeft = true)
    (hread : s.readPlace (placeOf (c.param 40 8)) 0 recordBytes = (b, none)) :
    s.debugToken c =
      if fieldAt b 5 1 = 0x10 then
        if (s.checkRecord c b 0 0x10 (some Config.vendorHash)).2 then
          ({ (s.checkRecord c b 0 0x10 (some Config.vendorHash)).1.zeroFill.transition 3 (some c.ref) with
            sec := { ((s.checkRecord c b 0 0x10 (some Config.vendorHash)).1.zeroFill.transition 3 (some c.ref)).sec with
              grantDue := some (fieldAt b 24 4 * msec) } } : State).finish c.ref {}
        else (s.checkRecord c b 0 0x10 (some Config.vendorHash)).1.finish c.ref { status := stNotPermitted }
      else if (s.checkRecord c b 1 0x11 s.ownerHash).2 then
        (((s.checkRecord c b 1 0x11 s.ownerHash).1.clearLocket 5).placeGrant 2 (c.acceptedAt + fieldAt b 24 4 * msec)).finish c.ref {}
      else (s.checkRecord c b 1 0x11 s.ownerHash).1.finish c.ref { status := stNotPermitted } := by
  rw [State.debugToken, hplace]
  simp [hidle, hdebug, hlc, hfuses, hread]

/-- The vendor's record: the transition to SERVICE_DEBUG, whose grant is due after the reset. -/
theorem State.serviceDebug_opens {u : State} {r : CmdRef} {d : Cmd} (hcmd : u.cmd r = some d) (due : Nat) :
    ({ u.zeroFill.transition 3 (some r) with
        sec := { (u.zeroFill.transition 3 (some r)).sec with grantDue := some due } } : State).cmd r = some d :=
  (u.zeroFill.transition_cmd 3 (some r) r).trans hcmd

/-- The owner's record: the locket is wiped, and the grant placed in it. -/
theorem State.placeGrant_sec (s : State) (mode expiry : Nat) :
    (s.placeGrant mode expiry).sec = { s.sec with debug := mode, debugExpiry := expiry, locket := { s.sec.locket with grant := true } } :=
  State.raise_sec ..

theorem State.debugToken_opens {s : State} {c k : Cmd} {b : List Byte} (hcmd : s.cmd c.ref = some k)
    (hplace : s.placeFails c (c.param 40 8) recordBytes false 40 = none)
    (hidle : s.updating = false) (hdebug : s.sec.debug = 0) (hlc : s.lcState = 2) (hfuses : s.fusesLeft = true)
    (hread : s.readPlace (placeOf (c.param 40 8)) 0 recordBytes = (b, none)) :
    if fieldAt b 5 1 = 0x10 then
      if s.sec.lockout = none ∧ s.recordPasses b 0 0x10 (some Config.vendorHash) = true then
        (s.debugToken c).Answered c.ref {} ∧ (s.debugToken c).sec.fuseLog = s.sec.fuseLog ++ [3] ∧
          (s.debugToken c).sec.grantDue = some (fieldAt b 24 4 * msec) ∧ (s.debugToken c).sec.resetAfter = some c.ref
      else (s.debugToken c).Ended c.ref stNotPermitted ∧ (s.debugToken c).sec.fuseLog = s.sec.fuseLog
    else if s.sec.lockout = none ∧ s.recordPasses b 1 0x11 s.ownerHash = true then
      (s.debugToken c).Answered c.ref {} ∧ (s.debugToken c).sec.debug = 2 ∧
        (s.debugToken c).sec.debugExpiry = c.acceptedAt + fieldAt b 24 4 * msec ∧ (s.debugToken c).sec.locket.grant = true
    else (s.debugToken c).Ended c.ref stNotPermitted ∧ (s.debugToken c).sec.debug = 0 := by
  rw [State.debugToken_eq hplace hidle hdebug hlc hfuses hread]
  by_cases hservice : fieldAt b 5 1 = 0x10
  · have hpasses := s.checkRecord_passes c b 0 0x10 (some Config.vendorHash)
    obtain ⟨d, hd⟩ := State.checkRecord_cmd hcmd b 0 0x10 (some Config.vendorHash)
    obtain ⟨hended, hlog, -⟩ := State.checkRecord_deny hcmd b 0 0x10 (some Config.vendorHash)
    simp only [if_pos hservice]
    refine ite_prop_iff_and.2 ⟨fun hpass => ?_, fun hfail => ?_⟩
    · obtain ⟨hburnt, -, hafter, -⟩ := (s.checkRecord c b 0 0x10 (some Config.vendorHash)).1.zeroFill.transition_sec 3 c.ref
      rw [if_pos (hpasses.2 hpass)]
      exact ⟨State.finish_answered (State.serviceDebug_opens hd _), hburnt.trans (congrArg (· ++ [3]) hlog), rfl, hafter⟩
    · rw [if_neg (mt hpasses.1 hfail)]
      exact ⟨hended, hlog⟩
  · have hpasses := s.checkRecord_passes c b 1 0x11 s.ownerHash
    obtain ⟨d, hd⟩ := State.checkRecord_cmd hcmd b 1 0x11 s.ownerHash
    obtain ⟨hended, -, hmode, -⟩ := State.checkRecord_deny hcmd b 1 0x11 s.ownerHash
    simp only [if_neg hservice]
    refine ite_prop_iff_and.2 ⟨fun hpass => ?_, fun hfail => ?_⟩
    · have hstays : (((s.checkRecord c b 1 0x11 s.ownerHash).1.clearLocket 5).placeGrant 2 (c.acceptedAt + fieldAt b 24 4 * msec)).cmd c.ref = some d :=
        ((State.placeGrant_acts (State.clearLocket_acts (ps := [.regs, .keepsake, .mgmt, .sec, .log, .outbox, .pcie]) .refl (by decide))
          (by decide)).cmd (by decide)).trans hd
      have hsec := ((s.checkRecord c b 1 0x11 s.ownerHash).1.clearLocket 5).placeGrant_sec 2 (c.acceptedAt + fieldAt b 24 4 * msec)
      rw [if_pos (hpasses.2 hpass)]
      exact ⟨State.finish_answered hstays, congrArg Security.debug hsec, congrArg Security.debugExpiry hsec,
        congrArg (fun x : Security => x.locket.grant) hsec⟩
    · rw [if_neg (mt hpasses.1 hfail)]
      exact ⟨hended, hmode.trans hdebug⟩

/-! ## The obligation -/

/-- Settles O60: each action on the state that its ready command meets, in the order of the clauses. -/
theorem secureCommandsComplete : Obligations.SecureCommandsComplete := by
  refine ⟨fun s r k hv b hready haction hplace hidle hlc hfuses hread => ?_, fun s r k hv b hready haction hplace hidle hlc hfuses hread => ?_,
    fun s r k hv b hready haction hplace hidle hlc hread => ?_, fun s r k hv b hready haction hplace hidle hlc hfuses hread => ?_,
    fun s r k hv b hready haction hplace hidle hlc hread => ?_, fun s r k hv hready haction hidle hlc hfuses hdebug => ?_,
    fun s r k hv hready haction hidle hlc hdebug => ?_, fun s r k hv b hready haction hplace hidle hlc hblob hclosed hread => ?_,
    fun s r k hv b hready hplace hidle hdebug hlc hfuses hread => ?_⟩
  all_goals obtain rfl := hready.ref
  all_goals refine hready.reaches ?_
  · exact State.lifecycleSet_provision (s := s.meets hv k) hready.1 haction hplace hidle hlc hfuses hread
  · exact State.lifecycleSet_own (s := s.meets hv k) hready.1 haction hplace hidle hlc hfuses hread
  · exact State.lifecycleSet_install (s := s.meets hv k) hready.1 haction hplace hidle hlc hread
  · exact State.lifecycleSet_return (s := s.meets hv k) hready.1 haction hplace hidle hlc hfuses hread
  · exact State.lifecycleSet_retire (s := s.meets hv k) hready.1 haction hplace hidle hlc hread
  · exact State.lifecycleSet_endService (s := s.meets hv k) hready.1 haction hidle hlc hfuses hdebug
  · exact State.lifecycleSet_endOwner (s := s.meets hv k) hready.1 haction hidle hlc hdebug
  · exact State.lifecycleSet_acknowledge (s := s.meets hv k) hready.1 haction hplace hidle hlc hblob hclosed hread
  · exact State.debugToken_opens (s := s.meets hv k) hready.1 hplace hidle hdebug hlc hfuses hread

end Sys2Proof.Machine
end

section
/-! SUPPORT. A field of the state that an operation leaves alone, read off its parts (Laws/Acts*.lean): the part is checked by itself. -/

namespace Sys2Proof.Machine

open Sys2Proof

section

variable {ps : List Part} {s t : State} (h : Acts ps s t)

include h

theorem Acts.spine (hp : Part.spine ∉ ps) : t.spine = s.spine := h.1 .spine hp

theorem Acts.draws (hp : Part.draws ∉ ps) : t.draws = s.draws := h.1 .draws hp

theorem Acts.clock (hp : Part.clock ∉ ps) : t.clock = s.clock := h.1 .clock hp

theorem Acts.power (hp : Part.power ∉ ps) : t.power = s.power := h.1 .power hp

theorem Acts.gov (hp : Part.gov ∉ ps) : t.gov = s.gov := h.1 .gov hp

theorem Acts.mem (hp : Part.mem ∉ ps) : t.mem = s.mem := h.1 .mem hp

theorem Acts.host (hp : Part.host ∉ ps) : t.host = s.host := h.1 .host hp

theorem Acts.units (hp : Part.units ∉ ps) : t.units = s.units := h.1 .units hp

theorem Acts.logbook (hp : Part.logbook ∉ ps) : t.logbook = s.logbook := h.1 .logbook hp

theorem Acts.keepsake (hp : Part.keepsake ∉ ps) : t.keepsake = s.keepsake := h.1 .keepsake hp

theorem Acts.panel (hp : Part.panel ∉ ps) : t.panel = s.panel := h.1 .panel hp

theorem Acts.mgmt (hp : Part.mgmt ∉ ps) : t.mgmt = s.mgmt := h.1 .mgmt hp

theorem Acts.sec (hp : Part.sec ∉ ps) : t.sec = s.sec := h.1 .sec hp

theorem Acts.log (hp : Part.log ∉ ps) : t.log = s.log := h.1 .log hp

theorem Acts.outbox (hp : Part.outbox ∉ ps) : t.outbox = s.outbox := h.1 .outbox hp

theorem Acts.pcie (hp : Part.pcie ∉ ps) : t.pcie = s.pcie := h.1 .pcie hp

theorem Acts.acting (hp : Part.acting ∉ ps) : t.acting = s.acting := h.1 .acting hp

theorem Acts.pending (hp : Part.pending ∉ ps) : t.pending = s.pending := h.1 .pending hp

theorem Acts.regs (hp : Part.regs ∉ ps) : t.regs = s.regs := (h.1 .regs hp).1

theorem Acts.hellos (hp : Part.queues ∉ ps) : t.hellos = s.hellos := (h.1 .queues hp).1

theorem Acts.queues (hp : Part.queues ∉ ps) : t.queues = s.queues := (h.1 .queues hp).2.1

theorem Acts.reports (hp : Part.queues ∉ ps) : t.reports = s.reports := (h.1 .queues hp).2.2

theorem Acts.inflight (hp : Part.cmds ∉ ps) : t.inflight = s.inflight := (h.1 .cmds hp).2

theorem Acts.sets (hp : Part.weights ∉ ps) : t.sets = s.sets := (h.1 .weights hp).1

theorem Acts.adapters (hp : Part.weights ∉ ps) : t.adapters = s.adapters := (h.1 .weights hp).2.1

theorem Acts.repairs (hp : Part.weights ∉ ps) : t.repairs = s.repairs := (h.1 .weights hp).2.2.2

theorem Acts.ports (hp : Part.links ∉ ps) : t.ports = s.ports := (h.1 .links hp).1

theorem Acts.msgNext (hp : Part.links ∉ ps) : t.msgNext = s.msgNext := (h.1 .links hp).2

theorem Acts.serving (hp : Part.serving ∉ ps) : t.serving = s.serving := (h.1 .serving hp).1

theorem Acts.manifest (hp : Part.serving ∉ ps) : t.manifest = s.manifest := (h.1 .serving hp).2.1

theorem Acts.groups (hp : Part.colls ∉ ps) : t.groups = s.groups := (h.1 .colls hp).1

theorem Acts.colls (hp : Part.colls ∉ ps) : t.colls = s.colls := (h.1 .colls hp).2

theorem Acts.trains (hp : Part.trains ∉ ps) : t.trains = s.trains := (h.1 .trains hp).1

theorem Acts.exports (hp : Part.trains ∉ ps) : t.exports = s.exports := (h.1 .trains hp).2

theorem Acts.turns (hp : Part.turns ∉ ps) : t.turns = s.turns := (h.1 .turns hp).1

theorem Acts.scores (hp : Part.turns ∉ ps) : t.scores = s.scores := (h.1 .turns hp).2.1

theorem Acts.occupants (hp : Part.turns ∉ ps) : t.occupants = s.occupants := (h.1 .turns hp).2.2

theorem Acts.chamber (hp : Part.lockage ∉ ps) : t.chamber = s.chamber := (h.1 .lockage hp).1

theorem Acts.commits (hp : Part.lockage ∉ ps) : t.commits = s.commits := (h.1 .lockage hp).2.1

end

end Sys2Proof.Machine
end

section
/-! PROOF. Power states: IDLE and ACTIVE (R544, R545), POWER_STATE (R546) and the gating of compute dies (R547, R548). -/

namespace Sys2Proof.Machine

open Sys2Proof

/-! ## IDLE and ACTIVE -/

/-- The sensor of the power state reports the change; of the power itself only the state is new. -/
@[simp] theorem State.toPower_power (s : State) (p : PowerState) : (s.toPower p).power = { s.power with state := p } :=
  (State.sensorChange_acts (ps := [.mgmt]) .refl (by decide)).1 .power (by decide)

@[simp] theorem State.raise_power (s : State) (a n : Nat) : (s.raise a n).power = s.power :=
  (State.raise_acts (ps := [.regs, .outbox]) .refl (by decide)).1 .power (by decide)

theorem idleToActive_wakes {s : State} (hon : s.operating = true) (hidle : s.power.state = .idle) (hwork : s.ringWork = true) :
    Reaches (execIdleToActive s) fun t => t.power.state = .active ∧ t.power.waking = false ∧ t.power.idleSince = s.now := by
  have hwakes : (s.operating && s.power.state == .idle && (s.power.waking || s.ringWork)) = true := by simp [hon, hidle, hwork]
  refine runs_reaches ?_
  simp only [hwakes, if_true, State.toPower_power, and_self]

theorem State.at_ringWork (s : State) (now : Nat) : (s.at now).ringWork = s.ringWork := by
  simp only [State.at]
  split <;> rfl

theorem idleDelayExpiry_idles {s : State} {now : Nat} (hactive : s.power.state = .active)
    (hdelay : field (s.regNat (blkPower + 0x84)) 15 0 ≠ 0) (hnone : s.ringWork = false)
    (hexp : (s.at now).expired (s.power.idleSince + field (s.regNat (blkPower + 0x84)) 15 0 * 100 * usec) = true) :
    Reaches (execIdleDelayExpiry now s) fun t => t.power.state = .idle := by
  refine runs_reaches_of_eq (ps := [.clock, .power, .mgmt]) (if_pos ?_)
    (State.toPower_acts (State.at_acts .refl (by decide)) (by decide)) (by decide) (by rw [State.toPower_power])
  simp [hactive, hdelay, State.at_ringWork, hnone, hexp]

/-! ## POWER_STATE -/

theorem powerStateEntry_off {s : State} {now d : Nat} (henters : s.power.entering = some (0, d)) (hnone : s.inflight = []) :
    Reaches (execPowerStateEntry now s) fun t => t.power.state = .off ∧ t.power.offCause = .latched ∧ t.queues = [] ∧ t.keepsake = s.keepsake := by
  obtain ⟨hstate, hcause, hqueues, -⟩ := (s.at now).enterOff_loses .latched
  refine runsSpine_reaches ?_
  simp only [State.at_power, henters, State.at_inflight, hnone, List.any_nil, Bool.false_eq_true, if_false, if_true]
  exact ⟨hstate, hcause, hqueues, s.at_keepsake now⟩

theorem powerStateEntry_standby {s : State} {now d : Nat} (henters : s.power.entering = some (1, d)) (hnone : s.inflight = []) :
    Reaches (execPowerStateEntry now s) fun t => t.power.state = .standby ∧ t.queues = [] ∧ t.keepsake = s.keepsake := by
  refine runsSpine_reaches ?_
  simp only [State.at_power, henters, State.at_inflight, hnone, List.any_nil, Bool.false_eq_true, if_false, Nat.one_ne_zero]
  exact ⟨rfl, rfl, s.at_keepsake now⟩

/-! ## Die gating -/

theorem dieGate_gates {s : State} {d : Nat} (hd : d < 4) (hon : s.operating = true) (hset : s.dieGated d = true)
    (hpowered : s.power.gated.testBit d = false) (hleft : s.dieLeft d = true) :
    Reaches (execDieGate d s) fun t => t.power.gated = putBit s.power.gated d true ∧ (t.regNat evReset).testBit 4 = true := by
  obtain ⟨u, hu⟩ : ∃ u, u = ({ s with power := { s.power with gated := putBit s.power.gated d true } } : State) := ⟨_, rfl⟩
  have hgate : Acts [.power] s u := hu ▸ Acts.set_power .refl (by decide)
  have hend : Acts [.draws, .regs, .mem, .cmds, .links, .colls, .turns, .lockage, .mgmt, .outbox] u ((u.failDieColls d).raise evReset 4) :=
    State.raise_acts (State.failDieColls_acts .refl (by decide)) (by decide)
  refine runs_reaches_of_eq (ps := [.draws, .power, .regs, .mem, .cmds, .links, .colls, .turns, .lockage, .mgmt, .outbox])
    ((if_pos (by simp [hd, hon, hset, hpowered, hleft])).trans (by rw [hu]))
    ((hgate.more (by decide)).andThen hend (by decide)) (by decide) ⟨?_, State.raise_flag (by decide) (by decide) _⟩
  rw [hend.1 .power (by decide), hu]

theorem dieUngate_ungates {s : State} {d : Nat} (hd : d < 4) (hset : s.dieGated d = false) (hgated : s.power.gated.testBit d = true) :
    Reaches (execDieUngate d s) fun t => t.power.gated = putBit s.power.gated d false ∧ (t.regNat evReset).testBit 4 = true ∧
      t.mem = s.mem.forget (bankBase + d * 0x80000000) 0x80000000 := by
  have hends : (decide (d < 4) && !s.dieGated d && s.power.gated.testBit d) = true := by simp [hd, hset, hgated]
  refine runs_reaches ?_
  simp only [hends, if_true]
  exact ⟨by rw [State.raise_power], State.raise_flag (by decide) (by decide) _,
    State.raise_mem ..⟩

/-- Settles O53: each row's own lemma, in the order of the clauses. -/
theorem powerStatesAct : Obligations.PowerStatesAct :=
  ⟨fun _ => idleToActive_wakes, fun _ _ => idleDelayExpiry_idles, fun _ _ _ => powerStateEntry_off, fun _ _ _ => powerStateEntry_standby,
   fun _ _ => dieGate_gates, fun _ _ => dieUngate_ungates⟩

end Sys2Proof.Machine
end

section
/-! SUPPORT. What the resets leave: a cold reset that begins (R549, R550), a warm reset (R550, R554), the choice of the boot image (R564 to
R566). -/

namespace Sys2Proof.Machine

open Sys2Proof

/-! ## RESET_CAUSE -/

/-- RESET_CAUSE holds the word that a reset of this kind and trigger, of this function and unit, stores. -/
def State.CauseIs (s : State) (kind trigger fn unit : Nat) : Prop :=
  lookup (blkPower + 0x94) s.regs = some (BitVec.ofNat 32 (kind * 2 ^ 29 + trigger * 2 ^ 16 + fn * 2 ^ 8 + unit))

theorem State.resetCause_causeIs (s : State) (kind trigger fn unit : Nat) : (s.resetCause kind trigger fn unit).CauseIs kind trigger fn unit :=
  lookup_insert

theorem State.CauseIs.regNat {s : State} {kind trigger fn unit : Nat} (h : s.CauseIs kind trigger fn unit) :
    s.regNat (blkPower + 0x94) = (kind * 2 ^ 29 + trigger * 2 ^ 16 + fn * 2 ^ 8 + unit) % 2 ^ 32 := by
  rw [State.regNat, State.reg, h, Option.getD_some, BitVec.toNat_ofNat]

/-- RESET_CAUSE is as a state with the same registers has it. -/
theorem State.CauseIs.of_regs {s t : State} {kind trigger fn unit : Nat} (h : s.CauseIs kind trigger fn unit) (hregs : t.regs = s.regs) :
    t.CauseIs kind trigger fn unit := by
  rw [State.CauseIs, hregs]
  exact h

/-- A row that may change the epoch and the incarnations reaches what its function gives. -/
theorem runsSpine_reaches_of_eq {f : State → State} {s t : State} {P : State → Prop} (hf : f s = t)
    (h : P { t with
      spine := { t.spine with variant := s.spine.variant, serial := s.spine.serial, slotId := s.spine.slotId }, acting := s.acting,
      pending := s.pending }) : Reaches (runsSpine f s) P := by
  subst hf
  exact runsSpine_reaches h

/-! ## A cold reset that begins -/

theorem State.startCold_begins {s : State} (hbegins : s.power.booting ≠ .full ∨ s.clock.fatal = true) (trigger : Nat) :
    (s.startCold trigger).spine.epoch = 1 ∧ (s.startCold trigger).spine.unitInc = [] ∧ (s.startCold trigger).queues = [] ∧
      (s.startCold trigger).inflight = [] ∧ (s.startCold trigger).keepsake = s.keepsake ∧
      (s.startCold trigger).power.perstReleased = s.power.perstReleased ∧ (s.startCold trigger).power.booting = .full ∧
      (s.startCold trigger).CauseIs 0 trigger 0 0 := by
  have hnew : ¬ (s.power.booting == .full && !s.clock.fatal) = true := by
    rcases hbegins with hboot | hfatal
    · simp [hboot]
    · simp [hfatal]
  have hcause : (s.blank.renewNonce.resetCause 0 trigger 0 0).CauseIs 0 trigger 0 0 := State.resetCause_causeIs ..
  rw [State.startCold, if_neg hnew]
  exact ⟨rfl, rfl, rfl, rfl, rfl, rfl, rfl, hcause⟩

/-! ## A warm reset -/

theorem foldl_epoch {α : Type} {f : State → α → State} (hf : ∀ u x, (f u x).spine.epoch = u.spine.epoch) (l : List α) (s : State) :
    (l.foldl f s).spine.epoch = s.spine.epoch :=
  List.foldlRecOn (motive := fun u : State => u.spine.epoch = s.spine.epoch) l f rfl fun u hu x _ => (hf u x).trans hu

/-- The rise of every incarnation leaves the epoch alone. -/
theorem State.raiseAll_epoch (s : State) : s.raiseAll.spine.epoch = s.spine.epoch :=
  (foldl_epoch (f := fun (t : State) f => t.raiseFunc f) (fun _ _ => rfl) _ _).trans
    (foldl_epoch (f := fun (t : State) u => t.raiseUnit u) (fun _ _ => rfl) _ _)

/-- What a warm reset does after the old settings' work is gone: ports, ENLON_INC, the locket, the nonce and the incarnations. -/
theorem State.warm_begins {s : State} (hboot : s.power.booting = .none) (hon : s.power.state = .idle ∨ s.power.state = .active) (trigger : Nat) :
    (s.warm trigger).queues = [] ∧ (s.warm trigger).inflight = [] ∧ (s.warm trigger).serving = [] ∧ (s.warm trigger).hellos = [] ∧
      (s.warm trigger).power.booting = .warm ∧ (s.warm trigger).spine.epoch = s.spine.epoch ∧ (s.warm trigger).sec.resetDue = none ∧
      (s.warm trigger).CauseIs 1 trigger 0 0 := by
  have hruns : ¬ (s.power.booting != .none || !(s.power.state == .idle || s.power.state == .active)) = true := by
    rcases hon with hidle | hactive
    · simp [hboot, hidle]
    · simp [hboot, hactive]
  rw [State.warm, if_neg hruns]
  extract_lets t0 t u c1 c2 c3 c4 v w x c5
  have ht : Acts [.draws, .regs, .keepsake, .mem, .weights, .mgmt, .sec, .log, .outbox, .pcie] s t :=
    State.writeBackAll_acts (Acts.ite (State.endDebug_acts .refl (by decide)) .refl) (by decide)
  clear_value t
  have hu : Acts [.regs, .lockage] t.dropServices.dropQueues u :=
    State.forgetCounters_acts (State.dropKeeperRegs_acts (State.dropChamber_acts .refl (by decide)) (by decide)) (by decide)
  have uqueues : u.queues = [] := (hu.queues (by decide))
  have uinflight : u.inflight = [] := (hu.inflight (by decide))
  have userving : u.serving = [] := (hu.serving (by decide))
  have uhellos : u.hellos = [] := (hu.hellos (by decide))
  have uspine : u.spine = t.spine := (hu.spine (by decide))
  clear_value u
  have hw : Acts [.draws, .regs, .links, .keepsake, .mgmt, .log, .outbox] v w :=
    State.raiseEnlon_acts (Acts.foldl .refl fun _ _ h => State.warmPort_acts h (by decide)) (by decide)
  have hx : Acts [.spine, .draws, .regs, .keepsake, .mgmt, .sec, .log, .outbox, .pcie] w x :=
    State.resetCause_acts (State.raiseAll_acts (State.renewNonce_acts (State.clearLocket_acts .refl (by decide)) (by decide)) (by decide))
      (by decide)
  have hwiped : Acts [.draws, .keepsake, .mgmt, .sec, .log, .outbox, .pcie] w (w.clearLocket 1).renewNonce :=
    State.renewNonce_acts (State.clearLocket_acts .refl (by decide)) (by decide)
  have hkept : Acts [.spine, .regs] (w.clearLocket 1).renewNonce x :=
    State.resetCause_acts (State.raiseAll_acts .refl (by decide)) (by decide)
  obtain ⟨n, hlocket⟩ := w.clearLocket_sec 1
  have xqueues : x.queues = [] := ((hx.queues (by decide)).trans (hw.queues (by decide))).trans uqueues
  have xinflight : x.inflight = [] := ((hx.inflight (by decide)).trans (hw.inflight (by decide))).trans uinflight
  have xserving : x.serving = [] := ((hx.serving (by decide)).trans (hw.serving (by decide))).trans userving
  have xhellos : x.hellos = [] := ((hx.hellos (by decide)).trans (hw.hellos (by decide))).trans uhellos
  have xepoch : x.spine.epoch = s.spine.epoch :=
    calc x.spine.epoch
      _ = (w.clearLocket 1).renewNonce.spine.epoch := State.raiseAll_epoch (w.clearLocket 1).renewNonce
      _ = w.spine.epoch := congrArg Spine.epoch (hwiped.spine (by decide))
      _ = u.spine.epoch := congrArg Spine.epoch (hw.spine (by decide))
      _ = s.spine.epoch := congrArg Spine.epoch (uspine.trans (ht.spine (by decide)))
  have xdue : x.sec.resetDue = none :=
    calc x.sec.resetDue
      _ = (w.clearLocket 1).renewNonce.sec.resetDue := congrArg Security.resetDue (hkept.sec (by decide))
      _ = (w.clearLocket 1).sec.resetDue := rfl
      _ = w.sec.resetDue := by rw [hlocket]
      _ = none := congrArg Security.resetDue (hw.sec (by decide))
  have xcause : x.CauseIs 1 trigger 0 0 := State.resetCause_causeIs ..
  clear_value x
  exact ⟨xqueues, xinflight, xserving, xhellos, rfl, xepoch, xdue, xcause⟩

/-! ## The free TRIGGER of a reset that no rule names (R551) -/

theorem State.freeTrigger_lt (s : State) : s.freeTrigger.1 < 256 := Nat.mod_lt _ (by decide)

theorem State.freeTrigger_acts_draws (s : State) : Acts [.draws] s s.freeTrigger.2 := State.freeTrigger_acts .refl (by decide)

/-! ## The boot image -/

/-- A hub that passes boots, and boots hub 0 where both pass; nothing else of the security core but the image, its SVN and the flags of
recovery is new. -/
theorem State.chooseImage_hub {s : State} {b : BootInputs} (hhub : b.hub0Passes = true ∨ b.hub1Passes = true) :
    ∃ t passes, s.chooseImage b = some (t, passes) ∧ t.sec.bootHub = (if b.hub0Passes then 0 else 1) ∧ Acts [.regs, .sec, .outbox] s t := by
  have hsome : ¬ (!b.hub0Passes && !b.hub1Passes) = true := by
    rcases hhub with h | h
    · simp [h]
    · simp [h]
  have hacts (r : State × Bool) (h : s.chooseImage b = some r) : Acts [.regs, .sec, .outbox] s r.1 :=
    State.chooseImage_acts .refl (by decide) h
  suffices h : ∃ t passes, s.chooseImage b = some (t, passes) ∧ t.sec.bootHub = (if b.hub0Passes then 0 else 1) by
    obtain ⟨t, passes, ht, hboot⟩ := h
    exact ⟨t, passes, ht, hboot, hacts _ ht⟩
  rw [State.chooseImage, if_neg hsome]
  dsimp only
  split
  · exact ⟨_, _, rfl, rfl⟩
  · refine ⟨_, _, rfl, ?_⟩
    simp only [apply_ite State.sec, State.raise_sec, apply_ite Security.bootHub, ite_self]

theorem State.advanceSvn_bootHub (s : State) : s.advanceSvn.sec.bootHub = s.sec.bootHub := by
  unfold State.advanceSvn
  dsimp only
  split
  · rfl
  · rw [State.raise_sec]

theorem State.clearLocket_bootHub (s : State) (cause : Nat) : (s.clearLocket cause).sec.bootHub = s.sec.bootHub := by
  obtain ⟨n, hlocket⟩ := s.clearLocket_sec cause
  rw [hlocket]

theorem State.leaveService_bootHub (s : State) : s.leaveService.sec.bootHub = s.sec.bootHub := by
  unfold State.leaveService
  split
  · rw [State.clearLocket_bootHub, State.burnFuse_sec]
  · rfl

theorem State.enterRecovery_rests (s : State) : s.enterRecovery.power.booting = .none ∧ s.enterRecovery.power.state = .idle ∧
    s.enterRecovery.sec = s.sec := by
  refine ⟨?_, ?_, ((State.enterRecovery_acts (ps := [.power, .mgmt]) .refl (by decide)).sec (by decide))⟩
  · rw [State.enterRecovery, State.toPower_power]
  · rw [State.enterRecovery, State.toPower_power]

/-- The boot of a cold reset ends in IDLE, in recovery or not, on the hub that was chosen. -/
theorem State.powerUp_boots {s : State} {b : BootInputs} (hboot : s.power.booting = .full) (hgood : s.power.pwrgd = true)
    (hfatal : s.clock.fatal = false) (hperst : s.power.state = .standby → s.power.perstReleased = true)
    (hhub : b.hub0Passes = true ∨ b.hub1Passes = true) :
    (s.powerUp b).power.booting = .none ∧ (s.powerUp b).power.state = .idle ∧
      (s.powerUp b).sec.bootHub = (if b.hub0Passes then 0 else 1) := by
  have hmay : ¬ (s.power.booting != .full || !s.power.pwrgd || s.clock.fatal || (s.power.state == .standby && !s.power.perstReleased)) = true := by
    by_cases hstandby : s.power.state = .standby
    · simp [hboot, hgood, hfatal, hperst hstandby]
    · simp [hboot, hgood, hfatal, hstandby]
  obtain ⟨t, passes, himage, hchosen, -⟩ := State.chooseImage_hub (s := s) hhub
  rw [State.powerUp, if_neg hmay, himage]
  cases passes with
  | false =>
    obtain ⟨hnone, hidle, hsec⟩ := t.enterRecovery_rests
    exact ⟨hnone, hidle, by rw [← hchosen]; exact congrArg Security.bootHub hsec⟩
  | true =>
    dsimp -zeta only
    extract_lets lost t1 t2 t3
    have h1 : Acts [.draws, .clock, .regs, .mem, .keepsake, .panel, .mgmt, .log, .outbox] (t.clearLocket 1) t1 :=
      State.raiseEnlon_acts (State.copyEvents_acts (State.restore_acts (State.trainStacks_acts (State.checkKeepsake_acts .refl (by decide))
        (by decide)) (by decide)) (by decide)) (by decide)
    have h2 : Acts [.regs] (t1.leaveService.bootUnseal b.blobVerifies).advanceSvn t2 := State.readHallmarks_acts .refl (by decide)
    have h3 : Acts [.gov, .clock, .regs, .keepsake, .panel, .mgmt, .log, .outbox] t2 t3 :=
      State.measureCell_acts (State.applyPlan_acts .refl (by decide)) (by decide)
    have hkept : t3.sec.bootHub = t.sec.bootHub :=
      calc t3.sec.bootHub
        _ = t2.sec.bootHub := congrArg Security.bootHub (h3.sec (by decide))
        _ = (t1.leaveService.bootUnseal b.blobVerifies).advanceSvn.sec.bootHub := congrArg Security.bootHub (h2.sec (by decide))
        _ = (t1.leaveService.bootUnseal b.blobVerifies).sec.bootHub := State.advanceSvn_bootHub _
        _ = t1.leaveService.sec.bootHub := rfl
        _ = t1.sec.bootHub := t1.leaveService_bootHub
        _ = (t.clearLocket 1).sec.bootHub := congrArg Security.bootHub (h1.sec (by decide))
        _ = t.sec.bootHub := t.clearLocket_bootHub 1
    refine ⟨?_, ?_, ?_⟩
    · rw [State.toPower_power]
    · rw [State.toPower_power]
    · rw [← hchosen, ← hkept]
      exact congrArg Security.bootHub ((State.toPower_acts (ps := [.power, .mgmt]) .refl (by decide)).sec (by decide))

/-- The boot of a warm reset ends, in recovery or not, on the hub that was chosen. -/
theorem State.bootWarm_boots {s : State} {b : BootInputs} (hboot : s.power.booting = .warm) (hhub : b.hub0Passes = true ∨ b.hub1Passes = true) :
    (s.bootWarm b).power.booting = .none ∧ (s.bootWarm b).sec.bootHub = (if b.hub0Passes then 0 else 1) := by
  have hmay : ¬ (s.power.booting != .warm) = true := by simp [hboot]
  obtain ⟨t, passes, himage, hchosen, -⟩ := State.chooseImage_hub (s := s) hhub
  rw [State.bootWarm, if_neg hmay, himage]
  cases passes with
  | false =>
    obtain ⟨hnone, -, hsec⟩ := t.enterRecovery_rests
    exact ⟨hnone, by rw [← hchosen]; exact congrArg Security.bootHub hsec⟩
  | true =>
    dsimp only
    refine ⟨rfl, ?_⟩
    have hsvn : ((t.bootUnseal b.blobVerifies).advanceSvn).sec.bootHub = t.sec.bootHub := State.advanceSvn_bootHub _
    split
    · rw [State.placeGrant_sec, ← hchosen]
      exact hsvn
    · split
      · exact hsvn.trans hchosen
      · exact hsvn.trans hchosen

/-! ## The reset of the keeper complex (Table 20-4) -/

/-- A raised incarnation is the next one. -/
theorem incOf_raiseInc (l : List (Nat × BitVec 16)) (k : Nat) : incOf (raiseInc l k) k = nextInc (incOf l k) := by
  rw [raiseInc, incOf, lookup_insert, Option.getD_some]

/-- Raising functions leaves every incarnation of a unit. -/
theorem foldl_raiseFunc_unitInc (l : List Nat) (s : State) :
    (l.foldl (fun (t : State) f => t.raiseFunc f) s).spine.unitInc = s.spine.unitInc :=
  List.foldlRecOn (motive := fun t : State => t.spine.unitInc = s.spine.unitInc) l _ rfl fun _ ht _ _ => ht

/-- Every service, turn and collective is gone, the chamber is empty, recording has stopped, and the complex has its next incarnation. -/
theorem State.keeperComplex_resets (s : State) (trigger : Nat) :
    (s.keeperComplex trigger none).unitInc 0x71 = (nextInc (incOf s.spine.unitInc 0x71)).toNat ∧ (s.keeperComplex trigger none).serving = [] ∧
      (s.keeperComplex trigger none).trains = [] ∧ (s.keeperComplex trigger none).turns = [] ∧ (s.keeperComplex trigger none).colls = [] ∧
      (s.keeperComplex trigger none).chamber.state = ChamberState.empty ∧ (s.keeperComplex trigger none).logbook.state = .stopped ∧
      (s.keeperComplex trigger none).CauseIs 3 trigger 0 0x71 := by
  obtain ⟨u, hu⟩ : ∃ u, u = s.keeperComplex trigger none := ⟨_, rfl⟩
  rw [← hu]
  dsimp -zeta only [State.keeperComplex] at hu
  extract_lets t1 t2 pw t3 t4 t5 t6 t7 t8 at hu
  have h1 : Acts [.draws, .regs, .mem, .host, .cmds, .outbox, .acting] s t1 := Acts.foldl .refl fun _ _ h => State.restartCmd_acts h (by decide)
  clear_value t1
  have h3 : Acts [.power] t1 t3 := Acts.set_power (Acts.foldl .refl fun _ _ h => State.unquiesce_acts h (by decide)) (by decide)
  clear_value t3
  have h5 : Acts [.draws, .regs, .mem, .host, .queues, .cmds, .weights, .serving, .turns, .logbook, .log, .outbox] t3 t5 :=
    Acts.foldl (Acts.foldl .refl fun _ _ h => State.endEntry_acts h (by decide)) fun _ _ h => State.dropBacklog_acts h (by decide)
  clear_value t5
  have h6 : Acts [.regs] t5.dropServices.dropChamber t6 :=
    State.forgetCounters_acts (State.dropKeeperRegs_acts .refl (by decide)) (by decide)
  have hspine : t6.spine = s.spine := ((h6.spine (by decide)).trans (h5.spine (by decide))).trans ((h3.spine (by decide)).trans (h1.spine (by decide)))
  have hchamber : t6.chamber.state = ChamberState.empty := congrArg Chamber.state (h6.chamber (by decide))
  have hbook : t6.logbook.state = .stopped := congrArg Logbook.state (h6.logbook (by decide))
  have hserving : t6.serving = [] := (h6.serving (by decide))
  have htrains : t6.trains = [] := (h6.trains (by decide))
  have hturns : t6.turns = [] := (h6.turns (by decide))
  have hcolls : t6.colls = [] := (h6.colls (by decide))
  clear_value t6
  have h7 : Acts [.draws, .regs, .links, .keepsake, .mgmt, .outbox] t6 t7 :=
    State.raiseEnlon_acts (Acts.foldl .refl fun _ _ h => State.dropInbox_acts h (by decide)) (by decide)
  have h7spine : t7.spine = s.spine := (h7.spine (by decide)).trans hspine
  have h8 : Acts [.spine] t7 t8 := Acts.foldl (State.raiseUnit_acts .refl (by decide)) fun _ _ h => State.raiseFunc_acts h (by decide)
  have h8units : t8.spine.unitInc = (t7.raiseUnit 0x71).spine.unitInc := foldl_raiseFunc_unitInc (List.range 32) (t7.raiseUnit 0x71)
  clear_value t8
  have hlast : Acts [.regs, .outbox] t8 u := hu ▸ State.resetCause_acts (State.raise_acts .refl (by decide)) (by decide)
  have hcause : u.CauseIs 3 trigger 0 0x71 := hu ▸ State.resetCause_causeIs ..
  clear_value t7
  have hunits : u.spine.unitInc = raiseInc s.spine.unitInc 0x71 := by rw [hlast.spine (by decide), h8units, ← h7spine]; rfl
  have hall : Acts [.spine, .draws, .regs, .links, .keepsake, .mgmt, .outbox] t6 u :=
    (h7.more (by decide)).trans ((h8.more (by decide)).trans (hlast.more (by decide)))
  refine ⟨?_, (hall.serving (by decide)).trans hserving, (hall.trains (by decide)).trans htrains, (hall.turns (by decide)).trans hturns, (hall.colls (by decide)).trans hcolls,
    (congrArg Chamber.state (hall.chamber (by decide))).trans hchamber, (congrArg Logbook.state (hall.logbook (by decide))).trans hbook, hcause⟩
  rw [State.unitInc, hunits, incOf_raiseInc]

end Sys2Proof.Machine
end

section
/-! PROOF. Device-wide resets: the arms of DeviceResetsComplete (R544, R549, R550, R551, R559, R262). -/

namespace Sys2Proof.Machine

open Sys2Proof

/-! ## Boots -/

theorem coldReset_boots {s : State} {b : BootInputs} (hboot : s.power.booting = .full) (hgood : s.power.pwrgd = true)
    (hfatal : s.clock.fatal = false) (hperst : s.power.state = .standby → s.power.perstReleased = true)
    (hhub : b.hub0Passes = true ∨ b.hub1Passes = true) :
    Reaches (execColdReset b s) fun t => t.power.booting = .none ∧ t.power.state = .idle ∧ t.sec.bootHub = if b.hub0Passes then 0 else 1 := by
  have hunderway : (s.power.booting == .full) = true := by simp [hboot]
  obtain ⟨hnone, hidle, hbooted⟩ := State.powerUp_boots hboot hgood hfatal hperst hhub
  exact runsSpine_reaches_of_eq (if_pos hunderway) ⟨hnone, hidle, hbooted⟩

theorem powerUpToIdle_boots {s : State} {b : BootInputs} (hboot : s.power.booting = .full) (hgood : s.power.pwrgd = true)
    (hfatal : s.clock.fatal = false) (hperst : s.power.state = .standby → s.power.perstReleased = true)
    (hhub : b.hub0Passes = true ∨ b.hub1Passes = true) :
    Reaches (execPowerUpToIdle b s) fun t => t.power.booting = .none ∧ t.power.state = .idle ∧ t.sec.bootHub = if b.hub0Passes then 0 else 1 := by
  obtain ⟨hnone, hidle, hbooted⟩ := State.powerUp_boots hboot hgood hfatal hperst hhub
  exact runsSpine_reaches_of_eq rfl ⟨hnone, hidle, hbooted⟩

theorem warmReset_boots {s : State} {b : BootInputs} (hboot : s.power.booting = .warm) (hhub : b.hub0Passes = true ∨ b.hub1Passes = true) :
    Reaches (execWarmReset b s) fun t => t.power.booting = .none ∧ t.sec.bootHub = if b.hub0Passes then 0 else 1 := by
  have hunderway : (s.power.booting == .warm) = true := by simp [hboot]
  obtain ⟨hnone, hbooted⟩ := State.bootWarm_boots hboot hhub
  exact runsSpine_reaches_of_eq (if_pos hunderway) ⟨hnone, hbooted⟩

/-! ## Cold and warm resets that begin -/

/-- A row whose function begins a warm reset reaches its state. -/
theorem runsSpine_warm {f : State → State} {s z : State} {trigger : Nat} (hf : f s = z.warm trigger) (hboot : z.power.booting = .none)
    (hon : z.power.state = .idle ∨ z.power.state = .active) :
    Reaches (runsSpine f s) fun t => t.queues = [] ∧ t.inflight = [] ∧ t.serving = [] ∧ t.hellos = [] ∧ t.power.booting = .warm ∧
      t.spine.epoch = z.spine.epoch ∧ t.sec.resetDue = none ∧ t.CauseIs 1 trigger 0 0 := by
  obtain ⟨hqueues, hinflight, hserving, hhellos, hwarm, hepoch, hdue, hcause⟩ := z.warm_begins hboot hon trigger
  exact runsSpine_reaches_of_eq hf ⟨hqueues, hinflight, hserving, hhellos, hwarm, hepoch, hdue, hcause⟩

/-- A row whose function begins a cold reset reaches its state. -/
theorem runsSpine_startCold {f : State → State} {s z : State} {trigger : Nat} (hf : f s = z.startCold trigger)
    (hbegins : z.power.booting ≠ .full ∨ z.clock.fatal = true) :
    Reaches (runsSpine f s) fun t => t.spine.epoch = 1 ∧ t.spine.unitInc = [] ∧ t.queues = [] ∧ t.inflight = [] ∧ t.keepsake = z.keepsake ∧
      t.power.perstReleased = z.power.perstReleased ∧ t.power.booting = .full ∧ t.CauseIs 0 trigger 0 0 := by
  obtain ⟨hepoch, hunits, hqueues, hinflight, hkept, hperst, hfull, hcause⟩ := State.startCold_begins hbegins trigger
  exact runsSpine_reaches_of_eq hf ⟨hepoch, hunits, hqueues, hinflight, hkept, hperst, hfull, hcause⟩

/-- An operating device is on. -/
theorem State.on_of_operating {s : State} (hop : s.operating = true) : s.power.state = .idle ∨ s.power.state = .active := by
  simp only [State.operating, Bool.and_eq_true, Bool.or_eq_true, beq_iff_eq] at hop
  exact hop.1.1

theorem State.on_of_pcieUp {s : State} (hup : s.pcieUp = true) : s.power.state = .idle ∨ s.power.state = .active := by
  simp only [State.pcieUp, State.pcieLink, Bool.and_eq_true] at hup
  exact State.on_of_operating hup.1.1

theorem resetCtrlCold_resets {s : State} (hup : s.pcieUp = true) (hboot : s.power.booting ≠ .full) :
    Reaches (execResetCtrlCold 0xC0DE0001 s) fun t => t.spine.epoch = 1 ∧ t.spine.unitInc = [] ∧ t.queues = [] ∧ t.inflight = [] ∧
      t.keepsake = s.keepsake ∧ t.power.booting = .full ∧ t.regNat (blkPower + 0x94) = 0x00020000 := by
  refine (runsSpine_startCold (z := s) (trigger := 2) ?_ (.inl hboot)).mono ?_
  · simp [hup, State.resetCtrl]
  · rintro t ⟨hepoch, hunits, hqueues, hinflight, hkept, -, hfull, hcause⟩
    exact ⟨hepoch, hunits, hqueues, hinflight, hkept, hfull, hcause.regNat⟩

theorem resetCtrlWarm_resets {s : State} (hup : s.pcieUp = true) (hboot : s.power.booting = .none) :
    Reaches (execResetCtrlWarm 0xC0DE0002 s) fun t => t.queues = [] ∧ t.inflight = [] ∧ t.serving = [] ∧ t.hellos = [] ∧
      t.power.booting = .warm ∧ t.spine.epoch = s.spine.epoch ∧ t.regNat (blkPower + 0x94) = 0x20020000 := by
  refine (runsSpine_warm (z := s) (trigger := 2) ?_ hboot (State.on_of_pcieUp hup)).mono ?_
  · simp [hup, State.resetCtrl]
  · rintro t ⟨hqueues, hinflight, hserving, hhellos, hwarm, hepoch, -, hcause⟩
    exact ⟨hqueues, hinflight, hserving, hhellos, hwarm, hepoch, hcause.regNat⟩

/-- A write of RESET_CTRL that is neither reset's key is dropped and recorded. -/
theorem State.resetCtrl_discards {v : Word} (hcold : v ≠ 0xC0DE0001) (hwarm : v ≠ 0xC0DE0002) (s : State) (cold : Bool) :
    s.resetCtrl v cold = s.logDiscard 0 (blkPower + 0x90) := by
  have h1 : ¬ v.toNat = 0xC0DE0001 := fun h => hcold (BitVec.eq_of_toNat_eq h)
  have h2 : ¬ v.toNat = 0xC0DE0002 := fun h => hwarm (BitVec.eq_of_toNat_eq h)
  rw [State.resetCtrl, if_neg h1, if_neg h2]

/-- A row whose function drops a write of RESET_CTRL reaches the record. -/
theorem runsSpine_discards {f : State → State} {s : State} (hf : f s = s.logDiscard 0 (blkPower + 0x90)) :
    Reaches (runsSpine f s) fun t => t.log.next = s.log.next + 1 ∧ t.power = s.power ∧ t.queues = s.queues :=
  runsSpine_reaches_of_eq hf ⟨State.logEvent_log_next .., State.logEvent_power .., State.logEvent_queues ..⟩

theorem lifecycleResetDelay_resets {s : State} {now d : Nat} (hdue : s.sec.resetDue = some d) (hlate : (s.at now).expired d = true)
    (hboot : s.power.booting = .none) (hop : s.operating = true) :
    Reaches (execLifecycleResetDelay now s) fun t => t.queues = [] ∧ t.inflight = [] ∧ t.serving = [] ∧ t.hellos = [] ∧
      t.power.booting = .warm ∧ t.sec.resetDue = none := by
  have hpower : (s.at now).freeTrigger.2.power = s.power :=
    ((State.freeTrigger_acts_draws (s.at now)).power (by decide)).trans (State.at_power ..)
  refine (runsSpine_warm (z := (s.at now).freeTrigger.2) (trigger := (s.at now).freeTrigger.1) ?_ (by rw [hpower, hboot])
    (by rw [hpower]; exact State.on_of_operating hop)).mono ?_
  · simp only [State.at_sec, hdue, hlate, if_true]
  · rintro t ⟨hqueues, hinflight, hserving, hhellos, hwarm, -, hnone, -⟩
    exact ⟨hqueues, hinflight, hserving, hhellos, hwarm, hnone⟩

/-! ## The keeper complex -/

theorem keeperComplexReset_resets {s : State} (hop : s.operating = true) :
    Reaches (execKeeperComplexReset s) fun t => t.unitInc 0x71 = (nextInc (incOf s.spine.unitInc 0x71)).toNat ∧ t.serving = [] ∧
      t.trains = [] ∧ t.turns = [] ∧ t.colls = [] ∧ t.chamber.state = ChamberState.empty ∧ t.logbook.state = .stopped ∧
      ∃ n, n < 256 ∧ t.regNat (blkPower + 0x94) = 0x60000071 + n * 0x10000 := by
  obtain ⟨hunits, hserving, htrains, hturns, hcolls, hchamber, hbook, hcause⟩ := s.freeTrigger.2.keeperComplex_resets s.freeTrigger.1
  have hspine : s.freeTrigger.2.spine = s.spine := s.freeTrigger_acts_draws.spine (by decide)
  have hn := s.freeTrigger_lt
  rw [hspine] at hunits
  refine runsSpine_reaches_of_eq (if_pos hop) ⟨hunits, hserving, htrains, hturns, hcolls, hchamber, hbook, s.freeTrigger.1, hn,
    (State.CauseIs.regNat (hcause.of_regs rfl)).trans (by omega)⟩

theorem keeperFirmwareFault_resets {s : State} (hop : s.operating = true) :
    Reaches (execKeeperFirmwareFault s) fun t => t.unitInc 0x71 = (nextInc (incOf s.spine.unitInc 0x71)).toNat ∧ t.serving = [] ∧
      t.trains = [] ∧ t.turns = [] ∧ t.colls = [] ∧ t.chamber.state = ChamberState.empty ∧ t.logbook.state = .stopped ∧
      t.regNat (blkPower + 0x94) = 0x60070071 := by
  obtain ⟨hunits, hserving, htrains, hturns, hcolls, hchamber, hbook, hcause⟩ := s.keeperComplex_resets 7
  exact runsSpine_reaches_of_eq (if_pos hop)
    ⟨hunits, hserving, htrains, hturns, hcolls, hchamber, hbook, State.CauseIs.regNat (hcause.of_regs rfl)⟩

/-! ## One keeper -/

/-- A keeper of which no command is in flight ends none by its reset. -/
theorem State.oneKeeper_of_none {s : State} {k : Nat} (hnone : ∀ c ∈ s.inflight, keeperOf c.queue ≠ k) :
    s.oneKeeper k = ((s.raiseUnit (keeperInc k)).raise evReset 1).stopBook.resetCause 4 6 0 0x71 := by
  have hmine : s.inflight.filter (fun c => keeperOf c.queue == k) = [] :=
    List.filter_eq_nil_iff.2 fun c hc => by simpa using hnone c hc
  rw [State.oneKeeper]
  simp only [hmine, List.foldl_nil]

/-- A register reads the same in two states of one variant with the same registers. -/
theorem State.regNat_congr {s t : State} (hregs : t.regs = s.regs) (hvariant : t.spine.variant = s.spine.variant) (a : Nat) :
    t.regNat a = s.regNat a := by
  rw [State.regNat, State.reg, hregs, hvariant, ← State.reg, ← State.regNat]

/-- The word that KEEPER_BANK_PARITY leaves in its register has the keeper's bit. -/
theorem parityWord_testBit {k : Nat} (hk : k < 16) (n w : Nat) : ((n * 2 ^ 16 + putBit w k true) % 2 ^ 32).testBit k = true := by
  have hlow : (n * 2 ^ 16 + putBit w k true) % 2 ^ (k + 1) = putBit w k true % 2 ^ (k + 1) := by
    rw [show n * 2 ^ 16 = 2 ^ (k + 1) * (2 ^ (15 - k) * n) by rw [← Nat.mul_assoc, ← Nat.pow_add, Nat.mul_comm]; congr 2; omega,
      Nat.mul_add_mod]
  have hbit (x : Nat) : x.testBit k = (x % 2 ^ (k + 1)).testBit k := by
    rw [Nat.testBit_mod_two_pow, decide_eq_true (Nat.lt_succ_self k), Bool.true_and]
  rw [Nat.testBit_mod_two_pow, decide_eq_true (show k < 32 by omega), Bool.true_and, hbit, hlow, ← hbit, testBit_putBit_same]

theorem keeperBankParity_resets {s : State} {k : Nat} (hop : s.operating = true) (hk : k < 16) (hnone : s.hostsService k = false)
    (hfree : ∀ c ∈ s.inflight, keeperOf c.queue ≠ k) :
    Reaches (execKeeperBankParity k s) fun t => (t.regNat (blkKeeper + 0x100)).testBit k = true ∧ t.logbook.state = .stopped ∧
      t.inflight = s.inflight ∧ t.regNat (blkPower + 0x94) = 0x80060071 := by
  obtain ⟨u, hu⟩ : ∃ u, u = (s.setNat (blkKeeper + 0x100) (min (s.regNat (blkKeeper + 0x100) / 2 ^ 16 + 1) 0xFFFF * 2 ^ 16 +
    putBit (s.regNat (blkKeeper + 0x100) % 2 ^ 16) k true)).logEvent { cause := 0x0202, cls := 2, unit := 0x71, detail := k } := ⟨_, rfl⟩
  have hbit : (u.regNat (blkKeeper + 0x100)).testBit k = true := by
    rw [hu, State.regNat_logEvent, State.regNat_setNat_same]
    exact parityWord_testBit hk ..
  have hacts : Acts [.regs, .log, .outbox] s u := hu ▸ State.logEvent_acts (State.setNat_acts .refl (by decide)) (by decide)
  have hinflight : u.inflight = s.inflight := (hacts.inflight (by decide))
  have hservices : u.hostsService k = false := by
    rw [← hnone, State.hostsService, State.hostsService, hacts.serving (by decide), hacts.trains (by decide), hacts.scores (by decide)]
  have hparity : (if s.operating && k < 16 then s.keeperParity k else s) =
      ((u.raiseUnit (keeperInc k)).raise evReset 1).stopBook.resetCause 4 6 0 0x71 := by
    rw [if_pos (by simp [hop, hk]), State.keeperParity, ← hu, hservices, if_neg Bool.false_ne_true, State.oneKeeper_of_none (fun c hc => hfree c (hinflight ▸ hc))]
  have hcause : (((u.raiseUnit (keeperInc k)).raise evReset 1).stopBook.resetCause 4 6 0 0x71).CauseIs 4 6 0 0x71 :=
    State.resetCause_causeIs ..
  have hend : Acts [.spine, .regs, .logbook, .outbox] u (((u.raiseUnit (keeperInc k)).raise evReset 1).stopBook.resetCause 4 6 0 0x71) :=
    State.resetCause_acts (State.stopBook_acts (State.raise_acts (State.raiseUnit_acts .refl (by decide)) (by decide)) (by decide)) (by decide)
  refine runsSpine_reaches_of_eq hparity ⟨?_, rfl, (hend.inflight (by decide)).trans hinflight, State.CauseIs.regNat (hcause.of_regs rfl)⟩
  have hvariant : (((u.raiseUnit (keeperInc k)).raise evReset 1).stopBook.resetCause 4 6 0 0x71).spine.variant = s.spine.variant :=
    calc (((u.raiseUnit (keeperInc k)).raise evReset 1).stopBook.resetCause 4 6 0 0x71).spine.variant
      _ = ((u.raiseUnit (keeperInc k)).raise evReset 1).spine.variant := rfl
      _ = (u.raiseUnit (keeperInc k)).spine.variant := congrArg Spine.variant ((State.raise_acts (ps := [.regs, .outbox]) .refl (by decide)).spine (by decide))
      _ = u.spine.variant := rfl
      _ = s.spine.variant := by rw [hacts.spine (by decide)]
  have hkept : (((u.raiseUnit (keeperInc k)).raise evReset 1).stopBook.resetCause 4 6 0 0x71).regNat (blkKeeper + 0x100) =
      u.regNat (blkKeeper + 0x100) :=
    calc (((u.raiseUnit (keeperInc k)).raise evReset 1).stopBook.resetCause 4 6 0 0x71).regNat (blkKeeper + 0x100)
      _ = ((u.raiseUnit (keeperInc k)).raise evReset 1).stopBook.regNat (blkKeeper + 0x100) := State.regNat_setNat_ne (by decide) ..
      _ = ((u.raiseUnit (keeperInc k)).raise evReset 1).regNat (blkKeeper + 0x100) := rfl
      _ = (u.raiseUnit (keeperInc k)).regNat (blkKeeper + 0x100) := congrArg BitVec.toNat (State.raise_reg_ne (by decide) (by decide) _)
      _ = u.regNat (blkKeeper + 0x100) := rfl
  have hread (x : State) (hregs : x.regs = (((u.raiseUnit (keeperInc k)).raise evReset 1).stopBook.resetCause 4 6 0 0x71).regs)
      (hx : x.spine.variant = s.spine.variant) : (x.regNat (blkKeeper + 0x100)).testBit k = true := by
    rw [State.regNat_congr hregs (hx.trans hvariant.symm), hkept, hbit]
  exact hread _ rfl rfl

/-- Settles O51: each row's own lemma, in the order of the clauses. -/
theorem deviceResetsComplete : Obligations.DeviceResetsComplete :=
  ⟨fun _ _ => coldReset_boots, fun _ _ => powerUpToIdle_boots, fun _ _ => warmReset_boots, fun _ => keeperComplexReset_resets,
   fun _ => keeperFirmwareFault_resets, fun _ _ => keeperBankParity_resets, fun _ => resetCtrlCold_resets,
   fun s _ hup hcold hwarm => runsSpine_discards ((if_pos hup).trans (State.resetCtrl_discards hcold hwarm s true)),
   fun _ => resetCtrlWarm_resets,
   fun s _ hup hcold hwarm => runsSpine_discards ((if_pos hup).trans (State.resetCtrl_discards hcold hwarm s false)),
   fun _ _ _ => lifecycleResetDelay_resets⟩

end Sys2Proof.Machine
end

section
/-! SUPPORT. What a function knows of its peers, its HELLO, outlasts the reports that its services post (chapter 4, R544): the operations that
post reports leave the HELLO of every function. -/

namespace Sys2Proof.Machine

open Sys2Proof

/-! ## HELLO outlasts reports -/

theorem foldl_hellos {α : Type} {f : State → α → State} (hf : ∀ u x, (f u x).hellos = u.hellos) (l : List α) (s : State) :
    (l.foldl f s).hellos = s.hellos :=
  List.foldlRecOn (motive := fun u : State => u.hellos = s.hellos) l f rfl fun u hu x _ => (hf u x).trans hu

theorem ite_hellos {c : Prop} [Decidable c] {s t u : State} (ht : t.hellos = s.hellos) (hu : u.hellos = s.hellos) :
    (if c then t else u).hellos = s.hellos := by
  split
  · exact ht
  · exact hu

theorem State.updQueue_hellos (s : State) (n : Nat) (f : Queue → Queue) : (s.updQueue n f).hellos = s.hellos := by
  unfold State.updQueue
  split <;> rfl

theorem State.fenceQueue_hellos (s : State) (n : Nat) : (s.fenceQueue n).hellos = s.hellos := by
  unfold State.fenceQueue
  split
  · rfl
  · split
    · rfl
    · exact ((State.logEvent_acts (ps := [.regs, .log, .outbox]) (State.raise_acts .refl (by decide)) (by decide)).hellos (by decide)).trans
        (State.updQueue_hellos ..)

theorem State.hostFault_hellos (s : State) (n : Nat) : (s.hostFault n).hellos = s.hellos :=
  (State.fenceQueue_hellos ..).trans ((State.raise_acts (ps := [.regs, .outbox]) .refl (by decide)).hellos (by decide))

theorem State.postReply_hellos (s : State) (n : Nat) (q : Queue) (bs : List Byte) (interrupt : Bool) :
    (s.postReply n q bs interrupt).hellos = s.hellos := by
  have hwrite : (s.ringWrite q.cqBase (q.cqNext * 32) bs).1.hellos = s.hellos :=
    ((State.ringWrite_acts (ps := [.draws, .regs, .mem, .host, .weights, .log, .outbox]) .refl (by decide)).hellos (by decide))
  unfold State.postReply
  dsimp only
  split
  · exact (State.hostFault_hellos ..).trans hwrite
  · split
    · exact (State.updQueue_hellos ..).trans hwrite
    · exact (State.updQueue_hellos ..).trans hwrite

theorem State.flushReports_hellos (n : Nat) (s : State) : (State.flushReports n s).hellos = s.hellos := by
  induction n generalizing s with
  | zero => rfl
  | succ n ih =>
    unfold State.flushReports
    split
    · rfl
    · next r hfind =>
      extract_lets t0
      split
      · dsimp only
        have ht (bs : List Byte) : (if s.recording then t0.draw.2.recordAs (queueHub r.queue) 3 r.queue (Config.freeWord t0.draw.1 0) bs
            else t0).hellos = s.hellos :=
          ite_hellos ((State.recordAs_acts (ps := [.draws, .logbook]) (State.draw_acts .refl (by decide)) (by decide)).hellos (by decide)) rfl
        exact (ih _).trans (ite_hellos ((State.postReply_hellos ..).trans (ht _)) (ht _))
      · exact ih _

theorem State.report_hellos (s : State) (r : Report) : (s.report r).hellos = s.hellos := by
  have hflush : (({ s with reports := s.reports ++ [r] } : State).flushReports (s.reports.length + 1)).hellos = s.hellos :=
    State.flushReports_hellos ..
  unfold State.report
  dsimp only
  split
  · exact ((State.raise_acts (ps := [.regs, .outbox]) .refl (by decide)).hellos (by decide)).trans hflush
  · exact hflush

theorem State.runEnded_hellos (s : State) (n run st : Nat) : (s.runEnded n run st).hellos = s.hellos := by
  unfold State.runEnded
  split
  · rfl
  · split
    · rfl
    · dsimp only
      split
      · exact ((State.updServing_acts (ps := [.serving]) .refl (by decide)).hellos (by decide))
      · exact (State.report_hellos ..).trans
          ((State.raise_acts (ps := [.regs, .serving, .outbox]) (State.updServing_acts .refl (by decide)) (by decide)).hellos (by decide))

theorem State.endEntry_hellos (s : State) (i st : Nat) : (s.endEntry i st).hellos = s.hellos := by
  unfold State.endEntry
  split
  · rfl
  · extract_lets t1 t2 t3 t4 t5 t6 t7
    have h1 : Acts [.regs, .serving, .outbox] s t1 :=
      Acts.ite (State.raise_acts .refl (by decide)) (State.freeSpans_acts .refl (by decide))
    have h7 : Acts [.draws, .regs, .mem, .host, .cmds, .weights, .serving, .turns, .log, .outbox] t1 t7 := by
      have h4 : Acts [.draws, .regs, .mem, .host, .cmds, .weights, .serving, .turns, .log, .outbox] t1 t4 :=
        State.noteFaulted_acts (State.raiseOutcome_acts (State.putRecord_acts (State.updServing_acts (Acts.set_manifest .refl (by decide))
          (by decide)) (by decide)) (by decide)) (by decide)
      exact Acts.foldl (State.turnCounts_acts (Acts.ite (State.countCut_acts h4 (by decide)) h4) (by decide))
        fun _ _ h => State.finish_acts h (by decide)
    have h : t7.hellos = s.hellos := (h7.hellos (by decide)).trans (h1.hellos (by decide))
    split
    · exact (State.runEnded_hellos ..).trans h
    · exact (State.report_hellos ..).trans h

theorem State.cutEntries_hellos (s : State) (n : Nat) (p : Entry → Bool) : (s.cutEntries n p).hellos = s.hellos := by
  refine foldl_hellos (fun u e => ?_) _ s
  extract_lets t
  have ht : t.hellos = u.hellos := ((Acts.ite (ps := [.logbook]) (State.recordDecision_acts .refl (by decide)) .refl).hellos (by decide))
  split
  · exact ht
  · split
    · exact (State.endEntry_hellos ..).trans ht
    · exact ((State.updEntry_acts (ps := [.serving]) .refl (by decide)).hellos (by decide)).trans ht

theorem State.dropBacklog_hellos (s : State) (n st : Nat) : (s.dropBacklog n st).hellos = s.hellos := by
  unfold State.dropBacklog
  split
  · rfl
  · refine foldl_hellos (fun u r => ?_) _ s
    exact (foldl_hellos (fun _ _ => State.runEnded_hellos ..) _ _).trans ((State.updServing_acts (ps := [.serving]) .refl (by decide)).hellos (by decide))

theorem State.boundary_hellos (s : State) (n : Nat) : (s.boundary n).hellos = s.hellos := by
  unfold State.boundary
  split
  · rfl
  · extract_lets damagedSet damagedAdapter t
    have ht : t.hellos = s.hellos := by
      refine foldl_hellos (fun u e => ite_hellos (State.endEntry_hellos ..) ?_) _ s
      split
      · exact State.endEntry_hellos ..
      · rfl
    exact ite_hellos
      ((foldl_hellos (fun _ _ => ((State.updEntry_acts (ps := [.serving]) .refl (by decide)).hellos (by decide))) _ _).trans ht) ht

theorem State.stepReport_hellos (s : State) (n st : Nat) : (s.stepReport n st).hellos = s.hellos := by
  unfold State.stepReport
  split
  · rfl
  · extract_lets t1 t2
    have h1 : t1.hellos = s.hellos := State.report_hellos ..
    have h2 : t2.hellos = s.hellos := ((State.updTrain_acts (ps := [.trains]) .refl (by decide)).hellos (by decide)).trans h1
    split
    · exact h2
    · exact ((State.trainTurnFails_acts (ps := [.turns, .lockage]) .refl (by decide)).hellos (by decide)).trans h2

/-- Closing a function's services, whose reports go nowhere, leaves HELLO. -/
theorem State.closeServices_hellos (s : State) (qs : List Nat) : (s.closeServices qs).hellos = s.hellos := by
  unfold State.closeServices
  extract_lets ours gone servings trains scores unname t1 was t2 t3
  have h2 : t2.hellos = s.hellos := by
    refine foldl_hellos (fun u n => ?_) _ t1
    extract_lets v idle
    have hv : v.hellos = u.hellos :=
      (State.cutEntries_hellos ..).trans ((State.dropBacklog_hellos ..).trans ((State.updServing_acts (ps := [.serving]) .refl (by decide)).hellos (by decide)))
    exact ((State.closeIfDone_acts (ps := [.lockage]) .refl (by decide)).hellos (by decide)).trans
      (ite_hellos ((State.boundary_hellos ..).trans hv) hv)
  have h3 : t3.hellos = s.hellos := by
    refine (foldl_hellos (fun u n => ?_) _ t2).trans h2
    split
    · rfl
    · extract_lets v
      have hv : v.hellos = u.hellos := ((State.updTrain_acts (ps := [.trains]) .refl (by decide)).hellos (by decide))
      refine ite_hellos rfl (ite_hellos ?_ (ite_hellos ?_ hv))
      · exact ((State.awaitCommit_acts (ps := [.trains, .lockage]) (State.updTrain_acts .refl (by decide)) (by decide)).hellos (by decide)).trans hv
      · exact ((State.endStep_acts (ps := [.draws, .regs, .mem, .cmds, .links, .colls, .trains, .turns, .lockage, .mgmt, .outbox])
          .refl (by decide)).hellos (by decide)).trans ((State.stepReport_hellos ..).trans hv)
  exact (foldl_hellos (fun u b => ite_hellos rfl ((State.awaitCommit_acts (ps := [.lockage]) .refl (by decide)).hellos (by decide))) _ t3).trans h3

end Sys2Proof.Machine
end

section
/-! PROOF. Resets of the host's function and bus: the arms of FunctionResetsComplete (R544, R549 to R551). -/

namespace Sys2Proof.Machine

open Sys2Proof

/-! ## The reset of a function -/

/-- What a reset of a function leaves: the function has its next incarnation and no HELLO, and recording has stopped. -/
theorem State.functionReset_resets {s : State} {fn : Nat} (hfn : 1 ≤ fn) (hon : s.functionEnabled fn = true) :
    (s.functionReset fn).spine.funcInc = raiseInc s.spine.funcInc fn ∧ (s.functionReset fn).hellos = erase fn s.hellos ∧
      (s.functionReset fn).logbook.state = .stopped ∧ (s.functionReset fn).CauseIs 2 4 fn 0 := by
  have hruns : ¬ (decide (fn = 0) || !s.functionEnabled fn) = true := by simp [hon]; omega
  obtain ⟨u, hu⟩ : ∃ u, u = s.functionReset fn := ⟨_, rfl⟩
  rw [← hu]
  rw [State.functionReset, if_neg hruns] at hu
  extract_lets qs t1 t2 t3 t4 at hu
  have h1 : Acts [.draws, .power, .gov, .regs, .mem, .host, .cmds, .hist, .weights, .links, .serving, .colls, .trains, .turns, .lockage, .panel,
      .mgmt, .sec, .outbox, .acting] s t1 := Acts.foldl .refl fun _ _ h => State.emptyQueue_acts h (by decide)
  have hhellos : t3.hellos = s.hellos := by
    have herased : (qs.foldl (fun (t : State) n => t.eraseQueue n) t1).hellos = t1.hellos :=
      foldl_hellos (f := fun (t : State) n => t.eraseQueue n) (fun _ _ => rfl) _ t1
    have h3 : Acts [.lockage] t2 t3 := Acts.foldl .refl fun _ _ h => State.awaitCommit_acts h (by decide)
    exact (h3.hellos (by decide)).trans ((State.closeServices_hellos ..).trans (herased.trans (h1.hellos (by decide))))
  have hspine : t3.spine = s.spine := by
    have h3 : Acts [.draws, .regs, .mem, .host, .queues, .cmds, .weights, .links, .serving, .colls, .trains, .turns, .logbook, .lockage, .mgmt,
        .log, .outbox] t1 t3 :=
      Acts.foldl (State.closeServices_acts (Acts.foldl .refl fun _ _ h => State.eraseQueue_acts h (by decide)) (by decide))
        fun _ _ h => State.awaitCommit_acts h (by decide)
    exact (h3.spine (by decide)).trans (h1.spine (by decide))
  clear_value t3
  have h4 : t4.spine = t3.spine := rfl
  have h4hellos : t4.hellos = erase fn t3.hellos := rfl
  clear_value t4
  have hraise : Acts [.regs, .outbox] (t4.raiseFunc fn) ((t4.raiseFunc fn).raise evReset 2) := State.raise_acts .refl (by decide)
  have hend : Acts [.regs, .logbook] ((t4.raiseFunc fn).raise evReset 2) u :=
    hu ▸ State.resetCause_acts (State.stopBook_acts .refl (by decide)) (by decide)
  refine ⟨?_, ?_, hu ▸ rfl, hu ▸ State.resetCause_causeIs ..⟩
  · rw [hend.spine (by decide), hraise.spine (by decide), ← hspine, ← h4]
    rfl
  · rw [hend.hellos (by decide), hraise.hellos (by decide), ← hhellos, ← h4hellos]
    rfl

/-- A row that resets a function reaches the state that Table 20-4 gives. -/
theorem runsSpine_functionReset {f : State → State} {s : State} {fn : Nat} (hf : f s = s.functionReset fn) (hfn : 1 ≤ fn)
    (hon : s.functionEnabled fn = true) :
    Reaches (runsSpine f s) fun t => t.funcInc fn = (nextInc (incOf s.spine.funcInc fn)).toNat ∧ t.hellos = erase fn s.hellos ∧
      t.logbook.state = .stopped ∧ t.regNat (blkPower + 0x94) = 0x40040000 + fn * 0x100 := by
  obtain ⟨hinc, hhellos, hbook, hcause⟩ := State.functionReset_resets hfn hon
  have hlow : fn ≤ 31 := by
    simp only [State.functionEnabled, decide_eq_true_eq] at hon
    omega
  refine runsSpine_reaches_of_eq hf ⟨?_, hhellos, hbook, (State.CauseIs.regNat (hcause.of_regs rfl)).trans (by omega)⟩
  exact congrArg BitVec.toNat ((congrArg (incOf · fn) hinc).trans (incOf_raiseInc ..))

/-! ## The rows -/

theorem perstNAssert_resets {s : State} (hon : s.power.state ≠ .off) (hbegins : s.power.booting ≠ .full ∨ s.clock.fatal = true) :
    Reaches (execPerstNAssert s) fun t => t.spine.epoch = 1 ∧ t.spine.unitInc = [] ∧ t.queues = [] ∧ t.inflight = [] ∧
      t.keepsake = s.keepsake ∧ t.power.perstReleased = false ∧ t.power.booting = .full ∧ t.regNat (blkPower + 0x94) = 0x00010000 := by
  have hnot : ¬ (s.power.state == .off) = true := by simpa using hon
  refine (runsSpine_startCold (z := { s with power := { s.power with perstReleased := false } }) (trigger := 1) ?_ hbegins).mono ?_
  · exact if_neg hnot
  · rintro t ⟨hepoch, hunits, hqueues, hinflight, hkept, hperst, hfull, hcause⟩
    exact ⟨hepoch, hunits, hqueues, hinflight, hkept, hperst, hfull, hcause.regNat⟩

theorem State.pcieLink_of_pcieUp {s : State} (hup : s.pcieUp = true) : s.pcieLink = true := by
  rw [State.pcieUp, Bool.and_eq_true] at hup
  exact hup.1

theorem pcieHotReset_resets {s : State} (hup : s.pcieUp = true) (hboot : s.power.booting = .none) :
    Reaches (execPcieHotReset s) fun t => t.queues = [] ∧ t.inflight = [] ∧ t.serving = [] ∧ t.hellos = [] ∧ t.power.booting = .warm ∧
      t.spine.epoch = s.spine.epoch ∧ t.regNat (blkPower + 0x94) = 0x20030000 := by
  refine (runsSpine_warm (z := s) (trigger := 3) (if_pos (State.pcieLink_of_pcieUp hup)) hboot (State.on_of_pcieUp hup)).mono ?_
  rintro t ⟨hqueues, hinflight, hserving, hhellos, hwarm, hepoch, -, hcause⟩
  exact ⟨hqueues, hinflight, hserving, hhellos, hwarm, hepoch, hcause.regNat⟩

theorem flrPf0_resets {s : State} (hup : s.pcieUp = true) (hboot : s.power.booting = .none) :
    Reaches (execFlrPf0 s) fun t => t.queues = [] ∧ t.inflight = [] ∧ t.serving = [] ∧ t.hellos = [] ∧ t.power.booting = .warm ∧
      t.spine.epoch = s.spine.epoch ∧ t.regNat (blkPower + 0x94) = 0x20040000 := by
  refine (runsSpine_warm (z := s) (trigger := 4) (if_pos (State.pcieLink_of_pcieUp hup)) hboot (State.on_of_pcieUp hup)).mono ?_
  rintro t ⟨hqueues, hinflight, hserving, hhellos, hwarm, hepoch, -, hcause⟩
  exact ⟨hqueues, hinflight, hserving, hhellos, hwarm, hepoch, hcause.regNat⟩

theorem perstNRelease_releases (s : State) :
    Reaches (execPerstNRelease s) fun t => t.power = { s.power with perstReleased := true } := ⟨_, rfl, rfl⟩

/-- Settles O50: each row's own lemma, in the order of the clauses. -/
theorem functionResetsComplete : Obligations.FunctionResetsComplete :=
  ⟨fun _ => perstNAssert_resets, perstNRelease_releases, fun _ => pcieHotReset_resets, fun _ => flrPf0_resets,
   fun _ _ hup => runsSpine_functionReset (if_pos (State.pcieLink_of_pcieUp hup)),
   fun _ _ hop => runsSpine_functionReset (if_pos hop)⟩

end Sys2Proof.Machine
end

section
/-! SUPPORT. The tables of services: what an update of a service, a turn or an entry leaves where it was found, and what outlasts it
(chapters 16 to 19). -/

namespace Sys2Proof.Machine

open Sys2Proof

section
variable {s : State} {n : Nat}

theorem State.updServing_lookup {v : Serving} (h : lookup n s.serving = some v) (f : Serving → Serving) :
    lookup n (s.updServing n f).serving = some (f v) := by
  rw [State.updServing, h]
  exact lookup_insert

theorem State.updTrain_lookup {v : Train} (h : lookup n s.trains = some v) (f : Train → Train) :
    lookup n (s.updTrain n f).trains = some (f v) := by
  rw [State.updTrain, h]
  exact lookup_insert

theorem State.updScore_lookup {v : Score} (h : lookup n s.scores = some v) (f : Score → Score) :
    lookup n (s.updScore n f).scores = some (f v) := by
  rw [State.updScore, h]
  exact lookup_insert

theorem State.updTurn_lookup {v : Turn} (h : lookup n s.turns = some v) (f : Turn → Turn) :
    lookup n (s.updTurn n f).turns = some (f v) := by
  rw [State.updTurn, h]
  exact lookup_insert

theorem State.updServing_cmd (f : Serving → Serving) (r : CmdRef) : (s.updServing n f).cmd r = s.cmd r :=
  State.cmd_congr ((State.updServing_acts (ps := [.serving]) .refl (by decide)).inflight (by decide))

theorem State.updTrain_cmd (f : Train → Train) (r : CmdRef) : (s.updTrain n f).cmd r = s.cmd r :=
  State.cmd_congr ((State.updTrain_acts (ps := [.trains]) .refl (by decide)).inflight (by decide))

theorem State.updScore_cmd (f : Score → Score) (r : CmdRef) : (s.updScore n f).cmd r = s.cmd r :=
  State.cmd_congr ((State.updScore_acts (ps := [.turns]) .refl (by decide)).inflight (by decide))

theorem State.updTurn_cmd (f : Turn → Turn) (r : CmdRef) : (s.updTurn n f).cmd r = s.cmd r :=
  State.cmd_congr ((State.updTurn_acts (ps := [.turns]) .refl (by decide)).inflight (by decide))

end

/-- A ready command reaches the state that its effect comes to. -/
theorem State.Ready.reaches_eq {opcode : Nat} {r : CmdRef} {k : Cmd} {hv : HostView} {f : Cmd → State → State} {s u : State}
    {P : State → Prop} (h : s.Ready opcode r k) (hf : f k (s.meets hv k) = u)
    (hP : P { u with spine := s.spine, acting := s.acting, pending := s.pending }) :
    Reaches (runs (fun s => (s.sees hv).start opcode r f) s) P := h.reaches (hf ▸ hP)

/-- A row reaches the state that its function gives. -/
theorem runs_reaches_to {f : State → State} {s u : State} {P : State → Prop} (hf : f s = u)
    (hP : P { u with spine := s.spine, acting := s.acting, pending := s.pending }) : Reaches (runs f s) P := runs_reaches (hf ▸ hP)

end Sys2Proof.Machine
end

section
/-! PROOF. PREEMPT (R521 to R523) and the scoring services (R540 to R542): the arms of PreemptionAndScoresComplete. -/

namespace Sys2Proof.Machine

open Sys2Proof

/-! ## What PREEMPT does, by its action -/

section
variable {z : State} {k : Cmd} {kind n : Nat}

theorem State.preempt_park (hkind : k.param 32 1 = kind) (hn : k.param 33 1 = n) (hact : k.param 34 1 = 0)
    (hopen : z.serviceOpen kind n k.berth = true) : z.preempt k = z.park kind n k := by
  simp only [State.preempt, hkind, hn, hopen, hact, Bool.not_true, Bool.false_eq_true, if_false, if_true]

theorem State.preempt_resume (hkind : k.param 32 1 = kind) (hn : k.param 33 1 = n) (hact : k.param 34 1 = 1)
    (hopen : z.serviceOpen kind n k.berth = true) : z.preempt k = (z.resume kind n).finish k.ref {} := by
  simp only [State.preempt, hkind, hn, hopen, hact, Bool.not_true, Bool.false_eq_true, if_false, if_true, Nat.one_ne_zero]

theorem State.preempt_share (hkind : k.param 32 1 = kind) (hn : k.param 33 1 = n) (hact : k.param 34 1 = 2)
    (hopen : z.serviceOpen kind n k.berth = true) : z.preempt k = (z.share kind n (k.param 35 1)).finish k.ref {} := by
  simp [State.preempt, hkind, hn, hopen, hact]

theorem State.preempt_abandon {x : Turn} (hkind : k.param 32 1 = 0) (hn : k.param 33 1 = n) (hact : 3 ≤ k.param 34 1)
    (hopen : z.serviceOpen 0 n k.berth = true) (hturn : lookup n z.turns = some x) (hfailing : x.failing = none) :
    z.preempt k = (z.failTurn n stAborted true).finish k.ref {} := by
  have h0 : k.param 34 1 ≠ 0 := by omega
  have h1 : k.param 34 1 ≠ 1 := by omega
  have h2 : k.param 34 1 ≠ 2 := by omega
  simp [State.preempt, hkind, hn, hopen, h0, h1, h2, hturn, hfailing]

theorem State.preempt_no_turn (hkind : k.param 32 1 = kind) (hn : k.param 33 1 = n) (hact : 3 ≤ k.param 34 1)
    (hopen : z.serviceOpen kind n k.berth = true) (hnone : z.turns = []) : z.preempt k = z.finish k.ref { status := stNotFound } := by
  have h0 : k.param 34 1 ≠ 0 := by omega
  have h1 : k.param 34 1 ≠ 1 := by omega
  have h2 : k.param 34 1 ≠ 2 := by omega
  simp [State.preempt, hkind, hn, hopen, h0, h1, h2, hnone, lookup]

end

/-! ## The arms of PREEMPT -/

section
variable {s : State} {r : CmdRef} {k : Cmd} {hv : HostView}

/-- PREEMPT that updates a serving service and answers. -/
theorem preempt_updates_serving {v : Serving} {f : Serving → Serving} (hready : s.Ready 0x8001 r k)
    (hlookup : lookup (k.param 33 1) s.serving = some v)
    (heffect : (s.meets hv k).preempt k = ((s.meets hv k).updServing (k.param 33 1) f).finish k.ref {}) :
    Reaches (execPreempt r hv s) fun t => t.Answered r {} ∧ lookup (k.param 33 1) t.serving = some (f v) := by
  obtain rfl := hready.ref
  exact hready.reaches_eq heffect
    ⟨State.finish_answered ((State.updServing_cmd ..).trans hready.1), State.updServing_lookup (s := s.meets hv k) hlookup f⟩

/-- PREEMPT that updates a training service and answers. -/
theorem preempt_updates_train {v : Train} {f : Train → Train} (hready : s.Ready 0x8001 r k) (hlookup : lookup (k.param 33 1) s.trains = some v)
    (heffect : (s.meets hv k).preempt k = ((s.meets hv k).updTrain (k.param 33 1) f).finish k.ref {}) :
    Reaches (execPreempt r hv s) fun t => t.Answered r {} ∧ lookup (k.param 33 1) t.trains = some (f v) := by
  obtain rfl := hready.ref
  exact hready.reaches_eq heffect
    ⟨State.finish_answered ((State.updTrain_cmd ..).trans hready.1), State.updTrain_lookup (s := s.meets hv k) hlookup f⟩

/-- PREEMPT that updates a score service and answers. -/
theorem preempt_updates_score {v : Score} {f : Score → Score} (hready : s.Ready 0x8001 r k) (hlookup : lookup (k.param 33 1) s.scores = some v)
    (heffect : (s.meets hv k).preempt k = ((s.meets hv k).updScore (k.param 33 1) f).finish k.ref {}) :
    Reaches (execPreempt r hv s) fun t => t.Answered r {} ∧ lookup (k.param 33 1) t.scores = some (f v) := by
  obtain rfl := hready.ref
  exact hready.reaches_eq heffect
    ⟨State.finish_answered ((State.updScore_cmd ..).trans hready.1), State.updScore_lookup (s := s.meets hv k) hlookup f⟩

theorem preempt_parks_serving {v : Serving} (hready : s.Ready 0x8001 r k) (hact : k.param 34 1 = 0) (hkind : k.param 32 1 = 0)
    (hopen : s.serviceOpen 0 (k.param 33 1) k.berth = true) (hlookup : lookup (k.param 33 1) s.serving = some v) (hrests : v.step = none) :
    Reaches (execPreempt r hv s) fun t => t.Answered r {} ∧ lookup (k.param 33 1) t.serving = some { v with parked := true } := by
  refine preempt_updates_serving (f := fun x => { x with parked := true }) hready hlookup ?_
  have hfound : lookup (k.param 33 1) (s.meets hv k).serving = some v := hlookup
  rw [State.preempt_park (z := s.meets hv k) hkind rfl hact hopen, State.park]
  simp [hfound, hrests]

theorem preempt_parks_train {v : Train} (hready : s.Ready 0x8001 r k) (hact : k.param 34 1 = 0) (hkind : k.param 32 1 = 1)
    (hopen : s.serviceOpen 1 (k.param 33 1) k.berth = true) (hlookup : lookup (k.param 33 1) s.trains = some v) (hrests : v.phase = .idle) :
    Reaches (execPreempt r hv s) fun t => t.Answered r {} ∧ lookup (k.param 33 1) t.trains = some { v with parked := true } := by
  refine preempt_updates_train (f := fun x => { x with parked := true }) hready hlookup ?_
  have hfound : lookup (k.param 33 1) (s.meets hv k).trains = some v := hlookup
  rw [State.preempt_park (z := s.meets hv k) hkind rfl hact hopen, State.park]
  simp [hfound, hrests]

theorem preempt_parks_score {v : Score} (hready : s.Ready 0x8001 r k) (hact : k.param 34 1 = 0) (hkind : 2 ≤ k.param 32 1)
    (hopen : s.serviceOpen (k.param 32 1) (k.param 33 1) k.berth = true) (hlookup : lookup (k.param 33 1) s.scores = some v) :
    Reaches (execPreempt r hv s) fun t => t.Answered r {} ∧ lookup (k.param 33 1) t.scores = some { v with parked := true } := by
  refine preempt_updates_score (f := fun x => { x with parked := true }) hready hlookup ?_
  have h0 : k.param 32 1 ≠ 0 := by omega
  have h1 : k.param 32 1 ≠ 1 := by omega
  rw [State.preempt_park (z := s.meets hv k) rfl rfl hact hopen, State.park, if_neg h0, if_neg h1]

theorem preempt_waits_serving {v : Serving} (hready : s.Ready 0x8001 r k) (hact : k.param 34 1 = 0) (hkind : k.param 32 1 = 0)
    (hopen : s.serviceOpen 0 (k.param 33 1) k.berth = true) (hlookup : lookup (k.param 33 1) s.serving = some v) (hruns : v.parked = false)
    (hstep : v.step.isSome = true) :
    Reaches (execPreempt r hv s) fun t => t.Waits r ∧
      lookup (k.param 33 1) t.serving = some { v with parking := v.parking ++ [(r, (s.meets hv k).now)] } := by
  obtain rfl := hready.ref
  have hfound : lookup (k.param 33 1) (s.meets hv k).serving = some v := hlookup
  have hsome : v.step ≠ none := Option.isSome_iff_ne_none.1 hstep
  refine hready.reaches_eq (u := ((s.meets hv k).running k.ref).updServing (k.param 33 1)
    fun x => { x with parking := x.parking ++ [(k.ref, (s.meets hv k).now)] }) ?_ ⟨?_, ?_⟩
  · rw [State.preempt_park (z := s.meets hv k) hkind rfl hact hopen, State.park]
    simp [hfound, hruns, hsome]
  · obtain ⟨c, hc, hstage⟩ := State.running_waits (s := s.meets hv k) hready.1
    exact ⟨c, (State.updServing_cmd ..).trans hc, hstage⟩
  · exact State.updServing_lookup (s := (s.meets hv k).running k.ref) hlookup _

theorem preempt_waits_train {v : Train} (hready : s.Ready 0x8001 r k) (hact : k.param 34 1 = 0) (hkind : k.param 32 1 = 1)
    (hopen : s.serviceOpen 1 (k.param 33 1) k.berth = true) (hlookup : lookup (k.param 33 1) s.trains = some v) (hruns : v.parked = false)
    (hstep : v.phase ≠ .idle) :
    Reaches (execPreempt r hv s) fun t => t.Waits r ∧
      lookup (k.param 33 1) t.trains = some { v with parking := v.parking ++ [(r, (s.meets hv k).now)] } := by
  obtain rfl := hready.ref
  have hfound : lookup (k.param 33 1) (s.meets hv k).trains = some v := hlookup
  refine hready.reaches_eq (u := ((s.meets hv k).running k.ref).updTrain (k.param 33 1)
    fun x => { x with parking := x.parking ++ [(k.ref, (s.meets hv k).now)] }) ?_ ⟨?_, ?_⟩
  · rw [State.preempt_park (z := s.meets hv k) hkind rfl hact hopen, State.park]
    simp [hfound, hruns, hstep]
  · obtain ⟨c, hc, hstage⟩ := State.running_waits (s := s.meets hv k) hready.1
    exact ⟨c, (State.updTrain_cmd ..).trans hc, hstage⟩
  · exact State.updTrain_lookup (s := (s.meets hv k).running k.ref) hlookup _

theorem preempt_resumes_serving {v : Serving} (hready : s.Ready 0x8001 r k) (hact : k.param 34 1 = 1) (hkind : k.param 32 1 = 0)
    (hopen : s.serviceOpen 0 (k.param 33 1) k.berth = true) (hlookup : lookup (k.param 33 1) s.serving = some v) :
    Reaches (execPreempt r hv s) fun t => t.Answered r {} ∧ lookup (k.param 33 1) t.serving = some { v with parked := false } :=
  preempt_updates_serving (f := fun x => { x with parked := false }) hready hlookup (State.preempt_resume (z := s.meets hv k) hkind rfl hact hopen)

theorem preempt_resumes_train {v : Train} (hready : s.Ready 0x8001 r k) (hact : k.param 34 1 = 1) (hkind : k.param 32 1 = 1)
    (hopen : s.serviceOpen 1 (k.param 33 1) k.berth = true) (hlookup : lookup (k.param 33 1) s.trains = some v) :
    Reaches (execPreempt r hv s) fun t => t.Answered r {} ∧ lookup (k.param 33 1) t.trains = some { v with parked := false } :=
  preempt_updates_train (f := fun x => { x with parked := false }) hready hlookup (State.preempt_resume (z := s.meets hv k) hkind rfl hact hopen)

theorem preempt_resumes_score {v : Score} (hready : s.Ready 0x8001 r k) (hact : k.param 34 1 = 1) (hkind : 2 ≤ k.param 32 1)
    (hopen : s.serviceOpen (k.param 32 1) (k.param 33 1) k.berth = true) (hlookup : lookup (k.param 33 1) s.scores = some v) :
    Reaches (execPreempt r hv s) fun t => t.Answered r {} ∧ lookup (k.param 33 1) t.scores = some { v with parked := false } := by
  refine preempt_updates_score (f := fun x => { x with parked := false }) hready hlookup ?_
  have h0 : k.param 32 1 ≠ 0 := by omega
  have h1 : k.param 32 1 ≠ 1 := by omega
  rw [State.preempt_resume (z := s.meets hv k) rfl rfl hact hopen, State.resume, if_neg h0, if_neg h1]

theorem preempt_shares_serving {v : Serving} (hready : s.Ready 0x8001 r k) (hact : k.param 34 1 = 2) (hkind : k.param 32 1 = 0)
    (hopen : s.serviceOpen 0 (k.param 33 1) k.berth = true) (hlookup : lookup (k.param 33 1) s.serving = some v) :
    Reaches (execPreempt r hv s) fun t => t.Answered r {} ∧ lookup (k.param 33 1) t.serving = some { v with share := k.param 35 1 } :=
  preempt_updates_serving (f := fun x => { x with share := k.param 35 1 }) hready hlookup (State.preempt_share (z := s.meets hv k) hkind rfl hact hopen)

theorem preempt_shares_train {v : Train} (hready : s.Ready 0x8001 r k) (hact : k.param 34 1 = 2) (hkind : k.param 32 1 = 1)
    (hopen : s.serviceOpen 1 (k.param 33 1) k.berth = true) (hlookup : lookup (k.param 33 1) s.trains = some v) :
    Reaches (execPreempt r hv s) fun t => t.Answered r {} ∧ lookup (k.param 33 1) t.trains = some { v with share := k.param 35 1 } :=
  preempt_updates_train (f := fun x => { x with share := k.param 35 1 }) hready hlookup (State.preempt_share (z := s.meets hv k) hkind rfl hact hopen)

theorem preempt_shares_score {v : Score} (hready : s.Ready 0x8001 r k) (hact : k.param 34 1 = 2) (hkind : 2 ≤ k.param 32 1)
    (hopen : s.serviceOpen (k.param 32 1) (k.param 33 1) k.berth = true) (hlookup : lookup (k.param 33 1) s.scores = some v) :
    Reaches (execPreempt r hv s) fun t => t.Answered r {} ∧ lookup (k.param 33 1) t.scores = some { v with share := k.param 35 1 } := by
  refine preempt_updates_score (f := fun x => { x with share := k.param 35 1 }) hready hlookup ?_
  have h0 : k.param 32 1 ≠ 0 := by omega
  have h1 : k.param 32 1 ≠ 1 := by omega
  rw [State.preempt_share (z := s.meets hv k) rfl rfl hact hopen, State.share, if_neg h0, if_neg h1]

/-- A turn that does not fail yet fails, and its failure waits for its commit. -/
theorem State.failTurn_fails {z : State} {n : Nat} {x : Turn} (hturn : lookup n z.turns = some x) (hfailing : x.failing = none) (detail : Nat)
    (abandoned : Bool) : z.failTurn n detail abandoned =
      (z.updTurn n fun t => { t with failing := some (detail, abandoned) }).awaitCommit (.turnAbandon n) := by
  simp [State.failTurn, hturn, hfailing]

theorem preempt_abandons_turn {x : Turn} (hready : s.Ready 0x8001 r k) (hact : 3 ≤ k.param 34 1) (hkind : k.param 32 1 = 0)
    (hopen : s.serviceOpen 0 (k.param 33 1) k.berth = true) (hturn : lookup (k.param 33 1) s.turns = some x) (hfailing : x.failing = none) :
    Reaches (execPreempt r hv s) fun t => t.Answered r {} ∧ t.commits = s.commits ++ [⟨.turnAbandon (k.param 33 1), []⟩] ∧
      lookup (k.param 33 1) t.turns = some { x with failing := some (stAborted, true) } := by
  obtain rfl := hready.ref
  refine hready.reaches_eq ((State.preempt_abandon (z := s.meets hv k) hkind rfl hact hopen hturn hfailing).trans
    (by rw [State.failTurn_fails (z := s.meets hv k) hturn hfailing])) ⟨?_, ?_, ?_⟩
  · exact State.finish_answered ((State.updTurn_cmd ..).trans hready.1)
  · exact congrArg (· ++ _) ((State.updTurn_acts (s := s.meets hv k) (ps := [.turns]) .refl (by decide)).commits (by decide))
  · exact State.updTurn_lookup (s := s.meets hv k) hturn _

theorem preempt_finds_no_turn (hready : s.Ready 0x8001 r k) (hact : 3 ≤ k.param 34 1)
    (hopen : s.serviceOpen (k.param 32 1) (k.param 33 1) k.berth = true) (hnone : s.turns = []) :
    Reaches (execPreempt r hv s) fun t => t.Ended r stNotFound := by
  obtain rfl := hready.ref
  exact hready.reaches_eq (State.preempt_no_turn (z := s.meets hv k) rfl rfl hact hopen hnone)
    (State.finish_ended (s := s.meets hv k) (a := { status := stNotFound }) hready.1)

end

/-! ## SCORE -/

/-- The score service that a SCORE opens, before its opening commit. -/
def newScore (c : Cmd) (model : Option Model) : Score :=
  { cmd := c, model := model, opened := false, next := 0, fed := 0, scored := 0, unscored := 0, parked := false, share := 1, round := 0 }

/-- The state in which a SCORE waits for its opening commit. -/
def State.scoreAwaits (z : State) (c : Cmd) (model : Option Model) : State :=
  (({ z with scores := insert c.berth (newScore c model) z.scores } : State).running c.ref).awaitCommit (.scoreOpen c.ref c.berth)

theorem State.scoreStart_without_model {z : State} {c : Cmd} (hok : theRefusal (z.scoreFails c) = none) (hnone : c.param 32 1 ≠ 0) :
    z.scoreStart c = z.scoreAwaits c none := by
  have hranges : z.rangesStatus [] = none := rfl
  simp [State.scoreStart, hok, hnone, hranges, State.scoreAwaits, newScore]

theorem State.scoreStart_with_model {z : State} {c : Cmd} (hok : theRefusal (z.scoreFails c) = none) (hmodel : c.param 32 1 = 0)
    (hranges : z.rangesStatus [(c.param 48 8, 64 + 32 * z.natAt (c.param 48 8 + 28) 4)] = none)
    (hgood : z.modelFails (c.param 48 8) 0x06 (z.setBytes (c.param 33 1)) = none) (hrow : c.param 34 2 < (z.readModel (c.param 48 8)).vocab) :
    z.scoreStart c = z.scoreAwaits c (some (z.readModel (c.param 48 8))) := by
  have hvocab : ¬ (z.readModel (c.param 48 8)).vocab ≤ c.param 34 2 := by omega
  simp [State.scoreStart, hok, hmodel, hranges, hgood, hvocab, State.scoreAwaits, newScore]

/-- A SCORE that comes to wait for its opening commit. -/
theorem score_awaits {s : State} {r : CmdRef} {k : Cmd} {hv : HostView} {model : Option Model} (hready : s.Ready 0x6009 r k)
    (heffect : (s.meets hv k).scoreStart k = (s.meets hv k).scoreAwaits k model) :
    Reaches (execScore r hv s) fun t => t.Waits r ∧ t.commits = s.commits ++ [⟨.scoreOpen r k.berth, []⟩] ∧
      lookup k.berth t.scores = some (newScore k model) := by
  obtain rfl := hready.ref
  exact hready.reaches_eq heffect ⟨State.running_waits (s := s.meets hv k) hready.1, rfl, lookup_insert⟩

/-! ## SCORE_STEP without a model -/

section
variable {z : State} {b : Nat} {j : Score}

/-- With no record left a score step works on none. -/
theorem State.scoreRecords_done (hscore : lookup b z.scores = some j) (hdone : j.cmd.param 36 4 ≤ j.next) (fuel budget : Nat) :
    z.scoreRecords b fuel budget = z := by
  cases fuel with
  | zero => rfl
  | succ fuel =>
    rw [State.scoreRecords]
    simp [hscore, hdone]

/-- The last record is rewarded: its reward is stored and it counts as scored. -/
theorem State.scoreRecords_last_scored {w fuel budget : Nat} (hscore : lookup b z.scores = some j) (hmodel : j.model = none)
    (hlast : j.next + 1 = j.cmd.param 36 4) (hrecord : z.scoreRecord j budget = (z, .reward w, 0))
    (hput : (z.writePlace (placeOf (z.natAt (j.cmd.param 40 8 + 32 * j.next) 8)) 64 (leBytes 4 w)).2 = none) :
    z.scoreRecords b (fuel + 1) budget =
      (z.writePlace (placeOf (z.natAt (j.cmd.param 40 8 + 32 * j.next) 8)) 64 (leBytes 4 w)).1.updScore b fun k =>
        { k with next := k.next + 1, fed := 0, scored := k.scored + 1, unscored := k.unscored } := by
  obtain ⟨put, hdef⟩ : ∃ put, put = z.writePlace (placeOf (z.natAt (j.cmd.param 40 8 + 32 * j.next) 8)) 64 (leBytes 4 w) := ⟨_, rfl⟩
  have hfound : lookup b put.1.scores = some j := by
    rw [hdef, (State.writePlace_acts (ps := [.draws, .regs, .mem, .host, .weights, .log, .outbox]) .refl (by decide)).scores (by decide), hscore]
  have hleft : ¬ j.cmd.param 36 4 ≤ j.next := by omega
  rw [← hdef] at hput ⊢
  rw [State.scoreRecords]
  simp only [hscore, hleft, hmodel, hrecord, ← hdef, hput, decide_false, Option.isSome_none, Bool.false_and, Bool.or_self, Bool.false_eq_true,
    if_false, Option.isNone_none, Bool.not_true, bit, if_true, Nat.add_zero]
  exact State.scoreRecords_done (State.updScore_lookup hfound _) (by dsimp only; omega) _ _

/-- The last record is left out and counts as not scored. -/
theorem State.scoreRecords_last_left_out {fuel budget : Nat} (hscore : lookup b z.scores = some j) (hmodel : j.model = none)
    (hlast : j.next + 1 = j.cmd.param 36 4) (hrecord : z.scoreRecord j budget = (z, .leftOut, 0)) :
    z.scoreRecords b (fuel + 1) budget = z.updScore b fun k => { k with next := k.next + 1, fed := 0, unscored := k.unscored + 1 } := by
  have hleft : ¬ j.cmd.param 36 4 ≤ j.next := by omega
  rw [State.scoreRecords]
  simp only [hscore, hleft, hmodel, hrecord, decide_false, Option.isSome_none, Bool.false_and, Bool.or_self, Bool.false_eq_true, if_false]
  exact State.scoreRecords_done (State.updScore_lookup hscore _) (by dsimp only; omega) _ _

theorem State.scoreRecord_unreadable {budget : Nat} (hbad : (z.readStatus (j.cmd.param 40 8 + 32 * j.next) 32).isSome = true) :
    z.scoreRecord j budget = (z, .leftOut, 0) := by
  simp [State.scoreRecord, hbad]

theorem State.scoreRecord_without_model {budget a : Nat} (hmodel : j.model = none) (ha : j.cmd.param 40 8 + 32 * j.next = a)
    (hread : z.readStatus a 32 = none) (hstep : (z.stepRecord (z.natAt a 8)).2 = none) (hended : (z.stepRecord (z.natAt a 8)).1.endCode ≠ 0)
    (hcount : (z.stepRecord (z.natAt a 8)).1.count ≠ 0) : z.scoreRecord j budget = (z, .reward (z.natAt (a + 16) 4), 0) := by
  simp [State.scoreRecord, ha, hread, hstep, hended, hcount, hmodel]

end

theorem State.ringing_actFor (s : State) (epoch b : Nat) :
    s.ringing.actFor epoch b = (s.actFor epoch b).ringing := rfl

/-- A score step without a model, in the state that the arbiter grants it, works on its records, and after the last the closing commit waits. -/
theorem State.scoreStep_ends {s t0 z u : State} {b : Nat} {k j : Score} (hscore : lookup b s.scores = some k) (hopened : k.opened = true)
    (hparked : k.parked = false) (hruns : s.berthRuns b k = true) (hmodel : k.model = none) (hlast : k.next + 1 = k.cmd.param 36 4)
    (hgrant : s.turnOf b 3 b = some t0)
    (hz : z = ((t0.actFor s.spine.epoch.toNat b).ringing).dropRegions (bitsBelow 8 (t0.berthPaves 0 b)))
    (hrecords : z.scoreRecords b (k.cmd.param 36 4 + 1) 65536 = u) (hfound : lookup b u.scores = some j) (hdone : j.cmd.param 36 4 ≤ j.next) :
    s.scoreStep b = ((u.occupy b 3 b).updScore b fun k => { k with round := k.round + 1 }).awaitCommit (.scoreClose b) := by
  have hleft : ¬ k.cmd.param 36 4 ≤ k.next := by omega
  have hspine : t0.spine = s.spine := ((State.turnOf_acts (ps := [.serving, .trains, .turns]) .refl (by decide) hgrant).spine (by decide))
  have hworks : (t0.ringing.actFor t0.spine.epoch.toNat b).dropRegions (bitsBelow 8 (t0.berthPaves 0 b)) = z := by
    rw [hz, hspine, State.ringing_actFor]
  rw [State.ringing] at hworks
  have hlookup : lookup b ((u.occupy b 3 b).updScore b fun k => { k with round := k.round + 1 }).scores = some { j with round := j.round + 1 } :=
    State.updScore_lookup (s := u.occupy b 3 b) hfound _
  rw [State.scoreStep]
  simp [hscore, hopened, hparked, hruns, hleft, hgrant, hmodel, hworks, hrecords, hlookup, hdone]

theorem State.updScore_occupants (s : State) (b : Nat) (f : Score → Score) : (s.updScore b f).occupants = s.occupants := by
  unfold State.updScore
  split <;> rfl

theorem State.berthRuns_sees_at (s : State) (now : Nat) (hv : HostView) (b : Nat) (k : Score) :
    ((s.at now).sees hv).berthRuns b k = s.berthRuns b k := by
  simp only [State.at]
  split <;> rfl

section
variable {s t0 z : State} {b now a : Nat} {hv : HostView} {k j : Score}

/-- The state in which a granted score step works on its records. -/
theorem scoreStep_grants (hgrant : ((s.at now).sees hv).turnOf b 3 b = some t0)
    (hz : z = ((t0.actFor s.spine.epoch.toNat b).ringing).dropRegions (bitsBelow 8 (t0.berthPaves 0 b))) :
    Acts [.clock, .power, .regs, .host, .serving, .trains, .turns, .acting] s z ∧ z.scores = t0.scores := by
  have hseen : Acts [.clock, .host] s ((s.at now).sees hv) := State.sees_acts (State.at_acts .refl (by decide)) (by decide)
  have hturn : Acts [.serving, .trains, .turns] ((s.at now).sees hv) t0 := State.turnOf_acts .refl (by decide) hgrant
  have hwork : Acts [.power, .regs, .acting] t0 z :=
    hz ▸ State.dropRegions_acts (Acts.set_power (State.actFor_acts .refl (by decide)) (by decide)) (by decide)
  exact ⟨(hseen.more (by decide)).trans ((hturn.more (by decide)).trans (hwork.more (by decide))), (hwork.scores (by decide))⟩

/-- A score step whose records come to u, with the last one done, waits for its closing commit. -/
theorem scoreStep_closes {u : State} {f : Score → Score} (hscore : lookup b s.scores = some k) (hopened : k.opened = true)
    (hparked : k.parked = false) (hruns : s.berthRuns b k = true) (hmodel : k.model = none)
    (hgrant : ((s.at now).sees hv).turnOf b 3 b = some t0)
    (hz : z = ((t0.actFor s.spine.epoch.toNat b).ringing).dropRegions (bitsBelow 8 (t0.berthPaves 0 b)))
    (hlast : k.next + 1 = k.cmd.param 36 4) (hrecords : z.scoreRecords b (k.cmd.param 36 4 + 1) 65536 = u.updScore b f)
    (hput : Acts [.draws, .regs, .mem, .host, .weights, .log, .outbox] z u) (hfound : lookup b t0.scores = some j)
    (hdone : (f j).cmd.param 36 4 ≤ (f j).next) :
    Reaches (execScoreStep b now hv s) fun t => t.commits = s.commits ++ [⟨.scoreClose b, []⟩] ∧ t.mem = u.mem ∧
      lookup b t.scores = some { f j with round := (f j).round + 1 } ∧ lookup b t.occupants = some (3, b) := by
  obtain ⟨hacts, hscores⟩ := scoreStep_grants hgrant hz
  have hj : lookup b u.scores = some j := by rw [hput.scores (by decide), hscores, hfound]
  have hstep : ((s.at now).sees hv).scoreStep b =
      (((u.updScore b f).occupy b 3 b).updScore b fun k => { k with round := k.round + 1 }).awaitCommit (.scoreClose b) :=
    State.scoreStep_ends (s := (s.at now).sees hv) ((congrArg (lookup b) ((State.at_acts (ps := [.clock]) .refl (by decide)).scores (by decide))).trans hscore)
      hopened hparked ((State.berthRuns_sees_at ..).trans hruns) hmodel hlast hgrant
      (by rw [show ((s.at now).sees hv).spine = s.spine from s.at_spine now]; exact hz) hrecords (State.updScore_lookup hj f) hdone
  have hclosed : Acts [.turns] u (((u.updScore b f).occupy b 3 b).updScore b fun k => { k with round := k.round + 1 }) :=
    State.updScore_acts (State.occupy_acts (State.updScore_acts .refl (by decide)) (by decide)) (by decide)
  have hround : lookup b (((u.updScore b f).occupy b 3 b).updScore b fun k => { k with round := k.round + 1 }).scores =
      some { f j with round := (f j).round + 1 } :=
    State.updScore_lookup (s := (u.updScore b f).occupy b 3 b) (State.updScore_lookup hj f) _
  have hoccupied : lookup b (((u.updScore b f).occupy b 3 b).updScore b fun k => { k with round := k.round + 1 }).occupants = some (3, b) :=
    (congrArg (lookup b) (State.updScore_occupants ..)).trans lookup_insert
  refine runs_reaches_to hstep ⟨?_, (hclosed.mem (by decide)), hround, hoccupied⟩
  exact congrArg (· ++ _) ((hclosed.commits (by decide)).trans ((hput.commits (by decide)).trans (hacts.commits (by decide))))

theorem scoreStep_scores_last (hscore : lookup b s.scores = some k) (hopened : k.opened = true) (hparked : k.parked = false)
    (hruns : s.berthRuns b k = true) (hmodel : k.model = none) (hgrant : ((s.at now).sees hv).turnOf b 3 b = some t0)
    (hfound : lookup b t0.scores = some j) (hj : j = { k with round := j.round })
    (hz : z = ((t0.actFor s.spine.epoch.toNat b).ringing).dropRegions (bitsBelow 8 (t0.berthPaves 0 b)))
    (ha : a = k.cmd.param 40 8 + 32 * k.next) (hlast : k.next + 1 = k.cmd.param 36 4) (hread : z.readStatus a 32 = none)
    (hstep : (z.stepRecord (z.natAt a 8)).2 = none) (hended : (z.stepRecord (z.natAt a 8)).1.endCode ≠ 0)
    (hcount : (z.stepRecord (z.natAt a 8)).1.count ≠ 0)
    (hput : (z.writePlace (placeOf (z.natAt a 8)) 64 (leBytes 4 (z.natAt (a + 16) 4))).2 = none) :
    Reaches (execScoreStep b now hv s) fun t => t.commits = s.commits ++ [⟨.scoreClose b, []⟩] ∧
      t.mem = (z.writePlace (placeOf (z.natAt a 8)) 64 (leBytes 4 (z.natAt (a + 16) 4))).1.mem ∧
      lookup b t.scores = some { k with next := k.next + 1, fed := 0, scored := k.scored + 1, round := j.round + 1 } ∧
      lookup b t.occupants = some (3, b) := by
  obtain ⟨-, hscores⟩ := scoreStep_grants hgrant hz
  generalize j.round = round at hj
  subst hj
  have hplace : k.cmd.param 40 8 + 32 * k.next = a := ha.symm
  have hrecords := State.scoreRecords_last_scored (z := z) (b := b) (j := { k with round := round }) (w := z.natAt (a + 16) 4) (fuel := k.cmd.param 36 4) (budget := 65536)
    (hscores ▸ hfound) hmodel hlast (State.scoreRecord_without_model hmodel hplace hread hstep hended hcount) (by rwa [hplace])
  rw [hplace] at hrecords
  exact scoreStep_closes hscore hopened hparked hruns hmodel hgrant hz hlast hrecords (State.writePlace_acts .refl (by decide)) hfound hlast.ge

theorem scoreStep_leaves_out_last (hscore : lookup b s.scores = some k) (hopened : k.opened = true) (hparked : k.parked = false)
    (hruns : s.berthRuns b k = true) (hmodel : k.model = none) (hgrant : ((s.at now).sees hv).turnOf b 3 b = some t0)
    (hfound : lookup b t0.scores = some j) (hj : j = { k with round := j.round })
    (hz : z = ((t0.actFor s.spine.epoch.toNat b).ringing).dropRegions (bitsBelow 8 (t0.berthPaves 0 b)))
    (ha : a = k.cmd.param 40 8 + 32 * k.next) (hlast : k.next + 1 = k.cmd.param 36 4) (hbad : (z.readStatus a 32).isSome = true) :
    Reaches (execScoreStep b now hv s) fun t => t.commits = s.commits ++ [⟨.scoreClose b, []⟩] ∧ t.mem = z.mem ∧
      lookup b t.scores = some { k with next := k.next + 1, fed := 0, unscored := k.unscored + 1, round := j.round + 1 } := by
  obtain ⟨-, hscores⟩ := scoreStep_grants hgrant hz
  generalize j.round = round at hj
  subst hj
  have hrecords := State.scoreRecords_last_left_out (z := z) (b := b) (j := { k with round := round }) (fuel := k.cmd.param 36 4) (budget := 65536)
    (hscores ▸ hfound) hmodel hlast (State.scoreRecord_unreadable (by rwa [← ha]))
  obtain ⟨t, hnext, hcommits, hmem, hscored, -⟩ :=
    scoreStep_closes hscore hopened hparked hruns hmodel hgrant hz hlast hrecords .refl hfound hlast.ge
  exact ⟨t, hnext, hcommits, hmem, hscored⟩

end

/-- Settles O46: each row's own lemmas, in the order of the clauses. -/
theorem preemptionAndScoresComplete : Obligations.PreemptionAndScoresComplete :=
  ⟨fun _ _ _ _ _ => preempt_parks_serving, fun _ _ _ _ _ => preempt_waits_serving, fun _ _ _ _ _ => preempt_parks_train,
   fun _ _ _ _ _ => preempt_waits_train, fun _ _ _ _ _ => preempt_parks_score, fun _ _ _ _ _ => preempt_resumes_serving,
   fun _ _ _ _ _ => preempt_resumes_train, fun _ _ _ _ _ => preempt_resumes_score, fun _ _ _ _ _ => preempt_shares_serving,
   fun _ _ _ _ _ => preempt_shares_train, fun _ _ _ _ _ => preempt_shares_score, fun _ _ _ _ _ => preempt_abandons_turn,
   fun _ _ _ _ => preempt_finds_no_turn,
   fun _ _ _ _ hready hok hmodel => score_awaits hready (State.scoreStart_without_model hok hmodel),
   fun _ _ _ _ hready hok hmodel hranges hgood hrow => score_awaits hready (State.scoreStart_with_model hok hmodel hranges hgood hrow),
   fun _ _ _ _ _ _ _ _ _ => scoreStep_scores_last, fun _ _ _ _ _ _ _ _ _ => scoreStep_leaves_out_last⟩

end Sys2Proof.Machine
end

section
/-! SUPPORT. Training services: what a report, the end of a step, a stop and the start of an attempt leave in the service's own entry
(R484 to R489). -/

namespace Sys2Proof.Machine

open Sys2Proof

section
variable {s : State} {n : Nat} {k : Train}

/-- A step's report leaves its status with the service. -/
theorem State.stepReport_train (hlookup : lookup n s.trains = some k) (st : Nat) :
    lookup n (s.stepReport n st).trains = some { k with last := st } := by
  rw [State.stepReport, hlookup]
  dsimp -zeta only
  extract_lets t1 t2
  have h1 : Acts [.draws, .regs, .mem, .host, .queues, .weights, .logbook, .log, .outbox] s t1 :=
    State.setNat_acts (State.trainReport_acts .refl (by decide)) (by decide)
  have h2 : lookup n t2.trains = some { k with last := st } := State.updTrain_lookup (by rw [h1.trains (by decide), hlookup]) _
  split
  · exact h2
  · rw [(State.trainTurnFails_acts (ps := [.turns, .lockage]) .refl (by decide)).trains (by decide), h2]

/-- The end of a step: the service is idle before its next step. -/
theorem State.endStep_train (hlookup : lookup n s.trains = some k) :
    ∃ x, lookup n (s.endStep n).trains = some x ∧ x.phase = .idle ∧ x.index = k.index + 1 ∧ x.last = k.last ∧ x.committed = k.committed ∧
      x.version = k.version := by
  rw [State.endStep, hlookup]
  dsimp -zeta only
  extract_lets t1 t2 t3 last
  have h1 : Acts [.draws, .regs, .mem, .cmds, .links, .colls, .turns, .lockage, .mgmt, .outbox] s t1 := State.dropTrainColls_acts .refl (by decide)
  have h2 := State.updTrain_lookup (s := t1) (by rw [h1.trains (by decide), hlookup]) fun k : Train =>
    { k with phase := .idle, index := k.index + 1, pass := 0, attempt := 0, micros := [], records := [], order := [], forwards := 0,
             backwards := 0, fwd := [], bwd := [], tags := [], invalid := [], again := none, op := none, fwdPosted := 0, bwdPosted := 0,
             sendWaits := false, dirty := false, counts := [], parked := k.parked || !k.parking.isEmpty || s.turnParks n, parking := [] }
  have h3 : Acts [.cmds] t2 t3 := State.answerParking_acts .refl (by decide)
  rw [← h3.trains (by decide)] at h2
  split
  · exact ⟨_, h2, rfl, rfl, rfl, rfl, rfl⟩
  · split
    · exact ⟨_, State.updTrain_lookup h2 _, rfl, rfl, rfl, rfl, rfl⟩
    · exact ⟨_, h2, rfl, rfl, rfl, rfl, rfl⟩

/-- A service that has stopped with a status, and that has ended with it or not. -/
def Train.stoppedWith (k : Train) (st : Nat) (ended : Bool) : Train :=
  { k with stopped := some st, last := st, phase := .idle, parked := k.parked || !k.parking.isEmpty, parking := [], ended := ended }

/-- A service that stops is idle and bears the status it stopped with; nothing else of it changes, but that it may have ended. -/
theorem State.stopTrain_train (hlookup : lookup n s.trains = some k) (st : Nat) :
    ∃ ended, lookup n (s.stopTrain n st).trains = some (k.stoppedWith st ended) := by
  rw [State.stopTrain, hlookup]
  dsimp -zeta only
  extract_lets t1 t2 t3
  have h1 : lookup n t1.trains = some { k with last := st } := by
    rw [(State.dropTrainColls_acts (s := s.stepReport n st)
      (ps := [.draws, .regs, .mem, .cmds, .links, .colls, .turns, .lockage, .mgmt, .outbox]) .refl (by decide)).trains (by decide)]
    exact State.stepReport_train hlookup st
  have h2 : lookup n t2.trains = some (k.stoppedWith st k.ended) := by
    rw [(State.answerParking_acts (ps := [.cmds]) .refl (by decide)).trains (by decide)]
    exact State.updTrain_lookup h1 _
  have h3 : Acts [.draws, .regs, .mem, .host, .queues, .weights, .logbook, .log, .outbox] t2 t3 :=
    State.raise_acts (State.trainReport_acts .refl (by decide)) (by decide)
  rw [← h3.trains (by decide)] at h2
  split
  · exact ⟨true, State.updTrain_lookup h2 _⟩
  · exact ⟨k.ended, h2⟩

/-- An attempt's REDUCE_SCATTERs are issued, one for each part. -/
theorem State.startAttempt_train (hlookup : lookup n s.trains = some k) :
    lookup n (s.startAttempt n).trains =
      some { k with phase := .reducing, dirty := false, counts := [], issued := k.issued + k.plan.parts.length } := by
  rw [State.startAttempt, hlookup]
  dsimp -zeta only
  extract_lets t
  rw [(Acts.foldl (ps := [.draws, .regs, .mem, .cmds, .units, .weights, .links, .colls, .turns, .lockage, .mgmt, .log, .outbox]) .refl
    fun _ _ h => State.issue_acts h (fun _ h => State.reduceRun_acts h (by decide)) (by decide)).trains (by decide)]
  exact State.updTrain_lookup hlookup _

end

end Sys2Proof.Machine
end

section
/-! PROOF. The decisions of a training step (R485 to R487): the arms of TrainingDecisionsApply. -/

namespace Sys2Proof.Machine

open Sys2Proof

section
variable {s : State} {n : Nat} {k : Train}

/-! ## How a step moves on -/

/-- A service whose votes are decided has nothing to move on. -/
theorem State.trainProgress_finiteKnown (hlookup : lookup n s.trains = some k) {b : Bool} (hphase : k.phase = .finiteKnown b) :
    s.trainProgress n = s := by
  rw [State.trainProgress, hlookup]
  simp only [hphase]

theorem State.trainProgress_decided (hlookup : lookup n s.trains = some k) {b : Bool} (hphase : k.phase = .decided b) :
    s.trainProgress n = s := by
  rw [State.trainProgress, hlookup]
  simp only [hphase]

/-- The FINITE vote of the data group, where no pipeline votes after it. -/
theorem State.trainProgress_finite (hlookup : lookup n s.trains = some k) (hphase : k.phase = .finiteData) (hgroup : k.cmd.pipeGroup = none)
    {r0 : Nat} (hresult : s.takeResult n 0x5005 (k.nextSeq - 1) = some (0, r0)) :
    s.trainProgress n = s.updTrain n fun k => { k with phase := .finiteKnown (r0.testBit 0) } := by
  rw [State.trainProgress, hlookup]
  simp only [hphase, hresult, hgroup]

/-- A FINITE vote that failed stops the service. -/
theorem State.trainProgress_failed (hlookup : lookup n s.trains = some k) (hphase : k.phase = .finiteData) {st r0 : Nat}
    (hresult : s.takeResult n 0x5005 (k.nextSeq - 1) = some (st + 1, r0)) : s.trainProgress n = s.stopTrain n stTrainFailed := by
  rw [State.trainProgress, hlookup]
  simp only [hphase, hresult]

/-- The state in which an event of a training service acts. -/
theorem State.inTrain_at_acts (s : State) (now n : Nat) : Acts [.clock, .acting] s ((s.at now).inTrain n) :=
  State.inTrain_acts (State.at_acts .refl (by decide)) (by decide)

theorem State.takeResult_inTrain_at (s : State) (now n op seq : Nat) : ((s.at now).inTrain n).takeResult n op seq = s.takeResult n op seq := by
  rw [State.takeResult, (s.inTrain_at_acts now n).colls (by decide), ← State.takeResult]

theorem State.reduces_inTrain_at (s : State) (now n : Nat) : ((s.at now).inTrain n).reduces n = s.reduces n := by
  rw [State.reduces, (s.inTrain_at_acts now n).colls (by decide), ← State.reduces]

/-! ## STEP_FINITE_RESULT -/

theorem State.finiteResult_of_true {z : State} (hprogress : s.trainProgress n = z) (hlookup : lookup n z.trains = some k)
    (hphase : k.phase = .finiteKnown true) : s.finiteResult n = z.startAttempt n := by
  rw [State.finiteResult, hprogress]
  simp only [hlookup, hphase]

theorem State.finiteResult_of_false {z : State} (hprogress : s.trainProgress n = z) (hlookup : lookup n z.trains = some k)
    (hphase : k.phase = .finiteKnown false) :
    s.finiteResult n = (((z.sat32 (trainReg n 0x24) 1).raise evTrain 2).stepReport n stTrainSkipped).endStep n := by
  rw [State.finiteResult, hprogress]
  simp only [hlookup, hphase]

theorem State.finiteResult_of_idle {z : State} (hprogress : s.trainProgress n = z) (hlookup : lookup n z.trains = some k)
    (hphase : k.phase = .idle) : s.finiteResult n = z := by
  rw [State.finiteResult, hprogress]
  simp only [hlookup, hphase]

variable {now : Nat}

theorem stepFiniteResult_skips (hlookup : lookup n s.trains = some k) (hphase : k.phase = .finiteKnown false) :
    Reaches (execStepFiniteResult n now s) fun t => ∃ x, lookup n t.trains = some x ∧ x.phase = .idle ∧ x.index = k.index + 1 ∧
      x.last = stTrainSkipped ∧ x.committed = k.committed ∧ x.version = k.version := by
  have hfound : lookup n ((s.at now).inTrain n).trains = some k := by rw [(s.inTrain_at_acts now n).trains (by decide), hlookup]
  refine runs_reaches_to (State.finiteResult_of_false (State.trainProgress_finiteKnown hfound hphase) hfound hphase) ?_
  have hcount : Acts [.regs, .outbox] ((s.at now).inTrain n) ((((s.at now).inTrain n).sat32 (trainReg n 0x24) 1).raise evTrain 2) :=
    State.raise_acts (State.sat32_acts .refl (by decide)) (by decide)
  obtain ⟨x, hx, hidle, hindex, hlast, hcommitted, hversion⟩ :=
    State.endStep_train (State.stepReport_train (by rw [hcount.trains (by decide), hfound]) stTrainSkipped)
  exact ⟨x, hx, hidle, hindex, hlast, hcommitted, hversion⟩

theorem stepFiniteResult_starts (hlookup : lookup n s.trains = some k) (hphase : k.phase = .finiteKnown true) :
    Reaches (execStepFiniteResult n now s) fun t => ∃ x, lookup n t.trains = some x ∧ x.phase = .reducing ∧ x.dirty = false ∧
      x.index = k.index ∧ x.issued = k.issued + k.plan.parts.length := by
  have hfound : lookup n ((s.at now).inTrain n).trains = some k := by rw [(s.inTrain_at_acts now n).trains (by decide), hlookup]
  exact runs_reaches_to (State.finiteResult_of_true (State.trainProgress_finiteKnown hfound hphase) hfound hphase)
    ⟨_, State.startAttempt_train hfound, rfl, rfl, rfl, rfl⟩

theorem stepFiniteResult_takes_vote (hlookup : lookup n s.trains = some k) (hphase : k.phase = .finiteData) (hgroup : k.cmd.pipeGroup = none)
    (hresult : s.takeResult n 0x5005 (k.nextSeq - 1) = some (0, 1)) :
    Reaches (execStepFiniteResult n now s) fun t => ∃ x, lookup n t.trains = some x ∧ x.phase = .reducing ∧ x.index = k.index := by
  have hfound : lookup n ((s.at now).inTrain n).trains = some k := by rw [(s.inTrain_at_acts now n).trains (by decide), hlookup]
  have hvoted := State.updTrain_lookup hfound fun k => { k with phase := .finiteKnown (Nat.testBit 1 0) }
  exact runs_reaches_to (State.finiteResult_of_true
    (State.trainProgress_finite hfound hphase hgroup ((State.takeResult_inTrain_at ..).trans hresult)) hvoted rfl)
    ⟨_, State.startAttempt_train hvoted, rfl, rfl⟩

theorem stepFiniteResult_stops {st r0 : Nat} (hlookup : lookup n s.trains = some k) (hphase : k.phase = .finiteData)
    (hresult : s.takeResult n 0x5005 (k.nextSeq - 1) = some (st + 1, r0)) :
    Reaches (execStepFiniteResult n now s) fun t => ∃ x, lookup n t.trains = some x ∧ x.phase = .idle ∧ x.stopped = some stTrainFailed := by
  have hfound : lookup n ((s.at now).inTrain n).trains = some k := by rw [(s.inTrain_at_acts now n).trains (by decide), hlookup]
  obtain ⟨ended, hx⟩ := State.stopTrain_train hfound stTrainFailed
  exact runs_reaches_to (State.finiteResult_of_idle
    (State.trainProgress_failed hfound hphase ((State.takeResult_inTrain_at ..).trans hresult)) hx rfl) ⟨_, hx, rfl, rfl⟩

/-! ## STEP_DECISION -/

/-- A committed step: the service has its next version and one more committed step, and is idle before its next step. -/
theorem State.commitStep_train (hlookup : lookup n s.trains = some k) (peers : List (List (List (Nat × Nat)))) :
    ∃ x, lookup n (s.commitStep n peers).trains = some x ∧ x.phase = .idle ∧ x.index = k.index + 1 ∧ x.committed = k.committed + 1 ∧
      x.last = stSuccess ∧ x.version = if (k.version + 1) % 2 ^ 32 = 0 then 1 else (k.version + 1) % 2 ^ 32 := by
  obtain ⟨u, hu⟩ : ∃ u, u = s.commitStep n peers := ⟨_, rfl⟩
  rw [← hu]
  rw [State.commitStep, hlookup] at hu
  dsimp -zeta only at hu
  extract_lets c l parts own t1 t2 v0 v t3 t4 t5 t6 t7 at hu
  have h2 : Acts [.regs, .keepsake, .outbox] s t2 := Acts.foldl (State.setLane_acts .refl (by decide)) fun _ _ h => State.noteShadow_acts h (by decide)
  have h3 : Acts [.regs, .cmds, .hist, .colls] t2 (t3.addNarrowCounts k) :=
    State.addNarrowCounts_acts (State.histWrite_acts (State.releaseRetained_acts .refl (by decide)) (by decide)) (by decide)
  have h4 : lookup n t4.trains = some { k with version := v, committed := k.committed + 1, issued := k.issued + 1 } :=
    State.updTrain_lookup (by rw [h3.trains (by decide), h2.trains (by decide), hlookup]) _
  have h5 : Acts [.regs, .outbox] t4 t5 := State.raise_acts (State.sat32_acts (State.setNat_acts .refl (by decide)) (by decide)) (by decide)
  have h6 := State.stepReport_train (by rw [h5.trains (by decide), h4]) stSuccess
  have h7 : Acts [.draws, .regs, .mem, .weights, .log, .outbox] t6 t7 := Acts.foldl .refl fun _ _ h => State.writeRatios_acts h (by decide)
  obtain ⟨x, hx, hidle, hindex, hlast, hcommitted, hversion⟩ := State.endStep_train (s := t7) (by rw [h7.trains (by decide), h6])
  exact ⟨x, hu ▸ hx, hidle, hindex, hcommitted, hlast, hversion⟩

theorem stepDecision_commits {ratios : List (List (List (Nat × Nat)))} (hlookup : lookup n s.trains = some k) (hphase : k.phase = .decided true) :
    Reaches (execStepDecision n ratios now s) fun t => ∃ x, lookup n t.trains = some x ∧ x.phase = .idle ∧ x.index = k.index + 1 ∧
      x.committed = k.committed + 1 ∧ x.last = stSuccess ∧
      x.version = if (k.version + 1) % 2 ^ 32 = 0 then 1 else (k.version + 1) % 2 ^ 32 := by
  have hfound : lookup n ((s.at now).inTrain n).trains = some k := by rw [(s.inTrain_at_acts now n).trains (by decide), hlookup]
  have hcommits : ((s.at now).inTrain n).stepDecision n ratios = ((s.at now).inTrain n).commitStep n ratios := by
    rw [State.stepDecision, State.trainProgress_decided hfound hphase]
    simp only [hfound, hphase, if_true]
  obtain ⟨x, hx, h⟩ := State.commitStep_train hfound ratios
  exact runs_reaches_to hcommits ⟨x, hx, h⟩

/-! ## ATTEMPT_RETRY -/

/-- A repeat whose contributions were all read waits for its ready vote. -/
theorem State.attemptRetry_train (hlookup : lookup n s.trains = some k) (hphase : k.phase = .decided false) (hleft : k.attempt < k.cmd.param 58 1)
    (hread : ∀ r ∈ s.reduces n, r.ended.map Prod.fst ≠ some stUncorrectable) :
    lookup n (s.attemptRetry n).trains = some { k with phase := .readyVote, attempt := k.attempt + 1, issued := k.issued + 1 } := by
  have hmore : ¬ k.cmd.param 58 1 ≤ k.attempt := by omega
  rw [State.attemptRetry, State.trainProgress_decided hlookup hphase]
  extract_lets unread
  have hunread : unread = false := by
    refine List.any_eq_false.2 fun r hr => ?_
    have h := hread r hr
    cases hended : r.ended with
    | none => simp
    | some e => simpa [hended] using h
  rw [hlookup]
  dsimp -zeta only
  rw [if_neg (not_not_intro hphase), if_neg hmore, hunread, Bool.false_and, if_neg Bool.false_ne_true, Bool.false_and,
    if_neg Bool.false_ne_true, if_neg Bool.false_ne_true]
  extract_lets t0 t1 t2
  have h1 : Acts [.regs, .colls, .outbox] s ((t1.sat32 (trainReg n 0x28) 1).raise evTrain 1) :=
    State.raise_acts (State.sat32_acts (Acts.set_colls .refl (by decide)) (by decide)) (by decide)
  have h2 : lookup n t2.trains = some { k with phase := .readyVote, attempt := k.attempt + 1, issued := k.issued + 1 } :=
    State.updTrain_lookup (by rw [h1.trains (by decide), hlookup]) _
  rw [(State.issueVote_acts (s := t2) (ps := [.draws, .regs, .mem, .cmds, .units, .weights, .links, .colls, .turns, .lockage, .mgmt, .log,
    .outbox]) .refl (by decide)).trains (by decide), h2]

theorem attemptRetry_votes (hlookup : lookup n s.trains = some k) (hphase : k.phase = .decided false) (hleft : k.attempt < k.cmd.param 58 1)
    (hread : ∀ r ∈ s.reduces n, r.ended.map Prod.fst ≠ some stUncorrectable) :
    Reaches (execAttemptRetry n now s) fun t =>
      lookup n t.trains = some { k with phase := .readyVote, attempt := k.attempt + 1, issued := k.issued + 1 } := by
  have hfound : lookup n ((s.at now).inTrain n).trains = some k := by rw [(s.inTrain_at_acts now n).trains (by decide), hlookup]
  have hread : ∀ r ∈ ((s.at now).inTrain n).reduces n, r.ended.map Prod.fst ≠ some stUncorrectable := by rwa [State.reduces_inTrain_at]
  exact runs_reaches_to rfl (State.attemptRetry_train hfound hphase hleft hread)

theorem attemptRetry_stops (hlookup : lookup n s.trains = some k) (hphase : k.phase = .decided false) (hspent : k.cmd.param 58 1 ≤ k.attempt) :
    Reaches (execAttemptRetry n now s) fun t => ∃ x, lookup n t.trains = some x ∧ x.phase = .idle ∧ x.stopped = some stTrainFailed ∧
      x.version = k.version ∧ x.committed = k.committed := by
  have hfound : lookup n ((s.at now).inTrain n).trains = some k := by rw [(s.inTrain_at_acts now n).trains (by decide), hlookup]
  have hstops : ((s.at now).inTrain n).attemptRetry n = ((s.at now).inTrain n).stopTrain n stTrainFailed := by
    rw [State.attemptRetry, State.trainProgress_decided hfound hphase]
    simp [hfound, hphase, hspent]
  obtain ⟨ended, hx⟩ := State.stopTrain_train hfound stTrainFailed
  exact runs_reaches_to hstops ⟨_, hx, rfl, rfl, rfl, rfl⟩

end

/-- Settles O41: each row's own lemmas, in the order of the clauses. -/
theorem trainingDecisionsApply : Obligations.TrainingDecisionsApply :=
  ⟨fun _ _ _ _ => stepFiniteResult_skips, fun _ _ _ _ => stepFiniteResult_starts, fun _ _ _ _ => stepFiniteResult_takes_vote,
   fun _ _ _ _ _ _ => stepFiniteResult_stops, fun _ _ _ _ _ => stepDecision_commits, fun _ _ _ _ => attemptRetry_votes,
   fun _ _ _ _ => attemptRetry_stops⟩

end Sys2Proof.Machine
end

section
/-! PROOF. SERVE_CLOSE (R459): the statement speaks of every service at rest, and one whose interrupted step is still to run again (R324, R326) waits
for it before it closes. -/

namespace Sys2Proof.Machine

open Sys2Proof

/-! ## The state -/

/-- SERVE_CLOSE of service 0, with FINISH. -/
def finishClose : Cmd := acceptedBefore 0x6001 (zeros 32)

/-- SERVE_OPEN of service 0 without a draft set. -/
def plainOpen : Cmd := acceptedBefore 0x6000 (zeros 2 ++ leBytes 1 0xFF ++ zeros 61)

/-- An open service of berth 0 whose step an error interrupted: the step is over, and it is to run again. -/
def interruptedService : Serving :=
  { State.reset.newServing plainOpen with opened := true, again := some ⟨1, 1, 0, []⟩ }

/-- The reset device with that service and no other work, and the SERVE_CLOSE ready. -/
def interruptedState : State := { State.reset with serving := [(0, interruptedService)], inflight := [finishClose] }

theorem interruptedState_ready : interruptedState.Ready 0x6001 ⟨1, 7⟩ finishClose :=
  ⟨rfl, rfl, rfl, by simp [State.earlier, interruptedState, finishClose, acceptedBefore, Cmd.is], by simp [finishClose, acceptedBefore]⟩

/-! ## The close -/

/-- The service's closing commit does not wait yet. -/
theorem interruptedState_serveClose : Reaches (exec (.serveClose ⟨1, 7⟩ ⟨[], []⟩) interruptedState) fun t => t.commits = [] :=
  interruptedState_ready.reaches (by decide)

/-- Refutes O36: a service whose interrupted step is to run again waits for it, so that its SERVE_CLOSE makes no commit wait. -/
theorem not_servicesOpenAndClose : ¬ Obligations.ServicesOpenAndClose := by
  intro h
  obtain ⟨-, -, hclose, -⟩ := h
  obtain ⟨t, hnone, -, hwaits, -⟩ := interruptedState_serveClose.both
    (hclose interruptedState ⟨1, 7⟩ finishClose ⟨[], []⟩ interruptedService interruptedState_ready rfl rfl rfl rfl
      rfl rfl rfl rfl rfl)
  rw [hnone] at hwaits
  exact absurd hwaits (by decide)

end Sys2Proof.Machine
end

section
/-! SUPPORT. The passes of a training step (R474 to R483): what they leave of the step that they run. -/

namespace Sys2Proof.Machine

open Sys2Proof

/-! ## The step that a pass belongs to -/

/-- Two states of a service are in one pass of one step: the same micro-batches and records, in the same order. -/
def Train.SamePass (x k : Train) : Prop :=
  x.micros = k.micros ∧ x.records = k.records ∧ x.tokenNorm = k.tokenNorm ∧ x.order = k.order ∧ x.pass = k.pass ∧ x.round = k.round

/-- Service n is in the pass that k was in. -/
def State.InPass (s : State) (n : Nat) (k : Train) : Prop := ∃ x, lookup n s.trains = some x ∧ x.SamePass k

section
variable {s : State} {n : Nat} {k : Train}

theorem State.InPass.of_trains {t : State} (h : s.InPass n k) (htrains : t.trains = s.trains) : t.InPass n k := by
  obtain ⟨x, hx, hsame⟩ := h
  exact ⟨x, htrains ▸ hx, hsame⟩

/-- An update that keeps to the pass keeps the service in it. -/
theorem State.InPass.updTrain (h : s.InPass n k) {f : Train → Train} (hf : ∀ x : Train, (f x).SamePass x) : (s.updTrain n f).InPass n k := by
  obtain ⟨x, hx, hmicros, hrecords, hnorm, horder, hpass, hround⟩ := h
  obtain ⟨gmicros, grecords, gnorm, gorder, gpass, ground⟩ := hf x
  exact ⟨f x, State.updTrain_lookup hx f, gmicros.trans hmicros, grecords.trans hrecords, gnorm.trans hnorm, gorder.trans horder,
    gpass.trans hpass, ground.trans hround⟩

theorem State.InPass.ite {t : State} {c : Prop} [Decidable c] (hs : s.InPass n k) (ht : t.InPass n k) : (if c then s else t).InPass n k := by
  split
  · exact hs
  · exact ht

theorem State.InPass.foldl {α : Type} {f : State → α → State} {l : List α} (hs : s.InPass n k) (hf : ∀ u x, u.InPass n k → (f u x).InPass n k) :
    (l.foldl f s).InPass n k :=
  List.foldlRecOn (motive := fun u : State => u.InPass n k) l f hs fun u hu x _ => hf u x hu

theorem State.InPass.stopTrain (h : s.InPass n k) (st : Nat) : (s.stopTrain n st).InPass n k := by
  obtain ⟨x, hx, hsame⟩ := h
  obtain ⟨ended, hstopped⟩ := State.stopTrain_train hx st
  exact ⟨_, hstopped, hsame⟩

theorem State.InPass.takeSends (h : s.InPass n k) : (s.takeSends n).InPass n k := by
  refine h.foldl fun u x hu => ?_
  extract_lets waits t
  have ht : t.InPass n k :=
    (hu.of_trains (t := { u with colls := u.colls.erase x }) rfl).updTrain fun _ => ⟨rfl, rfl, rfl, rfl, rfl, rfl⟩
  exact .ite (ht.of_trains ((State.add64_acts (ps := [.regs]) .refl (by decide)).trains (by decide))) ht

theorem State.InPass.takeEntries (h : s.InPass n k) (x : Train) : (s.takeEntries n x).InPass n k := by
  refine h.foldl fun u e hu => (hu.of_trains (t := { u with colls := u.colls.erase e }) rfl).updTrain fun y => ?_
  split <;> exact ⟨rfl, rfl, rfl, rfl, rfl, rfl⟩

theorem State.InPass.issueOpen (h : s.InPass n k) (o : CollOwner) (c : Cmd) : (s.issue o c fun u => u.openColl c o).InPass n k :=
  h.of_trains ((State.issue_acts (ps := [.regs, .cmds, .colls, .turns, .lockage]) .refl (fun _ hx => State.openColl_acts hx (by decide))
    (by decide)).trains (by decide))

theorem State.InPass.postPound (h : s.InPass n k) (forward : Bool) (fuel : Nat) : (State.postPound s n forward fuel).InPass n k := by
  induction fuel generalizing s with
  | zero => exact h
  | succ fuel ih =>
    rw [State.postPound]
    split
    · exact h
    · extract_lets i
      split
      · refine .ite h (ih ((h.issueOpen ..).updTrain fun x => ?_))
        split <;> exact ⟨rfl, rfl, rfl, rfl, rfl, rfl⟩
      · exact h

theorem State.InPass.postRecvs (h : s.InPass n k) : (s.postRecvs n).InPass n k := (h.postPound true 4).postPound false 4

theorem State.InPass.microInvalid (h : s.InPass n k) (micro : Nat) (counts : Bool) : (s.microInvalid n micro counts).InPass n k := by
  have ht := h.updTrain (f := fun k => { k with invalid := if k.invalid.contains micro then k.invalid else k.invalid ++ [micro] })
    fun _ => ⟨rfl, rfl, rfl, rfl, rfl, rfl⟩
  exact .ite (ht.of_trains ((State.raise_acts (ps := [.regs, .outbox]) (State.sat32_acts .refl (by decide)) (by decide)).trains (by decide))) ht

theorem State.InPass.sendPipe (h : s.InPass n k) (x : Train) (group dir seq : Nat) (body : List Byte) :
    (s.sendPipe n x group dir seq body).InPass n k := by
  unfold State.sendPipe
  extract_lets c t
  have ht : t.InPass n k :=
    h.of_trains ((State.issue_acts (ps := [.draws, .regs, .mem, .cmds, .units, .weights, .links, .colls, .turns, .lockage, .mgmt, .log, .outbox])
      .refl (fun _ hx => State.sendRun_acts hx (by decide)) (by decide)).trains (by decide))
  split
  · exact ht
  · exact (State.InPass.ite (ht.of_trains ((State.sat32_acts (ps := [.regs]) .refl (by decide)).trains (by decide))) ht).updTrain
      fun _ => ⟨rfl, rfl, rfl, rfl, rfl, rfl⟩

theorem State.InPass.beginOp (h : s.InPass n k) (x : Train) (forward : Bool) : (s.beginOp n x forward).InPass n k := by
  unfold State.beginOp
  extract_lets reads micro e t came already
  have ht : t.InPass n k := h.of_trains ((State.add64_acts (ps := [.regs]) .refl (by decide)).trains (by decide))
  split
  · exact (h.of_trains ((State.noteRanges_acts (ps := [.draws, .regs, .mem, .units, .weights, .log, .outbox]) .refl (by decide)).trains (by decide))).stopTrain _
  · exact .ite (ht.updTrain fun _ => ⟨rfl, rfl, rfl, rfl, rfl, rfl⟩) (ht.updTrain fun _ => ⟨rfl, rfl, rfl, rfl, rfl, rfl⟩)

theorem State.InPass.gatherNext (h : s.InPass n k) (x : Train) (o : PassOp) (e : PlanTensor) : (s.gatherNext n x o e).InPass n k := by
  unfold State.gatherNext
  extract_lets c t lost t2
  have ht : t.InPass n k := h.updTrain fun _ => ⟨rfl, rfl, rfl, rfl, rfl, rfl⟩
  have ht2 : t2.InPass n k := .ite (ht.of_trains ((State.setCtxBit_acts (ps := [.regs]) .refl (by decide)).trains (by decide))) ht
  exact ht2.of_trains ((State.issue_acts
    (ps := [.draws, .regs, .mem, .cmds, .units, .weights, .links, .colls, .turns, .lockage, .mgmt, .log, .outbox])
    .refl (fun _ hx => State.gatherRun_acts hx (by decide)) (by decide)).trains (by decide))

theorem State.InPass.endOp (h : s.InPass n k) (x : Train) (o : PassOp) : (s.endOp n x o).InPass n k := by
  unfold State.endOp
  extract_lets p micro bad t values t2 d body t3
  have ht : t.InPass n k := h.updTrain fun y => by split <;> exact ⟨rfl, rfl, rfl, rfl, rfl, rfl⟩
  have hcounted (a b c : Nat) (y : Train) : (t.stashCounted y a b c).InPass n k :=
    ht.of_trains ((State.stashCounted_acts (ps := [.draws, .regs]) .refl (by decide)).trains (by decide))
  have ht2 : t2.InPass n k := .ite (ht.microInvalid ..) (.ite (hcounted ..) (hcounted ..))
  have ht3 : t3.InPass n k := by
    unfold t3
    split
    · have hdraw : t2.draw.2.InPass n k := ht2.of_trains rfl
      exact .ite (.ite (hdraw.sendPipe ..) ht2) (.ite (hdraw.sendPipe ..) ht2)
    · exact ht2
  exact ht3.takeSends.postRecvs

theorem State.InPass.runPass (h : s.InPass n k) (fuel : Nat) : (State.runPass s n fuel).InPass n k := by
  induction fuel generalizing s with
  | zero => exact h
  | succ fuel ih =>
    rw [State.runPass]
    split
    · exact h
    · refine .ite h (.ite (h.stopTrain _) (.ite h ?_))
      split
      · extract_lets o t
        have ht : t.InPass n k := h.of_trains rfl
        split
        · exact ih (ht.gatherNext ..)
        · exact ih (ht.endOp ..)
      · exact .ite h (.ite (.ite (ih (h.beginOp ..)) h) (.ite (ih (h.beginOp ..)) h))

theorem State.InPass.gradients (h : s.InPass n k) : (s.gradients n).InPass n k := by
  unfold State.gradients
  split
  · exact h
  · refine .ite ((h.of_trains ((State.noteRanges_acts (ps := [.draws, .regs, .mem, .units, .weights, .log, .outbox]) .refl
      (by decide)).trains (by decide))).stopTrain _) ?_
    extract_lets t t2
    have ht : t.InPass n k :=
      h.of_trains ((State.formParts_acts (ps := [.draws, .regs, .mem, .units, .weights, .log, .outbox]) .refl (by decide)).trains (by decide))
    have ht2 : t2.InPass n k := ht.updTrain fun _ => ⟨rfl, rfl, rfl, rfl, rfl, rfl⟩
    exact ht2.of_trains ((State.issueVote_acts (ps := [.draws, .regs, .mem, .cmds, .units, .weights, .links, .colls, .turns, .lockage, .mgmt, .log,
      .outbox]) .refl (by decide)).trains (by decide))

theorem State.InPass.passOver (h : s.InPass n k) (bad : List Nat) : (s.passOver n bad).InPass n k := by
  unfold State.passOver
  split
  · exact h
  · exact .ite h.gradients (.ite (h.stopTrain _) (h.updTrain fun _ => ⟨rfl, rfl, rfl, rfl, rfl, rfl⟩))

theorem State.InPass.passDone (h : s.InPass n k) : (s.passDone n).InPass n k := by
  unfold State.passDone
  split
  · exact h
  · refine .ite h (State.InPass.passOver ?_ _)
    split
    · exact .ite (h.sendPipe ..) h
    · exact h

/-- Whatever runs of a pass, the service stays in it. -/
theorem State.InPass.runOn (h : s.InPass n k) : (s.runOn n).InPass n k := by
  unfold State.runOn
  split
  · exact h
  · exact (State.InPass.runPass (.ite h ((h.takeSends.takeEntries _).postRecvs)) _).passDone

end

end Sys2Proof.Machine
end

section
/-! PROOF. Training services open, begin steps and close (R464, R470, R489): the arms of TrainingOpensAndCloses. -/

namespace Sys2Proof.Machine

open Sys2Proof

/-! ## TRAIN_STEP -/

/-- The state in which a TRAIN_STEP waits for its opening commit. -/
def State.trainAwaits (z : State) (c : Cmd) (k : Train) : State :=
  (({ z with trains := insert (c.param 32 1) k z.trains } : State).running c.ref).awaitCommit (.trainOpen c.ref (c.param 32 1))

theorem State.trainStep_awaits {z : State} {c : Cmd} {p : Plan} {pounds : List Nat} (hp : p = z.readPlan (c.param 72 8))
    (hok : theRefusal (z.trainFails c ++ [z.rangesFail c (z.planReads c) false 72]) = none) (hreads : z.rangesStatus (z.planReads c) = none)
    (hplan : p.fails (z.bytesAt (c.param 72 8) 96) (z.dataSize c) (z.stage c) (z.stages c) = none) (hlane : z.planLaneFails c p = none)
    (hranges : ((z.planRanges c p).findSome? fun x => z.rangeOf c x.1 x.2 true { reach := true }) = none)
    (hpounds : z.poundsOf c p = some pounds) (hstash : z.stashNeeds c p ≤ c.param 96 8) (hwork : p.workNeeds ≤ c.param 120 8) :
    z.trainStep c = z.trainAwaits c (z.newTrain c p pounds) := by
  have hroom : ¬ (decide (c.param 96 8 < z.stashNeeds c p) || decide (c.param 120 8 < p.workNeeds)) = true := by
    simp only [Bool.or_eq_true, decide_eq_true_eq]
    omega
  rw [State.trainStep, ← hp]
  simp only [hok, hreads, hplan, hlane, hranges, hpounds, if_neg hroom, State.trainAwaits]

section
variable {s : State} {r : CmdRef} {k : Cmd} {hv : HostView}

/-- A TRAIN_STEP that comes to wait for its opening commit. -/
theorem trainStep_opens {x : Train} (hready : s.Ready 0x7000 r k) (heffect : (s.meets hv k).trainStep k = (s.meets hv k).trainAwaits k x) :
    Reaches (execTrainStep r hv s) fun t => t.Waits r ∧ t.commits = s.commits ++ [⟨.trainOpen r (k.param 32 1), []⟩] ∧
      lookup (k.param 32 1) t.trains = some x := by
  obtain rfl := hready.ref
  exact hready.reaches_eq heffect ⟨State.running_waits (s := s.meets hv k) hready.1, rfl, lookup_insert⟩

/-! ## TRAIN_CLOSE -/

/-- A TRAIN_CLOSE that is accepted: the service closes, at rest by its commit, with CUT before its COMMIT vote by the end of its step, and
otherwise when its step ends. -/
theorem State.trainClose_accepted {z : State} {v : Train} (hlookup : lookup (k.param 32 1) z.trains = some v) (hberth : v.cmd.berth = k.berth)
    (hopened : v.opened = true) (hgoes : v.ended = false) (hclosing : v.closing = none) {u : State}
    (hu : u = (z.running k.ref).updTrain (k.param 32 1) fun x => { x with closing := some (k.ref, k.param 33 1) }) :
    z.trainClose k =
      if v.stopped.isSome ∨ v.phase = .idle then
        (u.updTrain (k.param 32 1) fun x => { x with ended := true }).awaitCommit (.trainClose (k.param 32 1))
      else if k.param 33 1 = 1 ∧ v.commitCast = false then (u.stepReport (k.param 32 1) stTrainClosed).endStep (k.param 32 1) else u := by
  rw [State.trainClose, hlookup, hu]
  simp [hberth, hopened, hgoes, hclosing]

/-- The service that a TRAIN_CLOSE has begun to close. -/
theorem State.trainClose_closing {z : State} {v : Train} (hlookup : lookup (k.param 32 1) z.trains = some v) :
    lookup (k.param 32 1) ((z.running k.ref).updTrain (k.param 32 1) fun x => { x with closing := some (k.ref, k.param 33 1) }).trains =
      some { v with closing := some (k.ref, k.param 33 1) } :=
  State.updTrain_lookup (s := z.running k.ref) hlookup _

theorem State.trainClose_waits {z : State} (hcmd : z.cmd k.ref = some k) :
    ((z.running k.ref).updTrain (k.param 32 1) fun x => { x with closing := some (k.ref, k.param 33 1) }).Waits k.ref :=
  (State.waits_congr ((State.updTrain_acts (ps := [.trains]) .refl (by decide)).inflight (by decide))).2 (State.running_waits hcmd)

theorem State.updTrain_commits (z : State) (n : Nat) (f : Train → Train) : (z.updTrain n f).commits = z.commits :=
  ((State.updTrain_acts (ps := [.trains]) .refl (by decide)).commits (by decide))

variable {v : Train}

theorem trainClose_at_rest (hready : s.Ready 0x7001 r k) (hlookup : lookup (k.param 32 1) s.trains = some v) (hberth : v.cmd.berth = k.berth)
    (hopened : v.opened = true) (hgoes : v.ended = false) (hclosing : v.closing = none) (hrests : v.stopped.isSome = true ∨ v.phase = .idle) :
    Reaches (execTrainClose r hv s) fun t => t.Waits r ∧ t.commits = s.commits ++ [⟨.trainClose (k.param 32 1), []⟩] ∧
      lookup (k.param 32 1) t.trains = some { v with closing := some (r, k.param 33 1), ended := true } := by
  obtain rfl := hready.ref
  refine hready.reaches_eq ((State.trainClose_accepted (z := s.meets hv k) hlookup hberth hopened hgoes hclosing rfl).trans (if_pos hrests))
    ⟨?_, ?_, State.updTrain_lookup (State.trainClose_closing (z := s.meets hv k) hlookup) _⟩
  · exact (State.waits_congr ((State.updTrain_acts (ps := [.trains]) .refl (by decide)).inflight (by decide))).2 (State.trainClose_waits hready.1)
  · exact congrArg (· ++ _) ((State.updTrain_commits ..).trans (State.updTrain_commits ((s.meets hv k).running k.ref) ..))

theorem trainClose_at_step_end (hready : s.Ready 0x7001 r k) (hlookup : lookup (k.param 32 1) s.trains = some v) (hberth : v.cmd.berth = k.berth)
    (hopened : v.opened = true) (hgoes : v.ended = false) (hclosing : v.closing = none) (hruns : v.stopped = none) (hphase : v.phase ≠ .idle)
    (hfinish : k.param 33 1 ≠ 1 ∨ v.commitCast = true) :
    Reaches (execTrainClose r hv s) fun t => t.Waits r ∧ t.commits = s.commits ∧
      lookup (k.param 32 1) t.trains = some { v with closing := some (r, k.param 33 1) } := by
  obtain rfl := hready.ref
  have hbusy : ¬ (v.stopped.isSome = true ∨ v.phase = .idle) := by simp [hruns, hphase]
  have hkeeps : ¬ (k.param 33 1 = 1 ∧ v.commitCast = false) := by
    rintro ⟨hcut, hcast⟩
    rcases hfinish with h | h
    · exact h hcut
    · simp [hcast] at h
  exact hready.reaches_eq
    (((State.trainClose_accepted (z := s.meets hv k) hlookup hberth hopened hgoes hclosing rfl).trans (if_neg hbusy)).trans (if_neg hkeeps))
    ⟨State.trainClose_waits (z := s.meets hv k) hready.1, State.updTrain_commits ((s.meets hv k).running k.ref) .., State.trainClose_closing (z := s.meets hv k) hlookup⟩

/-- With no turn under way a failing step fails none. -/
theorem State.trainTurnFails_of_none {z : State} (hturns : z.turns = []) (n st : Nat) : z.trainTurnFails n st = z := by
  simp [State.trainTurnFails, hturns]

/-- A report of a step with no turn under way touches neither commands nor commits. -/
theorem State.stepReport_alone {z : State} (hturns : z.turns = []) (n st : Nat) :
    Acts [.draws, .regs, .mem, .host, .queues, .weights, .trains, .logbook, .log, .outbox] z (z.stepReport n st) := by
  unfold State.stepReport
  split
  · exact .refl
  · extract_lets t1 t2
    have h2 : Acts [.draws, .regs, .mem, .host, .queues, .weights, .trains, .logbook, .log, .outbox] z t2 :=
      State.updTrain_acts (State.setNat_acts (State.trainReport_acts .refl (by decide)) (by decide)) (by decide)
    rw [State.trainTurnFails_of_none ((h2.turns (by decide)).trans hturns)]
    exact .ite h2 h2

/-- The end of a closing service's step, with no collective and no PARK under way: its closing commit waits. -/
theorem State.endStep_closes {z : State} {n : Nat} {x : Train} (hlookup : lookup n z.trains = some x) (hcolls : z.colls = [])
    (hparking : x.parking = []) (hgoes : x.ended = false) (hclosing : x.closing.isSome = true) :
    (z.endStep n).inflight = z.inflight ∧ (z.endStep n).commits = z.commits ++ [⟨.trainClose n, []⟩] ∧
      ∃ y, lookup n (z.endStep n).trains = some y ∧ y.phase = .idle ∧ y.ended = true ∧ y.last = x.last ∧ y.committed = x.committed := by
  have hdrop : z.dropTrainColls n = { z with colls := [] } := by simp [State.dropTrainColls, hcolls]
  rw [State.endStep, hlookup]
  dsimp -zeta only
  rw [hdrop, hparking]
  extract_lets t1 t2 t3 last
  have h2 := State.updTrain_lookup (s := t1) hlookup fun k : Train =>
    { k with phase := .idle, index := k.index + 1, pass := 0, attempt := 0, micros := [], records := [], order := [], forwards := 0,
             backwards := 0, fwd := [], bwd := [], tags := [], invalid := [], again := none, op := none, fwdPosted := 0, bwdPosted := 0,
             sendWaits := false, dirty := false, counts := [], parked := k.parked || !k.parking.isEmpty || z.turnParks n, parking := [] }
  have hacts : Acts [.trains] t1 t2 := State.updTrain_acts .refl (by decide)
  rw [if_neg (by simp [hgoes]), if_pos (by simp [hclosing])]
  have hend : Acts [.trains] t2 (t2.updTrain n fun k => { k with ended := true }) := State.updTrain_acts .refl (by decide)
  refine ⟨(hend.inflight (by decide)).trans (hacts.inflight (by decide)), congrArg (· ++ _) ((hend.commits (by decide)).trans (hacts.commits (by decide))), _, State.updTrain_lookup h2 _, rfl, rfl, rfl,
    rfl⟩

theorem trainClose_cuts (hready : s.Ready 0x7001 r k) (hlookup : lookup (k.param 32 1) s.trains = some v) (hberth : v.cmd.berth = k.berth)
    (hopened : v.opened = true) (hgoes : v.ended = false) (hclosing : v.closing = none) (hruns : v.stopped = none) (hphase : v.phase ≠ .idle)
    (hcut : k.param 33 1 = 1) (hcast : v.commitCast = false) (hparking : v.parking = []) (hturns : s.turns = []) (hcolls : s.colls = []) :
    Reaches (execTrainClose r hv s) fun t => t.Waits r ∧ t.commits = s.commits ++ [⟨.trainClose (k.param 32 1), []⟩] ∧
      ∃ x, lookup (k.param 32 1) t.trains = some x ∧ x.phase = .idle ∧ x.ended = true ∧ x.last = stTrainClosed ∧ x.committed = v.committed := by
  obtain rfl := hready.ref
  have hbusy : ¬ (v.stopped.isSome = true ∨ v.phase = .idle) := by simp [hruns, hphase]
  obtain ⟨u, hu⟩ : ∃ u, u = ((s.meets hv k).running k.ref).updTrain (k.param 32 1) fun x => { x with closing := some (k.ref, k.param 33 1) } :=
    ⟨_, rfl⟩
  have hacts : Acts [.trains] ((s.meets hv k).running k.ref) u := hu ▸ State.updTrain_acts .refl (by decide)
  have hfound : lookup (k.param 32 1) u.trains = some { v with closing := some (k.ref, k.param 33 1) } :=
    hu ▸ State.trainClose_closing (z := s.meets hv k) hlookup
  have hwaits : u.Waits k.ref := hu ▸ State.trainClose_waits (z := s.meets hv k) hready.1
  have hreport := State.stepReport_alone (z := u) ((hacts.turns (by decide)).trans hturns) (k.param 32 1) stTrainClosed
  obtain ⟨hinflight, hcommits, x, hx, hidle, hended, hlast, hcommitted⟩ :=
    State.endStep_closes (State.stepReport_train hfound stTrainClosed) ((hreport.colls (by decide)).trans ((hacts.colls (by decide)).trans hcolls)) hparking hgoes rfl
  refine hready.reaches_eq
    (((State.trainClose_accepted (z := s.meets hv k) hlookup hberth hopened hgoes hclosing hu).trans (if_neg hbusy)).trans
      (if_pos ⟨hcut, hcast⟩)) ⟨?_, ?_, x, hx, hidle, hended, hlast, hcommitted⟩
  · exact (State.waits_congr (hinflight.trans (hreport.inflight (by decide)))).2 hwaits
  · exact hcommits.trans (congrArg (· ++ _) ((hreport.commits (by decide)).trans (hacts.commits (by decide))))

end

/-! ## TRAIN_STEP_START -/

/-- On a beating ring an event acts at once. -/
theorem State.onRing_beating {s : State} (hbeats : s.beating = true) (f : State → State) : s.onRing f = f s.ringing := by
  have hactive : ¬ s.power.state = .idle := by
    intro h
    simp [State.beating, h] at hbeats
  rw [State.onRing, if_neg hactive, hbeats, if_neg (by simp)]
  rfl

section
variable {u : State} {n : Nat} {k0 : Train}

/-- A step whose table stops its service: the service bears TRAIN_BATCH and no loss. -/
theorem State.trainStart_stops (hlookup : lookup n u.trains = some k0) (hmay : u.trainMayStart k0 = true)
    (hstops : u.tableStops k0 (u.stepTable (u.natAt (k0.cmd.param 80 8 + 8 * k0.index) 8)) = true) :
    ∃ ended, lookup n (u.trainStart n).trains = some (({ k0 with loss := 0, lossRows := 0 } : Train).stoppedWith stTrainBatch ended) := by
  rw [State.trainStart, hlookup]
  dsimp -zeta only
  rw [if_neg (by simp [hmay])]
  extract_lets a table s1 s0
  have hnoted : Acts [.draws, .regs, .mem, .units, .weights, .log, .outbox] u s1 := State.noteTable_acts .refl (by decide)
  have hcleared : Acts [.draws, .regs, .mem, .units, .weights, .log, .outbox] u s0 :=
    State.setNat_acts (Acts.ite hnoted (State.clearAssay_acts hnoted (by decide))) (by decide)
  rw [if_pos hstops]
  exact State.stopTrain_train (State.updTrain_lookup (by rw [hcleared.trains (by decide), hlookup]) _) stTrainBatch

/-- A step with a good table is in its first pass over the table's micro-batches. -/
theorem State.trainStart_passes {table : StepTable} (hlookup : lookup n u.trains = some k0) (hmay : u.trainMayStart k0 = true)
    (htable : u.stepTable (u.natAt (k0.cmd.param 80 8 + 8 * k0.index) 8) = table) (hgood : u.tableStops k0 table = false) :
    ∃ x, lookup n (u.trainStart n).trains = some x ∧ x.micros = table.micros ∧ x.records = table.records ∧ x.tokenNorm = table.tokenNorm ∧
      x.order = List.range table.micros.length ∧ x.round = k0.round + 1 := by
  subst htable
  rw [State.trainStart, hlookup]
  dsimp -zeta only
  rw [if_neg (by simp [hmay])]
  extract_lets a table s1 s0 d loss out src t1 t2 t3
  rw [show u.tableStops k0 table = false from hgood, if_neg Bool.false_ne_true]
  have hnoted : Acts [.draws, .regs, .mem, .units, .weights, .log, .outbox] u s1 := State.noteTable_acts .refl (by decide)
  have hcleared : Acts [.draws, .regs, .mem, .units, .weights, .log, .outbox] u s0 :=
    State.setNat_acts (Acts.ite hnoted (State.clearAssay_acts hnoted (by decide))) (by decide)
  have h1 : Acts [.draws, .regs] s0 t1 := State.dropRegions_acts (Acts.set_draws (State.draw_acts .refl (by decide)) (by decide)) (by decide)
  have h2 : Acts [.draws, .regs, .mem] t1 t2 :=
    State.sat32_acts (State.overwrite_acts (State.overwrite_acts .refl (by decide)) (by decide)) (by decide)
  have hbegun : ∃ x, lookup n t3.trains = some x ∧ x.micros = table.micros ∧ x.records = table.records ∧ x.tokenNorm = table.tokenNorm ∧
      x.order = List.range table.micros.length ∧ x.round = k0.round + 1 :=
    ⟨_, State.updTrain_lookup (by rw [h2.trains (by decide), h1.trains (by decide), hcleared.trains (by decide), hlookup]) _, rfl, rfl, rfl, rfl, rfl⟩
  obtain ⟨x, hx, hmicros, hrecords, hnorm, horder, hround⟩ := hbegun
  obtain ⟨y, hy, ymicros, yrecords, ynorm, yorder, -, yround⟩ :=
    State.InPass.runOn (s := t3) (n := n) (k := x) ⟨x, hx, rfl, rfl, rfl, rfl, rfl, rfl⟩
  exact ⟨y, hy, ymicros.trans hmicros, yrecords.trans hrecords, ynorm.trans hnorm, yorder.trans horder, yround.trans hround⟩

end

section
variable {s t0 u : State} {n now : Nat} {hv : HostView} {k k0 : Train}

/-- A step that the arbiter grants starts at once on a beating ring. -/
theorem State.trainStepStart_granted (hlookup : lookup n s.trains = some k) (hmay : s.trainMayStart k = true)
    (hgrant : s.turnOf k.cmd.berth 2 n = some t0) (hbeats : t0.beating = true)
    (hu : u = (t0.actFor s.spine.epoch.toNat k.cmd.berth).ringing) :
    s.trainStepStart n = (u.trainStart n).occupy k.cmd.berth 2 n := by
  rw [State.trainStepStart, hlookup]
  dsimp only
  rw [if_neg (by simp [hmay]), hgrant]
  exact (State.onRing_beating (s := t0.actFor s.spine.epoch.toNat k.cmd.berth) hbeats _).trans (by rw [hu])

theorem State.lookup_trains_sees_at (s : State) (now : Nat) (hv : HostView) (n : Nat) :
    lookup n ((s.at now).sees hv).trains = lookup n s.trains :=
  congrArg (lookup n) ((State.at_acts (ps := [.clock]) .refl (by decide)).trains (by decide))

theorem trainStepStart_stops (hlookup : lookup n s.trains = some k) (hmay : ((s.at now).sees hv).trainMayStart k = true)
    (hgrant : ((s.at now).sees hv).turnOf k.cmd.berth 2 n = some t0) (hbeats : t0.beating = true)
    (hu : u = (t0.actFor s.spine.epoch.toNat k.cmd.berth).ringing) (hfound : lookup n t0.trains = some k0) (hmay0 : u.trainMayStart k0 = true)
    (hstops : u.tableStops k0 (u.stepTable (u.natAt (k0.cmd.param 80 8 + 8 * k0.index) 8)) = true) :
    Reaches (execTrainStepStart n now hv s) fun t => ∃ x, lookup n t.trains = some x ∧ x.stopped = some stTrainBatch ∧
      x.phase = .idle ∧ x.loss = 0 ∧ x.lossRows = 0 ∧ x.committed = k0.committed := by
  obtain ⟨ended, hx⟩ := State.trainStart_stops (u := u) (by rw [hu]; exact hfound) hmay0 hstops
  exact runs_reaches_to (State.trainStepStart_granted (s := (s.at now).sees hv) ((State.lookup_trains_sees_at ..).trans hlookup) hmay hgrant hbeats
    (hu.trans (by rw [show ((s.at now).sees hv).spine = s.spine from s.at_spine now]))) ⟨_, hx, rfl, rfl, rfl, rfl, rfl⟩

theorem trainStepStart_passes {table : StepTable} (hlookup : lookup n s.trains = some k) (hmay : ((s.at now).sees hv).trainMayStart k = true)
    (hgrant : ((s.at now).sees hv).turnOf k.cmd.berth 2 n = some t0) (hbeats : t0.beating = true)
    (hu : u = (t0.actFor s.spine.epoch.toNat k.cmd.berth).ringing) (hfound : lookup n t0.trains = some k0) (hmay0 : u.trainMayStart k0 = true)
    (htable : u.stepTable (u.natAt (k0.cmd.param 80 8 + 8 * k0.index) 8) = table) (hgood : u.tableStops k0 table = false) :
    Reaches (execTrainStepStart n now hv s) fun t => ∃ x, lookup n t.trains = some x ∧ x.micros = table.micros ∧
      x.records = table.records ∧ x.tokenNorm = table.tokenNorm ∧ x.order = List.range table.micros.length ∧ x.round = k0.round + 1 ∧
      lookup k.cmd.berth t.occupants = some (2, n) := by
  obtain ⟨x, hx, hmicros, hrecords, hnorm, horder, hround⟩ := State.trainStart_passes (u := u) (by rw [hu]; exact hfound) hmay0 htable hgood
  exact runs_reaches_to (State.trainStepStart_granted (s := (s.at now).sees hv) ((State.lookup_trains_sees_at ..).trans hlookup) hmay hgrant hbeats
    (hu.trans (by rw [show ((s.at now).sees hv).spine = s.spine from s.at_spine now])))
    ⟨x, hx, hmicros, hrecords, hnorm, horder, hround, lookup_insert⟩

end

/-- Settles O39: each row's own lemmas, in the order of the clauses. -/
theorem trainingOpensAndCloses : Obligations.TrainingOpensAndCloses :=
  ⟨fun _ _ _ _ _ hready hok hreads hplan hlane hranges hpounds hstash hwork =>
     trainStep_opens hready (State.trainStep_awaits rfl hok hreads hplan hlane hranges hpounds hstash hwork),
   fun _ _ _ _ _ => trainClose_at_rest, fun _ _ _ _ _ => trainClose_at_step_end, fun _ _ _ _ _ => trainClose_cuts,
   fun _ _ _ _ _ _ _ _ => trainStepStart_stops, fun _ _ _ _ _ _ _ _ _ => trainStepStart_passes⟩

end Sys2Proof.Machine
end

section
/-! PROOF. Turns begin, settle and cut what is late (R524, R532): the arms of TurnsBeginAndSettle. -/

namespace Sys2Proof.Machine

open Sys2Proof

/-! ## TURN -/

/-- The turn that a TURN opens, before its first commit. -/
def State.newTurn (z : State) (c : Cmd) : Turn :=
  { cmd := c, phase := 1, startedAt := z.now, transferAt := 0,
    model := if c.param 32 1 = 0 then some (z.readModel (c.param 96 8)) else none,
    pieces := (List.range (c.param 52 4)).map (fun i => readPiece (z.bytesAt (c.param 64 8 + 48 * i) 48)),
    version := 0, trainIndex := 0, trainBusy := false, drained := 0, cut := 0, sent := [], placed := 0, poisoned := false,
    transferUs := 0, voting := false, failing := none }

theorem State.turn_awaits {z : State} {c : Cmd} {v : Serving} (hok : theRefusal (z.turnFails c) = none)
    (hlookup : lookup (c.param 33 1) z.serving = some v)
    (hreads : z.rangesStatus ((c.turnReads (z.natAt (c.param 96 8 + 28) 4)).filter fun x => decide (0 < x.2)) = none)
    (hgoes : z.turnRefusal c v = none) :
    z.turn c = (({ z with turns := insert (c.param 33 1) (z.newTurn c) z.turns } : State).running c.ref).awaitCommit
      (.turnFirst c.ref (c.param 33 1)) := by
  rw [State.turn]
  simp only [hok, hlookup, hreads, hgoes, State.newTurn]

theorem turn_waits {s : State} {r : CmdRef} {k : Cmd} {hv : HostView} {v : Serving} (hready : s.Ready 0x8000 r k)
    (hok : theRefusal ((s.meets hv k).turnFails k) = none) (hlookup : lookup (k.param 33 1) s.serving = some v)
    (hreads : (s.meets hv k).rangesStatus ((k.turnReads ((s.meets hv k).natAt (k.param 96 8 + 28) 4)).filter fun x => decide (0 < x.2)) = none)
    (hgoes : (s.meets hv k).turnRefusal k v = none) :
    Reaches (execTurn r hv s) fun t => t.Waits r ∧ t.commits = s.commits ++ [⟨.turnFirst r (k.param 33 1), []⟩] ∧
      ∃ x, lookup (k.param 33 1) t.turns = some x ∧ x.cmd = k ∧ x.phase = 1 ∧ x.failing = none ∧ x.pieces.length = k.param 52 4 := by
  obtain rfl := hready.ref
  exact hready.reaches_eq (State.turn_awaits (z := s.meets hv k) hok hlookup hreads hgoes)
    ⟨State.running_waits (s := s.meets hv k) hready.1, rfl, _, lookup_insert, rfl, rfl, rfl, by rw [State.newTurn, List.length_map, List.length_range]⟩

/-! ## SETTLE_END -/

section
variable {s : State} {n now : Nat} {x : Turn} {v : Serving}

/-- A turn that settles while its entries are answered goes on to TRANSFER with the version, from a frozen service. -/
def State.settled (s : State) (n version : Nat) : State :=
  (s.updServing n fun k => { k with frozen := true }).updTurn n fun t =>
    { t with phase := 3, version := version, transferAt := (s.updServing n fun k => { k with frozen := true }).now }

theorem State.settled_serving (hserving : lookup n s.serving = some v) (version : Nat) :
    lookup n (s.settled n version).serving = some { v with frozen := true } := by
  rw [State.settled, (State.updTurn_acts (ps := [.turns]) .refl (by decide)).serving (by decide)]
  exact State.updServing_lookup hserving _

theorem State.updServing_now (s : State) (n : Nat) (f : Serving → Serving) : (s.updServing n f).now = s.now :=
  congrArg (·.time.toNat) ((State.updServing_acts (ps := [.serving]) .refl (by decide)).clock (by decide))

theorem State.settled_turn (hturn : lookup n s.turns = some x) (version : Nat) :
    lookup n (s.settled n version).turns = some { x with phase := 3, version := version, transferAt := s.now } := by
  rw [State.settled, State.updServing_now]
  exact State.updTurn_lookup (by rw [(State.updServing_acts (ps := [.serving]) .refl (by decide)).turns (by decide), hturn]) _

/-- SETTLE_END of a turn without a training service. -/
theorem State.settleEnd_alone (hturn : lookup n s.turns = some x) (hserving : lookup n s.serving = some v) (hphase : x.phase = 2)
    (hgoes : x.failing = none) (halone : x.train = none) (hrests : v.step = none)
    (hanswered : (s.entriesOf n).any (fun e => x.answers e.2) = false) : s.settleEnd n = s.settled n (x.cmd.param 44 4) := by
  rw [State.settleEnd, hturn, hserving]
  simp [hphase, hgoes, halone, hrests, hanswered, State.settled]

/-- SETTLE_END with a training service that is parked at rest. -/
theorem State.settleEnd_with_train {q : Nat} {y : Train} (hturn : lookup n s.turns = some x) (hserving : lookup n s.serving = some v)
    (hphase : x.phase = 2) (hgoes : x.failing = none) (htrain : x.train = some q) (hlookup : lookup q s.trains = some y)
    (hparked : y.parked = true) (hidle : y.phase = .idle) (hrests : v.step = none)
    (hanswered : (s.entriesOf n).any (fun e => x.answers e.2) = false) :
    s.settleEnd n = if x.toGeneration then
        (List.range x.pieces.length).foldl (fun (u : State) i => match x.pieces[i]? with | some p => u.sendPiece n y i p | none => u)
          (s.settled n y.version)
      else s.settled n y.version := by
  rw [State.settleEnd, hturn, hserving]
  simp [hphase, hgoes, htrain, hlookup, hparked, hidle, hrests, hanswered, State.settled] <;> rfl

/-- SETTLE_END of a turn whose training service is gone fails the turn. -/
theorem State.settleEnd_without_train {q : Nat} (hturn : lookup n s.turns = some x) (hserving : lookup n s.serving = some v)
    (hphase : x.phase = 2) (hgoes : x.failing = none) (htrain : x.train = some q) (hgone : lookup q s.trains = none) :
    s.settleEnd n = s.failTurn n stTrainClosed false := by
  rw [State.settleEnd, hturn, hserving]
  simp [hphase, hgoes, htrain, hgone]

theorem State.lookup_turns_at (s : State) (now n : Nat) : lookup n (s.at now).turns = lookup n s.turns :=
  congrArg (lookup n) ((State.at_acts (ps := [.clock]) .refl (by decide)).turns (by decide))

theorem State.lookup_serving_at (s : State) (now n : Nat) : lookup n (s.at now).serving = lookup n s.serving :=
  congrArg (lookup n) ((State.at_acts (ps := [.clock]) .refl (by decide)).serving (by decide))

theorem State.lookup_trains_at (s : State) (now n : Nat) : lookup n (s.at now).trains = lookup n s.trains :=
  congrArg (lookup n) ((State.at_acts (ps := [.clock]) .refl (by decide)).trains (by decide))

theorem State.entriesOf_at (s : State) (now n : Nat) : (s.at now).entriesOf n = s.entriesOf n := by
  rw [State.entriesOf, (State.at_acts (ps := [.clock]) .refl (by decide)).manifest (by decide), ← State.entriesOf]

theorem settleEnd_alone (hturn : lookup n s.turns = some x) (hserving : lookup n s.serving = some v) (hphase : x.phase = 2)
    (hgoes : x.failing = none) (halone : x.train = none) (hrests : v.step = none)
    (hanswered : (s.entriesOf n).any (fun e => x.answers e.2) = false) :
    Reaches (execSettleEnd n now s) fun t => lookup n t.serving = some { v with frozen := true } ∧
      lookup n t.turns = some { x with phase := 3, version := x.cmd.param 44 4, transferAt := (s.at now).now } := by
  rw [← s.lookup_turns_at now] at hturn
  rw [← s.lookup_serving_at now] at hserving
  exact runs_reaches_to (State.settleEnd_alone hturn hserving hphase hgoes halone hrests (by rw [State.entriesOf_at, hanswered]))
    ⟨State.settled_serving hserving _, State.settled_turn hturn _⟩

theorem settleEnd_without_pieces {q : Nat} {y : Train} (hturn : lookup n s.turns = some x) (hserving : lookup n s.serving = some v)
    (hphase : x.phase = 2) (hgoes : x.failing = none) (htrain : x.train = some q) (hlookup : lookup q s.trains = some y)
    (hparked : y.parked = true) (hidle : y.phase = .idle) (hpieces : x.pieces = []) (hrests : v.step = none)
    (hanswered : (s.entriesOf n).any (fun e => x.answers e.2) = false) :
    Reaches (execSettleEnd n now s) fun t => lookup n t.serving = some { v with frozen := true } ∧
      lookup n t.turns = some { x with phase := 3, version := y.version, transferAt := (s.at now).now } := by
  rw [← s.lookup_turns_at now] at hturn
  rw [← s.lookup_serving_at now] at hserving
  rw [← s.lookup_trains_at now] at hlookup
  have hsettled : (s.at now).settleEnd n = (s.at now).settled n y.version := by
    rw [State.settleEnd_with_train hturn hserving hphase hgoes htrain hlookup hparked hidle hrests (by rw [State.entriesOf_at, hanswered]), hpieces]
    exact ite_self _
  exact runs_reaches_to hsettled ⟨State.settled_serving hserving _, State.settled_turn hturn _⟩

/-- A turn that is to fail has a cause, its own or this one. -/
theorem State.failTurn_lookup (hturn : lookup n s.turns = some x) (detail : Nat) (abandoned : Bool) :
    ∃ cause, lookup n (s.failTurn n detail abandoned).turns = some { x with failing := some cause } := by
  cases hfailing : x.failing with
  | none =>
    rw [State.failTurn_fails hturn hfailing]
    exact ⟨(detail, abandoned), State.updTurn_lookup hturn _⟩
  | some cause =>
    refine ⟨cause, ?_⟩
    rw [State.failTurn, hturn]
    simp only [hfailing, Option.isSome_some, if_true, hturn]
    rw [← hfailing]

/-- A register-held coordinate outlasts what leaves registers and the spine alone. -/
theorem Acts.coord {ps : List Part} {s t : State} (h : Acts ps s t) (hregs : Part.regs ∉ ps) (hspine : Part.spine ∉ ps) (a : Nat) :
    t.coord a = s.coord a := by
  rw [State.coord, State.regNat, h.reg hregs hspine, ← State.regNat, ← State.coord]

theorem Acts.ownRoute {ps : List Part} {s t : State} (h : Acts ps s t) (hregs : Part.regs ∉ ps) (hspine : Part.spine ∉ ps) :
    t.ownRoute = s.ownRoute := by
  have hcoord : t.coord = s.coord := funext (h.coord hregs hspine)
  rw [State.ownRoute, hcoord, ← State.ownRoute]

theorem Acts.routePort {ps : List Part} {s t : State} (h : Acts ps s t) (hregs : Part.regs ∉ ps) (hspine : Part.spine ∉ ps) (route : Nat) :
    t.routePort route = s.routePort route := by
  have hcoord : t.coord = s.coord := funext (h.coord hregs hspine)
  have hsize : t.torusSize = s.torusSize := by
    funext a
    rw [State.torusSize, State.regNat, h.reg hregs hspine, ← State.regNat, ← State.torusSize]
  rw [State.routePort, hcoord, hsize, ← State.routePort]

/-- A piece for another device that its way cannot carry fails its turn. -/
theorem State.sendPiece_fails {z : Piece} {p i : Nat} {y : Train} (hturn : lookup n s.turns = some x) (hdest : z.dest ≠ s.ownRoute)
    (hroute : s.routePort z.dest = some p) (hdown : (s.port p).state < 3) :
    ∃ cause, lookup n (s.sendPiece n y i z).turns = some { x with failing := some cause } := by
  have hcarries (vc : Nat) : s.carries p vc = false := by
    simp only [State.carries, Bool.or_eq_false_iff, Bool.and_eq_false_iff, beq_eq_false_iff_ne]
    omega
  rw [State.sendPiece, hturn]
  dsimp -zeta only
  extract_lets d f t1
  rw [if_neg hdest, hroute]
  have hdraw : d.2.turns = s.turns := rfl
  have h1 : ∃ g, lookup n t1.turns = some { x with failing := g } := by
    unfold t1
    split
    · obtain ⟨cause, h⟩ := State.failTurn_lookup (s := d.2.noteRanges 1 f.lost) (n := n) (x := x)
        (by rw [(State.noteRanges_acts (ps := [.draws, .regs, .mem, .units, .weights, .log, .outbox]) .refl (by decide)).turns (by decide), hdraw, hturn]) _ false
      exact ⟨_, h⟩
    · exact ⟨x.failing, by rw [hdraw, hturn]⟩
  obtain ⟨g, h1⟩ := h1
  dsimp only
  simp only [hcarries, Bool.not_false, if_true]
  exact State.failTurn_lookup h1 stLinkDown false

theorem settleEnd_link_down {q p : Nat} {y : Train} {z : Piece} (hturn : lookup n s.turns = some x) (hserving : lookup n s.serving = some v)
    (hphase : x.phase = 2) (hgoes : x.failing = none) (htrain : x.train = some q) (hlookup : lookup q s.trains = some y)
    (hparked : y.parked = true) (hidle : y.phase = .idle) (hgen : x.toGeneration = true) (hpieces : x.pieces = [z]) (hdest : z.dest ≠ s.ownRoute)
    (hroute : s.routePort z.dest = some p) (hdown : (s.port p).state < 3) (hrests : v.step = none)
    (hanswered : (s.entriesOf n).any (fun e => x.answers e.2) = false) :
    Reaches (execSettleEnd n now s) fun t => ∃ w, lookup n t.turns = some w ∧ w.phase = 3 ∧ w.version = y.version ∧ w.failing.isSome = true := by
  have hacts : Acts [.clock, .serving, .turns] s ((s.at now).settled n y.version) :=
    State.updTurn_acts (State.updServing_acts (State.at_acts .refl (by decide)) (by decide)) (by decide)
  rw [← s.lookup_turns_at now] at hturn
  rw [← s.lookup_serving_at now] at hserving
  rw [← s.lookup_trains_at now] at hlookup
  have hsent : (s.at now).settleEnd n = ((s.at now).settled n y.version).sendPiece n y 0 z := by
    rw [State.settleEnd_with_train hturn hserving hphase hgoes htrain hlookup hparked hidle hrests (by rw [State.entriesOf_at, hanswered]), hpieces,
      if_pos hgen]
    rfl
  obtain ⟨cause, hw⟩ := State.sendPiece_fails (i := 0) (y := y) (State.settled_turn hturn y.version)
    (by rwa [hacts.ownRoute (by decide) (by decide)]) (by rw [hacts.routePort (by decide) (by decide), hroute]) (by rwa [hacts.port (by decide)])
  exact runs_reaches_to hsent ⟨_, hw, rfl, rfl, rfl⟩

theorem settleEnd_without_train {q : Nat} (hturn : lookup n s.turns = some x) (hserving : lookup n s.serving = some v) (hphase : x.phase = 2)
    (hgoes : x.failing = none) (htrain : x.train = some q) (hgone : lookup q s.trains = none) :
    Reaches (execSettleEnd n now s) fun t => t.commits = s.commits ++ [⟨.turnAbandon n, []⟩] ∧
      lookup n t.turns = some { x with failing := some (stTrainClosed, false) } := by
  have hcommits : ((s.at now).updTurn n fun t => { t with failing := some (stTrainClosed, false) }).commits = s.commits :=
    ((State.updTurn_acts (ps := [.clock, .turns]) (State.at_acts .refl (by decide)) (by decide)).commits (by decide))
  rw [← s.lookup_turns_at now] at hturn
  rw [← s.lookup_serving_at now] at hserving
  rw [← s.lookup_trains_at now] at hgone
  exact runs_reaches_to ((State.settleEnd_without_train hturn hserving hphase hgoes htrain hgone).trans (State.failTurn_fails hturn hgoes _ _))
    ⟨congrArg (· ++ _) hcommits, State.updTurn_lookup hturn _⟩

/-! ## DRAIN_DEADLINE -/

theorem State.updEntry_lookup {i : Nat} {e : Entry} (hentry : lookup i s.manifest = some e) (f : Entry → Entry) :
    lookup i (s.updEntry i f).manifest = some (f e) := by
  rw [State.updEntry, hentry]
  exact lookup_insert

theorem State.updEntry_serving (s : State) (i : Nat) (f : Entry → Entry) : (s.updEntry i f).serving = s.serving := by
  rw [State.updEntry]
  split <;> rfl

/-- Cutting the only entry of a service, which is not held, records the decision and marks it to end. -/
theorem State.cutEntries_single {i : Nat} {e : Entry} {p : Entry → Bool} (hentries : s.entriesOf n = [(i, e)]) (hcut : p e = true)
    (hheld : e.state ≠ 1) :
    s.cutEntries n p = (s.recordDecision e.queue (leBytes 1 3 ++ leBytes 1 n ++ leBytes 2 i ++ leBytes 4 0 ++ leBytes 8 e.request)).updEntry i
      fun e => { e with ending := some (e.ending.getD stSeqCut) } := by
  rw [State.cutEntries, hentries, List.foldl_cons, List.foldl_nil]
  simp only [hcut, hheld, if_true, Bool.not_true, Bool.false_eq_true, if_false]

theorem Turn.answers_live {e : Entry} (hanswers : x.answers e = true) : e.state ≠ 1 := by
  rw [Turn.answers, Bool.and_eq_true, bne_iff_ne] at hanswers
  exact hanswers.1

/-- DRAIN_DEADLINE during a step of the service leaves the rest to the step's boundary. -/
theorem State.drainDeadline_in_step (hturn : lookup n s.turns = some x) (hphase : x.phase = 2) (hcuts : x.cuts = false)
    (hgoes : x.failing = none) (hlate : s.expired (x.startedAt + x.cmd.param 48 2 * msec) = true)
    (hserving : lookup n (s.cutEntries n x.answers).serving = some v) (hstep : v.step.isSome = true) :
    s.drainDeadline n = s.cutEntries n x.answers := by
  rw [State.drainDeadline, hturn]
  simp [hphase, hcuts, hgoes, hlate, hserving, hstep]

theorem drainDeadline_cuts {i : Nat} {e : Entry} (hturn : lookup n s.turns = some x) (hphase : x.phase = 2) (hcuts : x.cuts = false)
    (hgoes : x.failing = none) (hlate : (s.at now).expired (x.startedAt + x.cmd.param 48 2 * msec) = true)
    (hserving : lookup n s.serving = some v) (hstep : v.step.isSome = true) (hentries : s.entriesOf n = [(i, e)])
    (hentry : lookup i s.manifest = some e) (hanswers : x.answers e = true) :
    Reaches (execDrainDeadline n now s) fun t => lookup i t.manifest = some { e with ending := some (e.ending.getD stSeqCut) } := by
  rw [← s.lookup_turns_at now] at hturn
  rw [← s.lookup_serving_at now] at hserving
  rw [← State.entriesOf_at s now] at hentries
  have hacts : Acts [.clock, .mem, .host, .queues, .logbook, .log, .outbox] s
      ((s.at now).recordDecision e.queue (leBytes 1 3 ++ leBytes 1 n ++ leBytes 2 i ++ leBytes 4 0 ++ leBytes 8 e.request)) :=
    State.recordDecision_acts (State.at_acts .refl (by decide)) (by decide)
  have hcut := State.cutEntries_single hentries hanswers (Turn.answers_live hanswers)
  have hserves : lookup n ((s.at now).cutEntries n x.answers).serving = some v := by
    rw [hcut, State.updEntry_serving, hacts.serving (by decide), ← s.lookup_serving_at now, hserving]
  exact runs_reaches_to ((State.drainDeadline_in_step hturn hphase hcuts hgoes hlate hserves hstep).trans hcut)
    (State.updEntry_lookup (by rw [hacts.manifest (by decide), hentry]) _)

end

/-- Settles O44: each row's own lemmas, in the order of the clauses. -/
theorem turnsBeginAndSettle : Obligations.TurnsBeginAndSettle :=
  ⟨fun _ _ _ _ _ => turn_waits, fun _ _ _ _ _ => settleEnd_alone, fun _ _ _ _ _ _ _ => settleEnd_without_pieces,
   fun _ _ _ _ _ _ _ _ _ => settleEnd_link_down, fun _ _ _ _ _ _ => settleEnd_without_train, fun _ _ _ _ _ _ _ => drainDeadline_cuts⟩

end Sys2Proof.Machine
end

section
/-! PROOF. Turns transfer their pieces and commit (R529, R533, R534, R538): the arms of TurnsTransferAndCommit. -/

namespace Sys2Proof.Machine

open Sys2Proof

/-! ## What a turn that is to fail keeps

Links that fall and collectives that end make a turn fail and change nothing else of it. So a property of the table of turns that
does not speak of a turn's failing outlasts them. -/

/-- The property does not tell whether a turn is to fail. -/
def IgnoresFailing (P : List (Nat × Turn) → Prop) : Prop :=
  ∀ l n x f, lookup n l = some x → P l → P (insert n { x with failing := some f } l)

/-- One turn, on its way to fail or not. -/
def OnlyTurn (n : Nat) (x : Turn) (l : List (Nat × Turn)) : Prop := ∃ f, l = [(n, { x with failing := f })]

/-- Number n is the turn, on its way to fail or not. -/
def HasTurn (n : Nat) (x : Turn) (l : List (Nat × Turn)) : Prop := ∃ f, lookup n l = some { x with failing := f }

theorem onlyTurn_ignoresFailing (n : Nat) (x : Turn) : IgnoresFailing (OnlyTurn n x) := by
  rintro l m y f hy ⟨g, rfl⟩
  rw [lookup] at hy
  split at hy
  next h =>
    subst h
    obtain rfl := Option.some.inj hy
    refine ⟨some f, ?_⟩
    rw [insert, if_neg (Nat.lt_irrefl m), if_pos rfl]
  next => exact absurd hy (by simp [lookup])

theorem hasTurn_ignoresFailing (n : Nat) (x : Turn) : IgnoresFailing (HasTurn n x) := by
  rintro l m y f hy ⟨g, hx⟩
  by_cases h : n = m
  · subst h
    obtain rfl := Option.some.inj (hy.symm.trans hx)
    exact ⟨some f, lookup_insert⟩
  · exact ⟨g, (lookup_insert_ne h).trans hx⟩

section
variable {P : List (Nat × Turn) → Prop} (hP : IgnoresFailing P)
include hP

theorem State.failTurn_ignored {s : State} (h : P s.turns) (n detail : Nat) (b : Bool) : P (s.failTurn n detail b).turns := by
  rw [State.failTurn]
  split
  · exact h
  next t hturn =>
    split
    · exact h
    · change P (s.updTurn n _).turns
      rw [State.updTurn, hturn]
      exact hP _ _ _ _ hturn h

theorem State.closeColl_ignored {s : State} (h : P s.turns) (k : Coll) (st r0 r1 : Nat) : P (s.closeColl k st r0 r1).turns := by
  unfold State.closeColl
  extract_lets u t
  have hu : P u.turns := by rwa [(State.updColl_acts (ps := [.colls]) .refl (by decide)).turns (by decide)]
  have ht : P t.turns := by
    unfold t
    split
    · rwa [(State.finish_acts (ps := [.cmds]) .refl (by decide)).turns (by decide)]
    · rwa [(State.updColl_acts (ps := [.colls]) .refl (by decide)).turns (by decide)]
    · split
      · exact hu
      · exact State.failTurn_ignored hP hu _ _ _
  split
  · rwa [(State.add64_acts (ps := [.regs]) .refl (by decide)).turns (by decide)]
  · exact ht

theorem State.endColl_ignored {s : State} (h : P s.turns) (k : Coll) (st r1 : Nat) : P (s.endColl k st r1).turns := by
  rw [State.endColl]
  refine State.closeColl_ignored hP ?_ _ _ _ _
  rwa [(Acts.foldl (ps := [.draws, .mem]) .refl fun _ _ h => State.undefine_acts h (by decide)).turns (by decide)]

theorem State.failColl_ignored {s : State} (h : P s.turns) (k : Coll) (st r1 : Nat) : P (s.failColl k st r1).turns := by
  unfold State.failColl
  extract_lets c t0 t1 t2 t3 t4 t5 t6
  have hbefore : Acts [.regs, .outbox] s t5 := by
    unfold t5 t4 t3 t2 t1 t0
    repeat' first
      | exact Acts.refl | with_reducible refine Acts.ite ?_ ?_ | with_reducible refine State.raise_acts ?_ (by decide)
      | with_reducible refine State.sat32_acts ?_ (by decide)
  have hend : P t6.turns := State.endColl_ignored hP (by rwa [hbefore.turns (by decide)]) _ _ _
  split
  · exact hend
  · rwa [(State.sat32_acts (ps := [.regs, .links, .mgmt, .outbox]) (State.sendAbort_acts (State.sendAbort_acts .refl (by decide)) (by decide))
      (by decide)).turns (by decide)]

theorem State.collsLinkDown_ignored {s : State} (h : P s.turns) (p : Nat) (lost : List Nat) : P (s.collsLinkDown p lost).turns :=
  foldl_keeps (P := fun u : State => P u.turns) (fun _ _ _ hu => State.failColl_ignored hP hu _ _ _) h

theorem State.turnsLinkDown_ignored {s : State} (h : P s.turns) (p : Nat) (lost : List Nat) : P (s.turnsLinkDown p lost).turns :=
  foldl_keeps (P := fun u : State => P u.turns) (fun _ _ _ hu => State.failTurn_ignored hP hu _ _ _) h

theorem State.workDown_ignored {s : State} (h : P s.turns) (p : Nat) (lost : List Nat) : P (s.workDown p lost).turns := by
  rw [State.workDown, (State.repairsPeerDown_acts (ps := [.regs, .weights, .lockage, .log, .outbox])
    (State.loadsPeerDown_acts .refl (by decide)) (by decide)).turns (by decide)]
  exact State.collsLinkDown_ignored hP h _ _

theorem State.judgeLink_ignored {s : State} (h : P s.turns) (p : Nat) : P (s.judgeLink p).turns := by
  unfold State.judgeLink
  extract_lets lost t
  have ht : P t.turns := by rwa [(State.judgePort_acts (ps := [.regs, .links, .mgmt, .log, .outbox]) .refl (by decide)).turns (by decide)]
  split
  · refine State.workDown_ignored hP ?_ _ _
    rw [(State.updPort_acts (ps := [.regs, .links, .mgmt, .outbox]) (State.transitLost_acts .refl (by decide)) (by decide)).turns (by decide)]
    exact State.turnsLinkDown_ignored hP ht _ _
  · exact ht

theorem State.commitPorts_ignored {s : State} (h : P s.turns) (old : State) : P (s.commitPorts old).turns := by
  unfold State.commitPorts
  extract_lets ports word moved torus
  split
  · exact h
  · refine foldl_keeps (P := fun u : State => P u.turns) (fun p _ u hu => ?_) h
    dsimp only
    split
    · refine State.judgeLink_ignored hP ?_ _
      rwa [(State.sendIdent_acts (ps := [.regs, .links, .mgmt, .outbox]) (State.updPort_acts .refl (by decide)) (by decide)).turns (by decide)]
    · exact hu

theorem State.commitEntries_ignored {s : State} (h : P s.turns) (es : List Staged) (b : Bool) : P (s.commitEntries es b).turns := by
  unfold State.commitEntries
  extract_lets t u named w
  have hbefore : Acts [.spine, .draws, .regs, .mem, .moving, .cmds, .weights, .links, .lockage, .keepsake, .panel, .mgmt, .log, .outbox] s
      ((((((u.commitSegs s).commitHistory s).commitSockets s named).commitUnits s).commitContexts s).commitSensors s) := by
    have hu : Acts [.spine, .draws, .regs, .mem, .moving, .cmds, .weights, .links, .lockage, .keepsake, .panel, .mgmt, .log, .outbox] s u := by
      unfold u
      split
      · exact State.ksWrite_acts (State.commitEpoch_acts .refl (by decide)) (by decide)
      · exact State.commitEpoch_acts .refl (by decide)
    exact State.commitSensors_acts (State.commitContexts_acts (State.commitUnits_acts (State.commitSockets_acts
      (State.commitHistory_acts (State.commitSegs_acts hu .refl (by decide)) .refl (by decide)) .refl (by decide)) .refl (by decide)) .refl
      (by decide)) .refl (by decide)
  rw [(State.record_acts (ps := [.regs, .logbook, .outbox]) (State.raise_acts .refl (by decide)) (by decide)).turns (by decide)]
  exact State.commitPorts_ignored hP (by rwa [hbefore.turns (by decide)]) _

theorem State.settleColls_ignored {s : State} (h : P s.turns) : P s.settleColls.turns := by
  refine foldl_keeps (P := fun u : State => P u.turns) (fun k _ u hu => ?_) h
  split
  · exact State.closeColl_ignored hP hu _ _ _ _
  · exact hu

theorem State.failRead_ignored {s : State} (h : P s.turns) (k : Coll) (src : List (Nat × Nat)) (st : Nat) : P (s.failRead k src st).turns := by
  unfold State.failRead
  extract_lets t
  have ht : P t.turns := State.failColl_ignored hP
    (by rwa [(State.noteRanges_acts (ps := [.draws, .regs, .mem, .units, .weights, .log, .outbox]) .refl (by decide)).turns (by decide)]) _ _ _
  split
  · rwa [(State.poisonRanges_acts (ps := [.mem]) .refl (by decide)).turns (by decide)]
  · exact ht

theorem State.chainsRun_ignored {s : State} (h : P s.turns) (c : Cmd) : P (s.chainsRun c).turns := by
  unfold State.chainsRun
  extract_lets n sh blocks one t
  have ht : P t.turns := by rwa [(State.updColl_acts (ps := [.colls]) .refl (by decide)).turns (by decide)]
  have hone : ∀ a i, Carries (fun u : State => P u.turns) a → Carries (fun u : State => P u.turns) (one a i) := by
    rintro (e | u) i hu
    · exact hu
    · dsimp only [one]
      cases (List.range (min chainMax (blocks - i * chainMax))).mapM fun j => s.ownBlock c sh (i * chainMax + j) with
      | error st => exact hu
      | ok bs =>
        dsimp only
        split
        · exact (congrArg P ((State.passBlocks_acts (ps := [.draws, .regs, .mem, .weights, .colls, .log, .outbox])
            (State.putFinal_acts .refl (by decide)) (by decide)).turns (by decide))).mpr hu
        · exact (congrArg P ((State.passBlocks_acts (ps := [.regs, .cmds, .links, .colls, .mgmt, .outbox])
            (State.sendColl_acts .refl (by decide)) (by decide)).turns (by decide))).mpr hu
  have hall := foldl_keeps (P := Carries fun u : State => P u.turns) (f := one) (l := List.range ((blocks + chainMax - 1) / chainMax))
    (fun i _ a => hone a i) (b := .ok t) ht
  split
  · exact State.settleColls_ignored hP ht
  · generalize List.foldl one (.ok t) (List.range ((blocks + chainMax - 1) / chainMax)) = run at hall ⊢
    cases run with
    | ok u => exact State.settleColls_ignored hP hall
    | error e =>
      dsimp only
      split
      · exact State.failRead_ignored hP hall _ _ _
      · exact hall

theorem State.giveResult_ignored {s : State} (h : P s.turns) (g : Nat) (v : VoteKey) (r : Bool) (m zeros lowest : Nat) :
    P (s.giveResult g v r m zeros lowest).turns := by
  refine foldl_keeps (P := fun u : State => P u.turns) (fun k _ u hu => ?_) h
  extract_lets h t
  have ht : P t.turns := by
    unfold t
    split
    · exact hu
    · exact hu
  split
  · exact State.closeColl_ignored hP ht _ _ _ _
  · split
    · exact State.chainsRun_ignored hP ht _
    · exact State.closeColl_ignored hP ht _ _ _ _

theorem State.tallyVote_ignored {s : State} (h : P s.turns) (g n : Nat) (v : VoteKey) : P (s.tallyVote g n v).turns := by
  rw [State.tallyVote]
  split
  · exact h
  · refine State.giveResult_ignored hP ?_ _ _ _ _ _ _
    rwa [(State.noteResult_acts (ps := [.regs, .colls, .outbox]) (State.putVote_acts .refl (by decide)) (by decide)).turns (by decide)]

theorem State.castVote_ignored {s : State} (h : P s.turns) (c : Cmd) : P (s.castVote c).turns := by
  unfold State.castVote
  extract_lets g n v0 own fresh v t0 body t
  have ht : Acts [.regs, .cmds, .links, .colls, .mgmt, .outbox] s t := by
    unfold t
    split
    · exact State.putVote_acts .refl (by decide)
    · exact State.sendVote_acts (State.sendVote_acts (State.putVote_acts .refl (by decide)) (by decide)) (by decide)
  split
  · exact State.giveResult_ignored hP (by rwa [ht.turns (by decide)]) _ _ _ _ _ _
  · exact State.tallyVote_ignored hP (by rwa [ht.turns (by decide)]) _ _ _

theorem State.openVote_ignored {s : State} (h : P s.turns) (n : Nat) (c : Cmd) :
    P (s.issue (.turn n) c fun v => (v.openColl c (.turn n)).castVote c).turns := by
  have hopen {u : State} (hu : P u.turns) : P (u.openColl c (.turn n)).turns := by
    rwa [(State.openColl_acts (ps := [.cmds, .colls]) .refl (by decide)).turns (by decide)]
  have hnoted : P (s.noteAccepted c).turns := by rwa [(State.noteAccepted_acts (ps := [.colls]) .refl (by decide)).turns (by decide)]
  unfold State.issue
  extract_lets t status
  split
  · exact State.closeColl_ignored hP (hopen hnoted) _ _ _ _
  · exact State.castVote_ignored hP (hopen hnoted) _

end

/-! ## TURN_PIECE -/

section
variable {s : State} {p n now : Nat} {m : Msg} {x : Turn}

theorem State.returnCredits_inbox (s : State) (p vc : Nat) (held : Nat × Nat) :
    ((s.returnCredits p vc held).port p).inbox = (s.port p).inbox := by
  unfold State.returnCredits
  extract_lets t word u
  have ht : (t.port p).inbox = (s.port p).inbox := by
    unfold t
    rw [State.updPort_port]
  have hu : Acts [.outbox] t u := by
    unfold u
    split
    · exact .refl
    · exact State.sendIdle_acts .refl (by decide)
  split
  · exact ht
  · split
    · rw [hu.port (by decide), ht]
    · rw [(State.sendIdle_acts hu (by decide)).port (by decide), ht]

theorem State.consume_inbox (s : State) (p : Nat) (m : Msg) : ((s.consume p m).port p).inbox = (s.port p).inbox.erase m := by
  rw [State.consume, State.returnCredits_inbox, State.updPort_port]

/-- The piece of the one turn in TRANSFER is placed, or counted as stale where it has the wrong form. -/
theorem State.turnPiece_takes (hinbox : (s.port p).inbox = [m]) (hclass : m.cls = 0x1101) (hturns : s.turns = [(n, x)])
    (hid : x.cmd.param 40 4 = m.context) (hphase : x.phase = 3) (hgoes : x.failing = none) :
    s.turnPiece p = if pieceFormFails m.body || m.body.length < 48 then (s.consume p m).stalePiece n
      else ({ s.consume p m with acting := .idle } : State).placePiece n x (readPiece m.body) (m.body.drop 48)
        (m.poison.map fun q => (q.1 - 48, q.2 - (48 - q.1))) := by
  simp [State.turnPiece, hinbox, hclass, hturns, hid, hphase, hgoes]

/-- A piece without target is counted as stale. -/
theorem State.placePiece_stale {z : Piece} {body : List Byte} {poison : List (Nat × Nat)} (htarget : x.model.bind z.target = none) :
    s.placePiece n x z body poison = s.stalePiece n := by
  rw [State.placePiece, htarget]

/-- A piece with a target counts its bytes as placed. -/
theorem State.placePiece_turn {z : Piece} {body : List Byte} {poison : List (Nat × Nat)} (htarget : (x.model.bind z.target).isSome = true)
    (hturn : lookup n s.turns = some x) :
    ∃ y, lookup n (s.placePiece n x z body poison).turns = some y ∧ y.placed = x.placed + body.length := by
  unfold State.placePiece
  split
  case h_2 hnone =>
    obtain ⟨d, hd⟩ := Option.isSome_iff_exists.mp htarget
    obtain ⟨model, hmodel, -⟩ := Option.bind_eq_some_iff.mp hd
    exact (hnone d model hd hmodel).elim
  extract_lets base k data e place units out src s0 s1 dr s2 bad s3
  have h1 : Acts [.draws, .regs, .mem, .weights, .log, .outbox] s0 s1 := Acts.foldl .refl fun _ _ h => State.putPattern_acts h (by decide)
  have h2 : Acts [.draws, .regs, .mem, .weights, .log, .outbox] s0 s2 := State.placeScales_acts (Acts.set_draws h1 (by decide)) (by decide)
  have h3 : Acts [.draws, .regs, .mem, .weights, .log, .outbox] s0 s3 := Acts.foldl h2 fun _ _ h => State.poisonRange_acts h (by decide)
  have hturn : lookup n s3.turns = some x := by rw [h3.turns (by decide), ← hturn]
  refine ⟨{ x with placed := x.placed + body.length, poisoned := x.poisoned || !bad.isEmpty }, ?_, rfl⟩
  rw [(State.add64_acts (ps := [.regs]) .refl (by decide)).turns (by decide)]
  exact State.updTurn_lookup hturn _

/-- What consuming a message of a port leaves: memory and turns. -/
theorem State.consume_acts' (m : Msg) : Acts [.clock, .links, .mgmt, .outbox] s ((s.at now).consume p m) :=
  State.consume_acts (State.at_acts .refl (by decide)) (by decide)

theorem turnPiece_placed (hinbox : (s.port p).inbox = [m]) (hclass : m.cls = 0x1101) (hturns : s.turns = [(n, x)])
    (hid : x.cmd.param 40 4 = m.context) (hphase : x.phase = 3) (hgoes : x.failing = none) (hform : pieceFormFails m.body = false)
    (hlong : 48 ≤ m.body.length) (htarget : (x.model.bind (readPiece m.body).target).isSome = true) :
    Reaches (execTurnPiece p now s) fun t =>
      t.mem = (({ (s.at now).consume p m with acting := .idle } : State).placePiece n x (readPiece m.body) (m.body.drop 48)
        (m.poison.map fun q => (q.1 - 48, q.2 - (48 - q.1)))).mem ∧
      ∃ y, lookup n t.turns = some y ∧ y.placed = x.placed + (m.body.length - 48) := by
  have hplaced := (State.turnPiece_takes (s := s.at now) (by rw [State.at_port, hinbox]) hclass (by rw [State.at_turns, hturns]) hid hphase hgoes).trans
    (if_neg (by simp [hform, hlong]))
  have hfound : lookup n ({ (s.at now).consume p m with acting := .idle } : State).turns = some x := by
    rw [show ({ (s.at now).consume p m with acting := .idle } : State).turns = s.turns from ((State.consume_acts' m).turns (by decide)), hturns]
    exact if_pos rfl
  rw [← List.length_drop]
  exact runs_reaches_to hplaced ⟨rfl, State.placePiece_turn htarget hfound⟩

theorem turnPiece_stale (hinbox : (s.port p).inbox = [m]) (hclass : m.cls = 0x1101) (hturns : s.turns = [(n, x)])
    (hid : x.cmd.param 40 4 = m.context) (hphase : x.phase = 3) (hgoes : x.failing = none)
    (htarget : x.model.bind (readPiece m.body).target = none) :
    Reaches (execTurnPiece p now s) fun t => t.mem = s.mem ∧ t.turns = s.turns ∧ (t.port p).inbox = [] := by
  have hstale : (s.at now).turnPiece p = ((s.at now).consume p m).stalePiece n ∨
      (s.at now).turnPiece p = ({ (s.at now).consume p m with acting := .idle } : State).stalePiece n := by
    rw [State.turnPiece_takes (by rw [State.at_port, hinbox]) hclass (by rw [State.at_turns, hturns]) hid hphase hgoes]
    split
    · exact .inl rfl
    · exact .inr (State.placePiece_stale htarget)
  have hleft {u : State} (hu : Acts [.regs, .outbox, .acting] ((s.at now).consume p m) u) :
      u.mem = s.mem ∧ u.turns = s.turns ∧ (u.port p).inbox = [] := by
    have hemptied : (((s.at now).consume p m).port p).inbox = [] := by rw [State.consume_inbox, State.at_port, hinbox, List.erase_cons_head]
    exact ⟨(hu.mem (by decide)).trans ((State.consume_acts' m).mem (by decide)), (hu.turns (by decide)).trans ((State.consume_acts' m).turns (by decide)), by rw [hu.port (by decide), hemptied]⟩
  cases hstale with
  | inl h =>
    have hkept := hleft (State.stalePiece_acts (svc := n) .refl (by decide))
    exact runs_reaches_to h hkept
  | inr h =>
    have hkept := hleft (State.stalePiece_acts (svc := n) (Acts.set_acting (v := .idle) .refl (by decide)) (by decide))
    exact runs_reaches_to h hkept

/-! ## TRANSFER_END -/

theorem State.messageAcked_at (s : State) (now k : Nat) : (s.at now).messageAcked k = s.messageAcked k := by
  rw [State.messageAcked, (State.at_acts (ps := [.clock]) .refl (by decide)).ports (by decide), ← State.messageAcked]

/-- TRANSFER_END once all pieces are acknowledged and placed. -/
theorem State.transferEnd_done (hturn : lookup n s.turns = some x) (hphase : x.phase = 3) (hgoes : x.failing = none)
    (hsent : x.sent.all (fun k => s.messageAcked k) = true) (hplaced : x.cmd.param 72 8 ≤ x.placed) :
    ∃ u : State, lookup n u.turns = some { x with phase := 4, transferUs := if x.toGeneration then (s.now - x.transferAt) / usec else 0 } ∧
      s.transferEnd n = if x.cmd.param 38 1 = 0xFF then u
        else (u.updTurn n fun t => { t with voting := true }).issue (.turn n) (u.barrierCmd n x) fun v =>
          (v.openColl (u.barrierCmd n x) (.turn n)).castVote (u.barrierCmd n x) := by
  refine ⟨(s.updTurn n fun t => { t with phase := 4, transferUs := if x.toGeneration then (s.now - x.transferAt) / usec else 0 }).setNat
    (turnReg n 0x10) (if x.toGeneration then (s.now - x.transferAt) / usec else 0), State.updTurn_lookup hturn _, ?_⟩
  rw [State.transferEnd, hturn]
  simp only [hphase, hgoes, hsent, hplaced, ne_eq, not_true_eq_false, decide_false, Option.isSome_none, Bool.or_self, decide_true, Bool.and_self,
    Bool.not_true, Bool.false_eq_true, if_false]

theorem transferEnd_commits (hturn : lookup n s.turns = some x) (hphase : x.phase = 3) (hgoes : x.failing = none)
    (hsent : x.sent.all (fun k => s.messageAcked k) = true) (hplaced : x.cmd.param 72 8 ≤ x.placed) (halone : x.cmd.param 38 1 = 0xFF) :
    Reaches (execTransferEnd n now s) fun t => lookup n t.turns = some { x with phase := 4, transferUs := if x.toGeneration then
      ((s.at now).now - x.transferAt) / usec else 0 } := by
  obtain ⟨u, hu, hend⟩ := State.transferEnd_done (s := s.at now) (by rw [State.at_turns, hturn]) hphase hgoes
    (by simpa only [State.messageAcked_at] using hsent) hplaced
  exact runs_reaches_to (hend.trans (if_pos halone)) hu

theorem transferEnd_votes (hturn : lookup n s.turns = some x) (hphase : x.phase = 3) (hgoes : x.failing = none)
    (hsent : x.sent.all (fun k => s.messageAcked k) = true) (hplaced : x.cmd.param 72 8 ≤ x.placed) (hgroup : x.cmd.param 38 1 ≠ 0xFF) :
    Reaches (execTransferEnd n now s) fun t => ∃ y, lookup n t.turns = some y ∧ y.phase = 4 ∧ y.voting = true ∧
      y.transferUs = if x.toGeneration then ((s.at now).now - x.transferAt) / usec else 0 := by
  obtain ⟨u, hu, hend⟩ := State.transferEnd_done (s := s.at now) (by rw [State.at_turns, hturn]) hphase hgoes
    (by simpa only [State.messageAcked_at] using hsent) hplaced
  obtain ⟨f, hw⟩ := State.openVote_ignored (hasTurn_ignoresFailing n { x with
      phase := 4, transferUs := if x.toGeneration then ((s.at now).now - x.transferAt) / usec else 0, voting := true })
    ⟨x.failing, State.updTurn_lookup hu fun t => { t with voting := true }⟩ n (u.barrierCmd n x)
  exact runs_reaches_to (hend.trans (if_neg hgroup)) ⟨_, hw, rfl, rfl, rfl⟩

/-! ## TURN_FINAL_COMMIT -/

theorem State.dropTurnColls_none (hcolls : s.colls = []) : s.dropTurnColls n = s := by
  unfold State.dropTurnColls
  extract_lets t _
  have ht : t = s := by
    unfold t
    rw [hcolls, List.filter_nil, List.foldl_nil]
  clear_value t
  subst ht
  rw [hcolls, List.filter_nil, ← hcolls]

/-- Whether older work is left is read off what the clock and the host do not touch. -/
theorem Acts.olderGone {t : State} (h : Acts [.clock, .host] s t) : t.olderGone = s.olderGone := by
  have hcommandOf : t.commandOf = s.commandOf := by
    funext w
    cases w <;> simp only [State.commandOf, h.sets (by decide), h.adapters (by decide), h.serving (by decide), h.trains (by decide)]
  simp only [State.olderGone, State.olderGoneBut, State.isCurrent, State.waitsForCommit, hcommandOf, h.inflight (by decide), h.commits (by decide), h.serving (by decide), h.trains (by decide),
    (h.spine (by decide))]

/-- The state that the final commit leaves before its effects. -/
def State.turnCommitted (s : State) (x : Turn) : State := s.commitEntries (s.turnEntries x.cmd) true

/-- The final commit of a turn that has nothing to wait for. -/
theorem State.turnFinal_commits (hturn : lookup n s.turns = some x) (hphase : x.phase = 4) (hgoes : x.failing = none) (hvoted : x.voting = false)
    (hcolls : s.colls = []) (hrests : ∀ v, lookup n s.serving = some v → v.step = none) (holder : s.olderGone = true)
    (hchecks : s.checkFails (s.turnEntries x.cmd) false = none) :
    s.turnFinal n = (({ (s.turnCommitted x).turnEffects n x with turns := erase n ((s.turnCommitted x).turnEffects n x).turns } : State).turnReport
      n x stSuccess 0).releaseHoldWait := by
  have hbusy : ∀ v, lookup n s.serving = some v → v.step.isSome = false := fun v hv => by rw [hrests v hv]; rfl
  rw [State.turnFinal, hturn]
  cases hserving : lookup n s.serving with
  | none => simp [hphase, hgoes, hvoted, holder, hchecks, State.dropTurnColls_none hcolls, State.turnCommitted]
  | some v => simp [hphase, hgoes, hvoted, holder, hchecks, State.dropTurnColls_none hcolls, State.turnCommitted, hbusy v hserving]

/-- What the report of a turn and the release of a hold leave. -/
theorem State.turnReported_acts (u : State) (st detail : Nat) :
    Acts [.draws, .regs, .mem, .host, .queues, .cmds, .weights, .logbook, .panel, .log, .outbox] u (u.turnReport n x st detail).releaseHoldWait :=
  State.releaseHoldWait_acts (State.turnReport_acts .refl (by decide)) (by decide)

theorem State.turnCommitted_acts : Acts [.spine, .draws, .regs, .mem, .moving, .cmds, .weights, .links, .colls, .turns, .logbook, .lockage,
    .keepsake, .panel, .mgmt, .log, .outbox] s (s.turnCommitted x) := State.commitEntries_acts .refl (by decide)

theorem State.turnEffects_of_generation {v : Serving} (hserving : lookup n s.serving = some v) (hgen : x.toGeneration = true) :
    lookup n (s.turnEffects n x).serving = some { v with
      set := x.cmd.param 37 1, model := x.model.getD v.model, seed := x.cmd.param 56 8, mixed := true, stopClasses := 0, turning := false, frozen := false } := by
  unfold State.turnEffects
  simp only [hserving, hgen, if_true]
  refine State.updServing_lookup ?_ _
  dsimp only
  rw [(State.updSet_acts (ps := [.regs, .weights, .logbook, .outbox]) (State.raise_acts (State.recordSet_acts (State.updSet_acts .refl (by decide))
    (by decide)) (by decide)) (by decide)).serving (by decide), hserving]

theorem State.turnEffects_acts' (u : State) : Acts [.regs, .weights, .serving, .trains, .logbook, .outbox] u (u.turnEffects n x) :=
  State.turnEffects_acts .refl (by decide)

theorem State.turnEffects_of_training {v : Serving} {q : Nat} {y : Train} (hserving : lookup n s.serving = some v) (hgen : x.toGeneration = false)
    (htrain : x.train = some q) (hlookup : lookup q s.trains = some y) :
    lookup n (s.turnEffects n x).serving = some { v with turning := false, frozen := false, parked := v.parked || !x.keepServe } ∧
      lookup q (s.turnEffects n x).trains = some { y with parked := false } := by
  rw [State.turnEffects, hserving]
  simp only [hgen, htrain, Bool.false_eq_true, if_false]
  constructor
  · rw [(State.updTrain_acts (ps := [.trains]) .refl (by decide)).serving (by decide)]
    exact State.updServing_lookup hserving _
  · exact State.updTrain_lookup ((congrArg (lookup q) ((State.updServing_acts (ps := [.serving]) .refl (by decide)).trains (by decide))).trans hlookup) _

section
variable {hv : HostView} (hphase : x.phase = 4) (hgoes : x.failing = none) (hvoted : x.voting = false) (hcolls : s.colls = [])
  (holder : s.olderGone = true) (hchecks : ((s.at now).sees hv).checkFails (((s.at now).sees hv).turnEntries x.cmd) false = none)
include hphase hgoes hvoted hcolls holder hchecks

/-- A final commit comes to its effects on the state that its entries leave. -/
theorem turnFinalCommit_reaches {P : State → Prop} (hturn : lookup n s.turns = some x) (hrests : ∀ v, lookup n s.serving = some v → v.step = none)
    (hP : ∀ z : State, Acts [.clock, .host] s z → ∀ t : State, t.turns = erase n (z.turnCommitted x).turns →
      t.serving = ((z.turnCommitted x).turnEffects n x).serving → t.trains = ((z.turnCommitted x).turnEffects n x).trains →
      t.spine.epoch = nextEpoch s.spine.epoch → P t) :
    Reaches (execTurnFinalCommit n now hv s) P := by
  have hz : Acts [.clock, .host] s ((s.at now).sees hv) := State.sees_acts (State.at_acts .refl (by decide)) (by decide)
  have holdest : ((s.at now).sees hv).olderGone = true := hz.olderGone.trans holder
  have hcommits := State.turnFinal_commits (s := (s.at now).sees hv) (by rw [hz.turns (by decide), hturn]) hphase hgoes hvoted (by rw [hz.colls (by decide), hcolls])
    (fun v h => hrests v (by rw [← hz.serving (by decide), h])) holdest hchecks
  have hend := State.turnReported_acts (n := n) (x := x) (({ (((s.at now).sees hv).turnCommitted x).turnEffects n x with
    turns := erase n ((((s.at now).sees hv).turnCommitted x).turnEffects n x).turns } : State)) stSuccess 0
  refine runsSpine_reaches_of_eq hcommits (hP _ hz _ ?_ (hend.serving (by decide)) (hend.trains (by decide)) ?_)
  · refine (hend.turns (by decide)).trans ?_
    dsimp only
    rw [(State.turnEffects_acts' _).turns (by decide)]
  · dsimp only
    rw [hend.spine (by decide)]
    dsimp only
    rw [(State.turnEffects_acts' _).spine (by decide), State.turnCommitted, State.commitEntries_epoch, hz.spine (by decide)]

theorem turnFinalCommit_ends (hturns : s.turns = [(n, x)]) (hrests : ∀ v, lookup n s.serving = some v → v.step = none) :
    Reaches (execTurnFinalCommit n now hv s) fun t => t.turns = [] ∧ t.spine.epoch = nextEpoch s.spine.epoch := by
  refine turnFinalCommit_reaches hphase hgoes hvoted hcolls holder hchecks (by rw [hturns]; exact if_pos rfl) hrests
    fun z hz t hleft _ _ hepoch => ⟨?_, hepoch⟩
  obtain ⟨f, hone⟩ := State.commitEntries_ignored (onlyTurn_ignoresFailing n x) ⟨x.failing, (hz.turns (by decide)).trans hturns⟩ (z.turnEntries x.cmd) true
  rw [hleft, State.turnCommitted, hone]
  exact if_pos rfl

theorem turnFinalCommit_serves {v : Serving} (hturn : lookup n s.turns = some x) (hgen : x.toGeneration = true)
    (hserving : lookup n s.serving = some v) (hrests : v.step = none) :
    Reaches (execTurnFinalCommit n now hv s) fun t => ∃ y, lookup n t.serving = some y ∧ y.set = x.cmd.param 37 1 ∧ y.mixed = true ∧
      y.model = x.model.getD v.model ∧ y.seed = x.cmd.param 56 8 ∧ y.turning = false ∧ y.frozen = false ∧ y.stopClasses = 0 := by
  refine turnFinalCommit_reaches hphase hgoes hvoted hcolls holder hchecks hturn
    (fun w h => by rw [← Option.some.inj (hserving.symm.trans h), hrests]) fun z hz t _ ht _ _ => ?_
  rw [ht, State.turnEffects_of_generation (v := v) (by rw [State.turnCommitted_acts.serving (by decide), hz.serving (by decide), hserving]) hgen]
  exact ⟨_, rfl, rfl, rfl, rfl, rfl, rfl, rfl, rfl⟩

theorem turnFinalCommit_resumes {v : Serving} {q : Nat} {y : Train} (hturn : lookup n s.turns = some x) (hgen : x.toGeneration = false)
    (hserving : lookup n s.serving = some v) (hrests : v.step = none) (htrain : x.train = some q) (hlookup : lookup q s.trains = some y) :
    Reaches (execTurnFinalCommit n now hv s) fun t => ∃ z w, lookup n t.serving = some z ∧ z.turning = false ∧ z.frozen = false ∧
      z.parked = (v.parked || !x.keepServe) ∧ lookup q t.trains = some w ∧ w.parked = false := by
  refine turnFinalCommit_reaches hphase hgoes hvoted hcolls holder hchecks hturn
    (fun w h => by rw [← Option.some.inj (hserving.symm.trans h), hrests]) fun z hz t _ ht htrains _ => ?_
  obtain ⟨hserves, htrains'⟩ := State.turnEffects_of_training (s := z.turnCommitted x) (n := n) (v := v) (y := y)
    (by rw [State.turnCommitted_acts.serving (by decide), hz.serving (by decide), hserving]) hgen htrain (by rw [State.turnCommitted_acts.trains (by decide), hz.trains (by decide), hlookup])
  exact ⟨_, _, (congrArg (lookup n) ht).trans hserves, rfl, rfl, rfl, (congrArg (lookup q) htrains).trans htrains', rfl⟩

end

/-! ## XFER_TIMEOUT -/

theorem xferTimeout_fails (hturn : lookup n s.turns = some x) (hphase : x.phase = 3) (hgoes : x.failing = none)
    (hlimit : x.cmd.param 50 2 ≠ 0) (hlate : (s.at now).expired (x.transferAt + x.cmd.param 50 2 * msec) = true) :
    Reaches (execXferTimeout n now s) fun t => t.commits = s.commits ++ [⟨.turnAbandon n, []⟩] ∧
      lookup n t.turns = some { x with failing := some (stTimedOut, false) } := by
  have hcommits : ((s.at now).updTurn n fun t => { t with failing := some (stTimedOut, false) }).commits = s.commits :=
    ((State.updTurn_acts (ps := [.clock, .turns]) (State.at_acts .refl (by decide)) (by decide)).commits (by decide))
  rw [← s.at_turns now] at hturn
  have hfails : (s.at now).xferTimeout n = (s.at now).failTurn n stTimedOut false := by
    rw [State.xferTimeout, hturn]
    simp [hphase, hlimit, hlate]
  exact runs_reaches_to (hfails.trans (State.failTurn_fails hturn hgoes _ _)) ⟨congrArg (· ++ _) hcommits, State.updTurn_lookup hturn _⟩

end

/-- Settles O45: each row's own lemmas, in the order of the clauses. -/
theorem turnsTransferAndCommit : Obligations.TurnsTransferAndCommit :=
  ⟨fun _ _ _ _ _ _ => turnPiece_placed, fun _ _ _ _ _ _ hinbox hclass hturns hid hphase hgoes _ => turnPiece_stale hinbox hclass hturns hid hphase hgoes,
   fun _ _ _ _ => transferEnd_commits, fun _ _ _ _ => transferEnd_votes,
   fun _ _ _ _ _ hturns hphase hgoes hvoted hcolls hrests holder hchecks =>
    turnFinalCommit_ends hphase hgoes hvoted hcolls holder hchecks hturns hrests,
   fun _ _ _ _ _ _ hturn hphase hgoes hvoted hcolls hgen hserving hrests holder hchecks =>
    turnFinalCommit_serves hphase hgoes hvoted hcolls holder hchecks hturn hgen hserving hrests,
   fun _ _ _ _ _ _ _ _ hturn hphase hgoes hvoted hcolls hgen hserving hrests holder hchecks htrain =>
    turnFinalCommit_resumes hphase hgoes hvoted hcolls holder hchecks hturn hgen hserving hrests htrain,
   fun _ _ _ _ => xferTimeout_fails⟩

end Sys2Proof.Machine
end

section
/-! PROOF. CHECKPOINT_IMPORT (R513): the statement speaks of every image whose CRC can be compared, and the context's own blocks may lie where no
write reaches them, in a lost socket (R93). -/

namespace Sys2Proof.Machine

open Sys2Proof

/-! ## An import whose blocks cannot be written -/

theorem State.unitsOf_first (s : State) (a n : Nat) : s.poisonUnit (s.phys a) ∈ s.unitsOf a (n + 1) := by
  rw [State.unitsOf, List.range_succ_eq_map, List.foldr_cons]
  dsimp only
  split
  next u us hrest =>
    split
    next h => exact hrest ▸ h ▸ List.mem_cons_self
    next => exact List.mem_cons_self
  next => exact List.mem_singleton_self _

/-- A write that begins in a lost socket ends REACH_LOST. -/
theorem State.writeStatus_noModule {s : State} {a : Nat} (n : Nat) (hlost : s.noModule (s.poisonUnit (s.phys a)) = true) :
    s.writeStatus a (n + 1) = some stReachLost := by
  have hany : (s.unitsOf a (n + 1)).any s.noModule = true := List.any_eq_true.mpr ⟨_, s.unitsOf_first a n, hlost⟩
  rw [State.writeStatus]
  simp only [hany, if_true]

/-- An accepted import of an image in host memory, for a context of one block that cannot be written, ends with that write's status. -/
theorem State.checkpointImport_unwritten {z : State} {c k : Cmd} {a st : Nat}
    (hok : theRefusal (z.importFails c (z.readPlace (placeOf (c.param 40 8)) 0 (z.imageBytes c.epoch (c.param 32 1))).1) = none)
    (hread : (z.readPlace (placeOf (c.param 40 8)) 0 (z.imageBytes c.epoch (c.param 32 1))).2 = none)
    (hplace : placeOf (c.param 40 8) = .host a) (hquiet : ∀ bs, z.recordHostRead c.queue a bs = z)
    (hone : z.ctxBlocks c.epoch (c.param 32 1) = 1)
    (hunwritten : ∀ j < 2, z.writeStatus (z.blockAddr c.epoch (c.param 32 1) 0 j) 768 = some st) (hcmd : z.cmd c.ref = some k) :
    (z.checkpointImport c).Ended c.ref st := by
  unfold State.checkpointImport
  extract_lets x l setGen n r u g j unwritten t0 t1 t2 others t3 t4
  have hu : u = z := by
    unfold u
    rw [hplace]
    exact hquiet r.1
  clear_value u
  subst hu
  have hstatus : unwritten = some st := by
    unfold unwritten
    rw [show u.ctxBlocks c.epoch x = 1 from hone, List.range_one, List.findSome?_singleton]
    exact hunwritten j (Nat.mod_lt _ (by decide))
  have h2 : Acts [.draws, .regs, .mem, .units, .weights, .keepsake, .log, .outbox] u t2 := by
    have h1 : Acts [.draws, .regs, .mem, .units, .weights, .keepsake, .log, .outbox] u t1 :=
      State.putSlotHeader_acts (Acts.foldl .refl fun _ _ h => State.writeMem_acts h (by decide)) (by decide)
    exact .ite (State.setLane_acts h1 (by decide)) h1
  have h3 : Acts [.draws, .regs, .mem, .units, .weights, .keepsake, .log, .outbox] u t3 :=
    .ite (Acts.foldl h2 fun _ _ h => State.checkLive_acts h (by decide)) h2
  have h4 : Acts [.draws, .regs, .mem, .units, .weights, .keepsake, .log, .outbox] u (t4.loseState x) :=
    State.loseState_acts (Acts.foldl h3 fun _ _ h => State.noteShadow_acts h (by decide)) (by decide)
  rw [show theRefusal (u.importFails c r.1) = none from hok, show r.2 = none from hread, hstatus]
  exact State.finish_ended (k := k) ((State.cmd_congr (h4.inflight (by decide))).trans hcmd)

theorem checkpointImport_unwritten {s : State} {r : CmdRef} {c : Cmd} {hv : HostView} {a st : Nat} (hready : s.Ready 0x7003 r c)
    (hok : theRefusal ((s.meets hv c).importFails c
      ((s.meets hv c).readPlace (placeOf (c.param 40 8)) 0 ((s.meets hv c).imageBytes c.epoch (c.param 32 1))).1) = none)
    (hread : ((s.meets hv c).readPlace (placeOf (c.param 40 8)) 0 ((s.meets hv c).imageBytes c.epoch (c.param 32 1))).2 = none)
    (hplace : placeOf (c.param 40 8) = .host a) (hquiet : ∀ bs, (s.meets hv c).recordHostRead c.queue a bs = s.meets hv c)
    (hone : (s.meets hv c).ctxBlocks c.epoch (c.param 32 1) = 1)
    (hunwritten : ∀ j < 2, (s.meets hv c).writeStatus ((s.meets hv c).blockAddr c.epoch (c.param 32 1) 0 j) 768 = some st) :
    Reaches (execCheckpointImport r hv s) fun t => t.Ended r st := by
  obtain rfl := hready.ref
  have hended := State.checkpointImport_unwritten (k := c) hok hread hplace hquiet hone hunwritten hready.1
  exact hready.reaches hended

/-! ## The state -/

/-- CHECKPOINT_IMPORT into context 1 from host memory at 0x1000, taking over the image's generation. -/
def hostImport : Cmd := acceptedBefore 0x7003 (leBytes 1 1 ++ leBytes 1 1 ++ zeros 6 ++ leBytes 8 (2 ^ 62 + 0x1000) ++ zeros 16)

/-- The header of an image of one block, as the host holds it. -/
def hostImage : HostView := ⟨(List.range 12).zip (leBytes 4 checkpointMagic ++ zeros 4 ++ leBytes 4 1) |>.map fun x => (0x1000 + x.1, x.2), []⟩

/-- The device with update context 1 of one block, whose state lies in socket 0, and that socket lost. -/
def lostSocketState : State :=
  { State.reset with
    regs := State.reset.regs ++ [(ctxBase 1, 2 ^ 31), (ctxBase 1 + 4, 1), (ctxBase 1 + 8, 0), (ctxBase 1 + 12, 0x100)]
    panel := { State.reset.panel with sockets := [(0, ⟨.lost, 0, false⟩)] }
    inflight := [hostImport] }

theorem lostSocketState_ready : lostSocketState.Ready 0x7003 ⟨1, 7⟩ hostImport :=
  ⟨rfl, rfl, rfl, by simp [State.earlier, lostSocketState, hostImport, acceptedBefore, Cmd.is], by simp [hostImport, acceptedBefore]⟩

/-- The device as the import meets it. -/
def importMet : State := lostSocketState.meets hostImage hostImport

/-- What the import reads of the host. -/
def importRead : List Byte × Option Nat :=
  importMet.readPlace (placeOf (hostImport.param 40 8)) 0 (importMet.imageBytes hostImport.epoch (hostImport.param 32 1))

theorem importMet_accepts : theRefusal (importMet.importFails hostImport importRead.1) = none := by decide +kernel

theorem importMet_reads : importRead.2 = none := by decide +kernel

/-- Both slots of the block lie in the lost socket. -/
theorem importMet_lost : ∀ j < 2, importMet.noModule (importMet.poisonUnit (importMet.phys
    (importMet.blockAddr hostImport.epoch (hostImport.param 32 1) 0 j))) = true := by decide +kernel

/-- The import ends REACH_LOST. -/
theorem lostSocketState_import : Reaches (exec (.checkpointImport ⟨1, 7⟩ hostImage) lostSocketState) fun t => t.Ended ⟨1, 7⟩ stReachLost :=
  checkpointImport_unwritten (a := 0x1000) lostSocketState_ready importMet_accepts importMet_reads (by decide +kernel) (fun _ => rfl)
    (by decide +kernel) fun j hj => State.writeStatus_noModule 767 (importMet_lost j hj)

/-- A command that ends REACH_LOST neither succeeds nor ends UNCORRECTABLE. -/
theorem reachLost_excludes {o : Host.Outcome State Fault Refusal} {r : CmdRef} {same : Prop} [Decidable same]
    (hlost : Reaches o fun t => t.Ended r stReachLost)
    (hclaim : Reaches o fun t => if same then t.Answered r {} else t.Ended r stUncorrectable) : False := by
  obtain ⟨t, ⟨c, hc, -, hstatus⟩, hclaim⟩ := hlost.both hclaim
  split at hclaim
  · obtain ⟨d, hd, -, hsuccess, -⟩ := hclaim
    obtain rfl := Option.some.inj (hc.symm.trans hd)
    rw [hstatus] at hsuccess
    exact absurd hsuccess (by decide)
  · obtain ⟨d, hd, -, hbad⟩ := hclaim
    obtain rfl := Option.some.inj (hc.symm.trans hd)
    rw [hstatus] at hbad
    exact absurd hbad (by decide)

/-- Refutes O43: an import into a context whose state lies in a lost socket ends REACH_LOST, whatever the image's CRC. -/
theorem not_checkpointsComplete : ¬ Obligations.CheckpointsComplete := by
  intro h
  obtain ⟨-, -, himport, -⟩ := h
  exact reachLost_excludes lostSocketState_import
    (himport lostSocketState ⟨1, 7⟩ hostImport hostImage lostSocketState_ready importMet_accepts importMet_reads)

end Sys2Proof.Machine
end

section
/-! PROOF. GATHER in a ring of one (R402): the statement speaks of every coordinate of the device on its axis, and where the axis gives it another
than 0 the own shard is not the ring's only one. -/

namespace Sys2Proof.Machine

open Sys2Proof

/-- GATHER of one FP32 element from 0x4000 to 0x8000, in group 0. -/
def gatherAlone : Cmd := wc 0x5000 [(36, 4, 1), (40, 4, 1), (48, 1, 0x01), (49, 1, 0x01), (56, 8, 1), (64, 8, 0x4000), (72, 8, 0x8000)]

/-- The device with group 0 on axis A, whose size is one and whose coordinate is 1. -/
def offsetState : State := on ((grouped ber).setNat (axisWord 0) (2 ^ 8 + 1)) gatherAlone

theorem offsetState_ready : offsetState.Ready 0x5000 ⟨1, 7⟩ gatherAlone := by
  unfold State.Ready
  decide +kernel

theorem offsetState_takes :
    (offsetState.meets noHost gatherAlone).TakesColl gatherAlone ((offsetState.meets noHost gatherAlone).gatherFails gatherAlone) := by
  unfold State.TakesColl
  decide +kernel

theorem offsetState_reads : (offsetState.meets noHost gatherAlone).rangesStatus
    (arrayRanges (gatherAlone.param 48 1) (gatherAlone.param 64 8) 1 (gatherAlone.param 56 8)) = none := by decide +kernel

/-- The shard of coordinate 0 never comes, and the command still waits for it. -/
theorem offsetState_gather : Reaches (exec (.gather ⟨1, 7⟩ noHost) offsetState) fun t => (t.cmd ⟨1, 7⟩).map Cmd.stage = some .running :=
  offsetState_ready.reaches (by decide +kernel)

/-- Refutes O28: in a ring of one whose member has another coordinate than 0, a GATHER does not complete. -/
theorem not_collectiveCommandsComplete : ¬ Obligations.CollectiveCommandsComplete := by
  intro h
  obtain ⟨hgather, -⟩ := h
  obtain ⟨t, hruns, ⟨c, hc, hdone, -⟩, -⟩ := offsetState_gather.both
    (hgather offsetState ⟨1, 7⟩ gatherAlone noHost offsetState_ready offsetState_takes offsetState_reads (by decide +kernel) (.inl (by decide +kernel)))
  rw [hc, Option.map_some, hdone] at hruns
  exact absurd hruns (by decide)

end Sys2Proof.Machine
end

section
/-! PROOF. ADMIT and ROLLOUT (R433, R461): the arms of RequestsAreAdmitted. -/

namespace Sys2Proof.Machine

open Sys2Proof

/-! ## An entry of the manifest -/

/-- Entry i of the manifest belongs to a service and a request, and has a state. -/
def State.EntryAt (s : State) (i svc request state : Nat) : Prop :=
  ∃ e, lookup i s.manifest = some e ∧ e.svc = svc ∧ e.request = request ∧ e.state = state

section
variable {s : State} {i svc request state : Nat}

theorem State.EntryAt.of_manifest {t : State} (h : s.EntryAt i svc request state) (ht : t.manifest = s.manifest) : t.EntryAt i svc request state := by
  rwa [State.EntryAt, ht]

theorem State.updServing_manifest (s : State) (n : Nat) (f : Serving → Serving) : (s.updServing n f).manifest = s.manifest := by
  rw [State.updServing]
  split <;> rfl

theorem State.EntryAt.updServing (h : s.EntryAt i svc request state) (n : Nat) (f : Serving → Serving) :
    (s.updServing n f).EntryAt i svc request state := h.of_manifest (State.updServing_manifest ..)

theorem State.EntryAt.updEntry (h : s.EntryAt i svc request state) (j : Nat) {f : Entry → Entry}
    (hf : ∀ e, (f e).svc = e.svc ∧ (f e).request = e.request ∧ (f e).state = e.state) : (s.updEntry j f).EntryAt i svc request state := by
  obtain ⟨e, hlookup, hsvc, hrequest, hstate⟩ := h
  by_cases hij : i = j
  · subst hij
    exact ⟨f e, State.updEntry_lookup hlookup f, (hf e).1.trans hsvc, (hf e).2.1.trans hrequest, (hf e).2.2.trans hstate⟩
  · refine ⟨e, ?_, hsvc, hrequest, hstate⟩
    rw [State.updEntry]
    split
    · exact (lookup_insert_ne hij).trans hlookup
    · exact hlookup

theorem State.EntryAt.writeMem (h : s.EntryAt i svc request state) (a : Nat) (bs : List Byte) : (s.writeMem a bs).EntryAt i svc request state :=
  h.of_manifest ((State.writeMem_acts (ps := [.draws, .regs, .mem, .weights, .log, .outbox]) .refl (by decide)).manifest (by decide))

theorem State.EntryAt.addSpan (h : s.EntryAt i svc request state) (n j : Nat) : (s.addSpan n j).EntryAt i svc request state := by
  unfold State.addSpan
  split
  · extract_lets r ps t u w
    have ht : t.EntryAt i svc request state := h.updServing n _
    have hu : u.EntryAt i svc request state := ht.updEntry j fun _ => ⟨rfl, rfl, rfl⟩
    have hw : w.EntryAt i svc request state := hu.writeMem _ _
    clear_value w
    split
    · exact hw.writeMem _ _
    · exact hw
  · exact h

theorem State.EntryAt.coverTo (h : s.EntryAt i svc request state) (n j p : Nat) : (s.coverTo n j p).EntryAt i svc request state := by
  induction p generalizing s with
  | zero => exact h
  | succ p ih => exact ih (h.addSpan n j)

end

/-! ## The place of a new entry -/

section
variable {s : State} {n : Nat} {k : Serving} {e : Entry}

theorem lowestFree_head_lt (used : List Nat) : (lowestFree used 16384 1).headD 0 < 16384 := by
  cases h : lowestFree used 16384 1 with
  | nil => decide
  | cons i is =>
    have hi : i ∈ lowestFree used 16384 1 := h ▸ List.mem_cons_self
    exact List.mem_range.mp (List.mem_of_mem_filter (List.mem_of_mem_take hi))

/-- A new entry stands where the lowest free index is, and its service's queue holds it where it is held. -/
theorem State.placeEntry_stands {hold : Bool} :
    ∃ i < 16384, (s.placeEntry n k e hold).1.EntryAt i e.svc e.request (if hold then 1 else 2) ∧
      (hold = true → ∀ v, lookup n s.serving = some v → ∃ x, lookup n (s.placeEntry n k e hold).1.serving = some x ∧ x.held = v.held ++ [i]) := by
  refine ⟨_, lowestFree_head_lt (s.manifest.map Prod.fst), ?_⟩
  unfold State.placeEntry
  extract_lets i live version e' used t0 t1 t2
  have he : e'.svc = e.svc ∧ e'.request = e.request ∧ e'.state = if hold then 1 else 2 := ⟨rfl, rfl, rfl⟩
  clear_value e' live
  have h1 : t1.manifest = insert i e' s.manifest ∧ t1.serving = s.serving := by
    have hacts : Acts [.weights] ({ s with manifest := insert i e' s.manifest } : State) t1 := by
      have h0 : Acts [.weights] ({ s with manifest := insert i e' s.manifest } : State) t0 := State.updSet_acts .refl (by decide)
      unfold t1
      split
      · exact State.updAdapter_acts h0 (by decide)
      · exact h0
    exact ⟨hacts.manifest (by decide), hacts.serving (by decide)⟩
  have h2 : t2.EntryAt i e.svc e.request (if hold then 1 else 2) :=
    State.EntryAt.updServing (s := t1) ⟨e', by rw [h1.1]; exact lookup_insert, he⟩ n _
  cases hold with
  | true => exact ⟨h2, fun _ v hv => ⟨_, State.updServing_lookup (s := t1) (by rw [h1.2, hv]) _, rfl⟩⟩
  | false =>
    refine ⟨?_, fun h => absurd h (by decide)⟩
    have h3 : (t2.coverTo n i (spansFor e'.promptLen)).EntryAt i e.svc e.request 2 := h2.coverTo n i _
    exact h3.of_manifest ((State.putRecord_acts (ps := [.draws, .regs, .mem, .host, .weights, .log, .outbox]) .refl (by decide)).manifest (by decide))

end

/-! ## ADMIT -/

section
variable {s : State} {r : CmdRef} {k : Cmd} {hv : HostView} {v : Serving}

theorem State.tooLong_false {z : State} {n len : Nat} (hserving : lookup n z.serving = some v) (hshort : len ≤ v.maxContext) :
    z.tooLong k n len = false := by
  rw [State.tooLong, hserving]
  simp [Nat.not_lt.mpr hshort]

/-- What a new entry leaves in flight. -/
theorem State.placeEntry_inflight (z : State) (n : Nat) (v : Serving) (e : Entry) (hold : Bool) :
    (z.placeEntry n v e hold).1.inflight = z.inflight :=
  (State.placeEntry_acts (ps := [.draws, .regs, .mem, .host, .weights, .serving, .log, .outbox]) .refl (by decide)).inflight (by decide)

/-- The record of the decision to let a request in or to hold it. -/
def State.admitted (z : State) (c : Cmd) (v : Serving) (fits : Bool) : State :=
  (z.placeEntry (c.param 32 1) v c.admitEntry (!fits)).1.recordDecision v.queue
    (leBytes 1 1 ++ leBytes 1 (c.param 32 1) ++ leBytes 2 0 ++ leBytes 4 (bit fits) ++ leBytes 8 (c.param 88 8))

theorem State.admitSequence_places {z : State} {fits : Bool}
    (hranges : theRefusal (z.admitRanges k (k.param 72 8) (k.param 44 4) (k.param 80 8) (k.param 48 4) 72 80) = none)
    (hok : z.admitFails k (k.param 32 1) (k.param 33 1) (k.param 34 1) (k.param 40 4) = none)
    (hserving : lookup (k.param 32 1) z.serving = some v) (hshort : k.param 44 4 + k.param 48 4 ≤ v.maxContext)
    (hroom : z.manifest.length < 16384) (hfew : (z.entriesOf (k.param 32 1)).length < v.maxSeq)
    (hfits : ((z.classQueue (k.param 32 1) (k.param 33 1)).isEmpty && !v.turning && v.fits (spansFor (k.param 44 4))) = fits)
    (hholds : fits = false → (z.classQueue (k.param 32 1) (k.param 33 1)).length < v.holdDepth ∧ bitOf (k.param 35 1) 0 = false) :
    z.admitSequence k = if fits then (z.admitted k v fits).finish k.ref { status := stAdmitted }
      else (z.admitted k v fits).finish k.ref { status := stHeld, result1 := (z.classQueue (k.param 32 1) (k.param 33 1)).length + 1 } := by
  have hmay : (!fits && (decide (v.holdDepth ≤ (z.classQueue (k.param 32 1) (k.param 33 1)).length) || bitOf (k.param 35 1) 0)) = false := by
    cases fits with
    | true => rfl
    | false =>
      obtain ⟨hdepth, hmust⟩ := hholds rfl
      simp [hdepth, hmust]
  rw [State.admitSequence]
  simp only [hranges, State.tooLong_false hserving hshort, hok, hserving, hfits, hmay, Nat.not_le.mpr hroom, Nat.not_le.mpr hfew, decide_false,
    Bool.or_self, Bool.false_eq_true, if_false]
  rfl

theorem State.admitted_acts (z : State) (c : Cmd) (v : Serving) (fits : Bool) :
    Acts [.logbook] (z.placeEntry (c.param 32 1) v c.admitEntry (!fits)).1 (z.admitted c v fits) := State.recordDecision_acts .refl (by decide)

theorem State.admitted_cmd {z : State} {fits : Bool} (hcmd : z.cmd k.ref = some k) : (z.admitted k v fits).cmd k.ref = some k :=
  (State.cmd_congr (((z.admitted_acts k v fits).inflight (by decide)).trans (z.placeEntry_inflight ..))).trans hcmd

/-- The entry that ADMIT makes. -/
theorem State.admitted_entry (z : State) (fits : Bool) :
    ∃ i < 16384, (z.admitted k v fits).EntryAt i (k.param 32 1) (k.param 88 8) (if fits then 2 else 1) ∧
      (fits = false → ∀ w, lookup (k.param 32 1) z.serving = some w →
        ∃ x, lookup (k.param 32 1) (z.admitted k v fits).serving = some x ∧ x.held = w.held ++ [i]) := by
  obtain ⟨i, hi, hentry, hheld⟩ := z.placeEntry_stands (n := k.param 32 1) (k := v) (e := k.admitEntry) (hold := !fits)
  have hacts := z.admitted_acts k v fits
  refine ⟨i, hi, ?_, fun hholds w hw => ?_⟩
  · have hplaced := hentry.of_manifest (hacts.manifest (by decide))
    cases fits <;> exact hplaced
  · rw [hacts.serving (by decide)]
    exact hheld (by rw [hholds]; rfl) w hw

theorem admitSequence_admits (hready : s.Ready 0x6002 r k)
    (hranges : theRefusal ((s.meets hv k).admitRanges k (k.param 72 8) (k.param 44 4) (k.param 80 8) (k.param 48 4) 72 80) = none)
    (hok : (s.meets hv k).admitFails k (k.param 32 1) (k.param 33 1) (k.param 34 1) (k.param 40 4) = none)
    (hserving : lookup (k.param 32 1) s.serving = some v) (hshort : k.param 44 4 + k.param 48 4 ≤ v.maxContext)
    (hroom : s.manifest.length < 16384) (hfew : (s.entriesOf (k.param 32 1)).length < v.maxSeq)
    (hqueue : s.classQueue (k.param 32 1) (k.param 33 1) = []) (hturning : v.turning = false) (hfits : v.fits (spansFor (k.param 44 4)) = true) :
    Reaches (execAdmitSequence r hv s) fun t => t.Answered r { status := stAdmitted } ∧
      ∃ i e, i < 16384 ∧ lookup i t.manifest = some e ∧ e.svc = k.param 32 1 ∧ e.request = k.param 88 8 ∧ e.state = 2 := by
  obtain rfl := hready.ref
  have hplaces := State.admitSequence_places (z := s.meets hv k) (fits := true) hranges hok hserving hshort hroom hfew
    (by rw [show (s.meets hv k).classQueue _ _ = [] from hqueue, hturning, hfits]; rfl) (fun h => absurd h (by decide))
  obtain ⟨i, hi, ⟨e, hentry⟩, -⟩ := (s.meets hv k).admitted_entry (k := k) (v := v) true
  exact hready.reaches_eq hplaces ⟨State.finish_answered (State.admitted_cmd hready.1), i, e, hi, hentry⟩

theorem admitSequence_holds (hready : s.Ready 0x6002 r k)
    (hranges : theRefusal ((s.meets hv k).admitRanges k (k.param 72 8) (k.param 44 4) (k.param 80 8) (k.param 48 4) 72 80) = none)
    (hok : (s.meets hv k).admitFails k (k.param 32 1) (k.param 33 1) (k.param 34 1) (k.param 40 4) = none)
    (hserving : lookup (k.param 32 1) s.serving = some v) (hshort : k.param 44 4 + k.param 48 4 ≤ v.maxContext)
    (hroom : s.manifest.length < 16384) (hfew : (s.entriesOf (k.param 32 1)).length < v.maxSeq)
    (hholds : s.classQueue (k.param 32 1) (k.param 33 1) ≠ [] ∨ v.turning = true ∨ v.fits (spansFor (k.param 44 4)) = false)
    (hdepth : (s.classQueue (k.param 32 1) (k.param 33 1)).length < v.holdDepth) (hmay : bitOf (k.param 35 1) 0 = false) :
    Reaches (execAdmitSequence r hv s) fun t =>
      t.Answered r { status := stHeld, result1 := (s.classQueue (k.param 32 1) (k.param 33 1)).length + 1 } ∧
      ∃ i e x, lookup i t.manifest = some e ∧ e.svc = k.param 32 1 ∧ e.request = k.param 88 8 ∧ e.state = 1 ∧
        lookup (k.param 32 1) t.serving = some x ∧ x.held = v.held ++ [i] := by
  obtain rfl := hready.ref
  have hnofit : ((s.classQueue (k.param 32 1) (k.param 33 1)).isEmpty && !v.turning && v.fits (spansFor (k.param 44 4))) = false := by
    rcases hholds with h | h | h
    · rw [List.isEmpty_eq_false_iff.mpr h, Bool.false_and, Bool.false_and]
    · rw [h, Bool.not_true, Bool.and_false, Bool.false_and]
    · rw [h, Bool.and_false]
  have hplaces := State.admitSequence_places (z := s.meets hv k) (fits := false) hranges hok hserving hshort hroom hfew hnofit
    (fun _ => ⟨hdepth, hmay⟩)
  obtain ⟨i, -, ⟨e, hlookup, hsvc, hrequest, hstate⟩, hheld⟩ := (s.meets hv k).admitted_entry (k := k) (v := v) false
  obtain ⟨x, hx, hqueued⟩ := hheld rfl v hserving
  exact hready.reaches_eq hplaces
    ⟨State.finish_answered (State.admitted_cmd hready.1), i, e, x, hlookup, hsvc, hrequest, hstate, hx, hqueued⟩

/-! ## ROLLOUT -/

/-- The run that a ROLLOUT asks for. -/
def Cmd.rolloutRun (c : Cmd) : Run :=
  { run := c.param 60 4, account := c.param 33 1, aflags := c.param 34 1, samples := c.param 35 1, prompts := c.param 36 4,
    maxNew := c.param 40 4, invTemp := c.param 44 4, topP := c.param 48 4, topK := c.param 52 2, draftMax := c.param 54 1,
    baseSeq := c.param 56 4, stop0 := c.param 64 4, stop1 := c.param 68 4, table := c.param 72 8, recordBase := c.param 80 8,
    recordStride := c.param 88 8, next := 0, ended := 0, other := 0, queue := c.queue, tag := c.tag, fn := c.fn }

/-- The judgements of ROLLOUT's own ranges: the prompt table and the records. -/
def State.rolloutRanges (z : State) (c : Cmd) : List (Option Refuse) :=
  [match placeOf (c.param 72 8) with | .device a => refuseRange (z.rangeOf c a (16 * c.param 36 4) false) 72 | _ => none]
    ++ (match placeOf (c.param 80 8) with
        | .device a => [refuseRange (z.rangeOf c a (c.param 36 4 * c.param 35 1 * c.param 88 8) true) 80]
        | _ => [])

theorem rollout_runs (hready : s.Ready 0x6003 r k) (hranges : theRefusal ((s.meets hv k).rolloutRanges k) = none)
    (hok : (s.meets hv k).admitFails k (k.param 32 1) 0 (k.param 33 1) 0 = none) (hserving : lookup (k.param 32 1) s.serving = some v)
    (hshort : k.param 40 4 ≤ v.maxContext) (hroom : s.manifest.length < 16384) (hfew : (s.entriesOf (k.param 32 1)).length < v.maxSeq)
    (hruns : v.runs.length < 4) :
    Reaches (execRollout r hv s) fun t => t.Answered r {} ∧
      ∃ x y, lookup (k.param 32 1) t.serving = some x ∧ x.runs = v.runs ++ [y] ∧ y.run = k.param 60 4 ∧ y.prompts = k.param 36 4 ∧
        y.samples = k.param 35 1 ∧ y.next = 0 ∧ y.ended = 0 := by
  obtain rfl := hready.ref
  have hroom' : ¬ 16384 ≤ (s.meets hv k).manifest.length := Nat.not_le.mpr hroom
  have hfew' : ¬ v.maxSeq ≤ ((s.meets hv k).entriesOf (k.param 32 1)).length := Nat.not_le.mpr hfew
  have hadds : (s.meets hv k).rollout k =
      ((s.meets hv k).updServing (k.param 32 1) fun x => { x with runs := x.runs ++ [k.rolloutRun] }).finish k.ref {} := by
    rw [State.rollout]
    change (match theRefusal ((s.meets hv k).rolloutRanges k) with | some r => _ | none => _) = _
    simp only [hranges, State.tooLong_false (z := s.meets hv k) hserving hshort, hok, show lookup (k.param 32 1) (s.meets hv k).serving = some v from hserving,
      hroom', hfew', Nat.not_le.mpr hruns, decide_false, Bool.or_self, Bool.false_eq_true, if_false]
    rfl
  exact hready.reaches_eq hadds
    ⟨State.finish_answered ((State.updServing_cmd ..).trans hready.1), _, _, State.updServing_lookup (s := s.meets hv k) hserving _, rfl, rfl, rfl, rfl, rfl, rfl⟩

theorem State.rolloutRanges_host {z : State} {a b : Nat} (ha : placeOf (k.param 72 8) = .host a) (hb : placeOf (k.param 80 8) = .host b) :
    theRefusal (z.rolloutRanges k) = none := by
  rw [State.rolloutRanges, ha, hb]
  rfl

theorem State.rolloutRanges_device {z : State} {a b : Nat} (ha : placeOf (k.param 72 8) = .device a) (hb : placeOf (k.param 80 8) = .device b)
    (htable : z.rangeOf k a (16 * k.param 36 4) false = none) (hrecords : z.rangeOf k b (k.param 36 4 * k.param 35 1 * k.param 88 8) true = none) :
    theRefusal (z.rolloutRanges k) = none := by
  rw [State.rolloutRanges, ha, hb]
  simp only [htable, hrecords]
  rfl

end

/-- Settles O37: each row's own lemmas, in the order of the clauses. -/
theorem requestsAreAdmitted : Obligations.RequestsAreAdmitted :=
  ⟨fun _ _ _ _ _ => admitSequence_admits, fun _ _ _ _ _ => admitSequence_holds,
   fun _ _ _ _ _ hready ha hb => rollout_runs hready (State.rolloutRanges_host ha hb),
   fun _ _ _ _ _ _ _ hready ha hb htable hrecords => rollout_runs hready (State.rolloutRanges_device ha hb htable hrecords)⟩

end Sys2Proof.Machine
end

section
/-! PROOF. Serving steps and budgets (R436 to R439, R449): the arms of ServingStepsRun. -/

namespace Sys2Proof.Machine

open Sys2Proof

/-! ## STEP_BUILD -/

section
variable {s w : State} {n : Nat} {v v0 j j2 : Serving}

/-- The parts of the state that the builder may change before a step begins. -/
def builderParts : List Part := [.draws, .regs, .mem, .host, .queues, .cmds, .weights, .serving, .turns, .logbook, .lockage, .log, .outbox]

theorem State.stepReady_of_boundary_acts (s : State) (n : Nat) (k : Serving) :
    Acts builderParts s (((s.boundary n).closeIfDone n).stepReady n k) :=
  State.stepReady_acts (State.closeIfDone_acts (State.boundary_acts .refl (by decide)) (by decide)) (by decide)

theorem State.stepBuild_begins (hserving : lookup n s.serving = some v0) (hopened : v0.opened = true) (hstep : v0.step = none) (hagain : v0.again = none)
    (hheld : ((s.boundary n).closeIfDone n).stepsHeld n v0 = false) (hready : ((s.boundary n).closeIfDone n).stepReady n v0 = w)
    (hj : lookup n w.serving = some j) (hrows : (w.chooseStep n j 16384).2.2 ≠ []) (hpower : w.power.state ≠ .idle)
    (hj2 : lookup n (w.chooseStep n j 16384).1.serving = some j2) :
    ∃ x, lookup n (s.stepBuild n).serving = some x ∧ x.stepNo = j2.stepNo + 1 ∧
      x.step = some ⟨j2.stepNo + 1, s.spine.epoch.toNat, (w.chooseStep n j 16384).2.1, (w.chooseStep n j 16384).2.2⟩ := by
  have hspine : w.spine = s.spine := hready ▸ (s.stepReady_of_boundary_acts n v0).spine (by decide)
  unfold State.stepBuild
  simp only [hserving, hopened, hstep, hheld, hagain, hready, hj, List.isEmpty_eq_false_iff.mpr hrows, hpower, Option.isSome_none, Bool.not_true,
    Bool.or_self, Bool.false_eq_true, if_false, hspine]
  refine ⟨_, State.updServing_lookup (v := j2) ?_ _, rfl, rfl⟩
  rw [((State.dropRegions_acts (ps := [.logbook, .regs]) (State.recordDecision_acts .refl (by decide)) (by decide)).serving (by decide)), hj2]

theorem stepBuild_runs {now : Nat} {hv : HostView} {t0 : State} (hserving : lookup n s.serving = some v) (hopened : v.opened = true) (hstep : v.step = none)
    (hturn : ((s.at now).sees hv).turnOf v.berth 1 n = some t0) (hserving0 : lookup n t0.serving = some v0) (hopened0 : v0.opened = true)
    (hstep0 : v0.step = none) (hagain : v0.again = none) (hheld : ((t0.boundary n).closeIfDone n).stepsHeld n v0 = false)
    (hready : ((t0.boundary n).closeIfDone n).stepReady n v0 = w) (hj : lookup n w.serving = some j)
    (hrows : (w.chooseStep n j 16384).2.2 ≠ []) (hpower : w.power.state ≠ .idle) (hj2 : lookup n (w.chooseStep n j 16384).1.serving = some j2) :
    Reaches (execStepBuild n now hv s) fun t => ∃ x, lookup n t.serving = some x ∧ x.stepNo = j2.stepNo + 1 ∧
      x.step = some ⟨j2.stepNo + 1, s.spine.epoch.toNat, (w.chooseStep n j 16384).2.1, (w.chooseStep n j 16384).2.2⟩ := by
  have hspine : t0.spine = s.spine :=
    (State.turnOf_acts (ps := [.clock, .host, .serving, .trains, .turns]) (State.sees_acts (State.at_acts .refl (by decide)) (by decide))
      (by decide) hturn).spine (by decide)
  obtain ⟨x, hx, hno, hbegun⟩ := State.stepBuild_begins hserving0 hopened0 hstep0 hagain hheld hready hj hrows hpower hj2
  rw [hspine] at hbegun
  have hruns : ((s.at now).sees hv).serveStep n =
      ((t0.stepBuild n).updServing n fun x => { x with round := x.round + 1 }).occupy v.berth 1 n := by
    simp only [State.serveStep, show lookup n ((s.at now).sees hv).serving = some v from (State.lookup_serving_at ..).trans hserving, hopened, hstep,
      hturn, hx, hbegun, Option.isSome_none, Option.isSome_some, Bool.not_true, Bool.or_self, Bool.false_eq_true, if_false, if_true]
  exact runs_reaches_to hruns ⟨_, State.updServing_lookup hx _, hno, hbegun⟩

end

/-! ## What a row of a step leaves of its service's step -/

/-- Service n is in the step given, or between its steps. -/
def State.InStep (s : State) (n : Nat) (o : Option BatchStep) : Prop := ∃ x, lookup n s.serving = some x ∧ x.step = o

section
variable {s : State} {n : Nat} {o : Option BatchStep}

theorem State.InStep.of_serving {t : State} (h : s.InStep n o) (hserving : t.serving = s.serving) : t.InStep n o := by
  rwa [State.InStep, hserving]

theorem State.InStep.of_acts {ps : List Part} {t : State} (h : s.InStep n o) (hacts : Acts ps s t) (hps : Part.serving ∉ ps) : t.InStep n o :=
  h.of_serving (hacts.serving hps)

/-- An update of any service that leaves its step keeps every service in its step. -/
theorem State.InStep.updServing (h : s.InStep n o) (m : Nat) {f : Serving → Serving} (hf : ∀ x, (f x).step = x.step) : (s.updServing m f).InStep n o := by
  obtain ⟨x, hx, hstep⟩ := h
  by_cases hnm : n = m
  · subst hnm
    exact ⟨f x, State.updServing_lookup hx f, (hf x).trans hstep⟩
  · refine ⟨x, ?_, hstep⟩
    rw [State.updServing]
    split
    · exact (lookup_insert_ne hnm).trans hx
    · exact hx

theorem State.InStep.updEntry (h : s.InStep n o) (i : Nat) (f : Entry → Entry) : (s.updEntry i f).InStep n o :=
  h.of_serving (State.updEntry_serving ..)

theorem State.InStep.foldl {α : Type} {f : State → α → State} {l : List α} (hs : s.InStep n o) (hf : ∀ u x, u.InStep n o → (f u x).InStep n o) :
    (l.foldl f s).InStep n o :=
  List.foldlRecOn (motive := fun u : State => u.InStep n o) l f hs fun u hu x _ => hf u x hu

theorem State.InStep.ite {t : State} {c : Prop} [Decidable c] (hs : s.InStep n o) (ht : t.InStep n o) : (if c then s else t).InStep n o := by
  split
  · exact hs
  · exact ht

theorem State.InStep.freeSpans (h : s.InStep n o) (i : Nat) : (s.freeSpans i).InStep n o := by
  rw [State.freeSpans]
  split
  · exact h
  · refine State.InStep.updEntry ?_ _ _
    exact h.updServing _ fun _ => rfl

theorem State.InStep.runEnded (h : s.InStep n o) (m run st : Nat) : (s.runEnded m run st).InStep n o := by
  unfold State.runEnded
  split
  · exact h
  · split
    · exact h
    · refine State.InStep.ite (h.updServing _ fun _ => by rfl) ?_
      exact (h.updServing _ fun _ => by rfl).of_acts
        (State.report_acts (ps := [.draws, .regs, .mem, .host, .queues, .weights, .logbook, .log, .outbox]) (State.raise_acts .refl (by decide)) (by decide))
        (by decide)

theorem State.InStep.countCut (h : s.InStep n o) (e : Entry) : (s.countCut e).InStep n o :=
  (h.updServing _ fun _ => by rfl).of_acts (State.updSet_acts (ps := [.weights]) .refl (by decide)) (by decide)

theorem State.InStep.endEntry (h : s.InStep n o) (i st : Nat) : (s.endEntry i st).InStep n o := by
  unfold State.endEntry
  split
  · exact h
  next e he =>
    extract_lets t0 t1 t2 t3 t4 t5 t6
    have h0 : t0.InStep n o := .ite (h.of_acts (State.raise_acts (ps := [.regs, .outbox]) .refl (by decide)) (by decide)) (h.freeSpans i)
    have h1 : t1.InStep n o := h0.of_serving rfl
    have h2 : t2.1.InStep n o := (h1.updServing _ fun _ => by rfl).of_acts
      (State.putRecord_acts (ps := [.draws, .regs, .mem, .host, .weights, .log, .outbox]) .refl (by decide)) (by decide)
    have h3 : t3.InStep n o := h2.of_acts
      (State.noteFaulted_acts (ps := [.regs, .log, .outbox]) (State.raiseOutcome_acts .refl (by decide)) (by decide)) (by decide)
    have h4 : t4.InStep n o := .ite (h3.countCut e) h3
    have h5 : t5.InStep n o := h4.of_acts (State.turnCounts_acts (ps := [.turns]) .refl (by decide)) (by decide)
    have h6 : t6.InStep n o := h5.foldl fun u r hu => hu.of_acts (State.finish_acts (ps := [.cmds]) .refl (by decide)) (by decide)
    clear_value t6
    split
    · exact h6.runEnded _ _ _
    · exact h6.of_acts (State.report_acts (ps := [.draws, .regs, .mem, .host, .queues, .weights, .logbook, .log, .outbox]) .refl (by decide)) (by decide)

theorem State.InStep.boundary (h : s.InStep n o) (m : Nat) : (s.boundary m).InStep n o := by
  unfold State.boundary
  split
  · exact h
  · extract_lets damagedSet damagedAdapter t
    have ht : t.InStep n o := h.foldl fun u e hu => .ite (hu.endEntry _ _) (by split; exacts [hu.endEntry _ _, hu])
    clear_value t
    exact .ite (ht.foldl fun u e hu => hu.updEntry _ _) ht

theorem State.InStep.closeIfDone (h : s.InStep n o) (m : Nat) : (s.closeIfDone m).InStep n o :=
  h.of_acts (State.closeIfDone_acts (ps := [.lockage]) .refl (by decide)) (by decide)

theorem State.InStep.add64 (h : s.InStep n o) (a v : Nat) : (s.add64 a v).InStep n o :=
  h.of_acts (State.add64_acts (ps := [.regs]) .refl (by decide)) (by decide)

theorem State.InStep.debit (h : s.InStep n o) (a v : Nat) : (s.debit a v).InStep n o :=
  h.of_acts (State.debit_acts (ps := [.regs]) .refl (by decide)) (by decide)

theorem State.InStep.emitTokens (h : s.InStep n o) (m i : Nat) (out : List (Nat × Nat)) : (s.emitTokens m i out).InStep n o := by
  unfold State.emitTokens
  split
  · exact h
  next e he =>
    extract_lets r t0 t1
    have hr : r.1.InStep n o :=
      h.of_acts (State.putTokens_acts (ps := [.draws, .regs, .mem, .host, .weights, .log, .outbox]) .refl (by decide)) (by decide)
    have h1 : t1.InStep n o := ((hr.updEntry _ _).debit _ _).add64 _ _
    clear_value t1
    exact .ite (h1.endEntry _ _) (.ite (h1.endEntry _ _) (.ite (h1.endEntry _ _) h1))

theorem State.InStep.decodeRow (h : s.InStep n o) (m i draftK : Nat) (k : Serving) (e : Entry) : (s.decodeRow m i draftK k e).InStep n o := by
  unfold State.decodeRow
  extract_lets l p proposals v j out full halve t0 t1
  have hp : p.1.InStep n o := by
    unfold p
    split
    · split
      · exact h
      · exact h.of_acts (State.propose_acts (ps := [.draws, .regs, .mem, .weights, .log, .outbox]) .refl (by decide)) (by decide)
    · exact h
  have hv : v.1.InStep n o :=
    hp.of_acts (State.verify_acts (ps := [.draws, .regs, .mem, .weights, .log, .outbox]) .refl (by decide)) (by decide)
  exact (((hv.updEntry _ _).add64 _ _).add64 _ _).emitTokens _ _ _

theorem State.InStep.prefillRow (h : s.InStep n o) (m i f : Nat) (k : Serving) (e : Entry) : (s.prefillRow m i f k e).InStep n o := by
  unfold State.prefillRow
  extract_lets s0 r fed t0 t1
  have h0 : s0.InStep n o := by
    unfold s0
    split
    · exact .ite (h.of_acts (State.recordHostRead_acts (ps := [.logbook]) .refl (by decide)) (by decide)) h
    · exact h
  have hr : r.1.InStep n o :=
    h0.of_acts (State.feedTokens_acts (ps := [.draws, .regs, .mem, .weights, .log, .outbox]) .refl (by decide)) (by decide)
  have h1 : t0.InStep n o := (hr.debit _ _).add64 _ _
  clear_value t0 r
  split
  · exact hr.endEntry _ _
  · exact .ite (hr.updEntry _ _) (.ite (h1.updEntry _ _) ((h1.updEntry _ _).emitTokens _ _ _))

theorem State.InStep.rebuild (h : s.InStep n o) (m i : Nat) : (s.rebuild m i).InStep n o :=
  ((h.freeSpans i).updEntry _ _).updServing _ fun _ => rfl

theorem State.InStep.stepRow (h : s.InStep n o) (m : Nat) (r : StepRow) : (s.stepRow m r).InStep n o := by
  unfold State.stepRow
  split
  · extract_lets kv
    split
    · have ht : (s.noteRanges 0 kv).InStep n o :=
        h.of_acts (State.noteRanges_acts (ps := [.draws, .regs, .mem, .units, .weights, .log, .outbox]) .refl (by decide)) (by decide)
      exact .ite (.ite (ht.endEntry _ _) ((ht.updEntry _ _).rebuild _ _)) (.ite (ht.rebuild _ _) ((ht.freeSpans _).updEntry _ _))
    · exact .ite (h.decodeRow _ _ _ _ _) (h.prefillRow _ _ _ _ _)
  · exact h

/-! ## SERVE_STEP_COMPLETE -/

/-- After its step a service is between its steps. -/
theorem State.InStep.stepOver (h : s.InStep n o) : (s.stepOver n).InStep n none := by
  obtain ⟨x, hx, -⟩ := h
  have hover : ((s.updServing n fun k => { k with step := none, parked := k.parked || !k.parking.isEmpty, parking := [] })).InStep n none :=
    ⟨_, State.updServing_lookup hx _, rfl⟩
  unfold State.stepOver
  rw [hx]
  exact hover.of_acts (State.answerParking_acts (ps := [.cmds]) .refl (by decide)) (by decide)

theorem State.InStep.interrupt (h : s.InStep n o) (b : BatchStep) (tries : Nat) : (s.interrupt n b tries).InStep n none :=
  ((h.updServing n (f := fun k => { k with again := some b, tries := tries }) fun _ => by rfl).stepOver.boundary n).closeIfDone n

theorem State.InStep.stepRun (h : s.InStep n o) (k : Serving) (b : BatchStep) : (s.stepRun n k b).InStep n none := by
  unfold State.stepRun
  extract_lets rows t bad counted u t1 t2 t3
  have ht : t.InStep n o := h.foldl fun u r hu => hu.stepRow n r
  have h2 : t2.InStep n o := (ht.foldl fun u r hu => hu.endEntry _ _).add64 _ _
  have h3 : t3.InStep n o := .ite (h2.of_acts (State.sat32_acts (ps := [.regs]) .refl (by decide)) (by decide)) h2
  have hu : u.InStep n o := h.of_serving rfl
  clear_value u t3
  exact .ite (State.InStep.interrupt (.ite hu (hu.add64 _ _)) b _) ((h3.stepOver.boundary n).closeIfDone n)

theorem serveStepComplete_ends {now : Nat} {hv : HostView} {v : Serving} {b : BatchStep} {z : State} (hserving : lookup n s.serving = some v)
    (hstep : v.step = some b) (hbeats : s.beating = true) (hz : z = ((s.at now).sees hv).ringing.actFor b.epoch v.berth)
    (hreads : z.rangesStatus (z.stepReads v { b with rows := z.soundRows b }) = none) :
    Reaches (execServeStepComplete n now hv s) fun t => ∃ x, lookup n t.serving = some x ∧ x.step = none := by
  have hruns : ((s.at now).sees hv).stepComplete n = z.stepRun n v b := by
    simp only [State.stepComplete, show lookup n ((s.at now).sees hv).serving = some v from (State.lookup_serving_at ..).trans hserving, hstep]
    rw [if_neg (by simp [show ((s.at now).sees hv).beating = true from (State.at_beating s now).trans hbeats])]
    subst hz
    split
    next st hst => exact absurd (hreads.symm.trans hst) (by simp)
    next => rfl
  have hz' : z.InStep n (some b) := ⟨v, by rw [hz]; exact (State.lookup_serving_at ..).trans hserving, hstep⟩
  exact runs_reaches_to hruns (hz'.stepRun v b)

end

/-! ## BUDGET_REFILL -/

/-- What a refill does to one account. -/
def State.refillAccount (t : State) (a : Nat) : State :=
  if t.balance a < (field (t.regNat (budgetBase a + 4)) 30 0 : Nat) then
    t.putBalance a (min (t.balance a + (field (t.regNat (budgetBase a)) 23 0 : Nat)) (field (t.regNat (budgetBase a + 4)) 30 0 : Nat))
  else t

/-- Two states agree on the registers of an account. -/
def State.SameAccount (s t : State) (a : Nat) : Prop := ∀ off < 16, t.regNat (budgetBase a + off) = s.regNat (budgetBase a + off)

section
variable {s t : State} {a b : Nat}

theorem signedOf_patternOf {v : Int} (hlow : -2 ^ 31 ≤ v) (hhigh : v < 2 ^ 31) : signedOf 32 (patternOf 32 v % 2 ^ 32) = v := by
  simp only [signedOf, patternOf]
  omega

theorem balance_lower (s : State) (a : Nat) : -2 ^ 31 ≤ s.balance a := by
  simp only [State.balance, signedOf]
  omega

theorem field_lt_two_pow (v hi lo : Nat) : field v hi lo < 2 ^ (hi + 1 - lo) := Nat.mod_lt _ (by positivity)

theorem State.SameAccount.balance (h : s.SameAccount t a) : t.balance a = s.balance a := by
  rw [State.balance, State.balance, h 0xC (by decide)]

/-- Refilling an account leaves every other. -/
theorem State.refillAccount_ne (h : b ≠ a) : s.SameAccount (s.refillAccount b) a := by
  intro off hoff
  rw [State.refillAccount]
  split
  · refine State.regNat_setNat_ne ?_ s _
    simp only [budgetBase]
    omega
  · rfl

theorem State.refillAll_ne {l : List Nat} (h : a ∉ l) : s.SameAccount (l.foldl State.refillAccount s) a := by
  refine List.foldlRecOn (motive := fun t : State => s.SameAccount t a) l _ (fun _ _ => rfl) fun t ht b hb off hoff => ?_
  exact (State.refillAccount_ne (ne_of_mem_of_not_mem hb h) off hoff).trans (ht off hoff)

theorem State.refillAll_acts {ps : List Part} {z : State} (hs : Acts ps z s) (hps : Part.regs ∈ ps) (l : List Nat) :
    Acts ps z (l.foldl State.refillAccount s) := by
  refine Acts.foldl hs fun t b ht => ?_
  rw [State.refillAccount]
  split
  · exact State.putBalance_acts ht fun p hp => List.mem_singleton.mp hp ▸ hps
  · exact ht

/-- The balance that a refill leaves. -/
theorem State.balance_refillAccount (s : State) (a : Nat) :
    (s.refillAccount a).balance a =
      if s.balance a < (field (s.regNat (budgetBase a + 4)) 30 0 : Nat) then
        min (s.balance a + (field (s.regNat (budgetBase a)) 23 0 : Nat)) (field (s.regNat (budgetBase a + 4)) 30 0 : Nat)
      else s.balance a := by
  have hlow := balance_lower s a
  have hcap : field (s.regNat (budgetBase a + 4)) 30 0 < 2 ^ 31 := field_lt_two_pow ..
  rw [State.refillAccount]
  split
  next h =>
    rw [State.balance, State.putBalance, State.regNat_setNat_same]
    exact signedOf_patternOf (by omega) (by omega)
  next => rfl

/-- Each account is refilled once, from its own registers. -/
theorem State.balance_refillAll (ha : a < 64) :
    ((List.range 64).foldl State.refillAccount s).balance a =
      if s.balance a < (field (s.regNat (budgetBase a + 4)) 30 0 : Nat) then
        min (s.balance a + (field (s.regNat (budgetBase a)) 23 0 : Nat)) (field (s.regNat (budgetBase a + 4)) 30 0 : Nat)
      else s.balance a := by
  obtain ⟨before, after, hsplit⟩ := List.append_of_mem (List.mem_range.mpr ha)
  have honce : a ∉ before ∧ a ∉ after := by
    have hnodup : (before ++ a :: after).Nodup := hsplit ▸ List.nodup_range
    obtain ⟨hnot, -⟩ := List.nodup_cons.mp (List.nodup_middle.mp hnodup)
    exact not_or.mp (List.mem_append.not.mp hnot)
  have hbefore : s.SameAccount (before.foldl State.refillAccount s) a := State.refillAll_ne honce.1
  rw [hsplit, List.foldl_append, List.foldl_cons, (State.refillAll_ne honce.2).balance, State.balance_refillAccount, hbefore.balance,
    hbefore 4 (by decide), show (before.foldl State.refillAccount s).regNat (budgetBase a) = s.regNat (budgetBase a) from hbefore 0 (by decide)]

theorem budgetRefill_refills {now : Nat} (ha : a < 64) (hmsec : (s.at now).now % msec = 0) :
    Reaches (execBudgetRefill now s) fun t => t.balance a =
      if s.balance a < (field (s.regNat (budgetBase a + 4)) 30 0 : Nat) then
        min (s.balance a + (field (s.regNat (budgetBase a)) 23 0 : Nat)) (field (s.regNat (budgetBase a + 4)) 30 0 : Nat)
      else s.balance a := by
  have hbalance := State.balance_refillAll (s := s.at now) ha
  rw [show (s.at now).balance a = s.balance a from congrArg (signedOf 32) (State.regNat_at ..), State.regNat_at, State.regNat_at] at hbalance
  refine runs_reaches_of_eq (ps := [.clock, .regs]) (if_neg (not_not.mpr hmsec)) ?_ (by decide) hbalance
  exact State.refillAll_acts (State.at_acts .refl (by decide)) (by decide) _

end

/-- Settles O38: each row's own lemmas, in the order of the clauses. -/
theorem servingStepsRun : Obligations.ServingStepsRun :=
  ⟨fun _ _ _ _ _ _ _ _ _ _ => stepBuild_runs, fun _ _ _ _ _ _ _ => serveStepComplete_ends, fun _ _ _ => budgetRefill_refills⟩

end Sys2Proof.Machine
end

section
/-! PROOF. POUND_ENTRY (R475): the statement speaks of every RECV of the service, and one of another epoch than the service's brings the settings of
its own epoch into force, under which the ring has another length. -/

namespace Sys2Proof.Machine

open Sys2Proof

/-- The service with its forwards run and a plan without tensors. -/
def emptyTrain : Train :=
  { pipeTrain with forwards := 2, plan := { pipeTrain.plan with layers := 0, tensors := [], parts := [] } }

/-- Its RECV of entry 0 of the forward pound, under an epoch that is not in force. -/
def staleRecv : Coll := let x := pipeRecv emptyTrain true 0; { x with cmd := { x.cmd with epoch := 0xFFFF } }

/-- The message that fills it. -/
def staleMsg : Msg := pipeMsg staleRecv 0 (zeros 11 ++ leBytes 4 1 ++ leBytes 4 9 ++ zeros 60)

/-- The device with that RECV open and its message come: the second of three on its axis, and of two under the settings before. -/
def shortRing : State := { piped emptyTrain 1 staleRecv staleMsg with oldRegs := [(axisWord 0, 2 * 256 + 1)] }

/-- The device as the message meets it. -/
def shortRingMet : State := ((shortRing.at (10 ^ 15)).inTrain 0).ringing

theorem shortRingMet_pipeMeets : shortRingMet.PipeMeets 0 1 staleMsg staleRecv := by
  unfold State.PipeMeets
  decide +kernel

theorem staleMsg_fits : fieldAt staleMsg.body 0 4 = staleRecv.cmd.digest ∧ staleMsg.body.length = staleRecv.cmd.param 64 8 + 16 := by decide +kernel

theorem emptyTrain_poundsPosted : emptyTrain.PoundsPosted := by
  unfold Train.PoundsPosted
  decide +kernel

/-- The device is not the last of three. -/
theorem shortRingMet_not_last : shortRingMet.stage emptyTrain.cmd + 1 ≠ shortRingMet.stages emptyTrain.cmd := by decide +kernel

/-- As the last of two it runs its backwards on the entry of the forward pound. -/
theorem shortRingMet_poundEntry : (lookup 0 (shortRingMet.poundEntry 0 1).trains).map Train.backwards = some 1 := by decide +kernel

theorem poundEntry_reaches {s : State} {n p now : Nat} {k : Train} {o : Option Nat} (htrain : lookup n ((s.at now).inTrain n).trains = some k)
    (hbeats : ((s.at now).inTrain n).beating = true)
    (hruns : (lookup n ((((s.at now).inTrain n).ringing).poundEntry n p).trains).map Train.backwards = o) :
    Reaches (exec (.poundEntry n p now) s) fun t => (lookup n t.trains).map Train.backwards = o := by
  unfold exec execPoundEntry
  refine runs_reaches ?_
  dsimp only
  rwa [htrain, Option.isSome_some, if_pos rfl, State.onRing_beating hbeats]

/-- Refutes O40: where the RECV's epoch gives the ring another length than the service's, a backward runs. -/
theorem not_trainingPassesRun : ¬ Obligations.TrainingPassesRun := by
  intro h
  obtain ⟨hforward, -⟩ := h
  obtain ⟨t, hruns, -, -, htrain⟩ := (poundEntry_reaches (s := shortRing) (k := emptyTrain) (by decide +kernel) (by decide +kernel) shortRingMet_poundEntry).both
    (hforward shortRing 0 1 (10 ^ 15) emptyTrain staleMsg staleRecv shortRingMet _ (by decide +kernel) (by decide +kernel) rfl (by decide +kernel)
      (by decide +kernel) shortRingMet_pipeMeets staleMsg_fits.1 staleMsg_fits.2 rfl rfl (by decide +kernel) emptyTrain_poundsPosted
      (by decide +kernel) (by decide +kernel) (by decide +kernel) shortRingMet_not_last (by decide +kernel) (.inl (by decide +kernel)))
  rw [htrain] at hruns
  exact absurd hruns (by decide +kernel)

end Sys2Proof.Machine
end

section
/-! SUPPORT. What a write to device memory depends on (R273, R274, R281, R308, R316): the identity, the operation under way, the basin's
segments, the sockets and the memories, but neither the clock nor the work in progress. -/

namespace Sys2Proof.Machine

open Sys2Proof

/-! ## States that write alike -/

/-- The registers that no write to memory reads, though two states that write alike may differ in them: the collectives' count of added blocks
and the flags of the weight sets, with their counter. -/
def unreadWords : List Nat := [blkKeeper + 0x2118, blkKeeper + 0x211C, evWeight, counterWord evWeight 4]

/-- Two states agree in all that a write to memory depends on. -/
structure State.Alike (s t : State) : Prop where
  spine : t.spine = s.spine
  draws : t.draws = s.draws
  acting : t.acting = s.acting
  segChanges : t.segChanges = s.segChanges
  panel : t.panel = s.panel
  mem : t.mem = s.mem
  oldRegs : t.oldRegs = s.oldRegs
  reg : ∀ a, a ∉ unreadWords → t.reg a = s.reg a

section
variable {s t : State}

theorem State.Alike.refl (s : State) : s.Alike s := ⟨rfl, rfl, rfl, rfl, rfl, rfl, rfl, fun _ _ => rfl⟩

theorem State.Alike.symm (h : s.Alike t) : t.Alike s :=
  ⟨h.spine.symm, h.draws.symm, h.acting.symm, h.segChanges.symm, h.panel.symm, h.mem.symm, h.oldRegs.symm, fun a ha => (h.reg a ha).symm⟩

theorem State.Alike.trans {u : State} (h : s.Alike t) (k : t.Alike u) : s.Alike u :=
  ⟨k.spine.trans h.spine, k.draws.trans h.draws, k.acting.trans h.acting, k.segChanges.trans h.segChanges, k.panel.trans h.panel,
    k.mem.trans h.mem, k.oldRegs.trans h.oldRegs, fun a ha => (k.reg a ha).trans (h.reg a ha)⟩

/-- The parts of the state that a write to memory reads. -/
def readParts : List Part := [.spine, .draws, .acting, .moving, .panel, .mem, .regs]

/-- What leaves those parts leaves a state that writes alike. -/
theorem State.Alike.of_acts {ps : List Part} (h : Acts ps s t) (hps : ∀ p ∈ readParts, p ∉ ps) : s.Alike t := by
  have hspine := h.spine (hps _ (by decide))
  have hregs := h.regs (hps _ (by decide))
  obtain ⟨hsegs, -⟩ := h.1 .moving (hps _ (by decide))
  obtain ⟨-, hold, -⟩ := h.1 .regs (hps _ (by decide))
  exact ⟨hspine, h.draws (hps _ (by decide)), h.acting (hps _ (by decide)), hsegs, h.panel (hps _ (by decide)), h.mem (hps _ (by decide)), hold,
    fun a _ => by rw [State.reg, State.reg, hregs, hspine]⟩

theorem State.Alike.ite {s' t' : State} {c : Prop} [Decidable c] (h : s.Alike t) (k : s'.Alike t') :
    (if c then s else s').Alike (if c then t else t') := by
  split
  · exact h
  · exact k

theorem State.Alike.foldl {α : Type} {f : State → α → State} {l : List α} (h : s.Alike t) (hf : ∀ u v x, x ∈ l → u.Alike v → (f u x).Alike (f v x)) :
    (l.foldl f s).Alike (l.foldl f t) := by
  induction l generalizing s t with
  | nil => exact h
  | cons x l ih => exact ih (hf _ _ _ List.mem_cons_self h) fun u v y hy => hf u v y (List.mem_cons_of_mem _ hy)

/-! ## Registers -/

theorem State.Alike.regNat (h : s.Alike t) {a : Nat} (ha : a ∉ unreadWords) : t.regNat a = s.regNat a := congrArg BitVec.toNat (h.reg a ha)

theorem State.Alike.lkWord (h : s.Alike t) {a : Nat} (ha : a ∉ unreadWords) (epoch : Nat) : t.lkWord epoch a = s.lkWord epoch a := by
  rw [State.lkWord, State.lkWord, h.spine, h.oldRegs, h.reg a ha, h.regNat ha]

/-- A register that both states set from what they read there. -/
theorem State.Alike.setNat (h : s.Alike t) {a v w : Nat} (hvw : a ∉ unreadWords → w = v) : (s.setNat a v).Alike (t.setNat a w) := by
  refine ⟨h.spine, h.draws, h.acting, h.segChanges, h.panel, h.mem, h.oldRegs, fun b hb => ?_⟩
  by_cases hba : b = a
  · subst hba
    rw [State.setNat, State.setNat, State.reg_setReg_same, State.reg_setReg_same, hvw hb]
  · rw [State.reg_setNat_ne hba, State.reg_setNat_ne hba, h.reg b hb]

/-- A register that no write reads. -/
theorem State.Alike.setUnread (h : s.Alike t) {a : Nat} (ha : a ∈ unreadWords) (v : Nat) : s.Alike (t.setNat a v) :=
  ⟨h.spine, h.draws, h.acting, h.segChanges, h.panel, h.mem, h.oldRegs, fun b hb => by
    rw [State.reg_setNat_ne (ne_of_mem_of_not_mem ha hb).symm, h.reg b hb]⟩

theorem State.Alike.set64 (h : s.Alike t) (a v : Nat) : (s.set64 a v).Alike (t.set64 a v) := (h.setNat fun _ => rfl).setNat fun _ => rfl

theorem State.Alike.sat32 (h : s.Alike t) (a n : Nat) : (s.sat32 a n).Alike (t.sat32 a n) := h.setNat fun ha => by rw [h.regNat ha]

theorem State.Alike.left {ps : List Part} {u : State} (h : s.Alike t) (hacts : Acts ps s u) (hps : ∀ p ∈ readParts, p ∉ ps) : u.Alike t :=
  (State.Alike.of_acts hacts hps).symm.trans h

theorem State.Alike.right {ps : List Part} {u : State} (h : s.Alike t) (hacts : Acts ps t u) (hps : ∀ p ∈ readParts, p ∉ ps) : s.Alike u :=
  h.trans (.of_acts hacts hps)

theorem State.Alike.bump (h : s.Alike t) (a n : Nat) : (s.bump a n).Alike (t.bump a n) := h.setNat fun ha => by rw [h.regNat ha]

/-- An interrupt is no part of what a write reads. -/
theorem State.alike_raise (s : State) (a n : Nat) : ((s.setNat a (putBit (s.regNat a) n true)).bump a n).Alike (s.raise a n) := by
  rw [State.raise]
  split
  · exact State.Alike.of_acts (ps := [.outbox]) (State.interruptOf_acts .refl (by decide)) (by decide)
  · exact .refl _

theorem State.Alike.raise (h : s.Alike t) (a n : Nat) : (s.raise a n).Alike (t.raise a n) :=
  (s.alike_raise a n).symm.trans (((h.setNat fun ha => by rw [h.regNat ha]).bump a n).trans (t.alike_raise a n))

/-- Raising a flag of the weight sets changes nothing that a write reads. -/
theorem State.Alike.raiseUnread (h : s.Alike t) : s.Alike (t.raise evWeight 4) :=
  ((h.setUnread (by decide) _).setUnread (by decide) _).trans (t.alike_raise evWeight 4)

theorem State.Alike.logEvent (h : s.Alike t) (g : LogArg) : (s.logEvent g).Alike (t.logEvent g) :=
  (h.left (State.logEvent_acts (ps := [.log, .outbox]) .refl (by decide)) (by decide)).right
    (State.logEvent_acts (ps := [.log, .outbox]) .refl (by decide)) (by decide)

/-! ## Where an address lies, and how it reads -/

theorem State.Alike.reachStripe (h : s.Alike t) : t.reachStripe = s.reachStripe := by
  rw [State.reachStripe, State.reachStripe, h.acting, h.lkWord (by decide)]

theorem State.Alike.stripeMembers (h : s.Alike t) : t.stripeMembers = s.stripeMembers := congrArg (bitsBelow 12) h.reachStripe

theorem State.Alike.reachMap (h : s.Alike t) : t.reachMap = s.reachMap := by
  rw [State.reachMap, State.reachMap, h.acting, h.lkWord (by decide)]

theorem State.Alike.regionOf (h : s.Alike t) (a : Nat) : t.regionOf a = s.regionOf a := by
  rw [State.regionOf, State.regionOf, h.spine, h.reachMap, h.reachStripe, h.stripeMembers]

theorem State.Alike.phys (h : s.Alike t) (a : Nat) : t.phys a = s.phys a := by
  simp only [State.phys, h.regionOf, State.stripePlace, h.stripeMembers]

theorem State.Alike.physRuns (h : s.Alike t) (a n : Nat) : t.physRuns a n = s.physRuns a n := by
  simp only [State.physRuns, h.regionOf, h.phys]

theorem State.Alike.poisonUnit (h : s.Alike t) (p : Nat) : t.poisonUnit p = s.poisonUnit p := by
  simp only [State.poisonUnit, State.poisonBytes, h.mem, h.spine]

theorem State.Alike.unitsOf (h : s.Alike t) (a n : Nat) : t.unitsOf a n = s.unitsOf a n := by
  simp only [State.unitsOf, h.poisonUnit, h.phys]

theorem State.Alike.unitsCovered (h : s.Alike t) (a n : Nat) : t.unitsCovered a n = s.unitsCovered a n := by
  simp only [State.unitsCovered, h.unitsOf, h.poisonUnit, h.phys, State.poisonBytes, h.mem, h.spine]

theorem State.Alike.noModule (h : s.Alike t) (p : Nat) : t.noModule p = s.noModule p := by
  simp only [State.noModule, State.socketLost, h.panel]

theorem State.Alike.noStack (h : s.Alike t) (p : Nat) : t.noStack p = s.noStack p := by
  simp only [State.noStack, h.spine, h.mem]

theorem State.Alike.unwrittenBad (h : s.Alike t) (u : Nat) : t.unwrittenBad u = s.unwrittenBad u := by
  simp only [State.unwrittenBad, State.neverWritten, h.mem]

theorem State.Alike.unitStatus (h : s.Alike t) (u : Nat) : t.unitStatus u = s.unitStatus u := by
  have hlost : t.socketLost = s.socketLost := funext fun n => by rw [State.socketLost, State.socketLost, h.panel]
  rw [State.unitStatus, State.unitStatus, hlost, h.mem, h.unwrittenBad, h.noStack]

theorem State.Alike.lostUnits (h : s.Alike t) (a n : Nat) : t.lostUnits a n = s.lostUnits a n := by
  simp only [State.lostUnits, h.unitsOf, h.unitsCovered, State.mergeFails, h.mem, h.spine, h.unwrittenBad]

theorem State.Alike.controllerOf (h : s.Alike t) (u : Nat) : t.controllerOf u = s.controllerOf u := by
  simp only [State.controllerOf, h.spine]

/-! ## What a merge read leaves behind -/

/-- Device memory that both states set from what they find there. -/
theorem State.Alike.setMem (h : s.Alike t) {m m' : Mem} (hm : m' = m) : ({ s with mem := m } : State).Alike { t with mem := m' } :=
  ⟨h.spine, h.draws, h.acting, h.segChanges, h.panel, hm, h.oldRegs, h.reg⟩

theorem State.Alike.draw (h : s.Alike t) : s.draw.2.Alike t.draw.2 :=
  ⟨h.spine, congrArg (· + 1) h.draws, h.acting, h.segChanges, h.panel, h.mem, h.oldRegs, h.reg⟩

theorem State.Alike.recordUnit (h : s.Alike t) (u st : Nat) : (s.recordUnit u st).Alike (t.recordUnit u st) := by
  have hbad : ({ s with mem := { s.mem with bad := s.mem.bad.filter (· != u), poison := u :: s.mem.poison } } : State).Alike
      { t with mem := { t.mem with bad := t.mem.bad.filter (· != u), poison := u :: t.mem.poison } } := h.setMem (by rw [h.mem])
  have hfound : ({ s with mem := { s.mem with lost := s.mem.lost.filter (· != u) } } : State).Alike
      { t with mem := { t.mem with lost := t.mem.lost.filter (· != u) } } := h.setMem (by rw [h.mem])
  unfold State.recordUnit
  generalize ({ s with mem := { s.mem with bad := s.mem.bad.filter (· != u), poison := u :: s.mem.poison } } : State) = x at hbad ⊢
  generalize ({ t with mem := { t.mem with bad := t.mem.bad.filter (· != u), poison := u :: t.mem.poison } } : State) = y at hbad ⊢
  generalize ({ s with mem := { s.mem with lost := s.mem.lost.filter (· != u) } } : State) = x' at hfound ⊢
  generalize ({ t with mem := { t.mem with lost := t.mem.lost.filter (· != u) } } : State) = y' at hfound ⊢
  rw [h.mem, h.controllerOf]
  refine .ite hfound (.ite h (.ite (.ite ((((hbad.sat32 _ _).set64 _ _).raise _ _).logEvent _) h) ?_))
  cases s.controllerOf u with
  | none => exact h
  | some c =>
    have hdrawn := ((hbad.sat32 (blkStack c + 0x60) 1).set64 (blkStack c + 0x40) (2 ^ 63 + u)).draw
    have hseen := ((hbad.sat32 (blkStack c + 0x60) 1).set64 (blkStack c + 0x40) (2 ^ 63 + u)).draws
    refine .ite (((hdrawn.setNat fun _ => ?_).raise _ _).logEvent _) (.ite (((h.set64 _ _).setNat fun _ => rfl).raise _ _) h)
    rw [State.draw, State.draw, hseen]

/-- A repair is no part of what a write reads, nor is damage to a set or adapter. -/
theorem State.alike_openRepair (s : State) (u : Nat) : s.Alike (s.openRepair u) := by
  have hdamage (ad : Bool) (slot : Nat) : s.Alike (s.damage ad slot) := by
    unfold State.damage
    split
    · exact ((State.Alike.of_acts (ps := [.weights]) (Acts.set_repairs (State.updAdapter_acts .refl (by decide)) (by decide))
        (by decide)).raiseUnread).right (State.logEvent_acts (ps := [.log, .outbox]) .refl (by decide)) (by decide)
    · exact .of_acts (State.damageSet_acts (ps := [.weights, .log, .outbox]) .refl (by decide)) (by decide)
  unfold State.openRepair
  extract_lets line
  split
  · exact .refl s
  · split
    · exact .refl s
    · split
      · exact hdamage _ _
      · split
        · exact hdamage _ _
        · exact ⟨rfl, rfl, rfl, rfl, rfl, rfl, rfl, fun _ _ => rfl⟩

theorem State.Alike.noteUnit (h : s.Alike t) (u : Nat) : (s.noteUnit u).Alike (t.noteUnit u) := by
  rw [State.noteUnit, State.noteUnit, h.unitStatus]
  cases s.unitStatus u with
  | none => exact h
  | some st => exact (State.alike_openRepair _ u).symm.trans ((h.recordUnit u st).trans (State.alike_openRepair _ u))

theorem State.Alike.noteMerge (h : s.Alike t) (a n : Nat) : (s.noteMerge a n).Alike (t.noteMerge a n) := by
  rw [State.noteMerge, State.noteMerge, h.lostUnits]
  exact h.foldl fun _ _ x _ hu => hu.noteUnit x

/-! ## Traffic at the basins, the controllers and the weirs -/

theorem State.Alike.updBasin (h : s.Alike t) (f : Basin → Basin) : (s.updBasin f).Alike (t.updBasin f) := h.setMem (by rw [h.mem])

theorem State.Alike.count (h : s.Alike t) (a n : Nat) : (s.count a n).Alike (t.count a n) := h.updBasin _

theorem State.Alike.chargeTo (h : s.Alike t) (w point n : Nat) : (s.chargeTo w point n).Alike (t.chargeTo w point n) :=
  .ite ((h.updBasin _).count _ _) (h.updBasin _)

theorem State.Alike.charge (h : s.Alike t) (point n : Nat) : (s.charge point n).Alike (t.charge point n) := by
  rw [State.charge, State.charge, State.weir, State.weir, h.acting]
  exact h.chargeTo _ _ _

theorem State.Alike.ctrlRead (h : s.Alike t) (c n : Nat) : (s.ctrlRead c n).Alike (t.ctrlRead c n) := (h.count _ _).charge _ _
theorem State.Alike.ctrlWrite (h : s.Alike t) (c n : Nat) : (s.ctrlWrite c n).Alike (t.ctrlWrite c n) := (h.count _ _).charge _ _
theorem State.Alike.hit (h : s.Alike t) (hub n : Nat) : (s.hit hub n).Alike (t.hit hub n) := (h.count _ _).charge _ _
theorem State.Alike.miss (h : s.Alike t) (hub n : Nat) : (s.miss hub n).Alike (t.miss hub n) := (h.count _ _).charge _ _

/-- The word of a basin segment is one that both states agree in. -/
theorem segWord_read {hub j : Nat} (hhub : hub < 2) (hj : j < 24) : blkBasin hub + 4 * (j / 4) ∉ unreadWords := by
  have hkeeper : ∀ w ∈ unreadWords, blkKeeper ≤ w := by decide
  intro hmem
  have hle := hkeeper _ hmem
  simp only [blkBasin, blkKeeper, unitBlock] at hle
  omega

theorem State.Alike.segByte (h : s.Alike t) {hub j : Nat} (hhub : hub < 2) (hj : j < 24) (epoch : Nat) :
    t.segByte epoch hub j = s.segByte epoch hub j := by
  rw [State.segByte, State.segByte, h.lkWord (segWord_read hhub hj)]

theorem State.segsIn_lt {hub j : Nat} {u : SegUse} (hj : j ∈ s.segsIn hub u) : j < 24 := by
  have hrange := List.mem_range.mp (List.mem_of_mem_filter hj)
  split at hrange <;> omega

theorem State.Alike.segsIn (h : s.Alike t) {hub : Nat} (hhub : hub < 2) (u : SegUse) : t.segsIn hub u = s.segsIn hub u := by
  rw [State.segsIn, State.segsIn, h.spine, h.acting, h.segChanges]
  refine List.filter_congr fun j hj => ?_
  rw [h.segByte hhub]
  have hrange := List.mem_range.mp hj
  split at hrange <;> omega

theorem State.Alike.pool (h : s.Alike t) {hub : Nat} (hhub : hub < 2) : t.pool hub = s.pool hub := by
  have hsegs : t.segsIn hub = s.segsIn hub := funext (h.segsIn hhub)
  rw [State.pool, State.pool, h.acting, hsegs]

theorem State.pool_lt {hub j : Nat} (hj : j ∈ s.pool hub) : j < 24 := by
  rw [State.pool] at hj
  cases hberth : s.acting.berth with
  | none =>
    rw [hberth] at hj
    exact State.segsIn_lt hj
  | some b =>
    rw [hberth] at hj
    dsimp only at hj
    split at hj
    · exact State.segsIn_lt hj
    · exact State.segsIn_lt hj

/-- The segment of a place in a pool is one of the hub's. -/
theorem setPlace_lt {v : Variant} {p : List Nat} (hp : ∀ j ∈ p, j < 24) (i : Nat) : (setPlace v p i).1 < 24 := by
  rw [setPlace, List.getD_eq_getElem?_getD]
  cases hget : p[i / segSets v]? with
  | none => exact Nat.succ_pos 23
  | some j => exact hp j (List.mem_of_getElem? hget)

theorem State.Alike.cached (h : s.Alike t) (l : Nat) : t.cached l = s.cached l := by rw [State.cached, State.cached, h.mem]

theorem State.Alike.entryAt (h : s.Alike t) (l : Nat) : t.entryAt l = s.entryAt l := by rw [State.entryAt, State.entryAt, h.mem]

theorem State.Alike.spreadPoison (h : s.Alike t) (l : Nat) (sectors : List Nat) : (s.spreadPoison l sectors).Alike (t.spreadPoison l sectors) := by
  rw [State.spreadPoison, State.spreadPoison, h.mem]
  exact .ite (h.setMem rfl) h

theorem State.Alike.expel (h : s.Alike t) {k : CacheLine} (hseg : k.seg < 24) : (s.expel k).Alike (t.expel k) := by
  have hweir : t.segWeir (homeHub s.spine.variant k.line) k.seg = s.segWeir (homeHub s.spine.variant k.line) k.seg := by
    rw [State.segWeir, State.segWeir, h.segByte (homeHub_lt _ _) hseg]
  rw [State.expel, State.expel, h.spine, hweir]
  exact .ite (((((h.updBasin _).count _ _).chargeTo _ _ _).chargeTo _ _ _ |>.count _ _).spreadPoison _ _) (h.updBasin _)

theorem State.Alike.allocate (h : s.Alike t) (l : Nat) (dirty : Bool) : (s.allocate l dirty).Alike (t.allocate l dirty) := by
  rw [State.allocate, State.allocate, h.spine, h.pool (homeHub_lt _ _), h.mem]
  refine .ite h ?_
  dsimp only
  split
  · exact h.updBasin _
  · split
    next k hk =>
      have hthere := List.mem_filter.mp (List.mem_of_find?_eq_some hk)
      simp only [Bool.and_eq_true, beq_iff_eq] at hthere
      obtain ⟨-, ⟨-, hseg⟩, -⟩ := hthere
      refine (h.expel ?_).updBasin _
      rw [hseg]
      exact setPlace_lt (fun _ => State.pool_lt) _
    next => exact h

theorem State.Alike.useLine (h : s.Alike t) (l : Nat) (write : Bool) : (s.useLine l write).Alike (t.useLine l write) := h.updBasin _

theorem State.Alike.dropEntry (h : s.Alike t) (l : Nat) : (s.dropEntry l).Alike (t.dropEntry l) := h.updBasin _

theorem State.Alike.mergeSectors (h : s.Alike t) (l m : Nat) : (s.mergeSectors l m).Alike (t.mergeSectors l m) := by
  rw [State.mergeSectors, State.mergeSectors, h.spine]
  exact State.Alike.ctrlWrite (.ite h ((h.count _ _).ctrlRead _ _)) _ _

theorem State.Alike.sluiceWrite (h : s.Alike t) (l off n : Nat) : (s.sluiceWrite l off n).Alike (t.sluiceWrite l off n) := by
  rw [State.sluiceWrite, State.sluiceWrite, h.spine, h.entryAt]
  have hhit := h.hit (homeHub s.spine.variant l) n
  exact .ite ((((hhit.dropEntry l).count _ _).ctrlWrite _ _).spreadPoison _ _) (.ite (hhit.updBasin _) (hhit.updBasin _))

theorem State.Alike.readLine (h : s.Alike t) (alloc : Bool) (l n : Nat) : (s.readLine alloc l n).Alike (t.readLine alloc l n) := by
  rw [State.readLine, State.readLine, h.spine, h.cached, h.entryAt, h.pool (homeHub_lt _ _)]
  exact .ite ((h.useLine _ _).hit _ _) (.ite (h.hit _ _) (.ite (((h.miss _ _).ctrlRead _ _).allocate _ _) ((h.miss _ _).ctrlRead _ _)))

theorem State.Alike.writeLine (h : s.Alike t) (l off n : Nat) : (s.writeLine l off n).Alike (t.writeLine l off n) := by
  rw [State.writeLine, State.writeLine, h.spine, h.cached]
  dsimp only
  rw [(h.dropEntry l).pool (homeHub_lt _ _)]
  exact .ite ((h.useLine _ _).hit _ _) (.ite (.ite (((h.dropEntry l).miss _ _).ctrlWrite _ _) (((h.dropEntry l).hit _ _).allocate _ _))
    (.ite (h.sluiceWrite _ _ _) ((h.miss _ _).mergeSectors _ _)))

theorem State.Alike.tally (h : s.Alike t) (write alloc : Bool) (a n : Nat) : (s.tally write alloc a n).Alike (t.tally write alloc a n) := by
  have hmark {u v : State} (huv : u.Alike v) : (if s.acting.counted then u else u.updBasin fun b => { b with inexact := true }).Alike
      (if t.acting.counted then v else v.updBasin fun b => { b with inexact := true }) := by
    rw [h.acting]
    exact .ite huv (huv.updBasin _)
  have hlink (u v : State) (x : Nat × Nat) (huv : u.Alike v) :
      (match physSocket x.1 with | some k => if write then u.ctrlWrite (16 + k) x.2 else u.ctrlRead (16 + k) x.2 | none => u).Alike
        (match physSocket x.1 with | some k => if write then v.ctrlWrite (16 + k) x.2 else v.ctrlRead (16 + k) x.2 | none => v) := by
    split
    · exact .ite (huv.ctrlWrite _ _) (huv.ctrlRead _ _)
    · exact huv
  unfold State.tally
  rw [h.regionOf]
  dsimp only
  split
  · refine hmark ?_
    rw [h.spine]
    exact h.foldl fun u v x _ huv => .ite (huv.writeLine _ _ _) (huv.readLine _ _ _)
  · refine hmark ?_
    rw [h.spine]
    exact h.foldl fun u v x _ huv => huv.hit _ _
  · refine hmark ?_
    rw [h.physRuns]
    exact h.foldl fun u v x _ huv => hlink u v x huv
  · refine hmark ?_
    rw [h.physRuns]
    exact h.foldl fun u v x _ huv => hlink u v x huv
  · exact h

/-! ## Writes -/

theorem State.Alike.storeMem (h : s.Alike t) (a : Nat) (bs : List Byte) : (s.storeMem a bs).Alike (t.storeMem a bs) := by
  have hlost : t.lostUnits a bs.length = s.lostUnits a bs.length := h.lostUnits _ _
  have hwhole : t.unitsCovered a bs.length = s.unitsCovered a bs.length := h.unitsCovered _ _
  have hphys : t.phys = s.phys := funext h.phys
  have hunit : t.poisonUnit = s.poisonUnit := funext h.poisonUnit
  have hmodule : t.noModule = s.noModule := funext h.noModule
  have hstack : t.noStack = s.noStack := funext h.noStack
  rw [State.storeMem, State.storeMem, hlost, hwhole, hphys, hunit, hmodule, hstack, h.mem]
  exact (h.setMem rfl).tally _ _ _ _

/-- Two states that agree in what a write depends on agree in it after the write. -/
theorem State.Alike.writeMem (h : s.Alike t) (a : Nat) (bs : List Byte) : (s.writeMem a bs).Alike (t.writeMem a bs) :=
  (h.noteMerge a bs.length).storeMem a bs

end

end Sys2Proof.Machine
end

section
/-! PROOF. The logbook (R589 to R593): LOGBOOK_CTRL, the flush of its buffers, and REPLAY: the arms of LogbookCommandsComplete. -/

namespace Sys2Proof.Machine

open Sys2Proof

section
variable {s : State} {r : CmdRef} {k : Cmd} {hv : HostView}

/-! ## LOGBOOK_CTRL -/

theorem logbookCtrl_starts (hready : s.Ready 0xA001 r k) (hop : k.param 32 1 = 0) :
    Reaches (execLogbookCtrl r hv s) fun t => t.Answered r {} ∧ t.logbook.state = .recording ∧ t.logbook.held = [] ∧ t.logbook.buffer = [] ∧
      t.logbook.next = 0 ∧ t.logbook.place = 0 := by
  obtain rfl := hready.ref
  refine hready.reachesOn ?_
  have hstarts : (s.meets hv k).logbookCtrl k = (s.meets hv k).bookStart.finish k.ref {} := by
    rw [State.logbookCtrl]
    exact if_pos hop
  rw [hstarts]
  exact ⟨State.finish_answered hready.1, rfl, rfl, rfl, rfl, rfl⟩

theorem logbookCtrl_stops (hready : s.Ready 0xA001 r k) (hop : k.param 32 1 = 1) :
    Reaches (execLogbookCtrl r hv s) fun t => t.Answered r {} ∧
      t.logbook = if s.recording then s.logbook else { s.logbook with state := .stopped } := by
  obtain rfl := hready.ref
  refine hready.reachesOn ?_
  have hstops : (s.meets hv k).logbookCtrl k = (if s.recording then s.meets hv k
      else { s.meets hv k with logbook := { (s.meets hv k).logbook with state := .stopped } }).finish k.ref {} := by
    rw [State.logbookCtrl]
    exact (if_neg (by rw [hop]; decide)).trans (if_pos hop)
  rw [hstops]
  split
  · exact ⟨State.finish_answered hready.1, rfl⟩
  · exact ⟨State.finish_answered hready.1, rfl⟩

/-- MARK without ranges, where no service is open: once the commands before it are complete its entry goes in, and else it waits. -/
theorem State.logbookCtrl_mark (hop : 2 ≤ k.param 32 1) (hnone : k.param 36 4 = 0) (hclosed : s.anyServiceOpen = false) :
    s.logbookCtrl k = if (s.earlier k.ref).isEmpty && !s.bookHolds 0 4096 then s.bookMark k else s.running k.ref := by
  rw [State.logbookCtrl]
  have hnot0 : k.param 32 1 ≠ 0 := by omega
  have hnot1 : k.param 32 1 ≠ 1 := by omega
  simp only [hnot0, hnot1, hnone, hclosed, if_false, if_true, Bool.false_eq_true, Nat.mul_zero, Nat.add_zero]

/-- MARK without ranges, while entries are recorded. -/
theorem State.bookMark_records (hnone : k.param 36 4 = 0) (hrecords : s.recording = true) :
    s.bookMark k = (s.record 0 1 0 (zeros 16 ++ (s.markItems []).flatten)).finish k.ref
      { result0 := s.logbook.next, result1 := s.nextOffset (zeros 16 ++ (s.markItems []).flatten).length / 64 } := by
  unfold State.bookMark
  extract_lets n table rs d body
  have hn : n = 0 := hnone
  have hrs : rs = [] := congrArg (markRanges table) hn
  have htable : table = [] := congrArg (fun m => s.bytesAt (k.param 40 8) (16 * m)) hn
  have hbody : body = zeros 16 ++ (s.markItems []).flatten := by
    unfold body
    rw [hn, hrs, htable]
    rfl
  clear_value body d rs table n
  subst hn hrs hbody
  exact if_neg (by simp [hrecords])

/-- A MARK's items are the same where only the host's view and the operation under way differ. -/
theorem State.markItems_meets (s : State) (hv : HostView) (k : Cmd) : (s.meets hv k).markItems [] = s.markItems [] := by
  have hbytes : (s.meets hv k).lkBytes = s.lkBytes := rfl
  have hsettings : (s.meets hv k).allSettings = s.allSettings := by rw [State.allSettings, State.allSettings, hbytes]
  have hlanes : (s.meets hv k).laneGen = s.laneGen := rfl
  have hsets : (s.meets hv k).sets = s.sets := rfl
  have hadapters : (s.meets hv k).adapters = s.adapters := rfl
  have hgroups : (s.meets hv k).groups = s.groups := rfl
  rw [State.markItems, State.markItems, hsettings, hlanes, hsets, hadapters, hgroups, List.map_nil, List.map_nil]

theorem logbookCtrl_marks (hready : s.Ready 0xA001 r k) (hop : 2 ≤ k.param 32 1) (hnone : k.param 36 4 = 0) (hclosed : s.anyServiceOpen = false)
    (hfirst : s.earlier r = []) (hroom : s.bookHolds 0 4096 = false) (hrecords : s.recording = true) :
    Reaches (execLogbookCtrl r hv s) fun t => t.Answered r
      { result0 := s.logbook.next, result1 := s.nextOffset (zeros 16 ++ (s.markItems []).flatten).length / 64 } := by
  obtain rfl := hready.ref
  have hmay : ((s.meets hv k).earlier k.ref).isEmpty && !(s.meets hv k).bookHolds 0 4096 := by
    rw [show (s.meets hv k).earlier k.ref = [] from hfirst, show (s.meets hv k).bookHolds 0 4096 = false from hroom]
    rfl
  have hmarks : (s.meets hv k).logbookCtrl k = _ :=
    (State.logbookCtrl_mark (s := s.meets hv k) hop hnone hclosed).trans ((if_pos hmay).trans (State.bookMark_records hnone hrecords))
  rw [State.markItems_meets] at hmarks
  refine hready.reachesOn ?_
  rw [hmarks]
  refine State.finish_answered ((State.cmd_congr ?_).trans hready.1)
  exact (State.record_acts (ps := [.logbook]) .refl (by decide)).inflight (by decide)

theorem logbookCtrl_waits (hready : s.Ready 0xA001 r k) (hop : 2 ≤ k.param 32 1) (hnone : k.param 36 4 = 0) (hclosed : s.anyServiceOpen = false)
    (hlater : s.earlier r ≠ []) :
    Reaches (execLogbookCtrl r hv s) fun t => t.Waits r ∧ t.logbook = s.logbook := by
  obtain rfl := hready.ref
  refine hready.reachesOn ?_
  have hwaits : (s.meets hv k).logbookCtrl k = (s.meets hv k).running k.ref := by
    rw [State.logbookCtrl_mark (s := s.meets hv k) hop hnone hclosed]
    exact if_neg (by simp [show (s.meets hv k).earlier k.ref ≠ [] from hlater])
  rw [hwaits]
  exact ⟨State.running_waits hready.1, rfl⟩

/-! ## REPLAY -/

/-- What flushing the buffers may change. -/
theorem State.flushBook_acts' (s : State) : Acts [.draws, .regs, .mem, .weights, .logbook, .log, .outbox] s s.flushBook :=
  State.flushBook_acts .refl (by decide)

/-- The flushed state in which a REPLAY runs. -/
theorem State.replay_runs {m : BookEntry} (hbeats : s.beating = true) (hok : s.flushBook.replayFails k = none) (hmark : s.flushBook.replayMark k = some m) :
    s.replay k = s.flushBook.ringing.replayRun k m := by
  have hacts := s.flushBook_acts'
  have hbeats' : s.flushBook.beating = true := by rwa [State.beating, hacts.power (by decide), hacts.gov (by decide)]
  rw [State.replay]
  simp only [hok, hmark]
  exact State.onRing_beating hbeats' _

theorem replay_reaches {m : BookEntry} {u : State} {P : State → Prop} (hready : s.Ready 0xA000 r k) (hbeats : s.beating = true)
    (hok : (s.meets hv k).flushBook.replayFails k = none) (hmark : (s.meets hv k).flushBook.replayMark k = some m)
    (hruns : (s.meets hv k).flushBook.ringing.replayRun k m = u)
    (h : P { u with
      spine := { u.spine with variant := s.spine.variant, serial := s.spine.serial, slotId := s.spine.slotId }, acting := s.acting,
      pending := s.pending }) :
    Reaches (execReplay r hv s) P := by
  refine runsSpine_reaches_of_eq (t := u) ?_ h
  rw [hready.start, State.replay_runs (s := s.meets hv k) hbeats hok hmark, hruns]

theorem State.flushed_cmd (hready : s.Ready 0xA000 k.ref k) : (s.meets hv k).flushBook.ringing.cmd k.ref = some k :=
  (State.cmd_congr ((s.meets hv k).flushBook_acts'.inflight (by decide))).trans hready.1

theorem replay_answers_mark {m : BookEntry} {i : Nat} (hready : s.Ready 0xA000 r k) (hbeats : s.beating = true)
    (hok : (s.meets hv k).flushBook.replayFails k = none) (hmark : (s.meets hv k).flushBook.replayMark k = some m)
    (hdiffers : (s.meets hv k).flushBook.ringing.markDiffers m = some i) :
    Reaches (execReplay r hv s) fun t => t.Answered r { detail := 2, result0 := i } := by
  obtain rfl := hready.ref
  have hruns : (s.meets hv k).flushBook.ringing.replayRun k m = (s.meets hv k).flushBook.ringing.finish k.ref { detail := 2, result0 := i } := by
    rw [State.replayRun, hdiffers]
  have hcmd := State.flushed_cmd (hv := hv) hready
  exact replay_reaches hready hbeats hok hmark hruns (State.finish_answered hcmd)

theorem replay_ends {m : BookEntry} (hready : s.Ready 0xA000 r k) (hbeats : s.beating = true)
    (hok : (s.meets hv k).flushBook.replayFails k = none) (hmark : (s.meets hv k).flushBook.replayMark k = some m)
    (hsame : (s.meets hv k).flushBook.ringing.markDiffers m = none) :
    Reaches (execReplay r hv s) fun t => t.Ended r stSuccess ∧ t.host = (s.meets hv k).host ∧ t.ports = s.ports ∧ t.reports = s.reports ∧
      t.colls = s.colls ∧ t.clock = s.clock ∧ t.logbook = (s.meets hv k).flushBook.logbook := by
  obtain rfl := hready.ref
  have hacts := (s.meets hv k).flushBook_acts'
  have hcmd := State.flushed_cmd (hv := hv) hready
  obtain ⟨u, a, hstatus, hruns⟩ : ∃ u a, a.status = stSuccess ∧ (s.meets hv k).flushBook.ringing.replayRun k m =
      ((s.meets hv k).flushBook.ringing.afterReplay u).finish k.ref a := by
    rw [State.replayRun, hsame]
    exact ⟨_, _, rfl, rfl⟩
  have hended : (((s.meets hv k).flushBook.ringing.afterReplay u).finish k.ref a).Ended k.ref stSuccess := hstatus ▸ State.finish_ended (k := k) hcmd
  exact replay_reaches hready hbeats hok hmark hruns ⟨hended, hacts.host (by decide), hacts.ports (by decide), hacts.reports (by decide),
    hacts.colls (by decide), hacts.clock (by decide), rfl⟩

end

/-! ## The flush -/

section
variable {s : State} {now h : Nat} {e : BookEntry}

/-- The device as the entries meet it at a flush. -/
def State.unbuffered (s : State) : State := { s with logbook := { s.logbook with buffer := [] } }

/-- A flush with one waiting entry writes it. -/
theorem logbookBufferFlush_reaches {P : State → Prop} (hop : s.operating = true) (hbuffer : s.logbook.buffer = [(h, e)])
    {u : State} (hwrites : (s.at now).unbuffered.writeEntry e = u)
    (hP : P { u with spine := s.spine, acting := s.acting, pending := s.pending }) : Reaches (execLogbookBufferFlush now s) P := by
  have hacts : Acts [.clock] s (s.at now) := State.at_acts .refl (by decide)
  have hop' : (s.at now).operating = true := by
    rwa [State.operating, hacts.power (by decide), hacts.sec (by decide)]
  refine runs_reaches_to (u := u) ?_ hP
  rw [← hwrites]
  refine (if_pos hop').trans ?_
  rw [State.flushBook, hacts.logbook (by decide), hbuffer]
  rw [List.foldl_cons, List.foldl_nil, State.unbuffered, hacts.logbook (by decide)]

/-- A flush that leaves a state's memory and a logbook. -/
theorem logbookBufferFlush_leaves {u : State} {b : Logbook} {m : Mem} (Q : Logbook → Prop) (hop : s.operating = true)
    (hbuffer : s.logbook.buffer = [(h, e)]) (hwrites : (s.at now).unbuffered.writeEntry e = { u with logbook := b }) (hmem : u.mem = m) (hbook : Q b) :
    Reaches (execLogbookBufferFlush now s) fun t => t.mem = m ∧ Q t.logbook :=
  logbookBufferFlush_reaches hop hbuffer hwrites ⟨hmem, hbook⟩

/-- What a write stores does not depend on the clock or on what waits to be recorded. -/
theorem State.writeMem_unbuffered (s : State) (now a : Nat) (bs : List Byte) :
    ((s.at now).unbuffered.writeMem a bs).mem = (s.writeMem a bs).mem := by
  have halike : s.Alike (s.at now).unbuffered :=
    (State.Alike.of_acts (State.at_acts (ps := [.clock]) .refl (by decide)) (by decide)).trans
      ⟨rfl, rfl, rfl, rfl, rfl, rfl, rfl, fun _ _ => rfl⟩
  exact (halike.writeMem a bs).mem

theorem State.unbuffered_regNat (s : State) (now a : Nat) : (s.at now).unbuffered.regNat a = s.regNat a := State.regNat_at ..

theorem State.at_bookRegion (s : State) (now : Nat) : (s.at now).unbuffered.bookRegion = s.bookRegion := by
  rw [State.bookRegion, State.bookRegion, State.reg64, State.reg64, s.unbuffered_regNat now, s.unbuffered_regNat now]

theorem State.at_bookWrap (s : State) (now : Nat) : (s.at now).unbuffered.bookWrap = s.bookWrap := by
  rw [State.bookWrap, State.bookWrap, s.unbuffered_regNat now]

/-- An entry that has room goes to its place. -/
theorem State.writeEntry_writes {place : Nat} (hstate : s.logbook.state ≠ .full) (hsize : entrySize e.body.length ≤ s.bookRegion.2)
    (hroom : s.bookRegion.2 < s.logbook.place + entrySize e.body.length → s.bookWrap = true)
    (hplace : bookPlace s.bookRegion.2 s.logbook.place (entrySize e.body.length) = place) :
    ∃ b : Logbook, s.writeEntry e = { s.writeMem (s.bookRegion.1 + place) e.bytes with logbook := b } ∧ b.buffer = s.logbook.buffer ∧
      b.place = place + entrySize e.body.length := by
  have hnotFull : ¬ (s.logbook.state == .full) = true := by simpa using hstate
  have hfits : ¬ (decide (s.bookRegion.2 < entrySize e.body.length) ||
      decide (s.bookRegion.2 < s.logbook.place + entrySize e.body.length) && !s.bookWrap) = true := by
    by_cases hlate : s.bookRegion.2 < s.logbook.place + entrySize e.body.length
    · simp [Nat.not_lt.mpr hsize, hroom hlate]
    · simp [Nat.not_lt.mpr hsize, hlate]
  unfold State.writeEntry
  dsimp only
  rw [if_neg hnotFull, if_neg hfits, hplace]
  exact ⟨_, rfl, rfl, rfl⟩

/-- An entry that finds no room ends the recording. -/
theorem State.writeEntry_full (hstate : s.logbook.state ≠ .full) (hwrap : s.bookWrap = false)
    (hlate : s.bookRegion.2 < s.logbook.place + entrySize e.body.length) :
    s.writeEntry e = { s with logbook := { s.logbook with state := .full } } := by
  rw [State.writeEntry, if_neg (by simpa using hstate), if_pos (by simp [hwrap, hlate])]

theorem logbookBufferFlush_writes {place : Nat} (hop : s.operating = true) (hbuffer : s.logbook.buffer = [(h, e)]) (hstate : s.logbook.state ≠ .full)
    (hsize : entrySize e.body.length ≤ s.bookRegion.2) (hroom : s.bookRegion.2 < s.logbook.place + entrySize e.body.length → s.bookWrap = true)
    (hplace : bookPlace s.bookRegion.2 s.logbook.place (entrySize e.body.length) = place) :
    Reaches (execLogbookBufferFlush now s) fun t => t.mem = (s.writeMem (s.bookRegion.1 + place) e.bytes).mem ∧
      t.logbook.buffer = [] ∧ t.logbook.place = place + entrySize e.body.length := by
  have hbook : (s.at now).logbook = s.logbook := (State.at_acts (ps := [.clock]) .refl (by decide)).logbook (by decide)
  have hregion := s.at_bookRegion now
  obtain ⟨b, hwrites, hempty, hend⟩ := State.writeEntry_writes (s := (s.at now).unbuffered) (e := e) (place := place)
    (by rwa [State.unbuffered, hbook]) (by rwa [hregion])
    (by rw [hregion, s.at_bookWrap now, State.unbuffered, hbook]; exact hroom) (by rw [hregion, State.unbuffered, hbook]; exact hplace)
  rw [hregion] at hwrites
  exact logbookBufferFlush_leaves (fun b => b.buffer = [] ∧ b.place = place + entrySize e.body.length) hop hbuffer hwrites
    (State.writeMem_unbuffered ..) ⟨hempty, hend⟩

theorem logbookBufferFlush_fills (hop : s.operating = true) (hbuffer : s.logbook.buffer = [(h, e)]) (hstate : s.logbook.state ≠ .full)
    (hwrap : s.bookWrap = false) (hlate : s.bookRegion.2 < s.logbook.place + entrySize e.body.length) :
    Reaches (execLogbookBufferFlush now s) fun t => t.mem = s.mem ∧ t.logbook.buffer = [] ∧ t.logbook.state = .full := by
  have hacts : Acts [.clock] s (s.at now) := State.at_acts .refl (by decide)
  have hbook := hacts.logbook (by decide)
  have hfull := State.writeEntry_full (s := (s.at now).unbuffered) (e := e) (by rwa [State.unbuffered, hbook])
    (by rwa [s.at_bookWrap now]) (by rw [s.at_bookRegion now, State.unbuffered, hbook]; exact hlate)
  exact logbookBufferFlush_leaves (fun b => b.buffer = [] ∧ b.state = .full) hop hbuffer hfull (hacts.mem (by decide)) ⟨rfl, rfl⟩

end

theorem bookPlace_fits {region place size : Nat} (h : place + size ≤ region) : bookPlace region place size = place := if_pos h

theorem bookPlace_wraps {region place size : Nat} (h : region < place + size) : bookPlace region place size = 0 := if_neg (Nat.not_le.mpr h)

/-- Settles O47: each row's own lemmas, in the order of the clauses; what a flush stores is what the write alone stores, since no write reads the
clock or the logbook. -/
theorem logbookCommandsComplete : Obligations.LogbookCommandsComplete := by
  refine ⟨fun _ _ _ _ _ _ => replay_answers_mark, fun _ _ _ _ _ => replay_ends, fun _ _ _ _ => logbookCtrl_starts, fun _ _ _ _ => logbookCtrl_stops,
    fun _ _ _ _ => logbookCtrl_marks, fun _ _ _ _ => logbookCtrl_waits, ?_, ?_, fun _ _ _ _ => logbookBufferFlush_fills⟩
  · intro s now h e hop hbuffer hstate hfits
    exact logbookBufferFlush_writes hop hbuffer hstate (by omega) (fun hlate => absurd hfits (by omega)) (bookPlace_fits hfits)
  · intro s now h e hop hbuffer hstate hwrap hlate hsize
    have hwrites := logbookBufferFlush_writes (now := now) hop hbuffer hstate hsize (fun _ => hwrap) (bookPlace_wraps hlate)
    rw [Nat.add_zero, Nat.zero_add] at hwrites
    exact hwrites

end Sys2Proof.Machine
end

section
/-! PROOF. Collective messages (R399 to R424): the arms of CollectiveEventsComplete. -/

namespace Sys2Proof.Machine

open Sys2Proof

/-! ## What messages leave of the registers -/

section
variable {s t : State}

theorem Acts.lkWord {ps : List Part} (h : Acts ps s t) (hregs : Part.regs ∉ ps) (hspine : Part.spine ∉ ps) (epoch a : Nat) :
    t.lkWord epoch a = s.lkWord epoch a := by
  obtain ⟨-, hold, -⟩ := h.1 .regs hregs
  rw [State.lkWord, State.lkWord, State.regNat, State.regNat, h.reg hregs hspine, h.spine hspine, hold]

theorem Acts.axisOfCmd {ps : List Part} (h : Acts ps s t) (hregs : Part.regs ∉ ps) (hspine : Part.spine ∉ ps) (c : Cmd) :
    t.axisOfCmd c = s.axisOfCmd c := by
  rw [State.axisOfCmd, State.axisOfCmd, State.groupAxis, State.groupAxis, State.groupWord, State.groupWord, h.lkWord hregs hspine]

/-- The ring of a collective, its place in it and its ports outlast what leaves registers and the spine alone. -/
theorem Acts.members {ps : List Part} (h : Acts ps s t) (hregs : Part.regs ∉ ps) (hspine : Part.spine ∉ ps) (c : Cmd) :
    t.members c = s.members c := by
  rw [State.members, State.members, h.axisOfCmd hregs hspine, h.lkWord hregs hspine]

theorem Acts.me {ps : List Part} (h : Acts ps s t) (hregs : Part.regs ∉ ps) (hspine : Part.spine ∉ ps) (c : Cmd) : t.me c = s.me c := by
  rw [State.me, State.me, h.axisOfCmd hregs hspine, h.lkWord hregs hspine]

theorem Acts.dirPort {ps : List Part} (h : Acts ps s t) (hregs : Part.regs ∉ ps) (hspine : Part.spine ∉ ps) (c : Cmd) : t.dirPort c = s.dirPort c := by
  rw [State.dirPort, State.dirPort, State.posPort, State.posPort, State.negPort, State.negPort, h.axisOfCmd hregs hspine]

/-- A port that sends counts its flits, and no other register. -/
theorem State.regNat_sendNow_ne {p b : Nat} (hlow : b ≠ blkPort p + 0x40) (hhigh : b ≠ blkPort p + 0x40 + 4) (f : Flit) (msg : Nat) :
    (s.sendNow p f msg).regNat b = s.regNat b := by
  rw [State.sendNow, State.add64, State.regNat_set64_ne hlow hhigh]
  exact congrArg BitVec.toNat ((State.emitFlit_acts (ps := [.links, .mgmt, .outbox]) (State.updPort_acts .refl (by decide)) (by decide)).reg
    (by decide) (by decide) _)

theorem State.regNat_drain_ne {p b : Nat} (hlow : b ≠ blkPort p + 0x40) (hhigh : b ≠ blkPort p + 0x40 + 4) (fuel : Nat) :
    (State.drain fuel s p).regNat b = s.regNat b := by
  induction fuel generalizing s with
  | zero => rfl
  | succ fuel ih =>
    rw [State.drain]
    split
    · rfl
    · exact ih.trans (State.regNat_sendNow_ne hlow hhigh _ _)

theorem State.regNat_sendMessage_ne {p b : Nat} (hlow : b ≠ blkPort p + 0x40) (hhigh : b ≠ blkPort p + 0x40 + 4) (vc route cls context inc : Nat)
    (body : List Byte) (poison : List (Nat × Nat)) : (s.sendMessage p vc route cls context inc body poison).1.regNat b = s.regNat b := by
  rw [State.sendMessage, State.sendFlits]
  exact (State.regNat_drain_ne hlow hhigh _).trans (congrArg BitVec.toNat ((State.updPort_acts (ps := [.links, .mgmt, .outbox])
    (Acts.set_msgNext .refl (by decide)) (by decide)).reg (by decide) (by decide) _))

/-! ## The flags of collectives -/

theorem evColl_ne_flitCount (p : Nat) : evColl ≠ blkPort p + 0x40 ∧ evColl ≠ blkPort p + 0x40 + 4 := by
  unfold evColl blkKeeper blkPort unitBlock
  omega

theorem State.relay_evColl (s : State) (p vc cls : Nat) (m : Msg) (body : List Byte) : (s.relay p vc cls m body).regNat evColl = s.regNat evColl := by
  rw [State.relay]
  split
  · exact State.regNat_sendMessage_ne (evColl_ne_flitCount _).1 (evColl_ne_flitCount _).2 ..
  · rfl

theorem State.sendAbort_evColl (s : State) (p g seq st member : Nat) : (s.sendAbort p g seq st member).regNat evColl = s.regNat evColl := by
  rw [State.sendAbort]
  split
  · exact State.regNat_sendMessage_ne (evColl_ne_flitCount _).1 (evColl_ne_flitCount _).2 ..
  · rfl

theorem State.consume_evColl (s : State) (p : Nat) (m : Msg) : (s.consume p m).regNat evColl = s.regNat evColl :=
  congrArg BitVec.toNat ((State.consume_acts (ps := [.links, .mgmt, .outbox]) .refl (by decide)).reg (by decide) (by decide) _)

theorem evColl_ne_counterWord (n : Nat) : evColl ≠ counterWord evColl n := by
  simp only [counterWord, show inDoorbells evColl = false by decide, Bool.false_eq_true, if_false]
  omega

theorem State.raise_evColl {n : Nat} (hn : n < 32) (s : State) : ((s.raise evColl n).regNat evColl).testBit n = true :=
  State.raise_flag hn (evColl_ne_counterWord n) s

/-- Setting a lower bit leaves a bit. -/
theorem testBit_putBit_gt {m n : Nat} (h : n < m) (w : Nat) : (putBit w n true).testBit m = w.testBit m := by
  rw [putBit]
  split
  · rfl
  next hclear =>
    have hhigh : (w + 2 ^ n) / 2 ^ (n + 1) = w / 2 ^ (n + 1) := by
      rw [Nat.testBit_eq_decide_div_mod_eq, decide_eq_true_eq] at hclear
      rw [Nat.pow_succ, ← Nat.div_div_eq_div_mul, ← Nat.div_div_eq_div_mul, Nat.add_div_right _ (Nat.two_pow_pos n)]
      omega
    obtain ⟨j, rfl⟩ := Nat.exists_eq_add_of_lt h
    rw [if_pos rfl, show n + j + 1 = j + (n + 1) by omega, ← Nat.testBit_div_two_pow, hhigh, Nat.testBit_div_two_pow]

/-- Raising a flag of the collectives leaves the others. -/
theorem State.raise_evColl_ne {m n : Nat} (hm : m < 32) (hn : n < 32) (h : m ≠ n) (s : State) :
    ((s.raise evColl n).regNat evColl).testBit m = (s.regNat evColl).testBit m := by
  rcases Nat.lt_or_gt_of_ne h with hlow | hhigh
  · exact State.raise_flag_lt hlow hn (evColl_ne_counterWord n) s
  · rw [State.raise_regNat (evColl_ne_counterWord n), Nat.testBit_mod_two_pow, testBit_putBit_gt hhigh, decide_eq_true hm, Bool.true_and]

/-- A command's collective that closes leaves the list, and its command has its answer. -/
theorem State.closeColl_command {k : Coll} (howner : k.owner = .command) (st r0 r1 : Nat) :
    (s.closeColl k st r0 r1).inflight = (s.finish k.cmd.ref { status := st, result0 := r0, result1 := r1 }).inflight ∧
      (s.closeColl k st r0 r1).colls = s.colls.eraseP (fun x => x.cmd.group == k.cmd.group && x.cmd.collSeq == k.cmd.collSeq) ∧
      (s.closeColl k st r0 r1).regNat evColl = s.regNat evColl := by
  have hcount (u : State) : (u.add64 (blkKeeper + 0x2100) 1).inflight = u.inflight ∧ (u.add64 (blkKeeper + 0x2100) 1).colls = u.colls ∧
      (u.add64 (blkKeeper + 0x2100) 1).regNat evColl = u.regNat evColl :=
    have hacts : Acts [.regs] u (u.add64 (blkKeeper + 0x2100) 1) := State.add64_acts .refl (by decide)
    ⟨hacts.inflight (by decide), hacts.colls (by decide), State.regNat_set64_ne (by decide) (by decide) _ _⟩
  rw [State.closeColl, howner]
  dsimp only
  split
  · exact hcount _
  · exact ⟨rfl, rfl, rfl⟩

/-- The only collective, opened by a command, closes: the command is answered and no collective is open. -/
theorem State.closeColl_only {k x : Coll} {d : Cmd} (howner : k.owner = .command) (hcolls : s.colls = [x]) (hsame : x.cmd = k.cmd)
    (hcmd : s.cmd k.cmd.ref = some d) (st r0 r1 : Nat) :
    (s.closeColl k st r0 r1).Answered k.cmd.ref { status := st, result0 := r0, result1 := r1 } ∧ (s.closeColl k st r0 r1).colls = [] := by
  obtain ⟨hinflight, hleft, -⟩ := State.closeColl_command (s := s) howner st r0 r1
  refine ⟨(State.answered_congr hinflight).mpr (State.finish_answered hcmd), ?_⟩
  rw [hleft, hcolls, List.eraseP_cons, hsame]
  simp

/-- The commands' collectives that finish leave the flags. -/
theorem State.settleColls_evColl (h : ∀ k ∈ s.colls, k.owner = .command) : s.settleColls.regNat evColl = s.regNat evColl := by
  refine foldl_keeps (P := fun u : State => u.regNat evColl = s.regNat evColl) (fun k hk u hu => ?_) rfl
  split
  · exact (State.closeColl_command (h k (List.mem_filter.mp hk).1) _ _ _).2.2.trans hu
  · exact hu

/-- What an end without success leaves undefined. -/
theorem State.endColl_undefines (k : Coll) : Acts [.draws, .mem] s ((s.collDst k).foldl (fun (t : State) r => t.undefine r.1 r.2) s) :=
  Acts.foldl .refl fun _ _ h => State.undefine_acts h (by decide)

/-- The only collective, opened by a command, ends without success. -/
theorem State.endColl_only {k x : Coll} {d : Cmd} (howner : k.owner = .command) (hcolls : s.colls = [x]) (hsame : x.cmd = k.cmd)
    (hcmd : s.cmd k.cmd.ref = some d) (st r1 : Nat) :
    (s.endColl k st r1).Ended k.cmd.ref st ∧ (s.endColl k st r1).colls = [] ∧ (s.endColl k st r1).regNat evColl = s.regNat evColl := by
  have hacts := s.endColl_undefines k
  obtain ⟨⟨c, hc, hdone, hst, -⟩, hnone⟩ := State.closeColl_only howner ((hacts.colls (by decide)).trans hcolls) hsame
    ((State.cmd_congr (hacts.inflight (by decide))).trans hcmd) st (bit k.ownDone) r1
  exact ⟨⟨c, hc, hdone, hst⟩, hnone,
    (State.closeColl_command howner _ _ _).2.2.trans (congrArg BitVec.toNat (hacts.reg (by decide) (by decide) _))⟩

/-- The only collective, opened by a command, passes its deadline: it ends, and flags 0 and 5 say so. -/
theorem State.failColl_late {k : Coll} {d : Cmd} (howner : k.owner = .command) (hcolls : s.colls = [k]) (hcmd : s.cmd k.cmd.ref = some d) :
    (s.failColl k stCollDeadline).Ended k.cmd.ref stCollDeadline ∧ (s.failColl k stCollDeadline).colls = [] ∧
      ((s.failColl k stCollDeadline).regNat evColl).testBit 0 = true ∧ ((s.failColl k stCollDeadline).regNat evColl).testBit 5 = true := by
  unfold State.failColl
  extract_lets c t0 t1 t2 t3 t4 t5 t6
  have hnoted : t5 = t1 := by
    unfold t5 t4 t3 t2
    simp [stCollDeadline, stCollScale, stCollMismatch, stCollResidue, stCollMalformed]
  have hraised : t1 = t0.raise evColl 5 := if_pos rfl
  have hacts : Acts [.regs, .outbox] s t5 := by
    rw [hnoted, hraised]
    exact State.raise_acts (State.sat32_acts (State.raise_acts .refl (by decide)) (by decide)) (by decide)
  obtain ⟨hended, hnone, hflags⟩ : t6.Ended k.cmd.ref stCollDeadline ∧ t6.colls = [] ∧ t6.regNat evColl = t5.regNat evColl :=
    State.endColl_only howner ((hacts.colls (by decide)).trans hcolls) rfl
      ((State.cmd_congr (hacts.inflight (by decide))).trans hcmd) stCollDeadline 0
  have hzero : (t6.regNat evColl).testBit 0 = true := by
    have hcounted : t0.regNat evColl = (s.raise evColl 0).regNat evColl := State.regNat_setNat_ne (by decide) _ _
    rw [hflags, hnoted, hraised, State.raise_evColl_ne (by decide) (by decide) (by decide), hcounted]
    exact State.raise_evColl (by decide) s
  have hfive : (t6.regNat evColl).testBit 5 = true := by
    rw [hflags, hnoted, hraised]
    exact State.raise_evColl (by decide) t0
  clear_value t6
  split
  · exact ⟨hended, hnone, hzero, hfive⟩
  · have hsent : Acts [.regs, .links, .mgmt, .outbox] t6 (((t6.sendAbort (s.posPort c) c.group c.collSeq stCollDeadline (s.me c)).sendAbort
        (s.negPort c) c.group c.collSeq stCollDeadline (s.me c)).sat32 (blkKeeper + 0x210C) 1) :=
      State.sat32_acts (State.sendAbort_acts (State.sendAbort_acts .refl (by decide)) (by decide)) (by decide)
    have hkept : (((t6.sendAbort (s.posPort c) c.group c.collSeq stCollDeadline (s.me c)).sendAbort
        (s.negPort c) c.group c.collSeq stCollDeadline (s.me c)).sat32 (blkKeeper + 0x210C) 1).regNat evColl = t6.regNat evColl := by
      rw [State.sat32, State.regNat_setNat_ne (by decide), State.sendAbort_evColl, State.sendAbort_evColl]
    exact ⟨(State.ended_congr (hsent.inflight (by decide))).mpr hended, (hsent.colls (by decide)).trans hnone, hkept ▸ hzero, hkept ▸ hfive⟩

/-! ## How a message is taken up -/

/-- The fields that begin a collective message (Table 15-2), as the model reads them. -/
def Msg.head (m : Msg) : Prefix :=
  ⟨fieldAt m.body 0 4, fieldAt m.body 4 1, fieldAt m.body 5 1, fieldAt m.body 6 2, fieldAt m.body 8 4, fieldAt m.body 12 4⟩

variable {p cls now : Nat} {m : Msg} {k : Coll}

/-- The collective is the one that the message names. -/
theorem State.Meets.names (h : s.Meets p cls m k) : k.cmd.group = m.head.group ∧ k.cmd.collSeq = m.context ∧ m.head.digest = k.cmd.digest := by
  obtain ⟨-, -, hgroup, hseq, -, -, hdigest⟩ := h
  exact ⟨hgroup, hseq, hdigest⟩

theorem State.Meets.collAt (h : s.Meets p cls m k) : s.collAt k.cmd.group k.cmd.collSeq = some k := by
  obtain ⟨-, hcolls, -, -, hopen, -, -⟩ := h
  simp [State.collAt, hcolls, hopen]

theorem State.Meets.collAt_head (h : s.Meets p cls m k) : s.collAt m.head.group m.context = some k := by
  obtain ⟨hgroup, hseq, -⟩ := h.names
  rw [← hgroup, ← hseq, h.collAt]

/-- A message of the open collective is taken up by it. -/
theorem State.Meets.onColl (h : s.Meets p cls m k) (f : State → Coll → Msg → State) : s.onColl p cls f = f (s.taken p m k) k m := by
  have hcoll := h.collAt
  obtain ⟨hmsg, -, hgroup, hseq, -, -, hdigest⟩ := h
  rw [State.onColl, hmsg]
  dsimp only
  rw [← hgroup, ← hseq, hcoll]
  dsimp only
  rw [if_neg (not_not_intro hdigest)]
  rfl

/-- A message of a past collective is stale. -/
theorem State.onColl_stale (hmsg : s.collMessage p cls = some m) (hnone : s.collAt m.head.group m.context = none)
    (f : State → Coll → Msg → State) : s.onColl p cls f = (s.consume p m).staleColl := by
  rw [State.onColl, hmsg]
  dsimp only
  split
  · rfl
  next x hsome => cases hsome.symm.trans hnone

theorem State.taken_acts (s : State) (p : Nat) (m : Msg) (k : Coll) :
    Acts [.links, .mgmt, .outbox, .acting, .colls] s (s.taken p m k) :=
  State.updColl_acts (State.actAs_acts (State.consume_acts .refl (by decide)) (by decide)) (by decide)

/-- Taking a message up leaves the collective the only one. -/
theorem State.taken_colls (hcolls : s.colls = [k]) : (s.taken p m k).colls = [{ k with lastAt := s.now }] := by
  have hleft : ((s.consume p m).actAs k.cmd).colls = [k] :=
    ((State.consume_acts (ps := [.links, .mgmt, .outbox]) .refl (by decide)).colls (by decide)).trans hcolls
  rw [State.taken, State.updColl, hleft]
  simp [updateFirst]

/-- A stale message leaves its port's list, and flag 7 says so. -/
theorem runs_stale {f : State → State} (hf : f s = ((s.at now).consume p m).staleColl) :
    Reaches (runs f s) fun t => (t.port p).inbox = (s.port p).inbox.erase m ∧ t.mem = s.mem ∧ (t.regNat evColl).testBit 7 = true := by
  refine runs_reaches_of_eq (ps := [.clock, .regs, .links, .mgmt, .outbox]) hf
    (State.staleColl_acts (State.consume_acts (State.at_acts .refl (by decide)) (by decide)) (by decide)) (by decide) ⟨?_, ?_, ?_⟩
  · rw [(State.staleColl_acts (ps := [.regs, .outbox]) .refl (by decide)).port (by decide), State.consume_inbox, State.at_port]
  · rw [(State.staleColl_acts (ps := [.regs, .outbox]) .refl (by decide)).mem (by decide)]
    exact (State.consume_acts' m).mem (by decide)
  · exact State.raise_evColl (by decide) _

/-- What a row's function makes of memory is what the row makes of it. -/
theorem runs_mem {f : State → State} {v : Mem} (h : (f s).mem = v) : Reaches (runs f s) fun t => t.mem = v := runs_reaches h

/-! ## Deadlines and abort notices (R422, R423) -/

theorem collDeadline_passes {g seq : Nat} {d : Cmd} (hcolls : s.colls = [k]) (hgroup : k.cmd.group = g) (hseq : k.cmd.collSeq = seq)
    (hopen : k.ended = none) (howner : k.owner = .command) (hcmd : s.cmd k.cmd.ref = some d)
    (hlate : (s.at now).expired (k.lastAt + s.collDeadline k.cmd) = true) :
    Reaches (execCollDeadline g seq now s) fun t => t.Ended k.cmd.ref stCollDeadline ∧ t.colls = [] ∧
      (t.regNat evColl).testBit 0 = true ∧ (t.regNat evColl).testBit 5 = true := by
  obtain ⟨clock, hat⟩ := s.at_clock now
  have hfails : (s.at now).collLate g seq = (s.at now).failColl k stCollDeadline := by
    rw [hat] at hlate ⊢
    have hfound : ({ s with clock := clock } : State).collAt g seq = some k := by simp [State.collAt, hcolls, hgroup, hseq, hopen]
    rw [State.collLate, hfound]
    exact if_pos hlate
  refine runs_reaches_of_eq (f := fun s => (s.at now).collLate g seq)
    (ps := [.clock, .draws, .regs, .mem, .cmds, .links, .colls, .turns, .lockage, .mgmt, .outbox]) hfails
    (State.failColl_acts (State.at_acts .refl (by decide)) (by decide)) (by decide) ?_
  exact State.failColl_late howner (by rw [hat]; exact hcolls) (by rw [State.at_cmd]; exact hcmd)

/-- An abort notice as its device takes it up: noted, and passed on unless it has been here. -/
def State.aborting (s : State) (p : Nat) (m : Msg) : State :=
  let t := (s.consume p m).raise evColl 1
  if fieldAt m.body 22 2 = s.coord (axisOf p) || (s.group (fieldAt m.body 4 1)).relayed.contains (fieldAt m.body 16 4) then t
  else (t.relay p 0 0x0110 m m.body).updGroup (fieldAt m.body 4 1) fun k => { k with relayed := (fieldAt m.body 16 4 :: k.relayed).take 16 }

theorem State.aborting_acts (s : State) (p : Nat) (m : Msg) : Acts [.regs, .links, .mgmt, .outbox, .colls] s (s.aborting p m) := by
  unfold State.aborting
  extract_lets t
  have ht : Acts [.regs, .links, .mgmt, .outbox, .colls] s t := State.raise_acts (State.consume_acts .refl (by decide)) (by decide)
  exact Acts.ite ht (State.updGroup_acts (State.relay_acts ht (by decide)) (by decide))

/-- An abort notice leaves the open collectives until it is known whose it is, and flag 1 says that it came. -/
theorem State.aborting_leaves (s : State) (p : Nat) (m : Msg) :
    (s.aborting p m).colls = s.colls ∧ ((s.aborting p m).regNat evColl).testBit 1 = true := by
  unfold State.aborting
  extract_lets t
  have hcolls : t.colls = s.colls :=
    (State.raise_acts (ps := [.regs, .links, .mgmt, .outbox]) (State.consume_acts .refl (by decide)) (by decide)).colls (by decide)
  have hflag : (t.regNat evColl).testBit 1 = true := State.raise_evColl (by decide) _
  clear_value t
  split
  · exact ⟨hcolls, hflag⟩
  · refine ⟨((State.relay_acts (ps := [.regs, .links, .mgmt, .outbox]) .refl (by decide)).colls (by decide)).trans hcolls, ?_⟩
    rw [← hflag, ← t.relay_evColl p 0 0x0110 m m.body]
    rfl

theorem abortNotice_early (hmsg : (s.port p).inbox.find? (fun m => m.cls == 0x0110) = some m) (hcolls : s.colls = [])
    (hearly : (s.group (fieldAt m.body 4 1)).lastSeq < fieldAt m.body 16 4) :
    Reaches (execAbortNotice p now s) fun t =>
      (t.group (fieldAt m.body 4 1)).aborts.contains (fieldAt m.body 16 4) = true ∧ (t.regNat evColl).testBit 1 = true ∧ t.mem = s.mem := by
  obtain ⟨clock, hat⟩ := s.at_clock now
  obtain ⟨hleft, hflag⟩ := (s.at now).aborting_leaves p m
  have hacts : Acts [.clock, .regs, .links, .mgmt, .outbox, .colls] s ((s.at now).aborting p m) :=
    Acts.trans (State.at_acts .refl (by decide)) (((s.at now).aborting_acts p m).more (by decide))
  have hrecords : (s.at now).abortNotice p = ((s.at now).aborting p m).updGroup (fieldAt m.body 4 1) fun k =>
      { k with aborts := (fieldAt m.body 16 4 :: k.aborts.filter (· != fieldAt m.body 16 4)).take 16 } := by
    have hnone : ((s.at now).aborting p m).collAt (fieldAt m.body 4 1) (fieldAt m.body 16 4) = none := by
      rw [State.collAt, hleft, hat]
      exact (congrArg (List.find? _) hcolls).trans rfl
    have hlow : ((s.at now).group (fieldAt m.body 4 1)).lastSeq < fieldAt m.body 16 4 := by rw [hat]; exact hearly
    rw [State.abortNotice, State.at_port, hmsg]
    change (match ((s.at now).aborting p m).collAt (fieldAt m.body 4 1) (fieldAt m.body 16 4) with | some _ => _ | none => _) = _
    rw [hnone]
    exact if_pos (by simp [hlow])
  refine runs_reaches_of_eq (f := fun s => (s.at now).abortNotice p) hrecords (State.updGroup_acts hacts (by decide)) (by decide)
    ⟨?_, hflag, hacts.mem (by decide)⟩
  rw [State.updGroup_group_same]
  simp

theorem abortNotice_ends {d : Cmd} (hmsg : (s.port p).inbox.find? (fun m => m.cls == 0x0110) = some m) (hcolls : s.colls = [k])
    (hopen : k.ended = none) (howner : k.owner = .command) (hgroup : k.cmd.group = fieldAt m.body 4 1)
    (hseq : k.cmd.collSeq = fieldAt m.body 16 4) (hop : k.cmd.opcode ≠ 0x5003) (hcmd : s.cmd k.cmd.ref = some d) :
    Reaches (execAbortNotice p now s) fun t => t.Ended k.cmd.ref stCollPeerFailed ∧ t.colls = [] := by
  obtain ⟨hleft, -⟩ := (s.at now).aborting_leaves p m
  have hacts : Acts [.clock, .regs, .links, .mgmt, .outbox, .colls] s ((s.at now).aborting p m) :=
    Acts.trans (State.at_acts .refl (by decide)) (((s.at now).aborting_acts p m).more (by decide))
  have hk : ((s.at now).aborting p m).colls = [k] :=
    hleft.trans (((State.at_acts (ps := [.clock]) .refl (by decide)).colls (by decide)).trans hcolls)
  have hends : (s.at now).abortNotice p = ((s.at now).aborting p m).endColl k stCollPeerFailed 0 := by
    have hfound : ((s.at now).aborting p m).collAt (fieldAt m.body 4 1) (fieldAt m.body 16 4) = some k := by
      simp [State.collAt, hk, hgroup, hseq, hopen]
    rw [State.abortNotice, State.at_port, hmsg]
    change (match ((s.at now).aborting p m).collAt (fieldAt m.body 4 1) (fieldAt m.body 16 4) with | some _ => _ | none => _) = _
    rw [hfound]
    exact congrArg (State.endColl _ k · 0) (if_neg (by simp [hop]))
  obtain ⟨hended, hnone, -⟩ := State.endColl_only (s := (s.at now).aborting p m) howner hk rfl
    ((State.cmd_congr (hacts.inflight (by decide))).trans hcmd) stCollPeerFailed 0
  exact runs_reaches_of_eq (f := fun s => (s.at now).abortNotice p)
    (ps := [.clock, .draws, .regs, .mem, .cmds, .links, .colls, .turns, .lockage, .mgmt, .outbox]) hends
    (State.endColl_acts (hacts.more (by decide)) (by decide)) (by decide) ⟨hended, hnone⟩

/-! ## Pipeline messages and pieces of a PERMUTE (R420, R421) -/

/-- The data of a pipeline message is written and its RECV closes. -/
theorem State.pipelineMessage_lands (h : s.Meets p 0x0104 m k) (hrecv : k.cmd.opcode = 0x5004) (hport : s.dirPort k.cmd = p)
    (hlength : m.body.length = k.cmd.param 64 8 + 16) (hpoison : m.poison = []) :
    s.pipelineMessage p = (((s.consume p m).actAs k.cmd).writeMem (k.cmd.param 56 8) (m.body.drop 16)).closeColl k 0 0 0 := by
  have hcoll := h.collAt
  obtain ⟨hmsg, -, hgroup, hseq, -, -, hdigest⟩ := h
  rw [State.pipelineMessage, hmsg]
  dsimp only
  rw [← hgroup, ← hseq, hcoll]
  dsimp only
  rw [if_neg (by simp [hrecv, hport]), if_neg (by simp [hdigest, hlength]), hpoison]
  rfl

theorem pipelineMessage_lands {d : Cmd} (h : (s.at now).Meets p 0x0104 m k) (hrecv : k.cmd.opcode = 0x5004) (hport : s.dirPort k.cmd = p)
    (hlength : m.body.length = k.cmd.param 64 8 + 16) (hpoison : m.poison = []) (hcmd : s.cmd k.cmd.ref = some d) :
    Reaches (execPipelineMessage p now s) fun t => t.Answered k.cmd.ref {} ∧ t.colls = [] ∧
      t.mem = (((s.at now).taken p m k).writeMem (k.cmd.param 56 8) (m.body.drop 16)).mem := by
  have hat : Acts [.clock] s (s.at now) := State.at_acts .refl (by decide)
  have hlands := State.pipelineMessage_lands h hrecv ((hat.dirPort (by decide) (by decide) _).trans hport) hlength hpoison
  obtain ⟨-, hcolls, -, -, -, howner, -⟩ := h
  have hacts : Acts [.links, .mgmt, .outbox, .acting, .draws, .regs, .mem, .weights, .log] (s.at now)
      ((((s.at now).consume p m).actAs k.cmd).writeMem (k.cmd.param 56 8) (m.body.drop 16)) :=
    State.writeMem_acts (State.actAs_acts (State.consume_acts .refl (by decide)) (by decide)) (by decide)
  obtain ⟨hanswer, hnone⟩ := State.closeColl_only howner ((hacts.colls (by decide)).trans hcolls) rfl
    ((State.cmd_congr (hacts.inflight (by decide))).trans ((s.at_cmd now _).trans hcmd)) 0 0 0
  have hlike : (((s.at now).consume p m).actAs k.cmd).Alike ((s.at now).taken p m k) :=
    .of_acts (ps := [.colls]) (State.updColl_acts .refl (by decide)) (by decide)
  refine runs_reaches_to (f := fun s => (s.at now).pipelineMessage p) hlands ⟨hanswer, hnone, ?_⟩
  exact ((State.closeColl_acts (ps := [.regs, .cmds, .colls, .turns, .lockage]) .refl (by decide)).mem (by decide)).trans
    (hlike.writeMem _ _).mem.symm

theorem permutePiece_lands (h : (s.at now).Meets p 0x0105 m k) (hpoison : m.poison = [])
    (hwindow : (((s.at now).taken p m k).windows k.cmd).any (fun w => within (fieldAt m.body 16 8) (m.body.drop 24).length w.1 w.2) = true) :
    Reaches (execPermutePiece p now s) fun t => t.mem = (((s.at now).taken p m k).writeMem (fieldAt m.body 16 8) (m.body.drop 24)).mem := by
  refine runs_mem ?_
  rw [State.permutePiece, h.onColl]
  dsimp only
  rw [State.landPiece, if_pos hwindow, hpoison]
  exact (State.settleColls_acts (ps := [.regs, .cmds, .colls, .turns, .lockage]) (State.updColl_acts .refl (by decide)) (by decide)).mem (by decide)

/-- A piece that no window takes is stale, and a mismatch. -/
theorem permutePiece_misses (h : (s.at now).Meets p 0x0105 m k)
    (hwindow : (((s.at now).taken p m k).windows k.cmd).any (fun w => within (fieldAt m.body 16 8) (m.body.drop 24).length w.1 w.2) = false) :
    Reaches (execPermutePiece p now s) fun t => t.mem = s.mem ∧ (t.regNat evColl).testBit 3 = true ∧ (t.regNat evColl).testBit 7 = true := by
  have htaken : Acts [.clock, .links, .mgmt, .outbox, .acting, .colls] s ((s.at now).taken p m k) :=
    Acts.trans (State.at_acts .refl (by decide)) (((s.at now).taken_acts p m k).more (by decide))
  have hmissed : Acts [.clock, .links, .mgmt, .outbox, .acting, .colls, .regs] s (((s.at now).taken p m k).staleColl.raise evColl 3) :=
    State.raise_acts (State.staleColl_acts (htaken.more (by decide)) (by decide)) (by decide)
  have hruns : (s.at now).permutePiece p = (((s.at now).taken p m k).staleColl.raise evColl 3).settleColls := by
    rw [State.permutePiece, h.onColl]
    dsimp only
    rw [State.landPiece, if_neg (by rw [hwindow]; decide)]
  have hflags : (((s.at now).taken p m k).staleColl.raise evColl 3).settleColls.regNat evColl =
      (((s.at now).taken p m k).staleColl.raise evColl 3).regNat evColl := by
    refine State.settleColls_evColl fun x hx => ?_
    rw [(State.raise_acts (ps := [.regs, .outbox]) (State.staleColl_acts .refl (by decide)) (by decide)).colls (by decide),
      State.taken_colls h.2.1, List.mem_singleton] at hx
    rw [hx]
    exact h.2.2.2.2.2.1
  have hsettled : Acts [.clock, .links, .mgmt, .outbox, .acting, .colls, .regs, .cmds, .turns, .lockage] s
      (((s.at now).taken p m k).staleColl.raise evColl 3).settleColls :=
    State.settleColls_acts (hmissed.more (by decide)) (by decide)
  generalize hu : (((s.at now).taken p m k).staleColl.raise evColl 3).settleColls = u at hruns hflags hsettled
  have hthree : (u.regNat evColl).testBit 3 = true := by rw [hflags]; exact State.raise_evColl (by decide) _
  have hseven : (u.regNat evColl).testBit 7 = true := by
    rw [hflags, State.raise_evColl_ne (by decide) (by decide) (by decide)]
    exact State.raise_evColl (by decide) _
  refine runs_reaches_to (f := fun s => (s.at now).permutePiece p) hruns ⟨hsettled.mem (by decide), ?_⟩
  rw [← hsettled.spine (by decide)]
  exact ⟨hthree, hseven⟩

/-! ## Vote records (R412, R415) -/

/-- A key that is put is the one found. -/
theorem State.putVote_voteKey (s : State) (g : Nat) (v : VoteKey) : (s.putVote g v).voteKey g v.kind v.step v.round = v := by
  rw [State.voteKey, State.putVote, State.updGroup_group_same, List.take_succ_cons,
    List.find?_cons_of_pos (by simp [VoteKey.is]), Option.getD_some]

/-- A key bears the name it is asked by. -/
theorem State.voteKey_name (s : State) (g kind step round : Nat) :
    (s.voteKey g kind step round).kind = kind ∧ (s.voteKey g kind step round).step = step ∧ (s.voteKey g kind step round).round = round := by
  rw [State.voteKey]
  cases hfound : (s.group g).votes.find? fun k => k.is kind step round with
  | none => exact ⟨rfl, rfl, rfl⟩
  | some v => simpa [VoteKey.is, and_assoc] using List.find?_some hfound

theorem State.voteKey_congr {t : State} (h : t.groups = s.groups) (g kind step round : Nat) : t.voteKey g kind step round = s.voteKey g kind step round := by
  rw [State.voteKey, State.voteKey, State.group, State.group, h]

theorem State.updColl_groups (s : State) (c : Cmd) (f : Coll → Coll) : (s.updColl c f).groups = s.groups := rfl

theorem State.taken_groups (s : State) (p : Nat) (m : Msg) (k : Coll) : (s.taken p m k).groups = s.groups :=
  (State.updColl_groups _ _ _).trans
    ((State.actAs_acts (ps := [.links, .mgmt, .outbox, .acting]) (State.consume_acts .refl (by decide)) (by decide)).groups (by decide))

/-- The records that a row's function makes of a key are those the row makes. -/
theorem runs_records {f : State → State} {g kind step round : Nat} {l : List (Nat × Bool × Nat)}
    (h : ((f s).voteKey g kind step round).records = l) : Reaches (runs f s) fun t => (t.voteKey g kind step round).records = l := runs_reaches h

/-- The key of a record, with that record. -/
def State.votedKey (s : State) (m : Msg) : VoteKey :=
  let v := s.voteKey m.head.group 0 m.vote.step m.vote.round
  { v with records := v.records ++ [(m.vote.member, m.vote.vote, m.vote.max)] }

/-- A new record that does not complete its key is held and passed on. -/
theorem State.voteRecord_holds (hmsg : (s.port p).inbox.find? (fun m => m.cls == 0x0103 && decide (m.context ≤ (s.group m.head.group).lastSeq)) = some m)
    (hcarrier : s.voteCarrier m = some k) (hdigest : m.head.digest = k.cmd.digest) (hkind : m.vote.kind = 0)
    (hnew : (s.voteKey m.head.group 0 m.vote.step m.vote.round).records.any (fun x => x.1 == m.vote.member) = false)
    (hfew : (s.voteKey m.head.group 0 m.vote.step m.vote.round).records.length + 1 < s.members k.cmd) :
    s.voteRecord p = ((s.taken p m k).putVote m.head.group (s.votedKey m)).relay p k.cmd.vc 0x0103 m m.body := by
  have hsame (g : Nat) : (s.taken p m k).voteKey g 0 m.vote.step m.vote.round = s.voteKey g 0 m.vote.step m.vote.round :=
    State.voteKey_congr (s.taken_groups p m k) _ _ _ _
  unfold State.voteRecord
  split
  next hnone => cases hnone.symm.trans hmsg
  next x hsome =>
    obtain rfl := Option.some.inj (hsome.symm.trans hmsg)
    rw [hcarrier]
    dsimp only
    rw [if_neg (by exact fun hbad => of_decide_eq_true (Bool.and_eq_true_iff.mp hbad).1 hdigest), ← State.taken, hkind, hsame,
      if_neg (by exact fun hold => Bool.false_ne_true (hnew.symm.trans hold)), if_neg (by simp), State.tallyVote, if_pos]
    · rfl
    · exact Bool.or_eq_true_iff.mpr (.inr (decide_eq_true (by rw [List.length_append]; exact hfew)))

theorem voteRecord_holds (hmsg : (s.port p).inbox.find? (fun m => m.cls == 0x0103 && decide (m.context ≤ (s.group m.head.group).lastSeq)) = some m)
    (hcarrier : s.voteCarrier m = some k) (hdigest : m.head.digest = k.cmd.digest) (hkind : m.vote.kind = 0)
    (hnew : (s.voteKey m.head.group 0 m.vote.step m.vote.round).records.any (fun x => x.1 == m.vote.member) = false)
    (hfew : (s.voteKey m.head.group 0 m.vote.step m.vote.round).records.length + 1 < s.members k.cmd) :
    Reaches (execVoteRecord p now s) fun t =>
      (t.voteKey m.head.group 0 m.vote.step m.vote.round).records =
        (s.voteKey m.head.group 0 m.vote.step m.vote.round).records ++ [(m.vote.member, m.vote.vote, m.vote.max)] := by
  have hholds : (s.at now).voteRecord p =
      (((s.at now).taken p m k).putVote m.head.group ((s.at now).votedKey m)).relay p k.cmd.vc 0x0103 m m.body := by
    obtain ⟨clock, hat⟩ := s.at_clock now
    rw [hat]
    exact State.voteRecord_holds hmsg hcarrier hdigest hkind hnew hfew
  have hkey : (s.at now).votedKey m = s.votedKey m := by
    obtain ⟨clock, hat⟩ := s.at_clock now
    rw [hat]
    rfl
  have hkept : ((((s.at now).taken p m k).putVote m.head.group ((s.at now).votedKey m)).relay p k.cmd.vc 0x0103 m m.body).groups =
      (((s.at now).taken p m k).putVote m.head.group (s.votedKey m)).groups := by
    rw [hkey]
    exact (State.relay_acts (ps := [.regs, .links, .mgmt, .outbox]) .refl (by decide)).groups (by decide)
  obtain ⟨hk, hstep, hround⟩ := s.voteKey_name m.head.group 0 m.vote.step m.vote.round
  have hfound := ((s.at now).taken p m k).putVote_voteKey m.head.group (s.votedKey m)
  rw [show (s.votedKey m).kind = 0 from hk, show (s.votedKey m).step = m.vote.step from hstep,
    show (s.votedKey m).round = m.vote.round from hround] at hfound
  refine runs_records (f := fun s => (s.at now).voteRecord p) ?_
  rw [hholds, State.voteKey_congr hkept, hfound]
  rfl

/-- A record of no vote here is stale. -/
theorem State.voteRecord_stale (hmsg : (s.port p).inbox.find? (fun m => m.cls == 0x0103 && decide (m.context ≤ (s.group m.head.group).lastSeq)) = some m)
    (hcarrier : s.voteCarrier m = none) (hvotes : (s.group m.head.group).votes = []) : s.voteRecord p = (s.consume p m).staleColl := by
  have hunknown : ((s.group m.head.group).votes.any fun k => k.is m.vote.kind m.vote.step m.vote.round) = false := by rw [hvotes]; rfl
  unfold State.voteRecord
  split
  next hnone => cases hnone.symm.trans hmsg
  next x hsome =>
    obtain rfl := Option.some.inj (hsome.symm.trans hmsg)
    rw [hcarrier]
    exact if_pos (congrArg (!·) hunknown)

theorem voteRecord_unknown (hmsg : (s.port p).inbox.find? (fun m => m.cls == 0x0103 && decide (m.context ≤ (s.group m.head.group).lastSeq)) = some m)
    (hcarrier : s.voteCarrier m = none) (hvotes : (s.group m.head.group).votes = []) :
    Reaches (execVoteRecord p now s) fun t => (t.port p).inbox = (s.port p).inbox.erase m ∧ (t.regNat evColl).testBit 7 = true := by
  have hstale : (s.at now).voteRecord p = ((s.at now).consume p m).staleColl := by
    obtain ⟨clock, hat⟩ := s.at_clock now
    rw [hat]
    exact State.voteRecord_stale hmsg hcarrier hvotes
  obtain ⟨t, hnext, hinbox, -, hflag⟩ := runs_stale (f := fun s => (s.at now).voteRecord p) hstale
  exact ⟨t, hnext, hinbox, hflag⟩

/-! ## States that take a message up alike -/

section
variable {t : State}

theorem State.Alike.actAs (h : s.Alike t) (c : Cmd) : (s.actAs c).Alike (t.actAs c) :=
  ⟨h.spine, h.draws, rfl, h.segChanges, h.panel, h.mem, h.oldRegs, h.reg⟩

theorem State.Alike.taken (h : s.Alike t) (p : Nat) (m : Msg) (k : Coll) : (s.taken p m k).Alike (t.taken p m k) := by
  have hconsumed : (s.consume p m).Alike (t.consume p m) :=
    (h.left (State.consume_acts (ps := [.links, .mgmt, .outbox]) .refl (by decide)) (by decide)).right
      (State.consume_acts (ps := [.links, .mgmt, .outbox]) .refl (by decide)) (by decide)
  exact ((hconsumed.actAs k.cmd).left (State.updColl_acts (ps := [.colls]) .refl (by decide)) (by decide)).right
    (State.updColl_acts (ps := [.colls]) .refl (by decide)) (by decide)

theorem State.Alike.readStatus (h : s.Alike t) (a n : Nat) : t.readStatus a n = s.readStatus a n := by
  have hparity : t.parityIn a n = s.parityIn a n := by simp only [State.parityIn, h.phys, h.mem]
  simp only [State.readStatus, h.unitsOf, h.unitStatus, hparity]

theorem State.Alike.bytesAt (h : s.Alike t) (a n : Nat) : t.bytesAt a n = s.bytesAt a n := by simp only [State.bytesAt, h.phys, h.mem]

theorem State.Alike.ownBlock (h : s.Alike t) (c : Cmd) (sh i : Nat) : t.ownBlock c sh i = s.ownBlock c sh i := by
  simp only [State.ownBlock, State.gtAt, h.readStatus, h.bytesAt]

theorem State.Alike.putPiece (h : s.Alike t) (src dst base total first count : Nat) (bs : List Byte) :
    (s.putPiece src dst base total first count bs).Alike (t.putPiece src dst base total first count bs) :=
  ((h.writeMem _ _).ite (((h.writeMem _ _).writeMem _ _).ite (h.writeMem _ _))).ite (h.writeMem _ _)

/-- The ring's idling is no part of what a write reads. -/
theorem State.alike_ringing (s : State) : s.Alike s.ringing := .of_acts (ps := [.power]) (Acts.set_power .refl (by decide)) (by decide)

end

/-! ## Pieces of a GATHER (R403, R404) -/

/-- A piece of the version asked for is put in its place; relaying and settling follow. -/
theorem State.gatherPiece_puts (h : s.Meets p 0x0102 m k) (hversion : k.cmd.param 52 4 = 0 ∨ fieldAt m.body 16 4 = k.cmd.param 52 4)
    (hpoison : m.poison = []) :
    (s.gatherPiece p).mem = ((s.taken p m k).putPiece (k.cmd.param 48 1) (k.cmd.param 49 1) (k.cmd.param 72 8)
      (s.members k.cmd * k.cmd.param 56 8) (m.head.shard * k.cmd.param 56 8 + m.head.first) m.head.count (m.body.drop 20)).mem := by
  have hpart : ¬(k.cmd.param 52 4 ≠ 0 && fieldAt m.body 16 4 ≠ k.cmd.param 52 4) = true := by
    rcases hversion with hany | hsame
    · simp [hany]
    · simp [hsame]
  rw [State.gatherPiece, h.onColl]
  dsimp only
  rw [if_neg hpart, hpoison, (s.taken_acts p m k).members (by decide) (by decide)]
  dsimp only [List.foldl_nil]
  refine (State.settleColls_acts (ps := [.regs, .cmds, .links, .colls, .turns, .lockage, .mgmt, .outbox]) (Acts.ite ?_ ?_) (by decide)).mem (by decide)
  · exact State.sendColl_acts (State.updColl_acts .refl (by decide)) (by decide)
  · exact State.updColl_acts .refl (by decide)

theorem gatherPiece_puts (h : (s.at now).Meets p 0x0102 m k) (hversion : k.cmd.param 52 4 = 0 ∨ fieldAt m.body 16 4 = k.cmd.param 52 4)
    (hbeats : k.cmd.param 48 1 = k.cmd.param 49 1 ∨ s.beating = true) (hpoison : m.poison = []) :
    Reaches (execGatherPiece p now s) fun t =>
      t.mem = (((s.at now).taken p m k).putPiece (k.cmd.param 48 1) (k.cmd.param 49 1) (k.cmd.param 72 8)
        (s.members k.cmd * k.cmd.param 56 8) (m.head.shard * k.cmd.param 56 8 + m.head.first) m.head.count (m.body.drop 20)).mem := by
  have hmembers : (s.at now).members k.cmd = s.members k.cmd :=
    (State.at_acts (ps := [.clock]) .refl (by decide)).members (by decide) (by decide) _
  have hwidens : (s.at now).widens p = (k.cmd.param 48 1 != k.cmd.param 49 1) := by
    rw [State.widens, h.1]
    dsimp only
    split
    next x hsome =>
      obtain rfl := Option.some.inj (hsome.symm.trans h.collAt_head)
      rfl
    next hnone => cases hnone.symm.trans h.collAt_head
  have hplain := State.gatherPiece_puts h hversion hpoison
  rw [hmembers] at hplain
  refine runs_mem ?_
  dsimp only
  by_cases hsame : k.cmd.param 48 1 = k.cmd.param 49 1
  · rw [if_neg (by rw [hwidens, hsame]; simp), hplain]
  · rw [if_pos (by rw [hwidens]; simpa using hsame), State.onRing_beating ((s.at_beating now).trans (hbeats.resolve_left hsame))]
    have hring := State.gatherPiece_puts (s := (s.at now).ringing) h hversion hpoison
    rw [hring, show (s.at now).ringing.members k.cmd = s.members k.cmd from hmembers]
    exact (((s.at now).alike_ringing.taken p m k).putPiece ..).mem

theorem gatherPiece_stale (hmsg : (s.at now).collMessage p 0x0102 = some m) (hnone : (s.at now).collAt m.head.group m.context = none) :
    Reaches (execGatherPiece p now s) fun t => (t.port p).inbox = (s.port p).inbox.erase m ∧ t.mem = s.mem ∧ (t.regNat evColl).testBit 7 = true := by
  refine runs_stale (now := now) ?_
  have hwidens : (s.at now).widens p = false := by
    rw [State.widens, hmsg]
    dsimp only
    split
    next x hsome => cases hsome.symm.trans hnone
    next => rfl
  dsimp only
  rw [if_neg (by rw [hwidens]; decide), State.gatherPiece, State.onColl_stale hmsg hnone]

/-! ## Partial sums of a chain (R407, R410) -/

/-- No engine's adder is in doubt: the sum is the reference's. -/
theorem State.addReceived_sum {c : Cmd} {r own b : GtBlock} (hupset : s.units.upset = []) (hsum : addChain r own = .ok b) :
    s.addReceived c r own = (.ok b, s) := by
  have hnone : (s.streamEngines c).find? s.units.upset.contains = none := by simp [hupset]
  rw [State.addReceived, hsum]
  dsimp only
  rw [hnone]

/-- A final block of a shard is written at its place. -/
theorem State.putFinal_mem {c : Cmd} (hmode : c.param 49 1 = 0) (first : Nat) (b : GtBlock) :
    (s.putFinal c first [b]).mem = (s.writeMem (c.param 72 8 + 132 * first) b.bytes).mem := by
  unfold State.putFinal
  extract_lets mode idx put t
  have hput : t = s.writeMem (c.param 72 8 + 132 * (first + 0)) b.bytes := by
    change put s (0, b) = _
    exact if_pos hmode
  rw [if_neg (show ¬mode = 3 by unfold mode; rw [hmode]; decide), ← Nat.add_zero first, ← hput]
  clear_value t
  split
  · rfl
  · rfl

/-- A partial sum of one block at the shard's owner: the sum with the own block is final. -/
theorem State.chainMessage_final {r own b : GtBlock} (h : s.Meets p 0x0101 m k) (hupset : s.units.upset = []) (hpoison : m.poison = [])
    (hcount : m.head.count = 1) (hread : gtRead (m.head.format == 0x19) (slice m.body 16 (strideOf m.head.format)) = some r)
    (hown : (s.taken p m k).ownBlock k.cmd m.head.shard m.head.first = .ok own) (hsum : addChain r own = .ok b)
    (howner : m.head.shard = s.me k.cmd) :
    s.chainMessage p = ((((s.taken p m k).add64 (blkKeeper + 0x2118) 1).passBlocks k.cmd m.head.shard 1).putFinal k.cmd m.head.first [b]).settleColls := by
  have hclean : (s.taken p m k).units.upset = [] := by rw [(s.taken_acts p m k).units (by decide), hupset]
  have hadd := State.addReceived_sum (c := k.cmd) hclean hsum
  rw [State.chainMessage, h.onColl]
  beta_reduce
  extract_lets c x stride one sums t
  have hx : x = m.head := rfl
  clear_value x
  subst hx
  have hsums : sums = (.ok [b], s.taken p m k) := by
    unfold sums
    rw [hcount]
    simp only [List.range_one, List.foldl_cons, List.foldl_nil, one, stride, c, Nat.zero_mul, Nat.add_zero, hread, hown, hadd, Except.map,
      List.nil_append]
  rw [if_neg (by simp [hpoison])]
  simp only [t, hsums, hcount, c]
  rw [if_pos (howner.trans ((s.taken_acts p m k).me (by decide) (by decide) _).symm)]

theorem chainMessage_final {r own b : GtBlock} (h : (s.at now).Meets p 0x0101 m k) (hbeats : s.beating = true) (hupset : s.units.upset = [])
    (hpoison : m.poison = []) (hcount : m.head.count = 1)
    (hread : gtRead (m.head.format == 0x19) (slice m.body 16 (strideOf m.head.format)) = some r)
    (hown : ((s.at now).taken p m k).ownBlock k.cmd m.head.shard m.head.first = .ok own) (hsum : addChain r own = .ok b)
    (howner : m.head.shard = s.me k.cmd) (hmode : k.cmd.param 49 1 = 0) :
    Reaches (execChainMessage p now s) fun t =>
      t.mem = (((s.at now).taken p m k).writeMem (k.cmd.param 72 8 + 132 * m.head.first) b.bytes).mem := by
  have hlike := (s.at now).alike_ringing.taken p m k
  have hat : Acts [.clock] s (s.at now) := State.at_acts .refl (by decide)
  have hme : (s.at now).ringing.me k.cmd = s.me k.cmd := hat.me (by decide) (by decide) _
  have hclean : (s.at now).ringing.units.upset = [] := by
    rw [show (s.at now).ringing.units = s.units from hat.units (by decide), hupset]
  have hfinal := State.chainMessage_final (s := (s.at now).ringing) h hclean hpoison hcount hread ((hlike.ownBlock ..).trans hown) hsum (howner.trans hme.symm)
  have hpassed : ((s.at now).taken p m k).Alike (((((s.at now).ringing.taken p m k).add64 (blkKeeper + 0x2118) 1).passBlocks k.cmd m.head.shard 1)) :=
    ((hlike.setUnread (by decide) _).setUnread (by decide) _).right (State.passBlocks_acts (ps := [.colls]) .refl (by decide)) (by decide)
  refine runs_mem ?_
  dsimp only
  rw [h.1]
  dsimp only
  rw [if_pos (by exact congrArg Option.isSome h.collAt_head), State.onRing_beating ((s.at_beating now).trans hbeats), hfinal,
    (State.settleColls_acts (ps := [.regs, .cmds, .colls, .turns, .lockage]) .refl (by decide)).mem (by decide), State.putFinal_mem hmode]
  exact (hpassed.writeMem _ _).mem

theorem chainMessage_stale (hmsg : (s.at now).collMessage p 0x0101 = some m) (hnone : (s.at now).collAt m.head.group m.context = none) :
    Reaches (execChainMessage p now s) fun t => (t.port p).inbox = (s.port p).inbox.erase m ∧ t.mem = s.mem ∧ (t.regNat evColl).testBit 7 = true := by
  refine runs_stale (now := now) ?_
  dsimp only
  rw [hmsg]
  dsimp only
  rw [if_neg (by exact fun hsome => Bool.false_ne_true ((congrArg Option.isSome hnone).symm.trans hsome)), State.chainMessage, State.onColl_stale hmsg hnone]

end

/-- Settles O29: a message of a past collective leaves its port's list and counts as stale; one of the open collective acts on the state in
which it is taken up. A widening, or an addition, sees the ring's idling besides, which no write depends on. -/
theorem collectiveEventsComplete : Obligations.CollectiveEventsComplete := by
  unfold Obligations.CollectiveEventsComplete
  refine ⟨?_, fun _ _ _ _ => chainMessage_stale, fun _ _ _ _ _ => gatherPiece_puts, fun _ _ _ _ => gatherPiece_stale, fun _ _ _ _ _ => voteRecord_holds,
    fun _ _ _ _ => voteRecord_unknown, fun _ _ _ _ _ _ => pipelineMessage_lands, fun _ _ _ _ _ => permutePiece_lands,
    fun _ _ _ _ _ => permutePiece_misses, fun _ _ _ _ => abortNotice_early, fun _ _ _ _ _ _ => abortNotice_ends, ?_⟩
  · intro s p now m k r own b h hbeats hupset hpoison _ hcount hread hown hsum howner hmode
    exact chainMessage_final h hbeats hupset hpoison hcount hread hown hsum howner hmode
  · intro s g seq now k d hcolls hgroup hseq hopen howner hcmd hlate
    exact collDeadline_passes hcolls hgroup hseq hopen howner hcmd hlate

end Sys2Proof.Machine
end
